-- ==== Sys2Proof/Word.lean ====
section
/-! DEFINITION. The word types of the register map, of descriptors and of frames (R5 to R7). -/

namespace Sys2Proof

/-- One byte of a frame, a descriptor or a memory. -/
abbrev Byte := BitVec 8

/-- A 32-bit register, signal or parameter word. -/
abbrev Word := BitVec 32

/-- A 64-bit register, instant or decimated word. -/
abbrev DWord := BitVec 64

/-- A frame, a payload, an image: bytes in the order of their addresses. -/
abbrev Bytes := List Byte

/-- A byte offset in BAR0, which is 4 MiB (R36). -/
abbrev Offset := BitVec 22

end Sys2Proof
end

