-- ==== Sys2Proof/Machine/StateGfm.lean ====
section
/-! DEFINITION. The parts of an engine's state that a resynchronising standby takes over whole: profile channels, a running fade and
the grid-forming state of a template. Every field names what it holds at reset by its default. -/

namespace Sys2Proof.Machine

/-- The phase of a profile channel (R112, Table PRF-8). -/
inductive PrfPhase where
  | rest | move | brake
  deriving DecidableEq, Repr

/-- A profile channel (R112, R122): position in Q4.60, velocity and acceleration in Q16.48, target in Q4.28. -/
structure PrfChan where
  p       : Int := 0
  v       : Int := 0
  a       : Int := 0
  tgt     : Int := 0
  phase   : PrfPhase := .rest
  brkFrom : Int := 0
  /-- START of Table PRF-1, true in the period of a start out of REST. -/
  start   : Bool := false
  deriving DecidableEq, Repr

/-- A running cross-fade (R102): target bank (true = B), length and the coefficients in use at B_s. -/
structure Fade where
  target : Bool
  len    : Nat
  n      : Nat
  src    : List Word
  deriving DecidableEq, Repr

/-! ### Grid-forming templates -/

/-- The base sub-mode (Table GFM-5, BASE). -/
inductive BaseMode where
  | blackstart | island | grid
  deriving DecidableEq, Repr

/-- A resonant section: the stored outputs in Q4.60 and the previous input. -/
structure ResSec where
  y1 : Int := 0
  y2 : Int := 0
  x1 : Int := 0
  deriving DecidableEq, Repr

/-- The state of a Galuholt template (R45 to R59). -/
structure GfmState where
  /-- ω in Q4.60 (R46). -/
  w         : Int := 0
  /-- The 64-bit angle accumulator (R45). -/
  th64      : DWord := 0
  pf        : Int := 0
  qf        : Int := 0
  e         : Int := 0
  base      : BaseMode := .blackstart
  inMode    : Bool := false
  rt        : Bool := false
  cl        : Bool := false
  recovery  : Bool := false
  brk       : Bool := false
  brkCand   : Bool := false
  brkCount  : Nat := 0
  pllLock   : Bool := false
  thPll     : Word := 0
  wPll      : Int := 0
  pllRun    : Nat := 0
  pllTh     : DWord := 0
  pllInt    : Int := 0
  vgPos     : Int := 0
  vgAng     : Word := 0
  pjDeg     : Nat := 0
  pjWait    : Nat := 0
  /-- The measured value was beyond PJ_RT, and beyond ROCOF_RT, in the period before: a detection is a first crossing (R55). -/
  pjOver    : Bool := false
  rocofOver : Bool := false
  /-- The predicted angle that a phase jump is measured from, and its increment in a period. -/
  pjFrom    : Word := 0
  pjStep    : Word := 0
  rocofSeen : Bool := false
  pjSeen    : Bool := false
  clSeen    : Bool := false
  rtSeen    : Bool := false
  /-- Instants since when no Table GFM-3 condition, and no current-limit condition, has held. -/
  rtQuiet   : Option Nat := none
  clQuiet   : Option Nat := none
  recUntil  : Option Nat := none
  vBand     : Bool := false
  /-- Time-outs that have passed since the latest boundary: RIDE_THROUGH, CURRENT_LIMITED and RECOVERY clear at the next one (R57). -/
  rtOut     : Bool := false
  clOut     : Bool := false
  recOut    : Bool := false
  startSeen : Bool := false
  iref      : Int × Int := (0, 0)
  iLim      : Int := 0
  u0        : Int × Int := (0, 0)
  u1        : Int × Int := (0, 0)
  resV      : List (ResSec × ResSec) := []
  resI0     : ResSec × ResSec := ({}, {})
  resI1     : ResSec × ResSec := ({}, {})
  vgHist    : List (Int × Int) := []
  vcHist    : List (Int × Int) := []
  fHist     : List Int := []
  vcNeg     : Int × Int := (0, 0)
  vgNeg     : Int × Int := (0, 0)
  /-- A stop request of Table GFM-4: cause 0x02 LIVE_BUS or 0x03 NO_SYNC. -/
  stopReq   : Option Nat := none
  deriving DecidableEq, Repr

/-! ### Resynchronisation -/

/-- The snapshot of one engine at a boundary B_j (Table TWN-6, step 3): the index j, its signal words and block state, the crosslink
words published last, its active bank, its breaker command, its fade, its profile channels and its template. -/
structure EngineSnap where
  idx     : DWord
  signals : List Word
  bst     : List DWord
  cross   : List Word
  bankB   : Bool
  brkCmd  : Bool
  fade    : Option Fade
  prf     : List PrfChan
  gfm     : GfmState
  deriving DecidableEq, Repr

end Sys2Proof.Machine
end

