-- ==== Sys2Proof/Syntax.lean ====
section
/-! DEFINITION. The commands of the block: one constructor per row of the table of operations and events, in the table's order,
with the operands each of them brings from outside (an access's address and value, a packet's bytes, a measured level). -/

namespace Sys2Proof

/-- The width of a BAR0 access (R11). -/
inductive AccessWidth where
  | w8 | w16 | w32 | w64
  deriving DecidableEq, Repr

/-- Who sends staging traffic: the host is master 0, the management port master 1 (R365). -/
inductive Master where
  | host | mgmt
  deriving DecidableEq, Repr

/-- The two channels of safe gate inhibit. -/
inductive SafCh where
  | a | b
  deriving DecidableEq, Repr

/-- The header fields of an accepted command that its action and its completion use (Table CMD-2). Ring 128 is the management
port (R338). -/
structure Src where
  ring    : Fin 129
  seq     : DWord
  applyAt : DWord
  keyId   : BitVec 16
  irq     : Bool
  deriving DecidableEq, Repr

/-- What a link training found (Table GDL-7): lock of the interface, a reversed pair in either direction, the strapped stack
number it answered with, the sixteen echo round trips and its turnaround, in ns. -/
structure TrainResult where
  locked   : Bool
  reversed : Bool
  stackId  : Nat
  trips    : List Nat
  tta      : Nat
  deriving DecidableEq, Repr

/-- What the boot chain of Table AUT-10 met outside the state: for each boot-loader copy and each firmware slot, whether NAND gave its
image back without error. -/
structure BootMedia where
  loaderOk0 : Bool
  loaderOk1 : Bool
  slotOk0  : Bool
  slotOk1  : Bool
  deriving DecidableEq, Repr

/-- What the PHY and the SFP cage of an Ethernet port show: link, and the inputs ETH_LOS_p and ETH_MODABS_N_p (Table ELE-2). -/
structure PortLine where
  link   : Bool
  los    : Bool
  modAbs : Bool
  deriving DecidableEq, Repr

/-- What a RESYNC frame brings to the standby (step 2 and step 3 of Table TWN-6). `config` gives the committed registers by their
place in the register file. A grant is the payload of the latest one of a ring or plant key, with the anchor that signed it. -/
inductive ResyncItem where
  | config (regs : List (Nat × DWord))
  | spore (slot : BitVec 8) (action : Byte) (lateOk : Bool) (instant : DWord) (args : Bytes)
  | image (e : Fin 8) (bytes : Bytes)
  | grant (ring : Fin 129) (plant : Bool) (anchor : BitVec 4) (payload : Bytes)
  | replay (ring : Fin 129) (lastSeq : DWord)
  | opState (code : BitVec 4)
  | periodIdx (e : Fin 8) (idx : DWord)
  | snapshot (e : Fin 8) (snap : Machine.EngineSnap)
  deriving DecidableEq, Repr

/-- Where an access goes: to an offset of BAR0, or to one in the doorbell page of a ring in BAR2 (R311). -/
structure BusAddr where
  page : Option (Fin 128)
  off  : Offset
  deriving DecidableEq, Repr

/-- A RESYNC frame: what it brings, and whether its CRC holds (R430). -/
structure ResyncFrame where
  item  : ResyncItem
  crcOk : Bool
  deriving DecidableEq, Repr

/-- A command of the block. -/
inductive Instr where
  -- register accesses
  | registerWrite (a : BusAddr) (w : AccessWidth) (v : DWord)
  | heldLowerWordWrite (off : Offset) (v : Word)
  | captureRead (a : BusAddr) (w : AccessWidth)
  | readClear (off : Offset) (w : AccessWidth)
  | rwsStageWrite (m : Master) (off : Offset) (w : AccessWidth) (v : DWord)
  -- the control period
  | loadPoint (t : Fin 16) (half : Bool)
  | engineStart (e : Fin 8)
  | publish (e : Fin 8)
  | graphComplete (e : Fin 8)
  | engineDeadlineMiss (e : Fin 8)
  | engineEccError (e : Fin 8) (corrected : Bool)
  -- grid-forming
  | breakerStateAccepted (e : Fin 8) (closed : Bool)
  | rtExitTimeout (e : Fin 8)
  | clExitTimeout (e : Fin 8)
  | recoveryEnd (e : Fin 8)
  | gfmSetTargets (c : Src) (p : Bytes)
  | gfmSetBreaker (c : Src) (p : Bytes)
  | gfmClearFlags (c : Src) (p : Bytes)
  -- engines
  | frdGraphLoad (c : Src) (p : Bytes) (image : Option Bytes)
  | frdBankSwap (c : Src) (p : Bytes)
  | frdSatReadClear (c : Src) (p : Bytes)
  | fadeEnd (e : Fin 8)
  | mboxOutCapture (e : Fin 8)
  | prfSetTarget (c : Src) (p : Bytes)
  | oscDetect (e : Fin 8) (i : Fin 16)
  | oscTimeout (e : Fin 8) (i : Fin 16)
  -- measurement
  | decimationDump (g : Fin 20)
  | stuckRunStart (c : Fin 160)
  | stuckRunEnd (c : Fin 160)
  | linkSourceResume (c : Fin 160)
  | comparatorActivate (c : Fin 160)
  | comparatorDeactivate (c : Fin 160)
  | fastPathMaskEnd (c : Fin 160)
  | sequenceTrigger
  | urgentRequest (input : Fin 16)
  | sarConversionDone (microvolts : Int)
  -- pulse-width generation
  | timebaseFirstZero (t : Fin 16)
  | compareEdge (n : Fin 192) (rising : Bool)
  | deadTimeExpiry (n : Fin 192)
  | syncInPulse
  | syncInMiss
  | innerTurnOff (k : Fin 16)
  -- gate links
  | gaConfirm (n : Fin 96) (level : Bool)
  | ackTimeout (n : Fin 96)
  | ackMismatch (n : Fin 96)
  | gcFault (n : Fin 96) (differs : Bool)
  | fltTrip (k : Fin 8) (low : Bool)
  | dsrRingCycle (k : Fin 8) (words : List Word)
  | gdlOstStart (mask : BitVec 16)
  | gdlOstRun (c : Src) (p : Bytes)
  | gdlTrain (mask : BitVec 16)
  | gdlLinkTrain (c : Src) (p : Bytes)
  | linkTrainingComplete (k : Fin 16) (r : TrainResult)
  | edgeFrameSend (k : Fin 16)
  | loadSend (k : Fin 16)
  | pullInFrameSend (k : Fin 16)
  | returnFrame (k : Fin 16) (frame : Bytes)
  -- trips
  | tripInActive (i : Fin 16) (active : Bool)
  | trpTrip (c : Src) (p : Bytes)
  | trpClear (c : Src) (p : Bytes)
  | clearEvaluation
  | trpRecRead
  | tripClockNtSet
  -- safe gate inhibit
  | safetyInputChange (k : Fin 4) (lineB : Bool) (level : Bool)
  | discrepancy (k : Fin 4)
  | offPulseStart (ch : SafCh)
  | offPulseEnd (ch : SafCh)
  | readbackCheck (ch : SafCh) (level : Bool)
  | crossFault (observer : SafCh)
  | safetyLockstepMismatch
  | psetMismatchTimeout
  -- clock synthesis
  | referenceComparison (errorPs : Int) (present qualified : Bool)
  | referenceLost
  | adpllLockTimeout
  | tcxoLoss
  | clkReacquire (c : Src) (p : Bytes)
  | outputRestart
  -- network time
  | ntIncrWrite (v : DWord)
  | ntValidSet
  | ntValidClr
  | ntSet (c : Src) (p : Bytes)
  | ntSporeLoad (c : Src) (p : Bytes)
  | ntSporeCancel (c : Src) (p : Bytes)
  | sporeDue
  | sporeExecute
  | ntSporeRecRead
  | ppsOutPulse
  | ethFrameReceive (port : Fin 2) (frame : Bytes) (good : Bool)
  | ethFrameTransmit (port : Fin 2)
  | ethTxtsRead (port : Fin 2)
  | ptmPublish
  | ptmHoldoffEnd
  | ptmReceive (payload : Bytes)
  | ptmSenderExpiry (unitId : BitVec 16)
  -- command rings
  | doorbell (ring : Fin 128) (v : Word)
  | cqHeadWrite (ring : Fin 128) (v : Word)
  | descriptorFetch (ring : Fin 128) (desc : Option Bytes) (payload sig : Bytes)
  | payloadReadFail (ring : Fin 128) (seq : DWord)
  | workItemDispatch (unit : Fin 7)
  | parse (core : Fin 2)
  | verify (unit : Fin 7)
  | place (core : Fin 2)
  | commandTimeout (ring : Fin 128) (seq : DWord)
  | ringEnable (ring : Fin 128)
  | ringDisable (ring : Fin 128)
  | ringDrained (ring : Fin 128)
  -- authentication
  | keyGrant (c : Src) (p : Bytes)
  | grantUnwrap (ring : Fin 129)
  | keyRetire (c : Src) (p : Bytes)
  | anchorInstall (c : Src) (p : Bytes)
  | anchorRevoke (c : Src) (p : Bytes)
  | plantKeyGrant (c : Src) (p : Bytes)
  | tamperDetection (source : Fin 10)
  -- staging
  | stgToken (c : Src) (p : Bytes)
  | tokenLeaseExpiry
  | stgWrite (c : Src) (p : Bytes)
  | stgCheck (c : Src) (p : Bytes)
  | stgCommit (c : Src) (p : Bytes)
  | stgSave (c : Src) (p : Bytes) (block : Option Bytes)
  | commitApply
  -- operating states
  | opsArm (c : Src)
  | opsStart (c : Src) (p : Bytes)
  | opsStop (c : Src) (p : Bytes)
  | opsDisarm (c : Src)
  | opsHalt (c : Src)
  | armLost
  | offSequenceComplete
  | watchdogExpiry
  | coreLockstepMismatch
  | memEccError
  | regulatorFault
  | logRead (c : Src) (p : Bytes)
  | imgFwLoad (c : Src) (p : Bytes) (image : Option Bytes)
  | imgFwActivate (c : Src) (p : Bytes)
  | powerOnResetRelease (retentionOk : Bool)
  | bootComplete (media : BootMedia)
  | selftestComplete (failed : BitVec 12)
  | vinLoss
  | holdUpEnd
  | vmgtLoss
  | logFlush
  | nandRefresh (block : Nat) (correctedBits : Nat)
  -- acquisition
  | acqArm (c : Src) (p : Bytes)
  | acqTrigger (c : Src) (p : Bytes)
  | acqStop (c : Src) (p : Bytes)
  | acqPostComplete (u : Fin 8)
  | acqHeaderWritten (u : Fin 8)
  | acqRearm (u : Fin 8)
  | acqSegFree (u : Fin 8) (v : Word)
  -- data movement
  | dmaStart (n : Fin 32) (desc : Bytes)
  | dmaAbort (n : Fin 32)
  | dmaAbortComplete (n : Fin 32)
  | dmaDescTailWrite (n : Fin 32) (v : Word)
  | dmaRunStart (n : Fin 32)
  | dmaFlushTimeout (n : Fin 32)
  | dmaBurst (n : Fin 32) (hostData : Bytes) (nextDesc : Bytes)
  | dmaHostError (n : Fin 32) (cause : Fin 3) (lastBeat : Bool)
  -- Lichen pairs
  | hbPulse
  | roleInPulse (widthNs : Nat)
  | arbLost
  | ownNChange (level : Bool)
  | periodFrameSend
  | periodFrameReceive (frame : Bytes)
  | twinFrameDeadline
  | itemFrameReceive (frame : Bytes)
  | rhizomeTraining (latencyNs : Nat)
  | twnResync (c : Src)
  | resyncComplete
  | twnResyncTimeout
  | roleSwapRequest
  | roleSwapCheck
  | haltHoldExpiry
  | arbiterHbTimeout (port : Fin 2)
  | arbiterBbmExpiry
  | arbiterSwapReq (port : Fin 2)
  -- management port
  | mctpPacket (packet : Bytes) (pecOk : Bool)
  | setEndpointId (eid : Byte)
  | getEndpointId
  | getMctpVersionSupport
  | getMessageTypeSupport
  | getVendorDefinedMessageSupport
  | getStatus (reqId : Byte)
  | getLog (reqId : Byte) (body : Bytes)
  | getSlots (reqId : Byte)
  | putBlock (reqId : Byte) (body : Bytes)
  | getReplay (reqId : Byte)
  | getIdentity (reqId : Byte) (body : Bytes)
  | command (reqId : Byte) (body : Bytes)
  | opsMainReset (c : Src)
  | stgRecover (c : Src) (p : Bytes)
  -- rows added at the table's end
  | modulatorTick (lands : DWord) (clk0Ps : Int)
  | extTrigEdge
  | vmgtPowerUp (hbPulledHigh : Bool)
  | arbiterHbPulse (port : Fin 2) (widthNs : Nat)
  | resyncFrameReceive (f : ResyncFrame)
  | rhizomeBlockLockLoss
  | ethLinkChange (port : Fin 2) (anDone sync : Bool) (link : PortLine)
  | supervisionFrameSend
  | safetyClockFault (ch : SafCh)
  | fwImageWriteComplete
  | configBlockWriteComplete
  deriving DecidableEq, Repr

end Sys2Proof
end

