-- ==== Sys2Proof/Machine/Operands.lean ====
section
/-! DEFINITION. Byte order, bit fields and check codes: how numbers stand in payloads, descriptors, frames and records (R7), and
the CRCs those formats name (R204, R217, R215). -/

namespace Sys2Proof.Machine

/-- The number that little-endian bytes spell (R7). -/
def leNat : Bytes → Nat
  | [] => 0
  | b :: rest => b.toNat + 256 * leNat rest

/-- The `n` little-endian bytes of a number. -/
def leBytes : Nat → Nat → Bytes
  | 0, _ => []
  | n + 1, v => BitVec.ofNat 8 v :: leBytes n (v / 256)

/-- The number that big-endian bytes spell. -/
def beNat (bs : Bytes) : Nat := leNat bs.reverse

/-- The `n` big-endian bytes of a number. -/
def beBytes (n v : Nat) : Bytes := (leBytes n v).reverse

/-- The `n`-byte field at byte `o` of a payload; bytes the payload does not hold are 0 (R488). -/
def pf (p : Bytes) (o n : Nat) : Nat := leNat ((p.drop o).take n)

/-- Byte `o` of a payload. -/
def pb (p : Bytes) (o : Nat) : Nat := pf p o 1

/-- Bits [hi:lo] of a number. -/
def nbits (v hi lo : Nat) : Nat := (v / 2 ^ lo) % 2 ^ (hi + 1 - lo)

/-- A number of `w` bits read as two's complement. -/
def signed (w v : Nat) : Int :=
  if v % 2 ^ w < 2 ^ (w - 1) then (v % 2 ^ w : Nat) else (v % 2 ^ w : Nat) - (2 ^ w : Nat)

/-- The low `w` bits of an integer's two's complement. -/
def unsignedOf (w : Nat) (v : Int) : Nat := (v % (2 ^ w : Nat)).toNat

/-- Pad a list of bytes with zeros, or cut it, to a length. -/
def padTo (n : Nat) (bs : Bytes) : Bytes := (bs ++ List.replicate (n - bs.length) 0).take n

/-- Replace the bytes of a list from byte `o` on. -/
def patch (bs : Bytes) (o : Nat) (new : Bytes) : Bytes :=
  bs.take o ++ new ++ bs.drop (o + new.length)

/-- One step of a CRC that shifts left: register width, polynomial, register, next bit. -/
def crcBit (w poly reg : Nat) (b : Bool) : Nat :=
  let top := reg.testBit (w - 1)
  let sh := (reg * 2) % 2 ^ w
  if top != b then sh ^^^ poly else sh

/-- The bits of a byte, most significant first. -/
def bitsMsb (b : Byte) : List Bool := [b.getLsbD 7, b.getLsbD 6, b.getLsbD 5, b.getLsbD 4, b.getLsbD 3, b.getLsbD 2, b.getLsbD 1, b.getLsbD 0]

/-- A CRC over bytes, most significant bit first. -/
def crcMsb (w poly init : Nat) (bs : Bytes) : Nat :=
  (bs.flatMap bitsMsb).foldl (crcBit w poly) init

/-- CRC-8, polynomial 0x07, initial value 0 (R204). -/
def crc8 (bs : Bytes) : Nat := crcMsb 8 0x07 0 bs

/-- CRC-16, polynomial 0x1021, initial value 0xFFFF (Table GDL-9). -/
def crc16 (bs : Bytes) : Nat := crcMsb 16 0x1021 0xFFFF bs

/-- One step of a CRC that shifts right: polynomial reversed, register, next bit. -/
def crcBitLsb (poly reg : Nat) (b : Bool) : Nat :=
  if (reg.testBit 0) != b then (reg / 2) ^^^ poly else reg / 2

/-- CRC-32C in its standard form: reflected, initial value and final inversion all ones. PRESUMED: the spec names the code
and states neither (log 3). -/
def crc32c (bs : Bytes) : Nat :=
  ((bs.flatMap fun b => (bitsMsb b).reverse).foldl (crcBitLsb 0x82F63B78) 0xFFFFFFFF) ^^^ 0xFFFFFFFF

/-- A frame with its CRC-32C behind it. -/
def withCrc32c (bs : Bytes) : Bytes := bs ++ leBytes 4 (crc32c bs)

/-- Does a frame end with the CRC-32C of the bytes before it? -/
def crc32cOk (bs : Bytes) : Bool :=
  decide (4 ≤ bs.length) && decide (leNat (bs.drop (bs.length - 4)) = crc32c (bs.take (bs.length - 4)))

/-- Element `i` of a vector, or `d` outside it. -/
def vget {α : Type} {n : Nat} (v : Vector α n) (i : Nat) (d : α) : α := v[i]?.getD d

/-- Element `i` of a vector replaced; nothing outside it. -/
def vset {α : Type} {n : Nat} (v : Vector α n) (i : Nat) (x : α) : Vector α n := v.setIfInBounds i x

/-- Element `i` of a list, or `d` outside it. -/
def lget {α : Type} (l : List α) (i : Nat) (d : α) : α := l[i]?.getD d

/-- The numbers below 16 whose bit is set in a mask. -/
def bitsIn (n : Nat) (m : Nat) : List Nat := (List.range n).filter m.testBit

/-- The mask of the numbers below `n` that satisfy a predicate. -/
def maskOf (n : Nat) (p : Nat → Bool) : Nat :=
  (List.range n).foldl (fun a i => if p i then a + 2 ^ i else a) 0

end Sys2Proof.Machine
end

