-- ==== Sys2Proof/Config.lean ====
section
/-! DEFINITION. What one device fixes and what the spec leaves open: constants with no body, so that no proof can see them. A claim
that mentions one holds whatever it is. -/

namespace Sys2Proof.Config

/-- Values the spec leaves open where a step must have one: `State.free` numbers them. -/
opaque freeNat : Nat → Nat

/-! ### The algorithms of Table AUT-1, which the spec names by their standards (R336) -/

/-- KMAC256 of NIST SP 800-185: key, message, output length in bytes, customisation string. -/
opaque kmac256 : Bytes → Bytes → Nat → String → Bytes

/-- ML-DSA-65 verification (FIPS 204): public key, message, context string, signature. -/
opaque mldsaVerify : Bytes → Bytes → String → Bytes → Bool

/-- ECDSA P-384 verification with SHA-384 (FIPS 186-5): public point, message, r, s. -/
opaque ecdsaVerify : Bytes → Bytes → Bytes → Bytes → Bool

/-- The key checks of FIPS 204 and FIPS 186-5 on a pair of public keys (R344). -/
opaque keysValid : Bytes → Bytes → Bool

/-- ML-KEM-768 decapsulation with the device key that DEVICE_UID stands for (R349). -/
opaque mlkemDecaps : BitVec 128 → Bytes → Bytes

/-- ECDH on P-384, x-coordinate, with the device key that DEVICE_UID stands for (R349). -/
opaque ecdhX : BitVec 128 → Bytes → Bytes

/-- AES-256 key unwrap (NIST SP 800-38F); none where its integrity check fails. -/
opaque aesKwUnwrap : Bytes → Bytes → Option Bytes

/-- SHA-384 (FIPS 180-4). -/
opaque sha384 : Bytes → Bytes

/-- The DEVICE_UID fixed at manufacture (R338). -/
opaque deviceUid : BitVec 128

/-- The DEVICE_UID of the module that this one is paired with. -/
opaque twinUid : BitVec 128

/-- The vendor root's two public keys, in slot 0 from manufacture (R342). -/
opaque rootMldsa : Bytes
opaque rootP384 : Bytes

/-- The fused fingerprint of the vendor root, fixed at manufacture. -/
def rootFingerprint : Bytes := sha384 (rootMldsa ++ rootP384)

/-- The MAC of an anchor record under the device's own key: slot, generation and the two public keys (R342). -/
opaque anchorMac : Nat → Nat → Bytes → Bytes → Bytes

/-- What the module's NAND holds when it leaves manufacture (Table SCO-2, log 62): the boot loader, and where the ordering code says
so the released firmware for image slot 0 and the factory-default configuration block. -/
opaque factoryLoader : Bytes
opaque preloaded : Bool
opaque factoryFirmware : Bytes
opaque factoryConfig : Bytes

/-- Values drawn from the CTR_DRBG; `State.free` numbers them. -/
opaque drbg128 : Nat → BitVec 128

/-- The bytes of the identity record of SEC_ID_WIN that its layout does not fix: the device's public keys and their certificate. -/
opaque identityByte : BitVec 128 → Nat → Byte

/-! ### What a device or its firmware fixes and the spec does not state -/

/-- Has the firmware refreshed its liveness flag within the 1 ms before an instant (R422)? The spec does not say when it does. -/
opaque firmwareLive : Nat → Bool

/-- Has DRAM passed its self-test at an instant of BOOT or SELFTEST (R460)? The spec orders it among no other items. -/
opaque dramTested : Nat → Bool

/-- The ADPLL's loop filter: the next control word, in 0.001 ppm, from the reference, the present word and the error in ps; the
spec gives its bandwidth only (Table CLK-2). -/
opaque loopFilter : Nat → Int → Int → Int

/-- The characters of the echo exchanges that train a link, by stack and instant: the spec gives the exchanges, not what they carry
(Table GDL-7, step 4). -/
opaque echoChar : Nat → Nat → Byte

/-- The drift of the coasting oscillator at an instant, in 0.001 ppm; the spec states its bounds (R278). -/
opaque coastDrift : Nat → Int

/-- The exact instants at which an analogue or cycle-level choice inside a stated error bound falls: a function block's result
within its bound (kind, operands). -/
opaque withinBound : Nat → Int → Int → Int

/-- One period of a synchronous-frame PLL: its bandwidth word, the control period, the phase error in binary turns, its frequency
and its integrator give the angle increment in units of 2^−64 turn, the next frequency in Q4.60 pu and the next integrator. The
spec states the bandwidth only (Table GFM-7, PLL_BW). -/
opaque pllStep : Nat → Nat → Int → Int → Int → Nat × Int × Int

/-- The delay that a coefficient of FDELAY states, in 1/65536 of a period; the spec gives its range only. -/
opaque fdelay : BitVec 32 → Nat

/-- The 64-bit digest of a period index and six words (R43, R89); the spec does not state the function. -/
opaque digestOf : BitVec 64 → List (BitVec 32) → BitVec 64

/-- The signal word of a template image, given by its IMAGE_ID, that carries a quantity after scaling and skew alignment (stage 1 of
Table GFM-2): 0 to 8 the phase values of v_c, i_o and v_g, 9 to 11 and 12 to 14 the inductor currents of the stacks in slots 0 and 1,
15 and 16 their DC-link voltages. A signed image fixes them; the spec does not state them. -/
opaque templateSignal : BitVec 64 → Nat → Nat

end Sys2Proof.Config
end

