-- ==== Sys2Proof/Machine/Cells.lean ====
section
/-! DEFINITION. Sparse stores in one canonical form: pairs of an address and a value, addresses strictly rising, and no pair
whose value is what an unlisted address reads as. Register files and memories are both such stores. -/

namespace Sys2Proof.Machine

/-- What address `k` holds: the listed value, or `d k` where nothing is listed. -/
def cellsRead {α : Type} (d : Nat → α) : List (Nat × α) → Nat → α
  | [], k => d k
  | (a, x) :: rest, k => if k = a then x else if k < a then d k else cellsRead d rest k

/-- Put a pair in front of a store, unless its value is what an unlisted address reads as. -/
def cellsCons {α : Type} [DecidableEq α] (d : Nat → α) (k : Nat) (x : α) (rest : List (Nat × α)) : List (Nat × α) :=
  if x = d k then rest else (k, x) :: rest

/-- Write `x` at address `k`. Writing the value an unlisted address reads as removes the pair. -/
def cellsWrite {α : Type} [DecidableEq α] (d : Nat → α) : List (Nat × α) → Nat → α → List (Nat × α)
  | [], k, x => cellsCons d k x []
  | (a, y) :: rest, k, x =>
    if k = a then cellsCons d k x rest
    else if k < a then cellsCons d k x ((a, y) :: rest)
    else (a, y) :: cellsWrite d rest k x

/-- Every listed address lies above `lo`, addresses rise strictly, and no listed value is the unlisted one. -/
def cellsAbove {α : Type} [DecidableEq α] (d : Nat → α) : Option Nat → List (Nat × α) → Bool
  | _, [] => true
  | lo, (a, x) :: rest =>
    (match lo with | none => true | some b => decide (b < a)) && decide (x ≠ d a) && cellsAbove d (some a) rest

/-- The canonical form of a store. -/
def cellsWf {α : Type} [DecidableEq α] (d : Nat → α) (m : List (Nat × α)) : Bool :=
  cellsAbove d none m

end Sys2Proof.Machine
end

