-- ==== Sys2Proof/Machine/Regs.lean ====
section
/-! DEFINITION. The register map of BAR0: one row per register of the chapters' register tables (R36, R37, R109, R131,
R158, R159, R196, R223, R245, R265, R283, R308, R309, R334, R335, R360, R377, R394, R419, R420, R451, R462), with the access
codes of Table SCO-4 and the reset values those tables state. -/

namespace Sys2Proof.Machine

/-- The access codes of Table SCO-4 (R13). -/
inductive Access where
  | ro | rw | rws | w1c | w1s | wo | rc
  deriving DecidableEq, Repr

/-- The registers of the map, one constructor per row of a register table; instance numbers are kept apart. -/
inductive Reg where
  | glbDeviceId
  | glbStepping
  | glbConfig
  | glbScratch
  | glbAccessErr
  | glbAccessAddr
  | glbPeriodIdx
  | glbPeriodNt
  | frdCtrl
  | frdStatus
  | frdImageId
  | frdImageVer
  | frdCostCrit
  | frdCostTotal
  | frdTc
  | frdXfade
  | frdSatSum
  | frdClassiCnt
  | frdInvalidCnt
  | frdMboxIn
  | frdStallMax
  | frdEccCnt
  | frdBankWin
  | frdMboxOut
  | frdMboxOutIdx
  | frdSatFlags
  | frdParam
  | frdPrfCfg
  | frdPrfVlim
  | frdPrfAlim
  | frdPrfJlim
  | frdPrfPlo
  | frdPrfPhi
  | frdPrfInit
  | frdPrfStatus
  | frdPrfFlags
  | frdPrfPos
  | frdPrfVel
  | frdPrfTgt
  | frdPrfOvs
  | frdPrfStartIdx
  | frdOscCtrl
  | frdOscDet
  | frdOscEvtCnt
  | frdOscSwapRej
  | frdOscAmp
  | frdOscFreq
  | frdOscBand
  | frdOscThr
  | frdOscAct
  | decCtrl
  | decTs
  | decGrpEn
  | decSmp
  | decStatus
  | decLinkLat
  | decAlignCnt
  | decStuck
  | decTsEff
  | decSrc
  | decFilt
  | decMode
  | decGain
  | decOfs
  | decOut
  | adcCtrl
  | adcSeqTrig
  | adcUrg
  | adcStatus
  | adcUrgRes
  | adcUrgDropCnt
  | adcTrigLostCnt
  | adcResDropCnt
  | adcSeqCnt
  | adcSlot
  | adcLatest
  | pwmTbCtrl
  | pwmPrd
  | pwmSyncOfs
  | pwmMinp
  | pwmTol
  | pwmTbStatus
  | pwmPherr
  | pwmDropCnt
  | pwmShortCnt
  | pwmOvlCnt
  | pwmRealignCnt
  | pwmSyncMissCnt
  | pwmZeroNt
  | pwmSlotOfs
  | pwmSyncCtrl
  | pwmSyncInCnt
  | pwmForce
  | pwmChEn
  | pwmOvl
  | pwmDt
  | pwmCmpa
  | pwmCmpb
  | pwmChStat
  | gdlCtrl
  | gdlLatFix
  | gdlOstStart
  | gdlTrain
  | gdlFltLevel
  | gdlStkCfg
  | gdlStkStat
  | gdlFault
  | gdlOstRes
  | gdlLat
  | gdlAckToCnt
  | gdlCrcCnt
  | gdlDupCnt
  | gdlSoftCnt
  | gdlSeq
  | gdlDrv
  | trpInLevel
  | trpTripped
  | trpRecFill
  | trpRecLost
  | trpRec
  | trpTclkSrc
  | trpInCfg
  | trpCmpAct
  | trpStkCfg
  | trpProp
  | trpStat
  | trpCause
  | trpPullCnt
  | trpClrRefCnt
  | trpFirstNt
  | trpCmpCfg
  | trpCmpThr
  | safStatus
  | safInLevel
  | safFault
  | safTestCfg
  | safInCfg
  | safPsetId
  | safPsetCrc
  | safDemandCnt
  | safDiscCnt
  | safPulseCntA
  | safPulseCntB
  | safDemandNt
  | clkRef
  | clkLoop
  | clkReacq
  | clkStatus
  | clkPherr
  | clkFreqOfs
  | clkEvt
  | clkLockLostCnt
  | clkJumpCnt
  | clkOut
  | ntCtrl
  | ntStatus
  | ntCmd
  | ntIncr
  | ntTimeSec
  | ntTimeNs
  | ntTimeFrac
  | ntTimeNs64
  | ntIncrAge
  | ntIncrRej
  | ntSetCnt
  | ntSporePend
  | ntSporeRecFill
  | ntSporeRecLost
  | ntSporeLateCnt
  | ntSporeRec
  | ntSporeSel
  | ntSporeInstant
  | ntSporeDesc
  | ntPtmCtrl
  | ntPtmId
  | ntPtmKey
  | ntPtmWin
  | ntPtmDst
  | ntPtmTxCnt
  | ntPtmSupprCnt
  | ntPtmRxCnt
  | ntPtmRxRejCnt
  | ethCtrl
  | ethMacAddr
  | ethDupCnt
  | ethPortCfg
  | ethPortStat
  | ethTsOfs
  | ethPdelay
  | ethTxtsFill
  | ethTxtsFlag
  | ethTxtsLost
  | ethTxts
  | ethRxCnt
  | ethRxErr
  | ethLanErr
  | cmdStatus
  | cmdTimeoutDef
  | cmdDbErr
  | cmdAuthFailCnt
  | cmdReplayCnt
  | cmdTimeoutCnt
  | cmdSqBase
  | cmdCqBase
  | cmdRingCfg
  | cmdRingStat
  | cmdSqPtr
  | cmdCqPtr
  | cmdLastSeq
  | cmdDoneCnt
  | schCtrl
  | schStatus
  | schTraceFill
  | schTraceLost
  | schBpCnt
  | schKmacCnt
  | schC0MaxS
  | schC0MaxH
  | schList
  | schLaneCnt
  | secStatus
  | secResetCnt
  | secReplayWin
  | secTamperCfg
  | secTamperEvt
  | secTamperCnt
  | secSvn
  | secAnchor
  | secRingSel
  | secRingLastSeq
  | secRingEpoch
  | secRingKey
  | secRingExpiry
  | secRingNonce
  | secTargetId
  | secUid
  | secPkey
  | secPkeyEpoch
  | secPkeyExpiry
  | secAnchorFp
  | secIdWin
  | stgStatus
  | stgGen
  | stgFailCnt
  | stgDiscardCnt
  | stgPeekAddr
  | stgPeekData
  | stgTokenLease
  | stgCommitCnt
  | stgLastCommitNt
  | stgDeviceCfg
  | stgCfgVer
  | stgFail
  | glbState
  | glbArmBlock
  | glbSelftest
  | glbStateNt
  | glbFwStatus
  | glbFwVer
  | glbLogFirst
  | glbLogLast
  | glbLogLost
  | glbBusyStopCnt
  | acqCfg
  | acqSegs
  | acqSeglen
  | acqPost
  | acqTrig
  | acqTrigSel
  | acqThrCfg
  | acqThr
  | acqThrHys
  | acqRoc
  | acqMeasHys
  | acqStat
  | acqTrigIgn
  | acqGapCnt
  | acqSatCnt
  | acqRecCnt
  | acqBase
  | acqSegBytes
  | acqSegFree
  | acqIrq
  | acqSegFull
  | acqCh
  | dmaEccCnt
  | dmaChCfg
  | dmaChCtrl
  | dmaChStat
  | dmaDescBase
  | dmaDescCfg
  | dmaDescTail
  | dmaDescHead
  | dmaBytes
  | twnCfg
  | twnStatus
  | twnSkew
  | twnLat
  | twnSwitchCnt
  | twnDigestErrCnt
  | twnResyncCnt
  | twnItemLateCnt
  | twnFrameErrCnt
  | twnMirrorMax
  | twnArbCfg
  | mgtCfg
  | mgtStatus
  | mgtPecErrCnt
  | mgtAsmErrCnt
  | mgtCmdCnt
  | mgtAuthFailCnt
  deriving DecidableEq, Repr

/-- One row of a register table: the BAR0 offset of instance (0, 0), the count and stride of the first and of the second
instance number, the size in bytes, the access code, the bits that a write can set (reserved bits ignore writes, R14)
and the reset value. -/
structure RegRow where
  base : Nat
  n1 : Nat
  s1 : Nat
  n2 : Nat
  s2 : Nat
  size : Nat
  acc : Access
  mask : Nat
  reset : Nat
  deriving DecidableEq, Repr

/-- The register tables. Each row stands as its chapter gives it. -/
def Reg.row : Reg → RegRow
  | .glbDeviceId => ⟨0, 1, 0, 1, 0, 4, .ro, 0, 0x9216⟩
  | .glbStepping => ⟨4, 1, 0, 1, 0, 4, .ro, 0, 2⟩
  | .glbConfig => ⟨8, 1, 0, 1, 0, 4, .ro, 0, 0⟩
  | .glbScratch => ⟨0xc, 1, 0, 1, 0, 4, .rw, 0xffffffff, 0⟩
  | .glbAccessErr => ⟨0x10, 1, 0, 1, 0, 4, .ro, 0, 0⟩
  | .glbAccessAddr => ⟨0x14, 1, 0, 1, 0, 4, .ro, 0, 0⟩
  | .glbPeriodIdx => ⟨0x100, 8, 8, 1, 0, 8, .ro, 0, 0⟩
  | .glbPeriodNt => ⟨0x140, 8, 8, 1, 0, 8, .ro, 0, 0⟩
  | .frdCtrl => ⟨0x80000, 8, 0x2000, 1, 0, 4, .rws, 0xffcf01, 0xffc000⟩
  | .frdStatus => ⟨0x80004, 8, 0x2000, 1, 0, 4, .ro, 0, 0⟩
  | .frdImageId => ⟨0x80008, 8, 0x2000, 1, 0, 8, .ro, 0, 0⟩
  | .frdImageVer => ⟨0x80010, 8, 0x2000, 1, 0, 4, .ro, 0, 0⟩
  | .frdCostCrit => ⟨0x80014, 8, 0x2000, 1, 0, 4, .ro, 0, 0⟩
  | .frdCostTotal => ⟨0x80018, 8, 0x2000, 1, 0, 4, .ro, 0, 0⟩
  | .frdTc => ⟨0x8001c, 8, 0x2000, 1, 0, 4, .ro, 0, 0⟩
  | .frdXfade => ⟨0x80020, 8, 0x2000, 1, 0, 4, .ro, 0, 0⟩
  | .frdSatSum => ⟨0x80024, 8, 0x2000, 1, 0, 4, .ro, 0, 0⟩
  | .frdClassiCnt => ⟨0x80028, 8, 0x2000, 1, 0, 4, .rc, 0, 0⟩
  | .frdInvalidCnt => ⟨0x8002c, 8, 0x2000, 1, 0, 4, .rc, 0, 0⟩
  | .frdMboxIn => ⟨0x80030, 8, 0x2000, 1, 0, 4, .ro, 0, 0⟩
  | .frdStallMax => ⟨0x80034, 8, 0x2000, 1, 0, 4, .rc, 0, 0⟩
  | .frdEccCnt => ⟨0x80038, 8, 0x2000, 1, 0, 4, .rc, 0, 0⟩
  | .frdBankWin => ⟨0x8003c, 8, 0x2000, 1, 0, 4, .rw, 1, 0⟩
  | .frdMboxOut => ⟨0x80100, 8, 0x2000, 64, 4, 4, .ro, 0, 0⟩
  | .frdMboxOutIdx => ⟨0x80200, 8, 0x2000, 1, 0, 8, .ro, 0, 0⟩
  | .frdSatFlags => ⟨0x80800, 8, 0x2000, 64, 4, 4, .ro, 0, 0⟩
  | .frdParam => ⟨0x81000, 8, 0x2000, 1024, 4, 4, .rws, 0xffffffff, 0⟩
  | .frdPrfCfg => ⟨0x80400, 8, 0x2000, 8, 0x40, 4, .rws, 0x7ff0007, 0⟩
  | .frdPrfVlim => ⟨0x80404, 8, 0x2000, 8, 0x40, 4, .rws, 0xffffffff, 0x10000⟩
  | .frdPrfAlim => ⟨0x80408, 8, 0x2000, 8, 0x40, 4, .rws, 0xffffffff, 0xa0000⟩
  | .frdPrfJlim => ⟨0x8040c, 8, 0x2000, 8, 0x40, 4, .rws, 0xffffffff, 0x6400⟩
  | .frdPrfPlo => ⟨0x80410, 8, 0x2000, 8, 0x40, 4, .rws, 0xffffffff, 0x80000000⟩
  | .frdPrfPhi => ⟨0x80414, 8, 0x2000, 8, 0x40, 4, .rws, 0xffffffff, 0x7fffffff⟩
  | .frdPrfInit => ⟨0x80418, 8, 0x2000, 8, 0x40, 4, .rws, 0xffffffff, 0⟩
  | .frdPrfStatus => ⟨0x8041c, 8, 0x2000, 8, 0x40, 4, .ro, 0, 0⟩
  | .frdPrfFlags => ⟨0x80420, 8, 0x2000, 8, 0x40, 4, .w1c, 7, 0⟩
  | .frdPrfPos => ⟨0x80424, 8, 0x2000, 8, 0x40, 4, .ro, 0, 0⟩
  | .frdPrfVel => ⟨0x80428, 8, 0x2000, 8, 0x40, 4, .ro, 0, 0⟩
  | .frdPrfTgt => ⟨0x8042c, 8, 0x2000, 8, 0x40, 4, .ro, 0, 0⟩
  | .frdPrfOvs => ⟨0x80430, 8, 0x2000, 8, 0x40, 4, .ro, 0, 0⟩
  | .frdPrfStartIdx => ⟨0x80438, 8, 0x2000, 8, 0x40, 8, .ro, 0, 0⟩
  | .frdOscCtrl => ⟨0x80600, 8, 0x2000, 1, 0, 4, .rws, 0x1fffffff, 0⟩
  | .frdOscDet => ⟨0x80604, 8, 0x2000, 1, 0, 4, .w1c, 0xffff, 0⟩
  | .frdOscEvtCnt => ⟨0x80608, 8, 0x2000, 1, 0, 4, .rc, 0, 0⟩
  | .frdOscSwapRej => ⟨0x8060c, 8, 0x2000, 1, 0, 4, .rc, 0, 0⟩
  | .frdOscAmp => ⟨0x80640, 8, 0x2000, 16, 4, 4, .ro, 0, 0⟩
  | .frdOscFreq => ⟨0x80680, 8, 0x2000, 16, 4, 4, .ro, 0, 0⟩
  | .frdOscBand => ⟨0x80700, 8, 0x2000, 16, 0x10, 4, .rws, 0xffffffff, 0x89c40⟩
  | .frdOscThr => ⟨0x80704, 8, 0x2000, 16, 0x10, 4, .rws, 0xffffffff, 0x1000000⟩
  | .frdOscAct => ⟨0x80708, 8, 0x2000, 16, 0x10, 4, .rws, 0xffffff03, 0x400⟩
  | .decCtrl => ⟨0x60000, 1, 0, 1, 0, 4, .rws, 0xf0f, 0⟩
  | .decTs => ⟨0x60004, 1, 0, 1, 0, 4, .rws, 0xffff, 0⟩
  | .decGrpEn => ⟨0x60008, 1, 0, 1, 0, 4, .rws, 0xfffff, 0⟩
  | .decSmp => ⟨0x6000c, 1, 0, 1, 0, 4, .rws, 0xffffffff, 0⟩
  | .decStatus => ⟨0x60010, 1, 0, 1, 0, 4, .ro, 0, 0⟩
  | .decLinkLat => ⟨0x60014, 1, 0, 1, 0, 4, .ro, 0, 0⟩
  | .decAlignCnt => ⟨0x60018, 1, 0, 1, 0, 4, .rc, 0, 0⟩
  | .decStuck => ⟨0x60020, 5, 4, 1, 0, 4, .w1c, 0xffffffff, 0⟩
  | .decTsEff => ⟨0x60040, 8, 4, 1, 0, 4, .ro, 0, 0⟩
  | .decSrc => ⟨0x61000, 160, 0x20, 1, 0, 4, .rws, 0x1f7f, 0⟩
  | .decFilt => ⟨0x61004, 160, 0x20, 1, 0, 4, .rws, 0xffffffff, 0⟩
  | .decMode => ⟨0x61008, 160, 0x20, 1, 0, 4, .rws, 0xffbfffff, 0x80000⟩
  | .decGain => ⟨0x6100c, 160, 0x20, 1, 0, 4, .rws, 0xffffffff, 0⟩
  | .decOfs => ⟨0x61010, 160, 0x20, 1, 0, 4, .rws, 0xffffffff, 0⟩
  | .decOut => ⟨0x61018, 160, 0x20, 1, 0, 8, .ro, 0, 0⟩
  | .adcCtrl => ⟨0x70000, 1, 0, 1, 0, 4, .rws, 0x3f3f, 0⟩
  | .adcSeqTrig => ⟨0x70004, 1, 0, 1, 0, 4, .w1s, 1, 0⟩
  | .adcUrg => ⟨0x70008, 1, 0, 1, 0, 4, .rw, 0x10f, 0⟩
  | .adcStatus => ⟨0x7000c, 1, 0, 1, 0, 4, .ro, 0, 0⟩
  | .adcUrgRes => ⟨0x70010, 1, 0, 1, 0, 4, .ro, 0, 0⟩
  | .adcUrgDropCnt => ⟨0x70014, 1, 0, 1, 0, 4, .rc, 0, 0⟩
  | .adcTrigLostCnt => ⟨0x70018, 1, 0, 1, 0, 4, .rc, 0, 0⟩
  | .adcResDropCnt => ⟨0x7001c, 1, 0, 1, 0, 4, .rc, 0, 0⟩
  | .adcSeqCnt => ⟨0x70020, 1, 0, 1, 0, 4, .ro, 0, 0⟩
  | .adcSlot => ⟨0x70040, 16, 4, 1, 0, 4, .rws, 0xf0f0f, 0⟩
  | .adcLatest => ⟨0x70080, 16, 4, 1, 0, 4, .ro, 0, 0⟩
  | .pwmTbCtrl => ⟨0xa0000, 16, 0x40, 1, 0, 4, .rws, 0x33, 0⟩
  | .pwmPrd => ⟨0xa0004, 16, 0x40, 1, 0, 4, .rws, 0xffffff, 0x7d00⟩
  | .pwmSyncOfs => ⟨0xa0008, 16, 0x40, 1, 0, 4, .rws, 0xffffff, 0⟩
  | .pwmMinp => ⟨0xa000c, 16, 0x40, 1, 0, 4, .rws, 0x3fff, 0⟩
  | .pwmTol => ⟨0xa0010, 16, 0x40, 1, 0, 4, .rws, 0xff, 0x10⟩
  | .pwmTbStatus => ⟨0xa0014, 16, 0x40, 1, 0, 4, .ro, 0, 0⟩
  | .pwmPherr => ⟨0xa0018, 16, 0x40, 1, 0, 4, .ro, 0, 0⟩
  | .pwmDropCnt => ⟨0xa001c, 16, 0x40, 1, 0, 4, .rc, 0, 0⟩
  | .pwmShortCnt => ⟨0xa0020, 16, 0x40, 1, 0, 4, .rc, 0, 0⟩
  | .pwmOvlCnt => ⟨0xa0024, 16, 0x40, 1, 0, 4, .rc, 0, 0⟩
  | .pwmRealignCnt => ⟨0xa0028, 16, 0x40, 1, 0, 4, .rc, 0, 0⟩
  | .pwmSyncMissCnt => ⟨0xa002c, 16, 0x40, 1, 0, 4, .rc, 0, 0⟩
  | .pwmZeroNt => ⟨0xa0030, 16, 0x40, 1, 0, 8, .ro, 0, 0⟩
  | .pwmSlotOfs => ⟨0xa0400, 1, 0, 1, 0, 4, .rws, 0xffffff, 0⟩
  | .pwmSyncCtrl => ⟨0xa0404, 1, 0, 1, 0, 4, .rws, 0x3ff010f, 0⟩
  | .pwmSyncInCnt => ⟨0xa0408, 1, 0, 1, 0, 4, .rc, 0, 0⟩
  | .pwmForce => ⟨0xa0800, 16, 4, 1, 0, 4, .rws, 0xffffff, 0⟩
  | .pwmChEn => ⟨0xa0840, 16, 4, 1, 0, 4, .rws, 0xfff, 0xfff⟩
  | .pwmOvl => ⟨0xa0880, 16, 4, 1, 0, 4, .w1c, 0x3f, 0⟩
  | .pwmDt => ⟨0xa0c00, 96, 4, 1, 0, 4, .rws, 0x3fff3fff, 0⟩
  | .pwmCmpa => ⟨0xa1000, 192, 0x10, 1, 0, 4, .ro, 0, 0x1fffffff⟩
  | .pwmCmpb => ⟨0xa1004, 192, 0x10, 1, 0, 4, .ro, 0, 0⟩
  | .pwmChStat => ⟨0xa1008, 192, 0x10, 1, 0, 4, .ro, 0, 0⟩
  | .gdlCtrl => ⟨0xb0000, 1, 0, 1, 0, 4, .rws, 0x1f1fff03, 0x5051401⟩
  | .gdlLatFix => ⟨0xb0004, 1, 0, 1, 0, 4, .rws, 0x3ff, 0x1f4⟩
  | .gdlOstStart => ⟨0xb0008, 1, 0, 1, 0, 4, .w1s, 0xffff, 0⟩
  | .gdlTrain => ⟨0xb000c, 1, 0, 1, 0, 4, .w1s, 0xffff, 0⟩
  | .gdlFltLevel => ⟨0xb0010, 1, 0, 1, 0, 4, .ro, 0, 0⟩
  | .gdlStkCfg => ⟨0xb0100, 16, 0x40, 1, 0, 4, .rws, 0x3f0f00, 0xa0c00⟩
  | .gdlStkStat => ⟨0xb0104, 16, 0x40, 1, 0, 4, .ro, 0, 0⟩
  | .gdlFault => ⟨0xb0108, 16, 0x40, 1, 0, 4, .w1c, 0xfff, 0⟩
  | .gdlOstRes => ⟨0xb010c, 16, 0x40, 1, 0, 4, .ro, 0, 0⟩
  | .gdlLat => ⟨0xb0110, 16, 0x40, 1, 0, 4, .ro, 0, 0⟩
  | .gdlAckToCnt => ⟨0xb0114, 16, 0x40, 1, 0, 4, .rc, 0, 0⟩
  | .gdlCrcCnt => ⟨0xb0118, 16, 0x40, 1, 0, 4, .rc, 0, 0⟩
  | .gdlDupCnt => ⟨0xb011c, 16, 0x40, 1, 0, 4, .rc, 0, 0⟩
  | .gdlSoftCnt => ⟨0xb0120, 16, 0x40, 1, 0, 4, .rc, 0, 0⟩
  | .gdlSeq => ⟨0xb0124, 16, 0x40, 1, 0, 4, .ro, 0, 0⟩
  | .gdlDrv => ⟨0xb0800, 192, 4, 1, 0, 4, .ro, 0, 0⟩
  | .trpInLevel => ⟨0xc0000, 1, 0, 1, 0, 4, .ro, 0, 0⟩
  | .trpTripped => ⟨0xc0004, 1, 0, 1, 0, 4, .ro, 0, 0⟩
  | .trpRecFill => ⟨0xc0008, 1, 0, 1, 0, 4, .ro, 0, 0⟩
  | .trpRecLost => ⟨0xc000c, 1, 0, 1, 0, 4, .rc, 0, 0⟩
  | .trpRec => ⟨0xc0010, 4, 4, 1, 0, 4, .ro, 0, 0⟩
  | .trpTclkSrc => ⟨0xc0020, 1, 0, 1, 0, 4, .ro, 0, 0⟩
  | .trpInCfg => ⟨0xc0040, 16, 4, 1, 0, 4, .rws, 0xffff01ff, 0⟩
  | .trpCmpAct => ⟨0xc0080, 5, 4, 1, 0, 4, .ro, 0, 0⟩
  | .trpStkCfg => ⟨0xc0100, 16, 0x20, 1, 0, 4, .rws, 0xffffff, 0x407d0⟩
  | .trpProp => ⟨0xc0104, 16, 0x20, 1, 0, 4, .rws, 0xffff, 0⟩
  | .trpStat => ⟨0xc0108, 16, 0x20, 1, 0, 4, .ro, 0, 0⟩
  | .trpCause => ⟨0xc010c, 16, 0x20, 1, 0, 4, .ro, 0, 0⟩
  | .trpPullCnt => ⟨0xc0110, 16, 0x20, 1, 0, 4, .rc, 0, 0⟩
  | .trpClrRefCnt => ⟨0xc0114, 16, 0x20, 1, 0, 4, .rc, 0, 0⟩
  | .trpFirstNt => ⟨0xc0118, 16, 0x20, 1, 0, 8, .ro, 0, 0⟩
  | .trpCmpCfg => ⟨0xc1000, 160, 0x10, 1, 0, 4, .rws, 0xff0f7003, 0⟩
  | .trpCmpThr => ⟨0xc1004, 160, 0x10, 1, 0, 4, .rws, 0xffffffff, 0x7fff8000⟩
  | .safStatus => ⟨0xd0000, 1, 0, 1, 0, 4, .ro, 0, 0⟩
  | .safInLevel => ⟨0xd0004, 1, 0, 1, 0, 4, .ro, 0, 0⟩
  | .safFault => ⟨0xd0008, 1, 0, 1, 0, 4, .ro, 0, 0⟩
  | .safTestCfg => ⟨0xd000c, 1, 0, 1, 0, 4, .ro, 0, 0xa012c⟩
  | .safInCfg => ⟨0xd0010, 4, 4, 1, 0, 4, .ro, 0, 0⟩
  | .safPsetId => ⟨0xd0020, 1, 0, 1, 0, 4, .ro, 0, 0⟩
  | .safPsetCrc => ⟨0xd0024, 1, 0, 1, 0, 4, .ro, 0, 0⟩
  | .safDemandCnt => ⟨0xd0028, 1, 0, 1, 0, 4, .ro, 0, 0⟩
  | .safDiscCnt => ⟨0xd002c, 1, 0, 1, 0, 4, .ro, 0, 0⟩
  | .safPulseCntA => ⟨0xd0030, 1, 0, 1, 0, 4, .ro, 0, 0⟩
  | .safPulseCntB => ⟨0xd0034, 1, 0, 1, 0, 4, .ro, 0, 0⟩
  | .safDemandNt => ⟨0xd0038, 1, 0, 1, 0, 8, .ro, 0, 0⟩
  | .clkRef => ⟨0x30000, 1, 0, 1, 0, 4, .rws, 3, 0⟩
  | .clkLoop => ⟨0x30004, 1, 0, 1, 0, 4, .rws, 0xfffff, 0x40032⟩
  | .clkReacq => ⟨0x30008, 1, 0, 1, 0, 4, .rws, 0xffffffff, 0xa0a03e8⟩
  | .clkStatus => ⟨0x3000c, 1, 0, 1, 0, 4, .ro, 0, 0⟩
  | .clkPherr => ⟨0x30010, 1, 0, 1, 0, 8, .ro, 0, 0⟩
  | .clkFreqOfs => ⟨0x30018, 1, 0, 1, 0, 4, .ro, 0, 0⟩
  | .clkEvt => ⟨0x3001c, 1, 0, 1, 0, 4, .w1c, 0x1f, 0⟩
  | .clkLockLostCnt => ⟨0x30020, 1, 0, 1, 0, 4, .rc, 0, 0⟩
  | .clkJumpCnt => ⟨0x30024, 1, 0, 1, 0, 4, .rc, 0, 0⟩
  | .clkOut => ⟨0x30040, 8, 4, 1, 0, 4, .rws, 0x83ff07ff, 0⟩
  | .ntCtrl => ⟨0x40000, 1, 0, 1, 0, 4, .rws, 0x1ffff01, 0x646400⟩
  | .ntStatus => ⟨0x40004, 1, 0, 1, 0, 4, .ro, 0, 0⟩
  | .ntCmd => ⟨0x40008, 1, 0, 1, 0, 4, .w1s, 3, 0⟩
  | .ntIncr => ⟨0x40010, 1, 0, 1, 0, 8, .rw, 0xffffffffff, 0x400000000⟩
  | .ntTimeSec => ⟨0x40018, 1, 0, 1, 0, 8, .ro, 0, 0⟩
  | .ntTimeNs => ⟨0x40020, 1, 0, 1, 0, 4, .ro, 0, 0⟩
  | .ntTimeFrac => ⟨0x40024, 1, 0, 1, 0, 4, .ro, 0, 0⟩
  | .ntTimeNs64 => ⟨0x40028, 1, 0, 1, 0, 8, .ro, 0, 0⟩
  | .ntIncrAge => ⟨0x40030, 1, 0, 1, 0, 4, .ro, 0, 0⟩
  | .ntIncrRej => ⟨0x40034, 1, 0, 1, 0, 4, .rc, 0, 0⟩
  | .ntSetCnt => ⟨0x40038, 1, 0, 1, 0, 4, .ro, 0, 0⟩
  | .ntSporePend => ⟨0x40040, 8, 4, 1, 0, 4, .ro, 0, 0⟩
  | .ntSporeRecFill => ⟨0x40060, 1, 0, 1, 0, 4, .ro, 0, 0⟩
  | .ntSporeRecLost => ⟨0x40064, 1, 0, 1, 0, 4, .rc, 0, 0⟩
  | .ntSporeLateCnt => ⟨0x40068, 1, 0, 1, 0, 4, .rc, 0, 0⟩
  | .ntSporeRec => ⟨0x40070, 4, 4, 1, 0, 4, .ro, 0, 0⟩
  | .ntSporeSel => ⟨0x40080, 1, 0, 1, 0, 4, .rw, 0xff, 0⟩
  | .ntSporeInstant => ⟨0x40088, 1, 0, 1, 0, 8, .ro, 0, 0⟩
  | .ntSporeDesc => ⟨0x40090, 1, 0, 1, 0, 4, .ro, 0, 0⟩
  | .ntPtmCtrl => ⟨0x40200, 1, 0, 1, 0, 4, .rws, 0xffff1f03, 0xa000000⟩
  | .ntPtmId => ⟨0x40204, 1, 0, 1, 0, 4, .rws, 0xffffffff, 0⟩
  | .ntPtmKey => ⟨0x40208, 1, 0, 1, 0, 4, .rws, 0xffff, 0⟩
  | .ntPtmWin => ⟨0x4020c, 1, 0, 1, 0, 4, .rws, 0xffff, 0x3e8⟩
  | .ntPtmDst => ⟨0x40210, 1, 0, 1, 0, 8, .rws, 0xffffffffffffffff, 0x88b5000000000000⟩
  | .ntPtmTxCnt => ⟨0x40218, 1, 0, 1, 0, 4, .rc, 0, 0⟩
  | .ntPtmSupprCnt => ⟨0x4021c, 1, 0, 1, 0, 4, .rc, 0, 0⟩
  | .ntPtmRxCnt => ⟨0x40220, 1, 0, 1, 0, 4, .rc, 0, 0⟩
  | .ntPtmRxRejCnt => ⟨0x40224, 1, 0, 1, 0, 4, .rc, 0, 0⟩
  | .ethCtrl => ⟨0x50000, 1, 0, 1, 0, 4, .rws, 0x1f1f03, 0⟩
  | .ethMacAddr => ⟨0x50008, 1, 0, 1, 0, 8, .rws, 0xffffffffffff, 0⟩
  | .ethDupCnt => ⟨0x50010, 1, 0, 1, 0, 4, .rc, 0, 0⟩
  | .ethPortCfg => ⟨0x50100, 2, 0x80, 1, 0, 4, .rws, 7, 4⟩
  | .ethPortStat => ⟨0x50104, 2, 0x80, 1, 0, 4, .ro, 0, 0⟩
  | .ethTsOfs => ⟨0x50108, 2, 0x80, 1, 0, 4, .rws, 0xffffffff, 0⟩
  | .ethPdelay => ⟨0x5010c, 2, 0x80, 1, 0, 4, .rw, 0xffffffff, 0⟩
  | .ethTxtsFill => ⟨0x50110, 2, 0x80, 1, 0, 4, .ro, 0, 0⟩
  | .ethTxtsFlag => ⟨0x50114, 2, 0x80, 1, 0, 4, .w1c, 1, 0⟩
  | .ethTxtsLost => ⟨0x50118, 2, 0x80, 1, 0, 4, .rc, 0, 0⟩
  | .ethTxts => ⟨0x50120, 2, 0x80, 4, 4, 4, .ro, 0, 0⟩
  | .ethRxCnt => ⟨0x50130, 2, 0x80, 1, 0, 4, .rc, 0, 0⟩
  | .ethRxErr => ⟨0x50134, 2, 0x80, 1, 0, 4, .rc, 0, 0⟩
  | .ethLanErr => ⟨0x50138, 2, 0x80, 1, 0, 4, .rc, 0, 0⟩
  | .cmdStatus => ⟨0x10000, 1, 0, 1, 0, 4, .ro, 0, 0⟩
  | .cmdTimeoutDef => ⟨0x10004, 1, 0, 1, 0, 4, .rw, 0xffffffff, 0x2710⟩
  | .cmdDbErr => ⟨0x10008, 1, 0, 1, 0, 4, .rc, 0, 0⟩
  | .cmdAuthFailCnt => ⟨0x1000c, 1, 0, 1, 0, 4, .rc, 0, 0⟩
  | .cmdReplayCnt => ⟨0x10010, 1, 0, 1, 0, 4, .rc, 0, 0⟩
  | .cmdTimeoutCnt => ⟨0x10014, 1, 0, 1, 0, 4, .rc, 0, 0⟩
  | .cmdSqBase => ⟨0x11000, 128, 0x40, 1, 0, 8, .rw, 0xffffffffffffffff, 0⟩
  | .cmdCqBase => ⟨0x11008, 128, 0x40, 1, 0, 8, .rw, 0xffffffffffffffff, 0⟩
  | .cmdRingCfg => ⟨0x11010, 128, 0x40, 1, 0, 4, .rw, 0x830cff1f, 0x3000004⟩
  | .cmdRingStat => ⟨0x11014, 128, 0x40, 1, 0, 4, .ro, 0, 0⟩
  | .cmdSqPtr => ⟨0x11018, 128, 0x40, 1, 0, 4, .ro, 0, 0⟩
  | .cmdCqPtr => ⟨0x1101c, 128, 0x40, 1, 0, 4, .ro, 0, 0⟩
  | .cmdLastSeq => ⟨0x11020, 128, 0x40, 1, 0, 8, .ro, 0, 0⟩
  | .cmdDoneCnt => ⟨0x11028, 128, 0x40, 1, 0, 4, .rc, 0, 0⟩
  | .schCtrl => ⟨0x100000, 1, 0, 1, 0, 4, .rw, 0x1f01, 0⟩
  | .schStatus => ⟨0x100004, 1, 0, 1, 0, 4, .ro, 0, 0⟩
  | .schTraceFill => ⟨0x100008, 1, 0, 1, 0, 4, .ro, 0, 0⟩
  | .schTraceLost => ⟨0x10000c, 1, 0, 1, 0, 4, .rc, 0, 0⟩
  | .schBpCnt => ⟨0x100010, 1, 0, 1, 0, 4, .rc, 0, 0⟩
  | .schKmacCnt => ⟨0x100014, 1, 0, 1, 0, 4, .rc, 0, 0⟩
  | .schC0MaxS => ⟨0x100018, 1, 0, 1, 0, 4, .rc, 0, 0⟩
  | .schC0MaxH => ⟨0x10001c, 1, 0, 1, 0, 4, .rc, 0, 0⟩
  | .schList => ⟨0x100040, 16, 4, 1, 0, 4, .ro, 0, 0⟩
  | .schLaneCnt => ⟨0x100080, 4, 4, 1, 0, 4, .rc, 0, 0⟩
  | .secStatus => ⟨0x20000, 1, 0, 1, 0, 4, .ro, 0, 0⟩
  | .secResetCnt => ⟨0x20004, 1, 0, 1, 0, 4, .ro, 0, 0⟩
  | .secReplayWin => ⟨0x20008, 1, 0, 1, 0, 4, .rws, 0xffffffff, 0x3e8⟩
  | .secTamperCfg => ⟨0x2000c, 1, 0, 1, 0, 4, .rws, 0x3ffcf0f, 0xf00⟩
  | .secTamperEvt => ⟨0x20010, 1, 0, 1, 0, 4, .w1c, 0x3ff, 0⟩
  | .secTamperCnt => ⟨0x20014, 1, 0, 1, 0, 4, .ro, 0, 0⟩
  | .secSvn => ⟨0x20018, 1, 0, 1, 0, 4, .ro, 0, 0⟩
  | .secAnchor => ⟨0x20020, 16, 4, 1, 0, 4, .ro, 0, 0⟩
  | .secRingSel => ⟨0x20060, 1, 0, 1, 0, 4, .rw, 0xff, 0⟩
  | .secRingLastSeq => ⟨0x20068, 1, 0, 1, 0, 8, .ro, 0, 0⟩
  | .secRingEpoch => ⟨0x20070, 1, 0, 1, 0, 4, .ro, 0, 0⟩
  | .secRingKey => ⟨0x20074, 1, 0, 1, 0, 4, .ro, 0, 0⟩
  | .secRingExpiry => ⟨0x20078, 1, 0, 1, 0, 8, .ro, 0, 0⟩
  | .secRingNonce => ⟨0x20080, 4, 4, 1, 0, 4, .ro, 0, 0⟩
  | .secTargetId => ⟨0x20090, 4, 4, 1, 0, 4, .ro, 0, 0⟩
  | .secUid => ⟨0x200a0, 4, 4, 1, 0, 4, .ro, 0, 0⟩
  | .secPkey => ⟨0x200c0, 4, 0x10, 1, 0, 4, .ro, 0, 0⟩
  | .secPkeyEpoch => ⟨0x200c4, 4, 0x10, 1, 0, 4, .ro, 0, 0⟩
  | .secPkeyExpiry => ⟨0x200c8, 4, 0x10, 1, 0, 8, .ro, 0, 0⟩
  | .secAnchorFp => ⟨0x20100, 16, 0x40, 12, 4, 4, .ro, 0, 0⟩
  | .secIdWin => ⟨0x22000, 2048, 4, 1, 0, 4, .ro, 0, 0⟩
  | .stgStatus => ⟨0x130000, 1, 0, 1, 0, 4, .ro, 0, 0⟩
  | .stgGen => ⟨0x130004, 1, 0, 1, 0, 4, .ro, 0, 0⟩
  | .stgFailCnt => ⟨0x130008, 1, 0, 1, 0, 4, .ro, 0, 0⟩
  | .stgDiscardCnt => ⟨0x13000c, 1, 0, 1, 0, 4, .rc, 0, 0⟩
  | .stgPeekAddr => ⟨0x130010, 1, 0, 1, 0, 4, .rw, 0x3fffff, 0⟩
  | .stgPeekData => ⟨0x130014, 1, 0, 1, 0, 4, .ro, 0, 0⟩
  | .stgTokenLease => ⟨0x130018, 1, 0, 1, 0, 4, .ro, 0, 0⟩
  | .stgCommitCnt => ⟨0x13001c, 1, 0, 1, 0, 4, .ro, 0, 0⟩
  | .stgLastCommitNt => ⟨0x130020, 1, 0, 1, 0, 8, .ro, 0, 0⟩
  | .stgDeviceCfg => ⟨0x130028, 1, 0, 1, 0, 4, .rws, 0xff000f, 0⟩
  | .stgCfgVer => ⟨0x130030, 1, 0, 1, 0, 8, .ro, 0, 0⟩
  | .stgFail => ⟨0x130040, 16, 8, 1, 0, 8, .ro, 0, 0⟩
  | .glbState => ⟨0x400, 1, 0, 1, 0, 4, .ro, 0, 1⟩
  | .glbArmBlock => ⟨0x404, 1, 0, 1, 0, 4, .ro, 0, 0⟩
  | .glbSelftest => ⟨0x408, 1, 0, 1, 0, 4, .ro, 0, 0⟩
  | .glbStateNt => ⟨0x410, 1, 0, 1, 0, 8, .ro, 0, 0⟩
  | .glbFwStatus => ⟨0x418, 1, 0, 1, 0, 4, .ro, 0, 0⟩
  | .glbFwVer => ⟨0x41c, 2, 4, 1, 0, 4, .ro, 0, 0⟩
  | .glbLogFirst => ⟨0x424, 1, 0, 1, 0, 4, .ro, 0, 0⟩
  | .glbLogLast => ⟨0x428, 1, 0, 1, 0, 4, .ro, 0, 0⟩
  | .glbLogLost => ⟨0x42c, 1, 0, 1, 0, 4, .rc, 0, 0⟩
  | .glbBusyStopCnt => ⟨0x430, 1, 0, 1, 0, 4, .rc, 0, 0⟩
  | .acqCfg => ⟨0xe1000, 8, 0x200, 1, 0, 4, .rws, 0x171f7f03, 0⟩
  | .acqSegs => ⟨0xe1004, 8, 0x200, 1, 0, 4, .rws, 0xff, 0⟩
  | .acqSeglen => ⟨0xe1008, 8, 0x200, 1, 0, 4, .rws, 0xffffffff, 0x1000⟩
  | .acqPost => ⟨0xe100c, 8, 0x200, 1, 0, 4, .rws, 0xffffffff, 0x800⟩
  | .acqTrig => ⟨0xe1010, 8, 0x200, 1, 0, 4, .rws, 0xff, 0⟩
  | .acqTrigSel => ⟨0xe1014, 8, 0x200, 1, 0, 4, .rws, 0xffffffff, 0⟩
  | .acqThrCfg => ⟨0xe1018, 8, 0x200, 1, 0, 4, .rws, 0xff1f0300, 0x1000000⟩
  | .acqThr => ⟨0xe101c, 8, 0x200, 1, 0, 4, .rws, 0xffffffff, 0⟩
  | .acqThrHys => ⟨0xe1020, 8, 0x200, 1, 0, 4, .rws, 0xffffffff, 0⟩
  | .acqRoc => ⟨0xe1024, 8, 0x200, 1, 0, 4, .rws, 0xffffffff, 0x7fffffff⟩
  | .acqMeasHys => ⟨0xe1028, 8, 0x200, 1, 0, 4, .rws, 0xffffffff, 0x1000000⟩
  | .acqStat => ⟨0xe1030, 8, 0x200, 1, 0, 4, .ro, 0, 0⟩
  | .acqTrigIgn => ⟨0xe1034, 8, 0x200, 1, 0, 4, .rc, 0, 0⟩
  | .acqGapCnt => ⟨0xe1038, 8, 0x200, 1, 0, 4, .rc, 0, 0⟩
  | .acqSatCnt => ⟨0xe103c, 8, 0x200, 1, 0, 4, .rc, 0, 0⟩
  | .acqRecCnt => ⟨0xe1040, 8, 0x200, 1, 0, 4, .ro, 0, 0⟩
  | .acqBase => ⟨0xe1048, 8, 0x200, 1, 0, 8, .ro, 0, 0⟩
  | .acqSegBytes => ⟨0xe1050, 8, 0x200, 1, 0, 4, .ro, 0, 0⟩
  | .acqSegFree => ⟨0xe1054, 8, 0x200, 1, 0, 4, .wo, 0xff, 0⟩
  | .acqIrq => ⟨0xe1058, 8, 0x200, 1, 0, 4, .rw, 0x1ff, 0⟩
  | .acqSegFull => ⟨0xe1060, 8, 0x200, 8, 4, 4, .ro, 0, 0⟩
  | .acqCh => ⟨0xe1100, 8, 0x200, 32, 4, 4, .rws, 0x7ff, 0⟩
  | .dmaEccCnt => ⟨0xf0000, 1, 0, 1, 0, 4, .rc, 0, 0⟩
  | .dmaChCfg => ⟨0xf1000, 32, 0x40, 1, 0, 4, .rws, 0xffffffff, 0⟩
  | .dmaChCtrl => ⟨0xf1004, 32, 0x40, 1, 0, 4, .w1s, 3, 0⟩
  | .dmaChStat => ⟨0xf1008, 32, 0x40, 1, 0, 4, .ro, 0, 0⟩
  | .dmaDescBase => ⟨0xf1010, 32, 0x40, 1, 0, 8, .rw, 0xffffffffffffffff, 0⟩
  | .dmaDescCfg => ⟨0xf1018, 32, 0x40, 1, 0, 4, .rw, 0xff011f, 4⟩
  | .dmaDescTail => ⟨0xf101c, 32, 0x40, 1, 0, 4, .rw, 0xfff, 0⟩
  | .dmaDescHead => ⟨0xf1020, 32, 0x40, 1, 0, 4, .ro, 0, 0⟩
  | .dmaBytes => ⟨0xf1024, 32, 0x40, 1, 0, 4, .rc, 0, 0⟩
  | .twnCfg => ⟨0x110000, 1, 0, 1, 0, 4, .rws, 0xff0007, 0x320000⟩
  | .twnStatus => ⟨0x110004, 1, 0, 1, 0, 4, .ro, 0, 0⟩
  | .twnSkew => ⟨0x110008, 1, 0, 1, 0, 4, .ro, 0, 0⟩
  | .twnLat => ⟨0x11000c, 1, 0, 1, 0, 4, .ro, 0, 0⟩
  | .twnSwitchCnt => ⟨0x110010, 1, 0, 1, 0, 4, .rc, 0, 0⟩
  | .twnDigestErrCnt => ⟨0x110014, 1, 0, 1, 0, 4, .rc, 0, 0⟩
  | .twnResyncCnt => ⟨0x110018, 1, 0, 1, 0, 4, .rc, 0, 0⟩
  | .twnItemLateCnt => ⟨0x11001c, 1, 0, 1, 0, 4, .rc, 0, 0⟩
  | .twnFrameErrCnt => ⟨0x110020, 1, 0, 1, 0, 4, .rc, 0, 0⟩
  | .twnMirrorMax => ⟨0x110024, 1, 0, 1, 0, 4, .rc, 0, 0⟩
  | .twnArbCfg => ⟨0x110028, 1, 0, 1, 0, 4, .rws, 0x3f007f, 0x1e001e⟩
  | .mgtCfg => ⟨0x120000, 1, 0, 1, 0, 4, .rws, 0x17f, 0x2a⟩
  | .mgtStatus => ⟨0x120004, 1, 0, 1, 0, 4, .ro, 0, 0⟩
  | .mgtPecErrCnt => ⟨0x120008, 1, 0, 1, 0, 4, .rc, 0, 0⟩
  | .mgtAsmErrCnt => ⟨0x12000c, 1, 0, 1, 0, 4, .rc, 0, 0⟩
  | .mgtCmdCnt => ⟨0x120010, 1, 0, 1, 0, 4, .rc, 0, 0⟩
  | .mgtAuthFailCnt => ⟨0x120014, 1, 0, 1, 0, 4, .rc, 0, 0⟩

/-- The registers of the GLB_ block, in table order. -/
def Reg.blockGlb : List Reg :=
  [.glbDeviceId, .glbStepping, .glbConfig, .glbScratch, .glbAccessErr, .glbAccessAddr, .glbPeriodIdx, .glbPeriodNt, .glbState, .glbArmBlock, .glbSelftest, .glbStateNt, .glbFwStatus, .glbFwVer, .glbLogFirst, .glbLogLast, .glbLogLost, .glbBusyStopCnt]

/-- The registers of the FRD_ block, in table order. -/
def Reg.blockFrd : List Reg :=
  [.frdCtrl, .frdStatus, .frdImageId, .frdImageVer, .frdCostCrit, .frdCostTotal, .frdTc, .frdXfade, .frdSatSum, .frdClassiCnt, .frdInvalidCnt, .frdMboxIn, .frdStallMax, .frdEccCnt, .frdBankWin, .frdMboxOut, .frdMboxOutIdx, .frdSatFlags, .frdParam, .frdPrfCfg, .frdPrfVlim, .frdPrfAlim, .frdPrfJlim, .frdPrfPlo, .frdPrfPhi, .frdPrfInit, .frdPrfStatus, .frdPrfFlags, .frdPrfPos, .frdPrfVel, .frdPrfTgt, .frdPrfOvs, .frdPrfStartIdx, .frdOscCtrl, .frdOscDet, .frdOscEvtCnt, .frdOscSwapRej, .frdOscAmp, .frdOscFreq, .frdOscBand, .frdOscThr, .frdOscAct]

/-- The registers of the DEC_ block, in table order. -/
def Reg.blockDec : List Reg :=
  [.decCtrl, .decTs, .decGrpEn, .decSmp, .decStatus, .decLinkLat, .decAlignCnt, .decStuck, .decTsEff, .decSrc, .decFilt, .decMode, .decGain, .decOfs, .decOut]

/-- The registers of the ADC_ block, in table order. -/
def Reg.blockAdc : List Reg :=
  [.adcCtrl, .adcSeqTrig, .adcUrg, .adcStatus, .adcUrgRes, .adcUrgDropCnt, .adcTrigLostCnt, .adcResDropCnt, .adcSeqCnt, .adcSlot, .adcLatest]

/-- The registers of the PWM_ block, in table order. -/
def Reg.blockPwm : List Reg :=
  [.pwmTbCtrl, .pwmPrd, .pwmSyncOfs, .pwmMinp, .pwmTol, .pwmTbStatus, .pwmPherr, .pwmDropCnt, .pwmShortCnt, .pwmOvlCnt, .pwmRealignCnt, .pwmSyncMissCnt, .pwmZeroNt, .pwmSlotOfs, .pwmSyncCtrl, .pwmSyncInCnt, .pwmForce, .pwmChEn, .pwmOvl, .pwmDt, .pwmCmpa, .pwmCmpb, .pwmChStat]

/-- The registers of the GDL_ block, in table order. -/
def Reg.blockGdl : List Reg :=
  [.gdlCtrl, .gdlLatFix, .gdlOstStart, .gdlTrain, .gdlFltLevel, .gdlStkCfg, .gdlStkStat, .gdlFault, .gdlOstRes, .gdlLat, .gdlAckToCnt, .gdlCrcCnt, .gdlDupCnt, .gdlSoftCnt, .gdlSeq, .gdlDrv]

/-- The registers of the TRP_ block, in table order. -/
def Reg.blockTrp : List Reg :=
  [.trpInLevel, .trpTripped, .trpRecFill, .trpRecLost, .trpRec, .trpTclkSrc, .trpInCfg, .trpCmpAct, .trpStkCfg, .trpProp, .trpStat, .trpCause, .trpPullCnt, .trpClrRefCnt, .trpFirstNt, .trpCmpCfg, .trpCmpThr]

/-- The registers of the SAF_ block, in table order. -/
def Reg.blockSaf : List Reg :=
  [.safStatus, .safInLevel, .safFault, .safTestCfg, .safInCfg, .safPsetId, .safPsetCrc, .safDemandCnt, .safDiscCnt, .safPulseCntA, .safPulseCntB, .safDemandNt]

/-- The registers of the CLK_ block, in table order. -/
def Reg.blockClk : List Reg :=
  [.clkRef, .clkLoop, .clkReacq, .clkStatus, .clkPherr, .clkFreqOfs, .clkEvt, .clkLockLostCnt, .clkJumpCnt, .clkOut]

/-- The registers of the NT_ block, in table order. -/
def Reg.blockNt : List Reg :=
  [.ntCtrl, .ntStatus, .ntCmd, .ntIncr, .ntTimeSec, .ntTimeNs, .ntTimeFrac, .ntTimeNs64, .ntIncrAge, .ntIncrRej, .ntSetCnt, .ntSporePend, .ntSporeRecFill, .ntSporeRecLost, .ntSporeLateCnt, .ntSporeRec, .ntSporeSel, .ntSporeInstant, .ntSporeDesc, .ntPtmCtrl, .ntPtmId, .ntPtmKey, .ntPtmWin, .ntPtmDst, .ntPtmTxCnt, .ntPtmSupprCnt, .ntPtmRxCnt, .ntPtmRxRejCnt]

/-- The registers of the ETH_ block, in table order. -/
def Reg.blockEth : List Reg :=
  [.ethCtrl, .ethMacAddr, .ethDupCnt, .ethPortCfg, .ethPortStat, .ethTsOfs, .ethPdelay, .ethTxtsFill, .ethTxtsFlag, .ethTxtsLost, .ethTxts, .ethRxCnt, .ethRxErr, .ethLanErr]

/-- The registers of the CMD_ block, in table order. -/
def Reg.blockCmd : List Reg :=
  [.cmdStatus, .cmdTimeoutDef, .cmdDbErr, .cmdAuthFailCnt, .cmdReplayCnt, .cmdTimeoutCnt, .cmdSqBase, .cmdCqBase, .cmdRingCfg, .cmdRingStat, .cmdSqPtr, .cmdCqPtr, .cmdLastSeq, .cmdDoneCnt]

/-- The registers of the SCH_ block, in table order. -/
def Reg.blockSch : List Reg :=
  [.schCtrl, .schStatus, .schTraceFill, .schTraceLost, .schBpCnt, .schKmacCnt, .schC0MaxS, .schC0MaxH, .schList, .schLaneCnt]

/-- The registers of the SEC_ block, in table order. -/
def Reg.blockSec : List Reg :=
  [.secStatus, .secResetCnt, .secReplayWin, .secTamperCfg, .secTamperEvt, .secTamperCnt, .secSvn, .secAnchor, .secRingSel, .secRingLastSeq, .secRingEpoch, .secRingKey, .secRingExpiry, .secRingNonce, .secTargetId, .secUid, .secPkey, .secPkeyEpoch, .secPkeyExpiry, .secAnchorFp, .secIdWin]

/-- The registers of the STG_ block, in table order. -/
def Reg.blockStg : List Reg :=
  [.stgStatus, .stgGen, .stgFailCnt, .stgDiscardCnt, .stgPeekAddr, .stgPeekData, .stgTokenLease, .stgCommitCnt, .stgLastCommitNt, .stgDeviceCfg, .stgCfgVer, .stgFail]

/-- The registers of the ACQ_ block, in table order. -/
def Reg.blockAcq : List Reg :=
  [.acqCfg, .acqSegs, .acqSeglen, .acqPost, .acqTrig, .acqTrigSel, .acqThrCfg, .acqThr, .acqThrHys, .acqRoc, .acqMeasHys, .acqStat, .acqTrigIgn, .acqGapCnt, .acqSatCnt, .acqRecCnt, .acqBase, .acqSegBytes, .acqSegFree, .acqIrq, .acqSegFull, .acqCh]

/-- The registers of the DMA_ block, in table order. -/
def Reg.blockDma : List Reg :=
  [.dmaEccCnt, .dmaChCfg, .dmaChCtrl, .dmaChStat, .dmaDescBase, .dmaDescCfg, .dmaDescTail, .dmaDescHead, .dmaBytes]

/-- The registers of the TWN_ block, in table order. -/
def Reg.blockTwn : List Reg :=
  [.twnCfg, .twnStatus, .twnSkew, .twnLat, .twnSwitchCnt, .twnDigestErrCnt, .twnResyncCnt, .twnItemLateCnt, .twnFrameErrCnt, .twnMirrorMax, .twnArbCfg]

/-- The registers of the MGT_ block, in table order. -/
def Reg.blockMgt : List Reg :=
  [.mgtCfg, .mgtStatus, .mgtPecErrCnt, .mgtAsmErrCnt, .mgtCmdCnt, .mgtAuthFailCnt]

/-- Which registers a 64 KiB block of Table ARC-6 holds, by bits [21:16] of the offset. -/
def Reg.ofBlock : Nat → List Reg
  | 0x0 => Reg.blockGlb
  | 0x1 => Reg.blockCmd
  | 0x2 => Reg.blockSec
  | 0x3 => Reg.blockClk
  | 0x4 => Reg.blockNt
  | 0x5 => Reg.blockEth
  | 0x6 => Reg.blockDec
  | 0x7 => Reg.blockAdc
  | 0x8 => Reg.blockFrd
  | 0xa => Reg.blockPwm
  | 0xb => Reg.blockGdl
  | 0xc => Reg.blockTrp
  | 0xd => Reg.blockSaf
  | 0xe => Reg.blockAcq
  | 0xf => Reg.blockDma
  | 0x10 => Reg.blockSch
  | 0x11 => Reg.blockTwn
  | 0x12 => Reg.blockMgt
  | 0x13 => Reg.blockStg
  | _ => []

/-- The BAR0 offset of instance `(i, j)` of a register. -/
def regAddr (r : Reg) (i j : Nat) : Nat :=
  r.row.base + i * r.row.s1 + j * r.row.s2

/-- The reset value of CLK_OUT_k (Table CLK-1, column "Register reset"). -/
def clkOutReset : Nat → Nat
  | 0 => 0x80000004
  | 1 => 0x8000000A
  | 2 => 0x000000C8
  | 3 => 0x80000020
  | 4 => 0x80000032
  | _ => 0x00000001

/-- The reset value of instance `i` of a register. -/
def regReset (r : Reg) (i : Nat) : Nat :=
  if r = .clkOut then clkOutReset i else r.row.reset

/-- Does `off` lie in register `r`, and in which instance? The upper word of a 64-bit register belongs to it. -/
def regHit (r : Reg) (off : Nat) : Option (Reg × Nat × Nat) :=
  let w := r.row
  if off < w.base then none
  else
    let d := off - w.base
    let i := if w.s1 = 0 then 0 else min (d / w.s1) (w.n1 - 1)
    let d := d - i * w.s1
    let j := if w.s2 = 0 then 0 else min (d / w.s2) (w.n2 - 1)
    if d - j * w.s2 < w.size then some (r, i, j) else none

/-- The register that covers a BAR0 offset, with its instance numbers; none at an unassigned offset (R36). -/
def findReg (off : Nat) : Option (Reg × Nat × Nat) :=
  (Reg.ofBlock (off / 0x10000)).findSome? (regHit · off)

/-- The parameters of the two banks of an engine stand beyond BAR0 in the register files, because one BAR0 window shows the
bank that FRD_BANK_WIN_e selects. This is the place of parameter `i` of bank `b` of engine `e`. -/
def paramAddr (e b i : Nat) : Nat :=
  0x400000 + e * 0x4000 + b * 0x2000 + i * 4

/-- What a register file holds where nothing is listed: the reset value of the register at that offset; in the MSI-X table the
vector control words are 1, masked (R312; PRESUMED from the PCIe Base Specification, log 4); and 0 elsewhere. -/
def regDefault (off : Nat) : DWord :=
  match findReg off with
  | some (r, i, _) => BitVec.ofNat 64 (regReset r i)
  | none => if 0x18000 ≤ off ∧ off < 0x19000 ∧ off % 16 = 12 then 1 else 0

/-- A register file: the registers whose value is not their reset value, by the offset of their first byte. -/
abbrev RegFile := List (Nat × DWord)

/-- The value of instance `(i, j)` of a register. -/
def regGet (f : RegFile) (r : Reg) (i : Nat := 0) (j : Nat := 0) : DWord :=
  cellsRead (fun _ => BitVec.ofNat 64 (regReset r i)) f (regAddr r i j)

/-- Set instance `(i, j)` of a register. -/
def regSet (f : RegFile) (r : Reg) (i j : Nat) (v : DWord) : RegFile :=
  cellsWrite (fun _ => BitVec.ofNat 64 (regReset r i)) f (regAddr r i j) v

/-- A parameter of one bank (R110). -/
def paramGet (f : RegFile) (e b i : Nat) : DWord :=
  cellsRead (fun _ => 0) f (paramAddr e b i)

/-- Set a parameter of one bank. -/
def paramSet (f : RegFile) (e b i : Nat) (v : DWord) : RegFile :=
  cellsWrite (fun _ => 0) f (paramAddr e b i) v

/-- Bits [hi:lo] of a register, as a number. -/
def bitsOf (v : DWord) (hi lo : Nat) : Nat :=
  (v.toNat / 2 ^ lo) % 2 ^ (hi + 1 - lo)

/-- Bit `n` of a register. -/
def bitOf (v : DWord) (n : Nat) : Bool :=
  v.toNat.testBit n

/-- A field of a register in a register file. -/
def fld (f : RegFile) (r : Reg) (i j hi lo : Nat) : Nat :=
  bitsOf (regGet f r i j) hi lo

/-- The same bits of a register replaced. -/
def withBits (v : DWord) (hi lo : Nat) (x : Nat) : DWord :=
  let n := 2 ^ (hi + 1 - lo)
  BitVec.ofNat 64 (v.toNat - ((v.toNat / 2 ^ lo) % n) * 2 ^ lo + (x % n) * 2 ^ lo)

end Sys2Proof.Machine
end

