-- ==== Sys2Proof/Machine/StateCmd.lean ====
section
/-! DEFINITION. The parts of the state behind the command interface: rings, commands in flight, the scheduler with its ready
lists and trace queue, the operating state, firmware slots and the event log (Host command rings; Start-up and operating
states). Every field names what it holds at reset by its default. -/

namespace Sys2Proof.Machine

/-! ### Rings and the scheduler -/

/-- The state of a ring (Table CMD-14). -/
inductive RingState where
  | disabled | running | draining | fault
  deriving DecidableEq, Repr

/-- The state of a ring beside its registers (R311 to R317, R322): its indexes, the values last written to its doorbells, the
phase of its completions, its commands in flight and whether back-pressure has stopped its fetching. -/
structure Ring where
  st       : RingState := .disabled
  err      : Nat := 0
  bp       : Bool := false
  sqHead   : Nat := 0
  sqTail   : Nat := 0
  cqHead   : Nat := 0
  cqTail   : Nat := 0
  phase    : Bool := true
  dbSq     : Word := 0
  dbCq     : Word := 0
  /-- The instant of the doorbell that moved the tail last, and for the entries still to be fetched the instants of their own doorbells,
  oldest first, each with the number of entries it brought (R333). -/
  dbAt     : Nat := 0
  bells    : List (Nat × Nat) := []
  /-- Commands fetched whose completion is not written yet. -/
  inFlight : Nat := 0
  deriving DecidableEq, Repr

/-- The work item a command in flight is at, before its acceptance, and the unwrap of an accepted grant (R349). -/
inductive WorkKind where
  | parse | verify | place | unwrap
  deriving DecidableEq, Repr

/-- A fetched command that is not accepted yet (Table CMD-2): the descriptor, payload and signature bytes as read once (R316),
its deadline (R327) and the work item it is at. -/
structure Flight where
  /-- Fetches are numbered, because two commands may carry one SEQ (Table AUT-8). -/
  no       : Nat
  ring     : Fin 128
  desc     : Bytes
  payload  : Bytes
  sig      : Bytes
  /-- Authentication succeeded: the key it was verified with is that of the descriptor (R352). -/
  verified : Bool := false
  /-- The fuse count of the anchor slot and the TARGET_ID that its verification has gone by (R343). -/
  verGen   : Nat := 0
  verTarget : BitVec 128 := 0
  /-- The anchor record on which a hybrid verification has begun; none where the slot was not valid (Table AUT-8). -/
  anchor   : Option (Bytes × Bytes) := none
  work     : WorkKind := .parse
  dbAt     : Nat
  deadline : Nat
  deriving DecidableEq, Repr

/-- A work item on a ready list or in a unit (R328): its level, its kind and the number of its command. -/
structure WorkItem where
  level : Nat
  kind  : WorkKind
  no    : Nat
  deriving DecidableEq, Repr

/-- An accepted command that PLACE has handed to the block that acts on it, with the instant of its acceptance and whether the block
has acted on it. -/
structure Handed where
  src     : Src
  opcode  : Nat
  payload : Bytes
  at_     : Nat := 0
  acted   : Bool := false
  /-- A grant whose anchor has gone, or whose keys a tamper has erased, since its acceptance (R345, Table AUT-8). -/
  dead    : Bool := false
  deriving DecidableEq, Repr

/-- The command interface and the scheduler. `ready` holds the items of all sixteen lists, oldest first. -/
structure CmdState where
  rings     : Vector Ring 128 := Vector.replicate 128 {}
  flights   : List Flight := []
  nextNo    : Nat := 0
  handed    : List Handed := []
  ready     : List WorkItem := []
  units     : Vector (Option WorkItem) 7 := Vector.replicate 7 none
  /-- Levels whose fetching back-pressure has stopped (R330). -/
  bpLevels  : BitVec 16 := 0
  trace     : List DWord := []
  /-- Bytes of the head record that have been taken out already. -/
  traceTaken : Nat := 0
  /-- The instant at which the trace queue last stopped being empty. -/
  traceSince : Nat := 0
  /-- Records dropped since the queue was last written (R331). -/
  traceGap  : Nat := 0
  /-- MSI-X messages sent, oldest first, by vector. -/
  msix      : List (BitVec 8) := []
  /-- The pending-bit array of MSI-X (R312). -/
  pba       : BitVec 256 := 0
  deriving DecidableEq, Repr

/-! ### Operating state, firmware, event log -/

/-- The operating states (Table OPS-1). -/
inductive OpState where
  | off | boot | selftest | idle | armed | running | stopping | halted
  deriving DecidableEq, Repr

/-- A pending OPS_START, OPS_STOP or other action at the instant C of R368: the command, the reference engine and the
network-time instant it waits for. -/
structure PendOp where
  src    : Src
  engine : Fin 8
  acceptAt : Nat
  takeIdx : Option DWord
  deriving DecidableEq, Repr

/-- A firmware slot: what the image of it says, where it holds a valid one (R389). -/
structure FwSlot where
  valid   : Bool := false
  version : Word := 0
  svn     : Nat := 0
  body    : Bytes := []
  deriving DecidableEq, Repr

/-- Image slot 0 as the module leaves manufacture: the released firmware, or nothing (Table SCO-2, log 62). -/
def factorySlot : FwSlot :=
  let b := Config.factoryFirmware
  if Config.preloaded then { valid := true, version := BitVec.ofNat 32 (pf b 8 4), svn := pb b 12, body := b } else {}

/-- A firmware image write in progress (R389). -/
structure FwWrite where
  src  : Src
  slot : Nat
  img  : FwSlot
  deriving DecidableEq, Repr

/-- The operating state and the firmware slots. -/
structure OpsState where
  st       : OpState := .boot
  prev     : Nat := 0
  cause    : Nat := 0
  stateNt  : DWord := 0
  held     : Bool := false
  vinOk    : Bool := true
  /-- The instant at which VIN was lost last (R468). -/
  vinLostAt : Nat := 0
  starts   : List PendOp := []
  stops    : List PendOp := []
  /-- The command cores have stopped (R386). -/
  coresStopped : Bool := false
  /-- The two copies of the boot loader in NAND (Table AUT-10, step 1). -/
  loader0  : Bytes := Config.factoryLoader
  loader1  : Bytes := Config.factoryLoader
  slot0    : FwSlot := factorySlot
  slot1    : FwSlot := {}
  runSlot  : Nat := 0
  actSlot  : Nat := 0
  fallback : Bool := false
  fwWrite  : Option FwWrite := none
  /-- Blocks that a refresh has rewritten, oldest first, each with the number of the spare block that it went to (R482). -/
  spares   : List (Nat × Nat) := []
  /-- The instant since when the firmware watchdog has not been serviced. -/
  watchdogAt : Nat := 0
  deriving DecidableEq, Repr

/-- An event-log record (Table OPS-6); its CRC is computed where the record is written out. -/
structure LogRec where
  ntNs   : DWord
  recno  : Word
  rtc    : Word
  source : Nat
  type   : Nat
  state  : Nat
  flags  : Nat
  detail : Word
  body   : Bytes
  resets : Word
  deriving DecidableEq, Repr

/-- The event log (R391): the buffer, the records in NAND, oldest first, and the next record number. -/
structure LogState where
  buffer : List LogRec := []
  nand   : List LogRec := []
  recno  : Word := 0
  /-- The buffer is to be flushed ahead of every other NAND access (R385). -/
  urgent : Bool := false
  deriving DecidableEq, Repr

end Sys2Proof.Machine
end

