-- ==== Sys2Proof/Machine/StateFront.lean ====
section
/-! DEFINITION. The parts of the state that lie on the main path up to the gate edges: control graphs and engines, profile
channels, detectors, the template's grid-forming state, the decimation engine, the SAR converter, timebases and channels.
Every field names what it holds at reset by its default. -/

namespace Sys2Proof.Machine

/-! ### Control graphs -/

/-- A block record of a graph image (Table FRD-2). -/
structure BlockRec where
  code      : Nat
  opt       : Nat
  ins       : List Nat
  outs      : List Nat
  paramBase : Nat
  stateOff  : Nat
  imm       : Nat
  deriving DecidableEq, Repr

/-- A parameter descriptor (R70): type 0 = Q4.28, 1 = binary turns, 2 = unsigned; interpolation 0 = LINEAR, 1 = STEP. -/
structure ParamDesc where
  ty     : Nat
  interp : Nat
  dflt   : Word
  deriving DecidableEq, Repr

/-- A control graph image after its load checks (Table FRD-1, R70). -/
structure Image where
  kind       : Nat
  nStacks    : Nat
  imageId    : DWord
  version    : Word
  signals    : Nat
  stateBytes : Nat
  costCrit   : Nat
  costTotal  : Nat
  tcMin      : Nat
  tcMax      : Nat
  blocks     : List BlockRec
  params     : List ParamDesc
  consts     : List Word
  initSig    : List Word
  initState  : List DWord
  /-- The image as it was loaded, trailer and all: a resynchronisation sends it (Table TWN-6). -/
  raw        : Bytes := []
  deriving DecidableEq, Repr

/-! ### Profiles and detectors -/

/-- An oscillation detector input (R127). Filter states are in Q4.60; `tPrev` is in 1/256 period. -/
structure OscInput where
  tap       : Word := 0
  hx1       : Int := 0
  hx2       : Int := 0
  hy1       : Int := 0
  hy2       : Int := 0
  ly1       : Int := 0
  ly2       : Int := 0
  y         : Int := 0
  pkPos     : Int := 0
  pkNeg     : Int := 0
  armedDown : Bool := false
  tPrev     : Nat := 0
  havePrev  : Bool := false
  count     : Nat := 0
  latched   : Bool := false
  /-- A detection declared in this period, acted on at the next boundary. -/
  detect    : Bool := false
  freq      : Word := 0
  amp       : Word := 0
  deriving DecidableEq, Repr

/-! ### Engines -/

/-- An inbound mailbox entry (Table FRD-9), with the command's header and the instant of its acceptance. -/
structure MboxEntry where
  opcode   : Nat
  src      : Src
  cls      : Nat
  reserved : Bool
  acceptAt : Nat
  takeIdx  : Option DWord
  payload  : Bytes
  deriving DecidableEq, Repr

/-- Who asked for a bank swap (R106): the oscillation detector, a spore slot executed at an instant, or a command. -/
inductive SwapFrom where
  | osc
  | spore (slot : Nat) (at_ : Nat)
  | mbox (src : Src)
  deriving DecidableEq, Repr

/-- A bank-swap request (R105, R106): who asked, the bank (true = B), the length, the instant of the request, and in a Lichen pair the
index it is taken at (R299). -/
structure SwapReq where
  who  : SwapFrom
  bank : Bool
  len  : Nat
  at_  : Nat
  takeIdx : Option DWord := none
  deriving DecidableEq, Repr

/-- A profile start of a scheduled action (R118, R119): its slot, the instant of its execution, the channel and the target, and in a
Lichen pair the index it is taken at (R299). -/
structure SporeStart where
  slot   : Nat
  at_    : Nat
  chan   : Nat
  target : Word
  takeIdx : Option DWord := none
  deriving DecidableEq, Repr

/-- Who waits for several engines to take one piece of work: a command with its opcode, or a spore slot executed at an instant,
with its action and the flags and instant of its record. -/
inductive WaitFor where
  | cmd (src : Src) (opcode : Nat)
  | spore (slot : Nat) (at_ : Nat) (action : Nat) (late same : Bool) (nt : DWord)
  deriving DecidableEq, Repr

/-- Work handed to the engines of a mask: the engines still to report, the status code so far, the DETAIL so far, the instant of
the latest report and what has been read for the command's result. -/
structure EngWait where
  who    : WaitFor
  left   : BitVec 8
  code   : Nat := 0
  detail : Option Nat := none
  at_    : DWord := 0
  deriving DecidableEq, Repr

/-- A compare written by the engine: channel within the stack, rising or falling, value (R91). -/
structure ShadowEdge where
  slot   : Nat
  chan   : Nat
  rising : Bool
  value  : BitVec 29
  deriving DecidableEq, Repr

/-- A control engine (R65 to R110). -/
structure Engine where
  image     : Option Image := none
  /-- The engine runs its graph (R68). -/
  executing : Bool := false
  /-- The engine's state has been reset (R68), and it begins at the next boundary. -/
  armReset  : Bool := false
  /-- The first boundary of RUNNING has not passed yet (R115). -/
  firstRun  : Bool := false
  fault     : Bool := false
  idx       : DWord := 0
  ntB       : DWord := 0
  atB       : Nat := 0
  /-- The committed registers that the period runs on, taken at its boundary (R26, R28), and whether it runs in ARMED (R68). -/
  seen      : RegFile := []
  seenArmed : Bool := false
  started   : Bool := false
  /-- E_k, the instant of the latest engine start. -/
  startAt   : Nat := 0
  published : Bool := true
  complete  : Bool := true
  stall     : Nat := 0
  signals   : List Word := []
  bst       : List DWord := []
  satHi     : BitVec 1024 := 0
  satLo     : BitVec 1024 := 0
  crossWork : Vector Word 16 := Vector.replicate 16 0
  crossPub  : Vector Word 16 := Vector.replicate 16 0
  mboxWork  : Vector Word 64 := Vector.replicate 64 0
  mboxPub   : Vector Word 64 := Vector.replicate 64 0
  mboxPubIdx : DWord := 0
  mboxCap   : Vector Word 64 := Vector.replicate 64 0
  frame     : Vector Word 64 := Vector.replicate 64 0
  inbox     : List MboxEntry := []
  /-- Active bank, true = B. -/
  bankB     : Bool := false
  work      : List Word := []
  fade      : Option Fade := none
  fadeLast  : Bool × Nat := (false, 0)
  shadow    : List ShadowEdge := []
  /-- The edges that MOD3L computed last for the stack slots, which PWMW writes to the working shadow set. -/
  mod       : List ShadowEdge := []
  pull      : Bool × Bool := (false, false)
  /-- The period sample: words of the decimated channels, and whether it is complete (R139). -/
  sample    : List (Nat × DWord) := []
  sampleDue : Option Nat := none
  sampleGrp : Nat := 0
  /-- It completed step 10 of Table ARC-4 in its latest period (R422). -/
  lastDone  : Bool := true
  /-- Own trip state and own SAR results at the latest boundary, which a pair's next input frame uses (R435). -/
  ownTrips  : BitVec 16 := 0
  ownSar    : List (BitVec 16) := []
  /-- The digests that the period has delivered so far, in list order; those of the latest period that has ended, and its index
  (R43, R89). -/
  digest    : List DWord := []
  digests   : List DWord := []
  digestIdx : DWord := 0
  /-- The work taken at the latest boundary, which a resynchronising standby records (Table TWN-6). -/
  tookIn    : List MboxEntry := []
  tookStarts : List SporeStart := []
  tookSwaps : List SwapReq := []
  prf       : Vector PrfChan 8 := Vector.replicate 8 {}
  osc       : Vector OscInput 16 := Vector.replicate 16 {}
  sporeStarts : List SporeStart := []
  swaps     : List SwapReq := []
  brkCmd    : Bool := false
  gfm       : GfmState := {}
  deriving DecidableEq, Repr

/-! ### The decimation engine -/

/-- One moving sum: its value modulo 2^40 and its latest inputs, newest first (R141). -/
structure SumStage where
  s    : BitVec 40 := 0
  hist : List (BitVec 40) := []
  deriving DecidableEq, Repr

/-- A decimation channel (R141 to R151) with its fast-path comparator (R227). -/
structure DecChan where
  stages    : List SumStage := []
  /-- Bits counted for validity: since the latest clearing event or the differing bit that ended a stuck run (R145, R147). -/
  valBits   : Nat := 0
  fast1     : SumStage := {}
  fast2     : SumStage := {}
  fastBits  : Nat := 0
  runBit    : Bool := false
  runLen    : Nat := 0
  stuck     : Bool := false
  srcDown   : Bool := false
  /-- The next output is the first after a dump-phase alignment (R140). -/
  alignPend : Bool := false
  /-- The channel is cleared at its group's next dump (R149). -/
  clearPend : Bool := false
  cmpActive : Bool := false
  cmpMasked : Bool := true
  deriving DecidableEq, Repr

/-- A decimation group: whether it dumps, its dump count, and a synchronising reset that is due (R146). -/
structure DecGroup where
  dumping   : Bool := false
  count     : BitVec 16 := 0
  resetPend : Bool := false
  /-- The tick of the latest dump. -/
  lastTick  : Option Nat := none
  deriving DecidableEq, Repr

/-- The decimation engine. -/
structure MeasState where
  chans    : Vector DecChan 160 := Vector.replicate 160 {}
  groups   : Vector DecGroup 20 := Vector.replicate 20 {}
  /-- Modulator ticks since output 2 last restarted. -/
  tick     : Nat := 0
  /-- The tick that the latest alignment gave a group-0 dump: those that differ from it by a multiple of D have one (R138, R140). -/
  dumpBase : Int := 0
  /-- The ticks of the latest group-0 dumps, newest first, which the dumps of the other groups follow (R138). -/
  dump0    : List Nat := []
  /-- Bits received on each link and not delivered yet, oldest first: the tick number modulo 2^16 at which the interface
  sampled them, and one byte, bit j = bitstream j (R135, Table GDL-10). -/
  linkBits : Vector (List (Nat × Byte)) 16 := Vector.replicate 16 []
  deriving DecidableEq, Repr

/-! ### The SAR converter -/

/-- What the SAR converter converts (R153). -/
inductive SarConv where
  | idle
  | slot (n : Nat) (done : Nat) (sum : Nat)
  | urgent (input : Nat)
  deriving DecidableEq, Repr

/-- The SAR converter and its 64-entry result queue (R156). -/
structure SarState where
  conv    : SarConv := .idle
  pending : Bool := false
  /-- A sequence that an urgent conversion has put off by 250 ns (Table MEA-6). -/
  held    : Bool := false
  /-- The instant at which the sequence in progress starts. -/
  startAt : Nat := 0
  /-- The end of the conversion in progress, one every 250 ns. -/
  convEnd : Nat := 0
  /-- The CTL cycle of the latest sequence trigger (R154). -/
  trigAt  : Option Nat := none
  queue   : List Word := []
  /-- The instant at which the queue last stopped being empty. -/
  since   : Nat := 0
  /-- Bytes of the oldest result that DMA has moved already. -/
  taken   : Nat := 0
  deriving DecidableEq, Repr

/-! ### Pulse-width generation -/

/-- The state of a timebase (Table PWM-11). -/
inductive TbRun where
  | stopped | waiting | running
  deriving DecidableEq, Repr

/-- A timebase (R160, R180 to R192). Instants are in units of 31.25 ps of elapsed CTL time. -/
structure Timebase where
  run       : TbRun := .stopped
  prd       : Nat := 32000
  dbl       : Bool := false
  syncSrc   : Nat := 0
  syncOfs   : Nat := 0
  zeroAt    : Nat := 0
  zeroNt    : DWord := 0
  half      : Bool := false
  /-- Length of the current period in units of 31.25 ps, P plus the realignment in progress. -/
  len       : Nat := 1024000
  /-- A realignment decided, for the period that begins at the next zero (R190), in units of 31.25 ps. -/
  nextDelta : Option Int := none
  aligning  : Bool := false
  /-- The current period is a realigned one. -/
  realigning : Bool := false
  outRun    : Nat := 0
  slotErr   : Bool := false
  inSync    : Bool := false
  phErr     : Int := 0
  slotSeen  : Nat := 0
  startAt   : Nat := 0
  stopPend  : Bool := false
  setPend   : Bool := false
  deriving DecidableEq, Repr

/-- A channel generator (R163 to R179) with its gate handshake in direct mode (R197 to R201). The levels follow Table PWM-2:
`req` after stage 1, `lvl` after stage 2, `out` after stage 5, `gc` after stages 6 and 7 (the GC land in direct mode). -/
structure Chan where
  cmpA    : BitVec 29 := 0x1FFFFFFF
  cmpB    : BitVec 29 := 0
  pendA   : Option (BitVec 29) := none
  pendB   : Option (BitVec 29) := none
  /-- Edges of the current period that are still to come. -/
  dueA    : Bool := false
  dueB    : Bool := false
  req     : Bool := false
  lvl     : Bool := false
  out     : Bool := false
  /-- A rising edge waiting for the instant of R170. -/
  wait    : Option Nat := none
  /-- The latest instant at which the output turned off (t_off of R170). -/
  offAt   : Nat := 0
  /-- The opening instant of an interval that was judged and kept, with the width R173 asks for (R175). -/
  openAt  : Option (Nat × Nat) := none
  /-- The interval in progress was dropped (R173, R177). -/
  dropped : Bool := false
  pulled  : Bool := false
  /-- The request stands, but a pull-in or a trip has taken the output, or the rise that waited, away (R179, R231). -/
  cut     : Bool := false
  /-- Whole-period off until the next load point (R169) or zero (R239). -/
  hold    : Bool := true
  /-- Level that FORCE gives the channel in this period (R167). -/
  force   : Option Bool := none
  /-- The instant at which an off sequence turns the channel off (R193, R231, R381). -/
  offSeq  : Option Nat := none
  /-- That sequence acts in stage 1, and whole-period off follows it (R169, R193); a trip acts in stage 6 alone. -/
  offOne  : Bool := false
  gc      : Bool := false
  /-- The instant of the latest GC edge (R198). -/
  gcAt    : Nat := 0
  /-- The GC readback differs from the driven level (Table GDL-13). -/
  gcDiff  : Bool := false
  ga      : Bool := false
  /-- GA has confirmed off since this channel's GC last fell (R199). DESIGN CHOICE: a GC that has never risen counts as confirmed off
from reset on (log 2). -/
  gaOff   : Bool := true
  /-- The instant by which GA must confirm the latest GC edge (R200). -/
  ackDue  : Option Nat := none
  /-- The instant since when GA has differed from GC outside an interval that R200 times (R201). -/
  diffAt  : Option Nat := none
  deriving DecidableEq, Repr

/-- The PWM block. -/
structure PwmState where
  tbs     : Vector Timebase 16 := Vector.replicate 16 {}
  chans   : Vector Chan 192 := Vector.replicate 192 {}
  overlap : Vector Bool 96 := Vector.replicate 96 false
  syncOut : Bool := false
  syncOutAt : Nat := 0
  /-- The SYNC_IN pulses outside their window in the two latest periods: distance from the expected instant, and the zero each stood nearest to. -/
  strays : List (Int × Nat) := []
  /-- The source zero that the latest SYNC_IN pulse gave (R185). -/
  srcZero : Option Nat := none
  /-- The zero that the latest pulse within TOL stood for, and the zero for which a miss was counted last (R186). -/
  goodZero : Option Nat := none
  missZero : Option Nat := none
  deriving DecidableEq, Repr

end Sys2Proof.Machine
end

