-- ==== Sys2Proof/Machine/StateTime.lean ====
section
/-! DEFINITION. The parts of the state that keep time: the ADPLL and its outputs, the network-time clock, spore slots and their
records, plant trigger messages and the Ethernet ports (Clock synthesis; Network time, Ethernet and scheduled actions). Every
field names what it holds at reset by its default. -/

namespace Sys2Proof.Machine

/-- The states of the ADPLL (Table CLK-3). -/
inductive ClkLoop where
  | acquire | locked | coasting | slewing | jumpWait
  deriving DecidableEq, Repr

/-- The ADPLL (R267 to R281). Frequency words are offsets from the nominal in units of 0.001 ppm; errors are in ps. -/
structure ClkState where
  st        : ClkLoop := .acquire
  /-- The reference in use, encoded as REF_SEL; the loop acquires on the TCXO (Table CLK-3). -/
  refActive : Nat := 0
  qualified : Bool := false
  present   : Bool := false
  lockRun   : Nat := 0
  badRun    : Nat := 0
  err       : Int := 0
  /-- The nanosecond count's offset, in units of 2^−32 ns, kept for 1PPS and network time (R273, R275). -/
  nsOfs     : Int := 0
  ctrl      : Int := 0
  hist      : List Int := []
  frozen    : Int := 0
  /-- The instant of the latest entry to COASTING, and the offset of the oscillator when the loop was last locked (R278). -/
  coastAt   : Nat := 0
  lockedOfs : Int := 0
  /-- The error that the slew in progress removes, in ps, and the instant at which its offset began to rise (R279). -/
  slewErr   : Int := 0
  slewAt    : Nat := 0
  /-- Commands CLK_REACQUIRE with STEP that wait for the next comparison (R280). -/
  stepWait  : List Src := []
  /-- Outputs that run, bit k. -/
  running   : BitVec 8 := 0
  /-- Outputs that a strobe has changed and that have not restarted yet (R269, R270). -/
  strobe    : BitVec 8 := 0
  /-- The instant of the latest update strobe (R269). -/
  strobeAt  : Nat := 0
  /-- The instant at which output 2 last restarted. -/
  restartAt : Nat := 0
  /-- The CTL tick at which each output last restarted (R270, R280). -/
  outAt     : Vector Nat 8 := Vector.replicate 8 0
  /-- The instant of the latest comparison, since when the edges of 10 MHz have been good without a break, and the latest edges of 1PPS in a
  row that were each 1 s ± 10 µs from the one before (Table CLK-2). -/
  cmpAt     : Nat := 0
  refSince  : Option Nat := none
  edges     : Nat := 0
  /-- The instant of the latest edge of the selected reference, and since when its edges have been off its frequency without a break
  (Table CLK-2). -/
  edgeAt    : Nat := 0
  badSince  : Option Nat := none
  /-- The instant of the power-up, from which the loop acquires (Table CLK-3). -/
  acqAt     : Nat := 0
  deriving DecidableEq, Repr

/-- A pending spore slot (R296, Table NT-4): its arguments are load bytes 16 onwards. -/
structure Spore where
  action  : Nat
  lateOk  : Bool
  /-- It was loaded late and executes in the next NT cycle (R297). -/
  late    : Bool
  instant : DWord
  args    : Bytes
  /-- The instant of the load's acceptance, which orders it against commits (Table STG-4). -/
  acceptAt : Nat
  /-- The instant at which the slot was written, from whose next NT cycle on it is compared (R297). -/
  wroteAt  : Nat
  deriving DecidableEq, Repr

/-- A spore record (Table NT-6). -/
structure SporeRec where
  nt      : DWord
  slot    : Nat
  action  : Nat
  result  : Nat
  late    : Bool
  same    : Bool
  discard : Bool
  detail  : Word
  deriving DecidableEq, Repr

/-- A slot that belongs to a batch which has become due (R298). -/
structure DueSlot where
  slot  : Nat
  spore : Spore
  same  : Bool
  deriving DecidableEq, Repr

/-- A plant-trigger event that waits to be published (R303): cause bit of TX_SRC or 5, TRIG_NT and DETAIL. -/
structure PtmEvent where
  cause  : Nat
  trigNt : DWord
  detail : Word
  deriving DecidableEq, Repr

/-- A sender of plant trigger messages (R306). -/
structure PtmSender where
  unit   : BitVec 16
  seq    : DWord
  sendNt : DWord
  at_    : Nat
  deriving DecidableEq, Repr

/-- Network time, the spore unit and the plant trigger logic. -/
structure NtState where
  sec      : BitVec 48 := 0
  ns       : Nat := 0
  frac     : Word := 0
  /-- TCXO time since the latest NT cycle began, in 10^−9 of 31.25 ps. -/
  phase    : Nat := 0
  valid    : Bool := false
  /-- The instant of the last applied increment write (R289). -/
  incrAt   : Nat := 0
  slots    : Vector (Option Spore) 256 := Vector.replicate 256 none
  batches  : List (List DueSlot) := []
  recs     : List SporeRec := []
  captured : Option SporeRec := none
  ppsOut   : Bool := false
  ppsAt    : Nat := 0
  events   : List PtmEvent := []
  holdoff  : Option Nat := none
  msgCount : Word := 0
  senders  : List PtmSender := []
  deriving DecidableEq, Repr

/-- A transmit timestamp (Table NT-3). -/
structure TxTs where
  nt     : DWord
  id     : BitVec 16
  domain : Byte
  flags  : Byte
  deriving DecidableEq, Repr

/-- A frame given to a port: its bytes without the FCS, and, for one that HSR forwards, the ingress port and the receive
timestamp. -/
structure TxFrame where
  bytes   : Bytes
  ingress : Option (Nat × DWord) := none
  deriving DecidableEq, Repr

/-- One Ethernet port. -/
structure EthPort where
  anDone   : Bool := false
  sync     : Bool := false
  link     : Bool := false
  /-- The inputs ETH_LOS_p and ETH_MODABS_N_p from the SFP cage, as the signals they stand for: light lost, module absent (Table ELE-2). -/
  los      : Bool := false
  modAbs   : Bool := false
  txts     : List TxTs := []
  captured : Option TxTs := none
  /-- Frames given to the port to be sent, the highest-priority ones first. -/
  txq      : List TxFrame := []
  /-- Frames sent, newest first. -/
  sent     : List Bytes := []
  deriving DecidableEq, Repr

/-- The Ethernet block: ports, the bytes of the receive queue with the frames that it has dropped, and the frames of the transmit queue (Table ACQ-8) with the bytes of a
frame that is still arriving by DMA, the duplicate table of source with direction, sequence number and instant, the supervision
frames received and sent, and the sequence number of the redundancy tags (R285). -/
structure EthState where
  ports : Vector EthPort 2 := Vector.replicate 2 {}
  rxq   : Bytes := []
  /-- The instant at which the receive queue last stopped being empty. -/
  rxSince : Nat := 0
  rxLost : Word := 0
  txq   : List Bytes := []
  txPart : Bytes := []
  dups  : List (Bytes × Nat × Nat) := []
  /-- Supervision frames received (Table NT-1); the spec gives the count neither a register nor a width (DESIGN CHOICE, log 58). -/
  supCount : Nat := 0
  supSeq : BitVec 16 := 0
  supAt : Nat := 0
  redSeq : BitVec 16 := 0
  deriving DecidableEq, Repr

end Sys2Proof.Machine
end

