-- ==== Sys2Proof/Machine/StateData.lean ====
section
/-! DEFINITION. The parts of the state that record and move data and that tie two modules together: acquisition units, DMA
channels, the Lichen pair with the arbiter function, and the management port (Acquisition and data movement; Lichen pairs;
Side-band management port). Every field names what it holds at reset by its default. -/

namespace Sys2Proof.Machine

/-! ### Acquisition -/

/-- The states of an acquisition unit (Table ACQ-2). -/
inductive AcqSt where
  | idle | armed | triggered | rearm | hold
  deriving DecidableEq, Repr

/-- The states of a segment (R398). -/
inductive SegSt where
  | empty | filling | full
  deriving DecidableEq, Repr

/-- The running measurement of one channel of a record (Table ACQ-5). -/
structure AcqMeas where
  n      : Nat := 0
  least  : Int := 0
  most   : Int := 0
  sum    : Int := 0
  sumSq  : Nat := 0
  below  : Bool := false
  cross  : Nat := 0
  tFirst : Int := 0
  tLast  : Int := 0
  sat    : Bool := false
  skipped : Bool := false
  prevAt : Option (Int × Nat) := none
  deriving DecidableEq, Repr

/-- An acquisition unit. `insts` holds the number and the instant of the sets captured since arming, newest first, as
far back as a record reaches. -/
structure AcqUnit where
  st       : AcqSt := .idle
  segs     : Vector SegSt 256 := Vector.replicate 256 .empty
  cur      : Nat := 0
  /-- The segment that it last filled with a record (R398). -/
  last     : Option Nat := none
  /-- The instant at which the filling segment was armed. -/
  armAt    : Nat := 0
  /-- Sets captured, dropped ones included, since arming. -/
  count    : Nat := 0
  insts    : List (Nat × DWord) := []
  /-- The values of the latest sets of the threshold channel, newest first, for THRESHOLD and RATE. -/
  thr      : List Int := []
  thrArmLo : Bool := false
  thrArmHi : Bool := false
  /-- The set in the making: its instant, status bits and words. -/
  part     : Option (DWord × Nat × List (Nat × Word)) := none
  /-- Averaging: inputs summed so far, their sums and status bits (R396). -/
  avgN     : Nat := 0
  avg      : List Int := []
  avgBad   : Nat := 0
  /-- The trigger: set number (fixed when captured), sources, detail, instant. -/
  trigSet  : Option Nat := none
  /-- Sources recognised while the trigger set waits for its capture: TRIG_SRC bit, instant, detail. -/
  trigMore : List (Nat × DWord × Nat) := []
  trigSrc  : BitVec 11 := 0
  /-- The source that TRIG_DETAIL belongs to. -/
  trigBit  : Nat := 0
  trigDet  : Word := 0
  trigNt   : DWord := 0
  /-- FLAGS of Table ACQ-4. -/
  flags    : BitVec 5 := 0
  /-- ACQ_STOP with NOW = 0 was given while TRIGGERED. -/
  stopping : Bool := false
  /-- The record is complete and its header is not written yet. -/
  complete : Bool := false
  /-- Sets of the record after the trigger set, as captured at its end. -/
  postN    : Nat := 0
  meas     : List AcqMeas := []
  /-- The gaps that a record may still reach back to: first set number and length, oldest first. -/
  gaps     : List (Nat × Nat) := []
  /-- What the unit's queue holds, in fifths of a byte, and the instant of that count, the same for all units (R406, R417). -/
  qFill    : Nat := 0
  qAt      : Nat := 0
  deriving DecidableEq, Repr

/-! ### DMA -/

/-- The states of a DMA channel (Table ACQ-17). -/
inductive DmaSt where
  | idle | run | wait | aborting | error
  deriving DecidableEq, Repr

/-- A DMA descriptor (Table ACQ-9). -/
structure DmaDesc where
  src   : Nat
  dst   : Nat
  len   : Nat
  flags : Byte
  rsv   : Bytes
  deriving DecidableEq, Repr

/-- A DMA channel. `moved` counts the bytes of the current descriptor's pass; `paced` says that a run is under way (R413). -/
structure DmaChan where
  st       : DmaSt := .idle
  head     : Nat := 0
  desc     : Option DmaDesc := none
  moved    : Nat := 0
  paced    : Bool := false
  flush    : Bool := false
  code     : Nat := 0
  lastBeat : Bool := false
  /-- The instant of the burst that has left the source queue below HIGH (R413). -/
  belowAt  : Nat := 0
  /-- The instant of the ABORT under way, and whether the burst that was in progress has finished (R414). -/
  abortAt  : Nat := 0
  burstOut : Bool := false
  /-- The channel's turn among the channels that DRAM has served: the number of its latest burst (R417). -/
  turn     : Nat := 0
  deriving DecidableEq, Repr

/-! ### Lichen pairs -/

/-- A mirrored item (R432): number, opcode, header, payload and TAKE_IDX. -/
structure Item where
  no      : DWord
  opcode  : Nat
  src     : Src
  payload : Bytes
  takeIdx : DWord
  deriving DecidableEq, Repr

/-- A completion remembered for R440. -/
structure PastCmd where
  ring      : Nat
  seq       : DWord
  status    : Nat
  appliedAt : DWord
  deriving DecidableEq, Repr

/-- The latest PERIOD frame of the twin (Table TWN-3). -/
structure TwinFrame where
  flags   : Nat := 0
  idx     : DWord := 0
  ntB     : DWord := 0
  zones   : BitVec 16 := 0
  sar     : List (BitVec 16) := []
  digests : List DWord := []
  ack     : DWord := 0
  /-- RESYNC_REQ (Table TWN-6; its place in the frame is the model's, log 33). -/
  req     : Bool := false
  deriving DecidableEq, Repr

/-- One port of the arbiter function (R428). -/
structure ArbPort where
  width   : Nat := 0
  lastAt  : Option Nat := none
  failed  : Bool := true
  active  : Bool := false
  own     : Bool := false
  swapReq : Bool := false
  deriving DecidableEq, Repr

/-- The Rhizome link (Table TWN-11, LINK). -/
inductive RhzLink where
  | down | training | up
  deriving DecidableEq, Repr

/-- What a resynchronising standby records of one period of an engine, to replay it (Table TWN-6, step 4). -/
structure PeriodRec where
  e      : Nat
  idx    : DWord
  frame  : List Word
  sample : List (Nat × DWord)
  pull   : Bool × Bool
  inbox  : List MboxEntry
  starts : List SporeStart
  swaps  : List SwapReq
  deriving DecidableEq, Repr

/-- The Lichen pair. -/
structure TwnState where
  /-- The role ROLE_IN gives, and the role in force (R423, R424); true = ACTIVE. -/
  roleIn    : Bool := false
  role      : Bool := false
  roleCand  : Option Bool := none
  pulseAt   : Nat := 0
  arbLost   : Bool := false
  conflict  : Bool := false
  ready     : Bool := false
  alone     : Bool := false
  own       : Bool := false
  clkSkew   : Bool := false
  digErr    : Bool := false
  pathFault : Bool := false
  twinLate  : Bool := false
  link      : RhzLink := .down
  twin      : TwinFrame := {}
  /-- The twin's DEVICE_UID. -/
  twinUid   : BitVec 128 := Config.twinUid
  /-- The twin's frame of the current period has arrived. -/
  gotFrame  : Bool := false
  itemNo    : DWord := 0
  /-- The PERIOD frame of the present period has been sent (R431). -/
  frameSent : Bool := false
  /-- The trip and SAR words that REF_ENG's boundary has latched for the input frames (R435). -/
  pairTrips : BitVec 16 := 0
  pairSar   : List (BitVec 16) := []
  rxItem    : DWord := 0
  outItems  : List Item := []
  sentItems : List Item := []
  bytes     : Nat := 0
  /-- Frames sent, newest first. -/
  sent      : List Bytes := []
  past      : List PastCmd := []
  hbWidth   : Nat := 0
  hbAt      : Nat := 0
  /-- The module asks for a planned exchange; swap spores wait, the one whose exchange is asked for first: slot and earliest
  instant. -/
  swapReq   : Bool := false
  swapSpore : List (DueSlot × Nat) := []
  resync    : Bool := false
  resyncAt  : Nat := 0
  equalRun  : Nat := 0
  /-- Periods recorded for the replay, oldest first. -/
  recs      : List PeriodRec := []
  resyncCmd : List (Src × Nat) := []
  /-- What step 2 of Table TWN-6 has brought so far (bit 0 configuration, bit 1 device state, bit 2 period index), and the engines
  whose snapshot has been loaded. -/
  resyncGot : BitVec 3 := 0
  snapGot   : BitVec 8 := 0
  /-- REF_ENG's period index when the latest snapshot was loaded. -/
  loadIdx   : DWord := 0
  /-- The STATE field of the period that ended last (R433). -/
  stateOut  : Bytes := []
  /-- Bytes of an image or configuration block that items have brought so far (R433). -/
  itemBuf   : Bytes := []
  haltHold  : Option Nat := none
  /-- The module has halted or has lost VIN while its twin was READY, and leaves its links, and after a loss of VIN its lands, to it
  (R441, R468). -/
  silent    : Bool := false
  /-- The digests that the period's own PERIOD frame has carried (R436). -/
  digOut    : List DWord := []
  /-- The twin's RESYNC_REQ is being served: the items still to be sent as RESYNC frames, the first of them by the bytes that have left
  already; whether snapshots follow them, and of which engines one is still to be taken; and the items sent, newest first (Table TWN-6,
  steps 2 and 3). -/
  serving   : Bool := false
  resyncOut : List ResyncItem := []
  resyncBytes : Nat := 0
  snapDue   : Bool := false
  snapLeft  : BitVec 8 := 0
  resyncSent : List ResyncItem := []
  /-- The index from which control graphs see what the latest COMMIT spore has made live (R28, R299). -/
  seeFrom   : Option DWord := none
  deriving DecidableEq, Repr

/-- The arbiter function of a module strapped under R429: its two ports, the port that will own the interlock after the
break-before-make gap with the instant that gap began, and whether any module has been ACTIVE. -/
structure ArbState where
  strapped : Bool := false
  ports    : Vector ArbPort 2 := Vector.replicate 2 {}
  bbm      : Option (Fin 2 × Nat) := none
  everActive : Bool := false
  noReadyAt : Nat := 0
  deriving DecidableEq, Repr

/-! ### The management port -/

/-- Who sent a message, and what its response repeats: SMBus address, endpoint ID, the tag with its owner bit, and the instance number of a
control message (R452). -/
structure MctpPeer where
  addr : Nat := 0
  eid  : Byte := 0
  tag  : Nat := 0
  inst : Nat := 0
  deriving DecidableEq, Repr

/-- A message being assembled (R452). -/
structure MctpAsm where
  peer  : MctpPeer
  seq   : Nat
  data  : Bytes
  deriving DecidableEq, Repr

/-- A Galuholt message handed to its handler: KIND, REQ_ID and body (Table MGT-1). -/
structure MgtMsg where
  kind  : Nat
  reqId : Byte
  body  : Bytes
  peer  : MctpPeer := {}
  deriving DecidableEq, Repr

/-- A COMMAND message whose completion is awaited: its REQ_ID, and the command as it was accepted. -/
structure MgtCmd where
  reqId : Byte
  cmd   : Handed
  peer  : MctpPeer := {}
  deriving DecidableEq, Repr

/-- The management port (R452 to R461). -/
structure MgtState where
  vmgt     : Bool := true
  eid      : Byte := 0
  notify   : Bool := false
  asm      : Option MctpAsm := none
  /-- The sender of the latest complete message. -/
  peer     : MctpPeer := {}
  /-- Messages assembled, oldest first. -/
  inbox    : List MgtMsg := []
  cmd      : Option MgtCmd := none
  /-- Packets sent, newest first, each as its SMBus write with PEC. -/
  sent     : List Bytes := []
  /-- Anchor copies and the identity record held in the controller's flash (R457). -/
  anchors  : Option (List (Nat × Bytes × Bytes)) := none
  /-- An OPS_MAIN_RESET that waits for the turn-off to complete (R459). -/
  resetReq : Option Src := none
  /-- Failure entries to follow the completion entry of a STG_CHECK. -/
  tail     : Bytes := []
  deriving DecidableEq, Repr

end Sys2Proof.Machine
end

