-- ==== Sys2Proof/Machine/StateGate.lean ====
section
/-! DEFINITION. The parts of the state that take gate drive away: gate-drive links and driver rings, trip zones with their record
queue, and the two channels of safe gate inhibit (Gate-drive links; Trips and stack protection; Safe gate inhibit). Every field
names what it holds at reset by its default. Instants are elapsed CTL time in units of 31.25 ps. -/

namespace Sys2Proof.Machine

/-! ### Gate-drive links -/

/-- LINK of Table GDL-18. -/
inductive LinkState where
  | down | training | trained | fault
  deriving DecidableEq, Repr

/-- DSR of Table GDL-18. -/
inductive DsrState where
  | off | ok | fault
  deriving DecidableEq, Repr

/-- OST_STATE of Table GDL-18. -/
inductive OstState where
  | none | running | passed | failed
  deriving DecidableEq, Repr

/-- A character on a Zwiex link: a control or a data character of the 8b/10b code (R210). -/
inductive LinkChar where
  | k (b : Byte)
  | d (b : Byte)
  deriving DecidableEq, Repr

/-- The link and ring state of one stack (R203 to R219). -/
structure GdlStack where
  ost       : OstState := .none
  ostAt     : Nat := 0
  /-- Result codes of Table GDL-6, node 0 first. -/
  ostCodes  : Vector Nat 12 := Vector.replicate 12 0
  /-- Ring cycles completed since the test started (in link mode, commands sent to every node), nodes whose GA has followed its GC,
  nodes whose test word has come back in link mode, and nodes still to be sent the present command there (Table GDL-5). -/
  ostCycle  : Nat := 0
  ostEcho   : BitVec 12 := 0
  ostSeen   : BitVec 12 := 0
  ostSend   : BitVec 12 := 0
  fltLow    : Bool := false
  /-- A test has ended on an assertion cycle: the fault line that it has left low is judged at the end of the cycle with OST_END. -/
  ostTail   : Bool := false
  /-- A confirmation of the stack has not arrived within ACK_TO since its GCs last rose (R200, R382). -/
  ackLost   : Bool := false
  dsr       : DsrState := .off
  /-- The command words of the ring cycle in progress, in the order in which they are shifted out (R203). -/
  ringCmd   : List Word := []
  /-- The latest good word of each node (R205). -/
  good      : Vector Word 12 := Vector.replicate 12 0
  /-- Consecutive bad and good words of each node (R206). -/
  badRun    : Vector Nat 12 := Vector.replicate 12 0
  goodRun   : Vector Nat 12 := Vector.replicate 12 0
  /-- Nodes whose latest good word is a hard report (R205). -/
  hardNodes : BitVec 12 := 0
  link      : LinkState := .down
  /-- The start of the latest training, and the round trips of its echo exchanges in ns (Table GDL-7). -/
  trainAt   : Nat := 0
  echoes    : List Nat := []
  crcRun    : Nat := 0
  retFlt    : Bool := false
  retHard   : Bool := false
  ifaceGa   : BitVec 12 := 0
  seq       : Word := 0
  /-- The load points for which the latest edge frame and the latest LOAD were sent (R213, R215). -/
  frameFor  : Option Nat := none
  loadFor   : Option Nat := none
  lastFrame : Bytes := []
  sent      : List Bytes := []
  /-- What the link has sent, newest first: the instant of the first character of each transmission, and its characters, inserted
  frames among them. Outside it the line carries K28.5 D5.6, idle (R210). -/
  line      : List (Nat × List LinkChar) := []
  /-- Phases of pull-in requests that wait for the next pull-in frame, and the instant of the last one (R217). -/
  pullMask  : Nat := 0
  pullLast  : Option Nat := none
  deriving DecidableEq, Repr

/-- The gate-drive links: the stacks and the commands that wait for tests or trainings to finish. -/
structure GdlState where
  stk       : Vector GdlStack 16 := Vector.replicate 16 {}
  ostRuns   : List (Src × BitVec 16) := []
  trainRuns : List (Src × BitVec 16) := []
  deriving DecidableEq, Repr

/-! ### Trips -/

/-- A trip zone (R224 to R239). -/
structure Zone where
  causes   : BitVec 16 := 0
  /-- Stacks whose trips were propagated into this zone. -/
  props    : BitVec 16 := 0
  tripAt   : Nat := 0
  /-- The CTL cycle of the latest latch, against which a clear request loses (Table TRP-2). -/
  latchAt  : Option Nat := none
  offDone  : Bool := false
  clearPend : Bool := false
  /-- Cleared, waiting for the engine's next boundary (R239). -/
  resumeB  : Bool := false
  /-- Past that boundary, whose instant this is, waiting for the timebase's first zero after it (R239). -/
  resumeZ  : Option Nat := none
  pullRun  : Nat := 0
  pullReq  : Bool := false
  /-- A pull-in since the serving engine read its flags last (R60). -/
  pullSeen : Bool := false
  /-- Phases that a comparator holds pulled in. -/
  pullPh   : Nat := 0
  /-- The comparators, lands and stuck channels, each with its cause, that the latched FAST, TRIP_IN and STUCK came from: they must have
  released under Table TRP-1, whatever a commit has changed since (R225). -/
  sources  : List (Nat × Nat) := []
  deriving DecidableEq, Repr

/-- A trip record (Table TRP-3). -/
structure TripRec where
  nt     : DWord
  stack  : Nat
  leg    : Nat
  cause  : Nat
  simul  : Bool
  first  : Bool
  source : Nat
  recno  : BitVec 16
  deriving DecidableEq, Repr

/-- What a clear request waits for on one link-mode stack (R237): the nodes still to be sent a CLEAR, the nodes whose answering DRV word
is awaited, and the load-point intervals still to end, none while CLEARs are still being sent. -/
structure ClearLink where
  k        : Nat
  clearSend : BitVec 12
  clearWait : BitVec 12
  left     : Option Nat
  deriving DecidableEq, Repr

/-- A clear request that awaits its evaluation (R237): for each direct-mode stack with FLT or HARD_REPORT latched the ring cycles
still to finish, none while its CLEARs have not been shifted out yet; each such link-mode stack. In a
Lichen pair the active module then waits for its twin's result, with the stacks it has released itself (R438). -/
structure ClearReq where
  src      : Src
  mask     : BitVec 16
  rings    : List (Nat × Option Nat)
  links    : List ClearLink
  joint    : Option (BitVec 16) := none
  /-- The CTL cycle of the module's own evaluation (R438). -/
  evalAt   : Nat := 0
  deriving DecidableEq, Repr

/-- The trip unit. -/
structure TrpState where
  zones    : Vector Zone 16 := Vector.replicate 16 {}
  clear    : List ClearReq := []
  recs     : List TripRec := []
  captured : Option TripRec := none
  recno    : BitVec 16 := 0
  /-- The timestamps of the records, each once, for SIMULTANEOUS (R242). -/
  stamps   : List DWord := []
  /-- The levels of the TRIP_IN lands after their filters. -/
  tripIn   : BitVec 16 := 0
  /-- The trip clock: its value when it was set, and the instant of that (R240). -/
  clkVal   : DWord := 0
  clkAt    : Nat := 0
  clkByZero : Bool := false
  deriving DecidableEq, Repr

/-! ### Safe gate inhibit -/

/-- One input pair after its filter (R251 to R254). -/
structure SafPair where
  lineA    : Bool := false
  lineB    : Bool := false
  demand   : Bool := false
  /-- The instant at which one line entered the demand state, which the other has not followed yet (R252); of a RESET pair, since when its
  lines disagree (R253). -/
  since    : Option Nat := none
  /-- The line that entered alone: true = line B. -/
  firstB   : Bool := false
  /-- The instant at which the first line left after both had been in the demand state. -/
  leftAt   : Option Nat := none
  disc     : Bool := false
  /-- Both lines have been in the demand state together since the discrepancy arose. -/
  discBoth : Bool := false
  /-- The start-up test of a GUARD pair: opened, and passed. -/
  opened   : Bool := false
  passed   : Bool := false
  /-- Both lines are in the demand state: the guard is fully opened, or the button pressed. -/
  both     : Bool := false
  activeAt : Option Nat := none
  /-- The lines of a RESET pair have disagreed for longer than DISC_T in the present press. -/
  bad      : Bool := false
  deriving DecidableEq, Repr

/-- One channel of safe gate inhibit. -/
structure SafChan where
  rel      : Bool := false
  gen      : Bool := false
  fb       : Bool := false
  code     : Nat := 0
  pulse    : Option Nat := none
  firstRel : Option Nat := none
  /-- The instant of the latest change of the driven level. -/
  changeAt : Nat := 0
  /-- The start of the latest pulse that this channel has announced to the other one (R257). -/
  annAt    : Option Nat := none
  /-- This channel's copy of the parameter set: PSET_ID and the five configuration words. -/
  pset     : List Word := []
  deriving DecidableEq, Repr

/-- Safe gate inhibit. -/
structure SafState where
  pairs     : Vector SafPair 4 := Vector.replicate 4 {}
  chA       : SafChan := {}
  chB       : SafChan := {}
  intDemand : Bool := false
  fault     : Bool := false
  /-- A reset under R253 is still owed. -/
  resetReq  : Bool := true
  /-- The stage-6 hold of R249. -/
  hold      : Bool := true
  /-- The instant at which the channels last took their copies of the parameter set. -/
  setAt     : Nat := 0
  deriving DecidableEq, Repr

/-- The configuration word of a pair as the channels hold it: channel B's copy, or channel A's where channel B holds none. -/
def SafState.pairWord (f : SafState) (k : Nat) : Nat :=
  (((if f.chB.pset = [] then f.chA.pset else f.chB.pset)[2 + k]?).getD 0).toNat

/-- SAF_TEST_CFG as the channels hold it. -/
def SafState.testWord (f : SafState) : Nat := (((if f.chB.pset = [] then f.chA.pset else f.chB.pset)[1]?).getD 0).toNat

end Sys2Proof.Machine
end

