-- ==== Sys2Proof/Machine/StateTrust.lean ====
section
/-! DEFINITION. The parts of the state that decide what the device trusts and what it runs: replay states, keys, anchors and the
always-on domain, the stage with its token and pending commits, and the stored configuration (Command authentication and trust;
Staged configuration and commit). Every field names what it holds at reset by its default. -/

namespace Sys2Proof.Machine

/-- A session key (R348 to R350). -/
structure SessKey where
  keyId   : BitVec 16
  key     : Bytes
  from_   : DWord
  expiry  : DWord
  grantor : Nat
  deriving DecidableEq, Repr

/-- The replay state of a ring (R346, R347) with its session key. -/
structure Replay where
  lastSeq    : DWord := 0
  epoch      : Word := 0
  floorUnset : Bool := false
  nonce      : BitVec 128 := 0
  key        : Option SessKey := none
  deriving DecidableEq, Repr

/-- A plant key (R351). -/
structure PlantKey where
  keyId   : BitVec 16
  epoch   : Word
  key     : Bytes
  from_   : DWord
  expiry  : DWord
  grantor : Nat
  deriving DecidableEq, Repr

/-- An anchor record as one of its NAND copies holds it (R342). -/
structure AnchorRec where
  gen   : Nat
  mldsa : Bytes
  p384  : Bytes
  mac   : Bytes
  deriving DecidableEq, Repr

/-- The record that the device itself writes for a slot. -/
def AnchorRec.make (slot gen : Nat) (mldsa p384 : Bytes) : AnchorRec :=
  { gen := gen, mldsa := mldsa, p384 := p384, mac := Config.anchorMac slot gen mldsa p384 }

/-- An anchor slot (R342): burnt fuses and the two NAND copies of its record, where there is one. -/
structure Anchor where
  otpGen : Nat := 0
  copy0  : Option AnchorRec := none
  copy1  : Option AnchorRec := none
  deriving DecidableEq, Repr

/-- A slot both of whose copies hold a record that the device has written. -/
def Anchor.make (slot gen : Nat) (mldsa p384 : Bytes) : Anchor :=
  { otpGen := gen, copy0 := some (AnchorRec.make slot gen mldsa p384), copy1 := some (AnchorRec.make slot gen mldsa p384) }

/-- The anchors a module leaves manufacture with: the vendor root in slot 0, every other slot empty (log 48). -/
def factoryAnchor (k : Nat) : Anchor :=
  if k = 0 then Anchor.make 0 0 Config.rootMldsa Config.rootP384 else {}

/-- A grant that is accepted and whose key is not unwrapped yet (R349). -/
structure PendGrant where
  src     : Src
  plant   : Bool
  ring    : Fin 129
  payload : Bytes
  grantor : Nat
  /-- The number of the unwrap as a work item on a verifier lane (R349). -/
  no      : Nat := 0
  /-- A tamper erasure, or the end of the anchor that signed it, came first (Table AUT-8, R345). -/
  erased  : Bool := false
  deriving DecidableEq, Repr

/-- Trust, keys and the always-on domain. -/
structure SecState where
  replay   : Vector Replay 129 := Vector.replicate 129 {}
  plant    : Vector (Option PlantKey) 4 := Vector.replicate 4 none
  anchors  : Vector Anchor 16 := Vector.ofFn fun (k : Fin 16) => factoryAnchor k.val
  grants   : List PendGrant := []
  /-- The latest grant of every ring and of every plant key, whose key is held or being unwrapped: a resynchronisation sends them
  (Table TWN-6). -/
  lastGrants : List PendGrant := []
  /-- TARGET_ID, which equals DEVICE_UID until an owner sets it (R338). -/
  targetId : BitVec 128 := Config.deviceUid
  uid      : BitVec 128 := Config.deviceUid
  storeKey : Bool := false
  retentionLost : Bool := false
  resetCnt : Word := 0
  svn      : Nat := 0
  /-- Tamper records held for the event log, as the event has left them. -/
  tamperRecs : List LogRec := []
  /-- The tamper configuration as copied into the always-on domain (R358). -/
  tamperCfg : Word := 0x0F00
  deriving DecidableEq, Repr

/-! ### Staging -/

/-- What the stage holds (Table STG-1). PENDING is not a value of its own here: it shows while a commit or a COMMIT spore is
pending. -/
inductive StageState where
  | clean | dirty | checked | failed
  deriving DecidableEq, Repr

/-- A failure entry (Table STG-3). -/
structure FailEntry where
  code : Nat
  inst : Nat
  sub  : Nat
  deriving DecidableEq, Repr

/-- A STG_COMMIT that is accepted and has not applied or failed yet (R368), with the place for its failure list. -/
structure PendCommit where
  src      : Src
  addr     : DWord
  cap      : Nat
  engine   : Fin 8
  applyAt  : DWord
  acceptAt : Nat
  takeIdx  : Option DWord
  deriving DecidableEq, Repr

/-- A stored configuration block (Table STG-6). -/
structure CfgBlock where
  version : DWord
  bytes   : Bytes
  deriving DecidableEq, Repr

/-- The stored block as the module leaves manufacture, where it has one (Table SCO-2, log 62). -/
def factoryBlock : Option CfgBlock :=
  if Config.preloaded then some { version := BitVec.ofNat 64 (pf Config.factoryConfig 24 8), bytes := Config.factoryConfig } else none

/-- A configuration block being written to NAND (R374, R458). -/
structure CfgWrite where
  src     : Src
  block   : CfgBlock
  recover : Bool
  deriving DecidableEq, Repr

/-- The stage, its token and the stored configuration. -/
structure StgState where
  st        : StageState := .clean
  stage     : RegFile := []
  images    : Vector (Option Image) 8 := Vector.replicate 8 none
  gen       : Word := 0
  fails     : List FailEntry := []
  pendings  : List PendCommit := []
  token     : Option Master := none
  leaseEnd  : Nat := 0
  copy0     : Option CfgBlock := factoryBlock
  copy1     : Option CfgBlock := factoryBlock
  /-- Blocks verified and still to be written to both NAND copies, oldest first. -/
  writes    : List CfgWrite := []
  defaulted : Bool := false
  repaired  : Bool := false
  copy0Ok   : Bool := false
  copy1Ok   : Bool := false
  lastNt    : DWord := 0
  /-- A commit has applied since reset: FRD_TC_e then shows the committed period (Table FRD-15). -/
  committed : Bool := false
  deriving DecidableEq, Repr

end Sys2Proof.Machine
end

