-- ==== Sys2Proof/Machine/State.lean ====
section
/-! DEFINITION. The whole state of the device, the faults and refusals of its steps, and the state right after the release of
power-on reset. -/

namespace Sys2Proof.Machine

/-- The bus state behind R12 and R483: held lower words, pending upper captures (both by register offset), companion captures
of registers that are captured with another one, and the value the latest read returned. -/
structure BusState where
  held     : List (Nat × Word) := []
  captures : List (Nat × Word) := []
  companions : List (Nat × DWord) := []
  readData : DWord := 0
  deriving DecidableEq, Repr

/-- The replay states right after power-up: the management controller has drawn NONCE of ring 128 (R346, R457); those of the host
rings are drawn by the main side before any ring runs, at BOOT_COMPLETE. -/
def resetReplay : Vector Replay 129 := Vector.ofFn fun (r : Fin 129) => if r.val = 128 then { nonce := Config.drbg128 0 } else {}

/-- The state of the device. `now` is the elapsed CTL time in units of 31.25 ps, the step of the fine delay (R19, R163); it and
`free` are the model's own fields: `free` numbers the free values taken so far. -/
structure State where
  /-- Commands that wait, first in, first out. -/
  pending : List Instr := []
  now     : Nat := 0
  free    : Nat := 0
  /-- The live, committed values of the RWS registers, and the parameters of both banks. -/
  live    : RegFile := []
  /-- The values of RW, W1C and RC registers and the latched values of RO registers. -/
  regs    : RegFile := []
  bus     : BusState := {}
  eng     : Vector Engine 8 := Vector.replicate 8 {}
  /-- Work that waits for several engines to take it. -/
  waits   : List EngWait := []
  meas    : MeasState := {}
  sar     : SarState := {}
  pwm     : PwmState := {}
  gdl     : GdlState := {}
  trp     : TrpState := {}
  saf     : SafState := {}
  clk     : ClkState := {}
  nt      : NtState := {}
  eth     : EthState := {}
  cmd     : CmdState := {}
  ops     : OpsState := {}
  log     : LogState := {}
  sec     : SecState := {}
  stg     : StgState := {}
  acq     : Vector AcqUnit 8 := Vector.replicate 8 {}
  dma     : Vector DmaChan 32 := Vector.replicate 32 {}
  /-- The module's DRAM: bytes written, by address (Table ACQ-12). -/
  dram    : List (Nat × Byte) := []
  /-- Host memory as the device has written it, by address. -/
  host    : List (Nat × Byte) := []
  twn     : TwnState := {}
  arb     : ArbState := {}
  mgt     : MgtState := {}
  deriving DecidableEq, Repr

/-- Faults of a step. Every command of the table has an effect in every state, so no meaning raises one: the type is here
because a step has three outcomes. `never` is raised by nothing, which is safe. -/
inductive Fault where
  | never
  deriving DecidableEq, Repr

/-- Refusals of a step. -/
inductive Refusal where
  /-- Raised by Dispatch for a command whose meaning is not written, by its mnemonic; safe. -/
  | notModelled (mnemonic : String)
  deriving DecidableEq, Repr

/-- The machine right after the release of power-on reset: every field at the value its structure states, which is the value the
spec gives for reset, and GLB_STATE = BOOT. -/
def State.reset : State := { free := 1, sec := { replay := resetReplay } }

end Sys2Proof.Machine
end

