-- ==== Sys2Proof/Machine/Flags.lean ====
section
/-! DEFINITION. Reading and writing registers of the state, sticky flags, counters and saturation: the computations every chapter
shares (R9, R13, R15). -/

namespace Sys2Proof.Machine

/-! ### Register access inside the device -/

/-- A field of a live, committed RWS register. -/
def State.lv (s : State) (r : Reg) (i j hi lo : Nat) : Nat := fld s.live r i j hi lo

/-- A bit of a live register. -/
def State.lvb (s : State) (r : Reg) (i j n : Nat) : Bool := bitOf (regGet s.live r i j) n

/-- The value of a register that is not RWS. -/
def State.reg (s : State) (r : Reg) (i : Nat := 0) (j : Nat := 0) : DWord := regGet s.regs r i j

/-- Set a register that is not RWS. -/
def State.setReg (s : State) (r : Reg) (i j : Nat) (v : DWord) : State :=
  { s with regs := regSet s.regs r i j v }

/-- Set a 32-bit or 64-bit register from a number. -/
def State.setRegN (s : State) (r : Reg) (i j v : Nat) : State := s.setReg r i j (BitVec.ofNat 64 v)

/-- Set one bit of a sticky flag register. -/
def State.setFlag (s : State) (r : Reg) (i n : Nat) : State :=
  s.setReg r i 0 (s.reg r i 0 ||| BitVec.ofNat 64 (2 ^ n))

/-- Count `n` events in a 32-bit counter, which saturates at all ones (R15). -/
def State.count (s : State) (r : Reg) (i : Nat := 0) (n : Nat := 1) : State :=
  s.setRegN r i 0 (min ((s.reg r i 0).toNat + n) 0xFFFFFFFF)

/-- A 32-bit count one higher, saturated at all ones (R15). -/
def satInc (w : Word) : Word := if w = 0xFFFFFFFF then w else w + 1

/-- Count one event in a counter that its own table lets wrap modulo 2^32. -/
def State.countWrap (s : State) (r : Reg) (i : Nat := 0) : State :=
  s.setRegN r i 0 (((s.reg r i 0).toNat + 1) % 2 ^ 32)

/-- Keep the largest value seen since the last read. -/
def State.keepMax (s : State) (r : Reg) (i v : Nat) : State :=
  s.setRegN r i 0 (max (s.reg r i 0).toNat (min v 0xFFFFFFFF))

/-! ### Numbers -/

/-- A 32-bit word as a signed integer. -/
def sw (w : Word) : Int := w.toInt

/-- An integer saturated to a signed 32-bit word (R9), with which bound it met: true = the upper one. -/
def sat32 (v : Int) : Word × Option Bool :=
  if v > 2147483647 then (0x7FFFFFFF#32, some true)
  else if v < -2147483648 then (0x80000000#32, some false)
  else (BitVec.ofInt 32 v, none)

/-- An integer held between two bounds. -/
def clampInt (lo hi v : Int) : Int := if v > hi then hi else if v < lo then lo else v

/-- Division by 2^n, rounded to nearest with halves towards +∞. -/
def roundShr (v : Int) (n : Nat) : Int := if n = 0 then v else (v + 2 ^ (n - 1)) / 2 ^ n

/-- Division rounded to nearest with halves towards +∞; 0 where the divisor is 0. -/
def roundDiv (a b : Int) : Int := if b = 0 then 0 else (2 * a + b) / (2 * b)

/-- Bit by bit, the integer square root of a number below 4^n, rounded down. -/
def isqrtBits : Nat → Nat → Nat → Nat
  | 0, _, r => r
  | n + 1, v, r =>
    let t := r + 2 ^ n
    if t * t ≤ v then isqrtBits n v t else isqrtBits n v r

/-- The integer square root, rounded towards zero, of a number below 2^256. -/
def isqrt (v : Nat) : Nat := isqrtBits 128 v 0

/-! ### Time -/

/-- Elapsed CTL time in whole nanoseconds. -/
def State.nsNow (s : State) : Nat := s.now / 32

/-- The 64-bit network-time value (R288). -/
def State.nt64 (s : State) : DWord := BitVec.ofNat 64 (s.nt.sec.toNat * 1000000000 + s.nt.ns)

/-- The NT clock after `n` more NT cycles: each adds NT_INCR (R288). -/
def NtState.run (c : NtState) (incr n : Nat) : NtState :=
  let total := c.ns * 4294967296 + c.frac.toNat + n * incr
  let ns := total / 4294967296
  { c with
    sec := c.sec + BitVec.ofNat 48 (ns / 1000000000), ns := ns % 1000000000, frac := BitVec.ofNat 32 total }

/-- An NT cycle of 4 ns, in 10^−9 of 31.25 ps of TCXO time (Table ARC-1). -/
def ntCycle : Nat := 128000000000

/-- The NT clock after TCXO time has run on: an increment for each cycle that has ended. -/
def NtState.elapse (c : NtState) (incr t : Nat) : NtState :=
  { c.run incr ((c.phase + t) / ntCycle) with phase := (c.phase + t) % ntCycle }

/-- The tuning range of the oscillator about its nominal 4.000 GHz, in 0.001 ppm: 3.996 GHz to 5.000 GHz (R267). -/
def tune (w : Int) : Int := clampInt (-1000000) 250000000 w

/-- How long a slew lasts that removes `err` ps at `rate` × 0.1 ppm/s up to `most` ppm, in ns: 2·√(E/R) where E ≤ M²/R, else
E/M + M/R (R279). -/
def slewLasts (rate most err : Nat) : Nat :=
  let half := isqrt (err * 10000000000000 / rate)
  if rate * half ≤ most * 10000000000 then 2 * half else err * 1000 / most + most * 10000000000 / rate

/-- The size of the offset of such a slew `t` ns after its beginning, in units of 10^−9 ppm: it rises until half of the error has been
removed, holds at the limit if it reaches that, and falls back symmetrically (R279). -/
def slewSize (rate most err t : Nat) : Nat :=
  min (min (rate * t / 10) (most * 1000000000)) (rate * (slewLasts rate most err - t) / 10)

/-- How long the slew in progress lasts, in ns, with SLEW_RATE and SLEW_MAX of now. -/
def State.slewTime (s : State) : Nat := slewLasts (s.lv .clkReacq 0 0 23 16) (s.lv .clkReacq 0 0 31 24) s.clk.slewErr.natAbs

/-- The slew offset now, in units of 10^−9 ppm (R279). -/
def State.slewNow (s : State) : Int :=
  let c := s.clk
  let size : Int :=
    (slewSize (s.lv .clkReacq 0 0 23 16) (s.lv .clkReacq 0 0 31 24) c.slewErr.natAbs ((s.now - c.slewAt) / 32) : Nat)
  if c.st ≠ .slewing then 0 else if c.slewErr > 0 then -size else size

/-- The offset of the oscillator from its nominal frequency against the TCXO, in 0.001 ppm: the control word with the slew offset, and
while the loop coasts a free drift from the instant of entry on that stays within ±20 ppm of the last locked value for 10 s, and within
±50 ppm later (R277, R278). -/
def State.oscOffset (s : State) : Int :=
  let c := s.clk
  let word := c.ctrl + s.slewNow / 1000000
  let bound : Int := if s.now < c.coastAt + 320000000000 then 20000 else 50000
  tune (if c.st = .coasting ∨ c.st = .jumpWait then
    clampInt (c.lockedOfs - bound) (c.lockedOfs + bound) (word + Config.coastDrift s.now - Config.coastDrift c.coastAt) else word)

/-- The TCXO time, in 10^−9 of 31.25 ps, that passes while the CTL clock, `ofs` off its nominal frequency, counts `d` units. -/
def tcxoTime (ofs : Int) (d : Nat) : Nat := d * 1000000000000000000 / (1000000000 + ofs).toNat

/-- The CTL time after which at least `t` of TCXO time has passed. -/
def ctlTime (ofs : Int) (t : Nat) : Nat := (t * (1000000000 + ofs).toNat + 999999999999999999) / 1000000000000000000

/-- Elapsed time goes on to an instant, if that lies ahead; the NT clock runs with it on the TCXO (R275). An event whose instant the
state fixes takes place at that instant (log 7). -/
def State.advanceTo (s : State) (t : Nat) : State :=
  if t ≤ s.now then s
  else { s with now := t, nt := s.nt.elapse (regGet s.regs .ntIncr).toNat (tcxoTime s.oscOffset (t - s.now)) }

/-- The next whole microsecond of network time. -/
def State.nextMicro (s : State) : Nat := (s.nt64.toNat / 1000 + 1) * 1000

/-- The first CTL tick at or after an instant (R486). -/
def ctlTick (t : Nat) : Nat := (t + 31) / 32 * 32

/-- The NT clock as one number, in units of 2^−32 ns. -/
def NtState.total (c : NtState) : Int := (c.sec.toNat * 1000000000 + c.ns) * 4294967296 + c.frac.toNat

/-- The instant at which the NT clock reaches a value, in units of 2^−32 ns, at its present increment; none where it never does. -/
def State.ntReach (s : State) (target : Int) : Option Nat :=
  let incr := (regGet s.regs .ntIncr).toNat
  if target ≤ s.nt.total then some s.now
  else if incr = 0 then none
  else
    let n := ((target - s.nt.total).toNat + incr - 1) / incr
    some (s.now + ctlTime s.oscOffset (n * ntCycle - s.nt.phase))

/-- The CTL tick at which the NT value, to 1 ns between two cycles (R162), is a whole number of ns that lies ahead. -/
def State.ntReachFine (s : State) (ns : Nat) : Option Nat :=
  let incr := (regGet s.regs .ntIncr).toNat
  let goal : Int := ns * 4294967296
  if goal ≤ s.nt.total + s.nt.phase / 32000000000 * 4294967296 then some (ctlTick s.now)
  else if incr = 0 then none
  else
    let n := (goal - s.nt.total).toNat / incr
    let rest := ns - ((s.nt.total.toNat + n * incr) / 4294967296)
    some (ctlTick (s.now + ctlTime s.oscOffset (n * ntCycle + min (rest * 32000000000) ntCycle - s.nt.phase)))

/-- Has NT reached an instant before now? An instant of 0 means at once (R8). -/
def State.ntPassed (s : State) (at_ : DWord) : Bool :=
  let goal : Int := (at_.toNat : Int) * 4294967296
  at_ == 0 || (decide (goal ≤ s.nt.total)
    && (decide (0 < s.nt.phase) || decide (goal ≤ s.nt.total - (regGet s.regs .ntIncr).toNat)))

/-- Does the CTL tick at which the state stands follow both an acceptance and an instant of NT (R368)? -/
def State.tickDue (s : State) (acceptAt : Nat) (applyAt : DWord) : Bool := decide (acceptAt / 32 < s.now / 32) && s.ntPassed applyAt

/-- On to the CTL tick at or after the present instant (R486). -/
def State.toTick (s : State) : State := s.advanceTo (ctlTick s.now)

/-- The NT value at the present instant to 1 ns, between two NT cycles at the nominal rate (R162). -/
def State.ntFine (s : State) : DWord := s.nt64 + BitVec.ofNat 64 (s.nt.phase / 32000000000)


/-- A number of ns modulo P, in the range (−P/2, P/2] (R187). -/
def centred (p : Nat) (v : Int) : Int :=
  let r := v % (p : Int)
  if 2 * r > (p : Int) then r - p else r

/-- The always-on real-time counter, in 1/32768 s since reset (Table OPS-6, RTC). DESIGN CHOICE: it counts elapsed CTL time
(log 5). -/
def State.rtc (s : State) : Word := BitVec.ofNat 32 (s.now * 2 / 1953125)

/-- The trip clock at an instant (R240), and now. -/
def State.tripClockAt (s : State) (t : Nat) : DWord := s.trp.clkVal + BitVec.ofNat 64 ((t - s.trp.clkAt) / 32)
def State.tripClock (s : State) : DWord := s.tripClockAt s.now

/-- Draw a free value. -/
def State.draw (s : State) : Nat × State :=
  (s.free, { s with free := s.free + 1 })

/-! ### Lists by key -/

/-- A pair put into an association list in place of an older one. -/
def assocPut {α : Type} (l : List (Nat × α)) (k : Nat) (x : α) : List (Nat × α) := (k, x) :: l.filter fun p => p.1 != k

/-- The value an association list gives a key. -/
def assocGet {α : Type} (l : List (Nat × α)) (k : Nat) : Option α := (l.find? fun p => p.1 == k).map fun p => p.2

def State.modBus (s : State) (f : BusState → BusState) : State := { s with bus := f s.bus }

/-! ### Configuration axes (Table STG-12) -/

/-- Link mode is committed. -/
def State.linkMode (s : State) : Bool := s.lv .stgDeviceCfg 0 0 1 0 = 1

/-- A Lichen pair is committed. -/
def State.pair (s : State) : Bool := s.lv .stgDeviceCfg 0 0 3 2 = 1

/-- Does the CTL domain run? Not before the loop has locked for the first time (Table CLK-3). -/
def State.ctlRuns (s : State) : Bool := s.clk.st != .acquire

/-- Does a module of a pair run without a READY twin (R421)? -/
def State.lone (s : State) : Bool := s.pair && (s.twn.alone || !s.twn.twin.flags.testBit 1)

/-- The number of configured stacks. -/
def State.nStacks (s : State) : Nat := s.lv .stgDeviceCfg 0 0 23 16

/-- Whether a stack is configured. -/
def State.configured (s : State) (k : Nat) : Bool := k < s.nStacks

/-- The mask of the configured stacks. -/
def State.cfgMask (s : State) : Nat := 2 ^ (min s.nStacks 16) - 1

/-! ### Parts of the state by number -/

def State.engN (s : State) (e : Nat) : Engine := vget s.eng e {}
def State.modEng (s : State) (e : Nat) (f : Engine → Engine) : State := { s with eng := vset s.eng e (f (s.engN e)) }
def State.tb (s : State) (t : Nat) : Timebase := vget s.pwm.tbs t {}
def State.modTb (s : State) (t : Nat) (f : Timebase → Timebase) : State :=
  { s with pwm := { s.pwm with tbs := vset s.pwm.tbs t (f (s.tb t)) } }
def State.chan (s : State) (n : Nat) : Chan := vget s.pwm.chans n {}
def State.modChan (s : State) (n : Nat) (f : Chan → Chan) : State :=
  { s with pwm := { s.pwm with chans := vset s.pwm.chans n (f (s.chan n)) } }
def State.zone (s : State) (k : Nat) : Zone := vget s.trp.zones k {}
def State.modZone (s : State) (k : Nat) (f : Zone → Zone) : State :=
  { s with trp := { s.trp with zones := vset s.trp.zones k (f (s.zone k)) } }
def State.gs (s : State) (k : Nat) : GdlStack := vget s.gdl.stk k {}
def State.modGs (s : State) (k : Nat) (f : GdlStack → GdlStack) : State :=
  { s with gdl := { s.gdl with stk := vset s.gdl.stk k (f (s.gs k)) } }
def State.dec (s : State) (c : Nat) : DecChan := vget s.meas.chans c {}
def State.modDec (s : State) (c : Nat) (f : DecChan → DecChan) : State :=
  { s with meas := { s.meas with chans := vset s.meas.chans c (f (s.dec c)) } }
def State.acqN (s : State) (u : Nat) : AcqUnit := vget s.acq u {}
def State.modAcq (s : State) (u : Nat) (f : AcqUnit → AcqUnit) : State := { s with acq := vset s.acq u (f (s.acqN u)) }
def State.dmaN (s : State) (n : Nat) : DmaChan := vget s.dma n {}
def State.modDma (s : State) (n : Nat) (f : DmaChan → DmaChan) : State := { s with dma := vset s.dma n (f (s.dmaN n)) }
def State.ring (s : State) (r : Nat) : Ring := vget s.cmd.rings r {}
def State.modRing (s : State) (r : Nat) (f : Ring → Ring) : State :=
  { s with cmd := { s.cmd with rings := vset s.cmd.rings r (f (s.ring r)) } }
def State.rep (s : State) (r : Nat) : Replay := vget s.sec.replay r {}
def State.modRep (s : State) (r : Nat) (f : Replay → Replay) : State :=
  { s with sec := { s.sec with replay := vset s.sec.replay r (f (s.rep r)) } }
def State.port (s : State) (p : Nat) : EthPort := vget s.eth.ports p {}
def State.modPort (s : State) (p : Nat) (f : EthPort → EthPort) : State :=
  { s with eth := { s.eth with ports := vset s.eth.ports p (f (s.port p)) } }
def State.modClk (s : State) (f : ClkState → ClkState) : State := { s with clk := f s.clk }
def State.modNt (s : State) (f : NtState → NtState) : State := { s with nt := f s.nt }
def State.modSec (s : State) (f : SecState → SecState) : State := { s with sec := f s.sec }
def State.modStg (s : State) (f : StgState → StgState) : State := { s with stg := f s.stg }
def State.modOps (s : State) (f : OpsState → OpsState) : State := { s with ops := f s.ops }
def State.modCmd (s : State) (f : CmdState → CmdState) : State := { s with cmd := f s.cmd }
def State.modSaf (s : State) (f : SafState → SafState) : State := { s with saf := f s.saf }
def State.modTwn (s : State) (f : TwnState → TwnState) : State := { s with twn := f s.twn }
def State.modMgt (s : State) (f : MgtState → MgtState) : State := { s with mgt := f s.mgt }

/-- Do something to the state for each number of a list, in order. -/
def forNums (l : List Nat) (f : Nat → State → State) (s : State) : State := l.foldl (fun a i => f i a) s

end Sys2Proof.Machine
end

