-- ==== Sys2Proof/Machine/Ops.lean ====
section
/-! DEFINITION. The operations every chapter shares: the event log, changes of the operating state, host memory and interrupt
vectors, scheduler trace records and completions. -/

namespace Sys2Proof.Machine

/-! ### Codes -/

/-- The status codes of Table CMD-6 (R325). -/
inductive Status where
  | ok | authFail | replay | late | timeout | checkFail | stageBusy | xfadeBusy | busyStopping | clearRefused | overlap | error
  | standby | aborted
  deriving DecidableEq, Repr

/-- The code of a status. -/
def Status.code : Status → Nat
  | .ok => 0 | .authFail => 1 | .replay => 2 | .late => 3 | .timeout => 4 | .checkFail => 5 | .stageBusy => 6
  | .xfadeBusy => 7 | .busyStopping => 8 | .clearRefused => 9 | .overlap => 10 | .error => 11 | .standby => 12 | .aborted => 13

/-- The code of an operating state (Table OPS-1); OFF has none and reads 0. -/
def OpState.code : OpState → Nat
  | .off => 0 | .boot => 1 | .selftest => 2 | .idle => 3 | .armed => 4 | .running => 5 | .stopping => 6 | .halted => 7

/-- LINK of Table GDL-18. -/
def LinkState.code : LinkState → Nat
  | .down => 0 | .training => 1 | .trained => 2 | .fault => 3

/-- OST_STATE of Table GDL-18. -/
def OstState.code : OstState → Nat
  | .none => 0 | .running => 1 | .passed => 2 | .failed => 3

/-! ### Who serves what (R66, R67, Table FRD-14) -/

/-- The stack in slot 0 or 1 of an engine; 0x1F names none. -/
def State.slotStack (s : State) (e slot : Nat) : Nat :=
  if slot = 0 then s.lv .frdCtrl e 0 18 14 else s.lv .frdCtrl e 0 23 19

/-- The stacks an engine serves. -/
def State.servedBy (s : State) (e : Nat) : List Nat :=
  [s.slotStack e 0, s.slotStack e 1].filter (· < 16)

/-- The engine that serves a stack. -/
def State.engineOf (s : State) (k : Nat) : Option Nat :=
  (List.range 8).find? fun e => (s.servedBy e).contains k

/-- The state with the committed registers that an engine sees (R26). -/
def State.asSeen (s : State) (e : Nat) : State := { s with live := (s.engN e).seen }

/-- ENABLE = 1 and a committed graph: the engine runs its graph in ARMED and RUNNING (R66, R68). -/
def State.canRun (s : State) (e : Nat) : Bool := s.lvb .frdCtrl e 0 0 && (s.engN e).image.isSome

/-- The lead timebase of an engine. -/
def State.leadTb (s : State) (e : Nat) : Nat := s.lv .frdCtrl e 0 11 8

/-- Does an engine execute: ARMED or RUNNING, and started under R68? -/
def State.executes (s : State) (e : Nat) : Bool :=
  (s.ops.st = .armed || s.ops.st = .running) && (s.engN e).executing

/-! ### Arming conditions (Table OPS-10) -/

/-- Does some configured stack meet a condition? -/
def State.anyStack (s : State) (p : Nat → Bool) : Bool := (List.range 16).any fun k => s.configured k && p k

/-- GLB_ARM_BLOCK: bit n set while arming condition n is unmet (R380). -/
def State.armBlock (s : State) : Nat :=
  let b (n : Nat) (c : Bool) : Nat := if c then 2 ^ n else 0
  b 0 (!(s.saf.chA.rel && s.saf.chB.rel))
  + b 1 (s.anyStack fun k => (s.gs k).ost != .passed)
  + b 2 (s.linkMode && s.anyStack fun k => (s.gs k).link != .trained)
  + b 3 (s.clk.st != .locked)
  + b 4 (!s.nt.valid && (s.nt.slots.toList.any (·.isSome) || s.nt.batches ≠ [] || (List.range 16).any fun t => s.lv .pwmTbCtrl t 0 5 4 = 2))
  + b 5 (s.anyStack fun k => (s.zone k).causes != 0)
  + b 6 (!s.linkMode && s.anyStack fun k => (s.gs k).dsr == .fault)
  + b 7 s.stg.defaulted
  + b 8 (s.nStacks = 0)
  + b 9 (s.anyStack fun k => !((List.range 8).any fun e => s.canRun e && (s.servedBy e).contains k))
  + b 10 s.arb.strapped

/-! ### The event log (R391) -/

/-- A record goes into the event log's buffer under the next number; one that finds the buffer full is dropped and counted. -/
def State.logPut (s : State) (r : LogRec) : State :=
  if 4096 ≤ s.log.buffer.length then s.count .glbLogLost
  else { s with log := { s.log with buffer := s.log.buffer ++ [{ r with recno := s.log.recno }], recno := s.log.recno + 1 } }

/-- Write an event-log record: source block, TYPE, DETAIL and BODY. -/
def State.note (s : State) (source type detail : Nat) (body : Bytes) : State :=
  s.logPut {
    ntNs := s.nt64, recno := 0, rtc := s.rtc, source := source, type := type, state := s.ops.st.code
    flags := if s.nt.valid then 1 else 0, detail := BitVec.ofNat 32 detail, body := body, resets := s.sec.resetCnt }

/-- The records held, oldest first: the region of 1 048 576 records and the buffer. -/
def State.logHeld (s : State) : List LogRec :=
  let l := s.log.nand ++ s.log.buffer
  l.drop (l.length - 1048576)

/-- The buffered records reach NAND; the newest records overwrite the oldest. -/
def State.logFlush (s : State) : State :=
  { s with log := { s.log with nand := s.logHeld, buffer := [], urgent := false } }

/-- What goes before any other NAND access: the flush that HALTED asks for (R385). -/
def State.nandTurn (s : State) : State := if s.log.urgent then s.logFlush else s

/-- Record that bit `n` of a flag register has been raised: TYPE EVENT. -/
def State.logFlag (s : State) (source : Nat) (n : Nat) (value : DWord) : State :=
  s.note source 3 n (leBytes 8 value.toNat)

/-- NOTIFY of MGT_STATUS (R453). -/
def State.notify (s : State) : State := s.modMgt fun m => { m with notify := true }

/-! ### Operating states -/

/-- Refuse with BUSY_STOPPING: count it (R383). -/
def State.busyStop (s : State) : State := s.count .glbBusyStopCnt

/-- Count a discarded BAR0 access with its cause (R11, R36, Table ARC-9). -/
def State.accessErr (s : State) (cause : Nat) (write : Bool) (off : Nat) : State :=
  (s.count .glbAccessErr).setRegN .glbAccessAddr 0 0 (cause * 2 ^ 24 + (if write then 2 ^ 23 else 0) + off % 2 ^ 22)

/-! ### Host memory and vectors -/

/-- What host memory holds at an address as far as the device has written it. DESIGN CHOICE: 0 elsewhere (log 6). -/
def memDefault (_ : Nat) : Byte := 0

/-- Write bytes from an address on. -/
def memWrite (m : List (Nat × Byte)) : Nat → Bytes → List (Nat × Byte)
  | _, [] => m
  | a, b :: rest => memWrite (cellsWrite memDefault m a b) (a + 1) rest

/-- Read `n` bytes from an address on. -/
def memRead (m : List (Nat × Byte)) (a : Nat) (n : Nat) : Bytes :=
  (List.range n).map fun i => cellsRead memDefault m (a + i)

/-- Write to host memory. -/
def State.hostWrite (s : State) (a : Nat) (bs : Bytes) : State := { s with host := memWrite s.host a bs }

/-- Raise an MSI-X vector: a masked vector becomes pending, another one sends its message (R312). -/
def State.raise (s : State) (v : Nat) : State :=
  if bitOf (cellsRead regDefault s.regs (0x1800C + 16 * (v % 256))) 0 then
    s.modCmd fun c => { c with pba := c.pba ||| BitVec.ofNat 256 (2 ^ (v % 256)) }
  else s.modCmd fun c => { c with msix := c.msix ++ [BitVec.ofNat 8 v] }

/-! ### Scheduler trace (R331) -/

/-- The level of a ring: 4·(3 − CLASS) + PRIO (R328). -/
def State.level (s : State) (r : Nat) : Nat :=
  let c := s.reg .cmdRingCfg r
  4 * (3 - bitsOf c 25 24) + bitsOf c 19 18

/-- A trace record (Table CMD-7). -/
def traceRec (time : DWord) (event level unit ring seq : Nat) : DWord :=
  BitVec.ofNat 64 ((time.toNat % 2 ^ 32) * 2 ^ 32 + event * 2 ^ 28 + (level % 16) * 2 ^ 24 + (unit % 8) * 2 ^ 21
    + (ring % 128) * 2 ^ 13 + seq % 2 ^ 13)

/-- Put one record into the trace queue, or drop and count it; after a gap a TRACE_LOST record goes first. -/
def State.trace (s : State) (event unit ring : Nat) (seq : DWord) : State :=
  if bitOf (s.reg .schCtrl) 0 then
    let s := if s.cmd.traceGap ≠ 0 ∧ s.cmd.trace.length < 256 then
        s.modCmd fun c => { c with
          trace := c.trace ++ [traceRec s.nt64 0xB 0 7 0 (min c.traceGap 0x1FFF)], traceGap := 0
          traceSince := if c.trace = [] then s.now else c.traceSince }
      else s
    if s.cmd.trace.length < 256 then
      s.modCmd fun c => { c with
        trace := c.trace ++ [traceRec s.nt64 event (s.level ring) unit ring seq.toNat]
        traceSince := if c.trace = [] then s.now else c.traceSince }
    else (s.count .schTraceLost).modCmd fun c => { c with traceGap := c.traceGap + 1 }
  else s

/-! ### Back-pressure (R330) -/

/-- Items on a ready list. DEDUCED: an item at which a unit works keeps its place, so that its successor finds one and no list holds more
than 64 (R330, log 47). -/
def State.listLen (s : State) (l : Nat) : Nat :=
  (s.cmd.ready.filter fun w => w.level = l).length + (s.cmd.units.toList.filter fun u => u.any fun w => w.level = l).length

/-- The rings of a level take on, or lose, the mark of back-pressure. -/
def State.markBp (s : State) (l : Nat) (on : Bool) : State :=
  forNums ((List.range 128).filter fun r => s.level r = l && (s.ring r).st = .running) (fun r s => s.modRing r fun q => { q with bp := on }) s

/-- A list that fills stops fetching for its level; one that has fallen to 48 items lets it go on (R330). -/
def State.backPressure (s : State) (l ring : Nat) (seq : DWord) : State :=
  let on := s.cmd.bpLevels.getLsbD l
  let n := s.listLen l
  if !on && decide (64 ≤ n) then
    let s := (s.modCmd fun c => { c with bpLevels := c.bpLevels ||| BitVec.ofNat 16 (2 ^ l) }).count .schBpCnt
    (s.markBp l true).trace 8 7 ring seq
  else if on && decide (n ≤ 48) then
    let s := s.modCmd fun c => { c with bpLevels := c.bpLevels &&& ~~~ BitVec.ofNat 16 (2 ^ l) }
    (s.markBp l false).trace 9 7 ring seq
  else s

/-! ### Completions (R322) -/

/-- The depth of a ring. -/
def State.depth (s : State) (r : Nat) : Nat := 2 ^ bitsOf (s.reg .cmdRingCfg r) 4 0

/-- A completion entry (Table CMD-5). -/
def cqEntry (src : Src) (opcode : Nat) (st : Status) (detail : Nat) (at_ : DWord) (sqHead : Nat) (phase : Bool) : Bytes :=
  leBytes 8 src.seq.toNat ++ leBytes 8 at_.toNat ++ leBytes 2 st.code ++ leBytes 2 opcode ++ leBytes 4 detail
    ++ leBytes 2 sqHead ++ [if phase then 1 else 0] ++ List.replicate 5 0

/-- Is it the same command? -/
def sameSrc (a b : Src) : Bool := a.ring == b.ring && a.seq == b.seq

/-- Is the command an accepted one of this module's own rings, or of its own management port, still to be completed? -/
def State.ownCommand (s : State) (src : Src) : Bool :=
  (s.cmd.handed.any fun h => sameSrc h.src src) || (src.ring.val = 128 && s.mgt.cmd.any fun c => sameSrc c.cmd.src src)

/-- Take a command out of the list of accepted ones. -/
def State.dropCommand (s : State) (src : Src) : State :=
  s.modCmd fun c => { c with handed := c.handed.eraseP fun h => sameSrc h.src src }

/-- Remember the completion of a mirrored command: the last 64 of each ring (R440). -/
def State.remember (s : State) (src : Src) (st : Status) (at_ : DWord) : State :=
  s.modTwn fun t =>
    let p : PastCmd := { ring := src.ring.val, seq := src.seq, status := st.code, appliedAt := at_ }
    let same := (t.past.filter fun x => x.ring == src.ring.val).take 63
    { t with past := p :: same ++ t.past.filter fun x => x.ring != src.ring.val }

/-- The counters of completions by status (Table CMD-12). -/
def State.countStatus (s : State) : Status → State
  | .authFail => s.count .cmdAuthFailCnt
  | .replay => s.count .cmdReplayCnt
  | .timeout => s.count .cmdTimeoutCnt
  | _ => s

/-- One MCTP packet of a response as an SMBus write to its peer: address, command code, byte count, source address, MCTP header, up to 64
bytes, and the PEC over all of them (R452). Formats of DSP0236 and DSP0237 (log 53). -/
def mctpPacket (addr : Nat) (own : Byte) (peer : MctpPeer) (k : Nat) (last : Bool) (data : Bytes) : Bytes :=
  let fl := (if k = 0 then 128 else 0) + (if last then 64 else 0) + k % 4 * 16 + peer.tag % 8
  let p : Bytes := [BitVec.ofNat 8 (2 * peer.addr), 0x0F, BitVec.ofNat 8 (data.length + 5), BitVec.ofNat 8 (2 * addr + 1), 1, peer.eid,
    own, BitVec.ofNat 8 fl] ++ data
  p ++ [BitVec.ofNat 8 (crc8 p)]

/-- The packets of a message, from its packet `k` on. -/
def mctpPackets (addr : Nat) (own : Byte) (peer : MctpPeer) : Nat → Nat → Bytes → List Bytes
  | 0, _, _ => []
  | n + 1, k, bs =>
    if bs.length ≤ 64 then [mctpPacket addr own peer k true bs]
    else mctpPacket addr own peer k false (bs.take 64) :: mctpPackets addr own peer n (k + 1) (bs.drop 64)

/-- The packets that carry a message to a peer, newest first. -/
def State.mctpOut (s : State) (peer : MctpPeer) (bs : Bytes) : List Bytes :=
  (mctpPackets (s.lv .mgtCfg 0 0 6 0) s.mgt.eid peer (bs.length / 64 + 1) 0 bs).reverse

/-- A message sent. -/
def State.mctpSend (s : State) (peer : MctpPeer) (bs : Bytes) : State :=
  s.modMgt fun m => { m with sent := s.mctpOut peer bs ++ m.sent }

/-- A Galuholt response: the vendor header of DSP0236 and Table MGT-1. -/
def mgtReply (kind : Nat) (req : Byte) (status : Nat) (body : Bytes) : Bytes :=
  [0x7F, 0, 0, 0xD8, 0xE5] ++ [BitVec.ofNat 8 kind, req, BitVec.ofNat 8 status, 0] ++ leBytes 2 body.length ++ [0, 0] ++ body

/-- Answer the COMMAND message under way with its completion entry and what follows it (Table MGT-2). -/
def State.mgtAnswer (s : State) (c : MgtCmd) (entry : Bytes) (st : Status) : State :=
  let s := s.mctpSend c.peer (mgtReply 0x10 c.reqId 0 (entry ++ s.mgt.tail))
  let s := (s.modMgt fun m => { m with cmd := none, tail := [] }).count .mgtCmdCnt
  if st = .authFail then s.count .mgtAuthFailCnt else s

/-- Write a completion entry at the CQ tail of a command's ring, count it and raise the ring's vector (R322, R323). -/
def State.writeEntry (s : State) (src : Src) (opcode : Nat) (st : Status) (detail : Nat) (at_ : DWord) : State :=
  let r := src.ring.val
  let q := s.ring r
  let s := s.hostWrite ((s.reg .cmdCqBase r).toNat + 32 * q.cqTail) (cqEntry src opcode st detail at_ q.sqHead q.phase)
  let tail := (q.cqTail + 1) % s.depth r
  let s := s.modRing r fun q => { q with
    cqTail := tail, phase := if tail = 0 then !q.phase else q.phase, inFlight := q.inFlight - 1 }
  let s := (s.count .cmdDoneCnt r).countStatus st
  let s := if src.irq then s.raise (bitsOf (s.reg .cmdRingCfg r) 15 8) else s
  s.trace 7 7 r src.seq

/-- Write the one completion of a command: status, DETAIL and APPLIED_AT (R322, R323). One of the management port that has been answered, or
whose port has lost its supply, is answered no more (Table MGT-4). A module that applies its twin's command
writes none and remembers it, whatever its role has become; an ACTIVE module remembers its own ones too, but for LOG_READ, which is not
mirrored (R433, R440). -/
def State.complete (s : State) (src : Src) (opcode : Nat) (st : Status) (detail : Nat) (at_ : DWord) : State :=
  if s.pair && !s.ownCommand src then s.remember src st at_
  else if src.ring.val = 128 then
    match s.mgt.cmd.filter fun c => sameSrc c.cmd.src src with
    | some c => s.mgtAnswer c (cqEntry src opcode st detail at_ 0 true) st
    | none => s
  else
    let s := (s.dropCommand src).writeEntry src opcode st detail at_
    if s.pair && s.twn.role && opcode != 0x0805 then s.remember src st at_ else s

/-- Complete a command that took effect now. -/
def State.done (s : State) (src : Src) (opcode : Nat) (detail : Nat := 0) : State :=
  s.complete src opcode .ok detail s.nt64

/-- Complete a command that had no effect. -/
def State.refuse (s : State) (src : Src) (opcode : Nat) (st : Status) (detail : Nat) : State :=
  s.complete src opcode st detail 0

/-- In HALTED a ring's command other than those of R386 completes ERROR, DETAIL 5, and has no effect; of those of the management port
this holds for STG_COMMIT alone (Table MGT-3). -/
def State.unlessHalted (s : State) (c : Src) (op : Nat) (t : State) : State :=
  if s.ops.st = .halted ∧ (c.ring.val < 128 ∨ op = 0x0204) then s.refuse c op .error 5 else t

/-! ### The command that a row acts on (R316, R322, R326) -/

/-- The block that a command acts on, by the first opcode of its group; commands of one block act in the order of their acceptance
(R291, R302, R326, R366; log 35). -/
def blockOf (op : Nat) : Nat :=
  if op = 0x0910 then 0x0200 else if op / 256 = 9 then 0x0900 else if op / 256 = 8 then op else op / 16 * 16

/-- The commands that act through the mailbox of an engine (R99). -/
def isMbox (op : Nat) : Bool := [0x0101, 0x0102, 0x0103, 0x0110, 0x0120, 0x0801].contains op

/-- Is `h` an accepted command, still to be acted on, that has this header, opcode and payload? -/
def Handed.is (h : Handed) (c : Src) (op : Nat) (p : Bytes) : Bool :=
  !h.acted && decide (h.src = c) && h.opcode == op && decide (h.payload = p)

/-- Does an accepted command that has not acted yet go before a later one: it is for a mailbox of the same engine, or for the same
block? -/
def Handed.before (h : Handed) (op : Nat) (p : Bytes) : Bool :=
  !h.acted && if isMbox op || isMbox h.opcode then
      isMbox op && isMbox h.opcode && (op < 0x0110 || h.opcode < 0x0110 || pb h.payload 0 &&& pb p 0 != 0)
    else blockOf h.opcode == blockOf op

/-- Has the command been accepted with the bytes that the row brings, so that what is acted on is what was authenticated, and is it its turn? Of
two commands accepted in one cycle that of a host ring goes before that of the management port (R365, Table MGT-4). -/
def State.given (s : State) (c : Src) (op : Nat) (p : Bytes) : Bool :=
  if c.ring.val = 128 then
    s.mgt.cmd.any fun m => m.cmd.is c op p && s.cmd.handed.all fun h => !(h.before op p && decide (h.at_ / 32 ≤ m.cmd.at_ / 32))
  else (s.cmd.handed.any fun h => h.is c op p
      && !(s.mgt.cmd.any fun m => m.cmd.before op p && decide (m.cmd.at_ / 32 < h.at_ / 32)))
    && (s.cmd.handed.takeWhile fun h => !h.is c op p).all fun h => !h.before op p

/-- Note that an accepted command has been acted on, or with `false` that it still has to be. -/
def State.took (s : State) (c : Src) (done : Bool := true) : State :=
  if c.ring.val = 128 then s.modMgt fun m => { m with cmd := m.cmd.map fun x => { x with cmd := { x.cmd with acted := done } } }
  else s.modCmd fun x => { x with handed := x.handed.map fun h => if h.src = c then { h with acted := done } else h }

/-- The instant at which a command was accepted; a mirrored one counts from its arrival. -/
def State.acceptedAt (s : State) (c : Src) : Nat :=
  if c.ring.val = 128 then (s.mgt.cmd.map fun m => m.cmd.at_).getD s.now
  else ((s.cmd.handed.find? fun h => h.src = c).map fun h => h.at_).getD s.now

/-- A block acts on a command that it has been given; nothing else makes it act. -/
def State.acting (s : State) (c : Src) (op : Nat) (p : Bytes) (f : State → State) : State :=
  if s.given c op p then f (s.took c) else s

/-- The same for a command that HALTED turns away. -/
def State.obey (s : State) (c : Src) (op : Nat) (p : Bytes) (f : State → State) : State :=
  s.acting c op p fun s => s.unlessHalted c op (f s)

end Sys2Proof.Machine
end

