-- ==== Sys2Proof/Machine/Dma.lean ====
section
/-! DEFINITION. Data movement: DMA channels with their descriptors, queues, pacing, aborts and errors (R409 to R417). -/

namespace Sys2Proof.Machine

/-! ### Configuration (Table ACQ-18) and queues (Table ACQ-8) -/

def State.dmaQueue (s : State) (n : Nat) : Nat := s.lv .dmaChCfg n 0 3 0
def State.dmaLow (s : State) (n : Nat) : Nat := 32 * s.lv .dmaChCfg n 0 19 10
def State.dmaHigh (s : State) (n : Nat) : Nat := 32 * s.lv .dmaChCfg n 0 29 20
def State.dmaPrio (s : State) (n : Nat) : Nat := s.lv .dmaChCfg n 0 31 30
def State.dmaBurstLen (s : State) (n : Nat) : Nat := 32 * 2 ^ s.lv .dmaChCfg n 0 9 8
def State.dmaDepth (s : State) (n : Nat) : Nat := 2 ^ bitsOf (s.reg .dmaDescCfg n) 4 0
def State.dmaVector (s : State) (n : Nat) : Nat := bitsOf (s.reg .dmaDescCfg n) 23 16
def State.dmaTail (s : State) (n : Nat) : Nat := bitsOf (s.reg .dmaDescTail n) 11 0
def State.dmaRingDram (s : State) (n : Nat) : Bool := bitOf (s.reg .dmaDescCfg n) 8

/-- Is a channel the one that drains or fills its queue? The Ethernet queues and the trace queue name theirs by RX_DMA, TX_DMA and
TRACE_DMA; the SAR queue is bound by QUEUE alone (R286, R331, R409). -/
def State.dmaBound (s : State) (n : Nat) : Bool :=
  match s.dmaQueue n with
  | 2 => s.lv .ethCtrl 0 0 12 8 = n
  | 3 => s.lv .ethCtrl 0 0 20 16 = n
  | 4 => bitsOf (s.reg .schCtrl) 12 8 = n
  | _ => true

/-- The instant since which a source queue has held data. -/
def State.queueSince (s : State) (q : Nat) : Nat :=
  if q = 1 then s.sar.since else if q = 2 then s.eth.rxSince else s.cmd.traceSince

/-- The bytes that a source queue holds. -/
def State.queueBytes (s : State) (q : Nat) : Bytes :=
  if q = 1 then (s.sar.queue.flatMap fun w => leBytes 4 w.toNat).drop s.sar.taken
  else if q = 2 then s.eth.rxq
  else if q = 4 then (s.cmd.trace.flatMap fun w => leBytes 8 w.toNat).drop s.cmd.traceTaken
  else []

/-- Take bytes out of a source queue; an entry of which only a part has gone stays at its front. -/
def State.queueTake (s : State) (q n : Nat) : State :=
  if q = 1 then
    let k := n + s.sar.taken
    { s with sar := { s.sar with queue := s.sar.queue.drop (k / 4), taken := k % 4 } }
  else if q = 2 then { s with eth := { s.eth with rxq := s.eth.rxq.drop n } }
  else if q = 4 then
    let k := n + s.cmd.traceTaken
    s.modCmd fun c => { c with trace := c.trace.drop (k / 8), traceTaken := k % 8 }
  else s

/-- Bytes that the Ethernet transmit queue holds, and what it can still take of 16 KiB. -/
def State.txFill (s : State) : Nat := (s.eth.txq.map List.length).sum + s.eth.txPart.length
def State.txSpace (s : State) : Nat := 16384 - s.txFill

/-- What pacing looks at: the fill of a source queue, the free space of the destination queue; a queue that names another channel has
nothing for this one. -/
def State.dmaFill (s : State) (n : Nat) : Nat :=
  if !s.dmaBound n then 0 else if s.dmaQueue n = 3 then s.txSpace else (s.queueBytes (s.dmaQueue n)).length

/-! ### Descriptors (Table ACQ-9) -/

/-- A descriptor as its bytes spell it. -/
def dmaDescOf (b : Bytes) : DmaDesc :=
  { src := pf b 0 8, dst := pf b 8 8, len := pf b 16 4, flags := BitVec.ofNat 8 (pb b 20), rsv := (padTo 32 b).drop 21 |>.take 3 }

def DmaDesc.srcDram (d : DmaDesc) : Bool := d.flags.getLsbD 0
def DmaDesc.dstDram (d : DmaDesc) : Bool := d.flags.getLsbD 1
def DmaDesc.swap (d : DmaDesc) : Nat := d.flags.toNat / 4 % 4
def DmaDesc.irq (d : DmaDesc) : Bool := d.flags.getLsbD 4
def DmaDesc.cyclic (d : DmaDesc) : Bool := d.flags.getLsbD 5

/-- Is a DRAM range open to DMA (Table ACQ-12)? -/
def dramOpen (a n : Nat) (write : Bool) : Bool :=
  (!write && decide (a + n ≤ 0x300000000)) || (decide (0x380000000 ≤ a) && decide (a + n ≤ 0x3FC000000))

/-- Table ACQ-10, in order: why a descriptor moves nothing. -/
def dmaRefusal (q : Nat) (d : DmaDesc) : Option (Status × Nat) :=
  let fromQ := q = 1 || q = 2 || q = 4
  let toQ := q = 3
  let srcBad := !fromQ && d.srcDram && !dramOpen d.src d.len false
  let dstBad := !toQ && d.dstDram && !dramOpen d.dst d.len true
  let odd := d.len % 4 != 0 || (!fromQ && d.src % 4 != 0) || (!toQ && d.dst % 4 != 0)
  if d.len = 0 ∨ 64 ≤ d.flags.toNat ∨ d.rsv.any (· != 0) then some (.checkFail, 1)
  else if ((fromQ || toQ) && d.len % 4 != 0) || (d.swap != 0 && odd) then some (.checkFail, 2)
  else if srcBad || dstBad then some (.checkFail, 3)
  else if (fromQ && d.src != 0) || (toQ && (d.dst != 0 || d.len < 60 || 1996 < d.len)) then some (.checkFail, 4)
  else if q = 0 && d.srcDram == d.dstDram && decide (d.src < d.dst + d.len) && decide (d.dst < d.src + d.len) then some (.overlap, 0)
  else none

/-- The status word of a descriptor. -/
def dmaStatus (st : Status) (detail residue : Nat) (lastBeat : Bool) : Nat :=
  residue * 2 ^ 32 + 2 ^ 31 + (if lastBeat then 2 ^ 30 else 0) + detail % 256 * 2 ^ 16 + st.code

/-- Write the status of the descriptor at the head, keep its code, and raise the vector. -/
def State.dmaReport (s : State) (n : Nat) (st : Status) (detail residue : Nat) (lastBeat irq : Bool) : State :=
  let a := (s.reg .dmaDescBase n).toNat + 32 * (s.dmaN n).head + 24
  let bs := leBytes 8 (dmaStatus st detail residue lastBeat)
  let s := if s.dmaRingDram n then { s with dram := memWrite s.dram a bs } else s.hostWrite a bs
  let s := s.modDma n fun c => { c with code := st.code, lastBeat := lastBeat }
  if irq then s.raise (s.dmaVector n) else s

/-- The head moves past the current descriptor. -/
def State.dmaNext (s : State) (n : Nat) : State :=
  s.modDma n fun c => { c with head := (c.head + 1) % s.dmaDepth n, desc := none, moved := 0 }

/-- The state of a started channel: RUN while it can move data, WAIT while it is paced or has no descriptor (log 49). -/
def State.dmaSettle (s : State) (n : Nat) : State :=
  s.modDma n fun c =>
    if c.st = .run ∨ c.st = .wait then
      { c with st := if c.desc.isSome && (s.dmaQueue n = 0 || c.paced) then .run else .wait }
    else c

/-- A read of DRAM may meet errors that the in-line ECC corrects; how many is a free value (R416, log 49). -/
def State.eccRead (s : State) : State :=
  let (k, s) := s.draw
  s.count .dmaEccCnt 0 (Config.freeNat k)

/-- The channel takes the descriptor at its head, if there is one; one that fails its checks receives its status (R411). -/
def State.dmaLoad (s : State) (n : Nat) (bytes : Bytes) : State :=
  let c := s.dmaN n
  if c.desc.isSome ∨ c.head = s.dmaTail n then s
  else
    let s := if s.dmaRingDram n then s.eccRead else s
    let b := if s.dmaRingDram n then memRead s.dram ((s.reg .dmaDescBase n).toNat + 32 * c.head) 32 else bytes
    let d := dmaDescOf b
    match dmaRefusal (s.dmaQueue n) d with
    | some (st, det) => (s.dmaReport n st det d.len false d.irq).dmaNext n
    | none => s.modDma n fun c => { c with desc := some d, moved := 0 }

/-! ### START, tail, runs -/

/-- A write of START (R410, R414, Table ACQ-11). -/
def State.dmaStart (s : State) (n : Nat) (desc : Bytes) : State :=
  match (s.dmaN n).st with
  | .aborting => (s.modDma n fun c => { c with code := Status.busyStopping.code }).busyStop
  | .idle | .error =>
    let s := s.modDma n fun c => { c with st := .wait, desc := none, moved := 0, paced := false, flush := false, lastBeat := false }
    (s.dmaLoad n desc).dmaSettle n
  | _ => s

def execDmaStart (n : Fin 32) (desc : Bytes) (s : State) : Host.Outcome State Fault Refusal := .next (s.dmaStart n desc)

/-- A write of DMA_DESC_TAIL_n: at or above the ring's depth it is discarded. -/
def State.dmaTailWrite (s : State) (n v : Nat) : State :=
  if v < s.dmaDepth n then s.setRegN .dmaDescTail n 0 v else s.accessErr 3 true (regAddr .dmaDescTail n 0)

def execDmaDescTailWrite (n : Fin 32) (v : Word) (s : State) : Host.Outcome State Fault Refusal := .next (s.dmaTailWrite n v.toNat)

/-- DMA_RUN_START: the fill, or the free space, has reached HIGH. -/
def execDmaRunStart (n : Fin 32) (s : State) : Host.Outcome State Fault Refusal :=
  let c := s.dmaN n
  if (c.st = .run || c.st = .wait) && s.dmaQueue n != 0 && !c.paced && decide (s.dmaHigh n ≤ s.dmaFill n) then
    .next ((s.modDma n fun c => { c with paced := true }).dmaSettle n)
  else .next s

/-- The instant at which a source queue will have held data below HIGH for FLUSH × 10 µs: since it last stopped being empty, or
since the burst that left it there. -/
def State.flushAt (s : State) (n : Nat) : Nat :=
  max (s.queueSince (s.dmaQueue n)) (s.dmaN n).belowAt + s.lv .dmaChCfg n 0 7 4 * 320000

/-- DMA_FLUSH_TIMEOUT: a source queue has held data below HIGH for FLUSH × 10 µs, between runs or in a run whose rest is no whole burst; it is
drained to empty once. -/
def execDmaFlushTimeout (n : Fin 32) (s : State) : Host.Outcome State Fault Refusal :=
  let c := s.dmaN n
  let fill := s.dmaFill n
  if (c.st = .run || c.st = .wait) && s.lv .dmaChCfg n 0 7 4 != 0 && s.dmaQueue n != 0 && s.dmaQueue n != 3 && !c.flush && fill != 0
      && decide (fill < s.dmaHigh n) then
    let s := s.advanceTo (s.flushAt n)
    .next ((s.modDma n fun c => { c with paced := true, flush := true }).dmaSettle n)
  else .next s

/-! ### Bursts (R412, R413) -/

/-- Bytes to the next 4 KiB boundary of an address. -/
def toPage (a : Nat) : Nat := 4096 - a % 4096

/-- The length of the next burst: at most BURST bytes, within the descriptor and within the 4 KiB pages of its addresses; draining
takes what the queue still holds. -/
def State.burstLen (s : State) (n : Nat) (d : DmaDesc) : Nat :=
  let c := s.dmaN n
  let q := s.dmaQueue n
  let l := min (s.dmaBurstLen n) (d.len - c.moved)
  let l := if q = 0 ∨ q = 3 then min l (toPage (d.src + c.moved)) else l
  let l := if q ≠ 3 then min l (toPage (d.dst + c.moved)) else l
  if c.flush then min l (s.dmaFill n) else l

/-- SWAP on a run of words. -/
def swapBytes : Nat → Bytes → Bytes
  | 1, a :: b :: c :: d :: rest => b :: a :: d :: c :: swapBytes 1 rest
  | 2, a :: b :: c :: d :: rest => c :: d :: a :: b :: swapBytes 2 rest
  | 3, a :: b :: c :: d :: rest => d :: c :: b :: a :: swapBytes 3 rest
  | _, l => l

/-- The data of a burst: from the queue, from DRAM, or as the read of host memory brings it. -/
def State.burstData (s : State) (n : Nat) (d : DmaDesc) (len : Nat) (hostData : Bytes) : Bytes :=
  let q := s.dmaQueue n
  let raw :=
    if q ≠ 0 ∧ q ≠ 3 then (s.queueBytes q).take len
    else if d.srcDram then memRead s.dram (d.src + (s.dmaN n).moved) len
    else padTo len hostData
  swapBytes d.swap raw

/-- The data of a burst arrives where it goes. -/
def State.burstPut (s : State) (n : Nat) (d : DmaDesc) (bs : Bytes) : State :=
  if s.dmaQueue n = 3 then { s with eth := { s.eth with txPart := s.eth.txPart ++ bs } }
  else
    let a := d.dst + (s.dmaN n).moved
    if d.dstDram then { s with dram := memWrite s.dram a bs } else s.hostWrite a bs

/-- A transfer is complete: its status is written, a frame is in the transmit queue whole, and the head moves on, or with CYCLIC the
memory side starts again. -/
def State.dmaDone (s : State) (n : Nat) (d : DmaDesc) : State :=
  let s := if s.dmaQueue n = 3 then { s with eth := { s.eth with txq := s.eth.txq ++ [s.eth.txPart], txPart := [] } } else s
  let s := s.dmaReport n .ok 0 0 false (d.irq || (s.dmaN n).st = .aborting)
  if d.cyclic && (s.dmaN n).st != .aborting then s.modDma n fun c => { c with moved := 0 } else s.dmaNext n

/-- May the next burst start: the channel runs, or it is aborting and the burst in progress has not finished, and the queue holds or
can take all of it? -/
def State.mayBurst (s : State) (n : Nat) (d : DmaDesc) : Bool :=
  let c := s.dmaN n
  (c.st = .run || (c.st = .aborting && !c.burstOut))
    && (s.dmaQueue n = 0 || (s.dmaBound n && c.paced && decide (s.burstLen n d ≤ s.dmaFill n)))

/-- Does a channel wait for DRAM: its next burst may start and reads DRAM, or takes from a queue what goes to DRAM? -/
def State.wantsDram (s : State) (n : Nat) : Bool :=
  match (s.dmaN n).desc with
  | some d =>
    let q := s.dmaQueue n
    s.mayBurst n d && (((q = 0 || q = 3) && d.srcDram) || (q ≠ 0 && q ≠ 3 && d.dstDram))
  | none => false

/-- Does DRAM serve channel `m` before channel `n`: by PRIO, 0b11 first, and within one PRIO the channel served longest ago
(R417, log 49)? -/
def State.dmaBefore (s : State) (m n : Nat) : Bool :=
  let (a, b) := (s.dmaN m, s.dmaN n)
  decide (s.dmaPrio n < s.dmaPrio m)
    || (s.dmaPrio m = s.dmaPrio n && (decide (a.turn < b.turn) || (a.turn = b.turn && decide (m < n))))

/-- Does the DRAM arbiter let a channel's burst pass: it needs no DRAM, or no channel before it waits for DRAM? -/
def State.dramGrants (s : State) (n : Nat) (d : DmaDesc) : Bool :=
  let q := s.dmaQueue n
  let needs := ((q = 0 || q = 3) && d.srcDram) || (q ≠ 3 && d.dstDram)
  !needs || (List.range 32).all fun m => !(s.wantsDram m && s.dmaBefore m n)

/-- The turn that the burst served next takes. -/
def State.dmaTurn (s : State) : Nat := (List.range 32).foldl (fun t m => max t (s.dmaN m).turn) 0 + 1

/-- A run stops at a burst boundary at which the fill is at or below LOW; draining stops at empty. `was` is the fill before the burst. -/
def State.dmaPace (s : State) (n was : Nat) : State :=
  let fill := s.dmaFill n
  let s := s.modDma n fun c => { c with belowAt := if s.dmaHigh n ≤ was ∧ fill < s.dmaHigh n then s.now else c.belowAt }
  s.modDma n fun c => if fill ≤ (if c.flush then 0 else s.dmaLow n) then { c with paced := false, flush := false } else c

/-- DMA_BURST: a burst completes; after the last one of a descriptor the channel takes the next, whose bytes are `nextDesc` where the
ring is in host memory. In ABORTING the burst in progress finishes, and only where it is the last one and completes in the cycle of the
ABORT does the transfer complete (R414, Table ACQ-11). -/
def State.dmaBurst (s : State) (n : Nat) (hostData nextDesc : Bytes) : State :=
  let c := s.dmaN n
  match c.desc with
  | none => if c.st = .run ∨ c.st = .wait then (s.dmaLoad n nextDesc).dmaSettle n else s
  | some d =>
    if !(s.mayBurst n d && (c.st = .aborting || s.dramGrants n d)) then s
    else
      let len := s.burstLen n d
      let was := s.dmaFill n
      let s := if (s.dmaQueue n = 0 ∨ s.dmaQueue n = 3) ∧ d.srcDram then s.eccRead else s
      let s := s.burstPut n d (s.burstData n d len hostData)
      let s := if s.dmaQueue n ≠ 0 ∧ s.dmaQueue n ≠ 3 then s.queueTake (s.dmaQueue n) len else s
      let s := (s.modDma n fun c => { c with
        moved := c.moved + len, turn := s.dmaTurn, burstOut := c.st = .aborting }).count .dmaBytes n len
      let s := if s.dmaQueue n = 0 then s else s.dmaPace n was
      if (s.dmaN n).moved < d.len ∨ ((s.dmaN n).st = .aborting ∧ s.now ≠ (s.dmaN n).abortAt) then s.dmaSettle n
      else
        let s := s.dmaDone n d
        if (s.dmaN n).st = .aborting then s.modDma n fun c => { c with st := .idle, paced := false, flush := false }
        else (s.dmaLoad n nextDesc).dmaSettle n

def execDmaBurst (n : Fin 32) (hostData : Bytes) (nextDesc : Bytes) (s : State) : Host.Outcome State Fault Refusal :=
  .next (s.dmaBurst n hostData nextDesc)

/-! ### Aborts and errors (R414, R415) -/

/-- The status ABORTED of the current descriptor is written, the vector raised whatever IRQ holds, and the channel is IDLE. -/
def State.dmaStop (s : State) (n : Nat) : State :=
  let c := s.dmaN n
  let s := match c.desc with
    | some d => (s.dmaReport n .aborted 0 (d.len - c.moved) false true).dmaNext n
    | none => s
  let s := if s.dmaQueue n = 3 then { s with eth := { s.eth with txPart := [] } } else s
  s.modDma n fun c => { c with st := .idle, paced := false, flush := false }

/-- Is a burst of a running channel in progress: the queue holds or can take the whole of it, and DRAM serves it (log 49)? -/
def State.bursting (s : State) (n : Nat) : Bool := (s.dmaN n).desc.any fun d => s.mayBurst n d && s.dramGrants n d

/-- A write of ABORT: while no burst runs the status is written at once; otherwise the burst in progress finishes first. -/
def State.dmaAbort (s : State) (n : Nat) : State :=
  match (s.dmaN n).st with
  | .wait => s.dmaStop n
  | .run => if s.bursting n then s.modDma n fun c => { c with st := .aborting, abortAt := s.now, burstOut := false } else s.dmaStop n
  | _ => s

def execDmaAbort (n : Fin 32) (s : State) : Host.Outcome State Fault Refusal := .next (s.dmaAbort n)

/-- DMA_ABORT_COMPLETE: the burst in progress has finished. -/
def execDmaAbortComplete (n : Fin 32) (s : State) : Host.Outcome State Fault Refusal :=
  if (s.dmaN n).st = .aborting then .next (s.dmaStop n) else .next s

/-- Every channel aborts, where the cause of HALTED is CORE_LOCKSTEP or MEM_ECC. -/
def State.dmaAbortAll (s : State) : State := forNums (List.range 32) (fun n s => s.dmaAbort n) s

/-- A failed host access stops the channel in ERROR, with its head where it stands; `lastBeat` says that it came after the count of
the transfer reached zero. What a failed transfer has put in the transmit queue goes with it. Where the access was the fetch of the
descriptor at the head, its length is unknown: RESIDUE is a free value and no vector is raised (log 49). -/
def State.dmaError (s : State) (n cause : Nat) (lastBeat : Bool) : State :=
  let c := s.dmaN n
  match c.desc with
  | some d =>
    if c.st = .run ∨ c.st = .aborting then
      let last := lastBeat && decide (d.len ≤ c.moved + s.burstLen n d)
      let s := s.dmaReport n .error (cause + 1) (if last then 0 else d.len - c.moved) last d.irq
      let s := if s.dmaQueue n = 3 then { s with eth := { s.eth with txPart := [] } } else s
      s.modDma n fun c => { c with st := .error, desc := none, moved := 0, paced := false, flush := false }
    else s
  | none =>
    if (c.st = .run ∨ c.st = .wait) ∧ c.head ≠ s.dmaTail n ∧ !s.dmaRingDram n then
      let (k, s) := s.draw
      let s := s.dmaReport n .error (cause + 1) (Config.freeNat k % 2 ^ 32) false false
      s.modDma n fun c => { c with st := .error, moved := 0, paced := false, flush := false }
    else s

def execDmaHostError (n : Fin 32) (cause : Fin 3) (lastBeat : Bool) (s : State) : Host.Outcome State Fault Refusal :=
  .next (s.dmaError n cause lastBeat)

end Sys2Proof.Machine
end

