-- ==== Sys2Proof/Machine/Outputs.lean ====
section
/-! DEFINITION. What the stages of a channel do to its levels: turning off and on, dead time, overlap, pull-in and the turn-off
orders (R168 to R179, R193, R199, R231, R381). -/

namespace Sys2Proof.Machine

/-- The partner of channel `n` in its pair: channels 4p + 0 and 4p + 2, and channels 4p + 1 and 4p + 3. -/
def partner (n : Nat) : Nat := if n % 4 < 2 then n + 2 else n - 2

/-- The pair of a channel: q = 6·s + 2·p + i. -/
def pairOf (n : Nat) : Nat := 6 * (n / 12) + 2 * (n % 12 / 4) + n % 2

/-- Is the channel the lower-numbered one of its pair? -/
def isPrimary (n : Nat) : Bool := n % 4 < 2

/-- The outer channels of a phase are 4p + 0 and 4p + 3. -/
def isOuter (n : Nat) : Bool := n % 4 = 0 || n % 4 = 3

/-- The channels of a stack. -/
def stackChans (k : Nat) : List Nat := (List.range 12).map (12 * k + ·)

/-- The dead time before the rising edges of a channel, in units of 31.25 ps (R170). -/
def State.deadTime (s : State) (n : Nat) : Nat :=
  32 * (if isPrimary n then s.lv .pwmDt (pairOf n) 0 13 0 else s.lv .pwmDt (pairOf n) 0 29 16)

/-- The minimum pulse of a channel's stack, in units of 31.25 ps. -/
def State.minPulse (s : State) (n : Nat) : Nat := 32 * s.lv .pwmMinp (n / 12) 0 13 0

/-- ACK_TO in units of 31.25 ps (R200). -/
def State.ackTo (s : State) : Nat := 3200 * s.lv .gdlCtrl 0 0 15 8

/-- T_IO of a stack in units of 31.25 ps (R231). -/
def State.tio (s : State) (k : Nat) : Nat := 32 * s.lv .trpStkCfg k 0 15 0

/-- Does a compare name an edge in a period of `p` ns (R163)? -/
def namesEdge (p : Nat) (u : BitVec 29) : Bool := u.toNat < 32 * p

/-- Stage 6 of Table PWM-2: a tripped zone, one that is cleared and has not resumed, or the hold of R249 keeps the stack's
channels off (R233, R239). -/
def State.stage6Off (s : State) (k : Nat) : Bool :=
  (s.zone k).causes != 0 || (s.zone k).resumeB || (s.zone k).resumeZ.isSome || s.saf.hold

/-- Stages 6 and 7 take a channel's output away at an instant: its GC falls, and GA must confirm that (R200). -/
def State.gcFall (s : State) (n at_ : Nat) : State :=
  if (s.chan n).gc then
    s.modChan n fun c => { c with
      gc := false, gcAt := at_, offAt := at_, gaOff := false, diffAt := none
      ackDue := if s.linkMode then c.ackDue else some (at_ + s.ackTo) }
  else s

/-- The channel's output turns off: a waiting rise is cancelled (R171) and GC falls. -/
def State.chanOff (s : State) (n at_ : Nat) : State :=
  (s.modChan n fun c => { c with out := false, wait := none, offAt := if c.out then at_ else c.offAt }).gcFall n at_

/-- May the GC of a channel rise: stage 6 lets it, and in direct mode the partner's GC is low and its GA has confirmed off
(R199)? -/
def State.mayRise (s : State) (n : Nat) : Bool :=
  !s.stage6Off (n / 12) && !(s.chan (partner n)).gc && (s.linkMode || (s.chan (partner n)).gaOff)
    && (s.chan n).offSeq.isNone

/-- Let the GC of a channel rise where it waits and may. -/
def State.tryRise (s : State) (n at_ : Nat) : State :=
  if (s.chan n).out && !(s.chan n).gc && s.mayRise n then
    (s.modChan n fun c => { c with
      gc := true, gcAt := at_, diffAt := none, ackDue := if s.linkMode then none else some (at_ + s.ackTo) }).modGs (n / 12) fun g =>
        { g with ackLost := false }
  else s

/-! ### Comparators that ask for a pull-in (R228, R229) -/

def State.srcKind (s : State) (c : Nat) : Nat := s.lv .decSrc c 0 9 8
def State.srcIndex (s : State) (c : Nat) : Nat := s.lv .decSrc c 0 6 0

/-- Is a group of channels active? -/
def State.groupOn (s : State) (g : Nat) : Bool := s.lvb .decGrpEn 0 0 g

/-- Is a channel in an active group, with a source? -/
def State.chanActive (s : State) (c : Nat) : Bool := s.groupOn (c / 8) && s.srcKind c != 0

/-- The stack of a channel's comparator: the link stack of a link source, the STACK field for a direct land (R228). -/
def State.cmpStack (s : State) (c : Nat) : Nat :=
  if s.srcKind c = 2 then s.srcIndex c / 8 else s.lv .trpCmpCfg c 0 19 16

/-- The phases of a stack for which an active comparator requests a pull-in (R229). -/
def State.pullAsked (s : State) (k : Nat) : Nat :=
  (List.range 160).foldl (fun m c =>
    if (s.dec c).cmpActive && s.chanActive c && s.lv .trpCmpCfg c 0 1 0 = 2 && s.cmpStack c = k then m ||| s.lv .trpCmpCfg c 0 14 12
    else m) 0

/-- Does a pull-in request stand for a channel: an outer one, not forced on, in RUNNING, while a comparator of its phase is active
(R179, R229)? -/
def State.pullStands (s : State) (n : Nat) : Bool :=
  s.ops.st = .running && isOuter n && (s.chan n).force != some true && (s.pullAsked (n / 12)).testBit (n % 12 / 4)

/-! ### What a pull-in will act on (R34, R60, R217) -/

/-- How long before its scheduled edge a pull-in may still act: 200 ns in direct mode, 1 µs in link mode (R34). -/
def State.pullWindow (s : State) : Nat := if s.linkMode then 32000 else 6400

/-- The instant of a channel's falling edge that is still to come in the period: that of its compare, or the zero that ends a shortened
period before it (R191). -/
def State.fallDue (s : State) (n : Nat) : Option Nat :=
  let c := s.chan n
  let t := s.tb (n / 12)
  if c.dueB && namesEdge t.prd c.cmpB then some (t.zeroAt + min c.cmpB.toNat t.len) else none

/-- The instant of a channel's rising edge that is still to come in the period; one in a removed tail does not execute (R191). -/
def State.riseDue (s : State) (n : Nat) : Option Nat :=
  let c := s.chan n
  let t := s.tb (n / 12)
  if c.dueA && namesEdge t.prd c.cmpA && decide (c.cmpA.toNat < t.len) then some (t.zeroAt + c.cmpA.toNat) else none

/-- The instant at which a pull-in frame asked for now departs: at once, or 350 ns after the one before it (R217). -/
def State.pullDeparts (s : State) (k : Nat) : Nat :=
  match (s.gs k).pullLast with | some t => max s.now (t + 11200) | none => s.now

/-- Will a pull-in whose frame departs at an instant act on a channel: one that is off then, with a pulse still to open or a rise that
waits, or one that is on then, its falling edge far enough away (Table PWM-5)? -/
def State.pullWould (s : State) (n at_ : Nat) : Bool :=
  let c := s.chan n
  let far := (s.fallDue n).any fun f => decide (at_ + s.pullWindow ≤ f)
  let late := fun (w : Nat) => decide (at_ < w)
  isOuter n && c.force != some true
    && ((c.out && (!c.gc || far)) || (c.wait.any fun w => late w || far)
      || (s.riseDue n).any fun r => decide (s.now ≤ r) && (decide (at_ ≤ r) || late (r + s.deadTime n) || far))

/-- Will a pull-in frame that departs at an instant act on an edge of the named phases? -/
def State.pullFrameActs (s : State) (k mask at_ : Nat) : Bool :=
  s.ops.st = .running && (bitsIn 3 mask).any fun p => s.pullWould (12 * k + 4 * p) at_ || s.pullWould (12 * k + 4 * p + 3) at_

/-- A rising edge requested at an instant waits until the later of that instant and the partner's turn-off, plus dead time
(R170). While a pull-in acts, the channel stays off (R179): one whose request stands takes the rise away, in link mode when its frame
leaves, and the serving engine's flag tells of it (R60). -/
def State.askRise (s : State) (n at_ : Nat) : State :=
  if (s.chan n).out then s
  else if (s.chan n).pulled then s.modChan n fun c => { c with cut := true }
  else
    let stands := s.pullStands n
    if stands && !s.linkMode then
      (s.modChan n fun c => { c with pulled := true, cut := true }).modZone (n / 12) fun z => { z with pullSeen := true }
    else
      let dt := s.deadTime n
      let k := n / 12
      let p := n % 12 / 4
      let s := s.modChan n fun c => { c with cut := false, wait := some (max (at_ + dt) ((s.chan (partner n)).offAt + dt)) }
      if stands && !(s.gs k).pullMask.testBit p then
        let s := s.modGs k fun g => { g with pullMask := g.pullMask ||| 2 ^ p }
        if s.pullWould n (s.pullDeparts k) then s.modZone k fun z => { z with pullSeen := true } else s
      else s

/-- A channel whose request stands, though its output has been taken away, turns on again (R179, R239). -/
def State.riseAgain (s : State) (n at_ : Nat) : State :=
  let c := s.chan n
  if c.cut && c.lvl && !(vget s.pwm.overlap (pairOf n) false) then s.askRise n at_ else s

/-- The waiting rise of a channel executes once its instant has been reached (R170, R199). -/
def State.expireWait (s : State) (n : Nat) : State :=
  match (s.chan n).wait with
  | some w =>
    if w ≤ s.now then (s.modChan n fun c => { c with out := true, wait := none }).tryRise n s.now else s
  | none => s

/-- Begin an overlap of a channel's pair: both outputs go off, the flag is set and the event counts (R176). -/
def State.beginOverlap (s : State) (n at_ : Nat) : State :=
  let q := pairOf n
  let s := { s with pwm := { s.pwm with overlap := vset s.pwm.overlap q true } }
  let s := (s.chanOff n at_).chanOff (partner n) at_
  (s.setFlag .pwmOvl (n / 12) (q % 6)).count .pwmOvlCnt (n / 12)

/-- Requested on-time of a channel that remains after an instant, if its closing edge is still to come in the period. -/
def State.remaining (s : State) (n at_ : Nat) : Option Int :=
  (s.fallDue n).map fun f => (f : Int) - at_

/-- End an overlap at an instant: the channel that still requests on turns on after dead time, if enough of its request
remains; otherwise it stays off until its request ends, and that drop counts. One whose request ends at the same instant stays off
(R177), and so does one in an off sequence of stage 1, whose rises are abandoned (R169). -/
def State.endOverlap (s : State) (n at_ : Nat) : State :=
  let s := { s with pwm := { s.pwm with overlap := vset s.pwm.overlap (pairOf n) false } }
  let keep := fun m =>
    match s.remaining m (at_ + s.deadTime m) with
    | some r => decide (s.minPulse m ≤ r)
    | none => true
  let one := fun (m : Nat) (s : State) =>
    if (s.chan m).lvl && s.remaining m at_ != some 0 && !((s.chan m).offSeq.isSome && (s.chan m).offOne) then
      if keep m then s.askRise m at_
      else (s.modChan m fun c => { c with lvl := false, dropped := true }).count .pwmDropCnt (m / 12)
    else s
  one (partner n) (one n s)

/-- The level after stage 2 becomes on: an overlap with the partner begins, or the rise waits for its dead time. -/
def State.lvlOn (s : State) (n at_ : Nat) : State :=
  let s := s.modChan n fun c => { c with lvl := true }
  if (s.chan (partner n)).lvl then s.beginOverlap n at_ else s.askRise n at_

/-- The level after stage 2 becomes off: an overlap ends, and the output turns off. -/
def State.lvlOff (s : State) (n at_ : Nat) : State :=
  let s := (s.modChan n fun c => { c with lvl := false, cut := false }).chanOff n at_
  if vget s.pwm.overlap (pairOf n) false then s.endOverlap n at_ else s

/-- Stage 1 delivers whole-period off on a channel (R169). -/
def State.forceLow (s : State) (n at_ : Nat) : State :=
  (s.modChan n fun c => { c with
    req := false, dueA := false, dueB := false, openAt := none, dropped := false, hold := true, force := none }).lvlOff n at_

/-- Overlaps both of whose requests go off at one instant end without a turn-on and without a drop (R177): those of pairs with both
channels in a list and to be taken off. -/
def State.overlapsGone (s : State) (off : Nat → Bool) (l : List Nat) : State :=
  forNums (l.filter fun n => isPrimary n && off n && off (partner n)) (fun n s =>
    { s with pwm := { s.pwm with overlap := vset s.pwm.overlap (pairOf n) false } }) s

/-- Stage 1 delivers whole-period off on the channels of a list from one instant on. -/
def State.forceLows (s : State) (l : List Nat) (at_ : Nat) : State :=
  forNums l (fun n s => s.forceLow n at_) (s.overlapsGone l.contains l)

/-- A channel's rising edge falls due (R164, R173 to R175). -/
def State.risingEdge (s : State) (n : Nat) : State :=
  let c := s.chan n
  let t := s.tb (n / 12)
  let at_ := t.zeroAt + c.cmpA.toNat
  let s := s.modChan n fun c => { c with dueA := false }
  if c.req then s.riseAgain n at_
  else
    let s := s.modChan n fun c => { c with req := true }
    if c.dropped then s.modChan n fun c => { c with dropped := false, lvl := true }
    else
      let s := match c.openAt with
        | some (o, need) =>
          let s := s.modChan n fun c => { c with openAt := none }
          if at_ - o < need then s.count .pwmShortCnt (n / 12) else s
        | none => s
      if c.dueB && namesEdge t.prd c.cmpB && decide (c.cmpA.toNat < c.cmpB.toNat) then
        let w := c.cmpB.toNat - c.cmpA.toNat
        let dt := s.deadTime n
        if dt < w ∧ s.minPulse n ≤ w - dt then
          (s.modChan n fun c => { c with openAt := some (at_, max 1 (s.minPulse n) + dt) }).lvlOn n at_
        else (s.modChan n fun c => { c with dropped := true }).count .pwmDropCnt (n / 12)
      else s.lvlOn n at_

/-- A channel's falling edge falls due (R164, R171, R173 to R175). -/
def State.fallingEdge (s : State) (n : Nat) : State :=
  let c := s.chan n
  let t := s.tb (n / 12)
  let at_ := t.zeroAt + c.cmpB.toNat
  let s := s.modChan n fun c => { c with dueB := false }
  if !c.req then s
  else
    let s := s.modChan n fun c => { c with req := false }
    if c.dropped then (s.modChan n fun c => { c with dropped := false, lvl := false })
    else
      let s := match c.openAt with
        | some (o, need) =>
          let s := s.modChan n fun c => { c with openAt := none }
          if at_ - o < need then s.count .pwmShortCnt (n / 12) else s
        | none => s
      if c.dueA && namesEdge t.prd c.cmpA && decide (c.cmpB.toNat < c.cmpA.toNat) then
        let w := c.cmpA.toNat - c.cmpB.toNat
        if 0 < w ∧ s.minPulse n ≤ w then
          (s.modChan n fun c => { c with openAt := some (at_, max 1 (s.minPulse n)) }).lvlOff n at_
        else (s.modChan n fun c => { c with dropped := true }).count .pwmDropCnt (n / 12)
      else s.lvlOff n at_

/-! ### Turn-off orders -/

/-- An inner channel's turn-off follows T_IO after an instant; a sequence already begun is not restarted. -/
def State.innerLater (s : State) (n at_ : Nat) (one : Bool) : State :=
  s.modChan n fun c => { c with offSeq := c.offSeq.or (some (at_ + s.tio (n / 12))), offOne := c.offOne || one }

/-- One channel in a turn-off order that begins at an instant. In stage 6 (R231) a rise that waits is abandoned, and an outer channel's
GC falls; what the earlier stages deliver stands (R168). In stage 1 (`one`: R211, R381) pending rising edges are abandoned, and an outer
channel delivers whole-period off from then on. -/
def State.turnOffChan (s : State) (n at_ : Nat) (one : Bool) : State :=
  let s := s.modChan n fun c => { c with
    wait := none, cut := c.cut || c.wait.isSome, dueA := c.dueA && !one, out := c.out && (c.gc || !one) }
  if isOuter n then (if one then s.forceLow n at_ else s.gcFall n at_) else s.innerLater n at_ one

/-- The channels of a stack, inner ones first: what holds an inner channel at its level stands before the outer ones turn off (R169). -/
def turnOffOrder (k : Nat) : List Nat := (stackChans k).filter (!isOuter ·) ++ (stackChans k).filter (isOuter ·)

/-- Begin the turn-off order of a stack at an instant: outer channels turn off, inner channels follow after T_IO (R231, R381). -/
def State.beginTurnOff (s : State) (k at_ : Nat) (one : Bool) : State :=
  forNums (turnOffOrder k) (fun n s => s.turnOffChan n at_ one) s

/-- Begin the turn-off order on every configured stack, at the next CTL tick (R381, R249, R385, R486). -/
def State.beginTurnOffAll (s : State) (one : Bool) : State :=
  forNums ((List.range 16).filter s.configured) (fun k s => s.beginTurnOff k (ctlTick s.now) one) s

/-- Begin the off sequence of single channels of a stack, named by a mask, at a commit's boundary (R193). -/
def State.beginChanOff (s : State) (k mask at_ : Nat) : State :=
  forNums ((turnOffOrder k).filter fun n => mask.testBit (n % 12)) (fun n s => s.turnOffChan n at_ true) s

/-- Is an off sequence of a stack still running? -/
def State.offRunning (s : State) (k : Nat) : Bool := (stackChans k).any fun n => (s.chan n).offSeq.isSome

/-- Inner channels whose turn-off instant has been reached turn off; in a sequence of stage 1 they deliver whole-period off from then
on. -/
def State.innerOff (s : State) (k : Nat) : State :=
  let s := forNums (stackChans k) (fun n s =>
    match (s.chan n).offSeq with
    | some t =>
      if t ≤ s.now then
        (if (s.chan n).offOne then s.forceLow n t else s.gcFall n t).modChan n fun c => { c with offSeq := none, offOne := false }
      else s
    | none => s) s
  if s.offRunning k then s else s.modZone k fun z => { z with offDone := decide (z.causes ≠ 0 ∨ z.tripAt ≠ 0) }

/-! ### Pull-in (R34, R179) -/

/-- Pull in one outer channel as Table PWM-5 states, at the next CTL tick (R486); a rise that waits for the acknowledgement of R199 is
cancelled too (Table GDL-1). -/
def State.pullChan (s : State) (n : Nat) : State :=
  let c := s.chan n
  let at_ := ctlTick s.now
  if c.force = some true then s
  else if c.out && c.gc then
    if (s.fallDue n).any fun f => decide (at_ + s.pullWindow ≤ f) then
      (s.chanOff n at_).modChan n fun c => { c with pulled := true, cut := true }
    else s
  else if c.out then (s.chanOff n at_).modChan n fun c => { c with pulled := true, cut := true }
  else if c.wait.isSome || (s.riseDue n).any fun r => decide (s.now ≤ r) then
    s.modChan n fun c => { c with wait := none, pulled := true, cut := c.cut || c.wait.isSome }
  else s

/-- The phases of a stack of which a pull-in acts on an outer channel. -/
def State.pulledPhases (s : State) (k : Nat) : Nat :=
  maskOf 3 fun p => (s.chan (12 * k + 4 * p)).pulled || (s.chan (12 * k + 4 * p + 3)).pulled

/-- Pull in the outer channels of the named phases of a stack; only in RUNNING (R229). -/
def State.pullEdges (s : State) (k mask : Nat) : State :=
  if s.ops.st = .running then
    forNums (bitsIn 3 mask) (fun p s => (s.pullChan (12 * k + 4 * p)).pullChan (12 * k + 4 * p + 3)) s
  else s

/-- The engine's next flag tells of a request that acts on an edge (R60, Table GFM-6). -/
def State.pullFlag (s : State) (k : Nat) (acts : Bool) : State :=
  if acts then s.modZone k fun z => { z with pullSeen := true } else s

/-- A pull-in request in direct mode acts at once. -/
def State.pullPhases (s : State) (k mask : Nat) : State :=
  (s.pullFlag k (s.ops.st = .running && (s.pullEdges k mask).pulledPhases k &&& mask != 0)).pullEdges k mask

end Sys2Proof.Machine
end

