-- ==== Sys2Proof/Machine/Triggers.lean ====
section
/-! DEFINITION. What an event of one block starts in others: plant trigger messages that become due (R303), triggers of
acquisition units (R401, R402), trip frames on the gate links (R217, R232), and the latching of trip causes with their records
and their propagation (R224 to R243). -/

namespace Sys2Proof.Machine

/-! ### Plant trigger messages (R303) -/

/-- An event that TX_SRC may name, or a spore or command that asks for one, wants a message: it waits to be published, or it is
suppressed during the hold-off and counted. -/
def State.ptmAsk (s : State) (cause : Nat) (trigNt : DWord) (detail : Nat) (asked : Bool := false) : State :=
  if s.lvb .ntPtmCtrl 0 0 0 && (asked || s.lvb .ntPtmCtrl 0 0 (8 + cause)) then
    if s.nt.holdoff.isSome || s.nt.events ≠ [] then s.count .ntPtmSupprCnt
    else s.modNt fun n => { n with events := n.events ++ [{ cause := cause, trigNt := trigNt, detail := BitVec.ofNat 32 detail }] }
  else s

/-! ### Acquisition triggers -/

/-- SEG_SAMPLES of a unit. -/
def State.segSamples (s : State) (u : Nat) : Nat := (regGet s.live .acqSeglen u 0).toNat

/-- POST of a unit. -/
def State.postSets (s : State) (u : Nat) : Nat := (regGet s.live .acqPost u 0).toNat

/-- Of the captured sets, newest first, the oldest whose instant is at or after the trigger instant (R402). -/
def oldestFrom (nt : DWord) : List (Nat × DWord) → Option Nat
  | [] => none
  | (n, i) :: rest => if i < nt then none else some ((oldestFrom nt rest).getD n)

/-- The trigger set of an instant, and whether it was clipped to the oldest held set (R402). -/
def State.trigSetOf (s : State) (u : Nat) (nt : DWord) : Option Nat × Bool :=
  let a := s.acqN u
  match oldestFrom nt a.insts with
  | none => (none, false)
  | some n =>
    let oldest := a.count - s.segSamples u
    if n < oldest then (some oldest, true) else (some n, false)

/-- Is TRIG_DETAIL of a source a mask of stacks or lands (Table ACQ-4): TRIP, COMPARATOR or TRIP_IN? -/
def maskSource (bit : Nat) : Bool := bit = 2 || bit = 3 || bit = 5

/-- A source joins the trigger of a unit (R401). The earliest one gives TRIG_NT and TRIG_DETAIL, and where that is a mask, stacks and lands
of the same source join it (Table ACQ-4). -/
def AcqUnit.join (a : AcqUnit) (m : Nat × DWord × Nat) : AcqUnit :=
  let first := decide (m.2.1 < a.trigNt)
  let same := maskSource m.1 && m.1 == a.trigBit
  { a with
    trigSrc := a.trigSrc ||| BitVec.ofNat 11 (2 ^ m.1)
    trigBit := if first then m.1 else a.trigBit
    trigDet := if same then a.trigDet ||| BitVec.ofNat 32 m.2.2 else if first then BitVec.ofNat 32 m.2.2 else a.trigDet
    trigNt := if first then m.2.1 else a.trigNt }

/-- A trigger reaches a unit: TRIG_SRC bit, instant and detail. An ARMED unit accepts it, and its record is complete at once where
the POST sets from the trigger set on are captured already. A later source with the same trigger set joins it, and any other one
is ignored and counted; while neither set is captured this waits for the capture (R401, Table ACQ-6). A received plant trigger message is not published again (R303). -/
def State.acqTrig (s : State) (u bit : Nat) (nt : DWord) (detail : Nat) : State :=
  let a := s.acqN u
  let (set_, clip) := s.trigSetOf u nt
  if a.st = .armed then
    let s := s.modAcq u fun a => { a with
      st := .triggered, trigSet := set_, trigSrc := BitVec.ofNat 11 (2 ^ bit), trigBit := bit, trigDet := BitVec.ofNat 32 detail, trigNt := nt
      trigMore := [], flags := if clip then a.flags ||| 2 else a.flags, meas := List.replicate 32 {}, stopping := false
      complete := match set_ with | some t => decide (s.postSets u ≤ a.count - t) | none => false, postN := s.postSets u }
    if bit = 10 then s else s.ptmAsk 4 nt 0
  else if a.st = .triggered ∧ a.trigSet = set_ ∧ ¬ a.complete then
    s.modAcq u fun a =>
      if set_ = none then { a with trigMore := a.trigMore ++ [(bit, nt, detail)] } else a.join (bit, nt, detail)
  else s.count .acqTrigIgn u

/-- Set `n`, of instant `nt`, is captured. Where it is the trigger set, the waiting sources that it is the trigger set of join, and
the others are ignored and counted; so is a waiting source whose own trigger set comes before the unit's (R401, R402). -/
def State.acqResolve (s : State) (u n : Nat) (nt : DWord) : State :=
  let a := s.acqN u
  if a.st ≠ .triggered ∨ a.trigSet ≠ none then s
  else
    let due := a.trigMore.filter fun m => !decide (nt < m.2.1)
    let later := a.trigMore.filter fun m => decide (nt < m.2.1)
    if nt < a.trigNt then (s.modAcq u fun a => { a with trigMore := later }).count .acqTrigIgn u due.length
    else
      (s.modAcq u fun a => due.foldl AcqUnit.join { a with trigSet := some n, trigMore := [] }).count .acqTrigIgn u later.length

/-- A trigger for every unit named in a mask. -/
def State.acqTrigMask (s : State) (mask bit : Nat) (nt : DWord) (detail : Nat) : State :=
  forNums (bitsIn 8 mask) (fun u s => s.acqTrig u bit nt detail) s

/-- A source of ACQ_TRIG_u offers itself to every unit that enables it and satisfies `p`. -/
def State.acqOffer (s : State) (bit : Nat) (nt : DWord) (detail : Nat) (p : Nat → Bool) : State :=
  forNums ((List.range 8).filter fun u => s.lvb .acqTrig u 0 bit && p u) (fun u s => s.acqTrig u bit nt detail) s

/-- Is a stack in STK, or a land in LANDS, of a unit? -/
def State.acqSel (s : State) (u n : Nat) : Bool := s.lvb .acqTrigSel u 0 n

/-! ### Frames on the gate links -/

/-- Characters are inserted into a transmission at its character boundary `m`, one level deep: not into an inserted frame, whose K29.7
comes first, and not into a LOAD (R210, R217). `d` counts the frames that are open. -/
def insertChars (new : List LinkChar) : Nat → Nat → List LinkChar → List LinkChar
  | _, _, [] => new
  | d, m, c :: rest =>
    if m = 0 ∧ d ≤ 1 then new ++ c :: rest
    else if c = .k 0x3C then
      match rest with
      | x :: rest => c :: x :: insertChars new d (m - 2) rest
      | [] => c :: new
    else c :: insertChars new (if c = .k 0xFB then d + 1 else if c = .k 0xFD then d - 1 else d) (m - 1) rest

/-- Characters leave on the link of a stack, one every 8 ns: at the next character boundary, inserted into what is being sent or after
it (R210). -/
def State.transmit (s : State) (k : Nat) (new : List LinkChar) (insert : Bool) : State :=
  s.modGs k fun g => { g with line :=
    match g.line with
    | [] => [(s.now, new)]
    | (t, cs) :: rest =>
      let m := (s.now - t + 255) / 256
      if cs.length ≤ m then (t + 256 * m, new) :: g.line
      else (t, if insert then insertChars new 0 m cs else cs ++ new) :: rest }

/-- A frame leaves on the link of a stack, between K27.7 and K29.7. -/
def State.sendLink (s : State) (k : Nat) (frame : Bytes) (insert : Bool) : State :=
  (s.modGs k fun g => { g with sent := frame :: g.sent }).transmit k (.k 0xFB :: frame.map .d ++ [.k 0xFD]) insert

/-- A pull-in frame (type 0x02) or trip frame (type 0x03) with its CRC-16 (Table GDL-9). -/
def shortFrame (type k phases when_ : Nat) : Bytes :=
  let body : Bytes := [BitVec.ofNat 8 type, BitVec.ofNat 8 (k % 16 + 16 * (phases % 8))] ++ leBytes 4 when_
  body ++ leBytes 2 (crc16 body)

/-- In link mode a trip frame is inserted on the link of a stack (R217, R232); in direct mode there is none, and none on a link that carries
idle characters for good (R441). -/
def State.sendTrip (s : State) (k : Nat) : State :=
  if s.linkMode && !s.twn.silent then s.sendLink k (shortFrame 3 k 7 (s.lv .trpStkCfg k 0 15 0)) true else s

/-- In link mode a pull-in request waits for the next pull-in frame, merged by OR of the phase masks (R217). -/
def State.askPullFrame (s : State) (k phases : Nat) : State :=
  if s.linkMode then s.modGs k fun g => { g with pullMask := g.pullMask ||| phases } else s

/-- The turn-off order of every configured stack, carried by trip frames in link mode (R249, R381, R385). -/
def State.turnOffAll (s : State) (one : Bool) : State :=
  forNums ((List.range 16).filter s.configured) (fun k s => s.sendTrip k) (s.beginTurnOffAll one)

/-! ### Trip records -/

/-- The bytes of a trip record (Table TRP-3). -/
def TripRec.bytes (r : TripRec) : Bytes :=
  leBytes 8 r.nt.toNat ++ [BitVec.ofNat 8 r.stack, BitVec.ofNat 8 r.leg, BitVec.ofNat 8 r.cause,
    BitVec.ofNat 8 ((if r.simul then 1 else 0) + if r.first then 2 else 0)] ++ leBytes 2 r.source ++ leBytes 2 r.recno.toNat

/-- Records enter the queue in order of timestamp, then LEG, then CAUSE (R242). -/
def TripRec.before (a b : TripRec) : Bool :=
  a.nt < b.nt || (a.nt == b.nt && (a.leg < b.leg || (a.leg == b.leg && a.cause ≤ b.cause)))

/-- Put a record into its place. -/
def insertRec (r : TripRec) : List TripRec → List TripRec
  | [] => [r]
  | x :: rest => if x.before r then x :: insertRec r rest else r :: x :: rest

/-- Mark the event-log copies of trip records with a timestamp as SIMULTANEOUS. -/
def markCopies (nt : DWord) (l : List LogRec) : List LogRec :=
  l.map fun r =>
    if r.source = 12 ∧ r.type = 1 ∧ leNat (r.body.take 8) = nt.toNat then
      { r with body := patch r.body 11 [(lget r.body 11 0) ||| 1] } else r

/-- One trip record, into the queue and into the event log (R241, R242). -/
def State.tripRecord (s : State) (nt : DWord) (k leg cause source : Nat) (first : Bool) : State :=
  let simul := s.trp.stamps.contains nt
  let r : TripRec := { nt := nt, stack := k, leg := leg, cause := cause, simul := simul, first := first, source := source
                       recno := s.trp.recno }
  let s := if simul then
      { s with
        trp := { s.trp with recs := s.trp.recs.map fun x => if x.nt = nt then { x with simul := true } else x }
        log := { s.log with buffer := markCopies nt s.log.buffer } }
    else s
  let s := { s with trp := { s.trp with recno := s.trp.recno + 1, stamps := if simul then s.trp.stamps else nt :: s.trp.stamps } }
  let s := if s.trp.recs.length < 64 then { s with trp := { s.trp with recs := insertRec r s.trp.recs } }
           else s.count .trpRecLost
  s.note 12 1 0 r.bytes

/-! ### Latching -/

/-- Does the trip unit evaluate its sources in this state (R224)? -/
def State.tripsWatched (s : State) : Bool :=
  s.ops.st = .idle || s.ops.st = .armed || s.ops.st = .running || s.ops.st = .stopping

/-- Is a cause of a stack masked while its off-state test runs (R226)? -/
def State.maskedByOst (s : State) (k cause : Nat) : Bool :=
  (s.gs k).ost = .running && (cause = 3 || cause = 4 || cause = 5 || cause = 6)

/-- Latch a cause in a stack's zone, `delay` ns from the CTL tick now (R486), with its record; the first cause of an untripped zone begins
the turn-off order, and ends the result of an off-state test (R209, R231, R232, R241). -/
def State.latchOne (s : State) (k cause source phase delay : Nat) : State :=
  let z := s.zone k
  let s := if cause = 14 then s.modZone k fun z => { z with props := z.props ||| BitVec.ofNat 16 (2 ^ source) }
    else if (cause = 0 ∨ cause = 2 ∨ cause = 11) ∧ (cause, source) ∉ z.sources then
      s.modZone k fun z => { z with sources := (cause, source) :: z.sources }
    else s
  if z.causes.getLsbD cause then s
  else
    let first := z.causes = 0
    let tick := ctlTick s.now
    let nt := s.tripClockAt tick + BitVec.ofNat 64 delay
    let s := s.modZone k fun z => { z with causes := z.causes ||| BitVec.ofNat 16 (2 ^ cause), latchAt := some tick }
    let s := s.tripRecord nt k (3 * k + phase) cause source first
    if first then
      let at_ := tick + 32 * delay
      let s := s.modZone k fun z => { z with tripAt := at_, offDone := false, resumeB := false, resumeZ := none }
      let s := (s.beginTurnOff k at_ false).sendTrip k
      let s := if (s.gs k).ost = .running then s else (s.modGs k fun g => { g with ost := .none }).setRegN .gdlOstRes k 0 0
      let s := s.setReg .trpFirstNt k 0 nt
      let s := s.acqOffer 2 nt (2 ^ k) fun u => s.acqSel u k
      s.ptmAsk 0 nt (2 ^ k)
    else s

/-- In a module whose twin is READY, LINK_FAULT and GC_FAULT latch no zone: PATH_FAULT is set, and an ACTIVE module asks for an
exchange (R437). -/
def State.ownPath (s : State) (cause : Nat) : Bool :=
  s.pair && (cause = 7 || cause = 9) && !s.lone && s.twn.twin.flags.testBit 1

/-- A trip source is recognised for a stack (R224 to R234): cause code, SOURCE of the record and phase. A cause other than
PROPAGATED propagates to the stacks of TRP_PROP_s within 5 ns; the delay inside that bound is a free value. -/
def State.latch (s : State) (k cause source phase : Nat) : State :=
  if !s.tripsWatched || s.maskedByOst k cause then s
  else if s.ownPath cause then
    s.modTwn fun t => { t with pathFault := true, ready := t.role && t.ready }
  else
    let fresh := !(s.zone k).causes.getLsbD cause
    let s := s.latchOne k cause source phase 0
    if fresh && cause ≠ 14 then
      forNums (bitsIn 16 (s.lv .trpProp k 0 15 0)) (fun t s =>
        let (i, s) := s.draw
        s.latchOne t 14 k 0 (Config.freeNat i % 6)) s
    else s

end Sys2Proof.Machine
end

