-- ==== Sys2Proof/Machine/Acq.lean ====
section
/-! DEFINITION. Acquisition units: capturing sets, averaging, triggers on values, measurements, records, segments and their
commands (R395 to R408). -/

namespace Sys2Proof.Machine

/-! ### Set-up of a unit -/

def State.acqMode (s : State) (u : Nat) : Nat := s.lv .acqCfg u 0 1 0
def State.acqNch (s : State) (u : Nat) : Nat := s.lv .acqCfg u 0 20 16 + 1
def State.acqAvg (s : State) (u : Nat) : Nat := s.lv .acqCfg u 0 11 8
def State.acqXres (s : State) (u : Nat) : Nat := s.lv .acqCfg u 0 14 12
def State.acqCh (s : State) (u i : Nat) : Nat := s.lv .acqCh u i 10 0

/-- Bytes per set (Table ACQ-1). -/
def State.setBytes (s : State) (u : Nat) : Nat :=
  match s.acqMode u with
  | 0 => 4 * (s.acqNch u + 1)
  | 1 => 4 * s.acqNch u
  | _ => 4

/-- Bytes per segment: header and sets, rounded up to whole 4 KiB pages (R397). -/
def State.segBytes (s : State) (u : Nat) : Nat := (4096 + s.segSamples u * s.setBytes u + 4095) / 4096 * 4096

/-- SEGS of a unit. -/
def State.segCount (s : State) (u : Nat) : Nat := s.lv .acqSegs u 0 7 0 + 1

/-- The DRAM address of a unit's segment 0: the units' buffers lie back to back from the base of the record pool (R397). -/
def State.acqBase (s : State) (u : Nat) : Nat :=
  ((List.range 8).filter (· < u)).foldl (fun a v => a + s.segCount v * s.segBytes v) 0

/-- The control period of an engine in units of 31.25 ps: the carrier period, or half of it with DBL = 1. -/
def State.tc (s : State) (e : Nat) : Nat :=
  let t := s.leadTb e
  let p := 32 * s.lv .pwmPrd t 0 23 0
  if s.lvb .pwmTbCtrl t 0 1 then p / 2 else p

/-- The decimation factor D (R138), T_mod in units of 31.25 ps (R132), and the group count G. -/
def State.decD (s : State) : Nat := 2 ^ s.lv .decCtrl 0 0 3 0
def State.tmod (s : State) : Nat := 8 * s.lv .clkOut 2 0 10 0
def State.groupCount (s : State) : Nat := ((List.range 20).filter s.groupOn).length

/-- INTERVAL of a record, in units of 2^−16 ns (Table ACQ-4). -/
def State.acqInterval (s : State) (u : Nat) : Nat :=
  2 ^ s.acqAvg u *
  match s.acqMode u with
  | 0 => 2048 * s.decD * s.tmod
  | 1 => 2048 * s.tc (s.lv .acqCfg u 0 26 24)
  | _ => 2048 * s.tmod

/-! ### Measurements (R405) -/

/-- Take one stored value of a channel into its measurement: its number, hysteresis, value and whether it saturated. -/
def AcqMeas.take (m : AcqMeas) (hys : Int) (n : Nat) (v : Int) (sat : Bool) : AcqMeas :=
  let t : Int := match m.prevAt with
    | some (pv, pn) => (pn : Int) * 256 + (if v = pv then 0 else ((hys - pv) * 256 * ((n : Int) - pn)) / (v - pv))
    | none => (n : Int) * 256
  let up := m.below && decide (v ≥ hys)
  { n := m.n + 1
    least := if m.n = 0 then v else min m.least v
    most := if m.n = 0 then v else max m.most v
    sum := m.sum + v
    sumSq := m.sumSq + (v * v).toNat
    below := if v ≤ -hys then true else if up then false else m.below
    cross := if up then min (m.cross + 1) 65535 else m.cross
    tFirst := if up && m.cross = 0 then t else m.tFirst
    tLast := if up then t else m.tLast
    sat := m.sat || sat
    skipped := m.skipped
    prevAt := some (v, n) }

/-- The 40 bytes of a measurement (Table ACQ-5), for a set interval in 2^−16 ns. MIN, MAX, MEAN, RMS and PP of no sets are free
values, numbered from `free` on (log 55). -/
def AcqMeas.bytes (m : AcqMeas) (interval free : Nat) : Bytes :=
  let le4 := fun (v : Int) => leBytes 4 (unsignedOf 32 v)
  let (pp, ppSat) := sat32 (m.most - m.least)
  let period := if m.cross < 2 then 0 else (m.tLast - m.tFirst).toNat * interval / (256 * 65536 * (m.cross - 1))
  let freq := if period = 0 then 0 else 65536000000000 / period
  let values : Bytes :=
    if m.n = 0 then (List.range 5).flatMap fun i => leBytes 4 (Config.freeNat (free + i))
    else le4 m.least ++ le4 m.most ++ le4 (roundDiv m.sum m.n) ++ leBytes 4 (isqrt (m.sumSq / m.n)) ++ leBytes 4 pp.toNat
  values ++ leBytes 4 period ++ leBytes 4 freq ++ leBytes 4 m.n ++ leBytes 2 m.cross
    ++ [BitVec.ofNat 8 ((if m.cross < 2 then 1 else 0) + (if m.sat || ppSat.isSome then 2 else 0) + if m.skipped then 4 else 0)]
    ++ List.replicate 5 0

/-! ### Capture -/

/-- Queues drained in unit order by what DRAM takes of them together. -/
def drainQueues : Nat → List Nat → List Nat
  | _, [] => []
  | room, q :: qs => (q - room) :: drainQueues (room - q) qs

/-- The levels of the units' queues now, in fifths of a byte: DRAM takes 12.8 bytes per ns of all units together, which is two fifths
of a byte in 31.25 ps, and serves them in unit order (R417). -/
def State.acqLevels (s : State) : List Nat :=
  drainQueues (2 * (s.now - (s.acqN 0).qAt)) ((List.range 8).map fun u => (s.acqN u).qFill)

/-- The level of a unit's queue now, in fifths of a byte. -/
def State.acqFill (s : State) (u : Nat) : Nat := lget s.acqLevels u 0

/-- The instant at which a unit's queue will have drained, and with it those before it. -/
def State.acqDrained (s : State) (u : Nat) : Nat := s.now + (((List.range (u + 1)).map s.acqFill).sum + 1) / 2

/-- A unit's queue takes `n` bytes, and every queue stands at its level of now. -/
def State.acqPush (s : State) (u n : Nat) : State :=
  let levels := s.acqLevels
  forNums (List.range 8) (fun v s => s.modAcq v fun a => { a with
    qFill := lget levels v 0 + (if v = u then 5 * n else 0), qAt := s.now }) s

/-- A set is dropped at a full queue: its slot is skipped and a gap opens or grows (R406). Gaps that lie more than two segments back
are out of every record's reach. -/
def AcqUnit.gap (a : AcqUnit) (seg : Nat) : AcqUnit :=
  let n := a.count
  let grow : Bool := match a.gaps.getLast? with | some (g, k) => g + k = n | none => false
  let gaps := if grow then a.gaps.dropLast ++ (a.gaps.getLast?.map fun (g, k) => (g, k + 1)).toList else a.gaps ++ [(n, 1)]
  { a with gaps := gaps.filter fun (g, k) => decide (n < g + k + 2 * seg) }

/-- THRESHOLD and RATE on the latest stored value of the threshold channel (Table ACQ-3). -/
def State.acqValueTrig (s : State) (u : Nat) (nt : DWord) (v : Int) : State :=
  let a := s.acqN u
  let level := sw ((regGet s.live .acqThr u 0).setWidth 32)
  let hys := sw ((regGet s.live .acqThrHys u 0).setWidth 32)
  let dir := s.lv .acqThrCfg u 0 9 8
  let rise := a.thrArmLo && decide (v ≥ level) && (dir = 0 || dir = 2)
  let fall := a.thrArmHi && decide (v ≤ level) && (dir = 1 || dir = 2)
  let rl := s.lv .acqThrCfg u 0 31 24
  let roc := sw ((regGet s.live .acqRoc u 0).setWidth 32)
  let rate := match a.thr[rl]? with
    | some old => 0 < rl && decide ((v - old).natAbs > roc)
    | none => false
  let s := s.modAcq u fun a => { a with
    thrArmLo := decide (v ≤ level - hys) || (a.thrArmLo && !rise)
    thrArmHi := decide (v ≥ level + hys) || (a.thrArmHi && !fall) }
  let s := if s.lvb .acqTrig u 0 0 && (rise || fall) then s.acqTrig u 0 nt 0 else s
  if s.lvb .acqTrig u 0 1 && rate then s.acqTrig u 1 nt 0 else s

/-- Is a unit's queue too full for another set (R406)? -/
def State.acqFull (s : State) (u : Nat) : Bool := decide (5 * 65536 < s.acqFill u + 5 * s.setBytes u)

/-- A set enters the filling segment in its slot, through the queue, or leaves a gap there. -/
def State.acqWrite (s : State) (u : Nat) (full : Bool) (words : Bytes) : State :=
  let a := s.acqN u
  let addr := s.acqBase u + a.cur * s.segBytes u + 4096 + (a.count % s.segSamples u) * s.setBytes u
  if full then (s.modAcq u fun a => a.gap (s.segSamples u)).count .acqGapCnt u
  else ({ s with dram := memWrite s.dram addr words }).acqPush u (s.setBytes u)

/-- A set of a record goes into the measurements of its channels, invalid values left out (R405). -/
def State.acqMeasure (s : State) (u status : Nat) (vals : List (Int × Bool)) : State :=
  let hys := sw ((regGet s.live .acqMeasHys u 0).setWidth 32)
  s.modAcq u fun a =>
    if a.st = .triggered then
      { a with meas := (a.meas.zip (List.range 32)).map fun (m, i) =>
          match vals[i]? with
          | some (v, sat) => if status.testBit i then { m with skipped := true } else m.take hys (a.count - 1) v sat
          | none => m }
    else a

/-- One complete, averaged set is captured: status word of DUMP mode, values with their saturation. It is stored or dropped, becomes the
trigger set where that is due, offers itself as a trigger, which joins others of this very set, and is measured; POST sets from the trigger set on complete the record. -/
def State.acqStore (s : State) (u : Nat) (nt : DWord) (status : Nat) (vals : List (Int × Bool)) : State :=
  let n := (s.acqN u).count
  let full := s.acqFull u
  let skip := s.acqMode u = 2 ∨ full
  let words : Bytes := (if s.acqMode u = 0 then leBytes 4 status else [])
    ++ vals.flatMap fun v => leBytes 4 (unsignedOf 32 v.1)
  let thr := (lget vals (s.lv .acqThrCfg u 0 20 16) (0, false)).1
  let s := (s.acqWrite u full words).modAcq u fun a => { a with
    count := n + 1, insts := ((n, nt) :: a.insts).take (2 * s.segSamples u + 1), thr := (thr :: a.thr).take 256 }
  let s := s.acqResolve u n nt
  let s := if skip then s else s.acqValueTrig u nt thr
  let s := if skip then s else s.acqMeasure u status vals
  s.modAcq u fun a =>
    match a.trigSet with
    | some t => if a.st = .triggered ∧ s.postSets u ≤ n + 1 - t then { a with complete := true, postN := s.postSets u } else a
    | none => a

/-- Is a unit capturing? -/
def AcqUnit.capturing (a : AcqUnit) : Bool := (a.st = .armed || a.st = .triggered) && !a.complete

/-- One sample set reaches a unit: it is averaged (R396) and stored. -/
def State.acqSet (s : State) (u : Nat) (nt : DWord) (status : Nat) (words : List Word) : State :=
  if !(s.acqN u).capturing then s
  else if s.acqMode u = 2 ∨ s.acqAvg u = 0 then
    s.acqStore u nt status (words.map fun w => (if s.acqMode u = 2 then (w.toNat : Int) else sw w, false))
  else
    let a := s.acqN u
    let sums := if a.avgN = 0 then words.map sw else (a.avg.zip (words.map sw)).map fun (x, y) => x + y
    let bad := a.avgBad ||| status
    if a.avgN + 1 < 2 ^ s.acqAvg u then
      s.modAcq u fun a => { a with avgN := a.avgN + 1, avg := sums, avgBad := bad }
    else
      let outs := sums.map fun x => sat32 (roundShr x (s.acqAvg u - s.acqXres u))
      let s := s.modAcq u fun a => { a with avgN := 0, avg := [], avgBad := 0 }
      let s := s.count .acqSatCnt u (outs.filter fun o => o.2.isSome).length
      s.acqStore u nt bad (outs.map fun o => (sw o.1, o.2.isSome))

/-- The last group that a unit's channels use. -/
def State.acqLastGroup (s : State) (u : Nat) : Nat :=
  (List.range (s.acqNch u)).foldl (fun m i => max m (s.acqCh u i / 8)) 0

/-- A group dumps: every unit in DUMP mode opens, extends or completes its set. `word c` is the scaled word of channel `c` and
whether it is valid (Table ACQ-1). -/
def State.acqDump (s : State) (g : Nat) (word : Nat → Word × Bool) : State :=
  forNums ((List.range 8).filter fun u => s.acqMode u = 0 && (s.acqN u).capturing) (fun u s =>
    let s := if g = 0 then s.modAcq u fun a => { a with part := some (s.tripClock, 0, []) } else s
    match (s.acqN u).part with
    | none => s
    | some (nt, bad, got) =>
      let mine := (List.range (s.acqNch u)).filter fun i => s.acqCh u i / 8 = g
      let got := got ++ mine.map fun i => (i, (word (s.acqCh u i)).1)
      let bad := mine.foldl (fun b i => if (word (s.acqCh u i)).2 then b else b ||| 2 ^ i) bad
      if g = s.acqLastGroup u then
        let words := (List.range (s.acqNch u)).map fun i => ((got.find? fun x => x.1 = i).map (·.2)).getD 0
        (s.modAcq u fun a => { a with part := none }).acqSet u nt bad words
      else s.modAcq u fun a => { a with part := some (nt, bad, got) }) s

/-- A modulator tick: every unit in TICK mode captures one bit of each channel's source. -/
def State.acqTick (s : State) (bit : Nat → Bool) : State :=
  forNums ((List.range 8).filter fun u => s.acqMode u = 2) (fun u s =>
    let w := maskOf (s.acqNch u) fun i => bit (s.acqCh u i)
    s.acqSet u s.tripClock 0 [BitVec.ofNat 32 w]) s

/-- A period of an engine has ended: every unit in PERIOD mode of that engine that was armed by B_k captures its signals, with the NT of
B_k. -/
def State.acqPeriod (s : State) (e : Nat) (nt : DWord) (signal : Nat → Word) : State :=
  let mine := fun u => s.acqMode u = 1 && s.lv .acqCfg u 0 26 24 = e && decide ((s.acqN u).armAt ≤ (s.engN e).atB)
  forNums ((List.range 8).filter mine) (fun u s =>
    s.acqSet u nt 0 ((List.range (s.acqNch u)).map fun i => signal (s.acqCh u i))) s

/-! ### Segments and states -/

/-- The next EMPTY segment in ascending order from the one last filled, wrapping (R398); at first from segment 0. -/
def State.nextEmpty (s : State) (u : Nat) : Option Nat :=
  let n := s.segCount u
  let start := match (s.acqN u).last with | some i => i + 1 | none => 0
  ((List.range n).map fun i => (start + i) % n).find? fun i => vget (s.acqN u).segs i .empty = .empty

/-- Start filling a segment: the capture count restarts at 0 (Table ACQ-2). -/
def AcqUnit.fill (a : AcqUnit) (i now : Nat) : AcqUnit :=
  { a with
    st := .armed, armAt := now, segs := vset a.segs i .filling, cur := i, count := 0, insts := [], thr := [], thrArmLo := false
    thrArmHi := false, part := none, avgN := 0, avg := [], avgBad := 0, trigSet := none, trigMore := [], trigSrc := 0, trigDet := 0, flags := 0
    stopping := false, complete := false, postN := 0, meas := [], gaps := [] }

/-- Go to ARMED in the next EMPTY segment, or to HOLD where there is none. -/
def State.acqArmUnit (s : State) (u : Nat) : State :=
  match s.nextEmpty u with
  | some i => s.modAcq u fun a => a.fill i s.now
  | none => s.modAcq u fun a => { a with st := .hold }

/-- ACQ_STOP for one unit (Table ACQ-2). Sources that still wait for a trigger set find none: they count as ignored (log 55). -/
def State.acqStopUnit (s : State) (u : Nat) (stopNow : Bool) : State :=
  let a := s.acqN u
  match a.st with
  | .idle => s
  | .triggered =>
    if stopNow then (s.count .acqTrigIgn u a.trigMore.length).modAcq u fun a => { a with
      st := .idle, trigMore := [], complete := true, flags := if a.complete then a.flags else a.flags ||| 4
      postN := match a.trigSet with | some t => min (a.count - t) (s.postSets u) | none => 0 }
    else s.modAcq u fun a => { a with stopping := true }
  | _ => s.modAcq u fun a => { a with
      st := .idle, segs := if a.st = .armed then vset a.segs a.cur .empty else a.segs }

/-- At entry to HALTED with cause CORE_LOCKSTEP or MEM_ECC every unit stops (R400). -/
def State.acqStopAll (s : State) : State := forNums (List.range 8) (fun u s => s.acqStopUnit u true) s

/-! ### Records -/

/-- The header of a unit's record (Table ACQ-4). -/
def State.acqHeader (s : State) (u : Nat) : Bytes :=
  let a := s.acqN u
  let seg := s.segSamples u
  let trig := a.trigSet.getD a.count
  let pre := min (seg - s.postSets u) trig
  let short := trig < seg - s.postSets u
  let first := trig - pre
  let firstNt := ((a.insts.find? fun x => x.1 = first).map (·.2)).getD 0
  let gaps := a.gaps.filterMap fun (n, k) =>
    let lo := max n first
    let hi := min (n + k) (trig + a.postN)
    if lo < hi then some (lo - first, hi - lo) else none
  let flags := a.flags.toNat ||| (if short then 1 else 0) ||| (if gaps ≠ [] then 8 else 0) ||| (if 64 < gaps.length then 16 else 0)
  let measBytes := ((a.meas.zip (List.range 32)).map fun (m, i) =>
    if s.acqMode u = 2 ∨ s.acqNch u ≤ i then List.replicate 40 (0 : Byte) else m.bytes (s.acqInterval u) (s.free + 5 * i)).flatten
  let gapBytes := ((gaps.take 64).map fun (n, k) => leBytes 4 n ++ leBytes 4 k).flatten
  let head : Bytes := leBytes 4 0x52435141 ++ [BitVec.ofNat 8 u, BitVec.ofNat 8 (s.acqMode u), BitVec.ofNat 8 (s.acqNch u),
      BitVec.ofNat 8 (s.acqAvg u + 16 * s.acqXres u)]
    ++ leBytes 4 (s.reg .acqRecCnt u).toNat ++ leBytes 4 flags ++ leBytes 8 firstNt.toNat ++ leBytes 8 a.trigNt.toNat
    ++ leBytes 8 (s.acqInterval u) ++ leBytes 4 pre ++ leBytes 4 a.postN ++ leBytes 4 a.trigSrc.toNat
    ++ leBytes 4 a.trigDet.toNat ++ leBytes 4 (gaps.map (·.2)).sum ++ leBytes 4 gaps.length ++ leBytes 4 (first % seg)
    ++ leBytes 2 (s.setBytes u)
  padTo 1408 (padTo 128 head ++ measBytes) ++ padTo 2688 gapBytes

/-- The header of a complete record is written once the unit's queue has drained: the segment is FULL, the record counts and the
unit's vector is raised (Table ACQ-2). -/
def State.acqFinish (s : State) (u : Nat) : State :=
  let s := s.advanceTo (s.acqDrained u)
  let a := s.acqN u
  let s := { s with dram := memWrite s.dram (s.acqBase u + a.cur * s.segBytes u) (s.acqHeader u), free := s.free + 160 }
  let s := s.modAcq u fun a => { a with
    segs := vset a.segs a.cur .full, last := some a.cur, complete := false }
  let s := s.countWrap .acqRecCnt u
  let irq := s.reg .acqIrq u
  if bitOf irq 8 then s.raise (bitsOf irq 7 0) else s

/-! ### Commands -/

/-- ACQ_ARM (Table ACQ-7). Where the header of the unit's record is still to be written, that comes first (log 55). -/
def State.acqArm (s : State) (c : Src) (p : Bytes) : State :=
  let mask := pb p 0
  if mask = 0 then s.refuse c 0x0301 .checkFail 1
  else
    let named := (bitsIn 8 mask).filter fun u => (s.acqN u).st = .idle
    let s := forNums named (fun u s => (if (s.acqN u).complete then s.acqFinish u else s).acqArmUnit u) s
    s.done c 0x0301 (maskOf 8 named.contains)

def execAcqArm (c : Src) (p : Bytes) (s : State) : Host.Outcome State Fault Refusal :=
  .next (s.obey c 0x0301 p fun s => s.acqArm c p)

/-- ACQ_TRIGGER (Table ACQ-7): the trigger instant is the NT at PLACE. -/
def State.acqTrigger (s : State) (c : Src) (p : Bytes) : State :=
  let mask := pb p 0
  if mask = 0 then s.refuse c 0x0302 .checkFail 1
  else
    let took := maskOf 8 fun u => mask.testBit u && (s.acqN u).st = .armed
    let s1 := s.acqTrigMask mask 9 s.nt64 c.ring.val
    let asked := took != 0 && s.lvb .ntPtmCtrl 0 0 12
    let s2 := if (pb p 1).testBit 0 && !asked then s1.ptmAsk 4 s.nt64 0 true else s1
    s2.done c 0x0302 took

def execAcqTrigger (c : Src) (p : Bytes) (s : State) : Host.Outcome State Fault Refusal :=
  .next (s.obey c 0x0302 p fun s => s.acqTrigger c p)

/-- ACQ_STOP (Table ACQ-7). -/
def State.acqStop (s : State) (c : Src) (p : Bytes) : State :=
  let mask := pb p 0
  if mask = 0 then s.refuse c 0x0303 .checkFail 1
  else (forNums (bitsIn 8 mask) (fun u s => s.acqStopUnit u ((pb p 1).testBit 0)) s).done c 0x0303

def execAcqStop (c : Src) (p : Bytes) (s : State) : Host.Outcome State Fault Refusal :=
  .next (s.obey c 0x0303 p fun s => s.acqStop c p)

/-- The POST sets of a record have been captured: REARM with CONT = 1, otherwise IDLE (Table ACQ-2). -/
def execAcqPostComplete (u : Fin 8) (s : State) : Host.Outcome State Fault Refusal :=
  let a := s.acqN u
  if a.st = .triggered && a.complete then
    let again := s.lvb .acqCfg u 0 28 && !a.stopping
    .next (s.modAcq u fun a => { a with st := if again then .rearm else .idle, part := none })
  else .next s

/-- The header of a complete record is written, once the unit's queue has drained. -/
def execAcqHeaderWritten (u : Fin 8) (s : State) : Host.Outcome State Fault Refusal :=
  let a := s.acqN u
  if a.complete && !(a.st = .triggered) then .next (s.acqFinish u) else .next s

/-- At most 2 µs after the header, a unit in REARM goes on: ARMED in the next EMPTY segment, or HOLD (Table ACQ-2). -/
def execAcqRearm (u : Fin 8) (s : State) : Host.Outcome State Fault Refusal :=
  let a := s.acqN u
  if a.st = .rearm && !a.complete then .next (s.acqArmUnit u) else .next s

/-- A write to ACQ_SEG_FREE_u releases a FULL segment; a unit in HOLD then arms (R398, Table ACQ-2). -/
def State.segFree (s : State) (u i : Nat) : State :=
  if vget (s.acqN u).segs i .empty = .full then
    let s := s.modAcq u fun a => { a with segs := vset a.segs i .empty }
    if (s.acqN u).st = .hold then s.acqArmUnit u else s
  else s

/-- ACQ_SEG_FREE: the register write that releases a segment. -/
def execAcqSegFree (u : Fin 8) (v : Word) (s : State) : Host.Outcome State Fault Refusal :=
  .next (s.segFree u (v.toNat % 256))

/-- A rising edge at EXT_TRIG, held for at least 20 ns: the edge is the trigger instant (Table ACQ-3), and TX_SRC bit 2 may
publish it. -/
def execExtTrigEdge (s : State) : Host.Outcome State Fault Refusal :=
  .next ((s.acqOffer 6 s.tripClock 0 fun _ => true).ptmAsk 2 s.nt64 0)

end Sys2Proof.Machine
end

