-- ==== Sys2Proof/Machine/Measure.lean ====
section
/-! DEFINITION. Sigma-delta inputs and measurement: modulator ticks, moving sums, dumps and their validity, stuck runs, the fast
path with its window comparators, and the SAR converter (R132 to R157, R227 to R230, R476). -/

namespace Sys2Proof.Machine

/-! ### Channels and their sources (Table MEA-10) -/

/-- N, the number of stages of a channel; L_i of stage i; SH_i; FAST_L; W (R141, R145). -/
def State.stageN (s : State) (c : Nat) : Nat := s.lv .decMode c 0 25 24 + 1
def State.stageLen (s : State) (c i : Nat) : Nat := s.lv .decFilt c 0 (8 * i + 7) (8 * i) + 1
def State.stageShift (s : State) (c i : Nat) : Nat := s.lv .decMode c 0 (4 * i + 3) (4 * i)
def State.fastLen (s : State) (c : Nat) : Nat := s.lv .decMode c 0 21 16
def State.legacy (s : State) (c : Nat) : Bool := s.lvb .decMode c 0 23
def State.window (s : State) (c : Nat) : Nat :=
  (List.range (s.stageN c)).foldl (fun w i => w + (s.stageLen c i - 1)) 1

/-- The lowest phase of the comparator's PHASE field (Table TRP-3, LEG). -/
def State.cmpPhase (s : State) (c : Nat) : Nat := (bitsIn 3 (s.lv .trpCmpCfg c 0 14 12)).headD 0

/-! ### The moving sums -/

/-- One stage takes one input: s := s + x − x[n − L] (R141). -/
def SumStage.push (st : SumStage) (len : Nat) (x : BitVec 40) : SumStage :=
  { s := st.s + x - (st.hist[len - 1]?).getD 0, hist := (x :: st.hist).take len }

/-- The cascade takes one input; in legacy arithmetic every stage's output is shifted before it feeds the next (R142). -/
def pushStages (len shift : Nat → Nat) (legacy : Bool) : Nat → BitVec 40 → List SumStage → List SumStage
  | _, _, [] => []
  | i, x, st :: rest =>
    let st := st.push (len i) x
    st :: pushStages len shift legacy (i + 1) (if legacy then st.s.sshiftRight (shift i) else st.s) rest

/-- +1 for a one and −1 for a zero. -/
def bitInput (b : Bool) : BitVec 40 := if b then 1 else -1

/-- A stage list brought to N stages. -/
def fitStages (n : Nat) (l : List SumStage) : List SumStage := (l ++ List.replicate (n - l.length) ({ s := 0, hist := [] } : SumStage)).take n

/-- A clearing event: stages and counts restart (R145). -/
def DecChan.clear (d : DecChan) : DecChan :=
  { d with stages := [], valBits := 0, runLen := 0, stuck := false, clearPend := false, alignPend := false }

/-- The fast path restarts, and the comparator is masked (R151). -/
def DecChan.clearFast (d : DecChan) : DecChan :=
  { d with fast1 := {}, fast2 := {}, fastBits := 0, cmpActive := false, cmpMasked := true }

/-- One bit enters a channel: cascade, fast path, run of identical bits (R141, R147, R150). -/
def State.chanBit (s : State) (c : Nat) (b : Bool) : State :=
  let x := bitInput b
  let lf := s.fastLen c
  s.modDec c fun d =>
    let f1 := d.fast1.push lf x
    let f2 := d.fast2.push lf f1.s
    let same := 0 < d.runLen && d.runBit == b
    { d with
      stages := pushStages (s.stageLen c) (s.stageShift c) (s.legacy c) 0 x (fitStages (s.stageN c) d.stages)
      fast1 := f1, fast2 := f2, fastBits := d.fastBits + 1
      runBit := b, runLen := if same then d.runLen + 1 else 1
      valBits := if !same && 64 < d.runLen then 1 else d.valBits + 1 }

/-- The bit of a link bitstream that is due at this tick: the one sampled Λ ticks before (R135); none where none was
delivered. -/
def State.linkBit (s : State) (k j tick : Nat) : Option Bool :=
  let want := (tick + 65536 - (s.reg .decLinkLat).toNat % 65536) % 65536
  ((vget s.meas.linkBits k []).find? fun x => x.1 = want).map fun x => x.2.getLsbD j

/-- The bit a channel's source gives at a tick; none from a source that delivers nothing (R136). -/
def State.sourceBit (s : State) (lands : DWord) (tick c : Nat) : Option Bool :=
  match s.srcKind c with
  | 1 => some (lands.getLsbD (s.srcIndex c))
  | 2 =>
    if (s.gs (s.srcIndex c / 8)).link = .trained then s.linkBit (s.srcIndex c / 8) (s.srcIndex c % 8) tick else none
  | _ => none

/-- Bits of a link whose delivery tick has come leave the list (R135). -/
def State.dropDelivered (s : State) (tick : Nat) : State :=
  let want := (tick + 65536 - (s.reg .decLinkLat).toNat % 65536) % 65536
  { s with meas := { s.meas with linkBits := s.meas.linkBits.map fun l => l.filter fun x => 32768 ≤ (want + 65536 - x.1) % 65536 } }

/-- The instant of modulator tick `n` since the restart of output 2 (R486). -/
def State.tickAt (s : State) (n : Nat) : Nat := s.clk.restartAt + 8 * s.lv .clkOut 2 0 25 16 + n * s.tmod

/-- A source delivers nothing: the stages freeze, checking for stuck runs ends, and the comparator is inactive (R147, R149,
R151). -/
def State.srcLost (s : State) (c : Nat) : State :=
  s.modDec c fun d => { d with srcDown := true, runLen := 0, stuck := false, cmpActive := false, cmpMasked := true }

/-- A modulator tick (R132 to R141, R150): each active channel takes its bit, and units in TICK mode capture. -/
def State.tick (s : State) (lands : DWord) : State :=
  let t := s.meas.tick
  let s := forNums ((List.range 160).filter s.chanActive) (fun c s =>
    match s.sourceBit lands t c with
    | some b => if (s.dec c).srcDown && s.srcKind c = 2 then s else (s.modDec c fun d => { d with srcDown := false }).chanBit c b
    | none => s.srcLost c) s
  let s := s.acqTick fun c => (s.sourceBit lands t c).getD false
  let s := s.dropDelivered t
  { s with meas := { s.meas with tick := t + 1 } }

/-- A standby in direct mode whose own output-2 tick differs from the edge at its SDM_CLK_0 land, `ps` away, by more than T_mod/4 sets
CLK_SKEW and is NOT_READY (R425, R427). -/
def State.clkSkewCheck (s : State) (ps : Int) : State :=
  if s.pair && !s.twn.role && !s.linkMode then
    if 125 * (s.tmod : Int) < 16 * (ps.natAbs : Int) then s.modTwn fun t => { t with clkSkew := true, ready := false, equalRun := 0 }
    else s.modTwn fun t => { t with clkSkew := false }
  else s

/-- MODULATOR_TICK: the next tick, at its instant; none between an update strobe for output 2 and its restart (R270). -/
def execModulatorTick (lands : DWord) (clk0Ps : Int) (s : State) : Host.Outcome State Fault Refusal :=
  if s.clk.running.getLsbD 2 && !s.clk.strobe.getLsbD 2 then
    .next (((s.advanceTo (s.tickAt s.meas.tick)).tick lands).clkSkewCheck clk0Ps)
  else .next s

/-! ### Dumps -/

/-- v of R141 and R142, with LSAT. -/
def State.chanValue (s : State) (c : Nat) : Int × Bool :=
  let raw := ((s.dec c).stages.getLast?.map (·.s)).getD 0
  if s.legacy c then
    let x := (raw.sshiftRight (s.stageShift c (s.stageN c - 1))).toInt
    (clampInt (-8388608) 8388607 x, decide (x > 8388607 ∨ x < -8388608))
  else (raw.toInt, false)

/-- The decimated word of Table MEA-3. -/
def State.decWord (s : State) (c count : Nat) : DWord :=
  let d := s.dec c
  if s.srcKind c = 0 then BitVec.ofNat 64 ((count % 65536) * 2 ^ 40)
  else
    let (v, lsat) := s.chanValue c
    let stuck := 64 < d.runLen
    let valid := decide (s.window c ≤ d.valBits) && !stuck && !d.srcDown && !d.alignPend
    let b (n : Nat) (x : Bool) : Nat := if x then 2 ^ n else 0
    BitVec.ofNat 64 (b 63 valid + b 62 stuck + b 61 d.srcDown + b 60 lsat + (count % 65536) * 2 ^ 40 + unsignedOf 40 v)

/-- DEC_IN's scaling of R144, with the bound it saturated at. -/
def State.scale (s : State) (c : Nat) (word : DWord) : Word × Option Bool :=
  let v := signed 40 (word.toNat % 2 ^ 40)
  let gain := sw ((regGet s.live .decGain c).setWidth 32)
  let ofs := sw ((regGet s.live .decOfs c).setWidth 32)
  sat32 (roundShr (v * gain) (s.lv .decMode c 0 31 26) + ofs)

/-- Engines take the first group-0 dump at or after B_k + DEC_TS·T_mod as their period sample, and then the words of the other
groups of that dump; t_s, judged at the tick's own instant, is reported in DEC_TS_EFF_e (R139, R486). -/
def State.sampleDump (s : State) (g : Nat) (words : List (Nat × DWord)) : State :=
  let at_ := s.tickAt (s.meas.tick - 1)
  forNums (List.range 8) (fun e s =>
    let n := s.engN e
    match n.sampleDue with
    | some due =>
      if g = 0 ∧ due ≤ at_ then
        (s.modEng e fun n => { n with sample := words, sampleDue := none, sampleGrp := 1 }).setRegN .decTsEff e 0
          ((at_ - n.atB) / 8)
      else s
    | none =>
      if n.sampleGrp = g ∧ g ≠ 0 then s.modEng e fun n => { n with sample := n.sample ++ words, sampleGrp := g + 1 }
      else s) s

/-- Does group `g` dump at the present tick, and has it not dumped yet: group 0 by the dump phase, group `g` that many ticks after a
group-0 dump (R138)? -/
def State.dumpTick (s : State) (g : Nat) : Bool :=
  let t := s.meas.tick - 1
  s.groupOn g && s.clk.running.getLsbD 2 && 0 < s.meas.tick && (vget s.meas.groups g {}).lastTick != some t
    && (if g = 0 then decide (((t : Int) - s.meas.dumpBase) % s.decD = 0) else decide (g ≤ t) && s.meas.dump0.contains (t - g))

/-- A group dumps: a due synchronising reset or clearing first, then one word per channel for DEC_OUT, the engines and the
acquisition units (R138, R143, R146, R149). -/
def State.dump (s : State) (g : Nat) : State :=
  let grp := vget s.meas.groups g {}
  let count := if grp.resetPend then 0 else grp.count.toNat + 1
  let chans := (List.range 8).map (8 * g + ·)
  let s := forNums chans (fun c s =>
    s.modDec c fun d =>
      if grp.resetPend then (d.clear).clearFast else if d.clearPend then d.clear else d) s
  let words := chans.map fun c => (c, s.decWord c count)
  let s := words.foldl (fun s (c, w) => s.setReg .decOut c 0 w) s
  let s := forNums chans (fun c s => s.modDec c fun d => { d with alignPend := false }) s
  let s := { s with meas := { s.meas with
    groups := vset s.meas.groups g {
      dumping := true, count := BitVec.ofNat 16 count, resetPend := false, lastTick := some (s.meas.tick - 1) }
    dump0 := if g = 0 then ((s.meas.tick - 1) :: s.meas.dump0).take 20 else s.meas.dump0 } }
  let s := s.sampleDump g words
  s.acqDump g fun c =>
    match words.find? fun x => x.1 = c with
    | some (_, w) => ((s.scale c w).1, w.getLsbD 63)
    | none => (0, false)

/-- A group dumps at its tick (R138). -/
def execDecimationDump (g : Fin 20) (s : State) : Host.Outcome State Fault Refusal :=
  if s.dumpTick g then .next (s.dump g) else .next s

/-- Instants of the modulator ticks: the first tick at or after an instant, counted from the restart of output 2 (R486). -/
def State.tickFrom (s : State) (at_ : Nat) : Int :=
  let origin := s.clk.restartAt + 8 * s.lv .clkOut 2 0 25 16
  ((at_ : Int) + s.tmod - 1 - origin) / s.tmod

/-- A dump-phase alignment: group-0 dumps fall at B + DEC_TS·T_mod of the reference timebase, and the next output of every
channel of an active group is invalid (R140). -/
def State.dumpAlign (s : State) : State :=
  if s.clk.running.getLsbD 2 then
    let t := s.tb (s.lv .decCtrl 0 0 11 8)
    let base := s.tickFrom (t.zeroAt + s.lv .decTs 0 0 15 0 * s.tmod)
    let s := { s with meas := { s.meas with dumpBase := if t.run = .running then base else s.meas.dumpBase } }
    let s := forNums ((List.range 160).filter fun c => s.groupOn (c / 8)) (fun c s =>
      s.modDec c fun d => { d with alignPend := true }) s
    s.count .decAlignCnt
  else s

/-! ### Stuck runs (R147) -/

/-- The 65th identical bit: a channel enters a stuck run. -/
def execStuckRunStart (c : Fin 160) (s : State) : Host.Outcome State Fault Refusal :=
  let d := s.dec c
  if s.chanActive c && 64 < d.runLen && !d.stuck then
    let s := s.modDec c fun d => { d with stuck := true }
    let s := s.setFlag .decStuck (c / 32) (c % 32)
    let s := s.logFlag 6 (c % 32) (s.reg .decStuck (c / 32))
    if s.lvb .decSrc c 0 12 then .next (s.latch (s.cmpStack c) 11 c (s.cmpPhase c)) else .next s
  else .next s

/-- A stuck run ends at the first differing bit. -/
def execStuckRunEnd (c : Fin 160) (s : State) : Host.Outcome State Fault Refusal :=
  let d := s.dec c
  if d.stuck && d.runLen ≤ 64 then .next (s.modDec c fun d => { d with stuck := false }) else .next s

/-- A link source delivers again: the fast path is cleared and masked from the first delivered bit, and the channel is cleared at
its group's next dump (R149, R151). -/
def execLinkSourceResume (c : Fin 160) (s : State) : Host.Outcome State Fault Refusal :=
  let k := s.srcIndex c / 8
  if (s.dec c).srcDown && s.srcKind c = 2 && (s.gs k).link = .trained
      && (s.linkBit k (s.srcIndex c % 8) s.meas.tick).isSome then
    .next (s.modDec c fun d => { d.clearFast with srcDown := false, clearPend := true, runLen := 0, valBits := 0 })
  else .next s

/-! ### Comparators (R227 to R230) -/

/-- F of a channel. -/
def State.fastValue (s : State) (c : Nat) : Int := (s.dec c).fast2.s.toInt

def State.cmpHi (s : State) (c : Nat) : Int := signed 16 (s.lv .trpCmpThr c 0 31 16)
def State.cmpLo (s : State) (c : Nat) : Int := signed 16 (s.lv .trpCmpThr c 0 15 0)
def State.cmpHys (s : State) (c : Nat) : Int := s.lv .trpCmpCfg c 0 31 24

/-- A pull-in is requested: it counts, acts at the channels, in link mode when its frame leaves, and trips a stack whose consecutive count
equals PULL_LIM (R229, R230). The engine's flag is set at the request, in link mode where its frame will act at its departure, and so in
both modules of a pair (Table GFM-6). -/
def State.pullIn (s : State) (c : Nat) : State :=
  let k := s.cmpStack c
  let phases := s.lv .trpCmpCfg c 0 14 12
  let s := s.modZone k fun z => { z with pullReq := true, pullPh := z.pullPh ||| phases }
  let s := if s.ops.st ≠ .running then s
    else if s.linkMode then (s.pullFlag k (s.pullFrameActs k phases (s.pullDeparts k))).askPullFrame k phases
    else s.pullPhases k phases
  if (s.zone k).pullRun = s.lv .trpStkCfg k 0 23 16 then s.latch k 1 c (s.cmpPhase c) else s

/-- A window comparator becomes active when F leaves its thresholds, and then trips or pulls in (R227, R229); every activation is
offered as an acquisition trigger. -/
def execComparatorActivate (c : Fin 160) (s : State) : Host.Outcome State Fault Refusal :=
  let d := s.dec c
  if s.chanActive c && !d.cmpMasked && !d.srcDown && !d.cmpActive
      && decide (s.fastValue c > s.cmpHi c ∨ s.fastValue c < s.cmpLo c) then
    let s := s.modDec c fun d => { d with cmpActive := true }
    let k := s.cmpStack c
    let s := match s.lv .trpCmpCfg c 0 1 0 with
      | 1 => s.latch k 0 c (s.cmpPhase c)
      | 2 => (s.pullIn c).count .trpPullCnt k
      | _ => s
    .next (s.acqOffer 3 s.tripClock (2 ^ k) fun u => s.acqSel u k)
  else .next s

/-- A comparator becomes inactive again when LO + HYS ≤ F ≤ HI − HYS (R227). -/
def execComparatorDeactivate (c : Fin 160) (s : State) : Host.Outcome State Fault Refusal :=
  let f := s.fastValue c
  if (s.dec c).cmpActive && decide (s.cmpLo c + s.cmpHys c ≤ f ∧ f ≤ s.cmpHi c - s.cmpHys c) then
    .next (s.modDec c fun d => { d with cmpActive := false })
  else .next s

/-- 2·(L_f − 1) + 1 bits have entered since the fast path was cleared: the comparator is no longer masked (R151). -/
def execFastPathMaskEnd (c : Fin 160) (s : State) : Host.Outcome State Fault Refusal :=
  let d := s.dec c
  if d.cmpMasked && !d.srcDown && s.chanActive c && decide (2 * (s.fastLen c - 1) + 1 ≤ d.fastBits) then
    .next (s.modDec c fun d => { d with cmpMasked := false })
  else .next s

/-- At a load point the interval's pull-ins end: the consecutive count moves on, and comparators that still ask pull in again
(R35, R230). -/
def State.pullInterval (s : State) (k : Nat) : State :=
  let s := s.modZone k fun z => { z with pullRun := if z.pullReq then min 255 (z.pullRun + 1) else 0, pullReq := false, pullPh := 0 }
  let s := s.modGs k fun g => { g with pullMask := 0 }
  let asking := (List.range 160).filter fun c => (s.dec c).cmpActive && s.chanActive c && s.lv .trpCmpCfg c 0 1 0 = 2
    && s.cmpStack c = k
  forNums asking (fun c s => s.pullIn c) s

/-! ### The SAR converter (R152 to R157) -/

def State.modSar (s : State) (f : SarState → SarState) : State := { s with sar := f s.sar }

/-- ENABLE of ADC_CTRL. -/
def State.sarOn (s : State) : Bool := s.lvb .adcCtrl 0 0 12

/-- Start the sequence in the next cycle (R486). -/
def State.sarStart (s : State) : State :=
  s.modSar fun a => { a with conv := .slot 0 0 0, startAt := 32 * (s.nsNow + 1), convEnd := 32 * (s.nsNow + 1) + 8000 }

/-- A sequence trigger (R154, Table MEA-6). Triggers of one CTL cycle count as one; before the first lock no cycle runs (Table CLK-3). -/
def State.sarTrigger (s : State) : State :=
  if !s.sarOn || !s.ctlRuns || s.sar.trigAt = some s.nsNow then s
  else
    let s := s.modSar fun a => { a with trigAt := some s.nsNow }
    if s.sar.conv = .idle then s.sarStart
    else if s.sar.pending then s.count .adcTrigLostCnt
    else s.modSar fun a => { a with pending := true }

/-- Is a sequence about to start, in this very cycle or in a later one (R153: until its first cycle the converter is idle)? -/
def State.sarStarting (s : State) : Bool := decide (s.sar.conv = .slot 0 0 0) && decide (s.nsNow ≤ s.sar.startAt / 32)

/-- An urgent request for an input (R155, Table MEA-6): converted at once where the converter is idle; where a sequence starts in
the same cycle, the urgent conversion goes first and the sequence starts 250 ns later; otherwise dropped and counted. GO then clears.
DESIGN CHOICE: one in the cycle before a sequence starts is converted at once, and the sequence starts when it has ended (log 20).
DESIGN CHOICE: a request while ENABLE = 0, which is not accepted, clears GO and counts nothing (log 20). -/
def State.sarUrgent (s : State) (input : Nat) : State :=
  if !s.sarOn || !s.ctlRuns then s.setReg .adcUrg 0 0 (withBits (s.reg .adcUrg) 8 8 0)
  else if s.sar.conv = .idle then s.modSar fun a => { a with conv := .urgent input, convEnd := ctlTick s.now + 8000 }
  else if s.sarStarting then s.modSar fun a => { a with
      conv := .urgent input, held := true, convEnd := (if s.nsNow < a.startAt / 32 then ctlTick s.now else a.startAt) + 8000 }
  else (s.setReg .adcUrg 0 0 (withBits (s.reg .adcUrg) 8 8 0)).count .adcUrgDropCnt

/-- A result word enters the 64-entry queue, or is dropped and counted (R156). -/
def State.sarResult (s : State) (w : Nat) : State :=
  if s.sar.queue.length < 64 then s.modSar fun a => { a with
      queue := a.queue ++ [BitVec.ofNat 32 w], since := if a.queue = [] then s.now else a.since }
  else s.count .adcResDropCnt

/-- The code of a voltage in µV: full scale 2.5 V, 14 bits (R476). -/
def sarCode (uv : Int) : Nat := min 16383 ((uv * 16384) / 2500000).toNat

/-- The converter goes on after a conversion: a sequence that an urgent conversion has put off starts, a pending start begins in the next
cycle, or it is idle. -/
def State.sarNext (s : State) : State :=
  let s := s.modSar fun a => { a with conv := .idle }
  if s.sar.held then
    s.modSar fun a => { a with conv := .slot 0 0 0, held := false, startAt := s.now, convEnd := s.now + 8000 }
  else if s.sar.pending then (s.modSar fun a => { a with pending := false }).sarStart
  else s

/-- A conversion of the converter ends, with the voltage it saw. A slot's result is due after its last one. -/
def State.sarDone (s : State) (uv : Int) : State :=
  let code := sarCode uv
  match s.sar.conv with
  | .idle => s
  | .urgent input =>
    let w := 2 ^ 31 + input * 2 ^ 22 + code
    let s := ((s.sarResult w).setRegN .adcLatest input 0 code).setRegN .adcUrgRes 0 0 w
    (s.setReg .adcUrg 0 0 (withBits (s.reg .adcUrg) 8 8 0)).sarNext
  | .slot n done sum =>
    let avg := s.lv .adcSlot n 0 11 8
    let input := s.lv .adcSlot n 0 3 0
    let sum := sum + code
    if done + 1 < 2 ^ avg then s.modSar fun a => { a with conv := .slot n (done + 1) sum, convEnd := s.now + 8000 }
    else
      let w := (if n = 0 then 2 ^ 30 else 0) + n * 2 ^ 26 + input * 2 ^ 22 + (sum / 2 ^ s.lv .adcSlot n 0 19 16) % 2 ^ 22
      let s := (s.sarResult w).setRegN .adcLatest input 0 (sum / 2 ^ avg)
      if n < s.lv .adcCtrl 0 0 3 0 then s.modSar fun a => { a with conv := .slot (n + 1) 0 0, convEnd := s.now + 8000 }
      else (s.countWrap .adcSeqCnt).sarNext

/-- A software sequence trigger: a write of 1 to ADC_SEQ_TRIG; the bit clears when the trigger has been taken. -/
def execSequenceTrigger (s : State) : Host.Outcome State Fault Refusal :=
  .next (s.sarTrigger.setReg .adcSeqTrig 0 0 0)

/-- An urgent request: a write of 1 to GO with an input in INPUT. -/
def execUrgentRequest (input : Fin 16) (s : State) : Host.Outcome State Fault Refusal :=
  let s := s.setReg .adcUrg 0 0 (withBits (withBits (s.reg .adcUrg) 3 0 input) 8 8 1)
  .next (s.sarUrgent input)

/-- A conversion is complete, 250 ns after it began. -/
def execSarConversionDone (microvolts : Int) (s : State) : Host.Outcome State Fault Refusal :=
  if s.sar.conv = .idle then .next s else .next ((s.advanceTo s.sar.convEnd).sarDone microvolts)

end Sys2Proof.Machine
end

