-- ==== Sys2Proof/Machine/Mirror.lean ====
section
/-! DEFINITION. What an ACTIVE module of a Lichen pair hands to its twin: ITEM frames with their numbers and TAKE_IDX, within the line
capacity of a control period (R432, R433). The layout of an ITEM frame beyond its type, length, number and CRC is the model's
(log 33). -/

namespace Sys2Proof.Machine

/-- The reference engine of a pair, and of the frames of R431. -/
def State.refEng (s : State) : Nat := s.lv .twnCfg 0 0 2 0

/-- Is the module the ACTIVE one of a pair? -/
def State.leads (s : State) : Bool := s.pair && s.twn.role

/-- An ITEM frame. -/
def Item.bytes (i : Item) : Bytes :=
  withCrc32c ([0x02, 0] ++ leBytes 2 (48 + i.payload.length) ++ leBytes 8 i.no.toNat ++ leBytes 8 i.takeIdx.toNat ++ leBytes 2 i.opcode
    ++ [BitVec.ofNat 8 i.src.ring.val, if i.src.irq then 1 else 0] ++ leBytes 2 i.src.keyId.toNat ++ leBytes 8 i.src.seq.toNat
    ++ leBytes 8 i.src.applyAt.toNat ++ leBytes 2 i.payload.length ++ i.payload)

/-- The item that a frame carries. -/
def itemOf (f : Bytes) : Item :=
  { no := BitVec.ofNat 64 (pf f 4 8), opcode := pf f 20 2
    src := { ring := Fin.ofNat 129 (pb f 22), seq := BitVec.ofNat 64 (pf f 26 8), applyAt := BitVec.ofNat 64 (pf f 34 8)
             keyId := BitVec.ofNat 16 (pf f 24 2), irq := pb f 23 = 1 }
    payload := (f.drop 44).take (pf f 42 2), takeIdx := BitVec.ofNat 64 (pf f 12 8) }

/-- The engines that run the unit-level stages of a template. -/
def State.unitEngines (s : State) : Nat :=
  maskOf 8 fun e => s.servedBy e ≠ [] && match (s.engN e).image with | some img => img.kind = 0 | none => false

/-- The opcode of the items that carry an execution record of a spore (log 33). -/
def recItem : Nat := 0x0713

/-- A source for items that no command stands behind. -/
def noSrc : Src := { ring := 128, seq := 0, applyAt := 0, keyId := 0, irq := false }

/-- The opcode of the items that carry the work of a scheduled action (R299; the model's number, log 33). -/
def sporeItem : Nat := 0x0700

/-- The engines that an input acts on, by its opcode and payload. -/
def State.itemEngines (s : State) (op : Nat) (p : Bytes) : List Nat :=
  if op = 0x0101 ∨ op = 0x0102 ∨ op = 0x0103 then bitsIn 8 s.unitEngines
  else if op = 0x0110 ∨ op = 0x0120 ∨ op = 0x0801 then bitsIn 8 (pb p 0)
  else if op = 0x0204 ∨ op = 0x0611 ∨ op = 0x0612 then [pb p 0 % 8]
  else if op = sporeItem then (if pb p 1 = 1 then List.range 8 else bitsIn 8 (pb p 4))
  else []

/-- The first boundary of an engine after now and at or after APPLY_AT, as an instant (R27). -/
def State.boundAfter (s : State) (e : Nat) (applyAt : DWord) : Nat :=
  let n := s.engN e
  let tc := max 1 (s.tc e)
  let m := if applyAt = 0 then 0 else (32 * (applyAt.toNat - n.ntB.toNat) + tc - 1) / tc
  n.atB + tc * max ((s.now - n.atB) / tc + 1) m

/-- TAKE_IDX of an input accepted now: the first boundary of REF_ENG at or after the boundary at which each engine that the input acts on
would take it in a single module, and at least 20 µs after the frame (R432). -/
def State.firstTake (s : State) (c : Src) (es : List Nat) : DWord :=
  let n := s.engN s.refEng
  let tc := max 1 (s.tc s.refEng)
  let goal := (s.refEng :: es.filter s.executes).foldl (fun g e => max g (s.boundAfter e c.applyAt)) (s.now + 640000)
  n.idx + BitVec.ofNat 64 (max 1 ((goal - n.atB + tc - 1) / tc))

/-- TAKE_IDX that a kind-C command accepted now carries: none outside a pair. -/
def State.controlTake (s : State) (c : Src) (op : Nat) (p : Bytes) : Option DWord :=
  if s.leads then some (s.firstTake c (s.itemEngines op p)) else none

/-- The bytes of the period's PERIOD frame that are still to be sent (Table TWN-3). -/
def State.frameRoom (s : State) : Nat :=
  if s.twn.frameSent then 0 else 132 + if s.twn.role then s.twn.stateOut.length else 0

/-- Send waiting items while they fit, with the PERIOD frame, into the 8 KiB of this control period. -/
def State.sendItems : Nat → State → State
  | 0, s => s
  | fuel + 1, s =>
    match s.twn.outItems with
    | [] => s
    | i :: rest =>
      let f := i.bytes
      if s.twn.bytes + s.frameRoom + f.length ≤ 8192 then
        State.sendItems fuel (s.modTwn fun t => { t with
          outItems := rest, sentItems := t.sentItems ++ [i], sent := f :: t.sent, bytes := t.bytes + f.length })
      else s

/-- An accepted input that the active module mirrors becomes an item with the next number; a TAKE_IDX of 0 stands for the first boundary
of R432. -/
def State.mirror (s : State) (c : Src) (op : Nat) (p : Bytes) (take : DWord) : State :=
  if s.leads then
    let take := if take = 0 then s.firstTake c (s.itemEngines op p) else take
    let s := s.modTwn fun t => { t with
      itemNo := t.itemNo + 1
      outItems := t.outItems ++ [{ no := t.itemNo + 1, opcode := op, src := c, payload := p, takeIdx := take }] }
    s.sendItems s.twn.outItems.length
  else s

/-- The TAKE_IDX of a command moves with its item (R432): wherever the command waits. -/
def State.moveTake (s : State) (c : Src) (take : DWord) : State :=
  let s := forNums (List.range 8) (fun e s => s.modEng e fun n => { n with
    inbox := n.inbox.map fun m => if sameSrc m.src c then { m with takeIdx := m.takeIdx.map fun _ => take } else m }) s
  let s := s.modStg fun g => { g with
    pendings := g.pendings.map fun p => if sameSrc p.src c then { p with takeIdx := p.takeIdx.map fun _ => take } else p }
  let mv := fun (l : List PendOp) => l.map fun p => if sameSrc p.src c then { p with takeIdx := p.takeIdx.map fun _ => take } else p
  s.modOps fun o => { o with starts := mv o.starts, stops := mv o.stops }

/-- The opcode of the items that carry bytes of an image or configuration block ahead of their command (log 33). -/
def chunkItem : Nat := 0x0711

/-- The opcodes of the items that carry a staged write and a change of the operating state (log 33). -/
def stageItem : Nat := 0x0710
def stateItem : Nat := 0x0712

/-- Enter an operating state with a cause of Table OPS-3, and record it (R379). The active module of a pair tells its twin of it (R433). -/
def State.enter (s : State) (dst : OpState) (cause : Nat) : State :=
  let from_ := s.ops.st.code
  let word := if dst = .halted ∧ cause = 0x20 then (s.reg .glbSelftest).toNat else s.armBlock
  let s := s.modOps fun o => { o with st := dst, prev := from_, cause := cause, stateNt := s.nt64 }
  let s := s.note 0 2 0 ([BitVec.ofNat 8 from_, BitVec.ofNat 8 dst.code, BitVec.ofNat 8 cause, 0] ++ leBytes 4 word)
  s.notify.mirror noSrc stateItem [BitVec.ofNat 8 dst.code, BitVec.ofNat 8 cause] 0

/-- The bytes that a mirrored command has read from host memory go to the twin first, in items of 4096 bytes, then the command. -/
def State.mirrorBytes : Nat → State → Src → Bytes → State
  | 0, s, _, _ => s
  | n + 1, s, c, bs =>
    if bs = [] then s else State.mirrorBytes n (s.mirror c chunkItem (bs.take 4096) 0) c (bs.drop 4096)

def State.mirrorRead (s : State) (c : Src) (op : Nat) (p : Bytes) (bs : Option Bytes) : State :=
  let bs := bs.getD []
  (State.mirrorBytes (bs.length / 4096 + 1) s c bs).mirror c op p 0

/-- The work that a scheduled action has handed to the engines moves with its item, and so does what a COMMIT has made live. -/
def State.moveSpore (s : State) (slot action : Nat) (take : DWord) : State :=
  if action = 1 then s.modTwn fun t => { t with seeFrom := t.seeFrom.map fun _ => take }
  else forNums (List.range 8) (fun e s => s.modEng e fun n => { n with
    sporeStarts := n.sporeStarts.map fun x => if x.slot = slot then { x with takeIdx := x.takeIdx.map fun _ => take } else x
    swaps := n.swaps.map fun x => match x.who with
      | .spore i _ => if i = slot then { x with takeIdx := x.takeIdx.map fun _ => take } else x
      | _ => x }) s

/-- A new control period of the reference engine: its line capacity begins, waiting items move to it, and they are sent. -/
def State.itemsPeriod (s : State) : State :=
  let s := (s.modTwn fun t => { t with bytes := 0, frameSent := false }).keepMax .twnMirrorMax 0 s.twn.bytes
  let s := s.twn.outItems.foldl (fun s i =>
    let take := s.firstTake i.src (s.itemEngines i.opcode i.payload)
    if i.opcode = sporeItem then s.moveSpore (pb i.payload 0) (pb i.payload 1) take else s.moveTake i.src take) s
  let s := s.modTwn fun t => { t with outItems := t.outItems.map fun i => { i with takeIdx := s.firstTake i.src (s.itemEngines i.opcode i.payload) } }
  s.sendItems s.twn.outItems.length

/-- Has an item a TAKE_IDX that the period index of REF_ENG has reached? -/
def State.takeDue (s : State) (take : DWord) : Bool := decide (take ≤ (s.engN s.refEng).idx)

/-- At a boundary of REF_ENG: items whose TAKE_IDX it is and that ITEM_ACK has not covered apply all the same; the module then runs ALONE and
counts (R432). -/
def State.itemsLate (s : State) : State :=
  let late := s.twn.sentItems.filter fun i => i.takeIdx = (s.engN s.refEng).idx && decide (s.twn.twin.ack < i.no)
  if late = [] then s
  else (s.count .twnItemLateCnt 0 late.length).modTwn fun t => { t with alone := true }

/-- A standby becomes NOT_READY. -/
def State.notReady (s : State) : State := s.modTwn fun t => if t.role then t else { t with ready := false }

/-- The twins disagree (R436): DIG_ERR, one count, and a standby is NOT_READY. -/
def State.disagree (s : State) : State := ((s.count .twnDigestErrCnt).modTwn fun x => { x with digErr := true }).notReady

end Sys2Proof.Machine
end

