-- ==== Sys2Proof/Machine/Trips.lean ====
section
/-! DEFINITION. Trips and stack protection: trip inputs, trip and clear commands, the release conditions of Table TRP-1 and the
evaluation of clear requests (R224, R225, R235 to R245). -/

namespace Sys2Proof.Machine

/-- A cause of Table GDL-19 is met on a stack: its flag is set and logged, and its trip cause latched. While an off-state test
runs, a masked source does neither (R226). -/
def State.gdlTrip (s : State) (k bit cause source phase : Nat) : State :=
  if s.maskedByOst k cause then s
  else
    let s := s.setFlag .gdlFault k bit
    (s.logFlag 11 bit (s.reg .gdlFault k)).latch k cause source phase

/-- A fault line that stands low, judged again where it has been masked (R202, R226). -/
def State.fltStanding (s : State) (k : Nat) : State :=
  if !s.linkMode && (s.gs k).fltLow then s.gdlTrip k 0 3 0 0 else s

/-! ### Release conditions (Table TRP-1) -/

/-- The channels of active groups whose comparator belongs to a stack and has an ACTION. -/
def State.cmpChans (s : State) (k action : Nat) : List Nat :=
  (List.range 160).filter fun c => s.chanActive c && s.cmpStack c = k && s.lv .trpCmpCfg c 0 1 0 = action

/-- A comparator inactive and not masked. -/
def State.cmpQuiet (s : State) (c : Nat) : Bool := !(s.dec c).cmpActive && !(s.dec c).cmpMasked

/-- The GA levels of a stack's channels: its lands, or the GA field of the return frames. -/
def State.gaOf (s : State) (k j : Nat) : Bool :=
  if s.linkMode then (s.gs k).ifaceGa.getLsbD j else (s.chan (12 * k + j)).ga

/-- The nodes of a stack's ring. -/
def State.nodes (s : State) (k : Nat) : Nat := s.lv .gdlStkCfg k 0 11 8

/-- Is TRIP_IN_i active, by the accepted level of its land and POL (Table TRP-9)? -/
def State.tripActive (s : State) (i : Nat) : Bool := s.trp.tripIn.getLsbD i != s.lvb .trpInCfg i 0 7

/-- Have the sources that latched a cause of a stack released, each judged by a test? -/
def State.sourcesOff (s : State) (k cause : Nat) (off : Nat → Bool) : Bool :=
  (s.zone k).sources.all fun x => x.1 != cause || off x.2

/-- Has the source of a latched cause released? PROPAGATED is judged apart. The sources that latched FAST, TRIP_IN and STUCK count whatever a
commit has changed since; a comparator whose channel has been taken out of use is inactive. FLT and HARD_REPORT stay unreleased in link mode
while a node has not answered the CLEAR that it owes to the request, whose links are given (R237). -/
def State.released (s : State) (links : List ClearLink) (k cause : Nat) : Bool :=
  let g := s.gs k
  let answered := !s.linkMode || links.all fun x => x.k != k || x.clearWait = 0
  match cause with
  | 0 => (s.cmpChans k 1).all s.cmpQuiet && s.sourcesOff k 0 fun c => !s.chanActive c || s.cmpQuiet c
  | 1 => (s.cmpChans k 2).all s.cmpQuiet
  | 2 => ((List.range 16).all fun i => !(s.lvb .trpInCfg i 0 8 && s.lvb .trpInCfg i 0 (16 + k) && s.tripActive i))
      && s.sourcesOff k 2 fun i => !s.tripActive i
  | 3 => answered && (if s.linkMode then !g.retFlt else !g.fltLow)
  | 4 => answered && g.hardNodes = 0
  | 5 => if s.linkMode then g.ifaceGa = 0
    else (stackChans k).all fun n => !(s.chan n).gc && !(s.chan n).ga && (s.chan n).gaOff
  | 6 => (List.range 12).all fun j => s.gaOf k j == (s.chan (12 * k + j)).gc
  | 7 => (List.range 12).all fun j => !(s.chan (12 * k + j)).gcDiff
  | 8 => (List.range (s.nodes k)).all fun j => decide (3 ≤ vget g.goodRun j 0)
  | 9 => g.link = .trained
  | 11 => ((List.range 160).all fun c => !((s.dec c).stuck && s.lvb .decSrc c 0 12 && s.cmpStack c = k))
      && s.sourcesOff k 11 fun c => !(s.dec c).stuck
  | _ => true

/-- Every latched cause of a stack but PROPAGATED is released, and none has been latched in this very cycle (Table TRP-2). -/
def State.ownReleased (s : State) (links : List ClearLink) (k : Nat) : Bool :=
  (s.zone k).latchAt != some (ctlTick s.now)
    && (List.range 16).all fun n => !(s.zone k).causes.getLsbD n || n = 14 || s.released links k n

/-- Stacks of a mask whose PROPAGATED cause, if any, is released given that the stacks of `m` are cleared: each originator is
untripped or among them. -/
def State.keepCleared (s : State) (m : Nat) : Nat :=
  maskOf 16 fun k => m.testBit k &&
    (!(s.zone k).causes.getLsbD 14 || (List.range 16).all fun o =>
      !(s.zone k).props.getLsbD o || (s.zone o).causes = 0 || m.testBit o)

/-- What of a mask clears: stacks whose originators stay tripped drop out until nothing changes (R238). -/
def State.keepAll (s : State) (m : Nat) : Nat := (List.range 16).foldl (fun m _ => s.keepCleared m) m

/-- The stacks of a mask that one request clears: start from those whose own causes are released, and drop those whose
originators stay tripped, until nothing changes (R238). -/
def State.cleared (s : State) (mask : Nat) (links : List ClearLink := []) : Nat :=
  s.keepAll (maskOf 16 fun k => mask.testBit k && s.ownReleased links k)

/-! ### What ends an off-state test early (R207) -/

/-- May a stack's test run: a configured stack, every GC land low but for the test's own echoes, and the device in IDLE or the stack
tripped (R207)? -/
def State.ostMay (s : State) (k : Nat) : Bool :=
  s.configured k && (stackChans k).all (fun n => !(s.chan n).gc) && (s.ops.st = .idle || (s.zone k).causes != 0)

/-- The codes of the nodes of a stack that failed, with their nodes. -/
def State.ostFails (s : State) (k : Nat) : List (Nat × Nat) :=
  ((List.range (s.nodes k)).map fun j => (j, vget (s.gs k).ostCodes j 0)).filter fun x => x.2 != 0

/-- Complete every GDL_OST_RUN whose tests have all finished; DETAIL is the number of failing nodes. -/
def State.ostComplete (s : State) : State :=
  let ended := fun (x : Src × BitVec 16) => (bitsIn 16 x.2.toNat).all fun k => (s.gs k).ost != .running
  let ready := s.gdl.ostRuns.filter ended
  let s := { s with gdl := { s.gdl with ostRuns := s.gdl.ostRuns.filter fun x => !ended x } }
  ready.foldl (fun s (src, mask) =>
    s.done src 0x0802 ((bitsIn 16 mask.toNat).foldl (fun a k => a + (s.ostFails k).length) 0)) s

/-- A running test ends without a result. Its masks end, and a fault line that stands low is judged (R202, R226). -/
def State.ostAbort (s : State) (k : Nat) : State :=
  if (s.gs k).ost = .running then ((s.modGs k fun g => { g with ost := .none }).ostComplete).fltStanding k else s

/-- A test whose condition has lapsed runs no further and leaves no result (R207, log 60). -/
def State.ostGuard (s : State) (k : Nat) : State := if s.ostMay k then s else s.ostAbort k

/-! ### Clearing -/

/-- A stack is cleared: its causes empty, and it resumes at its engine's next boundary and its timebase's first zero after that
(R238, R239). One that has been cleared already goes on waiting for them. -/
def State.clearZone (s : State) (k : Nat) : State :=
  let tripped := (s.zone k).causes ≠ 0
  let runs := (s.tb k).run = .running
  let eng := match s.engineOf k with | some e => s.executes e | none => false
  (s.modZone k fun z => { z with
    causes := 0, props := 0, sources := [], resumeB := if tripped then runs && eng else z.resumeB
    resumeZ := if tripped then (if runs && !eng then some s.now else none) else z.resumeZ }).ostGuard k

/-- Clear the released stacks of a mask and count the refused ones. -/
def State.applyClear (s : State) (mask ok : Nat) : State :=
  let s := forNums (bitsIn 16 (mask &&& ok)) (fun k s => s.clearZone k) s
  forNums ((bitsIn 16 mask).filter fun k => !ok.testBit k) (fun k s => s.count .trpClrRefCnt k) s

/-- Take a request off the list, with its CLEAR_PEND marks where no other request names the stack. -/
def State.endClear (s : State) (src : Src) (mask : Nat) : State :=
  let s := { s with trp := { s.trp with clear := s.trp.clear.filter fun r => !(r.src == src) } }
  forNums (bitsIn 16 mask) (fun k s =>
    s.modZone k fun z => { z with clearPend := s.trp.clear.any fun r => r.mask.getLsbD k }) s

/-- Complete a clear request: OK, or CLEAR_REFUSED with the mask of refused stacks. -/
def State.finishClear (s : State) (src : Src) (mask ok : Nat) : State :=
  let refused := maskOf 16 fun k => mask.testBit k && !ok.testBit k
  if refused = 0 then s.done src 0x0602 else s.refuse src 0x0602 .clearRefused refused

/-- Does a Lichen pair judge clear requests jointly: the module is ACTIVE and its twin READY (R438)? -/
def State.jointly (s : State) : Bool := s.pair && s.twn.role && !s.lone

/-- Evaluate a clear request (R237, R238), as the CTL cycle of its instant ends: a cause of that cycle wins (Table TRP-2). The active module
of a pair sends its result as an item and keeps the request until its twin has judged the same stacks (R438). -/
def State.evalClear (s : State) (r : ClearReq) : State :=
  let ok := s.cleared r.mask.toNat r.links
  let tick := ctlTick s.now
  let s := s.advanceTo (tick + 1)
  let s := s.mirror r.src 0x0602 (leBytes 2 r.mask.toNat ++ leBytes 2 ok) 0
  if s.jointly then
    let refused := (bitsIn 16 r.mask.toNat).filter fun k => !ok.testBit k
    let s := forNums refused (fun k s => s.count .trpClrRefCnt k) s
    let r' := { r with joint := some (BitVec.ofNat 16 ok), evalAt := tick, rings := [], links := [] }
    { s with trp := { s.trp with clear := r' :: s.trp.clear.filter fun x => !(x.src == r.src) } }
  else ((s.applyClear r.mask.toNat ok).endClear r.src r.mask.toNat).finishClear r.src r.mask.toNat ok

/-- Has everything a request waits for happened? -/
def State.clearReady (s : State) (r : ClearReq) : Bool :=
  r.joint.isNone && (r.rings.all fun x => x.2 = some 0 || s.linkMode || !s.configured x.1 || s.nodes x.1 = 0)
    && r.links.all fun x =>
      (s.gs x.k).link != .trained || (s.tb x.k).run != .running || (x.clearSend = 0 && (x.clearWait = 0 || x.left = some 0))

/-- CLEAR is to be sent: to the nodes of every named stack with FLT or HARD_REPORT latched, in direct mode in its next ring cycle
(R237). In link mode a stack whose link is not TRAINED, or that has no edge frames, is sent none, and its nodes answer none. -/
def State.startClear (s : State) (c : Src) (mask : Nat) : State :=
  let faulty := (bitsIn 16 mask).filter fun k => (s.zone k).causes.getLsbD 3 || (s.zone k).causes.getLsbD 4
  let direct := if s.linkMode then [] else faulty.filter fun k => decide (k < 8) && s.configured k && decide (0 < s.nodes k)
  let link := fun k =>
    let all := BitVec.ofNat 12 (2 ^ s.nodes k - 1)
    let sends := (s.gs k).link = .trained && (s.tb k).run = .running && all != 0
    ({ k := k, clearSend := if sends then all else 0, clearWait := all, left := if sends then none else some 0 } : ClearLink)
  let r : ClearReq := { src := c, mask := BitVec.ofNat 16 mask, rings := direct.map fun k => (k, none)
                        links := if s.linkMode then faulty.map link else [] }
  if s.clearReady r then s.evalClear r
  else
    let s := { s with trp := { s.trp with clear := s.trp.clear ++ [r] } }
    forNums (bitsIn 16 mask) (fun k s => s.modZone k fun z => { z with clearPend := true }) s

/-! ### Commands and events -/

/-- An active TRIP_IN_i with ENABLE trips its stacks (Table TRP-1, Table TRP-9). -/
def State.tripInLatch (s : State) (i : Nat) : State :=
  if s.lvb .trpInCfg i 0 8 && s.tripActive i then
    forNums (bitsIn 16 (s.lv .trpInCfg i 0 31 16)) (fun k s => s.latch k 2 i 0) s
  else s

/-- The lands that stand active trip their stacks. -/
def State.tripInsStanding (s : State) : State := forNums (List.range 16) (fun i s => s.tripInLatch i) s

/-- A level of the land TRIP_IN_i is accepted by its filter. Where the land becomes active under POL it trips its stacks, and offers
itself to the acquisition units. -/
def execTripInActive (i : Fin 16) (level : Bool) (s : State) : Host.Outcome State Fault Refusal :=
  let was := s.tripActive i
  let s := { s with trp := { s.trp with
    tripIn := if level then s.trp.tripIn ||| BitVec.ofNat 16 (2 ^ i.val) else s.trp.tripIn &&& ~~~ BitVec.ofNat 16 (2 ^ i.val) } }
  if s.tripActive i && !was then
    .next ((s.tripInLatch i).acqOffer 5 s.tripClock (2 ^ i.val) fun u => s.acqSel u (16 + i))
  else .next s

/-- TRP_TRIP latches COMMAND in every named stack (R244, Table TRP-7). -/
def State.trpTrip (s : State) (c : Src) (p : Bytes) : State :=
  let mask := pf p 0 2
  if mask = 0 ∨ (bitsIn 16 mask).any fun k => !s.configured k then s.refuse c 0x0601 .checkFail 1
  else (forNums (bitsIn 16 mask) (fun k s => s.latch k 13 c.ring 0) s).done c 0x0601

def execTrpTrip (c : Src) (p : Bytes) (s : State) : Host.Outcome State Fault Refusal :=
  .next (s.obey c 0x0601 p fun s => s.trpTrip c p)

/-- TRP_CLEAR: a clear request under R237 and R238. -/
def execTrpClear (c : Src) (p : Bytes) (s : State) : Host.Outcome State Fault Refusal :=
  .next (s.obey c 0x0602 p fun s => s.startClear c (pf p 0 2))

/-- The evaluation instant of the oldest clear request that has nothing left to wait for. -/
def execClearEvaluation (s : State) : Host.Outcome State Fault Refusal :=
  match s.trp.clear.find? s.clearReady with
  | some r => .next (s.evalClear r)
  | none => .next s

/-- A read of TRP_REC_0 removes the head record and captures it; with the queue empty all four words read 0 (Table TRP-8). -/
def State.trpRecRead (s : State) : State :=
  { s with trp := { s.trp with recs := s.trp.recs.drop 1, captured := s.trp.recs.head? } }

/-- Word `w` of the captured trip record. -/
def State.trpRecWord (s : State) (w : Nat) : DWord :=
  match s.trp.captured with
  | some r => BitVec.ofNat 64 (pf r.bytes (4 * w) 4)
  | none => 0

def execTrpRecRead (s : State) : Host.Outcome State Fault Refusal :=
  let s := s.trpRecRead
  .next { s with bus := { s.bus with readData := s.trpRecWord 0 } }

/-- Set the trip clock (R240). -/
def State.setTripClock (s : State) (v : DWord) (byZero : Bool) : State :=
  { s with trp := { s.trp with clkVal := v, clkAt := s.now, clkByZero := byZero } }

/-- While DEC_REF_TB does not run, the trip clock is set at each whole microsecond of network time (R240). -/
def execTripClockNtSet (s : State) : Host.Outcome State Fault Refusal :=
  if (s.tb (s.lv .decCtrl 0 0 11 8)).run = .running then .next s
  else
    let v := s.nextMicro
    match s.ntReachFine v with
    | some t => .next ((s.advanceTo t).setTripClock (BitVec.ofNat 64 v) false)
    | none => .next s

end Sys2Proof.Machine
end

