-- ==== Sys2Proof/Machine/Pwm.lean ====
section
/-! DEFINITION. Pulse-width generation: timebases with their sources and realignments, loading of compares, edges, dead time and
the instants at which inner channels turn off (R160 to R195, R487). -/

namespace Sys2Proof.Machine

/-! ### Settings of a timebase -/

def State.tbP (s : State) (t : Nat) : Nat := s.lv .pwmPrd t 0 23 0
def State.tbTol (s : State) (t : Nat) : Nat := s.lv .pwmTol t 0 7 0
def State.slotOfs (s : State) : Nat := s.lv .pwmSlotOfs 0 0 23 0
def State.refTb (s : State) : Nat := s.lv .decCtrl 0 0 11 8

/-- A timebase takes its committed settings. -/
def State.tbSettings (s : State) (t : Nat) : State :=
  s.modTb t fun b => { b with
    prd := s.tbP t, dbl := s.lvb .pwmTbCtrl t 0 1, syncSrc := s.lv .pwmTbCtrl t 0 5 4
    syncOfs := s.lv .pwmSyncOfs t 0 23 0, setPend := false }

/-- A realignment in ns, or in units of 31.25 ps, rounded to the nearest whole number of modulator ticks, ties upwards (R190). -/
def State.toTicks (s : State) (units : Int) : Int :=
  if s.tmod = 0 then units else ((2 * units + s.tmod) / (2 * s.tmod)) * s.tmod

/-- A realignment is decided: it is applied to the period that begins at the next zero (R190). -/
def State.realign (s : State) (t : Nat) (units : Int) : State :=
  s.modTb t fun b => { b with nextDelta := some (s.toTicks units), aligning := true, outRun := 0 }

/-- Read e of R187 and judge it: IN_SYNC, PWM_PHERR_t and SLOT_ERR. -/
def State.slotError (s : State) (t : Nat) : Int × State :=
  let b := s.tb t
  let e := centred b.prd ((b.zeroNt.toNat : Int) - s.slotOfs - b.syncOfs)
  let out := decide (e.natAbs > s.tbTol t)
  let s := s.modTb t fun b => { b with
    phErr := e, inSync := !out, slotErr := if out then b.slotErr || s.clk.st != .locked else false }
  (e, s)

/-- An NT timebase at its zero: changes of the offset that apply to the period beginning now, the settings a commit changed
(R487), and the decision of R188. `fresh` says that P, DBL or SYNC_SRC changed, `moved` that only SYNC_OFS did. The zero at which a
realigned period begins counts for no decision (log 21). -/
def State.ntZero (s : State) (t : Nat) (busy fresh : Bool) (moved : Option Int) : State :=
  let (e, s) := s.slotError t
  let out := e.natAbs > s.tbTol t
  match moved with
  | some d => s.realign t (32 * d)
  | none =>
    if fresh then (if out then s.realign t (-32 * e) else s)
    else if busy then s.modTb t fun b => { b with outRun := 0 }
    else if out ∧ s.clk.st = .locked then
      if 1 ≤ (s.tb t).outRun then s.realign t (-32 * e) else s.modTb t fun b => { b with outRun := 1 }
    else s.modTb t fun b => { b with outRun := 0 }

/-- The zero of a CHAIN source seen by a follower: the source's realignment is taken over (R192), and the distance between the
follower's zeros and the source's is judged (R183). -/
def State.follow (s : State) (f src : Nat) (delta : Int) : State :=
  let b := s.tb f
  if b.run = .running ∧ b.syncSrc = 1 ∧ ¬ b.setPend then
    let s := if delta = 0 then s else s.modTb f fun b => { b with nextDelta := some delta, aligning := true }
    let d := centred (32 * b.prd) (((s.tb src).zeroAt : Int) + 32 * b.syncOfs - b.zeroAt - b.len)
    let out := decide (d.natAbs > 32 * s.tbTol f)
    let s := s.modTb f fun b => { b with phErr := d / 32, inSync := !out }
    if out && delta = 0 && !b.aligning then s.realign f d else s
  else s

/-- A zero of a running timebase at the present instant: the period that ends, the settings and realignments that the new one
takes, and what follows the zero (R162, R184, R187 to R192, R240, R487). A period that a realignment by whole modulator ticks would end
off a CTL tick ends at the next one (R486; log 21). -/
def State.tbZero (s : State) (t : Nat) : State :=
  let old := s.tb t
  let s := s.modTb t fun b => { b with zeroAt := s.now, zeroNt := s.ntFine, half := false }
  let s := if old.realigning then
      let s := (s.count .pwmRealignCnt t).modTb t fun b => { b with aligning := b.nextDelta.isSome }
      if t = s.refTb then s.dumpAlign else s
    else s
  let s := if old.setPend then s.tbSettings t else s
  let b := s.tb t
  let isNt := b.syncSrc = 2
  let same := old.prd = b.prd ∧ old.dbl = b.dbl ∧ old.syncSrc = b.syncSrc
  let slotDelta := if isNt then s.toTicks (32 * centred b.prd ((s.slotOfs : Int) - old.slotSeen)) else 0
  let slotMoved := isNt && s.slotOfs != old.slotSeen
  let delta := slotDelta + old.nextDelta.getD 0
  let begins := slotMoved || old.nextDelta.isSome
  let s := s.modTb t fun b => { b with
    len := ctlTick (32 * (b.prd : Int) + delta).toNat, nextDelta := none, realigning := begins, aligning := begins
    slotSeen := s.slotOfs }
  let s := if isNt then
      s.ntZero t begins (old.setPend && !same)
        (if old.setPend ∧ same ∧ old.syncOfs ≠ b.syncOfs then some (centred b.prd ((b.syncOfs : Int) - old.syncOfs)) else none)
    else s
  let s := if t + 1 < 16 then s.follow (t + 1) t delta else s
  let s := if t = s.refTb then s.setTripClock (s.tb t).zeroNt true else s
  if s.lvb .pwmSyncCtrl 0 0 8 && s.lv .pwmSyncCtrl 0 0 3 0 = t then
    { s with pwm := { s.pwm with syncOut := true, syncOutAt := s.now } }
  else s

/-- The level of SYNC_OUT: high for 100 ns from a zero of OUT_TB on (R184). -/
def State.syncOutLevel (s : State) : Bool := s.pwm.syncOut && decide (s.now < s.pwm.syncOutAt + 3200)

/-- A WAITING timebase runs from its first zero on, at the present instant; `nt` is the NT value of that zero where its source
fixes it. -/
def State.tbStart (s : State) (t : Nat) (nt : Option DWord) : State :=
  let s := s.tbSettings t
  let s := s.modTb t fun b => { b with
    run := .running, zeroAt := s.now, zeroNt := nt.getD s.ntFine, half := false, len := 32 * b.prd, nextDelta := none
    aligning := false, realigning := false, outRun := 0, slotErr := false, inSync := true, phErr := 0, slotSeen := s.slotOfs
    stopPend := false }
  let s := if t = s.refTb then (s.setTripClock (s.tb t).zeroNt true).dumpAlign else s
  let s := if t + 1 < 16 then s.follow (t + 1) t 0 else s
  if s.lvb .pwmSyncCtrl 0 0 8 && s.lv .pwmSyncCtrl 0 0 3 0 = t then
    { s with pwm := { s.pwm with syncOut := true, syncOutAt := s.now } }
  else s

/-- The instant of a WAITING timebase's first zero, and its NT value where the source is network time (Table PWM-6, R182, R185);
none while its source has no zero yet. A zero of SYNC_IN is known only IN_COMP after it: where its follower's own zero has passed by then,
the first one is that of the next period of the source. -/
def State.firstZeroAt (s : State) (t : Nat) : Option (Nat × Option DWord) :=
  let b := s.tb t
  match s.lv .pwmTbCtrl t 0 5 4 with
  | 0 => some (b.startAt, none)
  | 1 =>
    let ofs := 32 * s.lv .pwmSyncOfs t 0 23 0
    if t = 0 then
      match s.pwm.srcZero with
      | some z =>
        let p := 32 * s.tbP 0
        if b.startAt ≤ z + ofs then some (z + ofs + (s.now - (z + ofs) + p - 1) / p * p, none) else none
      | none => none
    else
      let src := s.tb (t - 1)
      if src.run = .running then
        some (if b.startAt ≤ src.zeroAt + ofs then src.zeroAt + ofs else src.zeroAt + ofs + src.len, none)
      else none
  | _ =>
    let a := s.advanceTo (b.startAt + 320000)
    let p := s.tbP t
    let slot := a.ntFine.toNat + (((s.slotOfs : Int) + s.lv .pwmSyncOfs t 0 23 0 - a.ntFine.toNat) % (p : Int)).toNat
    (a.ntReachFine slot).map fun at_ => (at_, some (BitVec.ofNat 64 slot))

/-! ### Commits and timebases (R195, R487) -/

/-- What a commit at the present instant does to a timebase: start, stop, or new settings from the next zero on. -/
def State.tbCommit (s : State) (t : Nat) : State :=
  let b := s.tb t
  if s.lvb .pwmTbCtrl t 0 0 then
    match b.run with
    | .stopped => (s.tbSettings t).modTb t fun b => { b with run := .waiting, startAt := ctlTick s.now, stopPend := false }
    | .waiting => s.tbSettings t
    | .running =>
      let changed := b.prd ≠ s.tbP t ∨ b.dbl ≠ s.lvb .pwmTbCtrl t 0 1 ∨ b.syncSrc ≠ s.lv .pwmTbCtrl t 0 5 4
        ∨ b.syncOfs ≠ s.lv .pwmSyncOfs t 0 23 0
      s.modTb t fun b => { b with
        stopPend := false, setPend := changed, aligning := b.aligning || (b.syncSrc = 2 && s.slotOfs != b.slotSeen) }
  else
    match b.run with
    | .stopped => s
    | .waiting => s.modTb t fun b => { b with run := .stopped }
    | .running => s.modTb t fun b => { b with stopPend := true }

/-- A channel takes its pending compares, and its pull-in state clears, as at every load point (R35, R165, Table PWM-5). -/
def State.takeCompares (s : State) (n : Nat) : State :=
  s.modChan n fun c => { c with
    cmpA := c.pendA.getD c.cmpA, cmpB := c.pendB.getD c.cmpB, pendA := none, pendB := none, pulled := false }

/-- A running timebase stops at the present load point: its channels load, have no further edges and are off. -/
def State.tbStop (s : State) (t : Nat) : State :=
  let s := forNums (stackChans t) (fun n s => s.takeCompares n) s
  let s := s.modTb t fun b => { b with
    run := .stopped, half := false, nextDelta := none, aligning := false, realigning := false, stopPend := false, setPend := false
    inSync := false, slotErr := false }
  s.forceLows (stackChans t) s.now

/-! ### Loading the channels -/

/-- Does a stack's timebase hold the all-off set: outside ARMED and RUNNING, without an executing engine (R66, R69), and while the
hold-up of a module that has lost VIN turns its stacks off (R468)? A module that holds its compares for its twin does not (R441). -/
def State.allOff (s : State) (k : Nat) : Bool :=
  s.twn.haltHold.isNone && (!(s.ops.st = .armed || s.ops.st = .running) || (!s.ops.vinOk && !s.twn.silent)
    || !(match s.engineOf k with | some e => s.executes e | none => false))

/-- Does stage 1 deliver whole-period off on a channel (R66, R167, R169, R193, R211, R441)? -/
def State.stageOneOff (s : State) (n : Nat) : Bool :=
  let k := n / 12
  s.allOff k || !s.lvb .pwmChEn k 0 (n % 12) || (s.twn.haltHold.isNone && s.linkMode && (s.gs k).link != .trained)

/-- The all-off set: no rising edge, and a falling one at the zero (Table PWM-1). -/
def noEdge : BitVec 29 := 0x1FFFFFFF

/-- The level a force gives a channel, if any (R167). -/
def State.forceOf (s : State) (n : Nat) : Option Bool :=
  match s.lv .pwmForce (n / 12) 0 (2 * (n % 12) + 1) (2 * (n % 12)) with
  | 1 => some false
  | 2 => if s.ops.st = .running then some true else none
  | _ => none

/-- A falling edge in the tail that a shortened period loses executes at the zero that ends it, as that zero's loads do; other edges of
the period are over (R191). -/
def State.tailEdges (s : State) (n : Nat) : State :=
  let c := s.chan n
  let b := s.tb (n / 12)
  let s := if c.dueB && namesEdge b.prd c.cmpB && decide (b.len ≤ c.cmpB.toNat) && c.req then
      s.modChan n fun c => { c with req := false, dropped := false, openAt := none }
    else s
  s.modChan n fun c => { c with dueA := false, dueB := false }

/-- Is a channel in an off sequence of stage 1, in which the compares load as ever and only falling edges execute (R169)? -/
def Chan.inOffOne (c : Chan) : Bool := c.offSeq.isSome && c.offOne

/-- The words of a channel at a load point, `ofs` units into the period: pending compares, or the all-off set, become live, pull-in state
clears, the force is taken, and the edges that are still to come in the period fall due (R35, R69, R164 to R167, R169). -/
def State.loadWords (s : State) (n ofs : Nat) : State :=
  let c := s.chan n
  let one := c.inOffOne
  let idle := s.allOff (n / 12) && !one
  let off := !one && s.stageOneOff n
  let a := if idle then noEdge else c.pendA.getD c.cmpA
  let b := if idle then 0 else c.pendB.getD c.cmpB
  let p := (s.tb (n / 12)).prd
  let coming := fun (u : BitVec 29) (due : Bool) => namesEdge p u && a != b && (decide (ofs ≤ u.toNat) || due)
  let force := if one || off then none else s.forceOf n
  let edges := !off && force.isNone
  s.modChan n fun c => { c with
    cmpA := a, cmpB := b, pendA := none, pendB := none, pulled := false, force := force
    dueA := edges && !one && coming a (c.dueA && c.pendA.isNone && !idle)
    dueB := edges && coming b (c.dueB && c.pendB.isNone && !idle) }

/-- Has a falling edge of the tail ended a channel's request at this zero, so that its level is to follow (R191)? -/
def Chan.tailFell (c : Chan) : Bool := c.lvl && !c.req && !c.dropped

/-- The level of a channel at a load point, once every channel's words are loaded: whole-period off and forces act (R167, R169). -/
def State.loadLevel (s : State) (n : Nat) : State :=
  let s := if (s.chan n).tailFell then s.lvlOff n s.now else s
  let c := s.chan n
  if c.inOffOne then s
  else if s.stageOneOff n then
    if c.req || c.lvl || c.out then s.forceLow n s.now
    else s.modChan n fun c => { c with hold := true, dropped := false, openAt := none }
  else
    let s := if c.hold && (c.req || c.lvl || c.out) then
        (s.forceLow n s.now).modChan n fun x => { x with dueA := c.dueA, dueB := c.dueB, force := c.force }
      else s
    let s := s.modChan n fun c => { c with hold := false }
    match c.force with
    | some false =>
      let s := s.modChan n fun c => { c with req := false, openAt := none, dropped := false }
      if (s.chan n).lvl then s.lvlOff n s.now else s
    | some true =>
      let s := s.modChan n fun c => { c with req := true, openAt := none, dropped := false }
      if (s.chan n).lvl then s.riseAgain n s.now else s.lvlOn n s.now
    | none => s

/-- Does a channel's request end at a load point: in the removed tail, by whole-period off or by FORCE_OFF? -/
def State.offAtLoad (s : State) (n : Nat) : Bool :=
  (s.chan n).tailFell || (!(s.chan n).inOffOne && (s.stageOneOff n || s.forceOf n == some false))

/-- A list of channels at a load point: all words load before any level changes, and the requests that end there end before others
begin, so that none of them overlaps with one that begins (R176, R177). -/
def State.loadList (s : State) (l : List Nat) (ofs : Nat) : State :=
  let off := s.offAtLoad
  let s := forNums l (fun n s => s.loadWords n ofs) (s.overlapsGone off l)
  forNums (l.filter off ++ l.filter fun n => !off n) (fun n s => s.loadLevel n) s

/-- The twelve channels of a timebase at a load point. -/
def State.loadChans (s : State) (t ofs : Nat) : State := s.loadList (stackChans t) ofs

/-- Every timebase holds the all-off set, as it does outside ARMED and RUNNING (R69). -/
def State.allOffSets (s : State) : State :=
  forNums (List.range 192) (fun n s => s.modChan n fun c => { c with
    cmpA := noEdge, cmpB := 0, pendA := none, pendB := none, dueA := false, dueB := false }) s

/-- The channels of a cleared stack follow stage 1 again: what a trip has abandoned turns on again where the request stands, and GCs that
stage 6 has held may rise (R239). -/
def State.stackBack (s : State) (k : Nat) : State :=
  forNums (stackChans k) (fun n s => (s.riseAgain n s.now).tryRise n s.now) s

/-! ### Commands -/

/-- A live compare instant is reached (R164). -/
def execCompareEdge (n : Fin 192) (rising : Bool) (s : State) : Host.Outcome State Fault Refusal :=
  let c := s.chan n
  let b := s.tb (n / 12)
  let u := if rising then c.cmpA else c.cmpB
  if b.run = .running && (if rising then c.dueA else c.dueB) && decide (u.toNat < b.len) then
    let s := s.advanceTo (b.zeroAt + u.toNat)
    .next (if rising then s.risingEdge n else s.fallingEdge n)
  else .next s

/-- The dead time of a waiting rising edge has run (R170). -/
def execDeadTimeExpiry (n : Fin 192) (s : State) : Host.Outcome State Fault Refusal :=
  match (s.chan n).wait with
  | some w => .next ((s.advanceTo w).expireWait n)
  | none => .next s

/-- T_IO after the start of a turn-off the inner channels turn off (R193, R231, R381). -/
def execInnerTurnOff (k : Fin 16) (s : State) : Host.Outcome State Fault Refusal :=
  match (stackChans k).filterMap fun n => (s.chan n).offSeq with
  | [] => .next s
  | x :: rest => .next ((s.advanceTo (rest.foldl min x)).innerOff k)

/-- A SYNC_IN pulse (R185, R186), seen at the 1 ns sample that follows its edge: a pulse within TOL of its expected instant keeps timebase 0
in sync; one outside counts, and a second one at the same instant in the next period makes the timebase realign. -/
def State.syncPulse (s : State) : State :=
  let s := s.count .pwmSyncInCnt
  let src := ctlTick s.now - 32 * s.lv .pwmSyncCtrl 0 0 25 16
  let s := { s with pwm := { s.pwm with srcZero := some src } }
  let b := s.tb 0
  if b.run = .running ∧ b.syncSrc = 1 then
    let d := centred (32 * b.prd) ((src : Int) + 32 * b.syncOfs - b.zeroAt - b.len)
    let target := ((src : Int) + 32 * b.syncOfs - d).toNat
    let tol := 32 * s.tbTol 0
    let s := s.modTb 0 fun b => { b with phErr := d / 32, inSync := decide (d.natAbs ≤ tol) }
    if d.natAbs ≤ tol then { s with pwm := { s.pwm with goodZero := some target } }
    else
      let s := s.count .pwmSyncMissCnt 0
      let again := s.pwm.strays.any fun x => decide ((d - x.1).natAbs ≤ tol) && x.2 + b.len == target
      let s := { s with pwm := { s.pwm with
        strays := (d, target) :: s.pwm.strays.filter fun x => x.2 == target || x.2 + b.len == target } }
      if again && !b.aligning then s.realign 0 d else s
  else s

def execSyncInPulse (s : State) : Host.Outcome State Fault Refusal := .next s.syncPulse

/-- A period without a SYNC_IN pulse within TOL counts once (R186). -/
def execSyncInMiss (s : State) : Host.Outcome State Fault Refusal :=
  let b := s.tb 0
  if b.run = .running ∧ b.syncSrc = 1 ∧ s.pwm.goodZero ≠ some b.zeroAt ∧ s.pwm.missZero ≠ some b.zeroAt then
    let s := { s with pwm := { s.pwm with missZero := some b.zeroAt } }
    .next ((s.count .pwmSyncMissCnt 0).modTb 0 fun b => { b with inSync := false })
  else .next s

end Sys2Proof.Machine
end

