-- ==== Sys2Proof/Machine/Gates.lean ====
section
/-! DEFINITION. Gate-drive links: the acknowledgement handshake, fault lines, status rings, off-state tests, link training and the
frames of Zwiex links (R197 to R222). -/

namespace Sys2Proof.Machine

/-! ### The handshake (R197 to R201) -/

/-- The instants of the echo pulses of an off-state test: 2.16 ms after its start, 10 µs for each node, high for 5 µs
(Table GDL-5, step 5). The node whose GC is high at the present instant. -/
def State.echoNode (s : State) (k : Nat) : Option Nat :=
  let g := s.gs k
  let from_ := g.ostAt + 69120000
  if g.ost = .running && !s.linkMode && decide (from_ ≤ s.now) && decide ((s.now - from_) % 320000 < 160000) then
    let j := (s.now - from_) / 320000
    if j < s.nodes k then some j else none
  else none

/-- The first result code of a node stands. -/
def GdlStack.ostCode (g : GdlStack) (j code : Nat) : GdlStack :=
  if vget g.ostCodes j 0 = 0 then { g with ostCodes := vset g.ostCodes j code } else g

/-- A GA level that rises while a test drives a GC: its own echo, or another node's (ECHO_CROSS). -/
def State.echo (s : State) (n : Nat) (level : Bool) : State :=
  match s.echoNode (n / 12) with
  | some j =>
    if !level then s
    else if j = n % 12 then s.modGs (n / 12) fun g => { g with ostEcho := g.ostEcho ||| BitVec.ofNat 12 (2 ^ j) }
    else s.modGs (n / 12) fun g => g.ostCode j 7
  | none => s

/-- GA_FILT in units of 31.25 ps. -/
def State.gaFilt (s : State) : Nat := 320 * s.lv .gdlCtrl 0 0 20 16

/-- The level of a GC land: what the channel path drives, and the echo pulses of a test (Table GDL-5). -/
def State.gcLand (s : State) (n : Nat) : Bool := (s.chan n).gc || s.echoNode (n / 12) == some (n % 12)

/-- GA accepts a level and thereby confirms a state (R198): a low GA with a low GC confirms off, and the partner's waiting GC may
rise (R199). A level that differs from GC outside an interval of R200 does so from now on (R201). -/
def State.gaAccept (s : State) (n : Nat) (level : Bool) : State :=
  let s := s.echo n level
  let s := s.modChan n fun c => { c with
    ga := level
    gaOff := if !level && !c.gc then true else if level then false else c.gaOff
    ackDue := if level == c.gc then none else c.ackDue
    diffAt := if level == c.gc || c.ackDue.isSome then none else c.diffAt.or (some s.now) }
  if level then s else s.tryRise (partner n) s.now

/-- A level of GA_n is accepted; after an edge of GC it confirms the new state GA_FILT after that edge at the soonest (R198). -/
def execGaConfirm (n : Fin 96) (level : Bool) (s : State) : Host.Outcome State Fault Refusal :=
  if s.linkMode then .next s
  else
    let c := s.chan n
    let s := if level == c.gc && c.ackDue.isSome then s.advanceTo (c.gcAt + s.gaFilt) else s
    .next (s.gaAccept n level)

/-- No confirmation within ACK_TO of a GC edge (R200, Table GDL-1): it counts, and trips a stack that is not tripped. In link mode the
levels of the lands are the interface's. -/
def State.ackLate (s : State) (n t : Nat) : State :=
  let k := n / 12
  let s := s.modChan n fun c => { c with ackDue := none, diffAt := if s.linkMode || c.ga == c.gc then none else some t }
  let s := (s.count .gdlAckToCnt k).modGs k fun g => { g with ackLost := true }
  if (s.zone k).causes = 0 then s.gdlTrip k 2 5 (n % 12) (n % 12 / 4) else s

def execAckTimeout (n : Fin 96) (s : State) : Host.Outcome State Fault Refusal :=
  match (s.chan n).ackDue with
  | some t => .next ((s.advanceTo t).ackLate n t)
  | none => .next s

/-- The confirmation of one channel's turn-off, where it is overdue. -/
def State.ackJudge (s : State) (n : Nat) : State :=
  match (s.chan n).ackDue with
  | some t => if t ≤ s.now then s.ackLate n t else s
  | none => s

/-- Confirmations of a turn-off in link mode that are overdue (R382). -/
def State.ackOverdue (s : State) : State :=
  if s.linkMode then forNums (List.range 192) (fun n s => s.ackJudge n) s else s

/-- GA has differed from its GC for longer than ACK_TO outside an interval that R200 times (R201). -/
def execAckMismatch (n : Fin 96) (s : State) : Host.Outcome State Fault Refusal :=
  match (s.chan n).diffAt with
  | some t =>
    if s.linkMode then .next s
    else
      let s := s.advanceTo (t + s.ackTo + 1)
      .next (s.gdlTrip (n / 12) 3 6 (n % 12) (n % 12 / 4))
  | none => .next s

/-- The readback of a GC land has differed from its driven level for 50 ns, or agrees again (Table GDL-13). -/
def execGcFault (n : Fin 96) (differs : Bool) (s : State) : Host.Outcome State Fault Refusal :=
  if s.linkMode then .next s
  else
    let s := s.modChan n fun c => { c with gcDiff := differs }
    if differs then .next (s.gdlTrip (n / 12) 4 7 (n % 12) (n % 12 / 4)) else .next s

/-- FLT_N_s held low, or high again, for FLT_FILT (R202). -/
def execFltTrip (k : Fin 8) (low : Bool) (s : State) : Host.Outcome State Fault Refusal :=
  if s.linkMode then .next s
  else
    let s := s.modGs k fun g => { g with fltLow := low }
    if low then .next (s.gdlTrip k 0 3 0 0) else .next s

/-! ### Driver words (R203 to R206) -/

/-- Does a status word carry a good CRC (R204), and does it name its node? -/
def drvCrcOk (w : Word) : Bool := crc8 ((leBytes 4 w.toNat).reverse.take 3) = w.toNat % 256
def drvNode (w : Word) : Nat := w.toNat / 2 ^ 28

/-- SC_HARD, UV_POS or UV_NEG. -/
def drvHard (w : Word) : Bool := w.getLsbD 24 || w.getLsbD 27 || w.getLsbD 26

/-- A good word of a node: hard reports, and soft reports, which count when they appear (R205, log 22). -/
def State.drvGood (s : State) (k j : Nat) (old w : Word) : State :=
  let bit := BitVec.ofNat 12 (2 ^ j)
  let s := s.modGs k fun g => { g with
    hardNodes := if drvHard w then g.hardNodes ||| bit else g.hardNodes &&& ~~~ bit }
  let soft := (w.getLsbD 25 && !old.getLsbD 25) || (w.getLsbD 23 && !old.getLsbD 23)
  let s := if soft then (s.count .gdlSoftCnt k).note 11 3 (12 * k + j) (leBytes 4 w.toNat) else s
  if drvHard w then s.gdlTrip k 1 4 j 0 else s

/-- The latest word of node j (R206), in GDL_DRV_n. -/
def State.drvWord (s : State) (k j : Nat) (w : Word) : State :=
  let old := vget (s.gs k).good j 0
  let s := s.setRegN .gdlDrv (12 * k + j) 0 w.toNat
  if drvCrcOk w && drvNode w = j then (s.modGs k fun g => { g with good := vset g.good j w }).drvGood k j old w else s

/-- A command word of the ring (Table GDL-3). -/
def ringWord (node cmd arg : Nat) : Word :=
  let w := node * 2 ^ 28 + cmd * 2 ^ 24 + arg % 256 * 2 ^ 16
  BitVec.ofNat 32 (w + crc8 ((leBytes 4 w).reverse.take 3))

/-- The command of a test to a node in its ring cycle `i` (Table GDL-5). -/
def ostRingCmd (i j nodes : Nat) : Option Nat :=
  if i = 0 then some 2 else if i = 51 then some 3 else if i = 53 then some 4 else if i = 58 then some 5
  else if i = 59 + 2 * j ∧ j < nodes then some 6 else if i = 82 then some 8 else none

/-- The command words of the ring cycle that begins, last node first: those of a test, which at its end (`ended`) sends OST_END, CLEAR
for a clear request that waits to send it, and otherwise POLL with the BLANK code (R203, R208, R237, log 12). -/
def State.ringNext (s : State) (k : Nat) (ended : Bool) : State :=
  let g := s.gs k
  let n := s.nodes k
  let test := fun j => if ended then some 8 else if g.ost = .running then ostRingCmd g.ostCycle j n else none
  let busy := (List.range n).any fun j => (test j).isSome
  let clear := !busy && s.trp.clear.any fun r => r.rings.contains (k, none)
  let word := fun j => match test j with
    | some c => ringWord j c 0
    | none => if clear then ringWord j 7 0 else ringWord j 0 (s.lv .gdlStkCfg k 0 21 16)
  let s := s.modGs k fun g => { g with ringCmd := (List.range n).reverse.map word }
  if clear then
    { s with trp := { s.trp with clear := s.trp.clear.map fun r =>
        { r with rings := r.rings.map fun x => if x = (k, none) then (k, some 3) else x } } }
  else s

/-! ### Off-state tests (R207 to R209) -/

/-- The sources that stand are evaluated (R224): lands, fault lines and readbacks, comparators that are active, and stuck runs. -/
def State.tripsStanding (s : State) : State :=
  let s := s.tripInsStanding
  let s := forNums ((List.range 16).filter s.configured) (fun k s => s.fltStanding k) s
  let s := forNums ((List.range 96).filter fun n => !s.linkMode && (s.chan n).gcDiff) (fun n s =>
    s.gdlTrip (n / 12) 4 7 (n % 12) (n % 12 / 4)) s
  forNums ((List.range 160).filter s.chanActive) (fun c s =>
    let s := if (s.dec c).cmpActive && s.lv .trpCmpCfg c 0 1 0 = 1 then s.latch (s.cmpStack c) 0 c (s.cmpPhase c) else s
    if (s.dec c).stuck && s.lvb .decSrc c 0 12 then s.latch (s.cmpStack c) 11 c (s.cmpPhase c) else s) s

/-- Start the test of a stack; a test that runs goes on. The earlier result is gone (R209), and in direct mode a ring cycle with
OST_INJECT begins. -/
def State.ostBegin (s : State) (k : Nat) : State :=
  if (s.gs k).ost = .running then s
  else
    let s := (s.modGs k fun g => { g with
      ost := .running, ostAt := s.now, ostCodes := Vector.replicate 12 0, ostCycle := 0, ostEcho := 0, ostSeen := 0
      ostSend := BitVec.ofNat 12 (2 ^ s.nodes k - 1) }).setRegN .gdlOstRes k 0 0
    if s.linkMode then s else s.ringNext k false

/-- The end of a test: results to GDL_OST_RES_s, PASSED or FAILED, and an end of the masks of R226. DESIGN CHOICE: with 12 nodes the last
ring cycle is an assertion, whose low line OST_END ends; it is judged once the cycle with OST_END has ended (log 60). -/
def State.ostFinish (s : State) (k : Nat) : State :=
  let fails := s.ostFails k
  let res := match fails with
    | [] => 0
    | (j, code) :: _ => fails.length * 2 ^ 16 + j * 2 ^ 8 + code
  let tail := !s.linkMode && decide (s.nodes k = 12)
  let s := s.modGs k fun g => { g with ost := if fails = [] then .passed else .failed, ostTail := tail }
  let s := (s.setRegN .gdlOstRes k 0 res).ostComplete
  if tail then s else s.fltStanding k

/-- The cycle with OST_END has ended, and a fault line that is still low is judged. -/
def State.ostTailEnd (s : State) (k : Nat) : State :=
  if (s.gs k).ostTail then (s.modGs k fun g => { g with ostTail := false }).fltStanding k else s

/-- The result that the word of a node brings (Table GDL-6). A word must not carry a code above 0xB; the failure it then counts as is a
free value (log 60). -/
def State.testCode (s : State) (k j : Nat) (w : Option Word) : State :=
  match w with
  | none => s.modGs k fun g => g.ostCode j 4
  | some w =>
    if !drvCrcOk w then s.modGs k fun g => g.ostCode j 4
    else if drvNode w ≠ j then s.modGs k fun g => g.ostCode j 5
    else if nbits w.toNat 19 16 ≤ 11 then s.modGs k fun g => g.ostCode j (nbits w.toNat 19 16)
    else
      let (i, s) := s.draw
      s.modGs k fun g => g.ostCode j (1 + Config.freeNat i % 11)

/-- What one ring cycle of a test gives (Table GDL-5): the words returned after OST_REPORT, the echoes once their part has
passed, and the fault line in the assertion and release cycles. -/
def State.ostRingCycle (s : State) (k : Nat) (words : List Word) : State :=
  let g := s.gs k
  let i := g.ostCycle
  let nodes := List.range (s.nodes k)
  let s := if i = 52 then forNums nodes (fun j s => s.testCode k j words[j]?) s else s
  let s := if i = 57 then
      forNums nodes (fun j s => if g.ostEcho.getLsbD j then s else s.modGs k fun g => g.ostCode j 6) s
    else s
  let m := (i - 59) / 2
  let s := if 59 ≤ i ∧ m < s.nodes k then
      if (i - 59) % 2 = 0 then (if g.fltLow then s else s.modGs k fun g => g.ostCode m 8)
      else (if g.fltLow then s.modGs k fun g => g.ostCode m 9 else s)
    else s
  let s := s.modGs k fun g => { g with ostCycle := i + 1 }
  if i + 1 = 82 then s.ostFinish k else s

/-- The stacks of a mask that may run their test start it. -/
def State.ostStart (s : State) (mask : Nat) : State :=
  forNums ((bitsIn 16 mask).filter s.ostMay) (fun k s => s.ostBegin k) s

/-- The stacks whose test runs, or whose link trains. -/
def State.ostMask (s : State) : Nat := maskOf 16 fun k => (s.gs k).ost = .running
def State.trainMask (s : State) : Nat := maskOf 16 fun k => (s.gs k).link = .training

/-- A write to GDL_OST_START: its bits stand until their tests have finished. -/
def State.ostWrite (s : State) (mask : Nat) : State :=
  let may := maskOf 16 fun k => mask.testBit k && s.ostMay k
  (s.setRegN .gdlOstStart 0 0 (((s.reg .gdlOstStart).toNat &&& s.ostMask) ||| may)).ostStart mask

def execGdlOstStart (mask : BitVec 16) (s : State) : Host.Outcome State Fault Refusal := .next (s.ostWrite mask.toNat)

/-- GDL_OST_RUN (Table GDL-14): every named stack's test, or ERROR 1 and no change. -/
def State.ostRun (s : State) (c : Src) (p : Bytes) : State :=
  let mask := pf p 0 2
  if (bitsIn 16 mask).all s.ostMay then
    let s := (s.setRegN .gdlOstStart 0 0 ((s.reg .gdlOstStart).toNat &&& s.ostMask)).ostStart mask
    { s with gdl := { s.gdl with ostRuns := s.gdl.ostRuns ++ [(c, BitVec.ofNat 16 mask)] } }.ostComplete
  else s.refuse c 0x0802 .error 1

def execGdlOstRun (c : Src) (p : Bytes) (s : State) : Host.Outcome State Fault Refusal :=
  .next (s.obey c 0x0802 p fun s => s.ostRun c p)

/-! ### The status ring -/

/-- A node's word in a ring cycle: its runs of bad and good words. -/
def State.nodeWord (s : State) (k j : Nat) (w : Option Word) : State :=
  let good := match w with | some w => drvCrcOk w && drvNode w = j | none => false
  let s := s.modGs k fun g => { g with
    badRun := vset g.badRun j (if good then 0 else vget g.badRun j 0 + 1)
    goodRun := vset g.goodRun j (if good then vget g.goodRun j 0 + 1 else 0) }
  match w with
  | some w => s.drvWord k j w
  | none => s

/-- Ring cycles count for the clear requests that wait for them (R237). -/
def State.ringForClear (s : State) (k : Nat) : State :=
  { s with trp := { s.trp with clear := s.trp.clear.map fun r =>
      { r with rings := r.rings.map fun x => if x.1 = k then (k, x.2.map (· - 1)) else x } } }

/-- A status-ring cycle completes, and the next one begins with its command words (R203 to R206). In a running test it ends at its
instant of Table GDL-5. -/
def State.ringCycle (s : State) (k : Nat) (words : List Word) : State :=
  let s := s.ostGuard k
  let g := s.gs k
  let test := g.ost = .running
  let s := if test then s.advanceTo (g.ostAt + 1280000 * (g.ostCycle + 1)) else s
  let nodes := List.range (s.nodes k)
  let s := forNums nodes (fun j s => s.nodeWord k j words[j]?) s
  let third := nodes.filter fun j => vget (s.gs k).badRun j 0 = 3
  let s := match third with
    | [] => s
    | j :: _ =>
      let s := (s.modGs k fun g => { g with dsr := .fault }).setFlag .gdlFault k 5
      let s := s.logFlag 11 5 (s.reg .gdlFault k)
      if s.ops.st = OpState.armed ∨ s.ops.st = OpState.running then s.latch k 8 j 0 else s
  let allGood := nodes.all fun j => decide (3 ≤ vget (s.gs k).goodRun j 0)
  let s := s.modGs k fun g => { g with
    dsr := match g.dsr with | .off => .ok | .fault => if allGood then .ok else .fault | .ok => .ok }
  let s := if test then s.ostRingCycle k words else s.ostTailEnd k
  (s.ringForClear k).ringNext k (test && (s.gs k).ost != .running)

def execDsrRingCycle (k : Fin 8) (words : List Word) (s : State) : Host.Outcome State Fault Refusal :=
  if !s.linkMode && s.configured k && decide (0 < s.nodes k) then .next (s.ringCycle k words) else .next s

/-! ### Link training (R211 to R214) -/

/-- TS1 with the number of a stack: K28.5, D21.5, D10.2, STACK_ID (Table GDL-7). -/
def ts1 (k : Nat) : List LinkChar := [.k 0xBC, .d 0xB5, .d 0x4A, .d (BitVec.ofNat 8 k)]

/-- The character that the link of a stack carries at an instant (R210, Table GDL-7): what has been sent; while the link trains, TS1 over
and over for 250 µs and then the echo exchanges, whose characters the spec does not give (log 12); otherwise idle, K28.5 D5.6. -/
def State.lineChar (s : State) (k at_ : Nat) : LinkChar :=
  let g := s.gs k
  let sent := match g.line.find? fun x => decide (x.1 ≤ at_) with
    | some (t, cs) => cs[(at_ - t) / 256]?
    | none => none
  match sent with
  | some c => c
  | none =>
    if g.link = .training then
      if at_ < g.trainAt + 8000000 then lget (ts1 k) ((at_ - g.trainAt) / 256 % 4) (.k 0xBC) else .d (Config.echoChar k at_)
    else if at_ / 256 % 2 = 0 then .k 0xBC else .d 0xC5

/-- A stack whose link leaves TRAINED receives no further CLEAR, and holds up no clear request (R237). -/
def State.dropClears (s : State) (k : Nat) : State :=
  { s with trp := { s.trp with clear := s.trp.clear.map fun r =>
      { r with links := r.links.map fun x => if x.k = k then { x with clearSend := 0, left := some 0 } else x } } }

/-- Start training a link: the device sends TS1, its stack delivers no bitstreams, and its channels turn off (R211). -/
def State.trainLink (s : State) (k : Nat) : State :=
  let was := (s.gs k).link
  let s := (s.modGs k fun g => { g with link := .training, trainAt := s.now, echoes := [], crcRun := 0 }).transmit k (ts1 k) false
  let s := s.dropClears k
  let s := { s with meas := { s.meas with linkBits := vset s.meas.linkBits k [] } }
  if was = .trained then s.beginTurnOff k s.now true else s

/-- The named links train. -/
def State.train (s : State) (mask : Nat) : State :=
  if s.linkMode then forNums ((bitsIn 16 mask).filter s.configured) (fun k s => s.trainLink k) s else s

/-- A write to GDL_TRAIN: its bits stand until their trainings have ended. -/
def State.trainWrite (s : State) (mask : Nat) : State :=
  let may := maskOf 16 fun k => mask.testBit k && s.linkMode && s.configured k
  (s.setRegN .gdlTrain 0 0 (((s.reg .gdlTrain).toNat &&& s.trainMask) ||| may)).train mask

def execGdlTrain (mask : BitVec 16) (s : State) : Host.Outcome State Fault Refusal := .next (s.trainWrite mask.toNat)

/-- The training of a stack has ended, and its bit of GDL_TRAIN clears (R223). -/
def State.trainTaken (s : State) (k : Nat) : State :=
  s.setRegN .gdlTrain 0 0 ((s.reg .gdlTrain).toNat &&& (0xFFFF ^^^ 2 ^ k))

/-- Complete every GDL_LINK_TRAIN whose links have all ended their training. -/
def State.trainComplete (s : State) : State :=
  let ended := fun (x : Src × BitVec 16) => (bitsIn 16 x.2.toNat).all fun k => (s.gs k).link != .training
  let ready := s.gdl.trainRuns.filter ended
  let s := { s with gdl := { s.gdl with trainRuns := s.gdl.trainRuns.filter fun x => !ended x } }
  ready.foldl (fun s (src, _) => s.done src 0x0803) s

/-- GDL_LINK_TRAIN (Table GDL-14). -/
def State.linkTrain (s : State) (c : Src) (p : Bytes) : State :=
  if !s.linkMode then s.refuse c 0x0803 .error 2
  else
    let s := (s.setRegN .gdlTrain 0 0 ((s.reg .gdlTrain).toNat &&& s.trainMask)).train (pf p 0 2)
    { s with gdl := { s.gdl with trainRuns := s.gdl.trainRuns ++ [(c, BitVec.ofNat 16 (pf p 0 2))] } }.trainComplete

def execGdlLinkTrain (c : Src) (p : Bytes) (s : State) : Host.Outcome State Fault Refusal :=
  .next (s.obey c 0x0803 p fun s => s.linkTrain c p)

def State.latFix (s : State) : Nat := s.lv .gdlLatFix 0 0 9 0

/-- Set a link flag of Table GDL-19 with its log record. -/
def State.gdlFlag (s : State) (k bit : Nat) : State :=
  let s := s.setFlag .gdlFault k bit
  s.logFlag 11 bit (s.reg .gdlFault k)

/-- The round trips of the 16 echo exchanges (Table GDL-7, step 4). -/
def trainEchoes (r : TrainResult) : List Nat := r.trips.take 16

/-- L_f: half of each round trip less the turnaround, averaged and rounded up to 1 ns (Table GDL-7, step 4). -/
def trainLatency (r : TrainResult) : Nat := (((trainEchoes r).foldl (fun a t => a + (t - r.tta)) 0) + 31) / 32

/-- 2 ms, by which training ends, in units of 31.25 ps (R211). -/
def trainLimit : Nat := 64000000

/-- Training ends (Table GDL-7, R211, R212, R214, Table GDL-13). Without lock, or without its 16 echoes, it does not complete, and has
ended 2 ms after its start. -/
def State.trainEnd (s : State) (k : Nat) (r : TrainResult) : State :=
  let s := s.trainTaken k
  let bad := fun (s : State) => s.modGs k fun g => { g with link := .fault }
  let ends := (s.gs k).trainAt + trainLimit
  let s := s.modGs k fun g => { g with echoes := trainEchoes r }
  let s := if !r.locked || decide (ends < s.now) then (s.advanceTo ends).modGs k fun g => { g with link := .down }
    else if r.reversed || r.stackId != k then
      let s := if r.reversed then s.gdlFlag k 9 else s
      bad (if r.stackId != k then s.gdlFlag k 8 else s)
    else if (trainEchoes r).length < 16 then (s.advanceTo ends).modGs k fun g => { g with link := .down }
    else
      let s := s.setRegN .gdlLat k 0 (min (trainLatency r) 1023)
      if s.latFix < trainLatency r then bad (s.gdlFlag k 7)
      else
        let ticks := if s.tmod = 0 then 0 else (32 * (s.latFix + 200) + s.tmod - 1) / s.tmod
        (s.modGs k fun g => { g with link := .trained, crcRun := 0 }).setRegN .decLinkLat 0 0 (16 + ticks)
  s.trainComplete

def execLinkTrainingComplete (k : Fin 16) (r : TrainResult) (s : State) : Host.Outcome State Fault Refusal :=
  if (s.gs k).link = .training then .next (s.trainEnd k r) else .next s

/-! ### Forward frames (R213 to R217, R437) -/

/-- Is the module's twin READY, by its latest PERIOD frame, and not judged absent? -/
def State.twinReady (s : State) : Bool := s.pair && !s.twn.alone && s.twn.twin.flags.testBit 1

/-- Does a module send edge, LOAD and pull-in frames: alone, or in a pair while ACTIVE or READY (R437)? One that has halted or lost VIN
while its twin was READY sends idle characters from then on (R441, R468). -/
def State.sendsFrames (s : State) : Bool := !s.pair || ((s.twn.role || s.twn.ready) && !s.twn.silent)

/-- The next load point of a running timebase: its instant, and whether it is the half-period. -/
def State.nextLoad (s : State) (t : Nat) : Nat × Bool :=
  let b := s.tb t
  if b.dbl && !b.half then (b.zeroAt + 16 * b.prd, true) else (b.zeroAt + b.len, false)

/-- The instant of the load point that began the present interval. -/
def State.lastLoad (s : State) (t : Nat) : Nat :=
  let b := s.tb t
  if b.half then b.zeroAt + 16 * b.prd else b.zeroAt

/-- RANGE of Table GDL-8: the range of each bitstream, as the channel that reads it has it. DESIGN CHOICE: of several channels that read one
bitstream, enabled or not, the lowest-numbered one's (log 12). -/
def State.rangeWord (s : State) (k : Nat) : Nat :=
  (List.range 8).foldl (fun a j =>
    let c := (List.range 160).find? fun c => s.lv .decSrc c 0 9 8 = 2 && s.lv .decSrc c 0 6 0 = 8 * k + j
    a + (match c with | some c => s.lv .decSrc c 0 11 10 | none => 0) * 4 ^ j) 0

/-- The commands of a test in link mode, in the order of Table GDL-5: the earliest instant of each after the start, and its code. -/
def ostStep : Nat → Option (Nat × Nat)
  | 0 => some (0, 2) | 1 => some (65280000, 3) | 2 => some (67840000, 4) | 3 => some (74240000, 5) | 4 => some (75520000, 6)
  | 5 => some (104960000, 8) | _ => none

/-- The command of a stack's test that is due for its next node. -/
def State.ostCmd (s : State) (k : Nat) : Option Nat :=
  let g := s.gs k
  match ostStep g.ostCycle with
  | some (t, c) => if g.ost = .running && decide (g.ostAt + t ≤ s.now) && decide (g.ostSend ≠ 0) then some c else none
  | none => none

/-- The nodes of a stack to which the oldest clear request that still sends CLEARs there has to send them (R237). -/
def State.clearNodes (s : State) (k : Nat) : BitVec 12 :=
  ((s.trp.clear.flatMap (·.links)).find? fun x => x.k = k && x.clearSend != 0).elim 0 (·.clearSend)

/-- The driver command that goes with the next edge frame: CLEAR, then a command of a test, otherwise POLL with the BLANK code
(Table GDL-3, R208, R237). -/
def State.drvCmd (s : State) (k : Nat) : Option Nat :=
  let g := s.gs k
  let n := s.nodes k
  if n = 0 then none
  else
    let first := fun (m : BitVec 12) => (bitsIn 12 m.toNat).headD 0
    if s.clearNodes k ≠ 0 then some (first (s.clearNodes k) * 4096 + 7 * 256)
    else match s.ostCmd k with
      | some c => some (first g.ostSend * 4096 + c * 256)
      | none => some (((g.seq.toNat + 1) % n) * 4096 + s.lv .gdlStkCfg k 0 21 16)

/-- One CLEAR has gone to the lowest node of a stack that the first request in a list still has to send it to; after its last one the wait
of R237 begins. -/
def clearSent (k : Nat) : List ClearReq → List ClearReq
  | [] => []
  | r :: rest =>
    if r.links.any fun x => x.k = k && x.clearSend != 0 then
      { r with links := r.links.map fun x =>
          if x.k = k then
            let m := x.clearSend &&& (x.clearSend - 1)
            { x with clearSend := m, left := if m = 0 then some 5 else none }
          else x } :: rest
    else r :: clearSent k rest

/-- After the frame that carried a command: the node has been sent it. -/
def State.drvSent (s : State) (k : Nat) : State :=
  let g := s.gs k
  if s.clearNodes k ≠ 0 then { s with trp := { s.trp with clear := clearSent k s.trp.clear } }
  else if (s.ostCmd k).isSome then
    let left := g.ostSend &&& (g.ostSend - 1)
    s.modGs k fun g =>
      if left = 0 then { g with ostCycle := g.ostCycle + 1, ostSend := BitVec.ofNat 12 (2 ^ s.nodes k - 1) } else { g with ostSend := left }
  else s

/-- An edge frame (Table GDL-8). -/
def edgeFrame (k : Nat) (half : Bool) (drv : Option Nat) (seq : Word) (level0 carry range : Nat)
    (entries : List (Nat × Bool × Nat)) : Bytes :=
  withCrc32c ([0x01, BitVec.ofNat 8 k, BitVec.ofNat 8 entries.length,
      BitVec.ofNat 8 ((if half then 1 else 0) + if drv.isSome then 2 else 0)]
    ++ leBytes 4 seq.toNat ++ leBytes 2 level0 ++ leBytes 2 carry ++ leBytes 2 range ++ leBytes 2 (drv.getD 0)
    ++ entries.flatMap fun (j, lv, ofs) => leBytes 4 (j * 2 ^ 28 + (if lv then 2 ^ 27 else 0) + ofs % 2 ^ 27))

/-- The LOAD ordered set, K28.1 followed by SEQ[7:0], at B + LAT_FIX − L_f, inserted like a short frame (R213, R217). -/
def execLoadSend (k : Fin 16) (s : State) : Host.Outcome State Fault Refusal :=
  let g := s.gs k
  let b := s.lastLoad k
  if s.linkMode && g.link = .trained && (s.tb k).run = .running && s.sendsFrames && g.frameFor = some b && g.loadFor != some b then
    let s := s.advanceTo (b + 32 * (s.latFix - (s.reg .gdlLat k).toNat))
    let seq := BitVec.ofNat 8 g.seq.toNat
    .next ((s.modGs k fun g => { g with sent := [0x3C, seq] :: g.sent, loadFor := some b }).transmit k [.k 0x3C, .d seq] true)
  else .next s

/-- A pull-in frame with the merged phase masks, at most one per 350 ns and stack (R217, Table GDL-9). At its departure it is judged
against R34: it names the phases on whose channels a pull-in still acts, and without any it does not leave. DESIGN CHOICE: its departure is
the instant at which the device sends it, before the character boundary and the 80 ns of its characters (log 12). A standby that sends
no frames keeps its channels alike. -/
def execPullInFrameSend (k : Fin 16) (s : State) : Host.Outcome State Fault Refusal :=
  let g := s.gs k
  if s.linkMode && g.link = .trained && decide (g.pullMask ≠ 0) then
    let s := s.advanceTo (s.pullDeparts k)
    let s := (s.modGs k fun g => { g with pullMask := 0 }).pullEdges k g.pullMask
    let phases := s.pulledPhases k &&& g.pullMask
    if phases = 0 then .next s
    else
      let b := s.lastLoad k
      let seq := if g.frameFor = some b then g.seq else g.seq - 1
      let frame := shortFrame 2 k phases ((seq.toNat % 32) * 2 ^ 27 + (s.now - b) % 2 ^ 27)
      let s := if s.sendsFrames then s.sendLink k frame true else s
      .next (s.modGs k fun g => { g with pullLast := some s.now })
  else .next s

/-! ### Return frames (R218 to R220) -/

/-- The bits of a good frame wait for delivery at their ticks (R135, Table GDL-10). -/
def State.takeBits (s : State) (k : Nat) (f : Bytes) : State :=
  let tick := pf f 2 2
  let new : List (Nat × Byte) := (List.range 16).map fun t =>
    ((tick + t) % 65536, BitVec.ofNat 8 (maskOf 8 fun j => (pf f (4 + 2 * j) 2).testBit t))
  let old := vget s.meas.linkBits k []
  { s with meas := { s.meas with linkBits := vset s.meas.linkBits k (old ++ new) } }

/-- The driver word of a return frame answers a CLEAR and brings the test code of its node. -/
def State.returnDrv (s : State) (k : Nat) (f : Bytes) (ostDone : Bool) : State :=
  let j := pb f 24
  if 12 ≤ j then s
  else
    let w : Word := BitVec.ofNat 32 (pf f 26 4)
    let bit := BitVec.ofNat 12 (2 ^ j)
    let s := s.drvWord k j w
    let s := { s with trp := { s.trp with clear := s.trp.clear.map fun r =>
        { r with links := r.links.map fun x =>
            if x.k = k ∧ x.clearSend &&& bit = 0 then { x with clearWait := x.clearWait &&& ~~~ bit } else x } } }
    if (s.gs k).ost = .running && ostDone then
      let s := (s.testCode k j (some w)).modGs k fun g => { g with ostSeen := g.ostSeen ||| bit }
      if (List.range (s.nodes k)).all (s.gs k).ostSeen.getLsbD then s.ostFinish k else s
    else s

/-- In a pair the interface counts the copies it has discarded. How its count reaches the device the spec does not state: what a return
frame adds to GDL_DUP_CNT_s is a free value (R220, log 12). -/
def State.dupCount (s : State) (k : Nat) : State :=
  if s.pair then
    let (i, s) := s.draw
    s.count .gdlDupCnt k (Config.freeNat i)
  else s

/-- GA bits that read 0 confirm the turn-offs of their channels. -/
def State.returnAcks (s : State) (k ga : Nat) : State :=
  forNums ((stackChans k).filter fun n => !ga.testBit (n % 12) && !(s.chan n).gc) (fun n s =>
    s.modChan n fun c => { c with ackDue := none }) s

/-- TWIN_DISAGREE of a return frame: on a standby it counts as a digest that differs does (R436). -/
def State.returnTwin (s : State) (k : Nat) : State :=
  let s := s.gdlFlag k 10
  if s.pair && !s.twn.role then s.disagree.modTwn fun t => { t with equalRun := 0 } else s

/-- What the status bits of a return frame report besides its readings (Table GDL-12). -/
def State.returnStatus (s : State) (k st node : Nat) : State :=
  let s := if st.testBit 13 then s.count .gdlCrcCnt k else s
  let s := if st.testBit 15 then s.returnTwin k else s
  let s := if st.testBit 12 || st.testBit 11 then s.latch k 15 st 0 else s
  let s := if st.testBit 10 then s.gdlTrip k 0 3 0 0 else s
  if st.testBit 9 then s.gdlTrip k 1 4 node 0 else s

/-- A good return frame (R219, Table GDL-11). -/
def State.returnGood (s : State) (k : Nat) (f : Bytes) : State :=
  let s := (s.ostGuard k).dupCount k
  let st := pf f 22 2
  let s := (s.takeBits k f).modGs k fun g => { g with
    crcRun := 0, ifaceGa := BitVec.ofNat 12 (pf f 20 2), retFlt := st.testBit 10, retHard := st.testBit 9 }
  ((s.returnAcks k (pf f 20 2)).returnStatus k st (pb f 24)).returnDrv k f (st.testBit 8)

/-- A return frame that fails its CRC: more than CRC_TOL in a row are a link fault (R219). -/
def State.returnBad (s : State) (k : Nat) : State :=
  let s := (s.count .gdlCrcCnt k).modGs k fun g => { g with crcRun := g.crcRun + 1 }
  if s.lv .gdlCtrl 0 0 1 0 < (s.gs k).crcRun then (s.gdlTrip k 6 9 0 0).trainLink k else s

def execReturnFrame (k : Fin 16) (frame : Bytes) (s : State) : Host.Outcome State Fault Refusal :=
  if s.linkMode && (s.gs k).link = .trained then
    if frame.length = 34 && crc32cOk frame && pb frame 0 = 0x81 && pb frame 1 = k.val then .next (s.returnGood k frame)
    else .next (s.returnBad k)
  else .next s

end Sys2Proof.Machine
end

