-- ==== Sys2Proof/Machine/Numerics.lean ====
section
/-! DEFINITION. The arithmetic of control graphs: Q4.28 words with the saturation flags of Class O, Q4.60 accumulators, roots, the
transforms of R41 and functions of binary turns (R77 to R82, Table FRD-6). A result that the spec states only within an error bound
is some code within that bound; which one, an opaque constant of Config decides from the operands. -/

namespace Sys2Proof.Machine

/-- 1 pu in Q4.28, and TRUE (R72). -/
def one28 : Int := 0x10000000

/-- The word of a boolean. -/
def bw (b : Bool) : Word := if b then 0x10000000 else 0

/-- SAT_HI and SAT_LO of one block execution. -/
abbrev Sat := Bool × Bool

/-- The flags of two results together. -/
def satOr (a b : Sat) : Sat := (a.1 || b.1, a.2 || b.2)

/-- An exact Q4.28 result saturated to 32 bits, with its flags (R77, R82). -/
def q28 (v : Int) : Word × Sat :=
  match sat32 v with
  | (w, none) => (w, (false, false))
  | (w, some true) => (w, (true, false))
  | (w, some false) => (w, (false, true))

/-- An accumulator saturated to 64 bits, with its flags (R79). -/
def sat64 (v : Int) : Int × Sat :=
  if v > 9223372036854775807 then (9223372036854775807, (true, false))
  else if v < -9223372036854775808 then (-9223372036854775808, (false, true))
  else (v, (false, false))

/-- min(hi, max(lo, x)) with its flags (R82). -/
def clampQ (x lo hi : Int) : Int × Sat :=
  if max lo x > hi then (hi, (true, false)) else if max lo x ≠ x then (lo, (false, true)) else (x, (false, false))

/-- A product of two Q4.28 codes, rounded and not saturated yet (R78). -/
def mulR (a b : Int) : Int := roundShr (a * b) 28

/-- A sum, a difference and a product of Q4.28 codes, saturated (R77, R78). -/
def addS (a b : Int) : Int := sw (q28 (a + b)).1
def subS (a b : Int) : Int := sw (q28 (a - b)).1
def mulS (a b : Int) : Int := sw (q28 (mulR a b)).1

/-- Division of two Q4.28 codes (R81). -/
def divQ (a b : Int) : Word × Sat :=
  if b = 0 then
    if a > 0 then (0x7FFFFFFF, (true, false)) else if a < 0 then (0x80000000, (false, true)) else (0, (false, false))
  else q28 (Int.tdiv (a * one28) b)

/-- a·b/c with one rounding, saturated; over 0 as R81 states. -/
def ratioS (a b c : Int) : Int := if c = 0 then sw (divQ (a * b) 0).1 else sw (q28 (roundDiv (a * b) c)).1

/-- A number between `lo` and `hi` that an opaque constant picks for a kind of result and its operands. -/
def pick (kind : Nat) (a b lo hi : Int) : Int :=
  if hi < lo then lo else lo + Config.withinBound kind a b % (hi - lo + 1)

/-- A square root within one code of √n, n in squared codes (SQRT, MAG). -/
def rootWithin (kind : Nat) (a b : Int) (n : Nat) : Int :=
  let f := isqrt n
  let c := if f * f = n then f else f + 1
  pick kind a b (max 0 ((c : Int) - 1)) ((f : Int) + 1)

/-! ### Sine and cosine -/

/-- π in units of 2^−80. -/
def piF : Int := 3797952473636338580787993

/-- The sum of a Taylor series: each term is the last one times −x²/(k(k+1)), in units of 2^−80. -/
def taylor : Nat → Int → Int → Int → Int
  | 0, _, _, _ => 0
  | n + 1, k, x2, t => t + taylor n (k + 2) x2 (-(t * x2 / 2 ^ 80) / (k * (k + 1)))

/-- Sine and cosine of r/2^32 turn for r below 2^30, in units of 2^−80. -/
def sinCosF (r : Nat) : Int × Int :=
  let x := (r : Int) * piF / 2 ^ 31
  let x2 := x * x / 2 ^ 80
  (taylor 18 2 x2 x, taylor 18 1 x2 (2 ^ 80))

/-- Sine and cosine of a binary-turn angle, in units of 2^−80. -/
def sinCosTurn (th : Nat) : Int × Int :=
  let (s, c) := sinCosF (th % 2 ^ 30)
  match th / 2 ^ 30 % 4 with
  | 0 => (s, c)
  | 1 => (c, -s)
  | 2 => (-s, -c)
  | _ => (-c, s)

/-- A code within 2^−26 of a value in units of 2^−80, and within ±1 (R81). -/
def sineCode (kind : Nat) (th : Nat) (v : Int) : Int :=
  let lo := max (-one28) (-((-v) / 2 ^ 52) - 4)
  let hi := min one28 (v / 2 ^ 52 + 4)
  pick kind th 0 lo hi

/-- The sine and the cosine that the blocks use (R81). -/
def sinQ (th : Nat) : Int := sineCode 1 th (sinCosTurn th).1
def cosQ (th : Nat) : Int := sineCode 2 th (sinCosTurn th).2

/-- Bit by bit, the largest angle of the first quadrant whose tangent is at most y/x. -/
def atanBits : Nat → Int → Int → Nat → Nat
  | 0, _, _, r => r
  | n + 1, y, x, r =>
    let t := r + 2 ^ n
    let (s, c) := sinCosF t
    if s * x ≤ c * y then atanBits n y x t else atanBits n y x r

/-- The angle of a vector in binary turns, rounded down within its quadrant; 0 for the zero vector. -/
def angleOf (y x : Int) : Nat :=
  if x > 0 ∧ y ≥ 0 then atanBits 30 y x 0
  else if x ≤ 0 ∧ y > 0 then 2 ^ 30 + atanBits 30 (-x) y 0
  else if x < 0 then 2 ^ 31 + atanBits 30 (-y) (-x) 0
  else if y < 0 then (3 * 2 ^ 30 + atanBits 30 x (-y) 0) % 2 ^ 32
  else 0

/-- ATAN2: an angle within 2^−24 turn, 256 codes, of the exact one, which lies at most one code above `angleOf`. The spec states none
for the zero vector. -/
def atan2Turn (y x : Int) : Word :=
  if x = 0 ∧ y = 0 then BitVec.ofInt 32 (Config.withinBound 3 0 0)
  else
    let f : Int := angleOf y x
    BitVec.ofInt 32 (pick 3 y x (if x = 0 ∨ y = 0 then f - 256 else f - 255) (f + 256))

/-! ### Transforms (R41) -/

/-- d/√3 to the nearest code. -/
def overRoot3 (d : Int) : Int :=
  let m : Int := (isqrt (4 * d.natAbs * d.natAbs / 3) + 1) / 2
  if d < 0 then -m else m

/-- √3·b rounded down. -/
def root3Floor (b : Int) : Int :=
  let m : Int := isqrt (3 * b.natAbs * b.natAbs)
  if b < 0 then -m - 1 else m

/-- The exact Clarke transform to the nearest codes, before saturation. -/
def clarke (a b c : Int) : Int × Int := (roundDiv (2 * a - b - c) 3, overRoot3 (b - c))

/-- The exact inverse Clarke transform to the nearest codes, before saturation. -/
def iclarke (al be : Int) : Int × Int × Int :=
  (al, (1 - al + root3Floor be) / 2, (1 - al + root3Floor (-be)) / 2)

/-- a·c − b·s and a·s + b·c with one rounding each: a vector turned by an angle. DESIGN CHOICE: the spec states neither one rounding of
the sum nor one of each product (log 20). -/
def rotR (a b : Int) (th : Nat) : Int × Int :=
  (roundShr (a * cosQ th - b * sinQ th) 28, roundShr (a * sinQ th + b * cosQ th) 28)

/-- A vector in the axes of an angle, rounded as in `rotR`. -/
def parkR (a b : Int) (th : Nat) : Int × Int :=
  (roundShr (a * cosQ th + b * sinQ th) 28, roundShr (b * cosQ th - a * sinQ th) 28)

/-- A vector shortened to a magnitude: each part times lim/|v|, to the nearest code. -/
def scaleTo (a b lim : Int) : Int × Int :=
  let m : Int := isqrt ((a.natAbs * a.natAbs + b.natAbs * b.natAbs) * 2 ^ 64)
  (roundDiv (a * lim * 2 ^ 32) m, roundDiv (b * lim * 2 ^ 32) m)

/-- Is a vector longer than a limit, judged exactly? -/
def longer (a b lim : Int) : Bool := decide (lim < 0) || decide (lim * lim < a * a + b * b)

/-- The current limit of R53 (LIM_MODE 0 SCALE, 1 REACTIVE along an angle): the limited vector, whether it clips, and the flags. DESIGN
CHOICE: a vector that SCALE shortens sets SAT_HI, whatever the signs of its parts (log 20). -/
def limitVec (mode : Nat) (a b lim : Int) (th : Nat) : (Int × Int) × Bool × Sat :=
  if !longer a b lim then ((a, b), false, (false, false))
  else if mode = 0 then (scaleTo a b lim, true, (true, false))
  else
    let (d, q) := parkR a b th
    let (q', f1) := clampQ q (-lim) lim
    let m : Int := isqrt (lim * lim - q' * q').toNat
    let (d', f2) := clampQ d (-m) m
    (rotR d' q' th, true, satOr f1 f2)

/-! ### Controllers -/

/-- The Class I proportional-integral law of R84: acc, kp, ki, e, lo, hi, freeze give the new accumulator, y and s (1, 0 or −1). The
product is that of R78; the sum with it is exact. -/
def piClassI (acc kp ki e lo hi : Int) (frz : Bool) : Int × Int × Int :=
  let p := mulS kp e
  let inc := ki * e * 16
  let cand := if frz then acc else (sat64 (acc + inc)).1
  let u := p + roundShr cand 32
  if u > hi then (if inc > 0 then acc else cand, hi, 1)
  else if u < lo then (if inc < 0 then acc else cand, lo, -1)
  else (cand, u, 0)

/-- One resonant section: y = 2c·y1 − y2 + g·(x − c·x1), y in Q4.60 (R50, RES_I). -/
def resNext (r : ResSec) (c g x : Int) (inp : Bool) : Int :=
  let drive := if inp then 16 * g * (x * one28 - c * r.x1) else 0
  (sat64 (roundShr (2 * c * r.y1 - r.y2 * one28 + drive) 28)).1

/-- A section stores its new output and input. -/
def ResSec.step (r : ResSec) (y x : Int) : ResSec := { y1 := y, y2 := r.y1, x1 := x }

/-- The swing equation of R45 and R46: ω in Q4.60 with k_h of weight 2^−36, d_p in UQ16.16; p_m, p_f and ω_d in Q4.28. -/
def swingNext (w kh dp pm pf wd : Int) : Int :=
  w + roundShr (kh * ((pm - pf) * 2 ^ 48 - dp * (w - wd * 2 ^ 32))) 52

/-- One step of the monitoring PLL: bandwidth, period, vector; angle, ω and integrator become new ones, with the phase error. -/
def pllNext (bw tc : Nat) (y x : Int) (th : DWord) (w integ : Int) : DWord × Int × Int × Int :=
  let err := signed 32 ((angleOf y x + 2 ^ 32 - th.toNat / 2 ^ 32) % 2 ^ 32)
  let (d, w', i') := Config.pllStep bw tc err w integ
  (th + BitVec.ofNat 64 d, w', i', err)

/-- Lock of the monitoring PLL (Table GFM-3): set once the phase error has been below 2° for 100 ms, lost above 5°. `run` counts
periods of `tc` below 2°. -/
def lockStep (lock : Bool) (run tc : Nat) (err : Int) : Bool × Nat :=
  let e := err.natAbs
  let run := if e * 180 < 2 ^ 32 then run + 1 else 0
  (if lock then decide (e * 72 ≤ 2 ^ 32) else decide (100000000 * 32 ≤ run * tc), run)

/-- A quarter-period delay by linear interpolation between stored samples: `x m` is the sample m periods ago. Gives the exact
value times M, with M the divisor (Sequence components and current limiting). -/
def quarterDelay (f tc : Nat) (x : Nat → Int) : Int × Int :=
  let m := max 1 (f * tc)
  let n := 8000000000 / m
  ((x n * m + (x (n + 1) - x n) * (8000000000 % m : Nat)), m)

/-- Delayed-signal cancellation: the positive and the negative sequence of a vector, each part rounded once. -/
def sequences (f tc : Nat) (al be : Nat → Int) : (Int × Int) × (Int × Int) :=
  let (da, m) := quarterDelay f tc al
  let (db, _) := quarterDelay f tc be
  let r := fun v => roundDiv v (2 * m)
  ((r (al 0 * m - db), r (be 0 * m + da)), (r (al 0 * m + db), r (be 0 * m - da)))

/-- θ_NT = round(frac(f·t/10^9)·2^32) in exact arithmetic (R63, NT_ANGLE). -/
def ntAngle (f t : Nat) : Word := BitVec.ofInt 32 (roundDiv ((f * t % 1000000000 : Nat) * 2 ^ 32) 1000000000)

end Sys2Proof.Machine
end

