-- ==== Sys2Proof/Machine/Blocks.lean ====
section
/-! DEFINITION. The block library (Table FRD-6) and the execution of a control graph in one period (R74, R82 to R92, R484, R485). -/

namespace Sys2Proof.Machine

/-! ### The library -/

/-- Types of signals (R72); `any` is an operand of Table FRD-19, `byOpt` the output of PROF_IN or CROSS_IN. -/
inductive SigTy where
  | q | t | b | any | byOpt
  deriving DecidableEq, Repr

/-- A row of Table FRD-6: code, input and output types, cycles; whether the block is Class I. -/
structure BlockRow where
  code  : Nat
  ins   : List SigTy
  outs  : List SigTy
  cost  : Nat
  classI : Bool := false
  deriving DecidableEq, Repr

/-- Table FRD-6, first part. -/
def blockRows1 : List BlockRow :=
  [⟨0x01, [.q, .q], [.q], 4, false⟩, ⟨0x02, [.q, .q], [.q], 4, false⟩, ⟨0x03, [.q, .q], [.q], 6, false⟩,
   ⟨0x04, [.q, .q, .q], [.q], 8, false⟩, ⟨0x05, [.q, .q], [.q], 40, false⟩, ⟨0x06, [.q], [.q], 32, false⟩,
   ⟨0x07, [.q, .q], [.q], 36, false⟩, ⟨0x08, [.q, .q, .q], [.q], 4, false⟩, ⟨0x09, [.b, .any, .any], [.any], 3, false⟩,
   ⟨0x0A, [.q, .q], [.b], 5, false⟩, ⟨0x0B, [.b, .b, .b], [.b], 3, false⟩, ⟨0x0C, [.b, .b], [.b], 4, false⟩,
   ⟨0x0D, [.b], [.b], 6, false⟩, ⟨0x0E, [.q, .q], [.q], 10, false⟩, ⟨0x0F, [.q, .q], [.q], 8, false⟩,
   ⟨0x10, [.any], [.any], 6, false⟩, ⟨0x11, [.q], [.q], 14, false⟩, ⟨0x12, [.q, .q, .q, .q], [.q], 8, false⟩,
   ⟨0x13, [.q, .q, .q, .q, .q], [.q], 14, false⟩, ⟨0x14, [.q, .q, .q, .q, .q, .q], [.q, .q], 16, true⟩,
   ⟨0x15, [.q, .q, .q, .q, .q, .q], [.q, .q, .q], 80, true⟩]

/-- Table FRD-6, second part. -/
def blockRows2 : List BlockRow :=
  [⟨0x20, [.q, .q, .q], [.q, .q], 10, false⟩, ⟨0x21, [.q, .q], [.q, .q, .q], 10, false⟩, ⟨0x22, [.t], [.q, .q], 30, false⟩,
   ⟨0x23, [.q, .q, .t], [.q, .q], 40, false⟩, ⟨0x24, [.q, .q, .t], [.q, .q], 40, false⟩,
   ⟨0x25, [.q, .q, .t], [.q, .q], 36, false⟩, ⟨0x26, [.q, .q], [.t], 40, false⟩, ⟨0x27, [.t], [.q], 3, false⟩,
   ⟨0x28, [.q], [.t], 3, false⟩, ⟨0x29, [.t, .t], [.t], 3, false⟩, ⟨0x30, [], [.q, .b], 6, false⟩,
   ⟨0x31, [.q], [.q], 10, false⟩, ⟨0x32, [], [.q], 4, false⟩, ⟨0x33, [], [.byOpt], 4, false⟩, ⟨0x34, [], [.b, .b], 4, false⟩,
   ⟨0x35, [.any], [], 3, false⟩, ⟨0x36, [.any], [], 3, false⟩, ⟨0x37, [], [.byOpt], 4, false⟩, ⟨0x38, [.q], [], 4, false⟩,
   ⟨0x39, [], [.t], 12, false⟩]

/-- Table FRD-6, third part. -/
def blockRows3 : List BlockRow :=
  [⟨0x40, [.q, .q, .q, .q], [.q, .q], 12, false⟩, ⟨0x41, [.q, .q], [.q, .q, .q, .q], 60, false⟩,
   ⟨0x42, [.q, .q], [.t, .q, .b], 80, false⟩, ⟨0x43, [.q, .q, .q, .b, .q], [.q, .t], 120, false⟩,
   ⟨0x44, [.q, .q, .q, .t], [.q, .q, .b], 60, false⟩, ⟨0x45, [.any, .any, .any, .any, .any, .any], [], 60, false⟩,
   ⟨0x50, [.q, .q, .q, .q], [], 160, false⟩, ⟨0x51, [], [], 70, false⟩, ⟨0x52, [], [], 20, false⟩]

/-- The row of a block code. -/
def blockRow (code : Nat) : Option BlockRow := (blockRows1 ++ blockRows2 ++ blockRows3).find? (·.code = code)

/-- The cycles of a block. -/
def blockCost (b : BlockRec) : Nat := match blockRow b.code with | some r => r.cost | none => 0

/-- The block state of Table FRD-20, in units of 8 bytes. -/
def blockState (b : BlockRec) : Nat :=
  match b.code with
  | 0x0A | 0x0C | 0x0D | 0x0E | 0x0F | 0x12 | 0x13 | 0x14 | 0x30 | 0x31 => 1
  | 0x10 => 1 + (b.imm + 1) / 2
  | 0x11 => 33
  | 0x15 => 6
  | 0x41 => 513
  | 0x42 => 4
  | 0x43 => 2
  | _ => 0

/-! ### Blocks that compute from their inputs, coefficients and state alone -/

/-- What a block execution gives: outputs, its state words from STATE_OFF on, the flags of Class O, and whether a Class I block was
saturated. -/
structure BlockOut where
  outs : List Word
  st   : List DWord := []
  fl   : Sat := (false, false)
  sat  : Bool := false
  deriving DecidableEq, Repr

/-- An accumulator as a state word. -/
def dw (v : Int) : DWord := BitVec.ofInt 64 v

/-- Word `i` of the pairs that follow the index word of a delay. -/
def pairWord (st : List DWord) (i : Nat) : Word :=
  BitVec.ofNat 32 ((lget st (1 + i / 2) 0).toNat / 2 ^ (32 * (i % 2)))

/-- Set word `i` of the pairs that follow the index word of a delay. -/
def setPairWord (st : List DWord) (i : Nat) (w : Word) : List DWord :=
  let old := lget st (1 + i / 2) 0
  st.set (1 + i / 2) (if i % 2 = 0 then BitVec.ofNat 64 (old.toNat / 2 ^ 32 * 2 ^ 32 + w.toNat)
    else BitVec.ofNat 64 (old.toNat % 2 ^ 32 + w.toNat * 2 ^ 32))

/-- The index word of a delay, within its length. -/
def delayIdx (st : List DWord) (n : Nat) : Nat := (lget st 0 0).toNat % (max n 1)

/-- FDELAY: linear interpolation between stored samples, one rounding. -/
def fdelayFn (x : Word) (st : List DWord) (coef : Word) : BlockOut :=
  let i := delayIdx st 64
  let d := max 65536 (min (64 * 65536) (Config.fdelay coef))
  let past := fun m => sw (pairWord st ((i + 64 - m % 64) % 64))
  let a := past (d / 65536)
  let y := a + roundShr ((d % 65536 : Nat) * (past (d / 65536 + 1) - a)) 16
  { outs := [(q28 y).1], st := (setPairWord st i x).set 0 (BitVec.ofNat 64 ((i + 1) % 64)), fl := (q28 y).2 }

/-- RES_I (R84, R50): two sections with a vector limit; saturation or freeze recomputes both with their input terms at zero. -/
def resFn (x : Nat → Int) (st : List DWord) (frz : Bool) : BlockOut :=
  let sec := fun i : Nat => ({ y1 := (lget st i 0).toInt, y2 := (lget st (i + 1) 0).toInt, x1 := (lget st (i + 2) 0).toInt } : ResSec)
  let a := sec 0
  let b := sec 3
  let go := fun inp => (resNext a (x 2) (x 3) (x 0) inp, resNext b (x 2) (x 3) (x 1) inp)
  let out := fun v : Int => roundShr v 32
  let clips := fun (u v : Int) => longer u v (x 4) || (q28 u).2 != (false, false) || (q28 v).2 != (false, false)
  let (ya, yb) := go true
  let sat1 := clips (out ya) (out yb)
  let (ya, yb) := if sat1 || frz then go false else (ya, yb)
  let sat2 := clips (out ya) (out yb)
  let (oa, ob) := if longer (out ya) (out yb) (x 4) then scaleTo (out ya) (out yb) (x 4) else (out ya, out yb)
  { outs := [(q28 oa).1, (q28 ob).1, if sat1 || sat2 then 0x10000000 else 0]
    st := [dw ya, dw a.y1, dw (x 0), dw yb, dw b.y1, dw (x 1)], sat := sat1 || sat2 }

/-- DSC: the quarter period of f_nom, held as pairs of 512 samples. -/
def dscFn (f tc : Nat) (xa xb : Word) (st : List DWord) : BlockOut :=
  let i := (lget st 0 0).toNat % 512
  let st := st.set (1 + i) (BitVec.ofNat 64 (xa.toNat + xb.toNat * 2 ^ 32))
  let cell := fun m => (lget st (1 + (i + 1024 - m % 512) % 512) 0).toNat
  let (pos, neg) := sequences f tc (fun m => signed 32 (cell m)) (fun m => signed 32 (cell m / 2 ^ 32))
  { outs := [(q28 pos.1).1, (q28 pos.2).1, (q28 neg.1).1, (q28 neg.2).1]
    st := st.set 0 (BitVec.ofNat 64 ((i + 1) % 512))
    fl := satOr (satOr (q28 pos.1).2 (q28 pos.2).2) (satOr (q28 neg.1).2 (q28 neg.2).2) }

/-- PLL_SRF: angle, ω and integrator, and the lock with its count of periods. -/
def pllFn (bw_ tc : Nat) (va vb : Int) (st : List DWord) : BlockOut :=
  let (th, w, i, err) := pllNext bw_ tc vb va (lget st 0 0) (lget st 1 0).toInt (lget st 2 0).toInt
  let old := (lget st 3 0).toNat
  let (lock, run) := lockStep (old.testBit 63) (old % 2 ^ 32) tc err
  let y := q28 (roundShr w 32)
  { outs := [BitVec.ofNat 32 (th.toNat / 2 ^ 32), y.1, bw lock]
    st := [th, dw (sat64 w).1, dw i, BitVec.ofNat 64 ((if lock then 2 ^ 63 else 0) + min run (2 ^ 32 - 1))], fl := y.2 }

/-- SWING (R45, R46): the coefficients at PARAM_BASE are k_h, d_p, w_min, w_max, dw_g and c_th. -/
def swingFn (x : Nat → Word) (co : Nat → Word) (st : List DWord) : BlockOut :=
  let q := fun i => sw (x i)
  let w := (lget st 0 0).toInt
  let (w, f0) := sat64 (swingNext w (co 0).toNat (co 1).toNat (q 0) (q 1) (q 2))
  let (w, f1) := clampQ w (sw (co 2) * 2 ^ 32) (sw (co 3) * 2 ^ 32)
  let (w, f2) := if x 3 ≠ 0 then clampQ w ((q 4 - sw (co 4)) * 2 ^ 32) ((q 4 + sw (co 4)) * 2 ^ 32) else (w, (false, false))
  let (w, f3) := sat64 w
  let y := q28 (roundShr w 32)
  let th := lget st 1 0 + BitVec.ofInt 64 (sw y.1 * (co 5).toNat)
  { outs := [y.1, BitVec.ofNat 32 (th.toNat / 2 ^ 32)], st := [dw w, th]
    fl := satOr (satOr f0 f1) (satOr (satOr f2 f3) y.2) }

/-- One output with its flags. -/
def one (r : Word × Sat) : BlockOut := { outs := [r.1], fl := r.2 }

/-- Two outputs from exact values. -/
def two (r : Int × Int) : BlockOut := { outs := [(q28 r.1).1, (q28 r.2).1], fl := satOr (q28 r.1).2 (q28 r.2).2 }

/-- A block of codes 0x01 to 0x15. `x` are the inputs, `co` the coefficients from PARAM_BASE on; `armed` freezes Class I (R68). A CMP
whose h is negative can be set and cleared at once, of which the spec states no result: a free value. -/
def blockFn1 (b : BlockRec) (x : Nat → Word) (st : List DWord) (co : Nat → Word) (armed : Bool) : BlockOut :=
  let q := fun i => sw (x i)
  let acc := (lget st 0 0).toInt
  match b.code with
  | 0x01 => one (q28 (q 0 + q 1))
  | 0x02 => one (q28 (q 0 - q 1))
  | 0x03 => one (q28 (mulR (q 0) (q 1)))
  | 0x04 => one (q28 (roundShr (q 0 * q 1 + q 2 * one28) 28))
  | 0x05 => one (divQ (q 0) (q 1))
  | 0x06 => if q 0 < 0 then one (0, (false, true)) else one (q28 (rootWithin 4 (q 0) 0 ((q 0).toNat * 2 ^ 28)))
  | 0x07 => one (q28 (rootWithin 5 (q 0) (q 1) (q 0 * q 0 + q 1 * q 1).toNat))
  | 0x08 => one ((q28 (clampQ (q 0) (q 1) (q 2)).1).1, (clampQ (q 0) (q 1) (q 2)).2)
  | 0x09 => one (if x 0 ≠ 0 then x 1 else x 2, (false, false))
  | 0x0A =>
    let h := sw (co 0)
    let up := decide (q 0 > q 1 + h)
    let down := decide (q 0 < q 1 - h)
    let y := if up && down then decide (pick 6 (q 0) (q 1) 0 1 = 1) else up || (decide (acc ≠ 0) && !down)
    { outs := [bw y], st := [if y then 1 else 0] }
  | 0x0B =>
    let a := decide (x 0 ≠ 0)
    let c := decide (x 1 ≠ 0)
    let d := decide (x 2 ≠ 0)
    { outs := [bw (match b.opt with
      | 0 => a && c && d
      | 1 => a || c || d
      | 2 => (a != c) != d
      | _ => !a)] }
  | 0x0C =>
    let y := if x 1 ≠ 0 then false else decide (x 0 ≠ 0) || decide (acc ≠ 0)
    { outs := [bw y], st := [if y then 1 else 0] }
  | 0x0D =>
    let n := if x 0 ≠ 0 then min ((lget st 0 0).toNat + 1) b.imm else 0
    { outs := [bw (decide (b.imm ≤ n))], st := [BitVec.ofNat 64 n] }
  | 0x0E =>
    let (y, f) := sat64 (acc + roundShr (q 1 * (q 0 * 2 ^ 32 - acc)) 28)
    let o := q28 (roundShr y 32)
    { outs := [o.1], st := [dw y], fl := satOr f o.2 }
  | 0x0F =>
    let r := min (q 1).natAbs 0x7FFFFFFF
    let y0 := signed 32 (lget st 0 0).toNat
    let (d, f) := clampQ (q 0 - y0) (-r) r
    let o := q28 (y0 + d)
    { outs := [o.1], st := [o.1.setWidth 64], fl := satOr f o.2 }
  | 0x10 =>
    let i := delayIdx st b.imm
    { outs := [pairWord st i], st := (setPairWord st i (x 0)).set 0 (BitVec.ofNat 64 ((i + 1) % max b.imm 1)) }
  | 0x11 => fdelayFn (x 0) st (co 0)
  | 0x12 =>
    let (a, f1) := sat64 (acc + q 1 * q 0 * 16)
    let (a, f2) := clampQ a (q 2 * 2 ^ 32) (q 3 * 2 ^ 32)
    let o := q28 (roundShr a 32)
    { outs := [o.1], st := [dw a], fl := satOr (satOr f1 f2) o.2 }
  | 0x13 =>
    let p := q28 (mulR (q 1) (q 0))
    let (a, f1) := sat64 (acc + q 2 * q 0 * 16)
    let (a, f2) := clampQ a (q 3 * 2 ^ 32) (q 4 * 2 ^ 32)
    let i := q28 (roundShr a 32)
    let u := q28 (sw p.1 + sw i.1)
    let (y, f3) := clampQ (sw u.1) (q 3) (q 4)
    { outs := [(q28 y).1], st := [dw a], fl := satOr (satOr (satOr p.2 f1) (satOr f2 i.2)) (satOr u.2 f3) }
  | 0x14 =>
    let (a, y, s) := piClassI acc (q 1) (q 2) (q 0) (q 3) (q 4) (armed || decide (x 5 ≠ 0))
    { outs := [(q28 y).1, (q28 (s * one28)).1], st := [dw a], sat := decide (s ≠ 0) }
  | 0x15 => resFn q st (armed || decide (x 5 ≠ 0))
  | _ => { outs := [] }

/-- A block of codes 0x20 to 0x29 and 0x40 to 0x44. `f` is f_nom and `tc` the control period. -/
def blockFn2 (b : BlockRec) (x : Nat → Word) (st : List DWord) (co : Nat → Word) (f tc : Nat) : BlockOut :=
  let q := fun i => sw (x i)
  let th := fun i => (x i).toNat
  match b.code with
  | 0x20 => two (clarke (q 0) (q 1) (q 2))
  | 0x21 =>
    let (_, vb, vc) := iclarke (q 0) (q 1)
    { outs := [x 0, (q28 vb).1, (q28 vc).1], fl := satOr (q28 vb).2 (q28 vc).2 }
  | 0x22 => two (sinQ (th 0), cosQ (th 0))
  | 0x23 => two (parkR (q 0) (q 1) (th 2))
  | 0x24 => two (rotR (q 0) (q 1) (th 2))
  | 0x25 => two (rotR (q 0) (q 1) (th 2))
  | 0x26 => { outs := [atan2Turn (q 0) (q 1)] }
  | 0x27 => { outs := [BitVec.ofInt 32 ((q 0 + 8) / 16)] }
  | 0x28 => { outs := [BitVec.ofNat 32 (th 0 * 16)] }
  | 0x29 => { outs := [x 0 + x 1] }
  | 0x40 => two (roundShr (q 0 * q 2 + q 1 * q 3) 28, roundShr (q 1 * q 2 - q 0 * q 3) 28)
  | 0x41 => dscFn f tc (x 0) (x 1) st
  | 0x42 => pllFn (co 0).toNat tc (q 0) (q 1) st
  | 0x43 => swingFn x co st
  | 0x44 =>
    let (v, clip, fl) := limitVec b.opt (q 0) (q 1) (q 2) (th 3)
    { outs := [(q28 v.1).1, (q28 v.2).1, bw clip], fl := satOr fl (satOr (q28 v.1).2 (q28 v.2).2) }
  | _ => { outs := [] }

/-! ### Modulation (R90, R91) -/

/-- The whole-period on and off compares (Table PWM-1). -/
def cmpNone : BitVec 29 := 0x1FFFFFFF

/-- The edges of one phase: the duty m and the period T in units of 31.25 ps, with the compares that the half allows. -/
def phaseEdges (slot p : Nat) (m : Int) (t : Nat) (rising falling : Bool) : List ShadowEdge :=
  let d : Int := m.natAbs
  let edge := fun (v : Int) => BitVec.ofInt 29 (roundDiv v (2 * one28))
  let rise := edge (t * one28 - d * t)
  let fall := edge (t * one28 + d * t)
  let ch := fun (c : Nat) (a b : BitVec 29) =>
    (if rising then [({ slot := slot, chan := c, rising := true, value := a } : ShadowEdge)] else [])
      ++ if falling then [({ slot := slot, chan := c, rising := false, value := b } : ShadowEdge)] else []
  if m ≥ 0 then
    ch (4 * p) rise fall ++ ch (4 * p + 2) fall rise ++ ch (4 * p + 1) 0 cmpNone ++ ch (4 * p + 3) cmpNone 0
  else
    ch (4 * p + 3) rise fall ++ ch (4 * p + 1) fall rise ++ ch (4 * p + 2) 0 cmpNone ++ ch (4 * p) cmpNone 0

/-- MOD3L: the edges of a stack slot and the block's flags. -/
def mod3l (slot : Nat) (zs : Bool) (ua ub vdc np knp : Int) (t : Nat) (rising falling : Bool) : List ShadowEdge × Sat :=
  let (va, vb, vc) := iclarke ua ub
  let (a, _) := q28 va
  let (b, fb) := q28 vb
  let (c, fc) := q28 vc
  let top := max (sw a) (max (sw b) (sw c))
  let bot := min (sw a) (min (sw b) (sw c))
  let (sum, f1) := q28 (top + bot)
  let z0 := if zs then -(Int.tdiv (sw sum) 2) else 0
  let (pr, f4) := q28 (mulR knp np)
  let (z, f2) := q28 (z0 + sw pr)
  let half := Int.tdiv vdc 2
  let phase := fun (p : Nat) (u : Word) =>
    let (n, g1) := q28 (sw u + sw z)
    let (m, g2) := divQ (sw n) half
    let (m, g3) := clampQ (sw m) (-one28) one28
    (phaseEdges slot p m t rising falling, satOr g1 (satOr g2 g3))
  let (e0, h0) := phase 0 a
  let (e1, h1) := phase 1 b
  let (e2, h2) := phase 2 c
  (e0 ++ e1 ++ e2, satOr (satOr (satOr fb fc) (satOr (if zs then f1 else (false, false)) (satOr f4 f2))) (satOr h0 (satOr h1 h2)))

/-- The all-off set of a slot (R68). -/
def offEdges (slot : Nat) : List ShadowEdge :=
  (List.range 12).flatMap fun c => [{ slot := slot, chan := c, rising := true, value := cmpNone },
    { slot := slot, chan := c, rising := false, value := 0 }]

/-! ### One period of a graph -/

/-- What a graph changes in its period beside Class O flags: the engine in the making and the digests it delivers. -/
structure GRun where
  eng     : Engine
  classI  : Bool := false
  invalid : Bool := false
  deriving DecidableEq, Repr

/-- The value of an input reference (Table FRD-3). -/
def readRef (n : Engine) (img : Image) (r : Nat) : Word :=
  match r / 16384 with
  | 0 => lget n.signals (r % 16384) 0
  | 1 => vget n.frame (r % 16384) 0
  | 2 => lget img.consts (r % 16384) 0
  | _ => lget n.work (r % 16384) 0

/-- The number of a bank. -/
def bankNo (b : Bool) : Nat := if b then 1 else 0

/-- f_nom of a DSC block: the parameter F_NOM of a template, the coefficient at PARAM_BASE of a customer graph. -/
def State.fNom (s : State) (e : Nat) (img : Image) (b : BlockRec) : Nat :=
  if img.kind = 0 then (paramGet s.live e (bankNo (s.engN e).bankB) 2).toNat else (lget (s.engN e).work b.paramBase 0).toNat

/-- The position that a profile channel delivers, Q4.28; its initial position while it is not enabled (R116). -/
def State.prfPos (s : State) (e : Nat) (n : Engine) (c : Nat) : Word :=
  if s.lvb .frdPrfCfg e c 0 then (q28 (roundShr (vget n.prf c {}).p 32)).1 else (regGet s.live .frdPrfInit e c).setWidth 32

/-- A block whose effect lies outside its own inputs and state (Table FRD-6, codes 0x30 to 0x3F, 0x45, 0x50 and 0x51). -/
def State.blockIo (s : State) (e : Nat) (b : BlockRec) (x : Nat → Word) (st : List DWord) (g : GRun) :
    BlockOut × GRun :=
  let n := g.eng
  let armed := s.ops.st = .armed
  match b.code with
  | 0x30 =>
    match n.sample.find? fun p => p.1 = b.imm with
    | some (_, w) =>
      if w.getLsbD 63 then
        let (y, f) := s.scale b.imm w
        ({ outs := [y, 0x10000000], st := [y.setWidth 64], fl := (f == some true, f == some false) }, g)
      else ({ outs := [(lget st 0 0).setWidth 32, 0] }, { g with invalid := true })
    | none => ({ outs := [(lget st 0 0).setWidth 32, 0] }, { g with invalid := true })
  | 0x31 =>
    let xk := sw (x 0)
    let kal := roundDiv (((b.opt : Int) - (b.imm / 8 : Nat)) * s.tmod * one28) (s.tc e)
    let o := q28 (roundShr (kal * (xk - signed 32 (lget st 0 0).toNat) + xk * one28) 28)
    ({ outs := [o.1], st := [(x 0).setWidth 64], fl := o.2 }, g)
  | 0x32 => ({ outs := [BitVec.ofNat 32 ((vget n.frame (16 + b.imm) 0).toNat % 2 ^ 14 * 2 ^ 14)] }, g)
  | 0x33 =>
    let c := vget n.prf b.imm {}
    let on := s.lvb .frdPrfCfg e b.imm 0
    let pos := s.prfPos e n b.imm
    ({ outs := [match b.opt with
      | 0 => pos
      | 1 => BitVec.ofNat 32 (pos.toNat * 16)
      | 2 => bw (on && c.start)
      | _ => bw (!on || c.phase = .rest)] }, g)
  | 0x34 =>
    ({ outs := [bw ((vget n.frame 5 0).getLsbD b.imm), bw (if b.imm = 0 then n.pull.1 else n.pull.2)] }, g)
  | 0x35 => ({ outs := [] }, { g with eng := { n with mboxWork := vset n.mboxWork b.imm (x 0) } })
  | 0x36 => ({ outs := [] }, { g with eng := { n with crossWork := vset n.crossWork b.imm (x 0) } })
  | 0x37 => ({ outs := [vget (s.engN (nbits b.imm 6 4)).crossPub (b.imm % 16) 0] }, g)
  | 0x38 => ({ outs := [] }, { g with eng := { n with osc := vset n.osc b.imm { vget n.osc b.imm {} with tap := x 0 } } })
  | 0x39 => ({ outs := [ntAngle b.imm ((vget n.frame 2 0).toNat + (vget n.frame 3 0).toNat * 2 ^ 32)] }, g)
  | 0x45 => ({ outs := [] }, { g with eng := { n with digest := n.digest ++ [Config.digestOf n.idx ((List.range 6).map x)] } })
  | 0x50 =>
    let k := s.slotStack e b.imm
    if k < 16 then
      let dbl := (s.tb k).dbl
      let second := vget n.frame 4 0 ≠ 0
      let (es, f) := mod3l b.imm (b.opt % 2 = 1) (sw (x 0)) (sw (x 1)) (sw (x 2)) (sw (x 3)) (sw (lget n.work b.paramBase 0))
        (32 * (s.tb k).prd) (!dbl || !second) (!dbl || second)
      ({ outs := [], fl := f }, { g with eng := { n with mod := n.mod.filter (·.slot ≠ b.imm) ++ es } })
    else ({ outs := [] }, g)
  | 0x51 =>
    let es := if armed then offEdges b.imm else n.mod.filter (·.slot = b.imm)
    ({ outs := [] }, { g with eng := { n with shadow := n.shadow.filter (·.slot ≠ b.imm) ++ es } })
  | _ => ({ outs := [] }, g)

/-- Write consecutive elements of a list. -/
def setFrom {α : Type} (l : List α) : Nat → List α → List α
  | _, [] => l
  | i, x :: rest => setFrom (l.set i x) (i + 1) rest

/-- Write the outputs of a block to its signal words. -/
def setOuts (sig : List Word) : List Nat → List Word → List Word
  | o :: os, w :: ws => setOuts (sig.set o w) os ws
  | _, _ => sig

/-- Execute block `j` of a graph (R74): its inputs as they stand, its outputs, state and flags. -/
def State.block (s : State) (e : Nat) (img : Image) (j : Nat) (b : BlockRec) (g : GRun) : GRun :=
  let n := g.eng
  let x := fun i => readRef n img (lget b.ins i 0)
  let co := fun i => lget n.work (b.paramBase + i) 0
  let st := (n.bst.drop b.stateOff).take (blockState b)
  let (o, g) :=
    if b.code < 0x20 then (blockFn1 b x st co (s.ops.st = .armed), g)
    else if b.code < 0x30 ∨ (0x40 ≤ b.code ∧ b.code ≤ 0x44) then (blockFn2 b x st co (s.fNom e img b) (s.tc e), g)
    else s.blockIo e b x st g
  let n := g.eng
  let bit := fun (f : Bool) => if f then BitVec.ofNat 1024 (2 ^ j) else 0
  let isO := match blockRow b.code with | some r => !r.classI | none => false
  { g with
    eng := { n with
      signals := setOuts n.signals b.outs o.outs, bst := setFrom n.bst b.stateOff o.st
      satHi := if isO then n.satHi ||| bit o.fl.1 else n.satHi, satLo := if isO then n.satLo ||| bit o.fl.2 else n.satLo }
    classI := g.classI || o.sat }

/-- Execute a list of blocks from number `j` on. -/
def State.blocks (s : State) (e : Nat) (img : Image) : Nat → List BlockRec → GRun → GRun
  | _, [], g => g
  | j, b :: rest, g => s.blocks e img (j + 1) rest (s.block e img j b g)

end Sys2Proof.Machine
end

