-- ==== Sys2Proof/Machine/Gfm.lean ====
section
/-! DEFINITION. The grid-forming templates: the stages of Table GFM-2 in one period of an engine whose committed image is a Galuholt
template (R40 to R61), and the sub-modes of Table GFM-4. The blocks of the image execute first (R74); the equations then take the
scaled and aligned quantities from its signal words (log 17). Values are Q4.28 codes unless stated; where the equations leave a
rounding open, each product and each quotient is rounded once to the nearest code (log 30). -/

namespace Sys2Proof.Machine

/-! ### Sub-modes -/

/-- The accepted breaker state changes, and the base sub-mode with it (Table GFM-4). -/
def GfmState.breaker (g : GfmState) (closed : Bool) : GfmState :=
  if g.brk == closed then g
  else
    let g := { g with brk := closed, brkCount := 0 }
    if !g.inMode then g
    else
      match g.base, closed with
      | .blackstart, true => { g with base := .grid }
      | .island, true => { g with base := .grid }
      | .grid, false => { g with base := .island }
      | _, _ => g

/-- The code of a base sub-mode. -/
def BaseMode.code : BaseMode → Nat
  | .blackstart => 0 | .island => 1 | .grid => 2

/-- The status word of Table GFM-5. -/
def GfmState.status (g : GfmState) : Word :=
  let b := fun (n : Nat) (c : Bool) => if c then 2 ^ n else 0
  let sub := if g.cl then 2 else if g.rt then 1 else 0
  BitVec.ofNat 32 (g.pjDeg * 2 ^ 16 + sub * 2 ^ 12 + b 11 g.rocofSeen + b 10 g.pjSeen + b 9 g.clSeen + b 8 g.rtSeen + b 7 g.brk
    + b 6 g.pllLock + b 5 g.recovery + b 4 g.cl + b 3 g.rt + g.base.code)

/-- Magnitude of a vector, rounded down to a code. -/
def magOf (v : Int × Int) : Int := (isqrt (v.1 * v.1 + v.2 * v.2).toNat : Int)

/-- The angle increment of one control period, in units of 2^−64 turn: ω in Q4.28 times c_th (R46). -/
def angleStep (w28 : Int) (cth : Word) : Int := w28 * cth.toNat

/-- A Q4.60 value as a saturated Q4.28 code. -/
def top28 (v : Int) : Int := sw (q28 (roundShr v 32)).1

/-- The values of one period that the stages hand on. -/
structure Tpl where
  vc    : Int × Int
  io    : Int × Int
  vg    : Int × Int
  e     : Int × Int := (0, 0)
  zv    : Int := 0
  dev   : Int := 0
  lim   : Int := 0
  wAct  : Int := 0
  iref  : Int × Int := (0, 0)
  clip  : Bool := false
  pull  : Bool := false
  /-- Angle increment of the period, modulo 2^32. -/
  dth   : Nat := 0
  /-- Which bounds the clamps of R45 and R59 have held a value at: upper, lower. -/
  fl    : Bool × Bool := (false, false)
  deriving DecidableEq, Repr

/-- What Table GFM-4 sets in a period, in place of the period's own update: θ, ω and e. -/
structure Entry where
  th : Bool := false
  w  : Bool := false
  e  : Bool := false
  deriving DecidableEq, Repr

/-- The vector of three phase values, saturated. -/
def vecOf (a b c : Int) : Int × Int :=
  let v := clarke a b c
  (sw (q28 v.1).1, sw (q28 v.2).1)

/-- A quantity of the template in the period: the value of the signal word that carries it. -/
def Engine.quantity (n : Engine) (img : Image) (i : Nat) : Int := sw (lget n.signals (Config.templateSignal img.imageId i) 0)

/-- The vector of three quantities. -/
def Engine.vector (n : Engine) (img : Image) (i : Nat) : Int × Int :=
  vecOf (n.quantity img i) (n.quantity img (i + 1)) (n.quantity img (i + 2))

/-- Stage 1: the vectors of v_c, i_o and v_g, the last turned by VG_ROT·30°; DEC_IN and ALIGN have scaled and aligned them. -/
def tplStage1 (co : Nat → Word) (n : Engine) (img : Image) : Tpl :=
  let rot := (roundDiv ((co 0x38).toNat * 2 ^ 32) 12).toNat % 2 ^ 32
  let vg := n.vector img 6
  { vc := n.vector img 0, io := n.vector img 3, vg := if rot = 0 then vg else rotR vg.1 vg.2 rot }

/-- A first-order filter of R45: the state in Q4.60, the coefficient and the input. -/
def lpf (y : Int) (a : Word) (x : Int) : Int := (sat64 (y + roundShr (sw a * (x * 2 ^ 32 - y)) 28)).1

/-- Leaving RUNNING clears all sub-mode state (Table GFM-4); the sticky bits and PJ_DEG stay (R58). -/
def GfmState.leave (g : GfmState) : GfmState :=
  { g with
      inMode := false, base := .blackstart, rt := false, cl := false, recovery := false, startSeen := false, stopReq := none
      rtQuiet := none, clQuiet := none, recUntil := none, vBand := false, pjWait := 0, pjOver := false, rocofOver := false, rtOut := false, clOut := false, recOut := false }

/-- What a boundary brings: the states whose time-outs have passed clear (R57). -/
def GfmState.settle (g : GfmState) : GfmState :=
  { g with
      rt := g.rt && !g.rtOut, rtQuiet := if g.rtOut then none else g.rtQuiet, vBand := g.vBand && !g.rtOut
      cl := g.cl && !g.clOut, clQuiet := if g.clOut then none else g.clQuiet
      recovery := g.recovery && !g.recOut, recUntil := if g.recOut then none else g.recUntil
      rtOut := false, clOut := false, recOut := false }

/-- The state reset of R68: ω begins at 1 pu, the breaker state stays, and so do the sticky bits with PJ_DEG, which GFM_CLEAR_FLAGS alone
clears (R58). -/
def GfmState.restart (g : GfmState) : GfmState :=
  { w := 2 ^ 60, wPll := 2 ^ 60, brk := g.brk, rtSeen := g.rtSeen, clSeen := g.clSeen, pjSeen := g.pjSeen, rocofSeen := g.rocofSeen
    pjDeg := g.pjDeg }

/-- Entry to RUNNING, and the settings of Table GFM-4 (R47, R63, R64): `start` and `atRest` are those of profile channel 0, `ntb` is t_B,
`f` is f_nom, `run` is input-frame word 7. DEDUCED: what Table GFM-4 sets stands in its period, in place of the update of R45, after
either kind of start (log 17). -/
def GfmState.supervise (g : GfmState) (co : Nat → Word) (run start atRest : Bool) (wSet : Int) (f ntb : Nat) :
    GfmState × Entry :=
  let nt := BitVec.ofNat 64 ((ntAngle f ntb).toNat * 2 ^ 32)
  if !run then (g.leave, {})
  else if !g.inMode then
    let g := { g with inMode := true }
    if (co 0x34).toNat = 0 then
      if g.vgPos < sw (co 0x39) then
        ({ g with
            base := .blackstart, e := 0, w := wSet * 2 ^ 32, startSeen := start || !atRest, th64 := if start then nt else g.th64 },
         { th := start, w := true, e := true })
      else ({ g with stopReq := some 2 }, {})
    else if g.pllLock then
      ({ g with
          base := if g.brk then .grid else .island, th64 := BitVec.ofNat 64 (g.thPll.toNat * 2 ^ 32), w := g.wPll
          e := g.vgPos, startSeen := true }, { th := true, w := true, e := true })
    else ({ g with stopReq := some 3 }, {})
  else if g.stopReq.isSome then (g, {})
  else
    let (g, en) : GfmState × Entry := if g.base = .blackstart ∧ start then
        ({ g with startSeen := true, th64 := nt }, { th := true })
      else ({ g with startSeen := g.startSeen || start || !atRest }, {})
    if g.base = .blackstart ∧ g.startSeen ∧ atRest then ({ g with base := .island }, en) else (g, en)

/-- Stages 2 to 4 (R45, R46): powers, swing, angle, EMF. `pr` are the outputs of profile channels 0 to 4, `wSet` is
ω_set. -/
def GfmState.machine (g : GfmState) (t : Tpl) (co : Nat → Word) (pr : Nat → Word) (wSet : Int) (en : Entry) :
    GfmState × Tpl :=
  let p := sw (q28 (roundShr (t.vc.1 * t.io.1 + t.vc.2 * t.io.2) 28)).1
  let q := sw (q28 (roundShr (t.vc.2 * t.io.1 - t.vc.1 * t.io.2) 28)).1
  let pf := lpf g.pf (co 7) p
  let qf := lpf g.qf (co 8) q
  let w0 := top28 g.w
  let pm := sw (q28 (sw (pr 3) + roundShr ((wSet - w0) * (co 5).toNat) 16)).1
  let wd := if g.pllLock then top28 g.wPll else w0
  let (w1, f1) := clampQ (swingNext g.w (co 3).toNat (co 4).toNat pm (top28 pf) wd) (sw (co 0x30) * 2 ^ 32) (sw (co 0x31) * 2 ^ 32)
  let dw := if g.recovery then sw (co 0x2E) else sw (co 0x2D)
  let wp := top28 g.wPll
  let (w2, f2) := if g.rt || g.cl || g.recovery then clampQ w1 ((wp - dw) * 2 ^ 32) ((wp + dw) * 2 ^ 32) else (w1, (false, false))
  let w := if en.w then g.w else (sat64 w2).1
  let w28 := top28 w
  let step := angleStep w28 (co 2)
  let th64 := if en.th then g.th64 else g.th64 + BitVec.ofInt 64 step
  let (ee, f3) := clampQ (subS (sw (pr 0)) (mulS (sw (co 6)) (subS (top28 qf) (sw (pr 4))))) (sw (co 0x32)) (sw (co 0x33))
  let emf := if en.e then g.e else ee
  let a := (th64.toNat / 2 ^ 32 + (pr 2).toNat) % 2 ^ 32
  ({ g with pf := pf, qf := qf, w := w, th64 := th64, e := emf },
   { t with
      e := (mulS emf (cosQ a), mulS emf (sinQ a)), dth := (step / 2 ^ 32 % 2 ^ 32).toNat
      fl := satOr (if en.w then (false, false) else satOr f1 f2) (if en.e then (false, false) else f3) })

/-- W_act and I_lim,eff (R52): the shares of the stacks that have not tripped; bit s of `trips` is stack s. -/
def tplLimit (t : Tpl) (co : Nat → Word) (nStacks trips : Nat) : Tpl :=
  let act := ((List.range 16).filter fun k => k < nStacks && !trips.testBit k).foldl (fun a k => addS a (sw (co (0x40 + k)))) 0
  { t with wAct := act, lim := mulS (sw (co 0x0C)) act }

/-- Stage 5 (R48, R49): v_ref, by the branch that CURRENT_LIMITED, a pull-in flag or the demand selects. With I_lim,eff = 0 the division
of R49 saturates as R81 states. DESIGN CHOICE: √(1 + σ²) is rounded down to a UQ16.16 code before it divides (log 30). -/
def GfmState.vRef (g : GfmState) (t : Tpl) (co : Nat → Word) : Tpl × (Int × Int) :=
  let r := sw (co 9)
  let x := sw (co 0x0A)
  let zv := magOf (r, x)
  let dev := magOf (subS t.e.1 t.vc.1, subS t.e.2 t.vc.2)
  let t := { t with zv := zv, dev := dev }
  let (r, x) :=
    if g.cl || t.pull || decide (dev * one28 > zv * t.lim) then
      let z := max zv (sw (divQ dev t.lim).1)
      let sg : Int := (co 0x0B).toNat
      let rc := roundDiv (z * 65536) (isqrt (2 ^ 32 + (co 0x0B).toNat ^ 2) : Int)
      (rc, roundDiv (sg * rc) 65536)
    else (r, x)
  let xw := mulS x (top28 g.w)
  (t, (addS (subS t.e.1 (mulS r t.io.1)) (mulS xw t.io.2), subS (subS t.e.2 (mulS r t.io.2)) (mulS xw t.io.1)))

/-- The harmonic orders of the voltage loop with the places of their gains; order 0 is unused. -/
def tplOrders (co : Nat → Word) : List (Nat × Word) :=
  (1, co 0x0F) :: (List.range 6).map fun n => ((co (0x10 + n)).toNat, co (0x18 + n))

/-- One period of a list of resonant terms: the new sections and the sum of their outputs, in codes. -/
def resTerms (dth : Nat) (x : Int × Int) (inp : Bool) :
    List (Nat × Word) → List (ResSec × ResSec) → List (ResSec × ResSec) × (Int × Int)
  | [], _ => ([], (0, 0))
  | (h, g) :: rest, secs =>
    let (a, b) := lget secs 0 ({}, {})
    let (tl, (sa, sb)) := resTerms dth x inp rest (secs.drop 1)
    if h = 0 then ((a, b) :: tl, (sa, sb))
    else
      let c := cosQ (h * dth % 2 ^ 32)
      let ya := resNext a c (sw g) x.1 inp
      let yb := resNext b c (sw g) x.2 inp
      ((a.step ya x.1, b.step yb x.2) :: tl, (addS sa (top28 ya), addS sb (top28 yb)))

/-- Stages 6 to 8 (R50, R53, R54): the voltage loop, the negative-sequence part and the current limit. -/
def GfmState.voltageLoop (g : GfmState) (t : Tpl) (co : Nat → Word) (vr : Int × Int) (armed : Bool) : GfmState × Tpl :=
  let inject := (co 0x24).toNat = 1 && g.rt
  let vr := if inject then (addS vr.1 g.vcNeg.1, addS vr.2 g.vcNeg.2) else vr
  let x := (subS vr.1 t.vc.1, subS vr.2 t.vc.2)
  let i2 := if inject then
      let r := rotR g.vgNeg.1 g.vgNeg.2 ((2 ^ 33 - 2 ^ 30 - (co 0x26).toNat) % 2 ^ 32)
      (mulS (sw (co 0x25)) r.1, mulS (sw (co 0x25)) r.2)
    else (0, 0)
  let raw := fun (s : Int × Int) =>
    (addS (addS (addS (mulS (sw (co 0x0E)) x.1) s.1) (mulS (sw (co 0x20)) t.io.1)) i2.1,
     addS (addS (addS (mulS (sw (co 0x0E)) x.2) s.2) (mulS (sw (co 0x20)) t.io.2)) i2.2)
  let (sec, sum) := resTerms t.dth x true (tplOrders co) g.resV
  let clip := longer (raw sum).1 (raw sum).2 t.lim
  let (sec, sum) := if clip || armed then resTerms t.dth x false (tplOrders co) g.resV else (sec, sum)
  let out := raw sum
  let (i, clip2, _) := limitVec (co 0x0D).toNat out.1 out.2 t.lim g.thPll.toNat
  let i := (sw (q28 i.1).1, sw (q28 i.2).1)
  ({ g with resV := sec, iref := i, iLim := t.lim }, { t with iref := i, clip := clip || clip2 })

/-- Stage 9 (R51, R52): the current loop of one stack, with its share, inductor current and DC-link voltage; the new section pair, the
reference u and whether it is clipped. -/
def tplCurrentLoop (t : Tpl) (co : Nat → Word) (k : Nat) (iL : Int × Int) (vdc : Int) (sec : ResSec × ResSec) (armed : Bool) :
    (ResSec × ResSec) × (Int × Int) × Bool :=
  let share := sw (co (0x40 + k))
  let e := (subS (ratioS t.iref.1 share t.wAct) iL.1, subS (ratioS t.iref.2 share t.wAct) iL.2)
  let lim := overRoot3 (mulS (sw (co 0x23)) vdc)
  let go := fun inp =>
    let (l, s) := resTerms t.dth e inp [(1, co 0x22)] [sec]
    (lget l 0 ({}, {}), (addS (addS (mulS (sw (co 0x21)) e.1) s.1) t.vc.1, addS (addS (mulS (sw (co 0x21)) e.2) s.2) t.vc.2))
  let (n, u) := go true
  let clip := longer u.1 u.2 lim
  let (n, u) := if clip || armed then go false else (n, u)
  (n, if longer u.1 u.2 lim then scaleTo u.1 u.2 lim else u, clip)

/-- Stage 11: sequence components, the monitoring PLL and its lock, and the history of f_pll over 100 ms. -/
def GfmState.monitor (g : GfmState) (t : Tpl) (co : Nat → Word) (f tc : Nat) : GfmState × Int :=
  let vgH := (t.vg :: g.vgHist).take 513
  let vcH := (t.vc :: g.vcHist).take 513
  let at_ := fun (l : List (Int × Int)) (m : Nat) => lget l m (0, 0)
  let (gp, gn) := sequences f tc (fun m => (at_ vgH m).1) (fun m => (at_ vgH m).2)
  let (_, cn) := sequences f tc (fun m => (at_ vcH m).1) (fun m => (at_ vcH m).2)
  let (th, w, i, err) := pllNext (co 0x37).toNat tc gp.2 gp.1 g.pllTh g.wPll g.pllInt
  let (lock, run) := lockStep g.pllLock g.pllRun tc err
  ({ g with
      vgHist := vgH, vcHist := vcH, vgPos := magOf gp, vgAng := BitVec.ofNat 32 (angleOf gp.2 gp.1), vgNeg := gn, vcNeg := cn
      pllTh := th, thPll := BitVec.ofNat 32 (th.toNat / 2 ^ 32), wPll := w, pllInt := i, pllLock := lock, pllRun := run
      fHist := (top28 w :: g.fHist).take (3200000000 / max tc 1 + 1) }, err)

/-- Is |f_pll(t) − f_pll(t − 100 ms)|/0.1 s above ROCOF_RT? DESIGN CHOICE: where T_c does not divide 100 ms, the earlier value is that of
the sample ⌊100 ms/T_c⌋ periods back (log 17). -/
def GfmState.rocof (g : GfmState) (co : Nat → Word) (f tc : Nat) : Bool :=
  let n := 3200000000 / max tc 1
  match g.fHist.head?, g.fHist[n]? with
  | some a, some b => decide ((a - b).natAbs * f * 10 * 65536 > (co 0x29).toNat * 2 ^ 28)
  | _, _ => false

/-- Stage 12 (R55 to R57, R59): detections, RIDE_THROUGH, RECOVERY and CURRENT_LIMITED; `now` is the instant of the boundary in units of
31.25 ps, `pred` the predicted PLL angle of this period, which lies `err` below that of v_g⁺, and `step` its increment before the
period. A phase jump is detected where its error first crosses PJ_RT, and measured from the predicted angle, carried on by the
increment it had at the detection; a crossing while a measurement is under way leaves that one to finish, and PJ_DEG is rounded to the
nearest degree (DESIGN CHOICE, log 17). RECOVERY needs a
voltage condition that was seen while RIDE_THROUGH was set: without one there is none to clear (DEDUCED, log 17). -/
def GfmState.overlays (g : GfmState) (t : Tpl) (co : Nat → Word) (f tc now : Nat) (err : Int) (pred step : Word) : GfmState :=
  let under := decide (g.vgPos < sw (co 0x27))
  let above := decide (g.vgPos > sw (co 0x28))
  let roc := g.rocof co f tc
  let jump := decide (err.natAbs > (co 0x2A).toNat)
  let any := under || above || roc || jump
  let live := g.inMode && g.base != .blackstart && g.stopReq.isNone
  let band := under || above
  -- ride-through
  let g := if live && any then { g with rt := true, rtSeen := true, rtQuiet := none, rtOut := false }
    else if g.rt && g.rtQuiet.isNone then { g with rtQuiet := some now } else g
  let g := { g with rocofSeen := g.rocofSeen || (live && roc && !g.rocofOver), rocofOver := live && roc }
  let crossed := live && jump && !g.pjOver
  let g := { g with pjSeen := g.pjSeen || crossed, pjOver := live && jump }
  let g := if crossed && g.pjWait = 0 then
      { g with pjWait := (8000000000 + f * tc - 1) / max 1 (f * tc), pjFrom := pred, pjStep := step }
    else if g.pjWait ≠ 0 then
      let from_ := g.pjFrom + g.pjStep
      let g := { g with pjWait := g.pjWait - 1, pjFrom := from_ }
      if g.pjWait = 0 then
        { g with pjDeg := (roundDiv ((signed 32 (g.vgAng - from_).toNat).natAbs * 360) (2 ^ 32)).toNat }
      else g
    else g
  -- both voltage conditions clear while RIDE_THROUGH is set
  let g := if g.rt && g.vBand && !band then { g with recovery := true, recOut := false, recUntil := some (now + 32000000 * (co 0x2F).toNat) } else g
  let g := { g with vBand := g.rt && band }
  -- current limit
  if !g.inMode then g
  else if t.clip || decide (t.dev * one28 > t.zv * t.lim) || t.pull then { g with cl := true, clSeen := true, clQuiet := none, clOut := false }
  else if g.cl then
    if 20 * t.dev * one28 < 19 * t.lim * t.zv then { g with clQuiet := g.clQuiet.or (some now) } else { g with clQuiet := none, clOut := false }
  else g

/-- The breaker state as BRK_SRC selects it: the commanded one, or AIN_k against BRK_THR after 16 periods with the same result, which
BREAKER_STATE_ACCEPTED then accepts. DESIGN CHOICE: a result at or above the threshold means closed (log 17). -/
def GfmState.breakerInput (g : GfmState) (co : Nat → Word) (frame : Nat → Word) : GfmState :=
  let src := (co 0x35).toNat
  if src = 0 then g.breaker (decide (frame 8 ≠ 0))
  else
    let closed := decide (sw (co 0x36) ≤ (((frame (15 + src)).toNat % 2 ^ 14 * 2 ^ 14 : Nat) : Int))
    { g with brkCand := closed, brkCount := if closed == g.brkCand then min (g.brkCount + 1) 16 else 1 }

/-- The number of an image's first SWING block, whose sticky flags show the clamps of R45 and R59 (DESIGN CHOICE, log 17). -/
def Image.swingAt (img : Image) : Option Nat := img.blocks.findIdx? fun b => b.code = 0x43

/-- One period of a template in an engine whose blocks have executed: state, mailbox words, digest and edges. Where the image has a
block that delivers one of these (PWMW for a slot, DIGEST, MBOX_OUT for a word), what the block has delivered stands (log 17). The voltage
loop and the current loops are Class I: a period in which one of them clips counts as one with a Class I block saturated (R50, R51, R84).
DESIGN CHOICE: while a fade runs between banks whose F_NOM differ, F_NOM is the target bank's from period s on (log 17). -/
def State.template (s : State) (e : Nat) (img : Image) (r : GRun) : GRun :=
  let n := r.eng
  let co := fun i => lget n.work i 0
  let frame := fun i => vget n.frame i 0
  let pr := fun c => if c = 2 then BitVec.ofNat 32 ((s.prfPos e n c).toNat * 16) else s.prfPos e n c
  let f := (paramGet s.live e (bankNo n.bankB) 2).toNat
  let tc := s.tc e
  let armed := s.ops.st = .armed
  let ch0 := vget n.prf 0 {}
  let on0 := s.lvb .frdPrfCfg e 0 0
  let wSet := one28 + roundDiv (sw (pr 1)) f
  let g := n.gfm.breakerInput co frame
  let (g, en) := g.supervise co (decide (frame 7 ≠ 0)) (on0 && ch0.start) (!on0 || ch0.phase = .rest)
    wSet f ((frame 2).toNat + (frame 3).toNat * 2 ^ 32)
  let t := { tplStage1 co n img with pull := n.pull.1 || n.pull.2 }
  let (g, t) := g.machine t co pr wSet en
  let t := tplLimit t co s.nStacks (frame 6).toNat
  let (t, vr) := g.vRef t co
  let (g, t) := g.voltageLoop t co vr armed
  let off := armed || g.stopReq.isSome
  let stack := fun (slot : Nat) (sec : ResSec × ResSec) =>
    let k := s.slotStack e slot
    let vdc := n.quantity img (15 + slot)
    let (sec, u, clip) := tplCurrentLoop t co k (n.vector img (9 + 3 * slot)) vdc sec armed
    let dbl := (s.tb k).dbl
    let second := decide (frame 4 ≠ 0)
    let zs := match img.blocks.find? fun (b : BlockRec) => b.code = 0x50 && b.imm = slot with
      | some b => decide (b.opt % 2 = 1)
      | none => true
    let es := if off then offEdges slot
      else (mod3l slot zs u.1 u.2 vdc 0 0 (32 * (s.tb k).prd) (!dbl || !second) (!dbl || second)).1
    let own := img.blocks.any fun (b : BlockRec) => b.code = 0x51 && b.imm = slot
    (sec, u, (if off || !own then (if k < 16 then es else []) else n.shadow.filter (·.slot = slot)), clip && decide (k < 16))
  let (sec0, u0, es0, c0) := stack 0 g.resI0
  let (sec1, u1, es1, c1) := stack 1 g.resI1
  let g := { g with resI0 := sec0, resI1 := sec1, u0 := u0, u1 := u1 }
  let pred := BitVec.ofNat 32 (g.pllTh.toNat / 2 ^ 32)
  let step := BitVec.ofInt 32 (angleStep (top28 g.wPll) (co 2) / 2 ^ 32)
  let (g, err) := g.monitor t co f tc
  let g := g.overlays t co f tc n.atB err pred step
  let th := BitVec.ofNat 32 (g.th64.toNat / 2 ^ 32)
  let words : List Word := [g.status, BitVec.ofInt 32 (top28 g.w), th, BitVec.ofInt 32 g.e, BitVec.ofInt 32 (top28 g.pf),
    BitVec.ofInt 32 (top28 g.qf), BitVec.ofInt 32 g.vgPos, BitVec.ofInt 32 (top28 g.wPll), BitVec.ofInt 32 (magOf g.iref),
    BitVec.ofInt 32 g.iLim]
  let has := fun code imm => img.blocks.any fun (b : BlockRec) => b.code = code && (code = 0x45 || b.imm = imm)
  let bit := fun (on : Bool) => match img.swingAt with | some j => if on then BitVec.ofNat 1024 (2 ^ j) else 0 | none => 0
  { r with
    classI := r.classI || t.clip || c0 || c1
    eng := { n with
      gfm := g, satHi := n.satHi ||| bit t.fl.1, satLo := n.satLo ||| bit t.fl.2
      mboxWork := (List.range 10).foldl (fun v i => if has 0x35 i then v else vset v i (lget words i 0)) n.mboxWork
      digest := if has 0x45 0 then n.digest else [Config.digestOf n.idx ((words.drop 1).take 5)], shadow := es0 ++ es1 } }

end Sys2Proof.Machine
end

