-- ==== Sys2Proof/Machine/Halt.lean ====
section
/-! DEFINITION. Changes of the operating state: what leaving ARMED and RUNNING ends, the entry to STOPPING and its end, the entry
to HALTED and its causes (R169, R300, R379 to R386, R441). -/

namespace Sys2Proof.Machine

/-! ### Spore records (R301) -/

/-- The bytes of a spore record (Table NT-6). -/
def SporeRec.bytes (r : SporeRec) : Bytes :=
  leBytes 8 r.nt.toNat ++ [BitVec.ofNat 8 r.slot, BitVec.ofNat 8 r.action, BitVec.ofNat 8 r.result,
    BitVec.ofNat 8 ((if r.late then 1 else 0) + (if r.same then 2 else 0) + if r.discard then 4 else 0)]
    ++ leBytes 4 r.detail.toNat

/-- One record into the queue and into the event log; a full queue drops it and counts. It goes to the twin
(R433). -/
def State.sporeRecord (s : State) (r : SporeRec) : State :=
  let s := if s.nt.recs.length < 64 then s.modNt fun n => { n with recs := n.recs ++ [r] } else s.count .ntSporeRecLost
  (s.note 4 1 0 r.bytes).mirror noSrc recItem r.bytes 0

/-- Is a slot pending: loaded and neither executed nor cancelled, a slot of a batch that has not executed yet among them? -/
def State.slotPending (s : State) (i : Nat) : Bool :=
  (vget s.nt.slots i none).isSome || s.nt.batches.any fun b => b.any fun d => d.slot = i

/-- Is any slot pending? -/
def State.anySpore (s : State) : Bool := s.nt.slots.toList.any (·.isSome) || s.nt.batches.any fun b => b ≠ []

/-- Is a COMMIT spore pending? -/
def State.commitSpore (s : State) : Bool :=
  s.nt.slots.toList.any (fun p => match p with | some p => p.action = 1 | none => false)
    || s.nt.batches.any fun b => b.any fun d => d.spore.action = 1

/-- Is the stage PENDING (Table STG-1)? -/
def State.stagePending (s : State) : Bool := s.stg.pendings ≠ [] || s.commitSpore

/-! ### Work handed to several engines -/

/-- A status by its code. -/
def Status.ofCode : Nat → Status
  | 0 => .ok | 1 => .authFail | 2 => .replay | 3 => .late | 4 => .timeout | 5 => .checkFail | 6 => .stageBusy | 7 => .xfadeBusy
  | 8 => .busyStopping | 9 => .clearRefused | 10 => .overlap | 12 => .standby | 13 => .aborted | _ => .error

/-- Is it this piece of work? -/
def WaitFor.same : WaitFor → WaitFor → Bool
  | .cmd a _, .cmd b _ => a.ring == b.ring && a.seq == b.seq
  | .spore a t _ _ _ _, .spore b u _ _ _ _ => a == b && t == u
  | _, _ => false

/-- The outcome of work that every engine of its mask has reported on: a completion, or a spore record (R301). -/
def State.waitDone (s : State) (w : EngWait) : State :=
  match w.who with
  | .cmd src op => s.complete src op (Status.ofCode w.code) (w.detail.getD 0) (if w.code = 0 then w.at_ else 0)
  | .spore slot _ action late same nt => s.sporeRecord
      { nt := nt, slot := slot, action := action, result := w.code, late := late, same := same, discard := false
        detail := BitVec.ofNat 32 (w.detail.getD 0) }

/-- Work begins to wait for the engines of a mask. -/
def State.waitStart (s : State) (who : WaitFor) (mask : Nat) : State :=
  { s with waits := s.waits ++ [{ who := who, left := BitVec.ofNat 8 mask }] }

/-- One engine reports on a piece of work: the first status other than OK stands; `join` joins the DETAILs. -/
def State.waitReport (s : State) (who : WaitFor) (e code detail : Nat) (at_ : DWord) (join : Nat → Nat → Nat) : State :=
  match s.waits.find? fun w => w.who.same who with
  | none => s
  | some w =>
    let w' := { w with
      left := w.left &&& ~~~ BitVec.ofNat 8 (2 ^ e), code := if w.code = 0 then code else w.code
      detail := some (match w.detail with
        | none => detail
        | some d => if w.code ≠ 0 then d else if code ≠ 0 then detail else join d detail)
      at_ := at_ }
    if w'.left = 0 then
      { s with waits := s.waits.filter fun x => !(x.who.same who) }.waitDone w'
    else { s with waits := s.waits.map fun x => if x.who.same who then w' else x }

/-- Work of scheduled actions that an engine can no longer take, because the device has left ARMED and RUNNING, ends with ERROR,
DETAIL 3 (R300, log 24). -/
def State.dropSporeWork (s : State) (e : Nat) : State :=
  let n := s.engN e
  let s := s.modEng e fun n => { n with sporeStarts := [], swaps := n.swaps.filter fun x => match x.who with
    | .spore _ _ => false
    | _ => true }
  let s := n.sporeStarts.foldl (fun s x => s.waitReport (.spore x.slot x.at_ 0 false false 0) e Status.error.code 3 0 max) s
  n.swaps.foldl (fun s x =>
    match x.who with
    | .spore slot at_ => s.waitReport (.spore slot at_ 0 false false 0) e Status.error.code 3 0 max
    | _ => s) s

/-- Discard one pending slot at entry to HALTED (R300). -/
def State.sporeDiscard (s : State) (i : Nat) : State :=
  match vget s.nt.slots i none with
  | some p => (s.modNt fun n => { n with slots := vset n.slots i none }).sporeRecord
      { nt := s.nt64, slot := i, action := p.action, result := Status.error.code, late := p.late, same := false, discard := true
        detail := 4 }
  | none => s

/-- Discard every pending slot, and what is left of the batches that have become due. -/
def State.discardSpores (s : State) : State :=
  let s := forNums (List.range 256) (fun i s => s.sporeDiscard i) s
  let due := s.nt.batches.flatten
  let s := s.modNt fun n => { n with batches := [] }
  due.foldl (fun s d => s.sporeRecord
    { nt := s.nt64, slot := d.slot, action := d.spore.action, result := Status.error.code, late := d.spore.late, same := d.same
      discard := true, detail := 4 }) s

/-! ### Release of the safety channels (R250) -/

/-- KIND of a pair in the channels' own copies of the parameter set; UNUSED before they hold one. -/
def State.pairKind (s : State) (k : Nat) : Nat := s.saf.pairWord k % 4

/-- No pair demands or is in discrepancy, every guard has passed its start-up test, a reset has been given where one is asked for,
there is no internal demand and no latched fault, and both channels hold the same parameter set (R250). While CFG_DEFAULTED is set,
gate drive stays inhibited (R375). -/
def State.safMayRelease (s : State) : Bool :=
  ((List.range 4).all fun k =>
    let p := vget s.saf.pairs k {}
    !(s.pairKind k = 1 || s.pairKind k = 2) || (!p.demand && !p.disc && (s.pairKind k = 1 || p.passed)))
  && (!s.saf.resetReq || (List.range 4).all fun k => s.pairKind k != 1)
  && !s.saf.intDemand && !s.saf.fault && s.saf.chA.pset ≠ [] && s.saf.chA.pset = s.saf.chB.pset && !s.stg.defaulted

/-- A channel takes its release; its output follows, and its readback with it until a check reports otherwise. A release that ends in the
instant in which it began has been none. -/
def SafChan.setRel (c : SafChan) (rel : Bool) (now : Nat) : SafChan :=
  if c.rel == rel then c
  else if rel then { c with rel := true, gen := true, fb := true, changeAt := now, firstRel := c.firstRel.or (some now) }
  else
    { c with
      rel := false, gen := false, fb := false, changeAt := if c.gen then now else c.changeAt, pulse := none
      firstRel := if c.firstRel = some now then none else c.firstRel }

/-- Both channels judge their release (R246, R247, R250): channel A runs on the main side from VIN, channel B from VMGT. Neither releases
before the self-test has passed (log 23). Once both release, the stage-6 hold of R249 ends; while one does not, it stands, but for the
compares that a halted module holds for its twin until a demand takes them off (R249, R441). -/
def State.safJudge (s : State) : State :=
  let up := s.ops.st = .idle || s.ops.st = .armed || s.ops.st = .running || s.ops.st = .stopping
  let ok := s.safMayRelease && up
  let s := s.modSaf fun f => { f with chA := f.chA.setRel (ok && s.ops.vinOk) s.now, chB := f.chB.setRel (ok && s.mgt.vmgt) s.now }
  let demands := (List.range 4).any fun k => (s.pairKind k = 1 || s.pairKind k = 2) && (vget s.saf.pairs k {}).demand
  s.modSaf fun f => { f with hold := !(f.chA.rel && f.chB.rel) && !(s.twn.haltHold.isSome && !demands && !f.hold) }

/-! ### Leaving ARMED and RUNNING -/

/-- An engine stops executing. -/
def Engine.stop (n : Engine) : Engine :=
  { n with
      executing := false, armReset := false, firstRun := false, started := false, published := true, complete := true
      sampleDue := none }

/-- Engines execute nothing outside ARMED and RUNNING (R69), and leaving RUNNING clears the sub-mode state of the templates
(Table GFM-4). -/
def State.enginesStop (s : State) : State :=
  forNums (List.range 8) (fun e s => (s.dropSporeWork e).modEng e fun n => { n.stop with gfm := n.gfm.leave }) s

/-- Pending starts that the device can no longer carry out complete ERROR, each with its own DETAIL (Table OPS-4). -/
def State.dropStartsIf (s : State) (detail : PendOp → Nat) : State :=
  let l := s.ops.starts
  l.foldl (fun s p => s.refuse p.src 0x0611 .error (detail p)) (s.modOps fun o => { o with starts := [] })

def State.dropStarts (s : State) (detail : Nat) : State := s.dropStartsIf fun _ => detail

/-- ARMED to IDLE: stage 1 delivers whole-period off from this instant on (R169). -/
def State.toIdle (s : State) (cause : Nat) : State :=
  let s := ((s.enter .idle cause).enginesStop).dropStarts 3
  s.forceLows (List.range 192) (ctlTick s.now)

/-- In link mode the return frames must show GA = 0 within ACK_TO of each channel's turn-off: an outer one's at once, an inner one's after
T_IO (R382). -/
def State.expectOff (s : State) : State :=
  if s.linkMode then
    forNums ((List.range 192).filter fun n => s.configured (n / 12) && (s.gs (n / 12)).link = .trained) (fun n s =>
      s.modChan n fun c => { c with ackDue := some (ctlTick s.now + (if isOuter n then 0 else s.tio (n / 12)) + s.ackTo) }) s
  else
    forNums ((List.range 96).filter fun n => s.configured (n / 12) && !(s.chan n).gc && (!(s.chan n).gaOff || (s.chan n).ga)) (fun n s =>
      s.modChan n fun c => { c with ackDue := c.ackDue.or (some (ctlTick s.now + s.ackTo)) }) s

/-- The turn-off of R381 and stage 1 from then on: outer channels deliver whole-period off, inner ones follow after T_IO. -/
def State.stopChannels (s : State) : State :=
  let s := (s.turnOffAll true).expectOff
  let s := forNums (List.range 192) (fun n s => s.modChan n fun c => { c with
    force := if c.force = some true then none else c.force }) s
  s.forceLows ((List.range 192).filter fun n => isOuter n || !s.configured (n / 12)) (ctlTick s.now)

/-- Entry to STOPPING (R381). -/
def State.toStopping (s : State) (cause : Nat) : State :=
  (((s.enter .stopping cause).enginesStop).dropStarts 3).stopChannels

/-- Has every GA of a stack confirmed off, and are its inner channels off (R382)? A stack whose confirmation has not arrived within ACK_TO
counts as off, and so does one whose link delivers no return frames. -/
def State.stackIsOff (s : State) (k : Nat) : Bool :=
  !s.offRunning k
    && ((s.zone k).causes.getLsbD 5 || (s.gs k).ackLost
      || (if s.linkMode then (s.gs k).link != .trained || (s.gs k).ifaceGa = 0
          else (stackChans k).all fun n => !(s.chan n).gc && (s.chan n).gaOff && !(s.chan n).ga))

/-! ### HALTED -/

/-- The longest period of a running timebase. -/
def State.longestPeriod (s : State) : Nat :=
  (List.range 16).foldl (fun m t => if (s.tb t).run = .running then max m (32 * (s.tb t).prd) else m) 0

/-- What takes the place of the turn-off where the twin takes over (R441): in link mode the module falls silent; in direct mode
an ACTIVE one holds its live compares, without further loads, until OWN_N rises. -/
def State.haltOutputs (s : State) : State :=
  if s.twinReady then
    if s.linkMode then s.modTwn fun t => { t with silent := true }
    else if !s.twn.role then s
    else
      let s := forNums (List.range 192) (fun n s => s.modChan n fun c => { c with pendA := none, pendB := none }) s
      s.modTwn fun t => { t with haltHold := some (s.now + 2 * s.longestPeriod) }
  else s.stopChannels

/-- The pending commits are abandoned, and the stage keeps its content as FAILED (Table STG-4). -/
def State.dropCommits (s : State) : State :=
  let l := s.stg.pendings
  let some_ := s.stagePending
  let s := s.modStg fun g => { g with pendings := [], st := if some_ && g.st ≠ .clean then .failed else g.st }
  l.foldl (fun s p => s.refuse p.src 0x0204 .error 4) s

/-- Is the present instant that of a pending start (Table OPS-4)? -/
def State.startHere (s : State) (p : PendOp) : Bool :=
  if s.executes p.engine then
    (s.nextLoad (s.leadTb p.engine)).1 / 32 = s.now / 32 && decide (p.acceptAt / 32 < s.now / 32)
      && (p.src.applyAt = 0 || decide (p.src.applyAt ≤ s.ntFine))
  else s.tickDue p.acceptAt p.src.applyAt

/-- Entry to HALTED with a halt cause of Table OPS-3, from any state from BOOT to STOPPING (R384, R385). HB_OUT is low from 200 ns after it
(R422). -/
def State.halt (s : State) (cause : Nat) : State :=
  if s.ops.st = .halted || s.ops.st = .off then s
  else
    let here := s.startHere
    let s := (s.enter .halted cause).enginesStop
    let s := s.dropStartsIf fun p => if here p then 4 else 3
    let stops := s.ops.stops
    let s := stops.foldl (fun s p => s.refuse p.src 0x0612 .error 4) (s.modOps fun o => { o with stops := [] })
    let s := s.modTwn fun t => { t with hbWidth := min t.hbWidth ((s.now - t.hbAt) / 32 + 200) }
    let s := forNums (List.range 16) (fun k s => s.ostGuard k) s.haltOutputs
    let s := (s.modSaf fun f => { f with intDemand := true }).safJudge
    let s := (s.dropCommits).discardSpores
    let s := { s with log := { s.log with urgent := true } }
    if cause = 0x23 ∨ cause = 0x24 then ((s.acqStopAll).dmaAbortAll).modOps fun o => { o with coresStopped := true } else s

/-- A firmware watchdog not serviced for 100 ms (Table OPS-3). -/
def execWatchdogExpiry (s : State) : Host.Outcome State Fault Refusal := .next (s.halt 0x2A)

/-- A mismatch in a command-core pair. -/
def execCoreLockstepMismatch (s : State) : Host.Outcome State Fault Refusal := .next (s.halt 0x23)

/-- An uncorrectable error in DRAM or in on-die memory outside the engines. -/
def execMemEccError (s : State) : Host.Outcome State Fault Refusal := .next (s.halt 0x24)

/-- An on-module regulator outside its window. -/
def execRegulatorFault (s : State) : Host.Outcome State Fault Refusal := .next (s.halt 0x29)

/-- An internal fault of an engine (R33, R43, R94): its FAULT is set and the device goes to HALTED. -/
def State.engineFault (s : State) (e : Nat) : State := (s.modEng e fun n => { n with fault := true }).halt 0x21

/-- The instants at which the period's set is published and its last block completes (R94, R96): costs and stalls in cycles of 1 ns
from E_k on. -/
def Engine.publishAt (n : Engine) : Nat := n.startAt + 32 * ((match n.image with | some i => i.costCrit | none => 0) + n.stall)
def Engine.completeAt (n : Engine) : Nat := n.startAt + 32 * ((match n.image with | some i => i.costTotal | none => 0) + n.stall)

/-- Does an engine execute a period: has it passed its first boundary? -/
def State.inPeriod (s : State) (e : Nat) : Bool := s.executes e && !(s.engN e).armReset

/-- The deadline of step 9 or step 10 of Table ARC-4 that the engine's period is going to miss: an engine that has not started misses
step 9. A standby that resynchronises replays its periods instead (Table TWN-6). -/
def State.missAt (s : State) (e : Nat) : Option Nat :=
  let n := s.engN e
  let next := (s.nextLoad (s.leadTb e)).1
  let d9 := next - if s.linkMode then 96000 else 8000
  let d10 := next - 3200
  if !s.inPeriod e || s.twn.resync then none
  else if !n.started || (!n.published && decide (d9 < n.publishAt)) then some d9
  else if n.published && !n.complete && decide (d10 < n.completeAt) then some d10
  else none

/-- ENGINE_DEADLINE_MISS (R33): a committed graph misses step 9 or step 10 of Table ARC-4, and the device goes to HALTED at the deadline. -/
def execEngineDeadlineMiss (e : Fin 8) (s : State) : Host.Outcome State Fault Refusal :=
  match s.missAt e with
  | some t => .next ((s.advanceTo t).engineFault e)
  | none => .next s

/-- A period whose graph has not completed at the boundary that ends it has missed both deadlines (R33). A standby that
resynchronises replays its periods instead (Table TWN-6). -/
def State.unfinished (s : State) (e : Nat) : State :=
  let n := s.engN e
  if s.inPeriod e && !s.twn.resync && !(n.started && n.published && n.complete) then s.engineFault e else s

/-- An ECC error in graph or state memory: a corrected one counts, and in a period, which the lead timebase's boundaries begin, it adds 4
stall cycles, up to 400; any other one is an internal fault (R94). -/
def execEngineEccError (e : Fin 8) (corrected : Bool) (s : State) : Host.Outcome State Fault Refusal :=
  if !corrected then .next (s.engineFault e)
  else
    let s := s.count .frdEccCnt e
    let n := s.engN e
    if !(s.inPeriod e && (s.tb (s.leadTb e)).run = .running) then .next s
    else
    let s := (s.modEng e fun n => { n with stall := n.stall + 4 }).keepMax .frdStallMax e (n.stall + 4)
    if 400 < n.stall + 4 then .next (s.engineFault e) else .next s

/-- OPS_HALT (Table OPS-8); from the management port with cause HALT_MGT (R456). -/
def State.opsHalt (s : State) (c : Src) : State :=
  if s.ops.st = .halted then s.done c 0x0614 1 else (s.halt (if c.ring.val = 128 then 0x28 else 0x27)).done c 0x0614

def execOpsHalt (c : Src) (s : State) : Host.Outcome State Fault Refusal :=
  .next (s.acting c 0x0614 [] fun s => s.opsHalt c)

end Sys2Proof.Machine
end

