-- ==== Sys2Proof/Machine/Saf.lean ====
section
/-! DEFINITION. Safe gate inhibit: input pairs, discrepancies, resets, off-pulses, readbacks and safety faults (R246 to R263). -/

namespace Sys2Proof.Machine

/-- DISC_T of a pair, PW and PERIOD, in units of 31.25 ps, in the channels' copies of the parameter set. -/
def State.discT (s : State) (k : Nat) : Nat := 320000000 * nbits (s.saf.pairWord k) 23 16
def State.safPw (s : State) : Nat := 32000 * nbits s.saf.testWord 8 0
def State.safPeriod (s : State) : Nat := 32000000000 * nbits s.saf.testWord 23 16

def State.safPair (s : State) (k : Nat) : SafPair := vget s.saf.pairs k {}
def State.modPair (s : State) (k : Nat) (f : SafPair → SafPair) : State :=
  s.modSaf fun x => { x with pairs := vset x.pairs k (f (vget x.pairs k {})) }
def State.safChan (s : State) (ch : SafCh) : SafChan := if ch = .a then s.saf.chA else s.saf.chB
def State.modSafCh (s : State) (ch : SafCh) (f : SafChan → SafChan) : State :=
  s.modSaf fun x => if ch = .a then { x with chA := f x.chA } else { x with chB := f x.chB }

/-- SAF_STATUS (Table SAF-7). Before a parameter set is held, PSET_OK and GUARD_DONE read 0, as after reset. -/
def State.safStatusWord (s : State) : Nat :=
  let b (n : Nat) (x : Bool) : Nat := if x then 2 ^ n else 0
  let m (p : Nat → Bool) : Nat := maskOf 4 p
  let f := s.saf
  m (fun k => (s.safPair k).demand) * 2 ^ 20 + m (fun k => (s.safPair k).disc) * 2 ^ 16
    + (if f.chA.pset = [] ∧ f.chB.pset = [] then 0 else m (fun k => s.pairKind k != 2 || (s.safPair k).passed) * 2 ^ 12)
    + b 11 (f.resetReq && (List.range 4).any fun k => s.pairKind k = 1) + b 10 f.intDemand + b 9 f.fault
    + b 8 (f.chA.pset ≠ [] ∧ f.chA.pset = f.chB.pset) + b 7 f.chB.fb + b 6 f.chA.fb + b 5 f.chB.pulse.isSome + b 4 f.chA.pulse.isSome
    + b 3 f.chB.gen + b 2 f.chA.gen + b 1 f.chB.rel + b 0 f.chA.rel

/-- A record of the safety function in the event log: the bit of SAF_STATUS (R266). -/
def State.safNote (s : State) (bit : Nat) : State := s.note 13 3 bit (leBytes 8 s.safStatusWord)

/-- The release is judged after a change of what it rests on. A release that ends stops a RUNNING device, takes an ARMED one to
IDLE, and begins the turn-off order of R249; so does a demand that ends the hold of R441. -/
def State.safUpdate (s : State) : State :=
  let held := s.twn.haltHold.isSome && !s.saf.hold
  let was := s.saf.chA.rel || s.saf.chB.rel
  let both := s.saf.chA.rel && s.saf.chB.rel
  let s := s.safJudge
  if both && !(s.saf.chA.rel && s.saf.chB.rel) then
    match s.ops.st with
    | .running => s.toStopping 4
    | .armed => (s.toIdle 4).turnOffAll false
    | _ => s.turnOffAll false
  else if (was && !(s.saf.chA.rel || s.saf.chB.rel)) || (held && s.saf.hold) then s.turnOffAll false else s

/-- A safety fault is latched in both channels, with the code of the one that found it, and takes the device to HALTED (R261). -/
def State.safFault (s : State) (ch : SafCh) (code : Nat) : State :=
  let s := (s.modSaf fun f => { f with fault := true }).modSafCh ch fun c => { c with code := code }
  (((s.safJudge).safNote 9).notify).halt 0x25

/-! ### Input pairs (Table SAF-1, R251 to R254) -/

/-- The demand state of each line of a pair. -/
def State.lineDemands (s : State) (k : Nat) (p : SafPair) : Bool × Bool :=
  if (s.saf.pairWord k).testBit 3 then (!p.lineA, p.lineB) else (!p.lineA, !p.lineB)

/-- What a DEMAND or GUARD pair holds after a change of one line, from its line demands before and after: the first line to enter waits for
the other one to follow, even after it has returned, and one that follows when the first has returned waits for that one anew (R252). A
discrepancy ends once both lines have demanded and have returned within DISC_T of each other. -/
def State.pairDemands (s : State) (k : Nat) (old new : Bool × Bool) (p : SafPair) : SafPair :=
  let any := new.1 || new.2
  let all := new.1 && new.2
  let inA := new.1 && !old.1
  let inB := new.2 && !old.2
  let waits := (inA || inB) && (p.since.isNone || if p.firstB then inA else inB)
  let together := match p.leftAt with | some t => decide (s.now - t ≤ s.discT k) | none => true
  { p with
    demand := any
    both := if all then true else if any then p.both else false
    since := if all then none else if waits then some s.now else p.since
    firstB := if waits then inB else p.firstB
    leftAt := if all || !any then none else if p.both && p.leftAt.isNone then some s.now else p.leftAt
    disc := p.disc && !(p.discBoth && !any && together)
    discBoth := if all then p.disc else if any then p.discBoth else false
    opened := p.opened || any
    passed := p.passed || (s.pairKind k = 2 && !any && (p.opened || old.1 || old.2)) }

/-- A demand begins: it asks for a reset and sets NOTIFY (R453), and while the main side has power it counts, is offered to the acquisition units (Table ACQ-3) and
asks for a plant trigger message (R303). -/
def State.demandBegins (s : State) (k : Nat) : State :=
  let s := if s.pairKind k = 1 then s.modSaf fun f => { f with resetReq := true } else s
  let s := s.notify
  if s.ops.st = .off then s
  else
    let s := (s.count .safDemandCnt).setReg .safDemandNt 0 0 s.nt64
    let nt := s.reg .safDemandNt
    ((s.safNote (20 + k)).acqOffer 7 nt 0 fun _ => true).ptmAsk 3 nt 0

/-- A DEMAND or GUARD pair after a change of one line. -/
def State.demandPair (s : State) (k : Nat) (old new : Bool × Bool) : State :=
  let s := s.modPair k (s.pairDemands k old new)
  (if (new.1 || new.2) && !(old.1 || old.2) then s.demandBegins k else s).safUpdate

/-- A RESET pair after a change of one line: the trailing edge of a press of 100 ms to 2 s acts, unless a DEMAND pair demands or the lines
have disagreed in it for longer than DISC_T (R253). -/
def State.resetPair (s : State) (k : Nat) (new : Bool × Bool) : State :=
  let p := s.safPair k
  let any := new.1 || new.2
  let all := new.1 && new.2
  let bad := p.bad || match p.since with | some t => decide (s.discT k < s.now - t) | none => false
  let activeFor := match p.since, p.activeAt with | some t, some a => t - a | none, some a => s.now - a | _, none => 0
  let acts := !any && p.both && !bad && decide (3200000000 ≤ activeFor ∧ activeFor ≤ 64000000000)
  let p' := { p with
    both := if all then true else if any then p.both else false
    activeAt := if !any then none else if all then p.activeAt.or (some s.now) else p.activeAt
    since := if all || !any then none else if p.since.isSome then p.since else some s.now
    bad := any && bad }
  let s := s.modPair k fun _ => p'
  let demanding := (List.range 4).any fun j => s.pairKind j = 1 && (s.safPair j).demand
  if acts && !demanding then
    let s := s.modSaf fun f => { f with resetReq := false }
    (s.safNote 11).safUpdate
  else s

/-- A level of a safety input line after its filter. The lines of an UNUSED pair take no further part; the Thallus goes on evaluating the
others while the main side has no power (R247, R459). -/
def State.safInput (s : State) (k : Nat) (lineB level : Bool) : State :=
  let old := s.lineDemands k (s.safPair k)
  let s := s.modPair k fun p => if lineB then { p with lineB := level } else { p with lineA := level }
  let new := s.lineDemands k (s.safPair k)
  match s.pairKind k with
  | 0 => s
  | 3 => s.resetPair k new
  | _ => s.demandPair k old new

def execSafetyInputChange (k : Fin 4) (lineB level : Bool) (s : State) : Host.Outcome State Fault Refusal :=
  .next (s.safInput k lineB level)

/-- One line of a pair has entered the demand state and the other has not followed within DISC_T, whether or not the first one has
returned (R252). -/
def execDiscrepancy (k : Fin 4) (s : State) : Host.Outcome State Fault Refusal :=
  let p := s.safPair k
  match p.since with
  | some t =>
    if (s.pairKind k = 1 || s.pairKind k = 2) && !p.disc then
      let s := (s.advanceTo (t + s.discT k)).modPair k fun p => { p with disc := true, discBoth := false, since := none }
      .next (if s.ops.st = .off then s else ((s.count .safDiscCnt).safNote (16 + k)).safUpdate)
    else .next s
  | none => .next s

/-! ### Off-pulses and readbacks (R255 to R257) -/

/-- The instant of a releasing channel's next pulse: n·PERIOD from its first release, for channel B half a period later. -/
def State.nextPulse (s : State) (ch : SafCh) (first : Nat) : Nat :=
  let p := s.safPeriod
  let origin := if ch = .a then first + p else first + p / 2
  if s.now ≤ origin ∨ p = 0 then origin else origin + (s.now - origin + p - 1) / p * p

def execOffPulseStart (ch : SafCh) (s : State) : Host.Outcome State Fault Refusal :=
  let c := s.safChan ch
  match c.firstRel with
  | some first =>
    if c.rel && c.pulse.isNone then
      let s := s.advanceTo (s.nextPulse ch first)
      .next (s.modSafCh ch fun c => { c with gen := false, fb := false, pulse := some s.now, changeAt := s.now, annAt := some s.now })
    else .next s
  | none => .next s

/-- After PW the channel drives its output high again, unless a demand has come (Table SAF-2); a pulse that read back low has
passed. -/
def execOffPulseEnd (ch : SafCh) (s : State) : Host.Outcome State Fault Refusal :=
  match (s.safChan ch).pulse with
  | some t =>
    let s := s.advanceTo (t + s.safPw)
    let passed := !(s.safChan ch).fb
    let s := s.modSafCh ch fun c => { c with gen := c.rel, fb := c.rel, pulse := none, changeAt := s.now }
    .next (if passed then s.count (if ch = .a then .safPulseCntA else .safPulseCntB) else s)
  | none => .next s

/-- 50 µs after a change the readback must equal the driven level (R256). Once it has read high after a pulse, that pulse's announcement
is spent (R257). -/
def execReadbackCheck (ch : SafCh) (level : Bool) (s : State) : Host.Outcome State Fault Refusal :=
  let c := s.safChan ch
  let s := (s.advanceTo (c.changeAt + 1600000)).modSafCh ch fun c =>
    { c with fb := level, annAt := if level && c.pulse.isNone then none else c.annAt }
  if level == c.gen then .next s
  else .next (s.safFault ch (if level then 1 else 2))

/-- The other channel's readback has gone low without announcement, or has stayed low beyond PW + 100 µs from the announced start of its
pulse, while the observing channel has no demand of its own (R257). -/
def execCrossFault (observer : SafCh) (s : State) : Host.Outcome State Fault Refusal :=
  let other := s.safChan (if observer = .a then .b else .a)
  let allowed := match other.annAt with
    | some t => decide (s.now ≤ t + s.safPw + 3200000)
    | none => false
  if (s.safChan observer).rel && !allowed then .next (s.safFault observer 3) else .next s

/-! ### Other safety faults -/

def execSafetyLockstepMismatch (s : State) : Host.Outcome State Fault Refusal := .next (s.safFault .a 4)

/-- PSET_MISMATCH_TIMEOUT: the copies of the channels still differ 1 s after boot or commit (Table SAF-2); until then the release is
withheld (`safMayRelease`). Before channel A holds a set there is none to differ. -/
def execPsetMismatchTimeout (s : State) : Host.Outcome State Fault Refusal :=
  if s.saf.chA.pset = [] ∨ s.saf.chA.pset = s.saf.chB.pset then .next s
  else
    let s := s.advanceTo (s.saf.setAt + 32000000000)
    .next ((s.modSafCh .a fun c => { c with code := 5 }).safFault .b 5)

def execSafetyClockFault (ch : SafCh) (s : State) : Host.Outcome State Fault Refusal := .next (s.safFault ch 7)

/-- The bytes of a parameter set that its CRC-32C covers (R263). -/
def psetBytes (ws : List Word) : Bytes := ws.flatMap fun w => leBytes 4 w.toNat

/-- A channel takes its own copy of a record and checks it against the record's CRC-32C; a copy that fails is not held. -/
def SafChan.takeSet (c : SafChan) (ws : List Word) (crc : Nat) : SafChan :=
  { c with pset := if crc32c (psetBytes ws) = crc then ws else [] }

/-- The channels that have their supply take their copies of a committed parameter set (R263): PSET_ID and the five configuration words.
The pairs are judged anew under it; one that demands and that the set makes a DEMAND pair asks for a reset (R250). -/
def State.safTakeSet (s : State) : State :=
  let w := fun (r : Reg) (i : Nat) => (regGet s.live r i).setWidth 32
  let set_ : List Word := w .safPsetId 0 :: w .safTestCfg 0 :: (List.range 4).map (w .safInCfg)
  let crc := crc32c (psetBytes set_)
  let was := (List.range 4).map s.pairKind
  let s := s.modSaf fun f => { f with
    chA := f.chA.takeSet set_ crc, chB := if s.mgt.vmgt then f.chB.takeSet set_ crc else f.chB, setAt := s.now }
  let begun := (List.range 4).any fun k => s.pairKind k = 1 && lget was k 0 != 1 && (s.safPair k).demand
  let s := if begun then s.modSaf fun f => { f with resetReq := true } else s
  forNums (List.range 4) (fun k s =>
    let p := s.safPair k
    if s.pairKind k = 1 ∨ s.pairKind k = 2 then s.demandPair k (p.demand, p.demand) (s.lineDemands k p)
    else (s.modPair k fun p => { p with demand := false, disc := false, since := none, leftAt := none }).safUpdate) s

end Sys2Proof.Machine
end

