-- ==== Sys2Proof/Machine/Auth.lean ====
section
/-! DEFINITION. Command authentication and trust: anchors and their authority, signatures and tags, grants and their keys, tamper
detections (R336 to R358). -/

namespace Sys2Proof.Machine

/-! ### Anchors (R342, R343) -/

def State.anchor (s : State) (k : Nat) : Anchor := vget s.sec.anchors k {}

/-- Does a copy of a slot's record stand: its MAC verifies, its generation is the fused one, and for slot 0 its fingerprint is the fused
value? -/
def anchorStands (k otpGen : Nat) (r : AnchorRec) : Bool :=
  r.mac = Config.anchorMac k r.gen r.mldsa r.p384 && r.gen = otpGen
    && (k != 0 || Config.sha384 (r.mldsa ++ r.p384) = Config.rootFingerprint)

/-- The record of a slot: the first of its copies that stands. -/
def State.anchorRec (s : State) (k : Nat) : Option AnchorRec :=
  let a := s.anchor k
  (a.copy0.filter (anchorStands k a.otpGen)).or (a.copy1.filter (anchorStands k a.otpGen))

/-- Is a slot valid? -/
def State.anchorValid (s : State) (k : Nat) : Bool := (s.anchorRec k).isSome

/-- OWNED: at least one owner slot is valid. -/
def State.owned (s : State) : Bool := (List.range 8).any fun i => s.anchorValid (8 + i)

/-- Table AUT-3, the row "every other command", which customer graphs and configuration blocks share: vendor slots sign while the
device is UNOWNED, owner slots while it is OWNED. -/
def State.signs (s : State) (slot : Nat) : Bool := if s.owned then 8 ≤ slot else slot < 8

/-- May the anchor in a slot sign a command (Table AUT-3)? -/
def State.maySign (s : State) (slot opcode : Nat) (payload : Bytes) : Bool :=
  if (opcode = 0x0403 ∨ opcode = 0x0404) ∧ 1 ≤ pb payload 0 ∧ pb payload 0 < 8 then slot < 8 else s.signs slot

/-! ### Signatures and tags (R338 to R341) -/

/-- The message M of a command (R338). -/
def State.message (s : State) (ring : Nat) (desc payload : Bytes) : Bytes :=
  leBytes 16 s.sec.targetId.toNat ++ leBytes 2 ring ++ desc.take 2 ++ (desc.drop 3).take 21 ++ payload

/-- Check a hybrid signature container (Table AUT-2) over a message with the keys of the slot that it names, where that is valid: none where
it verifies, else the DETAIL of Table AUT-7. -/
def hybridCheck (keys : Option AnchorRec) (sig : Bytes) (context : Nat) (name : String) (msg : Bytes) (keyId : Option Nat) : Option Nat :=
  let slot := pb sig 2
  if sig.length ≠ 3413 ∨ pf sig 0 2 ≠ 1 ∨ pb sig 3 ≠ context ∨ 16 ≤ slot ∨ keyId.any (fun k => k != slot) then some 7
  else match keys with
    | none => some 8
    | some a =>
      let ml := Config.mldsaVerify a.mldsa msg name ((sig.drop 8).take 3309)
      let ec := Config.ecdsaVerify a.p384 msg ((sig.drop 3317).take 48) ((sig.drop 3365).take 48)
      if ml && ec then none else if ec then some 9 else if ml then some 10 else some 11

/-- Check a hybrid signature container (Table AUT-2) over a message by the anchors of now: none where it verifies, else the DETAIL of Table AUT-7. -/
def State.sigCheck (s : State) (sig : Bytes) (context : Nat) (name : String) (msg : Bytes) (keyId : Option Nat) : Option Nat :=
  hybridCheck (s.anchorRec (pb sig 2)) sig context name msg keyId

/-- Check the trailer of an image or of a configuration block: container at byte `n`, over the bytes before it, by an anchor that
`may` sign it (R341, R343). -/
def State.trailerCheck (s : State) (bs : Bytes) (n context : Nat) (name : String) (may : Nat → Bool) : Option Nat :=
  let sig := bs.drop n
  if sig.length = 3413 ∧ pb sig 2 < 16 ∧ s.anchorValid (pb sig 2) ∧ ¬ may (pb sig 2) then some 8
  else s.sigCheck sig context name (bs.take n) none

/-- The tag of a SESSION command (R339). -/
def State.tagOf (s : State) (key : Bytes) (ring : Nat) (desc payload : Bytes) : Bytes :=
  Config.kmac256 key (s.message ring desc payload) 16 "NDZ CMD"

/-- What keeps a SESSION command of a ring from being authentic, judged with the NT value of now (R352): AUTH_FAIL detail 4 or 5. -/
def State.sessionRefusal (s : State) (ring : Nat) (keyId : Nat) : Option Nat :=
  match (s.rep ring).key with
  | none => some 4
  | some k => if k.keyId.toNat ≠ keyId then some 4 else if s.nt64 < k.from_ ∨ k.expiry < s.nt64 then some 5 else none

/-! ### Grants (R348 to R351) -/

/-- The recipient block of a payload that names a DEVICE_UID. -/
def recipient (p : Bytes) (uid : BitVec 128) : Option Bytes :=
  ((List.range (pb p 1)).map fun i => (p.drop (48 + 1248 * i)).take 1248).find? fun b => pf b 0 16 = uid.toNat

/-- Why a grant is not accepted (R350, R351): its status and detail. -/
def State.grantRefusal (s : State) (ring : Nat) (plant : Bool) (p : Bytes) : Option (Status × Nat) :=
  let r := s.rep ring
  if pb p 0 ≠ (if plant then 2 else 1) then some (.checkFail, 9)
  else if p.length ≠ 48 + 1248 * pb p 1 ∨ (pb p 1 ≠ 1 ∧ pb p 1 ≠ 2) then some (.checkFail, 0x80000003)
  else if pf p 32 16 ≠ r.nonce.toNat then some (.replay, 5)
  else if !plant && pf p 4 4 != r.epoch.toNat + 1 then some (.replay, 3)
  else if plant && s.sec.plant.toList.any (fun k =>
      match k with | some k => k.keyId.toNat = pf p 2 2 && pf p 4 4 ≤ k.epoch.toNat | none => false) then some (.replay, 3)
  else if (recipient p s.sec.uid).isNone then some (.checkFail, 6)
  else if s.pair && (recipient p s.twn.twinUid).isNone then some (.checkFail, 7)
  else if plant && !(s.sec.plant.toList.any fun k => match k with | some k => decide (k.expiry < s.nt64) | none => true) then
    some (.checkFail, 8)
  else none

/-- Is a command that has been accepted, and acts now, a grant whose key must not be installed any more? -/
def State.isDead (s : State) (c : Src) : Bool :=
  (if c.ring.val = 128 then s.mgt.cmd.any fun m => m.cmd.dead else s.cmd.handed.any fun h => decide (h.src = c) && h.dead)

/-- Grants that are accepted and not queued yet lose their keys as the queued ones do (R345, Table AUT-8). -/
def State.grantsDie (s : State) (hit : Handed → Bool) : State :=
  let mark := fun (h : Handed) => if (h.opcode = 0x0401 ∨ h.opcode = 0x0405) ∧ hit h then { h with dead := true } else h
  (s.modCmd fun c => { c with handed := c.handed.map mark }).modMgt fun m => { m with
    cmd := m.cmd.map fun x => { x with cmd := mark x.cmd } }

/-- The unwrap of a grant becomes a work item of its ring's level for a hybrid verifier lane (R349, R330). The management controller unwraps
those of its own ring itself (log 52). -/
def State.grantQueue (s : State) (g : PendGrant) : State :=
  let no := s.cmd.nextNo
  let l := s.level g.ring
  let same := fun (y : PendGrant) => y.plant == g.plant && if g.plant then pf y.payload 2 2 == pf g.payload 2 2 else y.ring == g.ring
  let s := s.modSec fun x => { x with
    grants := x.grants ++ [{ g with no := no }], lastGrants := (x.lastGrants.filter fun y => !same y) ++ [g] }
  let s := s.modCmd fun c => { c with
    nextNo := no + 1
    ready := if g.ring.val = 128 then c.ready else c.ready ++ [{ level := l, kind := .unwrap, no := no }] }
  if g.ring.val = 128 then s else s.backPressure l g.ring g.src.seq

/-- LAST_SEQ of a ring, and CMD_LAST_SEQ with it. -/
def State.setLastSeq (s : State) (ring : Nat) (v : DWord) : State :=
  let s := s.modRep ring fun x => { x with lastSeq := v }
  if ring < 128 then s.setReg .cmdLastSeq ring 0 v else s

/-- What the acceptance of a session grant sets at once: the ring's epoch, its floor, and a new NONCE (R350). -/
def State.grantTaken (s : State) (ring : Nat) (seq : DWord) (p : Bytes) : State :=
  let (i, s) := s.draw
  (s.modRep ring fun r => { r with epoch := BitVec.ofNat 32 (pf p 4 4), floorUnset := false, nonce := Config.drbg128 i }).setLastSeq ring
    (BitVec.ofNat 64 (max (max seq.toNat (s.rep ring).lastSeq.toNat) (pf p 24 8)))

/-- The unwrap of an accepted grant is queued; one whose keys or anchor have gone since its acceptance is marked. -/
def State.grantGo (s : State) (c : Src) (plant : Bool) (p : Bytes) : State :=
  s.grantQueue { src := c, plant := plant, ring := c.ring, payload := p, grantor := c.keyId.toNat % 16, erased := s.isDead c }

/-- A grant whose list is full waits for a place in it (R330). -/
def State.grantAccept (s : State) (c : Src) (plant : Bool) (p : Bytes) : State :=
  if c.ring.val ≠ 128 ∧ 64 ≤ s.listLen (s.level c.ring) then s.took c false else s.grantGo c plant p

/-- KEY_GRANT (Table AUT-6), whose conditions R350 has judged at its acceptance. -/
def execKeyGrant (c : Src) (p : Bytes) (s : State) : Host.Outcome State Fault Refusal :=
  .next (s.obey c 0x0401 p fun s => s.grantAccept c false p)

/-- PLANT_KEY_GRANT (Table AUT-6), whose conditions R351 has judged at its acceptance. -/
def execPlantKeyGrant (c : Src) (p : Bytes) (s : State) : Host.Outcome State Fault Refusal :=
  .next (s.obey c 0x0405 p fun s => s.grantAccept c true p)

/-- The unwrapped key K_g of a grant (R349). -/
def State.unwrap (s : State) (p : Bytes) : Option Bytes :=
  match recipient p s.sec.uid with
  | none => none
  | some b =>
    let ct := (b.drop 113).take 1088
    let epk := (b.drop 16).take 97
    let ss := Config.mlkemDecaps s.sec.uid ct ++ Config.ecdhX s.sec.uid epk
    Config.aesKwUnwrap (Config.kmac256 ss (ct ++ epk ++ b.take 16 ++ p.take 48) 32 "NDZ WRAP") ((b.drop 1201).take 40)

/-- The place a new plant key takes: an empty entry, or the expired one with the earliest EXPIRY (R351). -/
def State.plantPlace (s : State) : Option Nat :=
  let l := s.sec.plant.toList
  match l.findIdx? (·.isNone) with
  | some i => some i
  | none =>
    let dead := (l.zip (List.range 4)).filterMap fun (k, i) =>
      match k with
      | some k => if k.expiry < s.nt64 then some (k.expiry, i) else none
      | none => none
    match dead with
    | [] => none
    | x :: rest => some (rest.foldl (fun b y => if y.1 < b.1 then y else b) x).2

/-- The unwrap of a pending grant completes (R349 to R351). -/
def State.grantInstall (s : State) (g : PendGrant) : State :=
  let p := g.payload
  let op := if g.plant then 0x0405 else 0x0401
  let s := s.modSec fun x => { x with grants := x.grants.filter fun y => !(y.src == g.src) }
  if g.erased then s.refuse g.src op .error 4
  else
    match s.unwrap p with
    | none =>
      let s := if g.plant then s else s.modRep g.ring.val fun r => { r with key := none }
      s.refuse g.src op .error 3
    | some kg =>
      let epoch := leBytes 4 (pf p 4 4)
      let s := s.modSec fun x => { x with storeKey := true }
      let from_ := BitVec.ofNat 64 (pf p 8 8)
      let expiry := BitVec.ofNat 64 (pf p 16 8)
      let id := BitVec.ofNat 16 (pf p 2 2)
      if g.plant then
        let k : PlantKey := { keyId := id, epoch := BitVec.ofNat 32 (pf p 4 4), from_ := from_, expiry := expiry
                              grantor := g.grantor, key := Config.kmac256 kg (leBytes 2 (pf p 2 2) ++ epoch) 32 "NDZ PLANT" }
        match s.plantPlace with
        | some i => (s.modSec fun x => { x with plant := vset x.plant i (some k) }).done g.src op
        | none => s.refuse g.src op .checkFail 8
      else
        let k : SessKey := { keyId := id, from_ := from_, expiry := expiry, grantor := g.grantor
                             key := Config.kmac256 kg (leBytes 16 s.sec.targetId.toNat ++ leBytes 2 g.ring.val ++ epoch) 32
                               "NDZ SESSION" }
        (s.modRep g.ring.val fun r => { r with key := some k }).done g.src op (pf p 4 4)

/-- Is the unwrap of a grant being carried out: on a lane, or by the management controller for its own ring? -/
def State.unwrapping (s : State) (g : PendGrant) : Bool :=
  g.ring.val = 128 || s.cmd.units.toList.any fun u => u.any fun w => w.kind = .unwrap && w.no = g.no

/-- The lane that a grant has occupied a second time is set free, and its list is shorter (R349, R330). -/
def State.unwrapFree (s : State) (g : PendGrant) : State :=
  forNums [3, 4, 5, 6] (fun u s =>
    if (vget s.cmd.units u none).any fun w => w.kind = .unwrap && w.no = g.no then
      (s.modCmd fun c => { c with units := vset c.units u none }).backPressure (s.level g.ring) g.ring g.src.seq
    else s) s

/-- GRANT_UNWRAP: an unwrap completes; that of ring 128 while VMGT stands (R457). -/
def execGrantUnwrap (ring : Fin 129) (s : State) : Host.Outcome State Fault Refusal :=
  match s.sec.grants.find? fun g => g.ring = ring && s.unwrapping g && (g.ring.val != 128 || s.mgt.vmgt) with
  | some g => .next ((s.unwrapFree g).grantInstall g)
  | none => .next s

/-- KEY_RETIRE (R353). -/
def State.keyRetire (s : State) (c : Src) (p : Bytes) : State :=
  if pb p 0 = 0 then
    let had := (s.rep c.ring.val).key.isSome
    let s := s.modSec fun x => { x with lastGrants := x.lastGrants.filter fun g => g.plant || g.ring != c.ring }
    (s.modRep c.ring.val fun r => { r with key := none }).done c 0x0402 (if had then 1 else 0)
  else
    let hit := fun (k : Option PlantKey) => match k with
      | some k => pb p 0 = 1 && k.keyId.toNat = pf p 2 2 && k.epoch.toNat = pf p 4 4
      | none => false
    let had := s.sec.plant.toList.any hit
    (s.modSec fun x => { x with
      plant := x.plant.map fun k => if hit k then none else k
      lastGrants := x.lastGrants.filter fun g => !(g.plant && pf g.payload 2 2 == pf p 2 2 && pf g.payload 4 4 == pf p 4 4) }).done c 0x0402
        (if had then 1 else 0)

def execKeyRetire (c : Src) (p : Bytes) (s : State) : Host.Outcome State Fault Refusal :=
  .next (s.obey c 0x0402 p fun s => s.keyRetire c p)

/-! ### Changes of anchors (R344, R345) -/

/-- Every session key and plant key whose grant a slot signed is retired; one that is still to be unwrapped is not installed (R345; the model
ends its grant as it does an erased one, log 36). -/
def State.retireGrants (s : State) (slot : Nat) : State :=
  let s := forNums (List.range 129) (fun r s => s.modRep r fun x => { x with
    key := match x.key with | some k => if k.grantor = slot then none else some k | none => none }) s
  let s := s.modSec fun x => { x with
    plant := x.plant.map fun k => match k with | some k => if k.grantor = slot then none else some k | none => none
    grants := x.grants.map fun g => { g with erased := g.erased || g.grantor == slot }
    lastGrants := x.lastGrants.filter fun g => g.grantor != slot }
  s.grantsDie fun h => h.src.keyId.toNat % 16 == slot

/-- The refusals that installing and revoking share. -/
def State.anchorRefusal (s : State) (slot gen : Nat) : Option Nat :=
  if 16 ≤ slot ∨ gen ≠ (s.anchor slot).otpGen + 1 then some 1
  else if 15 ≤ (s.anchor slot).otpGen then some 2
  else if slot = 0 then some 3 else none

/-- Both NAND copies of a slot and its fuses. -/
def State.setAnchor (s : State) (slot : Nat) (a : Anchor) : State := s.modSec fun x => { x with anchors := vset x.anchors slot a }

/-- The copies of the valid anchors that the management controller verifies against (R457); every accepted change of an anchor and every boot
refreshes them. -/
def State.copyAnchors (s : State) : State :=
  if !s.mgt.vmgt then s
  else s.modMgt fun m => { m with
    anchors := some ((List.range 16).filterMap fun k => (s.anchorRec k).map fun r => (k, r.mldsa, r.p384)) }

/-- ANCHOR_INSTALL (Table AUT-6). -/
def State.anchorInstall (s : State) (c : Src) (p : Bytes) : State :=
  let slot := pb p 0
  let ml := (p.drop 24).take 1952
  let ec := (p.drop 1976).take 97
  match s.anchorRefusal slot (pb p 1) with
  | some d => s.refuse c 0x0403 .checkFail d
  | none =>
    if !Config.keysValid ml ec then s.refuse c 0x0403 .checkFail 5
    else
      let s := s.nandTurn.setAnchor slot (Anchor.make slot (pb p 1) ml ec)
      let s := s.retireGrants slot
      let s := if (pb p 2).testBit 0 ∧ 8 ≤ slot then s.modSec fun x => { x with targetId := BitVec.ofNat 128 (pf p 8 16) } else s
      (s.copyAnchors).done c 0x0403

def execAnchorInstall (c : Src) (p : Bytes) (s : State) : Host.Outcome State Fault Refusal :=
  .next (s.obey c 0x0403 p fun s => s.anchorInstall c p)

/-- ANCHOR_REVOKE (Table AUT-6). -/
def State.anchorRevoke (s : State) (c : Src) (p : Bytes) : State :=
  let slot := pb p 0
  match s.anchorRefusal slot (pb p 1) with
  | some d => s.refuse c 0x0404 .checkFail d
  | none =>
    let empty : Anchor := { otpGen := pb p 1 }
    if s.owned && !(s.setAnchor slot empty).owned then s.refuse c 0x0404 .checkFail 4
    else (((s.nandTurn.setAnchor slot empty).retireGrants slot).copyAnchors).done c 0x0404

def execAnchorRevoke (c : Src) (p : Bytes) (s : State) : Host.Outcome State Fault Refusal :=
  .next (s.obey c 0x0404 p fun s => s.anchorRevoke c p)

/-! ### Tamper detection (R358, Table AUT-9) -/

/-- Is a source watched, by the configuration in the always-on domain? -/
def State.tamperOn (s : State) (n : Nat) : Bool :=
  let b (i : Nat) : Bool := s.sec.tamperCfg.getLsbD i
  if n < 4 then b n && !b (14 + n / 2)
  else if n = 4 then b 14 && b 0 && b 1
  else if n = 5 then b 15 && b 2 && b 3
  else if n = 6 then !s.ops.vinOk
  else true

/-- Erase the store key, and with it every session key and plant key. -/
def State.eraseKeys (s : State) : State :=
  let s := forNums (List.range 129) (fun r s => s.modRep r fun x => { x with key := none }) s
  let s := s.modSec fun x => { x with
    storeKey := false, plant := Vector.replicate 4 none, grants := x.grants.map fun g => { g with erased := true }
    lastGrants := [] }
  s.grantsDie fun _ => true

/-- A detection: the keys go, it counts, and a record with what stands at the event waits for the next boot. With HALT set the device goes
to HALTED while the main side is powered. -/
def State.tamper (s : State) (n : Nat) : State :=
  let s := (((s.eraseKeys).countWrap .secTamperCnt).setFlag .secTamperEvt 0 n).notify
  let s := s.modSec fun x => { x with tamperRecs := x.tamperRecs ++ [{
    ntNs := 0, recno := 0, rtc := s.rtc, source := 2, type := 3, state := s.ops.st.code, flags := 2 + if s.nt.valid then 1 else 0, detail := BitVec.ofNat 32 n
    body := leBytes 8 (s.reg .secTamperEvt).toNat, resets := x.resetCnt }] }
  if s.sec.tamperCfg.getLsbD (16 + n) then s.halt 0x26 else s

def execTamperDetection (source : Fin 10) (s : State) : Host.Outcome State Fault Refusal :=
  if s.tamperOn source then .next (s.tamper source) else .next s

end Sys2Proof.Machine
end

