-- ==== Sys2Proof/Machine/Image.lean ====
section
/-! DEFINITION. Control graph images: their layout, the load checks of Table FRD-4 in their order, and the coefficients that a graph
reads (R61, R70 to R75, R93, R484, R485). -/

namespace Sys2Proof.Machine

/-! ### Layout -/

/-- A block record (Table FRD-2). -/
def blockRec (r : Bytes) : BlockRec :=
  let nIn := pb r 3 % 16
  let nOut := pb r 3 / 16
  { code := pf r 0 2, opt := pb r 2, ins := (List.range (min nIn 6)).map fun i => pf r (4 + 2 * i) 2
    outs := (List.range (min nOut 4)).map fun i => pf r (16 + 2 * i) 2
    paramBase := pf r 24 2, stateOff := pf r 26 2, imm := pf r 28 4 }

/-- An image as its bytes lay it out (Table FRD-1, R70), before any check. -/
def imageOf (bs : Bytes) : Image :=
  let w := fun o i => BitVec.ofNat 32 (pf bs (o + 4 * i) 4)
  let nSig := pf bs 22 2
  let co := pf bs 56 4
  let iv := co + 4 * pf bs 26 2
  { kind := pb bs 6, nStacks := pb bs 7, imageId := BitVec.ofNat 64 (pf bs 8 8), version := BitVec.ofNat 32 (pf bs 16 4)
    signals := nSig, stateBytes := pf bs 28 4, costCrit := pf bs 32 4, costTotal := pf bs 36 4, tcMin := pf bs 40 4
    tcMax := pf bs 44 4
    blocks := (List.range (pf bs 20 2)).map fun i => blockRec ((bs.drop (pf bs 48 4 + 32 * i)).take 32)
    params := (List.range (pf bs 24 2)).map fun i =>
      let o := pf bs 52 4 + 8 * i
      { ty := pf bs o 2, interp := pf bs (o + 2) 2, dflt := BitVec.ofNat 32 (pf bs (o + 4) 4) }
    consts := (List.range (pf bs 26 2)).map (w co)
    initSig := (List.range nSig).map (w iv)
    initState := (List.range ((pf bs 28 4 + 7) / 8)).map fun i =>
      BitVec.ofNat 64 (leNat (((bs.drop (iv + 4 * nSig)).take (pf bs 28 4)).drop (8 * i) |>.take 8))
    raw := bs }

/-! ### Load checks (Table FRD-4) -/

/-- The first row: an image length of less than 64, a BODY_BYTES outside its range, or the two apart by other than a trailer. -/
def imageLengthOk (bs : Bytes) (len : Nat) : Bool :=
  let body := pf bs 60 4
  decide (64 ≤ len) && decide (64 ≤ body) && decide (body ≤ 53248) && decide (len = body + 3413)

/-- Does an offset lie in the body, and with it the `n` items of `size` bytes that begin there? -/
def inBody (body off n size : Nat) : Bool :=
  decide (64 ≤ off) && decide (off < body) && decide (off + n * size ≤ body)

/-- Counts, offsets, the initial-value section and the parameter descriptors (DETAIL 0x02). DEDUCED: a KIND above 1 fails here, with the
fields of Table FRD-1 that have a range (log 61). -/
def imageCountsOk (bs : Bytes) : Bool :=
  let body := pf bs 60 4
  let h := fun o => pf bs o 2
  let within := fun (lo hi v : Nat) => decide (lo ≤ v) && decide (v ≤ hi)
  within 0 1 (pb bs 6) && within 0 2 (pb bs 7) && within 1 1024 (h 20) && within 1 2048 (h 22) && within 0 1024 (h 24)
    && within 0 1024 (h 26) && inBody body (pf bs 48 4) (h 20) 32 && inBody body (pf bs 52 4) (h 24) 8
    && inBody body (pf bs 56 4) (h 26) 4
    && decide (pf bs 56 4 + 4 * h 26 + 4 * h 22 + pf bs 28 4 ≤ body)
    && (imageOf bs).params.all fun p => decide (p.ty ≤ 2) && decide (p.interp ≤ 1)

/-- The largest OPT of a block (Table FRD-20). -/
def optMax (code : Nat) : Nat :=
  match code with
  | 0x0B => 3 | 0x31 => 19 | 0x33 => 3 | 0x37 => 2 | 0x44 => 1 | 0x50 => 1 | _ => 0

/-- Known code, counts and OPT (DETAIL 0x03). -/
def blockKnown (counts : Nat) (b : BlockRec) : Bool :=
  match blockRow b.code with
  | some r => decide (counts = 16 * r.outs.length + r.ins.length) && decide (b.opt ≤ optMax b.code)
  | none => false

/-- The range of IMM (Table FRD-20). -/
def immRange (code nStacks : Nat) : Nat × Nat :=
  match code with
  | 0x0D => (1, 2 ^ 24) | 0x10 => (1, 64) | 0x30 | 0x31 => (0, 159) | 0x32 | 0x36 | 0x38 => (0, 15) | 0x33 => (0, 7) | 0x34 => (0, 1)
  | 0x35 => (0, 63) | 0x37 => (0, 127) | 0x39 => (1, 1000) | 0x50 | 0x51 => (0, nStacks - 1) | _ => (0, 0)

/-- References, outputs, PARAM_BASE and IMM in their ranges (DETAIL 0x04). -/
def blockRefsOk (img : Image) (b : BlockRec) : Bool :=
  (b.ins.all fun r =>
    decide (r % 16384 < match r / 16384 with | 0 => img.signals | 1 => 64 | 2 => img.consts.length | _ => 1024))
  && (b.outs.all fun o => decide (o < img.signals))
  && decide ((immRange b.code img.nStacks).1 ≤ b.imm) && decide (b.imm ≤ (immRange b.code img.nStacks).2)
  && (!(b.code = 0x50 || b.code = 0x51) || decide (b.imm < img.nStacks)) && decide (b.paramBase < 1024)

/-- The type of an input-frame word (Table FRD-8); none for Raw and reserved words. -/
def frameType (i : Nat) : Option SigTy := if i = 4 ∨ (7 ≤ i ∧ i ≤ 10) then some .b else none

/-- The block that writes a signal word, with the position of the output. -/
def writerOf (img : Image) (sig : Nat) : Option (BlockRec × Nat) :=
  match img.blocks.find? fun b => b.outs.contains sig with
  | some b => some (b, b.outs.idxOf sig)
  | none => none

/-- The type of a reference; none for a Raw or reserved word, `any` for a constant and for what has no type of its own. `fuel` bounds
the chain of pass-through blocks. DESIGN CHOICE: the output of a SELECT or DELAY block whose operands are only constants, or a loop of
pass-through blocks, has no type of its own and fits every input, as a constant does (log 18). -/
def refType (img : Image) : Nat → Nat → Option SigTy
  | 0, _ => some .any
  | fuel + 1, r =>
    match r / 16384 with
    | 0 =>
      match writerOf img r with
      | none => some .any
      | some (b, k) =>
        match b.code with
        | 0x33 => some (match b.opt with | 0 => .q | 1 => .t | _ => .b)
        | 0x37 => some (match b.opt with | 0 => .q | 1 => .t | _ => .b)
        | 0x10 => refType img fuel (lget b.ins 0 0)
        | 0x09 =>
          match refType img fuel (lget b.ins 1 0), refType img fuel (lget b.ins 2 0) with
          | some .any, ty => ty
          | ty, some .any => ty
          | some a, some c => some (if a = c then a else .q)
          | _, _ => none
        | _ => match blockRow b.code with | some row => some (lget row.outs k .q) | none => some .any
    | 1 => frameType (r % 16384)
    | 2 => some .any
    | _ =>
      match img.params[r % 16384]? with
      | some p => some (if p.ty = 1 then .t else .q)
      | none => some .any

/-- May a signal of one type feed an input of another (R72)? -/
def fits (have_ want : SigTy) : Bool :=
  want = .any || have_ = .any || (if want = .t then have_ = .t else have_ != .t)

/-- The type checks on one block (DETAIL 0x05). -/
def blockTypesOk (img : Image) (b : BlockRec) : Bool :=
  match blockRow b.code with
  | none => true
  | some row =>
    ((List.range b.ins.length).all fun i =>
      match refType img (img.blocks.length + 1) (lget b.ins i 0) with
      | none => false
      | some ty => fits ty (lget row.ins i .any))
    && (b.code != 0x09 ||
      match refType img (img.blocks.length + 1) (lget b.ins 1 0), refType img (img.blocks.length + 1) (lget b.ins 2 0) with
      | some a, some c => a = .any || c = .any || decide ((a = .t) = (c = .t))
      | _, _ => false)

/-- Is no number listed twice? -/
def noRepeat : List Nat → Bool
  | [] => true
  | x :: rest => !rest.contains x && noRepeat rest

/-- One writer for every signal, a writer for every referenced signal, one tap for a detector input (DETAIL 0x06, R126). -/
def writersOk (img : Image) : Bool :=
  let outs := img.blocks.flatMap (·.outs)
  noRepeat outs && (img.blocks.all fun b => b.ins.all fun r => 16384 ≤ r || outs.contains r)
    && noRepeat ((img.blocks.filter (·.code = 0x38)).map (·.imm))

/-- Position of PUBLISH. -/
def publishAt (img : Image) : Nat := img.blocks.findIdx (·.code = 0x52)

/-- PUBLISH once, as many PWM writes as STACKS, each before it, no slot twice (DETAIL 0x07). -/
def publishOk (img : Image) : Bool :=
  let pw := img.blocks.filter (·.code = 0x51)
  decide ((img.blocks.filter (·.code = 0x52)).length = 1) && decide (pw.length = img.nStacks)
    && ((img.blocks.drop (publishAt img)).all (·.code != 0x51)) && noRepeat (pw.map (·.imm))

/-- Do two blocks' states overlap? -/
def statesApart (a b : BlockRec) : Bool :=
  blockState a = 0 || blockState b = 0 || decide (a.stateOff + blockState a ≤ b.stateOff)
    || decide (b.stateOff + blockState b ≤ a.stateOff)

/-- No two states overlap. -/
def allApart : List BlockRec → Bool
  | [] => true
  | b :: rest => rest.all (statesApart b) && allApart rest

/-- Block states apart, within 20 KiB and within STATE_BYTES (DETAIL 0x08). -/
def statesOk (img : Image) : Bool :=
  allApart img.blocks && decide ((img.blocks.map blockState).sum * 8 ≤ 20480)
    && img.blocks.all fun b => blockState b = 0 || decide ((b.stateOff + blockState b) * 8 ≤ img.stateBytes)

/-- The two costs (R93). -/
def critCost (img : Image) : Nat := ((img.blocks.take (publishAt img + 1)).map blockCost).sum
def totalCost (img : Image) : Nat := (img.blocks.map blockCost).sum

/-- The checks after the signature: 0 where all pass, else the DETAIL of the first that fails. -/
def imageDetail (bs : Bytes) : Nat :=
  if pf bs 0 4 ≠ 0x47445246 ∨ pf bs 4 2 ≠ 1 then 1
  else if !imageCountsOk bs then 2
  else
    let img := imageOf bs
    let counts := fun i => pb bs (pf bs 48 4 + 32 * i + 3)
    if !((List.range img.blocks.length).all fun i => match img.blocks[i]? with
        | some b => blockKnown (counts i) b
        | none => false) then 3
    else if !img.blocks.all (blockRefsOk img) then 4
    else if !img.blocks.all (blockTypesOk img) then 5
    else if !writersOk img then 6
    else if !publishOk img then 7
    else if !statesOk img then 8
    else if critCost img ≠ img.costCrit ∨ totalCost img ≠ img.costTotal then 9
    else 0

/-- Check an image of a given length (R75): the image, or the status and DETAIL that refuse it. -/
def State.imageCheck (s : State) (bs : Bytes) (len : Nat) : Except (Status × Nat) Image :=
  let bs := padTo len bs
  if !imageLengthOk bs len then .error (.checkFail, 1)
  else
    let may := fun slot => if pb bs 6 = 0 then decide (slot < 8) else s.signs slot
    match s.trailerCheck bs (pf bs 60 4) 2 "NDZ IMG" may with
    | some d => .error (.authFail, d)
    | none => if imageDetail bs = 0 then .ok (imageOf bs) else .error (.checkFail, imageDetail bs)

/-! ### Coefficients (R61, R70) -/

/-- The per-unit bases of Table GFM-1 from S_BASE in kVA, V_BASE in V and F_NOM in Hz, rounded down: V_pk in mV, I_pk in mA, Z_base in µΩ,
the inductance in nH, the capacitance in µF and the angular frequency in µrad/s (the units are the model's, log 61). -/
def tplBase (sb vb f : Nat) : Nat → Nat
  | 0 => isqrt (2 * vb * vb * 1000000 / 3)
  | 1 => isqrt (2 * (sb * 1000000) ^ 2 / (3 * vb * vb))
  | 2 => vb * vb * 1000 / sb
  | 3 => vb * vb * 1000000 * 2 ^ 80 / (sb * 2 * piF.toNat * f)
  | 4 => 1000000000 * sb * 2 ^ 80 / (vb * vb * 2 * piF.toNat * f)
  | _ => 2 * piF.toNat * f * 1000000 / 2 ^ 80

/-- The default of a parameter that an image places in the stage: W_SHARE_s of a template is 1/N for the N configured stacks
(Table GFM-7), any other the one of its descriptor. -/
def imageDefault (img : Image) (n i : Nat) : Word :=
  if img.kind = 0 ∧ 0x40 ≤ i ∧ i < 0x50 then (if i - 0x40 < n then BitVec.ofInt 32 (roundDiv one28 n) else 0)
  else (lget img.params i { ty := 0, interp := 0, dflt := 0 }).dflt

/-- The coefficient that a template derives from a parameter, at the index of that parameter; tc in units of
31.25 ps. -/
def templateCoef (tc i v : Nat) : Word :=
  match i with
  | 2 => BitVec.ofInt 32 (roundDiv (v * tc * 2 ^ 36) 32000000000)
  | 3 => BitVec.ofInt 32 (roundDiv (tc * 2 ^ 36 * 1000) (64000000000 * v))
  | 5 => BitVec.ofInt 32 (roundDiv (2 ^ 44) v)
  | 7 | 8 => BitVec.ofInt 32 (roundDiv (tc * 2 ^ 28) (v * 32000 + tc))
  | 0x0F | 0x22 => BitVec.ofInt 32 (roundDiv (v * tc * 2 ^ 28) (65536 * 32000000000))
  | _ => if 0x18 ≤ i ∧ i ≤ 0x1D then BitVec.ofInt 32 (roundDiv (v * tc * 2 ^ 28) (65536 * 32000000000))
    else BitVec.ofNat 32 v

/-- The stored coefficients of a bank of an engine's image; a template holds its bases in the six words that no parameter of
Table GFM-7 names (R40, R61, log 61). -/
def State.bank (s : State) (e : Nat) (img : Image) (b : Bool) : List Word :=
  let v := fun i => (paramGet s.live e (bankNo b) i).toNat
  (List.range img.params.length).map fun i =>
    if img.kind ≠ 0 then BitVec.ofNat 32 (v i)
    else if 0x3A ≤ i ∧ i < 0x40 then BitVec.ofNat 32 (tplBase (v 0) (v 1) (v 2) (i - 0x3A))
    else templateCoef (s.tc e) i (v i)

/-- One coefficient of a running fade (R102 to R104): weight n of a length, from `a` to `b`. DESIGN CHOICE: a difference of binary turns
of exactly half a turn is −0.5 (log 18). -/
def fadeCoef (p : ParamDesc) (a b : Word) (n len : Nat) : Word :=
  if p.interp = 1 then (if max len 1 ≤ n then b else a)
  else if len = 0 then b
  else
    let w : Int := ((n * 65536 + len / 2) / len : Nat)
    let num := fun (x : Word) => if p.ty = 2 then (x.toNat : Int) else sw x
    let diff := if p.ty = 1 then sw (b - a) else num b - num a
    BitVec.ofInt 32 (num a + (diff * w + 32768) / 65536)

/-- The working set of period s + n of a fade. -/
def fadeWork (img : Image) (src tgt : List Word) (n len : Nat) : List Word :=
  (List.range img.params.length).map fun i =>
    fadeCoef (lget img.params i { ty := 0, interp := 0, dflt := 0 }) (lget src i 0) (lget tgt i 0) n len

end Sys2Proof.Machine
end

