-- ==== Sys2Proof/Machine/Profile.lean ====
section
/-! DEFINITION. Profile channels and the oscillation detector of an engine (R111 to R129). Where R122 names no format for an
intermediate, it is formed exactly and rounded once into the format of the result (log 31). -/

namespace Sys2Proof.Machine

/-! ### The trajectory (R121, R122) -/

/-- Bit by bit, the integer cube root of a number below 8^n. -/
def icbrtBits : Nat → Nat → Nat → Nat
  | 0, _, r => r
  | n + 1, v, r => if (r + 2 ^ n) ^ 3 ≤ v then icbrtBits n v (r + 2 ^ n) else icbrtBits n v r

/-- The cube root of a 64-bit number, rounded towards zero. -/
def icbrt (v : Nat) : Nat := icbrtBits 22 v 0

/-- Saturation at the limits of a signed 64-bit format. -/
def lim64 (v : Int) : Int := (sat64 v).1

/-- The sign of a number. -/
def sgn (v : Int) : Int := if v > 0 then 1 else if v < 0 then -1 else 0

/-- The limits and constants of a channel: V and A in UQ16.16, J in UQ24.8, the position limits in Q4.28, the period in units of
31.25 ps. -/
structure PrfLim where
  v  : Nat
  a  : Nat
  j  : Nat
  lo : Int
  hi : Int
  tc : Nat
  deriving DecidableEq, Repr

/-- t, t²/2 and t³/6 as Q0.64 seconds, rounded to nearest. -/
def PrfLim.t1 (l : PrfLim) : Int := roundDiv (l.tc * 2 ^ 64) 32000000000
def PrfLim.t2 (l : PrfLim) : Int := roundDiv (l.tc ^ 2 * 2 ^ 64) (2 * 32000000000 ^ 2)
def PrfLim.t3 (l : PrfLim) : Int := roundDiv (l.tc ^ 3 * 2 ^ 64) (6 * 32000000000 ^ 3)

/-- J in Q24.40, A and V in Q16.48, saturated at the limits of that format. -/
def PrfLim.j40 (l : PrfLim) : Int := (l.j * 2 ^ 32 : Nat)
def PrfLim.a48 (l : PrfLim) : Int := lim64 (l.a * 2 ^ 32 : Nat)
def PrfLim.v48 (l : PrfLim) : Int := lim64 (l.v * 2 ^ 32 : Nat)

/-- How far a number must be shifted down, by a multiple of `k` bits, to be a 64-bit operand. -/
def operandShift (k v : Nat) : Nat := if v < 2 ^ 64 then 0 else (Nat.log2 v - 63 + k - 1) / k

/-- The square root and the cube root of R122: the integer root of the 64-bit operand, rounded towards zero. DESIGN CHOICE: the operand
is the exact number shifted down by the least multiple of 2 or 3 bits that leaves 64, and the root is shifted back (log 31). -/
def sqrt64 (v : Nat) : Nat := isqrt (v / 2 ^ (2 * operandShift 2 v)) * 2 ^ operandShift 2 v
def cbrt64 (v : Nat) : Nat := icbrt (v / 2 ^ (3 * operandShift 3 v)) * 2 ^ operandShift 3 v

/-- v_dec(x) in Q16.48 of a distance in Q4.60. -/
def PrfLim.vDec (l : PrfLim) (x : Nat) : Int :=
  let c := lim64 (roundDiv (l.a ^ 2 * 2 ^ 23 : Nat) l.j)
  if (x : Int) < lim64 (roundDiv (l.a ^ 3 * 2 ^ 28 : Nat) (l.j ^ 2 : Nat)) then lim64 (cbrt64 (l.j * x ^ 2 * 2 ^ 16))
  else lim64 ((sqrt64 (c.toNat ^ 2 + l.a * x * 2 ^ 21) : Int) - c)

/-- What a step has to report: POS_CLAMP, OVERSHOOT entered, and the overshoot measured at rest (Q4.60). -/
structure PrfNews where
  posClamp  : Bool := false
  overshoot : Bool := false
  ovs       : Option Int := none
  deriving DecidableEq, Repr

/-- One step of a channel at a boundary (R121). -/
def PrfChan.step (c : PrfChan) (l : PrfLim) : PrfChan × PrfNews :=
  let tgt := c.tgt * 2 ^ 32
  let d := tgt - c.p
  let enter := c.phase = .move ∧ c.v ≠ 0 ∧ sgn c.v ≠ sgn d
  let c := if enter then { c with phase := .brake, brkFrom := c.p } else c
  let j :=
    if c.phase = .rest then 0
    else
      let goal := if c.phase = .brake then 0 else sgn d * min l.v48 (l.vDec d.natAbs)
      let ev := goal - c.v
      let ag := sgn ev * min l.a48 (lim64 (sqrt64 (l.j * ev.natAbs * 2 ^ 41)))
      clampInt (-l.j40) l.j40 (roundDiv ((ag - c.a) * 2 ^ 56) l.t1)
  let p := lim64 (c.p + roundShr (c.v * l.t1) 52 + roundShr (c.a * l.t2) 52 + roundShr (j * l.t3) 44)
  let v := lim64 (c.v + roundShr (c.a * l.t1) 64 + roundShr (j * l.t2) 56)
  let a := clampInt (-l.a48) l.a48 (c.a + roundShr (j * l.t1) 56)
  let lo := l.lo * 2 ^ 32
  let hi := l.hi * 2 ^ 32
  let out := p > hi ∨ p < lo
  let c := if out then { c with p := clampInt lo hi p, v := 0, a := 0 } else { c with p := p, v := v, a := a }
  let jt2 := roundShr (l.j40 * (2 * l.t2)) 56
  let jt := roundShr (l.j40 * l.t1) 56
  let jt3 := roundShr (l.j40 * (6 * l.t3)) 44
  let ended := c.phase = .brake ∧ c.v.natAbs ≤ jt2 ∧ c.a.natAbs ≤ jt
  let ovs := if ended then some ((c.p - c.brkFrom).natAbs : Int) else none
  let c := if ended then { c with v := 0, a := 0, phase := .move } else c
  let c := if c.phase = .move ∧ (tgt - c.p).natAbs ≤ jt3 ∧ c.v.natAbs ≤ jt2 ∧ c.a.natAbs ≤ jt then
      { c with p := tgt, v := 0, a := 0, phase := .rest }
    else c
  (c, { posClamp := decide out, overshoot := decide enter, ovs := ovs })

/-! ### Channels of an engine -/

/-- The limits of a channel, as the engine sees them (R26). -/
def State.prfLim (s : State) (e c : Nat) : PrfLim :=
  let f := (s.engN e).seen
  let q := fun r => sw ((regGet f r e c).setWidth 32)
  { v := (regGet f .frdPrfVlim e c).toNat, a := (regGet f .frdPrfAlim e c).toNat
    j := (regGet f .frdPrfJlim e c).toNat, lo := q .frdPrfPlo, hi := q .frdPrfPhi, tc := s.tc e }

/-- Is a channel enabled, and is it of kind T? -/
def State.prfOn (s : State) (e c : Nat) : Bool := bitOf (regGet (s.engN e).seen .frdPrfCfg e c) 0
def State.prfTurns (s : State) (e c : Nat) : Bool := bitOf (regGet (s.engN e).seen .frdPrfCfg e c) 1

/-- Set a sticky profile flag. -/
def State.prfFlag (s : State) (e c n : Nat) : State :=
  s.setReg .frdPrfFlags e c (s.reg .frdPrfFlags e c ||| BitVec.ofNat 64 (2 ^ n))

/-- A channel of an engine. -/
def State.modPrf (s : State) (e c : Nat) (f : PrfChan → PrfChan) : State :=
  s.modEng e fun n => { n with prf := vset n.prf c (f (vget n.prf c {})) }

/-- A target as a channel takes it: turns to Q4.28, then the clamp to the position limits with TGT_CLAMP (R117). -/
def State.prfTarget (s : State) (e c : Nat) (w : Word) : Int × State :=
  let l := s.prfLim e c
  let t := if s.prfTurns e c then (sw w + 8) / 16 else sw w
  let k := (clampQ t l.lo l.hi).1
  (k, if k = t then s else s.prfFlag e c 2)

/-- A start event (Table PRF-2, R116, R118). -/
def State.prfStart (s : State) (e c : Nat) (w : Word) : State :=
  if !s.prfOn e c then s
  else
    let (t, s) := s.prfTarget e c w
    let ch := vget (s.engN e).prf c {}
    if ch.phase = .rest then
      if t * 2 ^ 32 = ch.p then s.modPrf e c fun x => { x with tgt := t }
      else (s.modPrf e c fun x => { x with tgt := t, phase := .move, start := true }).setReg .frdPrfStartIdx e c (s.engN e).idx
    else s.modPrf e c fun x => { x with tgt := t }

/-- Every channel at entry to ARMED (R114). -/
def State.prfInit (s : State) (e : Nat) : State :=
  forNums (List.range 8) (fun c s =>
    let i := sw ((regGet s.live .frdPrfInit e c).setWidth 32)
    s.modPrf e c fun _ => { p := i * 2 ^ 32, tgt := i }) s

/-- The preset at the first boundary of RUNNING (R115). -/
def State.prfPreset (s : State) (e : Nat) : State :=
  forNums ((List.range 8).filter fun c => s.lvb .frdPrfCfg e c 2 && s.prfOn e c) (fun c s =>
    let n := s.engN e
    let (t, s) := s.prfTarget e c (lget n.signals (s.lv .frdPrfCfg e c 26 16) 0)
    s.modPrf e c fun _ => { p := t * 2 ^ 32, tgt := t }) s

/-- A commit that has moved a position limit past a channel's position holds it at the limit, at rest, from the commit boundary on
(Table PRF-2). -/
def State.prfHold (s : State) (e : Nat) : State :=
  forNums ((List.range 8).filter (s.prfOn e)) (fun c s =>
    let l := s.prfLim e c
    let x := vget (s.engN e).prf c {}
    let p := clampInt (l.lo * 2 ^ 32) (l.hi * 2 ^ 32) x.p
    if p = x.p then s else (s.modPrf e c fun x => { x with p := p, v := 0, a := 0 }).prfFlag e c 1) s

/-- One step of every enabled channel, with its flags and overshoot registers. DESIGN CHOICE: a channel that is disabled on its way keeps
where it was and goes on from there (log 31). -/
def State.prfStep (s : State) (e : Nat) : State :=
  forNums ((List.range 8).filter (s.prfOn e)) (fun c s =>
    let (ch, news) := (vget (s.engN e).prf c {}).step (s.prfLim e c)
    let s := s.modPrf e c fun _ => ch
    let s := if news.posClamp then s.prfFlag e c 1 else s
    let s := if news.overshoot then s.prfFlag e c 0 else s
    match news.ovs with
    | some o => s.setReg .frdPrfOvs e c ((q28 (roundShr o 32)).1.setWidth 64)
    | none => s) s

/-- START lasts one period. -/
def State.prfClearStart (s : State) (e : Nat) : State :=
  forNums (List.range 8) (fun c s => s.modPrf e c fun x => { x with start := false }) s

/-! ### The oscillation detector (R127 to R129) -/

/-- √2 in units of 2^−80. -/
def root2F : Int := isqrt (2 ^ 161)

/-- tan(π·f·T_c) in units of 2^−80, f in 1/8 Hz. -/
def preWarp (f8 tc : Nat) : Int :=
  let x := piF * (f8 * tc : Nat) / (8 * 32000000000)
  let x2 := x * x / 2 ^ 80
  let c := taylor 18 1 x2 (2 ^ 80)
  if c = 0 then 0 else taylor 18 2 x2 x * 2 ^ 80 / c

/-- A second-order Butterworth section by the bilinear transform, in Q4.60: b0, b1, b2, a1, a2. -/
def butterworth (high : Bool) (f8 tc : Nat) : Int × Int × Int × Int × Int :=
  let k := preWarp f8 tc
  let k2 := k * k / 2 ^ 80
  let den := 2 ^ 80 + root2F * k / 2 ^ 80 + k2
  let q := fun (num : Int) => roundDiv (num * 2 ^ 60) den
  let b := if high then q (2 ^ 80) else q k2
  (b, if high then q (-(2 ^ 81)) else q (2 * k2), b, q (2 * (k2 - 2 ^ 80)), q (2 ^ 80 - root2F * k / 2 ^ 80 + k2))

/-- One output of a section, in direct form I: the exact sum of its five products, rounded once, and the outputs kept as rounded. The spec
states neither structure nor rounding (DESIGN CHOICE, log 20). -/
def sectionOut (h : Int × Int × Int × Int × Int) (x0 x1 x2 y1 y2 : Int) : Int :=
  let (b0, b1, b2, a1, a2) := h
  lim64 (roundShr (b0 * x0 + b1 * x1 + b2 * x2 - a1 * y1 - a2 * y2) 60)

/-- One period of a detector input (R127) but for the declaration and the time-out: `thr` in Q4.28, the band in 1/8 Hz, period `k`. DESIGN CHOICE:
FRD_OSC_FREQ is f rounded to the nearest code, and the band is judged on the exact f (log 20). -/
def OscInput.step (o : OscInput) (thr : Int) (fLo fHi tc k : Nat) : OscInput :=
  let x := sw o.tap * 2 ^ 32
  let hy := sectionOut (butterworth true fLo tc) x o.hx1 o.hx2 o.hy1 o.hy2
  let y := sectionOut (butterworth false fHi tc) hy o.hy1 o.hy2 o.ly1 o.ly2
  let h := thr * 2 ^ 30
  let prev := o.y
  let o := { o with
    hx1 := x, hx2 := o.hx1, hy1 := hy, hy2 := o.hy1, ly1 := y, ly2 := o.ly1, y := y
    pkPos := max o.pkPos y, pkNeg := min o.pkNeg y }
  let o := if o.armedDown && y < -h then { o with armedDown := false } else o
  if !o.armedDown && y > h then
    let frac := if prev ≤ h ∧ prev < y then (256 * (h - prev) / (y - prev)).toNat else 0
    let t := 256 * k + min frac 255
    let o :=
      if o.havePrev then
        let n := t - o.tPrev
        let amp := (o.pkPos - o.pkNeg) / 2
        let top := 8 * 256 * 32000000000
        let ok := decide (thr * 2 ^ 32 ≤ amp) && decide (0 < n) && decide (fLo * n * tc ≤ top) && decide (top ≤ fHi * n * tc)
        let o := { o with
          freq := BitVec.ofInt 32 (roundDiv (256 * 32000000000 * 65536) ((max n 1) * tc : Nat)), amp := (q28 (roundShr amp 32)).1 }
        if ok then { o with count := min (o.count + 1) 255 } else { o with count := 0, latched := false }
      else o
    { o with tPrev := t, havePrev := true, armedDown := true, pkPos := y, pkNeg := y }
  else o

/-- Has a detector input been without an upward crossing for 1.5/F_LO? -/
def OscInput.timedOut (o : OscInput) (fLo tc k : Nat) : Bool :=
  o.havePrev && decide (12 * 256 * 32000000000 < (256 * k - o.tPrev) * tc * fLo)

/-- Is a detector input enabled? -/
def State.oscOn (s : State) (e i : Nat) : Bool := s.lvb .frdOscCtrl e 0 i

/-- The detector inputs of an engine after its graph has run; an input that is not enabled is held cleared (Table PRF-4). -/
def State.oscPeriod (s : State) (e : Nat) (n : Engine) : Engine :=
  { n with osc := (List.range 16).foldl (fun v i =>
      let o := vget v i {}
      vset v i (if s.oscOn e i then
        o.step (sw ((regGet s.live .frdOscThr e i).setWidth 32)) (s.lv .frdOscBand e i 31 16) (s.lv .frdOscBand e i 15 0) (s.tc e)
          n.idx.toNat
      else {})) n.osc }

/-- A detector input. -/
def State.modOsc (s : State) (e i : Nat) (f : OscInput → OscInput) : State :=
  s.modEng e fun n => { n with osc := vset n.osc i (f (vget n.osc i {})) }

/-- OSC_DETECT: the count of qualifying cycles has reached M, and a detection is declared (R127). -/
def execOscDetect (e : Fin 8) (i : Fin 16) (s : State) : Host.Outcome State Fault Refusal :=
  let o := vget (s.engN e).osc i {}
  let v := s.asSeen e
  if s.executes e && v.oscOn e i && decide (v.lv .frdOscAct e i 15 8 ≤ o.count) && !o.latched && decide (0 < o.count) then
    .next (s.modOsc e i fun o => { o with latched := true, detect := true })
  else .next s

/-- OSC_TIMEOUT: without an upward crossing for 1.5/F_LO, the input resets its count and re-arms (R127). -/
def execOscTimeout (e : Fin 8) (i : Fin 16) (s : State) : Host.Outcome State Fault Refusal :=
  let n := s.engN e
  let v := s.asSeen e
  if s.executes e && v.oscOn e i && (vget n.osc i {}).timedOut (v.lv .frdOscBand e i 31 16) (v.tc e) n.idx.toNat then
    .next (s.modOsc e i fun o => { o with count := 0, latched := false, havePrev := false })
  else .next s

/-- The action on one detection, but for the swap (R129, Table PRF-4). `busy` says that the swap request of this boundary, into which
those of all detections merge, is rejected. DESIGN CHOICE: BODY of its record goes on after FRD_OSC_DET (Table OPS-6) with the engine's
number and, where the swap is rejected, the code of XFADE_BUSY (log 20). -/
def State.oscAct (s : State) (e i : Nat) (busy : Bool) : State :=
  let o := vget (s.engN e).osc i {}
  let s := (s.setReg .frdOscFreq e i (o.freq.setWidth 64)).setReg .frdOscAmp e i (o.amp.setWidth 64)
  let s := (s.setFlag .frdOscDet e i).count .frdOscEvtCnt e
  let act := if s.ops.st = .running then s.lv .frdOscAct e i 1 0 else 0
  let s := s.note 8 3 i (leBytes 8 (s.reg .frdOscDet e).toNat ++ [BitVec.ofNat 8 e,
    BitVec.ofNat 8 (if act = 1 ∧ busy then Status.xfadeBusy.code else 0)])
  let nt := (s.engN e).ntB
  let s := s.acqOffer 4 nt (16 * e + i) fun _ => true
  let s := s.ptmAsk 1 nt (16 * e + i)
  let s := s.modOsc e i fun o => { o with detect := false }
  if act = 2 then forNums (bitsIn 16 (s.lv .frdOscAct e i 31 16)) (fun k s => s.latch k 12 (16 * e + i) 0) s else s

end Sys2Proof.Machine
end

