-- ==== Sys2Proof/Machine/Engines.lean ====
section
/-! DEFINITION. Control engines: the steps of a control period, the parts of a boundary that belong to an engine, mailboxes, banks and
cross-fades, and the commands of the engines, the templates and the profile channels (R31, R57 to R62, R65 to R110, R118, R129,
R130). -/

namespace Sys2Proof.Machine

/-! ### Banks and fades (R102 to R107) -/

/-- Does what a COMMIT spore has made live stay hidden from control graphs, until the index that the ACTIVE module has recorded
(R28, R299)? A standby that has not been told the index yet waits for it. -/
def State.commitHidden (s : State) : Bool :=
  match s.twn.seeFrom with
  | some i => s.pair && !s.lone && !s.takeDue i && !(s.twn.role && i = BitVec.allOnes 64)
  | none => false

/-- An engine takes the committed registers and the operating state for its period (R26). -/
def State.takeSeen (s : State) (e : Nat) : State :=
  s.modEng e fun n => { n with
    seen := if s.commitHidden then n.seen else s.live, seenArmed := s.ops.st = .armed }

/-- Outside a fade the working set equals the active bank. -/
def State.refreshWork (s : State) (e : Nat) : State :=
  match (s.engN e).image with
  | some img =>
    if (s.engN e).fade.isSome then s else s.modEng e fun n => { n with work := (s.asSeen e).bank e img n.bankB }
  | none => s.modEng e fun n => { n with work := [] }

/-- A fade that has run its length ends, and the working set is the target bank. -/
def State.fadeFinish (s : State) (e : Nat) : State :=
  match (s.engN e).fade with
  | some f => if f.len ≤ f.n then (s.modEng e fun n => { n with fade := none }).refreshWork e else s
  | none => s

/-- The fade unit computes the working set of the period that begins. -/
def State.fadeStep (s : State) (e : Nat) : State :=
  match (s.engN e).fade with
  | some f =>
    s.modEng e fun n => { n with
      fade := some { f with n := f.n + 1 }
      work := match n.image with
        | some img => fadeWork img f.src ((s.asSeen e).bank e img f.target) (f.n + 1) f.len
        | none => n.work }
  | none => s

/-- The outcome of a swap request goes to whoever asked for it. DESIGN CHOICE: a command for several engines answers DETAIL 1 only where
the bank was active in all of them, and it completes XFADE_BUSY where one of them is fading, while the others swap (log 18). -/
def State.swapReport (s : State) (e : Nat) (x : SwapReq) (st : Status) (detail : Nat) : State :=
  let at_ := (s.engN e).ntB
  match x.who with
  | .osc => s
  | .spore slot t => s.waitReport (.spore slot t 0 false false 0) e st.code detail at_ min
  | .mbox src => s.waitReport (.cmd src 0) e st.code detail at_ min

/-- One swap request at a boundary; `taken` says that another one has been accepted there (R102, R105, R106). Gives whether it was
accepted and whether it was rejected. -/
def State.swapOne (s : State) (e : Nat) (x : SwapReq) (taken : Bool) : State × Bool × Bool :=
  let n := s.engN e
  if n.fade.isSome || taken then (s.swapReport e x .xfadeBusy 0, false, true)
  else if n.bankB == x.bank then (s.swapReport e x .ok 1, false, false)
  else
    let s := s.modEng e fun n => { n with
      bankB := x.bank, fade := some { target := x.bank, len := x.len, n := 0, src := n.work }, fadeLast := (x.bank, x.len) }
    (s.swapReport e x .ok 0, true, false)

/-- The swap requests of a boundary, in the order of R106. -/
def State.swaps (s : State) (e : Nat) : List SwapReq → Bool → State
  | [], _ => s
  | x :: rest, taken =>
    let (s, acc, _) := s.swapOne e x taken
    s.swaps e rest (taken || acc)

/-- FADE_END: at the end of period s + N, the boundary that follows once its graph has completed, the fade ends, STEP coefficients have
switched, and FADING clears (R104, Table FRD-15). -/
def execFadeEnd (e : Fin 8) (s : State) : Host.Outcome State Fault Refusal :=
  let n := s.engN e
  match n.fade with
  | some f =>
    if s.inPeriod e && n.started && n.complete && decide (f.len ≤ f.n) then
      .next ((s.advanceTo (s.nextLoad (s.leadTb e)).1).fadeFinish e)
    else .next s
  | none => .next s

/-! ### Inbound mailboxes (R98, R99) -/

/-- The class of a ring; the management port counts as class 3 (log 34). -/
def State.ringClass (s : State) (r : Nat) : Nat := if r < 128 then bitsOf (s.reg .cmdRingCfg r) 25 24 else 3

/-- The engines whose mailboxes a command is written to. -/
def State.mboxMask (s : State) (op : Nat) (p : Bytes) : Nat :=
  if op = 0x0101 ∨ op = 0x0102 ∨ op = 0x0103 then s.unitEngines
  else if op = 0x0110 ∨ op = 0x0120 ∨ op = 0x0801 then pb p 0 else 0

/-- The entries of an engine of the kind a ring uses that are taken. -/
def State.mboxTaken (s : State) (e r : Nat) : Nat :=
  let c0 := s.ringClass r = 0
  ((s.engN e).inbox.filter fun m => m.reserved == decide c0).length

/-- Has an engine a free entry of the kind a ring uses, beside those that accepted commands are still to be written to (R98)? -/
def State.mboxFree (s : State) (e r : Nat) : Bool :=
  let kind := fun r => decide (s.ringClass r = 0)
  let owed := s.cmd.handed.filter fun h => !h.acted && kind h.src.ring == kind r && (s.mboxMask h.opcode h.payload).testBit e
  decide (s.mboxTaken e r + owed.length < 8)

/-- Write a command to an entry of every engine of a mask; without a free entry it waits. -/
def State.enqueue (s : State) (c : Src) (op : Nat) (p : Bytes) (mask : Nat) (take : Option DWord) : State :=
  let es := bitsIn 8 mask
  if es.all fun e => decide (s.mboxTaken e c.ring < 8) then
    let s := s.mirror c op p (take.getD 0)
    let cls := s.ringClass c.ring
    let m : MboxEntry := { opcode := op, src := c, cls := cls, reserved := cls = 0, acceptAt := s.acceptedAt c, takeIdx := take
                           payload := p.take 32 }
    (forNums es (fun e s => s.modEng e fun n => { n with inbox := n.inbox ++ [m] }) s).waitStart (.cmd c op) mask
  else s.took c false

/-- Is an entry taken at the boundary at which engine `e` stands? DESIGN CHOICE: engines of one mask that different timebases lead take
it each at its own next boundary (log 18). -/
def State.entryDue (s : State) (e : Nat) (m : MboxEntry) : Bool :=
  match m.takeIdx with
  | some i => s.takeDue i
  | none => decide (m.acceptAt / 32 < s.now / 32) && (m.src.applyAt = 0 || decide (m.src.applyAt ≤ (s.engN e).ntB))

/-- The sticky flags of an engine as 256 bytes: 2 bits a block, SAT_LO below SAT_HI (Table FRD-13). -/
def Engine.satBytes (n : Engine) : Bytes :=
  (List.range 256).map fun i => BitVec.ofNat 8 (maskOf 8 fun b =>
    if b % 2 = 0 then n.satLo.getLsbD (4 * i + b / 2) else n.satHi.getLsbD (4 * i + b / 2))

/-- The block instances with either flag set. -/
def Engine.satCount (n : Engine) : Nat := ((List.range 1024).filter fun j => n.satHi.getLsbD j || n.satLo.getLsbD j).length

/-- FRD_SAT_READ_CLEAR at a boundary: the flags go to host memory and clear (R83). -/
def State.satReadClear (s : State) (e : Nat) (m : MboxEntry) : State :=
  let n := s.engN e
  let place := ((bitsIn 8 (pb m.payload 0)).filter (· < e)).length
  let s := if s.pair && !s.twn.role then s else s.hostWrite (pf m.payload 8 8 + 256 * place) n.satBytes
  (s.modEng e fun n => { n with satHi := 0, satLo := 0 }).waitReport (.cmd m.src m.opcode) e 0 n.satCount n.ntB (· + ·)

/-- An entry other than a swap request takes effect (R62, R118, R130). -/
def State.takeEntry (s : State) (e : Nat) (m : MboxEntry) : State :=
  let n := s.engN e
  let ok := fun (s : State) => s.waitReport (.cmd m.src m.opcode) e 0 0 n.ntB max
  let w := fun o => BitVec.ofNat 32 (pf m.payload o 4)
  match m.opcode with
  | 0x0101 => ok (forNums (bitsIn 5 (pb m.payload 0)) (fun c s => s.prfStart e c (w (4 + 4 * c))) s)
  | 0x0102 =>
    if lget n.work 0x35 0 ≠ 0 then s.waitReport (.cmd m.src m.opcode) e Status.error.code 1 n.ntB max
    else ok (s.modEng e fun n => { n with brkCmd := decide (pb m.payload 0 ≠ 0) })
  | 0x0103 =>
    let b := fun i => (pb m.payload 0).testBit i
    ok (s.modEng e fun n => { n with gfm := { n.gfm with
      rtSeen := n.gfm.rtSeen && !b 0, clSeen := n.gfm.clSeen && !b 1, pjSeen := n.gfm.pjSeen && !b 2
      rocofSeen := n.gfm.rocofSeen && !b 3 } })
  | 0x0120 => ok (s.prfStart e (pb m.payload 1) (w 4))
  | 0x0801 => s.satReadClear e m
  | _ => s.modEng e fun n => { n with swaps := n.swaps ++
      [{ who := .mbox m.src, bank := pb m.payload 1 = 1, len := pf m.payload 2 2, at_ := m.acceptAt }] }

/-- Is work of a scheduled action, executed at an instant, taken at the present boundary: one that follows the tick of E, in a pair the
one with its index (R119, R299)? -/
def State.sporeWorkDue (s : State) (at_ : Nat) (take : Option DWord) : Bool :=
  match take with
  | some i => s.takeDue i
  | none => decide (at_ / 32 < s.now / 32)

/-- Profile starts of scheduled actions in slot order, then mailbox entries in acceptance order (R99, R100, R118, R119). -/
def State.takeWork (s : State) (e : Nat) : State :=
  let n := s.engN e
  let due := fun (x : SporeStart) => s.sporeWorkDue x.at_ x.takeIdx
  let starts := (n.sporeStarts.filter due).mergeSort fun a b => a.slot ≤ b.slot
  let s := s.modEng e fun n => { n with sporeStarts := n.sporeStarts.filter fun x => !due x }
  let s := starts.foldl (fun s x =>
    (s.prfStart e x.chan x.target).waitReport (.spore x.slot x.at_ 0 false false 0) e 0 0 (s.engN e).ntB max) s
  let (take, keep) := (s.engN e).inbox.partition (s.entryDue e)
  let s := s.modEng e fun n => { n with inbox := keep, tookIn := take, tookStarts := starts }
  take.foldl (fun s m => s.takeEntry e m) s

/-- The detector's request, the scheduled ones and those of mailbox entries at this boundary; then the detections act (R106, R129). -/
def State.takeSwaps (s : State) (e : Nat) : State :=
  let n := s.engN e
  let det := (List.range 16).filter fun i => (vget n.osc i {}).detect
  let ask := s.ops.st = .running && det.any fun i => s.lv .frdOscAct e i 1 0 = 1
  let isDue := fun (x : SwapReq) => s.sporeWorkDue x.at_ x.takeIdx
  let due := n.swaps.filter isDue
  let s := s.modEng e fun n => { n with
    tookSwaps := due, swaps := n.swaps.filter fun x => !isDue x }
  let (s, acc, busy) :=
    if ask then s.swapOne e { who := .osc, bank := true, len := s.lv .frdOscCtrl e 0 28 16, at_ := s.now } false
    else (s, false, false)
  let isSpore := fun (x : SwapReq) => match x.who with | .spore _ _ => true | _ => false
  let s := s.swaps e (due.filter isSpore ++ due.filter fun x => !isSpore x) acc
  let s := if ask && busy then s.count .frdOscSwapRej e else s
  det.foldl (fun s i => s.oscAct e i busy) s

/-! ### The parts of a boundary -/

/-- The own trip state of all stacks. -/
def State.tripMask (s : State) : Nat := maskOf 16 fun k => (s.zone k).causes != 0

/-- The latest SAR results. -/
def State.sarWords (s : State) : List (BitVec 16) := (List.range 16).map fun i => (s.reg .adcLatest i).setWidth 16

/-- The initial block state of an image; what a DEC_IN block holds is 0 until its first valid output (R68, R87). -/
def Image.startState (img : Image) : List DWord :=
  (img.blocks.filter (·.code = 0x30)).foldl (fun l b => l.set b.stateOff 0) img.initState

/-- The state reset of R68 with the start of the profile channels (R114). -/
def State.engineReset (s : State) (e : Nat) : State :=
  match (s.engN e).image with
  | none => s
  | some img =>
    let s := s.modEng e fun n => { n with
      seen := s.live, seenArmed := s.ops.st ≠ .running
      signals := img.initSig, bst := img.startState, satHi := 0, satLo := 0, crossWork := Vector.replicate 16 0
      crossPub := Vector.replicate 16 0, mboxWork := Vector.replicate 64 0, mboxPub := Vector.replicate 64 0, shadow := [], mod := []
      digest := [], digests := [], digestIdx := 0
      gfm := n.gfm.restart }
    (s.refreshWork e).prfInit e

/-- The end of period k at B_k+1: outbound mailbox and crosslinks are published (R88, R101). -/
def State.publishWords (s : State) (e : Nat) : State :=
  s.modEng e fun n =>
    if n.started then
      { n with mboxPub := n.mboxWork, mboxPubIdx := n.idx, crossPub := n.crossWork, digests := n.digest, digestIdx := n.idx }
    else n

/-- Latch the input frame (Table FRD-8, R97, R435): `nt` are words 2 and 3, `half` says that the period precedes the second
half-carrier. In a pair the trip and SAR words are those that REF_ENG's boundary latches: PERIOD frames carry them from one module to
the other. -/
def State.latchFrame (s : State) (e : Nat) (nt : DWord) (half : Bool) : State :=
  let n := s.engN e
  let own := BitVec.ofNat 16 s.tripMask
  let lead := e = s.refEng || (s.tb (s.leadTb s.refEng)).run ≠ .running
  let trips :=
    if !s.pair then own
    else if lead then n.ownTrips ||| (if s.lone then 0 else s.twn.twin.zones) else s.twn.pairTrips
  let sar :=
    if !s.pair then s.sarWords
    else if !lead then s.twn.pairSar
    else if s.twn.role || s.lone then n.ownSar else s.twn.twin.sar
  let s := if e = s.refEng then s.modTwn fun t => { t with pairTrips := trips, pairSar := sar } else s
  let slot := fun i => let k := s.slotStack e i; k < 16 && trips.getLsbD k
  let ws : List Word := [n.idx.setWidth 32, BitVec.ofNat 32 (n.idx.toNat / 2 ^ 32), nt.setWidth 32,
    BitVec.ofNat 32 (nt.toNat / 2 ^ 32), bw half, BitVec.ofNat 32 (maskOf 2 slot), trips.setWidth 32, bw (s.ops.st = .running),
    bw n.brkCmd, bw n.bankB, bw n.fade.isSome]
  let f := (List.range 11).foldl (fun v i => vset v i (lget ws i 0)) (Vector.replicate 64 0)
  let f := (List.range 16).foldl (fun v i => vset v (16 + i) (BitVec.ofNat 32 ((lget sar i 0).toNat % 2 ^ 14))) f
  s.modEng e fun n => { n with frame := f, ownTrips := own, ownSar := s.sarWords }

/-- Does an engine deliver digests: a template, or a graph with a DIGEST block? -/
def Engine.digesting (n : Engine) : Bool :=
  match n.image with
  | some img => img.kind = 0 || img.blocks.any fun b => b.code = 0x45
  | none => false

/-- Does an engine run the unit-level stages: one that executes, serves a stack and delivers digests (R43)? -/
def State.unitLevel (s : State) (e : Nat) : Bool := s.executes e && s.servedBy e != [] && (s.engN e).digesting

/-- The comparison unit (R43, R89): the digests of the period that an engine has just ended, against those that the other engines of the
unit-level stages have delivered for the period of the same index. The last of them to end it finds a mismatch. -/
def State.digestCheck (s : State) (e : Nat) : State :=
  let n := s.engN e
  let other := fun i =>
    let m := s.engN i
    i != e && s.unitLevel i && m.digestIdx = n.digestIdx && m.digests != n.digests
  match (List.range 8).filter other with
  | [] => s
  | bad =>
    if s.unitLevel e && n.started then (forNums bad (fun i s => s.modEng i fun m => { m with fault := true }) s).engineFault e else s

/-! ### The control period of an engine -/

/-- What an engine's graph computes on: the committed registers and the operating state of its period (R26, R29). -/
def State.periodView (s : State) (e : Nat) : State :=
  { s.asSeen e with ops := { s.ops with st := if (s.engN e).seenArmed then .armed else .running } }

/-- A graph runs its period on the words that have been sampled, its blocks in list order; in a template the equations of its chapter
follow on the signals that they leave (R43 to R92, R127). -/
def State.runGraph (s : State) (e : Nat) (img : Image) : GRun :=
  let v := s.periodView e
  let g := v.blocks e img 0 img.blocks { eng := { s.engN e with shadow := [], digest := [] } }
  let g := if img.kind = 0 then v.template e img g else g
  { g with eng := v.oscPeriod e g.eng }

/-- G, the number of active groups. -/
def State.nGroups (s : State) : Nat := ((List.range 20).filter s.groupOn).length

/-- Are the last group's words of the period in the engine's input buffer? Without an active group, or with output 2 not running, there
are none to wait for (R87); a group that a commit has disabled within the period dumps no more, and DEC_IN reads VALID = 0 of it
(Table MEA-4). -/
def State.sampleReady (s : State) (e : Nat) : Bool :=
  let g := min (s.asSeen e).nGroups s.nGroups
  g = 0 || !s.clk.running.getLsbD 2 || decide (g ≤ (s.engN e).sampleGrp)

/-- E_k = T_L + 100 ns, T_L = B_k + t_s + (G − 1)·T_mod (R31, R139). DEDUCED: where no group is active T_L is B_k (log 40). -/
def State.startInstant (s : State) (e : Nat) : Nat :=
  let n := s.engN e
  let v := s.asSeen e
  let ts := if 0 < n.sampleGrp then 8 * (s.reg .decTsEff e).toNat else v.lv .decTs 0 0 15 0 * v.tmod
  n.atB + (if v.nGroups = 0 then 0 else ts + (v.nGroups - 1) * v.tmod) + 3200

/-- ENGINE_START (step 5 of Table ARC-4): at E_k the pull-in flags of the served stacks are read, and the graph runs; what it writes shows
at PUBLISH and at the next boundary. -/
def execEngineStart (e : Fin 8) (s : State) : Host.Outcome State Fault Refusal :=
  let n := s.engN e
  match n.image with
  | none => .next s
  | some img =>
    if s.inPeriod e && !n.started && s.sampleReady e then
      let s := s.advanceTo (s.startInstant e)
      let v := s.asSeen e
      let flag := fun i => let k := v.slotStack e i; k < 16 && (s.zone k).pullSeen
      let pull := (flag 0, flag 1)
      let s := forNums (v.servedBy e) (fun k s => s.modZone k fun z => { z with pullSeen := false }) s
      let s := s.modEng e fun n => { n with
        started := true, published := false, complete := false, pull := pull, startAt := s.startInstant e }
      let s := if s.twn.resync then
          s.modTwn fun t => { t with recs := t.recs ++
            [{ e := e, idx := n.idx, frame := n.frame.toList, sample := n.sample, pull := pull
               inbox := n.tookIn, starts := n.tookStarts, swaps := n.tookSwaps }] }
        else s
      let g := s.runGraph e img
      let s := s.modEng e fun _ => g.eng
      let s := if g.classI then s.count .frdClassiCnt e else s
      .next (if g.invalid then s.count .frdInvalidCnt e else s)
    else .next s

/-- The working shadow set becomes the pending set of the stacks that an engine serves; a compare it does not write stays. -/
def State.publishSet (s : State) (v : State) (shadow : List ShadowEdge) (e : Nat) : State :=
  shadow.foldl (fun s x =>
    let k := v.slotStack e x.slot
    if k < 16 then
      s.modChan (12 * k + x.chan) fun c => if x.rising then { c with pendA := some x.value } else { c with pendB := some x.value }
    else s) s

/-- PUBLISH (R94): at E_k + C_crit and the stall cycles the working shadow set becomes the pending set of the served stacks.
Behind the deadline of step 9 it is the fault of R33. -/
def execPublish (e : Fin 8) (s : State) : Host.Outcome State Fault Refusal :=
  let n := s.engN e
  if !(s.executes e && n.started && !n.published) then .next s
  else match s.missAt e with
  | some t => .next ((s.advanceTo t).engineFault e)
  | none =>
    .next (((s.advanceTo n.publishAt).publishSet (s.asSeen e) n.shadow e).modEng e fun n => { n with published := true })

/-- GRAPH_COMPLETE (step 10 of Table ARC-4): the last block completes at E_k + C_tot and the stall cycles; behind
the limit of step 10 it is the fault of R33. -/
def execGraphComplete (e : Fin 8) (s : State) : Host.Outcome State Fault Refusal :=
  let n := s.engN e
  if !(s.executes e && n.started && n.published && !n.complete) then .next s
  else match s.missAt e with
  | some t => .next ((s.advanceTo t).engineFault e)
  | none => .next ((s.advanceTo n.completeAt).modEng e fun n => { n with complete := true })

/-- MBOX_OUT_CAPTURE: a read of FRD_MBOX_OUT_e_0 captures the published set with its period index (R101). -/
def State.mboxCapture (s : State) (e : Nat) : State :=
  let idx := (s.engN e).mboxPubIdx
  let s := (s.modEng e fun n => { n with mboxCap := n.mboxPub }).setReg .frdMboxOutIdx e 0 idx
  s.modBus fun b => { b with companions := assocPut b.companions (regAddr .frdMboxOutIdx e 0) idx }

def execMboxOutCapture (e : Fin 8) (s : State) : Host.Outcome State Fault Refusal := .next (s.mboxCapture e)

/-! ### Sub-mode events (Table GFM-4) -/

/-- The committed template of an engine in RUNNING. -/
def State.templateOn (s : State) (e : Nat) : Bool :=
  s.executes e && s.ops.st = .running && match (s.engN e).image with | some img => img.kind = 0 | none => false

def State.modGfm (s : State) (e : Nat) (f : GfmState → GfmState) : State := s.modEng e fun n => { n with gfm := f n.gfm }

/-- BREAKER_STATE_ACCEPTED: an auxiliary input has shown the same result for 16 periods, and the change is accepted. -/
def execBreakerStateAccepted (e : Fin 8) (closed : Bool) (s : State) : Host.Outcome State Fault Refusal :=
  let n := s.engN e
  if s.executes e && lget n.work 0x35 0 ≠ 0 && n.gfm.brkCand == closed && decide (16 ≤ n.gfm.brkCount) && n.gfm.brk != closed then
    .next (s.modGfm e fun g => g.breaker closed)
  else .next s

/-- RT_EXIT_TIMEOUT: no condition of Table GFM-3 for T_RT_EXIT; RIDE_THROUGH clears at the next boundary (R57). -/
def execRtExitTimeout (e : Fin 8) (s : State) : Host.Outcome State Fault Refusal :=
  let n := s.engN e
  match n.gfm.rtQuiet with
  | some t =>
    if s.templateOn e && n.gfm.rt then
      .next ((s.advanceTo (t + 32000000 * (lget n.work 0x2B 0).toNat)).modGfm e fun g => { g with
        rtOut := true })
    else .next s
  | none => .next s

/-- CL_EXIT_TIMEOUT: the exit conditions of CURRENT_LIMITED have held for T_CL_EXIT; it clears at the next boundary (R57). -/
def execClExitTimeout (e : Fin 8) (s : State) : Host.Outcome State Fault Refusal :=
  let n := s.engN e
  match n.gfm.clQuiet with
  | some t =>
    if s.templateOn e && n.gfm.cl then
      .next ((s.advanceTo (t + 32000000 * (lget n.work 0x2C 0).toNat)).modGfm e fun g => { g with clOut := true })
    else .next s
  | none => .next s

/-- RECOVERY_END: T_REC after both voltage conditions cleared; RECOVERY clears at the next boundary (R57, R59). -/
def execRecoveryEnd (e : Fin 8) (s : State) : Host.Outcome State Fault Refusal :=
  match (s.engN e).gfm.recUntil with
  | some t =>
    if s.templateOn e then .next ((s.advanceTo t).modGfm e fun g => { g with recOut := true }) else .next s
  | none => .next s

/-! ### Commands -/

/-- A command for the inverter goes to every engine of the unit-level stages (R62); with none it has nothing to do. -/
def State.gfmCommand (s : State) (c : Src) (op : Nat) (p : Bytes) (take : Option DWord) : State :=
  s.unlessHalted c op (if s.unitEngines = 0 then s.done c op else s.enqueue c op p s.unitEngines take)

/-- GFM_SET_TARGETS: new targets of profile channels 0 to 4. -/
def execGfmSetTargets (c : Src) (p : Bytes) (s : State) : Host.Outcome State Fault Refusal :=
  .next (s.acting c 0x0101 p fun s => s.gfmCommand c 0x0101 p (s.controlTake c 0x0101 p))

/-- GFM_SET_BREAKER: the breaker state, where BRK_SRC = 0. -/
def execGfmSetBreaker (c : Src) (p : Bytes) (s : State) : Host.Outcome State Fault Refusal :=
  .next (s.acting c 0x0102 p fun s => s.gfmCommand c 0x0102 p (s.controlTake c 0x0102 p))

/-- GFM_CLEAR_FLAGS: selected sticky bits of the status word. -/
def execGfmClearFlags (c : Src) (p : Bytes) (s : State) : Host.Outcome State Fault Refusal :=
  .next (s.acting c 0x0103 p fun s => s.gfmCommand c 0x0103 p (s.controlTake c 0x0103 p))

/-- FRD_BANK_SWAP (Table FRD-12). DESIGN CHOICE: N is judged before the bank (log 18). -/
def State.frdBankSwap (s : State) (c : Src) (p : Bytes) (take : Option DWord) : State :=
  s.unlessHalted c 0x0110
    (if pb p 0 = 0 then s.refuse c 0x0110 .checkFail 1
     else if 4096 < pf p 2 2 then s.refuse c 0x0110 .checkFail 2
     else if 1 < pb p 1 then s.refuse c 0x0110 .checkFail 3
     else s.enqueue c 0x0110 p (pb p 0) take)

def execFrdBankSwap (c : Src) (p : Bytes) (s : State) : Host.Outcome State Fault Refusal :=
  .next (s.acting c 0x0110 p fun s => s.frdBankSwap c p (s.controlTake c 0x0110 p))

/-- FRD_SAT_READ_CLEAR (Table FRD-12). -/
def State.frdSatReadClear (s : State) (c : Src) (p : Bytes) (take : Option DWord) : State :=
  s.unlessHalted c 0x0801
    (if pb p 0 = 0 then s.refuse c 0x0801 .checkFail 1 else s.enqueue c 0x0801 p (pb p 0) take)

def execFrdSatReadClear (c : Src) (p : Bytes) (s : State) : Host.Outcome State Fault Refusal :=
  .next (s.acting c 0x0801 p fun s => s.frdSatReadClear c p (s.controlTake c 0x0801 p))

/-- PRF_SET_TARGET (Table PRF-5). -/
def State.prfSetTarget (s : State) (c : Src) (p : Bytes) (take : Option DWord) : State :=
  s.unlessHalted c 0x0120
    (if pb p 0 = 0 then s.refuse c 0x0120 .checkFail 1
     else if 7 < pb p 1 then s.refuse c 0x0120 .checkFail 3
     else s.enqueue c 0x0120 p (pb p 0) take)

def execPrfSetTarget (c : Src) (p : Bytes) (s : State) : Host.Outcome State Fault Refusal :=
  .next (s.acting c 0x0120 p fun s => s.prfSetTarget c p (s.controlTake c 0x0120 p))

end Sys2Proof.Machine
end

