-- ==== Sys2Proof/Machine/Check.lean ====
section
/-! DEFINITION. The configuration check: every rule of Tables STG-5, ACQ-13 and TWN-8 and of R460 on the stage as it stands, with one
entry for each failing instance, in the order of R367. A rule is written over two states: `s`, the device, and `v`, the device as
the stage would have it. -/

namespace Sys2Proof.Machine

/-- The device with a register file and graph images in the place of its committed ones. -/
def State.asIf (s : State) (f : RegFile) (imgs : Vector (Option Image) 8) : State :=
  { s with live := f, eng := Vector.ofFn fun (e : Fin 8) => { s.engN e with image := vget imgs e none, seen := f } }

/-! ### Entries (Table STG-3) -/

/-- An entry of a rule that names no instance. -/
def failOne (code : Nat) (bad : Bool) : List FailEntry := if bad then [⟨code, 0xFFFF, 0xFFFF⟩] else []

/-- The entries of a rule that names one of `n` instances. -/
def failEach (code n : Nat) (bad : Nat → Bool) : List FailEntry := ((List.range n).filter bad).map fun i => ⟨code, i, 0xFFFF⟩

/-- The entries of a rule that names one of `m` parts of one of `n` instances. -/
def failSub (code n m : Nat) (bad : Nat → Nat → Bool) : List FailEntry :=
  (List.range n).flatMap fun i => ((List.range m).filter (bad i)).map fun j => ⟨code, i, j⟩

/-! ### What several rules read -/

/-- A part of a timebase's configuration. -/
def State.cPrd (v : State) (t : Nat) : Nat := v.lv .pwmPrd t 0 23 0
def State.cDbl (v : State) (t : Nat) : Bool := v.lvb .pwmTbCtrl t 0 1
def State.cSrc (v : State) (t : Nat) : Nat := v.lv .pwmTbCtrl t 0 5 4
def State.cRun (v : State) (t : Nat) : Bool := v.lvb .pwmTbCtrl t 0 0
def State.cOfs (v : State) (t : Nat) : Nat := v.lv .pwmSyncOfs t 0 23 0

/-- Is output 2 enabled? -/
def State.cOut2 (v : State) : Bool := v.lvb .clkOut 2 0 31

/-- DIV_2. -/
def State.cDiv2 (v : State) : Nat := v.lv .clkOut 2 0 10 0

/-- The lead timebase of an engine has a period, so that its timing can be judged; a PRD of 0 fails 0x0A01. -/
def State.cTimed (v : State) (e : Nat) : Bool := decide (v.tc e ≠ 0)

/-- Sample dumps exist: groups are enabled and output 2 runs. -/
def State.cDumps (v : State) : Bool := v.cOut2 && decide (v.groupCount ≠ 0)

/-- Where the zeros of a timebase come from along its CHAIN sources, and how many ns after that source's own (Table PWM-6): a FREE
timebase by its number, SYNC_IN as 16, the slot grid of network time as 17. -/
def State.cRoot (v : State) : Nat → Nat × Nat
  | 0 => if v.cSrc 0 = 1 then (16, v.cOfs 0) else if v.cSrc 0 = 2 then (17, v.cOfs 0) else (0, 0)
  | t + 1 =>
    if v.cSrc (t + 1) = 1 then ((v.cRoot t).1, (v.cRoot t).2 + v.cOfs (t + 1))
    else if v.cSrc (t + 1) = 2 then (17, v.cOfs (t + 1)) else (t + 1, 0)

/-- The instant of the boundaries of an engine's lead timebase from those of DEC_REF_TB (log 40). -/
def State.cOffset (s v : State) (e : Nat) : Int :=
  let a := v.leadTb e
  let b := v.lv .decCtrl 0 0 11 8
  if (v.cRoot a).1 = (v.cRoot b).1 then 32 * (((v.cRoot a).2 : Int) - (v.cRoot b).2)
  else if (s.tb a).run = .running ∧ (s.tb b).run = .running ∧ v.cRun a ∧ v.cRun b then ((s.tb a).zeroAt : Int) - (s.tb b).zeroAt
  else 0

/-- Have two timebases the same phase offset (R67): zeros from one source, or both free-running, at the same distance modulo P? -/
def State.samePhase (v : State) (a b : Nat) : Bool :=
  let x := v.cRoot a
  let y := v.cRoot b
  (x.1 = y.1 || (decide (x.1 < 16) && decide (y.1 < 16))) && x.2 % v.cPrd b = y.2 % v.cPrd b

/-- t_s of an engine from its boundary (R139), in units of 31.25 ps. -/
def State.cTs (s v : State) (e : Nat) : Nat :=
  v.lv .decTs 0 0 15 0 * v.tmod + ((-(s.cOffset v e)) % ((v.decD * v.tmod : Nat) : Int)).toNat

/-- T_L from the boundary, the boundary itself where no group is active (log 40). -/
def State.cTl (s v : State) (e : Nat) : Nat := if v.cDumps then s.cTs v e + (v.groupCount - 1) * v.tmod else 0

/-- The images' costs, limits and kind. -/
def State.cImg (v : State) (e : Nat) (p : Image → Bool) : Bool := match (v.engN e).image with | some img => p img | none => false

/-- Does a block of an engine's image meet a condition? -/
def State.cBlock (v : State) (e : Nat) (p : Image → BlockRec → Bool) : Bool := v.cImg e fun img => img.blocks.any (p img)

/-- Is the engine's image a template whose parameters meet a condition in one of the banks? -/
def State.cTpl (v : State) (e : Nat) (p : (Nat → Nat) → Bool) : Bool :=
  v.cImg e fun img => img.kind = 0 && (p (fun i => (paramGet v.live e 0 i).toNat) || p fun i => (paramGet v.live e 1 i).toNat)

/-- ARMED or RUNNING. -/
def State.cHot (s : State) : Bool := s.ops.st = .armed || s.ops.st = .running

/-! ### Template parameters (Table GFM-7) -/

/-- The rows of Table GFM-7 that state one range: index, least and greatest code. A bound that is no code of its format stands for the
nearest code. -/
def tplRange : List (Nat × Nat × Nat) :=
  [(0x00, 100, 20000), (0x01, 400, 4160), (0x03, 50, 30000), (0x04, 0, 26214400), (0x05, 1342177, 53687091),
   (0x06, 1342177, 53687091), (0x07, 500, 100000), (0x08, 1000, 1000000), (0x09, 0, 134217728), (0x0A, 0, 134217728),
   (0x0B, 65536, 3276800), (0x0C, 268435456, 805306368), (0x0D, 0, 1), (0x0E, 0, 1073741824), (0x0F, 0, 131072000)]
  ++ (List.range 6).map (fun n => (0x18 + n, 0, 131072000))
  ++ [(0x20, 0, 268435456), (0x21, 0, 1073741824), (0x22, 0, 327680000), (0x23, 134217728, 268435456), (0x24, 0, 1),
   (0x25, 0, 1610612736), (0x26, 0, 119304647), (0x27, 134217728, 255013683), (0x28, 281857229, 348966093), (0x29, 32768, 655360),
   (0x2A, 59652324, 715827883), (0x2B, 10, 5000), (0x2C, 1, 1000), (0x2D, 1342177, 13421773), (0x2E, 268435, 5368709),
   (0x2F, 100, 10000)]
  ++ [(0x30, 214748365, 268435456), (0x31, 268435456, 322122547), (0x32, 0, 268435456), (0x33, 268435456, 348966093), (0x34, 0, 1),
   (0x35, 0, 16), (0x36, 0, 268435456), (0x37, 327680, 3276800), (0x38, 0, 11), (0x39, 2684355, 53687091)]
  ++ (List.range 16).map fun n => (0x40 + n, 0, 268435456)

/-- Is a template parameter within its range? -/
def tplOk (i v : Nat) : Bool :=
  if i = 2 then v = 50 || v = 60
  else if 0x10 ≤ i ∧ i ≤ 0x15 then v = 0 || (decide (2 ≤ v) && decide (v ≤ 25))
  else match tplRange.find? fun r => r.1 = i with
    | some r => decide (r.2.1 ≤ v) && decide (v ≤ r.2.2)
    | none => true

/-- Used harmonic orders. -/
def tplHarm (v : Nat → Nat) : List Nat := ((List.range 6).map fun n => v (0x10 + n)).filter (· ≠ 0)

/-- The share weights of the configured stacks sum to 1 within 2^−20. -/
def tplShares (s : State) (v : Nat → Nat) : Bool :=
  let sum := (((List.range 16).filter s.configured).map fun k => v (0x40 + k)).sum
  decide (sum ≤ 268435456 + 256) && decide (268435456 ≤ sum + 256)

/-! ### The rules, in code order -/

/-- Blocks 0x00, 0x02 and 0x03. -/
def State.rulesTime (s v : State) : List FailEntry :=
  let dead := fun e => v.tc e - if v.linkMode then 96000 else 8000
  let cost := fun e (f : Image → Nat) => match (v.engN e).image with | some img => f img | none => 0
  failEach 0x0001 8 (fun e => v.cTimed e && decide (v.tc e % (v.decD * v.tmod) ≠ 0))
  ++ failOne 0x0002 (decide (v.decD < v.groupCount))
  ++ failEach 0x0003 8 (fun e => v.cTimed e
      && (decide (dead e < s.cTl v e + 112000) || decide (dead e < s.cTl v e + 16000 + 32 * cost e (·.costCrit))))
  ++ failEach 0x0004 8 (fun e => v.cTimed e && decide (v.tc e < s.cTl v e + 19200 + 32 * cost e (·.costTotal)))
  ++ failOne 0x0201 (v.lv .secReplayWin 0 0 31 0 = 0 || decide (86400000 < v.lv .secReplayWin 0 0 31 0))
  ++ failEach 0x0202 2 (fun j => v.lvb .secTamperCfg 0 0 (14 + j)
      && !(v.lvb .secTamperCfg 0 0 (2 * j) && v.lvb .secTamperCfg 0 0 (2 * j + 1)))
  ++ failEach 0x0301 8 (fun k =>
      ((k = 0 || k = 1 || k = 3 || k = 4) && decide ((regGet v.live .clkOut k).toNat ≠ clkOutReset k))
      || (decide (5 ≤ k) && v.lvb .clkOut k 0 31) || v.lv .clkOut k 0 10 0 = 0 || decide (1024 < v.lv .clkOut k 0 10 0))
  ++ failEach 0x0302 3 (fun k => k = 2 && (decide (v.cDiv2 % 10 ≠ 0) || decide (v.cDiv2 < 160) || decide (800 < v.cDiv2)
      || decide (v.cDiv2 ≤ v.lv .clkOut 2 0 25 16)))
  ++ failEach 0x0303 3 (fun k => k = 2 && decide (v.groupCount ≠ 0) && !v.cOut2)
  ++ failEach 0x0304 3 (fun k => k = 2 && decide (regGet v.live .clkOut 2 ≠ regGet s.live .clkOut 2)
      && (decide (s.groupCount ≠ 0) || s.cHot))
  ++ failOne 0x0305 (v.lv .clkLoop 0 0 15 0 = 0 || v.lv .clkLoop 0 0 19 16 = 0 || v.lv .clkReacq 0 0 15 0 = 0
      || v.lv .clkReacq 0 0 23 16 = 0 || v.lv .clkReacq 0 0 31 24 = 0 || decide (200 < v.lv .clkReacq 0 0 31 24))

/-- Blocks 0x04 and 0x05. -/
def State.rulesNet (v : State) : List FailEntry :=
  let incr := v.lv .ntCtrl 0 0 24 16
  let width := v.lv .ntCtrl 0 0 15 8
  let mode := v.lv .ethCtrl 0 0 1 0
  failOne 0x0401 (incr = 0 || decide (500 < incr) || width = 0 || decide (200 < width))
  ++ failOne 0x0402 (v.lvb .ntPtmCtrl 0 0 0 && !v.lvb .ntPtmDst 0 0 40)
  ++ failOne 0x0403 (v.lv .ntPtmCtrl 0 0 31 24 = 0 || v.lv .ntPtmWin 0 0 15 0 = 0)
  ++ failOne 0x0501 (((mode = 1 || mode = 2) && v.lvb .ethPortCfg 0 0 1 != v.lvb .ethPortCfg 1 0 1)
      || ((List.range 2).any fun p => v.lvb .ethPortCfg p 0 1 && v.lvb .ethPortCfg p 0 2) || mode = 3)

/-- Blocks 0x06 and 0x07. -/
def State.rulesMeas (s v : State) : List FailEntry :=
  let zero := fun c => (List.range (v.stageN c)).any fun i => v.lv .decFilt c 0 (8 * i + 7) (8 * i) = 0
  let above := fun c => (List.range 4).any fun i => decide (v.stageN c ≤ i) && v.lv .decFilt c 0 (8 * i + 7) (8 * i) ≠ 0
  let changed := fun c => decide (regGet v.live .decFilt c ≠ regGet s.live .decFilt c)
    || decide ((regGet v.live .decMode c ^^^ regGet s.live .decMode c) &&& 0x03BFFFFF ≠ 0)
  failEach 0x0601 8 (fun m => decide (v.cDiv2 ≤ 10 * v.lv .decSmp 0 0 (4 * m + 3) (4 * m)))
  ++ failEach 0x0602 160 (fun c => (v.srcKind c = 2 && !v.linkMode) || (v.srcKind c ≠ 2 && v.lv .decSrc c 0 11 10 ≠ 0)
      || (v.srcKind c = 1 && decide (63 < v.srcIndex c)))
  ++ failOne 0x0603 (!((List.range 20).all fun g => v.groupOn g == decide (g < v.groupCount))
      || decide (min 20 (v.cDiv2 / 10) < v.groupCount))
  ++ failEach 0x0604 8 (fun e => v.cTimed e
      && (decide (s.cOffset v e % (v.tmod : Int) ≠ 0) || decide (v.tc e < s.cTs v e + v.groupCount * v.tmod)))
  ++ failEach 0x0605 160 (fun c => s.groupOn (c / 8) && v.groupOn (c / 8) && changed c)
  ++ failOne 0x0605 (((List.range 20).any fun g => s.groupOn g && v.groupOn g) && decide (v.decD ≠ s.decD))
  ++ failEach 0x0606 160 (fun c => v.srcKind c = 3 || decide (v.fastLen c < 4) || decide (32 < v.fastLen c)
      || (v.groupOn (c / 8) && zero c) || above c)
  ++ failOne 0x0606 (decide (8 < v.lv .decCtrl 0 0 3 0))
  ++ failEach 0x0701 16 (fun n => decide (8 < v.lv .adcSlot n 0 11 8) || decide (v.lv .adcSlot n 0 11 8 < v.lv .adcSlot n 0 19 16))
  ++ failOne 0x0702 (v.lv .adcCtrl 0 0 5 4 = 3)

/-- Does an engine's assignment break R67? -/
def State.badAssign (v : State) (e : Nat) : Bool :=
  let t := v.leadTb e
  let named := [v.slotStack e 0, v.slotStack e 1].filter (· ≠ 31)
  let served := v.servedBy e
  named.any (fun k => decide (15 < k))
    || served.any (fun k => (List.range 8).any fun i => decide (i < e) && (v.servedBy i).contains k)
    || served.any (fun k => v.cPrd k != v.cPrd t || v.cDbl k != v.cDbl t || !v.samePhase k t)
    || (!served.isEmpty && !served.contains t) || (named.isEmpty && !v.cRun t)

/-- Does a CROSS_IN break R88: another lead timebase, or another type than that of the signal written into the word? -/
def State.badCross (v : State) (e : Nat) (b : BlockRec) : Bool :=
  let src := b.imm / 16 % 8
  let want : SigTy := match b.opt with | 0 => .q | 1 => .t | _ => .b
  v.leadTb src != v.leadTb e
    || v.cBlock src fun img x => x.code = 0x36 && x.imm = b.imm % 16 &&
      match refType img (img.blocks.length + 1) (lget x.ins 0 0) with
      | some ty => ty != .any && ty != want
      | none => false

/-- f_nom that a DSC would use from a bank. -/
def State.dscNom (v : State) (e bank : Nat) (img : Image) (b : BlockRec) : Nat :=
  (paramGet v.live e bank (if img.kind = 0 then 2 else b.paramBase)).toNat

/-- Does a detector input break R128? -/
def State.badOsc (v : State) (e i : Nat) : Bool :=
  let lo := v.lv .frdOscBand e i 31 16
  let hi := v.lv .frdOscBand e i 15 0
  let mask := v.lv .frdOscAct e i 31 16
  (decide (lo < 8) || decide (hi ≤ lo) || decide (40000 < hi) || decide (32000000000 < hi * v.tc e)
    || decide (signed 32 (v.lv .frdOscThr e i 31 0) ≤ 0) || v.lv .frdOscAct e i 15 8 = 0
    || (v.lv .frdOscAct e i 1 0 = 2 && mask = 0) || (bitsIn 16 mask).any fun k => !v.configured k)

/-- Block 0x08. -/
def State.rulesFrd (s v : State) : List FailEntry :=
  let lim := fun e c (r : Reg) => signed 32 (v.lv r e c 31 0)
  failEach 0x0801 8 v.badAssign
  ++ failEach 0x0802 8 (fun e => !v.linkMode && [v.slotStack e 0, v.slotStack e 1].any fun k => decide (8 ≤ k) && decide (k < 31))
  ++ failEach 0x0803 8 (fun e => v.cImg e fun img => decide (v.tc e < img.tcMin) || decide (img.tcMax < v.tc e))
  ++ failEach 0x0804 8 (fun e => v.cImg e fun img => img.kind = 0 && (decide (v.tc e < 500000) || decide (8000000 < v.tc e)))
  ++ failEach 0x0805 8 (fun e => s.cHot && decide ((v.engN e).image ≠ (s.engN e).image))
  ++ failEach 0x0806 8 (fun e => v.cBlock e fun _ b => b.code = 0x31 && !(v.groupOn (b.imm / 8) && v.groupOn b.opt))
  ++ failEach 0x0807 8 (fun e => v.cBlock e fun _ b => b.code = 0x37 && v.badCross e b)
  ++ failSub 0x0808 8 8 (fun e c => v.cBlock e fun _ b => b.code = 0x33 && b.imm = c
      && ((b.opt = 0 && v.lvb .frdPrfCfg e c 1) || (b.opt = 1 && !v.lvb .frdPrfCfg e c 1)))
  ++ failSub 0x0809 8 0x50 (fun e i => v.cImg e (fun img => decide (i < img.params.length)) && v.cTpl e fun p => !tplOk i (p i))
  ++ failEach 0x080A 8 (fun e => v.cTpl e fun p => decide (p 0x31 < p 0x30) || decide (p 0x33 < p 0x32))
  ++ failEach 0x080B 8 (fun e => v.cTpl e fun p => !noRepeat (tplHarm p)
      || (tplHarm p).any fun h => decide (32000000000 < 8 * h * p 2 * v.tc e))
  ++ failEach 0x080C 8 (fun e => v.cTpl e fun p => !tplShares v p)
  ++ failSub 0x080D 8 8 (fun e c => v.lv .frdPrfVlim e c 31 0 = 0 || v.lv .frdPrfAlim e c 31 0 = 0 || v.lv .frdPrfJlim e c 31 0 = 0
      || decide (lim e c .frdPrfPhi < lim e c .frdPrfPlo) || decide (lim e c .frdPrfInit < lim e c .frdPrfPlo)
      || decide (lim e c .frdPrfPhi < lim e c .frdPrfInit))
  ++ failSub 0x080E 8 8 (fun e c => v.cImg e fun img => decide (img.signals ≤ v.lv .frdPrfCfg e c 26 16))
  ++ failSub 0x080F 8 16 v.badOsc
  ++ (List.range 8).flatMap (fun e => (failSub 0x0810 8 16 fun i j => i = e && v.lv .frdOscAct i j 1 0 = 3)
      ++ failEach 0x0810 8 fun i => i = e && decide (4096 < v.lv .frdOscCtrl i 0 28 16))
  ++ failEach 0x0811 8 (fun e => v.cBlock e fun _ b => (b.code = 0x50 || b.code = 0x51 || b.code = 0x34) && v.slotStack e b.imm = 31)
  ++ failEach 0x0812 8 (fun e => v.cBlock e fun img b => b.code = 0x41
      && [0, 1].any fun bank => decide (32000000000 > 510 * (4 * v.dscNom e bank img b * v.tc e)))

/-- Block 0x0A. -/
def State.rulesPwm (s v : State) : List FailEntry :=
  let dt := fun q => max (v.lv .pwmDt q 0 13 0) (v.lv .pwmDt q 0 29 16)
  let leads := fun t => (List.range 8).filter fun e => v.lvb .frdCtrl e 0 0 && v.leadTb e = t
  let led := fun t => (List.range 8).any fun e => v.leadTb e = t
  failEach 0x0A01 16 (fun t => decide (v.cPrd t < 10000) || decide (10000000 < v.cPrd t) || (v.cDbl t && v.cPrd t % 2 = 1))
  ++ failEach 0x0A02 96 (fun q => decide (16000 < dt q))
  ++ failEach 0x0A03 96 (fun q =>
      let t := q / 6
      decide ((if v.cDbl t then v.cPrd t else 2 * v.cPrd t) ≤ 2 * (dt q + v.lv .pwmMinp t 0 13 0)))
  ++ failEach 0x0A04 16 (fun t => v.cSrc t = 3 || decide (v.cPrd t ≤ v.cOfs t)
      || (v.cSrc t = 1 && decide (0 < t) && (v.cPrd (t - 1) != v.cPrd t || v.cDbl (t - 1) != v.cDbl t))
      || (v.cSrc t = 2 && (v.cPrd t = 0 || decide (1000000000 % v.cPrd t ≠ 0) || v.lv .clkRef 0 0 1 0 ≠ 3
        || (led t && v.cSrc (v.lv .decCtrl 0 0 11 8) ≠ 2))))
  ++ failEach 0x0A05 16 (fun t => decide (64 * v.lv .pwmTol t 0 7 0 < v.tmod))
  ++ failEach 0x0A06 16 (fun t => s.cHot && !v.cRun t && !(leads t).isEmpty)
  ++ failEach 0x0A07 16 (fun t => decide (10000 < v.lv .pwmMinp t 0 13 0)
      || (List.range 12).any fun j => v.lv .pwmForce t 0 (2 * j + 1) (2 * j) = 3)

/-- Blocks 0x0B and 0x0C. -/
def State.rulesGate (v : State) : List FailEntry :=
  let ack := v.lv .gdlCtrl 0 0 15 8
  let fix := v.lv .gdlLatFix 0 0 9 0
  let act := fun c => v.lv .trpCmpCfg c 0 1 0
  let used := fun c => act c ≠ 0 || v.lvb .decSrc c 0 12
  let lf2 := fun c => ((v.fastLen c) ^ 2 : Nat)
  let stray := fun m => (bitsIn 16 m).any fun k => !v.configured k
  failOne 0x0B01 (decide (10 < v.lv .gdlCtrl 0 0 28 24) || decide (10 < v.lv .gdlCtrl 0 0 20 16) || decide (ack < 5) || decide (50 < ack))
  ++ failEach 0x0B02 16 (fun k => decide (v.lv .gdlStkCfg k 0 21 16 < 3) || decide (50 < v.lv .gdlStkCfg k 0 21 16)
      || (!v.linkMode && v.configured k && v.lv .gdlStkCfg k 0 11 8 = 0))
  ++ failOne 0x0B03 (decide (fix < 200) || decide (900 < fix))
  ++ failEach 0x0B04 8 (fun e => v.cTimed e && v.linkMode && decide (128000000 < v.tc e))
  ++ failEach 0x0C01 160 (fun c => decide (v.cmpHi c - v.cmpLo c ≤ 2 * v.cmpHys c)
      || (act c ≠ 0 && (decide (v.cmpLo c < -(lf2 c : Int)) || decide ((lf2 c : Int) < v.cmpHi c))))
  ++ failEach 0x0C02 160 (fun c => act c = 3 || (used c && v.srcKind c = 0)
      || (v.srcKind c = 1 && !v.configured (v.lv .trpCmpCfg c 0 19 16)) || (act c = 2 && v.lv .trpCmpCfg c 0 14 12 = 0))
  ++ failEach 0x0C03 16 (fun k => v.lv .trpStkCfg k 0 23 16 = 0)
  ++ failEach 0x0C04 16 (fun k => decide (v.lv .trpStkCfg k 0 15 0 < 200))
  ++ failEach 0x0C05 16 (fun k => v.lvb .trpProp k 0 k || stray (v.lv .trpProp k 0 15 0))
  ++ failEach 0x0C06 16 (fun i => decide (100 < v.lv .trpInCfg i 0 6 0) || stray (v.lv .trpInCfg i 0 31 16))

/-- The registers of the safety parameter set of R263. -/
def safSet : List (Reg × Nat) :=
  [(.safTestCfg, 0), (.safInCfg, 0), (.safInCfg, 1), (.safInCfg, 2), (.safInCfg, 3), (.safPsetId, 0)]

/-- Block 0x0D. -/
def State.rulesSaf (s v : State) : List FailEntry :=
  let kind := fun k => v.lv .safInCfg k 0 1 0
  let within := fun (lo hi x : Nat) => decide (lo ≤ x) && decide (x ≤ hi)
  failOne 0x0D01 (s.ops.st ≠ .idle && safSet.any fun r => decide (regGet v.live r.1 r.2 ≠ regGet s.live r.1 r.2))
  ++ failEach 0x0D02 4 (fun k => !(within 1 50 (v.lv .safInCfg k 0 23 16) && within 2 40 (v.lv .safInCfg k 0 15 8)))
  ++ failOne 0x0D02 (!(within 1 60 (v.lv .safTestCfg 0 0 23 16) && within 100 500 (v.lv .safTestCfg 0 0 8 0)))
  ++ failEach 0x0D03 4 (fun k => kind k = 3 && (List.range 4).all fun i => kind i ≠ 1)

/-- The settings of an acquisition unit. -/
def acqSettings : List (Reg × Nat) :=
  [(.acqCfg, 0), (.acqSegs, 0), (.acqSeglen, 0), (.acqPost, 0), (.acqTrig, 0), (.acqTrigSel, 0), (.acqThrCfg, 0), (.acqThr, 0),
   (.acqThrHys, 0), (.acqRoc, 0), (.acqMeasHys, 0)] ++ (List.range 32).map fun i => (.acqCh, i)

/-- Does a channel of a unit break the first rule of Table ACQ-13? -/
def State.badAcqSource (v : State) (u : Nat) : Bool :=
  let chans := (List.range (v.acqNch u)).map (v.acqCh u)
  match v.acqMode u with
  | 1 => match (v.engN (v.lv .acqCfg u 0 26 24)).image with
    | some img => chans.any fun c => decide (img.signals ≤ c)
    | none => true
  | 3 => true
  | _ => chans.any fun c => !v.groupOn (c / 8)

/-- Block 0x0E. -/
def State.rulesAcq (s v : State) : List FailEntry :=
  let value := fun u => v.lvb .acqTrig u 0 0 || v.lvb .acqTrig u 0 1
  let len := fun u => v.lv .acqSeglen u 0 31 0
  let avg := v.acqAvg
  failEach 0x0E01 8 (fun u => decide (len u ≤ v.lv .acqPost u 0 31 0))
  ++ failOne 0x0E02 (decide (12884901888 < v.acqBase 8))
  ++ failEach 0x0E03 8 v.badAcqSource
  ++ failEach 0x0E04 8 (fun u => decide (len u < 2) || decide (2 ^ 31 < len u))
  ++ failEach 0x0E05 8 (fun u => decide (8 < avg u) || decide (min (avg u) 4 < v.acqXres u) || (v.acqMode u = 2 && avg u ≠ 0))
  ++ failEach 0x0E06 8 (fun u => decide (v.acqNch u ≤ v.lv .acqThrCfg u 0 20 16) || (v.acqMode u = 2 && value u)
      || v.lv .acqThrCfg u 0 9 8 = 3 || v.lv .acqThrCfg u 0 31 24 = 0)
  ++ failEach 0x0E07 8 (fun u => (s.acqN u).st ≠ .idle
      && acqSettings.any fun r => decide (regGet v.live r.1 u r.2 ≠ regGet s.live r.1 u r.2))

/-- The size of a queue in units of 32 bytes (Table ACQ-8). -/
def queueUnits : Nat → Nat
  | 1 => 8 | 2 => 1024 | 3 => 512 | 4 => 64 | _ => 0

/-- Block 0x0F. -/
def State.rulesDma (s v : State) : List FailEntry :=
  let queue := fun n => v.lv .dmaChCfg n 0 3 0
  let high := fun n => v.lv .dmaChCfg n 0 29 20
  let wrong := fun n own => queue n ≠ own
  let named := fun n => (v.lv .ethCtrl 0 0 12 8 = n && wrong n 2) || (v.lv .ethCtrl 0 0 20 16 = n && wrong n 3)
    || (bitsOf (s.reg .schCtrl) 12 8 = n && wrong n 4)
  failEach 0x0F01 32 (fun n => decide (4 < queue n) || named n
      || (queue n ≠ 0 && (List.range 32).any fun m => m != n && queue m = queue n))
  ++ failEach 0x0F02 32 (fun n => decide (high n ≤ v.lv .dmaChCfg n 0 19 10) || (queue n ≠ 0 && decide (queueUnits (queue n) < high n))
      || decide (high n < 2 ^ v.lv .dmaChCfg n 0 9 8))
  ++ failEach 0x0F03 32 (fun n => (s.dmaN n).st ≠ .idle && decide (regGet v.live .dmaChCfg n ≠ regGet s.live .dmaChCfg n))

/-- Bytes of the STATE field of R433 for an engine: the state of its SWING, LPF1, PLL_SRF, INT_O, PI_O, PI_I and RES_I blocks, and 32
bytes for each enabled profile channel (log 42). -/
def State.stateBytes (v : State) (e : Nat) : Nat :=
  (match (v.engN e).image with
    | some img => ((img.blocks.filter fun b => [0x43, 0x0E, 0x42, 0x12, 0x13, 0x14, 0x15].contains b.code).map fun b => 8 * blockState b).sum
    | none => 0)
  + 32 * ((List.range 8).filter (v.prfOn e)).length

/-- Block 0x11, where TWIN selects a pair (R449). -/
def State.rulesTwin (v : State) : List FailEntry :=
  let skew := v.lv .twnCfg 0 0 23 16
  if !v.pair then []
  else
    failEach 0x1101 16 (fun t => v.configured t && v.cRun t && v.cSrc t ≠ 2)
    ++ failEach 0x1102 8 (fun e => v.cTimed e && v.cImg e fun img => decide (4 * v.tc e < 160 * (img.costTotal + 100)))
    ++ failOne 0x1103 (decide (8192 < 128 + (((List.range 8).filter v.canRun).map v.stateBytes).sum))
    ++ failEach 0x1104 16 (fun k => !v.linkMode && decide (v.lv .pwmMinp k 0 13 0 < 700))
    ++ failOne 0x1105 (!v.lvb .frdCtrl v.refEng 0 0 || decide (skew < 10) || decide (200 < skew))

/-- Blocks 0x12 and 0x13. -/
def State.rulesDevice (s v : State) : List FailEntry :=
  let adr := v.lv .mgtCfg 0 0 6 0
  failOne 0x1201 (decide (adr ≤ 7) || decide (0x78 ≤ adr))
  ++ failOne 0x1301 (decide (1 < v.lv .stgDeviceCfg 0 0 1 0) || decide (1 < v.lv .stgDeviceCfg 0 0 3 2)
      || decide ((if v.linkMode then 16 else 8) < v.nStacks))
  ++ failOne 0x1302 (s.cHot && decide (regGet v.live .stgDeviceCfg ≠ regGet s.live .stgDeviceCfg))

/-- The check of R366 on a register file and images: every entry, ordered by CODE, INSTANCE and SUB. -/
def State.checkAll (s : State) (f : RegFile) (imgs : Vector (Option Image) 8) : List FailEntry :=
  let v := s.asIf f imgs
  if s.arb.strapped then [] else
  s.rulesTime v ++ v.rulesNet ++ s.rulesMeas v ++ s.rulesFrd v ++ s.rulesPwm v ++ v.rulesGate ++ s.rulesSaf v ++ s.rulesAcq v
    ++ s.rulesDma v ++ v.rulesTwin ++ s.rulesDevice v

/-- The codes marked S in Tables STG-5, ACQ-13 and TWN-8. -/
def sCodes : List Nat := [0x0304, 0x0605, 0x0805, 0x0A06, 0x0D01, 0x0E07, 0x0F03, 0x1302]

/-- The rules that are judged again at C (R370, R371). -/
def State.checkS (s : State) (f : RegFile) (imgs : Vector (Option Image) 8) : List FailEntry :=
  (s.checkAll f imgs).filter fun x => sCodes.contains x.code

/-- A failure entry as bytes (Table STG-3). -/
def FailEntry.bytes (x : FailEntry) : Bytes := leBytes 2 x.code ++ leBytes 2 x.inst ++ leBytes 2 x.sub ++ [0, 0]

/-- A failure entry as STG_FAIL_i shows it. -/
def FailEntry.word (x : FailEntry) : DWord := BitVec.ofNat 64 (x.code + 65536 * (x.inst + 65536 * x.sub))

end Sys2Proof.Machine
end

