-- ==== Sys2Proof/Machine/Clock.lean ====
section
/-! DEFINITION. Clock synthesis: comparisons and the loop states, coasting, slewing and stepping, and the outputs (R267 to R282,
R486). -/

namespace Sys2Proof.Machine

def State.refSel (s : State) : Nat := s.lv .clkRef 0 0 1 0
def State.lockTol (s : State) : Nat := 10 * s.lv .clkLoop 0 0 15 0
def State.lockCnt (s : State) : Nat := s.lv .clkLoop 0 0 19 16
def State.clkWindow (s : State) : Nat := 1000 * s.lv .clkReacq 0 0 15 0

/-- An event of the loop: sticky in CLK_EVT and logged. -/
def State.clkEvent (s : State) (n : Nat) : State :=
  let s := s.setFlag .clkEvt 0 n
  s.logFlag 3 n (s.reg .clkEvt)

/-- The interval between comparisons in ns (Table CLK-2). -/
def cmpInterval : Nat → Nat
  | 0 => 40 | 1 => 100 | 2 => 1000000000 | _ => 1000

/-- Is a reference always qualified (Table CLK-2)? -/
def alwaysQualified (ref : Nat) : Bool := ref = 0 || ref = 3

/-- What the time-to-digital converter makes of a difference in ps: a multiple of its resolution of 2 ps; which neighbour of an odd
number it gives is free (R267). -/
def tdc (ps : Int) : Int := if ps % 2 = 0 then ps else ps - 1 + 2 * (Config.withinBound 6 ps 0 % 2)

/-- The phase error of a comparison in ps (R273). For the TCXO and for 10 MHz it is the measured difference modulo the period; for 1PPS
the difference between the elapsed CTL time and the reference, shifted by the offset of the nanosecond count; for network time that of
the count against the NT clock, which the state holds. -/
def State.phaseError (s : State) (ref : Nat) (ps : Int) : Int :=
  let most : Int := 2147483648000
  match ref with
  | 0 => centred 40000 (tdc ps)
  | 1 => centred 100000 (tdc ps)
  | 2 => clampInt (-most) most (tdc (ps + roundDiv (s.clk.nsOfs * 1000) 4294967296))
  | _ =>
    let nt := s.nt.total + (s.nt.phase * (regGet s.regs .ntIncr).toNat / ntCycle : Nat)
    clampInt (-most) most (tdc (roundDiv (((s.now * 134217728 : Nat) + s.clk.nsOfs - nt) * 1000) 4294967296))

/-- The nanosecond count is aligned to the reference: the error becomes 0 (R273, R280). -/
def ClkState.align (c : ClkState) (err : Int) : ClkState := { c with nsOfs := c.nsOfs - roundDiv (err * 4294967296) 1000 }

/-- The mean of the latest control words: 64 of them, 16 for 1PPS (R277). -/
def ClkState.mean (c : ClkState) : Int :=
  let l := c.hist.take (if c.refActive = 2 then 16 else 64)
  if l.isEmpty then c.ctrl else roundDiv l.sum l.length

/-- Entry to COASTING: the control word is frozen, within 1 ppm of what it was (R277), slewing ends with its offset, steps that wait cannot
execute, and the entry counts. From JUMP_WAIT, in which the loop has coasted all along, the oscillator drifts on. -/
def State.coast (s : State) (fresh : Bool) : State :=
  let waiting := s.clk.stepWait
  let s := s.modClk fun c =>
    let was := tune c.ctrl
    let word := if fresh then clampInt (was - 1000) (was + 1000) c.mean else c.frozen
    { c with
      st := .coasting, frozen := word, ctrl := word, slewErr := 0, lockRun := 0, badRun := 0, stepWait := []
      coastAt := if c.st = .jumpWait then c.coastAt else s.now
      lockedOfs := if c.st = .locked then was else c.lockedOfs }
  let s := waiting.foldl (fun s src => s.refuse src 0x0804 .error 2) s
  s.count .clkLockLostCnt

/-- The outputs that CLK_OUT_k enables. -/
def State.enabledOutputs (s : State) : Nat := maskOf 8 fun k => bitOf (regGet s.live .clkOut k) 31

/-- The outputs of a mask restart at a CTL tick (R270, R280). -/
def ClkState.restart (c : ClkState) (mask : BitVec 8) (at_ : Nat) : ClkState :=
  { c with outAt := (List.range 8).foldl (fun v k => if mask.getLsbD k then vset v k at_ else v) c.outAt }

/-- Output 2 restarts at a CTL tick: its ticks count from there (R486). The dumps are aligned anew where the reference timebase runs;
else group 0 dumps at the first tick (R140). -/
def State.restart2 (s : State) (at_ : Nat) : State :=
  let s := (s.modClk fun c => { c with restartAt := at_ })
  let m := s.meas
  let s := { s with meas := { m with tick := 0, dump0 := [], groups := m.groups.map fun (g : DecGroup) => { g with lastTick := none } } }
  if (s.tb s.refTb).run = .running then s.dumpAlign else { s with meas := { s.meas with dumpBase := 0 } }

/-- Are all timebases STOPPED? -/
def State.tbsStopped (s : State) : Bool := (List.range 16).all fun t => (s.tb t).run == .stopped

/-- How long after the present instant the outputs restart in a step, in units of 31.25 ps: at the oscillator edge, one every 250 ps with
the CTL ticks among them, nearest to the instant at which the reference reaches a whole nanosecond (R280). For 1PPS and network time that
is where the nanosecond count does that has taken its value; for the others the reference lies `err` ps behind the CTL clock. -/
def State.stepEdge (s : State) (err : Int) : Nat :=
  let ref : Int := (s.now * 134217728 : Nat) + if 2 ≤ s.refSel then s.clk.nsOfs else -roundDiv (err * 4294967296) 1000
  let edge := ((s.now % 8 * 134217728 : Nat) + (-ref) % 4294967296 + 536870912) / 1073741824
  let d := 8 * edge.toNat
  if s.now % 8 ≤ d then d - s.now % 8 else d + 32 - s.now % 8

/-- The next CTL tick comes `edge` after the present instant: the cycle in progress is lengthened or shortened to that, and network time
runs on by that much (R280). -/
def State.cycleEnd (s : State) (edge : Nat) : State :=
  { s with now := ctlTick s.now, nt := s.nt.elapse (regGet s.regs .ntIncr).toNat (tcxoTime s.oscOffset edge) }

/-- The restart of a step: every output restarts at the next CTL tick, and the nanosecond count follows the length of the cycle in progress
(R280). -/
def State.stepRestart (s : State) (err : Int) : State :=
  let skew : Int := (ctlTick s.now : Int) - s.now - s.stepEdge err
  (s.modClk fun c => { c.restart (BitVec.allOnes 8) (ctlTick s.now) with
    nsOfs := if 2 ≤ s.refSel then c.nsOfs - skew * 134217728 else c.nsOfs }).cycleEnd (s.stepEdge err)

/-- A step: every enabled output restarts, the nanosecond count takes the reference value, the loop is LOCKED, and every active group counts
as aligned anew (R280). Where a timebase has started since the command, nothing changes and the command completes as Table CLK-4 states. -/
def State.clkStep (s : State) : State :=
  let waiting := s.clk.stepWait
  if !s.tbsStopped then waiting.foldl (fun s src => s.refuse src 0x0804 .error 1) (s.modClk fun c => { c with stepWait := [] })
  else
    let err := s.clk.err
    let s := s.modClk fun c => { (if 2 ≤ s.refSel then c.align c.err else c) with
      st := .locked, stepWait := [], slewErr := 0, lockRun := 0, badRun := 0, err := 0 }
    let s := s.clkEvent 4
    let s := (waiting.foldl (fun s src => s.done src 0x0804) s).stepRestart err
    if s.clk.running.getLsbD 2 then (s.restart2 s.now).dumpAlign else s

/-- A slew begins with the error of the latest comparison. -/
def ClkState.beginSlew (c : ClkState) (now : Nat) : ClkState :=
  { c with st := .slewing, slewErr := c.err, slewAt := now, lockRun := 0 }

/-- 2 ms after power-up without a lock on the TCXO the self-test item ADPLL fails (Table CLK-3, Table OPS-5). -/
def State.acqLate (s : State) : State :=
  let s := s.setFlag .glbSelftest 0 4
  if s.ops.st = .selftest then s.halt 0x20 else s

/-- The instant until which the loop is to have locked. -/
def State.acqEnd (s : State) : Nat := s.clk.acqAt + 64000000

/-- The loop enters LOCKED from ACQUIRE: the outputs start as CLK_OUT_k sets them. A lock that comes too late does not undo the failed
item. -/
def State.firstLock (s : State) : State :=
  let s := if s.acqEnd < s.now then s.acqLate else s
  let s := s.modClk fun c => { (c.restart (BitVec.allOnes 8) (ctlTick s.now)) with
    st := .locked, lockRun := 0, badRun := 0, running := BitVec.ofNat 8 s.enabledOutputs, strobe := 0 }
  if s.clk.running.getLsbD 2 then s.restart2 (ctlTick s.now) else s

/-- Is the selected reference qualified at a comparison, `good` telling that its edge is within the limits of Table CLK-2: 10 MHz once its
edges have been so for 1 ms, 1PPS from the third such edge on? -/
def State.qualifies (s : State) (good : Bool) : Bool :=
  alwaysQualified s.refSel || (good && if s.refSel = 1 then s.clk.refSince.any fun t => decide (t + 32000000 ≤ s.now) else decide (1 ≤ s.clk.edges))

/-- What a comparison tells of the selected reference. An edge that is missing or off its frequency ends a qualification in progress; one
that has qualified stays so until its loss condition holds (R272). -/
def State.noteRef (s : State) (present good : Bool) : State :=
  let q := s.qualifies (present && good)
  s.modClk fun c => { c with
    present := c.present || present, qualified := c.qualified || q
    refSince := if present && good then c.refSince.or (some s.now) else none
    edges := if present && good then c.edges + 1 else 0
    edgeAt := if present then s.now else c.edgeAt
    badSince := if !present then c.badSince else if good then none else c.badSince.or (some s.now) }

/-- The error that a comparison has measured is kept, with the comparisons in a row within LOCK_TOL, and while the loop acquires, is locked
or slews the loop filter sets a new control word (R273). -/
def State.loopError (s : State) (ref : Nat) (err : Int) : State :=
  let s := s.modClk fun c => { c with
    err := err, lockRun := if err.natAbs ≤ s.lockTol then c.lockRun + 1 else 0, cmpAt := s.now }
  if s.clk.st = .acquire ∨ s.clk.st = .locked ∨ s.clk.st = .slewing then
    s.modClk fun c =>
      let w := tune (Config.loopFilter ref c.ctrl err)
      { c with ctrl := w, hist := (w :: c.hist).take 64, refActive := ref }
  else s

/-- Have the last comparisons in a row, the present one among them, been within LOCK_TOL for long enough to lock? -/
def State.locks (s : State) : Bool :=
  decide (s.lockCnt ≤ s.clk.lockRun) && decide (s.clk.err.natAbs ≤ s.lockTol)

/-- A comparison of a LOCKED loop: the second in a row beyond 4·LOCK_TOL is a loss of the lock. -/
def State.lockedStep (s : State) : State :=
  let bad := if s.clk.err.natAbs > 4 * s.lockTol then s.clk.badRun + 1 else 0
  let s := s.modClk fun c => { c with badRun := bad }
  if 2 ≤ bad then (s.coast true).clkEvent 0 else s

/-- A comparison of a COASTING loop with a qualified reference: within the window it slews, beyond it waits in JUMP_WAIT. -/
def State.requalify (s : State) (ref : Nat) : State :=
  let s := s.modClk fun c => { c with refActive := ref, lockRun := 0 }
  if s.clk.err.natAbs ≤ s.clkWindow then s.modClk fun c => c.beginSlew s.now
  else ((s.modClk fun c => { c with st := .jumpWait }).clkEvent 2).count .clkJumpCnt

/-- A comparison of a SLEWING loop: it locks, with the slewing offset taken over into the control word, or slews on. An offset that has
fallen back to zero before the error is within LOCK_TOL rises again to remove what is left (log 57). -/
def State.slewStep (s : State) (ref : Nat) : State :=
  let err := s.clk.err
  if s.locks then
    (s.modClk fun c => { (if 2 ≤ ref then c.align err else c) with
      st := .locked, lockRun := 0, badRun := 0, ctrl := tune (c.ctrl + s.slewNow / 1000000), slewErr := 0 }).clkEvent 3
  else if s.lockTol < err.natAbs ∧ s.clk.slewAt + 32 * s.slewTime ≤ s.now then
    s.modClk fun c => { c with slewErr := err, slewAt := s.now }
  else s

/-- A comparison with the reference (R272, R273, Table CLK-3). The loop acquires on the TCXO, whatever REF_SEL holds. After that it uses the
selected reference, but a LOCKED loop does not use one that has not qualified: it stays on the reference it has (log 57). -/
def State.compare (s : State) (errPs : Int) (present good : Bool) : State :=
  let present := present || s.refSel = 3
  let s := s.noteRef present good
  let qualified := s.clk.qualified
  if s.clk.st != .acquire && (!present || (s.clk.st = .locked && !qualified && s.clk.refActive != s.refSel)) then s
  else
    let ref := if s.clk.st = .acquire then 0 else s.refSel
    let s := s.loopError ref (s.phaseError ref errPs)
    match s.clk.st with
    | .acquire => if s.locks then s.firstLock else s
    | .locked => s.lockedStep
    | .coasting => if qualified then s.requalify ref else s
    | .slewing => s.slewStep ref
    | .jumpWait => if s.clk.stepWait = [] then s else s.clkStep

/-- The instant of the next comparison, as far as the state fixes it: 40 ns or 100 ns after the one before, with network time as reference
its next whole microsecond; 1PPS compares at its own edges (Table CLK-2). -/
def State.atComparison (s : State) : State :=
  match if s.clk.st = .acquire then 0 else s.refSel with
  | 0 => s.advanceTo (s.clk.cmpAt + 32 * cmpInterval 0)
  | 1 => s.advanceTo (s.clk.cmpAt + 32 * cmpInterval 1)
  | 2 => s
  | _ =>
    match s.ntReach ((s.nextMicro : Int) * 4294967296) with
    | some t => s.advanceTo t
    | none => s

/-- REFERENCE_COMPARISON: one comparison at its instant; `good` tells that the edge of the selected reference is within the limits of Table
CLK-2: 10 MHz within ±100 ppm, 1PPS 1 s ± 10 µs after the edge before it. -/
def execReferenceComparison (errorPs : Int) (present good : Bool) (s : State) : Host.Outcome State Fault Refusal :=
  .next ((if s.clk.st = .acquire || present || s.refSel = 3 then s.atComparison else s).compare errorPs present good)

/-- The instant at which the loss condition of the selected reference holds (Table CLK-2): now, where its edges have been off its frequency
for 1 ms; else 200 ns or 1 µs after the latest edge, for 1PPS 1 ms after the expected one. -/
def State.atLoss (s : State) : State :=
  let ns := match s.refSel with | 0 => 200 | 1 => 1000 | _ => 1001000000
  if s.refSel ≠ 2 && s.clk.badSince.any fun t => decide (t + 32000000 ≤ s.now) then s else s.advanceTo (s.clk.edgeAt + 32 * ns)

/-- A selected reference that is no reference any more, or one that has just been selected: it has to qualify. -/
def ClkState.unqualify (c : ClkState) (ref : Nat) : ClkState :=
  { c with present := false, qualified := alwaysQualified ref, refSince := none, edges := 0, badSince := none }

/-- The selected reference is lost (Table CLK-3). -/
def State.refLost (s : State) : State :=
  let s := s.modClk fun c => c.unqualify s.refSel
  match s.clk.st with
  | .locked => if s.clk.refActive ≠ s.refSel then s else ((s.coast true).clkEvent 1).clkEvent 0
  | .slewing | .jumpWait => s.coast false
  | _ => s

/-- The loss condition of the selected reference holds (Table CLK-2, Table CLK-3). Network time is never lost (R275), and the loss of the TCXO is
an internal fault as well (R274). -/
def execReferenceLost (s : State) : Host.Outcome State Fault Refusal :=
  if s.refSel = 3 then .next s
  else
    let s := s.atLoss.refLost
    .next (if s.refSel = 0 then s.halt 0x22 else s)

/-- ADPLL_LOCK_TIMEOUT: no lock on the TCXO within 2 ms after power-up. -/
def execAdpllLockTimeout (s : State) : Host.Outcome State Fault Refusal :=
  if s.clk.st = .acquire then .next (s.advanceTo s.acqEnd).acqLate else .next s

/-- Loss of the TCXO is an internal fault (R274), and the loss of the reference where REF_SEL names the TCXO. -/
def execTcxoLoss (s : State) : Host.Outcome State Fault Refusal :=
  .next ((if s.refSel = 0 then s.refLost else s).halt 0x22)

/-- CLK_REACQUIRE (Table CLK-6, Table CLK-4). -/
def State.reacquire (s : State) (c : Src) (p : Bytes) : State :=
  if 1 < pb p 0 then s.refuse c 0x0804 .checkFail 3
  else if s.clk.st ≠ .jumpWait then s.refuse c 0x0804 .error 2
  else if pb p 0 = 0 then
    let waiting := s.clk.stepWait
    let s := s.modClk fun k => { k.beginSlew s.now with stepWait := [] }
    waiting.foldl (fun s src => s.refuse src 0x0804 .error 2) (s.done c 0x0804)
  else if !s.tbsStopped then s.refuse c 0x0804 .error 1
  else s.modClk fun k => { k with stepWait := k.stepWait ++ [c] }

def execClkReacquire (c : Src) (p : Bytes) (s : State) : Host.Outcome State Fault Refusal :=
  .next (s.obey c 0x0804 p fun s => s.reacquire c p)

/-- What a commit that changed REF_SEL or outputs does (Table CLK-3, R269, R271): `ref` says that REF_SEL changed, `outs` which
outputs did. -/
def State.clkCommit (s : State) (ref : Bool) (outs : Nat) : State :=
  let s := if !ref then s
    else match s.clk.st with
      | .acquire | .coasting => s.modClk fun c => c.unqualify s.refSel
      | _ => ((s.coast (s.clk.st ≠ .jumpWait)).clkEvent 0).modClk fun c => c.unqualify s.refSel
  let s := if outs = 0 then s else s.modClk fun c => { c with strobe := c.strobe ||| BitVec.ofNat 8 outs, strobeAt := s.now }
  if outs.testBit 2 && s.linkMode then forNums ((List.range 16).filter s.configured) (fun k s => s.trainLink k) s else s

/-- Changed outputs restart together at the first rising edge of output 0 at or after the strobe (R270). -/
def execOutputRestart (s : State) : Host.Outcome State Fault Refusal :=
  if s.clk.strobe = 0 ∨ s.clk.st = .acquire then .next s
  else
    let at_ := ctlTick s.clk.strobeAt
    let s := s.advanceTo at_
    let changed := s.clk.strobe
    let on := BitVec.ofNat 8 s.enabledOutputs
    let s := s.modClk fun c => { c.restart changed at_ with running := (c.running &&& ~~~ changed) ||| (on &&& changed), strobe := 0 }
    .next (if changed.getLsbD 2 && s.clk.running.getLsbD 2 then s.restart2 at_ else s)

end Sys2Proof.Machine
end

