-- ==== Sys2Proof/Machine/Eth.lean ====
section
/-! DEFINITION. The Ethernet ports: reception and transmission with their timestamps, PRP and HSR, supervision frames (R284 to
R287, R294, R295). Frames are their bytes from the destination address on, without the FCS. -/

namespace Sys2Proof.Machine

/-! ### Frames -/

/-- MODE of ETH_CTRL: 0 = independent, 1 = PRP, 2 = HSR (Table NT-15). -/
def State.ethMode (s : State) : Nat := s.lv .ethCtrl 0 0 1 0

/-- The node's MAC address, first octet first. -/
def State.ownMac (s : State) : Bytes := beBytes 6 (s.lv .ethMacAddr 0 0 47 0)

/-- The two bytes of a frame at an offset, as an EtherType. -/
def etherType (f : Bytes) (o : Nat) : Nat := beNat ((f.drop o).take 2)

/-- The offset of a frame's EtherType behind its 802.1Q tags and its HSR tag. -/
def etherOfs (f : Bytes) : Nat → Nat → Nat
  | 0, o => o
  | n + 1, o =>
    if etherType f o = 0x8100 then etherOfs f n (o + 4)
    else if etherType f o = 0x892F then etherOfs f n (o + 6) else o

/-- The offset of the PTP header of an event message that Table NT-2 timestamps: EtherType 0x88F7, or UDP over IPv4 to port 319;
messageType 0 to 3. -/
def ptpEvent (f : Bytes) : Option Nat :=
  let o := etherOfs f 3 12
  let ip := o + 2
  let udp := ip + 4 * (pb f ip % 16)
  let at_ :=
    if etherType f o = 0x88F7 then some (o + 2)
    else if etherType f o = 0x0800 ∧ pb f (ip + 9) = 17 ∧ etherType f (udp + 2) = 319 then some (udp + 8) else none
  at_.filter fun h => decide (h + 34 ≤ f.length) && decide (pb f h % 16 < 4)

/-- Is a frame a PTP message, event or general: EtherType 0x88F7, or UDP over IPv4 to port 319 or 320? -/
def isPtp (f : Bytes) : Bool :=
  let o := etherOfs f 3 12
  let ip := o + 2
  let port := etherType f (ip + 4 * (pb f ip % 16) + 2)
  etherType f o = 0x88F7 || (etherType f o = 0x0800 && pb f (ip + 9) = 17 && (port = 319 || port = 320))

/-- The receive timestamp of port p: the NT value plus the ingress delay (R287). -/
def State.rxStamp (s : State) (p : Nat) : DWord := s.ntFine + BitVec.ofNat 64 (s.lv .ethTsOfs p 0 15 0)

/-- The transmit timestamp of port p: the NT value less the egress delay (R287). -/
def State.txStamp (s : State) (p : Nat) : DWord := s.ntFine - BitVec.ofNat 64 (s.lv .ethTsOfs p 0 31 16)

/-- A frame with the redundancy control trailer of PRP for LAN A (0xA) or B (0xB). PRESUMED from IEC 62439-3 (log 25). -/
def addRct (f : Bytes) (lan seq : Nat) : Bytes :=
  let size := f.length - (etherOfs f 3 12 + 2) + 6
  f ++ beBytes 2 seq ++ beBytes 2 (lan * 4096 + size % 4096) ++ [0x88, 0xFB]

/-- A frame with the HSR tag behind its addresses (log 25). -/
def addHsr (f : Bytes) (path seq : Nat) : Bytes :=
  f.take 12 ++ [0x89, 0x2F] ++ beBytes 2 (path * 4096 + (f.length - 12 + 4) % 4096) ++ beBytes 2 seq ++ f.drop 12

/-! ### Transmission -/

/-- A frame is given to a port; an urgent one goes ahead of every other (R303). -/
def State.giveFrame (s : State) (p : Nat) (f : TxFrame) (urgent : Bool) : State :=
  s.modPort p fun q => { q with txq := if urgent then f :: q.txq else q.txq ++ [f] }

/-- A frame of this node goes to both ports: with a trailer in PRP, with a tag in HSR, and as it stands with independent ports. -/
def State.giveBoth (s : State) (f : Bytes) (urgent : Bool) : State :=
  let seq := s.eth.redSeq.toNat
  let s1 := { s with eth := { s.eth with redSeq := s.eth.redSeq + 1 } }
  match s.ethMode with
  | 1 => (s1.giveFrame 0 { bytes := addRct f 0xA seq } urgent).giveFrame 1 { bytes := addRct f 0xB seq } urgent
  | 2 => (s1.giveFrame 0 { bytes := addHsr f 0 seq } urgent).giveFrame 1 { bytes := addHsr f 1 seq } urgent
  | _ => (s.giveFrame 0 { bytes := f } urgent).giveFrame 1 { bytes := f } urgent

/-- A transmit timestamp enters its 16-entry queue, or is dropped with OVERFLOW and counted (R295). -/
def State.queueTxTs (s : State) (p : Nat) (t : TxTs) : State :=
  if (s.port p).txts.length < 16 then s.modPort p fun q => { q with txts := q.txts ++ [t] }
  else (s.setFlag .ethTxtsFlag p 0).count .ethTxtsLost p

/-- What leaves on the wire, and the timestamp it queues: one-step Sync carries its own origin timestamp, and a Sync forwarded in
HSR its residence time and the peer delay of its ingress port (Table NT-2, log 26). -/
def State.onWire (s : State) (p : Nat) (f : TxFrame) : Bytes × Option TxTs :=
  match ptpEvent f.bytes with
  | none => (f.bytes, none)
  | some h =>
    let type := pb f.bytes h % 16
    let ts := s.txStamp p
    match f.ingress with
    | some (q, rx) =>
      if type = 0 then
        let add := ((ts - rx).toNat + (s.reg .ethPdelay q).toNat) * 65536
        (patch f.bytes (h + 8) (beBytes 8 ((beNat ((f.bytes.drop (h + 8)).take 8) + add) % 2 ^ 64)), none)
      else (f.bytes, none)
    | none =>
      let oneStep := type = 0 && !(pb f.bytes (h + 6)).testBit 1
      let id := type * 4096 + beNat ((f.bytes.drop (h + 30)).take 2) % 4096
      let flags := (if s.ethMode = 1 ∧ p = 1 then 1 else 0) + if oneStep then 2 else 0
      let stamp : TxTs := { nt := ts, id := BitVec.ofNat 16 id, domain := BitVec.ofNat 8 (pb f.bytes (h + 4))
                            flags := BitVec.ofNat 8 flags }
      let origin := beBytes 6 (ts.toNat / 1000000000) ++ beBytes 4 (ts.toNat % 1000000000)
      (if oneStep then patch f.bytes (h + 34) origin else f.bytes, some stamp)

/-- Send the frame at the head of a port's queue, which is filled from the transmit queue of the DMA channel when it is empty. With
independent ports the port of the command takes the frame (log 27). -/
def State.ethSend (s : State) (p : Nat) : State :=
  let s :=
    if (s.port p).txq ≠ [] then s
    else match s.eth.txq with
      | [] => s
      | f :: rest =>
        let s := { s with eth := { s.eth with txq := rest } }
        if s.ethMode = 0 then s.giveFrame p { bytes := f } false else s.giveBoth f false
  match (s.port p).txq with
  | [] => s
  | f :: rest =>
    let (wire, ts) := s.onWire p f
    let s := s.modPort p fun q => { q with txq := rest, sent := wire :: q.sent }
    match ts with
    | some t => s.queueTxTs p t
    | none => s

def execEthFrameTransmit (port : Fin 2) (s : State) : Host.Outcome State Fault Refusal :=
  if s.lvb .ethPortCfg port 0 0 && (s.port port).link then .next (s.ethSend port) else .next s

/-! ### Transmit timestamps (R294) -/

/-- The bytes of a transmit timestamp entry (Table NT-3). -/
def TxTs.bytes (t : TxTs) : Bytes := leBytes 8 t.nt.toNat ++ leBytes 2 t.id.toNat ++ [t.domain, t.flags, 0, 0, 0, 0]

/-- A read of ETH_TXTS_p_0 removes the head entry and captures it. -/
def State.txtsRead (s : State) (p : Nat) : State := s.modPort p fun q => { q with txts := q.txts.drop 1, captured := q.txts.head? }

/-- Word `w` of the captured entry. -/
def State.txtsWord (s : State) (p w : Nat) : DWord :=
  match (s.port p).captured with
  | some t => BitVec.ofNat 64 (pf t.bytes (4 * w) 4)
  | none => 0

def execEthTxtsRead (port : Fin 2) (s : State) : Host.Outcome State Fault Refusal :=
  let s := s.txtsRead port
  .next { s with bus := { s.bus with readData := s.txtsWord port 0 } }

/-! ### Reception -/

/-- Bytes in the receive queue for one frame (Table ACQ-8). -/
def rxEntry (f : Bytes) (ts : DWord) : Bytes :=
  leBytes 4 f.length ++ padTo ((f.length + 3) / 4 * 4) f ++ leBytes 8 ts.toNat

/-- A frame enters the receive queue; one that finds no room is dropped and counted (R23). No register shows the count (log 58). -/
def State.queueRx (s : State) (f : Bytes) (ts : DWord) : State :=
  let e := rxEntry f ts
  if s.eth.rxq.length + e.length ≤ 32768 then { s with eth := { s.eth with
      rxq := s.eth.rxq ++ e, rxSince := if s.eth.rxq = [] then s.now else s.eth.rxSince } }
  else { s with eth := { s.eth with rxLost := satInc s.eth.rxLost } }

/-- A frame with a source and direction and a sequence number is new: no entry of the last 400 ms has it. It then takes an entry
of the 1024 (Table NT-1). -/
def State.dupCheck (s : State) (key : Bytes) (seq : Nat) : Bool × State :=
  let live := s.eth.dups.filter fun x => s.now < x.2.2 + 12800000000
  if live.any fun x => x.1 = key && x.2.1 = seq then (false, { s with eth := { s.eth with dups := live } })
  else (true, { s with eth := { s.eth with dups := ((key, seq, s.now) :: live).take 1024 } })

/-- Is a frame a plant trigger message: untagged, to the address and EtherType of NT_PTM_DST (R304)? -/
def State.isPtm (s : State) (f : Bytes) : Bool :=
  f.take 6 = beBytes 6 (s.lv .ntPtmDst 0 0 47 0) && etherType f 12 = s.lv .ntPtmDst 0 0 63 48

/-- A frame without redundancy tags reaches the node: plant trigger messages and supervision frames do not go to software (R286);
group addresses and the own address are for this node. What counts supervision frames is the model's (log 58). -/
def State.ethDeliver (s : State) (f : Bytes) (ts : DWord) : State :=
  if etherType f (etherOfs f 3 12) = 0x88FB then { s with eth := { s.eth with supCount := s.eth.supCount + 1 } }
  else if s.isPtm f then s
  else if (pb f 0).testBit 0 || f.take 6 = s.ownMac then s.queueRx f ts else s

/-- A frame received in PRP: the trailer is removed and duplicates are discarded, but for PTP messages, of which software receives both
copies (Table NT-2); one with the other LAN's identifier counts. -/
def State.prpReceive (s : State) (p : Nat) (f : Bytes) (ts : DWord) : State :=
  let n := f.length
  let lan := pb f (n - 4) / 16
  if etherType f (n - 2) = 0x88FB ∧ (lan = 0xA ∨ lan = 0xB) then
    let s := if lan ≠ 0xA + p then s.count .ethLanErr p else s
    let (new, s) := if isPtp f then (true, s) else s.dupCheck ((f.drop 6).take 6) (etherType f (n - 6))
    if new then s.ethDeliver (f.take (n - 6)) ts else s.count .ethDupCnt
  else s.ethDeliver f ts

/-- A frame received in HSR: an own frame leaves the ring, another one that is not addressed to this node only is forwarded with its
tag, once for each direction, and what is for this node is delivered once without its tag. A duplicate discarded on the way counts
once, and a frame without a tag is one for this node as it stands. -/
def State.hsrReceive (s : State) (p : Nat) (f : Bytes) (ts : DWord) : State :=
  let src := (f.drop 6).take 6
  if src = s.ownMac then s
  else if etherType f 12 ≠ 0x892F then s.ethDeliver f ts
  else
    let seq := etherType f 16
    let mine := (pb f 0).testBit 0 || f.take 6 = s.ownMac
    let (onward, s) := if f.take 6 = s.ownMac then (true, s) else s.dupCheck (src ++ [BitVec.ofNat 8 (1 + p)]) seq
    let s := if onward && f.take 6 ≠ s.ownMac then s.giveFrame (1 - p) { bytes := f, ingress := some (p, ts) } false else s
    let (new, s) := if mine then s.dupCheck (src ++ [0]) seq else (true, s)
    let s := if onward && new then s else s.count .ethDupCnt
    if mine && new then s.ethDeliver (f.take 12 ++ f.drop 18) ts else s

/-- A frame is received on a port (R284 to R287): the MAC accepts 64 to 2000 bytes with the FCS and discards PAUSE frames. -/
def State.ethReceive (s : State) (p : Nat) (f : Bytes) (good : Bool) : State :=
  if !good then s.count .ethRxErr p
  else if f.length < 60 ∨ 1996 < f.length then s
  else
    let s := s.count .ethRxCnt p
    let ts := s.rxStamp p
    if etherType f 12 = 0x8808 then s
    else match s.ethMode with
      | 1 => s.prpReceive p f ts
      | 2 => s.hsrReceive p f ts
      | _ => s.ethDeliver f ts

def execEthFrameReceive (port : Fin 2) (frame : Bytes) (good : Bool) (s : State) : Host.Outcome State Fault Refusal :=
  if s.lvb .ethPortCfg port 0 0 then .next (s.ethReceive port frame good) else .next s

/-- ETH_TXDIS_p: high while ENABLE of its port is 0 (Table ELE-2), low otherwise (DEDUCED, log 58). -/
def State.ethTxDis (s : State) (p : Nat) : Bool := !s.lvb .ethPortCfg p 0 0

/-- The PCS of a port gains or loses synchronisation, auto-negotiation or link (Table NT-14), or an input from its SFP cage changes
(Table ELE-2). -/
def execEthLinkChange (port : Fin 2) (anDone sync : Bool) (link : PortLine) (s : State) : Host.Outcome State Fault Refusal :=
  .next (s.modPort port fun q => { q with anDone := anDone, sync := sync, link := link.link, los := link.los, modAbs := link.modAbs })

/-! ### Supervision frames -/

/-- The supervision frame of this node (log 25). -/
def State.supFrame (s : State) : Bytes :=
  padTo 60 ([0x01, 0x15, 0x4E, 0x00, 0x01, 0x00] ++ s.ownMac ++ [0x88, 0xFB, 0x00, 0x01] ++ beBytes 2 s.eth.supSeq.toNat
    ++ [if s.ethMode = 1 then 20 else 23, 6] ++ s.ownMac)

/-- Every 2000 ms in PRP or HSR the device sends a supervision frame (Table NT-1). -/
def execSupervisionFrameSend (s : State) : Host.Outcome State Fault Refusal :=
  if s.ethMode = 1 ∨ s.ethMode = 2 then
    let s := s.advanceTo (s.eth.supAt + 64000000000)
    let f := s.supFrame
    let s := { s with eth := { s.eth with supSeq := s.eth.supSeq + 1, supAt := s.now } }
    .next (s.giveBoth f false)
  else .next s

end Sys2Proof.Machine
end

