-- ==== Sys2Proof/Machine/NetTime.lean ====
section
/-! DEFINITION. Network time: increments, sets, spore slots and their records, PPS_OUT, and plant trigger messages (R288 to R307).
The execution of a batch stands in Spores. -/

namespace Sys2Proof.Machine

/-! ### The clock (R288 to R293) -/

/-- A write to NT_INCR: applied, or discarded and counted where it is further from the nominal value than INCR_LIM ppm (R289). -/
def State.ntIncr (s : State) (v : DWord) : State :=
  let n : Nat := v.toNat % 2 ^ 40
  let dist : Nat := Int.natAbs (Int.ofNat n - 0x400000000)
  if s.lv .ntCtrl 0 0 24 16 * 0x400000000 < dist * 1000000 then s.count .ntIncrRej
  else (s.setRegN .ntIncr 0 0 n).modNt fun c => { c with incrAt := s.now }

def execNtIncrWrite (v : DWord) (s : State) : Host.Outcome State Fault Refusal := .next (s.ntIncr v)

/-- VALID_SET and VALID_CLR of NT_CMD (R292). -/
def execNtValidSet (s : State) : Host.Outcome State Fault Refusal := .next (s.modNt fun c => { c with valid := true })
def execNtValidClr (s : State) : Host.Outcome State Fault Refusal := .next (s.modNt fun c => { c with valid := false })


/-- The clock set to such a number. -/
def NtState.setTotal (c : NtState) (v : Int) : NtState :=
  let f := (v % 4294967296).toNat
  let ns := (v / 4294967296 % 1000000000).toNat
  { c with sec := BitVec.ofInt 48 (v / 4294967296 / 1000000000), ns := ns, frac := BitVec.ofNat 32 f }

/-- NT_SET (R291): refused while a slot is pending; otherwise the three fields change in one cycle, the ADPLL's count with them
where network time is its reference (R275), and a record holds the old and the new value. -/
def State.ntSet (s : State) (c : Src) (p : Bytes) : State :=
  if c.applyAt ≠ 0 then s.refuse c 0x0703 .checkFail 8
  else if 1 < pb p 0 then s.refuse c 0x0703 .checkFail 2
  else if s.anySpore then s.refuse c 0x0703 .checkFail 1
  else
    let old := leBytes 8 s.nt64.toNat ++ leBytes 4 s.nt.frac.toNat
    let ns : Int := if pb p 0 = 0 then pf p 8 8 else signed 64 (pf p 8 8)
    let v := ns * 4294967296 + pf p 16 4
    let before := s.nt.total
    let s := s.modNt fun k => k.setTotal (if pb p 0 = 0 then v else k.total + v)
    let new := leBytes 8 s.nt64.toNat ++ leBytes 4 s.nt.frac.toNat
    let s := if s.refSel = 3 then s.modClk fun k => { k with nsOfs := k.nsOfs + (s.nt.total - before) } else s
    let s := s.setRegN .ntSetCnt 0 0 (min ((s.reg .ntSetCnt).toNat + 1) 0xFFFFFFFF)
    (s.note 4 3 0 (old ++ new)).done c 0x0703

def execNtSet (c : Src) (p : Bytes) (s : State) : Host.Outcome State Fault Refusal :=
  .next (s.obey c 0x0703 p fun s => s.ntSet c p)


/-- PPS_OUT rises at the next whole second (R293). -/
def execPpsOutPulse (s : State) : Host.Outcome State Fault Refusal :=
  if s.lvb .ntCtrl 0 0 0 then
    match s.ntReach ((s.nt.sec.toNat + 1) * 1000000000 * 4294967296) with
    | some t => .next ((s.advanceTo t).modNt fun c => { c with ppsOut := true, ppsAt := t })
    | none => .next s
  else .next s

/-- The level of PPS_OUT: high for PPS_WIDTH ms from the second on. -/
def State.ppsLevel (s : State) : Bool := s.nt.ppsOut && decide (s.now < s.nt.ppsAt + 32000000 * s.lv .ntCtrl 0 0 15 8)

/-! ### Spore slots (R296, R297) -/

/-- The checks of Table NT-4: the DETAIL of the first that fails. -/
def State.sporeCheck (s : State) (p : Bytes) : Option Nat :=
  match pb p 1 with
  | 1 => none
  | 2 => if pb p 16 = 0 then some 3 else if 7 < pb p 17 then some 4 else none
  | 3 => if pb p 16 = 0 then some 3 else none
  | 4 => if s.pair then none else some 5
  | 5 => if pb p 19 ≠ 0 then some 6 else none
  | 6 => if pb p 16 = 0 then some 3 else if 4096 < pf p 18 2 then some 7 else if 1 < pb p 17 then some 9 else none
  | _ => some 2

/-- NT_SPORE_LOAD (R296, R297, R307). An instant of 0 means as soon as possible (R8), so such a load is not late (log 56). -/
def State.sporeLoad (s : State) (c : Src) (p : Bytes) : State :=
  let slot := pb p 0
  if c.applyAt ≠ 0 then s.refuse c 0x0701 .checkFail 8
  else if s.slotPending slot then s.refuse c 0x0701 .error 1
  else match s.sporeCheck p with
    | some d => s.refuse c 0x0701 .checkFail d
    | none =>
      let at_ := BitVec.ofNat 64 (pf p 8 8)
      let late := at_ != 0 && decide (at_ ≤ s.nt64)
      let lateOk := (pb p 2).testBit 0
      let s := if late then s.count .ntSporeLateCnt else s
      if late && !lateOk then s.refuse c 0x0701 .late 0
      else
        let sp : Spore := {
          action := pb p 1, lateOk := lateOk, late := late, instant := at_, args := padTo 32 (p.drop 16), acceptAt := s.acceptedAt c
          wroteAt := s.now }
        (s.modNt fun n => { n with slots := vset n.slots slot (some sp) }).done c 0x0701

def execNtSporeLoad (c : Src) (p : Bytes) (s : State) : Host.Outcome State Fault Refusal :=
  .next (s.obey c 0x0701 p fun s => s.sporeLoad c p)

/-- The instant at which the present NT cycle began. -/
def State.ntCycleStart (s : State) : Nat := s.now - ctlTime s.oscOffset s.nt.phase

/-- Is a slot due: its instant has been reached, and it was written before the present NT cycle, whose comparison finds it (R297,
R298)? -/
def State.slotDue (s : State) (p : Spore) : Bool := decide (p.instant ≤ s.nt64) && decide (p.wroteAt < s.ntCycleStart)

/-- NT_SPORE_CANCEL (Table NT-10): a slot that has become due is not emptied any more (R298). -/
def State.sporeCancel (s : State) (c : Src) (p : Bytes) : State :=
  if c.applyAt ≠ 0 then s.refuse c 0x0702 .checkFail 8
  else
    let hit := (List.range 256).filter fun i => (pb p (i / 8)).testBit (i % 8)
      && (vget s.nt.slots i none).any fun p => !s.slotDue p
    (s.modNt fun n => { n with slots := hit.foldl (fun v i => vset v i none) n.slots }).done c 0x0702 hit.length

def execNtSporeCancel (c : Src) (p : Bytes) (s : State) : Host.Outcome State Fault Refusal :=
  .next (s.obey c 0x0702 p fun s => s.sporeCancel c p)

/-- The slots that are due at the present NT value. -/
def State.dueSlots (s : State) : List Nat :=
  (List.range 256).filter fun i => match vget s.nt.slots i none with
    | some p => s.slotDue p
    | none => false

/-- The NT cycle in which a slot becomes due: one written at or after its own instant becomes due in the next cycle (R297). -/
def State.slotCycle (s : State) (p : Spore) : Option Nat :=
  if s.slotDue p then some s.now
  else if p.instant ≤ s.nt64 then some (s.now + ctlTime s.oscOffset (ntCycle - s.nt.phase))
  else s.ntReach ((p.instant.toNat : Int) * 4294967296)

/-- The earliest NT cycle in which a slot becomes due. -/
def State.sporeCycle (s : State) : Option Nat :=
  s.nt.slots.toList.foldl (fun m p =>
    match m, p.bind s.slotCycle with
    | some x, some y => some (min x y)
    | m, y => m.or y) none

/-- In the NT cycle that finds slots due they are latched as one batch (R298). -/
def State.latchBatch (s : State) : State :=
  let due := s.dueSlots
  if due = [] then s
  else
    let same := 1 < due.length
    let batch := due.filterMap fun i => (vget s.nt.slots i none).map fun p => ({ slot := i, spore := p, same := same } : DueSlot)
    s.modNt fun n => { n with slots := due.foldl (fun v i => vset v i none) n.slots, batches := n.batches ++ [batch] }

def execSporeDue (s : State) : Host.Outcome State Fault Refusal :=
  match s.sporeCycle with
  | some t => .next ((s.advanceTo t).latchBatch)
  | none => .next s

/-- A read of NT_SPORE_REC_0 removes the head record and captures it (R301). -/
def State.sporeRecRead (s : State) : State := s.modNt fun n => { n with recs := n.recs.drop 1, captured := n.recs.head? }

/-- Word `w` of the captured spore record. -/
def State.sporeRecWord (s : State) (w : Nat) : DWord :=
  match s.nt.captured with
  | some r => BitVec.ofNat 64 (pf r.bytes (4 * w) 4)
  | none => 0

def execNtSporeRecRead (s : State) : Host.Outcome State Fault Refusal :=
  let s := s.sporeRecRead
  .next { s with bus := { s.bus with readData := s.sporeRecWord 0 } }

/-! ### Plant trigger messages (R303 to R306) -/

/-- Is a plant key current (R351)? -/
def State.plantCurrent (s : State) (k : PlantKey) : Bool := decide (k.from_ ≤ s.nt64) && decide (s.nt64 ≤ k.expiry)

/-- The key for transmission: the current key of NT_PTM_KEY with the highest epoch (R351). -/
def State.ptmTxKey (s : State) : Option PlantKey :=
  let mine := s.sec.plant.toList.filterMap fun k => k.filter fun k => k.keyId.toNat = s.lv .ntPtmKey 0 0 15 0 && s.plantCurrent k
  mine.foldl (fun b k => match b with | none => some k | some x => some (if x.epoch < k.epoch then k else x)) none

/-- The tag of a message (R305). -/
def ptmTag (key msg : Bytes) : Bytes := Config.kmac256 key (padTo 40 msg) 16 "NDZ PTM"

/-- Publish the event that waits first. Without a current key nothing is published, and the event counts (R351). -/
def State.ptmPublish (s : State) (e : PtmEvent) (rest : List PtmEvent) : State :=
  let s := s.modNt fun n => { n with events := rest }
  match s.ptmTxKey with
  | none => s.count .ntPtmSupprCnt
  | some k =>
    let count := s.nt.msgCount + 1
    let id := (regGet s.live .ntPtmId).toNat
    let msg : Bytes := [1, BitVec.ofNat 8 e.cause] ++ leBytes 2 (id / 65536) ++ leBytes 2 id ++ leBytes 2 k.keyId.toNat
      ++ leBytes 4 count.toNat ++ leBytes 4 s.sec.resetCnt.toNat ++ leBytes 8 e.trigNt.toNat ++ leBytes 8 s.nt64.toNat
      ++ leBytes 4 k.epoch.toNat ++ leBytes 4 e.detail.toNat
    let frame := beBytes 6 (s.lv .ntPtmDst 0 0 47 0) ++ s.ownMac ++ beBytes 2 (s.lv .ntPtmDst 0 0 63 48) ++ msg
      ++ padTo 16 (ptmTag k.key msg)
    let s := s.giveBoth frame true
    let s := s.modNt fun n => { n with
      msgCount := count, holdoff := some (s.now + 32000000 * s.lv .ntPtmCtrl 0 0 31 24) }
    s.count .ntPtmTxCnt

def execPtmPublish (s : State) : Host.Outcome State Fault Refusal :=
  match s.nt.events with
  | [] => .next s
  | e :: rest => .next (s.ptmPublish e rest)

/-- HOLDOFF ms after a publication, events are published again. -/
def execPtmHoldoffEnd (s : State) : Host.Outcome State Fault Refusal :=
  match s.nt.holdoff with
  | some t => .next ((s.advanceTo t).modNt fun n => { n with holdoff := none })
  | none => .next s

/-- The checks of R306 on a received message, in their order. -/
def State.ptmAccepts (s : State) (p : Bytes) : Bool :=
  let id := (regGet s.live .ntPtmId).toNat
  let unit := pf p 4 2
  let win := 1000 * s.lv .ntPtmWin 0 0 15 0
  let key := s.sec.plant.toList.findSome? fun k => k.filter fun k =>
    k.keyId.toNat = pf p 6 2 && k.epoch.toNat = pf p 32 4 && s.plantCurrent k
  let known := s.nt.senders.find? fun x => x.unit.toNat = unit
  pf p 2 2 = id / 65536 && unit != id % 65536
    && (match key with | some k => (p.drop 40).take 16 = ptmTag k.key (p.take 40) | none => false)
    && (match known with
      | some x => decide (x.seq.toNat < pf p 8 8) || decide (x.sendNt.toNat + win < pf p 24 8)
      | none => decide (s.nt.senders.length < 64))
    && decide (((pf p 24 8 : Int) - s.nt64.toNat).natAbs ≤ win)

/-- A received plant trigger message is rejected and counted, or triggers the units of RX_ACQ with its TRIG_NT (R306). -/
def State.ptmReceive (s : State) (p : Bytes) : State :=
  if !s.lvb .ntPtmCtrl 0 0 1 then s
  else if p.length < 56 || !s.ptmAccepts p then s.count .ntPtmRxRejCnt
  else
    let unit := BitVec.ofNat 16 (pf p 4 2)
    let e : PtmSender := { unit := unit, seq := BitVec.ofNat 64 (pf p 8 8), sendNt := BitVec.ofNat 64 (pf p 24 8), at_ := s.now }
    let s := s.modNt fun n => { n with senders := e :: n.senders.filter fun x => x.unit != unit }
    (s.count .ntPtmRxCnt).acqTrigMask (s.lv .ntPtmCtrl 0 0 23 16) 10 (BitVec.ofNat 64 (pf p 16 8)) unit.toNat

def execPtmReceive (payload : Bytes) (s : State) : Host.Outcome State Fault Refusal := .next (s.ptmReceive payload)

/-- A sender from which no message has been accepted for 24 h is freed (R306). -/
def execPtmSenderExpiry (unitId : BitVec 16) (s : State) : Host.Outcome State Fault Refusal :=
  match s.nt.senders.find? fun x => x.unit = unitId with
  | some x =>
    .next ((s.advanceTo (x.at_ + 2764800000000000)).modNt fun n => { n with senders := n.senders.filter fun x => x.unit != unitId })
  | none => .next s

end Sys2Proof.Machine
end

