-- ==== Sys2Proof/Machine/Staging.lean ====
section
/-! DEFINITION. The stage: its token, writes, checks and commits, what becomes of every block at the commit instant, and the stored
configuration blocks (R361 to R376, R76, R107, R110, R146, R149, R194, R269). -/

namespace Sys2Proof.Machine

/-! ### Writing the stage (R361 to R364, R110) -/

/-- The master a command comes from. -/
def masterOf (c : Src) : Master := if c.ring.val = 128 then .mgmt else .host

/-- The stage made equal to the live configuration (R361). -/
def State.stageReset (s : State) : State :=
  s.modStg fun g => { g with st := .clean, stage := s.live, images := Vector.ofFn fun (e : Fin 8) => (s.engN e).image }

/-- The committed settings that the management controller and a strapped module's Thallus hold (R429, R459). -/
def State.mgmtLive (s : State) : RegFile :=
  if !s.mgt.vmgt then []
  else
    let f := regSet [] .mgtCfg 0 0 (regGet s.live .mgtCfg)
    if s.arb.strapped then regSet f .twnArbCfg 0 0 (regGet s.live .twnArbCfg) else f

/-- The bits of a safety register that a staged write sets (Tables SAF-8 and SAF-9). -/
def safMask : Reg → Nat
  | .safTestCfg => 0xFF01FF
  | .safInCfg => 0xFFFF0B
  | .safPsetId => 0xFFFFFFFF
  | _ => 0

/-- PARAMS of the image staged for an engine. -/
def paramCount (imgs : Vector (Option Image) 8) (e : Nat) : Nat :=
  match vget imgs e none with
  | some img => img.params.length
  | none => 0

/-- What an offset names in the stage: register, instance numbers and whether it is the upper word of a 64-bit register. None where it
is neither an RWS register nor one of the safety registers, or a parameter at or above PARAMS. -/
def stageTarget (imgs : Vector (Option Image) 8) (off : Nat) : Option (Reg × Nat × Nat × Bool) :=
  match findReg off with
  | none => none
  | some (r, i, j) =>
    let d := off - regAddr r i j
    if (r.row.acc = .rws ∨ safMask r ≠ 0) ∧ (d = 0 ∨ (d = 4 ∧ r.row.size = 8)) ∧ (r ≠ .frdParam ∨ j < paramCount imgs i) then
      some (r, i, j, d = 4)
    else none

/-- The bank that FRD_BANK_WIN_e shows. -/
def State.bankWin (s : State) (e : Nat) : Nat := bitsOf (s.reg .frdBankWin e) 0 0

/-- A 64-bit value with one of its words replaced. -/
def putWord (old : DWord) (upper : Bool) (v : Nat) : Nat :=
  if upper then old.toNat % 2 ^ 32 + v % 2 ^ 32 * 2 ^ 32 else old.toNat / 2 ^ 32 * 2 ^ 32 + v % 2 ^ 32

/-- Put a whole value into a staged register; reserved bits stay 0 (R14). `win` gives the bank of a parameter. -/
def stagePut (win : Nat → Nat) (f : RegFile) (r : Reg) (i j v : Nat) : RegFile :=
  if r = .frdParam then paramSet f i (win i) j (BitVec.ofNat 64 (v % 2 ^ 32))
  else regSet f r i j (BitVec.ofNat 64 (v &&& (r.row.mask ||| safMask r)))

/-- Put one 32-bit entry into the stage. -/
def stageEntry (win : Nat → Nat) (f : RegFile) (x : Reg × Nat × Nat × Bool) (v : Nat) : RegFile :=
  let (r, i, j, upper) := x
  if r.row.size = 8 then stagePut win f r i j (putWord (regGet f r i j) upper v) else stagePut win f r i j v

/-- The entries of an STG_WRITE, or of a configuration block, in order: the stage after them, or the index of the first that is
refused. -/
def stageEntries (win : Nat → Nat) (imgs : Vector (Option Image) 8) : Nat → Nat → Bytes → RegFile → Except Nat RegFile
  | 0, _, _, f => .ok f
  | n + 1, k, bs, f =>
    match stageTarget imgs (pf bs 0 4 % 2 ^ 22) with
    | none => .error k
    | some x => stageEntries win imgs n (k + 1) (bs.drop 8) (stageEntry win f x (pf bs 4 4))

/-- An image in the stage of an engine: its parameters of both banks take the image's defaults, those of a template's stack shares for
the number of stacks that the stage holds then (R110, log 61). -/
def stageImage (f : RegFile) (e : Nat) (img : Image) : RegFile :=
  let n := fld f .stgDeviceCfg 0 0 23 16
  let f := f.filter fun x => !(decide (paramAddr e 0 0 ≤ x.1) && decide (x.1 < paramAddr (e + 1) 0 0))
  (List.range img.params.length).foldl (fun f i =>
    let v := (imageDefault img n i).setWidth 64
    paramSet (paramSet f e 0 i v) e 1 i v) f

/-- Accepted writes to the stage (R363). -/
def State.stageWrote (s : State) (n : Nat) (f : RegFile) (imgs : Vector (Option Image) 8) : State :=
  s.modStg fun g => { g with stage := f, images := imgs, st := .dirty, gen := g.gen + BitVec.ofNat 32 n }

/-! ### The token (R365) -/

def State.holds (s : State) (m : Master) : Bool := s.stg.token == some m

/-- STG_STATUS (Table STG-11). -/
def State.stgStatusWord (s : State) : Nat :=
  let st := if s.stagePending then 4 else match s.stg.st with | .clean => 0 | .dirty => 1 | .checked => 2 | .failed => 3
  let tok := match s.stg.token with | none => 0 | some .host => 1 | some .mgmt => 2
  let b := fun (x : Bool) n => if x then 2 ^ n else 0
  st + tok * 2 ^ 16 + b s.stg.copy0Ok 20 + b s.stg.copy1Ok 21 + b s.stg.repaired 22 + b s.stg.defaulted 23

/-- The token falls free; the stage is reset unless a commit is pending. -/
def State.freeToken (s : State) : State :=
  let s := s.modStg fun g => { g with token := none, leaseEnd := 0 }
  if s.stagePending then s else s.stageReset

/-- STG_TOKEN (Table STG-2, Table STG-8). -/
def State.stgToken (s : State) (c : Src) (p : Bytes) : State :=
  let m := masterOf c
  let lease := pf p 4 4
  if 1 < pb p 0 then s.refuse c 0x0201 .checkFail 1
  else if lease = 0 ∨ 3600000 < lease then s.refuse c 0x0201 .checkFail 2
  else if pb p 0 = 0 then
    if s.holds m then s.freeToken.done c 0x0201 else s.refuse c 0x0201 .error 1
  else if s.stg.token = none ∨ s.holds m then
    (s.modStg fun g => { g with token := some m, leaseEnd := s.now + 32000000 * lease }).done c 0x0201
  else s.refuse c 0x0201 .stageBusy 0

def execStgToken (c : Src) (p : Bytes) (s : State) : Host.Outcome State Fault Refusal :=
  .next (s.obey c 0x0201 p fun s => s.stgToken c p)

/-- The lease runs out without renewal. -/
def execTokenLeaseExpiry (s : State) : Host.Outcome State Fault Refusal :=
  if s.stg.token.isSome then
    let s := (s.advanceTo s.stg.leaseEnd).freeToken
    .next (s.note 0x13 3 0 (leBytes 8 s.stgStatusWord))
  else .next s

/-! ### STG_WRITE and FRD_GRAPH_LOAD -/

/-- STG_WRITE (Table STG-8, R488). -/
def State.stgWrite (s : State) (c : Src) (p : Bytes) : State :=
  let n := pf p 0 2
  if !s.holds (masterOf c) then s.refuse c 0x0202 .stageBusy 0
  else if s.stagePending then s.refuse c 0x0202 .error 3
  else if n = 0 ∨ 511 < n ∨ p.length ≠ 8 + 8 * n then s.refuse c 0x0202 .checkFail 0x80000003
  else match stageEntries s.bankWin s.stg.images n 0 (p.drop 8) s.stg.stage with
    | .error k => s.refuse c 0x0202 .checkFail k
    | .ok f => (s.stageWrote n f s.stg.images).done c 0x0202

def execStgWrite (c : Src) (p : Bytes) (s : State) : Host.Outcome State Fault Refusal :=
  .next (s.obey c 0x0202 p fun s => s.stgWrite c p)

/-- FRD_GRAPH_LOAD (R75, R108, R110, R362, R364); no image where the read of it failed. -/
def State.graphLoad (s : State) (c : Src) (p : Bytes) (image : Option Bytes) : State :=
  if pb p 0 = 0 then s.refuse c 0x0910 .checkFail 0x10
  else if !s.holds (masterOf c) then s.refuse c 0x0910 .stageBusy 0
  else if s.stagePending then s.refuse c 0x0910 .error 3
  else match image with
    | none => s.refuse c 0x0910 .error 0x80000010
    | some bs =>
      match s.imageCheck bs (pf p 16 4) with
      | .error (st, d) => s.refuse c 0x0910 st d
      | .ok img =>
        let es := bitsIn 8 (pb p 0)
        let f := es.foldl (fun f e => stageImage f e img) s.stg.stage
        (s.stageWrote es.length f (es.foldl (fun v e => vset v e (some img)) s.stg.images)).done c 0x0910

def execFrdGraphLoad (c : Src) (p : Bytes) (image : Option Bytes) (s : State) : Host.Outcome State Fault Refusal :=
  .next (s.obey c 0x0910 p fun s => (s.mirrorRead c 0x0910 p image).graphLoad c p image)

/-! ### Check (R366, R367) -/

/-- The failure list of a check: STG_FAIL_CNT, STG_FAIL_i and the entries at a host address. -/
def State.reportFails (s : State) (own : Bool) (fails : List FailEntry) (addr cap : Nat) : State :=
  let s := s.modStg fun g => { g with fails := fails }
  if addr = 0 ∨ !own then s else s.hostWrite addr ((fails.take cap).flatMap FailEntry.bytes)

/-- Does a command's failure list go to this module's host? A standby that applies a mirrored command writes none. -/
def State.reportsHere (s : State) (c : Src) : Bool := !(s.pair && !s.twn.role && !s.ownCommand c)

/-- STG_CHECK: DETAIL is the failure count. On the management port up to 16 entries follow the completion entry (R456). -/
def State.stgCheck (s : State) (c : Src) (p : Bytes) : State :=
  if !s.holds (masterOf c) then s.refuse c 0x0203 .stageBusy 0
  else
    let fails := s.checkAll s.stg.stage s.stg.images
    let s := s.reportFails (s.reportsHere c) fails (pf p 8 8) (pf p 16 2)
    let s := s.modStg fun g => { g with st := if g.st = .clean ∨ g.pendings ≠ [] then g.st else if fails = [] then .checked else .failed }
    let s := if c.ring.val = 128 then s.modMgt fun m => { m with tail := (fails.take 16).flatMap FailEntry.bytes } else s
    if fails = [] then s.done c 0x0203 else s.refuse c 0x0203 .checkFail fails.length

def execStgCheck (c : Src) (p : Bytes) (s : State) : Host.Outcome State Fault Refusal :=
  .next (s.obey c 0x0203 p fun s => s.stgCheck c p)

/-! ### The commit instant (R369) -/

/-- Decimation at a commit: groups that are enabled owe a synchronising reset, groups that are disabled stop, and a running channel
whose source or RANGE changed is cleared (R146, R149, R151). `old` is the configuration before. -/
def State.commitDec (s : State) (old : RegFile) : State :=
  let was := fun g => bitOf (regGet old .decGrpEn) g
  let s := forNums (List.range 20) (fun g s =>
    if s.groupOn g && !was g then
      let s := { s with meas := { s.meas with groups := vset s.meas.groups g { dumping := false, count := 0, resetPend := true } } }
      forNums ((List.range 8).map (8 * g + ·)) (fun c s => if s.srcKind c = 2 then s else s.modDec c fun d => { d with srcDown := false }) s
    else if was g && !s.groupOn g then
      let s := { s with meas := { s.meas with groups := vset s.meas.groups g {} } }
      forNums ((List.range 8).map (8 * g + ·)) (fun c s => s.modDec c fun d => { d with
        stuck := false, runLen := 0, cmpActive := false, cmpMasked := true }) s
    else s) s
  let s := forNums ((List.range 160).filter fun c => was (c / 8) && s.groupOn (c / 8)) (fun c s =>
    if (regGet old .decSrc c ^^^ regGet s.live .decSrc c) &&& 0x0F7F ≠ 0 then
      let none_ := s.srcKind c = 0
      s.modDec c fun d => { (d.clearFast) with
        clearPend := true, srcDown := false, stuck := d.stuck && !none_, runLen := if none_ then 0 else d.runLen }
    else s) s
  if regGet old .decTs ≠ regGet s.live .decTs ∨ fld old .decCtrl 0 0 11 8 ≠ s.refTb then s.dumpAlign else s

/-- Engines at a commit in ARMED or RUNNING: one that can no longer run stops, one that now can starts with its next boundary
(R66, R68). -/
def State.commitEngines (s : State) : State :=
  forNums (List.range 8) (fun e s =>
    if !s.cHot || s.mgt.resetReq.isSome || (s.engN e).executing == s.canRun e then s
    else if s.canRun e then
      let run := s.ops.st = .running
      (s.engineReset e).modEng e fun n => { n with executing := true, armReset := true, firstRun := run }
    else (s.dropSporeWork e).modEng e Engine.stop) s

/-- Stacks that the commit configured, or whose gate path it changed: their links train (R211), and a standing fault line trips
(R224). One that it unconfigures, or whose gate path it changes, ends its test and its training on the old path; the result of an earlier
test stands (R209, log 60). -/
def State.commitStacks (s : State) (old : RegFile) : State :=
  let oldN := fld old .stgDeviceCfg 0 0 23 16
  let moved := fld old .stgDeviceCfg 0 0 1 0 ≠ s.lv .stgDeviceCfg 0 0 1 0
  forNums (List.range 16) (fun k s =>
    let new := s.configured k && (moved || decide (oldN ≤ k))
    let s := if decide (k < oldN) && (moved || !s.configured k) then
        (((s.ostAbort k).modGs k fun g => { g with link := .down, dsr := .off }).trainTaken k).trainComplete
      else s
    if new && s.linkMode then s.trainLink k
    else if new then (s.ringNext k false).fltStanding k
    else s) s

/-- The clock outputs that a commit changed. -/
def changedOutputs (old new : RegFile) : Nat := maskOf 8 fun k => regGet old .clkOut k ≠ regGet new .clkOut k

/-- The Rhizome link of a pair trains from the power-up that makes it one (R430); a single configuration has none. -/
def State.rhizomeCommit (s : State) : State :=
  s.modTwn fun t => { t with link := if !s.pair then .down else if t.link = .down then .training else t.link }

/-- The whole stage becomes live at the present instant, C, whose NT value is given. -/
def State.applyStage (s : State) (nt : DWord) : State :=
  let old := s.live
  let s := { s with live := s.stg.stage }
  let s := forNums (List.range 8) (fun e s => s.modEng e fun n => { n with image := vget s.stg.images e none }) s
  let s := s.commitDec old
  let s := forNums (List.range 16) (fun t s => s.tbCommit t) s
  let s := s.clkCommit (fld old .clkRef 0 0 1 0 ≠ s.lv .clkRef 0 0 1 0) (changedOutputs old s.live)
  let s := ((s.commitEngines).commitStacks old).tripsStanding
  let s := if safSet.any (fun r => regGet old r.1 r.2 ≠ regGet s.live r.1 r.2) ∨ (s.saf.chA.pset = [] ∧ !s.cHot) then s.safTakeSet else s
  let s := s.modSec fun c => { c with tamperCfg := (regGet s.live .secTamperCfg).setWidth 32 }
  let s := (s.countWrap .stgCommitCnt).rhizomeCommit
  s.modStg fun g => { g with st := .clean, lastNt := nt, committed := true }

/-! ### Commit (R368, R370, Table STG-4) -/

/-- A commit changes a coefficient of either bank of an engine inside its fade (R107). DESIGN CHOICE: a commit that gives an engine
without an image its first one, or takes its image away, changes its coefficients (log 18). -/
def State.fadeTouched (s : State) : Bool :=
  let v := s.asIf s.stg.stage s.stg.images
  (List.range 8).any fun e =>
    match (s.engN e).fade, (s.engN e).image, vget s.stg.images e none with
    | some f, some img, some img' =>
      decide (f.n < f.len) && (v.bank e img' false != s.bank e img false || v.bank e img' true != s.bank e img true)
    | some _, none, none => false
    | some f, _, _ => decide (f.n < f.len)
    | none, _, _ => false

/-- A commit enables a channel whose off sequence has not finished (R194). -/
def State.reenables (s : State) : Bool :=
  (List.range 192).any fun n => (s.chan n).offSeq.isSome && !s.lvb .pwmChEn (n / 12) 0 (n % 12)
    && bitOf (regGet s.stg.stage .pwmChEn (n / 12)) (n % 12)

/-- Why a commit fails at C, if it does: its status, and its failure entries. -/
def State.commitFails (s : State) : Option (Status × List FailEntry) :=
  let fails := s.checkS s.stg.stage s.stg.images
  if fails ≠ [] then some (.checkFail, fails)
  else if s.fadeTouched then some (.xfadeBusy, [])
  else if s.reenables then some (.busyStopping, [])
  else none

/-- The stage at C: it becomes live, or the commit fails whole. Gives the status and the DETAIL; a stage that is CLEAN changes
nothing. -/
def State.tryApply (s : State) (nt : DWord) (own : Bool) (addr cap : Nat) : State × Status × Nat :=
  if s.stg.st = .clean then (s, .ok, 1)
  else match s.commitFails with
    | none => (s.applyStage nt, .ok, 0)
    | some (st, fails) =>
      let s := if fails = [] then s else s.reportFails own fails addr cap
      let s := s.modStg fun g => { g with st := .failed }
      (if st = .busyStopping then s.busyStop else s, st, fails.length)

/-- An item that tells the standby what a scheduled action hands to the engines, with EXEC_NT (R299). -/
def sporeItemBytes (d : DueSlot) (nt : DWord) : Bytes :=
  [BitVec.ofNat 8 d.slot, BitVec.ofNat 8 d.spore.action,
   BitVec.ofNat 8 ((if d.spore.late then 1 else 0) + if d.same then 2 else 0), 0] ++ padTo 32 d.spore.args ++ leBytes 8 nt.toNat

/-- The source of the items of scheduled actions. -/
def sporeSrc (d : DueSlot) : Src := { ring := 128, seq := BitVec.ofNat 64 d.slot, applyAt := 0, keyId := 0, irq := false }

/-- In a pair, control graphs see what a COMMIT spore has made live from the index that the ACTIVE module records and mirrors (R28,
R299); the standby waits for that index. -/
def State.sporeSee (s : State) (d : DueSlot) : State :=
  if s.leads then
    let p := sporeItemBytes d s.ntFine
    let take := s.firstTake (sporeSrc d) (s.itemEngines sporeItem p)
    (s.modTwn fun t => { t with seeFrom := some take }).mirror (sporeSrc d) sporeItem p take
  else if s.pair then s.modTwn fun t => { t with seeFrom := t.seeFrom.or (some (BitVec.allOnes 64)) }
  else s

/-- The COMMIT of a slot at its tick: a stage that is DIRTY or FAILED is checked first (Table STG-4). Gives the outcome. -/
def State.sporeApply (s : State) (d : DueSlot) : State × Status × Nat :=
  let unchecked := s.stg.st = .dirty ∨ s.stg.st = .failed
  let fails := if unchecked then s.checkAll s.stg.stage s.stg.images else []
  let s := if unchecked then s.reportFails false fails 0 0 else s
  if fails ≠ [] then (s.modStg fun g => { g with st := .failed }, .checkFail, fails.length)
  else
    let (s, st, n) := s.tryApply s.ntFine false 0 0
    (if st = .ok && n = 0 then s.sporeSee d else s, st, n)

/-- A pending commit applies or fails. -/
def State.commitOnly (s : State) (p : PendCommit) (nt : DWord) : State :=
  let s := s.modStg fun g => { g with pendings := g.pendings.filter fun x => !sameSrc x.src p.src }
  let (s, st, d) := s.tryApply nt (s.reportsHere p.src) p.addr.toNat p.cap
  s.complete p.src 0x0204 st d (if st = .ok then nt else 0)

/-- Is a pending commit due at a boundary of an engine: its own reference engine that executes, or, where that one does not execute and
the index of TAKE_IDX says when, REF_ENG (R368, R432)? -/
def State.commitDue (s : State) (e : Nat) (p : PendCommit) : Bool :=
  let here := if s.executes p.engine then p.engine.val == e else s.pair && e == s.refEng && p.takeIdx.isSome
  here && match p.takeIdx with
    | some i => s.takeDue i
    | none => decide (p.acceptAt / 32 < s.now / 32) && (p.applyAt = 0 || decide (p.applyAt ≤ (s.engN e).ntB))

/-- STG_COMMIT (R368, Table STG-4, Table STG-8). The settings of a module strapped as arbiter go to the controller's flash at once, because
its main side has neither rules to check nor a boundary or tick (R429, Table MGT-3, log 52). -/
def State.stgCommit (s : State) (c : Src) (p : Bytes) (take : Option DWord) : State :=
  if !s.holds (masterOf c) then s.refuse c 0x0204 .stageBusy 0
  else if s.stg.pendings ≠ [] then s.refuse c 0x0204 .error 1
  else if 7 < pb p 0 then s.refuse c 0x0204 .checkFail 4
  else if s.stg.st = .clean then s.done c 0x0204 1
  else if s.arb.strapped then
    ({ s with live := s.stg.stage }.modStg fun g => { g with st := .clean }).done c 0x0204
  else
    let fails := s.checkAll s.stg.stage s.stg.images
    let s := s.reportFails (s.reportsHere c) fails (pf p 8 8) (pf p 16 2)
    if fails ≠ [] then (s.modStg fun g => { g with st := .failed }).refuse c 0x0204 .checkFail fails.length
    else
      let s := s.mirror c 0x0204 p (take.getD 0)
      s.modStg fun g => { g with st := .checked, pendings := g.pendings ++ [{
        src := c, addr := BitVec.ofNat 64 (pf p 8 8), cap := pf p 16 2, engine := Fin.ofNat 8 (pb p 0), applyAt := c.applyAt
        acceptAt := s.acceptedAt c, takeIdx := take }] }

def execStgCommit (c : Src) (p : Bytes) (s : State) : Host.Outcome State Fault Refusal :=
  .next (s.obey c 0x0204 p fun s => s.stgCommit c p (s.controlTake c 0x0204 p))

/-- The first CTL tick after the later of an acceptance and APPLY_AT (R368). -/
def State.tickAfter (s : State) (acceptAt : Nat) (applyAt : DWord) : Option Nat :=
  let next := fun t => (t / 32 + 1) * 32
  if s.ntPassed applyAt then some (next acceptAt)
  else match s.ntReach ((applyAt.toNat : Int) * 4294967296) with
    | some t => some (next (max acceptAt t))
    | none => none

/-- A pending commit whose reference engine does not execute, with its instant C. -/
def State.idleCommit (s : State) : Option (PendCommit × Nat) :=
  match s.stg.pendings.find? fun p =>
      !s.executes p.engine && (p.takeIdx.isNone || (s.tb (s.leadTb s.refEng)).run ≠ .running) with
  | some p => (s.tickAfter p.acceptAt p.applyAt).map fun t => (p, t)
  | none => none

/-! ### Stored configuration blocks (R373, R374) -/

/-- The sections of a block, applied in order to a stage (R375). -/
def State.blockSections (s : State) : Nat → Bytes → RegFile → Vector (Option Image) 8 → Option (RegFile × Vector (Option Image) 8)
  | 0, rest, f, imgs => if rest = [] then some (f, imgs) else none
  | n + 1, bs, f, imgs =>
    let len := pf bs 1 3
    let content := (bs.drop 4).take len
    if bs.length < 4 + len then none
    else match pb bs 0 with
      | 1 =>
        if len % 8 ≠ 0 then none
        else match stageEntries (fun _ => 0) imgs (len / 8) 0 content f with
          | .ok f => s.blockSections n (bs.drop (4 + len)) f imgs
          | .error _ => none
      | 2 =>
        match s.imageCheck (content.drop 4) (len - 4) with
        | .ok img =>
          let es := bitsIn 8 (pb content 0)
          s.blockSections n (bs.drop (4 + len)) (es.foldl (fun f e => stageImage f e img) f)
            (es.foldl (fun v e => vset v e (some img)) imgs)
        | .error _ => none
      | _ => none

/-- The stage that a block describes, from the reset values of every register. -/
def State.blockStage (s : State) (bs : Bytes) : Option (RegFile × Vector (Option Image) 8) :=
  s.blockSections (pf bs 32 4) ((bs.take (pf bs 36 4)).drop 40) [] (Vector.replicate 8 none)

/-- Does the content of a block pass the check of R366? At boot the rules marked S, which judge a change of the live configuration, have
nothing to judge yet (log 29). -/
def State.blockChecks (s : State) (bs : Bytes) (atBoot : Bool) : Bool :=
  match s.blockStage bs with
  | some (f, imgs) => (s.checkAll f imgs).all fun x => atBoot && sCodes.contains x.code
  | none => false

/-- Why a block is not valid, up to its signature: status and DETAIL (R374). -/
def State.blockForm (s : State) (bs : Bytes) : Option (Status × Nat) :=
  let n := pf bs 36 4
  if pf bs 0 4 ≠ 0x47464344 ∨ pf bs 4 2 ≠ 1 ∨ 8388608 < bs.length ∨ n < 40 ∨ bs.length ≠ n + 3417 then some (.checkFail, 1)
  else if pf bs 8 16 ≠ s.sec.targetId.toNat then some (.checkFail, 2)
  else if pf bs n 4 ≠ crc32c (bs.take n) then some (.checkFail, 3)
  else (s.trailerCheck bs (n + 4) 3 "NDZ CFG" s.signs).map fun d => (.authFail, d)

/-- CFG_VERSION of the newest of the stored blocks that are valid. -/
def State.newestOf (s : State) (ok0 ok1 : Bool) : Nat :=
  let v := fun (ok : Bool) (c : Option CfgBlock) => if ok then match c with | some c => c.version.toNat | none => 0 else 0
  max (v ok0 s.stg.copy0) (v ok1 s.stg.copy1)

/-- STG_CFG_VER: the blocks that the boot load has found valid, or that have been written since. -/
def State.cfgVersion (s : State) : Nat := s.newestOf s.stg.copy0Ok s.stg.copy1Ok

/-- Is a stored copy valid? -/
def State.copyOk (s : State) : Option CfgBlock → Bool
  | some c => (s.blockForm c.bytes).isNone && s.blockChecks c.bytes true
  | none => false

/-- Why STG_SAVE refuses a block. Before the boot load the stored copies are judged here. -/
def State.blockRefusal (s : State) (bs : Bytes) : Option (Status × Nat) :=
  match s.blockForm bs with
  | some x => some x
  | none =>
    let ok := fun (was : Bool) (c : Option CfgBlock) => if s.ops.st = .boot then s.copyOk c else was
    let ok0 := ok s.stg.copy0Ok s.stg.copy0
    let ok1 := ok s.stg.copy1Ok s.stg.copy1
    if (ok0 || ok1) && decide (pf bs 24 8 ≤ s.newestOf ok0 ok1) then some (.checkFail, 4)
    else if s.blockChecks bs false then none else some (.checkFail, 5)

/-- A verified block begins to be written to both copies. -/
def State.blockWrite (s : State) (c : Src) (bs : Bytes) (recover : Bool) : State :=
  s.modStg fun g => { g with writes := g.writes ++
    [{ src := c, block := { version := BitVec.ofNat 64 (pf bs 24 8), bytes := bs }, recover := recover }] }

/-- STG_SAVE; no block where the read of it failed (R317). -/
def State.stgSave (s : State) (c : Src) (p : Bytes) (block : Option Bytes) : State :=
  match block with
  | none => s.refuse c 0x0205 .error 0x80000010
  | some bs =>
    let bs := padTo (pf p 16 4) bs
    match s.blockRefusal bs with
    | some (st, d) => s.refuse c 0x0205 st d
    | none => s.blockWrite c bs false

def execStgSave (c : Src) (p : Bytes) (block : Option Bytes) (s : State) : Host.Outcome State Fault Refusal :=
  .next (s.obey c 0x0205 p fun s => (s.mirrorRead c 0x0205 p block).stgSave c p block)

/-- Both copies hold a block. A saved one clears CFG_DEFAULTED, and with it what keeps gate drive inhibited (R375). -/
def State.blockWritten (s : State) (w : CfgWrite) : State :=
  (s.nandTurn.modStg fun g => { g with
    writes := g.writes.drop 1, copy0 := some w.block, copy1 := some w.block, copy0Ok := true, copy1Ok := true
    defaulted := g.defaulted && w.recover }).safUpdate

/-! ### The boot load (R375, Table STG-7) -/

/-- Load and commit the stored configuration, or leave the reset values with CFG_DEFAULTED. -/
def State.bootLoad (s : State) : State :=
  let ok0 := s.copyOk s.stg.copy0
  let ok1 := s.copyOk s.stg.copy1
  let pick := match s.stg.copy0, s.stg.copy1 with
    | some a, some b => if ok0 && (!ok1 || decide (b.version ≤ a.version)) then some a else if ok1 then some b else none
    | a, b => if ok0 then a else if ok1 then b else none
  let s := s.modStg fun g => { g with copy0Ok := ok0, copy1Ok := ok1, repaired := ok0 != ok1, defaulted := pick.isNone }
  match pick with
  | none => (({ s with live := s.mgmtLive }.stageReset).safTakeSet).note 0x13 3 23 (leBytes 8 s.stgStatusWord)
  | some c =>
    let s := if ok0 && ok1 then s
      else (s.modStg fun g => { g with copy0 := some c, copy1 := some c }).note 0x13 3 22 (leBytes 8 s.stgStatusWord)
    match s.blockStage c.bytes with
    | some (f, imgs) => (s.modStg fun g => { g with stage := f, images := imgs, st := .checked }).applyStage s.nt64
    | none => s

end Sys2Proof.Machine
end

