-- ==== Sys2Proof/Machine/Spores.lean ====
section
/-! DEFINITION. Execution of scheduled actions: a batch at its tick E, its actions in slot order and their records (R298 to R301, R189,
R444, Tables NT-4 and STG-4). -/

namespace Sys2Proof.Machine

/-- The record of an executed slot. -/
def State.sporeDone (s : State) (d : DueSlot) (st : Status) (detail : Nat) : State :=
  s.sporeRecord { nt := s.ntFine, slot := d.slot, action := d.spore.action, result := st.code, late := d.spore.late, same := d.same
                  discard := false, detail := BitVec.ofNat 32 detail }

/-- Does a pending STG_COMMIT fall on the present tick (Table STG-4)? -/
def State.commitNowDue (s : State) (p : PendCommit) : Bool :=
  if s.executes p.engine then
    decide ((s.nextLoad (s.leadTb p.engine)).1 / 32 = s.now / 32) && decide (p.acceptAt / 32 < s.now / 32) && p.takeIdx.isNone
      && (p.applyAt = 0 || decide (p.applyAt ≤ s.ntFine))
  else s.tickDue p.acceptAt p.applyAt

/-- COMMIT: an STG_COMMIT of the same tick that was accepted earlier goes first (Table STG-4). -/
def State.sporeCommit (s : State) (d : DueSlot) : State :=
  let s := (s.stg.pendings.filter fun p => decide (p.acceptAt < d.spore.acceptAt) && s.commitNowDue p).foldl
    (fun s p => s.commitOnly p s.ntFine) s
  let (s, st, n) := s.sporeApply d
  s.sporeDone d st n

/-- The work of a PROFILE or BANK_SWAP action goes to the engines of its mask; `take` is the index in a pair and `nt` the NT
value of E. -/
def State.sporeWork (s : State) (d : DueSlot) (at_ : Nat) (nt : DWord) (take : Option DWord) : State :=
  let a := d.spore.args
  let mask := pb a 0
  let s := forNums (bitsIn 8 mask) (fun e s => s.modEng e fun n =>
    if d.spore.action = 2 then
      { n with sporeStarts := n.sporeStarts ++
          [{ slot := d.slot, at_ := at_, chan := pb a 1, target := BitVec.ofNat 32 (pf a 4 4), takeIdx := take }] }
    else { n with swaps := n.swaps ++
          [{ who := .spore d.slot at_, bank := pb a 1 = 1, len := pf a 2 2, at_ := at_, takeIdx := take }] }) s
  s.waitStart (.spore d.slot at_ d.spore.action d.spore.late d.same nt) mask

/-- PROFILE and BANK_SWAP: outside ARMED and RUNNING they have no effect (R300). The standby of a pair waits for the item of its twin. -/
def State.sporeGraph (s : State) (d : DueSlot) : State :=
  if !s.cHot then s.sporeDone d .error 3
  else if s.pair && !s.twn.role then s
  else
    let p := sporeItemBytes d s.ntFine
    let take := s.controlTake (sporeSrc d) sporeItem p
    (s.mirror (sporeSrc d) sporeItem p (take.getD 0)).sporeWork d s.now s.ntFine take

/-- SLOT_OFS: the live value, and the staged one where it equals the value that was live; NT timebases realign at their next zero
(R189). -/
def State.setSlotOfs (s : State) (v : Nat) : State :=
  let old := regGet s.live .pwmSlotOfs
  let x := BitVec.ofNat 64 (v % 2 ^ 24)
  let s := if regGet s.stg.stage .pwmSlotOfs = old then s.modStg fun g => { g with stage := regSet g.stage .pwmSlotOfs 0 0 x } else s
  let s := { s with live := regSet s.live .pwmSlotOfs 0 0 x }
  forNums (List.range 16) (fun t s => s.modTb t fun b =>
    if b.run = .running ∧ b.syncSrc = 2 then { b with aligning := b.aligning || s.slotOfs != b.slotSeen } else b) s

/-- One action of a batch at its tick E (Table NT-4). -/
def State.runSpore (s : State) (d : DueSlot) : State :=
  let a := d.spore.args
  match d.spore.action with
  | 1 => s.sporeCommit d
  | 3 =>
    let s := if (pb a 1).testBit 0 then s.ptmAsk 5 s.ntFine d.slot true else s
    (s.acqTrigMask (pb a 0) 8 s.ntFine d.slot).sporeDone d .ok 0
  | 4 =>
    if s.pair && !s.twn.role then s
    else if !s.twinReady then s.sporeDone d .error 6
    else s.modTwn fun t => { t with swapSpore := t.swapSpore ++ [(d, s.now + 320000)] }
  | 5 => (s.setSlotOfs (pf a 0 3)).sporeDone d .ok 0
  | _ => s.sporeGraph d

/-- The actions of a batch at its tick, in slot order. -/
def State.runBatch (s : State) (b : List DueSlot) : State := b.foldl (fun s d => s.runSpore d) s

/-- How many of the due batches stand up to the last one with a COMMIT accepted before an instant. -/
def earlyBatches (acceptAt : Nat) : List (List DueSlot) → Nat
  | [] => 0
  | b :: rest =>
    let n := earlyBatches acceptAt rest
    if n ≠ 0 then n + 1
    else if b.any fun d => d.spore.action = 1 && decide (d.spore.acceptAt < acceptAt) then 1 else 0

/-- Where a COMMIT spore that was accepted before a STG_COMMIT waits in a due batch at the CTL tick of the STG_COMMIT, that tick is its E: its
batch, and those before it, execute first, each in slot order (Table STG-4, log 43). -/
def State.batchesFirst (s : State) (acceptAt : Nat) : State :=
  let n := if s.now % 32 = 0 && s.ctlRuns then earlyBatches acceptAt s.nt.batches else 0
  (s.nt.batches.take n).foldl State.runBatch (s.modNt fun k => { k with batches := k.batches.drop n })

/-- A pending commit at its instant C; a batch that goes first may have let it act already. -/
def State.commitNow (s : State) (p : PendCommit) (nt : DWord) : State :=
  let s := s.batchesFirst p.acceptAt
  if s.stg.pendings.any fun x => sameSrc x.src p.src then s.commitOnly p nt else s

/-- The commits of a boundary apply first (R100). -/
def State.commitsAt (s : State) (e : Nat) : State :=
  (s.stg.pendings.filter (s.commitDue e)).foldl (fun s p => s.commitNow p (s.engN e).ntB) s

/-- COMMIT_APPLY: C of a commit whose reference engine does not execute. With one that executes, C is a boundary of it and belongs to
LOAD_POINT. Before the first lock there is no CTL tick. -/
def execCommitApply (s : State) : Host.Outcome State Fault Refusal :=
  match s.ctlRuns, s.idleCommit with
  | true, some (p, t) =>
    let s := (s.advanceTo t).toTick
    .next (s.commitNow p s.nt64)
  | _, _ => .next s

/-- SPORE_EXECUTE: the oldest batch executes at a CTL tick, its actions in slot order. The tick lies within 80 ns of the earliest
instant of the batch; the model takes the first tick from now on (log 43). Before the first lock of the ADPLL there is none. -/
def execSporeExecute (s : State) : Host.Outcome State Fault Refusal :=
  match s.ctlRuns, s.nt.batches with
  | false, _ | true, [] => .next s
  | true, b :: rest =>
    let s := (s.advanceTo ((s.now + 31) / 32 * 32)).modNt fun n => { n with batches := rest }
    .next (s.runBatch b)

end Sys2Proof.Machine
end

