-- ==== Sys2Proof/Machine/OpsCmd.lean ====
section
/-! DEFINITION. Operating commands, power-up, boot, self-test and supply losses, the event log in NAND and the firmware slots (R359,
R347, R378 to R393, R459, R468, R470, R482). -/

namespace Sys2Proof.Machine

/-! ### Commands of Table OPS-8 -/

/-- The cause of a change that a command makes; on the standby it follows its twin (R450). -/
def State.cmdCause (s : State) : Nat := if s.pair && !s.twn.role then 0x10 else 1

/-- Entry to ARMED: every profile channel takes its initial position (R114), and each engine with ENABLE = 1 and a committed graph has
its state reset and begins at its next boundary (R68). -/
def State.enginesStart (s : State) : State :=
  let s := forNums (List.range 8) (fun e s => s.prfInit e) s.allOffSets
  forNums ((List.range 8).filter s.canRun) (fun e s =>
    (s.engineReset e).modEng e fun n => { n with executing := true, armReset := true }) s

/-- OPS_ARM (R380, R383, Table OPS-4). -/
def State.opsArm (s : State) (c : Src) : State :=
  match s.ops.st with
  | .stopping => s.busyStop.refuse c 0x0610 .busyStopping 0
  | .armed | .running => s.done c 0x0610 1
  | .idle => if s.armBlock = 0 then ((s.enter .armed s.cmdCause).enginesStart).done c 0x0610
             else s.refuse c 0x0610 .checkFail s.armBlock
  | _ => s.refuse c 0x0610 .error 2

def execOpsArm (c : Src) (s : State) : Host.Outcome State Fault Refusal :=
  .next (s.obey c 0x0610 [] fun s => s.opsArm c)

/-- A start or stop that waits for its instant C (R393). -/
def State.pendOp (s : State) (c : Src) (p : Bytes) (take : Option DWord) : PendOp :=
  { src := c, engine := Fin.ofNat 8 (pb p 0), acceptAt := s.acceptedAt c, takeIdx := take }

/-- OPS_START (Table OPS-4, Table OPS-8). -/
def State.opsStart (s : State) (c : Src) (p : Bytes) (take : Option DWord) : State :=
  if 7 < pb p 0 then s.refuse c 0x0611 .checkFail 4
  else match s.ops.st with
    | .stopping => s.busyStop.refuse c 0x0611 .busyStopping 0
    | .running => s.done c 0x0611 1
    | .armed =>
      let s := s.mirror c 0x0611 p (take.getD 0)
      s.modOps fun o => { o with starts := o.starts ++ [s.pendOp c p take] }
    | _ => s.refuse c 0x0611 .error 2

def execOpsStart (c : Src) (p : Bytes) (s : State) : Host.Outcome State Fault Refusal :=
  .next (s.obey c 0x0611 p fun s => s.opsStart c p (s.controlTake c 0x0611 p))

/-- OPS_STOP. -/
def State.opsStop (s : State) (c : Src) (p : Bytes) (take : Option DWord) : State :=
  if 7 < pb p 0 then s.refuse c 0x0612 .checkFail 4
  else match s.ops.st with
    | .armed | .running =>
      let s := s.mirror c 0x0612 p (take.getD 0)
      s.modOps fun o => { o with stops := o.stops ++ [s.pendOp c p take] }
    | _ => s.done c 0x0612 1

def execOpsStop (c : Src) (p : Bytes) (s : State) : Host.Outcome State Fault Refusal :=
  .next (s.obey c 0x0612 p fun s => s.opsStop c p (s.controlTake c 0x0612 p))

/-- OPS_DISARM: ARMED to IDLE. In IDLE nothing changes; elsewhere it does not apply (log 44). -/
def State.opsDisarm (s : State) (c : Src) : State :=
  match s.ops.st with
  | .armed => (s.toIdle s.cmdCause).done c 0x0613
  | .idle => s.done c 0x0613 1
  | _ => s.refuse c 0x0613 .error 2

def execOpsDisarm (c : Src) (s : State) : Host.Outcome State Fault Refusal :=
  .next (s.obey c 0x0613 [] fun s => s.opsDisarm c)

/-- ARM_LOST: an arming condition has lapsed in ARMED (R380). -/
def execArmLost (s : State) : Host.Outcome State Fault Refusal :=
  if s.ops.st = .armed && s.armBlock != 0 then .next (s.toIdle 5) else .next s

/-! ### The instant C of a start or a stop -/

/-- A stop at its instant. -/
def State.stopNow (s : State) (p : PendOp) (nt : DWord) : State :=
  let s := s.modOps fun o => { o with stops := o.stops.filter fun x => !sameSrc x.src p.src }
  match s.ops.st with
  | .running => (s.toStopping s.cmdCause).complete p.src 0x0612 .ok 0 nt
  | .armed => (s.toIdle s.cmdCause).complete p.src 0x0612 .ok 0 nt
  | _ => s.complete p.src 0x0612 .ok 1 nt

/-- FORCE_ON acts from the first load point at or after the entry to RUNNING, and so on channels that load at this very instant (R167). -/
def State.forceAtEntry (s : State) : State :=
  forNums ((List.range 16).filter fun k => (s.tb k).run = .running && s.lastLoad k = s.now) (fun k s =>
    s.loadList ((stackChans k).filter fun n => s.lv .pwmForce k 0 (2 * (n % 12) + 1) (2 * (n % 12)) = 2)
      (if (s.tb k).half then 16 * (s.tb k).prd else 0)) s

/-- Entry to RUNNING. The first boundary of RUNNING of each engine is its next one (R115). -/
def State.enterRunning (s : State) (cause : Nat) : State :=
  let s := s.enter .running cause
  let es := (List.range 8).filter fun e => (s.engN e).executing
  (forNums es (fun e s => s.modEng e fun n => { n with firstRun := true }) s).forceAtEntry

/-- A start at its instant. -/
def State.startNow (s : State) (p : PendOp) (nt : DWord) : State :=
  let s := s.modOps fun o => { o with starts := o.starts.filter fun x => !sameSrc x.src p.src }
  match s.ops.st with
  | .armed => (s.enterRunning s.cmdCause).complete p.src 0x0611 .ok 0 nt
  | .running => s.complete p.src 0x0611 .ok 1 nt
  | _ => s.refuse p.src 0x0611 .error 3

/-- Is a start or stop due at a boundary of an engine: as for a commit (R368, R393)? -/
def State.opDue (s : State) (e : Nat) (p : PendOp) : Bool :=
  let here := if s.executes p.engine then p.engine.val == e else s.pair && e == s.refEng && p.takeIdx.isSome
  here && match p.takeIdx with
    | some i => s.takeDue i
    | none => decide (p.acceptAt / 32 < s.now / 32) && (p.src.applyAt = 0 || decide (p.src.applyAt ≤ (s.engN e).ntB))

/-- The stops and the starts that fall on the boundary at which the engines of a list stand: a stop wins (Table OPS-4). -/
def State.opsAt (s : State) (es : List Nat) : State :=
  let nt := fun (s : State) => s.ntFine
  let stops := s.ops.stops.filter fun p => es.any fun e => s.opDue e p
  let starts := s.ops.starts.filter fun p => es.any fun e => s.opDue e p
  let s := stops.foldl (fun s p => s.stopNow p (nt s)) s
  (starts.filter fun p => s.ops.starts.any fun x => sameSrc x.src p.src).foldl (fun s p => s.startNow p (nt s)) s

/-- Is a start or stop due at a CTL tick, because its reference engine does not execute? -/
def State.opIdle (s : State) (p : PendOp) : Bool :=
  !s.executes p.engine && (p.takeIdx.isNone || (s.tb (s.leadTb s.refEng)).run ≠ .running)
    && s.tickDue p.acceptAt p.src.applyAt

/-- The pending starts, stops and commits of engines that do not execute act at the first CTL tick after the later of their acceptance
and APPLY_AT. -/
def State.idleActions (s : State) : State :=
  let s := (s.stg.pendings.filter fun p =>
      !s.executes p.engine && (p.takeIdx.isNone || (s.tb (s.leadTb s.refEng)).run ≠ .running)
        && s.tickDue p.acceptAt p.applyAt).foldl (fun s p => s.commitNow p s.nt64) s
  let stops := s.ops.stops.filter s.opIdle
  let starts := s.ops.starts.filter s.opIdle
  let s := stops.foldl (fun s p => s.stopNow p s.nt64) s
  (starts.filter fun p => s.ops.starts.any fun x => sameSrc x.src p.src).foldl (fun s p => s.startNow p s.nt64) s

/-! ### The event log (R391, R392) -/

/-- The bytes of an event-log record (Table OPS-6). -/
def LogRec.bytes (r : LogRec) : Bytes :=
  withCrc32c (leBytes 8 r.ntNs.toNat ++ leBytes 4 r.recno.toNat ++ leBytes 4 r.rtc.toNat
    ++ [BitVec.ofNat 8 r.source, BitVec.ofNat 8 r.type, BitVec.ofNat 8 r.state, BitVec.ofNat 8 r.flags]
    ++ leBytes 4 r.detail.toNat ++ padTo 32 r.body ++ leBytes 4 r.resets.toNat)

/-- Up to `n` records from number FIRST on, or from the oldest held if FIRST is older. Record numbers wrap, so a number that lies
less than 2^31 behind the oldest one is older (log 45). -/
def State.logFrom (s : State) (first n : Nat) : List LogRec :=
  match s.logHeld with
  | [] => []
  | r :: rest =>
    let ofs := (BitVec.ofNat 32 first - r.recno).toNat
    if 2147483648 ≤ ofs then (r :: rest).take n else ((r :: rest).drop ofs).take n

/-- LOG_READ, in HALTED too (R386, R392). -/
def State.logRead (s : State) (c : Src) (p : Bytes) : State :=
  let s := s.nandTurn
  let l := s.logFrom (pf p 0 4) (min (pf p 4 4) 65536)
  (s.hostWrite (pf p 8 8) (l.flatMap LogRec.bytes)).done c 0x0805 l.length

def execLogRead (c : Src) (p : Bytes) (s : State) : Host.Outcome State Fault Refusal :=
  .next (s.acting c 0x0805 p fun s => s.logRead c p)

/-- LOG_FLUSH: records still in the buffer when VIN is lost reach NAND no more (R391). -/
def execLogFlush (s : State) : Host.Outcome State Fault Refusal := if s.ops.vinOk then .next s.logFlush else .next s

/-- NAND_REFRESH, from IDLE to HALTED: a block with 8 or more corrected bits per 1 KiB is rewritten into the next spare block, which leaves
what it holds as it was. The flush of R385 goes first, and writes of images and configuration blocks go before it too (R482, log 37). -/
def State.nandRefresh (s : State) (block correctedBits : Nat) : State :=
  if s.ops.st = .off || s.ops.st = .boot || s.ops.st = .selftest then s
  else
    let s := s.nandTurn
    if s.ops.fwWrite.isSome || s.stg.writes ≠ [] || correctedBits < 8 then s
    else s.modOps fun o => { o with spares := o.spares ++ [(block, o.spares.length)] }

def execNandRefresh (block correctedBits : Nat) (s : State) : Host.Outcome State Fault Refusal :=
  .next (s.nandRefresh block correctedBits)

/-! ### Firmware slots (R389, R390) -/

def State.fwSlot (s : State) (k : Nat) : FwSlot := if k = 0 then s.ops.slot0 else s.ops.slot1

def State.setFwSlot (s : State) (k : Nat) (x : FwSlot) : State :=
  s.modOps fun o => if k = 0 then { o with slot0 := x } else { o with slot1 := x }

/-- The firmware image that is being written is complete in its slot. -/
def State.fwFinish (s : State) : State :=
  match s.ops.fwWrite with
  | some w => ((s.setFwSlot w.slot w.img).modOps fun o => { o with fwWrite := none }).done w.src 0x0901
  | none => s

def execFwImageWriteComplete (s : State) : Host.Outcome State Fault Refusal := .next s.nandTurn.fwFinish

/-- Does a firmware image have its form: MAGIC, FORMAT and a trailer where BODY_BYTES says? -/
def fwForm (bs : Bytes) : Bool :=
  pf bs 0 4 = 0x4D574946 && pf bs 4 2 = 1 && decide (64 ≤ pf bs 60 4) && decide (bs.length = pf bs 60 4 + 3413)

/-- IMG_FW_LOAD, in HALTED too (R386, R389); no image where the read of it failed, after which the slot stays invalid (R317). A write
still in progress finishes first (log 46). -/
def State.fwLoad (s : State) (c : Src) (p : Bytes) (image : Option Bytes) : State :=
  let k := pb p 0
  let s := s.nandTurn.fwFinish
  if 1 < k then s.refuse c 0x0901 .checkFail 4
  else if k = s.ops.runSlot then s.refuse c 0x0901 .checkFail 1
  else match image with
    | none => (s.setFwSlot k {}).refuse c 0x0901 .error 0x80000010
    | some bs =>
      let bs := padTo (pf p 16 4) bs
      if pb bs 12 < s.sec.svn then s.refuse c 0x0901 .checkFail 2
      else if !fwForm bs then s.refuse c 0x0901 .authFail 7
      else match s.trailerCheck bs (pf bs 60 4) 2 "NDZ IMG" (· < 8) with
        | some d => s.refuse c 0x0901 .authFail d
        | none =>
          let img : FwSlot := { valid := true, version := BitVec.ofNat 32 (pf bs 8 4), svn := pb bs 12, body := bs }
          (s.setFwSlot k {}).modOps fun o => { o with fwWrite := some { src := c, slot := k, img := img } }

def execImgFwLoad (c : Src) (p : Bytes) (image : Option Bytes) (s : State) : Host.Outcome State Fault Refusal :=
  .next (s.acting c 0x0901 p fun s => (s.mirrorRead c 0x0901 p image).fwLoad c p image)

/-- IMG_FW_ACTIVATE, in HALTED too: the slot that boots next; with RAISE_SVN the fused minimum rises to that of the running image. -/
def State.fwActivate (s : State) (c : Src) (p : Bytes) : State :=
  let k := pb p 0
  let run := s.fwSlot s.ops.runSlot
  let up := (pb p 1).testBit 0
  if 1 < k then s.refuse c 0x0902 .checkFail 4
  else if up && (k != s.ops.runSlot || decide (run.svn ≤ s.sec.svn)) then s.refuse c 0x0902 .checkFail 3
  else
    let s := if up then s.modSec fun x => { x with svn := run.svn } else s
    (s.modOps fun o => { o with actSlot := k }).done c 0x0902

def execImgFwActivate (c : Src) (p : Bytes) (s : State) : Host.Outcome State Fault Refusal :=
  .next (s.acting c 0x0902 p fun s => s.fwActivate c p)

/-! ### Power-up and reset of the main side -/

/-- The registers that a reset of the main side leaves: those of the management controller and the always-on domain. -/
def keptRegs (f : RegFile) : RegFile :=
  f.filter fun x => x.1 / 0x10000 = 0x12 || x.1 = regAddr .secTamperEvt 0 0 || x.1 = regAddr .secTamperCnt 0 0

/-- The main side without power or in reset (the event log's buffer is lost with VIN alone, R391): the always-on domain, the NAND, OTP, the management controller and the Thallus keep
what they hold, and the input levels stand; everything else is at its reset value (R347, R391, R459). Each GUARD pair owes its start-up test again (R254). -/
def State.mainClear (s : State) : State :=
  let live := s.mgmtLive
  let z : State := {}
  { z with
    pending := s.pending, now := s.now, free := s.free, host := s.host, dram := s.dram, regs := keptRegs s.regs
    live := live
    sec := { s.sec with grants := s.sec.grants.filter fun g => g.ring = 128 }
    ops := { z.ops with
      st := s.ops.st, vinOk := s.ops.vinOk, vinLostAt := s.ops.vinLostAt, loader0 := s.ops.loader0, loader1 := s.ops.loader1
      slot0 := s.ops.slot0, slot1 := s.ops.slot1, actSlot := s.ops.actSlot, spares := s.ops.spares }
    clk := { z.clk with acqAt := s.now }
    nt := { z.nt with incrAt := s.now }
    log := s.log
    stg := { z.stg with stage := live, copy0 := s.stg.copy0, copy1 := s.stg.copy1 }
    mgt := { s.mgt with resetReq := none, tail := [] }
    arb := s.arb
    trp := { z.trp with tripIn := s.trp.tripIn }
    gdl := { z.gdl with stk := s.gdl.stk.map fun g => { fltLow := g.fltLow } }
    twn := { z.twn with own := s.twn.own }
    saf := { z.saf with
      resetReq := s.saf.resetReq
      pairs := s.saf.pairs.map fun p =>
        if s.mgt.vmgt then { p with opened := false, passed := false } else { lineA := p.lineA, lineB := p.lineB }
      chA := { code := s.saf.chA.code }, chB := s.saf.chB.setRel false s.now, fault := s.saf.fault } }

/-- Entry to BOOT: SEC_RESET_CNT counts, and the cause is recorded. -/
def State.mainReset (s : State) (cause : Nat) : State :=
  (s.mainClear.modSec fun c => { c with resetCnt := satInc c.resetCnt }).enter .boot cause

/-- POWER_ON_RESET_RELEASE: VIN has stayed at or above 8.5 V for 10 ms (R468). Where the retention memory has failed its check word or
lost VBAT, every floor is unset, epochs are 0 and no key is held (R347). The main side of a module strapped as arbiter stays unpowered
(R429). -/
def State.powerUp (s : State) (retentionOk : Bool) : State :=
  let s := (s.mainReset 0).modSaf fun f => { f with resetReq := true }
  let s := s.modSec fun c => { c with retentionLost := !retentionOk }
  if retentionOk then s
  else
    let s := forNums (List.range 129) (fun r s => s.modRep r fun x => { x with epoch := 0, floorUnset := true, key := none }) s
    s.modSec fun c => { c with plant := Vector.replicate 4 none, lastGrants := [] }

def execPowerOnResetRelease (retentionOk : Bool) (s : State) : Host.Outcome State Fault Refusal :=
  if s.ops.st = .off then
    let s := s.modOps fun o => { o with vinOk := true }
    .next (if s.arb.strapped then s else s.powerUp retentionOk)
  else .next s

/-- Tamper records that the always-on domain holds go to the event log at boot, with FLAGS bit 1 (R358, R391). -/
def State.takeTamper (s : State) : State :=
  let l := s.sec.tamperRecs
  l.foldl (fun s x => s.logPut x) (s.modSec fun c => { c with tamperRecs := [] })

/-- Step 2 of Table AUT-10 for one firmware slot: NAND gives its body back, and the body verifies under R341 against the vendor slots
with a security version at or above the fused minimum. -/
def State.slotPasses (s : State) (m : BootMedia) (k : Nat) : Bool :=
  let b := (s.fwSlot k).body
  (if k = 0 then m.slotOk0 else m.slotOk1) && fwForm b && decide (s.sec.svn ≤ pb b 12)
    && (s.trailerCheck b (pf b 60 4) 2 "NDZ IMG" (· < 8)).isNone

/-- Step 1 of Table AUT-10 for one copy of the boot loader: NAND gives it back, and it verifies under R341 against a vendor slot. -/
def State.loaderPasses (s : State) (read : Bool) (b : Bytes) : Bool :=
  read && decide (3413 ≤ b.length) && (s.trailerCheck b (b.length - 3413) 2 "NDZ IMG" (· < 8)).isNone

/-- The slot that the boot chain starts: the active one or the other one; none where both copies of the boot loader, or both slots, fail
(Table AUT-10). -/
def State.bootSlot (s : State) (m : BootMedia) : Option Nat :=
  if !(s.loaderPasses m.loaderOk0 s.ops.loader0 || s.loaderPasses m.loaderOk1 s.ops.loader1) || !s.anchorValid 0 then none
  else if s.slotPasses m s.ops.actSlot then some s.ops.actSlot
  else if s.slotPasses m (1 - s.ops.actSlot) then some (1 - s.ops.actSlot)
  else none

/-- BOOT_COMPLETE: the boot chain of Table AUT-10 passes with the active firmware slot or the other one, and the stored configuration
is loaded (R359, R375, R387); where both loader copies or both slots fail, the device is held in BOOT. Every boot refreshes the management
controller's copies of the anchors (R457). -/
def State.boot (s : State) (m : BootMedia) : State :=
  let s := s.nandTurn.copyAnchors
  match s.bootSlot m with
  | none => s.modOps fun o => { o with held := true }
  | some run =>
    let ok0 := s.slotPasses m 0
    let ok1 := s.slotPasses m 1
    let s := s.modOps fun o => { o with
      held := false, runSlot := run, fallback := run != o.actSlot
      slot0 := { o.slot0 with valid := ok0 }, slot1 := { o.slot1 with valid := ok1 } }
    let s := forNums (List.range 128) (fun r s =>
      let (i, s) := s.draw
      s.modRep r fun x => { x with nonce := Config.drbg128 i }) s
    let s := s.enter .selftest s.ops.cause
    (s.takeTamper).bootLoad

def execBootComplete (media : BootMedia) (s : State) : Host.Outcome State Fault Refusal :=
  if s.ops.st = .boot && !s.ops.held && !s.arb.strapped then .next (s.boot media) else .next s

/-- The failed items of the self-test: those that it reports, and ADPLL where the loop has not locked in time, or has not locked at all
(Tables CLK-3 and OPS-5). -/
def State.failedItems (s : State) (failed : BitVec 12) : BitVec 12 :=
  failed ||| ((s.reg .glbSelftest).setWidth 12 &&& 0x010) ||| if s.clk.st = .acquire then 0x010 else 0

/-- SELFTEST_COMPLETE, which waits for the loop for up to 2 ms: GLB_SELFTEST takes the failed items; any of them halts, and with none the device goes to IDLE (R388). A safety
fault latched before the reset ends where the safety item has passed (R261). Trip sources that stand latch (R224). -/
def State.selftest (s : State) (failed : BitVec 12) : State :=
  let s := if s.clk.st = .acquire then s.advanceTo s.acqEnd else s
  let failed := s.failedItems failed
  let s := s.setRegN .glbSelftest 0 0 failed.toNat
  let s := if failed.getLsbD 8 then s
    else s.modSaf fun f => { f with fault := false, chA := { f.chA with code := 0 }, chB := { f.chB with code := 0 } }
  if failed ≠ 0 then
    let s := if failed.getLsbD 8 then (s.modSaf fun f => { f with fault := true, chA := { f.chA with code := 6 } }).safNote 9 else s
    s.halt 0x20
  else ((s.enter .idle s.ops.cause).tripsStanding).safJudge

def execSelftestComplete (failed : BitVec 12) (s : State) : Host.Outcome State Fault Refusal :=
  if s.ops.st = .selftest then .next (s.selftest failed) else .next s

/-- A COMMAND of the management port that the main side can no longer carry out completes ERROR, and what it has left waiting goes with it
(Table MGT-4). -/
def State.mgtDropCommand (s : State) : State :=
  match s.mgt.cmd with
  | some c =>
    if c.cmd.opcode = 0x0401 ∨ c.cmd.opcode = 0x0402 then s
    else
      let s := s.modStg fun g => { g with
        pendings := g.pendings.filter fun x => !sameSrc x.src c.cmd.src, writes := g.writes.filter fun x => !sameSrc x.src c.cmd.src }
      (s.modMgt fun m => { m with resetReq := none }).refuse c.cmd.src c.cmd.opcode .error 0x80000030
  | none => s

/-- Has the main side power at its lands: not in OFF, and not in a module strapped as arbiter (R472)? -/
def State.landsPowered (s : State) : Bool := s.ops.st != .off && !s.arb.strapped

/-- Does the module own the lands of R425: only while OWN_N is low, whatever else holds, and not once a module whose twin was READY has lost
VIN (R468)? A single configuration ties OWN_N low at the land. -/
def State.ownsLands (s : State) : Bool := s.twn.own && !s.twn.silent

/-- Does the module drive GC, DSR_CLK_s and DSR_DO_s: in direct mode, while it owns the lands of R425? -/
def State.drivesLands (s : State) : Bool := s.landsPowered && !s.linkMode && s.ownsLands

/-- The level that the module drives on the GC land of a channel; none where the land is at high impedance. The land drivers are disabled
in SELFTEST (R388). -/
def State.gcDriven (s : State) (n : Nat) : Option Bool :=
  if s.drivesLands && s.ops.st != .selftest then some (s.chan n).gc else none

/-- Is SDM_CLK_m driven: in either gate mode (R132), in direct mode only while the module owns the land? While it is not driven it is an
input, and SDM_D is sampled at the edges that the twin's clock brings (R425). -/
def State.clkLandsDriven (s : State) : Bool := s.landsPowered && (s.linkMode || s.ownsLands)

/-- VIN_LOSS: GEN_A falls, what the event log's buffer holds is lost (R391), and the gate outputs turn off in order, with the compares of
stage 6 held off, unless the twin takes over (R249, R468). -/
def State.vinLost (s : State) : State :=
  let s := s.modOps fun o => { o with vinOk := false, vinLostAt := s.now }
  let s := { s with log := { s.log with buffer := [], urgent := false } }
  let s := s.modSaf fun f => { f with chA := f.chA.setRel false s.now }
  let s := s.mgtDropCommand
  if s.twinReady then s.modTwn fun t => { t with silent := true }
  else (s.modTwn fun t => { t with haltHold := none }).stopChannels.safJudge

def execVinLoss (s : State) : Host.Outcome State Fault Refusal :=
  if s.ops.st = .off || !s.ops.vinOk then .next s else .next s.vinLost

/-- HOLD_UP_END: 100 µs after VIN was lost the device enters OFF; what its volatile parts held is gone. R468 sets the least time, for a
supply that stood at 9 V or more for 10 ms before; the model takes it (log 63). -/
def State.powerDown (s : State) : State :=
  let s := { s.mainClear with dram := [], log := { nand := s.log.nand, recno := match s.log.nand.getLast? with | some r => r.recno + 1 | none => 0 } }
  (s.modOps fun o => { o with st := .off, prev := 0, cause := 0, stateNt := 0 }).notify

def execHoldUpEnd (s : State) : Host.Outcome State Fault Refusal :=
  if s.ops.vinOk || s.ops.st = .off then .next s else .next (s.advanceTo (s.ops.vinLostAt + 3200000)).powerDown

/-- VMGT_LOSS: the management controller and the Thallus stop. GEN_B falls, which channel A reports as SUPPLY (Tables SAF-2 and
MGT-4). What the controller's flash holds stays. -/
def State.vmgtLost (s : State) : State :=
  let s := { s with
    mgt := { vmgt := false, anchors := s.mgt.anchors }, arb := { strapped := s.arb.strapped, ports := s.arb.ports.map fun _ => {} } }
  let s := s.modSaf fun f => { f with chB := { f.chB.setRel false s.now with pset := [] } }
  let s := s.modSec fun x => { x with grants := x.grants.filter fun g => g.ring != 128 }
  let s := if s.ops.st = .off then { s with live := s.mgmtLive } else s
  if s.ops.st = .off then s
  else
    let s := s.safFault .a 8
    s.safUpdate

def execVmgtLoss (s : State) : Host.Outcome State Fault Refusal := if s.mgt.vmgt then .next s.vmgtLost else .next s

/-- VMGT_POWER_UP: the controller and the Thallus start, NONCE of ring 128 is drawn (R457), and HB_OUT is sampled: pulled high it
straps the module as arbiter, whose main side is unpowered from then on (R429, R472). A power-up owes a reset (R250). -/
def State.vmgtUp (s : State) (strapped : Bool) : State :=
  let (i, s) := s.draw
  let s := s.modRep 128 fun x => { x with nonce := Config.drbg128 i }
  let s := { s with mgt := { vmgt := true, anchors := s.mgt.anchors }, arb := { strapped := strapped, noReadyAt := s.now } }
  let s := s.modSaf fun f => { f with resetReq := true }
  if strapped && s.ops.st ≠ .off then s.powerDown else s

def execVmgtPowerUp (hbPulledHigh : Bool) (s : State) : Host.Outcome State Fault Refusal :=
  if s.mgt.vmgt then .next s else .next (s.vmgtUp hbPulledHigh)

/-! ### OPS_MAIN_RESET (R459) -/

/-- The reset of the main side through the management port, which completes once BOOT is entered. -/
def State.mgtReset (s : State) (c : Src) : State :=
  let l := s.stg.pendings
  let s := l.foldl (fun s p => s.refuse p.src 0x0204 .error 4) (s.modStg fun g => { g with pendings := [] })
  let s := s.mainReset 6
  if s.ownCommand c then s.done c 0x0615 else s

/-- OPS_MAIN_RESET: in ARMED, RUNNING or STOPPING the turn-off of R381 comes first; the state stays until the reset, because Table OPS-2 has
no other change for it. -/
def State.opsMainReset (s : State) (c : Src) : State :=
  match s.ops.st with
  | .armed | .running =>
    (((s.modMgt fun m => { m with resetReq := some c }).enginesStop).dropStarts 3).stopChannels
  | .stopping => s.modMgt fun m => { m with resetReq := some c }
  | _ => s.mgtReset c

def execOpsMainReset (c : Src) (s : State) : Host.Outcome State Fault Refusal :=
  .next (s.acting c 0x0615 [] fun s => if s.ops.st = .off then s.refuse c 0x0615 .error 0x80000030 else s.opsMainReset c)

/-- OFF_SEQUENCE_COMPLETE: STOPPING ends in IDLE (R382); where a reset waits for the turn-off it follows at once, also where a halt cause
has come in between (R459, Table OPS-2). -/
def execOffSequenceComplete (s : State) : Host.Outcome State Fault Refusal :=
  let s := s.ackOverdue
  if ((List.range 16).filter s.configured).all s.stackIsOff then
    match s.mgt.resetReq with
    | some c => .next (s.mgtReset c)
    | none => .next (if s.ops.st = .stopping then s.enter .idle 7 else s)
  else .next s

end Sys2Proof.Machine
end

