-- ==== Sys2Proof/Machine/Clockwork.lean ====
section
/-! DEFINITION. What one CTL tick with no command waiting brings: elapsed time, and the actions whose instant C is a CTL tick. -/

namespace Sys2Proof.Machine

/-- On to the next CTL tick, 1 ns after the one before it: the NT clock runs on, and pending starts, stops and commits of engines that do
not execute act where their instant has come (R288, R368, R393, R486). Before the first lock of the ADPLL there is no tick for them
(Table CLK-3). -/
def State.ctlTick (s : State) : State :=
  let s := s.advanceTo ((s.now / 32 + 1) * 32)
  if s.ctlRuns then s.idleActions else s

end Sys2Proof.Machine
end

