-- ==== Sys2Proof/Machine/Opcodes.lean ====
section
/-! DEFINITION. The opcodes of the host rings and of the management port: their kinds, the authentication they ask for and the
payload lengths they take (Tables CMD-4 and CMD-16, R324, R456, R488). -/

namespace Sys2Proof.Machine

/-- When a command acts once accepted. -/
inductive OpKind where
  | control | trip | immediate
  deriving DecidableEq, Repr

/-- The payload lengths of Table CMD-16: up to a maximum, one of exact lengths, or those of STG_WRITE. -/
inductive OpLen where
  | upTo (n : Nat)
  | exact (l : List Nat)
  | words
  deriving DecidableEq, Repr

/-- A row of Table CMD-4 with its row of Table CMD-16. -/
structure OpRow where
  kind   : OpKind
  hybrid : Bool
  len    : OpLen
  deriving DecidableEq, Repr

/-- Table CMD-4. -/
def opRow : Nat → Option OpRow
  | 0x0101 => some ⟨.control, false, .upTo 24⟩
  | 0x0102 => some ⟨.control, false, .upTo 1⟩
  | 0x0103 => some ⟨.control, false, .upTo 1⟩
  | 0x0110 => some ⟨.control, false, .upTo 4⟩
  | 0x0120 => some ⟨.control, false, .upTo 8⟩
  | 0x0201 => some ⟨.immediate, false, .upTo 8⟩
  | 0x0202 => some ⟨.immediate, false, .words⟩
  | 0x0203 => some ⟨.immediate, false, .upTo 18⟩
  | 0x0204 => some ⟨.control, false, .upTo 18⟩
  | 0x0205 => some ⟨.immediate, true, .upTo 20⟩
  | 0x0301 => some ⟨.immediate, false, .upTo 1⟩
  | 0x0302 => some ⟨.immediate, false, .upTo 2⟩
  | 0x0303 => some ⟨.immediate, false, .upTo 2⟩
  | 0x0401 => some ⟨.immediate, true, .exact [1296, 2544]⟩
  | 0x0402 => some ⟨.immediate, true, .exact [8]⟩
  | 0x0403 => some ⟨.immediate, true, .exact [2073]⟩
  | 0x0404 => some ⟨.immediate, true, .exact [8]⟩
  | 0x0405 => some ⟨.immediate, true, .exact [1296, 2544]⟩
  | 0x0501 => some ⟨.immediate, false, .upTo 0⟩
  | 0x0601 => some ⟨.trip, false, .upTo 2⟩
  | 0x0602 => some ⟨.immediate, false, .upTo 2⟩
  | 0x0610 => some ⟨.immediate, false, .upTo 0⟩
  | 0x0611 => some ⟨.control, false, .upTo 1⟩
  | 0x0612 => some ⟨.control, false, .upTo 1⟩
  | 0x0613 => some ⟨.immediate, false, .upTo 0⟩
  | 0x0614 => some ⟨.trip, false, .upTo 0⟩
  | 0x0701 => some ⟨.immediate, false, .upTo 48⟩
  | 0x0702 => some ⟨.immediate, false, .upTo 32⟩
  | 0x0703 => some ⟨.immediate, false, .upTo 20⟩
  | 0x0801 => some ⟨.control, false, .upTo 16⟩
  | 0x0802 => some ⟨.immediate, false, .upTo 2⟩
  | 0x0803 => some ⟨.immediate, false, .upTo 2⟩
  | 0x0804 => some ⟨.immediate, false, .upTo 1⟩
  | 0x0805 => some ⟨.immediate, false, .upTo 16⟩
  | 0x0901 => some ⟨.immediate, true, .upTo 20⟩
  | 0x0902 => some ⟨.immediate, true, .upTo 2⟩
  | 0x0910 => some ⟨.immediate, false, .upTo 20⟩
  | _ => none

/-- The two opcodes that the management port alone accepts (R456). -/
def portRow : Nat → Option OpRow
  | 0x0615 => some ⟨.immediate, false, .upTo 0⟩
  | 0x0206 => some ⟨.immediate, false, .exact [8]⟩
  | _ => none

/-- Does a payload have a length that its opcode takes? The length of STG_WRITE is 8 + 8·COUNT. -/
def OpLen.ok : OpLen → Bytes → Bool
  | .upTo n, p => decide (p.length ≤ n)
  | .exact l, p => l.contains p.length
  | .words, p => decide (p.length ≤ 4096) && decide (p.length = 8 + 8 * pf p 0 2)

end Sys2Proof.Machine
end

