-- ==== Sys2Proof/Machine/Rings.lean ====
section
/-! DEFINITION. Host command rings and the scheduler: doorbells, fetches, the work items PARSE, VERIFY and PLACE, deadlines, and enabling
and draining a ring (R311 to R333, R346, R352, R355, R439, R440). -/

namespace Sys2Proof.Machine

/-! ### Commands in flight -/

def State.flight (s : State) (no : Nat) : Option Flight := s.cmd.flights.find? fun f => f.no = no

def Flight.opcode (f : Flight) : Nat := pf f.desc 0 2
def Flight.authKind (f : Flight) : Nat := pb f.desc 3
def Flight.keyId (f : Flight) : Nat := pf f.desc 4 2
def Flight.seq (f : Flight) : DWord := BitVec.ofNat 64 (pf f.desc 8 8)
def Flight.applyAt (f : Flight) : DWord := BitVec.ofNat 64 (pf f.desc 16 8)

/-- The header of a command that its action and its completion use. -/
def Flight.src (f : Flight) : Src :=
  { ring := Fin.ofNat 129 f.ring.val, seq := f.seq, applyAt := f.applyAt, keyId := BitVec.ofNat 16 f.keyId
    irq := (pb f.desc 2).testBit 1 }

/-- Take a command in flight off every list. -/
def State.flightDrop (s : State) (no : Nat) : State :=
  s.modCmd fun c => { c with
    flights := c.flights.filter fun f => f.no != no
    ready := c.ready.filter fun w => w.no != no
    units := c.units.map fun u => if u.any fun w => w.no = no then none else u }

/-- A command leaves the lists; the one it leaves may let its level fetch again (R330). -/
def State.flightLeave (s : State) (f : Flight) : State := (s.flightDrop f.no).backPressure (s.level f.ring) f.ring f.seq

/-- A command that is not accepted completes. -/
def State.flightEnd (s : State) (f : Flight) (st : Status) (detail : Nat) : State :=
  (s.flightLeave f).writeEntry f.src f.opcode st detail 0

/-- A command whose deadline has passed during a wait is withdrawn (R327). -/
def State.flightTimeout (s : State) (f : Flight) : State := (s.trace 0xA 7 f.ring f.seq).flightEnd f .timeout 2

/-- The next work item of a command becomes ready; a wait that begins after the deadline ends at once. -/
def State.queueItem (s : State) (f : Flight) (k : WorkKind) : State :=
  if f.deadline < s.now then s.flightTimeout f
  else
    let l := s.level f.ring
    let s := s.modCmd fun c => { c with
      flights := c.flights.map fun x => if x.no = f.no then { x with work := k } else x
      ready := c.ready ++ [{ level := l, kind := k, no := f.no }] }
    (s.trace 2 7 f.ring f.seq).backPressure l f.ring f.seq

/-! ### Doorbells (R311, R315) -/

/-- A doorbell value that counts: the ring is RUNNING and the value lies below its depth. -/
def State.bellOk (s : State) (r : Nat) (v : Word) : Bool := (s.ring r).st = .running && decide (v.toNat < s.depth r)

/-- Doorbell instants for `n` entries still to be fetched: a tail that moves on brings new ones at the present instant, one that falls back
takes the latest away. -/
def bellsFor (now : Nat) : Nat → List (Nat × Nat) → List (Nat × Nat)
  | 0, _ => []
  | n, [] => [(n, now)]
  | n, (k, t) :: rest => if n ≤ k then [(n, t)] else (k, t) :: bellsFor now (n - k) rest

/-- A write to SQ_TAIL of a ring's doorbell page; one that is discarded counts (R311, R315), and each is traced (R331). -/
def State.bellSq (s : State) (r : Nat) (v : Word) : State :=
  let s := (s.modRing r fun q => { q with dbSq := v }).trace 0 7 r 0
  if s.bellOk r v then
    s.modRing r fun q => { q with
      sqTail := v.toNat, dbAt := s.now, bells := bellsFor s.now ((v.toNat + s.depth r - q.sqHead) % s.depth r) q.bells }
  else s.count .cmdDbErr

/-- A write to CQ_HEAD. -/
def State.bellCq (s : State) (r : Nat) (v : Word) : State :=
  let s := (s.modRing r fun q => { q with dbCq := v }).trace 0 7 r 0
  if s.bellOk r v then s.modRing r fun q => { q with cqHead := v.toNat } else s.count .cmdDbErr

/-- A write to an offset of a ring's page in BAR2. An access of another width than 32 bits counts as one to another offset (DESIGN CHOICE,
log 47). -/
def State.bar2Write (s : State) (r off : Nat) (w : AccessWidth) (v : DWord) : State :=
  if w = .w32 ∧ off = 0 then s.bellSq r (v.setWidth 32)
  else if w = .w32 ∧ off = 4 then s.bellCq r (v.setWidth 32)
  else s.count .cmdDbErr

/-- A read of a ring's page in BAR2: the value last written, 0 from another offset (R311). -/
def State.bar2Read (s : State) (r off : Nat) (w : AccessWidth) : State :=
  let give := fun (s : State) (v : Word) => s.modBus fun b => { b with readData := v.setWidth 64 }
  if w = .w32 ∧ off = 0 then give s (s.ring r).dbSq
  else if w = .w32 ∧ off = 4 then give s (s.ring r).dbCq
  else give (s.count .cmdDbErr) 0

/-- A write to SQ_TAIL of a ring's doorbell page. -/
def execDoorbell (ring : Fin 128) (v : Word) (s : State) : Host.Outcome State Fault Refusal :=
  .next (s.bellSq ring v)

/-- A write to CQ_HEAD. -/
def execCqHeadWrite (ring : Fin 128) (v : Word) (s : State) : Host.Outcome State Fault Refusal :=
  .next (s.bellCq ring v)

/-! ### FETCH (R315 to R317, R330) -/

/-- Do the rings fetch: from IDLE on, and not once the command cores have stopped (Table OPS-4, R386)? -/
def State.ringsUp (s : State) : Bool :=
  !(s.ops.st = .off || s.ops.st = .boot || s.ops.st = .selftest) && !s.ops.coresStopped

/-- May a ring fetch its next descriptor: one is there, its level is not stopped, and the completion ring has a free entry for every
command in flight and this one? One entry stays unused, so that a full ring does not look empty (log 47). The reads of a fetch
begin and end within its step, so that no read tag of R329 is outstanding between two steps (log 47). -/
def State.mayFetch (s : State) (r : Nat) : Bool :=
  let q := s.ring r
  let d := s.depth r
  s.ringsUp && q.st = .running && q.sqHead != q.sqTail && !s.cmd.bpLevels.getLsbD (s.level r)
    && decide (q.inFlight + (q.cqTail + d - q.cqHead) % d < d - 1)

/-- The payload of a descriptor: its own bytes with INLINE, else those read at PAYLOAD_ADDR. -/
def payloadOf (desc payload : Bytes) : Bytes :=
  let n := pf desc 6 2
  if (pb desc 2).testBit 0 then (desc.drop 32).take (min n 56) else padTo n payload

/-- The reads of a descriptor, its payload and its signature complete; no descriptor where the read of it failed. -/
def State.fetch (s : State) (r : Fin 128) (desc : Option Bytes) (payload sig : Bytes) : State :=
  match desc with
  | none => s.modRing r fun q => { q with st := .fault, err := 4 }
  | some d =>
    let d := padTo 128 d
    let us := if pf d 24 4 = 0 then (s.reg .cmdTimeoutDef).toNat else pf d 24 4
    let q := s.ring r
    let bell := match q.bells with | (_, t) :: _ => t | [] => q.dbAt
    let s := s.modRing r fun q => { q with
      sqHead := (q.sqHead + 1) % s.depth r, inFlight := q.inFlight + 1
      bells := match q.bells with | (k, t) :: rest => if k ≤ 1 then rest else (k - 1, t) :: rest | [] => [] }
    let f : Flight := {
      no := s.cmd.nextNo, ring := r, desc := d, payload := payloadOf d payload, sig := padTo (pf d 28 4) sig
      dbAt := bell, deadline := s.now + 32000 * us }
    let s := s.modCmd fun c => { c with flights := c.flights ++ [f], nextNo := c.nextNo + 1 }
    (s.trace 1 7 r f.seq).queueItem f .parse

def execDescriptorFetch (ring : Fin 128) (desc : Option Bytes) (payload sig : Bytes) (s : State) : Host.Outcome State Fault Refusal :=
  if s.mayFetch ring then .next (s.fetch ring desc payload sig) else .next s

/-- PAYLOAD_READ_FAIL: the read of a payload or signature failed; that command completes ERROR and the ring goes on. -/
def execPayloadReadFail (ring : Fin 128) (seq : DWord) (s : State) : Host.Outcome State Fault Refusal :=
  match s.cmd.flights.find? fun f => f.ring = ring && f.seq = seq && f.work = .parse with
  | some f => .next (s.flightEnd f .error 0x80000010)
  | none => .next s

/-! ### Dispatch (R328, R329, R332) -/

/-- May a command be accepted now: has every mailbox that it is written to a free entry (R98), and is the module not on its way to IDLE
after it has become ACTIVE while NOT_READY (R443)? -/
def State.mboxReady (s : State) (f : Flight) : Bool :=
  !(s.ops.st = .stopping && s.ops.cause = 0x11) && (bitsIn 8 (s.mboxMask f.opcode f.payload)).all fun e => s.mboxFree e f.ring

/-- Has an earlier KEY_GRANT or KEY_RETIRE of the command's ring not reached its outcome (R352)? -/
def State.keyAhead (s : State) (f : Flight) : Bool :=
  let isKey := fun op => op = 0x0401 || op = 0x0402
  (s.cmd.flights.any fun x => x.ring = f.ring && decide (x.no < f.no) && isKey x.opcode)
    || s.cmd.handed.any fun h => h.src.ring.val = f.ring.val && isKey h.opcode

/-- Is a command the first of its ring that is neither accepted nor completed (R326)? -/
def State.isFirst (s : State) (f : Flight) : Bool := !(s.cmd.flights.any fun x => x.ring = f.ring && decide (x.no < f.no))

/-- Can a unit serve an item: cores PARSE and PLACE, the KMAC unit VERIFY, and the lanes VERIFY and the unwraps of grants; lane 0 serves
class 0 alone. -/
def State.serves (s : State) (u : Nat) (w : WorkItem) : Bool :=
  match s.flight w.no with
  | none => w.kind = .unwrap && decide (3 ≤ u) && (u != 3 || decide (12 ≤ w.level)) && s.sec.grants.any fun g => g.no = w.no
  | some f =>
    if u < 2 then
      !s.ops.coresStopped && match w.kind with
        | .parse => true
        | .place => s.isFirst f && s.mboxReady f
        | .verify | .unwrap => false
    else if u = 2 then w.kind = .verify && f.authKind = 1 && !s.keyAhead f
    else w.kind = .verify && f.authKind = 2 && (u != 3 || decide (12 ≤ w.level))

/-- The oldest item of the highest level among those a unit can serve. -/
def State.pick (s : State) (u : Nat) : Option WorkItem :=
  (s.cmd.ready.filter (s.serves u)).foldl (fun b w => match b with
    | none => some w
    | some x => if x.level < w.level then some w else some x) none

/-- Ring and SEQ of the command or grant behind an item. -/
def State.itemOwner (s : State) (w : WorkItem) : Option (Nat × DWord) :=
  match s.flight w.no with
  | some f => some (f.ring.val, f.seq)
  | none => (s.sec.grants.find? fun g => g.no = w.no).map fun g => (g.ring.val, g.src.seq)

/-- A unit that is free takes an item. A verification begins on the anchor and the TARGET_ID of that instant. -/
def State.dispatch (s : State) (u : Nat) : State :=
  match vget s.cmd.units u none, s.pick u with
  | none, some w =>
    let keys := match s.flight w.no with | some f => s.anchorRec f.keyId | none => none
    let gen := match s.flight w.no with | some f => (s.anchor f.keyId).otpGen | none => 0
    let begun := fun (f : Flight) => if f.no = w.no && w.kind = .verify then
        { f with anchor := keys.map fun r => (r.mldsa, r.p384), verGen := gen, verTarget := s.sec.targetId } else f
    let s := s.modCmd fun c => { c with
      ready := c.ready.filter fun x => !(x.no = w.no && x.kind = w.kind), units := vset c.units u (some w)
      flights := c.flights.map begun }
    match s.itemOwner w with
    | some (ring, seq) => s.trace 3 u ring seq
    | none => s
  | _, _ => s

/-- Commands whose deadline has passed while they waited on a ready list are withdrawn before any of them is dispatched (R327). -/
def State.withdrawLate (s : State) : State :=
  (s.cmd.flights.filter fun f => decide (f.deadline < s.now) && s.cmd.ready.any fun w => w.no = f.no).foldl (fun s f => s.flightTimeout f) s

def execWorkItemDispatch (unit : Fin 7) (s : State) : Host.Outcome State Fault Refusal := .next (s.withdrawLate.dispatch unit)

/-- The command at which a unit works, if its item is of a kind; and the unit set free. -/
def State.unitWork (s : State) (u : Nat) (k : WorkKind) : Option Flight :=
  match vget s.cmd.units u none with
  | some w => if w.kind = k then s.flight w.no else none
  | none => none

def State.unitFree (s : State) (u : Nat) : State := s.modCmd fun c => { c with units := vset c.units u none }

/-! ### PARSE (R318 to R321, R439, R488) -/

/-- Does a range of host memory cross a 4 KiB boundary (R319)? -/
def crosses (a n : Nat) : Bool := decide (4096 < a % 4096 + n)

/-- A reserved byte or bit is not 0; a field that Table CMD-2 says is 0 where it is not used counts as reserved (log 47). -/
def reservedSet (d : Bytes) : Bool :=
  let any := fun a n => ((d.drop a).take n).any fun b => b != 0
  decide (4 ≤ pb d 2) || any 96 16 || (!(pb d 2).testBit 0 && any 40 48) || (pb d 3 != 2 && any 88 8) || (pb d 3 != 1 && any 112 16)

/-- Table CMD-3, in order: the refusal of a descriptor, if any. `row` is its row of Table CMD-4 and `late` judges APPLY_AT of kind C; `addr` says
that an address is set which must be 0 (R456). -/
def descRefusal (d p : Bytes) (row : Option OpRow) (late : Bool) (addr : Bool := false) : Option (Status × Nat) :=
  let kind := pb d 3
  let inline_ := (pb d 2).testBit 0
  let n := pf d 6 2
  let sigLen := pf d 28 4
  if kind = 0 then some (.authFail, 1)
  else if 2 < kind then some (.authFail, 2)
  else if reservedSet d then some (.checkFail, 0x80000002)
  else match row with
    | none => some (.checkFail, 0x80000001)
    | some row =>
      if (if inline_ then 56 else 4096) < n ∨ ¬ row.len.ok p then some (.checkFail, 0x80000003)
      else if addr || (!inline_ && crosses (pf d 32 8) n) || (kind = 2 && (crosses (pf d 88 8) sigLen || sigLen = 0 || decide (4096 < sigLen)))
          || (kind = 1 && sigLen != 0) then some (.checkFail, 0x80000004)
      else if kind = 1 ∧ row.hybrid then some (.authFail, 3)
      else if row.kind = .immediate ∧ pf d 16 8 ≠ 0 then some (.checkFail, 8)
      else if row.kind = .control ∧ late then some (.timeout, 1)
      else none

/-- Is APPLY_AT later than the deadline (R327)? -/
def State.applyLate (s : State) (f : Flight) : Bool :=
  decide ((s.nt64.toNat : Int) + ((f.deadline : Int) - s.now) / 32 < f.applyAt.toNat)

/-- A standby refuses every opcode of its rings but LOG_READ and TWN_RESYNC (R439). -/
def State.standbyRefuses (s : State) (op : Nat) : Bool := s.pair && !s.twn.role && op != 0x0805 && op != 0x0501

/-- PARSE: the descriptor checks, and on a standby the refusal of every opcode but LOG_READ and TWN_RESYNC, before any
authentication work. -/
def State.parse (s : State) (f : Flight) : State :=
  match descRefusal f.desc f.payload (opRow f.opcode) (s.applyLate f) with
  | some (st, d) => s.flightEnd f st d
  | none =>
    if s.standbyRefuses f.opcode then s.flightEnd f .standby 0
    else s.queueItem f .verify

def execParse (core : Fin 2) (s : State) : Host.Outcome State Fault Refusal :=
  match s.ops.coresStopped, s.unitWork core .parse with
  | false, some f => .next ((s.unitFree core).parse f)
  | _, _ => .next s

/-! ### VERIFY (R337 to R340, R352) -/

/-- What keeps a command from verifying: DETAIL of AUTH_FAIL (Table AUT-7). A hybrid verification completes on the keys that it has begun
with (Table AUT-8). -/
def State.verifyFail (s : State) (f : Flight) : Option Nat :=
  if f.authKind = 1 then
    match (s.rep f.ring).key with
    | none => some 4
    | some k =>
      if k.keyId.toNat ≠ f.keyId then some 4
      else if s.tagOf k.key f.ring f.desc f.payload = (f.desc.drop 112).take 16 then none else some 6
  else hybridCheck (f.anchor.map fun k => { gen := f.verGen, mldsa := k.1, p384 := k.2, mac := [] }) f.sig 1 "NDZ CMD"
    (s.message f.ring f.desc f.payload) (some f.keyId)

/-- VERIFY on a unit: the KMAC unit or a lane counts its work. -/
def State.verify (s : State) (u : Nat) (f : Flight) : State :=
  let s := if u = 2 then s.count .schKmacCnt else s.count .schLaneCnt (u - 3)
  match s.verifyFail f with
  | some d => (s.trace 5 u f.ring f.seq).flightEnd f .authFail d
  | none =>
    let s := s.modCmd fun c => { c with flights := c.flights.map fun x => if x.no = f.no then { x with verified := true } else x }
    (s.trace 4 u f.ring f.seq).queueItem f .place

def execVerify (unit : Fin 7) (s : State) : Host.Outcome State Fault Refusal :=
  match s.unitWork unit .verify with
  | some f => .next ((s.unitFree unit).verify unit f)
  | none => .next s

/-! ### PLACE (R326, R343, R346, R352, R386, R440) -/

/-- Authority at PLACE, judged before replay (log 47): the session key's window, or the anchor's validity and what it may sign. -/
def State.authority (s : State) (ring keyId authKind op : Nat) (p : Bytes) : Option Nat :=
  if authKind = 1 then s.sessionRefusal ring keyId
  else if s.anchorValid keyId && s.maySign keyId op p then none else some 8

/-- The replay check of R346, and the conditions under which a grant is accepted (R350, R351). -/
def State.replayRefusal (s : State) (ring : Nat) (seq applyAt : DWord) (op : Nat) (p : Bytes) : Option (Status × Nat) :=
  let r := s.rep ring
  if r.floorUnset && op != 0x0401 then some (.replay, 4)
  else if seq ≤ r.lastSeq then some (.replay, 1)
  else if applyAt ≠ 0 ∧ applyAt.toNat + 1000000 * s.lv .secReplayWin 0 0 31 0 < s.nt64.toNat then some (.replay, 2)
  else if op = 0x0401 then s.grantRefusal ring false p
  else if op = 0x0405 then s.grantRefusal ring true p
  else none

/-- The remembered completion of a command that the other module of the pair accepted, or this one (R440). -/
def State.pastOf (s : State) (ring : Nat) (seq : DWord) : Option PastCmd :=
  if s.leads && decide (seq ≤ (s.rep ring).lastSeq) then s.twn.past.find? fun p => p.ring = ring && p.seq = seq else none

/-- May the rings carry out a command in HALTED (R386)? -/
def haltOk (op : Nat) : Bool := op = 0x0805 || op = 0x0901 || op = 0x0902 || op = 0x0614

/-- Are accepted commands of an opcode mirrored at PLACE? Kind C is mirrored with its TAKE_IDX where it is written to its engine, a clear
request as its evaluation, a command with bytes to read from the host where it has read them, and TWN_RESYNC by its own meaning
(log 33). -/
def mirroredAtPlace (op : Nat) : Bool :=
  match opRow op with
  | some row => row.kind != .control && !([0x0501, 0x0602, 0x0205, 0x0901, 0x0910].contains op)
  | none => false

/-- What acceptance sets in a ring's replay state: LAST_SEQ takes SEQ (R346), and a session grant sets its own (R350). -/
def State.seqTaken (s : State) (ring : Fin 129) (seq : DWord) (op : Nat) (p : Bytes) : State :=
  let s := s.setLastSeq ring.val seq
  if op = 0x0401 then s.grantTaken ring.val seq p else s

/-- Acceptance: LAST_SEQ takes SEQ, a class-0 command's latency is kept, and the block that acts gets the command. -/
def State.accept (s : State) (f : Flight) : State :=
  let r := f.ring.val
  let ns := (s.now - f.dbAt) / 32
  let s := s.flightLeave f
  let s := s.seqTaken f.src.ring f.seq f.opcode f.payload
  let s := if s.ringClass r = 0 then s.keepMax (if f.authKind = 1 then .schC0MaxS else .schC0MaxH) 0 ns else s
  let s := s.modCmd fun c => { c with handed := c.handed ++ [{ src := f.src, opcode := f.opcode, payload := f.payload, at_ := s.now }] }
  let s := s.trace 6 7 r f.seq
  if mirroredAtPlace f.opcode then s.mirror f.src f.opcode f.payload 0 else s

/-- What keeps a verified command of a ring from being authentic at PLACE: its authority, and for a hybrid command the anchor that it was
verified with, which must still be the one of its slot (R343, Table AUT-8); under another TARGET_ID than the one of now its tag or its
signatures do not verify (DEDUCED from R338, log 36). -/
def State.placeAuth (s : State) (f : Flight) : Option Nat :=
  match s.authority f.ring f.keyId f.authKind f.opcode f.payload with
  | some d => some d
  | none =>
    if f.authKind ≠ 1 && (s.anchor f.keyId).otpGen ≠ f.verGen then some 8
    else if f.verTarget ≠ s.sec.targetId then some (if f.authKind = 1 then 6 else 11)
    else none

/-- PLACE. What would arm or start while the device is STOPPING is refused here (R383). -/
def State.place (s : State) (f : Flight) : State :=
  if s.standbyRefuses f.opcode then s.flightEnd f .standby 0
  else match s.placeAuth f with
  | some d => s.flightEnd f .authFail d
  | none =>
    match s.pastOf f.ring f.seq with
    | some p => (s.flightLeave f).writeEntry f.src f.opcode (Status.ofCode p.status) 0x80000020 p.appliedAt
    | none =>
      match s.replayRefusal f.ring f.seq f.applyAt f.opcode f.payload with
      | some (st, d) => s.flightEnd f st d
      | none =>
        if s.ops.st = .halted && !haltOk f.opcode then s.flightEnd f .error 5
        else if s.ops.st = .stopping && (f.opcode = 0x0610 || f.opcode = 0x0611) then s.busyStop.flightEnd f .busyStopping 0
        else if !s.mboxReady f then s.queueItem f .place
        else s.accept f

def execPlace (core : Fin 2) (s : State) : Host.Outcome State Fault Refusal :=
  match s.ops.coresStopped, s.unitWork core .place with
  | false, some f => .next ((s.unitFree core).place f)
  | _, _ => .next s

/-! ### Deadlines (R327) -/

/-- COMMAND_TIMEOUT: the deadline of a command passes while it waits on a ready list. -/
def execCommandTimeout (ring : Fin 128) (seq : DWord) (s : State) : Host.Outcome State Fault Refusal :=
  match s.cmd.flights.find? fun f => f.ring = ring && f.seq = seq && s.cmd.ready.any fun w => w.no = f.no with
  | some f => .next ((s.advanceTo f.deadline).flightTimeout f)
  | none => .next s

/-! ### Enabling, draining (R313, R314, R317) -/

/-- Rings of class 0 other than `r` that are enabled or draining. -/
def State.class0Rings (s : State) (r : Nat) : Nat :=
  ((List.range 128).filter fun i => i != r && (s.ring i).st != .disabled && s.ringClass i = 0).length

/-- ENABLE of a ring's configuration. -/
def State.setEnable (s : State) (r : Nat) (on : Bool) : State :=
  s.setReg .cmdRingCfg r 0 (withBits (s.reg .cmdRingCfg r) 31 31 (if on then 1 else 0))

/-- The checks of Table CMD-1: the code of the first that fails, 0 where all pass. -/
def State.enableCheck (s : State) (r : Nat) : Nat :=
  let d := bitsOf (s.reg .cmdRingCfg r) 4 0
  if (s.reg .cmdSqBase r).toNat % 4096 ≠ 0 ∨ (s.reg .cmdCqBase r).toNat % 4096 ≠ 0 then 1
  else if d < 4 ∨ 16 < d then 2
  else if s.ringClass r = 0 ∧ 8 ≤ s.class0Rings r then 3
  else 0

/-- ENABLE written 1. On a RUNNING or FAULT ring it changes nothing (log 47). -/
def State.ringEnable (s : State) (r : Nat) : State :=
  match (s.ring r).st with
  | .draining => (s.modRing r fun q => { q with err := 8 }).busyStop
  | .disabled =>
    let e := s.enableCheck r
    if e = 0 then
      (s.setEnable r true).modRing r fun q => { q with
        st := .running, err := 0, sqHead := 0, sqTail := 0, bells := [], cqHead := 0, cqTail := 0, phase := true
        bp := s.cmd.bpLevels.getLsbD (s.level r) }
    else (s.setEnable r false).modRing r fun q => { q with err := e }
  | _ => s

def execRingEnable (ring : Fin 128) (s : State) : Host.Outcome State Fault Refusal := .next (s.ringEnable ring)

/-- ENABLE written 0: fetching stops, and every command not yet accepted completes ABORTED, but for one that PLACE has in its hands. -/
def State.ringDisable (s : State) (r : Nat) : State :=
  match (s.ring r).st with
  | .running | .fault =>
    let placing := fun (f : Flight) => s.cmd.units.toList.any fun u => u.any fun w => w.no = f.no && w.kind = .place
    let out := s.cmd.flights.filter fun f => f.ring.val = r && !placing f
    let s := (s.setEnable r false).modRing r fun q => { q with st := if q.st = .running then .draining else q.st, bp := false }
    out.foldl (fun s f => s.flightEnd f .aborted 0) s
  | _ => s

def execRingDisable (ring : Fin 128) (s : State) : Host.Outcome State Fault Refusal := .next (s.ringDisable ring)

/-- RING_DRAINED: the last completion of a ring that drains has been written. -/
def State.ringDrained (s : State) (r : Nat) : State :=
  let q := s.ring r
  if q.inFlight = 0 && (q.st = .draining || (q.st = .fault && !bitOf (s.reg .cmdRingCfg r) 31)) then
    s.modRing r fun q => { q with st := .disabled }
  else s

def execRingDrained (ring : Fin 128) (s : State) : Host.Outcome State Fault Refusal := .next (s.ringDrained ring)

end Sys2Proof.Machine
end

