-- ==== Sys2Proof/Machine/Twin.lean ====
section
/-! DEFINITION. Lichen pairs: heartbeats and roles, the interlock, PERIOD and ITEM frames, planned exchanges and what follows from a
twin that is late or lost (R421 to R444, R447). -/

namespace Sys2Proof.Machine

/-- The greater of two numbers. -/
def dmax (a b : DWord) : DWord := if a < b then b else a

/-! ### The heartbeat (R422) -/

/-- Is a heartbeat pulse sent: every executing engine has completed step 10 of Table ARC-4 in its latest period, and the firmware has
refreshed its liveness flag, in any state but HALTED? -/
def State.beats (s : State) : Bool :=
  s.pair && !s.ops.coresStopped && !(s.ops.st = .off || s.ops.st = .boot || s.ops.st = .halted)
    && ((List.range 8).all fun e => !s.executes e || (s.engN e).lastDone) && Config.firmwareLive s.now

/-- The width of the pulse in ns, by Table TWN-1. -/
def State.hbCode (s : State) : Nat :=
  let t := s.twn
  if t.role then (if t.swapReq || t.pathFault then 800 else 400)
  else if t.ready && !t.pathFault then 200 else 600

/-- HB_PULSE: each microsecond; no pulse is width 0. -/
def execHbPulse (s : State) : Host.Outcome State Fault Refusal :=
  let s := s.advanceTo (s.twn.hbAt + 32000)
  .next (s.modTwn fun t => { t with hbAt := s.now, hbWidth := if s.beats then s.hbCode else 0 })

/-! ### Clear requests judged with the twin (R438) -/

/-- What clears of the stacks that both modules have released: not one in which this module has latched a cause since its evaluation, nor one
whose originator stays tripped (R236, R238). -/
def State.stillClear (s : State) (r : ClearReq) (ok : Nat) : Nat :=
  s.keepAll (maskOf 16 fun k => (r.mask.toNat &&& ok).testBit k && (s.zone k).latchAt.all fun t => decide (t < r.evalAt))

/-- A clear request whose own result the module has kept ends with the stacks that the twin has released too, and that still clear; the
others of these count as refused by this module. -/
def State.endJoint (s : State) (r : ClearReq) (ok : Nat) : State :=
  let mask := r.mask.toNat
  let kept := s.stillClear r ok
  ((s.applyClear (mask &&& ok) kept).endClear r.src mask).finishClear r.src mask kept

/-- Clear requests that wait for the twin end with this module's own result: there is no READY twin any more. -/
def State.endJoints (s : State) : State :=
  (s.trp.clear.filter fun r => r.joint.isSome).foldl (fun s r => s.endJoint r (r.joint.getD 0).toNat) s

/-- Has the twin acknowledged the item with which a clear request of this source went out? -/
def State.itemAcked (s : State) (c : Src) (op : Nat) : Bool :=
  !((s.twn.outItems ++ s.twn.sentItems).any fun i => i.opcode = op && sameSrc i.src c)

/-- The clear requests whose evaluation the twin had acknowledged before it latched ZONES. -/
def State.resolveJoints (s : State) (zones : BitVec 16) : State :=
  (s.trp.clear.filter fun r => r.joint.isSome && s.itemAcked r.src 0x0602).foldl (fun s r =>
    s.endJoint r ((r.joint.getD 0) &&& ~~~ zones).toNat) s

/-! ### TWN_RESYNC and the start of a resynchronisation (R445, R448) -/

/-- Each TWN_RESYNC that waits completes: OK with the milliseconds elapsed, or ERROR. -/
def State.resyncEnd (s : State) (which : Src × Nat → Bool) (err : Option Nat) : State :=
  let l := s.twn.resyncCmd.filter which
  let s := s.modTwn fun t => { t with resyncCmd := t.resyncCmd.filter fun x => !which x }
  l.foldl (fun s x => match err with
    | some d => s.refuse x.1 0x0501 .error d
    | none => s.done x.1 0x0501 ((s.now - x.2) / 32000000)) s

/-- A standby begins to resynchronise. -/
def State.resyncStart (s : State) : State :=
  (s.count .twnResyncCnt).modTwn fun t => { t with
    ready := false, resync := true, resyncAt := s.now, resyncGot := 0, snapGot := 0, equalRun := 0, recs := [] }

/-- What steps 2 and 3 of Table TWN-6 bring has all arrived, with a snapshot of every engine that executes. -/
def State.resyncLoaded (s : State) : Bool :=
  s.twn.resyncGot = 7 && (List.range 8).all fun e => !s.executes e || s.twn.snapGot.getLsbD e

/-- TWN_RESYNC. The active module hands it to its twin as an item. -/
def State.twnResync (s : State) (c : Src) : State :=
  if !s.pair then s.refuse c 0x0501 .error 1
  else if s.twn.role then
    if s.twn.link ≠ .up then s.refuse c 0x0501 .error 3
    else (s.mirror c 0x0501 [] 0).modTwn fun t => { t with resyncCmd := t.resyncCmd ++ [(c, s.now)] }
  else (s.resyncStart).modTwn fun t => { t with resyncCmd := t.resyncCmd ++ [(c, s.now)] }

def execTwnResync (c : Src) (s : State) : Host.Outcome State Fault Refusal :=
  .next (s.obey c 0x0501 [] fun s => s.twnResync c)

/-- TWN_RESYNC_TIMEOUT: 10 s after its acceptance the oldest waiting TWN_RESYNC completes ERROR; the standby goes on. -/
def execTwnResyncTimeout (s : State) : Host.Outcome State Fault Refusal :=
  match s.twn.resyncCmd with
  | x :: _ => .next ((s.advanceTo (x.2 + 320000000000)).resyncEnd (fun y => sameSrc y.1 x.1) (some 2))
  | [] => .next s

/-! ### Roles (R421, R423, R424, R443, R444) -/

/-- Swap spores whose exchange has not come about end with ERROR, DETAIL 7 (R444). -/
def State.dropSwaps (s : State) : State :=
  let l := s.twn.swapSpore
  l.foldl (fun s x => s.sporeDone x.1 .error 7) (s.modTwn fun t => { t with swapSpore := [] })

/-- The role in force follows ROLE_IN, but for a conflict. A module that becomes ACTIVE while NOT_READY leaves ARMED and RUNNING; one
that gives the role up in a planned exchange is READY at once. Item numbers go on where the other module's stand. -/
def State.setRole (s : State) : State :=
  let role := s.twn.roleIn && !s.twn.conflict
  if role = s.twn.role then s
  else
    let was := s.twn.ready
    let planned := s.twn.swapReq
    let s := if role then s else s.endJoints
    let s := if planned then s else s.dropSwaps
    let s := (s.count .twnSwitchCnt).modTwn fun t => { t with
      role := role, ready := role || (planned && !t.pathFault), swapReq := false, resync := false, equalRun := 0, recs := []
      serving := false, resyncOut := [], resyncBytes := 0, snapDue := false, snapLeft := 0
      outItems := [], sentItems := [], itemNo := dmax t.itemNo t.rxItem, rxItem := dmax t.itemNo t.rxItem, itemBuf := [] }
    let s := s.notify
    if role && s.pair && !was && (s.ops.st = .armed || s.ops.st = .running) then s.toStopping 0x11 else s

/-- A ROLE_IN pulse by its width: ACTIVE, STANDBY, or no valid pulse. -/
def rolePulse (ns : Nat) : Option Bool :=
  if 200 ≤ ns ∧ ns ≤ 300 then some false else if 700 ≤ ns ∧ ns ≤ 800 then some true else none

/-- ROLE_IN_PULSE: two consecutive pulses of a new width change the role. -/
def execRoleInPulse (widthNs : Nat) (s : State) : Host.Outcome State Fault Refusal :=
  match rolePulse widthNs with
  | none => .next (s.modTwn fun t => { t with roleCand := none })
  | some r =>
    let s := s.modTwn fun t => { t with pulseAt := s.now, arbLost := false }
    if r = s.twn.roleIn then .next (s.modTwn fun t => { t with roleCand := none })
    else if s.twn.roleCand = some r then
      .next ((s.modTwn fun t => { t with roleIn := r, roleCand := none, conflict := t.conflict && r }).setRole)
    else .next (s.modTwn fun t => { t with roleCand := some r })

/-- ARB_LOST: 5 µs without a valid pulse; the role stays. -/
def execArbLost (s : State) : Host.Outcome State Fault Refusal :=
  if s.pair then .next ((s.advanceTo (s.twn.pulseAt + 160000)).modTwn fun t => { t with arbLost := true, roleCand := none })
  else .next s

/-- OWN_N_CHANGE: a low OWN_N gives the module the output lands (R425); its rise ends the hold of R441. -/
def execOwnNChange (level : Bool) (s : State) : Host.Outcome State Fault Refusal :=
  let held := s.twn.haltHold.isSome
  let s := s.modTwn fun t => { t with own := !level, haltHold := if level then none else t.haltHold }
  if level && held then .next ((s.stopChannels).safJudge) else .next s

/-- HALT_HOLD_EXPIRY: OWN_N has not risen within two carrier periods, and the turn-off of R385 begins. -/
def execHaltHoldExpiry (s : State) : Host.Outcome State Fault Refusal :=
  match s.twn.haltHold with
  | some t => .next ((((s.advanceTo t).modTwn fun x => { x with haltHold := none }).stopChannels).safJudge)
  | none => .next s

/-! ### PERIOD frames (R431, R433, R434, R436) -/

/-- The state words of the blocks that R433 names. -/
def Engine.stateWords (n : Engine) : Bytes :=
  match n.image with
  | some img => (img.blocks.filter fun b => [0x43, 0x0E, 0x42, 0x12, 0x13, 0x14, 0x15].contains b.code).flatMap fun b =>
      ((n.bst.drop b.stateOff).take (blockState b)).flatMap fun w => leBytes 8 w.toNat
  | none => []

/-- Phase code of a profile channel (Table PRF-8). -/
def PrfPhase.code : PrfPhase → Nat
  | .rest => 0 | .move => 1 | .brake => 2

/-- The STATE field (R433): for each executing engine those words, and position, velocity, acceleration, target and phase of each enabled
profile channel, 32 bytes a channel (log 42). -/
def State.stateField (s : State) : Bytes :=
  ((List.range 8).filter s.executes).flatMap fun e =>
    (s.engN e).stateWords ++ ((List.range 8).filter (s.prfOn e)).flatMap fun c =>
      let x := vget (s.engN e).prf c {}
      leBytes 8 (unsignedOf 64 x.p) ++ leBytes 8 (unsignedOf 64 x.v) ++ leBytes 8 (unsignedOf 64 x.a) ++ leBytes 4 (unsignedOf 32 x.tgt)
        ++ leBytes 4 x.phase.code

/-- The digest of an engine's latest period in a PERIOD frame; several DIGEST blocks give the exclusive OR of theirs (DESIGN CHOICE,
log 61). -/
def Engine.digestWord (n : Engine) : DWord := n.digests.foldl (· ^^^ ·) 0

/-- The digests of an engine each for the period k − 1 of a PERIOD frame; 0 for one that does not execute. -/
def State.digestsOut (s : State) : List DWord := (List.range 8).map fun e => if s.executes e then (s.engN e).digestWord else 0

/-- The PERIOD frame of the present period (Table TWN-3). A standby that resynchronises, and that nothing has reached yet, carries RESYNC_REQ
as one byte 0x01 in place of STATE (DESIGN CHOICE, log 33). -/
def State.periodFrame (s : State) : Bytes :=
  let n := s.engN s.refEng
  let t := s.twn
  let flags := (if t.role then 1 else 0) + (if t.role || t.ready then 2 else 0) + if t.own then 4 else 0
  let req := t.resync && t.resyncGot = 0 && t.snapGot = 0
  let state : Bytes := if t.role then t.stateOut else if req then [1] else []
  let body := leBytes 8 n.idx.toNat ++ leBytes 8 n.ntB.toNat ++ leBytes 2 n.ownTrips.toNat ++ [0, 0]
    ++ (List.range 16).flatMap (fun i => leBytes 2 (lget n.ownSar i 0).toNat)
    ++ s.digestsOut.flatMap (fun d => leBytes 8 d.toNat)
    ++ leBytes 8 t.rxItem.toNat ++ state
  withCrc32c ([0x01, BitVec.ofNat 8 flags] ++ leBytes 2 (132 + state.length) ++ body)

/-- PERIOD_FRAME_SEND: at B_k + 100 ns, once in a period. A standby that is not READY begins to resynchronise (R445). -/
def execPeriodFrameSend (s : State) : Host.Outcome State Fault Refusal :=
  if s.pair && s.twn.link = .up && (s.tb (s.leadTb s.refEng)).run = .running && s.ops.st != .off && !s.twn.frameSent then
    let s := s.advanceTo ((s.engN s.refEng).atB + 3200)
    let s := if !s.twn.role && !s.twn.ready && !s.twn.resync then s.resyncStart else s
    let f := s.periodFrame
    .next (s.modTwn fun t => { t with sent := f :: t.sent, bytes := t.bytes + f.length, frameSent := true, digOut := s.digestsOut })
  else .next s

/-- The fields of a PERIOD frame. -/
def twinFrameOf (f : Bytes) : TwinFrame :=
  { flags := pb f 1, idx := BitVec.ofNat 64 (pf f 4 8), ntB := BitVec.ofNat 64 (pf f 12 8), zones := BitVec.ofNat 16 (pf f 20 2)
    sar := (List.range 16).map fun i => BitVec.ofNat 16 (pf f (24 + 2 * i) 2)
    digests := (List.range 8).map fun e => BitVec.ofNat 64 (pf f (56 + 8 * e) 8), ack := BitVec.ofNat 64 (pf f 120 8)
    req := !(pb f 1).testBit 0 && pf f 2 2 = 133 && pb f 128 = 1 }

/-- TWN_SKEW (R434): a standby beyond SKEW_MAX is NOT_READY. -/
def State.frameSkew (s : State) (t : TwinFrame) : State :=
  let n := s.engN s.refEng
  let skew : Int := (n.ntB.toNat : Int) - t.ntB.toNat - (s.reg .twnLat).toNat
  let s := s.setRegN .twnSkew 0 0 (unsignedOf 32 skew)
  if s.lv .twnCfg 0 0 23 16 < skew.natAbs then s.notReady else s

/-- The digests of the period before, as the own frame has carried them (R436), and step 6 of a resynchronisation (R445), which judges whole periods after the load. -/
def State.frameDigests (s : State) (t : TwinFrame) : State :=
  let own := if s.twn.frameSent then s.twn.digOut else s.digestsOut
  if (List.range 8).all fun e => lget t.digests e 0 = lget own e 0 then
    if s.twn.resync && s.resyncLoaded then s.modTwn fun x => { x with equalRun := x.equalRun + 1 } else s
  else
    let s := s.disagree
    if s.twn.resync && s.resyncLoaded && decide (s.twn.loadIdx + 1 < t.idx) then s.resyncStart else s

/-- Both modules ACTIVE: the one with the higher DEVICE_UID acts as STANDBY (R424). -/
def State.frameRole (s : State) (t : TwinFrame) : State :=
  let both := s.twn.roleIn && t.flags.testBit 0
  if both && decide (s.twn.twinUid < s.sec.uid) then (s.modTwn fun x => { x with conflict := true }).setRole
  else if both then s
  else (s.modTwn fun x => { x with conflict := false }).setRole

/-! ### What a resynchronising standby is sent (Table TWN-6, steps 2 and 3) -/

/-- The bytes that an item takes as RESYNC frames, each of at most 8 KiB; their layout is the model's (log 33). -/
def resyncBytesOf (i : ResyncItem) : Nat :=
  let n := match i with
    | .image _ bs => 1 + bs.length
    | .config regs => 12 * regs.length
    | .spore _ _ _ _ args => 11 + args.length
    | .grant _ _ _ p => 3 + p.length
    | .replay _ _ => 9
    | .opState _ => 1
    | .periodIdx _ _ => 9
    | .snapshot _ x => 1024 + 4 * x.signals.length + 8 * x.bst.length
  n + 16 * (n / 8176 + 1)

/-- What step 2 carries: the committed configuration with its images, the spore slots, the latest grant of every ring and plant key, the replay
states of the rings whose floor is set, the device state and the period indexes. -/
def State.resyncItems (s : State) : List ResyncItem :=
  (List.range 8).filterMap (fun e => (s.engN e).image.map fun img => .image (Fin.ofNat 8 e) img.raw)
    ++ [.config s.live]
    ++ (List.range 256).filterMap (fun i => (vget s.nt.slots i none).map fun p =>
        .spore (BitVec.ofNat 8 i) (BitVec.ofNat 8 p.action) p.lateOk p.instant p.args)
    ++ s.sec.lastGrants.map (fun g => .grant g.ring g.plant (BitVec.ofNat 4 g.grantor) g.payload)
    ++ ((List.range 129).filter fun r => !(s.rep r).floorUnset).map (fun r => .replay (Fin.ofNat 129 r) (s.rep r).lastSeq)
    ++ [.opState (BitVec.ofNat 4 s.ops.st.code)]
    ++ (List.range 8).map fun e => .periodIdx (Fin.ofNat 8 e) (s.engN e).idx

/-- The ACTIVE module takes up a RESYNC_REQ; one that its twin repeats while nothing has reached it is the same. In IDLE no snapshots
follow. -/
def State.resyncServe (s : State) (t : TwinFrame) : State :=
  if !s.leads || !t.req then s.modTwn fun x => { x with serving := x.serving && t.req && s.leads }
  else if s.twn.serving then s
  else
    let items := s.resyncItems
    s.modTwn fun x => { x with
      serving := true, resyncOut := items, resyncBytes := 0, snapLeft := 0
      snapDue := s.ops.st = .armed || s.ops.st = .running }

/-- RESYNC frames leave in what PERIOD and ITEM frames have left free of the line; once step 2 is complete the snapshots fall due, at each
engine's next boundary. -/
def State.resyncDrain : Nat → Nat → State → State
  | 0, _, s => s
  | fuel + 1, room, s =>
    match s.twn.resyncOut with
    | [] =>
      if s.twn.snapDue then
        s.modTwn fun t => { t with snapDue := false, snapLeft := BitVec.ofNat 8 (maskOf 8 s.executes) }
      else s
    | i :: rest =>
      let left := resyncBytesOf i - s.twn.resyncBytes
      if left ≤ room then
        State.resyncDrain fuel (room - left)
          (s.modTwn fun t => { t with resyncOut := rest, resyncBytes := 0, resyncSent := i :: t.resyncSent })
      else s.modTwn fun t => { t with resyncBytes := t.resyncBytes + room }

/-- The control period of REF_ENG that ends has carried RESYNC frames in the 1.25 bytes per ns of the link (R430) that its PERIOD and ITEM
frames have left over (R432). -/
def State.resyncLine (s : State) : State :=
  if s.leads && s.twn.link = .up then
    State.resyncDrain (s.twn.resyncOut.length + 1) (5 * s.tc s.refEng / 128 - s.twn.bytes) s
  else s

/-- The snapshot of an engine at a boundary, with the index of the period that ends there (Table TWN-6, step 3). -/
def Engine.snap (n : Engine) : EngineSnap :=
  { idx := n.idx, signals := n.signals, bst := n.bst, cross := n.crossPub.toList, bankB := n.bankB, brkCmd := n.brkCmd, fade := n.fade
    prf := n.prf.toList, gfm := n.gfm }

/-- Step 3: the ACTIVE module takes an engine's snapshot where one is due, without cost to its graph. -/
def State.snapTake (s : State) (e : Nat) : State :=
  if s.leads && s.twn.snapLeft.getLsbD e && s.executes e then
    let i : ResyncItem := .snapshot (Fin.ofNat 8 e) (s.engN e).snap
    s.modTwn fun t => { t with snapLeft := t.snapLeft &&& ~~~ BitVec.ofNat 8 (2 ^ e), resyncOut := t.resyncOut ++ [i] }
  else s

/-- Is a frame that of the present period, in time for its deadline of B_k+1 − 2 µs (R431)? -/
def State.frameInTime (s : State) (t : TwinFrame) : Bool :=
  t.idx = (s.engN s.refEng).idx
    && ((s.tb (s.leadTb s.refEng)).run ≠ .running || decide (s.now ≤ (s.engN s.refEng).atB + s.tc s.refEng - 64000))

/-- A good PERIOD frame of the twin. One of another period, or one that is late, tells of the twin's flags and of what it has received, and
is no frame k. -/
def State.twinFrame (s : State) (t : TwinFrame) : State :=
  let now := s.frameInTime t
  let s := s.resolveJoints t.zones
  let answered := fun (x : Src × Nat) => s.twn.role && t.flags.testBit 1 && s.itemAcked x.1 0x0501
  let s := s.resyncEnd answered none
  let s := s.modTwn fun x => { x with
    twin := if now then t else { x.twin with flags := t.flags, ack := t.ack }
    gotFrame := x.gotFrame || now, twinLate := x.twinLate && !now, sentItems := x.sentItems.filter fun i => decide (t.ack < i.no) }
  let late := s.twn.sentItems.any fun i => s.takeDue i.takeIdx
  let s := s.modTwn fun x => { x with
    alone := !t.flags.testBit 1 || (x.alone && !now) || (x.role && late)
    digErr := x.digErr && !(x.role && t.flags.testBit 1) }
  let s := if s.twn.role && !t.flags.testBit 1 then s.endJoints else s
  let s := (s.frameRole t).resyncServe t
  if now then (s.frameSkew t).frameDigests t else s

/-- PERIOD_FRAME_RECEIVE: a frame that fails its CRC is discarded and counted (R430). -/
def execPeriodFrameReceive (frame : Bytes) (s : State) : Host.Outcome State Fault Refusal :=
  if !s.pair || s.twn.link != .up then .next s
  else if !crc32cOk frame then .next (s.count .twnFrameErrCnt)
  else if pb frame 0 = 1 ∧ 132 ≤ frame.length ∧ pf frame 2 2 = frame.length then .next (s.twinFrame (twinFrameOf frame))
  else .next s

/-- TWIN_FRAME_DEADLINE: 2 µs before the next boundary. Without the twin's frame a standby is NOT_READY; the active module runs ALONE from
that boundary on (`twinMissing`). -/
def execTwinFrameDeadline (s : State) : Host.Outcome State Fault Refusal :=
  if s.pair && (s.tb (s.leadTb s.refEng)).run = .running && !s.twn.gotFrame then
    let s := s.advanceTo ((s.engN s.refEng).atB + s.tc s.refEng - 64000)
    .next (s.modTwn fun t => { t with twinLate := true, equalRun := 0 }).notReady
  else .next s

/-- At a boundary of REF_ENG: the twin's frame of the period that ends is missing, and the module runs ALONE (R431). -/
def State.twinMissing (s : State) : State :=
  if s.pair && !s.twn.gotFrame then
    let s := (s.modTwn fun t => { t with twinLate := true, alone := true, equalRun := 0 }).notReady
    if s.twn.role then s.endJoints else s
  else s

/-! ### ITEM frames at the standby (R432, R433, R438, R439) -/

/-- The standby follows its twin's operating state (R450), but not into HALTED; a mirrored start that waits for its TAKE_IDX enters RUNNING
itself. -/
def State.followState (s : State) (code : Nat) : State :=
  if code = s.ops.st.code then s
  else match s.ops.st, code with
    | .armed, 3 => s.toIdle 0x10
    | .running, 6 => s.toStopping 0x10
    | .running, 3 => s.toStopping 0x10
    | .idle, 4 => (s.enter .armed 0x10).enginesStart
    | .idle, 5 => ((s.enter .armed 0x10).enginesStart).enterRunning 0x10
    | .armed, 5 => if s.ops.starts = [] then s.enterRunning 0x10 else s
    | _, _ => s

/-- The slot of a scheduled action whose work an item carries, and its EXEC_NT. -/
def sporeOfItem (p : Bytes) (at_ : Nat) : DueSlot :=
  { slot := pb p 0, same := (pb p 2).testBit 1
    spore := { action := pb p 1, lateOk := false, late := (pb p 2).testBit 0, instant := 0, args := (p.drop 4).take 32, acceptAt := at_
               wroteAt := at_ } }

def sporeNtOfItem (p : Bytes) : DWord := BitVec.ofNat 64 (pf p 36 8)

/-- A clear evaluation of the active module: a stack is cleared if both modules find it released, and each counts its own refusals
(R438). The joint result is what the module remembers of the command (R440). -/
def State.twinClear (s : State) (c : Src) (mask ok : Nat) : State :=
  let own := s.cleared mask
  let kept := s.keepAll (ok &&& own)
  let s := forNums ((bitsIn 16 mask).filter fun k => !own.testBit k) (fun k s => s.count .trpClrRefCnt k) s
  (s.applyClear (ok &&& own) kept).finishClear c mask kept

/-- A staged write of the active module: the register's offset and its whole value. -/
def State.twinStage (s : State) (off v : Nat) : State :=
  match stageTarget s.stg.images off with
  | some (r, i, j, _) => s.stageWrote 1 (stagePut s.bankWin s.stg.stage r i j v) s.stg.images
  | none => s

/-- The bytes that earlier items have brought for this one. -/
def State.takeBuf (s : State) : Option Bytes × State :=
  (if s.twn.itemBuf = [] then none else some s.twn.itemBuf, s.modTwn fun t => { t with itemBuf := [] })

/-- An execution record of the active module: the standby records what it executes itself, and takes over the records of ROLE_SWAP, which
the ACTIVE module alone executes (R444, log 33). -/
def State.twinRecord (s : State) (p : Bytes) : State :=
  if pb p 9 = 4 then s.sporeRecord {
    nt := BitVec.ofNat 64 (pf p 0 8), slot := pb p 8, action := 4, result := pb p 10, late := (pb p 11).testBit 0
    same := (pb p 11).testBit 1, discard := (pb p 11).testBit 2, detail := BitVec.ofNat 32 (pf p 12 4) }
  else s

/-- An accepted command of the active module takes effect on the standby (R432): kind C at its TAKE_IDX, the others now. -/
def State.applyItem (s : State) (i : Item) : State :=
  let c := i.src
  let p := i.payload
  let take := some i.takeIdx
  match i.opcode with
  | 0x0101 | 0x0102 | 0x0103 => s.gfmCommand c i.opcode p take
  | 0x0110 => s.frdBankSwap c p take
  | 0x0120 => s.prfSetTarget c p take
  | 0x0801 => s.frdSatReadClear c p take
  | 0x0201 => s.stgToken c p
  | 0x0202 => s.stgWrite c p
  | 0x0203 => s.stgCheck c p
  | 0x0204 => s.stgCommit c p take
  | 0x0205 => let (b, s) := s.takeBuf; s.stgSave c p b
  | 0x0301 => s.acqArm c p
  | 0x0302 => s.acqTrigger c p
  | 0x0303 => s.acqStop c p
  | 0x0401 => (s.grantTaken c.ring.val c.seq p).grantGo c false p
  | 0x0402 => s.keyRetire c p
  | 0x0403 => s.anchorInstall c p
  | 0x0404 => s.anchorRevoke c p
  | 0x0405 => s.grantGo c true p
  | 0x0501 => s.twnResync c
  | 0x0601 => s.trpTrip c p
  | 0x0602 => s.twinClear c (pf p 0 2) (pf p 2 2)
  | 0x0610 => s.opsArm c
  | 0x0611 => s.opsStart c p take
  | 0x0612 => s.opsStop c p take
  | 0x0613 => s.opsDisarm c
  | 0x0614 => s.opsHalt c
  | 0x0700 =>
    if (sporeOfItem p s.now).spore.action = 1 then s.modTwn fun t => { t with seeFrom := take }
    else s.sporeWork (sporeOfItem p s.now) s.now (sporeNtOfItem p) take
  | 0x0701 => s.sporeLoad c p
  | 0x0702 => s.sporeCancel c p
  | 0x0703 => s.ntSet c p
  | 0x0710 => s.twinStage (pf p 0 4) (pf p 4 8)
  | 0x0711 => s.modTwn fun t => { t with itemBuf := t.itemBuf ++ p }
  | 0x0712 => s.followState (pb p 0)
  | 0x0802 => s.ostRun c p
  | 0x0713 => s.twinRecord p
  | 0x0803 => s.linkTrain c p
  | 0x0804 => s.reacquire c p
  | 0x0805 => s.done c 0x0805
  | 0x0901 => let (b, s) := s.takeBuf; s.fwLoad c p b
  | 0x0902 => s.fwActivate c p
  | 0x0910 => let (b, s) := s.takeBuf; s.graphLoad c p b
  | _ => s

/-- Does a module take an item into effect: in HALTED only what the rings may carry out there (R386)? -/
def State.takesItem (s : State) (op : Nat) : Bool :=
  s.ops.st != .halted || op = 0x0901 || op = 0x0902 || op = chunkItem

/-- An item received in order. LAST_SEQ of its ring becomes the greater of the two (R439). The first item of a resynchronisation sets
where the numbers go on. -/
def State.itemIn (s : State) (i : Item) : State :=
  let s := s.modTwn fun t => { t with rxItem := i.no }
  let r := i.src.ring.val
  let s := if i.src.seq = 0 then s else s.setLastSeq r (dmax (s.rep r).lastSeq i.src.seq)
  (if s.takesItem i.opcode then s.applyItem i else s).modMgt fun m => { m with tail := [] }

/-- ITEM_FRAME_RECEIVE: frames that fail their CRC are discarded and counted; the standby takes items in order. -/
def execItemFrameReceive (frame : Bytes) (s : State) : Host.Outcome State Fault Refusal :=
  if !s.pair || s.twn.link != .up then .next s
  else if !crc32cOk frame then .next (s.count .twnFrameErrCnt)
  else if s.twn.role then .next s
  else
    let i := itemOf frame
    if pb frame 0 = 2 && (i.no == s.twn.rxItem + 1 || (s.twn.resync && s.twn.resyncGot = 0 && decide (s.twn.rxItem < i.no))) then
      .next (s.itemIn i)
    else .next s

/-! ### The Rhizome link (R430) -/

/-- RHIZOME_TRAINING: a link that trains is up, with its one-way latency. -/
def execRhizomeTraining (latencyNs : Nat) (s : State) : Host.Outcome State Fault Refusal :=
  if s.twn.link = .training then .next ((s.modTwn fun t => { t with link := .up }).setRegN .twnLat 0 0 (latencyNs % 65536))
  else .next s

/-- RHIZOME_BLOCK_LOCK_LOSS: the link trains again. A TWN_RESYNC that waits completes ERROR, DETAIL 3. -/
def execRhizomeBlockLockLoss (s : State) : Host.Outcome State Fault Refusal :=
  if s.twn.link = .up then .next ((s.modTwn fun t => { t with link := .training }).resyncEnd (fun _ => true) (some 3)) else .next s

/-! ### A planned exchange (R444) -/

/-- ROLE_SWAP_REQUEST: at the first zero of REF_ENG's lead timebase at or after E + 10 µs the module sends SWAP_REQ. -/
def execRoleSwapRequest (s : State) : Host.Outcome State Fault Refusal :=
  match s.twn.swapSpore with
  | (d, t) :: rest =>
    let b := s.tb (s.leadTb s.refEng)
    if s.twn.swapReq || !s.twn.role || b.run != .running || decide (b.zeroAt < t) then .next s
    else .next (s.modTwn fun x => { x with swapReq := true, swapSpore := (d, s.now + 320000) :: rest })
  | [] => .next s

/-- ROLE_SWAP_CHECK: 10 µs after SWAP_REQ the record says whether ROLE_IN has changed. -/
def execRoleSwapCheck (s : State) : Host.Outcome State Fault Refusal :=
  match s.twn.swapSpore with
  | (d, t) :: rest =>
    if s.twn.role && !s.twn.swapReq then .next s
    else
      let s := s.advanceTo t
      let left := s.twn.role
      let s := s.modTwn fun x => { x with swapReq := false, swapSpore := rest }
      .next (if left then s.sporeDone d .error 7 else (s.sporeDone d .ok 0).dropSwaps)
  | [] => .next s

end Sys2Proof.Machine
end

