-- ==== Sys2Proof/Machine/Resync.lean ====
section
/-! DEFINITION. Resynchronisation of a standby: what RESYNC frames bring, the replay of the recorded periods and its end; and the arbiter
function of a module strapped for it (R428, R429, R445, R446). -/

namespace Sys2Proof.Machine

/-! ### Replay (Table TWN-6, steps 4 and 5) -/

/-- One recorded period runs again on the state that the period before it has left. -/
def State.replayOne (s : State) (e : Nat) (img : Image) (r : PeriodRec) : State :=
  let s := (s.publishWords e).fadeFinish e
  let s := s.modEng e fun n => { n with idx := r.idx, started := false, gfm := n.gfm.settle }
  let s := r.starts.foldl (fun s x => s.prfStart e x.chan x.target) s
  let s := r.inbox.foldl (fun s m => s.takeEntry e m) s
  let s := (s.fadeStep e).modEng e fun n => { n with swaps := [] }
  let s := (s.swaps e r.swaps false).prfStep e
  let s := s.modEng e fun n => { n with
    frame := Vector.ofFn fun (i : Fin 64) => lget r.frame i.val 0, sample := r.sample, pull := r.pull, started := true }
  let g := s.runGraph e img
  s.modEng e fun _ => g.eng

/-- The snapshot of an engine is loaded, and the periods after it are replayed. What the engine has been handed meanwhile and has not
taken yet stays. -/
def State.loadSnap (s : State) (e : Nat) (x : Machine.EngineSnap) : State :=
  let n := s.engN e
  match n.image with
  | none => s
  | some img =>
    let wait := n.swaps
    let s := s.modEng e fun n => { n with
      armReset := false, firstRun := false, idx := x.idx, signals := x.signals, bst := x.bst, started := false, bankB := x.bankB
      crossPub := Vector.ofFn fun (i : Fin 16) => lget x.cross i.val 0, crossWork := Vector.ofFn fun (i : Fin 16) => lget x.cross i.val 0
      brkCmd := x.brkCmd, fade := x.fade, prf := Vector.ofFn fun (i : Fin 8) => lget x.prf i.val {}, gfm := x.gfm, swaps := [] }
    let s := s.refreshWork e
    let recs := s.twn.recs.filter fun r => r.e = e && decide (x.idx < r.idx)
    let s := recs.foldl (fun s r => s.replayOne e img r) s
    let s := s.modEng e fun m => { m with idx := if recs = [] then x.idx else m.idx, swaps := wait }
    s.modTwn fun t => { t with
      recs := t.recs.filter fun r => r.e != e, snapGot := t.snapGot ||| BitVec.ofNat 8 (2 ^ e), loadIdx := (s.engN s.refEng).idx }

/-! ### RESYNC frames -/

/-- The committed configuration of the active module: each register at its place in the register file. -/
def stageOf (regs : List (Nat × DWord)) : RegFile :=
  regs.foldl (fun f x =>
    if 0x400000 ≤ x.1 then cellsWrite (fun _ => 0) f x.1 x.2
    else match findReg x.1 with
      | some (r, i, j) =>
        if r.row.acc = .rws ∨ safMask r ≠ 0 then regSet f r i j (x.2 &&& BitVec.ofNat 64 (r.row.mask ||| safMask r)) else f
      | none => f) []

/-- A grant of the active module: its epoch is taken over, and the key is unwrapped from this module's own recipient block (R349). -/
def State.resyncGrant (s : State) (ring : Fin 129) (plant : Bool) (anchor : BitVec 4) (payload : Bytes) : State :=
  let s := if plant then s else s.modRep ring fun r => { r with epoch := BitVec.ofNat 32 (pf payload 4 4), floorUnset := false }
  s.grantQueue { src := { noSrc with ring := ring }, plant := plant, ring := ring, payload := payload, grantor := anchor.toNat }

/-- What one RESYNC frame brings. -/
def State.resyncItem (s : State) : ResyncItem → State
  | .image e bytes =>
    match s.imageCheck bytes bytes.length with
    | .ok img => s.modStg fun g => { g with images := vset g.images e (some img) }
    | .error _ => s
  | .config regs =>
    let hot := s.ops.st = .armed || s.ops.st = .running
    let f := if hot then safSet.foldl (fun f r => regSet f r.1 r.2 0 (regGet s.live r.1 r.2)) (stageOf regs) else stageOf regs
    let s := s.modStg fun g => { g with stage := f }
    (s.applyStage s.nt64).modTwn fun t => { t with resyncGot := t.resyncGot ||| 1 }
  | .spore slot action lateOk instant args =>
    s.modNt fun n => { n with slots := vset n.slots slot.toNat (some {
      action := action.toNat, lateOk := lateOk, late := false, instant := instant, args := args, acceptAt := s.now, wroteAt := s.now }) }
  | .grant ring plant anchor payload => s.resyncGrant ring plant anchor payload
  | .replay ring lastSeq =>
    (s.modRep ring fun r => { r with floorUnset := false }).setLastSeq ring (dmax (s.rep ring).lastSeq lastSeq)
  | .opState code => (s.followState code.toNat).modTwn fun t => { t with resyncGot := t.resyncGot ||| 2 }
  | .periodIdx e idx =>
    let s := if s.executes e then s else s.modEng e fun n => { n with idx := idx }
    if e.val = s.refEng then s.modTwn fun t => { t with resyncGot := t.resyncGot ||| 4 } else s
  | .snapshot e snap => s.loadSnap e snap

/-- RESYNC_FRAME_RECEIVE: a frame that fails its CRC is discarded and counted (R430); a standby that resynchronises loads what another one
brings. -/
def execResyncFrameReceive (f : ResyncFrame) (s : State) : Host.Outcome State Fault Refusal :=
  if !s.pair || s.twn.link != .up then .next s
  else if !f.crcOk then .next (s.count .twnFrameErrCnt)
  else if !s.twn.role && s.twn.resync then .next (s.resyncItem f.item) else .next s

/-- RESYNC_COMPLETE: 16 consecutive periods with equal digests. A standby whose skew, tick or output path keeps it from being READY stays
as it is. -/
def State.resyncReady (s : State) : Bool :=
  s.pair && !s.twn.role && s.twn.resync && s.twn.link = .up && s.resyncLoaded && decide (16 ≤ s.twn.equalRun) && !s.twn.clkSkew
    && !s.twn.pathFault && decide ((signed 32 (s.reg .twnSkew).toNat).natAbs ≤ s.lv .twnCfg 0 0 23 16)

def execResyncComplete (s : State) : Host.Outcome State Fault Refusal :=
  if s.resyncReady then
    let s := s.modTwn fun t => { t with ready := true, resync := false, digErr := false, twinLate := false, recs := [] }
    .next (s.resyncEnd (fun _ => true) none)
  else .next s

/-! ### The arbiter (R428, R429) -/

def State.modArb (s : State) (f : ArbState → ArbState) : State := { s with arb := f s.arb }
def State.arbPort (s : State) (p : Nat) : ArbPort := vget s.arb.ports p {}
def State.modArbPort (s : State) (p : Nat) (f : ArbPort → ArbPort) : State :=
  s.modArb fun a => { a with ports := vset a.ports p (f (s.arbPort p)) }

/-- The heartbeat code nearest to a width, within ±50 ns (Table TWN-1); 0 is no valid pulse. -/
def hbDecode (ns : Nat) : Nat :=
  let near := fun w => decide (w ≤ ns + 50) && decide (ns ≤ w + 50)
  if near 200 then 200 else if near 400 then 400 else if near 600 then 600 else if near 800 then 800 else 0

/-- A port's latest code is READY, and its module has not failed. -/
def ArbPort.isReady (p : ArbPort) : Bool := !p.failed && p.width = 200

/-- The role of a port is withdrawn, and with it OWN_N; the other one gets it after T_BBM. -/
def State.arbGap (s : State) (from_ next : Nat) : State :=
  (s.modArbPort from_ fun p => { p with active := false, own := false }).modArb fun a => { a with bbm := some (Fin.ofNat 2 next, s.now) }

/-- With no module ACTIVE a READY module becomes ACTIVE; any module that sends pulses does so if none has been ACTIVE yet, or none READY
for 100 ms, port 0 first. -/
def State.arbGrant (s : State) : State :=
  if s.arb.bbm.isSome || (s.arbPort 0).active || (s.arbPort 1).active then s
  else
    let any := !s.arb.everActive || decide (s.arb.noReadyAt + 3200000000 ≤ s.now)
    let fit := fun p => (s.arbPort p).isReady
    let alive := fun p => !(s.arbPort p).failed
    let pick := if fit 0 then some 0 else if fit 1 then some 1 else if any && alive 0 then some 0 else if any && alive 1 then some 1 else none
    match pick with
    | some p => s.modArb fun a => { a with bbm := some (Fin.ofNat 2 p, s.now) }
    | none => s

/-- The instant since when no module has been READY. -/
def State.arbNoReady (s : State) : State :=
  if (s.arbPort 0).isReady || (s.arbPort 1).isReady then s.modArb fun a => { a with noReadyAt := s.now } else s

/-- ARBITER_HB_PULSE: a heartbeat pulse on a port. -/
def execArbiterHbPulse (port : Fin 2) (widthNs : Nat) (s : State) : Host.Outcome State Fault Refusal :=
  let w := hbDecode widthNs
  if !s.arb.strapped || !s.mgt.vmgt || w = 0 then .next s
  else
    let s := s.modArbPort port fun p => { p with width := w, lastAt := some s.now, failed := false, swapReq := w = 800 }
    .next s.arbNoReady.arbGrant

/-- ARBITER_HB_TIMEOUT: no valid pulse has begun for HB_TO. The ACTIVE module loses OWN_N and role; the other one follows after T_BBM if it
shows READY. -/
def execArbiterHbTimeout (port : Fin 2) (s : State) : Host.Outcome State Fault Refusal :=
  let p := s.arbPort port
  match p.lastAt with
  | some t =>
    if s.arb.strapped && !p.failed then
      let s := s.advanceTo (t + 3200 * s.lv .twnArbCfg 0 0 6 0)
      let s := s.modArbPort port fun p => { p with failed := true, swapReq := false }
      let other := 1 - port.val
      if p.active then
        if (s.arbPort other).isReady then .next (s.arbGap port other)
        else .next ((s.modArbPort port fun p => { p with active := false, own := false }).arbGrant)
      else .next s
    else .next s
  | none => .next s

/-- ARBITER_BBM_EXPIRY: T_BBM after OWN_N was released the chosen module becomes ACTIVE, if it still sends pulses. -/
def execArbiterBbmExpiry (s : State) : Host.Outcome State Fault Refusal :=
  match s.arb.bbm with
  | some (p, t) =>
    let s := (s.advanceTo (t + 320 * s.lv .twnArbCfg 0 0 21 16)).modArb fun a => { a with bbm := none }
    if (s.arbPort p).failed then .next s.arbGrant
    else .next ((s.modArbPort p fun x => { x with active := true, own := true }).modArb fun a => { a with everActive := true })
  | none => .next s

/-- ARBITER_SWAP_REQ: a SWAP_REQ pulse of the ACTIVE module exchanges the roles if the other one shows READY. -/
def execArbiterSwapReq (port : Fin 2) (s : State) : Host.Outcome State Fault Refusal :=
  let p := s.arbPort port
  if s.arb.strapped && p.active && p.swapReq && !p.failed && (s.arbPort (1 - port.val)).isReady && s.arb.bbm.isNone then
    .next ((s.modArbPort port fun p => { p with swapReq := false }).arbGap port (1 - port.val))
  else .next s

end Sys2Proof.Machine
end

