-- ==== Sys2Proof/Machine/Views.lean ====
section
/-! DEFINITION. What a read of each register shows: the read-only registers whose value the state holds elsewhere, and the status words
that the management port reports too (R37, R38, R109, R131, R158, R159, R196, R223, R245, R265, R283, R308, R309, R334, R335, R360,
R377, R394, R419, R420, R451, R462). -/

namespace Sys2Proof.Machine

/-- A bit of a status word. -/
def flagBit (n : Nat) (x : Bool) : Nat := if x then 2 ^ n else 0

/-! ### Status words -/

/-- GLB_CONFIG (Table ARC-8). -/
def State.glbConfigWord (s : State) : Nat :=
  if s.arb.strapped then 256
  else s.nStacks * 2 ^ 16 + s.lv .stgDeviceCfg 0 0 3 0

/-- GLB_STATE (Table OPS-9). -/
def State.glbStateWord (s : State) : Nat := s.ops.cause * 2 ^ 16 + s.ops.prev * 2 ^ 8 + s.ops.st.code

/-- GLB_FW_STATUS, and GLB_FW_VER of a slot. -/
def State.fwStatusWord (s : State) : Nat :=
  (s.fwSlot s.ops.runSlot).svn % 256 * 2 ^ 16 + flagBit 8 s.ops.fallback + s.ops.actSlot * 2 + s.ops.runSlot

def State.fwVerWord (s : State) (k : Nat) : Nat := if (s.fwSlot k).valid then (s.fwSlot k).version.toNat else 0

/-- SAF_FAULT (Table SAF-6). -/
def State.safFaultWord (s : State) : Nat := s.saf.chB.code * 2 ^ 16 + s.saf.chA.code * 2 ^ 8

/-- SEC_STATUS (Table AUT-13). -/
def State.secStatusWord (s : State) : Nat :=
  maskOf 8 (fun i => s.anchorValid (8 + i)) * 2 ^ 16 + maskOf 8 s.anchorValid * 2 ^ 8 + flagBit 3 s.sec.storeKey
    + flagBit 2 (s.reg .secTamperEvt ≠ 0) + flagBit 1 s.sec.retentionLost + flagBit 0 s.owned

/-- SEC_RING_KEY of a ring. -/
def Replay.keyWord (r : Replay) : Nat :=
  flagBit 30 r.floorUnset + match r.key with | some k => 2 ^ 31 + k.grantor % 16 * 2 ^ 24 + k.keyId.toNat | none => 0

/-- TWN_STATUS (Table TWN-11). -/
def State.twnStatusWord (s : State) : Nat :=
  let t := s.twn
  let link := match t.link with | .down => 0 | .training => 1 | .up => 2
  flagBit 13 t.twinLate + flagBit 12 t.pathFault + flagBit 11 t.clkSkew + flagBit 10 t.digErr + flagBit 9 t.conflict + flagBit 8 t.arbLost
    + link * 2 ^ 6 + flagBit 5 t.own + flagBit 4 s.lone + flagBit 3 t.resync + flagBit 2 (s.pair && (t.role || t.ready)) + flagBit 0 t.role

/-- Is a request of the management port being handled: a command, or a query that has arrived (R454)? -/
def State.mgtBusy (s : State) : Bool := s.mgt.cmd.isSome || s.mgt.inbox ≠ []

/-- MGT_STATUS (Table MGT-7), with its BUSY bit. -/
def State.mgtWord (s : State) (busy : Bool) : Nat :=
  let m := s.mgt
  m.eid.toNat * 2 ^ 8 + flagBit 4 m.anchors.isSome + flagBit 3 (s.ops.vinOk && s.ops.st != .off) + flagBit 2 busy
    + flagBit 1 m.notify + flagBit 0 (m.notify && s.lvb .mgtCfg 0 0 8)

def State.mgtStatusWord (s : State) : Nat := s.mgtWord s.mgtBusy

/-! ### Engines -/

/-- FRD_STATUS (Table FRD-15). -/
def State.frdStatusWord (s : State) (e : Nat) : Nat :=
  let n := s.engN e
  let st := if n.image.isNone then 0 else if s.executes e then 2 else 1
  flagBit 5 n.fault + flagBit 4 n.fade.isSome + flagBit 3 n.bankB + flagBit 2 (s.executes e && n.seenArmed) + st

/-- FRD_XFADE (Table FRD-16). DESIGN CHOICE: REMAINING counts the periods after the one in progress, so it reads 0 in period s + N
(log 18). -/
def Engine.xfadeWord (n : Engine) : Nat :=
  flagBit 26 n.fadeLast.1 + n.fadeLast.2 % 8192 * 2 ^ 13 + match n.fade with | some f => (f.len - f.n) % 8192 | none => 0

/-- FRD_SAT_SUM (Table FRD-17). -/
def Engine.satSumWord (n : Engine) : Nat := flagBit 31 (n.satHi ≠ 0) + flagBit 30 (n.satLo ≠ 0) + n.satCount

/-- FRD_MBOX_IN (Table FRD-18). -/
def Engine.mboxInWord (n : Engine) : Nat := n.inbox.length * 2 ^ 8 + (n.inbox.filter fun m => m.reserved).length

/-- A field of the committed image of an engine, 0 without one. -/
def State.imageWord (s : State) (e : Nat) (f : Image → Nat) : Nat := match (s.engN e).image with | some i => f i | none => 0

/-! ### The front end and the outputs -/

/-- ADC_STATUS (Table MEA-13). -/
def State.adcStatusWord (s : State) : Nat :=
  (match s.sar.conv with | .idle => 0 | .slot n _ _ => n * 16 + flagBit 0 (s.sar.startAt ≤ s.now) | .urgent _ => 5) + flagBit 1 s.sar.pending

/-- PWM_TB_STATUS (Table PWM-11). -/
def State.tbStatusWord (s : State) (t : Nat) : Nat :=
  let b := s.tb t
  let st := match b.run with | .stopped => 0 | .waiting => 1 | .running => 2
  flagBit 5 b.slotErr + flagBit 4 b.aligning + flagBit 3 b.inSync
    + flagBit 2 (b.run = .running && decide (b.zeroAt + 16 * b.prd ≤ s.now)) + st

/-- PWM_CH_STAT (Table PWM-16). -/
def Chan.statWord (c : Chan) : Nat := flagBit 3 c.pulled + flagBit 2 c.force.isSome + flagBit 1 c.out + flagBit 0 c.req

/-- GDL_STK_STAT (Table GDL-18). -/
def State.stkStatWord (s : State) (k : Nat) : Nat :=
  let g := s.gs k
  let dsr := match g.dsr with | .off => 0 | .ok => 1 | .fault => 2
  g.ost.code * 2 ^ 12 + g.link.code * 2 ^ 8 + dsr * 2 ^ 4 + flagBit 0 (if s.linkMode then g.retFlt else g.fltLow)

/-- TRP_STAT (Table TRP-11). -/
def Zone.statWord (z : Zone) : Nat :=
  min z.pullRun 255 * 2 ^ 24 + flagBit 3 (z.resumeB || z.resumeZ.isSome) + flagBit 2 z.clearPend + flagBit 1 z.offDone
    + flagBit 0 (z.causes != 0)

/-- SAF_PSET_CRC: of the parameter set as channel A holds it. -/
def State.psetCrc (s : State) : Nat :=
  if s.saf.chA.pset = [] then 0 else crc32c (s.saf.chA.pset.flatMap fun w => leBytes 4 w.toNat)

/-- CLK_STATUS (Table CLK-8). -/
def State.clkStatusWord (s : State) : Nat :=
  let c := s.clk
  let st := match c.st with | .acquire => 0 | .locked => 1 | .coasting => 2 | .slewing => 3 | .jumpWait => 4
  c.refActive % 4 * 2 ^ 10 + flagBit 9 c.qualified + flagBit 8 c.present + st

/-! ### Spores, rings, keys, the stage, acquisition and DMA -/

/-- A pending slot, a slot of a batch that has not executed among them. -/
def State.sporeOf (s : State) (i : Nat) : Option Spore :=
  match vget s.nt.slots i none with
  | some p => some p
  | none => (s.nt.batches.flatten.find? fun d => d.slot = i).map fun d => d.spore

/-- The slot NT_SPORE_SEL selects. -/
def State.sporeSel (s : State) : Option Spore := s.sporeOf (s.reg .ntSporeSel).toNat

/-- NT_SPORE_DESC. -/
def sporeDescWord : Option Spore → Nat
  | some p => 2 ^ 31 + flagBit 30 p.lateOk + p.action % 256
  | none => 0

/-- CMD_RING_STAT (Table CMD-14). -/
def Ring.statWord (q : Ring) : Nat :=
  let st := match q.st with | .disabled => 0 | .running => 1 | .draining => 2 | .fault => 3
  q.err * 2 ^ 16 + flagBit 3 q.bp + st

/-- CMD_STATUS: commands of class 0 in flight count from their doorbells on (R333). -/
def State.cmdStatusWord (s : State) : Nat :=
  let n := fun r => (s.ring r).inFlight + if (s.ring r).st = .running then ((s.ring r).sqTail + s.depth r - (s.ring r).sqHead) % s.depth r else 0
  min 8 (((List.range 128).filter fun r => s.ringClass r = 0).map n).sum * 2 ^ 16 + s.class0Rings 128

/-- The replay state that SEC_RING_SEL selects; values above 128 read as 128. -/
def State.ringSel (s : State) : Replay := s.rep (min 128 (s.reg .secRingSel).toNat)

/-- The record of a slot as SEC_ANCHOR and SEC_ANCHOR_FP show it: the one that stands, else the one that is stored. -/
def State.anchorStored (s : State) (k : Nat) : Option AnchorRec := (s.anchorRec k).or ((s.anchor k).copy0.or (s.anchor k).copy1)

/-- A byte of the identity record (Table AUT-12): DEVICE_UID, the encapsulation key, the P-384 point, and the certificate in a container of
Table AUT-2 with CONTEXT = 2; 0 behind it. -/
def identityRecord (uid : BitVec 128) (i : Nat) : Byte :=
  let j := i - 1297
  if i < 16 then BitVec.ofNat 8 (uid.toNat / 2 ^ (8 * i))
  else if i < 1297 then Config.identityByte uid i
  else if 3413 ≤ j then 0
  else if j = 0 then 1
  else if j = 1 then 0
  else if j = 3 then 2
  else if 4 ≤ j ∧ j < 8 then 0
  else Config.identityByte uid i

/-- SEC_ANCHOR of a slot (Table AUT-15). -/
def State.anchorWord (s : State) (k : Nat) : Nat :=
  let a := s.anchor k
  flagBit 31 (s.anchorValid k) + a.otpGen % 16 * 2 ^ 16 + (match s.anchorStored k with | some r => r.gen % 16 | none => 0) * 2 ^ 8 + flagBit 0 (k < 8)

/-- A word of a slot's fingerprint; 0 for an empty slot. -/
def State.anchorFpWord (s : State) (k w : Nat) : Nat :=
  match s.anchorStored k with
  | some a => pf (Config.sha384 (a.mldsa ++ a.p384)) (4 * w) 4
  | none => 0

/-- SEC_PKEY, with its EPOCH and EXPIRY. -/
def State.pkey (s : State) (j : Nat) (f : PlantKey → Nat) : Nat := match vget s.sec.plant j none with | some k => f k | none => 0

/-- Word `w` of a 128-bit value. -/
def wordOf (v : BitVec 128) (w : Nat) : Nat := v.toNat / 2 ^ (32 * w) % 2 ^ 32

/-- The staged value at STG_PEEK_ADDR. -/
def State.peekWord (s : State) : Nat :=
  match stageTarget s.stg.images (s.reg .stgPeekAddr).toNat with
  | some (r, i, j, upper) =>
    let v := if r = .frdParam then paramGet s.stg.stage i (s.bankWin i) j else regGet s.stg.stage r i j
    if upper then v.toNat / 2 ^ 32 else v.toNat % 2 ^ 32
  | none => 0

/-- ACQ_STAT (Table ACQ-15). -/
def State.acqStatWord (s : State) (u : Nat) : Nat :=
  let a := s.acqN u
  let st := match a.st with | .idle => 0 | .armed => 1 | .triggered => 2 | .rearm => 3 | .hold => 4
  ((List.range (s.segCount u)).filter fun i => vget a.segs i .empty = .empty).length * 2 ^ 16 + a.cur % 256 * 2 ^ 8 + st

/-- DMA_CH_STAT (Table ACQ-17). -/
def DmaChan.statWord (c : DmaChan) : Nat :=
  let st := match c.st with | .idle => 0 | .run => 1 | .wait => 2 | .aborting => 3 | .error => 4
  c.code % 65536 * 2 ^ 16 + flagBit 7 c.lastBeat + st

/-! ### Read-only registers -/

/-- The registers of the engines. -/
def State.roFrd (s : State) (r : Reg) (e j : Nat) : Nat :=
  let n := s.engN e
  let ch := vget n.prf j {}
  match r with
  | .frdStatus => s.frdStatusWord e
  | .frdImageId => s.imageWord e fun i => i.imageId.toNat
  | .frdImageVer => s.imageWord e fun i => i.version.toNat
  | .frdCostCrit => s.imageWord e fun i => i.costCrit
  | .frdCostTotal => s.imageWord e fun i => i.costTotal
  | .frdTc => if s.stg.committed then s.tc e else 0
  | .frdXfade => n.xfadeWord
  | .frdSatSum => n.satSumWord
  | .frdMboxIn => n.mboxInWord
  | .frdMboxOut => (vget n.mboxCap j 0).toNat
  | .frdSatFlags => pf n.satBytes (4 * j) 4
  | .frdPrfStatus => ch.phase.code
  | .frdPrfPos => (s.prfPos e n j).toNat
  | .frdPrfVel => unsignedOf 32 (ch.v / 2 ^ 32)
  | .frdPrfTgt => unsignedOf 32 ch.tgt
  | _ => (s.reg r e j).toNat

/-- The registers of the front end, the outputs and the trips. -/
def State.roPath (s : State) (r : Reg) (i : Nat) : Nat :=
  match r with
  | .decStatus => maskOf 20 fun g => (vget s.meas.groups g {}).dumping
  | .adcStatus => s.adcStatusWord
  | .pwmTbStatus => s.tbStatusWord i
  | .pwmPherr => unsignedOf 32 (s.tb i).phErr
  | .pwmZeroNt => (s.tb i).zeroNt.toNat
  | .pwmCmpa => (s.chan i).cmpA.toNat
  | .pwmCmpb => (s.chan i).cmpB.toNat
  | .pwmChStat => (s.chan i).statWord
  | .gdlFltLevel => maskOf 8 fun k => (s.gs k).fltLow
  | .gdlStkStat => s.stkStatWord i
  | .trpInLevel => maskOf 16 s.tripActive
  | .trpTripped => s.tripMask
  | .trpRecFill => s.trp.recs.length
  | .trpRec => (s.trpRecWord i).toNat
  | .trpTclkSrc => flagBit 0 s.trp.clkByZero
  | .trpCmpAct => maskOf 32 fun b => (s.dec (32 * i + b)).cmpActive
  | .trpStat => (s.zone i).statWord
  | .trpCause => (s.zone i).causes.toNat
  | .safStatus => s.safStatusWord
  | .safInLevel => maskOf 8 fun b => if b % 2 = 0 then (s.safPair (b / 2)).lineA else (s.safPair (b / 2)).lineB
  | .safFault => s.safFaultWord
  | .safTestCfg | .safInCfg | .safPsetId => (regGet s.live r i).toNat
  | .safPsetCrc => s.psetCrc
  | _ => (s.reg r i).toNat

/-- The registers of the clocks, network time and Ethernet. -/
def State.roTime (s : State) (r : Reg) (i j : Nat) : Nat :=
  match r with
  | .clkStatus => s.clkStatusWord
  | .clkPherr => unsignedOf 64 s.clk.err
  | .clkFreqOfs => unsignedOf 32 s.oscOffset
  | .ntStatus => flagBit 1 s.anySpore + flagBit 0 s.nt.valid
  | .ntTimeSec => s.nt.sec.toNat
  | .ntIncrAge => (s.now - s.nt.incrAt) / 32000000000
  | .ntSporePend => maskOf 32 fun b => s.slotPending (32 * i + b)
  | .ntSporeRecFill => s.nt.recs.length
  | .ntSporeRec => (s.sporeRecWord i).toNat
  | .ntSporeInstant => match s.sporeSel with | some p => p.instant.toNat | none => 0
  | .ntSporeDesc => sporeDescWord s.sporeSel
  | .ethPortStat => flagBit 2 (s.port i).anDone + flagBit 1 (s.port i).sync + flagBit 0 (s.port i).link
  | .ethTxtsFill => (s.port i).txts.length
  | .ethTxts => (s.txtsWord i j).toNat
  | _ => (s.reg r i j).toNat

/-- The registers of the rings, the scheduler, trust, the stage, acquisition, DMA, the pair and the management port. -/
def State.roSys (s : State) (r : Reg) (i j : Nat) : Nat :=
  let q := s.ring i
  match r with
  | .cmdStatus => s.cmdStatusWord
  | .cmdRingStat => q.statWord
  | .cmdSqPtr => q.sqTail * 2 ^ 16 + q.sqHead
  | .cmdCqPtr => q.cqHead * 2 ^ 16 + q.cqTail
  | .schStatus => maskOf 7 fun u => (vget s.cmd.units u none).isSome
  | .schTraceFill => s.cmd.trace.length
  | .schList => flagBit 31 (decide (64 ≤ s.listLen i)) + min 64 (s.listLen i)
  | .secStatus => s.secStatusWord
  | .secResetCnt => s.sec.resetCnt.toNat
  | .secSvn => s.sec.svn % 64
  | .secAnchor => s.anchorWord i
  | .secRingLastSeq => s.ringSel.lastSeq.toNat
  | .secRingEpoch => s.ringSel.epoch.toNat
  | .secRingKey => s.ringSel.keyWord
  | .secRingExpiry => match s.ringSel.key with | some k => k.expiry.toNat | none => 0
  | .secRingNonce => wordOf s.ringSel.nonce i
  | .secTargetId => wordOf s.sec.targetId i
  | .secUid => wordOf s.sec.uid i
  | .secPkey => s.pkey i fun k => 2 ^ 31 + flagBit 30 (s.plantCurrent k) + k.grantor % 16 * 2 ^ 24 + k.keyId.toNat
  | .secPkeyEpoch => s.pkey i fun k => k.epoch.toNat
  | .secPkeyExpiry => s.pkey i fun k => k.expiry.toNat
  | .secAnchorFp => s.anchorFpWord i j
  | .secIdWin => leNat ((List.range 4).map fun b => identityRecord s.sec.uid (4 * i + b))
  | .stgStatus => s.stgStatusWord
  | .stgGen => s.stg.gen.toNat
  | .stgFailCnt => s.stg.fails.length
  | .stgPeekData => s.peekWord
  | .stgTokenLease => if s.stg.token.isSome then (s.stg.leaseEnd - s.now + 31999999) / 32000000 else 0
  | .stgLastCommitNt => s.stg.lastNt.toNat
  | .stgCfgVer => s.cfgVersion
  | .stgFail => match s.stg.fails[i]? with | some x => x.code % 65536 + x.inst % 65536 * 2 ^ 16 + x.sub % 65536 * 2 ^ 32 | none => 0
  | .acqStat => s.acqStatWord i
  | .acqBase => s.acqBase i
  | .acqSegBytes => s.segBytes i
  | .acqSegFull => maskOf 32 fun b => vget (s.acqN i).segs (32 * j + b) .empty = .full
  | .dmaChStat => (s.dmaN i).statWord
  | .dmaDescHead => (s.dmaN i).head
  | .twnStatus => s.twnStatusWord
  | .mgtStatus => s.mgtStatusWord
  | _ => (s.reg r i j).toNat

/-- The registers of the global block. -/
def State.roGlb (s : State) (r : Reg) (i : Nat) : Nat :=
  match r with
  | .glbConfig => s.glbConfigWord
  | .glbPeriodIdx => (s.engN i).idx.toNat
  | .glbPeriodNt => (s.engN i).ntB.toNat
  | .glbState => s.glbStateWord
  | .glbArmBlock => s.armBlock
  | .glbStateNt => s.ops.stateNt.toNat
  | .glbFwStatus => s.fwStatusWord
  | .glbFwVer => s.fwVerWord i
  | .glbLogFirst => match s.logHeld.head? with | some x => x.recno.toNat | none => 0
  | .glbLogLast => match s.logHeld.getLast? with | some x => x.recno.toNat | none => 0
  | _ => (s.reg r i).toNat

/-- The registers that read their reset value until the boot chain has completed, because what they show is not loaded before
(log 51). -/
def bootReads : List Reg :=
  [.glbArmBlock, .secStatus, .secAnchor, .secRingNonce, .secTargetId, .secUid, .secAnchorFp, .acqStat, .acqBase, .acqSegBytes, .mgtStatus,
    .glbFwStatus, .glbFwVer, .glbLogFirst, .glbLogLast]

/-- A read-only register. -/
def State.roValue (s : State) (r : Reg) (i j : Nat) : Nat :=
  if s.ops.st = .boot ∧ r ∈ bootReads then regReset r i
  else match r.row.base / 0x10000 with
    | 0x0 => s.roGlb r i
    | 0x3 | 0x4 | 0x5 => s.roTime r i j
    | 0x6 | 0x7 | 0xa | 0xb | 0xc | 0xd => s.roPath r i
    | 0x8 => s.roFrd r i j
    | _ => s.roSys r i j

/-- A register of W1S bits shows the actions that are still under way (Table SCO-4). -/
def State.w1sValue (s : State) (r : Reg) (i : Nat) : DWord :=
  match r with
  | .gdlOstStart => BitVec.ofNat 64 ((s.reg r).toNat &&& s.ostMask)
  | .gdlTrain => BitVec.ofNat 64 ((s.reg r).toNat &&& s.trainMask)
  | .dmaChCtrl => if (s.dmaN i).st = .aborting then 2 else 0
  | _ => 0

/-- What a whole register shows (Table SCO-4); SEC_RING_SEL reads as 128 above it (R360). Registers that are captured with another one are judged where they are read. -/
def State.regValue (s : State) (r : Reg) (i j : Nat) : DWord :=
  match r.row.acc with
  | .rws => if r = .frdParam then paramGet s.live i (s.bankWin i) j else regGet s.live r i j
  | .ro => BitVec.ofNat 64 (s.roValue r i j)
  | .wo => 0
  | .w1s => s.w1sValue r i
  | _ => if r = .secRingSel then BitVec.ofNat 64 (min 128 (s.reg r i j).toNat) else s.reg r i j

end Sys2Proof.Machine
end

