-- ==== Sys2Proof/Machine/Mgmt.lean ====
section
/-! DEFINITION. The side-band management port: MCTP packets and control messages, the Galuholt messages, commands as ring 128, and
recovery (R452 to R461). Formats that the spec takes from DSP0236 are PRESUMED from it (log 53). -/

namespace Sys2Proof.Machine

/-! ### Transport (R452, R454) -/

/-- A Galuholt response to a peer (Table MGT-1). -/
def State.mgtSend (s : State) (peer : MctpPeer) (kind : Nat) (req : Byte) (status : Nat) (body : Bytes) : State :=
  s.mctpSend peer (mgtReply kind req status body)

/-- The kinds of Table MGT-2. -/
def mgtKinds : List Nat := [1, 2, 3, 4, 5, 6, 0x10]

/-- A complete message: a Galuholt message goes to its handler, one that arrives while another is being handled is answered BUSY, and one
of an unknown KIND is answered too; a control message waits for its row, and any other message type is discarded. -/
def State.mctpMessage (s : State) (peer : MctpPeer) (m : Bytes) : State :=
  if pb m 0 = 0x7F ∧ beNat ((m.drop 1).take 4) = 0xD8E5 then
    let g := m.drop 5
    let req := BitVec.ofNat 8 (pb g 1)
    if s.mgtBusy then s.mgtSend peer (pb g 0) req 1 []
    else if !mgtKinds.contains (pb g 0) then s.mgtSend peer (pb g 0) req 2 []
    else s.modMgt fun x => { x with
      peer := peer, inbox := x.inbox ++ [{ kind := pb g 0, reqId := req, body := (g.drop 8).take (pf g 4 2), peer := peer }] }
  else if pb m 0 = 0 then s.modMgt fun x => { x with peer := { peer with inst := pb m 1 % 32 } }
  else s

/-- A packet of a message in the making: it must be the next one of the same message. A message that breaks off, or that grows beyond 8192
bytes, is discarded and counted. -/
def State.mctpNext (s : State) (a : MctpAsm) (seq : Nat) (last : Bool) (data : Bytes) : State :=
  let all := a.data ++ data
  if seq ≠ (a.seq + 1) % 4 ∨ 8192 < all.length then
    (s.modMgt fun m => { m with asm := none }).count .mgtAsmErrCnt
  else if last then (s.modMgt fun m => { m with asm := none }).mctpMessage a.peer all
  else s.modMgt fun m => { m with asm := some { a with seq := seq, data := all } }

/-- A packet for the port with a good PEC: its MCTP header and up to 64 bytes behind the four bytes of the SMBus write. The port answers to
the null endpoint ID and to its own. -/
def State.mctpIn (s : State) (p : Bytes) : State :=
  let dst := pb p 5
  let fl := pb p 7
  let peer : MctpPeer := { addr := pb p 3 / 2, eid := BitVec.ofNat 8 (pb p 6), tag := nbits fl 3 0 }
  let first := fl.testBit 7
  let last := fl.testBit 6
  let seq := nbits fl 5 4
  let data := p.drop 8
  if pb p 4 % 16 ≠ 1 ∨ (dst ≠ 0 ∧ (s.mgt.eid = 0 ∨ dst ≠ s.mgt.eid.toNat)) then s
  else if 64 < data.length then (s.modMgt fun m => { m with asm := none }).count .mgtAsmErrCnt
  else if first then
    let s := if s.mgt.asm.isSome then s.count .mgtAsmErrCnt else s
    if last then (s.modMgt fun m => { m with asm := none }).mctpMessage peer data
    else s.modMgt fun m => { m with asm := some { peer := peer, seq := seq, data := data } }
  else match s.mgt.asm with
    | some a => if a.peer = peer then s.mctpNext a seq last data else s
    | none => s

/-- Is an SMBus write an MCTP packet for the port: to ADDR of MGT_CFG, with the command code and byte count of DSP0237 (log 53)? -/
def State.mctpMine (s : State) (p : Bytes) : Bool :=
  s.mgt.vmgt && pb p 0 == 2 * s.lv .mgtCfg 0 0 6 0 && pb p 1 == 0x0F && pb p 2 == p.length - 3 && decide (8 ≤ p.length)

/-- MCTP_PACKET: the SMBus write of a packet up to its PEC, and whether that is right; a wrong one is discarded and counted. -/
def execMctpPacket (packet : Bytes) (pecOk : Bool) (s : State) : Host.Outcome State Fault Refusal :=
  if !s.mctpMine packet then .next s
  else if !pecOk then .next (s.count .mgtPecErrCnt)
  else .next (s.mctpIn packet)

/-! ### Control messages -/

/-- A control response to the sender of the latest message: message type 0, the request's instance number, the command code and a completion
code. -/
def State.ctrlSend (s : State) (code cc : Nat) (body : Bytes) : State :=
  if s.mgt.vmgt then
    s.mctpSend s.mgt.peer ([0, BitVec.ofNat 8 s.mgt.peer.inst, BitVec.ofNat 8 code, BitVec.ofNat 8 cc] ++ body)
  else s

/-- Set Endpoint ID: the null and the broadcast ID are not assigned. -/
def execSetEndpointId (eid : Byte) (s : State) : Host.Outcome State Fault Refusal :=
  if eid = 0 ∨ eid = 255 ∨ s.mgt.vmgt = false then .next (s.ctrlSend 1 2 [])
  else .next ((s.modMgt fun m => { m with eid := eid }).ctrlSend 1 0 [0, eid, 0])

/-- Get Endpoint ID. -/
def execGetEndpointId (s : State) : Host.Outcome State Fault Refusal := .next (s.ctrlSend 2 0 [s.mgt.eid, 0, 0])

/-- Get MCTP Version Support: version 1.3. -/
def execGetMctpVersionSupport (s : State) : Host.Outcome State Fault Refusal := .next (s.ctrlSend 4 0 [1, 0xF1, 0xF3, 0xFF, 0])

/-- Get Message Type Support: type 0x7F alone. -/
def execGetMessageTypeSupport (s : State) : Host.Outcome State Fault Refusal := .next (s.ctrlSend 5 0 [1, 0x7F])

/-- Get Vendor Defined Message Support: one entry, by IANA enterprise number. -/
def execGetVendorDefinedMessageSupport (s : State) : Host.Outcome State Fault Refusal :=
  .next (s.ctrlSend 6 0 [0xFF, 1, 0x00, 0x00, 0xD8, 0xE5, 0, 0])

/-! ### Availability (Table MGT-3) -/

/-- The condition of the main side. -/
inductive MainSide where
  | unpowered | booting | normal | halted | dead
  deriving DecidableEq, Repr

def State.mainSide (s : State) : MainSide :=
  match s.ops.st with
  | .off => .unpowered
  | .boot | .selftest => if s.ops.vinOk then .booting else .unpowered
  | .halted => if !s.ops.vinOk then .unpowered else if s.ops.coresStopped then .dead else .halted
  | _ => if s.ops.vinOk then .normal else .unpowered

/-- Is a message kind other than COMMAND available? -/
def State.kindOpen (s : State) (kind : Nat) : Bool :=
  match s.mainSide with
  | .unpowered => kind = 1 || kind = 5 || kind = 6
  | .booting => kind = 1 || kind = 3 || kind = 5 || kind = 6
  | .normal | .halted => true
  | .dead => kind = 1 || kind = 2 || kind = 3 || kind = 5 || kind = 6

/-- Do the entries of an STG_WRITE name TWN_ARB_CFG alone? -/
def onlyArb (p : Bytes) : Bool := (List.range (pf p 0 2)).all fun k => pf p (8 + 8 * k) 4 % 2 ^ 22 = 0x110028

/-- Is an opcode available? Whether DRAM has passed its self-test while the main side boots is a free value (log 52). -/
def State.opOpen (s : State) (op : Nat) (p : Bytes) : Bool :=
  let key := op = 0x0401 || op = 0x0402
  match s.mainSide with
  | .unpowered => key || (s.arb.strapped && ((op = 0x0202 && onlyArb p) || op = 0x0201 || op = 0x0203 || op = 0x0204))
  | .booting => key || op = 0x0615 || (op = 0x0206 && Config.dramTested s.now)
  | .dead => key || op = 0x0615
  | .normal | .halted => true

/-! ### Queries (Table MGT-2) -/

/-- The message that a row handles leaves the inbox. -/
def State.takeMsg (s : State) (kind : Nat) (req : Byte) : State :=
  s.modMgt fun m => { m with inbox := m.inbox.eraseP fun x => x.kind = kind && x.reqId = req }

/-- The sender of the message that a row handles. -/
def State.msgPeer (s : State) (kind : Nat) (req : Byte) : MctpPeer :=
  match s.mgt.inbox.find? fun x => x.kind = kind && x.reqId = req with
  | some m => m.peer
  | none => s.mgt.peer

/-- A query is answered: BUSY while another request is being handled, 0x03 where it is not available, else with its body. -/
def State.query (s : State) (kind : Nat) (req : Byte) (act : State → State) (body : State → Bytes) : State :=
  if !s.mgt.vmgt then s
  else
    let peer := s.msgPeer kind req
    let s := s.takeMsg kind req
    if s.mgtBusy then s.mgtSend peer kind req 1 []
    else if !s.kindOpen kind then s.mgtSend peer kind req 3 []
    else (act s).mgtSend peer kind req 0 (body s)

/-- GET_STATUS, which is itself being handled: registers of an unpowered main side read 0. -/
def State.statusBody (s : State) : Bytes :=
  let main := fun v => if s.mainSide = .unpowered then 0 else v
  [s.mgtWord true, main s.glbStateWord, main (s.roValue .glbArmBlock 0 0), s.safStatusWord, s.safFaultWord, s.secStatusWord,
    main s.twnStatusWord].flatMap (leBytes 4)

def execGetStatus (reqId : Byte) (s : State) : Host.Outcome State Fault Refusal :=
  .next (s.query 1 reqId (fun s => s.modMgt fun m => { m with notify := false }) State.statusBody)

/-- GET_LOG: up to 16 records, behind the flush of R385. -/
def execGetLog (reqId : Byte) (body : Bytes) (s : State) : Host.Outcome State Fault Refusal :=
  .next (s.query 2 reqId State.nandTurn fun s => (s.logFrom (pf body 0 4) (min 16 (pb body 4))).flatMap LogRec.bytes)

/-- GET_SLOTS. -/
def State.slotsBody (s : State) : Bytes :=
  leBytes 4 s.fwStatusWord ++ leBytes 4 (s.fwVerWord 0) ++ leBytes 4 (s.fwVerWord 1) ++ leBytes 4 (s.sec.svn % 64)
    ++ leBytes 8 s.cfgVersion ++ leBytes 4 s.stgStatusWord

def execGetSlots (reqId : Byte) (s : State) : Host.Outcome State Fault Refusal := .next (s.query 3 reqId id State.slotsBody)

/-- Where the recovery buffer lies: the first 8 MiB of the general buffers of Table ACQ-12. DESIGN CHOICE: the spec names the region and not
its place (log 52). -/
def recBase : Nat := 0x380000000

/-- PUT_BLOCK writes part of the recovery buffer; a body that is not of its form writes nothing. -/
def State.putBlock (s : State) (body : Bytes) : State :=
  let o := pf body 0 4
  let bs := body.drop 8
  if o % 1024 = 0 ∧ 1 ≤ bs.length ∧ bs.length ≤ 1024 ∧ o + bs.length ≤ 8388608 then
    { s with dram := memWrite s.dram (recBase + o) bs }
  else s

def execPutBlock (reqId : Byte) (body : Bytes) (s : State) : Host.Outcome State Fault Refusal :=
  .next (s.query 4 reqId (fun s => s.putBlock body) fun _ => [])

/-- GET_REPLAY: the replay state of ring 128. -/
def State.replayBody (s : State) : Bytes :=
  let r := s.rep 128
  leBytes 8 r.lastSeq.toNat ++ leBytes 4 r.epoch.toNat ++ leBytes 4 r.keyWord
    ++ leBytes 8 (match r.key with | some k => k.expiry.toNat | none => 0) ++ leBytes 16 r.nonce.toNat ++ leBytes 16 s.sec.targetId.toNat
    ++ leBytes 16 s.sec.uid.toNat

def execGetReplay (reqId : Byte) (s : State) : Host.Outcome State Fault Refusal := .next (s.query 5 reqId id State.replayBody)

/-- GET_IDENTITY: bytes of the identity record. -/
def execGetIdentity (reqId : Byte) (body : Bytes) (s : State) : Host.Outcome State Fault Refusal :=
  .next (s.query 6 reqId id fun s =>
    (List.range (min 4096 (pf body 4 2))).map fun i => identityRecord s.sec.uid (pf body 0 4 + i))

/-! ### COMMAND (R456, R457) -/

/-- The row of a command that the port accepts: KEY_RETIRE of the session key of ring 128 alone (R456, log 52). -/
def mgtRow (op : Nat) (p : Bytes) : Option OpRow :=
  if op = 0x0402 ∧ pb p 0 ≠ 0 then none
  else if [0x0614, 0x0201, 0x0202, 0x0203, 0x0204, 0x0401, 0x0402].contains op then opRow op else portRow op

/-- Is an address field of a command not 0? -/
def mgtAddrSet (d p : Bytes) (op : Nat) : Bool :=
  (!(pb d 2).testBit 0 && pf d 32 8 != 0) || pf d 88 8 != 0 || ((op = 0x0203 || op = 0x0204) && pf p 8 8 != 0)

/-- A descriptor with its address fields 0, which the port judges by themselves. -/
def noAddr (d : Bytes) : Bytes :=
  let z := List.replicate 8 (0 : Byte)
  let d := d.take 88 ++ z ++ d.drop 96
  if (pb d 2).testBit 0 then d else d.take 32 ++ z ++ d.drop 40

/-- Is APPLY_AT of a command of the port later than its deadline (R327)? -/
def State.mgtLate (s : State) (d : Bytes) : Bool :=
  let us := if pf d 24 4 = 0 then (s.reg .cmdTimeoutDef).toNat else pf d 24 4
  decide (s.nt64.toNat + 1000 * us < pf d 16 8)

/-- The descriptor checks of a COMMAND message: Table CMD-3 in its order, with the addresses of R456 in its row for addresses. -/
def State.mgtDescRefusal (s : State) (d p : Bytes) : Option (Status × Nat) :=
  descRefusal (noAddr d) p (mgtRow (pf d 0 2) p) (s.mgtLate d) (mgtAddrSet d p (pf d 0 2))

/-- The controller's own copy of anchor `k`. -/
def anchorCopy (kept : List (Nat × Bytes × Bytes)) (k : Nat) : Anchor :=
  match kept.find? fun a => a.1 == k with
  | some (_, ml, ec) => Anchor.make k 0 ml ec
  | none => {}

/-- The device as the controller sees it: its own copies in place of the anchors. -/
def State.mgtAnchors (s : State) : State :=
  let kept := s.mgt.anchors.getD []
  s.modSec fun x => { x with anchors := Vector.ofFn fun (k : Fin 16) => anchorCopy kept k.val }

/-- What keeps a command from being authentic: DETAIL of AUTH_FAIL. Without a copy of an anchor a HYBRID command fails (R457). -/
def State.mgtAuth (s : State) (d p sig : Bytes) : Option Nat :=
  let op := pf d 0 2
  let keyId := pf d 4 2
  if pb d 3 = 1 then
    match (s.rep 128).key with
    | none => some 4
    | some k =>
      if k.keyId.toNat ≠ keyId then some 4
      else if s.tagOf k.key 128 d p ≠ (d.drop 112).take 16 then some 6
      else s.sessionRefusal 128 keyId
  else if s.mgt.anchors.isNone then some 8
  else
    match s.mgtAnchors.sigCheck sig 1 "NDZ CMD" (s.message 128 d p) (some keyId) with
    | some x => some x
    | none => s.mgtAnchors.authority 128 keyId 2 op p

/-- The header of a command on ring 128. -/
def mgtSrc (d : Bytes) : Src :=
  { ring := 128, seq := BitVec.ofNat 64 (pf d 8 8), applyAt := BitVec.ofNat 64 (pf d 16 8), keyId := BitVec.ofNat 16 (pf d 4 2)
    irq := (pb d 2).testBit 1 }

/-- A COMMAND message: the descriptor checks, availability, authentication and replay; an accepted one waits for its row to act and is
answered with its completion. -/
def State.mgtCommand (s : State) (peer : MctpPeer) (req : Byte) (body : Bytes) : State :=
  let d := padTo 128 body
  let inline_ := (pb d 2).testBit 0
  let rest := body.drop 128
  let n := if inline_ then 0 else pf d 6 2
  let p := payloadOf d (rest.take n)
  let sig := padTo (pf d 28 4) (rest.drop n)
  let op := pf d 0 2
  let c := mgtSrc d
  let s := s.modMgt fun m => { m with cmd := some { reqId := req, peer := peer, cmd := { src := c, opcode := op, payload := p, at_ := s.now } } }
  match s.mgtDescRefusal d p with
  | some (st, x) => s.refuse c op st x
  | none =>
    if !s.opOpen op p then s.refuse c op .error 0x80000030
    else match s.mgtAuth d p sig with
      | some x => s.refuse c op .authFail x
      | none =>
        match s.replayRefusal 128 c.seq c.applyAt op p with
        | some (st, x) => s.refuse c op st x
        | none =>
          if s.ops.st = .halted ∧ op = 0x0204 then s.refuse c op .error 5
          else
            let s := s.seqTaken 128 c.seq op p
            if mirroredAtPlace op then s.mirror c op p 0 else s

/-- COMMAND. A module that goes to IDLE because it became ACTIVE while NOT_READY leaves it waiting until it is there (R443). -/
def execCommand (reqId : Byte) (body : Bytes) (s : State) : Host.Outcome State Fault Refusal :=
  if !s.mgt.vmgt || (s.ops.st = .stopping && s.ops.cause = 0x11) then .next s
  else
    let peer := s.msgPeer 0x10 reqId
    let s := s.takeMsg 0x10 reqId
    if s.mgtBusy then .next (s.mgtSend peer 0x10 reqId 1 []) else .next (s.mgtCommand peer reqId body)

/-! ### Recovery (R374, R458) -/

/-- STG_RECOVER: the block in the recovery buffer, by the length and the CRC of the payload, is verified as STG_SAVE verifies its block
(log 52). -/
def State.stgRecover (s : State) (c : Src) (p : Bytes) : State :=
  let n := pf p 0 4
  if 8388608 < n then s.refuse c 0x0206 .checkFail 1
  else
    let bs := memRead s.dram recBase n
    if crc32c bs ≠ pf p 4 4 then s.refuse c 0x0206 .checkFail 3
    else match s.blockRefusal bs with
      | some (st, d) => s.refuse c 0x0206 st d
      | none => s.blockWrite c bs true

def execStgRecover (c : Src) (p : Bytes) (s : State) : Host.Outcome State Fault Refusal :=
  .next (s.acting c 0x0206 p fun s => s.stgRecover c p)

/-- CONFIG_BLOCK_WRITE_COMPLETE: both copies hold the oldest block; STG_SAVE completes, and STG_RECOVER completes and resets the main
side. -/
def execConfigBlockWriteComplete (s : State) : Host.Outcome State Fault Refusal :=
  match s.stg.writes with
  | w :: _ =>
    let s := s.blockWritten w
    if w.recover then .next ((s.complete w.src 0x0206 .ok 0 0).opsMainReset w.src)
    else .next (s.done w.src 0x0205)
  | [] => .next s

end Sys2Proof.Machine
end

