-- ==== Sys2Proof/Machine/Period.lean ====
section
/-! DEFINITION. Load points: the zeros and half-periods of the timebases, and what falls on them as boundaries of control periods: step 1
of Table ARC-4 for the engines that a timebase leads (R25 to R28, R68, R100, R165 to R167, R182, R193, R195, R239, R435). -/

namespace Sys2Proof.Machine

/-! ### A boundary, up to its commits -/

/-- The period that ends at a boundary: its words are published, units in PERIOD mode capture, a fade that has run its length ends, and
its digests are compared. -/
def State.periodEnd (s : State) (e : Nat) : State :=
  let n := s.engN e
  let s := s.publishWords e
  let s := if n.started then s.acqPeriod e n.ntB fun i => lget n.signals i 0 else s
  let s := s.modEng e fun n => { n with lastDone := !s.inPeriod e || s.twn.resync || (n.started && n.published && n.complete) }
  (s.fadeFinish e).digestCheck e

/-- The period index counts on (R25). `nt` is the NT value of the boundary. -/
def State.periodBegin (s : State) (e : Nat) (nt : DWord) : State :=
  s.modEng e fun n => { n with
    idx := n.idx + 1, ntB := nt, atB := s.now, started := false, published := true, complete := true, stall := 0
    gfm := n.gfm.settle }

/-- A template's stop request of Table GFM-4 takes the device to STOPPING at the next boundary. -/
def State.templateStop (s : State) (e : Nat) : State :=
  match (s.engN e).gfm.stopReq with
  | some cause =>
    let run := s.executes e && s.ops.st = .running
    let s := s.modGfm e fun g => { g with stopReq := none }
    if run then s.toStopping cause else s
  | none => s

/-- What a boundary brings before the shadow sets load, for the engines of a list: the end of the period before it, the commits of the
boundary (R100, R369), stop requests, and what the engines see from then on. -/
def State.boundaryA (s : State) (es : List Nat) (nt : DWord) : State :=
  let s := if es.contains s.refEng then
      let s := s.twinMissing.resyncLine
      s.modTwn fun x => { x with gotFrame := false, stateOut := s.stateField }
    else s
  let s := forNums es (fun e s => s.unfinished e) s
  let s := forNums es (fun e s => ((s.periodEnd e).snapTake e).periodBegin e nt) s
  let s := if s.pair && es.contains s.refEng then (s.itemsLate).itemsPeriod else s
  let s := forNums es (fun e s => s.commitsAt e) s
  let s := forNums es (fun e s => s.templateStop e) s
  let s := forNums es (fun e s => ((s.takeSeen e).prfHold e).refreshWork e) s
  if es.contains s.refEng && !s.commitHidden then s.modTwn fun x => { x with seeFrom := none } else s

/-! ### A boundary, after the load -/

/-- The place of a timebase's zeros on the slot grid: SLOT_OFS and the offsets of the timebases on the way to an NT source (Table PWM-6);
none without one. -/
def State.gridPhase (s : State) : Nat → Option Nat
  | 0 => let b := s.tb 0; if b.syncSrc = 2 then some (s.slotOfs + b.syncOfs) else none
  | t + 1 =>
    let b := s.tb (t + 1)
    if b.syncSrc = 2 then some (s.slotOfs + b.syncOfs)
    else if b.syncSrc = 1 then (s.gridPhase t).map (· + b.syncOfs)
    else none

/-- NT nanoseconds of a boundary as an input frame shows them: in a pair the nominal instant on the slot grid (R435). -/
def State.frameNt (s : State) (t : Nat) (half : Bool) (nt : DWord) : DWord :=
  match s.gridPhase t with
  | some ph =>
    if s.pair then
      let b := s.tb t
      let e := centred b.prd ((b.zeroNt.toNat : Int) - ph)
      BitVec.ofInt 64 ((b.zeroNt.toNat : Int) - e + if half then ((b.prd / 2 : Nat) : Int) else 0)
    else nt
  | none => nt

/-- The rest of step 1 of Table ARC-4 for one engine, in the order of R100: an engine that starts begins here (R68), the preset of R115, the
coefficients of the period, mailbox entries and profile starts, swap requests, the input frame, and the profile channels (R121). The
sample of the period becomes due (R139). -/
def State.boundaryB (s : State) (t : Nat) (half : Bool) (e : Nat) : State :=
  let run := s.executes e
  let n := s.engN e
  let s := if run && n.armReset then s.modEng e fun n => { n with armReset := false } else s
  let s := if run && n.firstRun && s.ops.st = .running then (s.prfPreset e).modEng e fun n => { n with firstRun := false } else s
  let s := s.fadeStep e
  let s := s.prfClearStart e
  let s := (s.takeWork e).takeSwaps e
  let s := s.latchFrame e (s.frameNt t half n.ntB) ((s.tb t).dbl && !half)
  let s := if s.executes e then s.prfStep e else s
  let s := forNums (s.servedBy e) (fun k s => s.modZone k fun z =>
    if z.resumeB then { z with resumeB := false, resumeZ := some s.now } else z) s
  s.modEng e fun n => { n with
    sample := [], sampleGrp := 0
    sampleDue := if s.executes e then some (s.now + s.lv .decTs 0 0 15 0 * s.tmod) else none }

/-! ### A load point -/

/-- Interval counts of the clear requests that wait for CLEARs on a stack's link (R237). -/
def State.linkIntervals (s : State) (k : Nat) : State :=
  { s with trp := { s.trp with clear := s.trp.clear.map fun r =>
      { r with links := r.links.map fun x => if x.k = k then { x with left := x.left.map (· - 1) } else x } } }

/-- The converter's triggers by a timebase event (R154, R155). -/
def State.sarAtLoad (s : State) (t : Nat) (half : Bool) : State :=
  if s.lv .adcCtrl 0 0 11 8 ≠ t then s
  else
    let sel := s.lv .adcCtrl 0 0 5 4
    let s := if sel = 2 ∨ (sel = 1 ∧ half = false) then s.sarTrigger else s
    if half && s.lvb .adcCtrl 0 0 13 then s.sarUrgent (bitsOf (s.reg .adcUrg) 3 0) else s

/-- The channels of a stack at a load point, with the off sequences of those that a commit has disabled, whose outer channels turn off at
once (R193), and, at a zero, the return
of a cleared stack (R239). -/
def State.stackLoad (s : State) (t : Nat) (half : Bool) (ofs : Nat) : State :=
  let back := !half && (s.zone t).resumeZ.any fun b => decide (b < s.now)
  let s := if back then s.modZone t fun z => { z with resumeZ := none } else s
  let off := maskOf 12 fun j =>
    let c := s.chan (12 * t + j)
    !isOuter j && !s.lvb .pwmChEn t 0 j && !c.hold && !(c.offSeq.isSome && c.offOne)
  let s := (s.beginChanOff t off s.now).loadChans t ofs
  let s := if back then s.stackBack t else s
  (s.pullInterval t).linkIntervals t

/-- Everything at a load point of a timebase from its commits on; `zero` is what the timebase itself does. -/
def State.loadAt (s : State) (t : Nat) (half : Bool) (nt : DWord) (zero : State → State) : State :=
  let lead := (List.range 8).filter fun e => s.leadTb e = t
  let es := lead.filter (· = s.refEng) ++ lead.filter (· ≠ s.refEng)
  let s := s.boundaryA es nt
  if (s.tb t).stopPend || (s.tb t).run == .stopped then s.tbStop t
  else
    let s := zero s
    let s := s.stackLoad t half (if half then 16 * (s.tb t).prd else 0)
    let s := s.sarAtLoad t half
    let s := forNums es (fun e s => s.boundaryB t half e) s
    s.opsAt es

/-- LOAD_POINT: the next load point of a running timebase, while the CTL domain runs. -/
def execLoadPoint (t : Fin 16) (half : Bool) (s : State) : Host.Outcome State Fault Refusal :=
  let x := s.nextLoad t
  if s.ctlRuns && (s.tb t).run = .running && x.2 == half then
    let s := s.advanceTo x.1
    .next (s.loadAt t half s.ntFine fun s =>
      if half then s.modTb t fun b => { b with half := true }
      else (forNums (stackChans t) (fun n s => s.tailEdges n) s).tbZero t)
  else .next s

/-- TIMEBASE_FIRST_ZERO: a WAITING timebase takes its first zero from its source or from its first slot instant, while the CTL domain runs
(R182). -/
def execTimebaseFirstZero (t : Fin 16) (s : State) : Host.Outcome State Fault Refusal :=
  match (s.tb t).run, s.firstZeroAt t with
  | .waiting, some (at_, nt) =>
    if s.ctlRuns then
      let s := s.advanceTo at_
      .next (s.loadAt t false (nt.getD s.ntFine) fun s => s.tbStart t nt)
    else .next s
  | _, _ => .next s

end Sys2Proof.Machine
end

