-- ==== Sys2Proof/Machine/Bus.lean ====
section
/-! DEFINITION. BAR0 accesses: widths and alignment, captures and held words, the access codes, and the registers whose writes do
something of their own (R11 to R16, R36, R110, R312 to R314, R364, R420, R483). -/

namespace Sys2Proof.Machine

/-! ### Reads -/

/-- Is an offset in the MSI-X table, or in the pending-bit array (R312)? -/
def inMsixTable (off : Nat) : Bool := decide (0x18000 ≤ off) && decide (off < 0x19000)
def inMsixPba (off : Nat) : Bool := decide (0x19000 ≤ off) && decide (off < 0x19020)

/-- The registers that are captured together with another one (R12). -/
def companions : List Reg := [.glbPeriodNt, .ntTimeNs, .ntTimeFrac, .ntTimeNs64, .frdMboxOutIdx]

/-- What a whole register reads as: one that is captured with another register shows its latest capture. -/
def State.readValue (s : State) (r : Reg) (i j : Nat) : DWord :=
  if companions.contains r then (assocGet s.bus.companions (regAddr r i j)).getD 0 else s.regValue r i j

/-- Word 0 or 1 of a value. -/
def wordAt (v : DWord) (upper : Bool) : Word := BitVec.ofNat 32 (if upper then v.toNat / 2 ^ 32 else v.toNat)

/-- The live word at an offset that is a multiple of 4; none where nothing is assigned (R36). -/
def State.wordView (s : State) (off : Nat) : Option Word :=
  if inMsixTable off then some ((cellsRead regDefault s.regs off).setWidth 32)
  else if inMsixPba off then some (BitVec.ofNat 32 (s.cmd.pba.toNat / 2 ^ (8 * (off - 0x19000))))
  else match findReg off with
    | some (r, i, j) => some (wordAt (s.readValue r i j) (off != regAddr r i j))
    | none => none

/-- The reads that remove a queue's head or capture a set (Tables TRP-8, NT-6, NT-3, R101). -/
def State.readFirst (s : State) (r : Reg) (i j : Nat) : State :=
  match r with
  | .trpRec => if i = 0 then s.trpRecRead else s
  | .ntSporeRec => if i = 0 then s.sporeRecRead else s
  | .ethTxts => if j = 0 then s.txtsRead i else s
  | .frdMboxOut => if j = 0 then s.mboxCapture i else s
  | _ => s

/-- Read-clear. -/
def State.readAfter (s : State) (r : Reg) (i j : Nat) : State := if r.row.acc = .rc then s.setReg r i j 0 else s

/-- What a 32-bit read of the lower word of a 64-bit register captures: the upper word, and the registers that go with it. -/
def State.captureLower (s : State) (r : Reg) (i j : Nat) (v : DWord) : State :=
  let s := s.modBus fun b => { b with captures := assocPut b.captures (regAddr r i j) (wordAt v true) }
  let take := fun (s : State) (c : Reg) (v : DWord) => s.modBus fun b => { b with companions := assocPut b.companions (regAddr c i 0) v }
  match r with
  | .glbPeriodIdx => take s .glbPeriodNt (s.engN i).ntB
  | .ntTimeSec => take (take (take s .ntTimeNs (BitVec.ofNat 64 s.nt.ns)) .ntTimeFrac (s.nt.frac.setWidth 64)) .ntTimeNs64 s.nt64
  | _ => s

/-- A 32-bit read at an aligned offset: the word, none where nothing is assigned, and its effects (R12). -/
def State.readWord (s : State) (off : Nat) : Option Word × State :=
  if inMsixTable off || inMsixPba off then (s.wordView off, s)
  else match findReg off with
    | none => (none, s)
    | some (r, i, j) =>
      let upper := off != regAddr r i j
      if r.row.size = 8 ∧ ¬ companions.contains r then
        let v := s.regValue r i j
        if upper then
          let cap := assocGet s.bus.captures (regAddr r i j)
          (some (cap.getD (wordAt v true)), s.modBus fun b => { b with captures := b.captures.filter fun p => p.1 != regAddr r i j })
        else (some (wordAt v false), s.captureLower r i j v)
      else
        let s := s.readFirst r i j
        (some (wordAt (s.readValue r i j) upper), s.readAfter r i j)

/-- The bytes of a narrow read, none where one of them is not assigned; unassigned bytes read 0. -/
def State.narrowRead (s : State) (off n : Nat) : Nat × Bool :=
  (List.range n).foldl (fun (acc : Nat × Bool) k =>
    let o := off + k
    match s.wordView (o / 4 * 4) with
    | some w => (acc.1 + w.toNat / 2 ^ (8 * (o % 4)) % 256 * 2 ^ (8 * k), acc.2)
    | none => (acc.1, false)) (0, true)

/-- A 64-bit register at an offset, if one begins there. -/
def wideReg (off : Nat) : Option (Reg × Nat × Nat) :=
  match findReg off with
  | some (r, i, j) => if r.row.size = 8 ∧ off = regAddr r i j then some (r, i, j) else none
  | none => none

/-- A BAR0 read (R11, R12, R36): `readData` takes what it returns. -/
def State.busRead (s : State) (off : Nat) (w : AccessWidth) : State :=
  let give := fun (s : State) (v : Nat) => s.modBus fun b => { b with readData := BitVec.ofNat 64 v }
  let miss := fun (s : State) (ok : Bool) => if ok then s else s.accessErr 1 false off
  match w with
  | .w8 => let x := s.narrowRead off 1; give (miss s x.2) x.1
  | .w16 => let x := s.narrowRead off 2; give (miss s x.2) x.1
  | .w32 =>
    if off % 4 ≠ 0 then give (s.accessErr 4 false off) 0
    else
      let (v, s) := s.readWord off
      give (miss s v.isSome) (v.getD 0).toNat
  | .w64 =>
    if off % 8 ≠ 0 then give (s.accessErr 4 false off) 0
    else match wideReg off with
      | some (r, i, j) => give s (s.readValue r i j).toNat
      | none =>
        let (lo, s) := s.readWord off
        let (hi, s) := s.readWord (off + 4)
        give (miss s (lo.isSome && hi.isSome)) ((lo.getD 0).toNat + 2 ^ 32 * (hi.getD 0).toNat)

/-! ### Writes to the stage -/

/-- An RWS write: only the master that holds the token writes the stage, and not while it is PENDING; a parameter at or above PARAMS is
no register (R16, R110, R362, R364). `put` gives the register's new staged value. The active module of a pair hands it to its twin. -/
def State.stageBus (s : State) (m : Master) (off : Nat) (r : Reg) (i j : Nat) (put : DWord → Nat) : State :=
  if !s.holds m || s.stagePending then s.count .stgDiscardCnt
  else if r = .frdParam ∧ paramCount s.stg.images i ≤ j then s.accessErr 3 true off
  else
    let old := if r = .frdParam then paramGet s.stg.stage i (s.bankWin i) j else regGet s.stg.stage r i j
    let v := put old
    let s := s.stageWrote 1 (stagePut s.bankWin s.stg.stage r i j v) s.stg.images
    s.mirror noSrc stageItem (leBytes 4 (regAddr r i j) ++ leBytes 8 v) 0

/-! ### Registers whose writes do something of their own -/

/-- CMD_RING_CFG_r (R313, R314): while the ring is not DISABLED a write acts on ENABLE alone. -/
def State.ringCfgWrite (s : State) (off r v : Nat) : State :=
  let old := (s.reg .cmdRingCfg r).toNat
  let s :=
    if (s.ring r).st = .disabled then s.setRegN .cmdRingCfg r 0 (v % 2 ^ 31 + old / 2 ^ 31 * 2 ^ 31)
    else if v % 2 ^ 31 = old % 2 ^ 31 then s
    else s.accessErr 2 true off
  if v.testBit 31 then s.ringEnable r else s.ringDisable r

/-- ADC_URG: INPUT takes the value written; a 1 in GO makes an urgent request (R155). -/
def State.urgWrite (s : State) (v : Nat) : State :=
  let s := s.setReg .adcUrg 0 0 (withBits (s.reg .adcUrg) 3 0 v)
  if v.testBit 8 then (s.setReg .adcUrg 0 0 (withBits (s.reg .adcUrg) 8 8 1)).sarUrgent (v % 16) else s

/-- NT_CMD (R292). What a write of 1 to both bits leaves in VALID is a free value. -/
def State.ntCmdWrite (s : State) (v : Nat) : State :=
  match v.testBit 0, v.testBit 1 with
  | true, false => s.modNt fun c => { c with valid := true }
  | false, true => s.modNt fun c => { c with valid := false }
  | true, true => let (i, s) := s.draw; s.modNt fun c => { c with valid := Config.freeNat i % 2 = 1 }
  | false, false => s

/-- DMA_CH_CTRL_n: START, then ABORT (R410, R414). START reads the descriptor at the head from host memory as the device knows it. -/
def State.dmaCtrlWrite (s : State) (n v : Nat) : State :=
  let s := if v.testBit 0 then s.dmaStart n (memRead s.host ((s.reg .dmaDescBase n).toNat + 32 * (s.dmaN n).head) 32) else s
  if v.testBit 1 then s.dmaAbort n else s

/-- A write to a register of which `ok` says whether its block's state lets it be written. -/
def State.writeWhen (s : State) (ok : Bool) (off : Nat) (r : Reg) (i v : Nat) : State :=
  if ok then s.setRegN r i 0 v else s.accessErr 2 true off

/-- A write of a whole register that is not RWS, its reserved bits masked away (Table SCO-4). -/
def State.regWrite (s : State) (off : Nat) (r : Reg) (i j v : Nat) : State :=
  let v := v &&& r.row.mask
  match r.row.acc with
  | .w1c => s.setReg r i j (s.reg r i j &&& ~~~ BitVec.ofNat 64 v)
  | .w1s | .rw | .wo =>
    match r with
    | .cmdRingCfg => s.ringCfgWrite off i v
    | .cmdSqBase | .cmdCqBase => s.writeWhen ((s.ring i).st = .disabled) off r i v
    | .cmdTimeoutDef => if v = 0 then s else s.setRegN r 0 0 v
    | .dmaDescBase | .dmaDescCfg => s.writeWhen ((s.dmaN i).st = .idle) off r i v
    | .dmaDescTail => s.dmaTailWrite i v
    | .dmaChCtrl => s.dmaCtrlWrite i v
    | .ntIncr => s.ntIncr (BitVec.ofNat 64 v)
    | .ntCmd => s.ntCmdWrite v
    | .adcSeqTrig => if v = 0 then s else s.sarTrigger
    | .adcUrg => s.urgWrite v
    | .gdlOstStart => s.ostWrite v
    | .gdlTrain => s.trainWrite v
    | .acqSegFree => s.segFree i (v % 256)
    | _ => s.setRegN r i j v
  | _ => s

/-! ### Writes -/

/-- A write to the MSI-X table. A vector that is pending and no longer masked sends its message (PRESUMED, log 4). -/
def State.msixWrite (s : State) (off : Nat) (v : Word) : State :=
  let v : DWord := if off % 16 = 12 then (v &&& 1).setWidth 64 else v.setWidth 64
  let s := { s with regs := cellsWrite regDefault s.regs off v }
  let n := (off - 0x18000) / 16
  if off % 16 = 12 && v = 0 && s.cmd.pba.getLsbD n then
    (s.modCmd fun c => { c with pba := c.pba &&& ~~~ BitVec.ofNat 256 (2 ^ n) }).raise n
  else s

/-- A 32-bit write at an aligned offset where something is assigned (R483). DESIGN CHOICE: where the write of both words is refused,
GLB_ACCESS_ADDR shows the register's own offset, that of its lower word (log 59). -/
def State.writeWord (s : State) (m : Master) (off : Nat) (v : Word) : State :=
  if inMsixTable off then s.msixWrite off v
  else if inMsixPba off then s
  else match findReg off with
    | none => s
    | some (r, i, j) =>
      let a := regAddr r i j
      let upper := off != a
      if r.row.acc = .rws then
        s.stageBus m off r i j fun old => if r.row.size = 8 then putWord old upper v.toNat else v.toNat
      else if r.row.size = 8 then
        if upper then
          let lo := (assocGet s.bus.held a).getD (wordAt (s.reg r i j) false)
          let s := s.modBus fun b => { b with held := b.held.filter fun p => p.1 != a }
          s.regWrite a r i j (lo.toNat + 2 ^ 32 * v.toNat)
        else if r.row.acc = .ro then s
        else s.modBus fun b => { b with held := assocPut b.held a v }
      else s.regWrite off r i j v.toNat

/-- Is something assigned at an aligned offset? -/
def assigned (off : Nat) : Bool := inMsixTable off || inMsixPba off || (findReg off).isSome

/-- A BAR0 write (R11, R13, R36, R483). DESIGN CHOICE (log 59): a 64-bit write that no 64-bit register takes is two 32-bit writes, each
of which counts in STG_DISCARD_CNT where it is discarded; where one half is unassigned, the access counts once as unassigned and the
other half is performed. -/
def State.busWrite (s : State) (m : Master) (off : Nat) (w : AccessWidth) (v : DWord) : State :=
  match w with
  | .w8 => s.accessErr 0 true off
  | .w16 => s.accessErr 0 true off
  | .w32 =>
    if off % 4 ≠ 0 then s.accessErr 4 true off
    else if assigned off then s.writeWord m off (v.setWidth 32)
    else s.accessErr 1 true off
  | .w64 =>
    if off % 8 ≠ 0 then s.accessErr 4 true off
    else match wideReg off with
      | some (r, i, j) =>
        let s := s.modBus fun b => { b with held := b.held.filter fun p => p.1 != off }
        if r.row.acc = .rws then s.stageBus m off r i j fun _ => v.toNat else s.regWrite off r i j v.toNat
      | none =>
        let s := if assigned off && assigned (off + 4) then s else s.accessErr 1 true off
        (s.writeWord m off (wordAt v false)).writeWord m (off + 4) (wordAt v true)

/-! ### Commands -/

/-- REGISTER_WRITE: a write from the host, in BAR0 or in a ring's page of BAR2. -/
def execRegisterWrite (a : BusAddr) (w : AccessWidth) (v : DWord) (s : State) : Host.Outcome State Fault Refusal :=
  match a.page with
  | none => .next (s.busWrite .host a.off.toNat w v)
  | some r => .next (s.bar2Write r (a.off.toNat % 4096) w v)

/-- HELD_LOWER_WORD_WRITE: the 32-bit write that R483 holds. -/
def execHeldLowerWordWrite (off : Offset) (v : Word) (s : State) : Host.Outcome State Fault Refusal :=
  .next (s.busWrite .host off.toNat .w32 (v.setWidth 64))

/-- CAPTURE_READ: a read, with the captures of R12, or one of a ring's page of BAR2. -/
def execCaptureRead (a : BusAddr) (w : AccessWidth) (s : State) : Host.Outcome State Fault Refusal :=
  match a.page with
  | none => .next (s.busRead a.off.toNat w)
  | some r => .next (s.bar2Read r (a.off.toNat % 4096) w)

/-- READ_CLEAR: a read of an RC field returns its value and clears it. -/
def execReadClear (off : Offset) (w : AccessWidth) (s : State) : Host.Outcome State Fault Refusal :=
  .next (s.busRead off.toNat w)

/-- RWS_STAGE_WRITE: a write into the stage by a master. -/
def execRwsStageWrite (m : Master) (off : Offset) (w : AccessWidth) (v : DWord) (s : State) : Host.Outcome State Fault Refusal :=
  .next (s.busWrite m off.toNat w v)

end Sys2Proof.Machine
end

