-- ==== Sys2Proof/Machine/Frames.lean ====
section
/-! DEFINITION. Edge frames of Zwiex links: what the channel path of a stack will do in its next interval, and the frame that says so
(R191, R215, R216, R232). -/

namespace Sys2Proof.Machine

/-- The next instant at which something happens on a stack's channels, before a bound, with the channel and what it is: 0 = falling
edge, 1 = rising edge, 2 = end of a wait, 3 = inner turn-off. At one instant falling edges come first. -/
def State.nextEvent (s : State) (k bound : Nat) : Option (Nat × Nat × Nat) :=
  let b := s.tb k
  let all := (stackChans k).flatMap fun n =>
    let c := s.chan n
    (if c.dueB && decide (c.cmpB.toNat < b.len) then [(b.zeroAt + c.cmpB.toNat, 0, n)] else [])
    ++ (match c.offSeq with | some t => [(t, 3, n)] | none => [])
    ++ (if c.dueA && decide (c.cmpA.toNat < b.len) then [(b.zeroAt + c.cmpA.toNat, 1, n)] else [])
    ++ (match c.wait with | some t => [(t, 2, n)] | none => [])
  all.foldl (fun best x =>
    if bound ≤ x.1 then best
    else match best with
      | none => some x
      | some y => if x.1 < y.1 || (x.1 = y.1 && x.2.1 < y.2.1) then some x else best) none

/-- Let what is to come on a stack's channels happen up to a bound, noting each change of a level after stage 6: channel, level,
instant (R215). -/
def State.runChans (k bound : Nat) : Nat → State → List (Nat × Bool × Nat) → State × List (Nat × Bool × Nat)
  | 0, s, acc => (s, acc)
  | fuel + 1, s, acc =>
    match s.nextEvent k bound with
    | none => (s, acc)
    | some (t, what, n) =>
      let before := (stackChans k).map fun m => (s.chan m).gc
      let s := s.advanceTo t
      let s := match what with
        | 0 => s.fallingEdge n
        | 1 => s.risingEdge n
        | 2 => s.expireWait n
        | _ => s.innerOff k
      let changes := ((stackChans k).zip before).filterMap fun (m, g) =>
        if (s.chan m).gc != g then some (m % 12, (s.chan m).gc, t) else none
      State.runChans k bound fuel s (acc ++ changes)

/-- The load point that begins the next interval of a stack, for which an edge frame is due: that of a running timebase, or the first
zero of a WAITING one. -/
def State.frameLoad (s : State) (k : Nat) : Option (Nat × Bool) :=
  match (s.tb k).run with
  | .running => some (s.nextLoad k)
  | .waiting => (s.firstZeroAt k).map fun x => (x.1, false)
  | .stopped => none

/-- Does a cleared stack resume at a load point (R239)? -/
def State.resumesAt (s : State) (k b : Nat) (half : Bool) : Bool := !half && (s.zone k).resumeZ.any fun z => decide (z < b)

/-- The load point of a stack's next interval as far as its channels go: the commits, stop requests, starts and stops of the engines whose
boundary it is, the timebase, and the loads (R193, R195, R369). -/
def State.loadAhead (s : State) (k b : Nat) (half : Bool) : State :=
  let here := fun t => decide (t = k) || ((s.tb t).run = .running && decide ((s.nextLoad t).1 ≤ b))
  let es := (List.range 8).filter fun e => here (s.leadTb e)
  let s := forNums es (fun e s => (s.periodBegin e s.ntFine).commitsAt e) s
  let s := forNums es (fun e s => s.templateStop e) s
  let s :=
    if (s.tb k).stopPend || (s.tb k).run == .stopped then s.tbStop k
    else
      let s := if half then s.modTb k fun t => { t with half := true }
        else if (s.tb k).run = .waiting then s.tbStart k none
        else s.tbZero k
      s.stackLoad k half (if half then b - (s.tb k).zeroAt else 0)
  s.opsAt es

/-- What the channel path will do in the interval of a stack that begins at a load point: the levels at its start, the channels whose
first entry is carried, and the entries (R191, R215). -/
def State.predict (s : State) (k b : Nat) (half : Bool) : Nat × Nat × List (Nat × Bool × Nat) :=
  let s := ((State.runChans k b 256 s []).1).advanceTo b
  let s := if half || (s.tb k).run != .running then s else forNums (stackChans k) (fun n s => s.tailEdges n) s
  let level0 := maskOf 12 fun j => (s.chan (12 * k + j)).gc
  let waiting := (List.range 12).filter fun j => (s.chan (12 * k + j)).wait.isSome
  let before := (stackChans k).map fun m => (s.chan m).gc
  let s := s.loadAhead k b half
  let atLoad := ((stackChans k).zip before).filterMap fun (m, g) =>
    if (s.chan m).gc != g then some (m % 12, (s.chan m).gc, b) else none
  let (_, entries) := State.runChans k (s.nextLoad k).1 256 s atLoad
  let carried := maskOf 12 fun j => waiting.contains j && match entries.find? fun x => x.1 = j with
    | some x => x.2.1
    | none => false
  (level0, carried, entries.map fun x => (x.1, x.2.1, x.2.2 - b))

/-- One edge frame per stack and interval (R215, R216, R232), for the one that begins at a load point. -/
def State.edgeSend (s : State) (k b : Nat) (half : Bool) : State :=
  let s := s.ostGuard k
  let off := (s.zone k).causes != 0 || s.saf.hold || (s.stage6Off k && !s.resumesAt k b half)
  let (level0, carry, entries) := if off then (0, 0, []) else s.predict k b half
  let tooMany := decide (15 < entries.length)
  let s := if tooMany then s.gdlTrip k 11 10 0 0 else s
  let (level0, carry, entries) := if tooMany then (0, 0, []) else (level0, carry, entries)
  let seq := (s.gs k).seq + 1
  let frame := edgeFrame k half (s.drvCmd k) seq level0 carry (s.rangeWord k) entries
  let s := (s.sendLink k frame false).drvSent k
  let s := s.modGs k fun g => { g with seq := seq, lastFrame := frame, frameFor := some b }
  s.setRegN .gdlSeq k 0 seq.toNat

/-- An edge frame is sent once per interval; where an engine computes for the stack, after step 7 of its period, which publishes the set of
the interval (Table ARC-4, R31). -/
def execEdgeFrameSend (k : Fin 16) (s : State) : Host.Outcome State Fault Refusal :=
  let published := match s.engineOf k with
    | some e => !s.inPeriod e || ((s.engN e).started && (s.engN e).published)
    | none => true
  match s.frameLoad k with
  | some (b, half) =>
    if s.linkMode && s.configured k && (s.gs k).link = .trained && s.sendsFrames && published && (s.gs k).frameFor != some b then
      .next (s.edgeSend k b half)
    else .next s
  | none => .next s

end Sys2Proof.Machine
end

