-- ==== Sys2Proof/Machine/Dispatch.lean ====
section
/-! DEFINITION. What each command does: one arm per row of the table of operations and events. -/

namespace Sys2Proof.Machine

/-- The effect of a command on everything but the queue of waiting commands. -/
def exec (i : Instr) (s : State) : Host.Outcome State Fault Refusal :=
  match i with
  | .registerWrite a w v => Sys2Proof.Machine.execRegisterWrite a w v s
  | .heldLowerWordWrite off v => Sys2Proof.Machine.execHeldLowerWordWrite off v s
  | .captureRead a w => Sys2Proof.Machine.execCaptureRead a w s
  | .readClear off w => Sys2Proof.Machine.execReadClear off w s
  | .rwsStageWrite m off w v => Sys2Proof.Machine.execRwsStageWrite m off w v s
  | .loadPoint t half => Sys2Proof.Machine.execLoadPoint t half s
  | .engineStart e => Sys2Proof.Machine.execEngineStart e s
  | .publish e => Sys2Proof.Machine.execPublish e s
  | .graphComplete e => Sys2Proof.Machine.execGraphComplete e s
  | .engineDeadlineMiss e => Sys2Proof.Machine.execEngineDeadlineMiss e s
  | .engineEccError e corrected => Sys2Proof.Machine.execEngineEccError e corrected s
  | .breakerStateAccepted e closed => Sys2Proof.Machine.execBreakerStateAccepted e closed s
  | .rtExitTimeout e => Sys2Proof.Machine.execRtExitTimeout e s
  | .clExitTimeout e => Sys2Proof.Machine.execClExitTimeout e s
  | .recoveryEnd e => Sys2Proof.Machine.execRecoveryEnd e s
  | .gfmSetTargets c p => Sys2Proof.Machine.execGfmSetTargets c p s
  | .gfmSetBreaker c p => Sys2Proof.Machine.execGfmSetBreaker c p s
  | .gfmClearFlags c p => Sys2Proof.Machine.execGfmClearFlags c p s
  | .frdGraphLoad c p image => Sys2Proof.Machine.execFrdGraphLoad c p image s
  | .frdBankSwap c p => Sys2Proof.Machine.execFrdBankSwap c p s
  | .frdSatReadClear c p => Sys2Proof.Machine.execFrdSatReadClear c p s
  | .fadeEnd e => Sys2Proof.Machine.execFadeEnd e s
  | .mboxOutCapture e => Sys2Proof.Machine.execMboxOutCapture e s
  | .prfSetTarget c p => Sys2Proof.Machine.execPrfSetTarget c p s
  | .oscDetect e idx => Sys2Proof.Machine.execOscDetect e idx s
  | .oscTimeout e idx => Sys2Proof.Machine.execOscTimeout e idx s
  | .decimationDump g => Sys2Proof.Machine.execDecimationDump g s
  | .stuckRunStart c => Sys2Proof.Machine.execStuckRunStart c s
  | .stuckRunEnd c => Sys2Proof.Machine.execStuckRunEnd c s
  | .linkSourceResume c => Sys2Proof.Machine.execLinkSourceResume c s
  | .comparatorActivate c => Sys2Proof.Machine.execComparatorActivate c s
  | .comparatorDeactivate c => Sys2Proof.Machine.execComparatorDeactivate c s
  | .fastPathMaskEnd c => Sys2Proof.Machine.execFastPathMaskEnd c s
  | .sequenceTrigger => Sys2Proof.Machine.execSequenceTrigger s
  | .urgentRequest input => Sys2Proof.Machine.execUrgentRequest input s
  | .sarConversionDone microvolts => Sys2Proof.Machine.execSarConversionDone microvolts s
  | .timebaseFirstZero t => Sys2Proof.Machine.execTimebaseFirstZero t s
  | .compareEdge n rising => Sys2Proof.Machine.execCompareEdge n rising s
  | .deadTimeExpiry n => Sys2Proof.Machine.execDeadTimeExpiry n s
  | .syncInPulse => Sys2Proof.Machine.execSyncInPulse s
  | .syncInMiss => Sys2Proof.Machine.execSyncInMiss s
  | .innerTurnOff k => Sys2Proof.Machine.execInnerTurnOff k s
  | .gaConfirm n level => Sys2Proof.Machine.execGaConfirm n level s
  | .ackTimeout n => Sys2Proof.Machine.execAckTimeout n s
  | .ackMismatch n => Sys2Proof.Machine.execAckMismatch n s
  | .gcFault n differs => Sys2Proof.Machine.execGcFault n differs s
  | .fltTrip k low => Sys2Proof.Machine.execFltTrip k low s
  | .dsrRingCycle k words => Sys2Proof.Machine.execDsrRingCycle k words s
  | .gdlOstStart mask => Sys2Proof.Machine.execGdlOstStart mask s
  | .gdlOstRun c p => Sys2Proof.Machine.execGdlOstRun c p s
  | .gdlTrain mask => Sys2Proof.Machine.execGdlTrain mask s
  | .gdlLinkTrain c p => Sys2Proof.Machine.execGdlLinkTrain c p s
  | .linkTrainingComplete k r => Sys2Proof.Machine.execLinkTrainingComplete k r s
  | .edgeFrameSend k => Sys2Proof.Machine.execEdgeFrameSend k s
  | .loadSend k => Sys2Proof.Machine.execLoadSend k s
  | .pullInFrameSend k => Sys2Proof.Machine.execPullInFrameSend k s
  | .returnFrame k frame => Sys2Proof.Machine.execReturnFrame k frame s
  | .tripInActive idx active => Sys2Proof.Machine.execTripInActive idx active s
  | .trpTrip c p => Sys2Proof.Machine.execTrpTrip c p s
  | .trpClear c p => Sys2Proof.Machine.execTrpClear c p s
  | .clearEvaluation => Sys2Proof.Machine.execClearEvaluation s
  | .trpRecRead => Sys2Proof.Machine.execTrpRecRead s
  | .tripClockNtSet => Sys2Proof.Machine.execTripClockNtSet s
  | .safetyInputChange k lineB level => Sys2Proof.Machine.execSafetyInputChange k lineB level s
  | .discrepancy k => Sys2Proof.Machine.execDiscrepancy k s
  | .offPulseStart ch => Sys2Proof.Machine.execOffPulseStart ch s
  | .offPulseEnd ch => Sys2Proof.Machine.execOffPulseEnd ch s
  | .readbackCheck ch level => Sys2Proof.Machine.execReadbackCheck ch level s
  | .crossFault observer => Sys2Proof.Machine.execCrossFault observer s
  | .safetyLockstepMismatch => Sys2Proof.Machine.execSafetyLockstepMismatch s
  | .psetMismatchTimeout => Sys2Proof.Machine.execPsetMismatchTimeout s
  | .referenceComparison errorPs present qualified => Sys2Proof.Machine.execReferenceComparison errorPs present qualified s
  | .referenceLost => Sys2Proof.Machine.execReferenceLost s
  | .adpllLockTimeout => Sys2Proof.Machine.execAdpllLockTimeout s
  | .tcxoLoss => Sys2Proof.Machine.execTcxoLoss s
  | .clkReacquire c p => Sys2Proof.Machine.execClkReacquire c p s
  | .outputRestart => Sys2Proof.Machine.execOutputRestart s
  | .ntIncrWrite v => Sys2Proof.Machine.execNtIncrWrite v s
  | .ntValidSet => Sys2Proof.Machine.execNtValidSet s
  | .ntValidClr => Sys2Proof.Machine.execNtValidClr s
  | .ntSet c p => Sys2Proof.Machine.execNtSet c p s
  | .ntSporeLoad c p => Sys2Proof.Machine.execNtSporeLoad c p s
  | .ntSporeCancel c p => Sys2Proof.Machine.execNtSporeCancel c p s
  | .sporeDue => Sys2Proof.Machine.execSporeDue s
  | .sporeExecute => Sys2Proof.Machine.execSporeExecute s
  | .ntSporeRecRead => Sys2Proof.Machine.execNtSporeRecRead s
  | .ppsOutPulse => Sys2Proof.Machine.execPpsOutPulse s
  | .ethFrameReceive port frame good => Sys2Proof.Machine.execEthFrameReceive port frame good s
  | .ethFrameTransmit port => Sys2Proof.Machine.execEthFrameTransmit port s
  | .ethTxtsRead port => Sys2Proof.Machine.execEthTxtsRead port s
  | .ptmPublish => Sys2Proof.Machine.execPtmPublish s
  | .ptmHoldoffEnd => Sys2Proof.Machine.execPtmHoldoffEnd s
  | .ptmReceive payload => Sys2Proof.Machine.execPtmReceive payload s
  | .ptmSenderExpiry unitId => Sys2Proof.Machine.execPtmSenderExpiry unitId s
  | .doorbell ring v => Sys2Proof.Machine.execDoorbell ring v s
  | .cqHeadWrite ring v => Sys2Proof.Machine.execCqHeadWrite ring v s
  | .descriptorFetch ring desc payload sig => Sys2Proof.Machine.execDescriptorFetch ring desc payload sig s
  | .payloadReadFail ring seq => Sys2Proof.Machine.execPayloadReadFail ring seq s
  | .workItemDispatch unit => Sys2Proof.Machine.execWorkItemDispatch unit s
  | .parse core => Sys2Proof.Machine.execParse core s
  | .verify unit => Sys2Proof.Machine.execVerify unit s
  | .place core => Sys2Proof.Machine.execPlace core s
  | .commandTimeout ring seq => Sys2Proof.Machine.execCommandTimeout ring seq s
  | .ringEnable ring => Sys2Proof.Machine.execRingEnable ring s
  | .ringDisable ring => Sys2Proof.Machine.execRingDisable ring s
  | .ringDrained ring => Sys2Proof.Machine.execRingDrained ring s
  | .keyGrant c p => Sys2Proof.Machine.execKeyGrant c p s
  | .grantUnwrap ring => Sys2Proof.Machine.execGrantUnwrap ring s
  | .keyRetire c p => Sys2Proof.Machine.execKeyRetire c p s
  | .anchorInstall c p => Sys2Proof.Machine.execAnchorInstall c p s
  | .anchorRevoke c p => Sys2Proof.Machine.execAnchorRevoke c p s
  | .plantKeyGrant c p => Sys2Proof.Machine.execPlantKeyGrant c p s
  | .tamperDetection source => Sys2Proof.Machine.execTamperDetection source s
  | .stgToken c p => Sys2Proof.Machine.execStgToken c p s
  | .tokenLeaseExpiry => Sys2Proof.Machine.execTokenLeaseExpiry s
  | .stgWrite c p => Sys2Proof.Machine.execStgWrite c p s
  | .stgCheck c p => Sys2Proof.Machine.execStgCheck c p s
  | .stgCommit c p => Sys2Proof.Machine.execStgCommit c p s
  | .stgSave c p block => Sys2Proof.Machine.execStgSave c p block s
  | .commitApply => Sys2Proof.Machine.execCommitApply s
  | .opsArm c => Sys2Proof.Machine.execOpsArm c s
  | .opsStart c p => Sys2Proof.Machine.execOpsStart c p s
  | .opsStop c p => Sys2Proof.Machine.execOpsStop c p s
  | .opsDisarm c => Sys2Proof.Machine.execOpsDisarm c s
  | .opsHalt c => Sys2Proof.Machine.execOpsHalt c s
  | .armLost => Sys2Proof.Machine.execArmLost s
  | .offSequenceComplete => Sys2Proof.Machine.execOffSequenceComplete s
  | .watchdogExpiry => Sys2Proof.Machine.execWatchdogExpiry s
  | .coreLockstepMismatch => Sys2Proof.Machine.execCoreLockstepMismatch s
  | .memEccError => Sys2Proof.Machine.execMemEccError s
  | .regulatorFault => Sys2Proof.Machine.execRegulatorFault s
  | .logRead c p => Sys2Proof.Machine.execLogRead c p s
  | .imgFwLoad c p image => Sys2Proof.Machine.execImgFwLoad c p image s
  | .imgFwActivate c p => Sys2Proof.Machine.execImgFwActivate c p s
  | .powerOnResetRelease retentionOk => Sys2Proof.Machine.execPowerOnResetRelease retentionOk s
  | .bootComplete media => Sys2Proof.Machine.execBootComplete media s
  | .selftestComplete failed => Sys2Proof.Machine.execSelftestComplete failed s
  | .vinLoss => Sys2Proof.Machine.execVinLoss s
  | .holdUpEnd => Sys2Proof.Machine.execHoldUpEnd s
  | .vmgtLoss => Sys2Proof.Machine.execVmgtLoss s
  | .logFlush => Sys2Proof.Machine.execLogFlush s
  | .nandRefresh block correctedBits => Sys2Proof.Machine.execNandRefresh block correctedBits s
  | .acqArm c p => Sys2Proof.Machine.execAcqArm c p s
  | .acqTrigger c p => Sys2Proof.Machine.execAcqTrigger c p s
  | .acqStop c p => Sys2Proof.Machine.execAcqStop c p s
  | .acqPostComplete u => Sys2Proof.Machine.execAcqPostComplete u s
  | .acqHeaderWritten u => Sys2Proof.Machine.execAcqHeaderWritten u s
  | .acqRearm u => Sys2Proof.Machine.execAcqRearm u s
  | .acqSegFree u v => Sys2Proof.Machine.execAcqSegFree u v s
  | .dmaStart n desc => Sys2Proof.Machine.execDmaStart n desc s
  | .dmaAbort n => Sys2Proof.Machine.execDmaAbort n s
  | .dmaAbortComplete n => Sys2Proof.Machine.execDmaAbortComplete n s
  | .dmaDescTailWrite n v => Sys2Proof.Machine.execDmaDescTailWrite n v s
  | .dmaRunStart n => Sys2Proof.Machine.execDmaRunStart n s
  | .dmaFlushTimeout n => Sys2Proof.Machine.execDmaFlushTimeout n s
  | .dmaBurst n hostData nextDesc => Sys2Proof.Machine.execDmaBurst n hostData nextDesc s
  | .dmaHostError n cause lastBeat => Sys2Proof.Machine.execDmaHostError n cause lastBeat s
  | .hbPulse => Sys2Proof.Machine.execHbPulse s
  | .roleInPulse widthNs => Sys2Proof.Machine.execRoleInPulse widthNs s
  | .arbLost => Sys2Proof.Machine.execArbLost s
  | .ownNChange level => Sys2Proof.Machine.execOwnNChange level s
  | .periodFrameSend => Sys2Proof.Machine.execPeriodFrameSend s
  | .periodFrameReceive frame => Sys2Proof.Machine.execPeriodFrameReceive frame s
  | .twinFrameDeadline => Sys2Proof.Machine.execTwinFrameDeadline s
  | .itemFrameReceive frame => Sys2Proof.Machine.execItemFrameReceive frame s
  | .rhizomeTraining latencyNs => Sys2Proof.Machine.execRhizomeTraining latencyNs s
  | .twnResync c => Sys2Proof.Machine.execTwnResync c s
  | .resyncComplete => Sys2Proof.Machine.execResyncComplete s
  | .twnResyncTimeout => Sys2Proof.Machine.execTwnResyncTimeout s
  | .roleSwapRequest => Sys2Proof.Machine.execRoleSwapRequest s
  | .roleSwapCheck => Sys2Proof.Machine.execRoleSwapCheck s
  | .haltHoldExpiry => Sys2Proof.Machine.execHaltHoldExpiry s
  | .arbiterHbTimeout port => Sys2Proof.Machine.execArbiterHbTimeout port s
  | .arbiterBbmExpiry => Sys2Proof.Machine.execArbiterBbmExpiry s
  | .arbiterSwapReq port => Sys2Proof.Machine.execArbiterSwapReq port s
  | .mctpPacket packet pecOk => Sys2Proof.Machine.execMctpPacket packet pecOk s
  | .setEndpointId eid => Sys2Proof.Machine.execSetEndpointId eid s
  | .getEndpointId => Sys2Proof.Machine.execGetEndpointId s
  | .getMctpVersionSupport => Sys2Proof.Machine.execGetMctpVersionSupport s
  | .getMessageTypeSupport => Sys2Proof.Machine.execGetMessageTypeSupport s
  | .getVendorDefinedMessageSupport => Sys2Proof.Machine.execGetVendorDefinedMessageSupport s
  | .getStatus reqId => Sys2Proof.Machine.execGetStatus reqId s
  | .getLog reqId body => Sys2Proof.Machine.execGetLog reqId body s
  | .getSlots reqId => Sys2Proof.Machine.execGetSlots reqId s
  | .putBlock reqId body => Sys2Proof.Machine.execPutBlock reqId body s
  | .getReplay reqId => Sys2Proof.Machine.execGetReplay reqId s
  | .getIdentity reqId body => Sys2Proof.Machine.execGetIdentity reqId body s
  | .command reqId body => Sys2Proof.Machine.execCommand reqId body s
  | .opsMainReset c => Sys2Proof.Machine.execOpsMainReset c s
  | .stgRecover c p => Sys2Proof.Machine.execStgRecover c p s
  | .modulatorTick lands clk0Ps => Sys2Proof.Machine.execModulatorTick lands clk0Ps s
  | .extTrigEdge => Sys2Proof.Machine.execExtTrigEdge s
  | .vmgtPowerUp hbPulledHigh => Sys2Proof.Machine.execVmgtPowerUp hbPulledHigh s
  | .arbiterHbPulse port widthNs => Sys2Proof.Machine.execArbiterHbPulse port widthNs s
  | .resyncFrameReceive f => Sys2Proof.Machine.execResyncFrameReceive f s
  | .rhizomeBlockLockLoss => Sys2Proof.Machine.execRhizomeBlockLockLoss s
  | .ethLinkChange port anDone sync link => Sys2Proof.Machine.execEthLinkChange port anDone sync link s
  | .supervisionFrameSend => Sys2Proof.Machine.execSupervisionFrameSend s
  | .safetyClockFault ch => Sys2Proof.Machine.execSafetyClockFault ch s
  | .fwImageWriteComplete => Sys2Proof.Machine.execFwImageWriteComplete s
  | .configBlockWriteComplete => Sys2Proof.Machine.execConfigBlockWriteComplete s

end Sys2Proof.Machine
end

