-- ==== Sys2Proof/Safety.lean ====
section
/-! DEFINITION. What counts as safe on this device, in the terms the claims use: no complementary gates driven together, no queue
beyond its depth, stores in their canonical form, and what no command may take back. -/

namespace Sys2Proof.Machine

/-- No pair of complementary channels has both gate commands high (R199, R170). -/
def State.noShootThrough (s : State) : Prop :=
  ∀ n : Nat, (s.chan n).gc = true → (s.chan (partner n)).gc = false

/-- The same over the 192 channels there are, so that it can be decided. -/
def State.noShootThroughB (s : State) : Bool :=
  (List.range 192).all fun n => !((s.chan n).gc && (s.chan (partner n)).gc)

/-- Every record queue stays within its depth: 64 trip records (R241), 64 records of spores (R301), 64 results of the SAR converter
(R156) and 256 records of scheduler trace (R331). -/
def State.queuesBounded (s : State) : Prop :=
  s.trp.recs.length ≤ 64 ∧ s.nt.recs.length ≤ 64 ∧ s.sar.queue.length ≤ 64 ∧ s.cmd.trace.length ≤ 256

/-- The addresses of a store rise strictly, so that every address is listed once. -/
def cellsRise {α : Type} (m : List (Nat × α)) : Prop := m.Pairwise fun a b => a.1 < b.1

/-- The byte stores are in their canonical form, and the register files list every register once. -/
def State.storesCanonical (s : State) : Prop :=
  cellsWf memDefault s.host = true ∧ cellsWf memDefault s.dram = true
    ∧ cellsRise s.live ∧ cellsRise s.regs ∧ cellsRise s.stg.stage

/-- No anchor slot has more than its 15 fuses burnt (R342, R344). -/
def State.fusesBounded (s : State) : Prop := ∀ k : Nat, (s.anchor k).otpGen ≤ 15

/-- What holds of the device between any two commands. -/
structure State.Sound (s : State) : Prop where
  gates  : s.noShootThrough
  queues : s.queuesBounded
  stores : s.storesCanonical
  fuses  : s.fusesBounded

/-- From a state to a later one, what is burnt into fuses goes one way: the generation of an anchor slot and the minimum security
version never fall, the vendor root in slot 0 and the identity given at manufacture stay (R338, R344, R390). -/
structure State.rooted (s t : State) : Prop where
  gens : ∀ k : Nat, (s.anchor k).otpGen ≤ (t.anchor k).otpGen
  root : t.anchor 0 = s.anchor 0
  svn  : s.sec.svn ≤ t.sec.svn
  uid  : t.sec.uid = s.sec.uid

/-- The parts of the state, one for each field. -/
inductive Part where
  | pending | now | free | live | regs | bus | eng | waits | meas | sar | pwm | gdl | trp | saf | clk
  | nt | eth | cmd | ops | log | sec | stg | acq | dma | dram | host | twn | arb | mgt
  deriving DecidableEq, Repr

/-- One part of two states is the same. -/
def State.same (s t : State) : Part → Prop
  | .pending => t.pending = s.pending
  | .now => t.now = s.now
  | .free => t.free = s.free
  | .live => t.live = s.live
  | .regs => t.regs = s.regs
  | .bus => t.bus = s.bus
  | .eng => t.eng = s.eng
  | .waits => t.waits = s.waits
  | .meas => t.meas = s.meas
  | .sar => t.sar = s.sar
  | .pwm => t.pwm = s.pwm
  | .gdl => t.gdl = s.gdl
  | .trp => t.trp = s.trp
  | .saf => t.saf = s.saf
  | .clk => t.clk = s.clk
  | .nt => t.nt = s.nt
  | .eth => t.eth = s.eth
  | .cmd => t.cmd = s.cmd
  | .ops => t.ops = s.ops
  | .log => t.log = s.log
  | .sec => t.sec = s.sec
  | .stg => t.stg = s.stg
  | .acq => t.acq = s.acq
  | .dma => t.dma = s.dma
  | .dram => t.dram = s.dram
  | .host => t.host = s.host
  | .twn => t.twn = s.twn
  | .arb => t.arb = s.arb
  | .mgt => t.mgt = s.mgt

/-- From `s` to `t` nothing but the named parts changes. -/
def Only (l : List Part) (s t : State) : Prop := ∀ p, p ∉ l → s.same t p

/-- The parts of the state that each command may change: every other part stays as it was. -/
def touched : Instr → List Part
  | .registerWrite _ _ _ | .heldLowerWordWrite _ _ | .rwsStageWrite _ _ _ _ =>
    [.free, .regs, .bus, .meas, .sar, .pwm, .gdl, .trp, .nt, .eth, .cmd, .stg, .acq, .dma, .dram, .host, .twn]
  | .captureRead _ _ | .readClear _ _ =>
    [.regs, .bus, .eng, .trp, .nt, .eth]
  | .loadPoint _ _ | .timebaseFirstZero _ =>
    [.now, .free, .live, .regs, .eng, .waits, .meas, .sar, .pwm, .gdl, .trp, .saf, .clk, .nt, .eth, .cmd, .ops, .log, .sec, .stg, .acq, .dma, .dram, .host, .twn, .mgt]
  | .engineStart _ =>
    [.now, .regs, .eng, .trp, .nt, .twn]
  | .publish _ | .graphComplete _ | .engineDeadlineMiss _ | .psetMismatchTimeout | .readbackCheck _ _ | .adpllLockTimeout |
    .selftestComplete _ =>
    [.now, .free, .regs, .eng, .waits, .pwm, .gdl, .trp, .saf, .nt, .eth, .cmd, .ops, .log, .stg, .acq, .dma, .dram, .host, .twn, .mgt]
  | .breakerStateAccepted _ _ | .oscDetect _ _ | .oscTimeout _ _ =>
    [.eng]
  | .fadeEnd _ | .rtExitTimeout _ | .clExitTimeout _ | .recoveryEnd _ =>
    [.now, .eng, .nt]
  | .engineEccError _ _ | .crossFault _ | .safetyLockstepMismatch | .opsHalt _ | .watchdogExpiry | .coreLockstepMismatch |
    .memEccError | .regulatorFault | .safetyClockFault _ =>
    [.free, .regs, .eng, .waits, .pwm, .gdl, .trp, .saf, .nt, .eth, .cmd, .ops, .log, .stg, .acq, .dma, .dram, .host, .twn, .mgt]
  | .gfmSetTargets _ _ | .gfmSetBreaker _ _ | .gfmClearFlags _ _ | .frdBankSwap _ _ | .frdSatReadClear _ _ | .prfSetTarget _ _ =>
    [.regs, .eng, .waits, .cmd, .host, .twn, .mgt]
  | .frdGraphLoad _ _ _ | .stgToken _ _ | .stgWrite _ _ | .stgCheck _ _ | .stgSave _ _ _ | .stgRecover _ _ =>
    [.regs, .cmd, .stg, .host, .twn, .mgt]
  | .stgCommit _ _ =>
    [.live, .regs, .cmd, .stg, .host, .twn, .mgt]
  | .mboxOutCapture _ =>
    [.regs, .bus, .eng]
  | .decimationDump _ =>
    [.regs, .eng, .meas, .nt, .acq, .dram]
  | .stuckRunStart _ | .comparatorActivate _ =>
    [.free, .regs, .meas, .pwm, .gdl, .trp, .nt, .log, .acq, .twn]
  | .stuckRunEnd _ | .linkSourceResume _ | .comparatorDeactivate _ | .fastPathMaskEnd _ =>
    [.meas]
  | .sequenceTrigger | .urgentRequest _ =>
    [.regs, .sar]
  | .sarConversionDone _ =>
    [.now, .regs, .sar, .nt]
  | .compareEdge _ _ | .innerTurnOff _ =>
    [.now, .regs, .pwm, .gdl, .trp, .nt]
  | .deadTimeExpiry _ | .gaConfirm _ _ =>
    [.now, .pwm, .gdl, .nt]
  | .syncInPulse | .syncInMiss =>
    [.regs, .pwm]
  | .ackTimeout _ | .ackMismatch _ =>
    [.now, .free, .regs, .pwm, .gdl, .trp, .nt, .log, .acq, .twn]
  | .gcFault _ _ | .fltTrip _ _ | .tripInActive _ _ =>
    [.free, .regs, .pwm, .gdl, .trp, .nt, .log, .acq, .twn]
  | .edgeFrameSend _ | .trpTrip _ _ =>
    [.free, .regs, .pwm, .gdl, .trp, .nt, .cmd, .log, .acq, .host, .twn, .mgt]
  | .dsrRingCycle _ _ | .trpClear _ _ | .clearEvaluation =>
    [.now, .free, .regs, .pwm, .gdl, .trp, .nt, .cmd, .log, .acq, .host, .twn, .mgt]
  | .gdlOstStart _ =>
    [.regs, .gdl, .trp]
  | .gdlOstRun _ _ =>
    [.regs, .gdl, .trp, .cmd, .host, .twn, .mgt]
  | .gdlTrain _ =>
    [.regs, .meas, .pwm, .gdl, .trp]
  | .gdlLinkTrain _ _ =>
    [.regs, .meas, .pwm, .gdl, .trp, .cmd, .host, .twn, .mgt]
  | .linkTrainingComplete _ _ =>
    [.now, .regs, .gdl, .nt, .cmd, .log, .host, .twn, .mgt]
  | .loadSend _ =>
    [.now, .gdl, .nt]
  | .twinFrameDeadline =>
    [.now, .nt, .twn]
  | .pullInFrameSend _ =>
    [.now, .pwm, .gdl, .nt]
  | .returnFrame _ _ =>
    [.free, .regs, .meas, .pwm, .gdl, .trp, .nt, .cmd, .log, .acq, .host, .twn, .mgt]
  | .trpRecRead =>
    [.bus, .trp]
  | .tripClockNtSet =>
    [.now, .trp, .nt]
  | .safetyInputChange _ _ _ =>
    [.regs, .eng, .waits, .pwm, .gdl, .trp, .saf, .nt, .cmd, .ops, .log, .acq, .host, .twn, .mgt]
  | .discrepancy _ =>
    [.now, .regs, .eng, .waits, .pwm, .gdl, .trp, .saf, .nt, .cmd, .ops, .log, .host, .twn, .mgt]
  | .offPulseStart _ =>
    [.now, .saf, .nt]
  | .offPulseEnd _ =>
    [.now, .regs, .saf, .nt]
  | .referenceComparison _ _ _ =>
    [.now, .free, .regs, .eng, .waits, .meas, .pwm, .gdl, .trp, .saf, .clk, .nt, .eth, .cmd, .ops, .log, .stg, .acq, .dma, .dram, .host, .twn, .mgt]
  | .referenceLost =>
    [.now, .free, .regs, .eng, .waits, .pwm, .gdl, .trp, .saf, .clk, .nt, .eth, .cmd, .ops, .log, .stg, .acq, .dma, .dram, .host, .twn, .mgt]
  | .tcxoLoss =>
    [.free, .regs, .eng, .waits, .pwm, .gdl, .trp, .saf, .clk, .nt, .eth, .cmd, .ops, .log, .stg, .acq, .dma, .dram, .host, .twn, .mgt]
  | .clkReacquire _ _ =>
    [.regs, .clk, .cmd, .host, .twn, .mgt]
  | .outputRestart =>
    [.now, .regs, .meas, .clk, .nt]
  | .ntIncrWrite _ =>
    [.regs, .nt]
  | .ntValidSet | .ntValidClr =>
    [.nt]
  | .ntSet _ _ =>
    [.regs, .clk, .nt, .cmd, .log, .host, .twn, .mgt]
  | .ntSporeLoad _ _ | .ntSporeCancel _ _ =>
    [.regs, .nt, .cmd, .host, .twn, .mgt]
  | .sporeDue | .ppsOutPulse | .ptmHoldoffEnd | .ptmSenderExpiry _ =>
    [.now, .nt]
  | .sporeExecute | .commitApply =>
    [.now, .free, .live, .regs, .eng, .waits, .meas, .pwm, .gdl, .trp, .saf, .clk, .nt, .cmd, .ops, .log, .sec, .stg, .acq, .host, .twn, .mgt]
  | .ntSporeRecRead =>
    [.bus, .nt]
  | .ethFrameReceive _ _ _ | .ethFrameTransmit _ =>
    [.regs, .eth]
  | .ethTxtsRead _ =>
    [.bus, .eth]
  | .ptmPublish =>
    [.regs, .nt, .eth]
  | .ptmReceive _ | .extTrigEdge =>
    [.regs, .nt, .acq]
  | .doorbell _ _ | .cqHeadWrite _ _ | .ringEnable _ =>
    [.regs, .cmd]
  | .workItemDispatch _ | .descriptorFetch _ _ _ _ | .payloadReadFail _ _ | .parse _ | .verify _ | .ringDisable _ =>
    [.regs, .cmd, .host]
  | .place _ =>
    [.free, .regs, .cmd, .sec, .host, .twn]
  | .commandTimeout _ _ =>
    [.now, .regs, .nt, .cmd, .host]
  | .ringDrained _ =>
    [.cmd]
  | .command _ _ =>
    [.free, .regs, .cmd, .sec, .host, .twn, .mgt]
  | .keyGrant _ _ | .plantKeyGrant _ _ | .grantUnwrap _ | .keyRetire _ _ =>
    [.regs, .cmd, .sec, .host, .twn, .mgt]
  | .anchorInstall _ _ | .anchorRevoke _ _ =>
    [.regs, .cmd, .log, .sec, .host, .twn, .mgt]
  | .tamperDetection _ =>
    [.free, .regs, .eng, .waits, .pwm, .gdl, .trp, .saf, .nt, .eth, .cmd, .ops, .log, .sec, .stg, .acq, .dma, .dram, .host, .twn, .mgt]
  | .tokenLeaseExpiry =>
    [.now, .regs, .nt, .log, .stg]
  | .opsArm _ =>
    [.regs, .eng, .pwm, .cmd, .ops, .log, .host, .twn, .mgt]
  | .opsStart _ _ | .opsStop _ _ =>
    [.regs, .cmd, .ops, .host, .twn, .mgt]
  | .imgFwLoad _ _ _ | .fwImageWriteComplete =>
    [.regs, .cmd, .ops, .log, .host, .twn, .mgt]
  | .opsDisarm _ | .armLost =>
    [.regs, .eng, .waits, .pwm, .gdl, .trp, .nt, .cmd, .ops, .log, .host, .twn, .mgt]
  | .opsMainReset _ | .configBlockWriteComplete =>
    [.live, .regs, .bus, .eng, .waits, .meas, .sar, .pwm, .gdl, .trp, .saf, .clk, .nt, .eth, .cmd, .ops, .log, .sec, .stg, .acq, .dma, .host, .twn, .mgt]
  | .offSequenceComplete =>
    [.free, .live, .regs, .bus, .eng, .waits, .meas, .sar, .pwm, .gdl, .trp, .saf, .clk, .nt, .eth, .cmd, .ops, .log, .sec, .stg, .acq, .dma, .host, .twn, .mgt]
  | .twnResync _ | .resyncComplete | .rhizomeBlockLockLoss =>
    [.regs, .cmd, .host, .twn, .mgt]
  | .logRead _ _ =>
    [.regs, .cmd, .log, .host, .twn, .mgt]
  | .imgFwActivate _ _ =>
    [.regs, .cmd, .ops, .sec, .host, .twn, .mgt]
  | .powerOnResetRelease _ =>
    [.live, .regs, .bus, .eng, .waits, .meas, .sar, .pwm, .gdl, .trp, .saf, .clk, .nt, .eth, .cmd, .ops, .log, .sec, .stg, .acq, .dma, .twn, .mgt]
  | .bootComplete _ | .resyncFrameReceive _ =>
    [.free, .live, .regs, .eng, .waits, .meas, .pwm, .gdl, .trp, .saf, .clk, .nt, .cmd, .ops, .log, .sec, .stg, .acq, .host, .twn, .mgt]
  | .vinLoss =>
    [.regs, .pwm, .gdl, .trp, .saf, .cmd, .ops, .log, .stg, .host, .twn, .mgt]
  | .holdUpEnd =>
    [.now, .live, .regs, .bus, .eng, .waits, .meas, .sar, .pwm, .gdl, .trp, .saf, .clk, .nt, .eth, .cmd, .ops, .log, .sec, .stg, .acq, .dma, .dram, .twn, .mgt]
  | .vmgtLoss =>
    [.free, .live, .regs, .eng, .waits, .pwm, .gdl, .trp, .saf, .nt, .eth, .cmd, .ops, .log, .sec, .stg, .acq, .dma, .dram, .host, .twn, .arb, .mgt]
  | .logFlush =>
    [.log]
  | .nandRefresh _ _ =>
    [.ops, .log]
  | .acqArm _ _ =>
    [.now, .free, .regs, .nt, .cmd, .acq, .dram, .host, .twn, .mgt]
  | .acqTrigger _ _ =>
    [.regs, .nt, .cmd, .acq, .host, .twn, .mgt]
  | .acqStop _ _ =>
    [.regs, .cmd, .acq, .host, .twn, .mgt]
  | .acqPostComplete _ | .acqRearm _ | .acqSegFree _ _ =>
    [.acq]
  | .acqHeaderWritten _ =>
    [.now, .free, .regs, .nt, .cmd, .acq, .dram]
  | .dmaStart _ _ =>
    [.free, .regs, .cmd, .dma, .dram, .host]
  | .dmaAbort _ | .dmaAbortComplete _ =>
    [.eth, .cmd, .dma, .dram, .host]
  | .dmaDescTailWrite _ _ =>
    [.regs]
  | .dmaRunStart _ =>
    [.dma]
  | .dmaFlushTimeout _ =>
    [.now, .nt, .dma]
  | .dmaBurst _ _ _ =>
    [.free, .regs, .sar, .eth, .cmd, .dma, .dram, .host]
  | .dmaHostError _ _ _ =>
    [.free, .eth, .cmd, .dma, .dram, .host]
  | .hbPulse | .arbLost =>
    [.now, .nt, .twn]
  | .roleInPulse _ | .periodFrameReceive _ =>
    [.free, .regs, .eng, .waits, .pwm, .gdl, .trp, .nt, .cmd, .ops, .log, .acq, .host, .twn, .mgt]
  | .ownNChange _ =>
    [.regs, .pwm, .gdl, .trp, .saf, .twn]
  | .periodFrameSend =>
    [.now, .regs, .nt, .twn]
  | .itemFrameReceive _ =>
    [.now, .free, .live, .regs, .eng, .waits, .meas, .pwm, .gdl, .trp, .saf, .clk, .nt, .eth, .cmd, .ops, .log, .sec, .stg, .acq, .dma, .dram, .host, .twn, .mgt]
  | .rhizomeTraining _ =>
    [.regs, .twn]
  | .twnResyncTimeout =>
    [.now, .regs, .nt, .cmd, .host, .twn, .mgt]
  | .roleSwapRequest =>
    [.twn]
  | .roleSwapCheck =>
    [.now, .regs, .nt, .log, .twn]
  | .haltHoldExpiry =>
    [.now, .regs, .pwm, .gdl, .trp, .saf, .nt, .twn]
  | .arbiterHbTimeout _ | .arbiterBbmExpiry =>
    [.now, .nt, .arb]
  | .arbiterSwapReq _ | .arbiterHbPulse _ _ =>
    [.arb]
  | .mctpPacket _ _ =>
    [.regs, .mgt]
  | .setEndpointId _ | .getEndpointId | .getMctpVersionSupport | .getMessageTypeSupport | .getVendorDefinedMessageSupport |
    .getStatus _ | .getSlots _ | .getReplay _ | .getIdentity _ _ =>
    [.mgt]
  | .getLog _ _ =>
    [.log, .mgt]
  | .putBlock _ _ =>
    [.dram, .mgt]
  | .modulatorTick _ _ =>
    [.now, .regs, .meas, .nt, .acq, .dram, .twn]
  | .vmgtPowerUp _ =>
    [.free, .live, .regs, .bus, .eng, .waits, .meas, .sar, .pwm, .gdl, .trp, .saf, .clk, .nt, .eth, .cmd, .ops, .log, .sec, .stg, .acq, .dma, .dram, .twn, .arb, .mgt]
  | .ethLinkChange _ _ _ _ =>
    [.eth]
  | .supervisionFrameSend =>
    [.now, .nt, .eth]

/-! ### Registers -/

/-- An access at `off` meets the first byte of instance `(i, j)` of register `r`; the MSI-X windows hold no register. -/
def atReg (off : Offset) (r : Reg) (i j : Nat) : Prop :=
  findReg off.toNat = some (r, i, j) ∧ off.toNat = regAddr r i j ∧ off.toNat % 4 = 0
    ∧ inMsixTable off.toNat = false ∧ inMsixPba off.toNat = false

/-- The same for the upper word of a 64-bit register. -/
def atUpper (off : Offset) (r : Reg) (i j : Nat) : Prop :=
  findReg off.toNat = some (r, i, j) ∧ off.toNat = regAddr r i j + 4 ∧ off.toNat % 4 = 0
    ∧ inMsixTable off.toNat = false ∧ inMsixPba off.toNat = false

/-- From `s` to `t` no register but instance `(i, j)` of `r` has changed in the register file. -/
def OtherRegs (r : Reg) (i j : Nat) (s t : State) : Prop :=
  ∀ (r' : Reg) (i' j' : Nat), regAddr r' i' j' ≠ regAddr r i j → t.reg r' i' j' = s.reg r' i' j'

/-- From `s` to `t` one register is set, and nothing else changes. -/
def SetsReg (r : Reg) (i j : Nat) (v : DWord) (s t : State) : Prop :=
  t.reg r i j = v ∧ OtherRegs r i j s t ∧ Only [.regs] s t

/-- From `s` to `t` one event is counted in a 32-bit counter, which saturates (R15), and nothing else changes. -/
def Counts (r : Reg) (i : Nat) (s t : State) : Prop :=
  (t.reg r i 0).toNat = min ((s.reg r i 0).toNat + 1) 0xFFFFFFFF ∧ OtherRegs r i 0 s t ∧ Only [.regs] s t

/-- From `s` to `t` one discarded BAR0 access is counted, with its cause, direction and offset (R11, R36, Table ARC-9), and no other
register changes. -/
def CountsAccess (cause : Nat) (write : Bool) (off : Offset) (s t : State) : Prop :=
  (t.reg .glbAccessErr).toNat = min ((s.reg .glbAccessErr).toNat + 1) 0xFFFFFFFF
    ∧ (t.reg .glbAccessAddr).toNat = cause * 2 ^ 24 + (if write then 2 ^ 23 else 0) + off.toNat
    ∧ ∀ (r : Reg) (i j : Nat), regAddr r i j ≠ regAddr .glbAccessErr 0 0 → regAddr r i j ≠ regAddr .glbAccessAddr 0 0 →
        t.reg r i j = s.reg r i j

/-- Registers of the code RW whose write stores the value and does nothing else. -/
def plainRw : List Reg := [.glbScratch, .frdBankWin, .ntSporeSel, .ethPdelay, .schCtrl, .secRingSel, .stgPeekAddr, .acqIrq]

/-! ### Safe gate inhibit -/

/-- From `s` to `t` a safety fault has been latched with a code of one channel: neither channel releases its output, and a device that
was not in OFF is in HALTED, with the cause recorded where it had not been there (R261). -/
def SafetyFaulted (ch : SafCh) (code : Nat) (s t : State) : Prop :=
  t.saf.fault = true ∧ (t.safChan ch).code = code ∧ t.saf.chA.rel = false ∧ t.saf.chB.rel = false
    ∧ (s.ops.st ≠ .off → t.ops.st = .halted) ∧ (s.ops.st ≠ .off → s.ops.st ≠ .halted → t.ops.cause = 0x25)

/-! ### Commands -/

/-- A command acts: it has been accepted with these bytes, it is its turn, and it does not come from a host ring in HALTED, where only
those of R386 act, nor is it an STG_COMMIT there. -/
def State.admits (s : State) (c : Src) (op : Nat) (p : Bytes) : Prop :=
  s.given c op p = true ∧ ¬ (s.ops.st = .halted ∧ (c.ring.val < 128 ∨ op = 0x0204))

/-- From `s` to `t` the bytes `bs` are written to host memory from address `a` on, and every other byte reads as before. -/
def HostTakes (a : Nat) (bs : Bytes) (s t : State) : Prop :=
  ∀ x, cellsRead memDefault t.host x =
    if a ≤ x ∧ x < a + bs.length then lget bs (x - a) 0 else cellsRead memDefault s.host x

/-- Host memory reads the same in both states. -/
def HostSame (s t : State) : Prop := ∀ x, cellsRead memDefault t.host x = cellsRead memDefault s.host x

/-- The place of the next completion entry of a ring (R322). -/
def State.cqSlot (s : State) (r : Nat) : Nat := (s.reg .cmdCqBase r).toNat + 32 * (s.ring r).cqTail

/-- Between `s` and `t` a command has been answered once, with a status, a DETAIL and APPLIED_AT (R322, R323): by the completion
entry of Table CMD-5 at the tail of its ring's completion queue, which moves on, or, for the management port, by a response that
carries the entry (Table MGT-2), as long as it waits for one. A module that applies its twin's command writes nothing and remembers the
outcome (R440). -/
def Answered (c : Src) (op : Nat) (st : Status) (detail : Nat) (at_ : DWord) (s t : State) : Prop :=
  if (s.pair && !s.ownCommand c) = true then
    HostSame s t ∧ t.mgt.sent = s.mgt.sent
      ∧ t.twn.past.head? = some { ring := c.ring.val, seq := c.seq, status := st.code, appliedAt := at_ }
  else if c.ring.val = 128 then
    HostSame s t ∧ match s.mgt.cmd.filter fun m => sameSrc m.cmd.src c with
      | some m => t.mgt.cmd = none
          ∧ ∃ tail, t.mgt.sent = t.mctpOut m.peer (mgtReply 0x10 m.reqId 0 (cqEntry c op st detail at_ 0 true ++ tail)) ++ s.mgt.sent
      | none => t.mgt.sent = s.mgt.sent
  else
    HostTakes (s.cqSlot c.ring) (cqEntry c op st detail at_ (s.ring c.ring).sqHead (s.ring c.ring).phase) s t
      ∧ (t.ring c.ring).cqTail = ((s.ring c.ring).cqTail + 1) % s.depth c.ring


/-! ### Engines and stacks -/

/-- From `s` to `t` a command has come to the inbound mailbox of every engine of a mask, and its completion waits for their reports (R98,
R99). -/
def Mailed (c : Src) (op : Nat) (p : Bytes) (mask : Nat) (s t : State) : Prop :=
  (∀ e < 8, mask.testBit e = true → ∃ m, (t.engN e).inbox = (s.engN e).inbox ++ [m] ∧ m.opcode = op ∧ m.src = c
      ∧ m.payload = p.take 32 ∧ m.acceptAt = s.acceptedAt c ∧ m.takeIdx = s.controlTake c op p)
    ∧ (∀ e < 8, mask.testBit e = false → t.engN e = s.engN e)
    ∧ t.waits = s.waits ++ [{ who := .cmd c op, left := BitVec.ofNat 8 mask }] ∧ HostSame s t

/-- From `s` to `t` one engine becomes `n`, every other one stays, and nothing else changes. -/
def SetsEngine (e : Fin 8) (n : Engine) (s t : State) : Prop :=
  t.engN e = n ∧ (∀ e' : Fin 8, e' ≠ e → t.engN e' = s.engN e') ∧ Only [.eng] s t

/-- A trip source of stack `k` is evaluated, and its cause latches (R224, R226, R437). -/
def State.latches (s : State) (k cause : Nat) : Bool := s.tripsWatched && !s.maskedByOst k cause && !s.ownPath cause

/-- From `s` to `t` a cause is latched in the zone of a stack; the first one turns its outer channels off (R231). -/
def Tripped (k cause : Nat) (s t : State) : Prop :=
  (t.zone k).causes.getLsbD cause = true ∧ ((s.zone k).causes = 0 → ∀ n ∈ stackChans k, isOuter n = true → (t.chan n).gc = false)

/-- From `s` to `t` one measurement channel becomes `d`, every other one stays, and nothing else changes. -/
def SetsDec (c : Fin 160) (d : DecChan) (s t : State) : Prop :=
  t.dec c = d ∧ (∀ c' : Fin 160, c' ≠ c → t.dec c' = s.dec c') ∧ Only [.meas] s t

/-- The stacks of a clear request that its evaluation refuses (R238). -/
def State.refused (s : State) (mask : Nat) (links : List ClearLink) : Nat :=
  maskOf 16 fun k => mask.testBit k && !(s.cleared mask links).testBit k

/-- From `s` to `t` a clear request has been evaluated, as its CTL cycle ends: the stacks that may clear have no cause left, the others
keep theirs, the request is pending no more, and it is answered OK or with the mask of those refused (R237, R238). `links` tells which
nodes the request still waits for. -/
def ClearJudged (c : Src) (mask : Nat) (links : List ClearLink) (s t : State) : Prop :=
  (∀ k < 16, mask.testBit k = true →
      (t.zone k).causes = (if (s.cleared mask links).testBit k then 0 else (s.zone k).causes)
        ∧ (t.zone k).clearPend = t.trp.clear.any fun r => r.mask.getLsbD k)
    ∧ (∀ k < 16, mask.testBit k = false → t.zone k = s.zone k)
    ∧ t.now = max s.now (ctlTick s.now + 1)
    ∧ if s.refused mask links = 0 then Answered c 0x0602 .ok 0 t.nt64 s t else Answered c 0x0602 .clearRefused (s.refused mask links) 0 s t

/-- From `s` to `t` a spore slot has left its record, with a result and a DETAIL, at the end of the record queue (R301). -/
def SporeRecorded (d : DueSlot) (st : Status) (detail : Nat) (s t : State) : Prop :=
  ∃ r : SporeRec, t.nt.recs = s.nt.recs ++ [r] ∧ r.slot = d.slot ∧ r.action = d.spore.action ∧ r.result = st.code ∧ r.late = d.spore.late
    ∧ r.same = d.same ∧ r.discard = false ∧ r.detail = BitVec.ofNat 32 detail ∧ r.nt = t.ntFine

/-- From `s` to `t` every armed acquisition unit of a mask has taken a trigger, and every unit outside it stays (R401). -/
def UnitsTriggered (mask : Nat) (nt : DWord) (s t : State) : Prop :=
  ∀ u < 8, if mask.testBit u then
      (s.acqN u).st = .armed → (t.acqN u).st = .triggered ∧ (t.acqN u).trigNt = nt
    else t.acqN u = s.acqN u

/-- Between `s` and `t` a command in flight has ended on its host ring: its entry stands at the tail of the completion queue, which moves
on, and it is in flight no more (R322). -/
def Ended (f : Flight) (st : Status) (detail : Nat) (at_ : DWord) (s t : State) : Prop :=
  HostTakes (s.cqSlot f.ring) (cqEntry f.src f.opcode st detail at_ (s.ring f.ring).sqHead (s.ring f.ring).phase) s t
    ∧ (t.ring f.ring).cqTail = ((s.ring f.ring).cqTail + 1) % s.depth f.ring
    ∧ t.cmd.flights = s.cmd.flights.filter fun x => x.no != f.no

/-- Between `s` and `t` the next work item of a command in flight has joined the ready lists, and nothing has been written to the host. -/
def Queued (f : Flight) (k : WorkKind) (s t : State) : Prop :=
  t.cmd.ready = s.cmd.ready ++ [{ level := s.level f.ring, kind := k, no := f.no }] ∧ HostSame s t

/-- From `s` to `t` every session key and plant key whose grant an anchor slot signed is retired, every other key stays, and no grant of
that slot, queued or accepted, still waits to install its key (R344, R345). -/
def GrantsRetired (slot : Nat) (s t : State) : Prop :=
  (∀ r < 129, (t.rep r).key = match (s.rep r).key with
    | some k => if k.grantor = slot then none else some k
    | none => none) ∧
  (∀ i < 4, vget t.sec.plant i none = match vget s.sec.plant i none with
    | some k => if k.grantor = slot then none else some k
    | none => none) ∧
  (∀ g ∈ t.sec.grants, g.grantor = slot → g.erased = true) ∧
  (∀ h ∈ t.cmd.handed, h.opcode = 0x0401 ∨ h.opcode = 0x0405 → h.src.keyId.toNat % 16 = slot → h.dead = true)

/-- A core places a command in flight that no standby refuses. -/
def State.places (s : State) (core : Fin 2) (f : Flight) : Prop :=
  s.ops.coresStopped = false ∧ s.unitWork core .place = some f ∧ s.standbyRefuses f.opcode = false

/-- Is a query answered with its body: no other request is being handled, and its kind is available? -/
def State.answers (s : State) (kind : Nat) (req : Byte) : Bool := !(s.takeMsg kind req).mgtBusy && s.kindOpen kind

/-- From `s` to `t` a query of the management port has been answered in packets to its sender: BUSY while another request is being
handled, 0x03 where it is not available, else with its body (Table MGT-2, Table MGT-3). Nothing else changes but `also`. -/
def Asked (kind : Nat) (req : Byte) (body : Bytes) (also : List Part) (s t : State) : Prop :=
  t.mgt.inbox = (s.mgt.inbox.eraseP fun x => x.kind = kind && x.reqId = req) ∧ Only (.mgt :: also) s t
    ∧ t.mgt.sent = s.mctpOut (s.msgPeer kind req) (if (s.takeMsg kind req).mgtBusy then mgtReply kind req 1 []
        else if s.kindOpen kind = false then mgtReply kind req 3 [] else mgtReply kind req 0 body) ++ s.mgt.sent

/-- The parts of a COMMAND message: descriptor, payload and signature (Table MGT-2). -/
def mgtParts (body : Bytes) : Bytes × Bytes × Bytes :=
  let d := padTo 128 body
  let rest := body.drop 128
  let n := if (pb d 2).testBit 0 then 0 else pf d 6 2
  (d, payloadOf d (rest.take n), padTo (pf d 28 4) (rest.drop n))

/-- Is an SMBus write a packet that the port takes: for it, of MCTP version 1, to the null endpoint ID or to its own (R452)? -/
def State.mctpTakes (s : State) (p : Bytes) : Prop :=
  s.mctpMine p = true ∧ pb p 4 % 16 = 1 ∧ (pb p 5 = 0 ∨ s.mgt.eid ≠ 0 ∧ pb p 5 = s.mgt.eid.toNat)

/-- The sender of a packet. -/
def mctpFrom (p : Bytes) : MctpPeer := { addr := pb p 3 / 2, eid := BitVec.ofNat 8 (pb p 6), tag := nbits (pb p 7) 3 0 }

/-- The replay state that an accepted command of ring 128 leaves: its SEQ as LAST_SEQ (R346), and what a session grant sets (R350). -/
def State.mgtReplay (s : State) (op : Nat) (seq : DWord) (p : Bytes) : Replay :=
  if op = 0x0401 then { s.rep 128 with
    epoch := BitVec.ofNat 32 (pf p 4 4), lastSeq := BitVec.ofNat 64 (max seq.toNat (pf p 24 8)), floorUnset := false
    nonce := Config.drbg128 s.free }
  else { s.rep 128 with lastSeq := seq }

/-- What keeps a COMMAND message from being accepted, in the order of its checks (R456, R457). -/
def State.mgtRefusal (s : State) (body : Bytes) : Option (Status × Nat) :=
  let (d, p, sig) := mgtParts body
  let op := pf d 0 2
  match s.mgtDescRefusal d p with
  | some x => some x
  | none =>
    if s.opOpen op p = false then some (.error, 0x80000030)
    else match s.mgtAuth d p sig with
      | some x => some (.authFail, x)
      | none => s.replayRefusal 128 (mgtSrc d).seq (mgtSrc d).applyAt op p

/-- A command answers a next state, of which `P` holds. -/
def Completes (c : Instr) (s : State) (P : State → Prop) : Prop := ∃ t, exec c s = .next t ∧ P t

end Sys2Proof.Machine
end

