-- ==== Sys2Proof/Certificates/Slice0/Obligations.lean ====
section
/-! DEFINITION. The statements about the model: what every step keeps, what each command does when it takes effect, and what it leaves
alone. A premise `storesCanonical` or `Sound` is an invariant of the model, which two statements of their own say. -/

open Sys2Proof Sys2Proof.Machine

/-! ### The whole device -/

/-- A step takes the command at the front of the queue and runs it with the queue's rest. -/
def Obligations.StepRunsTheFrontCommand : Prop :=
  ∀ (c : Instr) (rest : List Instr) (s : State), s.pending = c :: rest → step s = exec c { s with pending := rest }

/-- With no command waiting a step takes time to the next CTL tick, 1 ns on from the last: the model's choice (log 1). -/
def Obligations.IdleStepIsOneTick : Prop :=
  ∀ s : State, s.pending = [] → ∃ t, step s = .next t ∧ t.pending = [] ∧ t.now = (s.now / 32 + 1) * 32

/-- Every command answers a next state in every state, none ends in a fault or a refusal; it leaves the queue alone, and time does not run
back. That an event whose condition does not hold changes nothing, where it could not have come, is the model's choice (log 7). -/
def Obligations.EveryCommandCompletes : Prop :=
  ∀ (c : Instr) (s : State), Completes c s fun t => t.pending = s.pending ∧ s.now ≤ t.now

/-- Every step keeps the device sound: no two complementary gates on, every queue within its depth, every store in canonical form, no
anchor slot beyond its fuses. -/
def Obligations.StepKeepsTheDeviceSound : Prop :=
  ∀ s t : State, s.Sound → step s = .next t → t.Sound

/-- The device is sound right after reset. -/
def Obligations.ResetIsSound : Prop :=
  State.reset.Sound

/-- No command takes back what is burnt into fuses: generations of anchor slots and the security version never fall, and the vendor root
and the identity stay (R338, R344, R390). -/
def Obligations.CommandsKeepTheRootOfTrust : Prop :=
  ∀ (c : Instr) (s t : State), exec c s = .next t → s.rooted t

/-- The frame of every command: it changes no part of the state but those that `touched` names. -/
def Obligations.CommandsChangeOnlyTheirParts : Prop :=
  ∀ (c : Instr) (s t : State), exec c s = .next t → Only (touched c) s t

/-- What reset leaves: state BOOT, every register at the value of its table, no engine executing, the ADPLL acquiring on the TCXO, VALID
of network time 0, rings DISABLED, channels off, no zone tripped. -/
def Obligations.ResetLeavesTheStatedValues : Prop :=
  State.reset.ops.st = .boot ∧ (∀ (r : Reg) (i j : Nat), State.reset.reg r i j = BitVec.ofNat 64 (regReset r i))
    ∧ (∀ (r : Reg) (i j hi lo : Nat), State.reset.lv r i j hi lo = bitsOf (BitVec.ofNat 64 (regReset r i)) hi lo)
    ∧ (∀ e < 8, (State.reset.engN e).executing = false ∧ (State.reset.engN e).image = none ∧ (State.reset.engN e).idx = 0)
    ∧ State.reset.clk.st = .acquire ∧ State.reset.nt.valid = false
    ∧ (∀ r < 128, (State.reset.ring r).st = .disabled) ∧ (∀ n < 192, (State.reset.chan n).gc = false)
    ∧ (∀ k < 16, (State.reset.zone k).causes = 0) ∧ State.reset.stg.token = none

/-! ### BAR0 accesses -/

/-- REGISTER_WRITE by access code (R13, Table SCO-4): an RW register takes the value, a W1C register loses the bits written as 1, an RO or
RC register ignores the write; reserved bits ignore writes (R14). A 64-bit write is taken whole. A narrow write, a misaligned access and a
write to an unassigned offset are discarded and counted with their cause; a misaligned read and a read of an unassigned offset return 0
and are counted (R11, R36). A narrow read returns the addressed bytes. -/
def Obligations.AccessesFollowTheRegisterTable : Prop :=
  (∀ (off : Offset) (r : Reg) (i j : Nat) (v : DWord) (s : State), s.storesCanonical → r ∈ plainRw → atReg off r i j →
    Completes (.registerWrite ⟨none, off⟩ .w32 v) s fun t => SetsReg r i j (BitVec.ofNat 64 (v.toNat % 2 ^ 32 &&& r.row.mask)) s t) ∧
  (∀ (off : Offset) (r : Reg) (i j : Nat) (v : DWord) (s : State), s.storesCanonical → r.row.acc = .w1c → atReg off r i j →
    Completes (.registerWrite ⟨none, off⟩ .w32 v) s fun t =>
      SetsReg r i j (s.reg r i j &&& ~~~ BitVec.ofNat 64 (v.toNat % 2 ^ 32 &&& r.row.mask)) s t) ∧
  (∀ (off : Offset) (r : Reg) (i j : Nat) (v : DWord) (s : State), r.row.acc = .ro ∨ r.row.acc = .rc → atReg off r i j →
    exec (.registerWrite ⟨none, off⟩ .w32 v) s = .next s) ∧
  (∀ (off : Offset) (r : Reg) (i j : Nat) (v : DWord) (s : State), s.storesCanonical → r = .cmdSqBase ∨ r = .cmdCqBase →
    (s.ring i).st = .disabled → atReg off r i j → off.toNat % 8 = 0 →
    Completes (.registerWrite ⟨none, off⟩ .w64 v) s fun t => t.reg r i 0 = v ∧ OtherRegs r i 0 s t ∧ Only [.regs, .bus] s t) ∧
  (∀ (off : Offset) (w : AccessWidth) (v : DWord) (s : State), s.storesCanonical → w = .w8 ∨ w = .w16 →
    Completes (.registerWrite ⟨none, off⟩ w v) s fun t => CountsAccess 0 true off s t ∧ Only [.regs] s t) ∧
  (∀ (off : Offset) (w : AccessWidth) (v : DWord) (s : State), s.storesCanonical →
    w = .w32 ∧ off.toNat % 4 ≠ 0 ∨ w = .w64 ∧ off.toNat % 8 ≠ 0 →
    Completes (.registerWrite ⟨none, off⟩ w v) s fun t => CountsAccess 4 true off s t ∧ Only [.regs] s t) ∧
  (∀ (off : Offset) (w : AccessWidth) (s : State), s.storesCanonical →
    w = .w32 ∧ off.toNat % 4 ≠ 0 ∨ w = .w64 ∧ off.toNat % 8 ≠ 0 →
    Completes (.captureRead ⟨none, off⟩ w) s fun t => CountsAccess 4 false off s t ∧ t.bus.readData = 0 ∧ Only [.regs, .bus] s t) ∧
  (∀ (off : Offset) (v : DWord) (s : State), s.storesCanonical → off.toNat % 4 = 0 → assigned off.toNat = false →
    Completes (.registerWrite ⟨none, off⟩ .w32 v) s fun t => CountsAccess 1 true off s t ∧ Only [.regs] s t) ∧
  (∀ (off : Offset) (s : State), s.storesCanonical → off.toNat % 4 = 0 → assigned off.toNat = false →
    Completes (.captureRead ⟨none, off⟩ .w32) s fun t => CountsAccess 1 false off s t ∧ t.bus.readData = 0 ∧ Only [.regs, .bus] s t) ∧
  (∀ (off : Offset) (w : AccessWidth) (x : Word) (n : Nat) (s : State), w = .w8 ∧ n = 1 ∨ w = .w16 ∧ n = 2 ∧ off.toNat % 4 ≤ 2 →
    s.wordView (off.toNat / 4 * 4) = some x →
    Completes (.captureRead ⟨none, off⟩ w) s fun t =>
      t.bus.readData.toNat = x.toNat / 2 ^ (8 * (off.toNat % 4)) % 2 ^ (8 * n) ∧ Only [.bus] s t)

/-- HELD_LOWER_WORD_WRITE and the write that follows it (R483): the lower word of a writable 64-bit register is held and changes nothing,
and the write of the upper word then writes both words as one; with none held it goes with the live lower word. -/
def Obligations.HeldWordsWriteAWideRegisterWhole : Prop :=
  (∀ (off : Offset) (r : Reg) (i j : Nat) (v : Word) (s : State), r.row.size = 8 → r.row.acc = .rw → atReg off r i j →
    Completes (.heldLowerWordWrite off v) s fun t => assocGet t.bus.held off.toNat = some v ∧ Only [.bus] s t) ∧
  (∀ (off : Offset) (r : Reg) (i j : Nat) (lo : Word) (v : DWord) (s : State), s.storesCanonical →
    r = .cmdSqBase ∨ r = .cmdCqBase → (s.ring i).st = .disabled → atUpper off r i j →
    (assocGet s.bus.held (regAddr r i j)).getD (wordAt (s.reg r i j) false) = lo →
    Completes (.registerWrite ⟨none, off⟩ .w32 v) s fun t =>
      t.reg r i 0 = BitVec.ofNat 64 (lo.toNat + 2 ^ 32 * (v.toNat % 2 ^ 32)) ∧ assocGet t.bus.held (regAddr r i j) = none
        ∧ OtherRegs r i 0 s t ∧ Only [.regs, .bus] s t)

/-- CAPTURE_READ (R12): a read of the lower word of a 64-bit register returns it and captures the upper word; the next read of the upper
word returns the capture and consumes it; with none pending it returns the live upper word. A 64-bit read returns the live value and
leaves the captures alone. A register that is captured with another one shows its latest capture, in either word and whole; FRD_MBOX_OUT_e_0
captures the index of its set (R101). READ_CLEAR (Table SCO-4, code RC): the read returns the value, and the register then reads 0. -/
def Obligations.ReadsCaptureAndClear : Prop :=
  (∀ (off : Offset) (r : Reg) (i j : Nat) (s : State), r.row.size = 8 → r ∉ companions → atReg off r i j →
    Completes (.captureRead ⟨none, off⟩ .w32) s fun t =>
      t.bus.readData.toNat = (s.regValue r i j).toNat % 2 ^ 32
        ∧ (assocGet t.bus.captures off.toNat).map BitVec.toNat = some ((s.regValue r i j).toNat / 2 ^ 32) ∧ Only [.bus] s t) ∧
  (∀ (off : Offset) (r : Reg) (i j : Nat) (w : Word) (s : State), r.row.size = 8 → r ∉ companions → atUpper off r i j →
    assocGet s.bus.captures (regAddr r i j) = some w →
    Completes (.captureRead ⟨none, off⟩ .w32) s fun t =>
      t.bus.readData.toNat = w.toNat ∧ assocGet t.bus.captures (regAddr r i j) = none ∧ Only [.bus] s t) ∧
  (∀ (off : Offset) (r : Reg) (i j : Nat) (s : State), r.row.size = 8 → r ∉ companions → atUpper off r i j →
    assocGet s.bus.captures (regAddr r i j) = none →
    Completes (.captureRead ⟨none, off⟩ .w32) s fun t =>
      t.bus.readData.toNat = (s.regValue r i j).toNat / 2 ^ 32 ∧ Only [.bus] s t) ∧
  (∀ (off : Offset) (r : Reg) (i j : Nat) (s : State), r.row.size = 8 → r ∉ companions → atReg off r i j → off.toNat % 8 = 0 →
    Completes (.captureRead ⟨none, off⟩ .w64) s fun t =>
      t.bus.readData = s.regValue r i j ∧ t.bus.captures = s.bus.captures ∧ Only [.bus] s t) ∧
  (∀ (off : Offset) (r : Reg) (i j : Nat) (s : State), s.storesCanonical → r.row.acc = .rc → atReg off r i j →
    Completes (.readClear off .w32) s fun t =>
      t.bus.readData.toNat = (s.reg r i j).toNat % 2 ^ 32 ∧ t.reg r i j = 0 ∧ OtherRegs r i j s t ∧ Only [.regs, .bus] s t) ∧
  (∀ (off : Offset) (r : Reg) (i j : Nat) (s : State), r ∈ companions → atReg off r i j →
    Completes (.captureRead ⟨none, off⟩ .w32) s fun t =>
      t.bus.readData.toNat = ((assocGet s.bus.companions (regAddr r i j)).getD 0).toNat % 2 ^ 32 ∧ Only [.bus] s t) ∧
  (∀ (off : Offset) (r : Reg) (i j : Nat) (s : State), r ∈ companions → r.row.size = 8 → atUpper off r i j →
    Completes (.captureRead ⟨none, off⟩ .w32) s fun t =>
      t.bus.readData.toNat = ((assocGet s.bus.companions (regAddr r i j)).getD 0).toNat / 2 ^ 32 ∧ Only [.bus] s t) ∧
  (∀ (off : Offset) (r : Reg) (i j : Nat) (s : State), r ∈ companions → r.row.size = 8 → atReg off r i j → off.toNat % 8 = 0 →
    Completes (.captureRead ⟨none, off⟩ .w64) s fun t =>
      t.bus.readData = (assocGet s.bus.companions (regAddr r i j)).getD 0 ∧ Only [.bus] s t) ∧
  (∀ (off : Offset) (e : Fin 8) (s : State), atReg off .frdMboxOut e 0 →
    Completes (.captureRead ⟨none, off⟩ .w32) s fun t =>
      (t.engN e).mboxCap = (s.engN e).mboxPub
        ∧ assocGet t.bus.companions (regAddr .frdMboxOutIdx e 0) = some (s.engN e).mboxPubIdx)

/-! ### The stage -/

/-- RWS_STAGE_WRITE (R16, R361 to R364): a write of the token's holder changes the staged value of that register, and nothing live; a
write of another master, or while the stage is PENDING, is discarded and counted. STG_PEEK_DATA reads the staged value of the register
that STG_PEEK_ADDR names. -/
def Obligations.StagedWritesNeedTheToken : Prop :=
  (∀ (m : Master) (off : Offset) (r : Reg) (i j : Nat) (v : DWord) (s : State), s.storesCanonical →
    r.row.acc = .rws → s.holds m = false ∨ s.stagePending = true → atReg off r i j →
    Completes (.rwsStageWrite m off .w32 v) s (Counts .stgDiscardCnt 0 s)) ∧
  (∀ (m : Master) (off : Offset) (r : Reg) (i j : Nat) (v : DWord) (s : State), s.storesCanonical →
    r.row.acc = .rws → r.row.size = 4 → r ≠ .frdParam → s.holds m = true → s.stagePending = false → atReg off r i j →
    Completes (.rwsStageWrite m off .w32 v) s fun t =>
      regGet t.stg.stage r i j = BitVec.ofNat 64 (v.toNat % 2 ^ 32 &&& r.row.mask) ∧ t.stg.st = .dirty ∧ t.stg.gen = s.stg.gen + 1
        ∧ (∀ (r' : Reg) (i' j' : Nat), regAddr r' i' j' ≠ regAddr r i j → regGet t.stg.stage r' i' j' = regGet s.stg.stage r' i' j')
        ∧ t.live = s.live ∧ t.regs = s.regs) ∧
  (∀ (off : Offset) (r : Reg) (i j : Nat) (s : State), atReg off .stgPeekData 0 0 →
    findReg (s.reg .stgPeekAddr).toNat = some (r, i, j) → (s.reg .stgPeekAddr).toNat = regAddr r i j → r.row.acc = .rws → r ≠ .frdParam →
    Completes (.captureRead ⟨none, off⟩ .w32) s fun t => t.bus.readData.toNat = (regGet s.stg.stage r i j).toNat % 2 ^ 32 ∧ Only [.bus] s t)

/-- STG_TOKEN and TOKEN_LEASE_EXPIRY (R365, R361): a free token, or the sender's own, is taken with its lease; the holder frees it;
another master's request is answered STAGE_BUSY and changes nothing. A token that is freed or lapses without a pending commit makes the
stage equal to the live configuration. -/
def Obligations.TheTokenIsHeldByOneMaster : Prop :=
  (∀ (c : Src) (p : Bytes) (s : State), s.storesCanonical → s.admits c 0x0201 p → pb p 0 = 1 → 0 < pf p 4 4 → pf p 4 4 ≤ 3600000 →
    s.stg.token = none ∨ s.holds (masterOf c) = true →
    Completes (.stgToken c p) s fun t =>
      t.stg = { s.stg with token := some (masterOf c), leaseEnd := s.now + 32000000 * pf p 4 4 } ∧ Answered c 0x0201 .ok 0 s.nt64 s t) ∧
  (∀ (c : Src) (p : Bytes) (s : State), s.storesCanonical → s.admits c 0x0201 p → pb p 0 = 1 → 0 < pf p 4 4 → pf p 4 4 ≤ 3600000 →
    s.stg.token ≠ none → s.holds (masterOf c) = false →
    Completes (.stgToken c p) s fun t => t.stg = s.stg ∧ Answered c 0x0201 .stageBusy 0 0 s t) ∧
  (∀ (c : Src) (p : Bytes) (s : State), s.storesCanonical → s.admits c 0x0201 p → pf p 4 4 = 0 ∨ 3600000 < pf p 4 4 → pb p 0 ≤ 1 →
    Completes (.stgToken c p) s fun t => t.stg = s.stg ∧ Answered c 0x0201 .checkFail 2 0 s t) ∧
  (∀ (c : Src) (p : Bytes) (s : State), s.storesCanonical → s.admits c 0x0201 p → pb p 0 = 0 → 0 < pf p 4 4 → pf p 4 4 ≤ 3600000 →
    s.holds (masterOf c) = true → s.stagePending = false →
    Completes (.stgToken c p) s fun t => t.stg.token = none ∧ t.stg.st = .clean ∧ t.stg.stage = s.live ∧ t.live = s.live
      ∧ Answered c 0x0201 .ok 0 s.nt64 s t) ∧
  (∀ s : State, s.stg.token ≠ none → s.stagePending = false →
    Completes .tokenLeaseExpiry s fun t => t.stg.token = none ∧ t.stg.st = .clean ∧ t.stg.stage = s.live ∧ t.live = s.live
      ∧ s.stg.leaseEnd ≤ t.now)

/-- STG_WRITE (R362, R363, Table STG-8): every entry goes into the stage and nothing live changes; without the token, while the stage is
PENDING, or with an entry that names no register of the stage, the command writes nothing. That STG_GEN counts each entry is the model's
reading (log 29). STG_CHECK (R366, R367): a stage that passes
completes OK, one that does not completes CHECK_FAIL with the failure count in DETAIL and the entries kept; nothing live changes. -/
def Obligations.StageWritesAndChecks : Prop :=
  (∀ (c : Src) (p : Bytes) (f : RegFile) (s : State), s.storesCanonical → s.admits c 0x0202 p → s.holds (masterOf c) = true →
    s.stagePending = false → 0 < pf p 0 2 → pf p 0 2 ≤ 511 → p.length = 8 + 8 * pf p 0 2 →
    stageEntries s.bankWin s.stg.images (pf p 0 2) 0 (p.drop 8) s.stg.stage = .ok f →
    Completes (.stgWrite c p) s fun t =>
      t.stg = { s.stg with stage := f, st := .dirty, gen := s.stg.gen + BitVec.ofNat 32 (pf p 0 2) } ∧ t.live = s.live
        ∧ Answered c 0x0202 .ok 0 s.nt64 s t) ∧
  (∀ (c : Src) (p : Bytes) (k : Nat) (s : State), s.storesCanonical → s.admits c 0x0202 p → s.holds (masterOf c) = true →
    s.stagePending = false → 0 < pf p 0 2 → pf p 0 2 ≤ 511 → p.length = 8 + 8 * pf p 0 2 →
    stageEntries s.bankWin s.stg.images (pf p 0 2) 0 (p.drop 8) s.stg.stage = .error k →
    Completes (.stgWrite c p) s fun t => t.stg = s.stg ∧ Answered c 0x0202 .checkFail k 0 s t) ∧
  (∀ (c : Src) (p : Bytes) (s : State), s.storesCanonical → s.admits c 0x0202 p → s.holds (masterOf c) = false →
    Completes (.stgWrite c p) s fun t => t.stg = s.stg ∧ Answered c 0x0202 .stageBusy 0 0 s t) ∧
  (∀ (c : Src) (p : Bytes) (s : State), s.storesCanonical → s.admits c 0x0202 p → s.holds (masterOf c) = true →
    s.stagePending = true →
    Completes (.stgWrite c p) s fun t => t.stg = s.stg ∧ Answered c 0x0202 .error 3 0 s t) ∧
  (∀ (c : Src) (p : Bytes) (s : State), s.storesCanonical → s.admits c 0x0203 p → s.holds (masterOf c) = true → s.stg.st ≠ .clean →
    s.stg.pendings = [] → s.checkAll s.stg.stage s.stg.images = [] →
    Completes (.stgCheck c p) s fun t =>
      t.stg = { s.stg with fails := [], st := .checked } ∧ t.live = s.live ∧ Answered c 0x0203 .ok 0 s.nt64 s t) ∧
  (∀ (c : Src) (p : Bytes) (fails : List FailEntry) (s : State), s.storesCanonical → s.admits c 0x0203 p → s.holds (masterOf c) = true →
    s.stg.st ≠ .clean → s.stg.pendings = [] → pf p 8 8 = 0 → s.checkAll s.stg.stage s.stg.images = fails → fails ≠ [] →
    Completes (.stgCheck c p) s fun t =>
      t.stg = { s.stg with fails := fails, st := .failed } ∧ t.live = s.live ∧ Answered c 0x0203 .checkFail fails.length 0 s t) ∧
  (∀ (c : Src) (p : Bytes) (fails : List FailEntry) (s : State), s.storesCanonical → s.admits c 0x0203 p → s.holds (masterOf c) = true →
    s.pair = false → c.ring.val < 128 → pf p 8 8 ≠ 0 → s.checkAll s.stg.stage s.stg.images = fails →
    Completes (.stgCheck c p) s fun t =>
      t.stg.fails = fails ∧ t.live = s.live
        ∧ ∀ x, ¬ (pf p 8 8 ≤ x ∧ x < pf p 8 8 + 8 * min (pf p 16 2) fails.length) →
          ¬ (s.cqSlot c.ring ≤ x ∧ x < s.cqSlot c.ring + 32) →
          cellsRead memDefault t.host x = cellsRead memDefault s.host x)

/-- STG_COMMIT (R368): a stage that passes the check waits for its commit instant, and nothing live changes yet; one that fails completes
CHECK_FAIL with its failure count, and nothing is scheduled; a CLEAN stage completes OK, DETAIL 1. On a module strapped as arbiter, whose
main side has no such instant, it becomes live at once: the model's reading (log 52). COMMIT_APPLY (R369, R370): at the
commit instant of a commit whose reference engine does not execute, a CTL tick, and after the batches of the COMMIT spores accepted before
it (log 43), the whole stage becomes live; when a rule evaluated again fails,
nothing live changes and the stage is FAILED; before the first lock of the loop there is no such instant. -/
def Obligations.CommitsApplyWhole : Prop :=
  (∀ (c : Src) (p : Bytes) (s : State), s.storesCanonical → s.admits c 0x0204 p → s.holds (masterOf c) = true → s.stg.pendings = [] →
    pb p 0 < 8 → s.stg.st ≠ .clean → s.arb.strapped = false → s.checkAll s.stg.stage s.stg.images = [] →
    Completes (.stgCommit c p) s fun t =>
      (∃ x, t.stg = { s.stg with fails := [], st := .checked, pendings := [x] } ∧ x.src = c ∧ x.engine.val = pb p 0
        ∧ x.applyAt = c.applyAt ∧ x.acceptAt = s.acceptedAt c) ∧ t.live = s.live ∧ HostSame s t) ∧
  (∀ (c : Src) (p : Bytes) (fails : List FailEntry) (s : State), s.storesCanonical → s.admits c 0x0204 p → s.holds (masterOf c) = true →
    s.stg.pendings = [] → pb p 0 < 8 → s.stg.st ≠ .clean → s.arb.strapped = false → pf p 8 8 = 0 → s.checkAll s.stg.stage s.stg.images = fails → fails ≠ [] →
    Completes (.stgCommit c p) s fun t =>
      t.stg = { s.stg with fails := fails, st := .failed } ∧ t.live = s.live ∧ Answered c 0x0204 .checkFail fails.length 0 s t) ∧
  (∀ (c : Src) (p : Bytes) (s : State), s.storesCanonical → s.admits c 0x0204 p → s.holds (masterOf c) = true → s.stg.pendings = [] →
    pb p 0 < 8 → s.stg.st = .clean →
    Completes (.stgCommit c p) s fun t => t.stg = s.stg ∧ t.live = s.live ∧ Answered c 0x0204 .ok 1 s.nt64 s t) ∧
  (∀ (c : Src) (p : Bytes) (s : State), s.storesCanonical → s.admits c 0x0204 p → s.holds (masterOf c) = true → s.stg.pendings = [] →
    pb p 0 < 8 → s.stg.st ≠ .clean → s.arb.strapped = true → State.pair { s with live := s.stg.stage } = s.pair →
    Completes (.stgCommit c p) s fun t =>
      t.live = s.stg.stage ∧ t.stg = { s.stg with st := .clean } ∧ Answered c 0x0204 .ok 0 s.nt64 s t) ∧
  (∀ (p : PendCommit) (at_ : Nat) (u : State) (s : State), s.storesCanonical → s.ctlRuns = true → s.idleCommit = some (p, at_) →
    u = (s.advanceTo at_).toTick.batchesFirst p.acceptAt → (u.stg.pendings.any fun x => sameSrc x.src p.src) = true → u.stg.st ≠ .clean →
    (u.modStg fun g => { g with pendings := g.pendings.filter fun x => !sameSrc x.src p.src }).commitFails = none →
    Completes .commitApply s fun t =>
      t.live = u.stg.stage ∧ t.stg.st = .clean ∧ t.stg.stage = u.stg.stage ∧ p ∉ t.stg.pendings ∧ at_ ≤ t.now ∧ t.now % 32 = 0) ∧
  (∀ (p : PendCommit) (at_ : Nat) (f : Status × List FailEntry) (u : State) (s : State), s.storesCanonical → s.ctlRuns = true →
    s.idleCommit = some (p, at_) → u = (s.advanceTo at_).toTick.batchesFirst p.acceptAt →
    (u.stg.pendings.any fun x => sameSrc x.src p.src) = true → u.stg.st ≠ .clean →
    (u.modStg fun g => { g with pendings := g.pendings.filter fun x => !sameSrc x.src p.src }).commitFails = some f →
    Completes .commitApply s fun t =>
      t.live = u.live ∧ t.stg.st = .failed ∧ t.stg.stage = u.stg.stage ∧ p ∉ t.stg.pendings ∧ at_ ≤ t.now ∧ t.now % 32 = 0) ∧
  (∀ (at_ : Nat) (s : State), s.nt.batches = [] → s.batchesFirst at_ = s) ∧
  (∀ s : State, s.ctlRuns = false → exec .commitApply s = .next s)

/-- FRD_GRAPH_LOAD (R75, R362): an image that passes its load checks is staged for every engine of the mask, one
that does not is refused, and nothing live changes; where the image could not be read the answer is that of R317, and a mask of no engine is refused (Table FRD-4). That STG_GEN
counts each engine, and that the command without the token is answered STAGE_BUSY, and while the stage is PENDING ERROR 3, is the model's
reading (log 29), and so are CHECK_FAIL 1 and 3 of STG_RECOVER (log 52). STG_SAVE, STG_RECOVER and
CONFIG_BLOCK_WRITE_COMPLETE (R373, R374, R458): a block that passes every test is queued for both NAND copies and nothing live changes;
one that does not is refused and writes nothing. When both copies are written they hold the block: STG_SAVE completes and CFG_DEFAULTED
falls, STG_RECOVER resets the main side. -/
def Obligations.GraphsAndBlocksAreStored : Prop :=
  (∀ (c : Src) (p bs : Bytes) (s : State), s.storesCanonical → s.admits c 0x0910 p → s.holds (masterOf c) = true →
    s.stagePending = false → pb p 0 ≠ 0 →
    Completes (.frdGraphLoad c p (some bs)) s fun t => t.eng = s.eng ∧ t.live = s.live ∧
      match s.imageCheck bs (pf p 16 4) with
      | .ok img =>
        (∀ e < 8, vget t.stg.images e none = if (pb p 0).testBit e then some img else vget s.stg.images e none) ∧ t.stg.st = .dirty
          ∧ t.stg.gen = s.stg.gen + BitVec.ofNat 32 (bitsIn 8 (pb p 0)).length
          ∧ Answered c 0x0910 .ok 0 s.nt64 s t
      | .error (st, d) => t.stg = s.stg ∧ Answered c 0x0910 st d 0 s t) ∧
  (∀ (c : Src) (p bs : Bytes) (s : State), s.storesCanonical → s.admits c 0x0910 p → s.holds (masterOf c) = false → pb p 0 ≠ 0 →
    Completes (.frdGraphLoad c p (some bs)) s fun t => t.stg = s.stg ∧ t.eng = s.eng ∧ Answered c 0x0910 .stageBusy 0 0 s t) ∧
  (∀ (c : Src) (p bs : Bytes) (s : State), s.storesCanonical → s.admits c 0x0205 p → s.pair = false →
    Completes (.stgSave c p (some bs)) s fun t => t.live = s.live ∧
      match s.blockRefusal (padTo (pf p 16 4) bs) with
      | none => ∃ w : CfgWrite, t.stg = { s.stg with writes := s.stg.writes ++ [w] } ∧ w.src = c ∧ w.recover = false
          ∧ w.block.bytes = padTo (pf p 16 4) bs ∧ w.block.version.toNat = pf (padTo (pf p 16 4) bs) 24 8
      | some (st, d) => t.stg = s.stg ∧ Answered c 0x0205 st d 0 s t) ∧
  (∀ (c : Src) (p : Bytes) (s : State), s.storesCanonical → s.given c 0x0206 p = true → pf p 0 4 ≤ 8388608 → crc32c (memRead s.dram recBase (pf p 0 4)) = pf p 4 4 →
    Completes (.stgRecover c p) s fun t => t.live = s.live ∧
      match s.blockRefusal (memRead s.dram recBase (pf p 0 4)) with
      | none => ∃ w : CfgWrite, t.stg = { s.stg with writes := s.stg.writes ++ [w] } ∧ w.src = c ∧ w.recover = true
          ∧ w.block.bytes = memRead s.dram recBase (pf p 0 4)
      | some (st, d) => t.stg = s.stg ∧ Answered c 0x0206 st d 0 s t) ∧
  (∀ (c : Src) (p : Bytes) (d : Nat) (s : State), s.storesCanonical → s.given c 0x0206 p = true →
    8388608 < pf p 0 4 ∧ d = 1 ∨ pf p 0 4 ≤ 8388608 ∧ crc32c (memRead s.dram recBase (pf p 0 4)) ≠ pf p 4 4 ∧ d = 3 →
    Completes (.stgRecover c p) s fun t => t.stg = s.stg ∧ t.live = s.live ∧ Answered c 0x0206 .checkFail d 0 s t) ∧
  (∀ (w : CfgWrite) (rest : List CfgWrite) (s : State), s.storesCanonical → s.stg.writes = w :: rest → w.recover = false →
    (s.saf.chA.rel && s.saf.chB.rel) = false →
    Completes .configBlockWriteComplete s fun t =>
      t.stg = { s.stg with
        writes := rest, copy0 := some w.block, copy1 := some w.block, copy0Ok := true, copy1Ok := true, defaulted := false }
        ∧ t.live = s.live ∧ Answered w.src 0x0205 .ok 0 s.nt64 s t) ∧
  (∀ (w : CfgWrite) (rest : List CfgWrite) (s : State), s.stg.writes = w :: rest → w.recover = true →
    s.ops.st = .idle ∨ s.ops.st = .halted →
    Completes .configBlockWriteComplete s fun t =>
      t.stg.copy0 = some w.block ∧ t.stg.copy1 = some w.block ∧ t.ops.st = .boot ∧ t.ops.cause = 6
        ∧ t.sec.resetCnt = satInc s.sec.resetCnt) ∧
  (∀ s : State, s.stg.writes = [] → exec .configBlockWriteComplete s = .next s) ∧
  (∀ (c : Src) (p : Bytes) (image : Option Bytes) (st : Status) (d : Nat) (s : State), s.storesCanonical → s.admits c 0x0910 p →
    pb p 0 = 0 ∧ st = .checkFail ∧ d = 0x10 ∨ pb p 0 ≠ 0 ∧ s.holds (masterOf c) = true ∧ s.stagePending = true ∧ st = .error ∧ d = 3
      ∨ pb p 0 ≠ 0 ∧ s.holds (masterOf c) = true ∧ s.stagePending = false ∧ image = none ∧ st = .error ∧ d = 0x80000010 →
    Completes (.frdGraphLoad c p image) s fun t => t.stg = s.stg ∧ t.eng = s.eng ∧ Answered c 0x0910 st d 0 s t)

/-! ### Operating states -/

/-- WATCHDOG_EXPIRY, CORE_LOCKSTEP_MISMATCH, MEM_ECC_ERROR and REGULATOR_FAULT: a halt cause takes the whole device to HALTED, which
records it, stops every engine, raises the internal demand, abandons pending starts, stops and commits, and, where no READY twin takes
over, turns the outer channels off; after two of the causes the command cores stop (R384 to R386). -/
def Obligations.HaltCausesTakeTheDeviceToHalted : Prop :=
  ∀ (c : Instr) (cause : Nat) (s : State),
    (c, cause) ∈ [(.watchdogExpiry, 0x2A), (.coreLockstepMismatch, 0x23), (.memEccError, 0x24), (.regulatorFault, 0x29)] →
    s.ops.st ≠ .halted → s.ops.st ≠ .off →
    Completes c s fun t =>
      t.ops.st = .halted ∧ t.ops.cause = cause ∧ t.ops.prev = s.ops.st.code ∧ (∀ e < 8, (t.engN e).executing = false)
        ∧ t.saf.intDemand = true ∧ t.saf.chA.rel = false ∧ t.saf.chB.rel = false
        ∧ t.ops.starts = [] ∧ t.ops.stops = [] ∧ t.stg.pendings = [] ∧ t.anySpore = false ∧ t.log.urgent = true
        ∧ (s.twinReady = false → ∀ n < 192, isOuter n = true → (t.chan n).gc = false)
        ∧ (cause = 0x23 ∨ cause = 0x24 → t.ops.coresStopped = true)

/-- ENGINE_DEADLINE_MISS and ENGINE_ECC_ERROR (R33, R94): a period that has not started, or cannot publish or complete by its deadline
misses it there, and a miss, an uncorrectable error, or a period with more than 400 stall cycles is an internal fault, which sets the
engine's FAULT and halts the device with cause 0x21; a corrected error below that counts and adds 4 stall cycles; in an engine that is in
no period it counts alone. -/
def Obligations.EngineFaultsHaltTheDevice : Prop :=
  (∀ (e : Fin 8) (at_ : Nat) (s : State), s.missAt e = some at_ →
    Completes (.engineDeadlineMiss e) s fun t => at_ ≤ t.now ∧ t.ops.st = .halted ∧ t.ops.cause = 0x21 ∧ (t.engN e).fault = true
      ∧ (∀ e' < 8, (t.engN e').executing = false) ∧ t.saf.intDemand = true ∧ t.saf.chA.rel = false ∧ t.saf.chB.rel = false) ∧
  (∀ (e : Fin 8) (s : State), s.ops.st ≠ .halted → s.ops.st ≠ .off →
    Completes (.engineEccError e false) s fun t => t.ops.st = .halted ∧ t.ops.cause = 0x21 ∧ (t.engN e).fault = true) ∧
  (∀ (e : Fin 8) (s : State), s.ops.st ≠ .halted → s.ops.st ≠ .off → s.inPeriod e = true → (s.tb (s.leadTb e)).run = .running →
    396 < (s.engN e).stall →
    Completes (.engineEccError e true) s fun t => t.ops.st = .halted ∧ t.ops.cause = 0x21 ∧ (t.engN e).fault = true) ∧
  (∀ (e : Fin 8) (s : State), s.storesCanonical → s.inPeriod e = false ∨ (s.tb (s.leadTb e)).run ≠ .running →
    Completes (.engineEccError e true) s fun t =>
      (t.reg .frdEccCnt e).toNat = min ((s.reg .frdEccCnt e).toNat + 1) 0xFFFFFFFF ∧ OtherRegs .frdEccCnt e 0 s t ∧ Only [.regs] s t) ∧
  (∀ (e : Fin 8) (s : State), s.storesCanonical → s.inPeriod e = true → (s.tb (s.leadTb e)).run = .running → (s.engN e).stall ≤ 396 →
    Completes (.engineEccError e true) s fun t =>
      t.engN e = { s.engN e with stall := (s.engN e).stall + 4 } ∧ (∀ e' : Fin 8, e' ≠ e → t.engN e' = s.engN e')
        ∧ (t.reg .frdEccCnt e).toNat = min ((s.reg .frdEccCnt e).toNat + 1) 0xFFFFFFFF ∧ Only [.regs, .eng] s t) ∧
  (∀ (e : Fin 8) (s : State), s.executes e = true → (s.engN e).armReset = false → (s.engN e).started = false →
    s.twn.resync = false →
    Completes (.engineDeadlineMiss e) s fun t =>
      (s.nextLoad (s.leadTb e)).1 - (if s.linkMode then 96000 else 8000) ≤ t.now ∧ t.ops.st = .halted ∧ t.ops.cause = 0x21) ∧
  (∀ (e : Fin 8) (s : State), s.missAt e = none → exec (.engineDeadlineMiss e) s = .next s)

/-- OPS_ARM (R114, R380, R383): with every arming condition met the device enters ARMED, every engine that can run executes from its reset
state, and every profile channel rests at its initial position; else the command completes CHECK_FAIL with the conditions in DETAIL; in STOPPING it is refused, and the refusal counts; in ARMED
and RUNNING it changes nothing. OPS_START and OPS_STOP (R393, R383): a start in ARMED, and a stop in ARMED or RUNNING, waits for its
instant and changes nothing yet; a start in STOPPING is refused and counted, in IDLE it does not apply, in RUNNING it changes nothing.
OPS_DISARM and ARM_LOST (R379, R380, R69): ARMED returns to IDLE, ARM_LOST with its own cause, and no engine executes; that OPS_DISARM in
IDLE completes OK with DETAIL 1 is the model's reading (log 44). -/
def Obligations.ArmingStartingAndStopping : Prop :=
  (∀ (c : Src) (s : State), s.storesCanonical → s.given c 0x0610 [] = true → s.ops.st = .idle → s.armBlock = 0 →
    Completes (.opsArm c) s fun t =>
      t.ops.st = .armed ∧ t.ops.prev = 3 ∧ (∀ e < 8, s.canRun e = true → (t.engN e).executing = true ∧ (t.engN e).armReset = true)
        ∧ (∀ e < 8, s.canRun e = false → ∃ p, t.engN e = { s.engN e with prf := p })
        ∧ (∀ e < 8, ∀ i < 8, ∃ x : Int, vget (t.engN e).prf i {} = { p := x * 2 ^ 32, tgt := x }) ∧ Answered c 0x0610 .ok 0 s.nt64 s t) ∧
  (∀ (c : Src) (s : State), s.storesCanonical → s.given c 0x0610 [] = true → s.ops.st = .idle → s.armBlock ≠ 0 →
    Completes (.opsArm c) s fun t => t.ops = s.ops ∧ t.eng = s.eng ∧ Answered c 0x0610 .checkFail s.armBlock 0 s t) ∧
  (∀ (c : Src) (s : State), s.storesCanonical → s.given c 0x0610 [] = true → s.ops.st = .stopping →
    Completes (.opsArm c) s fun t => t.ops = s.ops ∧ t.eng = s.eng
      ∧ (t.reg .glbBusyStopCnt).toNat = min ((s.reg .glbBusyStopCnt).toNat + 1) 0xFFFFFFFF ∧ Answered c 0x0610 .busyStopping 0 0 s t) ∧
  (∀ (c : Src) (s : State), s.storesCanonical → s.given c 0x0610 [] = true → s.ops.st = .armed ∨ s.ops.st = .running →
    Completes (.opsArm c) s fun t => t.ops = s.ops ∧ t.eng = s.eng ∧ Answered c 0x0610 .ok 1 s.nt64 s t) ∧
  (∀ (c : Src) (p : Bytes) (s : State), s.given c 0x0611 p = true → s.ops.st = .armed → pb p 0 < 8 →
    Completes (.opsStart c p) s fun t => HostSame s t ∧ t.eng = s.eng ∧
      ∃ x, t.ops = { s.ops with starts := s.ops.starts ++ [x] } ∧ x.src = c ∧ x.engine.val = pb p 0 ∧ x.acceptAt = s.acceptedAt c) ∧
  (∀ (c : Src) (p : Bytes) (s : State), s.given c 0x0612 p = true → s.ops.st = .armed ∨ s.ops.st = .running → pb p 0 < 8 →
    Completes (.opsStop c p) s fun t => HostSame s t ∧ t.eng = s.eng ∧
      ∃ x, t.ops = { s.ops with stops := s.ops.stops ++ [x] } ∧ x.src = c ∧ x.engine.val = pb p 0 ∧ x.acceptAt = s.acceptedAt c) ∧
  (∀ (c : Src) (p : Bytes) (s : State), s.storesCanonical → s.given c 0x0611 p = true → s.ops.st = .stopping → pb p 0 < 8 →
    Completes (.opsStart c p) s fun t => t.ops = s.ops
      ∧ (t.reg .glbBusyStopCnt).toNat = min ((s.reg .glbBusyStopCnt).toNat + 1) 0xFFFFFFFF ∧ Answered c 0x0611 .busyStopping 0 0 s t) ∧
  (∀ (c : Src) (p : Bytes) (s : State), s.storesCanonical → s.given c 0x0611 p = true → s.ops.st = .idle → pb p 0 < 8 →
    Completes (.opsStart c p) s fun t => t.ops = s.ops ∧ Answered c 0x0611 .error 2 0 s t) ∧
  (∀ (c : Src) (p : Bytes) (s : State), s.storesCanonical → s.given c 0x0611 p = true → s.ops.st = .running → pb p 0 < 8 →
    Completes (.opsStart c p) s fun t => t.ops = s.ops ∧ Answered c 0x0611 .ok 1 s.nt64 s t) ∧
  (∀ (c : Src) (p : Bytes) (s : State), s.storesCanonical → s.given c 0x0612 p = true → s.ops.st = .idle ∨ s.ops.st = .stopping → pb p 0 < 8 →
    Completes (.opsStop c p) s fun t => t.ops = s.ops ∧ Answered c 0x0612 .ok 1 s.nt64 s t) ∧
  (∀ (c : Src) (s : State), s.given c 0x0613 [] = true → s.ops.st = .armed →
    Completes (.opsDisarm c) s fun t =>
      t.ops.st = .idle ∧ t.ops.prev = 4 ∧ t.ops.starts = [] ∧ ∀ e < 8, (t.engN e).executing = false) ∧
  (∀ (c : Src) (s : State), s.storesCanonical → s.given c 0x0613 [] = true → s.ops.st = .armed → s.ops.starts = [] →
    Completes (.opsDisarm c) s fun t => Answered c 0x0613 .ok 0 s.nt64 s t) ∧
  (∀ (c : Src) (s : State), s.storesCanonical → s.given c 0x0613 [] = true → s.ops.st = .idle →
    Completes (.opsDisarm c) s fun t => t.ops = s.ops ∧ Answered c 0x0613 .ok 1 s.nt64 s t) ∧
  (∀ s : State, s.ops.st = .armed → s.armBlock ≠ 0 →
    Completes .armLost s fun t =>
      t.ops.st = .idle ∧ t.ops.cause = 5 ∧ t.ops.starts = [] ∧ ∀ e < 8, (t.engN e).executing = false)

/-- OPS_HALT, OFF_SEQUENCE_COMPLETE and OPS_MAIN_RESET (R386, R382, R459): OPS_HALT enters HALTED with the cause of its sender, and in
HALTED it changes nothing; STOPPING ends in IDLE once every configured stack is off, overdue confirmations judged first; a main reset
enters BOOT at once where nothing is armed; in ARMED and RUNNING it stops the engines and turns the outer channels off, and BOOT is entered
once the turn-off has ended; that the state stays until then is the model's reading (log 28). -/
def Obligations.HaltStopAndMainResetEnterTheirStates : Prop :=
  (∀ (c : Src) (s : State), s.given c 0x0614 [] = true → s.ops.st ≠ .halted → s.ops.st ≠ .off →
    Completes (.opsHalt c) s fun t =>
      t.ops.st = .halted ∧ t.ops.cause = (if c.ring.val = 128 then 0x28 else 0x27) ∧ t.saf.intDemand = true) ∧
  (∀ (c : Src) (s : State), s.storesCanonical → s.given c 0x0614 [] = true → s.ops.st = .halted →
    Completes (.opsHalt c) s fun t => t.ops = s.ops ∧ t.eng = s.eng ∧ t.pwm = s.pwm ∧ Answered c 0x0614 .ok 1 s.nt64 s t) ∧
  (∀ s : State, s.ops.st = .stopping → (∀ k < 16, s.configured k = true → s.ackOverdue.stackIsOff k = true) →
    s.mgt.resetReq = none →
    Completes .offSequenceComplete s fun t => t.ops.st = .idle ∧ t.ops.cause = 7 ∧ t.ops.prev = 6 ∧ t.pwm = s.ackOverdue.pwm) ∧
  (∀ (c : Src) (s : State), (∀ k < 16, s.configured k = true → s.ackOverdue.stackIsOff k = true) → s.mgt.resetReq = some c →
    Completes .offSequenceComplete s fun t =>
      t.ops.st = .boot ∧ t.ops.cause = 6 ∧ t.sec.resetCnt = satInc s.sec.resetCnt ∧ t.stg.token = none ∧ t.stg.pendings = []) ∧
  (∀ (c : Src) (s : State), s.given c 0x0615 [] = true →
    s.ops.st = .idle ∨ s.ops.st = .halted ∨ s.ops.st = .selftest ∨ s.ops.st = .boot →
    Completes (.opsMainReset c) s fun t =>
      t.ops.st = .boot ∧ t.ops.cause = 6 ∧ t.sec.resetCnt = satInc s.sec.resetCnt ∧ t.stg.token = none ∧ t.stg.pendings = []
        ∧ t.sec.anchors = s.sec.anchors ∧ t.saf.chB.pset = s.saf.chB.pset) ∧
  (∀ (c : Src) (s : State), s.given c 0x0615 [] = true → s.ops.st = .armed ∨ s.ops.st = .running →
    Completes (.opsMainReset c) s fun t =>
      t.ops.st = s.ops.st ∧ t.mgt.resetReq = some c ∧ (∀ e < 8, (t.engN e).executing = false)
        ∧ ∀ n < 192, isOuter n = true → (t.chan n).gc = false)

/-- POWER_ON_RESET_RELEASE, BOOT_COMPLETE and SELFTEST_COMPLETE (R468, R347, R359, R375, R388): out of OFF the device boots, and a
retention memory that has failed leaves no epoch and no key, but a module strapped as arbiter stays unpowered (R429); a boot chain that passes leads to SELFTEST, one that fails holds the device
in BOOT; a self-test without failures leads to IDLE, one with any to HALTED with cause SELFTEST, a lock time-out of the ADPLL among
them, for which it waits while the loop acquires. Without a stored block the reset values are live, but for MGT_CFG, which the management
controller keeps: that the safety channels take the reset parameter set with this default load is the model's reading (log 28), and so is
code 6 of a failing safety item and the clearing of the codes by a passing one (log 14). -/
def Obligations.PowerUpBootAndSelftest : Prop :=
  (∀ (ok : Bool) (s : State), s.ops.st = .off → s.arb.strapped = false →
    Completes (.powerOnResetRelease ok) s fun t =>
      t.ops.st = .boot ∧ t.ops.cause = 0 ∧ t.ops.vinOk = true ∧ t.sec.resetCnt = satInc s.sec.resetCnt ∧ t.sec.retentionLost = !ok
        ∧ t.sec.anchors = s.sec.anchors ∧ t.sec.svn = s.sec.svn ∧ t.stg.copy0 = s.stg.copy0 ∧ t.stg.copy1 = s.stg.copy1) ∧
  (∀ (ok : Bool) (s : State), s.ops.st = .off → s.arb.strapped = true →
    Completes (.powerOnResetRelease ok) s fun t => t.ops = { s.ops with vinOk := true } ∧ Only [.ops] s t) ∧
  (∀ s : State, s.ops.st = .off → s.arb.strapped = false →
    Completes (.powerOnResetRelease false) s fun t =>
      (∀ r < 129, (t.rep r).epoch = 0 ∧ (t.rep r).floorUnset = true ∧ (t.rep r).key = none) ∧ t.sec.plant = Vector.replicate 4 none) ∧
  (∀ (m : BootMedia) (s : State), s.ops.st = .boot → s.ops.held = false → s.arb.strapped = false →
    (m.loaderOk0 = false ∧ m.loaderOk1 = false) ∨ s.anchorValid 0 = false ∨ (m.slotOk0 = false ∧ m.slotOk1 = false) →
    Completes (.bootComplete m) s fun t => t.ops = { s.ops with held := true } ∧ Only [.ops, .log, .mgt] s t) ∧
  (∀ (m : BootMedia) (s : State), s.ops.st = .boot → s.ops.held = false → s.arb.strapped = false →
    Completes (.bootComplete m) s fun t =>
      match s.bootSlot m with
      | none => t.ops = { s.ops with held := true } ∧ Only [.ops, .log, .mgt] s t
      | some run => t.ops.st = .selftest ∧ t.ops.runSlot = run ∧ t.ops.fallback = (run != s.ops.actSlot)
          ∧ (s.stg.copy0 = none → s.stg.copy1 = none →
              t.stg.defaulted = true ∧ t.stg.st = .clean ∧ t.stg.stage = t.live
                ∧ ∀ (r : Reg) (i j hi lo : Nat), regAddr r i j ≠ regAddr .mgtCfg 0 0 →
                  t.lv r i j hi lo = bitsOf (BitVec.ofNat 64 (regReset r i)) hi lo)) ∧
  (∀ (failed : BitVec 12) (s : State), s.ops.st = .selftest → s.failedItems failed = 0 →
    Completes (.selftestComplete failed) s fun t =>
      t.ops.st = .idle ∧ t.ops.prev = 2 ∧ t.saf.fault = false ∧ t.saf.chA.code = 0 ∧ t.saf.chB.code = 0) ∧
  (∀ (failed : BitVec 12) (s : State), s.ops.st = .selftest → s.failedItems failed ≠ 0 →
    Completes (.selftestComplete failed) s fun t =>
      t.ops.st = .halted ∧ t.ops.cause = 0x20 ∧ (failed.getLsbD 8 = true → t.saf.fault = true ∧ t.saf.chA.code = 6)) ∧
  (∀ (failed : BitVec 12) (s : State), s.ops.st = .selftest → (s.reg .glbSelftest).getLsbD 4 = true →
    Completes (.selftestComplete failed) s fun t => t.ops.st = .halted ∧ t.ops.cause = 0x20) ∧
  (∀ (failed : BitVec 12) (s : State), s.ops.st = .selftest → s.clk.st = .acquire →
    Completes (.selftestComplete failed) s fun t => t.ops.st = .halted ∧ t.ops.cause = 0x20 ∧ s.acqEnd ≤ t.now)

/-- VIN_LOSS, HOLD_UP_END, VMGT_LOSS and VMGT_POWER_UP (R468, R457, R391): when VIN goes the event log's
buffer is lost, GEN_A falls and, without a READY twin, the outer
channels turn off; 100 µs later at the earliest (log 63) the device is OFF, which keeps what NAND, OTP and the always-on domain hold, and no more: that the DRAM
is emptied is the model's choice (log 6); when VMGT goes channel B releases nothing and the grants of ring 128 are gone, and when
it comes back NONCE of ring 128 is drawn anew, a reset is owed (R250), and a module strapped as arbiter is OFF (R429). -/
def Obligations.SupplyLossesTakeGateDriveAway : Prop :=
  (∀ s : State, s.ops.st ≠ .off → s.ops.vinOk = true →
    Completes .vinLoss s fun t =>
      t.ops.vinOk = false ∧ t.log.buffer = [] ∧ t.saf.chA.rel = false ∧ (s.saf.chA.rel = true → t.saf.chA.gen = false)
        ∧ (s.twinReady = false → ∀ n < 192, isOuter n = true → (t.chan n).gc = false)) ∧
  (∀ s : State, s.ops.vinOk = false → s.ops.st ≠ .off →
    Completes .holdUpEnd s fun t => s.ops.vinLostAt + 3200000 ≤ t.now ∧
      t.ops.st = .off ∧ t.dram = [] ∧ t.log.nand = s.log.nand ∧ t.log.buffer = [] ∧ t.stg.copy0 = s.stg.copy0 ∧ t.stg.copy1 = s.stg.copy1
        ∧ t.sec.anchors = s.sec.anchors ∧ t.sec.replay = s.sec.replay ∧ t.sec.svn = s.sec.svn ∧ ∀ n < 192, (t.chan n).gc = false) ∧
  (∀ s : State, s.mgt.vmgt = true →
    Completes .vmgtLoss s fun t =>
      t.mgt.vmgt = false ∧ t.saf.chB.rel = false ∧ t.saf.chB.pset = [] ∧ t.mgt.anchors = s.mgt.anchors ∧ (∀ g ∈ t.sec.grants, g.ring ≠ 128)
        ∧ (s.ops.st ≠ .off → t.ops.st = .halted ∧ t.saf.fault = true ∧ t.saf.chA.code = 8)) ∧
  (∀ (hb : Bool) (s : State), s.mgt.vmgt = false →
    Completes (.vmgtPowerUp hb) s fun t =>
      t.mgt.vmgt = true ∧ t.arb.strapped = hb ∧ (t.rep 128).nonce = Config.drbg128 s.free ∧ t.free = s.free + 1
        ∧ t.saf.resetReq = true ∧ (hb = true → t.ops.st = .off) ∧ t.mgt.anchors = s.mgt.anchors ∧ ∀ r < 128, t.rep r = s.rep r)

/-- LOG_READ, LOG_FLUSH and NAND_REFRESH (R391, R392, R482): a read writes the records from FIRST on, buffered ones too, and no other byte
but its completion; a flush moves the buffer to NAND and leaves the records held as they are; a refresh of a block with 8 corrected bits
or more takes a spare for it, after a flush that HALTED asked for, and changes nothing else. That at most 65536 records are read, and what
FIRST means, is the model's reading (log 45), and so is what a refresh leaves in place (log 37). IMG_FW_LOAD,
FW_IMAGE_WRITE_COMPLETE and IMG_FW_ACTIVATE (R389, R390): an image for the slot that does not run makes that slot invalid until its write
has finished, and the running slot is refused; the slot that boots next is the one named; the fused minimum rises only to the security
version of the running image. -/
def Obligations.LogRecordsAndFirmwareSlots : Prop :=
  (∀ (c : Src) (p : Bytes) (s : State), s.storesCanonical → s.given c 0x0805 p = true → s.pair = false → c.ring.val < 128 →
    Completes (.logRead c p) s fun t => t.logHeld = s.logHeld ∧ (s.log.urgent = false → t.log = s.log) ∧
      ∀ x, ¬ (s.cqSlot c.ring ≤ x ∧ x < s.cqSlot c.ring + 32) →
        cellsRead memDefault t.host x =
          (let bs := (s.logFrom (pf p 0 4) (min (pf p 4 4) 65536)).flatMap LogRec.bytes
           if pf p 8 8 ≤ x ∧ x < pf p 8 8 + bs.length then lget bs (x - pf p 8 8) 0 else cellsRead memDefault s.host x)) ∧
  (∀ s : State, s.ops.vinOk = true → Completes .logFlush s fun t =>
    t.logHeld = s.logHeld ∧ t.log.nand = s.logHeld ∧ t.log.buffer = [] ∧ t.log.recno = s.log.recno ∧ Only [.log] s t) ∧
  (∀ s : State, s.ops.vinOk = false → exec .logFlush s = .next s) ∧
  (∀ (b n : Nat) (s : State), s.ops.st = .off ∨ s.ops.st = .boot ∨ s.ops.st = .selftest → exec (.nandRefresh b n) s = .next s) ∧
  (∀ (b n : Nat) (s : State), s.ops.st ≠ .off → s.ops.st ≠ .boot → s.ops.st ≠ .selftest → Completes (.nandRefresh b n) s fun t =>
    t.logHeld = s.logHeld ∧ t.log.recno = s.log.recno ∧ (if s.log.urgent = true then t.log.buffer = [] else t.log = s.log)
      ∧ t.ops = { s.ops with
          spares := if s.ops.fwWrite.isSome = true ∨ s.stg.writes ≠ [] ∨ n < 8 then s.ops.spares else s.ops.spares ++ [(b, s.ops.spares.length)] }
      ∧ Only [.ops, .log] s t) ∧
  (∀ (c : Src) (p bs : Bytes) (s : State), s.storesCanonical → s.given c 0x0901 p = true → s.pair = false → s.ops.fwWrite = none → pb p 0 < 2 →
    pb p 0 ≠ s.ops.runSlot → s.sec.svn ≤ pb (padTo (pf p 16 4) bs) 12 → fwForm (padTo (pf p 16 4) bs) = true →
    Completes (.imgFwLoad c p (some bs)) s fun t =>
      match s.trailerCheck (padTo (pf p 16 4) bs) (pf (padTo (pf p 16 4) bs) 60 4) 2 "NDZ IMG" (· < 8) with
      | none =>
        (t.fwSlot (pb p 0)).valid = false ∧ t.fwSlot (1 - pb p 0) = s.fwSlot (1 - pb p 0)
          ∧ (∃ w, t.ops.fwWrite = some w ∧ w.src = c ∧ w.slot = pb p 0 ∧ w.img.valid = true
              ∧ w.img.svn = pb (padTo (pf p 16 4) bs) 12)
          ∧ Only [.ops, .log, .cmd, .mgt] s t
      | some d => t.ops = s.ops ∧ Answered c 0x0901 .authFail d 0 s t) ∧
  (∀ (c : Src) (p : Bytes) (image : Option Bytes) (s : State), s.storesCanonical → s.given c 0x0901 p = true → s.pair = false →
    s.ops.fwWrite = none → pb p 0 < 2 →
    pb p 0 = s.ops.runSlot →
    Completes (.imgFwLoad c p image) s fun t => t.ops = s.ops ∧ Answered c 0x0901 .checkFail 1 0 s t) ∧
  (∀ (w : FwWrite) (s : State), s.storesCanonical → s.ops.fwWrite = some w → w.slot < 2 →
    Completes .fwImageWriteComplete s fun t =>
      t.fwSlot w.slot = w.img ∧ t.fwSlot (1 - w.slot) = s.fwSlot (1 - w.slot) ∧ t.ops.fwWrite = none
        ∧ Answered w.src 0x0901 .ok 0 s.nt64 s t) ∧
  (∀ (c : Src) (p : Bytes) (s : State), s.storesCanonical → s.given c 0x0902 p = true → pb p 0 < 2 → (pb p 1).testBit 0 = false →
    Completes (.imgFwActivate c p) s fun t =>
      t.ops = { s.ops with actSlot := pb p 0 } ∧ t.sec = s.sec ∧ Answered c 0x0902 .ok 0 s.nt64 s t) ∧
  (∀ (c : Src) (p : Bytes) (s : State), s.storesCanonical → s.given c 0x0902 p = true → pb p 0 = s.ops.runSlot → pb p 0 < 2 → (pb p 1).testBit 0 = true →
    s.sec.svn < (s.fwSlot s.ops.runSlot).svn →
    Completes (.imgFwActivate c p) s fun t =>
      t.sec = { s.sec with svn := (s.fwSlot s.ops.runSlot).svn } ∧ Answered c 0x0902 .ok 0 s.nt64 s t) ∧
  (∀ (c : Src) (p : Bytes) (s : State), s.storesCanonical → s.given c 0x0902 p = true → pb p 0 < 2 → (pb p 1).testBit 0 = true →
    pb p 0 ≠ s.ops.runSlot ∨ (s.fwSlot s.ops.runSlot).svn ≤ s.sec.svn →
    Completes (.imgFwActivate c p) s fun t => t.sec = s.sec ∧ t.ops = s.ops ∧ Answered c 0x0902 .checkFail 3 0 s t)

/-- SEC_SVN (R390): it rises by IMG_FW_ACTIVATE with RAISE_SVN alone, or by the item with which a standby follows that command, and to the SVN
of the running image alone; the command is refused where the named slot is not the running one or its SVN does not exceed SEC_SVN. -/
def Obligations.TheFusedMinimumRisesByItsCommandAlone : Prop :=
  (∀ (c : Instr) (s t : State), exec c s = .next t → t.sec.svn ≠ s.sec.svn →
    t.sec.svn = (s.fwSlot s.ops.runSlot).svn ∧ s.sec.svn < t.sec.svn ∧ ∃ p : Bytes, (pb p 1).testBit 0 = true ∧ pb p 0 = s.ops.runSlot ∧
      ((∃ src, c = .imgFwActivate src p)
        ∨ ∃ f, c = .itemFrameReceive f ∧ (itemOf f).opcode = 0x0902 ∧ (itemOf f).payload = p ∧ s.pair = true ∧ s.twn.role = false)) ∧
  (∀ (c : Src) (p : Bytes) (s : State), s.storesCanonical → s.given c 0x0902 p = true → pb p 0 < 2 → (pb p 1).testBit 0 = true →
    pb p 0 ≠ s.ops.runSlot ∨ (s.fwSlot s.ops.runSlot).svn ≤ s.sec.svn →
    Completes (.imgFwActivate c p) s fun t => t.sec = s.sec ∧ t.ops = s.ops ∧ Answered c 0x0902 .checkFail 3 0 s t) ∧
  (∀ (c : Src) (p : Bytes) (s : State), s.storesCanonical → s.given c 0x0902 p = true → pb p 0 = s.ops.runSlot → pb p 0 < 2 → (pb p 1).testBit 0 = true →
    s.sec.svn < (s.fwSlot s.ops.runSlot).svn →
    Completes (.imgFwActivate c p) s fun t => t.sec.svn = (s.fwSlot s.ops.runSlot).svn ∧ Answered c 0x0902 .ok 0 s.nt64 s t)

/-! ### Safe gate inhibit -/

/-- SAFETY_INPUT_CHANGE and DISCREPANCY (R250 to R252): a line of a demand or guard pair that begins a demand, and a line that the other
one has not followed, though it may have returned, take the release away in both channels. OFF_PULSE_START, OFF_PULSE_END and READBACK_CHECK (R255, R256): a releasing
channel's output goes low for its test pulse and high again after it, and a pulse that read back low counts; a readback that equals the
driven level changes nothing else, but that once it has read high again the announcement of a pulse is spent (R257). -/
def Obligations.SafetyInputsAndOffPulses : Prop :=
  (∀ (k : Fin 4) (lineB level : Bool) (s : State), s.pairKind k = 1 ∨ s.pairKind k = 2 →
    (let d := s.lineDemands k (if lineB then { s.safPair k with lineB := level } else { s.safPair k with lineA := level }); (d.1 || d.2) = true) →
    Completes (.safetyInputChange k lineB level) s fun t =>
      (t.safPair k).demand = true ∧ t.saf.chA.rel = false ∧ t.saf.chB.rel = false) ∧
  (∀ (k : Fin 4) (t0 : Nat) (s : State), s.pairKind k = 1 ∨ s.pairKind k = 2 → (s.safPair k).since = some t0 →
    (s.safPair k).disc = false →
    Completes (.discrepancy k) s fun t =>
      (t.safPair k).disc = true ∧ t0 + s.discT k ≤ t.now
        ∧ (s.ops.st ≠ .off → t.saf.chA.rel = false ∧ t.saf.chB.rel = false)) ∧
  (∀ (ch : SafCh) (first : Nat) (s : State), (s.safChan ch).firstRel = some first → (s.safChan ch).rel = true → (s.safChan ch).pulse = none →
    Completes (.offPulseStart ch) s fun t =>
      (t.safChan ch).gen = false ∧ (t.safChan ch).pulse = some t.now ∧ (t.safChan ch).rel = true ∧ s.nextPulse ch first ≤ t.now
        ∧ (∀ ch' : SafCh, ch' ≠ ch → t.safChan ch' = s.safChan ch')) ∧
  (∀ (ch : SafCh) (at_ : Nat) (s : State), s.storesCanonical → (s.safChan ch).pulse = some at_ →
    Completes (.offPulseEnd ch) s fun t =>
      (t.safChan ch).gen = (s.safChan ch).rel ∧ (t.safChan ch).pulse = none ∧ at_ + s.safPw ≤ t.now
        ∧ (∀ ch' : SafCh, ch' ≠ ch → t.safChan ch' = s.safChan ch')
        ∧ ((s.safChan ch).fb = false → (t.reg (if ch = .a then .safPulseCntA else .safPulseCntB)).toNat
            = min ((s.reg (if ch = .a then .safPulseCntA else .safPulseCntB)).toNat + 1) 0xFFFFFFFF)) ∧
  (∀ (ch : SafCh) (s : State),
    Completes (.readbackCheck ch (s.safChan ch).gen) s fun t =>
      t.safChan ch = { s.safChan ch with
          fb := (s.safChan ch).gen
          annAt := if (s.safChan ch).gen && (s.safChan ch).pulse.isNone then none else (s.safChan ch).annAt } ∧ t.saf.fault = s.saf.fault ∧ t.ops = s.ops
        ∧ (s.safChan ch).changeAt + 1600000 ≤ t.now)

/-- READBACK_CHECK, CROSS_FAULT, SAFETY_LOCKSTEP_MISMATCH, SAFETY_CLOCK_FAULT and PSET_MISMATCH_TIMEOUT (R256, R257, R261, R262): a safety
fault is latched with the code of the channel that found it, both channels withdraw their release, and the device goes to HALTED; a low
readback within PW + 100 µs of its announcement, and copies that agree, are none. Which of codes 1 and 2 a level gives is the model's
reading (log 12), and so is that both channels report code 5 (log 54). -/
def Obligations.SafetyFaultsLatchAndHalt : Prop :=
  (∀ (ch : SafCh) (level : Bool) (s : State), level ≠ (s.safChan ch).gen →
    Completes (.readbackCheck ch level) s (SafetyFaulted ch (if level then 1 else 2) s)) ∧
  (∀ (ch : SafCh) (s : State), (s.safChan ch).rel = true →
    (∀ t0, (s.safChan (if ch = .a then .b else .a)).annAt = some t0 → t0 + s.safPw + 3200000 < s.now) →
    Completes (.crossFault ch) s (SafetyFaulted ch 3 s)) ∧
  (∀ s : State, Completes .safetyLockstepMismatch s (SafetyFaulted .a 4 s)) ∧
  (∀ (ch : SafCh) (s : State), Completes (.safetyClockFault ch) s (SafetyFaulted ch 7 s)) ∧
  (∀ s : State, s.saf.chA.pset ≠ [] → s.saf.chA.pset ≠ s.saf.chB.pset →
    Completes .psetMismatchTimeout s fun t => SafetyFaulted .a 5 s t ∧ SafetyFaulted .b 5 s t ∧ s.saf.setAt + 32000000000 ≤ t.now) ∧
  (∀ (ch : SafCh) (t0 : Nat) (s : State), (s.safChan (if ch = .a then .b else .a)).annAt = some t0 → s.now ≤ t0 + s.safPw + 3200000 →
    exec (.crossFault ch) s = .next s) ∧
  (∀ s : State, s.saf.chA.pset = s.saf.chB.pset → exec .psetMismatchTimeout s = .next s)

/-! ### Control periods and engines -/

/-- GFM_SET_TARGETS, GFM_SET_BREAKER, GFM_CLEAR_FLAGS, FRD_BANK_SWAP, FRD_SAT_READ_CLEAR and PRF_SET_TARGET (R62, R98, R99): the command
goes to the mailbox of every engine it names, or of every engine with unit-level stages, where each has a free entry; until then it
waits, still to be acted on. A mask of no engine, and a field out of range, complete CHECK_FAIL; with no unit-level stage the GFM commands complete OK, which is the
model's reading (log 17), and so is that N of a bank swap is judged before its bank (log 18). -/
def Obligations.MailboxCommandsReachTheirEngines : Prop :=
  (∀ (i : Instr) (op mask : Nat) (c : Src) (p : Bytes) (s : State),
    (i, op, mask) ∈ [(.gfmSetTargets c p, 0x0101, s.unitEngines), (.gfmSetBreaker c p, 0x0102, s.unitEngines),
      (.gfmClearFlags c p, 0x0103, s.unitEngines), (.frdBankSwap c p, 0x0110, pb p 0), (.frdSatReadClear c p, 0x0801, pb p 0),
      (.prfSetTarget c p, 0x0120, pb p 0)] →
    s.admits c op p → mask ≠ 0 → (op = 0x0110 → pf p 2 2 ≤ 4096 ∧ pb p 1 ≤ 1) → (op = 0x0120 → pb p 1 ≤ 7) →
    (if ((bitsIn 8 mask).all fun e => decide (s.mboxTaken e c.ring < 8)) = true then Completes i s (Mailed c op p mask s)
     else Completes i s fun t => t.eng = s.eng ∧ t.waits = s.waits ∧ Only [.cmd, .mgt] s t
      ∧ (c.ring.val < 128 → ∀ h ∈ t.cmd.handed, h.src = c → h.acted = false)
      ∧ (c.ring.val = 128 → ∀ m, t.mgt.cmd = some m → m.cmd.acted = false))) ∧
  (∀ (i : Instr) (op : Nat) (c : Src) (p : Bytes) (s : State),
    (i, op) ∈ [(.gfmSetTargets c p, 0x0101), (.gfmSetBreaker c p, 0x0102), (.gfmClearFlags c p, 0x0103)] →
    s.storesCanonical → s.admits c op p → s.unitEngines = 0 →
    Completes i s fun t => t.eng = s.eng ∧ t.waits = s.waits ∧ Answered c op .ok 0 s.nt64 s t) ∧
  (∀ (i : Instr) (op d : Nat) (c : Src) (p : Bytes) (s : State),
    (i, op) ∈ [(.frdBankSwap c p, 0x0110), (.frdSatReadClear c p, 0x0801), (.prfSetTarget c p, 0x0120)] →
    s.storesCanonical → s.admits c op p →
    pb p 0 = 0 ∧ d = 1 ∨ pb p 0 ≠ 0 ∧ op = 0x0110 ∧ 4096 < pf p 2 2 ∧ d = 2 ∨ pb p 0 ≠ 0 ∧ op = 0x0110 ∧ pf p 2 2 ≤ 4096 ∧ 1 < pb p 1 ∧ d = 3
      ∨ pb p 0 ≠ 0 ∧ op = 0x0120 ∧ 7 < pb p 1 ∧ d = 3 →
    Completes i s fun t => t.eng = s.eng ∧ t.waits = s.waits ∧ Answered c op .checkFail d 0 s t)

/-- ENGINE_START, PUBLISH, GRAPH_COMPLETE and MBOX_OUT_CAPTURE (R31, R94, R96, R101, Table ARC-4): an engine whose sample is complete starts
at E_k, not before, takes the pull-in flags of its stacks, which clear, and runs its graph, which no gate sees; PUBLISH, at its instant,
gives every compare the graph wrote last to its channel's pending set and keeps every other; an instant behind the deadline of step 9
or 10 is the fault of R33; a read captures the published mailbox words
with their period index. -/
def Obligations.EnginesRunAndPublishTheirPeriod : Prop :=
  (∀ (e : Fin 8) (img : Image) (s : State), (s.engN e).image = some img → s.executes e = true → (s.engN e).armReset = false →
    (s.engN e).started = false → s.sampleReady e = true →
    Completes (.engineStart e) s fun t =>
      s.startInstant e ≤ t.now ∧ (∀ k ∈ (s.asSeen e).servedBy e, (t.zone k).pullSeen = false)
        ∧ (∀ e' : Fin 8, e' ≠ e → t.engN e' = s.engN e') ∧ t.pwm = s.pwm
        ∧ ∃ u : State, Only [.now, .nt, .eng, .trp, .twn] s u ∧ t.engN e = (u.runGraph e img).eng
          ∧ ∃ a b, u.engN e = { s.engN e with
              started := true, published := false, complete := false, pull := (a, b), startAt := s.startInstant e }) ∧
  (∀ (e : Fin 8) (s : State), s.executes e = true → (s.engN e).started = true → (s.engN e).published = false → s.missAt e = none →
    Completes (.publish e) s fun t =>
      t.engN e = { s.engN e with published := true } ∧ (s.engN e).publishAt ≤ t.now
        ∧ (let v := s.asSeen e
          ∀ (pre post : List ShadowEdge) (x : ShadowEdge), (s.engN e).shadow = pre ++ x :: post → v.slotStack e x.slot < 16 → x.chan < 12 →
            (∀ y ∈ post, 12 * v.slotStack e y.slot + y.chan ≠ 12 * v.slotStack e x.slot + x.chan ∨ y.rising ≠ x.rising) →
            let n := t.chan (12 * v.slotStack e x.slot + x.chan); (if x.rising then n.pendA else n.pendB) = some x.value)
        ∧ (∀ n < 192, ∃ a b, t.chan n = { s.chan n with pendA := a, pendB := b })
        ∧ (∀ n < 192, (∀ x ∈ (s.engN e).shadow, (s.asSeen e).slotStack e x.slot < 16 →
            12 * (s.asSeen e).slotStack e x.slot + x.chan ≠ n) → t.chan n = s.chan n)) ∧
  (∀ (e : Fin 8) (s : State), s.executes e = true → (s.engN e).started = true → (s.engN e).published = true →
    (s.engN e).complete = false → s.missAt e = none →
    Completes (.graphComplete e) s fun t =>
      t.engN e = { s.engN e with complete := true } ∧ (∀ e' : Fin 8, e' ≠ e → t.engN e' = s.engN e')
        ∧ (s.engN e).completeAt ≤ t.now ∧ Only [.now, .nt, .eng] s t) ∧
  (∀ (e : Fin 8) (i : Instr) (at_ : Nat) (s : State), s.executes e = true → (s.engN e).started = true → s.missAt e = some at_ →
    i = .publish e ∧ (s.engN e).published = false ∨ i = .graphComplete e ∧ (s.engN e).published = true ∧ (s.engN e).complete = false →
    Completes i s fun t => at_ ≤ t.now ∧ t.ops.st = .halted ∧ t.ops.cause = 0x21 ∧ (t.engN e).fault = true) ∧
  (∀ (e : Fin 8) (s : State), s.storesCanonical →
    Completes (.mboxOutCapture e) s fun t =>
      t.engN e = { s.engN e with mboxCap := (s.engN e).mboxPub } ∧ (∀ e' : Fin 8, e' ≠ e → t.engN e' = s.engN e')
        ∧ t.reg .frdMboxOutIdx e = (s.engN e).mboxPubIdx ∧ OtherRegs .frdMboxOutIdx e 0 s t
        ∧ assocGet t.bus.companions (regAddr .frdMboxOutIdx e 0) = some (s.engN e).mboxPubIdx) ∧
  (∀ (e : Fin 8) (s : State), s.executes e = false ∨ (s.engN e).armReset = true ∨ (s.engN e).started = true ∨ s.sampleReady e = false →
    exec (.engineStart e) s = .next s)

/-- FADE_END, OSC_DETECT and OSC_TIMEOUT (R104, R127): at the boundary that ends the last period of its length a fade ends, and the working set is the target bank; an input
whose count of qualifying cycles has reached M declares one detection; one without an upward crossing for too long counts anew.
BREAKER_STATE_ACCEPTED, RT_EXIT_TIMEOUT, CL_EXIT_TIMEOUT and RECOVERY_END (R59, Table GFM-4): a breaker state seen for 16 periods is taken
over; ride-through, current limiting and recovery end at the boundary (`settle`) that follows their instants, not before. -/
def Obligations.TransitionsEndAtTheirInstants : Prop :=
  (∀ (e : Fin 8) (f : Fade) (s : State), s.inPeriod e = true → (s.engN e).started = true → (s.engN e).complete = true →
    (s.engN e).fade = some f → f.len ≤ f.n →
    Completes (.fadeEnd e) s fun t =>
      t.engN e = { s.engN e with
        fade := none, work := match (s.engN e).image with | some img => (s.asSeen e).bank e img (s.engN e).bankB | none => [] }
        ∧ (∀ e' : Fin 8, e' ≠ e → t.engN e' = s.engN e') ∧ (s.nextLoad (s.leadTb e)).1 ≤ t.now ∧ Only [.now, .nt, .eng] s t) ∧
  (∀ (e : Fin 8) (i : Fin 16) (s : State), s.executes e = true → (s.asSeen e).oscOn e i = true →
    (s.asSeen e).lv .frdOscAct e i 15 8 ≤ (vget (s.engN e).osc i {}).count → 0 < (vget (s.engN e).osc i {}).count →
    (vget (s.engN e).osc i {}).latched = false →
    Completes (.oscDetect e i) s (SetsEngine e { s.engN e with
      osc := vset (s.engN e).osc i { vget (s.engN e).osc i {} with latched := true, detect := true } } s)) ∧
  (∀ (e : Fin 8) (i : Fin 16) (s : State), s.executes e = true → (s.asSeen e).oscOn e i = true →
    (vget (s.engN e).osc i {}).timedOut ((s.asSeen e).lv .frdOscBand e i 31 16) ((s.asSeen e).tc e) (s.engN e).idx.toNat = true →
    Completes (.oscTimeout e i) s (SetsEngine e { s.engN e with
      osc := vset (s.engN e).osc i { vget (s.engN e).osc i {} with count := 0, latched := false, havePrev := false } } s)) ∧
  (∀ (e : Fin 8) (closed : Bool) (s : State), s.executes e = true → lget (s.engN e).work 0x35 0 ≠ 0 →
    (s.engN e).gfm.brkCand = closed → 16 ≤ (s.engN e).gfm.brkCount → (s.engN e).gfm.brk ≠ closed →
    Completes (.breakerStateAccepted e closed) s fun t =>
      (t.engN e).gfm.brk = closed ∧ ∃ g, SetsEngine e { s.engN e with gfm := g } s t) ∧
  (∀ (e : Fin 8) (t0 : Nat) (s : State), s.templateOn e = true → (s.engN e).gfm.rt = true → (s.engN e).gfm.rtQuiet = some t0 →
    Completes (.rtExitTimeout e) s fun t =>
      (t.engN e).gfm = { (s.engN e).gfm with rtOut := true } ∧ (t.engN e).gfm.settle.rt = false ∧ (t.engN e).gfm.settle.rtQuiet = none
        ∧ t0 + 32000000 * (lget (s.engN e).work 0x2B 0).toNat ≤ t.now) ∧
  (∀ (e : Fin 8) (t0 : Nat) (s : State), s.templateOn e = true → (s.engN e).gfm.cl = true → (s.engN e).gfm.clQuiet = some t0 →
    Completes (.clExitTimeout e) s fun t =>
      (t.engN e).gfm = { (s.engN e).gfm with clOut := true } ∧ (t.engN e).gfm.settle.cl = false ∧ (t.engN e).gfm.settle.clQuiet = none
        ∧ t0 + 32000000 * (lget (s.engN e).work 0x2C 0).toNat ≤ t.now) ∧
  (∀ (e : Fin 8) (t0 : Nat) (s : State), s.templateOn e = true → (s.engN e).gfm.recUntil = some t0 →
    Completes (.recoveryEnd e) s fun t =>
      (t.engN e).gfm = { (s.engN e).gfm with recOut := true } ∧ (t.engN e).gfm.settle.recovery = false ∧ t0 ≤ t.now) ∧
  (∀ (e : Fin 8) (s : State), (s.engN e).started = false ∨ (s.engN e).complete = false → exec (.fadeEnd e) s = .next s)

/-- LOAD_POINT and TIMEBASE_FIRST_ZERO (R25, R182, R184, R195, Table CLK-3): at every load point the period index of each engine that the
timebase leads counts by 1 and that of every other engine stays; a half-period is remembered, a zero begins a new period at its instant,
a timebase that is to stop stops, and a waiting timebase runs from its first zero on. The commits of a boundary apply at its load point,
so the settings of a timebase that leads are those of a boundary without one; before the first lock there is no load point. -/
def Obligations.LoadPointsBeginPeriods : Prop :=
  (∀ (i : Instr) (t : Fin 16) (half : Bool) (s : State),
    s.ctlRuns = true →
    i = .loadPoint t half ∧ (s.tb t).run = .running ∧ (s.nextLoad t).2 = half
      ∨ i = .timebaseFirstZero t ∧ (s.tb t).run = .waiting ∧ (s.firstZeroAt t).isSome = true →
    Completes i s fun u =>
      ∀ e < 8, (u.engN e).idx = (s.engN e).idx + (if s.leadTb e = t then 1 else 0)) ∧
  (∀ (t : Fin 16) (half : Bool) (s : State), s.ctlRuns = true → (s.tb t).run = .running → (s.tb t).stopPend = false →
    (s.nextLoad t).2 = half → (∀ e < 8, s.leadTb e ≠ t) ∨ s.pair = false ∧ s.stg.pendings = [] →
    Completes (.loadPoint t half) s fun u =>
      (s.nextLoad t).1 ≤ u.now ∧ (u.tb t).run = .running ∧ (u.tb t).half = half
        ∧ (u.tb t).zeroAt = if half then (s.tb t).zeroAt else u.now) ∧
  (∀ (t : Fin 16) (at_ : Nat) (nt : Option DWord) (s : State), s.ctlRuns = true → (s.tb t).run = .waiting → (s.tb t).stopPend = false →
    s.firstZeroAt t = some (at_, nt) → (∀ e < 8, s.leadTb e ≠ t) ∨ s.pair = false ∧ s.stg.pendings = [] →
    Completes (.timebaseFirstZero t) s fun u =>
      at_ ≤ u.now ∧ (u.tb t).run = .running ∧ (u.tb t).half = false ∧ (u.tb t).zeroAt = u.now) ∧
  (∀ (t : Fin 16) (half : Bool) (s : State), s.ctlRuns = true → (s.tb t).run = .running → (s.tb t).stopPend = true →
    (s.nextLoad t).2 = half → (∀ e < 8, s.leadTb e ≠ t) ∨ s.pair = false ∧ s.stg.pendings = [] →
    Completes (.loadPoint t half) s fun u =>
      (s.nextLoad t).1 ≤ u.now ∧ (u.tb t).run = .stopped ∧ (u.tb t).stopPend = false
        ∧ ∀ n ∈ stackChans t, (u.chan n).req = false ∧ (u.chan n).gc = false) ∧
  (∀ (t : Fin 16) (half : Bool) (s : State), s.ctlRuns = false →
    exec (.loadPoint t half) s = .next s ∧ exec (.timebaseFirstZero t) s = .next s)

/-! ### Measurement -/

/-- MODULATOR_TICK and DECIMATION_DUMP (R138, R141, R143, R146, R270, R486): the next tick falls at its instant, and every active channel
takes the bit of its source, or freezes where that delivers nothing, and no other channel moves; a changed output 2 gives no tick until it
restarts; a dump counts its group on, or starts it anew, and puts each channel's word into DEC_OUT, once at a tick. STUCK_RUN_START, STUCK_RUN_END, LINK_SOURCE_RESUME, COMPARATOR_ACTIVATE, COMPARATOR_DEACTIVATE and FAST_PATH_MASK_END (R147,
R149, R151, R227, R229): what each of them makes of its channel, and the trip or pull-in of the channel's stack where one is configured.
-/
def Obligations.TicksDumpsAndChannelEvents : Prop :=
  (∀ (lands : DWord) (ps : Int) (s : State), s.clk.running.getLsbD 2 = true → s.clk.strobe.getLsbD 2 = false →
    Completes (.modulatorTick lands ps) s fun t =>
      t.meas.tick = s.meas.tick + 1 ∧ s.tickAt s.meas.tick ≤ t.now
        ∧ (∀ (c : Fin 160) (b : Bool), s.chanActive c = true → s.sourceBit lands s.meas.tick c = some b →
            (s.dec c).srcDown = false ∨ s.srcKind c ≠ 2 →
            t.dec c = ((s.modDec c fun d => { d with srcDown := false }).chanBit c b).dec c)
        ∧ (∀ (c : Fin 160) (b : Bool), s.chanActive c = true → s.sourceBit lands s.meas.tick c = some b → (s.dec c).srcDown = true →
            s.srcKind c = 2 → t.dec c = s.dec c)
        ∧ (∀ c : Fin 160, s.chanActive c = true → s.sourceBit lands s.meas.tick c = none → t.dec c = (s.srcLost c).dec c)
        ∧ ∀ c : Fin 160, s.chanActive c = false → t.dec c = s.dec c) ∧
  (∀ (lands : DWord) (ps : Int) (s : State), s.clk.running.getLsbD 2 = false ∨ s.clk.strobe.getLsbD 2 = true →
    exec (.modulatorTick lands ps) s = .next s) ∧
  (∀ (g : Fin 20) (s : State), s.storesCanonical → s.dumpTick g = true →
    Completes (.decimationDump g) s fun t =>
      vget t.meas.groups g {} = ({
          dumping := true, resetPend := false, lastTick := some (s.meas.tick - 1)
          count := if (vget s.meas.groups g {}).resetPend then 0 else (vget s.meas.groups g {}).count + 1 } : DecGroup)
        ∧ t.dumpTick g = false
        ∧ ((vget s.meas.groups g {}).resetPend = false → ∀ c : Fin 160, c.val / 8 = g → (s.dec c).clearPend = false →
            t.reg .decOut c = s.decWord c ((vget s.meas.groups g {}).count.toNat + 1))) ∧
  (∀ (c : Fin 160) (s : State), s.chanActive c = true → 64 < (s.dec c).runLen → (s.dec c).stuck = false →
    Completes (.stuckRunStart c) s fun t =>
      t.dec c = { s.dec c with stuck := true }
        ∧ (s.lvb .decSrc c 0 12 = true → s.latches (s.cmpStack c) 11 = true → Tripped (s.cmpStack c) 11 s t)
        ∧ (s.lvb .decSrc c 0 12 = false → t.trp = s.trp ∧ t.pwm = s.pwm)) ∧
  (∀ (c : Fin 160) (s : State), (s.dec c).stuck = true → (s.dec c).runLen ≤ 64 →
    Completes (.stuckRunEnd c) s (SetsDec c { s.dec c with stuck := false } s)) ∧
  (∀ (c : Fin 160) (s : State), (s.dec c).srcDown = true → s.srcKind c = 2 → (s.gs (s.srcIndex c / 8)).link = .trained →
    (s.linkBit (s.srcIndex c / 8) (s.srcIndex c % 8) s.meas.tick).isSome = true →
    Completes (.linkSourceResume c) s
      (SetsDec c { (s.dec c).clearFast with srcDown := false, clearPend := true, runLen := 0, valBits := 0 } s)) ∧
  (∀ (c : Fin 160) (s : State), s.chanActive c = true → (s.dec c).cmpMasked = false → (s.dec c).srcDown = false →
    (s.dec c).cmpActive = false → s.fastValue c > s.cmpHi c ∨ s.fastValue c < s.cmpLo c →
    Completes (.comparatorActivate c) s fun t =>
      t.dec c = { s.dec c with cmpActive := true }
        ∧ (s.lv .trpCmpCfg c 0 1 0 = 1 → s.latches (s.cmpStack c) 0 = true → Tripped (s.cmpStack c) 0 s t)
        ∧ (s.lv .trpCmpCfg c 0 1 0 = 2 → (t.zone (s.cmpStack c)).pullReq = true
            ∧ (t.zone (s.cmpStack c)).pullPh = (s.zone (s.cmpStack c)).pullPh ||| s.lv .trpCmpCfg c 0 14 12)
        ∧ (s.lv .trpCmpCfg c 0 1 0 = 0 → t.trp = s.trp ∧ t.pwm = s.pwm)) ∧
  (∀ (c : Fin 160) (s : State), (s.dec c).cmpActive = true →
    s.cmpLo c + s.cmpHys c ≤ s.fastValue c ∧ s.fastValue c ≤ s.cmpHi c - s.cmpHys c →
    Completes (.comparatorDeactivate c) s (SetsDec c { s.dec c with cmpActive := false } s)) ∧
  (∀ (c : Fin 160) (s : State), (s.dec c).cmpMasked = true → (s.dec c).srcDown = false → s.chanActive c = true →
    2 * (s.fastLen c - 1) + 1 ≤ (s.dec c).fastBits →
    Completes (.fastPathMaskEnd c) s (SetsDec c { s.dec c with cmpMasked := false } s))

/-- SEQUENCE_TRIGGER, URGENT_REQUEST and SAR_CONVERSION_DONE (R153 to R156, Table MEA-6): a trigger starts a sequence where the converter
is idle, waits where it is busy, and is counted as lost where one waits already; triggers of one cycle count as one; conversions follow
each other every 250 ns; an urgent request is converted at once where the
converter is idle, goes ahead of a sequence that starts in this cycle, which it puts off by one conversion, and is else dropped and counted; a result enters the queue, or is
dropped and counted where 64 are held. What becomes of a request in the cycle before a sequence starts, and of one while the converter is
disabled, is the model's choice (log 20). -/
def Obligations.TheConverterTakesTriggersAndResults : Prop :=
  (∀ s : State, s.storesCanonical → s.sarOn = true → s.ctlRuns = true → s.sar.trigAt ≠ some s.nsNow →
    Completes .sequenceTrigger s fun t => t.reg .adcSeqTrig = 0 ∧
      if s.sar.conv = .idle then t.sar = { s.sar with
          trigAt := some s.nsNow, conv := .slot 0 0 0, startAt := 32 * (s.nsNow + 1), convEnd := 32 * (s.nsNow + 1) + 8000 }
      else if s.sar.pending then t.sar = { s.sar with trigAt := some s.nsNow }
        ∧ (t.reg .adcTrigLostCnt).toNat = min ((s.reg .adcTrigLostCnt).toNat + 1) 0xFFFFFFFF
      else t.sar = { s.sar with trigAt := some s.nsNow, pending := true }) ∧
  (∀ s : State, s.storesCanonical → s.sarOn = false ∨ s.ctlRuns = false →
    Completes .sequenceTrigger s fun t => t.reg .adcSeqTrig = 0 ∧ t.sar = s.sar) ∧
  (∀ (i : Fin 16) (s : State), s.storesCanonical → s.sarOn = false ∨ s.ctlRuns = false →
    Completes (.urgentRequest i) s fun t => t.sar = s.sar ∧ (t.reg .adcUrg).getLsbD 8 = false) ∧
  (∀ (i : Fin 16) (s : State), s.storesCanonical → s.sarOn = true → s.ctlRuns = true →
    Completes (.urgentRequest i) s fun t =>
      if s.sar.conv = .idle then t.sar = { s.sar with conv := .urgent i, convEnd := ctlTick s.now + 8000 }
      else if s.sarStarting then t.sar = { s.sar with
        conv := .urgent i, held := true, convEnd := (if s.nsNow < s.sar.startAt / 32 then ctlTick s.now else s.sar.startAt) + 8000 }
      else t.sar = s.sar ∧ (t.reg .adcUrg).getLsbD 8 = false
        ∧ (t.reg .adcUrgDropCnt).toNat = min ((s.reg .adcUrgDropCnt).toNat + 1) 0xFFFFFFFF) ∧
  (∀ (uv : Int) (i : Nat) (s : State), s.storesCanonical → s.sar.conv = .urgent i → i < 16 →
    Completes (.sarConversionDone uv) s fun t =>
      t.sar.queue = (if s.sar.queue.length < 64 then s.sar.queue ++ [BitVec.ofNat 32 (2 ^ 31 + i * 2 ^ 22 + sarCode uv)] else s.sar.queue)
        ∧ (64 ≤ s.sar.queue.length → (t.reg .adcResDropCnt).toNat = min ((s.reg .adcResDropCnt).toNat + 1) 0xFFFFFFFF)
        ∧ t.reg .adcLatest i = BitVec.ofNat 64 (sarCode uv) ∧ (t.reg .adcUrg).getLsbD 8 = false
        ∧ s.sar.convEnd ≤ t.now ∧ t.sar.conv = if s.sar.held || s.sar.pending then .slot 0 0 0 else .idle) ∧
  (∀ (uv : Int) (n done sum : Nat) (s : State), s.sar.conv = .slot n done sum → done + 1 < 2 ^ s.lv .adcSlot n 0 11 8 →
    Completes (.sarConversionDone uv) s fun t =>
      t.sar = { s.sar with conv := .slot n (done + 1) (sum + sarCode uv), convEnd := t.now + 8000 } ∧ s.sar.convEnd ≤ t.now
        ∧ Only [.now, .nt, .sar] s t) ∧
  (∀ (uv : Int) (n done sum : Nat) (s : State), s.sar.conv = .slot n done sum → 2 ^ s.lv .adcSlot n 0 11 8 ≤ done + 1 →
    Completes (.sarConversionDone uv) s fun t =>
      (s.sar.queue.length < 64 → t.sar.queue.length = s.sar.queue.length + 1) ∧ s.sar.convEnd ≤ t.now
        ∧ t.sar.conv = if n < s.lv .adcCtrl 0 0 3 0 then .slot (n + 1) 0 0
            else if s.sar.held || s.sar.pending then .slot 0 0 0 else .idle) ∧
  (∀ s : State, s.storesCanonical → s.sar.trigAt = some s.nsNow →
    Completes .sequenceTrigger s fun t => t.reg .adcSeqTrig = 0 ∧ t.sar = s.sar ∧ OtherRegs .adcSeqTrig 0 0 s t) ∧
  (∀ (uv : Int) (s : State), s.sar.conv = .idle → exec (.sarConversionDone uv) s = .next s)

/-! ### Pulse-width generation -/

/-- COMPARE_EDGE (R164, R170, R171, R173, R176): a rising edge waits until its dead time after the later of its instant and the partner's
turn-off, but stays off while a pull-in stands for it; where the partner is on already both outputs go off; one whose interval leaves less than the minimum pulse after dead time is
dropped; a falling edge turns the channel's output and gate command off. -/
def Obligations.EdgesKeepDeadTimeAndMinimumPulse : Prop :=
  (∀ (n : Fin 192) (s : State), (s.tb (n / 12)).run = .running → (s.chan n).dueA = true → (s.chan n).cmpA.toNat < (s.tb (n / 12)).len →
    (s.chan n).req = false → (s.chan n).dropped = false → (s.chan n).openAt = none →
    Completes (.compareEdge n true) s fun t =>
      (s.tb (n / 12)).zeroAt + (s.chan n).cmpA.toNat ≤ t.now ∧ (t.chan n).dueA = false ∧ (t.chan n).req = true
        ∧ ((s.chan n).dueB = false → (s.chan (partner n)).lvl = false → (s.chan n).out = false → (s.chan n).pulled = false →
            s.pullStands n = false ∨ s.linkMode = true →
            (t.chan n).lvl = true ∧ (t.chan n).out = false
              ∧ (t.chan n).wait = some (max ((s.tb (n / 12)).zeroAt + (s.chan n).cmpA.toNat) (s.chan (partner n)).offAt + s.deadTime n))
        ∧ ((s.chan n).dueB = false → (s.chan (partner n)).lvl = false → (s.chan n).out = false → s.pullStands n = true → s.linkMode = false →
            (t.chan n).lvl = true ∧ (t.chan n).out = false ∧ (t.chan n).wait = (s.chan n).wait ∧ (t.chan n).pulled = true ∧ (t.chan n).cut = true)
        ∧ ((s.chan n).dueB = false → (s.chan (partner n)).lvl = true →
            (t.chan n).out = false ∧ (t.chan n).gc = false ∧ (t.chan (partner n)).out = false ∧ (t.chan (partner n)).gc = false
              ∧ vget t.pwm.overlap (pairOf n) false = true)
        ∧ ((s.chan n).dueB = true → namesEdge (s.tb (n / 12)).prd (s.chan n).cmpB = true → (s.chan n).cmpA.toNat < (s.chan n).cmpB.toNat →
            (s.chan n).cmpB.toNat - (s.chan n).cmpA.toNat ≤ s.deadTime n
              ∨ (s.chan n).cmpB.toNat - (s.chan n).cmpA.toNat < s.deadTime n + s.minPulse n →
            t.chan n = { s.chan n with dueA := false, req := true, dropped := true })) ∧
  (∀ (n : Fin 192) (s : State), (s.tb (n / 12)).run = .running → (s.chan n).dueB = true → (s.chan n).cmpB.toNat < (s.tb (n / 12)).len →
    Completes (.compareEdge n false) s fun t =>
      (s.tb (n / 12)).zeroAt + (s.chan n).cmpB.toNat ≤ t.now ∧ (t.chan n).dueB = false ∧ (t.chan n).req = false
        ∧ ((s.chan n).req = true → (s.chan n).dropped = false → (s.chan n).dueA = false →
            (t.chan n).lvl = false ∧ (t.chan n).out = false ∧ (t.chan n).gc = false))

/-- DEAD_TIME_EXPIRY and INNER_TURN_OFF (R168, R170, R199, R193, R231): at the end of its wait a channel's output turns on, and its gate
command rises where the trips, the partner and the off sequence let it; at the end of T_IO an inner channel's gate command falls, in a
sequence of stage 1 with its level and output, which stay off, in one of a trip with neither. SYNC_IN_PULSE
and SYNC_IN_MISS (R185, R186): a pulse counts and gives the source's zero; within TOL of its instant timebase 0 is in sync, outside it is
not, and a miss counts; a period without a pulse within TOL counts one miss. That a pulse is judged against the nearest expected instant, and a miss
counted once for each expected zero, is the model's reading (log 11). -/
def Obligations.WaitsEndAndSyncPulsesAreJudged : Prop :=
  (∀ (n : Fin 192) (w : Nat) (s : State), (s.chan n).wait = some w →
    Completes (.deadTimeExpiry n) s fun t =>
      w ≤ t.now ∧ (t.chan n).out = true ∧ (t.chan n).wait = none ∧ ((s.chan n).gc = false → (t.chan n).gc = s.mayRise n)
        ∧ ∀ m : Fin 192, m ≠ n → t.chan m = s.chan m) ∧
  (∀ (k : Fin 16) (n a : Nat) (s : State), n ∈ stackChans k → (s.chan n).offSeq = some a →
    (∀ m ∈ stackChans k, ∀ b, (s.chan m).offSeq = some b → a ≤ b) →
    Completes (.innerTurnOff k) s fun t =>
      a ≤ t.now ∧ (t.chan n).gc = false ∧ (t.chan n).offSeq = none
        ∧ if (s.chan n).offOne then (t.chan n).out = false ∧ (t.chan n).hold = true ∧ (t.chan n).req = false
          else (t.chan n).out = (s.chan n).out ∧ (t.chan n).req = (s.chan n).req) ∧
  (∀ s : State, s.storesCanonical →
    Completes .syncInPulse s fun t =>
      t.pwm.srcZero = some (ctlTick s.now - 32 * s.lv .pwmSyncCtrl 0 0 25 16)
        ∧ (t.reg .pwmSyncInCnt).toNat = min ((s.reg .pwmSyncInCnt).toNat + 1) 0xFFFFFFFF
        ∧ ((s.tb 0).run = .running → (s.tb 0).syncSrc = 1 →
            let d := centred (32 * (s.tb 0).prd)
              (((ctlTick s.now - 32 * s.lv .pwmSyncCtrl 0 0 25 16 : Nat) : Int) + 32 * (s.tb 0).syncOfs - (s.tb 0).zeroAt - (s.tb 0).len)
            (t.tb 0).inSync = decide (d.natAbs ≤ 32 * s.tbTol 0)
              ∧ (t.reg .pwmSyncMissCnt).toNat = if d.natAbs ≤ 32 * s.tbTol 0 then (s.reg .pwmSyncMissCnt).toNat
                  else min ((s.reg .pwmSyncMissCnt).toNat + 1) 0xFFFFFFFF)
        ∧ ((s.tb 0).run ≠ .running ∨ (s.tb 0).syncSrc ≠ 1 → t.pwm.tbs = s.pwm.tbs)) ∧
  (∀ s : State, s.storesCanonical → (s.tb 0).run = .running → (s.tb 0).syncSrc = 1 → s.pwm.goodZero ≠ some (s.tb 0).zeroAt →
    s.pwm.missZero ≠ some (s.tb 0).zeroAt →
    Completes .syncInMiss s fun t =>
      (t.reg .pwmSyncMissCnt).toNat = min ((s.reg .pwmSyncMissCnt).toNat + 1) 0xFFFFFFFF ∧ (t.tb 0).inSync = false
        ∧ t.pwm.missZero = some (s.tb 0).zeroAt)

/-! ### Gate links -/

/-- GA_CONFIRM, ACK_TIMEOUT, ACK_MISMATCH, GC_FAULT and FLT_TRIP (R198 to R202, Table GDL-13): GA confirms its level, no sooner than
GA_FILT after the edge, and a low one lets a waiting partner rise; a missing confirmation, a level that differs for longer than ACK_TO, a
gate command read back wrong and a driver's fault line trip the stack. In link mode the lands have no part in it. DSR_RING_CYCLE (R203,
R204, R206): a word with a bad CRC or a wrong node counts as bad for its node, a good one starts the count anew, and the third bad word in
a row puts the ring in fault; the next cycle shifts out one command word for each node, the last node first, which is POLL with the BLANK
code where no test runs and no clear waits. -/
def Obligations.GateFeedbackAndRingWords : Prop :=
  (∀ (n : Fin 96) (level : Bool) (s : State), s.linkMode = false →
    Completes (.gaConfirm n level) s fun t =>
      (t.chan n).ga = level ∧ (t.chan n).gaOff = (if level then false else !(s.chan n).gc || (s.chan n).gaOff)
        ∧ (t.chan n).ackDue = (if level = (s.chan n).gc then none else (s.chan n).ackDue)
        ∧ (level = (s.chan n).gc → (s.chan n).ackDue.isSome = true → (s.chan n).gcAt + s.gaFilt ≤ t.now)
        ∧ (level ≠ (s.chan n).gc → (s.chan n).ackDue = none → (t.chan n).diffAt = (s.chan n).diffAt.or (some s.now))
        ∧ (level = false → (s.chan n).gc = false → (s.chan (partner n)).out = true → (s.chan (partner n)).offSeq = none →
            s.stage6Off (partner n / 12) = false → (t.chan (partner n)).gc = true)) ∧
  (∀ (n : Fin 96) (t0 : Nat) (s : State), (s.chan n).ackDue = some t0 → (s.zone (n / 12)).causes = 0 → s.latches (n / 12) 5 = true →
    Completes (.ackTimeout n) s fun t => t0 ≤ t.now ∧ Tripped (n / 12) 5 s t) ∧
  (∀ (n : Fin 96) (t0 : Nat) (s : State), s.storesCanonical → (s.chan n).ackDue = some t0 → (s.zone (n / 12)).causes ≠ 0 →
    Completes (.ackTimeout n) s fun t =>
      t0 ≤ t.now ∧ t.trp = s.trp
        ∧ t.chan n = { s.chan n with
            ackDue := none, diffAt := if s.linkMode || (s.chan n).ga == (s.chan n).gc then none else some t0 }
        ∧ (t.gs (n / 12)).ackLost = true
        ∧ (t.reg .gdlAckToCnt (n / 12)).toNat = min ((s.reg .gdlAckToCnt (n / 12)).toNat + 1) 0xFFFFFFFF) ∧
  (∀ (n : Fin 96) (t0 : Nat) (s : State), s.linkMode = false → (s.chan n).diffAt = some t0 → s.latches (n / 12) 6 = true →
    Completes (.ackMismatch n) s fun t => t0 + s.ackTo < t.now ∧ Tripped (n / 12) 6 s t) ∧
  (∀ (n : Fin 96) (s : State), s.linkMode = false →
    Completes (.gcFault n true) s fun t => (t.chan n).gcDiff = true ∧ (s.latches (n / 12) 7 = true → Tripped (n / 12) 7 s t)) ∧
  (∀ (n : Fin 96) (s : State), s.linkMode = false →
    Completes (.gcFault n false) s fun t => t.chan n = { s.chan n with gcDiff := false } ∧ t.trp = s.trp) ∧
  (∀ (k : Fin 8) (s : State), s.linkMode = false →
    Completes (.fltTrip k true) s fun t => (t.gs k).fltLow = true ∧ (s.latches k 3 = true → Tripped k 3 s t)) ∧
  (∀ (k : Fin 8) (s : State), s.linkMode = false →
    Completes (.fltTrip k false) s fun t => t.gs k = { s.gs k with fltLow := false } ∧ t.trp = s.trp) ∧
  (∀ (i : Instr) (n : Fin 96) (k : Fin 8) (b : Bool) (s : State), i ∈ [.gaConfirm n b, .ackMismatch n, .gcFault n b, .fltTrip k b] →
    s.linkMode = true → exec i s = .next s) ∧
  (∀ (k : Fin 8) (words : List Word) (s : State), s.linkMode = false → s.configured k = true → 0 < s.nodes k →
    Completes (.dsrRingCycle k words) s fun t =>
      ∀ j < 12, j < s.nodes k →
        let good := (words[j]?.map fun w => drvCrcOk w && decide (drvNode w = j)).getD false
        vget (t.gs k).badRun j 0 = (if good then 0 else vget (s.gs k).badRun j 0 + 1)
          ∧ vget (t.gs k).goodRun j 0 = (if good then vget (s.gs k).goodRun j 0 + 1 else 0)) ∧
  (∀ (k : Fin 8) (words : List Word) (j : Nat) (s : State), s.linkMode = false → s.configured k = true → j < 12 → j < s.nodes k →
    vget (s.gs k).badRun j 0 = 2 → (words[j]?.map fun w => drvCrcOk w && decide (drvNode w = j)).getD false = false →
    Completes (.dsrRingCycle k words) s fun t => (t.gs k).dsr = .fault) ∧
  (∀ (k : Fin 8) (words : List Word) (s : State), s.linkMode = false → s.configured k = true → 0 < s.nodes k →
    (s.gs k).ost ≠ .running → s.trp.clear = [] →
    Completes (.dsrRingCycle k words) s fun t =>
      (t.gs k).ringCmd = (List.range (s.nodes k)).reverse.map fun j => ringWord j 0 (s.lv .gdlStkCfg k 0 21 16)) ∧
  (∀ (n : Fin 96) (s : State), (s.chan n).diffAt = none → exec (.ackMismatch n) s = .next s)

/-- GDL_OST_START, GDL_OST_RUN, GDL_TRAIN, GDL_LINK_TRAIN and LINK_TRAINING_COMPLETE (R207, R211, R212, R214): a test starts on the stacks
that may run one, and a command for one that may not completes ERROR and starts none; links train in link mode only, with TS1 on the
line; a link that locks with its pairs and its stack number right, its 16 echoes and its latency within LAT_FIX is trained, a link that
does not lock, or has none of this by 2 ms, is down, any other one is in fault. -/
def Obligations.TestsAndTrainingsRunPerStack : Prop :=
  (∀ (mask : BitVec 16) (s : State),
    Completes (.gdlOstStart mask) s fun t => ∀ k < 16,
      if mask.getLsbD k && s.ostMay k then (t.gs k).ost = .running ∧ ((s.gs k).ost ≠ .running → (t.gs k).ostAt = s.now ∧ (t.gs k).ostCycle = 0)
      else t.gs k = s.gs k) ∧
  (∀ (c : Src) (p : Bytes) (s : State), s.admits c 0x0802 p → s.gdl.ostRuns = [] → pf p 0 2 ≠ 0 →
    (∀ k < 16, (pf p 0 2).testBit k = true → s.ostMay k = true) →
    Completes (.gdlOstRun c p) s fun t =>
      t.gdl.ostRuns = [(c, BitVec.ofNat 16 (pf p 0 2))] ∧ (∀ k < 16, (pf p 0 2).testBit k = true → (t.gs k).ost = .running) ∧ HostSame s t) ∧
  (∀ (c : Src) (p : Bytes) (k : Nat) (s : State), s.storesCanonical → s.admits c 0x0802 p → k < 16 → (pf p 0 2).testBit k = true →
    s.ostMay k = false →
    Completes (.gdlOstRun c p) s fun t => t.gdl = s.gdl ∧ Answered c 0x0802 .error 1 0 s t) ∧
  (∀ (mask : BitVec 16) (s : State),
    Completes (.gdlTrain mask) s fun t => ∀ k < 16,
      if s.linkMode && mask.getLsbD k && s.configured k then
        t.gs k = { s.gs k with
          link := .training, trainAt := s.now, echoes := [], crcRun := 0, line := (t.gs k).line, pullMask := (t.gs k).pullMask }
          ∧ ∃ t0 cs rest, (t.gs k).line = (t0, cs ++ ts1 k) :: rest
      else t.gs k = s.gs k) ∧
  (∀ (c : Src) (p : Bytes) (k : Nat) (s : State), s.admits c 0x0803 p → s.linkMode = true → s.gdl.trainRuns = [] → k < 16 →
    (pf p 0 2).testBit k = true → s.configured k = true →
    Completes (.gdlLinkTrain c p) s fun t =>
      t.gdl.trainRuns = [(c, BitVec.ofNat 16 (pf p 0 2))] ∧ (t.gs k).link = .training ∧ HostSame s t) ∧
  (∀ (c : Src) (p : Bytes) (s : State), s.storesCanonical → s.admits c 0x0803 p → s.linkMode = false →
    Completes (.gdlLinkTrain c p) s fun t => t.gdl = s.gdl ∧ Answered c 0x0803 .error 2 0 s t) ∧
  (∀ (k : Fin 16) (r : TrainResult) (s : State), (s.gs k).link = .training →
    Completes (.linkTrainingComplete k r) s fun t =>
      (t.gs k).echoes = trainEchoes r ∧
      (t.gs k).link = if r.locked = false ∨ (s.gs k).trainAt + trainLimit < s.now then .down
        else if r.reversed = true ∨ r.stackId ≠ k then .fault
        else if (trainEchoes r).length < 16 then .down
        else if s.latFix < trainLatency r then .fault else .trained)

/-- EDGE_FRAME_SEND, LOAD_SEND and PULL_IN_FRAME_SEND (R213 to R217, R232): one edge frame an interval with the next SEQ, for the first
interval of a waiting timebase too, and no edges in it while the stack is held off; LOAD with SEQ[7:0] at its instant; one pull-in frame
with those of the merged phases on whose channels it still acts at its departure, not sooner than 350 ns after the one before. RETURN_FRAME (R218, R219, Table GDL-11): a good frame brings GA and the fault flags of its stack, and a flagged fault
trips it; a bad one counts, and more than CRC_TOL in a row trip the stack and train its link anew. The order in which an off-state test
puts its commands into DRV_CMD of the edge frames, and the instant at which a pull-in frame counts as sent, are the model's choice (log 12). -/
def Obligations.FramesCrossTheGateLinks : Prop :=
  (∀ (k : Fin 16) (b : Nat) (half : Bool) (s : State), s.storesCanonical → s.linkMode = true → s.configured k = true →
    (s.gs k).link = .trained → s.frameLoad k = some (b, half) → s.sendsFrames = true →
    (∀ e, s.engineOf k = some e → s.inPeriod e = true → (s.engN e).started = true ∧ (s.engN e).published = true) → (s.gs k).frameFor ≠ some b →
    Completes (.edgeFrameSend k) s fun t =>
      (t.gs k).seq = (s.gs k).seq + 1 ∧ t.reg .gdlSeq k = BitVec.ofNat 64 ((s.gs k).seq + 1).toNat ∧ (t.gs k).frameFor = some b
        ∧ (t.gs k).sent.head? = some (t.gs k).lastFrame
        ∧ ((s.zone k).causes ≠ 0 ∨ s.saf.hold = true ∨ s.stage6Off k = true ∧ s.resumesAt k b half = false →
            (t.gs k).lastFrame = edgeFrame k half ((s.ostGuard k).drvCmd k) ((s.gs k).seq + 1) 0 0 (s.rangeWord k) [])) ∧
  (∀ (k : Fin 16) (s : State), s.linkMode = true → (s.gs k).link = .trained → (s.tb k).run = .running → s.sendsFrames = true →
    (s.gs k).frameFor = some (s.lastLoad k) → (s.gs k).loadFor ≠ some (s.lastLoad k) →
    Completes (.loadSend k) s fun t =>
      t.gs k = { s.gs k with
          sent := [0x3C, BitVec.ofNat 8 (s.gs k).seq.toNat] :: (s.gs k).sent, loadFor := some (s.lastLoad k), line := (t.gs k).line }
        ∧ s.lastLoad k + 32 * (s.latFix - (s.reg .gdlLat k).toNat) ≤ t.now) ∧
  (∀ (k : Fin 16) (s : State), s.linkMode = true → (s.gs k).link = .trained → (s.gs k).pullMask ≠ 0 → s.sendsFrames = true →
    Completes (.pullInFrameSend k) s fun t =>
      (t.gs k).pullMask = 0 ∧ (∀ t0, (s.gs k).pullLast = some t0 → t0 + 11200 ≤ t.now) ∧
      let phases := t.pulledPhases k &&& (s.gs k).pullMask
      if phases = 0 then (t.gs k).pullLast = (s.gs k).pullLast ∧ (t.gs k).sent = (s.gs k).sent
      else (t.gs k).pullLast = some t.now ∧ (t.gs k).sent = shortFrame 2 k phases
          (((if (s.gs k).frameFor = some (s.lastLoad k) then (s.gs k).seq else (s.gs k).seq - 1).toNat % 32) * 2 ^ 27
            + (t.now - s.lastLoad k) % 2 ^ 27) :: (s.gs k).sent) ∧
  (∀ (k : Fin 16) (f : Bytes) (s : State), s.linkMode = true → (s.gs k).link = .trained → f.length = 34 → crc32cOk f = true →
    pb f 0 = 0x81 → pb f 1 = k →
    Completes (.returnFrame k f) s fun t =>
      (t.gs k).crcRun = 0 ∧ (t.gs k).ifaceGa = BitVec.ofNat 12 (pf f 20 2) ∧ (t.gs k).retFlt = (pf f 22 2).testBit 10
        ∧ (t.gs k).retHard = (pf f 22 2).testBit 9 ∧ (t.gs k).link = .trained
        ∧ ((pf f 22 2).testBit 10 = true → s.latches k 3 = true → Tripped k 3 s t)
        ∧ ((pf f 22 2).testBit 9 = true → s.latches k 4 = true → Tripped k 4 s t)
        ∧ ((pf f 22 2).testBit 12 = true → s.latches k 15 = true → Tripped k 15 s t)) ∧
  (∀ (k : Fin 16) (f : Bytes) (s : State), s.storesCanonical → s.linkMode = true → (s.gs k).link = .trained →
    f.length ≠ 34 ∨ crc32cOk f = false → (s.gs k).crcRun + 1 ≤ s.lv .gdlCtrl 0 0 1 0 →
    Completes (.returnFrame k f) s fun t =>
      t.gs k = { s.gs k with crcRun := (s.gs k).crcRun + 1 } ∧ t.trp = s.trp
        ∧ (t.reg .gdlCrcCnt k).toNat = min ((s.reg .gdlCrcCnt k).toNat + 1) 0xFFFFFFFF) ∧
  (∀ (k : Fin 16) (f : Bytes) (s : State), s.linkMode = true → (s.gs k).link = .trained → f.length ≠ 34 ∨ crc32cOk f = false →
    s.lv .gdlCtrl 0 0 1 0 ≤ (s.gs k).crcRun →
    Completes (.returnFrame k f) s fun t => (t.gs k).link = .training ∧ (s.latches k 9 = true → Tripped k 9 s t))

/-! ### Trips -/

/-- TRIP_IN_ACTIVE and TRP_TRIP (R224, R225, R244, Table TRP-9): a land that becomes active under POL trips every stack of its mask where
it is enabled; TRP_TRIP trips every stack it names, and one that names none or an unconfigured one completes CHECK_FAIL and trips none. -/
def Obligations.LandsAndCommandsTripTheirStacks : Prop :=
  (∀ (i : Fin 16) (level : Bool) (s : State), s.tripActive i = false → level ≠ s.lvb .trpInCfg i 0 7 →
    Completes (.tripInActive i level) s fun t =>
      t.trp.tripIn = (if level then s.trp.tripIn ||| BitVec.ofNat 16 (2 ^ i.val) else s.trp.tripIn &&& ~~~ BitVec.ofNat 16 (2 ^ i.val))
        ∧ (s.lvb .trpInCfg i 0 8 = true → ∀ k < 16, (s.lv .trpInCfg i 0 31 16).testBit k = true → s.latches k 2 = true → Tripped k 2 s t)
        ∧ (s.lvb .trpInCfg i 0 8 = false → t.trp.zones = s.trp.zones)) ∧
  (∀ (i : Fin 16) (level : Bool) (s : State), s.tripActive i = true ∨ level = s.lvb .trpInCfg i 0 7 →
    Completes (.tripInActive i level) s fun t => Only [.trp] s t ∧ t.trp = { s.trp with tripIn :=
      (if level then s.trp.tripIn ||| BitVec.ofNat 16 (2 ^ i.val) else s.trp.tripIn &&& ~~~ BitVec.ofNat 16 (2 ^ i.val)) }) ∧
  (∀ (c : Src) (p : Bytes) (s : State), s.storesCanonical → s.admits c 0x0601 p → pf p 0 2 ≠ 0 →
    (∀ k < 16, (pf p 0 2).testBit k = true → s.configured k = true) →
    Completes (.trpTrip c p) s fun t =>
      (∀ k < 16, (pf p 0 2).testBit k = true → s.latches k 13 = true → Tripped k 13 s t) ∧ Answered c 0x0601 .ok 0 s.nt64 s t) ∧
  (∀ (c : Src) (p : Bytes) (s : State), s.storesCanonical → s.admits c 0x0601 p →
    pf p 0 2 = 0 ∨ (∃ k < 16, (pf p 0 2).testBit k = true ∧ s.configured k = false) →
    Completes (.trpTrip c p) s fun t => t.trp = s.trp ∧ t.pwm = s.pwm ∧ Answered c 0x0601 .checkFail 1 0 s t)

/-- TRP_CLEAR and CLEAR_EVALUATION (R237, R238): a request on stacks without a driver fault is judged at once, one with a driver fault in
direct mode waits until its CLEAR has gone out in a ring cycle and three cycles of its stacks have ended, and a request that has nothing
left to wait for is judged: a stack clears where its causes are released, none latched in this very cycle, and its originators are
untripped or clear with it; a clear in the midst of a test ends the test, and a standing fault line trips anew. TRP_REC_READ and TRIP_CLOCK_NT_SET (R240, R241, Table TRP-8): a
read takes the head record out of the queue, captures it and returns its first word, or 0 where there is none; what a test that a clear
ends leaves (log 60), the ring cycle that carries CLEAR (log 12), and that a cause latched in the cycle of the judgement stays (log 13), are the
model's choice. While the reference
timebase does not run the trip clock is set to network time at each whole microsecond of it. -/
def Obligations.ClearRequestsAndTripRecords : Prop :=
  (∀ (c : Src) (p : Bytes) (s : State), s.storesCanonical → s.admits c 0x0602 p → s.pair = false →
    (∀ k < 16, (pf p 0 2).testBit k = true →
      (s.gs k).ost ≠ .running ∧ (s.zone k).causes.getLsbD 3 = false ∧ (s.zone k).causes.getLsbD 4 = false) →
    Completes (.trpClear c p) s (ClearJudged c (pf p 0 2) [] s)) ∧
  (∀ (c : Src) (p : Bytes) (k : Nat) (s : State), s.admits c 0x0602 p → s.pair = false → s.linkMode = false → k < 8 →
    pf p 0 2 = 2 ^ k → (s.cleared (2 ^ k)).testBit k = true → (s.zone k).causes ≠ 0 → (s.gs k).ost = .running → s.ops.st ≠ .idle →
    (s.zone k).causes.getLsbD 3 = false → (s.zone k).causes.getLsbD 4 = false →
    Completes (.trpClear c p) s fun t => (t.gs k).ost = .none ∧ ((s.gs k).fltLow = false → (t.zone k).causes = 0)) ∧
  (∀ (c : Src) (p : Bytes) (k : Nat) (s : State), s.admits c 0x0602 p → s.linkMode = false → k < 8 → (pf p 0 2).testBit k = true →
    s.configured k = true → 0 < s.nodes k → (s.zone k).causes.getLsbD 3 = true ∨ (s.zone k).causes.getLsbD 4 = true →
    Completes (.trpClear c p) s fun t =>
      (∃ r, t.trp.clear = s.trp.clear ++ [r] ∧ r.src = c ∧ r.mask = BitVec.ofNat 16 (pf p 0 2) ∧ (k, none) ∈ r.rings)
        ∧ (t.zone k).clearPend = true ∧ (∀ k' < 16, (t.zone k').causes = (s.zone k').causes) ∧ HostSame s t) ∧
  (∀ (r : ClearReq) (s : State), s.storesCanonical → s.pair = false → s.trp.clear.find? s.clearReady = some r →
    (∀ k < 16, r.mask.getLsbD k = true → (s.gs k).ost ≠ .running) →
    Completes .clearEvaluation s fun t =>
      ClearJudged r.src r.mask.toNat r.links s t ∧ t.trp.clear = s.trp.clear.filter fun x => !(x.src == r.src)) ∧
  (∀ s : State, s.trp.clear.find? s.clearReady = none → exec .clearEvaluation s = .next s) ∧
  (∀ s : State,
    Completes .trpRecRead s fun t =>
      t.trp = { s.trp with recs := s.trp.recs.drop 1, captured := s.trp.recs.head? } ∧ Only [.trp, .bus] s t
        ∧ t.bus.readData = match s.trp.recs with | r :: _ => BitVec.ofNat 64 (pf r.bytes 0 4) | [] => 0) ∧
  (∀ (at_ : Nat) (s : State), (s.tb s.refTb).run ≠ .running → s.ntReachFine s.nextMicro = some at_ →
    Completes .tripClockNtSet s fun t => at_ ≤ t.now ∧ Only [.now, .nt, .trp] s t
      ∧ t.trp = { s.trp with clkVal := BitVec.ofNat 64 s.nextMicro, clkAt := t.now, clkByZero := false }) ∧
  (∀ s : State, (s.tb s.refTb).run = .running ∨ s.ntReachFine s.nextMicro = none → exec .tripClockNtSet s = .next s)

/-! ### Clock synthesis -/

/-- REFERENCE_COMPARISON, by the state of the loop (R272, R273, R277 to R280, Table CLK-2, Table CLK-3), with the phase error that R273
makes of the measured difference: ACQUIRE locks on the TCXO after enough near comparisons, and the outputs start; LOCKED coasts after two
bad ones; COASTING slews to a qualified reference within the window, and waits for a command beyond it; SLEWING locks; JUMP_WAIT steps
where a step waits and every timebase is stopped, and every output restarts. 10 MHz qualifies after 1 ms of good edges, 1PPS with its third;
a bad edge ends a qualification in progress, and one that has qualified stays so; the TCXO and network time are always qualified, and
network time is always there. The slewing offset stays within SLEW_MAX. That a
locked loop keeps its reference until the selected one qualifies, that a slew whose offset has fallen back to zero begins anew, and that in a step the outputs restart at
the next CTL tick of the model while the nanosecond count takes the difference, is the model's reading (log 57). -/
def Obligations.ComparisonsMoveTheLoop : Prop :=
  (∀ (err : Int) (q : Bool) (s : State), s.refSel ≠ 3 → s.clk.st ≠ .acquire →
    Completes (.referenceComparison err false q) s fun t =>
      t.clk = { s.clk with qualified := s.clk.qualified || alwaysQualified s.refSel, refSince := none, edges := 0 } ∧ Only [.clk] s t) ∧
  (∀ (err : Int) (p q : Bool) (s : State), s.clk.st = .acquire →
    Completes (.referenceComparison err p q) s fun t =>
      if (centred 40000 (tdc err)).natAbs ≤ s.lockTol ∧ s.lockCnt ≤ s.clk.lockRun + 1 then
        t.clk.st = .locked ∧ t.clk.running = BitVec.ofNat 8 s.enabledOutputs
          ∧ (s.storesCanonical → s.acqEnd < s.atComparison.now → (t.reg .glbSelftest).getLsbD 4 = true)
      else t.clk.st = .acquire ∧ t.clk.running = s.clk.running) ∧
  (∀ (err e : Int) (p q : Bool) (s : State), s.clk.st = .locked → p = true ∨ s.refSel = 3 →
    s.clk.qualified = true ∨ s.atComparison.qualifies q = true ∨ s.clk.refActive = s.refSel → s.atComparison.phaseError s.refSel err = e →
    Completes (.referenceComparison err p q) s fun t =>
      t.clk.running = s.clk.running ∧ t.clk.err = e ∧
      if 4 * s.lockTol < e.natAbs ∧ 1 ≤ s.clk.badRun then t.clk.st = .coasting ∧ t.clk.ctrl = t.clk.frozen ∧ t.clk.slewErr = 0
      else t.clk.st = .locked ∧ t.clk.badRun = if 4 * s.lockTol < e.natAbs then s.clk.badRun + 1 else 0) ∧
  (∀ (err e : Int) (p q : Bool) (s : State), s.clk.st = .coasting → p = true ∨ s.refSel = 3 →
    s.atComparison.phaseError s.refSel err = e →
    Completes (.referenceComparison err p q) s fun t =>
      t.clk.running = s.clk.running ∧ t.clk.ctrl = s.clk.ctrl
        ∧ (t.clk.st = if (s.clk.qualified || s.atComparison.qualifies q) = false then .coasting
            else if e.natAbs ≤ s.clkWindow then .slewing else .jumpWait)
        ∧ (t.clk.st = .slewing → t.clk.slewErr = e ∧ t.clk.slewAt = t.now)) ∧
  (∀ (err e : Int) (p q : Bool) (s : State), s.clk.st = .slewing → p = true ∨ s.refSel = 3 →
    s.atComparison.phaseError s.refSel err = e →
    Completes (.referenceComparison err p q) s fun t =>
      t.clk.running = s.clk.running
        ∧ if e.natAbs ≤ s.lockTol ∧ s.lockCnt ≤ s.clk.lockRun + 1 then t.clk.st = .locked ∧ t.clk.slewErr = 0
          else t.clk.st = .slewing ∧ if s.lockTol < e.natAbs ∧ s.clk.slewAt + 32 * s.slewTime ≤ t.now
            then t.clk.slewErr = e ∧ t.clk.slewAt = t.now
            else t.clk.slewErr = s.clk.slewErr ∧ t.clk.slewAt = s.clk.slewAt) ∧
  (∀ s : State, s.slewNow.natAbs ≤ s.lv .clkReacq 0 0 31 24 * 1000000000 ∧ (s.clk.st ≠ .slewing → s.slewNow = 0)) ∧
  (∀ (err : Int) (p q : Bool) (s : State), s.clk.st = .jumpWait → s.clk.stepWait = [] → p = true ∨ s.refSel = 3 →
    Completes (.referenceComparison err p q) s fun t => t.clk.st = .jumpWait ∧ t.clk.ctrl = s.clk.ctrl) ∧
  (∀ (err e : Int) (p q : Bool) (c : Src) (u s : State), s.storesCanonical → s.clk.st = .jumpWait → s.clk.stepWait = [c] →
    p = true ∨ s.refSel = 3 → s.tbsStopped = true → s.atComparison.phaseError s.refSel err = e →
    u = s.atComparison.modClk (fun k => if 2 ≤ s.refSel then k.align e else k) →
    Completes (.referenceComparison err p q) s fun t =>
      t.clk.st = .locked ∧ t.clk.stepWait = [] ∧ t.clk.slewErr = 0 ∧ t.clk.running = s.clk.running
        ∧ t.now = ctlTick s.atComparison.now
        ∧ t.clk.nsOfs = (if 2 ≤ s.refSel then u.clk.nsOfs - ((ctlTick u.now : Int) - u.now - u.stepEdge e) * 134217728 else s.clk.nsOfs)
        ∧ (∀ k < 8, vget t.clk.outAt k 0 = t.now)
        ∧ Answered c 0x0804 .ok 0 s.atComparison.nt64 s t) ∧
  (∀ (err : Int) (p q : Bool) (c : Src) (s : State), s.storesCanonical → s.clk.st = .jumpWait → s.clk.stepWait = [c] →
    p = true ∨ s.refSel = 3 → s.tbsStopped = false →
    Completes (.referenceComparison err p q) s fun t =>
      t.clk.st = .jumpWait ∧ t.clk.stepWait = [] ∧ Answered c 0x0804 .error 1 0 s t) ∧
  (∀ (err : Int) (p : Bool) (s : State), s.clk.st = .locked → alwaysQualified s.refSel = false → s.clk.refActive ≠ s.refSel →
    s.clk.qualified = false →
    Completes (.referenceComparison err p false) s fun t =>
      t.clk = { s.clk with
          present := s.clk.present || p, refSince := none, edges := 0, edgeAt := if p then t.now else s.clk.edgeAt
          badSince := if p then s.clk.badSince.or (some t.now) else s.clk.badSince } ∧ Only [.clk, .now, .nt] s t) ∧
  (∀ (err : Int) (s : State), s.clk.st = .locked → s.clk.refActive ≠ s.refSel → s.refSel ≠ 3 → s.atComparison.qualifies true = false →
    s.clk.qualified = false →
    Completes (.referenceComparison err true true) s fun t =>
      t.clk = { s.clk with
          present := true, refSince := s.clk.refSince.or (some t.now), edges := s.clk.edges + 1, edgeAt := t.now, badSince := none })

/-- REFERENCE_LOST, ADPLL_LOCK_TIMEOUT, TCXO_LOSS, CLK_REACQUIRE and OUTPUT_RESTART (R270, R274, R275, R280, Table CLK-4, Table CLK-6): a
lost reference makes a loop that follows it coast, network time is never lost, a loop that does not lock fails the self-test, a lost TCXO
halts the device, and a loop locked to it coasts; a loop in JUMP_WAIT slews or steps at the host's word; changed outputs restart together at the first tick of output 0 from the strobe on.
That a loop which is locked to another reference than the selected one stays locked when that one is lost is the model's reading (log 57). -/
def Obligations.LostReferencesAndReacquisition : Prop :=
  (∀ s : State, s.refSel = 3 → exec .referenceLost s = .next s) ∧
  (∀ s : State, s.refSel ≠ 3 →
    Completes .referenceLost s fun t =>
      t.clk.present = false ∧ t.clk.refSince = none ∧ t.clk.edges = 0 ∧ t.clk.running = s.clk.running
        ∧ (s.refSel = 2 → s.clk.edgeAt + 32032000000 ≤ t.now)
        ∧ (s.refSel = 0 → s.clk.badSince = none → s.clk.edgeAt + 6400 ≤ t.now) ∧ (s.refSel = 1 → s.clk.badSince = none → s.clk.edgeAt + 32000 ≤ t.now)
        ∧ (s.refSel = 0 → s.ops.st ≠ .halted → s.ops.st ≠ .off → t.ops.st = .halted ∧ t.ops.cause = 0x22)
        ∧ t.clk.st = if s.clk.st = .acquire ∨ s.clk.st = .locked ∧ s.clk.refActive ≠ s.refSel then s.clk.st else .coasting) ∧
  (∀ s : State, s.clk.st = .acquire → s.ops.st = .selftest →
    Completes .adpllLockTimeout s fun t => t.ops.st = .halted ∧ t.ops.cause = 0x20 ∧ s.acqEnd ≤ t.now) ∧
  (∀ s : State, s.storesCanonical → s.clk.st = .acquire → s.ops.st ≠ .selftest →
    Completes .adpllLockTimeout s fun t => (t.reg .glbSelftest).getLsbD 4 = true ∧ s.acqEnd ≤ t.now ∧ Only [.now, .nt, .regs] s t) ∧
  (∀ s : State, s.clk.st ≠ .acquire → exec .adpllLockTimeout s = .next s) ∧
  (∀ s : State, s.ops.st ≠ .halted → s.ops.st ≠ .off →
    Completes .tcxoLoss s fun t => t.ops.st = .halted ∧ t.ops.cause = 0x22
      ∧ (s.refSel = 0 → s.clk.st = .locked → s.clk.refActive = 0 → t.clk.st = .coasting)) ∧
  (∀ (c : Src) (p : Bytes) (s : State), s.storesCanonical → s.admits c 0x0804 p → pb p 0 = 0 → s.clk.st = .jumpWait → s.clk.stepWait = [] →
    Completes (.clkReacquire c p) s fun t =>
      t.clk = s.clk.beginSlew s.now ∧ t.clk.st = .slewing ∧ Answered c 0x0804 .ok 0 s.nt64 s t) ∧
  (∀ (c : Src) (p : Bytes) (s : State), s.admits c 0x0804 p → pb p 0 = 1 → s.clk.st = .jumpWait → (∀ t < 16, (s.tb t).run = .stopped) →
    Completes (.clkReacquire c p) s fun t => t.clk = { s.clk with stepWait := s.clk.stepWait ++ [c] } ∧ Only [.clk, .cmd, .mgt] s t) ∧
  (∀ (c : Src) (p : Bytes) (st : Status) (d : Nat) (s : State), s.storesCanonical → s.admits c 0x0804 p →
    1 < pb p 0 ∧ st = .checkFail ∧ d = 3 ∨ pb p 0 ≤ 1 ∧ s.clk.st ≠ .jumpWait ∧ st = .error ∧ d = 2
      ∨ pb p 0 = 1 ∧ s.clk.st = .jumpWait ∧ (∃ t < 16, (s.tb t).run ≠ .stopped) ∧ st = .error ∧ d = 1 →
    Completes (.clkReacquire c p) s fun t => t.clk = s.clk ∧ Answered c 0x0804 st d 0 s t) ∧
  (∀ s : State, s.clk.strobe ≠ 0 → s.clk.st ≠ .acquire →
    Completes .outputRestart s fun t =>
      t.clk.running = (s.clk.running &&& ~~~ s.clk.strobe) ||| (BitVec.ofNat 8 s.enabledOutputs &&& s.clk.strobe)
        ∧ t.clk.strobe = 0 ∧ ctlTick s.clk.strobeAt ≤ t.now
        ∧ (∀ k < 8, vget t.clk.outAt k 0 = if s.clk.strobe.getLsbD k then ctlTick s.clk.strobeAt else vget s.clk.outAt k 0)
        ∧ (s.clk.strobe.getLsbD 2 = true → t.clk.running.getLsbD 2 = true → t.clk.restartAt = ctlTick s.clk.strobeAt)) ∧
  (∀ s : State, s.clk.strobe = 0 ∨ s.clk.st = .acquire → exec .outputRestart s = .next s)

/-! ### Network time -/

/-- NT_INCR_WRITE, NT_VALID_SET, NT_VALID_CLR, NT_SET and PPS_OUT_PULSE (R289, R291 to R293): an increment within its limit is applied,
any other one discarded and counted; a set changes the clock as one and is refused while a slot is pending; PPS_OUT rises at the next
whole second. -/
def Obligations.NetworkTimeIsSteeredAndSet : Prop :=
  (∀ (v : DWord) (s : State), s.storesCanonical →
    s.lv .ntCtrl 0 0 24 16 * 0x400000000 < (Int.natAbs (Int.ofNat (v.toNat % 2 ^ 40) - 0x400000000)) * 1000000 →
    Completes (.ntIncrWrite v) s (Counts .ntIncrRej 0 s)) ∧
  (∀ (v : DWord) (s : State), s.storesCanonical →
    (Int.natAbs (Int.ofNat (v.toNat % 2 ^ 40) - 0x400000000)) * 1000000 ≤ s.lv .ntCtrl 0 0 24 16 * 0x400000000 →
    Completes (.ntIncrWrite v) s fun t =>
      t.reg .ntIncr = BitVec.ofNat 64 (v.toNat % 2 ^ 40) ∧ t.nt = { s.nt with incrAt := s.now } ∧ OtherRegs .ntIncr 0 0 s t) ∧
  (∀ s : State, Completes .ntValidSet s fun t => t.nt = { s.nt with valid := true } ∧ Only [.nt] s t) ∧
  (∀ s : State, Completes .ntValidClr s fun t => t.nt = { s.nt with valid := false } ∧ Only [.nt] s t) ∧
  (∀ (c : Src) (p : Bytes) (s : State), s.storesCanonical → s.admits c 0x0703 p → c.applyAt = 0 → pb p 0 ≤ 1 → s.anySpore = false →
    Completes (.ntSet c p) s fun t =>
      t.nt = s.nt.setTotal (if pb p 0 = 0 then (pf p 8 8 : Int) * 4294967296 + pf p 16 4
          else s.nt.total + (signed 64 (pf p 8 8) * 4294967296 + pf p 16 4))
        ∧ Answered c 0x0703 .ok 0 t.nt64 s t) ∧
  (∀ (c : Src) (p : Bytes) (d : Nat) (s : State), s.storesCanonical → s.admits c 0x0703 p →
    c.applyAt ≠ 0 ∧ d = 8 ∨ c.applyAt = 0 ∧ 1 < pb p 0 ∧ d = 2 ∨ c.applyAt = 0 ∧ pb p 0 ≤ 1 ∧ s.anySpore = true ∧ d = 1 →
    Completes (.ntSet c p) s fun t => t.nt = s.nt ∧ t.clk = s.clk ∧ Answered c 0x0703 .checkFail d 0 s t) ∧
  (∀ (t0 : Nat) (s : State), s.lvb .ntCtrl 0 0 0 = true →
    s.ntReach ((s.nt.sec.toNat + 1) * 1000000000 * 4294967296) = some t0 →
    Completes .ppsOutPulse s fun t => t.nt.ppsOut = true ∧ t.nt.ppsAt = t0 ∧ t0 ≤ t.now)

/-- NT_SPORE_LOAD, NT_SPORE_CANCEL, SPORE_DUE and NT_SPORE_REC_READ (R296 to R298, R301, R307, Table NT-4): a load that passes its checks
fills its slot alone, a late one only where it allows that, and one with the instant 0, which means as soon as possible and is not late
(R8; the model's reading, log 56); a cancel empties the slots it names that have not become due, and reports how many; in the cycle
that reaches the earliest instant every due slot is latched into one batch, in slot order and with SAME_BATCH where there is more than
one, and no other; a read takes the head record out. -/
def Obligations.SporeSlotsFillAndFallDue : Prop :=
  (∀ (c : Src) (p : Bytes) (s : State), s.storesCanonical → s.admits c 0x0701 p → c.applyAt = 0 → s.slotPending (pb p 0) = false →
    s.sporeCheck p = none → BitVec.ofNat 64 (pf p 8 8) = 0 ∨ s.nt64 < BitVec.ofNat 64 (pf p 8 8) ∨ (pb p 2).testBit 0 = true →
    Completes (.ntSporeLoad c p) s fun t =>
      (∃ x : Spore, t.nt = { s.nt with slots := vset s.nt.slots (pb p 0) (some x) } ∧ x.action = pb p 1 ∧ x.lateOk = (pb p 2).testBit 0
        ∧ x.late = (BitVec.ofNat 64 (pf p 8 8) != 0 && decide (BitVec.ofNat 64 (pf p 8 8) ≤ s.nt64)) ∧ x.instant = BitVec.ofNat 64 (pf p 8 8)
        ∧ x.args = padTo 32 (p.drop 16) ∧ x.acceptAt = s.acceptedAt c ∧ x.wroteAt = s.now) ∧ Answered c 0x0701 .ok 0 s.nt64 s t) ∧
  (∀ (c : Src) (p : Bytes) (st : Status) (d : Nat) (s : State), s.storesCanonical → s.admits c 0x0701 p →
    c.applyAt ≠ 0 ∧ st = .checkFail ∧ d = 8 ∨ c.applyAt = 0 ∧ s.slotPending (pb p 0) = true ∧ st = .error ∧ d = 1
      ∨ c.applyAt = 0 ∧ s.slotPending (pb p 0) = false ∧ s.sporeCheck p = some d ∧ st = .checkFail
      ∨ c.applyAt = 0 ∧ s.slotPending (pb p 0) = false ∧ s.sporeCheck p = none ∧ BitVec.ofNat 64 (pf p 8 8) ≠ 0
        ∧ BitVec.ofNat 64 (pf p 8 8) ≤ s.nt64 ∧ (pb p 2).testBit 0 = false ∧ st = .late ∧ d = 0 →
    Completes (.ntSporeLoad c p) s fun t => t.nt = s.nt ∧ Answered c 0x0701 st d 0 s t) ∧
  (∀ (c : Src) (p : Bytes) (s : State), s.storesCanonical → s.admits c 0x0702 p → c.applyAt = 0 →
    Completes (.ntSporeCancel c p) s fun t =>
      (∀ i < 256, vget t.nt.slots i none =
          if (pb p (i / 8)).testBit (i % 8) then (vget s.nt.slots i none).filter s.slotDue else vget s.nt.slots i none)
        ∧ t.nt.batches = s.nt.batches
        ∧ Answered c 0x0702 .ok ((List.range 256).filter fun i => (pb p (i / 8)).testBit (i % 8)
              && (vget s.nt.slots i none).any fun x => !s.slotDue x).length
            s.nt64 s t) ∧
  (∀ (c : Src) (p : Bytes) (s : State), s.storesCanonical → s.admits c 0x0702 p → c.applyAt ≠ 0 →
    Completes (.ntSporeCancel c p) s fun t => t.nt = s.nt ∧ Answered c 0x0702 .checkFail 8 0 s t) ∧
  (∀ (t0 : Nat) (s : State), s.sporeCycle = some t0 →
    Completes .sporeDue s fun t => t0 ≤ t.now
      ∧ (t.nt.batches = s.nt.batches ∨ ∃ b, t.nt.batches = s.nt.batches ++ [b] ∧ (b.map DueSlot.slot).Pairwise (· < ·)
        ∧ ∀ d ∈ b, d.same = decide (1 < b.length))
      ∧ ∀ i < 256, ∀ x : Spore, vget s.nt.slots i none = some x →
          if t.slotDue x = true then vget t.nt.slots i none = none ∧ ∃ b ∈ t.nt.batches, ∃ d ∈ b, d.slot = i ∧ d.spore = x
          else vget t.nt.slots i none = some x) ∧
  (∀ s : State,
    Completes .ntSporeRecRead s fun t =>
      t.nt = { s.nt with recs := s.nt.recs.drop 1, captured := s.nt.recs.head? } ∧ Only [.nt, .bus] s t
        ∧ t.bus.readData = match s.nt.recs with | r :: _ => BitVec.ofNat 64 (pf r.bytes 0 4) | [] => 0)

/-- SPORE_EXECUTE (R189, R298 to R301, Table NT-4): at a CTL tick the oldest batch is done: a commit makes the whole stage live, and one
whose stage fails its check applies nothing, a trigger reaches the acquisition units of its mask, SLOT_OFS takes its value, work for engines waits in those of its mask or has
no effect outside ARMED and RUNNING, and a pair's exchange waits for its instant; each leaves its record. The slots of a batch execute in
slot order, so that their records stand in that order and the last SLOT_OFS prevails. That the tick is the first one from the
command on is the model's choice (log 43). -/
def Obligations.SporesExecuteAtATick : Prop :=
  (∀ (d : DueSlot) (s : State), s.ctlRuns = true → s.nt.batches = [[d]] →
    Completes .sporeExecute s fun t => t.now % 32 = 0 ∧ s.now ≤ t.now) ∧
  (∀ (d : DueSlot) (u : State) (fails : List FailEntry) (s : State), s.ctlRuns = true → s.nt.batches = [[d]] → s.nt.recs.length < 64 → d.spore.action = 1 →
    s.stg.pendings = [] → s.stg.st = .dirty ∨ s.stg.st = .failed →
    u = (s.advanceTo ((s.now + 31) / 32 * 32)).modNt (fun n => { n with batches := [] }) →
    u.checkAll u.stg.stage u.stg.images = fails → fails ≠ [] →
    Completes .sporeExecute s fun t =>
      t.live = s.live ∧ t.stg.st = .failed ∧ t.stg.fails = fails ∧ t.stg.stage = s.stg.stage ∧ SporeRecorded d .checkFail fails.length s t) ∧
  (∀ (d : DueSlot) (s : State), s.ctlRuns = true → s.nt.batches = [[d]] → s.nt.recs.length < 64 → d.spore.action = 3 →
    Completes .sporeExecute s fun t => UnitsTriggered (pb d.spore.args 0) t.ntFine s t ∧ SporeRecorded d .ok 0 s t) ∧
  (∀ (d : DueSlot) (s : State), s.storesCanonical → s.ctlRuns = true → s.nt.batches = [[d]] → s.nt.recs.length < 64 → d.spore.action = 5 →
    Completes .sporeExecute s fun t =>
      regGet t.live .pwmSlotOfs = BitVec.ofNat 64 (pf d.spore.args 0 3 % 2 ^ 24)
        ∧ (regGet s.stg.stage .pwmSlotOfs = regGet s.live .pwmSlotOfs → regGet t.stg.stage .pwmSlotOfs = regGet t.live .pwmSlotOfs)
        ∧ SporeRecorded d .ok 0 s t) ∧
  (∀ (d : DueSlot) (s : State), s.ctlRuns = true → s.nt.batches = [[d]] → s.nt.recs.length < 64 → d.spore.action = 2 ∨ d.spore.action = 6 →
    s.pair = false → s.cHot = false →
    Completes .sporeExecute s fun t => t.eng = s.eng ∧ SporeRecorded d .error 3 s t) ∧
  (∀ (d : DueSlot) (s : State), s.ctlRuns = true → s.nt.batches = [[d]] → d.spore.action = 2 → s.pair = false → s.cHot = true →
    Completes .sporeExecute s fun t => ∀ e < 8,
      if (pb d.spore.args 0).testBit e then
        ∃ x, (t.engN e).sporeStarts = (s.engN e).sporeStarts ++ [x] ∧ x.slot = d.slot ∧ x.chan = pb d.spore.args 1
          ∧ x.target = BitVec.ofNat 32 (pf d.spore.args 4 4) ∧ x.at_ = t.now
      else t.engN e = s.engN e) ∧
  (∀ (d : DueSlot) (s : State), s.ctlRuns = true → s.nt.batches = [[d]] → d.spore.action = 6 → s.pair = false → s.cHot = true →
    Completes .sporeExecute s fun t => ∀ e < 8,
      if (pb d.spore.args 0).testBit e then
        ∃ x, (t.engN e).swaps = (s.engN e).swaps ++ [x] ∧ x.who = .spore d.slot t.now ∧ x.bank = decide (pb d.spore.args 1 = 1)
          ∧ x.len = pf d.spore.args 2 2
      else t.engN e = s.engN e) ∧
  (∀ (d : DueSlot) (s : State), s.ctlRuns = true → s.nt.batches = [[d]] → d.spore.action = 4 → s.pair = true → s.twn.role = true → s.twinReady = true →
    Completes .sporeExecute s fun t => t.twn = { s.twn with swapSpore := s.twn.swapSpore ++ [(d, t.now + 320000)] }) ∧
  (∀ (d : DueSlot) (u : State) (s : State), s.ctlRuns = true → s.nt.batches = [[d]] → d.spore.action = 1 →
    s.stg.pendings = [] → s.stg.st = .checked → u = (s.advanceTo ((s.now + 31) / 32 * 32)).modNt (fun n => { n with batches := [] }) → u.commitFails = none →
    Completes .sporeExecute s fun t => t.live = s.stg.stage ∧ t.stg.st = .clean ∧ t.stg.stage = s.stg.stage) ∧
  (∀ (b : List DueSlot) (rest : List (List DueSlot)) (s : State), s.storesCanonical → s.ctlRuns = true → s.nt.batches = b :: rest →
    s.nt.recs.length + b.length ≤ 64 → (∀ d ∈ b, d.spore.action = 3 ∨ d.spore.action = 5) →
    Completes .sporeExecute s fun t =>
      t.nt.batches = rest
        ∧ (t.nt.recs.map fun r => (r.slot, r.same)) = (s.nt.recs.map fun r => (r.slot, r.same)) ++ (b.map fun d => (d.slot, d.same))
        ∧ ∀ d, b.getLast? = some d → d.spore.action = 5 → regGet t.live .pwmSlotOfs = BitVec.ofNat 64 (pf d.spore.args 0 3 % 2 ^ 24)) ∧
  (∀ s : State, s.ctlRuns = false ∨ s.nt.batches = [] → exec .sporeExecute s = .next s)

/-! ### Ethernet and plant trigger messages -/

/-- ETH_FRAME_RECEIVE (R284 to R286, Table NT-1): a bad frame counts; a frame for this node enters the receive queue with its timestamp
where there is room, and counts as lost where there is none (the count is the model's choice, log 58); PAUSE frames, supervision frames and frames for others do not; in PRP a duplicate is discarded and counted, but every copy of a PTP message is received.
ETH_FRAME_TRANSMIT, ETH_TXTS_READ, ETH_LINK_CHANGE and SUPERVISION_FRAME_SEND (R294, R295, Table NT-1 to Table NT-3): the frame at the
head of a port's queue leaves, and an event message queues its timestamp, or counts as lost where 16 are held; a read takes the head
timestamp out; a port shows its link and the inputs of its cage; in PRP and HSR a supervision frame goes to both ports. The forms
of the redundancy trailer and tag and of the supervision frame are presumed (log 25), and so are the places of the PTP fields (log 26); that with independent ports the port
which the command names takes the head frame is the model's choice (log 27). -/
def Obligations.EthernetFramesComeAndGo : Prop :=
  (∀ (p : Fin 2) (f : Bytes) (good : Bool) (s : State), s.lvb .ethPortCfg p 0 0 = false → exec (.ethFrameReceive p f good) s = .next s) ∧
  (∀ (p : Fin 2) (f : Bytes) (s : State), s.storesCanonical → s.lvb .ethPortCfg p 0 0 = true →
    Completes (.ethFrameReceive p f false) s (Counts .ethRxErr p s)) ∧
  (∀ (p : Fin 2) (f : Bytes) (s : State), s.lvb .ethPortCfg p 0 0 = true → f.length < 60 ∨ 1996 < f.length →
    exec (.ethFrameReceive p f true) s = .next s) ∧
  (∀ (p : Fin 2) (f : Bytes) (s : State), s.storesCanonical → s.lvb .ethPortCfg p 0 0 = true → 60 ≤ f.length → f.length ≤ 1996 →
    s.ethMode ≠ 1 → s.ethMode ≠ 2 →
    Completes (.ethFrameReceive p f true) s fun t =>
      (t.reg .ethRxCnt p).toNat = min ((s.reg .ethRxCnt p).toNat + 1) 0xFFFFFFFF
        ∧ t.eth.ports = s.eth.ports ∧
        if etherType f 12 ≠ 0x8808 ∧ etherType f (etherOfs f 3 12) ≠ 0x88FB ∧ s.isPtm f = false
            ∧ ((pb f 0).testBit 0 = true ∨ f.take 6 = s.ownMac) then
          if s.eth.rxq.length + (rxEntry f (s.rxStamp p)).length ≤ 32768 then
            t.eth.rxq = s.eth.rxq ++ rxEntry f (s.rxStamp p) ∧ t.eth.rxLost = s.eth.rxLost
          else t.eth.rxq = s.eth.rxq ∧ t.eth.rxLost = satInc s.eth.rxLost
        else t.eth.rxq = s.eth.rxq ∧ t.eth.rxLost = s.eth.rxLost) ∧
  (∀ (p : Fin 2) (f : Bytes) (x : Bytes × Nat × Nat) (s : State), s.storesCanonical → s.lvb .ethPortCfg p 0 0 = true → 60 ≤ f.length →
    f.length ≤ 1996 → s.ethMode = 1 → etherType f 12 ≠ 0x8808 → etherType f (f.length - 2) = 0x88FB →
    pb f (f.length - 4) / 16 = 0xA ∨ pb f (f.length - 4) / 16 = 0xB → isPtp f = false → x ∈ s.eth.dups → x.1 = (f.drop 6).take 6 →
    x.2.1 = etherType f (f.length - 6) → s.now < x.2.2 + 12800000000 →
    Completes (.ethFrameReceive p f true) s fun t =>
      t.eth.rxq = s.eth.rxq ∧ (t.reg .ethDupCnt).toNat = min ((s.reg .ethDupCnt).toNat + 1) 0xFFFFFFFF) ∧
  (∀ (p : Fin 2) (f : Bytes) (s : State), s.lvb .ethPortCfg p 0 0 = true → 60 ≤ f.length → f.length ≤ 1996 → s.ethMode = 1 →
    etherType f 12 ≠ 0x8808 → etherType f (f.length - 2) = 0x88FB → pb f (f.length - 4) / 16 = 0xA ∨ pb f (f.length - 4) / 16 = 0xB →
    isPtp f = true → etherType (f.take (f.length - 6)) (etherOfs (f.take (f.length - 6)) 3 12) ≠ 0x88FB →
    s.isPtm (f.take (f.length - 6)) = false → (pb f 0).testBit 0 = true →
    s.eth.rxq.length + (rxEntry (f.take (f.length - 6)) (s.rxStamp p)).length ≤ 32768 →
    Completes (.ethFrameReceive p f true) s fun t =>
      t.eth.rxq = s.eth.rxq ++ rxEntry (f.take (f.length - 6)) (s.rxStamp p) ∧ t.eth.dups = s.eth.dups) ∧
  (∀ (p : Fin 2) (f : TxFrame) (rest : List TxFrame) (s : State), s.storesCanonical → s.lvb .ethPortCfg p 0 0 = true →
    (s.port p).link = true → (s.port p).txq = f :: rest →
    Completes (.ethFrameTransmit p) s fun t =>
      (t.port p).txq = rest ∧ (t.port p).sent = (s.onWire p f).1 :: (s.port p).sent
        ∧ match (s.onWire p f).2 with
          | none => (t.port p).txts = (s.port p).txts
          | some x => if (s.port p).txts.length < 16 then (t.port p).txts = (s.port p).txts ++ [x]
              else (t.port p).txts = (s.port p).txts ∧ (t.reg .ethTxtsLost p).toNat = min ((s.reg .ethTxtsLost p).toNat + 1) 0xFFFFFFFF) ∧
  (∀ (p : Fin 2) (f : Bytes) (rest : List Bytes) (s : State), s.lvb .ethPortCfg p 0 0 = true → (s.port p).link = true →
    (s.port p).txq = [] → s.eth.txq = f :: rest → s.ethMode = 0 →
    Completes (.ethFrameTransmit p) s fun t =>
      t.eth.txq = rest ∧ (t.port p).txq = [] ∧ (t.port p).sent = (s.onWire p { bytes := f }).1 :: (s.port p).sent) ∧
  (∀ (p : Fin 2) (s : State), s.lvb .ethPortCfg p 0 0 = false ∨ (s.port p).link = false → exec (.ethFrameTransmit p) s = .next s) ∧
  (∀ (p : Fin 2) (s : State),
    Completes (.ethTxtsRead p) s fun t =>
      t.port p = { s.port p with txts := (s.port p).txts.drop 1, captured := (s.port p).txts.head? } ∧ Only [.eth, .bus] s t
        ∧ t.bus.readData = match (s.port p).txts with | x :: _ => BitVec.ofNat 64 (pf x.bytes 0 4) | [] => 0) ∧
  (∀ (p : Fin 2) (an sync : Bool) (line : PortLine) (s : State),
    Completes (.ethLinkChange p an sync line) s fun t =>
      t.port p = { s.port p with anDone := an, sync := sync, link := line.link, los := line.los, modAbs := line.modAbs } ∧ (∀ q : Fin 2, q ≠ p → t.port q = s.port q)
        ∧ Only [.eth] s t) ∧
  (∀ s : State, s.ethMode = 1 ∨ s.ethMode = 2 →
    Completes .supervisionFrameSend s fun t =>
      let f := s.supFrame
      let seq := (s.eth.redSeq).toNat
      s.eth.supAt + 64000000000 ≤ t.now ∧ t.eth.supAt = t.now ∧ t.eth.supSeq = s.eth.supSeq + 1 ∧ t.eth.redSeq = s.eth.redSeq + 1
        ∧ (t.port 0).txq = (s.port 0).txq ++ [{ bytes := if s.ethMode = 1 then addRct f 0xA seq else addHsr f 0 seq }]
        ∧ (t.port 1).txq = (s.port 1).txq ++ [{ bytes := if s.ethMode = 1 then addRct f 0xB seq else addHsr f 1 seq }]) ∧
  (∀ s : State, s.ethMode ≠ 1 → s.ethMode ≠ 2 → exec .supervisionFrameSend s = .next s)

/-- PTM_PUBLISH, PTM_HOLDOFF_END, PTM_RECEIVE and PTM_SENDER_EXPIRY (R303, R305, R306, R351): the first waiting event is published with
the next count and ahead of other frames, and the hold-off begins; without a current key it is only counted; a received message that fails
a check is counted and has no other effect, one that passes triggers the units of RX_ACQ; a silent sender is freed. -/
def Obligations.PlantTriggersAreSentAndJudged : Prop :=
  (∀ (e : PtmEvent) (rest : List PtmEvent) (k : PlantKey) (s : State), s.storesCanonical → s.nt.events = e :: rest → s.ptmTxKey = some k →
    Completes .ptmPublish s fun t =>
      t.nt.events = rest ∧ t.nt.msgCount = s.nt.msgCount + 1
        ∧ t.nt.holdoff = some (s.now + 32000000 * s.lv .ntPtmCtrl 0 0 31 24)
        ∧ (t.reg .ntPtmTxCnt).toNat = min ((s.reg .ntPtmTxCnt).toNat + 1) 0xFFFFFFFF
        ∧ (∃ f, (t.port 0).txq = f :: (s.port 0).txq) ∧ ∃ f, (t.port 1).txq = f :: (s.port 1).txq) ∧
  (∀ (e : PtmEvent) (rest : List PtmEvent) (s : State), s.storesCanonical → s.nt.events = e :: rest → s.ptmTxKey = none →
    Completes .ptmPublish s fun t =>
      t.nt = { s.nt with events := rest } ∧ t.eth = s.eth
        ∧ (t.reg .ntPtmSupprCnt).toNat = min ((s.reg .ntPtmSupprCnt).toNat + 1) 0xFFFFFFFF) ∧
  (∀ s : State, s.nt.events = [] → exec .ptmPublish s = .next s) ∧
  (∀ (t0 : Nat) (s : State), s.nt.holdoff = some t0 →
    Completes .ptmHoldoffEnd s fun t => t0 ≤ t.now ∧ t.nt.holdoff = none) ∧
  (∀ (p : Bytes) (s : State), s.storesCanonical → s.lvb .ntPtmCtrl 0 0 1 = true →
    Completes (.ptmReceive p) s fun t =>
      if p.length < 56 ∨ s.ptmAccepts p = false then Counts .ntPtmRxRejCnt 0 s t
      else (∃ x rest, t.nt.senders = x :: rest ∧ x.unit = BitVec.ofNat 16 (pf p 4 2) ∧ x.seq = BitVec.ofNat 64 (pf p 8 8)
              ∧ x.sendNt = BitVec.ofNat 64 (pf p 24 8) ∧ x.at_ = s.now)
        ∧ UnitsTriggered (s.lv .ntPtmCtrl 0 0 23 16) (BitVec.ofNat 64 (pf p 16 8)) s t) ∧
  (∀ (p : Bytes) (s : State), s.lvb .ntPtmCtrl 0 0 1 = false → exec (.ptmReceive p) s = .next s) ∧
  (∀ (u : BitVec 16) (x : PtmSender) (s : State), s.nt.senders.find? (fun x => x.unit = u) = some x →
    Completes (.ptmSenderExpiry u) s fun t =>
      t.nt.senders = (s.nt.senders.filter fun x => x.unit != u) ∧ x.at_ + 2764800000000000 ≤ t.now)

/-! ### Command rings -/

/-- DOORBELL, CQ_HEAD_WRITE, DESCRIPTOR_FETCH, PAYLOAD_READ_FAIL and COMMAND_TIMEOUT (R311, R315 to R317, R327, R335): a doorbell value
that counts moves its index and notes when its entries came, any other one counts as an error; a ring's page in BAR2 takes these two writes
and gives back what was written last, and another offset of it reads 0 and counts; a fetch takes the descriptor at the head with its deadline, and one that cannot
be read stops the ring in FAULT; a payload that cannot be read, or a deadline that passes, ends that command alone. -/
def Obligations.RingsFetchWhatTheirDoorbellsName : Prop :=
  (∀ (r : Fin 128) (v : Word) (s : State), s.bellOk r v = true →
    Completes (.doorbell r v) s fun t =>
      t.ring r = { s.ring r with
        dbSq := v, sqTail := v.toNat, dbAt := s.now
        bells := bellsFor s.now ((v.toNat + s.depth r - (s.ring r).sqHead) % s.depth r) (s.ring r).bells }
        ∧ (∀ q : Fin 128, q ≠ r → t.ring q = s.ring q) ∧ Only [.cmd, .regs] s t) ∧
  (∀ (r : Fin 128) (off : Offset) (v : DWord) (s : State), off.toNat % 4096 = 0 →
    exec (.registerWrite ⟨some r, off⟩ .w32 v) s = exec (.doorbell r (v.setWidth 32)) s) ∧
  (∀ (r : Fin 128) (off : Offset) (v : DWord) (s : State), off.toNat % 4096 = 4 →
    exec (.registerWrite ⟨some r, off⟩ .w32 v) s = exec (.cqHeadWrite r (v.setWidth 32)) s) ∧
  (∀ (r : Fin 128) (off : Offset) (w : AccessWidth) (v : DWord) (s : State), s.storesCanonical → off.toNat % 4096 ≠ 0 → off.toNat % 4096 ≠ 4 →
    Completes (.registerWrite ⟨some r, off⟩ w v) s (Counts .cmdDbErr 0 s)) ∧
  (∀ (r : Fin 128) (off : Offset) (s : State), off.toNat % 4096 = 0 →
    Completes (.captureRead ⟨some r, off⟩ .w32) s fun t => t.bus.readData = (s.ring r).dbSq.setWidth 64 ∧ Only [.bus] s t) ∧
  (∀ (r : Fin 128) (off : Offset) (s : State), off.toNat % 4096 = 4 →
    Completes (.captureRead ⟨some r, off⟩ .w32) s fun t => t.bus.readData = (s.ring r).dbCq.setWidth 64 ∧ Only [.bus] s t) ∧
  (∀ (r : Fin 128) (off : Offset) (w : AccessWidth) (s : State), s.storesCanonical → off.toNat % 4096 ≠ 0 → off.toNat % 4096 ≠ 4 →
    Completes (.captureRead ⟨some r, off⟩ w) s fun t => t.bus.readData = 0
      ∧ (t.reg .cmdDbErr).toNat = min ((s.reg .cmdDbErr).toNat + 1) 0xFFFFFFFF ∧ Only [.bus, .regs] s t) ∧
  (∀ (r : Fin 128) (v : Word) (s : State), s.bellOk r v = true →
    Completes (.cqHeadWrite r v) s fun t => t.ring r = { s.ring r with dbCq := v, cqHead := v.toNat } ∧ Only [.cmd, .regs] s t) ∧
  (∀ (r : Fin 128) (v : Word) (s : State), s.storesCanonical → s.bellOk r v = false →
    Completes (.doorbell r v) s fun t => t.ring r = { s.ring r with dbSq := v }
      ∧ (t.reg .cmdDbErr).toNat = min ((s.reg .cmdDbErr).toNat + 1) 0xFFFFFFFF) ∧
  (∀ (r : Fin 128) (v : Word) (s : State), s.storesCanonical → s.bellOk r v = false →
    Completes (.cqHeadWrite r v) s fun t => t.ring r = { s.ring r with dbCq := v }
      ∧ (t.reg .cmdDbErr).toNat = min ((s.reg .cmdDbErr).toNat + 1) 0xFFFFFFFF) ∧
  (∀ (r : Fin 128) (d payload sig : Bytes) (s : State), s.storesCanonical → s.mayFetch r = true →
    Completes (.descriptorFetch r (some d) payload sig) s fun t =>
      (t.ring r).sqHead = ((s.ring r).sqHead + 1) % s.depth r ∧ (t.ring r).inFlight = (s.ring r).inFlight + 1
        ∧ t.cmd.nextNo = s.cmd.nextNo + 1
        ∧ (∃ f ∈ t.cmd.flights, f.no = s.cmd.nextNo ∧ f.ring = r ∧ f.desc = padTo 128 d ∧ f.payload = payloadOf (padTo 128 d) payload
            ∧ f.work = .parse ∧ f.deadline = s.now + 32000 *
                (if pf (padTo 128 d) 24 4 = 0 then (s.reg .cmdTimeoutDef).toNat else pf (padTo 128 d) 24 4) ∧ Queued f .parse s t)) ∧
  (∀ (r : Fin 128) (payload sig : Bytes) (s : State), s.mayFetch r = true →
    Completes (.descriptorFetch r none payload sig) s fun t =>
      t.ring r = { s.ring r with st := .fault, err := 4 } ∧ t.cmd.flights = s.cmd.flights ∧ Only [.cmd] s t) ∧
  (∀ (r : Fin 128) (desc : Option Bytes) (payload sig : Bytes) (s : State), s.mayFetch r = false →
    exec (.descriptorFetch r desc payload sig) s = .next s) ∧
  (∀ (r : Fin 128) (seq : DWord) (f : Flight) (s : State), s.storesCanonical →
    s.cmd.flights.find? (fun f => f.ring = r && f.seq = seq && f.work = .parse) = some f →
    Completes (.payloadReadFail r seq) s (Ended f .error 0x80000010 0 s)) ∧
  (∀ (r : Fin 128) (seq : DWord) (f : Flight) (s : State), s.storesCanonical →
    s.cmd.flights.find? (fun f => f.ring = r && f.seq = seq && s.cmd.ready.any fun w => w.no = f.no) = some f →
    Completes (.commandTimeout r seq) s fun t => Ended f .timeout 2 0 s t ∧ f.deadline ≤ t.now)

/-- WORK_ITEM_DISPATCH, PARSE and VERIFY (R318 to R321, R327, R328, R337, R343, R439): a command whose deadline has passed on a ready list
is withdrawn before any dispatch; a free unit takes the oldest item of the highest level it can serve, and a verification begins on the
anchor and the TARGET_ID of that instant; a descriptor ends with the first check of Table CMD-3 that it fails, on a standby with STANDBY, and else goes on to VERIFY; a
command that does not verify ends AUTH_FAIL with its DETAIL, one that does goes on to PLACE. PLACE (R326, R346, R352, R386, R440): a
command that a standby refuses, one without authority, one that the pair has completed already, a replayed one and one that may not act in HALTED end with their
outcome; OPS_ARM and OPS_START are refused in STOPPING, where LAST_SEQ stays (R383); one whose mailbox is full waits again; stopped cores finish nothing; an accepted one makes its SEQ the LAST_SEQ of its ring and goes to the block that acts. A block acts on a command only with the
bytes that were accepted, once, and in its turn. That a field which Table CMD-2 says is 0 where it is not used counts as reserved, and that authority is judged before replay, is the
model's reading (log 47), and so is what becomes of a command that was verified under another TARGET_ID (log 36). -/
def Obligations.WorkItemsLeadToAcceptance : Prop :=
  (∀ (u : Fin 7) (w : WorkItem) (s : State), (∀ f ∈ s.cmd.flights, s.now ≤ f.deadline) → vget s.cmd.units u none = none →
    s.pick u = some w →
    Completes (.workItemDispatch u) s fun t =>
      t.cmd.units = vset s.cmd.units u (some w)
        ∧ (t.cmd.ready = s.cmd.ready.filter fun x => !(x.no = w.no && x.kind = w.kind))
        ∧ (w.kind ≠ .verify → t.cmd.flights = s.cmd.flights)
        ∧ ∀ f, w.kind = .verify → s.flight w.no = some f → t.cmd.flights = s.cmd.flights.map fun x => if x.no = w.no then
            { x with
              anchor := (s.anchorRec f.keyId).map fun r => (r.mldsa, r.p384)
              verGen := (s.anchor f.keyId).otpGen, verTarget := s.sec.targetId }
          else x) ∧
  (∀ (u : Fin 7) (f : Flight) (s : State), s.storesCanonical → s.cmd.flights = [f] → f.deadline < s.now →
    s.cmd.ready.any (fun w => w.no = f.no) = true →
    Completes (.workItemDispatch u) s (Ended f .timeout 2 0 s)) ∧
  (∀ (u : Fin 7) (s : State), (∀ f ∈ s.cmd.flights, s.now ≤ f.deadline) → vget s.cmd.units u none ≠ none ∨ s.pick u = none →
    exec (.workItemDispatch u) s = .next s) ∧
  (∀ (core : Fin 2) (f : Flight) (st : Status) (d : Nat) (s : State), s.storesCanonical → s.ops.coresStopped = false →
    s.unitWork core .parse = some f → descRefusal f.desc f.payload (opRow f.opcode) (s.applyLate f) = some (st, d) →
    Completes (.parse core) s (Ended f st d 0 s)) ∧
  (∀ (core : Fin 2) (f : Flight) (s : State), s.storesCanonical → s.ops.coresStopped = false → s.unitWork core .parse = some f →
    descRefusal f.desc f.payload (opRow f.opcode) (s.applyLate f) = none →
    s.pair = true → s.twn.role = false → f.opcode ≠ 0x0805 → f.opcode ≠ 0x0501 →
    Completes (.parse core) s (Ended f .standby 0 0 s)) ∧
  (∀ (core : Fin 2) (f : Flight) (s : State), s.storesCanonical → s.ops.coresStopped = false → s.unitWork core .parse = some f →
    descRefusal f.desc f.payload (opRow f.opcode) (s.applyLate f) = none → s.now ≤ f.deadline →
    s.pair = false ∨ s.twn.role = true ∨ f.opcode = 0x0805 ∨ f.opcode = 0x0501 →
    Completes (.parse core) s fun t => Queued f .verify s t ∧ vget t.cmd.units core none = none) ∧
  (∀ (core : Fin 2) (s : State), s.ops.coresStopped = true ∨ s.unitWork core .parse = none → exec (.parse core) s = .next s) ∧
  (∀ (u : Fin 7) (f : Flight) (s : State), s.storesCanonical → s.unitWork u .verify = some f → s.now ≤ f.deadline →
    Completes (.verify u) s fun t => vget t.cmd.units u none = none
      ∧ (u = 2 → (t.reg .schKmacCnt).toNat = min ((s.reg .schKmacCnt).toNat + 1) 0xFFFFFFFF) ∧
      match s.verifyFail f with
      | some d => Ended f .authFail d 0 s t
      | none => Queued f .place s t ∧ ∀ x ∈ t.cmd.flights, x.no = f.no → x.verified = true) ∧
  (∀ (u : Fin 7) (s : State), s.unitWork u .verify = none → exec (.verify u) s = .next s) ∧
  (∀ (core : Fin 2) (f : Flight) (s : State), s.storesCanonical → s.ops.coresStopped = false → s.unitWork core .place = some f →
    s.pair = true → s.twn.role = false → f.opcode ≠ 0x0805 → f.opcode ≠ 0x0501 →
    Completes (.place core) s fun t => Ended f .standby 0 0 s t ∧ t.sec = s.sec) ∧
  (∀ (core : Fin 2) (f : Flight) (d : Nat) (s : State), s.storesCanonical → s.places core f → s.placeAuth f = some d →
    Completes (.place core) s fun t => Ended f .authFail d 0 s t ∧ t.sec = s.sec) ∧
  (∀ (core : Fin 2) (f : Flight) (p : PastCmd) (s : State), s.storesCanonical → s.places core f →
    s.placeAuth f = none → s.pastOf f.ring f.seq = some p →
    Completes (.place core) s fun t => Ended f (Status.ofCode p.status) 0x80000020 p.appliedAt s t ∧ t.sec = s.sec) ∧
  (∀ (core : Fin 2) (f : Flight) (st : Status) (d : Nat) (s : State), s.storesCanonical → s.places core f →
    s.placeAuth f = none → s.pastOf f.ring f.seq = none →
    s.replayRefusal f.ring f.seq f.applyAt f.opcode f.payload = some (st, d) →
    Completes (.place core) s fun t => Ended f st d 0 s t ∧ t.sec = s.sec) ∧
  (∀ (core : Fin 2) (f : Flight) (s : State), s.storesCanonical → s.places core f →
    s.placeAuth f = none → s.pastOf f.ring f.seq = none →
    s.replayRefusal f.ring f.seq f.applyAt f.opcode f.payload = none → s.ops.st = .halted → haltOk f.opcode = false →
    Completes (.place core) s fun t => Ended f .error 5 0 s t ∧ t.sec = s.sec) ∧
  (∀ (core : Fin 2) (f : Flight) (s : State), s.storesCanonical → s.places core f →
    s.placeAuth f = none → s.pastOf f.ring f.seq = none →
    s.replayRefusal f.ring f.seq f.applyAt f.opcode f.payload = none → s.ops.st = .stopping → f.opcode = 0x0610 ∨ f.opcode = 0x0611 →
    Completes (.place core) s fun t => Ended f .busyStopping 0 0 s t ∧ t.sec = s.sec
      ∧ (t.reg .glbBusyStopCnt).toNat = min ((s.reg .glbBusyStopCnt).toNat + 1) 0xFFFFFFFF) ∧
  (∀ (core : Fin 2) (f : Flight) (s : State), s.storesCanonical → s.places core f →
    s.placeAuth f = none → s.pastOf f.ring f.seq = none →
    s.replayRefusal f.ring f.seq f.applyAt f.opcode f.payload = none → s.ops.st ≠ .halted →
    s.ops.st ≠ .stopping ∨ (f.opcode ≠ 0x0610 ∧ f.opcode ≠ 0x0611) → s.mboxReady f = false → s.now ≤ f.deadline →
    Completes (.place core) s fun t => Queued f .place s t ∧ t.sec = s.sec) ∧
  (∀ (core : Fin 2) (f : Flight) (s : State), s.storesCanonical → s.places core f →
    s.placeAuth f = none → s.pastOf f.ring f.seq = none →
    s.replayRefusal f.ring f.seq f.applyAt f.opcode f.payload = none → s.ops.st ≠ .halted ∨ haltOk f.opcode = true →
    s.ops.st ≠ .stopping ∨ (f.opcode ≠ 0x0610 ∧ f.opcode ≠ 0x0611) → s.mboxReady f = true → f.opcode ≠ 0x0401 →
    Completes (.place core) s fun t =>
      t.rep f.ring = { s.rep f.ring with lastSeq := f.seq } ∧ t.reg .cmdLastSeq f.ring = f.seq ∧ HostSame s t
        ∧ t.cmd.handed = s.cmd.handed ++ [{ src := f.src, opcode := f.opcode, payload := f.payload, at_ := s.now }]
        ∧ t.cmd.flights = s.cmd.flights.filter fun x => x.no != f.no) ∧
  (∀ (core : Fin 2) (s : State), s.ops.coresStopped = true ∨ s.unitWork core .place = none → exec (.place core) s = .next s) ∧
  (∀ (c : Src) (op : Nat) (p : Bytes) (x : Option Bytes) (i : Instr) (s : State), s.given c op p = false →
    (op, i) ∈ [(0x0101, .gfmSetTargets c p), (0x0102, .gfmSetBreaker c p), (0x0103, .gfmClearFlags c p), (0x0110, .frdBankSwap c p),
      (0x0120, .prfSetTarget c p), (0x0201, .stgToken c p), (0x0202, .stgWrite c p), (0x0203, .stgCheck c p), (0x0204, .stgCommit c p),
      (0x0205, .stgSave c p x), (0x0206, .stgRecover c p), (0x0301, .acqArm c p), (0x0302, .acqTrigger c p), (0x0303, .acqStop c p),
      (0x0401, .keyGrant c p), (0x0402, .keyRetire c p), (0x0403, .anchorInstall c p), (0x0404, .anchorRevoke c p),
      (0x0405, .plantKeyGrant c p), (0x0601, .trpTrip c p), (0x0602, .trpClear c p), (0x0611, .opsStart c p), (0x0612, .opsStop c p),
      (0x0701, .ntSporeLoad c p), (0x0702, .ntSporeCancel c p), (0x0703, .ntSet c p), (0x0801, .frdSatReadClear c p),
      (0x0802, .gdlOstRun c p), (0x0803, .gdlLinkTrain c p), (0x0804, .clkReacquire c p), (0x0805, .logRead c p),
      (0x0901, .imgFwLoad c p x), (0x0902, .imgFwActivate c p), (0x0910, .frdGraphLoad c p x)] → exec i s = .next s) ∧
  (∀ (c : Src) (op : Nat) (i : Instr) (s : State), s.given c op [] = false →
    (op, i) ∈ [(0x0501, .twnResync c), (0x0610, .opsArm c), (0x0613, .opsDisarm c), (0x0614, .opsHalt c), (0x0615, .opsMainReset c)] →
    exec i s = .next s)

/-- RING_ENABLE, RING_DISABLE and RING_DRAINED (R313, R314, Table CMD-1, Table CMD-14): a disabled ring that passes its checks runs with
its indexes at 0, one that does not stays disabled with the code of the check; a draining ring is refused and counted; a ring written 0
fetches no more and every command not yet accepted ends ABORTED; with its last completion written it is disabled. -/
def Obligations.RingsEnableAndDrain : Prop :=
  (∀ (r : Fin 128) (s : State), s.storesCanonical → (s.ring r).st = .disabled → s.enableCheck r = 0 →
    Completes (.ringEnable r) s fun t =>
      (t.ring r).st = .running ∧ (t.ring r).err = 0 ∧ (t.ring r).sqHead = 0 ∧ (t.ring r).sqTail = 0 ∧ (t.ring r).cqHead = 0
        ∧ (t.ring r).cqTail = 0 ∧ (t.ring r).phase = true ∧ bitOf (t.reg .cmdRingCfg r) 31 = true ∧ OtherRegs .cmdRingCfg r 0 s t
        ∧ ∀ q : Fin 128, q ≠ r → t.ring q = s.ring q) ∧
  (∀ (r : Fin 128) (s : State), s.storesCanonical → (s.ring r).st = .disabled → s.enableCheck r ≠ 0 →
    Completes (.ringEnable r) s fun t =>
      t.ring r = { s.ring r with err := s.enableCheck r } ∧ bitOf (t.reg .cmdRingCfg r) 31 = false ∧ OtherRegs .cmdRingCfg r 0 s t) ∧
  (∀ (r : Fin 128) (s : State), s.storesCanonical → (s.ring r).st = .draining →
    Completes (.ringEnable r) s fun t => t.ring r = { s.ring r with err := 8 }
      ∧ (t.reg .glbBusyStopCnt).toNat = min ((s.reg .glbBusyStopCnt).toNat + 1) 0xFFFFFFFF) ∧
  (∀ (r : Fin 128) (s : State), (s.ring r).st = .running ∨ (s.ring r).st = .fault → exec (.ringEnable r) s = .next s) ∧
  (∀ (r : Fin 128) (s : State), s.storesCanonical → (s.ring r).st = .running ∨ (s.ring r).st = .fault →
    Completes (.ringDisable r) s fun t =>
      (t.ring r).st = (if (s.ring r).st = .running then .draining else .fault) ∧ bitOf (t.reg .cmdRingCfg r) 31 = false
        ∧ ∀ f ∈ t.cmd.flights, f ∈ s.cmd.flights
          ∧ (f.ring = r → ∃ u < 7, ∃ w, vget s.cmd.units u none = some w ∧ w.no = f.no ∧ w.kind = .place)) ∧
  (∀ (r : Fin 128) (f : Flight) (s : State), s.storesCanonical → (s.ring r).st = .running ∨ (s.ring r).st = .fault →
    s.cmd.flights.filter (fun f => f.ring = r) = [f] → (∀ u < 7, vget s.cmd.units u none = none) →
    Completes (.ringDisable r) s (Ended f .aborted 0 0 s)) ∧
  (∀ (r : Fin 128) (s : State), (s.ring r).st = .disabled ∨ (s.ring r).st = .draining → exec (.ringDisable r) s = .next s) ∧
  (∀ (r : Fin 128) (s : State), (s.ring r).st = .draining ∨ (s.ring r).st = .fault ∧ bitOf (s.reg .cmdRingCfg r) 31 = false →
    (s.ring r).inFlight = 0 →
    Completes (.ringDrained r) s fun t => t.ring r = { s.ring r with st := .disabled } ∧ Only [.cmd] s t) ∧
  (∀ (r : Fin 128) (s : State), (s.ring r).inFlight ≠ 0 → exec (.ringDrained r) s = .next s)

/-! ### Trust -/

/-- KEY_GRANT, PLANT_KEY_GRANT and GRANT_UNWRAP (R349 to R351, Table AUT-6): at PLACE a grant that fails a check changes nothing, and an accepted
session grant takes over the epoch, raises the floor and draws a new nonce; its unwrap waits for a verifier lane as a work item of its
ring's level, for which a full list makes it wait, and installs the key of the grant, leaves the ring
without one where it fails, and ends with an error where the keys were erased meanwhile. That DETAIL of an accepted PLANT_KEY_GRANT is 0 is
the model's reading (log 36). -/
def Obligations.GrantsInstallTheirKeys : Prop :=
  (∀ (core : Fin 2) (f : Flight) (st : Status) (d : Nat) (s : State), s.storesCanonical → s.places core f → s.placeAuth f = none →
    s.pastOf f.ring f.seq = none → (s.rep f.ring).lastSeq < f.seq → f.applyAt = 0 →
    f.opcode = 0x0401 ∨ f.opcode = 0x0405 ∧ (s.rep f.ring).floorUnset = false →
    s.grantRefusal f.ring (f.opcode == 0x0405) f.payload = some (st, d) →
    Completes (.place core) s fun t => Ended f st d 0 s t ∧ t.sec = s.sec) ∧
  (∀ (core : Fin 2) (f : Flight) (s : State), s.storesCanonical → s.places core f → s.placeAuth f = none →
    s.pastOf f.ring f.seq = none → (s.rep f.ring).lastSeq < f.seq → f.applyAt = 0 → f.opcode = 0x0401 →
    s.grantRefusal f.ring false f.payload = none → s.ops.st ≠ .halted → s.mboxReady f = true →
    Completes (.place core) s fun t =>
      t.rep f.ring = { s.rep f.ring with
          epoch := BitVec.ofNat 32 (pf f.payload 4 4), lastSeq := BitVec.ofNat 64 (max f.seq.toNat (pf f.payload 24 8))
          floorUnset := false, nonce := Config.drbg128 s.free }
        ∧ t.free = s.free + 1 ∧ (∀ r < 129, r ≠ f.ring.val → t.rep r = s.rep r) ∧ t.sec.grants = s.sec.grants ∧ HostSame s t
        ∧ t.cmd.handed = s.cmd.handed ++ [{ src := f.src, opcode := f.opcode, payload := f.payload, at_ := s.now }]) ∧
  (∀ (i : Instr) (op : Nat) (c : Src) (p : Bytes) (s : State), (i, op) ∈ [(.keyGrant c p, 0x0401), (.plantKeyGrant c p, 0x0405)] →
    s.admits c op p → c.ring.val = 128 ∨ s.listLen (s.level c.ring) < 64 →
    Completes i s fun t =>
      (∃ g : PendGrant, t.sec.grants = s.sec.grants ++ [g] ∧ g.src = c ∧ g.ring = c.ring ∧ g.plant = (op == 0x0405) ∧ g.payload = p
        ∧ g.grantor = c.keyId.toNat % 16 ∧ g.no = s.cmd.nextNo ∧ g.erased = s.isDead c)
        ∧ (c.ring.val < 128 → t.cmd.ready = s.cmd.ready ++ [{ level := s.level c.ring, kind := .unwrap, no := s.cmd.nextNo }])
        ∧ t.sec.replay = s.sec.replay ∧ t.sec.plant = s.sec.plant ∧ Only [.sec, .cmd, .mgt, .regs] s t) ∧
  (∀ (i : Instr) (op : Nat) (c : Src) (p : Bytes) (s : State), (i, op) ∈ [(.keyGrant c p, 0x0401), (.plantKeyGrant c p, 0x0405)] →
    s.admits c op p → c.ring.val < 128 → 64 ≤ s.listLen (s.level c.ring) →
    Completes i s fun t => (∀ h ∈ t.cmd.handed, h.src = c → h.acted = false) ∧ t.cmd.ready = s.cmd.ready ∧ Only [.cmd] s t) ∧
  (∀ (r : Fin 129) (g : PendGrant) (s : State), s.storesCanonical → s.sec.grants.find? (fun g => g.ring = r && s.unwrapping g && (g.ring.val != 128 || s.mgt.vmgt)) = some g → g.erased = true →
    Completes (.grantUnwrap r) s fun t =>
      t.sec = { s.sec with grants := s.sec.grants.filter fun y => !(y.src == g.src) }
        ∧ Answered g.src (if g.plant then 0x0405 else 0x0401) .error 4 0 s t) ∧
  (∀ (r : Fin 129) (g : PendGrant) (s : State), s.storesCanonical → s.sec.grants.find? (fun g => g.ring = r && s.unwrapping g && (g.ring.val != 128 || s.mgt.vmgt)) = some g →
    g.erased = false → g.plant = false →
    Completes (.grantUnwrap r) s fun t => t.sec.plant = s.sec.plant ∧
      match s.unwrap g.payload with
      | none => t.rep r = { s.rep r with key := none } ∧ Answered g.src 0x0401 .error 3 0 s t
      | some kg => Answered g.src 0x0401 .ok (pf g.payload 4 4) s.nt64 s t ∧ t.sec.storeKey = true ∧
          ∃ k : SessKey, t.rep r = { s.rep r with key := some k } ∧ k.keyId = BitVec.ofNat 16 (pf g.payload 2 2)
            ∧ k.from_ = BitVec.ofNat 64 (pf g.payload 8 8) ∧ k.expiry = BitVec.ofNat 64 (pf g.payload 16 8) ∧ k.grantor = g.grantor
            ∧ k.key = Config.kmac256 kg
                (leBytes 16 s.sec.targetId.toNat ++ leBytes 2 r.val ++ leBytes 4 (pf g.payload 4 4)) 32 "NDZ SESSION") ∧
  (∀ (r : Fin 129) (g : PendGrant) (s : State), s.storesCanonical → s.sec.grants.find? (fun g => g.ring = r && s.unwrapping g && (g.ring.val != 128 || s.mgt.vmgt)) = some g →
    g.erased = false → g.plant = true →
    Completes (.grantUnwrap r) s fun t => t.sec.replay = s.sec.replay ∧
      match s.unwrap g.payload, s.plantPlace with
      | none, _ => t.sec.plant = s.sec.plant ∧ Answered g.src 0x0405 .error 3 0 s t
      | some _, none => t.sec.plant = s.sec.plant ∧ Answered g.src 0x0405 .checkFail 8 0 s t
      | some kg, some i => Answered g.src 0x0405 .ok 0 s.nt64 s t ∧
          ∃ k : PlantKey, t.sec.plant = vset s.sec.plant i (some k) ∧ k.keyId = BitVec.ofNat 16 (pf g.payload 2 2)
            ∧ k.epoch = BitVec.ofNat 32 (pf g.payload 4 4) ∧ k.from_ = BitVec.ofNat 64 (pf g.payload 8 8)
            ∧ k.expiry = BitVec.ofNat 64 (pf g.payload 16 8) ∧ k.grantor = g.grantor
            ∧ k.key = Config.kmac256 kg (leBytes 2 (pf g.payload 2 2) ++ leBytes 4 (pf g.payload 4 4)) 32 "NDZ PLANT") ∧
  (∀ (r : Fin 129) (s : State), s.sec.grants.find? (fun g => g.ring = r && s.unwrapping g && (g.ring.val != 128 || s.mgt.vmgt)) = none → exec (.grantUnwrap r) s = .next s)

/-- KEY_RETIRE, ANCHOR_INSTALL, ANCHOR_REVOKE and TAMPER_DETECTION (R344, R345, R353, R358, Table AUT-9): a retire removes the key it
names and tells whether there was one; an install gives its slot the new generation and its keys, a revoke empties its slot, and both
retire every key that the slot had granted, and every grant of it that waits to be unwrapped, which the model ends as an erased one (log 36); a watched tamper source erases every key and is recorded, and halts the device where
configured. -/
def Obligations.KeysAnchorsAndTampers : Prop :=
  (∀ (c : Src) (p : Bytes) (s : State), s.storesCanonical → s.admits c 0x0402 p → pb p 0 = 0 →
    Completes (.keyRetire c p) s fun t =>
      t.rep c.ring = { s.rep c.ring with key := none } ∧ (∀ r : Fin 129, r ≠ c.ring → t.rep r = s.rep r) ∧ t.sec.plant = s.sec.plant
        ∧ Answered c 0x0402 .ok (if (s.rep c.ring).key.isSome then 1 else 0) s.nt64 s t) ∧
  (∀ (c : Src) (p : Bytes) (s : State), s.storesCanonical → s.admits c 0x0402 p → pb p 0 = 1 →
    Completes (.keyRetire c p) s fun t => t.sec.replay = s.sec.replay ∧
      let hit := fun (k : PlantKey) => k.keyId.toNat = pf p 2 2 && k.epoch.toNat = pf p 4 4
      (∀ i < 4, vget t.sec.plant i none = (vget s.sec.plant i none).filter fun k => !hit k)
        ∧ Answered c 0x0402 .ok (if s.sec.plant.toList.any (fun k => k.any hit) then 1 else 0) s.nt64 s t) ∧
  (∀ (c : Src) (p : Bytes) (d : Nat) (s : State), s.storesCanonical → s.admits c 0x0403 p → s.anchorRefusal (pb p 0) (pb p 1) = some d →
    Completes (.anchorInstall c p) s fun t => t.sec = s.sec ∧ Answered c 0x0403 .checkFail d 0 s t) ∧
  (∀ (c : Src) (p : Bytes) (s : State), s.storesCanonical → s.admits c 0x0403 p → s.anchorRefusal (pb p 0) (pb p 1) = none →
    Completes (.anchorInstall c p) s fun t =>
      if Config.keysValid ((p.drop 24).take 1952) ((p.drop 1976).take 97) = true then
        t.anchor (pb p 0) = Anchor.make (pb p 0) (pb p 1) ((p.drop 24).take 1952) ((p.drop 1976).take 97)
          ∧ (∀ k < 16, k ≠ pb p 0 → t.anchor k = s.anchor k) ∧ GrantsRetired (pb p 0) s t
          ∧ t.sec.targetId = (if (pb p 2).testBit 0 = true ∧ 8 ≤ pb p 0 then BitVec.ofNat 128 (pf p 8 16) else s.sec.targetId)
          ∧ Answered c 0x0403 .ok 0 s.nt64 s t
      else t.sec = s.sec ∧ Answered c 0x0403 .checkFail 5 0 s t) ∧
  (∀ (c : Src) (p : Bytes) (d : Nat) (s : State), s.storesCanonical → s.admits c 0x0404 p →
    s.anchorRefusal (pb p 0) (pb p 1) = some d
      ∨ s.anchorRefusal (pb p 0) (pb p 1) = none ∧ s.owned = true ∧ (s.setAnchor (pb p 0) { otpGen := pb p 1 }).owned = false ∧ d = 4 →
    Completes (.anchorRevoke c p) s fun t => t.sec = s.sec ∧ Answered c 0x0404 .checkFail d 0 s t) ∧
  (∀ (c : Src) (p : Bytes) (s : State), s.storesCanonical → s.admits c 0x0404 p → s.anchorRefusal (pb p 0) (pb p 1) = none →
    s.owned = false ∨ (s.setAnchor (pb p 0) { otpGen := pb p 1 }).owned = true →
    Completes (.anchorRevoke c p) s fun t =>
      t.anchor (pb p 0) = { otpGen := pb p 1 } ∧ (∀ k < 16, k ≠ pb p 0 → t.anchor k = s.anchor k) ∧ GrantsRetired (pb p 0) s t
        ∧ Answered c 0x0404 .ok 0 s.nt64 s t) ∧
  (∀ (n : Fin 10) (s : State), s.tamperOn n = true →
    Completes (.tamperDetection n) s fun t =>
      (∀ r < 129, (t.rep r).key = none) ∧ t.sec.plant = Vector.replicate 4 none ∧ t.sec.storeKey = false
        ∧ (∀ g ∈ t.sec.grants, g.erased = true) ∧ (∀ h ∈ t.cmd.handed, h.opcode = 0x0401 ∨ h.opcode = 0x0405 → h.dead = true)
        ∧ (∃ r : LogRec, t.sec.tamperRecs = s.sec.tamperRecs ++ [r] ∧ r.rtc = s.rtc ∧ r.detail = BitVec.ofNat 32 n.val
            ∧ r.state = s.ops.st.code ∧ r.resets = s.sec.resetCnt)
        ∧ (s.sec.tamperCfg.getLsbD (16 + n) = true → s.ops.st ≠ .halted → s.ops.st ≠ .off →
            t.ops.st = .halted ∧ t.ops.cause = 0x26)) ∧
  (∀ (n : Fin 10) (s : State), s.storesCanonical → s.tamperOn n = true → s.sec.tamperCfg.getLsbD (16 + n) = false →
    Completes (.tamperDetection n) s fun t =>
      (t.reg .secTamperEvt).getLsbD n = true ∧ (t.reg .secTamperCnt).toNat = ((s.reg .secTamperCnt).toNat + 1) % 2 ^ 32 ∧ t.ops = s.ops) ∧
  (∀ (n : Fin 10) (s : State), s.tamperOn n = false → exec (.tamperDetection n) s = .next s)

/-! ### Acquisition -/

/-- ACQ_ARM, ACQ_TRIGGER, ACQ_STOP, ACQ_POST_COMPLETE, ACQ_HEADER_WRITTEN, ACQ_REARM, ACQ_SEG_FREE and EXT_TRIG_EDGE (R398, R401, Table
ACQ-2, Table ACQ-3, Table ACQ-7): idle units of the mask arm in their next EMPTY segment, or hold; a trigger takes every armed unit; a
stop ends at once or with the record; a record whose header is written, once the unit's queue has drained, fills its segment, and an ACQ_ARM before
that waits for it, which is the model's reading (log 55); a unit in REARM or HOLD goes on with a free
segment. -/
def Obligations.AcquisitionUnitsKeepTheirStates : Prop :=
  (∀ (c : Src) (p : Bytes) (s : State), s.storesCanonical → s.admits c 0x0301 p → pb p 0 ≠ 0 →
    (∀ u < 8, (pb p 0).testBit u = true → (s.acqN u).st = .idle → (s.acqN u).complete = false) →
    Completes (.acqArm c p) s fun t =>
      (∀ u < 8, (pb p 0).testBit u = true → (s.acqN u).st = .idle →
        t.acqN u = match s.nextEmpty u with
          | some i => (s.acqN u).fill i s.now
          | none => { s.acqN u with st := .hold })
        ∧ (∀ u < 8, (pb p 0).testBit u = false ∨ (s.acqN u).st ≠ .idle → t.acqN u = s.acqN u)
        ∧ Answered c 0x0301 .ok (maskOf 8 fun u => (pb p 0).testBit u && (s.acqN u).st = .idle) s.nt64 s t) ∧
  (∀ (c : Src) (p : Bytes) (u : Nat) (s : State), s.admits c 0x0301 p → u < 8 → pb p 0 = 2 ^ u → (s.acqN u).st = .idle →
    (s.acqN u).complete = true →
    Completes (.acqArm c p) s fun t => s.acqDrained u ≤ t.now ∧ (t.acqN u).complete = false
      ∧ ((t.acqN u).st = .armed ∨ (t.acqN u).st = .hold)) ∧
  (∀ (c : Src) (p : Bytes) (s : State), s.storesCanonical → s.admits c 0x0301 p → pb p 0 = 0 →
    Completes (.acqArm c p) s fun t => t.acq = s.acq ∧ Answered c 0x0301 .checkFail 1 0 s t) ∧
  (∀ (c : Src) (p : Bytes) (s : State), s.storesCanonical → s.admits c 0x0302 p → pb p 0 ≠ 0 →
    Completes (.acqTrigger c p) s fun t => UnitsTriggered (pb p 0) s.nt64 s t
      ∧ Answered c 0x0302 .ok (maskOf 8 fun u => (pb p 0).testBit u && (s.acqN u).st = .armed) s.nt64 s t) ∧
  (∀ (c : Src) (p : Bytes) (s : State), s.storesCanonical → s.admits c 0x0302 p → pb p 0 = 0 →
    Completes (.acqTrigger c p) s fun t => t.acq = s.acq ∧ Answered c 0x0302 .checkFail 1 0 s t) ∧
  (∀ (c : Src) (p : Bytes) (s : State), s.storesCanonical → s.admits c 0x0303 p → pb p 0 ≠ 0 → (pb p 1).testBit 0 = true →
    Completes (.acqStop c p) s fun t =>
      (∀ u < 8, if (pb p 0).testBit u then (t.acqN u).st = .idle ∧ ((s.acqN u).st = .triggered → (t.acqN u).complete = true)
        else t.acqN u = s.acqN u) ∧ Answered c 0x0303 .ok 0 s.nt64 s t) ∧
  (∀ (c : Src) (p : Bytes) (s : State), s.storesCanonical → s.admits c 0x0303 p → pb p 0 ≠ 0 → (pb p 1).testBit 0 = false →
    Completes (.acqStop c p) s fun t =>
      (∀ u < 8, if (pb p 0).testBit u then
          if (s.acqN u).st = .triggered then t.acqN u = { s.acqN u with stopping := true } else (t.acqN u).st = .idle
        else t.acqN u = s.acqN u) ∧ Answered c 0x0303 .ok 0 s.nt64 s t) ∧
  (∀ (c : Src) (p : Bytes) (s : State), s.storesCanonical → s.admits c 0x0303 p → pb p 0 = 0 →
    Completes (.acqStop c p) s fun t => t.acq = s.acq ∧ Answered c 0x0303 .checkFail 1 0 s t) ∧
  (∀ (u : Fin 8) (s : State), (s.acqN u).st = .triggered → (s.acqN u).complete = true →
    Completes (.acqPostComplete u) s fun t => Only [.acq] s t ∧ (∀ v : Fin 8, v ≠ u → t.acqN v = s.acqN v)
      ∧ (t.acqN u).complete = true
      ∧ (t.acqN u).st = if s.lvb .acqCfg u 0 28 = true ∧ (s.acqN u).stopping = false then .rearm else .idle) ∧
  (∀ (u : Fin 8) (s : State), (s.acqN u).st ≠ .triggered ∨ (s.acqN u).complete = false → exec (.acqPostComplete u) s = .next s) ∧
  (∀ (u : Fin 8) (s : State), s.storesCanonical → (s.acqN u).complete = true → (s.acqN u).st ≠ .triggered →
    Completes (.acqHeaderWritten u) s fun t =>
      t.acqN u = { s.acqN u with
        segs := vset (s.acqN u).segs (s.acqN u).cur .full, last := some (s.acqN u).cur, complete := false } ∧ s.acqDrained u ≤ t.now
        ∧ t.dram = memWrite s.dram (s.acqBase u + (s.acqN u).cur * s.segBytes u) (s.acqHeader u)
        ∧ (t.reg .acqRecCnt u).toNat = ((s.reg .acqRecCnt u).toNat + 1) % 2 ^ 32) ∧
  (∀ (u : Fin 8) (s : State), (s.acqN u).complete = false ∨ (s.acqN u).st = .triggered → exec (.acqHeaderWritten u) s = .next s) ∧
  (∀ (u : Fin 8) (s : State), (s.acqN u).st = .rearm → (s.acqN u).complete = false →
    Completes (.acqRearm u) s fun t => Only [.acq] s t ∧ t.acqN u = match s.nextEmpty u with
      | some i => (s.acqN u).fill i s.now
      | none => { s.acqN u with st := .hold }) ∧
  (∀ (u : Fin 8) (s : State), (s.acqN u).st ≠ .rearm ∨ (s.acqN u).complete = true → exec (.acqRearm u) s = .next s) ∧
  (∀ (u : Fin 8) (v : Word) (s : State), vget (s.acqN u).segs (v.toNat % 256) .empty = .full → (s.acqN u).st ≠ .hold →
    Completes (.acqSegFree u v) s fun t =>
      t.acqN u = { s.acqN u with segs := vset (s.acqN u).segs (v.toNat % 256) .empty } ∧ Only [.acq] s t) ∧
  (∀ (u : Fin 8) (v : Word) (s : State), vget (s.acqN u).segs (v.toNat % 256) .empty = .full → (s.acqN u).st = .hold →
    v.toNat % 256 < s.segCount u →
    Completes (.acqSegFree u v) s fun t => (t.acqN u).st = .armed ∧ Only [.acq] s t) ∧
  (∀ (u : Fin 8) (v : Word) (s : State), vget (s.acqN u).segs (v.toNat % 256) .empty ≠ .full → exec (.acqSegFree u v) s = .next s) ∧
  (∀ s : State, Completes .extTrigEdge s fun t => UnitsTriggered (maskOf 8 fun u => s.lvb .acqTrig u 0 6) s.tripClock s t)

/-! ### Data movement -/

/-- DMA_START, DMA_DESC_TAIL_WRITE, DMA_RUN_START, DMA_FLUSH_TIMEOUT, DMA_BURST, DMA_ABORT, DMA_ABORT_COMPLETE and DMA_HOST_ERROR (R410 to
R415, Table ACQ-8 to Table ACQ-12): a started channel takes the descriptor at its head, and one that fails a check gets its status and is
passed over; runs begin at HIGH, and a queue that has held data below it for FLUSH is drained; DRAM serves the channels by PRIO; a burst moves its bytes from source to destination and no others, out of a source queue or into the
transmit queue where the channel serves one; the last one of a transfer writes its status and moves the head on; an abort and a failed
host access, the fetch of a descriptor among them, write theirs and stop the channel. When a started channel is RUN and when WAIT, where the head stands
after ERROR, in which order DRAM serves channels of one PRIO, when a burst is in progress, and that a failed fetch leaves RESIDUE open, is the
model's reading (log 49). Descriptors stand in host memory or in DRAM. -/
def Obligations.DmaChannelsMoveWhatTheyAreTold : Prop :=
  (∀ (n : Fin 32) (desc : Bytes) (s : State), s.storesCanonical → (s.dmaN n).st = .idle ∨ (s.dmaN n).st = .error →
    s.dmaRingDram n = false → (s.dmaN n).head ≠ s.dmaTail n →
    Completes (.dmaStart n desc) s fun t =>
      match dmaRefusal (s.dmaQueue n) (dmaDescOf desc) with
      | some (st, d) => (t.dmaN n).head = ((s.dmaN n).head + 1) % s.dmaDepth n ∧ (t.dmaN n).desc = none ∧ (t.dmaN n).code = st.code
          ∧ (t.dmaN n).st = .wait ∧ HostTakes ((s.reg .dmaDescBase n).toNat + 32 * (s.dmaN n).head + 24)
              (leBytes 8 (dmaStatus st d (dmaDescOf desc).len false)) s t
      | none => (t.dmaN n).head = (s.dmaN n).head ∧ (t.dmaN n).desc = some (dmaDescOf desc) ∧ (t.dmaN n).moved = 0
          ∧ (t.dmaN n).st = (if s.dmaQueue n = 0 then .run else .wait) ∧ Only [.dma] s t) ∧
  (∀ (n : Fin 32) (desc : Bytes) (s : State), (s.dmaN n).st = .idle ∨ (s.dmaN n).st = .error → (s.dmaN n).head = s.dmaTail n →
    Completes (.dmaStart n desc) s fun t => t.dmaN n = { s.dmaN n with
      st := .wait, desc := none, moved := 0, paced := false, flush := false, lastBeat := false } ∧ Only [.dma] s t) ∧
  (∀ (n : Fin 32) (desc : Bytes) (s : State), s.storesCanonical → (s.dmaN n).st = .aborting →
    Completes (.dmaStart n desc) s fun t => t.dmaN n = { s.dmaN n with code := Status.busyStopping.code }
      ∧ (t.reg .glbBusyStopCnt).toNat = min ((s.reg .glbBusyStopCnt).toNat + 1) 0xFFFFFFFF) ∧
  (∀ (n : Fin 32) (desc : Bytes) (s : State), (s.dmaN n).st = .run ∨ (s.dmaN n).st = .wait → exec (.dmaStart n desc) s = .next s) ∧
  (∀ (n : Fin 32) (v : Word) (s : State), s.storesCanonical → v.toNat < s.dmaDepth n →
    Completes (.dmaDescTailWrite n v) s (SetsReg .dmaDescTail n 0 (BitVec.ofNat 64 v.toNat) s)) ∧
  (∀ (n : Fin 32) (v : Word) (s : State), s.storesCanonical → s.dmaDepth n ≤ v.toNat →
    Completes (.dmaDescTailWrite n v) s fun t => CountsAccess 3 true (BitVec.ofNat 22 (regAddr .dmaDescTail n 0)) s t ∧ Only [.regs] s t) ∧
  (∀ (n : Fin 32) (s : State), (s.dmaN n).st = .run ∨ (s.dmaN n).st = .wait → s.dmaQueue n ≠ 0 → (s.dmaN n).paced = false →
    Completes (.dmaRunStart n) s fun t =>
      if s.dmaHigh n ≤ s.dmaFill n then
        t.dmaN n = { s.dmaN n with paced := true, st := if (s.dmaN n).desc.isSome then .run else .wait } ∧ Only [.dma] s t
      else t = s) ∧
  (∀ (n : Fin 32) (s : State), (s.dmaN n).st = .run ∨ (s.dmaN n).st = .wait → s.lv .dmaChCfg n 0 7 4 ≠ 0 → s.dmaQueue n ≠ 0 →
    s.dmaQueue n ≠ 3 → (s.dmaN n).flush = false →
    Completes (.dmaFlushTimeout n) s fun t =>
      if 0 < s.dmaFill n ∧ s.dmaFill n < s.dmaHigh n then
        t.dmaN n = { s.dmaN n with paced := true, flush := true, st := if (s.dmaN n).desc.isSome then .run else .wait }
          ∧ s.flushAt n ≤ t.now ∧ Only [.now, .nt, .dma] s t
      else t = s) ∧
  (∀ (n : Fin 32) (hostData nextDesc : Bytes) (d : DmaDesc) (s : State), s.storesCanonical → (s.dmaN n).desc = some d → s.dmaQueue n = 0 →
    s.dramGrants n d = true → (s.dmaN n).st = .run → (s.dmaN n).moved + s.burstLen n d < d.len →
    Completes (.dmaBurst n hostData nextDesc) s fun t =>
      t.dmaN n = { s.dmaN n with moved := (s.dmaN n).moved + s.burstLen n d, turn := s.dmaTurn, burstOut := false }
        ∧ (t.reg .dmaBytes n).toNat = min ((s.reg .dmaBytes n).toNat + s.burstLen n d) 0xFFFFFFFF
        ∧ if d.dstDram then
            t.dram = memWrite s.dram (d.dst + (s.dmaN n).moved) (s.burstData n d (s.burstLen n d) hostData) ∧ HostSame s t
          else t.dram = s.dram ∧ HostTakes (d.dst + (s.dmaN n).moved) (s.burstData n d (s.burstLen n d) hostData) s t) ∧
  (∀ (n : Fin 32) (hostData nextDesc : Bytes) (d : DmaDesc) (s : State), s.storesCanonical → (s.dmaN n).desc = some d → s.dmaQueue n = 0 →
    s.dramGrants n d = true → (s.dmaN n).st = .run → d.len ≤ (s.dmaN n).moved + s.burstLen n d → d.cyclic = false → d.dstDram = true → s.dmaRingDram n = false →
    ((s.dmaN n).head + 1) % s.dmaDepth n = s.dmaTail n →
    Completes (.dmaBurst n hostData nextDesc) s fun t =>
      t.dram = memWrite s.dram (d.dst + (s.dmaN n).moved) (s.burstData n d (s.burstLen n d) hostData)
        ∧ HostTakes ((s.reg .dmaDescBase n).toNat + 32 * (s.dmaN n).head + 24) (leBytes 8 (dmaStatus .ok 0 0 false)) s t
        ∧ (t.dmaN n).head = s.dmaTail n ∧ (t.dmaN n).desc = none ∧ (t.dmaN n).st = .wait ∧ (t.dmaN n).code = Status.ok.code) ∧
  (∀ (n : Fin 32) (hostData nextDesc : Bytes) (d : DmaDesc) (s : State), (s.dmaN n).desc = some d →
    s.mayBurst n d = false ∨ s.dramGrants n d = false ∧ (s.dmaN n).st ≠ .aborting → exec (.dmaBurst n hostData nextDesc) s = .next s) ∧
  (∀ (n : Fin 32) (d : DmaDesc) (s : State), s.storesCanonical → (s.dmaN n).desc = some d → s.dmaRingDram n = false →
    (s.dmaN n).st = .wait ∨ (s.dmaN n).st = .run ∧ s.bursting n = false →
    Completes (.dmaAbort n) s fun t =>
      (t.dmaN n).st = .idle ∧ (t.dmaN n).desc = none ∧ (t.dmaN n).head = ((s.dmaN n).head + 1) % s.dmaDepth n
        ∧ t.eth = (if s.dmaQueue n = 3 then { s.eth with txPart := [] } else s.eth)
        ∧ (t.dmaN n).code = Status.aborted.code ∧ HostTakes ((s.reg .dmaDescBase n).toNat + 32 * (s.dmaN n).head + 24)
            (leBytes 8 (dmaStatus .aborted 0 (d.len - (s.dmaN n).moved) false)) s t) ∧
  (∀ (n : Fin 32) (s : State), (s.dmaN n).st = .run → s.bursting n = true →
    Completes (.dmaAbort n) s fun t => t.dmaN n = { s.dmaN n with st := .aborting, abortAt := s.now, burstOut := false } ∧ Only [.dma] s t) ∧
  (∀ (n : Fin 32) (s : State), (s.dmaN n).st ≠ .run → (s.dmaN n).st ≠ .wait → exec (.dmaAbort n) s = .next s) ∧
  (∀ (n : Fin 32) (d : DmaDesc) (s : State), s.storesCanonical → (s.dmaN n).desc = some d → s.dmaRingDram n = false →
    (s.dmaN n).st = .aborting →
    Completes (.dmaAbortComplete n) s fun t =>
      (t.dmaN n).st = .idle ∧ (t.dmaN n).desc = none ∧ (t.dmaN n).code = Status.aborted.code
        ∧ HostTakes ((s.reg .dmaDescBase n).toNat + 32 * (s.dmaN n).head + 24)
            (leBytes 8 (dmaStatus .aborted 0 (d.len - (s.dmaN n).moved) false)) s t) ∧
  (∀ (n : Fin 32) (s : State), (s.dmaN n).st ≠ .aborting → exec (.dmaAbortComplete n) s = .next s) ∧
  (∀ (n : Fin 32) (cause : Fin 3) (lastBeat last : Bool) (d : DmaDesc) (s : State), s.storesCanonical → (s.dmaN n).desc = some d →
    (s.dmaN n).st = .run ∨ (s.dmaN n).st = .aborting → s.dmaRingDram n = false →
    last = (lastBeat && decide (d.len ≤ (s.dmaN n).moved + s.burstLen n d)) →
    Completes (.dmaHostError n cause lastBeat) s fun t =>
      (t.dmaN n).st = .error ∧ (t.dmaN n).head = (s.dmaN n).head ∧ (t.dmaN n).desc = none ∧ (t.dmaN n).code = Status.error.code
        ∧ (t.dmaN n).lastBeat = last ∧ HostTakes ((s.reg .dmaDescBase n).toNat + 32 * (s.dmaN n).head + 24)
            (leBytes 8 (dmaStatus .error (cause.val + 1) (if last then 0 else d.len - (s.dmaN n).moved) last)) s t) ∧
  (∀ (n : Fin 32) (cause : Fin 3) (lastBeat : Bool) (s : State), s.storesCanonical → (s.dmaN n).desc = none →
    (s.dmaN n).st = .run ∨ (s.dmaN n).st = .wait → (s.dmaN n).head ≠ s.dmaTail n → s.dmaRingDram n = false →
    Completes (.dmaHostError n cause lastBeat) s fun t =>
      (t.dmaN n).st = .error ∧ (t.dmaN n).head = (s.dmaN n).head ∧ (t.dmaN n).code = Status.error.code
        ∧ t.free = s.free + 1 ∧ HostTakes ((s.reg .dmaDescBase n).toNat + 32 * (s.dmaN n).head + 24)
            (leBytes 8 (dmaStatus .error (cause.val + 1) (Config.freeNat s.free % 2 ^ 32) false)) s t) ∧
  (∀ (n : Fin 32) (cause : Fin 3) (lastBeat : Bool) (s : State), (s.dmaN n).desc = none →
    (s.dmaN n).st ≠ .run ∧ (s.dmaN n).st ≠ .wait ∨ (s.dmaN n).head = s.dmaTail n ∨ s.dmaRingDram n = true →
    exec (.dmaHostError n cause lastBeat) s = .next s) ∧
  (∀ (n : Fin 32) (desc b : Bytes) (s : State), s.storesCanonical → (s.dmaN n).st = .idle ∨ (s.dmaN n).st = .error →
    s.dmaRingDram n = true → (s.dmaN n).head ≠ s.dmaTail n →
    memRead s.dram ((s.reg .dmaDescBase n).toNat + 32 * (s.dmaN n).head) 32 = b →
    Completes (.dmaStart n desc) s fun t =>
      match dmaRefusal (s.dmaQueue n) (dmaDescOf b) with
      | some (st, d) => (t.dmaN n).head = ((s.dmaN n).head + 1) % s.dmaDepth n ∧ (t.dmaN n).desc = none ∧ (t.dmaN n).code = st.code
          ∧ t.dram = memWrite s.dram ((s.reg .dmaDescBase n).toNat + 32 * (s.dmaN n).head + 24)
              (leBytes 8 (dmaStatus st d (dmaDescOf b).len false))
      | none => (t.dmaN n).head = (s.dmaN n).head ∧ (t.dmaN n).desc = some (dmaDescOf b) ∧ (t.dmaN n).moved = 0
          ∧ (t.dmaN n).st = (if s.dmaQueue n = 0 then .run else .wait) ∧ t.dram = s.dram ∧ Only [.free, .regs, .dma] s t) ∧
  (∀ (n : Fin 32) (hostData nextDesc : Bytes) (d : DmaDesc) (q : Nat) (s : State), s.storesCanonical → (s.dmaN n).desc = some d →
    s.dmaQueue n = q → q = 1 ∨ q = 2 ∨ q = 4 → s.mayBurst n d = true → s.dramGrants n d = true → (s.dmaN n).moved + s.burstLen n d < d.len →
    Completes (.dmaBurst n hostData nextDesc) s fun t =>
      (t.dmaN n).moved = (s.dmaN n).moved + s.burstLen n d ∧ t.queueBytes q = (s.queueBytes q).drop (s.burstLen n d)
        ∧ if d.dstDram then
            t.dram = memWrite s.dram (d.dst + (s.dmaN n).moved) (s.burstData n d (s.burstLen n d) hostData) ∧ HostSame s t
          else t.dram = s.dram ∧ HostTakes (d.dst + (s.dmaN n).moved) (s.burstData n d (s.burstLen n d) hostData) s t) ∧
  (∀ (n : Fin 32) (hostData nextDesc : Bytes) (d : DmaDesc) (s : State), (s.dmaN n).desc = some d → s.dmaQueue n = 3 →
    s.mayBurst n d = true → s.dramGrants n d = true → (s.dmaN n).moved + s.burstLen n d < d.len →
    Completes (.dmaBurst n hostData nextDesc) s fun t =>
      (t.dmaN n).moved = (s.dmaN n).moved + s.burstLen n d ∧ t.dram = s.dram ∧ t.host = s.host
        ∧ t.eth = { s.eth with txPart := s.eth.txPart ++ s.burstData n d (s.burstLen n d) hostData }) ∧
  (∀ (n : Fin 32) (hostData nextDesc : Bytes) (d : DmaDesc) (s : State), (s.dmaN n).desc = some d → s.dmaQueue n = 3 →
    s.mayBurst n d = true → s.dramGrants n d = true → (s.dmaN n).st = .run → d.len ≤ (s.dmaN n).moved + s.burstLen n d →
    Completes (.dmaBurst n hostData nextDesc) s fun t =>
      t.eth = { s.eth with
        txq := s.eth.txq ++ [s.eth.txPart ++ s.burstData n d (s.burstLen n d) hostData], txPart := [] }) ∧
  (∀ (n : Fin 32) (d : DmaDesc) (s : State), (s.dmaN n).desc = some d → s.dmaRingDram n = true →
    (s.dmaN n).st = .wait ∨ (s.dmaN n).st = .run ∧ s.bursting n = false →
    Completes (.dmaAbort n) s fun t =>
      (t.dmaN n).st = .idle ∧ (t.dmaN n).desc = none ∧ (t.dmaN n).head = ((s.dmaN n).head + 1) % s.dmaDepth n
        ∧ (t.dmaN n).code = Status.aborted.code
        ∧ t.dram = memWrite s.dram ((s.reg .dmaDescBase n).toNat + 32 * (s.dmaN n).head + 24)
            (leBytes 8 (dmaStatus .aborted 0 (d.len - (s.dmaN n).moved) false)))

/-! ### Lichen pairs -/

/-- HB_PULSE, ROLE_IN_PULSE and ARB_LOST (R422 to R424, R443, Table TWN-1): each microsecond the pulse says what the module is; two pulses
of a new width change the role, an invalid one breaks the run, and a silent arbiter leaves the role as it is; a module that becomes ACTIVE
while NOT_READY leaves ARMED and RUNNING. OWN_N_CHANGE, HALT_HOLD_EXPIRY, ROLE_SWAP_REQUEST and ROLE_SWAP_CHECK (R425, R441, R444): a low
OWN_N gives the lands; its rise, or the end of the hold, turns a held module's outer channels off; a planned exchange asks at the first
zero after its instant, and its record says whether the role has changed. -/
def Obligations.RolesAndOwnership : Prop :=
  (∀ s : State, Completes .hbPulse s fun t => s.twn.hbAt + 32000 ≤ t.now
    ∧ t.twn = { s.twn with hbAt := t.now, hbWidth := if t.beats then s.hbCode else 0 }) ∧
  (∀ (w : Nat) (s : State), rolePulse w = none →
    Completes (.roleInPulse w) s fun t => t.twn = { s.twn with roleCand := none } ∧ Only [.twn] s t) ∧
  (∀ (w : Nat) (s : State), rolePulse w = some s.twn.roleIn →
    Completes (.roleInPulse w) s fun t => t.twn = { s.twn with pulseAt := s.now, arbLost := false, roleCand := none } ∧ Only [.twn] s t) ∧
  (∀ (w : Nat) (r : Bool) (s : State), rolePulse w = some r → r ≠ s.twn.roleIn → s.twn.roleCand ≠ some r →
    Completes (.roleInPulse w) s fun t => t.twn = { s.twn with pulseAt := s.now, arbLost := false, roleCand := some r } ∧ Only [.twn] s t) ∧
  (∀ (w : Nat) (r : Bool) (s : State), s.storesCanonical → rolePulse w = some r → r ≠ s.twn.roleIn → s.twn.roleCand = some r →
    s.twn.conflict = false → s.twn.role ≠ r →
    Completes (.roleInPulse w) s fun t => t.twn.roleIn = r ∧ t.twn.role = r ∧ t.twn.roleCand = none
      ∧ (t.reg .twnSwitchCnt).toNat = min ((s.reg .twnSwitchCnt).toNat + 1) 0xFFFFFFFF) ∧
  (∀ (w : Nat) (s : State), rolePulse w = some true → s.twn.roleIn = false → s.twn.roleCand = some true → s.twn.conflict = false →
    s.twn.role = false → s.twn.ready = false → s.pair = true → s.ops.st = .armed ∨ s.ops.st = .running →
    Completes (.roleInPulse w) s fun t => t.ops.st = .stopping ∧ t.ops.cause = 0x11
      ∧ (∀ n < 192, isOuter n = true → (t.chan n).gc = false) ∧ ∀ e < 8, (t.engN e).executing = false) ∧
  (∀ s : State, s.pair = true →
    Completes .arbLost s fun t => s.twn.pulseAt + 160000 ≤ t.now ∧ t.twn = { s.twn with arbLost := true, roleCand := none }) ∧
  (∀ s : State, s.pair = false → exec .arbLost s = .next s) ∧
  (∀ s : State, Completes (.ownNChange false) s fun t => t.twn = { s.twn with own := true } ∧ Only [.twn] s t
    ∧ ∀ n : Nat, t.gcDriven n = if s.ops.st ≠ .off ∧ s.arb.strapped = false ∧ s.ops.st ≠ .selftest ∧ s.linkMode = false
        ∧ s.twn.silent = false then some (s.chan n).gc else none) ∧
  (∀ s : State, s.twn.haltHold = none → Completes (.ownNChange true) s fun t => t.twn = { s.twn with own := false } ∧ Only [.twn] s t
    ∧ (∀ n : Nat, t.gcDriven n = none) ∧ t.clkLandsDriven = (s.linkMode && s.landsPowered)) ∧
  (∀ (t0 : Nat) (s : State), s.twn.haltHold = some t0 →
    Completes (.ownNChange true) s fun t => t.twn = { s.twn with own := false, haltHold := none }
      ∧ ∀ n < 192, isOuter n = true → (t.chan n).gc = false) ∧
  (∀ (t0 : Nat) (s : State), s.twn.haltHold = some t0 →
    Completes .haltHoldExpiry s fun t => t0 ≤ t.now ∧ t.twn = { s.twn with haltHold := none }
      ∧ ∀ n < 192, isOuter n = true → (t.chan n).gc = false) ∧
  (∀ s : State, s.twn.haltHold = none → exec .haltHoldExpiry s = .next s) ∧
  (∀ (d : DueSlot) (t0 : Nat) (rest : List (DueSlot × Nat)) (s : State), s.twn.swapSpore = (d, t0) :: rest → s.twn.swapReq = false →
    s.twn.role = true → (s.tb (s.leadTb s.refEng)).run = .running →
    Completes .roleSwapRequest s fun t =>
      if t0 ≤ (s.tb (s.leadTb s.refEng)).zeroAt then
        t.twn = { s.twn with swapReq := true, swapSpore := (d, s.now + 320000) :: rest } ∧ Only [.twn] s t
      else t = s) ∧
  (∀ s : State, s.twn.swapSpore = [] → exec .roleSwapRequest s = .next s ∧ exec .roleSwapCheck s = .next s) ∧
  (∀ (d : DueSlot) (t0 : Nat) (rest : List (DueSlot × Nat)) (s : State), s.twn.swapSpore = (d, t0) :: rest → s.nt.recs.length < 64 →
    s.twn.role = true → s.twn.swapReq = true →
    Completes .roleSwapCheck s fun t => t0 ≤ t.now ∧ t.twn.swapReq = false ∧ t.twn.swapSpore = rest ∧ t.twn.role = true
      ∧ SporeRecorded d .error 7 s t) ∧
  (∀ (d : DueSlot) (t0 : Nat) (s : State), s.twn.swapSpore = [(d, t0)] → s.nt.recs.length < 64 → s.twn.role = false →
    Completes .roleSwapCheck s fun t => t0 ≤ t.now ∧ t.twn = { s.twn with swapReq := false, swapSpore := [] }
      ∧ SporeRecorded d .ok 0 s t)

/-- PERIOD_FRAME_SEND, PERIOD_FRAME_RECEIVE, TWIN_FRAME_DEADLINE, ITEM_FRAME_RECEIVE, RHIZOME_TRAINING and RHIZOME_BLOCK_LOCK_LOSS (R430
to R433, R439, R443): the module's frame leaves, and a standby that is not READY begins to resynchronise; a frame that fails its CRC is
counted and has no other effect; a good one of this period that is in time is kept, one that is late or of another period tells its flags and
its ITEM_ACK alone, and its absence leaves a standby NOT_READY at once and the active module alone from the next boundary on; a standby takes items in order; the link carries
its latency, and its loss ends a TWN_RESYNC that waits. The layout of an item and the place of RESYNC_REQ are the model's choice (log 33); that
the frame is missing when TWIN_FRAME_DEADLINE comes without it is its reading (log 50). -/
def Obligations.FramesCrossTheRhizome : Prop :=
  (∀ s : State, s.pair = true → s.twn.link = .up → (s.tb (s.leadTb s.refEng)).run = .running → s.ops.st ≠ .off →
    s.twn.frameSent = false →
    Completes .periodFrameSend s fun t => t.twn.frameSent = true ∧ (s.engN s.refEng).atB + 3200 ≤ t.now
      ∧ (s.twn.role = true ∨ s.twn.ready = true ∨ s.twn.resync = true → s.periodFrame ∈ t.twn.sent)
      ∧ (s.twn.role = false → s.twn.ready = false → t.twn.resync = true
        ∧ (s.twn.resync = false → ∃ f ∈ t.twn.sent, pf f 2 2 = 133 ∧ pb f 128 = 1))) ∧
  (∀ s : State, s.pair = false ∨ s.twn.link ≠ .up ∨ s.twn.frameSent = true → exec .periodFrameSend s = .next s) ∧
  (∀ (f : Bytes) (s : State), s.pair = false ∨ s.twn.link ≠ .up → exec (.periodFrameReceive f) s = .next s) ∧
  (∀ (f : Bytes) (s : State), s.storesCanonical → s.pair = true → s.twn.link = .up → crc32cOk f = false →
    Completes (.periodFrameReceive f) s (Counts .twnFrameErrCnt 0 s)) ∧
  (∀ (f : Bytes) (s : State), s.pair = true → s.twn.link = .up → crc32cOk f = true → pb f 0 = 1 → 132 ≤ f.length →
    pf f 2 2 = f.length →
    Completes (.periodFrameReceive f) s fun t =>
      (t.twn.twin = if s.frameInTime (twinFrameOf f) then twinFrameOf f
        else { s.twn.twin with flags := (twinFrameOf f).flags, ack := (twinFrameOf f).ack })
      ∧ t.twn.gotFrame = (s.twn.gotFrame || s.frameInTime (twinFrameOf f))
      ∧ t.twn.twinLate = (s.twn.twinLate && !s.frameInTime (twinFrameOf f))
      ∧ (s.twn.role = true → (pb f 1).testBit 1 = false → t.twn.alone = true)) ∧
  (∀ s : State, s.pair = true → (s.tb (s.leadTb s.refEng)).run = .running → s.twn.gotFrame = false →
    Completes .twinFrameDeadline s fun t => t.twn.twinLate = true ∧ t.twn.alone = s.twn.alone ∧ t.twn.role = s.twn.role
      ∧ (s.engN s.refEng).atB + s.tc s.refEng - 64000 ≤ t.now ∧ (s.twn.role = false → t.twn.ready = false)) ∧
  (∀ s : State, s.pair = true → s.twn.gotFrame = false → s.twinMissing.twn.alone = true ∧ s.twinMissing.twn.role = s.twn.role) ∧
  (∀ s : State, s.pair = false ∨ s.twn.gotFrame = true → s.twinMissing = s ∧ exec .twinFrameDeadline s = .next s) ∧
  (∀ (f : Bytes) (s : State), s.pair = false ∨ s.twn.link ≠ .up ∨ s.twn.role = true ∧ crc32cOk f = true →
    exec (.itemFrameReceive f) s = .next s) ∧
  (∀ (f : Bytes) (s : State), s.storesCanonical → s.pair = true → s.twn.link = .up → crc32cOk f = false →
    Completes (.itemFrameReceive f) s (Counts .twnFrameErrCnt 0 s)) ∧
  (∀ (f : Bytes) (s : State), s.pair = true → s.twn.link = .up → s.twn.role = false → crc32cOk f = true → s.twn.resync = false →
    (itemOf f).no ≠ s.twn.rxItem + 1 → exec (.itemFrameReceive f) s = .next s) ∧
  (∀ (f : Bytes) (i : Item) (s : State), s.pair = true → s.twn.link = .up → s.twn.role = false → crc32cOk f = true → pb f 0 = 2 →
    itemOf f = i → i.no = s.twn.rxItem + 1 →
    Completes (.itemFrameReceive f) s fun t =>
      ∃ u : State, u.twn = { s.twn with rxItem := i.no } ∧ Only [.twn, .sec, .regs] s u
        ∧ (i.src.seq ≠ 0 → (u.rep i.src.ring).lastSeq = dmax (s.rep i.src.ring).lastSeq i.src.seq)
        ∧ t = (if s.takesItem i.opcode then u.applyItem i else u).modMgt fun m => { m with tail := [] }) ∧
  (∀ (f : Bytes) (s : State), s.pair = true → s.twn.link = .up → s.twn.role = false → crc32cOk f = true → pb f 0 = 2 →
    (itemOf f).no = s.twn.rxItem + 1 → (itemOf f).opcode = chunkItem →
    Completes (.itemFrameReceive f) s fun t => t.twn.rxItem = (itemOf f).no ∧ t.twn.itemBuf = s.twn.itemBuf ++ (itemOf f).payload) ∧
  (∀ (ns : Nat) (s : State), s.twn.link ≠ .training → exec (.rhizomeTraining ns) s = .next s) ∧
  (∀ (ns : Nat) (s : State), s.storesCanonical → s.twn.link = .training →
    Completes (.rhizomeTraining ns) s fun t => t.twn = { s.twn with link := .up } ∧ t.reg .twnLat = BitVec.ofNat 64 (ns % 65536)
      ∧ OtherRegs .twnLat 0 0 s t ∧ Only [.twn, .regs] s t) ∧
  (∀ s : State, s.twn.link = .up → s.twn.resyncCmd = [] →
    Completes .rhizomeBlockLockLoss s fun t => t.twn = { s.twn with link := .training } ∧ Only [.twn] s t) ∧
  (∀ (x : Src × Nat) (s : State), s.storesCanonical → s.twn.link = .up → s.twn.resyncCmd = [x] →
    Completes .rhizomeBlockLockLoss s fun t => t.twn.link = .training ∧ t.twn.resyncCmd = [] ∧ Answered x.1 0x0501 .error 3 0 s t) ∧
  (∀ s : State, s.twn.link ≠ .up → exec .rhizomeBlockLockLoss s = .next s)

/-- TWN_RESYNC, TWN_RESYNC_TIMEOUT, RESYNC_FRAME_RECEIVE and RESYNC_COMPLETE (R445, R446, R448, Table TWN-6): a standby begins, an ACTIVE
module hands the command to its twin, and without a pair or a link it is refused; a frame that fails its CRC is counted; the others load image, configuration, slots, grants,
replay state, operating state, period index and snapshot, and a configuration leaves the safety parameter set of an armed or running
standby as it is (R248); with digests that agree the standby is READY and the command ends OK, and one
that takes too long ends with an error. -/
def Obligations.StandbysResynchronise : Prop :=
  (∀ (c : Src) (d : Nat) (s : State), s.storesCanonical → s.admits c 0x0501 [] →
    s.pair = false ∧ d = 1 ∨ s.pair = true ∧ s.twn.role = true ∧ s.twn.link ≠ .up ∧ d = 3 →
    Completes (.twnResync c) s fun t => t.twn.resync = s.twn.resync ∧ t.twn.resyncCmd = s.twn.resyncCmd ∧ Answered c 0x0501 .error d 0 s t) ∧
  (∀ (c : Src) (s : State), s.admits c 0x0501 [] → s.pair = true → s.twn.role = true → s.twn.link = .up →
    Completes (.twnResync c) s fun t => t.twn.resyncCmd = s.twn.resyncCmd ++ [(c, s.now)] ∧ t.twn.itemNo = s.twn.itemNo + 1
      ∧ (∃ i ∈ t.twn.outItems ++ t.twn.sentItems, i.opcode = 0x0501 ∧ i.src = c ∧ i.no = s.twn.itemNo + 1) ∧ Only [.twn, .cmd, .mgt] s t) ∧
  (∀ (c : Src) (s : State), s.storesCanonical → s.admits c 0x0501 [] → s.pair = true → s.twn.role = false →
    Completes (.twnResync c) s fun t => t.twn.resyncCmd = s.twn.resyncCmd ++ [(c, s.now)] ∧ t.twn.resync = true ∧ t.twn.ready = false
      ∧ t.twn.resyncGot = 0 ∧ t.twn.snapGot = 0 ∧ t.twn.recs = [] ∧ Only [.twn, .regs, .cmd, .mgt] s t
      ∧ (t.reg .twnResyncCnt).toNat = min ((s.reg .twnResyncCnt).toNat + 1) 0xFFFFFFFF) ∧
  (∀ (x : Src × Nat) (s : State), s.storesCanonical → s.twn.resyncCmd = [x] →
    Completes .twnResyncTimeout s fun t => t.twn.resyncCmd = [] ∧ t.twn.resync = s.twn.resync ∧ x.2 + 320000000000 ≤ t.now
      ∧ Answered x.1 0x0501 .error 2 0 s t) ∧
  (∀ s : State, s.twn.resyncCmd = [] → exec .twnResyncTimeout s = .next s) ∧
  (∀ s : State, s.resyncReady = true → s.twn.resyncCmd = [] →
    Completes .resyncComplete s fun t => t.twn = { s.twn with ready := true, resync := false, digErr := false, twinLate := false, recs := [] }
      ∧ Only [.twn] s t) ∧
  (∀ (x : Src × Nat) (s : State), s.storesCanonical → s.resyncReady = true → s.twn.resyncCmd = [x] →
    Completes .resyncComplete s fun t => t.twn.ready = true ∧ t.twn.resync = false ∧ t.twn.resyncCmd = []
      ∧ Answered x.1 0x0501 .ok ((s.now - x.2) / 32000000) s.nt64 s t) ∧
  (∀ s : State, s.resyncReady = false → exec .resyncComplete s = .next s) ∧
  (∀ (x : ResyncItem) (s : State), s.pair = false ∨ s.twn.role = true ∨ s.twn.resync = false ∨ s.twn.link ≠ .up →
    exec (.resyncFrameReceive ⟨x, true⟩) s = .next s) ∧
  (∀ (x : ResyncItem) (s : State), s.pair = false ∨ s.twn.link ≠ .up → exec (.resyncFrameReceive ⟨x, false⟩) s = .next s) ∧
  (∀ (x : ResyncItem) (s : State), s.storesCanonical → s.pair = true → s.twn.link = .up →
    Completes (.resyncFrameReceive ⟨x, false⟩) s (Counts .twnFrameErrCnt 0 s)) ∧
  (∀ (e : Fin 8) (bytes : Bytes) (s : State), s.pair = true → s.twn.role = false → s.twn.resync = true → s.twn.link = .up →
    Completes (.resyncFrameReceive ⟨.image e bytes, true⟩) s fun t => Only [.stg] s t ∧
      match s.imageCheck bytes bytes.length with
      | .ok img => t.stg = { s.stg with images := vset s.stg.images e (some img) }
      | .error _ => t.stg = s.stg) ∧
  (∀ (regs : List (Nat × DWord)) (s : State), s.pair = true → s.twn.role = false → s.twn.resync = true → s.twn.link = .up →
    Completes (.resyncFrameReceive ⟨.config regs, true⟩) s fun t =>
      t.live = (if s.ops.st = .armed ∨ s.ops.st = .running then
          safSet.foldl (fun f r => regSet f r.1 r.2 0 (regGet s.live r.1 r.2)) (stageOf regs) else stageOf regs) ∧ t.twn.resyncGot = s.twn.resyncGot ||| 1
      ∧ t.stg.st = .clean) ∧
  (∀ (slot : BitVec 8) (action : Byte) (lateOk : Bool) (instant : DWord) (args : Bytes) (s : State), s.pair = true → s.twn.role = false →
    s.twn.resync = true → s.twn.link = .up →
    Completes (.resyncFrameReceive ⟨.spore slot action lateOk instant args, true⟩) s fun t => Only [.nt] s t ∧
      ∃ x : Spore, t.nt = { s.nt with slots := vset s.nt.slots slot.toNat (some x) } ∧ x.action = action.toNat ∧ x.lateOk = lateOk
        ∧ x.instant = instant ∧ x.args = args ∧ x.late = false) ∧
  (∀ (r : Fin 129) (plant : Bool) (anchor : BitVec 4) (p : Bytes) (s : State), s.pair = true → s.twn.role = false →
    s.twn.resync = true → s.twn.link = .up →
    Completes (.resyncFrameReceive ⟨.grant r plant anchor p, true⟩) s fun t => Only [.sec, .cmd, .regs] s t ∧
      (∃ g : PendGrant, t.sec.grants = s.sec.grants ++ [g] ∧ g.ring = r ∧ g.plant = plant ∧ g.grantor = anchor.toNat ∧ g.payload = p
        ∧ g.no = s.cmd.nextNo)
        ∧ t.rep r = if plant then s.rep r else { s.rep r with epoch := BitVec.ofNat 32 (pf p 4 4), floorUnset := false }) ∧
  (∀ (r : Fin 129) (seq : DWord) (s : State), s.pair = true → s.twn.role = false → s.twn.resync = true → s.twn.link = .up →
    Completes (.resyncFrameReceive ⟨.replay r seq, true⟩) s fun t => Only [.sec, .regs] s t
      ∧ t.rep r = { s.rep r with lastSeq := dmax (s.rep r).lastSeq seq, floorUnset := false }) ∧
  (∀ (code : BitVec 4) (s : State), s.pair = true → s.twn.role = false → s.twn.resync = true → s.twn.link = .up →
    code.toNat = s.ops.st.code →
    Completes (.resyncFrameReceive ⟨.opState code, true⟩) s fun t =>
      t.twn = { s.twn with resyncGot := s.twn.resyncGot ||| 2 } ∧ Only [.twn] s t) ∧
  (∀ s : State, s.pair = true → s.twn.role = false → s.twn.resync = true → s.twn.link = .up → s.ops.st = .idle →
    Completes (.resyncFrameReceive ⟨.opState 4, true⟩) s fun t => t.ops.st = .armed ∧ t.ops.cause = 0x10
      ∧ t.twn.resyncGot = s.twn.resyncGot ||| 2) ∧
  (∀ (e : Fin 8) (idx : DWord) (s : State), s.pair = true → s.twn.role = false → s.twn.resync = true → s.twn.link = .up →
    Completes (.resyncFrameReceive ⟨.periodIdx e idx, true⟩) s fun t =>
      t.engN e = (if s.executes e then s.engN e else { s.engN e with idx := idx })
        ∧ t.twn.resyncGot = (if e.val = s.refEng then s.twn.resyncGot ||| 4 else s.twn.resyncGot) ∧ Only [.eng, .twn] s t) ∧
  (∀ (e : Fin 8) (snap : EngineSnap) (s : State), s.pair = true → s.twn.role = false → s.twn.resync = true → s.twn.link = .up →
    (s.engN e).image ≠ none → s.twn.recs = [] →
    Completes (.resyncFrameReceive ⟨.snapshot e snap, true⟩) s fun t => (t.engN e).idx = snap.idx ∧ (t.engN e).signals = snap.signals
      ∧ (t.engN e).bst = snap.bst ∧ (t.engN e).bankB = snap.bankB ∧ (t.engN e).gfm = snap.gfm ∧ t.twn.snapGot.getLsbD e = true) ∧
  (∀ (e : Fin 8) (snap : EngineSnap) (s : State), (s.engN e).image = none →
    exec (.resyncFrameReceive ⟨.snapshot e snap, true⟩) s = .next s)

/-- ARBITER_HB_PULSE, ARBITER_HB_TIMEOUT, ARBITER_BBM_EXPIRY and ARBITER_SWAP_REQ (R428, R429, Table TWN-1): a valid pulse is taken on its
port, and a READY module becomes ACTIVE where none is; a silent ACTIVE module loses OWN_N and role and a READY one follows after the gap;
a request of the ACTIVE module exchanges the roles with a READY one, and no other. -/
def Obligations.TheArbiterGrantsOneModule : Prop :=
  (∀ (p : Fin 2) (w : Nat) (s : State), s.arb.strapped = true → s.mgt.vmgt = true → hbDecode w ≠ 0 →
    Completes (.arbiterHbPulse p w) s fun t => Only [.arb] s t ∧ t.arbPort p = { s.arbPort p with
      width := hbDecode w, lastAt := some s.now, failed := false, swapReq := decide (hbDecode w = 800) }) ∧
  (∀ (p : Fin 2) (w : Nat) (s : State), s.arb.strapped = true → s.mgt.vmgt = true → hbDecode w = 200 → s.arb.bbm = none →
    (s.arbPort 0).active = false → (s.arbPort 1).active = false → (s.arbPort (1 - p.val)).isReady = false →
    Completes (.arbiterHbPulse p w) s fun t => t.arb.bbm = some (p, s.now)) ∧
  (∀ (p : Fin 2) (w : Nat) (s : State), s.arb.strapped = false ∨ s.mgt.vmgt = false ∨ hbDecode w = 0 →
    exec (.arbiterHbPulse p w) s = .next s) ∧
  (∀ (p : Fin 2) (t0 : Nat) (s : State), s.arb.strapped = true → (s.arbPort p).lastAt = some t0 → (s.arbPort p).failed = false →
    (s.arbPort p).active = false →
    Completes (.arbiterHbTimeout p) s fun t => t.arb = { s.arb with
        ports := vset s.arb.ports p { s.arbPort p with failed := true, swapReq := false } }
      ∧ t0 + 3200 * s.lv .twnArbCfg 0 0 6 0 ≤ t.now) ∧
  (∀ (p : Fin 2) (t0 : Nat) (s : State), s.arb.strapped = true → (s.arbPort p).lastAt = some t0 → (s.arbPort p).failed = false →
    (s.arbPort p).active = true →
    Completes (.arbiterHbTimeout p) s fun t => (t.arbPort p).active = false ∧ (t.arbPort p).own = false ∧ (t.arbPort p).failed = true
      ∧ ((s.arbPort (1 - p.val)).isReady = true → t.arb.bbm = some (Fin.ofNat 2 (1 - p.val), t.now))) ∧
  (∀ (p : Fin 2) (s : State), s.arb.strapped = false ∨ (s.arbPort p).failed = true ∨ (s.arbPort p).lastAt = none →
    exec (.arbiterHbTimeout p) s = .next s) ∧
  (∀ (p : Fin 2) (t0 : Nat) (s : State), s.arb.bbm = some (p, t0) →
    Completes .arbiterBbmExpiry s fun t => t0 + 320 * s.lv .twnArbCfg 0 0 21 16 ≤ t.now
      ∧ if (s.arbPort p).failed then t.arbPort p = s.arbPort p
        else t.arbPort p = { s.arbPort p with active := true, own := true } ∧ t.arb.everActive = true ∧ t.arb.bbm = none) ∧
  (∀ s : State, s.arb.bbm = none → exec .arbiterBbmExpiry s = .next s) ∧
  (∀ (p : Fin 2) (s : State), s.arb.strapped = true → (s.arbPort p).active = true → (s.arbPort p).swapReq = true →
    (s.arbPort p).failed = false → s.arb.bbm = none →
    Completes (.arbiterSwapReq p) s fun t =>
      if (s.arbPort (1 - p.val)).isReady then
        t.arbPort p = { s.arbPort p with swapReq := false, active := false, own := false }
          ∧ t.arb.bbm = some (Fin.ofNat 2 (1 - p.val), s.now) ∧ Only [.arb] s t
      else t = s) ∧
  (∀ (p : Fin 2) (s : State), s.arb.strapped = false ∨ (s.arbPort p).active = false ∨ (s.arbPort p).swapReq = false →
    exec (.arbiterSwapReq p) s = .next s)

/-! ### The management port -/

/-- MCTP_PACKET and the five control messages (R452 to R454): a packet with a wrong PEC is counted and has no other effect, one for
another endpoint has none; packets are assembled in order, and a message that breaks off is discarded and counted; a Galuholt message goes
to its handler, one that comes while another is handled, or of an unknown KIND, is answered at once; the control messages are answered to
their sender, and nothing is while VMGT is absent. The places of the fields of a packet, the control messages among them, are presumed from
DSP0236 and DSP0237 (log 53). -/
def Obligations.ManagementMessagesAreAssembled : Prop :=
  (∀ (p : Bytes) (ok : Bool) (s : State), s.mctpMine p = false → exec (.mctpPacket p ok) s = .next s) ∧
  (∀ (p : Bytes) (s : State), s.storesCanonical → s.mctpMine p = true →
    Completes (.mctpPacket p false) s (Counts .mgtPecErrCnt 0 s)) ∧
  (∀ (p : Bytes) (s : State), pb p 4 % 16 ≠ 1 ∨ pb p 5 ≠ 0 ∧ (s.mgt.eid = 0 ∨ pb p 5 ≠ s.mgt.eid.toNat) →
    exec (.mctpPacket p true) s = .next s) ∧
  (∀ (p : Bytes) (s : State), s.storesCanonical → s.mctpTakes p → 64 < (p.drop 8).length →
    Completes (.mctpPacket p true) s fun t => t.mgt = { s.mgt with asm := none } ∧ Only [.mgt, .regs] s t
      ∧ (t.reg .mgtAsmErrCnt).toNat = min ((s.reg .mgtAsmErrCnt).toNat + 1) 0xFFFFFFFF) ∧
  (∀ (p : Bytes) (s : State), s.mctpTakes p → (p.drop 8).length ≤ 64 → (pb p 7).testBit 7 = true →
    (pb p 7).testBit 6 = true → s.mgt.asm = none → pb p 8 = 0x7F → beNat ((p.drop 9).take 4) = 0xD8E5 →
    Completes (.mctpPacket p true) s fun t => Only [.mgt] s t ∧ t.mgt =
      if s.mgtBusy = true ∨ mgtKinds.contains (pb p 13) = false then { s.mgt with
        sent := s.mctpOut (mctpFrom p) (mgtReply (pb p 13) (BitVec.ofNat 8 (pb p 14)) (if s.mgtBusy then 1 else 2) []) ++ s.mgt.sent }
      else { s.mgt with peer := mctpFrom p, inbox := s.mgt.inbox ++
        [{ kind := pb p 13, reqId := BitVec.ofNat 8 (pb p 14), body := (p.drop 21).take (pf p 17 2), peer := mctpFrom p }] }) ∧
  (∀ (p : Bytes) (s : State), s.mctpTakes p → 0 < (p.drop 8).length → (p.drop 8).length ≤ 64 → (pb p 7).testBit 7 = true →
    (pb p 7).testBit 6 = true → s.mgt.asm = none → pb p 8 = 0 →
    Completes (.mctpPacket p true) s fun t => Only [.mgt] s t ∧ t.mgt = { s.mgt with peer := { mctpFrom p with inst := pb p 9 % 32 } }) ∧
  (∀ (p : Bytes) (s : State), s.mctpTakes p → (p.drop 8).length ≤ 64 → (pb p 7).testBit 7 = true →
    (pb p 7).testBit 6 = false → s.mgt.asm = none →
    Completes (.mctpPacket p true) s fun t => Only [.mgt] s t ∧ t.mgt = { s.mgt with
      asm := some { peer := mctpFrom p, seq := nbits (pb p 7) 5 4, data := p.drop 8 } }) ∧
  (∀ (p : Bytes) (a : MctpAsm) (s : State), s.storesCanonical → s.mctpTakes p → (p.drop 8).length ≤ 64 →
    (pb p 7).testBit 7 = false → (pb p 7).testBit 6 = false → s.mgt.asm = some a → a.peer = mctpFrom p →
    Completes (.mctpPacket p true) s fun t =>
      if nbits (pb p 7) 5 4 = (a.seq + 1) % 4 ∧ (a.data ++ p.drop 8).length ≤ 8192 then
        t.mgt = { s.mgt with asm := some { a with seq := nbits (pb p 7) 5 4, data := a.data ++ p.drop 8 } } ∧ Only [.mgt] s t
      else t.mgt = { s.mgt with asm := none } ∧ (t.reg .mgtAsmErrCnt).toNat = min ((s.reg .mgtAsmErrCnt).toNat + 1) 0xFFFFFFFF) ∧
  (∀ (eid : Byte) (s : State), s.mgt.vmgt = true →
    Completes (.setEndpointId eid) s fun t => Only [.mgt] s t ∧
      if eid = 0 ∨ eid = 255 then
        t.mgt = { s.mgt with sent := s.mctpOut s.mgt.peer [0, BitVec.ofNat 8 s.mgt.peer.inst, 1, 2] ++ s.mgt.sent }
      else t.mgt.eid = eid
        ∧ t.mgt.sent = t.mctpOut s.mgt.peer [0, BitVec.ofNat 8 s.mgt.peer.inst, 1, 0, 0, eid, 0] ++ s.mgt.sent) ∧
  (∀ (m : Bytes) (c : Instr) (s : State), s.mgt.vmgt = true →
    (c, m) ∈ [(.getEndpointId, [2, 0, s.mgt.eid, 0, 0]), (.getMctpVersionSupport, [4, 0, 1, 0xF1, 0xF3, 0xFF, 0]),
      (.getMessageTypeSupport, [5, 0, 1, 0x7F]), (.getVendorDefinedMessageSupport, [6, 0, 0xFF, 1, 0, 0, 0xD8, 0xE5, 0, 0])] →
    Completes c s fun t => Only [.mgt] s t
      ∧ t.mgt = { s.mgt with sent := s.mctpOut s.mgt.peer ([0, BitVec.ofNat 8 s.mgt.peer.inst] ++ m) ++ s.mgt.sent }) ∧
  (∀ (eid : Byte) (s : State), s.mgt.vmgt = false → exec (.setEndpointId eid) s = .next s ∧ exec .getEndpointId s = .next s
    ∧ exec .getMctpVersionSupport s = .next s ∧ exec .getMessageTypeSupport s = .next s
    ∧ exec .getVendorDefinedMessageSupport s = .next s)

/-- GET_STATUS, GET_LOG, GET_SLOTS, PUT_BLOCK, GET_REPLAY, GET_IDENTITY and COMMAND (R455 to R458, Table MGT-2, Table MGT-3): each query
is answered with its body, or says why it is not; PUT_BLOCK writes its bytes into the recovery buffer and no others; a command that fails
a check is answered with its refusal, and an accepted one makes its SEQ the LAST_SEQ of ring 128 and waits for its row to act; none is
accepted on the way to IDLE of R443. Where the recovery buffer lies is the model's choice (log 52). -/
def Obligations.QueriesAndPortCommandsAreAnswered : Prop :=
  (∀ (q : Byte) (s : State), s.mgt.vmgt = true →
    Completes (.getStatus q) s fun t => Asked 1 q ((s.takeMsg 1 q).statusBody) [] s t
      ∧ (s.answers 1 q = true → t.mgt.notify = false)) ∧
  (∀ (q : Byte) (b : Bytes) (s : State), s.mgt.vmgt = true →
    Completes (.getLog q b) s (Asked 2 q ((s.logFrom (pf b 0 4) (min 16 (pb b 4))).flatMap LogRec.bytes) [.log] s)) ∧
  (∀ (q : Byte) (s : State), s.mgt.vmgt = true → Completes (.getSlots q) s (Asked 3 q s.slotsBody [] s)) ∧
  (∀ (q : Byte) (s : State), s.mgt.vmgt = true → Completes (.getReplay q) s (Asked 5 q s.replayBody [] s)) ∧
  (∀ (q : Byte) (b : Bytes) (s : State), s.mgt.vmgt = true →
    Completes (.getIdentity q b) s (Asked 6 q
      ((List.range (min 4096 (pf b 4 2))).map fun i => identityRecord s.sec.uid (pf b 0 4 + i)) [] s)) ∧
  (∀ (q : Byte) (b : Bytes) (s : State), s.storesCanonical → s.mgt.vmgt = true →
    Completes (.putBlock q b) s fun t => Asked 4 q [] [.dram] s t ∧ ∀ x, cellsRead memDefault t.dram x =
      if s.answers 4 q = true ∧ pf b 0 4 % 1024 = 0 ∧ b.length ≤ 1032 ∧ pf b 0 4 + (b.length - 8) ≤ 8388608
          ∧ recBase + pf b 0 4 ≤ x ∧ x < recBase + pf b 0 4 + (b.length - 8)
        then lget b (8 + (x - (recBase + pf b 0 4))) 0 else cellsRead memDefault s.dram x) ∧
  (∀ (q : Byte) (b : Bytes) (s : State), s.mgt.vmgt = false →
    exec (.getStatus q) s = .next s ∧ exec (.getLog q b) s = .next s ∧ exec (.getSlots q) s = .next s ∧ exec (.putBlock q b) s = .next s
      ∧ exec (.getReplay q) s = .next s ∧ exec (.getIdentity q b) s = .next s ∧ exec (.command q b) s = .next s) ∧
  (∀ (q : Byte) (b : Bytes) (s : State), s.ops.st = .stopping → s.ops.cause = 0x11 → exec (.command q b) s = .next s) ∧
  (∀ (q : Byte) (b : Bytes) (s : State), s.mgt.vmgt = true → s.ops.st ≠ .stopping ∨ s.ops.cause ≠ 0x11 → (s.takeMsg 0x10 q).mgtBusy = true →
    Completes (.command q b) s fun t => t.mgt.cmd = s.mgt.cmd ∧ Only [.mgt] s t
      ∧ t.mgt.sent = s.mctpOut (s.msgPeer 0x10 q) (mgtReply 0x10 q 1 []) ++ s.mgt.sent) ∧
  (∀ (q : Byte) (b d p sig : Bytes) (s : State), s.storesCanonical → s.mgt.vmgt = true → (s.takeMsg 0x10 q).mgtBusy = false →
    s.pair = false → mgtParts b = (d, p, sig) → s.ops.st ≠ .halted → s.ops.st ≠ .stopping ∨ s.ops.cause ≠ 0x11 →
    Completes (.command q b) s fun t => HostSame s t ∧
      match s.mgtRefusal b with
      | some (st, x) => t.sec = s.sec ∧ t.mgt.cmd = none ∧ ∃ tail, t.mgt.sent = s.mctpOut (s.msgPeer 0x10 q)
          (mgtReply 0x10 q 0 (cqEntry (mgtSrc d) (pf d 0 2) st x 0 0 true ++ tail)) ++ s.mgt.sent
      | none => t.sec.replay = vset s.sec.replay 128 (s.mgtReplay (pf d 0 2) (mgtSrc d).seq p) ∧ t.mgt.sent = s.mgt.sent
          ∧ t.mgt.cmd = some { reqId := q, peer := s.msgPeer 0x10 q, cmd := { src := mgtSrc d, opcode := pf d 0 2, payload := p, at_ := s.now } })

/-! ### Completion -/

/-- Commands with more than one outcome, each where the spec lets it act: what it then does, under conditions on the state and the operands
alone. LOAD_POINT, TIMEBASE_FIRST_ZERO (R25, R182), ENGINE_START, PUBLISH, GRAPH_COMPLETE, MBOX_OUT_CAPTURE (R31, R94, R101),
FRD_GRAPH_LOAD (R75), STG_SAVE, STG_RECOVER, CONFIG_BLOCK_WRITE_COMPLETE (R373, R458), the DMA channel's commands (R410 to R415),
IMG_FW_LOAD (R389), VERIFY (R337), GRANT_UNWRAP (R350), ANCHOR_INSTALL (R344), ITEM_FRAME_RECEIVE (R432), ROLE_SWAP_REQUEST (R444),
ARBITER_BBM_EXPIRY, ARBITER_SWAP_REQ (R428, R429), PTM_RECEIVE (R305), SEQUENCE_TRIGGER, URGENT_REQUEST (R153 to R155), GDL_OST_START
(R207), GDL_TRAIN (R211), REFERENCE_COMPARISON (Table CLK-3) and COMMAND of the management port (R456). The states of a DMA channel between
bursts are the model's reading (log 49), and the layout of an item its choice (log 33). -/
def Obligations.CommandsActWhereTheyMay : Prop :=
  (∀ (t : Fin 16) (half : Bool) (s : State), s.ctlRuns = true → (s.tb t).run = .running → (s.nextLoad t).2 = half →
    Completes (.loadPoint t half) s fun u =>
      (s.nextLoad t).1 ≤ u.now ∧ ∀ e < 8, (u.engN e).idx = (s.engN e).idx + (if s.leadTb e = t then 1 else 0)) ∧
  (∀ (t : Fin 16) (at_ : Nat) (nt : Option DWord) (s : State), s.ctlRuns = true → (s.tb t).run = .waiting →
    s.firstZeroAt t = some (at_, nt) →
    Completes (.timebaseFirstZero t) s fun u =>
      at_ ≤ u.now ∧ ∀ e < 8, (u.engN e).idx = (s.engN e).idx + (if s.leadTb e = t then 1 else 0)) ∧
  (∀ (e : Fin 8) (img : Image) (s : State), (s.engN e).image = some img → s.executes e = true → (s.engN e).armReset = false →
    (s.engN e).started = false → s.sampleReady e = true →
    Completes (.engineStart e) s fun t =>
      s.startInstant e ≤ t.now ∧ (t.engN e).started = true ∧ (t.engN e).idx = (s.engN e).idx
        ∧ (∀ k ∈ (s.asSeen e).servedBy e, (t.zone k).pullSeen = false) ∧ t.pwm = s.pwm ∧ t.gdl = s.gdl) ∧
  (∀ (e : Fin 8) (s : State), s.executes e = true → (s.engN e).started = true → (s.engN e).published = false → s.missAt e = none →
    Completes (.publish e) s fun t =>
      (s.engN e).publishAt ≤ t.now ∧ t.engN e = { s.engN e with published := true }
        ∧ ∀ x, (s.engN e).shadow = [x] → (s.asSeen e).slotStack e x.slot < 16 → x.chan < 12 →
            t.chan (12 * (s.asSeen e).slotStack e x.slot + x.chan) =
              (let c := s.chan (12 * (s.asSeen e).slotStack e x.slot + x.chan)
               if x.rising then { c with pendA := some x.value } else { c with pendB := some x.value })) ∧
  (∀ (e : Fin 8) (s : State), s.executes e = true → (s.engN e).started = true → (s.engN e).published = true →
    (s.engN e).complete = false → s.missAt e = none →
    Completes (.graphComplete e) s fun t =>
      (s.engN e).completeAt ≤ t.now ∧ SetsEngine e { s.engN e with complete := true } { s with now := t.now, nt := t.nt } t) ∧
  (∀ (e : Fin 8) (s : State), Completes (.mboxOutCapture e) s fun t => t.engN e = { s.engN e with mboxCap := (s.engN e).mboxPub }) ∧
  (∀ (c : Src) (p bs : Bytes) (img : Image) (s : State), s.storesCanonical → s.admits c 0x0910 p → s.holds (masterOf c) = true →
    s.stagePending = false → pb p 0 ≠ 0 → s.imageCheck bs (pf p 16 4) = .ok img →
    Completes (.frdGraphLoad c p (some bs)) s fun t =>
      (∀ e < 8, vget t.stg.images e none = if (pb p 0).testBit e then some img else vget s.stg.images e none) ∧ t.stg.st = .dirty
        ∧ t.live = s.live ∧ t.eng = s.eng ∧ Answered c 0x0910 .ok 0 s.nt64 s t) ∧
  (∀ (c : Src) (p bs : Bytes) (s : State), s.admits c 0x0205 p → s.pair = false → s.blockRefusal (padTo (pf p 16 4) bs) = none →
    Completes (.stgSave c p (some bs)) s fun t => t.stg = { s.stg with writes := s.stg.writes ++
      [{ src := c, recover := false
         block := { version := BitVec.ofNat 64 (pf (padTo (pf p 16 4) bs) 24 8), bytes := padTo (pf p 16 4) bs } }] }
        ∧ Only [.stg, .cmd, .mgt] s t) ∧
  (∀ (c : Src) (p bs : Bytes) (s : State), s.given c 0x0206 p = true → pf p 0 4 ≤ 8388608 → memRead s.dram recBase (pf p 0 4) = bs → crc32c bs = pf p 4 4 →
    s.blockRefusal bs = none →
    Completes (.stgRecover c p) s fun t => t.stg = { s.stg with writes := s.stg.writes ++
      [{ src := c, recover := true, block := { version := BitVec.ofNat 64 (pf bs 24 8), bytes := bs } }] }
        ∧ Only [.stg, .cmd, .mgt] s t) ∧
  (∀ (w : CfgWrite) (rest : List CfgWrite) (s : State), s.storesCanonical → s.stg.writes = w :: rest → w.recover = false →
    (s.saf.chA.rel && s.saf.chB.rel) = false →
    Completes .configBlockWriteComplete s fun t =>
      t.stg.writes = rest ∧ t.stg.copy0 = some w.block ∧ t.stg.copy1 = some w.block ∧ Answered w.src 0x0205 .ok 0 s.nt64 s t) ∧
  (∀ (n : Fin 32) (desc : Bytes) (s : State), (s.dmaN n).st = .idle ∨ (s.dmaN n).st = .error → s.dmaRingDram n = false →
    (s.dmaN n).head ≠ s.dmaTail n → dmaRefusal (s.dmaQueue n) (dmaDescOf desc) = none →
    Completes (.dmaStart n desc) s fun t => (t.dmaN n).head = (s.dmaN n).head ∧ (t.dmaN n).desc = some (dmaDescOf desc)
      ∧ (t.dmaN n).moved = 0 ∧ (t.dmaN n).st = (if s.dmaQueue n = 0 then .run else .wait) ∧ Only [.dma] s t) ∧
  (∀ (n : Fin 32) (v : Word) (s : State), s.storesCanonical → v.toNat < s.dmaDepth n →
    Completes (.dmaDescTailWrite n v) s (SetsReg .dmaDescTail n 0 (BitVec.ofNat 64 v.toNat) s)) ∧
  (∀ (n : Fin 32) (d : DmaDesc) (s : State), (s.dmaN n).st = .run ∨ (s.dmaN n).st = .wait → s.dmaQueue n ≠ 0 →
    (s.dmaN n).paced = false → s.dmaHigh n ≤ s.dmaFill n → (s.dmaN n).desc = some d →
    Completes (.dmaRunStart n) s fun t => t.dmaN n = { s.dmaN n with paced := true, st := .run } ∧ Only [.dma] s t) ∧
  (∀ (n : Fin 32) (d : DmaDesc) (s : State), (s.dmaN n).st = .run ∨ (s.dmaN n).st = .wait → s.lv .dmaChCfg n 0 7 4 ≠ 0 →
    s.dmaQueue n ≠ 0 → s.dmaQueue n ≠ 3 → (s.dmaN n).flush = false → 0 < s.dmaFill n → s.dmaFill n < s.dmaHigh n →
    (s.dmaN n).desc = some d →
    Completes (.dmaFlushTimeout n) s fun t =>
      t.dmaN n = { s.dmaN n with paced := true, flush := true, st := .run } ∧ s.flushAt n ≤ t.now ∧ Only [.now, .nt, .dma] s t) ∧
  (∀ (n : Fin 32) (hostData nextDesc : Bytes) (d : DmaDesc) (s : State), s.storesCanonical → (s.dmaN n).desc = some d →
    s.dmaQueue n = 0 → s.dramGrants n d = true → (s.dmaN n).st = .run → (s.dmaN n).moved + s.burstLen n d < d.len → d.dstDram = true →
    Completes (.dmaBurst n hostData nextDesc) s fun t =>
      t.dmaN n = { s.dmaN n with moved := (s.dmaN n).moved + s.burstLen n d, turn := s.dmaTurn, burstOut := false }
        ∧ t.dram = memWrite s.dram (d.dst + (s.dmaN n).moved) (s.burstData n d (s.burstLen n d) hostData)
        ∧ Only [.free, .regs, .dma, .dram] s t) ∧
  (∀ (n : Fin 32) (s : State), (s.dmaN n).st = .run → s.bursting n = true →
    Completes (.dmaAbort n) s fun t => t.dmaN n = { s.dmaN n with st := .aborting, abortAt := s.now, burstOut := false } ∧ Only [.dma] s t) ∧
  (∀ (n : Fin 32) (d : DmaDesc) (s : State), s.storesCanonical → (s.dmaN n).desc = some d → s.dmaRingDram n = false →
    (s.dmaN n).st = .aborting →
    Completes (.dmaAbortComplete n) s fun t =>
      (t.dmaN n).st = .idle ∧ (t.dmaN n).desc = none ∧ (t.dmaN n).head = ((s.dmaN n).head + 1) % s.dmaDepth n
        ∧ HostTakes ((s.reg .dmaDescBase n).toNat + 32 * (s.dmaN n).head + 24)
            (leBytes 8 (dmaStatus .aborted 0 (d.len - (s.dmaN n).moved) false)) s t) ∧
  (∀ (n : Fin 32) (cause : Fin 3) (d : DmaDesc) (s : State), s.storesCanonical → (s.dmaN n).desc = some d →
    (s.dmaN n).st = .run → s.dmaRingDram n = false →
    Completes (.dmaHostError n cause false) s fun t =>
      (t.dmaN n).st = .error ∧ (t.dmaN n).head = (s.dmaN n).head
        ∧ HostTakes ((s.reg .dmaDescBase n).toNat + 32 * (s.dmaN n).head + 24)
            (leBytes 8 (dmaStatus .error (cause.val + 1) (d.len - (s.dmaN n).moved) false)) s t) ∧
  (∀ (c : Src) (p bs : Bytes) (s : State), s.given c 0x0901 p = true → s.pair = false → s.ops.fwWrite = none → pb p 0 < 2 →
    pb p 0 ≠ s.ops.runSlot →
    s.sec.svn ≤ pb (padTo (pf p 16 4) bs) 12 → fwForm (padTo (pf p 16 4) bs) = true →
    s.trailerCheck (padTo (pf p 16 4) bs) (pf (padTo (pf p 16 4) bs) 60 4) 2 "NDZ IMG" (· < 8) = none →
    Completes (.imgFwLoad c p (some bs)) s fun t =>
      (t.fwSlot (pb p 0)).valid = false ∧ t.fwSlot (1 - pb p 0) = s.fwSlot (1 - pb p 0)
        ∧ (∃ w, t.ops.fwWrite = some w ∧ w.src = c ∧ w.slot = pb p 0) ∧ Only [.ops, .log, .cmd, .mgt] s t) ∧
  (∀ (u : Fin 7) (f : Flight) (s : State), s.storesCanonical → s.unitWork u .verify = some f → s.now ≤ f.deadline →
    s.verifyFail f = none →
    Completes (.verify u) s fun t => vget t.cmd.units u none = none ∧ Queued f .place s t) ∧
  (∀ (r : Fin 129) (g : PendGrant) (kg : Bytes) (s : State), s.storesCanonical → s.sec.grants.find? (fun g => g.ring = r && s.unwrapping g && (g.ring.val != 128 || s.mgt.vmgt)) = some g →
    g.erased = false → g.plant = false → s.unwrap g.payload = some kg →
    Completes (.grantUnwrap r) s fun t =>
      (∃ k : SessKey, (t.rep r).key = some k ∧ k.keyId = BitVec.ofNat 16 (pf g.payload 2 2))
        ∧ Answered g.src 0x0401 .ok (pf g.payload 4 4) s.nt64 s t) ∧
  (∀ (c : Src) (p : Bytes) (s : State), s.storesCanonical → s.admits c 0x0403 p → s.anchorRefusal (pb p 0) (pb p 1) = none →
    Config.keysValid ((p.drop 24).take 1952) ((p.drop 1976).take 97) = true →
    Completes (.anchorInstall c p) s fun t =>
      t.anchor (pb p 0) = Anchor.make (pb p 0) (pb p 1) ((p.drop 24).take 1952) ((p.drop 1976).take 97) ∧ Answered c 0x0403 .ok 0 s.nt64 s t) ∧
  (∀ (f : Bytes) (s : State), s.pair = true → s.twn.link = .up → s.twn.role = false → crc32cOk f = true → pb f 0 = 2 →
    (itemOf f).no = s.twn.rxItem + 1 → (itemOf f).opcode = chunkItem →
    Completes (.itemFrameReceive f) s fun t => t.twn.rxItem = (itemOf f).no ∧ t.twn.itemBuf = s.twn.itemBuf ++ (itemOf f).payload) ∧
  (∀ (d : DueSlot) (t0 : Nat) (rest : List (DueSlot × Nat)) (s : State), s.twn.swapSpore = (d, t0) :: rest → s.twn.swapReq = false →
    s.twn.role = true → (s.tb (s.leadTb s.refEng)).run = .running → t0 ≤ (s.tb (s.leadTb s.refEng)).zeroAt →
    Completes .roleSwapRequest s fun t =>
      t.twn = { s.twn with swapReq := true, swapSpore := (d, s.now + 320000) :: rest } ∧ Only [.twn] s t) ∧
  (∀ (p : Fin 2) (t0 : Nat) (s : State), s.arb.bbm = some (p, t0) → (s.arbPort p).failed = false →
    Completes .arbiterBbmExpiry s fun t => t0 + 320 * s.lv .twnArbCfg 0 0 21 16 ≤ t.now
      ∧ t.arbPort p = { s.arbPort p with active := true, own := true } ∧ t.arb.bbm = none) ∧
  (∀ (p : Fin 2) (s : State), s.arb.strapped = true → (s.arbPort p).active = true → (s.arbPort p).swapReq = true →
    (s.arbPort p).failed = false → s.arb.bbm = none → (s.arbPort (1 - p.val)).isReady = true →
    Completes (.arbiterSwapReq p) s fun t =>
      t.arbPort p = { s.arbPort p with swapReq := false, active := false, own := false }
        ∧ t.arb.bbm = some (Fin.ofNat 2 (1 - p.val), s.now) ∧ Only [.arb] s t) ∧
  (∀ (p : Bytes) (s : State), s.storesCanonical → s.lvb .ntPtmCtrl 0 0 1 = true → 56 ≤ p.length → s.ptmAccepts p = true →
    Completes (.ptmReceive p) s (UnitsTriggered (s.lv .ntPtmCtrl 0 0 23 16) (BitVec.ofNat 64 (pf p 16 8)) s)) ∧
  (∀ s : State, s.storesCanonical → s.sarOn = true → s.ctlRuns = true → s.sar.trigAt ≠ some s.nsNow → s.sar.conv = .idle →
    Completes .sequenceTrigger s fun t => t.reg .adcSeqTrig = 0 ∧ t.sar = { s.sar with
      trigAt := some s.nsNow, conv := .slot 0 0 0, startAt := 32 * (s.nsNow + 1), convEnd := 32 * (s.nsNow + 1) + 8000 }) ∧
  (∀ (i : Fin 16) (s : State), s.sarOn = true → s.ctlRuns = true → s.sar.conv = .idle →
    Completes (.urgentRequest i) s fun t => t.sar = { s.sar with conv := .urgent i, convEnd := ctlTick s.now + 8000 }) ∧
  (∀ (mask : BitVec 16) (k : Nat) (s : State), k < 16 → mask.getLsbD k = true → s.ostMay k = true →
    Completes (.gdlOstStart mask) s fun t => (t.gs k).ost = .running) ∧
  (∀ (mask : BitVec 16) (k : Nat) (s : State), s.linkMode = true → k < 16 → mask.getLsbD k = true → s.configured k = true →
    Completes (.gdlTrain mask) s fun t => (t.gs k).link = .training ∧ (t.gs k).trainAt = s.now ∧ (t.gs k).crcRun = 0) ∧
  (∀ (err : Int) (q : Bool) (s : State), s.clk.st = .acquire → (centred 40000 (tdc err)).natAbs ≤ s.lockTol → s.lockCnt ≤ s.clk.lockRun + 1 →
    Completes (.referenceComparison err true q) s fun t =>
      t.clk.st = .locked ∧ t.clk.running = BitVec.ofNat 8 s.enabledOutputs) ∧
  (∀ (q : Byte) (b d p sig : Bytes) (s : State), s.mgt.vmgt = true → (s.takeMsg 0x10 q).mgtBusy = false → s.pair = false →
    mgtParts b = (d, p, sig) → s.ops.st ≠ .halted → s.ops.st ≠ .stopping ∨ s.ops.cause ≠ 0x11 → s.mgtRefusal b = none →
    Completes (.command q b) s fun t =>
      t.sec.replay = vset s.sec.replay 128 (s.mgtReplay (pf d 0 2) (mgtSrc d).seq p)
        ∧ t.mgt.cmd = some { reqId := q, peer := s.msgPeer 0x10 q, cmd := { src := mgtSrc d, opcode := pf d 0 2, payload := p, at_ := s.now } })
end

