-- ==== Sys2Proof/Laws/Cells.lean ====
section
/-! SUPPORT. Sparse stores: a write keeps the canonical form and the rising order; a read after a write gives what was written there and
what was there before everywhere else. -/

namespace Sys2Proof.Machine

variable {α : Type} [DecidableEq α] {d : Nat → α} {m : List (Nat × α)} {k j a : Nat} {x y : α}

/-! ### The canonical form as two plain facts -/

theorem cellsAbove_iff (lo : Option Nat) :
    cellsAbove d lo m = true ↔ (∀ b ∈ lo, ∀ p ∈ m, b < p.1) ∧ cellsRise m ∧ ∀ p ∈ m, p.2 ≠ d p.1 := by
  induction m generalizing lo with
  | nil => simp [cellsAbove, cellsRise]
  | cons p rest ih =>
    obtain ⟨a, x⟩ := p
    cases lo with
    | none => simp [cellsAbove, ih, cellsRise]; tauto
    | some b =>
      simp only [cellsAbove, ih, cellsRise, List.pairwise_cons, List.mem_cons, Option.mem_def, Option.some.injEq, Bool.and_eq_true,
        decide_eq_true_eq, forall_eq_or_imp, forall_eq']
      constructor
      · rintro ⟨⟨h1, h2⟩, h3, h4, h5⟩
        exact ⟨⟨h1, fun p hp => h1.trans (h3 p hp)⟩, ⟨h3, h4⟩, h2, h5⟩
      · rintro ⟨⟨h1, -⟩, ⟨h3, h4⟩, h2, h5⟩
        exact ⟨⟨h1, h2⟩, h3, h4, h5⟩

theorem cellsWf_iff : cellsWf d m = true ↔ cellsRise m ∧ ∀ p ∈ m, p.2 ≠ d p.1 := by
  simp [cellsWf, cellsAbove_iff]

/-! ### What a write lists -/

theorem mem_cellsWrite {p : Nat × α} (h : p ∈ cellsWrite d m k x) : p = (k, x) ∨ p ∈ m := by
  induction m with
  | nil => simp only [cellsWrite, cellsCons] at h; split at h <;> simp_all
  | cons q rest ih =>
    obtain ⟨a, y⟩ := q
    simp only [cellsWrite, cellsCons] at h
    split at h
    · split at h <;> simp_all; tauto
    · split at h
      · split at h <;> simp_all
      · simp only [List.mem_cons] at h ⊢
        rcases h with h | h
        · exact .inr (.inl h)
        · exact (ih h).imp_right .inr

theorem cellsRise_write (h : cellsRise m) : cellsRise (cellsWrite d m k x) := by
  unfold cellsRise at *
  induction m with
  | nil => simp only [cellsWrite, cellsCons]; split <;> simp
  | cons q rest ih =>
    obtain ⟨a, y⟩ := q
    rw [List.pairwise_cons] at h
    simp only [cellsWrite, cellsCons]
    split
    · subst k; split
      · exact h.2
      · exact List.pairwise_cons.2 h
    · split
      · rename_i h1
        split
        · exact List.pairwise_cons.2 h
        · refine List.pairwise_cons.2 ⟨fun p hp => ?_, List.pairwise_cons.2 h⟩
          rcases List.mem_cons.1 hp with rfl | hp
          · exact h1
          · exact h1.trans (h.1 p hp)
      · refine List.pairwise_cons.2 ⟨fun p hp => ?_, ih h.2⟩
        rcases mem_cellsWrite hp with rfl | hp
        · simp only; omega
        · exact h.1 p hp

/-- A write keeps the canonical form. -/
theorem cellsWf_write (h : cellsWf d m = true) : cellsWf d (cellsWrite d m k x) = true := by
  rw [cellsWf_iff] at *
  refine ⟨cellsRise_write h.1, fun p hp => ?_⟩
  by_cases hx : x = d k
  · -- the written pair is not listed
    have key : ∀ m : List (Nat × α), (∀ p ∈ m, p.2 ≠ d p.1) → ∀ p ∈ cellsWrite d m k x, p.2 ≠ d p.1 := by
      intro m
      induction m with
      | nil => simp [cellsWrite, cellsCons, hx]
      | cons q rest ih =>
        obtain ⟨a, y⟩ := q
        intro hm p hp
        simp only [cellsWrite, cellsCons, hx, if_true] at hp
        split at hp
        · exact hm p (List.mem_cons_of_mem _ hp)
        · split at hp
          · exact hm p hp
          · rcases List.mem_cons.1 hp with rfl | hp
            · exact hm _ List.mem_cons_self
            · exact ih (fun p hp => hm p (List.mem_cons_of_mem _ hp)) p (by rwa [hx])
    exact key m h.2 p hp
  · rcases mem_cellsWrite hp with rfl | hp
    · exact hx
    · exact h.2 p hp

/-! ### Read after write -/

omit [DecidableEq α] in
theorem cellsRead_below (h : ∀ p ∈ m, k < p.1) : cellsRead d m k = d k := by
  cases m with
  | nil => rfl
  | cons q rest =>
    have := h q List.mem_cons_self
    simp only [cellsRead]
    rw [if_neg (by omega), if_pos this]

/-- A read at the address of a write gives what was written. -/
theorem cellsRead_write_same (h : cellsRise m) : cellsRead d (cellsWrite d m k x) k = x := by
  induction m with
  | nil => simp only [cellsWrite, cellsCons]; split <;> simp_all [cellsRead]
  | cons q rest ih =>
    obtain ⟨a, y⟩ := q
    have h' := List.pairwise_cons.1 h
    simp only [cellsWrite, cellsCons]
    split
    · subst k; split
      · rename_i hx; rw [cellsRead_below h'.1, hx]
      · simp [cellsRead]
    · split
      · split
        · rename_i h1 h2 hx
          rw [cellsRead, if_neg h1, if_pos h2, hx]
        · simp [cellsRead]
      · rename_i h1 h2
        rw [cellsRead, if_neg h1, if_neg h2]
        exact ih h'.2

/-- A write changes no other address, whatever an unlisted address is taken to read as. -/
theorem cellsRead_write_elsewhere {d' : Nat → α} (h : cellsRise m) (hj : j ≠ k) :
    cellsRead d' (cellsWrite d m k x) j = cellsRead d' m j := by
  induction m with
  | nil => simp only [cellsWrite, cellsCons]; split <;> simp [cellsRead, hj]
  | cons q rest ih =>
    obtain ⟨a, y⟩ := q
    have h' := List.pairwise_cons.1 h
    simp only [cellsWrite, cellsCons]
    split
    · subst k
      have : cellsRead d' ((a, y) :: rest) j = if j < a then d' j else cellsRead d' rest j := by simp [cellsRead, hj]
      rw [this]
      split
      · split
        · exact cellsRead_below fun p hp => by have := h'.1 p hp; simp only at this; omega
        · rfl
      · simp [cellsRead, hj]
    · split
      · split
        · rfl
        · rename_i h1 h2 _
          simp only [cellsRead, hj, if_false]
          split
          · have : j ≠ a := by omega
            have h3 : j < a := by omega
            simp [this, h3]
          · rfl
      · simp only [cellsRead, ih h'.2]

/-- A write leaves every other address alone. -/
theorem cellsRead_write_other (h : cellsRise m) (hj : j ≠ k) : cellsRead d (cellsWrite d m k x) j = cellsRead d m j :=
  cellsRead_write_elsewhere h hj

/-! ### Runs of bytes -/

theorem cellsRise_memWrite (bs : Bytes) (a : Nat) (m : List (Nat × Byte)) (h : cellsRise m) : cellsRise (memWrite m a bs) := by
  induction bs generalizing m a with
  | nil => exact h
  | cons b rest ih => exact ih _ _ (cellsRise_write h)

/-- A write of a run of bytes keeps the canonical form. -/
theorem cellsWf_memWrite (bs : Bytes) (a : Nat) (m : List (Nat × Byte)) (h : cellsWf memDefault m = true) :
    cellsWf memDefault (memWrite m a bs) = true := by
  induction bs generalizing m a with
  | nil => exact h
  | cons b rest ih => exact ih _ _ (cellsWf_write h)

/-- Every byte outside the run reads as before. -/
theorem cellsRead_memWrite_other (bs : Bytes) (a j : Nat) (m : List (Nat × Byte)) (h : cellsRise m)
    (hj : j < a ∨ a + bs.length ≤ j) : cellsRead memDefault (memWrite m a bs) j = cellsRead memDefault m j := by
  induction bs generalizing m a with
  | nil => rfl
  | cons b rest ih =>
    simp only [List.length_cons] at hj
    rw [memWrite, ih _ _ (cellsRise_write h) (by omega), cellsRead_write_other h (by omega)]

/-- Every byte of the run reads as written. -/
theorem cellsRead_memWrite_same (bs : Bytes) (a i : Nat) (m : List (Nat × Byte)) (h : cellsRise m) (hi : i < bs.length) :
    cellsRead memDefault (memWrite m a bs) (a + i) = bs[i] := by
  induction bs generalizing m a i with
  | nil => simp at hi
  | cons b rest ih =>
    cases i with
    | zero =>
      rw [memWrite, cellsRead_memWrite_other rest (a + 1) _ _ (cellsRise_write h) (by omega)]
      exact cellsRead_write_same h
    | succ i =>
      have := ih (a + 1) i (cellsWrite memDefault m a b) (cellsRise_write h) (by simpa using hi)
      rw [memWrite, show a + (i + 1) = a + 1 + i by omega, this]
      rfl

omit [DecidableEq α] in
/-- Filtering keeps the rising order. -/
theorem cellsRise_filter (p : Nat × α → Bool) (h : cellsRise m) : cellsRise (m.filter p) := List.Pairwise.filter p h

end Sys2Proof.Machine
end

