-- ==== Sys2Proof/Laws/Only.lean ====
section
/-! SUPPORT. Frames: which parts of the state an operation may change. Every operation has one lemma here or in the files beside this
one: it changes nothing but the parts that the lemma names. -/

namespace Sys2Proof.Machine

variable {l : List Part} {s0 s : State}

theorem Only.refl (l : List Part) (s : State) : Only l s s := fun p _ => by cases p <;> rfl

theorem only_ite {c : Prop} [Decidable c] {a b : State} (ha : Only l s0 a) (hb : Only l s0 b) : Only l s0 (if c then a else b) := by
  split <;> assumption

theorem only_foldl {α : Type} (xs : List α) (f : State → α → State) (hf : ∀ u a, Only l s0 u → Only l s0 (f u a)) (h : Only l s0 s) :
    Only l s0 (xs.foldl f s) := by
  induction xs generalizing s with
  | nil => exact h
  | cons a xs ih => exact ih (hf _ _ h)

theorem only_forNums (xs : List Nat) (f : Nat → State → State) (hf : ∀ i u, Only l s0 u → Only l s0 (f i u)) (h : Only l s0 s) :
    Only l s0 (forNums xs f s) := only_foldl xs _ (fun u a => hf a u) h

/-- Replacing parts of a state changes those parts. -/
theorem only_mk {now free live regs bus eng waits meas sar pwm gdl trp saf clk nt eth cmd ops log sec stg acq dma dram host twn arb mgt}
    (h : Only l s0 s)
    (h_now : .now ∈ l ∨ now = s.now) (h_free : .free ∈ l ∨ free = s.free) (h_live : .live ∈ l ∨ live = s.live) (h_regs : .regs ∈ l ∨ regs = s.regs)
    (h_bus : .bus ∈ l ∨ bus = s.bus) (h_eng : .eng ∈ l ∨ eng = s.eng) (h_waits : .waits ∈ l ∨ waits = s.waits) (h_meas : .meas ∈ l ∨ meas = s.meas)
    (h_sar : .sar ∈ l ∨ sar = s.sar) (h_pwm : .pwm ∈ l ∨ pwm = s.pwm) (h_gdl : .gdl ∈ l ∨ gdl = s.gdl) (h_trp : .trp ∈ l ∨ trp = s.trp)
    (h_saf : .saf ∈ l ∨ saf = s.saf) (h_clk : .clk ∈ l ∨ clk = s.clk) (h_nt : .nt ∈ l ∨ nt = s.nt) (h_eth : .eth ∈ l ∨ eth = s.eth)
    (h_cmd : .cmd ∈ l ∨ cmd = s.cmd) (h_ops : .ops ∈ l ∨ ops = s.ops) (h_log : .log ∈ l ∨ log = s.log) (h_sec : .sec ∈ l ∨ sec = s.sec)
    (h_stg : .stg ∈ l ∨ stg = s.stg) (h_acq : .acq ∈ l ∨ acq = s.acq) (h_dma : .dma ∈ l ∨ dma = s.dma) (h_dram : .dram ∈ l ∨ dram = s.dram)
    (h_host : .host ∈ l ∨ host = s.host) (h_twn : .twn ∈ l ∨ twn = s.twn) (h_arb : .arb ∈ l ∨ arb = s.arb) (h_mgt : .mgt ∈ l ∨ mgt = s.mgt) :
    Only l s0 ⟨s.pending, now, free, live, regs, bus, eng, waits, meas, sar, pwm, gdl, trp, saf, clk, nt, eth, cmd, ops, log, sec, stg, acq, dma, dram, host, twn, arb, mgt⟩ := by
  intro p hp
  have := h p hp
  cases p
  case pending => exact this
  case now => exact (h_now.resolve_left hp).trans this
  case free => exact (h_free.resolve_left hp).trans this
  case live => exact (h_live.resolve_left hp).trans this
  case regs => exact (h_regs.resolve_left hp).trans this
  case bus => exact (h_bus.resolve_left hp).trans this
  case eng => exact (h_eng.resolve_left hp).trans this
  case waits => exact (h_waits.resolve_left hp).trans this
  case meas => exact (h_meas.resolve_left hp).trans this
  case sar => exact (h_sar.resolve_left hp).trans this
  case pwm => exact (h_pwm.resolve_left hp).trans this
  case gdl => exact (h_gdl.resolve_left hp).trans this
  case trp => exact (h_trp.resolve_left hp).trans this
  case saf => exact (h_saf.resolve_left hp).trans this
  case clk => exact (h_clk.resolve_left hp).trans this
  case nt => exact (h_nt.resolve_left hp).trans this
  case eth => exact (h_eth.resolve_left hp).trans this
  case cmd => exact (h_cmd.resolve_left hp).trans this
  case ops => exact (h_ops.resolve_left hp).trans this
  case log => exact (h_log.resolve_left hp).trans this
  case sec => exact (h_sec.resolve_left hp).trans this
  case stg => exact (h_stg.resolve_left hp).trans this
  case acq => exact (h_acq.resolve_left hp).trans this
  case dma => exact (h_dma.resolve_left hp).trans this
  case dram => exact (h_dram.resolve_left hp).trans this
  case host => exact (h_host.resolve_left hp).trans this
  case twn => exact (h_twn.resolve_left hp).trans this
  case arb => exact (h_arb.resolve_left hp).trans this
  case mgt => exact (h_mgt.resolve_left hp).trans this

/-! ### Parts by number -/

theorem only_modEng (e : Nat) (f : Engine → Engine) (h : Only l s0 s) (hl : .eng ∈ l) : Only l s0 (s.modEng e f) := by
  simp only [State.modEng, only_mk, h, hl, or_true, true_or]
theorem only_modTb (t : Nat) (f : Timebase → Timebase) (h : Only l s0 s) (hl : .pwm ∈ l) : Only l s0 (s.modTb t f) := by
  simp only [State.modTb, only_mk, h, hl, or_true, true_or]
theorem only_modChan (n : Nat) (f : Chan → Chan) (h : Only l s0 s) (hl : .pwm ∈ l) : Only l s0 (s.modChan n f) := by
  simp only [State.modChan, only_mk, h, hl, or_true, true_or]
theorem only_modZone (k : Nat) (f : Zone → Zone) (h : Only l s0 s) (hl : .trp ∈ l) : Only l s0 (s.modZone k f) := by
  simp only [State.modZone, only_mk, h, hl, or_true, true_or]
theorem only_modGs (k : Nat) (f : GdlStack → GdlStack) (h : Only l s0 s) (hl : .gdl ∈ l) : Only l s0 (s.modGs k f) := by
  simp only [State.modGs, only_mk, h, hl, or_true, true_or]
theorem only_modDec (c : Nat) (f : DecChan → DecChan) (h : Only l s0 s) (hl : .meas ∈ l) : Only l s0 (s.modDec c f) := by
  simp only [State.modDec, only_mk, h, hl, or_true, true_or]
theorem only_modAcq (u : Nat) (f : AcqUnit → AcqUnit) (h : Only l s0 s) (hl : .acq ∈ l) : Only l s0 (s.modAcq u f) := by
  simp only [State.modAcq, only_mk, h, hl, or_true, true_or]
theorem only_modDma (n : Nat) (f : DmaChan → DmaChan) (h : Only l s0 s) (hl : .dma ∈ l) : Only l s0 (s.modDma n f) := by
  simp only [State.modDma, only_mk, h, hl, or_true, true_or]
theorem only_modRing (r : Nat) (f : Ring → Ring) (h : Only l s0 s) (hl : .cmd ∈ l) : Only l s0 (s.modRing r f) := by
  simp only [State.modRing, only_mk, h, hl, or_true, true_or]
theorem only_modRep (r : Nat) (f : Replay → Replay) (h : Only l s0 s) (hl : .sec ∈ l) : Only l s0 (s.modRep r f) := by
  simp only [State.modRep, only_mk, h, hl, or_true, true_or]
theorem only_modPort (p : Nat) (f : EthPort → EthPort) (h : Only l s0 s) (hl : .eth ∈ l) : Only l s0 (s.modPort p f) := by
  simp only [State.modPort, only_mk, h, hl, or_true, true_or]
theorem only_modBus (f : BusState → BusState) (h : Only l s0 s) (hl : .bus ∈ l) : Only l s0 (s.modBus f) := by
  simp only [State.modBus, only_mk, h, hl, or_true, true_or]
theorem only_modClk (f : ClkState → ClkState) (h : Only l s0 s) (hl : .clk ∈ l) : Only l s0 (s.modClk f) := by
  simp only [State.modClk, only_mk, h, hl, or_true, true_or]
theorem only_modNt (f : NtState → NtState) (h : Only l s0 s) (hl : .nt ∈ l) : Only l s0 (s.modNt f) := by
  simp only [State.modNt, only_mk, h, hl, or_true, true_or]
theorem only_modSec (f : SecState → SecState) (h : Only l s0 s) (hl : .sec ∈ l) : Only l s0 (s.modSec f) := by
  simp only [State.modSec, only_mk, h, hl, or_true, true_or]
theorem only_modStg (f : StgState → StgState) (h : Only l s0 s) (hl : .stg ∈ l) : Only l s0 (s.modStg f) := by
  simp only [State.modStg, only_mk, h, hl, or_true, true_or]
theorem only_modOps (f : OpsState → OpsState) (h : Only l s0 s) (hl : .ops ∈ l) : Only l s0 (s.modOps f) := by
  simp only [State.modOps, only_mk, h, hl, or_true, true_or]
theorem only_modCmd (f : CmdState → CmdState) (h : Only l s0 s) (hl : .cmd ∈ l) : Only l s0 (s.modCmd f) := by
  simp only [State.modCmd, only_mk, h, hl, or_true, true_or]
theorem only_modSaf (f : SafState → SafState) (h : Only l s0 s) (hl : .saf ∈ l) : Only l s0 (s.modSaf f) := by
  simp only [State.modSaf, only_mk, h, hl, or_true, true_or]
theorem only_modTwn (f : TwnState → TwnState) (h : Only l s0 s) (hl : .twn ∈ l) : Only l s0 (s.modTwn f) := by
  simp only [State.modTwn, only_mk, h, hl, or_true, true_or]
theorem only_modMgt (f : MgtState → MgtState) (h : Only l s0 s) (hl : .mgt ∈ l) : Only l s0 (s.modMgt f) := by
  simp only [State.modMgt, only_mk, h, hl, or_true, true_or]
theorem only_modSar (f : SarState → SarState) (h : Only l s0 s) (hl : .sar ∈ l) : Only l s0 (s.modSar f) := by
  simp only [State.modSar, only_mk, h, hl, or_true, true_or]
theorem only_setReg (r : Reg) (i j : Nat) (v : DWord) (h : Only l s0 s) (hl : .regs ∈ l) : Only l s0 (s.setReg r i j v) := by
  simp only [State.setReg, only_mk, h, hl, or_true, true_or]
theorem only_setRegN (r : Reg) (i j v : Nat) (h : Only l s0 s) (hl : .regs ∈ l) : Only l s0 (s.setRegN r i j v) := by
  simp only [State.setRegN, State.setReg, only_mk, h, hl, or_true, true_or]
theorem only_setFlag (r : Reg) (i n : Nat) (h : Only l s0 s) (hl : .regs ∈ l) : Only l s0 (s.setFlag r i n) := by
  simp only [State.setFlag, State.setReg, only_mk, h, hl, or_true, true_or]
theorem only_count (r : Reg) (i n : Nat) (h : Only l s0 s) (hl : .regs ∈ l) : Only l s0 (s.count r i n) := by
  simp only [State.count, State.setRegN, State.setReg, only_mk, h, hl, or_true, true_or]
theorem only_countWrap (r : Reg) (i : Nat) (h : Only l s0 s) (hl : .regs ∈ l) : Only l s0 (s.countWrap r i) := by
  simp only [State.countWrap, State.setRegN, State.setReg, only_mk, h, hl, or_true, true_or]
theorem only_keepMax (r : Reg) (i v : Nat) (h : Only l s0 s) (hl : .regs ∈ l) : Only l s0 (s.keepMax r i v) := by
  simp only [State.keepMax, State.setRegN, State.setReg, only_mk, h, hl, or_true, true_or]
theorem only_advanceTo (n : Nat) (h : Only l s0 s) (h1 : .now ∈ l) (h2 : .nt ∈ l) : Only l s0 (s.advanceTo n) := by
  unfold State.advanceTo
  simp only [only_ite, only_mk, h, h1, h2, or_true, true_or]
theorem only_toTick (h : Only l s0 s) (h1 : .now ∈ l) (h2 : .nt ∈ l) : Only l s0 s.toTick := only_advanceTo _ h h1 h2
theorem only_draw (h : Only l s0 s) (hl : .free ∈ l) : Only l s0 s.draw.2 := by
  simp only [State.draw, only_mk, h, hl, or_true, true_or]
theorem only_hostWrite (a : Nat) (bs : Bytes) (h : Only l s0 s) (hl : .host ∈ l) : Only l s0 (s.hostWrite a bs) := by
  simp only [State.hostWrite, only_mk, h, hl, or_true, true_or]

end Sys2Proof.Machine
end

