-- ==== Sys2Proof/Laws/OnlyOps.lean ====
section
/-! SUPPORT. Frames of the operations and meanings of Machine/Ops.lean: one lemma each, which names the parts of the state that may
change. -/

set_option maxRecDepth 4000

namespace Sys2Proof.Machine

theorem only_logPut {ps : List Part} {s0 : State} (s : State) (r : LogRec) (h : Only ps s0 s) (h_regs : Part.regs ∈ ps) (h_log : Part.log ∈ ps) :
    Only ps s0 (State.logPut s r) := by
  unfold State.logPut
  simp (maxDischargeDepth := 200) +contextual only [only_count, only_ite, only_mk, or_true, true_or, h, h_regs, h_log]

theorem only_accessErr {ps : List Part} {s0 : State} (s : State) (cause : Nat) (write : Bool) (off : Nat) (h : Only ps s0 s) (h_regs : Part.regs ∈ ps) :
    Only ps s0 (State.accessErr s cause write off) := by
  unfold State.accessErr
  simp (maxDischargeDepth := 200) only [only_count, only_setRegN, h, h_regs]

theorem only_busyStop {ps : List Part} {s0 : State} (s : State) (h : Only ps s0 s) (h_regs : Part.regs ∈ ps) :
    Only ps s0 (State.busyStop s) := by
  unfold State.busyStop
  simp (maxDischargeDepth := 200) only [only_count, h, h_regs]

theorem only_remember {ps : List Part} {s0 : State} (s : State) (src : Src) (st : Status) (at_ : DWord) (h : Only ps s0 s) (h_twn : Part.twn ∈ ps) :
    Only ps s0 (State.remember s src st at_) := by
  unfold State.remember
  simp (maxDischargeDepth := 200) only [only_modTwn, h, h_twn]

theorem only_mctpSend {ps : List Part} {s0 : State} (s : State) (peer : MctpPeer) (bs : Bytes) (h : Only ps s0 s) (h_mgt : Part.mgt ∈ ps) :
    Only ps s0 (State.mctpSend s peer bs) := by
  unfold State.mctpSend
  simp (maxDischargeDepth := 200) +contextual only [only_modMgt, h, h_mgt]

theorem only_mgtAnswer {ps : List Part} {s0 : State} (s : State) (c : MgtCmd) (entry : Bytes) (st : Status) (h : Only ps s0 s) (h_regs : Part.regs ∈ ps) (h_mgt : Part.mgt ∈ ps) :
    Only ps s0 (State.mgtAnswer s c entry st) := by
  unfold State.mgtAnswer
  simp (maxDischargeDepth := 200) +contextual only [only_count, only_mctpSend, only_modMgt, only_ite, h, h_regs, h_mgt]

theorem only_trace {ps : List Part} {s0 : State} (s : State) (event : Nat) (unit : Nat) (ring : Nat) (seq : DWord) (h : Only ps s0 s) (h_regs : Part.regs ∈ ps) (h_cmd : Part.cmd ∈ ps) :
    Only ps s0 (State.trace s event unit ring seq) := by
  unfold State.trace
  simp (maxDischargeDepth := 200) only [only_count, only_modCmd, only_ite, h, h_regs, h_cmd]

theorem only_raise {ps : List Part} {s0 : State} (s : State) (v : Nat) (h : Only ps s0 s) (h_cmd : Part.cmd ∈ ps) :
    Only ps s0 (State.raise s v) := by
  unfold State.raise
  simp (maxDischargeDepth := 200) only [only_modCmd, only_ite, h, h_cmd]

theorem only_countStatus {ps : List Part} {s0 : State} (s : State) (x1 : Status) (h : Only ps s0 s) (h_regs : Part.regs ∈ ps) :
    Only ps s0 (State.countStatus s x1) := by
  unfold State.countStatus
  split <;> simp (maxDischargeDepth := 200) only [only_count, h, h_regs]

theorem only_writeEntry {ps : List Part} {s0 : State} (s : State) (src : Src) (opcode : Nat) (st : Status) (detail : Nat) (at_ : DWord) (h : Only ps s0 s) (h_regs : Part.regs ∈ ps) (h_cmd : Part.cmd ∈ ps) (h_host : Part.host ∈ ps) :
    Only ps s0 (State.writeEntry s src opcode st detail at_) := by
  unfold State.writeEntry
  simp (maxDischargeDepth := 200) only [only_count, only_countStatus, only_hostWrite, only_modRing, only_raise, only_trace, only_ite, h, h_regs, h_cmd, h_host]

theorem only_dropCommand {ps : List Part} {s0 : State} (s : State) (src : Src) (h : Only ps s0 s) (h_cmd : Part.cmd ∈ ps) :
    Only ps s0 (State.dropCommand s src) := by
  unfold State.dropCommand
  simp (maxDischargeDepth := 200) only [only_modCmd, h, h_cmd]

theorem only_complete {ps : List Part} {s0 : State} (s : State) (src : Src) (opcode : Nat) (st : Status) (detail : Nat) (at_ : DWord) (h : Only ps s0 s) (h_regs : Part.regs ∈ ps) (h_cmd : Part.cmd ∈ ps) (h_host : Part.host ∈ ps) (h_twn : Part.twn ∈ ps) (h_mgt : Part.mgt ∈ ps) :
    Only ps s0 (State.complete s src opcode st detail at_) := by
  unfold State.complete
  dsimp only
  repeat' split
  all_goals simp (maxDischargeDepth := 200) +contextual only [only_dropCommand, only_mgtAnswer, only_remember, only_writeEntry, h, h_regs, h_cmd, h_host, h_twn, h_mgt]

theorem only_done {ps : List Part} {s0 : State} (s : State) (src : Src) (opcode : Nat) (detail : optParam Nat 0) (h : Only ps s0 s) (h_regs : Part.regs ∈ ps) (h_cmd : Part.cmd ∈ ps) (h_host : Part.host ∈ ps) (h_twn : Part.twn ∈ ps) (h_mgt : Part.mgt ∈ ps) :
    Only ps s0 (State.done s src opcode detail) := by
  unfold State.done
  simp (maxDischargeDepth := 200) only [only_complete, h, h_regs, h_cmd, h_host, h_twn, h_mgt]

theorem only_notify {ps : List Part} {s0 : State} (s : State) (h : Only ps s0 s) (h_mgt : Part.mgt ∈ ps) :
    Only ps s0 (State.notify s) := by
  unfold State.notify
  simp (maxDischargeDepth := 200) only [only_modMgt, h, h_mgt]

theorem only_note {ps : List Part} {s0 : State} (s : State) (source : Nat) (type : Nat) (detail : Nat) (body : Bytes) (h : Only ps s0 s) (h_regs : Part.regs ∈ ps) (h_log : Part.log ∈ ps) :
    Only ps s0 (State.note s source type detail body) := by
  unfold State.note
  simp (maxDischargeDepth := 200) +contextual only [only_logPut, h, h_regs, h_log]

theorem only_logFlag {ps : List Part} {s0 : State} (s : State) (source : Nat) (n : Nat) (value : DWord) (h : Only ps s0 s) (h_regs : Part.regs ∈ ps) (h_log : Part.log ∈ ps) :
    Only ps s0 (State.logFlag s source n value) := by
  unfold State.logFlag
  simp (maxDischargeDepth := 200) only [only_note, h, h_regs, h_log]

theorem only_refuse {ps : List Part} {s0 : State} (s : State) (src : Src) (opcode : Nat) (st : Status) (detail : Nat) (h : Only ps s0 s) (h_regs : Part.regs ∈ ps) (h_cmd : Part.cmd ∈ ps) (h_host : Part.host ∈ ps) (h_twn : Part.twn ∈ ps) (h_mgt : Part.mgt ∈ ps) :
    Only ps s0 (State.refuse s src opcode st detail) := by
  unfold State.refuse
  simp (maxDischargeDepth := 200) only [only_complete, h, h_regs, h_cmd, h_host, h_twn, h_mgt]

theorem only_unlessHalted {ps : List Part} {s0 : State} (s : State) (c : Src) (op : Nat) (t : State) (h : Only ps s0 s) (h3 : Only ps s0 t) (h_regs : Part.regs ∈ ps) (h_cmd : Part.cmd ∈ ps) (h_host : Part.host ∈ ps) (h_twn : Part.twn ∈ ps) (h_mgt : Part.mgt ∈ ps) :
    Only ps s0 (State.unlessHalted s c op t) := by
  unfold State.unlessHalted
  simp (maxDischargeDepth := 200) only [only_refuse, only_ite, h, h3, h_regs, h_cmd, h_host, h_twn, h_mgt]

theorem only_logFlush {ps : List Part} {s0 : State} (s : State) (h : Only ps s0 s) (h_log : Part.log ∈ ps) :
    Only ps s0 (State.logFlush s) := by
  unfold State.logFlush
  simp (maxDischargeDepth := 200) only [only_mk, or_true, true_or, h, h_log]

theorem only_nandTurn {ps : List Part} {s0 : State} (s : State) (h : Only ps s0 s) (h_log : Part.log ∈ ps) :
    Only ps s0 (State.nandTurn s) := by
  unfold State.nandTurn
  simp (maxDischargeDepth := 200) +contextual only [only_logFlush, only_ite, h, h_log]

theorem only_took {ps : List Part} {s0 : State} (s : State) (c : Src) (done : Bool) (h : Only ps s0 s) (h_cmd : Part.cmd ∈ ps) (h_mgt : Part.mgt ∈ ps) :
    Only ps s0 (State.took s c done) := by
  unfold State.took
  simp (maxDischargeDepth := 200) only [only_modMgt, only_modCmd, only_ite, h, h_cmd, h_mgt]

theorem only_acting {ps : List Part} {s0 : State} (s : State) (c : Src) (op : Nat) (p : Bytes) (f : State → State) (hf : ∀ u, Only ps s0 u → Only ps s0 (f u)) (h : Only ps s0 s) (h_cmd : Part.cmd ∈ ps) (h_mgt : Part.mgt ∈ ps) :
    Only ps s0 (State.acting s c op p f) := by
  unfold State.acting
  split
  · exact hf _ (only_took _ _ _ h h_cmd h_mgt)
  · exact h

theorem only_obey {ps : List Part} {s0 : State} (s : State) (c : Src) (op : Nat) (p : Bytes) (f : State → State) (hf : ∀ u, Only ps s0 u → Only ps s0 (f u)) (h : Only ps s0 s) (h_regs : Part.regs ∈ ps) (h_cmd : Part.cmd ∈ ps) (h_host : Part.host ∈ ps) (h_twn : Part.twn ∈ ps) (h_mgt : Part.mgt ∈ ps) :
    Only ps s0 (State.obey s c op p f) :=
  only_acting s c op p _ (fun u hu => only_unlessHalted u c op (f u) hu (hf u hu) h_regs h_cmd h_host h_twn h_mgt) h h_cmd h_mgt

theorem only_markBp {ps : List Part} {s0 : State} (s : State) (l : Nat) (on : Bool) (h : Only ps s0 s) (h_cmd : Part.cmd ∈ ps) :
    Only ps s0 (State.markBp s l on) := by
  unfold State.markBp
  exact only_forNums _ _ (fun r v hv => by simp (maxDischargeDepth := 200) only [only_modRing, hv, h_cmd]) h

theorem only_backPressure {ps : List Part} {s0 : State} (s : State) (l : Nat) (ring : Nat) (seq : DWord) (h : Only ps s0 s) (h_regs : Part.regs ∈ ps) (h_cmd : Part.cmd ∈ ps) :
    Only ps s0 (State.backPressure s l ring seq) := by
  unfold State.backPressure
  simp (maxDischargeDepth := 200) only [only_count, only_markBp, only_modCmd, only_trace, only_ite, h, h_regs, h_cmd]

end Sys2Proof.Machine
end

