-- ==== Sys2Proof/Laws/Answers.lean ====
section
/-! SUPPORT. What a completion does, said once: where its entry stands in host memory, and what it leaves alone. -/

namespace Sys2Proof.Machine

theorem length_leBytes (n v : Nat) : (leBytes n v).length = n := by
  induction n generalizing v with
  | zero => rfl
  | succ n ih => simp [leBytes, ih]

theorem length_cqEntry (c : Src) (op : Nat) (st : Status) (d : Nat) (at_ : DWord) (h : Nat) (ph : Bool) :
    (cqEntry c op st d at_ h ph).length = 32 := by simp [cqEntry, length_leBytes]

/-- A write to host memory puts its bytes there and nothing else. -/
theorem hostTakes_memWrite {s t : State} {a : Nat} {bs : Bytes} (h : cellsRise s.host) (ht : t.host = memWrite s.host a bs) :
    HostTakes a bs s t := by
  intro x
  rw [ht]
  split
  · rename_i hx
    have h1 := cellsRead_memWrite_same bs a (x - a) s.host h (by omega)
    rw [show a + (x - a) = x by omega] at h1
    rw [h1]
    simp only [lget, List.getElem?_eq_getElem (show x - a < bs.length by omega), Option.getD_some]
  · rename_i hx
    exact cellsRead_memWrite_other bs a x s.host h (by omega)

theorem hostSame_of {s t : State} (h : t.host = s.host) : HostSame s t := fun x => by rw [h]

theorem State.storesCanonical.hostRise {s : State} (h : s.storesCanonical) : cellsRise s.host := (cellsWf_iff.mp h.1).1

/-! ### What the parts of a completion leave alone -/

theorem State.count_other (s : State) (r : Reg) (i n : Nat) :
    (s.count r i n).host = s.host ∧ (s.count r i n).cmd = s.cmd ∧ (s.count r i n).mgt = s.mgt ∧ (s.count r i n).twn = s.twn :=
  ⟨rfl, rfl, rfl, rfl⟩

theorem State.countStatus_other (s : State) (st : Status) :
    (s.countStatus st).host = s.host ∧ (s.countStatus st).cmd = s.cmd ∧ (s.countStatus st).mgt = s.mgt ∧ (s.countStatus st).twn = s.twn := by
  cases st <;> exact ⟨rfl, rfl, rfl, rfl⟩

theorem State.raise_other (s : State) (v : Nat) :
    (s.raise v).host = s.host ∧ (s.raise v).cmd.rings = s.cmd.rings ∧ (s.raise v).mgt = s.mgt ∧ (s.raise v).twn = s.twn := by
  unfold State.raise
  split <;> exact ⟨rfl, rfl, rfl, rfl⟩

theorem State.trace_other (s : State) (e u r : Nat) (q : DWord) :
    (s.trace e u r q).host = s.host ∧ (s.trace e u r q).cmd.rings = s.cmd.rings ∧ (s.trace e u r q).mgt = s.mgt
      ∧ (s.trace e u r q).twn = s.twn := by
  unfold State.trace
  dsimp only
  repeat' split
  all_goals exact ⟨rfl, rfl, rfl, rfl⟩

/-- What writing an entry changes of host memory, and where the ring's tail then stands. -/
theorem State.writeEntry_effect (u : State) (c : Src) (op : Nat) (st : Status) (d : Nat) (at_ : DWord) (hr : c.ring.val < 128) :
    (u.writeEntry c op st d at_).host
        = memWrite u.host (u.cqSlot c.ring) (cqEntry c op st d at_ (u.ring c.ring).sqHead (u.ring c.ring).phase)
      ∧ ((u.writeEntry c op st d at_).ring c.ring).cqTail = ((u.ring c.ring).cqTail + 1) % u.depth c.ring
      ∧ (u.writeEntry c op st d at_).mgt = u.mgt ∧ (u.writeEntry c op st d at_).twn = u.twn := by
  have ho := only_writeEntry (ps := [.regs, .cmd, .host]) u c op st d at_ (Only.refl _ _) (by decide) (by decide) (by decide)
  refine ⟨?_, ?_, ho .mgt (by decide), ho .twn (by decide)⟩
  · unfold State.writeEntry
    dsimp only
    rw [(State.trace_other _ _ _ _ _).1]
    cases c.irq
    · rw [if_neg (by simp), (State.countStatus_other _ _).1]
      simp only [State.count, State.setRegN, State.setReg, State.modRing, State.hostWrite, State.cqSlot]
    · rw [if_pos rfl, (State.raise_other _ _).1, (State.countStatus_other _ _).1]
      simp only [State.count, State.setRegN, State.setReg, State.modRing, State.hostWrite, State.cqSlot]
  · unfold State.writeEntry
    dsimp only
    rw [State.ring, (State.trace_other _ _ _ _ _).2.1]
    cases c.irq
    · rw [if_neg (by simp), (State.countStatus_other _ _).2.1]
      simp [State.count, State.setRegN, State.setReg, State.modRing, State.hostWrite, vget, vset, State.ring, State.depth, State.reg, hr]
    · rw [if_pos rfl, (State.raise_other _ _).2.1, (State.countStatus_other _ _).2.1]
      simp [State.count, State.setRegN, State.setReg, State.modRing, State.hostWrite, vget, vset, State.ring, State.depth, State.reg, hr]

/-- What the answer of a COMMAND request changes: the request is done, and its response leaves in packets. -/
theorem State.mgtAnswer_effect (u : State) (m : MgtCmd) (bs : Bytes) (st : Status) :
    (u.mgtAnswer m bs st).host = u.host ∧ (u.mgtAnswer m bs st).mgt.cmd = none
      ∧ (u.mgtAnswer m bs st).mgt.sent
        = (u.mgtAnswer m bs st).mctpOut m.peer (mgtReply 0x10 m.reqId 0 (bs ++ u.mgt.tail)) ++ u.mgt.sent := by
  unfold State.mgtAnswer
  extract_lets s1 s2
  have h : ∀ v : State, (v.count .mgtAuthFailCnt).host = v.host ∧ (v.count .mgtAuthFailCnt).mgt = v.mgt
      ∧ (v.count .mgtAuthFailCnt).live = v.live := fun _ => ⟨rfl, rfl, rfl⟩
  have h2 : s2.host = u.host ∧ s2.mgt.cmd = none ∧ s2.live = u.live ∧ s2.mgt.eid = u.mgt.eid
      ∧ s2.mgt.sent = u.mctpOut m.peer (mgtReply 0x10 m.reqId 0 (bs ++ u.mgt.tail)) ++ u.mgt.sent := by
    simp only [s2, s1, State.mctpSend, State.count, State.setRegN, State.setReg, State.modMgt, and_self]
  clear_value s2
  obtain ⟨a, b, c, d, e⟩ := h2
  split
  · obtain ⟨f, g, i⟩ := h s2
    refine ⟨f.trans a, by rw [g]; exact b, ?_⟩
    rw [g, e]
    unfold State.mctpOut State.lv
    rw [i, g, c, d]
  · refine ⟨a, b, ?_⟩
    rw [e]
    unfold State.mctpOut State.lv
    rw [c, d]

/-- What two states must share for a completion in the one to be the answer of the other. -/
structure SameDesk (s u : State) : Prop where
  host : u.host = s.host
  cmd  : u.cmd = s.cmd
  mgt  : u.mgt.sent = s.mgt.sent ∧ u.mgt.cmd = s.mgt.cmd
  role : u.twn.role = s.twn.role
  pair : u.pair = s.pair
  base : ∀ r : Fin 129, u.reg .cmdCqBase r = s.reg .cmdCqBase r
  cfg  : ∀ r : Fin 129, u.reg .cmdRingCfg r = s.reg .cmdRingCfg r

theorem SameDesk.refl (s : State) : SameDesk s s := ⟨rfl, rfl, ⟨rfl, rfl⟩, rfl, rfl, fun _ => rfl, fun _ => rfl⟩

/-- A completion answers its command once. -/
theorem State.complete_answers {s u : State} (c : Src) (op : Nat) (st : Status) (d : Nat) (at_ : DWord)
    (hs : s.storesCanonical) (h : SameDesk s u) : Answered c op st d at_ s (u.complete c op st d at_) := by
  have hown : u.ownCommand c = s.ownCommand c := by simp only [State.ownCommand, h.cmd, h.mgt.2]
  have hring : ∀ r, u.ring r = s.ring r := fun r => by simp only [State.ring, h.cmd]
  unfold Answered State.complete
  rw [h.pair, hown]
  split
  · rename_i h1
    refine ⟨hostSame_of ?_, ?_, ?_⟩
    · exact h.host
    · exact h.mgt.1
    · rfl
  · split
    · rw [h.mgt.2]
      cases s.mgt.cmd.filter fun m => sameSrc m.cmd.src c with
      | none => exact ⟨hostSame_of h.host, h.mgt.1⟩
      | some m =>
        have e := u.mgtAnswer_effect m (cqEntry c op st d at_ 0 true) st
        exact ⟨hostSame_of (e.1.trans h.host), e.2.1, u.mgt.tail, by rw [← h.mgt.1]; exact e.2.2⟩
    · rename_i h1 h2
      have hr : c.ring.val < 128 := by omega
      have hw := State.writeEntry_effect (u.dropCommand c) c op st d at_ hr
      have e1 : (u.dropCommand c).cqSlot c.ring = s.cqSlot c.ring := by
        simp only [State.cqSlot]
        rw [show (u.dropCommand c).reg .cmdCqBase c.ring = s.reg .cmdCqBase c.ring from h.base c.ring,
          show (u.dropCommand c).ring c.ring = s.ring c.ring from hring c.ring]
      have e2 : (u.dropCommand c).ring c.ring = s.ring c.ring := hring c.ring
      have e3 : (u.dropCommand c).depth c.ring = s.depth c.ring := by
        simp only [State.depth]
        rw [show (u.dropCommand c).reg .cmdRingCfg c.ring = s.reg .cmdRingCfg c.ring from h.cfg c.ring]
      rw [e1, e2, e3, show (u.dropCommand c).host = s.host from h.host] at hw
      dsimp only
      split
      · exact ⟨hostTakes_memWrite hs.hostRise hw.1, hw.2.1⟩
      · exact ⟨hostTakes_memWrite hs.hostRise hw.1, hw.2.1⟩

end Sys2Proof.Machine
end

