-- ==== Sys2Proof/Laws/Keeps.lean ====
section
/-! SUPPORT. What every operation on the state keeps, said once: the queue of waiting commands, the course of time, what is burnt into
fuses, and soundness. `Keeps s0 s` relates the state before a command to any state on the way to the one after it; every operation has
one lemma here or in the files beside this one, and a command's lemma is the chain of those it is made of. -/

namespace Sys2Proof.Machine

/-- From `s0` to `s`, everything holds that no operation may break. -/
structure Keeps (s0 s : State) : Prop where
  queue  : s.pending = s0.pending
  time   : s0.now ≤ s.now
  rooted : s0.rooted s
  sound  : s0.Sound → s.Sound

variable {s0 s t : State}

theorem Keeps.refl (s : State) : Keeps s s := ⟨rfl, le_rfl, ⟨fun _ => le_rfl, rfl, le_rfl, rfl⟩, id⟩

theorem Keeps.trans {u : State} (h : Keeps s t) (h' : Keeps t u) : Keeps s u :=
  ⟨h'.queue.trans h.queue, h.time.trans h'.time,
    ⟨fun k => (h.rooted.gens k).trans (h'.rooted.gens k), h'.rooted.root.trans h.rooted.root, h.rooted.svn.trans h'.rooted.svn,
      h'.rooted.uid.trans h.rooted.uid⟩, fun x => h'.sound (h.sound x)⟩

/-! ### The parts of soundness -/

/-- Gate commands that only fall keep pairs safe. -/
theorem noShootThrough_of (h : s.noShootThrough) (hc : ∀ n, (t.chan n).gc = true → (s.chan n).gc = true) : t.noShootThrough := by
  intro n hn
  have h1 := h n (hc n hn)
  cases h2 : (t.chan (partner n)).gc with
  | false => rfl
  | true => rw [hc _ h2] at h1; exact h1

theorem chan_modChan (s : State) (n m : Nat) (f : Chan → Chan) :
    (s.modChan n f).chan m = if n = m ∧ n < 192 then f (s.chan m) else s.chan m := by
  simp only [State.modChan, State.chan, vget, vset]
  by_cases hn : n < 192
  · by_cases hm : m < 192
    · simp [Vector.getElem_setIfInBounds, hn, hm]
      split <;> simp_all
    · simp [hm, hn]
      intro h; omega
  · rw [show s.pwm.chans.setIfInBounds n (f (s.pwm.chans[n]?.getD { })) = s.pwm.chans by
      ext i hi; rw [Vector.getElem_setIfInBounds]; rw [if_neg (by omega)]]
    simp [hn]

/-! ### A state with parts of it replaced -/

/-- Replacing parts of a state keeps what they do not touch. -/
theorem keeps_mk {now free live regs bus eng waits meas sar pwm gdl trp saf clk nt eth cmd ops log sec stg acq dma dram host twn arb mgt} 
    (h : Keeps s0 s)
    (h_now : s.now ≤ now) (h_live : live = s.live) (h_regs : regs = s.regs) (h_sar : sar.queue = s.sar.queue)
    (h_pwm : pwm.chans = s.pwm.chans) (h_trp : trp.recs = s.trp.recs) (h_nt : nt.recs = s.nt.recs) (h_cmd : cmd.trace = s.cmd.trace)
    (h_stg : stg.stage = s.stg.stage) (h_dram : dram = s.dram) (h_host : host = s.host)
    (h_anchors : sec.anchors = s.sec.anchors) (h_svn : sec.svn = s.sec.svn) (h_uid : sec.uid = s.sec.uid) :
    Keeps s0 ⟨s.pending, now, free, live, regs, bus, eng, waits, meas, sar, pwm, gdl, trp, saf, clk, nt, eth, cmd, ops, log, sec, stg, acq, dma, dram, host, twn, arb, mgt⟩ := by
  refine h.trans ⟨rfl, h_now, ⟨fun k => ?_, ?_, ?_, ?_⟩, fun x => ⟨noShootThrough_of x.gates fun n hn => ?_, ?_, ?_, fun k => ?_⟩⟩
  · simp only [State.anchor, h_anchors, le_refl]
  · simp only [State.anchor, h_anchors]
  · simp only [h_svn, le_refl]
  · exact h_uid
  · simpa only [State.chan, h_pwm] using hn
  · simpa only [State.queuesBounded, h_trp, h_nt, h_sar, h_cmd] using x.queues
  · simpa only [State.storesCanonical, h_live, h_regs, h_host, h_dram, h_stg] using x.stores
  · simpa only [State.anchor, h_anchors] using x.fuses k

/-! ### Parts by number -/

theorem keeps_modEng (e : Nat) (f : Engine → Engine) (h : Keeps s0 s) : Keeps s0 (s.modEng e f) := by
  simp only [State.modEng, keeps_mk, le_refl, h]
theorem keeps_modTb (t : Nat) (f : Timebase → Timebase) (h : Keeps s0 s) : Keeps s0 (s.modTb t f) := by
  simp only [State.modTb, keeps_mk, le_refl, h]
theorem keeps_modZone (k : Nat) (f : Zone → Zone) (h : Keeps s0 s) : Keeps s0 (s.modZone k f) := by
  simp only [State.modZone, keeps_mk, le_refl, h]
theorem keeps_modGs (k : Nat) (f : GdlStack → GdlStack) (h : Keeps s0 s) : Keeps s0 (s.modGs k f) := by
  simp only [State.modGs, keeps_mk, le_refl, h]
theorem keeps_modDec (c : Nat) (f : DecChan → DecChan) (h : Keeps s0 s) : Keeps s0 (s.modDec c f) := by
  simp only [State.modDec, keeps_mk, le_refl, h]
theorem keeps_modAcq (u : Nat) (f : AcqUnit → AcqUnit) (h : Keeps s0 s) : Keeps s0 (s.modAcq u f) := by
  simp only [State.modAcq, keeps_mk, le_refl, h]
theorem keeps_modDma (n : Nat) (f : DmaChan → DmaChan) (h : Keeps s0 s) : Keeps s0 (s.modDma n f) := by
  simp only [State.modDma, keeps_mk, le_refl, h]
theorem keeps_modRing (r : Nat) (f : Ring → Ring) (h : Keeps s0 s) : Keeps s0 (s.modRing r f) := by
  simp only [State.modRing, keeps_mk, le_refl, h]
theorem keeps_modRep (r : Nat) (f : Replay → Replay) (h : Keeps s0 s) : Keeps s0 (s.modRep r f) := by
  simp only [State.modRep, keeps_mk, le_refl, h]
theorem keeps_modPort (p : Nat) (f : EthPort → EthPort) (h : Keeps s0 s) : Keeps s0 (s.modPort p f) := by
  simp only [State.modPort, keeps_mk, le_refl, h]
theorem keeps_modBus (f : BusState → BusState) (h : Keeps s0 s) : Keeps s0 (s.modBus f) := by
  simp only [State.modBus, keeps_mk, le_refl, h]
theorem keeps_modClk (f : ClkState → ClkState) (h : Keeps s0 s) : Keeps s0 (s.modClk f) := by
  simp only [State.modClk, keeps_mk, le_refl, h]
theorem keeps_modOps (f : OpsState → OpsState) (h : Keeps s0 s) : Keeps s0 (s.modOps f) := by
  simp only [State.modOps, keeps_mk, le_refl, h]
theorem keeps_modSaf (f : SafState → SafState) (h : Keeps s0 s) : Keeps s0 (s.modSaf f) := by
  simp only [State.modSaf, keeps_mk, le_refl, h]
theorem keeps_modTwn (f : TwnState → TwnState) (h : Keeps s0 s) : Keeps s0 (s.modTwn f) := by
  simp only [State.modTwn, keeps_mk, le_refl, h]
theorem keeps_modNt (f : NtState → NtState) (h : Keeps s0 s) (hf : (f s.nt).recs = s.nt.recs) : Keeps s0 (s.modNt f) := by
  simp only [State.modNt, keeps_mk, le_refl, h, hf]
theorem keeps_modStg (f : StgState → StgState) (h : Keeps s0 s) (hf : (f s.stg).stage = s.stg.stage) : Keeps s0 (s.modStg f) := by
  simp only [State.modStg, keeps_mk, le_refl, h, hf]
theorem keeps_modCmd (f : CmdState → CmdState) (h : Keeps s0 s) (hf : (f s.cmd).trace = s.cmd.trace) : Keeps s0 (s.modCmd f) := by
  simp only [State.modCmd, keeps_mk, le_refl, h, hf]
theorem keeps_modMgt (f : MgtState → MgtState) (h : Keeps s0 s) : Keeps s0 (s.modMgt f) := by
  simp only [State.modMgt, keeps_mk, le_refl, h]
theorem keeps_modSar (f : SarState → SarState) (h : Keeps s0 s) (hf : (f s.sar).queue = s.sar.queue) : Keeps s0 (s.modSar f) := by
  simp only [State.modSar, keeps_mk, le_refl, h, hf]
theorem keeps_modSec (f : SecState → SecState) (h : Keeps s0 s) (h1 : (f s.sec).anchors = s.sec.anchors)
    (h2 : (f s.sec).svn = s.sec.svn) (h3 : (f s.sec).uid = s.sec.uid) : Keeps s0 (s.modSec f) := by
  simp only [State.modSec, keeps_mk, le_refl, h, h1, h2, h3]

/-- A change of a channel that does not raise its gate command. -/
theorem keeps_modChan (n : Nat) (f : Chan → Chan) (h : Keeps s0 s) (hf : ∀ c, (f c).gc = true → c.gc = true) :
    Keeps s0 (s.modChan n f) := by
  refine h.trans ⟨rfl, le_rfl, ⟨fun _ => le_rfl, rfl, le_rfl, rfl⟩, fun x => ⟨noShootThrough_of x.gates fun m hm => ?_, x.queues, x.stores, x.fuses⟩⟩
  rw [chan_modChan] at hm
  split at hm
  · exact hf _ hm
  · exact hm

/-! ### Control -/

theorem keeps_ite {c : Prop} [Decidable c] {a b : State} (ha : Keeps s0 a) (hb : Keeps s0 b) : Keeps s0 (if c then a else b) := by
  split <;> assumption

theorem keeps_foldl {α : Type} (l : List α) (f : State → α → State) (hf : ∀ u a, Keeps s0 u → Keeps s0 (f u a)) (h : Keeps s0 s) :
    Keeps s0 (l.foldl f s) := by
  induction l generalizing s with
  | nil => exact h
  | cons a l ih => exact ih (hf _ _ h)

theorem keeps_forNums (l : List Nat) (f : Nat → State → State) (hf : ∀ i u, Keeps s0 u → Keeps s0 (f i u)) (h : Keeps s0 s) :
    Keeps s0 (forNums l f s) := keeps_foldl l _ (fun u a => hf a u) h

/-! ### Registers, time and memory -/

theorem keeps_setReg (r : Reg) (i j : Nat) (v : DWord) (h : Keeps s0 s) : Keeps s0 (s.setReg r i j v) := by
  refine h.trans ⟨rfl, le_rfl, ⟨fun _ => le_rfl, rfl, le_rfl, rfl⟩, fun x => ⟨x.gates, x.queues, ?_, x.fuses⟩⟩
  obtain ⟨a, b, d, e, f⟩ := x.stores
  exact ⟨a, b, d, cellsRise_write e, f⟩
theorem keeps_setRegN (r : Reg) (i j v : Nat) (h : Keeps s0 s) : Keeps s0 (s.setRegN r i j v) := keeps_setReg _ _ _ _ h
theorem keeps_setFlag (r : Reg) (i n : Nat) (h : Keeps s0 s) : Keeps s0 (s.setFlag r i n) := keeps_setReg _ _ _ _ h
theorem keeps_count (r : Reg) (i n : Nat) (h : Keeps s0 s) : Keeps s0 (s.count r i n) := keeps_setReg _ _ _ _ h
theorem keeps_countWrap (r : Reg) (i : Nat) (h : Keeps s0 s) : Keeps s0 (s.countWrap r i) := keeps_setReg _ _ _ _ h
theorem keeps_keepMax (r : Reg) (i v : Nat) (h : Keeps s0 s) : Keeps s0 (s.keepMax r i v) := keeps_setReg _ _ _ _ h
theorem NtState.withClock_recs (c : NtState) (sec : BitVec 48) (ns : Nat) (frac : Word) (phase : Nat) :
    ({ c with sec := sec, ns := ns, frac := frac, phase := phase }).recs = c.recs := rfl
theorem NtState.elapse_recs (c : NtState) (i t : Nat) : (c.elapse i t).recs = c.recs := by
  unfold NtState.elapse NtState.run
  exact NtState.withClock_recs _ _ _ _ _
theorem keeps_advanceTo (n : Nat) (h : Keeps s0 s) : Keeps s0 (s.advanceTo n) := by
  unfold State.advanceTo
  split
  · exact h
  · rename_i hn
    simp only [keeps_mk, h, (Nat.lt_of_not_le hn).le, NtState.elapse_recs]
theorem keeps_toTick (h : Keeps s0 s) : Keeps s0 s.toTick := keeps_advanceTo _ h
theorem keeps_draw (h : Keeps s0 s) : Keeps s0 s.draw.2 := by
  simp only [State.draw, keeps_mk, le_refl, h]
theorem keeps_hostWrite (a : Nat) (bs : Bytes) (h : Keeps s0 s) : Keeps s0 (s.hostWrite a bs) := by
  refine h.trans ⟨rfl, le_rfl, ⟨fun _ => le_rfl, rfl, le_rfl, rfl⟩, fun x => ⟨x.gates, x.queues, ?_, x.fuses⟩⟩
  obtain ⟨a, b⟩ := x.stores
  exact ⟨cellsWf_memWrite _ _ _ a, b⟩
theorem keeps_dramWrite (a : Nat) (bs : Bytes) (h : Keeps s0 s) : Keeps s0 { s with dram := memWrite s.dram a bs } := by
  refine h.trans ⟨rfl, le_rfl, ⟨fun _ => le_rfl, rfl, le_rfl, rfl⟩, fun x => ⟨x.gates, x.queues, ?_, x.fuses⟩⟩
  obtain ⟨a, b, d⟩ := x.stores
  exact ⟨a, cellsWf_memWrite _ _ _ b, d⟩

/-- A change of a record queue within its depth. -/
theorem keeps_trp (x : TrpState) (h : Keeps s0 s) (hx : s.trp.recs.length ≤ 64 → x.recs.length ≤ 64) :
    Keeps s0 { s with trp := x } :=
  h.trans ⟨rfl, le_rfl, ⟨fun _ => le_rfl, rfl, le_rfl, rfl⟩, fun y => ⟨y.gates, ⟨hx y.queues.1, y.queues.2⟩, y.stores, y.fuses⟩⟩
theorem keeps_ntRecs (x : NtState) (h : Keeps s0 s) (hx : s.nt.recs.length ≤ 64 → x.recs.length ≤ 64) :
    Keeps s0 { s with nt := x } :=
  h.trans ⟨rfl, le_rfl, ⟨fun _ => le_rfl, rfl, le_rfl, rfl⟩,
    fun y => ⟨y.gates, ⟨y.queues.1, hx y.queues.2.1, y.queues.2.2⟩, y.stores, y.fuses⟩⟩
theorem keeps_sarQueue (x : SarState) (h : Keeps s0 s) (hx : s.sar.queue.length ≤ 64 → x.queue.length ≤ 64) :
    Keeps s0 { s with sar := x } :=
  h.trans ⟨rfl, le_rfl, ⟨fun _ => le_rfl, rfl, le_rfl, rfl⟩,
    fun y => ⟨y.gates, ⟨y.queues.1, y.queues.2.1, hx y.queues.2.2.1, y.queues.2.2.2⟩, y.stores, y.fuses⟩⟩
theorem keeps_traceQueue (x : CmdState) (h : Keeps s0 s) (hx : s.cmd.trace.length ≤ 256 → x.trace.length ≤ 256) :
    Keeps s0 { s with cmd := x } :=
  h.trans ⟨rfl, le_rfl, ⟨fun _ => le_rfl, rfl, le_rfl, rfl⟩,
    fun y => ⟨y.gates, ⟨y.queues.1, y.queues.2.1, y.queues.2.2.1, hx y.queues.2.2.2⟩, y.stores, y.fuses⟩⟩

/-- A change of the staged, or of the live, register file that lists its registers in order. -/
theorem keeps_stage (x : StgState) (h : Keeps s0 s) (hx : cellsRise s.stg.stage → cellsRise x.stage) : Keeps s0 { s with stg := x } :=
  h.trans ⟨rfl, le_rfl, ⟨fun _ => le_rfl, rfl, le_rfl, rfl⟩, fun z =>
    have ⟨a, b, d, e, f⟩ := z.stores
    ⟨z.gates, z.queues, ⟨a, b, d, e, hx f⟩, z.fuses⟩⟩
theorem keeps_live (x : RegFile) (h : Keeps s0 s) (hx : s.storesCanonical → cellsRise x) : Keeps s0 { s with live := x } :=
  h.trans ⟨rfl, le_rfl, ⟨fun _ => le_rfl, rfl, le_rfl, rfl⟩, fun z =>
    have ⟨a, b, _, e⟩ := z.stores
    ⟨z.gates, z.queues, ⟨a, b, hx z.stores, e⟩, z.fuses⟩⟩
theorem keeps_regs (x : RegFile) (h : Keeps s0 s) (hx : cellsRise s.regs → cellsRise x) : Keeps s0 { s with regs := x } :=
  h.trans ⟨rfl, le_rfl, ⟨fun _ => le_rfl, rfl, le_rfl, rfl⟩, fun z =>
    have ⟨a, b, d, e, f⟩ := z.stores
    ⟨z.gates, z.queues, ⟨a, b, d, hx e, f⟩, z.fuses⟩⟩

/-! The same through the functions that change one part. -/

theorem keeps_modNtRecs (f : NtState → NtState) (h : Keeps s0 s) (hx : s.nt.recs.length ≤ 64 → (f s.nt).recs.length ≤ 64) :
    Keeps s0 (s.modNt f) := keeps_ntRecs _ h hx
theorem keeps_modSarQueue (f : SarState → SarState) (h : Keeps s0 s) (hx : s.sar.queue.length ≤ 64 → (f s.sar).queue.length ≤ 64) :
    Keeps s0 (s.modSar f) := keeps_sarQueue _ h hx
theorem keeps_modCmdTrace (f : CmdState → CmdState) (h : Keeps s0 s) (hx : s.cmd.trace.length ≤ 256 → (f s.cmd).trace.length ≤ 256) :
    Keeps s0 (s.modCmd f) := keeps_traceQueue _ h hx
theorem keeps_modStgStage (f : StgState → StgState) (h : Keeps s0 s) (hx : cellsRise s.stg.stage → cellsRise (f s.stg).stage) :
    Keeps s0 (s.modStg f) := keeps_stage _ h hx
/-- A write to the DRAM that takes free values with it. -/
theorem keeps_dramFree (n a : Nat) (bs : Bytes) (h : Keeps s0 s) : Keeps s0 { s with free := n, dram := memWrite s.dram a bs } :=
  (keeps_dramWrite a bs h).trans ⟨rfl, le_rfl, ⟨fun _ => le_rfl, rfl, le_rfl, rfl⟩, fun z => ⟨z.gates, z.queues, z.stores, z.fuses⟩⟩

end Sys2Proof.Machine
end

