-- ==== Sys2Proof/Laws/KeepsOps.lean ====
section
/-! SUPPORT. What the operations and meanings of Machine/Ops.lean keep: one lemma each, in the form of `Keeps`. -/

set_option maxRecDepth 4000

namespace Sys2Proof.Machine

theorem keeps_logPut {s0 : State} (s : State) (r : LogRec) (h : Keeps s0 s) :
    Keeps s0 (State.logPut s r) := by
  unfold State.logPut
  simp (maxDischargeDepth := 200) +contextual only [keeps_count, keeps_ite, keeps_mk, le_refl, h]

theorem keeps_accessErr {s0 : State} (s : State) (cause : Nat) (write : Bool) (off : Nat) (h : Keeps s0 s) :
    Keeps s0 (State.accessErr s cause write off) := by
  unfold State.accessErr
  simp (maxDischargeDepth := 200) only [keeps_count, keeps_setRegN, h]

theorem keeps_busyStop {s0 : State} (s : State) (h : Keeps s0 s) :
    Keeps s0 (State.busyStop s) := by
  unfold State.busyStop
  simp (maxDischargeDepth := 200) only [keeps_count, h]

theorem keeps_remember {s0 : State} (s : State) (src : Src) (st : Status) (at_ : DWord) (h : Keeps s0 s) :
    Keeps s0 (State.remember s src st at_) := by
  unfold State.remember
  simp (maxDischargeDepth := 200) only [keeps_modTwn, h]

theorem keeps_mctpSend {s0 : State} (s : State) (peer : MctpPeer) (bs : Bytes) (h : Keeps s0 s) :
    Keeps s0 (State.mctpSend s peer bs) := by
  unfold State.mctpSend
  simp (maxDischargeDepth := 200) +contextual only [keeps_modMgt, h]

theorem keeps_mgtAnswer {s0 : State} (s : State) (c : MgtCmd) (entry : Bytes) (st : Status) (h : Keeps s0 s) :
    Keeps s0 (State.mgtAnswer s c entry st) := by
  unfold State.mgtAnswer
  simp (maxDischargeDepth := 200) +contextual only [keeps_count, keeps_mctpSend, keeps_modMgt, keeps_ite, h]

theorem keeps_tracePut {s0 : State} (s : State) (x : DWord) (g : CmdState → Nat) (h : Keeps s0 s) :
    Keeps s0 (if s.cmd.trace.length < 256 then s.modCmd fun c => { c with trace := c.trace ++ [x], traceSince := g c }
      else (s.count .schTraceLost).modCmd fun c => { c with traceGap := c.traceGap + 1 }) := by
  split
  · exact keeps_modCmdTrace _ h fun _ => by simp only [List.length_append, List.length_singleton]; omega
  · exact keeps_modCmd _ (keeps_count _ _ _ h) rfl

theorem keeps_traceGap {s0 : State} (s : State) (x : CmdState → DWord) (g : CmdState → Nat) (h : Keeps s0 s) (hl : s.cmd.trace.length < 256) :
    Keeps s0 (s.modCmd fun c => { c with trace := c.trace ++ [x c], traceGap := 0, traceSince := g c }) :=
  keeps_modCmdTrace _ h fun _ => by simp only [List.length_append, List.length_singleton]; omega

theorem keeps_trace {s0 : State} (s : State) (event unit ring : Nat) (seq : DWord) (h : Keeps s0 s) :
    Keeps s0 (s.trace event unit ring seq) := by
  unfold State.trace
  extract_lets s1
  have h1 : Keeps s0 s1 := by
    unfold s1
    split
    · rename_i hc
      exact keeps_traceGap s (fun c => traceRec s.nt64 0xB 0 7 0 (min c.traceGap 0x1FFF)) _ h hc.2
    · exact h
  clear_value s1
  exact keeps_ite (keeps_tracePut _ _ _ h1) h

theorem keeps_raise {s0 : State} (s : State) (v : Nat) (h : Keeps s0 s) :
    Keeps s0 (State.raise s v) := by
  unfold State.raise
  simp (maxDischargeDepth := 200) +contextual only [keeps_modCmd, keeps_ite, h]

theorem keeps_countStatus {s0 : State} (s : State) (x1 : Status) (h : Keeps s0 s) :
    Keeps s0 (State.countStatus s x1) := by
  unfold State.countStatus
  split <;> simp (maxDischargeDepth := 200) only [keeps_count, h]

theorem keeps_writeEntry {s0 : State} (s : State) (src : Src) (opcode : Nat) (st : Status) (detail : Nat) (at_ : DWord) (h : Keeps s0 s) :
    Keeps s0 (State.writeEntry s src opcode st detail at_) := by
  unfold State.writeEntry
  simp (maxDischargeDepth := 200) only [keeps_count, keeps_countStatus, keeps_hostWrite, keeps_modRing, keeps_raise, keeps_trace, keeps_ite, h]

theorem keeps_dropCommand {s0 : State} (s : State) (src : Src) (h : Keeps s0 s) :
    Keeps s0 (State.dropCommand s src) := by
  unfold State.dropCommand
  simp (maxDischargeDepth := 200) only [keeps_modCmd, h]

theorem keeps_complete {s0 : State} (s : State) (src : Src) (opcode : Nat) (st : Status) (detail : Nat) (at_ : DWord) (h : Keeps s0 s) :
    Keeps s0 (State.complete s src opcode st detail at_) := by
  unfold State.complete
  dsimp only
  repeat' split
  all_goals simp (maxDischargeDepth := 200) +contextual only [keeps_dropCommand, keeps_mgtAnswer, keeps_remember, keeps_writeEntry, h]

theorem keeps_done {s0 : State} (s : State) (src : Src) (opcode : Nat) (detail : optParam Nat 0) (h : Keeps s0 s) :
    Keeps s0 (State.done s src opcode detail) := by
  unfold State.done
  simp (maxDischargeDepth := 200) only [keeps_complete, h]

theorem keeps_notify {s0 : State} (s : State) (h : Keeps s0 s) :
    Keeps s0 (State.notify s) := by
  unfold State.notify
  simp (maxDischargeDepth := 200) only [keeps_modMgt, h]

theorem keeps_note {s0 : State} (s : State) (source : Nat) (type : Nat) (detail : Nat) (body : Bytes) (h : Keeps s0 s) :
    Keeps s0 (State.note s source type detail body) := by
  unfold State.note
  simp (maxDischargeDepth := 200) +contextual only [keeps_logPut, h]

theorem keeps_logFlag {s0 : State} (s : State) (source : Nat) (n : Nat) (value : DWord) (h : Keeps s0 s) :
    Keeps s0 (State.logFlag s source n value) := by
  unfold State.logFlag
  simp (maxDischargeDepth := 200) +contextual only [keeps_note, h]

theorem keeps_refuse {s0 : State} (s : State) (src : Src) (opcode : Nat) (st : Status) (detail : Nat) (h : Keeps s0 s) :
    Keeps s0 (State.refuse s src opcode st detail) := by
  unfold State.refuse
  simp (maxDischargeDepth := 200) only [keeps_complete, h]

theorem keeps_unlessHalted {s0 : State} (s : State) (c : Src) (op : Nat) (t : State) (h : Keeps s0 s) (h3 : Keeps s0 t) :
    Keeps s0 (State.unlessHalted s c op t) := by
  unfold State.unlessHalted
  simp (maxDischargeDepth := 200) only [keeps_refuse, keeps_ite, h, h3]

theorem keeps_logFlush {s0 : State} (s : State) (h : Keeps s0 s) :
    Keeps s0 (State.logFlush s) := by
  unfold State.logFlush
  simp (maxDischargeDepth := 200) only [keeps_mk, le_refl, h]

theorem keeps_nandTurn {s0 : State} (s : State) (h : Keeps s0 s) :
    Keeps s0 (State.nandTurn s) := by
  unfold State.nandTurn
  simp (maxDischargeDepth := 200) +contextual only [keeps_logFlush, keeps_ite, h]

theorem keeps_took {s0 : State} (s : State) (c : Src) (done : Bool) (h : Keeps s0 s) :
    Keeps s0 (State.took s c done) := by
  unfold State.took
  simp (maxDischargeDepth := 200) only [keeps_modMgt, keeps_modCmd, keeps_ite, h]

theorem keeps_acting {s0 : State} (s : State) (c : Src) (op : Nat) (p : Bytes) (f : State → State) (hf : ∀ u, Keeps s0 u → Keeps s0 (f u))
    (h : Keeps s0 s) : Keeps s0 (State.acting s c op p f) := by
  unfold State.acting
  split
  · exact hf _ (keeps_took _ _ _ h)
  · exact h

theorem keeps_obey {s0 : State} (s : State) (c : Src) (op : Nat) (p : Bytes) (f : State → State) (hf : ∀ u, Keeps s0 u → Keeps s0 (f u))
    (h : Keeps s0 s) : Keeps s0 (State.obey s c op p f) :=
  keeps_acting s c op p _ (fun u hu => keeps_unlessHalted u c op (f u) hu (hf u hu)) h

theorem keeps_markBp {s0 : State} (s : State) (l : Nat) (on : Bool) (h : Keeps s0 s) :
    Keeps s0 (State.markBp s l on) := by
  unfold State.markBp
  simp (maxDischargeDepth := 200) +contextual only [keeps_modRing, keeps_forNums, h, implies_true]

theorem keeps_backPressure {s0 : State} (s : State) (l : Nat) (ring : Nat) (seq : DWord) (h : Keeps s0 s) :
    Keeps s0 (State.backPressure s l ring seq) := by
  unfold State.backPressure
  simp (maxDischargeDepth := 200) only [keeps_count, keeps_markBp, keeps_modCmd, keeps_trace, keeps_ite, h]

end Sys2Proof.Machine
end

