-- ==== Sys2Proof/Laws/KeepsOutputs.lean ====
section
/-! SUPPORT. What the operations and meanings of Machine/Outputs.lean keep: one lemma each, in the form of `Keeps`. -/

set_option maxRecDepth 4000

namespace Sys2Proof.Machine

theorem keeps_pullFlag {s0 : State} (s : State) (k : Nat) (acts : Bool) (h : Keeps s0 s) :
    Keeps s0 (State.pullFlag s k acts) := by
  unfold State.pullFlag
  simp (maxDischargeDepth := 200) +contextual only [keeps_modZone, keeps_ite, h]

theorem keeps_overlapsGone {s0 : State} (s : State) (off : Nat → Bool) (l : List Nat) (h : Keeps s0 s) :
    Keeps s0 (State.overlapsGone s off l) := by
  unfold State.overlapsGone
  simp (maxDischargeDepth := 200) +contextual only [keeps_forNums, keeps_mk, le_refl, h, implies_true]

theorem keeps_innerLater {s0 : State} (s : State) (n : Nat) (at_ : Nat) (one : Bool) (h : Keeps s0 s) :
    Keeps s0 (State.innerLater s n at_ one) := by
  unfold State.innerLater
  simp (maxDischargeDepth := 200) +contextual only [keeps_modChan, h, implies_true]

theorem keeps_askRise {s0 : State} (s : State) (n : Nat) (at_ : Nat) (h : Keeps s0 s) :
    Keeps s0 (State.askRise s n at_) := by
  unfold State.askRise
  simp (maxDischargeDepth := 200) +contextual only [keeps_modChan, keeps_modGs, keeps_modZone, keeps_ite, h, implies_true]

theorem keeps_riseAgain {s0 : State} (s : State) (n : Nat) (at_ : Nat) (h : Keeps s0 s) :
    Keeps s0 (State.riseAgain s n at_) := by
  unfold State.riseAgain
  simp (maxDischargeDepth := 200) +contextual only [keeps_askRise, keeps_ite, h]

theorem keeps_endOverlap {s0 : State} (s : State) (n : Nat) (at_ : Nat) (h : Keeps s0 s) :
    Keeps s0 (State.endOverlap s n at_) := by
  unfold State.endOverlap
  simp (maxDischargeDepth := 200) only [keeps_askRise, keeps_count, keeps_modChan, keeps_ite, keeps_mk, le_refl, h, implies_true, imp_self]

theorem keeps_gcFall {s0 : State} (s : State) (n : Nat) (at_ : Nat) (h : Keeps s0 s) :
    Keeps s0 (State.gcFall s n at_) := by
  unfold State.gcFall
  simp (maxDischargeDepth := 200) only [keeps_modChan, keeps_ite, h, implies_true, Bool.false_eq_true, false_implies]

theorem keeps_chanOff {s0 : State} (s : State) (n : Nat) (at_ : Nat) (h : Keeps s0 s) :
    Keeps s0 (State.chanOff s n at_) := by
  unfold State.chanOff
  simp (maxDischargeDepth := 200) only [keeps_gcFall, keeps_modChan, h, implies_true, imp_self]

theorem keeps_lvlOff {s0 : State} (s : State) (n : Nat) (at_ : Nat) (h : Keeps s0 s) :
    Keeps s0 (State.lvlOff s n at_) := by
  unfold State.lvlOff
  simp (maxDischargeDepth := 200) only [keeps_chanOff, keeps_endOverlap, keeps_modChan, keeps_ite, h, implies_true, imp_self]

theorem keeps_forceLow {s0 : State} (s : State) (n : Nat) (at_ : Nat) (h : Keeps s0 s) :
    Keeps s0 (State.forceLow s n at_) := by
  unfold State.forceLow
  simp (maxDischargeDepth := 200) only [keeps_lvlOff, keeps_modChan, h, implies_true, imp_self]

theorem keeps_forceLows {s0 : State} (s : State) (l : List Nat) (at_ : Nat) (h : Keeps s0 s) :
    Keeps s0 (State.forceLows s l at_) := by
  unfold State.forceLows
  simp (maxDischargeDepth := 200) +contextual only [keeps_forceLow, keeps_overlapsGone, keeps_forNums, h, implies_true]

theorem keeps_turnOffChan {s0 : State} (s : State) (n : Nat) (at_ : Nat) (one : Bool) (h : Keeps s0 s) :
    Keeps s0 (State.turnOffChan s n at_ one) := by
  unfold State.turnOffChan
  simp (maxDischargeDepth := 200) +contextual only [keeps_forceLow, keeps_gcFall, keeps_innerLater, keeps_modChan, keeps_ite, h, implies_true]

theorem keeps_beginChanOff {s0 : State} (s : State) (k : Nat) (mask : Nat) (at_ : Nat) (h : Keeps s0 s) :
    Keeps s0 (State.beginChanOff s k mask at_) := by
  unfold State.beginChanOff
  simp (maxDischargeDepth := 200) +contextual only [keeps_turnOffChan, keeps_forNums, h, implies_true]

theorem keeps_beginOverlap {s0 : State} (s : State) (n : Nat) (at_ : Nat) (h : Keeps s0 s) :
    Keeps s0 (State.beginOverlap s n at_) := by
  unfold State.beginOverlap
  simp (maxDischargeDepth := 200) only [keeps_chanOff, keeps_count, keeps_setFlag, keeps_mk, le_refl, h]

theorem keeps_beginTurnOff {s0 : State} (s : State) (k : Nat) (at_ : Nat) (one : Bool) (h : Keeps s0 s) :
    Keeps s0 (State.beginTurnOff s k at_ one) := by
  unfold State.beginTurnOff
  simp (maxDischargeDepth := 200) +contextual only [keeps_turnOffChan, keeps_forNums, h, implies_true]

theorem keeps_beginTurnOffAll {s0 : State} (s : State) (one : Bool) (h : Keeps s0 s) :
    Keeps s0 (State.beginTurnOffAll s one) := by
  unfold State.beginTurnOffAll
  simp (maxDischargeDepth := 200) +contextual only [keeps_beginTurnOff, keeps_forNums, h, implies_true]

theorem keeps_tryRise {s0 : State} (s : State) (n at_ : Nat) (h : Keeps s0 s) : Keeps s0 (s.tryRise n at_) := by
  unfold State.tryRise
  split
  · rename_i hc
    have hp : (s.chan (partner n)).gc = false := by
      simp only [State.mayRise, Bool.and_eq_true, Bool.not_eq_true'] at hc
      exact hc.2.1.1.2
    have hne : partner n ≠ n := by unfold partner; split <;> omega
    have hpp : partner (partner n) = n := by unfold partner; split <;> split <;> omega
    refine keeps_modGs _ _ (h.trans ⟨rfl, le_rfl, ⟨fun _ => le_rfl, rfl, le_rfl, rfl⟩, fun x => ⟨?_, x.queues, x.stores, x.fuses⟩⟩)
    intro m hm
    rw [chan_modChan] at hm ⊢
    by_cases h1 : n = m
    · subst h1
      rw [if_neg (by omega), hp]
    · rw [if_neg (by omega)] at hm
      by_cases h2 : n = partner m
      · have : partner n = m := by
          rw [h2]; unfold partner; split <;> split <;> omega
        rw [this, hm] at hp
        exact absurd hp (by simp)
      · rw [if_neg (by omega)]
        exact x.gates m hm
  · exact h

theorem keeps_expireWait {s0 : State} (s : State) (n : Nat) (h : Keeps s0 s) :
    Keeps s0 (State.expireWait s n) := by
  unfold State.expireWait
  split <;> simp (maxDischargeDepth := 200) +contextual only [keeps_modChan, keeps_tryRise, keeps_ite, h, implies_true]

theorem keeps_fallingEdge {s0 : State} (s : State) (n : Nat) (h : Keeps s0 s) :
    Keeps s0 (State.fallingEdge s n) := by
  unfold State.fallingEdge
  dsimp only
  repeat' split
  all_goals simp (maxDischargeDepth := 200) +contextual only [keeps_count, keeps_lvlOff, keeps_modChan, h, implies_true]

theorem keeps_innerOff {s0 : State} (s : State) (k : Nat) (h : Keeps s0 s) : Keeps s0 (s.innerOff k) := by
  unfold State.innerOff
  extract_lets s1
  have h1 : Keeps s0 s1 := by
    refine keeps_forNums _ _ (fun n u hu => ?_) h
    split <;> simp (maxDischargeDepth := 200) only [keeps_ite, keeps_modChan, keeps_forceLow, keeps_gcFall, hu, imp_self, implies_true]
  exact keeps_ite h1 (keeps_modZone _ _ h1)

theorem keeps_lvlOn {s0 : State} (s : State) (n : Nat) (at_ : Nat) (h : Keeps s0 s) :
    Keeps s0 (State.lvlOn s n at_) := by
  unfold State.lvlOn
  simp (maxDischargeDepth := 200) only [keeps_askRise, keeps_beginOverlap, keeps_modChan, keeps_ite, h, implies_true, imp_self]

theorem keeps_pullChan {s0 : State} (s : State) (n : Nat) (h : Keeps s0 s) :
    Keeps s0 (State.pullChan s n) := by
  unfold State.pullChan
  simp (maxDischargeDepth := 200) only [keeps_chanOff, keeps_modChan, keeps_ite, h, implies_true, imp_self]

theorem keeps_pullEdges {s0 : State} (s : State) (k : Nat) (mask : Nat) (h : Keeps s0 s) :
    Keeps s0 (State.pullEdges s k mask) := by
  unfold State.pullEdges
  simp (maxDischargeDepth := 200) +contextual only [keeps_pullChan, keeps_forNums, keeps_ite, h, implies_true]

theorem keeps_pullPhases {s0 : State} (s : State) (k : Nat) (mask : Nat) (h : Keeps s0 s) :
    Keeps s0 (State.pullPhases s k mask) := by
  unfold State.pullPhases
  simp (maxDischargeDepth := 200) +contextual only [keeps_pullEdges, keeps_pullFlag, h]

theorem keeps_risingEdge {s0 : State} (s : State) (n : Nat) (h : Keeps s0 s) :
    Keeps s0 (State.risingEdge s n) := by
  unfold State.risingEdge
  dsimp only
  repeat' split
  all_goals simp (maxDischargeDepth := 200) +contextual only [keeps_count, keeps_lvlOn, keeps_modChan, keeps_riseAgain, h, implies_true]

end Sys2Proof.Machine
end

