-- ==== Sys2Proof/Laws/KeepsTriggers.lean ====
section
/-! SUPPORT. What the operations and meanings of Machine/Triggers.lean keep: one lemma each, in the form of `Keeps`. -/

set_option maxRecDepth 4000

namespace Sys2Proof.Machine

theorem keeps_acqResolve {s0 : State} (s : State) (u : Nat) (n : Nat) (nt : DWord) (h : Keeps s0 s) :
    Keeps s0 (State.acqResolve s u n nt) := by
  unfold State.acqResolve
  simp (maxDischargeDepth := 200) +contextual only [keeps_count, keeps_modAcq, keeps_ite, h]

theorem keeps_transmit {s0 : State} (s : State) (k : Nat) (new : List LinkChar) (insert : Bool) (h : Keeps s0 s) :
    Keeps s0 (State.transmit s k new insert) := by
  unfold State.transmit
  simp (maxDischargeDepth := 200) +contextual only [keeps_modGs, h]

theorem keeps_ptmAsk {s0 : State} (s : State) (cause : Nat) (trigNt : DWord) (detail : Nat) (asked : optParam Bool false) (h : Keeps s0 s) :
    Keeps s0 (State.ptmAsk s cause trigNt detail asked) := by
  unfold State.ptmAsk
  simp (maxDischargeDepth := 200) only [keeps_count, keeps_modNt, keeps_ite, h]

theorem keeps_acqTrig {s0 : State} (s : State) (u : Nat) (bit : Nat) (nt : DWord) (detail : Nat) (h : Keeps s0 s) :
    Keeps s0 (State.acqTrig s u bit nt detail) := by
  unfold State.acqTrig
  simp (maxDischargeDepth := 200) only [keeps_count, keeps_modAcq, keeps_ptmAsk, keeps_ite, h]

theorem keeps_acqOffer {s0 : State} (s : State) (bit : Nat) (nt : DWord) (detail : Nat) (p : Nat → Bool) (h : Keeps s0 s) :
    Keeps s0 (State.acqOffer s bit nt detail p) := by
  unfold State.acqOffer
  simp (maxDischargeDepth := 200) +contextual only [keeps_acqTrig, keeps_forNums, h, implies_true]

theorem keeps_acqTrigMask {s0 : State} (s : State) (mask : Nat) (bit : Nat) (nt : DWord) (detail : Nat) (h : Keeps s0 s) :
    Keeps s0 (State.acqTrigMask s mask bit nt detail) := by
  unfold State.acqTrigMask
  simp (maxDischargeDepth := 200) +contextual only [keeps_acqTrig, keeps_forNums, h, implies_true]

theorem keeps_askPullFrame {s0 : State} (s : State) (k : Nat) (phases : Nat) (h : Keeps s0 s) :
    Keeps s0 (State.askPullFrame s k phases) := by
  unfold State.askPullFrame
  simp (maxDischargeDepth := 200) only [keeps_modGs, keeps_ite, h]

theorem keeps_sendLink {s0 : State} (s : State) (k : Nat) (frame : Bytes) (insert : Bool) (h : Keeps s0 s) :
    Keeps s0 (State.sendLink s k frame insert) := by
  unfold State.sendLink
  simp (maxDischargeDepth := 200) +contextual only [keeps_modGs, keeps_transmit, h]

theorem keeps_sendTrip {s0 : State} (s : State) (k : Nat) (h : Keeps s0 s) :
    Keeps s0 (State.sendTrip s k) := by
  unfold State.sendTrip
  simp (maxDischargeDepth := 200) +contextual only [keeps_sendLink, keeps_ite, h]

theorem insertRec_length (r : TripRec) (l : List TripRec) : (insertRec r l).length = l.length + 1 := by
  induction l with
  | nil => rfl
  | cons x l ih => simp only [insertRec]; split <;> simp [ih]

/-- A change of the trip records and of the event log together. -/
theorem keeps_trpLog {s0 s : State} (x : TrpState) (l : LogState) (h : Keeps s0 s) (hx : x.recs.length = s.trp.recs.length) :
    Keeps s0 { s with trp := x, log := l } :=
  h.trans ⟨rfl, le_rfl, ⟨fun _ => le_rfl, rfl, le_rfl, rfl⟩,
    fun y => ⟨y.gates, ⟨hx.le.trans y.queues.1, y.queues.2⟩, y.stores, y.fuses⟩⟩

theorem keeps_tripRecord {s0 : State} (s : State) (nt : DWord) (k leg cause source : Nat) (first : Bool) (h : Keeps s0 s) :
    Keeps s0 (s.tripRecord nt k leg cause source first) := by
  unfold State.tripRecord
  extract_lets simul r src1 src2 s1 src3 s2 src4 s3
  have h1 : Keeps s0 s1 := by
    simp only [s1]
    refine keeps_ite (keeps_trpLog _ _ h ?_) h
    simp only [List.length_map]
  have h2 : Keeps s0 s2 := keeps_trp _ h1 id
  have h3 : Keeps s0 s3 := by
    simp only [s3]
    split
    · exact keeps_trp _ h2 fun _ => by simp only [insertRec_length]; omega
    · exact keeps_count _ _ _ h2
  exact keeps_note _ _ _ _ _ h3

theorem keeps_latchOne {s0 : State} (s : State) (k : Nat) (cause : Nat) (source : Nat) (phase : Nat) (delay : Nat) (h : Keeps s0 s) :
    Keeps s0 (State.latchOne s k cause source phase delay) := by
  unfold State.latchOne
  simp (maxDischargeDepth := 200) +contextual only [keeps_acqOffer, keeps_beginTurnOff, keeps_modGs, keeps_modZone, keeps_ptmAsk, keeps_sendTrip, keeps_setReg, keeps_setRegN, keeps_tripRecord, keeps_ite, h]

theorem keeps_latch {s0 : State} (s : State) (k : Nat) (cause : Nat) (source : Nat) (phase : Nat) (h : Keeps s0 s) :
    Keeps s0 (State.latch s k cause source phase) := by
  unfold State.latch
  simp (maxDischargeDepth := 200) +contextual only [keeps_draw, keeps_latchOne, keeps_modTwn, keeps_forNums, keeps_ite, h, implies_true]

theorem keeps_turnOffAll {s0 : State} (s : State) (one : Bool) (h : Keeps s0 s) :
    Keeps s0 (State.turnOffAll s one) := by
  unfold State.turnOffAll
  simp (maxDischargeDepth := 200) +contextual only [keeps_beginTurnOffAll, keeps_sendTrip, keeps_forNums, h, implies_true]

end Sys2Proof.Machine
end

