-- ==== Sys2Proof/Laws/KeepsAcq.lean ====
section
/-! SUPPORT. What the operations and meanings of Machine/Acq.lean keep: one lemma each, in the form of `Keeps`. -/

set_option maxRecDepth 4000

namespace Sys2Proof.Machine

theorem keeps_acqMeasure {s0 : State} (s : State) (u : Nat) (status : Nat) (vals : List (Int × Bool)) (h : Keeps s0 s) :
    Keeps s0 (State.acqMeasure s u status vals) := by
  unfold State.acqMeasure
  simp (maxDischargeDepth := 200) +contextual only [keeps_modAcq, h]

theorem keeps_acqPush {s0 : State} (s : State) (u : Nat) (n : Nat) (h : Keeps s0 s) :
    Keeps s0 (State.acqPush s u n) := by
  unfold State.acqPush
  simp (maxDischargeDepth := 200) +contextual only [keeps_modAcq, keeps_forNums, h, implies_true]

theorem keeps_acqWrite {s0 : State} (s : State) (u : Nat) (full : Bool) (words : Bytes) (h : Keeps s0 s) :
    Keeps s0 (State.acqWrite s u full words) := by
  unfold State.acqWrite
  simp (maxDischargeDepth := 200) only [keeps_acqPush, keeps_dramWrite, keeps_count, keeps_modAcq, keeps_ite, h]

theorem keeps_acqArmUnit {s0 : State} (s : State) (u : Nat) (h : Keeps s0 s) :
    Keeps s0 (State.acqArmUnit s u) := by
  unfold State.acqArmUnit
  split <;> simp (maxDischargeDepth := 200) only [keeps_modAcq, h]

theorem keeps_acqFinish {s0 : State} (s : State) (u : Nat) (h : Keeps s0 s) :
    Keeps s0 (State.acqFinish s u) := by
  unfold State.acqFinish
  exact keeps_ite (keeps_raise _ _ (keeps_countWrap _ _ (keeps_modAcq _ _ (keeps_dramFree _ _ _ (keeps_advanceTo _ h)))))
    (keeps_countWrap _ _ (keeps_modAcq _ _ (keeps_dramFree _ _ _ (keeps_advanceTo _ h))))

theorem keeps_acqArm {s0 : State} (s : State) (c : Src) (p : Bytes) (h : Keeps s0 s) :
    Keeps s0 (State.acqArm s c p) := by
  unfold State.acqArm
  simp (maxDischargeDepth := 200) +contextual only [keeps_acqArmUnit, keeps_acqFinish, keeps_done, keeps_refuse, keeps_forNums, keeps_ite, h, implies_true]

theorem keeps_acqValueTrig {s0 : State} (s : State) (u : Nat) (nt : DWord) (v : Int) (h : Keeps s0 s) :
    Keeps s0 (State.acqValueTrig s u nt v) := by
  unfold State.acqValueTrig
  simp (maxDischargeDepth := 200) +contextual only [keeps_acqTrig, keeps_modAcq, keeps_ite, h]

theorem keeps_acqStore {s0 : State} (s : State) (u : Nat) (nt : DWord) (status : Nat) (vals : List (Int × Bool)) (h : Keeps s0 s) :
    Keeps s0 (State.acqStore s u nt status vals) := by
  unfold State.acqStore
  simp (maxDischargeDepth := 200) +contextual only [keeps_acqMeasure, keeps_acqResolve, keeps_acqValueTrig, keeps_acqWrite, keeps_modAcq, keeps_ite, h]

theorem keeps_acqSet {s0 : State} (s : State) (u : Nat) (nt : DWord) (status : Nat) (words : List Word) (h : Keeps s0 s) :
    Keeps s0 (State.acqSet s u nt status words) := by
  unfold State.acqSet
  simp (maxDischargeDepth := 200) only [keeps_acqStore, keeps_count, keeps_modAcq, keeps_ite, h]

theorem keeps_acqDump {s0 : State} (s : State) (g : Nat) (word : Nat → Word × Bool) (h : Keeps s0 s) :
    Keeps s0 (s.acqDump g word) := by
  unfold State.acqDump
  refine keeps_forNums _ _ (fun u v hv => ?_) h
  dsimp only
  split <;> simp (maxDischargeDepth := 200) only [keeps_ite, keeps_modAcq, keeps_acqSet, hv]

theorem keeps_acqPeriod {s0 : State} (s : State) (e : Nat) (nt : DWord) (signal : Nat → Word) (h : Keeps s0 s) :
    Keeps s0 (State.acqPeriod s e nt signal) := by
  unfold State.acqPeriod
  simp (maxDischargeDepth := 200) +contextual only [keeps_acqSet, keeps_forNums, h, implies_true]

theorem keeps_acqStopUnit {s0 : State} (s : State) (u : Nat) (stopNow : Bool) (h : Keeps s0 s) :
    Keeps s0 (State.acqStopUnit s u stopNow) := by
  unfold State.acqStopUnit
  dsimp only
  repeat' split
  all_goals simp (maxDischargeDepth := 200) +contextual only [keeps_count, keeps_modAcq, h]

theorem keeps_acqStop {s0 : State} (s : State) (c : Src) (p : Bytes) (h : Keeps s0 s) :
    Keeps s0 (State.acqStop s c p) := by
  unfold State.acqStop
  simp (maxDischargeDepth := 200) +contextual only [keeps_acqStopUnit, keeps_done, keeps_refuse, keeps_forNums, keeps_ite, h, implies_true]

theorem keeps_acqStopAll {s0 : State} (s : State) (h : Keeps s0 s) :
    Keeps s0 (State.acqStopAll s) := by
  unfold State.acqStopAll
  simp (maxDischargeDepth := 200) +contextual only [keeps_acqStopUnit, keeps_forNums, h, implies_true]

theorem keeps_acqTick {s0 : State} (s : State) (bit : Nat → Bool) (h : Keeps s0 s) :
    Keeps s0 (State.acqTick s bit) := by
  unfold State.acqTick
  simp (maxDischargeDepth := 200) +contextual only [keeps_acqSet, keeps_forNums, h, implies_true]

theorem keeps_acqTrigger {s0 : State} (s : State) (c : Src) (p : Bytes) (h : Keeps s0 s) :
    Keeps s0 (State.acqTrigger s c p) := by
  unfold State.acqTrigger
  simp (maxDischargeDepth := 200) only [keeps_acqTrigMask, keeps_done, keeps_ptmAsk, keeps_refuse, keeps_ite, h]

theorem keeps_segFree {s0 : State} (s : State) (u : Nat) (i : Nat) (h : Keeps s0 s) :
    Keeps s0 (State.segFree s u i) := by
  unfold State.segFree
  simp (maxDischargeDepth := 200) only [keeps_acqArmUnit, keeps_modAcq, keeps_ite, h]

theorem keeps_execAcqArm {s0 : State} (c : Src) (p : Bytes) (s : State) (h : Keeps s0 s) :
    ∀ out, execAcqArm c p s = .next out → Keeps s0 out := by
  unfold execAcqArm
  intro out e
  cases e
  simp (maxDischargeDepth := 200) +contextual only [keeps_acqArm, keeps_obey, h, implies_true]

theorem keeps_execAcqHeaderWritten {s0 : State} (u : Fin 8) (s : State) (h : Keeps s0 s) :
    ∀ out, execAcqHeaderWritten u s = .next out → Keeps s0 out := by
  unfold execAcqHeaderWritten
  intro out e
  dsimp only at e
  repeat' split at e
  all_goals (cases e; simp (maxDischargeDepth := 200) +contextual only [keeps_acqFinish, h])

theorem keeps_execAcqPostComplete {s0 : State} (u : Fin 8) (s : State) (h : Keeps s0 s) :
    ∀ out, execAcqPostComplete u s = .next out → Keeps s0 out := by
  unfold execAcqPostComplete
  intro out e
  dsimp only at e
  repeat' split at e
  all_goals (cases e; simp (maxDischargeDepth := 200) +contextual only [keeps_modAcq, h])

theorem keeps_execAcqRearm {s0 : State} (u : Fin 8) (s : State) (h : Keeps s0 s) :
    ∀ out, execAcqRearm u s = .next out → Keeps s0 out := by
  unfold execAcqRearm
  intro out e
  dsimp only at e
  repeat' split at e
  all_goals (cases e; simp (maxDischargeDepth := 200) +contextual only [keeps_acqArmUnit, h])

theorem keeps_execAcqSegFree {s0 : State} (u : Fin 8) (v : Word) (s : State) (h : Keeps s0 s) :
    ∀ out, execAcqSegFree u v s = .next out → Keeps s0 out := by
  unfold execAcqSegFree
  intro out e
  cases e
  simp (maxDischargeDepth := 200) +contextual only [keeps_segFree, h]

theorem keeps_execAcqStop {s0 : State} (c : Src) (p : Bytes) (s : State) (h : Keeps s0 s) :
    ∀ out, execAcqStop c p s = .next out → Keeps s0 out := by
  unfold execAcqStop
  intro out e
  cases e
  simp (maxDischargeDepth := 200) +contextual only [keeps_acqStop, keeps_obey, h, implies_true]

theorem keeps_execAcqTrigger {s0 : State} (c : Src) (p : Bytes) (s : State) (h : Keeps s0 s) :
    ∀ out, execAcqTrigger c p s = .next out → Keeps s0 out := by
  unfold execAcqTrigger
  intro out e
  cases e
  simp (maxDischargeDepth := 200) +contextual only [keeps_acqTrigger, keeps_obey, h, implies_true]

theorem keeps_execExtTrigEdge {s0 : State} (s : State) (h : Keeps s0 s) :
    ∀ out, execExtTrigEdge s = .next out → Keeps s0 out := by
  unfold execExtTrigEdge
  intro out e
  cases e
  simp (maxDischargeDepth := 200) only [keeps_acqOffer, keeps_ptmAsk, h]

end Sys2Proof.Machine
end

