-- ==== Sys2Proof/Laws/KeepsDma.lean ====
section
/-! SUPPORT. What the operations and meanings of Machine/Dma.lean keep: one lemma each, in the form of `Keeps`. -/

set_option maxRecDepth 4000

namespace Sys2Proof.Machine

theorem keeps_eccRead {s0 : State} (s : State) (h : Keeps s0 s) :
    Keeps s0 (State.eccRead s) := by
  unfold State.eccRead
  simp (maxDischargeDepth := 200) +contextual only [keeps_count, keeps_draw, h]

theorem keeps_burstPut {s0 : State} (s : State) (n : Nat) (d : DmaDesc) (bs : Bytes) (h : Keeps s0 s) :
    Keeps s0 (s.burstPut n d bs) := by
  unfold State.burstPut
  simp (maxDischargeDepth := 200) only [keeps_ite, keeps_mk, keeps_dramWrite, keeps_hostWrite, le_refl, h]

theorem keeps_dmaNext {s0 : State} (s : State) (n : Nat) (h : Keeps s0 s) :
    Keeps s0 (State.dmaNext s n) := by
  unfold State.dmaNext
  simp (maxDischargeDepth := 200) only [keeps_modDma, h]

theorem keeps_dmaReport {s0 : State} (s : State) (n : Nat) (st : Status) (detail residue : Nat) (lastBeat irq : Bool) (h : Keeps s0 s) :
    Keeps s0 (s.dmaReport n st detail residue lastBeat irq) := by
  unfold State.dmaReport
  simp (maxDischargeDepth := 200) only [keeps_ite, keeps_raise, keeps_modDma, keeps_dramWrite, keeps_hostWrite, h]

theorem keeps_dmaStop {s0 : State} (s : State) (n : Nat) (h : Keeps s0 s) :
    Keeps s0 (State.dmaStop s n) := by
  unfold State.dmaStop
  dsimp only
  repeat' split
  all_goals simp (maxDischargeDepth := 200) +contextual only [keeps_dmaNext, keeps_dmaReport, keeps_modDma, keeps_mk, le_refl, h]

theorem keeps_dmaAbort {s0 : State} (s : State) (n : Nat) (h : Keeps s0 s) :
    Keeps s0 (State.dmaAbort s n) := by
  unfold State.dmaAbort
  split <;> simp (maxDischargeDepth := 200) +contextual only [keeps_dmaStop, keeps_modDma, keeps_ite, h]

theorem keeps_dmaAbortAll {s0 : State} (s : State) (h : Keeps s0 s) :
    Keeps s0 (State.dmaAbortAll s) := by
  unfold State.dmaAbortAll
  simp (maxDischargeDepth := 200) +contextual only [keeps_dmaAbort, keeps_forNums, h, implies_true]

theorem keeps_queueTake {s0 : State} (s : State) (q n : Nat) (h : Keeps s0 s) : Keeps s0 (s.queueTake q n) := by
  unfold State.queueTake
  refine keeps_ite (keeps_sarQueue _ h fun hl => ?_) (keeps_ite ?_ (keeps_ite (keeps_modCmdTrace _ h fun hl => ?_) h))
  · simp only [List.length_drop]; omega
  · simp (maxDischargeDepth := 200) only [keeps_mk, le_refl, h]
  · simp only [List.length_drop]; omega

theorem keeps_dmaPace {s0 : State} (s : State) (n : Nat) (was : Nat) (h : Keeps s0 s) :
    Keeps s0 (State.dmaPace s n was) := by
  unfold State.dmaPace
  simp (maxDischargeDepth := 200) +contextual only [keeps_modDma, h]

theorem keeps_dmaLoad {s0 : State} (s : State) (n : Nat) (bytes : Bytes) (h : Keeps s0 s) :
    Keeps s0 (State.dmaLoad s n bytes) := by
  unfold State.dmaLoad
  dsimp only
  repeat' split
  all_goals simp (maxDischargeDepth := 200) +contextual only [keeps_dmaNext, keeps_dmaReport, keeps_eccRead, keeps_modDma, h]

theorem keeps_dmaSettle {s0 : State} (s : State) (n : Nat) (h : Keeps s0 s) :
    Keeps s0 (State.dmaSettle s n) := by
  unfold State.dmaSettle
  simp (maxDischargeDepth := 200) +contextual only [keeps_modDma, h]

theorem keeps_dmaDone {s0 : State} (s : State) (n : Nat) (d : DmaDesc) (h : Keeps s0 s) :
    Keeps s0 (State.dmaDone s n d) := by
  unfold State.dmaDone
  simp (maxDischargeDepth := 200) only [keeps_dmaNext, keeps_dmaReport, keeps_modDma, keeps_ite, keeps_mk, le_refl, h]

theorem keeps_dmaBurst {s0 : State} (s : State) (n : Nat) (hostData : Bytes) (nextDesc : Bytes) (h : Keeps s0 s) :
    Keeps s0 (State.dmaBurst s n hostData nextDesc) := by
  unfold State.dmaBurst
  dsimp only
  repeat' split
  all_goals simp (maxDischargeDepth := 200) +contextual only [keeps_burstPut, keeps_count, keeps_dmaDone, keeps_dmaLoad, keeps_dmaPace, keeps_dmaSettle, keeps_eccRead, keeps_modDma, keeps_queueTake, h]

theorem keeps_dmaError {s0 : State} (s : State) (n : Nat) (cause : Nat) (lastBeat : Bool) (h : Keeps s0 s) :
    Keeps s0 (State.dmaError s n cause lastBeat) := by
  unfold State.dmaError
  dsimp only
  split <;> simp (maxDischargeDepth := 200) +contextual only [keeps_dmaReport, keeps_draw, keeps_modDma, keeps_ite, keeps_mk, le_refl, h]

theorem keeps_dmaStart {s0 : State} (s : State) (n : Nat) (desc : Bytes) (h : Keeps s0 s) :
    Keeps s0 (State.dmaStart s n desc) := by
  unfold State.dmaStart
  dsimp only
  repeat' split
  all_goals simp (maxDischargeDepth := 200) +contextual only [keeps_busyStop, keeps_dmaLoad, keeps_dmaSettle, keeps_modDma, h]

theorem keeps_dmaTailWrite {s0 : State} (s : State) (n : Nat) (v : Nat) (h : Keeps s0 s) :
    Keeps s0 (State.dmaTailWrite s n v) := by
  unfold State.dmaTailWrite
  simp (maxDischargeDepth := 200) only [keeps_accessErr, keeps_setRegN, keeps_ite, h]

theorem keeps_execDmaAbort {s0 : State} (n : Fin 32) (s : State) (h : Keeps s0 s) :
    ∀ out, execDmaAbort n s = .next out → Keeps s0 out := by
  unfold execDmaAbort
  intro out e
  cases e
  simp (maxDischargeDepth := 200) only [keeps_dmaAbort, h]

theorem keeps_execDmaAbortComplete {s0 : State} (n : Fin 32) (s : State) (h : Keeps s0 s) :
    ∀ out, execDmaAbortComplete n s = .next out → Keeps s0 out := by
  unfold execDmaAbortComplete
  intro out e
  split at e <;> cases e <;> simp (maxDischargeDepth := 200) only [keeps_dmaStop, h]

theorem keeps_execDmaBurst {s0 : State} (n : Fin 32) (hostData : Bytes) (nextDesc : Bytes) (s : State) (h : Keeps s0 s) :
    ∀ out, execDmaBurst n hostData nextDesc s = .next out → Keeps s0 out := by
  unfold execDmaBurst
  intro out e
  cases e
  simp (maxDischargeDepth := 200) only [keeps_dmaBurst, h]

theorem keeps_execDmaDescTailWrite {s0 : State} (n : Fin 32) (v : Word) (s : State) (h : Keeps s0 s) :
    ∀ out, execDmaDescTailWrite n v s = .next out → Keeps s0 out := by
  unfold execDmaDescTailWrite
  intro out e
  cases e
  simp (maxDischargeDepth := 200) +contextual only [keeps_dmaTailWrite, h]

theorem keeps_execDmaFlushTimeout {s0 : State} (n : Fin 32) (s : State) (h : Keeps s0 s) :
    ∀ out, execDmaFlushTimeout n s = .next out → Keeps s0 out := by
  unfold execDmaFlushTimeout
  intro out e
  dsimp only at e
  repeat' split at e
  all_goals (cases e; simp (maxDischargeDepth := 200) +contextual only [keeps_advanceTo, keeps_dmaSettle, keeps_modDma, h])

theorem keeps_execDmaHostError {s0 : State} (n : Fin 32) (cause : Fin 3) (lastBeat : Bool) (s : State) (h : Keeps s0 s) :
    ∀ out, execDmaHostError n cause lastBeat s = .next out → Keeps s0 out := by
  unfold execDmaHostError
  intro out e
  cases e
  simp (maxDischargeDepth := 200) +contextual only [keeps_dmaError, h]

theorem keeps_execDmaRunStart {s0 : State} (n : Fin 32) (s : State) (h : Keeps s0 s) :
    ∀ out, execDmaRunStart n s = .next out → Keeps s0 out := by
  unfold execDmaRunStart
  intro out e
  dsimp only at e
  repeat' split at e
  all_goals (cases e; simp (maxDischargeDepth := 200) +contextual only [keeps_dmaSettle, keeps_modDma, h])

theorem keeps_execDmaStart {s0 : State} (n : Fin 32) (desc : Bytes) (s : State) (h : Keeps s0 s) :
    ∀ out, execDmaStart n desc s = .next out → Keeps s0 out := by
  unfold execDmaStart
  intro out e
  cases e
  simp (maxDischargeDepth := 200) only [keeps_dmaStart, h]

end Sys2Proof.Machine
end

