-- ==== Sys2Proof/Laws/KeepsMeasure.lean ====
section
/-! SUPPORT. What the operations and meanings of Machine/Measure.lean keep: one lemma each, in the form of `Keeps`. -/

set_option maxRecDepth 4000

namespace Sys2Proof.Machine

theorem keeps_dropDelivered {s0 : State} (s : State) (tick : Nat) (h : Keeps s0 s) :
    Keeps s0 (State.dropDelivered s tick) := by
  unfold State.dropDelivered
  simp (maxDischargeDepth := 200) +contextual only [keeps_mk, le_refl, h]

theorem keeps_chanBit {s0 : State} (s : State) (c : Nat) (b : Bool) (h : Keeps s0 s) :
    Keeps s0 (State.chanBit s c b) := by
  unfold State.chanBit
  simp (maxDischargeDepth := 200) only [keeps_modDec, h]

theorem keeps_clkSkewCheck {s0 : State} (s : State) (ps : Int) (h : Keeps s0 s) :
    Keeps s0 (State.clkSkewCheck s ps) := by
  unfold State.clkSkewCheck
  simp (maxDischargeDepth := 200) only [keeps_modTwn, keeps_ite, h]

theorem keeps_sampleDump {s0 : State} (s : State) (g : Nat) (words : List (Nat × DWord)) (h : Keeps s0 s) :
    Keeps s0 (s.sampleDump g words) := by
  unfold State.sampleDump
  refine keeps_forNums _ _ (fun e v hv => ?_) h
  dsimp only
  split <;> simp (maxDischargeDepth := 200) only [keeps_ite, keeps_modEng, keeps_setRegN, hv]

theorem keeps_dump {s0 : State} (s : State) (g : Nat) (h : Keeps s0 s) :
    Keeps s0 (State.dump s g) := by
  unfold State.dump
  simp (maxDischargeDepth := 200) +contextual only [keeps_acqDump, keeps_modDec, keeps_sampleDump, keeps_setReg, keeps_forNums, keeps_mk, le_refl, h, keeps_foldl, implies_true]

theorem keeps_dumpAlign {s0 : State} (s : State) (h : Keeps s0 s) :
    Keeps s0 (State.dumpAlign s) := by
  unfold State.dumpAlign
  simp (maxDischargeDepth := 200) +contextual only [keeps_count, keeps_modDec, keeps_forNums, keeps_ite, keeps_mk, le_refl, h, implies_true]

theorem keeps_pullIn {s0 : State} (s : State) (c : Nat) (h : Keeps s0 s) :
    Keeps s0 (State.pullIn s c) := by
  unfold State.pullIn
  simp (maxDischargeDepth := 200) +contextual only [keeps_askPullFrame, keeps_latch, keeps_modZone, keeps_pullFlag, keeps_pullPhases, keeps_ite, h]

theorem keeps_pullInterval {s0 : State} (s : State) (k : Nat) (h : Keeps s0 s) :
    Keeps s0 (State.pullInterval s k) := by
  unfold State.pullInterval
  simp (maxDischargeDepth := 200) +contextual only [keeps_modGs, keeps_modZone, keeps_pullIn, keeps_forNums, h, implies_true]

theorem keeps_sarStart {s0 : State} (s : State) (h : Keeps s0 s) :
    Keeps s0 (State.sarStart s) := by
  unfold State.sarStart
  simp (maxDischargeDepth := 200) only [keeps_modSar, h]

theorem keeps_sarNext {s0 : State} (s : State) (h : Keeps s0 s) :
    Keeps s0 (State.sarNext s) := by
  unfold State.sarNext
  simp (maxDischargeDepth := 200) only [keeps_modSar, keeps_sarStart, keeps_ite, h]

theorem keeps_sarResult {s0 : State} (s : State) (w : Nat) (h : Keeps s0 s) : Keeps s0 (s.sarResult w) := by
  unfold State.sarResult
  split
  · exact keeps_modSarQueue _ h fun _ => by simp only [List.length_append, List.length_singleton]; omega
  · exact keeps_count _ _ _ h

theorem keeps_sarDone {s0 : State} (s : State) (uv : Int) (h : Keeps s0 s) :
    Keeps s0 (State.sarDone s uv) := by
  unfold State.sarDone
  split <;> simp (maxDischargeDepth := 200) only [keeps_countWrap, keeps_modSar, keeps_sarNext, keeps_sarResult, keeps_setReg, keeps_setRegN, keeps_ite, h]

theorem keeps_sarTrigger {s0 : State} (s : State) (h : Keeps s0 s) :
    Keeps s0 (State.sarTrigger s) := by
  unfold State.sarTrigger
  simp (maxDischargeDepth := 200) only [keeps_count, keeps_modSar, keeps_sarStart, keeps_ite, h]

theorem keeps_sarUrgent {s0 : State} (s : State) (input : Nat) (h : Keeps s0 s) :
    Keeps s0 (State.sarUrgent s input) := by
  unfold State.sarUrgent
  simp (maxDischargeDepth := 200) only [keeps_count, keeps_modSar, keeps_setReg, keeps_ite, h]

theorem keeps_srcLost {s0 : State} (s : State) (c : Nat) (h : Keeps s0 s) :
    Keeps s0 (State.srcLost s c) := by
  unfold State.srcLost
  simp (maxDischargeDepth := 200) only [keeps_modDec, h]

theorem keeps_tick {s0 : State} (s : State) (lands : DWord) (h : Keeps s0 s) : Keeps s0 (s.tick lands) := by
  unfold State.tick
  extract_lets t s1 s2 s3
  have h1 : Keeps s0 s1 := by
    refine keeps_forNums _ _ (fun c u hu => ?_) h
    split <;> simp (maxDischargeDepth := 200) only [keeps_ite, keeps_chanBit, keeps_srcLost, keeps_modDec, hu]
  have h3 : Keeps s0 s3 := keeps_dropDelivered _ _ (keeps_acqTick _ _ h1)
  clear_value s3
  simp (maxDischargeDepth := 200) only [keeps_mk, le_refl, h3]

theorem keeps_execComparatorActivate {s0 : State} (c : Fin 160) (s : State) (h : Keeps s0 s) :
    ∀ out, execComparatorActivate c s = .next out → Keeps s0 out := by
  unfold execComparatorActivate
  intro out e
  dsimp only at e
  repeat' split at e
  all_goals (cases e; simp (maxDischargeDepth := 200) +contextual only [keeps_acqOffer, keeps_count, keeps_latch, keeps_modDec, keeps_pullIn, h])

theorem keeps_execComparatorDeactivate {s0 : State} (c : Fin 160) (s : State) (h : Keeps s0 s) :
    ∀ out, execComparatorDeactivate c s = .next out → Keeps s0 out := by
  unfold execComparatorDeactivate
  intro out e
  dsimp only at e
  repeat' split at e
  all_goals (cases e; simp (maxDischargeDepth := 200) +contextual only [keeps_modDec, h])

theorem keeps_execDecimationDump {s0 : State} (g : Fin 20) (s : State) (h : Keeps s0 s) :
    ∀ out, execDecimationDump g s = .next out → Keeps s0 out := by
  unfold execDecimationDump
  intro out e
  split at e <;> cases e <;> simp (maxDischargeDepth := 200) only [keeps_dump, h]

theorem keeps_execFastPathMaskEnd {s0 : State} (c : Fin 160) (s : State) (h : Keeps s0 s) :
    ∀ out, execFastPathMaskEnd c s = .next out → Keeps s0 out := by
  unfold execFastPathMaskEnd
  intro out e
  dsimp only at e
  repeat' split at e
  all_goals (cases e; simp (maxDischargeDepth := 200) +contextual only [keeps_modDec, h])

theorem keeps_execLinkSourceResume {s0 : State} (c : Fin 160) (s : State) (h : Keeps s0 s) :
    ∀ out, execLinkSourceResume c s = .next out → Keeps s0 out := by
  unfold execLinkSourceResume
  intro out e
  dsimp only at e
  repeat' split at e
  all_goals (cases e; simp (maxDischargeDepth := 200) +contextual only [keeps_modDec, h])

theorem keeps_execModulatorTick {s0 : State} (lands : DWord) (clk0Ps : Int) (s : State) (h : Keeps s0 s) :
    ∀ out, execModulatorTick lands clk0Ps s = .next out → Keeps s0 out := by
  unfold execModulatorTick
  intro out e
  split at e <;> cases e <;> simp (maxDischargeDepth := 200) +contextual only [keeps_advanceTo, keeps_clkSkewCheck, keeps_tick, h]

theorem keeps_execSarConversionDone {s0 : State} (microvolts : Int) (s : State) (h : Keeps s0 s) :
    ∀ out, execSarConversionDone microvolts s = .next out → Keeps s0 out := by
  unfold execSarConversionDone
  intro out e
  split at e <;> cases e <;> simp (maxDischargeDepth := 200) +contextual only [keeps_advanceTo, keeps_sarDone, h]

theorem keeps_execSequenceTrigger {s0 : State} (s : State) (h : Keeps s0 s) :
    ∀ out, execSequenceTrigger s = .next out → Keeps s0 out := by
  unfold execSequenceTrigger
  intro out e
  cases e
  simp (maxDischargeDepth := 200) +contextual only [keeps_sarTrigger, keeps_setReg, h]

theorem keeps_execStuckRunEnd {s0 : State} (c : Fin 160) (s : State) (h : Keeps s0 s) :
    ∀ out, execStuckRunEnd c s = .next out → Keeps s0 out := by
  unfold execStuckRunEnd
  intro out e
  dsimp only at e
  repeat' split at e
  all_goals (cases e; simp (maxDischargeDepth := 200) +contextual only [keeps_modDec, h])

theorem keeps_execStuckRunStart {s0 : State} (c : Fin 160) (s : State) (h : Keeps s0 s) :
    ∀ out, execStuckRunStart c s = .next out → Keeps s0 out := by
  unfold execStuckRunStart
  intro out e
  dsimp only at e
  repeat' split at e
  all_goals (cases e; simp (maxDischargeDepth := 200) +contextual only [keeps_latch, keeps_logFlag, keeps_modDec, keeps_setFlag, h])

theorem keeps_execUrgentRequest {s0 : State} (input : Fin 16) (s : State) (h : Keeps s0 s) :
    ∀ out, execUrgentRequest input s = .next out → Keeps s0 out := by
  unfold execUrgentRequest
  intro out e
  cases e
  simp (maxDischargeDepth := 200) only [keeps_sarUrgent, keeps_setReg, h]

end Sys2Proof.Machine
end

