-- ==== Sys2Proof/Laws/KeepsMirror.lean ====
section
/-! SUPPORT. What the operations and meanings of Machine/Mirror.lean keep: one lemma each, in the form of `Keeps`. -/

set_option maxRecDepth 4000

namespace Sys2Proof.Machine

theorem keeps_itemsLate {s0 : State} (s : State) (h : Keeps s0 s) :
    Keeps s0 (State.itemsLate s) := by
  unfold State.itemsLate
  simp (maxDischargeDepth := 200) only [keeps_count, keeps_modTwn, keeps_ite, h]

theorem keeps_sendItems {s0 : State} (fuel : Nat) (s : State) (h : Keeps s0 s) : Keeps s0 (State.sendItems fuel s) := by
  induction fuel generalizing s with
  | zero => exact h
  | succ fuel ih =>
    unfold State.sendItems
    split
    · exact h
    · dsimp only
      split
      · exact ih _ (keeps_modTwn _ h)
      · exact h

theorem keeps_moveTake {s0 : State} (s : State) (c : Src) (take : DWord) (h : Keeps s0 s) :
    Keeps s0 (State.moveTake s c take) := by
  unfold State.moveTake
  simp (maxDischargeDepth := 200) +contextual only [keeps_modEng, keeps_modOps, keeps_modStg, keeps_forNums, h, implies_true]

theorem keeps_moveSpore {s0 : State} (s : State) (slot : Nat) (action : Nat) (take : DWord) (h : Keeps s0 s) :
    Keeps s0 (State.moveSpore s slot action take) := by
  unfold State.moveSpore
  simp (maxDischargeDepth := 200) +contextual only [keeps_modEng, keeps_modTwn, keeps_forNums, keeps_ite, h, implies_true]

theorem keeps_itemsPeriod {s0 : State} (s : State) (h : Keeps s0 s) :
    Keeps s0 (State.itemsPeriod s) := by
  unfold State.itemsPeriod
  simp (maxDischargeDepth := 200) +contextual only [keeps_foldl, keeps_keepMax, keeps_modTwn, keeps_moveSpore, keeps_moveTake, keeps_sendItems, keeps_foldl, keeps_ite, h, implies_true]

theorem keeps_mirror {s0 : State} (s : State) (c : Src) (op : Nat) (p : Bytes) (take : DWord) (h : Keeps s0 s) :
    Keeps s0 (State.mirror s c op p take) := by
  unfold State.mirror
  simp (maxDischargeDepth := 200) only [keeps_modTwn, keeps_sendItems, keeps_ite, h]

theorem keeps_mirrorBytes {s0 : State} (n : Nat) (s : State) (c : Src) (bs : Bytes) (h : Keeps s0 s) :
    Keeps s0 (State.mirrorBytes n s c bs) := by
  induction n generalizing s bs with
  | zero => exact h
  | succ n ih =>
    unfold State.mirrorBytes
    split
    · exact h
    · exact ih _ _ (keeps_mirror _ _ _ _ _ h)

theorem keeps_mirrorRead {s0 : State} (s : State) (c : Src) (op : Nat) (p : Bytes) (bs : Option Bytes) (h : Keeps s0 s) :
    Keeps s0 (State.mirrorRead s c op p bs) := by
  unfold State.mirrorRead
  simp (maxDischargeDepth := 200) only [keeps_mirror, keeps_mirrorBytes, h]

theorem keeps_notReady {s0 : State} (s : State) (h : Keeps s0 s) :
    Keeps s0 (State.notReady s) := by
  unfold State.notReady
  simp (maxDischargeDepth := 200) only [keeps_modTwn, h]

theorem keeps_disagree {s0 : State} (s : State) (h : Keeps s0 s) :
    Keeps s0 (State.disagree s) := by
  unfold State.disagree
  simp (maxDischargeDepth := 200) +contextual only [keeps_count, keeps_modTwn, keeps_notReady, h]

theorem keeps_enter {s0 : State} (s : State) (dst : OpState) (cause : Nat) (h : Keeps s0 s) :
    Keeps s0 (State.enter s dst cause) := by
  unfold State.enter
  simp (maxDischargeDepth := 200) +contextual only [keeps_mirror, keeps_modOps, keeps_note, keeps_notify, h]

end Sys2Proof.Machine
end

