-- ==== Sys2Proof/Laws/KeepsTrips.lean ====
section
/-! SUPPORT. What the operations and meanings of Machine/Trips.lean keep: one lemma each, in the form of `Keeps`. -/

set_option maxRecDepth 4000

namespace Sys2Proof.Machine

theorem keeps_ostComplete {s0 : State} (s : State) (h : Keeps s0 s) :
    Keeps s0 (State.ostComplete s) := by
  unfold State.ostComplete
  simp (maxDischargeDepth := 200) +contextual only [keeps_done, keeps_foldl, keeps_foldl, keeps_mk, le_refl, h, implies_true]

theorem keeps_gdlTrip {s0 : State} (s : State) (k : Nat) (bit : Nat) (cause : Nat) (source : Nat) (phase : Nat) (h : Keeps s0 s) :
    Keeps s0 (State.gdlTrip s k bit cause source phase) := by
  unfold State.gdlTrip
  simp (maxDischargeDepth := 200) only [keeps_latch, keeps_logFlag, keeps_setFlag, keeps_ite, h]

theorem keeps_fltStanding {s0 : State} (s : State) (k : Nat) (h : Keeps s0 s) :
    Keeps s0 (State.fltStanding s k) := by
  unfold State.fltStanding
  simp (maxDischargeDepth := 200) +contextual only [keeps_gdlTrip, keeps_ite, h]

theorem keeps_ostAbort {s0 : State} (s : State) (k : Nat) (h : Keeps s0 s) :
    Keeps s0 (State.ostAbort s k) := by
  unfold State.ostAbort
  simp (maxDischargeDepth := 200) +contextual only [keeps_fltStanding, keeps_modGs, keeps_ostComplete, keeps_ite, h]

theorem keeps_ostGuard {s0 : State} (s : State) (k : Nat) (h : Keeps s0 s) :
    Keeps s0 (State.ostGuard s k) := by
  unfold State.ostGuard
  simp (maxDischargeDepth := 200) +contextual only [keeps_ostAbort, keeps_ite, h]

theorem keeps_tripInLatch {s0 : State} (s : State) (i : Nat) (h : Keeps s0 s) :
    Keeps s0 (State.tripInLatch s i) := by
  unfold State.tripInLatch
  simp (maxDischargeDepth := 200) +contextual only [keeps_latch, keeps_forNums, keeps_ite, h, implies_true]

theorem keeps_tripInsStanding {s0 : State} (s : State) (h : Keeps s0 s) :
    Keeps s0 (State.tripInsStanding s) := by
  unfold State.tripInsStanding
  simp (maxDischargeDepth := 200) +contextual only [keeps_tripInLatch, keeps_forNums, h, implies_true]

theorem keeps_clearZone {s0 : State} (s : State) (k : Nat) (h : Keeps s0 s) :
    Keeps s0 (State.clearZone s k) := by
  unfold State.clearZone
  simp (maxDischargeDepth := 200) +contextual only [keeps_modZone, keeps_ostGuard, h]

theorem keeps_applyClear {s0 : State} (s : State) (mask : Nat) (ok : Nat) (h : Keeps s0 s) :
    Keeps s0 (State.applyClear s mask ok) := by
  unfold State.applyClear
  simp (maxDischargeDepth := 200) +contextual only [keeps_clearZone, keeps_count, keeps_forNums, h, implies_true]

theorem keeps_endClear {s0 : State} (s : State) (src : Src) (mask : Nat) (h : Keeps s0 s) :
    Keeps s0 (State.endClear s src mask) := by
  unfold State.endClear
  simp (maxDischargeDepth := 200) +contextual only [keeps_modZone, keeps_forNums, keeps_mk, le_refl, h, implies_true]

theorem keeps_finishClear {s0 : State} (s : State) (src : Src) (mask : Nat) (ok : Nat) (h : Keeps s0 s) :
    Keeps s0 (State.finishClear s src mask ok) := by
  unfold State.finishClear
  simp (maxDischargeDepth := 200) only [keeps_done, keeps_refuse, keeps_ite, h]

theorem keeps_evalClear {s0 : State} (s : State) (r : ClearReq) (h : Keeps s0 s) :
    Keeps s0 (State.evalClear s r) := by
  unfold State.evalClear
  simp (maxDischargeDepth := 200) +contextual only [keeps_advanceTo, keeps_applyClear, keeps_count, keeps_endClear, keeps_finishClear, keeps_mirror, keeps_forNums, keeps_ite, keeps_mk, le_refl, h, implies_true]

theorem keeps_setTripClock {s0 : State} (s : State) (v : DWord) (byZero : Bool) (h : Keeps s0 s) :
    Keeps s0 (State.setTripClock s v byZero) := by
  unfold State.setTripClock
  simp (maxDischargeDepth := 200) only [keeps_mk, le_refl, h]

theorem keeps_startClear {s0 : State} (s : State) (c : Src) (mask : Nat) (h : Keeps s0 s) :
    Keeps s0 (State.startClear s c mask) := by
  unfold State.startClear
  simp (maxDischargeDepth := 200) +contextual only [keeps_evalClear, keeps_modZone, keeps_forNums, keeps_ite, keeps_mk, le_refl, h, implies_true]

theorem keeps_trpRecRead {s0 : State} (s : State) (h : Keeps s0 s) : Keeps s0 s.trpRecRead :=
  keeps_trp _ h fun hl => by simp only [List.length_drop]; omega

theorem keeps_trpTrip {s0 : State} (s : State) (c : Src) (p : Bytes) (h : Keeps s0 s) :
    Keeps s0 (State.trpTrip s c p) := by
  unfold State.trpTrip
  simp (maxDischargeDepth := 200) +contextual only [keeps_done, keeps_latch, keeps_refuse, keeps_forNums, keeps_ite, h, implies_true]

theorem keeps_execClearEvaluation {s0 : State} (s : State) (h : Keeps s0 s) :
    ∀ out, execClearEvaluation s = .next out → Keeps s0 out := by
  unfold execClearEvaluation
  intro out e
  split at e <;> cases e <;> simp (maxDischargeDepth := 200) only [keeps_evalClear, h]

theorem keeps_execTripClockNtSet {s0 : State} (s : State) (h : Keeps s0 s) :
    ∀ out, execTripClockNtSet s = .next out → Keeps s0 out := by
  unfold execTripClockNtSet
  intro out e
  dsimp only at e
  repeat' split at e
  all_goals (cases e; simp (maxDischargeDepth := 200) +contextual only [keeps_advanceTo, keeps_setTripClock, h])

theorem keeps_execTripInActive {s0 : State} (i : Fin 16) (level : Bool) (s : State) (h : Keeps s0 s) :
    ∀ out, execTripInActive i level s = .next out → Keeps s0 out := by
  unfold execTripInActive
  intro out e
  dsimp only at e
  repeat' split at e
  all_goals (cases e; simp (maxDischargeDepth := 200) +contextual only [keeps_acqOffer, keeps_tripInLatch, keeps_mk, le_refl, h])

theorem keeps_execTrpClear {s0 : State} (c : Src) (p : Bytes) (s : State) (h : Keeps s0 s) :
    ∀ out, execTrpClear c p s = .next out → Keeps s0 out := by
  unfold execTrpClear
  intro out e
  cases e
  simp (maxDischargeDepth := 200) +contextual only [keeps_obey, keeps_startClear, h, implies_true]

theorem keeps_execTrpRecRead {s0 : State} (s : State) (h : Keeps s0 s) :
    ∀ out, execTrpRecRead s = .next out → Keeps s0 out := by
  unfold execTrpRecRead
  intro out e
  cases e
  simp (maxDischargeDepth := 200) only [keeps_trpRecRead, keeps_mk, le_refl, h]

theorem keeps_execTrpTrip {s0 : State} (c : Src) (p : Bytes) (s : State) (h : Keeps s0 s) :
    ∀ out, execTrpTrip c p s = .next out → Keeps s0 out := by
  unfold execTrpTrip
  intro out e
  cases e
  simp (maxDischargeDepth := 200) +contextual only [keeps_obey, keeps_trpTrip, h, implies_true]

end Sys2Proof.Machine
end

