-- ==== Sys2Proof/Laws/KeepsPwm.lean ====
section
/-! SUPPORT. What the operations and meanings of Machine/Pwm.lean keep: one lemma each, in the form of `Keeps`. -/

set_option maxRecDepth 4000

namespace Sys2Proof.Machine

theorem keeps_loadLevel {s0 : State} (s : State) (n : Nat) (h : Keeps s0 s) :
    Keeps s0 (State.loadLevel s n) := by
  unfold State.loadLevel
  dsimp only
  repeat' split
  all_goals simp (maxDischargeDepth := 200) +contextual only [keeps_forceLow, keeps_lvlOff, keeps_lvlOn, keeps_modChan, keeps_riseAgain, h, implies_true]

theorem keeps_loadWords {s0 : State} (s : State) (n : Nat) (ofs : Nat) (h : Keeps s0 s) :
    Keeps s0 (State.loadWords s n ofs) := by
  unfold State.loadWords
  simp (maxDischargeDepth := 200) +contextual only [keeps_modChan, h, implies_true]

theorem keeps_loadList {s0 : State} (s : State) (l : List Nat) (ofs : Nat) (h : Keeps s0 s) :
    Keeps s0 (State.loadList s l ofs) := by
  unfold State.loadList
  simp (maxDischargeDepth := 200) +contextual only [keeps_loadLevel, keeps_loadWords, keeps_overlapsGone, keeps_forNums, h, implies_true]

theorem keeps_takeCompares {s0 : State} (s : State) (n : Nat) (h : Keeps s0 s) :
    Keeps s0 (State.takeCompares s n) := by
  unfold State.takeCompares
  simp (maxDischargeDepth := 200) +contextual only [keeps_modChan, h, implies_true]

theorem keeps_allOffSets {s0 : State} (s : State) (h : Keeps s0 s) :
    Keeps s0 (State.allOffSets s) := by
  unfold State.allOffSets
  simp (maxDischargeDepth := 200) +contextual only [keeps_modChan, keeps_forNums, h, implies_true]

theorem keeps_stackBack {s0 : State} (s : State) (k : Nat) (h : Keeps s0 s) :
    Keeps s0 (State.stackBack s k) := by
  unfold State.stackBack
  simp (maxDischargeDepth := 200) +contextual only [keeps_riseAgain, keeps_tryRise, keeps_forNums, h, implies_true]

theorem keeps_realign {s0 : State} (s : State) (t : Nat) (units : Int) (h : Keeps s0 s) :
    Keeps s0 (State.realign s t units) := by
  unfold State.realign
  simp (maxDischargeDepth := 200) only [keeps_modTb, h]

theorem keeps_follow {s0 : State} (s : State) (f : Nat) (src : Nat) (delta : Int) (h : Keeps s0 s) :
    Keeps s0 (State.follow s f src delta) := by
  unfold State.follow
  simp (maxDischargeDepth := 200) only [keeps_modTb, keeps_realign, keeps_ite, h]

theorem keeps_loadChans {s0 : State} (s : State) (t : Nat) (ofs : Nat) (h : Keeps s0 s) :
    Keeps s0 (State.loadChans s t ofs) := by
  unfold State.loadChans
  simp (maxDischargeDepth := 200) +contextual only [keeps_loadList, h]

theorem keeps_slotError {s0 : State} (s : State) (t : Nat) (h : Keeps s0 s) :
    Keeps s0 (State.slotError s t).2 := by
  unfold State.slotError
  simp (maxDischargeDepth := 200) only [keeps_modTb, h]

theorem keeps_ntZero {s0 : State} (s : State) (t : Nat) (busy : Bool) (fresh : Bool) (moved : Option Int) (h : Keeps s0 s) :
    Keeps s0 (State.ntZero s t busy fresh moved) := by
  unfold State.ntZero
  dsimp only
  repeat' split
  all_goals simp (maxDischargeDepth := 200) +contextual only [keeps_modTb, keeps_realign, keeps_slotError, h]

theorem keeps_syncPulse {s0 : State} (s : State) (h : Keeps s0 s) :
    Keeps s0 (State.syncPulse s) := by
  unfold State.syncPulse
  simp (maxDischargeDepth := 200) only [keeps_count, keeps_modTb, keeps_realign, keeps_ite, keeps_mk, le_refl, h]

theorem keeps_tailEdges {s0 : State} (s : State) (n : Nat) (h : Keeps s0 s) :
    Keeps s0 (State.tailEdges s n) := by
  unfold State.tailEdges
  simp (maxDischargeDepth := 200) only [keeps_modChan, keeps_ite, h, implies_true, imp_self]

theorem keeps_tbSettings {s0 : State} (s : State) (t : Nat) (h : Keeps s0 s) :
    Keeps s0 (State.tbSettings s t) := by
  unfold State.tbSettings
  simp (maxDischargeDepth := 200) only [keeps_modTb, h]

theorem keeps_tbCommit {s0 : State} (s : State) (t : Nat) (h : Keeps s0 s) :
    Keeps s0 (State.tbCommit s t) := by
  unfold State.tbCommit
  dsimp only
  repeat' split
  all_goals simp (maxDischargeDepth := 200) +contextual only [keeps_modTb, keeps_tbSettings, h]

theorem keeps_tbStart {s0 : State} (s : State) (t : Nat) (nt : Option DWord) (h : Keeps s0 s) :
    Keeps s0 (State.tbStart s t nt) := by
  unfold State.tbStart
  simp (maxDischargeDepth := 200) only [keeps_dumpAlign, keeps_follow, keeps_modTb, keeps_setTripClock, keeps_tbSettings, keeps_ite, keeps_mk, le_refl, h]

theorem keeps_tbStop {s0 : State} (s : State) (t : Nat) (h : Keeps s0 s) :
    Keeps s0 (State.tbStop s t) := by
  unfold State.tbStop
  simp (maxDischargeDepth := 200) +contextual only [keeps_forceLows, keeps_modTb, keeps_takeCompares, keeps_forNums, h, implies_true]

theorem keeps_tbZero {s0 : State} (s : State) (t : Nat) (h : Keeps s0 s) :
    Keeps s0 (State.tbZero s t) := by
  unfold State.tbZero
  simp (maxDischargeDepth := 200) only [keeps_count, keeps_dumpAlign, keeps_follow, keeps_modTb, keeps_ntZero, keeps_setTripClock, keeps_tbSettings, keeps_ite, keeps_mk, le_refl, h]

theorem keeps_execCompareEdge {s0 : State} (n : Fin 192) (rising : Bool) (s : State) (h : Keeps s0 s) :
    ∀ out, execCompareEdge n rising s = .next out → Keeps s0 out := by
  unfold execCompareEdge
  intro out e
  dsimp only at e
  repeat' split at e
  all_goals (cases e; simp (maxDischargeDepth := 200) +contextual only [keeps_advanceTo, keeps_fallingEdge, keeps_risingEdge, h])

theorem keeps_execDeadTimeExpiry {s0 : State} (n : Fin 192) (s : State) (h : Keeps s0 s) :
    ∀ out, execDeadTimeExpiry n s = .next out → Keeps s0 out := by
  unfold execDeadTimeExpiry
  intro out e
  split at e <;> cases e <;> simp (maxDischargeDepth := 200) only [keeps_advanceTo, keeps_expireWait, h]

theorem keeps_execInnerTurnOff {s0 : State} (k : Fin 16) (s : State) (h : Keeps s0 s) :
    ∀ out, execInnerTurnOff k s = .next out → Keeps s0 out := by
  unfold execInnerTurnOff
  intro out e
  split at e <;> cases e <;> simp (maxDischargeDepth := 200) only [keeps_advanceTo, keeps_innerOff, h]

theorem keeps_execSyncInMiss {s0 : State} (s : State) (h : Keeps s0 s) :
    ∀ out, execSyncInMiss s = .next out → Keeps s0 out := by
  unfold execSyncInMiss
  intro out e
  dsimp only at e
  repeat' split at e
  all_goals (cases e; simp (maxDischargeDepth := 200) +contextual only [keeps_count, keeps_modTb, keeps_mk, le_refl, h])

theorem keeps_execSyncInPulse {s0 : State} (s : State) (h : Keeps s0 s) :
    ∀ out, execSyncInPulse s = .next out → Keeps s0 out := by
  unfold execSyncInPulse
  intro out e
  cases e
  simp (maxDischargeDepth := 200) only [keeps_syncPulse, h]

end Sys2Proof.Machine
end

