-- ==== Sys2Proof/Laws/KeepsGates.lean ====
section
/-! SUPPORT. What the operations and meanings of Machine/Gates.lean keep: one lemma each, in the form of `Keeps`. -/

set_option maxRecDepth 4000

namespace Sys2Proof.Machine

theorem keeps_returnAcks {s0 : State} (s : State) (k : Nat) (ga : Nat) (h : Keeps s0 s) :
    Keeps s0 (State.returnAcks s k ga) := by
  unfold State.returnAcks
  simp (maxDischargeDepth := 200) +contextual only [keeps_modChan, keeps_forNums, h, implies_true]

theorem keeps_trainTaken {s0 : State} (s : State) (k : Nat) (h : Keeps s0 s) :
    Keeps s0 (State.trainTaken s k) := by
  unfold State.trainTaken
  simp (maxDischargeDepth := 200) +contextual only [keeps_setRegN, h]

theorem keeps_dropClears {s0 : State} (s : State) (k : Nat) (h : Keeps s0 s) :
    Keeps s0 (State.dropClears s k) := by
  unfold State.dropClears
  simp (maxDischargeDepth := 200) +contextual only [keeps_mk, le_refl, h]

theorem keeps_ostTailEnd {s0 : State} (s : State) (k : Nat) (h : Keeps s0 s) :
    Keeps s0 (State.ostTailEnd s k) := by
  unfold State.ostTailEnd
  simp (maxDischargeDepth := 200) +contextual only [keeps_fltStanding, keeps_modGs, keeps_ite, h]

theorem keeps_ackLate {s0 : State} (s : State) (n : Nat) (t : Nat) (h : Keeps s0 s) :
    Keeps s0 (State.ackLate s n t) := by
  unfold State.ackLate
  simp (maxDischargeDepth := 200) +contextual only [keeps_count, keeps_gdlTrip, keeps_modChan, keeps_modGs, keeps_ite, h, implies_true]

theorem keeps_ackJudge {s0 : State} (s : State) (n : Nat) (h : Keeps s0 s) :
    Keeps s0 (State.ackJudge s n) := by
  unfold State.ackJudge
  split <;> simp (maxDischargeDepth := 200) +contextual only [keeps_ackLate, keeps_ite, h]

theorem keeps_ackOverdue {s0 : State} (s : State) (h : Keeps s0 s) :
    Keeps s0 (State.ackOverdue s) := by
  unfold State.ackOverdue
  simp (maxDischargeDepth := 200) +contextual only [keeps_ackJudge, keeps_forNums, keeps_ite, h, implies_true]

theorem keeps_dupCount {s0 : State} (s : State) (k : Nat) (h : Keeps s0 s) :
    Keeps s0 (State.dupCount s k) := by
  unfold State.dupCount
  simp (maxDischargeDepth := 200) +contextual only [keeps_count, keeps_draw, keeps_ite, h]

theorem keeps_testCode {s0 : State} (s : State) (k : Nat) (j : Nat) (w : Option Word) (h : Keeps s0 s) :
    Keeps s0 (State.testCode s k j w) := by
  unfold State.testCode
  dsimp only
  repeat' split
  all_goals simp (maxDischargeDepth := 200) +contextual only [keeps_draw, keeps_modGs, h]

theorem keeps_ringNext {s0 : State} (s : State) (k : Nat) (ended : Bool) (h : Keeps s0 s) :
    Keeps s0 (State.ringNext s k ended) := by
  unfold State.ringNext
  simp (maxDischargeDepth := 200) +contextual only [keeps_modGs, keeps_ite, keeps_mk, le_refl, h]

theorem keeps_tripsStanding {s0 : State} (s : State) (h : Keeps s0 s) :
    Keeps s0 (State.tripsStanding s) := by
  unfold State.tripsStanding
  simp (maxDischargeDepth := 200) +contextual only [keeps_fltStanding, keeps_gdlTrip, keeps_latch, keeps_tripInsStanding, keeps_forNums, keeps_ite, h, implies_true]

theorem keeps_drvGood {s0 : State} (s : State) (k : Nat) (j : Nat) (old : Word) (w : Word) (h : Keeps s0 s) :
    Keeps s0 (State.drvGood s k j old w) := by
  unfold State.drvGood
  simp (maxDischargeDepth := 200) +contextual only [keeps_count, keeps_gdlTrip, keeps_modGs, keeps_note, keeps_ite, h]

theorem keeps_drvSent {s0 : State} (s : State) (k : Nat) (h : Keeps s0 s) :
    Keeps s0 (State.drvSent s k) := by
  unfold State.drvSent
  simp (maxDischargeDepth := 200) only [keeps_modGs, keeps_ite, keeps_mk, le_refl, h]

theorem keeps_drvWord {s0 : State} (s : State) (k : Nat) (j : Nat) (w : Word) (h : Keeps s0 s) :
    Keeps s0 (State.drvWord s k j w) := by
  unfold State.drvWord
  simp (maxDischargeDepth := 200) +contextual only [keeps_drvGood, keeps_modGs, keeps_setRegN, keeps_ite, h]

theorem keeps_nodeWord {s0 : State} (s : State) (k : Nat) (j : Nat) (w : Option Word) (h : Keeps s0 s) :
    Keeps s0 (State.nodeWord s k j w) := by
  unfold State.nodeWord
  dsimp only
  repeat' split
  all_goals simp (maxDischargeDepth := 200) +contextual only [keeps_drvWord, keeps_modGs, h]

theorem keeps_echo {s0 : State} (s : State) (n : Nat) (level : Bool) (h : Keeps s0 s) :
    Keeps s0 (State.echo s n level) := by
  unfold State.echo
  split <;> simp (maxDischargeDepth := 200) only [keeps_modGs, keeps_ite, h]

theorem keeps_gaAccept {s0 : State} (s : State) (n : Nat) (level : Bool) (h : Keeps s0 s) :
    Keeps s0 (State.gaAccept s n level) := by
  unfold State.gaAccept
  simp (maxDischargeDepth := 200) only [keeps_echo, keeps_modChan, keeps_tryRise, keeps_ite, h, implies_true, imp_self]

theorem keeps_gdlFlag {s0 : State} (s : State) (k : Nat) (bit : Nat) (h : Keeps s0 s) :
    Keeps s0 (State.gdlFlag s k bit) := by
  unfold State.gdlFlag
  simp (maxDischargeDepth := 200) +contextual only [keeps_logFlag, keeps_setFlag, h]

theorem keeps_returnTwin {s0 : State} (s : State) (k : Nat) (h : Keeps s0 s) :
    Keeps s0 (State.returnTwin s k) := by
  unfold State.returnTwin
  simp (maxDischargeDepth := 200) +contextual only [keeps_disagree, keeps_gdlFlag, keeps_modTwn, keeps_ite, h]

theorem keeps_returnStatus {s0 : State} (s : State) (k : Nat) (st : Nat) (node : Nat) (h : Keeps s0 s) :
    Keeps s0 (State.returnStatus s k st node) := by
  unfold State.returnStatus
  simp (maxDischargeDepth := 200) +contextual only [keeps_count, keeps_gdlTrip, keeps_latch, keeps_returnTwin, keeps_ite, h]

theorem keeps_trainLink {s0 : State} (s : State) (k : Nat) (h : Keeps s0 s) :
    Keeps s0 (State.trainLink s k) := by
  unfold State.trainLink
  simp (maxDischargeDepth := 200) +contextual only [keeps_beginTurnOff, keeps_dropClears, keeps_modGs, keeps_transmit, keeps_ite, keeps_mk, le_refl, h]

theorem keeps_train {s0 : State} (s : State) (mask : Nat) (h : Keeps s0 s) :
    Keeps s0 (State.train s mask) := by
  unfold State.train
  simp (maxDischargeDepth := 200) +contextual only [keeps_trainLink, keeps_forNums, keeps_ite, h, implies_true]

theorem keeps_trainComplete {s0 : State} (s : State) (h : Keeps s0 s) :
    Keeps s0 (State.trainComplete s) := by
  unfold State.trainComplete
  simp (maxDischargeDepth := 200) +contextual only [keeps_done, keeps_mk, le_refl, h, keeps_foldl, implies_true]

theorem keeps_linkTrain {s0 : State} (s : State) (c : Src) (p : Bytes) (h : Keeps s0 s) :
    Keeps s0 (State.linkTrain s c p) := by
  unfold State.linkTrain
  simp (maxDischargeDepth := 200) only [keeps_refuse, keeps_setRegN, keeps_train, keeps_trainComplete, keeps_ite, keeps_mk, le_refl, h]

theorem keeps_ostBegin {s0 : State} (s : State) (k : Nat) (h : Keeps s0 s) :
    Keeps s0 (State.ostBegin s k) := by
  unfold State.ostBegin
  simp (maxDischargeDepth := 200) +contextual only [keeps_modGs, keeps_ringNext, keeps_setRegN, keeps_ite, h]

theorem keeps_ostFinish {s0 : State} (s : State) (k : Nat) (h : Keeps s0 s) :
    Keeps s0 (State.ostFinish s k) := by
  unfold State.ostFinish
  simp (maxDischargeDepth := 200) +contextual only [keeps_fltStanding, keeps_modGs, keeps_ostComplete, keeps_setRegN, keeps_ite, h]

theorem keeps_ostRingCycle {s0 : State} (s : State) (k : Nat) (words : List Word) (h : Keeps s0 s) :
    Keeps s0 (State.ostRingCycle s k words) := by
  unfold State.ostRingCycle
  simp (maxDischargeDepth := 200) +contextual only [keeps_modGs, keeps_ostFinish, keeps_testCode, keeps_forNums, keeps_ite, h, implies_true]

theorem keeps_ostStart {s0 : State} (s : State) (mask : Nat) (h : Keeps s0 s) :
    Keeps s0 (State.ostStart s mask) := by
  unfold State.ostStart
  simp (maxDischargeDepth := 200) +contextual only [keeps_ostBegin, keeps_forNums, h, implies_true]

theorem keeps_ostRun {s0 : State} (s : State) (c : Src) (p : Bytes) (h : Keeps s0 s) :
    Keeps s0 (State.ostRun s c p) := by
  unfold State.ostRun
  simp (maxDischargeDepth := 200) only [keeps_ostComplete, keeps_ostStart, keeps_refuse, keeps_setRegN, keeps_ite, keeps_mk, le_refl, h]

theorem keeps_ostWrite {s0 : State} (s : State) (mask : Nat) (h : Keeps s0 s) :
    Keeps s0 (State.ostWrite s mask) := by
  unfold State.ostWrite
  simp (maxDischargeDepth := 200) only [keeps_ostStart, keeps_setRegN, h]

theorem keeps_returnBad {s0 : State} (s : State) (k : Nat) (h : Keeps s0 s) :
    Keeps s0 (State.returnBad s k) := by
  unfold State.returnBad
  simp (maxDischargeDepth := 200) only [keeps_count, keeps_gdlTrip, keeps_modGs, keeps_trainLink, keeps_ite, h]

theorem keeps_returnDrv {s0 : State} (s : State) (k : Nat) (f : Bytes) (ostDone : Bool) (h : Keeps s0 s) :
    Keeps s0 (State.returnDrv s k f ostDone) := by
  unfold State.returnDrv
  simp (maxDischargeDepth := 200) +contextual only [keeps_drvWord, keeps_modGs, keeps_ostFinish, keeps_testCode, keeps_ite, keeps_mk, le_refl, h]

theorem keeps_takeBits {s0 : State} (s : State) (k : Nat) (f : Bytes) (h : Keeps s0 s) :
    Keeps s0 (State.takeBits s k f) := by
  unfold State.takeBits
  simp (maxDischargeDepth := 200) only [keeps_mk, le_refl, h]

theorem keeps_returnGood {s0 : State} (s : State) (k : Nat) (f : Bytes) (h : Keeps s0 s) :
    Keeps s0 (State.returnGood s k f) := by
  unfold State.returnGood
  simp (maxDischargeDepth := 200) +contextual only [keeps_dupCount, keeps_modGs, keeps_ostGuard, keeps_returnAcks, keeps_returnDrv, keeps_returnStatus, keeps_takeBits, h]

theorem keeps_ringForClear {s0 : State} (s : State) (k : Nat) (h : Keeps s0 s) :
    Keeps s0 (State.ringForClear s k) := by
  unfold State.ringForClear
  dsimp only
  all_goals simp (maxDischargeDepth := 200) +contextual only [keeps_mk, le_refl, h]

theorem keeps_ringCycle {s0 : State} (s : State) (k : Nat) (words : List Word) (h : Keeps s0 s) : Keeps s0 (s.ringCycle k words) := by
  unfold State.ringCycle
  extract_lets sg g test s1 nodes s2 third s6 s7 s3 allGood s4 s5
  have hg : Keeps s0 sg := keeps_ostGuard _ _ h
  have h1 : Keeps s0 s1 := keeps_ite (keeps_advanceTo _ hg) hg
  have h2 : Keeps s0 s2 := keeps_forNums _ _ (fun j u hu => keeps_nodeWord _ _ _ _ hu) h1
  have h7 : Keeps s0 s7 := keeps_logFlag _ _ _ _ (keeps_setFlag _ _ _ (keeps_modGs _ _ h2))
  have h3 : Keeps s0 s3 := by
    unfold s3
    generalize third = l
    cases l with
    | nil => exact h2
    | cons j tail => exact keeps_ite (keeps_latch _ _ _ _ _ h7) h7
  have h5 : Keeps s0 s5 := keeps_ite (keeps_ostRingCycle _ _ _ (keeps_modGs _ _ h3)) (keeps_ostTailEnd _ _ (keeps_modGs _ _ h3))
  exact keeps_ringNext _ _ _ (keeps_ringForClear _ _ h5)

theorem keeps_trainEnd {s0 : State} (s : State) (k : Nat) (r : TrainResult) (h : Keeps s0 s) :
    Keeps s0 (State.trainEnd s k r) := by
  unfold State.trainEnd
  simp (maxDischargeDepth := 200) +contextual only [keeps_advanceTo, keeps_gdlFlag, keeps_modGs, keeps_setRegN, keeps_trainComplete, keeps_trainTaken, keeps_ite, h]

theorem keeps_trainWrite {s0 : State} (s : State) (mask : Nat) (h : Keeps s0 s) :
    Keeps s0 (State.trainWrite s mask) := by
  unfold State.trainWrite
  simp (maxDischargeDepth := 200) only [keeps_setRegN, keeps_train, h]

theorem keeps_execAckMismatch {s0 : State} (n : Fin 96) (s : State) (h : Keeps s0 s) :
    ∀ out, execAckMismatch n s = .next out → Keeps s0 out := by
  unfold execAckMismatch
  intro out e
  dsimp only at e
  repeat' split at e
  all_goals (cases e; simp (maxDischargeDepth := 200) +contextual only [keeps_advanceTo, keeps_gdlTrip, h])

theorem keeps_execAckTimeout {s0 : State} (n : Fin 96) (s : State) (h : Keeps s0 s) :
    ∀ out, execAckTimeout n s = .next out → Keeps s0 out := by
  unfold execAckTimeout
  intro out e
  split at e <;> cases e <;> simp (maxDischargeDepth := 200) +contextual only [keeps_ackLate, keeps_advanceTo, h]

theorem keeps_execDsrRingCycle {s0 : State} (k : Fin 8) (words : List Word) (s : State) (h : Keeps s0 s) :
    ∀ out, execDsrRingCycle k words s = .next out → Keeps s0 out := by
  unfold execDsrRingCycle
  intro out e
  split at e <;> cases e <;> simp (maxDischargeDepth := 200) only [keeps_ringCycle, h]

theorem keeps_execFltTrip {s0 : State} (k : Fin 8) (low : Bool) (s : State) (h : Keeps s0 s) :
    ∀ out, execFltTrip k low s = .next out → Keeps s0 out := by
  unfold execFltTrip
  intro out e
  repeat' split at e
  all_goals cases e
  all_goals simp (maxDischargeDepth := 200) only [keeps_gdlTrip, keeps_modGs, h]

theorem keeps_execGaConfirm {s0 : State} (n : Fin 96) (level : Bool) (s : State) (h : Keeps s0 s) :
    ∀ out, execGaConfirm n level s = .next out → Keeps s0 out := by
  unfold execGaConfirm
  intro out e
  split at e <;> cases e <;> simp (maxDischargeDepth := 200) +contextual only [keeps_advanceTo, keeps_gaAccept, keeps_ite, h]

theorem keeps_execGcFault {s0 : State} (n : Fin 96) (differs : Bool) (s : State) (h : Keeps s0 s) :
    ∀ out, execGcFault n differs s = .next out → Keeps s0 out := by
  unfold execGcFault
  intro out e
  repeat' split at e
  all_goals cases e
  all_goals simp (maxDischargeDepth := 200) +contextual only [keeps_gdlTrip, keeps_modChan, h, implies_true]

theorem keeps_execGdlLinkTrain {s0 : State} (c : Src) (p : Bytes) (s : State) (h : Keeps s0 s) :
    ∀ out, execGdlLinkTrain c p s = .next out → Keeps s0 out := by
  unfold execGdlLinkTrain
  intro out e
  cases e
  simp (maxDischargeDepth := 200) +contextual only [keeps_linkTrain, keeps_obey, h, implies_true]

theorem keeps_execGdlOstRun {s0 : State} (c : Src) (p : Bytes) (s : State) (h : Keeps s0 s) :
    ∀ out, execGdlOstRun c p s = .next out → Keeps s0 out := by
  unfold execGdlOstRun
  intro out e
  cases e
  simp (maxDischargeDepth := 200) +contextual only [keeps_obey, keeps_ostRun, h, implies_true]

theorem keeps_execGdlOstStart {s0 : State} (mask : BitVec 16) (s : State) (h : Keeps s0 s) :
    ∀ out, execGdlOstStart mask s = .next out → Keeps s0 out := by
  unfold execGdlOstStart
  intro out e
  cases e
  simp (maxDischargeDepth := 200) only [keeps_ostWrite, h]

theorem keeps_execGdlTrain {s0 : State} (mask : BitVec 16) (s : State) (h : Keeps s0 s) :
    ∀ out, execGdlTrain mask s = .next out → Keeps s0 out := by
  unfold execGdlTrain
  intro out e
  cases e
  simp (maxDischargeDepth := 200) only [keeps_trainWrite, h]

theorem keeps_execLinkTrainingComplete {s0 : State} (k : Fin 16) (r : TrainResult) (s : State) (h : Keeps s0 s) :
    ∀ out, execLinkTrainingComplete k r s = .next out → Keeps s0 out := by
  unfold execLinkTrainingComplete
  intro out e
  split at e <;> cases e <;> simp (maxDischargeDepth := 200) only [keeps_trainEnd, h]

theorem keeps_execLoadSend {s0 : State} (k : Fin 16) (s : State) (h : Keeps s0 s) :
    ∀ out, execLoadSend k s = .next out → Keeps s0 out := by
  unfold execLoadSend
  intro out e
  dsimp only at e
  repeat' split at e
  all_goals (cases e; simp (maxDischargeDepth := 200) +contextual only [keeps_advanceTo, keeps_modGs, keeps_transmit, h])

theorem keeps_execPullInFrameSend {s0 : State} (k : Fin 16) (s : State) (h : Keeps s0 s) :
    ∀ out, execPullInFrameSend k s = .next out → Keeps s0 out := by
  unfold execPullInFrameSend
  intro out e
  dsimp only at e
  repeat' split at e
  all_goals (cases e; simp (maxDischargeDepth := 200) +contextual only [keeps_advanceTo, keeps_modGs, keeps_pullEdges, keeps_sendLink, h])

theorem keeps_execReturnFrame {s0 : State} (k : Fin 16) (frame : Bytes) (s : State) (h : Keeps s0 s) :
    ∀ out, execReturnFrame k frame s = .next out → Keeps s0 out := by
  unfold execReturnFrame
  intro out e
  repeat' split at e
  all_goals (cases e; simp (maxDischargeDepth := 200) +contextual only [keeps_returnBad, keeps_returnGood, h])

end Sys2Proof.Machine
end

