-- ==== Sys2Proof/Laws/KeepsHalt.lean ====
section
/-! SUPPORT. What the operations and meanings of Machine/Halt.lean keep: one lemma each, in the form of `Keeps`. -/

set_option maxRecDepth 4000

namespace Sys2Proof.Machine

theorem keeps_expectOff {s0 : State} (s : State) (h : Keeps s0 s) :
    Keeps s0 (State.expectOff s) := by
  unfold State.expectOff
  simp (maxDischargeDepth := 200) +contextual only [keeps_modChan, keeps_forNums, keeps_ite, h, implies_true]

theorem keeps_dropStartsIf {s0 : State} (s : State) (detail : PendOp → Nat) (h : Keeps s0 s) :
    Keeps s0 (State.dropStartsIf s detail) := by
  unfold State.dropStartsIf
  simp (maxDischargeDepth := 200) +contextual only [keeps_foldl, keeps_modOps, keeps_refuse, keeps_foldl, h, implies_true]

theorem keeps_sporeRecord {s0 : State} (s : State) (r : SporeRec) (h : Keeps s0 s) : Keeps s0 (s.sporeRecord r) := by
  unfold State.sporeRecord
  apply keeps_mirror
  apply keeps_note
  split
  · exact keeps_modNtRecs _ h fun _ => by simp only [List.length_append, List.length_singleton]; omega
  · exact keeps_count _ _ _ h

theorem keeps_sporeDiscard {s0 : State} (s : State) (i : Nat) (h : Keeps s0 s) :
    Keeps s0 (State.sporeDiscard s i) := by
  unfold State.sporeDiscard
  split <;> simp (maxDischargeDepth := 200) only [keeps_modNt, keeps_sporeRecord, h]

theorem keeps_discardSpores {s0 : State} (s : State) (h : Keeps s0 s) :
    Keeps s0 (State.discardSpores s) := by
  unfold State.discardSpores
  simp (maxDischargeDepth := 200) +contextual only [keeps_modNt, keeps_sporeDiscard, keeps_sporeRecord, keeps_forNums, h, keeps_foldl, implies_true]

theorem keeps_dropCommits {s0 : State} (s : State) (h : Keeps s0 s) :
    Keeps s0 (State.dropCommits s) := by
  unfold State.dropCommits
  simp (maxDischargeDepth := 200) +contextual only [keeps_modStg, keeps_refuse, h, keeps_foldl, implies_true]

theorem keeps_waitDone {s0 : State} (s : State) (w : EngWait) (h : Keeps s0 s) :
    Keeps s0 (State.waitDone s w) := by
  unfold State.waitDone
  split <;> simp (maxDischargeDepth := 200) only [keeps_complete, keeps_sporeRecord, h]

theorem keeps_waitReport {s0 : State} (s : State) (who : WaitFor) (e : Nat) (code : Nat) (detail : Nat) (at_ : DWord) (join : Nat → Nat → Nat) (h : Keeps s0 s) :
    Keeps s0 (State.waitReport s who e code detail at_ join) := by
  unfold State.waitReport
  split <;> simp (maxDischargeDepth := 200) only [keeps_waitDone, keeps_ite, keeps_mk, le_refl, h]

theorem keeps_dropSporeWork {s0 : State} (s : State) (e : Nat) (h : Keeps s0 s) : Keeps s0 (s.dropSporeWork e) := by
  unfold State.dropSporeWork
  refine keeps_foldl _ _ (fun u x hu => ?_) (keeps_foldl _ _ (fun u x hu => keeps_waitReport _ _ _ _ _ _ _ hu) (keeps_modEng _ _ h))
  split
  · exact keeps_waitReport _ _ _ _ _ _ _ hu
  · exact hu

theorem keeps_dropStarts {s0 : State} (s : State) (detail : Nat) (h : Keeps s0 s) :
    Keeps s0 (State.dropStarts s detail) := by
  unfold State.dropStarts
  simp (maxDischargeDepth := 200) +contextual only [keeps_dropStartsIf, h]

theorem keeps_safJudge {s0 : State} (s : State) (h : Keeps s0 s) :
    Keeps s0 (State.safJudge s) := by
  unfold State.safJudge
  simp (maxDischargeDepth := 200) +contextual only [keeps_modSaf, h]

theorem keeps_enginesStop {s0 : State} (s : State) (h : Keeps s0 s) :
    Keeps s0 (State.enginesStop s) := by
  unfold State.enginesStop
  simp (maxDischargeDepth := 200) +contextual only [keeps_dropSporeWork, keeps_modEng, keeps_forNums, h, implies_true]

theorem keeps_stopChannels {s0 : State} (s : State) (h : Keeps s0 s) :
    Keeps s0 (State.stopChannels s) := by
  unfold State.stopChannels
  simp (maxDischargeDepth := 200) +contextual only [keeps_expectOff, keeps_forceLows, keeps_modChan, keeps_turnOffAll, keeps_forNums, h, implies_true]

theorem keeps_haltOutputs {s0 : State} (s : State) (h : Keeps s0 s) :
    Keeps s0 (State.haltOutputs s) := by
  unfold State.haltOutputs
  simp (maxDischargeDepth := 200) +contextual only [keeps_modChan, keeps_modTwn, keeps_stopChannels, keeps_forNums, keeps_ite, h, implies_true]

theorem keeps_halt {s0 : State} (s : State) (cause : Nat) (h : Keeps s0 s) :
    Keeps s0 (State.halt s cause) := by
  unfold State.halt
  simp (maxDischargeDepth := 200) +contextual only [keeps_acqStopAll, keeps_discardSpores, keeps_dmaAbortAll, keeps_dropCommits, keeps_dropStartsIf, keeps_enginesStop, keeps_enter, keeps_foldl, keeps_haltOutputs, keeps_modOps, keeps_modSaf, keeps_modTwn, keeps_ostGuard, keeps_refuse, keeps_safJudge, keeps_foldl, keeps_forNums, keeps_ite, keeps_mk, le_refl, h, implies_true]

theorem keeps_engineFault {s0 : State} (s : State) (e : Nat) (h : Keeps s0 s) :
    Keeps s0 (State.engineFault s e) := by
  unfold State.engineFault
  simp (maxDischargeDepth := 200) +contextual only [keeps_halt, keeps_modEng, h]

theorem keeps_unfinished {s0 : State} (s : State) (e : Nat) (h : Keeps s0 s) :
    Keeps s0 (State.unfinished s e) := by
  unfold State.unfinished
  simp (maxDischargeDepth := 200) +contextual only [keeps_engineFault, keeps_ite, h]

theorem keeps_opsHalt {s0 : State} (s : State) (c : Src) (h : Keeps s0 s) :
    Keeps s0 (State.opsHalt s c) := by
  unfold State.opsHalt
  simp (maxDischargeDepth := 200) +contextual only [keeps_done, keeps_halt, keeps_ite, h]

theorem keeps_toIdle {s0 : State} (s : State) (cause : Nat) (h : Keeps s0 s) :
    Keeps s0 (State.toIdle s cause) := by
  unfold State.toIdle
  simp (maxDischargeDepth := 200) +contextual only [keeps_dropStarts, keeps_enginesStop, keeps_enter, keeps_forceLows, h]

theorem keeps_toStopping {s0 : State} (s : State) (cause : Nat) (h : Keeps s0 s) :
    Keeps s0 (State.toStopping s cause) := by
  unfold State.toStopping
  simp (maxDischargeDepth := 200) only [keeps_dropStarts, keeps_enginesStop, keeps_enter, keeps_stopChannels, h]

theorem keeps_waitStart {s0 : State} (s : State) (who : WaitFor) (mask : Nat) (h : Keeps s0 s) :
    Keeps s0 (State.waitStart s who mask) := by
  unfold State.waitStart
  simp (maxDischargeDepth := 200) only [keeps_mk, le_refl, h]

theorem keeps_execCoreLockstepMismatch {s0 : State} (s : State) (h : Keeps s0 s) :
    ∀ out, execCoreLockstepMismatch s = .next out → Keeps s0 out := by
  unfold execCoreLockstepMismatch
  intro out e
  cases e
  simp (maxDischargeDepth := 200) only [keeps_halt, h]

theorem keeps_execEngineDeadlineMiss {s0 : State} (e : Fin 8) (s : State) (h : Keeps s0 s) :
    ∀ out, execEngineDeadlineMiss e s = .next out → Keeps s0 out := by
  unfold execEngineDeadlineMiss
  intro out e
  split at e <;> cases e <;> simp (maxDischargeDepth := 200) +contextual only [keeps_advanceTo, keeps_engineFault, h]

theorem keeps_execEngineEccError {s0 : State} (e : Fin 8) (corrected : Bool) (s : State) (h : Keeps s0 s) :
    ∀ out, execEngineEccError e corrected s = .next out → Keeps s0 out := by
  unfold execEngineEccError
  intro out e
  dsimp only at e
  repeat' split at e
  all_goals (cases e; simp (maxDischargeDepth := 200) +contextual only [keeps_count, keeps_engineFault, keeps_keepMax, keeps_modEng, h])

theorem keeps_execMemEccError {s0 : State} (s : State) (h : Keeps s0 s) :
    ∀ out, execMemEccError s = .next out → Keeps s0 out := by
  unfold execMemEccError
  intro out e
  cases e
  simp (maxDischargeDepth := 200) only [keeps_halt, h]

theorem keeps_execOpsHalt {s0 : State} (c : Src) (s : State) (h : Keeps s0 s) :
    ∀ out, execOpsHalt c s = .next out → Keeps s0 out := by
  unfold execOpsHalt
  intro out e
  cases e
  simp (maxDischargeDepth := 200) +contextual only [keeps_acting, keeps_opsHalt, h, implies_true]

theorem keeps_execRegulatorFault {s0 : State} (s : State) (h : Keeps s0 s) :
    ∀ out, execRegulatorFault s = .next out → Keeps s0 out := by
  unfold execRegulatorFault
  intro out e
  cases e
  simp (maxDischargeDepth := 200) only [keeps_halt, h]

theorem keeps_execWatchdogExpiry {s0 : State} (s : State) (h : Keeps s0 s) :
    ∀ out, execWatchdogExpiry s = .next out → Keeps s0 out := by
  unfold execWatchdogExpiry
  intro out e
  cases e
  simp (maxDischargeDepth := 200) only [keeps_halt, h]

end Sys2Proof.Machine
end

