-- ==== Sys2Proof/Laws/KeepsSaf.lean ====
section
/-! SUPPORT. What the operations and meanings of Machine/Saf.lean keep: one lemma each, in the form of `Keeps`. -/

set_option maxRecDepth 4000

namespace Sys2Proof.Machine

theorem keeps_safNote {s0 : State} (s : State) (bit : Nat) (h : Keeps s0 s) :
    Keeps s0 (State.safNote s bit) := by
  unfold State.safNote
  simp (maxDischargeDepth := 200) only [keeps_note, h]

theorem keeps_demandBegins {s0 : State} (s : State) (k : Nat) (h : Keeps s0 s) :
    Keeps s0 (State.demandBegins s k) := by
  unfold State.demandBegins
  simp (maxDischargeDepth := 200) +contextual only [keeps_acqOffer, keeps_count, keeps_modSaf, keeps_notify, keeps_ptmAsk, keeps_safNote, keeps_setReg, keeps_ite, h]

theorem keeps_safUpdate {s0 : State} (s : State) (h : Keeps s0 s) :
    Keeps s0 (State.safUpdate s) := by
  unfold State.safUpdate
  dsimp only
  repeat' split
  all_goals simp (maxDischargeDepth := 200) +contextual only [keeps_safJudge, keeps_toIdle, keeps_toStopping, keeps_turnOffAll, h]

theorem keeps_modPair {s0 : State} (s : State) (k : Nat) (f : SafPair → SafPair) (h : Keeps s0 s) :
    Keeps s0 (State.modPair s k f) := by
  unfold State.modPair
  simp (maxDischargeDepth := 200) only [keeps_modSaf, h]

theorem keeps_demandPair {s0 : State} (s : State) (k : Nat) (old : Bool × Bool) (new : Bool × Bool) (h : Keeps s0 s) :
    Keeps s0 (State.demandPair s k old new) := by
  unfold State.demandPair
  simp (maxDischargeDepth := 200) +contextual only [keeps_demandBegins, keeps_modPair, keeps_safUpdate, keeps_ite, h]

theorem keeps_modSafCh {s0 : State} (s : State) (ch : SafCh) (f : SafChan → SafChan) (h : Keeps s0 s) :
    Keeps s0 (State.modSafCh s ch f) := by
  unfold State.modSafCh
  simp (maxDischargeDepth := 200) only [keeps_modSaf, h]

theorem keeps_resetPair {s0 : State} (s : State) (k : Nat) (new : Bool × Bool) (h : Keeps s0 s) :
    Keeps s0 (State.resetPair s k new) := by
  unfold State.resetPair
  simp (maxDischargeDepth := 200) only [keeps_modPair, keeps_modSaf, keeps_safNote, keeps_safUpdate, keeps_ite, h]

theorem keeps_safFault {s0 : State} (s : State) (ch : SafCh) (code : Nat) (h : Keeps s0 s) :
    Keeps s0 (State.safFault s ch code) := by
  unfold State.safFault
  simp (maxDischargeDepth := 200) only [keeps_halt, keeps_modSaf, keeps_modSafCh, keeps_notify, keeps_safJudge, keeps_safNote, h]

theorem keeps_safInput {s0 : State} (s : State) (k : Nat) (lineB : Bool) (level : Bool) (h : Keeps s0 s) :
    Keeps s0 (State.safInput s k lineB level) := by
  unfold State.safInput
  dsimp only
  repeat' split
  all_goals simp (maxDischargeDepth := 200) +contextual only [keeps_demandPair, keeps_modPair, keeps_resetPair, h]

theorem keeps_safTakeSet {s0 : State} (s : State) (h : Keeps s0 s) :
    Keeps s0 (State.safTakeSet s) := by
  unfold State.safTakeSet
  simp (maxDischargeDepth := 200) +contextual only [keeps_demandPair, keeps_modPair, keeps_modSaf, keeps_safUpdate, keeps_forNums, keeps_ite, h, implies_true]

theorem keeps_execCrossFault {s0 : State} (observer : SafCh) (s : State) (h : Keeps s0 s) :
    ∀ out, execCrossFault observer s = .next out → Keeps s0 out := by
  unfold execCrossFault
  intro out e
  dsimp only at e
  repeat' split at e
  all_goals (cases e; simp (maxDischargeDepth := 200) +contextual only [keeps_safFault, h])

theorem keeps_execDiscrepancy {s0 : State} (k : Fin 4) (s : State) (h : Keeps s0 s) :
    ∀ out, execDiscrepancy k s = .next out → Keeps s0 out := by
  unfold execDiscrepancy
  intro out e
  dsimp only at e
  repeat' split at e
  all_goals (cases e; simp (maxDischargeDepth := 200) +contextual only [keeps_advanceTo, keeps_count, keeps_modPair, keeps_safNote, keeps_safUpdate, h])

theorem keeps_execOffPulseEnd {s0 : State} (ch : SafCh) (s : State) (h : Keeps s0 s) :
    ∀ out, execOffPulseEnd ch s = .next out → Keeps s0 out := by
  unfold execOffPulseEnd
  intro out e
  split at e <;> cases e <;> simp (maxDischargeDepth := 200) only [keeps_advanceTo, keeps_count, keeps_modSafCh, keeps_ite, h]

theorem keeps_execOffPulseStart {s0 : State} (ch : SafCh) (s : State) (h : Keeps s0 s) :
    ∀ out, execOffPulseStart ch s = .next out → Keeps s0 out := by
  unfold execOffPulseStart
  intro out e
  dsimp only at e
  repeat' split at e
  all_goals (cases e; simp (maxDischargeDepth := 200) +contextual only [keeps_advanceTo, keeps_modSafCh, h])

theorem keeps_execPsetMismatchTimeout {s0 : State} (s : State) (h : Keeps s0 s) :
    ∀ out, execPsetMismatchTimeout s = .next out → Keeps s0 out := by
  unfold execPsetMismatchTimeout
  intro out e
  split at e <;> cases e <;> simp (maxDischargeDepth := 200) +contextual only [keeps_advanceTo, keeps_modSafCh, keeps_safFault, h]

theorem keeps_execReadbackCheck {s0 : State} (ch : SafCh) (level : Bool) (s : State) (h : Keeps s0 s) :
    ∀ out, execReadbackCheck ch level s = .next out → Keeps s0 out := by
  unfold execReadbackCheck
  intro out e
  dsimp only at e
  repeat' split at e
  all_goals (cases e; simp (maxDischargeDepth := 200) +contextual only [keeps_advanceTo, keeps_modSafCh, keeps_safFault, h])

theorem keeps_execSafetyClockFault {s0 : State} (ch : SafCh) (s : State) (h : Keeps s0 s) :
    ∀ out, execSafetyClockFault ch s = .next out → Keeps s0 out := by
  unfold execSafetyClockFault
  intro out e
  cases e
  simp (maxDischargeDepth := 200) only [keeps_safFault, h]

theorem keeps_execSafetyInputChange {s0 : State} (k : Fin 4) (lineB : Bool) (level : Bool) (s : State) (h : Keeps s0 s) :
    ∀ out, execSafetyInputChange k lineB level s = .next out → Keeps s0 out := by
  unfold execSafetyInputChange
  intro out e
  cases e
  simp (maxDischargeDepth := 200) only [keeps_safInput, h]

theorem keeps_execSafetyLockstepMismatch {s0 : State} (s : State) (h : Keeps s0 s) :
    ∀ out, execSafetyLockstepMismatch s = .next out → Keeps s0 out := by
  unfold execSafetyLockstepMismatch
  intro out e
  cases e
  simp (maxDischargeDepth := 200) only [keeps_safFault, h]

end Sys2Proof.Machine
end

