-- ==== Sys2Proof/Laws/KeepsAuth.lean ====
section
/-! SUPPORT. What the operations and meanings of Machine/Auth.lean keep: one lemma each, in the form of `Keeps`. -/

set_option maxRecDepth 4000

namespace Sys2Proof.Machine

theorem keeps_setLastSeq {s0 : State} (s : State) (ring : Nat) (v : DWord) (h : Keeps s0 s) :
    Keeps s0 (State.setLastSeq s ring v) := by
  unfold State.setLastSeq
  simp (maxDischargeDepth := 200) +contextual only [keeps_modRep, keeps_setReg, keeps_ite, h]

theorem keeps_grantTaken {s0 : State} (s : State) (ring : Nat) (seq : DWord) (p : Bytes) (h : Keeps s0 s) :
    Keeps s0 (State.grantTaken s ring seq p) := by
  unfold State.grantTaken
  simp (maxDischargeDepth := 200) +contextual only [keeps_draw, keeps_modRep, keeps_setLastSeq, h]

theorem keeps_grantsDie {s0 : State} (s : State) (hit : Handed → Bool) (h : Keeps s0 s) :
    Keeps s0 (State.grantsDie s hit) := by
  unfold State.grantsDie
  simp (maxDischargeDepth := 200) +contextual only [keeps_modCmd, keeps_modMgt, h]

theorem keeps_unwrapFree {s0 : State} (s : State) (g : PendGrant) (h : Keeps s0 s) :
    Keeps s0 (State.unwrapFree s g) := by
  unfold State.unwrapFree
  simp (maxDischargeDepth := 200) +contextual only [keeps_backPressure, keeps_modCmd, keeps_forNums, keeps_ite, h, implies_true]

theorem keeps_grantQueue {s0 : State} (s : State) (g : PendGrant) (h : Keeps s0 s) :
    Keeps s0 (State.grantQueue s g) := by
  unfold State.grantQueue
  simp (maxDischargeDepth := 200) +contextual only [keeps_backPressure, keeps_modCmd, keeps_modSec, keeps_ite, h]

theorem keeps_grantGo {s0 : State} (s : State) (c : Src) (plant : Bool) (p : Bytes) (h : Keeps s0 s) :
    Keeps s0 (State.grantGo s c plant p) := by
  unfold State.grantGo
  simp (maxDischargeDepth := 200) +contextual only [keeps_grantQueue, h]

theorem keeps_copyAnchors {s0 : State} (s : State) (h : Keeps s0 s) :
    Keeps s0 (State.copyAnchors s) := by
  unfold State.copyAnchors
  simp (maxDischargeDepth := 200) only [keeps_modMgt, keeps_ite, h]

theorem nandTurn_anchor (s : State) (k : Nat) : s.nandTurn.anchor k = s.anchor k := by
  unfold State.nandTurn State.logFlush; split <;> rfl

/-- Writing an anchor slot other than the vendor root's, with one more fuse burnt. -/
theorem keeps_setAnchor {s0 : State} (s : State) (slot : Nat) (a : Anchor) (h : Keeps s0 s) (h0 : slot ≠ 0)
    (hg : a.otpGen = (s.anchor slot).otpGen + 1) (hb : (s.anchor slot).otpGen < 15) : Keeps s0 (s.setAnchor slot a) := by
  have key : ∀ k, (s.setAnchor slot a).anchor k = if slot = k ∧ slot < 16 then a else s.anchor k := by
    intro k
    simp only [State.setAnchor, State.modSec, State.anchor, vget, vset]
    by_cases hs : slot < 16
    · by_cases hk : k < 16
      · simp [Vector.getElem_setIfInBounds, hs, hk]
      · simp [hk, hs]; omega
    · rw [show s.sec.anchors.setIfInBounds slot a = s.sec.anchors by
        ext i hi; rw [Vector.getElem_setIfInBounds]; rw [if_neg (by omega)]]
      simp [hs]
  refine h.trans ⟨rfl, le_rfl, ⟨fun k => ?_, ?_, le_rfl, rfl⟩, fun x => ⟨x.gates, x.queues, x.stores, fun k => ?_⟩⟩
  · rw [key]; split
    · rename_i hk; rw [← hk.1]; omega
    · exact le_rfl
  · rw [key, if_neg (by omega)]
  · rw [key]; split
    · omega
    · exact x.fuses k

theorem anchorRefusal_none {s : State} {slot gen : Nat} (e : s.anchorRefusal slot gen = none) :
    slot ≠ 0 ∧ gen = (s.anchor slot).otpGen + 1 ∧ (s.anchor slot).otpGen < 15 := by
  unfold State.anchorRefusal at e
  split at e
  · cases e
  · split at e
    · cases e
    · split at e
      · cases e
      · rename_i h1 h2 h3
        exact ⟨h3, by omega, by omega⟩

theorem keeps_retireGrants {s0 : State} (s : State) (slot : Nat) (h : Keeps s0 s) :
    Keeps s0 (State.retireGrants s slot) := by
  unfold State.retireGrants
  simp (maxDischargeDepth := 200) +contextual only [keeps_grantsDie, keeps_modRep, keeps_modSec, keeps_forNums, h, implies_true]

theorem keeps_anchorInstall {s0 : State} (s : State) (c : Src) (p : Bytes) (h : Keeps s0 s) : Keeps s0 (s.anchorInstall c p) := by
  unfold State.anchorInstall
  dsimp only
  split
  · exact keeps_refuse _ _ _ _ _ h
  · rename_i e
    obtain ⟨h0, hg, hb⟩ := anchorRefusal_none e
    have h1 := fun a ha => keeps_setAnchor s.nandTurn (pb p 0) a (keeps_nandTurn s h) h0
      (by rw [nandTurn_anchor]; exact ha) (by rw [nandTurn_anchor]; exact hb)
    simp (maxDischargeDepth := 200) only [keeps_ite, keeps_refuse, keeps_done, keeps_copyAnchors, keeps_modSec, keeps_retireGrants, h, h1, hg, Anchor.make]

theorem keeps_anchorRevoke {s0 : State} (s : State) (c : Src) (p : Bytes) (h : Keeps s0 s) : Keeps s0 (s.anchorRevoke c p) := by
  unfold State.anchorRevoke
  dsimp only
  split
  · exact keeps_refuse _ _ _ _ _ h
  · rename_i e
    obtain ⟨h0, hg, hb⟩ := anchorRefusal_none e
    have h1 := fun a ha => keeps_setAnchor s.nandTurn (pb p 0) a (keeps_nandTurn s h) h0
      (by rw [nandTurn_anchor]; exact ha) (by rw [nandTurn_anchor]; exact hb)
    simp (maxDischargeDepth := 200) only [keeps_ite, keeps_refuse, keeps_done, keeps_copyAnchors, keeps_retireGrants, h, h1, hg]

theorem keeps_eraseKeys {s0 : State} (s : State) (h : Keeps s0 s) :
    Keeps s0 (State.eraseKeys s) := by
  unfold State.eraseKeys
  simp (maxDischargeDepth := 200) +contextual only [keeps_grantsDie, keeps_modRep, keeps_modSec, keeps_forNums, h, implies_true]

theorem keeps_grantAccept {s0 : State} (s : State) (c : Src) (plant : Bool) (p : Bytes) (h : Keeps s0 s) :
    Keeps s0 (State.grantAccept s c plant p) := by
  unfold State.grantAccept
  simp (maxDischargeDepth := 200) +contextual only [keeps_grantGo, keeps_took, keeps_ite, h]

theorem keeps_grantInstall {s0 : State} (s : State) (g : PendGrant) (h : Keeps s0 s) :
    Keeps s0 (State.grantInstall s g) := by
  unfold State.grantInstall
  dsimp only
  repeat' split
  all_goals simp (maxDischargeDepth := 200) +contextual only [keeps_done, keeps_modRep, keeps_modSec, keeps_refuse, h]

theorem keeps_keyRetire {s0 : State} (s : State) (c : Src) (p : Bytes) (h : Keeps s0 s) :
    Keeps s0 (State.keyRetire s c p) := by
  unfold State.keyRetire
  simp (maxDischargeDepth := 200) +contextual only [keeps_done, keeps_modRep, keeps_modSec, keeps_ite, h]

theorem keeps_tamper {s0 : State} (s : State) (n : Nat) (h : Keeps s0 s) :
    Keeps s0 (State.tamper s n) := by
  unfold State.tamper
  simp (maxDischargeDepth := 200) only [keeps_countWrap, keeps_eraseKeys, keeps_halt, keeps_modSec, keeps_notify, keeps_setFlag, keeps_ite, h]

theorem keeps_execAnchorInstall {s0 : State} (c : Src) (p : Bytes) (s : State) (h : Keeps s0 s) :
    ∀ out, execAnchorInstall c p s = .next out → Keeps s0 out := by
  unfold execAnchorInstall
  intro out e
  cases e
  simp (maxDischargeDepth := 200) +contextual only [keeps_anchorInstall, keeps_obey, h, implies_true]

theorem keeps_execAnchorRevoke {s0 : State} (c : Src) (p : Bytes) (s : State) (h : Keeps s0 s) :
    ∀ out, execAnchorRevoke c p s = .next out → Keeps s0 out := by
  unfold execAnchorRevoke
  intro out e
  cases e
  simp (maxDischargeDepth := 200) +contextual only [keeps_anchorRevoke, keeps_obey, h, implies_true]

theorem keeps_execGrantUnwrap {s0 : State} (ring : Fin 129) (s : State) (h : Keeps s0 s) :
    ∀ out, execGrantUnwrap ring s = .next out → Keeps s0 out := by
  unfold execGrantUnwrap
  intro out e
  split at e <;> cases e <;> simp (maxDischargeDepth := 200) +contextual only [keeps_grantInstall, keeps_unwrapFree, h]

theorem keeps_execKeyGrant {s0 : State} (c : Src) (p : Bytes) (s : State) (h : Keeps s0 s) :
    ∀ out, execKeyGrant c p s = .next out → Keeps s0 out := by
  unfold execKeyGrant
  intro out e
  cases e
  simp (maxDischargeDepth := 200) +contextual only [keeps_grantAccept, keeps_obey, h, implies_true]

theorem keeps_execKeyRetire {s0 : State} (c : Src) (p : Bytes) (s : State) (h : Keeps s0 s) :
    ∀ out, execKeyRetire c p s = .next out → Keeps s0 out := by
  unfold execKeyRetire
  intro out e
  cases e
  simp (maxDischargeDepth := 200) +contextual only [keeps_keyRetire, keeps_obey, h, implies_true]

theorem keeps_execPlantKeyGrant {s0 : State} (c : Src) (p : Bytes) (s : State) (h : Keeps s0 s) :
    ∀ out, execPlantKeyGrant c p s = .next out → Keeps s0 out := by
  unfold execPlantKeyGrant
  intro out e
  cases e
  simp (maxDischargeDepth := 200) +contextual only [keeps_grantAccept, keeps_obey, h, implies_true]

theorem keeps_execTamperDetection {s0 : State} (source : Fin 10) (s : State) (h : Keeps s0 s) :
    ∀ out, execTamperDetection source s = .next out → Keeps s0 out := by
  unfold execTamperDetection
  intro out e
  split at e <;> cases e <;> simp (maxDischargeDepth := 200) +contextual only [keeps_tamper, h]

end Sys2Proof.Machine
end

