-- ==== Sys2Proof/Laws/KeepsProfile.lean ====
section
/-! SUPPORT. What the operations and meanings of Machine/Profile.lean keep: one lemma each, in the form of `Keeps`. -/

set_option maxRecDepth 4000

namespace Sys2Proof.Machine

theorem keeps_modOsc {s0 : State} (s : State) (e : Nat) (i : Nat) (f : OscInput → OscInput) (h : Keeps s0 s) :
    Keeps s0 (State.modOsc s e i f) := by
  unfold State.modOsc
  simp (maxDischargeDepth := 200) only [keeps_modEng, h]

theorem keeps_modPrf {s0 : State} (s : State) (e : Nat) (c : Nat) (f : PrfChan → PrfChan) (h : Keeps s0 s) :
    Keeps s0 (State.modPrf s e c f) := by
  unfold State.modPrf
  simp (maxDischargeDepth := 200) only [keeps_modEng, h]

theorem keeps_oscAct {s0 : State} (s : State) (e : Nat) (i : Nat) (busy : Bool) (h : Keeps s0 s) :
    Keeps s0 (State.oscAct s e i busy) := by
  unfold State.oscAct
  simp (maxDischargeDepth := 200) +contextual only [keeps_acqOffer, keeps_count, keeps_latch, keeps_modOsc, keeps_note, keeps_ptmAsk, keeps_setFlag, keeps_setReg, keeps_forNums, keeps_ite, h, implies_true]

theorem keeps_prfClearStart {s0 : State} (s : State) (e : Nat) (h : Keeps s0 s) :
    Keeps s0 (State.prfClearStart s e) := by
  unfold State.prfClearStart
  simp (maxDischargeDepth := 200) +contextual only [keeps_modPrf, keeps_forNums, h, implies_true]

theorem keeps_prfFlag {s0 : State} (s : State) (e : Nat) (c : Nat) (n : Nat) (h : Keeps s0 s) :
    Keeps s0 (State.prfFlag s e c n) := by
  unfold State.prfFlag
  simp (maxDischargeDepth := 200) only [keeps_setReg, h]

theorem keeps_prfHold {s0 : State} (s : State) (e : Nat) (h : Keeps s0 s) :
    Keeps s0 (State.prfHold s e) := by
  unfold State.prfHold
  simp (maxDischargeDepth := 200) +contextual only [keeps_modPrf, keeps_prfFlag, keeps_forNums, keeps_ite, h, implies_true]

theorem keeps_prfInit {s0 : State} (s : State) (e : Nat) (h : Keeps s0 s) :
    Keeps s0 (State.prfInit s e) := by
  unfold State.prfInit
  simp (maxDischargeDepth := 200) +contextual only [keeps_modPrf, keeps_forNums, h, implies_true]

theorem keeps_prfTarget {s0 : State} (s : State) (e : Nat) (c : Nat) (w : Word) (h : Keeps s0 s) :
    Keeps s0 (State.prfTarget s e c w).2 := by
  unfold State.prfTarget
  simp (maxDischargeDepth := 200) only [keeps_prfFlag, keeps_ite, h]

theorem keeps_prfPreset {s0 : State} (s : State) (e : Nat) (h : Keeps s0 s) :
    Keeps s0 (State.prfPreset s e) := by
  unfold State.prfPreset
  simp (maxDischargeDepth := 200) +contextual only [keeps_modPrf, keeps_prfTarget, keeps_forNums, h, implies_true]

theorem keeps_prfStart {s0 : State} (s : State) (e : Nat) (c : Nat) (w : Word) (h : Keeps s0 s) :
    Keeps s0 (State.prfStart s e c w) := by
  unfold State.prfStart
  simp (maxDischargeDepth := 200) only [keeps_modPrf, keeps_prfTarget, keeps_setReg, keeps_ite, h]

theorem keeps_prfStep {s0 : State} (s : State) (e : Nat) (h : Keeps s0 s) : Keeps s0 (s.prfStep e) := by
  unfold State.prfStep
  refine keeps_forNums _ _ (fun c u hu => ?_) h
  dsimp only
  split <;> simp (maxDischargeDepth := 200) only [keeps_ite, keeps_setReg, keeps_prfFlag, keeps_modPrf, hu]

theorem keeps_execOscDetect {s0 : State} (e : Fin 8) (i : Fin 16) (s : State) (h : Keeps s0 s) :
    ∀ out, execOscDetect e i s = .next out → Keeps s0 out := by
  unfold execOscDetect
  intro out e
  dsimp only at e
  repeat' split at e
  all_goals (cases e; simp (maxDischargeDepth := 200) +contextual only [keeps_modOsc, h])

theorem keeps_execOscTimeout {s0 : State} (e : Fin 8) (i : Fin 16) (s : State) (h : Keeps s0 s) :
    ∀ out, execOscTimeout e i s = .next out → Keeps s0 out := by
  unfold execOscTimeout
  intro out e
  dsimp only at e
  repeat' split at e
  all_goals (cases e; simp (maxDischargeDepth := 200) +contextual only [keeps_modOsc, h])

end Sys2Proof.Machine
end

