-- ==== Sys2Proof/Laws/KeepsEngines.lean ====
section
/-! SUPPORT. What the operations and meanings of Machine/Engines.lean keep: one lemma each, in the form of `Keeps`. -/

set_option maxRecDepth 4000

namespace Sys2Proof.Machine

theorem keeps_publishSet {s0 : State} (s v : State) (shadow : List ShadowEdge) (e : Nat) (h : Keeps s0 s) :
    Keeps s0 (State.publishSet s v shadow e) := by
  unfold State.publishSet
  refine keeps_foldl _ _ (fun u x hu => keeps_ite (keeps_modChan _ _ hu fun c => ?_) hu) h
  split <;> exact id

theorem keeps_takeSeen {s0 : State} (s : State) (e : Nat) (h : Keeps s0 s) :
    Keeps s0 (State.takeSeen s e) := by
  unfold State.takeSeen
  simp (maxDischargeDepth := 200) +contextual only [keeps_modEng, h]

theorem keeps_digestCheck {s0 : State} (s : State) (t : Nat) (h : Keeps s0 s) :
    Keeps s0 (State.digestCheck s t) := by
  unfold State.digestCheck
  dsimp only
  repeat' split
  all_goals simp (maxDischargeDepth := 200) +contextual only [keeps_engineFault, keeps_modEng, keeps_forNums, h, implies_true]

theorem keeps_refreshWork {s0 : State} (s : State) (e : Nat) (h : Keeps s0 s) :
    Keeps s0 (State.refreshWork s e) := by
  unfold State.refreshWork
  split <;> simp (maxDischargeDepth := 200) only [keeps_modEng, keeps_ite, h]

theorem keeps_engineReset {s0 : State} (s : State) (e : Nat) (h : Keeps s0 s) :
    Keeps s0 (State.engineReset s e) := by
  unfold State.engineReset
  split <;> simp (maxDischargeDepth := 200) only [keeps_modEng, keeps_prfInit, keeps_refreshWork, h]

theorem keeps_enqueue {s0 : State} (s : State) (c : Src) (op : Nat) (p : Bytes) (mask : Nat) (take : Option DWord) (h : Keeps s0 s) :
    Keeps s0 (State.enqueue s c op p mask take) := by
  unfold State.enqueue
  simp (maxDischargeDepth := 200) +contextual only [keeps_mirror, keeps_modEng, keeps_took, keeps_waitStart, keeps_forNums, keeps_ite, h, implies_true]

theorem keeps_fadeFinish {s0 : State} (s : State) (e : Nat) (h : Keeps s0 s) :
    Keeps s0 (State.fadeFinish s e) := by
  unfold State.fadeFinish
  split <;> simp (maxDischargeDepth := 200) only [keeps_modEng, keeps_refreshWork, keeps_ite, h]

theorem keeps_fadeStep {s0 : State} (s : State) (e : Nat) (h : Keeps s0 s) :
    Keeps s0 (State.fadeStep s e) := by
  unfold State.fadeStep
  split <;> simp (maxDischargeDepth := 200) only [keeps_modEng, h]

theorem keeps_frdBankSwap {s0 : State} (s : State) (c : Src) (p : Bytes) (take : Option DWord) (h : Keeps s0 s) :
    Keeps s0 (State.frdBankSwap s c p take) := by
  unfold State.frdBankSwap
  simp (maxDischargeDepth := 200) only [keeps_enqueue, keeps_refuse, keeps_unlessHalted, keeps_ite, h]

theorem keeps_frdSatReadClear {s0 : State} (s : State) (c : Src) (p : Bytes) (take : Option DWord) (h : Keeps s0 s) :
    Keeps s0 (State.frdSatReadClear s c p take) := by
  unfold State.frdSatReadClear
  simp (maxDischargeDepth := 200) only [keeps_enqueue, keeps_refuse, keeps_unlessHalted, keeps_ite, h]

theorem keeps_gfmCommand {s0 : State} (s : State) (c : Src) (op : Nat) (p : Bytes) (take : Option DWord) (h : Keeps s0 s) :
    Keeps s0 (State.gfmCommand s c op p take) := by
  unfold State.gfmCommand
  simp (maxDischargeDepth := 200) only [keeps_done, keeps_enqueue, keeps_unlessHalted, keeps_ite, h]

theorem keeps_latchFrame {s0 : State} (s : State) (e : Nat) (nt : DWord) (half : Bool) (h : Keeps s0 s) :
    Keeps s0 (State.latchFrame s e nt half) := by
  unfold State.latchFrame
  simp (maxDischargeDepth := 200) +contextual only [keeps_modEng, keeps_modTwn, keeps_ite, h]

theorem keeps_mboxCapture {s0 : State} (s : State) (e : Nat) (h : Keeps s0 s) :
    Keeps s0 (State.mboxCapture s e) := by
  unfold State.mboxCapture
  simp (maxDischargeDepth := 200) +contextual only [keeps_modBus, keeps_modEng, keeps_setReg, h]

theorem keeps_modGfm {s0 : State} (s : State) (e : Nat) (f : GfmState → GfmState) (h : Keeps s0 s) :
    Keeps s0 (State.modGfm s e f) := by
  unfold State.modGfm
  simp (maxDischargeDepth := 200) only [keeps_modEng, h]

theorem keeps_prfSetTarget {s0 : State} (s : State) (c : Src) (p : Bytes) (take : Option DWord) (h : Keeps s0 s) :
    Keeps s0 (State.prfSetTarget s c p take) := by
  unfold State.prfSetTarget
  simp (maxDischargeDepth := 200) only [keeps_enqueue, keeps_refuse, keeps_unlessHalted, keeps_ite, h]

theorem keeps_publishWords {s0 : State} (s : State) (e : Nat) (h : Keeps s0 s) :
    Keeps s0 (State.publishWords s e) := by
  unfold State.publishWords
  simp (maxDischargeDepth := 200) only [keeps_modEng, h]

theorem keeps_satReadClear {s0 : State} (s : State) (e : Nat) (m : MboxEntry) (h : Keeps s0 s) :
    Keeps s0 (State.satReadClear s e m) := by
  unfold State.satReadClear
  simp (maxDischargeDepth := 200) only [keeps_hostWrite, keeps_modEng, keeps_waitReport, keeps_ite, h]

theorem keeps_swapReport {s0 : State} (s : State) (e : Nat) (x : SwapReq) (st : Status) (detail : Nat) (h : Keeps s0 s) :
    Keeps s0 (State.swapReport s e x st detail) := by
  unfold State.swapReport
  split <;> simp (maxDischargeDepth := 200) only [keeps_waitReport, h]

theorem keeps_swapOne {s0 : State} (s : State) (e : Nat) (x : SwapReq) (taken : Bool) (h : Keeps s0 s) :
    Keeps s0 (State.swapOne s e x taken).1 := by
  unfold State.swapOne
  dsimp only
  repeat' split
  all_goals simp (maxDischargeDepth := 200) +contextual only [keeps_modEng, keeps_swapReport, h]

theorem keeps_swaps {s0 : State} (s : State) (e : Nat) (l : List SwapReq) (taken : Bool) (h : Keeps s0 s) :
    Keeps s0 (s.swaps e l taken) := by
  induction l generalizing s taken with
  | nil => exact h
  | cons x l ih => exact ih _ _ (keeps_swapOne _ _ _ _ h)

theorem keeps_takeEntry {s0 : State} (s : State) (e : Nat) (m : MboxEntry) (h : Keeps s0 s) :
    Keeps s0 (State.takeEntry s e m) := by
  unfold State.takeEntry
  split <;> simp (maxDischargeDepth := 200) +contextual only [keeps_modEng, keeps_prfStart, keeps_satReadClear, keeps_waitReport, keeps_forNums, keeps_ite, h, implies_true]

theorem keeps_takeSwaps {s0 : State} (s : State) (e : Nat) (h : Keeps s0 s) :
    Keeps s0 (State.takeSwaps s e) := by
  unfold State.takeSwaps
  dsimp only
  repeat' split
  all_goals simp (maxDischargeDepth := 200) +contextual only [keeps_count, keeps_foldl, keeps_modEng, keeps_oscAct, keeps_swapOne, keeps_swaps, keeps_foldl, h, implies_true]

theorem keeps_takeWork {s0 : State} (s : State) (e : Nat) (h : Keeps s0 s) :
    Keeps s0 (State.takeWork s e) := by
  unfold State.takeWork
  simp (maxDischargeDepth := 200) +contextual only [keeps_modEng, keeps_prfStart, keeps_takeEntry, keeps_waitReport, h, keeps_foldl, implies_true]

theorem keeps_execBreakerStateAccepted {s0 : State} (e : Fin 8) (closed : Bool) (s : State) (h : Keeps s0 s) :
    ∀ out, execBreakerStateAccepted e closed s = .next out → Keeps s0 out := by
  unfold execBreakerStateAccepted
  intro out e
  dsimp only at e
  repeat' split at e
  all_goals (cases e; simp (maxDischargeDepth := 200) +contextual only [keeps_modGfm, h])

theorem keeps_execClExitTimeout {s0 : State} (e : Fin 8) (s : State) (h : Keeps s0 s) :
    ∀ out, execClExitTimeout e s = .next out → Keeps s0 out := by
  unfold execClExitTimeout
  intro out e
  dsimp only at e
  repeat' split at e
  all_goals (cases e; simp (maxDischargeDepth := 200) +contextual only [keeps_advanceTo, keeps_modGfm, h])

theorem keeps_execEngineStart {s0 : State} (e : Fin 8) (s : State) (h : Keeps s0 s) :
    ∀ out, execEngineStart e s = .next out → Keeps s0 out := by
  unfold execEngineStart
  intro out e
  dsimp only at e
  repeat' split at e
  all_goals (cases e; simp (maxDischargeDepth := 200) +contextual only [keeps_advanceTo, keeps_count, keeps_modEng, keeps_modTwn, keeps_modZone, keeps_forNums, h, implies_true])

theorem keeps_execFadeEnd {s0 : State} (e : Fin 8) (s : State) (h : Keeps s0 s) :
    ∀ out, execFadeEnd e s = .next out → Keeps s0 out := by
  unfold execFadeEnd
  intro out e
  dsimp only at e
  repeat' split at e
  all_goals (cases e; simp (maxDischargeDepth := 200) +contextual only [keeps_advanceTo, keeps_fadeFinish, h])

theorem keeps_execFrdBankSwap {s0 : State} (c : Src) (p : Bytes) (s : State) (h : Keeps s0 s) :
    ∀ out, execFrdBankSwap c p s = .next out → Keeps s0 out := by
  unfold execFrdBankSwap
  intro out e
  cases e
  simp (maxDischargeDepth := 200) +contextual only [keeps_acting, keeps_frdBankSwap, h, implies_true]

theorem keeps_execFrdSatReadClear {s0 : State} (c : Src) (p : Bytes) (s : State) (h : Keeps s0 s) :
    ∀ out, execFrdSatReadClear c p s = .next out → Keeps s0 out := by
  unfold execFrdSatReadClear
  intro out e
  cases e
  simp (maxDischargeDepth := 200) +contextual only [keeps_acting, keeps_frdSatReadClear, h, implies_true]

theorem keeps_execGfmClearFlags {s0 : State} (c : Src) (p : Bytes) (s : State) (h : Keeps s0 s) :
    ∀ out, execGfmClearFlags c p s = .next out → Keeps s0 out := by
  unfold execGfmClearFlags
  intro out e
  cases e
  simp (maxDischargeDepth := 200) +contextual only [keeps_acting, keeps_gfmCommand, h, implies_true]

theorem keeps_execGfmSetBreaker {s0 : State} (c : Src) (p : Bytes) (s : State) (h : Keeps s0 s) :
    ∀ out, execGfmSetBreaker c p s = .next out → Keeps s0 out := by
  unfold execGfmSetBreaker
  intro out e
  cases e
  simp (maxDischargeDepth := 200) +contextual only [keeps_acting, keeps_gfmCommand, h, implies_true]

theorem keeps_execGfmSetTargets {s0 : State} (c : Src) (p : Bytes) (s : State) (h : Keeps s0 s) :
    ∀ out, execGfmSetTargets c p s = .next out → Keeps s0 out := by
  unfold execGfmSetTargets
  intro out e
  cases e
  simp (maxDischargeDepth := 200) +contextual only [keeps_acting, keeps_gfmCommand, h, implies_true]

theorem keeps_execGraphComplete {s0 : State} (e : Fin 8) (s : State) (h : Keeps s0 s) :
    ∀ out, execGraphComplete e s = .next out → Keeps s0 out := by
  unfold execGraphComplete
  intro out e
  dsimp only at e
  repeat' split at e
  all_goals (cases e; simp (maxDischargeDepth := 200) +contextual only [keeps_advanceTo, keeps_engineFault, keeps_modEng, h])

theorem keeps_execMboxOutCapture {s0 : State} (e : Fin 8) (s : State) (h : Keeps s0 s) :
    ∀ out, execMboxOutCapture e s = .next out → Keeps s0 out := by
  unfold execMboxOutCapture
  intro out e
  cases e
  simp (maxDischargeDepth := 200) +contextual only [keeps_mboxCapture, h]

theorem keeps_execPrfSetTarget {s0 : State} (c : Src) (p : Bytes) (s : State) (h : Keeps s0 s) :
    ∀ out, execPrfSetTarget c p s = .next out → Keeps s0 out := by
  unfold execPrfSetTarget
  intro out e
  cases e
  simp (maxDischargeDepth := 200) +contextual only [keeps_acting, keeps_prfSetTarget, h, implies_true]

theorem keeps_execPublish {s0 : State} (e : Fin 8) (s : State) (h : Keeps s0 s) :
    ∀ out, execPublish e s = .next out → Keeps s0 out := by
  unfold execPublish
  intro out e
  dsimp only at e
  repeat' split at e
  all_goals (cases e; simp (maxDischargeDepth := 200) +contextual only [keeps_advanceTo, keeps_engineFault, keeps_modEng, keeps_publishSet, h])

theorem keeps_execRecoveryEnd {s0 : State} (e : Fin 8) (s : State) (h : Keeps s0 s) :
    ∀ out, execRecoveryEnd e s = .next out → Keeps s0 out := by
  unfold execRecoveryEnd
  intro out e
  repeat' split at e
  all_goals (cases e; simp (maxDischargeDepth := 200) +contextual only [keeps_advanceTo, keeps_modGfm, h])

theorem keeps_execRtExitTimeout {s0 : State} (e : Fin 8) (s : State) (h : Keeps s0 s) :
    ∀ out, execRtExitTimeout e s = .next out → Keeps s0 out := by
  unfold execRtExitTimeout
  intro out e
  dsimp only at e
  repeat' split at e
  all_goals (cases e; simp (maxDischargeDepth := 200) +contextual only [keeps_advanceTo, keeps_modGfm, h])

end Sys2Proof.Machine
end

