-- ==== Sys2Proof/Laws/KeepsClock.lean ====
section
/-! SUPPORT. What the operations and meanings of Machine/Clock.lean keep: one lemma each, in the form of `Keeps`. -/

set_option maxRecDepth 4000

namespace Sys2Proof.Machine

theorem keeps_acqLate {s0 : State} (s : State) (h : Keeps s0 s) :
    Keeps s0 (State.acqLate s) := by
  unfold State.acqLate
  simp (maxDischargeDepth := 200) +contextual only [keeps_halt, keeps_setFlag, keeps_ite, h]

theorem keeps_loopError {s0 : State} (s : State) (ref : Nat) (err : Int) (h : Keeps s0 s) :
    Keeps s0 (State.loopError s ref err) := by
  unfold State.loopError
  simp (maxDischargeDepth := 200) +contextual only [keeps_modClk, keeps_ite, h]

theorem keeps_atLoss {s0 : State} (s : State) (h : Keeps s0 s) :
    Keeps s0 (State.atLoss s) := by
  unfold State.atLoss
  simp (maxDischargeDepth := 200) +contextual only [keeps_advanceTo, keeps_ite, h]

theorem keeps_noteRef {s0 : State} (s : State) (present : Bool) (good : Bool) (h : Keeps s0 s) :
    Keeps s0 (State.noteRef s present good) := by
  unfold State.noteRef
  simp (maxDischargeDepth := 200) +contextual only [keeps_modClk, h]

theorem keeps_cycleEnd {s0 : State} (s : State) (edge : Nat) (h : Keeps s0 s) :
    Keeps s0 (State.cycleEnd s edge) := by
  have h1 : s.now ≤ ctlTick s.now := by unfold ctlTick; omega
  simp only [State.cycleEnd, keeps_mk, h, h1, NtState.elapse_recs]

theorem keeps_stepRestart {s0 : State} (s : State) (err : Int) (h : Keeps s0 s) :
    Keeps s0 (State.stepRestart s err) := by
  unfold State.stepRestart
  exact keeps_cycleEnd _ _ (keeps_modClk _ h)

theorem keeps_coast {s0 : State} (s : State) (fresh : Bool) (h : Keeps s0 s) :
    Keeps s0 (State.coast s fresh) := by
  unfold State.coast
  simp (maxDischargeDepth := 200) +contextual only [keeps_count, keeps_modClk, keeps_refuse, h, keeps_foldl, implies_true]

theorem keeps_clkEvent {s0 : State} (s : State) (n : Nat) (h : Keeps s0 s) :
    Keeps s0 (State.clkEvent s n) := by
  unfold State.clkEvent
  simp (maxDischargeDepth := 200) only [keeps_logFlag, keeps_setFlag, h]

theorem keeps_refLost {s0 : State} (s : State) (h : Keeps s0 s) :
    Keeps s0 (State.refLost s) := by
  unfold State.refLost
  dsimp only
  repeat' split
  all_goals simp (maxDischargeDepth := 200) +contextual only [keeps_clkEvent, keeps_coast, keeps_modClk, h]

theorem keeps_slewStep {s0 : State} (s : State) (ref : Nat) (h : Keeps s0 s) :
    Keeps s0 (State.slewStep s ref) := by
  unfold State.slewStep
  simp (maxDischargeDepth := 200) +contextual only [keeps_clkEvent, keeps_modClk, keeps_ite, h]

theorem keeps_requalify {s0 : State} (s : State) (ref : Nat) (h : Keeps s0 s) :
    Keeps s0 (State.requalify s ref) := by
  unfold State.requalify
  simp (maxDischargeDepth := 200) +contextual only [keeps_clkEvent, keeps_count, keeps_modClk, keeps_ite, h]

theorem keeps_lockedStep {s0 : State} (s : State) (h : Keeps s0 s) :
    Keeps s0 (State.lockedStep s) := by
  unfold State.lockedStep
  simp (maxDischargeDepth := 200) +contextual only [keeps_clkEvent, keeps_coast, keeps_modClk, keeps_ite, h]

theorem keeps_clkCommit {s0 : State} (s : State) (ref : Bool) (outs : Nat) (h : Keeps s0 s) :
    Keeps s0 (State.clkCommit s ref outs) := by
  unfold State.clkCommit
  repeat' split
  all_goals simp (maxDischargeDepth := 200) +contextual only [keeps_clkEvent, keeps_coast, keeps_modClk, keeps_trainLink, keeps_forNums, keeps_ite, h, implies_true]

theorem keeps_restart2 {s0 : State} (s : State) (at_ : Nat) (h : Keeps s0 s) :
    Keeps s0 (State.restart2 s at_) := by
  unfold State.restart2
  simp (maxDischargeDepth := 200) +contextual only [keeps_dumpAlign, keeps_modClk, keeps_ite, keeps_mk, le_refl, h]

theorem keeps_clkStep {s0 : State} (s : State) (h : Keeps s0 s) :
    Keeps s0 (State.clkStep s) := by
  unfold State.clkStep
  simp (maxDischargeDepth := 200) +contextual only [keeps_clkEvent, keeps_done, keeps_dumpAlign, keeps_foldl, keeps_modClk, keeps_refuse, keeps_restart2, keeps_stepRestart, keeps_foldl, keeps_ite, h, implies_true]

theorem keeps_firstLock {s0 : State} (s : State) (h : Keeps s0 s) :
    Keeps s0 (State.firstLock s) := by
  unfold State.firstLock
  simp (maxDischargeDepth := 200) +contextual only [keeps_acqLate, keeps_modClk, keeps_restart2, keeps_ite, h]

theorem keeps_compare {s0 : State} (s : State) (errPs : Int) (present : Bool) (good : Bool) (h : Keeps s0 s) :
    Keeps s0 (State.compare s errPs present good) := by
  unfold State.compare
  dsimp only
  repeat' split
  all_goals simp (maxDischargeDepth := 200) +contextual only [keeps_clkStep, keeps_firstLock, keeps_lockedStep, keeps_loopError, keeps_noteRef, keeps_requalify, keeps_slewStep, h]

theorem keeps_reacquire {s0 : State} (s : State) (c : Src) (p : Bytes) (h : Keeps s0 s) :
    Keeps s0 (State.reacquire s c p) := by
  unfold State.reacquire
  simp (maxDischargeDepth := 200) +contextual only [keeps_done, keeps_foldl, keeps_modClk, keeps_refuse, keeps_foldl, keeps_ite, h, implies_true]

theorem keeps_execAdpllLockTimeout {s0 : State} (s : State) (h : Keeps s0 s) :
    ∀ out, execAdpllLockTimeout s = .next out → Keeps s0 out := by
  unfold execAdpllLockTimeout
  intro out e
  split at e <;> cases e <;> simp (maxDischargeDepth := 200) +contextual only [keeps_acqLate, keeps_advanceTo, h]

theorem keeps_execClkReacquire {s0 : State} (c : Src) (p : Bytes) (s : State) (h : Keeps s0 s) :
    ∀ out, execClkReacquire c p s = .next out → Keeps s0 out := by
  unfold execClkReacquire
  intro out e
  cases e
  simp (maxDischargeDepth := 200) +contextual only [keeps_obey, keeps_reacquire, h, implies_true]

theorem keeps_execOutputRestart {s0 : State} (s : State) (h : Keeps s0 s) :
    ∀ out, execOutputRestart s = .next out → Keeps s0 out := by
  unfold execOutputRestart
  intro out e
  split at e <;> cases e <;> simp (maxDischargeDepth := 200) only [keeps_advanceTo, keeps_modClk, keeps_restart2, keeps_ite, h]

theorem keeps_atComparison {s0 : State} (s : State) (h : Keeps s0 s) :
    Keeps s0 (State.atComparison s) := by
  unfold State.atComparison
  repeat' split
  all_goals simp (maxDischargeDepth := 200) +contextual only [keeps_advanceTo, h]

theorem keeps_execReferenceComparison {s0 : State} (errorPs : Int) (present : Bool) (good : Bool) (s : State) (h : Keeps s0 s) :
    ∀ out, execReferenceComparison errorPs present good s = .next out → Keeps s0 out := by
  unfold execReferenceComparison
  intro out e
  cases e
  simp (maxDischargeDepth := 200) +contextual only [keeps_atComparison, keeps_compare, keeps_ite, h]

theorem keeps_execReferenceLost {s0 : State} (s : State) (h : Keeps s0 s) :
    ∀ out, execReferenceLost s = .next out → Keeps s0 out := by
  unfold execReferenceLost
  intro out e
  split at e <;> cases e <;> simp (maxDischargeDepth := 200) +contextual only [keeps_atLoss, keeps_halt, keeps_refLost, keeps_ite, h]

theorem keeps_execTcxoLoss {s0 : State} (s : State) (h : Keeps s0 s) :
    ∀ out, execTcxoLoss s = .next out → Keeps s0 out := by
  unfold execTcxoLoss
  intro out e
  cases e
  simp (maxDischargeDepth := 200) +contextual only [keeps_halt, keeps_refLost, keeps_ite, h]

end Sys2Proof.Machine
end

