-- ==== Sys2Proof/Laws/KeepsEth.lean ====
section
/-! SUPPORT. What the operations and meanings of Machine/Eth.lean keep: one lemma each, in the form of `Keeps`. -/

set_option maxRecDepth 4000

namespace Sys2Proof.Machine

theorem keeps_dupCheck {s0 : State} (s : State) (key : Bytes) (seq : Nat) (h : Keeps s0 s) :
    Keeps s0 (State.dupCheck s key seq).2 := by
  unfold State.dupCheck
  dsimp only
  repeat' split
  all_goals simp (maxDischargeDepth := 200) +contextual only [keeps_mk, le_refl, h]

theorem keeps_queueRx {s0 : State} (s : State) (f : Bytes) (ts : DWord) (h : Keeps s0 s) :
    Keeps s0 (State.queueRx s f ts) := by
  unfold State.queueRx
  simp (maxDischargeDepth := 200) only [keeps_ite, keeps_mk, le_refl, h]

theorem keeps_ethDeliver {s0 : State} (s : State) (f : Bytes) (ts : DWord) (h : Keeps s0 s) :
    Keeps s0 (State.ethDeliver s f ts) := by
  unfold State.ethDeliver
  simp (maxDischargeDepth := 200) only [keeps_queueRx, keeps_ite, keeps_mk, le_refl, h]

theorem keeps_prpReceive {s0 : State} (s : State) (p : Nat) (f : Bytes) (ts : DWord) (h : Keeps s0 s) :
    Keeps s0 (State.prpReceive s p f ts) := by
  unfold State.prpReceive
  dsimp only
  repeat' split
  all_goals simp (maxDischargeDepth := 200) +contextual only [keeps_count, keeps_dupCheck, keeps_ethDeliver, h]

theorem keeps_giveFrame {s0 : State} (s : State) (p : Nat) (f : TxFrame) (urgent : Bool) (h : Keeps s0 s) :
    Keeps s0 (State.giveFrame s p f urgent) := by
  unfold State.giveFrame
  simp (maxDischargeDepth := 200) +contextual only [keeps_modPort, h]

theorem keeps_hsrReceive {s0 : State} (s : State) (p : Nat) (f : Bytes) (ts : DWord) (h : Keeps s0 s) :
    Keeps s0 (State.hsrReceive s p f ts) := by
  unfold State.hsrReceive
  dsimp only
  repeat' split
  all_goals simp (maxDischargeDepth := 200) +contextual only [keeps_count, keeps_dupCheck, keeps_ethDeliver, keeps_giveFrame, h]

theorem keeps_ethReceive {s0 : State} (s : State) (p : Nat) (f : Bytes) (good : Bool) (h : Keeps s0 s) :
    Keeps s0 (State.ethReceive s p f good) := by
  unfold State.ethReceive
  dsimp only
  repeat' split
  all_goals simp (maxDischargeDepth := 200) +contextual only [keeps_count, keeps_ethDeliver, keeps_hsrReceive, keeps_prpReceive, h]

theorem keeps_giveBoth {s0 : State} (s : State) (f : Bytes) (urgent : Bool) (h : Keeps s0 s) :
    Keeps s0 (State.giveBoth s f urgent) := by
  unfold State.giveBoth
  split <;> simp (maxDischargeDepth := 200) only [keeps_giveFrame, keeps_mk, le_refl, h]

theorem keeps_queueTxTs {s0 : State} (s : State) (p : Nat) (t : TxTs) (h : Keeps s0 s) :
    Keeps s0 (State.queueTxTs s p t) := by
  unfold State.queueTxTs
  simp (maxDischargeDepth := 200) only [keeps_count, keeps_modPort, keeps_setFlag, keeps_ite, h]

theorem keeps_ethSend {s0 : State} (s : State) (p : Nat) (h : Keeps s0 s) :
    Keeps s0 (State.ethSend s p) := by
  unfold State.ethSend
  dsimp only
  repeat' split
  all_goals simp (maxDischargeDepth := 200) +contextual only [keeps_giveBoth, keeps_giveFrame, keeps_modPort, keeps_queueTxTs, keeps_mk, le_refl, h]

theorem keeps_txtsRead {s0 : State} (s : State) (p : Nat) (h : Keeps s0 s) :
    Keeps s0 (State.txtsRead s p) := by
  unfold State.txtsRead
  simp (maxDischargeDepth := 200) only [keeps_modPort, h]

theorem keeps_execEthFrameReceive {s0 : State} (port : Fin 2) (frame : Bytes) (good : Bool) (s : State) (h : Keeps s0 s) :
    ∀ out, execEthFrameReceive port frame good s = .next out → Keeps s0 out := by
  unfold execEthFrameReceive
  intro out e
  split at e <;> cases e <;> simp (maxDischargeDepth := 200) only [keeps_ethReceive, h]

theorem keeps_execEthFrameTransmit {s0 : State} (port : Fin 2) (s : State) (h : Keeps s0 s) :
    ∀ out, execEthFrameTransmit port s = .next out → Keeps s0 out := by
  unfold execEthFrameTransmit
  intro out e
  split at e <;> cases e <;> simp (maxDischargeDepth := 200) only [keeps_ethSend, h]

theorem keeps_execEthLinkChange {s0 : State} (port : Fin 2) (anDone : Bool) (sync : Bool) (link : PortLine) (s : State) (h : Keeps s0 s) :
    ∀ out, execEthLinkChange port anDone sync link s = .next out → Keeps s0 out := by
  unfold execEthLinkChange
  intro out e
  cases e
  simp (maxDischargeDepth := 200) +contextual only [keeps_modPort, h]

theorem keeps_execEthTxtsRead {s0 : State} (port : Fin 2) (s : State) (h : Keeps s0 s) :
    ∀ out, execEthTxtsRead port s = .next out → Keeps s0 out := by
  unfold execEthTxtsRead
  intro out e
  cases e
  simp (maxDischargeDepth := 200) only [keeps_txtsRead, keeps_mk, le_refl, h]

theorem keeps_execSupervisionFrameSend {s0 : State} (s : State) (h : Keeps s0 s) :
    ∀ out, execSupervisionFrameSend s = .next out → Keeps s0 out := by
  unfold execSupervisionFrameSend
  intro out e
  split at e <;> cases e <;> simp (maxDischargeDepth := 200) only [keeps_advanceTo, keeps_giveBoth, keeps_mk, le_refl, h]

end Sys2Proof.Machine
end

