-- ==== Sys2Proof/Laws/KeepsNetTime.lean ====
section
/-! SUPPORT. What the operations and meanings of Machine/NetTime.lean keep: one lemma each, in the form of `Keeps`. -/

set_option maxRecDepth 4000

namespace Sys2Proof.Machine

theorem keeps_latchBatch {s0 : State} (s : State) (h : Keeps s0 s) :
    Keeps s0 (State.latchBatch s) := by
  unfold State.latchBatch
  simp (maxDischargeDepth := 200) only [keeps_modNt, keeps_ite, h]

theorem keeps_ntIncr {s0 : State} (s : State) (v : DWord) (h : Keeps s0 s) :
    Keeps s0 (State.ntIncr s v) := by
  unfold State.ntIncr
  simp (maxDischargeDepth := 200) only [keeps_count, keeps_modNt, keeps_setRegN, keeps_ite, h]

theorem keeps_ntSet {s0 : State} (s : State) (c : Src) (p : Bytes) (h : Keeps s0 s) : Keeps s0 (s.ntSet c p) := by
  unfold State.ntSet
  dsimp only
  have e : ∀ v, (s.nt.setTotal v).recs = s.nt.recs := fun v => by simp only [NtState.setTotal]
  simp (maxDischargeDepth := 200) only [keeps_ite, keeps_refuse, keeps_done, keeps_note, keeps_setRegN, keeps_modClk, keeps_modNt, e, h]

theorem keeps_ptmPublish {s0 : State} (s : State) (e : PtmEvent) (rest : List PtmEvent) (h : Keeps s0 s) :
    Keeps s0 (State.ptmPublish s e rest) := by
  unfold State.ptmPublish
  dsimp only
  repeat' split
  all_goals simp (maxDischargeDepth := 200) +contextual only [keeps_count, keeps_giveBoth, keeps_modNt, h]

theorem keeps_ptmReceive {s0 : State} (s : State) (p : Bytes) (h : Keeps s0 s) :
    Keeps s0 (State.ptmReceive s p) := by
  unfold State.ptmReceive
  simp (maxDischargeDepth := 200) only [keeps_acqTrigMask, keeps_count, keeps_modNt, keeps_ite, h]

theorem keeps_sporeCancel {s0 : State} (s : State) (c : Src) (p : Bytes) (h : Keeps s0 s) :
    Keeps s0 (State.sporeCancel s c p) := by
  unfold State.sporeCancel
  simp (maxDischargeDepth := 200) only [keeps_done, keeps_modNt, keeps_refuse, keeps_ite, h]

theorem keeps_sporeLoad {s0 : State} (s : State) (c : Src) (p : Bytes) (h : Keeps s0 s) :
    Keeps s0 (State.sporeLoad s c p) := by
  unfold State.sporeLoad
  repeat' split
  all_goals simp (maxDischargeDepth := 200) only [keeps_count, keeps_done, keeps_modNt, keeps_refuse, keeps_ite, h]

theorem keeps_sporeRecRead {s0 : State} (s : State) (h : Keeps s0 s) : Keeps s0 s.sporeRecRead :=
  keeps_modNtRecs _ h fun hl => by simp only [List.length_drop]; omega

theorem keeps_execNtIncrWrite {s0 : State} (v : DWord) (s : State) (h : Keeps s0 s) :
    ∀ out, execNtIncrWrite v s = .next out → Keeps s0 out := by
  unfold execNtIncrWrite
  intro out e
  cases e
  simp (maxDischargeDepth := 200) +contextual only [keeps_ntIncr, h]

theorem keeps_execNtSet {s0 : State} (c : Src) (p : Bytes) (s : State) (h : Keeps s0 s) :
    ∀ out, execNtSet c p s = .next out → Keeps s0 out := by
  unfold execNtSet
  intro out e
  cases e
  simp (maxDischargeDepth := 200) +contextual only [keeps_ntSet, keeps_obey, h, implies_true]

theorem keeps_execNtSporeCancel {s0 : State} (c : Src) (p : Bytes) (s : State) (h : Keeps s0 s) :
    ∀ out, execNtSporeCancel c p s = .next out → Keeps s0 out := by
  unfold execNtSporeCancel
  intro out e
  cases e
  simp (maxDischargeDepth := 200) +contextual only [keeps_obey, keeps_sporeCancel, h, implies_true]

theorem keeps_execNtSporeLoad {s0 : State} (c : Src) (p : Bytes) (s : State) (h : Keeps s0 s) :
    ∀ out, execNtSporeLoad c p s = .next out → Keeps s0 out := by
  unfold execNtSporeLoad
  intro out e
  cases e
  simp (maxDischargeDepth := 200) +contextual only [keeps_obey, keeps_sporeLoad, h, implies_true]

theorem keeps_execNtSporeRecRead {s0 : State} (s : State) (h : Keeps s0 s) :
    ∀ out, execNtSporeRecRead s = .next out → Keeps s0 out := by
  unfold execNtSporeRecRead
  intro out e
  cases e
  simp (maxDischargeDepth := 200) only [keeps_sporeRecRead, keeps_mk, le_refl, h]

theorem keeps_execNtValidClr {s0 : State} (s : State) (h : Keeps s0 s) :
    ∀ out, execNtValidClr s = .next out → Keeps s0 out := by
  unfold execNtValidClr
  intro out e
  cases e
  simp (maxDischargeDepth := 200) only [keeps_modNt, h]

theorem keeps_execNtValidSet {s0 : State} (s : State) (h : Keeps s0 s) :
    ∀ out, execNtValidSet s = .next out → Keeps s0 out := by
  unfold execNtValidSet
  intro out e
  cases e
  simp (maxDischargeDepth := 200) only [keeps_modNt, h]

theorem keeps_execPpsOutPulse {s0 : State} (s : State) (h : Keeps s0 s) :
    ∀ out, execPpsOutPulse s = .next out → Keeps s0 out := by
  unfold execPpsOutPulse
  intro out e
  repeat' split at e
  all_goals cases e
  all_goals simp (maxDischargeDepth := 200) only [keeps_advanceTo, keeps_modNt, h]

theorem keeps_execPtmHoldoffEnd {s0 : State} (s : State) (h : Keeps s0 s) :
    ∀ out, execPtmHoldoffEnd s = .next out → Keeps s0 out := by
  unfold execPtmHoldoffEnd
  intro out e
  split at e <;> cases e <;> simp (maxDischargeDepth := 200) only [keeps_advanceTo, keeps_modNt, h]

theorem keeps_execPtmPublish {s0 : State} (s : State) (h : Keeps s0 s) :
    ∀ out, execPtmPublish s = .next out → Keeps s0 out := by
  unfold execPtmPublish
  intro out e
  split at e <;> cases e <;> simp (maxDischargeDepth := 200) only [keeps_ptmPublish, h]

theorem keeps_execPtmReceive {s0 : State} (payload : Bytes) (s : State) (h : Keeps s0 s) :
    ∀ out, execPtmReceive payload s = .next out → Keeps s0 out := by
  unfold execPtmReceive
  intro out e
  cases e
  simp (maxDischargeDepth := 200) only [keeps_ptmReceive, h]

theorem keeps_later {s0 s : State} (n : Nat) (f : NtState → NtState) (h : Keeps s0 s) (hf : ∀ x, (f x).recs = x.recs) :
    Keeps s0 ((s.advanceTo n).modNt f) := keeps_modNt _ (keeps_advanceTo _ h) (hf _)

theorem keeps_execPtmSenderExpiry {s0 : State} (unitId : BitVec 16) (s : State) (h : Keeps s0 s) :
    ∀ out, execPtmSenderExpiry unitId s = .next out → Keeps s0 out := by
  intro out eq
  cases hn : s.nt.senders.find? fun x => x.unit = unitId with
  | none => simp only [execPtmSenderExpiry, hn, Host.Outcome.next.injEq] at eq; rw [← eq]; exact h
  | some x =>
    simp only [execPtmSenderExpiry, hn, Host.Outcome.next.injEq] at eq
    rw [← eq]
    exact keeps_later _ _ h fun _ => rfl

theorem keeps_execSporeDue {s0 : State} (s : State) (h : Keeps s0 s) :
    ∀ out, execSporeDue s = .next out → Keeps s0 out := by
  unfold execSporeDue
  intro out e
  split at e <;> cases e <;> simp (maxDischargeDepth := 200) only [keeps_advanceTo, keeps_latchBatch, h]

end Sys2Proof.Machine
end

