-- ==== Sys2Proof/Laws/KeepsStaging.lean ====
section
/-! SUPPORT. What the operations and meanings of Machine/Staging.lean keep: one lemma each, in the form of `Keeps`. -/

set_option maxRecDepth 4000

namespace Sys2Proof.Machine

theorem keeps_rhizomeCommit {s0 : State} (s : State) (h : Keeps s0 s) :
    Keeps s0 (State.rhizomeCommit s) := by
  unfold State.rhizomeCommit
  simp (maxDischargeDepth := 200) +contextual only [keeps_modTwn, h]

theorem keeps_commitEngines {s0 : State} (s : State) (h : Keeps s0 s) :
    Keeps s0 (State.commitEngines s) := by
  unfold State.commitEngines
  simp (maxDischargeDepth := 200) +contextual only [keeps_dropSporeWork, keeps_engineReset, keeps_modEng, keeps_forNums, keeps_ite, h, implies_true]

theorem keeps_commitDec {s0 : State} (s : State) (old : RegFile) (h : Keeps s0 s) :
    Keeps s0 (State.commitDec s old) := by
  unfold State.commitDec
  simp (maxDischargeDepth := 200) +contextual only [keeps_dumpAlign, keeps_modDec, keeps_forNums, keeps_ite, keeps_mk, le_refl, h, implies_true]

theorem keeps_commitStacks {s0 : State} (s : State) (old : RegFile) (h : Keeps s0 s) :
    Keeps s0 (State.commitStacks s old) := by
  unfold State.commitStacks
  simp (maxDischargeDepth := 200) +contextual only [keeps_fltStanding, keeps_modGs, keeps_ostAbort, keeps_ringNext, keeps_trainComplete, keeps_trainLink, keeps_trainTaken, keeps_forNums, keeps_ite, h, implies_true]

theorem keeps_applyStage {s0 : State} (s : State) (nt : DWord) (h : Keeps s0 s) : Keeps s0 (s.applyStage nt) := by
  unfold State.applyStage
  have h1 : Keeps s0 { s with live := s.stg.stage } := keeps_live _ h fun z => z.2.2.2.2
  simp (maxDischargeDepth := 200) +contextual only [implies_true, keeps_ite, keeps_modStg, keeps_rhizomeCommit, keeps_countWrap, keeps_modSec, keeps_safTakeSet, keeps_tripsStanding, keeps_commitStacks,
    keeps_commitEngines, keeps_clkCommit, keeps_forNums, keeps_tbCommit, keeps_commitDec, keeps_modEng, h1]

theorem keeps_blockWrite {s0 : State} (s : State) (c : Src) (bs : Bytes) (recover : Bool) (h : Keeps s0 s) :
    Keeps s0 (State.blockWrite s c bs recover) := by
  unfold State.blockWrite
  simp (maxDischargeDepth := 200) only [keeps_modStg, h]

theorem keeps_blockWritten {s0 : State} (s : State) (w : CfgWrite) (h : Keeps s0 s) :
    Keeps s0 (State.blockWritten s w) := by
  unfold State.blockWritten
  simp (maxDischargeDepth := 200) +contextual only [keeps_modStg, keeps_nandTurn, keeps_safUpdate, h]

theorem cellsRise_stagePut (win : Nat → Nat) (f : RegFile) (r : Reg) (i j v : Nat) (h : cellsRise f) :
    cellsRise (stagePut win f r i j v) := by
  unfold stagePut
  split <;> exact cellsRise_write h

theorem cellsRise_stageEntry (win : Nat → Nat) (f : RegFile) (x : Reg × Nat × Nat × Bool) (v : Nat) (h : cellsRise f) :
    cellsRise (stageEntry win f x v) := by
  obtain ⟨r, i, j, upper⟩ := x
  simp only [stageEntry]
  split <;> exact cellsRise_stagePut _ _ _ _ _ _ h

theorem cellsRise_stageEntries (win : Nat → Nat) (imgs : Vector (Option Image) 8) (n k : Nat) (bs : Bytes) (f g : RegFile)
    (h : cellsRise f) (e : stageEntries win imgs n k bs f = .ok g) : cellsRise g := by
  induction n generalizing k bs f with
  | zero => cases e; exact h
  | succ n ih =>
    simp only [stageEntries] at e
    split at e
    · cases e
    · exact ih _ _ _ (cellsRise_stageEntry _ _ _ _ h) e

theorem cellsRise_stageImage (f : RegFile) (e : Nat) (img : Image) (h : cellsRise f) : cellsRise (stageImage f e img) := by
  unfold stageImage
  extract_lets n f'
  have key : ∀ (l : List Nat) (g : RegFile), cellsRise g → cellsRise (l.foldl (fun f i =>
      let v := (imageDefault img n i).setWidth 64
      paramSet (paramSet f e 0 i v) e 1 i v) g) := by
    intro l
    induction l with
    | nil => exact fun _ hg => hg
    | cons a l ih => exact fun g hg => ih _ (cellsRise_write (cellsRise_write hg))
  exact key _ _ (cellsRise_filter _ h)

theorem cellsRise_blockSections (s : State) (n : Nat) (bs : Bytes) (f g : RegFile) (imgs im : Vector (Option Image) 8)
    (h : cellsRise f) (e : s.blockSections n bs f imgs = some (g, im)) : cellsRise g := by
  induction n generalizing bs f imgs with
  | zero =>
    simp only [State.blockSections] at e
    split at e
    · cases e; exact h
    · cases e
  | succ n ih =>
    simp only [State.blockSections] at e
    split at e
    · cases e
    · split at e
      · split at e
        · cases e
        · split at e
          · rename_i f' e'
            exact ih _ _ _ (cellsRise_stageEntries _ _ _ _ _ _ _ h e') e
          · cases e
      · split at e
        · refine ih _ _ _ ?_ e
          generalize bitsIn 8 _ = l
          clear e
          induction l generalizing f with
          | nil => exact h
          | cons a l ihl => exact ihl _ (cellsRise_stageImage _ _ _ h)
        · cases e
      · cases e

theorem cellsRise_blockStage (s : State) (bs : Bytes) (g : RegFile) (im : Vector (Option Image) 8)
    (e : s.blockStage bs = some (g, im)) : cellsRise g :=
  cellsRise_blockSections _ _ _ _ _ _ _ List.Pairwise.nil e

theorem keeps_stageReset {s0 : State} (s : State) (h : Keeps s0 s) : Keeps s0 s.stageReset := by
  refine h.trans ⟨rfl, le_rfl, ⟨fun _ => le_rfl, rfl, le_rfl, rfl⟩, fun z => ⟨z.gates, z.queues, ?_, z.fuses⟩⟩
  obtain ⟨a, b, d, e, f⟩ := z.stores
  exact ⟨a, b, d, e, d⟩

theorem cellsRise_mgmtLive (s : State) : cellsRise s.mgmtLive := by
  unfold State.mgmtLive
  split
  · exact List.Pairwise.nil
  · dsimp only
    split
    · exact cellsRise_write (cellsRise_write List.Pairwise.nil)
    · exact cellsRise_write List.Pairwise.nil

theorem keeps_bootLoad {s0 : State} (s : State) (h : Keeps s0 s) : Keeps s0 s.bootLoad := by
  unfold State.bootLoad
  extract_lets ok0 ok1 pick s1
  have h1 : Keeps s0 s1 := keeps_modStg _ h rfl
  clear_value pick
  split
  · exact keeps_note _ _ _ _ _ (keeps_safTakeSet _ (keeps_stageReset _ (keeps_live _ h1 fun _ => cellsRise_mgmtLive s1)))
  · rename_i c
    extract_lets s2
    have h2 : Keeps s0 s2 := keeps_ite h1 (keeps_note _ _ _ _ _ (keeps_modStg _ h1 rfl))
    split
    · rename_i f imgs e
      exact keeps_applyStage _ _ (keeps_modStgStage _ h2 fun _ => cellsRise_blockStage _ _ _ _ e)
    · exact h2

theorem keeps_reportFails {s0 : State} (s : State) (own : Bool) (fails : List FailEntry) (addr : Nat) (cap : Nat) (h : Keeps s0 s) :
    Keeps s0 (State.reportFails s own fails addr cap) := by
  unfold State.reportFails
  simp (maxDischargeDepth := 200) only [keeps_hostWrite, keeps_modStg, keeps_ite, h]

theorem keeps_tryApply {s0 : State} (s : State) (nt : DWord) (own : Bool) (addr : Nat) (cap : Nat) (h : Keeps s0 s) :
    Keeps s0 (State.tryApply s nt own addr cap).1 := by
  unfold State.tryApply
  repeat' split
  all_goals simp (maxDischargeDepth := 200) only [keeps_applyStage, keeps_busyStop, keeps_modStg, keeps_reportFails, h]

theorem keeps_commitOnly {s0 : State} (s : State) (p : PendCommit) (nt : DWord) (h : Keeps s0 s) :
    Keeps s0 (State.commitOnly s p nt) := by
  unfold State.commitOnly
  simp (maxDischargeDepth := 200) +contextual only [keeps_complete, keeps_modStg, keeps_tryApply, h]

theorem keeps_sporeSee {s0 : State} (s : State) (d : DueSlot) (h : Keeps s0 s) :
    Keeps s0 (State.sporeSee s d) := by
  unfold State.sporeSee
  simp (maxDischargeDepth := 200) +contextual only [keeps_mirror, keeps_modTwn, keeps_ite, h]

theorem keeps_sporeApply {s0 : State} (s : State) (d : DueSlot) (h : Keeps s0 s) :
    Keeps s0 (State.sporeApply s d).1 := by
  unfold State.sporeApply
  dsimp only
  repeat' split
  all_goals simp (maxDischargeDepth := 200) +contextual only [keeps_modStg, keeps_reportFails, keeps_sporeSee, keeps_tryApply, h]

theorem keeps_freeToken {s0 : State} (s : State) (h : Keeps s0 s) :
    Keeps s0 (State.freeToken s) := by
  unfold State.freeToken
  simp (maxDischargeDepth := 200) only [keeps_modStg, keeps_stageReset, keeps_ite, h]

theorem keeps_stageWrote {s0 : State} (s : State) (n : Nat) (f : RegFile) (imgs : Vector (Option Image) 8) (h : Keeps s0 s)
    (hf : cellsRise s.stg.stage → cellsRise f) : Keeps s0 (s.stageWrote n f imgs) := keeps_modStgStage _ h hf

theorem keeps_graphLoad {s0 : State} (s : State) (c : Src) (p : Bytes) (image : Option Bytes) (h : Keeps s0 s) :
    Keeps s0 (s.graphLoad c p image) := by
  unfold State.graphLoad
  refine keeps_ite (keeps_refuse _ _ _ _ _ h) (keeps_ite (keeps_refuse _ _ _ _ _ h) (keeps_ite (keeps_refuse _ _ _ _ _ h) ?_))
  split
  · exact keeps_refuse _ _ _ _ _ h
  · split
    · exact keeps_refuse _ _ _ _ _ h
    · refine keeps_done _ _ _ _ (keeps_stageWrote _ _ _ _ h fun hr => ?_)
      generalize bitsIn 8 (pb p 0) = l
      generalize s.stg.stage = f at hr
      induction l generalizing f with
      | nil => exact hr
      | cons a l ih => exact ih _ (cellsRise_stageImage _ _ _ hr)

theorem keeps_stgCheck {s0 : State} (s : State) (c : Src) (p : Bytes) (h : Keeps s0 s) :
    Keeps s0 (State.stgCheck s c p) := by
  unfold State.stgCheck
  simp (maxDischargeDepth := 200) +contextual only [keeps_done, keeps_modMgt, keeps_modStg, keeps_refuse, keeps_reportFails, keeps_ite, h]

theorem keeps_stgCommit {s0 : State} (s : State) (c : Src) (p : Bytes) (take : Option DWord) (h : Keeps s0 s) :
    Keeps s0 (State.stgCommit s c p take) := by
  unfold State.stgCommit
  have h1 : Keeps s0 ({ s with live := s.stg.stage }.modStg fun g => { g with st := .clean }) :=
    keeps_modStg _ (keeps_live _ h fun z => z.2.2.2.2) rfl
  dsimp only
  repeat' split
  all_goals simp (maxDischargeDepth := 200) only [keeps_done, keeps_mirror, keeps_modStg, keeps_refuse, keeps_reportFails, h, h1]

theorem keeps_stgSave {s0 : State} (s : State) (c : Src) (p : Bytes) (block : Option Bytes) (h : Keeps s0 s) :
    Keeps s0 (State.stgSave s c p block) := by
  unfold State.stgSave
  dsimp only
  repeat' split
  all_goals simp (maxDischargeDepth := 200) +contextual only [keeps_blockWrite, keeps_refuse, h]

theorem keeps_stgToken {s0 : State} (s : State) (c : Src) (p : Bytes) (h : Keeps s0 s) :
    Keeps s0 (State.stgToken s c p) := by
  unfold State.stgToken
  split <;> simp (maxDischargeDepth := 200) only [keeps_done, keeps_freeToken, keeps_modStg, keeps_refuse, keeps_ite, h]

theorem keeps_stgWrite {s0 : State} (s : State) (c : Src) (p : Bytes) (h : Keeps s0 s) : Keeps s0 (s.stgWrite c p) := by
  unfold State.stgWrite
  extract_lets n
  refine keeps_ite (keeps_refuse _ _ _ _ _ h) (keeps_ite (keeps_refuse _ _ _ _ _ h) (keeps_ite (keeps_refuse _ _ _ _ _ h) ?_))
  split
  · exact keeps_refuse _ _ _ _ _ h
  · rename_i e
    exact keeps_done _ _ _ _ (keeps_stageWrote _ _ _ _ h fun hr => cellsRise_stageEntries _ _ _ _ _ _ _ hr e)

theorem keeps_execFrdGraphLoad {s0 : State} (c : Src) (p : Bytes) (image : Option Bytes) (s : State) (h : Keeps s0 s) :
    ∀ out, execFrdGraphLoad c p image s = .next out → Keeps s0 out := by
  unfold execFrdGraphLoad
  intro out e
  cases e
  simp (maxDischargeDepth := 200) +contextual only [keeps_graphLoad, keeps_mirrorRead, keeps_obey, h, implies_true]

theorem keeps_execStgCheck {s0 : State} (c : Src) (p : Bytes) (s : State) (h : Keeps s0 s) :
    ∀ out, execStgCheck c p s = .next out → Keeps s0 out := by
  unfold execStgCheck
  intro out e
  cases e
  simp (maxDischargeDepth := 200) +contextual only [keeps_obey, keeps_stgCheck, h, implies_true]

theorem keeps_execStgCommit {s0 : State} (c : Src) (p : Bytes) (s : State) (h : Keeps s0 s) :
    ∀ out, execStgCommit c p s = .next out → Keeps s0 out := by
  unfold execStgCommit
  intro out e
  cases e
  simp (maxDischargeDepth := 200) +contextual only [keeps_obey, keeps_stgCommit, h, implies_true]

theorem keeps_execStgSave {s0 : State} (c : Src) (p : Bytes) (block : Option Bytes) (s : State) (h : Keeps s0 s) :
    ∀ out, execStgSave c p block s = .next out → Keeps s0 out := by
  unfold execStgSave
  intro out e
  cases e
  simp (maxDischargeDepth := 200) +contextual only [keeps_mirrorRead, keeps_obey, keeps_stgSave, h, implies_true]

theorem keeps_execStgToken {s0 : State} (c : Src) (p : Bytes) (s : State) (h : Keeps s0 s) :
    ∀ out, execStgToken c p s = .next out → Keeps s0 out := by
  unfold execStgToken
  intro out e
  cases e
  simp (maxDischargeDepth := 200) +contextual only [keeps_obey, keeps_stgToken, h, implies_true]

theorem keeps_execStgWrite {s0 : State} (c : Src) (p : Bytes) (s : State) (h : Keeps s0 s) :
    ∀ out, execStgWrite c p s = .next out → Keeps s0 out := by
  unfold execStgWrite
  intro out e
  cases e
  simp (maxDischargeDepth := 200) +contextual only [keeps_obey, keeps_stgWrite, h, implies_true]

theorem keeps_execTokenLeaseExpiry {s0 : State} (s : State) (h : Keeps s0 s) :
    ∀ out, execTokenLeaseExpiry s = .next out → Keeps s0 out := by
  unfold execTokenLeaseExpiry
  intro out e
  split at e <;> cases e <;> simp (maxDischargeDepth := 200) only [keeps_advanceTo, keeps_freeToken, keeps_note, h]

end Sys2Proof.Machine
end

