-- ==== Sys2Proof/Laws/KeepsSpores.lean ====
section
/-! SUPPORT. What the operations and meanings of Machine/Spores.lean keep: one lemma each, in the form of `Keeps`. -/

set_option maxRecDepth 4000

namespace Sys2Proof.Machine

theorem keeps_setSlotOfs {s0 : State} (s : State) (v : Nat) (h : Keeps s0 s) : Keeps s0 (s.setSlotOfs v) := by
  unfold State.setSlotOfs
  have h1 : ∀ x, Keeps s0 (s.modStg fun g => { g with stage := regSet g.stage .pwmSlotOfs 0 0 x }) := fun x =>
    keeps_modStgStage _ h fun z => cellsRise_write z
  have h2 : ∀ u x, Keeps s0 u → Keeps s0 { u with live := regSet u.live .pwmSlotOfs 0 0 x } := fun u x hu =>
    keeps_live _ hu fun z => cellsRise_write z.2.2.1
  simp (maxDischargeDepth := 200) +contextual only [implies_true, keeps_ite, keeps_forNums, keeps_modTb, h1, h2, h]

theorem keeps_sporeWork {s0 : State} (s : State) (d : DueSlot) (at_ : Nat) (nt : DWord) (take : Option DWord) (h : Keeps s0 s) :
    Keeps s0 (State.sporeWork s d at_ nt take) := by
  unfold State.sporeWork
  simp (maxDischargeDepth := 200) +contextual only [keeps_modEng, keeps_waitStart, keeps_forNums, h, implies_true]

theorem keeps_sporeDone {s0 : State} (s : State) (d : DueSlot) (st : Status) (detail : Nat) (h : Keeps s0 s) :
    Keeps s0 (State.sporeDone s d st detail) := by
  unfold State.sporeDone
  simp (maxDischargeDepth := 200) only [keeps_sporeRecord, h]

theorem keeps_sporeGraph {s0 : State} (s : State) (d : DueSlot) (h : Keeps s0 s) :
    Keeps s0 (State.sporeGraph s d) := by
  unfold State.sporeGraph
  simp (maxDischargeDepth := 200) only [keeps_mirror, keeps_sporeDone, keeps_sporeWork, keeps_ite, h]

theorem keeps_sporeCommit {s0 : State} (s : State) (d : DueSlot) (h : Keeps s0 s) :
    Keeps s0 (State.sporeCommit s d) := by
  unfold State.sporeCommit
  simp (maxDischargeDepth := 200) +contextual only [keeps_commitOnly, keeps_foldl, keeps_sporeApply, keeps_sporeDone, keeps_foldl, h, implies_true]

theorem keeps_runSpore {s0 : State} (s : State) (d : DueSlot) (h : Keeps s0 s) :
    Keeps s0 (State.runSpore s d) := by
  unfold State.runSpore
  split <;> simp (maxDischargeDepth := 200) only [keeps_acqTrigMask, keeps_modTwn, keeps_ptmAsk, keeps_setSlotOfs, keeps_sporeCommit, keeps_sporeDone, keeps_sporeGraph, keeps_ite, h]

theorem keeps_runBatch {s0 : State} (s : State) (b : List DueSlot) (h : Keeps s0 s) :
    Keeps s0 (State.runBatch s b) := by
  unfold State.runBatch
  simp (maxDischargeDepth := 200) +contextual only [keeps_foldl, keeps_runSpore, keeps_foldl, h, implies_true]

theorem keeps_batchesFirst {s0 : State} (s : State) (acceptAt : Nat) (h : Keeps s0 s) :
    Keeps s0 (State.batchesFirst s acceptAt) := by
  unfold State.batchesFirst
  simp (maxDischargeDepth := 200) +contextual only [keeps_foldl, keeps_modNt, keeps_runBatch, keeps_foldl, h, implies_true]

theorem keeps_commitNow {s0 : State} (s : State) (p : PendCommit) (nt : DWord) (h : Keeps s0 s) :
    Keeps s0 (State.commitNow s p nt) := by
  unfold State.commitNow
  simp (maxDischargeDepth := 200) +contextual only [keeps_batchesFirst, keeps_commitOnly, keeps_ite, h]

theorem keeps_execSporeExecute {s0 : State} (s : State) (h : Keeps s0 s) :
    ∀ out, execSporeExecute s = .next out → Keeps s0 out := by
  unfold execSporeExecute
  intro out e
  split at e <;> cases e <;> simp (maxDischargeDepth := 200) +contextual only [keeps_advanceTo, keeps_modNt, keeps_runBatch, h]

theorem keeps_commitsAt {s0 : State} (s : State) (e : Nat) (h : Keeps s0 s) :
    Keeps s0 (State.commitsAt s e) := by
  unfold State.commitsAt
  simp (maxDischargeDepth := 200) +contextual only [keeps_commitNow, h, keeps_foldl, implies_true]

theorem keeps_execCommitApply {s0 : State} (s : State) (h : Keeps s0 s) :
    ∀ out, execCommitApply s = .next out → Keeps s0 out := by
  unfold execCommitApply
  intro out e
  split at e <;> cases e <;> simp (maxDischargeDepth := 200) +contextual only [keeps_advanceTo, keeps_commitNow, keeps_toTick, h]

end Sys2Proof.Machine
end

