-- ==== Sys2Proof/Laws/KeepsOpsCmd.lean ====
section
/-! SUPPORT. What the operations and meanings of Machine/OpsCmd.lean keep: one lemma each, in the form of `Keeps`. -/

set_option maxRecDepth 4000

namespace Sys2Proof.Machine

theorem keeps_takeTamper {s0 : State} (s : State) (h : Keeps s0 s) :
    Keeps s0 (State.takeTamper s) := by
  unfold State.takeTamper
  simp (maxDischargeDepth := 200) +contextual only [keeps_foldl, keeps_logPut, keeps_modSec, keeps_foldl, h, implies_true]

theorem keeps_boot {s0 : State} (s : State) (m : BootMedia) (h : Keeps s0 s) :
    Keeps s0 (State.boot s m) := by
  unfold State.boot
  dsimp only
  repeat' split
  all_goals simp (maxDischargeDepth := 200) +contextual only [keeps_bootLoad, keeps_copyAnchors, keeps_draw, keeps_enter, keeps_modOps, keeps_modRep, keeps_nandTurn, keeps_takeTamper, keeps_forNums, h, implies_true]

theorem keeps_enginesStart {s0 : State} (s : State) (h : Keeps s0 s) :
    Keeps s0 (State.enginesStart s) := by
  unfold State.enginesStart
  simp (maxDischargeDepth := 200) +contextual only [keeps_allOffSets, keeps_engineReset, keeps_modEng, keeps_prfInit, keeps_forNums, h, implies_true]

theorem keeps_forceAtEntry {s0 : State} (s : State) (h : Keeps s0 s) :
    Keeps s0 (State.forceAtEntry s) := by
  unfold State.forceAtEntry
  simp (maxDischargeDepth := 200) +contextual only [keeps_loadList, keeps_forNums, h, implies_true]

theorem keeps_enterRunning {s0 : State} (s : State) (cause : Nat) (h : Keeps s0 s) :
    Keeps s0 (State.enterRunning s cause) := by
  unfold State.enterRunning
  simp (maxDischargeDepth := 200) +contextual only [keeps_enter, keeps_forceAtEntry, keeps_modEng, keeps_forNums, h, implies_true]

theorem keeps_fwActivate {s0 : State} (s : State) (c : Src) (p : Bytes) (h : Keeps s0 s) : Keeps s0 (s.fwActivate c p) := by
  unfold State.fwActivate
  dsimp only
  split
  · exact keeps_refuse _ _ _ _ _ h
  · split
    · exact keeps_refuse _ _ _ _ _ h
    · rename_i hn
      apply keeps_done
      apply keeps_modOps
      split
      · rename_i hu
        refine h.trans ⟨rfl, le_rfl, ⟨fun _ => le_rfl, rfl, ?_, rfl⟩, fun x => ⟨x.gates, x.queues, x.stores, x.fuses⟩⟩
        simp only [hu, Bool.true_and, Bool.or_eq_true, decide_eq_true_eq, not_or] at hn
        exact (Nat.lt_of_not_le hn.2).le
      · exact h

theorem keeps_setFwSlot {s0 : State} (s : State) (k : Nat) (x : FwSlot) (h : Keeps s0 s) :
    Keeps s0 (State.setFwSlot s k x) := by
  unfold State.setFwSlot
  simp (maxDischargeDepth := 200) only [keeps_modOps, h]

theorem keeps_fwFinish {s0 : State} (s : State) (h : Keeps s0 s) :
    Keeps s0 (State.fwFinish s) := by
  unfold State.fwFinish
  split <;> simp (maxDischargeDepth := 200) only [keeps_done, keeps_modOps, keeps_setFwSlot, h]

theorem keeps_fwLoad {s0 : State} (s : State) (c : Src) (p : Bytes) (image : Option Bytes) (h : Keeps s0 s) :
    Keeps s0 (State.fwLoad s c p image) := by
  unfold State.fwLoad
  dsimp only
  repeat' split
  all_goals simp (maxDischargeDepth := 200) +contextual only [keeps_fwFinish, keeps_nandTurn, keeps_modOps, keeps_refuse, keeps_setFwSlot, h]

theorem keeps_stopNow {s0 : State} (s : State) (p : PendOp) (nt : DWord) (h : Keeps s0 s) :
    Keeps s0 (State.stopNow s p nt) := by
  unfold State.stopNow
  dsimp only
  repeat' split
  all_goals simp (maxDischargeDepth := 200) +contextual only [keeps_complete, keeps_modOps, keeps_toIdle, keeps_toStopping, h]

theorem keeps_startNow {s0 : State} (s : State) (p : PendOp) (nt : DWord) (h : Keeps s0 s) :
    Keeps s0 (State.startNow s p nt) := by
  unfold State.startNow
  dsimp only
  repeat' split
  all_goals simp (maxDischargeDepth := 200) +contextual only [keeps_complete, keeps_enterRunning, keeps_modOps, keeps_refuse, h]

theorem keeps_idleActions {s0 : State} (s : State) (h : Keeps s0 s) :
    Keeps s0 (State.idleActions s) := by
  unfold State.idleActions
  simp (maxDischargeDepth := 200) +contextual only [keeps_commitNow, keeps_startNow, keeps_stopNow, h, keeps_foldl, implies_true]

theorem keeps_logRead {s0 : State} (s : State) (c : Src) (p : Bytes) (h : Keeps s0 s) :
    Keeps s0 (State.logRead s c p) := by
  unfold State.logRead
  simp (maxDischargeDepth := 200) +contextual only [keeps_done, keeps_hostWrite, keeps_nandTurn, h]

theorem keeps_mainClear {s0 : State} (s : State) (h : Keeps s0 s) : Keeps s0 s.mainClear := by
  refine h.trans ⟨rfl, le_rfl, ⟨fun _ => le_rfl, rfl, le_rfl, rfl⟩, fun x => ⟨?_, ?_, ?_, x.fuses⟩⟩
  · intro n hn
    simp only [State.mainClear, State.chan, vget] at hn
    by_cases h2 : n < 192
    · simp [h2] at hn
    · simp [h2] at hn
  · simp [State.mainClear, State.queuesBounded]
  · obtain ⟨a, b, -, e, -⟩ := x.stores
    exact ⟨a, b, cellsRise_mgmtLive s, cellsRise_filter _ e, cellsRise_mgmtLive s⟩

theorem keeps_mainReset {s0 : State} (s : State) (cause : Nat) (h : Keeps s0 s) :
    Keeps s0 (State.mainReset s cause) := by
  unfold State.mainReset
  simp (maxDischargeDepth := 200) only [keeps_enter, keeps_mainClear, keeps_modSec, h]

theorem keeps_mgtDropCommand {s0 : State} (s : State) (h : Keeps s0 s) :
    Keeps s0 (State.mgtDropCommand s) := by
  unfold State.mgtDropCommand
  dsimp only
  repeat' split
  all_goals simp (maxDischargeDepth := 200) +contextual only [keeps_modMgt, keeps_modStg, keeps_refuse, h]

theorem keeps_mgtReset {s0 : State} (s : State) (c : Src) (h : Keeps s0 s) :
    Keeps s0 (State.mgtReset s c) := by
  unfold State.mgtReset
  simp (maxDischargeDepth := 200) +contextual only [keeps_done, keeps_mainReset, keeps_modStg, keeps_refuse, keeps_ite, h, keeps_foldl, implies_true]

theorem keeps_nandRefresh {s0 : State} (s : State) (block : Nat) (correctedBits : Nat) (h : Keeps s0 s) :
    Keeps s0 (State.nandRefresh s block correctedBits) := by
  unfold State.nandRefresh
  simp (maxDischargeDepth := 200) +contextual only [keeps_modOps, keeps_nandTurn, keeps_ite, h]

theorem keeps_opsArm {s0 : State} (s : State) (c : Src) (h : Keeps s0 s) :
    Keeps s0 (State.opsArm s c) := by
  unfold State.opsArm
  split <;> simp (maxDischargeDepth := 200) only [keeps_busyStop, keeps_done, keeps_enginesStart, keeps_enter, keeps_refuse, keeps_ite, h]

theorem keeps_opsAt {s0 : State} (s : State) (es : List Nat) (h : Keeps s0 s) :
    Keeps s0 (State.opsAt s es) := by
  unfold State.opsAt
  simp (maxDischargeDepth := 200) +contextual only [keeps_startNow, keeps_stopNow, h, keeps_foldl, implies_true]

theorem keeps_opsDisarm {s0 : State} (s : State) (c : Src) (h : Keeps s0 s) :
    Keeps s0 (State.opsDisarm s c) := by
  unfold State.opsDisarm
  split <;> simp (maxDischargeDepth := 200) +contextual only [keeps_done, keeps_refuse, keeps_toIdle, h]

theorem keeps_opsMainReset {s0 : State} (s : State) (c : Src) (h : Keeps s0 s) :
    Keeps s0 (State.opsMainReset s c) := by
  unfold State.opsMainReset
  split <;> simp (maxDischargeDepth := 200) +contextual only [keeps_dropStarts, keeps_enginesStop, keeps_mgtReset, keeps_modMgt, keeps_stopChannels, h]

theorem keeps_opsStart {s0 : State} (s : State) (c : Src) (p : Bytes) (take : Option DWord) (h : Keeps s0 s) :
    Keeps s0 (State.opsStart s c p take) := by
  unfold State.opsStart
  repeat' split
  all_goals simp (maxDischargeDepth := 200) only [keeps_busyStop, keeps_done, keeps_mirror, keeps_modOps, keeps_refuse, h]

theorem keeps_opsStop {s0 : State} (s : State) (c : Src) (p : Bytes) (take : Option DWord) (h : Keeps s0 s) :
    Keeps s0 (State.opsStop s c p take) := by
  unfold State.opsStop
  repeat' split
  all_goals simp (maxDischargeDepth := 200) only [keeps_done, keeps_mirror, keeps_modOps, keeps_refuse, h]

theorem keeps_powerDown {s0 : State} (s : State) (h : Keeps s0 s) : Keeps s0 s.powerDown := by
  unfold State.powerDown
  apply keeps_notify
  apply keeps_modOps
  have h1 := keeps_mainClear s h
  refine h1.trans ⟨rfl, le_rfl, ⟨fun _ => le_rfl, rfl, le_rfl, rfl⟩, fun x => ⟨x.gates, x.queues, ?_, x.fuses⟩⟩
  obtain ⟨a, -, c⟩ := x.stores
  exact ⟨a, rfl, c⟩

theorem keeps_powerUp {s0 : State} (s : State) (retentionOk : Bool) (h : Keeps s0 s) :
    Keeps s0 (State.powerUp s retentionOk) := by
  unfold State.powerUp
  simp (maxDischargeDepth := 200) +contextual only [keeps_mainReset, keeps_modRep, keeps_modSaf, keeps_modSec, keeps_forNums, keeps_ite, h, implies_true]

theorem keeps_selftest {s0 : State} (s : State) (failed : BitVec 12) (h : Keeps s0 s) :
    Keeps s0 (State.selftest s failed) := by
  unfold State.selftest
  split <;> simp (maxDischargeDepth := 200) +contextual only [keeps_advanceTo, keeps_enter, keeps_halt, keeps_modSaf, keeps_safJudge, keeps_safNote, keeps_setRegN, keeps_tripsStanding, keeps_ite, h]

theorem keeps_vinLost {s0 : State} (s : State) (h : Keeps s0 s) :
    Keeps s0 (State.vinLost s) := by
  unfold State.vinLost
  simp (maxDischargeDepth := 200) +contextual only [keeps_mgtDropCommand, keeps_modOps, keeps_modSaf, keeps_modTwn, keeps_safJudge, keeps_stopChannels, keeps_ite, keeps_mk, le_refl, h]

theorem keeps_mgtNew {s0 s : State} (m : MgtState) (a : ArbState) (h : Keeps s0 s) : Keeps s0 { s with mgt := m, arb := a } := by
  simp only [keeps_mk, le_refl, h]

theorem keeps_vmgtLost {s0 : State} (s : State) (h : Keeps s0 s) : Keeps s0 s.vmgtLost := by
  unfold State.vmgtLost
  extract_lets s1 s2 s3 s4
  have h3 : Keeps s0 s3 := keeps_modSec _ (keeps_modSaf _ (keeps_mgtNew _ _ h)) rfl rfl rfl
  have h4 : Keeps s0 s4 := keeps_ite (keeps_live _ h3 fun _ => cellsRise_mgmtLive s3) h3
  exact keeps_ite h4 (keeps_safUpdate _ (keeps_safFault _ _ _ h4))

theorem keeps_vmgtUp {s0 : State} (s : State) (strapped : Bool) (h : Keeps s0 s) : Keeps s0 (s.vmgtUp strapped) := by
  have h1 : Keeps s0 ({ s.draw.2.modRep 128 fun x => { x with nonce := Config.drbg128 s.draw.1 } with
      mgt := { vmgt := true, anchors := s.mgt.anchors }, arb := { strapped := strapped, noReadyAt := s.now } }.modSaf
        fun f => { f with resetReq := true }) := keeps_modSaf _ (keeps_mgtNew _ _ (keeps_modRep _ _ (keeps_draw h)))
  exact keeps_ite (keeps_powerDown _ h1) h1

theorem keeps_execArmLost {s0 : State} (s : State) (h : Keeps s0 s) : ∀ u, execArmLost s = .next u → Keeps s0 u := by
  unfold execArmLost
  intro u eq
  split at eq
  · rw [← Host.Outcome.next.inj eq]
    simp (maxDischargeDepth := 200) only [keeps_toIdle, h]
  · rw [← Host.Outcome.next.inj eq]; exact h

theorem keeps_execBootComplete {s0 : State} (media : BootMedia) (s : State) (h : Keeps s0 s) :
    ∀ out, execBootComplete media s = .next out → Keeps s0 out := by
  unfold execBootComplete
  intro out e
  split at e <;> cases e <;> simp (maxDischargeDepth := 200) only [keeps_boot, h]

theorem keeps_execFwImageWriteComplete {s0 : State} (s : State) (h : Keeps s0 s) :
    ∀ out, execFwImageWriteComplete s = .next out → Keeps s0 out := by
  unfold execFwImageWriteComplete
  intro out e
  cases e
  simp (maxDischargeDepth := 200) +contextual only [keeps_fwFinish, keeps_nandTurn, h]

theorem keeps_execHoldUpEnd {s0 : State} (s : State) (h : Keeps s0 s) :
    ∀ out, execHoldUpEnd s = .next out → Keeps s0 out := by
  unfold execHoldUpEnd
  intro out e
  split at e <;> cases e <;> simp (maxDischargeDepth := 200) +contextual only [keeps_advanceTo, keeps_powerDown, h]

theorem keeps_execImgFwActivate {s0 : State} (c : Src) (p : Bytes) (s : State) (h : Keeps s0 s) :
    ∀ out, execImgFwActivate c p s = .next out → Keeps s0 out := by
  unfold execImgFwActivate
  intro out e
  cases e
  simp (maxDischargeDepth := 200) +contextual only [keeps_acting, keeps_fwActivate, h, implies_true]

theorem keeps_execImgFwLoad {s0 : State} (c : Src) (p : Bytes) (image : Option Bytes) (s : State) (h : Keeps s0 s) :
    ∀ out, execImgFwLoad c p image s = .next out → Keeps s0 out := by
  unfold execImgFwLoad
  intro out e
  cases e
  simp (maxDischargeDepth := 200) +contextual only [keeps_acting, keeps_fwLoad, keeps_mirrorRead, h, implies_true]

theorem keeps_execLogFlush {s0 : State} (s : State) (h : Keeps s0 s) :
    ∀ out, execLogFlush s = .next out → Keeps s0 out := by
  unfold execLogFlush
  intro out e
  repeat' split at e
  all_goals (cases e; simp (maxDischargeDepth := 200) +contextual only [keeps_logFlush, h])

theorem keeps_execLogRead {s0 : State} (c : Src) (p : Bytes) (s : State) (h : Keeps s0 s) :
    ∀ out, execLogRead c p s = .next out → Keeps s0 out := by
  unfold execLogRead
  intro out e
  cases e
  simp (maxDischargeDepth := 200) +contextual only [keeps_acting, keeps_logRead, h, implies_true]

theorem keeps_execNandRefresh {s0 : State} (block : Nat) (correctedBits : Nat) (s : State) (h : Keeps s0 s) :
    ∀ out, execNandRefresh block correctedBits s = .next out → Keeps s0 out := by
  unfold execNandRefresh
  intro out e
  cases e
  simp (maxDischargeDepth := 200) only [keeps_nandRefresh, h]

theorem keeps_execOffSequenceComplete {s0 : State} (s : State) (h : Keeps s0 s) :
    ∀ out, execOffSequenceComplete s = .next out → Keeps s0 out := by
  unfold execOffSequenceComplete
  intro out e
  dsimp only at e
  repeat' split at e
  all_goals (cases e; simp (maxDischargeDepth := 200) +contextual only [keeps_ackOverdue, keeps_enter, keeps_mgtReset, h])

theorem keeps_execOpsArm {s0 : State} (c : Src) (s : State) (h : Keeps s0 s) :
    ∀ out, execOpsArm c s = .next out → Keeps s0 out := by
  unfold execOpsArm
  intro out e
  cases e
  simp (maxDischargeDepth := 200) +contextual only [keeps_obey, keeps_opsArm, h, implies_true]

theorem keeps_execOpsDisarm {s0 : State} (c : Src) (s : State) (h : Keeps s0 s) :
    ∀ out, execOpsDisarm c s = .next out → Keeps s0 out := by
  unfold execOpsDisarm
  intro out e
  cases e
  simp (maxDischargeDepth := 200) +contextual only [keeps_obey, keeps_opsDisarm, h, implies_true]

theorem keeps_execOpsMainReset {s0 : State} (c : Src) (s : State) (h : Keeps s0 s) :
    ∀ out, execOpsMainReset c s = .next out → Keeps s0 out := by
  unfold execOpsMainReset
  intro out e
  cases e
  simp (maxDischargeDepth := 200) +contextual only [keeps_acting, keeps_opsMainReset, keeps_refuse, keeps_ite, h, implies_true]

theorem keeps_execOpsStart {s0 : State} (c : Src) (p : Bytes) (s : State) (h : Keeps s0 s) :
    ∀ out, execOpsStart c p s = .next out → Keeps s0 out := by
  unfold execOpsStart
  intro out e
  cases e
  simp (maxDischargeDepth := 200) +contextual only [keeps_obey, keeps_opsStart, h, implies_true]

theorem keeps_execOpsStop {s0 : State} (c : Src) (p : Bytes) (s : State) (h : Keeps s0 s) :
    ∀ out, execOpsStop c p s = .next out → Keeps s0 out := by
  unfold execOpsStop
  intro out e
  cases e
  simp (maxDischargeDepth := 200) +contextual only [keeps_obey, keeps_opsStop, h, implies_true]

theorem keeps_execPowerOnResetRelease {s0 : State} (retentionOk : Bool) (s : State) (h : Keeps s0 s) :
    ∀ out, execPowerOnResetRelease retentionOk s = .next out → Keeps s0 out := by
  unfold execPowerOnResetRelease
  intro out e
  split at e <;> cases e <;> simp (maxDischargeDepth := 200) +contextual only [keeps_modOps, keeps_powerUp, keeps_ite, h]

theorem keeps_execSelftestComplete {s0 : State} (failed : BitVec 12) (s : State) (h : Keeps s0 s) :
    ∀ out, execSelftestComplete failed s = .next out → Keeps s0 out := by
  unfold execSelftestComplete
  intro out e
  split at e <;> cases e <;> simp (maxDischargeDepth := 200) only [keeps_selftest, h]

theorem keeps_execVinLoss {s0 : State} (s : State) (h : Keeps s0 s) :
    ∀ out, execVinLoss s = .next out → Keeps s0 out := by
  unfold execVinLoss
  intro out e
  split at e <;> cases e <;> simp (maxDischargeDepth := 200) only [keeps_vinLost, h]

theorem keeps_execVmgtLoss {s0 : State} (s : State) (h : Keeps s0 s) :
    ∀ out, execVmgtLoss s = .next out → Keeps s0 out := by
  unfold execVmgtLoss
  intro out e
  split at e <;> cases e <;> simp (maxDischargeDepth := 200) only [keeps_vmgtLost, h]

theorem keeps_execVmgtPowerUp {s0 : State} (hbPulledHigh : Bool) (s : State) (h : Keeps s0 s) :
    ∀ out, execVmgtPowerUp hbPulledHigh s = .next out → Keeps s0 out := by
  unfold execVmgtPowerUp
  intro out e
  split at e <;> cases e <;> simp (maxDischargeDepth := 200) only [keeps_vmgtUp, h]

end Sys2Proof.Machine
end

