-- ==== Sys2Proof/Laws/KeepsRings.lean ====
section
/-! SUPPORT. What the operations and meanings of Machine/Rings.lean keep: one lemma each, in the form of `Keeps`. -/

set_option maxRecDepth 4000

namespace Sys2Proof.Machine

theorem keeps_seqTaken {s0 : State} (s : State) (ring : Fin 129) (seq : DWord) (op : Nat) (p : Bytes) (h : Keeps s0 s) :
    Keeps s0 (State.seqTaken s ring seq op p) := by
  unfold State.seqTaken
  simp (maxDischargeDepth := 200) +contextual only [keeps_grantTaken, keeps_setLastSeq, keeps_ite, h]

theorem keeps_bar2Read {s0 : State} (s : State) (r : Nat) (off : Nat) (w : AccessWidth) (h : Keeps s0 s) :
    Keeps s0 (State.bar2Read s r off w) := by
  unfold State.bar2Read
  simp (maxDischargeDepth := 200) +contextual only [keeps_count, keeps_modBus, keeps_ite, h]

theorem keeps_bellCq {s0 : State} (s : State) (r : Nat) (v : Word) (h : Keeps s0 s) :
    Keeps s0 (State.bellCq s r v) := by
  unfold State.bellCq
  simp (maxDischargeDepth := 200) +contextual only [keeps_count, keeps_modRing, keeps_trace, keeps_ite, h]

theorem keeps_bellSq {s0 : State} (s : State) (r : Nat) (v : Word) (h : Keeps s0 s) :
    Keeps s0 (State.bellSq s r v) := by
  unfold State.bellSq
  simp (maxDischargeDepth := 200) +contextual only [keeps_count, keeps_modRing, keeps_trace, keeps_ite, h]

theorem keeps_bar2Write {s0 : State} (s : State) (r : Nat) (off : Nat) (w : AccessWidth) (v : DWord) (h : Keeps s0 s) :
    Keeps s0 (State.bar2Write s r off w v) := by
  unfold State.bar2Write
  simp (maxDischargeDepth := 200) +contextual only [keeps_bellCq, keeps_bellSq, keeps_count, keeps_ite, h]

theorem keeps_flightDrop {s0 : State} (s : State) (no : Nat) (h : Keeps s0 s) :
    Keeps s0 (State.flightDrop s no) := by
  unfold State.flightDrop
  simp (maxDischargeDepth := 200) only [keeps_modCmd, h]

theorem keeps_flightLeave {s0 : State} (s : State) (f : Flight) (h : Keeps s0 s) :
    Keeps s0 (State.flightLeave s f) := by
  unfold State.flightLeave
  simp (maxDischargeDepth := 200) +contextual only [keeps_backPressure, keeps_flightDrop, h]

theorem keeps_accept {s0 : State} (s : State) (f : Flight) (h : Keeps s0 s) :
    Keeps s0 (State.accept s f) := by
  unfold State.accept
  simp (maxDischargeDepth := 200) +contextual only [keeps_flightLeave, keeps_keepMax, keeps_mirror, keeps_modCmd, keeps_seqTaken, keeps_trace, keeps_ite, h]

theorem keeps_dispatch {s0 : State} (s : State) (u : Nat) (h : Keeps s0 s) :
    Keeps s0 (State.dispatch s u) := by
  unfold State.dispatch
  dsimp only
  repeat' split
  all_goals simp (maxDischargeDepth := 200) +contextual only [keeps_modCmd, keeps_trace, h]

theorem keeps_flightEnd {s0 : State} (s : State) (f : Flight) (st : Status) (detail : Nat) (h : Keeps s0 s) :
    Keeps s0 (State.flightEnd s f st detail) := by
  unfold State.flightEnd
  simp (maxDischargeDepth := 200) +contextual only [keeps_flightLeave, keeps_writeEntry, h]

theorem keeps_flightTimeout {s0 : State} (s : State) (f : Flight) (h : Keeps s0 s) :
    Keeps s0 (State.flightTimeout s f) := by
  unfold State.flightTimeout
  simp (maxDischargeDepth := 200) only [keeps_flightEnd, keeps_trace, h]

theorem keeps_withdrawLate {s0 : State} (s : State) (h : Keeps s0 s) :
    Keeps s0 (State.withdrawLate s) := by
  unfold State.withdrawLate
  simp (maxDischargeDepth := 200) +contextual only [keeps_flightTimeout, keeps_foldl, keeps_foldl, h, implies_true]

theorem keeps_queueItem {s0 : State} (s : State) (f : Flight) (k : WorkKind) (h : Keeps s0 s) :
    Keeps s0 (State.queueItem s f k) := by
  unfold State.queueItem
  simp (maxDischargeDepth := 200) only [keeps_backPressure, keeps_flightTimeout, keeps_modCmd, keeps_trace, keeps_ite, h]

theorem keeps_fetch {s0 : State} (s : State) (r : Fin 128) (desc : Option Bytes) (payload : Bytes) (sig : Bytes) (h : Keeps s0 s) :
    Keeps s0 (State.fetch s r desc payload sig) := by
  unfold State.fetch
  split <;> simp (maxDischargeDepth := 200) only [keeps_modCmd, keeps_modRing, keeps_queueItem, keeps_trace, h]

theorem keeps_parse {s0 : State} (s : State) (f : Flight) (h : Keeps s0 s) :
    Keeps s0 (State.parse s f) := by
  unfold State.parse
  split <;> simp (maxDischargeDepth := 200) only [keeps_flightEnd, keeps_queueItem, keeps_ite, h]

theorem keeps_place {s0 : State} (s : State) (f : Flight) (h : Keeps s0 s) :
    Keeps s0 (State.place s f) := by
  unfold State.place
  repeat' split
  all_goals simp (maxDischargeDepth := 200) +contextual only [keeps_accept, keeps_busyStop, keeps_flightEnd, keeps_flightLeave, keeps_queueItem, keeps_writeEntry, h]

theorem keeps_setEnable {s0 : State} (s : State) (r : Nat) (on : Bool) (h : Keeps s0 s) :
    Keeps s0 (State.setEnable s r on) := by
  unfold State.setEnable
  simp (maxDischargeDepth := 200) only [keeps_setReg, h]

theorem keeps_ringDisable {s0 : State} (s : State) (r : Nat) (h : Keeps s0 s) :
    Keeps s0 (State.ringDisable s r) := by
  unfold State.ringDisable
  split <;> simp (maxDischargeDepth := 200) +contextual only [keeps_flightEnd, keeps_modRing, keeps_setEnable, h, keeps_foldl, implies_true]

theorem keeps_ringDrained {s0 : State} (s : State) (r : Nat) (h : Keeps s0 s) :
    Keeps s0 (State.ringDrained s r) := by
  unfold State.ringDrained
  simp (maxDischargeDepth := 200) only [keeps_modRing, keeps_ite, h]

theorem keeps_ringEnable {s0 : State} (s : State) (r : Nat) (h : Keeps s0 s) :
    Keeps s0 (State.ringEnable s r) := by
  unfold State.ringEnable
  split <;> simp (maxDischargeDepth := 200) only [keeps_busyStop, keeps_modRing, keeps_setEnable, keeps_ite, h]

theorem keeps_unitFree {s0 : State} (s : State) (u : Nat) (h : Keeps s0 s) :
    Keeps s0 (State.unitFree s u) := by
  unfold State.unitFree
  simp (maxDischargeDepth := 200) only [keeps_modCmd, h]

theorem keeps_verify {s0 : State} (s : State) (u : Nat) (f : Flight) (h : Keeps s0 s) :
    Keeps s0 (State.verify s u f) := by
  unfold State.verify
  dsimp only
  repeat' split
  all_goals simp (maxDischargeDepth := 200) +contextual only [keeps_count, keeps_flightEnd, keeps_modCmd, keeps_queueItem, keeps_trace, h]

theorem keeps_execCommandTimeout {s0 : State} (ring : Fin 128) (seq : DWord) (s : State) (h : Keeps s0 s) :
    ∀ out, execCommandTimeout ring seq s = .next out → Keeps s0 out := by
  unfold execCommandTimeout
  intro out e
  split at e <;> cases e <;> simp (maxDischargeDepth := 200) only [keeps_advanceTo, keeps_flightTimeout, h]

theorem keeps_execCqHeadWrite {s0 : State} (ring : Fin 128) (v : Word) (s : State) (h : Keeps s0 s) :
    ∀ out, execCqHeadWrite ring v s = .next out → Keeps s0 out := by
  unfold execCqHeadWrite
  intro out e
  cases e
  simp (maxDischargeDepth := 200) +contextual only [keeps_bellCq, h]

theorem keeps_execDescriptorFetch {s0 : State} (ring : Fin 128) (desc : Option Bytes) (payload : Bytes) (sig : Bytes) (s : State) (h : Keeps s0 s) :
    ∀ out, execDescriptorFetch ring desc payload sig s = .next out → Keeps s0 out := by
  unfold execDescriptorFetch
  intro out e
  split at e <;> cases e <;> simp (maxDischargeDepth := 200) only [keeps_fetch, h]

theorem keeps_execDoorbell {s0 : State} (ring : Fin 128) (v : Word) (s : State) (h : Keeps s0 s) :
    ∀ out, execDoorbell ring v s = .next out → Keeps s0 out := by
  unfold execDoorbell
  intro out e
  cases e
  simp (maxDischargeDepth := 200) +contextual only [keeps_bellSq, h]

theorem keeps_execParse {s0 : State} (core : Fin 2) (s : State) (h : Keeps s0 s) :
    ∀ out, execParse core s = .next out → Keeps s0 out := by
  unfold execParse
  intro out e
  split at e <;> cases e <;> simp (maxDischargeDepth := 200) only [keeps_parse, keeps_unitFree, h]

theorem keeps_execPayloadReadFail {s0 : State} (ring : Fin 128) (seq : DWord) (s : State) (h : Keeps s0 s) :
    ∀ out, execPayloadReadFail ring seq s = .next out → Keeps s0 out := by
  unfold execPayloadReadFail
  intro out e
  split at e <;> cases e <;> simp (maxDischargeDepth := 200) only [keeps_flightEnd, h]

theorem keeps_execPlace {s0 : State} (core : Fin 2) (s : State) (h : Keeps s0 s) :
    ∀ out, execPlace core s = .next out → Keeps s0 out := by
  unfold execPlace
  intro out e
  split at e <;> cases e <;> simp (maxDischargeDepth := 200) only [keeps_place, keeps_unitFree, h]

theorem keeps_execRingDisable {s0 : State} (ring : Fin 128) (s : State) (h : Keeps s0 s) :
    ∀ out, execRingDisable ring s = .next out → Keeps s0 out := by
  unfold execRingDisable
  intro out e
  cases e
  simp (maxDischargeDepth := 200) only [keeps_ringDisable, h]

theorem keeps_execRingDrained {s0 : State} (ring : Fin 128) (s : State) (h : Keeps s0 s) :
    ∀ out, execRingDrained ring s = .next out → Keeps s0 out := by
  unfold execRingDrained
  intro out e
  cases e
  simp (maxDischargeDepth := 200) only [keeps_ringDrained, h]

theorem keeps_execRingEnable {s0 : State} (ring : Fin 128) (s : State) (h : Keeps s0 s) :
    ∀ out, execRingEnable ring s = .next out → Keeps s0 out := by
  unfold execRingEnable
  intro out e
  cases e
  simp (maxDischargeDepth := 200) only [keeps_ringEnable, h]

theorem keeps_execVerify {s0 : State} (unit : Fin 7) (s : State) (h : Keeps s0 s) :
    ∀ out, execVerify unit s = .next out → Keeps s0 out := by
  unfold execVerify
  intro out e
  split at e <;> cases e <;> simp (maxDischargeDepth := 200) only [keeps_unitFree, keeps_verify, h]

theorem keeps_execWorkItemDispatch {s0 : State} (unit : Fin 7) (s : State) (h : Keeps s0 s) :
    ∀ out, execWorkItemDispatch unit s = .next out → Keeps s0 out := by
  unfold execWorkItemDispatch
  intro out e
  cases e
  simp (maxDischargeDepth := 200) +contextual only [keeps_dispatch, keeps_withdrawLate, h]

end Sys2Proof.Machine
end

