-- ==== Sys2Proof/Laws/KeepsMgmt.lean ====
section
/-! SUPPORT. What the operations and meanings of Machine/Mgmt.lean keep: one lemma each, in the form of `Keeps`. -/

set_option maxRecDepth 4000

namespace Sys2Proof.Machine

theorem keeps_ctrlSend {s0 : State} (s : State) (code : Nat) (cc : Nat) (body : Bytes) (h : Keeps s0 s) :
    Keeps s0 (State.ctrlSend s code cc body) := by
  unfold State.ctrlSend
  simp (maxDischargeDepth := 200) only [keeps_mctpSend, keeps_ite, h]

theorem keeps_mgtSend {s0 : State} (s : State) (peer : MctpPeer) (kind : Nat) (req : Byte) (status : Nat) (body : Bytes) (h : Keeps s0 s) :
    Keeps s0 (State.mgtSend s peer kind req status body) := by
  unfold State.mgtSend
  simp (maxDischargeDepth := 200) +contextual only [keeps_mctpSend, h]

theorem keeps_mctpMessage {s0 : State} (s : State) (peer : MctpPeer) (m : Bytes) (h : Keeps s0 s) :
    Keeps s0 (State.mctpMessage s peer m) := by
  unfold State.mctpMessage
  simp (maxDischargeDepth := 200) +contextual only [keeps_mgtSend, keeps_modMgt, keeps_ite, h]

theorem keeps_mctpNext {s0 : State} (s : State) (a : MctpAsm) (seq : Nat) (last : Bool) (data : Bytes) (h : Keeps s0 s) :
    Keeps s0 (State.mctpNext s a seq last data) := by
  unfold State.mctpNext
  simp (maxDischargeDepth := 200) only [keeps_count, keeps_mctpMessage, keeps_modMgt, keeps_ite, h]

theorem keeps_mctpIn {s0 : State} (s : State) (p : Bytes) (h : Keeps s0 s) :
    Keeps s0 (State.mctpIn s p) := by
  unfold State.mctpIn
  repeat' split
  all_goals simp (maxDischargeDepth := 200) only [keeps_count, keeps_mctpMessage, keeps_mctpNext, keeps_modMgt, keeps_ite, h]

theorem keeps_mgtCommand {s0 : State} (s : State) (peer : MctpPeer) (req : Byte) (body : Bytes) (h : Keeps s0 s) :
    Keeps s0 (State.mgtCommand s peer req body) := by
  unfold State.mgtCommand
  extract_lets d inline_ rest n p sig op c s1
  have h1 : Keeps s0 s1 := keeps_modMgt _ h
  have hr := fun st x => keeps_refuse s1 c op st x h1
  have hs := keeps_seqTaken s1 128 c.seq op p h1
  clear_value s1 c p sig
  split
  · exact hr _ _
  · refine keeps_ite (hr _ _) ?_
    split
    · exact hr _ _
    · split
      · exact hr _ _
      · exact keeps_ite (hr _ _) (keeps_ite (keeps_mirror _ _ _ _ _ hs) hs)

theorem keeps_putBlock {s0 : State} (s : State) (body : Bytes) (h : Keeps s0 s) : Keeps s0 (s.putBlock body) :=
  keeps_ite (keeps_dramWrite _ _ h) h

theorem keeps_takeMsg {s0 : State} (s : State) (kind : Nat) (req : Byte) (h : Keeps s0 s) :
    Keeps s0 (State.takeMsg s kind req) := by
  unfold State.takeMsg
  simp (maxDischargeDepth := 200) only [keeps_modMgt, h]

theorem keeps_query {s0 : State} (s : State) (kind : Nat) (req : Byte) (act : State → State) (body : State → Bytes) (h : Keeps s0 s)
    (ha : ∀ u, Keeps s0 u → Keeps s0 (act u)) : Keeps s0 (s.query kind req act body) := by
  unfold State.query
  simp (maxDischargeDepth := 200) only [keeps_ite, keeps_mgtSend, keeps_takeMsg, ha, h]

theorem keeps_stgRecover {s0 : State} (s : State) (c : Src) (p : Bytes) (h : Keeps s0 s) :
    Keeps s0 (State.stgRecover s c p) := by
  unfold State.stgRecover
  dsimp only
  repeat' split
  all_goals simp (maxDischargeDepth := 200) +contextual only [keeps_blockWrite, keeps_refuse, h]

theorem keeps_execCommand {s0 : State} (reqId : Byte) (body : Bytes) (s : State) (h : Keeps s0 s) :
    ∀ out, execCommand reqId body s = .next out → Keeps s0 out := by
  unfold execCommand
  intro out e
  dsimp only at e
  repeat' split at e
  all_goals (cases e; simp (maxDischargeDepth := 200) +contextual only [keeps_mgtCommand, keeps_mgtSend, keeps_takeMsg, h])

theorem keeps_execConfigBlockWriteComplete {s0 : State} (s : State) (h : Keeps s0 s) :
    ∀ out, execConfigBlockWriteComplete s = .next out → Keeps s0 out := by
  unfold execConfigBlockWriteComplete
  intro out e
  dsimp only at e
  repeat' split at e
  all_goals (cases e; simp (maxDischargeDepth := 200) +contextual only [keeps_blockWritten, keeps_complete, keeps_done, keeps_opsMainReset, h])

theorem keeps_execGetEndpointId {s0 : State} (s : State) (h : Keeps s0 s) :
    ∀ out, execGetEndpointId s = .next out → Keeps s0 out := by
  unfold execGetEndpointId
  intro out e
  cases e
  simp (maxDischargeDepth := 200) only [keeps_ctrlSend, h]

theorem keeps_execGetIdentity {s0 : State} (reqId : Byte) (body : Bytes) (s : State) (h : Keeps s0 s) :
    ∀ out, execGetIdentity reqId body s = .next out → Keeps s0 out := by
  unfold execGetIdentity
  intro out e
  cases e
  simp (maxDischargeDepth := 200) +contextual only [keeps_query, h, id_eq, implies_true]

theorem keeps_execGetLog {s0 : State} (reqId : Byte) (body : Bytes) (s : State) (h : Keeps s0 s) :
    ∀ out, execGetLog reqId body s = .next out → Keeps s0 out := by
  unfold execGetLog
  intro out e
  cases e
  simp (maxDischargeDepth := 200) +contextual only [keeps_nandTurn, keeps_query, h, implies_true]

theorem keeps_execGetMctpVersionSupport {s0 : State} (s : State) (h : Keeps s0 s) :
    ∀ out, execGetMctpVersionSupport s = .next out → Keeps s0 out := by
  unfold execGetMctpVersionSupport
  intro out e
  cases e
  simp (maxDischargeDepth := 200) +contextual only [keeps_ctrlSend, h]

theorem keeps_execGetMessageTypeSupport {s0 : State} (s : State) (h : Keeps s0 s) :
    ∀ out, execGetMessageTypeSupport s = .next out → Keeps s0 out := by
  unfold execGetMessageTypeSupport
  intro out e
  cases e
  simp (maxDischargeDepth := 200) only [keeps_ctrlSend, h]

theorem keeps_execGetReplay {s0 : State} (reqId : Byte) (s : State) (h : Keeps s0 s) :
    ∀ out, execGetReplay reqId s = .next out → Keeps s0 out := by
  unfold execGetReplay
  intro out e
  cases e
  simp (maxDischargeDepth := 200) +contextual only [keeps_query, h, id_eq, implies_true]

theorem keeps_execGetSlots {s0 : State} (reqId : Byte) (s : State) (h : Keeps s0 s) :
    ∀ out, execGetSlots reqId s = .next out → Keeps s0 out := by
  unfold execGetSlots
  intro out e
  cases e
  simp (maxDischargeDepth := 200) +contextual only [keeps_query, h, id_eq, implies_true]

theorem keeps_execGetStatus {s0 : State} (reqId : Byte) (s : State) (h : Keeps s0 s) :
    ∀ out, execGetStatus reqId s = .next out → Keeps s0 out := by
  unfold execGetStatus
  intro out e
  cases e
  simp (maxDischargeDepth := 200) +contextual only [keeps_modMgt, keeps_query, h, implies_true]

theorem keeps_execGetVendorDefinedMessageSupport {s0 : State} (s : State) (h : Keeps s0 s) :
    ∀ out, execGetVendorDefinedMessageSupport s = .next out → Keeps s0 out := by
  unfold execGetVendorDefinedMessageSupport
  intro out e
  cases e
  simp (maxDischargeDepth := 200) only [keeps_ctrlSend, h]

theorem keeps_execMctpPacket {s0 : State} (packet : Bytes) (pecOk : Bool) (s : State) (h : Keeps s0 s) :
    ∀ out, execMctpPacket packet pecOk s = .next out → Keeps s0 out := by
  unfold execMctpPacket
  intro out e
  repeat' split at e
  all_goals cases e
  all_goals simp (maxDischargeDepth := 200) only [keeps_count, keeps_mctpIn, h]

theorem keeps_execPutBlock {s0 : State} (reqId : Byte) (body : Bytes) (s : State) (h : Keeps s0 s) :
    ∀ out, execPutBlock reqId body s = .next out → Keeps s0 out := by
  unfold execPutBlock
  intro out e
  cases e
  simp (maxDischargeDepth := 200) +contextual only [keeps_putBlock, keeps_query, h, implies_true]

theorem keeps_execSetEndpointId {s0 : State} (eid : Byte) (s : State) (h : Keeps s0 s) :
    ∀ out, execSetEndpointId eid s = .next out → Keeps s0 out := by
  unfold execSetEndpointId
  intro out e
  split at e <;> cases e <;> simp (maxDischargeDepth := 200) only [keeps_ctrlSend, keeps_modMgt, h]

theorem keeps_execStgRecover {s0 : State} (c : Src) (p : Bytes) (s : State) (h : Keeps s0 s) :
    ∀ out, execStgRecover c p s = .next out → Keeps s0 out := by
  unfold execStgRecover
  intro out e
  cases e
  simp (maxDischargeDepth := 200) +contextual only [keeps_acting, keeps_stgRecover, h, implies_true]

end Sys2Proof.Machine
end

