-- ==== Sys2Proof/Laws/KeepsTwin.lean ====
section
/-! SUPPORT. What the operations and meanings of Machine/Twin.lean keep: one lemma each, in the form of `Keeps`. -/

set_option maxRecDepth 4000

namespace Sys2Proof.Machine

theorem keeps_snapTake {s0 : State} (s : State) (e : Nat) (h : Keeps s0 s) :
    Keeps s0 (State.snapTake s e) := by
  unfold State.snapTake
  simp (maxDischargeDepth := 200) +contextual only [keeps_modTwn, keeps_ite, h]

theorem keeps_resyncDrain {s0 : State} (n room : Nat) (s : State) (h : Keeps s0 s) :
    Keeps s0 (State.resyncDrain n room s) := by
  induction n generalizing room s with
  | zero => exact h
  | succ n ih =>
    unfold State.resyncDrain
    split
    · exact keeps_ite (keeps_modTwn _ h) h
    · exact keeps_ite (ih _ _ (keeps_modTwn _ h)) (keeps_modTwn _ h)

theorem keeps_resyncLine {s0 : State} (s : State) (h : Keeps s0 s) :
    Keeps s0 (State.resyncLine s) := keeps_ite (keeps_resyncDrain _ _ s h) h

theorem keeps_resyncServe {s0 : State} (s : State) (t : TwinFrame) (h : Keeps s0 s) :
    Keeps s0 (State.resyncServe s t) := by
  unfold State.resyncServe
  simp (maxDischargeDepth := 200) +contextual only [keeps_modTwn, keeps_ite, h]

theorem keeps_twinRecord {s0 : State} (s : State) (p : Bytes) (h : Keeps s0 s) :
    Keeps s0 (State.twinRecord s p) := by
  unfold State.twinRecord
  simp (maxDischargeDepth := 200) +contextual only [keeps_sporeRecord, keeps_ite, h]

theorem keeps_dropSwaps {s0 : State} (s : State) (h : Keeps s0 s) :
    Keeps s0 (State.dropSwaps s) := by
  unfold State.dropSwaps
  simp (maxDischargeDepth := 200) +contextual only [keeps_foldl, keeps_modTwn, keeps_sporeDone, keeps_foldl, h, implies_true]

theorem keeps_twinClear {s0 : State} (s : State) (c : Src) (mask : Nat) (ok : Nat) (h : Keeps s0 s) :
    Keeps s0 (State.twinClear s c mask ok) := by
  unfold State.twinClear
  simp (maxDischargeDepth := 200) +contextual only [keeps_applyClear, keeps_count, keeps_finishClear, keeps_forNums, h, implies_true]

theorem keeps_followState {s0 : State} (s : State) (code : Nat) (h : Keeps s0 s) :
    Keeps s0 (State.followState s code) := by
  unfold State.followState
  repeat' split
  all_goals simp (maxDischargeDepth := 200) only [keeps_enginesStart, keeps_enter, keeps_enterRunning, keeps_toIdle, keeps_toStopping, h]

theorem keeps_takeBuf {s0 : State} (s : State) (h : Keeps s0 s) :
    Keeps s0 (State.takeBuf s).2 := by
  unfold State.takeBuf
  simp (maxDischargeDepth := 200) only [keeps_modTwn, h]

theorem keeps_twinStage {s0 : State} (s : State) (off v : Nat) (h : Keeps s0 s) : Keeps s0 (s.twinStage off v) := by
  unfold State.twinStage
  split
  · exact keeps_stageWrote _ _ _ _ h fun hr => cellsRise_stagePut _ _ _ _ _ _ hr
  · exact h

theorem keeps_resyncStart {s0 : State} (s : State) (h : Keeps s0 s) :
    Keeps s0 (State.resyncStart s) := by
  unfold State.resyncStart
  simp (maxDischargeDepth := 200) only [keeps_count, keeps_modTwn, h]

theorem keeps_twnResync {s0 : State} (s : State) (c : Src) (h : Keeps s0 s) :
    Keeps s0 (State.twnResync s c) := by
  unfold State.twnResync
  simp (maxDischargeDepth := 200) only [keeps_mirror, keeps_modTwn, keeps_refuse, keeps_resyncStart, keeps_ite, h]

theorem keeps_applyItem {s0 : State} (s : State) (i : Item) (h : Keeps s0 s) :
    Keeps s0 (State.applyItem s i) := by
  unfold State.applyItem
  dsimp only
  repeat' split
  all_goals simp (maxDischargeDepth := 200) +contextual only [keeps_acqArm, keeps_acqStop, keeps_acqTrigger, keeps_anchorInstall, keeps_anchorRevoke, keeps_done, keeps_followState, keeps_frdBankSwap, keeps_frdSatReadClear, keeps_fwActivate, keeps_fwLoad, keeps_gfmCommand, keeps_grantGo, keeps_grantTaken, keeps_graphLoad, keeps_keyRetire, keeps_linkTrain, keeps_modTwn, keeps_ntSet, keeps_opsArm, keeps_opsDisarm, keeps_opsHalt, keeps_opsStart, keeps_opsStop, keeps_ostRun, keeps_prfSetTarget, keeps_reacquire, keeps_sporeCancel, keeps_sporeLoad, keeps_sporeWork, keeps_stgCheck, keeps_stgCommit, keeps_stgSave, keeps_stgToken, keeps_stgWrite, keeps_takeBuf, keeps_trpTrip, keeps_twinClear, keeps_twinRecord, keeps_twinStage, keeps_twnResync, h]

theorem keeps_endJoint {s0 : State} (s : State) (r : ClearReq) (ok : Nat) (h : Keeps s0 s) :
    Keeps s0 (State.endJoint s r ok) := by
  unfold State.endJoint
  dsimp only
  simp (maxDischargeDepth := 200) +contextual only [keeps_applyClear, keeps_endClear, keeps_finishClear, h]

theorem keeps_endJoints {s0 : State} (s : State) (h : Keeps s0 s) :
    Keeps s0 (State.endJoints s) := by
  unfold State.endJoints
  simp (maxDischargeDepth := 200) +contextual only [keeps_endJoint, h, keeps_foldl, implies_true]

theorem keeps_twinMissing {s0 : State} (s : State) (h : Keeps s0 s) :
    Keeps s0 (State.twinMissing s) := by
  unfold State.twinMissing
  simp (maxDischargeDepth := 200) +contextual only [keeps_endJoints, keeps_modTwn, keeps_notReady, keeps_ite, h]

theorem keeps_frameDigests {s0 : State} (s : State) (t : TwinFrame) (h : Keeps s0 s) :
    Keeps s0 (State.frameDigests s t) := by
  unfold State.frameDigests
  simp (maxDischargeDepth := 200) +contextual only [keeps_disagree, keeps_modTwn, keeps_resyncStart, keeps_ite, h]

theorem keeps_setRole {s0 : State} (s : State) (h : Keeps s0 s) :
    Keeps s0 (State.setRole s) := by
  unfold State.setRole
  simp (maxDischargeDepth := 200) +contextual only [keeps_count, keeps_dropSwaps, keeps_endJoints, keeps_modTwn, keeps_notify, keeps_toStopping, keeps_ite, h]

theorem keeps_frameRole {s0 : State} (s : State) (t : TwinFrame) (h : Keeps s0 s) :
    Keeps s0 (State.frameRole s t) := by
  unfold State.frameRole
  simp (maxDischargeDepth := 200) only [keeps_modTwn, keeps_setRole, keeps_ite, h]

theorem keeps_frameSkew {s0 : State} (s : State) (t : TwinFrame) (h : Keeps s0 s) :
    Keeps s0 (State.frameSkew s t) := by
  unfold State.frameSkew
  simp (maxDischargeDepth := 200) +contextual only [keeps_notReady, keeps_setRegN, keeps_ite, h]

theorem keeps_itemIn {s0 : State} (s : State) (i : Item) (h : Keeps s0 s) :
    Keeps s0 (State.itemIn s i) := by
  unfold State.itemIn
  simp (maxDischargeDepth := 200) +contextual only [keeps_applyItem, keeps_modMgt, keeps_modTwn, keeps_setLastSeq, keeps_ite, h]

theorem keeps_resolveJoints {s0 : State} (s : State) (zones : BitVec 16) (h : Keeps s0 s) :
    Keeps s0 (State.resolveJoints s zones) := by
  unfold State.resolveJoints
  simp (maxDischargeDepth := 200) +contextual only [keeps_endJoint, h, keeps_foldl, implies_true]

theorem keeps_resyncEnd {s0 : State} (s : State) (which : Src × Nat → Bool) (err : Option Nat) (h : Keeps s0 s) :
    Keeps s0 (State.resyncEnd s which err) := by
  unfold State.resyncEnd
  split <;> simp (maxDischargeDepth := 200) +contextual only [keeps_done, keeps_modTwn, keeps_refuse, h, keeps_foldl, implies_true]

theorem keeps_twinFrame {s0 : State} (s : State) (t : TwinFrame) (h : Keeps s0 s) :
    Keeps s0 (State.twinFrame s t) := by
  unfold State.twinFrame
  simp (maxDischargeDepth := 200) +contextual only [keeps_endJoints, keeps_frameDigests, keeps_frameRole, keeps_frameSkew, keeps_modTwn, keeps_resolveJoints, keeps_resyncEnd, keeps_resyncServe, keeps_ite, h]

theorem keeps_execArbLost {s0 : State} (s : State) (h : Keeps s0 s) :
    ∀ out, execArbLost s = .next out → Keeps s0 out := by
  unfold execArbLost
  intro out e
  split at e <;> cases e <;> simp (maxDischargeDepth := 200) only [keeps_advanceTo, keeps_modTwn, h]

theorem keeps_execHaltHoldExpiry {s0 : State} (s : State) (h : Keeps s0 s) :
    ∀ out, execHaltHoldExpiry s = .next out → Keeps s0 out := by
  unfold execHaltHoldExpiry
  intro out e
  split at e <;> cases e <;> simp (maxDischargeDepth := 200) only [keeps_advanceTo, keeps_modTwn, keeps_safJudge, keeps_stopChannels, h]

theorem keeps_execHbPulse {s0 : State} (s : State) (h : Keeps s0 s) :
    ∀ out, execHbPulse s = .next out → Keeps s0 out := by
  unfold execHbPulse
  intro out e
  cases e
  simp (maxDischargeDepth := 200) only [keeps_advanceTo, keeps_modTwn, h]

theorem keeps_execItemFrameReceive {s0 : State} (frame : Bytes) (s : State) (h : Keeps s0 s) :
    ∀ out, execItemFrameReceive frame s = .next out → Keeps s0 out := by
  unfold execItemFrameReceive
  intro out e
  dsimp only at e
  repeat' split at e
  all_goals (cases e; simp (maxDischargeDepth := 200) +contextual only [keeps_count, keeps_itemIn, h])

theorem keeps_execOwnNChange {s0 : State} (level : Bool) (s : State) (h : Keeps s0 s) :
    ∀ out, execOwnNChange level s = .next out → Keeps s0 out := by
  unfold execOwnNChange
  intro out e
  dsimp only at e
  repeat' split at e
  all_goals (cases e; simp (maxDischargeDepth := 200) +contextual only [keeps_modTwn, keeps_safJudge, keeps_stopChannels, h])

theorem keeps_execPeriodFrameReceive {s0 : State} (frame : Bytes) (s : State) (h : Keeps s0 s) :
    ∀ out, execPeriodFrameReceive frame s = .next out → Keeps s0 out := by
  unfold execPeriodFrameReceive
  intro out e
  repeat' split at e
  all_goals cases e
  all_goals simp (maxDischargeDepth := 200) only [keeps_count, keeps_twinFrame, h]

theorem keeps_execPeriodFrameSend {s0 : State} (s : State) (h : Keeps s0 s) :
    ∀ out, execPeriodFrameSend s = .next out → Keeps s0 out := by
  unfold execPeriodFrameSend
  intro out e
  split at e <;> cases e <;> simp (maxDischargeDepth := 200) +contextual only [keeps_advanceTo, keeps_modTwn, keeps_resyncStart, keeps_ite, h]

theorem keeps_execRhizomeBlockLockLoss {s0 : State} (s : State) (h : Keeps s0 s) :
    ∀ out, execRhizomeBlockLockLoss s = .next out → Keeps s0 out := by
  unfold execRhizomeBlockLockLoss
  intro out e
  split at e <;> cases e <;> simp (maxDischargeDepth := 200) only [keeps_modTwn, keeps_resyncEnd, h]

theorem keeps_execRhizomeTraining {s0 : State} (latencyNs : Nat) (s : State) (h : Keeps s0 s) :
    ∀ out, execRhizomeTraining latencyNs s = .next out → Keeps s0 out := by
  unfold execRhizomeTraining
  intro out e
  split at e <;> cases e <;> simp (maxDischargeDepth := 200) +contextual only [keeps_modTwn, keeps_setRegN, h]

theorem keeps_execRoleInPulse {s0 : State} (widthNs : Nat) (s : State) (h : Keeps s0 s) :
    ∀ out, execRoleInPulse widthNs s = .next out → Keeps s0 out := by
  unfold execRoleInPulse
  intro out e
  dsimp only at e
  repeat' split at e
  all_goals (cases e; simp (maxDischargeDepth := 200) +contextual only [keeps_modTwn, keeps_setRole, h])

theorem keeps_execRoleSwapCheck {s0 : State} (s : State) (h : Keeps s0 s) :
    ∀ out, execRoleSwapCheck s = .next out → Keeps s0 out := by
  unfold execRoleSwapCheck
  intro out e
  dsimp only at e
  repeat' split at e
  all_goals (cases e; simp (maxDischargeDepth := 200) +contextual only [keeps_advanceTo, keeps_dropSwaps, keeps_modTwn, keeps_sporeDone, h])

theorem keeps_execRoleSwapRequest {s0 : State} (s : State) (h : Keeps s0 s) :
    ∀ out, execRoleSwapRequest s = .next out → Keeps s0 out := by
  unfold execRoleSwapRequest
  intro out e
  dsimp only at e
  repeat' split at e
  all_goals (cases e; simp (maxDischargeDepth := 200) +contextual only [keeps_modTwn, h])

theorem keeps_execTwinFrameDeadline {s0 : State} (s : State) (h : Keeps s0 s) :
    ∀ u, execTwinFrameDeadline s = .next u → Keeps s0 u := by
  unfold execTwinFrameDeadline
  intro u eq
  split at eq
  · rw [← Host.Outcome.next.inj eq]
    simp (maxDischargeDepth := 200) only [keeps_notReady, keeps_modTwn, keeps_advanceTo, h]
  · rw [← Host.Outcome.next.inj eq]; exact h

theorem keeps_execTwnResync {s0 : State} (c : Src) (s : State) (h : Keeps s0 s) :
    ∀ out, execTwnResync c s = .next out → Keeps s0 out := by
  unfold execTwnResync
  intro out e
  cases e
  simp (maxDischargeDepth := 200) +contextual only [keeps_obey, keeps_twnResync, h, implies_true]

theorem keeps_execTwnResyncTimeout {s0 : State} (s : State) (h : Keeps s0 s) :
    ∀ out, execTwnResyncTimeout s = .next out → Keeps s0 out := by
  unfold execTwnResyncTimeout
  intro out e
  split at e <;> cases e <;> simp (maxDischargeDepth := 200) +contextual only [keeps_advanceTo, keeps_resyncEnd, h]

end Sys2Proof.Machine
end

