-- ==== Sys2Proof/Laws/KeepsResync.lean ====
section
/-! SUPPORT. What the operations and meanings of Machine/Resync.lean keep: one lemma each, in the form of `Keeps`. -/

set_option maxRecDepth 4000

namespace Sys2Proof.Machine

theorem keeps_modArb {s0 : State} (s : State) (f : ArbState → ArbState) (h : Keeps s0 s) :
    Keeps s0 (State.modArb s f) := by
  unfold State.modArb
  simp (maxDischargeDepth := 200) only [keeps_mk, le_refl, h]

theorem keeps_modArbPort {s0 : State} (s : State) (p : Nat) (f : ArbPort → ArbPort) (h : Keeps s0 s) :
    Keeps s0 (State.modArbPort s p f) := by
  unfold State.modArbPort
  simp (maxDischargeDepth := 200) only [keeps_modArb, h]

theorem keeps_arbGap {s0 : State} (s : State) (from_ : Nat) (next : Nat) (h : Keeps s0 s) :
    Keeps s0 (State.arbGap s from_ next) := by
  unfold State.arbGap
  simp (maxDischargeDepth := 200) only [keeps_modArb, keeps_modArbPort, h]

theorem keeps_arbGrant {s0 : State} (s : State) (h : Keeps s0 s) :
    Keeps s0 (State.arbGrant s) := by
  unfold State.arbGrant
  dsimp only
  repeat' split
  all_goals simp (maxDischargeDepth := 200) +contextual only [keeps_modArb, h]

theorem keeps_arbNoReady {s0 : State} (s : State) (h : Keeps s0 s) :
    Keeps s0 (State.arbNoReady s) := by
  unfold State.arbNoReady
  simp (maxDischargeDepth := 200) only [keeps_modArb, keeps_ite, h]

theorem keeps_replayOne {s0 : State} (s : State) (e : Nat) (img : Image) (r : PeriodRec) (h : Keeps s0 s) :
    Keeps s0 (State.replayOne s e img r) := by
  unfold State.replayOne
  simp (maxDischargeDepth := 200) +contextual only [keeps_fadeFinish, keeps_fadeStep, keeps_modEng, keeps_prfStart, keeps_prfStep, keeps_publishWords, keeps_swaps, keeps_takeEntry, h, keeps_foldl, implies_true]

theorem keeps_loadSnap {s0 : State} (s : State) (e : Nat) (x : EngineSnap) (h : Keeps s0 s) :
    Keeps s0 (State.loadSnap s e x) := by
  unfold State.loadSnap
  dsimp only
  repeat' split
  all_goals simp (maxDischargeDepth := 200) +contextual only [keeps_modEng, keeps_modTwn, keeps_refreshWork, keeps_replayOne, h, keeps_foldl, implies_true]

theorem keeps_resyncGrant {s0 : State} (s : State) (ring : Fin 129) (plant : Bool) (anchor : BitVec 4) (payload : Bytes) (h : Keeps s0 s) :
    Keeps s0 (State.resyncGrant s ring plant anchor payload) := by
  unfold State.resyncGrant
  simp (maxDischargeDepth := 200) +contextual only [keeps_grantQueue, keeps_modRep, keeps_ite, h]

theorem cellsRise_stageOf (regs : List (Nat × DWord)) : cellsRise (stageOf regs) := by
  unfold stageOf
  have key : ∀ f : RegFile, cellsRise f → cellsRise (regs.foldl (fun f x =>
      if 0x400000 ≤ x.1 then cellsWrite (fun _ => 0) f x.1 x.2
      else match findReg x.1 with
        | some (r, i, j) =>
          if r.row.acc = .rws ∨ safMask r ≠ 0 then regSet f r i j (x.2 &&& BitVec.ofNat 64 (r.row.mask ||| safMask r)) else f
        | none => f) f) := by
    induction regs with
    | nil => exact fun _ hf => hf
    | cons x l ih =>
      intro f hf
      refine ih _ ?_
      dsimp only
      split
      · exact cellsRise_write hf
      · split
        · split
          · exact cellsRise_write hf
          · exact hf
        · exact hf
  exact key _ List.Pairwise.nil

theorem cellsRise_foldl_regSet (l : List (Reg × Nat)) (v : Reg × Nat → DWord) (f : RegFile) (h : cellsRise f) :
    cellsRise (l.foldl (fun f r => regSet f r.1 r.2 0 (v r)) f) := by
  induction l generalizing f with
  | nil => exact h
  | cons r l ih => exact ih _ (cellsRise_write h)

theorem keeps_resyncItem {s0 : State} (s : State) (i : ResyncItem) (h : Keeps s0 s) : Keeps s0 (s.resyncItem i) := by
  cases i with
  | image e bytes =>
    simp only [State.resyncItem]
    split
    · exact keeps_modStg _ h rfl
    · exact h
  | config regs =>
    simp only [State.resyncItem]
    refine keeps_modTwn _ (keeps_applyStage _ _ (keeps_modStgStage _ h fun _ => ?_))
    split
    · exact cellsRise_foldl_regSet _ _ _ (cellsRise_stageOf regs)
    · exact cellsRise_stageOf regs
  | _ =>
    simp (maxDischargeDepth := 200) only [State.resyncItem, keeps_ite, keeps_modNt, keeps_resyncGrant, keeps_setLastSeq, keeps_modRep, keeps_modTwn,
      keeps_followState, keeps_modEng, keeps_loadSnap, h]

theorem keeps_execArbiterBbmExpiry {s0 : State} (s : State) (h : Keeps s0 s) :
    ∀ out, execArbiterBbmExpiry s = .next out → Keeps s0 out := by
  unfold execArbiterBbmExpiry
  intro out e
  dsimp only at e
  repeat' split at e
  all_goals (cases e; simp (maxDischargeDepth := 200) +contextual only [keeps_advanceTo, keeps_arbGrant, keeps_modArb, keeps_modArbPort, h])

theorem keeps_execArbiterHbPulse {s0 : State} (port : Fin 2) (widthNs : Nat) (s : State) (h : Keeps s0 s) :
    ∀ out, execArbiterHbPulse port widthNs s = .next out → Keeps s0 out := by
  unfold execArbiterHbPulse
  intro out e
  dsimp only at e
  repeat' split at e
  all_goals (cases e; simp (maxDischargeDepth := 200) +contextual only [keeps_arbGrant, keeps_arbNoReady, keeps_modArbPort, h])

theorem keeps_execArbiterHbTimeout {s0 : State} (port : Fin 2) (s : State) (h : Keeps s0 s) :
    ∀ out, execArbiterHbTimeout port s = .next out → Keeps s0 out := by
  unfold execArbiterHbTimeout
  intro out e
  dsimp only at e
  repeat' split at e
  all_goals (cases e; simp (maxDischargeDepth := 200) +contextual only [keeps_advanceTo, keeps_arbGap, keeps_arbGrant, keeps_modArbPort, h])

theorem keeps_execArbiterSwapReq {s0 : State} (port : Fin 2) (s : State) (h : Keeps s0 s) :
    ∀ out, execArbiterSwapReq port s = .next out → Keeps s0 out := by
  unfold execArbiterSwapReq
  intro out e
  dsimp only at e
  repeat' split at e
  all_goals (cases e; simp (maxDischargeDepth := 200) +contextual only [keeps_arbGap, keeps_modArbPort, h])

theorem keeps_execResyncComplete {s0 : State} (s : State) (h : Keeps s0 s) :
    ∀ out, execResyncComplete s = .next out → Keeps s0 out := by
  unfold execResyncComplete
  intro out e
  split at e <;> cases e <;> simp (maxDischargeDepth := 200) only [keeps_modTwn, keeps_resyncEnd, h]

theorem keeps_execResyncFrameReceive {s0 : State} (f : ResyncFrame) (s : State) (h : Keeps s0 s) :
    ∀ out, execResyncFrameReceive f s = .next out → Keeps s0 out := by
  unfold execResyncFrameReceive
  intro out e
  repeat' split at e
  all_goals (cases e; simp (maxDischargeDepth := 200) +contextual only [keeps_count, keeps_resyncItem, h])

end Sys2Proof.Machine
end

