-- ==== Sys2Proof/Laws/KeepsPeriod.lean ====
section
/-! SUPPORT. What the operations and meanings of Machine/Period.lean keep: one lemma each, in the form of `Keeps`. -/

set_option maxRecDepth 4000

namespace Sys2Proof.Machine

theorem keeps_templateStop {s0 : State} (s : State) (e : Nat) (h : Keeps s0 s) :
    Keeps s0 (State.templateStop s e) := by
  unfold State.templateStop
  split <;> simp (maxDischargeDepth := 200) only [keeps_modGfm, keeps_toStopping, keeps_ite, h]

theorem keeps_periodEnd {s0 : State} (s : State) (e : Nat) (h : Keeps s0 s) :
    Keeps s0 (State.periodEnd s e) := by
  unfold State.periodEnd
  simp (maxDischargeDepth := 200) +contextual only [keeps_acqPeriod, keeps_digestCheck, keeps_fadeFinish, keeps_modEng, keeps_publishWords, keeps_ite, h]

theorem keeps_periodBegin {s0 : State} (s : State) (e : Nat) (nt : DWord) (h : Keeps s0 s) :
    Keeps s0 (State.periodBegin s e nt) := by
  unfold State.periodBegin
  simp (maxDischargeDepth := 200) only [keeps_modEng, h]

theorem keeps_boundaryA {s0 : State} (s : State) (es : List Nat) (nt : DWord) (h : Keeps s0 s) :
    Keeps s0 (State.boundaryA s es nt) := by
  unfold State.boundaryA
  simp (maxDischargeDepth := 200) +contextual only [keeps_commitsAt, keeps_itemsLate, keeps_itemsPeriod, keeps_modTwn, keeps_periodBegin, keeps_periodEnd, keeps_prfHold, keeps_refreshWork, keeps_resyncLine, keeps_snapTake, keeps_takeSeen, keeps_templateStop, keeps_twinMissing, keeps_unfinished, keeps_forNums, keeps_ite, h, implies_true]

theorem keeps_boundaryB {s0 : State} (s : State) (t : Nat) (half : Bool) (e : Nat) (h : Keeps s0 s) :
    Keeps s0 (State.boundaryB s t half e) := by
  unfold State.boundaryB
  simp (maxDischargeDepth := 200) +contextual only [keeps_fadeStep, keeps_latchFrame, keeps_modEng, keeps_modZone, keeps_prfClearStart, keeps_prfPreset, keeps_prfStep, keeps_takeSwaps, keeps_takeWork, keeps_forNums, keeps_ite, h, implies_true]

theorem keeps_linkIntervals {s0 : State} (s : State) (k : Nat) (h : Keeps s0 s) :
    Keeps s0 (State.linkIntervals s k) := by
  unfold State.linkIntervals
  simp (maxDischargeDepth := 200) only [keeps_mk, le_refl, h]

theorem keeps_stackLoad {s0 : State} (s : State) (t : Nat) (half : Bool) (ofs : Nat) (h : Keeps s0 s) :
    Keeps s0 (State.stackLoad s t half ofs) := by
  unfold State.stackLoad
  simp (maxDischargeDepth := 200) +contextual only [keeps_beginChanOff, keeps_linkIntervals, keeps_loadChans, keeps_modZone, keeps_pullInterval, keeps_stackBack, keeps_ite, h]

theorem keeps_sarAtLoad {s0 : State} (s : State) (t : Nat) (half : Bool) (h : Keeps s0 s) :
    Keeps s0 (State.sarAtLoad s t half) := by
  unfold State.sarAtLoad
  simp (maxDischargeDepth := 200) only [keeps_sarTrigger, keeps_sarUrgent, keeps_ite, h]

theorem keeps_loadAt {s0 : State} (s : State) (t : Nat) (half : Bool) (nt : DWord) (zero : State → State) (h : Keeps s0 s)
    (hz : ∀ u, Keeps s0 u → Keeps s0 (zero u)) : Keeps s0 (s.loadAt t half nt zero) := by
  unfold State.loadAt
  extract_lets lead es s1 s2 s3 s4 s5
  have h1 : Keeps s0 s1 := keeps_boundaryA _ _ _ h
  have h4 : Keeps s0 s4 := keeps_sarAtLoad _ _ _ (keeps_stackLoad _ _ _ _ (hz _ h1))
  have h5 : Keeps s0 s5 := keeps_forNums _ _ (fun e u hu => keeps_boundaryB _ _ _ _ hu) h4
  exact keeps_ite (keeps_tbStop _ _ h1) (keeps_opsAt _ _ h5)

theorem keeps_execLoadPoint {s0 : State} (t : Fin 16) (half : Bool) (s : State) (h : Keeps s0 s) :
    ∀ out, execLoadPoint t half s = .next out → Keeps s0 out := by
  unfold execLoadPoint
  intro out e
  dsimp only at e
  repeat' split at e
  all_goals (cases e; simp (maxDischargeDepth := 200) +contextual only [keeps_advanceTo, keeps_loadAt, keeps_modTb, keeps_tailEdges, keeps_tbZero, keeps_forNums, h, implies_true])

theorem keeps_execTimebaseFirstZero {s0 : State} (t : Fin 16) (s : State) (h : Keeps s0 s) :
    ∀ out, execTimebaseFirstZero t s = .next out → Keeps s0 out := by
  unfold execTimebaseFirstZero
  intro out e
  dsimp only at e
  repeat' split at e
  all_goals (cases e; simp (maxDischargeDepth := 200) +contextual only [keeps_advanceTo, keeps_loadAt, keeps_tbStart, h, implies_true])

end Sys2Proof.Machine
end

