-- ==== Sys2Proof/Laws/KeepsBus.lean ====
section
/-! SUPPORT. What the operations and meanings of Machine/Bus.lean keep: one lemma each, in the form of `Keeps`. -/

set_option maxRecDepth 4000

namespace Sys2Proof.Machine

theorem keeps_readFirst {s0 : State} (s : State) (r : Reg) (i : Nat) (j : Nat) (h : Keeps s0 s) :
    Keeps s0 (State.readFirst s r i j) := by
  unfold State.readFirst
  split <;> simp (maxDischargeDepth := 200) only [keeps_mboxCapture, keeps_sporeRecRead, keeps_trpRecRead, keeps_txtsRead, keeps_ite, h]

theorem keeps_readAfter {s0 : State} (s : State) (r : Reg) (i : Nat) (j : Nat) (h : Keeps s0 s) :
    Keeps s0 (State.readAfter s r i j) := by
  unfold State.readAfter
  simp (maxDischargeDepth := 200) only [keeps_setReg, keeps_ite, h]

theorem keeps_captureLower {s0 : State} (s : State) (r : Reg) (i : Nat) (j : Nat) (v : DWord) (h : Keeps s0 s) :
    Keeps s0 (State.captureLower s r i j v) := by
  unfold State.captureLower
  split <;> simp (maxDischargeDepth := 200) only [keeps_modBus, h]

theorem keeps_readWord {s0 : State} (s : State) (off : Nat) (h : Keeps s0 s) :
    Keeps s0 (State.readWord s off).2 := by
  unfold State.readWord
  dsimp only
  repeat' split
  all_goals simp (maxDischargeDepth := 200) +contextual only [keeps_captureLower, keeps_modBus, keeps_readAfter, keeps_readFirst, h]

theorem keeps_busRead {s0 : State} (s : State) (off : Nat) (w : AccessWidth) (h : Keeps s0 s) :
    Keeps s0 (State.busRead s off w) := by
  unfold State.busRead
  dsimp only
  repeat' split
  all_goals simp (maxDischargeDepth := 200) +contextual only [keeps_accessErr, keeps_modBus, keeps_readWord, h]

theorem keeps_writeWhen {s0 : State} (s : State) (ok : Bool) (off : Nat) (r : Reg) (i : Nat) (v : Nat) (h : Keeps s0 s) :
    Keeps s0 (State.writeWhen s ok off r i v) := by
  unfold State.writeWhen
  simp (maxDischargeDepth := 200) only [keeps_accessErr, keeps_setRegN, keeps_ite, h]

theorem keeps_ringCfgWrite {s0 : State} (s : State) (off : Nat) (r : Nat) (v : Nat) (h : Keeps s0 s) :
    Keeps s0 (State.ringCfgWrite s off r v) := by
  unfold State.ringCfgWrite
  simp (maxDischargeDepth := 200) only [keeps_accessErr, keeps_ringDisable, keeps_ringEnable, keeps_setRegN, keeps_ite, h]

theorem keeps_ntCmdWrite {s0 : State} (s : State) (v : Nat) (h : Keeps s0 s) :
    Keeps s0 (State.ntCmdWrite s v) := by
  unfold State.ntCmdWrite
  split <;> simp (maxDischargeDepth := 200) only [keeps_draw, keeps_modNt, h]

theorem keeps_dmaCtrlWrite {s0 : State} (s : State) (n : Nat) (v : Nat) (h : Keeps s0 s) :
    Keeps s0 (State.dmaCtrlWrite s n v) := by
  unfold State.dmaCtrlWrite
  simp (maxDischargeDepth := 200) only [keeps_dmaAbort, keeps_dmaStart, keeps_ite, h]

theorem keeps_urgWrite {s0 : State} (s : State) (v : Nat) (h : Keeps s0 s) :
    Keeps s0 (State.urgWrite s v) := by
  unfold State.urgWrite
  simp (maxDischargeDepth := 200) only [keeps_sarUrgent, keeps_setReg, keeps_ite, h]

theorem keeps_regWrite {s0 : State} (s : State) (off : Nat) (r : Reg) (i : Nat) (j : Nat) (v : Nat) (h : Keeps s0 s) :
    Keeps s0 (State.regWrite s off r i j v) := by
  unfold State.regWrite
  repeat' split
  all_goals simp (maxDischargeDepth := 200) only [keeps_dmaCtrlWrite, keeps_dmaTailWrite, keeps_ntCmdWrite, keeps_ntIncr, keeps_ostWrite, keeps_ringCfgWrite, keeps_sarTrigger, keeps_segFree, keeps_setReg, keeps_setRegN, keeps_trainWrite, keeps_urgWrite, keeps_writeWhen, keeps_ite, h]

theorem keeps_msixWrite {s0 : State} (s : State) (off : Nat) (v : Word) (h : Keeps s0 s) : Keeps s0 (s.msixWrite off v) := by
  unfold State.msixWrite
  have h1 : ∀ x, Keeps s0 { s with regs := cellsWrite regDefault s.regs off x } := fun x =>
    keeps_regs _ h fun z => cellsRise_write z
  simp (maxDischargeDepth := 200) only [keeps_ite, keeps_raise, keeps_modCmd, h1]

theorem keeps_stageBus {s0 : State} (s : State) (m : Master) (off : Nat) (r : Reg) (i j : Nat) (put : DWord → Nat) (h : Keeps s0 s) :
    Keeps s0 (s.stageBus m off r i j put) := by
  unfold State.stageBus
  refine keeps_ite (keeps_count _ _ _ h) (keeps_ite (keeps_accessErr _ _ _ _ h) ?_)
  exact keeps_mirror _ _ _ _ _ (keeps_stageWrote _ _ _ _ h fun hr => cellsRise_stagePut _ _ _ _ _ _ hr)

theorem keeps_writeWord {s0 : State} (s : State) (m : Master) (off : Nat) (v : Word) (h : Keeps s0 s) :
    Keeps s0 (State.writeWord s m off v) := by
  unfold State.writeWord
  repeat' split
  all_goals simp (maxDischargeDepth := 200) only [keeps_modBus, keeps_msixWrite, keeps_regWrite, keeps_stageBus, keeps_ite, h]

theorem keeps_busWrite {s0 : State} (s : State) (m : Master) (off : Nat) (w : AccessWidth) (v : DWord) (h : Keeps s0 s) :
    Keeps s0 (State.busWrite s m off w v) := by
  unfold State.busWrite
  repeat' split
  all_goals simp (maxDischargeDepth := 200) only [keeps_accessErr, keeps_modBus, keeps_regWrite, keeps_stageBus, keeps_writeWord, h]

theorem keeps_execCaptureRead {s0 : State} (a : BusAddr) (w : AccessWidth) (s : State) (h : Keeps s0 s) :
    ∀ out, execCaptureRead a w s = .next out → Keeps s0 out := by
  unfold execCaptureRead
  intro out e
  split at e <;> cases e <;> simp (maxDischargeDepth := 200) +contextual only [keeps_bar2Read, keeps_busRead, h]

theorem keeps_execHeldLowerWordWrite {s0 : State} (off : Offset) (v : Word) (s : State) (h : Keeps s0 s) :
    ∀ out, execHeldLowerWordWrite off v s = .next out → Keeps s0 out := by
  unfold execHeldLowerWordWrite
  intro out e
  cases e
  simp (maxDischargeDepth := 200) +contextual only [keeps_busWrite, h]

theorem keeps_execReadClear {s0 : State} (off : Offset) (w : AccessWidth) (s : State) (h : Keeps s0 s) :
    ∀ out, execReadClear off w s = .next out → Keeps s0 out := by
  unfold execReadClear
  intro out e
  cases e
  simp (maxDischargeDepth := 200) only [keeps_busRead, h]

theorem keeps_execRegisterWrite {s0 : State} (a : BusAddr) (w : AccessWidth) (v : DWord) (s : State) (h : Keeps s0 s) :
    ∀ out, execRegisterWrite a w v s = .next out → Keeps s0 out := by
  unfold execRegisterWrite
  intro out e
  split at e <;> cases e <;> simp (maxDischargeDepth := 200) +contextual only [keeps_bar2Write, keeps_busWrite, h]

theorem keeps_execRwsStageWrite {s0 : State} (m : Master) (off : Offset) (w : AccessWidth) (v : DWord) (s : State) (h : Keeps s0 s) :
    ∀ out, execRwsStageWrite m off w v s = .next out → Keeps s0 out := by
  unfold execRwsStageWrite
  intro out e
  cases e
  simp (maxDischargeDepth := 200) +contextual only [keeps_busWrite, h]

end Sys2Proof.Machine
end

