-- ==== Sys2Proof/Laws/KeepsClockwork.lean ====
section
/-! SUPPORT. What the operations and meanings of Machine/Clockwork.lean keep: one lemma each, in the form of `Keeps`. -/

set_option maxRecDepth 4000

namespace Sys2Proof.Machine

theorem keeps_ctlTick {s0 : State} (s : State) (h : Keeps s0 s) :
    Keeps s0 (State.ctlTick s) := by
  unfold State.ctlTick
  simp (maxDischargeDepth := 200) +contextual only [keeps_advanceTo, keeps_idleActions, keeps_ite, h]

end Sys2Proof.Machine
end

