-- ==== Sys2Proof/Laws/KeepsFrames.lean ====
section
/-! SUPPORT. What the operations and meanings of Machine/Frames.lean keep: one lemma each, in the form of `Keeps`. -/

set_option maxRecDepth 4000

namespace Sys2Proof.Machine

theorem keeps_loadAhead {s0 : State} (s : State) (k : Nat) (b : Nat) (half : Bool) (h : Keeps s0 s) :
    Keeps s0 (State.loadAhead s k b half) := by
  unfold State.loadAhead
  simp (maxDischargeDepth := 200) +contextual only [keeps_commitsAt, keeps_modTb, keeps_opsAt, keeps_periodBegin, keeps_stackLoad, keeps_tbStart, keeps_tbStop, keeps_tbZero, keeps_templateStop, keeps_forNums, keeps_ite, h, implies_true]

theorem keeps_edgeSend {s0 : State} (s : State) (k : Nat) (b : Nat) (half : Bool) (h : Keeps s0 s) :
    Keeps s0 (State.edgeSend s k b half) := by
  unfold State.edgeSend
  simp (maxDischargeDepth := 200) +contextual only [keeps_drvSent, keeps_gdlTrip, keeps_modGs, keeps_ostGuard, keeps_sendLink, keeps_setRegN, keeps_ite, h]

theorem keeps_runChans {s0 : State} (k bound : Nat) (fuel : Nat) (s : State) (acc : List (Nat × Bool × Nat)) (h : Keeps s0 s) :
    Keeps s0 (State.runChans k bound fuel s acc).1 := by
  induction fuel generalizing s acc with
  | zero => exact h
  | succ fuel ih =>
    unfold State.runChans
    split
    · exact h
    · refine ih _ _ ?_
      split <;> simp (maxDischargeDepth := 200) only [keeps_fallingEdge, keeps_risingEdge, keeps_expireWait, keeps_innerOff, keeps_advanceTo, h]

theorem keeps_execEdgeFrameSend {s0 : State} (k : Fin 16) (s : State) (h : Keeps s0 s) :
    ∀ out, execEdgeFrameSend k s = .next out → Keeps s0 out := by
  unfold execEdgeFrameSend
  intro out e
  dsimp only at e
  repeat' split at e
  all_goals (cases e; simp (maxDischargeDepth := 200) +contextual only [keeps_edgeSend, h])

end Sys2Proof.Machine
end

