-- ==== Sys2Proof/Laws/OnlyOutputs.lean ====
section
/-! SUPPORT. Frames of the operations and meanings of Machine/Outputs.lean: one lemma each, which names the parts of the state that may
change. -/

set_option maxRecDepth 4000

namespace Sys2Proof.Machine

theorem only_pullFlag {ps : List Part} {s0 : State} (s : State) (k : Nat) (acts : Bool) (h : Only ps s0 s) (h_trp : Part.trp ∈ ps) :
    Only ps s0 (State.pullFlag s k acts) := by
  unfold State.pullFlag
  simp (maxDischargeDepth := 200) +contextual only [only_modZone, only_ite, h, h_trp]

theorem only_overlapsGone {ps : List Part} {s0 : State} (s : State) (off : Nat → Bool) (l : List Nat) (h : Only ps s0 s) (h_pwm : Part.pwm ∈ ps) :
    Only ps s0 (State.overlapsGone s off l) := by
  unfold State.overlapsGone
  simp (maxDischargeDepth := 200) +contextual only [only_forNums, only_mk, or_true, true_or, h, h_pwm, implies_true]

theorem only_innerLater {ps : List Part} {s0 : State} (s : State) (n : Nat) (at_ : Nat) (one : Bool) (h : Only ps s0 s) (h_pwm : Part.pwm ∈ ps) :
    Only ps s0 (State.innerLater s n at_ one) := by
  unfold State.innerLater
  simp (maxDischargeDepth := 200) +contextual only [only_modChan, h, h_pwm]

theorem only_askRise {ps : List Part} {s0 : State} (s : State) (n : Nat) (at_ : Nat) (h : Only ps s0 s) (h_pwm : Part.pwm ∈ ps) (h_gdl : Part.gdl ∈ ps) (h_trp : Part.trp ∈ ps) :
    Only ps s0 (State.askRise s n at_) := by
  unfold State.askRise
  simp (maxDischargeDepth := 200) +contextual only [only_modChan, only_modGs, only_modZone, only_ite, h, h_pwm, h_gdl, h_trp]

theorem only_riseAgain {ps : List Part} {s0 : State} (s : State) (n : Nat) (at_ : Nat) (h : Only ps s0 s) (h_pwm : Part.pwm ∈ ps) (h_gdl : Part.gdl ∈ ps) (h_trp : Part.trp ∈ ps) :
    Only ps s0 (State.riseAgain s n at_) := by
  unfold State.riseAgain
  simp (maxDischargeDepth := 200) +contextual only [only_askRise, only_ite, h, h_pwm, h_gdl, h_trp]

theorem only_endOverlap {ps : List Part} {s0 : State} (s : State) (n : Nat) (at_ : Nat) (h : Only ps s0 s) (h_regs : Part.regs ∈ ps) (h_pwm : Part.pwm ∈ ps) (h_gdl : Part.gdl ∈ ps) (h_trp : Part.trp ∈ ps) :
    Only ps s0 (State.endOverlap s n at_) := by
  unfold State.endOverlap
  simp (maxDischargeDepth := 200) +contextual only [only_askRise, only_count, only_modChan, only_ite, only_mk, or_true, true_or, h, h_regs, h_pwm, h_gdl, h_trp]

theorem only_gcFall {ps : List Part} {s0 : State} (s : State) (n : Nat) (at_ : Nat) (h : Only ps s0 s) (h_pwm : Part.pwm ∈ ps) :
    Only ps s0 (State.gcFall s n at_) := by
  unfold State.gcFall
  simp (maxDischargeDepth := 200) only [only_modChan, only_ite, h, h_pwm]

theorem only_chanOff {ps : List Part} {s0 : State} (s : State) (n : Nat) (at_ : Nat) (h : Only ps s0 s) (h_pwm : Part.pwm ∈ ps) :
    Only ps s0 (State.chanOff s n at_) := by
  unfold State.chanOff
  simp (maxDischargeDepth := 200) only [only_gcFall, only_modChan, h, h_pwm]

theorem only_lvlOff {ps : List Part} {s0 : State} (s : State) (n : Nat) (at_ : Nat) (h : Only ps s0 s) (h_regs : Part.regs ∈ ps) (h_pwm : Part.pwm ∈ ps) (h_gdl : Part.gdl ∈ ps) (h_trp : Part.trp ∈ ps) :
    Only ps s0 (State.lvlOff s n at_) := by
  unfold State.lvlOff
  simp (maxDischargeDepth := 200) +contextual only [only_chanOff, only_endOverlap, only_modChan, only_ite, h, h_regs, h_pwm, h_gdl, h_trp]

theorem only_forceLow {ps : List Part} {s0 : State} (s : State) (n : Nat) (at_ : Nat) (h : Only ps s0 s) (h_regs : Part.regs ∈ ps) (h_pwm : Part.pwm ∈ ps) (h_gdl : Part.gdl ∈ ps) (h_trp : Part.trp ∈ ps) :
    Only ps s0 (State.forceLow s n at_) := by
  unfold State.forceLow
  simp (maxDischargeDepth := 200) +contextual only [only_lvlOff, only_modChan, h, h_regs, h_pwm, h_gdl, h_trp]

theorem only_forceLows {ps : List Part} {s0 : State} (s : State) (l : List Nat) (at_ : Nat) (h : Only ps s0 s) (h_regs : Part.regs ∈ ps) (h_pwm : Part.pwm ∈ ps) (h_gdl : Part.gdl ∈ ps) (h_trp : Part.trp ∈ ps) :
    Only ps s0 (State.forceLows s l at_) := by
  unfold State.forceLows
  simp (maxDischargeDepth := 200) +contextual only [only_forceLow, only_overlapsGone, only_forNums, h, h_regs, h_pwm, h_gdl, h_trp, implies_true]

theorem only_turnOffChan {ps : List Part} {s0 : State} (s : State) (n : Nat) (at_ : Nat) (one : Bool) (h : Only ps s0 s) (h_regs : Part.regs ∈ ps) (h_pwm : Part.pwm ∈ ps) (h_gdl : Part.gdl ∈ ps) (h_trp : Part.trp ∈ ps) :
    Only ps s0 (State.turnOffChan s n at_ one) := by
  unfold State.turnOffChan
  simp (maxDischargeDepth := 200) +contextual only [only_forceLow, only_gcFall, only_innerLater, only_modChan, only_ite, h, h_regs, h_pwm, h_gdl, h_trp]

theorem only_beginChanOff {ps : List Part} {s0 : State} (s : State) (k : Nat) (mask : Nat) (at_ : Nat) (h : Only ps s0 s) (h_regs : Part.regs ∈ ps) (h_pwm : Part.pwm ∈ ps) (h_gdl : Part.gdl ∈ ps) (h_trp : Part.trp ∈ ps) :
    Only ps s0 (State.beginChanOff s k mask at_) := by
  unfold State.beginChanOff
  simp (maxDischargeDepth := 200) +contextual only [only_turnOffChan, only_forNums, h, h_regs, h_pwm, h_gdl, h_trp, implies_true]

theorem only_beginOverlap {ps : List Part} {s0 : State} (s : State) (n : Nat) (at_ : Nat) (h : Only ps s0 s) (h_regs : Part.regs ∈ ps) (h_pwm : Part.pwm ∈ ps) :
    Only ps s0 (State.beginOverlap s n at_) := by
  unfold State.beginOverlap
  simp (maxDischargeDepth := 200) only [only_chanOff, only_count, only_setFlag, only_mk, or_true, true_or, h, h_regs, h_pwm]

theorem only_beginTurnOff {ps : List Part} {s0 : State} (s : State) (k : Nat) (at_ : Nat) (one : Bool) (h : Only ps s0 s) (h_regs : Part.regs ∈ ps) (h_pwm : Part.pwm ∈ ps) (h_gdl : Part.gdl ∈ ps) (h_trp : Part.trp ∈ ps) :
    Only ps s0 (State.beginTurnOff s k at_ one) := by
  unfold State.beginTurnOff
  simp (maxDischargeDepth := 200) +contextual only [only_turnOffChan, only_forNums, h, h_regs, h_pwm, h_gdl, h_trp, implies_true]

theorem only_beginTurnOffAll {ps : List Part} {s0 : State} (s : State) (one : Bool) (h : Only ps s0 s) (h_regs : Part.regs ∈ ps) (h_pwm : Part.pwm ∈ ps) (h_gdl : Part.gdl ∈ ps) (h_trp : Part.trp ∈ ps) :
    Only ps s0 (State.beginTurnOffAll s one) := by
  unfold State.beginTurnOffAll
  simp (maxDischargeDepth := 200) +contextual only [only_beginTurnOff, only_forNums, h, h_regs, h_pwm, h_gdl, h_trp, implies_true]

theorem only_tryRise {ps : List Part} {s0 : State} (s : State) (n : Nat) (at_ : Nat) (h : Only ps s0 s) (h_pwm : Part.pwm ∈ ps) (h_gdl : Part.gdl ∈ ps) :
    Only ps s0 (State.tryRise s n at_) := by
  unfold State.tryRise
  simp (maxDischargeDepth := 200) +contextual only [only_modChan, only_modGs, only_ite, h, h_pwm, h_gdl]

theorem only_expireWait {ps : List Part} {s0 : State} (s : State) (n : Nat) (h : Only ps s0 s) (h_pwm : Part.pwm ∈ ps) (h_gdl : Part.gdl ∈ ps) :
    Only ps s0 (State.expireWait s n) := by
  unfold State.expireWait
  split <;> simp (maxDischargeDepth := 200) +contextual only [only_modChan, only_tryRise, only_ite, h, h_pwm, h_gdl]

theorem only_fallingEdge {ps : List Part} {s0 : State} (s : State) (n : Nat) (h : Only ps s0 s) (h_regs : Part.regs ∈ ps) (h_pwm : Part.pwm ∈ ps) (h_gdl : Part.gdl ∈ ps) (h_trp : Part.trp ∈ ps) :
    Only ps s0 (State.fallingEdge s n) := by
  unfold State.fallingEdge
  dsimp only
  repeat' split
  all_goals simp (maxDischargeDepth := 200) +contextual only [only_count, only_lvlOff, only_modChan, h, h_regs, h_pwm, h_gdl, h_trp]

theorem only_innerOff {ps : List Part} {s0 : State} (s : State) (k : Nat) (h : Only ps s0 s) (h_regs : Part.regs ∈ ps) (h_pwm : Part.pwm ∈ ps) (h_gdl : Part.gdl ∈ ps) (h_trp : Part.trp ∈ ps) :
    Only ps s0 (State.innerOff s k) := by
  unfold State.innerOff
  extract_lets s1
  have h1 : Only ps s0 s1 := by
    refine only_forNums _ _ (fun n u hu => ?_) h
    split <;> simp (maxDischargeDepth := 200) only [only_ite, only_modChan, only_forceLow, only_gcFall, hu, h_regs, h_pwm, h_gdl, h_trp]
  simp (maxDischargeDepth := 200) only [only_ite, only_modZone, h1, h_trp]

theorem only_lvlOn {ps : List Part} {s0 : State} (s : State) (n : Nat) (at_ : Nat) (h : Only ps s0 s) (h_regs : Part.regs ∈ ps) (h_pwm : Part.pwm ∈ ps) (h_gdl : Part.gdl ∈ ps) (h_trp : Part.trp ∈ ps) :
    Only ps s0 (State.lvlOn s n at_) := by
  unfold State.lvlOn
  simp (maxDischargeDepth := 200) +contextual only [only_askRise, only_beginOverlap, only_modChan, only_ite, h, h_regs, h_pwm, h_gdl, h_trp]

theorem only_pullChan {ps : List Part} {s0 : State} (s : State) (n : Nat) (h : Only ps s0 s) (h_pwm : Part.pwm ∈ ps) :
    Only ps s0 (State.pullChan s n) := by
  unfold State.pullChan
  simp (maxDischargeDepth := 200) only [only_chanOff, only_modChan, only_ite, h, h_pwm]

theorem only_pullEdges {ps : List Part} {s0 : State} (s : State) (k : Nat) (mask : Nat) (h : Only ps s0 s) (h_pwm : Part.pwm ∈ ps) :
    Only ps s0 (State.pullEdges s k mask) := by
  unfold State.pullEdges
  simp (maxDischargeDepth := 200) +contextual only [only_pullChan, only_forNums, only_ite, h, h_pwm, implies_true]

theorem only_pullPhases {ps : List Part} {s0 : State} (s : State) (k : Nat) (mask : Nat) (h : Only ps s0 s) (h_pwm : Part.pwm ∈ ps) (h_trp : Part.trp ∈ ps) :
    Only ps s0 (State.pullPhases s k mask) := by
  unfold State.pullPhases
  simp (maxDischargeDepth := 200) +contextual only [only_pullEdges, only_pullFlag, h, h_pwm, h_trp]

theorem only_risingEdge {ps : List Part} {s0 : State} (s : State) (n : Nat) (h : Only ps s0 s) (h_regs : Part.regs ∈ ps) (h_pwm : Part.pwm ∈ ps) (h_gdl : Part.gdl ∈ ps) (h_trp : Part.trp ∈ ps) :
    Only ps s0 (State.risingEdge s n) := by
  unfold State.risingEdge
  dsimp only
  repeat' split
  all_goals simp (maxDischargeDepth := 200) +contextual only [only_count, only_lvlOn, only_modChan, only_riseAgain, h, h_regs, h_pwm, h_gdl, h_trp]

end Sys2Proof.Machine
end

