-- ==== Sys2Proof/Laws/OnlyTriggers.lean ====
section
/-! SUPPORT. Frames of the operations and meanings of Machine/Triggers.lean: one lemma each, which names the parts of the state that may
change. -/

set_option maxRecDepth 4000

namespace Sys2Proof.Machine

theorem only_acqResolve {ps : List Part} {s0 : State} (s : State) (u : Nat) (n : Nat) (nt : DWord) (h : Only ps s0 s) (h_regs : Part.regs ∈ ps) (h_acq : Part.acq ∈ ps) :
    Only ps s0 (State.acqResolve s u n nt) := by
  unfold State.acqResolve
  simp (maxDischargeDepth := 200) +contextual only [only_count, only_modAcq, only_ite, h, h_regs, h_acq]

theorem only_transmit {ps : List Part} {s0 : State} (s : State) (k : Nat) (new : List LinkChar) (insert : Bool) (h : Only ps s0 s) (h_gdl : Part.gdl ∈ ps) :
    Only ps s0 (State.transmit s k new insert) := by
  unfold State.transmit
  simp (maxDischargeDepth := 200) +contextual only [only_modGs, h, h_gdl]

theorem only_ptmAsk {ps : List Part} {s0 : State} (s : State) (cause : Nat) (trigNt : DWord) (detail : Nat) (asked : optParam Bool false) (h : Only ps s0 s) (h_regs : Part.regs ∈ ps) (h_nt : Part.nt ∈ ps) :
    Only ps s0 (State.ptmAsk s cause trigNt detail asked) := by
  unfold State.ptmAsk
  simp (maxDischargeDepth := 200) only [only_count, only_modNt, only_ite, h, h_regs, h_nt]

theorem only_acqTrig {ps : List Part} {s0 : State} (s : State) (u : Nat) (bit : Nat) (nt : DWord) (detail : Nat) (h : Only ps s0 s) (h_regs : Part.regs ∈ ps) (h_nt : Part.nt ∈ ps) (h_acq : Part.acq ∈ ps) :
    Only ps s0 (State.acqTrig s u bit nt detail) := by
  unfold State.acqTrig
  simp (maxDischargeDepth := 200) only [only_count, only_modAcq, only_ptmAsk, only_ite, h, h_regs, h_nt, h_acq]

theorem only_acqOffer {ps : List Part} {s0 : State} (s : State) (bit : Nat) (nt : DWord) (detail : Nat) (p : Nat → Bool) (h : Only ps s0 s) (h_regs : Part.regs ∈ ps) (h_nt : Part.nt ∈ ps) (h_acq : Part.acq ∈ ps) :
    Only ps s0 (State.acqOffer s bit nt detail p) := by
  unfold State.acqOffer
  simp (maxDischargeDepth := 200) +contextual only [only_acqTrig, only_forNums, h, h_regs, h_nt, h_acq, implies_true]

theorem only_acqTrigMask {ps : List Part} {s0 : State} (s : State) (mask : Nat) (bit : Nat) (nt : DWord) (detail : Nat) (h : Only ps s0 s) (h_regs : Part.regs ∈ ps) (h_nt : Part.nt ∈ ps) (h_acq : Part.acq ∈ ps) :
    Only ps s0 (State.acqTrigMask s mask bit nt detail) := by
  unfold State.acqTrigMask
  simp (maxDischargeDepth := 200) +contextual only [only_acqTrig, only_forNums, h, h_regs, h_nt, h_acq, implies_true]

theorem only_askPullFrame {ps : List Part} {s0 : State} (s : State) (k : Nat) (phases : Nat) (h : Only ps s0 s) (h_gdl : Part.gdl ∈ ps) :
    Only ps s0 (State.askPullFrame s k phases) := by
  unfold State.askPullFrame
  simp (maxDischargeDepth := 200) only [only_modGs, only_ite, h, h_gdl]

theorem only_sendLink {ps : List Part} {s0 : State} (s : State) (k : Nat) (frame : Bytes) (insert : Bool) (h : Only ps s0 s) (h_gdl : Part.gdl ∈ ps) :
    Only ps s0 (State.sendLink s k frame insert) := by
  unfold State.sendLink
  simp (maxDischargeDepth := 200) +contextual only [only_modGs, only_transmit, h, h_gdl]

theorem only_sendTrip {ps : List Part} {s0 : State} (s : State) (k : Nat) (h : Only ps s0 s) (h_gdl : Part.gdl ∈ ps) :
    Only ps s0 (State.sendTrip s k) := by
  unfold State.sendTrip
  simp (maxDischargeDepth := 200) +contextual only [only_sendLink, only_ite, h, h_gdl]

theorem only_tripRecord {ps : List Part} {s0 : State} (s : State) (nt : DWord) (k : Nat) (leg : Nat) (cause : Nat) (source : Nat) (first : Bool) (h : Only ps s0 s) (h_regs : Part.regs ∈ ps) (h_trp : Part.trp ∈ ps) (h_log : Part.log ∈ ps) :
    Only ps s0 (State.tripRecord s nt k leg cause source first) := by
  unfold State.tripRecord
  simp (maxDischargeDepth := 200) only [only_count, only_note, only_ite, only_mk, or_true, true_or, h, h_regs, h_trp, h_log]

theorem only_latchOne {ps : List Part} {s0 : State} (s : State) (k : Nat) (cause : Nat) (source : Nat) (phase : Nat) (delay : Nat) (h : Only ps s0 s) (h_regs : Part.regs ∈ ps) (h_pwm : Part.pwm ∈ ps) (h_gdl : Part.gdl ∈ ps) (h_trp : Part.trp ∈ ps) (h_nt : Part.nt ∈ ps) (h_log : Part.log ∈ ps) (h_acq : Part.acq ∈ ps) :
    Only ps s0 (State.latchOne s k cause source phase delay) := by
  unfold State.latchOne
  simp (maxDischargeDepth := 200) +contextual only [only_acqOffer, only_beginTurnOff, only_modGs, only_modZone, only_ptmAsk, only_sendTrip, only_setReg, only_setRegN, only_tripRecord, only_ite, h, h_regs, h_pwm, h_gdl, h_trp, h_nt, h_log, h_acq]

theorem only_latch {ps : List Part} {s0 : State} (s : State) (k : Nat) (cause : Nat) (source : Nat) (phase : Nat) (h : Only ps s0 s) (h_free : Part.free ∈ ps) (h_regs : Part.regs ∈ ps) (h_pwm : Part.pwm ∈ ps) (h_gdl : Part.gdl ∈ ps) (h_trp : Part.trp ∈ ps) (h_nt : Part.nt ∈ ps) (h_log : Part.log ∈ ps) (h_acq : Part.acq ∈ ps) (h_twn : Part.twn ∈ ps) :
    Only ps s0 (State.latch s k cause source phase) := by
  unfold State.latch
  simp (maxDischargeDepth := 200) +contextual only [only_draw, only_latchOne, only_modTwn, only_forNums, only_ite, h, h_free, h_regs, h_pwm, h_gdl, h_trp, h_nt, h_log, h_acq, h_twn, implies_true]

theorem only_turnOffAll {ps : List Part} {s0 : State} (s : State) (one : Bool) (h : Only ps s0 s) (h_regs : Part.regs ∈ ps) (h_pwm : Part.pwm ∈ ps) (h_gdl : Part.gdl ∈ ps) (h_trp : Part.trp ∈ ps) :
    Only ps s0 (State.turnOffAll s one) := by
  unfold State.turnOffAll
  simp (maxDischargeDepth := 200) +contextual only [only_beginTurnOffAll, only_sendTrip, only_forNums, h, h_regs, h_pwm, h_gdl, h_trp, implies_true]

end Sys2Proof.Machine
end

