-- ==== Sys2Proof/Laws/OnlyAcq.lean ====
section
/-! SUPPORT. Frames of the operations and meanings of Machine/Acq.lean: one lemma each, which names the parts of the state that may
change. -/

set_option maxRecDepth 4000

namespace Sys2Proof.Machine

theorem only_acqMeasure {ps : List Part} {s0 : State} (s : State) (u : Nat) (status : Nat) (vals : List (Int × Bool)) (h : Only ps s0 s) (h_acq : Part.acq ∈ ps) :
    Only ps s0 (State.acqMeasure s u status vals) := by
  unfold State.acqMeasure
  simp (maxDischargeDepth := 200) +contextual only [only_modAcq, h, h_acq]

theorem only_acqPush {ps : List Part} {s0 : State} (s : State) (u : Nat) (n : Nat) (h : Only ps s0 s) (h_acq : Part.acq ∈ ps) :
    Only ps s0 (State.acqPush s u n) := by
  unfold State.acqPush
  simp (maxDischargeDepth := 200) +contextual only [only_modAcq, only_forNums, h, h_acq, implies_true]

theorem only_acqWrite {ps : List Part} {s0 : State} (s : State) (u : Nat) (full : Bool) (words : Bytes) (h : Only ps s0 s) (h_regs : Part.regs ∈ ps) (h_acq : Part.acq ∈ ps) (h_dram : Part.dram ∈ ps) :
    Only ps s0 (State.acqWrite s u full words) := by
  unfold State.acqWrite
  simp (maxDischargeDepth := 200) +contextual only [only_acqPush, only_count, only_modAcq, only_ite, only_mk, or_true, true_or, h, h_regs, h_acq, h_dram]

theorem only_acqArmUnit {ps : List Part} {s0 : State} (s : State) (u : Nat) (h : Only ps s0 s) (h_acq : Part.acq ∈ ps) :
    Only ps s0 (State.acqArmUnit s u) := by
  unfold State.acqArmUnit
  split <;> simp (maxDischargeDepth := 200) only [only_modAcq, h, h_acq]

theorem only_acqFinish {ps : List Part} {s0 : State} (s : State) (u : Nat) (h : Only ps s0 s) (h_now : Part.now ∈ ps) (h_free : Part.free ∈ ps) (h_regs : Part.regs ∈ ps) (h_nt : Part.nt ∈ ps) (h_cmd : Part.cmd ∈ ps) (h_acq : Part.acq ∈ ps) (h_dram : Part.dram ∈ ps) :
    Only ps s0 (State.acqFinish s u) := by
  unfold State.acqFinish
  simp (maxDischargeDepth := 200) +contextual only [only_advanceTo, only_countWrap, only_modAcq, only_raise, only_ite, only_mk, or_true, true_or, h, h_now, h_free, h_regs, h_nt, h_cmd, h_acq, h_dram]

theorem only_acqArm {ps : List Part} {s0 : State} (s : State) (c : Src) (p : Bytes) (h : Only ps s0 s) (h_now : Part.now ∈ ps) (h_free : Part.free ∈ ps) (h_regs : Part.regs ∈ ps) (h_nt : Part.nt ∈ ps) (h_cmd : Part.cmd ∈ ps) (h_acq : Part.acq ∈ ps) (h_dram : Part.dram ∈ ps) (h_host : Part.host ∈ ps) (h_twn : Part.twn ∈ ps) (h_mgt : Part.mgt ∈ ps) :
    Only ps s0 (State.acqArm s c p) := by
  unfold State.acqArm
  simp (maxDischargeDepth := 200) +contextual only [only_acqArmUnit, only_acqFinish, only_done, only_refuse, only_forNums, only_ite, h, h_now, h_free, h_regs, h_nt, h_cmd, h_acq, h_dram, h_host, h_twn, h_mgt, implies_true]

theorem only_acqValueTrig {ps : List Part} {s0 : State} (s : State) (u : Nat) (nt : DWord) (v : Int) (h : Only ps s0 s) (h_regs : Part.regs ∈ ps) (h_nt : Part.nt ∈ ps) (h_acq : Part.acq ∈ ps) :
    Only ps s0 (State.acqValueTrig s u nt v) := by
  unfold State.acqValueTrig
  simp (maxDischargeDepth := 200) only [only_acqTrig, only_modAcq, only_ite, h, h_regs, h_nt, h_acq]

theorem only_acqStore {ps : List Part} {s0 : State} (s : State) (u : Nat) (nt : DWord) (status : Nat) (vals : List (Int × Bool)) (h : Only ps s0 s) (h_regs : Part.regs ∈ ps) (h_nt : Part.nt ∈ ps) (h_acq : Part.acq ∈ ps) (h_dram : Part.dram ∈ ps) :
    Only ps s0 (State.acqStore s u nt status vals) := by
  unfold State.acqStore
  simp (maxDischargeDepth := 200) +contextual only [only_acqMeasure, only_acqResolve, only_acqValueTrig, only_acqWrite, only_modAcq, only_ite, h, h_regs, h_nt, h_acq, h_dram]

theorem only_acqSet {ps : List Part} {s0 : State} (s : State) (u : Nat) (nt : DWord) (status : Nat) (words : List Word) (h : Only ps s0 s) (h_regs : Part.regs ∈ ps) (h_nt : Part.nt ∈ ps) (h_acq : Part.acq ∈ ps) (h_dram : Part.dram ∈ ps) :
    Only ps s0 (State.acqSet s u nt status words) := by
  unfold State.acqSet
  simp (maxDischargeDepth := 200) only [only_acqStore, only_count, only_modAcq, only_ite, h, h_regs, h_nt, h_acq, h_dram]

theorem only_acqDump {ps : List Part} {s0 : State} (s : State) (g : Nat) (word : Nat → Word × Bool) (h : Only ps s0 s) (h_regs : Part.regs ∈ ps) (h_nt : Part.nt ∈ ps) (h_acq : Part.acq ∈ ps) (h_dram : Part.dram ∈ ps) :
    Only ps s0 (State.acqDump s g word) := by
  unfold State.acqDump
  refine only_forNums _ _ (fun u v hv => ?_) h
  dsimp only
  split <;> simp (maxDischargeDepth := 200) only [only_ite, only_modAcq, only_acqSet, hv, h_regs, h_nt, h_acq, h_dram]

theorem only_acqPeriod {ps : List Part} {s0 : State} (s : State) (e : Nat) (nt : DWord) (signal : Nat → Word) (h : Only ps s0 s) (h_regs : Part.regs ∈ ps) (h_nt : Part.nt ∈ ps) (h_acq : Part.acq ∈ ps) (h_dram : Part.dram ∈ ps) :
    Only ps s0 (State.acqPeriod s e nt signal) := by
  unfold State.acqPeriod
  simp (maxDischargeDepth := 200) +contextual only [only_acqSet, only_forNums, h, h_regs, h_nt, h_acq, h_dram, implies_true]

theorem only_acqStopUnit {ps : List Part} {s0 : State} (s : State) (u : Nat) (stopNow : Bool) (h : Only ps s0 s) (h_regs : Part.regs ∈ ps) (h_acq : Part.acq ∈ ps) :
    Only ps s0 (State.acqStopUnit s u stopNow) := by
  unfold State.acqStopUnit
  dsimp only
  repeat' split
  all_goals simp (maxDischargeDepth := 200) +contextual only [only_count, only_modAcq, h, h_regs, h_acq]

theorem only_acqStop {ps : List Part} {s0 : State} (s : State) (c : Src) (p : Bytes) (h : Only ps s0 s) (h_regs : Part.regs ∈ ps) (h_cmd : Part.cmd ∈ ps) (h_acq : Part.acq ∈ ps) (h_host : Part.host ∈ ps) (h_twn : Part.twn ∈ ps) (h_mgt : Part.mgt ∈ ps) :
    Only ps s0 (State.acqStop s c p) := by
  unfold State.acqStop
  simp (maxDischargeDepth := 200) +contextual only [only_acqStopUnit, only_done, only_refuse, only_forNums, only_ite, h, h_regs, h_cmd, h_acq, h_host, h_twn, h_mgt, implies_true]

theorem only_acqStopAll {ps : List Part} {s0 : State} (s : State) (h : Only ps s0 s) (h_regs : Part.regs ∈ ps) (h_acq : Part.acq ∈ ps) :
    Only ps s0 (State.acqStopAll s) := by
  unfold State.acqStopAll
  simp (maxDischargeDepth := 200) +contextual only [only_acqStopUnit, only_forNums, h, h_regs, h_acq, implies_true]

theorem only_acqTick {ps : List Part} {s0 : State} (s : State) (bit : Nat → Bool) (h : Only ps s0 s) (h_regs : Part.regs ∈ ps) (h_nt : Part.nt ∈ ps) (h_acq : Part.acq ∈ ps) (h_dram : Part.dram ∈ ps) :
    Only ps s0 (State.acqTick s bit) := by
  unfold State.acqTick
  simp (maxDischargeDepth := 200) +contextual only [only_acqSet, only_forNums, h, h_regs, h_nt, h_acq, h_dram, implies_true]

theorem only_acqTrigger {ps : List Part} {s0 : State} (s : State) (c : Src) (p : Bytes) (h : Only ps s0 s) (h_regs : Part.regs ∈ ps) (h_nt : Part.nt ∈ ps) (h_cmd : Part.cmd ∈ ps) (h_acq : Part.acq ∈ ps) (h_host : Part.host ∈ ps) (h_twn : Part.twn ∈ ps) (h_mgt : Part.mgt ∈ ps) :
    Only ps s0 (State.acqTrigger s c p) := by
  unfold State.acqTrigger
  simp (maxDischargeDepth := 200) only [only_acqTrigMask, only_done, only_ptmAsk, only_refuse, only_ite, h, h_regs, h_nt, h_cmd, h_acq, h_host, h_twn, h_mgt]

theorem only_segFree {ps : List Part} {s0 : State} (s : State) (u : Nat) (i : Nat) (h : Only ps s0 s) (h_acq : Part.acq ∈ ps) :
    Only ps s0 (State.segFree s u i) := by
  unfold State.segFree
  simp (maxDischargeDepth := 200) only [only_acqArmUnit, only_modAcq, only_ite, h, h_acq]

theorem only_execAcqArm {ps : List Part} {s0 : State} (c : Src) (p : Bytes) (s : State) (h : Only ps s0 s) (h_now : Part.now ∈ ps) (h_free : Part.free ∈ ps) (h_regs : Part.regs ∈ ps) (h_nt : Part.nt ∈ ps) (h_cmd : Part.cmd ∈ ps) (h_acq : Part.acq ∈ ps) (h_dram : Part.dram ∈ ps) (h_host : Part.host ∈ ps) (h_twn : Part.twn ∈ ps) (h_mgt : Part.mgt ∈ ps) :
    ∀ out, execAcqArm c p s = .next out → Only ps s0 out := by
  unfold execAcqArm
  intro out e
  cases e
  simp (maxDischargeDepth := 200) +contextual only [only_acqArm, only_obey, h, h_now, h_free, h_regs, h_nt, h_cmd, h_acq, h_dram, h_host, h_twn, h_mgt, implies_true]

theorem only_execAcqHeaderWritten {ps : List Part} {s0 : State} (u : Fin 8) (s : State) (h : Only ps s0 s) (h_now : Part.now ∈ ps) (h_free : Part.free ∈ ps) (h_regs : Part.regs ∈ ps) (h_nt : Part.nt ∈ ps) (h_cmd : Part.cmd ∈ ps) (h_acq : Part.acq ∈ ps) (h_dram : Part.dram ∈ ps) :
    ∀ out, execAcqHeaderWritten u s = .next out → Only ps s0 out := by
  unfold execAcqHeaderWritten
  intro out e
  dsimp only at e
  repeat' split at e
  all_goals (cases e; simp (maxDischargeDepth := 200) +contextual only [only_acqFinish, h, h_now, h_free, h_regs, h_nt, h_cmd, h_acq, h_dram])

theorem only_execAcqPostComplete {ps : List Part} {s0 : State} (u : Fin 8) (s : State) (h : Only ps s0 s) (h_acq : Part.acq ∈ ps) :
    ∀ out, execAcqPostComplete u s = .next out → Only ps s0 out := by
  unfold execAcqPostComplete
  intro out e
  dsimp only at e
  repeat' split at e
  all_goals (cases e; simp (maxDischargeDepth := 200) +contextual only [only_modAcq, h, h_acq])

theorem only_execAcqRearm {ps : List Part} {s0 : State} (u : Fin 8) (s : State) (h : Only ps s0 s) (h_acq : Part.acq ∈ ps) :
    ∀ out, execAcqRearm u s = .next out → Only ps s0 out := by
  unfold execAcqRearm
  intro out e
  dsimp only at e
  repeat' split at e
  all_goals (cases e; simp (maxDischargeDepth := 200) +contextual only [only_acqArmUnit, h, h_acq])

theorem only_execAcqSegFree {ps : List Part} {s0 : State} (u : Fin 8) (v : Word) (s : State) (h : Only ps s0 s) (h_acq : Part.acq ∈ ps) :
    ∀ out, execAcqSegFree u v s = .next out → Only ps s0 out := by
  unfold execAcqSegFree
  intro out e
  cases e
  simp (maxDischargeDepth := 200) +contextual only [only_segFree, h, h_acq]

theorem only_execAcqStop {ps : List Part} {s0 : State} (c : Src) (p : Bytes) (s : State) (h : Only ps s0 s) (h_regs : Part.regs ∈ ps) (h_cmd : Part.cmd ∈ ps) (h_acq : Part.acq ∈ ps) (h_host : Part.host ∈ ps) (h_twn : Part.twn ∈ ps) (h_mgt : Part.mgt ∈ ps) :
    ∀ out, execAcqStop c p s = .next out → Only ps s0 out := by
  unfold execAcqStop
  intro out e
  cases e
  simp (maxDischargeDepth := 200) +contextual only [only_acqStop, only_obey, h, h_regs, h_cmd, h_acq, h_host, h_twn, h_mgt, implies_true]

theorem only_execAcqTrigger {ps : List Part} {s0 : State} (c : Src) (p : Bytes) (s : State) (h : Only ps s0 s) (h_regs : Part.regs ∈ ps) (h_nt : Part.nt ∈ ps) (h_cmd : Part.cmd ∈ ps) (h_acq : Part.acq ∈ ps) (h_host : Part.host ∈ ps) (h_twn : Part.twn ∈ ps) (h_mgt : Part.mgt ∈ ps) :
    ∀ out, execAcqTrigger c p s = .next out → Only ps s0 out := by
  unfold execAcqTrigger
  intro out e
  cases e
  simp (maxDischargeDepth := 200) +contextual only [only_acqTrigger, only_obey, h, h_regs, h_nt, h_cmd, h_acq, h_host, h_twn, h_mgt, implies_true]

theorem only_execExtTrigEdge {ps : List Part} {s0 : State} (s : State) (h : Only ps s0 s) (h_regs : Part.regs ∈ ps) (h_nt : Part.nt ∈ ps) (h_acq : Part.acq ∈ ps) :
    ∀ out, execExtTrigEdge s = .next out → Only ps s0 out := by
  unfold execExtTrigEdge
  intro out e
  cases e
  simp (maxDischargeDepth := 200) only [only_acqOffer, only_ptmAsk, h, h_regs, h_nt, h_acq]

end Sys2Proof.Machine
end

