-- ==== Sys2Proof/Laws/OnlyDma.lean ====
section
/-! SUPPORT. Frames of the operations and meanings of Machine/Dma.lean: one lemma each, which names the parts of the state that may
change. -/

set_option maxRecDepth 4000

namespace Sys2Proof.Machine

theorem only_eccRead {ps : List Part} {s0 : State} (s : State) (h : Only ps s0 s) (h_free : Part.free ∈ ps) (h_regs : Part.regs ∈ ps) :
    Only ps s0 (State.eccRead s) := by
  unfold State.eccRead
  simp (maxDischargeDepth := 200) +contextual only [only_count, only_draw, h, h_free, h_regs]

theorem only_burstPut {ps : List Part} {s0 : State} (s : State) (n : Nat) (d : DmaDesc) (bs : Bytes) (h : Only ps s0 s) (h_eth : Part.eth ∈ ps) (h_dram : Part.dram ∈ ps) (h_host : Part.host ∈ ps) :
    Only ps s0 (State.burstPut s n d bs) := by
  unfold State.burstPut
  simp (maxDischargeDepth := 200) only [only_hostWrite, only_ite, only_mk, or_true, true_or, h, h_eth, h_dram, h_host]

theorem only_dmaNext {ps : List Part} {s0 : State} (s : State) (n : Nat) (h : Only ps s0 s) (h_dma : Part.dma ∈ ps) :
    Only ps s0 (State.dmaNext s n) := by
  unfold State.dmaNext
  simp (maxDischargeDepth := 200) only [only_modDma, h, h_dma]

theorem only_dmaReport {ps : List Part} {s0 : State} (s : State) (n : Nat) (st : Status) (detail : Nat) (residue : Nat) (lastBeat : Bool) (irq : Bool) (h : Only ps s0 s) (h_cmd : Part.cmd ∈ ps) (h_dma : Part.dma ∈ ps) (h_dram : Part.dram ∈ ps) (h_host : Part.host ∈ ps) :
    Only ps s0 (State.dmaReport s n st detail residue lastBeat irq) := by
  unfold State.dmaReport
  simp (maxDischargeDepth := 200) only [only_hostWrite, only_modDma, only_raise, only_ite, only_mk, or_true, true_or, h, h_cmd, h_dma, h_dram, h_host]

theorem only_dmaStop {ps : List Part} {s0 : State} (s : State) (n : Nat) (h : Only ps s0 s) (h_eth : Part.eth ∈ ps) (h_cmd : Part.cmd ∈ ps) (h_dma : Part.dma ∈ ps) (h_dram : Part.dram ∈ ps) (h_host : Part.host ∈ ps) :
    Only ps s0 (State.dmaStop s n) := by
  unfold State.dmaStop
  dsimp only
  repeat' split
  all_goals simp (maxDischargeDepth := 200) +contextual only [only_dmaNext, only_dmaReport, only_modDma, only_mk, or_true, true_or, h, h_eth, h_cmd, h_dma, h_dram, h_host]

theorem only_dmaAbort {ps : List Part} {s0 : State} (s : State) (n : Nat) (h : Only ps s0 s) (h_eth : Part.eth ∈ ps) (h_cmd : Part.cmd ∈ ps) (h_dma : Part.dma ∈ ps) (h_dram : Part.dram ∈ ps) (h_host : Part.host ∈ ps) :
    Only ps s0 (State.dmaAbort s n) := by
  unfold State.dmaAbort
  split <;> simp (maxDischargeDepth := 200) +contextual only [only_dmaStop, only_modDma, only_ite, h, h_eth, h_cmd, h_dma, h_dram, h_host]

theorem only_dmaAbortAll {ps : List Part} {s0 : State} (s : State) (h : Only ps s0 s) (h_eth : Part.eth ∈ ps) (h_cmd : Part.cmd ∈ ps) (h_dma : Part.dma ∈ ps) (h_dram : Part.dram ∈ ps) (h_host : Part.host ∈ ps) :
    Only ps s0 (State.dmaAbortAll s) := by
  unfold State.dmaAbortAll
  simp (maxDischargeDepth := 200) +contextual only [only_dmaAbort, only_forNums, h, h_eth, h_cmd, h_dma, h_dram, h_host, implies_true]

theorem only_queueTake {ps : List Part} {s0 : State} (s : State) (q : Nat) (n : Nat) (h : Only ps s0 s) (h_sar : Part.sar ∈ ps) (h_eth : Part.eth ∈ ps) (h_cmd : Part.cmd ∈ ps) :
    Only ps s0 (State.queueTake s q n) := by
  unfold State.queueTake
  simp (maxDischargeDepth := 200) only [only_modCmd, only_ite, only_mk, or_true, true_or, h, h_sar, h_eth, h_cmd]

theorem only_dmaPace {ps : List Part} {s0 : State} (s : State) (n : Nat) (was : Nat) (h : Only ps s0 s) (h_dma : Part.dma ∈ ps) :
    Only ps s0 (State.dmaPace s n was) := by
  unfold State.dmaPace
  simp (maxDischargeDepth := 200) +contextual only [only_modDma, h, h_dma]

theorem only_dmaLoad {ps : List Part} {s0 : State} (s : State) (n : Nat) (bytes : Bytes) (h : Only ps s0 s) (h_free : Part.free ∈ ps) (h_regs : Part.regs ∈ ps) (h_cmd : Part.cmd ∈ ps) (h_dma : Part.dma ∈ ps) (h_dram : Part.dram ∈ ps) (h_host : Part.host ∈ ps) :
    Only ps s0 (State.dmaLoad s n bytes) := by
  unfold State.dmaLoad
  dsimp only
  repeat' split
  all_goals simp (maxDischargeDepth := 200) +contextual only [only_dmaNext, only_dmaReport, only_eccRead, only_modDma, h, h_free, h_regs, h_cmd, h_dma, h_dram, h_host]

theorem only_dmaSettle {ps : List Part} {s0 : State} (s : State) (n : Nat) (h : Only ps s0 s) (h_dma : Part.dma ∈ ps) :
    Only ps s0 (State.dmaSettle s n) := by
  unfold State.dmaSettle
  simp (maxDischargeDepth := 200) only [only_modDma, h, h_dma]

theorem only_dmaDone {ps : List Part} {s0 : State} (s : State) (n : Nat) (d : DmaDesc) (h : Only ps s0 s) (h_eth : Part.eth ∈ ps) (h_cmd : Part.cmd ∈ ps) (h_dma : Part.dma ∈ ps) (h_dram : Part.dram ∈ ps) (h_host : Part.host ∈ ps) :
    Only ps s0 (State.dmaDone s n d) := by
  unfold State.dmaDone
  simp (maxDischargeDepth := 200) only [only_dmaNext, only_dmaReport, only_modDma, only_ite, only_mk, or_true, true_or, h, h_eth, h_cmd, h_dma, h_dram, h_host]

theorem only_dmaBurst {ps : List Part} {s0 : State} (s : State) (n : Nat) (hostData : Bytes) (nextDesc : Bytes) (h : Only ps s0 s) (h_free : Part.free ∈ ps) (h_regs : Part.regs ∈ ps) (h_sar : Part.sar ∈ ps) (h_eth : Part.eth ∈ ps) (h_cmd : Part.cmd ∈ ps) (h_dma : Part.dma ∈ ps) (h_dram : Part.dram ∈ ps) (h_host : Part.host ∈ ps) :
    Only ps s0 (State.dmaBurst s n hostData nextDesc) := by
  unfold State.dmaBurst
  dsimp only
  repeat' split
  all_goals simp (maxDischargeDepth := 200) +contextual only [only_burstPut, only_count, only_dmaDone, only_dmaLoad, only_dmaPace, only_dmaSettle, only_eccRead, only_modDma, only_queueTake, h, h_free, h_regs, h_sar, h_eth, h_cmd, h_dma, h_dram, h_host]

theorem only_dmaError {ps : List Part} {s0 : State} (s : State) (n : Nat) (cause : Nat) (lastBeat : Bool) (h : Only ps s0 s) (h_free : Part.free ∈ ps) (h_eth : Part.eth ∈ ps) (h_cmd : Part.cmd ∈ ps) (h_dma : Part.dma ∈ ps) (h_dram : Part.dram ∈ ps) (h_host : Part.host ∈ ps) :
    Only ps s0 (State.dmaError s n cause lastBeat) := by
  unfold State.dmaError
  dsimp only
  repeat' split
  all_goals simp (maxDischargeDepth := 200) +contextual only [only_dmaReport, only_draw, only_modDma, only_mk, or_true, true_or, h, h_free, h_eth, h_cmd, h_dma, h_dram, h_host]

theorem only_dmaStart {ps : List Part} {s0 : State} (s : State) (n : Nat) (desc : Bytes) (h : Only ps s0 s) (h_free : Part.free ∈ ps) (h_regs : Part.regs ∈ ps) (h_cmd : Part.cmd ∈ ps) (h_dma : Part.dma ∈ ps) (h_dram : Part.dram ∈ ps) (h_host : Part.host ∈ ps) :
    Only ps s0 (State.dmaStart s n desc) := by
  unfold State.dmaStart
  dsimp only
  repeat' split
  all_goals simp (maxDischargeDepth := 200) +contextual only [only_busyStop, only_dmaLoad, only_dmaSettle, only_modDma, h, h_free, h_regs, h_cmd, h_dma, h_dram, h_host]

theorem only_dmaTailWrite {ps : List Part} {s0 : State} (s : State) (n : Nat) (v : Nat) (h : Only ps s0 s) (h_regs : Part.regs ∈ ps) :
    Only ps s0 (State.dmaTailWrite s n v) := by
  unfold State.dmaTailWrite
  simp (maxDischargeDepth := 200) only [only_accessErr, only_setRegN, only_ite, h, h_regs]

theorem only_execDmaAbort {ps : List Part} {s0 : State} (n : Fin 32) (s : State) (h : Only ps s0 s) (h_eth : Part.eth ∈ ps) (h_cmd : Part.cmd ∈ ps) (h_dma : Part.dma ∈ ps) (h_dram : Part.dram ∈ ps) (h_host : Part.host ∈ ps) :
    ∀ out, execDmaAbort n s = .next out → Only ps s0 out := by
  unfold execDmaAbort
  intro out e
  cases e
  simp (maxDischargeDepth := 200) only [only_dmaAbort, h, h_eth, h_cmd, h_dma, h_dram, h_host]

theorem only_execDmaAbortComplete {ps : List Part} {s0 : State} (n : Fin 32) (s : State) (h : Only ps s0 s) (h_eth : Part.eth ∈ ps) (h_cmd : Part.cmd ∈ ps) (h_dma : Part.dma ∈ ps) (h_dram : Part.dram ∈ ps) (h_host : Part.host ∈ ps) :
    ∀ out, execDmaAbortComplete n s = .next out → Only ps s0 out := by
  unfold execDmaAbortComplete
  intro out e
  split at e <;> cases e <;> simp (maxDischargeDepth := 200) only [only_dmaStop, h, h_eth, h_cmd, h_dma, h_dram, h_host]

theorem only_execDmaBurst {ps : List Part} {s0 : State} (n : Fin 32) (hostData : Bytes) (nextDesc : Bytes) (s : State) (h : Only ps s0 s) (h_free : Part.free ∈ ps) (h_regs : Part.regs ∈ ps) (h_sar : Part.sar ∈ ps) (h_eth : Part.eth ∈ ps) (h_cmd : Part.cmd ∈ ps) (h_dma : Part.dma ∈ ps) (h_dram : Part.dram ∈ ps) (h_host : Part.host ∈ ps) :
    ∀ out, execDmaBurst n hostData nextDesc s = .next out → Only ps s0 out := by
  unfold execDmaBurst
  intro out e
  cases e
  simp (maxDischargeDepth := 200) +contextual only [only_dmaBurst, h, h_free, h_regs, h_sar, h_eth, h_cmd, h_dma, h_dram, h_host]

theorem only_execDmaDescTailWrite {ps : List Part} {s0 : State} (n : Fin 32) (v : Word) (s : State) (h : Only ps s0 s) (h_regs : Part.regs ∈ ps) :
    ∀ out, execDmaDescTailWrite n v s = .next out → Only ps s0 out := by
  unfold execDmaDescTailWrite
  intro out e
  cases e
  simp (maxDischargeDepth := 200) +contextual only [only_dmaTailWrite, h, h_regs]

theorem only_execDmaFlushTimeout {ps : List Part} {s0 : State} (n : Fin 32) (s : State) (h : Only ps s0 s) (h_now : Part.now ∈ ps) (h_nt : Part.nt ∈ ps) (h_dma : Part.dma ∈ ps) :
    ∀ out, execDmaFlushTimeout n s = .next out → Only ps s0 out := by
  unfold execDmaFlushTimeout
  intro out e
  dsimp only at e
  repeat' split at e
  all_goals (cases e; simp (maxDischargeDepth := 200) +contextual only [only_advanceTo, only_dmaSettle, only_modDma, h, h_now, h_nt, h_dma])

theorem only_execDmaHostError {ps : List Part} {s0 : State} (n : Fin 32) (cause : Fin 3) (lastBeat : Bool) (s : State) (h : Only ps s0 s) (h_free : Part.free ∈ ps) (h_eth : Part.eth ∈ ps) (h_cmd : Part.cmd ∈ ps) (h_dma : Part.dma ∈ ps) (h_dram : Part.dram ∈ ps) (h_host : Part.host ∈ ps) :
    ∀ out, execDmaHostError n cause lastBeat s = .next out → Only ps s0 out := by
  unfold execDmaHostError
  intro out e
  cases e
  simp (maxDischargeDepth := 200) +contextual only [only_dmaError, h, h_free, h_eth, h_cmd, h_dma, h_dram, h_host]

theorem only_execDmaRunStart {ps : List Part} {s0 : State} (n : Fin 32) (s : State) (h : Only ps s0 s) (h_dma : Part.dma ∈ ps) :
    ∀ out, execDmaRunStart n s = .next out → Only ps s0 out := by
  unfold execDmaRunStart
  intro out e
  dsimp only at e
  repeat' split at e
  all_goals (cases e; simp (maxDischargeDepth := 200) +contextual only [only_dmaSettle, only_modDma, h, h_dma])

theorem only_execDmaStart {ps : List Part} {s0 : State} (n : Fin 32) (desc : Bytes) (s : State) (h : Only ps s0 s) (h_free : Part.free ∈ ps) (h_regs : Part.regs ∈ ps) (h_cmd : Part.cmd ∈ ps) (h_dma : Part.dma ∈ ps) (h_dram : Part.dram ∈ ps) (h_host : Part.host ∈ ps) :
    ∀ out, execDmaStart n desc s = .next out → Only ps s0 out := by
  unfold execDmaStart
  intro out e
  cases e
  simp (maxDischargeDepth := 200) +contextual only [only_dmaStart, h, h_free, h_regs, h_cmd, h_dma, h_dram, h_host]

end Sys2Proof.Machine
end

