-- ==== Sys2Proof/Laws/OnlyMeasure.lean ====
section
/-! SUPPORT. Frames of the operations and meanings of Machine/Measure.lean: one lemma each, which names the parts of the state that may
change. -/

set_option maxRecDepth 4000

namespace Sys2Proof.Machine

theorem only_dropDelivered {ps : List Part} {s0 : State} (s : State) (tick : Nat) (h : Only ps s0 s) (h_meas : Part.meas ∈ ps) :
    Only ps s0 (State.dropDelivered s tick) := by
  unfold State.dropDelivered
  simp (maxDischargeDepth := 200) +contextual only [only_mk, or_true, true_or, h, h_meas]

theorem only_chanBit {ps : List Part} {s0 : State} (s : State) (c : Nat) (b : Bool) (h : Only ps s0 s) (h_meas : Part.meas ∈ ps) :
    Only ps s0 (State.chanBit s c b) := by
  unfold State.chanBit
  simp (maxDischargeDepth := 200) only [only_modDec, h, h_meas]

theorem only_clkSkewCheck {ps : List Part} {s0 : State} (s : State) (x1 : Int) (h : Only ps s0 s) (h_twn : Part.twn ∈ ps) :
    Only ps s0 (State.clkSkewCheck s x1) := by
  unfold State.clkSkewCheck
  simp (maxDischargeDepth := 200) only [only_modTwn, only_ite, h, h_twn]

theorem only_sampleDump {ps : List Part} {s0 : State} (s : State) (g : Nat) (words : List (Nat × DWord)) (h : Only ps s0 s) (h_regs : Part.regs ∈ ps) (h_eng : Part.eng ∈ ps) :
    Only ps s0 (State.sampleDump s g words) := by
  unfold State.sampleDump
  refine only_forNums _ _ (fun e v hv => ?_) h
  dsimp only
  split <;> simp (maxDischargeDepth := 200) only [only_ite, only_modEng, only_setRegN, hv, h_regs, h_eng]

theorem only_dump {ps : List Part} {s0 : State} (s : State) (g : Nat) (h : Only ps s0 s) (h_regs : Part.regs ∈ ps) (h_eng : Part.eng ∈ ps) (h_meas : Part.meas ∈ ps) (h_nt : Part.nt ∈ ps) (h_acq : Part.acq ∈ ps) (h_dram : Part.dram ∈ ps) :
    Only ps s0 (State.dump s g) := by
  unfold State.dump
  simp (maxDischargeDepth := 200) +contextual only [only_acqDump, only_modDec, only_sampleDump, only_setReg, only_forNums, only_mk, or_true, true_or, h, h_regs, h_eng, h_meas, h_nt, h_acq, h_dram, only_foldl, implies_true]

theorem only_dumpAlign {ps : List Part} {s0 : State} (s : State) (h : Only ps s0 s) (h_regs : Part.regs ∈ ps) (h_meas : Part.meas ∈ ps) :
    Only ps s0 (State.dumpAlign s) := by
  unfold State.dumpAlign
  simp (maxDischargeDepth := 200) +contextual only [only_count, only_modDec, only_forNums, only_ite, only_mk, or_true, true_or, h, h_regs, h_meas, implies_true]

theorem only_pullIn {ps : List Part} {s0 : State} (s : State) (c : Nat) (h : Only ps s0 s) (h_free : Part.free ∈ ps) (h_regs : Part.regs ∈ ps) (h_pwm : Part.pwm ∈ ps) (h_gdl : Part.gdl ∈ ps) (h_trp : Part.trp ∈ ps) (h_nt : Part.nt ∈ ps) (h_log : Part.log ∈ ps) (h_acq : Part.acq ∈ ps) (h_twn : Part.twn ∈ ps) :
    Only ps s0 (State.pullIn s c) := by
  unfold State.pullIn
  simp (maxDischargeDepth := 200) +contextual only [only_askPullFrame, only_latch, only_modZone, only_pullFlag, only_pullPhases, only_ite, h, h_free, h_regs, h_pwm, h_gdl, h_trp, h_nt, h_log, h_acq, h_twn]

theorem only_pullInterval {ps : List Part} {s0 : State} (s : State) (k : Nat) (h : Only ps s0 s) (h_free : Part.free ∈ ps) (h_regs : Part.regs ∈ ps) (h_pwm : Part.pwm ∈ ps) (h_gdl : Part.gdl ∈ ps) (h_trp : Part.trp ∈ ps) (h_nt : Part.nt ∈ ps) (h_log : Part.log ∈ ps) (h_acq : Part.acq ∈ ps) (h_twn : Part.twn ∈ ps) :
    Only ps s0 (State.pullInterval s k) := by
  unfold State.pullInterval
  simp (maxDischargeDepth := 200) +contextual only [only_modGs, only_modZone, only_pullIn, only_forNums, h, h_free, h_regs, h_pwm, h_gdl, h_trp, h_nt, h_log, h_acq, h_twn, implies_true]

theorem only_sarStart {ps : List Part} {s0 : State} (s : State) (h : Only ps s0 s) (h_sar : Part.sar ∈ ps) :
    Only ps s0 (State.sarStart s) := by
  unfold State.sarStart
  simp (maxDischargeDepth := 200) only [only_modSar, h, h_sar]

theorem only_sarNext {ps : List Part} {s0 : State} (s : State) (h : Only ps s0 s) (h_sar : Part.sar ∈ ps) :
    Only ps s0 (State.sarNext s) := by
  unfold State.sarNext
  simp (maxDischargeDepth := 200) only [only_modSar, only_sarStart, only_ite, h, h_sar]

theorem only_sarResult {ps : List Part} {s0 : State} (s : State) (w : Nat) (h : Only ps s0 s) (h_regs : Part.regs ∈ ps) (h_sar : Part.sar ∈ ps) :
    Only ps s0 (State.sarResult s w) := by
  unfold State.sarResult
  simp (maxDischargeDepth := 200) only [only_count, only_modSar, only_ite, h, h_regs, h_sar]

theorem only_sarDone {ps : List Part} {s0 : State} (s : State) (uv : Int) (h : Only ps s0 s) (h_regs : Part.regs ∈ ps) (h_sar : Part.sar ∈ ps) :
    Only ps s0 (State.sarDone s uv) := by
  unfold State.sarDone
  split <;> simp (maxDischargeDepth := 200) only [only_countWrap, only_modSar, only_sarNext, only_sarResult, only_setReg, only_setRegN, only_ite, h, h_regs, h_sar]

theorem only_sarTrigger {ps : List Part} {s0 : State} (s : State) (h : Only ps s0 s) (h_regs : Part.regs ∈ ps) (h_sar : Part.sar ∈ ps) :
    Only ps s0 (State.sarTrigger s) := by
  unfold State.sarTrigger
  simp (maxDischargeDepth := 200) only [only_count, only_modSar, only_sarStart, only_ite, h, h_regs, h_sar]

theorem only_sarUrgent {ps : List Part} {s0 : State} (s : State) (input : Nat) (h : Only ps s0 s) (h_regs : Part.regs ∈ ps) (h_sar : Part.sar ∈ ps) :
    Only ps s0 (State.sarUrgent s input) := by
  unfold State.sarUrgent
  simp (maxDischargeDepth := 200) only [only_count, only_modSar, only_setReg, only_ite, h, h_regs, h_sar]

theorem only_srcLost {ps : List Part} {s0 : State} (s : State) (c : Nat) (h : Only ps s0 s) (h_meas : Part.meas ∈ ps) :
    Only ps s0 (State.srcLost s c) := by
  unfold State.srcLost
  simp (maxDischargeDepth := 200) only [only_modDec, h, h_meas]

theorem only_tick {ps : List Part} {s0 : State} (s : State) (lands : DWord) (h : Only ps s0 s) (h_regs : Part.regs ∈ ps) (h_meas : Part.meas ∈ ps) (h_nt : Part.nt ∈ ps) (h_acq : Part.acq ∈ ps) (h_dram : Part.dram ∈ ps) :
    Only ps s0 (State.tick s lands) := by
  unfold State.tick
  extract_lets t s1 s2 s3
  have h1 : Only ps s0 s1 := by
    refine only_forNums _ _ (fun c u hu => ?_) h
    split <;> simp (maxDischargeDepth := 200) only [only_ite, only_chanBit, only_srcLost, only_modDec, hu, h_meas]
  have h3 : Only ps s0 s3 := by simp (maxDischargeDepth := 200) only [s3, s2, only_dropDelivered, only_acqTick, h1, h_regs, h_meas, h_nt, h_acq, h_dram]
  clear_value s3
  simp (maxDischargeDepth := 200) only [only_mk, or_true, true_or, h3, h_regs, h_meas, h_nt, h_acq, h_dram]

theorem only_execComparatorActivate {ps : List Part} {s0 : State} (c : Fin 160) (s : State) (h : Only ps s0 s) (h_free : Part.free ∈ ps) (h_regs : Part.regs ∈ ps) (h_meas : Part.meas ∈ ps) (h_pwm : Part.pwm ∈ ps) (h_gdl : Part.gdl ∈ ps) (h_trp : Part.trp ∈ ps) (h_nt : Part.nt ∈ ps) (h_log : Part.log ∈ ps) (h_acq : Part.acq ∈ ps) (h_twn : Part.twn ∈ ps) :
    ∀ out, execComparatorActivate c s = .next out → Only ps s0 out := by
  unfold execComparatorActivate
  intro out e
  dsimp only at e
  repeat' split at e
  all_goals (cases e; simp (maxDischargeDepth := 200) +contextual only [only_acqOffer, only_count, only_latch, only_modDec, only_pullIn, h, h_free, h_regs, h_meas, h_pwm, h_gdl, h_trp, h_nt, h_log, h_acq, h_twn])

theorem only_execComparatorDeactivate {ps : List Part} {s0 : State} (c : Fin 160) (s : State) (h : Only ps s0 s) (h_meas : Part.meas ∈ ps) :
    ∀ out, execComparatorDeactivate c s = .next out → Only ps s0 out := by
  unfold execComparatorDeactivate
  intro out e
  dsimp only at e
  repeat' split at e
  all_goals (cases e; simp (maxDischargeDepth := 200) +contextual only [only_modDec, h, h_meas])

theorem only_execDecimationDump {ps : List Part} {s0 : State} (g : Fin 20) (s : State) (h : Only ps s0 s) (h_regs : Part.regs ∈ ps) (h_eng : Part.eng ∈ ps) (h_meas : Part.meas ∈ ps) (h_nt : Part.nt ∈ ps) (h_acq : Part.acq ∈ ps) (h_dram : Part.dram ∈ ps) :
    ∀ out, execDecimationDump g s = .next out → Only ps s0 out := by
  unfold execDecimationDump
  intro out e
  split at e <;> cases e <;> simp (maxDischargeDepth := 200) only [only_dump, h, h_regs, h_eng, h_meas, h_nt, h_acq, h_dram]

theorem only_execFastPathMaskEnd {ps : List Part} {s0 : State} (c : Fin 160) (s : State) (h : Only ps s0 s) (h_meas : Part.meas ∈ ps) :
    ∀ out, execFastPathMaskEnd c s = .next out → Only ps s0 out := by
  unfold execFastPathMaskEnd
  intro out e
  dsimp only at e
  repeat' split at e
  all_goals (cases e; simp (maxDischargeDepth := 200) +contextual only [only_modDec, h, h_meas])

theorem only_execLinkSourceResume {ps : List Part} {s0 : State} (c : Fin 160) (s : State) (h : Only ps s0 s) (h_meas : Part.meas ∈ ps) :
    ∀ out, execLinkSourceResume c s = .next out → Only ps s0 out := by
  unfold execLinkSourceResume
  intro out e
  dsimp only at e
  repeat' split at e
  all_goals (cases e; simp (maxDischargeDepth := 200) +contextual only [only_modDec, h, h_meas])

theorem only_execModulatorTick {ps : List Part} {s0 : State} (lands : DWord) (clk0Ps : Int) (s : State) (h : Only ps s0 s) (h_now : Part.now ∈ ps) (h_regs : Part.regs ∈ ps) (h_meas : Part.meas ∈ ps) (h_nt : Part.nt ∈ ps) (h_acq : Part.acq ∈ ps) (h_dram : Part.dram ∈ ps) (h_twn : Part.twn ∈ ps) :
    ∀ out, execModulatorTick lands clk0Ps s = .next out → Only ps s0 out := by
  unfold execModulatorTick
  intro out e
  split at e <;> cases e <;> simp (maxDischargeDepth := 200) +contextual only [only_advanceTo, only_clkSkewCheck, only_tick, h, h_now, h_regs, h_meas, h_nt, h_acq, h_dram, h_twn]

theorem only_execSarConversionDone {ps : List Part} {s0 : State} (microvolts : Int) (s : State) (h : Only ps s0 s) (h_now : Part.now ∈ ps) (h_regs : Part.regs ∈ ps) (h_sar : Part.sar ∈ ps) (h_nt : Part.nt ∈ ps) :
    ∀ out, execSarConversionDone microvolts s = .next out → Only ps s0 out := by
  unfold execSarConversionDone
  intro out e
  split at e <;> cases e <;> simp (maxDischargeDepth := 200) +contextual only [only_advanceTo, only_sarDone, h, h_now, h_regs, h_sar, h_nt]

theorem only_execSequenceTrigger {ps : List Part} {s0 : State} (s : State) (h : Only ps s0 s) (h_regs : Part.regs ∈ ps) (h_sar : Part.sar ∈ ps) :
    ∀ out, execSequenceTrigger s = .next out → Only ps s0 out := by
  unfold execSequenceTrigger
  intro out e
  cases e
  simp (maxDischargeDepth := 200) +contextual only [only_sarTrigger, only_setReg, h, h_regs, h_sar]

theorem only_execStuckRunEnd {ps : List Part} {s0 : State} (c : Fin 160) (s : State) (h : Only ps s0 s) (h_meas : Part.meas ∈ ps) :
    ∀ out, execStuckRunEnd c s = .next out → Only ps s0 out := by
  unfold execStuckRunEnd
  intro out e
  dsimp only at e
  repeat' split at e
  all_goals (cases e; simp (maxDischargeDepth := 200) +contextual only [only_modDec, h, h_meas])

theorem only_execStuckRunStart {ps : List Part} {s0 : State} (c : Fin 160) (s : State) (h : Only ps s0 s) (h_free : Part.free ∈ ps) (h_regs : Part.regs ∈ ps) (h_meas : Part.meas ∈ ps) (h_pwm : Part.pwm ∈ ps) (h_gdl : Part.gdl ∈ ps) (h_trp : Part.trp ∈ ps) (h_nt : Part.nt ∈ ps) (h_log : Part.log ∈ ps) (h_acq : Part.acq ∈ ps) (h_twn : Part.twn ∈ ps) :
    ∀ out, execStuckRunStart c s = .next out → Only ps s0 out := by
  unfold execStuckRunStart
  intro out e
  dsimp only at e
  repeat' split at e
  all_goals (cases e; simp (maxDischargeDepth := 200) +contextual only [only_latch, only_logFlag, only_modDec, only_setFlag, h, h_free, h_regs, h_meas, h_pwm, h_gdl, h_trp, h_nt, h_log, h_acq, h_twn])

theorem only_execUrgentRequest {ps : List Part} {s0 : State} (input : Fin 16) (s : State) (h : Only ps s0 s) (h_regs : Part.regs ∈ ps) (h_sar : Part.sar ∈ ps) :
    ∀ out, execUrgentRequest input s = .next out → Only ps s0 out := by
  unfold execUrgentRequest
  intro out e
  cases e
  simp (maxDischargeDepth := 200) only [only_sarUrgent, only_setReg, h, h_regs, h_sar]

end Sys2Proof.Machine
end

