-- ==== Sys2Proof/Laws/OnlyMirror.lean ====
section
/-! SUPPORT. Frames of the operations and meanings of Machine/Mirror.lean: one lemma each, which names the parts of the state that may
change. -/

set_option maxRecDepth 4000

namespace Sys2Proof.Machine

theorem only_itemsLate {ps : List Part} {s0 : State} (s : State) (h : Only ps s0 s) (h_regs : Part.regs ∈ ps) (h_twn : Part.twn ∈ ps) :
    Only ps s0 (State.itemsLate s) := by
  unfold State.itemsLate
  simp (maxDischargeDepth := 200) only [only_count, only_modTwn, only_ite, h, h_regs, h_twn]

theorem only_sendItems {ps : List Part} {s0 : State} (fuel : Nat) (s : State) (h : Only ps s0 s) (h_twn : Part.twn ∈ ps) :
    Only ps s0 (State.sendItems fuel s) := by
  induction fuel generalizing s with
  | zero => exact h
  | succ fuel ih =>
    unfold State.sendItems
    split
    · exact h
    · dsimp only
      split
      · exact ih _ (only_modTwn _ h h_twn)
      · exact h

theorem only_moveTake {ps : List Part} {s0 : State} (s : State) (c : Src) (take : DWord) (h : Only ps s0 s) (h_eng : Part.eng ∈ ps) (h_ops : Part.ops ∈ ps) (h_stg : Part.stg ∈ ps) :
    Only ps s0 (State.moveTake s c take) := by
  unfold State.moveTake
  simp (maxDischargeDepth := 200) +contextual only [only_modEng, only_modOps, only_modStg, only_forNums, h, h_eng, h_ops, h_stg, implies_true]

theorem only_moveSpore {ps : List Part} {s0 : State} (s : State) (slot : Nat) (action : Nat) (take : DWord) (h : Only ps s0 s) (h_eng : Part.eng ∈ ps) (h_twn : Part.twn ∈ ps) :
    Only ps s0 (State.moveSpore s slot action take) := by
  unfold State.moveSpore
  simp (maxDischargeDepth := 200) +contextual only [only_modEng, only_modTwn, only_forNums, only_ite, h, h_eng, h_twn, implies_true]

theorem only_itemsPeriod {ps : List Part} {s0 : State} (s : State) (h : Only ps s0 s) (h_regs : Part.regs ∈ ps) (h_eng : Part.eng ∈ ps) (h_ops : Part.ops ∈ ps) (h_stg : Part.stg ∈ ps) (h_twn : Part.twn ∈ ps) :
    Only ps s0 (State.itemsPeriod s) := by
  unfold State.itemsPeriod
  simp (maxDischargeDepth := 200) +contextual only [only_keepMax, only_modTwn, only_moveSpore, only_moveTake, only_sendItems, only_ite, h, h_regs, h_eng, h_ops, h_stg, h_twn, only_foldl, implies_true]

theorem only_mirror {ps : List Part} {s0 : State} (s : State) (c : Src) (op : Nat) (p : Bytes) (take : DWord) (h : Only ps s0 s) (h_twn : Part.twn ∈ ps) :
    Only ps s0 (State.mirror s c op p take) := by
  unfold State.mirror
  simp (maxDischargeDepth := 200) only [only_modTwn, only_sendItems, only_ite, h, h_twn]

theorem only_mirrorBytes {ps : List Part} {s0 : State} (n : Nat) (s : State) (c : Src) (bs : Bytes) (h : Only ps s0 s)
    (h_twn : Part.twn ∈ ps) : Only ps s0 (State.mirrorBytes n s c bs) := by
  induction n generalizing s bs with
  | zero => exact h
  | succ n ih =>
    unfold State.mirrorBytes
    split
    · exact h
    · refine ih _ _ ?_
      simp only [only_mirror, h, h_twn]

theorem only_mirrorRead {ps : List Part} {s0 : State} (s : State) (c : Src) (op : Nat) (p : Bytes) (bs : Option Bytes) (h : Only ps s0 s) (h_twn : Part.twn ∈ ps) :
    Only ps s0 (State.mirrorRead s c op p bs) := by
  unfold State.mirrorRead
  simp (maxDischargeDepth := 200) only [only_mirror, only_mirrorBytes, h, h_twn]

theorem only_notReady {ps : List Part} {s0 : State} (s : State) (h : Only ps s0 s) (h_twn : Part.twn ∈ ps) :
    Only ps s0 (State.notReady s) := by
  unfold State.notReady
  simp (maxDischargeDepth := 200) only [only_modTwn, h, h_twn]

theorem only_disagree {ps : List Part} {s0 : State} (s : State) (h : Only ps s0 s) (h_regs : Part.regs ∈ ps) (h_twn : Part.twn ∈ ps) :
    Only ps s0 (State.disagree s) := by
  unfold State.disagree
  simp (maxDischargeDepth := 200) +contextual only [only_count, only_modTwn, only_notReady, h, h_regs, h_twn]

theorem only_enter {ps : List Part} {s0 : State} (s : State) (dst : OpState) (cause : Nat) (h : Only ps s0 s) (h_regs : Part.regs ∈ ps) (h_ops : Part.ops ∈ ps) (h_log : Part.log ∈ ps) (h_twn : Part.twn ∈ ps) (h_mgt : Part.mgt ∈ ps) :
    Only ps s0 (State.enter s dst cause) := by
  unfold State.enter
  simp (maxDischargeDepth := 200) +contextual only [only_mirror, only_modOps, only_note, only_notify, h, h_regs, h_ops, h_log, h_twn, h_mgt]

end Sys2Proof.Machine
end

