-- ==== Sys2Proof/Laws/OnlyTrips.lean ====
section
/-! SUPPORT. Frames of the operations and meanings of Machine/Trips.lean: one lemma each, which names the parts of the state that may
change. -/

set_option maxRecDepth 4000

namespace Sys2Proof.Machine

theorem only_ostComplete {ps : List Part} {s0 : State} (s : State) (h : Only ps s0 s) (h_regs : Part.regs ∈ ps) (h_gdl : Part.gdl ∈ ps) (h_cmd : Part.cmd ∈ ps) (h_host : Part.host ∈ ps) (h_twn : Part.twn ∈ ps) (h_mgt : Part.mgt ∈ ps) :
    Only ps s0 (State.ostComplete s) := by
  unfold State.ostComplete
  simp (maxDischargeDepth := 200) +contextual only [only_done, only_foldl, only_foldl, only_mk, or_true, true_or, h, h_regs, h_gdl, h_cmd, h_host, h_twn, h_mgt, implies_true]

theorem only_gdlTrip {ps : List Part} {s0 : State} (s : State) (k : Nat) (bit : Nat) (cause : Nat) (source : Nat) (phase : Nat) (h : Only ps s0 s) (h_free : Part.free ∈ ps) (h_regs : Part.regs ∈ ps) (h_pwm : Part.pwm ∈ ps) (h_gdl : Part.gdl ∈ ps) (h_trp : Part.trp ∈ ps) (h_nt : Part.nt ∈ ps) (h_log : Part.log ∈ ps) (h_acq : Part.acq ∈ ps) (h_twn : Part.twn ∈ ps) :
    Only ps s0 (State.gdlTrip s k bit cause source phase) := by
  unfold State.gdlTrip
  simp (maxDischargeDepth := 200) only [only_latch, only_logFlag, only_setFlag, only_ite, h, h_free, h_regs, h_pwm, h_gdl, h_trp, h_nt, h_log, h_acq, h_twn]

theorem only_fltStanding {ps : List Part} {s0 : State} (s : State) (k : Nat) (h : Only ps s0 s) (h_free : Part.free ∈ ps) (h_regs : Part.regs ∈ ps) (h_pwm : Part.pwm ∈ ps) (h_gdl : Part.gdl ∈ ps) (h_trp : Part.trp ∈ ps) (h_nt : Part.nt ∈ ps) (h_log : Part.log ∈ ps) (h_acq : Part.acq ∈ ps) (h_twn : Part.twn ∈ ps) :
    Only ps s0 (State.fltStanding s k) := by
  unfold State.fltStanding
  simp (maxDischargeDepth := 200) +contextual only [only_gdlTrip, only_ite, h, h_free, h_regs, h_pwm, h_gdl, h_trp, h_nt, h_log, h_acq, h_twn]

theorem only_ostAbort {ps : List Part} {s0 : State} (s : State) (k : Nat) (h : Only ps s0 s) (h_free : Part.free ∈ ps) (h_regs : Part.regs ∈ ps) (h_pwm : Part.pwm ∈ ps) (h_gdl : Part.gdl ∈ ps) (h_trp : Part.trp ∈ ps) (h_nt : Part.nt ∈ ps) (h_cmd : Part.cmd ∈ ps) (h_log : Part.log ∈ ps) (h_acq : Part.acq ∈ ps) (h_host : Part.host ∈ ps) (h_twn : Part.twn ∈ ps) (h_mgt : Part.mgt ∈ ps) :
    Only ps s0 (State.ostAbort s k) := by
  unfold State.ostAbort
  simp (maxDischargeDepth := 200) +contextual only [only_fltStanding, only_modGs, only_ostComplete, only_ite, h, h_free, h_regs, h_pwm, h_gdl, h_trp, h_nt, h_cmd, h_log, h_acq, h_host, h_twn, h_mgt]

theorem only_ostGuard {ps : List Part} {s0 : State} (s : State) (k : Nat) (h : Only ps s0 s) (h_free : Part.free ∈ ps) (h_regs : Part.regs ∈ ps) (h_pwm : Part.pwm ∈ ps) (h_gdl : Part.gdl ∈ ps) (h_trp : Part.trp ∈ ps) (h_nt : Part.nt ∈ ps) (h_cmd : Part.cmd ∈ ps) (h_log : Part.log ∈ ps) (h_acq : Part.acq ∈ ps) (h_host : Part.host ∈ ps) (h_twn : Part.twn ∈ ps) (h_mgt : Part.mgt ∈ ps) :
    Only ps s0 (State.ostGuard s k) := by
  unfold State.ostGuard
  simp (maxDischargeDepth := 200) +contextual only [only_ostAbort, only_ite, h, h_free, h_regs, h_pwm, h_gdl, h_trp, h_nt, h_cmd, h_log, h_acq, h_host, h_twn, h_mgt]

theorem only_tripInLatch {ps : List Part} {s0 : State} (s : State) (i : Nat) (h : Only ps s0 s) (h_free : Part.free ∈ ps) (h_regs : Part.regs ∈ ps) (h_pwm : Part.pwm ∈ ps) (h_gdl : Part.gdl ∈ ps) (h_trp : Part.trp ∈ ps) (h_nt : Part.nt ∈ ps) (h_log : Part.log ∈ ps) (h_acq : Part.acq ∈ ps) (h_twn : Part.twn ∈ ps) :
    Only ps s0 (State.tripInLatch s i) := by
  unfold State.tripInLatch
  simp (maxDischargeDepth := 200) +contextual only [only_latch, only_forNums, only_ite, h, h_free, h_regs, h_pwm, h_gdl, h_trp, h_nt, h_log, h_acq, h_twn, implies_true]

theorem only_tripInsStanding {ps : List Part} {s0 : State} (s : State) (h : Only ps s0 s) (h_free : Part.free ∈ ps) (h_regs : Part.regs ∈ ps) (h_pwm : Part.pwm ∈ ps) (h_gdl : Part.gdl ∈ ps) (h_trp : Part.trp ∈ ps) (h_nt : Part.nt ∈ ps) (h_log : Part.log ∈ ps) (h_acq : Part.acq ∈ ps) (h_twn : Part.twn ∈ ps) :
    Only ps s0 (State.tripInsStanding s) := by
  unfold State.tripInsStanding
  simp (maxDischargeDepth := 200) +contextual only [only_tripInLatch, only_forNums, h, h_free, h_regs, h_pwm, h_gdl, h_trp, h_nt, h_log, h_acq, h_twn, implies_true]

theorem only_clearZone {ps : List Part} {s0 : State} (s : State) (k : Nat) (h : Only ps s0 s) (h_free : Part.free ∈ ps) (h_regs : Part.regs ∈ ps) (h_pwm : Part.pwm ∈ ps) (h_gdl : Part.gdl ∈ ps) (h_trp : Part.trp ∈ ps) (h_nt : Part.nt ∈ ps) (h_cmd : Part.cmd ∈ ps) (h_log : Part.log ∈ ps) (h_acq : Part.acq ∈ ps) (h_host : Part.host ∈ ps) (h_twn : Part.twn ∈ ps) (h_mgt : Part.mgt ∈ ps) :
    Only ps s0 (State.clearZone s k) := by
  unfold State.clearZone
  simp (maxDischargeDepth := 200) +contextual only [only_modZone, only_ostGuard, h, h_free, h_regs, h_pwm, h_gdl, h_trp, h_nt, h_cmd, h_log, h_acq, h_host, h_twn, h_mgt]

theorem only_applyClear {ps : List Part} {s0 : State} (s : State) (mask : Nat) (ok : Nat) (h : Only ps s0 s) (h_free : Part.free ∈ ps) (h_regs : Part.regs ∈ ps) (h_pwm : Part.pwm ∈ ps) (h_gdl : Part.gdl ∈ ps) (h_trp : Part.trp ∈ ps) (h_nt : Part.nt ∈ ps) (h_cmd : Part.cmd ∈ ps) (h_log : Part.log ∈ ps) (h_acq : Part.acq ∈ ps) (h_host : Part.host ∈ ps) (h_twn : Part.twn ∈ ps) (h_mgt : Part.mgt ∈ ps) :
    Only ps s0 (State.applyClear s mask ok) := by
  unfold State.applyClear
  simp (maxDischargeDepth := 200) +contextual only [only_clearZone, only_count, only_forNums, h, h_free, h_regs, h_pwm, h_gdl, h_trp, h_nt, h_cmd, h_log, h_acq, h_host, h_twn, h_mgt, implies_true]

theorem only_endClear {ps : List Part} {s0 : State} (s : State) (src : Src) (mask : Nat) (h : Only ps s0 s) (h_gdl : Part.gdl ∈ ps) (h_trp : Part.trp ∈ ps) :
    Only ps s0 (State.endClear s src mask) := by
  unfold State.endClear
  simp (maxDischargeDepth := 200) +contextual only [only_modZone, only_forNums, only_mk, or_true, true_or, h, h_gdl, h_trp, implies_true]

theorem only_finishClear {ps : List Part} {s0 : State} (s : State) (src : Src) (mask : Nat) (ok : Nat) (h : Only ps s0 s) (h_regs : Part.regs ∈ ps) (h_cmd : Part.cmd ∈ ps) (h_host : Part.host ∈ ps) (h_twn : Part.twn ∈ ps) (h_mgt : Part.mgt ∈ ps) :
    Only ps s0 (State.finishClear s src mask ok) := by
  unfold State.finishClear
  simp (maxDischargeDepth := 200) only [only_done, only_refuse, only_ite, h, h_regs, h_cmd, h_host, h_twn, h_mgt]

theorem only_evalClear {ps : List Part} {s0 : State} (s : State) (r : ClearReq) (h : Only ps s0 s) (h_now : Part.now ∈ ps) (h_free : Part.free ∈ ps) (h_regs : Part.regs ∈ ps) (h_pwm : Part.pwm ∈ ps) (h_gdl : Part.gdl ∈ ps) (h_trp : Part.trp ∈ ps) (h_nt : Part.nt ∈ ps) (h_cmd : Part.cmd ∈ ps) (h_log : Part.log ∈ ps) (h_acq : Part.acq ∈ ps) (h_host : Part.host ∈ ps) (h_twn : Part.twn ∈ ps) (h_mgt : Part.mgt ∈ ps) :
    Only ps s0 (State.evalClear s r) := by
  unfold State.evalClear
  simp (maxDischargeDepth := 200) +contextual only [only_advanceTo, only_applyClear, only_count, only_endClear, only_finishClear, only_mirror, only_forNums, only_ite, only_mk, or_true, true_or, h, h_now, h_free, h_regs, h_pwm, h_gdl, h_trp, h_nt, h_cmd, h_log, h_acq, h_host, h_twn, h_mgt, implies_true]

theorem only_setTripClock {ps : List Part} {s0 : State} (s : State) (v : DWord) (byZero : Bool) (h : Only ps s0 s) (h_trp : Part.trp ∈ ps) :
    Only ps s0 (State.setTripClock s v byZero) := by
  unfold State.setTripClock
  simp (maxDischargeDepth := 200) only [only_mk, or_true, true_or, h, h_trp]

theorem only_startClear {ps : List Part} {s0 : State} (s : State) (c : Src) (mask : Nat) (h : Only ps s0 s) (h_now : Part.now ∈ ps) (h_free : Part.free ∈ ps) (h_regs : Part.regs ∈ ps) (h_pwm : Part.pwm ∈ ps) (h_gdl : Part.gdl ∈ ps) (h_trp : Part.trp ∈ ps) (h_nt : Part.nt ∈ ps) (h_cmd : Part.cmd ∈ ps) (h_log : Part.log ∈ ps) (h_acq : Part.acq ∈ ps) (h_host : Part.host ∈ ps) (h_twn : Part.twn ∈ ps) (h_mgt : Part.mgt ∈ ps) :
    Only ps s0 (State.startClear s c mask) := by
  unfold State.startClear
  simp (maxDischargeDepth := 200) +contextual only [only_evalClear, only_modZone, only_forNums, only_ite, only_mk, or_true, true_or, h, h_now, h_free, h_regs, h_pwm, h_gdl, h_trp, h_nt, h_cmd, h_log, h_acq, h_host, h_twn, h_mgt, implies_true]

theorem only_trpRecRead {ps : List Part} {s0 : State} (s : State) (h : Only ps s0 s) (h_trp : Part.trp ∈ ps) :
    Only ps s0 (State.trpRecRead s) := by
  unfold State.trpRecRead
  simp (maxDischargeDepth := 200) only [only_mk, or_true, true_or, h, h_trp]

theorem only_trpTrip {ps : List Part} {s0 : State} (s : State) (c : Src) (p : Bytes) (h : Only ps s0 s) (h_free : Part.free ∈ ps) (h_regs : Part.regs ∈ ps) (h_pwm : Part.pwm ∈ ps) (h_gdl : Part.gdl ∈ ps) (h_trp : Part.trp ∈ ps) (h_nt : Part.nt ∈ ps) (h_cmd : Part.cmd ∈ ps) (h_log : Part.log ∈ ps) (h_acq : Part.acq ∈ ps) (h_host : Part.host ∈ ps) (h_twn : Part.twn ∈ ps) (h_mgt : Part.mgt ∈ ps) :
    Only ps s0 (State.trpTrip s c p) := by
  unfold State.trpTrip
  simp (maxDischargeDepth := 200) +contextual only [only_done, only_latch, only_refuse, only_forNums, only_ite, h, h_free, h_regs, h_pwm, h_gdl, h_trp, h_nt, h_cmd, h_log, h_acq, h_host, h_twn, h_mgt, implies_true]

theorem only_execClearEvaluation {ps : List Part} {s0 : State} (s : State) (h : Only ps s0 s) (h_now : Part.now ∈ ps) (h_free : Part.free ∈ ps) (h_regs : Part.regs ∈ ps) (h_pwm : Part.pwm ∈ ps) (h_gdl : Part.gdl ∈ ps) (h_trp : Part.trp ∈ ps) (h_nt : Part.nt ∈ ps) (h_cmd : Part.cmd ∈ ps) (h_log : Part.log ∈ ps) (h_acq : Part.acq ∈ ps) (h_host : Part.host ∈ ps) (h_twn : Part.twn ∈ ps) (h_mgt : Part.mgt ∈ ps) :
    ∀ out, execClearEvaluation s = .next out → Only ps s0 out := by
  unfold execClearEvaluation
  intro out e
  split at e <;> cases e <;> simp (maxDischargeDepth := 200) +contextual only [only_evalClear, h, h_now, h_free, h_regs, h_pwm, h_gdl, h_trp, h_nt, h_cmd, h_log, h_acq, h_host, h_twn, h_mgt]

theorem only_execTripClockNtSet {ps : List Part} {s0 : State} (s : State) (h : Only ps s0 s) (h_now : Part.now ∈ ps) (h_trp : Part.trp ∈ ps) (h_nt : Part.nt ∈ ps) :
    ∀ out, execTripClockNtSet s = .next out → Only ps s0 out := by
  unfold execTripClockNtSet
  intro out e
  dsimp only at e
  repeat' split at e
  all_goals (cases e; simp (maxDischargeDepth := 200) +contextual only [only_advanceTo, only_setTripClock, h, h_now, h_trp, h_nt])

theorem only_execTripInActive {ps : List Part} {s0 : State} (i : Fin 16) (level : Bool) (s : State) (h : Only ps s0 s) (h_free : Part.free ∈ ps) (h_regs : Part.regs ∈ ps) (h_pwm : Part.pwm ∈ ps) (h_gdl : Part.gdl ∈ ps) (h_trp : Part.trp ∈ ps) (h_nt : Part.nt ∈ ps) (h_log : Part.log ∈ ps) (h_acq : Part.acq ∈ ps) (h_twn : Part.twn ∈ ps) :
    ∀ out, execTripInActive i level s = .next out → Only ps s0 out := by
  unfold execTripInActive
  intro out e
  dsimp only at e
  repeat' split at e
  all_goals (cases e; simp (maxDischargeDepth := 200) +contextual only [only_acqOffer, only_tripInLatch, only_mk, or_true, true_or, h, h_free, h_regs, h_pwm, h_gdl, h_trp, h_nt, h_log, h_acq, h_twn])

theorem only_execTrpClear {ps : List Part} {s0 : State} (c : Src) (p : Bytes) (s : State) (h : Only ps s0 s) (h_now : Part.now ∈ ps) (h_free : Part.free ∈ ps) (h_regs : Part.regs ∈ ps) (h_pwm : Part.pwm ∈ ps) (h_gdl : Part.gdl ∈ ps) (h_trp : Part.trp ∈ ps) (h_nt : Part.nt ∈ ps) (h_cmd : Part.cmd ∈ ps) (h_log : Part.log ∈ ps) (h_acq : Part.acq ∈ ps) (h_host : Part.host ∈ ps) (h_twn : Part.twn ∈ ps) (h_mgt : Part.mgt ∈ ps) :
    ∀ out, execTrpClear c p s = .next out → Only ps s0 out := by
  unfold execTrpClear
  intro out e
  cases e
  simp (maxDischargeDepth := 200) +contextual only [only_obey, only_startClear, h, h_now, h_free, h_regs, h_pwm, h_gdl, h_trp, h_nt, h_cmd, h_log, h_acq, h_host, h_twn, h_mgt, implies_true]

theorem only_execTrpRecRead {ps : List Part} {s0 : State} (s : State) (h : Only ps s0 s) (h_bus : Part.bus ∈ ps) (h_trp : Part.trp ∈ ps) :
    ∀ out, execTrpRecRead s = .next out → Only ps s0 out := by
  unfold execTrpRecRead
  intro out e
  cases e
  simp (maxDischargeDepth := 200) only [only_trpRecRead, only_mk, or_true, true_or, h, h_bus, h_trp]

theorem only_execTrpTrip {ps : List Part} {s0 : State} (c : Src) (p : Bytes) (s : State) (h : Only ps s0 s) (h_free : Part.free ∈ ps) (h_regs : Part.regs ∈ ps) (h_pwm : Part.pwm ∈ ps) (h_gdl : Part.gdl ∈ ps) (h_trp : Part.trp ∈ ps) (h_nt : Part.nt ∈ ps) (h_cmd : Part.cmd ∈ ps) (h_log : Part.log ∈ ps) (h_acq : Part.acq ∈ ps) (h_host : Part.host ∈ ps) (h_twn : Part.twn ∈ ps) (h_mgt : Part.mgt ∈ ps) :
    ∀ out, execTrpTrip c p s = .next out → Only ps s0 out := by
  unfold execTrpTrip
  intro out e
  cases e
  simp (maxDischargeDepth := 200) +contextual only [only_obey, only_trpTrip, h, h_free, h_regs, h_pwm, h_gdl, h_trp, h_nt, h_cmd, h_log, h_acq, h_host, h_twn, h_mgt, implies_true]

end Sys2Proof.Machine
end

