-- ==== Sys2Proof/Laws/OnlyPwm.lean ====
section
/-! SUPPORT. Frames of the operations and meanings of Machine/Pwm.lean: one lemma each, which names the parts of the state that may
change. -/

set_option maxRecDepth 4000

namespace Sys2Proof.Machine

theorem only_loadLevel {ps : List Part} {s0 : State} (s : State) (n : Nat) (h : Only ps s0 s) (h_regs : Part.regs ∈ ps) (h_pwm : Part.pwm ∈ ps) (h_gdl : Part.gdl ∈ ps) (h_trp : Part.trp ∈ ps) :
    Only ps s0 (State.loadLevel s n) := by
  unfold State.loadLevel
  dsimp only
  repeat' split
  all_goals simp (maxDischargeDepth := 200) +contextual only [only_forceLow, only_lvlOff, only_lvlOn, only_modChan, only_riseAgain, h, h_regs, h_pwm, h_gdl, h_trp]

theorem only_loadWords {ps : List Part} {s0 : State} (s : State) (n : Nat) (ofs : Nat) (h : Only ps s0 s) (h_pwm : Part.pwm ∈ ps) :
    Only ps s0 (State.loadWords s n ofs) := by
  unfold State.loadWords
  simp (maxDischargeDepth := 200) +contextual only [only_modChan, h, h_pwm]

theorem only_loadList {ps : List Part} {s0 : State} (s : State) (l : List Nat) (ofs : Nat) (h : Only ps s0 s) (h_regs : Part.regs ∈ ps) (h_pwm : Part.pwm ∈ ps) (h_gdl : Part.gdl ∈ ps) (h_trp : Part.trp ∈ ps) :
    Only ps s0 (State.loadList s l ofs) := by
  unfold State.loadList
  simp (maxDischargeDepth := 200) +contextual only [only_loadLevel, only_loadWords, only_overlapsGone, only_forNums, h, h_regs, h_pwm, h_gdl, h_trp, implies_true]

theorem only_takeCompares {ps : List Part} {s0 : State} (s : State) (n : Nat) (h : Only ps s0 s) (h_pwm : Part.pwm ∈ ps) :
    Only ps s0 (State.takeCompares s n) := by
  unfold State.takeCompares
  simp (maxDischargeDepth := 200) +contextual only [only_modChan, h, h_pwm]

theorem only_allOffSets {ps : List Part} {s0 : State} (s : State) (h : Only ps s0 s) (h_pwm : Part.pwm ∈ ps) :
    Only ps s0 (State.allOffSets s) := by
  unfold State.allOffSets
  simp (maxDischargeDepth := 200) +contextual only [only_modChan, only_forNums, h, h_pwm, implies_true]

theorem only_stackBack {ps : List Part} {s0 : State} (s : State) (k : Nat) (h : Only ps s0 s) (h_pwm : Part.pwm ∈ ps) (h_gdl : Part.gdl ∈ ps) (h_trp : Part.trp ∈ ps) :
    Only ps s0 (State.stackBack s k) := by
  unfold State.stackBack
  simp (maxDischargeDepth := 200) +contextual only [only_riseAgain, only_tryRise, only_forNums, h, h_pwm, h_gdl, h_trp, implies_true]

theorem only_realign {ps : List Part} {s0 : State} (s : State) (t : Nat) (units : Int) (h : Only ps s0 s) (h_pwm : Part.pwm ∈ ps) :
    Only ps s0 (State.realign s t units) := by
  unfold State.realign
  simp (maxDischargeDepth := 200) only [only_modTb, h, h_pwm]

theorem only_follow {ps : List Part} {s0 : State} (s : State) (f : Nat) (src : Nat) (delta : Int) (h : Only ps s0 s) (h_pwm : Part.pwm ∈ ps) :
    Only ps s0 (State.follow s f src delta) := by
  unfold State.follow
  simp (maxDischargeDepth := 200) only [only_modTb, only_realign, only_ite, h, h_pwm]

theorem only_loadChans {ps : List Part} {s0 : State} (s : State) (t : Nat) (ofs : Nat) (h : Only ps s0 s) (h_regs : Part.regs ∈ ps) (h_pwm : Part.pwm ∈ ps) (h_gdl : Part.gdl ∈ ps) (h_trp : Part.trp ∈ ps) :
    Only ps s0 (State.loadChans s t ofs) := by
  unfold State.loadChans
  simp (maxDischargeDepth := 200) +contextual only [only_loadList, h, h_regs, h_pwm, h_gdl, h_trp]

theorem only_slotError {ps : List Part} {s0 : State} (s : State) (t : Nat) (h : Only ps s0 s) (h_pwm : Part.pwm ∈ ps) :
    Only ps s0 (State.slotError s t).2 := by
  unfold State.slotError
  simp (maxDischargeDepth := 200) only [only_modTb, h, h_pwm]

theorem only_ntZero {ps : List Part} {s0 : State} (s : State) (t : Nat) (busy : Bool) (fresh : Bool) (moved : Option Int) (h : Only ps s0 s) (h_pwm : Part.pwm ∈ ps) :
    Only ps s0 (State.ntZero s t busy fresh moved) := by
  unfold State.ntZero
  dsimp only
  repeat' split
  all_goals simp (maxDischargeDepth := 200) +contextual only [only_modTb, only_realign, only_slotError, h, h_pwm]

theorem only_syncPulse {ps : List Part} {s0 : State} (s : State) (h : Only ps s0 s) (h_regs : Part.regs ∈ ps) (h_pwm : Part.pwm ∈ ps) :
    Only ps s0 (State.syncPulse s) := by
  unfold State.syncPulse
  simp (maxDischargeDepth := 200) only [only_count, only_modTb, only_realign, only_ite, only_mk, or_true, true_or, h, h_regs, h_pwm]

theorem only_tailEdges {ps : List Part} {s0 : State} (s : State) (n : Nat) (h : Only ps s0 s) (h_regs : Part.regs ∈ ps) (h_pwm : Part.pwm ∈ ps) (h_gdl : Part.gdl ∈ ps) (h_trp : Part.trp ∈ ps) :
    Only ps s0 (State.tailEdges s n) := by
  unfold State.tailEdges
  simp (maxDischargeDepth := 200) +contextual only [only_modChan, only_ite, h, h_pwm]

theorem only_tbSettings {ps : List Part} {s0 : State} (s : State) (t : Nat) (h : Only ps s0 s) (h_pwm : Part.pwm ∈ ps) :
    Only ps s0 (State.tbSettings s t) := by
  unfold State.tbSettings
  simp (maxDischargeDepth := 200) only [only_modTb, h, h_pwm]

theorem only_tbCommit {ps : List Part} {s0 : State} (s : State) (t : Nat) (h : Only ps s0 s) (h_pwm : Part.pwm ∈ ps) :
    Only ps s0 (State.tbCommit s t) := by
  unfold State.tbCommit
  dsimp only
  repeat' split
  all_goals simp (maxDischargeDepth := 200) +contextual only [only_modTb, only_tbSettings, h, h_pwm]

theorem only_tbStart {ps : List Part} {s0 : State} (s : State) (t : Nat) (nt : Option DWord) (h : Only ps s0 s) (h_regs : Part.regs ∈ ps) (h_meas : Part.meas ∈ ps) (h_pwm : Part.pwm ∈ ps) (h_trp : Part.trp ∈ ps) :
    Only ps s0 (State.tbStart s t nt) := by
  unfold State.tbStart
  simp (maxDischargeDepth := 200) only [only_dumpAlign, only_follow, only_modTb, only_setTripClock, only_tbSettings, only_ite, only_mk, or_true, true_or, h, h_regs, h_meas, h_pwm, h_trp]

theorem only_tbStop {ps : List Part} {s0 : State} (s : State) (t : Nat) (h : Only ps s0 s) (h_regs : Part.regs ∈ ps) (h_pwm : Part.pwm ∈ ps) (h_gdl : Part.gdl ∈ ps) (h_trp : Part.trp ∈ ps) :
    Only ps s0 (State.tbStop s t) := by
  unfold State.tbStop
  simp (maxDischargeDepth := 200) +contextual only [only_forceLows, only_modTb, only_takeCompares, only_forNums, h, h_regs, h_pwm, h_gdl, h_trp, implies_true]

theorem only_tbZero {ps : List Part} {s0 : State} (s : State) (t : Nat) (h : Only ps s0 s) (h_regs : Part.regs ∈ ps) (h_meas : Part.meas ∈ ps) (h_pwm : Part.pwm ∈ ps) (h_trp : Part.trp ∈ ps) :
    Only ps s0 (State.tbZero s t) := by
  unfold State.tbZero
  simp (maxDischargeDepth := 200) only [only_count, only_dumpAlign, only_follow, only_modTb, only_ntZero, only_setTripClock, only_tbSettings, only_ite, only_mk, or_true, true_or, h, h_regs, h_meas, h_pwm, h_trp]

theorem only_execCompareEdge {ps : List Part} {s0 : State} (n : Fin 192) (rising : Bool) (s : State) (h : Only ps s0 s) (h_now : Part.now ∈ ps) (h_regs : Part.regs ∈ ps) (h_pwm : Part.pwm ∈ ps) (h_gdl : Part.gdl ∈ ps) (h_trp : Part.trp ∈ ps) (h_nt : Part.nt ∈ ps) :
    ∀ out, execCompareEdge n rising s = .next out → Only ps s0 out := by
  unfold execCompareEdge
  intro out e
  dsimp only at e
  repeat' split at e
  all_goals (cases e; simp (maxDischargeDepth := 200) +contextual only [only_advanceTo, only_fallingEdge, only_risingEdge, h, h_now, h_regs, h_pwm, h_gdl, h_trp, h_nt])

theorem only_execDeadTimeExpiry {ps : List Part} {s0 : State} (n : Fin 192) (s : State) (h : Only ps s0 s) (h_now : Part.now ∈ ps) (h_pwm : Part.pwm ∈ ps) (h_gdl : Part.gdl ∈ ps) (h_nt : Part.nt ∈ ps) :
    ∀ out, execDeadTimeExpiry n s = .next out → Only ps s0 out := by
  unfold execDeadTimeExpiry
  intro out e
  split at e <;> cases e <;> simp (maxDischargeDepth := 200) +contextual only [only_advanceTo, only_expireWait, h, h_now, h_pwm, h_gdl, h_nt]

theorem only_execInnerTurnOff {ps : List Part} {s0 : State} (k : Fin 16) (s : State) (h : Only ps s0 s) (h_now : Part.now ∈ ps) (h_regs : Part.regs ∈ ps) (h_pwm : Part.pwm ∈ ps) (h_gdl : Part.gdl ∈ ps) (h_trp : Part.trp ∈ ps) (h_nt : Part.nt ∈ ps) :
    ∀ out, execInnerTurnOff k s = .next out → Only ps s0 out := by
  unfold execInnerTurnOff
  intro out e
  split at e <;> cases e <;> simp (maxDischargeDepth := 200) +contextual only [only_advanceTo, only_innerOff, h, h_now, h_regs, h_pwm, h_gdl, h_trp, h_nt]

theorem only_execSyncInMiss {ps : List Part} {s0 : State} (s : State) (h : Only ps s0 s) (h_regs : Part.regs ∈ ps) (h_pwm : Part.pwm ∈ ps) :
    ∀ out, execSyncInMiss s = .next out → Only ps s0 out := by
  unfold execSyncInMiss
  intro out e
  dsimp only at e
  repeat' split at e
  all_goals (cases e; simp (maxDischargeDepth := 200) +contextual only [only_count, only_modTb, only_mk, or_true, true_or, h, h_regs, h_pwm])

theorem only_execSyncInPulse {ps : List Part} {s0 : State} (s : State) (h : Only ps s0 s) (h_regs : Part.regs ∈ ps) (h_pwm : Part.pwm ∈ ps) :
    ∀ out, execSyncInPulse s = .next out → Only ps s0 out := by
  unfold execSyncInPulse
  intro out e
  cases e
  simp (maxDischargeDepth := 200) only [only_syncPulse, h, h_regs, h_pwm]

end Sys2Proof.Machine
end

