-- ==== Sys2Proof/Laws/OnlyGates.lean ====
section
/-! SUPPORT. Frames of the operations and meanings of Machine/Gates.lean: one lemma each, which names the parts of the state that may
change. -/

set_option maxRecDepth 4000

namespace Sys2Proof.Machine

theorem only_returnAcks {ps : List Part} {s0 : State} (s : State) (k : Nat) (ga : Nat) (h : Only ps s0 s) (h_pwm : Part.pwm ∈ ps) :
    Only ps s0 (State.returnAcks s k ga) := by
  unfold State.returnAcks
  simp (maxDischargeDepth := 200) +contextual only [only_modChan, only_forNums, h, h_pwm, implies_true]

theorem only_trainTaken {ps : List Part} {s0 : State} (s : State) (k : Nat) (h : Only ps s0 s) (h_regs : Part.regs ∈ ps) :
    Only ps s0 (State.trainTaken s k) := by
  unfold State.trainTaken
  simp (maxDischargeDepth := 200) +contextual only [only_setRegN, h, h_regs]

theorem only_dropClears {ps : List Part} {s0 : State} (s : State) (k : Nat) (h : Only ps s0 s) (h_trp : Part.trp ∈ ps) :
    Only ps s0 (State.dropClears s k) := by
  unfold State.dropClears
  simp (maxDischargeDepth := 200) +contextual only [only_mk, or_true, true_or, h, h_trp]

theorem only_ostTailEnd {ps : List Part} {s0 : State} (s : State) (k : Nat) (h : Only ps s0 s) (h_free : Part.free ∈ ps) (h_regs : Part.regs ∈ ps) (h_pwm : Part.pwm ∈ ps) (h_gdl : Part.gdl ∈ ps) (h_trp : Part.trp ∈ ps) (h_nt : Part.nt ∈ ps) (h_log : Part.log ∈ ps) (h_acq : Part.acq ∈ ps) (h_twn : Part.twn ∈ ps) :
    Only ps s0 (State.ostTailEnd s k) := by
  unfold State.ostTailEnd
  simp (maxDischargeDepth := 200) +contextual only [only_fltStanding, only_modGs, only_ite, h, h_free, h_regs, h_pwm, h_gdl, h_trp, h_nt, h_log, h_acq, h_twn]

theorem only_ackLate {ps : List Part} {s0 : State} (s : State) (n : Nat) (t : Nat) (h : Only ps s0 s) (h_free : Part.free ∈ ps) (h_regs : Part.regs ∈ ps) (h_pwm : Part.pwm ∈ ps) (h_gdl : Part.gdl ∈ ps) (h_trp : Part.trp ∈ ps) (h_nt : Part.nt ∈ ps) (h_log : Part.log ∈ ps) (h_acq : Part.acq ∈ ps) (h_twn : Part.twn ∈ ps) :
    Only ps s0 (State.ackLate s n t) := by
  unfold State.ackLate
  simp (maxDischargeDepth := 200) +contextual only [only_count, only_gdlTrip, only_modChan, only_modGs, only_ite, h, h_free, h_regs, h_pwm, h_gdl, h_trp, h_nt, h_log, h_acq, h_twn]

theorem only_ackJudge {ps : List Part} {s0 : State} (s : State) (n : Nat) (h : Only ps s0 s) (h_free : Part.free ∈ ps) (h_regs : Part.regs ∈ ps) (h_pwm : Part.pwm ∈ ps) (h_gdl : Part.gdl ∈ ps) (h_trp : Part.trp ∈ ps) (h_nt : Part.nt ∈ ps) (h_log : Part.log ∈ ps) (h_acq : Part.acq ∈ ps) (h_twn : Part.twn ∈ ps) :
    Only ps s0 (State.ackJudge s n) := by
  unfold State.ackJudge
  split <;> simp (maxDischargeDepth := 200) +contextual only [only_ackLate, only_ite, h, h_free, h_regs, h_pwm, h_gdl, h_trp, h_nt, h_log, h_acq, h_twn]

theorem only_ackOverdue {ps : List Part} {s0 : State} (s : State) (h : Only ps s0 s) (h_free : Part.free ∈ ps) (h_regs : Part.regs ∈ ps) (h_pwm : Part.pwm ∈ ps) (h_gdl : Part.gdl ∈ ps) (h_trp : Part.trp ∈ ps) (h_nt : Part.nt ∈ ps) (h_log : Part.log ∈ ps) (h_acq : Part.acq ∈ ps) (h_twn : Part.twn ∈ ps) :
    Only ps s0 (State.ackOverdue s) := by
  unfold State.ackOverdue
  simp (maxDischargeDepth := 200) +contextual only [only_ackJudge, only_forNums, only_ite, h, h_free, h_regs, h_pwm, h_gdl, h_trp, h_nt, h_log, h_acq, h_twn, implies_true]

theorem only_dupCount {ps : List Part} {s0 : State} (s : State) (k : Nat) (h : Only ps s0 s) (h_free : Part.free ∈ ps) (h_regs : Part.regs ∈ ps) :
    Only ps s0 (State.dupCount s k) := by
  unfold State.dupCount
  simp (maxDischargeDepth := 200) +contextual only [only_count, only_draw, only_ite, h, h_free, h_regs]

theorem only_testCode {ps : List Part} {s0 : State} (s : State) (k : Nat) (j : Nat) (w : Option Word) (h : Only ps s0 s) (h_free : Part.free ∈ ps) (h_gdl : Part.gdl ∈ ps) :
    Only ps s0 (State.testCode s k j w) := by
  unfold State.testCode
  dsimp only
  repeat' split
  all_goals simp (maxDischargeDepth := 200) +contextual only [only_draw, only_modGs, h, h_free, h_gdl]

theorem only_ringNext {ps : List Part} {s0 : State} (s : State) (k : Nat) (ended : Bool) (h : Only ps s0 s) (h_gdl : Part.gdl ∈ ps) (h_trp : Part.trp ∈ ps) :
    Only ps s0 (State.ringNext s k ended) := by
  unfold State.ringNext
  simp (maxDischargeDepth := 200) +contextual only [only_modGs, only_ite, only_mk, or_true, true_or, h, h_gdl, h_trp]

theorem only_tripsStanding {ps : List Part} {s0 : State} (s : State) (h : Only ps s0 s) (h_free : Part.free ∈ ps) (h_regs : Part.regs ∈ ps) (h_pwm : Part.pwm ∈ ps) (h_gdl : Part.gdl ∈ ps) (h_trp : Part.trp ∈ ps) (h_nt : Part.nt ∈ ps) (h_log : Part.log ∈ ps) (h_acq : Part.acq ∈ ps) (h_twn : Part.twn ∈ ps) :
    Only ps s0 (State.tripsStanding s) := by
  unfold State.tripsStanding
  simp (maxDischargeDepth := 200) +contextual only [only_fltStanding, only_gdlTrip, only_latch, only_tripInsStanding, only_forNums, only_ite, h, h_free, h_regs, h_pwm, h_gdl, h_trp, h_nt, h_log, h_acq, h_twn, implies_true]

theorem only_drvGood {ps : List Part} {s0 : State} (s : State) (k : Nat) (j : Nat) (old : Word) (w : Word) (h : Only ps s0 s) (h_free : Part.free ∈ ps) (h_regs : Part.regs ∈ ps) (h_pwm : Part.pwm ∈ ps) (h_gdl : Part.gdl ∈ ps) (h_trp : Part.trp ∈ ps) (h_nt : Part.nt ∈ ps) (h_log : Part.log ∈ ps) (h_acq : Part.acq ∈ ps) (h_twn : Part.twn ∈ ps) :
    Only ps s0 (State.drvGood s k j old w) := by
  unfold State.drvGood
  simp (maxDischargeDepth := 200) +contextual only [only_count, only_gdlTrip, only_modGs, only_note, only_ite, h, h_free, h_regs, h_pwm, h_gdl, h_trp, h_nt, h_log, h_acq, h_twn]

theorem only_drvSent {ps : List Part} {s0 : State} (s : State) (k : Nat) (h : Only ps s0 s) (h_gdl : Part.gdl ∈ ps) (h_trp : Part.trp ∈ ps) :
    Only ps s0 (State.drvSent s k) := by
  unfold State.drvSent
  simp (maxDischargeDepth := 200) only [only_modGs, only_ite, only_mk, or_true, true_or, h, h_gdl, h_trp]

theorem only_drvWord {ps : List Part} {s0 : State} (s : State) (k : Nat) (j : Nat) (w : Word) (h : Only ps s0 s) (h_free : Part.free ∈ ps) (h_regs : Part.regs ∈ ps) (h_pwm : Part.pwm ∈ ps) (h_gdl : Part.gdl ∈ ps) (h_trp : Part.trp ∈ ps) (h_nt : Part.nt ∈ ps) (h_log : Part.log ∈ ps) (h_acq : Part.acq ∈ ps) (h_twn : Part.twn ∈ ps) :
    Only ps s0 (State.drvWord s k j w) := by
  unfold State.drvWord
  simp (maxDischargeDepth := 200) +contextual only [only_drvGood, only_modGs, only_setRegN, only_ite, h, h_free, h_regs, h_pwm, h_gdl, h_trp, h_nt, h_log, h_acq, h_twn]

theorem only_nodeWord {ps : List Part} {s0 : State} (s : State) (k : Nat) (j : Nat) (w : Option Word) (h : Only ps s0 s) (h_free : Part.free ∈ ps) (h_regs : Part.regs ∈ ps) (h_pwm : Part.pwm ∈ ps) (h_gdl : Part.gdl ∈ ps) (h_trp : Part.trp ∈ ps) (h_nt : Part.nt ∈ ps) (h_log : Part.log ∈ ps) (h_acq : Part.acq ∈ ps) (h_twn : Part.twn ∈ ps) :
    Only ps s0 (State.nodeWord s k j w) := by
  unfold State.nodeWord
  dsimp only
  repeat' split
  all_goals simp (maxDischargeDepth := 200) +contextual only [only_drvWord, only_modGs, h, h_free, h_regs, h_pwm, h_gdl, h_trp, h_nt, h_log, h_acq, h_twn]

theorem only_echo {ps : List Part} {s0 : State} (s : State) (n : Nat) (level : Bool) (h : Only ps s0 s) (h_gdl : Part.gdl ∈ ps) :
    Only ps s0 (State.echo s n level) := by
  unfold State.echo
  split <;> simp (maxDischargeDepth := 200) only [only_modGs, only_ite, h, h_gdl]

theorem only_gaAccept {ps : List Part} {s0 : State} (s : State) (n : Nat) (level : Bool) (h : Only ps s0 s) (h_pwm : Part.pwm ∈ ps) (h_gdl : Part.gdl ∈ ps) :
    Only ps s0 (State.gaAccept s n level) := by
  unfold State.gaAccept
  simp (maxDischargeDepth := 200) only [only_echo, only_modChan, only_tryRise, only_ite, h, h_pwm, h_gdl]

theorem only_gdlFlag {ps : List Part} {s0 : State} (s : State) (k : Nat) (bit : Nat) (h : Only ps s0 s) (h_regs : Part.regs ∈ ps) (h_log : Part.log ∈ ps) :
    Only ps s0 (State.gdlFlag s k bit) := by
  unfold State.gdlFlag
  simp (maxDischargeDepth := 200) +contextual only [only_logFlag, only_setFlag, h, h_regs, h_log]

theorem only_returnTwin {ps : List Part} {s0 : State} (s : State) (k : Nat) (h : Only ps s0 s) (h_regs : Part.regs ∈ ps) (h_log : Part.log ∈ ps) (h_twn : Part.twn ∈ ps) :
    Only ps s0 (State.returnTwin s k) := by
  unfold State.returnTwin
  simp (maxDischargeDepth := 200) +contextual only [only_disagree, only_gdlFlag, only_modTwn, only_ite, h, h_regs, h_log, h_twn]

theorem only_returnStatus {ps : List Part} {s0 : State} (s : State) (k : Nat) (st : Nat) (node : Nat) (h : Only ps s0 s) (h_free : Part.free ∈ ps) (h_regs : Part.regs ∈ ps) (h_pwm : Part.pwm ∈ ps) (h_gdl : Part.gdl ∈ ps) (h_trp : Part.trp ∈ ps) (h_nt : Part.nt ∈ ps) (h_log : Part.log ∈ ps) (h_acq : Part.acq ∈ ps) (h_twn : Part.twn ∈ ps) :
    Only ps s0 (State.returnStatus s k st node) := by
  unfold State.returnStatus
  simp (maxDischargeDepth := 200) +contextual only [only_count, only_gdlTrip, only_latch, only_returnTwin, only_ite, h, h_free, h_regs, h_pwm, h_gdl, h_trp, h_nt, h_log, h_acq, h_twn]

theorem only_trainLink {ps : List Part} {s0 : State} (s : State) (k : Nat) (h : Only ps s0 s) (h_regs : Part.regs ∈ ps) (h_meas : Part.meas ∈ ps) (h_pwm : Part.pwm ∈ ps) (h_gdl : Part.gdl ∈ ps) (h_trp : Part.trp ∈ ps) :
    Only ps s0 (State.trainLink s k) := by
  unfold State.trainLink
  simp (maxDischargeDepth := 200) +contextual only [only_beginTurnOff, only_dropClears, only_modGs, only_transmit, only_ite, only_mk, or_true, true_or, h, h_regs, h_meas, h_pwm, h_gdl, h_trp]

theorem only_train {ps : List Part} {s0 : State} (s : State) (mask : Nat) (h : Only ps s0 s) (h_regs : Part.regs ∈ ps) (h_meas : Part.meas ∈ ps) (h_pwm : Part.pwm ∈ ps) (h_gdl : Part.gdl ∈ ps) (h_trp : Part.trp ∈ ps) :
    Only ps s0 (State.train s mask) := by
  unfold State.train
  simp (maxDischargeDepth := 200) +contextual only [only_trainLink, only_forNums, only_ite, h, h_regs, h_meas, h_pwm, h_gdl, h_trp, implies_true]

theorem only_trainComplete {ps : List Part} {s0 : State} (s : State) (h : Only ps s0 s) (h_regs : Part.regs ∈ ps) (h_gdl : Part.gdl ∈ ps) (h_cmd : Part.cmd ∈ ps) (h_host : Part.host ∈ ps) (h_twn : Part.twn ∈ ps) (h_mgt : Part.mgt ∈ ps) :
    Only ps s0 (State.trainComplete s) := by
  unfold State.trainComplete
  simp (maxDischargeDepth := 200) +contextual only [only_done, only_mk, or_true, true_or, h, h_regs, h_gdl, h_cmd, h_host, h_twn, h_mgt, only_foldl, implies_true]

theorem only_linkTrain {ps : List Part} {s0 : State} (s : State) (c : Src) (p : Bytes) (h : Only ps s0 s) (h_regs : Part.regs ∈ ps) (h_meas : Part.meas ∈ ps) (h_pwm : Part.pwm ∈ ps) (h_gdl : Part.gdl ∈ ps) (h_trp : Part.trp ∈ ps) (h_cmd : Part.cmd ∈ ps) (h_host : Part.host ∈ ps) (h_twn : Part.twn ∈ ps) (h_mgt : Part.mgt ∈ ps) :
    Only ps s0 (State.linkTrain s c p) := by
  unfold State.linkTrain
  simp (maxDischargeDepth := 200) +contextual only [only_refuse, only_setRegN, only_train, only_trainComplete, only_ite, only_mk, or_true, true_or, h, h_regs, h_meas, h_pwm, h_gdl, h_trp, h_cmd, h_host, h_twn, h_mgt]

theorem only_ostBegin {ps : List Part} {s0 : State} (s : State) (k : Nat) (h : Only ps s0 s) (h_regs : Part.regs ∈ ps) (h_gdl : Part.gdl ∈ ps) (h_trp : Part.trp ∈ ps) :
    Only ps s0 (State.ostBegin s k) := by
  unfold State.ostBegin
  simp (maxDischargeDepth := 200) +contextual only [only_modGs, only_ringNext, only_setRegN, only_ite, h, h_regs, h_gdl, h_trp]

theorem only_ostFinish {ps : List Part} {s0 : State} (s : State) (k : Nat) (h : Only ps s0 s) (h_free : Part.free ∈ ps) (h_regs : Part.regs ∈ ps) (h_pwm : Part.pwm ∈ ps) (h_gdl : Part.gdl ∈ ps) (h_trp : Part.trp ∈ ps) (h_nt : Part.nt ∈ ps) (h_cmd : Part.cmd ∈ ps) (h_log : Part.log ∈ ps) (h_acq : Part.acq ∈ ps) (h_host : Part.host ∈ ps) (h_twn : Part.twn ∈ ps) (h_mgt : Part.mgt ∈ ps) :
    Only ps s0 (State.ostFinish s k) := by
  unfold State.ostFinish
  simp (maxDischargeDepth := 200) +contextual only [only_fltStanding, only_modGs, only_ostComplete, only_setRegN, only_ite, h, h_free, h_regs, h_pwm, h_gdl, h_trp, h_nt, h_cmd, h_log, h_acq, h_host, h_twn, h_mgt]

theorem only_ostRingCycle {ps : List Part} {s0 : State} (s : State) (k : Nat) (words : List Word) (h : Only ps s0 s) (h_free : Part.free ∈ ps) (h_regs : Part.regs ∈ ps) (h_pwm : Part.pwm ∈ ps) (h_gdl : Part.gdl ∈ ps) (h_trp : Part.trp ∈ ps) (h_nt : Part.nt ∈ ps) (h_cmd : Part.cmd ∈ ps) (h_log : Part.log ∈ ps) (h_acq : Part.acq ∈ ps) (h_host : Part.host ∈ ps) (h_twn : Part.twn ∈ ps) (h_mgt : Part.mgt ∈ ps) :
    Only ps s0 (State.ostRingCycle s k words) := by
  unfold State.ostRingCycle
  simp (maxDischargeDepth := 200) +contextual only [only_modGs, only_ostFinish, only_testCode, only_forNums, only_ite, h, h_free, h_regs, h_pwm, h_gdl, h_trp, h_nt, h_cmd, h_log, h_acq, h_host, h_twn, h_mgt, implies_true]

theorem only_ostStart {ps : List Part} {s0 : State} (s : State) (mask : Nat) (h : Only ps s0 s) (h_regs : Part.regs ∈ ps) (h_gdl : Part.gdl ∈ ps) (h_trp : Part.trp ∈ ps) :
    Only ps s0 (State.ostStart s mask) := by
  unfold State.ostStart
  simp (maxDischargeDepth := 200) +contextual only [only_ostBegin, only_forNums, h, h_regs, h_gdl, h_trp, implies_true]

theorem only_ostRun {ps : List Part} {s0 : State} (s : State) (c : Src) (p : Bytes) (h : Only ps s0 s) (h_regs : Part.regs ∈ ps) (h_gdl : Part.gdl ∈ ps) (h_trp : Part.trp ∈ ps) (h_cmd : Part.cmd ∈ ps) (h_host : Part.host ∈ ps) (h_twn : Part.twn ∈ ps) (h_mgt : Part.mgt ∈ ps) :
    Only ps s0 (State.ostRun s c p) := by
  unfold State.ostRun
  simp (maxDischargeDepth := 200) +contextual only [only_ostComplete, only_ostStart, only_refuse, only_setRegN, only_ite, only_mk, or_true, true_or, h, h_regs, h_gdl, h_trp, h_cmd, h_host, h_twn, h_mgt]

theorem only_ostWrite {ps : List Part} {s0 : State} (s : State) (mask : Nat) (h : Only ps s0 s) (h_regs : Part.regs ∈ ps) (h_gdl : Part.gdl ∈ ps) (h_trp : Part.trp ∈ ps) :
    Only ps s0 (State.ostWrite s mask) := by
  unfold State.ostWrite
  simp (maxDischargeDepth := 200) +contextual only [only_ostStart, only_setRegN, h, h_regs, h_gdl, h_trp]

theorem only_returnBad {ps : List Part} {s0 : State} (s : State) (k : Nat) (h : Only ps s0 s) (h_free : Part.free ∈ ps) (h_regs : Part.regs ∈ ps) (h_meas : Part.meas ∈ ps) (h_pwm : Part.pwm ∈ ps) (h_gdl : Part.gdl ∈ ps) (h_trp : Part.trp ∈ ps) (h_nt : Part.nt ∈ ps) (h_log : Part.log ∈ ps) (h_acq : Part.acq ∈ ps) (h_twn : Part.twn ∈ ps) :
    Only ps s0 (State.returnBad s k) := by
  unfold State.returnBad
  simp (maxDischargeDepth := 200) only [only_count, only_gdlTrip, only_modGs, only_trainLink, only_ite, h, h_free, h_regs, h_meas, h_pwm, h_gdl, h_trp, h_nt, h_log, h_acq, h_twn]

theorem only_returnDrv {ps : List Part} {s0 : State} (s : State) (k : Nat) (f : Bytes) (ostDone : Bool) (h : Only ps s0 s) (h_free : Part.free ∈ ps) (h_regs : Part.regs ∈ ps) (h_pwm : Part.pwm ∈ ps) (h_gdl : Part.gdl ∈ ps) (h_trp : Part.trp ∈ ps) (h_nt : Part.nt ∈ ps) (h_cmd : Part.cmd ∈ ps) (h_log : Part.log ∈ ps) (h_acq : Part.acq ∈ ps) (h_host : Part.host ∈ ps) (h_twn : Part.twn ∈ ps) (h_mgt : Part.mgt ∈ ps) :
    Only ps s0 (State.returnDrv s k f ostDone) := by
  unfold State.returnDrv
  simp (maxDischargeDepth := 200) +contextual only [only_drvWord, only_modGs, only_ostFinish, only_testCode, only_ite, only_mk, or_true, true_or, h, h_free, h_regs, h_pwm, h_gdl, h_trp, h_nt, h_cmd, h_log, h_acq, h_host, h_twn, h_mgt]

theorem only_takeBits {ps : List Part} {s0 : State} (s : State) (k : Nat) (f : Bytes) (h : Only ps s0 s) (h_meas : Part.meas ∈ ps) :
    Only ps s0 (State.takeBits s k f) := by
  unfold State.takeBits
  simp (maxDischargeDepth := 200) only [only_mk, or_true, true_or, h, h_meas]

theorem only_returnGood {ps : List Part} {s0 : State} (s : State) (k : Nat) (f : Bytes) (h : Only ps s0 s) (h_free : Part.free ∈ ps) (h_regs : Part.regs ∈ ps) (h_meas : Part.meas ∈ ps) (h_pwm : Part.pwm ∈ ps) (h_gdl : Part.gdl ∈ ps) (h_trp : Part.trp ∈ ps) (h_nt : Part.nt ∈ ps) (h_cmd : Part.cmd ∈ ps) (h_log : Part.log ∈ ps) (h_acq : Part.acq ∈ ps) (h_host : Part.host ∈ ps) (h_twn : Part.twn ∈ ps) (h_mgt : Part.mgt ∈ ps) :
    Only ps s0 (State.returnGood s k f) := by
  unfold State.returnGood
  simp (maxDischargeDepth := 200) +contextual only [only_dupCount, only_modGs, only_ostGuard, only_returnAcks, only_returnDrv, only_returnStatus, only_takeBits, h, h_free, h_regs, h_meas, h_pwm, h_gdl, h_trp, h_nt, h_cmd, h_log, h_acq, h_host, h_twn, h_mgt]

theorem only_ringForClear {ps : List Part} {s0 : State} (s : State) (k : Nat) (h : Only ps s0 s) (h_trp : Part.trp ∈ ps) :
    Only ps s0 (State.ringForClear s k) := by
  unfold State.ringForClear
  simp (maxDischargeDepth := 200) only [only_mk, or_true, true_or, h, h_trp]

theorem only_ringCycle {ps : List Part} {s0 : State} (s : State) (k : Nat) (words : List Word) (h : Only ps s0 s) (h_now : Part.now ∈ ps) (h_free : Part.free ∈ ps) (h_regs : Part.regs ∈ ps) (h_pwm : Part.pwm ∈ ps) (h_gdl : Part.gdl ∈ ps) (h_trp : Part.trp ∈ ps) (h_nt : Part.nt ∈ ps) (h_cmd : Part.cmd ∈ ps) (h_log : Part.log ∈ ps) (h_acq : Part.acq ∈ ps) (h_host : Part.host ∈ ps) (h_twn : Part.twn ∈ ps) (h_mgt : Part.mgt ∈ ps) :
    Only ps s0 (State.ringCycle s k words) := by
  unfold State.ringCycle
  extract_lets sg g test s1 nodes s2 third s6 s7 s3 allGood s4 s5
  have hg : Only ps s0 sg := by simp (maxDischargeDepth := 200) only [sg, only_ostGuard, h, h_free, h_regs, h_pwm, h_gdl, h_trp, h_nt, h_cmd, h_log, h_acq, h_host, h_twn, h_mgt]
  have h1 : Only ps s0 s1 := by simp (maxDischargeDepth := 200) only [s1, only_ite, only_advanceTo, hg, h_now, h_nt]
  have h2 : Only ps s0 s2 := by
    refine only_forNums _ _ (fun j u hu => ?_) h1
    simp (maxDischargeDepth := 200) only [only_nodeWord, hu, h_free, h_regs, h_pwm, h_gdl, h_trp, h_nt, h_log, h_acq, h_twn]
  have h7 : Only ps s0 s7 := by simp (maxDischargeDepth := 200) only [s7, s6, only_logFlag, only_setFlag, only_modGs, h2, h_regs, h_gdl, h_log]
  have h3 : Only ps s0 s3 := by
    unfold s3
    generalize third = l
    cases l with
    | nil => exact h2
    | cons j tail => simp (maxDischargeDepth := 200) only [only_ite, only_latch, h7, h_free, h_regs, h_pwm, h_gdl, h_trp, h_nt, h_log, h_acq, h_twn]
  have h5 : Only ps s0 s5 := by simp (maxDischargeDepth := 200) only [s5, s4, only_ite, only_ostRingCycle, only_ostTailEnd, only_modGs, h3, h_free, h_regs, h_pwm, h_gdl, h_trp, h_nt, h_cmd, h_log, h_acq, h_host, h_twn, h_mgt]
  simp (maxDischargeDepth := 200) only [only_ringNext, only_ringForClear, h5, h_gdl, h_trp]

theorem only_trainEnd {ps : List Part} {s0 : State} (s : State) (k : Nat) (r : TrainResult) (h : Only ps s0 s) (h_now : Part.now ∈ ps) (h_regs : Part.regs ∈ ps) (h_gdl : Part.gdl ∈ ps) (h_nt : Part.nt ∈ ps) (h_cmd : Part.cmd ∈ ps) (h_log : Part.log ∈ ps) (h_host : Part.host ∈ ps) (h_twn : Part.twn ∈ ps) (h_mgt : Part.mgt ∈ ps) :
    Only ps s0 (State.trainEnd s k r) := by
  unfold State.trainEnd
  simp (maxDischargeDepth := 200) +contextual only [only_advanceTo, only_gdlFlag, only_modGs, only_setRegN, only_trainComplete, only_trainTaken, only_ite, h, h_now, h_regs, h_gdl, h_nt, h_cmd, h_log, h_host, h_twn, h_mgt]

theorem only_trainWrite {ps : List Part} {s0 : State} (s : State) (mask : Nat) (h : Only ps s0 s) (h_regs : Part.regs ∈ ps) (h_meas : Part.meas ∈ ps) (h_pwm : Part.pwm ∈ ps) (h_gdl : Part.gdl ∈ ps) (h_trp : Part.trp ∈ ps) :
    Only ps s0 (State.trainWrite s mask) := by
  unfold State.trainWrite
  simp (maxDischargeDepth := 200) +contextual only [only_setRegN, only_train, h, h_regs, h_meas, h_pwm, h_gdl, h_trp]

theorem only_execAckMismatch {ps : List Part} {s0 : State} (n : Fin 96) (s : State) (h : Only ps s0 s) (h_now : Part.now ∈ ps) (h_free : Part.free ∈ ps) (h_regs : Part.regs ∈ ps) (h_pwm : Part.pwm ∈ ps) (h_gdl : Part.gdl ∈ ps) (h_trp : Part.trp ∈ ps) (h_nt : Part.nt ∈ ps) (h_log : Part.log ∈ ps) (h_acq : Part.acq ∈ ps) (h_twn : Part.twn ∈ ps) :
    ∀ out, execAckMismatch n s = .next out → Only ps s0 out := by
  unfold execAckMismatch
  intro out e
  dsimp only at e
  repeat' split at e
  all_goals (cases e; simp (maxDischargeDepth := 200) +contextual only [only_advanceTo, only_gdlTrip, h, h_now, h_free, h_regs, h_pwm, h_gdl, h_trp, h_nt, h_log, h_acq, h_twn])

theorem only_execAckTimeout {ps : List Part} {s0 : State} (n : Fin 96) (s : State) (h : Only ps s0 s) (h_now : Part.now ∈ ps) (h_free : Part.free ∈ ps) (h_regs : Part.regs ∈ ps) (h_pwm : Part.pwm ∈ ps) (h_gdl : Part.gdl ∈ ps) (h_trp : Part.trp ∈ ps) (h_nt : Part.nt ∈ ps) (h_log : Part.log ∈ ps) (h_acq : Part.acq ∈ ps) (h_twn : Part.twn ∈ ps) :
    ∀ out, execAckTimeout n s = .next out → Only ps s0 out := by
  unfold execAckTimeout
  intro out e
  split at e <;> cases e <;> simp (maxDischargeDepth := 200) +contextual only [only_ackLate, only_advanceTo, h, h_now, h_free, h_regs, h_pwm, h_gdl, h_trp, h_nt, h_log, h_acq, h_twn]

theorem only_execDsrRingCycle {ps : List Part} {s0 : State} (k : Fin 8) (words : List Word) (s : State) (h : Only ps s0 s) (h_now : Part.now ∈ ps) (h_free : Part.free ∈ ps) (h_regs : Part.regs ∈ ps) (h_pwm : Part.pwm ∈ ps) (h_gdl : Part.gdl ∈ ps) (h_trp : Part.trp ∈ ps) (h_nt : Part.nt ∈ ps) (h_cmd : Part.cmd ∈ ps) (h_log : Part.log ∈ ps) (h_acq : Part.acq ∈ ps) (h_host : Part.host ∈ ps) (h_twn : Part.twn ∈ ps) (h_mgt : Part.mgt ∈ ps) :
    ∀ out, execDsrRingCycle k words s = .next out → Only ps s0 out := by
  unfold execDsrRingCycle
  intro out e
  split at e <;> cases e <;> simp (maxDischargeDepth := 200) only [only_ringCycle, h, h_now, h_free, h_regs, h_pwm, h_gdl, h_trp, h_nt, h_cmd, h_log, h_acq, h_host, h_twn, h_mgt]

theorem only_execFltTrip {ps : List Part} {s0 : State} (k : Fin 8) (low : Bool) (s : State) (h : Only ps s0 s) (h_free : Part.free ∈ ps) (h_regs : Part.regs ∈ ps) (h_pwm : Part.pwm ∈ ps) (h_gdl : Part.gdl ∈ ps) (h_trp : Part.trp ∈ ps) (h_nt : Part.nt ∈ ps) (h_log : Part.log ∈ ps) (h_acq : Part.acq ∈ ps) (h_twn : Part.twn ∈ ps) :
    ∀ out, execFltTrip k low s = .next out → Only ps s0 out := by
  unfold execFltTrip
  intro out e
  repeat' split at e
  all_goals cases e
  all_goals simp (maxDischargeDepth := 200) only [only_gdlTrip, only_modGs, h, h_free, h_regs, h_pwm, h_gdl, h_trp, h_nt, h_log, h_acq, h_twn]

theorem only_execGaConfirm {ps : List Part} {s0 : State} (n : Fin 96) (level : Bool) (s : State) (h : Only ps s0 s) (h_now : Part.now ∈ ps) (h_pwm : Part.pwm ∈ ps) (h_gdl : Part.gdl ∈ ps) (h_nt : Part.nt ∈ ps) :
    ∀ out, execGaConfirm n level s = .next out → Only ps s0 out := by
  unfold execGaConfirm
  intro out e
  split at e <;> cases e <;> simp (maxDischargeDepth := 200) +contextual only [only_advanceTo, only_gaAccept, only_ite, h, h_now, h_pwm, h_gdl, h_nt]

theorem only_execGcFault {ps : List Part} {s0 : State} (n : Fin 96) (differs : Bool) (s : State) (h : Only ps s0 s) (h_free : Part.free ∈ ps) (h_regs : Part.regs ∈ ps) (h_pwm : Part.pwm ∈ ps) (h_gdl : Part.gdl ∈ ps) (h_trp : Part.trp ∈ ps) (h_nt : Part.nt ∈ ps) (h_log : Part.log ∈ ps) (h_acq : Part.acq ∈ ps) (h_twn : Part.twn ∈ ps) :
    ∀ out, execGcFault n differs s = .next out → Only ps s0 out := by
  unfold execGcFault
  intro out e
  repeat' split at e
  all_goals cases e
  all_goals simp (maxDischargeDepth := 200) +contextual only [only_gdlTrip, only_modChan, h, h_free, h_regs, h_pwm, h_gdl, h_trp, h_nt, h_log, h_acq, h_twn]

theorem only_execGdlLinkTrain {ps : List Part} {s0 : State} (c : Src) (p : Bytes) (s : State) (h : Only ps s0 s) (h_regs : Part.regs ∈ ps) (h_meas : Part.meas ∈ ps) (h_pwm : Part.pwm ∈ ps) (h_gdl : Part.gdl ∈ ps) (h_trp : Part.trp ∈ ps) (h_cmd : Part.cmd ∈ ps) (h_host : Part.host ∈ ps) (h_twn : Part.twn ∈ ps) (h_mgt : Part.mgt ∈ ps) :
    ∀ out, execGdlLinkTrain c p s = .next out → Only ps s0 out := by
  unfold execGdlLinkTrain
  intro out e
  cases e
  simp (maxDischargeDepth := 200) +contextual only [only_linkTrain, only_obey, h, h_regs, h_meas, h_pwm, h_gdl, h_trp, h_cmd, h_host, h_twn, h_mgt, implies_true]

theorem only_execGdlOstRun {ps : List Part} {s0 : State} (c : Src) (p : Bytes) (s : State) (h : Only ps s0 s) (h_regs : Part.regs ∈ ps) (h_gdl : Part.gdl ∈ ps) (h_trp : Part.trp ∈ ps) (h_cmd : Part.cmd ∈ ps) (h_host : Part.host ∈ ps) (h_twn : Part.twn ∈ ps) (h_mgt : Part.mgt ∈ ps) :
    ∀ out, execGdlOstRun c p s = .next out → Only ps s0 out := by
  unfold execGdlOstRun
  intro out e
  cases e
  simp (maxDischargeDepth := 200) +contextual only [only_obey, only_ostRun, h, h_regs, h_gdl, h_trp, h_cmd, h_host, h_twn, h_mgt, implies_true]

theorem only_execGdlOstStart {ps : List Part} {s0 : State} (mask : BitVec 16) (s : State) (h : Only ps s0 s) (h_regs : Part.regs ∈ ps) (h_gdl : Part.gdl ∈ ps) (h_trp : Part.trp ∈ ps) :
    ∀ out, execGdlOstStart mask s = .next out → Only ps s0 out := by
  unfold execGdlOstStart
  intro out e
  cases e
  simp (maxDischargeDepth := 200) +contextual only [only_ostWrite, h, h_regs, h_gdl, h_trp]

theorem only_execGdlTrain {ps : List Part} {s0 : State} (mask : BitVec 16) (s : State) (h : Only ps s0 s) (h_regs : Part.regs ∈ ps) (h_meas : Part.meas ∈ ps) (h_pwm : Part.pwm ∈ ps) (h_gdl : Part.gdl ∈ ps) (h_trp : Part.trp ∈ ps) :
    ∀ out, execGdlTrain mask s = .next out → Only ps s0 out := by
  unfold execGdlTrain
  intro out e
  cases e
  simp (maxDischargeDepth := 200) +contextual only [only_trainWrite, h, h_regs, h_meas, h_pwm, h_gdl, h_trp]

theorem only_execLinkTrainingComplete {ps : List Part} {s0 : State} (k : Fin 16) (r : TrainResult) (s : State) (h : Only ps s0 s) (h_now : Part.now ∈ ps) (h_regs : Part.regs ∈ ps) (h_gdl : Part.gdl ∈ ps) (h_nt : Part.nt ∈ ps) (h_cmd : Part.cmd ∈ ps) (h_log : Part.log ∈ ps) (h_host : Part.host ∈ ps) (h_twn : Part.twn ∈ ps) (h_mgt : Part.mgt ∈ ps) :
    ∀ out, execLinkTrainingComplete k r s = .next out → Only ps s0 out := by
  unfold execLinkTrainingComplete
  intro out e
  split at e <;> cases e <;> simp (maxDischargeDepth := 200) +contextual only [only_trainEnd, h, h_now, h_regs, h_gdl, h_nt, h_cmd, h_log, h_host, h_twn, h_mgt]

theorem only_execLoadSend {ps : List Part} {s0 : State} (k : Fin 16) (s : State) (h : Only ps s0 s) (h_now : Part.now ∈ ps) (h_gdl : Part.gdl ∈ ps) (h_nt : Part.nt ∈ ps) :
    ∀ out, execLoadSend k s = .next out → Only ps s0 out := by
  unfold execLoadSend
  intro out e
  dsimp only at e
  repeat' split at e
  all_goals (cases e; simp (maxDischargeDepth := 200) +contextual only [only_advanceTo, only_modGs, only_transmit, h, h_now, h_gdl, h_nt])

theorem only_execPullInFrameSend {ps : List Part} {s0 : State} (k : Fin 16) (s : State) (h : Only ps s0 s) (h_now : Part.now ∈ ps) (h_pwm : Part.pwm ∈ ps) (h_gdl : Part.gdl ∈ ps) (h_nt : Part.nt ∈ ps) :
    ∀ out, execPullInFrameSend k s = .next out → Only ps s0 out := by
  unfold execPullInFrameSend
  intro out e
  dsimp only at e
  repeat' split at e
  all_goals (cases e; simp (maxDischargeDepth := 200) +contextual only [only_advanceTo, only_modGs, only_pullEdges, only_sendLink, h, h_now, h_pwm, h_gdl, h_nt])

theorem only_execReturnFrame {ps : List Part} {s0 : State} (k : Fin 16) (frame : Bytes) (s : State) (h : Only ps s0 s) (h_free : Part.free ∈ ps) (h_regs : Part.regs ∈ ps) (h_meas : Part.meas ∈ ps) (h_pwm : Part.pwm ∈ ps) (h_gdl : Part.gdl ∈ ps) (h_trp : Part.trp ∈ ps) (h_nt : Part.nt ∈ ps) (h_cmd : Part.cmd ∈ ps) (h_log : Part.log ∈ ps) (h_acq : Part.acq ∈ ps) (h_host : Part.host ∈ ps) (h_twn : Part.twn ∈ ps) (h_mgt : Part.mgt ∈ ps) :
    ∀ out, execReturnFrame k frame s = .next out → Only ps s0 out := by
  unfold execReturnFrame
  intro out e
  repeat' split at e
  all_goals (cases e; simp (maxDischargeDepth := 200) +contextual only [only_returnBad, only_returnGood, h, h_free, h_regs, h_meas, h_pwm, h_gdl, h_trp, h_nt, h_cmd, h_log, h_acq, h_host, h_twn, h_mgt])

end Sys2Proof.Machine
end

