-- ==== Sys2Proof/Laws/OnlyHalt.lean ====
section
/-! SUPPORT. Frames of the operations and meanings of Machine/Halt.lean: one lemma each, which names the parts of the state that may
change. -/

set_option maxRecDepth 4000

namespace Sys2Proof.Machine

theorem only_expectOff {ps : List Part} {s0 : State} (s : State) (h : Only ps s0 s) (h_pwm : Part.pwm ∈ ps) :
    Only ps s0 (State.expectOff s) := by
  unfold State.expectOff
  simp (maxDischargeDepth := 200) +contextual only [only_modChan, only_forNums, only_ite, h, h_pwm, implies_true]

theorem only_dropStartsIf {ps : List Part} {s0 : State} (s : State) (detail : PendOp → Nat) (h : Only ps s0 s) (h_regs : Part.regs ∈ ps) (h_cmd : Part.cmd ∈ ps) (h_ops : Part.ops ∈ ps) (h_host : Part.host ∈ ps) (h_twn : Part.twn ∈ ps) (h_mgt : Part.mgt ∈ ps) :
    Only ps s0 (State.dropStartsIf s detail) := by
  unfold State.dropStartsIf
  simp (maxDischargeDepth := 200) +contextual only [only_foldl, only_modOps, only_refuse, only_foldl, h, h_regs, h_cmd, h_ops, h_host, h_twn, h_mgt, implies_true]

theorem only_sporeRecord {ps : List Part} {s0 : State} (s : State) (r : SporeRec) (h : Only ps s0 s) (h_regs : Part.regs ∈ ps) (h_nt : Part.nt ∈ ps) (h_log : Part.log ∈ ps) (h_twn : Part.twn ∈ ps) :
    Only ps s0 (State.sporeRecord s r) := by
  unfold State.sporeRecord
  simp (maxDischargeDepth := 200) +contextual only [only_count, only_mirror, only_modNt, only_note, only_ite, h, h_regs, h_nt, h_log, h_twn]

theorem only_sporeDiscard {ps : List Part} {s0 : State} (s : State) (i : Nat) (h : Only ps s0 s) (h_regs : Part.regs ∈ ps) (h_nt : Part.nt ∈ ps) (h_log : Part.log ∈ ps) (h_twn : Part.twn ∈ ps) :
    Only ps s0 (State.sporeDiscard s i) := by
  unfold State.sporeDiscard
  split <;> simp (maxDischargeDepth := 200) +contextual only [only_modNt, only_sporeRecord, h, h_regs, h_nt, h_log, h_twn]

theorem only_discardSpores {ps : List Part} {s0 : State} (s : State) (h : Only ps s0 s) (h_regs : Part.regs ∈ ps) (h_nt : Part.nt ∈ ps) (h_log : Part.log ∈ ps) (h_twn : Part.twn ∈ ps) :
    Only ps s0 (State.discardSpores s) := by
  unfold State.discardSpores
  simp (maxDischargeDepth := 200) +contextual only [only_foldl, only_modNt, only_sporeDiscard, only_sporeRecord, only_foldl, only_forNums, h, h_regs, h_nt, h_log, h_twn, implies_true]

theorem only_dropCommits {ps : List Part} {s0 : State} (s : State) (h : Only ps s0 s) (h_regs : Part.regs ∈ ps) (h_cmd : Part.cmd ∈ ps) (h_stg : Part.stg ∈ ps) (h_host : Part.host ∈ ps) (h_twn : Part.twn ∈ ps) (h_mgt : Part.mgt ∈ ps) :
    Only ps s0 (State.dropCommits s) := by
  unfold State.dropCommits
  simp (maxDischargeDepth := 200) +contextual only [only_modStg, only_refuse, h, h_regs, h_cmd, h_stg, h_host, h_twn, h_mgt, only_foldl, implies_true]

theorem only_waitDone {ps : List Part} {s0 : State} (s : State) (w : EngWait) (h : Only ps s0 s) (h_regs : Part.regs ∈ ps) (h_nt : Part.nt ∈ ps) (h_cmd : Part.cmd ∈ ps) (h_log : Part.log ∈ ps) (h_host : Part.host ∈ ps) (h_twn : Part.twn ∈ ps) (h_mgt : Part.mgt ∈ ps) :
    Only ps s0 (State.waitDone s w) := by
  unfold State.waitDone
  split <;> simp (maxDischargeDepth := 200) only [only_complete, only_sporeRecord, h, h_regs, h_nt, h_cmd, h_log, h_host, h_twn, h_mgt]

theorem only_waitReport {ps : List Part} {s0 : State} (s : State) (who : WaitFor) (e : Nat) (code : Nat) (detail : Nat) (at_ : DWord) (join : Nat → Nat → Nat) (h : Only ps s0 s) (h_regs : Part.regs ∈ ps) (h_waits : Part.waits ∈ ps) (h_nt : Part.nt ∈ ps) (h_cmd : Part.cmd ∈ ps) (h_log : Part.log ∈ ps) (h_host : Part.host ∈ ps) (h_twn : Part.twn ∈ ps) (h_mgt : Part.mgt ∈ ps) :
    Only ps s0 (State.waitReport s who e code detail at_ join) := by
  unfold State.waitReport
  split <;> simp (maxDischargeDepth := 200) only [only_waitDone, only_ite, only_mk, or_true, true_or, h, h_regs, h_waits, h_nt, h_cmd, h_log, h_host, h_twn, h_mgt]

theorem only_dropSporeWork {ps : List Part} {s0 : State} (s : State) (e : Nat) (h : Only ps s0 s) (h_regs : Part.regs ∈ ps) (h_eng : Part.eng ∈ ps) (h_waits : Part.waits ∈ ps) (h_nt : Part.nt ∈ ps) (h_cmd : Part.cmd ∈ ps) (h_log : Part.log ∈ ps) (h_host : Part.host ∈ ps) (h_twn : Part.twn ∈ ps) (h_mgt : Part.mgt ∈ ps) :
    Only ps s0 (State.dropSporeWork s e) := by
  unfold State.dropSporeWork
  refine only_foldl _ _ (fun u x hu => ?_) (only_foldl _ _ (fun u x hu => ?_) ?_)
  · split
    · simp (maxDischargeDepth := 200) only [only_waitReport, hu, h_regs, h_waits, h_nt, h_cmd, h_log, h_host, h_twn, h_mgt]
    · exact hu
  · simp (maxDischargeDepth := 200) only [only_waitReport, hu, h_regs, h_waits, h_nt, h_cmd, h_log, h_host, h_twn, h_mgt]
  · simp (maxDischargeDepth := 200) only [only_modEng, h, h_eng]

theorem only_dropStarts {ps : List Part} {s0 : State} (s : State) (detail : Nat) (h : Only ps s0 s) (h_regs : Part.regs ∈ ps) (h_cmd : Part.cmd ∈ ps) (h_ops : Part.ops ∈ ps) (h_host : Part.host ∈ ps) (h_twn : Part.twn ∈ ps) (h_mgt : Part.mgt ∈ ps) :
    Only ps s0 (State.dropStarts s detail) := by
  unfold State.dropStarts
  simp (maxDischargeDepth := 200) +contextual only [only_dropStartsIf, h, h_regs, h_cmd, h_ops, h_host, h_twn, h_mgt]

theorem only_safJudge {ps : List Part} {s0 : State} (s : State) (h : Only ps s0 s) (h_saf : Part.saf ∈ ps) :
    Only ps s0 (State.safJudge s) := by
  unfold State.safJudge
  simp (maxDischargeDepth := 200) only [only_modSaf, h, h_saf]

theorem only_enginesStop {ps : List Part} {s0 : State} (s : State) (h : Only ps s0 s) (h_regs : Part.regs ∈ ps) (h_eng : Part.eng ∈ ps) (h_waits : Part.waits ∈ ps) (h_nt : Part.nt ∈ ps) (h_cmd : Part.cmd ∈ ps) (h_log : Part.log ∈ ps) (h_host : Part.host ∈ ps) (h_twn : Part.twn ∈ ps) (h_mgt : Part.mgt ∈ ps) :
    Only ps s0 (State.enginesStop s) := by
  unfold State.enginesStop
  simp (maxDischargeDepth := 200) +contextual only [only_dropSporeWork, only_modEng, only_forNums, h, h_regs, h_eng, h_waits, h_nt, h_cmd, h_log, h_host, h_twn, h_mgt, implies_true]

theorem only_stopChannels {ps : List Part} {s0 : State} (s : State) (h : Only ps s0 s) (h_regs : Part.regs ∈ ps) (h_pwm : Part.pwm ∈ ps) (h_gdl : Part.gdl ∈ ps) (h_trp : Part.trp ∈ ps) :
    Only ps s0 (State.stopChannels s) := by
  unfold State.stopChannels
  simp (maxDischargeDepth := 200) +contextual only [only_expectOff, only_forceLows, only_modChan, only_turnOffAll, only_forNums, h, h_regs, h_pwm, h_gdl, h_trp, implies_true]

theorem only_haltOutputs {ps : List Part} {s0 : State} (s : State) (h : Only ps s0 s) (h_regs : Part.regs ∈ ps) (h_pwm : Part.pwm ∈ ps) (h_gdl : Part.gdl ∈ ps) (h_trp : Part.trp ∈ ps) (h_twn : Part.twn ∈ ps) :
    Only ps s0 (State.haltOutputs s) := by
  unfold State.haltOutputs
  simp (maxDischargeDepth := 200) +contextual only [only_modChan, only_modTwn, only_stopChannels, only_forNums, only_ite, h, h_regs, h_pwm, h_gdl, h_trp, h_twn, implies_true]

theorem only_halt {ps : List Part} {s0 : State} (s : State) (cause : Nat) (h : Only ps s0 s) (h_free : Part.free ∈ ps) (h_regs : Part.regs ∈ ps) (h_eng : Part.eng ∈ ps) (h_waits : Part.waits ∈ ps) (h_pwm : Part.pwm ∈ ps) (h_gdl : Part.gdl ∈ ps) (h_trp : Part.trp ∈ ps) (h_saf : Part.saf ∈ ps) (h_nt : Part.nt ∈ ps) (h_eth : Part.eth ∈ ps) (h_cmd : Part.cmd ∈ ps) (h_ops : Part.ops ∈ ps) (h_log : Part.log ∈ ps) (h_stg : Part.stg ∈ ps) (h_acq : Part.acq ∈ ps) (h_dma : Part.dma ∈ ps) (h_dram : Part.dram ∈ ps) (h_host : Part.host ∈ ps) (h_twn : Part.twn ∈ ps) (h_mgt : Part.mgt ∈ ps) :
    Only ps s0 (State.halt s cause) := by
  unfold State.halt
  simp (maxDischargeDepth := 200) +contextual only [only_acqStopAll, only_discardSpores, only_dmaAbortAll, only_dropCommits, only_dropStartsIf, only_enginesStop, only_enter, only_foldl, only_haltOutputs, only_modOps, only_modSaf, only_modTwn, only_ostGuard, only_refuse, only_safJudge, only_foldl, only_forNums, only_ite, only_mk, or_true, true_or, h, h_free, h_regs, h_eng, h_waits, h_pwm, h_gdl, h_trp, h_saf, h_nt, h_eth, h_cmd, h_ops, h_log, h_stg, h_acq, h_dma, h_dram, h_host, h_twn, h_mgt, implies_true]

theorem only_engineFault {ps : List Part} {s0 : State} (s : State) (e : Nat) (h : Only ps s0 s) (h_free : Part.free ∈ ps) (h_regs : Part.regs ∈ ps) (h_eng : Part.eng ∈ ps) (h_waits : Part.waits ∈ ps) (h_pwm : Part.pwm ∈ ps) (h_gdl : Part.gdl ∈ ps) (h_trp : Part.trp ∈ ps) (h_saf : Part.saf ∈ ps) (h_nt : Part.nt ∈ ps) (h_eth : Part.eth ∈ ps) (h_cmd : Part.cmd ∈ ps) (h_ops : Part.ops ∈ ps) (h_log : Part.log ∈ ps) (h_stg : Part.stg ∈ ps) (h_acq : Part.acq ∈ ps) (h_dma : Part.dma ∈ ps) (h_dram : Part.dram ∈ ps) (h_host : Part.host ∈ ps) (h_twn : Part.twn ∈ ps) (h_mgt : Part.mgt ∈ ps) :
    Only ps s0 (State.engineFault s e) := by
  unfold State.engineFault
  simp (maxDischargeDepth := 200) +contextual only [only_halt, only_modEng, h, h_free, h_regs, h_eng, h_waits, h_pwm, h_gdl, h_trp, h_saf, h_nt, h_eth, h_cmd, h_ops, h_log, h_stg, h_acq, h_dma, h_dram, h_host, h_twn, h_mgt]

theorem only_unfinished {ps : List Part} {s0 : State} (s : State) (e : Nat) (h : Only ps s0 s) (h_free : Part.free ∈ ps) (h_regs : Part.regs ∈ ps) (h_eng : Part.eng ∈ ps) (h_waits : Part.waits ∈ ps) (h_pwm : Part.pwm ∈ ps) (h_gdl : Part.gdl ∈ ps) (h_trp : Part.trp ∈ ps) (h_saf : Part.saf ∈ ps) (h_nt : Part.nt ∈ ps) (h_eth : Part.eth ∈ ps) (h_cmd : Part.cmd ∈ ps) (h_ops : Part.ops ∈ ps) (h_log : Part.log ∈ ps) (h_stg : Part.stg ∈ ps) (h_acq : Part.acq ∈ ps) (h_dma : Part.dma ∈ ps) (h_dram : Part.dram ∈ ps) (h_host : Part.host ∈ ps) (h_twn : Part.twn ∈ ps) (h_mgt : Part.mgt ∈ ps) :
    Only ps s0 (State.unfinished s e) := by
  unfold State.unfinished
  simp (maxDischargeDepth := 200) +contextual only [only_engineFault, only_ite, h, h_free, h_regs, h_eng, h_waits, h_pwm, h_gdl, h_trp, h_saf, h_nt, h_eth, h_cmd, h_ops, h_log, h_stg, h_acq, h_dma, h_dram, h_host, h_twn, h_mgt]

theorem only_opsHalt {ps : List Part} {s0 : State} (s : State) (c : Src) (h : Only ps s0 s) (h_free : Part.free ∈ ps) (h_regs : Part.regs ∈ ps) (h_eng : Part.eng ∈ ps) (h_waits : Part.waits ∈ ps) (h_pwm : Part.pwm ∈ ps) (h_gdl : Part.gdl ∈ ps) (h_trp : Part.trp ∈ ps) (h_saf : Part.saf ∈ ps) (h_nt : Part.nt ∈ ps) (h_eth : Part.eth ∈ ps) (h_cmd : Part.cmd ∈ ps) (h_ops : Part.ops ∈ ps) (h_log : Part.log ∈ ps) (h_stg : Part.stg ∈ ps) (h_acq : Part.acq ∈ ps) (h_dma : Part.dma ∈ ps) (h_dram : Part.dram ∈ ps) (h_host : Part.host ∈ ps) (h_twn : Part.twn ∈ ps) (h_mgt : Part.mgt ∈ ps) :
    Only ps s0 (State.opsHalt s c) := by
  unfold State.opsHalt
  simp (maxDischargeDepth := 200) +contextual only [only_done, only_halt, only_ite, h, h_free, h_regs, h_eng, h_waits, h_pwm, h_gdl, h_trp, h_saf, h_nt, h_eth, h_cmd, h_ops, h_log, h_stg, h_acq, h_dma, h_dram, h_host, h_twn, h_mgt]

theorem only_toIdle {ps : List Part} {s0 : State} (s : State) (cause : Nat) (h : Only ps s0 s) (h_regs : Part.regs ∈ ps) (h_eng : Part.eng ∈ ps) (h_waits : Part.waits ∈ ps) (h_pwm : Part.pwm ∈ ps) (h_gdl : Part.gdl ∈ ps) (h_trp : Part.trp ∈ ps) (h_nt : Part.nt ∈ ps) (h_cmd : Part.cmd ∈ ps) (h_ops : Part.ops ∈ ps) (h_log : Part.log ∈ ps) (h_host : Part.host ∈ ps) (h_twn : Part.twn ∈ ps) (h_mgt : Part.mgt ∈ ps) :
    Only ps s0 (State.toIdle s cause) := by
  unfold State.toIdle
  simp (maxDischargeDepth := 200) +contextual only [only_dropStarts, only_enginesStop, only_enter, only_forceLows, h, h_regs, h_eng, h_waits, h_pwm, h_gdl, h_trp, h_nt, h_cmd, h_ops, h_log, h_host, h_twn, h_mgt]

theorem only_toStopping {ps : List Part} {s0 : State} (s : State) (cause : Nat) (h : Only ps s0 s) (h_regs : Part.regs ∈ ps) (h_eng : Part.eng ∈ ps) (h_waits : Part.waits ∈ ps) (h_pwm : Part.pwm ∈ ps) (h_gdl : Part.gdl ∈ ps) (h_trp : Part.trp ∈ ps) (h_nt : Part.nt ∈ ps) (h_cmd : Part.cmd ∈ ps) (h_ops : Part.ops ∈ ps) (h_log : Part.log ∈ ps) (h_host : Part.host ∈ ps) (h_twn : Part.twn ∈ ps) (h_mgt : Part.mgt ∈ ps) :
    Only ps s0 (State.toStopping s cause) := by
  unfold State.toStopping
  simp (maxDischargeDepth := 200) +contextual only [only_dropStarts, only_enginesStop, only_enter, only_stopChannels, h, h_regs, h_eng, h_waits, h_pwm, h_gdl, h_trp, h_nt, h_cmd, h_ops, h_log, h_host, h_twn, h_mgt]

theorem only_waitStart {ps : List Part} {s0 : State} (s : State) (who : WaitFor) (mask : Nat) (h : Only ps s0 s) (h_waits : Part.waits ∈ ps) :
    Only ps s0 (State.waitStart s who mask) := by
  unfold State.waitStart
  simp (maxDischargeDepth := 200) only [only_mk, or_true, true_or, h, h_waits]

theorem only_execCoreLockstepMismatch {ps : List Part} {s0 : State} (s : State) (h : Only ps s0 s) (h_free : Part.free ∈ ps) (h_regs : Part.regs ∈ ps) (h_eng : Part.eng ∈ ps) (h_waits : Part.waits ∈ ps) (h_pwm : Part.pwm ∈ ps) (h_gdl : Part.gdl ∈ ps) (h_trp : Part.trp ∈ ps) (h_saf : Part.saf ∈ ps) (h_nt : Part.nt ∈ ps) (h_eth : Part.eth ∈ ps) (h_cmd : Part.cmd ∈ ps) (h_ops : Part.ops ∈ ps) (h_log : Part.log ∈ ps) (h_stg : Part.stg ∈ ps) (h_acq : Part.acq ∈ ps) (h_dma : Part.dma ∈ ps) (h_dram : Part.dram ∈ ps) (h_host : Part.host ∈ ps) (h_twn : Part.twn ∈ ps) (h_mgt : Part.mgt ∈ ps) :
    ∀ out, execCoreLockstepMismatch s = .next out → Only ps s0 out := by
  unfold execCoreLockstepMismatch
  intro out e
  cases e
  simp (maxDischargeDepth := 200) +contextual only [only_halt, h, h_free, h_regs, h_eng, h_waits, h_pwm, h_gdl, h_trp, h_saf, h_nt, h_eth, h_cmd, h_ops, h_log, h_stg, h_acq, h_dma, h_dram, h_host, h_twn, h_mgt]

theorem only_execEngineDeadlineMiss {ps : List Part} {s0 : State} (e : Fin 8) (s : State) (h : Only ps s0 s) (h_now : Part.now ∈ ps) (h_free : Part.free ∈ ps) (h_regs : Part.regs ∈ ps) (h_eng : Part.eng ∈ ps) (h_waits : Part.waits ∈ ps) (h_pwm : Part.pwm ∈ ps) (h_gdl : Part.gdl ∈ ps) (h_trp : Part.trp ∈ ps) (h_saf : Part.saf ∈ ps) (h_nt : Part.nt ∈ ps) (h_eth : Part.eth ∈ ps) (h_cmd : Part.cmd ∈ ps) (h_ops : Part.ops ∈ ps) (h_log : Part.log ∈ ps) (h_stg : Part.stg ∈ ps) (h_acq : Part.acq ∈ ps) (h_dma : Part.dma ∈ ps) (h_dram : Part.dram ∈ ps) (h_host : Part.host ∈ ps) (h_twn : Part.twn ∈ ps) (h_mgt : Part.mgt ∈ ps) :
    ∀ out, execEngineDeadlineMiss e s = .next out → Only ps s0 out := by
  unfold execEngineDeadlineMiss
  intro out e
  split at e <;> cases e <;> simp (maxDischargeDepth := 200) +contextual only [only_advanceTo, only_engineFault, h, h_now, h_free, h_regs, h_eng, h_waits, h_pwm, h_gdl, h_trp, h_saf, h_nt, h_eth, h_cmd, h_ops, h_log, h_stg, h_acq, h_dma, h_dram, h_host, h_twn, h_mgt]

theorem only_execEngineEccError {ps : List Part} {s0 : State} (e : Fin 8) (corrected : Bool) (s : State) (h : Only ps s0 s) (h_free : Part.free ∈ ps) (h_regs : Part.regs ∈ ps) (h_eng : Part.eng ∈ ps) (h_waits : Part.waits ∈ ps) (h_pwm : Part.pwm ∈ ps) (h_gdl : Part.gdl ∈ ps) (h_trp : Part.trp ∈ ps) (h_saf : Part.saf ∈ ps) (h_nt : Part.nt ∈ ps) (h_eth : Part.eth ∈ ps) (h_cmd : Part.cmd ∈ ps) (h_ops : Part.ops ∈ ps) (h_log : Part.log ∈ ps) (h_stg : Part.stg ∈ ps) (h_acq : Part.acq ∈ ps) (h_dma : Part.dma ∈ ps) (h_dram : Part.dram ∈ ps) (h_host : Part.host ∈ ps) (h_twn : Part.twn ∈ ps) (h_mgt : Part.mgt ∈ ps) :
    ∀ out, execEngineEccError e corrected s = .next out → Only ps s0 out := by
  unfold execEngineEccError
  intro out e
  dsimp only at e
  repeat' split at e
  all_goals (cases e; simp (maxDischargeDepth := 200) +contextual only [only_count, only_engineFault, only_keepMax, only_modEng, h, h_free, h_regs, h_eng, h_waits, h_pwm, h_gdl, h_trp, h_saf, h_nt, h_eth, h_cmd, h_ops, h_log, h_stg, h_acq, h_dma, h_dram, h_host, h_twn, h_mgt])

theorem only_execMemEccError {ps : List Part} {s0 : State} (s : State) (h : Only ps s0 s) (h_free : Part.free ∈ ps) (h_regs : Part.regs ∈ ps) (h_eng : Part.eng ∈ ps) (h_waits : Part.waits ∈ ps) (h_pwm : Part.pwm ∈ ps) (h_gdl : Part.gdl ∈ ps) (h_trp : Part.trp ∈ ps) (h_saf : Part.saf ∈ ps) (h_nt : Part.nt ∈ ps) (h_eth : Part.eth ∈ ps) (h_cmd : Part.cmd ∈ ps) (h_ops : Part.ops ∈ ps) (h_log : Part.log ∈ ps) (h_stg : Part.stg ∈ ps) (h_acq : Part.acq ∈ ps) (h_dma : Part.dma ∈ ps) (h_dram : Part.dram ∈ ps) (h_host : Part.host ∈ ps) (h_twn : Part.twn ∈ ps) (h_mgt : Part.mgt ∈ ps) :
    ∀ out, execMemEccError s = .next out → Only ps s0 out := by
  unfold execMemEccError
  intro out e
  cases e
  simp (maxDischargeDepth := 200) +contextual only [only_halt, h, h_free, h_regs, h_eng, h_waits, h_pwm, h_gdl, h_trp, h_saf, h_nt, h_eth, h_cmd, h_ops, h_log, h_stg, h_acq, h_dma, h_dram, h_host, h_twn, h_mgt]

theorem only_execOpsHalt {ps : List Part} {s0 : State} (c : Src) (s : State) (h : Only ps s0 s) (h_free : Part.free ∈ ps) (h_regs : Part.regs ∈ ps) (h_eng : Part.eng ∈ ps) (h_waits : Part.waits ∈ ps) (h_pwm : Part.pwm ∈ ps) (h_gdl : Part.gdl ∈ ps) (h_trp : Part.trp ∈ ps) (h_saf : Part.saf ∈ ps) (h_nt : Part.nt ∈ ps) (h_eth : Part.eth ∈ ps) (h_cmd : Part.cmd ∈ ps) (h_ops : Part.ops ∈ ps) (h_log : Part.log ∈ ps) (h_stg : Part.stg ∈ ps) (h_acq : Part.acq ∈ ps) (h_dma : Part.dma ∈ ps) (h_dram : Part.dram ∈ ps) (h_host : Part.host ∈ ps) (h_twn : Part.twn ∈ ps) (h_mgt : Part.mgt ∈ ps) :
    ∀ out, execOpsHalt c s = .next out → Only ps s0 out := by
  unfold execOpsHalt
  intro out e
  cases e
  simp (maxDischargeDepth := 200) +contextual only [only_acting, only_opsHalt, h, h_free, h_regs, h_eng, h_waits, h_pwm, h_gdl, h_trp, h_saf, h_nt, h_eth, h_cmd, h_ops, h_log, h_stg, h_acq, h_dma, h_dram, h_host, h_twn, h_mgt, implies_true]

theorem only_execRegulatorFault {ps : List Part} {s0 : State} (s : State) (h : Only ps s0 s) (h_free : Part.free ∈ ps) (h_regs : Part.regs ∈ ps) (h_eng : Part.eng ∈ ps) (h_waits : Part.waits ∈ ps) (h_pwm : Part.pwm ∈ ps) (h_gdl : Part.gdl ∈ ps) (h_trp : Part.trp ∈ ps) (h_saf : Part.saf ∈ ps) (h_nt : Part.nt ∈ ps) (h_eth : Part.eth ∈ ps) (h_cmd : Part.cmd ∈ ps) (h_ops : Part.ops ∈ ps) (h_log : Part.log ∈ ps) (h_stg : Part.stg ∈ ps) (h_acq : Part.acq ∈ ps) (h_dma : Part.dma ∈ ps) (h_dram : Part.dram ∈ ps) (h_host : Part.host ∈ ps) (h_twn : Part.twn ∈ ps) (h_mgt : Part.mgt ∈ ps) :
    ∀ out, execRegulatorFault s = .next out → Only ps s0 out := by
  unfold execRegulatorFault
  intro out e
  cases e
  simp (maxDischargeDepth := 200) +contextual only [only_halt, h, h_free, h_regs, h_eng, h_waits, h_pwm, h_gdl, h_trp, h_saf, h_nt, h_eth, h_cmd, h_ops, h_log, h_stg, h_acq, h_dma, h_dram, h_host, h_twn, h_mgt]

theorem only_execWatchdogExpiry {ps : List Part} {s0 : State} (s : State) (h : Only ps s0 s) (h_free : Part.free ∈ ps) (h_regs : Part.regs ∈ ps) (h_eng : Part.eng ∈ ps) (h_waits : Part.waits ∈ ps) (h_pwm : Part.pwm ∈ ps) (h_gdl : Part.gdl ∈ ps) (h_trp : Part.trp ∈ ps) (h_saf : Part.saf ∈ ps) (h_nt : Part.nt ∈ ps) (h_eth : Part.eth ∈ ps) (h_cmd : Part.cmd ∈ ps) (h_ops : Part.ops ∈ ps) (h_log : Part.log ∈ ps) (h_stg : Part.stg ∈ ps) (h_acq : Part.acq ∈ ps) (h_dma : Part.dma ∈ ps) (h_dram : Part.dram ∈ ps) (h_host : Part.host ∈ ps) (h_twn : Part.twn ∈ ps) (h_mgt : Part.mgt ∈ ps) :
    ∀ out, execWatchdogExpiry s = .next out → Only ps s0 out := by
  unfold execWatchdogExpiry
  intro out e
  cases e
  simp (maxDischargeDepth := 200) +contextual only [only_halt, h, h_free, h_regs, h_eng, h_waits, h_pwm, h_gdl, h_trp, h_saf, h_nt, h_eth, h_cmd, h_ops, h_log, h_stg, h_acq, h_dma, h_dram, h_host, h_twn, h_mgt]

end Sys2Proof.Machine
end

