-- ==== Sys2Proof/Laws/OnlySaf.lean ====
section
/-! SUPPORT. Frames of the operations and meanings of Machine/Saf.lean: one lemma each, which names the parts of the state that may
change. -/

set_option maxRecDepth 4000

namespace Sys2Proof.Machine

theorem only_safNote {ps : List Part} {s0 : State} (s : State) (bit : Nat) (h : Only ps s0 s) (h_regs : Part.regs ∈ ps) (h_log : Part.log ∈ ps) :
    Only ps s0 (State.safNote s bit) := by
  unfold State.safNote
  simp (maxDischargeDepth := 200) only [only_note, h, h_regs, h_log]

theorem only_demandBegins {ps : List Part} {s0 : State} (s : State) (k : Nat) (h : Only ps s0 s) (h_regs : Part.regs ∈ ps) (h_saf : Part.saf ∈ ps) (h_nt : Part.nt ∈ ps) (h_log : Part.log ∈ ps) (h_acq : Part.acq ∈ ps) (h_mgt : Part.mgt ∈ ps) :
    Only ps s0 (State.demandBegins s k) := by
  unfold State.demandBegins
  simp (maxDischargeDepth := 200) +contextual only [only_acqOffer, only_count, only_modSaf, only_notify, only_ptmAsk, only_safNote, only_setReg, only_ite, h, h_regs, h_saf, h_nt, h_log, h_acq, h_mgt]

theorem only_safUpdate {ps : List Part} {s0 : State} (s : State) (h : Only ps s0 s) (h_regs : Part.regs ∈ ps) (h_eng : Part.eng ∈ ps) (h_waits : Part.waits ∈ ps) (h_pwm : Part.pwm ∈ ps) (h_gdl : Part.gdl ∈ ps) (h_trp : Part.trp ∈ ps) (h_saf : Part.saf ∈ ps) (h_nt : Part.nt ∈ ps) (h_cmd : Part.cmd ∈ ps) (h_ops : Part.ops ∈ ps) (h_log : Part.log ∈ ps) (h_host : Part.host ∈ ps) (h_twn : Part.twn ∈ ps) (h_mgt : Part.mgt ∈ ps) :
    Only ps s0 (State.safUpdate s) := by
  unfold State.safUpdate
  dsimp only
  repeat' split
  all_goals simp (maxDischargeDepth := 200) +contextual only [only_safJudge, only_toIdle, only_toStopping, only_turnOffAll, h, h_regs, h_eng, h_waits, h_pwm, h_gdl, h_trp, h_saf, h_nt, h_cmd, h_ops, h_log, h_host, h_twn, h_mgt]

theorem only_modPair {ps : List Part} {s0 : State} (s : State) (k : Nat) (f : SafPair → SafPair) (h : Only ps s0 s) (h_saf : Part.saf ∈ ps) :
    Only ps s0 (State.modPair s k f) := by
  unfold State.modPair
  simp (maxDischargeDepth := 200) +contextual only [only_modSaf, h, h_saf]

theorem only_demandPair {ps : List Part} {s0 : State} (s : State) (k : Nat) (old : Bool × Bool) (new : Bool × Bool) (h : Only ps s0 s) (h_regs : Part.regs ∈ ps) (h_eng : Part.eng ∈ ps) (h_waits : Part.waits ∈ ps) (h_pwm : Part.pwm ∈ ps) (h_gdl : Part.gdl ∈ ps) (h_trp : Part.trp ∈ ps) (h_saf : Part.saf ∈ ps) (h_nt : Part.nt ∈ ps) (h_cmd : Part.cmd ∈ ps) (h_ops : Part.ops ∈ ps) (h_log : Part.log ∈ ps) (h_acq : Part.acq ∈ ps) (h_host : Part.host ∈ ps) (h_twn : Part.twn ∈ ps) (h_mgt : Part.mgt ∈ ps) :
    Only ps s0 (State.demandPair s k old new) := by
  unfold State.demandPair
  simp (maxDischargeDepth := 200) +contextual only [only_demandBegins, only_modPair, only_safUpdate, only_ite, h, h_regs, h_eng, h_waits, h_pwm, h_gdl, h_trp, h_saf, h_nt, h_cmd, h_ops, h_log, h_acq, h_host, h_twn, h_mgt]

theorem only_modSafCh {ps : List Part} {s0 : State} (s : State) (ch : SafCh) (f : SafChan → SafChan) (h : Only ps s0 s) (h_saf : Part.saf ∈ ps) :
    Only ps s0 (State.modSafCh s ch f) := by
  unfold State.modSafCh
  simp (maxDischargeDepth := 200) only [only_modSaf, h, h_saf]

theorem only_resetPair {ps : List Part} {s0 : State} (s : State) (k : Nat) (new : Bool × Bool) (h : Only ps s0 s) (h_regs : Part.regs ∈ ps) (h_eng : Part.eng ∈ ps) (h_waits : Part.waits ∈ ps) (h_pwm : Part.pwm ∈ ps) (h_gdl : Part.gdl ∈ ps) (h_trp : Part.trp ∈ ps) (h_saf : Part.saf ∈ ps) (h_nt : Part.nt ∈ ps) (h_cmd : Part.cmd ∈ ps) (h_ops : Part.ops ∈ ps) (h_log : Part.log ∈ ps) (h_host : Part.host ∈ ps) (h_twn : Part.twn ∈ ps) (h_mgt : Part.mgt ∈ ps) :
    Only ps s0 (State.resetPair s k new) := by
  unfold State.resetPair
  simp (maxDischargeDepth := 200) +contextual only [only_modPair, only_modSaf, only_safNote, only_safUpdate, only_ite, h, h_regs, h_eng, h_waits, h_pwm, h_gdl, h_trp, h_saf, h_nt, h_cmd, h_ops, h_log, h_host, h_twn, h_mgt]

theorem only_safFault {ps : List Part} {s0 : State} (s : State) (ch : SafCh) (code : Nat) (h : Only ps s0 s) (h_free : Part.free ∈ ps) (h_regs : Part.regs ∈ ps) (h_eng : Part.eng ∈ ps) (h_waits : Part.waits ∈ ps) (h_pwm : Part.pwm ∈ ps) (h_gdl : Part.gdl ∈ ps) (h_trp : Part.trp ∈ ps) (h_saf : Part.saf ∈ ps) (h_nt : Part.nt ∈ ps) (h_eth : Part.eth ∈ ps) (h_cmd : Part.cmd ∈ ps) (h_ops : Part.ops ∈ ps) (h_log : Part.log ∈ ps) (h_stg : Part.stg ∈ ps) (h_acq : Part.acq ∈ ps) (h_dma : Part.dma ∈ ps) (h_dram : Part.dram ∈ ps) (h_host : Part.host ∈ ps) (h_twn : Part.twn ∈ ps) (h_mgt : Part.mgt ∈ ps) :
    Only ps s0 (State.safFault s ch code) := by
  unfold State.safFault
  simp (maxDischargeDepth := 200) +contextual only [only_halt, only_modSaf, only_modSafCh, only_notify, only_safJudge, only_safNote, h, h_free, h_regs, h_eng, h_waits, h_pwm, h_gdl, h_trp, h_saf, h_nt, h_eth, h_cmd, h_ops, h_log, h_stg, h_acq, h_dma, h_dram, h_host, h_twn, h_mgt]

theorem only_safInput {ps : List Part} {s0 : State} (s : State) (k : Nat) (lineB : Bool) (level : Bool) (h : Only ps s0 s) (h_regs : Part.regs ∈ ps) (h_eng : Part.eng ∈ ps) (h_waits : Part.waits ∈ ps) (h_pwm : Part.pwm ∈ ps) (h_gdl : Part.gdl ∈ ps) (h_trp : Part.trp ∈ ps) (h_saf : Part.saf ∈ ps) (h_nt : Part.nt ∈ ps) (h_cmd : Part.cmd ∈ ps) (h_ops : Part.ops ∈ ps) (h_log : Part.log ∈ ps) (h_acq : Part.acq ∈ ps) (h_host : Part.host ∈ ps) (h_twn : Part.twn ∈ ps) (h_mgt : Part.mgt ∈ ps) :
    Only ps s0 (State.safInput s k lineB level) := by
  unfold State.safInput
  dsimp only
  repeat' split
  all_goals simp (maxDischargeDepth := 200) +contextual only [only_demandPair, only_modPair, only_resetPair, h, h_regs, h_eng, h_waits, h_pwm, h_gdl, h_trp, h_saf, h_nt, h_cmd, h_ops, h_log, h_acq, h_host, h_twn, h_mgt]

theorem only_safTakeSet {ps : List Part} {s0 : State} (s : State) (h : Only ps s0 s) (h_regs : Part.regs ∈ ps) (h_eng : Part.eng ∈ ps) (h_waits : Part.waits ∈ ps) (h_pwm : Part.pwm ∈ ps) (h_gdl : Part.gdl ∈ ps) (h_trp : Part.trp ∈ ps) (h_saf : Part.saf ∈ ps) (h_nt : Part.nt ∈ ps) (h_cmd : Part.cmd ∈ ps) (h_ops : Part.ops ∈ ps) (h_log : Part.log ∈ ps) (h_acq : Part.acq ∈ ps) (h_host : Part.host ∈ ps) (h_twn : Part.twn ∈ ps) (h_mgt : Part.mgt ∈ ps) :
    Only ps s0 (State.safTakeSet s) := by
  unfold State.safTakeSet
  simp (maxDischargeDepth := 200) +contextual only [only_demandPair, only_modPair, only_modSaf, only_safUpdate, only_forNums, only_ite, h, h_regs, h_eng, h_waits, h_pwm, h_gdl, h_trp, h_saf, h_nt, h_cmd, h_ops, h_log, h_acq, h_host, h_twn, h_mgt, implies_true]

theorem only_execCrossFault {ps : List Part} {s0 : State} (observer : SafCh) (s : State) (h : Only ps s0 s) (h_free : Part.free ∈ ps) (h_regs : Part.regs ∈ ps) (h_eng : Part.eng ∈ ps) (h_waits : Part.waits ∈ ps) (h_pwm : Part.pwm ∈ ps) (h_gdl : Part.gdl ∈ ps) (h_trp : Part.trp ∈ ps) (h_saf : Part.saf ∈ ps) (h_nt : Part.nt ∈ ps) (h_eth : Part.eth ∈ ps) (h_cmd : Part.cmd ∈ ps) (h_ops : Part.ops ∈ ps) (h_log : Part.log ∈ ps) (h_stg : Part.stg ∈ ps) (h_acq : Part.acq ∈ ps) (h_dma : Part.dma ∈ ps) (h_dram : Part.dram ∈ ps) (h_host : Part.host ∈ ps) (h_twn : Part.twn ∈ ps) (h_mgt : Part.mgt ∈ ps) :
    ∀ out, execCrossFault observer s = .next out → Only ps s0 out := by
  unfold execCrossFault
  intro out e
  dsimp only at e
  repeat' split at e
  all_goals (cases e; simp (maxDischargeDepth := 200) +contextual only [only_safFault, h, h_free, h_regs, h_eng, h_waits, h_pwm, h_gdl, h_trp, h_saf, h_nt, h_eth, h_cmd, h_ops, h_log, h_stg, h_acq, h_dma, h_dram, h_host, h_twn, h_mgt])

theorem only_execDiscrepancy {ps : List Part} {s0 : State} (k : Fin 4) (s : State) (h : Only ps s0 s) (h_now : Part.now ∈ ps) (h_regs : Part.regs ∈ ps) (h_eng : Part.eng ∈ ps) (h_waits : Part.waits ∈ ps) (h_pwm : Part.pwm ∈ ps) (h_gdl : Part.gdl ∈ ps) (h_trp : Part.trp ∈ ps) (h_saf : Part.saf ∈ ps) (h_nt : Part.nt ∈ ps) (h_cmd : Part.cmd ∈ ps) (h_ops : Part.ops ∈ ps) (h_log : Part.log ∈ ps) (h_host : Part.host ∈ ps) (h_twn : Part.twn ∈ ps) (h_mgt : Part.mgt ∈ ps) :
    ∀ out, execDiscrepancy k s = .next out → Only ps s0 out := by
  unfold execDiscrepancy
  intro out e
  dsimp only at e
  repeat' split at e
  all_goals (cases e; simp (maxDischargeDepth := 200) +contextual only [only_advanceTo, only_count, only_modPair, only_safNote, only_safUpdate, h, h_now, h_regs, h_eng, h_waits, h_pwm, h_gdl, h_trp, h_saf, h_nt, h_cmd, h_ops, h_log, h_host, h_twn, h_mgt])

theorem only_execOffPulseEnd {ps : List Part} {s0 : State} (ch : SafCh) (s : State) (h : Only ps s0 s) (h_now : Part.now ∈ ps) (h_regs : Part.regs ∈ ps) (h_saf : Part.saf ∈ ps) (h_nt : Part.nt ∈ ps) :
    ∀ out, execOffPulseEnd ch s = .next out → Only ps s0 out := by
  unfold execOffPulseEnd
  intro out e
  split at e <;> cases e <;> simp (maxDischargeDepth := 200) only [only_advanceTo, only_count, only_modSafCh, only_ite, h, h_now, h_regs, h_saf, h_nt]

theorem only_execOffPulseStart {ps : List Part} {s0 : State} (ch : SafCh) (s : State) (h : Only ps s0 s) (h_now : Part.now ∈ ps) (h_saf : Part.saf ∈ ps) (h_nt : Part.nt ∈ ps) :
    ∀ out, execOffPulseStart ch s = .next out → Only ps s0 out := by
  unfold execOffPulseStart
  intro out e
  dsimp only at e
  repeat' split at e
  all_goals (cases e; simp (maxDischargeDepth := 200) +contextual only [only_advanceTo, only_modSafCh, h, h_now, h_saf, h_nt])

theorem only_execPsetMismatchTimeout {ps : List Part} {s0 : State} (s : State) (h : Only ps s0 s) (h_now : Part.now ∈ ps) (h_free : Part.free ∈ ps) (h_regs : Part.regs ∈ ps) (h_eng : Part.eng ∈ ps) (h_waits : Part.waits ∈ ps) (h_pwm : Part.pwm ∈ ps) (h_gdl : Part.gdl ∈ ps) (h_trp : Part.trp ∈ ps) (h_saf : Part.saf ∈ ps) (h_nt : Part.nt ∈ ps) (h_eth : Part.eth ∈ ps) (h_cmd : Part.cmd ∈ ps) (h_ops : Part.ops ∈ ps) (h_log : Part.log ∈ ps) (h_stg : Part.stg ∈ ps) (h_acq : Part.acq ∈ ps) (h_dma : Part.dma ∈ ps) (h_dram : Part.dram ∈ ps) (h_host : Part.host ∈ ps) (h_twn : Part.twn ∈ ps) (h_mgt : Part.mgt ∈ ps) :
    ∀ out, execPsetMismatchTimeout s = .next out → Only ps s0 out := by
  unfold execPsetMismatchTimeout
  intro out e
  split at e <;> cases e <;> simp (maxDischargeDepth := 200) +contextual only [only_advanceTo, only_modSafCh, only_safFault, h, h_now, h_free, h_regs, h_eng, h_waits, h_pwm, h_gdl, h_trp, h_saf, h_nt, h_eth, h_cmd, h_ops, h_log, h_stg, h_acq, h_dma, h_dram, h_host, h_twn, h_mgt]

theorem only_execReadbackCheck {ps : List Part} {s0 : State} (ch : SafCh) (level : Bool) (s : State) (h : Only ps s0 s) (h_now : Part.now ∈ ps) (h_free : Part.free ∈ ps) (h_regs : Part.regs ∈ ps) (h_eng : Part.eng ∈ ps) (h_waits : Part.waits ∈ ps) (h_pwm : Part.pwm ∈ ps) (h_gdl : Part.gdl ∈ ps) (h_trp : Part.trp ∈ ps) (h_saf : Part.saf ∈ ps) (h_nt : Part.nt ∈ ps) (h_eth : Part.eth ∈ ps) (h_cmd : Part.cmd ∈ ps) (h_ops : Part.ops ∈ ps) (h_log : Part.log ∈ ps) (h_stg : Part.stg ∈ ps) (h_acq : Part.acq ∈ ps) (h_dma : Part.dma ∈ ps) (h_dram : Part.dram ∈ ps) (h_host : Part.host ∈ ps) (h_twn : Part.twn ∈ ps) (h_mgt : Part.mgt ∈ ps) :
    ∀ out, execReadbackCheck ch level s = .next out → Only ps s0 out := by
  unfold execReadbackCheck
  intro out e
  dsimp only at e
  repeat' split at e
  all_goals (cases e; simp (maxDischargeDepth := 200) +contextual only [only_advanceTo, only_modSafCh, only_safFault, h, h_now, h_free, h_regs, h_eng, h_waits, h_pwm, h_gdl, h_trp, h_saf, h_nt, h_eth, h_cmd, h_ops, h_log, h_stg, h_acq, h_dma, h_dram, h_host, h_twn, h_mgt])

theorem only_execSafetyClockFault {ps : List Part} {s0 : State} (ch : SafCh) (s : State) (h : Only ps s0 s) (h_free : Part.free ∈ ps) (h_regs : Part.regs ∈ ps) (h_eng : Part.eng ∈ ps) (h_waits : Part.waits ∈ ps) (h_pwm : Part.pwm ∈ ps) (h_gdl : Part.gdl ∈ ps) (h_trp : Part.trp ∈ ps) (h_saf : Part.saf ∈ ps) (h_nt : Part.nt ∈ ps) (h_eth : Part.eth ∈ ps) (h_cmd : Part.cmd ∈ ps) (h_ops : Part.ops ∈ ps) (h_log : Part.log ∈ ps) (h_stg : Part.stg ∈ ps) (h_acq : Part.acq ∈ ps) (h_dma : Part.dma ∈ ps) (h_dram : Part.dram ∈ ps) (h_host : Part.host ∈ ps) (h_twn : Part.twn ∈ ps) (h_mgt : Part.mgt ∈ ps) :
    ∀ out, execSafetyClockFault ch s = .next out → Only ps s0 out := by
  unfold execSafetyClockFault
  intro out e
  cases e
  simp (maxDischargeDepth := 200) +contextual only [only_safFault, h, h_free, h_regs, h_eng, h_waits, h_pwm, h_gdl, h_trp, h_saf, h_nt, h_eth, h_cmd, h_ops, h_log, h_stg, h_acq, h_dma, h_dram, h_host, h_twn, h_mgt]

theorem only_execSafetyInputChange {ps : List Part} {s0 : State} (k : Fin 4) (lineB : Bool) (level : Bool) (s : State) (h : Only ps s0 s) (h_regs : Part.regs ∈ ps) (h_eng : Part.eng ∈ ps) (h_waits : Part.waits ∈ ps) (h_pwm : Part.pwm ∈ ps) (h_gdl : Part.gdl ∈ ps) (h_trp : Part.trp ∈ ps) (h_saf : Part.saf ∈ ps) (h_nt : Part.nt ∈ ps) (h_cmd : Part.cmd ∈ ps) (h_ops : Part.ops ∈ ps) (h_log : Part.log ∈ ps) (h_acq : Part.acq ∈ ps) (h_host : Part.host ∈ ps) (h_twn : Part.twn ∈ ps) (h_mgt : Part.mgt ∈ ps) :
    ∀ out, execSafetyInputChange k lineB level s = .next out → Only ps s0 out := by
  unfold execSafetyInputChange
  intro out e
  cases e
  simp (maxDischargeDepth := 200) +contextual only [only_safInput, h, h_regs, h_eng, h_waits, h_pwm, h_gdl, h_trp, h_saf, h_nt, h_cmd, h_ops, h_log, h_acq, h_host, h_twn, h_mgt]

theorem only_execSafetyLockstepMismatch {ps : List Part} {s0 : State} (s : State) (h : Only ps s0 s) (h_free : Part.free ∈ ps) (h_regs : Part.regs ∈ ps) (h_eng : Part.eng ∈ ps) (h_waits : Part.waits ∈ ps) (h_pwm : Part.pwm ∈ ps) (h_gdl : Part.gdl ∈ ps) (h_trp : Part.trp ∈ ps) (h_saf : Part.saf ∈ ps) (h_nt : Part.nt ∈ ps) (h_eth : Part.eth ∈ ps) (h_cmd : Part.cmd ∈ ps) (h_ops : Part.ops ∈ ps) (h_log : Part.log ∈ ps) (h_stg : Part.stg ∈ ps) (h_acq : Part.acq ∈ ps) (h_dma : Part.dma ∈ ps) (h_dram : Part.dram ∈ ps) (h_host : Part.host ∈ ps) (h_twn : Part.twn ∈ ps) (h_mgt : Part.mgt ∈ ps) :
    ∀ out, execSafetyLockstepMismatch s = .next out → Only ps s0 out := by
  unfold execSafetyLockstepMismatch
  intro out e
  cases e
  simp (maxDischargeDepth := 200) +contextual only [only_safFault, h, h_free, h_regs, h_eng, h_waits, h_pwm, h_gdl, h_trp, h_saf, h_nt, h_eth, h_cmd, h_ops, h_log, h_stg, h_acq, h_dma, h_dram, h_host, h_twn, h_mgt]

end Sys2Proof.Machine
end

