-- ==== Sys2Proof/Laws/OnlyAuth.lean ====
section
/-! SUPPORT. Frames of the operations and meanings of Machine/Auth.lean: one lemma each, which names the parts of the state that may
change. -/

set_option maxRecDepth 4000

namespace Sys2Proof.Machine

theorem only_setLastSeq {ps : List Part} {s0 : State} (s : State) (ring : Nat) (v : DWord) (h : Only ps s0 s) (h_regs : Part.regs ∈ ps) (h_sec : Part.sec ∈ ps) :
    Only ps s0 (State.setLastSeq s ring v) := by
  unfold State.setLastSeq
  simp (maxDischargeDepth := 200) +contextual only [only_modRep, only_setReg, only_ite, h, h_regs, h_sec]

theorem only_grantTaken {ps : List Part} {s0 : State} (s : State) (ring : Nat) (seq : DWord) (p : Bytes) (h : Only ps s0 s) (h_free : Part.free ∈ ps) (h_regs : Part.regs ∈ ps) (h_sec : Part.sec ∈ ps) :
    Only ps s0 (State.grantTaken s ring seq p) := by
  unfold State.grantTaken
  simp (maxDischargeDepth := 200) +contextual only [only_draw, only_modRep, only_setLastSeq, h, h_free, h_regs, h_sec]

theorem only_grantsDie {ps : List Part} {s0 : State} (s : State) (hit : Handed → Bool) (h : Only ps s0 s) (h_cmd : Part.cmd ∈ ps) (h_mgt : Part.mgt ∈ ps) :
    Only ps s0 (State.grantsDie s hit) := by
  unfold State.grantsDie
  simp (maxDischargeDepth := 200) +contextual only [only_modCmd, only_modMgt, h, h_cmd, h_mgt]

theorem only_unwrapFree {ps : List Part} {s0 : State} (s : State) (g : PendGrant) (h : Only ps s0 s) (h_regs : Part.regs ∈ ps) (h_cmd : Part.cmd ∈ ps) :
    Only ps s0 (State.unwrapFree s g) := by
  unfold State.unwrapFree
  simp (maxDischargeDepth := 200) +contextual only [only_backPressure, only_modCmd, only_forNums, only_ite, h, h_regs, h_cmd, implies_true]

theorem only_grantQueue {ps : List Part} {s0 : State} (s : State) (g : PendGrant) (h : Only ps s0 s) (h_regs : Part.regs ∈ ps) (h_cmd : Part.cmd ∈ ps) (h_sec : Part.sec ∈ ps) :
    Only ps s0 (State.grantQueue s g) := by
  unfold State.grantQueue
  simp (maxDischargeDepth := 200) +contextual only [only_backPressure, only_modCmd, only_modSec, only_ite, h, h_regs, h_cmd, h_sec]

theorem only_grantGo {ps : List Part} {s0 : State} (s : State) (c : Src) (plant : Bool) (p : Bytes) (h : Only ps s0 s) (h_regs : Part.regs ∈ ps) (h_cmd : Part.cmd ∈ ps) (h_sec : Part.sec ∈ ps) :
    Only ps s0 (State.grantGo s c plant p) := by
  unfold State.grantGo
  simp (maxDischargeDepth := 200) +contextual only [only_grantQueue, h, h_regs, h_cmd, h_sec]

theorem only_copyAnchors {ps : List Part} {s0 : State} (s : State) (h : Only ps s0 s) (h_mgt : Part.mgt ∈ ps) :
    Only ps s0 (State.copyAnchors s) := by
  unfold State.copyAnchors
  simp (maxDischargeDepth := 200) only [only_modMgt, only_ite, h, h_mgt]

theorem only_setAnchor {ps : List Part} {s0 : State} (s : State) (slot : Nat) (a : Anchor) (h : Only ps s0 s) (h_sec : Part.sec ∈ ps) :
    Only ps s0 (State.setAnchor s slot a) := by
  unfold State.setAnchor
  simp (maxDischargeDepth := 200) only [only_modSec, h, h_sec]

theorem only_retireGrants {ps : List Part} {s0 : State} (s : State) (slot : Nat) (h : Only ps s0 s) (h_cmd : Part.cmd ∈ ps) (h_sec : Part.sec ∈ ps) (h_mgt : Part.mgt ∈ ps) :
    Only ps s0 (State.retireGrants s slot) := by
  unfold State.retireGrants
  simp (maxDischargeDepth := 200) +contextual only [only_grantsDie, only_modRep, only_modSec, only_forNums, h, h_cmd, h_sec, h_mgt, implies_true]

theorem only_anchorInstall {ps : List Part} {s0 : State} (s : State) (c : Src) (p : Bytes) (h : Only ps s0 s) (h_regs : Part.regs ∈ ps) (h_cmd : Part.cmd ∈ ps) (h_log : Part.log ∈ ps) (h_sec : Part.sec ∈ ps) (h_host : Part.host ∈ ps) (h_twn : Part.twn ∈ ps) (h_mgt : Part.mgt ∈ ps) :
    Only ps s0 (State.anchorInstall s c p) := by
  unfold State.anchorInstall
  dsimp only
  repeat' split
  all_goals simp (maxDischargeDepth := 200) +contextual only [only_copyAnchors, only_done, only_modSec, only_nandTurn, only_refuse, only_retireGrants, only_setAnchor, h, h_regs, h_cmd, h_log, h_sec, h_host, h_twn, h_mgt]

theorem only_anchorRevoke {ps : List Part} {s0 : State} (s : State) (c : Src) (p : Bytes) (h : Only ps s0 s) (h_regs : Part.regs ∈ ps) (h_cmd : Part.cmd ∈ ps) (h_log : Part.log ∈ ps) (h_sec : Part.sec ∈ ps) (h_host : Part.host ∈ ps) (h_twn : Part.twn ∈ ps) (h_mgt : Part.mgt ∈ ps) :
    Only ps s0 (State.anchorRevoke s c p) := by
  unfold State.anchorRevoke
  dsimp only
  repeat' split
  all_goals simp (maxDischargeDepth := 200) +contextual only [only_copyAnchors, only_done, only_nandTurn, only_refuse, only_retireGrants, only_setAnchor, h, h_regs, h_cmd, h_log, h_sec, h_host, h_twn, h_mgt]

theorem only_eraseKeys {ps : List Part} {s0 : State} (s : State) (h : Only ps s0 s) (h_cmd : Part.cmd ∈ ps) (h_sec : Part.sec ∈ ps) (h_mgt : Part.mgt ∈ ps) :
    Only ps s0 (State.eraseKeys s) := by
  unfold State.eraseKeys
  simp (maxDischargeDepth := 200) +contextual only [only_grantsDie, only_modRep, only_modSec, only_forNums, h, h_cmd, h_sec, h_mgt, implies_true]

theorem only_grantAccept {ps : List Part} {s0 : State} (s : State) (c : Src) (plant : Bool) (p : Bytes) (h : Only ps s0 s) (h_regs : Part.regs ∈ ps) (h_cmd : Part.cmd ∈ ps) (h_sec : Part.sec ∈ ps) (h_mgt : Part.mgt ∈ ps) :
    Only ps s0 (State.grantAccept s c plant p) := by
  unfold State.grantAccept
  simp (maxDischargeDepth := 200) +contextual only [only_grantGo, only_took, only_ite, h, h_regs, h_cmd, h_sec, h_mgt]

theorem only_grantInstall {ps : List Part} {s0 : State} (s : State) (g : PendGrant) (h : Only ps s0 s) (h_regs : Part.regs ∈ ps) (h_cmd : Part.cmd ∈ ps) (h_sec : Part.sec ∈ ps) (h_host : Part.host ∈ ps) (h_twn : Part.twn ∈ ps) (h_mgt : Part.mgt ∈ ps) :
    Only ps s0 (State.grantInstall s g) := by
  unfold State.grantInstall
  dsimp only
  repeat' split
  all_goals simp (maxDischargeDepth := 200) +contextual only [only_done, only_modRep, only_modSec, only_refuse, h, h_regs, h_cmd, h_sec, h_host, h_twn, h_mgt]

theorem only_keyRetire {ps : List Part} {s0 : State} (s : State) (c : Src) (p : Bytes) (h : Only ps s0 s) (h_regs : Part.regs ∈ ps) (h_cmd : Part.cmd ∈ ps) (h_sec : Part.sec ∈ ps) (h_host : Part.host ∈ ps) (h_twn : Part.twn ∈ ps) (h_mgt : Part.mgt ∈ ps) :
    Only ps s0 (State.keyRetire s c p) := by
  unfold State.keyRetire
  simp (maxDischargeDepth := 200) only [only_done, only_modRep, only_modSec, only_ite, h, h_regs, h_cmd, h_sec, h_host, h_twn, h_mgt]

theorem only_tamper {ps : List Part} {s0 : State} (s : State) (n : Nat) (h : Only ps s0 s) (h_free : Part.free ∈ ps) (h_regs : Part.regs ∈ ps) (h_eng : Part.eng ∈ ps) (h_waits : Part.waits ∈ ps) (h_pwm : Part.pwm ∈ ps) (h_gdl : Part.gdl ∈ ps) (h_trp : Part.trp ∈ ps) (h_saf : Part.saf ∈ ps) (h_nt : Part.nt ∈ ps) (h_eth : Part.eth ∈ ps) (h_cmd : Part.cmd ∈ ps) (h_ops : Part.ops ∈ ps) (h_log : Part.log ∈ ps) (h_sec : Part.sec ∈ ps) (h_stg : Part.stg ∈ ps) (h_acq : Part.acq ∈ ps) (h_dma : Part.dma ∈ ps) (h_dram : Part.dram ∈ ps) (h_host : Part.host ∈ ps) (h_twn : Part.twn ∈ ps) (h_mgt : Part.mgt ∈ ps) :
    Only ps s0 (State.tamper s n) := by
  unfold State.tamper
  simp (maxDischargeDepth := 200) +contextual only [only_countWrap, only_eraseKeys, only_halt, only_modSec, only_notify, only_setFlag, only_ite, h, h_free, h_regs, h_eng, h_waits, h_pwm, h_gdl, h_trp, h_saf, h_nt, h_eth, h_cmd, h_ops, h_log, h_sec, h_stg, h_acq, h_dma, h_dram, h_host, h_twn, h_mgt]

theorem only_execAnchorInstall {ps : List Part} {s0 : State} (c : Src) (p : Bytes) (s : State) (h : Only ps s0 s) (h_regs : Part.regs ∈ ps) (h_cmd : Part.cmd ∈ ps) (h_log : Part.log ∈ ps) (h_sec : Part.sec ∈ ps) (h_host : Part.host ∈ ps) (h_twn : Part.twn ∈ ps) (h_mgt : Part.mgt ∈ ps) :
    ∀ out, execAnchorInstall c p s = .next out → Only ps s0 out := by
  unfold execAnchorInstall
  intro out e
  cases e
  simp (maxDischargeDepth := 200) +contextual only [only_anchorInstall, only_obey, h, h_regs, h_cmd, h_log, h_sec, h_host, h_twn, h_mgt, implies_true]

theorem only_execAnchorRevoke {ps : List Part} {s0 : State} (c : Src) (p : Bytes) (s : State) (h : Only ps s0 s) (h_regs : Part.regs ∈ ps) (h_cmd : Part.cmd ∈ ps) (h_log : Part.log ∈ ps) (h_sec : Part.sec ∈ ps) (h_host : Part.host ∈ ps) (h_twn : Part.twn ∈ ps) (h_mgt : Part.mgt ∈ ps) :
    ∀ out, execAnchorRevoke c p s = .next out → Only ps s0 out := by
  unfold execAnchorRevoke
  intro out e
  cases e
  simp (maxDischargeDepth := 200) +contextual only [only_anchorRevoke, only_obey, h, h_regs, h_cmd, h_log, h_sec, h_host, h_twn, h_mgt, implies_true]

theorem only_execGrantUnwrap {ps : List Part} {s0 : State} (ring : Fin 129) (s : State) (h : Only ps s0 s) (h_regs : Part.regs ∈ ps) (h_cmd : Part.cmd ∈ ps) (h_sec : Part.sec ∈ ps) (h_host : Part.host ∈ ps) (h_twn : Part.twn ∈ ps) (h_mgt : Part.mgt ∈ ps) :
    ∀ out, execGrantUnwrap ring s = .next out → Only ps s0 out := by
  unfold execGrantUnwrap
  intro out e
  split at e <;> cases e <;> simp (maxDischargeDepth := 200) +contextual only [only_grantInstall, only_unwrapFree, h, h_regs, h_cmd, h_sec, h_host, h_twn, h_mgt]

theorem only_execKeyGrant {ps : List Part} {s0 : State} (c : Src) (p : Bytes) (s : State) (h : Only ps s0 s) (h_regs : Part.regs ∈ ps) (h_cmd : Part.cmd ∈ ps) (h_sec : Part.sec ∈ ps) (h_host : Part.host ∈ ps) (h_twn : Part.twn ∈ ps) (h_mgt : Part.mgt ∈ ps) :
    ∀ out, execKeyGrant c p s = .next out → Only ps s0 out := by
  unfold execKeyGrant
  intro out e
  cases e
  simp (maxDischargeDepth := 200) +contextual only [only_grantAccept, only_obey, h, h_regs, h_cmd, h_sec, h_host, h_twn, h_mgt, implies_true]

theorem only_execKeyRetire {ps : List Part} {s0 : State} (c : Src) (p : Bytes) (s : State) (h : Only ps s0 s) (h_regs : Part.regs ∈ ps) (h_cmd : Part.cmd ∈ ps) (h_sec : Part.sec ∈ ps) (h_host : Part.host ∈ ps) (h_twn : Part.twn ∈ ps) (h_mgt : Part.mgt ∈ ps) :
    ∀ out, execKeyRetire c p s = .next out → Only ps s0 out := by
  unfold execKeyRetire
  intro out e
  cases e
  simp (maxDischargeDepth := 200) +contextual only [only_keyRetire, only_obey, h, h_regs, h_cmd, h_sec, h_host, h_twn, h_mgt, implies_true]

theorem only_execPlantKeyGrant {ps : List Part} {s0 : State} (c : Src) (p : Bytes) (s : State) (h : Only ps s0 s) (h_regs : Part.regs ∈ ps) (h_cmd : Part.cmd ∈ ps) (h_sec : Part.sec ∈ ps) (h_host : Part.host ∈ ps) (h_twn : Part.twn ∈ ps) (h_mgt : Part.mgt ∈ ps) :
    ∀ out, execPlantKeyGrant c p s = .next out → Only ps s0 out := by
  unfold execPlantKeyGrant
  intro out e
  cases e
  simp (maxDischargeDepth := 200) +contextual only [only_grantAccept, only_obey, h, h_regs, h_cmd, h_sec, h_host, h_twn, h_mgt, implies_true]

theorem only_execTamperDetection {ps : List Part} {s0 : State} (source : Fin 10) (s : State) (h : Only ps s0 s) (h_free : Part.free ∈ ps) (h_regs : Part.regs ∈ ps) (h_eng : Part.eng ∈ ps) (h_waits : Part.waits ∈ ps) (h_pwm : Part.pwm ∈ ps) (h_gdl : Part.gdl ∈ ps) (h_trp : Part.trp ∈ ps) (h_saf : Part.saf ∈ ps) (h_nt : Part.nt ∈ ps) (h_eth : Part.eth ∈ ps) (h_cmd : Part.cmd ∈ ps) (h_ops : Part.ops ∈ ps) (h_log : Part.log ∈ ps) (h_sec : Part.sec ∈ ps) (h_stg : Part.stg ∈ ps) (h_acq : Part.acq ∈ ps) (h_dma : Part.dma ∈ ps) (h_dram : Part.dram ∈ ps) (h_host : Part.host ∈ ps) (h_twn : Part.twn ∈ ps) (h_mgt : Part.mgt ∈ ps) :
    ∀ out, execTamperDetection source s = .next out → Only ps s0 out := by
  unfold execTamperDetection
  intro out e
  split at e <;> cases e <;> simp (maxDischargeDepth := 200) +contextual only [only_tamper, h, h_free, h_regs, h_eng, h_waits, h_pwm, h_gdl, h_trp, h_saf, h_nt, h_eth, h_cmd, h_ops, h_log, h_sec, h_stg, h_acq, h_dma, h_dram, h_host, h_twn, h_mgt]

end Sys2Proof.Machine
end

