-- ==== Sys2Proof/Laws/OnlyProfile.lean ====
section
/-! SUPPORT. Frames of the operations and meanings of Machine/Profile.lean: one lemma each, which names the parts of the state that may
change. -/

set_option maxRecDepth 4000

namespace Sys2Proof.Machine

theorem only_modOsc {ps : List Part} {s0 : State} (s : State) (e : Nat) (i : Nat) (f : OscInput → OscInput) (h : Only ps s0 s) (h_eng : Part.eng ∈ ps) :
    Only ps s0 (State.modOsc s e i f) := by
  unfold State.modOsc
  simp (maxDischargeDepth := 200) only [only_modEng, h, h_eng]

theorem only_modPrf {ps : List Part} {s0 : State} (s : State) (e : Nat) (c : Nat) (f : PrfChan → PrfChan) (h : Only ps s0 s) (h_eng : Part.eng ∈ ps) :
    Only ps s0 (State.modPrf s e c f) := by
  unfold State.modPrf
  simp (maxDischargeDepth := 200) only [only_modEng, h, h_eng]

theorem only_oscAct {ps : List Part} {s0 : State} (s : State) (e : Nat) (i : Nat) (busy : Bool) (h : Only ps s0 s) (h_free : Part.free ∈ ps) (h_regs : Part.regs ∈ ps) (h_eng : Part.eng ∈ ps) (h_pwm : Part.pwm ∈ ps) (h_gdl : Part.gdl ∈ ps) (h_trp : Part.trp ∈ ps) (h_nt : Part.nt ∈ ps) (h_log : Part.log ∈ ps) (h_acq : Part.acq ∈ ps) (h_twn : Part.twn ∈ ps) :
    Only ps s0 (State.oscAct s e i busy) := by
  unfold State.oscAct
  simp (maxDischargeDepth := 200) +contextual only [only_acqOffer, only_count, only_latch, only_modOsc, only_note, only_ptmAsk, only_setFlag, only_setReg, only_forNums, only_ite, h, h_free, h_regs, h_eng, h_pwm, h_gdl, h_trp, h_nt, h_log, h_acq, h_twn, implies_true]

theorem only_prfClearStart {ps : List Part} {s0 : State} (s : State) (e : Nat) (h : Only ps s0 s) (h_eng : Part.eng ∈ ps) :
    Only ps s0 (State.prfClearStart s e) := by
  unfold State.prfClearStart
  simp (maxDischargeDepth := 200) +contextual only [only_modPrf, only_forNums, h, h_eng, implies_true]

theorem only_prfFlag {ps : List Part} {s0 : State} (s : State) (e : Nat) (c : Nat) (n : Nat) (h : Only ps s0 s) (h_regs : Part.regs ∈ ps) :
    Only ps s0 (State.prfFlag s e c n) := by
  unfold State.prfFlag
  simp (maxDischargeDepth := 200) only [only_setReg, h, h_regs]

theorem only_prfHold {ps : List Part} {s0 : State} (s : State) (e : Nat) (h : Only ps s0 s) (h_regs : Part.regs ∈ ps) (h_eng : Part.eng ∈ ps) :
    Only ps s0 (State.prfHold s e) := by
  unfold State.prfHold
  simp (maxDischargeDepth := 200) +contextual only [only_modPrf, only_prfFlag, only_forNums, only_ite, h, h_regs, h_eng, implies_true]

theorem only_prfInit {ps : List Part} {s0 : State} (s : State) (e : Nat) (h : Only ps s0 s) (h_eng : Part.eng ∈ ps) :
    Only ps s0 (State.prfInit s e) := by
  unfold State.prfInit
  simp (maxDischargeDepth := 200) +contextual only [only_modPrf, only_forNums, h, h_eng, implies_true]

theorem only_prfTarget {ps : List Part} {s0 : State} (s : State) (e : Nat) (c : Nat) (w : Word) (h : Only ps s0 s) (h_regs : Part.regs ∈ ps) :
    Only ps s0 (State.prfTarget s e c w).2 := by
  unfold State.prfTarget
  simp (maxDischargeDepth := 200) only [only_prfFlag, only_ite, h, h_regs]

theorem only_prfPreset {ps : List Part} {s0 : State} (s : State) (e : Nat) (h : Only ps s0 s) (h_regs : Part.regs ∈ ps) (h_eng : Part.eng ∈ ps) :
    Only ps s0 (State.prfPreset s e) := by
  unfold State.prfPreset
  simp (maxDischargeDepth := 200) +contextual only [only_modPrf, only_prfTarget, only_forNums, h, h_regs, h_eng, implies_true]

theorem only_prfStart {ps : List Part} {s0 : State} (s : State) (e : Nat) (c : Nat) (w : Word) (h : Only ps s0 s) (h_regs : Part.regs ∈ ps) (h_eng : Part.eng ∈ ps) :
    Only ps s0 (State.prfStart s e c w) := by
  unfold State.prfStart
  simp (maxDischargeDepth := 200) only [only_modPrf, only_prfTarget, only_setReg, only_ite, h, h_regs, h_eng]

theorem only_prfStep {ps : List Part} {s0 : State} (s : State) (e : Nat) (h : Only ps s0 s) (h_regs : Part.regs ∈ ps) (h_eng : Part.eng ∈ ps) :
    Only ps s0 (State.prfStep s e) := by
  unfold State.prfStep
  refine only_forNums _ _ (fun c u hu => ?_) h
  dsimp only
  split <;> simp (maxDischargeDepth := 200) only [only_ite, only_setReg, only_prfFlag, only_modPrf, hu, h_regs, h_eng]

theorem only_execOscDetect {ps : List Part} {s0 : State} (e : Fin 8) (i : Fin 16) (s : State) (h : Only ps s0 s) (h_eng : Part.eng ∈ ps) :
    ∀ out, execOscDetect e i s = .next out → Only ps s0 out := by
  unfold execOscDetect
  intro out e
  dsimp only at e
  repeat' split at e
  all_goals (cases e; simp (maxDischargeDepth := 200) +contextual only [only_modOsc, h, h_eng])

theorem only_execOscTimeout {ps : List Part} {s0 : State} (e : Fin 8) (i : Fin 16) (s : State) (h : Only ps s0 s) (h_eng : Part.eng ∈ ps) :
    ∀ out, execOscTimeout e i s = .next out → Only ps s0 out := by
  unfold execOscTimeout
  intro out e
  dsimp only at e
  repeat' split at e
  all_goals (cases e; simp (maxDischargeDepth := 200) +contextual only [only_modOsc, h, h_eng])

end Sys2Proof.Machine
end

