-- ==== Sys2Proof/Laws/OnlyEngines.lean ====
section
/-! SUPPORT. Frames of the operations and meanings of Machine/Engines.lean: one lemma each, which names the parts of the state that may
change. -/

set_option maxRecDepth 4000

namespace Sys2Proof.Machine

theorem only_publishSet {ps : List Part} {s0 : State} (s : State) (v : State) (shadow : List ShadowEdge) (e : Nat) (h : Only ps s0 s) (h_pwm : Part.pwm ∈ ps) :
    Only ps s0 (State.publishSet s v shadow e) := by
  unfold State.publishSet
  simp (maxDischargeDepth := 200) +contextual only [only_foldl, only_modChan, only_foldl, only_ite, h, h_pwm, implies_true]

theorem only_takeSeen {ps : List Part} {s0 : State} (s : State) (e : Nat) (h : Only ps s0 s) (h_eng : Part.eng ∈ ps) :
    Only ps s0 (State.takeSeen s e) := by
  unfold State.takeSeen
  simp (maxDischargeDepth := 200) +contextual only [only_modEng, h, h_eng]

theorem only_digestCheck {ps : List Part} {s0 : State} (s : State) (e : Nat) (h : Only ps s0 s) (h_free : Part.free ∈ ps) (h_regs : Part.regs ∈ ps) (h_eng : Part.eng ∈ ps) (h_waits : Part.waits ∈ ps) (h_pwm : Part.pwm ∈ ps) (h_gdl : Part.gdl ∈ ps) (h_trp : Part.trp ∈ ps) (h_saf : Part.saf ∈ ps) (h_nt : Part.nt ∈ ps) (h_eth : Part.eth ∈ ps) (h_cmd : Part.cmd ∈ ps) (h_ops : Part.ops ∈ ps) (h_log : Part.log ∈ ps) (h_stg : Part.stg ∈ ps) (h_acq : Part.acq ∈ ps) (h_dma : Part.dma ∈ ps) (h_dram : Part.dram ∈ ps) (h_host : Part.host ∈ ps) (h_twn : Part.twn ∈ ps) (h_mgt : Part.mgt ∈ ps) :
    Only ps s0 (State.digestCheck s e) := by
  unfold State.digestCheck
  dsimp only
  repeat' split
  all_goals simp (maxDischargeDepth := 200) +contextual only [only_engineFault, only_modEng, only_forNums, h, h_free, h_regs, h_eng, h_waits, h_pwm, h_gdl, h_trp, h_saf, h_nt, h_eth, h_cmd, h_ops, h_log, h_stg, h_acq, h_dma, h_dram, h_host, h_twn, h_mgt, implies_true]

theorem only_refreshWork {ps : List Part} {s0 : State} (s : State) (e : Nat) (h : Only ps s0 s) (h_eng : Part.eng ∈ ps) :
    Only ps s0 (State.refreshWork s e) := by
  unfold State.refreshWork
  split <;> simp (maxDischargeDepth := 200) only [only_modEng, only_ite, h, h_eng]

theorem only_engineReset {ps : List Part} {s0 : State} (s : State) (e : Nat) (h : Only ps s0 s) (h_eng : Part.eng ∈ ps) :
    Only ps s0 (State.engineReset s e) := by
  unfold State.engineReset
  split <;> simp (maxDischargeDepth := 200) only [only_modEng, only_prfInit, only_refreshWork, h, h_eng]

theorem only_enqueue {ps : List Part} {s0 : State} (s : State) (c : Src) (op : Nat) (p : Bytes) (mask : Nat) (take : Option DWord) (h : Only ps s0 s) (h_eng : Part.eng ∈ ps) (h_waits : Part.waits ∈ ps) (h_cmd : Part.cmd ∈ ps) (h_twn : Part.twn ∈ ps) (h_mgt : Part.mgt ∈ ps) :
    Only ps s0 (State.enqueue s c op p mask take) := by
  unfold State.enqueue
  simp (maxDischargeDepth := 200) +contextual only [only_mirror, only_modEng, only_took, only_waitStart, only_forNums, only_ite, h, h_eng, h_waits, h_cmd, h_twn, h_mgt, implies_true]

theorem only_fadeFinish {ps : List Part} {s0 : State} (s : State) (e : Nat) (h : Only ps s0 s) (h_eng : Part.eng ∈ ps) :
    Only ps s0 (State.fadeFinish s e) := by
  unfold State.fadeFinish
  split <;> simp (maxDischargeDepth := 200) only [only_modEng, only_refreshWork, only_ite, h, h_eng]

theorem only_fadeStep {ps : List Part} {s0 : State} (s : State) (e : Nat) (h : Only ps s0 s) (h_eng : Part.eng ∈ ps) :
    Only ps s0 (State.fadeStep s e) := by
  unfold State.fadeStep
  split <;> simp (maxDischargeDepth := 200) only [only_modEng, h, h_eng]

theorem only_frdBankSwap {ps : List Part} {s0 : State} (s : State) (c : Src) (p : Bytes) (take : Option DWord) (h : Only ps s0 s) (h_regs : Part.regs ∈ ps) (h_eng : Part.eng ∈ ps) (h_waits : Part.waits ∈ ps) (h_cmd : Part.cmd ∈ ps) (h_host : Part.host ∈ ps) (h_twn : Part.twn ∈ ps) (h_mgt : Part.mgt ∈ ps) :
    Only ps s0 (State.frdBankSwap s c p take) := by
  unfold State.frdBankSwap
  simp (maxDischargeDepth := 200) only [only_enqueue, only_refuse, only_unlessHalted, only_ite, h, h_regs, h_eng, h_waits, h_cmd, h_host, h_twn, h_mgt]

theorem only_frdSatReadClear {ps : List Part} {s0 : State} (s : State) (c : Src) (p : Bytes) (take : Option DWord) (h : Only ps s0 s) (h_regs : Part.regs ∈ ps) (h_eng : Part.eng ∈ ps) (h_waits : Part.waits ∈ ps) (h_cmd : Part.cmd ∈ ps) (h_host : Part.host ∈ ps) (h_twn : Part.twn ∈ ps) (h_mgt : Part.mgt ∈ ps) :
    Only ps s0 (State.frdSatReadClear s c p take) := by
  unfold State.frdSatReadClear
  simp (maxDischargeDepth := 200) only [only_enqueue, only_refuse, only_unlessHalted, only_ite, h, h_regs, h_eng, h_waits, h_cmd, h_host, h_twn, h_mgt]

theorem only_gfmCommand {ps : List Part} {s0 : State} (s : State) (c : Src) (op : Nat) (p : Bytes) (take : Option DWord) (h : Only ps s0 s) (h_regs : Part.regs ∈ ps) (h_eng : Part.eng ∈ ps) (h_waits : Part.waits ∈ ps) (h_cmd : Part.cmd ∈ ps) (h_host : Part.host ∈ ps) (h_twn : Part.twn ∈ ps) (h_mgt : Part.mgt ∈ ps) :
    Only ps s0 (State.gfmCommand s c op p take) := by
  unfold State.gfmCommand
  simp (maxDischargeDepth := 200) only [only_done, only_enqueue, only_unlessHalted, only_ite, h, h_regs, h_eng, h_waits, h_cmd, h_host, h_twn, h_mgt]

theorem only_latchFrame {ps : List Part} {s0 : State} (s : State) (e : Nat) (nt : DWord) (half : Bool) (h : Only ps s0 s) (h_eng : Part.eng ∈ ps) (h_twn : Part.twn ∈ ps) :
    Only ps s0 (State.latchFrame s e nt half) := by
  unfold State.latchFrame
  simp (maxDischargeDepth := 200) +contextual only [only_modEng, only_modTwn, only_ite, h, h_eng, h_twn]

theorem only_mboxCapture {ps : List Part} {s0 : State} (s : State) (e : Nat) (h : Only ps s0 s) (h_regs : Part.regs ∈ ps) (h_bus : Part.bus ∈ ps) (h_eng : Part.eng ∈ ps) :
    Only ps s0 (State.mboxCapture s e) := by
  unfold State.mboxCapture
  simp (maxDischargeDepth := 200) +contextual only [only_modBus, only_modEng, only_setReg, h, h_regs, h_bus, h_eng]

theorem only_modGfm {ps : List Part} {s0 : State} (s : State) (e : Nat) (f : GfmState → GfmState) (h : Only ps s0 s) (h_eng : Part.eng ∈ ps) :
    Only ps s0 (State.modGfm s e f) := by
  unfold State.modGfm
  simp (maxDischargeDepth := 200) only [only_modEng, h, h_eng]

theorem only_prfSetTarget {ps : List Part} {s0 : State} (s : State) (c : Src) (p : Bytes) (take : Option DWord) (h : Only ps s0 s) (h_regs : Part.regs ∈ ps) (h_eng : Part.eng ∈ ps) (h_waits : Part.waits ∈ ps) (h_cmd : Part.cmd ∈ ps) (h_host : Part.host ∈ ps) (h_twn : Part.twn ∈ ps) (h_mgt : Part.mgt ∈ ps) :
    Only ps s0 (State.prfSetTarget s c p take) := by
  unfold State.prfSetTarget
  simp (maxDischargeDepth := 200) only [only_enqueue, only_refuse, only_unlessHalted, only_ite, h, h_regs, h_eng, h_waits, h_cmd, h_host, h_twn, h_mgt]

theorem only_publishWords {ps : List Part} {s0 : State} (s : State) (e : Nat) (h : Only ps s0 s) (h_eng : Part.eng ∈ ps) :
    Only ps s0 (State.publishWords s e) := by
  unfold State.publishWords
  simp (maxDischargeDepth := 200) only [only_modEng, h, h_eng]

theorem only_satReadClear {ps : List Part} {s0 : State} (s : State) (e : Nat) (m : MboxEntry) (h : Only ps s0 s) (h_regs : Part.regs ∈ ps) (h_eng : Part.eng ∈ ps) (h_waits : Part.waits ∈ ps) (h_nt : Part.nt ∈ ps) (h_cmd : Part.cmd ∈ ps) (h_log : Part.log ∈ ps) (h_host : Part.host ∈ ps) (h_twn : Part.twn ∈ ps) (h_mgt : Part.mgt ∈ ps) :
    Only ps s0 (State.satReadClear s e m) := by
  unfold State.satReadClear
  simp (maxDischargeDepth := 200) only [only_hostWrite, only_modEng, only_waitReport, only_ite, h, h_regs, h_eng, h_waits, h_nt, h_cmd, h_log, h_host, h_twn, h_mgt]

theorem only_swapReport {ps : List Part} {s0 : State} (s : State) (e : Nat) (x : SwapReq) (st : Status) (detail : Nat) (h : Only ps s0 s) (h_regs : Part.regs ∈ ps) (h_waits : Part.waits ∈ ps) (h_nt : Part.nt ∈ ps) (h_cmd : Part.cmd ∈ ps) (h_log : Part.log ∈ ps) (h_host : Part.host ∈ ps) (h_twn : Part.twn ∈ ps) (h_mgt : Part.mgt ∈ ps) :
    Only ps s0 (State.swapReport s e x st detail) := by
  unfold State.swapReport
  split <;> simp (maxDischargeDepth := 200) only [only_waitReport, h, h_regs, h_waits, h_nt, h_cmd, h_log, h_host, h_twn, h_mgt]

theorem only_swapOne {ps : List Part} {s0 : State} (s : State) (e : Nat) (x : SwapReq) (taken : Bool) (h : Only ps s0 s) (h_regs : Part.regs ∈ ps) (h_eng : Part.eng ∈ ps) (h_waits : Part.waits ∈ ps) (h_nt : Part.nt ∈ ps) (h_cmd : Part.cmd ∈ ps) (h_log : Part.log ∈ ps) (h_host : Part.host ∈ ps) (h_twn : Part.twn ∈ ps) (h_mgt : Part.mgt ∈ ps) :
    Only ps s0 (State.swapOne s e x taken).1 := by
  unfold State.swapOne
  dsimp only
  repeat' split
  all_goals simp (maxDischargeDepth := 200) +contextual only [only_modEng, only_swapReport, h, h_regs, h_eng, h_waits, h_nt, h_cmd, h_log, h_host, h_twn, h_mgt]

theorem only_swaps {ps : List Part} {s0 : State} (s : State) (e : Nat) (xs : List SwapReq) (taken : Bool) (h : Only ps s0 s)
    (h_regs : Part.regs ∈ ps) (h_eng : Part.eng ∈ ps) (h_waits : Part.waits ∈ ps) (h_nt : Part.nt ∈ ps) (h_cmd : Part.cmd ∈ ps) (h_log : Part.log ∈ ps) (h_host : Part.host ∈ ps) (h_twn : Part.twn ∈ ps) (h_mgt : Part.mgt ∈ ps) : Only ps s0 (s.swaps e xs taken) := by
  induction xs generalizing s taken with
  | nil => exact h
  | cons x xs ih =>
    exact ih _ _ (only_swapOne _ _ _ _ h h_regs h_eng h_waits h_nt h_cmd h_log h_host h_twn h_mgt)

theorem only_takeEntry {ps : List Part} {s0 : State} (s : State) (e : Nat) (m : MboxEntry) (h : Only ps s0 s) (h_regs : Part.regs ∈ ps) (h_eng : Part.eng ∈ ps) (h_waits : Part.waits ∈ ps) (h_nt : Part.nt ∈ ps) (h_cmd : Part.cmd ∈ ps) (h_log : Part.log ∈ ps) (h_host : Part.host ∈ ps) (h_twn : Part.twn ∈ ps) (h_mgt : Part.mgt ∈ ps) :
    Only ps s0 (State.takeEntry s e m) := by
  unfold State.takeEntry
  split <;> simp (maxDischargeDepth := 200) +contextual only [only_modEng, only_prfStart, only_satReadClear, only_waitReport, only_forNums, only_ite, h, h_regs, h_eng, h_waits, h_nt, h_cmd, h_log, h_host, h_twn, h_mgt, implies_true]

theorem only_takeSwaps {ps : List Part} {s0 : State} (s : State) (e : Nat) (h : Only ps s0 s) (h_free : Part.free ∈ ps) (h_regs : Part.regs ∈ ps) (h_eng : Part.eng ∈ ps) (h_waits : Part.waits ∈ ps) (h_pwm : Part.pwm ∈ ps) (h_gdl : Part.gdl ∈ ps) (h_trp : Part.trp ∈ ps) (h_nt : Part.nt ∈ ps) (h_cmd : Part.cmd ∈ ps) (h_log : Part.log ∈ ps) (h_acq : Part.acq ∈ ps) (h_host : Part.host ∈ ps) (h_twn : Part.twn ∈ ps) (h_mgt : Part.mgt ∈ ps) :
    Only ps s0 (State.takeSwaps s e) := by
  unfold State.takeSwaps
  dsimp only
  repeat' split
  all_goals simp (maxDischargeDepth := 200) +contextual only [only_count, only_foldl, only_modEng, only_oscAct, only_swapOne, only_swaps, only_foldl, h, h_free, h_regs, h_eng, h_waits, h_pwm, h_gdl, h_trp, h_nt, h_cmd, h_log, h_acq, h_host, h_twn, h_mgt, implies_true]

theorem only_takeWork {ps : List Part} {s0 : State} (s : State) (e : Nat) (h : Only ps s0 s) (h_regs : Part.regs ∈ ps) (h_eng : Part.eng ∈ ps) (h_waits : Part.waits ∈ ps) (h_nt : Part.nt ∈ ps) (h_cmd : Part.cmd ∈ ps) (h_log : Part.log ∈ ps) (h_host : Part.host ∈ ps) (h_twn : Part.twn ∈ ps) (h_mgt : Part.mgt ∈ ps) :
    Only ps s0 (State.takeWork s e) := by
  unfold State.takeWork
  simp (maxDischargeDepth := 200) +contextual only [only_modEng, only_prfStart, only_takeEntry, only_waitReport, h, h_regs, h_eng, h_waits, h_nt, h_cmd, h_log, h_host, h_twn, h_mgt, only_foldl, implies_true]

theorem only_execBreakerStateAccepted {ps : List Part} {s0 : State} (e : Fin 8) (closed : Bool) (s : State) (h : Only ps s0 s) (h_eng : Part.eng ∈ ps) :
    ∀ out, execBreakerStateAccepted e closed s = .next out → Only ps s0 out := by
  unfold execBreakerStateAccepted
  intro out e
  dsimp only at e
  repeat' split at e
  all_goals (cases e; simp (maxDischargeDepth := 200) +contextual only [only_modGfm, h, h_eng])

theorem only_execClExitTimeout {ps : List Part} {s0 : State} (e : Fin 8) (s : State) (h : Only ps s0 s) (h_now : Part.now ∈ ps) (h_eng : Part.eng ∈ ps) (h_nt : Part.nt ∈ ps) :
    ∀ out, execClExitTimeout e s = .next out → Only ps s0 out := by
  unfold execClExitTimeout
  intro out e
  dsimp only at e
  repeat' split at e
  all_goals (cases e; simp (maxDischargeDepth := 200) +contextual only [only_advanceTo, only_modGfm, h, h_now, h_eng, h_nt])

theorem only_execEngineStart {ps : List Part} {s0 : State} (e : Fin 8) (s : State) (h : Only ps s0 s) (h_now : Part.now ∈ ps) (h_regs : Part.regs ∈ ps) (h_eng : Part.eng ∈ ps) (h_trp : Part.trp ∈ ps) (h_nt : Part.nt ∈ ps) (h_twn : Part.twn ∈ ps) :
    ∀ out, execEngineStart e s = .next out → Only ps s0 out := by
  unfold execEngineStart
  intro out e
  dsimp only at e
  repeat' split at e
  all_goals (cases e; simp (maxDischargeDepth := 200) +contextual only [only_advanceTo, only_count, only_modEng, only_modTwn, only_modZone, only_forNums, h, h_now, h_regs, h_eng, h_trp, h_nt, h_twn, implies_true])

theorem only_execFadeEnd {ps : List Part} {s0 : State} (e : Fin 8) (s : State) (h : Only ps s0 s) (h_now : Part.now ∈ ps) (h_eng : Part.eng ∈ ps) (h_nt : Part.nt ∈ ps) :
    ∀ out, execFadeEnd e s = .next out → Only ps s0 out := by
  unfold execFadeEnd
  intro out e
  dsimp only at e
  repeat' split at e
  all_goals (cases e; simp (maxDischargeDepth := 200) +contextual only [only_advanceTo, only_fadeFinish, h, h_now, h_eng, h_nt])

theorem only_execFrdBankSwap {ps : List Part} {s0 : State} (c : Src) (p : Bytes) (s : State) (h : Only ps s0 s) (h_regs : Part.regs ∈ ps) (h_eng : Part.eng ∈ ps) (h_waits : Part.waits ∈ ps) (h_cmd : Part.cmd ∈ ps) (h_host : Part.host ∈ ps) (h_twn : Part.twn ∈ ps) (h_mgt : Part.mgt ∈ ps) :
    ∀ out, execFrdBankSwap c p s = .next out → Only ps s0 out := by
  unfold execFrdBankSwap
  intro out e
  cases e
  simp (maxDischargeDepth := 200) +contextual only [only_acting, only_frdBankSwap, h, h_regs, h_eng, h_waits, h_cmd, h_host, h_twn, h_mgt, implies_true]

theorem only_execFrdSatReadClear {ps : List Part} {s0 : State} (c : Src) (p : Bytes) (s : State) (h : Only ps s0 s) (h_regs : Part.regs ∈ ps) (h_eng : Part.eng ∈ ps) (h_waits : Part.waits ∈ ps) (h_cmd : Part.cmd ∈ ps) (h_host : Part.host ∈ ps) (h_twn : Part.twn ∈ ps) (h_mgt : Part.mgt ∈ ps) :
    ∀ out, execFrdSatReadClear c p s = .next out → Only ps s0 out := by
  unfold execFrdSatReadClear
  intro out e
  cases e
  simp (maxDischargeDepth := 200) +contextual only [only_acting, only_frdSatReadClear, h, h_regs, h_eng, h_waits, h_cmd, h_host, h_twn, h_mgt, implies_true]

theorem only_execGfmClearFlags {ps : List Part} {s0 : State} (c : Src) (p : Bytes) (s : State) (h : Only ps s0 s) (h_regs : Part.regs ∈ ps) (h_eng : Part.eng ∈ ps) (h_waits : Part.waits ∈ ps) (h_cmd : Part.cmd ∈ ps) (h_host : Part.host ∈ ps) (h_twn : Part.twn ∈ ps) (h_mgt : Part.mgt ∈ ps) :
    ∀ out, execGfmClearFlags c p s = .next out → Only ps s0 out := by
  unfold execGfmClearFlags
  intro out e
  cases e
  simp (maxDischargeDepth := 200) +contextual only [only_acting, only_gfmCommand, h, h_regs, h_eng, h_waits, h_cmd, h_host, h_twn, h_mgt, implies_true]

theorem only_execGfmSetBreaker {ps : List Part} {s0 : State} (c : Src) (p : Bytes) (s : State) (h : Only ps s0 s) (h_regs : Part.regs ∈ ps) (h_eng : Part.eng ∈ ps) (h_waits : Part.waits ∈ ps) (h_cmd : Part.cmd ∈ ps) (h_host : Part.host ∈ ps) (h_twn : Part.twn ∈ ps) (h_mgt : Part.mgt ∈ ps) :
    ∀ out, execGfmSetBreaker c p s = .next out → Only ps s0 out := by
  unfold execGfmSetBreaker
  intro out e
  cases e
  simp (maxDischargeDepth := 200) +contextual only [only_acting, only_gfmCommand, h, h_regs, h_eng, h_waits, h_cmd, h_host, h_twn, h_mgt, implies_true]

theorem only_execGfmSetTargets {ps : List Part} {s0 : State} (c : Src) (p : Bytes) (s : State) (h : Only ps s0 s) (h_regs : Part.regs ∈ ps) (h_eng : Part.eng ∈ ps) (h_waits : Part.waits ∈ ps) (h_cmd : Part.cmd ∈ ps) (h_host : Part.host ∈ ps) (h_twn : Part.twn ∈ ps) (h_mgt : Part.mgt ∈ ps) :
    ∀ out, execGfmSetTargets c p s = .next out → Only ps s0 out := by
  unfold execGfmSetTargets
  intro out e
  cases e
  simp (maxDischargeDepth := 200) +contextual only [only_acting, only_gfmCommand, h, h_regs, h_eng, h_waits, h_cmd, h_host, h_twn, h_mgt, implies_true]

theorem only_execGraphComplete {ps : List Part} {s0 : State} (e : Fin 8) (s : State) (h : Only ps s0 s) (h_now : Part.now ∈ ps) (h_free : Part.free ∈ ps) (h_regs : Part.regs ∈ ps) (h_eng : Part.eng ∈ ps) (h_waits : Part.waits ∈ ps) (h_pwm : Part.pwm ∈ ps) (h_gdl : Part.gdl ∈ ps) (h_trp : Part.trp ∈ ps) (h_saf : Part.saf ∈ ps) (h_nt : Part.nt ∈ ps) (h_eth : Part.eth ∈ ps) (h_cmd : Part.cmd ∈ ps) (h_ops : Part.ops ∈ ps) (h_log : Part.log ∈ ps) (h_stg : Part.stg ∈ ps) (h_acq : Part.acq ∈ ps) (h_dma : Part.dma ∈ ps) (h_dram : Part.dram ∈ ps) (h_host : Part.host ∈ ps) (h_twn : Part.twn ∈ ps) (h_mgt : Part.mgt ∈ ps) :
    ∀ out, execGraphComplete e s = .next out → Only ps s0 out := by
  unfold execGraphComplete
  intro out e
  dsimp only at e
  repeat' split at e
  all_goals (cases e; simp (maxDischargeDepth := 200) +contextual only [only_advanceTo, only_engineFault, only_modEng, h, h_now, h_free, h_regs, h_eng, h_waits, h_pwm, h_gdl, h_trp, h_saf, h_nt, h_eth, h_cmd, h_ops, h_log, h_stg, h_acq, h_dma, h_dram, h_host, h_twn, h_mgt])

theorem only_execMboxOutCapture {ps : List Part} {s0 : State} (e : Fin 8) (s : State) (h : Only ps s0 s) (h_regs : Part.regs ∈ ps) (h_bus : Part.bus ∈ ps) (h_eng : Part.eng ∈ ps) :
    ∀ out, execMboxOutCapture e s = .next out → Only ps s0 out := by
  unfold execMboxOutCapture
  intro out e
  cases e
  simp (maxDischargeDepth := 200) +contextual only [only_mboxCapture, h, h_regs, h_bus, h_eng]

theorem only_execPrfSetTarget {ps : List Part} {s0 : State} (c : Src) (p : Bytes) (s : State) (h : Only ps s0 s) (h_regs : Part.regs ∈ ps) (h_eng : Part.eng ∈ ps) (h_waits : Part.waits ∈ ps) (h_cmd : Part.cmd ∈ ps) (h_host : Part.host ∈ ps) (h_twn : Part.twn ∈ ps) (h_mgt : Part.mgt ∈ ps) :
    ∀ out, execPrfSetTarget c p s = .next out → Only ps s0 out := by
  unfold execPrfSetTarget
  intro out e
  cases e
  simp (maxDischargeDepth := 200) +contextual only [only_acting, only_prfSetTarget, h, h_regs, h_eng, h_waits, h_cmd, h_host, h_twn, h_mgt, implies_true]

theorem only_execPublish {ps : List Part} {s0 : State} (e : Fin 8) (s : State) (h : Only ps s0 s) (h_now : Part.now ∈ ps) (h_free : Part.free ∈ ps) (h_regs : Part.regs ∈ ps) (h_eng : Part.eng ∈ ps) (h_waits : Part.waits ∈ ps) (h_pwm : Part.pwm ∈ ps) (h_gdl : Part.gdl ∈ ps) (h_trp : Part.trp ∈ ps) (h_saf : Part.saf ∈ ps) (h_nt : Part.nt ∈ ps) (h_eth : Part.eth ∈ ps) (h_cmd : Part.cmd ∈ ps) (h_ops : Part.ops ∈ ps) (h_log : Part.log ∈ ps) (h_stg : Part.stg ∈ ps) (h_acq : Part.acq ∈ ps) (h_dma : Part.dma ∈ ps) (h_dram : Part.dram ∈ ps) (h_host : Part.host ∈ ps) (h_twn : Part.twn ∈ ps) (h_mgt : Part.mgt ∈ ps) :
    ∀ out, execPublish e s = .next out → Only ps s0 out := by
  unfold execPublish
  intro out e
  dsimp only at e
  repeat' split at e
  all_goals (cases e; simp (maxDischargeDepth := 200) +contextual only [only_advanceTo, only_engineFault, only_modEng, only_publishSet, h, h_now, h_free, h_regs, h_eng, h_waits, h_pwm, h_gdl, h_trp, h_saf, h_nt, h_eth, h_cmd, h_ops, h_log, h_stg, h_acq, h_dma, h_dram, h_host, h_twn, h_mgt])

theorem only_execRecoveryEnd {ps : List Part} {s0 : State} (e : Fin 8) (s : State) (h : Only ps s0 s) (h_now : Part.now ∈ ps) (h_eng : Part.eng ∈ ps) (h_nt : Part.nt ∈ ps) :
    ∀ out, execRecoveryEnd e s = .next out → Only ps s0 out := by
  unfold execRecoveryEnd
  intro out e
  repeat' split at e
  all_goals cases e
  all_goals simp (maxDischargeDepth := 200) only [only_advanceTo, only_modGfm, h, h_now, h_eng, h_nt]

theorem only_execRtExitTimeout {ps : List Part} {s0 : State} (e : Fin 8) (s : State) (h : Only ps s0 s) (h_now : Part.now ∈ ps) (h_eng : Part.eng ∈ ps) (h_nt : Part.nt ∈ ps) :
    ∀ out, execRtExitTimeout e s = .next out → Only ps s0 out := by
  unfold execRtExitTimeout
  intro out e
  dsimp only at e
  repeat' split at e
  all_goals (cases e; simp (maxDischargeDepth := 200) +contextual only [only_advanceTo, only_modGfm, h, h_now, h_eng, h_nt])

end Sys2Proof.Machine
end

