-- ==== Sys2Proof/Laws/OnlyClock.lean ====
section
/-! SUPPORT. Frames of the operations and meanings of Machine/Clock.lean: one lemma each, which names the parts of the state that may
change. -/

set_option maxRecDepth 4000

namespace Sys2Proof.Machine

theorem only_acqLate {ps : List Part} {s0 : State} (s : State) (h : Only ps s0 s) (h_free : Part.free ∈ ps) (h_regs : Part.regs ∈ ps) (h_eng : Part.eng ∈ ps) (h_waits : Part.waits ∈ ps) (h_pwm : Part.pwm ∈ ps) (h_gdl : Part.gdl ∈ ps) (h_trp : Part.trp ∈ ps) (h_saf : Part.saf ∈ ps) (h_nt : Part.nt ∈ ps) (h_eth : Part.eth ∈ ps) (h_cmd : Part.cmd ∈ ps) (h_ops : Part.ops ∈ ps) (h_log : Part.log ∈ ps) (h_stg : Part.stg ∈ ps) (h_acq : Part.acq ∈ ps) (h_dma : Part.dma ∈ ps) (h_dram : Part.dram ∈ ps) (h_host : Part.host ∈ ps) (h_twn : Part.twn ∈ ps) (h_mgt : Part.mgt ∈ ps) :
    Only ps s0 (State.acqLate s) := by
  unfold State.acqLate
  simp (maxDischargeDepth := 200) +contextual only [only_halt, only_setFlag, only_ite, h, h_free, h_regs, h_eng, h_waits, h_pwm, h_gdl, h_trp, h_saf, h_nt, h_eth, h_cmd, h_ops, h_log, h_stg, h_acq, h_dma, h_dram, h_host, h_twn, h_mgt]

theorem only_cycleEnd {ps : List Part} {s0 : State} (s : State) (edge : Nat) (h : Only ps s0 s) (h_now : Part.now ∈ ps) (h_nt : Part.nt ∈ ps) :
    Only ps s0 (State.cycleEnd s edge) := by
  unfold State.cycleEnd
  simp (maxDischargeDepth := 200) +contextual only [only_mk, or_true, true_or, h, h_now, h_nt]

theorem only_loopError {ps : List Part} {s0 : State} (s : State) (ref : Nat) (err : Int) (h : Only ps s0 s) (h_clk : Part.clk ∈ ps) :
    Only ps s0 (State.loopError s ref err) := by
  unfold State.loopError
  simp (maxDischargeDepth := 200) +contextual only [only_modClk, only_ite, h, h_clk]

theorem only_atLoss {ps : List Part} {s0 : State} (s : State) (h : Only ps s0 s) (h_now : Part.now ∈ ps) (h_nt : Part.nt ∈ ps) :
    Only ps s0 (State.atLoss s) := by
  unfold State.atLoss
  simp (maxDischargeDepth := 200) +contextual only [only_advanceTo, only_ite, h, h_now, h_nt]

theorem only_noteRef {ps : List Part} {s0 : State} (s : State) (present : Bool) (good : Bool) (h : Only ps s0 s) (h_clk : Part.clk ∈ ps) :
    Only ps s0 (State.noteRef s present good) := by
  unfold State.noteRef
  simp (maxDischargeDepth := 200) +contextual only [only_modClk, h, h_clk]

theorem only_stepRestart {ps : List Part} {s0 : State} (s : State) (err : Int) (h : Only ps s0 s) (h_now : Part.now ∈ ps) (h_clk : Part.clk ∈ ps) (h_nt : Part.nt ∈ ps) :
    Only ps s0 (State.stepRestart s err) := by
  unfold State.stepRestart
  simp (maxDischargeDepth := 200) +contextual only [only_cycleEnd, only_modClk, h, h_now, h_clk, h_nt]

theorem only_coast {ps : List Part} {s0 : State} (s : State) (fresh : Bool) (h : Only ps s0 s) (h_regs : Part.regs ∈ ps) (h_clk : Part.clk ∈ ps) (h_cmd : Part.cmd ∈ ps) (h_host : Part.host ∈ ps) (h_twn : Part.twn ∈ ps) (h_mgt : Part.mgt ∈ ps) :
    Only ps s0 (State.coast s fresh) := by
  unfold State.coast
  simp (maxDischargeDepth := 200) +contextual only [only_count, only_foldl, only_modClk, only_refuse, only_foldl, h, h_regs, h_clk, h_cmd, h_host, h_twn, h_mgt, implies_true]

theorem only_clkEvent {ps : List Part} {s0 : State} (s : State) (n : Nat) (h : Only ps s0 s) (h_regs : Part.regs ∈ ps) (h_log : Part.log ∈ ps) :
    Only ps s0 (State.clkEvent s n) := by
  unfold State.clkEvent
  simp (maxDischargeDepth := 200) +contextual only [only_logFlag, only_setFlag, h, h_regs, h_log]

theorem only_refLost {ps : List Part} {s0 : State} (s : State) (h : Only ps s0 s) (h_regs : Part.regs ∈ ps) (h_clk : Part.clk ∈ ps) (h_cmd : Part.cmd ∈ ps) (h_log : Part.log ∈ ps) (h_host : Part.host ∈ ps) (h_twn : Part.twn ∈ ps) (h_mgt : Part.mgt ∈ ps) :
    Only ps s0 (State.refLost s) := by
  unfold State.refLost
  dsimp only
  repeat' split
  all_goals simp (maxDischargeDepth := 200) +contextual only [only_clkEvent, only_coast, only_modClk, h, h_regs, h_clk, h_cmd, h_log, h_host, h_twn, h_mgt]

theorem only_slewStep {ps : List Part} {s0 : State} (s : State) (ref : Nat) (h : Only ps s0 s) (h_regs : Part.regs ∈ ps) (h_clk : Part.clk ∈ ps) (h_log : Part.log ∈ ps) :
    Only ps s0 (State.slewStep s ref) := by
  unfold State.slewStep
  simp (maxDischargeDepth := 200) +contextual only [only_clkEvent, only_modClk, only_ite, h, h_regs, h_clk, h_log]

theorem only_requalify {ps : List Part} {s0 : State} (s : State) (ref : Nat) (h : Only ps s0 s) (h_regs : Part.regs ∈ ps) (h_clk : Part.clk ∈ ps) (h_log : Part.log ∈ ps) :
    Only ps s0 (State.requalify s ref) := by
  unfold State.requalify
  simp (maxDischargeDepth := 200) +contextual only [only_clkEvent, only_count, only_modClk, only_ite, h, h_regs, h_clk, h_log]

theorem only_lockedStep {ps : List Part} {s0 : State} (s : State) (h : Only ps s0 s) (h_regs : Part.regs ∈ ps) (h_clk : Part.clk ∈ ps) (h_cmd : Part.cmd ∈ ps) (h_log : Part.log ∈ ps) (h_host : Part.host ∈ ps) (h_twn : Part.twn ∈ ps) (h_mgt : Part.mgt ∈ ps) :
    Only ps s0 (State.lockedStep s) := by
  unfold State.lockedStep
  simp (maxDischargeDepth := 200) +contextual only [only_clkEvent, only_coast, only_modClk, only_ite, h, h_regs, h_clk, h_cmd, h_log, h_host, h_twn, h_mgt]

theorem only_clkCommit {ps : List Part} {s0 : State} (s : State) (ref : Bool) (outs : Nat) (h : Only ps s0 s) (h_regs : Part.regs ∈ ps) (h_meas : Part.meas ∈ ps) (h_pwm : Part.pwm ∈ ps) (h_gdl : Part.gdl ∈ ps) (h_trp : Part.trp ∈ ps) (h_clk : Part.clk ∈ ps) (h_cmd : Part.cmd ∈ ps) (h_log : Part.log ∈ ps) (h_host : Part.host ∈ ps) (h_twn : Part.twn ∈ ps) (h_mgt : Part.mgt ∈ ps) :
    Only ps s0 (State.clkCommit s ref outs) := by
  unfold State.clkCommit
  dsimp only
  repeat' split
  all_goals simp (maxDischargeDepth := 200) +contextual only [only_clkEvent, only_coast, only_modClk, only_trainLink, only_forNums, h, h_regs, h_meas, h_pwm, h_gdl, h_trp, h_clk, h_cmd, h_log, h_host, h_twn, h_mgt, implies_true]

theorem only_restart2 {ps : List Part} {s0 : State} (s : State) (at_ : Nat) (h : Only ps s0 s) (h_regs : Part.regs ∈ ps) (h_meas : Part.meas ∈ ps) (h_clk : Part.clk ∈ ps) :
    Only ps s0 (State.restart2 s at_) := by
  unfold State.restart2
  simp (maxDischargeDepth := 200) +contextual only [only_dumpAlign, only_modClk, only_ite, only_mk, or_true, true_or, h, h_regs, h_meas, h_clk]

theorem only_clkStep {ps : List Part} {s0 : State} (s : State) (h : Only ps s0 s) (h_now : Part.now ∈ ps) (h_regs : Part.regs ∈ ps) (h_meas : Part.meas ∈ ps) (h_clk : Part.clk ∈ ps) (h_nt : Part.nt ∈ ps) (h_cmd : Part.cmd ∈ ps) (h_log : Part.log ∈ ps) (h_host : Part.host ∈ ps) (h_twn : Part.twn ∈ ps) (h_mgt : Part.mgt ∈ ps) :
    Only ps s0 (State.clkStep s) := by
  unfold State.clkStep
  simp (maxDischargeDepth := 200) +contextual only [only_clkEvent, only_done, only_dumpAlign, only_foldl, only_modClk, only_refuse, only_restart2, only_stepRestart, only_foldl, only_ite, h, h_now, h_regs, h_meas, h_clk, h_nt, h_cmd, h_log, h_host, h_twn, h_mgt, implies_true]

theorem only_firstLock {ps : List Part} {s0 : State} (s : State) (h : Only ps s0 s) (h_free : Part.free ∈ ps) (h_regs : Part.regs ∈ ps) (h_eng : Part.eng ∈ ps) (h_waits : Part.waits ∈ ps) (h_meas : Part.meas ∈ ps) (h_pwm : Part.pwm ∈ ps) (h_gdl : Part.gdl ∈ ps) (h_trp : Part.trp ∈ ps) (h_saf : Part.saf ∈ ps) (h_clk : Part.clk ∈ ps) (h_nt : Part.nt ∈ ps) (h_eth : Part.eth ∈ ps) (h_cmd : Part.cmd ∈ ps) (h_ops : Part.ops ∈ ps) (h_log : Part.log ∈ ps) (h_stg : Part.stg ∈ ps) (h_acq : Part.acq ∈ ps) (h_dma : Part.dma ∈ ps) (h_dram : Part.dram ∈ ps) (h_host : Part.host ∈ ps) (h_twn : Part.twn ∈ ps) (h_mgt : Part.mgt ∈ ps) :
    Only ps s0 (State.firstLock s) := by
  unfold State.firstLock
  dsimp only
  repeat' split
  all_goals simp (maxDischargeDepth := 200) +contextual only [only_acqLate, only_modClk, only_restart2, h, h_free, h_regs, h_eng, h_waits, h_meas, h_pwm, h_gdl, h_trp, h_saf, h_clk, h_nt, h_eth, h_cmd, h_ops, h_log, h_stg, h_acq, h_dma, h_dram, h_host, h_twn, h_mgt]

theorem only_compare {ps : List Part} {s0 : State} (s : State) (errPs : Int) (present : Bool) (good : Bool) (h : Only ps s0 s) (h_now : Part.now ∈ ps) (h_free : Part.free ∈ ps) (h_regs : Part.regs ∈ ps) (h_eng : Part.eng ∈ ps) (h_waits : Part.waits ∈ ps) (h_meas : Part.meas ∈ ps) (h_pwm : Part.pwm ∈ ps) (h_gdl : Part.gdl ∈ ps) (h_trp : Part.trp ∈ ps) (h_saf : Part.saf ∈ ps) (h_clk : Part.clk ∈ ps) (h_nt : Part.nt ∈ ps) (h_eth : Part.eth ∈ ps) (h_cmd : Part.cmd ∈ ps) (h_ops : Part.ops ∈ ps) (h_log : Part.log ∈ ps) (h_stg : Part.stg ∈ ps) (h_acq : Part.acq ∈ ps) (h_dma : Part.dma ∈ ps) (h_dram : Part.dram ∈ ps) (h_host : Part.host ∈ ps) (h_twn : Part.twn ∈ ps) (h_mgt : Part.mgt ∈ ps) :
    Only ps s0 (State.compare s errPs present good) := by
  unfold State.compare
  dsimp only
  repeat' split
  all_goals simp (maxDischargeDepth := 200) +contextual only [only_clkStep, only_firstLock, only_lockedStep, only_loopError, only_noteRef, only_requalify, only_slewStep, h, h_now, h_free, h_regs, h_eng, h_waits, h_meas, h_pwm, h_gdl, h_trp, h_saf, h_clk, h_nt, h_eth, h_cmd, h_ops, h_log, h_stg, h_acq, h_dma, h_dram, h_host, h_twn, h_mgt]

theorem only_reacquire {ps : List Part} {s0 : State} (s : State) (c : Src) (p : Bytes) (h : Only ps s0 s) (h_regs : Part.regs ∈ ps) (h_clk : Part.clk ∈ ps) (h_cmd : Part.cmd ∈ ps) (h_host : Part.host ∈ ps) (h_twn : Part.twn ∈ ps) (h_mgt : Part.mgt ∈ ps) :
    Only ps s0 (State.reacquire s c p) := by
  unfold State.reacquire
  simp (maxDischargeDepth := 200) +contextual only [only_done, only_foldl, only_modClk, only_refuse, only_foldl, only_ite, h, h_regs, h_clk, h_cmd, h_host, h_twn, h_mgt, implies_true]

theorem only_execAdpllLockTimeout {ps : List Part} {s0 : State} (s : State) (h : Only ps s0 s) (h_now : Part.now ∈ ps) (h_free : Part.free ∈ ps) (h_regs : Part.regs ∈ ps) (h_eng : Part.eng ∈ ps) (h_waits : Part.waits ∈ ps) (h_pwm : Part.pwm ∈ ps) (h_gdl : Part.gdl ∈ ps) (h_trp : Part.trp ∈ ps) (h_saf : Part.saf ∈ ps) (h_nt : Part.nt ∈ ps) (h_eth : Part.eth ∈ ps) (h_cmd : Part.cmd ∈ ps) (h_ops : Part.ops ∈ ps) (h_log : Part.log ∈ ps) (h_stg : Part.stg ∈ ps) (h_acq : Part.acq ∈ ps) (h_dma : Part.dma ∈ ps) (h_dram : Part.dram ∈ ps) (h_host : Part.host ∈ ps) (h_twn : Part.twn ∈ ps) (h_mgt : Part.mgt ∈ ps) :
    ∀ out, execAdpllLockTimeout s = .next out → Only ps s0 out := by
  unfold execAdpllLockTimeout
  intro out e
  split at e <;> cases e <;> simp (maxDischargeDepth := 200) +contextual only [only_acqLate, only_advanceTo, h, h_now, h_free, h_regs, h_eng, h_waits, h_pwm, h_gdl, h_trp, h_saf, h_nt, h_eth, h_cmd, h_ops, h_log, h_stg, h_acq, h_dma, h_dram, h_host, h_twn, h_mgt]

theorem only_execClkReacquire {ps : List Part} {s0 : State} (c : Src) (p : Bytes) (s : State) (h : Only ps s0 s) (h_regs : Part.regs ∈ ps) (h_clk : Part.clk ∈ ps) (h_cmd : Part.cmd ∈ ps) (h_host : Part.host ∈ ps) (h_twn : Part.twn ∈ ps) (h_mgt : Part.mgt ∈ ps) :
    ∀ out, execClkReacquire c p s = .next out → Only ps s0 out := by
  unfold execClkReacquire
  intro out e
  cases e
  simp (maxDischargeDepth := 200) +contextual only [only_obey, only_reacquire, h, h_regs, h_clk, h_cmd, h_host, h_twn, h_mgt, implies_true]

theorem only_execOutputRestart {ps : List Part} {s0 : State} (s : State) (h : Only ps s0 s) (h_now : Part.now ∈ ps) (h_regs : Part.regs ∈ ps) (h_meas : Part.meas ∈ ps) (h_clk : Part.clk ∈ ps) (h_nt : Part.nt ∈ ps) :
    ∀ out, execOutputRestart s = .next out → Only ps s0 out := by
  unfold execOutputRestart
  intro out e
  split at e <;> cases e <;> simp (maxDischargeDepth := 200) only [only_advanceTo, only_modClk, only_restart2, only_ite, h, h_now, h_regs, h_meas, h_clk, h_nt]

theorem only_atComparison {ps : List Part} {s0 : State} (s : State) (h : Only ps s0 s) (h_now : Part.now ∈ ps) (h_nt : Part.nt ∈ ps) :
    Only ps s0 (State.atComparison s) := by
  unfold State.atComparison
  repeat' split
  all_goals simp (maxDischargeDepth := 200) +contextual only [only_advanceTo, h, h_now, h_nt]

theorem only_execReferenceComparison {ps : List Part} {s0 : State} (errorPs : Int) (present : Bool) (good : Bool) (s : State) (h : Only ps s0 s) (h_now : Part.now ∈ ps) (h_free : Part.free ∈ ps) (h_regs : Part.regs ∈ ps) (h_eng : Part.eng ∈ ps) (h_waits : Part.waits ∈ ps) (h_meas : Part.meas ∈ ps) (h_pwm : Part.pwm ∈ ps) (h_gdl : Part.gdl ∈ ps) (h_trp : Part.trp ∈ ps) (h_saf : Part.saf ∈ ps) (h_clk : Part.clk ∈ ps) (h_nt : Part.nt ∈ ps) (h_eth : Part.eth ∈ ps) (h_cmd : Part.cmd ∈ ps) (h_ops : Part.ops ∈ ps) (h_log : Part.log ∈ ps) (h_stg : Part.stg ∈ ps) (h_acq : Part.acq ∈ ps) (h_dma : Part.dma ∈ ps) (h_dram : Part.dram ∈ ps) (h_host : Part.host ∈ ps) (h_twn : Part.twn ∈ ps) (h_mgt : Part.mgt ∈ ps) :
    ∀ out, execReferenceComparison errorPs present good s = .next out → Only ps s0 out := by
  unfold execReferenceComparison
  intro out e
  cases e
  simp (maxDischargeDepth := 200) +contextual only [only_atComparison, only_compare, only_ite, h, h_now, h_free, h_regs, h_eng, h_waits, h_meas, h_pwm, h_gdl, h_trp, h_saf, h_clk, h_nt, h_eth, h_cmd, h_ops, h_log, h_stg, h_acq, h_dma, h_dram, h_host, h_twn, h_mgt]

theorem only_execReferenceLost {ps : List Part} {s0 : State} (s : State) (h : Only ps s0 s) (h_now : Part.now ∈ ps) (h_free : Part.free ∈ ps) (h_regs : Part.regs ∈ ps) (h_eng : Part.eng ∈ ps) (h_waits : Part.waits ∈ ps) (h_pwm : Part.pwm ∈ ps) (h_gdl : Part.gdl ∈ ps) (h_trp : Part.trp ∈ ps) (h_saf : Part.saf ∈ ps) (h_clk : Part.clk ∈ ps) (h_nt : Part.nt ∈ ps) (h_eth : Part.eth ∈ ps) (h_cmd : Part.cmd ∈ ps) (h_ops : Part.ops ∈ ps) (h_log : Part.log ∈ ps) (h_stg : Part.stg ∈ ps) (h_acq : Part.acq ∈ ps) (h_dma : Part.dma ∈ ps) (h_dram : Part.dram ∈ ps) (h_host : Part.host ∈ ps) (h_twn : Part.twn ∈ ps) (h_mgt : Part.mgt ∈ ps) :
    ∀ out, execReferenceLost s = .next out → Only ps s0 out := by
  unfold execReferenceLost
  intro out e
  split at e <;> cases e <;> simp (maxDischargeDepth := 200) +contextual only [only_atLoss, only_halt, only_refLost, only_ite, h, h_now, h_free, h_regs, h_eng, h_waits, h_pwm, h_gdl, h_trp, h_saf, h_clk, h_nt, h_eth, h_cmd, h_ops, h_log, h_stg, h_acq, h_dma, h_dram, h_host, h_twn, h_mgt]

theorem only_execTcxoLoss {ps : List Part} {s0 : State} (s : State) (h : Only ps s0 s) (h_free : Part.free ∈ ps) (h_regs : Part.regs ∈ ps) (h_eng : Part.eng ∈ ps) (h_waits : Part.waits ∈ ps) (h_pwm : Part.pwm ∈ ps) (h_gdl : Part.gdl ∈ ps) (h_trp : Part.trp ∈ ps) (h_saf : Part.saf ∈ ps) (h_clk : Part.clk ∈ ps) (h_nt : Part.nt ∈ ps) (h_eth : Part.eth ∈ ps) (h_cmd : Part.cmd ∈ ps) (h_ops : Part.ops ∈ ps) (h_log : Part.log ∈ ps) (h_stg : Part.stg ∈ ps) (h_acq : Part.acq ∈ ps) (h_dma : Part.dma ∈ ps) (h_dram : Part.dram ∈ ps) (h_host : Part.host ∈ ps) (h_twn : Part.twn ∈ ps) (h_mgt : Part.mgt ∈ ps) :
    ∀ out, execTcxoLoss s = .next out → Only ps s0 out := by
  unfold execTcxoLoss
  intro out e
  cases e
  simp (maxDischargeDepth := 200) +contextual only [only_halt, only_refLost, only_ite, h, h_free, h_regs, h_eng, h_waits, h_pwm, h_gdl, h_trp, h_saf, h_clk, h_nt, h_eth, h_cmd, h_ops, h_log, h_stg, h_acq, h_dma, h_dram, h_host, h_twn, h_mgt]

end Sys2Proof.Machine
end

