-- ==== Sys2Proof/Laws/OnlyEth.lean ====
section
/-! SUPPORT. Frames of the operations and meanings of Machine/Eth.lean: one lemma each, which names the parts of the state that may
change. -/

set_option maxRecDepth 4000

namespace Sys2Proof.Machine

theorem only_dupCheck {ps : List Part} {s0 : State} (s : State) (key : Bytes) (seq : Nat) (h : Only ps s0 s) (h_eth : Part.eth ∈ ps) :
    Only ps s0 (State.dupCheck s key seq).2 := by
  unfold State.dupCheck
  dsimp only
  repeat' split
  all_goals simp (maxDischargeDepth := 200) +contextual only [only_mk, or_true, true_or, h, h_eth]

theorem only_queueRx {ps : List Part} {s0 : State} (s : State) (f : Bytes) (ts : DWord) (h : Only ps s0 s) (h_eth : Part.eth ∈ ps) :
    Only ps s0 (State.queueRx s f ts) := by
  unfold State.queueRx
  simp (maxDischargeDepth := 200) only [only_ite, only_mk, or_true, true_or, h, h_eth]

theorem only_ethDeliver {ps : List Part} {s0 : State} (s : State) (f : Bytes) (ts : DWord) (h : Only ps s0 s) (h_eth : Part.eth ∈ ps) :
    Only ps s0 (State.ethDeliver s f ts) := by
  unfold State.ethDeliver
  simp (maxDischargeDepth := 200) only [only_queueRx, only_ite, only_mk, or_true, true_or, h, h_eth]

theorem only_prpReceive {ps : List Part} {s0 : State} (s : State) (p : Nat) (f : Bytes) (ts : DWord) (h : Only ps s0 s) (h_regs : Part.regs ∈ ps) (h_eth : Part.eth ∈ ps) :
    Only ps s0 (State.prpReceive s p f ts) := by
  unfold State.prpReceive
  dsimp only
  repeat' split
  all_goals simp (maxDischargeDepth := 200) +contextual only [only_count, only_dupCheck, only_ethDeliver, h, h_regs, h_eth]

theorem only_giveFrame {ps : List Part} {s0 : State} (s : State) (p : Nat) (f : TxFrame) (urgent : Bool) (h : Only ps s0 s) (h_eth : Part.eth ∈ ps) :
    Only ps s0 (State.giveFrame s p f urgent) := by
  unfold State.giveFrame
  simp (maxDischargeDepth := 200) +contextual only [only_modPort, h, h_eth]

theorem only_hsrReceive {ps : List Part} {s0 : State} (s : State) (p : Nat) (f : Bytes) (ts : DWord) (h : Only ps s0 s) (h_regs : Part.regs ∈ ps) (h_eth : Part.eth ∈ ps) :
    Only ps s0 (State.hsrReceive s p f ts) := by
  unfold State.hsrReceive
  dsimp only
  repeat' split
  all_goals simp (maxDischargeDepth := 200) +contextual only [only_count, only_dupCheck, only_ethDeliver, only_giveFrame, h, h_regs, h_eth]

theorem only_ethReceive {ps : List Part} {s0 : State} (s : State) (p : Nat) (f : Bytes) (good : Bool) (h : Only ps s0 s) (h_regs : Part.regs ∈ ps) (h_eth : Part.eth ∈ ps) :
    Only ps s0 (State.ethReceive s p f good) := by
  unfold State.ethReceive
  dsimp only
  repeat' split
  all_goals simp (maxDischargeDepth := 200) +contextual only [only_count, only_ethDeliver, only_hsrReceive, only_prpReceive, h, h_regs, h_eth]

theorem only_giveBoth {ps : List Part} {s0 : State} (s : State) (f : Bytes) (urgent : Bool) (h : Only ps s0 s) (h_eth : Part.eth ∈ ps) :
    Only ps s0 (State.giveBoth s f urgent) := by
  unfold State.giveBoth
  split <;> simp (maxDischargeDepth := 200) only [only_giveFrame, only_mk, or_true, true_or, h, h_eth]

theorem only_queueTxTs {ps : List Part} {s0 : State} (s : State) (p : Nat) (t : TxTs) (h : Only ps s0 s) (h_regs : Part.regs ∈ ps) (h_eth : Part.eth ∈ ps) :
    Only ps s0 (State.queueTxTs s p t) := by
  unfold State.queueTxTs
  simp (maxDischargeDepth := 200) only [only_count, only_modPort, only_setFlag, only_ite, h, h_regs, h_eth]

theorem only_ethSend {ps : List Part} {s0 : State} (s : State) (p : Nat) (h : Only ps s0 s) (h_regs : Part.regs ∈ ps) (h_eth : Part.eth ∈ ps) :
    Only ps s0 (State.ethSend s p) := by
  unfold State.ethSend
  dsimp only
  repeat' split
  all_goals simp (maxDischargeDepth := 200) +contextual only [only_giveBoth, only_giveFrame, only_modPort, only_queueTxTs, only_mk, or_true, true_or, h, h_regs, h_eth]

theorem only_txtsRead {ps : List Part} {s0 : State} (s : State) (p : Nat) (h : Only ps s0 s) (h_eth : Part.eth ∈ ps) :
    Only ps s0 (State.txtsRead s p) := by
  unfold State.txtsRead
  simp (maxDischargeDepth := 200) only [only_modPort, h, h_eth]

theorem only_execEthFrameReceive {ps : List Part} {s0 : State} (port : Fin 2) (frame : Bytes) (good : Bool) (s : State) (h : Only ps s0 s) (h_regs : Part.regs ∈ ps) (h_eth : Part.eth ∈ ps) :
    ∀ out, execEthFrameReceive port frame good s = .next out → Only ps s0 out := by
  unfold execEthFrameReceive
  intro out e
  split at e <;> cases e <;> simp (maxDischargeDepth := 200) only [only_ethReceive, h, h_regs, h_eth]

theorem only_execEthFrameTransmit {ps : List Part} {s0 : State} (port : Fin 2) (s : State) (h : Only ps s0 s) (h_regs : Part.regs ∈ ps) (h_eth : Part.eth ∈ ps) :
    ∀ out, execEthFrameTransmit port s = .next out → Only ps s0 out := by
  unfold execEthFrameTransmit
  intro out e
  split at e <;> cases e <;> simp (maxDischargeDepth := 200) only [only_ethSend, h, h_regs, h_eth]

theorem only_execEthLinkChange {ps : List Part} {s0 : State} (port : Fin 2) (anDone : Bool) (sync : Bool) (link : PortLine) (s : State) (h : Only ps s0 s) (h_eth : Part.eth ∈ ps) :
    ∀ out, execEthLinkChange port anDone sync link s = .next out → Only ps s0 out := by
  unfold execEthLinkChange
  intro out e
  cases e
  simp (maxDischargeDepth := 200) +contextual only [only_modPort, h, h_eth]

theorem only_execEthTxtsRead {ps : List Part} {s0 : State} (port : Fin 2) (s : State) (h : Only ps s0 s) (h_bus : Part.bus ∈ ps) (h_eth : Part.eth ∈ ps) :
    ∀ out, execEthTxtsRead port s = .next out → Only ps s0 out := by
  unfold execEthTxtsRead
  intro out e
  cases e
  simp (maxDischargeDepth := 200) only [only_txtsRead, only_mk, or_true, true_or, h, h_bus, h_eth]

theorem only_execSupervisionFrameSend {ps : List Part} {s0 : State} (s : State) (h : Only ps s0 s) (h_now : Part.now ∈ ps) (h_nt : Part.nt ∈ ps) (h_eth : Part.eth ∈ ps) :
    ∀ out, execSupervisionFrameSend s = .next out → Only ps s0 out := by
  unfold execSupervisionFrameSend
  intro out e
  split at e <;> cases e <;> simp (maxDischargeDepth := 200) only [only_advanceTo, only_giveBoth, only_mk, or_true, true_or, h, h_now, h_nt, h_eth]

end Sys2Proof.Machine
end

