-- ==== Sys2Proof/Laws/OnlyNetTime.lean ====
section
/-! SUPPORT. Frames of the operations and meanings of Machine/NetTime.lean: one lemma each, which names the parts of the state that may
change. -/

set_option maxRecDepth 4000

namespace Sys2Proof.Machine

theorem only_latchBatch {ps : List Part} {s0 : State} (s : State) (h : Only ps s0 s) (h_nt : Part.nt ∈ ps) :
    Only ps s0 (State.latchBatch s) := by
  unfold State.latchBatch
  simp (maxDischargeDepth := 200) only [only_modNt, only_ite, h, h_nt]

theorem only_ntIncr {ps : List Part} {s0 : State} (s : State) (v : DWord) (h : Only ps s0 s) (h_regs : Part.regs ∈ ps) (h_nt : Part.nt ∈ ps) :
    Only ps s0 (State.ntIncr s v) := by
  unfold State.ntIncr
  simp (maxDischargeDepth := 200) only [only_count, only_modNt, only_setRegN, only_ite, h, h_regs, h_nt]

theorem only_ntSet {ps : List Part} {s0 : State} (s : State) (c : Src) (p : Bytes) (h : Only ps s0 s) (h_regs : Part.regs ∈ ps) (h_clk : Part.clk ∈ ps) (h_nt : Part.nt ∈ ps) (h_cmd : Part.cmd ∈ ps) (h_log : Part.log ∈ ps) (h_host : Part.host ∈ ps) (h_twn : Part.twn ∈ ps) (h_mgt : Part.mgt ∈ ps) :
    Only ps s0 (State.ntSet s c p) := by
  unfold State.ntSet
  simp (maxDischargeDepth := 200) only [only_done, only_modClk, only_modNt, only_note, only_refuse, only_setRegN, only_ite, h, h_regs, h_clk, h_nt, h_cmd, h_log, h_host, h_twn, h_mgt]

theorem only_ptmPublish {ps : List Part} {s0 : State} (s : State) (e : PtmEvent) (rest : List PtmEvent) (h : Only ps s0 s) (h_regs : Part.regs ∈ ps) (h_nt : Part.nt ∈ ps) (h_eth : Part.eth ∈ ps) :
    Only ps s0 (State.ptmPublish s e rest) := by
  unfold State.ptmPublish
  dsimp only
  repeat' split
  all_goals simp (maxDischargeDepth := 200) +contextual only [only_count, only_giveBoth, only_modNt, h, h_regs, h_nt, h_eth]

theorem only_ptmReceive {ps : List Part} {s0 : State} (s : State) (p : Bytes) (h : Only ps s0 s) (h_regs : Part.regs ∈ ps) (h_nt : Part.nt ∈ ps) (h_acq : Part.acq ∈ ps) :
    Only ps s0 (State.ptmReceive s p) := by
  unfold State.ptmReceive
  simp (maxDischargeDepth := 200) only [only_acqTrigMask, only_count, only_modNt, only_ite, h, h_regs, h_nt, h_acq]

theorem only_sporeCancel {ps : List Part} {s0 : State} (s : State) (c : Src) (p : Bytes) (h : Only ps s0 s) (h_regs : Part.regs ∈ ps) (h_nt : Part.nt ∈ ps) (h_cmd : Part.cmd ∈ ps) (h_host : Part.host ∈ ps) (h_twn : Part.twn ∈ ps) (h_mgt : Part.mgt ∈ ps) :
    Only ps s0 (State.sporeCancel s c p) := by
  unfold State.sporeCancel
  simp (maxDischargeDepth := 200) only [only_done, only_modNt, only_refuse, only_ite, h, h_regs, h_nt, h_cmd, h_host, h_twn, h_mgt]

theorem only_sporeLoad {ps : List Part} {s0 : State} (s : State) (c : Src) (p : Bytes) (h : Only ps s0 s) (h_regs : Part.regs ∈ ps) (h_nt : Part.nt ∈ ps) (h_cmd : Part.cmd ∈ ps) (h_host : Part.host ∈ ps) (h_twn : Part.twn ∈ ps) (h_mgt : Part.mgt ∈ ps) :
    Only ps s0 (State.sporeLoad s c p) := by
  unfold State.sporeLoad
  repeat' split
  all_goals simp (maxDischargeDepth := 200) only [only_count, only_done, only_modNt, only_refuse, only_ite, h, h_regs, h_nt, h_cmd, h_host, h_twn, h_mgt]

theorem only_sporeRecRead {ps : List Part} {s0 : State} (s : State) (h : Only ps s0 s) (h_nt : Part.nt ∈ ps) :
    Only ps s0 (State.sporeRecRead s) := by
  unfold State.sporeRecRead
  simp (maxDischargeDepth := 200) only [only_modNt, h, h_nt]

theorem only_execNtIncrWrite {ps : List Part} {s0 : State} (v : DWord) (s : State) (h : Only ps s0 s) (h_regs : Part.regs ∈ ps) (h_nt : Part.nt ∈ ps) :
    ∀ out, execNtIncrWrite v s = .next out → Only ps s0 out := by
  unfold execNtIncrWrite
  intro out e
  cases e
  simp (maxDischargeDepth := 200) +contextual only [only_ntIncr, h, h_regs, h_nt]

theorem only_execNtSet {ps : List Part} {s0 : State} (c : Src) (p : Bytes) (s : State) (h : Only ps s0 s) (h_regs : Part.regs ∈ ps) (h_clk : Part.clk ∈ ps) (h_nt : Part.nt ∈ ps) (h_cmd : Part.cmd ∈ ps) (h_log : Part.log ∈ ps) (h_host : Part.host ∈ ps) (h_twn : Part.twn ∈ ps) (h_mgt : Part.mgt ∈ ps) :
    ∀ out, execNtSet c p s = .next out → Only ps s0 out := by
  unfold execNtSet
  intro out e
  cases e
  simp (maxDischargeDepth := 200) +contextual only [only_ntSet, only_obey, h, h_regs, h_clk, h_nt, h_cmd, h_log, h_host, h_twn, h_mgt, implies_true]

theorem only_execNtSporeCancel {ps : List Part} {s0 : State} (c : Src) (p : Bytes) (s : State) (h : Only ps s0 s) (h_regs : Part.regs ∈ ps) (h_nt : Part.nt ∈ ps) (h_cmd : Part.cmd ∈ ps) (h_host : Part.host ∈ ps) (h_twn : Part.twn ∈ ps) (h_mgt : Part.mgt ∈ ps) :
    ∀ out, execNtSporeCancel c p s = .next out → Only ps s0 out := by
  unfold execNtSporeCancel
  intro out e
  cases e
  simp (maxDischargeDepth := 200) +contextual only [only_obey, only_sporeCancel, h, h_regs, h_nt, h_cmd, h_host, h_twn, h_mgt, implies_true]

theorem only_execNtSporeLoad {ps : List Part} {s0 : State} (c : Src) (p : Bytes) (s : State) (h : Only ps s0 s) (h_regs : Part.regs ∈ ps) (h_nt : Part.nt ∈ ps) (h_cmd : Part.cmd ∈ ps) (h_host : Part.host ∈ ps) (h_twn : Part.twn ∈ ps) (h_mgt : Part.mgt ∈ ps) :
    ∀ out, execNtSporeLoad c p s = .next out → Only ps s0 out := by
  unfold execNtSporeLoad
  intro out e
  cases e
  simp (maxDischargeDepth := 200) +contextual only [only_obey, only_sporeLoad, h, h_regs, h_nt, h_cmd, h_host, h_twn, h_mgt, implies_true]

theorem only_execNtSporeRecRead {ps : List Part} {s0 : State} (s : State) (h : Only ps s0 s) (h_bus : Part.bus ∈ ps) (h_nt : Part.nt ∈ ps) :
    ∀ out, execNtSporeRecRead s = .next out → Only ps s0 out := by
  unfold execNtSporeRecRead
  intro out e
  cases e
  simp (maxDischargeDepth := 200) only [only_sporeRecRead, only_mk, or_true, true_or, h, h_bus, h_nt]

theorem only_execNtValidClr {ps : List Part} {s0 : State} (s : State) (h : Only ps s0 s) (h_nt : Part.nt ∈ ps) :
    ∀ out, execNtValidClr s = .next out → Only ps s0 out := by
  unfold execNtValidClr
  intro out e
  cases e
  simp (maxDischargeDepth := 200) only [only_modNt, h, h_nt]

theorem only_execNtValidSet {ps : List Part} {s0 : State} (s : State) (h : Only ps s0 s) (h_nt : Part.nt ∈ ps) :
    ∀ out, execNtValidSet s = .next out → Only ps s0 out := by
  unfold execNtValidSet
  intro out e
  cases e
  simp (maxDischargeDepth := 200) only [only_modNt, h, h_nt]

theorem only_execPpsOutPulse {ps : List Part} {s0 : State} (s : State) (h : Only ps s0 s) (h_now : Part.now ∈ ps) (h_nt : Part.nt ∈ ps) :
    ∀ out, execPpsOutPulse s = .next out → Only ps s0 out := by
  unfold execPpsOutPulse
  intro out e
  repeat' split at e
  all_goals cases e
  all_goals simp (maxDischargeDepth := 200) only [only_advanceTo, only_modNt, h, h_now, h_nt]

theorem only_execPtmHoldoffEnd {ps : List Part} {s0 : State} (s : State) (h : Only ps s0 s) (h_now : Part.now ∈ ps) (h_nt : Part.nt ∈ ps) :
    ∀ out, execPtmHoldoffEnd s = .next out → Only ps s0 out := by
  unfold execPtmHoldoffEnd
  intro out e
  split at e <;> cases e <;> simp (maxDischargeDepth := 200) only [only_advanceTo, only_modNt, h, h_now, h_nt]

theorem only_execPtmPublish {ps : List Part} {s0 : State} (s : State) (h : Only ps s0 s) (h_regs : Part.regs ∈ ps) (h_nt : Part.nt ∈ ps) (h_eth : Part.eth ∈ ps) :
    ∀ out, execPtmPublish s = .next out → Only ps s0 out := by
  unfold execPtmPublish
  intro out e
  split at e <;> cases e <;> simp (maxDischargeDepth := 200) only [only_ptmPublish, h, h_regs, h_nt, h_eth]

theorem only_execPtmReceive {ps : List Part} {s0 : State} (payload : Bytes) (s : State) (h : Only ps s0 s) (h_regs : Part.regs ∈ ps) (h_nt : Part.nt ∈ ps) (h_acq : Part.acq ∈ ps) :
    ∀ out, execPtmReceive payload s = .next out → Only ps s0 out := by
  unfold execPtmReceive
  intro out e
  cases e
  simp (maxDischargeDepth := 200) only [only_ptmReceive, h, h_regs, h_nt, h_acq]

theorem only_execPtmSenderExpiry {ps : List Part} {s0 : State} (unitId : BitVec 16) (s : State) (h : Only ps s0 s) (h_now : Part.now ∈ ps) (h_nt : Part.nt ∈ ps) :
    ∀ out, execPtmSenderExpiry unitId s = .next out → Only ps s0 out := by
  unfold execPtmSenderExpiry
  intro out e
  split at e <;> cases e <;> simp (maxDischargeDepth := 200) only [only_advanceTo, only_modNt, h, h_now, h_nt]

theorem only_execSporeDue {ps : List Part} {s0 : State} (s : State) (h : Only ps s0 s) (h_now : Part.now ∈ ps) (h_nt : Part.nt ∈ ps) :
    ∀ out, execSporeDue s = .next out → Only ps s0 out := by
  unfold execSporeDue
  intro out e
  split at e <;> cases e <;> simp (maxDischargeDepth := 200) only [only_advanceTo, only_latchBatch, h, h_now, h_nt]

end Sys2Proof.Machine
end

