-- ==== Sys2Proof/Laws/OnlyStaging.lean ====
section
/-! SUPPORT. Frames of the operations and meanings of Machine/Staging.lean: one lemma each, which names the parts of the state that may
change. -/

set_option maxRecDepth 4000

namespace Sys2Proof.Machine

theorem only_rhizomeCommit {ps : List Part} {s0 : State} (s : State) (h : Only ps s0 s) (h_twn : Part.twn ∈ ps) :
    Only ps s0 (State.rhizomeCommit s) := by
  unfold State.rhizomeCommit
  simp (maxDischargeDepth := 200) +contextual only [only_modTwn, h, h_twn]

theorem only_commitEngines {ps : List Part} {s0 : State} (s : State) (h : Only ps s0 s) (h_regs : Part.regs ∈ ps) (h_eng : Part.eng ∈ ps) (h_waits : Part.waits ∈ ps) (h_nt : Part.nt ∈ ps) (h_cmd : Part.cmd ∈ ps) (h_log : Part.log ∈ ps) (h_host : Part.host ∈ ps) (h_twn : Part.twn ∈ ps) (h_mgt : Part.mgt ∈ ps) :
    Only ps s0 (State.commitEngines s) := by
  unfold State.commitEngines
  simp (maxDischargeDepth := 200) +contextual only [only_dropSporeWork, only_engineReset, only_modEng, only_forNums, only_ite, h, h_regs, h_eng, h_waits, h_nt, h_cmd, h_log, h_host, h_twn, h_mgt, implies_true]

theorem only_commitDec {ps : List Part} {s0 : State} (s : State) (old : RegFile) (h : Only ps s0 s) (h_regs : Part.regs ∈ ps) (h_meas : Part.meas ∈ ps) :
    Only ps s0 (State.commitDec s old) := by
  unfold State.commitDec
  simp (maxDischargeDepth := 200) +contextual only [only_dumpAlign, only_modDec, only_forNums, only_ite, only_mk, or_true, true_or, h, h_regs, h_meas, implies_true]

theorem only_commitStacks {ps : List Part} {s0 : State} (s : State) (old : RegFile) (h : Only ps s0 s) (h_free : Part.free ∈ ps) (h_regs : Part.regs ∈ ps) (h_meas : Part.meas ∈ ps) (h_pwm : Part.pwm ∈ ps) (h_gdl : Part.gdl ∈ ps) (h_trp : Part.trp ∈ ps) (h_nt : Part.nt ∈ ps) (h_cmd : Part.cmd ∈ ps) (h_log : Part.log ∈ ps) (h_acq : Part.acq ∈ ps) (h_host : Part.host ∈ ps) (h_twn : Part.twn ∈ ps) (h_mgt : Part.mgt ∈ ps) :
    Only ps s0 (State.commitStacks s old) := by
  unfold State.commitStacks
  simp (maxDischargeDepth := 200) +contextual only [only_fltStanding, only_modGs, only_ostAbort, only_ringNext, only_trainComplete, only_trainLink, only_trainTaken, only_forNums, only_ite, h, h_free, h_regs, h_meas, h_pwm, h_gdl, h_trp, h_nt, h_cmd, h_log, h_acq, h_host, h_twn, h_mgt, implies_true]

theorem only_applyStage {ps : List Part} {s0 : State} (s : State) (nt : DWord) (h : Only ps s0 s) (h_free : Part.free ∈ ps) (h_live : Part.live ∈ ps) (h_regs : Part.regs ∈ ps) (h_eng : Part.eng ∈ ps) (h_waits : Part.waits ∈ ps) (h_meas : Part.meas ∈ ps) (h_pwm : Part.pwm ∈ ps) (h_gdl : Part.gdl ∈ ps) (h_trp : Part.trp ∈ ps) (h_saf : Part.saf ∈ ps) (h_clk : Part.clk ∈ ps) (h_nt : Part.nt ∈ ps) (h_cmd : Part.cmd ∈ ps) (h_ops : Part.ops ∈ ps) (h_log : Part.log ∈ ps) (h_sec : Part.sec ∈ ps) (h_stg : Part.stg ∈ ps) (h_acq : Part.acq ∈ ps) (h_host : Part.host ∈ ps) (h_twn : Part.twn ∈ ps) (h_mgt : Part.mgt ∈ ps) :
    Only ps s0 (State.applyStage s nt) := by
  unfold State.applyStage
  simp (maxDischargeDepth := 200) +contextual only [only_clkCommit, only_commitDec, only_commitEngines, only_commitStacks, only_countWrap, only_modEng, only_modSec, only_modStg, only_rhizomeCommit, only_safTakeSet, only_tbCommit, only_tripsStanding, only_forNums, only_ite, only_mk, or_true, true_or, h, h_free, h_live, h_regs, h_eng, h_waits, h_meas, h_pwm, h_gdl, h_trp, h_saf, h_clk, h_nt, h_cmd, h_ops, h_log, h_sec, h_stg, h_acq, h_host, h_twn, h_mgt, implies_true]

theorem only_blockWrite {ps : List Part} {s0 : State} (s : State) (c : Src) (bs : Bytes) (recover : Bool) (h : Only ps s0 s) (h_stg : Part.stg ∈ ps) :
    Only ps s0 (State.blockWrite s c bs recover) := by
  unfold State.blockWrite
  simp (maxDischargeDepth := 200) only [only_modStg, h, h_stg]

theorem only_blockWritten {ps : List Part} {s0 : State} (s : State) (w : CfgWrite) (h : Only ps s0 s) (h_regs : Part.regs ∈ ps) (h_eng : Part.eng ∈ ps) (h_waits : Part.waits ∈ ps) (h_pwm : Part.pwm ∈ ps) (h_gdl : Part.gdl ∈ ps) (h_trp : Part.trp ∈ ps) (h_saf : Part.saf ∈ ps) (h_nt : Part.nt ∈ ps) (h_cmd : Part.cmd ∈ ps) (h_ops : Part.ops ∈ ps) (h_log : Part.log ∈ ps) (h_stg : Part.stg ∈ ps) (h_host : Part.host ∈ ps) (h_twn : Part.twn ∈ ps) (h_mgt : Part.mgt ∈ ps) :
    Only ps s0 (State.blockWritten s w) := by
  unfold State.blockWritten
  simp (maxDischargeDepth := 200) +contextual only [only_modStg, only_nandTurn, only_safUpdate, h, h_regs, h_eng, h_waits, h_pwm, h_gdl, h_trp, h_saf, h_nt, h_cmd, h_ops, h_log, h_stg, h_host, h_twn, h_mgt]

theorem only_stageReset {ps : List Part} {s0 : State} (s : State) (h : Only ps s0 s) (h_stg : Part.stg ∈ ps) :
    Only ps s0 (State.stageReset s) := by
  unfold State.stageReset
  simp (maxDischargeDepth := 200) only [only_modStg, h, h_stg]

theorem only_bootLoad {ps : List Part} {s0 : State} (s : State) (h : Only ps s0 s) (h_free : Part.free ∈ ps) (h_live : Part.live ∈ ps) (h_regs : Part.regs ∈ ps) (h_eng : Part.eng ∈ ps) (h_waits : Part.waits ∈ ps) (h_meas : Part.meas ∈ ps) (h_pwm : Part.pwm ∈ ps) (h_gdl : Part.gdl ∈ ps) (h_trp : Part.trp ∈ ps) (h_saf : Part.saf ∈ ps) (h_clk : Part.clk ∈ ps) (h_nt : Part.nt ∈ ps) (h_cmd : Part.cmd ∈ ps) (h_ops : Part.ops ∈ ps) (h_log : Part.log ∈ ps) (h_sec : Part.sec ∈ ps) (h_stg : Part.stg ∈ ps) (h_acq : Part.acq ∈ ps) (h_host : Part.host ∈ ps) (h_twn : Part.twn ∈ ps) (h_mgt : Part.mgt ∈ ps) :
    Only ps s0 (State.bootLoad s) := by
  unfold State.bootLoad
  dsimp only
  repeat' split
  all_goals simp (maxDischargeDepth := 200) +contextual only [only_applyStage, only_mk, or_true, true_or, only_modStg, only_note, only_safTakeSet, only_stageReset, h, h_free, h_live, h_regs, h_eng, h_waits, h_meas, h_pwm, h_gdl, h_trp, h_saf, h_clk, h_nt, h_cmd, h_ops, h_log, h_sec, h_stg, h_acq, h_host, h_twn, h_mgt]

theorem only_reportFails {ps : List Part} {s0 : State} (s : State) (own : Bool) (fails : List FailEntry) (addr : Nat) (cap : Nat) (h : Only ps s0 s) (h_stg : Part.stg ∈ ps) (h_host : Part.host ∈ ps) :
    Only ps s0 (State.reportFails s own fails addr cap) := by
  unfold State.reportFails
  simp (maxDischargeDepth := 200) only [only_hostWrite, only_modStg, only_ite, h, h_stg, h_host]

theorem only_tryApply {ps : List Part} {s0 : State} (s : State) (nt : DWord) (own : Bool) (addr : Nat) (cap : Nat) (h : Only ps s0 s) (h_free : Part.free ∈ ps) (h_live : Part.live ∈ ps) (h_regs : Part.regs ∈ ps) (h_eng : Part.eng ∈ ps) (h_waits : Part.waits ∈ ps) (h_meas : Part.meas ∈ ps) (h_pwm : Part.pwm ∈ ps) (h_gdl : Part.gdl ∈ ps) (h_trp : Part.trp ∈ ps) (h_saf : Part.saf ∈ ps) (h_clk : Part.clk ∈ ps) (h_nt : Part.nt ∈ ps) (h_cmd : Part.cmd ∈ ps) (h_ops : Part.ops ∈ ps) (h_log : Part.log ∈ ps) (h_sec : Part.sec ∈ ps) (h_stg : Part.stg ∈ ps) (h_acq : Part.acq ∈ ps) (h_host : Part.host ∈ ps) (h_twn : Part.twn ∈ ps) (h_mgt : Part.mgt ∈ ps) :
    Only ps s0 (State.tryApply s nt own addr cap).1 := by
  unfold State.tryApply
  repeat' split
  all_goals simp (maxDischargeDepth := 200) only [only_applyStage, only_busyStop, only_modStg, only_reportFails, h, h_free, h_live, h_regs, h_eng, h_waits, h_meas, h_pwm, h_gdl, h_trp, h_saf, h_clk, h_nt, h_cmd, h_ops, h_log, h_sec, h_stg, h_acq, h_host, h_twn, h_mgt]

theorem only_commitOnly {ps : List Part} {s0 : State} (s : State) (p : PendCommit) (nt : DWord) (h : Only ps s0 s) (h_free : Part.free ∈ ps) (h_live : Part.live ∈ ps) (h_regs : Part.regs ∈ ps) (h_eng : Part.eng ∈ ps) (h_waits : Part.waits ∈ ps) (h_meas : Part.meas ∈ ps) (h_pwm : Part.pwm ∈ ps) (h_gdl : Part.gdl ∈ ps) (h_trp : Part.trp ∈ ps) (h_saf : Part.saf ∈ ps) (h_clk : Part.clk ∈ ps) (h_nt : Part.nt ∈ ps) (h_cmd : Part.cmd ∈ ps) (h_ops : Part.ops ∈ ps) (h_log : Part.log ∈ ps) (h_sec : Part.sec ∈ ps) (h_stg : Part.stg ∈ ps) (h_acq : Part.acq ∈ ps) (h_host : Part.host ∈ ps) (h_twn : Part.twn ∈ ps) (h_mgt : Part.mgt ∈ ps) :
    Only ps s0 (State.commitOnly s p nt) := by
  unfold State.commitOnly
  simp (maxDischargeDepth := 200) +contextual only [only_complete, only_modStg, only_tryApply, h, h_free, h_live, h_regs, h_eng, h_waits, h_meas, h_pwm, h_gdl, h_trp, h_saf, h_clk, h_nt, h_cmd, h_ops, h_log, h_sec, h_stg, h_acq, h_host, h_twn, h_mgt]

theorem only_sporeSee {ps : List Part} {s0 : State} (s : State) (d : DueSlot) (h : Only ps s0 s) (h_twn : Part.twn ∈ ps) :
    Only ps s0 (State.sporeSee s d) := by
  unfold State.sporeSee
  simp (maxDischargeDepth := 200) +contextual only [only_mirror, only_modTwn, only_ite, h, h_twn]

theorem only_sporeApply {ps : List Part} {s0 : State} (s : State) (d : DueSlot) (h : Only ps s0 s) (h_free : Part.free ∈ ps) (h_live : Part.live ∈ ps) (h_regs : Part.regs ∈ ps) (h_eng : Part.eng ∈ ps) (h_waits : Part.waits ∈ ps) (h_meas : Part.meas ∈ ps) (h_pwm : Part.pwm ∈ ps) (h_gdl : Part.gdl ∈ ps) (h_trp : Part.trp ∈ ps) (h_saf : Part.saf ∈ ps) (h_clk : Part.clk ∈ ps) (h_nt : Part.nt ∈ ps) (h_cmd : Part.cmd ∈ ps) (h_ops : Part.ops ∈ ps) (h_log : Part.log ∈ ps) (h_sec : Part.sec ∈ ps) (h_stg : Part.stg ∈ ps) (h_acq : Part.acq ∈ ps) (h_host : Part.host ∈ ps) (h_twn : Part.twn ∈ ps) (h_mgt : Part.mgt ∈ ps) :
    Only ps s0 (State.sporeApply s d).1 := by
  unfold State.sporeApply
  dsimp only
  repeat' split
  all_goals simp (maxDischargeDepth := 200) +contextual only [only_modStg, only_reportFails, only_sporeSee, only_tryApply, h, h_free, h_live, h_regs, h_eng, h_waits, h_meas, h_pwm, h_gdl, h_trp, h_saf, h_clk, h_nt, h_cmd, h_ops, h_log, h_sec, h_stg, h_acq, h_host, h_twn, h_mgt]

theorem only_freeToken {ps : List Part} {s0 : State} (s : State) (h : Only ps s0 s) (h_stg : Part.stg ∈ ps) :
    Only ps s0 (State.freeToken s) := by
  unfold State.freeToken
  simp (maxDischargeDepth := 200) only [only_modStg, only_stageReset, only_ite, h, h_stg]

theorem only_stageWrote {ps : List Part} {s0 : State} (s : State) (n : Nat) (f : RegFile) (imgs : Vector (Option Image) 8) (h : Only ps s0 s) (h_stg : Part.stg ∈ ps) :
    Only ps s0 (State.stageWrote s n f imgs) := by
  unfold State.stageWrote
  simp (maxDischargeDepth := 200) only [only_modStg, h, h_stg]

theorem only_graphLoad {ps : List Part} {s0 : State} (s : State) (c : Src) (p : Bytes) (image : Option Bytes) (h : Only ps s0 s) (h_regs : Part.regs ∈ ps) (h_cmd : Part.cmd ∈ ps) (h_stg : Part.stg ∈ ps) (h_host : Part.host ∈ ps) (h_twn : Part.twn ∈ ps) (h_mgt : Part.mgt ∈ ps) :
    Only ps s0 (State.graphLoad s c p image) := by
  unfold State.graphLoad
  repeat' split
  all_goals simp (maxDischargeDepth := 200) only [only_done, only_refuse, only_stageWrote, h, h_regs, h_cmd, h_stg, h_host, h_twn, h_mgt]

theorem only_stgCheck {ps : List Part} {s0 : State} (s : State) (c : Src) (p : Bytes) (h : Only ps s0 s) (h_regs : Part.regs ∈ ps) (h_cmd : Part.cmd ∈ ps) (h_stg : Part.stg ∈ ps) (h_host : Part.host ∈ ps) (h_twn : Part.twn ∈ ps) (h_mgt : Part.mgt ∈ ps) :
    Only ps s0 (State.stgCheck s c p) := by
  unfold State.stgCheck
  simp (maxDischargeDepth := 200) only [only_done, only_modMgt, only_modStg, only_refuse, only_reportFails, only_ite, h, h_regs, h_cmd, h_stg, h_host, h_twn, h_mgt]

theorem only_stgCommit {ps : List Part} {s0 : State} (s : State) (c : Src) (p : Bytes) (take : Option DWord) (h : Only ps s0 s) (h_live : Part.live ∈ ps) (h_regs : Part.regs ∈ ps) (h_cmd : Part.cmd ∈ ps) (h_stg : Part.stg ∈ ps) (h_host : Part.host ∈ ps) (h_twn : Part.twn ∈ ps) (h_mgt : Part.mgt ∈ ps) :
    Only ps s0 (State.stgCommit s c p take) := by
  unfold State.stgCommit
  simp (maxDischargeDepth := 200) +contextual only [only_done, only_mirror, only_modStg, only_refuse, only_reportFails, only_ite, only_mk, or_true, true_or, h, h_live, h_regs, h_cmd, h_stg, h_host, h_twn, h_mgt]

theorem only_stgSave {ps : List Part} {s0 : State} (s : State) (c : Src) (p : Bytes) (block : Option Bytes) (h : Only ps s0 s) (h_regs : Part.regs ∈ ps) (h_cmd : Part.cmd ∈ ps) (h_stg : Part.stg ∈ ps) (h_host : Part.host ∈ ps) (h_twn : Part.twn ∈ ps) (h_mgt : Part.mgt ∈ ps) :
    Only ps s0 (State.stgSave s c p block) := by
  unfold State.stgSave
  dsimp only
  repeat' split
  all_goals simp (maxDischargeDepth := 200) +contextual only [only_blockWrite, only_refuse, h, h_regs, h_cmd, h_stg, h_host, h_twn, h_mgt]

theorem only_stgToken {ps : List Part} {s0 : State} (s : State) (c : Src) (p : Bytes) (h : Only ps s0 s) (h_regs : Part.regs ∈ ps) (h_cmd : Part.cmd ∈ ps) (h_stg : Part.stg ∈ ps) (h_host : Part.host ∈ ps) (h_twn : Part.twn ∈ ps) (h_mgt : Part.mgt ∈ ps) :
    Only ps s0 (State.stgToken s c p) := by
  unfold State.stgToken
  split <;> simp (maxDischargeDepth := 200) only [only_done, only_freeToken, only_modStg, only_refuse, only_ite, h, h_regs, h_cmd, h_stg, h_host, h_twn, h_mgt]

theorem only_stgWrite {ps : List Part} {s0 : State} (s : State) (c : Src) (p : Bytes) (h : Only ps s0 s) (h_regs : Part.regs ∈ ps) (h_cmd : Part.cmd ∈ ps) (h_stg : Part.stg ∈ ps) (h_host : Part.host ∈ ps) (h_twn : Part.twn ∈ ps) (h_mgt : Part.mgt ∈ ps) :
    Only ps s0 (State.stgWrite s c p) := by
  unfold State.stgWrite
  dsimp only
  repeat' split
  all_goals simp (maxDischargeDepth := 200) +contextual only [only_done, only_refuse, only_stageWrote, h, h_regs, h_cmd, h_stg, h_host, h_twn, h_mgt]

theorem only_execFrdGraphLoad {ps : List Part} {s0 : State} (c : Src) (p : Bytes) (image : Option Bytes) (s : State) (h : Only ps s0 s) (h_regs : Part.regs ∈ ps) (h_cmd : Part.cmd ∈ ps) (h_stg : Part.stg ∈ ps) (h_host : Part.host ∈ ps) (h_twn : Part.twn ∈ ps) (h_mgt : Part.mgt ∈ ps) :
    ∀ out, execFrdGraphLoad c p image s = .next out → Only ps s0 out := by
  unfold execFrdGraphLoad
  intro out e
  cases e
  simp (maxDischargeDepth := 200) +contextual only [only_graphLoad, only_mirrorRead, only_obey, h, h_regs, h_cmd, h_stg, h_host, h_twn, h_mgt, implies_true]

theorem only_execStgCheck {ps : List Part} {s0 : State} (c : Src) (p : Bytes) (s : State) (h : Only ps s0 s) (h_regs : Part.regs ∈ ps) (h_cmd : Part.cmd ∈ ps) (h_stg : Part.stg ∈ ps) (h_host : Part.host ∈ ps) (h_twn : Part.twn ∈ ps) (h_mgt : Part.mgt ∈ ps) :
    ∀ out, execStgCheck c p s = .next out → Only ps s0 out := by
  unfold execStgCheck
  intro out e
  cases e
  simp (maxDischargeDepth := 200) +contextual only [only_obey, only_stgCheck, h, h_regs, h_cmd, h_stg, h_host, h_twn, h_mgt, implies_true]

theorem only_execStgCommit {ps : List Part} {s0 : State} (c : Src) (p : Bytes) (s : State) (h : Only ps s0 s) (h_live : Part.live ∈ ps) (h_regs : Part.regs ∈ ps) (h_cmd : Part.cmd ∈ ps) (h_stg : Part.stg ∈ ps) (h_host : Part.host ∈ ps) (h_twn : Part.twn ∈ ps) (h_mgt : Part.mgt ∈ ps) :
    ∀ out, execStgCommit c p s = .next out → Only ps s0 out := by
  unfold execStgCommit
  intro out e
  cases e
  simp (maxDischargeDepth := 200) +contextual only [only_obey, only_stgCommit, h, h_live, h_regs, h_cmd, h_stg, h_host, h_twn, h_mgt, implies_true]

theorem only_execStgSave {ps : List Part} {s0 : State} (c : Src) (p : Bytes) (block : Option Bytes) (s : State) (h : Only ps s0 s) (h_regs : Part.regs ∈ ps) (h_cmd : Part.cmd ∈ ps) (h_stg : Part.stg ∈ ps) (h_host : Part.host ∈ ps) (h_twn : Part.twn ∈ ps) (h_mgt : Part.mgt ∈ ps) :
    ∀ out, execStgSave c p block s = .next out → Only ps s0 out := by
  unfold execStgSave
  intro out e
  cases e
  simp (maxDischargeDepth := 200) +contextual only [only_mirrorRead, only_obey, only_stgSave, h, h_regs, h_cmd, h_stg, h_host, h_twn, h_mgt, implies_true]

theorem only_execStgToken {ps : List Part} {s0 : State} (c : Src) (p : Bytes) (s : State) (h : Only ps s0 s) (h_regs : Part.regs ∈ ps) (h_cmd : Part.cmd ∈ ps) (h_stg : Part.stg ∈ ps) (h_host : Part.host ∈ ps) (h_twn : Part.twn ∈ ps) (h_mgt : Part.mgt ∈ ps) :
    ∀ out, execStgToken c p s = .next out → Only ps s0 out := by
  unfold execStgToken
  intro out e
  cases e
  simp (maxDischargeDepth := 200) +contextual only [only_obey, only_stgToken, h, h_regs, h_cmd, h_stg, h_host, h_twn, h_mgt, implies_true]

theorem only_execStgWrite {ps : List Part} {s0 : State} (c : Src) (p : Bytes) (s : State) (h : Only ps s0 s) (h_regs : Part.regs ∈ ps) (h_cmd : Part.cmd ∈ ps) (h_stg : Part.stg ∈ ps) (h_host : Part.host ∈ ps) (h_twn : Part.twn ∈ ps) (h_mgt : Part.mgt ∈ ps) :
    ∀ out, execStgWrite c p s = .next out → Only ps s0 out := by
  unfold execStgWrite
  intro out e
  cases e
  simp (maxDischargeDepth := 200) +contextual only [only_obey, only_stgWrite, h, h_regs, h_cmd, h_stg, h_host, h_twn, h_mgt, implies_true]

theorem only_execTokenLeaseExpiry {ps : List Part} {s0 : State} (s : State) (h : Only ps s0 s) (h_now : Part.now ∈ ps) (h_regs : Part.regs ∈ ps) (h_nt : Part.nt ∈ ps) (h_log : Part.log ∈ ps) (h_stg : Part.stg ∈ ps) :
    ∀ out, execTokenLeaseExpiry s = .next out → Only ps s0 out := by
  unfold execTokenLeaseExpiry
  intro out e
  split at e <;> cases e <;> simp (maxDischargeDepth := 200) only [only_advanceTo, only_freeToken, only_note, h, h_now, h_regs, h_nt, h_log, h_stg]

end Sys2Proof.Machine
end

