-- ==== Sys2Proof/Laws/OnlySpores.lean ====
section
/-! SUPPORT. Frames of the operations and meanings of Machine/Spores.lean: one lemma each, which names the parts of the state that may
change. -/

set_option maxRecDepth 4000

namespace Sys2Proof.Machine

theorem only_setSlotOfs {ps : List Part} {s0 : State} (s : State) (v : Nat) (h : Only ps s0 s) (h_live : Part.live ∈ ps) (h_pwm : Part.pwm ∈ ps) (h_stg : Part.stg ∈ ps) :
    Only ps s0 (State.setSlotOfs s v) := by
  unfold State.setSlotOfs
  simp (maxDischargeDepth := 200) +contextual only [only_modStg, only_modTb, only_forNums, only_ite, only_mk, or_true, true_or, h, h_live, h_pwm, h_stg, implies_true]

theorem only_sporeWork {ps : List Part} {s0 : State} (s : State) (d : DueSlot) (at_ : Nat) (nt : DWord) (take : Option DWord) (h : Only ps s0 s) (h_eng : Part.eng ∈ ps) (h_waits : Part.waits ∈ ps) :
    Only ps s0 (State.sporeWork s d at_ nt take) := by
  unfold State.sporeWork
  simp (maxDischargeDepth := 200) +contextual only [only_modEng, only_waitStart, only_forNums, h, h_eng, h_waits, implies_true]

theorem only_sporeDone {ps : List Part} {s0 : State} (s : State) (d : DueSlot) (st : Status) (detail : Nat) (h : Only ps s0 s) (h_regs : Part.regs ∈ ps) (h_nt : Part.nt ∈ ps) (h_log : Part.log ∈ ps) (h_twn : Part.twn ∈ ps) :
    Only ps s0 (State.sporeDone s d st detail) := by
  unfold State.sporeDone
  simp (maxDischargeDepth := 200) +contextual only [only_sporeRecord, h, h_regs, h_nt, h_log, h_twn]

theorem only_sporeGraph {ps : List Part} {s0 : State} (s : State) (d : DueSlot) (h : Only ps s0 s) (h_regs : Part.regs ∈ ps) (h_eng : Part.eng ∈ ps) (h_waits : Part.waits ∈ ps) (h_nt : Part.nt ∈ ps) (h_log : Part.log ∈ ps) (h_twn : Part.twn ∈ ps) :
    Only ps s0 (State.sporeGraph s d) := by
  unfold State.sporeGraph
  simp (maxDischargeDepth := 200) only [only_mirror, only_sporeDone, only_sporeWork, only_ite, h, h_regs, h_eng, h_waits, h_nt, h_log, h_twn]

theorem only_sporeCommit {ps : List Part} {s0 : State} (s : State) (d : DueSlot) (h : Only ps s0 s) (h_free : Part.free ∈ ps) (h_live : Part.live ∈ ps) (h_regs : Part.regs ∈ ps) (h_eng : Part.eng ∈ ps) (h_waits : Part.waits ∈ ps) (h_meas : Part.meas ∈ ps) (h_pwm : Part.pwm ∈ ps) (h_gdl : Part.gdl ∈ ps) (h_trp : Part.trp ∈ ps) (h_saf : Part.saf ∈ ps) (h_clk : Part.clk ∈ ps) (h_nt : Part.nt ∈ ps) (h_cmd : Part.cmd ∈ ps) (h_ops : Part.ops ∈ ps) (h_log : Part.log ∈ ps) (h_sec : Part.sec ∈ ps) (h_stg : Part.stg ∈ ps) (h_acq : Part.acq ∈ ps) (h_host : Part.host ∈ ps) (h_twn : Part.twn ∈ ps) (h_mgt : Part.mgt ∈ ps) :
    Only ps s0 (State.sporeCommit s d) := by
  unfold State.sporeCommit
  simp (maxDischargeDepth := 200) +contextual only [only_commitOnly, only_foldl, only_sporeApply, only_sporeDone, only_foldl, h, h_free, h_live, h_regs, h_eng, h_waits, h_meas, h_pwm, h_gdl, h_trp, h_saf, h_clk, h_nt, h_cmd, h_ops, h_log, h_sec, h_stg, h_acq, h_host, h_twn, h_mgt, implies_true]

theorem only_runSpore {ps : List Part} {s0 : State} (s : State) (d : DueSlot) (h : Only ps s0 s) (h_free : Part.free ∈ ps) (h_live : Part.live ∈ ps) (h_regs : Part.regs ∈ ps) (h_eng : Part.eng ∈ ps) (h_waits : Part.waits ∈ ps) (h_meas : Part.meas ∈ ps) (h_pwm : Part.pwm ∈ ps) (h_gdl : Part.gdl ∈ ps) (h_trp : Part.trp ∈ ps) (h_saf : Part.saf ∈ ps) (h_clk : Part.clk ∈ ps) (h_nt : Part.nt ∈ ps) (h_cmd : Part.cmd ∈ ps) (h_ops : Part.ops ∈ ps) (h_log : Part.log ∈ ps) (h_sec : Part.sec ∈ ps) (h_stg : Part.stg ∈ ps) (h_acq : Part.acq ∈ ps) (h_host : Part.host ∈ ps) (h_twn : Part.twn ∈ ps) (h_mgt : Part.mgt ∈ ps) :
    Only ps s0 (State.runSpore s d) := by
  unfold State.runSpore
  split <;> simp (maxDischargeDepth := 200) only [only_acqTrigMask, only_modTwn, only_ptmAsk, only_setSlotOfs, only_sporeCommit, only_sporeDone, only_sporeGraph, only_ite, h, h_free, h_live, h_regs, h_eng, h_waits, h_meas, h_pwm, h_gdl, h_trp, h_saf, h_clk, h_nt, h_cmd, h_ops, h_log, h_sec, h_stg, h_acq, h_host, h_twn, h_mgt]

theorem only_runBatch {ps : List Part} {s0 : State} (s : State) (b : List DueSlot) (h : Only ps s0 s) (h_free : Part.free ∈ ps) (h_live : Part.live ∈ ps) (h_regs : Part.regs ∈ ps) (h_eng : Part.eng ∈ ps) (h_waits : Part.waits ∈ ps) (h_meas : Part.meas ∈ ps) (h_pwm : Part.pwm ∈ ps) (h_gdl : Part.gdl ∈ ps) (h_trp : Part.trp ∈ ps) (h_saf : Part.saf ∈ ps) (h_clk : Part.clk ∈ ps) (h_nt : Part.nt ∈ ps) (h_cmd : Part.cmd ∈ ps) (h_ops : Part.ops ∈ ps) (h_log : Part.log ∈ ps) (h_sec : Part.sec ∈ ps) (h_stg : Part.stg ∈ ps) (h_acq : Part.acq ∈ ps) (h_host : Part.host ∈ ps) (h_twn : Part.twn ∈ ps) (h_mgt : Part.mgt ∈ ps) :
    Only ps s0 (State.runBatch s b) := by
  unfold State.runBatch
  simp (maxDischargeDepth := 200) +contextual only [only_foldl, only_runSpore, only_foldl, h, h_free, h_live, h_regs, h_eng, h_waits, h_meas, h_pwm, h_gdl, h_trp, h_saf, h_clk, h_nt, h_cmd, h_ops, h_log, h_sec, h_stg, h_acq, h_host, h_twn, h_mgt, implies_true]

theorem only_batchesFirst {ps : List Part} {s0 : State} (s : State) (acceptAt : Nat) (h : Only ps s0 s) (h_free : Part.free ∈ ps) (h_live : Part.live ∈ ps) (h_regs : Part.regs ∈ ps) (h_eng : Part.eng ∈ ps) (h_waits : Part.waits ∈ ps) (h_meas : Part.meas ∈ ps) (h_pwm : Part.pwm ∈ ps) (h_gdl : Part.gdl ∈ ps) (h_trp : Part.trp ∈ ps) (h_saf : Part.saf ∈ ps) (h_clk : Part.clk ∈ ps) (h_nt : Part.nt ∈ ps) (h_cmd : Part.cmd ∈ ps) (h_ops : Part.ops ∈ ps) (h_log : Part.log ∈ ps) (h_sec : Part.sec ∈ ps) (h_stg : Part.stg ∈ ps) (h_acq : Part.acq ∈ ps) (h_host : Part.host ∈ ps) (h_twn : Part.twn ∈ ps) (h_mgt : Part.mgt ∈ ps) :
    Only ps s0 (State.batchesFirst s acceptAt) := by
  unfold State.batchesFirst
  simp (maxDischargeDepth := 200) +contextual only [only_foldl, only_modNt, only_runBatch, only_foldl, h, h_free, h_live, h_regs, h_eng, h_waits, h_meas, h_pwm, h_gdl, h_trp, h_saf, h_clk, h_nt, h_cmd, h_ops, h_log, h_sec, h_stg, h_acq, h_host, h_twn, h_mgt, implies_true]

theorem only_commitNow {ps : List Part} {s0 : State} (s : State) (p : PendCommit) (nt : DWord) (h : Only ps s0 s) (h_free : Part.free ∈ ps) (h_live : Part.live ∈ ps) (h_regs : Part.regs ∈ ps) (h_eng : Part.eng ∈ ps) (h_waits : Part.waits ∈ ps) (h_meas : Part.meas ∈ ps) (h_pwm : Part.pwm ∈ ps) (h_gdl : Part.gdl ∈ ps) (h_trp : Part.trp ∈ ps) (h_saf : Part.saf ∈ ps) (h_clk : Part.clk ∈ ps) (h_nt : Part.nt ∈ ps) (h_cmd : Part.cmd ∈ ps) (h_ops : Part.ops ∈ ps) (h_log : Part.log ∈ ps) (h_sec : Part.sec ∈ ps) (h_stg : Part.stg ∈ ps) (h_acq : Part.acq ∈ ps) (h_host : Part.host ∈ ps) (h_twn : Part.twn ∈ ps) (h_mgt : Part.mgt ∈ ps) :
    Only ps s0 (State.commitNow s p nt) := by
  unfold State.commitNow
  simp (maxDischargeDepth := 200) +contextual only [only_batchesFirst, only_commitOnly, only_ite, h, h_free, h_live, h_regs, h_eng, h_waits, h_meas, h_pwm, h_gdl, h_trp, h_saf, h_clk, h_nt, h_cmd, h_ops, h_log, h_sec, h_stg, h_acq, h_host, h_twn, h_mgt]

theorem only_execSporeExecute {ps : List Part} {s0 : State} (s : State) (h : Only ps s0 s) (h_now : Part.now ∈ ps) (h_free : Part.free ∈ ps) (h_live : Part.live ∈ ps) (h_regs : Part.regs ∈ ps) (h_eng : Part.eng ∈ ps) (h_waits : Part.waits ∈ ps) (h_meas : Part.meas ∈ ps) (h_pwm : Part.pwm ∈ ps) (h_gdl : Part.gdl ∈ ps) (h_trp : Part.trp ∈ ps) (h_saf : Part.saf ∈ ps) (h_clk : Part.clk ∈ ps) (h_nt : Part.nt ∈ ps) (h_cmd : Part.cmd ∈ ps) (h_ops : Part.ops ∈ ps) (h_log : Part.log ∈ ps) (h_sec : Part.sec ∈ ps) (h_stg : Part.stg ∈ ps) (h_acq : Part.acq ∈ ps) (h_host : Part.host ∈ ps) (h_twn : Part.twn ∈ ps) (h_mgt : Part.mgt ∈ ps) :
    ∀ out, execSporeExecute s = .next out → Only ps s0 out := by
  unfold execSporeExecute
  intro out e
  split at e <;> cases e <;> simp (maxDischargeDepth := 200) +contextual only [only_advanceTo, only_modNt, only_runBatch, h, h_now, h_free, h_live, h_regs, h_eng, h_waits, h_meas, h_pwm, h_gdl, h_trp, h_saf, h_clk, h_nt, h_cmd, h_ops, h_log, h_sec, h_stg, h_acq, h_host, h_twn, h_mgt]

theorem only_commitsAt {ps : List Part} {s0 : State} (s : State) (e : Nat) (h : Only ps s0 s) (h_free : Part.free ∈ ps) (h_live : Part.live ∈ ps) (h_regs : Part.regs ∈ ps) (h_eng : Part.eng ∈ ps) (h_waits : Part.waits ∈ ps) (h_meas : Part.meas ∈ ps) (h_pwm : Part.pwm ∈ ps) (h_gdl : Part.gdl ∈ ps) (h_trp : Part.trp ∈ ps) (h_saf : Part.saf ∈ ps) (h_clk : Part.clk ∈ ps) (h_nt : Part.nt ∈ ps) (h_cmd : Part.cmd ∈ ps) (h_ops : Part.ops ∈ ps) (h_log : Part.log ∈ ps) (h_sec : Part.sec ∈ ps) (h_stg : Part.stg ∈ ps) (h_acq : Part.acq ∈ ps) (h_host : Part.host ∈ ps) (h_twn : Part.twn ∈ ps) (h_mgt : Part.mgt ∈ ps) :
    Only ps s0 (State.commitsAt s e) := by
  unfold State.commitsAt
  simp (maxDischargeDepth := 200) +contextual only [only_commitNow, h, h_free, h_live, h_regs, h_eng, h_waits, h_meas, h_pwm, h_gdl, h_trp, h_saf, h_clk, h_nt, h_cmd, h_ops, h_log, h_sec, h_stg, h_acq, h_host, h_twn, h_mgt, only_foldl, implies_true]

theorem only_execCommitApply {ps : List Part} {s0 : State} (s : State) (h : Only ps s0 s) (h_now : Part.now ∈ ps) (h_free : Part.free ∈ ps) (h_live : Part.live ∈ ps) (h_regs : Part.regs ∈ ps) (h_eng : Part.eng ∈ ps) (h_waits : Part.waits ∈ ps) (h_meas : Part.meas ∈ ps) (h_pwm : Part.pwm ∈ ps) (h_gdl : Part.gdl ∈ ps) (h_trp : Part.trp ∈ ps) (h_saf : Part.saf ∈ ps) (h_clk : Part.clk ∈ ps) (h_nt : Part.nt ∈ ps) (h_cmd : Part.cmd ∈ ps) (h_ops : Part.ops ∈ ps) (h_log : Part.log ∈ ps) (h_sec : Part.sec ∈ ps) (h_stg : Part.stg ∈ ps) (h_acq : Part.acq ∈ ps) (h_host : Part.host ∈ ps) (h_twn : Part.twn ∈ ps) (h_mgt : Part.mgt ∈ ps) :
    ∀ out, execCommitApply s = .next out → Only ps s0 out := by
  unfold execCommitApply
  intro out e
  dsimp only at e
  repeat' split at e
  all_goals cases e
  all_goals simp (maxDischargeDepth := 200) +contextual only [only_advanceTo, only_commitNow, only_toTick, h, h_now, h_free, h_live, h_regs, h_eng, h_waits, h_meas, h_pwm, h_gdl, h_trp, h_saf, h_clk, h_nt, h_cmd, h_ops, h_log, h_sec, h_stg, h_acq, h_host, h_twn, h_mgt]

end Sys2Proof.Machine
end

