-- ==== Sys2Proof/Laws/OnlyOpsCmd.lean ====
section
/-! SUPPORT. Frames of the operations and meanings of Machine/OpsCmd.lean: one lemma each, which names the parts of the state that may
change. -/

set_option maxRecDepth 4000

namespace Sys2Proof.Machine

theorem only_takeTamper {ps : List Part} {s0 : State} (s : State) (h : Only ps s0 s) (h_regs : Part.regs ∈ ps) (h_log : Part.log ∈ ps) (h_sec : Part.sec ∈ ps) :
    Only ps s0 (State.takeTamper s) := by
  unfold State.takeTamper
  simp (maxDischargeDepth := 200) +contextual only [only_foldl, only_logPut, only_modSec, only_foldl, h, h_regs, h_log, h_sec, implies_true]

theorem only_boot {ps : List Part} {s0 : State} (s : State) (m : BootMedia) (h : Only ps s0 s) (h_free : Part.free ∈ ps) (h_live : Part.live ∈ ps) (h_regs : Part.regs ∈ ps) (h_eng : Part.eng ∈ ps) (h_waits : Part.waits ∈ ps) (h_meas : Part.meas ∈ ps) (h_pwm : Part.pwm ∈ ps) (h_gdl : Part.gdl ∈ ps) (h_trp : Part.trp ∈ ps) (h_saf : Part.saf ∈ ps) (h_clk : Part.clk ∈ ps) (h_nt : Part.nt ∈ ps) (h_cmd : Part.cmd ∈ ps) (h_ops : Part.ops ∈ ps) (h_log : Part.log ∈ ps) (h_sec : Part.sec ∈ ps) (h_stg : Part.stg ∈ ps) (h_acq : Part.acq ∈ ps) (h_host : Part.host ∈ ps) (h_twn : Part.twn ∈ ps) (h_mgt : Part.mgt ∈ ps) :
    Only ps s0 (State.boot s m) := by
  unfold State.boot
  dsimp only
  repeat' split
  all_goals simp (maxDischargeDepth := 200) +contextual only [only_bootLoad, only_copyAnchors, only_draw, only_enter, only_modOps, only_modRep, only_nandTurn, only_takeTamper, only_forNums, h, h_free, h_live, h_regs, h_eng, h_waits, h_meas, h_pwm, h_gdl, h_trp, h_saf, h_clk, h_nt, h_cmd, h_ops, h_log, h_sec, h_stg, h_acq, h_host, h_twn, h_mgt, implies_true]

theorem only_enginesStart {ps : List Part} {s0 : State} (s : State) (h : Only ps s0 s) (h_eng : Part.eng ∈ ps) (h_pwm : Part.pwm ∈ ps) :
    Only ps s0 (State.enginesStart s) := by
  unfold State.enginesStart
  simp (maxDischargeDepth := 200) +contextual only [only_allOffSets, only_engineReset, only_modEng, only_prfInit, only_forNums, h, h_eng, h_pwm, implies_true]

theorem only_forceAtEntry {ps : List Part} {s0 : State} (s : State) (h : Only ps s0 s) (h_regs : Part.regs ∈ ps) (h_pwm : Part.pwm ∈ ps) (h_gdl : Part.gdl ∈ ps) (h_trp : Part.trp ∈ ps) :
    Only ps s0 (State.forceAtEntry s) := by
  unfold State.forceAtEntry
  simp (maxDischargeDepth := 200) +contextual only [only_loadList, only_forNums, h, h_regs, h_pwm, h_gdl, h_trp, implies_true]

theorem only_enterRunning {ps : List Part} {s0 : State} (s : State) (cause : Nat) (h : Only ps s0 s) (h_regs : Part.regs ∈ ps) (h_eng : Part.eng ∈ ps) (h_pwm : Part.pwm ∈ ps) (h_gdl : Part.gdl ∈ ps) (h_trp : Part.trp ∈ ps) (h_ops : Part.ops ∈ ps) (h_log : Part.log ∈ ps) (h_twn : Part.twn ∈ ps) (h_mgt : Part.mgt ∈ ps) :
    Only ps s0 (State.enterRunning s cause) := by
  unfold State.enterRunning
  simp (maxDischargeDepth := 200) +contextual only [only_enter, only_forceAtEntry, only_modEng, only_forNums, h, h_regs, h_eng, h_pwm, h_gdl, h_trp, h_ops, h_log, h_twn, h_mgt, implies_true]

theorem only_fwActivate {ps : List Part} {s0 : State} (s : State) (c : Src) (p : Bytes) (h : Only ps s0 s) (h_regs : Part.regs ∈ ps) (h_cmd : Part.cmd ∈ ps) (h_ops : Part.ops ∈ ps) (h_sec : Part.sec ∈ ps) (h_host : Part.host ∈ ps) (h_twn : Part.twn ∈ ps) (h_mgt : Part.mgt ∈ ps) :
    Only ps s0 (State.fwActivate s c p) := by
  unfold State.fwActivate
  simp (maxDischargeDepth := 200) only [only_done, only_modOps, only_modSec, only_refuse, only_ite, h, h_regs, h_cmd, h_ops, h_sec, h_host, h_twn, h_mgt]

theorem only_setFwSlot {ps : List Part} {s0 : State} (s : State) (k : Nat) (x : FwSlot) (h : Only ps s0 s) (h_ops : Part.ops ∈ ps) :
    Only ps s0 (State.setFwSlot s k x) := by
  unfold State.setFwSlot
  simp (maxDischargeDepth := 200) only [only_modOps, h, h_ops]

theorem only_fwFinish {ps : List Part} {s0 : State} (s : State) (h : Only ps s0 s) (h_regs : Part.regs ∈ ps) (h_cmd : Part.cmd ∈ ps) (h_ops : Part.ops ∈ ps) (h_host : Part.host ∈ ps) (h_twn : Part.twn ∈ ps) (h_mgt : Part.mgt ∈ ps) :
    Only ps s0 (State.fwFinish s) := by
  unfold State.fwFinish
  split <;> simp (maxDischargeDepth := 200) +contextual only [only_done, only_modOps, only_setFwSlot, h, h_regs, h_cmd, h_ops, h_host, h_twn, h_mgt]

theorem only_fwLoad {ps : List Part} {s0 : State} (s : State) (c : Src) (p : Bytes) (image : Option Bytes) (h : Only ps s0 s) (h_regs : Part.regs ∈ ps) (h_cmd : Part.cmd ∈ ps) (h_ops : Part.ops ∈ ps) (h_log : Part.log ∈ ps) (h_host : Part.host ∈ ps) (h_twn : Part.twn ∈ ps) (h_mgt : Part.mgt ∈ ps) :
    Only ps s0 (State.fwLoad s c p image) := by
  unfold State.fwLoad
  dsimp only
  repeat' split
  all_goals simp (maxDischargeDepth := 200) +contextual only [only_fwFinish, only_modOps, only_nandTurn, only_refuse, only_setFwSlot, h, h_regs, h_cmd, h_ops, h_log, h_host, h_twn, h_mgt]

theorem only_stopNow {ps : List Part} {s0 : State} (s : State) (p : PendOp) (nt : DWord) (h : Only ps s0 s) (h_regs : Part.regs ∈ ps) (h_eng : Part.eng ∈ ps) (h_waits : Part.waits ∈ ps) (h_pwm : Part.pwm ∈ ps) (h_gdl : Part.gdl ∈ ps) (h_trp : Part.trp ∈ ps) (h_nt : Part.nt ∈ ps) (h_cmd : Part.cmd ∈ ps) (h_ops : Part.ops ∈ ps) (h_log : Part.log ∈ ps) (h_host : Part.host ∈ ps) (h_twn : Part.twn ∈ ps) (h_mgt : Part.mgt ∈ ps) :
    Only ps s0 (State.stopNow s p nt) := by
  unfold State.stopNow
  dsimp only
  split <;> simp (maxDischargeDepth := 200) +contextual only [only_complete, only_modOps, only_toIdle, only_toStopping, h, h_regs, h_eng, h_waits, h_pwm, h_gdl, h_trp, h_nt, h_cmd, h_ops, h_log, h_host, h_twn, h_mgt]

theorem only_startNow {ps : List Part} {s0 : State} (s : State) (p : PendOp) (nt : DWord) (h : Only ps s0 s) (h_regs : Part.regs ∈ ps) (h_eng : Part.eng ∈ ps) (h_pwm : Part.pwm ∈ ps) (h_gdl : Part.gdl ∈ ps) (h_trp : Part.trp ∈ ps) (h_cmd : Part.cmd ∈ ps) (h_ops : Part.ops ∈ ps) (h_log : Part.log ∈ ps) (h_host : Part.host ∈ ps) (h_twn : Part.twn ∈ ps) (h_mgt : Part.mgt ∈ ps) :
    Only ps s0 (State.startNow s p nt) := by
  unfold State.startNow
  dsimp only
  repeat' split
  all_goals simp (maxDischargeDepth := 200) +contextual only [only_complete, only_enterRunning, only_modOps, only_refuse, h, h_regs, h_eng, h_pwm, h_gdl, h_trp, h_cmd, h_ops, h_log, h_host, h_twn, h_mgt]

theorem only_idleActions {ps : List Part} {s0 : State} (s : State) (h : Only ps s0 s) (h_free : Part.free ∈ ps) (h_live : Part.live ∈ ps) (h_regs : Part.regs ∈ ps) (h_eng : Part.eng ∈ ps) (h_waits : Part.waits ∈ ps) (h_meas : Part.meas ∈ ps) (h_pwm : Part.pwm ∈ ps) (h_gdl : Part.gdl ∈ ps) (h_trp : Part.trp ∈ ps) (h_saf : Part.saf ∈ ps) (h_clk : Part.clk ∈ ps) (h_nt : Part.nt ∈ ps) (h_cmd : Part.cmd ∈ ps) (h_ops : Part.ops ∈ ps) (h_log : Part.log ∈ ps) (h_sec : Part.sec ∈ ps) (h_stg : Part.stg ∈ ps) (h_acq : Part.acq ∈ ps) (h_host : Part.host ∈ ps) (h_twn : Part.twn ∈ ps) (h_mgt : Part.mgt ∈ ps) :
    Only ps s0 (State.idleActions s) := by
  unfold State.idleActions
  simp (maxDischargeDepth := 200) +contextual only [only_commitNow, only_startNow, only_stopNow, h, h_free, h_live, h_regs, h_eng, h_waits, h_meas, h_pwm, h_gdl, h_trp, h_saf, h_clk, h_nt, h_cmd, h_ops, h_log, h_sec, h_stg, h_acq, h_host, h_twn, h_mgt, only_foldl, implies_true]

theorem only_logRead {ps : List Part} {s0 : State} (s : State) (c : Src) (p : Bytes) (h : Only ps s0 s) (h_regs : Part.regs ∈ ps) (h_cmd : Part.cmd ∈ ps) (h_log : Part.log ∈ ps) (h_host : Part.host ∈ ps) (h_twn : Part.twn ∈ ps) (h_mgt : Part.mgt ∈ ps) :
    Only ps s0 (State.logRead s c p) := by
  unfold State.logRead
  simp (maxDischargeDepth := 200) +contextual only [only_done, only_hostWrite, only_nandTurn, h, h_regs, h_cmd, h_log, h_host, h_twn, h_mgt]

theorem only_mainClear {ps : List Part} {s0 : State} (s : State) (h : Only ps s0 s) (h_live : Part.live ∈ ps) (h_regs : Part.regs ∈ ps) (h_bus : Part.bus ∈ ps) (h_eng : Part.eng ∈ ps) (h_waits : Part.waits ∈ ps) (h_meas : Part.meas ∈ ps) (h_sar : Part.sar ∈ ps) (h_pwm : Part.pwm ∈ ps) (h_gdl : Part.gdl ∈ ps) (h_trp : Part.trp ∈ ps) (h_saf : Part.saf ∈ ps) (h_clk : Part.clk ∈ ps) (h_nt : Part.nt ∈ ps) (h_eth : Part.eth ∈ ps) (h_cmd : Part.cmd ∈ ps) (h_ops : Part.ops ∈ ps) (h_log : Part.log ∈ ps) (h_sec : Part.sec ∈ ps) (h_stg : Part.stg ∈ ps) (h_acq : Part.acq ∈ ps) (h_dma : Part.dma ∈ ps) (h_twn : Part.twn ∈ ps) (h_mgt : Part.mgt ∈ ps) :
    Only ps s0 (State.mainClear s) := by
  unfold State.mainClear
  simp (maxDischargeDepth := 200) only [only_mk, or_true, true_or, h, h_live, h_regs, h_bus, h_eng, h_waits, h_meas, h_sar, h_pwm, h_gdl, h_trp, h_saf, h_clk, h_nt, h_eth, h_cmd, h_ops, h_log, h_sec, h_stg, h_acq, h_dma, h_twn, h_mgt]

theorem only_mainReset {ps : List Part} {s0 : State} (s : State) (cause : Nat) (h : Only ps s0 s) (h_live : Part.live ∈ ps) (h_regs : Part.regs ∈ ps) (h_bus : Part.bus ∈ ps) (h_eng : Part.eng ∈ ps) (h_waits : Part.waits ∈ ps) (h_meas : Part.meas ∈ ps) (h_sar : Part.sar ∈ ps) (h_pwm : Part.pwm ∈ ps) (h_gdl : Part.gdl ∈ ps) (h_trp : Part.trp ∈ ps) (h_saf : Part.saf ∈ ps) (h_clk : Part.clk ∈ ps) (h_nt : Part.nt ∈ ps) (h_eth : Part.eth ∈ ps) (h_cmd : Part.cmd ∈ ps) (h_ops : Part.ops ∈ ps) (h_log : Part.log ∈ ps) (h_sec : Part.sec ∈ ps) (h_stg : Part.stg ∈ ps) (h_acq : Part.acq ∈ ps) (h_dma : Part.dma ∈ ps) (h_twn : Part.twn ∈ ps) (h_mgt : Part.mgt ∈ ps) :
    Only ps s0 (State.mainReset s cause) := by
  unfold State.mainReset
  simp (maxDischargeDepth := 200) +contextual only [only_enter, only_mainClear, only_modSec, h, h_live, h_regs, h_bus, h_eng, h_waits, h_meas, h_sar, h_pwm, h_gdl, h_trp, h_saf, h_clk, h_nt, h_eth, h_cmd, h_ops, h_log, h_sec, h_stg, h_acq, h_dma, h_twn, h_mgt]

theorem only_mgtDropCommand {ps : List Part} {s0 : State} (s : State) (h : Only ps s0 s) (h_regs : Part.regs ∈ ps) (h_cmd : Part.cmd ∈ ps) (h_stg : Part.stg ∈ ps) (h_host : Part.host ∈ ps) (h_twn : Part.twn ∈ ps) (h_mgt : Part.mgt ∈ ps) :
    Only ps s0 (State.mgtDropCommand s) := by
  unfold State.mgtDropCommand
  dsimp only
  repeat' split
  all_goals simp (maxDischargeDepth := 200) +contextual only [only_modMgt, only_modStg, only_refuse, h, h_regs, h_cmd, h_stg, h_host, h_twn, h_mgt]

theorem only_mgtReset {ps : List Part} {s0 : State} (s : State) (c : Src) (h : Only ps s0 s) (h_live : Part.live ∈ ps) (h_regs : Part.regs ∈ ps) (h_bus : Part.bus ∈ ps) (h_eng : Part.eng ∈ ps) (h_waits : Part.waits ∈ ps) (h_meas : Part.meas ∈ ps) (h_sar : Part.sar ∈ ps) (h_pwm : Part.pwm ∈ ps) (h_gdl : Part.gdl ∈ ps) (h_trp : Part.trp ∈ ps) (h_saf : Part.saf ∈ ps) (h_clk : Part.clk ∈ ps) (h_nt : Part.nt ∈ ps) (h_eth : Part.eth ∈ ps) (h_cmd : Part.cmd ∈ ps) (h_ops : Part.ops ∈ ps) (h_log : Part.log ∈ ps) (h_sec : Part.sec ∈ ps) (h_stg : Part.stg ∈ ps) (h_acq : Part.acq ∈ ps) (h_dma : Part.dma ∈ ps) (h_host : Part.host ∈ ps) (h_twn : Part.twn ∈ ps) (h_mgt : Part.mgt ∈ ps) :
    Only ps s0 (State.mgtReset s c) := by
  unfold State.mgtReset
  simp (maxDischargeDepth := 200) +contextual only [only_done, only_mainReset, only_modStg, only_refuse, only_ite, h, h_live, h_regs, h_bus, h_eng, h_waits, h_meas, h_sar, h_pwm, h_gdl, h_trp, h_saf, h_clk, h_nt, h_eth, h_cmd, h_ops, h_log, h_sec, h_stg, h_acq, h_dma, h_host, h_twn, h_mgt, only_foldl, implies_true]

theorem only_nandRefresh {ps : List Part} {s0 : State} (s : State) (block : Nat) (correctedBits : Nat) (h : Only ps s0 s) (h_ops : Part.ops ∈ ps) (h_log : Part.log ∈ ps) :
    Only ps s0 (State.nandRefresh s block correctedBits) := by
  unfold State.nandRefresh
  simp (maxDischargeDepth := 200) +contextual only [only_modOps, only_nandTurn, only_ite, h, h_ops, h_log]

theorem only_opsArm {ps : List Part} {s0 : State} (s : State) (c : Src) (h : Only ps s0 s) (h_regs : Part.regs ∈ ps) (h_eng : Part.eng ∈ ps) (h_pwm : Part.pwm ∈ ps) (h_cmd : Part.cmd ∈ ps) (h_ops : Part.ops ∈ ps) (h_log : Part.log ∈ ps) (h_host : Part.host ∈ ps) (h_twn : Part.twn ∈ ps) (h_mgt : Part.mgt ∈ ps) :
    Only ps s0 (State.opsArm s c) := by
  unfold State.opsArm
  split <;> simp (maxDischargeDepth := 200) +contextual only [only_busyStop, only_done, only_enginesStart, only_enter, only_refuse, only_ite, h, h_regs, h_eng, h_pwm, h_cmd, h_ops, h_log, h_host, h_twn, h_mgt]

theorem only_opsAt {ps : List Part} {s0 : State} (s : State) (es : List Nat) (h : Only ps s0 s) (h_regs : Part.regs ∈ ps) (h_eng : Part.eng ∈ ps) (h_waits : Part.waits ∈ ps) (h_pwm : Part.pwm ∈ ps) (h_gdl : Part.gdl ∈ ps) (h_trp : Part.trp ∈ ps) (h_nt : Part.nt ∈ ps) (h_cmd : Part.cmd ∈ ps) (h_ops : Part.ops ∈ ps) (h_log : Part.log ∈ ps) (h_host : Part.host ∈ ps) (h_twn : Part.twn ∈ ps) (h_mgt : Part.mgt ∈ ps) :
    Only ps s0 (State.opsAt s es) := by
  unfold State.opsAt
  simp (maxDischargeDepth := 200) +contextual only [only_foldl, only_startNow, only_stopNow, only_foldl, h, h_regs, h_eng, h_waits, h_pwm, h_gdl, h_trp, h_nt, h_cmd, h_ops, h_log, h_host, h_twn, h_mgt, implies_true]

theorem only_opsDisarm {ps : List Part} {s0 : State} (s : State) (c : Src) (h : Only ps s0 s) (h_regs : Part.regs ∈ ps) (h_eng : Part.eng ∈ ps) (h_waits : Part.waits ∈ ps) (h_pwm : Part.pwm ∈ ps) (h_gdl : Part.gdl ∈ ps) (h_trp : Part.trp ∈ ps) (h_nt : Part.nt ∈ ps) (h_cmd : Part.cmd ∈ ps) (h_ops : Part.ops ∈ ps) (h_log : Part.log ∈ ps) (h_host : Part.host ∈ ps) (h_twn : Part.twn ∈ ps) (h_mgt : Part.mgt ∈ ps) :
    Only ps s0 (State.opsDisarm s c) := by
  unfold State.opsDisarm
  split <;> simp (maxDischargeDepth := 200) +contextual only [only_done, only_refuse, only_toIdle, h, h_regs, h_eng, h_waits, h_pwm, h_gdl, h_trp, h_nt, h_cmd, h_ops, h_log, h_host, h_twn, h_mgt]

theorem only_opsMainReset {ps : List Part} {s0 : State} (s : State) (c : Src) (h : Only ps s0 s) (h_live : Part.live ∈ ps) (h_regs : Part.regs ∈ ps) (h_bus : Part.bus ∈ ps) (h_eng : Part.eng ∈ ps) (h_waits : Part.waits ∈ ps) (h_meas : Part.meas ∈ ps) (h_sar : Part.sar ∈ ps) (h_pwm : Part.pwm ∈ ps) (h_gdl : Part.gdl ∈ ps) (h_trp : Part.trp ∈ ps) (h_saf : Part.saf ∈ ps) (h_clk : Part.clk ∈ ps) (h_nt : Part.nt ∈ ps) (h_eth : Part.eth ∈ ps) (h_cmd : Part.cmd ∈ ps) (h_ops : Part.ops ∈ ps) (h_log : Part.log ∈ ps) (h_sec : Part.sec ∈ ps) (h_stg : Part.stg ∈ ps) (h_acq : Part.acq ∈ ps) (h_dma : Part.dma ∈ ps) (h_host : Part.host ∈ ps) (h_twn : Part.twn ∈ ps) (h_mgt : Part.mgt ∈ ps) :
    Only ps s0 (State.opsMainReset s c) := by
  unfold State.opsMainReset
  split <;> simp (maxDischargeDepth := 200) +contextual only [only_dropStarts, only_enginesStop, only_mgtReset, only_modMgt, only_stopChannels, h, h_live, h_regs, h_bus, h_eng, h_waits, h_meas, h_sar, h_pwm, h_gdl, h_trp, h_saf, h_clk, h_nt, h_eth, h_cmd, h_ops, h_log, h_sec, h_stg, h_acq, h_dma, h_host, h_twn, h_mgt]

theorem only_opsStart {ps : List Part} {s0 : State} (s : State) (c : Src) (p : Bytes) (take : Option DWord) (h : Only ps s0 s) (h_regs : Part.regs ∈ ps) (h_cmd : Part.cmd ∈ ps) (h_ops : Part.ops ∈ ps) (h_host : Part.host ∈ ps) (h_twn : Part.twn ∈ ps) (h_mgt : Part.mgt ∈ ps) :
    Only ps s0 (State.opsStart s c p take) := by
  unfold State.opsStart
  repeat' split
  all_goals simp (maxDischargeDepth := 200) only [only_busyStop, only_done, only_mirror, only_modOps, only_refuse, h, h_regs, h_cmd, h_ops, h_host, h_twn, h_mgt]

theorem only_opsStop {ps : List Part} {s0 : State} (s : State) (c : Src) (p : Bytes) (take : Option DWord) (h : Only ps s0 s) (h_regs : Part.regs ∈ ps) (h_cmd : Part.cmd ∈ ps) (h_ops : Part.ops ∈ ps) (h_host : Part.host ∈ ps) (h_twn : Part.twn ∈ ps) (h_mgt : Part.mgt ∈ ps) :
    Only ps s0 (State.opsStop s c p take) := by
  unfold State.opsStop
  repeat' split
  all_goals simp (maxDischargeDepth := 200) only [only_done, only_mirror, only_modOps, only_refuse, h, h_regs, h_cmd, h_ops, h_host, h_twn, h_mgt]

theorem only_powerDown {ps : List Part} {s0 : State} (s : State) (h : Only ps s0 s) (h_live : Part.live ∈ ps) (h_regs : Part.regs ∈ ps) (h_bus : Part.bus ∈ ps) (h_eng : Part.eng ∈ ps) (h_waits : Part.waits ∈ ps) (h_meas : Part.meas ∈ ps) (h_sar : Part.sar ∈ ps) (h_pwm : Part.pwm ∈ ps) (h_gdl : Part.gdl ∈ ps) (h_trp : Part.trp ∈ ps) (h_saf : Part.saf ∈ ps) (h_clk : Part.clk ∈ ps) (h_nt : Part.nt ∈ ps) (h_eth : Part.eth ∈ ps) (h_cmd : Part.cmd ∈ ps) (h_ops : Part.ops ∈ ps) (h_log : Part.log ∈ ps) (h_sec : Part.sec ∈ ps) (h_stg : Part.stg ∈ ps) (h_acq : Part.acq ∈ ps) (h_dma : Part.dma ∈ ps) (h_dram : Part.dram ∈ ps) (h_twn : Part.twn ∈ ps) (h_mgt : Part.mgt ∈ ps) :
    Only ps s0 (State.powerDown s) := by
  unfold State.powerDown
  simp (maxDischargeDepth := 200) only [only_mainClear, only_modOps, only_notify, only_mk, or_true, true_or, h, h_live, h_regs, h_bus, h_eng, h_waits, h_meas, h_sar, h_pwm, h_gdl, h_trp, h_saf, h_clk, h_nt, h_eth, h_cmd, h_ops, h_log, h_sec, h_stg, h_acq, h_dma, h_dram, h_twn, h_mgt]

theorem only_powerUp {ps : List Part} {s0 : State} (s : State) (retentionOk : Bool) (h : Only ps s0 s) (h_live : Part.live ∈ ps) (h_regs : Part.regs ∈ ps) (h_bus : Part.bus ∈ ps) (h_eng : Part.eng ∈ ps) (h_waits : Part.waits ∈ ps) (h_meas : Part.meas ∈ ps) (h_sar : Part.sar ∈ ps) (h_pwm : Part.pwm ∈ ps) (h_gdl : Part.gdl ∈ ps) (h_trp : Part.trp ∈ ps) (h_saf : Part.saf ∈ ps) (h_clk : Part.clk ∈ ps) (h_nt : Part.nt ∈ ps) (h_eth : Part.eth ∈ ps) (h_cmd : Part.cmd ∈ ps) (h_ops : Part.ops ∈ ps) (h_log : Part.log ∈ ps) (h_sec : Part.sec ∈ ps) (h_stg : Part.stg ∈ ps) (h_acq : Part.acq ∈ ps) (h_dma : Part.dma ∈ ps) (h_twn : Part.twn ∈ ps) (h_mgt : Part.mgt ∈ ps) :
    Only ps s0 (State.powerUp s retentionOk) := by
  unfold State.powerUp
  simp (maxDischargeDepth := 200) +contextual only [only_mainReset, only_modRep, only_modSaf, only_modSec, only_forNums, only_ite, h, h_live, h_regs, h_bus, h_eng, h_waits, h_meas, h_sar, h_pwm, h_gdl, h_trp, h_saf, h_clk, h_nt, h_eth, h_cmd, h_ops, h_log, h_sec, h_stg, h_acq, h_dma, h_twn, h_mgt, implies_true]

theorem only_selftest {ps : List Part} {s0 : State} (s : State) (failed : BitVec 12) (h : Only ps s0 s) (h_now : Part.now ∈ ps) (h_free : Part.free ∈ ps) (h_regs : Part.regs ∈ ps) (h_eng : Part.eng ∈ ps) (h_waits : Part.waits ∈ ps) (h_pwm : Part.pwm ∈ ps) (h_gdl : Part.gdl ∈ ps) (h_trp : Part.trp ∈ ps) (h_saf : Part.saf ∈ ps) (h_nt : Part.nt ∈ ps) (h_eth : Part.eth ∈ ps) (h_cmd : Part.cmd ∈ ps) (h_ops : Part.ops ∈ ps) (h_log : Part.log ∈ ps) (h_stg : Part.stg ∈ ps) (h_acq : Part.acq ∈ ps) (h_dma : Part.dma ∈ ps) (h_dram : Part.dram ∈ ps) (h_host : Part.host ∈ ps) (h_twn : Part.twn ∈ ps) (h_mgt : Part.mgt ∈ ps) :
    Only ps s0 (State.selftest s failed) := by
  unfold State.selftest
  simp (maxDischargeDepth := 200) +contextual only [only_advanceTo, only_enter, only_halt, only_modSaf, only_safJudge, only_safNote, only_setRegN, only_tripsStanding, only_ite, h, h_now, h_free, h_regs, h_eng, h_waits, h_pwm, h_gdl, h_trp, h_saf, h_nt, h_eth, h_cmd, h_ops, h_log, h_stg, h_acq, h_dma, h_dram, h_host, h_twn, h_mgt]

theorem only_vinLost {ps : List Part} {s0 : State} (s : State) (h : Only ps s0 s) (h_regs : Part.regs ∈ ps) (h_pwm : Part.pwm ∈ ps) (h_gdl : Part.gdl ∈ ps) (h_trp : Part.trp ∈ ps) (h_saf : Part.saf ∈ ps) (h_cmd : Part.cmd ∈ ps) (h_ops : Part.ops ∈ ps) (h_log : Part.log ∈ ps) (h_stg : Part.stg ∈ ps) (h_host : Part.host ∈ ps) (h_twn : Part.twn ∈ ps) (h_mgt : Part.mgt ∈ ps) :
    Only ps s0 (State.vinLost s) := by
  unfold State.vinLost
  simp (maxDischargeDepth := 200) +contextual only [only_mgtDropCommand, only_modOps, only_modSaf, only_modTwn, only_safJudge, only_stopChannels, only_ite, only_mk, or_true, true_or, h, h_regs, h_pwm, h_gdl, h_trp, h_saf, h_cmd, h_ops, h_log, h_stg, h_host, h_twn, h_mgt]

theorem only_vmgtLost {ps : List Part} {s0 : State} (s : State) (h : Only ps s0 s) (h_free : Part.free ∈ ps) (h_live : Part.live ∈ ps) (h_regs : Part.regs ∈ ps) (h_eng : Part.eng ∈ ps) (h_waits : Part.waits ∈ ps) (h_pwm : Part.pwm ∈ ps) (h_gdl : Part.gdl ∈ ps) (h_trp : Part.trp ∈ ps) (h_saf : Part.saf ∈ ps) (h_nt : Part.nt ∈ ps) (h_eth : Part.eth ∈ ps) (h_cmd : Part.cmd ∈ ps) (h_ops : Part.ops ∈ ps) (h_log : Part.log ∈ ps) (h_sec : Part.sec ∈ ps) (h_stg : Part.stg ∈ ps) (h_acq : Part.acq ∈ ps) (h_dma : Part.dma ∈ ps) (h_dram : Part.dram ∈ ps) (h_host : Part.host ∈ ps) (h_twn : Part.twn ∈ ps) (h_arb : Part.arb ∈ ps) (h_mgt : Part.mgt ∈ ps) :
    Only ps s0 (State.vmgtLost s) := by
  unfold State.vmgtLost
  dsimp only
  repeat' split
  all_goals simp (maxDischargeDepth := 200) +contextual only [only_modSaf, only_modSec, only_safFault, only_safUpdate, only_mk, or_true, true_or, h, h_free, h_live, h_regs, h_eng, h_waits, h_pwm, h_gdl, h_trp, h_saf, h_nt, h_eth, h_cmd, h_ops, h_log, h_sec, h_stg, h_acq, h_dma, h_dram, h_host, h_twn, h_arb, h_mgt]

theorem only_vmgtUp {ps : List Part} {s0 : State} (s : State) (strapped : Bool) (h : Only ps s0 s) (h_free : Part.free ∈ ps) (h_live : Part.live ∈ ps) (h_regs : Part.regs ∈ ps) (h_bus : Part.bus ∈ ps) (h_eng : Part.eng ∈ ps) (h_waits : Part.waits ∈ ps) (h_meas : Part.meas ∈ ps) (h_sar : Part.sar ∈ ps) (h_pwm : Part.pwm ∈ ps) (h_gdl : Part.gdl ∈ ps) (h_trp : Part.trp ∈ ps) (h_saf : Part.saf ∈ ps) (h_clk : Part.clk ∈ ps) (h_nt : Part.nt ∈ ps) (h_eth : Part.eth ∈ ps) (h_cmd : Part.cmd ∈ ps) (h_ops : Part.ops ∈ ps) (h_log : Part.log ∈ ps) (h_sec : Part.sec ∈ ps) (h_stg : Part.stg ∈ ps) (h_acq : Part.acq ∈ ps) (h_dma : Part.dma ∈ ps) (h_dram : Part.dram ∈ ps) (h_twn : Part.twn ∈ ps) (h_arb : Part.arb ∈ ps) (h_mgt : Part.mgt ∈ ps) :
    Only ps s0 (State.vmgtUp s strapped) := by
  unfold State.vmgtUp
  simp (maxDischargeDepth := 200) +contextual only [only_draw, only_modRep, only_modSaf, only_powerDown, only_ite, only_mk, or_true, true_or, h, h_free, h_live, h_regs, h_bus, h_eng, h_waits, h_meas, h_sar, h_pwm, h_gdl, h_trp, h_saf, h_clk, h_nt, h_eth, h_cmd, h_ops, h_log, h_sec, h_stg, h_acq, h_dma, h_dram, h_twn, h_arb, h_mgt]

theorem only_execArmLost {ps : List Part} {s0 : State} (s : State) (h : Only ps s0 s) (h_regs : Part.regs ∈ ps) (h_eng : Part.eng ∈ ps) (h_waits : Part.waits ∈ ps) (h_pwm : Part.pwm ∈ ps) (h_gdl : Part.gdl ∈ ps) (h_trp : Part.trp ∈ ps) (h_nt : Part.nt ∈ ps) (h_cmd : Part.cmd ∈ ps) (h_ops : Part.ops ∈ ps) (h_log : Part.log ∈ ps) (h_host : Part.host ∈ ps) (h_twn : Part.twn ∈ ps) (h_mgt : Part.mgt ∈ ps) :
    ∀ out, execArmLost s = .next out → Only ps s0 out := by
  unfold execArmLost
  intro out e
  split at e <;> rw [← Host.Outcome.next.inj e]
  all_goals simp (maxDischargeDepth := 200) only [only_toIdle, h, h_regs, h_eng, h_waits, h_pwm, h_gdl, h_trp, h_nt, h_cmd, h_ops, h_log, h_host, h_twn, h_mgt]

theorem only_execBootComplete {ps : List Part} {s0 : State} (media : BootMedia) (s : State) (h : Only ps s0 s) (h_free : Part.free ∈ ps) (h_live : Part.live ∈ ps) (h_regs : Part.regs ∈ ps) (h_eng : Part.eng ∈ ps) (h_waits : Part.waits ∈ ps) (h_meas : Part.meas ∈ ps) (h_pwm : Part.pwm ∈ ps) (h_gdl : Part.gdl ∈ ps) (h_trp : Part.trp ∈ ps) (h_saf : Part.saf ∈ ps) (h_clk : Part.clk ∈ ps) (h_nt : Part.nt ∈ ps) (h_cmd : Part.cmd ∈ ps) (h_ops : Part.ops ∈ ps) (h_log : Part.log ∈ ps) (h_sec : Part.sec ∈ ps) (h_stg : Part.stg ∈ ps) (h_acq : Part.acq ∈ ps) (h_host : Part.host ∈ ps) (h_twn : Part.twn ∈ ps) (h_mgt : Part.mgt ∈ ps) :
    ∀ out, execBootComplete media s = .next out → Only ps s0 out := by
  unfold execBootComplete
  intro out e
  split at e <;> cases e <;> simp (maxDischargeDepth := 200) +contextual only [only_boot, h, h_free, h_live, h_regs, h_eng, h_waits, h_meas, h_pwm, h_gdl, h_trp, h_saf, h_clk, h_nt, h_cmd, h_ops, h_log, h_sec, h_stg, h_acq, h_host, h_twn, h_mgt]

theorem only_execFwImageWriteComplete {ps : List Part} {s0 : State} (s : State) (h : Only ps s0 s) (h_regs : Part.regs ∈ ps) (h_cmd : Part.cmd ∈ ps) (h_ops : Part.ops ∈ ps) (h_log : Part.log ∈ ps) (h_host : Part.host ∈ ps) (h_twn : Part.twn ∈ ps) (h_mgt : Part.mgt ∈ ps) :
    ∀ out, execFwImageWriteComplete s = .next out → Only ps s0 out := by
  unfold execFwImageWriteComplete
  intro out e
  cases e
  simp (maxDischargeDepth := 200) +contextual only [only_fwFinish, only_nandTurn, h, h_regs, h_cmd, h_ops, h_log, h_host, h_twn, h_mgt]

theorem only_execHoldUpEnd {ps : List Part} {s0 : State} (s : State) (h : Only ps s0 s) (h_now : Part.now ∈ ps) (h_live : Part.live ∈ ps) (h_regs : Part.regs ∈ ps) (h_bus : Part.bus ∈ ps) (h_eng : Part.eng ∈ ps) (h_waits : Part.waits ∈ ps) (h_meas : Part.meas ∈ ps) (h_sar : Part.sar ∈ ps) (h_pwm : Part.pwm ∈ ps) (h_gdl : Part.gdl ∈ ps) (h_trp : Part.trp ∈ ps) (h_saf : Part.saf ∈ ps) (h_clk : Part.clk ∈ ps) (h_nt : Part.nt ∈ ps) (h_eth : Part.eth ∈ ps) (h_cmd : Part.cmd ∈ ps) (h_ops : Part.ops ∈ ps) (h_log : Part.log ∈ ps) (h_sec : Part.sec ∈ ps) (h_stg : Part.stg ∈ ps) (h_acq : Part.acq ∈ ps) (h_dma : Part.dma ∈ ps) (h_dram : Part.dram ∈ ps) (h_twn : Part.twn ∈ ps) (h_mgt : Part.mgt ∈ ps) :
    ∀ out, execHoldUpEnd s = .next out → Only ps s0 out := by
  unfold execHoldUpEnd
  intro out e
  split at e <;> cases e <;> simp (maxDischargeDepth := 200) +contextual only [only_advanceTo, only_powerDown, h, h_now, h_live, h_regs, h_bus, h_eng, h_waits, h_meas, h_sar, h_pwm, h_gdl, h_trp, h_saf, h_clk, h_nt, h_eth, h_cmd, h_ops, h_log, h_sec, h_stg, h_acq, h_dma, h_dram, h_twn, h_mgt]

theorem only_execImgFwActivate {ps : List Part} {s0 : State} (c : Src) (p : Bytes) (s : State) (h : Only ps s0 s) (h_regs : Part.regs ∈ ps) (h_cmd : Part.cmd ∈ ps) (h_ops : Part.ops ∈ ps) (h_sec : Part.sec ∈ ps) (h_host : Part.host ∈ ps) (h_twn : Part.twn ∈ ps) (h_mgt : Part.mgt ∈ ps) :
    ∀ out, execImgFwActivate c p s = .next out → Only ps s0 out := by
  unfold execImgFwActivate
  intro out e
  cases e
  simp (maxDischargeDepth := 200) +contextual only [only_acting, only_fwActivate, h, h_regs, h_cmd, h_ops, h_sec, h_host, h_twn, h_mgt, implies_true]

theorem only_execImgFwLoad {ps : List Part} {s0 : State} (c : Src) (p : Bytes) (image : Option Bytes) (s : State) (h : Only ps s0 s) (h_regs : Part.regs ∈ ps) (h_cmd : Part.cmd ∈ ps) (h_ops : Part.ops ∈ ps) (h_log : Part.log ∈ ps) (h_host : Part.host ∈ ps) (h_twn : Part.twn ∈ ps) (h_mgt : Part.mgt ∈ ps) :
    ∀ out, execImgFwLoad c p image s = .next out → Only ps s0 out := by
  unfold execImgFwLoad
  intro out e
  cases e
  simp (maxDischargeDepth := 200) +contextual only [only_acting, only_fwLoad, only_mirrorRead, h, h_regs, h_cmd, h_ops, h_log, h_host, h_twn, h_mgt, implies_true]

theorem only_execLogFlush {ps : List Part} {s0 : State} (s : State) (h : Only ps s0 s) (h_log : Part.log ∈ ps) :
    ∀ out, execLogFlush s = .next out → Only ps s0 out := by
  unfold execLogFlush
  intro out e
  split at e <;> cases e <;> simp (maxDischargeDepth := 200) +contextual only [only_logFlush, h, h_log]

theorem only_execLogRead {ps : List Part} {s0 : State} (c : Src) (p : Bytes) (s : State) (h : Only ps s0 s) (h_regs : Part.regs ∈ ps) (h_cmd : Part.cmd ∈ ps) (h_log : Part.log ∈ ps) (h_host : Part.host ∈ ps) (h_twn : Part.twn ∈ ps) (h_mgt : Part.mgt ∈ ps) :
    ∀ out, execLogRead c p s = .next out → Only ps s0 out := by
  unfold execLogRead
  intro out e
  cases e
  simp (maxDischargeDepth := 200) +contextual only [only_acting, only_logRead, h, h_regs, h_cmd, h_log, h_host, h_twn, h_mgt, implies_true]

theorem only_execNandRefresh {ps : List Part} {s0 : State} (block : Nat) (correctedBits : Nat) (s : State) (h : Only ps s0 s) (h_ops : Part.ops ∈ ps) (h_log : Part.log ∈ ps) :
    ∀ out, execNandRefresh block correctedBits s = .next out → Only ps s0 out := by
  unfold execNandRefresh
  intro out e
  cases e
  simp (maxDischargeDepth := 200) +contextual only [only_nandRefresh, h, h_ops, h_log]

theorem only_execOffSequenceComplete {ps : List Part} {s0 : State} (s : State) (h : Only ps s0 s) (h_free : Part.free ∈ ps) (h_live : Part.live ∈ ps) (h_regs : Part.regs ∈ ps) (h_bus : Part.bus ∈ ps) (h_eng : Part.eng ∈ ps) (h_waits : Part.waits ∈ ps) (h_meas : Part.meas ∈ ps) (h_sar : Part.sar ∈ ps) (h_pwm : Part.pwm ∈ ps) (h_gdl : Part.gdl ∈ ps) (h_trp : Part.trp ∈ ps) (h_saf : Part.saf ∈ ps) (h_clk : Part.clk ∈ ps) (h_nt : Part.nt ∈ ps) (h_eth : Part.eth ∈ ps) (h_cmd : Part.cmd ∈ ps) (h_ops : Part.ops ∈ ps) (h_log : Part.log ∈ ps) (h_sec : Part.sec ∈ ps) (h_stg : Part.stg ∈ ps) (h_acq : Part.acq ∈ ps) (h_dma : Part.dma ∈ ps) (h_host : Part.host ∈ ps) (h_twn : Part.twn ∈ ps) (h_mgt : Part.mgt ∈ ps) :
    ∀ out, execOffSequenceComplete s = .next out → Only ps s0 out := by
  unfold execOffSequenceComplete
  intro out e
  dsimp only at e
  repeat' split at e
  all_goals (cases e; simp (maxDischargeDepth := 200) +contextual only [only_ackOverdue, only_enter, only_mgtReset, h, h_free, h_live, h_regs, h_bus, h_eng, h_waits, h_meas, h_sar, h_pwm, h_gdl, h_trp, h_saf, h_clk, h_nt, h_eth, h_cmd, h_ops, h_log, h_sec, h_stg, h_acq, h_dma, h_host, h_twn, h_mgt])

theorem only_execOpsArm {ps : List Part} {s0 : State} (c : Src) (s : State) (h : Only ps s0 s) (h_regs : Part.regs ∈ ps) (h_eng : Part.eng ∈ ps) (h_pwm : Part.pwm ∈ ps) (h_cmd : Part.cmd ∈ ps) (h_ops : Part.ops ∈ ps) (h_log : Part.log ∈ ps) (h_host : Part.host ∈ ps) (h_twn : Part.twn ∈ ps) (h_mgt : Part.mgt ∈ ps) :
    ∀ out, execOpsArm c s = .next out → Only ps s0 out := by
  unfold execOpsArm
  intro out e
  cases e
  simp (maxDischargeDepth := 200) +contextual only [only_obey, only_opsArm, h, h_regs, h_eng, h_pwm, h_cmd, h_ops, h_log, h_host, h_twn, h_mgt, implies_true]

theorem only_execOpsDisarm {ps : List Part} {s0 : State} (c : Src) (s : State) (h : Only ps s0 s) (h_regs : Part.regs ∈ ps) (h_eng : Part.eng ∈ ps) (h_waits : Part.waits ∈ ps) (h_pwm : Part.pwm ∈ ps) (h_gdl : Part.gdl ∈ ps) (h_trp : Part.trp ∈ ps) (h_nt : Part.nt ∈ ps) (h_cmd : Part.cmd ∈ ps) (h_ops : Part.ops ∈ ps) (h_log : Part.log ∈ ps) (h_host : Part.host ∈ ps) (h_twn : Part.twn ∈ ps) (h_mgt : Part.mgt ∈ ps) :
    ∀ out, execOpsDisarm c s = .next out → Only ps s0 out := by
  unfold execOpsDisarm
  intro out e
  cases e
  simp (maxDischargeDepth := 200) +contextual only [only_obey, only_opsDisarm, h, h_regs, h_eng, h_waits, h_pwm, h_gdl, h_trp, h_nt, h_cmd, h_ops, h_log, h_host, h_twn, h_mgt, implies_true]

theorem only_execOpsMainReset {ps : List Part} {s0 : State} (c : Src) (s : State) (h : Only ps s0 s) (h_live : Part.live ∈ ps) (h_regs : Part.regs ∈ ps) (h_bus : Part.bus ∈ ps) (h_eng : Part.eng ∈ ps) (h_waits : Part.waits ∈ ps) (h_meas : Part.meas ∈ ps) (h_sar : Part.sar ∈ ps) (h_pwm : Part.pwm ∈ ps) (h_gdl : Part.gdl ∈ ps) (h_trp : Part.trp ∈ ps) (h_saf : Part.saf ∈ ps) (h_clk : Part.clk ∈ ps) (h_nt : Part.nt ∈ ps) (h_eth : Part.eth ∈ ps) (h_cmd : Part.cmd ∈ ps) (h_ops : Part.ops ∈ ps) (h_log : Part.log ∈ ps) (h_sec : Part.sec ∈ ps) (h_stg : Part.stg ∈ ps) (h_acq : Part.acq ∈ ps) (h_dma : Part.dma ∈ ps) (h_host : Part.host ∈ ps) (h_twn : Part.twn ∈ ps) (h_mgt : Part.mgt ∈ ps) :
    ∀ out, execOpsMainReset c s = .next out → Only ps s0 out := by
  unfold execOpsMainReset
  intro out e
  cases e
  simp (maxDischargeDepth := 200) +contextual only [only_acting, only_opsMainReset, only_refuse, only_ite, h, h_live, h_regs, h_bus, h_eng, h_waits, h_meas, h_sar, h_pwm, h_gdl, h_trp, h_saf, h_clk, h_nt, h_eth, h_cmd, h_ops, h_log, h_sec, h_stg, h_acq, h_dma, h_host, h_twn, h_mgt, implies_true]

theorem only_execOpsStart {ps : List Part} {s0 : State} (c : Src) (p : Bytes) (s : State) (h : Only ps s0 s) (h_regs : Part.regs ∈ ps) (h_cmd : Part.cmd ∈ ps) (h_ops : Part.ops ∈ ps) (h_host : Part.host ∈ ps) (h_twn : Part.twn ∈ ps) (h_mgt : Part.mgt ∈ ps) :
    ∀ out, execOpsStart c p s = .next out → Only ps s0 out := by
  unfold execOpsStart
  intro out e
  cases e
  simp (maxDischargeDepth := 200) +contextual only [only_obey, only_opsStart, h, h_regs, h_cmd, h_ops, h_host, h_twn, h_mgt, implies_true]

theorem only_execOpsStop {ps : List Part} {s0 : State} (c : Src) (p : Bytes) (s : State) (h : Only ps s0 s) (h_regs : Part.regs ∈ ps) (h_cmd : Part.cmd ∈ ps) (h_ops : Part.ops ∈ ps) (h_host : Part.host ∈ ps) (h_twn : Part.twn ∈ ps) (h_mgt : Part.mgt ∈ ps) :
    ∀ out, execOpsStop c p s = .next out → Only ps s0 out := by
  unfold execOpsStop
  intro out e
  cases e
  simp (maxDischargeDepth := 200) +contextual only [only_obey, only_opsStop, h, h_regs, h_cmd, h_ops, h_host, h_twn, h_mgt, implies_true]

theorem only_execPowerOnResetRelease {ps : List Part} {s0 : State} (retentionOk : Bool) (s : State) (h : Only ps s0 s) (h_live : Part.live ∈ ps) (h_regs : Part.regs ∈ ps) (h_bus : Part.bus ∈ ps) (h_eng : Part.eng ∈ ps) (h_waits : Part.waits ∈ ps) (h_meas : Part.meas ∈ ps) (h_sar : Part.sar ∈ ps) (h_pwm : Part.pwm ∈ ps) (h_gdl : Part.gdl ∈ ps) (h_trp : Part.trp ∈ ps) (h_saf : Part.saf ∈ ps) (h_clk : Part.clk ∈ ps) (h_nt : Part.nt ∈ ps) (h_eth : Part.eth ∈ ps) (h_cmd : Part.cmd ∈ ps) (h_ops : Part.ops ∈ ps) (h_log : Part.log ∈ ps) (h_sec : Part.sec ∈ ps) (h_stg : Part.stg ∈ ps) (h_acq : Part.acq ∈ ps) (h_dma : Part.dma ∈ ps) (h_twn : Part.twn ∈ ps) (h_mgt : Part.mgt ∈ ps) :
    ∀ out, execPowerOnResetRelease retentionOk s = .next out → Only ps s0 out := by
  unfold execPowerOnResetRelease
  intro out e
  split at e <;> cases e <;> simp (maxDischargeDepth := 200) +contextual only [only_modOps, only_powerUp, only_ite, h, h_live, h_regs, h_bus, h_eng, h_waits, h_meas, h_sar, h_pwm, h_gdl, h_trp, h_saf, h_clk, h_nt, h_eth, h_cmd, h_ops, h_log, h_sec, h_stg, h_acq, h_dma, h_twn, h_mgt]

theorem only_execSelftestComplete {ps : List Part} {s0 : State} (failed : BitVec 12) (s : State) (h : Only ps s0 s) (h_now : Part.now ∈ ps) (h_free : Part.free ∈ ps) (h_regs : Part.regs ∈ ps) (h_eng : Part.eng ∈ ps) (h_waits : Part.waits ∈ ps) (h_pwm : Part.pwm ∈ ps) (h_gdl : Part.gdl ∈ ps) (h_trp : Part.trp ∈ ps) (h_saf : Part.saf ∈ ps) (h_nt : Part.nt ∈ ps) (h_eth : Part.eth ∈ ps) (h_cmd : Part.cmd ∈ ps) (h_ops : Part.ops ∈ ps) (h_log : Part.log ∈ ps) (h_stg : Part.stg ∈ ps) (h_acq : Part.acq ∈ ps) (h_dma : Part.dma ∈ ps) (h_dram : Part.dram ∈ ps) (h_host : Part.host ∈ ps) (h_twn : Part.twn ∈ ps) (h_mgt : Part.mgt ∈ ps) :
    ∀ out, execSelftestComplete failed s = .next out → Only ps s0 out := by
  unfold execSelftestComplete
  intro out e
  split at e <;> cases e <;> simp (maxDischargeDepth := 200) +contextual only [only_selftest, h, h_now, h_free, h_regs, h_eng, h_waits, h_pwm, h_gdl, h_trp, h_saf, h_nt, h_eth, h_cmd, h_ops, h_log, h_stg, h_acq, h_dma, h_dram, h_host, h_twn, h_mgt]

theorem only_execVinLoss {ps : List Part} {s0 : State} (s : State) (h : Only ps s0 s) (h_regs : Part.regs ∈ ps) (h_pwm : Part.pwm ∈ ps) (h_gdl : Part.gdl ∈ ps) (h_trp : Part.trp ∈ ps) (h_saf : Part.saf ∈ ps) (h_cmd : Part.cmd ∈ ps) (h_ops : Part.ops ∈ ps) (h_log : Part.log ∈ ps) (h_stg : Part.stg ∈ ps) (h_host : Part.host ∈ ps) (h_twn : Part.twn ∈ ps) (h_mgt : Part.mgt ∈ ps) :
    ∀ out, execVinLoss s = .next out → Only ps s0 out := by
  unfold execVinLoss
  intro out e
  split at e <;> cases e <;> simp (maxDischargeDepth := 200) +contextual only [only_vinLost, h, h_regs, h_pwm, h_gdl, h_trp, h_saf, h_cmd, h_ops, h_log, h_stg, h_host, h_twn, h_mgt]

theorem only_execVmgtLoss {ps : List Part} {s0 : State} (s : State) (h : Only ps s0 s) (h_free : Part.free ∈ ps) (h_live : Part.live ∈ ps) (h_regs : Part.regs ∈ ps) (h_eng : Part.eng ∈ ps) (h_waits : Part.waits ∈ ps) (h_pwm : Part.pwm ∈ ps) (h_gdl : Part.gdl ∈ ps) (h_trp : Part.trp ∈ ps) (h_saf : Part.saf ∈ ps) (h_nt : Part.nt ∈ ps) (h_eth : Part.eth ∈ ps) (h_cmd : Part.cmd ∈ ps) (h_ops : Part.ops ∈ ps) (h_log : Part.log ∈ ps) (h_sec : Part.sec ∈ ps) (h_stg : Part.stg ∈ ps) (h_acq : Part.acq ∈ ps) (h_dma : Part.dma ∈ ps) (h_dram : Part.dram ∈ ps) (h_host : Part.host ∈ ps) (h_twn : Part.twn ∈ ps) (h_arb : Part.arb ∈ ps) (h_mgt : Part.mgt ∈ ps) :
    ∀ out, execVmgtLoss s = .next out → Only ps s0 out := by
  unfold execVmgtLoss
  intro out e
  split at e <;> cases e <;> simp (maxDischargeDepth := 200) +contextual only [only_vmgtLost, h, h_free, h_live, h_regs, h_eng, h_waits, h_pwm, h_gdl, h_trp, h_saf, h_nt, h_eth, h_cmd, h_ops, h_log, h_sec, h_stg, h_acq, h_dma, h_dram, h_host, h_twn, h_arb, h_mgt]

theorem only_execVmgtPowerUp {ps : List Part} {s0 : State} (hbPulledHigh : Bool) (s : State) (h : Only ps s0 s) (h_free : Part.free ∈ ps) (h_live : Part.live ∈ ps) (h_regs : Part.regs ∈ ps) (h_bus : Part.bus ∈ ps) (h_eng : Part.eng ∈ ps) (h_waits : Part.waits ∈ ps) (h_meas : Part.meas ∈ ps) (h_sar : Part.sar ∈ ps) (h_pwm : Part.pwm ∈ ps) (h_gdl : Part.gdl ∈ ps) (h_trp : Part.trp ∈ ps) (h_saf : Part.saf ∈ ps) (h_clk : Part.clk ∈ ps) (h_nt : Part.nt ∈ ps) (h_eth : Part.eth ∈ ps) (h_cmd : Part.cmd ∈ ps) (h_ops : Part.ops ∈ ps) (h_log : Part.log ∈ ps) (h_sec : Part.sec ∈ ps) (h_stg : Part.stg ∈ ps) (h_acq : Part.acq ∈ ps) (h_dma : Part.dma ∈ ps) (h_dram : Part.dram ∈ ps) (h_twn : Part.twn ∈ ps) (h_arb : Part.arb ∈ ps) (h_mgt : Part.mgt ∈ ps) :
    ∀ out, execVmgtPowerUp hbPulledHigh s = .next out → Only ps s0 out := by
  unfold execVmgtPowerUp
  intro out e
  split at e <;> cases e <;> simp (maxDischargeDepth := 200) +contextual only [only_vmgtUp, h, h_free, h_live, h_regs, h_bus, h_eng, h_waits, h_meas, h_sar, h_pwm, h_gdl, h_trp, h_saf, h_clk, h_nt, h_eth, h_cmd, h_ops, h_log, h_sec, h_stg, h_acq, h_dma, h_dram, h_twn, h_arb, h_mgt]

end Sys2Proof.Machine
end

