-- ==== Sys2Proof/Laws/OnlyRings.lean ====
section
/-! SUPPORT. Frames of the operations and meanings of Machine/Rings.lean: one lemma each, which names the parts of the state that may
change. -/

set_option maxRecDepth 4000

namespace Sys2Proof.Machine

theorem only_seqTaken {ps : List Part} {s0 : State} (s : State) (ring : Fin 129) (seq : DWord) (op : Nat) (p : Bytes) (h : Only ps s0 s) (h_free : Part.free ∈ ps) (h_regs : Part.regs ∈ ps) (h_sec : Part.sec ∈ ps) :
    Only ps s0 (State.seqTaken s ring seq op p) := by
  unfold State.seqTaken
  simp (maxDischargeDepth := 200) +contextual only [only_grantTaken, only_setLastSeq, only_ite, h, h_free, h_regs, h_sec]

theorem only_bar2Read {ps : List Part} {s0 : State} (s : State) (r : Nat) (off : Nat) (w : AccessWidth) (h : Only ps s0 s) (h_regs : Part.regs ∈ ps) (h_bus : Part.bus ∈ ps) :
    Only ps s0 (State.bar2Read s r off w) := by
  unfold State.bar2Read
  simp (maxDischargeDepth := 200) +contextual only [only_count, only_modBus, only_ite, h, h_regs, h_bus]

theorem only_bellCq {ps : List Part} {s0 : State} (s : State) (r : Nat) (v : Word) (h : Only ps s0 s) (h_regs : Part.regs ∈ ps) (h_cmd : Part.cmd ∈ ps) :
    Only ps s0 (State.bellCq s r v) := by
  unfold State.bellCq
  simp (maxDischargeDepth := 200) +contextual only [only_count, only_modRing, only_trace, only_ite, h, h_regs, h_cmd]

theorem only_bellSq {ps : List Part} {s0 : State} (s : State) (r : Nat) (v : Word) (h : Only ps s0 s) (h_regs : Part.regs ∈ ps) (h_cmd : Part.cmd ∈ ps) :
    Only ps s0 (State.bellSq s r v) := by
  unfold State.bellSq
  simp (maxDischargeDepth := 200) +contextual only [only_count, only_modRing, only_trace, only_ite, h, h_regs, h_cmd]

theorem only_bar2Write {ps : List Part} {s0 : State} (s : State) (r : Nat) (off : Nat) (w : AccessWidth) (v : DWord) (h : Only ps s0 s) (h_regs : Part.regs ∈ ps) (h_cmd : Part.cmd ∈ ps) :
    Only ps s0 (State.bar2Write s r off w v) := by
  unfold State.bar2Write
  simp (maxDischargeDepth := 200) +contextual only [only_bellCq, only_bellSq, only_count, only_ite, h, h_regs, h_cmd]

theorem only_flightDrop {ps : List Part} {s0 : State} (s : State) (no : Nat) (h : Only ps s0 s) (h_cmd : Part.cmd ∈ ps) :
    Only ps s0 (State.flightDrop s no) := by
  unfold State.flightDrop
  simp (maxDischargeDepth := 200) only [only_modCmd, h, h_cmd]

theorem only_flightLeave {ps : List Part} {s0 : State} (s : State) (f : Flight) (h : Only ps s0 s) (h_regs : Part.regs ∈ ps) (h_cmd : Part.cmd ∈ ps) :
    Only ps s0 (State.flightLeave s f) := by
  unfold State.flightLeave
  simp (maxDischargeDepth := 200) +contextual only [only_backPressure, only_flightDrop, h, h_regs, h_cmd]

theorem only_accept {ps : List Part} {s0 : State} (s : State) (f : Flight) (h : Only ps s0 s) (h_free : Part.free ∈ ps) (h_regs : Part.regs ∈ ps) (h_cmd : Part.cmd ∈ ps) (h_sec : Part.sec ∈ ps) (h_twn : Part.twn ∈ ps) :
    Only ps s0 (State.accept s f) := by
  unfold State.accept
  simp (maxDischargeDepth := 200) +contextual only [only_flightLeave, only_keepMax, only_mirror, only_modCmd, only_seqTaken, only_trace, only_ite, h, h_free, h_regs, h_cmd, h_sec, h_twn]

theorem only_dispatch {ps : List Part} {s0 : State} (s : State) (u : Nat) (h : Only ps s0 s) (h_regs : Part.regs ∈ ps) (h_cmd : Part.cmd ∈ ps) :
    Only ps s0 (State.dispatch s u) := by
  unfold State.dispatch
  dsimp only
  repeat' split
  all_goals simp (maxDischargeDepth := 200) +contextual only [only_modCmd, only_trace, h, h_regs, h_cmd]

theorem only_flightEnd {ps : List Part} {s0 : State} (s : State) (f : Flight) (st : Status) (detail : Nat) (h : Only ps s0 s) (h_regs : Part.regs ∈ ps) (h_cmd : Part.cmd ∈ ps) (h_host : Part.host ∈ ps) :
    Only ps s0 (State.flightEnd s f st detail) := by
  unfold State.flightEnd
  simp (maxDischargeDepth := 200) +contextual only [only_flightLeave, only_writeEntry, h, h_regs, h_cmd, h_host]

theorem only_flightTimeout {ps : List Part} {s0 : State} (s : State) (f : Flight) (h : Only ps s0 s) (h_regs : Part.regs ∈ ps) (h_cmd : Part.cmd ∈ ps) (h_host : Part.host ∈ ps) :
    Only ps s0 (State.flightTimeout s f) := by
  unfold State.flightTimeout
  simp (maxDischargeDepth := 200) only [only_flightEnd, only_trace, h, h_regs, h_cmd, h_host]

theorem only_withdrawLate {ps : List Part} {s0 : State} (s : State) (h : Only ps s0 s) (h_regs : Part.regs ∈ ps) (h_cmd : Part.cmd ∈ ps) (h_host : Part.host ∈ ps) :
    Only ps s0 (State.withdrawLate s) := by
  unfold State.withdrawLate
  simp (maxDischargeDepth := 200) +contextual only [only_flightTimeout, only_foldl, only_foldl, h, h_regs, h_cmd, h_host, implies_true]

theorem only_queueItem {ps : List Part} {s0 : State} (s : State) (f : Flight) (k : WorkKind) (h : Only ps s0 s) (h_regs : Part.regs ∈ ps) (h_cmd : Part.cmd ∈ ps) (h_host : Part.host ∈ ps) :
    Only ps s0 (State.queueItem s f k) := by
  unfold State.queueItem
  simp (maxDischargeDepth := 200) only [only_backPressure, only_flightTimeout, only_modCmd, only_trace, only_ite, h, h_regs, h_cmd, h_host]

theorem only_fetch {ps : List Part} {s0 : State} (s : State) (r : Fin 128) (desc : Option Bytes) (payload : Bytes) (sig : Bytes) (h : Only ps s0 s) (h_regs : Part.regs ∈ ps) (h_cmd : Part.cmd ∈ ps) (h_host : Part.host ∈ ps) :
    Only ps s0 (State.fetch s r desc payload sig) := by
  unfold State.fetch
  split <;> simp (maxDischargeDepth := 200) only [only_modCmd, only_modRing, only_queueItem, only_trace, h, h_regs, h_cmd, h_host]

theorem only_parse {ps : List Part} {s0 : State} (s : State) (f : Flight) (h : Only ps s0 s) (h_regs : Part.regs ∈ ps) (h_cmd : Part.cmd ∈ ps) (h_host : Part.host ∈ ps) :
    Only ps s0 (State.parse s f) := by
  unfold State.parse
  split <;> simp (maxDischargeDepth := 200) only [only_flightEnd, only_queueItem, only_ite, h, h_regs, h_cmd, h_host]

theorem only_place {ps : List Part} {s0 : State} (s : State) (f : Flight) (h : Only ps s0 s) (h_free : Part.free ∈ ps) (h_regs : Part.regs ∈ ps) (h_cmd : Part.cmd ∈ ps) (h_sec : Part.sec ∈ ps) (h_host : Part.host ∈ ps) (h_twn : Part.twn ∈ ps) :
    Only ps s0 (State.place s f) := by
  unfold State.place
  repeat' split
  all_goals simp (maxDischargeDepth := 200) +contextual only [only_accept, only_busyStop, only_flightEnd, only_flightLeave, only_queueItem, only_writeEntry, h, h_free, h_regs, h_cmd, h_sec, h_host, h_twn]

theorem only_setEnable {ps : List Part} {s0 : State} (s : State) (r : Nat) (on : Bool) (h : Only ps s0 s) (h_regs : Part.regs ∈ ps) :
    Only ps s0 (State.setEnable s r on) := by
  unfold State.setEnable
  simp (maxDischargeDepth := 200) only [only_setReg, h, h_regs]

theorem only_ringDisable {ps : List Part} {s0 : State} (s : State) (r : Nat) (h : Only ps s0 s) (h_regs : Part.regs ∈ ps) (h_cmd : Part.cmd ∈ ps) (h_host : Part.host ∈ ps) :
    Only ps s0 (State.ringDisable s r) := by
  unfold State.ringDisable
  split <;> simp (maxDischargeDepth := 200) +contextual only [only_flightEnd, only_modRing, only_setEnable, h, h_regs, h_cmd, h_host, only_foldl, implies_true]

theorem only_ringDrained {ps : List Part} {s0 : State} (s : State) (r : Nat) (h : Only ps s0 s) (h_cmd : Part.cmd ∈ ps) :
    Only ps s0 (State.ringDrained s r) := by
  unfold State.ringDrained
  simp (maxDischargeDepth := 200) only [only_modRing, only_ite, h, h_cmd]

theorem only_ringEnable {ps : List Part} {s0 : State} (s : State) (r : Nat) (h : Only ps s0 s) (h_regs : Part.regs ∈ ps) (h_cmd : Part.cmd ∈ ps) :
    Only ps s0 (State.ringEnable s r) := by
  unfold State.ringEnable
  split <;> simp (maxDischargeDepth := 200) only [only_busyStop, only_modRing, only_setEnable, only_ite, h, h_regs, h_cmd]

theorem only_unitFree {ps : List Part} {s0 : State} (s : State) (u : Nat) (h : Only ps s0 s) (h_cmd : Part.cmd ∈ ps) :
    Only ps s0 (State.unitFree s u) := by
  unfold State.unitFree
  simp (maxDischargeDepth := 200) only [only_modCmd, h, h_cmd]

theorem only_verify {ps : List Part} {s0 : State} (s : State) (u : Nat) (f : Flight) (h : Only ps s0 s) (h_regs : Part.regs ∈ ps) (h_cmd : Part.cmd ∈ ps) (h_host : Part.host ∈ ps) :
    Only ps s0 (State.verify s u f) := by
  unfold State.verify
  dsimp only
  repeat' split
  all_goals simp (maxDischargeDepth := 200) +contextual only [only_count, only_flightEnd, only_modCmd, only_queueItem, only_trace, h, h_regs, h_cmd, h_host]

theorem only_execCommandTimeout {ps : List Part} {s0 : State} (ring : Fin 128) (seq : DWord) (s : State) (h : Only ps s0 s) (h_now : Part.now ∈ ps) (h_regs : Part.regs ∈ ps) (h_nt : Part.nt ∈ ps) (h_cmd : Part.cmd ∈ ps) (h_host : Part.host ∈ ps) :
    ∀ out, execCommandTimeout ring seq s = .next out → Only ps s0 out := by
  unfold execCommandTimeout
  intro out e
  split at e <;> cases e <;> simp (maxDischargeDepth := 200) only [only_advanceTo, only_flightTimeout, h, h_now, h_regs, h_nt, h_cmd, h_host]

theorem only_execCqHeadWrite {ps : List Part} {s0 : State} (ring : Fin 128) (v : Word) (s : State) (h : Only ps s0 s) (h_regs : Part.regs ∈ ps) (h_cmd : Part.cmd ∈ ps) :
    ∀ out, execCqHeadWrite ring v s = .next out → Only ps s0 out := by
  unfold execCqHeadWrite
  intro out e
  cases e
  simp (maxDischargeDepth := 200) +contextual only [only_bellCq, h, h_regs, h_cmd]

theorem only_execDescriptorFetch {ps : List Part} {s0 : State} (ring : Fin 128) (desc : Option Bytes) (payload : Bytes) (sig : Bytes) (s : State) (h : Only ps s0 s) (h_regs : Part.regs ∈ ps) (h_cmd : Part.cmd ∈ ps) (h_host : Part.host ∈ ps) :
    ∀ out, execDescriptorFetch ring desc payload sig s = .next out → Only ps s0 out := by
  unfold execDescriptorFetch
  intro out e
  split at e <;> cases e <;> simp (maxDischargeDepth := 200) only [only_fetch, h, h_regs, h_cmd, h_host]

theorem only_execDoorbell {ps : List Part} {s0 : State} (ring : Fin 128) (v : Word) (s : State) (h : Only ps s0 s) (h_regs : Part.regs ∈ ps) (h_cmd : Part.cmd ∈ ps) :
    ∀ out, execDoorbell ring v s = .next out → Only ps s0 out := by
  unfold execDoorbell
  intro out e
  cases e
  simp (maxDischargeDepth := 200) +contextual only [only_bellSq, h, h_regs, h_cmd]

theorem only_execParse {ps : List Part} {s0 : State} (core : Fin 2) (s : State) (h : Only ps s0 s) (h_regs : Part.regs ∈ ps) (h_cmd : Part.cmd ∈ ps) (h_host : Part.host ∈ ps) :
    ∀ out, execParse core s = .next out → Only ps s0 out := by
  unfold execParse
  intro out e
  split at e <;> cases e <;> simp (maxDischargeDepth := 200) only [only_parse, only_unitFree, h, h_regs, h_cmd, h_host]

theorem only_execPayloadReadFail {ps : List Part} {s0 : State} (ring : Fin 128) (seq : DWord) (s : State) (h : Only ps s0 s) (h_regs : Part.regs ∈ ps) (h_cmd : Part.cmd ∈ ps) (h_host : Part.host ∈ ps) :
    ∀ out, execPayloadReadFail ring seq s = .next out → Only ps s0 out := by
  unfold execPayloadReadFail
  intro out e
  split at e <;> cases e <;> simp (maxDischargeDepth := 200) only [only_flightEnd, h, h_regs, h_cmd, h_host]

theorem only_execPlace {ps : List Part} {s0 : State} (core : Fin 2) (s : State) (h : Only ps s0 s) (h_free : Part.free ∈ ps) (h_regs : Part.regs ∈ ps) (h_cmd : Part.cmd ∈ ps) (h_sec : Part.sec ∈ ps) (h_host : Part.host ∈ ps) (h_twn : Part.twn ∈ ps) :
    ∀ out, execPlace core s = .next out → Only ps s0 out := by
  unfold execPlace
  intro out e
  split at e <;> cases e <;> simp (maxDischargeDepth := 200) +contextual only [only_place, only_unitFree, h, h_free, h_regs, h_cmd, h_sec, h_host, h_twn]

theorem only_execRingDisable {ps : List Part} {s0 : State} (ring : Fin 128) (s : State) (h : Only ps s0 s) (h_regs : Part.regs ∈ ps) (h_cmd : Part.cmd ∈ ps) (h_host : Part.host ∈ ps) :
    ∀ out, execRingDisable ring s = .next out → Only ps s0 out := by
  unfold execRingDisable
  intro out e
  cases e
  simp (maxDischargeDepth := 200) only [only_ringDisable, h, h_regs, h_cmd, h_host]

theorem only_execRingDrained {ps : List Part} {s0 : State} (ring : Fin 128) (s : State) (h : Only ps s0 s) (h_cmd : Part.cmd ∈ ps) :
    ∀ out, execRingDrained ring s = .next out → Only ps s0 out := by
  unfold execRingDrained
  intro out e
  cases e
  simp (maxDischargeDepth := 200) only [only_ringDrained, h, h_cmd]

theorem only_execRingEnable {ps : List Part} {s0 : State} (ring : Fin 128) (s : State) (h : Only ps s0 s) (h_regs : Part.regs ∈ ps) (h_cmd : Part.cmd ∈ ps) :
    ∀ out, execRingEnable ring s = .next out → Only ps s0 out := by
  unfold execRingEnable
  intro out e
  cases e
  simp (maxDischargeDepth := 200) only [only_ringEnable, h, h_regs, h_cmd]

theorem only_execVerify {ps : List Part} {s0 : State} (unit : Fin 7) (s : State) (h : Only ps s0 s) (h_regs : Part.regs ∈ ps) (h_cmd : Part.cmd ∈ ps) (h_host : Part.host ∈ ps) :
    ∀ out, execVerify unit s = .next out → Only ps s0 out := by
  unfold execVerify
  intro out e
  split at e <;> cases e <;> simp (maxDischargeDepth := 200) only [only_unitFree, only_verify, h, h_regs, h_cmd, h_host]

theorem only_execWorkItemDispatch {ps : List Part} {s0 : State} (unit : Fin 7) (s : State) (h : Only ps s0 s) (h_regs : Part.regs ∈ ps) (h_cmd : Part.cmd ∈ ps) (h_host : Part.host ∈ ps) :
    ∀ out, execWorkItemDispatch unit s = .next out → Only ps s0 out := by
  unfold execWorkItemDispatch
  intro out e
  cases e
  simp (maxDischargeDepth := 200) +contextual only [only_dispatch, only_withdrawLate, h, h_regs, h_cmd, h_host]

end Sys2Proof.Machine
end

