-- ==== Sys2Proof/Laws/OnlyMgmt.lean ====
section
/-! SUPPORT. Frames of the operations and meanings of Machine/Mgmt.lean: one lemma each, which names the parts of the state that may
change. -/

set_option maxRecDepth 4000

namespace Sys2Proof.Machine

theorem only_ctrlSend {ps : List Part} {s0 : State} (s : State) (code : Nat) (cc : Nat) (body : Bytes) (h : Only ps s0 s) (h_mgt : Part.mgt ∈ ps) :
    Only ps s0 (State.ctrlSend s code cc body) := by
  unfold State.ctrlSend
  simp (maxDischargeDepth := 200) only [only_mctpSend, only_ite, h, h_mgt]

theorem only_mgtSend {ps : List Part} {s0 : State} (s : State) (peer : MctpPeer) (kind : Nat) (req : Byte) (status : Nat) (body : Bytes) (h : Only ps s0 s) (h_mgt : Part.mgt ∈ ps) :
    Only ps s0 (State.mgtSend s peer kind req status body) := by
  unfold State.mgtSend
  simp (maxDischargeDepth := 200) +contextual only [only_mctpSend, h, h_mgt]

theorem only_mctpMessage {ps : List Part} {s0 : State} (s : State) (peer : MctpPeer) (m : Bytes) (h : Only ps s0 s) (h_mgt : Part.mgt ∈ ps) :
    Only ps s0 (State.mctpMessage s peer m) := by
  unfold State.mctpMessage
  simp (maxDischargeDepth := 200) +contextual only [only_mgtSend, only_modMgt, only_ite, h, h_mgt]

theorem only_mctpNext {ps : List Part} {s0 : State} (s : State) (a : MctpAsm) (seq : Nat) (last : Bool) (data : Bytes) (h : Only ps s0 s) (h_regs : Part.regs ∈ ps) (h_mgt : Part.mgt ∈ ps) :
    Only ps s0 (State.mctpNext s a seq last data) := by
  unfold State.mctpNext
  simp (maxDischargeDepth := 200) only [only_count, only_mctpMessage, only_modMgt, only_ite, h, h_regs, h_mgt]

theorem only_mctpIn {ps : List Part} {s0 : State} (s : State) (p : Bytes) (h : Only ps s0 s) (h_regs : Part.regs ∈ ps) (h_mgt : Part.mgt ∈ ps) :
    Only ps s0 (State.mctpIn s p) := by
  unfold State.mctpIn
  repeat' split
  all_goals simp (maxDischargeDepth := 200) only [only_count, only_mctpMessage, only_mctpNext, only_modMgt, only_ite, h, h_regs, h_mgt]

theorem only_mgtCommand {ps : List Part} {s0 : State} (s : State) (peer : MctpPeer) (req : Byte) (body : Bytes) (h : Only ps s0 s) (h_free : Part.free ∈ ps) (h_regs : Part.regs ∈ ps) (h_cmd : Part.cmd ∈ ps) (h_sec : Part.sec ∈ ps) (h_host : Part.host ∈ ps) (h_twn : Part.twn ∈ ps) (h_mgt : Part.mgt ∈ ps) :
    Only ps s0 (State.mgtCommand s peer req body) := by
  unfold State.mgtCommand
  extract_lets d inline_ rest n p sig op c s1
  have h1 : Only ps s0 s1 := only_modMgt _ h h_mgt
  have hr := fun st x => only_refuse s1 c op st x h1 h_regs h_cmd h_host h_twn h_mgt
  have hs := only_seqTaken s1 128 c.seq op p h1 h_free h_regs h_sec
  clear_value s1 c p sig
  split
  · exact hr _ _
  · refine only_ite (hr _ _) ?_
    split
    · exact hr _ _
    · split
      · exact hr _ _
      · exact only_ite (hr _ _) (only_ite (only_mirror _ _ _ _ _ hs h_twn) hs)

theorem only_putBlock {ps : List Part} {s0 : State} (s : State) (body : Bytes) (h : Only ps s0 s) (h_dram : Part.dram ∈ ps) (h_mgt : Part.mgt ∈ ps) :
    Only ps s0 (State.putBlock s body) := by
  unfold State.putBlock
  simp (maxDischargeDepth := 200) +contextual only [only_ite, only_mk, or_true, true_or, h, h_dram, h_mgt]

theorem only_takeMsg {ps : List Part} {s0 : State} (s : State) (kind : Nat) (req : Byte) (h : Only ps s0 s) (h_mgt : Part.mgt ∈ ps) :
    Only ps s0 (State.takeMsg s kind req) := by
  unfold State.takeMsg
  simp (maxDischargeDepth := 200) only [only_modMgt, h, h_mgt]

theorem only_query {ps : List Part} {s0 : State} (s : State) (kind : Nat) (req : Byte) (act : State → State) (body : State → Bytes)
    (h : Only ps s0 s) (h_mgt : Part.mgt ∈ ps) (ha : ∀ u, Only ps s0 u → Only ps s0 (act u)) : Only ps s0 (s.query kind req act body) := by
  unfold State.query
  simp (maxDischargeDepth := 200) only [only_ite, only_mgtSend, only_takeMsg, ha, h, h_mgt]

theorem only_stgRecover {ps : List Part} {s0 : State} (s : State) (c : Src) (p : Bytes) (h : Only ps s0 s) (h_regs : Part.regs ∈ ps) (h_cmd : Part.cmd ∈ ps) (h_stg : Part.stg ∈ ps) (h_host : Part.host ∈ ps) (h_twn : Part.twn ∈ ps) (h_mgt : Part.mgt ∈ ps) :
    Only ps s0 (State.stgRecover s c p) := by
  unfold State.stgRecover
  dsimp only
  repeat' split
  all_goals simp (maxDischargeDepth := 200) +contextual only [only_blockWrite, only_refuse, h, h_regs, h_cmd, h_stg, h_host, h_twn, h_mgt]

theorem only_execCommand {ps : List Part} {s0 : State} (reqId : Byte) (body : Bytes) (s : State) (h : Only ps s0 s) (h_free : Part.free ∈ ps) (h_regs : Part.regs ∈ ps) (h_cmd : Part.cmd ∈ ps) (h_sec : Part.sec ∈ ps) (h_host : Part.host ∈ ps) (h_twn : Part.twn ∈ ps) (h_mgt : Part.mgt ∈ ps) :
    ∀ out, execCommand reqId body s = .next out → Only ps s0 out := by
  unfold execCommand
  intro out e
  dsimp only at e
  repeat' split at e
  all_goals (cases e; simp (maxDischargeDepth := 200) +contextual only [only_mgtCommand, only_mgtSend, only_takeMsg, h, h_free, h_regs, h_cmd, h_sec, h_host, h_twn, h_mgt])

theorem only_execConfigBlockWriteComplete {ps : List Part} {s0 : State} (s : State) (h : Only ps s0 s) (h_live : Part.live ∈ ps) (h_regs : Part.regs ∈ ps) (h_bus : Part.bus ∈ ps) (h_eng : Part.eng ∈ ps) (h_waits : Part.waits ∈ ps) (h_meas : Part.meas ∈ ps) (h_sar : Part.sar ∈ ps) (h_pwm : Part.pwm ∈ ps) (h_gdl : Part.gdl ∈ ps) (h_trp : Part.trp ∈ ps) (h_saf : Part.saf ∈ ps) (h_clk : Part.clk ∈ ps) (h_nt : Part.nt ∈ ps) (h_eth : Part.eth ∈ ps) (h_cmd : Part.cmd ∈ ps) (h_ops : Part.ops ∈ ps) (h_log : Part.log ∈ ps) (h_sec : Part.sec ∈ ps) (h_stg : Part.stg ∈ ps) (h_acq : Part.acq ∈ ps) (h_dma : Part.dma ∈ ps) (h_host : Part.host ∈ ps) (h_twn : Part.twn ∈ ps) (h_mgt : Part.mgt ∈ ps) :
    ∀ out, execConfigBlockWriteComplete s = .next out → Only ps s0 out := by
  unfold execConfigBlockWriteComplete
  intro out e
  repeat' split at e
  all_goals cases e
  all_goals simp (maxDischargeDepth := 200) only [only_blockWritten, only_complete, only_done, only_opsMainReset, h, h_live, h_regs, h_bus, h_eng, h_waits, h_meas, h_sar, h_pwm, h_gdl, h_trp, h_saf, h_clk, h_nt, h_eth, h_cmd, h_ops, h_log, h_sec, h_stg, h_acq, h_dma, h_host, h_twn, h_mgt]

theorem only_execGetEndpointId {ps : List Part} {s0 : State} (s : State) (h : Only ps s0 s) (h_mgt : Part.mgt ∈ ps) :
    ∀ out, execGetEndpointId s = .next out → Only ps s0 out := by
  unfold execGetEndpointId
  intro out e
  cases e
  simp (maxDischargeDepth := 200) only [only_ctrlSend, h, h_mgt]

theorem only_execGetIdentity {ps : List Part} {s0 : State} (reqId : Byte) (body : Bytes) (s : State) (h : Only ps s0 s) (h_mgt : Part.mgt ∈ ps) :
    ∀ out, execGetIdentity reqId body s = .next out → Only ps s0 out := by
  unfold execGetIdentity
  intro out e
  cases e
  simp (maxDischargeDepth := 200) +contextual only [only_query, h, h_mgt, id_eq, implies_true]

theorem only_execGetLog {ps : List Part} {s0 : State} (reqId : Byte) (body : Bytes) (s : State) (h : Only ps s0 s) (h_log : Part.log ∈ ps) (h_mgt : Part.mgt ∈ ps) :
    ∀ out, execGetLog reqId body s = .next out → Only ps s0 out := by
  unfold execGetLog
  intro out e
  cases e
  simp (maxDischargeDepth := 200) +contextual only [only_nandTurn, only_query, h, h_log, h_mgt, implies_true]

theorem only_execGetMctpVersionSupport {ps : List Part} {s0 : State} (s : State) (h : Only ps s0 s) (h_mgt : Part.mgt ∈ ps) :
    ∀ out, execGetMctpVersionSupport s = .next out → Only ps s0 out := by
  unfold execGetMctpVersionSupport
  intro out e
  cases e
  simp (maxDischargeDepth := 200) only [only_ctrlSend, h, h_mgt]

theorem only_execGetMessageTypeSupport {ps : List Part} {s0 : State} (s : State) (h : Only ps s0 s) (h_mgt : Part.mgt ∈ ps) :
    ∀ out, execGetMessageTypeSupport s = .next out → Only ps s0 out := by
  unfold execGetMessageTypeSupport
  intro out e
  cases e
  simp (maxDischargeDepth := 200) only [only_ctrlSend, h, h_mgt]

theorem only_execGetReplay {ps : List Part} {s0 : State} (reqId : Byte) (s : State) (h : Only ps s0 s) (h_mgt : Part.mgt ∈ ps) :
    ∀ out, execGetReplay reqId s = .next out → Only ps s0 out := by
  unfold execGetReplay
  intro out e
  cases e
  simp (maxDischargeDepth := 200) +contextual only [only_query, h, h_mgt, id_eq, implies_true]

theorem only_execGetSlots {ps : List Part} {s0 : State} (reqId : Byte) (s : State) (h : Only ps s0 s) (h_mgt : Part.mgt ∈ ps) :
    ∀ out, execGetSlots reqId s = .next out → Only ps s0 out := by
  unfold execGetSlots
  intro out e
  cases e
  simp (maxDischargeDepth := 200) +contextual only [only_query, h, h_mgt, id_eq, implies_true]

theorem only_execGetStatus {ps : List Part} {s0 : State} (reqId : Byte) (s : State) (h : Only ps s0 s) (h_mgt : Part.mgt ∈ ps) :
    ∀ out, execGetStatus reqId s = .next out → Only ps s0 out := by
  unfold execGetStatus
  intro out e
  cases e
  simp (maxDischargeDepth := 200) +contextual only [only_modMgt, only_query, h, h_mgt, implies_true]

theorem only_execGetVendorDefinedMessageSupport {ps : List Part} {s0 : State} (s : State) (h : Only ps s0 s) (h_mgt : Part.mgt ∈ ps) :
    ∀ out, execGetVendorDefinedMessageSupport s = .next out → Only ps s0 out := by
  unfold execGetVendorDefinedMessageSupport
  intro out e
  cases e
  simp (maxDischargeDepth := 200) only [only_ctrlSend, h, h_mgt]

theorem only_execMctpPacket {ps : List Part} {s0 : State} (packet : Bytes) (pecOk : Bool) (s : State) (h : Only ps s0 s) (h_regs : Part.regs ∈ ps) (h_mgt : Part.mgt ∈ ps) :
    ∀ out, execMctpPacket packet pecOk s = .next out → Only ps s0 out := by
  unfold execMctpPacket
  intro out e
  repeat' split at e
  all_goals cases e
  all_goals simp (maxDischargeDepth := 200) only [only_count, only_mctpIn, h, h_regs, h_mgt]

theorem only_execPutBlock {ps : List Part} {s0 : State} (reqId : Byte) (body : Bytes) (s : State) (h : Only ps s0 s) (h_dram : Part.dram ∈ ps) (h_mgt : Part.mgt ∈ ps) :
    ∀ out, execPutBlock reqId body s = .next out → Only ps s0 out := by
  unfold execPutBlock
  intro out e
  cases e
  simp (maxDischargeDepth := 200) +contextual only [only_putBlock, only_query, h, h_dram, h_mgt, implies_true]

theorem only_execSetEndpointId {ps : List Part} {s0 : State} (eid : Byte) (s : State) (h : Only ps s0 s) (h_mgt : Part.mgt ∈ ps) :
    ∀ out, execSetEndpointId eid s = .next out → Only ps s0 out := by
  unfold execSetEndpointId
  intro out e
  split at e <;> cases e <;> simp (maxDischargeDepth := 200) only [only_ctrlSend, only_modMgt, h, h_mgt]

theorem only_execStgRecover {ps : List Part} {s0 : State} (c : Src) (p : Bytes) (s : State) (h : Only ps s0 s) (h_regs : Part.regs ∈ ps) (h_cmd : Part.cmd ∈ ps) (h_stg : Part.stg ∈ ps) (h_host : Part.host ∈ ps) (h_twn : Part.twn ∈ ps) (h_mgt : Part.mgt ∈ ps) :
    ∀ out, execStgRecover c p s = .next out → Only ps s0 out := by
  unfold execStgRecover
  intro out e
  cases e
  simp (maxDischargeDepth := 200) +contextual only [only_acting, only_stgRecover, h, h_regs, h_cmd, h_stg, h_host, h_twn, h_mgt, implies_true]

end Sys2Proof.Machine
end

