-- ==== Sys2Proof/Laws/OnlyTwin.lean ====
section
/-! SUPPORT. Frames of the operations and meanings of Machine/Twin.lean: one lemma each, which names the parts of the state that may
change. -/

set_option maxRecDepth 4000

namespace Sys2Proof.Machine

theorem only_snapTake {ps : List Part} {s0 : State} (s : State) (e : Nat) (h : Only ps s0 s) (h_twn : Part.twn ∈ ps) :
    Only ps s0 (State.snapTake s e) := by
  unfold State.snapTake
  simp (maxDischargeDepth := 200) +contextual only [only_modTwn, only_ite, h, h_twn]

theorem only_resyncDrain {ps : List Part} {s0 : State} (n room : Nat) (s : State) (h : Only ps s0 s) (h_twn : Part.twn ∈ ps) :
    Only ps s0 (State.resyncDrain n room s) := by
  induction n generalizing room s with
  | zero => exact h
  | succ n ih =>
    unfold State.resyncDrain
    split
    · exact only_ite (only_modTwn _ h h_twn) h
    · exact only_ite (ih _ _ (only_modTwn _ h h_twn)) (only_modTwn _ h h_twn)

theorem only_resyncLine {ps : List Part} {s0 : State} (s : State) (h : Only ps s0 s) (h_twn : Part.twn ∈ ps) :
    Only ps s0 (State.resyncLine s) := only_ite (only_resyncDrain _ _ s h h_twn) h

theorem only_resyncServe {ps : List Part} {s0 : State} (s : State) (t : TwinFrame) (h : Only ps s0 s) (h_twn : Part.twn ∈ ps) :
    Only ps s0 (State.resyncServe s t) := by
  unfold State.resyncServe
  simp (maxDischargeDepth := 200) +contextual only [only_modTwn, only_ite, h, h_twn]

theorem only_twinRecord {ps : List Part} {s0 : State} (s : State) (p : Bytes) (h : Only ps s0 s) (h_regs : Part.regs ∈ ps) (h_nt : Part.nt ∈ ps) (h_log : Part.log ∈ ps) (h_twn : Part.twn ∈ ps) :
    Only ps s0 (State.twinRecord s p) := by
  unfold State.twinRecord
  simp (maxDischargeDepth := 200) +contextual only [only_sporeRecord, only_ite, h, h_regs, h_nt, h_log, h_twn]

theorem only_dropSwaps {ps : List Part} {s0 : State} (s : State) (h : Only ps s0 s) (h_regs : Part.regs ∈ ps) (h_nt : Part.nt ∈ ps) (h_log : Part.log ∈ ps) (h_twn : Part.twn ∈ ps) :
    Only ps s0 (State.dropSwaps s) := by
  unfold State.dropSwaps
  simp (maxDischargeDepth := 200) +contextual only [only_foldl, only_modTwn, only_sporeDone, only_foldl, h, h_regs, h_nt, h_log, h_twn, implies_true]

theorem only_twinClear {ps : List Part} {s0 : State} (s : State) (c : Src) (mask : Nat) (ok : Nat) (h : Only ps s0 s) (h_free : Part.free ∈ ps) (h_regs : Part.regs ∈ ps) (h_pwm : Part.pwm ∈ ps) (h_gdl : Part.gdl ∈ ps) (h_trp : Part.trp ∈ ps) (h_nt : Part.nt ∈ ps) (h_cmd : Part.cmd ∈ ps) (h_log : Part.log ∈ ps) (h_acq : Part.acq ∈ ps) (h_host : Part.host ∈ ps) (h_twn : Part.twn ∈ ps) (h_mgt : Part.mgt ∈ ps) :
    Only ps s0 (State.twinClear s c mask ok) := by
  unfold State.twinClear
  simp (maxDischargeDepth := 200) +contextual only [only_applyClear, only_count, only_finishClear, only_forNums, h, h_free, h_regs, h_pwm, h_gdl, h_trp, h_nt, h_cmd, h_log, h_acq, h_host, h_twn, h_mgt, implies_true]

theorem only_followState {ps : List Part} {s0 : State} (s : State) (code : Nat) (h : Only ps s0 s) (h_regs : Part.regs ∈ ps) (h_eng : Part.eng ∈ ps) (h_waits : Part.waits ∈ ps) (h_pwm : Part.pwm ∈ ps) (h_gdl : Part.gdl ∈ ps) (h_trp : Part.trp ∈ ps) (h_nt : Part.nt ∈ ps) (h_cmd : Part.cmd ∈ ps) (h_ops : Part.ops ∈ ps) (h_log : Part.log ∈ ps) (h_host : Part.host ∈ ps) (h_twn : Part.twn ∈ ps) (h_mgt : Part.mgt ∈ ps) :
    Only ps s0 (State.followState s code) := by
  unfold State.followState
  repeat' split
  all_goals simp (maxDischargeDepth := 200) +contextual only [only_enginesStart, only_enter, only_enterRunning, only_toIdle, only_toStopping, h, h_regs, h_eng, h_waits, h_pwm, h_gdl, h_trp, h_nt, h_cmd, h_ops, h_log, h_host, h_twn, h_mgt]

theorem only_takeBuf {ps : List Part} {s0 : State} (s : State) (h : Only ps s0 s) (h_twn : Part.twn ∈ ps) :
    Only ps s0 (State.takeBuf s).2 := by
  unfold State.takeBuf
  simp (maxDischargeDepth := 200) only [only_modTwn, h, h_twn]

theorem only_twinStage {ps : List Part} {s0 : State} (s : State) (off : Nat) (v : Nat) (h : Only ps s0 s) (h_stg : Part.stg ∈ ps) :
    Only ps s0 (State.twinStage s off v) := by
  unfold State.twinStage
  split <;> simp (maxDischargeDepth := 200) only [only_stageWrote, h, h_stg]

theorem only_resyncStart {ps : List Part} {s0 : State} (s : State) (h : Only ps s0 s) (h_regs : Part.regs ∈ ps) (h_twn : Part.twn ∈ ps) :
    Only ps s0 (State.resyncStart s) := by
  unfold State.resyncStart
  simp (maxDischargeDepth := 200) +contextual only [only_count, only_modTwn, h, h_regs, h_twn]

theorem only_twnResync {ps : List Part} {s0 : State} (s : State) (c : Src) (h : Only ps s0 s) (h_regs : Part.regs ∈ ps) (h_cmd : Part.cmd ∈ ps) (h_host : Part.host ∈ ps) (h_twn : Part.twn ∈ ps) (h_mgt : Part.mgt ∈ ps) :
    Only ps s0 (State.twnResync s c) := by
  unfold State.twnResync
  simp (maxDischargeDepth := 200) +contextual only [only_mirror, only_modTwn, only_refuse, only_resyncStart, only_ite, h, h_regs, h_cmd, h_host, h_twn, h_mgt]

theorem only_applyItem {ps : List Part} {s0 : State} (s : State) (i : Item) (h : Only ps s0 s) (h_now : Part.now ∈ ps) (h_free : Part.free ∈ ps) (h_live : Part.live ∈ ps) (h_regs : Part.regs ∈ ps) (h_eng : Part.eng ∈ ps) (h_waits : Part.waits ∈ ps) (h_meas : Part.meas ∈ ps) (h_pwm : Part.pwm ∈ ps) (h_gdl : Part.gdl ∈ ps) (h_trp : Part.trp ∈ ps) (h_saf : Part.saf ∈ ps) (h_clk : Part.clk ∈ ps) (h_nt : Part.nt ∈ ps) (h_eth : Part.eth ∈ ps) (h_cmd : Part.cmd ∈ ps) (h_ops : Part.ops ∈ ps) (h_log : Part.log ∈ ps) (h_sec : Part.sec ∈ ps) (h_stg : Part.stg ∈ ps) (h_acq : Part.acq ∈ ps) (h_dma : Part.dma ∈ ps) (h_dram : Part.dram ∈ ps) (h_host : Part.host ∈ ps) (h_twn : Part.twn ∈ ps) (h_mgt : Part.mgt ∈ ps) :
    Only ps s0 (State.applyItem s i) := by
  unfold State.applyItem
  dsimp only
  repeat' split
  all_goals simp (maxDischargeDepth := 200) +contextual only [only_acqArm, only_acqStop, only_acqTrigger, only_anchorInstall, only_anchorRevoke, only_done, only_followState, only_frdBankSwap, only_frdSatReadClear, only_fwActivate, only_fwLoad, only_gfmCommand, only_grantGo, only_grantTaken, only_graphLoad, only_keyRetire, only_linkTrain, only_modTwn, only_ntSet, only_opsArm, only_opsDisarm, only_opsHalt, only_opsStart, only_opsStop, only_ostRun, only_prfSetTarget, only_reacquire, only_sporeCancel, only_sporeLoad, only_sporeWork, only_stgCheck, only_stgCommit, only_stgSave, only_stgToken, only_stgWrite, only_takeBuf, only_trpTrip, only_twinClear, only_twinRecord, only_twinStage, only_twnResync, h, h_now, h_free, h_live, h_regs, h_eng, h_waits, h_meas, h_pwm, h_gdl, h_trp, h_saf, h_clk, h_nt, h_eth, h_cmd, h_ops, h_log, h_sec, h_stg, h_acq, h_dma, h_dram, h_host, h_twn, h_mgt]

theorem only_endJoint {ps : List Part} {s0 : State} (s : State) (r : ClearReq) (ok : Nat) (h : Only ps s0 s) (h_free : Part.free ∈ ps) (h_regs : Part.regs ∈ ps) (h_pwm : Part.pwm ∈ ps) (h_gdl : Part.gdl ∈ ps) (h_trp : Part.trp ∈ ps) (h_nt : Part.nt ∈ ps) (h_cmd : Part.cmd ∈ ps) (h_log : Part.log ∈ ps) (h_acq : Part.acq ∈ ps) (h_host : Part.host ∈ ps) (h_twn : Part.twn ∈ ps) (h_mgt : Part.mgt ∈ ps) :
    Only ps s0 (State.endJoint s r ok) := by
  unfold State.endJoint
  simp (maxDischargeDepth := 200) +contextual only [only_applyClear, only_endClear, only_finishClear, h, h_free, h_regs, h_pwm, h_gdl, h_trp, h_nt, h_cmd, h_log, h_acq, h_host, h_twn, h_mgt]

theorem only_endJoints {ps : List Part} {s0 : State} (s : State) (h : Only ps s0 s) (h_free : Part.free ∈ ps) (h_regs : Part.regs ∈ ps) (h_pwm : Part.pwm ∈ ps) (h_gdl : Part.gdl ∈ ps) (h_trp : Part.trp ∈ ps) (h_nt : Part.nt ∈ ps) (h_cmd : Part.cmd ∈ ps) (h_log : Part.log ∈ ps) (h_acq : Part.acq ∈ ps) (h_host : Part.host ∈ ps) (h_twn : Part.twn ∈ ps) (h_mgt : Part.mgt ∈ ps) :
    Only ps s0 (State.endJoints s) := by
  unfold State.endJoints
  simp (maxDischargeDepth := 200) +contextual only [only_endJoint, only_foldl, only_foldl, h, h_free, h_regs, h_pwm, h_gdl, h_trp, h_nt, h_cmd, h_log, h_acq, h_host, h_twn, h_mgt, implies_true]

theorem only_twinMissing {ps : List Part} {s0 : State} (s : State) (h : Only ps s0 s) (h_free : Part.free ∈ ps) (h_regs : Part.regs ∈ ps) (h_pwm : Part.pwm ∈ ps) (h_gdl : Part.gdl ∈ ps) (h_trp : Part.trp ∈ ps) (h_nt : Part.nt ∈ ps) (h_cmd : Part.cmd ∈ ps) (h_log : Part.log ∈ ps) (h_acq : Part.acq ∈ ps) (h_host : Part.host ∈ ps) (h_twn : Part.twn ∈ ps) (h_mgt : Part.mgt ∈ ps) :
    Only ps s0 (State.twinMissing s) := by
  unfold State.twinMissing
  simp (maxDischargeDepth := 200) +contextual only [only_endJoints, only_modTwn, only_notReady, only_ite, h, h_free, h_regs, h_pwm, h_gdl, h_trp, h_nt, h_cmd, h_log, h_acq, h_host, h_twn, h_mgt]

theorem only_frameDigests {ps : List Part} {s0 : State} (s : State) (t : TwinFrame) (h : Only ps s0 s) (h_regs : Part.regs ∈ ps) (h_twn : Part.twn ∈ ps) :
    Only ps s0 (State.frameDigests s t) := by
  unfold State.frameDigests
  simp (maxDischargeDepth := 200) +contextual only [only_disagree, only_modTwn, only_resyncStart, only_ite, h, h_regs, h_twn]

theorem only_setRole {ps : List Part} {s0 : State} (s : State) (h : Only ps s0 s) (h_free : Part.free ∈ ps) (h_regs : Part.regs ∈ ps) (h_eng : Part.eng ∈ ps) (h_waits : Part.waits ∈ ps) (h_pwm : Part.pwm ∈ ps) (h_gdl : Part.gdl ∈ ps) (h_trp : Part.trp ∈ ps) (h_nt : Part.nt ∈ ps) (h_cmd : Part.cmd ∈ ps) (h_ops : Part.ops ∈ ps) (h_log : Part.log ∈ ps) (h_acq : Part.acq ∈ ps) (h_host : Part.host ∈ ps) (h_twn : Part.twn ∈ ps) (h_mgt : Part.mgt ∈ ps) :
    Only ps s0 (State.setRole s) := by
  unfold State.setRole
  simp (maxDischargeDepth := 200) +contextual only [only_count, only_dropSwaps, only_endJoints, only_modTwn, only_notify, only_toStopping, only_ite, h, h_free, h_regs, h_eng, h_waits, h_pwm, h_gdl, h_trp, h_nt, h_cmd, h_ops, h_log, h_acq, h_host, h_twn, h_mgt]

theorem only_frameRole {ps : List Part} {s0 : State} (s : State) (t : TwinFrame) (h : Only ps s0 s) (h_free : Part.free ∈ ps) (h_regs : Part.regs ∈ ps) (h_eng : Part.eng ∈ ps) (h_waits : Part.waits ∈ ps) (h_pwm : Part.pwm ∈ ps) (h_gdl : Part.gdl ∈ ps) (h_trp : Part.trp ∈ ps) (h_nt : Part.nt ∈ ps) (h_cmd : Part.cmd ∈ ps) (h_ops : Part.ops ∈ ps) (h_log : Part.log ∈ ps) (h_acq : Part.acq ∈ ps) (h_host : Part.host ∈ ps) (h_twn : Part.twn ∈ ps) (h_mgt : Part.mgt ∈ ps) :
    Only ps s0 (State.frameRole s t) := by
  unfold State.frameRole
  simp (maxDischargeDepth := 200) +contextual only [only_modTwn, only_setRole, only_ite, h, h_free, h_regs, h_eng, h_waits, h_pwm, h_gdl, h_trp, h_nt, h_cmd, h_ops, h_log, h_acq, h_host, h_twn, h_mgt]

theorem only_frameSkew {ps : List Part} {s0 : State} (s : State) (t : TwinFrame) (h : Only ps s0 s) (h_regs : Part.regs ∈ ps) (h_twn : Part.twn ∈ ps) :
    Only ps s0 (State.frameSkew s t) := by
  unfold State.frameSkew
  simp (maxDischargeDepth := 200) only [only_notReady, only_setRegN, only_ite, h, h_regs, h_twn]

theorem only_itemIn {ps : List Part} {s0 : State} (s : State) (i : Item) (h : Only ps s0 s) (h_now : Part.now ∈ ps) (h_free : Part.free ∈ ps) (h_live : Part.live ∈ ps) (h_regs : Part.regs ∈ ps) (h_eng : Part.eng ∈ ps) (h_waits : Part.waits ∈ ps) (h_meas : Part.meas ∈ ps) (h_pwm : Part.pwm ∈ ps) (h_gdl : Part.gdl ∈ ps) (h_trp : Part.trp ∈ ps) (h_saf : Part.saf ∈ ps) (h_clk : Part.clk ∈ ps) (h_nt : Part.nt ∈ ps) (h_eth : Part.eth ∈ ps) (h_cmd : Part.cmd ∈ ps) (h_ops : Part.ops ∈ ps) (h_log : Part.log ∈ ps) (h_sec : Part.sec ∈ ps) (h_stg : Part.stg ∈ ps) (h_acq : Part.acq ∈ ps) (h_dma : Part.dma ∈ ps) (h_dram : Part.dram ∈ ps) (h_host : Part.host ∈ ps) (h_twn : Part.twn ∈ ps) (h_mgt : Part.mgt ∈ ps) :
    Only ps s0 (State.itemIn s i) := by
  unfold State.itemIn
  simp (maxDischargeDepth := 200) +contextual only [only_applyItem, only_modMgt, only_modTwn, only_setLastSeq, only_ite, h, h_now, h_free, h_live, h_regs, h_eng, h_waits, h_meas, h_pwm, h_gdl, h_trp, h_saf, h_clk, h_nt, h_eth, h_cmd, h_ops, h_log, h_sec, h_stg, h_acq, h_dma, h_dram, h_host, h_twn, h_mgt]

theorem only_resolveJoints {ps : List Part} {s0 : State} (s : State) (zones : BitVec 16) (h : Only ps s0 s) (h_free : Part.free ∈ ps) (h_regs : Part.regs ∈ ps) (h_pwm : Part.pwm ∈ ps) (h_gdl : Part.gdl ∈ ps) (h_trp : Part.trp ∈ ps) (h_nt : Part.nt ∈ ps) (h_cmd : Part.cmd ∈ ps) (h_log : Part.log ∈ ps) (h_acq : Part.acq ∈ ps) (h_host : Part.host ∈ ps) (h_twn : Part.twn ∈ ps) (h_mgt : Part.mgt ∈ ps) :
    Only ps s0 (State.resolveJoints s zones) := by
  unfold State.resolveJoints
  simp (maxDischargeDepth := 200) +contextual only [only_endJoint, only_foldl, only_foldl, h, h_free, h_regs, h_pwm, h_gdl, h_trp, h_nt, h_cmd, h_log, h_acq, h_host, h_twn, h_mgt, implies_true]

theorem only_resyncEnd {ps : List Part} {s0 : State} (s : State) (which : Src × Nat → Bool) (err : Option Nat) (h : Only ps s0 s) (h_regs : Part.regs ∈ ps) (h_cmd : Part.cmd ∈ ps) (h_host : Part.host ∈ ps) (h_twn : Part.twn ∈ ps) (h_mgt : Part.mgt ∈ ps) :
    Only ps s0 (State.resyncEnd s which err) := by
  unfold State.resyncEnd
  split <;> simp (maxDischargeDepth := 200) +contextual only [only_done, only_modTwn, only_refuse, h, h_regs, h_cmd, h_host, h_twn, h_mgt, only_foldl, implies_true]

theorem only_twinFrame {ps : List Part} {s0 : State} (s : State) (t : TwinFrame) (h : Only ps s0 s) (h_free : Part.free ∈ ps) (h_regs : Part.regs ∈ ps) (h_eng : Part.eng ∈ ps) (h_waits : Part.waits ∈ ps) (h_pwm : Part.pwm ∈ ps) (h_gdl : Part.gdl ∈ ps) (h_trp : Part.trp ∈ ps) (h_nt : Part.nt ∈ ps) (h_cmd : Part.cmd ∈ ps) (h_ops : Part.ops ∈ ps) (h_log : Part.log ∈ ps) (h_acq : Part.acq ∈ ps) (h_host : Part.host ∈ ps) (h_twn : Part.twn ∈ ps) (h_mgt : Part.mgt ∈ ps) :
    Only ps s0 (State.twinFrame s t) := by
  unfold State.twinFrame
  simp (maxDischargeDepth := 200) +contextual only [only_endJoints, only_frameDigests, only_frameRole, only_frameSkew, only_modTwn, only_resolveJoints, only_resyncEnd, only_resyncServe, only_ite, h, h_free, h_regs, h_eng, h_waits, h_pwm, h_gdl, h_trp, h_nt, h_cmd, h_ops, h_log, h_acq, h_host, h_twn, h_mgt]

theorem only_execArbLost {ps : List Part} {s0 : State} (s : State) (h : Only ps s0 s) (h_now : Part.now ∈ ps) (h_nt : Part.nt ∈ ps) (h_twn : Part.twn ∈ ps) :
    ∀ out, execArbLost s = .next out → Only ps s0 out := by
  unfold execArbLost
  intro out e
  split at e <;> cases e <;> simp (maxDischargeDepth := 200) only [only_advanceTo, only_modTwn, h, h_now, h_nt, h_twn]

theorem only_execHaltHoldExpiry {ps : List Part} {s0 : State} (s : State) (h : Only ps s0 s) (h_now : Part.now ∈ ps) (h_regs : Part.regs ∈ ps) (h_pwm : Part.pwm ∈ ps) (h_gdl : Part.gdl ∈ ps) (h_trp : Part.trp ∈ ps) (h_saf : Part.saf ∈ ps) (h_nt : Part.nt ∈ ps) (h_twn : Part.twn ∈ ps) :
    ∀ out, execHaltHoldExpiry s = .next out → Only ps s0 out := by
  unfold execHaltHoldExpiry
  intro out e
  split at e <;> cases e <;> simp (maxDischargeDepth := 200) +contextual only [only_advanceTo, only_modTwn, only_safJudge, only_stopChannels, h, h_now, h_regs, h_pwm, h_gdl, h_trp, h_saf, h_nt, h_twn]

theorem only_execHbPulse {ps : List Part} {s0 : State} (s : State) (h : Only ps s0 s) (h_now : Part.now ∈ ps) (h_nt : Part.nt ∈ ps) (h_twn : Part.twn ∈ ps) :
    ∀ out, execHbPulse s = .next out → Only ps s0 out := by
  unfold execHbPulse
  intro out e
  cases e
  simp (maxDischargeDepth := 200) +contextual only [only_advanceTo, only_modTwn, h, h_now, h_nt, h_twn]

theorem only_execItemFrameReceive {ps : List Part} {s0 : State} (frame : Bytes) (s : State) (h : Only ps s0 s) (h_now : Part.now ∈ ps) (h_free : Part.free ∈ ps) (h_live : Part.live ∈ ps) (h_regs : Part.regs ∈ ps) (h_eng : Part.eng ∈ ps) (h_waits : Part.waits ∈ ps) (h_meas : Part.meas ∈ ps) (h_pwm : Part.pwm ∈ ps) (h_gdl : Part.gdl ∈ ps) (h_trp : Part.trp ∈ ps) (h_saf : Part.saf ∈ ps) (h_clk : Part.clk ∈ ps) (h_nt : Part.nt ∈ ps) (h_eth : Part.eth ∈ ps) (h_cmd : Part.cmd ∈ ps) (h_ops : Part.ops ∈ ps) (h_log : Part.log ∈ ps) (h_sec : Part.sec ∈ ps) (h_stg : Part.stg ∈ ps) (h_acq : Part.acq ∈ ps) (h_dma : Part.dma ∈ ps) (h_dram : Part.dram ∈ ps) (h_host : Part.host ∈ ps) (h_twn : Part.twn ∈ ps) (h_mgt : Part.mgt ∈ ps) :
    ∀ out, execItemFrameReceive frame s = .next out → Only ps s0 out := by
  unfold execItemFrameReceive
  intro out e
  dsimp only at e
  repeat' split at e
  all_goals (cases e; simp (maxDischargeDepth := 200) +contextual only [only_count, only_itemIn, h, h_now, h_free, h_live, h_regs, h_eng, h_waits, h_meas, h_pwm, h_gdl, h_trp, h_saf, h_clk, h_nt, h_eth, h_cmd, h_ops, h_log, h_sec, h_stg, h_acq, h_dma, h_dram, h_host, h_twn, h_mgt])

theorem only_execOwnNChange {ps : List Part} {s0 : State} (level : Bool) (s : State) (h : Only ps s0 s) (h_regs : Part.regs ∈ ps) (h_pwm : Part.pwm ∈ ps) (h_gdl : Part.gdl ∈ ps) (h_trp : Part.trp ∈ ps) (h_saf : Part.saf ∈ ps) (h_twn : Part.twn ∈ ps) :
    ∀ out, execOwnNChange level s = .next out → Only ps s0 out := by
  unfold execOwnNChange
  intro out e
  dsimp only at e
  repeat' split at e
  all_goals (cases e; simp (maxDischargeDepth := 200) +contextual only [only_modTwn, only_safJudge, only_stopChannels, h, h_regs, h_pwm, h_gdl, h_trp, h_saf, h_twn])

theorem only_execPeriodFrameReceive {ps : List Part} {s0 : State} (frame : Bytes) (s : State) (h : Only ps s0 s) (h_free : Part.free ∈ ps) (h_regs : Part.regs ∈ ps) (h_eng : Part.eng ∈ ps) (h_waits : Part.waits ∈ ps) (h_pwm : Part.pwm ∈ ps) (h_gdl : Part.gdl ∈ ps) (h_trp : Part.trp ∈ ps) (h_nt : Part.nt ∈ ps) (h_cmd : Part.cmd ∈ ps) (h_ops : Part.ops ∈ ps) (h_log : Part.log ∈ ps) (h_acq : Part.acq ∈ ps) (h_host : Part.host ∈ ps) (h_twn : Part.twn ∈ ps) (h_mgt : Part.mgt ∈ ps) :
    ∀ out, execPeriodFrameReceive frame s = .next out → Only ps s0 out := by
  unfold execPeriodFrameReceive
  intro out e
  repeat' split at e
  all_goals (cases e; simp (maxDischargeDepth := 200) +contextual only [only_count, only_twinFrame, h, h_free, h_regs, h_eng, h_waits, h_pwm, h_gdl, h_trp, h_nt, h_cmd, h_ops, h_log, h_acq, h_host, h_twn, h_mgt])

theorem only_execPeriodFrameSend {ps : List Part} {s0 : State} (s : State) (h : Only ps s0 s) (h_now : Part.now ∈ ps) (h_regs : Part.regs ∈ ps) (h_nt : Part.nt ∈ ps) (h_twn : Part.twn ∈ ps) :
    ∀ out, execPeriodFrameSend s = .next out → Only ps s0 out := by
  unfold execPeriodFrameSend
  intro out e
  split at e <;> cases e <;> simp (maxDischargeDepth := 200) +contextual only [only_advanceTo, only_modTwn, only_resyncStart, only_ite, h, h_now, h_regs, h_nt, h_twn]

theorem only_execRhizomeBlockLockLoss {ps : List Part} {s0 : State} (s : State) (h : Only ps s0 s) (h_regs : Part.regs ∈ ps) (h_cmd : Part.cmd ∈ ps) (h_host : Part.host ∈ ps) (h_twn : Part.twn ∈ ps) (h_mgt : Part.mgt ∈ ps) :
    ∀ out, execRhizomeBlockLockLoss s = .next out → Only ps s0 out := by
  unfold execRhizomeBlockLockLoss
  intro out e
  split at e <;> cases e <;> simp (maxDischargeDepth := 200) +contextual only [only_modTwn, only_resyncEnd, h, h_regs, h_cmd, h_host, h_twn, h_mgt]

theorem only_execRhizomeTraining {ps : List Part} {s0 : State} (latencyNs : Nat) (s : State) (h : Only ps s0 s) (h_regs : Part.regs ∈ ps) (h_twn : Part.twn ∈ ps) :
    ∀ out, execRhizomeTraining latencyNs s = .next out → Only ps s0 out := by
  unfold execRhizomeTraining
  intro out e
  split at e <;> cases e <;> simp (maxDischargeDepth := 200) +contextual only [only_modTwn, only_setRegN, h, h_regs, h_twn]

theorem only_execRoleInPulse {ps : List Part} {s0 : State} (widthNs : Nat) (s : State) (h : Only ps s0 s) (h_free : Part.free ∈ ps) (h_regs : Part.regs ∈ ps) (h_eng : Part.eng ∈ ps) (h_waits : Part.waits ∈ ps) (h_pwm : Part.pwm ∈ ps) (h_gdl : Part.gdl ∈ ps) (h_trp : Part.trp ∈ ps) (h_nt : Part.nt ∈ ps) (h_cmd : Part.cmd ∈ ps) (h_ops : Part.ops ∈ ps) (h_log : Part.log ∈ ps) (h_acq : Part.acq ∈ ps) (h_host : Part.host ∈ ps) (h_twn : Part.twn ∈ ps) (h_mgt : Part.mgt ∈ ps) :
    ∀ out, execRoleInPulse widthNs s = .next out → Only ps s0 out := by
  unfold execRoleInPulse
  intro out e
  dsimp only at e
  repeat' split at e
  all_goals (cases e; simp (maxDischargeDepth := 200) +contextual only [only_modTwn, only_setRole, h, h_free, h_regs, h_eng, h_waits, h_pwm, h_gdl, h_trp, h_nt, h_cmd, h_ops, h_log, h_acq, h_host, h_twn, h_mgt])

theorem only_execRoleSwapCheck {ps : List Part} {s0 : State} (s : State) (h : Only ps s0 s) (h_now : Part.now ∈ ps) (h_regs : Part.regs ∈ ps) (h_nt : Part.nt ∈ ps) (h_log : Part.log ∈ ps) (h_twn : Part.twn ∈ ps) :
    ∀ out, execRoleSwapCheck s = .next out → Only ps s0 out := by
  unfold execRoleSwapCheck
  intro out e
  dsimp only at e
  repeat' split at e
  all_goals (cases e; simp (maxDischargeDepth := 200) +contextual only [only_advanceTo, only_dropSwaps, only_modTwn, only_sporeDone, h, h_now, h_regs, h_nt, h_log, h_twn])

theorem only_execRoleSwapRequest {ps : List Part} {s0 : State} (s : State) (h : Only ps s0 s) (h_twn : Part.twn ∈ ps) :
    ∀ out, execRoleSwapRequest s = .next out → Only ps s0 out := by
  unfold execRoleSwapRequest
  intro out e
  dsimp only at e
  repeat' split at e
  all_goals (cases e; simp (maxDischargeDepth := 200) +contextual only [only_modTwn, h, h_twn])

theorem only_execTwinFrameDeadline {ps : List Part} {s0 : State} (s : State) (h : Only ps s0 s) (h_now : Part.now ∈ ps) (h_nt : Part.nt ∈ ps) (h_twn : Part.twn ∈ ps) :
    ∀ out, execTwinFrameDeadline s = .next out → Only ps s0 out := by
  unfold execTwinFrameDeadline
  intro out e
  split at e
  · rw [← Host.Outcome.next.inj e]
    simp (maxDischargeDepth := 200) only [only_notReady, only_modTwn, only_advanceTo, h, h_now, h_nt, h_twn]
  · rw [← Host.Outcome.next.inj e]; exact h

theorem only_execTwnResync {ps : List Part} {s0 : State} (c : Src) (s : State) (h : Only ps s0 s) (h_regs : Part.regs ∈ ps) (h_cmd : Part.cmd ∈ ps) (h_host : Part.host ∈ ps) (h_twn : Part.twn ∈ ps) (h_mgt : Part.mgt ∈ ps) :
    ∀ out, execTwnResync c s = .next out → Only ps s0 out := by
  unfold execTwnResync
  intro out e
  cases e
  simp (maxDischargeDepth := 200) +contextual only [only_obey, only_twnResync, h, h_regs, h_cmd, h_host, h_twn, h_mgt, implies_true]

theorem only_execTwnResyncTimeout {ps : List Part} {s0 : State} (s : State) (h : Only ps s0 s) (h_now : Part.now ∈ ps) (h_regs : Part.regs ∈ ps) (h_nt : Part.nt ∈ ps) (h_cmd : Part.cmd ∈ ps) (h_host : Part.host ∈ ps) (h_twn : Part.twn ∈ ps) (h_mgt : Part.mgt ∈ ps) :
    ∀ out, execTwnResyncTimeout s = .next out → Only ps s0 out := by
  unfold execTwnResyncTimeout
  intro out e
  split at e <;> cases e <;> simp (maxDischargeDepth := 200) only [only_advanceTo, only_resyncEnd, h, h_now, h_regs, h_nt, h_cmd, h_host, h_twn, h_mgt]

end Sys2Proof.Machine
end

