-- ==== Sys2Proof/Laws/OnlyResync.lean ====
section
/-! SUPPORT. Frames of the operations and meanings of Machine/Resync.lean: one lemma each, which names the parts of the state that may
change. -/

set_option maxRecDepth 4000

namespace Sys2Proof.Machine

theorem only_modArb {ps : List Part} {s0 : State} (s : State) (f : ArbState → ArbState) (h : Only ps s0 s) (h_arb : Part.arb ∈ ps) :
    Only ps s0 (State.modArb s f) := by
  unfold State.modArb
  simp (maxDischargeDepth := 200) only [only_mk, or_true, true_or, h, h_arb]

theorem only_modArbPort {ps : List Part} {s0 : State} (s : State) (p : Nat) (f : ArbPort → ArbPort) (h : Only ps s0 s) (h_arb : Part.arb ∈ ps) :
    Only ps s0 (State.modArbPort s p f) := by
  unfold State.modArbPort
  simp (maxDischargeDepth := 200) only [only_modArb, h, h_arb]

theorem only_arbGap {ps : List Part} {s0 : State} (s : State) (from_ : Nat) (next : Nat) (h : Only ps s0 s) (h_arb : Part.arb ∈ ps) :
    Only ps s0 (State.arbGap s from_ next) := by
  unfold State.arbGap
  simp (maxDischargeDepth := 200) only [only_modArb, only_modArbPort, h, h_arb]

theorem only_arbGrant {ps : List Part} {s0 : State} (s : State) (h : Only ps s0 s) (h_arb : Part.arb ∈ ps) :
    Only ps s0 (State.arbGrant s) := by
  unfold State.arbGrant
  dsimp only
  repeat' split
  all_goals simp (maxDischargeDepth := 200) +contextual only [only_modArb, h, h_arb]

theorem only_arbNoReady {ps : List Part} {s0 : State} (s : State) (h : Only ps s0 s) (h_arb : Part.arb ∈ ps) :
    Only ps s0 (State.arbNoReady s) := by
  unfold State.arbNoReady
  simp (maxDischargeDepth := 200) only [only_modArb, only_ite, h, h_arb]

theorem only_replayOne {ps : List Part} {s0 : State} (s : State) (e : Nat) (img : Image) (r : PeriodRec) (h : Only ps s0 s) (h_regs : Part.regs ∈ ps) (h_eng : Part.eng ∈ ps) (h_waits : Part.waits ∈ ps) (h_nt : Part.nt ∈ ps) (h_cmd : Part.cmd ∈ ps) (h_log : Part.log ∈ ps) (h_host : Part.host ∈ ps) (h_twn : Part.twn ∈ ps) (h_mgt : Part.mgt ∈ ps) :
    Only ps s0 (State.replayOne s e img r) := by
  unfold State.replayOne
  simp (maxDischargeDepth := 200) +contextual only [only_fadeFinish, only_fadeStep, only_modEng, only_prfStart, only_prfStep, only_publishWords, only_swaps, only_takeEntry, h, h_regs, h_eng, h_waits, h_nt, h_cmd, h_log, h_host, h_twn, h_mgt, only_foldl, implies_true]

theorem only_loadSnap {ps : List Part} {s0 : State} (s : State) (e : Nat) (x : EngineSnap) (h : Only ps s0 s) (h_regs : Part.regs ∈ ps) (h_eng : Part.eng ∈ ps) (h_waits : Part.waits ∈ ps) (h_nt : Part.nt ∈ ps) (h_cmd : Part.cmd ∈ ps) (h_log : Part.log ∈ ps) (h_host : Part.host ∈ ps) (h_twn : Part.twn ∈ ps) (h_mgt : Part.mgt ∈ ps) :
    Only ps s0 (State.loadSnap s e x) := by
  unfold State.loadSnap
  extract_lets n
  split
  · exact h
  · dsimp only
    refine only_modTwn _ (only_modEng _ _ (only_foldl _ _ (fun u x hu => ?_) ?_) (by assumption)) (by assumption)
    · refine only_replayOne _ _ _ _ hu ?_ ?_ ?_ ?_ ?_ ?_ ?_ ?_ ?_ <;> assumption
    · exact only_refreshWork _ _ (only_modEng _ _ h h_eng) h_eng

theorem only_resyncGrant {ps : List Part} {s0 : State} (s : State) (ring : Fin 129) (plant : Bool) (anchor : BitVec 4) (payload : Bytes) (h : Only ps s0 s) (h_regs : Part.regs ∈ ps) (h_cmd : Part.cmd ∈ ps) (h_sec : Part.sec ∈ ps) :
    Only ps s0 (State.resyncGrant s ring plant anchor payload) := by
  unfold State.resyncGrant
  simp (maxDischargeDepth := 200) +contextual only [only_grantQueue, only_modRep, only_ite, h, h_regs, h_cmd, h_sec]

theorem only_resyncItem {ps : List Part} {s0 : State} (s : State) (x1 : ResyncItem) (h : Only ps s0 s) (h_free : Part.free ∈ ps) (h_live : Part.live ∈ ps) (h_regs : Part.regs ∈ ps) (h_eng : Part.eng ∈ ps) (h_waits : Part.waits ∈ ps) (h_meas : Part.meas ∈ ps) (h_pwm : Part.pwm ∈ ps) (h_gdl : Part.gdl ∈ ps) (h_trp : Part.trp ∈ ps) (h_saf : Part.saf ∈ ps) (h_clk : Part.clk ∈ ps) (h_nt : Part.nt ∈ ps) (h_cmd : Part.cmd ∈ ps) (h_ops : Part.ops ∈ ps) (h_log : Part.log ∈ ps) (h_sec : Part.sec ∈ ps) (h_stg : Part.stg ∈ ps) (h_acq : Part.acq ∈ ps) (h_host : Part.host ∈ ps) (h_twn : Part.twn ∈ ps) (h_mgt : Part.mgt ∈ ps) :
    Only ps s0 (State.resyncItem s x1) := by
  unfold State.resyncItem
  repeat' split
  all_goals simp (maxDischargeDepth := 200) only [only_applyStage, only_followState, only_loadSnap, only_modEng, only_modNt, only_modRep, only_modStg, only_modTwn, only_resyncGrant, only_setLastSeq, only_ite, h, h_free, h_live, h_regs, h_eng, h_waits, h_meas, h_pwm, h_gdl, h_trp, h_saf, h_clk, h_nt, h_cmd, h_ops, h_log, h_sec, h_stg, h_acq, h_host, h_twn, h_mgt]

theorem only_execArbiterBbmExpiry {ps : List Part} {s0 : State} (s : State) (h : Only ps s0 s) (h_now : Part.now ∈ ps) (h_nt : Part.nt ∈ ps) (h_arb : Part.arb ∈ ps) :
    ∀ out, execArbiterBbmExpiry s = .next out → Only ps s0 out := by
  unfold execArbiterBbmExpiry
  intro out e
  dsimp only at e
  repeat' split at e
  all_goals (cases e; simp (maxDischargeDepth := 200) +contextual only [only_advanceTo, only_arbGrant, only_modArb, only_modArbPort, h, h_now, h_nt, h_arb])

theorem only_execArbiterHbPulse {ps : List Part} {s0 : State} (port : Fin 2) (widthNs : Nat) (s : State) (h : Only ps s0 s) (h_arb : Part.arb ∈ ps) :
    ∀ out, execArbiterHbPulse port widthNs s = .next out → Only ps s0 out := by
  unfold execArbiterHbPulse
  intro out e
  dsimp only at e
  repeat' split at e
  all_goals (cases e; simp (maxDischargeDepth := 200) +contextual only [only_arbGrant, only_arbNoReady, only_modArbPort, h, h_arb])

theorem only_execArbiterHbTimeout {ps : List Part} {s0 : State} (port : Fin 2) (s : State) (h : Only ps s0 s) (h_now : Part.now ∈ ps) (h_nt : Part.nt ∈ ps) (h_arb : Part.arb ∈ ps) :
    ∀ out, execArbiterHbTimeout port s = .next out → Only ps s0 out := by
  unfold execArbiterHbTimeout
  intro out e
  dsimp only at e
  repeat' split at e
  all_goals (cases e; simp (maxDischargeDepth := 200) +contextual only [only_advanceTo, only_arbGap, only_arbGrant, only_modArbPort, h, h_now, h_nt, h_arb])

theorem only_execArbiterSwapReq {ps : List Part} {s0 : State} (port : Fin 2) (s : State) (h : Only ps s0 s) (h_arb : Part.arb ∈ ps) :
    ∀ out, execArbiterSwapReq port s = .next out → Only ps s0 out := by
  unfold execArbiterSwapReq
  intro out e
  dsimp only at e
  repeat' split at e
  all_goals (cases e; simp (maxDischargeDepth := 200) +contextual only [only_arbGap, only_modArbPort, h, h_arb])

theorem only_execResyncComplete {ps : List Part} {s0 : State} (s : State) (h : Only ps s0 s) (h_regs : Part.regs ∈ ps) (h_cmd : Part.cmd ∈ ps) (h_host : Part.host ∈ ps) (h_twn : Part.twn ∈ ps) (h_mgt : Part.mgt ∈ ps) :
    ∀ out, execResyncComplete s = .next out → Only ps s0 out := by
  unfold execResyncComplete
  intro out e
  split at e <;> cases e <;> simp (maxDischargeDepth := 200) only [only_modTwn, only_resyncEnd, h, h_regs, h_cmd, h_host, h_twn, h_mgt]

theorem only_execResyncFrameReceive {ps : List Part} {s0 : State} (f : ResyncFrame) (s : State) (h : Only ps s0 s) (h_free : Part.free ∈ ps) (h_live : Part.live ∈ ps) (h_regs : Part.regs ∈ ps) (h_eng : Part.eng ∈ ps) (h_waits : Part.waits ∈ ps) (h_meas : Part.meas ∈ ps) (h_pwm : Part.pwm ∈ ps) (h_gdl : Part.gdl ∈ ps) (h_trp : Part.trp ∈ ps) (h_saf : Part.saf ∈ ps) (h_clk : Part.clk ∈ ps) (h_nt : Part.nt ∈ ps) (h_cmd : Part.cmd ∈ ps) (h_ops : Part.ops ∈ ps) (h_log : Part.log ∈ ps) (h_sec : Part.sec ∈ ps) (h_stg : Part.stg ∈ ps) (h_acq : Part.acq ∈ ps) (h_host : Part.host ∈ ps) (h_twn : Part.twn ∈ ps) (h_mgt : Part.mgt ∈ ps) :
    ∀ out, execResyncFrameReceive f s = .next out → Only ps s0 out := by
  unfold execResyncFrameReceive
  intro out e
  repeat' split at e
  all_goals (cases e; simp (maxDischargeDepth := 200) +contextual only [only_count, only_resyncItem, h, h_free, h_live, h_regs, h_eng, h_waits, h_meas, h_pwm, h_gdl, h_trp, h_saf, h_clk, h_nt, h_cmd, h_ops, h_log, h_sec, h_stg, h_acq, h_host, h_twn, h_mgt])

end Sys2Proof.Machine
end

