-- ==== Sys2Proof/Laws/OnlyPeriod.lean ====
section
/-! SUPPORT. Frames of the operations and meanings of Machine/Period.lean: one lemma each, which names the parts of the state that may
change. -/

set_option maxRecDepth 4000

namespace Sys2Proof.Machine

theorem only_templateStop {ps : List Part} {s0 : State} (s : State) (e : Nat) (h : Only ps s0 s) (h_regs : Part.regs ∈ ps) (h_eng : Part.eng ∈ ps) (h_waits : Part.waits ∈ ps) (h_pwm : Part.pwm ∈ ps) (h_gdl : Part.gdl ∈ ps) (h_trp : Part.trp ∈ ps) (h_nt : Part.nt ∈ ps) (h_cmd : Part.cmd ∈ ps) (h_ops : Part.ops ∈ ps) (h_log : Part.log ∈ ps) (h_host : Part.host ∈ ps) (h_twn : Part.twn ∈ ps) (h_mgt : Part.mgt ∈ ps) :
    Only ps s0 (State.templateStop s e) := by
  unfold State.templateStop
  dsimp only
  repeat' split
  all_goals simp (maxDischargeDepth := 200) +contextual only [only_modGfm, only_toStopping, h, h_regs, h_eng, h_waits, h_pwm, h_gdl, h_trp, h_nt, h_cmd, h_ops, h_log, h_host, h_twn, h_mgt]

theorem only_periodEnd {ps : List Part} {s0 : State} (s : State) (e : Nat) (h : Only ps s0 s) (h_free : Part.free ∈ ps) (h_regs : Part.regs ∈ ps) (h_eng : Part.eng ∈ ps) (h_waits : Part.waits ∈ ps) (h_pwm : Part.pwm ∈ ps) (h_gdl : Part.gdl ∈ ps) (h_trp : Part.trp ∈ ps) (h_saf : Part.saf ∈ ps) (h_nt : Part.nt ∈ ps) (h_eth : Part.eth ∈ ps) (h_cmd : Part.cmd ∈ ps) (h_ops : Part.ops ∈ ps) (h_log : Part.log ∈ ps) (h_stg : Part.stg ∈ ps) (h_acq : Part.acq ∈ ps) (h_dma : Part.dma ∈ ps) (h_dram : Part.dram ∈ ps) (h_host : Part.host ∈ ps) (h_twn : Part.twn ∈ ps) (h_mgt : Part.mgt ∈ ps) :
    Only ps s0 (State.periodEnd s e) := by
  unfold State.periodEnd
  simp (maxDischargeDepth := 200) +contextual only [only_acqPeriod, only_digestCheck, only_fadeFinish, only_modEng, only_publishWords, only_ite, h, h_free, h_regs, h_eng, h_waits, h_pwm, h_gdl, h_trp, h_saf, h_nt, h_eth, h_cmd, h_ops, h_log, h_stg, h_acq, h_dma, h_dram, h_host, h_twn, h_mgt]

theorem only_periodBegin {ps : List Part} {s0 : State} (s : State) (e : Nat) (nt : DWord) (h : Only ps s0 s) (h_eng : Part.eng ∈ ps) :
    Only ps s0 (State.periodBegin s e nt) := by
  unfold State.periodBegin
  simp (maxDischargeDepth := 200) only [only_modEng, h, h_eng]

theorem only_boundaryA {ps : List Part} {s0 : State} (s : State) (es : List Nat) (nt : DWord) (h : Only ps s0 s) (h_free : Part.free ∈ ps) (h_live : Part.live ∈ ps) (h_regs : Part.regs ∈ ps) (h_eng : Part.eng ∈ ps) (h_waits : Part.waits ∈ ps) (h_meas : Part.meas ∈ ps) (h_pwm : Part.pwm ∈ ps) (h_gdl : Part.gdl ∈ ps) (h_trp : Part.trp ∈ ps) (h_saf : Part.saf ∈ ps) (h_clk : Part.clk ∈ ps) (h_nt : Part.nt ∈ ps) (h_eth : Part.eth ∈ ps) (h_cmd : Part.cmd ∈ ps) (h_ops : Part.ops ∈ ps) (h_log : Part.log ∈ ps) (h_sec : Part.sec ∈ ps) (h_stg : Part.stg ∈ ps) (h_acq : Part.acq ∈ ps) (h_dma : Part.dma ∈ ps) (h_dram : Part.dram ∈ ps) (h_host : Part.host ∈ ps) (h_twn : Part.twn ∈ ps) (h_mgt : Part.mgt ∈ ps) :
    Only ps s0 (State.boundaryA s es nt) := by
  unfold State.boundaryA
  simp (maxDischargeDepth := 200) +contextual only [only_commitsAt, only_itemsLate, only_itemsPeriod, only_modTwn, only_periodBegin, only_periodEnd, only_prfHold, only_refreshWork, only_resyncLine, only_snapTake, only_takeSeen, only_templateStop, only_twinMissing, only_unfinished, only_forNums, only_ite, h, h_free, h_live, h_regs, h_eng, h_waits, h_meas, h_pwm, h_gdl, h_trp, h_saf, h_clk, h_nt, h_eth, h_cmd, h_ops, h_log, h_sec, h_stg, h_acq, h_dma, h_dram, h_host, h_twn, h_mgt, implies_true]

theorem only_boundaryB {ps : List Part} {s0 : State} (s : State) (t : Nat) (half : Bool) (e : Nat) (h : Only ps s0 s) (h_free : Part.free ∈ ps) (h_regs : Part.regs ∈ ps) (h_eng : Part.eng ∈ ps) (h_waits : Part.waits ∈ ps) (h_pwm : Part.pwm ∈ ps) (h_gdl : Part.gdl ∈ ps) (h_trp : Part.trp ∈ ps) (h_nt : Part.nt ∈ ps) (h_cmd : Part.cmd ∈ ps) (h_log : Part.log ∈ ps) (h_acq : Part.acq ∈ ps) (h_host : Part.host ∈ ps) (h_twn : Part.twn ∈ ps) (h_mgt : Part.mgt ∈ ps) :
    Only ps s0 (State.boundaryB s t half e) := by
  unfold State.boundaryB
  simp (maxDischargeDepth := 200) +contextual only [only_fadeStep, only_latchFrame, only_modEng, only_modZone, only_prfClearStart, only_prfPreset, only_prfStep, only_takeSwaps, only_takeWork, only_forNums, only_ite, h, h_free, h_regs, h_eng, h_waits, h_pwm, h_gdl, h_trp, h_nt, h_cmd, h_log, h_acq, h_host, h_twn, h_mgt, implies_true]

theorem only_linkIntervals {ps : List Part} {s0 : State} (s : State) (k : Nat) (h : Only ps s0 s) (h_trp : Part.trp ∈ ps) :
    Only ps s0 (State.linkIntervals s k) := by
  unfold State.linkIntervals
  simp (maxDischargeDepth := 200) only [only_mk, or_true, true_or, h, h_trp]

theorem only_stackLoad {ps : List Part} {s0 : State} (s : State) (t : Nat) (half : Bool) (ofs : Nat) (h : Only ps s0 s) (h_free : Part.free ∈ ps) (h_regs : Part.regs ∈ ps) (h_pwm : Part.pwm ∈ ps) (h_gdl : Part.gdl ∈ ps) (h_trp : Part.trp ∈ ps) (h_nt : Part.nt ∈ ps) (h_log : Part.log ∈ ps) (h_acq : Part.acq ∈ ps) (h_twn : Part.twn ∈ ps) :
    Only ps s0 (State.stackLoad s t half ofs) := by
  unfold State.stackLoad
  simp (maxDischargeDepth := 200) +contextual only [only_beginChanOff, only_linkIntervals, only_loadChans, only_modZone, only_pullInterval, only_stackBack, only_ite, h, h_free, h_regs, h_pwm, h_gdl, h_trp, h_nt, h_log, h_acq, h_twn]

theorem only_sarAtLoad {ps : List Part} {s0 : State} (s : State) (t : Nat) (half : Bool) (h : Only ps s0 s) (h_regs : Part.regs ∈ ps) (h_sar : Part.sar ∈ ps) :
    Only ps s0 (State.sarAtLoad s t half) := by
  unfold State.sarAtLoad
  simp (maxDischargeDepth := 200) only [only_sarTrigger, only_sarUrgent, only_ite, h, h_regs, h_sar]

theorem only_loadAt {ps : List Part} {s0 : State} (s : State) (t : Nat) (half : Bool) (nt : DWord) (zero : State → State) (h : Only ps s0 s)
    (h_free : Part.free ∈ ps) (h_live : Part.live ∈ ps) (h_regs : Part.regs ∈ ps) (h_eng : Part.eng ∈ ps) (h_waits : Part.waits ∈ ps) (h_meas : Part.meas ∈ ps) (h_sar : Part.sar ∈ ps) (h_pwm : Part.pwm ∈ ps) (h_gdl : Part.gdl ∈ ps) (h_trp : Part.trp ∈ ps) (h_saf : Part.saf ∈ ps) (h_clk : Part.clk ∈ ps) (h_nt : Part.nt ∈ ps) (h_eth : Part.eth ∈ ps) (h_cmd : Part.cmd ∈ ps) (h_ops : Part.ops ∈ ps) (h_log : Part.log ∈ ps) (h_sec : Part.sec ∈ ps) (h_stg : Part.stg ∈ ps) (h_acq : Part.acq ∈ ps) (h_dma : Part.dma ∈ ps) (h_dram : Part.dram ∈ ps) (h_host : Part.host ∈ ps) (h_twn : Part.twn ∈ ps) (h_mgt : Part.mgt ∈ ps)
    (hz : ∀ u, Only ps s0 u → Only ps s0 (zero u)) : Only ps s0 (s.loadAt t half nt zero) := by
  unfold State.loadAt
  extract_lets lead es s1 s2 s3 s4 s5
  have h1 : Only ps s0 s1 := by simp (maxDischargeDepth := 200) only [s1, only_boundaryA, h, h_free, h_live, h_regs, h_eng, h_waits, h_meas, h_pwm, h_gdl, h_trp, h_saf, h_clk, h_nt, h_eth, h_cmd, h_ops, h_log, h_sec, h_stg, h_acq, h_dma, h_dram, h_host, h_twn, h_mgt]
  have h2 : Only ps s0 s2 := hz _ h1
  have h4 : Only ps s0 s4 := by simp (maxDischargeDepth := 200) only [s4, s3, only_sarAtLoad, only_stackLoad, h2, h_free, h_regs, h_sar, h_pwm, h_gdl, h_trp, h_nt, h_log, h_acq, h_twn]
  have h5 : Only ps s0 s5 := by
    refine only_forNums _ _ (fun e u hu => ?_) h4
    simp (maxDischargeDepth := 200) only [only_boundaryB, hu, h_free, h_regs, h_eng, h_waits, h_pwm, h_gdl, h_trp, h_nt, h_cmd, h_log, h_acq, h_host, h_twn, h_mgt]
  simp (maxDischargeDepth := 200) only [only_ite, only_tbStop, only_opsAt, h1, h5, h_regs, h_eng, h_waits, h_pwm, h_gdl, h_trp, h_nt, h_cmd, h_ops, h_log, h_host, h_twn, h_mgt]

theorem only_execLoadPoint {ps : List Part} {s0 : State} (t : Fin 16) (half : Bool) (s : State) (h : Only ps s0 s) (h_now : Part.now ∈ ps) (h_free : Part.free ∈ ps) (h_live : Part.live ∈ ps) (h_regs : Part.regs ∈ ps) (h_eng : Part.eng ∈ ps) (h_waits : Part.waits ∈ ps) (h_meas : Part.meas ∈ ps) (h_sar : Part.sar ∈ ps) (h_pwm : Part.pwm ∈ ps) (h_gdl : Part.gdl ∈ ps) (h_trp : Part.trp ∈ ps) (h_saf : Part.saf ∈ ps) (h_clk : Part.clk ∈ ps) (h_nt : Part.nt ∈ ps) (h_eth : Part.eth ∈ ps) (h_cmd : Part.cmd ∈ ps) (h_ops : Part.ops ∈ ps) (h_log : Part.log ∈ ps) (h_sec : Part.sec ∈ ps) (h_stg : Part.stg ∈ ps) (h_acq : Part.acq ∈ ps) (h_dma : Part.dma ∈ ps) (h_dram : Part.dram ∈ ps) (h_host : Part.host ∈ ps) (h_twn : Part.twn ∈ ps) (h_mgt : Part.mgt ∈ ps) :
    ∀ out, execLoadPoint t half s = .next out → Only ps s0 out := by
  unfold execLoadPoint
  intro out e
  dsimp only at e
  repeat' split at e
  all_goals (cases e; simp (maxDischargeDepth := 200) +contextual only [only_advanceTo, only_loadAt, only_modTb, only_tailEdges, only_tbZero, only_forNums, h, h_now, h_free, h_live, h_regs, h_eng, h_waits, h_meas, h_sar, h_pwm, h_gdl, h_trp, h_saf, h_clk, h_nt, h_eth, h_cmd, h_ops, h_log, h_sec, h_stg, h_acq, h_dma, h_dram, h_host, h_twn, h_mgt, implies_true])

theorem only_execTimebaseFirstZero {ps : List Part} {s0 : State} (t : Fin 16) (s : State) (h : Only ps s0 s) (h_now : Part.now ∈ ps) (h_free : Part.free ∈ ps) (h_live : Part.live ∈ ps) (h_regs : Part.regs ∈ ps) (h_eng : Part.eng ∈ ps) (h_waits : Part.waits ∈ ps) (h_meas : Part.meas ∈ ps) (h_sar : Part.sar ∈ ps) (h_pwm : Part.pwm ∈ ps) (h_gdl : Part.gdl ∈ ps) (h_trp : Part.trp ∈ ps) (h_saf : Part.saf ∈ ps) (h_clk : Part.clk ∈ ps) (h_nt : Part.nt ∈ ps) (h_eth : Part.eth ∈ ps) (h_cmd : Part.cmd ∈ ps) (h_ops : Part.ops ∈ ps) (h_log : Part.log ∈ ps) (h_sec : Part.sec ∈ ps) (h_stg : Part.stg ∈ ps) (h_acq : Part.acq ∈ ps) (h_dma : Part.dma ∈ ps) (h_dram : Part.dram ∈ ps) (h_host : Part.host ∈ ps) (h_twn : Part.twn ∈ ps) (h_mgt : Part.mgt ∈ ps) :
    ∀ out, execTimebaseFirstZero t s = .next out → Only ps s0 out := by
  unfold execTimebaseFirstZero
  intro out e
  dsimp only at e
  repeat' split at e
  all_goals (cases e; simp (maxDischargeDepth := 200) +contextual only [only_advanceTo, only_loadAt, only_tbStart, h, h_now, h_free, h_live, h_regs, h_eng, h_waits, h_meas, h_sar, h_pwm, h_gdl, h_trp, h_saf, h_clk, h_nt, h_eth, h_cmd, h_ops, h_log, h_sec, h_stg, h_acq, h_dma, h_dram, h_host, h_twn, h_mgt, implies_true])

end Sys2Proof.Machine
end

