-- ==== Sys2Proof/Laws/OnlyBus.lean ====
section
/-! SUPPORT. Frames of the operations and meanings of Machine/Bus.lean: one lemma each, which names the parts of the state that may
change. -/

set_option maxRecDepth 4000

namespace Sys2Proof.Machine

theorem only_readFirst {ps : List Part} {s0 : State} (s : State) (r : Reg) (i : Nat) (j : Nat) (h : Only ps s0 s) (h_regs : Part.regs ∈ ps) (h_bus : Part.bus ∈ ps) (h_eng : Part.eng ∈ ps) (h_trp : Part.trp ∈ ps) (h_nt : Part.nt ∈ ps) (h_eth : Part.eth ∈ ps) :
    Only ps s0 (State.readFirst s r i j) := by
  unfold State.readFirst
  split <;> simp (maxDischargeDepth := 200) +contextual only [only_mboxCapture, only_sporeRecRead, only_trpRecRead, only_txtsRead, only_ite, h, h_regs, h_bus, h_eng, h_trp, h_nt, h_eth]

theorem only_readAfter {ps : List Part} {s0 : State} (s : State) (r : Reg) (i : Nat) (j : Nat) (h : Only ps s0 s) (h_regs : Part.regs ∈ ps) :
    Only ps s0 (State.readAfter s r i j) := by
  unfold State.readAfter
  simp (maxDischargeDepth := 200) only [only_setReg, only_ite, h, h_regs]

theorem only_captureLower {ps : List Part} {s0 : State} (s : State) (r : Reg) (i : Nat) (j : Nat) (v : DWord) (h : Only ps s0 s) (h_bus : Part.bus ∈ ps) :
    Only ps s0 (State.captureLower s r i j v) := by
  unfold State.captureLower
  split <;> simp (maxDischargeDepth := 200) only [only_modBus, h, h_bus]

theorem only_readWord {ps : List Part} {s0 : State} (s : State) (off : Nat) (h : Only ps s0 s) (h_regs : Part.regs ∈ ps) (h_bus : Part.bus ∈ ps) (h_eng : Part.eng ∈ ps) (h_trp : Part.trp ∈ ps) (h_nt : Part.nt ∈ ps) (h_eth : Part.eth ∈ ps) :
    Only ps s0 (State.readWord s off).2 := by
  unfold State.readWord
  dsimp only
  repeat' split
  all_goals simp (maxDischargeDepth := 200) +contextual only [only_captureLower, only_modBus, only_readAfter, only_readFirst, h, h_regs, h_bus, h_eng, h_trp, h_nt, h_eth]

theorem only_busRead {ps : List Part} {s0 : State} (s : State) (off : Nat) (w : AccessWidth) (h : Only ps s0 s) (h_regs : Part.regs ∈ ps) (h_bus : Part.bus ∈ ps) (h_eng : Part.eng ∈ ps) (h_trp : Part.trp ∈ ps) (h_nt : Part.nt ∈ ps) (h_eth : Part.eth ∈ ps) :
    Only ps s0 (State.busRead s off w) := by
  unfold State.busRead
  dsimp only
  repeat' split
  all_goals simp (maxDischargeDepth := 200) +contextual only [only_accessErr, only_modBus, only_readWord, h, h_regs, h_bus, h_eng, h_trp, h_nt, h_eth]

theorem only_writeWhen {ps : List Part} {s0 : State} (s : State) (ok : Bool) (off : Nat) (r : Reg) (i : Nat) (v : Nat) (h : Only ps s0 s) (h_regs : Part.regs ∈ ps) :
    Only ps s0 (State.writeWhen s ok off r i v) := by
  unfold State.writeWhen
  simp (maxDischargeDepth := 200) only [only_accessErr, only_setRegN, only_ite, h, h_regs]

theorem only_ringCfgWrite {ps : List Part} {s0 : State} (s : State) (off : Nat) (r : Nat) (v : Nat) (h : Only ps s0 s) (h_regs : Part.regs ∈ ps) (h_cmd : Part.cmd ∈ ps) (h_host : Part.host ∈ ps) :
    Only ps s0 (State.ringCfgWrite s off r v) := by
  unfold State.ringCfgWrite
  simp (maxDischargeDepth := 200) only [only_accessErr, only_ringDisable, only_ringEnable, only_setRegN, only_ite, h, h_regs, h_cmd, h_host]

theorem only_ntCmdWrite {ps : List Part} {s0 : State} (s : State) (v : Nat) (h : Only ps s0 s) (h_free : Part.free ∈ ps) (h_nt : Part.nt ∈ ps) :
    Only ps s0 (State.ntCmdWrite s v) := by
  unfold State.ntCmdWrite
  split <;> simp (maxDischargeDepth := 200) only [only_draw, only_modNt, h, h_free, h_nt]

theorem only_dmaCtrlWrite {ps : List Part} {s0 : State} (s : State) (n : Nat) (v : Nat) (h : Only ps s0 s) (h_free : Part.free ∈ ps) (h_regs : Part.regs ∈ ps) (h_eth : Part.eth ∈ ps) (h_cmd : Part.cmd ∈ ps) (h_dma : Part.dma ∈ ps) (h_dram : Part.dram ∈ ps) (h_host : Part.host ∈ ps) :
    Only ps s0 (State.dmaCtrlWrite s n v) := by
  unfold State.dmaCtrlWrite
  simp (maxDischargeDepth := 200) +contextual only [only_dmaAbort, only_dmaStart, only_ite, h, h_free, h_regs, h_eth, h_cmd, h_dma, h_dram, h_host]

theorem only_urgWrite {ps : List Part} {s0 : State} (s : State) (v : Nat) (h : Only ps s0 s) (h_regs : Part.regs ∈ ps) (h_sar : Part.sar ∈ ps) :
    Only ps s0 (State.urgWrite s v) := by
  unfold State.urgWrite
  simp (maxDischargeDepth := 200) +contextual only [only_sarUrgent, only_setReg, only_ite, h, h_regs, h_sar]

theorem only_regWrite {ps : List Part} {s0 : State} (s : State) (off : Nat) (r : Reg) (i : Nat) (j : Nat) (v : Nat) (h : Only ps s0 s) (h_free : Part.free ∈ ps) (h_regs : Part.regs ∈ ps) (h_meas : Part.meas ∈ ps) (h_sar : Part.sar ∈ ps) (h_pwm : Part.pwm ∈ ps) (h_gdl : Part.gdl ∈ ps) (h_trp : Part.trp ∈ ps) (h_nt : Part.nt ∈ ps) (h_eth : Part.eth ∈ ps) (h_cmd : Part.cmd ∈ ps) (h_acq : Part.acq ∈ ps) (h_dma : Part.dma ∈ ps) (h_dram : Part.dram ∈ ps) (h_host : Part.host ∈ ps) :
    Only ps s0 (State.regWrite s off r i j v) := by
  unfold State.regWrite
  dsimp only
  repeat' split
  all_goals simp (maxDischargeDepth := 200) +contextual only [only_dmaCtrlWrite, only_dmaTailWrite, only_ntCmdWrite, only_ntIncr, only_ostWrite, only_ringCfgWrite, only_sarTrigger, only_segFree, only_setReg, only_setRegN, only_trainWrite, only_urgWrite, only_writeWhen, h, h_free, h_regs, h_meas, h_sar, h_pwm, h_gdl, h_trp, h_nt, h_eth, h_cmd, h_acq, h_dma, h_dram, h_host]

theorem only_msixWrite {ps : List Part} {s0 : State} (s : State) (off : Nat) (v : Word) (h : Only ps s0 s) (h_regs : Part.regs ∈ ps) (h_cmd : Part.cmd ∈ ps) :
    Only ps s0 (State.msixWrite s off v) := by
  unfold State.msixWrite
  simp (maxDischargeDepth := 200) only [only_modCmd, only_raise, only_ite, only_mk, or_true, true_or, h, h_regs, h_cmd]

theorem only_stageBus {ps : List Part} {s0 : State} (s : State) (m : Master) (off : Nat) (r : Reg) (i : Nat) (j : Nat) (put : DWord → Nat) (h : Only ps s0 s) (h_regs : Part.regs ∈ ps) (h_stg : Part.stg ∈ ps) (h_twn : Part.twn ∈ ps) :
    Only ps s0 (State.stageBus s m off r i j put) := by
  unfold State.stageBus
  simp (maxDischargeDepth := 200) +contextual only [only_accessErr, only_count, only_mirror, only_stageWrote, only_ite, h, h_regs, h_stg, h_twn]

theorem only_writeWord {ps : List Part} {s0 : State} (s : State) (m : Master) (off : Nat) (v : Word) (h : Only ps s0 s) (h_free : Part.free ∈ ps) (h_regs : Part.regs ∈ ps) (h_bus : Part.bus ∈ ps) (h_meas : Part.meas ∈ ps) (h_sar : Part.sar ∈ ps) (h_pwm : Part.pwm ∈ ps) (h_gdl : Part.gdl ∈ ps) (h_trp : Part.trp ∈ ps) (h_nt : Part.nt ∈ ps) (h_eth : Part.eth ∈ ps) (h_cmd : Part.cmd ∈ ps) (h_stg : Part.stg ∈ ps) (h_acq : Part.acq ∈ ps) (h_dma : Part.dma ∈ ps) (h_dram : Part.dram ∈ ps) (h_host : Part.host ∈ ps) (h_twn : Part.twn ∈ ps) :
    Only ps s0 (State.writeWord s m off v) := by
  unfold State.writeWord
  dsimp only
  repeat' split
  all_goals simp (maxDischargeDepth := 200) +contextual only [only_modBus, only_msixWrite, only_regWrite, only_stageBus, h, h_free, h_regs, h_bus, h_meas, h_sar, h_pwm, h_gdl, h_trp, h_nt, h_eth, h_cmd, h_stg, h_acq, h_dma, h_dram, h_host, h_twn]

theorem only_busWrite {ps : List Part} {s0 : State} (s : State) (m : Master) (off : Nat) (w : AccessWidth) (v : DWord) (h : Only ps s0 s) (h_free : Part.free ∈ ps) (h_regs : Part.regs ∈ ps) (h_bus : Part.bus ∈ ps) (h_meas : Part.meas ∈ ps) (h_sar : Part.sar ∈ ps) (h_pwm : Part.pwm ∈ ps) (h_gdl : Part.gdl ∈ ps) (h_trp : Part.trp ∈ ps) (h_nt : Part.nt ∈ ps) (h_eth : Part.eth ∈ ps) (h_cmd : Part.cmd ∈ ps) (h_stg : Part.stg ∈ ps) (h_acq : Part.acq ∈ ps) (h_dma : Part.dma ∈ ps) (h_dram : Part.dram ∈ ps) (h_host : Part.host ∈ ps) (h_twn : Part.twn ∈ ps) :
    Only ps s0 (State.busWrite s m off w v) := by
  unfold State.busWrite
  dsimp only
  repeat' split
  all_goals simp (maxDischargeDepth := 200) +contextual only [only_accessErr, only_modBus, only_regWrite, only_stageBus, only_writeWord, h, h_free, h_regs, h_bus, h_meas, h_sar, h_pwm, h_gdl, h_trp, h_nt, h_eth, h_cmd, h_stg, h_acq, h_dma, h_dram, h_host, h_twn]

theorem only_execCaptureRead {ps : List Part} {s0 : State} (a : BusAddr) (w : AccessWidth) (s : State) (h : Only ps s0 s) (h_regs : Part.regs ∈ ps) (h_bus : Part.bus ∈ ps) (h_eng : Part.eng ∈ ps) (h_trp : Part.trp ∈ ps) (h_nt : Part.nt ∈ ps) (h_eth : Part.eth ∈ ps) :
    ∀ out, execCaptureRead a w s = .next out → Only ps s0 out := by
  unfold execCaptureRead
  intro out e
  split at e <;> cases e <;> simp (maxDischargeDepth := 200) +contextual only [only_bar2Read, only_busRead, h, h_regs, h_bus, h_eng, h_trp, h_nt, h_eth]

theorem only_execHeldLowerWordWrite {ps : List Part} {s0 : State} (off : Offset) (v : Word) (s : State) (h : Only ps s0 s) (h_free : Part.free ∈ ps) (h_regs : Part.regs ∈ ps) (h_bus : Part.bus ∈ ps) (h_meas : Part.meas ∈ ps) (h_sar : Part.sar ∈ ps) (h_pwm : Part.pwm ∈ ps) (h_gdl : Part.gdl ∈ ps) (h_trp : Part.trp ∈ ps) (h_nt : Part.nt ∈ ps) (h_eth : Part.eth ∈ ps) (h_cmd : Part.cmd ∈ ps) (h_stg : Part.stg ∈ ps) (h_acq : Part.acq ∈ ps) (h_dma : Part.dma ∈ ps) (h_dram : Part.dram ∈ ps) (h_host : Part.host ∈ ps) (h_twn : Part.twn ∈ ps) :
    ∀ out, execHeldLowerWordWrite off v s = .next out → Only ps s0 out := by
  unfold execHeldLowerWordWrite
  intro out e
  cases e
  simp (maxDischargeDepth := 200) +contextual only [only_busWrite, h, h_free, h_regs, h_bus, h_meas, h_sar, h_pwm, h_gdl, h_trp, h_nt, h_eth, h_cmd, h_stg, h_acq, h_dma, h_dram, h_host, h_twn]

theorem only_execReadClear {ps : List Part} {s0 : State} (off : Offset) (w : AccessWidth) (s : State) (h : Only ps s0 s) (h_regs : Part.regs ∈ ps) (h_bus : Part.bus ∈ ps) (h_eng : Part.eng ∈ ps) (h_trp : Part.trp ∈ ps) (h_nt : Part.nt ∈ ps) (h_eth : Part.eth ∈ ps) :
    ∀ out, execReadClear off w s = .next out → Only ps s0 out := by
  unfold execReadClear
  intro out e
  cases e
  simp (maxDischargeDepth := 200) only [only_busRead, h, h_regs, h_bus, h_eng, h_trp, h_nt, h_eth]

theorem only_execRegisterWrite {ps : List Part} {s0 : State} (a : BusAddr) (w : AccessWidth) (v : DWord) (s : State) (h : Only ps s0 s) (h_free : Part.free ∈ ps) (h_regs : Part.regs ∈ ps) (h_bus : Part.bus ∈ ps) (h_meas : Part.meas ∈ ps) (h_sar : Part.sar ∈ ps) (h_pwm : Part.pwm ∈ ps) (h_gdl : Part.gdl ∈ ps) (h_trp : Part.trp ∈ ps) (h_nt : Part.nt ∈ ps) (h_eth : Part.eth ∈ ps) (h_cmd : Part.cmd ∈ ps) (h_stg : Part.stg ∈ ps) (h_acq : Part.acq ∈ ps) (h_dma : Part.dma ∈ ps) (h_dram : Part.dram ∈ ps) (h_host : Part.host ∈ ps) (h_twn : Part.twn ∈ ps) :
    ∀ out, execRegisterWrite a w v s = .next out → Only ps s0 out := by
  unfold execRegisterWrite
  intro out e
  split at e <;> cases e <;> simp (maxDischargeDepth := 200) +contextual only [only_bar2Write, only_busWrite, h, h_free, h_regs, h_bus, h_meas, h_sar, h_pwm, h_gdl, h_trp, h_nt, h_eth, h_cmd, h_stg, h_acq, h_dma, h_dram, h_host, h_twn]

theorem only_execRwsStageWrite {ps : List Part} {s0 : State} (m : Master) (off : Offset) (w : AccessWidth) (v : DWord) (s : State) (h : Only ps s0 s) (h_free : Part.free ∈ ps) (h_regs : Part.regs ∈ ps) (h_bus : Part.bus ∈ ps) (h_meas : Part.meas ∈ ps) (h_sar : Part.sar ∈ ps) (h_pwm : Part.pwm ∈ ps) (h_gdl : Part.gdl ∈ ps) (h_trp : Part.trp ∈ ps) (h_nt : Part.nt ∈ ps) (h_eth : Part.eth ∈ ps) (h_cmd : Part.cmd ∈ ps) (h_stg : Part.stg ∈ ps) (h_acq : Part.acq ∈ ps) (h_dma : Part.dma ∈ ps) (h_dram : Part.dram ∈ ps) (h_host : Part.host ∈ ps) (h_twn : Part.twn ∈ ps) :
    ∀ out, execRwsStageWrite m off w v s = .next out → Only ps s0 out := by
  unfold execRwsStageWrite
  intro out e
  cases e
  simp (maxDischargeDepth := 200) +contextual only [only_busWrite, h, h_free, h_regs, h_bus, h_meas, h_sar, h_pwm, h_gdl, h_trp, h_nt, h_eth, h_cmd, h_stg, h_acq, h_dma, h_dram, h_host, h_twn]

end Sys2Proof.Machine
end

