-- ==== Sys2Proof/Laws/OnlyFrames.lean ====
section
/-! SUPPORT. Frames of the operations and meanings of Machine/Frames.lean: one lemma each, which names the parts of the state that may
change. -/

set_option maxRecDepth 4000

namespace Sys2Proof.Machine

theorem only_loadAhead {ps : List Part} {s0 : State} (s : State) (k : Nat) (b : Nat) (half : Bool) (h : Only ps s0 s) (h_free : Part.free ∈ ps) (h_live : Part.live ∈ ps) (h_regs : Part.regs ∈ ps) (h_eng : Part.eng ∈ ps) (h_waits : Part.waits ∈ ps) (h_meas : Part.meas ∈ ps) (h_pwm : Part.pwm ∈ ps) (h_gdl : Part.gdl ∈ ps) (h_trp : Part.trp ∈ ps) (h_saf : Part.saf ∈ ps) (h_clk : Part.clk ∈ ps) (h_nt : Part.nt ∈ ps) (h_cmd : Part.cmd ∈ ps) (h_ops : Part.ops ∈ ps) (h_log : Part.log ∈ ps) (h_sec : Part.sec ∈ ps) (h_stg : Part.stg ∈ ps) (h_acq : Part.acq ∈ ps) (h_host : Part.host ∈ ps) (h_twn : Part.twn ∈ ps) (h_mgt : Part.mgt ∈ ps) :
    Only ps s0 (State.loadAhead s k b half) := by
  unfold State.loadAhead
  simp (maxDischargeDepth := 200) +contextual only [only_commitsAt, only_modTb, only_opsAt, only_periodBegin, only_stackLoad, only_tbStart, only_tbStop, only_tbZero, only_templateStop, only_forNums, only_ite, h, h_free, h_live, h_regs, h_eng, h_waits, h_meas, h_pwm, h_gdl, h_trp, h_saf, h_clk, h_nt, h_cmd, h_ops, h_log, h_sec, h_stg, h_acq, h_host, h_twn, h_mgt, implies_true]

theorem only_edgeSend {ps : List Part} {s0 : State} (s : State) (k : Nat) (b : Nat) (half : Bool) (h : Only ps s0 s) (h_free : Part.free ∈ ps) (h_regs : Part.regs ∈ ps) (h_pwm : Part.pwm ∈ ps) (h_gdl : Part.gdl ∈ ps) (h_trp : Part.trp ∈ ps) (h_nt : Part.nt ∈ ps) (h_cmd : Part.cmd ∈ ps) (h_log : Part.log ∈ ps) (h_acq : Part.acq ∈ ps) (h_host : Part.host ∈ ps) (h_twn : Part.twn ∈ ps) (h_mgt : Part.mgt ∈ ps) :
    Only ps s0 (State.edgeSend s k b half) := by
  unfold State.edgeSend
  simp (maxDischargeDepth := 200) +contextual only [only_drvSent, only_gdlTrip, only_modGs, only_ostGuard, only_sendLink, only_setRegN, only_ite, h, h_free, h_regs, h_pwm, h_gdl, h_trp, h_nt, h_cmd, h_log, h_acq, h_host, h_twn, h_mgt]

theorem only_runChans {ps : List Part} {s0 : State} (k bound : Nat) (fuel : Nat) (s : State) (acc : List (Nat × Bool × Nat))
    (h : Only ps s0 s) (h_now : Part.now ∈ ps) (h_regs : Part.regs ∈ ps) (h_pwm : Part.pwm ∈ ps) (h_gdl : Part.gdl ∈ ps)
    (h_trp : Part.trp ∈ ps) (h_nt : Part.nt ∈ ps) : Only ps s0 (State.runChans k bound fuel s acc).1 := by
  induction fuel generalizing s acc with
  | zero => exact h
  | succ fuel ih =>
    unfold State.runChans
    split
    · exact h
    · refine ih _ _ ?_
      split <;> simp (maxDischargeDepth := 200) only [only_fallingEdge, only_risingEdge, only_expireWait, only_innerOff, only_advanceTo, h,
        h_now, h_regs, h_pwm, h_gdl, h_trp, h_nt]

theorem only_execEdgeFrameSend {ps : List Part} {s0 : State} (k : Fin 16) (s : State) (h : Only ps s0 s) (h_free : Part.free ∈ ps) (h_regs : Part.regs ∈ ps) (h_pwm : Part.pwm ∈ ps) (h_gdl : Part.gdl ∈ ps) (h_trp : Part.trp ∈ ps) (h_nt : Part.nt ∈ ps) (h_cmd : Part.cmd ∈ ps) (h_log : Part.log ∈ ps) (h_acq : Part.acq ∈ ps) (h_host : Part.host ∈ ps) (h_twn : Part.twn ∈ ps) (h_mgt : Part.mgt ∈ ps) :
    ∀ out, execEdgeFrameSend k s = .next out → Only ps s0 out := by
  unfold execEdgeFrameSend
  intro out e
  dsimp only at e
  repeat' split at e
  all_goals (cases e; simp (maxDischargeDepth := 200) +contextual only [only_edgeSend, h, h_free, h_regs, h_pwm, h_gdl, h_trp, h_nt, h_cmd, h_log, h_acq, h_host, h_twn, h_mgt])

end Sys2Proof.Machine
end

