-- ==== Sys2Proof/Laws/State.lean ====
section
/-! SUPPORT. What an update does to each field of the state, so that no proof unfolds one; what a register reads after a write, and a
number of a vector after it has been replaced. -/

namespace Sys2Proof.Machine

variable (s : State)

/-! ### Fields after an update -/

@[simp] theorem State.modEng_fields (e : Nat) (f : Engine → Engine) :
    (s.modEng e f).pending = s.pending ∧ (s.modEng e f).now = s.now ∧ (s.modEng e f).free = s.free ∧
    (s.modEng e f).live = s.live ∧ (s.modEng e f).regs = s.regs ∧ (s.modEng e f).bus = s.bus ∧
    (s.modEng e f).waits = s.waits ∧ (s.modEng e f).meas = s.meas ∧ (s.modEng e f).sar = s.sar ∧
    (s.modEng e f).pwm = s.pwm ∧ (s.modEng e f).gdl = s.gdl ∧ (s.modEng e f).trp = s.trp ∧ (s.modEng e f).saf = s.saf ∧
    (s.modEng e f).clk = s.clk ∧ (s.modEng e f).nt = s.nt ∧ (s.modEng e f).eth = s.eth ∧ (s.modEng e f).cmd = s.cmd ∧
    (s.modEng e f).ops = s.ops ∧ (s.modEng e f).log = s.log ∧ (s.modEng e f).sec = s.sec ∧ (s.modEng e f).stg = s.stg ∧
    (s.modEng e f).acq = s.acq ∧ (s.modEng e f).dma = s.dma ∧ (s.modEng e f).dram = s.dram ∧ (s.modEng e f).host = s.host ∧
    (s.modEng e f).twn = s.twn ∧ (s.modEng e f).arb = s.arb ∧ (s.modEng e f).mgt = s.mgt ∧
    (s.modEng e f).eng = vset s.eng e (f (s.engN e)) := by
  and_intros <;> rfl

@[simp] theorem State.modTb_fields (t : Nat) (f : Timebase → Timebase) :
    (s.modTb t f).pending = s.pending ∧ (s.modTb t f).now = s.now ∧ (s.modTb t f).free = s.free ∧
    (s.modTb t f).live = s.live ∧ (s.modTb t f).regs = s.regs ∧ (s.modTb t f).bus = s.bus ∧ (s.modTb t f).eng = s.eng ∧
    (s.modTb t f).waits = s.waits ∧ (s.modTb t f).meas = s.meas ∧ (s.modTb t f).sar = s.sar ∧ (s.modTb t f).gdl = s.gdl ∧
    (s.modTb t f).trp = s.trp ∧ (s.modTb t f).saf = s.saf ∧ (s.modTb t f).clk = s.clk ∧ (s.modTb t f).nt = s.nt ∧
    (s.modTb t f).eth = s.eth ∧ (s.modTb t f).cmd = s.cmd ∧ (s.modTb t f).ops = s.ops ∧ (s.modTb t f).log = s.log ∧
    (s.modTb t f).sec = s.sec ∧ (s.modTb t f).stg = s.stg ∧ (s.modTb t f).acq = s.acq ∧ (s.modTb t f).dma = s.dma ∧
    (s.modTb t f).dram = s.dram ∧ (s.modTb t f).host = s.host ∧ (s.modTb t f).twn = s.twn ∧ (s.modTb t f).arb = s.arb ∧
    (s.modTb t f).mgt = s.mgt ∧ (s.modTb t f).pwm = { s.pwm with tbs := vset s.pwm.tbs t (f (s.tb t)) } := by
  and_intros <;> rfl

@[simp] theorem State.modChan_fields (n : Nat) (f : Chan → Chan) :
    (s.modChan n f).pending = s.pending ∧ (s.modChan n f).now = s.now ∧ (s.modChan n f).free = s.free ∧
    (s.modChan n f).live = s.live ∧ (s.modChan n f).regs = s.regs ∧ (s.modChan n f).bus = s.bus ∧
    (s.modChan n f).eng = s.eng ∧ (s.modChan n f).waits = s.waits ∧ (s.modChan n f).meas = s.meas ∧
    (s.modChan n f).sar = s.sar ∧ (s.modChan n f).gdl = s.gdl ∧ (s.modChan n f).trp = s.trp ∧ (s.modChan n f).saf = s.saf ∧
    (s.modChan n f).clk = s.clk ∧ (s.modChan n f).nt = s.nt ∧ (s.modChan n f).eth = s.eth ∧ (s.modChan n f).cmd = s.cmd ∧
    (s.modChan n f).ops = s.ops ∧ (s.modChan n f).log = s.log ∧ (s.modChan n f).sec = s.sec ∧ (s.modChan n f).stg = s.stg ∧
    (s.modChan n f).acq = s.acq ∧ (s.modChan n f).dma = s.dma ∧ (s.modChan n f).dram = s.dram ∧
    (s.modChan n f).host = s.host ∧ (s.modChan n f).twn = s.twn ∧ (s.modChan n f).arb = s.arb ∧
    (s.modChan n f).mgt = s.mgt ∧ (s.modChan n f).pwm = { s.pwm with chans := vset s.pwm.chans n (f (s.chan n)) } := by
  and_intros <;> rfl

@[simp] theorem State.modZone_fields (k : Nat) (f : Zone → Zone) :
    (s.modZone k f).pending = s.pending ∧ (s.modZone k f).now = s.now ∧ (s.modZone k f).free = s.free ∧
    (s.modZone k f).live = s.live ∧ (s.modZone k f).regs = s.regs ∧ (s.modZone k f).bus = s.bus ∧
    (s.modZone k f).eng = s.eng ∧ (s.modZone k f).waits = s.waits ∧ (s.modZone k f).meas = s.meas ∧
    (s.modZone k f).sar = s.sar ∧ (s.modZone k f).pwm = s.pwm ∧ (s.modZone k f).gdl = s.gdl ∧ (s.modZone k f).saf = s.saf ∧
    (s.modZone k f).clk = s.clk ∧ (s.modZone k f).nt = s.nt ∧ (s.modZone k f).eth = s.eth ∧ (s.modZone k f).cmd = s.cmd ∧
    (s.modZone k f).ops = s.ops ∧ (s.modZone k f).log = s.log ∧ (s.modZone k f).sec = s.sec ∧ (s.modZone k f).stg = s.stg ∧
    (s.modZone k f).acq = s.acq ∧ (s.modZone k f).dma = s.dma ∧ (s.modZone k f).dram = s.dram ∧
    (s.modZone k f).host = s.host ∧ (s.modZone k f).twn = s.twn ∧ (s.modZone k f).arb = s.arb ∧
    (s.modZone k f).mgt = s.mgt ∧ (s.modZone k f).trp = { s.trp with zones := vset s.trp.zones k (f (s.zone k)) } := by
  and_intros <;> rfl

@[simp] theorem State.modGs_fields (k : Nat) (f : GdlStack → GdlStack) :
    (s.modGs k f).pending = s.pending ∧ (s.modGs k f).now = s.now ∧ (s.modGs k f).free = s.free ∧
    (s.modGs k f).live = s.live ∧ (s.modGs k f).regs = s.regs ∧ (s.modGs k f).bus = s.bus ∧ (s.modGs k f).eng = s.eng ∧
    (s.modGs k f).waits = s.waits ∧ (s.modGs k f).meas = s.meas ∧ (s.modGs k f).sar = s.sar ∧ (s.modGs k f).pwm = s.pwm ∧
    (s.modGs k f).trp = s.trp ∧ (s.modGs k f).saf = s.saf ∧ (s.modGs k f).clk = s.clk ∧ (s.modGs k f).nt = s.nt ∧
    (s.modGs k f).eth = s.eth ∧ (s.modGs k f).cmd = s.cmd ∧ (s.modGs k f).ops = s.ops ∧ (s.modGs k f).log = s.log ∧
    (s.modGs k f).sec = s.sec ∧ (s.modGs k f).stg = s.stg ∧ (s.modGs k f).acq = s.acq ∧ (s.modGs k f).dma = s.dma ∧
    (s.modGs k f).dram = s.dram ∧ (s.modGs k f).host = s.host ∧ (s.modGs k f).twn = s.twn ∧ (s.modGs k f).arb = s.arb ∧
    (s.modGs k f).mgt = s.mgt ∧ (s.modGs k f).gdl = { s.gdl with stk := vset s.gdl.stk k (f (s.gs k)) } := by
  and_intros <;> rfl

@[simp] theorem State.modDec_fields (c : Nat) (f : DecChan → DecChan) :
    (s.modDec c f).pending = s.pending ∧ (s.modDec c f).now = s.now ∧ (s.modDec c f).free = s.free ∧
    (s.modDec c f).live = s.live ∧ (s.modDec c f).regs = s.regs ∧ (s.modDec c f).bus = s.bus ∧ (s.modDec c f).eng = s.eng ∧
    (s.modDec c f).waits = s.waits ∧ (s.modDec c f).sar = s.sar ∧ (s.modDec c f).pwm = s.pwm ∧ (s.modDec c f).gdl = s.gdl ∧
    (s.modDec c f).trp = s.trp ∧ (s.modDec c f).saf = s.saf ∧ (s.modDec c f).clk = s.clk ∧ (s.modDec c f).nt = s.nt ∧
    (s.modDec c f).eth = s.eth ∧ (s.modDec c f).cmd = s.cmd ∧ (s.modDec c f).ops = s.ops ∧ (s.modDec c f).log = s.log ∧
    (s.modDec c f).sec = s.sec ∧ (s.modDec c f).stg = s.stg ∧ (s.modDec c f).acq = s.acq ∧ (s.modDec c f).dma = s.dma ∧
    (s.modDec c f).dram = s.dram ∧ (s.modDec c f).host = s.host ∧ (s.modDec c f).twn = s.twn ∧ (s.modDec c f).arb = s.arb ∧
    (s.modDec c f).mgt = s.mgt ∧ (s.modDec c f).meas = { s.meas with chans := vset s.meas.chans c (f (s.dec c)) } := by
  and_intros <;> rfl

@[simp] theorem State.modAcq_fields (u : Nat) (f : AcqUnit → AcqUnit) :
    (s.modAcq u f).pending = s.pending ∧ (s.modAcq u f).now = s.now ∧ (s.modAcq u f).free = s.free ∧
    (s.modAcq u f).live = s.live ∧ (s.modAcq u f).regs = s.regs ∧ (s.modAcq u f).bus = s.bus ∧ (s.modAcq u f).eng = s.eng ∧
    (s.modAcq u f).waits = s.waits ∧ (s.modAcq u f).meas = s.meas ∧ (s.modAcq u f).sar = s.sar ∧
    (s.modAcq u f).pwm = s.pwm ∧ (s.modAcq u f).gdl = s.gdl ∧ (s.modAcq u f).trp = s.trp ∧ (s.modAcq u f).saf = s.saf ∧
    (s.modAcq u f).clk = s.clk ∧ (s.modAcq u f).nt = s.nt ∧ (s.modAcq u f).eth = s.eth ∧ (s.modAcq u f).cmd = s.cmd ∧
    (s.modAcq u f).ops = s.ops ∧ (s.modAcq u f).log = s.log ∧ (s.modAcq u f).sec = s.sec ∧ (s.modAcq u f).stg = s.stg ∧
    (s.modAcq u f).dma = s.dma ∧ (s.modAcq u f).dram = s.dram ∧ (s.modAcq u f).host = s.host ∧ (s.modAcq u f).twn = s.twn ∧
    (s.modAcq u f).arb = s.arb ∧ (s.modAcq u f).mgt = s.mgt ∧ (s.modAcq u f).acq = vset s.acq u (f (s.acqN u)) := by
  and_intros <;> rfl

@[simp] theorem State.modDma_fields (n : Nat) (f : DmaChan → DmaChan) :
    (s.modDma n f).pending = s.pending ∧ (s.modDma n f).now = s.now ∧ (s.modDma n f).free = s.free ∧
    (s.modDma n f).live = s.live ∧ (s.modDma n f).regs = s.regs ∧ (s.modDma n f).bus = s.bus ∧ (s.modDma n f).eng = s.eng ∧
    (s.modDma n f).waits = s.waits ∧ (s.modDma n f).meas = s.meas ∧ (s.modDma n f).sar = s.sar ∧
    (s.modDma n f).pwm = s.pwm ∧ (s.modDma n f).gdl = s.gdl ∧ (s.modDma n f).trp = s.trp ∧ (s.modDma n f).saf = s.saf ∧
    (s.modDma n f).clk = s.clk ∧ (s.modDma n f).nt = s.nt ∧ (s.modDma n f).eth = s.eth ∧ (s.modDma n f).cmd = s.cmd ∧
    (s.modDma n f).ops = s.ops ∧ (s.modDma n f).log = s.log ∧ (s.modDma n f).sec = s.sec ∧ (s.modDma n f).stg = s.stg ∧
    (s.modDma n f).acq = s.acq ∧ (s.modDma n f).dram = s.dram ∧ (s.modDma n f).host = s.host ∧ (s.modDma n f).twn = s.twn ∧
    (s.modDma n f).arb = s.arb ∧ (s.modDma n f).mgt = s.mgt ∧ (s.modDma n f).dma = vset s.dma n (f (s.dmaN n)) := by
  and_intros <;> rfl

@[simp] theorem State.modRing_fields (r : Nat) (f : Ring → Ring) :
    (s.modRing r f).pending = s.pending ∧ (s.modRing r f).now = s.now ∧ (s.modRing r f).free = s.free ∧
    (s.modRing r f).live = s.live ∧ (s.modRing r f).regs = s.regs ∧ (s.modRing r f).bus = s.bus ∧
    (s.modRing r f).eng = s.eng ∧ (s.modRing r f).waits = s.waits ∧ (s.modRing r f).meas = s.meas ∧
    (s.modRing r f).sar = s.sar ∧ (s.modRing r f).pwm = s.pwm ∧ (s.modRing r f).gdl = s.gdl ∧ (s.modRing r f).trp = s.trp ∧
    (s.modRing r f).saf = s.saf ∧ (s.modRing r f).clk = s.clk ∧ (s.modRing r f).nt = s.nt ∧ (s.modRing r f).eth = s.eth ∧
    (s.modRing r f).ops = s.ops ∧ (s.modRing r f).log = s.log ∧ (s.modRing r f).sec = s.sec ∧ (s.modRing r f).stg = s.stg ∧
    (s.modRing r f).acq = s.acq ∧ (s.modRing r f).dma = s.dma ∧ (s.modRing r f).dram = s.dram ∧
    (s.modRing r f).host = s.host ∧ (s.modRing r f).twn = s.twn ∧ (s.modRing r f).arb = s.arb ∧
    (s.modRing r f).mgt = s.mgt ∧ (s.modRing r f).cmd = { s.cmd with rings := vset s.cmd.rings r (f (s.ring r)) } := by
  and_intros <;> rfl

@[simp] theorem State.modRep_fields (r : Nat) (f : Replay → Replay) :
    (s.modRep r f).pending = s.pending ∧ (s.modRep r f).now = s.now ∧ (s.modRep r f).free = s.free ∧
    (s.modRep r f).live = s.live ∧ (s.modRep r f).regs = s.regs ∧ (s.modRep r f).bus = s.bus ∧ (s.modRep r f).eng = s.eng ∧
    (s.modRep r f).waits = s.waits ∧ (s.modRep r f).meas = s.meas ∧ (s.modRep r f).sar = s.sar ∧
    (s.modRep r f).pwm = s.pwm ∧ (s.modRep r f).gdl = s.gdl ∧ (s.modRep r f).trp = s.trp ∧ (s.modRep r f).saf = s.saf ∧
    (s.modRep r f).clk = s.clk ∧ (s.modRep r f).nt = s.nt ∧ (s.modRep r f).eth = s.eth ∧ (s.modRep r f).cmd = s.cmd ∧
    (s.modRep r f).ops = s.ops ∧ (s.modRep r f).log = s.log ∧ (s.modRep r f).stg = s.stg ∧ (s.modRep r f).acq = s.acq ∧
    (s.modRep r f).dma = s.dma ∧ (s.modRep r f).dram = s.dram ∧ (s.modRep r f).host = s.host ∧ (s.modRep r f).twn = s.twn ∧
    (s.modRep r f).arb = s.arb ∧ (s.modRep r f).mgt = s.mgt ∧
    (s.modRep r f).sec = { s.sec with replay := vset s.sec.replay r (f (s.rep r)) } := by
  and_intros <;> rfl

@[simp] theorem State.modPort_fields (p : Nat) (f : EthPort → EthPort) :
    (s.modPort p f).pending = s.pending ∧ (s.modPort p f).now = s.now ∧ (s.modPort p f).free = s.free ∧
    (s.modPort p f).live = s.live ∧ (s.modPort p f).regs = s.regs ∧ (s.modPort p f).bus = s.bus ∧
    (s.modPort p f).eng = s.eng ∧ (s.modPort p f).waits = s.waits ∧ (s.modPort p f).meas = s.meas ∧
    (s.modPort p f).sar = s.sar ∧ (s.modPort p f).pwm = s.pwm ∧ (s.modPort p f).gdl = s.gdl ∧ (s.modPort p f).trp = s.trp ∧
    (s.modPort p f).saf = s.saf ∧ (s.modPort p f).clk = s.clk ∧ (s.modPort p f).nt = s.nt ∧ (s.modPort p f).cmd = s.cmd ∧
    (s.modPort p f).ops = s.ops ∧ (s.modPort p f).log = s.log ∧ (s.modPort p f).sec = s.sec ∧ (s.modPort p f).stg = s.stg ∧
    (s.modPort p f).acq = s.acq ∧ (s.modPort p f).dma = s.dma ∧ (s.modPort p f).dram = s.dram ∧
    (s.modPort p f).host = s.host ∧ (s.modPort p f).twn = s.twn ∧ (s.modPort p f).arb = s.arb ∧
    (s.modPort p f).mgt = s.mgt ∧ (s.modPort p f).eth = { s.eth with ports := vset s.eth.ports p (f (s.port p)) } := by
  and_intros <;> rfl

@[simp] theorem State.modClk_fields (f : ClkState → ClkState) :
    (s.modClk f).pending = s.pending ∧ (s.modClk f).now = s.now ∧ (s.modClk f).free = s.free ∧ (s.modClk f).live = s.live ∧
    (s.modClk f).regs = s.regs ∧ (s.modClk f).bus = s.bus ∧ (s.modClk f).eng = s.eng ∧ (s.modClk f).waits = s.waits ∧
    (s.modClk f).meas = s.meas ∧ (s.modClk f).sar = s.sar ∧ (s.modClk f).pwm = s.pwm ∧ (s.modClk f).gdl = s.gdl ∧
    (s.modClk f).trp = s.trp ∧ (s.modClk f).saf = s.saf ∧ (s.modClk f).nt = s.nt ∧ (s.modClk f).eth = s.eth ∧
    (s.modClk f).cmd = s.cmd ∧ (s.modClk f).ops = s.ops ∧ (s.modClk f).log = s.log ∧ (s.modClk f).sec = s.sec ∧
    (s.modClk f).stg = s.stg ∧ (s.modClk f).acq = s.acq ∧ (s.modClk f).dma = s.dma ∧ (s.modClk f).dram = s.dram ∧
    (s.modClk f).host = s.host ∧ (s.modClk f).twn = s.twn ∧ (s.modClk f).arb = s.arb ∧ (s.modClk f).mgt = s.mgt ∧
    (s.modClk f).clk = f s.clk := by
  and_intros <;> rfl

@[simp] theorem State.modNt_fields (f : NtState → NtState) :
    (s.modNt f).pending = s.pending ∧ (s.modNt f).now = s.now ∧ (s.modNt f).free = s.free ∧ (s.modNt f).live = s.live ∧
    (s.modNt f).regs = s.regs ∧ (s.modNt f).bus = s.bus ∧ (s.modNt f).eng = s.eng ∧ (s.modNt f).waits = s.waits ∧
    (s.modNt f).meas = s.meas ∧ (s.modNt f).sar = s.sar ∧ (s.modNt f).pwm = s.pwm ∧ (s.modNt f).gdl = s.gdl ∧
    (s.modNt f).trp = s.trp ∧ (s.modNt f).saf = s.saf ∧ (s.modNt f).clk = s.clk ∧ (s.modNt f).eth = s.eth ∧
    (s.modNt f).cmd = s.cmd ∧ (s.modNt f).ops = s.ops ∧ (s.modNt f).log = s.log ∧ (s.modNt f).sec = s.sec ∧
    (s.modNt f).stg = s.stg ∧ (s.modNt f).acq = s.acq ∧ (s.modNt f).dma = s.dma ∧ (s.modNt f).dram = s.dram ∧
    (s.modNt f).host = s.host ∧ (s.modNt f).twn = s.twn ∧ (s.modNt f).arb = s.arb ∧ (s.modNt f).mgt = s.mgt ∧
    (s.modNt f).nt = f s.nt := by
  and_intros <;> rfl

@[simp] theorem State.modSec_fields (f : SecState → SecState) :
    (s.modSec f).pending = s.pending ∧ (s.modSec f).now = s.now ∧ (s.modSec f).free = s.free ∧ (s.modSec f).live = s.live ∧
    (s.modSec f).regs = s.regs ∧ (s.modSec f).bus = s.bus ∧ (s.modSec f).eng = s.eng ∧ (s.modSec f).waits = s.waits ∧
    (s.modSec f).meas = s.meas ∧ (s.modSec f).sar = s.sar ∧ (s.modSec f).pwm = s.pwm ∧ (s.modSec f).gdl = s.gdl ∧
    (s.modSec f).trp = s.trp ∧ (s.modSec f).saf = s.saf ∧ (s.modSec f).clk = s.clk ∧ (s.modSec f).nt = s.nt ∧
    (s.modSec f).eth = s.eth ∧ (s.modSec f).cmd = s.cmd ∧ (s.modSec f).ops = s.ops ∧ (s.modSec f).log = s.log ∧
    (s.modSec f).stg = s.stg ∧ (s.modSec f).acq = s.acq ∧ (s.modSec f).dma = s.dma ∧ (s.modSec f).dram = s.dram ∧
    (s.modSec f).host = s.host ∧ (s.modSec f).twn = s.twn ∧ (s.modSec f).arb = s.arb ∧ (s.modSec f).mgt = s.mgt ∧
    (s.modSec f).sec = f s.sec := by
  and_intros <;> rfl

@[simp] theorem State.modStg_fields (f : StgState → StgState) :
    (s.modStg f).pending = s.pending ∧ (s.modStg f).now = s.now ∧ (s.modStg f).free = s.free ∧ (s.modStg f).live = s.live ∧
    (s.modStg f).regs = s.regs ∧ (s.modStg f).bus = s.bus ∧ (s.modStg f).eng = s.eng ∧ (s.modStg f).waits = s.waits ∧
    (s.modStg f).meas = s.meas ∧ (s.modStg f).sar = s.sar ∧ (s.modStg f).pwm = s.pwm ∧ (s.modStg f).gdl = s.gdl ∧
    (s.modStg f).trp = s.trp ∧ (s.modStg f).saf = s.saf ∧ (s.modStg f).clk = s.clk ∧ (s.modStg f).nt = s.nt ∧
    (s.modStg f).eth = s.eth ∧ (s.modStg f).cmd = s.cmd ∧ (s.modStg f).ops = s.ops ∧ (s.modStg f).log = s.log ∧
    (s.modStg f).sec = s.sec ∧ (s.modStg f).acq = s.acq ∧ (s.modStg f).dma = s.dma ∧ (s.modStg f).dram = s.dram ∧
    (s.modStg f).host = s.host ∧ (s.modStg f).twn = s.twn ∧ (s.modStg f).arb = s.arb ∧ (s.modStg f).mgt = s.mgt ∧
    (s.modStg f).stg = f s.stg := by
  and_intros <;> rfl

@[simp] theorem State.modOps_fields (f : OpsState → OpsState) :
    (s.modOps f).pending = s.pending ∧ (s.modOps f).now = s.now ∧ (s.modOps f).free = s.free ∧ (s.modOps f).live = s.live ∧
    (s.modOps f).regs = s.regs ∧ (s.modOps f).bus = s.bus ∧ (s.modOps f).eng = s.eng ∧ (s.modOps f).waits = s.waits ∧
    (s.modOps f).meas = s.meas ∧ (s.modOps f).sar = s.sar ∧ (s.modOps f).pwm = s.pwm ∧ (s.modOps f).gdl = s.gdl ∧
    (s.modOps f).trp = s.trp ∧ (s.modOps f).saf = s.saf ∧ (s.modOps f).clk = s.clk ∧ (s.modOps f).nt = s.nt ∧
    (s.modOps f).eth = s.eth ∧ (s.modOps f).cmd = s.cmd ∧ (s.modOps f).log = s.log ∧ (s.modOps f).sec = s.sec ∧
    (s.modOps f).stg = s.stg ∧ (s.modOps f).acq = s.acq ∧ (s.modOps f).dma = s.dma ∧ (s.modOps f).dram = s.dram ∧
    (s.modOps f).host = s.host ∧ (s.modOps f).twn = s.twn ∧ (s.modOps f).arb = s.arb ∧ (s.modOps f).mgt = s.mgt ∧
    (s.modOps f).ops = f s.ops := by
  and_intros <;> rfl

@[simp] theorem State.modCmd_fields (f : CmdState → CmdState) :
    (s.modCmd f).pending = s.pending ∧ (s.modCmd f).now = s.now ∧ (s.modCmd f).free = s.free ∧ (s.modCmd f).live = s.live ∧
    (s.modCmd f).regs = s.regs ∧ (s.modCmd f).bus = s.bus ∧ (s.modCmd f).eng = s.eng ∧ (s.modCmd f).waits = s.waits ∧
    (s.modCmd f).meas = s.meas ∧ (s.modCmd f).sar = s.sar ∧ (s.modCmd f).pwm = s.pwm ∧ (s.modCmd f).gdl = s.gdl ∧
    (s.modCmd f).trp = s.trp ∧ (s.modCmd f).saf = s.saf ∧ (s.modCmd f).clk = s.clk ∧ (s.modCmd f).nt = s.nt ∧
    (s.modCmd f).eth = s.eth ∧ (s.modCmd f).ops = s.ops ∧ (s.modCmd f).log = s.log ∧ (s.modCmd f).sec = s.sec ∧
    (s.modCmd f).stg = s.stg ∧ (s.modCmd f).acq = s.acq ∧ (s.modCmd f).dma = s.dma ∧ (s.modCmd f).dram = s.dram ∧
    (s.modCmd f).host = s.host ∧ (s.modCmd f).twn = s.twn ∧ (s.modCmd f).arb = s.arb ∧ (s.modCmd f).mgt = s.mgt ∧
    (s.modCmd f).cmd = f s.cmd := by
  and_intros <;> rfl

@[simp] theorem State.modSaf_fields (f : SafState → SafState) :
    (s.modSaf f).pending = s.pending ∧ (s.modSaf f).now = s.now ∧ (s.modSaf f).free = s.free ∧ (s.modSaf f).live = s.live ∧
    (s.modSaf f).regs = s.regs ∧ (s.modSaf f).bus = s.bus ∧ (s.modSaf f).eng = s.eng ∧ (s.modSaf f).waits = s.waits ∧
    (s.modSaf f).meas = s.meas ∧ (s.modSaf f).sar = s.sar ∧ (s.modSaf f).pwm = s.pwm ∧ (s.modSaf f).gdl = s.gdl ∧
    (s.modSaf f).trp = s.trp ∧ (s.modSaf f).clk = s.clk ∧ (s.modSaf f).nt = s.nt ∧ (s.modSaf f).eth = s.eth ∧
    (s.modSaf f).cmd = s.cmd ∧ (s.modSaf f).ops = s.ops ∧ (s.modSaf f).log = s.log ∧ (s.modSaf f).sec = s.sec ∧
    (s.modSaf f).stg = s.stg ∧ (s.modSaf f).acq = s.acq ∧ (s.modSaf f).dma = s.dma ∧ (s.modSaf f).dram = s.dram ∧
    (s.modSaf f).host = s.host ∧ (s.modSaf f).twn = s.twn ∧ (s.modSaf f).arb = s.arb ∧ (s.modSaf f).mgt = s.mgt ∧
    (s.modSaf f).saf = f s.saf := by
  and_intros <;> rfl

@[simp] theorem State.modTwn_fields (f : TwnState → TwnState) :
    (s.modTwn f).pending = s.pending ∧ (s.modTwn f).now = s.now ∧ (s.modTwn f).free = s.free ∧ (s.modTwn f).live = s.live ∧
    (s.modTwn f).regs = s.regs ∧ (s.modTwn f).bus = s.bus ∧ (s.modTwn f).eng = s.eng ∧ (s.modTwn f).waits = s.waits ∧
    (s.modTwn f).meas = s.meas ∧ (s.modTwn f).sar = s.sar ∧ (s.modTwn f).pwm = s.pwm ∧ (s.modTwn f).gdl = s.gdl ∧
    (s.modTwn f).trp = s.trp ∧ (s.modTwn f).saf = s.saf ∧ (s.modTwn f).clk = s.clk ∧ (s.modTwn f).nt = s.nt ∧
    (s.modTwn f).eth = s.eth ∧ (s.modTwn f).cmd = s.cmd ∧ (s.modTwn f).ops = s.ops ∧ (s.modTwn f).log = s.log ∧
    (s.modTwn f).sec = s.sec ∧ (s.modTwn f).stg = s.stg ∧ (s.modTwn f).acq = s.acq ∧ (s.modTwn f).dma = s.dma ∧
    (s.modTwn f).dram = s.dram ∧ (s.modTwn f).host = s.host ∧ (s.modTwn f).arb = s.arb ∧ (s.modTwn f).mgt = s.mgt ∧
    (s.modTwn f).twn = f s.twn := by
  and_intros <;> rfl

@[simp] theorem State.modMgt_fields (f : MgtState → MgtState) :
    (s.modMgt f).pending = s.pending ∧ (s.modMgt f).now = s.now ∧ (s.modMgt f).free = s.free ∧ (s.modMgt f).live = s.live ∧
    (s.modMgt f).regs = s.regs ∧ (s.modMgt f).bus = s.bus ∧ (s.modMgt f).eng = s.eng ∧ (s.modMgt f).waits = s.waits ∧
    (s.modMgt f).meas = s.meas ∧ (s.modMgt f).sar = s.sar ∧ (s.modMgt f).pwm = s.pwm ∧ (s.modMgt f).gdl = s.gdl ∧
    (s.modMgt f).trp = s.trp ∧ (s.modMgt f).saf = s.saf ∧ (s.modMgt f).clk = s.clk ∧ (s.modMgt f).nt = s.nt ∧
    (s.modMgt f).eth = s.eth ∧ (s.modMgt f).cmd = s.cmd ∧ (s.modMgt f).ops = s.ops ∧ (s.modMgt f).log = s.log ∧
    (s.modMgt f).sec = s.sec ∧ (s.modMgt f).stg = s.stg ∧ (s.modMgt f).acq = s.acq ∧ (s.modMgt f).dma = s.dma ∧
    (s.modMgt f).dram = s.dram ∧ (s.modMgt f).host = s.host ∧ (s.modMgt f).twn = s.twn ∧ (s.modMgt f).arb = s.arb ∧
    (s.modMgt f).mgt = f s.mgt := by
  and_intros <;> rfl

@[simp] theorem State.modBus_fields (f : BusState → BusState) :
    (s.modBus f).pending = s.pending ∧ (s.modBus f).now = s.now ∧ (s.modBus f).free = s.free ∧ (s.modBus f).live = s.live ∧
    (s.modBus f).regs = s.regs ∧ (s.modBus f).eng = s.eng ∧ (s.modBus f).waits = s.waits ∧ (s.modBus f).meas = s.meas ∧
    (s.modBus f).sar = s.sar ∧ (s.modBus f).pwm = s.pwm ∧ (s.modBus f).gdl = s.gdl ∧ (s.modBus f).trp = s.trp ∧
    (s.modBus f).saf = s.saf ∧ (s.modBus f).clk = s.clk ∧ (s.modBus f).nt = s.nt ∧ (s.modBus f).eth = s.eth ∧
    (s.modBus f).cmd = s.cmd ∧ (s.modBus f).ops = s.ops ∧ (s.modBus f).log = s.log ∧ (s.modBus f).sec = s.sec ∧
    (s.modBus f).stg = s.stg ∧ (s.modBus f).acq = s.acq ∧ (s.modBus f).dma = s.dma ∧ (s.modBus f).dram = s.dram ∧
    (s.modBus f).host = s.host ∧ (s.modBus f).twn = s.twn ∧ (s.modBus f).arb = s.arb ∧ (s.modBus f).mgt = s.mgt ∧
    (s.modBus f).bus = f s.bus := by
  and_intros <;> rfl

@[simp] theorem State.setReg_fields (r : Reg) (i j : Nat) (v : DWord) :
    (s.setReg r i j v).pending = s.pending ∧ (s.setReg r i j v).now = s.now ∧ (s.setReg r i j v).free = s.free ∧
    (s.setReg r i j v).live = s.live ∧ (s.setReg r i j v).bus = s.bus ∧ (s.setReg r i j v).eng = s.eng ∧
    (s.setReg r i j v).waits = s.waits ∧ (s.setReg r i j v).meas = s.meas ∧ (s.setReg r i j v).sar = s.sar ∧
    (s.setReg r i j v).pwm = s.pwm ∧ (s.setReg r i j v).gdl = s.gdl ∧ (s.setReg r i j v).trp = s.trp ∧
    (s.setReg r i j v).saf = s.saf ∧ (s.setReg r i j v).clk = s.clk ∧ (s.setReg r i j v).nt = s.nt ∧
    (s.setReg r i j v).eth = s.eth ∧ (s.setReg r i j v).cmd = s.cmd ∧ (s.setReg r i j v).ops = s.ops ∧
    (s.setReg r i j v).log = s.log ∧ (s.setReg r i j v).sec = s.sec ∧ (s.setReg r i j v).stg = s.stg ∧
    (s.setReg r i j v).acq = s.acq ∧ (s.setReg r i j v).dma = s.dma ∧ (s.setReg r i j v).dram = s.dram ∧
    (s.setReg r i j v).host = s.host ∧ (s.setReg r i j v).twn = s.twn ∧ (s.setReg r i j v).arb = s.arb ∧
    (s.setReg r i j v).mgt = s.mgt ∧ (s.setReg r i j v).regs = regSet s.regs r i j v := by
  and_intros <;> rfl

@[simp] theorem State.setRegN_fields (r : Reg) (i j v : Nat) :
    (s.setRegN r i j v).pending = s.pending ∧ (s.setRegN r i j v).now = s.now ∧ (s.setRegN r i j v).free = s.free ∧
    (s.setRegN r i j v).live = s.live ∧ (s.setRegN r i j v).bus = s.bus ∧ (s.setRegN r i j v).eng = s.eng ∧
    (s.setRegN r i j v).waits = s.waits ∧ (s.setRegN r i j v).meas = s.meas ∧ (s.setRegN r i j v).sar = s.sar ∧
    (s.setRegN r i j v).pwm = s.pwm ∧ (s.setRegN r i j v).gdl = s.gdl ∧ (s.setRegN r i j v).trp = s.trp ∧
    (s.setRegN r i j v).saf = s.saf ∧ (s.setRegN r i j v).clk = s.clk ∧ (s.setRegN r i j v).nt = s.nt ∧
    (s.setRegN r i j v).eth = s.eth ∧ (s.setRegN r i j v).cmd = s.cmd ∧ (s.setRegN r i j v).ops = s.ops ∧
    (s.setRegN r i j v).log = s.log ∧ (s.setRegN r i j v).sec = s.sec ∧ (s.setRegN r i j v).stg = s.stg ∧
    (s.setRegN r i j v).acq = s.acq ∧ (s.setRegN r i j v).dma = s.dma ∧ (s.setRegN r i j v).dram = s.dram ∧
    (s.setRegN r i j v).host = s.host ∧ (s.setRegN r i j v).twn = s.twn ∧ (s.setRegN r i j v).arb = s.arb ∧
    (s.setRegN r i j v).mgt = s.mgt ∧ (s.setRegN r i j v).regs = regSet s.regs r i j (BitVec.ofNat 64 v) := by
  and_intros <;> rfl

@[simp] theorem State.count_fields (r : Reg) (i n : Nat) :
    (s.count r i n).pending = s.pending ∧ (s.count r i n).now = s.now ∧ (s.count r i n).free = s.free ∧
    (s.count r i n).live = s.live ∧ (s.count r i n).bus = s.bus ∧ (s.count r i n).eng = s.eng ∧
    (s.count r i n).waits = s.waits ∧ (s.count r i n).meas = s.meas ∧ (s.count r i n).sar = s.sar ∧
    (s.count r i n).pwm = s.pwm ∧ (s.count r i n).gdl = s.gdl ∧ (s.count r i n).trp = s.trp ∧ (s.count r i n).saf = s.saf ∧
    (s.count r i n).clk = s.clk ∧ (s.count r i n).nt = s.nt ∧ (s.count r i n).eth = s.eth ∧ (s.count r i n).cmd = s.cmd ∧
    (s.count r i n).ops = s.ops ∧ (s.count r i n).log = s.log ∧ (s.count r i n).sec = s.sec ∧ (s.count r i n).stg = s.stg ∧
    (s.count r i n).acq = s.acq ∧ (s.count r i n).dma = s.dma ∧ (s.count r i n).dram = s.dram ∧
    (s.count r i n).host = s.host ∧ (s.count r i n).twn = s.twn ∧ (s.count r i n).arb = s.arb ∧
    (s.count r i n).mgt = s.mgt ∧
    (s.count r i n).regs = regSet s.regs r i 0 (BitVec.ofNat 64 (min ((s.reg r i 0).toNat + n) 0xFFFFFFFF)) := by
  and_intros <;> rfl

@[simp] theorem State.hostWrite_fields (a : Nat) (b : Bytes) :
    (s.hostWrite a b).pending = s.pending ∧ (s.hostWrite a b).now = s.now ∧ (s.hostWrite a b).free = s.free ∧
    (s.hostWrite a b).live = s.live ∧ (s.hostWrite a b).regs = s.regs ∧ (s.hostWrite a b).bus = s.bus ∧
    (s.hostWrite a b).eng = s.eng ∧ (s.hostWrite a b).waits = s.waits ∧ (s.hostWrite a b).meas = s.meas ∧
    (s.hostWrite a b).sar = s.sar ∧ (s.hostWrite a b).pwm = s.pwm ∧ (s.hostWrite a b).gdl = s.gdl ∧
    (s.hostWrite a b).trp = s.trp ∧ (s.hostWrite a b).saf = s.saf ∧ (s.hostWrite a b).clk = s.clk ∧
    (s.hostWrite a b).nt = s.nt ∧ (s.hostWrite a b).eth = s.eth ∧ (s.hostWrite a b).cmd = s.cmd ∧
    (s.hostWrite a b).ops = s.ops ∧ (s.hostWrite a b).log = s.log ∧ (s.hostWrite a b).sec = s.sec ∧
    (s.hostWrite a b).stg = s.stg ∧ (s.hostWrite a b).acq = s.acq ∧ (s.hostWrite a b).dma = s.dma ∧
    (s.hostWrite a b).dram = s.dram ∧ (s.hostWrite a b).twn = s.twn ∧ (s.hostWrite a b).arb = s.arb ∧
    (s.hostWrite a b).mgt = s.mgt ∧ (s.hostWrite a b).host = memWrite s.host a b := by
  and_intros <;> rfl

/-! ### Numbers of a vector -/

theorem vget_vset_same {α : Type} {n : Nat} (v : Vector α n) (i : Nat) (x d : α) (h : i < n) : vget (vset v i x) i d = x := by
  simp [vget, vset, h]

theorem vget_vset_other {α : Type} {n : Nat} (v : Vector α n) (i k : Nat) (x d : α) (h : k ≠ i) :
    vget (vset v i x) k d = vget v k d := by
  simp [vget, vset, Ne.symm h]

/-! ### Parts by number -/

theorem State.engN_modEng_same (k : Nat) (f : Engine → Engine) (h : k < 8) : (s.modEng k f).engN k = f (s.engN k) :=
  vget_vset_same _ _ _ _ h

theorem State.engN_modEng_other (k j : Nat) (f : Engine → Engine) (h : j ≠ k) : (s.modEng k f).engN j = s.engN j :=
  vget_vset_other _ _ _ _ _ h

theorem State.tb_modTb_same (k : Nat) (f : Timebase → Timebase) (h : k < 16) : (s.modTb k f).tb k = f (s.tb k) :=
  vget_vset_same _ _ _ _ h

theorem State.tb_modTb_other (k j : Nat) (f : Timebase → Timebase) (h : j ≠ k) : (s.modTb k f).tb j = s.tb j :=
  vget_vset_other _ _ _ _ _ h

theorem State.chan_modChan_same (k : Nat) (f : Chan → Chan) (h : k < 192) : (s.modChan k f).chan k = f (s.chan k) :=
  vget_vset_same _ _ _ _ h

theorem State.chan_modChan_other (k j : Nat) (f : Chan → Chan) (h : j ≠ k) : (s.modChan k f).chan j = s.chan j :=
  vget_vset_other _ _ _ _ _ h

theorem State.zone_modZone_same (k : Nat) (f : Zone → Zone) (h : k < 16) : (s.modZone k f).zone k = f (s.zone k) :=
  vget_vset_same _ _ _ _ h

theorem State.zone_modZone_other (k j : Nat) (f : Zone → Zone) (h : j ≠ k) : (s.modZone k f).zone j = s.zone j :=
  vget_vset_other _ _ _ _ _ h

theorem State.gs_modGs_same (k : Nat) (f : GdlStack → GdlStack) (h : k < 16) : (s.modGs k f).gs k = f (s.gs k) :=
  vget_vset_same _ _ _ _ h

theorem State.gs_modGs_other (k j : Nat) (f : GdlStack → GdlStack) (h : j ≠ k) : (s.modGs k f).gs j = s.gs j :=
  vget_vset_other _ _ _ _ _ h

theorem State.dec_modDec_same (k : Nat) (f : DecChan → DecChan) (h : k < 160) : (s.modDec k f).dec k = f (s.dec k) :=
  vget_vset_same _ _ _ _ h

theorem State.dec_modDec_other (k j : Nat) (f : DecChan → DecChan) (h : j ≠ k) : (s.modDec k f).dec j = s.dec j :=
  vget_vset_other _ _ _ _ _ h

theorem State.acqN_modAcq_same (k : Nat) (f : AcqUnit → AcqUnit) (h : k < 8) : (s.modAcq k f).acqN k = f (s.acqN k) :=
  vget_vset_same _ _ _ _ h

theorem State.acqN_modAcq_other (k j : Nat) (f : AcqUnit → AcqUnit) (h : j ≠ k) : (s.modAcq k f).acqN j = s.acqN j :=
  vget_vset_other _ _ _ _ _ h

theorem State.dmaN_modDma_same (k : Nat) (f : DmaChan → DmaChan) (h : k < 32) : (s.modDma k f).dmaN k = f (s.dmaN k) :=
  vget_vset_same _ _ _ _ h

theorem State.dmaN_modDma_other (k j : Nat) (f : DmaChan → DmaChan) (h : j ≠ k) : (s.modDma k f).dmaN j = s.dmaN j :=
  vget_vset_other _ _ _ _ _ h

theorem State.ring_modRing_same (k : Nat) (f : Ring → Ring) (h : k < 128) : (s.modRing k f).ring k = f (s.ring k) :=
  vget_vset_same _ _ _ _ h

theorem State.ring_modRing_other (k j : Nat) (f : Ring → Ring) (h : j ≠ k) : (s.modRing k f).ring j = s.ring j :=
  vget_vset_other _ _ _ _ _ h

theorem State.rep_modRep_same (k : Nat) (f : Replay → Replay) (h : k < 129) : (s.modRep k f).rep k = f (s.rep k) :=
  vget_vset_same _ _ _ _ h

theorem State.rep_modRep_other (k j : Nat) (f : Replay → Replay) (h : j ≠ k) : (s.modRep k f).rep j = s.rep j :=
  vget_vset_other _ _ _ _ _ h

theorem State.port_modPort_same (k : Nat) (f : EthPort → EthPort) (h : k < 2) : (s.modPort k f).port k = f (s.port k) :=
  vget_vset_same _ _ _ _ h

theorem State.port_modPort_other (k j : Nat) (f : EthPort → EthPort) (h : j ≠ k) : (s.modPort k f).port j = s.port j :=
  vget_vset_other _ _ _ _ _ h

/-! ### Registers -/

theorem regGet_regSet_same {f : RegFile} (h : cellsRise f) (r : Reg) (i j : Nat) (v : DWord) : regGet (regSet f r i j v) r i j = v :=
  cellsRead_write_same h

theorem regGet_regSet_other {f : RegFile} (h : cellsRise f) (r r' : Reg) (i j i' j' : Nat) (v : DWord)
    (ha : regAddr r' i' j' ≠ regAddr r i j) : regGet (regSet f r i j v) r' i' j' = regGet f r' i' j' :=
  cellsRead_write_elsewhere h ha

end Sys2Proof.Machine
end

