-- ==== Sys2Proof/WellFormed.lean ====
section
/-! DEFINITION. Which commands are well formed: operands of the shape that the spec's tables give them. The meanings are total and do not
lean on it. -/

namespace Sys2Proof

open Sys2Proof.Machine

/-- A payload has a length that its opcode takes (Table CMD-16, R488), or that of the two opcodes of the management port. -/
def payloadOk (op : Nat) (p : Bytes) : Bool :=
  match (opRow op).or (portRow op) with
  | some row => row.len.ok p
  | none => false

/-- An offset names the lower word of a 64-bit register that software writes at once (R483). -/
def heldOk (off : Offset) : Bool :=
  match findReg off.toNat with
  | some (r, i, j) => r.row.size = 8 && r.row.acc = .rw && off.toNat = regAddr r i j
  | none => false

/-- An offset lies in a register of RC fields (Table SCO-4). -/
def clearsOk (off : Offset) : Bool :=
  match findReg off.toNat with
  | some (r, _, _) => r.row.acc = .rc
  | none => false

/-- An offset lies in an RWS register (R16). -/
def stagedOk (off : Offset) : Bool :=
  match findReg off.toNat with
  | some (r, _, _) => r.row.acc = .rws
  | none => false

/-- A fetched descriptor has 128 bytes, and its payload no more than 4096 (Table CMD-2, R316). -/
def fetchOk (desc : Option Bytes) (payload : Bytes) : Bool :=
  (match desc with | some d => d.length = 128 | none => true) && payload.length ≤ 4096

/-- A training brings sixteen echo round trips (Table GDL-7). -/
def trainOk (r : TrainResult) : Bool := r.trips.length = 16

/-- A DMA descriptor has 32 bytes (Table ACQ-9). -/
def descOk (b : Bytes) : Bool := b.length = 32

/-- A ring cycle brings at most one word for each of twelve nodes (R204). -/
def cycleOk (words : List Word) : Bool := words.length ≤ 12

/-- A refreshed block has at least 8 corrected bits (R482). -/
def refreshOk (correctedBits : Nat) : Bool := 8 ≤ correctedBits

/-- Is a command well formed? -/
def Instr.wf : Instr → Bool
  | .heldLowerWordWrite off _ => heldOk off
  | .readClear off _ => clearsOk off
  | .rwsStageWrite _ off _ _ => stagedOk off
  | .gfmSetTargets _ p => payloadOk 0x0101 p
  | .gfmSetBreaker _ p => payloadOk 0x0102 p
  | .gfmClearFlags _ p => payloadOk 0x0103 p
  | .frdGraphLoad _ p _ => payloadOk 0x0910 p
  | .frdBankSwap _ p => payloadOk 0x0110 p
  | .frdSatReadClear _ p => payloadOk 0x0801 p
  | .prfSetTarget _ p => payloadOk 0x0120 p
  | .gdlOstRun _ p => payloadOk 0x0802 p
  | .gdlLinkTrain _ p => payloadOk 0x0803 p
  | .trpTrip _ p => payloadOk 0x0601 p
  | .trpClear _ p => payloadOk 0x0602 p
  | .clkReacquire _ p => payloadOk 0x0804 p
  | .ntSet _ p => payloadOk 0x0703 p
  | .ntSporeLoad _ p => payloadOk 0x0701 p
  | .ntSporeCancel _ p => payloadOk 0x0702 p
  | .keyGrant _ p => payloadOk 0x0401 p
  | .keyRetire _ p => payloadOk 0x0402 p
  | .anchorInstall _ p => payloadOk 0x0403 p
  | .anchorRevoke _ p => payloadOk 0x0404 p
  | .plantKeyGrant _ p => payloadOk 0x0405 p
  | .stgToken _ p => payloadOk 0x0201 p
  | .stgWrite _ p => payloadOk 0x0202 p
  | .stgCheck _ p => payloadOk 0x0203 p
  | .stgCommit _ p => payloadOk 0x0204 p
  | .stgSave _ p _ => payloadOk 0x0205 p
  | .opsStart _ p => payloadOk 0x0611 p
  | .opsStop _ p => payloadOk 0x0612 p
  | .logRead _ p => payloadOk 0x0805 p
  | .imgFwLoad _ p _ => payloadOk 0x0901 p
  | .imgFwActivate _ p => payloadOk 0x0902 p
  | .acqArm _ p => payloadOk 0x0301 p
  | .acqTrigger _ p => payloadOk 0x0302 p
  | .acqStop _ p => payloadOk 0x0303 p
  | .stgRecover _ p => payloadOk 0x0206 p
  | .descriptorFetch _ desc payload _ => fetchOk desc payload
  | .linkTrainingComplete _ r => trainOk r
  | .dmaStart _ desc => descOk desc
  | .dmaBurst _ _ nextDesc => nextDesc.isEmpty || descOk nextDesc
  | .dsrRingCycle _ words => cycleOk words
  | .nandRefresh _ bits => refreshOk bits
  | .registerWrite _ _ _ | .captureRead _ _ | .loadPoint _ _ | .engineStart _ | .publish _ | .graphComplete _
  | .engineDeadlineMiss _ | .engineEccError _ _ | .breakerStateAccepted _ _ | .rtExitTimeout _ | .clExitTimeout _
  | .recoveryEnd _ | .fadeEnd _ | .mboxOutCapture _ | .oscDetect _ _ | .oscTimeout _ _ | .decimationDump _
  | .stuckRunStart _ | .stuckRunEnd _ | .linkSourceResume _ | .comparatorActivate _ | .comparatorDeactivate _
  | .fastPathMaskEnd _ | .sequenceTrigger | .urgentRequest _ | .sarConversionDone _ | .timebaseFirstZero _
  | .compareEdge _ _ | .deadTimeExpiry _ | .syncInPulse | .syncInMiss | .innerTurnOff _ | .gaConfirm _ _
  | .ackTimeout _ | .ackMismatch _ | .gcFault _ _ | .fltTrip _ _ | .gdlOstStart _ | .gdlTrain _ | .edgeFrameSend _
  | .loadSend _ | .pullInFrameSend _ | .returnFrame _ _ | .tripInActive _ _ | .clearEvaluation | .trpRecRead
  | .tripClockNtSet | .safetyInputChange _ _ _ | .discrepancy _ | .offPulseStart _ | .offPulseEnd _
  | .readbackCheck _ _ | .crossFault _ | .safetyLockstepMismatch | .psetMismatchTimeout | .referenceComparison _ _ _
  | .referenceLost | .adpllLockTimeout | .tcxoLoss | .outputRestart | .ntIncrWrite _ | .ntValidSet | .ntValidClr
  | .sporeDue | .sporeExecute | .ntSporeRecRead | .ppsOutPulse | .ethFrameReceive _ _ _ | .ethFrameTransmit _
  | .ethTxtsRead _ | .ptmPublish | .ptmHoldoffEnd | .ptmReceive _ | .ptmSenderExpiry _ | .doorbell _ _
  | .cqHeadWrite _ _ | .payloadReadFail _ _ | .workItemDispatch _ | .parse _ | .verify _ | .place _
  | .commandTimeout _ _ | .ringEnable _ | .ringDisable _ | .ringDrained _ | .grantUnwrap _ | .tamperDetection _
  | .tokenLeaseExpiry | .commitApply | .opsArm _ | .opsDisarm _ | .opsHalt _ | .armLost | .offSequenceComplete
  | .watchdogExpiry | .coreLockstepMismatch | .memEccError | .regulatorFault | .powerOnResetRelease _ | .bootComplete _
  | .selftestComplete _ | .vinLoss | .holdUpEnd | .vmgtLoss | .logFlush | .acqPostComplete _ | .acqHeaderWritten _
  | .acqRearm _ | .acqSegFree _ _ | .dmaAbort _ | .dmaAbortComplete _ | .dmaDescTailWrite _ _ | .dmaRunStart _
  | .dmaFlushTimeout _ | .dmaHostError _ _ _ | .hbPulse | .roleInPulse _ | .arbLost | .ownNChange _ | .periodFrameSend
  | .periodFrameReceive _ | .twinFrameDeadline | .itemFrameReceive _ | .rhizomeTraining _ | .twnResync _
  | .resyncComplete | .twnResyncTimeout | .roleSwapRequest | .roleSwapCheck | .haltHoldExpiry | .arbiterHbTimeout _
  | .arbiterBbmExpiry | .arbiterSwapReq _ | .mctpPacket _ _ | .setEndpointId _ | .getEndpointId
  | .getMctpVersionSupport | .getMessageTypeSupport | .getVendorDefinedMessageSupport | .getStatus _ | .getLog _ _
  | .getSlots _ | .putBlock _ _ | .getReplay _ | .getIdentity _ _ | .command _ _ | .opsMainReset _ | .modulatorTick _ _
  | .extTrigEdge | .vmgtPowerUp _ | .arbiterHbPulse _ _ | .resyncFrameReceive _ | .rhizomeBlockLockLoss
  | .ethLinkChange _ _ _ _ | .supervisionFrameSend | .safetyClockFault _ | .fwImageWriteComplete
  | .configBlockWriteComplete => true

end Sys2Proof
end

