-- ==== Sys2Proof/Tests/Slice0.lean ====
section
/-! SUPPORT. Tests: terms that each check of well-formedness refuses, a state and operands that meet the premises of each clause of each
statement together, and single steps with their results taken from the spec. -/

set_option Elab.async false

namespace Sys2Proof.Tests

open Sys2Proof Sys2Proof.Machine

/-! ### Small states -/

def z : State := State.reset

/-- A command of ring 0, and one of the management port. -/
def src : Src := { ring := 0, seq := 1, applyAt := 0, keyId := 0, irq := false }
def msrc : Src := { ring := 128, seq := 1, applyAt := 0, keyId := 0, irq := false }

/-- A command has been accepted with these bytes and is to act. -/
def given (c : Src) (op : Nat) (p : Bytes) (s : State) : State :=
  if c.ring.val = 128 then s.modMgt fun m => { m with cmd := some { reqId := 0, cmd := { src := c, opcode := op, payload := p } } }
  else s.modCmd fun x => { x with handed := [{ src := c, opcode := op, payload := p }] }

/-- Live registers set: register, instance and value. -/
def cfg (l : List (Reg × Nat × Nat)) (s : State) : State :=
  { s with live := l.foldl (fun f x => regSet f x.1 x.2.1 0 (BitVec.ofNat 64 x.2.2)) s.live }

/-- Other registers set. -/
def rgs (l : List (Reg × Nat × Nat)) (s : State) : State :=
  { s with regs := l.foldl (fun f x => regSet f x.1 x.2.1 0 (BitVec.ofNat 64 x.2.2)) s.regs }

def ost (o : OpState) (s : State) : State := s.modOps fun x => { x with st := o }
def pay (l : List Nat) : Bytes := l.map (BitVec.ofNat 8)
def held : State := z.modStg fun g => { g with token := some .host }
def linked : State := cfg [(.stgDeviceCfg, 0, 0x010001)] z
def direct : State := cfg [(.stgDeviceCfg, 0, 0x010000)] z
def pairOf : State := cfg [(.stgDeviceCfg, 0, 0x010004)] z

def adr (r : Reg) (i j : Nat) : Offset := BitVec.ofNat 22 (regAddr r i j)

/-- An STG_WRITE payload of one entry. -/
def entry (off v : Nat) : Bytes := leBytes 2 1 ++ leBytes 6 0 ++ leBytes 4 off ++ leBytes 4 v
def pend : PendCommit := { src := src, addr := 0, cap := 0, engine := 0, applyAt := 0, acceptAt := 0, takeIdx := none }
/-- A configuration that every rule passes. -/
def good : RegFile :=
  ([(.clkOut, 2, 0x800000A0), (.decGrpEn, 0, 1), (.pwmPrd, 0, 25000), (.ethCtrl, 0, 0x010000), (.pwmTbCtrl, 0, 1)]
    ++ (List.range 32).map (fun n => (.dmaChCfg, n, 0x00100000 + if n < 3 then n + 2 else 0))
    ++ (List.range 4).map (fun k => (.safInCfg, k, 0x010200)) ++ (List.range 16).map (fun t => (.pwmTol, t, 20))
    ++ (List.range 8).map (fun c => (.decFilt, c, 1)) : List (Reg × Nat × Nat)).foldl
    (fun f x => regSet f x.1 x.2.1 0 (BitVec.ofNat 64 x.2.2)) []
def dirty : State := (ost .idle (rgs [(.schCtrl, 0, 0x200)] held)).modStg fun g => { g with st := .dirty, stage := good }
def badStage : State := held.modStg fun g => { g with st := .dirty, stage := regSet [] .pwmPrd 0 0 0 }
def fails (s : State) : List FailEntry := s.checkAll s.stg.stage s.stg.images
/-- The commit of `pend` waits and its instant has come. -/
def due (s : State) : State := s.modStg fun g => { g with pendings := [pend] }
def fw : Bytes := leBytes 4 0x4D574946 ++ leBytes 2 1 ++ pay (List.replicate 54 0) ++ leBytes 4 64
def fwSlots : State := z.modOps fun o => { o with slot0 := { svn := 1 } }
def ran (e : Nat) (f : Engine → Engine) (s : State) : State := ost .running (s.modEng e fun n => f { n with executing := true })
def blank : Image :=
  { kind := 0, nStacks := 1, imageId := 0, version := 0, signals := 0, stateBytes := 0, costCrit := 0, costTotal := 0, tcMin := 0, tcMax := 0
    blocks := [], params := [], consts := [], initSig := [], initState := [] }
/-- One stack in direct mode, served by an engine with a graph, tested, on a locked clock, with both channels of safe gate inhibit
releasing. -/
def ready : State :=
  { (ost .idle (cfg [(.stgDeviceCfg, 0, 0x010000), (.frdCtrl, 0, 1)] z)).modEng 0 fun n => { n with image := some blank } with
    saf := { chA := { rel := true }, chB := { rel := true } }
    clk := { st := .locked }
    gdl := { stk := vset (Vector.replicate 16 {}) 0 { ost := .passed } } }
def cfgWrite (r : Bool) : CfgWrite := { src := src, block := { version := 1, bytes := [] }, recover := r }
def chan159 (l : List (Reg × Nat × Nat)) : State := cfg ([(.decGrpEn, 0, 0xFFFFF), (.decSrc, 159, 0x100), (.trpCmpThr, 159, 0x0001FFFF)] ++ l) z
def dec159 (d : DecChan) : State := (chan159 []).modDec 159 fun _ => d
def sar : State := cfg [(.adcCtrl, 0, 0x1000), (.adcSlot, 15, 0x100)] z
/-- Eight stacks in direct mode with twelve nodes on the last one. -/
def eight : State := cfg [(.stgDeviceCfg, 0, 0x080000), (.gdlStkCfg, 7, 0xC00)] z
/-- One stack in link mode with a trained link and a running timebase. -/
def framing (f : GdlStack → GdlStack) : State :=
  ((cfg [(.gdlCtrl, 0, 3)] linked).modGs 0 fun g => f { g with link := .trained }).modTb 0 fun b => { b with run := .running }
def clr : ClearReq := { src := src, mask := 1, rings := [], links := [] }
def clk (k : ClkLoop) (s : State) : State := { s with clk := { st := k } }
def spore (a : Nat) : DueSlot :=
  { slot := 0xFF, spore := { action := a, lateOk := false, late := false, instant := 0, args := pay [1], acceptAt := 0, wroteAt := 0 }, same := false }
/-- One batch of one spore of action `a` is due. -/
def batch (a : Nat) (s : State) : State := { s with nt := { batches := [[spore a]] } }
def twin (f : TwnState → TwnState) : State := pairOf.modTwn f
def led : State := twin fun t => { t with role := true, link := .up }
def standby : State := twin fun t => { t with link := .up }
def syncing : State := twin fun t => { t with link := .up, resync := true }
def eth (l : List (Reg × Nat × Nat)) (e : EthState) : State := { cfg ([(.ethPortCfg, 1, 1)] ++ l) z with eth := e }
def prp : Bytes := pay (List.replicate 54 0 ++ [0, 0, 0xA0, 0, 0x88, 0xFB])
/-- A PTP message to a group address with the trailer of LAN A. -/
def ptp : Bytes := pay ([1] ++ List.replicate 11 0 ++ [0x88, 0xF7] ++ List.replicate 40 0 ++ [0, 0, 0xA0, 0, 0x88, 0xFB])
def plantKey : PlantKey := { keyId := 0, epoch := 0, key := [], from_ := 0, expiry := 1, grantor := 8 }
def ev : PtmEvent := { cause := 1, trigNt := 0, detail := 0 }
def runs (r : Nat) (q : Ring → Ring) : State := ost .idle ((rgs [(.cmdRingCfg, r, 4)] z).modRing r fun x => q { x with st := .running })
/-- A descriptor without payload, inline, under a session key. -/
def desc (op seq : Nat) : Bytes := leBytes 2 op ++ pay [1, 1, 0, 0, 0, 0] ++ leBytes 8 seq ++ pay (List.replicate 112 0)
def fl (k : WorkKind) (d p : Bytes) : Flight :=
  { no := 1, ring := 0, desc := d, payload := p, sig := [], work := k, dbAt := 0, deadline := 0 }
def works (f : Flight) (s : State) : State :=
  s.modCmd fun c => { c with flights := [f], units := vset c.units 1 (some { level := 0, kind := f.work, no := 1 }) }
/-- Ring 0 with a session key that is in force. -/
def keyed (s : State) : State :=
  (s.modSec fun x => { x with targetId := 0 }).modRep 0 fun r => { r with key := some { keyId := 0, key := [], from_ := 0, expiry := 1, grantor := 8 } }
def placing (op seq : Nat) (p : Bytes) : Flight := fl .place (desc op seq) p
def grantPay (kind : Nat) : Bytes := pay [kind, 1, 0, 0, 1] ++ pay (List.replicate 1291 0)
def named (s : State) : State := s.modSec fun x => { x with uid := 0 }
def grant (plant erased : Bool) : PendGrant := { src := src, plant := plant, ring := 0, payload := grantPay 1, grantor := 8, erased := erased }
def owned (l : List Nat) : State :=
  z.modSec fun x => { x with anchors := Vector.ofFn fun (k : Fin 16) => if l.contains k.val then Anchor.make k.val 1 [] [] else {} }
/-- Lane 0 unwraps a grant. -/
def unwraps (g : PendGrant) (s : State) : State :=
  (s.modSec fun x => { x with grants := [g] }).modCmd fun c => { c with units := vset c.units 3 (some { level := 0, kind := .unwrap, no := g.no }) }
def acq (f : AcqUnit → AcqUnit) : State := z.modAcq 7 f
def dmaDesc (n : Nat) : DmaDesc := { src := 0, dst := 0, len := n, flags := 0, rsv := [] }
def toDram (n : Nat) : DmaDesc := { src := 0, dst := 0x1000000000, len := n, flags := 2, rsv := [] }
def dma (f : DmaChan → DmaChan) : State := z.modDma 31 f
def arb (p0 p1 : ArbPort) (b : Option (Fin 2 × Nat)) : State :=
  { z with arb := { strapped := true, ports := vset (vset (Vector.replicate 2 {}) 0 p0) 1 p1, bbm := b } }
def gone : State := z.modMgt fun m => { m with vmgt := false }
def snap : EngineSnap :=
  { idx := 0, signals := [], bst := [], cross := [], bankB := false, brkCmd := false, fade := none, prf := [], gfm := {} }

def box : MboxEntry := { opcode := 0x0110, src := src, cls := 0, reserved := false, acceptAt := 0, takeIdx := none, payload := [] }
def itemFrame (op : Nat) : Bytes := withCrc32c (pay [2, 0, 48, 0, 1] ++ pay (List.replicate 15 0) ++ leBytes 2 op ++ pay (List.replicate 22 0))
def synced : State := syncing.modTwn fun t => { t with resyncGot := 7, equalRun := 16 }

/-- The bytes of the shortest PERIOD frame in four parts, and the frame. -/
def part0 : Bytes := pay ([1, 0, 132, 0] ++ List.replicate 28 0)
def part1 : Bytes := pay (List.replicate 32 0)
def crcStep (l : Bytes) (x : Nat) : Nat := (l.flatMap fun b => (bitsMsb b).reverse).foldl (crcBitLsb 0x82F63B78) x
def periodFrame : Bytes := (part0 ++ (part1 ++ (part1 ++ part1))) ++ pay [179, 138, 77, 87]

theorem crc_append (a b : Bytes) (x : Nat) : crcStep (a ++ b) x = crcStep b (crcStep a x) := by
  simp only [crcStep, List.flatMap_append, List.foldl_append]

theorem period_step0 : crcStep part0 0xFFFFFFFF = 3879650128 := by decide +kernel
theorem period_step1 : crcStep part1 3879650128 = 3751096356 := by decide +kernel
theorem period_step2 : crcStep part1 3751096356 = 1467821691 := by decide +kernel
theorem period_step3 : crcStep part1 1467821691 = 2830267724 := by decide +kernel

theorem crc_of (l : Bytes) (x : Nat) (h : crcStep l 0xFFFFFFFF = x) : crc32c l = x ^^^ 0xFFFFFFFF := by
  unfold crc32c
  unfold crcStep at h
  rw [h]

theorem crc_ok_of (l tail : Bytes) (h : crc32c l = leNat tail) (n : tail.length = 4) : crc32cOk (l ++ tail) = true := by
  unfold crc32cOk
  simp [n, h]

theorem period_body : crcStep (part0 ++ (part1 ++ (part1 ++ part1))) 0xFFFFFFFF = 2830267724 :=
  (crc_append _ _ _).trans <| (congrArg _ period_step0).trans <| (crc_append _ _ _).trans <| (congrArg _ period_step1).trans <|
    (crc_append _ _ _).trans <| (congrArg _ period_step2).trans period_step3

theorem period_crc : crc32cOk periodFrame = true :=
  crc_ok_of _ _ ((crc_of _ _ period_body).trans (by decide +kernel)) (by decide +kernel)
/-- Channel 159 reads bit 7 of the trained link of stack 15, whose bits come again. -/
def linkSource : State :=
  { ((cfg [(.decSrc, 159, 0x27F)] z).modGs 15 fun g => { g with link := .trained }) with
    meas := { chans := vset (Vector.replicate 160 {}) 159 { srcDown := true }, linkBits := vset (Vector.replicate 16 []) 15 [(0, 0)] } }
/-- Every free mailbox entry of engine 7 is taken. -/
def full : State := z.modEng 7 fun n => { n with inbox := List.replicate 8 box }
/-- An MCTP packet written to the device's address: its bytes after the SMBus header. -/
def mctpOf (l : Bytes) : Bytes := pay [2 * z.lv .mgtCfg 0 0 6 0, 0x0F, l.length + 1, 1] ++ l
def asm0 : MctpAsm := { peer := mctpFrom (mctpOf (pay [1, 0, 0, 0x10, 0])), seq := 0, data := [] }
def assembling : State := z.modMgt fun m => { m with asm := some asm0 }

/-- A stage that has been checked, equal to the live configuration. -/
def checkedStage : State := held.modStg fun g => { g with st := .checked }
/-- Anchors in slots 0 and 8, and with them the token of the stage, or a plant key. -/
def trusted : State := owned [0, 8]
def trustedHeld : State := trusted.modStg fun g => { g with token := some .host }
def granting : State := unwraps (grant false false) (named z)
def listening : State := { cfg [(.ntPtmCtrl, 0, 2)] z with sec := { plant := vset (Vector.replicate 4 none) 3 (some plantKey) } }
/-- A command of the management port without bytes. -/
def asked : MgtCmd := { reqId := 0, cmd := { src := msrc, opcode := 0, payload := [] } }
/-- Detector input 15 of engine 7 is enabled, with the widest band. -/
def oscRegs : RegFile := regSet (regSet (regSet [] .frdOscCtrl 7 0 0x8000) .frdOscAct 7 0 0) .frdOscBand 7 0 0xFFFF0000

/-- The state after reset with no anchor installed. -/
def plain : State := { z with sec := { anchors := Vector.replicate 16 {} } }

/-! ### Well-formedness: a term that each check refuses -/

def zeros (n : Nat) : Bytes := List.replicate n 0

/-- Commands with a payload of a length that Table CMD-16 does not give them. -/
def badPayloads : List Instr :=
  [.gfmSetTargets src (zeros 25), .gfmSetBreaker src (zeros 2), .gfmClearFlags src (zeros 2), .frdGraphLoad src (zeros 21) none,
   .frdBankSwap src (zeros 5), .frdSatReadClear src (zeros 17), .prfSetTarget src (zeros 9), .gdlOstRun src (zeros 3),
   .gdlLinkTrain src (zeros 3), .trpTrip src (zeros 3), .trpClear src (zeros 3), .clkReacquire src (zeros 2), .ntSet src (zeros 21),
   .ntSporeLoad src (zeros 49), .ntSporeCancel src (zeros 33), .keyGrant src (zeros 0), .keyRetire src (zeros 0),
   .anchorInstall src (zeros 0), .anchorRevoke src (zeros 0), .plantKeyGrant src (zeros 0), .stgToken src (zeros 9),
   .stgWrite src (zeros 0), .stgCheck src (zeros 19), .stgCommit src (zeros 19), .stgSave src (zeros 21) none,
   .opsStart src (zeros 2), .opsStop src (zeros 2), .logRead src (zeros 17), .imgFwLoad src (zeros 21) none,
   .imgFwActivate src (zeros 3), .acqArm src (zeros 2), .acqTrigger src (zeros 3), .acqStop src (zeros 3), .stgRecover src (zeros 0)]

theorem test_wf_refuses_payload_lengths : (badPayloads.all fun i => !i.wf) = true := by decide +kernel
theorem test_wf_refuses_a_narrow_register_held : (Instr.heldLowerWordWrite (adr .pwmPrd 0 0) 0).wf = false := by decide +kernel
theorem test_wf_refuses_an_upper_word_held : (Instr.heldLowerWordWrite (adr .cmdSqBase 0 0 + 4) 0).wf = false := by decide +kernel
theorem test_wf_refuses_clearing_a_plain_register : (Instr.readClear (adr .glbScratch 0 0) .w32).wf = false := by decide +kernel
theorem test_wf_refuses_staging_a_plain_register : (Instr.rwsStageWrite .host (adr .glbScratch 0 0) .w32 0).wf = false := by
  decide +kernel
theorem test_wf_refuses_a_short_descriptor : (Instr.descriptorFetch 0 (some (zeros 127)) [] []).wf = false := by decide +kernel
theorem test_wf_refuses_fifteen_round_trips :
    (Instr.linkTrainingComplete 0 { locked := true, reversed := false, stackId := 0, trips := List.replicate 15 0, tta := 0 }).wf = false := by
  decide +kernel
theorem test_wf_refuses_a_short_dma_descriptor : (Instr.dmaStart 0 (zeros 31)).wf = false := by decide +kernel
theorem test_wf_refuses_a_short_next_descriptor : (Instr.dmaBurst 0 [] (zeros 31)).wf = false := by decide +kernel
theorem test_wf_refuses_thirteen_ring_words : (Instr.dsrRingCycle 0 (List.replicate 13 0)).wf = false := by decide +kernel
theorem test_wf_refuses_a_refresh_of_seven_bits : (Instr.nandRefresh 0 7).wf = false := by decide +kernel
theorem test_wf_takes_a_plain_command : (Instr.trpTrip src (pay [1, 0])).wf = true := by decide +kernel

/-! ### The table's words: no row of the table of operations has bits -/

theorem test_no_row_has_bits (n w : Nat) : decodeTableWord n w = none := rfl

/-! ### Premises: for each statement, a state and operands that meet those of each clause together -/

theorem witness_StepKeepsTheDeviceSound : ∃ s t : State, s.Sound ∧ step s = .next t :=
  ⟨plain, _, ⟨fun n _ => by
        have h : ∀ m, (plain.chan m).gc = false := fun m => by
          unfold State.chan vget plain z State.reset
          simp only [Vector.getElem?_replicate]
          split <;> rfl
        exact h _,
      ⟨by decide +kernel, by decide +kernel, by decide +kernel, by decide +kernel⟩,
      by unfold State.storesCanonical cellsRise; decide +kernel,
      fun k => by
        unfold State.anchor vget plain
        simp only [Vector.getElem?_replicate]
        split <;> exact Nat.zero_le _⟩, rfl⟩

theorem witness_CommandsKeepTheRootOfTrust : ∃ t, exec (.anchorInstall src (pay [15, 1])) (given src 0x0403 (pay [15, 1]) (owned [])) = .next t := ⟨_, rfl⟩

theorem witness_CommandsChangeOnlyTheirParts : ∃ t, exec .ntValidSet z = .next t := ⟨_, rfl⟩

theorem witness_StepRunsTheFrontCommand :
    ∃ (c : Instr) (rest : List Instr) (s : State), s.pending = c :: rest :=
  ⟨.vinLoss, [], { z with pending := [.vinLoss] }, by decide +kernel⟩

theorem witness_IdleStepIsOneTick :
    ∃ (s : State), s.pending = [] :=
  ⟨z, by decide +kernel⟩

theorem witness_AccessesFollowTheRegisterTable :
    (∃ (off : Offset) (r : Reg) (i : Nat) (j : Nat) (s : State), s.storesCanonical ∧ r ∈ plainRw ∧ atReg off r i j)
    ∧ (∃ (off : Offset) (r : Reg) (i : Nat) (j : Nat) (s : State), s.storesCanonical ∧ r.row.acc = .w1c ∧ atReg off r i j)
    ∧ (∃ (off : Offset) (r : Reg) (i : Nat) (j : Nat), (r.row.acc = .ro ∨ r.row.acc = .rc) ∧ atReg off r i j)
    ∧ (∃ (off : Offset) (r : Reg) (i : Nat) (j : Nat) (s : State), s.storesCanonical ∧ (r = .cmdSqBase ∨ r = .cmdCqBase) ∧ (s.ring i).st =
        .disabled ∧ atReg off r i j ∧ off.toNat % 8 = 0)
    ∧ (∃ (w : AccessWidth) (s : State), s.storesCanonical ∧ (w = .w8 ∨ w = .w16))
    ∧ (∃ (off : Offset) (w : AccessWidth) (s : State), s.storesCanonical ∧ (w = .w32 ∧ off.toNat % 4 ≠ 0 ∨ w = .w64 ∧ off.toNat % 8 ≠ 0))
    ∧ (∃ (off : Offset) (w : AccessWidth) (s : State), s.storesCanonical ∧ (w = .w32 ∧ off.toNat % 4 ≠ 0 ∨ w = .w64 ∧ off.toNat % 8 ≠ 0))
    ∧ (∃ (off : Offset) (s : State), s.storesCanonical ∧ off.toNat % 4 = 0 ∧ assigned off.toNat = false)
    ∧ (∃ (off : Offset) (s : State), s.storesCanonical ∧ off.toNat % 4 = 0 ∧ assigned off.toNat = false)
    ∧ (∃ (off : Offset) (w : AccessWidth) (x : Word) (n : Nat) (s : State), (w = .w8 ∧ n = 1 ∨ w = .w16 ∧ n = 2 ∧ off.toNat % 4 ≤ 2) ∧
        s.wordView (off.toNat / 4 * 4) = some x) :=
  ⟨⟨adr .glbScratch 0 0, .glbScratch, 0, 0, z, by unfold State.storesCanonical cellsRise atReg; decide +kernel⟩,
   ⟨adr .pwmOvl 0 0, .pwmOvl, 0, 0, z, by unfold State.storesCanonical cellsRise atReg; decide +kernel⟩,
   ⟨adr .glbState 0 0, .glbState, 0, 0, by unfold atReg; decide +kernel⟩,
   ⟨adr .cmdSqBase 127 0, .cmdSqBase, 127, 0, z, by unfold State.storesCanonical cellsRise atReg; decide +kernel⟩,
   ⟨.w16, z, by unfold State.storesCanonical cellsRise; decide +kernel⟩,
   ⟨2, .w32, z, by unfold State.storesCanonical cellsRise; decide +kernel⟩,
   ⟨4, .w64, z, by unfold State.storesCanonical cellsRise; decide +kernel⟩,
   ⟨0x3FFFFC, z, by unfold State.storesCanonical cellsRise; decide +kernel⟩,
   ⟨0x3FFFFC, z, by unfold State.storesCanonical cellsRise; decide +kernel⟩,
   ⟨3, .w8, 0x9216, 1, z, by decide +kernel⟩⟩

theorem witness_HeldWordsWriteAWideRegisterWhole :
    (∃ (off : Offset) (r : Reg) (i : Nat) (j : Nat), r.row.size = 8 ∧ r.row.acc = .rw ∧ atReg off r i j)
    ∧ (∃ (off : Offset) (r : Reg) (i : Nat) (j : Nat) (lo : Word) (s : State), s.storesCanonical ∧ (r = .cmdSqBase ∨ r = .cmdCqBase) ∧
        (s.ring i).st = .disabled ∧ atUpper off r i j ∧ (assocGet s.bus.held (regAddr r i j)).getD (wordAt (s.reg r i j) false) = lo) :=
  ⟨⟨adr .cmdSqBase 127 0, .cmdSqBase, 127, 0, by unfold atReg; decide +kernel⟩,
   ⟨adr .cmdCqBase 0 0 + 4, .cmdCqBase, 0, 0, 0, z, by unfold State.storesCanonical cellsRise atUpper; decide +kernel⟩⟩

theorem witness_ReadsCaptureAndClear :
    (∃ (off : Offset) (r : Reg) (i : Nat) (j : Nat), r.row.size = 8 ∧ r ∉ companions ∧ atReg off r i j)
    ∧ (∃ (off : Offset) (r : Reg) (i : Nat) (j : Nat) (w : Word) (s : State), r.row.size = 8 ∧ r ∉ companions ∧ atUpper off r i j ∧
        assocGet s.bus.captures (regAddr r i j) = some w)
    ∧ (∃ (off : Offset) (r : Reg) (i : Nat) (j : Nat) (s : State), r.row.size = 8 ∧ r ∉ companions ∧ atUpper off r i j ∧ assocGet
        s.bus.captures (regAddr r i j) = none)
    ∧ (∃ (off : Offset) (r : Reg) (i : Nat) (j : Nat), r.row.size = 8 ∧ r ∉ companions ∧ atReg off r i j ∧ off.toNat % 8 = 0)
    ∧ (∃ (off : Offset) (r : Reg) (i : Nat) (j : Nat) (s : State), s.storesCanonical ∧ r.row.acc = .rc ∧ atReg off r i j)
    ∧ (∃ (off : Offset) (r : Reg) (i : Nat) (j : Nat), r ∈ companions ∧ atReg off r i j)
    ∧ (∃ (off : Offset) (r : Reg) (i : Nat) (j : Nat), r ∈ companions ∧ r.row.size = 8 ∧ atUpper off r i j)
    ∧ (∃ (off : Offset) (r : Reg) (i : Nat) (j : Nat), r ∈ companions ∧ r.row.size = 8 ∧ atReg off r i j ∧ off.toNat % 8 = 0)
    ∧ (∃ (off : Offset) (e : Fin 8), atReg off .frdMboxOut e 0) :=
  ⟨⟨adr .trpFirstNt 0 0, .trpFirstNt, 0, 0, by unfold atReg; decide +kernel⟩,
   ⟨adr .decOut 159 0 + 4, .decOut, 159, 0, 7, { z with bus := { captures := [(regAddr .decOut 159 0, 7)] } },
     by unfold atUpper; decide +kernel⟩,
   ⟨adr .cmdSqBase 0 0 + 4, .cmdSqBase, 0, 0, z, by unfold atUpper; decide +kernel⟩,
   ⟨adr .ntIncr 0 0, .ntIncr, 0, 0, by unfold atReg; decide +kernel⟩,
   ⟨adr .pwmSyncInCnt 0 0, .pwmSyncInCnt, 0, 0, z, by unfold State.storesCanonical cellsRise atReg; decide +kernel⟩,
   ⟨adr .frdMboxOutIdx 7 0, .frdMboxOutIdx, 7, 0, by unfold atReg; decide +kernel⟩,
   ⟨adr .ntTimeNs64 0 0 + 4, .ntTimeNs64, 0, 0, by unfold atUpper; decide +kernel⟩,
   ⟨adr .glbPeriodNt 0 0, .glbPeriodNt, 0, 0, by unfold atReg; decide +kernel⟩,
   ⟨adr .frdMboxOut 7 0, 7, by unfold atReg; decide +kernel⟩⟩

theorem witness_StagedWritesNeedTheToken :
    (∃ (m : Master) (off : Offset) (r : Reg) (i : Nat) (j : Nat) (s : State), s.storesCanonical ∧ r.row.acc = .rws ∧ (s.holds m = false ∨
        s.stagePending = true) ∧ atReg off r i j)
    ∧ (∃ (m : Master) (off : Offset) (r : Reg) (i : Nat) (j : Nat) (s : State), s.storesCanonical ∧ r.row.acc = .rws ∧ r.row.size = 4 ∧ r ≠
        .frdParam ∧ s.holds m = true ∧ s.stagePending = false ∧ atReg off r i j)
    ∧ (∃ (off : Offset) (r : Reg) (i : Nat) (j : Nat) (s : State), atReg off .stgPeekData 0 0 ∧ findReg (s.reg .stgPeekAddr).toNat = some
        (r, i, j) ∧ (s.reg .stgPeekAddr).toNat = regAddr r i j ∧ r.row.acc = .rws ∧ r ≠ .frdParam) :=
  ⟨⟨.mgmt, adr .pwmPrd 15 0, .pwmPrd, 15, 0, held, by unfold State.storesCanonical cellsRise atReg; decide +kernel⟩,
   ⟨.host, adr .pwmPrd 15 0, .pwmPrd, 15, 0, held, by unfold State.storesCanonical cellsRise atReg; decide +kernel⟩,
   ⟨adr .stgPeekData 0 0, .pwmPrd, 15, 0, rgs [(.stgPeekAddr, 0, regAddr .pwmPrd 15 0)] z, by unfold atReg; decide +kernel⟩⟩

theorem witness_TheTokenIsHeldByOneMaster :
    (∃ (c : Src) (p : Bytes) (s : State), s.storesCanonical ∧ s.admits c 0x0201 p ∧ pb p 0 = 1 ∧ 0 < pf p 4 4 ∧ pf p 4 4 ≤ 3600000 ∧
        (s.stg.token = none ∨ s.holds (masterOf c) = true))
    ∧ (∃ (c : Src) (p : Bytes) (s : State), s.storesCanonical ∧ s.admits c 0x0201 p ∧ pb p 0 = 1 ∧ 0 < pf p 4 4 ∧ pf p 4 4 ≤ 3600000 ∧
        s.stg.token ≠ none ∧ s.holds (masterOf c) = false)
    ∧ (∃ (c : Src) (p : Bytes) (s : State), s.storesCanonical ∧ s.admits c 0x0201 p ∧ (pf p 4 4 = 0 ∨ 3600000 < pf p 4 4) ∧ pb p 0 ≤ 1)
    ∧ (∃ (c : Src) (p : Bytes) (s : State), s.storesCanonical ∧ s.admits c 0x0201 p ∧ pb p 0 = 0 ∧ 0 < pf p 4 4 ∧ pf p 4 4 ≤ 3600000 ∧
        s.holds (masterOf c) = true ∧ s.stagePending = false)
    ∧ (∃ (s : State), s.stg.token ≠ none ∧ s.stagePending = false) :=
  ⟨⟨src, pay [1, 0, 0, 0, 0x80, 0xEE, 0x36, 0], given src 0x0201 (pay [1, 0, 0, 0, 0x80, 0xEE, 0x36, 0]) z,
     by unfold State.storesCanonical cellsRise State.admits; decide +kernel⟩,
   ⟨msrc, pay [1, 0, 0, 0, 1, 0, 0, 0], given msrc 0x0201 (pay [1, 0, 0, 0, 1, 0, 0, 0]) held,
     by unfold State.storesCanonical cellsRise State.admits; decide +kernel⟩,
   ⟨src, pay [0], given src 0x0201 (pay [0]) held, by unfold State.storesCanonical cellsRise State.admits; decide +kernel⟩,
   ⟨src, pay [0, 0, 0, 0, 1], given src 0x0201 (pay [0, 0, 0, 0, 1]) held,
     by unfold State.storesCanonical cellsRise State.admits; decide +kernel⟩,
   ⟨held, by decide +kernel⟩⟩

theorem witness_StageWritesAndChecks :
    (∃ (c : Src) (p : Bytes) (f : RegFile) (s : State), s.storesCanonical ∧ s.admits c 0x0202 p ∧ s.holds (masterOf c) = true ∧
        s.stagePending = false ∧ 0 < pf p 0 2 ∧ pf p 0 2 ≤ 511 ∧ p.length = 8 + 8 * pf p 0 2 ∧ stageEntries s.bankWin s.stg.images
        (pf p 0 2) 0 (p.drop 8) s.stg.stage = .ok f)
    ∧ (∃ (c : Src) (p : Bytes) (k : Nat) (s : State), s.storesCanonical ∧ s.admits c 0x0202 p ∧ s.holds (masterOf c) = true ∧
        s.stagePending = false ∧ 0 < pf p 0 2 ∧ pf p 0 2 ≤ 511 ∧ p.length = 8 + 8 * pf p 0 2 ∧ stageEntries s.bankWin s.stg.images
        (pf p 0 2) 0 (p.drop 8) s.stg.stage = .error k)
    ∧ (∃ (c : Src) (p : Bytes) (s : State), s.storesCanonical ∧ s.admits c 0x0202 p ∧ s.holds (masterOf c) = false)
    ∧ (∃ (c : Src) (p : Bytes) (s : State), s.storesCanonical ∧ s.admits c 0x0202 p ∧ s.holds (masterOf c) = true ∧ s.stagePending = true)
    ∧ (∃ (c : Src) (p : Bytes) (s : State), s.storesCanonical ∧ s.admits c 0x0203 p ∧ s.holds (masterOf c) = true ∧ s.stg.st ≠ .clean ∧
        s.stg.pendings = [] ∧ s.checkAll s.stg.stage s.stg.images = [])
    ∧ (∃ (c : Src) (p : Bytes) (fails : List FailEntry) (s : State), s.storesCanonical ∧ s.admits c 0x0203 p ∧ s.holds (masterOf c) = true
        ∧ s.stg.st ≠ .clean ∧ s.stg.pendings = [] ∧ pf p 8 8 = 0 ∧ s.checkAll s.stg.stage s.stg.images = fails ∧ fails ≠ [])
    ∧ (∃ (c : Src) (p : Bytes) (fails : List FailEntry) (s : State), s.storesCanonical ∧ s.admits c 0x0203 p ∧ s.holds (masterOf c) = true
        ∧ s.pair = false ∧ c.ring.val < 128 ∧ pf p 8 8 ≠ 0 ∧ s.checkAll s.stg.stage s.stg.images = fails) :=
  ⟨⟨src, entry (regAddr .pwmPrd 0 0) 5, [(regAddr .pwmPrd 0 0, 5)], given src 0x0202 (entry (regAddr .pwmPrd 0 0) 5) held,
     by unfold State.storesCanonical cellsRise State.admits; decide +kernel⟩,
   ⟨src, entry 0 0, 0, given src 0x0202 (entry 0 0) held, by unfold State.storesCanonical cellsRise State.admits; decide +kernel⟩,
   ⟨src, pay [], given src 0x0202 (pay []) z, by unfold State.storesCanonical cellsRise State.admits; decide +kernel⟩,
   ⟨src, pay [], given src 0x0202 (pay []) (due held), by unfold State.storesCanonical cellsRise State.admits; decide +kernel⟩,
   ⟨src, pay [], given src 0x0203 (pay []) dirty, by unfold State.storesCanonical cellsRise State.admits; decide +kernel⟩,
   ⟨src, pay [], fails badStage, given src 0x0203 (pay []) badStage,
     by unfold State.storesCanonical cellsRise State.admits; decide +kernel⟩,
   ⟨src, pay [0, 0, 0, 0, 0, 0, 0, 0, 0x40], fails badStage, given src 0x0203 (pay [0, 0, 0, 0, 0, 0, 0, 0, 0x40]) badStage,
     by unfold State.storesCanonical cellsRise State.admits; decide +kernel⟩⟩

theorem witness_CommitsApplyWhole :
    (∃ (c : Src) (p : Bytes) (s : State), s.storesCanonical ∧ s.admits c 0x0204 p ∧ s.holds (masterOf c) = true ∧ s.stg.pendings = [] ∧
        pb p 0 < 8 ∧ s.stg.st ≠ .clean ∧ s.arb.strapped = false ∧ s.checkAll s.stg.stage s.stg.images = [])
    ∧ (∃ (c : Src) (p : Bytes) (fails : List FailEntry) (s : State), s.storesCanonical ∧ s.admits c 0x0204 p ∧ s.holds (masterOf c) = true
        ∧ s.stg.pendings = [] ∧ pb p 0 < 8 ∧ s.stg.st ≠ .clean ∧ s.arb.strapped = false ∧ pf p 8 8 = 0 ∧ s.checkAll s.stg.stage
        s.stg.images = fails ∧ fails ≠ [])
    ∧ (∃ (c : Src) (p : Bytes) (s : State), s.storesCanonical ∧ s.admits c 0x0204 p ∧ s.holds (masterOf c) = true ∧ s.stg.pendings = [] ∧
        pb p 0 < 8 ∧ s.stg.st = .clean)
    ∧ (∃ (c : Src) (p : Bytes) (s : State), s.storesCanonical ∧ s.admits c 0x0204 p ∧ s.holds (masterOf c) = true ∧ s.stg.pendings = [] ∧
        pb p 0 < 8 ∧ s.stg.st ≠ .clean ∧ s.arb.strapped = true ∧ State.pair { s with live := s.stg.stage } = s.pair)
    ∧ (∃ (p : PendCommit) (at_ : Nat) (u : State) (s : State), s.storesCanonical ∧ s.ctlRuns = true ∧ s.idleCommit = some (p, at_) ∧ u =
        (s.advanceTo at_).toTick.batchesFirst p.acceptAt ∧ (u.stg.pendings.any fun x => sameSrc x.src p.src) = true ∧ u.stg.st ≠
        .clean ∧ (u.modStg fun g => { g with pendings := g.pendings.filter fun x => !sameSrc x.src p.src }).commitFails = none)
    ∧ (∃ (p : PendCommit) (at_ : Nat) (f : Status × List FailEntry) (u : State) (s : State), s.storesCanonical ∧ s.ctlRuns = true ∧
        s.idleCommit = some (p, at_) ∧ u = (s.advanceTo at_).toTick.batchesFirst p.acceptAt ∧ (u.stg.pendings.any fun x => sameSrc
        x.src p.src) = true ∧ u.stg.st ≠ .clean ∧ (u.modStg fun g =>
        { g with pendings := g.pendings.filter fun x => !sameSrc x.src p.src }).commitFails = some f)
    ∧ (∃ (s : State), s.nt.batches = [])
    ∧ (∃ (s : State), s.ctlRuns = false) :=
  ⟨⟨src, pay [7], given src 0x0204 (pay [7]) dirty, by unfold State.storesCanonical cellsRise State.admits; decide +kernel⟩,
   ⟨src, pay [7], fails badStage, given src 0x0204 (pay [7]) badStage,
     by unfold State.storesCanonical cellsRise State.admits; decide +kernel⟩,
   ⟨src, pay [0], given src 0x0204 (pay [0]) held, by unfold State.storesCanonical cellsRise State.admits; decide +kernel⟩,
   ⟨src, pay [7], given src 0x0204 (pay [7]) (dirty.modArb fun a => { a with strapped := true }),
     by unfold State.storesCanonical cellsRise State.admits; decide +kernel⟩,
   ⟨pend, 32, (((clk .locked (due dirty)).advanceTo 32).toTick.batchesFirst 0), clk .locked (due dirty),
     by unfold State.storesCanonical cellsRise; decide +kernel, by decide +kernel, by decide +kernel, rfl, by decide +kernel,
     by decide +kernel, by decide +kernel⟩,
   ⟨pend, 32, (.busyStopping, []), (((clk .locked ((due (cfg [(.pwmChEn, 0, 0)] dirty)).modChan 0 fun c =>
     { c with offSeq := some 0 })).advanceTo 32).toTick.batchesFirst 0), clk .locked ((due (cfg [(.pwmChEn, 0, 0)] dirty)).modChan 0
     fun c => { c with offSeq := some 0 }), by unfold State.storesCanonical cellsRise; decide +kernel, by decide +kernel,
     by decide +kernel, rfl, by decide +kernel, by decide +kernel, by decide +kernel⟩,
   ⟨z, by decide +kernel⟩,
   ⟨z, by decide +kernel⟩⟩

theorem witness_GraphsAndBlocksAreStored :
    (∃ (c : Src) (p : Bytes) (s : State), s.storesCanonical ∧ s.admits c 0x0910 p ∧ s.holds (masterOf c) = true ∧ s.stagePending = false
        ∧ pb p 0 ≠ 0)
    ∧ (∃ (c : Src) (p : Bytes) (s : State), s.storesCanonical ∧ s.admits c 0x0910 p ∧ s.holds (masterOf c) = false ∧ pb p 0 ≠ 0)
    ∧ (∃ (c : Src) (p : Bytes) (s : State), s.storesCanonical ∧ s.admits c 0x0205 p ∧ s.pair = false)
    ∧ (∃ (c : Src) (p : Bytes) (s : State), s.storesCanonical ∧ s.given c 0x0206 p = true ∧ pf p 0 4 ≤ 8388608 ∧ crc32c (memRead s.dram
        recBase (pf p 0 4)) = pf p 4 4)
    ∧ (∃ (c : Src) (p : Bytes) (d : Nat) (s : State), s.storesCanonical ∧ s.given c 0x0206 p = true ∧ (8388608 < pf p 0 4 ∧ d = 1 ∨ pf p 0
        4 ≤ 8388608 ∧ crc32c (memRead s.dram recBase (pf p 0 4)) ≠ pf p 4 4 ∧ d = 3))
    ∧ (∃ (w : CfgWrite) (rest : List CfgWrite) (s : State), s.storesCanonical ∧ s.stg.writes = w :: rest ∧ w.recover = false ∧
        (s.saf.chA.rel && s.saf.chB.rel) = false)
    ∧ (∃ (w : CfgWrite) (rest : List CfgWrite) (s : State), s.stg.writes = w :: rest ∧ w.recover = true ∧ (s.ops.st = .idle ∨ s.ops.st =
        .halted))
    ∧ (∃ (s : State), s.stg.writes = [])
    ∧ (∃ (c : Src) (p : Bytes) (image : Option Bytes) (st : Status) (d : Nat) (s : State), s.storesCanonical ∧ s.admits c 0x0910 p ∧ (pb p
        0 = 0 ∧ st = .checkFail ∧ d = 0x10 ∨ pb p 0 ≠ 0 ∧ s.holds (masterOf c) = true ∧ s.stagePending = true ∧ st = .error ∧ d = 3
        ∨ pb p 0 ≠ 0 ∧ s.holds (masterOf c) = true ∧ s.stagePending = false ∧ image = none ∧ st = .error ∧ d = 0x80000010)) :=
  ⟨⟨src, pay [0xFF], given src 0x0910 (pay [0xFF]) held, by unfold State.storesCanonical cellsRise State.admits; decide +kernel⟩,
   ⟨src, pay [1], given src 0x0910 (pay [1]) z, by unfold State.storesCanonical cellsRise State.admits; decide +kernel⟩,
   ⟨src, [], given src 0x0205 [] z, by unfold State.storesCanonical cellsRise State.admits; decide +kernel⟩,
   ⟨src, leBytes 4 0 ++ leBytes 4 (crc32c []), given src 0x0206 (leBytes 4 0 ++ leBytes 4 (crc32c [])) z,
     by unfold State.storesCanonical cellsRise; decide +kernel⟩,
   ⟨src, leBytes 4 8388609, 1, given src 0x0206 (leBytes 4 8388609) z, by unfold State.storesCanonical cellsRise; decide +kernel⟩,
   ⟨cfgWrite false, [], z.modStg fun g => { g with writes := [cfgWrite false] },
     by unfold State.storesCanonical cellsRise; decide +kernel⟩,
   ⟨cfgWrite true, [], ost .halted (z.modStg fun g => { g with writes := [cfgWrite true] }), by decide +kernel⟩,
   ⟨z, by decide +kernel⟩,
   ⟨src, pay [0], none, .checkFail, 0x10, given src 0x0910 (pay [0]) z,
     by unfold State.storesCanonical cellsRise State.admits; decide +kernel⟩⟩

theorem witness_HaltCausesTakeTheDeviceToHalted :
    ∃ (c : Instr) (cause : Nat) (s : State), (c, cause) ∈ [(.watchdogExpiry, 0x2A), (.coreLockstepMismatch, 0x23), (.memEccError, 0x24),
      (.regulatorFault, 0x29)] ∧ s.ops.st ≠ .halted ∧ s.ops.st ≠ .off :=
  ⟨.memEccError, 0x24, z, by decide +kernel⟩

theorem witness_EngineFaultsHaltTheDevice :
    (∃ (e : Fin 8) (at_ : Nat) (s : State), s.missAt e = some at_)
    ∧ (∃ (s : State), s.ops.st ≠ .halted ∧ s.ops.st ≠ .off)
    ∧ (∃ (e : Fin 8) (s : State), s.ops.st ≠ .halted ∧ s.ops.st ≠ .off ∧ s.inPeriod e = true ∧ (s.tb (s.leadTb e)).run = .running ∧ 396 <
        (s.engN e).stall)
    ∧ (∃ (e : Fin 8) (s : State), s.storesCanonical ∧ (s.inPeriod e = false ∨ (s.tb (s.leadTb e)).run ≠ .running))
    ∧ (∃ (e : Fin 8) (s : State), s.storesCanonical ∧ s.inPeriod e = true ∧ (s.tb (s.leadTb e)).run = .running ∧ (s.engN e).stall ≤ 396)
    ∧ (∃ (e : Fin 8) (s : State), s.executes e = true ∧ (s.engN e).armReset = false ∧ (s.engN e).started = false ∧ s.twn.resync = false)
    ∧ (∃ (e : Fin 8) (s : State), s.missAt e = none) :=
  ⟨⟨7, 1016000, ran 7 (fun n => { n with started := false }) z, by decide +kernel⟩,
   ⟨z, by decide +kernel⟩,
   ⟨7, (ran 7 (fun n => { n with stall := 400, armReset := false }) z).modTb 0 fun b => { b with run := .running }, by decide +kernel⟩,
   ⟨7, z, by unfold State.storesCanonical cellsRise; decide +kernel⟩,
   ⟨7, (ran 7 (fun n => { n with stall := 396, armReset := false }) z).modTb 0 fun b => { b with run := .running },
     by unfold State.storesCanonical cellsRise; decide +kernel⟩,
   ⟨7, ran 7 (fun n => { n with started := false }) z, by decide +kernel⟩,
   ⟨7, z, by decide +kernel⟩⟩

theorem witness_ArmingStartingAndStopping :
    (∃ (c : Src) (s : State), s.storesCanonical ∧ s.given c 0x0610 [] = true ∧ s.ops.st = .idle ∧ s.armBlock = 0)
    ∧ (∃ (c : Src) (s : State), s.storesCanonical ∧ s.given c 0x0610 [] = true ∧ s.ops.st = .idle ∧ s.armBlock ≠ 0)
    ∧ (∃ (c : Src) (s : State), s.storesCanonical ∧ s.given c 0x0610 [] = true ∧ s.ops.st = .stopping)
    ∧ (∃ (c : Src) (s : State), s.storesCanonical ∧ s.given c 0x0610 [] = true ∧ (s.ops.st = .armed ∨ s.ops.st = .running))
    ∧ (∃ (c : Src) (p : Bytes) (s : State), s.given c 0x0611 p = true ∧ s.ops.st = .armed ∧ pb p 0 < 8)
    ∧ (∃ (c : Src) (p : Bytes) (s : State), s.given c 0x0612 p = true ∧ (s.ops.st = .armed ∨ s.ops.st = .running) ∧ pb p 0 < 8)
    ∧ (∃ (c : Src) (p : Bytes) (s : State), s.storesCanonical ∧ s.given c 0x0611 p = true ∧ s.ops.st = .stopping ∧ pb p 0 < 8)
    ∧ (∃ (c : Src) (p : Bytes) (s : State), s.storesCanonical ∧ s.given c 0x0611 p = true ∧ s.ops.st = .idle ∧ pb p 0 < 8)
    ∧ (∃ (c : Src) (p : Bytes) (s : State), s.storesCanonical ∧ s.given c 0x0611 p = true ∧ s.ops.st = .running ∧ pb p 0 < 8)
    ∧ (∃ (c : Src) (p : Bytes) (s : State), s.storesCanonical ∧ s.given c 0x0612 p = true ∧ (s.ops.st = .idle ∨ s.ops.st = .stopping) ∧ pb
        p 0 < 8)
    ∧ (∃ (c : Src) (s : State), s.given c 0x0613 [] = true ∧ s.ops.st = .armed)
    ∧ (∃ (c : Src) (s : State), s.storesCanonical ∧ s.given c 0x0613 [] = true ∧ s.ops.st = .armed ∧ s.ops.starts = [])
    ∧ (∃ (c : Src) (s : State), s.storesCanonical ∧ s.given c 0x0613 [] = true ∧ s.ops.st = .idle)
    ∧ (∃ (s : State), s.ops.st = .armed ∧ s.armBlock ≠ 0) :=
  ⟨⟨src, given src 0x0610 [] ready, by unfold State.storesCanonical cellsRise; decide +kernel⟩,
   ⟨src, given src 0x0610 [] (ost .idle z), by unfold State.storesCanonical cellsRise; decide +kernel⟩,
   ⟨src, given src 0x0610 [] (ost .stopping z), by unfold State.storesCanonical cellsRise; decide +kernel⟩,
   ⟨src, given src 0x0610 [] (ost .running z), by unfold State.storesCanonical cellsRise; decide +kernel⟩,
   ⟨src, pay [7], given src 0x0611 (pay [7]) (ost .armed z), by decide +kernel⟩,
   ⟨src, pay [7], given src 0x0612 (pay [7]) (ost .armed z), by decide +kernel⟩,
   ⟨src, pay [7], given src 0x0611 (pay [7]) (ost .stopping z), by unfold State.storesCanonical cellsRise; decide +kernel⟩,
   ⟨src, pay [7], given src 0x0611 (pay [7]) (ost .idle z), by unfold State.storesCanonical cellsRise; decide +kernel⟩,
   ⟨src, pay [7], given src 0x0611 (pay [7]) (ost .running z), by unfold State.storesCanonical cellsRise; decide +kernel⟩,
   ⟨src, pay [7], given src 0x0612 (pay [7]) (ost .stopping z), by unfold State.storesCanonical cellsRise; decide +kernel⟩,
   ⟨src, given src 0x0613 [] (ost .armed z), by decide +kernel⟩,
   ⟨src, given src 0x0613 [] (ost .armed z), by unfold State.storesCanonical cellsRise; decide +kernel⟩,
   ⟨src, given src 0x0613 [] (ost .idle z), by unfold State.storesCanonical cellsRise; decide +kernel⟩,
   ⟨ost .armed z, by decide +kernel⟩⟩

theorem witness_HaltStopAndMainResetEnterTheirStates :
    (∃ (c : Src) (s : State), s.given c 0x0614 [] = true ∧ s.ops.st ≠ .halted ∧ s.ops.st ≠ .off)
    ∧ (∃ (c : Src) (s : State), s.storesCanonical ∧ s.given c 0x0614 [] = true ∧ s.ops.st = .halted)
    ∧ (∃ (s : State), s.ops.st = .stopping ∧ (∀ k < 16, s.configured k = true → s.ackOverdue.stackIsOff k = true) ∧ s.mgt.resetReq = none)
    ∧ (∃ (c : Src) (s : State), (∀ k < 16, s.configured k = true → s.ackOverdue.stackIsOff k = true) ∧ s.mgt.resetReq = some c)
    ∧ (∃ (c : Src) (s : State), s.given c 0x0615 [] = true ∧ (s.ops.st = .idle ∨ s.ops.st = .halted ∨ s.ops.st = .selftest ∨ s.ops.st =
        .boot))
    ∧ (∃ (c : Src) (s : State), s.given c 0x0615 [] = true ∧ (s.ops.st = .armed ∨ s.ops.st = .running)) :=
  ⟨⟨msrc, given msrc 0x0614 [] z, by decide +kernel⟩,
   ⟨src, given src 0x0614 [] (ost .halted z), by unfold State.storesCanonical cellsRise; decide +kernel⟩,
   ⟨ost .stopping direct, by decide +kernel⟩,
   ⟨src, (ost .stopping direct).modMgt fun m => { m with resetReq := some src }, by decide +kernel⟩,
   ⟨src, given src 0x0615 [] z, by decide +kernel⟩,
   ⟨src, given src 0x0615 [] (ost .running z), by decide +kernel⟩⟩

theorem witness_PowerUpBootAndSelftest :
    (∃ (s : State), s.ops.st = .off ∧ s.arb.strapped = false)
    ∧ (∃ (s : State), s.ops.st = .off ∧ s.arb.strapped = true)
    ∧ (∃ (s : State), s.ops.st = .off ∧ s.arb.strapped = false)
    ∧ (∃ (m : BootMedia) (s : State), s.ops.st = .boot ∧ s.ops.held = false ∧ s.arb.strapped = false ∧ ((m.loaderOk0 = false ∧ m.loaderOk1
        = false) ∨ s.anchorValid 0 = false ∨ (m.slotOk0 = false ∧ m.slotOk1 = false)))
    ∧ (∃ (s : State), s.ops.st = .boot ∧ s.ops.held = false ∧ s.arb.strapped = false)
    ∧ (∃ (failed : BitVec 12) (s : State), s.ops.st = .selftest ∧ s.failedItems failed = 0)
    ∧ (∃ (failed : BitVec 12) (s : State), s.ops.st = .selftest ∧ s.failedItems failed ≠ 0)
    ∧ (∃ (s : State), s.ops.st = .selftest ∧ (s.reg .glbSelftest).getLsbD 4 = true)
    ∧ (∃ (s : State), s.ops.st = .selftest ∧ s.clk.st = .acquire) :=
  ⟨⟨(ost .off z), by decide +kernel⟩,
   ⟨(ost .off z).modArb fun a => { a with strapped := true }, by decide +kernel⟩,
   ⟨(ost .off z), by decide +kernel⟩,
   ⟨{ loaderOk0 := false, loaderOk1 := false, slotOk0 := false, slotOk1 := false }, z, by decide +kernel⟩,
   ⟨z.modOps fun o => { o with actSlot := 1 }, by decide +kernel⟩,
   ⟨0, clk .locked (ost .selftest z), by decide +kernel⟩,
   ⟨0x800, ost .selftest z, by decide +kernel⟩,
   ⟨rgs [(.glbSelftest, 0, 16)] (ost .selftest z), by decide +kernel⟩,
   ⟨ost .selftest z, by decide +kernel⟩⟩

theorem witness_SupplyLossesTakeGateDriveAway :
    (∃ (s : State), s.ops.st ≠ .off ∧ s.ops.vinOk = true)
    ∧ (∃ (s : State), s.ops.vinOk = false ∧ s.ops.st ≠ .off)
    ∧ (∃ (s : State), s.mgt.vmgt = true)
    ∧ (∃ (s : State), s.mgt.vmgt = false) :=
  ⟨⟨z, by decide +kernel⟩,
   ⟨z.modOps fun o => { o with vinOk := false }, by decide +kernel⟩,
   ⟨z, by decide +kernel⟩,
   ⟨z.modMgt fun m => { m with vmgt := false }, by decide +kernel⟩⟩

theorem witness_LogRecordsAndFirmwareSlots :
    (∃ (c : Src) (p : Bytes) (s : State), s.storesCanonical ∧ s.given c 0x0805 p = true ∧ s.pair = false ∧ c.ring.val < 128)
    ∧ (∃ (s : State), s.ops.vinOk = true)
    ∧ (∃ (s : State), s.ops.vinOk = false)
    ∧ (∃ (s : State), (s.ops.st = .off ∨ s.ops.st = .boot ∨ s.ops.st = .selftest))
    ∧ (∃ (s : State), s.ops.st ≠ .off ∧ s.ops.st ≠ .boot ∧ s.ops.st ≠ .selftest)
    ∧ (∃ (c : Src) (p : Bytes) (bs : Bytes) (s : State), s.storesCanonical ∧ s.given c 0x0901 p = true ∧ s.pair = false ∧ s.ops.fwWrite =
        none ∧ pb p 0 < 2 ∧ pb p 0 ≠ s.ops.runSlot ∧ s.sec.svn ≤ pb (padTo (pf p 16 4) bs) 12 ∧ fwForm (padTo (pf p 16 4) bs) = true)
    ∧ (∃ (c : Src) (p : Bytes) (s : State), s.storesCanonical ∧ s.given c 0x0901 p = true ∧ s.pair = false ∧ s.ops.fwWrite = none ∧ pb p 0
        < 2 ∧ pb p 0 = s.ops.runSlot)
    ∧ (∃ (w : FwWrite) (s : State), s.storesCanonical ∧ s.ops.fwWrite = some w ∧ w.slot < 2)
    ∧ (∃ (c : Src) (p : Bytes) (s : State), s.storesCanonical ∧ s.given c 0x0902 p = true ∧ pb p 0 < 2 ∧ (pb p 1).testBit 0 = false)
    ∧ (∃ (c : Src) (p : Bytes) (s : State), s.storesCanonical ∧ s.given c 0x0902 p = true ∧ pb p 0 = s.ops.runSlot ∧ pb p 0 < 2 ∧ (pb p
        1).testBit 0 = true ∧ s.sec.svn < (s.fwSlot s.ops.runSlot).svn)
    ∧ (∃ (c : Src) (p : Bytes) (s : State), s.storesCanonical ∧ s.given c 0x0902 p = true ∧ pb p 0 < 2 ∧ (pb p 1).testBit 0 = true ∧ (pb p
        0 ≠ s.ops.runSlot ∨ (s.fwSlot s.ops.runSlot).svn ≤ s.sec.svn)) :=
  ⟨⟨src, [], given src 0x0805 [] z, by unfold State.storesCanonical cellsRise; decide +kernel⟩,
   ⟨z, by decide +kernel⟩,
   ⟨z.modOps fun o => { o with vinOk := false }, by decide +kernel⟩,
   ⟨z, by decide +kernel⟩,
   ⟨ost .idle z, by decide +kernel⟩,
   ⟨src, pay [1] ++ leBytes 15 0 ++ leBytes 4 3477, fw, given src 0x0901 (pay [1] ++ leBytes 15 0 ++ leBytes 4 3477) z,
     by unfold State.storesCanonical cellsRise; decide +kernel⟩,
   ⟨src, pay [0], given src 0x0901 (pay [0]) z, by unfold State.storesCanonical cellsRise; decide +kernel⟩,
   ⟨{ src := src, slot := 1, img := {} }, z.modOps fun o => { o with fwWrite := some { src := src, slot := 1, img := {} } },
     by unfold State.storesCanonical cellsRise; decide +kernel⟩,
   ⟨src, pay [1, 0], given src 0x0902 (pay [1, 0]) z, by unfold State.storesCanonical cellsRise; decide +kernel⟩,
   ⟨src, pay [0, 1], given src 0x0902 (pay [0, 1]) fwSlots, by unfold State.storesCanonical cellsRise; decide +kernel⟩,
   ⟨src, pay [1, 1], given src 0x0902 (pay [1, 1]) z, by unfold State.storesCanonical cellsRise; decide +kernel⟩⟩

theorem witness_TheFusedMinimumRisesByItsCommandAlone :
    (∃ (c : Instr) (s : State) (t : State), exec c s = .next t ∧ t.sec.svn ≠ s.sec.svn)
    ∧ (∃ (c : Src) (p : Bytes) (s : State), s.storesCanonical ∧ s.given c 0x0902 p = true ∧ pb p 0 < 2 ∧ (pb p 1).testBit 0 = true ∧ (pb p
        0 ≠ s.ops.runSlot ∨ (s.fwSlot s.ops.runSlot).svn ≤ s.sec.svn))
    ∧ (∃ (c : Src) (p : Bytes) (s : State), s.storesCanonical ∧ s.given c 0x0902 p = true ∧ pb p 0 = s.ops.runSlot ∧ pb p 0 < 2 ∧ (pb p
        1).testBit 0 = true ∧ s.sec.svn < (s.fwSlot s.ops.runSlot).svn) :=
  ⟨⟨.imgFwActivate src (pay [0, 1]), given src 0x0902 (pay [0, 1]) fwSlots, _, rfl, by decide +kernel⟩,
   ⟨src, pay [1, 1], given src 0x0902 (pay [1, 1]) fwSlots, by unfold State.storesCanonical cellsRise; decide +kernel⟩,
   ⟨src, pay [0, 1], given src 0x0902 (pay [0, 1]) fwSlots, by unfold State.storesCanonical cellsRise; decide +kernel⟩⟩

theorem witness_SafetyInputsAndOffPulses :
    (∃ (k : Fin 4) (lineB : Bool) (level : Bool) (s : State), (s.pairKind k = 1 ∨ s.pairKind k = 2) ∧ (let d := s.lineDemands k (if lineB
        then { s.safPair k with lineB := level } else { s.safPair k with lineA := level }); (d.1 || d.2) = true))
    ∧ (∃ (k : Fin 4) (t0 : Nat) (s : State), (s.pairKind k = 1 ∨ s.pairKind k = 2) ∧ (s.safPair k).since = some t0 ∧ (s.safPair k).disc =
        false)
    ∧ (∃ (ch : SafCh) (first : Nat) (s : State), (s.safChan ch).firstRel = some first ∧ (s.safChan ch).rel = true ∧ (s.safChan ch).pulse =
        none)
    ∧ (∃ (ch : SafCh) (at_ : Nat) (s : State), s.storesCanonical ∧ (s.safChan ch).pulse = some at_) :=
  ⟨⟨3, false, false, { z with saf := { chB := { pset := [0, 0, 0, 0, 0, 1] } } }, by decide +kernel⟩,
   ⟨3, 0, { z with saf := { chB := { pset := [0, 0, 0, 0, 0, 1] }, pairs := vset (Vector.replicate 4 {}) 3 { since := some 0 } } },
     by decide +kernel⟩,
   ⟨.a, 0, { z with saf := { chA := { rel := true, firstRel := some 0 } } }, by decide +kernel⟩,
   ⟨.b, 0, { z with saf := { chB := { pulse := some 0 } } }, by unfold State.storesCanonical cellsRise; decide +kernel⟩⟩

theorem witness_SafetyFaultsLatchAndHalt :
    (∃ (ch : SafCh) (level : Bool) (s : State), level ≠ (s.safChan ch).gen)
    ∧ (∃ (ch : SafCh) (s : State), (s.safChan ch).rel = true ∧ (∀ t0, (s.safChan (if ch = .a then .b else .a)).annAt = some t0 → t0 +
        s.safPw + 3200000 < s.now))
    ∧ (∃ (s : State), s.saf.chA.pset ≠ [] ∧ s.saf.chA.pset ≠ s.saf.chB.pset)
    ∧ (∃ (ch : SafCh) (t0 : Nat) (s : State), (s.safChan (if ch = .a then .b else .a)).annAt = some t0 ∧ s.now ≤ t0 + s.safPw + 3200000)
    ∧ (∃ (s : State), s.saf.chA.pset = s.saf.chB.pset) :=
  ⟨⟨.b, true, z, by decide +kernel⟩,
   ⟨.a, { z with saf := { chA := { rel := true } } }, by decide +kernel⟩,
   ⟨{ z with saf := { chA := { pset := [0] } } }, by decide +kernel⟩,
   ⟨.a, 0, { z with saf := { chB := { annAt := some 0 } } }, by decide +kernel⟩,
   ⟨z, by decide +kernel⟩⟩

theorem witness_MailboxCommandsReachTheirEngines :
    (∃ (i : Instr) (op : Nat) (mask : Nat) (c : Src) (p : Bytes) (s : State), (i, op, mask) ∈ [(.gfmSetTargets c p, 0x0101,
        s.unitEngines), (.gfmSetBreaker c p, 0x0102, s.unitEngines), (.gfmClearFlags c p, 0x0103, s.unitEngines), (.frdBankSwap c p,
        0x0110, pb p 0), (.frdSatReadClear c p, 0x0801, pb p 0), (.prfSetTarget c p, 0x0120, pb p 0)] ∧ s.admits c op p ∧ mask ≠ 0 ∧
        (op = 0x0110 → pf p 2 2 ≤ 4096 ∧ pb p 1 ≤ 1) ∧ (op = 0x0120 → pb p 1 ≤ 7))
    ∧ (∃ (i : Instr) (op : Nat) (c : Src) (p : Bytes) (s : State), (i, op) ∈ [(.gfmSetTargets c p, 0x0101), (.gfmSetBreaker c p, 0x0102),
        (.gfmClearFlags c p, 0x0103)] ∧ s.storesCanonical ∧ s.admits c op p ∧ s.unitEngines = 0)
    ∧ (∃ (i : Instr) (op : Nat) (d : Nat) (c : Src) (p : Bytes) (s : State), (i, op) ∈ [(.frdBankSwap c p, 0x0110), (.frdSatReadClear c p,
        0x0801), (.prfSetTarget c p, 0x0120)] ∧ s.storesCanonical ∧ s.admits c op p ∧ (pb p 0 = 0 ∧ d = 1 ∨ pb p 0 ≠ 0 ∧ op = 0x0110
        ∧ 4096 < pf p 2 2 ∧ d = 2 ∨ pb p 0 ≠ 0 ∧ op = 0x0110 ∧ pf p 2 2 ≤ 4096 ∧ 1 < pb p 1 ∧ d = 3 ∨ pb p 0 ≠ 0 ∧ op = 0x0120 ∧ 7 <
        pb p 1 ∧ d = 3)) :=
  ⟨⟨.frdBankSwap src (pay [0x80, 1, 0, 0x10]), 0x0110, 0x80, src, pay [0x80, 1, 0, 0x10], given src 0x0110 (pay [0x80, 1, 0, 0x10]) z,
     by unfold State.admits; decide +kernel⟩,
   ⟨.gfmClearFlags src [], 0x0103, src, [], given src 0x0103 [] z,
     by unfold State.storesCanonical cellsRise State.admits; decide +kernel⟩,
   ⟨.prfSetTarget src (pay [1, 8]), 0x0120, 3, src, pay [1, 8], given src 0x0120 (pay [1, 8]) z,
     by unfold State.storesCanonical cellsRise State.admits; decide +kernel⟩⟩

theorem witness_EnginesRunAndPublishTheirPeriod :
    (∃ (e : Fin 8) (img : Image) (s : State), (s.engN e).image = some img ∧ s.executes e = true ∧ (s.engN e).armReset = false ∧ (s.engN
        e).started = false ∧ s.sampleReady e = true)
    ∧ (∃ (e : Fin 8) (s : State), s.executes e = true ∧ (s.engN e).started = true ∧ (s.engN e).published = false ∧ s.missAt e = none)
    ∧ (∃ (e : Fin 8) (s : State), s.executes e = true ∧ (s.engN e).started = true ∧ (s.engN e).published = true ∧ (s.engN e).complete =
        false ∧ s.missAt e = none)
    ∧ (∃ (e : Fin 8) (i : Instr) (at_ : Nat) (s : State), s.executes e = true ∧ (s.engN e).started = true ∧ s.missAt e = some at_ ∧ (i =
        .publish e ∧ (s.engN e).published = false ∨ i = .graphComplete e ∧ (s.engN e).published = true ∧ (s.engN e).complete =
        false))
    ∧ (∃ (s : State), s.storesCanonical)
    ∧ (∃ (e : Fin 8) (s : State), (s.executes e = false ∨ (s.engN e).armReset = true ∨ (s.engN e).started = true ∨ s.sampleReady e = false)) :=
  ⟨⟨7, blank, ran 7 (fun n => { n with image := some blank }) z, by decide +kernel⟩,
   ⟨7, ran 7 (fun n => { n with started := true, published := false }) z, by decide +kernel⟩,
   ⟨7, ran 7 (fun n => { n with started := true, complete := false }) z, by decide +kernel⟩,
   ⟨7, .publish 7, 1016000, ran 7 (fun n => { n with started := true, published := false, startAt := 100000000 }) z, by decide +kernel⟩,
   ⟨z, by unfold State.storesCanonical cellsRise; decide +kernel⟩,
   ⟨7, z, by decide +kernel⟩⟩

theorem witness_TransitionsEndAtTheirInstants :
    (∃ (e : Fin 8) (f : Fade) (s : State), s.inPeriod e = true ∧ (s.engN e).started = true ∧ (s.engN e).complete = true ∧ (s.engN e).fade
        = some f ∧ f.len ≤ f.n)
    ∧ (∃ (e : Fin 8) (i : Fin 16) (s : State), s.executes e = true ∧ (s.asSeen e).oscOn e i = true ∧ (s.asSeen e).lv .frdOscAct e i 15 8 ≤
        (vget (s.engN e).osc i {}).count ∧ 0 < (vget (s.engN e).osc i {}).count ∧ (vget (s.engN e).osc i {}).latched = false)
    ∧ (∃ (e : Fin 8) (i : Fin 16) (s : State), s.executes e = true ∧ (s.asSeen e).oscOn e i = true ∧ (vget (s.engN e).osc i {}).timedOut
        ((s.asSeen e).lv .frdOscBand e i 31 16) ((s.asSeen e).tc e) (s.engN e).idx.toNat = true)
    ∧ (∃ (e : Fin 8) (closed : Bool) (s : State), s.executes e = true ∧ lget (s.engN e).work 0x35 0 ≠ 0 ∧ (s.engN e).gfm.brkCand = closed ∧
        16 ≤ (s.engN e).gfm.brkCount ∧ (s.engN e).gfm.brk ≠ closed)
    ∧ (∃ (e : Fin 8) (t0 : Nat) (s : State), s.templateOn e = true ∧ (s.engN e).gfm.rt = true ∧ (s.engN e).gfm.rtQuiet = some t0)
    ∧ (∃ (e : Fin 8) (t0 : Nat) (s : State), s.templateOn e = true ∧ (s.engN e).gfm.cl = true ∧ (s.engN e).gfm.clQuiet = some t0)
    ∧ (∃ (e : Fin 8) (t0 : Nat) (s : State), s.templateOn e = true ∧ (s.engN e).gfm.recUntil = some t0)
    ∧ (∃ (e : Fin 8) (s : State), ((s.engN e).started = false ∨ (s.engN e).complete = false)) :=
  ⟨⟨7, { target := true, len := 1, n := 1, src := [] }, ran 7 (fun n =>
     { n with started := true, complete := true, fade := some { target := true, len := 1, n := 1, src := [] } }) z,
     by decide +kernel⟩,
   ⟨7, 15, ran 7 (fun n => { n with idx := 1000000, seen := oscRegs, osc := vset n.osc 15 { count := 255 } }) z, by decide +kernel⟩,
   ⟨7, 15, ran 7 (fun n => { n with idx := 1000000, seen := oscRegs, osc := vset n.osc 15 { havePrev := true } }) z, by decide +kernel⟩,
   ⟨7, true, ran 7 (fun n => { n with work := List.replicate 54 1, gfm := { brkCand := true, brkCount := 16 } }) z, by decide +kernel⟩,
   ⟨7, 0, ran 7 (fun n => { n with image := some blank, gfm := { rt := true, rtQuiet := some 0 } }) z, by decide +kernel⟩,
   ⟨7, 0, ran 7 (fun n => { n with image := some blank, gfm := { cl := true, clQuiet := some 0 } }) z, by decide +kernel⟩,
   ⟨7, 0, ran 7 (fun n => { n with image := some blank, gfm := { recUntil := some 0 } }) z, by decide +kernel⟩,
   ⟨7, z, by decide +kernel⟩⟩

theorem witness_LoadPointsBeginPeriods :
    (∃ (i : Instr) (t : Fin 16) (half : Bool) (s : State), s.ctlRuns = true ∧ (i = .loadPoint t half ∧ (s.tb t).run = .running ∧
        (s.nextLoad t).2 = half ∨ i = .timebaseFirstZero t ∧ (s.tb t).run = .waiting ∧ (s.firstZeroAt t).isSome = true))
    ∧ (∃ (t : Fin 16) (half : Bool) (s : State), s.ctlRuns = true ∧ (s.tb t).run = .running ∧ (s.tb t).stopPend = false ∧ (s.nextLoad t).2
        = half ∧ ((∀ e < 8, s.leadTb e ≠ t) ∨ s.pair = false ∧ s.stg.pendings = []))
    ∧ (∃ (t : Fin 16) (at_ : Nat) (nt : Option DWord) (s : State), s.ctlRuns = true ∧ (s.tb t).run = .waiting ∧ (s.tb t).stopPend = false ∧
        s.firstZeroAt t = some (at_, nt) ∧ ((∀ e < 8, s.leadTb e ≠ t) ∨ s.pair = false ∧ s.stg.pendings = []))
    ∧ (∃ (t : Fin 16) (half : Bool) (s : State), s.ctlRuns = true ∧ (s.tb t).run = .running ∧ (s.tb t).stopPend = true ∧ (s.nextLoad t).2 =
        half ∧ ((∀ e < 8, s.leadTb e ≠ t) ∨ s.pair = false ∧ s.stg.pendings = []))
    ∧ (∃ (s : State), s.ctlRuns = false) :=
  ⟨⟨.loadPoint 15 false, 15, false, clk .locked (z.modTb 15 fun b => { b with run := .running }), by decide +kernel⟩,
   ⟨15, true, clk .locked (z.modTb 15 fun b => { b with run := .running, dbl := true }), by decide +kernel⟩,
   ⟨15, 0, none, clk .locked (z.modTb 15 fun b => { b with run := .waiting }), by decide +kernel⟩,
   ⟨15, false, clk .locked (z.modTb 15 fun b => { b with run := .running, stopPend := true }), by decide +kernel⟩,
   ⟨z, by decide +kernel⟩⟩

theorem witness_TicksDumpsAndChannelEvents :
    (∃ (s : State), s.clk.running.getLsbD 2 = true ∧ s.clk.strobe.getLsbD 2 = false)
    ∧ (∃ (s : State), (s.clk.running.getLsbD 2 = false ∨ s.clk.strobe.getLsbD 2 = true))
    ∧ (∃ (g : Fin 20) (s : State), s.storesCanonical ∧ s.dumpTick g = true)
    ∧ (∃ (c : Fin 160) (s : State), s.chanActive c = true ∧ 64 < (s.dec c).runLen ∧ (s.dec c).stuck = false)
    ∧ (∃ (c : Fin 160) (s : State), (s.dec c).stuck = true ∧ (s.dec c).runLen ≤ 64)
    ∧ (∃ (c : Fin 160) (s : State), (s.dec c).srcDown = true ∧ s.srcKind c = 2 ∧ (s.gs (s.srcIndex c / 8)).link = .trained ∧ (s.linkBit
        (s.srcIndex c / 8) (s.srcIndex c % 8) s.meas.tick).isSome = true)
    ∧ (∃ (c : Fin 160) (s : State), s.chanActive c = true ∧ (s.dec c).cmpMasked = false ∧ (s.dec c).srcDown = false ∧ (s.dec c).cmpActive =
        false ∧ (s.fastValue c > s.cmpHi c ∨ s.fastValue c < s.cmpLo c))
    ∧ (∃ (c : Fin 160) (s : State), (s.dec c).cmpActive = true ∧ s.cmpLo c + s.cmpHys c ≤ s.fastValue c ∧ s.fastValue c ≤ s.cmpHi c -
        s.cmpHys c)
    ∧ (∃ (c : Fin 160) (s : State), (s.dec c).cmpMasked = true ∧ (s.dec c).srcDown = false ∧ s.chanActive c = true ∧ 2 * (s.fastLen c - 1)
        + 1 ≤ (s.dec c).fastBits) :=
  ⟨⟨{ z with clk := { running := 4 } }, by decide +kernel⟩,
   ⟨z, by decide +kernel⟩,
   ⟨19, { chan159 [] with clk := { running := 4 }, meas := { tick := 20, dump0 := [0] } },
     by unfold State.storesCanonical cellsRise; decide +kernel⟩,
   ⟨159, dec159 { runLen := 65 }, by decide +kernel⟩,
   ⟨159, dec159 { stuck := true, runLen := 64 }, by decide +kernel⟩,
   ⟨159, linkSource, by decide +kernel⟩,
   ⟨159, dec159 { cmpMasked := false, fast2 := { s := 2 } }, by decide +kernel⟩,
   ⟨159, dec159 { cmpActive := true }, by decide +kernel⟩,
   ⟨159, dec159 { fastBits := 200 }, by decide +kernel⟩⟩

theorem witness_TheConverterTakesTriggersAndResults :
    (∃ (s : State), s.storesCanonical ∧ s.sarOn = true ∧ s.ctlRuns = true ∧ s.sar.trigAt ≠ some s.nsNow)
    ∧ (∃ (s : State), s.storesCanonical ∧ (s.sarOn = false ∨ s.ctlRuns = false))
    ∧ (∃ (s : State), s.storesCanonical ∧ (s.sarOn = false ∨ s.ctlRuns = false))
    ∧ (∃ (s : State), s.storesCanonical ∧ s.sarOn = true ∧ s.ctlRuns = true)
    ∧ (∃ (i : Nat) (s : State), s.storesCanonical ∧ s.sar.conv = .urgent i ∧ i < 16)
    ∧ (∃ (n : Nat) (done : Nat) (sum : Nat) (s : State), s.sar.conv = .slot n done sum ∧ done + 1 < 2 ^ s.lv .adcSlot n 0 11 8)
    ∧ (∃ (n : Nat) (done : Nat) (sum : Nat) (s : State), s.sar.conv = .slot n done sum ∧ 2 ^ s.lv .adcSlot n 0 11 8 ≤ done + 1)
    ∧ (∃ (s : State), s.storesCanonical ∧ s.sar.trigAt = some s.nsNow)
    ∧ (∃ (s : State), s.sar.conv = .idle) :=
  ⟨⟨clk .locked sar, by unfold State.storesCanonical cellsRise; decide +kernel⟩,
   ⟨z, by unfold State.storesCanonical cellsRise; decide +kernel⟩,
   ⟨z, by unfold State.storesCanonical cellsRise; decide +kernel⟩,
   ⟨clk .locked sar, by unfold State.storesCanonical cellsRise; decide +kernel⟩,
   ⟨15, { z with sar := { conv := .urgent 15 } }, by unfold State.storesCanonical cellsRise; decide +kernel⟩,
   ⟨15, 0, 0, { sar with sar := { conv := .slot 15 0 0 } }, by decide +kernel⟩,
   ⟨15, 1, 0, { sar with sar := { conv := .slot 15 1 0 } }, by decide +kernel⟩,
   ⟨{ sar with sar := { trigAt := some 0 } }, by unfold State.storesCanonical cellsRise; decide +kernel⟩,
   ⟨z, by decide +kernel⟩⟩

theorem witness_EdgesKeepDeadTimeAndMinimumPulse :
    (∃ (n : Fin 192) (s : State), (s.tb (n / 12)).run = .running ∧ (s.chan n).dueA = true ∧ (s.chan n).cmpA.toNat < (s.tb (n / 12)).len ∧
        (s.chan n).req = false ∧ (s.chan n).dropped = false ∧ (s.chan n).openAt = none)
    ∧ (∃ (n : Fin 192) (s : State), (s.tb (n / 12)).run = .running ∧ (s.chan n).dueB = true ∧ (s.chan n).cmpB.toNat < (s.tb (n / 12)).len) :=
  ⟨⟨191, (z.modTb 15 fun b => { b with run := .running }).modChan 191 fun c => { c with dueA := true, cmpA := 0 }, by decide +kernel⟩,
   ⟨191, (z.modTb 15 fun b => { b with run := .running }).modChan 191 fun c => { c with dueB := true, cmpB := 0 }, by decide +kernel⟩⟩

theorem witness_WaitsEndAndSyncPulsesAreJudged :
    (∃ (n : Fin 192) (w : Nat) (s : State), (s.chan n).wait = some w)
    ∧ (∃ (k : Fin 16) (n : Nat) (a : Nat) (s : State), n ∈ stackChans k ∧ (s.chan n).offSeq = some a ∧ (∀ m ∈ stackChans k, ∀ b, (s.chan
        m).offSeq = some b → a ≤ b))
    ∧ (∃ (s : State), s.storesCanonical)
    ∧ (∃ (s : State), s.storesCanonical ∧ (s.tb 0).run = .running ∧ (s.tb 0).syncSrc = 1 ∧ s.pwm.goodZero ≠ some (s.tb 0).zeroAt ∧
        s.pwm.missZero ≠ some (s.tb 0).zeroAt) :=
  ⟨⟨191, 0, z.modChan 191 fun c => { c with wait := some 0 }, by decide +kernel⟩,
   ⟨15, 191, 0, z.modChan 191 fun c => { c with offSeq := some 0 }, by decide +kernel, by decide +kernel, fun _ _ _ _ => Nat.zero_le _⟩,
   ⟨z, by unfold State.storesCanonical cellsRise; decide +kernel⟩,
   ⟨z.modTb 0 fun b => { b with run := .running, syncSrc := 1 }, by unfold State.storesCanonical cellsRise; decide +kernel⟩⟩

theorem witness_GateFeedbackAndRingWords :
    (∃ (s : State), s.linkMode = false)
    ∧ (∃ (n : Fin 96) (t0 : Nat) (s : State), (s.chan n).ackDue = some t0 ∧ (s.zone (n / 12)).causes = 0 ∧ s.latches (n / 12) 5 = true)
    ∧ (∃ (n : Fin 96) (t0 : Nat) (s : State), s.storesCanonical ∧ (s.chan n).ackDue = some t0 ∧ (s.zone (n / 12)).causes ≠ 0)
    ∧ (∃ (n : Fin 96) (t0 : Nat) (s : State), s.linkMode = false ∧ (s.chan n).diffAt = some t0 ∧ s.latches (n / 12) 6 = true)
    ∧ (∃ (s : State), s.linkMode = false)
    ∧ (∃ (s : State), s.linkMode = false)
    ∧ (∃ (s : State), s.linkMode = false)
    ∧ (∃ (s : State), s.linkMode = false)
    ∧ (∃ (i : Instr) (n : Fin 96) (k : Fin 8) (b : Bool) (s : State), i ∈ [.gaConfirm n b, .ackMismatch n, .gcFault n b, .fltTrip k b] ∧
        s.linkMode = true)
    ∧ (∃ (k : Fin 8) (s : State), s.linkMode = false ∧ s.configured k = true ∧ 0 < s.nodes k)
    ∧ (∃ (k : Fin 8) (words : List Word) (j : Nat) (s : State), s.linkMode = false ∧ s.configured k = true ∧ j < 12 ∧ j < s.nodes k ∧ vget
        (s.gs k).badRun j 0 = 2 ∧ (words[j]?.map fun w => drvCrcOk w && decide (drvNode w = j)).getD false = false)
    ∧ (∃ (k : Fin 8) (s : State), s.linkMode = false ∧ s.configured k = true ∧ 0 < s.nodes k ∧ (s.gs k).ost ≠ .running ∧ s.trp.clear = [])
    ∧ (∃ (n : Fin 96) (s : State), (s.chan n).diffAt = none) :=
  ⟨⟨z, by decide +kernel⟩,
   ⟨95, 0, ost .idle (z.modChan 95 fun c => { c with ackDue := some 0 }), by decide +kernel⟩,
   ⟨95, 0, (z.modChan 95 fun c => { c with ackDue := some 0 }).modZone 7 fun x => { x with causes := 1 },
     by unfold State.storesCanonical cellsRise; decide +kernel⟩,
   ⟨95, 0, ost .idle (z.modChan 95 fun c => { c with ga := true, diffAt := some 0 }), by decide +kernel⟩,
   ⟨z, by decide +kernel⟩,
   ⟨z, by decide +kernel⟩,
   ⟨z, by decide +kernel⟩,
   ⟨z, by decide +kernel⟩,
   ⟨.gaConfirm 0 true, 0, 0, true, linked, by decide +kernel⟩,
   ⟨7, eight, by decide +kernel⟩,
   ⟨7, [], 11, eight.modGs 7 fun g => { g with badRun := vset g.badRun 11 2 }, by decide +kernel⟩,
   ⟨7, eight, by decide +kernel⟩,
   ⟨95, z, by decide +kernel⟩⟩

theorem witness_TestsAndTrainingsRunPerStack :
    (∃ (c : Src) (p : Bytes) (s : State), s.admits c 0x0802 p ∧ s.gdl.ostRuns = [] ∧ pf p 0 2 ≠ 0 ∧ (∀ k < 16, (pf p 0 2).testBit k =
        true → s.ostMay k = true))
    ∧ (∃ (c : Src) (p : Bytes) (k : Nat) (s : State), s.storesCanonical ∧ s.admits c 0x0802 p ∧ k < 16 ∧ (pf p 0 2).testBit k = true ∧
        s.ostMay k = false)
    ∧ (∃ (c : Src) (p : Bytes) (k : Nat) (s : State), s.admits c 0x0803 p ∧ s.linkMode = true ∧ s.gdl.trainRuns = [] ∧ k < 16 ∧ (pf p 0
        2).testBit k = true ∧ s.configured k = true)
    ∧ (∃ (c : Src) (p : Bytes) (s : State), s.storesCanonical ∧ s.admits c 0x0803 p ∧ s.linkMode = false)
    ∧ (∃ (k : Fin 16) (s : State), (s.gs k).link = .training) :=
  ⟨⟨src, pay [0x80, 0], given src 0x0802 (pay [0x80, 0]) (ost .idle eight), by unfold State.admits; decide +kernel⟩,
   ⟨src, pay [0, 0x80], 15, given src 0x0802 (pay [0, 0x80]) z, by unfold State.storesCanonical cellsRise State.admits; decide +kernel⟩,
   ⟨src, pay [1, 0], 0, given src 0x0803 (pay [1, 0]) linked, by unfold State.admits; decide +kernel⟩,
   ⟨src, pay [1, 0], given src 0x0803 (pay [1, 0]) z, by unfold State.storesCanonical cellsRise State.admits; decide +kernel⟩,
   ⟨15, z.modGs 15 fun g => { g with link := .training }, by decide +kernel⟩⟩

theorem witness_FramesCrossTheGateLinks :
    (∃ (k : Fin 16) (b : Nat) (half : Bool) (s : State), s.storesCanonical ∧ s.linkMode = true ∧ s.configured k = true ∧ (s.gs k).link =
        .trained ∧ s.frameLoad k = some (b, half) ∧ s.sendsFrames = true ∧ (∀ e, s.engineOf k = some e → s.inPeriod e = true →
        (s.engN e).started = true ∧ (s.engN e).published = true) ∧ (s.gs k).frameFor ≠ some b)
    ∧ (∃ (k : Fin 16) (s : State), s.linkMode = true ∧ (s.gs k).link = .trained ∧ (s.tb k).run = .running ∧ s.sendsFrames = true ∧ (s.gs
        k).frameFor = some (s.lastLoad k) ∧ (s.gs k).loadFor ≠ some (s.lastLoad k))
    ∧ (∃ (k : Fin 16) (s : State), s.linkMode = true ∧ (s.gs k).link = .trained ∧ (s.gs k).pullMask ≠ 0 ∧ s.sendsFrames = true)
    ∧ (∃ (k : Fin 16) (f : Bytes) (s : State), s.linkMode = true ∧ (s.gs k).link = .trained ∧ f.length = 34 ∧ crc32cOk f = true ∧ pb f 0 =
        0x81 ∧ pb f 1 = k)
    ∧ (∃ (k : Fin 16) (f : Bytes) (s : State), s.storesCanonical ∧ s.linkMode = true ∧ (s.gs k).link = .trained ∧ (f.length ≠ 34 ∨ crc32cOk
        f = false) ∧ (s.gs k).crcRun + 1 ≤ s.lv .gdlCtrl 0 0 1 0)
    ∧ (∃ (k : Fin 16) (f : Bytes) (s : State), s.linkMode = true ∧ (s.gs k).link = .trained ∧ (f.length ≠ 34 ∨ crc32cOk f = false) ∧ s.lv
        .gdlCtrl 0 0 1 0 ≤ (s.gs k).crcRun) :=
  ⟨⟨0, 1024000, false, framing id, by unfold State.storesCanonical cellsRise; decide +kernel, by decide +kernel, by decide +kernel,
     by decide +kernel, by decide +kernel, by decide +kernel, fun e h => absurd (h.symm.trans (by decide +kernel : _ = none)) (by
     simp), by decide +kernel⟩,
   ⟨0, framing fun g => { g with frameFor := some 0 }, by decide +kernel⟩,
   ⟨0, framing fun g => { g with pullMask := 7 }, by decide +kernel⟩,
   ⟨0, withCrc32c (pay (0x81 :: List.replicate 29 0)), framing id, by decide +kernel⟩,
   ⟨0, [], framing fun g => { g with crcRun := 2 }, by unfold State.storesCanonical cellsRise; decide +kernel⟩,
   ⟨0, [], framing fun g => { g with crcRun := 3 }, by decide +kernel⟩⟩

theorem witness_LandsAndCommandsTripTheirStacks :
    (∃ (i : Fin 16) (level : Bool) (s : State), s.tripActive i = false ∧ level ≠ s.lvb .trpInCfg i 0 7)
    ∧ (∃ (i : Fin 16) (level : Bool) (s : State), (s.tripActive i = true ∨ level = s.lvb .trpInCfg i 0 7))
    ∧ (∃ (c : Src) (p : Bytes) (s : State), s.storesCanonical ∧ s.admits c 0x0601 p ∧ pf p 0 2 ≠ 0 ∧ (∀ k < 16, (pf p 0 2).testBit k = true
        → s.configured k = true))
    ∧ (∃ (c : Src) (p : Bytes) (s : State), s.storesCanonical ∧ s.admits c 0x0601 p ∧ (pf p 0 2 = 0 ∨ (∃ k < 16, (pf p 0 2).testBit k =
        true ∧ s.configured k = false))) :=
  ⟨⟨15, true, cfg [(.trpInCfg, 15, 0)] z, by decide +kernel⟩,
   ⟨15, true, cfg [(.trpInCfg, 15, 0x80)] z, by decide +kernel⟩,
   ⟨src, pay [1, 0], given src 0x0601 (pay [1, 0]) direct, by unfold State.storesCanonical cellsRise State.admits; decide +kernel⟩,
   ⟨src, pay [0, 0x80], given src 0x0601 (pay [0, 0x80]) direct,
     by unfold State.storesCanonical cellsRise State.admits; decide +kernel⟩⟩

theorem witness_ClearRequestsAndTripRecords :
    (∃ (c : Src) (p : Bytes) (s : State), s.storesCanonical ∧ s.admits c 0x0602 p ∧ s.pair = false ∧ (∀ k < 16, (pf p 0 2).testBit k =
        true → (s.gs k).ost ≠ .running ∧ (s.zone k).causes.getLsbD 3 = false ∧ (s.zone k).causes.getLsbD 4 = false))
    ∧ (∃ (c : Src) (p : Bytes) (k : Nat) (s : State), s.admits c 0x0602 p ∧ s.pair = false ∧ s.linkMode = false ∧ k < 8 ∧ pf p 0 2 = 2 ^ k
        ∧ (s.cleared (2 ^ k)).testBit k = true ∧ (s.zone k).causes ≠ 0 ∧ (s.gs k).ost = .running ∧ s.ops.st ≠ .idle ∧ (s.zone
        k).causes.getLsbD 3 = false ∧ (s.zone k).causes.getLsbD 4 = false)
    ∧ (∃ (c : Src) (p : Bytes) (k : Nat) (s : State), s.admits c 0x0602 p ∧ s.linkMode = false ∧ k < 8 ∧ (pf p 0 2).testBit k = true ∧
        s.configured k = true ∧ 0 < s.nodes k ∧ ((s.zone k).causes.getLsbD 3 = true ∨ (s.zone k).causes.getLsbD 4 = true))
    ∧ (∃ (r : ClearReq) (s : State), s.storesCanonical ∧ s.pair = false ∧ s.trp.clear.find? s.clearReady = some r ∧ (∀ k < 16,
        r.mask.getLsbD k = true → (s.gs k).ost ≠ .running))
    ∧ (∃ (s : State), s.trp.clear.find? s.clearReady = none)
    ∧ (∃ (at_ : Nat) (s : State), (s.tb s.refTb).run ≠ .running ∧ s.ntReachFine s.nextMicro = some at_)
    ∧ (∃ (s : State), ((s.tb s.refTb).run = .running ∨ s.ntReachFine s.nextMicro = none)) :=
  ⟨⟨src, pay [0xFF, 0xFF], given src 0x0602 (pay [0xFF, 0xFF]) z,
     by unfold State.storesCanonical cellsRise State.admits; decide +kernel⟩,
   ⟨src, pay [0x80], 7, given src 0x0602 (pay [0x80]) (ost .running ((eight.modZone 7 fun x => { x with causes := 1 }).modGs 7 fun g =>
     { g with ost := .running })), by unfold State.admits; decide +kernel⟩,
   ⟨src, pay [0x80, 0], 7, given src 0x0602 (pay [0x80, 0]) (eight.modZone 7 fun x => { x with causes := 8 }),
     by unfold State.admits; decide +kernel⟩,
   ⟨clr, { z with trp := { clear := [clr] } }, by unfold State.storesCanonical cellsRise; decide +kernel⟩,
   ⟨z, by decide +kernel⟩,
   ⟨32000, z, by decide +kernel⟩,
   ⟨z.modTb 0 fun b => { b with run := .running }, by decide +kernel⟩⟩

theorem witness_ComparisonsMoveTheLoop :
    (∃ (s : State), s.refSel ≠ 3 ∧ s.clk.st ≠ .acquire)
    ∧ (∃ (s : State), s.clk.st = .acquire)
    ∧ (∃ (err : Int) (e : Int) (p : Bool) (q : Bool) (s : State), s.clk.st = .locked ∧ (p = true ∨ s.refSel = 3) ∧ (s.clk.qualified = true
        ∨ s.atComparison.qualifies q = true ∨ s.clk.refActive = s.refSel) ∧ s.atComparison.phaseError s.refSel err = e)
    ∧ (∃ (err : Int) (e : Int) (p : Bool) (s : State), s.clk.st = .coasting ∧ (p = true ∨ s.refSel = 3) ∧ s.atComparison.phaseError
        s.refSel err = e)
    ∧ (∃ (err : Int) (e : Int) (p : Bool) (s : State), s.clk.st = .slewing ∧ (p = true ∨ s.refSel = 3) ∧ s.atComparison.phaseError s.refSel
        err = e)
    ∧ (∃ (p : Bool) (s : State), s.clk.st = .jumpWait ∧ s.clk.stepWait = [] ∧ (p = true ∨ s.refSel = 3))
    ∧ (∃ (err : Int) (e : Int) (p : Bool) (c : Src) (u : State) (s : State), s.storesCanonical ∧ s.clk.st = .jumpWait ∧ s.clk.stepWait =
        [c] ∧ (p = true ∨ s.refSel = 3) ∧ s.tbsStopped = true ∧ s.atComparison.phaseError s.refSel err = e ∧ u =
        s.atComparison.modClk (fun k => if 2 ≤ s.refSel then k.align e else k))
    ∧ (∃ (p : Bool) (c : Src) (s : State), s.storesCanonical ∧ s.clk.st = .jumpWait ∧ s.clk.stepWait = [c] ∧ (p = true ∨ s.refSel = 3) ∧
        s.tbsStopped = false)
    ∧ (∃ (s : State), s.clk.st = .locked ∧ alwaysQualified s.refSel = false ∧ s.clk.refActive ≠ s.refSel ∧ s.clk.qualified = false)
    ∧ (∃ (s : State), s.clk.st = .locked ∧ s.clk.refActive ≠ s.refSel ∧ s.refSel ≠ 3 ∧ s.atComparison.qualifies true = false ∧
        s.clk.qualified = false) :=
  ⟨⟨clk .locked z, by decide +kernel⟩,
   ⟨z, by decide +kernel⟩,
   ⟨0, 0, true, true, clk .locked z, by decide +kernel⟩,
   ⟨0, 0, true, clk .coasting z, by decide +kernel⟩,
   ⟨0, 0, true, clk .slewing z, by decide +kernel⟩,
   ⟨true, clk .jumpWait z, by decide +kernel⟩,
   ⟨0, 0, true, src, (({ z with clk := { st := .jumpWait, stepWait := [src] } }).atComparison.modClk (fun k => if 2 ≤ State.refSel
     ({ z with clk := { st := .jumpWait, stepWait := [src] } }) then k.align 0 else k)),
     { z with clk := { st := .jumpWait, stepWait := [src] } }, by unfold State.storesCanonical cellsRise; decide +kernel,
     by decide +kernel, by decide +kernel, by decide +kernel, by decide +kernel, by decide +kernel, rfl⟩,
   ⟨true, src, { z.modTb 15 fun b => { b with run := .running } with clk := { st := .jumpWait, stepWait := [src] } },
     by unfold State.storesCanonical cellsRise; decide +kernel⟩,
   ⟨cfg [(.clkRef, 0, 1)] { z with clk := { st := .locked, refActive := 0 } }, by decide +kernel⟩,
   ⟨cfg [(.clkRef, 0, 1)] { z with clk := { st := .locked, refActive := 0 } }, by decide +kernel⟩⟩

theorem witness_LostReferencesAndReacquisition :
    (∃ (s : State), s.refSel = 3)
    ∧ (∃ (s : State), s.refSel ≠ 3)
    ∧ (∃ (s : State), s.clk.st = .acquire ∧ s.ops.st = .selftest)
    ∧ (∃ (s : State), s.storesCanonical ∧ s.clk.st = .acquire ∧ s.ops.st ≠ .selftest)
    ∧ (∃ (s : State), s.clk.st ≠ .acquire)
    ∧ (∃ (s : State), s.ops.st ≠ .halted ∧ s.ops.st ≠ .off)
    ∧ (∃ (c : Src) (p : Bytes) (s : State), s.storesCanonical ∧ s.admits c 0x0804 p ∧ pb p 0 = 0 ∧ s.clk.st = .jumpWait ∧ s.clk.stepWait =
        [])
    ∧ (∃ (c : Src) (p : Bytes) (s : State), s.admits c 0x0804 p ∧ pb p 0 = 1 ∧ s.clk.st = .jumpWait ∧ (∀ t < 16, (s.tb t).run = .stopped))
    ∧ (∃ (c : Src) (p : Bytes) (st : Status) (d : Nat) (s : State), s.storesCanonical ∧ s.admits c 0x0804 p ∧ (1 < pb p 0 ∧ st = .checkFail
        ∧ d = 3 ∨ pb p 0 ≤ 1 ∧ s.clk.st ≠ .jumpWait ∧ st = .error ∧ d = 2 ∨ pb p 0 = 1 ∧ s.clk.st = .jumpWait ∧ (∃ t < 16, (s.tb
        t).run ≠ .stopped) ∧ st = .error ∧ d = 1))
    ∧ (∃ (s : State), s.clk.strobe ≠ 0 ∧ s.clk.st ≠ .acquire)
    ∧ (∃ (s : State), (s.clk.strobe = 0 ∨ s.clk.st = .acquire)) :=
  ⟨⟨cfg [(.clkRef, 0, 3)] z, by decide +kernel⟩,
   ⟨cfg [(.clkRef, 0, 2)] z, by decide +kernel⟩,
   ⟨ost .selftest z, by decide +kernel⟩,
   ⟨z, by unfold State.storesCanonical cellsRise; decide +kernel⟩,
   ⟨clk .locked z, by decide +kernel⟩,
   ⟨z, by decide +kernel⟩,
   ⟨src, pay [0], given src 0x0804 (pay [0]) (clk .jumpWait z), by unfold State.storesCanonical cellsRise State.admits; decide +kernel⟩,
   ⟨src, pay [1], given src 0x0804 (pay [1]) (clk .jumpWait z), by unfold State.admits; decide +kernel⟩,
   ⟨src, pay [2], .checkFail, 3, given src 0x0804 (pay [2]) z, by unfold State.storesCanonical cellsRise State.admits; decide +kernel⟩,
   ⟨{ z with clk := { st := .locked, strobe := 1 } }, by decide +kernel⟩,
   ⟨z, by decide +kernel⟩⟩

theorem witness_NetworkTimeIsSteeredAndSet :
    (∃ (v : DWord) (s : State), s.storesCanonical ∧ s.lv .ntCtrl 0 0 24 16 * 0x400000000 < (Int.natAbs (Int.ofNat (v.toNat % 2 ^ 40) -
        0x400000000)) * 1000000)
    ∧ (∃ (v : DWord) (s : State), s.storesCanonical ∧ (Int.natAbs (Int.ofNat (v.toNat % 2 ^ 40) - 0x400000000)) * 1000000 ≤ s.lv .ntCtrl 0
        0 24 16 * 0x400000000)
    ∧ (∃ (c : Src) (p : Bytes) (s : State), s.storesCanonical ∧ s.admits c 0x0703 p ∧ c.applyAt = 0 ∧ pb p 0 ≤ 1 ∧ s.anySpore = false)
    ∧ (∃ (c : Src) (p : Bytes) (d : Nat) (s : State), s.storesCanonical ∧ s.admits c 0x0703 p ∧ (c.applyAt ≠ 0 ∧ d = 8 ∨ c.applyAt = 0 ∧ 1
        < pb p 0 ∧ d = 2 ∨ c.applyAt = 0 ∧ pb p 0 ≤ 1 ∧ s.anySpore = true ∧ d = 1))
    ∧ (∃ (t0 : Nat) (s : State), s.lvb .ntCtrl 0 0 0 = true ∧ s.ntReach ((s.nt.sec.toNat + 1) * 1000000000 * 4294967296) = some t0) :=
  ⟨⟨0, z, by unfold State.storesCanonical cellsRise; decide +kernel⟩,
   ⟨0x400000000, z, by unfold State.storesCanonical cellsRise; decide +kernel⟩,
   ⟨src, pay [1], given src 0x0703 (pay [1]) z, by unfold State.storesCanonical cellsRise State.admits; decide +kernel⟩,
   ⟨src, pay [2], 2, given src 0x0703 (pay [2]) z, by unfold State.storesCanonical cellsRise State.admits; decide +kernel⟩,
   ⟨32000000000, cfg [(.ntCtrl, 0, 1)] z, by decide +kernel⟩⟩

theorem witness_SporeSlotsFillAndFallDue :
    (∃ (c : Src) (p : Bytes) (s : State), s.storesCanonical ∧ s.admits c 0x0701 p ∧ c.applyAt = 0 ∧ s.slotPending (pb p 0) = false ∧
        s.sporeCheck p = none ∧ (BitVec.ofNat 64 (pf p 8 8) = 0 ∨ s.nt64 < BitVec.ofNat 64 (pf p 8 8) ∨ (pb p 2).testBit 0 = true))
    ∧ (∃ (c : Src) (p : Bytes) (st : Status) (d : Nat) (s : State), s.storesCanonical ∧ s.admits c 0x0701 p ∧ (c.applyAt ≠ 0 ∧ st =
        .checkFail ∧ d = 8 ∨ c.applyAt = 0 ∧ s.slotPending (pb p 0) = true ∧ st = .error ∧ d = 1 ∨ c.applyAt = 0 ∧ s.slotPending (pb
        p 0) = false ∧ s.sporeCheck p = some d ∧ st = .checkFail ∨ c.applyAt = 0 ∧ s.slotPending (pb p 0) = false ∧ s.sporeCheck p =
        none ∧ BitVec.ofNat 64 (pf p 8 8) ≠ 0 ∧ BitVec.ofNat 64 (pf p 8 8) ≤ s.nt64 ∧ (pb p 2).testBit 0 = false ∧ st = .late ∧ d =
        0))
    ∧ (∃ (c : Src) (p : Bytes) (s : State), s.storesCanonical ∧ s.admits c 0x0702 p ∧ c.applyAt = 0)
    ∧ (∃ (c : Src) (p : Bytes) (s : State), s.storesCanonical ∧ s.admits c 0x0702 p ∧ c.applyAt ≠ 0)
    ∧ (∃ (t0 : Nat) (s : State), s.sporeCycle = some t0) :=
  ⟨⟨src, pay ([0xFF, 3, 1] ++ List.replicate 13 0 ++ [1]), given src 0x0701 (pay ([0xFF, 3, 1] ++ List.replicate 13 0 ++ [1])) z,
     by unfold State.storesCanonical cellsRise State.admits; decide +kernel⟩,
   ⟨src, pay [0, 0], .checkFail, 2, given src 0x0701 (pay [0, 0]) z,
     by unfold State.storesCanonical cellsRise State.admits; decide +kernel⟩,
   ⟨src, [], given src 0x0702 [] z, by unfold State.storesCanonical cellsRise State.admits; decide +kernel⟩,
   ⟨{ src with applyAt := 1 }, [], given { src with applyAt := 1 } 0x0702 [] z,
     by unfold State.storesCanonical cellsRise State.admits; decide +kernel⟩,
   ⟨128, { z with nt := { slots := vset (Vector.replicate 256 none) 0xFF (some (spore 3).spore) } }, by decide +kernel⟩⟩

theorem witness_SporesExecuteAtATick :
    (∃ (d : DueSlot) (s : State), s.ctlRuns = true ∧ s.nt.batches = [[d]])
    ∧ (∃ (d : DueSlot) (u : State) (fails : List FailEntry) (s : State), s.ctlRuns = true ∧ s.nt.batches = [[d]] ∧ s.nt.recs.length < 64 ∧
        d.spore.action = 1 ∧ s.stg.pendings = [] ∧ (s.stg.st = .dirty ∨ s.stg.st = .failed) ∧ u = (s.advanceTo ((s.now + 31) / 32 *
        32)).modNt (fun n => { n with batches := [] }) ∧ u.checkAll u.stg.stage u.stg.images = fails ∧ fails ≠ [])
    ∧ (∃ (d : DueSlot) (s : State), s.ctlRuns = true ∧ s.nt.batches = [[d]] ∧ s.nt.recs.length < 64 ∧ d.spore.action = 3)
    ∧ (∃ (d : DueSlot) (s : State), s.storesCanonical ∧ s.ctlRuns = true ∧ s.nt.batches = [[d]] ∧ s.nt.recs.length < 64 ∧ d.spore.action =
        5)
    ∧ (∃ (d : DueSlot) (s : State), s.ctlRuns = true ∧ s.nt.batches = [[d]] ∧ s.nt.recs.length < 64 ∧ (d.spore.action = 2 ∨ d.spore.action
        = 6) ∧ s.pair = false ∧ s.cHot = false)
    ∧ (∃ (d : DueSlot) (s : State), s.ctlRuns = true ∧ s.nt.batches = [[d]] ∧ d.spore.action = 2 ∧ s.pair = false ∧ s.cHot = true)
    ∧ (∃ (d : DueSlot) (s : State), s.ctlRuns = true ∧ s.nt.batches = [[d]] ∧ d.spore.action = 6 ∧ s.pair = false ∧ s.cHot = true)
    ∧ (∃ (d : DueSlot) (s : State), s.ctlRuns = true ∧ s.nt.batches = [[d]] ∧ d.spore.action = 4 ∧ s.pair = true ∧ s.twn.role = true ∧
        s.twinReady = true)
    ∧ (∃ (d : DueSlot) (u : State) (s : State), s.ctlRuns = true ∧ s.nt.batches = [[d]] ∧ d.spore.action = 1 ∧ s.stg.pendings = [] ∧
        s.stg.st = .checked ∧ u = (s.advanceTo ((s.now + 31) / 32 * 32)).modNt (fun n => { n with batches := [] }) ∧ u.commitFails =
        none)
    ∧ (∃ (b : List DueSlot) (rest : List (List DueSlot)) (s : State), s.storesCanonical ∧ s.ctlRuns = true ∧ s.nt.batches = b :: rest ∧
        s.nt.recs.length + b.length ≤ 64 ∧ (∀ d ∈ b, d.spore.action = 3 ∨ d.spore.action = 5))
    ∧ (∃ (s : State), (s.ctlRuns = false ∨ s.nt.batches = [])) :=
  ⟨⟨spore 3, batch 3 (clk .locked z), by decide +kernel⟩,
   ⟨spore 1, ((batch 1 (clk .locked badStage)).advanceTo (((batch 1 (clk .locked badStage)).now + 31) / 32 * 32)).modNt (fun n =>
     { n with batches := [] }), fails (((batch 1 (clk .locked badStage)).advanceTo (((batch 1 (clk .locked badStage)).now + 31) / 32
     * 32)).modNt (fun n => { n with batches := [] })), batch 1 (clk .locked badStage), by decide +kernel, by decide +kernel,
     by decide +kernel, by decide +kernel, by decide +kernel, by decide +kernel, rfl, rfl, by decide +kernel⟩,
   ⟨spore 3, batch 3 (clk .locked z), by decide +kernel⟩,
   ⟨spore 5, batch 5 (clk .locked z), by unfold State.storesCanonical cellsRise; decide +kernel⟩,
   ⟨spore 6, batch 6 (clk .locked z), by decide +kernel⟩,
   ⟨spore 2, batch 2 (ost .running (clk .locked z)), by decide +kernel⟩,
   ⟨spore 6, batch 6 (ost .running (clk .locked z)), by decide +kernel⟩,
   ⟨spore 4, batch 4 (clk .locked (twin fun t => { t with role := true, twin := { flags := 2 } })), by decide +kernel⟩,
   ⟨spore 1, ((batch 1 (clk .locked checkedStage)).advanceTo (((batch 1 (clk .locked checkedStage)).now + 31) / 32 * 32)).modNt (fun n
     => { n with batches := [] }), batch 1 (clk .locked checkedStage), by decide +kernel, by decide +kernel, by decide +kernel,
     by decide +kernel, by decide +kernel, rfl, by decide +kernel⟩,
   ⟨[{ spore 3 with slot := 1 }, { spore 5 with same := true }], [[spore 3]], { clk .locked z with nt :=
     { batches := [[{ spore 3 with slot := 1 }, { spore 5 with same := true }], [spore 3]] } },
     by unfold State.storesCanonical cellsRise; decide +kernel⟩,
   ⟨z, by decide +kernel⟩⟩

theorem witness_EthernetFramesComeAndGo :
    (∃ (p : Fin 2) (s : State), s.lvb .ethPortCfg p 0 0 = false)
    ∧ (∃ (p : Fin 2) (s : State), s.storesCanonical ∧ s.lvb .ethPortCfg p 0 0 = true)
    ∧ (∃ (p : Fin 2) (f : Bytes) (s : State), s.lvb .ethPortCfg p 0 0 = true ∧ (f.length < 60 ∨ 1996 < f.length))
    ∧ (∃ (p : Fin 2) (f : Bytes) (s : State), s.storesCanonical ∧ s.lvb .ethPortCfg p 0 0 = true ∧ 60 ≤ f.length ∧ f.length ≤ 1996 ∧
        s.ethMode ≠ 1 ∧ s.ethMode ≠ 2)
    ∧ (∃ (p : Fin 2) (f : Bytes) (x : Bytes × Nat × Nat) (s : State), s.storesCanonical ∧ s.lvb .ethPortCfg p 0 0 = true ∧ 60 ≤ f.length ∧
        f.length ≤ 1996 ∧ s.ethMode = 1 ∧ etherType f 12 ≠ 0x8808 ∧ etherType f (f.length - 2) = 0x88FB ∧ (pb f (f.length - 4) / 16
        = 0xA ∨ pb f (f.length - 4) / 16 = 0xB) ∧ isPtp f = false ∧ x ∈ s.eth.dups ∧ x.1 = (f.drop 6).take 6 ∧ x.2.1 = etherType f
        (f.length - 6) ∧ s.now < x.2.2 + 12800000000)
    ∧ (∃ (p : Fin 2) (f : Bytes) (s : State), s.lvb .ethPortCfg p 0 0 = true ∧ 60 ≤ f.length ∧ f.length ≤ 1996 ∧ s.ethMode = 1 ∧ etherType
        f 12 ≠ 0x8808 ∧ etherType f (f.length - 2) = 0x88FB ∧ (pb f (f.length - 4) / 16 = 0xA ∨ pb f (f.length - 4) / 16 = 0xB) ∧
        isPtp f = true ∧ etherType (f.take (f.length - 6)) (etherOfs (f.take (f.length - 6)) 3 12) ≠ 0x88FB ∧ s.isPtm (f.take
        (f.length - 6)) = false ∧ (pb f 0).testBit 0 = true ∧ s.eth.rxq.length + (rxEntry (f.take (f.length - 6)) (s.rxStamp
        p)).length ≤ 32768)
    ∧ (∃ (p : Fin 2) (f : TxFrame) (rest : List TxFrame) (s : State), s.storesCanonical ∧ s.lvb .ethPortCfg p 0 0 = true ∧ (s.port p).link
        = true ∧ (s.port p).txq = f :: rest)
    ∧ (∃ (p : Fin 2) (f : Bytes) (rest : List Bytes) (s : State), s.lvb .ethPortCfg p 0 0 = true ∧ (s.port p).link = true ∧ (s.port p).txq
        = [] ∧ s.eth.txq = f :: rest ∧ s.ethMode = 0)
    ∧ (∃ (p : Fin 2) (s : State), (s.lvb .ethPortCfg p 0 0 = false ∨ (s.port p).link = false))
    ∧ (∃ (s : State), (s.ethMode = 1 ∨ s.ethMode = 2))
    ∧ (∃ (s : State), s.ethMode ≠ 1 ∧ s.ethMode ≠ 2) :=
  ⟨⟨1, z, by decide +kernel⟩,
   ⟨1, eth [] {}, by unfold State.storesCanonical cellsRise; decide +kernel⟩,
   ⟨1, pay (List.replicate 59 0), eth [] {}, by decide +kernel⟩,
   ⟨1, pay (List.replicate 60 0), eth [] {}, by unfold State.storesCanonical cellsRise; decide +kernel⟩,
   ⟨1, prp, (pay (List.replicate 6 0), 0, 0), eth [(.ethCtrl, 0, 1)] { dups := [(pay (List.replicate 6 0), 0, 0)] },
     by unfold State.storesCanonical cellsRise; decide +kernel⟩,
   ⟨1, ptp, eth [(.ethCtrl, 0, 1)] {}, by decide +kernel⟩,
   ⟨1, { bytes := [] }, [], eth [] { ports := vset (Vector.replicate 2 {}) 1 { link := true, txq := [{ bytes := [] }] } },
     by unfold State.storesCanonical cellsRise; decide +kernel⟩,
   ⟨1, [], [], eth [] { ports := vset (Vector.replicate 2 {}) 1 { link := true }, txq := [[]] }, by decide +kernel⟩,
   ⟨1, z, by decide +kernel⟩,
   ⟨eth [(.ethCtrl, 0, 2)] {}, by decide +kernel⟩,
   ⟨z, by decide +kernel⟩⟩

theorem witness_PlantTriggersAreSentAndJudged :
    (∃ (e : PtmEvent) (rest : List PtmEvent) (k : PlantKey) (s : State), s.storesCanonical ∧ s.nt.events = e :: rest ∧ s.ptmTxKey = some
        k)
    ∧ (∃ (e : PtmEvent) (rest : List PtmEvent) (s : State), s.storesCanonical ∧ s.nt.events = e :: rest ∧ s.ptmTxKey = none)
    ∧ (∃ (s : State), s.nt.events = [])
    ∧ (∃ (t0 : Nat) (s : State), s.nt.holdoff = some t0)
    ∧ (∃ (s : State), s.storesCanonical ∧ s.lvb .ntPtmCtrl 0 0 1 = true)
    ∧ (∃ (s : State), s.lvb .ntPtmCtrl 0 0 1 = false)
    ∧ (∃ (u : BitVec 16) (x : PtmSender) (s : State), s.nt.senders.find? (fun x => x.unit = u) = some x) :=
  ⟨⟨ev, [], plantKey, { z with nt := { events := [ev] }, sec := { plant := vset (Vector.replicate 4 none) 3 (some plantKey) } },
     by unfold State.storesCanonical cellsRise; decide +kernel⟩,
   ⟨ev, [], { z with nt := { events := [ev] } }, by unfold State.storesCanonical cellsRise; decide +kernel⟩,
   ⟨z, by decide +kernel⟩,
   ⟨0, { z with nt := { holdoff := some 0 } }, by decide +kernel⟩,
   ⟨cfg [(.ntPtmCtrl, 0, 2)] z, by unfold State.storesCanonical cellsRise; decide +kernel⟩,
   ⟨z, by decide +kernel⟩,
   ⟨7, { unit := 7, seq := 0, sendNt := 0, at_ := 0 }, { z with nt := { senders := [{ unit := 7, seq := 0, sendNt := 0, at_ := 0 }] }
     }, by decide +kernel⟩⟩

theorem witness_RingsFetchWhatTheirDoorbellsName :
    (∃ (r : Fin 128) (v : Word) (s : State), s.bellOk r v = true)
    ∧ (∃ (off : Offset), off.toNat % 4096 = 0)
    ∧ (∃ (off : Offset), off.toNat % 4096 = 4)
    ∧ (∃ (off : Offset) (s : State), s.storesCanonical ∧ off.toNat % 4096 ≠ 0 ∧ off.toNat % 4096 ≠ 4)
    ∧ (∃ (off : Offset), off.toNat % 4096 = 0)
    ∧ (∃ (off : Offset), off.toNat % 4096 = 4)
    ∧ (∃ (off : Offset) (s : State), s.storesCanonical ∧ off.toNat % 4096 ≠ 0 ∧ off.toNat % 4096 ≠ 4)
    ∧ (∃ (r : Fin 128) (v : Word) (s : State), s.bellOk r v = true)
    ∧ (∃ (r : Fin 128) (v : Word) (s : State), s.storesCanonical ∧ s.bellOk r v = false)
    ∧ (∃ (r : Fin 128) (v : Word) (s : State), s.storesCanonical ∧ s.bellOk r v = false)
    ∧ (∃ (r : Fin 128) (s : State), s.storesCanonical ∧ s.mayFetch r = true)
    ∧ (∃ (r : Fin 128) (s : State), s.mayFetch r = true)
    ∧ (∃ (r : Fin 128) (s : State), s.mayFetch r = false)
    ∧ (∃ (r : Fin 128) (seq : DWord) (f : Flight) (s : State), s.storesCanonical ∧ s.cmd.flights.find? (fun f => f.ring = r && f.seq = seq
        && f.work = .parse) = some f)
    ∧ (∃ (r : Fin 128) (seq : DWord) (f : Flight) (s : State), s.storesCanonical ∧ s.cmd.flights.find? (fun f => f.ring = r && f.seq = seq
        && s.cmd.ready.any fun w => w.no = f.no) = some f) :=
  ⟨⟨127, 15, runs 127 id, by decide +kernel⟩,
   ⟨0, by decide +kernel⟩,
   ⟨4, by decide +kernel⟩,
   ⟨8, z, by unfold State.storesCanonical cellsRise; decide +kernel⟩,
   ⟨0, by decide +kernel⟩,
   ⟨4, by decide +kernel⟩,
   ⟨8, z, by unfold State.storesCanonical cellsRise; decide +kernel⟩,
   ⟨127, 15, runs 127 id, by decide +kernel⟩,
   ⟨127, 16, runs 127 id, by unfold State.storesCanonical cellsRise; decide +kernel⟩,
   ⟨127, 16, runs 127 id, by unfold State.storesCanonical cellsRise; decide +kernel⟩,
   ⟨127, runs 127 fun q => { q with sqTail := 1 }, by unfold State.storesCanonical cellsRise; decide +kernel⟩,
   ⟨127, runs 127 fun q => { q with sqTail := 1 }, by decide +kernel⟩,
   ⟨127, z, by decide +kernel⟩,
   ⟨0, 0, fl .parse [] [], z.modCmd fun c => { c with flights := [fl .parse [] []] },
     by unfold State.storesCanonical cellsRise; decide +kernel⟩,
   ⟨0, 0, fl .place [] [], z.modCmd fun c =>
     { c with flights := [fl .place [] []], ready := [{ level := 0, kind := .place, no := 1 }] },
     by unfold State.storesCanonical cellsRise; decide +kernel⟩⟩

theorem witness_WorkItemsLeadToAcceptance :
    (∃ (u : Fin 7) (w : WorkItem) (s : State), (∀ f ∈ s.cmd.flights, s.now ≤ f.deadline) ∧ vget s.cmd.units u none = none ∧ s.pick u =
        some w)
    ∧ (∃ (f : Flight) (s : State), s.storesCanonical ∧ s.cmd.flights = [f] ∧ f.deadline < s.now ∧ s.cmd.ready.any (fun w => w.no = f.no) =
        true)
    ∧ (∃ (u : Fin 7) (s : State), (∀ f ∈ s.cmd.flights, s.now ≤ f.deadline) ∧ (vget s.cmd.units u none ≠ none ∨ s.pick u = none))
    ∧ (∃ (core : Fin 2) (f : Flight) (st : Status) (d : Nat) (s : State), s.storesCanonical ∧ s.ops.coresStopped = false ∧ s.unitWork core
        .parse = some f ∧ descRefusal f.desc f.payload (opRow f.opcode) (s.applyLate f) = some (st, d))
    ∧ (∃ (core : Fin 2) (f : Flight) (s : State), s.storesCanonical ∧ s.ops.coresStopped = false ∧ s.unitWork core .parse = some f ∧
        descRefusal f.desc f.payload (opRow f.opcode) (s.applyLate f) = none ∧ s.pair = true ∧ s.twn.role = false ∧ f.opcode ≠
        0x0805 ∧ f.opcode ≠ 0x0501)
    ∧ (∃ (core : Fin 2) (f : Flight) (s : State), s.storesCanonical ∧ s.ops.coresStopped = false ∧ s.unitWork core .parse = some f ∧
        descRefusal f.desc f.payload (opRow f.opcode) (s.applyLate f) = none ∧ s.now ≤ f.deadline ∧ (s.pair = false ∨ s.twn.role =
        true ∨ f.opcode = 0x0805 ∨ f.opcode = 0x0501))
    ∧ (∃ (core : Fin 2) (s : State), (s.ops.coresStopped = true ∨ s.unitWork core .parse = none))
    ∧ (∃ (u : Fin 7) (f : Flight) (s : State), s.storesCanonical ∧ s.unitWork u .verify = some f ∧ s.now ≤ f.deadline)
    ∧ (∃ (u : Fin 7) (s : State), s.unitWork u .verify = none)
    ∧ (∃ (core : Fin 2) (f : Flight) (s : State), s.storesCanonical ∧ s.ops.coresStopped = false ∧ s.unitWork core .place = some f ∧ s.pair
        = true ∧ s.twn.role = false ∧ f.opcode ≠ 0x0805 ∧ f.opcode ≠ 0x0501)
    ∧ (∃ (core : Fin 2) (f : Flight) (d : Nat) (s : State), s.storesCanonical ∧ s.places core f ∧ s.placeAuth f = some d)
    ∧ (∃ (core : Fin 2) (f : Flight) (p : PastCmd) (s : State), s.storesCanonical ∧ s.places core f ∧ s.placeAuth f = none ∧ s.pastOf
        f.ring f.seq = some p)
    ∧ (∃ (core : Fin 2) (f : Flight) (st : Status) (d : Nat) (s : State), s.storesCanonical ∧ s.places core f ∧ s.placeAuth f = none ∧
        s.pastOf f.ring f.seq = none ∧ s.replayRefusal f.ring f.seq f.applyAt f.opcode f.payload = some (st, d))
    ∧ (∃ (core : Fin 2) (f : Flight) (s : State), s.storesCanonical ∧ s.places core f ∧ s.placeAuth f = none ∧ s.pastOf f.ring f.seq = none
        ∧ s.replayRefusal f.ring f.seq f.applyAt f.opcode f.payload = none ∧ s.ops.st = .halted ∧ haltOk f.opcode = false)
    ∧ (∃ (core : Fin 2) (f : Flight) (s : State), s.storesCanonical ∧ s.places core f ∧ s.placeAuth f = none ∧ s.pastOf f.ring f.seq = none
        ∧ s.replayRefusal f.ring f.seq f.applyAt f.opcode f.payload = none ∧ s.ops.st = .stopping ∧ (f.opcode = 0x0610 ∨ f.opcode =
        0x0611))
    ∧ (∃ (core : Fin 2) (f : Flight) (s : State), s.storesCanonical ∧ s.places core f ∧ s.placeAuth f = none ∧ s.pastOf f.ring f.seq = none
        ∧ s.replayRefusal f.ring f.seq f.applyAt f.opcode f.payload = none ∧ s.ops.st ≠ .halted ∧ (s.ops.st ≠ .stopping ∨ (f.opcode
        ≠ 0x0610 ∧ f.opcode ≠ 0x0611)) ∧ s.mboxReady f = false ∧ s.now ≤ f.deadline)
    ∧ (∃ (core : Fin 2) (f : Flight) (s : State), s.storesCanonical ∧ s.places core f ∧ s.placeAuth f = none ∧ s.pastOf f.ring f.seq = none
        ∧ s.replayRefusal f.ring f.seq f.applyAt f.opcode f.payload = none ∧ (s.ops.st ≠ .halted ∨ haltOk f.opcode = true) ∧
        (s.ops.st ≠ .stopping ∨ (f.opcode ≠ 0x0610 ∧ f.opcode ≠ 0x0611)) ∧ s.mboxReady f = true ∧ f.opcode ≠ 0x0401)
    ∧ (∃ (core : Fin 2) (s : State), (s.ops.coresStopped = true ∨ s.unitWork core .place = none))
    ∧ (∃ (c : Src) (op : Nat) (p : Bytes) (x : Option Bytes) (i : Instr) (s : State), s.given c op p = false ∧ (op, i) ∈ [(0x0101,
        .gfmSetTargets c p), (0x0102, .gfmSetBreaker c p), (0x0103, .gfmClearFlags c p), (0x0110, .frdBankSwap c p), (0x0120,
        .prfSetTarget c p), (0x0201, .stgToken c p), (0x0202, .stgWrite c p), (0x0203, .stgCheck c p), (0x0204, .stgCommit c p),
        (0x0205, .stgSave c p x), (0x0206, .stgRecover c p), (0x0301, .acqArm c p), (0x0302, .acqTrigger c p), (0x0303, .acqStop c
        p), (0x0401, .keyGrant c p), (0x0402, .keyRetire c p), (0x0403, .anchorInstall c p), (0x0404, .anchorRevoke c p), (0x0405,
        .plantKeyGrant c p), (0x0601, .trpTrip c p), (0x0602, .trpClear c p), (0x0611, .opsStart c p), (0x0612, .opsStop c p),
        (0x0701, .ntSporeLoad c p), (0x0702, .ntSporeCancel c p), (0x0703, .ntSet c p), (0x0801, .frdSatReadClear c p), (0x0802,
        .gdlOstRun c p), (0x0803, .gdlLinkTrain c p), (0x0804, .clkReacquire c p), (0x0805, .logRead c p), (0x0901, .imgFwLoad c p
        x), (0x0902, .imgFwActivate c p), (0x0910, .frdGraphLoad c p x)])
    ∧ (∃ (c : Src) (op : Nat) (i : Instr) (s : State), s.given c op [] = false ∧ (op, i) ∈ [(0x0501, .twnResync c), (0x0610, .opsArm c),
        (0x0613, .opsDisarm c), (0x0614, .opsHalt c), (0x0615, .opsMainReset c)]) :=
  ⟨⟨6, { level := 0, kind := .verify, no := 1 }, z.modCmd fun c =>
     { c with flights := [fl .verify (pay [0, 0, 0, 2]) []], ready := [{ level := 0, kind := .verify, no := 1 }] },
     by decide +kernel⟩,
   ⟨fl .parse [] [], (z.modCmd fun c =>
     { c with flights := [fl .parse [] []], ready := [{ level := 0, kind := .parse, no := 1 }] }).advanceTo 32,
     by unfold State.storesCanonical cellsRise; decide +kernel⟩,
   ⟨6, z, by decide +kernel⟩,
   ⟨1, fl .parse [] [], .authFail, 1, works (fl .parse [] []) z, by unfold State.storesCanonical cellsRise; decide +kernel⟩,
   ⟨1, fl .parse (desc 0x0103 1) [], works (fl .parse (desc 0x0103 1) []) pairOf,
     by unfold State.storesCanonical cellsRise; decide +kernel⟩,
   ⟨1, fl .parse (desc 0x0103 1) [], works (fl .parse (desc 0x0103 1) []) z, by unfold State.storesCanonical cellsRise; decide +kernel⟩,
   ⟨1, z, by decide +kernel⟩,
   ⟨1, fl .verify [] [], works (fl .verify [] []) z, by unfold State.storesCanonical cellsRise; decide +kernel⟩,
   ⟨6, z, by decide +kernel⟩,
   ⟨1, placing 0x0103 1 [], works (placing 0x0103 1 []) pairOf, by unfold State.storesCanonical cellsRise; decide +kernel⟩,
   ⟨1, placing 0x0103 1 [], 4, works (placing 0x0103 1 []) z, by unfold State.storesCanonical cellsRise State.places; decide +kernel⟩,
   ⟨1, placing 0x0103 0 [], { ring := 0, seq := 0, status := 0, appliedAt := 0 }, keyed (works (placing 0x0103 0 []) (twin fun t =>
     { t with role := true, past := [{ ring := 0, seq := 0, status := 0, appliedAt := 0 }] })),
     by unfold State.storesCanonical cellsRise State.places; decide +kernel⟩,
   ⟨1, placing 0x0103 0 [], .replay, 1, keyed (works (placing 0x0103 0 []) (z)),
     by unfold State.storesCanonical cellsRise State.places; decide +kernel⟩,
   ⟨1, placing 0x0103 1 [], keyed (works (placing 0x0103 1 []) (ost .halted z)),
     by unfold State.storesCanonical cellsRise State.places; decide +kernel⟩,
   ⟨1, placing 0x0610 1 [], ost .stopping (keyed (works (placing 0x0610 1 []) z)),
     by unfold State.storesCanonical cellsRise State.places; decide +kernel⟩,
   ⟨1, placing 0x0110 1 (pay [0x80]), keyed (works (placing 0x0110 1 (pay [0x80])) (full)),
     by unfold State.storesCanonical cellsRise State.places; decide +kernel⟩,
   ⟨1, placing 0x0103 1 [], keyed (works (placing 0x0103 1 []) (z)),
     by unfold State.storesCanonical cellsRise State.places; decide +kernel⟩,
   ⟨1, z, by decide +kernel⟩,
   ⟨src, 0x0101, [], none, .gfmSetTargets src [], z, by decide +kernel⟩,
   ⟨src, 0x0501, .twnResync src, z, by decide +kernel⟩⟩

theorem witness_RingsEnableAndDrain :
    (∃ (r : Fin 128) (s : State), s.storesCanonical ∧ (s.ring r).st = .disabled ∧ s.enableCheck r = 0)
    ∧ (∃ (r : Fin 128) (s : State), s.storesCanonical ∧ (s.ring r).st = .disabled ∧ s.enableCheck r ≠ 0)
    ∧ (∃ (r : Fin 128) (s : State), s.storesCanonical ∧ (s.ring r).st = .draining)
    ∧ (∃ (r : Fin 128) (s : State), ((s.ring r).st = .running ∨ (s.ring r).st = .fault))
    ∧ (∃ (r : Fin 128) (s : State), s.storesCanonical ∧ ((s.ring r).st = .running ∨ (s.ring r).st = .fault))
    ∧ (∃ (r : Fin 128) (f : Flight) (s : State), s.storesCanonical ∧ ((s.ring r).st = .running ∨ (s.ring r).st = .fault) ∧
        s.cmd.flights.filter (fun f => f.ring = r) = [f] ∧ (∀ u < 7, vget s.cmd.units u none = none))
    ∧ (∃ (r : Fin 128) (s : State), ((s.ring r).st = .disabled ∨ (s.ring r).st = .draining))
    ∧ (∃ (r : Fin 128) (s : State), ((s.ring r).st = .draining ∨ (s.ring r).st = .fault ∧ bitOf (s.reg .cmdRingCfg r) 31 = false) ∧ (s.ring
        r).inFlight = 0)
    ∧ (∃ (r : Fin 128) (s : State), (s.ring r).inFlight ≠ 0) :=
  ⟨⟨127, rgs [(.cmdRingCfg, 127, 16)] z, by unfold State.storesCanonical cellsRise; decide +kernel⟩,
   ⟨127, rgs [(.cmdRingCfg, 127, 17)] z, by unfold State.storesCanonical cellsRise; decide +kernel⟩,
   ⟨127, z.modRing 127 fun q => { q with st := .draining }, by unfold State.storesCanonical cellsRise; decide +kernel⟩,
   ⟨127, runs 127 id, by decide +kernel⟩,
   ⟨127, runs 127 id, by unfold State.storesCanonical cellsRise; decide +kernel⟩,
   ⟨0, fl .parse [] [], (runs 0 id).modCmd fun c => { c with flights := [fl .parse [] []] },
     by unfold State.storesCanonical cellsRise; decide +kernel⟩,
   ⟨127, z, by decide +kernel⟩,
   ⟨127, z.modRing 127 fun q => { q with st := .draining }, by decide +kernel⟩,
   ⟨127, z.modRing 127 fun q => { q with inFlight := 1 }, by decide +kernel⟩⟩

theorem witness_GrantsInstallTheirKeys :
    (∃ (core : Fin 2) (f : Flight) (st : Status) (d : Nat) (s : State), s.storesCanonical ∧ s.places core f ∧ s.placeAuth f = none ∧
        s.pastOf f.ring f.seq = none ∧ (s.rep f.ring).lastSeq < f.seq ∧ f.applyAt = 0 ∧ (f.opcode = 0x0401 ∨ f.opcode = 0x0405 ∧
        (s.rep f.ring).floorUnset = false) ∧ s.grantRefusal f.ring (f.opcode == 0x0405) f.payload = some (st, d))
    ∧ (∃ (core : Fin 2) (f : Flight) (s : State), s.storesCanonical ∧ s.places core f ∧ s.placeAuth f = none ∧ s.pastOf f.ring f.seq = none
        ∧ (s.rep f.ring).lastSeq < f.seq ∧ f.applyAt = 0 ∧ f.opcode = 0x0401 ∧ s.grantRefusal f.ring false f.payload = none ∧
        s.ops.st ≠ .halted ∧ s.mboxReady f = true)
    ∧ (∃ (i : Instr) (op : Nat) (c : Src) (p : Bytes) (s : State), (i, op) ∈ [(.keyGrant c p, 0x0401), (.plantKeyGrant c p, 0x0405)] ∧
        s.admits c op p ∧ (c.ring.val = 128 ∨ s.listLen (s.level c.ring) < 64))
    ∧ (∃ (i : Instr) (op : Nat) (c : Src) (p : Bytes) (s : State), (i, op) ∈ [(.keyGrant c p, 0x0401), (.plantKeyGrant c p, 0x0405)] ∧
        s.admits c op p ∧ c.ring.val < 128 ∧ 64 ≤ s.listLen (s.level c.ring))
    ∧ (∃ (r : Fin 129) (g : PendGrant) (s : State), s.storesCanonical ∧ s.sec.grants.find? (fun g => g.ring = r && s.unwrapping g &&
        (g.ring.val != 128 || s.mgt.vmgt)) = some g ∧ g.erased = true)
    ∧ (∃ (r : Fin 129) (g : PendGrant) (s : State), s.storesCanonical ∧ s.sec.grants.find? (fun g => g.ring = r && s.unwrapping g &&
        (g.ring.val != 128 || s.mgt.vmgt)) = some g ∧ g.erased = false ∧ g.plant = false)
    ∧ (∃ (r : Fin 129) (g : PendGrant) (s : State), s.storesCanonical ∧ s.sec.grants.find? (fun g => g.ring = r && s.unwrapping g &&
        (g.ring.val != 128 || s.mgt.vmgt)) = some g ∧ g.erased = false ∧ g.plant = true)
    ∧ (∃ (r : Fin 129) (s : State), s.sec.grants.find? (fun g => g.ring = r && s.unwrapping g && (g.ring.val != 128 || s.mgt.vmgt)) = none) :=
  ⟨⟨1, placing 0x0401 1 [], .checkFail, 9, keyed (works (placing 0x0401 1 []) z),
     by unfold State.storesCanonical cellsRise State.places; decide +kernel⟩,
   ⟨1, placing 0x0401 1 (grantPay 1), named (ost .idle (keyed (works (placing 0x0401 1 (grantPay 1)) z))),
     by unfold State.storesCanonical cellsRise State.places; decide +kernel⟩,
   ⟨.keyGrant src (grantPay 1), 0x0401, src, grantPay 1, given src 0x0401 (grantPay 1) (given src 0x0401 (grantPay 1) z),
     by unfold State.admits; decide +kernel⟩,
   ⟨.plantKeyGrant src (grantPay 2), 0x0405, src, grantPay 2, given src 0x0405 (grantPay 2) ((given src 0x0405 (grantPay 2) z).modCmd
     fun c => { c with ready := List.replicate 64 { level := 0, kind := .parse, no := 1 } }),
     by unfold State.admits; decide +kernel⟩,
   ⟨0, grant false true, unwraps (grant false true) z, by unfold State.storesCanonical cellsRise; decide +kernel⟩,
   ⟨0, grant false false, unwraps (grant false false) z, by unfold State.storesCanonical cellsRise; decide +kernel⟩,
   ⟨0, grant true false, unwraps (grant true false) z, by unfold State.storesCanonical cellsRise; decide +kernel⟩,
   ⟨128, z, by decide +kernel⟩⟩

theorem witness_KeysAnchorsAndTampers :
    (∃ (c : Src) (p : Bytes) (s : State), s.storesCanonical ∧ s.admits c 0x0402 p ∧ pb p 0 = 0)
    ∧ (∃ (c : Src) (p : Bytes) (s : State), s.storesCanonical ∧ s.admits c 0x0402 p ∧ pb p 0 = 1)
    ∧ (∃ (c : Src) (p : Bytes) (d : Nat) (s : State), s.storesCanonical ∧ s.admits c 0x0403 p ∧ s.anchorRefusal (pb p 0) (pb p 1) = some d)
    ∧ (∃ (c : Src) (p : Bytes) (s : State), s.storesCanonical ∧ s.admits c 0x0403 p ∧ s.anchorRefusal (pb p 0) (pb p 1) = none)
    ∧ (∃ (c : Src) (p : Bytes) (d : Nat) (s : State), s.storesCanonical ∧ s.admits c 0x0404 p ∧ (s.anchorRefusal (pb p 0) (pb p 1) = some d
        ∨ s.anchorRefusal (pb p 0) (pb p 1) = none ∧ s.owned = true ∧ (s.setAnchor (pb p 0) { otpGen := pb p 1 }).owned = false ∧ d
        = 4))
    ∧ (∃ (c : Src) (p : Bytes) (s : State), s.storesCanonical ∧ s.admits c 0x0404 p ∧ s.anchorRefusal (pb p 0) (pb p 1) = none ∧ (s.owned =
        false ∨ (s.setAnchor (pb p 0) { otpGen := pb p 1 }).owned = true))
    ∧ (∃ (n : Fin 10) (s : State), s.tamperOn n = true)
    ∧ (∃ (n : Fin 10) (s : State), s.storesCanonical ∧ s.tamperOn n = true ∧ s.sec.tamperCfg.getLsbD (16 + n) = false)
    ∧ (∃ (n : Fin 10) (s : State), s.tamperOn n = false) :=
  ⟨⟨src, pay [0], given src 0x0402 (pay [0]) z, by unfold State.storesCanonical cellsRise State.admits; decide +kernel⟩,
   ⟨src, pay [1], given src 0x0402 (pay [1]) z, by unfold State.storesCanonical cellsRise State.admits; decide +kernel⟩,
   ⟨src, pay [0, 1], 3, given src 0x0403 (pay [0, 1]) (owned []),
     by unfold State.storesCanonical cellsRise State.admits; decide +kernel⟩,
   ⟨src, pay [15, 1], given src 0x0403 (pay [15, 1]) (owned []),
     by unfold State.storesCanonical cellsRise State.admits; decide +kernel⟩,
   ⟨src, pay [8, 2], 1, given src 0x0404 (pay [8, 2]) (owned []),
     by unfold State.storesCanonical cellsRise State.admits; decide +kernel⟩,
   ⟨src, pay [15, 1], given src 0x0404 (pay [15, 1]) (owned []),
     by unfold State.storesCanonical cellsRise State.admits; decide +kernel⟩,
   ⟨9, z, by decide +kernel⟩,
   ⟨9, z, by unfold State.storesCanonical cellsRise; decide +kernel⟩,
   ⟨0, z, by decide +kernel⟩⟩

theorem witness_AcquisitionUnitsKeepTheirStates :
    (∃ (c : Src) (p : Bytes) (s : State), s.storesCanonical ∧ s.admits c 0x0301 p ∧ pb p 0 ≠ 0 ∧ (∀ u < 8, (pb p 0).testBit u = true →
        (s.acqN u).st = .idle → (s.acqN u).complete = false))
    ∧ (∃ (c : Src) (p : Bytes) (u : Nat) (s : State), s.admits c 0x0301 p ∧ u < 8 ∧ pb p 0 = 2 ^ u ∧ (s.acqN u).st = .idle ∧ (s.acqN
        u).complete = true)
    ∧ (∃ (c : Src) (p : Bytes) (s : State), s.storesCanonical ∧ s.admits c 0x0301 p ∧ pb p 0 = 0)
    ∧ (∃ (c : Src) (p : Bytes) (s : State), s.storesCanonical ∧ s.admits c 0x0302 p ∧ pb p 0 ≠ 0)
    ∧ (∃ (c : Src) (p : Bytes) (s : State), s.storesCanonical ∧ s.admits c 0x0302 p ∧ pb p 0 = 0)
    ∧ (∃ (c : Src) (p : Bytes) (s : State), s.storesCanonical ∧ s.admits c 0x0303 p ∧ pb p 0 ≠ 0 ∧ (pb p 1).testBit 0 = true)
    ∧ (∃ (c : Src) (p : Bytes) (s : State), s.storesCanonical ∧ s.admits c 0x0303 p ∧ pb p 0 ≠ 0 ∧ (pb p 1).testBit 0 = false)
    ∧ (∃ (c : Src) (p : Bytes) (s : State), s.storesCanonical ∧ s.admits c 0x0303 p ∧ pb p 0 = 0)
    ∧ (∃ (u : Fin 8) (s : State), (s.acqN u).st = .triggered ∧ (s.acqN u).complete = true)
    ∧ (∃ (u : Fin 8) (s : State), ((s.acqN u).st ≠ .triggered ∨ (s.acqN u).complete = false))
    ∧ (∃ (u : Fin 8) (s : State), s.storesCanonical ∧ (s.acqN u).complete = true ∧ (s.acqN u).st ≠ .triggered)
    ∧ (∃ (u : Fin 8) (s : State), ((s.acqN u).complete = false ∨ (s.acqN u).st = .triggered))
    ∧ (∃ (u : Fin 8) (s : State), (s.acqN u).st = .rearm ∧ (s.acqN u).complete = false)
    ∧ (∃ (u : Fin 8) (s : State), ((s.acqN u).st ≠ .rearm ∨ (s.acqN u).complete = true))
    ∧ (∃ (u : Fin 8) (v : Word) (s : State), vget (s.acqN u).segs (v.toNat % 256) .empty = .full ∧ (s.acqN u).st ≠ .hold)
    ∧ (∃ (u : Fin 8) (v : Word) (s : State), vget (s.acqN u).segs (v.toNat % 256) .empty = .full ∧ (s.acqN u).st = .hold ∧ v.toNat % 256 <
        s.segCount u)
    ∧ (∃ (u : Fin 8) (v : Word) (s : State), vget (s.acqN u).segs (v.toNat % 256) .empty ≠ .full) :=
  ⟨⟨src, pay [0x80], given src 0x0301 (pay [0x80]) z, by unfold State.storesCanonical cellsRise State.admits; decide +kernel⟩,
   ⟨src, pay [0x80], 7, given src 0x0301 (pay [0x80]) (acq fun u => { u with complete := true }),
     by unfold State.admits; decide +kernel⟩,
   ⟨src, pay [0], given src 0x0301 (pay [0]) z, by unfold State.storesCanonical cellsRise State.admits; decide +kernel⟩,
   ⟨src, pay [0x80], given src 0x0302 (pay [0x80]) z, by unfold State.storesCanonical cellsRise State.admits; decide +kernel⟩,
   ⟨src, pay [0], given src 0x0302 (pay [0]) z, by unfold State.storesCanonical cellsRise State.admits; decide +kernel⟩,
   ⟨src, pay [0x80, 1], given src 0x0303 (pay [0x80, 1]) z, by unfold State.storesCanonical cellsRise State.admits; decide +kernel⟩,
   ⟨src, pay [0x80, 0], given src 0x0303 (pay [0x80, 0]) z, by unfold State.storesCanonical cellsRise State.admits; decide +kernel⟩,
   ⟨src, pay [0], given src 0x0303 (pay [0]) z, by unfold State.storesCanonical cellsRise State.admits; decide +kernel⟩,
   ⟨7, acq fun u => { u with st := .triggered, complete := true }, by decide +kernel⟩,
   ⟨7, z, by decide +kernel⟩,
   ⟨7, acq fun u => { u with complete := true }, by unfold State.storesCanonical cellsRise; decide +kernel⟩,
   ⟨7, z, by decide +kernel⟩,
   ⟨7, acq fun u => { u with st := .rearm }, by decide +kernel⟩,
   ⟨7, z, by decide +kernel⟩,
   ⟨7, 0xFF, acq fun u => { u with segs := vset u.segs 255 .full }, by decide +kernel⟩,
   ⟨7, 0, acq fun u => { u with st := .hold, segs := vset u.segs 0 .full }, by decide +kernel⟩,
   ⟨7, 0xFF, z, by decide +kernel⟩⟩

theorem witness_DmaChannelsMoveWhatTheyAreTold :
    (∃ (n : Fin 32) (s : State), s.storesCanonical ∧ ((s.dmaN n).st = .idle ∨ (s.dmaN n).st = .error) ∧ s.dmaRingDram n = false ∧ (s.dmaN
        n).head ≠ s.dmaTail n)
    ∧ (∃ (n : Fin 32) (s : State), ((s.dmaN n).st = .idle ∨ (s.dmaN n).st = .error) ∧ (s.dmaN n).head = s.dmaTail n)
    ∧ (∃ (n : Fin 32) (s : State), s.storesCanonical ∧ (s.dmaN n).st = .aborting)
    ∧ (∃ (n : Fin 32) (s : State), ((s.dmaN n).st = .run ∨ (s.dmaN n).st = .wait))
    ∧ (∃ (n : Fin 32) (v : Word) (s : State), s.storesCanonical ∧ v.toNat < s.dmaDepth n)
    ∧ (∃ (n : Fin 32) (v : Word) (s : State), s.storesCanonical ∧ s.dmaDepth n ≤ v.toNat)
    ∧ (∃ (n : Fin 32) (s : State), ((s.dmaN n).st = .run ∨ (s.dmaN n).st = .wait) ∧ s.dmaQueue n ≠ 0 ∧ (s.dmaN n).paced = false)
    ∧ (∃ (n : Fin 32) (s : State), ((s.dmaN n).st = .run ∨ (s.dmaN n).st = .wait) ∧ s.lv .dmaChCfg n 0 7 4 ≠ 0 ∧ s.dmaQueue n ≠ 0 ∧
        s.dmaQueue n ≠ 3 ∧ (s.dmaN n).flush = false)
    ∧ (∃ (n : Fin 32) (d : DmaDesc) (s : State), s.storesCanonical ∧ (s.dmaN n).desc = some d ∧ s.dmaQueue n = 0 ∧ s.dramGrants n d = true
        ∧ (s.dmaN n).st = .run ∧ (s.dmaN n).moved + s.burstLen n d < d.len)
    ∧ (∃ (n : Fin 32) (d : DmaDesc) (s : State), s.storesCanonical ∧ (s.dmaN n).desc = some d ∧ s.dmaQueue n = 0 ∧ s.dramGrants n d = true
        ∧ (s.dmaN n).st = .run ∧ d.len ≤ (s.dmaN n).moved + s.burstLen n d ∧ d.cyclic = false ∧ d.dstDram = true ∧ s.dmaRingDram n =
        false ∧ ((s.dmaN n).head + 1) % s.dmaDepth n = s.dmaTail n)
    ∧ (∃ (n : Fin 32) (d : DmaDesc) (s : State), (s.dmaN n).desc = some d ∧ (s.mayBurst n d = false ∨ s.dramGrants n d = false ∧ (s.dmaN
        n).st ≠ .aborting))
    ∧ (∃ (n : Fin 32) (d : DmaDesc) (s : State), s.storesCanonical ∧ (s.dmaN n).desc = some d ∧ s.dmaRingDram n = false ∧ ((s.dmaN n).st =
        .wait ∨ (s.dmaN n).st = .run ∧ s.bursting n = false))
    ∧ (∃ (n : Fin 32) (s : State), (s.dmaN n).st = .run ∧ s.bursting n = true)
    ∧ (∃ (n : Fin 32) (s : State), (s.dmaN n).st ≠ .run ∧ (s.dmaN n).st ≠ .wait)
    ∧ (∃ (n : Fin 32) (d : DmaDesc) (s : State), s.storesCanonical ∧ (s.dmaN n).desc = some d ∧ s.dmaRingDram n = false ∧ (s.dmaN n).st =
        .aborting)
    ∧ (∃ (n : Fin 32) (s : State), (s.dmaN n).st ≠ .aborting)
    ∧ (∃ (n : Fin 32) (lastBeat : Bool) (last : Bool) (d : DmaDesc) (s : State), s.storesCanonical ∧ (s.dmaN n).desc = some d ∧ ((s.dmaN
        n).st = .run ∨ (s.dmaN n).st = .aborting) ∧ s.dmaRingDram n = false ∧ last = (lastBeat && decide (d.len ≤ (s.dmaN n).moved +
        s.burstLen n d)))
    ∧ (∃ (n : Fin 32) (s : State), s.storesCanonical ∧ (s.dmaN n).desc = none ∧ ((s.dmaN n).st = .run ∨ (s.dmaN n).st = .wait) ∧ (s.dmaN
        n).head ≠ s.dmaTail n ∧ s.dmaRingDram n = false)
    ∧ (∃ (n : Fin 32) (s : State), (s.dmaN n).desc = none ∧ ((s.dmaN n).st ≠ .run ∧ (s.dmaN n).st ≠ .wait ∨ (s.dmaN n).head = s.dmaTail n ∨
        s.dmaRingDram n = true))
    ∧ (∃ (n : Fin 32) (b : Bytes) (s : State), s.storesCanonical ∧ ((s.dmaN n).st = .idle ∨ (s.dmaN n).st = .error) ∧ s.dmaRingDram n =
        true ∧ (s.dmaN n).head ≠ s.dmaTail n ∧ memRead s.dram ((s.reg .dmaDescBase n).toNat + 32 * (s.dmaN n).head) 32 = b)
    ∧ (∃ (n : Fin 32) (d : DmaDesc) (q : Nat) (s : State), s.storesCanonical ∧ (s.dmaN n).desc = some d ∧ s.dmaQueue n = q ∧ (q = 1 ∨ q = 2
        ∨ q = 4) ∧ s.mayBurst n d = true ∧ s.dramGrants n d = true ∧ (s.dmaN n).moved + s.burstLen n d < d.len)
    ∧ (∃ (n : Fin 32) (d : DmaDesc) (s : State), (s.dmaN n).desc = some d ∧ s.dmaQueue n = 3 ∧ s.mayBurst n d = true ∧ s.dramGrants n d =
        true ∧ (s.dmaN n).moved + s.burstLen n d < d.len)
    ∧ (∃ (n : Fin 32) (d : DmaDesc) (s : State), (s.dmaN n).desc = some d ∧ s.dmaQueue n = 3 ∧ s.mayBurst n d = true ∧ s.dramGrants n d =
        true ∧ (s.dmaN n).st = .run ∧ d.len ≤ (s.dmaN n).moved + s.burstLen n d)
    ∧ (∃ (n : Fin 32) (d : DmaDesc) (s : State), (s.dmaN n).desc = some d ∧ s.dmaRingDram n = true ∧ ((s.dmaN n).st = .wait ∨ (s.dmaN n).st
        = .run ∧ s.bursting n = false)) :=
  ⟨⟨31, rgs [(.dmaDescTail, 31, 1)] z, by unfold State.storesCanonical cellsRise; decide +kernel⟩,
   ⟨31, z, by decide +kernel⟩,
   ⟨31, dma fun c => { c with st := .aborting }, by unfold State.storesCanonical cellsRise; decide +kernel⟩,
   ⟨31, dma fun c => { c with st := .wait }, by decide +kernel⟩,
   ⟨31, 0, z, by unfold State.storesCanonical cellsRise; decide +kernel⟩,
   ⟨31, 0xFFFF, z, by unfold State.storesCanonical cellsRise; decide +kernel⟩,
   ⟨31, (cfg [(.dmaChCfg, 31, 1)] (dma fun c => { c with st := .run })), by decide +kernel⟩,
   ⟨31, (cfg [(.dmaChCfg, 31, 0x11)] (dma fun c => { c with st := .wait })), by decide +kernel⟩,
   ⟨31, dmaDesc 1000, dma fun c => { c with st := .run, desc := some (dmaDesc 1000) },
     by unfold State.storesCanonical cellsRise; decide +kernel⟩,
   ⟨31, toDram 1, rgs [(.dmaDescTail, 31, 1)] <| dma fun c => { c with st := .run, desc := some (toDram 1) },
     by unfold State.storesCanonical cellsRise; decide +kernel⟩,
   ⟨31, dmaDesc 1, dma fun c => { c with st := .idle, desc := some (dmaDesc 1) }, by decide +kernel⟩,
   ⟨31, dmaDesc 1, dma fun c => { c with st := .wait, desc := some (dmaDesc 1) },
     by unfold State.storesCanonical cellsRise; decide +kernel⟩,
   ⟨31, dma fun c => { c with st := .run, desc := some (dmaDesc 4) }, by decide +kernel⟩,
   ⟨31, z, by decide +kernel⟩,
   ⟨31, dmaDesc 1, dma fun c => { c with st := .aborting, desc := some (dmaDesc 1) },
     by unfold State.storesCanonical cellsRise; decide +kernel⟩,
   ⟨31, z, by decide +kernel⟩,
   ⟨31, true, true, dmaDesc 1, dma fun c => { c with st := .run, desc := some (dmaDesc 1) },
     by unfold State.storesCanonical cellsRise; decide +kernel⟩,
   ⟨31, rgs [(.dmaDescTail, 31, 1)] (dma fun c => { c with st := .wait }), by unfold State.storesCanonical cellsRise; decide +kernel⟩,
   ⟨31, z, by decide +kernel⟩,
   ⟨31, memRead [] 0 32, rgs [(.dmaDescTail, 31, 1), (.dmaDescCfg, 31, 0x100)] z,
     by unfold State.storesCanonical cellsRise; decide +kernel⟩,
   ⟨31, dmaDesc 1000, 1, cfg [(.dmaChCfg, 31, 1)]
     { dma fun c => { c with st := .run, paced := true, desc := some (dmaDesc 1000) } with sar := { queue := List.replicate 64 0 } },
     by unfold State.storesCanonical cellsRise; decide +kernel⟩,
   ⟨31, dmaDesc 1000, cfg [(.dmaChCfg, 31, 3), (.ethCtrl, 0, 0x1F0000)] (dma fun c =>
     { c with st := .run, paced := true, desc := some (dmaDesc 1000) }), by decide +kernel⟩,
   ⟨31, dmaDesc 4, cfg [(.dmaChCfg, 31, 3), (.ethCtrl, 0, 0x1F0000)] (dma fun c =>
     { c with st := .run, paced := true, desc := some (dmaDesc 4) }), by decide +kernel⟩,
   ⟨31, dmaDesc 4, rgs [(.dmaDescCfg, 31, 0x100)] (dma fun c => { c with st := .wait, desc := some (dmaDesc 4) }), by decide +kernel⟩⟩

theorem witness_RolesAndOwnership :
    (∃ (w : Nat), rolePulse w = none)
    ∧ (∃ (w : Nat) (s : State), rolePulse w = some s.twn.roleIn)
    ∧ (∃ (w : Nat) (r : Bool) (s : State), rolePulse w = some r ∧ r ≠ s.twn.roleIn ∧ s.twn.roleCand ≠ some r)
    ∧ (∃ (w : Nat) (r : Bool) (s : State), s.storesCanonical ∧ rolePulse w = some r ∧ r ≠ s.twn.roleIn ∧ s.twn.roleCand = some r ∧
        s.twn.conflict = false ∧ s.twn.role ≠ r)
    ∧ (∃ (w : Nat) (s : State), rolePulse w = some true ∧ s.twn.roleIn = false ∧ s.twn.roleCand = some true ∧ s.twn.conflict = false ∧
        s.twn.role = false ∧ s.twn.ready = false ∧ s.pair = true ∧ (s.ops.st = .armed ∨ s.ops.st = .running))
    ∧ (∃ (s : State), s.pair = true)
    ∧ (∃ (s : State), s.pair = false)
    ∧ (∃ (s : State), s.twn.haltHold = none)
    ∧ (∃ (t0 : Nat) (s : State), s.twn.haltHold = some t0)
    ∧ (∃ (t0 : Nat) (s : State), s.twn.haltHold = some t0)
    ∧ (∃ (s : State), s.twn.haltHold = none)
    ∧ (∃ (d : DueSlot) (t0 : Nat) (rest : List (DueSlot × Nat)) (s : State), s.twn.swapSpore = (d, t0) :: rest ∧ s.twn.swapReq = false ∧
        s.twn.role = true ∧ (s.tb (s.leadTb s.refEng)).run = .running)
    ∧ (∃ (s : State), s.twn.swapSpore = [])
    ∧ (∃ (d : DueSlot) (t0 : Nat) (rest : List (DueSlot × Nat)) (s : State), s.twn.swapSpore = (d, t0) :: rest ∧ s.nt.recs.length < 64 ∧
        s.twn.role = true ∧ s.twn.swapReq = true)
    ∧ (∃ (d : DueSlot) (t0 : Nat) (s : State), s.twn.swapSpore = [(d, t0)] ∧ s.nt.recs.length < 64 ∧ s.twn.role = false) :=
  ⟨⟨500, by decide +kernel⟩,
   ⟨250, z, by decide +kernel⟩,
   ⟨750, true, z, by decide +kernel⟩,
   ⟨750, true, twin fun t => { t with roleCand := some true }, by unfold State.storesCanonical cellsRise; decide +kernel⟩,
   ⟨800, ost .armed (twin fun t => { t with roleCand := some true }), by decide +kernel⟩,
   ⟨pairOf, by decide +kernel⟩,
   ⟨z, by decide +kernel⟩,
   ⟨z, by decide +kernel⟩,
   ⟨0, twin fun t => { t with haltHold := some 0 }, by decide +kernel⟩,
   ⟨0, twin fun t => { t with haltHold := some 0 }, by decide +kernel⟩,
   ⟨z, by decide +kernel⟩,
   ⟨spore 4, 0, [], (twin fun t => { t with role := true, swapSpore := [(spore 4, 0)] }).modTb 0 fun b => { b with run := .running },
     by decide +kernel⟩,
   ⟨z, by decide +kernel⟩,
   ⟨spore 4, 0, [], twin fun t => { t with role := true, swapReq := true, swapSpore := [(spore 4, 0)] }, by decide +kernel⟩,
   ⟨spore 4, 0, twin fun t => { t with swapSpore := [(spore 4, 0)] }, by decide +kernel⟩⟩

theorem witness_FramesCrossTheRhizome :
    (∃ (s : State), s.pair = true ∧ s.twn.link = .up ∧ (s.tb (s.leadTb s.refEng)).run = .running ∧ s.ops.st ≠ .off ∧ s.twn.frameSent =
        false)
    ∧ (∃ (s : State), (s.pair = false ∨ s.twn.link ≠ .up ∨ s.twn.frameSent = true))
    ∧ (∃ (s : State), (s.pair = false ∨ s.twn.link ≠ .up))
    ∧ (∃ (f : Bytes) (s : State), s.storesCanonical ∧ s.pair = true ∧ s.twn.link = .up ∧ crc32cOk f = false)
    ∧ (∃ (f : Bytes) (s : State), s.pair = true ∧ s.twn.link = .up ∧ crc32cOk f = true ∧ pb f 0 = 1 ∧ 132 ≤ f.length ∧ pf f 2 2 = f.length)
    ∧ (∃ (s : State), s.pair = true ∧ (s.tb (s.leadTb s.refEng)).run = .running ∧ s.twn.gotFrame = false)
    ∧ (∃ (s : State), s.pair = true ∧ s.twn.gotFrame = false)
    ∧ (∃ (s : State), (s.pair = false ∨ s.twn.gotFrame = true))
    ∧ (∃ (f : Bytes) (s : State), (s.pair = false ∨ s.twn.link ≠ .up ∨ s.twn.role = true ∧ crc32cOk f = true))
    ∧ (∃ (f : Bytes) (s : State), s.storesCanonical ∧ s.pair = true ∧ s.twn.link = .up ∧ crc32cOk f = false)
    ∧ (∃ (f : Bytes) (s : State), s.pair = true ∧ s.twn.link = .up ∧ s.twn.role = false ∧ crc32cOk f = true ∧ s.twn.resync = false ∧
        (itemOf f).no ≠ s.twn.rxItem + 1)
    ∧ (∃ (f : Bytes) (i : Item) (s : State), s.pair = true ∧ s.twn.link = .up ∧ s.twn.role = false ∧ crc32cOk f = true ∧ pb f 0 = 2 ∧
        itemOf f = i ∧ i.no = s.twn.rxItem + 1)
    ∧ (∃ (f : Bytes) (s : State), s.pair = true ∧ s.twn.link = .up ∧ s.twn.role = false ∧ crc32cOk f = true ∧ pb f 0 = 2 ∧ (itemOf f).no =
        s.twn.rxItem + 1 ∧ (itemOf f).opcode = chunkItem)
    ∧ (∃ (s : State), s.twn.link ≠ .training)
    ∧ (∃ (s : State), s.storesCanonical ∧ s.twn.link = .training)
    ∧ (∃ (s : State), s.twn.link = .up ∧ s.twn.resyncCmd = [])
    ∧ (∃ (x : Src × Nat) (s : State), s.storesCanonical ∧ s.twn.link = .up ∧ s.twn.resyncCmd = [x])
    ∧ (∃ (s : State), s.twn.link ≠ .up) :=
  ⟨⟨led.modTb 0 fun b => { b with run := .running }, by decide +kernel⟩,
   ⟨z, by decide +kernel⟩,
   ⟨z, by decide +kernel⟩,
   ⟨[], led, by unfold State.storesCanonical cellsRise; decide +kernel⟩,
   ⟨periodFrame, led, by decide +kernel, by decide +kernel, period_crc, by decide +kernel⟩,
   ⟨led.modTb 0 fun b => { b with run := .running }, by decide +kernel⟩,
   ⟨led, by decide +kernel⟩,
   ⟨z, by decide +kernel⟩,
   ⟨[], z, by decide +kernel⟩,
   ⟨[], standby, by unfold State.storesCanonical cellsRise; decide +kernel⟩,
   ⟨withCrc32c (pay (List.replicate 44 0)), standby, by decide +kernel⟩,
   ⟨itemFrame 0, itemOf (itemFrame 0), standby, by decide +kernel⟩,
   ⟨itemFrame chunkItem, standby, by decide +kernel⟩,
   ⟨led, by decide +kernel⟩,
   ⟨twin fun t => { t with link := .training }, by unfold State.storesCanonical cellsRise; decide +kernel⟩,
   ⟨led, by decide +kernel⟩,
   ⟨(src, 0), led.modTwn fun t => { t with resyncCmd := [(src, 0)] }, by unfold State.storesCanonical cellsRise; decide +kernel⟩,
   ⟨z, by decide +kernel⟩⟩

theorem witness_StandbysResynchronise :
    (∃ (c : Src) (d : Nat) (s : State), s.storesCanonical ∧ s.admits c 0x0501 [] ∧ (s.pair = false ∧ d = 1 ∨ s.pair = true ∧ s.twn.role =
        true ∧ s.twn.link ≠ .up ∧ d = 3))
    ∧ (∃ (c : Src) (s : State), s.admits c 0x0501 [] ∧ s.pair = true ∧ s.twn.role = true ∧ s.twn.link = .up)
    ∧ (∃ (c : Src) (s : State), s.storesCanonical ∧ s.admits c 0x0501 [] ∧ s.pair = true ∧ s.twn.role = false)
    ∧ (∃ (x : Src × Nat) (s : State), s.storesCanonical ∧ s.twn.resyncCmd = [x])
    ∧ (∃ (s : State), s.twn.resyncCmd = [])
    ∧ (∃ (s : State), s.resyncReady = true ∧ s.twn.resyncCmd = [])
    ∧ (∃ (x : Src × Nat) (s : State), s.storesCanonical ∧ s.resyncReady = true ∧ s.twn.resyncCmd = [x])
    ∧ (∃ (s : State), s.resyncReady = false)
    ∧ (∃ (s : State), (s.pair = false ∨ s.twn.role = true ∨ s.twn.resync = false ∨ s.twn.link ≠ .up))
    ∧ (∃ (s : State), (s.pair = false ∨ s.twn.link ≠ .up))
    ∧ (∃ (s : State), s.storesCanonical ∧ s.pair = true ∧ s.twn.link = .up)
    ∧ (∃ (s : State), s.pair = true ∧ s.twn.role = false ∧ s.twn.resync = true ∧ s.twn.link = .up)
    ∧ (∃ (s : State), s.pair = true ∧ s.twn.role = false ∧ s.twn.resync = true ∧ s.twn.link = .up)
    ∧ (∃ (s : State), s.pair = true ∧ s.twn.role = false ∧ s.twn.resync = true ∧ s.twn.link = .up)
    ∧ (∃ (s : State), s.pair = true ∧ s.twn.role = false ∧ s.twn.resync = true ∧ s.twn.link = .up)
    ∧ (∃ (s : State), s.pair = true ∧ s.twn.role = false ∧ s.twn.resync = true ∧ s.twn.link = .up)
    ∧ (∃ (code : BitVec 4) (s : State), s.pair = true ∧ s.twn.role = false ∧ s.twn.resync = true ∧ s.twn.link = .up ∧ code.toNat =
        s.ops.st.code)
    ∧ (∃ (s : State), s.pair = true ∧ s.twn.role = false ∧ s.twn.resync = true ∧ s.twn.link = .up ∧ s.ops.st = .idle)
    ∧ (∃ (s : State), s.pair = true ∧ s.twn.role = false ∧ s.twn.resync = true ∧ s.twn.link = .up)
    ∧ (∃ (e : Fin 8) (s : State), s.pair = true ∧ s.twn.role = false ∧ s.twn.resync = true ∧ s.twn.link = .up ∧ (s.engN e).image ≠ none ∧
        s.twn.recs = [])
    ∧ (∃ (e : Fin 8) (s : State), (s.engN e).image = none) :=
  ⟨⟨src, 1, given src 0x0501 [] z, by unfold State.storesCanonical cellsRise State.admits; decide +kernel⟩,
   ⟨src, given src 0x0501 [] led, by unfold State.admits; decide +kernel⟩,
   ⟨src, given src 0x0501 [] pairOf, by unfold State.storesCanonical cellsRise State.admits; decide +kernel⟩,
   ⟨(src, 0), z.modTwn fun t => { t with resyncCmd := [(src, 0)] }, by unfold State.storesCanonical cellsRise; decide +kernel⟩,
   ⟨z, by decide +kernel⟩,
   ⟨synced, by decide +kernel⟩,
   ⟨(src, 0), synced.modTwn fun t => { t with resyncCmd := [(src, 0)] }, by unfold State.storesCanonical cellsRise; decide +kernel⟩,
   ⟨z, by decide +kernel⟩,
   ⟨z, by decide +kernel⟩,
   ⟨z, by decide +kernel⟩,
   ⟨syncing, by unfold State.storesCanonical cellsRise; decide +kernel⟩,
   ⟨syncing, by decide +kernel⟩,
   ⟨syncing, by decide +kernel⟩,
   ⟨syncing, by decide +kernel⟩,
   ⟨syncing, by decide +kernel⟩,
   ⟨syncing, by decide +kernel⟩,
   ⟨1, syncing, by decide +kernel⟩,
   ⟨ost .idle syncing, by decide +kernel⟩,
   ⟨syncing, by decide +kernel⟩,
   ⟨7, syncing.modEng 7 fun n => { n with image := some blank }, by decide +kernel⟩,
   ⟨7, z, by decide +kernel⟩⟩

theorem witness_TheArbiterGrantsOneModule :
    (∃ (w : Nat) (s : State), s.arb.strapped = true ∧ s.mgt.vmgt = true ∧ hbDecode w ≠ 0)
    ∧ (∃ (p : Fin 2) (w : Nat) (s : State), s.arb.strapped = true ∧ s.mgt.vmgt = true ∧ hbDecode w = 200 ∧ s.arb.bbm = none ∧ (s.arbPort
        0).active = false ∧ (s.arbPort 1).active = false ∧ (s.arbPort (1 - p.val)).isReady = false)
    ∧ (∃ (w : Nat) (s : State), (s.arb.strapped = false ∨ s.mgt.vmgt = false ∨ hbDecode w = 0))
    ∧ (∃ (p : Fin 2) (t0 : Nat) (s : State), s.arb.strapped = true ∧ (s.arbPort p).lastAt = some t0 ∧ (s.arbPort p).failed = false ∧
        (s.arbPort p).active = false)
    ∧ (∃ (p : Fin 2) (t0 : Nat) (s : State), s.arb.strapped = true ∧ (s.arbPort p).lastAt = some t0 ∧ (s.arbPort p).failed = false ∧
        (s.arbPort p).active = true)
    ∧ (∃ (p : Fin 2) (s : State), (s.arb.strapped = false ∨ (s.arbPort p).failed = true ∨ (s.arbPort p).lastAt = none))
    ∧ (∃ (p : Fin 2) (t0 : Nat) (s : State), s.arb.bbm = some (p, t0))
    ∧ (∃ (s : State), s.arb.bbm = none)
    ∧ (∃ (p : Fin 2) (s : State), s.arb.strapped = true ∧ (s.arbPort p).active = true ∧ (s.arbPort p).swapReq = true ∧ (s.arbPort p).failed
        = false ∧ s.arb.bbm = none)
    ∧ (∃ (p : Fin 2) (s : State), (s.arb.strapped = false ∨ (s.arbPort p).active = false ∨ (s.arbPort p).swapReq = false)) :=
  ⟨⟨850, arb {} {} none, by decide +kernel⟩,
   ⟨1, 150, arb {} {} none, by decide +kernel⟩,
   ⟨0, z, by decide +kernel⟩,
   ⟨1, 0, arb {} { lastAt := some 0, failed := false } none, by decide +kernel⟩,
   ⟨1, 0, arb {} { lastAt := some 0, failed := false, active := true } none, by decide +kernel⟩,
   ⟨1, z, by decide +kernel⟩,
   ⟨1, 0, arb {} {} (some (1, 0)), by decide +kernel⟩,
   ⟨z, by decide +kernel⟩,
   ⟨1, arb {} { failed := false, active := true, swapReq := true } none, by decide +kernel⟩,
   ⟨1, z, by decide +kernel⟩⟩

theorem witness_ManagementMessagesAreAssembled :
    (∃ (p : Bytes) (s : State), s.mctpMine p = false)
    ∧ (∃ (p : Bytes) (s : State), s.storesCanonical ∧ s.mctpMine p = true)
    ∧ (∃ (p : Bytes) (s : State), (pb p 4 % 16 ≠ 1 ∨ pb p 5 ≠ 0 ∧ (s.mgt.eid = 0 ∨ pb p 5 ≠ s.mgt.eid.toNat)))
    ∧ (∃ (p : Bytes) (s : State), s.storesCanonical ∧ s.mctpTakes p ∧ 64 < (p.drop 8).length)
    ∧ (∃ (p : Bytes) (s : State), s.mctpTakes p ∧ (p.drop 8).length ≤ 64 ∧ (pb p 7).testBit 7 = true ∧ (pb p 7).testBit 6 = true ∧
        s.mgt.asm = none ∧ pb p 8 = 0x7F ∧ beNat ((p.drop 9).take 4) = 0xD8E5)
    ∧ (∃ (p : Bytes) (s : State), s.mctpTakes p ∧ 0 < (p.drop 8).length ∧ (p.drop 8).length ≤ 64 ∧ (pb p 7).testBit 7 = true ∧ (pb p
        7).testBit 6 = true ∧ s.mgt.asm = none ∧ pb p 8 = 0)
    ∧ (∃ (p : Bytes) (s : State), s.mctpTakes p ∧ (p.drop 8).length ≤ 64 ∧ (pb p 7).testBit 7 = true ∧ (pb p 7).testBit 6 = false ∧
        s.mgt.asm = none)
    ∧ (∃ (p : Bytes) (a : MctpAsm) (s : State), s.storesCanonical ∧ s.mctpTakes p ∧ (p.drop 8).length ≤ 64 ∧ (pb p 7).testBit 7 = false ∧
        (pb p 7).testBit 6 = false ∧ s.mgt.asm = some a ∧ a.peer = mctpFrom p)
    ∧ (∃ (s : State), s.mgt.vmgt = true)
    ∧ (∃ (m : Bytes) (c : Instr) (s : State), s.mgt.vmgt = true ∧ (c, m) ∈ [(.getEndpointId, [2, 0, s.mgt.eid, 0, 0]),
        (.getMctpVersionSupport, [4, 0, 1, 0xF1, 0xF3, 0xFF, 0]), (.getMessageTypeSupport, [5, 0, 1, 0x7F]),
        (.getVendorDefinedMessageSupport, [6, 0, 0xFF, 1, 0, 0, 0xD8, 0xE5, 0, 0])])
    ∧ (∃ (s : State), s.mgt.vmgt = false) :=
  ⟨⟨[], gone, by decide +kernel⟩,
   ⟨mctpOf (pay [1, 0, 0, 0xC8]), z, by unfold State.storesCanonical cellsRise; decide +kernel⟩,
   ⟨mctpOf (pay [0, 9]), z, by decide +kernel⟩,
   ⟨mctpOf (pay ([1, 0, 0, 0xC8] ++ List.replicate 65 0)), z,
     by unfold State.storesCanonical cellsRise State.mctpTakes; decide +kernel⟩,
   ⟨mctpOf (pay [1, 0, 0, 0xC8, 0x7F, 0, 0, 0xD8, 0xE5]), z, by unfold State.mctpTakes; decide +kernel⟩,
   ⟨mctpOf (pay [1, 0, 0, 0xC8, 0, 0x80, 2]), z, by unfold State.mctpTakes; decide +kernel⟩,
   ⟨mctpOf (pay [1, 0, 0, 0x80, 0x7F]), z, by unfold State.mctpTakes; decide +kernel⟩,
   ⟨mctpOf (pay [1, 0, 0, 0x10, 0]), asm0, assembling, by unfold State.storesCanonical cellsRise State.mctpTakes; decide +kernel⟩,
   ⟨z, by decide +kernel⟩,
   ⟨[5, 0, 1, 0x7F], .getMessageTypeSupport, z, by decide +kernel⟩,
   ⟨gone, by decide +kernel⟩⟩

theorem witness_QueriesAndPortCommandsAreAnswered :
    (∃ (s : State), s.mgt.vmgt = true)
    ∧ (∃ (s : State), s.mgt.vmgt = true)
    ∧ (∃ (s : State), s.mgt.vmgt = true)
    ∧ (∃ (s : State), s.mgt.vmgt = true)
    ∧ (∃ (s : State), s.mgt.vmgt = true)
    ∧ (∃ (s : State), s.storesCanonical ∧ s.mgt.vmgt = true)
    ∧ (∃ (s : State), s.mgt.vmgt = false)
    ∧ (∃ (s : State), s.ops.st = .stopping ∧ s.ops.cause = 0x11)
    ∧ (∃ (q : Byte) (s : State), s.mgt.vmgt = true ∧ (s.ops.st ≠ .stopping ∨ s.ops.cause ≠ 0x11) ∧ (s.takeMsg 0x10 q).mgtBusy = true)
    ∧ (∃ (q : Byte) (b : Bytes) (d : Bytes) (p : Bytes) (sig : Bytes) (s : State), s.storesCanonical ∧ s.mgt.vmgt = true ∧ (s.takeMsg 0x10
        q).mgtBusy = false ∧ s.pair = false ∧ mgtParts b = (d, p, sig) ∧ s.ops.st ≠ .halted ∧ (s.ops.st ≠ .stopping ∨ s.ops.cause ≠
        0x11)) :=
  ⟨⟨z, by decide +kernel⟩,
   ⟨z, by decide +kernel⟩,
   ⟨z, by decide +kernel⟩,
   ⟨z, by decide +kernel⟩,
   ⟨z, by decide +kernel⟩,
   ⟨z, by unfold State.storesCanonical cellsRise; decide +kernel⟩,
   ⟨gone, by decide +kernel⟩,
   ⟨(ost .stopping z).modOps fun o => { o with cause := 0x11 }, by decide +kernel⟩,
   ⟨1, z.modMgt fun m => { m with cmd := some asked }, by decide +kernel⟩,
   ⟨1, [], padTo 128 [], payloadOf (padTo 128 []) [], [], z, by unfold State.storesCanonical cellsRise; decide +kernel⟩⟩

theorem witness_CommandsActWhereTheyMay :
    (∃ (t : Fin 16) (half : Bool) (s : State), s.ctlRuns = true ∧ (s.tb t).run = .running ∧ (s.nextLoad t).2 = half)
    ∧ (∃ (t : Fin 16) (at_ : Nat) (nt : Option DWord) (s : State), s.ctlRuns = true ∧ (s.tb t).run = .waiting ∧ s.firstZeroAt t = some
        (at_, nt))
    ∧ (∃ (e : Fin 8) (img : Image) (s : State), (s.engN e).image = some img ∧ s.executes e = true ∧ (s.engN e).armReset = false ∧ (s.engN
        e).started = false ∧ s.sampleReady e = true)
    ∧ (∃ (e : Fin 8) (s : State), s.executes e = true ∧ (s.engN e).started = true ∧ (s.engN e).published = false ∧ s.missAt e = none)
    ∧ (∃ (e : Fin 8) (s : State), s.executes e = true ∧ (s.engN e).started = true ∧ (s.engN e).published = true ∧ (s.engN e).complete =
        false ∧ s.missAt e = none)
    ∧ (∃ (w : CfgWrite) (rest : List CfgWrite) (s : State), s.storesCanonical ∧ s.stg.writes = w :: rest ∧ w.recover = false ∧
        (s.saf.chA.rel && s.saf.chB.rel) = false)
    ∧ (∃ (n : Fin 32) (desc : Bytes) (s : State), ((s.dmaN n).st = .idle ∨ (s.dmaN n).st = .error) ∧ s.dmaRingDram n = false ∧ (s.dmaN
        n).head ≠ s.dmaTail n ∧ dmaRefusal (s.dmaQueue n) (dmaDescOf desc) = none)
    ∧ (∃ (n : Fin 32) (v : Word) (s : State), s.storesCanonical ∧ v.toNat < s.dmaDepth n)
    ∧ (∃ (n : Fin 32) (d : DmaDesc) (s : State), ((s.dmaN n).st = .run ∨ (s.dmaN n).st = .wait) ∧ s.dmaQueue n ≠ 0 ∧ (s.dmaN n).paced =
        false ∧ s.dmaHigh n ≤ s.dmaFill n ∧ (s.dmaN n).desc = some d)
    ∧ (∃ (n : Fin 32) (d : DmaDesc) (s : State), ((s.dmaN n).st = .run ∨ (s.dmaN n).st = .wait) ∧ s.lv .dmaChCfg n 0 7 4 ≠ 0 ∧ s.dmaQueue n
        ≠ 0 ∧ s.dmaQueue n ≠ 3 ∧ (s.dmaN n).flush = false ∧ 0 < s.dmaFill n ∧ s.dmaFill n < s.dmaHigh n ∧ (s.dmaN n).desc = some d)
    ∧ (∃ (n : Fin 32) (d : DmaDesc) (s : State), s.storesCanonical ∧ (s.dmaN n).desc = some d ∧ s.dmaQueue n = 0 ∧ s.dramGrants n d = true
        ∧ (s.dmaN n).st = .run ∧ (s.dmaN n).moved + s.burstLen n d < d.len ∧ d.dstDram = true)
    ∧ (∃ (n : Fin 32) (s : State), (s.dmaN n).st = .run ∧ s.bursting n = true)
    ∧ (∃ (n : Fin 32) (d : DmaDesc) (s : State), s.storesCanonical ∧ (s.dmaN n).desc = some d ∧ s.dmaRingDram n = false ∧ (s.dmaN n).st =
        .aborting)
    ∧ (∃ (n : Fin 32) (d : DmaDesc) (s : State), s.storesCanonical ∧ (s.dmaN n).desc = some d ∧ (s.dmaN n).st = .run ∧ s.dmaRingDram n =
        false)
    ∧ (∃ (f : Bytes) (s : State), s.pair = true ∧ s.twn.link = .up ∧ s.twn.role = false ∧ crc32cOk f = true ∧ pb f 0 = 2 ∧ (itemOf f).no =
        s.twn.rxItem + 1 ∧ (itemOf f).opcode = chunkItem)
    ∧ (∃ (d : DueSlot) (t0 : Nat) (rest : List (DueSlot × Nat)) (s : State), s.twn.swapSpore = (d, t0) :: rest ∧ s.twn.swapReq = false ∧
        s.twn.role = true ∧ (s.tb (s.leadTb s.refEng)).run = .running ∧ t0 ≤ (s.tb (s.leadTb s.refEng)).zeroAt)
    ∧ (∃ (p : Fin 2) (t0 : Nat) (s : State), s.arb.bbm = some (p, t0) ∧ (s.arbPort p).failed = false)
    ∧ (∃ (p : Fin 2) (s : State), s.arb.strapped = true ∧ (s.arbPort p).active = true ∧ (s.arbPort p).swapReq = true ∧ (s.arbPort p).failed
        = false ∧ s.arb.bbm = none ∧ (s.arbPort (1 - p.val)).isReady = true)
    ∧ (∃ (s : State), s.storesCanonical ∧ s.sarOn = true ∧ s.ctlRuns = true ∧ s.sar.trigAt ≠ some s.nsNow ∧ s.sar.conv = .idle)
    ∧ (∃ (s : State), s.sarOn = true ∧ s.ctlRuns = true ∧ s.sar.conv = .idle)
    ∧ (∃ (mask : BitVec 16) (k : Nat) (s : State), k < 16 ∧ mask.getLsbD k = true ∧ s.ostMay k = true)
    ∧ (∃ (mask : BitVec 16) (k : Nat) (s : State), s.linkMode = true ∧ k < 16 ∧ mask.getLsbD k = true ∧ s.configured k = true)
    ∧ (∃ (err : Int) (s : State), s.clk.st = .acquire ∧ (centred 40000 (tdc err)).natAbs ≤ s.lockTol ∧ s.lockCnt ≤ s.clk.lockRun + 1) :=
  ⟨⟨15, true, clk .locked (z.modTb 15 fun b => { b with run := .running, dbl := true }), by decide +kernel⟩,
   ⟨15, 0, none, clk .locked (z.modTb 15 fun b => { b with run := .waiting }), by decide +kernel⟩,
   ⟨7, blank, ran 7 (fun n => { n with image := some blank }) z, by decide +kernel⟩,
   ⟨7, ran 7 (fun n => { n with started := true, published := false }) z, by decide +kernel⟩,
   ⟨7, ran 7 (fun n => { n with started := true, complete := false }) z, by decide +kernel⟩,
   ⟨cfgWrite false, [], z.modStg fun g => { g with writes := [cfgWrite false] },
     by unfold State.storesCanonical cellsRise; decide +kernel⟩,
   ⟨31, leBytes 8 0 ++ leBytes 8 0x380000000 ++ pay [4, 0, 0, 0, 2], rgs [(.dmaDescTail, 31, 1)] z, by decide +kernel⟩,
   ⟨31, 0, z, by unfold State.storesCanonical cellsRise; decide +kernel⟩,
   ⟨31, dmaDesc 4, cfg [(.dmaChCfg, 31, 1)] (dma fun c => { c with st := .run, desc := some (dmaDesc 4) }), by decide +kernel⟩,
   ⟨31, dmaDesc 4, cfg [(.dmaChCfg, 31, 0x00100011)]
     { dma fun c => { c with st := .wait, desc := some (dmaDesc 4) } with sar := { queue := [0] } }, by decide +kernel⟩,
   ⟨31, toDram 1000, dma fun c => { c with st := .run, desc := some (toDram 1000) },
     by unfold State.storesCanonical cellsRise; decide +kernel⟩,
   ⟨31, dma fun c => { c with st := .run, desc := some (dmaDesc 4) }, by decide +kernel⟩,
   ⟨31, dmaDesc 1, dma fun c => { c with st := .aborting, desc := some (dmaDesc 1) },
     by unfold State.storesCanonical cellsRise; decide +kernel⟩,
   ⟨31, dmaDesc 1, dma fun c => { c with st := .run, desc := some (dmaDesc 1) },
     by unfold State.storesCanonical cellsRise; decide +kernel⟩,
   ⟨itemFrame chunkItem, standby, by decide +kernel⟩,
   ⟨spore 4, 0, [], (twin fun t => { t with role := true, swapSpore := [(spore 4, 0)] }).modTb 0 fun b => { b with run := .running },
     by decide +kernel⟩,
   ⟨1, 0, arb {} { failed := false } (some (1, 0)), by decide +kernel⟩,
   ⟨1, arb { width := 200, failed := false } { failed := false, active := true, swapReq := true } none, by decide +kernel⟩,
   ⟨clk .locked sar, by unfold State.storesCanonical cellsRise; decide +kernel⟩,
   ⟨clk .locked sar, by decide +kernel⟩,
   ⟨0xFFFF, 0, ost .idle eight, by decide +kernel⟩,
   ⟨1, 0, linked, by decide +kernel⟩,
   ⟨0, { z with clk := { lockRun := 1000000 } }, by decide +kernel⟩⟩

/-- A command put among the accepted ones is the one to act. -/
theorem given_here (op : Nat) (p : Bytes) (s : State) : (given src op p s).given src op p = true := by
  simp [given, State.given, State.modCmd, src, Handed.is]

/-- The premises that rest on a free function of Config (a signature, a tag, an unwrap): where it answers so, a state meets the others. -/
theorem witness_CommandsActWhereTheyMay_free :
    (∀ (p bs : Bytes) (img : Image), pb p 0 ≠ 0 → (given src 0x0910 p trustedHeld).imageCheck bs (pf p 16 4) = .ok img →
      ∃ (c : Src) (s : State), s.storesCanonical ∧ s.admits c 0x0910 p ∧ s.holds (masterOf c) = true ∧ s.stagePending = false ∧ pb p 0 ≠ 0
        ∧ s.imageCheck bs (pf p 16 4) = .ok img)
    ∧ (∀ (p bs : Bytes), (given src 0x0205 p trusted).blockRefusal (padTo (pf p 16 4) bs) = none →
      ∃ (c : Src) (s : State), s.admits c 0x0205 p ∧ s.pair = false ∧ s.blockRefusal (padTo (pf p 16 4) bs) = none)
    ∧ (∀ (p : Bytes) (m : List (Nat × Byte)), pf p 0 4 ≤ 8388608 → crc32c (memRead m recBase (pf p 0 4)) = pf p 4 4 →
      { given src 0x0206 p trusted with dram := m }.blockRefusal (memRead m recBase (pf p 0 4)) = none →
      ∃ (c : Src) (bs : Bytes) (s : State), s.given c 0x0206 p = true ∧ pf p 0 4 ≤ 8388608 ∧ memRead s.dram recBase (pf p 0 4) = bs
        ∧ crc32c bs = pf p 4 4 ∧ s.blockRefusal bs = none)
    ∧ (∀ (p bs : Bytes), pb p 0 = 1 → fwForm (padTo (pf p 16 4) bs) = true →
      (given src 0x0901 p trusted).trailerCheck (padTo (pf p 16 4) bs) (pf (padTo (pf p 16 4) bs) 60 4) 2 "NDZ IMG" (· < 8) = none →
      ∃ (c : Src) (s : State), s.given c 0x0901 p = true ∧ s.pair = false ∧ s.ops.fwWrite = none ∧ pb p 0 < 2 ∧ pb p 0 ≠ s.ops.runSlot
        ∧ s.sec.svn ≤ pb (padTo (pf p 16 4) bs) 12 ∧ fwForm (padTo (pf p 16 4) bs) = true
        ∧ s.trailerCheck (padTo (pf p 16 4) bs) (pf (padTo (pf p 16 4) bs) 60 4) 2 "NDZ IMG" (· < 8) = none)
    ∧ (∀ (d p : Bytes), (keyed (works (fl .verify d p) z)).verifyFail (fl .verify d p) = none →
      ∃ (u : Fin 7) (f : Flight) (s : State), s.storesCanonical ∧ s.unitWork u .verify = some f ∧ s.now ≤ f.deadline ∧ s.verifyFail f = none)
    ∧ (∀ kg : Bytes, granting.unwrap (grant false false).payload = some kg →
      ∃ (r : Fin 129) (g : PendGrant) (s : State), s.storesCanonical ∧ s.sec.grants.find? (fun g => g.ring = r && s.unwrapping g && (g.ring.val != 128 || s.mgt.vmgt)) = some g
        ∧ g.erased = false ∧ g.plant = false ∧ s.unwrap g.payload = some kg)
    ∧ (∀ p : Bytes, pb p 0 = 15 → pb p 1 = 1 → Config.keysValid ((p.drop 24).take 1952) ((p.drop 1976).take 97) = true →
      ∃ (c : Src) (s : State), s.storesCanonical ∧ s.admits c 0x0403 p ∧ s.anchorRefusal (pb p 0) (pb p 1) = none
        ∧ Config.keysValid ((p.drop 24).take 1952) ((p.drop 1976).take 97) = true)
    ∧ (∀ p : Bytes, 56 ≤ p.length → listening.ptmAccepts p = true →
      ∃ s : State, s.storesCanonical ∧ s.lvb .ntPtmCtrl 0 0 1 = true ∧ 56 ≤ p.length ∧ s.ptmAccepts p = true)
    ∧ (∀ b d p sig : Bytes, mgtParts b = (d, p, sig) → trusted.mgtRefusal b = none →
      ∃ s : State, s.mgt.vmgt = true ∧ s.mgt.cmd = none ∧ s.pair = false ∧ mgtParts b = (d, p, sig) ∧ s.ops.st ≠ .halted
        ∧ s.mgtRefusal b = none) :=
  ⟨fun p _ _ h0 h => ⟨src, given src 0x0910 p trustedHeld, (by unfold State.storesCanonical cellsRise; decide +kernel : trustedHeld.storesCanonical),
      ⟨given_here _ _ _, (by decide +kernel : ¬ (trustedHeld.ops.st = .halted ∧ (src.ring.val < 128 ∨ 0x0910 = 0x0204)))⟩,
      (by decide +kernel : trustedHeld.holds (masterOf src) = true), (by decide +kernel : trustedHeld.stagePending = false), h0, h⟩,
   fun p _ h => ⟨src, given src 0x0205 p trusted,
      ⟨given_here _ _ _, (by decide +kernel : ¬ (trusted.ops.st = .halted ∧ (src.ring.val < 128 ∨ 0x0205 = 0x0204)))⟩,
      (by decide +kernel : trusted.pair = false), h⟩,
   fun p m h h1 h2 => ⟨src, _, { given src 0x0206 p trusted with dram := m }, given_here 0x0206 p trusted, h, rfl, h1, h2⟩,
   fun p _ h h1 h2 => ⟨src, given src 0x0901 p trusted, given_here _ _ _, (by decide +kernel : trusted.pair = false),
      (by decide +kernel : trusted.ops.fwWrite = none), by rw [h]; decide, by rw [h]; exact (by decide +kernel : 1 ≠ trusted.ops.runSlot),
      Nat.zero_le _, h1, h2⟩,
   fun d p h => ⟨1, fl .verify d p, keyed (works (fl .verify d p) z),
      (by unfold State.storesCanonical cellsRise; decide +kernel : z.storesCanonical), rfl,
      Nat.le_refl _, h⟩,
   fun _ h => ⟨0, grant false false, granting, by unfold State.storesCanonical cellsRise; decide +kernel, by decide +kernel, rfl, rfl, h⟩,
   fun p h0 h1 h => ⟨src, given src 0x0403 p (owned []), (by unfold State.storesCanonical cellsRise; decide +kernel : (owned []).storesCanonical),
      ⟨given_here _ _ _, (by decide +kernel : ¬ ((owned []).ops.st = .halted ∧ (src.ring.val < 128 ∨ 0x0403 = 0x0204)))⟩,
      by rw [h0, h1]; exact (by decide +kernel : (owned []).anchorRefusal 15 1 = none), h⟩,
   fun _ h1 h => ⟨listening, by unfold State.storesCanonical cellsRise; decide +kernel, by decide +kernel, h1, h⟩,
   fun _ _ _ _ h h1 => ⟨trusted, by decide +kernel, by decide +kernel, by decide +kernel, h, by decide +kernel, h1⟩⟩
/-! ### Single steps, with results read from the spec -/

def after (i : Instr) (s : State) : State := match exec i s with | .next t => t | _ => s

/-- The BAR0 map of the global block: GLB_DEVICE_ID at offset 0 reads 0x9216. -/
theorem test_device_id : (after (.captureRead ⟨none, 0⟩ .w32) z).bus.readData = 0x9216 := by decide +kernel

/-- GLB_SCRATCH stands at 0x000C and holds what is written. -/
theorem test_scratch : (after (.registerWrite ⟨none, 0xC⟩ .w32 0x12345678) z).reg .glbScratch = 0x12345678 := by decide +kernel

/-- R11: a misaligned read returns 0 in every byte. -/
theorem test_misaligned_read : (after (.captureRead ⟨none, 2⟩ .w32) { z with bus := { readData := 5 } }).bus.readData = 0 := by decide +kernel

/-- R16: a write from a master without the token is discarded and counted. -/
theorem test_stage_discard :
    (after (.rwsStageWrite .mgmt (adr .pwmPrd 0 0) .w32 5) held).reg .stgDiscardCnt = 1
      ∧ regGet (after (.rwsStageWrite .mgmt (adr .pwmPrd 0 0) .w32 5) held).stg.stage .pwmPrd = regGet [] .pwmPrd := by decide +kernel

/-- Table STG-2: an acquisition while no master holds the token is granted. -/
theorem test_token_granted :
    (after (.stgToken msrc (pay [1, 0, 0, 0, 1, 0, 0, 0])) (given msrc 0x0201 (pay [1, 0, 0, 0, 1, 0, 0, 0]) z)).stg.token = some .mgmt := by decide +kernel

/-- Table STG-2: an acquisition while the other master holds the token is refused. -/
theorem test_token_refused :
    (after (.stgToken msrc (pay [1, 0, 0, 0, 1, 0, 0, 0])) (given msrc 0x0201 (pay [1, 0, 0, 0, 1, 0, 0, 0]) held)).stg.token = some .host := by decide +kernel

/-- R383: OPS_ARM while the device is STOPPING is refused, and counts in GLB_BUSY_STOP_CNT. -/
theorem test_arm_while_stopping :
    (after (.opsArm src) (given src 0x0610 [] (ost .stopping z))).ops.st = .stopping
      ∧ (after (.opsArm src) (given src 0x0610 [] (ost .stopping z))).reg .glbBusyStopCnt = 1 := by
  decide +kernel

/-- R380: with every condition met OPS_ARM enters ARMED. -/
theorem test_arm : (after (.opsArm src) (given src 0x0610 [] ready)).ops.st = .armed := by decide +kernel

/-- R344: slot 0 can be neither installed nor revoked. -/
theorem test_slot0_stays : ((after (.anchorRevoke src (pay [0, 1])) (given src 0x0404 (pay [0, 1]) (owned []))).anchor 0).otpGen = 0 := by decide +kernel

/-- R344: a revocation burns one fuse of its slot. -/
theorem test_revoke_burns_a_fuse : ((after (.anchorRevoke src (pay [15, 1])) (given src 0x0404 (pay [15, 1]) (owned []))).anchor 15).otpGen = 1 := by decide +kernel

/-- R401: a unit accepts a trigger only while ARMED. -/
theorem test_trigger_of_an_idle_unit : ((after (.acqTrigger src (pay [1])) (given src 0x0302 (pay [1]) z)).acqN 0).st = .idle := by decide +kernel

/-- TRP_TRIP trips the stack it names, and no other one. -/
theorem test_trip :
    ((after (.trpTrip src (pay [1, 0])) (given src 0x0601 (pay [1, 0]) (ost .idle eight))).zone 0).causes ≠ 0
      ∧ ((after (.trpTrip src (pay [1, 0])) (given src 0x0601 (pay [1, 0]) (ost .idle eight))).zone 1).causes = 0 := by
  decide +kernel

/-- R428: a valid pulse of a module where none is ACTIVE and none READY makes it ACTIVE after the arbiter's power-up. -/
theorem test_pulse_is_taken : ((after (.arbiterHbPulse 1 200) (arb {} {} none)).arbPort 1).width = 200 := by decide +kernel

/-- The check value of CRC-32C in its standard form over the digits 1 to 9. -/
theorem test_crc32c : crc32c (pay [49, 50, 51, 52, 53, 54, 55, 56, 57]) = 0xE3069283 := by decide +kernel

end Sys2Proof.Tests
end

section
/-! BAR0 accesses (R11 to R16, R36, R483): what a register of the file reads after a write, what an access becomes for each width,
alignment and access code, and what a write to the stage leaves. The statements are settled from these rules. -/

namespace Sys2Proof.Machine

/-! ### The register file after a write -/

section
variable {s : State} (h : s.storesCanonical) (r : Reg) (i j : Nat)
include h

theorem storesCanonical_setReg (v : DWord) : (s.setReg r i j v).storesCanonical := by
  obtain ⟨hhost, hdram, hlive, hregs, hstage⟩ := h
  exact ⟨hhost, hdram, hlive, cellsRise_write hregs, hstage⟩

theorem reg_setReg_same (v : DWord) : (s.setReg r i j v).reg r i j = v := by
  obtain ⟨-, -, -, hregs, -⟩ := h
  exact regGet_regSet_same hregs r i j v

theorem otherRegs_setReg (v : DWord) : OtherRegs r i j s (s.setReg r i j v) := by
  obtain ⟨-, -, -, hregs, -⟩ := h
  exact fun r' i' j' ha => regGet_regSet_other hregs r r' i j i' j' v ha

theorem setsReg_setReg (v : DWord) : SetsReg r i j v s (s.setReg r i j v) :=
  ⟨reg_setReg_same h r i j v, otherRegs_setReg h r i j v, only_setReg r i j v (Only.refl _ s) (by decide)⟩

/-- R15: a counter goes up by one and saturates. -/
theorem counts_count : Counts r i s (s.count r i) := by
  refine ⟨?_, otherRegs_setReg h r i 0 _, only_count r i 1 (Only.refl _ s) (by decide)⟩
  have hreg : (s.count r i).reg r i 0 = BitVec.ofNat 64 (min ((s.reg r i 0).toNat + 1) 0xFFFFFFFF) := reg_setReg_same h r i 0 _
  rw [hreg, BitVec.toNat_ofNat]
  omega

/-- R11, R36: a discarded access counts once, and its cause, direction and offset stand in GLB_ACCESS_ADDR (Table ARC-9). -/
theorem countsAccess_accessErr {cause : Nat} (hcause : cause < 2 ^ 8) (write : Bool) (off : Offset) :
    CountsAccess cause write off s (s.accessErr cause write off.toNat) := by
  obtain ⟨herr, hother, -⟩ := counts_count h .glbAccessErr 0
  have hcanon : (s.count .glbAccessErr).storesCanonical := storesCanonical_setReg h _ _ _ _
  have hset := otherRegs_setReg hcanon .glbAccessAddr 0 0
    (BitVec.ofNat 64 (cause * 2 ^ 24 + (if write then 2 ^ 23 else 0) + off.toNat % 2 ^ 22))
  refine ⟨?_, ?_, fun r' i' j' he ha => (hset r' i' j' ha).trans (hother r' i' j' he)⟩
  · have := hset .glbAccessErr 0 0 (by decide)
    exact (congrArg BitVec.toNat this).trans herr
  · have haddr : (s.accessErr cause write off.toNat).reg .glbAccessAddr 0 0 =
        BitVec.ofNat 64 (cause * 2 ^ 24 + (if write then 2 ^ 23 else 0) + off.toNat % 2 ^ 22) :=
      reg_setReg_same hcanon .glbAccessAddr 0 0 _
    have hoff := off.isLt
    rw [haddr, BitVec.toNat_ofNat]
    cases write <;> simp only [if_true, Bool.false_eq_true, if_false] <;> omega

end

theorem only_accessErr_regs (s : State) (cause : Nat) (write : Bool) (off : Nat) : Only [.regs] s (s.accessErr cause write off) :=
  only_accessErr s cause write off (Only.refl _ s) (by decide)

/-! ### Facts of the register table -/

/-- Every register of the codes W1C and RC has one word. -/
theorem Reg.size_of_w1c_or_rc {r : Reg} (h : r.row.acc = .w1c ∨ r.row.acc = .rc) : r.row.size = 4 := by
  revert h
  cases r <;> decide

theorem acc_and_size_of_mem_plainRw : ∀ r ∈ plainRw, r.row.acc = .rw ∧ r.row.size = 4 := by decide

/-- R362: a safety register is RO in BAR0, so an RWS register has no bits that only STG_WRITE sets. -/
theorem safMask_of_rws {r : Reg} (h : r.row.acc = .rws) : safMask r = 0 := by
  unfold safMask
  split
  · exact absurd h (by decide)
  · exact absurd h (by decide)
  · exact absurd h (by decide)
  · rfl

/-! ### Writes by width and alignment -/

theorem busWrite_misaligned (s : State) (m : Master) {off : Nat} {w : AccessWidth} (v : DWord)
    (h : w = .w32 ∧ off % 4 ≠ 0 ∨ w = .w64 ∧ off % 8 ≠ 0) : s.busWrite m off w v = s.accessErr 4 true off := by
  obtain ⟨rfl, hoff⟩ | ⟨rfl, hoff⟩ := h
  · exact if_pos hoff
  · exact if_pos hoff

theorem busWrite_unassigned (s : State) (m : Master) {off : Nat} (v : DWord) (h4 : off % 4 = 0) (ha : assigned off = false) :
    s.busWrite m off .w32 v = s.accessErr 1 true off := by
  simp [State.busWrite, h4, ha]

section
variable {off : Offset} {r : Reg} {i j : Nat} (hat : atReg off r i j)
include hat

theorem assigned_of_atReg : assigned off.toNat = true := by
  obtain ⟨hfind, -⟩ := hat
  simp [assigned, hfind]

theorem busWrite_atReg (s : State) (m : Master) (v : DWord) :
    s.busWrite m off.toNat .w32 v = s.writeWord m off.toNat (v.setWidth 32) := by
  have hassigned := assigned_of_atReg hat
  obtain ⟨-, -, h4, -, -⟩ := hat
  simp [State.busWrite, h4, hassigned]

/-- A 32-bit write to a register of one word that is not RWS writes that register. -/
theorem busWrite_word_atReg (s : State) (m : Master) (v : DWord) (hacc : r.row.acc ≠ .rws) (hsize : r.row.size = 4) :
    s.busWrite m off.toNat .w32 v = s.regWrite off.toNat r i j (v.toNat % 2 ^ 32) := by
  rw [busWrite_atReg hat]
  obtain ⟨hfind, -, -, htable, hpba⟩ := hat
  simp [State.writeWord, hfind, htable, hpba, hacc, hsize]

/-- A 64-bit write to a 64-bit register that is not RWS drops a held word and writes that register whole (R483). -/
theorem busWrite_wide_atReg (s : State) (m : Master) (v : DWord) (hacc : r.row.acc ≠ .rws) (hsize : r.row.size = 8)
    (h8 : off.toNat % 8 = 0) :
    s.busWrite m off.toNat .w64 v =
      (s.modBus fun b => { b with held := b.held.filter fun p => p.1 != off.toNat }).regWrite off.toNat r i j v.toNat := by
  obtain ⟨hfind, haddr, -⟩ := hat
  have hwide : wideReg off.toNat = some (r, i, j) := by simp [wideReg, hfind, hsize, ← haddr]
  simp [State.busWrite, h8, hwide, hacc]

/-- A 32-bit write to the first word of an RWS register goes to the stage. -/
theorem busWrite_rws_atReg (s : State) (m : Master) (v : DWord) (hacc : r.row.acc = .rws) :
    s.busWrite m off.toNat .w32 v = s.stageBus m off.toNat r i j fun old =>
      if r.row.size = 8 then putWord old false (v.setWidth 32).toNat else (v.setWidth 32).toNat := by
  rw [busWrite_atReg hat]
  obtain ⟨hfind, haddr, -, htable, hpba⟩ := hat
  simp [State.writeWord, hfind, htable, hpba, hacc, ← haddr]

/-- R13: a write to a register of the codes RO and RC changes nothing. -/
theorem busWrite_readOnly (s : State) (m : Master) (v : DWord) (hacc : r.row.acc = .ro ∨ r.row.acc = .rc) :
    s.busWrite m off.toNat .w32 v = s := by
  obtain hro | hrc := hacc
  · rw [busWrite_atReg hat]
    obtain ⟨hfind, haddr, -, htable, hpba⟩ := hat
    simp [State.writeWord, State.regWrite, hfind, htable, hpba, hro, ← haddr]
  · rw [busWrite_word_atReg hat s m v (by simp [hrc]) (Reg.size_of_w1c_or_rc (.inr hrc))]
    simp [State.regWrite, hrc]

end

/-! ### Writes by access code -/

theorem regWrite_plainRw (s : State) (off : Nat) {r : Reg} (i j v : Nat) (h : r ∈ plainRw) :
    s.regWrite off r i j v = s.setReg r i j (BitVec.ofNat 64 (v &&& r.row.mask)) := by
  simp only [plainRw, List.mem_cons, List.not_mem_nil, or_false] at h
  rcases h with rfl | rfl | rfl | rfl | rfl | rfl | rfl | rfl <;> rfl

theorem regWrite_w1c (s : State) (off : Nat) {r : Reg} (i j v : Nat) (h : r.row.acc = .w1c) :
    s.regWrite off r i j v = s.setReg r i j (s.reg r i j &&& ~~~ BitVec.ofNat 64 (v &&& r.row.mask)) := by
  simp only [State.regWrite, h]

/-- R313: the base of a queue takes a whole 64-bit value while its ring is DISABLED. -/
theorem regWrite_queueBase (s : State) (off : Nat) {r : Reg} (i j : Nat) (v : DWord) (h : r = .cmdSqBase ∨ r = .cmdCqBase)
    (hring : (s.ring i).st = .disabled) : s.regWrite off r i j v.toNat = s.setReg r i 0 v := by
  have hmask : v.toNat &&& 0xffffffffffffffff = v.toNat := Nat.and_two_pow_sub_one_of_lt_two_pow v.isLt
  obtain rfl | rfl := h <;>
    simp [State.regWrite, Reg.row, State.writeWhen, State.setRegN, hring, hmask]

/-! ### Reads -/

theorem busRead_misaligned (s : State) {off : Nat} {w : AccessWidth} (h : w = .w32 ∧ off % 4 ≠ 0 ∨ w = .w64 ∧ off % 8 ≠ 0) :
    s.busRead off w = (s.accessErr 4 false off).modBus fun b => { b with readData := 0 } := by
  obtain ⟨rfl, hoff⟩ | ⟨rfl, hoff⟩ := h
  · exact if_pos hoff
  · exact if_pos hoff

theorem busRead_unassigned (s : State) {off : Nat} (h4 : off % 4 = 0) (ha : assigned off = false) :
    s.busRead off .w32 = (s.accessErr 1 false off).modBus fun b => { b with readData := 0 } := by
  simp only [assigned, Bool.or_eq_false_iff, Option.isSome_eq_false_iff, Option.isNone_iff_eq_none] at ha
  obtain ⟨⟨htable, hpba⟩, hfind⟩ := ha
  simp [State.busRead, State.readWord, h4, htable, hpba, hfind]

/-- A narrow read within one assigned word returns the bytes of that word (R11). -/
theorem narrowRead_of_wordView (s : State) {off n : Nat} {x : Word} (hn : n = 1 ∨ n = 2 ∧ off % 4 ≤ 2)
    (hx : s.wordView (off / 4 * 4) = some x) : s.narrowRead off n = (x.toNat / 2 ^ (8 * (off % 4)) % 2 ^ (8 * n), true) := by
  obtain rfl | ⟨rfl, hlast⟩ := hn
  · simp [State.narrowRead, hx]
  · have hword : (off + 1) / 4 * 4 = off / 4 * 4 := by omega
    have hbyte : (off + 1) % 4 = off % 4 + 1 := by omega
    have hshift : x.toNat / 2 ^ (8 * (off % 4 + 1)) = x.toNat / 2 ^ (8 * (off % 4)) / 256 := by
      rw [Nat.div_div_eq_div_mul, Nat.mul_succ, pow_add, show 2 ^ 8 = 256 from rfl]
    simp only [State.narrowRead, List.range_succ, List.range_zero, List.nil_append, List.cons_append, List.foldl_cons, List.foldl_nil,
      Nat.add_zero, hword, hbyte, hx, hshift, Prod.mk.injEq, and_true]
    omega

theorem busRead_narrow (s : State) {off n : Nat} {w : AccessWidth} {x : Word} (h : w = .w8 ∧ n = 1 ∨ w = .w16 ∧ n = 2 ∧ off % 4 ≤ 2)
    (hx : s.wordView (off / 4 * 4) = some x) :
    s.busRead off w = s.modBus fun b => { b with readData := BitVec.ofNat 64 (x.toNat / 2 ^ (8 * (off % 4)) % 2 ^ (8 * n)) } := by
  obtain ⟨rfl, rfl⟩ | ⟨rfl, rfl, hlast⟩ := h
  · simp [State.busRead, narrowRead_of_wordView s (.inl rfl) hx]
  · simp [State.busRead, narrowRead_of_wordView s (.inr ⟨rfl, hlast⟩) hx]

/-! ### The stage -/

/-- R16, R362: a write without the token, or while the stage is PENDING, is discarded and counted. -/
theorem stageBus_refused (s : State) {m : Master} (off : Nat) (r : Reg) (i j : Nat) (put : DWord → Nat)
    (h : s.holds m = false ∨ s.stagePending = true) : s.stageBus m off r i j put = s.count .stgDiscardCnt := by
  obtain h | h := h <;> simp [State.stageBus, h]

/-- R362, R363: a write of the token's holder sets the staged register, counts a change of the stage, and leaves what is live. -/
theorem stageBus_held (s : State) {m : Master} (off : Nat) {r : Reg} (i j : Nat) (put : DWord → Nat) (hacc : r.row.acc = .rws)
    (hparam : r ≠ .frdParam) (hholds : s.holds m = true) (hpend : s.stagePending = false) :
    (s.stageBus m off r i j put).stg = { s.stg with
        stage := regSet s.stg.stage r i j (BitVec.ofNat 64 (put (regGet s.stg.stage r i j) &&& r.row.mask))
        st := .dirty, gen := s.stg.gen + 1 }
      ∧ Only [.stg, .twn] s (s.stageBus m off r i j put) := by
  have hbus : s.stageBus m off r i j put =
      (s.stageWrote 1 (regSet s.stg.stage r i j (BitVec.ofNat 64 (put (regGet s.stg.stage r i j) &&& r.row.mask))) s.stg.images).mirror
        noSrc stageItem (leBytes 4 (regAddr r i j) ++ leBytes 8 (put (regGet s.stg.stage r i j))) 0 := by
    simp [State.stageBus, stagePut, hholds, hpend, hparam, safMask_of_rws hacc]
  have hmirror (u : State) (p : Bytes) : Only [.twn] u (u.mirror noSrc stageItem p 0) :=
    only_mirror u _ _ _ _ (Only.refl _ u) (by decide)
  rw [hbus]
  constructor
  · exact hmirror _ _ .stg (by decide)
  · exact only_mirror _ _ _ _ _ (only_stageWrote _ _ _ _ (Only.refl _ s) (by decide)) (by decide)

theorem peekWord_of_rws (s : State) {r : Reg} {i j : Nat} (hfind : findReg (s.reg .stgPeekAddr).toNat = some (r, i, j))
    (haddr : (s.reg .stgPeekAddr).toNat = regAddr r i j) (hacc : r.row.acc = .rws) (hparam : r ≠ .frdParam) :
    s.peekWord = (regGet s.stg.stage r i j).toNat % 2 ^ 32 := by
  have htarget : stageTarget s.stg.images (s.reg .stgPeekAddr).toNat = some (r, i, j, false) := by
    simp only [stageTarget, hfind]
    simp [haddr, hacc, hparam]
  simp [State.peekWord, htarget, hparam]

/-- STG_PEEK_DATA reads without an effect of its own. -/
theorem busRead_stgPeekData (s : State) {off : Offset} (hat : atReg off .stgPeekData 0 0) :
    s.busRead off.toNat .w32 = s.modBus fun b => { b with readData := BitVec.ofNat 64 (s.peekWord % 2 ^ 32) } := by
  obtain ⟨hfind, haddr, h4, htable, hpba⟩ := hat
  have hvalue : s.readValue .stgPeekData 0 0 = BitVec.ofNat 64 s.peekWord := by
    simp [State.readValue, companions, State.regValue, Reg.row, State.roValue, bootReads, State.roSys]
  simp [State.busRead, State.readWord, hfind, h4, htable, hpba, ← haddr, State.readFirst, State.readAfter, Reg.row, hvalue, wordAt]

/-! ### The commands -/

section
variable {off : Offset} {w : AccessWidth} {v : DWord} {s t : State} {P : State → Prop}

theorem completes_registerWrite (h : s.busWrite .host off.toNat w v = t) (hP : P t) :
    Completes (.registerWrite ⟨none, off⟩ w v) s P := ⟨t, congrArg Host.Outcome.next h, hP⟩

theorem completes_captureRead (h : s.busRead off.toNat w = t) (hP : P t) : Completes (.captureRead ⟨none, off⟩ w) s P :=
  ⟨t, congrArg Host.Outcome.next h, hP⟩

theorem completes_rwsStageWrite {m : Master} (h : s.busWrite m off.toNat w v = t) (hP : P t) :
    Completes (.rwsStageWrite m off w v) s P := ⟨t, congrArg Host.Outcome.next h, hP⟩

end

/-- Settles O9: each clause takes the rule above for its width, alignment and access code. -/
theorem accessesFollowTheRegisterTable : Obligations.AccessesFollowTheRegisterTable := by
  refine ⟨?rw, ?w1c, ?readOnly, ?wide, ?narrowWrite, ?misalignedWrite, ?misalignedRead, ?unassignedWrite, ?unassignedRead, ?narrowRead⟩
  case rw =>
    intro off r i j v s hs hr hat
    obtain ⟨hacc, hsize⟩ := acc_and_size_of_mem_plainRw r hr
    have hwrite := busWrite_word_atReg hat s .host v (by simp [hacc]) hsize
    exact completes_registerWrite (hwrite.trans (regWrite_plainRw s _ i j _ hr)) (setsReg_setReg hs r i j _)
  case w1c =>
    intro off r i j v s hs hacc hat
    have hwrite := busWrite_word_atReg hat s .host v (by simp [hacc]) (Reg.size_of_w1c_or_rc (.inl hacc))
    exact completes_registerWrite (hwrite.trans (regWrite_w1c s _ i j _ hacc)) (setsReg_setReg hs r i j _)
  case readOnly =>
    intro off r i j v s hacc hat
    exact congrArg Host.Outcome.next (busWrite_readOnly hat s .host v hacc)
  case wide =>
    intro off r i j v s hs hr hring hat h8
    obtain ⟨hacc, hsize⟩ : r.row.acc = .rw ∧ r.row.size = 8 := by obtain rfl | rfl := hr <;> decide
    have hwrite := busWrite_wide_atReg hat s .host v (by simp [hacc]) hsize h8
    rw [regWrite_queueBase _ _ i j v hr (by exact hring)] at hwrite
    exact completes_registerWrite hwrite ⟨reg_setReg_same hs r i 0 v, otherRegs_setReg hs r i 0 v,
      only_setReg r i 0 v (only_modBus _ (Only.refl _ s) (by decide)) (by decide)⟩
  case narrowWrite =>
    intro off w v s hs hw
    have hwrite : s.busWrite .host off.toNat w v = s.accessErr 0 true off.toNat := by obtain rfl | rfl := hw <;> rfl
    exact completes_registerWrite hwrite ⟨countsAccess_accessErr hs (by decide) true off, only_accessErr_regs s _ _ _⟩
  case misalignedWrite =>
    intro off w v s hs hw
    exact completes_registerWrite (busWrite_misaligned s .host v hw)
      ⟨countsAccess_accessErr hs (by decide) true off, only_accessErr_regs s _ _ _⟩
  case misalignedRead =>
    intro off w s hs hw
    exact completes_captureRead (busRead_misaligned s hw) ⟨countsAccess_accessErr hs (by decide) false off, rfl,
      only_modBus _ (only_accessErr s _ _ _ (Only.refl _ s) (by decide)) (by decide)⟩
  case unassignedWrite =>
    intro off v s hs h4 ha
    exact completes_registerWrite (busWrite_unassigned s .host v h4 ha)
      ⟨countsAccess_accessErr hs (by decide) true off, only_accessErr_regs s _ _ _⟩
  case unassignedRead =>
    intro off s hs h4 ha
    exact completes_captureRead (busRead_unassigned s h4 ha) ⟨countsAccess_accessErr hs (by decide) false off, rfl,
      only_modBus _ (only_accessErr s _ _ _ (Only.refl _ s) (by decide)) (by decide)⟩
  case narrowRead =>
    intro off w x n s hw hx
    have hlt : x.toNat / 2 ^ (8 * (off.toNat % 4)) < 2 ^ 64 := (Nat.div_le_self _ _).trans_lt (x.isLt.trans (by decide))
    refine completes_captureRead (busRead_narrow s hw hx) ⟨?_, only_modBus _ (Only.refl _ s) (by decide)⟩
    simp only [State.modBus_fields, BitVec.toNat_ofNat]
    exact Nat.mod_eq_of_lt ((Nat.mod_le _ _).trans_lt hlt)

/-- Settles O12: a write to an RWS register goes to the stage, which the token and the pending commits guard. -/
theorem stagedWritesNeedTheToken : Obligations.StagedWritesNeedTheToken := by
  refine ⟨?refused, ?staged, ?peek⟩
  case refused =>
    intro m off r i j v s hs hacc hguard hat
    have hwrite := busWrite_rws_atReg hat s m v hacc
    exact completes_rwsStageWrite (hwrite.trans (stageBus_refused s _ r i j _ hguard)) (counts_count hs .stgDiscardCnt 0)
  case staged =>
    intro m off r i j v s hs hacc hsize hparam hholds hpend hat
    obtain ⟨-, -, -, -, hstage⟩ := hs
    have hwrite := busWrite_rws_atReg hat s m v hacc
    simp only [hsize, Nat.reduceEqDiff, if_false, BitVec.toNat_setWidth] at hwrite
    obtain ⟨hstg, honly⟩ := stageBus_held s off.toNat i j (fun _ => v.toNat % 2 ^ 32) hacc hparam hholds hpend
    refine completes_rwsStageWrite hwrite ?_
    rw [hstg]
    exact ⟨regGet_regSet_same hstage r i j _, rfl, rfl, fun r' i' j' ha => regGet_regSet_other hstage r r' i j i' j' _ ha,
      honly .live (by decide), honly .regs (by decide)⟩
  case peek =>
    intro off r i j s hat hfind haddr hacc hparam
    refine completes_captureRead (busRead_stgPeekData s hat) ⟨?_, only_modBus _ (Only.refl _ s) (by decide)⟩
    simp only [State.modBus_fields, BitVec.toNat_ofNat, peekWord_of_rws s hfind haddr hacc hparam]
    omega

end Sys2Proof.Machine
end

section
/-! The fused minimum SEC_SVN (R390): which operations leave the trust state alone, which change another part of it, and the one that
raises the minimum. The statement about every command is settled from these rules. -/

namespace Sys2Proof.Machine

/-! ### Operations that leave the trust state alone -/

/-- Every part of the state but the trust state. -/
def offSec : List Part :=
  [.pending, .now, .free, .live, .regs, .bus, .eng, .waits, .meas, .sar, .pwm, .gdl, .trp, .saf, .clk, .nt, .eth, .cmd, .ops, .log, .stg,
    .acq, .dma, .dram, .host, .twn, .arb, .mgt]

theorem offSec_mem :
    .now ∈ offSec ∧ .free ∈ offSec ∧ .live ∈ offSec ∧ .regs ∈ offSec ∧ .bus ∈ offSec ∧ .eng ∈ offSec ∧ .waits ∈ offSec ∧ .meas ∈ offSec ∧
    .sar ∈ offSec ∧ .pwm ∈ offSec ∧ .gdl ∈ offSec ∧ .trp ∈ offSec ∧ .saf ∈ offSec ∧ .clk ∈ offSec ∧ .nt ∈ offSec ∧ .eth ∈ offSec ∧
    .cmd ∈ offSec ∧ .ops ∈ offSec ∧ .log ∈ offSec ∧ .stg ∈ offSec ∧ .acq ∈ offSec ∧ .dma ∈ offSec ∧ .dram ∈ offSec ∧ .host ∈ offSec ∧
    .twn ∈ offSec ∧ .arb ∈ offSec ∧ .mgt ∈ offSec := by
  and_intros <;> decide

theorem Only.sec_eq {s t : State} (h : Only offSec s t) : t.sec = s.sec := h .sec (by decide)

@[simp] theorem completions_keep_sec (s : State) :
    (∀ c op st d at_, (s.complete c op st d at_).sec = s.sec) ∧ (∀ c op d, (s.done c op d).sec = s.sec) ∧
    (∀ c op st d, (s.refuse c op st d).sec = s.sec) ∧ (∀ c b, (s.took c b).sec = s.sec) ∧
    (∀ c st at_, (s.remember c st at_).sec = s.sec) ∧ (∀ c op st d at_, (s.writeEntry c op st d at_).sec = s.sec) ∧
    s.notify.sec = s.sec ∧ (∀ r, (s.logPut r).sec = s.sec) ∧ (∀ a b d l, (s.note a b d l).sec = s.sec) ∧
    (∀ e u r q, (s.trace e u r q).sec = s.sec) ∧ (∀ c op p v, (s.mirror c op p v).sec = s.sec) ∧ s.busyStop.sec = s.sec := by
  and_intros <;> intros <;> refine Only.sec_eq ?_ <;> simp only [only_complete, only_done, only_refuse, only_took, only_remember,
    only_writeEntry, only_notify, only_logPut, only_note, only_trace, only_mirror, only_busyStop, Only.refl, offSec_mem]

@[simp] theorem rings_keep_sec (s : State) :
    (∀ f, (s.flightLeave f).sec = s.sec) ∧ (∀ f st d, (s.flightEnd f st d).sec = s.sec) ∧
    (∀ f k, (s.queueItem f k).sec = s.sec) ∧ (∀ u, (s.unitFree u).sec = s.sec) ∧ (∀ l r q, (s.backPressure l r q).sec = s.sec) ∧
    (∀ k r, (s.takeMsg k r).sec = s.sec) ∧ (∀ m k r st l, (s.mgtSend m k r st l).sec = s.sec) ∧
    (∀ f, (s.grantsDie f).sec = s.sec) ∧ (∀ g, (s.unwrapFree g).sec = s.sec) ∧ s.copyAnchors.sec = s.sec := by
  and_intros <;> intros <;> refine Only.sec_eq ?_ <;> simp only [only_flightLeave, only_flightEnd, only_queueItem, only_unitFree,
    only_backPressure, only_takeMsg, only_mgtSend, only_grantsDie, only_unwrapFree, only_copyAnchors, Only.refl, offSec_mem]

@[simp] theorem transitions_keep_sec (s : State) :
    s.nandTurn.sec = s.sec ∧ (∀ o c, (s.enter o c).sec = s.sec) ∧ (∀ n, (s.halt n).sec = s.sec) ∧ s.enginesStop.sec = s.sec ∧
    (∀ d, (s.dropStarts d).sec = s.sec) ∧ s.stopChannels.sec = s.sec ∧ (∀ o v, (s.stopNow o v).sec = s.sec) ∧
    (∀ ch n, (s.safFault ch n).sec = s.sec) ∧ s.safUpdate.sec = s.sec ∧ s.safTakeSet.sec = s.sec ∧ s.ackOverdue.sec = s.sec ∧
    (∀ n, (s.followState n).sec = s.sec) ∧ s.tripsStanding.sec = s.sec ∧ (∀ c, (s.opsArm c).sec = s.sec) ∧
    (∀ c, (s.opsDisarm c).sec = s.sec) ∧ (∀ c, (s.opsHalt c).sec = s.sec) ∧ (∀ c p o, (s.opsStart c p o).sec = s.sec) ∧
    (∀ c p o, (s.opsStop c p o).sec = s.sec) ∧ (∀ l, (s.opsAt l).sec = s.sec) := by
  and_intros <;> intros <;> refine Only.sec_eq ?_ <;> simp only [only_nandTurn, only_enter, only_halt, only_enginesStop,
    only_dropStarts, only_stopChannels, only_stopNow, only_safFault, only_safUpdate, only_safTakeSet, only_ackOverdue,
    only_followState, only_tripsStanding, only_opsArm, only_opsDisarm, only_opsHalt, only_opsStart, only_opsStop, only_opsAt,
    Only.refl, offSec_mem]

@[simp] theorem staging_keeps_sec (s : State) :
    (∀ f, (s.commitDec f).sec = s.sec) ∧ (∀ t, (s.tbCommit t).sec = s.sec) ∧ (∀ b n, (s.clkCommit b n).sec = s.sec) ∧
    s.commitEngines.sec = s.sec ∧ (∀ f, (s.commitStacks f).sec = s.sec) ∧ s.rhizomeCommit.sec = s.sec ∧
    s.stageReset.sec = s.sec ∧ (∀ b l n m, (s.reportFails b l n m).sec = s.sec) ∧ (∀ w, (s.blockWritten w).sec = s.sec) ∧
    (∀ c p, (s.stgToken c p).sec = s.sec) ∧ (∀ c p, (s.stgWrite c p).sec = s.sec) ∧ (∀ c p, (s.stgCheck c p).sec = s.sec) ∧
    (∀ c p o, (s.stgCommit c p o).sec = s.sec) ∧ (∀ c p b, (s.stgSave c p b).sec = s.sec) ∧
    (∀ c p b, (s.graphLoad c p b).sec = s.sec) := by
  and_intros <;> intros <;> refine Only.sec_eq ?_ <;> simp only [only_commitDec, only_tbCommit, only_clkCommit,
    only_commitEngines, only_commitStacks, only_rhizomeCommit, only_stageReset, only_reportFails, only_blockWritten,
    only_stgToken, only_stgWrite, only_stgCheck, only_stgCommit, only_stgSave, only_graphLoad, Only.refl, offSec_mem]

@[simp] theorem spores_keep_sec (s : State) :
    (∀ d, (s.sporeSee d).sec = s.sec) ∧ (∀ d st n, (s.sporeDone d st n).sec = s.sec) ∧ (∀ d, (s.sporeGraph d).sec = s.sec) ∧
    (∀ d n v o, (s.sporeWork d n v o).sec = s.sec) ∧ (∀ n, (s.setSlotOfs n).sec = s.sec) ∧
    (∀ m n v d, (s.acqTrigMask m n v d).sec = s.sec) ∧ (∀ n v d b, (s.ptmAsk n v d b).sec = s.sec) ∧
    (∀ c p, (s.sporeLoad c p).sec = s.sec) ∧ (∀ c p, (s.sporeCancel c p).sec = s.sec) ∧ (∀ c p, (s.ntSet c p).sec = s.sec) := by
  and_intros <;> intros <;> refine Only.sec_eq ?_ <;> simp only [only_sporeSee, only_sporeDone, only_sporeGraph, only_sporeWork,
    only_setSlotOfs, only_acqTrigMask, only_ptmAsk, only_sporeLoad, only_sporeCancel, only_ntSet, Only.refl, offSec_mem]

@[simp] theorem boundaries_keep_sec (s : State) :
    s.twinMissing.sec = s.sec ∧ s.resyncLine.sec = s.sec ∧ (∀ e, (s.unfinished e).sec = s.sec) ∧
    (∀ e, (s.periodEnd e).sec = s.sec) ∧ (∀ e, (s.snapTake e).sec = s.sec) ∧ (∀ e v, (s.periodBegin e v).sec = s.sec) ∧
    s.itemsLate.sec = s.sec ∧ s.itemsPeriod.sec = s.sec ∧ (∀ e, (s.templateStop e).sec = s.sec) ∧
    (∀ e, (s.takeSeen e).sec = s.sec) ∧ (∀ e, (s.prfHold e).sec = s.sec) ∧ (∀ e, (s.refreshWork e).sec = s.sec) ∧
    (∀ t, (s.tbStop t).sec = s.sec) ∧ (∀ t, (s.tbZero t).sec = s.sec) ∧ (∀ t o, (s.tbStart t o).sec = s.sec) ∧
    (∀ n, (s.tailEdges n).sec = s.sec) ∧ (∀ t b n, (s.stackLoad t b n).sec = s.sec) ∧ (∀ t b, (s.sarAtLoad t b).sec = s.sec) ∧
    (∀ t b e, (s.boundaryB t b e).sec = s.sec) := by
  and_intros <;> intros <;> refine Only.sec_eq ?_ <;> simp only [only_twinMissing, only_resyncLine, only_unfinished,
    only_periodEnd, only_snapTake, only_periodBegin, only_itemsLate, only_itemsPeriod, only_templateStop, only_takeSeen,
    only_prfHold, only_refreshWork, only_tbStop, only_tbZero, only_tbStart, only_tailEdges, only_stackLoad, only_sarAtLoad,
    only_boundaryB, Only.refl, offSec_mem]

@[simp] theorem twins_keep_sec (s : State) :
    (∀ c m n, (s.twinClear c m n).sec = s.sec) ∧ (∀ m n, (s.twinStage m n).sec = s.sec) ∧ (∀ p, (s.twinRecord p).sec = s.sec) ∧
    (∀ c, (s.twnResync c).sec = s.sec) ∧ (∀ e x, (s.loadSnap e x).sec = s.sec) := by
  and_intros <;> intros <;> refine Only.sec_eq ?_ <;> simp only [only_twinClear, only_twinStage, only_twinRecord, only_twnResync,
    only_loadSnap, Only.refl, offSec_mem]

@[simp] theorem commands_keep_sec (s : State) :
    (∀ c n p o, (s.gfmCommand c n p o).sec = s.sec) ∧ (∀ c p o, (s.frdBankSwap c p o).sec = s.sec) ∧
    (∀ c p o, (s.frdSatReadClear c p o).sec = s.sec) ∧ (∀ c p o, (s.prfSetTarget c p o).sec = s.sec) ∧
    (∀ c p, (s.acqArm c p).sec = s.sec) ∧ (∀ c p, (s.acqTrigger c p).sec = s.sec) ∧ (∀ c p, (s.acqStop c p).sec = s.sec) ∧
    (∀ c p, (s.trpTrip c p).sec = s.sec) ∧ (∀ c p, (s.ostRun c p).sec = s.sec) ∧ (∀ c p, (s.linkTrain c p).sec = s.sec) ∧
    (∀ c p, (s.reacquire c p).sec = s.sec) ∧ (∀ c p b, (s.fwLoad c p b).sec = s.sec) := by
  and_intros <;> intros <;> refine Only.sec_eq ?_ <;> simp only [only_gfmCommand, only_frdBankSwap, only_frdSatReadClear,
    only_prfSetTarget, only_acqArm, only_acqTrigger, only_acqStop, only_trpTrip, only_ostRun, only_linkTrain, only_reacquire,
    only_fwLoad, Only.refl, offSec_mem]

@[simp] theorem registers_keep_sec (s : State) :
    (∀ r i n, (s.setFlag r i n).sec = s.sec) ∧ (∀ r i, (s.countWrap r i).sec = s.sec) ∧ (∀ r i v, (s.keepMax r i v).sec = s.sec) ∧
    s.draw.2.sec = s.sec ∧ (∀ n, (s.advanceTo n).sec = s.sec) ∧ s.toTick.sec = s.sec ∧ s.takeBuf.2.sec = s.sec := by
  and_intros <;> intros <;> refine Only.sec_eq ?_ <;> simp only [only_setFlag, only_countWrap, only_keepMax, only_draw, only_advanceTo,
    only_toTick, only_takeBuf, Only.refl, offSec_mem]

/-! ### Folds and conditions -/

theorem svn_ite {c : Prop} [Decidable c] (a b : State) : (if c then a else b).sec.svn = if c then a.sec.svn else b.sec.svn := by
  split <;> rfl

theorem svn_foldl {α : Type} {f : State → α → State} (hf : ∀ u a, (f u a).sec.svn = u.sec.svn) (l : List α) (s : State) :
    (l.foldl f s).sec.svn = s.sec.svn := by
  induction l generalizing s with
  | nil => rfl
  | cons a l ih => exact (ih _).trans (hf s a)

theorem svn_forNums {f : Nat → State → State} (hf : ∀ i u, (f i u).sec.svn = u.sec.svn) (l : List Nat) (s : State) :
    (forNums l f s).sec.svn = s.sec.svn := svn_foldl (fun u i => hf i u) l s

theorem svn_acting {s : State} {f : State → State} (hf : ∀ u, (f u).sec.svn = u.sec.svn) (c : Src) (op : Nat) (p : Bytes) :
    (s.acting c op p f).sec.svn = s.sec.svn := by
  unfold State.acting
  split <;> simp [hf]

theorem svn_obey {s : State} {f : State → State} (hf : ∀ u, (f u).sec.svn = u.sec.svn) (c : Src) (op : Nat) (p : Bytes) :
    (s.obey c op p f).sec.svn = s.sec.svn :=
  svn_acting (fun u => by unfold State.unlessHalted; split <;> simp [hf]) c op p

/-! ### Keys, grants and anchors -/

section
variable (s : State)

@[simp] theorem svn_setLastSeq (r : Nat) (v : DWord) : (s.setLastSeq r v).sec.svn = s.sec.svn := by
  unfold State.setLastSeq
  simp [svn_ite]

@[simp] theorem svn_grantTaken (r : Nat) (q : DWord) (p : Bytes) : (s.grantTaken r q p).sec.svn = s.sec.svn := by
  simp [State.grantTaken]

@[simp] theorem svn_grantQueue (g : PendGrant) : (s.grantQueue g).sec.svn = s.sec.svn := by
  unfold State.grantQueue
  simp [svn_ite]

@[simp] theorem svn_grantGo (c : Src) (plant : Bool) (p : Bytes) : (s.grantGo c plant p).sec.svn = s.sec.svn := svn_grantQueue s _

@[simp] theorem svn_grantAccept (c : Src) (plant : Bool) (p : Bytes) : (s.grantAccept c plant p).sec.svn = s.sec.svn := by
  unfold State.grantAccept
  split <;> simp

@[simp] theorem svn_grantInstall (g : PendGrant) : (s.grantInstall g).sec.svn = s.sec.svn := by
  unfold State.grantInstall
  dsimp only
  repeat' split
  all_goals simp

@[simp] theorem svn_keyRetire (c : Src) (p : Bytes) : (s.keyRetire c p).sec.svn = s.sec.svn := by
  unfold State.keyRetire
  split <;> simp

@[simp] theorem svn_retireGrants (k : Nat) : (s.retireGrants k).sec.svn = s.sec.svn := by
  simp [State.retireGrants, svn_forNums]

@[simp] theorem svn_setAnchor (k : Nat) (a : Anchor) : (s.setAnchor k a).sec.svn = s.sec.svn := rfl

@[simp] theorem svn_anchorInstall (c : Src) (p : Bytes) : (s.anchorInstall c p).sec.svn = s.sec.svn := by
  unfold State.anchorInstall
  dsimp only
  repeat' split
  all_goals simp

@[simp] theorem svn_anchorRevoke (c : Src) (p : Bytes) : (s.anchorRevoke c p).sec.svn = s.sec.svn := by
  unfold State.anchorRevoke
  dsimp only
  repeat' split
  all_goals simp

@[simp] theorem svn_eraseKeys : s.eraseKeys.sec.svn = s.sec.svn := by
  simp [State.eraseKeys, svn_forNums]

@[simp] theorem svn_tamper (n : Nat) : (s.tamper n).sec.svn = s.sec.svn := by
  unfold State.tamper
  simp [svn_ite]

@[simp] theorem svn_seqTaken (r : Fin 129) (q : DWord) (op : Nat) (p : Bytes) : (s.seqTaken r q op p).sec.svn = s.sec.svn := by
  unfold State.seqTaken
  dsimp only
  split <;> simp

@[simp] theorem svn_accept (f : Flight) : (s.accept f).sec.svn = s.sec.svn := by
  unfold State.accept
  dsimp only
  repeat' split
  all_goals simp

@[simp] theorem svn_place (f : Flight) : (s.place f).sec.svn = s.sec.svn := by
  unfold State.place
  repeat' split
  all_goals simp

@[simp] theorem svn_mgtCommand (m : MctpPeer) (req : Byte) (body : Bytes) : (s.mgtCommand m req body).sec.svn = s.sec.svn := by
  unfold State.mgtCommand
  dsimp only
  repeat' split
  all_goals simp

/-! ### Commits and boundaries -/

@[simp] theorem svn_applyStage (nt : DWord) : (s.applyStage nt).sec.svn = s.sec.svn := by
  unfold State.applyStage
  simp [svn_ite, svn_forNums]

@[simp] theorem svn_bootLoad : s.bootLoad.sec.svn = s.sec.svn := by
  unfold State.bootLoad
  dsimp only
  repeat' split
  all_goals simp

@[simp] theorem svn_tryApply (nt : DWord) (own : Bool) (a n : Nat) : (s.tryApply nt own a n).1.sec.svn = s.sec.svn := by
  unfold State.tryApply
  repeat' split
  all_goals simp

@[simp] theorem svn_commitOnly (p : PendCommit) (nt : DWord) : (s.commitOnly p nt).sec.svn = s.sec.svn := by
  simp [State.commitOnly]

@[simp] theorem svn_sporeApply (d : DueSlot) : (s.sporeApply d).1.sec.svn = s.sec.svn := by
  unfold State.sporeApply
  dsimp only
  repeat' split
  all_goals simp

@[simp] theorem svn_sporeCommit (d : DueSlot) : (s.sporeCommit d).sec.svn = s.sec.svn := by
  simp [State.sporeCommit, svn_foldl]

@[simp] theorem svn_runSpore (d : DueSlot) : (s.runSpore d).sec.svn = s.sec.svn := by
  unfold State.runSpore
  dsimp only
  repeat' split
  all_goals simp

@[simp] theorem svn_runBatch (b : List DueSlot) : (s.runBatch b).sec.svn = s.sec.svn := svn_foldl svn_runSpore b s

@[simp] theorem svn_commitNow (p : PendCommit) (nt : DWord) : (s.commitNow p nt).sec.svn = s.sec.svn := by
  unfold State.commitNow State.batchesFirst
  simp [svn_ite, svn_foldl]

@[simp] theorem svn_commitsAt (e : Nat) : (s.commitsAt e).sec.svn = s.sec.svn := svn_foldl (fun _ _ => svn_commitNow _ _ _) _ s

@[simp] theorem svn_boundaryA (es : List Nat) (nt : DWord) : (s.boundaryA es nt).sec.svn = s.sec.svn := by
  unfold State.boundaryA
  simp [svn_ite, svn_forNums]

theorem svn_loadAt {zero : State → State} (hz : ∀ u, (zero u).sec.svn = u.sec.svn) (t : Nat) (half : Bool) (nt : DWord) :
    (s.loadAt t half nt zero).sec.svn = s.sec.svn := by
  unfold State.loadAt
  dsimp only
  split <;> simp [svn_forNums, hz]

/-! ### Power and resets -/

@[simp] theorem svn_mainClear : s.mainClear.sec.svn = s.sec.svn := rfl

@[simp] theorem svn_mainReset (n : Nat) : (s.mainReset n).sec.svn = s.sec.svn := by
  simp [State.mainReset]

@[simp] theorem svn_powerUp (ok : Bool) : (s.powerUp ok).sec.svn = s.sec.svn := by
  unfold State.powerUp
  dsimp only
  split <;> simp [svn_forNums]

@[simp] theorem svn_takeTamper : s.takeTamper.sec.svn = s.sec.svn := by
  simp [State.takeTamper, svn_foldl]

@[simp] theorem svn_boot (m : BootMedia) : (s.boot m).sec.svn = s.sec.svn := by
  unfold State.boot
  dsimp only
  split <;> simp [svn_forNums]

@[simp] theorem svn_powerDown : s.powerDown.sec.svn = s.sec.svn := by
  simp [State.powerDown]

@[simp] theorem svn_vmgtLost : s.vmgtLost.sec.svn = s.sec.svn := by
  unfold State.vmgtLost
  dsimp only
  repeat' split
  all_goals simp

@[simp] theorem svn_vmgtUp (strapped : Bool) : (s.vmgtUp strapped).sec.svn = s.sec.svn := by
  unfold State.vmgtUp
  dsimp only
  split <;> simp

@[simp] theorem svn_mgtReset (c : Src) : (s.mgtReset c).sec.svn = s.sec.svn := by
  unfold State.mgtReset
  dsimp only
  split <;> simp [svn_foldl]

@[simp] theorem svn_opsMainReset (c : Src) : (s.opsMainReset c).sec.svn = s.sec.svn := by
  unfold State.opsMainReset
  split <;> simp

/-! ### Items and RESYNC frames of the twin -/

@[simp] theorem svn_resyncGrant (r : Fin 129) (plant : Bool) (k : BitVec 4) (p : Bytes) :
    (s.resyncGrant r plant k p).sec.svn = s.sec.svn := by
  unfold State.resyncGrant
  simp [svn_ite]

@[simp] theorem svn_resyncItem (i : ResyncItem) : (s.resyncItem i).sec.svn = s.sec.svn := by
  unfold State.resyncItem
  repeat' split
  all_goals simp [svn_ite]

/-- Every item but that of IMG_FW_ACTIVATE leaves SEC_SVN as it is. -/
theorem svn_applyItem (i : Item) (h : i.opcode ≠ 0x0902) : (s.applyItem i).sec.svn = s.sec.svn := by
  unfold State.applyItem
  dsimp only
  split
  any_goals simp [svn_ite]
  next e => exact absurd e h

end

end Sys2Proof.Machine
end

section
/-! The command that raises SEC_SVN, its item on a standby, and every other command (R390). -/

namespace Sys2Proof.Machine

/-! ### Commands that do not name the fused minimum -/

/-- A command whose frame does not name the trust state leaves it as it is: each by its own frame lemma. -/
theorem exec_only_offSec {c : Instr} {s : State} (hc : .sec ∉ touched c) :
    ∀ t, exec c s = .next t → Only offSec s t := by
  cases c
  case loadPoint | timebaseFirstZero | sporeExecute | place | keyGrant | grantUnwrap | keyRetire | anchorInstall | anchorRevoke |
    plantKeyGrant | tamperDetection | commitApply | offSequenceComplete | imgFwActivate | powerOnResetRelease | bootComplete |
    holdUpEnd | vmgtLoss | itemFrameReceive | command | opsMainReset | vmgtPowerUp | resyncFrameReceive |
    configBlockWriteComplete =>
    exact absurd (by simp [touched]) hc
  case' registerWrite => apply only_execRegisterWrite
  case' heldLowerWordWrite => apply only_execHeldLowerWordWrite
  case' captureRead => apply only_execCaptureRead
  case' readClear => apply only_execReadClear
  case' rwsStageWrite => apply only_execRwsStageWrite
  case' engineStart => apply only_execEngineStart
  case' publish => apply only_execPublish
  case' graphComplete => apply only_execGraphComplete
  case' engineDeadlineMiss => apply only_execEngineDeadlineMiss
  case' engineEccError => apply only_execEngineEccError
  case' breakerStateAccepted => apply only_execBreakerStateAccepted
  case' rtExitTimeout => apply only_execRtExitTimeout
  case' clExitTimeout => apply only_execClExitTimeout
  case' recoveryEnd => apply only_execRecoveryEnd
  case' gfmSetTargets => apply only_execGfmSetTargets
  case' gfmSetBreaker => apply only_execGfmSetBreaker
  case' gfmClearFlags => apply only_execGfmClearFlags
  case' frdGraphLoad => apply only_execFrdGraphLoad
  case' frdBankSwap => apply only_execFrdBankSwap
  case' frdSatReadClear => apply only_execFrdSatReadClear
  case' fadeEnd => apply only_execFadeEnd
  case' mboxOutCapture => apply only_execMboxOutCapture
  case' prfSetTarget => apply only_execPrfSetTarget
  case' oscDetect => apply only_execOscDetect
  case' oscTimeout => apply only_execOscTimeout
  case' decimationDump => apply only_execDecimationDump
  case' stuckRunStart => apply only_execStuckRunStart
  case' stuckRunEnd => apply only_execStuckRunEnd
  case' linkSourceResume => apply only_execLinkSourceResume
  case' comparatorActivate => apply only_execComparatorActivate
  case' comparatorDeactivate => apply only_execComparatorDeactivate
  case' fastPathMaskEnd => apply only_execFastPathMaskEnd
  case' sequenceTrigger => apply only_execSequenceTrigger
  case' urgentRequest => apply only_execUrgentRequest
  case' sarConversionDone => apply only_execSarConversionDone
  case' compareEdge => apply only_execCompareEdge
  case' deadTimeExpiry => apply only_execDeadTimeExpiry
  case' syncInPulse => apply only_execSyncInPulse
  case' syncInMiss => apply only_execSyncInMiss
  case' innerTurnOff => apply only_execInnerTurnOff
  case' gaConfirm => apply only_execGaConfirm
  case' ackTimeout => apply only_execAckTimeout
  case' ackMismatch => apply only_execAckMismatch
  case' gcFault => apply only_execGcFault
  case' fltTrip => apply only_execFltTrip
  case' dsrRingCycle => apply only_execDsrRingCycle
  case' gdlOstStart => apply only_execGdlOstStart
  case' gdlOstRun => apply only_execGdlOstRun
  case' gdlTrain => apply only_execGdlTrain
  case' gdlLinkTrain => apply only_execGdlLinkTrain
  case' linkTrainingComplete => apply only_execLinkTrainingComplete
  case' edgeFrameSend => apply only_execEdgeFrameSend
  case' loadSend => apply only_execLoadSend
  case' pullInFrameSend => apply only_execPullInFrameSend
  case' returnFrame => apply only_execReturnFrame
  case' tripInActive => apply only_execTripInActive
  case' trpTrip => apply only_execTrpTrip
  case' trpClear => apply only_execTrpClear
  case' clearEvaluation => apply only_execClearEvaluation
  case' trpRecRead => apply only_execTrpRecRead
  case' tripClockNtSet => apply only_execTripClockNtSet
  case' safetyInputChange => apply only_execSafetyInputChange
  case' discrepancy => apply only_execDiscrepancy
  case' offPulseStart => apply only_execOffPulseStart
  case' offPulseEnd => apply only_execOffPulseEnd
  case' readbackCheck => apply only_execReadbackCheck
  case' crossFault => apply only_execCrossFault
  case' safetyLockstepMismatch => apply only_execSafetyLockstepMismatch
  case' psetMismatchTimeout => apply only_execPsetMismatchTimeout
  case' referenceComparison => apply only_execReferenceComparison
  case' referenceLost => apply only_execReferenceLost
  case' adpllLockTimeout => apply only_execAdpllLockTimeout
  case' tcxoLoss => apply only_execTcxoLoss
  case' clkReacquire => apply only_execClkReacquire
  case' outputRestart => apply only_execOutputRestart
  case' ntIncrWrite => apply only_execNtIncrWrite
  case' ntValidSet => apply only_execNtValidSet
  case' ntValidClr => apply only_execNtValidClr
  case' ntSet => apply only_execNtSet
  case' ntSporeLoad => apply only_execNtSporeLoad
  case' ntSporeCancel => apply only_execNtSporeCancel
  case' sporeDue => apply only_execSporeDue
  case' ntSporeRecRead => apply only_execNtSporeRecRead
  case' ppsOutPulse => apply only_execPpsOutPulse
  case' ethFrameReceive => apply only_execEthFrameReceive
  case' ethFrameTransmit => apply only_execEthFrameTransmit
  case' ethTxtsRead => apply only_execEthTxtsRead
  case' ptmPublish => apply only_execPtmPublish
  case' ptmHoldoffEnd => apply only_execPtmHoldoffEnd
  case' ptmReceive => apply only_execPtmReceive
  case' ptmSenderExpiry => apply only_execPtmSenderExpiry
  case' doorbell => apply only_execDoorbell
  case' cqHeadWrite => apply only_execCqHeadWrite
  case' descriptorFetch => apply only_execDescriptorFetch
  case' payloadReadFail => apply only_execPayloadReadFail
  case' workItemDispatch => apply only_execWorkItemDispatch
  case' parse => apply only_execParse
  case' verify => apply only_execVerify
  case' commandTimeout => apply only_execCommandTimeout
  case' ringEnable => apply only_execRingEnable
  case' ringDisable => apply only_execRingDisable
  case' ringDrained => apply only_execRingDrained
  case' stgToken => apply only_execStgToken
  case' tokenLeaseExpiry => apply only_execTokenLeaseExpiry
  case' stgWrite => apply only_execStgWrite
  case' stgCheck => apply only_execStgCheck
  case' stgCommit => apply only_execStgCommit
  case' stgSave => apply only_execStgSave
  case' opsArm => apply only_execOpsArm
  case' opsStart => apply only_execOpsStart
  case' opsStop => apply only_execOpsStop
  case' opsDisarm => apply only_execOpsDisarm
  case' opsHalt => apply only_execOpsHalt
  case' armLost => apply only_execArmLost
  case' watchdogExpiry => apply only_execWatchdogExpiry
  case' coreLockstepMismatch => apply only_execCoreLockstepMismatch
  case' memEccError => apply only_execMemEccError
  case' regulatorFault => apply only_execRegulatorFault
  case' logRead => apply only_execLogRead
  case' imgFwLoad => apply only_execImgFwLoad
  case' selftestComplete => apply only_execSelftestComplete
  case' vinLoss => apply only_execVinLoss
  case' logFlush => apply only_execLogFlush
  case' nandRefresh => apply only_execNandRefresh
  case' acqArm => apply only_execAcqArm
  case' acqTrigger => apply only_execAcqTrigger
  case' acqStop => apply only_execAcqStop
  case' acqPostComplete => apply only_execAcqPostComplete
  case' acqHeaderWritten => apply only_execAcqHeaderWritten
  case' acqRearm => apply only_execAcqRearm
  case' acqSegFree => apply only_execAcqSegFree
  case' dmaStart => apply only_execDmaStart
  case' dmaAbort => apply only_execDmaAbort
  case' dmaAbortComplete => apply only_execDmaAbortComplete
  case' dmaDescTailWrite => apply only_execDmaDescTailWrite
  case' dmaRunStart => apply only_execDmaRunStart
  case' dmaFlushTimeout => apply only_execDmaFlushTimeout
  case' dmaBurst => apply only_execDmaBurst
  case' dmaHostError => apply only_execDmaHostError
  case' hbPulse => apply only_execHbPulse
  case' roleInPulse => apply only_execRoleInPulse
  case' arbLost => apply only_execArbLost
  case' ownNChange => apply only_execOwnNChange
  case' periodFrameSend => apply only_execPeriodFrameSend
  case' periodFrameReceive => apply only_execPeriodFrameReceive
  case' twinFrameDeadline => apply only_execTwinFrameDeadline
  case' rhizomeTraining => apply only_execRhizomeTraining
  case' twnResync => apply only_execTwnResync
  case' resyncComplete => apply only_execResyncComplete
  case' twnResyncTimeout => apply only_execTwnResyncTimeout
  case' roleSwapRequest => apply only_execRoleSwapRequest
  case' roleSwapCheck => apply only_execRoleSwapCheck
  case' haltHoldExpiry => apply only_execHaltHoldExpiry
  case' arbiterHbTimeout => apply only_execArbiterHbTimeout
  case' arbiterBbmExpiry => apply only_execArbiterBbmExpiry
  case' arbiterSwapReq => apply only_execArbiterSwapReq
  case' mctpPacket => apply only_execMctpPacket
  case' setEndpointId => apply only_execSetEndpointId
  case' getEndpointId => apply only_execGetEndpointId
  case' getMctpVersionSupport => apply only_execGetMctpVersionSupport
  case' getMessageTypeSupport => apply only_execGetMessageTypeSupport
  case' getVendorDefinedMessageSupport => apply only_execGetVendorDefinedMessageSupport
  case' getStatus => apply only_execGetStatus
  case' getLog => apply only_execGetLog
  case' getSlots => apply only_execGetSlots
  case' putBlock => apply only_execPutBlock
  case' getReplay => apply only_execGetReplay
  case' getIdentity => apply only_execGetIdentity
  case' stgRecover => apply only_execStgRecover
  case' modulatorTick => apply only_execModulatorTick
  case' extTrigEdge => apply only_execExtTrigEdge
  case' arbiterHbPulse => apply only_execArbiterHbPulse
  case' rhizomeBlockLockLoss => apply only_execRhizomeBlockLockLoss
  case' ethLinkChange => apply only_execEthLinkChange
  case' supervisionFrameSend => apply only_execSupervisionFrameSend
  case' safetyClockFault => apply only_execSafetyClockFault
  case' fwImageWriteComplete => apply only_execFwImageWriteComplete
  all_goals simp only [Only.refl, offSec_mem]

/-- A command that names the trust state, but is neither IMG_FW_ACTIVATE nor an ITEM frame, changes another part of it. -/
theorem exec_svn_of_touched {c : Instr} {s t : State} (hc : .sec ∈ touched c) (h : exec c s = .next t)
    (ha : ∀ src p, c ≠ .imgFwActivate src p) (hi : ∀ f, c ≠ .itemFrameReceive f) : t.sec.svn = s.sec.svn := by
  cases c
  case imgFwActivate src p => exact absurd rfl (ha src p)
  case itemFrameReceive f => exact absurd rfl (hi f)
  case keyGrant c p => cases h; exact svn_obey (fun u => svn_grantAccept u c false p) c _ p
  case plantKeyGrant c p => cases h; exact svn_obey (fun u => svn_grantAccept u c true p) c _ p
  case keyRetire c p => cases h; exact svn_obey (fun u => svn_keyRetire u c p) c _ p
  case anchorInstall c p => cases h; exact svn_obey (fun u => svn_anchorInstall u c p) c _ p
  case anchorRevoke c p => cases h; exact svn_obey (fun u => svn_anchorRevoke u c p) c _ p
  case opsMainReset c => cases h; exact svn_acting (fun u => by simp [svn_ite]) c _ []
  case grantUnwrap ring => simp only [exec, execGrantUnwrap] at h; split at h <;> cases h <;> simp
  case tamperDetection n => simp only [exec, execTamperDetection] at h; split at h <;> cases h <;> simp
  case place core => simp only [exec, execPlace] at h; split at h <;> cases h <;> simp
  case command req body =>
    simp only [exec, execCommand] at h
    repeat' split at h
    all_goals (cases h; simp)
  case loadPoint k half =>
    simp only [exec, execLoadPoint] at h
    split at h <;> cases h
    · exact (svn_loadAt _ (fun u => by split <;> simp [svn_forNums]) _ _ _).trans (by simp)
    · rfl
  case timebaseFirstZero k =>
    simp only [exec, execTimebaseFirstZero] at h
    repeat' split at h
    all_goals cases h
    · exact (svn_loadAt _ (fun u => by simp) _ _ _).trans (by simp)
    · rfl
    · rfl
  case sporeExecute => simp only [exec, execSporeExecute] at h; split at h <;> cases h <;> simp
  case commitApply => simp only [exec, execCommitApply] at h; split at h <;> cases h <;> simp
  case offSequenceComplete =>
    simp only [exec, execOffSequenceComplete] at h
    repeat' split at h
    all_goals (cases h; simp)
  case powerOnResetRelease ok => simp only [exec, execPowerOnResetRelease] at h; split at h <;> cases h <;> simp [svn_ite]
  case bootComplete m => simp only [exec, execBootComplete] at h; split at h <;> cases h <;> simp
  case holdUpEnd => simp only [exec, execHoldUpEnd] at h; split at h <;> cases h <;> simp
  case vmgtLoss => simp only [exec, execVmgtLoss] at h; split at h <;> cases h <;> simp
  case vmgtPowerUp hb => simp only [exec, execVmgtPowerUp] at h; split at h <;> cases h <;> simp
  case resyncFrameReceive f =>
    simp only [exec, execResyncFrameReceive] at h
    repeat' split at h
    all_goals (cases h; simp)
  case configBlockWriteComplete =>
    simp only [exec, execConfigBlockWriteComplete] at h
    repeat' split at h
    all_goals (cases h; simp)
  all_goals exact absurd hc (by simp [touched])

/-- No command but IMG_FW_ACTIVATE and an ITEM frame changes SEC_SVN. -/
theorem exec_svn {c : Instr} {s t : State} (h : exec c s = .next t)
    (ha : ∀ src p, c ≠ .imgFwActivate src p) (hi : ∀ f, c ≠ .itemFrameReceive f) : t.sec.svn = s.sec.svn := by
  by_cases hc : .sec ∈ touched c
  · exact exec_svn_of_touched hc h ha hi
  · rw [(exec_only_offSec hc t h).sec_eq]

/-! ### IMG_FW_ACTIVATE -/

/-- A payload of IMG_FW_ACTIVATE raises the fused minimum: RAISE_SVN is set, the named slot is the running one, and its image exceeds
SEC_SVN (R390). -/
def State.raisesSvn (s : State) (p : Bytes) : Prop :=
  (pb p 1).testBit 0 = true ∧ pb p 0 = s.ops.runSlot ∧ s.sec.svn < (s.fwSlot s.ops.runSlot).svn

theorem fwSlot_congr {s u : State} (ho : u.ops = s.ops) (k : Nat) : u.fwSlot k = s.fwSlot k := by
  simp only [State.fwSlot, ho]

theorem raisesSvn_congr {s u : State} (ho : u.ops = s.ops) (hv : u.sec.svn = s.sec.svn) (p : Bytes) :
    u.raisesSvn p ↔ s.raisesSvn p := by
  simp only [State.raisesSvn, fwSlot_congr ho, ho, hv]

theorem fwActivate_refuses {s : State} {p : Bytes} (c : Src) (hk : pb p 0 < 2) (hup : (pb p 1).testBit 0 = true)
    (hr : ¬ s.raisesSvn p) : s.fwActivate c p = s.refuse c 0x0902 .checkFail 3 := by
  have hno : pb p 0 ≠ s.ops.runSlot ∨ (s.fwSlot s.ops.runSlot).svn ≤ s.sec.svn := by
    by_contra hn
    exact hr ⟨hup, by omega, by omega⟩
  unfold State.fwActivate
  simp [show ¬ 1 < pb p 0 by omega, hup, hno]

theorem fwActivate_raises {s : State} {p : Bytes} (c : Src) (hk : pb p 0 < 2) (hr : s.raisesSvn p) :
    s.fwActivate c p = ((s.modSec fun x => { x with svn := (s.fwSlot s.ops.runSlot).svn }).modOps fun o =>
      { o with actSlot := pb p 0 }).done c 0x0902 := by
  obtain ⟨hup, hrun, hlt⟩ := hr
  unfold State.fwActivate
  simp [show ¬ 1 < s.ops.runSlot by omega, hup, hrun, hlt]

/-- IMG_FW_ACTIVATE changes the fused minimum only where it raises it, to the SVN of the running image. -/
theorem fwActivate_svn_ne {s : State} {c : Src} {p : Bytes} (h : (s.fwActivate c p).sec.svn ≠ s.sec.svn) :
    s.raisesSvn p ∧ (s.fwActivate c p).sec.svn = (s.fwSlot s.ops.runSlot).svn := by
  by_cases hk : pb p 0 < 2
  · by_cases hr : s.raisesSvn p
    · exact ⟨hr, by rw [fwActivate_raises c hk hr]; simp⟩
    · refine absurd ?_ h
      cases hup : (pb p 1).testBit 0
      · unfold State.fwActivate
        simp [show ¬ 1 < pb p 0 by omega, hup]
      · rw [fwActivate_refuses c hk hup hr]; simp
  · refine absurd ?_ h
    unfold State.fwActivate
    simp [show 1 < pb p 0 by omega]

/-! ### The item with which a standby follows the command -/

theorem applyItem_fwActivate (s : State) {i : Item} (h : i.opcode = 0x0902) : s.applyItem i = s.fwActivate i.src i.payload := by
  simp only [State.applyItem, h]

theorem applyItem_svn_ne {s : State} {i : Item} (h : (s.applyItem i).sec.svn ≠ s.sec.svn) :
    i.opcode = 0x0902 ∧ s.raisesSvn i.payload ∧ (s.applyItem i).sec.svn = (s.fwSlot s.ops.runSlot).svn := by
  by_cases ho : i.opcode = 0x0902
  · rw [applyItem_fwActivate s ho] at h ⊢
    exact ⟨ho, fwActivate_svn_ne h⟩
  · exact absurd (svn_applyItem s i ho) h

theorem ops_setLastSeq (s : State) (r : Nat) (v : DWord) : (s.setLastSeq r v).ops = s.ops :=
  only_setLastSeq (ps := [.regs, .sec]) s r v (Only.refl _ s) (by decide) (by decide) .ops (by decide)

/-- An item received in order is numbered and counts for replay, and then takes effect where the module takes it. -/
theorem itemIn_eq (s : State) (i : Item) : ∃ u : State, u.ops = s.ops ∧ u.sec.svn = s.sec.svn ∧
    (s.itemIn i).sec = (if u.takesItem i.opcode then u.applyItem i else u).sec := by
  refine ⟨_, ?_, ?_, rfl⟩
  · split <;> simp [ops_setLastSeq]
  · split <;> simp

theorem itemIn_svn_ne {s : State} {i : Item} (h : (s.itemIn i).sec.svn ≠ s.sec.svn) :
    i.opcode = 0x0902 ∧ s.raisesSvn i.payload ∧ (s.itemIn i).sec.svn = (s.fwSlot s.ops.runSlot).svn := by
  obtain ⟨u, hops, hsvn, hu⟩ := itemIn_eq s i
  rw [hu] at h ⊢
  split at h
  next htakes =>
    rw [← hsvn] at h
    obtain ⟨hop, hr, hrun⟩ := applyItem_svn_ne h
    rw [if_pos htakes, hrun, fwSlot_congr hops, hops]
    exact ⟨hop, (raisesSvn_congr hops hsvn _).mp hr, rfl⟩
  next => exact absurd hsvn h

/-- Only a standby takes ITEM frames. -/
theorem execItemFrameReceive_svn_ne {f : Bytes} {s t : State} (h : execItemFrameReceive f s = .next t)
    (hne : t.sec.svn ≠ s.sec.svn) : t = s.itemIn (itemOf f) ∧ s.pair = true ∧ s.twn.role = false := by
  unfold execItemFrameReceive at h
  split at h
  · cases h; exact absurd rfl hne
  next hpair =>
    split at h
    · cases h; exact absurd (by simp) hne
    · split at h
      · cases h; exact absurd rfl hne
      next hrole =>
        dsimp only at h
        split at h <;> cases h
        · simp only [Bool.or_eq_true, Bool.not_eq_true', not_or, Bool.not_eq_false] at hpair
          obtain ⟨hp, -⟩ := hpair
          exact ⟨rfl, hp, Bool.eq_false_iff.mpr hrole⟩
        · exact absurd rfl hne

/-! ### Being given the command -/

theorem only_took_cmd (s : State) (c : Src) : Only [.cmd, .mgt] s (s.took c) :=
  only_took s c true (Only.refl _ s) (by decide) (by decide)

theorem took_rings (s : State) (c : Src) : (s.took c).cmd.rings = s.cmd.rings := by
  unfold State.took
  split <;> rfl

theorem took_sent (s : State) (c : Src) : (s.took c).mgt.sent = s.mgt.sent := by
  unfold State.took
  split <;> rfl

theorem took_mgtCmd {c : Src} (s : State) (h : c.ring.val = 128) :
    ((s.took c).mgt.cmd.filter fun m => sameSrc m.cmd.src c) =
      (s.mgt.cmd.filter fun m => sameSrc m.cmd.src c).map fun x => { x with cmd := { x.cmd with acted := true } } := by
  simp only [State.took, if_pos h, State.modMgt_fields]
  cases s.mgt.cmd with
  | none => rfl
  | some m =>
    simp only [Option.map_some, Option.filter_some]
    split <;> rfl

theorem took_ownCommand (s : State) (c : Src) : (s.took c).ownCommand c = s.ownCommand c := by
  unfold State.took State.ownCommand
  split
  · simp only [State.modMgt_fields]
    cases s.mgt.cmd <;> rfl
  · simp [Function.comp_def, apply_ite Handed.src, *]

/-- What answers a command once it has been noted as acted on answers the command. -/
theorem answered_of_took {s t : State} {c : Src} {op d : Nat} {st : Status} {at_ : DWord} (h : Answered c op st d at_ (s.took c) t) :
    Answered c op st d at_ s t := by
  have hregs : (s.took c).regs = s.regs := only_took_cmd s c .regs (by decide)
  have hhost : (s.took c).host = s.host := only_took_cmd s c .host (by decide)
  have hpair : (s.took c).pair = s.pair := by
    unfold State.pair State.lv
    rw [only_took_cmd s c .live (by decide)]
  have hring : ∀ r, (s.took c).ring r = s.ring r := fun r => by simp only [State.ring, took_rings]
  have hslot : ∀ r, (s.took c).cqSlot r = s.cqSlot r := fun r => by simp only [State.cqSlot, State.reg, hregs, hring]
  have hdepth : ∀ r, (s.took c).depth r = s.depth r := fun r => by simp only [State.depth, State.reg, hregs]
  unfold Answered HostTakes HostSame at *
  rw [hpair, took_ownCommand, took_sent, hring, hslot, hdepth, hhost] at h
  by_cases h128 : c.ring.val = 128
  · rw [took_mgtCmd s h128] at h
    cases hm : s.mgt.cmd.filter fun m => sameSrc m.cmd.src c <;> rwa [hm] at h
  · rwa [if_neg h128] at h ⊢

theorem storesCanonical_took {s : State} (h : s.storesCanonical) (c : Src) : (s.took c).storesCanonical := by
  unfold State.took
  split <;> exact h

/-- IMG_FW_ACTIVATE that is given acts on the state in which it is noted as acted on. -/
theorem exec_imgFwActivate {s : State} {c : Src} {p : Bytes} (h : s.given c 0x0902 p = true) :
    exec (.imgFwActivate c p) s = .next ((s.took c).fwActivate c p) := by
  simp only [exec, execImgFwActivate, State.acting, if_pos h]

theorem took_ops (s : State) (c : Src) : (s.took c).ops = s.ops := only_took_cmd s c .ops (by decide)

theorem raisesSvn_took (s : State) (c : Src) (p : Bytes) : (s.took c).raisesSvn p ↔ s.raisesSvn p :=
  raisesSvn_congr (took_ops s c) (by simp) p

theorem execImgFwActivate_svn_ne {c : Src} {p : Bytes} {s t : State} (h : execImgFwActivate c p s = .next t)
    (hne : t.sec.svn ≠ s.sec.svn) : s.raisesSvn p ∧ t.sec.svn = (s.fwSlot s.ops.runSlot).svn := by
  cases h
  unfold State.acting at hne ⊢
  split at hne
  next hgiven =>
    rw [if_pos hgiven]
    obtain ⟨hr, hrun⟩ := fwActivate_svn_ne (s := s.took c) (by simpa using hne)
    exact ⟨(raisesSvn_took s c p).mp hr, by rw [hrun, fwSlot_congr (took_ops s c), took_ops]⟩
  next => exact absurd rfl hne

/-- IMG_FW_ACTIVATE with RAISE_SVN is refused where it cannot raise the minimum. -/
theorem completes_imgFwActivate_refused {c : Src} {p : Bytes} {s : State} (hs : s.storesCanonical)
    (hgiven : s.given c 0x0902 p = true) (hk : pb p 0 < 2) (hup : (pb p 1).testBit 0 = true) (hr : ¬ s.raisesSvn p) :
    Completes (.imgFwActivate c p) s fun t => t.sec = s.sec ∧ t.ops = s.ops ∧ Answered c 0x0902 .checkFail 3 0 s t := by
  refine ⟨_, exec_imgFwActivate hgiven, ?_⟩
  rw [fwActivate_refuses c hk hup (mt (raisesSvn_took s c p).mp hr)]
  refine ⟨by simp, ?_, answered_of_took (State.complete_answers c _ _ _ _ (storesCanonical_took hs c) (SameDesk.refl _))⟩
  have hrefuse := only_refuse (ps := [.regs, .cmd, .host, .twn, .mgt]) (s.took c) c 0x0902 .checkFail 3 (Only.refl _ _) (by decide)
    (by decide) (by decide) (by decide) (by decide)
  exact (hrefuse .ops (by decide)).trans (took_ops s c)

theorem completes_imgFwActivate_raised {c : Src} {p : Bytes} {s : State} (hs : s.storesCanonical)
    (hgiven : s.given c 0x0902 p = true) (hk : pb p 0 < 2) (hr : s.raisesSvn p) :
    Completes (.imgFwActivate c p) s fun t =>
      t.sec.svn = (s.fwSlot s.ops.runSlot).svn ∧ Answered c 0x0902 .ok 0 s.nt64 s t := by
  refine ⟨_, exec_imgFwActivate hgiven, ?_⟩
  rw [fwActivate_raises c hk ((raisesSvn_took s c p).mpr hr), fwSlot_congr (took_ops s c), took_ops]
  refine ⟨by simp, answered_of_took ?_⟩
  have hnt : (s.took c).nt64 = s.nt64 := by rw [State.nt64, only_took_cmd s c .nt (by decide), State.nt64]
  rw [← hnt]
  exact State.complete_answers c _ _ _ _ (storesCanonical_took hs c)
    ⟨rfl, rfl, ⟨rfl, rfl⟩, rfl, rfl, fun _ => rfl, fun _ => rfl⟩

/-- Settles O24: SEC_SVN changes by IMG_FW_ACTIVATE or its item alone, because every other command leaves it as it is. -/
theorem theFusedMinimumRisesByItsCommandAlone : Obligations.TheFusedMinimumRisesByItsCommandAlone := by
  refine ⟨?rises, ?refused, ?raised⟩
  case rises =>
    intro c s t h hne
    by_cases ha : ∃ src p, c = .imgFwActivate src p
    · obtain ⟨src, p, rfl⟩ := ha
      obtain ⟨⟨hup, hrun, hlt⟩, hsvn⟩ := execImgFwActivate_svn_ne h hne
      exact ⟨hsvn, by omega, p, hup, hrun, .inl ⟨src, rfl⟩⟩
    by_cases hi : ∃ f, c = .itemFrameReceive f
    · obtain ⟨f, rfl⟩ := hi
      obtain ⟨rfl, hpair, hrole⟩ := execItemFrameReceive_svn_ne h hne
      obtain ⟨hop, ⟨hup, hrun, hlt⟩, hsvn⟩ := itemIn_svn_ne hne
      exact ⟨hsvn, by omega, _, hup, hrun, .inr ⟨f, rfl, hop, rfl, hpair, hrole⟩⟩
    · exact absurd (exec_svn h (fun src p e => ha ⟨src, p, e⟩) fun f e => hi ⟨f, e⟩) hne
  case refused =>
    rintro c p s hs hgiven hk hup hno
    refine completes_imgFwActivate_refused hs hgiven hk hup ?_
    rintro ⟨-, hrun, hlt⟩
    omega
  case raised =>
    intro c p s hs hgiven hrun hk hup hlt
    exact completes_imgFwActivate_raised hs hgiven hk ⟨hup, hrun, hlt⟩

end Sys2Proof.Machine
end

section
/-! What every command keeps, changes and answers: each command by the lemma of its meaning. -/

-- The proofs are elaborated one after the other: this bounds the threads of the compiler, whose stacks count as its memory.
set_option Elab.async false

namespace Sys2Proof.Machine

/-- Every command keeps the queue, the course of time, the fuses and the soundness of the device. -/
theorem exec_keeps {c : Instr} {s : State} : ∀ t, exec c s = .next t → Keeps s t := by
  cases c
  case' registerWrite => apply keeps_execRegisterWrite
  case' heldLowerWordWrite => apply keeps_execHeldLowerWordWrite
  case' captureRead => apply keeps_execCaptureRead
  case' readClear => apply keeps_execReadClear
  case' rwsStageWrite => apply keeps_execRwsStageWrite
  case' loadPoint => apply keeps_execLoadPoint
  case' engineStart => apply keeps_execEngineStart
  case' publish => apply keeps_execPublish
  case' graphComplete => apply keeps_execGraphComplete
  case' engineDeadlineMiss => apply keeps_execEngineDeadlineMiss
  case' engineEccError => apply keeps_execEngineEccError
  case' breakerStateAccepted => apply keeps_execBreakerStateAccepted
  case' rtExitTimeout => apply keeps_execRtExitTimeout
  case' clExitTimeout => apply keeps_execClExitTimeout
  case' recoveryEnd => apply keeps_execRecoveryEnd
  case' gfmSetTargets => apply keeps_execGfmSetTargets
  case' gfmSetBreaker => apply keeps_execGfmSetBreaker
  case' gfmClearFlags => apply keeps_execGfmClearFlags
  case' frdGraphLoad => apply keeps_execFrdGraphLoad
  case' frdBankSwap => apply keeps_execFrdBankSwap
  case' frdSatReadClear => apply keeps_execFrdSatReadClear
  case' fadeEnd => apply keeps_execFadeEnd
  case' mboxOutCapture => apply keeps_execMboxOutCapture
  case' prfSetTarget => apply keeps_execPrfSetTarget
  case' oscDetect => apply keeps_execOscDetect
  case' oscTimeout => apply keeps_execOscTimeout
  case' decimationDump => apply keeps_execDecimationDump
  case' stuckRunStart => apply keeps_execStuckRunStart
  case' stuckRunEnd => apply keeps_execStuckRunEnd
  case' linkSourceResume => apply keeps_execLinkSourceResume
  case' comparatorActivate => apply keeps_execComparatorActivate
  case' comparatorDeactivate => apply keeps_execComparatorDeactivate
  case' fastPathMaskEnd => apply keeps_execFastPathMaskEnd
  case' sequenceTrigger => apply keeps_execSequenceTrigger
  case' urgentRequest => apply keeps_execUrgentRequest
  case' sarConversionDone => apply keeps_execSarConversionDone
  case' timebaseFirstZero => apply keeps_execTimebaseFirstZero
  case' compareEdge => apply keeps_execCompareEdge
  case' deadTimeExpiry => apply keeps_execDeadTimeExpiry
  case' syncInPulse => apply keeps_execSyncInPulse
  case' syncInMiss => apply keeps_execSyncInMiss
  case' innerTurnOff => apply keeps_execInnerTurnOff
  case' gaConfirm => apply keeps_execGaConfirm
  case' ackTimeout => apply keeps_execAckTimeout
  case' ackMismatch => apply keeps_execAckMismatch
  case' gcFault => apply keeps_execGcFault
  case' fltTrip => apply keeps_execFltTrip
  case' dsrRingCycle => apply keeps_execDsrRingCycle
  case' gdlOstStart => apply keeps_execGdlOstStart
  case' gdlOstRun => apply keeps_execGdlOstRun
  case' gdlTrain => apply keeps_execGdlTrain
  case' gdlLinkTrain => apply keeps_execGdlLinkTrain
  case' linkTrainingComplete => apply keeps_execLinkTrainingComplete
  case' edgeFrameSend => apply keeps_execEdgeFrameSend
  case' loadSend => apply keeps_execLoadSend
  case' pullInFrameSend => apply keeps_execPullInFrameSend
  case' returnFrame => apply keeps_execReturnFrame
  case' tripInActive => apply keeps_execTripInActive
  case' trpTrip => apply keeps_execTrpTrip
  case' trpClear => apply keeps_execTrpClear
  case' clearEvaluation => apply keeps_execClearEvaluation
  case' trpRecRead => apply keeps_execTrpRecRead
  case' tripClockNtSet => apply keeps_execTripClockNtSet
  case' safetyInputChange => apply keeps_execSafetyInputChange
  case' discrepancy => apply keeps_execDiscrepancy
  case' offPulseStart => apply keeps_execOffPulseStart
  case' offPulseEnd => apply keeps_execOffPulseEnd
  case' readbackCheck => apply keeps_execReadbackCheck
  case' crossFault => apply keeps_execCrossFault
  case' safetyLockstepMismatch => apply keeps_execSafetyLockstepMismatch
  case' psetMismatchTimeout => apply keeps_execPsetMismatchTimeout
  case' referenceComparison => apply keeps_execReferenceComparison
  case' referenceLost => apply keeps_execReferenceLost
  case' adpllLockTimeout => apply keeps_execAdpllLockTimeout
  case' tcxoLoss => apply keeps_execTcxoLoss
  case' clkReacquire => apply keeps_execClkReacquire
  case' outputRestart => apply keeps_execOutputRestart
  case' ntIncrWrite => apply keeps_execNtIncrWrite
  case' ntValidSet => apply keeps_execNtValidSet
  case' ntValidClr => apply keeps_execNtValidClr
  case' ntSet => apply keeps_execNtSet
  case' ntSporeLoad => apply keeps_execNtSporeLoad
  case' ntSporeCancel => apply keeps_execNtSporeCancel
  case' sporeDue => apply keeps_execSporeDue
  case' sporeExecute => apply keeps_execSporeExecute
  case' ntSporeRecRead => apply keeps_execNtSporeRecRead
  case' ppsOutPulse => apply keeps_execPpsOutPulse
  case' ethFrameReceive => apply keeps_execEthFrameReceive
  case' ethFrameTransmit => apply keeps_execEthFrameTransmit
  case' ethTxtsRead => apply keeps_execEthTxtsRead
  case' ptmPublish => apply keeps_execPtmPublish
  case' ptmHoldoffEnd => apply keeps_execPtmHoldoffEnd
  case' ptmReceive => apply keeps_execPtmReceive
  case' ptmSenderExpiry => apply keeps_execPtmSenderExpiry
  case' doorbell => apply keeps_execDoorbell
  case' cqHeadWrite => apply keeps_execCqHeadWrite
  case' descriptorFetch => apply keeps_execDescriptorFetch
  case' payloadReadFail => apply keeps_execPayloadReadFail
  case' workItemDispatch => apply keeps_execWorkItemDispatch
  case' parse => apply keeps_execParse
  case' verify => apply keeps_execVerify
  case' place => apply keeps_execPlace
  case' commandTimeout => apply keeps_execCommandTimeout
  case' ringEnable => apply keeps_execRingEnable
  case' ringDisable => apply keeps_execRingDisable
  case' ringDrained => apply keeps_execRingDrained
  case' keyGrant => apply keeps_execKeyGrant
  case' grantUnwrap => apply keeps_execGrantUnwrap
  case' keyRetire => apply keeps_execKeyRetire
  case' anchorInstall => apply keeps_execAnchorInstall
  case' anchorRevoke => apply keeps_execAnchorRevoke
  case' plantKeyGrant => apply keeps_execPlantKeyGrant
  case' tamperDetection => apply keeps_execTamperDetection
  case' stgToken => apply keeps_execStgToken
  case' tokenLeaseExpiry => apply keeps_execTokenLeaseExpiry
  case' stgWrite => apply keeps_execStgWrite
  case' stgCheck => apply keeps_execStgCheck
  case' stgCommit => apply keeps_execStgCommit
  case' stgSave => apply keeps_execStgSave
  case' commitApply => apply keeps_execCommitApply
  case' opsArm => apply keeps_execOpsArm
  case' opsStart => apply keeps_execOpsStart
  case' opsStop => apply keeps_execOpsStop
  case' opsDisarm => apply keeps_execOpsDisarm
  case' opsHalt => apply keeps_execOpsHalt
  case' armLost => apply keeps_execArmLost
  case' offSequenceComplete => apply keeps_execOffSequenceComplete
  case' watchdogExpiry => apply keeps_execWatchdogExpiry
  case' coreLockstepMismatch => apply keeps_execCoreLockstepMismatch
  case' memEccError => apply keeps_execMemEccError
  case' regulatorFault => apply keeps_execRegulatorFault
  case' logRead => apply keeps_execLogRead
  case' imgFwLoad => apply keeps_execImgFwLoad
  case' imgFwActivate => apply keeps_execImgFwActivate
  case' powerOnResetRelease => apply keeps_execPowerOnResetRelease
  case' bootComplete => apply keeps_execBootComplete
  case' selftestComplete => apply keeps_execSelftestComplete
  case' vinLoss => apply keeps_execVinLoss
  case' holdUpEnd => apply keeps_execHoldUpEnd
  case' vmgtLoss => apply keeps_execVmgtLoss
  case' logFlush => apply keeps_execLogFlush
  case' nandRefresh => apply keeps_execNandRefresh
  case' acqArm => apply keeps_execAcqArm
  case' acqTrigger => apply keeps_execAcqTrigger
  case' acqStop => apply keeps_execAcqStop
  case' acqPostComplete => apply keeps_execAcqPostComplete
  case' acqHeaderWritten => apply keeps_execAcqHeaderWritten
  case' acqRearm => apply keeps_execAcqRearm
  case' acqSegFree => apply keeps_execAcqSegFree
  case' dmaStart => apply keeps_execDmaStart
  case' dmaAbort => apply keeps_execDmaAbort
  case' dmaAbortComplete => apply keeps_execDmaAbortComplete
  case' dmaDescTailWrite => apply keeps_execDmaDescTailWrite
  case' dmaRunStart => apply keeps_execDmaRunStart
  case' dmaFlushTimeout => apply keeps_execDmaFlushTimeout
  case' dmaBurst => apply keeps_execDmaBurst
  case' dmaHostError => apply keeps_execDmaHostError
  case' hbPulse => apply keeps_execHbPulse
  case' roleInPulse => apply keeps_execRoleInPulse
  case' arbLost => apply keeps_execArbLost
  case' ownNChange => apply keeps_execOwnNChange
  case' periodFrameSend => apply keeps_execPeriodFrameSend
  case' periodFrameReceive => apply keeps_execPeriodFrameReceive
  case' twinFrameDeadline => apply keeps_execTwinFrameDeadline
  case' itemFrameReceive => apply keeps_execItemFrameReceive
  case' rhizomeTraining => apply keeps_execRhizomeTraining
  case' twnResync => apply keeps_execTwnResync
  case' resyncComplete => apply keeps_execResyncComplete
  case' twnResyncTimeout => apply keeps_execTwnResyncTimeout
  case' roleSwapRequest => apply keeps_execRoleSwapRequest
  case' roleSwapCheck => apply keeps_execRoleSwapCheck
  case' haltHoldExpiry => apply keeps_execHaltHoldExpiry
  case' arbiterHbTimeout => apply keeps_execArbiterHbTimeout
  case' arbiterBbmExpiry => apply keeps_execArbiterBbmExpiry
  case' arbiterSwapReq => apply keeps_execArbiterSwapReq
  case' mctpPacket => apply keeps_execMctpPacket
  case' setEndpointId => apply keeps_execSetEndpointId
  case' getEndpointId => apply keeps_execGetEndpointId
  case' getMctpVersionSupport => apply keeps_execGetMctpVersionSupport
  case' getMessageTypeSupport => apply keeps_execGetMessageTypeSupport
  case' getVendorDefinedMessageSupport => apply keeps_execGetVendorDefinedMessageSupport
  case' getStatus => apply keeps_execGetStatus
  case' getLog => apply keeps_execGetLog
  case' getSlots => apply keeps_execGetSlots
  case' putBlock => apply keeps_execPutBlock
  case' getReplay => apply keeps_execGetReplay
  case' getIdentity => apply keeps_execGetIdentity
  case' command => apply keeps_execCommand
  case' opsMainReset => apply keeps_execOpsMainReset
  case' stgRecover => apply keeps_execStgRecover
  case' modulatorTick => apply keeps_execModulatorTick
  case' extTrigEdge => apply keeps_execExtTrigEdge
  case' vmgtPowerUp => apply keeps_execVmgtPowerUp
  case' arbiterHbPulse => apply keeps_execArbiterHbPulse
  case' resyncFrameReceive => apply keeps_execResyncFrameReceive
  case' rhizomeBlockLockLoss => apply keeps_execRhizomeBlockLockLoss
  case' ethLinkChange => apply keeps_execEthLinkChange
  case' supervisionFrameSend => apply keeps_execSupervisionFrameSend
  case' safetyClockFault => apply keeps_execSafetyClockFault
  case' fwImageWriteComplete => apply keeps_execFwImageWriteComplete
  case' configBlockWriteComplete => apply keeps_execConfigBlockWriteComplete
  all_goals exact Keeps.refl s

/-- Every command leaves alone the parts that `touched` does not name. -/
theorem exec_only_touched {c : Instr} {s : State} : ∀ t, exec c s = .next t → Only (touched c) s t := by
  cases c
  case' registerWrite => apply only_execRegisterWrite (h := Only.refl _ s)
  case' heldLowerWordWrite => apply only_execHeldLowerWordWrite (h := Only.refl _ s)
  case' captureRead => apply only_execCaptureRead (h := Only.refl _ s)
  case' readClear => apply only_execReadClear (h := Only.refl _ s)
  case' rwsStageWrite => apply only_execRwsStageWrite (h := Only.refl _ s)
  case' loadPoint => apply only_execLoadPoint (h := Only.refl _ s)
  case' engineStart => apply only_execEngineStart (h := Only.refl _ s)
  case' publish => apply only_execPublish (h := Only.refl _ s)
  case' graphComplete => apply only_execGraphComplete (h := Only.refl _ s)
  case' engineDeadlineMiss => apply only_execEngineDeadlineMiss (h := Only.refl _ s)
  case' engineEccError => apply only_execEngineEccError (h := Only.refl _ s)
  case' breakerStateAccepted => apply only_execBreakerStateAccepted (h := Only.refl _ s)
  case' rtExitTimeout => apply only_execRtExitTimeout (h := Only.refl _ s)
  case' clExitTimeout => apply only_execClExitTimeout (h := Only.refl _ s)
  case' recoveryEnd => apply only_execRecoveryEnd (h := Only.refl _ s)
  case' gfmSetTargets => apply only_execGfmSetTargets (h := Only.refl _ s)
  case' gfmSetBreaker => apply only_execGfmSetBreaker (h := Only.refl _ s)
  case' gfmClearFlags => apply only_execGfmClearFlags (h := Only.refl _ s)
  case' frdGraphLoad => apply only_execFrdGraphLoad (h := Only.refl _ s)
  case' frdBankSwap => apply only_execFrdBankSwap (h := Only.refl _ s)
  case' frdSatReadClear => apply only_execFrdSatReadClear (h := Only.refl _ s)
  case' fadeEnd => apply only_execFadeEnd (h := Only.refl _ s)
  case' mboxOutCapture => apply only_execMboxOutCapture (h := Only.refl _ s)
  case' prfSetTarget => apply only_execPrfSetTarget (h := Only.refl _ s)
  case' oscDetect => apply only_execOscDetect (h := Only.refl _ s)
  case' oscTimeout => apply only_execOscTimeout (h := Only.refl _ s)
  case' decimationDump => apply only_execDecimationDump (h := Only.refl _ s)
  case' stuckRunStart => apply only_execStuckRunStart (h := Only.refl _ s)
  case' stuckRunEnd => apply only_execStuckRunEnd (h := Only.refl _ s)
  case' linkSourceResume => apply only_execLinkSourceResume (h := Only.refl _ s)
  case' comparatorActivate => apply only_execComparatorActivate (h := Only.refl _ s)
  case' comparatorDeactivate => apply only_execComparatorDeactivate (h := Only.refl _ s)
  case' fastPathMaskEnd => apply only_execFastPathMaskEnd (h := Only.refl _ s)
  case' sequenceTrigger => apply only_execSequenceTrigger (h := Only.refl _ s)
  case' urgentRequest => apply only_execUrgentRequest (h := Only.refl _ s)
  case' sarConversionDone => apply only_execSarConversionDone (h := Only.refl _ s)
  case' timebaseFirstZero => apply only_execTimebaseFirstZero (h := Only.refl _ s)
  case' compareEdge => apply only_execCompareEdge (h := Only.refl _ s)
  case' deadTimeExpiry => apply only_execDeadTimeExpiry (h := Only.refl _ s)
  case' syncInPulse => apply only_execSyncInPulse (h := Only.refl _ s)
  case' syncInMiss => apply only_execSyncInMiss (h := Only.refl _ s)
  case' innerTurnOff => apply only_execInnerTurnOff (h := Only.refl _ s)
  case' gaConfirm => apply only_execGaConfirm (h := Only.refl _ s)
  case' ackTimeout => apply only_execAckTimeout (h := Only.refl _ s)
  case' ackMismatch => apply only_execAckMismatch (h := Only.refl _ s)
  case' gcFault => apply only_execGcFault (h := Only.refl _ s)
  case' fltTrip => apply only_execFltTrip (h := Only.refl _ s)
  case' dsrRingCycle => apply only_execDsrRingCycle (h := Only.refl _ s)
  case' gdlOstStart => apply only_execGdlOstStart (h := Only.refl _ s)
  case' gdlOstRun => apply only_execGdlOstRun (h := Only.refl _ s)
  case' gdlTrain => apply only_execGdlTrain (h := Only.refl _ s)
  case' gdlLinkTrain => apply only_execGdlLinkTrain (h := Only.refl _ s)
  case' linkTrainingComplete => apply only_execLinkTrainingComplete (h := Only.refl _ s)
  case' edgeFrameSend => apply only_execEdgeFrameSend (h := Only.refl _ s)
  case' loadSend => apply only_execLoadSend (h := Only.refl _ s)
  case' pullInFrameSend => apply only_execPullInFrameSend (h := Only.refl _ s)
  case' returnFrame => apply only_execReturnFrame (h := Only.refl _ s)
  case' tripInActive => apply only_execTripInActive (h := Only.refl _ s)
  case' trpTrip => apply only_execTrpTrip (h := Only.refl _ s)
  case' trpClear => apply only_execTrpClear (h := Only.refl _ s)
  case' clearEvaluation => apply only_execClearEvaluation (h := Only.refl _ s)
  case' trpRecRead => apply only_execTrpRecRead (h := Only.refl _ s)
  case' tripClockNtSet => apply only_execTripClockNtSet (h := Only.refl _ s)
  case' safetyInputChange => apply only_execSafetyInputChange (h := Only.refl _ s)
  case' discrepancy => apply only_execDiscrepancy (h := Only.refl _ s)
  case' offPulseStart => apply only_execOffPulseStart (h := Only.refl _ s)
  case' offPulseEnd => apply only_execOffPulseEnd (h := Only.refl _ s)
  case' readbackCheck => apply only_execReadbackCheck (h := Only.refl _ s)
  case' crossFault => apply only_execCrossFault (h := Only.refl _ s)
  case' safetyLockstepMismatch => apply only_execSafetyLockstepMismatch (h := Only.refl _ s)
  case' psetMismatchTimeout => apply only_execPsetMismatchTimeout (h := Only.refl _ s)
  case' referenceComparison => apply only_execReferenceComparison (h := Only.refl _ s)
  case' referenceLost => apply only_execReferenceLost (h := Only.refl _ s)
  case' adpllLockTimeout => apply only_execAdpllLockTimeout (h := Only.refl _ s)
  case' tcxoLoss => apply only_execTcxoLoss (h := Only.refl _ s)
  case' clkReacquire => apply only_execClkReacquire (h := Only.refl _ s)
  case' outputRestart => apply only_execOutputRestart (h := Only.refl _ s)
  case' ntIncrWrite => apply only_execNtIncrWrite (h := Only.refl _ s)
  case' ntValidSet => apply only_execNtValidSet (h := Only.refl _ s)
  case' ntValidClr => apply only_execNtValidClr (h := Only.refl _ s)
  case' ntSet => apply only_execNtSet (h := Only.refl _ s)
  case' ntSporeLoad => apply only_execNtSporeLoad (h := Only.refl _ s)
  case' ntSporeCancel => apply only_execNtSporeCancel (h := Only.refl _ s)
  case' sporeDue => apply only_execSporeDue (h := Only.refl _ s)
  case' sporeExecute => apply only_execSporeExecute (h := Only.refl _ s)
  case' ntSporeRecRead => apply only_execNtSporeRecRead (h := Only.refl _ s)
  case' ppsOutPulse => apply only_execPpsOutPulse (h := Only.refl _ s)
  case' ethFrameReceive => apply only_execEthFrameReceive (h := Only.refl _ s)
  case' ethFrameTransmit => apply only_execEthFrameTransmit (h := Only.refl _ s)
  case' ethTxtsRead => apply only_execEthTxtsRead (h := Only.refl _ s)
  case' ptmPublish => apply only_execPtmPublish (h := Only.refl _ s)
  case' ptmHoldoffEnd => apply only_execPtmHoldoffEnd (h := Only.refl _ s)
  case' ptmReceive => apply only_execPtmReceive (h := Only.refl _ s)
  case' ptmSenderExpiry => apply only_execPtmSenderExpiry (h := Only.refl _ s)
  case' doorbell => apply only_execDoorbell (h := Only.refl _ s)
  case' cqHeadWrite => apply only_execCqHeadWrite (h := Only.refl _ s)
  case' descriptorFetch => apply only_execDescriptorFetch (h := Only.refl _ s)
  case' payloadReadFail => apply only_execPayloadReadFail (h := Only.refl _ s)
  case' workItemDispatch => apply only_execWorkItemDispatch (h := Only.refl _ s)
  case' parse => apply only_execParse (h := Only.refl _ s)
  case' verify => apply only_execVerify (h := Only.refl _ s)
  case' place => apply only_execPlace (h := Only.refl _ s)
  case' commandTimeout => apply only_execCommandTimeout (h := Only.refl _ s)
  case' ringEnable => apply only_execRingEnable (h := Only.refl _ s)
  case' ringDisable => apply only_execRingDisable (h := Only.refl _ s)
  case' ringDrained => apply only_execRingDrained (h := Only.refl _ s)
  case' keyGrant => apply only_execKeyGrant (h := Only.refl _ s)
  case' grantUnwrap => apply only_execGrantUnwrap (h := Only.refl _ s)
  case' keyRetire => apply only_execKeyRetire (h := Only.refl _ s)
  case' anchorInstall => apply only_execAnchorInstall (h := Only.refl _ s)
  case' anchorRevoke => apply only_execAnchorRevoke (h := Only.refl _ s)
  case' plantKeyGrant => apply only_execPlantKeyGrant (h := Only.refl _ s)
  case' tamperDetection => apply only_execTamperDetection (h := Only.refl _ s)
  case' stgToken => apply only_execStgToken (h := Only.refl _ s)
  case' tokenLeaseExpiry => apply only_execTokenLeaseExpiry (h := Only.refl _ s)
  case' stgWrite => apply only_execStgWrite (h := Only.refl _ s)
  case' stgCheck => apply only_execStgCheck (h := Only.refl _ s)
  case' stgCommit => apply only_execStgCommit (h := Only.refl _ s)
  case' stgSave => apply only_execStgSave (h := Only.refl _ s)
  case' commitApply => apply only_execCommitApply (h := Only.refl _ s)
  case' opsArm => apply only_execOpsArm (h := Only.refl _ s)
  case' opsStart => apply only_execOpsStart (h := Only.refl _ s)
  case' opsStop => apply only_execOpsStop (h := Only.refl _ s)
  case' opsDisarm => apply only_execOpsDisarm (h := Only.refl _ s)
  case' opsHalt => apply only_execOpsHalt (h := Only.refl _ s)
  case' armLost => apply only_execArmLost (h := Only.refl _ s)
  case' offSequenceComplete => apply only_execOffSequenceComplete (h := Only.refl _ s)
  case' watchdogExpiry => apply only_execWatchdogExpiry (h := Only.refl _ s)
  case' coreLockstepMismatch => apply only_execCoreLockstepMismatch (h := Only.refl _ s)
  case' memEccError => apply only_execMemEccError (h := Only.refl _ s)
  case' regulatorFault => apply only_execRegulatorFault (h := Only.refl _ s)
  case' logRead => apply only_execLogRead (h := Only.refl _ s)
  case' imgFwLoad => apply only_execImgFwLoad (h := Only.refl _ s)
  case' imgFwActivate => apply only_execImgFwActivate (h := Only.refl _ s)
  case' powerOnResetRelease => apply only_execPowerOnResetRelease (h := Only.refl _ s)
  case' bootComplete => apply only_execBootComplete (h := Only.refl _ s)
  case' selftestComplete => apply only_execSelftestComplete (h := Only.refl _ s)
  case' vinLoss => apply only_execVinLoss (h := Only.refl _ s)
  case' holdUpEnd => apply only_execHoldUpEnd (h := Only.refl _ s)
  case' vmgtLoss => apply only_execVmgtLoss (h := Only.refl _ s)
  case' logFlush => apply only_execLogFlush (h := Only.refl _ s)
  case' nandRefresh => apply only_execNandRefresh (h := Only.refl _ s)
  case' acqArm => apply only_execAcqArm (h := Only.refl _ s)
  case' acqTrigger => apply only_execAcqTrigger (h := Only.refl _ s)
  case' acqStop => apply only_execAcqStop (h := Only.refl _ s)
  case' acqPostComplete => apply only_execAcqPostComplete (h := Only.refl _ s)
  case' acqHeaderWritten => apply only_execAcqHeaderWritten (h := Only.refl _ s)
  case' acqRearm => apply only_execAcqRearm (h := Only.refl _ s)
  case' acqSegFree => apply only_execAcqSegFree (h := Only.refl _ s)
  case' dmaStart => apply only_execDmaStart (h := Only.refl _ s)
  case' dmaAbort => apply only_execDmaAbort (h := Only.refl _ s)
  case' dmaAbortComplete => apply only_execDmaAbortComplete (h := Only.refl _ s)
  case' dmaDescTailWrite => apply only_execDmaDescTailWrite (h := Only.refl _ s)
  case' dmaRunStart => apply only_execDmaRunStart (h := Only.refl _ s)
  case' dmaFlushTimeout => apply only_execDmaFlushTimeout (h := Only.refl _ s)
  case' dmaBurst => apply only_execDmaBurst (h := Only.refl _ s)
  case' dmaHostError => apply only_execDmaHostError (h := Only.refl _ s)
  case' hbPulse => apply only_execHbPulse (h := Only.refl _ s)
  case' roleInPulse => apply only_execRoleInPulse (h := Only.refl _ s)
  case' arbLost => apply only_execArbLost (h := Only.refl _ s)
  case' ownNChange => apply only_execOwnNChange (h := Only.refl _ s)
  case' periodFrameSend => apply only_execPeriodFrameSend (h := Only.refl _ s)
  case' periodFrameReceive => apply only_execPeriodFrameReceive (h := Only.refl _ s)
  case' twinFrameDeadline => apply only_execTwinFrameDeadline (h := Only.refl _ s)
  case' itemFrameReceive => apply only_execItemFrameReceive (h := Only.refl _ s)
  case' rhizomeTraining => apply only_execRhizomeTraining (h := Only.refl _ s)
  case' twnResync => apply only_execTwnResync (h := Only.refl _ s)
  case' resyncComplete => apply only_execResyncComplete (h := Only.refl _ s)
  case' twnResyncTimeout => apply only_execTwnResyncTimeout (h := Only.refl _ s)
  case' roleSwapRequest => apply only_execRoleSwapRequest (h := Only.refl _ s)
  case' roleSwapCheck => apply only_execRoleSwapCheck (h := Only.refl _ s)
  case' haltHoldExpiry => apply only_execHaltHoldExpiry (h := Only.refl _ s)
  case' arbiterHbTimeout => apply only_execArbiterHbTimeout (h := Only.refl _ s)
  case' arbiterBbmExpiry => apply only_execArbiterBbmExpiry (h := Only.refl _ s)
  case' arbiterSwapReq => apply only_execArbiterSwapReq (h := Only.refl _ s)
  case' mctpPacket => apply only_execMctpPacket (h := Only.refl _ s)
  case' setEndpointId => apply only_execSetEndpointId (h := Only.refl _ s)
  case' getEndpointId => apply only_execGetEndpointId (h := Only.refl _ s)
  case' getMctpVersionSupport => apply only_execGetMctpVersionSupport (h := Only.refl _ s)
  case' getMessageTypeSupport => apply only_execGetMessageTypeSupport (h := Only.refl _ s)
  case' getVendorDefinedMessageSupport => apply only_execGetVendorDefinedMessageSupport (h := Only.refl _ s)
  case' getStatus => apply only_execGetStatus (h := Only.refl _ s)
  case' getLog => apply only_execGetLog (h := Only.refl _ s)
  case' getSlots => apply only_execGetSlots (h := Only.refl _ s)
  case' putBlock => apply only_execPutBlock (h := Only.refl _ s)
  case' getReplay => apply only_execGetReplay (h := Only.refl _ s)
  case' getIdentity => apply only_execGetIdentity (h := Only.refl _ s)
  case' command => apply only_execCommand (h := Only.refl _ s)
  case' opsMainReset => apply only_execOpsMainReset (h := Only.refl _ s)
  case' stgRecover => apply only_execStgRecover (h := Only.refl _ s)
  case' modulatorTick => apply only_execModulatorTick (h := Only.refl _ s)
  case' extTrigEdge => apply only_execExtTrigEdge (h := Only.refl _ s)
  case' vmgtPowerUp => apply only_execVmgtPowerUp (h := Only.refl _ s)
  case' arbiterHbPulse => apply only_execArbiterHbPulse (h := Only.refl _ s)
  case' resyncFrameReceive => apply only_execResyncFrameReceive (h := Only.refl _ s)
  case' rhizomeBlockLockLoss => apply only_execRhizomeBlockLockLoss (h := Only.refl _ s)
  case' ethLinkChange => apply only_execEthLinkChange (h := Only.refl _ s)
  case' supervisionFrameSend => apply only_execSupervisionFrameSend (h := Only.refl _ s)
  case' safetyClockFault => apply only_execSafetyClockFault (h := Only.refl _ s)
  case' fwImageWriteComplete => apply only_execFwImageWriteComplete (h := Only.refl _ s)
  case' configBlockWriteComplete => apply only_execConfigBlockWriteComplete (h := Only.refl _ s)
  all_goals exact of_decide_eq_true rfl

/-- Every command answers a next state: no branch of a meaning is a fault or a refusal. -/
theorem exec_answers (c : Instr) (s : State) : ∃ t, exec c s = .next t := by
  cases c
  case' registerWrite => unfold exec execRegisterWrite
  case' heldLowerWordWrite => unfold exec execHeldLowerWordWrite
  case' captureRead => unfold exec execCaptureRead
  case' readClear => unfold exec execReadClear
  case' rwsStageWrite => unfold exec execRwsStageWrite
  case' loadPoint => unfold exec execLoadPoint
  case' engineStart => unfold exec execEngineStart
  case' publish => unfold exec execPublish
  case' graphComplete => unfold exec execGraphComplete
  case' engineDeadlineMiss => unfold exec execEngineDeadlineMiss
  case' engineEccError => unfold exec execEngineEccError
  case' breakerStateAccepted => unfold exec execBreakerStateAccepted
  case' rtExitTimeout => unfold exec execRtExitTimeout
  case' clExitTimeout => unfold exec execClExitTimeout
  case' recoveryEnd => unfold exec execRecoveryEnd
  case' gfmSetTargets => unfold exec execGfmSetTargets
  case' gfmSetBreaker => unfold exec execGfmSetBreaker
  case' gfmClearFlags => unfold exec execGfmClearFlags
  case' frdGraphLoad => unfold exec execFrdGraphLoad
  case' frdBankSwap => unfold exec execFrdBankSwap
  case' frdSatReadClear => unfold exec execFrdSatReadClear
  case' fadeEnd => unfold exec execFadeEnd
  case' mboxOutCapture => unfold exec execMboxOutCapture
  case' prfSetTarget => unfold exec execPrfSetTarget
  case' oscDetect => unfold exec execOscDetect
  case' oscTimeout => unfold exec execOscTimeout
  case' decimationDump => unfold exec execDecimationDump
  case' stuckRunStart => unfold exec execStuckRunStart
  case' stuckRunEnd => unfold exec execStuckRunEnd
  case' linkSourceResume => unfold exec execLinkSourceResume
  case' comparatorActivate => unfold exec execComparatorActivate
  case' comparatorDeactivate => unfold exec execComparatorDeactivate
  case' fastPathMaskEnd => unfold exec execFastPathMaskEnd
  case' sequenceTrigger => unfold exec execSequenceTrigger
  case' urgentRequest => unfold exec execUrgentRequest
  case' sarConversionDone => unfold exec execSarConversionDone
  case' timebaseFirstZero => unfold exec execTimebaseFirstZero
  case' compareEdge => unfold exec execCompareEdge
  case' deadTimeExpiry => unfold exec execDeadTimeExpiry
  case' syncInPulse => unfold exec execSyncInPulse
  case' syncInMiss => unfold exec execSyncInMiss
  case' innerTurnOff => unfold exec execInnerTurnOff
  case' gaConfirm => unfold exec execGaConfirm
  case' ackTimeout => unfold exec execAckTimeout
  case' ackMismatch => unfold exec execAckMismatch
  case' gcFault => unfold exec execGcFault
  case' fltTrip => unfold exec execFltTrip
  case' dsrRingCycle => unfold exec execDsrRingCycle
  case' gdlOstStart => unfold exec execGdlOstStart
  case' gdlOstRun => unfold exec execGdlOstRun
  case' gdlTrain => unfold exec execGdlTrain
  case' gdlLinkTrain => unfold exec execGdlLinkTrain
  case' linkTrainingComplete => unfold exec execLinkTrainingComplete
  case' edgeFrameSend => unfold exec execEdgeFrameSend
  case' loadSend => unfold exec execLoadSend
  case' pullInFrameSend => unfold exec execPullInFrameSend
  case' returnFrame => unfold exec execReturnFrame
  case' tripInActive => unfold exec execTripInActive
  case' trpTrip => unfold exec execTrpTrip
  case' trpClear => unfold exec execTrpClear
  case' clearEvaluation => unfold exec execClearEvaluation
  case' trpRecRead => unfold exec execTrpRecRead
  case' tripClockNtSet => unfold exec execTripClockNtSet
  case' safetyInputChange => unfold exec execSafetyInputChange
  case' discrepancy => unfold exec execDiscrepancy
  case' offPulseStart => unfold exec execOffPulseStart
  case' offPulseEnd => unfold exec execOffPulseEnd
  case' readbackCheck => unfold exec execReadbackCheck
  case' crossFault => unfold exec execCrossFault
  case' safetyLockstepMismatch => unfold exec execSafetyLockstepMismatch
  case' psetMismatchTimeout => unfold exec execPsetMismatchTimeout
  case' referenceComparison => unfold exec execReferenceComparison
  case' referenceLost => unfold exec execReferenceLost
  case' adpllLockTimeout => unfold exec execAdpllLockTimeout
  case' tcxoLoss => unfold exec execTcxoLoss
  case' clkReacquire => unfold exec execClkReacquire
  case' outputRestart => unfold exec execOutputRestart
  case' ntIncrWrite => unfold exec execNtIncrWrite
  case' ntValidSet => unfold exec execNtValidSet
  case' ntValidClr => unfold exec execNtValidClr
  case' ntSet => unfold exec execNtSet
  case' ntSporeLoad => unfold exec execNtSporeLoad
  case' ntSporeCancel => unfold exec execNtSporeCancel
  case' sporeDue => unfold exec execSporeDue
  case' sporeExecute => unfold exec execSporeExecute
  case' ntSporeRecRead => unfold exec execNtSporeRecRead
  case' ppsOutPulse => unfold exec execPpsOutPulse
  case' ethFrameReceive => unfold exec execEthFrameReceive
  case' ethFrameTransmit => unfold exec execEthFrameTransmit
  case' ethTxtsRead => unfold exec execEthTxtsRead
  case' ptmPublish => unfold exec execPtmPublish
  case' ptmHoldoffEnd => unfold exec execPtmHoldoffEnd
  case' ptmReceive => unfold exec execPtmReceive
  case' ptmSenderExpiry => unfold exec execPtmSenderExpiry
  case' doorbell => unfold exec execDoorbell
  case' cqHeadWrite => unfold exec execCqHeadWrite
  case' descriptorFetch => unfold exec execDescriptorFetch
  case' payloadReadFail => unfold exec execPayloadReadFail
  case' workItemDispatch => unfold exec execWorkItemDispatch
  case' parse => unfold exec execParse
  case' verify => unfold exec execVerify
  case' place => unfold exec execPlace
  case' commandTimeout => unfold exec execCommandTimeout
  case' ringEnable => unfold exec execRingEnable
  case' ringDisable => unfold exec execRingDisable
  case' ringDrained => unfold exec execRingDrained
  case' keyGrant => unfold exec execKeyGrant
  case' grantUnwrap => unfold exec execGrantUnwrap
  case' keyRetire => unfold exec execKeyRetire
  case' anchorInstall => unfold exec execAnchorInstall
  case' anchorRevoke => unfold exec execAnchorRevoke
  case' plantKeyGrant => unfold exec execPlantKeyGrant
  case' tamperDetection => unfold exec execTamperDetection
  case' stgToken => unfold exec execStgToken
  case' tokenLeaseExpiry => unfold exec execTokenLeaseExpiry
  case' stgWrite => unfold exec execStgWrite
  case' stgCheck => unfold exec execStgCheck
  case' stgCommit => unfold exec execStgCommit
  case' stgSave => unfold exec execStgSave
  case' commitApply => unfold exec execCommitApply
  case' opsArm => unfold exec execOpsArm
  case' opsStart => unfold exec execOpsStart
  case' opsStop => unfold exec execOpsStop
  case' opsDisarm => unfold exec execOpsDisarm
  case' opsHalt => unfold exec execOpsHalt
  case' armLost => unfold exec execArmLost
  case' offSequenceComplete => unfold exec execOffSequenceComplete
  case' watchdogExpiry => unfold exec execWatchdogExpiry
  case' coreLockstepMismatch => unfold exec execCoreLockstepMismatch
  case' memEccError => unfold exec execMemEccError
  case' regulatorFault => unfold exec execRegulatorFault
  case' logRead => unfold exec execLogRead
  case' imgFwLoad => unfold exec execImgFwLoad
  case' imgFwActivate => unfold exec execImgFwActivate
  case' powerOnResetRelease => unfold exec execPowerOnResetRelease
  case' bootComplete => unfold exec execBootComplete
  case' selftestComplete => unfold exec execSelftestComplete
  case' vinLoss => unfold exec execVinLoss
  case' holdUpEnd => unfold exec execHoldUpEnd
  case' vmgtLoss => unfold exec execVmgtLoss
  case' logFlush => unfold exec execLogFlush
  case' nandRefresh => unfold exec execNandRefresh
  case' acqArm => unfold exec execAcqArm
  case' acqTrigger => unfold exec execAcqTrigger
  case' acqStop => unfold exec execAcqStop
  case' acqPostComplete => unfold exec execAcqPostComplete
  case' acqHeaderWritten => unfold exec execAcqHeaderWritten
  case' acqRearm => unfold exec execAcqRearm
  case' acqSegFree => unfold exec execAcqSegFree
  case' dmaStart => unfold exec execDmaStart
  case' dmaAbort => unfold exec execDmaAbort
  case' dmaAbortComplete => unfold exec execDmaAbortComplete
  case' dmaDescTailWrite => unfold exec execDmaDescTailWrite
  case' dmaRunStart => unfold exec execDmaRunStart
  case' dmaFlushTimeout => unfold exec execDmaFlushTimeout
  case' dmaBurst => unfold exec execDmaBurst
  case' dmaHostError => unfold exec execDmaHostError
  case' hbPulse => unfold exec execHbPulse
  case' roleInPulse => unfold exec execRoleInPulse
  case' arbLost => unfold exec execArbLost
  case' ownNChange => unfold exec execOwnNChange
  case' periodFrameSend => unfold exec execPeriodFrameSend
  case' periodFrameReceive => unfold exec execPeriodFrameReceive
  case' twinFrameDeadline => unfold exec execTwinFrameDeadline
  case' itemFrameReceive => unfold exec execItemFrameReceive
  case' rhizomeTraining => unfold exec execRhizomeTraining
  case' twnResync => unfold exec execTwnResync
  case' resyncComplete => unfold exec execResyncComplete
  case' twnResyncTimeout => unfold exec execTwnResyncTimeout
  case' roleSwapRequest => unfold exec execRoleSwapRequest
  case' roleSwapCheck => unfold exec execRoleSwapCheck
  case' haltHoldExpiry => unfold exec execHaltHoldExpiry
  case' arbiterHbTimeout => unfold exec execArbiterHbTimeout
  case' arbiterBbmExpiry => unfold exec execArbiterBbmExpiry
  case' arbiterSwapReq => unfold exec execArbiterSwapReq
  case' mctpPacket => unfold exec execMctpPacket
  case' setEndpointId => unfold exec execSetEndpointId
  case' getEndpointId => unfold exec execGetEndpointId
  case' getMctpVersionSupport => unfold exec execGetMctpVersionSupport
  case' getMessageTypeSupport => unfold exec execGetMessageTypeSupport
  case' getVendorDefinedMessageSupport => unfold exec execGetVendorDefinedMessageSupport
  case' getStatus => unfold exec execGetStatus
  case' getLog => unfold exec execGetLog
  case' getSlots => unfold exec execGetSlots
  case' putBlock => unfold exec execPutBlock
  case' getReplay => unfold exec execGetReplay
  case' getIdentity => unfold exec execGetIdentity
  case' command => unfold exec execCommand
  case' opsMainReset => unfold exec execOpsMainReset
  case' stgRecover => unfold exec execStgRecover
  case' modulatorTick => unfold exec execModulatorTick
  case' extTrigEdge => unfold exec execExtTrigEdge
  case' vmgtPowerUp => unfold exec execVmgtPowerUp
  case' arbiterHbPulse => unfold exec execArbiterHbPulse
  case' resyncFrameReceive => unfold exec execResyncFrameReceive
  case' rhizomeBlockLockLoss => unfold exec execRhizomeBlockLockLoss
  case' ethLinkChange => unfold exec execEthLinkChange
  case' supervisionFrameSend => unfold exec execSupervisionFrameSend
  case' safetyClockFault => unfold exec execSafetyClockFault
  case' fwImageWriteComplete => unfold exec execFwImageWriteComplete
  case' configBlockWriteComplete => unfold exec execConfigBlockWriteComplete
  all_goals
    dsimp only
    repeat' split
    all_goals exact ⟨_, rfl⟩

/-! ### The queue and the tick -/

/-- Settles O1: the queue's front decides the branch of `step`. -/
theorem stepRunsTheFrontCommand : Obligations.StepRunsTheFrontCommand := by
  intro c rest s h
  simp only [step, h]

theorem now_advanceTo (s : State) (n : Nat) : (s.advanceTo n).now = max s.now n := by
  unfold State.advanceTo
  split
  · exact (max_eq_left ‹_›).symm
  · exact (max_eq_right (le_of_not_ge ‹_›)).symm

theorem now_idleActions (s : State) : s.idleActions.now = s.now := by
  have h := only_idleActions (ps := [.free, .live, .regs, .eng, .waits, .meas, .pwm, .gdl, .trp, .saf, .clk, .nt, .cmd, .ops, .log,
    .sec, .stg, .acq, .host, .twn, .mgt]) s (Only.refl _ s)
  simp only [List.mem_cons, true_or, or_true, forall_const] at h
  exact h .now (by decide)

theorem now_ctlTick (s : State) : s.ctlTick.now = (s.now / 32 + 1) * 32 := by
  have h : (s.advanceTo ((s.now / 32 + 1) * 32)).now = (s.now / 32 + 1) * 32 := by
    rw [now_advanceTo]
    omega
  unfold State.ctlTick
  dsimp only
  split
  · rw [now_idleActions, h]
  · exact h

/-- Settles O2: the tick advances the elapsed time, and no action of it takes time. -/
theorem idleStepIsOneTick : Obligations.IdleStepIsOneTick := by
  intro s h
  exact ⟨s.ctlTick, by simp only [step, h], (keeps_ctlTick s (Keeps.refl s)).queue.trans h, now_ctlTick s⟩

/-- Settles O3: every command answers, and what it answers keeps the queue and the course of time. -/
theorem everyCommandCompletes : Obligations.EveryCommandCompletes := by
  intro c s
  obtain ⟨t, ht⟩ := exec_answers c s
  obtain ⟨hqueue, htime, -, -⟩ := exec_keeps t ht
  exact ⟨t, ht, hqueue, htime⟩

/-! ### Soundness and the root of trust -/

/-- The queue of waiting commands has no part in soundness. -/
theorem sound_pending {s : State} (h : s.Sound) (q : List Instr) : State.Sound { s with pending := q } :=
  ⟨h.gates, h.queues, h.stores, h.fuses⟩

/-- Settles O4: the command at the front of the queue keeps soundness, and so does a tick. -/
theorem stepKeepsTheDeviceSound : Obligations.StepKeepsTheDeviceSound := by
  intro s t hs ht
  unfold step at ht
  split at ht
  · cases ht
    exact (keeps_ctlTick s (Keeps.refl s)).sound hs
  · exact (exec_keeps t ht).sound (sound_pending hs _)

/-- Settles O6: no command takes back what is burnt into fuses. -/
theorem commandsKeepTheRootOfTrust : Obligations.CommandsKeepTheRootOfTrust :=
  fun _ _ t ht => (exec_keeps t ht).rooted

/-- Settles O7: the frame of each command, by its own lemma. -/
theorem commandsChangeOnlyTheirParts : Obligations.CommandsChangeOnlyTheirParts :=
  fun _ _ t ht => exec_only_touched t ht

/-! ### What reset leaves -/

theorem vget_replicate {α : Type} {n : Nat} (i : Nat) (x : α) : vget (Vector.replicate n x) i x = x := by
  simp only [vget, Vector.getElem?_replicate]
  split <;> rfl

/-- No slot leaves manufacture with a fuse burnt. -/
theorem otpGen_factoryAnchor (k : Nat) : (factoryAnchor k).otpGen = 0 := by
  unfold factoryAnchor
  split <;> rfl

theorem otpGen_anchor_reset (k : Nat) : (State.reset.anchor k).otpGen = 0 := by
  show (vget (Vector.ofFn fun k : Fin 16 => factoryAnchor k.val) k {}).otpGen = 0
  simp only [vget, Vector.getElem?_ofFn]
  split
  · exact otpGen_factoryAnchor k
  · rfl

theorem chan_reset (n : Nat) : State.reset.chan n = {} := vget_replicate n _

/-- Settles O5: at reset every gate is off, every queue and store empty, and no fuse burnt. -/
theorem resetIsSound : Obligations.ResetIsSound where
  gates n := by simp [chan_reset]
  queues := ⟨Nat.zero_le _, Nat.zero_le _, Nat.zero_le _, Nat.zero_le _⟩
  stores := ⟨rfl, rfl, .nil, .nil, .nil⟩
  fuses k := by simp [otpGen_anchor_reset]

theorem regGet_nil (r : Reg) (i j : Nat) : regGet [] r i j = BitVec.ofNat 64 (regReset r i) := rfl

/-- Settles O8: every field holds the default that its structure states. -/
theorem resetLeavesTheStatedValues : Obligations.ResetLeavesTheStatedValues := by
  refine ⟨rfl, fun r i j => regGet_nil r i j, fun r i j hi lo => ?_, fun e _ => ?_, rfl, rfl, fun r _ => ?_, fun n _ => ?_,
    fun k _ => ?_, rfl⟩
  · exact congrArg (bitsOf · hi lo) (regGet_nil r i j)
  · rw [show State.reset.engN e = {} from vget_replicate e _]
    exact ⟨rfl, rfl, rfl⟩
  · rw [show State.reset.ring r = {} from vget_replicate r _]
  · rw [chan_reset]
  · rw [show State.reset.zone k = {} from vget_replicate k _]

end Sys2Proof.Machine
end

section
/-! Reads that capture and clear, and held words (R12, R483, Table SCO-4). -/

-- The proofs are elaborated one after the other: this bounds the threads of the compiler, whose stacks count as its memory.
set_option Elab.async false

namespace Sys2Proof.Machine

/-! ### Association lists -/

theorem assocGet_assocPut_same {α : Type} (l : List (Nat × α)) (k : Nat) (x : α) : assocGet (assocPut l k x) k = some x := by
  simp [assocGet, assocPut]

theorem assocGet_filter_ne {α : Type} (l : List (Nat × α)) (k : Nat) : assocGet (l.filter fun p => p.1 != k) k = none := by
  simp [assocGet, List.find?_filter]

/-! ### Words of a register -/

theorem toNat_wordAt_lower (v : DWord) : (wordAt v false).toNat = v.toNat % 2 ^ 32 := by simp [wordAt]

theorem toNat_wordAt_upper (v : DWord) : (wordAt v true).toNat = v.toNat / 2 ^ 32 := by
  have := v.isLt
  simp only [wordAt, if_true, BitVec.toNat_ofNat]
  omega

theorem toNat_setWidth_word (w : Word) : (w.setWidth 64).toNat = w.toNat := by
  have := w.isLt
  simp only [BitVec.toNat_setWidth]
  omega

/-! ### What a 32-bit read at a register does -/

section
variable {off : Offset} {r : Reg} {i j : Nat}

/-- A word read outside the MSI-X windows, where `u` is the state and `w` the word that `readWord` answers. -/
theorem busRead_word {s u : State} {w : Word} (h4 : off.toNat % 4 = 0) (h : s.readWord off.toNat = (some w, u)) :
    s.busRead off.toNat .w32 = u.modBus fun b => { b with readData := w.setWidth 64 } := by
  simp [State.busRead, h4, h, BitVec.ofNat_toNat]

theorem readWord_lower (s : State) (hat : atReg off r i j) (hsize : r.row.size = 8) (hc : r ∉ companions) :
    s.readWord off.toNat = (some (wordAt (s.regValue r i j) false), s.captureLower r i j (s.regValue r i j)) := by
  obtain ⟨hfind, haddr, -, htable, hpba⟩ := hat
  simp [State.readWord, hfind, htable, hpba, hsize, hc, ← haddr]

theorem readWord_upper (s : State) (hat : atUpper off r i j) (hsize : r.row.size = 8) (hc : r ∉ companions) :
    s.readWord off.toNat = (some ((assocGet s.bus.captures (regAddr r i j)).getD (wordAt (s.regValue r i j) true)),
      s.modBus fun b => { b with captures := b.captures.filter fun p => p.1 != regAddr r i j }) := by
  obtain ⟨hfind, haddr, -, htable, hpba⟩ := hat
  have hne : off.toNat ≠ regAddr r i j := by omega
  simp [State.readWord, hfind, htable, hpba, hsize, hc, hne]

/-- A read of a register of one word, or of one that is captured with another. -/
theorem readWord_plain (s : State) (hfind : findReg off.toNat = some (r, i, j)) (htable : inMsixTable off.toNat = false)
    (hpba : inMsixPba off.toNat = false) (h : r.row.size ≠ 8 ∨ r ∈ companions) :
    s.readWord off.toNat = (some (wordAt ((s.readFirst r i j).readValue r i j) (off.toNat != regAddr r i j)),
      (s.readFirst r i j).readAfter r i j) := by
  have : ¬ (r.row.size = 8 ∧ ¬ companions.contains r) := by
    rcases h with h | h <;> simp [h]
  simp only [State.readWord, hfind, htable, hpba, Bool.or_self, Bool.false_eq_true, if_false]
  rw [if_neg this]

theorem captures_captureLower (s : State) (r : Reg) (i j : Nat) (v : DWord) :
    (s.captureLower r i j v).bus.captures = assocPut s.bus.captures (regAddr r i j) (wordAt v true) := by
  unfold State.captureLower
  dsimp only
  split <;> rfl

end

/-- The registers of the code RC, and those captured with another one, read without an effect before the value. -/
theorem readFirst_eq (s : State) {r : Reg} (i j : Nat) (h : r.row.acc = .rc ∨ r ∈ companions) : s.readFirst r i j = s := by
  unfold State.readFirst
  split
  · exact absurd h (by decide)
  · exact absurd h (by decide)
  · exact absurd h (by decide)
  · exact absurd h (by decide)
  · rfl

theorem not_companion_of_rc {r : Reg} (h : r.row.acc = .rc) : r ∉ companions := by
  intro hc
  revert h
  simp only [companions, List.mem_cons, List.not_mem_nil, or_false] at hc
  rcases hc with rfl | rfl | rfl | rfl | rfl <;> decide

theorem not_rc_of_companion : ∀ r ∈ companions, r.row.acc ≠ .rc := by decide

theorem readValue_rc (s : State) {r : Reg} (i j : Nat) (h : r.row.acc = .rc) : s.readValue r i j = s.reg r i j := by
  have hsel : r ≠ .secRingSel := by rintro rfl; exact absurd h (by decide)
  simp [State.readValue, not_companion_of_rc h, State.regValue, h, hsel]

theorem readValue_companion (s : State) {r : Reg} (i j : Nat) (h : r ∈ companions) :
    s.readValue r i j = (assocGet s.bus.companions (regAddr r i j)).getD 0 := by
  simp [State.readValue, h]

/-- A register that is captured with another shows its capture, in either word. -/
theorem readWord_companion (s : State) {off : Offset} {r : Reg} {i j : Nat} (hr : r ∈ companions)
    (hfind : findReg off.toNat = some (r, i, j)) (htable : inMsixTable off.toNat = false) (hpba : inMsixPba off.toNat = false) :
    s.readWord off.toNat =
      (some (wordAt ((assocGet s.bus.companions (regAddr r i j)).getD 0) (off.toNat != regAddr r i j)), s) := by
  rw [readWord_plain s hfind htable hpba (.inr hr), readFirst_eq s i j (.inr hr), readValue_companion s i j hr, State.readAfter,
    if_neg (not_rc_of_companion r hr)]

theorem busRead_wide (s : State) {off : Offset} {r : Reg} {i j : Nat} (hat : atReg off r i j) (hsize : r.row.size = 8)
    (h8 : off.toNat % 8 = 0) : s.busRead off.toNat .w64 = s.modBus fun b => { b with readData := s.readValue r i j } := by
  obtain ⟨hfind, haddr, -⟩ := hat
  have hwide : wideReg off.toNat = some (r, i, j) := by simp [wideReg, hfind, hsize, ← haddr]
  simp [State.busRead, h8, hwide]

/-- R101: a read of the first word of a mailbox set captures the set and its index. -/
theorem mboxCapture_captures (s : State) (e : Fin 8) :
    ((s.mboxCapture e).engN e).mboxCap = (s.engN e).mboxPub
      ∧ assocGet (s.mboxCapture e).bus.companions (regAddr .frdMboxOutIdx e 0) = some (s.engN e).mboxPubIdx := by
  unfold State.mboxCapture
  refine ⟨?_, ?_⟩
  · simp [State.engN, vget_vset_same, e.isLt]
  · simp [assocGet_assocPut_same]

/-- Settles O11: each clause takes the rule above for its register and width. -/
theorem readsCaptureAndClear : Obligations.ReadsCaptureAndClear := by
  refine ⟨?lower, ?captured, ?live, ?whole, ?clear, ?companion, ?companionUpper, ?companionWhole, ?mailbox⟩
  case lower =>
    intro off r i j s hsize hc hat
    obtain ⟨-, haddr, h4, -, -⟩ := id hat
    refine completes_captureRead (busRead_word h4 (readWord_lower s hat hsize hc)) ⟨?_, ?_, ?_⟩
    · simp only [State.modBus_fields, toNat_setWidth_word, toNat_wordAt_lower]
    · simp only [State.modBus_fields, captures_captureLower, haddr, assocGet_assocPut_same, Option.map_some, toNat_wordAt_upper]
    · exact only_modBus _ (only_captureLower s r i j _ (Only.refl _ s) (by decide)) (by decide)
  case captured =>
    intro off r i j w s hsize hc hat hw
    obtain ⟨-, -, h4, -, -⟩ := id hat
    refine completes_captureRead (busRead_word h4 (readWord_upper s hat hsize hc)) ⟨?_, ?_, ?_⟩
    · simp only [State.modBus_fields, toNat_setWidth_word, hw, Option.getD_some]
    · simp only [State.modBus_fields, assocGet_filter_ne]
    · exact only_modBus _ (only_modBus _ (Only.refl _ s) (by decide)) (by decide)
  case live =>
    intro off r i j s hsize hc hat hw
    obtain ⟨-, -, h4, -, -⟩ := id hat
    refine completes_captureRead (busRead_word h4 (readWord_upper s hat hsize hc)) ⟨?_, ?_⟩
    · simp only [State.modBus_fields, toNat_setWidth_word, hw, Option.getD_none, toNat_wordAt_upper]
    · exact only_modBus _ (only_modBus _ (Only.refl _ s) (by decide)) (by decide)
  case whole =>
    intro off r i j s hsize hc hat h8
    refine completes_captureRead (busRead_wide s hat hsize h8) ⟨?_, rfl, only_modBus _ (Only.refl _ s) (by decide)⟩
    simp [State.readValue, hc]
  case clear =>
    intro off r i j s hs hacc hat
    obtain ⟨hfind, haddr, h4, htable, hpba⟩ := hat
    have hsize : r.row.size ≠ 8 := by simp [Reg.size_of_w1c_or_rc (.inr hacc)]
    have hread := readWord_plain s hfind htable hpba (.inl hsize)
    rw [readFirst_eq s i j (.inl hacc), readValue_rc s i j hacc, State.readAfter, if_pos hacc, haddr, bne_self_eq_false] at hread
    rw [← haddr] at hread
    refine ⟨_, congrArg Host.Outcome.next (busRead_word h4 hread), ?_, reg_setReg_same hs r i j 0,
      otherRegs_setReg hs r i j 0, only_modBus _ (only_setReg r i j 0 (Only.refl _ s) (by decide)) (by decide)⟩
    simp only [State.modBus_fields, toNat_setWidth_word, toNat_wordAt_lower]
  case companion =>
    intro off r i j s hr hat
    obtain ⟨hfind, haddr, h4, htable, hpba⟩ := hat
    refine completes_captureRead (busRead_word h4 (readWord_companion s hr hfind htable hpba))
      ⟨?_, only_modBus _ (Only.refl _ s) (by decide)⟩
    simp only [State.modBus_fields, toNat_setWidth_word, haddr, bne_self_eq_false, toNat_wordAt_lower]
  case companionUpper =>
    intro off r i j s hr hsize hat
    obtain ⟨hfind, haddr, h4, htable, hpba⟩ := hat
    have hne : (off.toNat != regAddr r i j) = true := by simp [haddr]
    refine completes_captureRead (busRead_word h4 (readWord_companion s hr hfind htable hpba))
      ⟨?_, only_modBus _ (Only.refl _ s) (by decide)⟩
    simp only [State.modBus_fields, toNat_setWidth_word, hne, toNat_wordAt_upper]
  case companionWhole =>
    intro off r i j s hr hsize hat h8
    exact completes_captureRead (busRead_wide s hat hsize h8) ⟨readValue_companion s i j hr, only_modBus _ (Only.refl _ s) (by decide)⟩
  case mailbox =>
    intro off e s hat
    obtain ⟨hfind, haddr, h4, htable, hpba⟩ := hat
    have hread := readWord_plain s hfind htable hpba (.inl (by decide))
    exact completes_captureRead (busRead_word h4 hread) (mboxCapture_captures s e)

/-! ### Held words -/

theorem busWrite_heldLower (s : State) (m : Master) {off : Offset} {r : Reg} {i j : Nat} (v : DWord) (hat : atReg off r i j)
    (hsize : r.row.size = 8) (hacc : r.row.acc = .rw) :
    s.busWrite m off.toNat .w32 v = s.modBus fun b => { b with held := assocPut b.held off.toNat (v.setWidth 32) } := by
  rw [busWrite_atReg hat]
  obtain ⟨hfind, haddr, -, htable, hpba⟩ := hat
  simp [State.writeWord, hfind, htable, hpba, hacc, hsize, ← haddr]

theorem busWrite_upper (s : State) (m : Master) {off : Offset} {r : Reg} {i j : Nat} (v : DWord) (hat : atUpper off r i j)
    (hsize : r.row.size = 8) (hacc : r.row.acc = .rw) :
    s.busWrite m off.toNat .w32 v = (s.modBus fun b => { b with held := b.held.filter fun p => p.1 != regAddr r i j }).regWrite
      (regAddr r i j) r i j
      (((assocGet s.bus.held (regAddr r i j)).getD (wordAt (s.reg r i j) false)).toNat + 2 ^ 32 * (v.toNat % 2 ^ 32)) := by
  obtain ⟨hfind, haddr, h4, htable, hpba⟩ := hat
  have hassigned : assigned off.toNat = true := by simp [assigned, hfind]
  have hne : off.toNat ≠ regAddr r i j := by omega
  simp [State.busWrite, h4, hassigned, State.writeWord, hfind, htable, hpba, hacc, hsize, hne]

/-- Settles O10: the first word is held, and the second one takes it along. -/
theorem heldWordsWriteAWideRegisterWhole : Obligations.HeldWordsWriteAWideRegisterWhole := by
  refine ⟨?held, ?written⟩
  case held =>
    intro off r i j v s hsize hacc hat
    refine ⟨_, congrArg Host.Outcome.next (busWrite_heldLower s .host _ hat hsize hacc), ?_, only_modBus _ (Only.refl _ s) (by decide)⟩
    simp [assocGet_assocPut_same]
  case written =>
    intro off r i j lo v s hs hr hring hat hlo
    obtain ⟨hacc, hsize⟩ : r.row.acc = .rw ∧ r.row.size = 8 := by obtain rfl | rfl := hr <;> decide
    have hwrite := busWrite_upper s .host v hat hsize hacc
    have hv : (BitVec.ofNat 64 (lo.toNat + 2 ^ 32 * (v.toNat % 2 ^ 32))).toNat = lo.toNat + 2 ^ 32 * (v.toNat % 2 ^ 32) := by
      have := lo.isLt
      simp only [BitVec.toNat_ofNat]
      omega
    rw [hlo, ← hv, regWrite_queueBase _ _ i j _ hr (by exact hring)] at hwrite
    exact completes_registerWrite hwrite ⟨reg_setReg_same hs r i 0 _, assocGet_filter_ne _ _, otherRegs_setReg hs r i 0 _,
      only_setReg r i 0 _ (only_modBus _ (Only.refl _ s) (by decide)) (by decide)⟩

end Sys2Proof.Machine
end

section
/-! What a command finds when it acts: being given it changes only the command interface and the management port, and the checks of
the stage, of images and of blocks do not read these, nor the twin. What a completion leaves alone, said for every other part. -/

-- The proofs are elaborated one after the other: this bounds the threads of the compiler, whose stacks count as its memory.
set_option Elab.async false

namespace Sys2Proof.Machine

/-! ### A frame, part by part -/

section
variable {l : List Part} {s t : State} (h : Only l s t)
include h

theorem Only.keeps_pending (hl : .pending ∉ l := by decide) : t.pending = s.pending := h .pending hl
theorem Only.keeps_now (hl : .now ∉ l := by decide) : t.now = s.now := h .now hl
theorem Only.keeps_free (hl : .free ∉ l := by decide) : t.free = s.free := h .free hl
theorem Only.keeps_live (hl : .live ∉ l := by decide) : t.live = s.live := h .live hl
theorem Only.keeps_regs (hl : .regs ∉ l := by decide) : t.regs = s.regs := h .regs hl
theorem Only.keeps_bus (hl : .bus ∉ l := by decide) : t.bus = s.bus := h .bus hl
theorem Only.keeps_eng (hl : .eng ∉ l := by decide) : t.eng = s.eng := h .eng hl
theorem Only.keeps_waits (hl : .waits ∉ l := by decide) : t.waits = s.waits := h .waits hl
theorem Only.keeps_meas (hl : .meas ∉ l := by decide) : t.meas = s.meas := h .meas hl
theorem Only.keeps_sar (hl : .sar ∉ l := by decide) : t.sar = s.sar := h .sar hl
theorem Only.keeps_pwm (hl : .pwm ∉ l := by decide) : t.pwm = s.pwm := h .pwm hl
theorem Only.keeps_gdl (hl : .gdl ∉ l := by decide) : t.gdl = s.gdl := h .gdl hl
theorem Only.keeps_trp (hl : .trp ∉ l := by decide) : t.trp = s.trp := h .trp hl
theorem Only.keeps_saf (hl : .saf ∉ l := by decide) : t.saf = s.saf := h .saf hl
theorem Only.keeps_clk (hl : .clk ∉ l := by decide) : t.clk = s.clk := h .clk hl
theorem Only.keeps_nt (hl : .nt ∉ l := by decide) : t.nt = s.nt := h .nt hl
theorem Only.keeps_eth (hl : .eth ∉ l := by decide) : t.eth = s.eth := h .eth hl
theorem Only.keeps_cmd (hl : .cmd ∉ l := by decide) : t.cmd = s.cmd := h .cmd hl
theorem Only.keeps_ops (hl : .ops ∉ l := by decide) : t.ops = s.ops := h .ops hl
theorem Only.keeps_log (hl : .log ∉ l := by decide) : t.log = s.log := h .log hl
theorem Only.keeps_sec (hl : .sec ∉ l := by decide) : t.sec = s.sec := h .sec hl
theorem Only.keeps_stg (hl : .stg ∉ l := by decide) : t.stg = s.stg := h .stg hl
theorem Only.keeps_acq (hl : .acq ∉ l := by decide) : t.acq = s.acq := h .acq hl
theorem Only.keeps_dma (hl : .dma ∉ l := by decide) : t.dma = s.dma := h .dma hl
theorem Only.keeps_dram (hl : .dram ∉ l := by decide) : t.dram = s.dram := h .dram hl
theorem Only.keeps_host (hl : .host ∉ l := by decide) : t.host = s.host := h .host hl
theorem Only.keeps_twn (hl : .twn ∉ l := by decide) : t.twn = s.twn := h .twn hl
theorem Only.keeps_arb (hl : .arb ∉ l := by decide) : t.arb = s.arb := h .arb hl
theorem Only.keeps_mgt (hl : .mgt ∉ l := by decide) : t.mgt = s.mgt := h .mgt hl

end

/-! ### Another command interface, management port and twin -/

/-- The state with another command interface, another management port and another twin. -/
def State.desk (s : State) (x : CmdState) (y : MgtState) (z : TwnState) : State := { s with cmd := x, mgt := y, twn := z }

section
variable (s v : State) (x : CmdState) (y : MgtState) (z : TwnState)

@[simp] theorem desk_fields :
    (s.desk x y z).pending = s.pending ∧ (s.desk x y z).now = s.now ∧ (s.desk x y z).free = s.free ∧ (s.desk x y z).live = s.live ∧
    (s.desk x y z).regs = s.regs ∧ (s.desk x y z).bus = s.bus ∧ (s.desk x y z).eng = s.eng ∧ (s.desk x y z).waits = s.waits ∧
    (s.desk x y z).meas = s.meas ∧ (s.desk x y z).sar = s.sar ∧ (s.desk x y z).pwm = s.pwm ∧ (s.desk x y z).gdl = s.gdl ∧
    (s.desk x y z).trp = s.trp ∧ (s.desk x y z).saf = s.saf ∧ (s.desk x y z).clk = s.clk ∧ (s.desk x y z).nt = s.nt ∧
    (s.desk x y z).eth = s.eth ∧ (s.desk x y z).cmd = x ∧ (s.desk x y z).ops = s.ops ∧ (s.desk x y z).log = s.log ∧
    (s.desk x y z).sec = s.sec ∧ (s.desk x y z).stg = s.stg ∧ (s.desk x y z).acq = s.acq ∧ (s.desk x y z).dma = s.dma ∧
    (s.desk x y z).dram = s.dram ∧ (s.desk x y z).host = s.host ∧ (s.desk x y z).twn = z ∧ (s.desk x y z).arb = s.arb ∧
    (s.desk x y z).mgt = y := by
  and_intros <;> rfl

/-- What only the three parts may tell apart is the state with these parts replaced. -/
theorem eq_desk_of_only {s t : State} (h : Only [.cmd, .mgt, .twn] s t) : t = s.desk t.cmd t.mgt t.twn := by
  obtain ⟨⟩ := t
  simp only [State.desk, State.mk.injEq, and_true, true_and]
  exact ⟨h.keeps_pending, h.keeps_now, h.keeps_free, h.keeps_live, h.keeps_regs, h.keeps_bus, h.keeps_eng, h.keeps_waits, h.keeps_meas,
    h.keeps_sar, h.keeps_pwm, h.keeps_gdl, h.keeps_trp, h.keeps_saf, h.keeps_clk, h.keeps_nt, h.keeps_eth, h.keeps_ops, h.keeps_log,
    h.keeps_sec, h.keeps_stg, h.keeps_acq, h.keeps_dma, h.keeps_dram, h.keeps_host, h.keeps_arb⟩

theorem cRoot_desk (t : Nat) : (v.desk x y z).cRoot t = v.cRoot t := by
  induction t with
  | zero => rfl
  | succ t ih => simp only [State.cRoot, ih]; rfl

theorem cOffset_desk (e : Nat) : (s.desk x y z).cOffset (v.desk x y z) e = s.cOffset v e := by
  simp only [State.cOffset, cRoot_desk]; rfl

theorem samePhase_desk (a b : Nat) : (v.desk x y z).samePhase a b = v.samePhase a b := by
  simp only [State.samePhase, cRoot_desk]; rfl

theorem cTs_desk (e : Nat) : (s.desk x y z).cTs (v.desk x y z) e = s.cTs v e := by
  simp only [State.cTs, cOffset_desk]; rfl

theorem cTl_desk (e : Nat) : (s.desk x y z).cTl (v.desk x y z) e = s.cTl v e := by
  simp only [State.cTl, cTs_desk]; rfl

theorem badAssign_desk : (v.desk x y z).badAssign = v.badAssign := by
  funext e
  simp only [State.badAssign, samePhase_desk]; rfl

theorem rulesMeas_desk : (s.desk x y z).rulesMeas (v.desk x y z) = s.rulesMeas v := by
  simp only [State.rulesMeas, cOffset_desk, cTs_desk]; rfl

theorem rulesFrd_desk : (s.desk x y z).rulesFrd (v.desk x y z) = s.rulesFrd v := by
  simp only [State.rulesFrd, badAssign_desk]; rfl

theorem rulesTime_desk : (s.desk x y z).rulesTime (v.desk x y z) = s.rulesTime v := by
  simp only [State.rulesTime, cTl_desk]; rfl

/-- R366: the check of the stage reads none of the three parts. -/
theorem checkAll_desk : (s.desk x y z).checkAll = s.checkAll := by
  funext f imgs
  have h : (s.desk x y z).asIf f imgs = (s.asIf f imgs).desk x y z := rfl
  simp only [State.checkAll, h, rulesMeas_desk, rulesFrd_desk, rulesTime_desk]
  rfl

/-- R71: nor do the load checks of an image. -/
theorem imageCheck_desk : (s.desk x y z).imageCheck = s.imageCheck := rfl

theorem blockSections_desk (n : Nat) (bs : Bytes) (f : RegFile) (imgs : Vector (Option Image) 8) :
    (s.desk x y z).blockSections n bs f imgs = s.blockSections n bs f imgs := by
  induction n generalizing bs f imgs with
  | zero => rfl
  | succ n ih => simp only [State.blockSections, ih, imageCheck_desk]

theorem blockChecks_desk (bs : Bytes) (b : Bool) : (s.desk x y z).blockChecks bs b = s.blockChecks bs b := by
  simp only [State.blockChecks, State.blockStage, blockSections_desk, checkAll_desk]

theorem copyOk_desk (c : Option CfgBlock) : (s.desk x y z).copyOk c = s.copyOk c := by
  cases c with
  | none => rfl
  | some c =>
    simp only [State.copyOk, blockChecks_desk]
    rfl

/-- R374: nor do the checks of a configuration block. -/
theorem blockRefusal_desk (bs : Bytes) : (s.desk x y z).blockRefusal bs = s.blockRefusal bs := by
  have hform : (s.desk x y z).blockForm bs = s.blockForm bs := rfl
  simp only [State.blockRefusal, hform, copyOk_desk, blockChecks_desk]
  rfl

end

theorem took_eq_desk (s : State) (c : Src) : s.took c = s.desk (s.took c).cmd (s.took c).mgt s.twn := by
  have h := only_took_cmd s c
  have hd := eq_desk_of_only (s := s) (t := s.took c) fun p hp => h p (by simp_all)
  rwa [h.keeps_twn] at hd

/-! ### Being given a command -/

section
variable {s : State} {c : Src} {op : Nat} {p : Bytes}

theorem acting_of_given (h : s.given c op p = true) (f : State → State) : s.acting c op p f = f (s.took c) := if_pos h

theorem acting_of_not_given (h : s.given c op p = false) (f : State → State) : s.acting c op p f = s := by
  simp [State.acting, h]

/-- A command that HALTED does not turn away acts on the state in which it is noted as acted on. -/
theorem obey_of_admits (h : s.admits c op p) (f : State → State) : s.obey c op p f = f (s.took c) := by
  obtain ⟨hgiven, hhalt⟩ := h
  rw [State.obey, acting_of_given hgiven, State.unlessHalted, if_neg (by rwa [took_ops])]

end

/-! ### What a completion leaves alone -/

/-- The parts that an answer to a command may change. -/
def answerParts : List Part := [.regs, .cmd, .host, .twn, .mgt]

section
variable (s : State) (c : Src) (op : Nat) (st : Status) (d : Nat) (at_ : DWord)

theorem only_complete_answer : Only answerParts s (s.complete c op st d at_) :=
  only_complete s c op st d at_ (Only.refl _ s) (by decide) (by decide) (by decide) (by decide) (by decide)

theorem only_done_answer : Only answerParts s (s.done c op d) := only_complete_answer s c op .ok d _

theorem only_refuse_answer : Only answerParts s (s.refuse c op st d) := only_complete_answer s c op st d _

end

theorem Only.answer_fields {s t : State} (h : Only answerParts s t) :
    t.pending = s.pending ∧ t.now = s.now ∧ t.free = s.free ∧ t.live = s.live ∧ t.bus = s.bus ∧ t.eng = s.eng ∧ t.waits =
    s.waits ∧ t.meas = s.meas ∧ t.sar = s.sar ∧ t.pwm = s.pwm ∧ t.gdl = s.gdl ∧ t.trp = s.trp ∧ t.saf = s.saf ∧ t.clk =
    s.clk ∧ t.nt = s.nt ∧ t.eth = s.eth ∧ t.ops = s.ops ∧ t.log = s.log ∧ t.sec = s.sec ∧ t.stg = s.stg ∧ t.acq = s.acq ∧
    t.dma = s.dma ∧ t.dram = s.dram ∧ t.arb = s.arb :=
  ⟨h.keeps_pending, h.keeps_now, h.keeps_free, h.keeps_live, h.keeps_bus, h.keeps_eng, h.keeps_waits, h.keeps_meas,
    h.keeps_sar, h.keeps_pwm, h.keeps_gdl, h.keeps_trp, h.keeps_saf, h.keeps_clk, h.keeps_nt, h.keeps_eth, h.keeps_ops,
    h.keeps_log, h.keeps_sec, h.keeps_stg, h.keeps_acq, h.keeps_dma, h.keeps_dram, h.keeps_arb⟩

@[simp] theorem complete_fields (s : State) (c : Src) (op : Nat) (st : Status) (d : Nat) (at_ : DWord) :
    type_of% (only_complete_answer s c op st d at_).answer_fields := (only_complete_answer s c op st d at_).answer_fields

@[simp] theorem done_fields (s : State) (c : Src) (op d : Nat) :
    type_of% (only_done_answer s c op d).answer_fields := (only_done_answer s c op d).answer_fields

@[simp] theorem refuse_fields (s : State) (c : Src) (op : Nat) (st : Status) (d : Nat) :
    type_of% (only_refuse_answer s c op st d).answer_fields := (only_refuse_answer s c op st d).answer_fields

theorem Only.took_fields {s t : State} (h : Only [.cmd, .mgt] s t) :
    t.pending = s.pending ∧ t.now = s.now ∧ t.free = s.free ∧ t.live = s.live ∧ t.regs = s.regs ∧ t.bus = s.bus ∧ t.eng =
    s.eng ∧ t.waits = s.waits ∧ t.meas = s.meas ∧ t.sar = s.sar ∧ t.pwm = s.pwm ∧ t.gdl = s.gdl ∧ t.trp = s.trp ∧ t.saf =
    s.saf ∧ t.clk = s.clk ∧ t.nt = s.nt ∧ t.eth = s.eth ∧ t.ops = s.ops ∧ t.log = s.log ∧ t.sec = s.sec ∧ t.stg = s.stg ∧
    t.acq = s.acq ∧ t.dma = s.dma ∧ t.dram = s.dram ∧ t.host = s.host ∧ t.twn = s.twn ∧ t.arb = s.arb :=
  ⟨h.keeps_pending, h.keeps_now, h.keeps_free, h.keeps_live, h.keeps_regs, h.keeps_bus, h.keeps_eng, h.keeps_waits,
    h.keeps_meas, h.keeps_sar, h.keeps_pwm, h.keeps_gdl, h.keeps_trp, h.keeps_saf, h.keeps_clk, h.keeps_nt, h.keeps_eth,
    h.keeps_ops, h.keeps_log, h.keeps_sec, h.keeps_stg, h.keeps_acq, h.keeps_dma, h.keeps_dram, h.keeps_host, h.keeps_twn,
    h.keeps_arb⟩

@[simp] theorem took_fields (s : State) (c : Src) : type_of% (only_took_cmd s c).took_fields := (only_took_cmd s c).took_fields

/-! ### Answers -/

theorem pair_congr {s t : State} (h : t.live = s.live) : t.pair = s.pair := by
  unfold State.pair State.lv
  rw [h]

/-- Two states are alike for a completion where host memory, the port's request, the commands, the twin, the committed settings and the
registers are the same. -/
theorem SameDesk.of_parts {l : List Part} {s u : State} (h : Only l s u) (hhost : u.host = s.host)
    (hmgt : u.mgt.sent = s.mgt.sent ∧ u.mgt.cmd = s.mgt.cmd) (hl : ∀ p ∈ [Part.cmd, .twn, .live, .regs], p ∉ l := by decide) :
    SameDesk s u where
  host := hhost
  cmd := h.keeps_cmd (hl _ (by decide))
  mgt := hmgt
  role := by rw [h.keeps_twn (hl _ (by decide))]
  pair := pair_congr (h.keeps_live (hl _ (by decide)))
  base r := by unfold State.reg; rw [h.keeps_regs (hl _ (by decide))]
  cfg r := by unfold State.reg; rw [h.keeps_regs (hl _ (by decide))]

/-- Two states that differ in no part of the desk are alike for a completion. -/
theorem SameDesk.of_only {l : List Part} {s u : State} (h : Only l s u)
    (hl : ∀ p ∈ [Part.host, .mgt, .cmd, .twn, .live, .regs], p ∉ l := by decide) : SameDesk s u :=
  .of_parts h (h.keeps_host (hl _ (by decide))) (by rw [h.keeps_mgt (hl _ (by decide))]; exact ⟨rfl, rfl⟩)
    fun p hp => hl p (by simp_all)

section
variable {s u : State} {c : Src} {op d : Nat} {st : Status} (hs : s.storesCanonical) (h : SameDesk (s.took c) u)
include hs h

theorem answered_complete (at_ : DWord) : Answered c op st d at_ s (u.complete c op st d at_) :=
  answered_of_took (State.complete_answers c op st d at_ (storesCanonical_took hs c) h)

theorem answered_refuse : Answered c op st d 0 s (u.refuse c op st d) := answered_complete hs h 0

theorem answered_done (hnt : u.nt = s.nt) : Answered c op .ok d s.nt64 s (u.done c op d) := by
  have h64 : u.nt64 = s.nt64 := by unfold State.nt64; rw [hnt]
  rw [← h64]
  exact answered_complete hs h _

end

/-! ### Elapsed time -/

/-- The NT clock that runs on keeps all but its reading. -/
theorem NtState.elapse_eq (k : NtState) (incr t : Nat) : ∃ sec ns frac phase,
    k.elapse incr t = { k with sec := sec, ns := ns, frac := frac, phase := phase } := by
  unfold NtState.elapse NtState.run
  generalize k.sec + _ = sec
  exact ⟨_, _, _, _, rfl⟩

/-- Going on to an instant changes the elapsed time and the reading of the NT clock. -/
theorem advanceTo_eq (s : State) (n : Nat) : ∃ sec ns frac phase, s.advanceTo n =
    { s with now := max s.now n, nt := { s.nt with sec := sec, ns := ns, frac := frac, phase := phase } } := by
  unfold State.advanceTo
  split
  · rw [max_eq_left ‹_›]
    exact ⟨s.nt.sec, s.nt.ns, s.nt.frac, s.nt.phase, rfl⟩
  · obtain ⟨sec, ns, frac, phase, h⟩ := s.nt.elapse_eq (regGet s.regs .ntIncr).toNat (tcxoTime s.oscOffset (n - s.now))
    rw [max_eq_right (le_of_not_ge ‹_›), h]
    exact ⟨sec, ns, frac, phase, rfl⟩

theorem only_advanceTo_time (s : State) (n : Nat) : Only [.now, .nt] s (s.advanceTo n) :=
  only_advanceTo n (Only.refl _ s) (by decide) (by decide)

@[simp] theorem advanceTo_fields (s : State) (n : Nat) :
    (s.advanceTo n).pending = s.pending ∧ (s.advanceTo n).free = s.free ∧ (s.advanceTo n).live = s.live ∧
    (s.advanceTo n).regs = s.regs ∧ (s.advanceTo n).bus = s.bus ∧ (s.advanceTo n).eng = s.eng ∧ (s.advanceTo n).waits = s.waits ∧
    (s.advanceTo n).meas = s.meas ∧ (s.advanceTo n).sar = s.sar ∧ (s.advanceTo n).pwm = s.pwm ∧ (s.advanceTo n).gdl = s.gdl ∧
    (s.advanceTo n).trp = s.trp ∧ (s.advanceTo n).saf = s.saf ∧ (s.advanceTo n).clk = s.clk ∧ (s.advanceTo n).eth = s.eth ∧
    (s.advanceTo n).cmd = s.cmd ∧ (s.advanceTo n).ops = s.ops ∧ (s.advanceTo n).log = s.log ∧ (s.advanceTo n).sec = s.sec ∧
    (s.advanceTo n).stg = s.stg ∧ (s.advanceTo n).acq = s.acq ∧ (s.advanceTo n).dma = s.dma ∧ (s.advanceTo n).dram = s.dram ∧
    (s.advanceTo n).host = s.host ∧ (s.advanceTo n).twn = s.twn ∧ (s.advanceTo n).arb = s.arb ∧ (s.advanceTo n).mgt = s.mgt ∧
    (s.advanceTo n).now = max s.now n := by
  obtain ⟨sec, ns, frac, phase, h⟩ := advanceTo_eq s n
  rw [h]
  and_intros <;> rfl

/-- What the NT clock carries besides its reading stays. -/
theorem nt_advanceTo (s : State) (n : Nat) : ∃ sec ns frac phase,
    (s.advanceTo n).nt = { s.nt with sec := sec, ns := ns, frac := frac, phase := phase } := by
  obtain ⟨sec, ns, frac, phase, h⟩ := advanceTo_eq s n
  exact ⟨sec, ns, frac, phase, by rw [h]⟩

end Sys2Proof.Machine
end

section
/-! The stage (R361 to R368): its token, its writes and its check. Each lemma says what a command makes of the state in which it acts. -/

-- The proofs are elaborated one after the other: this bounds the threads of the compiler, whose stacks count as its memory.
set_option Elab.async false

namespace Sys2Proof.Machine

/-! ### What the stage's conditions read -/

section
variable (s : State) (c : Src)

@[simp] theorem holds_took (m : Master) : (s.took c).holds m = s.holds m := by simp only [State.holds, took_fields]

@[simp] theorem stagePending_took : (s.took c).stagePending = s.stagePending := by
  simp only [State.stagePending, State.commitSpore, took_fields]

@[simp] theorem pair_took : (s.took c).pair = s.pair := pair_congr (by simp)

@[simp] theorem bankWin_took : (s.took c).bankWin = s.bankWin := by
  funext e
  simp only [State.bankWin, State.reg, took_fields]

@[simp] theorem checkAll_took : (s.took c).checkAll = s.checkAll := by rw [took_eq_desk, checkAll_desk]

theorem stagePending_advanceTo (n : Nat) : (s.advanceTo n).stagePending = s.stagePending := by
  obtain ⟨sec, ns, frac, phase, h⟩ := nt_advanceTo s n
  simp only [State.stagePending, State.commitSpore, advanceTo_fields, h]

end

/-! ### The token (R365) -/

/-- A token that falls free with no commit pending makes the stage equal to the live configuration. -/
theorem freeToken_eq {s : State} (h : s.stagePending = false) :
    s.freeToken = (s.modStg fun g => { g with token := none, leaseEnd := 0 }).stageReset := by
  have h' : (s.modStg fun g => { g with token := none, leaseEnd := 0 }).stagePending = false := h
  simp only [State.freeToken, h', Bool.false_eq_true, if_false]

theorem freeToken_clears {s : State} (h : s.stagePending = false) :
    s.freeToken.stg.token = none ∧ s.freeToken.stg.st = .clean ∧ s.freeToken.stg.stage = s.live ∧ Only [.stg] s s.freeToken := by
  rw [freeToken_eq h]
  exact ⟨rfl, rfl, rfl, only_stageReset _ (only_modStg _ (Only.refl _ s) (by decide)) (by decide)⟩

/-- Settles O13: each clause follows its branch of Table STG-8. -/
theorem theTokenIsHeldByOneMaster : Obligations.TheTokenIsHeldByOneMaster := by
  refine ⟨?taken, ?busy, ?lease, ?freed, ?lapsed⟩
  case taken =>
    intro c p s hs hadm hop hpos hmax hfree
    have hact : (s.took c).stgToken c p = ((s.took c).modStg fun g =>
        { g with token := some (masterOf c), leaseEnd := s.now + 32000000 * pf p 4 4 }).done c 0x0201 := by
      have hlease : ¬ (pf p 4 4 = 0 ∨ 3600000 < pf p 4 4) := by omega
      have hgo : s.stg.token = none ∨ (s.took c).holds (masterOf c) = true := by rwa [holds_took]
      simp only [State.stgToken, hop, hlease, took_fields, hgo, if_true, if_false, Nat.lt_irrefl, Nat.one_ne_zero]
    refine ⟨_, congrArg Host.Outcome.next (obey_of_admits hadm _), ?_⟩
    rw [hact]
    exact ⟨by simp, answered_done hs ⟨rfl, rfl, ⟨rfl, rfl⟩, rfl, rfl, fun _ => rfl, fun _ => rfl⟩ (by simp)⟩
  case busy =>
    intro c p s hs hadm hop hpos hmax htaken hother
    have hact : (s.took c).stgToken c p = (s.took c).refuse c 0x0201 .stageBusy 0 := by
      have hlease : ¬ (pf p 4 4 = 0 ∨ 3600000 < pf p 4 4) := by omega
      simp [State.stgToken, hop, hlease, htaken, hother]
    refine ⟨_, congrArg Host.Outcome.next (obey_of_admits hadm _), ?_⟩
    rw [hact]
    exact ⟨by simp, answered_refuse hs (SameDesk.refl _)⟩
  case lease =>
    intro c p s hs hadm hlease hop
    have hact : (s.took c).stgToken c p = (s.took c).refuse c 0x0201 .checkFail 2 := by
      simp [State.stgToken, hop, hlease]
    refine ⟨_, congrArg Host.Outcome.next (obey_of_admits hadm _), ?_⟩
    rw [hact]
    exact ⟨by simp, answered_refuse hs (SameDesk.refl _)⟩
  case freed =>
    intro c p s hs hadm hop hpos hmax hholds hpend
    have hact : (s.took c).stgToken c p = (s.took c).freeToken.done c 0x0201 := by
      have hlease : ¬ (pf p 4 4 = 0 ∨ 3600000 < pf p 4 4) := by omega
      simp [State.stgToken, hop, hlease, hholds]
    refine ⟨_, congrArg Host.Outcome.next (obey_of_admits hadm _), ?_⟩
    obtain ⟨htoken, hst, hstage, honly⟩ := freeToken_clears (s := s.took c) (by simpa using hpend)
    have hlive : (s.took c).freeToken.live = s.live := honly.keeps_live.trans (by simp)
    rw [hact]
    simp only [done_fields, hlive]
    exact ⟨htoken, hst, by simpa using hstage, trivial, answered_done hs (SameDesk.of_only honly) (honly.keeps_nt.trans (by simp))⟩
  case lapsed =>
    intro s htoken hpend
    have hexec : execTokenLeaseExpiry s = .next ((s.advanceTo s.stg.leaseEnd).freeToken.note 0x13 3 0
        (leBytes 8 (s.advanceTo s.stg.leaseEnd).freeToken.stgStatusWord)) := by
      simp [execTokenLeaseExpiry, Option.isSome_iff_ne_none.mpr htoken]
    refine ⟨_, hexec, ?_⟩
    obtain ⟨hnone, hst, hstage, honly⟩ := freeToken_clears (s := s.advanceTo s.stg.leaseEnd) (by rwa [stagePending_advanceTo])
    have hnote := only_note (ps := [.regs, .log]) (s.advanceTo s.stg.leaseEnd).freeToken 0x13 3 0
      (leBytes 8 (s.advanceTo s.stg.leaseEnd).freeToken.stgStatusWord) (Only.refl _ _) (by decide) (by decide)
    rw [hnote.keeps_stg, hnote.keeps_live, hnote.keeps_now, honly.keeps_live, honly.keeps_now]
    exact ⟨hnone, hst, by simpa using hstage, by simp, by simp⟩

end Sys2Proof.Machine
end

section
/-! STG_WRITE and STG_CHECK (R362, R363, R366, R367): what each of their branches makes of the stage. -/

-- The proofs are elaborated one after the other: this bounds the threads of the compiler, whose stacks count as its memory.
set_option Elab.async false

namespace Sys2Proof.Machine

/-! ### STG_WRITE -/

section
variable {s : State} {c : Src} {p : Bytes}

section
variable (hholds : s.holds (masterOf c) = true) (hpend : s.stagePending = false) (hpos : 0 < pf p 0 2) (hmax : pf p 0 2 ≤ 511)
  (hlen : p.length = 8 + 8 * pf p 0 2)
include hholds hpend hpos hmax hlen

theorem stgWrite_ok {f : RegFile} (h : stageEntries s.bankWin s.stg.images (pf p 0 2) 0 (p.drop 8) s.stg.stage = .ok f) :
    s.stgWrite c p = (s.stageWrote (pf p 0 2) f s.stg.images).done c 0x0202 := by
  have hform : ¬ (pf p 0 2 = 0 ∨ 511 < pf p 0 2 ∨ p.length ≠ 8 + 8 * pf p 0 2) := by omega
  simp only [State.stgWrite, hholds, hpend, hform, h, Bool.not_true, Bool.false_eq_true, if_false]

theorem stgWrite_error {k : Nat} (h : stageEntries s.bankWin s.stg.images (pf p 0 2) 0 (p.drop 8) s.stg.stage = .error k) :
    s.stgWrite c p = s.refuse c 0x0202 .checkFail k := by
  have hform : ¬ (pf p 0 2 = 0 ∨ 511 < pf p 0 2 ∨ p.length ≠ 8 + 8 * pf p 0 2) := by omega
  simp only [State.stgWrite, hholds, hpend, hform, h, Bool.not_true, Bool.false_eq_true, if_false]

end

/-! ### STG_CHECK -/

/-- The state of the stage after a check. -/
def checkedStage (g : StgState) (fails : List FailEntry) : StgState :=
  { g with
    fails := fails, st := if g.st = .clean ∨ g.pendings ≠ [] then g.st else if fails = [] then .checked else .failed }

/-- The state in which STG_CHECK answers: the failures are listed, and the stage is CHECKED or FAILED. -/
def State.stgChecked (s : State) (c : Src) (p : Bytes) (fails : List FailEntry) : State :=
  let u := (s.reportFails (s.reportsHere c) fails (pf p 8 8) (pf p 16 2)).modStg fun g => { g with
    st := if g.st = .clean ∨ g.pendings ≠ [] then g.st else if fails = [] then .checked else .failed }
  if c.ring.val = 128 then u.modMgt fun m => { m with tail := (fails.take 16).flatMap FailEntry.bytes } else u

theorem stgCheck_eq (hholds : s.holds (masterOf c) = true) {fails : List FailEntry} (hf : s.checkAll s.stg.stage s.stg.images = fails) :
    s.stgCheck c p = if fails = [] then (s.stgChecked c p fails).done c 0x0203
      else (s.stgChecked c p fails).refuse c 0x0203 .checkFail fails.length := by
  simp only [State.stgCheck, hholds, hf, Bool.not_true, Bool.false_eq_true, if_false]
  rfl

theorem reportFails_stg (own : Bool) (fails : List FailEntry) (addr cap : Nat) :
    (s.reportFails own fails addr cap).stg = { s.stg with fails := fails } := by
  unfold State.reportFails
  dsimp only
  split <;> simp

theorem stgChecked_stg (fails : List FailEntry) : (s.stgChecked c p fails).stg = checkedStage s.stg fails := by
  unfold State.stgChecked
  dsimp only
  split <;> simp [reportFails_stg, checkedStage]

theorem only_stgChecked (fails : List FailEntry) : Only [.stg, .host, .mgt] s (s.stgChecked c p fails) := by
  have h := only_reportFails (ps := [.stg, .host, .mgt]) s (s.reportsHere c) fails (pf p 8 8) (pf p 16 2) (Only.refl _ s)
    (by decide) (by decide)
  unfold State.stgChecked
  dsimp only
  exact only_ite (only_modMgt _ (only_modStg _ h (by decide)) (by decide)) (only_modStg _ h (by decide))

theorem stgChecked_host (fails : List FailEntry) : (s.stgChecked c p fails).host
    = if pf p 8 8 = 0 ∨ s.reportsHere c = false then s.host
      else memWrite s.host (pf p 8 8) ((fails.take (pf p 16 2)).flatMap FailEntry.bytes) := by
  unfold State.stgChecked State.reportFails
  simp only [Bool.not_eq_true']
  split <;> split <;> simp

/-- A check that writes no list to the host leaves the desk as it was. -/
theorem sameDesk_stgChecked {fails : List FailEntry} (h : pf p 8 8 = 0 ∨ fails = []) : SameDesk s (s.stgChecked c p fails) := by
  refine .of_parts (only_stgChecked fails) ?_ ?_
  · rw [stgChecked_host]
    rcases h with h | rfl
    · simp [h]
    · simp [memWrite]
  · unfold State.stgChecked State.reportFails
    dsimp only
    split <;> split <;> exact ⟨rfl, rfl⟩

end

/-! ### Completion entries in host memory -/

/-- A module without a twin completes a ring's command with its entry at the tail of the completion queue. -/
theorem complete_host {u : State} {c : Src} (op : Nat) (st : Status) (d : Nat) (at_ : DWord) (hpair : u.pair = false)
    (hr : c.ring.val < 128) : (u.complete c op st d at_).host
      = memWrite u.host (u.cqSlot c.ring) (cqEntry c op st d at_ (u.ring c.ring).sqHead (u.ring c.ring).phase) := by
  have hne : c.ring.val ≠ 128 := by omega
  have hentry := State.writeEntry_effect (u.dropCommand c) c op st d at_ hr
  have honly := only_writeEntry (ps := [.regs, .cmd, .host]) (u.dropCommand c) c op st d at_ (Only.refl _ _) (by decide) (by decide)
    (by decide)
  have hpair' : ((u.dropCommand c).writeEntry c op st d at_).pair = false := (pair_congr honly.keeps_live).trans hpair
  simp only [State.complete, hpair, hpair', Bool.false_and, Bool.false_eq_true, if_false, hne]
  exact hentry.1

/-- Outside the entry that it writes such a completion leaves host memory as it is. -/
theorem cellsRead_complete {u : State} {c : Src} (op : Nat) (st : Status) (d : Nat) (at_ : DWord) (hpair : u.pair = false)
    (hr : c.ring.val < 128) (hu : cellsRise u.host) {x : Nat} (hx : ¬ (u.cqSlot c.ring ≤ x ∧ x < u.cqSlot c.ring + 32)) :
    cellsRead memDefault (u.complete c op st d at_).host x = cellsRead memDefault u.host x := by
  rw [complete_host op st d at_ hpair hr]
  exact cellsRead_memWrite_other _ _ _ _ hu (by rw [length_cqEntry]; omega)

theorem length_flatMap_failBytes (l : List FailEntry) : (l.flatMap FailEntry.bytes).length = 8 * l.length := by
  induction l with
  | nil => rfl
  | cons x l ih =>
    have hx : x.bytes.length = 8 := by simp [FailEntry.bytes, length_leBytes]
    rw [List.flatMap_cons, List.length_append, ih, hx, List.length_cons]
    omega

theorem cqSlot_congr {s t : State} (hr : t.regs = s.regs) (hc : t.cmd.rings = s.cmd.rings) (r : Nat) : t.cqSlot r = s.cqSlot r := by
  simp only [State.cqSlot, State.reg, State.ring, hr, hc]

/-- R367: STG_CHECK writes host memory in its list of failures and its entry alone. -/
theorem cellsRead_stgCheck {s : State} {c : Src} {p : Bytes} {fails : List FailEntry} {x : Nat} (hs : s.storesCanonical)
    (hpair : s.pair = false) (hr : c.ring.val < 128)
    (hlist : ¬ (pf p 8 8 ≤ x ∧ x < pf p 8 8 + 8 * min (pf p 16 2) fails.length))
    (hslot : ¬ (s.cqSlot c.ring ≤ x ∧ x < s.cqSlot c.ring + 32)) :
    cellsRead memDefault (if fails = [] then ((s.took c).stgChecked c p fails).done c 0x0203
      else ((s.took c).stgChecked c p fails).refuse c 0x0203 .checkFail fails.length).host x = cellsRead memDefault s.host x := by
  have honly := only_stgChecked (s := s.took c) (c := c) (p := p) fails
  have hpair' : ((s.took c).stgChecked c p fails).pair = false := by rw [pair_congr honly.keeps_live, pair_took, hpair]
  have hslot' : ((s.took c).stgChecked c p fails).cqSlot c.ring = s.cqSlot c.ring :=
    cqSlot_congr (honly.keeps_regs.trans (by simp)) (by rw [honly.keeps_cmd, took_rings]) _
  have hhost := stgChecked_host (s := s.took c) (c := c) (p := p) fails
  rw [(only_took_cmd s c).keeps_host] at hhost
  have hrise : cellsRise ((s.took c).stgChecked c p fails).host := by
    rw [hhost]
    split
    · exact hs.hostRise
    · exact cellsRise_memWrite _ _ _ hs.hostRise
  have hread : cellsRead memDefault ((s.took c).stgChecked c p fails).host x = cellsRead memDefault s.host x := by
    rw [hhost]
    split
    · rfl
    · refine cellsRead_memWrite_other _ _ _ _ hs.hostRise ?_
      rw [length_flatMap_failBytes, List.length_take]
      omega
  rw [← hread]
  split
  · exact cellsRead_complete _ _ _ _ hpair' hr hrise (hslot' ▸ hslot)
  · exact cellsRead_complete _ _ _ _ hpair' hr hrise (hslot' ▸ hslot)

/-- Settles O14: STG_WRITE and STG_CHECK by their branches; only the stage, the answer and the list of failures change. -/
theorem stageWritesAndChecks : Obligations.StageWritesAndChecks := by
  refine ⟨?written, ?refusedEntry, ?noToken, ?pending, ?passed, ?failed, ?listed⟩
  case written =>
    intro c p f s hs hadm hholds hpend hpos hmax hlen hf
    refine ⟨_, congrArg Host.Outcome.next (obey_of_admits hadm _), ?_⟩
    rw [stgWrite_ok (by simpa) (by simpa) hpos hmax hlen (by simpa using hf)]
    exact ⟨by simp [State.stageWrote], by simp [State.stageWrote],
      answered_done hs ⟨rfl, rfl, ⟨rfl, rfl⟩, rfl, rfl, fun _ => rfl, fun _ => rfl⟩ (by simp [State.stageWrote])⟩
  case refusedEntry =>
    intro c p k s hs hadm hholds hpend hpos hmax hlen hf
    refine ⟨_, congrArg Host.Outcome.next (obey_of_admits hadm _), ?_⟩
    rw [stgWrite_error (by simpa) (by simpa) hpos hmax hlen (by simpa using hf)]
    exact ⟨by simp, answered_refuse hs (SameDesk.refl _)⟩
  case noToken =>
    intro c p s hs hadm hholds
    refine ⟨_, congrArg Host.Outcome.next (obey_of_admits hadm _), ?_⟩
    rw [show (s.took c).stgWrite c p = (s.took c).refuse c 0x0202 .stageBusy 0 by simp [State.stgWrite, hholds]]
    exact ⟨by simp, answered_refuse hs (SameDesk.refl _)⟩
  case pending =>
    intro c p s hs hadm hholds hpend
    refine ⟨_, congrArg Host.Outcome.next (obey_of_admits hadm _), ?_⟩
    rw [show (s.took c).stgWrite c p = (s.took c).refuse c 0x0202 .error 3 by simp [State.stgWrite, hholds, hpend]]
    exact ⟨by simp, answered_refuse hs (SameDesk.refl _)⟩
  case passed =>
    intro c p s hs hadm hholds hst hpend hf
    refine ⟨_, congrArg Host.Outcome.next (obey_of_admits hadm _), ?_⟩
    have honly := only_stgChecked (s := s.took c) (c := c) (p := p) []
    rw [stgCheck_eq (fails := []) (by simpa) (by simpa), if_pos rfl]
    exact ⟨by simp [stgChecked_stg, checkedStage, hst, hpend], by simp [honly.keeps_live],
      answered_done hs (sameDesk_stgChecked (.inr rfl)) (by simp [honly.keeps_nt])⟩
  case failed =>
    intro c p fails s hs hadm hholds hst hpend haddr hf hne
    refine ⟨_, congrArg Host.Outcome.next (obey_of_admits hadm _), ?_⟩
    have honly := only_stgChecked (s := s.took c) (c := c) (p := p) fails
    rw [stgCheck_eq (fails := fails) (by simpa) (by simpa), if_neg hne]
    exact ⟨by simp [stgChecked_stg, checkedStage, hst, hpend, hne], by simp [honly.keeps_live],
      answered_refuse hs (sameDesk_stgChecked (.inl haddr))⟩
  case listed =>
    intro c p fails s hs hadm hholds hpair hr haddr hf
    refine ⟨_, congrArg Host.Outcome.next (obey_of_admits hadm _), ?_⟩
    rw [stgCheck_eq (fails := fails) (by simpa) (by simpa)]
    exact ⟨by split <;> simp [stgChecked_stg, checkedStage], by split <;> simp [(only_stgChecked (s := s.took c) fails).keeps_live],
      fun x hlist hslot => cellsRead_stgCheck hs hpair hr hlist hslot⟩

end Sys2Proof.Machine
end

section
/-! STG_COMMIT and COMMIT_APPLY (R368 to R370): a stage goes live whole or not at all. -/

-- The proofs are elaborated one after the other: this bounds the threads of the compiler, whose stacks count as its memory.
set_option Elab.async false

namespace Sys2Proof.Machine

/-! ### The stage at its instant -/

/-- The parts that a commit may change besides the committed settings and the stage. -/
def commitParts : List Part :=
  [.free, .regs, .eng, .waits, .meas, .pwm, .gdl, .trp, .saf, .clk, .nt, .cmd, .ops, .log, .sec, .acq, .host, .twn, .mgt]

/-- R369: what a commit makes of the blocks leaves the stage alone, and the settings as the stage holds them. -/
theorem applyStage_eq (s : State) (nt : DWord) : ∃ w, Only commitParts { s with live := s.stg.stage } w ∧
    s.applyStage nt = w.modStg fun g => { g with st := .clean, lastNt := nt, committed := true } := by
  refine ⟨_, ?_, rfl⟩
  have h := Only.refl commitParts { s with live := s.stg.stage }
  simp (maxDischargeDepth := 200) +contextual +decide only [only_clkCommit, only_commitDec, only_commitEngines, only_commitStacks,
    only_countWrap, only_modEng, only_modSec, only_rhizomeCommit, only_safTakeSet, only_tbCommit, only_tripsStanding, only_forNums,
    only_ite, implies_true, h]

theorem applyStage_live_stg (s : State) (nt : DWord) : (s.applyStage nt).live = s.stg.stage ∧
    (s.applyStage nt).stg = { s.stg with st := .clean, lastNt := nt, committed := true } := by
  obtain ⟨w, honly, heq⟩ := applyStage_eq s nt
  rw [heq]
  exact ⟨honly.keeps_live, by rw [State.modStg, honly.keeps_stg]⟩

/-- R370: a stage that a rule fails at its instant stays as it is, FAILED, and nothing of it goes live. -/
theorem tryApply_of_fails {s : State} {f : Status × List FailEntry} (hst : s.stg.st ≠ .clean) (hf : s.commitFails = some f) (nt : DWord)
    (own : Bool) (addr cap : Nat) : (s.tryApply nt own addr cap).1.live = s.live ∧ (s.tryApply nt own addr cap).1.stg.st = .failed ∧
      (s.tryApply nt own addr cap).1.stg.stage = s.stg.stage ∧ (s.tryApply nt own addr cap).1.stg.pendings = s.stg.pendings := by
  obtain ⟨st, fails⟩ := f
  have hbusy (u : State) := only_busyStop u (Only.refl [.regs] u) (by decide)
  have hreport := only_reportFails (ps := [.stg, .host]) s own fails addr cap (Only.refl _ s) (by decide) (by decide)
  rw [State.tryApply, if_neg hst, hf]
  dsimp only
  split <;> split <;> simp [(hbusy _).keeps_live, (hbusy _).keeps_stg, hreport.keeps_live, reportFails_stg]

theorem tryApply_of_passes {s : State} (hst : s.stg.st ≠ .clean) (hf : s.commitFails = none) (nt : DWord)
    (own : Bool) (addr cap : Nat) : (s.tryApply nt own addr cap).1 = s.applyStage nt := by
  rw [State.tryApply, if_neg hst, hf]

/-- The stage with the commit of a command taken out of it. -/
def State.commitTaken (s : State) (p : PendCommit) : State :=
  s.modStg fun g => { g with pendings := g.pendings.filter fun x => !sameSrc x.src p.src }

theorem commitOnly_live_stg (s : State) (p : PendCommit) (nt : DWord) :
    (s.commitOnly p nt).live = ((s.commitTaken p).tryApply nt (s.reportsHere p.src) p.addr.toNat p.cap).1.live ∧
    (s.commitOnly p nt).stg = ((s.commitTaken p).tryApply nt (s.reportsHere p.src) p.addr.toNat p.cap).1.stg := by
  simp only [State.commitOnly, complete_fields]
  exact ⟨rfl, rfl⟩

theorem not_mem_commitTaken (s : State) (p : PendCommit) : p ∉ (s.commitTaken p).stg.pendings := by
  simp [State.commitTaken, sameSrc]

theorem commitNow_now (s : State) (p : PendCommit) (nt : DWord) : (s.commitNow p nt).now = s.now :=
  have h : Only (.live :: .stg :: .mgt :: commitParts) s (s.commitNow p nt) := by
    simp +decide only [only_commitNow, Only.refl]
  h.keeps_now

theorem batchesFirst_of_no_batches {s : State} (h : s.nt.batches = []) (n : Nat) : s.batchesFirst n = s := by
  have hdrop (k : Nat) : (s.modNt fun t => { t with batches := t.batches.drop k }) = s := by
    rw [State.modNt, h, List.drop_nil, ← h]
  simp only [State.batchesFirst, hdrop, h, List.take_nil, List.foldl_nil]

/-! ### STG_COMMIT -/

theorem only_mirror_twn (s : State) (c : Src) (op : Nat) (p : Bytes) (take : DWord) : Only [.twn] s (s.mirror c op p take) :=
  only_mirror s c op p take (Only.refl _ s) (by decide)

theorem acceptedAt_took (s : State) (c : Src) : (s.took c).acceptedAt c = s.acceptedAt c := by
  unfold State.acceptedAt State.took
  split
  · cases hcmd : s.mgt.cmd <;> simp [hcmd]
  · have hsrc : ((fun h : Handed => decide (h.src = c)) ∘ fun h => if h.src = c then { h with acted := true } else h)
        = fun h => decide (h.src = c) := by
      funext h
      simp only [Function.comp]
      split <;> simp_all
    simp only [State.modCmd, List.find?_map, hsrc, Option.map_map]
    congr 2
    funext h
    simp only [Function.comp]
    split <;> rfl

/-- The commit that waits after its command. -/
def pendingCommit (s : State) (c : Src) (p : Bytes) (take : Option DWord) : PendCommit :=
  { src := c, addr := BitVec.ofNat 64 (pf p 8 8), cap := pf p 16 2, engine := Fin.ofNat 8 (pb p 0), applyAt := c.applyAt
    acceptAt := s.acceptedAt c, takeIdx := take }

section
variable {s : State} {c : Src} {p : Bytes} {take : Option DWord} (hholds : s.holds (masterOf c) = true) (hpend : s.stg.pendings = [])
  (heng : pb p 0 < 8)
include hholds hpend heng

theorem stgCommit_clean (hst : s.stg.st = .clean) : s.stgCommit c p take = s.done c 0x0204 1 := by
  simp [State.stgCommit, hholds, hpend, show ¬ 7 < pb p 0 by omega, hst]

section
variable (hst : s.stg.st ≠ .clean)
include hst

/-- R429: on a module strapped as arbiter the stage goes live at once. -/
theorem stgCommit_strapped (harb : s.arb.strapped = true) : s.stgCommit c p take =
    ({ s with live := s.stg.stage }.modStg fun g => { g with st := .clean }).done c 0x0204 := by
  simp [State.stgCommit, hholds, hpend, show ¬ 7 < pb p 0 by omega, hst, harb]

section
variable (harb : s.arb.strapped = false) {fails : List FailEntry} (hf : s.checkAll s.stg.stage s.stg.images = fails)
include harb hf

theorem stgCommit_fails (hne : fails ≠ []) : s.stgCommit c p take =
    ((s.reportFails (s.reportsHere c) fails (pf p 8 8) (pf p 16 2)).modStg fun g => { g with st := .failed }).refuse c 0x0204
      .checkFail fails.length := by
  simp [State.stgCommit, hholds, hpend, show ¬ 7 < pb p 0 by omega, hst, harb, hf, hne]

end

/-- R368: a stage that passes is CHECKED, and its commit waits. -/
theorem stgCommit_waits (harb : s.arb.strapped = false) (hf : s.checkAll s.stg.stage s.stg.images = []) :
    (s.stgCommit c p take).stg = { s.stg with fails := [], st := .checked, pendings := [pendingCommit s c p take] } ∧
    (s.stgCommit c p take).live = s.live ∧ (s.stgCommit c p take).host = s.host := by
  have hhost : (s.reportFails (s.reportsHere c) [] (pf p 8 8) (pf p 16 2)).host = s.host := by
    unfold State.reportFails
    dsimp only
    split <;> simp [State.hostWrite, memWrite]
  have hreport := only_reportFails (ps := [.stg, .host]) s (s.reportsHere c) [] (pf p 8 8) (pf p 16 2) (Only.refl _ s) (by decide)
    (by decide)
  generalize hr : s.reportFails (s.reportsHere c) [] (pf p 8 8) (pf p 16 2) = r at hhost hreport
  have hmirror := only_mirror_twn r c 0x0204 p (take.getD 0)
  have hstg : r.stg = { s.stg with fails := [] } := by rw [← hr, reportFails_stg]
  have hat : (r.mirror c 0x0204 p (take.getD 0)).acceptedAt c = s.acceptedAt c := by
    simp only [State.acceptedAt, hmirror.keeps_mgt, hmirror.keeps_cmd, hmirror.keeps_now, hreport.keeps_mgt, hreport.keeps_cmd,
      hreport.keeps_now]
  have hact : s.stgCommit c p take = (r.mirror c 0x0204 p (take.getD 0)).modStg fun g => { g with
      st := .checked, pendings := g.pendings ++ [pendingCommit s c p take] } := by
    have hfew : ¬ 7 < pb p 0 := by omega
    simp only [State.stgCommit, hholds, hpend, hfew, hst, harb, hf, hr, hat, pendingCommit, Bool.not_true, Bool.false_eq_true, ne_eq,
      not_true_eq_false, if_false]
  rw [hact]
  generalize r.mirror c 0x0204 p (take.getD 0) = m at hmirror
  simp [hmirror.keeps_stg, hstg, hmirror.keeps_live, hreport.keeps_live, hmirror.keeps_host, hhost, hpend]

end
end

/-- R370, R368: with a commit whose instant has come, what becomes of the stage is what becomes of it after the batches of the spores
accepted before. -/
theorem commitNow_of_pending {s u : State} {p : PendCommit} (nt : DWord) (hu : u = s.batchesFirst p.acceptAt)
    (hpend : (u.stg.pendings.any fun x => sameSrc x.src p.src) = true) : s.commitNow p nt = u.commitOnly p nt := by
  rw [State.commitNow, ← hu, if_pos hpend]

theorem execCommitApply_of_idle {s : State} {p : PendCommit} {n : Nat} (hctl : s.ctlRuns = true) (hidle : s.idleCommit = some (p, n)) :
    execCommitApply s = .next ((s.advanceTo n).toTick.commitNow p (s.advanceTo n).toTick.nt64) := by
  simp only [execCommitApply, hctl, hidle]

theorem commitApply_now (s : State) (p : PendCommit) (n : Nat) (nt : DWord) :
    n ≤ ((s.advanceTo n).toTick.commitNow p nt).now ∧ ((s.advanceTo n).toTick.commitNow p nt).now % 32 = 0 := by
  have hn : n ≤ (s.advanceTo n).now := by simp
  rw [commitNow_now, State.toTick, now_advanceTo]
  unfold ctlTick
  omega

/-- Settles O15: STG_COMMIT by its branches; at the instant the stage goes live, or stays FAILED. -/
theorem commitsApplyWhole : Obligations.CommitsApplyWhole := by
  refine ⟨?waits, ?fails, ?clean, ?strapped, ?applies, ?failsAtInstant, fun n s h => batchesFirst_of_no_batches h n, ?unlocked⟩
  case waits =>
    intro c p s hs hadm hholds hpend heng hst harb hf
    refine ⟨_, congrArg Host.Outcome.next (obey_of_admits hadm _), ?_⟩
    obtain ⟨hstg, hlive, hhost⟩ := stgCommit_waits (s := s.took c) (take := (s.took c).controlTake c 0x0204 p) (by simpa) (by simpa) heng
      (by simpa) (by simpa) (by simpa)
    refine ⟨⟨pendingCommit (s.took c) c p ((s.took c).controlTake c 0x0204 p), by simpa using hstg, rfl, ?_, rfl, acceptedAt_took s c⟩, hlive.trans (by simp), hostSame_of (hhost.trans (by simp))⟩
    exact Nat.mod_eq_of_lt heng
  case fails =>
    intro c p fails s hs hadm hholds hpend heng hst harb haddr hf hne
    refine ⟨_, congrArg Host.Outcome.next (obey_of_admits hadm _), ?_⟩
    rw [stgCommit_fails (by simpa) (by simpa) heng (by simpa) (by simpa) (fails := fails) (by simpa) hne]
    have hreport : (s.took c).reportFails ((s.took c).reportsHere c) fails (pf p 8 8) (pf p 16 2)
        = (s.took c).modStg fun g => { g with fails := fails } := by simp [State.reportFails, haddr]
    rw [hreport]
    exact ⟨by simp, by simp, answered_refuse hs ⟨rfl, rfl, ⟨rfl, rfl⟩, rfl, rfl, fun _ => rfl, fun _ => rfl⟩⟩
  case clean =>
    intro c p s hs hadm hholds hpend heng hst
    refine ⟨_, congrArg Host.Outcome.next (obey_of_admits hadm _), ?_⟩
    rw [stgCommit_clean (by simpa) (by simpa) heng (by simpa)]
    exact ⟨by simp, by simp, answered_done hs (SameDesk.refl _) (by simp)⟩
  case strapped =>
    intro c p s hs hadm hholds hpend heng hst harb hpair
    refine ⟨_, congrArg Host.Outcome.next (obey_of_admits hadm _), ?_⟩
    rw [stgCommit_strapped (by simpa) (by simpa) heng (by simpa) (by simpa)]
    refine ⟨by simp, by simp, answered_done hs ⟨rfl, rfl, ⟨rfl, rfl⟩, rfl, ?_, fun _ => rfl, fun _ => rfl⟩ (by simp)⟩
    rw [pair_took, ← hpair]
    exact pair_congr (by simp)
  case applies =>
    intro p n u s hs hctl hidle hu hpend hst hpass
    refine ⟨_, execCommitApply_of_idle hctl hidle, ?_⟩
    have hnow := commitApply_now s p n (s.advanceTo n).toTick.nt64
    obtain ⟨hlive, hstg⟩ := commitOnly_live_stg u p (s.advanceTo n).toTick.nt64
    rw [tryApply_of_passes (s := u.commitTaken p) hst hpass] at hlive hstg
    rw [commitNow_of_pending _ hu hpend] at hnow ⊢
    obtain ⟨hl, hg⟩ := applyStage_live_stg (u.commitTaken p) (s.advanceTo n).toTick.nt64
    beta_reduce
    rw [hlive, hstg, hl, hg]
    exact ⟨rfl, rfl, rfl, not_mem_commitTaken u p, hnow⟩
  case failsAtInstant =>
    intro p n f u s hs hctl hidle hu hpend hst hfail
    refine ⟨_, execCommitApply_of_idle hctl hidle, ?_⟩
    have hnow := commitApply_now s p n (s.advanceTo n).toTick.nt64
    obtain ⟨hlive, hstg⟩ := commitOnly_live_stg u p (s.advanceTo n).toTick.nt64
    obtain ⟨hl, hfailed, hstage, hpends⟩ := tryApply_of_fails (s := u.commitTaken p) hst hfail (s.advanceTo n).toTick.nt64
      (u.reportsHere p.src) p.addr.toNat p.cap
    rw [commitNow_of_pending _ hu hpend] at hnow ⊢
    beta_reduce
    rw [hlive, hstg, hl, hfailed, hstage, hpends]
    exact ⟨rfl, rfl, rfl, not_mem_commitTaken u p, hnow⟩
  case unlocked =>
    intro s hctl
    simp [exec, execCommitApply, hctl]

end Sys2Proof.Machine
end

section
/-! The registers that a completion reads: the completion queues' addresses and the rings' settings stand in one range of BAR0, which the
operations of the gate drive, of the event log and of the operating states leave alone. -/

-- The proofs are elaborated one after the other: this bounds the threads of the compiler, whose stacks count as its memory.
set_option Elab.async false

namespace Sys2Proof.Machine

/-- The range of BAR0 that holds the registers of the rings (section "Registers" of chapter 12), and GLB_SELFTEST and TWN_SWITCH_CNT, which
the entries to HALTED and STOPPING leave alone as well. -/
def onDesk (a : Nat) : Prop := a = 0x408 ∨ 0x11000 ≤ a ∧ a < 0x13100 ∨ a = 0x110010

/-- A row behind the rings none of whose registers is TWN_SWITCH_CNT. -/
def RegRow.offDesk (x : RegRow) : Bool := decide (0x13100 ≤ x.base) &&
  decide (0x110010 < x.base ∨ x.s1 = 0 ∧ x.s2 = 0 ∧ x.base ≠ 0x110010 ∨ x.s1 % 32 = 0 ∧ x.s2 % 32 = 0 ∧ x.base % 32 ≠ 16)

/-- The registers of a set stay as they are. -/
def RegsKept (A : Nat → Prop) (s t : State) : Prop :=
  cellsRise s.regs → cellsRise t.regs ∧ ∀ r i j, A (regAddr r i j) → t.reg r i j = s.reg r i j

/-- The registers of the rings, GLB_SELFTEST and TWN_SWITCH_CNT stay as they are. -/
abbrev DeskRegs : State → State → Prop := RegsKept onDesk

section
variable {A : Nat → Prop} {s0 s t : State}

theorem RegsKept.refl (s : State) : RegsKept A s s := fun h => ⟨h, fun _ _ _ _ => rfl⟩

theorem kept_of_regs (ht : t.regs = s.regs) (h : RegsKept A s0 s) : RegsKept A s0 t := fun h0 => by
  unfold State.reg
  rw [ht]
  exact h h0

theorem kept_of_only {l : List Part} (ht : Only l s t) (h : RegsKept A s0 s) (hl : .regs ∉ l := by decide) : RegsKept A s0 t :=
  kept_of_regs (ht.keeps_regs hl) h

theorem kept_ite {c : Prop} [Decidable c] (hs : RegsKept A s0 s) (ht : RegsKept A s0 t) : RegsKept A s0 (if c then s else t) := by
  split <;> assumption

theorem kept_foldl {α : Type} (xs : List α) (f : State → α → State) (hf : ∀ u, ∀ x ∈ xs, RegsKept A s0 u → RegsKept A s0 (f u x))
    (h : RegsKept A s0 s) : RegsKept A s0 (xs.foldl f s) := by
  induction xs generalizing s with
  | nil => exact h
  | cons x xs ih => exact ih (fun u y hy => hf u y (List.mem_cons_of_mem _ hy)) (hf s x (List.mem_cons_self ..) h)

theorem kept_forNums (xs : List Nat) (f : Nat → State → State) (hf : ∀ i u, RegsKept A s0 u → RegsKept A s0 (f i u))
    (h : RegsKept A s0 s) : RegsKept A s0 (forNums xs f s) := kept_foldl xs _ (fun u x _ hu => hf x u hu) h

/-- A register outside the range. -/
theorem kept_setReg (r : Reg) (i j : Nat) (v : DWord) (h : RegsKept A s0 s) (hr : ¬ A (regAddr r i j)) :
    RegsKept A s0 (s.setReg r i j v) := fun h0 => by
  obtain ⟨hrise, hregs⟩ := h h0
  refine ⟨cellsRise_write hrise, fun r' i' j' ha => ?_⟩
  rw [← hregs r' i' j' ha]
  exact regGet_regSet_other hrise r r' i j i' j' v fun he => hr (he ▸ ha)

section
variable (r : Reg) (i j n v : Nat) (h : RegsKept A s0 s)
include h

theorem kept_setRegN (hr : ¬ A (regAddr r i j)) : RegsKept A s0 (s.setRegN r i j v) := kept_setReg r i j _ h hr
theorem kept_count (hr : ¬ A (regAddr r i 0)) : RegsKept A s0 (s.count r i n) := kept_setReg r i 0 _ h hr
theorem kept_setFlag (hr : ¬ A (regAddr r i 0)) : RegsKept A s0 (s.setFlag r i n) := kept_setReg r i 0 _ h hr

end

/-- No register of such a row stands in the range. -/
theorem not_onDesk_of_base {r : Reg} (h : r.row.offDesk = true) (i j : Nat) : ¬ onDesk (regAddr r i j) := by
  simp only [RegRow.offDesk, Bool.and_eq_true, decide_eq_true_eq] at h
  obtain ⟨hbase, happart⟩ := h
  unfold onDesk regAddr
  rcases happart with hover | ⟨h1, h2, hne⟩ | ⟨h1, h2, hne⟩
  · omega
  · rw [h1, h2]
    omega
  · have hi : i * r.row.s1 % 32 = 0 := by rw [Nat.mul_mod, h1]; rfl
    have hj : j * r.row.s2 % 32 = 0 := by rw [Nat.mul_mod, h2]; rfl
    omega

end

/-! ### Turning channels off -/

section
variable {s0 s : State} (n at_ k : Nat) (one : Bool) (h : DeskRegs s0 s)
include h

theorem desk_askRise : DeskRegs s0 (s.askRise n at_) := kept_of_only (l := [.pwm, .gdl, .trp])
  (only_askRise s n at_ (Only.refl _ s) (by decide) (by decide) (by decide)) h

theorem desk_chanOff : DeskRegs s0 (s.chanOff n at_) := kept_of_only (l := [.pwm]) (only_chanOff s n at_ (Only.refl _ s) (by decide)) h

theorem desk_gcFall : DeskRegs s0 (s.gcFall n at_) := kept_of_only (l := [.pwm]) (only_gcFall s n at_ (Only.refl _ s) (by decide)) h

theorem desk_modChan (f : Chan → Chan) : DeskRegs s0 (s.modChan n f) :=
  kept_of_only (l := [.pwm]) (only_modChan n f (Only.refl _ s) (by decide)) h

/-- The drop of a rise at an overlap's end counts, in a register of the timebase. -/
theorem desk_endOverlap : DeskRegs s0 (s.endOverlap n at_) := by
  have h' : DeskRegs s0 { s with pwm := { s.pwm with overlap := vset s.pwm.overlap (pairOf n) false } } := kept_of_regs rfl h
  unfold State.endOverlap
  simp (maxDischargeDepth := 20) +decide only [kept_ite, desk_askRise, kept_count, not_onDesk_of_base, desk_modChan, h', not_false_eq_true]

theorem desk_lvlOff : DeskRegs s0 (s.lvlOff n at_) :=
  have h' := desk_chanOff n at_ (desk_modChan n h fun c => { c with lvl := false, cut := false })
  kept_ite (desk_endOverlap n at_ h') h'

theorem desk_turnOffChan : DeskRegs s0 (s.turnOffChan n at_ one) := by
  unfold State.turnOffChan State.forceLow State.innerLater
  exact kept_ite (kept_ite (desk_lvlOff n at_ (desk_modChan n (desk_modChan n h _) _)) (desk_gcFall n at_ (desk_modChan n h _)))
    (desk_modChan n (desk_modChan n h _) _)

theorem desk_beginTurnOff : DeskRegs s0 (s.beginTurnOff k at_ one) :=
  kept_forNums _ _ (fun n _ hu => desk_turnOffChan n at_ one hu) h

theorem desk_turnOffAll : DeskRegs s0 (s.turnOffAll one) := by
  refine kept_forNums _ _ (fun k u hu => ?_) (kept_forNums _ _ (fun k _ hu => desk_beginTurnOff _ k one hu) h)
  exact kept_of_only (l := [.gdl]) (only_sendTrip u k (Only.refl _ u) (by decide)) hu

end

end Sys2Proof.Machine
end

section
/-! FRD_GRAPH_LOAD, STG_SAVE, STG_RECOVER and CONFIG_BLOCK_WRITE_COMPLETE (R75, R373, R374, R458). -/

-- The proofs are elaborated one after the other: this bounds the threads of the compiler, whose stacks count as its memory.
set_option Elab.async false

namespace Sys2Proof.Machine

theorem Only.mono {l l' : List Part} {s t : State} (h : Only l s t) (hl : ∀ p ∈ l, p ∈ l') : Only l' s t :=
  fun p hp => h p fun hmem => hp (hl p hmem)

theorem Only.trans {l l' : List Part} {s t u : State} (h : Only l s t) (h' : Only l' t u) (hl : ∀ p ∈ l, p ∈ l') : Only l' s u := by
  intro p hp
  have hst := h.mono hl p hp
  have htu := h' p hp
  cases p <;> exact Eq.trans htu hst

theorem regsRise_of_storesCanonical {s : State} (h : s.storesCanonical) : cellsRise s.regs := by
  obtain ⟨-, -, -, hregs, -⟩ := h
  exact hregs

theorem leNat_lt (bs : Bytes) : leNat bs < 256 ^ bs.length := by
  induction bs with
  | nil => exact Nat.one_pos
  | cons b bs ih =>
    have hb := b.isLt
    rw [leNat, List.length_cons, pow_succ]
    omega

/-- A field of up to eight bytes fits a 64-bit word. -/
theorem toNat_pf {p : Bytes} {o n : Nat} (hn : n ≤ 8) : (BitVec.ofNat 64 (pf p o n)).toNat = pf p o n := by
  have hlen : ((p.drop o).take n).length ≤ 8 := (List.length_take_le _ _).trans hn
  have hlt : pf p o n < 256 ^ 8 := (leNat_lt _).trans_le (Nat.pow_le_pow_right (by omega) hlen)
  exact Nat.mod_eq_of_lt hlt

/-! ### Mirrored images -/

theorem sendItems_role (n : Nat) (s : State) : (State.sendItems n s).twn.role = s.twn.role := by
  induction n generalizing s with
  | zero => rfl
  | succ n ih =>
    unfold State.sendItems
    split
    · rfl
    · dsimp only
      split
      · rw [ih]; rfl
      · rfl

@[simp] theorem mirror_role (s : State) (c : Src) (op : Nat) (p : Bytes) (take : DWord) :
    (s.mirror c op p take).twn.role = s.twn.role := by
  unfold State.mirror
  split
  · exact sendItems_role _ _
  · rfl

theorem mirrorBytes_role (n : Nat) (s : State) (c : Src) (bs : Bytes) : (State.mirrorBytes n s c bs).twn.role = s.twn.role := by
  induction n generalizing s bs with
  | zero => rfl
  | succ n ih =>
    unfold State.mirrorBytes
    split
    · rfl
    · rw [ih, mirror_role]

theorem SameDesk.trans {s t u : State} (h : SameDesk s t) (h' : SameDesk t u) : SameDesk s u where
  host := h'.host.trans h.host
  cmd := h'.cmd.trans h.cmd
  mgt := ⟨h'.mgt.1.trans h.mgt.1, h'.mgt.2.trans h.mgt.2⟩
  role := h'.role.trans h.role
  pair := h'.pair.trans h.pair
  base r := (h'.base r).trans (h.base r)
  cfg r := (h'.cfg r).trans (h.cfg r)

theorem onDesk_cqBase (r : Fin 129) : onDesk (regAddr .cmdCqBase r 0) := by
  have h : regAddr .cmdCqBase r 0 = 0x11008 + r * 0x40 := rfl
  unfold onDesk
  omega

theorem onDesk_ringCfg (r : Fin 129) : onDesk (regAddr .cmdRingCfg r 0) := by
  have h : regAddr .cmdRingCfg r 0 = 0x11010 + r * 0x40 := rfl
  unfold onDesk
  omega

/-- The registers of the rings are those that a completion reads. -/
theorem SameDesk.of_desk {l : List Part} {s u : State} (h : Only l s u) (hregs : DeskRegs s u) (hs : cellsRise s.regs)
    (hl : ∀ p ∈ [Part.host, .mgt, .cmd, .twn, .live], p ∉ l := by decide) : SameDesk s u where
  host := h.keeps_host (hl _ (by decide))
  cmd := h.keeps_cmd (hl _ (by decide))
  mgt := by rw [h.keeps_mgt (hl _ (by decide))]; exact ⟨rfl, rfl⟩
  role := by rw [h.keeps_twn (hl _ (by decide))]
  pair := pair_congr (h.keeps_live (hl _ (by decide)))
  base r := (hregs hs).2 _ _ _ (onDesk_cqBase r)
  cfg r := (hregs hs).2 _ _ _ (onDesk_ringCfg r)

/-- A command that is mirrored finds what it acts on as it was, and the twin's role with it. -/
theorem mirrorRead_took (s : State) (c : Src) (op : Nat) (p : Bytes) (bs : Option Bytes) :
    Only [.cmd, .mgt, .twn] s ((s.took c).mirrorRead c op p bs) ∧ SameDesk (s.took c) ((s.took c).mirrorRead c op p bs) := by
  have h := only_mirrorRead (ps := [.twn]) (s.took c) c op p bs (Only.refl _ _) (by decide)
  refine ⟨(only_took_cmd s c).trans (h.mono (by simp)) (by simp), h.keeps_host, h.keeps_cmd, ?_, ?_,
    pair_congr h.keeps_live, fun r => ?_, fun r => ?_⟩
  · rw [h.keeps_mgt]; exact ⟨rfl, rfl⟩
  · simp only [State.mirrorRead, mirror_role, mirrorBytes_role]
  · rw [State.reg, h.keeps_regs, State.reg]
  · rw [State.reg, h.keeps_regs, State.reg]

/-! ### What a mirrored command is judged by -/

section
variable {s u : State} (h : Only [.cmd, .mgt, .twn] s u)
include h

theorem imageCheck_of_only (bs : Bytes) (n : Nat) : u.imageCheck bs n = s.imageCheck bs n := by
  rw [eq_desk_of_only h, imageCheck_desk]

theorem blockRefusal_of_only (bs : Bytes) : u.blockRefusal bs = s.blockRefusal bs := by rw [eq_desk_of_only h, blockRefusal_desk]

theorem holds_of_only (m : Master) : u.holds m = s.holds m := by rw [State.holds, State.holds, h.keeps_stg]

theorem stagePending_of_only : u.stagePending = s.stagePending := by
  rw [State.stagePending, State.stagePending, State.commitSpore, State.commitSpore, h.keeps_stg, h.keeps_nt]

end

/-! ### Images -/

/-- Staging an image for the engines of a list puts it there and leaves every other engine its own. -/
theorem vget_foldl_vset {α : Type} {n : Nat} (d a : α) (es : List Nat) (v : Vector α n) (e : Nat) (he : e < n) :
    vget (es.foldl (fun v i => vset v i a) v) e d = if e ∈ es then a else vget v e d := by
  induction es generalizing v with
  | nil => simp
  | cons i es ih =>
    rw [List.foldl_cons, ih]
    by_cases hmem : e ∈ es
    · simp [hmem]
    · by_cases hi : e = i
      · subst hi
        simp [hmem, vget_vset_same _ _ _ _ he]
      · simp [hmem, hi, vget_vset_other _ _ _ _ _ hi]

theorem mem_bitsIn (n m i : Nat) : i ∈ bitsIn n m ↔ i < n ∧ m.testBit i = true := by simp [bitsIn]

section
variable {s : State} {c : Src} {p : Bytes} (hmask : pb p 0 ≠ 0)
include hmask

theorem graphLoad_noToken {image : Option Bytes} (hholds : s.holds (masterOf c) = false) :
    s.graphLoad c p image = s.refuse c 0x0910 .stageBusy 0 := by
  simp [State.graphLoad, hmask, hholds]

section
variable (hholds : s.holds (masterOf c) = true)
include hholds

theorem graphLoad_pending {image : Option Bytes} (hpend : s.stagePending = true) :
    s.graphLoad c p image = s.refuse c 0x0910 .error 3 := by
  simp [State.graphLoad, hmask, hholds, hpend]

variable (hpend : s.stagePending = false)
include hpend

theorem graphLoad_unread : s.graphLoad c p none = s.refuse c 0x0910 .error 0x80000010 := by
  simp [State.graphLoad, hmask, hholds, hpend]

theorem graphLoad_error {bs : Bytes} {st : Status} {d : Nat} (himg : s.imageCheck bs (pf p 16 4) = .error (st, d)) :
    s.graphLoad c p (some bs) = s.refuse c 0x0910 st d := by
  simp [State.graphLoad, hmask, hholds, hpend, himg]

theorem graphLoad_ok {bs : Bytes} {img : Image} (himg : s.imageCheck bs (pf p 16 4) = .ok img) :
    s.graphLoad c p (some bs) = (s.stageWrote (bitsIn 8 (pb p 0)).length
      ((bitsIn 8 (pb p 0)).foldl (fun f e => stageImage f e img) s.stg.stage)
      ((bitsIn 8 (pb p 0)).foldl (fun v e => vset v e (some img)) s.stg.images)).done c 0x0910 := by
  simp [State.graphLoad, hmask, hholds, hpend, himg]

end
end

/-! ### Written blocks -/

section
variable {s : State} {c : Src} {p bs : Bytes}

theorem stgSave_ok (h : s.blockRefusal (padTo (pf p 16 4) bs) = none) :
    s.stgSave c p (some bs) = s.blockWrite c (padTo (pf p 16 4) bs) false := by
  simp only [State.stgSave, h]

theorem stgSave_refused {x : Status × Nat} (h : s.blockRefusal (padTo (pf p 16 4) bs) = some x) :
    s.stgSave c p (some bs) = s.refuse c 0x0205 x.1 x.2 := by
  simp only [State.stgSave, h]

theorem stgRecover_long (h : 8388608 < pf p 0 4) : s.stgRecover c p = s.refuse c 0x0206 .checkFail 1 := if_pos h

section
variable (hlen : pf p 0 4 ≤ 8388608)
include hlen

theorem stgRecover_crc (h : crc32c (memRead s.dram recBase (pf p 0 4)) ≠ pf p 4 4) :
    s.stgRecover c p = s.refuse c 0x0206 .checkFail 3 := by
  simp only [State.stgRecover, show ¬ 8388608 < pf p 0 4 by omega, h, ne_eq, not_false_eq_true, if_true, if_false]

variable (hcrc : crc32c (memRead s.dram recBase (pf p 0 4)) = pf p 4 4)
include hcrc

theorem stgRecover_ok (h : s.blockRefusal (memRead s.dram recBase (pf p 0 4)) = none) :
    s.stgRecover c p = s.blockWrite c (memRead s.dram recBase (pf p 0 4)) true := by
  simp only [State.stgRecover, show ¬ 8388608 < pf p 0 4 by omega, hcrc, h, ne_eq, not_true_eq_false, if_false]

theorem stgRecover_refused {x : Status × Nat} (h : s.blockRefusal (memRead s.dram recBase (pf p 0 4)) = some x) :
    s.stgRecover c p = s.refuse c 0x0206 x.1 x.2 := by
  simp only [State.stgRecover, show ¬ 8388608 < pf p 0 4 by omega, hcrc, h, ne_eq, not_true_eq_false, if_false]

end
end

theorem only_nandTurn_log (s : State) : Only [.log] s s.nandTurn := by
  unfold State.nandTurn
  exact only_ite (only_logFlush s (Only.refl _ s) (by decide)) (Only.refl _ s)

/-- Where not both channels release, or where nothing is armed, a change of the release turns channels off at most. -/
theorem safUpdate_eq {s : State} (h : (s.saf.chA.rel && s.saf.chB.rel) = false ∨ s.ops.st = .idle ∨ s.ops.st = .halted) :
    s.safUpdate = s.safJudge ∨ s.safUpdate = s.safJudge.turnOffAll false := by
  have hops : s.safJudge.ops = s.ops := (only_safJudge (ps := [.saf]) s (Only.refl _ s) (by decide)).keeps_ops
  unfold State.safUpdate
  dsimp only
  rw [hops]
  rcases h with h | h | h <;> simp only [h, Bool.false_and, Bool.false_eq_true, if_false] <;> split <;> (try split) <;> simp

/-- The state in which both copies hold a block, before the safety channels judge it. -/
def State.copiesWritten (s : State) (w : CfgWrite) : State :=
  s.nandTurn.modStg fun g => { g with
    writes := g.writes.drop 1, copy0 := some w.block, copy1 := some w.block, copy0Ok := true, copy1Ok := true
    defaulted := g.defaulted && w.recover }

section
variable {s : State} {w : CfgWrite}
  (h : (s.saf.chA.rel && s.saf.chB.rel) = false ∨ s.ops.st = .idle ∨ s.ops.st = .halted)
include h

theorem blockWritten_effect : Only [.log, .stg, .saf, .regs, .pwm, .gdl, .trp] s (s.blockWritten w) ∧ DeskRegs s (s.blockWritten w) ∧
    (s.blockWritten w).stg = (s.copiesWritten w).stg := by
  have hlog := only_nandTurn_log s
  have hcopies : Only [.log, .stg, .saf, .regs, .pwm, .gdl, .trp] s (s.copiesWritten w) :=
    only_modStg _ (fun q hq => hlog q (by simp_all)) (by decide)
  have hjudge := only_safJudge _ hcopies (by decide)
  have hdesk : DeskRegs s (s.copiesWritten w).safJudge := kept_of_regs (s := s)
    ((only_safJudge (ps := [.saf]) (s.copiesWritten w) (Only.refl _ _) (by decide)).keeps_regs.trans hlog.keeps_regs) (.refl s)
  have hstg := (only_safJudge (ps := [.saf]) (s.copiesWritten w) (Only.refl _ _) (by decide)).keeps_stg
  rcases safUpdate_eq (s := s.copiesWritten w) (by
    rw [show (s.copiesWritten w).saf = s.saf from hlog.keeps_saf, show (s.copiesWritten w).ops = s.ops from hlog.keeps_ops]
    exact h) with heq | heq
  · rw [show s.blockWritten w = (s.copiesWritten w).safJudge from heq]
    exact ⟨hjudge, hdesk, hstg⟩
  · rw [show s.blockWritten w = (s.copiesWritten w).safJudge.turnOffAll false from heq]
    refine ⟨only_turnOffAll _ false hjudge (by decide) (by decide) (by decide) (by decide), desk_turnOffAll false hdesk, ?_⟩
    rw [(only_turnOffAll (ps := [.regs, .pwm, .gdl, .trp]) _ false (Only.refl _ _) (by decide) (by decide) (by decide)
      (by decide)).keeps_stg, hstg]

end

/-! ### Entering a state -/

/-- The parts that entering a state may change. -/
def enterParts : List Part := [.regs, .ops, .log, .twn, .mgt]

theorem only_enter_state (s : State) (dst : OpState) (cause : Nat) : Only enterParts s (s.enter dst cause) :=
  only_enter s dst cause (Only.refl _ s) (by decide) (by decide) (by decide) (by decide) (by decide)

theorem enter_ops (s : State) (dst : OpState) (cause : Nat) :
    (s.enter dst cause).ops = { s.ops with st := dst, prev := s.ops.st.code, cause := cause, stateNt := s.nt64 } := by
  unfold State.enter
  dsimp only
  rw [(only_mirror_twn _ _ _ _ _).keeps_ops, (only_notify (ps := [.mgt]) _ (Only.refl _ _) (by decide)).keeps_ops,
    (only_note (ps := [.regs, .log]) _ _ _ _ _ (Only.refl _ _) (by decide) (by decide)).keeps_ops]
  rfl

/-- R459: a reset of the main side enters BOOT with its cause; the stored blocks stay, and the resets count. -/
theorem mainReset_effect (s : State) (cause : Nat) : (s.mainReset cause).stg.copy0 = s.stg.copy0 ∧
    (s.mainReset cause).stg.copy1 = s.stg.copy1 ∧ (s.mainReset cause).ops.st = .boot ∧ (s.mainReset cause).ops.cause = cause ∧
    (s.mainReset cause).sec.resetCnt = satInc s.sec.resetCnt := by
  have h (u : State) := only_enter_state u .boot cause
  simp only [State.mainReset, enter_ops, (h _).keeps_stg, (h _).keeps_sec]
  exact ⟨rfl, rfl, trivial, trivial, rfl⟩

theorem only_refuseCommits (l : List PendCommit) (s : State) :
    Only answerParts s (l.foldl (fun s p => s.refuse p.src 0x0204 .error 4) s) :=
  only_foldl l _ (fun u p h => only_complete u p.src 0x0204 .error 4 0 h (by decide) (by decide) (by decide) (by decide) (by decide))
    (Only.refl _ s)

theorem mgtReset_effect (s : State) (c : Src) : (s.mgtReset c).stg.copy0 = s.stg.copy0 ∧ (s.mgtReset c).stg.copy1 = s.stg.copy1 ∧
    (s.mgtReset c).ops.st = .boot ∧ (s.mgtReset c).ops.cause = 6 ∧ (s.mgtReset c).sec.resetCnt = satInc s.sec.resetCnt := by
  have hcommits := only_refuseCommits s.stg.pendings (s.modStg fun g => { g with pendings := [] })
  have hreset := mainReset_effect (s.stg.pendings.foldl (fun s p => s.refuse p.src 0x0204 .error 4)
    (s.modStg fun g => { g with pendings := [] })) 6
  rw [hcommits.keeps_stg, hcommits.keeps_sec] at hreset
  unfold State.mgtReset
  dsimp only
  split
  · simp only [done_fields]
    exact hreset
  · exact hreset

theorem opsMainReset_of_rest {s : State} (h : s.ops.st = .idle ∨ s.ops.st = .halted) (c : Src) : s.opsMainReset c = s.mgtReset c := by
  unfold State.opsMainReset
  rcases h with h | h <;> rw [h]

/-- Settles O16: each command by its branches; a block's writing ends with its answer, or with the reset of the main side. -/
theorem graphsAndBlocksAreStored : Obligations.GraphsAndBlocksAreStored := by
  refine ⟨?loaded, ?noToken, ?saved, ?recovered, ?unrecovered, ?written, ?reset, ?idle, ?refusedLoad⟩
  case loaded =>
    intro c p bs s hs hadm hholds hpend hmask
    obtain ⟨honly, hdesk⟩ := mirrorRead_took s c 0x0910 p (some bs)
    refine ⟨_, congrArg Host.Outcome.next (obey_of_admits hadm _), ?_⟩
    have hholds' := (holds_of_only honly (masterOf c)).trans hholds
    have hpend' := (stagePending_of_only honly).trans hpend
    have hcheck := imageCheck_of_only honly bs (pf p 16 4)
    cases himg : s.imageCheck bs (pf p 16 4) with
    | error x =>
      rw [graphLoad_error hmask hholds' hpend' (hcheck.trans himg)]
      exact ⟨by simp [honly.keeps_eng], by simp [honly.keeps_live], by simp [honly.keeps_stg], answered_refuse hs hdesk⟩
    | ok img =>
      rw [graphLoad_ok hmask hholds' hpend' (hcheck.trans himg)]
      refine ⟨by simp [State.stageWrote, honly.keeps_eng], by simp [State.stageWrote, honly.keeps_live], fun e he => ?_,
        by simp [State.stageWrote], by simp [State.stageWrote, honly.keeps_stg],
        answered_done hs (hdesk.trans ⟨rfl, rfl, ⟨rfl, rfl⟩, rfl, rfl, fun _ => rfl, fun _ => rfl⟩)
          (by simp [State.stageWrote, honly.keeps_nt])⟩
      simp [State.stageWrote, vget_foldl_vset none (some img) _ _ e he, mem_bitsIn, he, honly.keeps_stg]
  case noToken =>
    intro c p bs s hs hadm hholds hmask
    obtain ⟨honly, hdesk⟩ := mirrorRead_took s c 0x0910 p (some bs)
    refine ⟨_, congrArg Host.Outcome.next (obey_of_admits hadm _), ?_⟩
    rw [graphLoad_noToken hmask ((holds_of_only honly _).trans hholds)]
    exact ⟨by simp [honly.keeps_stg], by simp [honly.keeps_eng], answered_refuse hs hdesk⟩
  case saved =>
    intro c p bs s hs hadm hpair
    obtain ⟨honly, hdesk⟩ := mirrorRead_took s c 0x0205 p (some bs)
    refine ⟨_, congrArg Host.Outcome.next (obey_of_admits hadm _), ?_⟩
    have hcheck := blockRefusal_of_only honly (padTo (pf p 16 4) bs)
    cases hrefusal : s.blockRefusal (padTo (pf p 16 4) bs) with
    | none =>
      rw [stgSave_ok (hcheck.trans hrefusal)]
      exact ⟨by simp [State.blockWrite, honly.keeps_live], _, by simp [State.blockWrite, honly.keeps_stg]; rfl, rfl, rfl, rfl,
        toNat_pf (le_refl 8)⟩
    | some x =>
      rw [stgSave_refused (hcheck.trans hrefusal)]
      exact ⟨by simp [honly.keeps_live], by simp [honly.keeps_stg], answered_refuse hs hdesk⟩
  case recovered =>
    intro c p s hs hgiven hlen hcrc
    refine ⟨_, congrArg Host.Outcome.next (acting_of_given hgiven _), ?_⟩
    have hcheck := blockRefusal_of_only (s := s) (u := s.took c) (fun q hq => only_took_cmd s c q (by simp_all))
      (memRead s.dram recBase (pf p 0 4))
    cases hrefusal : s.blockRefusal (memRead s.dram recBase (pf p 0 4)) with
    | none =>
      rw [stgRecover_ok hlen (by simpa) (by simpa using hcheck.trans hrefusal)]
      exact ⟨by simp [State.blockWrite], _, by simp [State.blockWrite]; rfl, rfl, rfl, by simp⟩
    | some x =>
      rw [stgRecover_refused hlen (by simpa) (by simpa using hcheck.trans hrefusal)]
      exact ⟨by simp, by simp, answered_refuse hs (SameDesk.refl _)⟩
  case unrecovered =>
    intro c p d s hs hgiven hd
    have hact : (s.took c).stgRecover c p = (s.took c).refuse c 0x0206 .checkFail d := by
      rcases hd with ⟨hlen, rfl⟩ | ⟨hlen, hcrc, rfl⟩
      · exact stgRecover_long hlen
      · exact stgRecover_crc hlen (by simpa)
    refine ⟨_, congrArg Host.Outcome.next (acting_of_given hgiven _), ?_⟩
    rw [hact]
    exact ⟨by simp, by simp, answered_refuse hs (SameDesk.refl _)⟩
  case written =>
    intro w rest s hs hw hsave hrel
    obtain ⟨honly, hregs, hstg⟩ := blockWritten_effect (w := w) (.inl hrel)
    have hexec : execConfigBlockWriteComplete s = .next ((s.blockWritten w).done w.src 0x0205) := by
      simp [execConfigBlockWriteComplete, hw, hsave]
    have hlog := only_nandTurn_log s
    refine ⟨_, hexec, ?_, by simp [honly.keeps_live], ?_⟩
    · simp [hstg, State.copiesWritten, hlog.keeps_stg, hw, hsave]
    · rw [← (show (s.blockWritten w).nt64 = s.nt64 by rw [State.nt64, honly.keeps_nt, State.nt64])]
      exact State.complete_answers _ _ _ _ _ hs (SameDesk.of_desk honly hregs (regsRise_of_storesCanonical hs))
  case reset =>
    intro w rest s hw hrecover hst
    obtain ⟨honly, -, hstg⟩ := blockWritten_effect (w := w) (.inr hst)
    have hops : ((s.blockWritten w).complete w.src 0x0206 .ok 0 0).ops = s.ops := by simp [honly.keeps_ops]
    have hexec : execConfigBlockWriteComplete s = .next (((s.blockWritten w).complete w.src 0x0206 .ok 0 0).mgtReset w.src) := by
      rw [← opsMainReset_of_rest (by rwa [hops])]
      simp [execConfigBlockWriteComplete, hw, hrecover]
    refine ⟨_, hexec, ?_⟩
    obtain ⟨h0, h1, hboot, hcause, hcnt⟩ := mgtReset_effect ((s.blockWritten w).complete w.src 0x0206 .ok 0 0) w.src
    rw [h0, h1, hcnt]
    simp only [complete_fields, hstg, honly.keeps_sec]
    exact ⟨rfl, rfl, hboot, hcause, trivial⟩
  case idle =>
    intro s h
    simp [exec, execConfigBlockWriteComplete, h]
  case refusedLoad =>
    intro c p image st d s hs hadm hcase
    obtain ⟨honly, hdesk⟩ := mirrorRead_took s c 0x0910 p image
    have hact : ((s.took c).mirrorRead c 0x0910 p image).graphLoad c p image
        = ((s.took c).mirrorRead c 0x0910 p image).refuse c 0x0910 st d := by
      rcases hcase with ⟨hmask, rfl, rfl⟩ | ⟨hmask, hholds, hpend, rfl, rfl⟩ | ⟨hmask, hholds, hpend, rfl, rfl, rfl⟩
      · simp [State.graphLoad, hmask]
      · exact graphLoad_pending hmask ((holds_of_only honly _).trans hholds) ((stagePending_of_only honly).trans hpend)
      · exact graphLoad_unread hmask ((holds_of_only honly _).trans hholds) ((stagePending_of_only honly).trans hpend)
    refine ⟨_, congrArg Host.Outcome.next (obey_of_admits hadm _), ?_⟩
    rw [hact]
    exact ⟨by simp [honly.keeps_stg], by simp [honly.keeps_eng], answered_refuse hs hdesk⟩

end Sys2Proof.Machine
end

section
/-! What turns channels off raises no gate command, and what the stop and the halt of a module do to its channels (R169, R231, R381,
R441). -/

-- The proofs are elaborated one after the other: this bounds the threads of the compiler, whose stacks count as its memory.
set_option Elab.async false

namespace Sys2Proof.Machine

/-! ### Induction over the steps of a fold -/

section
variable {P : State → Prop} {s t : State}

theorem holds_ite {c : Prop} [Decidable c] (hs : P s) (ht : P t) : P (if c then s else t) := by
  split <;> assumption

theorem holds_foldl {α : Type} {f : State → α → State} (xs : List α) (hf : ∀ u, ∀ x ∈ xs, P u → P (f u x)) (h : P s) :
    P (xs.foldl f s) := by
  induction xs generalizing s with
  | nil => exact h
  | cons x xs ih => exact ih (fun u y hy => hf u y (List.mem_cons_of_mem _ hy)) (hf s x (List.mem_cons_self ..) h)

theorem holds_forNums {f : Nat → State → State} (xs : List Nat) (hf : ∀ i ∈ xs, ∀ u, P u → P (f i u)) (h : P s) :
    P (forNums xs f s) := holds_foldl xs (fun u i hi => hf i hi u) h

/-- What a fold makes true at one member of its list, and what every step keeps, holds at the end. -/
theorem forNums_reaches {f : Nat → State → State} {xs : List Nat} {n : Nat} (hn : n ∈ xs) (hmake : ∀ u, P (f n u))
    (hkeep : ∀ i ∈ xs, ∀ u, P u → P (f i u)) : P (forNums xs f s) := by
  induction xs generalizing s with
  | nil => simp at hn
  | cons x xs ih =>
    rcases List.mem_cons.mp hn with rfl | hmem
    · exact holds_forNums xs (fun i hi => hkeep i (List.mem_cons_of_mem _ hi)) (hmake s)
    · exact ih hmem fun i hi => hkeep i (List.mem_cons_of_mem _ hi)

end

/-! ### Gate commands fall -/

/-- No gate command stands that did not stand before. -/
def GcFalls (s0 s : State) : Prop := ∀ n, (s.chan n).gc = true → (s0.chan n).gc = true

section
variable {s0 s t : State}

theorem GcFalls.refl (s : State) : GcFalls s s := fun _ h => h

theorem GcFalls.off {n : Nat} (h : GcFalls s0 s) (h0 : (s0.chan n).gc = false) : (s.chan n).gc = false := by
  by_contra hon
  simp [h n (by simpa using hon)] at h0

theorem gcf_of_pwm (ht : t.pwm = s.pwm) (h : GcFalls s0 s) : GcFalls s0 t := fun n hn => h n (by rwa [State.chan, ht] at hn)

theorem gcf_of_chans (ht : t.pwm.chans = s.pwm.chans) (h : GcFalls s0 s) : GcFalls s0 t := fun n hn => h n (by rwa [State.chan, ht] at hn)

theorem gcf_of_only {l : List Part} (ht : Only l s t) (h : GcFalls s0 s) (hl : .pwm ∉ l := by decide) : GcFalls s0 t :=
  gcf_of_pwm (ht.keeps_pwm hl) h

theorem gcf_ite {c : Prop} [Decidable c] (hs : GcFalls s0 s) (ht : GcFalls s0 t) : GcFalls s0 (if c then s else t) := by
  split <;> assumption

theorem gcf_forNums (xs : List Nat) (f : Nat → State → State) (hf : ∀ i u, GcFalls s0 u → GcFalls s0 (f i u))
    (h : GcFalls s0 s) : GcFalls s0 (forNums xs f s) := holds_forNums (P := GcFalls s0) xs (fun i _ => hf i) h

theorem gcf_modChan (n : Nat) (f : Chan → Chan) (h : GcFalls s0 s) (hf : ∀ c, (f c).gc = true → c.gc = true) :
    GcFalls s0 (s.modChan n f) := by
  intro m hm
  rw [chan_modChan] at hm
  split at hm
  · exact h m (hf _ hm)
  · exact h m hm

theorem gcf_modGs (k : Nat) (f : GdlStack → GdlStack) (h : GcFalls s0 s) : GcFalls s0 (s.modGs k f) := gcf_of_pwm (s := s) rfl h
theorem gcf_modZone (k : Nat) (f : Zone → Zone) (h : GcFalls s0 s) : GcFalls s0 (s.modZone k f) := gcf_of_pwm (s := s) rfl h
theorem gcf_count (r : Reg) (i n : Nat) (h : GcFalls s0 s) : GcFalls s0 (s.count r i n) := gcf_of_pwm (s := s) rfl h

end

/-! ### Turning channels off -/

section
variable {s0 s : State} (n k at_ : Nat) (one : Bool) (h : GcFalls s0 s)
include h

theorem gcf_askRise : GcFalls s0 (s.askRise n at_) := by
  unfold State.askRise
  simp (maxDischargeDepth := 20) +contextual only [gcf_ite, gcf_modChan, gcf_modGs, gcf_modZone, h, implies_true]

theorem gcf_gcFall : GcFalls s0 (s.gcFall n at_) :=
  gcf_ite (gcf_modChan n _ h fun _ hc => absurd hc Bool.false_ne_true) h

theorem gcf_chanOff : GcFalls s0 (s.chanOff n at_) := gcf_gcFall n at_ (gcf_modChan n _ h fun _ hc => hc)

theorem gcf_endOverlap : GcFalls s0 (s.endOverlap n at_) := by
  have h' : GcFalls s0 { s with pwm := { s.pwm with overlap := vset s.pwm.overlap (pairOf n) false } } := gcf_of_chans (s := s) rfl h
  unfold State.endOverlap
  simp (maxDischargeDepth := 20) +contextual only [gcf_ite, gcf_askRise, gcf_count, gcf_modChan, h', implies_true]

theorem gcf_lvlOff : GcFalls s0 (s.lvlOff n at_) :=
  have h' := gcf_chanOff n at_ (gcf_modChan n (fun c => { c with lvl := false, cut := false }) h fun _ hc => hc)
  gcf_ite (gcf_endOverlap n at_ h') h'

theorem gcf_forceLow : GcFalls s0 (s.forceLow n at_) := by
  unfold State.forceLow
  simp +contextual only [gcf_lvlOff, gcf_modChan, h, implies_true]

theorem gcf_innerLater : GcFalls s0 (s.innerLater n at_ one) := gcf_modChan n _ h fun _ hc => hc

theorem gcf_turnOffChan : GcFalls s0 (s.turnOffChan n at_ one) := by
  unfold State.turnOffChan
  simp (maxDischargeDepth := 20) +contextual only [gcf_ite, gcf_modChan, gcf_forceLow, gcf_gcFall, gcf_innerLater, h, implies_true]

theorem gcf_beginTurnOff : GcFalls s0 (s.beginTurnOff k at_ one) := gcf_forNums _ _ (fun n _ hu => gcf_turnOffChan n at_ one hu) h

theorem gcf_sendTrip : GcFalls s0 (s.sendTrip k) := gcf_of_only (l := [.gdl]) (only_sendTrip s k (Only.refl _ s) (by decide)) h

/-! ### Trips -/

theorem gcf_latchOne (cause source phase delay : Nat) : GcFalls s0 (s.latchOne k cause source phase delay) := by
  have htrip (u : State) (nt : DWord) (leg : Nat) (first : Bool) (hu : GcFalls s0 u) :
      GcFalls s0 (u.tripRecord nt k leg cause source first) := gcf_of_only (l := [.trp, .log, .regs])
    (only_tripRecord u nt k leg cause source first (Only.refl _ u) (by decide) (by decide) (by decide)) hu
  have hoffer (u : State) (nt : DWord) (detail : Nat) (p : Nat → Bool) (hu : GcFalls s0 u) : GcFalls s0 (u.acqOffer 2 nt detail p) :=
    gcf_of_only (l := [.regs, .nt, .acq]) (only_acqOffer u 2 nt detail p (Only.refl _ u) (by decide) (by decide) (by decide)) hu
  have hask (u : State) (nt : DWord) (detail : Nat) (hu : GcFalls s0 u) : GcFalls s0 (u.ptmAsk 0 nt detail) :=
    gcf_of_only (l := [.regs, .nt]) (only_ptmAsk u 0 nt detail false (Only.refl _ u) (by decide) (by decide)) hu
  have hset (u : State) (r : Reg) (i j : Nat) (v : DWord) (hu : GcFalls s0 u) : GcFalls s0 (u.setReg r i j v) :=
    gcf_of_pwm (s := u) rfl hu
  unfold State.latchOne State.setRegN
  simp (maxDischargeDepth := 20) only [gcf_ite, gcf_modZone, gcf_modGs, gcf_beginTurnOff, gcf_sendTrip, htrip, hoffer, hask, hset, h]

theorem gcf_latch (cause source phase : Nat) : GcFalls s0 (s.latch k cause source phase) := by
  have hdraw (u : State) (hu : GcFalls s0 u) : GcFalls s0 u.draw.2 := gcf_of_pwm (s := u) rfl hu
  have htwn (u : State) (f : TwnState → TwnState) (hu : GcFalls s0 u) : GcFalls s0 (u.modTwn f) := gcf_of_pwm (s := u) rfl hu
  unfold State.latch
  simp (maxDischargeDepth := 20) +contextual only [gcf_ite, gcf_forNums, gcf_latchOne, hdraw, htwn, h, implies_true]

theorem gcf_fltStanding : GcFalls s0 (s.fltStanding k) := by
  have hflag (u : State) (hu : GcFalls s0 u) : GcFalls s0 ((u.setFlag .gdlFault k 0).logFlag 11 0 ((u.setFlag .gdlFault k 0).reg .gdlFault k)) :=
    gcf_of_only (s := u.setFlag .gdlFault k 0) (l := [.regs, .log]) (only_logFlag _ 11 0 _ (Only.refl _ _) (by decide) (by decide))
      (gcf_of_pwm (s := u) rfl hu)
  unfold State.fltStanding State.gdlTrip
  simp (maxDischargeDepth := 20) only [gcf_ite, gcf_latch, hflag, h]

theorem gcf_ostGuard : GcFalls s0 (s.ostGuard k) := by
  have hend (u : State) (hu : GcFalls s0 u) : GcFalls s0 u.ostComplete := gcf_of_only (l := [.regs, .gdl, .cmd, .host, .twn, .mgt])
    (only_ostComplete u (Only.refl _ u) (by decide) (by decide) (by decide) (by decide) (by decide) (by decide)) hu
  unfold State.ostGuard State.ostAbort
  simp (maxDischargeDepth := 20) only [gcf_ite, gcf_modGs, gcf_fltStanding, hend, h]

end

/-! ### Channels that stage 1 takes off -/

section
variable {s : State} {n : Nat} (hn : n < 192)
include hn

theorem gcFall_gc (s : State) (at_ : Nat) : ((s.gcFall n at_).chan n).gc = false := by
  unfold State.gcFall
  split
  · rw [State.chan_modChan_same _ _ _ hn]
  · next hgc => exact Bool.eq_false_iff.mpr hgc

theorem lvlOff_gc (s : State) (at_ : Nat) : ((s.lvlOff n at_).chan n).gc = false := by
  have hoff : (((s.modChan n fun c => { c with lvl := false, cut := false }).chanOff n at_).chan n).gc = false := gcFall_gc hn _ _
  unfold State.lvlOff
  dsimp only
  split
  · exact (gcf_endOverlap n at_ (.refl _)).off hoff
  · exact hoff

theorem forceLow_gc (s : State) (at_ : Nat) : ((s.forceLow n at_).chan n).gc = false := lvlOff_gc hn _ _

theorem forceLows_gc {l : List Nat} (hl : n ∈ l) (at_ : Nat) : ((s.forceLows l at_).chan n).gc = false :=
  forNums_reaches (P := fun u => (u.chan n).gc = false) hl (fun u => forceLow_gc hn u at_)
    fun i _ u hu => (gcf_forceLow i at_ (.refl u)).off hu

/-- R381: the stop leaves no outer channel on. -/
theorem stopChannels_gc (s : State) (hout : isOuter n = true) : (s.stopChannels.chan n).gc = false :=
  forceLows_gc hn (by simp [hn, hout]) _

end

end Sys2Proof.Machine
end

section
/-! Halting (R384, R385): what becomes of the engines, of the pending starts, stops, commits and scheduled actions, and of the safety
channels' release. -/

-- The proofs are elaborated one after the other: this bounds the threads of the compiler, whose stacks count as its memory.
set_option Elab.async false

namespace Sys2Proof.Machine

/-! ### The twin as a module knows it -/

/-- What the twin interface holds but for what it sends, what it remembers of completions, and its pulse. -/
def TwnState.core (x : TwnState) : TwnState :=
  { x with past := [], itemNo := 0, outItems := [], sentItems := [], bytes := 0, sent := [], hbWidth := 0 }

/-- A module's role and what it knows of its twin stay as they are. -/
def SameTwin (s t : State) : Prop := t.twn.core = s.twn.core

section
variable {s0 s t : State}

theorem SameTwin.refl (s : State) : SameTwin s s := rfl

theorem SameTwin.fields (h : SameTwin s t) : t.twn.role = s.twn.role ∧ t.twn.alone = s.twn.alone ∧ t.twn.twin = s.twn.twin ∧
    t.twn.roleIn = s.twn.roleIn ∧ t.twn.roleCand = s.twn.roleCand ∧ t.twn.swapReq = s.twn.swapReq ∧ t.twn.swapSpore = s.twn.swapSpore := by
  have hfield {α : Type} (f : TwnState → α) : f t.twn.core = f s.twn.core := congrArg f h
  exact ⟨hfield TwnState.role, hfield TwnState.alone, hfield TwnState.twin, hfield TwnState.roleIn, hfield TwnState.roleCand,
    hfield TwnState.swapReq, hfield TwnState.swapSpore⟩

theorem SameTwin.trans {u : State} (h : SameTwin s t) (h' : SameTwin t u) : SameTwin s u := Eq.trans h' h

theorem twin_of_twn (ht : t.twn = s.twn) (h : SameTwin s0 s) : SameTwin s0 t := by unfold SameTwin; rwa [ht]

theorem twin_of_only {l : List Part} (ht : Only l s t) (h : SameTwin s0 s) (hl : .twn ∉ l := by decide) : SameTwin s0 t :=
  twin_of_twn (ht.keeps_twn hl) h

theorem twin_ite {c : Prop} [Decidable c] (hs : SameTwin s0 s) (ht : SameTwin s0 t) : SameTwin s0 (if c then s else t) := by
  split <;> assumption

theorem twin_modTwn (f : TwnState → TwnState) (h : SameTwin s0 s) (hf : (f s.twn).core = s.twn.core) : SameTwin s0 (s.modTwn f) := hf.trans h

theorem twin_sendItems (n : Nat) (h : SameTwin s0 s) : SameTwin s0 (State.sendItems n s) := by
  induction n generalizing s with
  | zero => exact h
  | succ n ih =>
    unfold State.sendItems
    split
    · exact h
    · exact twin_ite (ih (twin_modTwn _ h rfl)) h

theorem twin_mirror (c : Src) (op : Nat) (p : Bytes) (take : DWord) (h : SameTwin s0 s) : SameTwin s0 (s.mirror c op p take) :=
  twin_ite (twin_sendItems _ (twin_modTwn _ h rfl)) h

theorem twin_remember (c : Src) (st : Status) (at_ : DWord) (h : SameTwin s0 s) : SameTwin s0 (s.remember c st at_) :=
  twin_modTwn _ h rfl

theorem twin_complete (c : Src) (op : Nat) (st : Status) (d : Nat) (at_ : DWord) (h : SameTwin s0 s) :
    SameTwin s0 (s.complete c op st d at_) := by
  have hentry : SameTwin s0 ((s.dropCommand c).writeEntry c op st d at_) :=
    twin_of_only (s := s.dropCommand c) (l := [.regs, .cmd, .host])
      (only_writeEntry _ c op st d at_ (Only.refl _ _) (by decide) (by decide) (by decide)) (twin_of_twn (s := s) rfl h)
  unfold State.complete
  split
  · exact twin_remember c st at_ h
  · split
    · split
      · exact twin_of_only (s := s) (l := [.regs, .mgt])
          (only_mgtAnswer s _ _ st (Only.refl _ s) (by decide) (by decide)) h
      · exact h
    · exact twin_ite (twin_remember c st at_ hentry) hentry

theorem twin_note (source type detail : Nat) (body : Bytes) (h : SameTwin s0 s) : SameTwin s0 (s.note source type detail body) :=
  twin_of_only (s := s) (l := [.regs, .log]) (only_note s source type detail body (Only.refl _ s) (by decide) (by decide)) h

theorem twin_enter (dst : OpState) (cause : Nat) (h : SameTwin s0 s) : SameTwin s0 (s.enter dst cause) :=
  twin_mirror _ _ _ _ (twin_of_twn (s := (s.modOps _).note _ _ _ _) rfl (twin_note _ _ _ _ (twin_of_twn (s := s) rfl h)))

theorem twin_sporeRecord (r : SporeRec) (h : SameTwin s0 s) : SameTwin s0 (s.sporeRecord r) :=
  twin_mirror _ _ _ _ (twin_note _ _ _ _ (twin_ite (twin_of_twn (s := s) rfl h) (twin_of_twn (s := s) rfl h)))

theorem twin_waitReport (who : WaitFor) (e code detail : Nat) (at_ : DWord) (join : Nat → Nat → Nat) (h : SameTwin s0 s) :
    SameTwin s0 (s.waitReport who e code detail at_ join) := by
  have hdone (u : State) (w : EngWait) (hu : SameTwin s0 u) : SameTwin s0 (u.waitDone w) := by
    unfold State.waitDone
    split
    · exact twin_complete _ _ _ _ _ hu
    · exact twin_sporeRecord _ hu
  unfold State.waitReport
  split
  · exact h
  · exact twin_ite (hdone _ _ (twin_of_twn (s := s) rfl h)) (twin_of_twn (s := s) rfl h)

theorem twin_dropSporeWork (e : Nat) (h : SameTwin s0 s) : SameTwin s0 (s.dropSporeWork e) := by
  unfold State.dropSporeWork
  refine holds_foldl (P := SameTwin s0) _ (fun u x _ hu => ?_)
    (holds_foldl (P := SameTwin s0) _ (fun u x _ hu => twin_waitReport _ _ _ _ _ _ hu) (twin_of_twn (s := s) rfl h))
  cases x.who with
  | spore slot at_ => exact twin_waitReport _ _ _ _ _ _ hu
  | _ => exact hu

theorem twin_enginesStop (h : SameTwin s0 s) : SameTwin s0 s.enginesStop :=
  holds_forNums (P := SameTwin s0) _ (fun e _ u hu => twin_of_twn (s := u.dropSporeWork e) rfl (twin_dropSporeWork e hu)) h

theorem twin_refuses {α : Type} (l : List α) (f : α → Src × Nat × Nat) (h : SameTwin s0 s) :
    SameTwin s0 (l.foldl (fun s p => s.refuse (f p).1 (f p).2.1 .error (f p).2.2) s) :=
  holds_foldl (P := SameTwin s0) _ (fun _ _ _ hu => twin_complete _ _ _ _ _ hu) h

theorem twinReady_of_twin (h : SameTwin s t) (hl : t.live = s.live) : t.twinReady = s.twinReady := by
  obtain ⟨-, halone, htwin, -⟩ := h.fields
  rw [State.twinReady, State.twinReady, pair_congr hl, halone, htwin]

end

/-! ### Engines that stop -/

/-- Work that an engine drops leaves it all but the starts and the swaps that wait for it. -/
theorem dropSporeWork_engN (s : State) (i e : Nat) : ∃ starts swaps,
    (s.dropSporeWork i).engN e = { s.engN e with sporeStarts := starts, swaps := swaps } := by
  have hreport (u : State) (who : WaitFor) (code detail : Nat) (at_ : DWord) (join : Nat → Nat → Nat) :
      (u.waitReport who i code detail at_ join).engN e = u.engN e := by
    have honly : Only [.regs, .waits, .nt, .cmd, .log, .host, .twn, .mgt] u (u.waitReport who i code detail at_ join) := by
      simp +decide only [only_waitReport, Only.refl]
    rw [State.engN, State.engN, honly.keeps_eng]
  unfold State.dropSporeWork
  refine holds_foldl (P := fun u => ∃ starts swaps, u.engN e = { s.engN e with sporeStarts := starts, swaps := swaps }) _ (fun u x _ hu => ?_)
    (holds_foldl (P := fun u => ∃ starts swaps, u.engN e = { s.engN e with sporeStarts := starts, swaps := swaps }) _
      (fun u x _ hu => by rwa [hreport]) ?_)
  · cases x.who with
    | spore slot at_ => rwa [hreport]
    | _ => exact hu
  · by_cases he : e = i
    · subst he
      by_cases h8 : e < 8
      · exact ⟨_, _, State.engN_modEng_same _ _ _ h8⟩
      · exact ⟨(s.engN e).sporeStarts, (s.engN e).swaps, by simp [State.engN, vget, h8]⟩
    · exact ⟨_, _, State.engN_modEng_other _ _ _ _ he⟩

theorem dropSporeWork_executing (s : State) (i e : Nat) : ((s.dropSporeWork i).engN e).executing = (s.engN e).executing := by
  obtain ⟨starts, swaps, h⟩ := dropSporeWork_engN s i e
  rw [h]

/-- Stopping the engines clears no fault. -/
theorem enginesStop_fault {s : State} {e : Nat} (he : e < 8) (h : (s.engN e).fault = true) : (s.enginesStop.engN e).fault = true := by
  refine holds_forNums (P := fun u => (u.engN e).fault = true) _ (fun i _ u hu => ?_) h
  obtain ⟨starts, swaps, hdrop⟩ := dropSporeWork_engN u i e
  by_cases hi : e = i
  · subst hi
    rw [State.engN_modEng_same _ _ _ he, hdrop]
    exact hu
  · rw [State.engN_modEng_other _ _ _ _ hi, hdrop]
    exact hu

/-- R69: outside ARMED and RUNNING no engine executes. -/
theorem enginesStop_executing (s : State) {e : Nat} (he : e < 8) : (s.enginesStop.engN e).executing = false := by
  refine forNums_reaches (P := fun u => (u.engN e).executing = false) (List.mem_range.mpr he) (fun u => ?_) fun i _ u hu => ?_
  · rw [State.engN_modEng_same _ _ _ he]
    rfl
  · by_cases hi : e = i
    · subst hi
      rw [State.engN_modEng_same _ _ _ he]
      rfl
    · rwa [State.engN_modEng_other _ _ _ _ hi, dropSporeWork_executing]

/-- The parts that stopping the engines may change. -/
def enginesStopParts : List Part := [.regs, .eng, .waits, .nt, .cmd, .log, .host, .twn, .mgt]

theorem only_enginesStop_parts (s : State) : Only enginesStopParts s s.enginesStop := by
  simp +decide only [only_enginesStop, Only.refl]

/-! ### Pending starts and stops -/

theorem only_refuses {α : Type} (l : List α) (src : α → Src) (op : Nat) (d : α → Nat) (s : State) :
    Only answerParts s (l.foldl (fun s p => s.refuse (src p) op .error (d p)) s) :=
  only_foldl l _ (fun u p h => only_complete u (src p) op .error (d p) 0 h (by decide) (by decide) (by decide) (by decide) (by decide))
    (Only.refl _ s)

theorem dropStartsIf_ops (s : State) (d : PendOp → Nat) : (s.dropStartsIf d).ops = { s.ops with starts := [] } :=
  (only_refuses s.ops.starts (·.src) 0x0611 d (s.modOps fun o => { o with starts := [] })).keeps_ops

theorem only_dropStartsIf_parts (s : State) (d : PendOp → Nat) : Only (.ops :: answerParts) s (s.dropStartsIf d) := by
  simp +decide only [only_dropStartsIf, Only.refl]

theorem twin_dropStartsIf {s0 s : State} (d : PendOp → Nat) (h : SameTwin s0 s) : SameTwin s0 (s.dropStartsIf d) :=
  twin_refuses s.ops.starts (fun p => (p.src, 0x0611, d p)) (twin_of_twn (s := s) rfl h)

/-! ### Pending commits and scheduled actions -/

theorem dropCommits_pendings (s : State) : s.dropCommits.stg.pendings = [] := by
  unfold State.dropCommits
  dsimp only
  rw [(only_refuseCommits _ _).keeps_stg]
  rfl

/-- A record of a scheduled action leaves the slots and the batches alone. -/
theorem sporeRecord_slots (s : State) (r : SporeRec) : (s.sporeRecord r).nt.slots = s.nt.slots ∧ (s.sporeRecord r).nt.batches = s.nt.batches := by
  unfold State.sporeRecord
  dsimp only
  rw [(only_mirror_twn _ _ _ _ _).keeps_nt, (only_note (ps := [.regs, .log]) _ _ _ _ _ (Only.refl _ _) (by decide) (by decide)).keeps_nt]
  split <;> exact ⟨rfl, rfl⟩

theorem sporeDiscard_slot (s : State) (i j : Nat) (hi : i < 256) :
    vget (s.sporeDiscard i).nt.slots j none = if j = i then none else vget s.nt.slots j none := by
  unfold State.sporeDiscard
  split
  · rw [(sporeRecord_slots _ _).1]
    split
    · next hj => rw [hj]; exact vget_vset_same _ _ _ _ hi
    · next hj => exact vget_vset_other _ _ _ _ _ hj
  · next hnone =>
    split
    · next hj => rw [hj, hnone]
    · rfl

theorem sporeDiscards_slot (s : State) (l : List Nat) (hl : ∀ i ∈ l, i < 256) {i : Nat} (hi : i ∈ l) :
    vget (forNums l (fun i s => s.sporeDiscard i) s).nt.slots i none = none := by
  refine forNums_reaches (P := fun u => vget u.nt.slots i none = none) hi (fun v => ?_) fun j hj v hv => ?_
  · rw [sporeDiscard_slot v i i (hl i hi), if_pos rfl]
  · rw [sporeDiscard_slot v j i (hl j hj), hv, ite_self]

/-- What remains of the due batches is recorded as discarded. -/
def State.dueDiscard (s : State) (l : List DueSlot) : State :=
  l.foldl (fun s d => s.sporeRecord
    { nt := s.nt64, slot := d.slot, action := d.spore.action, result := Status.error.code, late := d.spore.late, same := d.same
      discard := true, detail := 4 }) s

theorem dueDiscard_slots (s : State) (l : List DueSlot) :
    (s.dueDiscard l).nt.slots = s.nt.slots ∧ (s.dueDiscard l).nt.batches = s.nt.batches :=
  holds_foldl (P := fun w => w.nt.slots = s.nt.slots ∧ w.nt.batches = s.nt.batches) l
    (fun w _ _ hw => (sporeRecord_slots w _).imp (·.trans hw.1) (·.trans hw.2)) ⟨rfl, rfl⟩

theorem vector_all_none {α : Type} {n : Nat} {v : Vector (Option α) n} (h : ∀ i < n, vget v i none = none) :
    v.toList.any (·.isSome) = false := by
  rw [List.any_eq_false]
  intro x hx
  obtain ⟨i, hi, rfl⟩ := List.mem_iff_getElem.mp hx
  have hin : i < n := by simpa using hi
  have hi' := h i hin
  simp_all [vget]

/-- R300: nothing that was scheduled is left. -/
theorem discardSpores_anySpore (s : State) : s.discardSpores.anySpore = false := by
  have hslots (i : Nat) (hi : i < 256) := sporeDiscards_slot s (List.range 256) (fun i hi => List.mem_range.mp hi) (List.mem_range.mpr hi)
  have heq : s.discardSpores = (((forNums (List.range 256) (fun i s => s.sporeDiscard i) s).modNt fun n =>
      { n with batches := [] }).dueDiscard (forNums (List.range 256) (fun i s => s.sporeDiscard i) s).nt.batches.flatten) := rfl
  rw [heq]
  generalize forNums (List.range 256) (fun i s => s.sporeDiscard i) s = u at hslots
  obtain ⟨hs, hb⟩ := dueDiscard_slots (u.modNt fun n => { n with batches := [] }) u.nt.batches.flatten
  rw [State.anySpore, hs, hb]
  exact (Bool.or_false _).trans (vector_all_none hslots)

/-! ### The release of the safety channels -/

@[simp] theorem setRel_rel (c : SafChan) (rel : Bool) (now : Nat) : (c.setRel rel now).rel = rel := by
  unfold SafChan.setRel
  split
  · next h => exact beq_iff_eq.mp h
  · split
    · next hrel => exact hrel.symm
    · next hrel => exact (Bool.eq_false_iff.mpr hrel).symm

/-- R250: what keeps one of the channels from releasing keeps both. -/
theorem safJudge_rel {s : State} (h : s.safMayRelease = false) : s.safJudge.saf.chA.rel = false ∧ s.safJudge.saf.chB.rel = false := by
  simp [State.safJudge, State.modSaf, h]

theorem safMayRelease_of_demand {s : State} (h : s.saf.intDemand = true) : s.safMayRelease = false := by
  simp [State.safMayRelease, h]

theorem safMayRelease_of_fault {s : State} (h : s.saf.fault = true) : s.safMayRelease = false := by
  simp [State.safMayRelease, h]

theorem only_safJudge_saf (s : State) : Only [.saf] s s.safJudge := only_safJudge s (Only.refl _ s) (by decide)

/-- The judgement of the release changes the channels' release and the hold of stage 6 alone. -/
theorem safJudge_saf (s : State) : ∃ a b hold, s.safJudge.saf = { s.saf with chA := a, chB := b, hold := hold } ∧
    a.code = s.saf.chA.code ∧ b.code = s.saf.chB.code ∧ a.pset = s.saf.chA.pset ∧ b.pset = s.saf.chB.pset := by
  have hset (c : SafChan) (rel : Bool) (now : Nat) : (c.setRel rel now).code = c.code ∧ (c.setRel rel now).pset = c.pset := by
    unfold SafChan.setRel
    split
    · exact ⟨rfl, rfl⟩
    · split <;> exact ⟨rfl, rfl⟩
  exact ⟨_, _, _, rfl, (hset ..).1, (hset ..).1, (hset ..).2, (hset ..).2⟩

/-! ### Entry to HALTED -/

/-- No start or stop is pending in HALTED. -/
def State.haltPending (s : State) (d : PendOp → Nat) : State :=
  let u := s.dropStartsIf d
  u.ops.stops.foldl (fun s p => s.refuse p.src 0x0612 .error 4) (u.modOps fun o => { o with stops := [] })

/-- HALTED is entered, no engine executes any more, and no start or stop is pending. -/
def State.haltEntered (s : State) (cause : Nat) : State :=
  let v := ((s.enter .halted cause).enginesStop).haltPending fun p => if s.startHere p then 4 else 3
  v.modTwn fun t => { t with hbWidth := min t.hbWidth ((v.now - t.hbAt) / 32 + 200) }

/-- The outputs go off, or the twin takes them over; what keeps a test running has lapsed. -/
def State.haltOff (s : State) : State := forNums (List.range 16) (fun k s => s.ostGuard k) s.haltOutputs

/-- The internal demand takes the release away. -/
def State.haltDemand (s : State) : State := (s.modSaf fun f => { f with intDemand := true }).safJudge

/-- Nothing stays pending, and the event log is to be flushed. -/
def State.haltDrop (s : State) : State :=
  let u := s.dropCommits.discardSpores
  { u with log := { u.log with urgent := true } }

/-- The command cores stop. -/
def State.haltCores (s : State) : State := ((s.acqStopAll).dmaAbortAll).modOps fun o => { o with coresStopped := true }

theorem halt_eq {s : State} {cause : Nat} (hst : s.ops.st ≠ .halted) (hoff : s.ops.st ≠ .off) : s.halt cause =
    if cause = 0x23 ∨ cause = 0x24 then (((s.haltEntered cause).haltOff).haltDemand.haltDrop).haltCores
    else (((s.haltEntered cause).haltOff).haltDemand.haltDrop) := by
  simp only [State.halt, hst, hoff, decide_false, Bool.or_self, Bool.false_eq_true, if_false, State.haltCores, State.haltDrop,
    State.haltDemand, State.haltOff, State.haltEntered, State.haltPending]

theorem halt_of_halted {s : State} (cause : Nat) (h : s.ops.st = .halted ∨ s.ops.st = .off) : s.halt cause = s := by
  unfold State.halt
  rcases h with h | h <;> simp [h]

section
variable (s : State) (cause : Nat)

theorem haltPending_effect (d : PendOp → Nat) : (s.haltPending d).ops = { s.ops with starts := [], stops := [] } ∧
    Only (.ops :: answerParts) s (s.haltPending d) ∧ SameTwin s (s.haltPending d) := by
  have honly := only_dropStartsIf_parts s d
  have hrest := only_refuses (s.dropStartsIf d).ops.stops (·.src) 0x0612 (fun _ => 4)
    ((s.dropStartsIf d).modOps fun o => { o with stops := [] })
  have hmod := only_modOps (fun o => { o with stops := [] }) honly (by decide)
  refine ⟨?_, hmod.trans (hrest.mono (by decide)) fun p hp => hp, ?_⟩
  · refine hrest.keeps_ops.trans ?_
    simp only [State.modOps_fields, dropStartsIf_ops]
  · exact twin_refuses _ (fun p : PendOp => (p.src, 0x0612, 4)) (twin_of_twn (s := s.dropStartsIf d) rfl (twin_dropStartsIf d (.refl s)))

/-- The parts that entering HALTED may change. -/
def haltEnteredParts : List Part := .ops :: enginesStopParts

theorem haltEntered_effect : Only haltEnteredParts s (s.haltEntered cause) ∧ SameTwin s (s.haltEntered cause) ∧
    (s.haltEntered cause).ops
      = { s.ops with st := .halted, prev := s.ops.st.code, cause := cause, stateNt := s.nt64, starts := [], stops := [] } ∧
    ∀ e < 8, ((s.haltEntered cause).engN e).executing = false ∧ ((s.engN e).fault = true → ((s.haltEntered cause).engN e).fault = true) := by
  unfold State.haltEntered
  have honly := only_enter_state s .halted cause
  have hops := enter_ops s .halted cause
  have htwin := twin_enter .halted cause (.refl s)
  generalize s.enter .halted cause = u at honly hops htwin
  have honly' := honly.trans ((only_enginesStop_parts u).mono (l' := haltEnteredParts) (by decide)) (by decide)
  have hops' := (only_enginesStop_parts u).keeps_ops.trans hops
  have htwin' := twin_enginesStop htwin
  have hexec (e : Nat) (he : e < 8) : (u.enginesStop.engN e).executing = false ∧
      ((s.engN e).fault = true → (u.enginesStop.engN e).fault = true) :=
    ⟨enginesStop_executing u he, fun h => enginesStop_fault he (by rwa [State.engN, honly.keeps_eng])⟩
  generalize u.enginesStop = v at honly' hops' htwin' hexec
  obtain ⟨hp, hponly, htwin''⟩ := haltPending_effect v fun p => if s.startHere p then 4 else 3
  generalize v.haltPending (fun p => if s.startHere p then 4 else 3) = w at hp hponly htwin''
  refine ⟨only_modTwn _ (honly'.trans (hponly.mono (by decide)) fun p hp => hp) (by decide),
    twin_modTwn _ (htwin'.trans htwin'') rfl, ?_, fun e he => ?_⟩
  · simp only [State.modTwn_fields, hp, hops']
  · have heng : ((w.modTwn fun t => { t with hbWidth := min t.hbWidth ((w.now - t.hbAt) / 32 + 200) }).engN e) = v.engN e := by
      simp only [State.engN, State.modTwn_fields, hponly.keeps_eng]
    rw [heng]
    exact hexec e he

theorem haltEntered_twinReady : (s.haltEntered cause).twinReady = s.twinReady :=
  have h := haltEntered_effect s cause
  twinReady_of_twin h.2.1 h.1.keeps_live

/-- The parts that turning off at the entry to HALTED may change. -/
def haltOffParts : List Part := [.free, .regs, .pwm, .gdl, .trp, .nt, .cmd, .log, .acq, .host, .twn, .mgt]

theorem only_haltOff : Only haltOffParts s s.haltOff := by
  unfold State.haltOff
  simp (maxDischargeDepth := 20) +contextual +decide only [only_forNums, only_ostGuard, only_haltOutputs, Only.refl, implies_true]

/-- R385: without a READY twin the outer channels go off. -/
theorem haltOff_gc {s : State} (h : s.twinReady = false) {n : Nat} (hn : n < 192) (hout : isOuter n = true) :
    (s.haltOff.chan n).gc = false := by
  have hstop : s.haltOutputs = s.stopChannels := by simp [State.haltOutputs, h]
  unfold State.haltOff
  rw [hstop]
  exact (gcf_forNums _ _ (fun k u hu => gcf_ostGuard k hu) (.refl _)).off (stopChannels_gc hn s hout)

theorem haltDemand_saf : s.haltDemand.saf.intDemand = true ∧ s.haltDemand.saf.chA.rel = false ∧ s.haltDemand.saf.chB.rel = false := by
  obtain ⟨hA, hB⟩ := safJudge_rel (safMayRelease_of_demand (s := s.modSaf fun f => { f with intDemand := true }) rfl)
  obtain ⟨a, b, hold, heq, -⟩ := safJudge_saf (s.modSaf fun f => { f with intDemand := true })
  exact ⟨congrArg SafState.intDemand heq, hA, hB⟩

theorem only_haltDemand : Only [.saf] s s.haltDemand := only_safJudge _ (only_modSaf _ (Only.refl _ s) (by decide)) (by decide)

/-- The parts that dropping what is pending may change. -/
def haltDropParts : List Part := [.regs, .nt, .cmd, .log, .stg, .host, .twn, .mgt]

theorem only_haltDrop : Only haltDropParts s s.haltDrop := by
  have h : Only haltDropParts s s.dropCommits.discardSpores := by
    simp (maxDischargeDepth := 20) +decide only [only_discardSpores, only_dropCommits, Only.refl]
  unfold State.haltDrop
  generalize s.dropCommits.discardSpores = u at h
  simp +decide only [only_mk, h, or_true, true_or]

theorem haltDrop_pending : s.haltDrop.stg.pendings = [] ∧ s.haltDrop.anySpore = false ∧ s.haltDrop.log.urgent = true := by
  unfold State.haltDrop
  have h : Only [.regs, .nt, .log, .twn] s.dropCommits s.dropCommits.discardSpores := by
    simp +decide only [only_discardSpores, Only.refl]
  have hstg := (congrArg StgState.pendings h.keeps_stg).trans (dropCommits_pendings s)
  have hany := discardSpores_anySpore s.dropCommits
  generalize s.dropCommits.discardSpores = u at hstg hany
  exact ⟨hstg, hany, rfl⟩

theorem only_haltCores : Only [.regs, .acq, .eth, .cmd, .dma, .dram, .host, .ops] s s.haltCores := by
  unfold State.haltCores
  simp (maxDischargeDepth := 20) +decide only [only_modOps, only_dmaAbortAll, only_acqStopAll, Only.refl]

theorem haltCores_ops : s.haltCores.ops = { s.ops with coresStopped := true } := by
  have h : Only [.regs, .acq, .eth, .cmd, .dma, .dram, .host] s (s.acqStopAll).dmaAbortAll := by
    simp (maxDischargeDepth := 20) +decide only [only_dmaAbortAll, only_acqStopAll, Only.refl]
  have hops := h.keeps_ops
  unfold State.haltCores
  generalize (s.acqStopAll).dmaAbortAll = u at hops
  simp only [State.modOps_fields, hops]

end

/-- R384, R385: what halting leaves, from any state but HALTED and OFF. -/
theorem halt_effect {s : State} {cause : Nat} (hst : s.ops.st ≠ .halted) (hoff : s.ops.st ≠ .off) :
    (s.halt cause).ops = { s.ops with
      st := .halted, prev := s.ops.st.code, cause := cause, stateNt := s.nt64, starts := [], stops := []
      coresStopped := decide (cause = 0x23 ∨ cause = 0x24) || s.ops.coresStopped } ∧
    (∀ e < 8, ((s.halt cause).engN e).executing = false ∧ ((s.engN e).fault = true → ((s.halt cause).engN e).fault = true)) ∧
    (s.halt cause).saf.intDemand = true ∧ (s.halt cause).saf.chA.rel = false ∧
    (s.halt cause).saf.chB.rel = false ∧ (s.halt cause).stg.pendings = [] ∧ (s.halt cause).anySpore = false ∧
    (s.halt cause).log.urgent = true ∧
    (s.twinReady = false → ∀ n < 192, isOuter n = true → ((s.halt cause).chan n).gc = false) := by
  rw [halt_eq hst hoff]
  obtain ⟨honly1, htwin, hops, hexec⟩ := haltEntered_effect s cause
  have hready := haltEntered_twinReady s cause
  generalize s.haltEntered cause = u1 at *
  have honly2 := only_haltOff u1
  have hgc (hr : u1.twinReady = false) (n : Nat) (hn : n < 192) (hout : isOuter n = true) := haltOff_gc hr hn hout
  generalize u1.haltOff = u2 at *
  have honly3 := only_haltDemand u2
  obtain ⟨hdem, hA, hB⟩ := haltDemand_saf u2
  generalize u2.haltDemand = u3 at *
  have honly4 := only_haltDrop u3
  obtain ⟨hpend, hspore, hurgent⟩ := haltDrop_pending u3
  generalize u3.haltDrop = u4 at *
  have honly5 := only_haltCores u4
  have hops4 : u4.ops = u1.ops := by rw [honly4.keeps_ops, honly3.keeps_ops, honly2.keeps_ops]
  have heng4 (e : Nat) : u4.engN e = u1.engN e := by
    simp only [State.engN, honly4.keeps_eng, honly3.keeps_eng, honly2.keeps_eng]
  have hchan4 (n : Nat) : u4.chan n = u2.chan n := by simp only [State.chan, honly4.keeps_pwm, honly3.keeps_pwm]
  split
  · next hcores =>
    have hops5 := haltCores_ops u4
    generalize u4.haltCores = u5 at *
    refine ⟨?_, fun e he => ?_, ?_, ?_, ?_, ?_, ?_, ?_, fun hr n hn hout => ?_⟩
    · simp [hops5, hops4, hops, hcores]
    · have heng5 : u5.engN e = u1.engN e := by
        rw [← heng4 e, State.engN, State.engN, honly5.keeps_eng]
      exact heng5 ▸ hexec e he
    · rw [honly5.keeps_saf, honly4.keeps_saf, hdem]
    · rw [honly5.keeps_saf, honly4.keeps_saf, hA]
    · rw [honly5.keeps_saf, honly4.keeps_saf, hB]
    · rw [honly5.keeps_stg, hpend]
    · rwa [State.anySpore, honly5.keeps_nt]
    · rw [honly5.keeps_log, hurgent]
    · rw [State.chan, honly5.keeps_pwm]
      exact (congrArg Chan.gc (hchan4 n)).trans (hgc (hready.trans hr) n hn hout)
  · next hcores =>
    refine ⟨by simp [hops4, hops, hcores], fun e he => heng4 e ▸ hexec e he, ?_, ?_, ?_, hpend, hspore,
      hurgent, fun hr n hn hout => (congrArg Chan.gc (hchan4 n)).trans (hgc (hready.trans hr) n hn hout)⟩
    · rw [honly4.keeps_saf, hdem]
    · rw [honly4.keeps_saf, hA]
    · rw [honly4.keeps_saf, hB]

/-- Settles O17: each of the causes is what halting leaves. -/
theorem haltCausesTakeTheDeviceToHalted : Obligations.HaltCausesTakeTheDeviceToHalted := by
  intro c cause s hc hst hoff
  have hexec : exec c s = .next (s.halt cause) := by
    simp only [List.mem_cons, Prod.mk.injEq, List.not_mem_nil, or_false] at hc
    rcases hc with ⟨rfl, rfl⟩ | ⟨rfl, rfl⟩ | ⟨rfl, rfl⟩ | ⟨rfl, rfl⟩ <;> rfl
  obtain ⟨hops, hrest⟩ := halt_effect (cause := cause) hst hoff
  obtain ⟨heng, hdem, hA, hB, hpend, hspore, hurgent, hgc⟩ := hrest
  refine ⟨_, hexec, ?_⟩
  beta_reduce
  rw [hops]
  exact ⟨rfl, rfl, rfl, fun e he => (heng e he).1, hdem, hA, hB, rfl, rfl, hpend, hspore, hurgent, hgc, fun h => by simp [h]⟩

end Sys2Proof.Machine
end

section
/-! Faults of an engine (R33, R94): the device halts, or the error counts. -/

-- The proofs are elaborated one after the other: this bounds the threads of the compiler, whose stacks count as its memory.
set_option Elab.async false

namespace Sys2Proof.Machine

section
variable {s : State} {e : Nat}

/-- An engine's fault halts the device with its cause, and the engine shows it. -/
theorem engineFault_effect (he : e < 8) (hst : s.ops.st ≠ .halted) (hoff : s.ops.st ≠ .off) :
    (s.engineFault e).ops.st = .halted ∧ (s.engineFault e).ops.cause = 0x21 ∧ ((s.engineFault e).engN e).fault = true ∧
    (∀ e' < 8, ((s.engineFault e).engN e').executing = false) ∧ (s.engineFault e).saf.intDemand = true ∧
    (s.engineFault e).saf.chA.rel = false ∧ (s.engineFault e).saf.chB.rel = false ∧ (s.engineFault e).now = s.now := by
  have hfault : ((s.modEng e fun n => { n with fault := true }).engN e).fault = true := by rw [State.engN_modEng_same _ _ _ he]
  have hnow : ((s.modEng e fun n => { n with fault := true }).halt 0x21).now = s.now := by
    have honly : Only [.free, .regs, .eng, .waits, .pwm, .gdl, .trp, .saf, .nt, .eth, .cmd, .ops, .log, .stg, .acq, .dma, .dram, .host,
        .twn, .mgt] s ((s.modEng e fun n => { n with fault := true }).halt 0x21) := by
      simp +decide only [only_halt, only_modEng, Only.refl]
    exact honly.keeps_now
  obtain ⟨hops, heng, hdem, hA, hB, -⟩ := halt_effect (s := s.modEng e fun n => { n with fault := true }) (cause := 0x21) hst hoff
  unfold State.engineFault
  rw [hops]
  exact ⟨rfl, rfl, (heng e he).2 hfault, fun e' he' => (heng e' he').1, hdem, hA, hB, hnow⟩

/-- A miss comes of an engine that executes. -/
theorem st_of_executes (h : s.executes e = true) : s.ops.st ≠ .halted ∧ s.ops.st ≠ .off := by
  constructor <;> (intro hst; simp [State.executes, hst] at h)

theorem executes_of_missAt {n : Nat} (h : s.missAt e = some n) : s.executes e = true := by
  by_contra hno
  simp [State.missAt, State.inPeriod, hno] at h

theorem execEngineDeadlineMiss_of_missAt {e : Fin 8} {n : Nat} (h : s.missAt e = some n) :
    execEngineDeadlineMiss e s = .next ((s.advanceTo n).engineFault e) := by
  simp only [execEngineDeadlineMiss, h]

theorem missAt_of_not_started (hexec : s.executes e = true) (harm : (s.engN e).armReset = false) (hstart : (s.engN e).started = false)
    (hsync : s.twn.resync = false) :
    s.missAt e = some ((s.nextLoad (s.leadTb e)).1 - if s.linkMode then 96000 else 8000) := by
  simp [State.missAt, State.inPeriod, hexec, harm, hstart, hsync]

theorem inPeriod_count (r : Reg) (i : Nat) : (s.count r i).inPeriod e = s.inPeriod e := rfl

/-- R94: a corrected error in no period counts alone. -/
theorem engineEccError_idle {e : Fin 8} (h : s.inPeriod e = false ∨ (s.tb (s.leadTb e)).run ≠ .running) :
    execEngineEccError e true s = .next (s.count .frdEccCnt e) := by
  have hno : (!((s.count .frdEccCnt e).inPeriod e && (((s.count .frdEccCnt e).tb ((s.count .frdEccCnt e).leadTb e)).run = .running : Bool)))
      = true := by
    rcases h with h | h
    · rw [inPeriod_count, h]; rfl
    · rw [show (s.count .frdEccCnt e).tb ((s.count .frdEccCnt e).leadTb e) = s.tb (s.leadTb e) from rfl]
      simp [h]
  simp only [execEngineEccError, Bool.not_true, Bool.false_eq_true, if_false, hno, if_true]

/-- The state after a corrected error in a period. -/
def State.eccStalled (s : State) (e : Nat) : State :=
  ((s.count .frdEccCnt e).modEng e fun n => { n with stall := n.stall + 4 }).keepMax .frdStallMax e ((s.engN e).stall + 4)

theorem engineEccError_stalls {e : Fin 8} (hin : s.inPeriod e = true) (hrun : (s.tb (s.leadTb e)).run = .running) :
    execEngineEccError e true s = if 396 < (s.engN e).stall then .next ((s.eccStalled e).engineFault e) else .next (s.eccStalled e) := by
  have hin' : (s.count .frdEccCnt e).inPeriod e = true := hin
  have hrun' : ((s.count .frdEccCnt e).tb ((s.count .frdEccCnt e).leadTb e)).run = .running := hrun
  have hstall : (s.count .frdEccCnt e).engN e = s.engN e := rfl
  have hlimit : 400 < (s.engN e).stall + 4 ↔ 396 < (s.engN e).stall := by omega
  simp only [execEngineEccError, hin', hrun', hstall, hlimit, decide_true, Bool.and_self, Bool.not_true, Bool.false_eq_true, if_false]
  rfl

/-- R94: the stalled engine alone changes, and the error counts. -/
theorem eccStalled_effect (hs : s.storesCanonical) (he : e < 8) : (s.eccStalled e).engN e = { s.engN e with stall := (s.engN e).stall + 4 } ∧
    (∀ e', e' ≠ e → (s.eccStalled e).engN e' = s.engN e') ∧
    ((s.eccStalled e).reg .frdEccCnt e).toNat = min ((s.reg .frdEccCnt e).toNat + 1) 0xFFFFFFFF ∧ Only [.regs, .eng] s (s.eccStalled e) := by
  obtain ⟨hcount, -, -⟩ := counts_count hs .frdEccCnt e
  have hs' : ((s.count .frdEccCnt e).modEng e fun n => { n with stall := n.stall + 4 }).storesCanonical := storesCanonical_setReg hs _ _ _ _
  have hother : (s.eccStalled e).reg .frdEccCnt e = (s.count .frdEccCnt e).reg .frdEccCnt e := by
    refine otherRegs_setReg hs' .frdStallMax e 0 _ .frdEccCnt e 0 ?_
    show 0x80038 + e * 0x2000 + 0 * 0 ≠ 0x80034 + e * 0x2000 + 0 * 0
    omega
  have heng (k : Nat) : (s.eccStalled e).engN k
      = ((s.count .frdEccCnt e).modEng e fun n => { n with stall := n.stall + 4 }).engN k := rfl
  refine ⟨(heng e).trans (State.engN_modEng_same _ _ _ he), fun k hk => (heng k).trans (State.engN_modEng_other _ _ _ _ hk), ?_, ?_⟩
  · rw [hother, hcount]
  · exact only_keepMax _ _ _ (only_modEng _ _ (only_count _ _ _ (Only.refl _ s) (by decide)) (by decide)) (by decide)

end

/-- Settles O18: each fault is what an engine's fault leaves; a corrected error counts. -/
theorem engineFaultsHaltTheDevice : Obligations.EngineFaultsHaltTheDevice := by
  refine ⟨?missed, ?uncorrectable, ?stalled, ?idle, ?counted, ?late, ?inTime⟩
  case missed =>
    intro e n s hmiss
    obtain ⟨hst, hoff⟩ := st_of_executes (executes_of_missAt hmiss)
    refine ⟨_, execEngineDeadlineMiss_of_missAt hmiss, ?_⟩
    obtain ⟨hhalt, hcause, hfault, heng, hdem, hA, hB, hnow⟩ := engineFault_effect (s := s.advanceTo n) e.isLt (by simpa) (by simpa)
    exact ⟨by simp [hnow], hhalt, hcause, hfault, heng, hdem, hA, hB⟩
  case uncorrectable =>
    intro e s hst hoff
    obtain ⟨hhalt, hcause, hfault, -⟩ := engineFault_effect e.isLt hst hoff
    exact ⟨s.engineFault e, rfl, hhalt, hcause, hfault⟩
  case stalled =>
    intro e s hst hoff hin hrun hstall
    obtain ⟨hhalt, hcause, hfault, -⟩ := engineFault_effect (s := s.eccStalled e) e.isLt hst hoff
    exact ⟨(s.eccStalled e).engineFault e, (engineEccError_stalls hin hrun).trans (if_pos hstall), hhalt, hcause, hfault⟩
  case idle =>
    intro e s hs hno
    exact ⟨_, engineEccError_idle hno, counts_count hs .frdEccCnt e⟩
  case counted =>
    intro e s hs hin hrun hstall
    obtain ⟨heng, hothers, hcount, honly⟩ := eccStalled_effect hs e.isLt
    exact ⟨_, (engineEccError_stalls hin hrun).trans (if_neg (by omega)), heng,
      fun e' he' => hothers e' fun h => he' (Fin.ext h), hcount, honly⟩
  case late =>
    intro e s hexec harm hstart hsync
    have hmiss := missAt_of_not_started hexec harm hstart hsync
    obtain ⟨hst, hoff⟩ := st_of_executes hexec
    refine ⟨_, execEngineDeadlineMiss_of_missAt hmiss, ?_⟩
    obtain ⟨hhalt, hcause, -, -, -, -, -, hnow⟩ := engineFault_effect (s := s.advanceTo _) e.isLt (by simpa) (by simpa)
    exact ⟨by simp [hnow], hhalt, hcause⟩
  case inTime =>
    intro e s hmiss
    simp [exec, execEngineDeadlineMiss, hmiss]

end Sys2Proof.Machine
end

section
/-! What a completion leaves in the registers, and what entering a state, stopping the engines and turning channels off leave at the
desk: the command's answer then finds what it found before. -/

-- The proofs are elaborated one after the other: this bounds the threads of the compiler, whose stacks count as its memory.
set_option Elab.async false

namespace Sys2Proof.Machine

/-! ### Registers behind a completion -/

/-- The registers that no completion counts in: those below the command interface, those of the blocks up to the scheduler, and those of the
twin. -/
def offCompletion (a : Nat) : Prop := a < 0x10000 ∨ 0x20000 ≤ a ∧ a < 0x100000 ∨ 0x110000 ≤ a ∧ a < 0x120000

section
variable {s0 s : State} (c : Src) (op : Nat) (st : Status) (d : Nat) (at_ : DWord) (h : RegsKept offCompletion s0 s)
include h

theorem kept_countStatus : RegsKept offCompletion s0 (s.countStatus st) := by
  unfold State.countStatus
  split
  · exact kept_count _ _ _ h (by unfold offCompletion; decide)
  · exact kept_count _ _ _ h (by unfold offCompletion; decide)
  · exact kept_count _ _ _ h (by unfold offCompletion; decide)
  · exact h

theorem kept_trace (event unit ring : Nat) (seq : DWord) : RegsKept offCompletion s0 (s.trace event unit ring seq) := by
  have hmod (u : State) (f : CmdState → CmdState) (hu : RegsKept offCompletion s0 u) : RegsKept offCompletion s0 (u.modCmd f) :=
    kept_of_regs (s := u) rfl hu
  have hlost (u : State) (hu : RegsKept offCompletion s0 u) : RegsKept offCompletion s0 (u.count .schTraceLost) :=
    kept_count _ _ _ hu (by unfold offCompletion; decide)
  unfold State.trace
  simp (maxDischargeDepth := 20) only [kept_ite, hmod, hlost, h]

theorem kept_writeEntry : RegsKept offCompletion s0 (s.writeEntry c op st d at_) := by
  have hdone (u : State) (hu : RegsKept offCompletion s0 u) : RegsKept offCompletion s0 (u.count .cmdDoneCnt c.ring.val) := by
    refine kept_count _ _ _ hu ?_
    have haddr : regAddr .cmdDoneCnt c.ring.val 0 = 0x11028 + c.ring.val * 0x40 := rfl
    have hlt := c.ring.isLt
    unfold offCompletion
    omega
  have hraise (u : State) (n : Nat) (hu : RegsKept offCompletion s0 u) : RegsKept offCompletion s0 (u.raise n) :=
    kept_of_only (l := [.cmd]) (only_raise u n (Only.refl _ u) (by decide)) hu
  have hhost (u : State) (a : Nat) (bs : Bytes) (hu : RegsKept offCompletion s0 u) : RegsKept offCompletion s0 (u.hostWrite a bs) :=
    kept_of_regs (s := u) rfl hu
  have hring (u : State) (f : Ring → Ring) (hu : RegsKept offCompletion s0 u) : RegsKept offCompletion s0 (u.modRing c.ring.val f) :=
    kept_of_regs (s := u) rfl hu
  unfold State.writeEntry
  simp (maxDischargeDepth := 20) only [kept_trace, kept_ite, hraise, kept_countStatus, hdone, hring, hhost, h]

theorem kept_mgtAnswer (m : MgtCmd) (entry : Bytes) : RegsKept offCompletion s0 (s.mgtAnswer m entry st) := by
  have hsent : RegsKept offCompletion s0 ((s.mctpSend m.peer (mgtReply 0x10 m.reqId 0 (entry ++ s.mgt.tail))).modMgt fun m =>
      { m with cmd := none, tail := [] }) := kept_of_regs (s := s) rfl h
  have hcount := kept_count .mgtCmdCnt 0 1 hsent (by unfold offCompletion; decide)
  exact kept_ite (kept_count .mgtAuthFailCnt 0 1 hcount (by unfold offCompletion; decide)) hcount

theorem kept_remember : RegsKept offCompletion s0 (s.remember c st at_) := kept_of_regs (s := s) rfl h

theorem kept_complete : RegsKept offCompletion s0 (s.complete c op st d at_) := by
  have hentry : RegsKept offCompletion s0 ((s.dropCommand c).writeEntry c op st d at_) :=
    kept_writeEntry c op st d at_ (kept_of_regs (s := s) rfl h)
  unfold State.complete
  split
  · exact kept_remember c st at_ h
  · split
    · split
      · exact kept_mgtAnswer st h _ _
      · exact h
    · exact kept_ite (kept_remember c st at_ hentry) hentry

end

/-! ### Notes, records and states -/

section
variable {A : Nat → Prop} {s0 s : State} (h : RegsKept A s0 s)
include h

theorem kept_modOps (f : OpsState → OpsState) : RegsKept A s0 (s.modOps f) := kept_of_regs (s := s) rfl h
theorem kept_modNt (f : NtState → NtState) : RegsKept A s0 (s.modNt f) := kept_of_regs (s := s) rfl h
theorem kept_modTwn (f : TwnState → TwnState) : RegsKept A s0 (s.modTwn f) := kept_of_regs (s := s) rfl h
theorem kept_modCmd (f : CmdState → CmdState) : RegsKept A s0 (s.modCmd f) := kept_of_regs (s := s) rfl h
theorem kept_modStg (f : StgState → StgState) : RegsKept A s0 (s.modStg f) := kept_of_regs (s := s) rfl h
theorem kept_modEng (e : Nat) (f : Engine → Engine) : RegsKept A s0 (s.modEng e f) := kept_of_regs (s := s) rfl h
theorem kept_notify : RegsKept A s0 s.notify := kept_of_regs (s := s) rfl h

theorem kept_mirror (c : Src) (op : Nat) (p : Bytes) (take : DWord) : RegsKept A s0 (s.mirror c op p take) :=
  kept_of_only (only_mirror_twn s c op p take) h

variable (hlog : ¬ A (regAddr .glbLogLost 0 0))
include hlog

theorem kept_note (source type detail : Nat) (body : Bytes) : RegsKept A s0 (s.note source type detail body) := by
  unfold State.note State.logPut
  exact kept_ite (kept_count _ _ _ h hlog) (kept_of_regs (s := s) rfl h)

theorem kept_enter (dst : OpState) (cause : Nat) : RegsKept A s0 (s.enter dst cause) := by
  unfold State.enter
  simp (maxDischargeDepth := 20) only [kept_mirror, kept_notify, kept_note, kept_modOps, h, hlog, not_false_eq_true]

theorem kept_sporeRecord (hrec : ¬ A (regAddr .ntSporeRecLost 0 0)) (r : SporeRec) : RegsKept A s0 (s.sporeRecord r) := by
  unfold State.sporeRecord
  simp (maxDischargeDepth := 20) only [kept_mirror, kept_note, kept_ite, kept_modNt, kept_count, h, hlog, hrec, not_false_eq_true]

end

/-! ### Scheduled work that ends -/

/-- The parts that the end of scheduled work may change: no command ends with it. -/
def sporeParts : List Part := [.regs, .waits, .nt, .log, .twn]

/-- Where one engine reports on the work of a slot, it is this work that ends, with a record. -/
theorem waitReport_spore (s : State) (slot n a : Nat) (late same : Bool) (nt : DWord) (e code detail : Nat) (at_ : DWord)
    (join : Nat → Nat → Nat) : s.waitReport (.spore slot n a late same nt) e code detail at_ join = s ∨
    (∃ x, s.waitReport (.spore slot n a late same nt) e code detail at_ join = { s with waits := x }) ∨
    ∃ x r, s.waitReport (.spore slot n a late same nt) e code detail at_ join = { s with waits := x }.sporeRecord r := by
  unfold State.waitReport
  split
  · exact .inl rfl
  · next w hw =>
    have hsame := List.find?_some hw
    dsimp only
    split
    · refine .inr (.inr ?_)
      unfold State.waitDone
      cases hwho : w.who with
      | cmd src op => simp [hwho, WaitFor.same] at hsame
      | spore slot n a late same nt => exact ⟨_, _, rfl⟩
    · exact .inr (.inl ⟨_, rfl⟩)

theorem only_sporeRecord_parts (s : State) (r : SporeRec) : Only [.regs, .nt, .log, .twn] s (s.sporeRecord r) := by
  simp +decide only [only_sporeRecord, Only.refl]

theorem sporeRecord_nt64 (s : State) (r : SporeRec) : (s.sporeRecord r).nt64 = s.nt64 := by
  unfold State.sporeRecord
  dsimp only
  rw [State.nt64, (only_mirror_twn _ _ _ _ _).keeps_nt, (only_note (ps := [.regs, .log]) _ _ _ _ _ (Only.refl _ _) (by decide)
    (by decide)).keeps_nt]
  split <;> rfl

/-- What ends without a completion: the registers of a range, and the reading of the NT clock, stay. -/
structure Quiet (A : Nat → Prop) (s t : State) : Prop where
  parts : Only (.eng :: sporeParts) s t
  regs  : RegsKept A s t
  clock : t.nt64 = s.nt64

section
variable {A : Nat → Prop} {s0 s : State} (hlog : ¬ A (regAddr .glbLogLost 0 0)) (hrec : ¬ A (regAddr .ntSporeRecLost 0 0))
  (h : Quiet A s0 s)
include hlog hrec h

/-- A slot's work that one engine gives up ends without a completion. -/
theorem sporeReport_quiet (slot n e : Nat) : Quiet A s0 (s.waitReport (.spore slot n 0 false false 0) e Status.error.code 3 0 max) := by
  obtain ⟨honly, hregs, hnt⟩ := h
  have hwaits (x : List EngWait) : Quiet A s0 { s with waits := x } :=
    ⟨by simp +decide only [only_mk, honly, or_true, true_or], kept_of_regs (s := s) rfl hregs, hnt⟩
  rcases waitReport_spore s slot n 0 false false 0 e Status.error.code 3 0 max with h | ⟨x, h⟩ | ⟨x, r, h⟩ <;> rw [h]
  · exact ⟨honly, hregs, hnt⟩
  · exact hwaits x
  · obtain ⟨honly', hregs', hnt'⟩ := hwaits x
    exact ⟨honly'.trans ((only_sporeRecord_parts _ r).mono (by decide)) fun p hp => hp, kept_sporeRecord hregs' hlog hrec r,
      (sporeRecord_nt64 _ r).trans hnt'⟩

omit hlog hrec in
theorem modEng_quiet (e : Nat) (f : Engine → Engine) : Quiet A s0 (s.modEng e f) :=
  ⟨only_modEng e f h.parts (by decide), kept_modEng h.regs e f, h.clock⟩

theorem dropSporeWork_quiet (e : Nat) : Quiet A s0 (s.dropSporeWork e) := by
  unfold State.dropSporeWork
  refine holds_foldl (P := Quiet A s0) _ (fun u x _ hu => ?_)
    (holds_foldl (P := Quiet A s0) _ (fun u x _ hu => sporeReport_quiet hlog hrec hu _ _ _) (modEng_quiet h _ _))
  cases x.who with
  | spore slot at_ => exact sporeReport_quiet hlog hrec hu _ _ _
  | _ => exact hu

/-- Engines stop without a completion. -/
theorem enginesStop_quiet : Quiet A s0 s.enginesStop :=
  holds_forNums (P := Quiet A s0) _ (fun e _ _ hu => modEng_quiet (dropSporeWork_quiet hlog hrec hu e) _ _) h

end

/-! ### The desk after what is quiet -/

theorem enter_mgt (s : State) (dst : OpState) (cause : Nat) : (s.enter dst cause).mgt = { s.mgt with notify := true } := by
  unfold State.enter
  dsimp only
  rw [(only_mirror_twn _ _ _ _ _).keeps_mgt]
  simp only [State.notify, State.modMgt_fields,
    (only_note (ps := [.regs, .log]) _ _ _ _ _ (Only.refl _ _) (by decide) (by decide)).keeps_mgt, State.modOps_fields]

/-- A state in which the desk's own parts and the registers of the rings are as they were. -/
theorem SameDesk.of_kept {l : List Part} {s u : State} (hs : cellsRise s.regs) (h : Only l s u) (hregs : DeskRegs s u)
    (hmgt : u.mgt.sent = s.mgt.sent ∧ u.mgt.cmd = s.mgt.cmd) (hrole : u.twn.role = s.twn.role)
    (hl : ∀ p ∈ [Part.host, .cmd, .live], p ∉ l := by decide) : SameDesk s u where
  host := h.keeps_host (hl _ (by decide))
  cmd := h.keeps_cmd (hl _ (by decide))
  mgt := hmgt
  role := hrole
  pair := pair_congr (h.keeps_live (hl _ (by decide)))
  base r := (hregs hs).2 _ _ _ (onDesk_cqBase r)
  cfg r := (hregs hs).2 _ _ _ (onDesk_ringCfg r)

theorem glbLogLost_offDesk : ¬ onDesk (regAddr .glbLogLost 0 0) := by unfold onDesk; decide
theorem ntSporeRecLost_offDesk : ¬ onDesk (regAddr .ntSporeRecLost 0 0) := by unfold onDesk; decide

end Sys2Proof.Machine
end

section
/-! OPS_ARM, OPS_START, OPS_STOP, OPS_DISARM and ARM_LOST (R114, R379, R380, R383, R393). -/

-- The proofs are elaborated one after the other: this bounds the threads of the compiler, whose stacks count as its memory.
set_option Elab.async false

namespace Sys2Proof.Machine

/-- What a fold makes true at one member of its list, given what holds at each of its steps, holds at the end. -/
theorem forNums_makes {P Q : State → Prop} {f : Nat → State → State} {xs : List Nat} {s : State} {n : Nat} (hn : n ∈ xs)
    (hmake : ∀ u, Q u → P (f n u)) (hq : ∀ i ∈ xs, ∀ u, Q u → Q (f i u)) (hp : ∀ i ∈ xs, ∀ u, P u → P (f i u)) (hs : Q s) :
    P (forNums xs f s) := by
  induction xs generalizing s with
  | nil => simp at hn
  | cons x xs ih =>
    have hq' := fun i hi => hq i (List.mem_cons_of_mem x hi)
    have hp' := fun i hi => hp i (List.mem_cons_of_mem x hi)
    rcases List.mem_cons.mp hn with rfl | hmem
    · exact holds_forNums xs hp' (hmake s hs)
    · exact ih hmem hq' hp' (hq x (List.mem_cons_self ..) s hs)

/-! ### Profile channels at rest -/

/-- Every profile channel rests at a position (R114). -/
def PrfRest (p : Vector PrfChan 8) : Prop := ∀ i < 8, ∃ x : Int, vget p i {} = { p := x * 2 ^ 32, tgt := x }

theorem prfInit_engN_other (s : State) {i e : Nat} (h : e ≠ i) : (s.prfInit i).engN e = s.engN e :=
  holds_forNums (P := fun u => u.engN e = s.engN e) _ (fun _ _ u hu => (State.engN_modEng_other u i e _ h).trans hu) rfl

/-- The initial positions of an engine's profile channels. -/
theorem prfInit_engN_same (s : State) {e : Nat} (he : e < 8) : ∃ p, (s.prfInit e).engN e = { s.engN e with prf := p } ∧ PrfRest p := by
  have hstep (u : State) (c : Nat) (f : PrfChan → PrfChan) :
      (u.modPrf e c f).engN e = { u.engN e with prf := vset (u.engN e).prf c (f (vget (u.engN e).prf c {})) } :=
    State.engN_modEng_same u e _ he
  have hprf : ∃ p, (s.prfInit e).engN e = { s.engN e with prf := p } :=
    holds_forNums (P := fun u => ∃ p, u.engN e = { s.engN e with prf := p }) _
      (fun c _ u ⟨p, hp⟩ => ⟨_, (hstep u c _).trans (by rw [hp])⟩) ⟨_, rfl⟩
  obtain ⟨p, hp⟩ := hprf
  refine ⟨p, hp, fun i hi => ?_⟩
  have hset (u : State) (x : Int) : ∃ y : Int, vget ((u.modPrf e i fun _ => { p := x * 2 ^ 32, tgt := x }).engN e).prf i {}
      = { p := y * 2 ^ 32, tgt := y } := ⟨x, by rw [hstep]; exact vget_vset_same _ _ _ _ hi⟩
  have hrest : ∃ x : Int, vget ((s.prfInit e).engN e).prf i {} = { p := x * 2 ^ 32, tgt := x } := by
    refine forNums_reaches (P := fun u => ∃ x : Int, vget (u.engN e).prf i {} = { p := x * 2 ^ 32, tgt := x })
      (List.mem_range.mpr hi) (fun u => hset u _) fun c _ u ⟨x, hx⟩ => ?_
    by_cases hc : i = c
    · subst hc
      exact hset u _
    · exact ⟨x, by rw [hstep]; exact (vget_vset_other _ _ _ _ _ hc).trans hx⟩
  rwa [hp] at hrest

/-! ### Engines that start -/

theorem refreshWork_engN_other (s : State) {i e : Nat} (h : e ≠ i) : (s.refreshWork i).engN e = s.engN e := by
  unfold State.refreshWork
  split
  · split
    · rfl
    · exact State.engN_modEng_other _ _ _ _ h
  · exact State.engN_modEng_other _ _ _ _ h

theorem engineReset_engN_other (s : State) {i e : Nat} (h : e ≠ i) : (s.engineReset i).engN e = s.engN e := by
  unfold State.engineReset
  split
  · rfl
  · exact (prfInit_engN_other _ h).trans ((refreshWork_engN_other _ h).trans (State.engN_modEng_other _ _ _ _ h))

theorem engineReset_rest {s : State} {e : Nat} (he : e < 8) (h : PrfRest (s.engN e).prf) : PrfRest ((s.engineReset e).engN e).prf := by
  unfold State.engineReset
  split
  · exact h
  · obtain ⟨p, hp, hrest⟩ := prfInit_engN_same (State.refreshWork (s.modEng e _) e) he
    rw [hp]
    exact hrest

/-- An engine starts: it executes from its next boundary on (R68). -/
def State.engineStart (s : State) (e : Nat) : State :=
  (s.engineReset e).modEng e fun n => { n with executing := true, armReset := true }

theorem engineStart_engN_other (s : State) {i e : Nat} (h : e ≠ i) : (s.engineStart i).engN e = s.engN e :=
  (State.engN_modEng_other _ _ _ _ h).trans (engineReset_engN_other s h)

theorem engineStart_engN_same (s : State) {e : Nat} (he : e < 8) : (s.engineStart e).engN e
    = { (s.engineReset e).engN e with executing := true, armReset := true } := State.engN_modEng_same _ _ _ he

/-- The profile channels of every engine take their initial positions. -/
def State.prfInits (s : State) : State := forNums (List.range 8) (fun e s => s.prfInit e) s

theorem prfInits_engN (s : State) {e : Nat} (he : e < 8) : ∃ p, s.prfInits.engN e = { s.engN e with prf := p } ∧ PrfRest p := by
  have hsame (u : State) (hu : ∃ p, u.engN e = { s.engN e with prf := p }) :
      ∃ p, (u.prfInit e).engN e = { s.engN e with prf := p } ∧ PrfRest p := by
    obtain ⟨p, hp⟩ := hu
    obtain ⟨q, hq, hrest⟩ := prfInit_engN_same u he
    exact ⟨q, hq.trans (by rw [hp]), hrest⟩
  refine forNums_makes (P := fun u => ∃ p, u.engN e = { s.engN e with prf := p } ∧ PrfRest p)
    (Q := fun u => ∃ p, u.engN e = { s.engN e with prf := p }) (List.mem_range.mpr he) hsame (fun i _ u hu => ?_)
    (fun i _ u ⟨p, hp, hrest⟩ => ?_) ⟨_, rfl⟩
  · by_cases hi : e = i
    · subst hi
      obtain ⟨p, hp, -⟩ := hsame u hu
      exact ⟨p, hp⟩
    · obtain ⟨p, hp⟩ := hu
      exact ⟨p, (prfInit_engN_other u hi).trans hp⟩
  · by_cases hi : e = i
    · subst hi
      exact hsame u ⟨p, hp⟩
    · exact ⟨p, (prfInit_engN_other u hi).trans hp, hrest⟩

theorem only_prfInits (s : State) : Only [.eng] s s.prfInits := by
  unfold State.prfInits
  simp +contextual +decide only [only_forNums, only_prfInit, Only.refl, implies_true]

theorem enginesStart_eq (s : State) : s.enginesStart
    = forNums ((List.range 8).filter s.allOffSets.prfInits.canRun) (fun e s => s.engineStart e) s.allOffSets.prfInits := rfl

/-- R68, R114: the engines that can run start, every other one keeps all but its profile channels, and all of these rest. -/
theorem enginesStart_engN (s : State) {e : Nat} (he : e < 8) :
    (s.canRun e = true → (s.enginesStart.engN e).executing = true ∧ (s.enginesStart.engN e).armReset = true) ∧
    (s.canRun e = false → ∃ p, s.enginesStart.engN e = { s.engN e with prf := p }) ∧ PrfRest (s.enginesStart.engN e).prf := by
  have hoff := only_allOffSets (ps := [.pwm]) s (Only.refl _ s) (by decide)
  have heng : s.allOffSets.engN e = s.engN e := by rw [State.engN, hoff.keeps_eng, State.engN]
  obtain ⟨p, hp, hrest⟩ := prfInits_engN s.allOffSets he
  have hrun : s.allOffSets.prfInits.canRun e = s.canRun e := by
    simp only [State.canRun, State.lvb, hp, heng, (only_prfInits _).keeps_live, hoff.keeps_live]
  rw [enginesStart_eq, ← hrun, ← heng]
  generalize s.allOffSets = u at *
  generalize u.prfInits = v at *
  have hrestv : PrfRest (v.engN e).prf := by rwa [hp]
  refine ⟨fun hcan => ?_, fun hcan => ⟨p, ?_⟩, ?_⟩
  · refine forNums_reaches (P := fun w => (w.engN e).executing = true ∧ (w.engN e).armReset = true)
      (List.mem_filter.mpr ⟨List.mem_range.mpr he, hcan⟩) (fun w => ?_) fun i _ w hw => ?_
    · rw [engineStart_engN_same w he]
      exact ⟨rfl, rfl⟩
    · by_cases hi : e = i
      · subst hi
        rw [engineStart_engN_same w he]
        exact ⟨rfl, rfl⟩
      · rwa [engineStart_engN_other w hi]
  · refine holds_forNums (P := fun w => w.engN e = { u.engN e with prf := p }) _ (fun i hmem w hw => ?_) hp
    have hi : e ≠ i := by
      rintro rfl
      simp [hcan] at hmem
    rw [engineStart_engN_other w hi, hw]
  · refine holds_forNums (P := fun w => PrfRest (w.engN e).prf) _ (fun i _ w hw => ?_) hrestv
    by_cases hi : e = i
    · subst hi
      rw [engineStart_engN_same w he]
      exact engineReset_rest he hw
    · rwa [engineStart_engN_other w hi]

/-! ### OPS_ARM -/

/-- The device enters ARMED, and its engines start. -/
def State.armed (s : State) : State := (s.enter .armed s.cmdCause).enginesStart

theorem armed_effect (s : State) : s.armed.ops = { s.ops with st := .armed, prev := s.ops.st.code, cause := s.cmdCause, stateNt := s.nt64 } ∧
    s.armed.nt = s.nt ∧ (∀ e < 8, (s.canRun e = true → (s.armed.engN e).executing = true ∧ (s.armed.engN e).armReset = true) ∧
      (s.canRun e = false → ∃ p, s.armed.engN e = { s.engN e with prf := p }) ∧ PrfRest (s.armed.engN e).prf) ∧
    (cellsRise s.regs → SameDesk s s.armed) := by
  have honly := only_enter_state s .armed s.cmdCause
  have hops := enter_ops s .armed s.cmdCause
  have hmgt := enter_mgt s .armed s.cmdCause
  have hregs := kept_enter (.refl s) glbLogLost_offDesk .armed s.cmdCause
  obtain ⟨hrole, -⟩ := (twin_enter .armed s.cmdCause (.refl s)).fields
  unfold State.armed
  generalize s.enter .armed s.cmdCause = u at *
  have hstart : Only [.eng, .pwm] u u.enginesStart := by simp +decide only [only_enginesStart, Only.refl]
  have heng (e : Nat) (he : e < 8) := enginesStart_engN u he
  have hrun (e : Nat) : u.canRun e = s.canRun e := by
    simp only [State.canRun, State.lvb, State.engN, honly.keeps_live, honly.keeps_eng]
  have hengN (e : Nat) : u.engN e = s.engN e := by simp only [State.engN, honly.keeps_eng]
  generalize u.enginesStart = v at *
  refine ⟨by rw [hstart.keeps_ops, hops], by rw [hstart.keeps_nt, honly.keeps_nt], fun e he => ?_, fun hrise => ?_⟩
  · rw [← hrun, ← hengN]
    exact heng e he
  · refine .of_kept hrise (honly.trans (hstart.mono (l' := .eng :: .pwm :: enterParts) (by decide)) (by decide))
      (kept_of_only hstart hregs) ?_ (by rw [hstart.keeps_twn, hrole])
    rw [hstart.keeps_mgt, hmgt]
    exact ⟨rfl, rfl⟩

section
variable {s : State} {c : Src}

theorem opsArm_idle (hst : s.ops.st = .idle) (h : s.armBlock = 0) : s.opsArm c = s.armed.done c 0x0610 := by
  simp only [State.opsArm, hst, h, if_true, State.armed]

theorem opsArm_blocked (hst : s.ops.st = .idle) (h : s.armBlock ≠ 0) : s.opsArm c = s.refuse c 0x0610 .checkFail s.armBlock := by
  simp only [State.opsArm, hst, h, if_false]

theorem opsArm_stopping (hst : s.ops.st = .stopping) : s.opsArm c = s.busyStop.refuse c 0x0610 .busyStopping 0 := by
  simp only [State.opsArm, hst]

theorem opsArm_hot (hst : s.ops.st = .armed ∨ s.ops.st = .running) : s.opsArm c = s.done c 0x0610 1 := by
  unfold State.opsArm
  rcases hst with hst | hst <;> rw [hst]

end

theorem armBlock_took (s : State) (c : Src) : (s.took c).armBlock = s.armBlock := by
  rw [took_eq_desk]
  rfl

theorem canRun_took (s : State) (c : Src) (e : Nat) : (s.took c).canRun e = s.canRun e := by
  rw [took_eq_desk]
  rfl

theorem engN_took (s : State) (c : Src) (e : Nat) : (s.took c).engN e = s.engN e := by simp [State.engN]

theorem nt64_took (s : State) (c : Src) : (s.took c).nt64 = s.nt64 := by simp [State.nt64]

theorem obey_of_given {s : State} {c : Src} {op : Nat} {p : Bytes} (h : s.given c op p = true) (hst : s.ops.st ≠ .halted)
    (f : State → State) : s.obey c op p f = f (s.took c) := obey_of_admits ⟨h, fun hh => hst hh.1⟩ f

/-- The refusals of STOPPING count, and the command's answer leaves the count. -/
theorem busyStop_refuse {s : State} (hs : s.storesCanonical) (c : Src) (op : Nat) :
    ((s.busyStop.refuse c op .busyStopping 0).reg .glbBusyStopCnt).toNat = min ((s.reg .glbBusyStopCnt).toNat + 1) 0xFFFFFFFF := by
  obtain ⟨hcount, -, -⟩ := counts_count hs .glbBusyStopCnt 0
  have hrise : cellsRise s.busyStop.regs := regsRise_of_storesCanonical (storesCanonical_setReg hs _ _ _ _)
  obtain ⟨-, hkept⟩ := kept_complete (s := s.busyStop) c op .busyStopping 0 0 (.refl _) hrise
  rw [← hcount]
  exact congrArg BitVec.toNat (hkept .glbBusyStopCnt 0 0 (by unfold offCompletion; decide))

/-- What counts outside the registers of the rings leaves the desk as it was. -/
theorem sameDesk_count {s : State} (hs : cellsRise s.regs) (r : Reg) (i n : Nat) (hr : ¬ onDesk (regAddr r i 0)) : SameDesk s (s.count r i n) :=
  .of_kept (l := [.regs]) hs (only_count r i n (Only.refl _ s) (by decide)) (kept_count r i n (.refl s) hr) ⟨rfl, rfl⟩ rfl

/-! ### OPS_START and OPS_STOP -/

section
variable {s : State} {c : Src} {p : Bytes} {take : Option DWord} (heng : pb p 0 < 8)
include heng

/-- A start or a stop that waits: the command is mirrored, and nothing else changes. -/
theorem pendOp_mirror (op : Nat) : (s.mirror c op p (take.getD 0)).pendOp c p take = s.pendOp c p take ∧ (s.pendOp c p take).engine.val = pb p 0 := by
  have hmirror := only_mirror_twn s c op p (take.getD 0)
  exact ⟨by simp only [State.pendOp, State.acceptedAt, hmirror.keeps_mgt, hmirror.keeps_cmd, hmirror.keeps_now], Nat.mod_eq_of_lt heng⟩

theorem opsStart_armed (hst : s.ops.st = .armed) : (s.opsStart c p take).ops = { s.ops with starts := s.ops.starts ++ [s.pendOp c p take] } ∧
    Only [.ops, .twn] s (s.opsStart c p take) := by
  have hmirror := only_mirror_twn s c 0x0611 p (take.getD 0)
  obtain ⟨hpend, -⟩ := pendOp_mirror (s := s) (c := c) (take := take) heng 0x0611
  have hact : s.opsStart c p take = (s.mirror c 0x0611 p (take.getD 0)).modOps fun o => { o with
      starts := o.starts ++ [s.pendOp c p take] } := by
    have hfew : ¬ 7 < pb p 0 := by omega
    simp only [State.opsStart, hfew, hst, if_false, hpend]
  rw [hact]
  generalize s.mirror c 0x0611 p (take.getD 0) = m at hmirror
  exact ⟨by simp [hmirror.keeps_ops], only_modOps _ (hmirror.mono (by decide)) (by decide)⟩

theorem opsStop_armed (hst : s.ops.st = .armed ∨ s.ops.st = .running) :
    (s.opsStop c p take).ops = { s.ops with stops := s.ops.stops ++ [s.pendOp c p take] } ∧ Only [.ops, .twn] s (s.opsStop c p take) := by
  have hmirror := only_mirror_twn s c 0x0612 p (take.getD 0)
  obtain ⟨hpend, -⟩ := pendOp_mirror (s := s) (c := c) (take := take) heng 0x0612
  have hact : s.opsStop c p take = (s.mirror c 0x0612 p (take.getD 0)).modOps fun o => { o with
      stops := o.stops ++ [s.pendOp c p take] } := by
    have hfew : ¬ 7 < pb p 0 := by omega
    rcases hst with hst | hst <;> simp only [State.opsStop, hfew, hst, if_false, hpend]
  rw [hact]
  generalize s.mirror c 0x0612 p (take.getD 0) = m at hmirror
  exact ⟨by simp [hmirror.keeps_ops], only_modOps _ (hmirror.mono (by decide)) (by decide)⟩

theorem opsStart_stopping (hst : s.ops.st = .stopping) : s.opsStart c p take = s.busyStop.refuse c 0x0611 .busyStopping 0 := by
  simp only [State.opsStart, show ¬ 7 < pb p 0 by omega, hst, if_false]

theorem opsStart_idle (hst : s.ops.st = .idle) : s.opsStart c p take = s.refuse c 0x0611 .error 2 := by
  simp only [State.opsStart, show ¬ 7 < pb p 0 by omega, hst, if_false]

theorem opsStart_running (hst : s.ops.st = .running) : s.opsStart c p take = s.done c 0x0611 1 := by
  simp only [State.opsStart, show ¬ 7 < pb p 0 by omega, hst, if_false]

theorem opsStop_rest (hst : s.ops.st = .idle ∨ s.ops.st = .stopping) : s.opsStop c p take = s.done c 0x0612 1 := by
  rcases hst with hst | hst <;> simp only [State.opsStop, show ¬ 7 < pb p 0 by omega, hst, if_false]

end

/-! ### ARMED to IDLE -/

theorem only_forceLows_parts (s : State) (l : List Nat) (at_ : Nat) : Only [.regs, .pwm, .gdl, .trp] s (s.forceLows l at_) :=
  only_forceLows s l at_ (Only.refl _ s) (by decide) (by decide) (by decide) (by decide)

theorem desk_forceLows {s0 s : State} (l : List Nat) (at_ : Nat) (h : DeskRegs s0 s) : DeskRegs s0 (s.forceLows l at_) := by
  refine kept_forNums _ _ (fun n u hu => ?_) (kept_of_only (only_overlapsGone (ps := [.pwm]) s l.contains l (Only.refl _ s) (by decide)) h)
  unfold State.forceLow
  exact desk_lvlOff n at_ (desk_modChan n hu _)


/-- R379: ARMED ends, no start is pending, and no engine executes; where no start was pending the desk finds what it found. -/
theorem toIdle_effect (s : State) (cause : Nat) :
    (s.toIdle cause).ops = { s.ops with st := .idle, prev := s.ops.st.code, cause := cause, stateNt := s.nt64, starts := [] } ∧
    (∀ e < 8, ((s.toIdle cause).engN e).executing = false) ∧
    (cellsRise s.regs → s.ops.starts = [] → SameDesk s (s.toIdle cause) ∧ (s.toIdle cause).nt64 = s.nt64) := by
  have honly := only_enter_state s .idle cause
  have hops := enter_ops s .idle cause
  have hmgt := enter_mgt s .idle cause
  have hregs : DeskRegs s (s.enter .idle cause) := kept_enter (.refl s) glbLogLost_offDesk .idle cause
  have htwin := twin_enter .idle cause (.refl s)
  simp only [State.toIdle, State.dropStarts]
  generalize s.enter .idle cause = u at *
  have hstop := only_enginesStop_parts u
  have hexec (e : Nat) (he : e < 8) := enginesStop_executing u he
  have htwin' := twin_enginesStop htwin
  obtain ⟨hquiet, hqregs, hclock⟩ := enginesStop_quiet (A := onDesk) glbLogLost_offDesk ntSporeRecLost_offDesk
    ⟨Only.refl _ u, .refl u, rfl⟩
  generalize u.enginesStop = v at *
  have hdrop := only_dropStartsIf_parts v fun _ => 3
  have hdropOps := dropStartsIf_ops v fun _ => 3
  have hdropNone (h : v.ops.starts = []) : v.dropStartsIf (fun _ => 3) = v.modOps fun o => { o with starts := [] } := by
    rw [State.dropStartsIf, h]; rfl
  generalize v.dropStartsIf (fun _ => 3) = w at *
  have hlows := only_forceLows_parts w (List.range 192) (ctlTick w.now)
  have hlowRegs := desk_forceLows (s0 := s) (s := w) (List.range 192) (ctlTick w.now)
  generalize w.forceLows (List.range 192) (ctlTick w.now) = x at *
  have hxops : x.ops = { v.ops with starts := [] } := hlows.keeps_ops.trans hdropOps
  refine ⟨by rw [hxops, hstop.keeps_ops, hops], fun e he => ?_, fun hrise hnone => ?_⟩
  · rw [State.engN, hlows.keeps_eng, hdrop.keeps_eng]
    exact hexec e he
  · have hw := hdropNone (by rw [hstop.keeps_ops, hops]; exact hnone)
    have hwv : Only [.ops] v w := hw ▸ only_modOps _ (Only.refl _ v) (by decide)
    have hmgtx : x.mgt = { s.mgt with notify := true } := by
      rw [hlows.keeps_mgt, hwv.keeps_mgt, hquiet.keeps_mgt, hmgt]
    obtain ⟨hrole, -⟩ := htwin'.fields
    have hxregs := hlowRegs (kept_of_only hwv fun h => ?_)
    · refine ⟨.of_kept (l := .pwm :: .gdl :: .trp :: .eng :: .waits :: .nt :: enterParts) hrise ?_ hxregs ?_ ?_, ?_⟩
      · exact ((honly.trans (hquiet.mono (by decide)) (by decide)).trans (hwv.mono (by decide)) fun p hp => hp).trans
          (hlows.mono (by decide)) fun p hp => hp
      · rw [hmgtx]
        exact ⟨rfl, rfl⟩
      · rw [hlows.keeps_twn, hwv.keeps_twn, hrole]
      · rw [State.nt64, hlows.keeps_nt, hwv.keeps_nt]
        exact hclock.trans (by rw [State.nt64, honly.keeps_nt, State.nt64])
    · obtain ⟨hu, huregs⟩ := hregs h
      obtain ⟨hv, hvregs⟩ := hqregs hu
      exact ⟨hv, fun r i j ha => (hvregs r i j ha).trans (huregs r i j ha)⟩

section
variable {s : State} {c : Src}

theorem opsDisarm_armed (hst : s.ops.st = .armed) : s.opsDisarm c = (s.toIdle s.cmdCause).done c 0x0613 := by
  simp only [State.opsDisarm, hst]

theorem opsDisarm_idle (hst : s.ops.st = .idle) : s.opsDisarm c = s.done c 0x0613 1 := by
  simp only [State.opsDisarm, hst]

theorem execArmLost_blocked (hst : s.ops.st = .armed) (h : s.armBlock ≠ 0) : execArmLost s = .next (s.toIdle 5) := by
  simp [execArmLost, hst, h]

end

/-- Settles O19: each command by the state it finds. -/
theorem armingStartingAndStopping : Obligations.ArmingStartingAndStopping := by
  refine ⟨?armed, ?blocked, ?armStopping, ?armHot, ?start, ?stop, ?startStopping, ?startIdle, ?startRunning, ?stopRest, ?disarm,
    ?disarmAnswer, ?disarmIdle, ?lost⟩
  case armed =>
    intro c s hs hgiven hst hblock
    refine ⟨_, congrArg Host.Outcome.next (obey_of_given hgiven (by simp [hst]) _), ?_⟩
    rw [opsArm_idle (by simpa) (by rwa [armBlock_took])]
    obtain ⟨hops, hnt, heng, hdesk⟩ := armed_effect (s.took c)
    generalize (s.took c).armed = u at *
    have hengN (e : Nat) : (u.done c 0x0610).engN e = u.engN e := by simp [State.engN]
    refine ⟨by simp [hops], by simp [hops, hst, OpState.code], fun e he hrun => ?_, fun e he hrun => ?_, fun e he => ?_, ?_⟩
    · rw [hengN]
      exact (heng e he).1 (by rwa [canRun_took])
    · rw [hengN, ← engN_took s c]
      exact (heng e he).2.1 (by rwa [canRun_took])
    · rw [hengN]
      exact (heng e he).2.2
    · exact answered_done hs (hdesk (by simpa using regsRise_of_storesCanonical hs)) (by simpa using hnt)
  case blocked =>
    intro c s hs hgiven hst hblock
    refine ⟨_, congrArg Host.Outcome.next (obey_of_given hgiven (by simp [hst]) _), ?_⟩
    rw [opsArm_blocked (by simpa) (by rwa [armBlock_took]), armBlock_took]
    exact ⟨by simp, by simp, answered_refuse hs (.refl _)⟩
  case armStopping =>
    intro c s hs hgiven hst
    refine ⟨_, congrArg Host.Outcome.next (obey_of_given hgiven (by simp [hst]) _), ?_⟩
    rw [opsArm_stopping (by simpa)]
    refine ⟨by simp [State.busyStop], by simp [State.busyStop], ?_, answered_refuse hs ?_⟩
    · rw [busyStop_refuse (storesCanonical_took hs c)]
      simp [State.reg]
    · exact sameDesk_count (by simpa using regsRise_of_storesCanonical hs) _ _ _ (by unfold onDesk; decide)
  case armHot =>
    intro c s hs hgiven hst
    refine ⟨_, congrArg Host.Outcome.next (obey_of_given hgiven (by rcases hst with h | h <;> simp [h]) _), ?_⟩
    rw [opsArm_hot (by simpa)]
    exact ⟨by simp, by simp, answered_done hs (.refl _) (by simp)⟩
  case start =>
    intro c p s hgiven hst heng
    refine ⟨_, congrArg Host.Outcome.next (obey_of_given hgiven (by simp [hst]) _), ?_⟩
    obtain ⟨hops, honly⟩ := opsStart_armed (s := s.took c) (c := c) (take := (s.took c).controlTake c 0x0611 p) heng (by simpa)
    obtain ⟨-, heng'⟩ := pendOp_mirror (s := s.took c) (c := c) (take := (s.took c).controlTake c 0x0611 p) heng 0x0611
    exact ⟨hostSame_of (by simp [honly.keeps_host]), by simp [honly.keeps_eng], _, by simpa using hops, rfl, heng', acceptedAt_took s c⟩
  case stop =>
    intro c p s hgiven hst heng
    refine ⟨_, congrArg Host.Outcome.next (obey_of_given hgiven (by rcases hst with h | h <;> simp [h]) _), ?_⟩
    obtain ⟨hops, honly⟩ := opsStop_armed (s := s.took c) (c := c) (take := (s.took c).controlTake c 0x0612 p) heng (by simpa)
    obtain ⟨-, heng'⟩ := pendOp_mirror (s := s.took c) (c := c) (take := (s.took c).controlTake c 0x0612 p) heng 0x0612
    exact ⟨hostSame_of (by simp [honly.keeps_host]), by simp [honly.keeps_eng], _, by simpa using hops, rfl, heng', acceptedAt_took s c⟩
  case startStopping =>
    intro c p s hs hgiven hst heng
    refine ⟨_, congrArg Host.Outcome.next (obey_of_given hgiven (by simp [hst]) _), ?_⟩
    rw [opsStart_stopping heng (by simpa)]
    refine ⟨by simp [State.busyStop], ?_, answered_refuse hs ?_⟩
    · rw [busyStop_refuse (storesCanonical_took hs c)]
      simp [State.reg]
    · exact sameDesk_count (by simpa using regsRise_of_storesCanonical hs) _ _ _ (by unfold onDesk; decide)
  case startIdle =>
    intro c p s hs hgiven hst heng
    refine ⟨_, congrArg Host.Outcome.next (obey_of_given hgiven (by simp [hst]) _), ?_⟩
    rw [opsStart_idle heng (by simpa)]
    exact ⟨by simp, answered_refuse hs (.refl _)⟩
  case startRunning =>
    intro c p s hs hgiven hst heng
    refine ⟨_, congrArg Host.Outcome.next (obey_of_given hgiven (by simp [hst]) _), ?_⟩
    rw [opsStart_running heng (by simpa)]
    exact ⟨by simp, answered_done hs (.refl _) (by simp)⟩
  case stopRest =>
    intro c p s hs hgiven hst heng
    refine ⟨_, congrArg Host.Outcome.next (obey_of_given hgiven (by rcases hst with h | h <;> simp [h]) _), ?_⟩
    rw [opsStop_rest heng (by simpa)]
    exact ⟨by simp, answered_done hs (.refl _) (by simp)⟩
  case disarm =>
    intro c s hgiven hst
    refine ⟨_, congrArg Host.Outcome.next (obey_of_given hgiven (by simp [hst]) _), ?_⟩
    rw [opsDisarm_armed (by simpa)]
    obtain ⟨hops, heng, -⟩ := toIdle_effect (s.took c) (s.took c).cmdCause
    refine ⟨by simp [hops], by simp [hops, hst, OpState.code], by simp [hops], fun e he => ?_⟩
    rw [State.engN, (only_done_answer _ _ _ _).keeps_eng]
    exact heng e he
  case disarmAnswer =>
    intro c s hs hgiven hst hnone
    refine ⟨_, congrArg Host.Outcome.next (obey_of_given hgiven (by simp [hst]) _), ?_⟩
    rw [opsDisarm_armed (by simpa)]
    obtain ⟨-, -, hquiet⟩ := toIdle_effect (s.took c) (s.took c).cmdCause
    obtain ⟨hdesk, hclock⟩ := hquiet (by simpa using regsRise_of_storesCanonical hs) (by simpa)
    rw [← nt64_took s c, ← hclock]
    exact answered_complete hs hdesk _
  case disarmIdle =>
    intro c s hs hgiven hst
    refine ⟨_, congrArg Host.Outcome.next (obey_of_given hgiven (by simp [hst]) _), ?_⟩
    rw [opsDisarm_idle (by simpa)]
    exact ⟨by simp, answered_done hs (.refl _) (by simp)⟩
  case lost =>
    intro s hst hblock
    obtain ⟨hops, heng, -⟩ := toIdle_effect s 5
    exact ⟨_, execArmLost_blocked hst hblock, by rw [hops], by rw [hops], by rw [hops], heng⟩

end Sys2Proof.Machine
end

section
/-! OPS_HALT, the end of the turn-off and the reset of the main side (R382, R386, R459). -/

-- The proofs are elaborated one after the other: this bounds the threads of the compiler, whose stacks count as its memory.
set_option Elab.async false

namespace Sys2Proof.Machine

/-! ### What a reset of the main side leaves -/

theorem setRel_keeps (c : SafChan) (rel : Bool) (now : Nat) : (c.setRel rel now).code = c.code ∧ (c.setRel rel now).pset = c.pset := by
  unfold SafChan.setRel
  split
  · exact ⟨rfl, rfl⟩
  · split <;> exact ⟨rfl, rfl⟩

/-- R459: a reset of the main side drops the token and the commits; the anchors and the parameter set of channel B stay. -/
theorem mainReset_clears (s : State) (cause : Nat) : (s.mainReset cause).stg.token = none ∧ (s.mainReset cause).stg.pendings = [] ∧
    (s.mainReset cause).sec.anchors = s.sec.anchors ∧ (s.mainReset cause).saf.chB.pset = s.saf.chB.pset := by
  have h (u : State) := only_enter_state u .boot cause
  simp only [State.mainReset, (h _).keeps_stg, (h _).keeps_sec, (h _).keeps_saf]
  exact ⟨rfl, rfl, rfl, (setRel_keeps ..).2⟩

theorem mgtReset_clears (s : State) (c : Src) : (s.mgtReset c).stg.token = none ∧ (s.mgtReset c).stg.pendings = [] ∧
    (s.mgtReset c).sec.anchors = s.sec.anchors ∧ (s.mgtReset c).saf.chB.pset = s.saf.chB.pset := by
  have hcommits := only_refuseCommits s.stg.pendings (s.modStg fun g => { g with pendings := [] })
  have hreset := mainReset_clears (s.stg.pendings.foldl (fun s p => s.refuse p.src 0x0204 .error 4)
    (s.modStg fun g => { g with pendings := [] })) 6
  rw [hcommits.keeps_sec, hcommits.keeps_saf] at hreset
  unfold State.mgtReset
  dsimp only
  split
  · simp only [done_fields]
    exact hreset
  · exact hreset

/-! ### A reset that waits for the turn-off -/

theorem mgtAnswer_resetReq (s : State) (m : MgtCmd) (entry : Bytes) (st : Status) : (s.mgtAnswer m entry st).mgt.resetReq = s.mgt.resetReq := by
  unfold State.mgtAnswer State.mctpSend
  dsimp only
  split <;> rfl

theorem complete_resetReq (s : State) (c : Src) (op : Nat) (st : Status) (d : Nat) (at_ : DWord) :
    (s.complete c op st d at_).mgt.resetReq = s.mgt.resetReq := by
  have hentry : ((s.dropCommand c).writeEntry c op st d at_).mgt = s.mgt :=
    (only_writeEntry (ps := [.regs, .cmd, .host]) (s.dropCommand c) c op st d at_ (Only.refl _ _) (by decide) (by decide)
      (by decide)).keeps_mgt
  unfold State.complete
  split
  · rfl
  · split
    · split
      · exact mgtAnswer_resetReq ..
      · rfl
    · dsimp only
      split <;> exact congrArg MgtState.resetReq hentry

theorem dropStarts_resetReq (s : State) (d : Nat) : (s.dropStarts d).mgt.resetReq = s.mgt.resetReq :=
  holds_foldl (P := fun u => u.mgt.resetReq = s.mgt.resetReq) s.ops.starts
    (fun u p _ hu => (complete_resetReq u p.src 0x0611 .error d 0).trans hu) rfl

/-- The parts that the turn-off of all channels may change. -/
def stopParts : List Part := [.regs, .pwm, .gdl, .trp]

theorem only_stopChannels_parts (s : State) : Only stopParts s s.stopChannels :=
  only_stopChannels s (Only.refl _ s) (by decide) (by decide) (by decide) (by decide)

/-- The device as a main reset of ARMED or RUNNING leaves it. -/
def State.resetWaits (s : State) (c : Src) : State :=
  (((s.modMgt fun m => { m with resetReq := some c }).enginesStop).dropStarts 3).stopChannels

/-- R459: in ARMED and RUNNING the reset waits for the turn-off. -/
theorem resetWaits_effect (s : State) (c : Src) : (s.resetWaits c).ops.st = s.ops.st ∧ (s.resetWaits c).mgt.resetReq = some c ∧
    (∀ e < 8, ((s.resetWaits c).engN e).executing = false) ∧
    ∀ n < 192, isOuter n = true → ((s.resetWaits c).chan n).gc = false := by
  unfold State.resetWaits
  have hmod : Only [.mgt] s (s.modMgt fun m => { m with resetReq := some c }) := only_modMgt _ (Only.refl _ s) (by decide)
  have hreq : (s.modMgt fun m => { m with resetReq := some c }).mgt.resetReq = some c := rfl
  generalize (s.modMgt fun m => { m with resetReq := some c }) = u at *
  have hstop := only_enginesStop_parts u
  have hquiet := (enginesStop_quiet (A := onDesk) glbLogLost_offDesk ntSporeRecLost_offDesk ⟨Only.refl _ u, .refl u, rfl⟩).parts
  have hexec (e : Nat) (he : e < 8) := enginesStop_executing u he
  generalize u.enginesStop = v at *
  have hdrop : Only (.ops :: answerParts) v (v.dropStarts 3) := only_dropStartsIf_parts v fun _ => 3
  have hdropOps : (v.dropStarts 3).ops = { v.ops with starts := [] } := dropStartsIf_ops v fun _ => 3
  have hdropReq := dropStarts_resetReq v 3
  generalize v.dropStarts 3 = w at *
  have hchan := only_stopChannels_parts w
  refine ⟨?_, ?_, fun e he => ?_, fun n hn hout => stopChannels_gc hn w hout⟩
  · rw [hchan.keeps_ops, hdropOps, hstop.keeps_ops, hmod.keeps_ops]
  · rw [hchan.keeps_mgt, hdropReq, hquiet.keeps_mgt, hreq]
  · rw [State.engN, hchan.keeps_eng, hdrop.keeps_eng]
    exact hexec e he

/-! ### The commands by their branches -/

theorem opsMainReset_hot {s : State} (h : s.ops.st = .armed ∨ s.ops.st = .running) (c : Src) : s.opsMainReset c = s.resetWaits c := by
  unfold State.opsMainReset
  rcases h with h | h <;> rw [h] <;> rfl

theorem opsMainReset_cold {s : State} (h : s.ops.st = .idle ∨ s.ops.st = .halted ∨ s.ops.st = .selftest ∨ s.ops.st = .boot) (c : Src) :
    s.opsMainReset c = s.mgtReset c := by
  unfold State.opsMainReset
  rcases h with h | h | h | h <;> rw [h]

theorem execOpsMainReset_given {c : Src} {s : State} (h : s.given c 0x0615 [] = true) (hst : s.ops.st ≠ .off) :
    execOpsMainReset c s = .next ((s.took c).opsMainReset c) := by
  simp [execOpsMainReset, acting_of_given h, hst]

theorem opsHalt_halted {s : State} (h : s.ops.st = .halted) (c : Src) : s.opsHalt c = s.done c 0x0614 1 := if_pos h

theorem opsHalt_live {s : State} (h : s.ops.st ≠ .halted) (c : Src) :
    s.opsHalt c = (s.halt (if c.ring.val = 128 then 0x28 else 0x27)).done c 0x0614 := if_neg h

theorem only_ackOverdue_parts (s : State) : Only [.free, .regs, .pwm, .gdl, .trp, .nt, .log, .acq, .twn] s s.ackOverdue := by
  simp +decide only [only_ackOverdue, Only.refl]

section
variable {s : State} (h : ∀ k < 16, s.configured k = true → s.ackOverdue.stackIsOff k = true)
include h

/-- R382: the off sequence has ended once every configured stack is off, overdue confirmations judged first. -/
theorem ackOverdue_off : ((List.range 16).filter s.ackOverdue.configured).all s.ackOverdue.stackIsOff = true := by
  have honly := only_ackOverdue_parts s
  have hconf (k : Nat) : s.ackOverdue.configured k = s.configured k := by
    rw [State.configured, State.configured, State.nStacks, State.nStacks, State.lv, State.lv, honly.keeps_live]
  simpa [hconf, or_iff_not_imp_left] using h

theorem execOffSequenceComplete_waited {c : Src} (hreq : s.mgt.resetReq = some c) :
    execOffSequenceComplete s = .next (s.ackOverdue.mgtReset c) := by
  simp only [execOffSequenceComplete, ackOverdue_off h, (only_ackOverdue_parts s).keeps_mgt, hreq, if_true]

theorem execOffSequenceComplete_stopping (hst : s.ops.st = .stopping) (hreq : s.mgt.resetReq = none) :
    execOffSequenceComplete s = .next (s.ackOverdue.enter .idle 7) := by
  simp only [execOffSequenceComplete, ackOverdue_off h, (only_ackOverdue_parts s).keeps_mgt, (only_ackOverdue_parts s).keeps_ops, hreq, hst,
    if_true]

end

/-- Settles O20: halting from any other state; the turn-off's end by what waits for it; the reset by the state. -/
theorem haltStopAndMainResetEnterTheirStates : Obligations.HaltStopAndMainResetEnterTheirStates := by
  refine ⟨?halts, ?halted, ?idle, ?waited, ?resets, ?waits⟩
  case halts =>
    intro c s hgiven hst hoff
    refine ⟨_, congrArg Host.Outcome.next (acting_of_given hgiven _), ?_⟩
    beta_reduce
    obtain ⟨hops, -, hdem, -⟩ := halt_effect (s := s.took c) (cause := if c.ring.val = 128 then 0x28 else 0x27) (by simpa) (by simpa)
    rw [opsHalt_live (by simpa)]
    simp [hops, hdem]
  case halted =>
    intro c s hs hgiven hst
    refine ⟨_, congrArg Host.Outcome.next (acting_of_given hgiven _), ?_⟩
    beta_reduce
    rw [opsHalt_halted (by simpa)]
    exact ⟨by simp, by simp, by simp, answered_done hs (.refl _) (by simp)⟩
  case idle =>
    intro s hst hoff hreq
    have honly := only_ackOverdue_parts s
    refine ⟨_, execOffSequenceComplete_stopping hoff hst hreq, ?_⟩
    beta_reduce
    rw [enter_ops, (only_enter_state _ _ _).keeps_pwm, honly.keeps_ops, hst]
    exact ⟨rfl, rfl, rfl, rfl⟩
  case waited =>
    intro c s hoff hreq
    have honly := only_ackOverdue_parts s
    refine ⟨_, execOffSequenceComplete_waited hoff hreq, ?_⟩
    obtain ⟨-, -, hboot, hcause, hcnt⟩ := mgtReset_effect s.ackOverdue c
    obtain ⟨htoken, hpend, -, -⟩ := mgtReset_clears s.ackOverdue c
    exact ⟨hboot, hcause, by rw [hcnt, honly.keeps_sec], htoken, hpend⟩
  case resets =>
    intro c s hgiven hst
    refine ⟨_, execOpsMainReset_given hgiven (by rcases hst with h | h | h | h <;> simp [h]), ?_⟩
    rw [opsMainReset_cold (by simpa)]
    obtain ⟨-, -, hboot, hcause, hcnt⟩ := mgtReset_effect (s.took c) c
    obtain ⟨htoken, hpend, hanchors, hpset⟩ := mgtReset_clears (s.took c) c
    exact ⟨hboot, hcause, by simp [hcnt], htoken, hpend, by simp [hanchors], by simp [hpset]⟩
  case waits =>
    intro c s hgiven hst
    refine ⟨_, execOpsMainReset_given hgiven (by rcases hst with h | h <;> simp [h]), ?_⟩
    rw [opsMainReset_hot (by simpa)]
    simpa using resetWaits_effect (s.took c) c

end Sys2Proof.Machine
end

section
/-! The safety channels: what a change of the release and a safety fault leave; inputs, off-pulses and readbacks (R250 to R262). -/

-- The proofs are elaborated one after the other: this bounds the threads of the compiler, whose stacks count as its memory.
set_option Elab.async false

namespace Sys2Proof.Machine

theorem le_now_advanceTo (s : State) (n : Nat) : n ≤ (s.advanceTo n).now := by
  rw [now_advanceTo]
  exact le_max_right _ _

/-! ### A channel and a pair by number -/

theorem safChan_modSafCh_same (s : State) (ch : SafCh) (f : SafChan → SafChan) : (s.modSafCh ch f).safChan ch = f (s.safChan ch) := by
  unfold State.safChan State.modSafCh
  cases ch <;> rfl

theorem safChan_modSafCh_other {ch ch' : SafCh} (h : ch' ≠ ch) (s : State) (f : SafChan → SafChan) :
    (s.modSafCh ch f).safChan ch' = s.safChan ch' := by
  unfold State.safChan State.modSafCh
  cases ch <;> cases ch' <;> simp_all [State.modSaf]

theorem safChan_of_saf {s t : State} (h : t.saf = s.saf) (ch : SafCh) : t.safChan ch = s.safChan ch := by
  rw [State.safChan, State.safChan, h]

theorem safPair_modPair_same {k : Nat} (hk : k < 4) (s : State) (f : SafPair → SafPair) : (s.modPair k f).safPair k = f (s.safPair k) :=
  vget_vset_same _ _ _ _ hk

/-! ### The release -/

section
variable (s : State)

theorem only_safUpdate_parts : Only [.regs, .eng, .waits, .pwm, .gdl, .trp, .saf, .nt, .cmd, .ops, .log, .host, .twn, .mgt] s s.safUpdate := by
  simp +decide only [only_safUpdate, Only.refl]

/-- The stop that a lost release brings leaves the safety channels as the judgement made them. -/
theorem safUpdate_saf : s.safUpdate.saf = s.safJudge.saf := by
  have hoff (u : State) : (u.turnOffAll false).saf = u.saf :=
    (only_turnOffAll (ps := [.regs, .pwm, .gdl, .trp]) u false (Only.refl _ u) (by decide) (by decide) (by decide) (by decide)).keeps_saf
  have hidle (u : State) : (u.toIdle 4).saf = u.saf := Only.keeps_saf (l := [.regs, .eng, .waits, .pwm, .gdl, .trp, .nt, .cmd, .ops, .log,
    .host, .twn, .mgt]) (by simp +decide only [only_toIdle, Only.refl])
  have hstop (u : State) : (u.toStopping 4).saf = u.saf := Only.keeps_saf (l := [.regs, .eng, .waits, .pwm, .gdl, .trp, .nt, .cmd, .ops,
    .log, .host, .twn, .mgt]) (by simp +decide only [only_toStopping, Only.refl])
  unfold State.safUpdate
  dsimp only
  split
  · split
    · exact hstop _
    · exact (hoff _).trans (hidle _)
    · exact hoff _
  · split
    · exact hoff _
    · rfl

/-- Outside ARMED and RUNNING a change of the release moves the outputs alone. -/
theorem only_safUpdate_calm (harmed : s.ops.st ≠ .armed) (hrun : s.ops.st ≠ .running) : Only [.saf, .regs, .pwm, .gdl, .trp] s s.safUpdate := by
  have hjudge : Only [.saf, .regs, .pwm, .gdl, .trp] s s.safJudge := (only_safJudge_saf s).mono (by decide)
  have hoff : Only [.saf, .regs, .pwm, .gdl, .trp] s (s.safJudge.turnOffAll false) :=
    only_turnOffAll _ false hjudge (by decide) (by decide) (by decide) (by decide)
  have hops : s.safJudge.ops = s.ops := hjudge.keeps_ops
  unfold State.safUpdate
  dsimp only
  rw [hops]
  split
  · split
    · next h => exact absurd h hrun
    · next h => exact absurd h harmed
    · exact hoff
  · exact only_ite hoff hjudge

variable {s}

theorem safMayRelease_of_pair {k : Nat} (hk : k < 4) (hkind : s.pairKind k = 1 ∨ s.pairKind k = 2)
    (h : (s.safPair k).demand = true ∨ (s.safPair k).disc = true) : s.safMayRelease = false := by
  have hall : ((List.range 4).all fun k => !(s.pairKind k = 1 || s.pairKind k = 2)
      || (!(vget s.saf.pairs k {}).demand && !(vget s.saf.pairs k {}).disc && (s.pairKind k = 1 || (vget s.saf.pairs k {}).passed))) = false := by
    rw [List.all_eq_false]
    refine ⟨k, List.mem_range.mpr hk, ?_⟩
    have hguard : ¬ s.pairKind k = 1 → s.pairKind k = 2 := or_iff_not_imp_left.mp hkind
    rcases h with h | h <;> rw [State.safPair] at h <;> simpa [h] using hguard
  unfold State.safMayRelease
  dsimp only
  rw [hall]
  rfl

/-- R250: with what withholds it, a change takes both releases away and leaves pairs and codes. -/
theorem safUpdate_withheld (h : s.safMayRelease = false) : s.safUpdate.saf.chA.rel = false ∧ s.safUpdate.saf.chB.rel = false ∧
    ∀ k, s.safUpdate.safPair k = s.safPair k := by
  obtain ⟨hA, hB⟩ := safJudge_rel h
  obtain ⟨a, b, hold, heq, -⟩ := safJudge_saf s
  refine ⟨by rw [safUpdate_saf, hA], by rw [safUpdate_saf, hB], fun k => ?_⟩
  rw [State.safPair, safUpdate_saf, heq]
  rfl

end

/-! ### Demands and discrepancies -/

section
variable (s : State) (k : Nat)

/-- R250: the beginning of a demand asks for a reset where the pair is one for demands; no other part of the channels changes. -/
theorem demandBegins_saf : ∃ b, (s.demandBegins k).saf = { s.saf with resetReq := b } := by
  have hrest (u : State) : (if u.ops.st = .off then u else
      (((u.count .safDemandCnt).setReg .safDemandNt 0 0 u.nt64).safNote (20 + k) |>.acqOffer 7
        (((u.count .safDemandCnt).setReg .safDemandNt 0 0 u.nt64).reg .safDemandNt) 0 fun _ => true).ptmAsk 3
        (((u.count .safDemandCnt).setReg .safDemandNt 0 0 u.nt64).reg .safDemandNt) 0).saf = u.saf := by
    split
    · rfl
    · exact Only.keeps_saf (l := [.regs, .log, .nt, .acq]) (by
        simp (maxDischargeDepth := 20) +decide only [only_ptmAsk, only_acqOffer, only_safNote, only_setReg, only_count, Only.refl])
  by_cases hkind : s.pairKind k = 1
  · refine ⟨true, ?_⟩
    unfold State.demandBegins
    rw [if_pos hkind]
    exact hrest _
  · refine ⟨s.saf.resetReq, ?_⟩
    unfold State.demandBegins
    rw [if_neg hkind]
    exact hrest _

variable {s k}

/-- R250, R251: a pair that demands takes the release away. -/
theorem demandPair_effect (hk : k < 4) (hkind : s.pairKind k = 1 ∨ s.pairKind k = 2) {old new : Bool × Bool} (hnew : (new.1 || new.2) = true) :
    ((s.demandPair k old new).safPair k).demand = true ∧ (s.demandPair k old new).saf.chA.rel = false ∧
    (s.demandPair k old new).saf.chB.rel = false := by
  unfold State.demandPair
  dsimp only
  have hpair : ((s.modPair k (s.pairDemands k old new)).safPair k).demand = true := by
    rw [safPair_modPair_same hk]
    exact hnew
  have hkind' : (s.modPair k (s.pairDemands k old new)).pairKind k = 1 ∨ (s.modPair k (s.pairDemands k old new)).pairKind k = 2 := hkind
  generalize s.modPair k (s.pairDemands k old new) = u at *
  have hjudged (v : State) (b : Bool) (hv : v.saf = { u.saf with resetReq := b }) : (v.safUpdate.safPair k).demand = true ∧
      v.safUpdate.saf.chA.rel = false ∧ v.safUpdate.saf.chB.rel = false := by
    have hvpair : v.safPair k = u.safPair k := by rw [State.safPair, hv, State.safPair]
    have hvkind : v.pairKind k = u.pairKind k := by rw [State.pairKind, hv, State.pairKind]; rfl
    obtain ⟨hA, hB, hp⟩ := safUpdate_withheld (safMayRelease_of_pair hk (hvkind ▸ hkind') (.inl (hvpair ▸ hpair)))
    exact ⟨by rw [hp, hvpair, hpair], hA, hB⟩
  split
  · obtain ⟨b, hb⟩ := demandBegins_saf u k
    exact hjudged _ b hb
  · exact hjudged u u.saf.resetReq rfl

end

/-! ### Safety faults -/

/-- The parts that entry to HALTED may change. -/
def haltParts : List Part :=
  [.free, .regs, .eng, .waits, .pwm, .gdl, .trp, .saf, .nt, .eth, .cmd, .ops, .log, .stg, .acq, .dma, .dram, .host, .twn, .mgt]

theorem only_halt_parts (s : State) (cause : Nat) : Only haltParts s (s.halt cause) := by
  simp +decide only [only_halt, Only.refl]

/-- Entry to HALTED leaves the latched fault and its codes. -/
theorem halt_saf (s : State) (cause : Nat) : (s.halt cause).saf.fault = s.saf.fault ∧ (s.halt cause).saf.chA.code = s.saf.chA.code ∧
    (s.halt cause).saf.chB.code = s.saf.chB.code ∧ (s.halt cause).saf.chB.pset = s.saf.chB.pset := by
  by_cases h : s.ops.st = .halted ∨ s.ops.st = .off
  · rw [halt_of_halted cause h]
    exact ⟨rfl, rfl, rfl, rfl⟩
  · rw [not_or] at h
    rw [halt_eq h.1 h.2]
    have h1 := (haltEntered_effect s cause).1.keeps_saf
    generalize s.haltEntered cause = u1 at *
    have h2 := (only_haltOff u1).keeps_saf
    generalize u1.haltOff = u2 at *
    have h3 : u2.haltDemand.saf.fault = u2.saf.fault ∧ u2.haltDemand.saf.chA.code = u2.saf.chA.code ∧
        u2.haltDemand.saf.chB.code = u2.saf.chB.code ∧ u2.haltDemand.saf.chB.pset = u2.saf.chB.pset := by
      obtain ⟨a, b, hold, heq, ha, hb, -, hp⟩ := safJudge_saf (u2.modSaf fun f => { f with intDemand := true })
      rw [State.haltDemand, heq]
      exact ⟨rfl, ha, hb, hp⟩
    generalize u2.haltDemand = u3 at *
    have h4 := (only_haltDrop u3).keeps_saf
    generalize u3.haltDrop = u4 at *
    have h5 := (only_haltCores u4).keeps_saf
    split <;> simp only [h5, h4, h3, h2, h1, and_self]

/-- A safety fault as latched, before the device halts. -/
def State.safLatched (s : State) (ch : SafCh) (code : Nat) : State :=
  (((s.modSaf fun f => { f with fault := true }).modSafCh ch fun c => { c with code := code }).safJudge.safNote 9).notify

theorem safLatched_effect (s : State) (ch : SafCh) (code : Nat) : (s.safLatched ch code).saf.fault = true ∧
    ((s.safLatched ch code).safChan ch).code = code ∧ (∀ ch', ch' ≠ ch → ((s.safLatched ch code).safChan ch').code = (s.safChan ch').code) ∧
    (s.safLatched ch code).saf.chA.rel = false ∧ (s.safLatched ch code).saf.chB.rel = false ∧
    Only [.saf, .regs, .log, .mgt] s (s.safLatched ch code) := by
  have hu : (s.modSaf fun f => { f with fault := true }).modSafCh ch (fun c => { c with code := code }) =
      (s.modSaf fun f => { f with fault := true }).modSafCh ch (fun c => { c with code := code }) := rfl
  generalize hv : (s.modSaf fun f => { f with fault := true }).modSafCh ch (fun c => { c with code := code }) = u at hu
  have hfault : u.saf.fault = true := by subst hv; cases ch <;> rfl
  have hcode (ch' : SafCh) : (u.safChan ch').code = if ch' = ch then code else (s.safChan ch').code := by
    subst hv; cases ch <;> cases ch' <;> rfl
  have honly : Only [.saf, .regs, .log, .mgt] s u := by
    subst hv; simp +decide only [State.modSafCh, only_modSaf, Only.refl]
  obtain ⟨hA, hB⟩ := safJudge_rel (safMayRelease_of_fault hfault)
  obtain ⟨a, b, hold, heq, ha, hb, -⟩ := safJudge_saf u
  have hnote : ((u.safJudge.safNote 9).notify).saf = u.safJudge.saf := Only.keeps_saf (l := [.regs, .log, .mgt]) (by
    simp +decide only [only_notify, only_safNote, Only.refl])
  have hlatched : s.safLatched ch code = (u.safJudge.safNote 9).notify := by subst hv; rfl
  have hparts : Only [.saf, .regs, .log, .mgt] s ((u.safJudge.safNote 9).notify) := by
    simp (maxDischargeDepth := 10) +decide only [only_notify, only_safNote, only_safJudge, honly]
  have hcodes (ch' : SafCh) : ((s.safLatched ch code).safChan ch').code = (u.safChan ch').code := by
    rw [hlatched, safChan_of_saf hnote, State.safChan, heq, State.safChan]
    cases ch' <;> simp [ha, hb]
  refine ⟨?_, ?_, fun ch' h => ?_, ?_, ?_, hlatched ▸ hparts⟩
  · rw [hlatched, hnote, heq]
    exact hfault
  · rw [hcodes, hcode, if_pos rfl]
  · rw [hcodes, hcode, if_neg h]
  · rw [hlatched, hnote, hA]
  · rw [hlatched, hnote, hB]

theorem safFault_now (s : State) (ch : SafCh) (code : Nat) : (s.safFault ch code).now = s.now := by
  obtain ⟨-, -, -, -, -, honly⟩ := safLatched_effect s ch code
  exact (only_halt_parts (s.safLatched ch code) 0x25).keeps_now.trans honly.keeps_now

/-- R261: what a safety fault leaves. -/
theorem safFault_effect (s : State) (ch : SafCh) (code : Nat) : SafetyFaulted ch code s (s.safFault ch code) ∧
    (∀ ch', ch' ≠ ch → ((s.safFault ch code).safChan ch').code = (s.safChan ch').code) := by
  obtain ⟨hfault, hcode, hother, hA, hB, honly⟩ := safLatched_effect s ch code
  have heq : s.safFault ch code = (s.safLatched ch code).halt 0x25 := rfl
  rw [heq]
  have hops := honly.keeps_ops
  generalize s.safLatched ch code = u at *
  obtain ⟨hf, ha, hb, -⟩ := halt_saf u 0x25
  have hcodes (ch' : SafCh) : ((u.halt 0x25).safChan ch').code = (u.safChan ch').code := by
    cases ch' <;> simp [State.safChan, ha, hb]
  have hrel : (u.halt 0x25).saf.chA.rel = false ∧ (u.halt 0x25).saf.chB.rel = false := by
    by_cases h : u.ops.st = .halted ∨ u.ops.st = .off
    · rw [halt_of_halted _ h]
      exact ⟨hA, hB⟩
    · obtain ⟨hst, hoff⟩ := not_or.mp h
      obtain ⟨-, -, -, hA', hB', -⟩ := halt_effect (cause := 0x25) hst hoff
      exact ⟨hA', hB'⟩
  refine ⟨⟨by rw [hf, hfault], by rw [hcodes, hcode], hrel.1, hrel.2, fun hoff => ?_, fun hoff hst => ?_⟩, fun ch' h => by rw [hcodes, hother ch' h]⟩
  · by_cases hst : u.ops.st = .halted
    · rw [halt_of_halted _ (.inl hst), hst]
    · rw [(halt_effect (cause := 0x25) hst (hops ▸ hoff)).1]
  · rw [(halt_effect (cause := 0x25) (hops ▸ hst) (hops ▸ hoff)).1]

/-! ### The commands -/

/-- A safety input line takes a level. -/
def State.lineTaken (s : State) (k : Nat) (lineB level : Bool) : State :=
  s.modPair k fun p => if lineB then { p with lineB := level } else { p with lineA := level }

theorem lineTaken_kind (s : State) (k : Nat) (lineB level : Bool) : (s.lineTaken k lineB level).pairKind k = s.pairKind k := rfl

theorem lineTaken_demands (s : State) {k : Nat} (hk : k < 4) (lineB level : Bool) :
    (s.lineTaken k lineB level).lineDemands k ((s.lineTaken k lineB level).safPair k) =
    s.lineDemands k (if lineB then { s.safPair k with lineB := level } else { s.safPair k with lineA := level }) := by
  rw [State.lineTaken, safPair_modPair_same hk]
  rfl

theorem safInput_demands {s : State} {k : Nat} (hkind : s.pairKind k = 1 ∨ s.pairKind k = 2) (lineB level : Bool) :
    s.safInput k lineB level = (s.lineTaken k lineB level).demandPair k (s.lineDemands k (s.safPair k))
      ((s.lineTaken k lineB level).lineDemands k ((s.lineTaken k lineB level).safPair k)) := by
  have h : s.safInput k lineB level = match (s.lineTaken k lineB level).pairKind k with
    | 0 => s.lineTaken k lineB level
    | 3 => (s.lineTaken k lineB level).resetPair k ((s.lineTaken k lineB level).lineDemands k ((s.lineTaken k lineB level).safPair k))
    | _ => (s.lineTaken k lineB level).demandPair k (s.lineDemands k (s.safPair k))
      ((s.lineTaken k lineB level).lineDemands k ((s.lineTaken k lineB level).safPair k)) := rfl
  rw [h, lineTaken_kind]
  rcases hkind with h | h <;> rw [h] <;> rfl

/-- A discrepancy as it stands before it counts. -/
def State.discrepant (s : State) (k t0 : Nat) : State :=
  (s.advanceTo (t0 + s.discT k)).modPair k fun p => { p with disc := true, discBoth := false, since := none }

theorem discrepant_effect (s : State) {k : Nat} (hk : k < 4) (t0 : Nat) : ((s.discrepant k t0).safPair k).disc = true ∧
    (s.discrepant k t0).pairKind k = s.pairKind k ∧ (s.discrepant k t0).ops = s.ops ∧ t0 + s.discT k ≤ (s.discrepant k t0).now := by
  refine ⟨by rw [State.discrepant, safPair_modPair_same hk], ?_, by simp [State.discrepant, State.modPair], ?_⟩
  · have h : (s.discrepant k t0).pairKind k = (s.advanceTo (t0 + s.discT k)).pairKind k := rfl
    rw [h, State.pairKind, State.pairKind, (only_advanceTo_time s _).keeps_saf]
  · have h : (s.discrepant k t0).now = (s.advanceTo (t0 + s.discT k)).now := rfl
    rw [h, now_advanceTo]
    exact le_max_right _ _

theorem execDiscrepancy_late {k : Fin 4} {t0 : Nat} {s : State} (hkind : s.pairKind k = 1 ∨ s.pairKind k = 2)
    (hsince : (s.safPair k).since = some t0) (hdisc : (s.safPair k).disc = false) : execDiscrepancy k s =
    .next (if (s.discrepant k t0).ops.st = .off then s.discrepant k t0
      else (((s.discrepant k t0).count .safDiscCnt).safNote (16 + k)).safUpdate) := by
  simp only [execDiscrepancy, hsince]
  rw [if_pos (by simpa [hdisc] using hkind)]
  rfl

/-- A channel's off-pulse begins. -/
def State.pulsed (s : State) (ch : SafCh) : State :=
  s.modSafCh ch fun c => { c with gen := false, fb := false, pulse := some s.now, changeAt := s.now, annAt := some s.now }

theorem execOffPulseStart_releasing {ch : SafCh} {first : Nat} {s : State} (hfirst : (s.safChan ch).firstRel = some first)
    (hrel : (s.safChan ch).rel = true) (hpulse : (s.safChan ch).pulse = none) :
    execOffPulseStart ch s = .next ((s.advanceTo (s.nextPulse ch first)).pulsed ch) := by
  simp only [execOffPulseStart, hfirst, hrel, hpulse]
  rfl

/-- A channel's off-pulse ends. -/
def State.unpulsed (s : State) (ch : SafCh) : State :=
  s.modSafCh ch fun c => { c with gen := c.rel, fb := c.rel, pulse := none, changeAt := s.now }

theorem execOffPulseEnd_pulsing {ch : SafCh} {at_ : Nat} {s : State} (hpulse : (s.safChan ch).pulse = some at_) :
    execOffPulseEnd ch s = .next (if (s.safChan ch).fb = false then
        ((s.advanceTo (at_ + s.safPw)).unpulsed ch).count (if ch = .a then .safPulseCntA else .safPulseCntB)
      else (s.advanceTo (at_ + s.safPw)).unpulsed ch) := by
  have hchan : (s.advanceTo (at_ + s.safPw)).safChan ch = s.safChan ch := safChan_of_saf (by simp) ch
  simp only [execOffPulseEnd, hpulse, hchan, State.unpulsed]
  cases (s.safChan ch).fb <;> simp

/-- A channel's readback is a level. -/
def State.readsLevel (s : State) (ch : SafCh) (level : Bool) : State :=
  s.modSafCh ch fun c => { c with fb := level, annAt := if level && c.pulse.isNone then none else c.annAt }

theorem readsLevel_effect (s : State) (ch : SafCh) (level : Bool) : (s.readsLevel ch level).safChan ch = { s.safChan ch with
      fb := level, annAt := if level && (s.safChan ch).pulse.isNone then none else (s.safChan ch).annAt } ∧
    (s.readsLevel ch level).saf.fault = s.saf.fault ∧ (s.readsLevel ch level).ops = s.ops ∧ (s.readsLevel ch level).now = s.now := by
  refine ⟨safChan_modSafCh_same s ch _, ?_, rfl, rfl⟩
  unfold State.readsLevel State.modSafCh
  simp only [State.modSaf_fields]
  split <;> rfl

/-- A channel's readback is taken 50 µs after a change. -/
def State.readBack (s : State) (ch : SafCh) (level : Bool) : State :=
  (s.advanceTo ((s.safChan ch).changeAt + 1600000)).readsLevel ch level

theorem readBack_effect (s : State) (ch : SafCh) (level : Bool) : (s.readBack ch level).safChan ch = { s.safChan ch with
      fb := level, annAt := if level && (s.safChan ch).pulse.isNone then none else (s.safChan ch).annAt } ∧
    (s.readBack ch level).saf.fault = s.saf.fault ∧ (s.readBack ch level).ops = s.ops ∧
    (s.safChan ch).changeAt + 1600000 ≤ (s.readBack ch level).now := by
  have honly := only_advanceTo_time s ((s.safChan ch).changeAt + 1600000)
  obtain ⟨hchan, hfault, hops, hnow⟩ := readsLevel_effect (s.advanceTo ((s.safChan ch).changeAt + 1600000)) ch level
  rw [State.readBack, hchan, hfault, hops, hnow, safChan_of_saf honly.keeps_saf, honly.keeps_saf, honly.keeps_ops]
  exact ⟨rfl, rfl, rfl, le_now_advanceTo s _⟩

theorem execReadbackCheck_eq (ch : SafCh) (level : Bool) (s : State) : execReadbackCheck ch level s =
    if level = (s.safChan ch).gen then .next (s.readBack ch level) else .next ((s.readBack ch level).safFault ch (if level then 1 else 2)) := by
  unfold execReadbackCheck
  simp only [beq_iff_eq]
  rfl

theorem SafetyFaulted.of_ops {ch : SafCh} {code : Nat} {s u t : State} (h : SafetyFaulted ch code u t) (hops : u.ops = s.ops) :
    SafetyFaulted ch code s t := by
  unfold SafetyFaulted at *
  rwa [← hops]

theorem storesCanonical_of_only {l : List Part} {s t : State} (h : Only l s t) (hs : s.storesCanonical)
    (hl : ∀ p ∈ [Part.host, .dram, .live, .regs, .stg], p ∉ l := by decide) : t.storesCanonical := by
  unfold State.storesCanonical at *
  rwa [h.keeps_host (hl _ (by decide)), h.keeps_dram (hl _ (by decide)), h.keeps_live (hl _ (by decide)),
    h.keeps_regs (hl _ (by decide)), h.keeps_stg (hl _ (by decide))]

/-- Settles O25: a demand by what a pair's change leaves; the pulses and readbacks channel by channel. -/
theorem safetyInputsAndOffPulses : Obligations.SafetyInputsAndOffPulses := by
  refine ⟨?input, ?discrepancy, ?pulseStart, ?pulseEnd, ?readback⟩
  case input =>
    intro k lineB level s hkind hdem
    refine ⟨_, congrArg Host.Outcome.next (safInput_demands hkind lineB level), ?_⟩
    exact demandPair_effect k.isLt ((lineTaken_kind s k lineB level).symm ▸ hkind)
      (lineTaken_demands s k.isLt lineB level ▸ hdem)
  case discrepancy =>
    intro k t0 s hkind hsince hdisc
    have hk := k.isLt
    refine ⟨_, execDiscrepancy_late hkind hsince hdisc, ?_⟩
    beta_reduce
    obtain ⟨hpair, hkind', hops, hnow⟩ := discrepant_effect s hk t0
    rw [← hkind'] at hkind
    generalize s.discrepant k t0 = u at *
    rw [← hops]
    split
    · next h => exact ⟨hpair, hnow, fun hn => absurd h hn⟩
    · have hnote : Only [.regs, .log] u ((u.count .safDiscCnt).safNote (16 + k)) := by
        simp (maxDischargeDepth := 10) +decide only [only_safNote, only_count, Only.refl]
      have hsaf := hnote.keeps_saf
      have hnow' := hnote.keeps_now
      generalize (u.count .safDiscCnt).safNote (16 + k) = v at *
      have hvpair : v.safPair k = u.safPair k := by rw [State.safPair, hsaf, State.safPair]
      have hvkind : v.pairKind k = u.pairKind k := by rw [State.pairKind, hsaf, State.pairKind]
      obtain ⟨hA, hB, hp⟩ := safUpdate_withheld (safMayRelease_of_pair hk (hvkind ▸ hkind) (.inr (hvpair ▸ hpair)))
      refine ⟨by rw [hp, hvpair, hpair], ?_, fun _ => ⟨hA, hB⟩⟩
      rw [(only_safUpdate_parts v).keeps_now, hnow']
      exact hnow
  case pulseStart =>
    intro ch first s hfirst hrel hpulse
    have hchan (ch' : SafCh) : (s.advanceTo (s.nextPulse ch first)).safChan ch' = s.safChan ch' := safChan_of_saf (by simp) ch'
    have hnow : s.nextPulse ch first ≤ (s.advanceTo (s.nextPulse ch first)).now := le_now_advanceTo s _
    refine ⟨_, execOffPulseStart_releasing hfirst hrel hpulse, ?_⟩
    beta_reduce
    generalize s.advanceTo (s.nextPulse ch first) = u at *
    rw [State.pulsed, safChan_modSafCh_same, hchan]
    exact ⟨rfl, rfl, hrel, hnow, fun ch' h => by rw [safChan_modSafCh_other h, hchan]⟩
  case pulseEnd =>
    intro ch at_ s hs hpulse
    have hchan (ch' : SafCh) : (s.advanceTo (at_ + s.safPw)).safChan ch' = s.safChan ch' := safChan_of_saf (by simp) ch'
    have hnow : at_ + s.safPw ≤ (s.advanceTo (at_ + s.safPw)).now := le_now_advanceTo s _
    have hregs := (only_advanceTo_time s (at_ + s.safPw)).keeps_regs
    have hus : (s.advanceTo (at_ + s.safPw)).storesCanonical := storesCanonical_of_only (only_advanceTo_time s _) hs
    refine ⟨_, execOffPulseEnd_pulsing hpulse, ?_⟩
    beta_reduce
    generalize s.advanceTo (at_ + s.safPw) = u at *
    have hsame : (u.unpulsed ch).safChan ch = { u.safChan ch with gen := (u.safChan ch).rel, fb := (u.safChan ch).rel, pulse := none, changeAt := u.now } :=
      safChan_modSafCh_same u ch _
    have hother (ch' : SafCh) (h : ch' ≠ ch) : (u.unpulsed ch).safChan ch' = s.safChan ch' :=
      (safChan_modSafCh_other h u _).trans (hchan ch')
    have hnow' : at_ + s.safPw ≤ (u.unpulsed ch).now := hnow
    have hvregs : (u.unpulsed ch).regs = s.regs := hregs
    have hvs : (u.unpulsed ch).storesCanonical := hus
    generalize u.unpulsed ch = v at *
    rw [hchan] at hsame
    split
    · obtain ⟨hcount, -, honly⟩ := counts_count (s := v) hvs (if ch = .a then .safPulseCntA else .safPulseCntB) 0
      have hv (ch' : SafCh) : (v.count (if ch = .a then .safPulseCntA else .safPulseCntB)).safChan ch' = v.safChan ch' := rfl
      refine ⟨by rw [hv, hsame], by rw [hv, hsame], by rw [honly.keeps_now]; exact hnow', fun ch' h => by rw [hv, hother ch' h], fun _ => ?_⟩
      rw [hcount, State.reg, State.reg, hvregs]
    · next hfb => exact ⟨by rw [hsame], by rw [hsame], hnow', hother, fun h => absurd h hfb⟩
  case readback =>
    intro ch s
    refine ⟨_, (execReadbackCheck_eq ch _ s).trans (if_pos rfl), ?_⟩
    exact readBack_effect s ch (s.safChan ch).gen

/-- Both channels report copies that still differ. -/
def State.psetDiffers (s : State) : State := (s.modSafCh .a fun c => { c with code := 5 }).safFault .b 5

theorem execPsetMismatchTimeout_differ {s : State} (hset : s.saf.chA.pset ≠ []) (hdiff : s.saf.chA.pset ≠ s.saf.chB.pset) :
    execPsetMismatchTimeout s = .next (s.advanceTo (s.saf.setAt + 32000000000)).psetDiffers := by
  rw [execPsetMismatchTimeout, if_neg (by simp [hset, hdiff])]
  simp only [State.psetDiffers]

theorem psetDiffers_effect (s : State) : SafetyFaulted .a 5 s s.psetDiffers ∧ SafetyFaulted .b 5 s s.psetDiffers ∧
    s.psetDiffers.now = s.now := by
  unfold State.psetDiffers
  have hcode : ((s.modSafCh .a fun c => { c with code := 5 }).safChan .a).code = 5 := by rw [safChan_modSafCh_same]
  have hops : (s.modSafCh .a fun c => { c with code := 5 }).ops = s.ops := rfl
  have hnow : (s.modSafCh .a fun c => { c with code := 5 }).now = s.now := rfl
  generalize (s.modSafCh .a fun c => { c with code := 5 }) = v at *
  obtain ⟨hb, hother⟩ := safFault_effect v .b 5
  obtain ⟨hfault, -, hrest⟩ := hb.of_ops hops
  exact ⟨⟨hfault, (hother .a (by decide)).trans hcode, hrest⟩, hb.of_ops hops, (safFault_now v .b 5).trans hnow⟩

/-- Settles O26: each fault is what a safety fault leaves; what is announced, and copies that agree, are none. -/
theorem safetyFaultsLatchAndHalt : Obligations.SafetyFaultsLatchAndHalt := by
  refine ⟨?readback, ?cross, ?lockstep, ?clock, ?mismatch, ?announced, ?agree⟩
  case readback =>
    intro ch level s hlevel
    obtain ⟨-, -, hops, -⟩ := readBack_effect s ch level
    exact ⟨_, (execReadbackCheck_eq ch _ s).trans (if_neg hlevel), ((safFault_effect _ ch _).1).of_ops hops⟩
  case cross =>
    intro ch s hrel hann
    have hexec : execCrossFault ch s = .next (s.safFault ch 3) := by
      unfold execCrossFault
      dsimp only
      rw [hrel]
      cases h : (s.safChan (if ch = .a then .b else .a)).annAt with
      | none => rfl
      | some t0 => simp [Nat.not_le.mpr (hann t0 h)]
    exact ⟨_, hexec, (safFault_effect s ch 3).1⟩
  case lockstep => exact fun s => ⟨_, rfl, (safFault_effect s .a 4).1⟩
  case clock => exact fun ch s => ⟨_, rfl, (safFault_effect s ch 7).1⟩
  case mismatch =>
    intro s hset hdiff
    refine ⟨_, execPsetMismatchTimeout_differ hset hdiff, ?_⟩
    obtain ⟨ha, hb, hnow⟩ := psetDiffers_effect (s.advanceTo (s.saf.setAt + 32000000000))
    have hops := (only_advanceTo_time s (s.saf.setAt + 32000000000)).keeps_ops
    exact ⟨ha.of_ops hops, hb.of_ops hops, hnow.symm ▸ le_now_advanceTo s _⟩
  case announced =>
    intro ch t0 s hann hle
    show execCrossFault ch s = .next s
    simp [execCrossFault, hann, hle]
  case agree =>
    intro s h
    show execPsetMismatchTimeout s = .next s
    simp [execPsetMismatchTimeout, h]

end Sys2Proof.Machine
end

section
/-! Power-up, boot and self-test (R347, R359, R375, R388, R468). -/

-- The proofs are elaborated one after the other: this bounds the threads of the compiler, whose stacks count as its memory.
set_option Elab.async false

namespace Sys2Proof.Machine

/-! ### Power-up -/

theorem mainReset_sec (s : State) (cause : Nat) : (s.mainReset cause).sec =
    { s.sec with grants := s.sec.grants.filter fun g => g.ring = 128, resetCnt := satInc s.sec.resetCnt } := by
  simp only [State.mainReset, (only_enter_state _ _ _).keeps_sec]
  rfl

theorem mainReset_vinOk (s : State) (cause : Nat) : (s.mainReset cause).ops.vinOk = s.ops.vinOk := by
  simp only [State.mainReset, enter_ops]
  rfl

theorem rep_modRep_same {r : Nat} (hr : r < 129) (s : State) (f : Replay → Replay) : (s.modRep r f).rep r = f (s.rep r) :=
  vget_vset_same _ _ _ _ hr

theorem rep_modRep_other {r r' : Nat} (h : r' ≠ r) (s : State) (f : Replay → Replay) : (s.modRep r f).rep r' = s.rep r' :=
  vget_vset_other _ _ _ _ _ h

/-- R347: with the retention memory lost a ring has no epoch and no key. -/
def State.repCleared (s : State) (r : Nat) : State := s.modRep r fun x => { x with epoch := 0, floorUnset := true, key := none }

/-- The replay record of a ring without epoch and key. -/
def RepBlank (u : State) (r : Nat) : Prop := (u.rep r).epoch = 0 ∧ (u.rep r).floorUnset = true ∧ (u.rep r).key = none

theorem repBlank_repCleared_same {r : Nat} (hr : r < 129) (u : State) : RepBlank (u.repCleared r) r := by
  unfold RepBlank State.repCleared
  rw [rep_modRep_same hr]
  exact ⟨rfl, rfl, rfl⟩

theorem repBlank_repCleared {r : Nat} (hr : r < 129) (i : Nat) {u : State} (hu : RepBlank u r) : RepBlank (u.repCleared i) r := by
  by_cases hi : r = i
  · exact hi ▸ repBlank_repCleared_same hr u
  · unfold RepBlank State.repCleared
    rwa [rep_modRep_other hi]

/-- What of the always-on domain survives a loss of the retention memory. -/
def SecStays (s t : State) : Prop := t.sec.resetCnt = s.sec.resetCnt ∧ t.sec.retentionLost = s.sec.retentionLost ∧
  t.sec.anchors = s.sec.anchors ∧ t.sec.svn = s.sec.svn ∧ Only [.sec] s t

theorem repCleared_stays {s u : State} (h : SecStays s u) (r : Nat) : SecStays s (u.repCleared r) := by
  obtain ⟨h1, h2, h3, h4, h5⟩ := h
  exact ⟨h1, h2, h3, h4, only_modRep r _ h5 (by decide)⟩

/-- R347: every ring loses its epoch and its key. -/
def State.repsCleared (s : State) : State := forNums (List.range 129) (fun r s => s.repCleared r) s

theorem repsCleared_blank (s : State) {r : Nat} (hr : r < 129) : RepBlank s.repsCleared r :=
  forNums_reaches (P := fun u => RepBlank u r) (List.mem_range.mpr hr) (repBlank_repCleared_same hr) fun i _ _ hu => repBlank_repCleared hr i hu

theorem repsCleared_stays (s : State) : SecStays s s.repsCleared :=
  holds_forNums (P := SecStays s) _ (fun r _ _ hu => repCleared_stays hu r) ⟨rfl, rfl, rfl, rfl, Only.refl _ s⟩

/-- The plant keys and the memory of grants go too. -/
def State.plantCleared (s : State) : State := s.modSec fun c => { c with plant := Vector.replicate 4 none, lastGrants := [] }

theorem plantCleared_blank {s : State} {r : Nat} (h : RepBlank s r) : RepBlank s.plantCleared r := h

theorem plantCleared_plant (s : State) : s.plantCleared.sec.plant = Vector.replicate 4 none := rfl

theorem plantCleared_stays {s u : State} (h : SecStays s u) : SecStays s u.plantCleared := by
  obtain ⟨h1, h2, h3, h4, h5⟩ := h
  exact ⟨h1, h2, h3, h4, only_modSec _ h5 (by decide)⟩

/-- The main side as it boots, before the retention memory is judged. -/
def State.poweredUp (s : State) (ok : Bool) : State :=
  ((s.mainReset 0).modSaf fun f => { f with resetReq := true }).modSec fun c => { c with retentionLost := !ok }

theorem powerUp_eq (s : State) (ok : Bool) : s.powerUp ok = if ok then s.poweredUp ok else (s.poweredUp ok).repsCleared.plantCleared := rfl

theorem execPowerOnResetRelease_off {s : State} (hst : s.ops.st = .off) (ok : Bool) : execPowerOnResetRelease ok s =
    .next (if s.arb.strapped then s.modOps fun o => { o with vinOk := true } else (s.modOps fun o => { o with vinOk := true }).powerUp ok) := by
  rw [execPowerOnResetRelease, if_pos hst]
  rfl

theorem powerUp_effect (s : State) (ok : Bool) : (s.powerUp ok).ops.st = .boot ∧ (s.powerUp ok).ops.cause = 0 ∧
    (s.powerUp ok).ops.vinOk = s.ops.vinOk ∧ (s.powerUp ok).sec.resetCnt = satInc s.sec.resetCnt ∧ (s.powerUp ok).sec.retentionLost = !ok ∧
    (s.powerUp ok).sec.anchors = s.sec.anchors ∧ (s.powerUp ok).sec.svn = s.sec.svn ∧ (s.powerUp ok).stg.copy0 = s.stg.copy0 ∧
    (s.powerUp ok).stg.copy1 = s.stg.copy1 := by
  obtain ⟨hcopy0, hcopy1, hst, hcause, -⟩ := mainReset_effect s 0
  have hsec := mainReset_sec s 0
  have hvin := mainReset_vinOk s 0
  have hup : (s.poweredUp ok).sec = { (s.mainReset 0).sec with retentionLost := !ok } := rfl
  have hops : (s.poweredUp ok).ops = (s.mainReset 0).ops := rfl
  have hstg : (s.poweredUp ok).stg = (s.mainReset 0).stg := rfl
  generalize s.mainReset 0 = u at *
  rw [powerUp_eq]
  generalize s.poweredUp ok = v at *
  split
  · simp only [hops, hstg, hup, hsec, hst, hcause, hvin, hcopy0, hcopy1, and_self]
  · obtain ⟨hcnt, hlost, hanchors, hsvn, honly⟩ := plantCleared_stays (repsCleared_stays v)
    simp only [hcnt, hlost, hanchors, hsvn, honly.keeps_ops, honly.keeps_stg, hops, hstg, hup, hsec, hst, hcause, hvin, hcopy0, hcopy1,
      and_self]

/-! ### The parameter set outside ARMED and RUNNING -/

section
variable {s0 : State} (harmed : s0.ops.st ≠ .armed) (hrun : s0.ops.st ≠ .running)
include harmed hrun

theorem safUpdate_ops {s : State} (h : s.ops = s0.ops) : s.safUpdate.ops = s0.ops := by
  rw [(only_safUpdate_calm s (h ▸ harmed) (h ▸ hrun)).keeps_ops, h]

theorem demandPair_ops {s : State} (h : s.ops = s0.ops) (k : Nat) (old new : Bool × Bool) : (s.demandPair k old new).ops = s0.ops := by
  unfold State.demandPair
  dsimp only
  have hu : (s.modPair k (s.pairDemands k old new)).ops = s0.ops := h
  generalize s.modPair k (s.pairDemands k old new) = u at hu
  refine safUpdate_ops harmed hrun ?_
  split
  · exact (Only.keeps_ops (l := [.regs, .saf, .nt, .log, .acq, .mgt]) (by simp +decide only [only_demandBegins, Only.refl])).trans hu
  · exact hu

/-- R375: outside ARMED and RUNNING a new parameter set moves no state. -/
theorem safTakeSet_ops {s : State} (h : s.ops = s0.ops) : s.safTakeSet.ops = s0.ops := by
  unfold State.safTakeSet
  dsimp only
  refine holds_forNums (P := fun u => u.ops = s0.ops) _ (fun k _ u hu => ?_) (holds_ite (P := fun u => u.ops = s0.ops) h h)
  split
  · exact demandPair_ops harmed hrun hu _ _ _
  · exact safUpdate_ops harmed hrun hu

end

/-- What a commit makes of the blocks before the safety channels take their set. -/
def State.blocksCommitted (s : State) : State :=
  let old := s.live
  let s := { s with live := s.stg.stage }
  let s := forNums (List.range 8) (fun e s => s.modEng e fun n => { n with image := vget s.stg.images e none }) s
  let s := s.commitDec old
  let s := forNums (List.range 16) (fun t s => s.tbCommit t) s
  let s := s.clkCommit (fld old .clkRef 0 0 1 0 ≠ s.lv .clkRef 0 0 1 0) (changedOutputs old s.live)
  ((s.commitEngines).commitStacks old).tripsStanding

theorem blocksCommitted_ops (s : State) : s.blocksCommitted.ops = s.ops := by
  have h : Only [.free, .live, .regs, .eng, .waits, .meas, .pwm, .gdl, .trp, .clk, .nt, .cmd, .log, .acq, .host, .twn, .mgt] s
      s.blocksCommitted := by
    have h0 : Only [.free, .live, .regs, .eng, .waits, .meas, .pwm, .gdl, .trp, .clk, .nt, .cmd, .log, .acq, .host, .twn, .mgt] s
        { s with live := s.stg.stage } := by
      have := Only.refl [.free, .live, .regs, .eng, .waits, .meas, .pwm, .gdl, .trp, .clk, .nt, .cmd, .log, .acq, .host, .twn, .mgt] s
      simp +decide only [only_mk, this, or_true, true_or]
    unfold State.blocksCommitted
    simp (maxDischargeDepth := 200) +contextual +decide only [only_clkCommit, only_commitDec, only_commitEngines, only_commitStacks,
      only_modEng, only_tbCommit, only_tripsStanding, only_forNums, implies_true, h0]
  exact h.keeps_ops

/-- The end of a commit. -/
def State.commitEnds (s : State) (old : RegFile) (nt : DWord) : State :=
  let s := if safSet.any (fun r => regGet old r.1 r.2 ≠ regGet s.live r.1 r.2) ∨ (s.saf.chA.pset = [] ∧ !s.cHot) then s.safTakeSet else s
  let s := s.modSec fun c => { c with tamperCfg := (regGet s.live .secTamperCfg).setWidth 32 }
  let s := (s.countWrap .stgCommitCnt).rhizomeCommit
  s.modStg fun g => { g with st := .clean, lastNt := nt, committed := true }

theorem applyStage_parted (s : State) (nt : DWord) : s.applyStage nt = s.blocksCommitted.commitEnds s.live nt := rfl

/-- Outside ARMED and RUNNING a commit moves no state. -/
theorem applyStage_ops {s : State} (harmed : s.ops.st ≠ .armed) (hrun : s.ops.st ≠ .running) (nt : DWord) : (s.applyStage nt).ops = s.ops := by
  rw [applyStage_parted]
  have hops := blocksCommitted_ops s
  generalize s.blocksCommitted = u at *
  have hset (v : State) (hv : v.ops = s.ops) : (((v.modSec fun c => { c with tamperCfg := (regGet v.live .secTamperCfg).setWidth 32 }).countWrap
      .stgCommitCnt).rhizomeCommit.modStg fun g => { g with st := .clean, lastNt := nt, committed := true }).ops = s.ops := by
    refine (Only.keeps_ops (l := [.sec, .regs, .twn, .stg]) (s := v) ?_).trans hv
    simp (maxDischargeDepth := 20) +decide only [only_modStg, only_rhizomeCommit, only_countWrap, only_modSec, Only.refl]
  unfold State.commitEnds
  dsimp only
  split
  · exact hset _ (safTakeSet_ops harmed hrun hops)
  · exact hset _ hops

/-! ### The boot load -/

/-- Which of the stored copies the boot load takes, as it marks them. -/
def State.bootMarked (s : State) (ok0 ok1 none_ : Bool) : State :=
  s.modStg fun g => { g with copy0Ok := ok0, copy1Ok := ok1, repaired := ok0 != ok1, defaulted := none_ }

/-- R375: the reset values are live. -/
def State.loadsDefaults (s : State) : State :=
  (({ s with live := s.mgmtLive }.stageReset).safTakeSet).note 0x13 3 23 (leBytes 8 s.stgStatusWord)

/-- R375: the copy that is good replaces the other one, and its settings are committed. -/
def State.loadsBlock (s : State) (both : Bool) (c : CfgBlock) : State :=
  let s := if both then s else (s.modStg fun g => { g with copy0 := some c, copy1 := some c }).note 0x13 3 22 (leBytes 8 s.stgStatusWord)
  match s.blockStage c.bytes with
  | some (f, imgs) => (s.modStg fun g => { g with stage := f, images := imgs, st := .checked }).applyStage s.nt64
  | none => s

theorem bootLoad_cases (s : State) : (∃ ok0 ok1 none_, s.bootLoad = (s.bootMarked ok0 ok1 none_).loadsDefaults) ∨
    ∃ ok0 ok1 none_ both c, s.bootLoad = (s.bootMarked ok0 ok1 none_).loadsBlock both c := by
  unfold State.bootLoad
  dsimp only
  split
  · exact .inl ⟨_, _, _, rfl⟩
  · exact .inr ⟨_, _, _, _, _, rfl⟩

theorem bootLoad_defaults {s : State} (h0 : s.stg.copy0 = none) (h1 : s.stg.copy1 = none) :
    s.bootLoad = (s.bootMarked false false true).loadsDefaults := by
  simp only [State.bootLoad, h0, h1, State.copyOk]
  rfl

theorem loadsDefaults_ops {s : State} (harmed : s.ops.st ≠ .armed) (hrun : s.ops.st ≠ .running) : s.loadsDefaults.ops = s.ops := by
  unfold State.loadsDefaults
  rw [(only_note (ps := [.regs, .log]) _ _ _ _ _ (Only.refl _ _) (by decide) (by decide)).keeps_ops]
  exact safTakeSet_ops harmed hrun rfl

theorem loadsBlock_ops {s : State} (harmed : s.ops.st ≠ .armed) (hrun : s.ops.st ≠ .running) (both : Bool) (c : CfgBlock) :
    (s.loadsBlock both c).ops = s.ops := by
  unfold State.loadsBlock
  dsimp only
  have hu : (if both then s else (s.modStg fun g => { g with copy0 := some c, copy1 := some c }).note 0x13 3 22
      (leBytes 8 s.stgStatusWord)).ops = s.ops := by
    split
    · rfl
    · exact (only_note (ps := [.regs, .log]) _ _ _ _ _ (Only.refl _ _) (by decide) (by decide)).keeps_ops
  generalize (if both then s else (s.modStg fun g => { g with copy0 := some c, copy1 := some c }).note 0x13 3 22
      (leBytes 8 s.stgStatusWord)) = u at *
  split
  · exact (applyStage_ops (s := u.modStg _) (by simpa [hu]) (by simpa [hu]) _).trans hu
  · exact hu

/-- In the boot load no state changes. -/
theorem bootLoad_ops {s : State} (harmed : s.ops.st ≠ .armed) (hrun : s.ops.st ≠ .running) : s.bootLoad.ops = s.ops := by
  rcases bootLoad_cases s with ⟨ok0, ok1, none_, h⟩ | ⟨ok0, ok1, none_, both, c, h⟩ <;> rw [h]
  · exact loadsDefaults_ops (s := s.bootMarked ok0 ok1 none_) harmed hrun
  · exact loadsBlock_ops (s := s.bootMarked ok0 ok1 none_) harmed hrun both c

theorem loadsDefaults_effect (s : State) : s.loadsDefaults.live = s.mgmtLive ∧ s.loadsDefaults.stg.stage = s.mgmtLive ∧
    s.loadsDefaults.stg.st = .clean ∧ s.loadsDefaults.stg.defaulted = s.stg.defaulted := by
  unfold State.loadsDefaults
  have hset (u : State) : Only [.regs, .eng, .waits, .pwm, .gdl, .trp, .saf, .nt, .cmd, .ops, .log, .acq, .host, .twn, .mgt] u
      u.safTakeSet := by simp +decide only [only_safTakeSet, Only.refl]
  have hnote (u : State) (b : Bytes) : Only [.regs, .log] u (u.note 0x13 3 23 b) :=
    only_note u _ _ _ _ (Only.refl _ _) (by decide) (by decide)
  simp only [(hnote _ _).keeps_live, (hnote _ _).keeps_stg, (hset _).keeps_live, (hset _).keeps_stg]
  exact ⟨rfl, rfl, rfl, rfl⟩

theorem mgmtLive_other {s : State} (harb : s.arb.strapped = false) {r : Reg} {i j : Nat} (ha : regAddr r i j ≠ regAddr .mgtCfg 0 0) :
    regGet s.mgmtLive r i j = BitVec.ofNat 64 (regReset r i) := by
  unfold State.mgmtLive
  split
  · rfl
  · rw [harb]
    exact (regGet_regSet_other (f := []) List.Pairwise.nil .mgtCfg r 0 0 i j _ ha).trans (regGet_nil r i j)


/-! ### The boot chain -/

section
variable {s u : State} (hsec : u.sec = s.sec)
include hsec

theorem anchorRec_congr : u.anchorRec = s.anchorRec := by
  funext k
  rw [State.anchorRec, State.anchorRec, State.anchor, State.anchor, hsec]

theorem trailerCheck_congr : u.trailerCheck = s.trailerCheck := by
  funext bs n context name may
  unfold State.trailerCheck State.sigCheck State.anchorValid
  rw [anchorRec_congr hsec]

theorem bootSlot_congr (hops : u.ops = s.ops) (m : BootMedia) : u.bootSlot m = s.bootSlot m := by
  unfold State.bootSlot State.loaderPasses State.slotPasses State.fwSlot State.anchorValid
  rw [trailerCheck_congr hsec, anchorRec_congr hsec, hops, hsec]

end

/-- What every boot does first. -/
def State.bootBegun (s : State) : State := s.nandTurn.copyAnchors

theorem only_bootBegun (s : State) : Only [.log, .mgt] s s.bootBegun :=
  only_copyAnchors _ ((only_nandTurn_log s).mono (by decide)) (by decide)

/-- The boot chain starts a firmware slot. -/
def State.slotStarted (s : State) (m : BootMedia) (run : Nat) : State :=
  s.modOps fun o => { o with
    held := false, runSlot := run, fallback := run != o.actSlot
    slot0 := { o.slot0 with valid := s.slotPasses m 0 }, slot1 := { o.slot1 with valid := s.slotPasses m 1 } }

/-- A ring's nonce is drawn. -/
def State.nonceDrawn (r : Nat) (s : State) : State :=
  let (i, s) := s.draw
  s.modRep r fun x => { x with nonce := Config.drbg128 i }

/-- Every ring's nonce is drawn. -/
def State.noncesDrawn (s : State) : State := forNums (List.range 128) State.nonceDrawn s

theorem only_noncesDrawn (s : State) : Only [.free, .sec] s s.noncesDrawn := by
  unfold State.noncesDrawn
  refine only_forNums _ _ (fun r u hu => ?_) (Only.refl _ s)
  unfold State.nonceDrawn
  exact only_modRep _ _ (only_draw hu (by decide)) (by decide)

theorem boot_eq (s : State) (m : BootMedia) : s.boot m = match s.bootSlot m with
    | none => s.bootBegun.modOps fun o => { o with held := true }
    | some run => (((s.bootBegun.slotStarted m run).noncesDrawn.enter .selftest (s.bootBegun.slotStarted m run).noncesDrawn.ops.cause).takeTamper).bootLoad := by
  have honly := only_bootBegun s
  have h : s.boot m = match s.bootBegun.bootSlot m with
    | none => s.bootBegun.modOps fun o => { o with held := true }
    | some run => (((s.bootBegun.slotStarted m run).noncesDrawn.enter .selftest (s.bootBegun.slotStarted m run).noncesDrawn.ops.cause).takeTamper).bootLoad := rfl
  rw [h, bootSlot_congr honly.keeps_sec honly.keeps_ops]

theorem bootSlot_none {s : State} {m : BootMedia} (h : (m.loaderOk0 = false ∧ m.loaderOk1 = false) ∨ s.anchorValid 0 = false ∨
    (m.slotOk0 = false ∧ m.slotOk1 = false)) : s.bootSlot m = none := by
  unfold State.bootSlot
  rcases h with ⟨h0, h1⟩ | h | ⟨h0, h1⟩
  · simp [State.loaderPasses, h0, h1]
  · simp [h]
  · simp [State.slotPasses, h0, h1]

theorem execBootComplete_booting {s : State} (hst : s.ops.st = .boot) (hheld : s.ops.held = false) (harb : s.arb.strapped = false)
    (m : BootMedia) : execBootComplete m s = .next (s.boot m) := by
  simp [execBootComplete, hst, hheld, harb]

theorem bootHeld_effect (s : State) : (s.bootBegun.modOps fun o => { o with held := true }).ops = { s.ops with held := true } ∧
    Only [.ops, .log, .mgt] s (s.bootBegun.modOps fun o => { o with held := true }) := by
  have honly := only_bootBegun s
  exact ⟨by simp [honly.keeps_ops], only_modOps _ (honly.mono (by decide)) (by decide)⟩

/-- The state after the self-test is entered, before the boot load. -/
def State.selftestEntered (s : State) : State := (s.enter .selftest s.ops.cause).takeTamper

theorem only_takeTamper_parts (s : State) : Only [.regs, .log, .sec] s s.takeTamper := by simp +decide only [only_takeTamper, Only.refl]

theorem selftestEntered_effect (s : State) : s.selftestEntered.ops =
      { s.ops with st := .selftest, prev := s.ops.st.code, stateNt := s.nt64 } ∧
    Only (.sec :: enterParts) s s.selftestEntered := by
  unfold State.selftestEntered
  refine ⟨by rw [(only_takeTamper_parts _).keeps_ops, enter_ops], ?_⟩
  exact ((only_enter_state _ _ _).mono (by decide)).trans ((only_takeTamper_parts _).mono (by decide)) fun _ hp => hp

/-! ### The end of the self-test -/

/-- The self-test's end without failures. -/
def State.selftestPassed (s : State) : State :=
  let s := (s.setRegN .glbSelftest 0 0 0).modSaf fun f =>
    { f with fault := false, chA := { f.chA with code := 0 }, chB := { f.chB with code := 0 } }
  ((s.enter .idle s.ops.cause).tripsStanding).safJudge

/-- The safety item of the self-test as the channels report it. -/
def State.selftestSafety (s : State) (failed : Bool) : State :=
  if failed then (s.modSaf fun f => { f with fault := true, chA := { f.chA with code := 6 } }).safNote 9
  else s.modSaf fun f => { f with fault := false, chA := { f.chA with code := 0 }, chB := { f.chB with code := 0 } }

/-- The wait of the self-test for the loop. -/
def State.loopAwaited (s : State) : State := if s.clk.st = .acquire then s.advanceTo s.acqEnd else s

theorem only_loopAwaited (s : State) : Only [.now, .nt] s s.loopAwaited := only_ite (only_advanceTo_time s _) (Only.refl _ s)

theorem loopAwaited_now {s : State} (h : s.clk.st = .acquire) : s.acqEnd ≤ s.loopAwaited.now := by
  rw [State.loopAwaited, if_pos h]
  exact le_now_advanceTo s _

theorem failedItems_loopAwaited (s : State) (failed : BitVec 12) : s.loopAwaited.failedItems failed = s.failedItems failed := by
  have h := only_loopAwaited s
  simp only [State.failedItems, State.reg, h.keeps_regs, h.keeps_clk]

theorem failedItems_safety (s : State) (failed : BitVec 12) : (s.failedItems failed).getLsbD 8 = failed.getLsbD 8 := by
  unfold State.failedItems
  split <;> simp

theorem failedItems_of_acquire {s : State} (h : s.clk.st = .acquire) (failed : BitVec 12) : s.failedItems failed ≠ 0 := by
  intro h0
  have hbit := congrArg (fun x : BitVec 12 => x.getLsbD 4) h0
  simp [State.failedItems, h] at hbit

theorem failedItems_of_timeout {s : State} (h : (s.reg .glbSelftest).getLsbD 4 = true) (failed : BitVec 12) : s.failedItems failed ≠ 0 := by
  intro h0
  have hbit := congrArg (fun x : BitVec 12 => x.getLsbD 4) h0
  simp only [State.failedItems, BitVec.getLsbD_or, BitVec.getLsbD_and, BitVec.getLsbD_setWidth, h] at hbit
  simp at hbit

theorem selftest_passed {s : State} {failed : BitVec 12} (h : s.failedItems failed = 0) : s.selftest failed = s.selftestPassed := by
  have hclk : s.clk.st ≠ .acquire := fun hc => failedItems_of_acquire hc failed h
  unfold State.selftest
  rw [if_neg hclk]
  simp only [h]
  rfl

theorem selftest_failed {s : State} {failed : BitVec 12} (h : s.failedItems failed ≠ 0) : s.selftest failed =
    ((s.loopAwaited.setRegN .glbSelftest 0 0 (s.failedItems failed).toNat).selftestSafety (failed.getLsbD 8)).halt 0x20 := by
  have heq : s.selftest failed = (let v := s.loopAwaited.failedItems failed
    let u := s.loopAwaited.setRegN .glbSelftest 0 0 v.toNat
    let u := if v.getLsbD 8 then u
      else u.modSaf fun f => { f with fault := false, chA := { f.chA with code := 0 }, chB := { f.chB with code := 0 } }
    if v ≠ 0 then
      let u := if v.getLsbD 8 then (u.modSaf fun f => { f with fault := true, chA := { f.chA with code := 6 } }).safNote 9 else u
      u.halt 0x20
    else ((u.enter .idle u.ops.cause).tripsStanding).safJudge) := rfl
  rw [heq]
  dsimp only
  rw [failedItems_loopAwaited, if_pos h, failedItems_safety]
  unfold State.selftestSafety
  cases failed.getLsbD 8 <;> rfl

theorem selftestPassed_effect (s : State) : s.selftestPassed.ops.st = .idle ∧ s.selftestPassed.ops.prev = s.ops.st.code ∧
    s.selftestPassed.saf.fault = false ∧ s.selftestPassed.saf.chA.code = 0 ∧ s.selftestPassed.saf.chB.code = 0 := by
  unfold State.selftestPassed
  dsimp only
  have hops : ((s.setRegN .glbSelftest 0 0 0).modSaf fun f =>
    { f with fault := false, chA := { f.chA with code := 0 }, chB := { f.chB with code := 0 } }).ops = s.ops := rfl
  have hsaf : ((s.setRegN .glbSelftest 0 0 0).modSaf fun f =>
    { f with fault := false, chA := { f.chA with code := 0 }, chB := { f.chB with code := 0 } }).saf =
    { s.saf with fault := false, chA := { s.saf.chA with code := 0 }, chB := { s.saf.chB with code := 0 } } := rfl
  generalize (s.setRegN .glbSelftest 0 0 0).modSaf (fun f =>
    { f with fault := false, chA := { f.chA with code := 0 }, chB := { f.chB with code := 0 } }) = u at *
  have henter := only_enter_state u .idle u.ops.cause
  have henterOps := enter_ops u .idle u.ops.cause
  generalize u.enter .idle u.ops.cause = v at *
  have htrips : Only [.free, .regs, .pwm, .gdl, .trp, .nt, .log, .acq, .twn] v v.tripsStanding := by
    simp +decide only [only_tripsStanding, Only.refl]
  generalize v.tripsStanding = w at *
  obtain ⟨a, b, hold, heq, ha, hb, -⟩ := safJudge_saf w
  rw [(only_safJudge_saf w).keeps_ops, heq, ha, hb, htrips.keeps_ops, htrips.keeps_saf, henterOps, henter.keeps_saf, hsaf, hops]
  exact ⟨rfl, rfl, rfl, rfl, rfl⟩

theorem selftestSafety_effect (s : State) (failed : Bool) : Only [.saf, .regs, .log] s (s.selftestSafety failed) ∧
    (failed = true → (s.selftestSafety failed).saf.fault = true ∧ (s.selftestSafety failed).saf.chA.code = 6) := by
  unfold State.selftestSafety
  have hsaf : Only [.saf, .regs, .log] s (s.modSaf fun f => { f with fault := true, chA := { f.chA with code := 6 } }) :=
    only_modSaf _ (Only.refl _ s) (by decide)
  have hnote (u : State) : Only [.regs, .log] u (u.safNote 9) := by simp +decide only [only_safNote, Only.refl]
  split
  · refine ⟨hsaf.trans ((hnote _).mono (by decide)) fun _ hp => hp, fun _ => ?_⟩
    rw [(hnote _).keeps_saf]
    exact ⟨rfl, rfl⟩
  · next h => exact ⟨only_modSaf _ (Only.refl _ s) (by decide), fun h' => absurd h' h⟩

/-- R388: a self-test with failures halts the device with their cause, once the loop has been waited for. -/
theorem selftest_failed_effect {s : State} {failed : BitVec 12} (hst : s.ops.st = .selftest) (h : s.failedItems failed ≠ 0) :
    (s.selftest failed).ops.st = .halted ∧ (s.selftest failed).ops.cause = 0x20 ∧
    (failed.getLsbD 8 = true → (s.selftest failed).saf.fault = true ∧ (s.selftest failed).saf.chA.code = 6) ∧
    (s.selftest failed).now = s.loopAwaited.now := by
  rw [selftest_failed h]
  have hwait := only_loopAwaited s
  have hset : Only [.regs] s.loopAwaited (s.loopAwaited.setRegN .glbSelftest 0 0 (s.failedItems failed).toNat) := by
    simp +decide only [only_setRegN, Only.refl]
  generalize s.loopAwaited.setRegN .glbSelftest 0 0 (s.failedItems failed).toNat = u at *
  obtain ⟨hsafety, hcode⟩ := selftestSafety_effect u (failed.getLsbD 8)
  generalize u.selftestSafety (failed.getLsbD 8) = v at *
  have hops : v.ops = s.ops := hsafety.keeps_ops.trans (hset.keeps_ops.trans hwait.keeps_ops)
  have hhalt := (halt_effect (s := v) (cause := 0x20) (by simp [hops, hst]) (by simp [hops, hst])).1
  obtain ⟨hfault, ha, -⟩ := halt_saf v 0x20
  rw [hhalt, hfault, ha, (only_halt_parts v 0x20).keeps_now, hsafety.keeps_now, hset.keeps_now]
  exact ⟨rfl, rfl, hcode, rfl⟩

theorem execSelftestComplete_selftest {s : State} (hst : s.ops.st = .selftest) (failed : BitVec 12) :
    execSelftestComplete failed s = .next (s.selftest failed) := if_pos hst

/-- Settles O21: power-up, the boot chain and the self-test by their branches; the boot load moves no state. -/
theorem powerUpBootAndSelftest : Obligations.PowerUpBootAndSelftest := by
  refine ⟨?up, ?strapped, ?lost, ?held, ?boot, ?passed, ?failed, ?timeout, ?awaited⟩
  case up =>
    intro ok s hst harb
    refine ⟨_, execPowerOnResetRelease_off hst ok, ?_⟩
    rw [harb, if_neg Bool.false_ne_true]
    exact powerUp_effect (s.modOps fun o => { o with vinOk := true }) ok
  case strapped =>
    intro ok s hst harb
    refine ⟨_, execPowerOnResetRelease_off hst ok, ?_⟩
    rw [harb, if_pos rfl]
    exact ⟨rfl, only_modOps _ (Only.refl _ s) (by decide)⟩
  case lost =>
    intro s hst harb
    refine ⟨_, execPowerOnResetRelease_off hst false, ?_⟩
    rw [harb, if_neg Bool.false_ne_true, powerUp_eq, if_neg Bool.false_ne_true]
    generalize (s.modOps fun o => { o with vinOk := true }).poweredUp false = u
    exact ⟨fun r hr => plantCleared_blank (repsCleared_blank u hr), plantCleared_plant _⟩
  case held =>
    intro m s hst hheld harb hfail
    refine ⟨_, execBootComplete_booting hst hheld harb m, ?_⟩
    rw [boot_eq, bootSlot_none hfail]
    exact bootHeld_effect s
  case boot =>
    intro m s hst hheld harb
    refine ⟨_, execBootComplete_booting hst hheld harb m, ?_⟩
    rw [boot_eq]
    cases s.bootSlot m with
    | none => exact bootHeld_effect s
    | some run =>
      dsimp only
      have hbegun := only_bootBegun s
      have hstarted : Only [.ops] s.bootBegun (s.bootBegun.slotStarted m run) := only_modOps _ (Only.refl _ _) (by decide)
      have hslot : (s.bootBegun.slotStarted m run).ops.runSlot = run ∧
          (s.bootBegun.slotStarted m run).ops.fallback = (run != s.bootBegun.ops.actSlot) := ⟨rfl, rfl⟩
      generalize s.bootBegun.slotStarted m run = u at *
      have hdrawn := only_noncesDrawn u
      generalize u.noncesDrawn = v at *
      rw [show (v.enter .selftest v.ops.cause).takeTamper = v.selftestEntered from rfl]
      obtain ⟨hops, hentered⟩ := selftestEntered_effect v
      generalize v.selftestEntered = w at *
      have hload : w.bootLoad.ops = w.ops := bootLoad_ops (by simp [hops]) (by simp [hops])
      rw [hload, hops, hdrawn.keeps_ops, hslot.1, hslot.2, hbegun.keeps_ops]
      refine ⟨rfl, rfl, rfl, fun h0 h1 => ?_⟩
      have hstg : w.stg = s.stg := by rw [hentered.keeps_stg, hdrawn.keeps_stg, hstarted.keeps_stg, hbegun.keeps_stg]
      have harb' : w.arb = s.arb := by rw [hentered.keeps_arb, hdrawn.keeps_arb, hstarted.keeps_arb, hbegun.keeps_arb]
      rw [bootLoad_defaults (by rw [hstg, h0]) (by rw [hstg, h1])]
      obtain ⟨hlive, hstage, hclean, hdef⟩ := loadsDefaults_effect (w.bootMarked false false true)
      refine ⟨hdef, hclean, hstage.trans hlive.symm, fun r i j hi lo ha => ?_⟩
      rw [State.lv, fld, hlive, mgmtLive_other (s := w.bootMarked false false true) ((congrArg ArbState.strapped harb').trans harb) ha]
  case passed =>
    intro failed s hst h
    refine ⟨_, execSelftestComplete_selftest hst failed, ?_⟩
    have hpassed := selftestPassed_effect s
    rw [hst] at hpassed
    rw [selftest_passed h]
    exact hpassed
  case failed =>
    intro failed s hst h
    obtain ⟨hhalt, hcause, hsafety, -⟩ := selftest_failed_effect hst h
    exact ⟨_, execSelftestComplete_selftest hst failed, hhalt, hcause, hsafety⟩
  case timeout =>
    intro failed s hst h
    obtain ⟨hhalt, hcause, -⟩ := selftest_failed_effect hst (failedItems_of_timeout h failed)
    exact ⟨_, execSelftestComplete_selftest hst failed, hhalt, hcause⟩
  case awaited =>
    intro failed s hst h
    obtain ⟨hhalt, hcause, -, hnow⟩ := selftest_failed_effect hst (failedItems_of_acquire h failed)
    exact ⟨_, execSelftestComplete_selftest hst failed, hhalt, hcause, hnow ▸ loopAwaited_now h⟩

end Sys2Proof.Machine
end

section
/-! Losses of the supplies and their return (R250, R391, R429, R457, R468). -/

-- The proofs are elaborated one after the other: this bounds the threads of the compiler, whose stacks count as its memory.
set_option Elab.async false

namespace Sys2Proof.Machine

/-! ### The management controller through a halt -/

/-- The controller's supply and its copies of the anchors are those of a state. -/
def SameMgmt (s t : State) : Prop := t.mgt.vmgt = s.mgt.vmgt ∧ t.mgt.anchors = s.mgt.anchors

section
variable {s0 s t : State}

theorem SameMgmt.refl (s : State) : SameMgmt s s := ⟨rfl, rfl⟩

theorem mgmt_of_mgt (ht : t.mgt = s.mgt) (h : SameMgmt s0 s) : SameMgmt s0 t := by unfold SameMgmt; rwa [ht]

theorem mgmt_of_only {l : List Part} (ht : Only l s t) (h : SameMgmt s0 s) (hl : .mgt ∉ l := by decide) : SameMgmt s0 t :=
  mgmt_of_mgt (ht.keeps_mgt hl) h

theorem mgmt_mgtAnswer (h : SameMgmt s0 s) (m : MgtCmd) (entry : Bytes) (st : Status) : SameMgmt s0 (s.mgtAnswer m entry st) := by
  obtain ⟨hvmgt, hanchors⟩ := h
  unfold State.mgtAnswer State.mctpSend SameMgmt
  dsimp only
  split <;> simp [hvmgt, hanchors]

theorem mgmt_complete (h : SameMgmt s0 s) (c : Src) (op : Nat) (st : Status) (d : Nat) (at_ : DWord) : SameMgmt s0 (s.complete c op st d at_) := by
  have hentry : SameMgmt s0 ((s.dropCommand c).writeEntry c op st d at_) :=
    mgmt_of_only (s := s.dropCommand c) (l := [.regs, .cmd, .host])
      (only_writeEntry _ c op st d at_ (Only.refl _ _) (by decide) (by decide) (by decide)) (mgmt_of_mgt (s := s) rfl h)
  unfold State.complete
  split
  · exact mgmt_of_mgt (s := s) rfl h
  · split
    · split
      · exact mgmt_mgtAnswer h ..
      · exact h
    · exact holds_ite (P := SameMgmt s0) (mgmt_of_mgt (s := (s.dropCommand c).writeEntry c op st d at_) rfl hentry) hentry

theorem mgmt_refuses {α : Type} (h : SameMgmt s0 s) (l : List α) (f : α → Src × Nat × Nat) :
    SameMgmt s0 (l.foldl (fun s p => s.refuse (f p).1 (f p).2.1 .error (f p).2.2) s) :=
  holds_foldl (P := SameMgmt s0) _ (fun _ _ _ hu => mgmt_complete hu _ _ _ _ _) h

theorem mgmt_enter (h : SameMgmt s0 s) (dst : OpState) (cause : Nat) : SameMgmt s0 (s.enter dst cause) := by
  unfold SameMgmt
  rw [enter_mgt]
  exact h

theorem mgmt_enginesStop (h : SameMgmt s0 s) : SameMgmt s0 s.enginesStop :=
  mgmt_of_only (enginesStop_quiet (A := onDesk) glbLogLost_offDesk ntSporeRecLost_offDesk ⟨Only.refl _ s, .refl s, rfl⟩).parts h

theorem mgmt_dropStartsIf (h : SameMgmt s0 s) (d : PendOp → Nat) : SameMgmt s0 (s.dropStartsIf d) :=
  mgmt_refuses (s := s.modOps fun o => { o with starts := [] }) (mgmt_of_mgt (s := s) rfl h) s.ops.starts fun p => (p.src, 0x0611, d p)

theorem mgmt_ostComplete (h : SameMgmt s0 s) : SameMgmt s0 s.ostComplete :=
  holds_foldl (P := SameMgmt s0) _ (fun _ _ _ hu => mgmt_complete hu _ _ _ _ _) (mgmt_of_mgt (s := s) rfl h)

theorem mgmt_ostGuard (h : SameMgmt s0 s) (k : Nat) : SameMgmt s0 (s.ostGuard k) := by
  have hend (u : State) (hu : SameMgmt s0 u) : SameMgmt s0 (u.fltStanding k) :=
    mgmt_of_only (l := [.free, .regs, .pwm, .gdl, .trp, .nt, .log, .acq, .twn]) (by simp +decide only [only_fltStanding, Only.refl]) hu
  unfold State.ostGuard State.ostAbort
  exact holds_ite (P := SameMgmt s0) h (holds_ite (P := SameMgmt s0)
    (hend _ (mgmt_ostComplete (mgmt_of_mgt (s := s) rfl h))) h)

theorem mgmt_haltEntered (h : SameMgmt s0 s) (cause : Nat) : SameMgmt s0 (s.haltEntered cause) := by
  have hstop := mgmt_enginesStop (mgmt_enter h .halted cause)
  unfold State.haltEntered
  dsimp only
  generalize (s.enter .halted cause).enginesStop = u at *
  have hpend : SameMgmt s0 (u.haltPending fun p => if s.startHere p then 4 else 3) := by
    have hdrop := mgmt_dropStartsIf hstop fun p => if s.startHere p then 4 else 3
    unfold State.haltPending
    dsimp only
    generalize u.dropStartsIf (fun p => if s.startHere p then 4 else 3) = v at *
    exact mgmt_refuses (s := v.modOps fun o => { o with stops := [] }) (mgmt_of_mgt (s := v) rfl hdrop) v.ops.stops fun p => (p.src, 0x0612, 4)
  generalize (u.haltPending fun p => if s.startHere p then 4 else 3) = v at *
  exact mgmt_of_mgt (s := v) rfl hpend

theorem mgmt_haltOff (h : SameMgmt s0 s) : SameMgmt s0 s.haltOff :=
  holds_forNums (P := SameMgmt s0) _ (fun k _ _ hu => mgmt_ostGuard hu k)
    (mgmt_of_only (l := [.regs, .pwm, .gdl, .trp, .twn]) (by simp +decide only [only_haltOutputs, Only.refl]) h)

theorem mgmt_haltDrop (h : SameMgmt s0 s) : SameMgmt s0 s.haltDrop := by
  have hcommits : SameMgmt s0 s.dropCommits := by
    unfold State.dropCommits
    dsimp only
    exact holds_foldl (P := SameMgmt s0) _ (fun _ _ _ hu => mgmt_complete hu _ _ _ _ _) (mgmt_of_mgt (s := s) rfl h)
  have hdrop : SameMgmt s0 s.dropCommits.discardSpores :=
    mgmt_of_only (l := [.regs, .nt, .log, .twn]) (by simp +decide only [only_discardSpores, Only.refl]) hcommits
  unfold State.haltDrop
  generalize s.dropCommits.discardSpores = u at *
  exact mgmt_of_mgt (s := u) rfl hdrop

/-- Entry to HALTED leaves the management controller's supply and its copies of the anchors. -/
theorem mgmt_halt (s : State) (cause : Nat) : SameMgmt s (s.halt cause) := by
  by_cases h : s.ops.st = .halted ∨ s.ops.st = .off
  · rw [halt_of_halted cause h]
    exact .refl s
  · rw [not_or] at h
    rw [halt_eq h.1 h.2]
    have h1 := mgmt_haltEntered (.refl s) cause
    generalize s.haltEntered cause = u1 at *
    have h2 := mgmt_haltOff h1
    generalize u1.haltOff = u2 at *
    have h3 := mgmt_of_only (only_haltDemand u2) h2
    generalize u2.haltDemand = u3 at *
    have h4 := mgmt_haltDrop h3
    generalize u3.haltDrop = u4 at *
    have h5 := mgmt_of_only (only_haltCores u4) h4
    split
    · exact h5
    · exact h4

end

/-! ### Loss of VIN -/

theorem setRel_gen {c : SafChan} (h : c.rel = true) (now : Nat) : (c.setRel false now).gen = false := by simp [SafChan.setRel, h]

theorem setRel_same (c : SafChan) (now : Nat) : c.setRel c.rel now = c := by simp [SafChan.setRel]

/-- R468: VIN is gone; channel A releases nothing, and the log's buffer is lost. -/
def State.vinGone (s : State) : State :=
  let s := s.modOps fun o => { o with vinOk := false, vinLostAt := s.now }
  let s := { s with log := { s.log with buffer := [], urgent := false } }
  s.modSaf fun f => { f with chA := f.chA.setRel false s.now }

theorem only_vinGone (s : State) : Only [.ops, .log, .saf] s s.vinGone := by
  have h := Only.refl [.ops, .log, .saf] s
  unfold State.vinGone
  simp (maxDischargeDepth := 10) +decide only [only_modSaf, only_modOps, only_mk, h, or_true, true_or]

theorem vinGone_effect (s : State) : s.vinGone.ops.vinOk = false ∧ s.vinGone.log.buffer = [] ∧ s.vinGone.saf.chA = s.saf.chA.setRel false s.now :=
  ⟨rfl, rfl, rfl⟩

theorem vinLost_eq (s : State) : s.vinLost = if s.vinGone.mgtDropCommand.twinReady then
      s.vinGone.mgtDropCommand.modTwn fun t => { t with silent := true }
    else (s.vinGone.mgtDropCommand.modTwn fun t => { t with haltHold := none }).stopChannels.safJudge := rfl

theorem only_mgtDropCommand_parts (s : State) : Only (.stg :: answerParts) s s.mgtDropCommand := by
  simp +decide only [only_mgtDropCommand, Only.refl]

theorem twin_mgtDropCommand {s0 s : State} (h : SameTwin s0 s) : SameTwin s0 s.mgtDropCommand := by
  unfold State.mgtDropCommand
  split
  · split
    · exact h
    · exact twin_complete _ _ _ _ _ (twin_of_twn (s := s) rfl h)
  · exact h

/-- Without supply channel A stays as it is through a judgement. -/
theorem safJudge_chA {s : State} (hvin : s.ops.vinOk = false) (hrel : s.saf.chA.rel = false) : s.safJudge.saf.chA = s.saf.chA := by
  have h : s.safJudge.saf.chA = s.saf.chA.setRel ((s.safMayRelease && (s.ops.st = .idle || s.ops.st = .armed || s.ops.st = .running ||
      s.ops.st = .stopping)) && s.ops.vinOk) s.now := rfl
  rw [h, hvin, Bool.and_false]
  exact hrel ▸ setRel_same s.saf.chA s.now

theorem vinLost_effect (s : State) : s.vinLost.ops.vinOk = false ∧ s.vinLost.log.buffer = [] ∧
    s.vinLost.saf.chA = s.saf.chA.setRel false s.now ∧
    (s.twinReady = false → ∀ n < 192, isOuter n = true → (s.vinLost.chan n).gc = false) := by
  rw [vinLost_eq]
  obtain ⟨hvin, hlog, hchA⟩ := vinGone_effect s
  have hgone := only_vinGone s
  have htwin : SameTwin s s.vinGone := twin_of_only hgone (.refl s)
  generalize s.vinGone = u at *
  have hdrop := only_mgtDropCommand_parts u
  have hready : u.mgtDropCommand.twinReady = s.twinReady :=
    twinReady_of_twin (twin_mgtDropCommand htwin) (hdrop.keeps_live.trans hgone.keeps_live)
  generalize u.mgtDropCommand = v at *
  rw [hready]
  split
  · next h => exact ⟨hdrop.keeps_ops ▸ hvin, hdrop.keeps_log ▸ hlog, hdrop.keeps_saf ▸ hchA, fun hn => absurd h (by simp [hn])⟩
  · have hmod : Only [.twn] v (v.modTwn fun t => { t with haltHold := none }) := only_modTwn _ (Only.refl _ v) (by decide)
    generalize (v.modTwn fun t => { t with haltHold := none }) = w at *
    have hstop := only_stopChannels_parts w
    have hgc (n : Nat) (hn : n < 192) (hout : isOuter n = true) := stopChannels_gc hn w hout
    generalize w.stopChannels = x at *
    have hjudge := only_safJudge_saf x
    have hops : x.ops = u.ops := by rw [hstop.keeps_ops, hmod.keeps_ops, hdrop.keeps_ops]
    have hsaf : x.saf.chA = s.saf.chA.setRel false s.now := by rw [hstop.keeps_saf, hmod.keeps_saf, hdrop.keeps_saf, hchA]
    refine ⟨by rw [hjudge.keeps_ops, hops, hvin], by rw [hjudge.keeps_log, hstop.keeps_log, hmod.keeps_log, hdrop.keeps_log, hlog], ?_,
      fun _ n hn hout => by rw [State.chan, hjudge.keeps_pwm]; exact hgc n hn hout⟩
    rw [safJudge_chA (by rw [hops, hvin]) (by rw [hsaf, setRel_rel]), hsaf]

/-! ### The device without power -/

theorem powerDown_effect (s : State) : s.powerDown.ops.st = .off ∧ s.powerDown.dram = [] ∧ s.powerDown.log.nand = s.log.nand ∧
    s.powerDown.log.buffer = [] ∧ s.powerDown.stg.copy0 = s.stg.copy0 ∧ s.powerDown.stg.copy1 = s.stg.copy1 ∧
    s.powerDown.sec.anchors = s.sec.anchors ∧ s.powerDown.sec.replay = s.sec.replay ∧ s.powerDown.sec.svn = s.sec.svn :=
  ⟨rfl, rfl, rfl, rfl, rfl, rfl, rfl, rfl, rfl⟩

theorem powerDown_keeps (s : State) : s.powerDown.now = s.now ∧ s.powerDown.free = s.free ∧ s.powerDown.arb = s.arb ∧
    s.powerDown.saf.resetReq = s.saf.resetReq ∧ SameMgmt s s.powerDown := ⟨rfl, rfl, rfl, rfl, rfl, rfl⟩

theorem powerDown_gc (s : State) (n : Nat) : (s.powerDown.chan n).gc = false := by
  have h : s.powerDown.pwm = {} := rfl
  rw [State.chan, h]
  exact congrArg Chan.gc (vget_replicate n _)

/-! ### Loss of VMGT -/

theorem safFault_pset (s : State) (ch : SafCh) (code : Nat) : (s.safFault ch code).saf.chB.pset = s.saf.chB.pset := by
  have hlatched : (s.safLatched ch code).saf.chB.pset = s.saf.chB.pset := by
    have hu : ((s.modSaf fun f => { f with fault := true }).modSafCh ch fun c => { c with code := code }).saf.chB.pset = s.saf.chB.pset := by
      cases ch <;> rfl
    unfold State.safLatched
    generalize ((s.modSaf fun f => { f with fault := true }).modSafCh ch fun c => { c with code := code }) = u at *
    obtain ⟨a, b, hold, heq, -, -, -, hp⟩ := safJudge_saf u
    have hnote : ((u.safJudge.safNote 9).notify).saf = u.safJudge.saf := Only.keeps_saf (l := [.regs, .log, .mgt]) (by
      simp +decide only [only_notify, only_safNote, Only.refl])
    rw [hnote, heq, hp, hu]
  have heq : s.safFault ch code = (s.safLatched ch code).halt 0x25 := rfl
  obtain ⟨-, -, -, hp⟩ := halt_saf (s.safLatched ch code) 0x25
  rw [heq, hp, hlatched]

theorem safFault_mgmt (s : State) (ch : SafCh) (code : Nat) : SameMgmt s (s.safFault ch code) := by
  have hlatched : SameMgmt s (s.safLatched ch code) := by
    have hu : Only [.saf, .regs, .log] s
        (((s.modSaf fun f => { f with fault := true }).modSafCh ch fun c => { c with code := code }).safJudge.safNote 9) := by
      simp (maxDischargeDepth := 10) +decide only [only_safNote, only_safJudge, State.modSafCh, only_modSaf, Only.refl]
    unfold State.safLatched
    generalize (((s.modSaf fun f => { f with fault := true }).modSafCh ch fun c => { c with code := code }).safJudge.safNote 9) = u at *
    have hmgt := hu.keeps_mgt
    exact mgmt_of_mgt (t := u) hmgt (.refl s)
  have heq : s.safFault ch code = (s.safLatched ch code).halt 0x25 := rfl
  obtain ⟨hv, ha⟩ := mgmt_halt (s.safLatched ch code) 0x25
  obtain ⟨hv', ha'⟩ := hlatched
  rw [heq]
  exact ⟨hv.trans hv', ha.trans ha'⟩

theorem safFault_sec (s : State) (ch : SafCh) (code : Nat) : (s.safFault ch code).sec = s.sec := by
  obtain ⟨-, -, -, -, -, honly⟩ := safLatched_effect s ch code
  exact (only_halt_parts (s.safLatched ch code) 0x25).keeps_sec.trans honly.keeps_sec

/-- The controller and the Thallus stop; what is in the flash stays. -/
def State.vmgtGone (s : State) : State :=
  let s := { s with
    mgt := { vmgt := false, anchors := s.mgt.anchors }, arb := { strapped := s.arb.strapped, ports := s.arb.ports.map fun _ => {} } }
  let s := s.modSaf fun f => { f with chB := { f.chB.setRel false s.now with pset := [] } }
  s.modSec fun x => { x with grants := x.grants.filter fun g => g.ring != 128 }

theorem vmgtGone_effect (s : State) : s.vmgtGone.mgt.vmgt = false ∧ s.vmgtGone.mgt.anchors = s.mgt.anchors ∧ s.vmgtGone.saf.chB.rel = false ∧
    s.vmgtGone.saf.chB.pset = [] ∧ (∀ g ∈ s.vmgtGone.sec.grants, g.ring ≠ 128) ∧ s.vmgtGone.ops = s.ops := by
  refine ⟨rfl, rfl, setRel_rel s.saf.chB false s.now, rfl, fun g hg => ?_, rfl⟩
  have h : g ∈ s.sec.grants.filter fun g => g.ring != 128 := hg
  simpa using (List.mem_filter.mp h).2

theorem vmgtLost_eq (s : State) : s.vmgtLost =
    (let u := if s.vmgtGone.ops.st = .off then { s.vmgtGone with live := s.vmgtGone.mgmtLive } else s.vmgtGone
    if u.ops.st = .off then u else (u.safFault .a 8).safUpdate) := rfl

theorem vmgtLost_off {s : State} (h : s.ops.st = .off) : s.vmgtLost = { s.vmgtGone with live := s.vmgtGone.mgmtLive } := by
  have hoff : s.vmgtGone.ops.st = .off := h
  rw [vmgtLost_eq]
  dsimp only
  rw [if_pos hoff]
  exact if_pos hoff

theorem vmgtLost_on {s : State} (h : s.ops.st ≠ .off) : s.vmgtLost = (s.vmgtGone.safFault .a 8).safUpdate := by
  have hon : s.vmgtGone.ops.st ≠ .off := h
  rw [vmgtLost_eq]
  dsimp only
  rw [if_neg hon, if_neg hon]

/-- Table SAF-2: channel A reports the loss, which halts the device. -/
theorem supplyFault_effect {s : State} (hst : s.ops.st ≠ .off) : (s.safFault .a 8).safUpdate.ops.st = .halted ∧
    (s.safFault .a 8).safUpdate.saf.fault = true ∧ (s.safFault .a 8).safUpdate.saf.chA.code = 8 ∧
    (s.safFault .a 8).safUpdate.saf.chB.rel = false ∧ (s.safFault .a 8).safUpdate.saf.chB.pset = s.saf.chB.pset ∧
    SameMgmt s (s.safFault .a 8).safUpdate ∧ (s.safFault .a 8).safUpdate.sec = s.sec := by
  obtain ⟨⟨hfault, hcode, -, -, hhalt, -⟩, -⟩ := safFault_effect s .a 8
  have hpset := safFault_pset s .a 8
  have hmgmt := safFault_mgmt s .a 8
  have hsec := safFault_sec s .a 8
  have hhalted := hhalt hst
  generalize s.safFault .a 8 = u at *
  have hcalm := only_safUpdate_calm u (by simp [hhalted]) (by simp [hhalted])
  obtain ⟨a, b, hold, heq, ha, -, -, hb⟩ := safJudge_saf u
  obtain ⟨-, hB⟩ := safJudge_rel (safMayRelease_of_fault hfault)
  rw [hcalm.keeps_ops, hcalm.keeps_sec, safUpdate_saf, hB, heq, ha, hb]
  exact ⟨hhalted, hfault, hcode, rfl, hpset, mgmt_of_only hcalm hmgmt, hsec⟩

/-! ### Return of VMGT -/

/-- The controller and the Thallus start. -/
def State.vmgtBack (s : State) (strapped : Bool) : State :=
  let (i, s) := s.draw
  let s := s.modRep 128 fun x => { x with nonce := Config.drbg128 i }
  let s := { s with mgt := { vmgt := true, anchors := s.mgt.anchors }, arb := { strapped := strapped, noReadyAt := s.now } }
  s.modSaf fun f => { f with resetReq := true }

theorem vmgtBack_sec (s : State) (strapped : Bool) : (s.vmgtBack strapped).sec.replay =
    vset s.sec.replay 128 { s.rep 128 with nonce := Config.drbg128 s.free } := rfl

theorem vmgtBack_effect (s : State) (strapped : Bool) : (s.vmgtBack strapped).mgt.vmgt = true ∧
    (s.vmgtBack strapped).mgt.anchors = s.mgt.anchors ∧ (s.vmgtBack strapped).arb.strapped = strapped ∧
    (s.vmgtBack strapped).free = s.free + 1 ∧ (s.vmgtBack strapped).saf.resetReq = true ∧ (s.vmgtBack strapped).ops = s.ops :=
  ⟨rfl, rfl, rfl, rfl, rfl, rfl⟩

theorem vmgtUp_eq (s : State) (strapped : Bool) : s.vmgtUp strapped =
    if strapped && s.ops.st ≠ .off then (s.vmgtBack strapped).powerDown else s.vmgtBack strapped := rfl

/-- R250, R429, R457: what the return of VMGT leaves. -/
theorem vmgtUp_effect (s : State) (strapped : Bool) : (s.vmgtUp strapped).mgt.vmgt = true ∧ (s.vmgtUp strapped).mgt.anchors = s.mgt.anchors ∧
    (s.vmgtUp strapped).arb.strapped = strapped ∧ (s.vmgtUp strapped).free = s.free + 1 ∧ (s.vmgtUp strapped).saf.resetReq = true ∧
    (s.vmgtUp strapped).sec.replay = vset s.sec.replay 128 { s.rep 128 with nonce := Config.drbg128 s.free } ∧
    (strapped = true → (s.vmgtUp strapped).ops.st = .off) := by
  rw [vmgtUp_eq]
  have hsec := vmgtBack_sec s strapped
  obtain ⟨hvmgt, hanchors, harb, hfree, hreset, hops⟩ := vmgtBack_effect s strapped
  generalize s.vmgtBack strapped = u at *
  split
  · obtain ⟨hoff, -, -, -, -, -, -, hreplay, -⟩ := powerDown_effect u
    obtain ⟨-, hfree', harb', hreset', hv', ha'⟩ := powerDown_keeps u
    generalize u.powerDown = v at *
    exact ⟨hv'.trans hvmgt, ha'.trans hanchors, by rw [harb', harb], hfree'.trans hfree, hreset'.trans hreset, hreplay.trans hsec, fun _ => hoff⟩
  · next h =>
    refine ⟨hvmgt, hanchors, harb, hfree, hreset, hsec, fun hs => ?_⟩
    rw [hops]
    simpa [hs] using h

/-- Settles O22: each supply by what its loss or return leaves. -/
theorem supplyLossesTakeGateDriveAway : Obligations.SupplyLossesTakeGateDriveAway := by
  refine ⟨?vin, ?hold, ?vmgt, ?back⟩
  case vin =>
    intro s hst hvin
    have hexec : execVinLoss s = .next s.vinLost := by simp [execVinLoss, hst, hvin]
    obtain ⟨hoff, hlog, hchA, hgc⟩ := vinLost_effect s
    exact ⟨_, hexec, hoff, hlog, hchA ▸ setRel_rel .., fun h => hchA ▸ setRel_gen h _, hgc⟩
  case hold =>
    intro s hvin hst
    have hexec : execHoldUpEnd s = .next (s.advanceTo (s.ops.vinLostAt + 3200000)).powerDown := by simp [execHoldUpEnd, hst, hvin]
    refine ⟨_, hexec, ?_⟩
    beta_reduce
    have hnow := le_now_advanceTo s (s.ops.vinLostAt + 3200000)
    have honly := only_advanceTo_time s (s.ops.vinLostAt + 3200000)
    have heffect := powerDown_effect (s.advanceTo (s.ops.vinLostAt + 3200000))
    obtain ⟨hnow', -⟩ := powerDown_keeps (s.advanceTo (s.ops.vinLostAt + 3200000))
    rw [honly.keeps_log, honly.keeps_stg, honly.keeps_sec] at heffect
    obtain ⟨h1, h2, h3, h4, h5, h6, h7, h8, h9⟩ := heffect
    exact ⟨hnow.trans hnow'.ge, h1, h2, h3, h4, h5, h6, h7, h8, h9, fun n _ => powerDown_gc _ n⟩
  case vmgt =>
    intro s hvmgt
    obtain ⟨h1, h2, h3, h4, h5, hops⟩ := vmgtGone_effect s
    refine ⟨_, if_pos hvmgt, ?_⟩
    beta_reduce
    by_cases hst : s.ops.st = .off
    · rw [vmgtLost_off hst]
      exact ⟨h1, h3, h4, h2, h5, fun h => absurd hst h⟩
    · rw [vmgtLost_on hst]
      generalize s.vmgtGone = u at *
      obtain ⟨hhalted, hfault, hcode, hrel, hpset, ⟨hv, ha⟩, hsec⟩ := supplyFault_effect (s := u) (hops ▸ hst)
      exact ⟨hv.trans h1, hrel, hpset.trans h4, ha.trans h2, hsec ▸ h5, fun _ => ⟨hhalted, hfault, hcode⟩⟩
  case back =>
    intro hb s hvmgt
    have hexec : execVmgtPowerUp hb s = .next (s.vmgtUp hb) := by simp [execVmgtPowerUp, hvmgt]
    obtain ⟨h1, h2, h3, h4, h5, hreplay, h7⟩ := vmgtUp_effect s hb
    refine ⟨_, hexec, h1, h3, ?_, h4, h5, h7, h2, fun r hr => ?_⟩
    · rw [State.rep, hreplay, vget_vset_same _ _ _ _ (by decide)]
    · rw [State.rep, hreplay, vget_vset_other _ _ _ _ _ (by omega)]
      rfl

end Sys2Proof.Machine
end

section
/-! The event log and the firmware slots (R389 to R392, R482). -/

-- The proofs are elaborated one after the other: this bounds the threads of the compiler, whose stacks count as its memory.
set_option Elab.async false

namespace Sys2Proof.Machine

/-! ### Records held -/

theorem length_logHeld (s : State) : s.logHeld.length ≤ 1048576 := by
  simp only [State.logHeld, List.length_drop]
  omega

theorem logHeld_of_nand {t : State} {l : List LogRec} (hnand : t.log.nand = l) (hbuffer : t.log.buffer = []) (hlen : l.length ≤ 1048576) :
    t.logHeld = l := by
  unfold State.logHeld
  rw [hnand, hbuffer]
  simp only [List.append_nil, Nat.sub_eq_zero_of_le hlen, List.drop_zero]

/-- R391: a flush leaves the records held as they are. -/
theorem logHeld_logFlush (s : State) : s.logFlush.logHeld = s.logHeld := by
  have hlen := length_logHeld s
  unfold State.logFlush
  generalize s.logHeld = l at *
  exact logHeld_of_nand rfl rfl hlen

theorem logHeld_congr {s t : State} (h : t.log = s.log) : t.logHeld = s.logHeld := by rw [State.logHeld, State.logHeld, h]

theorem logHeld_nandTurn (s : State) : s.nandTurn.logHeld = s.logHeld := by
  unfold State.nandTurn
  split
  · exact logHeld_logFlush s
  · rfl

theorem logFlush_log (s : State) : s.logFlush.log.recno = s.log.recno ∧ s.logFlush.log.nand = s.logHeld ∧ s.logFlush.log.buffer = [] := by
  unfold State.logFlush
  generalize s.logHeld = l
  exact ⟨rfl, rfl, rfl⟩

theorem nandTurn_log (s : State) : s.nandTurn.log.recno = s.log.recno ∧
    (if s.log.urgent = true then s.nandTurn.log.buffer = [] else s.nandTurn.log = s.log) := by
  obtain ⟨hrecno, -, hbuffer⟩ := logFlush_log s
  unfold State.nandTurn
  split
  · exact ⟨hrecno, hbuffer⟩
  · exact ⟨rfl, rfl⟩

theorem nandTurn_of_calm {s : State} (h : s.log.urgent = false) : s.nandTurn = s := by simp [State.nandTurn, h]

/-- R392: which records a read names depends on those held alone. `logHeld` stands for itself in the proof: unfolded, its length minus
1048576 makes the kernel count down. -/
theorem logFrom_form : ∃ F : List LogRec → Nat → Nat → List LogRec, State.logFrom = fun s first n => F s.logHeld first n := by
  delta State.logFrom
  generalize State.logHeld = held
  exact ⟨fun l first n => match l with
    | [] => []
    | r :: rest =>
      let ofs := (BitVec.ofNat 32 first - r.recno).toNat
      if 2147483648 ≤ ofs then (r :: rest).take n else ((r :: rest).drop ofs).take n, rfl⟩

theorem logFrom_congr {s t : State} (h : t.logHeld = s.logHeld) (first n : Nat) : t.logFrom first n = s.logFrom first n := by
  obtain ⟨F, hF⟩ := logFrom_form
  rw [hF]
  beta_reduce
  rw [h]

/-! ### A single module mirrors nothing -/

section
variable {s : State} (h : s.pair = false)
include h

theorem mirror_alone (c : Src) (op : Nat) (p : Bytes) (take : DWord) : s.mirror c op p take = s := by
  simp [State.mirror, State.leads, h]

theorem mirrorBytes_alone (n : Nat) (c : Src) (bs : Bytes) : State.mirrorBytes n s c bs = s := by
  induction n generalizing bs with
  | zero => rfl
  | succ n ih =>
    simp only [State.mirrorBytes, mirror_alone h]
    split
    · rfl
    · exact ih _

theorem mirrorRead_alone (c : Src) (op : Nat) (p : Bytes) (bs : Option Bytes) : s.mirrorRead c op p bs = s := by
  simp only [State.mirrorRead, mirrorBytes_alone h, mirror_alone h]

end

/-! ### LOG_READ -/

/-- The records that a read names, written to the host. -/
def State.recordsRead (s : State) (p : Bytes) : State :=
  s.nandTurn.hostWrite (pf p 8 8) ((s.nandTurn.logFrom (pf p 0 4) (min (pf p 4 4) 65536)).flatMap LogRec.bytes)

theorem recordsRead_host (s : State) (p : Bytes) : (s.recordsRead p).host =
    memWrite s.host (pf p 8 8) ((s.logFrom (pf p 0 4) (min (pf p 4 4) 65536)).flatMap LogRec.bytes) := by
  have hfrom := logFrom_congr (logHeld_nandTurn s) (pf p 0 4) (min (pf p 4 4) 65536)
  have hhost := (only_nandTurn_log s).keeps_host
  unfold State.recordsRead
  rw [hfrom]
  generalize (s.logFrom (pf p 0 4) (min (pf p 4 4) 65536)).flatMap LogRec.bytes = bs
  rw [State.hostWrite, hhost]

theorem hostWrite_log (s : State) (a : Nat) (bs : Bytes) : (s.hostWrite a bs).log = s.log := rfl

theorem recordsRead_log (s : State) (p : Bytes) : (s.recordsRead p).log = s.nandTurn.log := by
  unfold State.recordsRead
  exact hostWrite_log ..

theorem only_recordsRead (s : State) (p : Bytes) : Only [.log, .host] s (s.recordsRead p) :=
  only_hostWrite _ _ ((only_nandTurn_log s).mono (by decide)) (by decide)

theorem lget_of_lt {α : Type} {l : List α} {i : Nat} (h : i < l.length) (d : α) : lget l i d = l[i] := by
  simp [lget, h]

theorem cellsRead_memWrite (m : List (Nat × Byte)) (h : cellsRise m) (a x : Nat) (bs : Bytes) :
    cellsRead memDefault (memWrite m a bs) x = if a ≤ x ∧ x < a + bs.length then lget bs (x - a) 0 else cellsRead memDefault m x := by
  split
  · next hx =>
    have hi : x - a < bs.length := by omega
    have hread := cellsRead_memWrite_same bs a (x - a) m h hi
    rw [show a + (x - a) = x by omega] at hread
    rw [hread, lget_of_lt hi]
  · next hx => exact cellsRead_memWrite_other bs a x m h (by omega)

/-! ### NAND_REFRESH -/

theorem nandRefresh_down {s : State} (h : s.ops.st = .off ∨ s.ops.st = .boot ∨ s.ops.st = .selftest) (b n : Nat) : s.nandRefresh b n = s := by
  unfold State.nandRefresh
  rcases h with h | h | h <;> simp [h]

theorem nandRefresh_up {s : State} (hoff : s.ops.st ≠ .off) (hboot : s.ops.st ≠ .boot) (hself : s.ops.st ≠ .selftest) (b n : Nat) :
    s.nandRefresh b n = if s.ops.fwWrite.isSome = true ∨ s.stg.writes ≠ [] ∨ n < 8 then s.nandTurn
      else s.nandTurn.modOps fun o => { o with spares := o.spares ++ [(b, o.spares.length)] } := by
  have honly := only_nandTurn_log s
  simp only [State.nandRefresh, hoff, hboot, hself, decide_false, Bool.or_self, Bool.false_eq_true, if_false, honly.keeps_ops,
    honly.keeps_stg, Bool.or_eq_true, decide_eq_true_eq, or_assoc]

/-! ### Firmware slots -/

theorem fwSlot_setFwSlot_same (s : State) {k : Nat} (hk : k < 2) (x : FwSlot) : (s.setFwSlot k x).fwSlot k = x := by
  have h : k = 0 ∨ k = 1 := by omega
  rcases h with rfl | rfl <;> simp [State.fwSlot, State.setFwSlot]

theorem fwSlot_setFwSlot_other (s : State) {k : Nat} (hk : k < 2) (x : FwSlot) : (s.setFwSlot k x).fwSlot (1 - k) = s.fwSlot (1 - k) := by
  have h : k = 0 ∨ k = 1 := by omega
  rcases h with rfl | rfl <;> simp [State.fwSlot, State.setFwSlot]

theorem fwFinish_idle {s : State} (h : s.ops.fwWrite = none) : s.fwFinish = s := by simp only [State.fwFinish, h]

theorem fwFinish_writing {s : State} {w : FwWrite} (h : s.ops.fwWrite = some w) :
    s.fwFinish = ((s.setFwSlot w.slot w.img).modOps fun o => { o with fwWrite := none }).done w.src 0x0901 := by
  simp only [State.fwFinish, h]

section
variable {s : State} {c : Src} {p : Bytes} (hwrite : s.ops.fwWrite = none) (hk : pb p 0 < 2)
include hwrite hk

theorem fwLoad_running (hrun : pb p 0 = s.ops.runSlot) (image : Option Bytes) :
    s.fwLoad c p image = s.nandTurn.refuse c 0x0901 .checkFail 1 := by
  have hops := (only_nandTurn_log s).keeps_ops
  simp only [State.fwLoad, fwFinish_idle (hops ▸ hwrite), hops, ← hrun, if_neg (show ¬ 1 < pb p 0 by omega), if_true]

section
variable (hrun : pb p 0 ≠ s.ops.runSlot) {bs : Bytes} (hsvn : s.sec.svn ≤ pb (padTo (pf p 16 4) bs) 12)
  (hform : fwForm (padTo (pf p 16 4) bs) = true)
include hrun hsvn hform

/-- The image for a slot as it begins to be written. -/
def fwImage (bs : Bytes) : FwSlot := { valid := true, version := BitVec.ofNat 32 (pf bs 8 4), svn := pb bs 12, body := bs }

theorem fwLoad_judged : s.fwLoad c p (some bs) =
    match s.trailerCheck (padTo (pf p 16 4) bs) (pf (padTo (pf p 16 4) bs) 60 4) 2 "NDZ IMG" (· < 8) with
    | some d => s.nandTurn.refuse c 0x0901 .authFail d
    | none => (s.nandTurn.setFwSlot (pb p 0) {}).modOps fun o =>
        { o with fwWrite := some { src := c, slot := pb p 0, img := fwImage (padTo (pf p 16 4) bs) } } := by
  have honly := only_nandTurn_log s
  have htrail := trailerCheck_congr honly.keeps_sec
  simp only [State.fwLoad, fwFinish_idle (honly.keeps_ops ▸ hwrite), honly.keeps_ops, honly.keeps_sec, if_neg hrun, htrail, hform,
    if_neg (show ¬ 1 < pb p 0 by omega), if_neg (show ¬ pb (padTo (pf p 16 4) bs) 12 < s.sec.svn by omega), Bool.not_true,
    Bool.false_eq_true, if_false] <;> rfl

end
end

section
variable {s : State} {c : Src} {p : Bytes} (hk : pb p 0 < 2)
include hk

theorem fwActivate_plain (hup : (pb p 1).testBit 0 = false) :
    s.fwActivate c p = (s.modOps fun o => { o with actSlot := pb p 0 }).done c 0x0902 := by
  simp [State.fwActivate, hup, show ¬ 1 < pb p 0 by omega]

variable (hup : (pb p 1).testBit 0 = true)
include hup

theorem fwActivate_refused (h : pb p 0 ≠ s.ops.runSlot ∨ (s.fwSlot s.ops.runSlot).svn ≤ s.sec.svn) :
    s.fwActivate c p = s.refuse c 0x0902 .checkFail 3 := by
  simp only [State.fwActivate, hup, if_neg (show ¬ 1 < pb p 0 by omega), Bool.true_and, Bool.or_eq_true, bne_iff_ne, decide_eq_true_eq, h,
    if_true]

end

theorem fwSlot_took (s : State) (c : Src) (k : Nat) : (s.took c).fwSlot k = s.fwSlot k := by simp [State.fwSlot]

theorem cqSlot_took (s : State) (c : Src) (r : Nat) : (s.took c).cqSlot r = s.cqSlot r :=
  cqSlot_congr (only_took_cmd s c).keeps_regs (took_rings s c) r

theorem logHeld_took (s : State) (c : Src) : (s.took c).logHeld = s.logHeld := logHeld_congr (by simp)

/-- R392: a read writes the records that it names, and its completion, and nothing else. -/
theorem logRead_host {s : State} (hs : s.storesCanonical) (hpair : s.pair = false) {c : Src} (hr : c.ring.val < 128) (p : Bytes) {x : Nat}
    (hx : ¬ (s.cqSlot c.ring ≤ x ∧ x < s.cqSlot c.ring + 32)) : cellsRead memDefault (s.logRead c p).host x =
    cellsRead memDefault (memWrite s.host (pf p 8 8) ((s.logFrom (pf p 0 4) (min (pf p 4 4) 65536)).flatMap LogRec.bytes)) x := by
  have honly := only_recordsRead s p
  have hhost := recordsRead_host s p
  have heq : s.logRead c p = (s.recordsRead p).done c 0x0805 (s.nandTurn.logFrom (pf p 0 4) (min (pf p 4 4) 65536)).length := rfl
  rw [heq]
  generalize (s.nandTurn.logFrom (pf p 0 4) (min (pf p 4 4) 65536)).length = n
  generalize s.recordsRead p = u at *
  have hrise : cellsRise u.host := hhost ▸ cellsRise_memWrite _ _ _ hs.hostRise
  have hslot : u.cqSlot c.ring = s.cqSlot c.ring := cqSlot_congr honly.keeps_regs (congrArg CmdState.rings honly.keeps_cmd) _
  rw [State.done, cellsRead_complete _ _ _ _ ((pair_congr honly.keeps_live).trans hpair) hr hrise (by rwa [hslot]), hhost]

theorem logRead_log (s : State) (c : Src) (p : Bytes) : (s.logRead c p).log = s.nandTurn.log := by
  have heq : s.logRead c p = (s.recordsRead p).done c 0x0805 (s.nandTurn.logFrom (pf p 0 4) (min (pf p 4 4) 65536)).length := rfl
  rw [heq]
  simp [recordsRead_log]

/-- Settles O23: the log by the records held; each command on firmware by its branches. -/
theorem logRecordsAndFirmwareSlots : Obligations.LogRecordsAndFirmwareSlots := by
  refine ⟨?read, ?flush, ?dark, ?down, ?refresh, ?load, ?running, ?written, ?named, ?raised, ?refused⟩
  case read =>
    intro c p s hs hgiven hpair hr
    refine ⟨_, congrArg Host.Outcome.next (acting_of_given hgiven _), ?_⟩
    beta_reduce
    have hlog := logRead_log (s.took c) c p
    refine ⟨?_, fun hcalm => ?_, fun x hx => ?_⟩
    · rw [logHeld_congr hlog, logHeld_nandTurn, logHeld_took]
    · rw [hlog, nandTurn_of_calm (by simpa), (only_took_cmd s c).keeps_log]
    · rw [logRead_host (storesCanonical_took hs c) (by rwa [pair_took]) hr p (by rwa [cqSlot_took]), (only_took_cmd s c).keeps_host,
        logFrom_congr (logHeld_took s c)]
      exact cellsRead_memWrite _ hs.hostRise _ _ _
  case flush =>
    intro s hvin
    obtain ⟨hrecno, hnand, hbuffer⟩ := logFlush_log s
    exact ⟨_, if_pos hvin, logHeld_logFlush s, hnand, hbuffer, hrecno, only_logFlush s (Only.refl _ s) (by decide)⟩
  case dark =>
    intro s hvin
    show execLogFlush s = .next s
    simp [execLogFlush, hvin]
  case down => exact fun b n s h => congrArg Host.Outcome.next (nandRefresh_down h b n)
  case refresh =>
    intro b n s hoff hboot hself
    refine ⟨_, congrArg Host.Outcome.next (nandRefresh_up hoff hboot hself b n), ?_⟩
    beta_reduce
    obtain ⟨hrecno, hturn⟩ := nandTurn_log s
    have hheld := logHeld_nandTurn s
    have honly := only_nandTurn_log s
    generalize s.nandTurn = u at *
    split
    · exact ⟨hheld, hrecno, hturn, honly.keeps_ops, honly.mono (by decide)⟩
    · exact ⟨(logHeld_congr rfl).trans hheld, hrecno, hturn, by simp [honly.keeps_ops], only_modOps _ (honly.mono (by decide)) (by decide)⟩
  case load =>
    intro c p bs s hs hgiven hpair hwrite hk hrun hsvn hform
    refine ⟨_, congrArg Host.Outcome.next (acting_of_given hgiven _), ?_⟩
    beta_reduce
    have htook := only_took_cmd s c
    rw [mirrorRead_alone (by rwa [pair_took]), fwLoad_judged (by simpa) hk (by simpa) (by simpa) hform, trailerCheck_congr htook.keeps_sec]
    have hturn := only_nandTurn_log (s.took c)
    have hops : (s.took c).nandTurn.ops = s.ops := hturn.keeps_ops.trans htook.keeps_ops
    have hparts : Only [.ops, .log, .cmd, .mgt] s (s.took c).nandTurn :=
      (htook.mono (by decide)).trans (hturn.mono (by decide)) fun _ hp => hp
    have hdesk : SameDesk (s.took c) (s.took c).nandTurn := .of_only hturn
    generalize (s.took c).nandTurn = u at *
    cases s.trailerCheck (padTo (pf p 16 4) bs) (pf (padTo (pf p 16 4) bs) 60 4) 2 "NDZ IMG" (· < 8) with
    | some d => exact ⟨by simp [hops], answered_refuse hs hdesk⟩
    | none =>
      have hother : (u.setFwSlot (pb p 0) {}).fwSlot (1 - pb p 0) = s.fwSlot (1 - pb p 0) :=
        (fwSlot_setFwSlot_other u hk {}).trans (fwSlot_congr hops _)
      have hsame := fwSlot_setFwSlot_same u hk {}
      exact ⟨congrArg FwSlot.valid hsame, hother, ⟨_, rfl, rfl, rfl, rfl, rfl⟩,
        only_modOps _ (only_modOps _ hparts (by decide)) (by decide)⟩
  case running =>
    intro c p image s hs hgiven hpair hwrite hk hrun
    refine ⟨_, congrArg Host.Outcome.next (acting_of_given hgiven _), ?_⟩
    beta_reduce
    have hturn := only_nandTurn_log (s.took c)
    rw [mirrorRead_alone (by rwa [pair_took]), fwLoad_running (by simpa) hk (by simpa)]
    exact ⟨by simp [hturn.keeps_ops], answered_refuse hs (.of_only hturn)⟩
  case written =>
    intro w s hs hwrite hk
    have hturn := only_nandTurn_log s
    refine ⟨_, congrArg Host.Outcome.next (fwFinish_writing (hturn.keeps_ops ▸ hwrite)), ?_⟩
    beta_reduce
    have hsame := fwSlot_setFwSlot_same s.nandTurn hk w.img
    have hother := (fwSlot_setFwSlot_other s.nandTurn hk w.img).trans (fwSlot_congr hturn.keeps_ops _)
    have hset : Only [.ops, .log] s (s.nandTurn.setFwSlot w.slot w.img) := only_modOps _ (hturn.mono (by decide)) (by decide)
    generalize s.nandTurn.setFwSlot w.slot w.img = u at *
    have hmod : Only [.ops, .log] s (u.modOps fun o => { o with fwWrite := none }) := only_modOps _ hset (by decide)
    have hnt : (u.modOps fun o => { o with fwWrite := none }).nt64 = s.nt64 := by rw [State.nt64, hmod.keeps_nt, State.nt64]
    refine ⟨?_, ?_, by simp, hnt ▸ State.complete_answers _ _ _ _ _ hs (.of_only hmod)⟩
    · rw [fwSlot_congr (u := State.done _ _ _ _) (s := u.modOps fun o => { o with fwWrite := none }) (by simp)]
      exact hsame
    · rw [fwSlot_congr (u := State.done _ _ _ _) (s := u.modOps fun o => { o with fwWrite := none }) (by simp)]
      exact hother
  case named =>
    intro c p s hs hgiven hk hup
    refine ⟨_, congrArg Host.Outcome.next (acting_of_given hgiven _), ?_⟩
    beta_reduce
    rw [fwActivate_plain hk hup]
    exact ⟨by simp, by simp, answered_done hs ⟨rfl, rfl, ⟨rfl, rfl⟩, rfl, rfl, fun _ => rfl, fun _ => rfl⟩ (by simp)⟩
  case raised =>
    intro c p s hs hgiven hrun hk hup hsvn
    refine ⟨_, congrArg Host.Outcome.next (acting_of_given hgiven _), ?_⟩
    beta_reduce
    have hraises : (s.took c).raisesSvn p := ⟨hup, by simpa using hrun, by simpa [fwSlot_took] using hsvn⟩
    rw [fwActivate_raises c hk hraises]
    exact ⟨by simp [fwSlot_took], answered_done hs ⟨rfl, rfl, ⟨rfl, rfl⟩, rfl, rfl, fun _ => rfl, fun _ => rfl⟩ (by simp)⟩
  case refused =>
    intro c p s hs hgiven hk hup h
    refine ⟨_, congrArg Host.Outcome.next (acting_of_given hgiven _), ?_⟩
    beta_reduce
    rw [fwActivate_refused hk hup (by simpa [fwSlot_took] using h)]
    exact ⟨by simp, by simp, answered_refuse hs (.refl _)⟩

end Sys2Proof.Machine
end

section
/-! The mailboxes of the engines (R62, R98, R99). -/

-- The proofs are elaborated one after the other: this bounds the threads of the compiler, whose stacks count as its memory.
set_option Elab.async false

namespace Sys2Proof.Machine

/-! ### What a command in hand leaves as it is -/

section
variable (s : State) (c : Src)

theorem unitEngines_took : (s.took c).unitEngines = s.unitEngines := by rw [took_eq_desk]; rfl

theorem controlTake_took (c' : Src) (op : Nat) (p : Bytes) : (s.took c).controlTake c' op p = s.controlTake c' op p := by
  rw [took_eq_desk]; rfl

theorem mboxTaken_took (e r : Nat) : (s.took c).mboxTaken e r = s.mboxTaken e r := by rw [took_eq_desk]; rfl

end

theorem unlessHalted_of_admits {s : State} {c : Src} {op : Nat} {p : Bytes} (h : s.admits c op p) (t : State) :
    (s.took c).unlessHalted c op t = t := by
  obtain ⟨-, hst⟩ := h
  rw [State.unlessHalted, (only_took_cmd s c).keeps_ops, if_neg hst]

/-! ### Entries of a mailbox -/

/-- Over distinct engines each takes its change once, and no other engine does. -/
theorem forNums_modEng (f : Engine → Engine) {xs : List Nat} (hxs : xs.Nodup) (s : State) {e : Nat} (he : e < 8) :
    (forNums xs (fun e s => s.modEng e f) s).engN e = if e ∈ xs then f (s.engN e) else s.engN e := by
  induction xs generalizing s with
  | nil => simp [forNums]
  | cons x xs ih =>
    obtain ⟨hx, hrest⟩ := List.nodup_cons.mp hxs
    have hstep : forNums (x :: xs) (fun e s => s.modEng e f) s = forNums xs (fun e s => s.modEng e f) (s.modEng x f) := rfl
    rw [hstep, ih hrest]
    by_cases hex : e = x
    · subst hex
      simp [hx, State.engN_modEng_same _ _ _ he]
    · simp [hex, State.engN_modEng_other _ _ _ _ hex]

theorem nodup_bitsIn (n m : Nat) : (bitsIn n m).Nodup := List.Nodup.filter _ List.nodup_range

/-- The entry that a command becomes. -/
def State.mboxEntry (s : State) (c : Src) (op : Nat) (p : Bytes) (take : Option DWord) : MboxEntry :=
  { opcode := op, src := c, cls := s.ringClass c.ring, reserved := s.ringClass c.ring = 0, acceptAt := s.acceptedAt c, takeIdx := take
    payload := p.take 32 }

/-- Every engine of a mask takes the entry, and the command waits for them. -/
def State.mailed (s : State) (c : Src) (op mask : Nat) (m : MboxEntry) : State :=
  (forNums (bitsIn 8 mask) (fun e s => s.modEng e fun n => { n with inbox := n.inbox ++ [m] }) s).waitStart (.cmd c op) mask

theorem mailed_effect (s : State) (c : Src) (op mask : Nat) (m : MboxEntry) :
    (∀ e < 8, (s.mailed c op mask m).engN e = if mask.testBit e then { s.engN e with inbox := (s.engN e).inbox ++ [m] } else s.engN e) ∧
    (s.mailed c op mask m).waits = s.waits ++ [{ who := .cmd c op, left := BitVec.ofNat 8 mask }] ∧
    Only [.eng, .waits] s (s.mailed c op mask m) := by
  have hmod : Only [.eng] s (forNums (bitsIn 8 mask) (fun e s => s.modEng e fun n => { n with inbox := n.inbox ++ [m] }) s) :=
    only_forNums _ _ (fun e u hu => only_modEng e _ hu (by decide)) (Only.refl _ s)
  have heng (e : Nat) (he : e < 8) := forNums_modEng (fun n => { n with inbox := n.inbox ++ [m] }) (nodup_bitsIn 8 mask) s he
  unfold State.mailed
  generalize forNums (bitsIn 8 mask) (fun e s => s.modEng e fun n => { n with inbox := n.inbox ++ [m] }) s = u at *
  refine ⟨fun e he => ?_, by rw [State.waitStart, hmod.keeps_waits], only_waitStart _ _ _ (hmod.mono (by decide)) (by decide)⟩
  have hu : (u.waitStart (.cmd c op) mask).engN e = u.engN e := rfl
  rw [hu, heng e he]
  simp [mem_bitsIn, he]

section
variable {s : State} {c : Src} {op : Nat} {p : Bytes} {mask : Nat} {take : Option DWord}

theorem enqueue_full (h : ((bitsIn 8 mask).all fun e => decide (s.mboxTaken e c.ring < 8)) = false) :
    s.enqueue c op p mask take = s.took c false := by
  simp only [State.enqueue, h, Bool.false_eq_true, if_false]

theorem enqueue_free (h : ((bitsIn 8 mask).all fun e => decide (s.mboxTaken e c.ring < 8)) = true) :
    s.enqueue c op p mask take = (s.mirror c op p (take.getD 0)).mailed c op mask (s.mboxEntry c op p take) := by
  have htwn := only_mirror_twn s c op p (take.getD 0)
  have hentry : (s.mirror c op p (take.getD 0)).mboxEntry c op p take = s.mboxEntry c op p take := by
    have hclass : (s.mirror c op p (take.getD 0)).ringClass c.ring = s.ringClass c.ring := by
      simp only [State.ringClass, State.reg, htwn.keeps_regs]
    have hat : (s.mirror c op p (take.getD 0)).acceptedAt c = s.acceptedAt c := by
      simp only [State.acceptedAt, htwn.keeps_mgt, htwn.keeps_cmd, htwn.keeps_now]
    unfold State.mboxEntry
    rw [hclass, hat]
  rw [← hentry]
  simp only [State.enqueue, h, if_true]
  rfl

end

/-- The command is still to be acted on. -/
theorem took_waiting (s : State) (c : Src) : Only [.cmd, .mgt] s (s.took c false) ∧
    (c.ring.val < 128 → ∀ h ∈ (s.took c false).cmd.handed, h.src = c → h.acted = false) ∧
    (c.ring.val = 128 → ∀ m, (s.took c false).mgt.cmd = some m → m.cmd.acted = false) := by
  unfold State.took
  split
  · next hr =>
    refine ⟨only_modMgt _ (Only.refl _ s) (by decide), fun h => by omega, fun _ m hm => ?_⟩
    have hmap : (s.mgt.cmd.map fun x => { x with cmd := { x.cmd with acted := false } }) = some m := hm
    obtain ⟨x, -, rfl⟩ := Option.map_eq_some_iff.mp hmap
    rfl
  · next hr =>
    refine ⟨only_modCmd _ (Only.refl _ s) (by decide), fun _ h hh hc => ?_, fun h => absurd h hr⟩
    have hmap : h ∈ s.cmd.handed.map fun h => if h.src = c then { h with acted := false } else h := hh
    obtain ⟨x, -, rfl⟩ := List.mem_map.mp hmap
    split
    · rfl
    · next hx => exact absurd (by rwa [if_neg hx] at hc) hx

/-! ### The commands by their branches -/

section
variable {s : State} {c : Src} {op : Nat} {p : Bytes} (hadm : s.admits c op p)
include hadm

theorem gfmCommand_mails (hunits : s.unitEngines ≠ 0) (take : Option DWord) :
    (s.took c).gfmCommand c op p take = (s.took c).enqueue c op p s.unitEngines take := by
  rw [State.gfmCommand, unlessHalted_of_admits hadm, unitEngines_took, if_neg hunits]

theorem gfmCommand_done (hunits : s.unitEngines = 0) (take : Option DWord) :
    (s.took c).gfmCommand c op p take = (s.took c).done c op := by
  rw [State.gfmCommand, unlessHalted_of_admits hadm, unitEngines_took, if_pos hunits]

end

/-- Which command each of the six is, and the engines that it names. -/
theorem exec_mails {i : Instr} {op mask : Nat} {c : Src} {p : Bytes} {s : State}
    (hi : (i, op, mask) ∈ [(.gfmSetTargets c p, 0x0101, s.unitEngines), (.gfmSetBreaker c p, 0x0102, s.unitEngines),
      (.gfmClearFlags c p, 0x0103, s.unitEngines), (.frdBankSwap c p, 0x0110, pb p 0), (.frdSatReadClear c p, 0x0801, pb p 0),
      (.prfSetTarget c p, 0x0120, pb p 0)])
    (hadm : s.admits c op p) (hmask : mask ≠ 0) (hswap : op = 0x0110 → pf p 2 2 ≤ 4096 ∧ pb p 1 ≤ 1) (htgt : op = 0x0120 → pb p 1 ≤ 7) :
    exec i s = .next ((s.took c).enqueue c op p mask (s.controlTake c op p)) := by
  have hact (f : State → State) := acting_of_given hadm.1 f
  rw [← controlTake_took s c c op p]
  simp only [List.mem_cons, Prod.mk.injEq, List.not_mem_nil, or_false] at hi
  rcases hi with ⟨rfl, rfl, rfl⟩ | ⟨rfl, rfl, rfl⟩ | ⟨rfl, rfl, rfl⟩ | ⟨rfl, rfl, rfl⟩ | ⟨rfl, rfl, rfl⟩ | ⟨rfl, rfl, rfl⟩
  · exact congrArg Host.Outcome.next ((hact _).trans (gfmCommand_mails hadm hmask _))
  · exact congrArg Host.Outcome.next ((hact _).trans (gfmCommand_mails hadm hmask _))
  · exact congrArg Host.Outcome.next ((hact _).trans (gfmCommand_mails hadm hmask _))
  · obtain ⟨hn, hbank⟩ := hswap rfl
    refine congrArg Host.Outcome.next ((hact _).trans ?_)
    rw [State.frdBankSwap, unlessHalted_of_admits hadm, if_neg hmask, if_neg (by omega), if_neg (by omega)]
  · refine congrArg Host.Outcome.next ((hact _).trans ?_)
    rw [State.frdSatReadClear, unlessHalted_of_admits hadm, if_neg hmask]
  · have hch := htgt rfl
    refine congrArg Host.Outcome.next ((hact _).trans ?_)
    rw [State.prfSetTarget, unlessHalted_of_admits hadm, if_neg hmask, if_neg (by omega)]

/-- Settles O27: the mailed command by its entries, the refused one by the first field out of range. -/
theorem mailboxCommandsReachTheirEngines : Obligations.MailboxCommandsReachTheirEngines := by
  refine ⟨?mailed, ?none, ?range⟩
  case mailed =>
    intro i op mask c p s hi hadm hmask hswap htgt
    have hexec := exec_mails hi hadm hmask hswap htgt
    have htook := only_took_cmd s c
    have hfree : ((bitsIn 8 mask).all fun e => decide ((s.took c).mboxTaken e c.ring < 8))
        = (bitsIn 8 mask).all fun e => decide (s.mboxTaken e c.ring < 8) := by simp only [mboxTaken_took]
    split
    · next h =>
      rw [enqueue_free (hfree.trans h)] at hexec
      have htwn := only_mirror_twn (s.took c) c op p ((s.controlTake c op p).getD 0)
      have hentry : ∃ m, (s.took c).mboxEntry c op p (s.controlTake c op p) = m ∧ m.opcode = op ∧ m.src = c ∧ m.payload = p.take 32 ∧
          m.acceptAt = s.acceptedAt c ∧ m.takeIdx = s.controlTake c op p := ⟨_, rfl, rfl, rfl, rfl, acceptedAt_took s c, rfl⟩
      obtain ⟨m, hm, hfields⟩ := hentry
      rw [hm] at hexec
      obtain ⟨heng, hwaits, honly⟩ := mailed_effect ((s.took c).mirror c op p ((s.controlTake c op p).getD 0)) c op mask m
      have hbase (e : Nat) : ((s.took c).mirror c op p ((s.controlTake c op p).getD 0)).engN e = s.engN e := by
        rw [State.engN, htwn.keeps_eng, htook.keeps_eng, State.engN]
      refine ⟨_, hexec, fun e he hbit => ⟨m, ?_, hfields⟩, fun e he hbit => ?_, ?_, fun x => ?_⟩
      · rw [heng e he, if_pos hbit, hbase]
      · rw [heng e he, hbit, if_neg (by simp), hbase]
      · rw [hwaits, htwn.keeps_waits, htook.keeps_waits]
      · rw [honly.keeps_host, htwn.keeps_host, htook.keeps_host]
    · next h =>
      rw [enqueue_full (hfree.trans (by simpa using h))] at hexec
      obtain ⟨honly, hring, hport⟩ := took_waiting (s.took c) c
      exact ⟨_, hexec, honly.keeps_eng.trans htook.keeps_eng, honly.keeps_waits.trans htook.keeps_waits,
        htook.trans honly fun _ hp => hp, hring, hport⟩
  case none =>
    intro i op c p s hi hs hadm hunits
    have hact := acting_of_given hadm.1
    have hexec : exec i s = .next ((s.took c).done c op) := by
      simp only [List.mem_cons, Prod.mk.injEq, List.not_mem_nil, or_false] at hi
      rcases hi with ⟨rfl, rfl⟩ | ⟨rfl, rfl⟩ | ⟨rfl, rfl⟩ <;>
        exact congrArg Host.Outcome.next ((hact _).trans (gfmCommand_done hadm hunits _))
    exact ⟨_, hexec, by simp, by simp, answered_done hs (.refl _) (by simp)⟩
  case range =>
    intro i op d c p s hi hs hadm hcase
    have hact := acting_of_given hadm.1
    have hexec : exec i s = .next ((s.took c).refuse c op .checkFail d) := by
      simp only [List.mem_cons, Prod.mk.injEq, List.not_mem_nil, or_false] at hi
      rcases hi with ⟨rfl, rfl⟩ | ⟨rfl, rfl⟩ | ⟨rfl, rfl⟩
      · refine congrArg Host.Outcome.next ((hact _).trans ?_)
        rw [State.frdBankSwap, unlessHalted_of_admits hadm]
        rcases hcase with ⟨h, rfl⟩ | ⟨h, -, hn, rfl⟩ | ⟨h, -, hn, hb, rfl⟩ | ⟨-, hop, -⟩
        · rw [if_pos h]
        · rw [if_neg h, if_pos hn]
        · rw [if_neg h, if_neg (by omega), if_pos hb]
        · exact absurd hop (by decide)
      · refine congrArg Host.Outcome.next ((hact _).trans ?_)
        rw [State.frdSatReadClear, unlessHalted_of_admits hadm]
        rcases hcase with ⟨h, rfl⟩ | ⟨-, hop, -⟩ | ⟨-, hop, -⟩ | ⟨-, hop, -⟩
        · rw [if_pos h]
        · exact absurd hop (by decide)
        · exact absurd hop (by decide)
        · exact absurd hop (by decide)
      · refine congrArg Host.Outcome.next ((hact _).trans ?_)
        rw [State.prfSetTarget, unlessHalted_of_admits hadm]
        rcases hcase with ⟨h, rfl⟩ | ⟨-, hop, -⟩ | ⟨-, hop, -⟩ | ⟨h, -, hch, rfl⟩
        · rw [if_pos h]
        · exact absurd hop (by decide)
        · exact absurd hop (by decide)
        · rw [if_neg h, if_pos hch]
    exact ⟨_, hexec, by simp, by simp, answered_refuse hs (.refl _)⟩

end Sys2Proof.Machine
end

section
/-! The control period of an engine: its start, its publication and its end (R31, R94, R96, R101). -/

-- The proofs are elaborated one after the other: this bounds the threads of the compiler, whose stacks count as its memory.
set_option Elab.async false

namespace Sys2Proof.Machine

/-! ### Start -/

/-- The pull-in flags of the stacks that an engine serves clear. -/
def State.pullsTaken (s : State) (e : Nat) : State :=
  forNums ((s.asSeen e).servedBy e) (fun k s => s.modZone k fun z => { z with pullSeen := false }) s

/-- The pull-in flags of an engine's stacks as it reads them. -/
def State.pullFlags (s : State) (e : Nat) : Bool × Bool :=
  let flag := fun i => (s.asSeen e).slotStack e i < 16 && (s.zone ((s.asSeen e).slotStack e i)).pullSeen
  (flag 0, flag 1)

/-- An engine has started its period, and a twin that resynchronises is told. -/
def State.periodStarted (s : State) (e : Nat) : State :=
  let u := (s.pullsTaken e).modEng e fun n => { n with
    started := true, published := false, complete := false, pull := s.pullFlags e, startAt := (s.pullsTaken e).startInstant e }
  if u.twn.resync then
    u.modTwn fun t => { t with recs := t.recs ++
      [{ e := e, idx := (s.engN e).idx, frame := (s.engN e).frame.toList, sample := (s.engN e).sample, pull := s.pullFlags e
         inbox := (s.engN e).tookIn, starts := (s.engN e).tookStarts, swaps := (s.engN e).tookSwaps }] }
  else u

/-- What a period's graph leaves. -/
def State.graphRun (s : State) (e : Nat) (img : Image) : State :=
  let g := s.runGraph e img
  let s := s.modEng e fun _ => g.eng
  let s := if g.classI then s.count .frdClassiCnt e else s
  if g.invalid then s.count .frdInvalidCnt e else s

section
variable {s : State} {e : Nat}

theorem slotStack_lt_of_served {v : State} {k : Nat} (h : k ∈ v.servedBy e) : k < 16 := by
  simpa using (List.mem_filter.mp h).2

theorem only_pullsTaken (s : State) (e : Nat) : Only [.trp] s (s.pullsTaken e) :=
  only_forNums _ _ (fun k u hu => only_modZone k _ hu (by decide)) (Only.refl _ s)

theorem pullsTaken_pullSeen {k : Nat} (hk : k ∈ (s.asSeen e).servedBy e) : ((s.pullsTaken e).zone k).pullSeen = false := by
  have hk16 := slotStack_lt_of_served hk
  refine forNums_reaches (P := fun u => (u.zone k).pullSeen = false) hk (fun u => ?_) fun i _ u hu => ?_
  · rw [State.zone_modZone_same _ _ _ hk16]
  · by_cases hi : k = i
    · subst hi
      rw [State.zone_modZone_same _ _ _ hk16]
    · rwa [State.zone_modZone_other _ _ _ _ hi]

theorem startInstant_of_only {l : List Part} {u : State} (h : Only l s u) (hl : ∀ p ∈ [Part.eng, .regs, .live], p ∉ l := by decide) :
    u.startInstant e = s.startInstant e := by
  have heng : u.engN e = s.engN e := by rw [State.engN, h.keeps_eng (hl _ (by decide)), State.engN]
  have hreg : u.reg .decTsEff e = s.reg .decTsEff e := by rw [State.reg, h.keeps_regs (hl _ (by decide)), State.reg]
  simp only [State.startInstant, State.asSeen, heng, hreg]
  rfl

theorem only_periodStarted (s : State) (e : Nat) : Only [.eng, .trp, .twn] s (s.periodStarted e) := by
  have hmod : Only [.eng, .trp, .twn] s ((s.pullsTaken e).modEng e fun n => { n with
      started := true, published := false, complete := false, pull := s.pullFlags e, startAt := (s.pullsTaken e).startInstant e }) :=
    only_modEng _ _ ((only_pullsTaken s e).mono (by decide)) (by decide)
  unfold State.periodStarted
  exact only_ite (only_modTwn _ hmod (by decide)) hmod

theorem periodStarted_engN (he : e < 8) (s : State) : (s.periodStarted e).engN e = { s.engN e with
      started := true, published := false, complete := false, pull := s.pullFlags e, startAt := s.startInstant e } ∧
    ∀ e', e' ≠ e → (s.periodStarted e).engN e' = s.engN e' := by
  have hpulls := only_pullsTaken s e
  have hstart : (s.pullsTaken e).startInstant e = s.startInstant e := startInstant_of_only hpulls
  have heng (k : Nat) : (s.pullsTaken e).engN k = s.engN k := by rw [State.engN, hpulls.keeps_eng, State.engN]
  have hsame : (s.periodStarted e).eng = ((s.pullsTaken e).modEng e fun n => { n with
      started := true, published := false, complete := false, pull := s.pullFlags e, startAt := (s.pullsTaken e).startInstant e }).eng := by
    unfold State.periodStarted
    dsimp only
    split <;> rfl
  have hengN (k : Nat) : (s.periodStarted e).engN k = ((s.pullsTaken e).modEng e fun n => { n with
      started := true, published := false, complete := false, pull := s.pullFlags e, startAt := (s.pullsTaken e).startInstant e }).engN k := by
    rw [State.engN, hsame, State.engN]
  refine ⟨by rw [hengN, State.engN_modEng_same _ _ _ he, heng, hstart], fun e' h => ?_⟩
  rw [hengN, State.engN_modEng_other _ _ _ _ h, heng]

theorem periodStarted_zone {k : Nat} (hk : k ∈ (s.asSeen e).servedBy e) : ((s.periodStarted e).zone k).pullSeen = false := by
  have hzone : (s.periodStarted e).zone k = (s.pullsTaken e).zone k := by
    unfold State.periodStarted
    dsimp only
    split <;> rfl
  rw [hzone, pullsTaken_pullSeen hk]

theorem graphRun_engN (he : e < 8) (s : State) (img : Image) : (s.graphRun e img).engN e = (s.runGraph e img).eng ∧
    (∀ e', e' ≠ e → (s.graphRun e img).engN e' = s.engN e') ∧ Only [.eng, .regs] s (s.graphRun e img) := by
  have heng : (s.graphRun e img).eng = (s.modEng e fun _ => (s.runGraph e img).eng).eng := by
    unfold State.graphRun
    generalize s.runGraph e img = g
    dsimp only
    split <;> split <;> rfl
  have hengN (k : Nat) : (s.graphRun e img).engN k = (s.modEng e fun _ => (s.runGraph e img).eng).engN k := by
    rw [State.engN, heng, State.engN]
  have honly : Only [.eng, .regs] s (s.graphRun e img) := by
    unfold State.graphRun
    generalize s.runGraph e img = g
    have hmod : Only [.eng, .regs] s (s.modEng e fun _ => g.eng) := only_modEng _ _ (Only.refl _ s) (by decide)
    have hclass := only_ite (c := g.classI = true) (only_count .frdClassiCnt e 1 hmod (by decide)) hmod
    exact only_ite (only_count .frdInvalidCnt e 1 hclass (by decide)) hclass
  refine ⟨by rw [hengN, State.engN_modEng_same _ _ _ he], fun e' h => ?_, honly⟩
  rw [hengN, State.engN_modEng_other _ _ _ _ h]

end

theorem execEngineStart_ready {s : State} {e : Fin 8} {img : Image} (himg : (s.engN e).image = some img) (hexec : s.executes e = true)
    (harm : (s.engN e).armReset = false) (hstart : (s.engN e).started = false) (hready : s.sampleReady e = true) :
    execEngineStart e s = .next (((s.advanceTo (s.startInstant e)).periodStarted e).graphRun e img) := by
  have heng : (s.advanceTo (s.startInstant e)).engN e = s.engN e := by simp [State.engN]
  have hexecutes : (s.inPeriod e && !(s.engN e).started && s.sampleReady e) = true := by simp [State.inPeriod, hexec, harm, hstart, hready]
  simp only [execEngineStart, himg, hexecutes, if_true, State.periodStarted, heng]
  rfl

theorem execEngineStart_not_ready {s : State} {e : Fin 8} (h : s.executes e = false ∨ (s.engN e).armReset = true ∨
    (s.engN e).started = true ∨ s.sampleReady e = false) : execEngineStart e s = .next s := by
  have hno : (s.inPeriod e && !(s.engN e).started && s.sampleReady e) = false := by
    rcases h with h | h | h | h <;> simp [State.inPeriod, h]
  simp only [execEngineStart, hno, Bool.false_eq_true, if_false]
  split <;> rfl

/-! ### Publication -/

/-- The edge that an engine's shadow writes to a channel's pending set. -/
def State.edgePublished (s v : State) (e : Nat) (x : ShadowEdge) : State :=
  if v.slotStack e x.slot < 16 then
    s.modChan (12 * v.slotStack e x.slot + x.chan) fun c => if x.rising then { c with pendA := some x.value } else { c with pendB := some x.value }
  else s

theorem publishSet_eq (s v : State) (shadow : List ShadowEdge) (e : Nat) :
    s.publishSet v shadow e = shadow.foldl (fun s x => s.edgePublished v e x) s := rfl

section
variable {s v : State} {e n : Nat} {x : ShadowEdge}

theorem only_publishSet_parts (s v : State) (shadow : List ShadowEdge) (e : Nat) : Only [.pwm] s (s.publishSet v shadow e) :=
  holds_foldl (P := Only [.pwm] s) _ (fun _ _ _ hu => only_ite (only_modChan _ _ hu (by decide)) hu) (Only.refl _ s)

/-- The pending compare of a channel for one of its edges. -/
def State.pend (s : State) (n : Nat) (rising : Bool) : Option (BitVec 29) := if rising then (s.chan n).pendA else (s.chan n).pendB

theorem edgePublished_same (hk : v.slotStack e x.slot < 16) (hc : x.chan < 12) (s : State) :
    (s.edgePublished v e x).pend (12 * v.slotStack e x.slot + x.chan) x.rising = some x.value := by
  rw [State.edgePublished, if_pos hk, State.pend, State.chan_modChan_same _ _ _ (by omega)]
  cases x.rising <;> rfl

theorem edgePublished_other {rising : Bool} (h : 12 * v.slotStack e x.slot + x.chan ≠ n ∨ x.rising ≠ rising) (s : State) :
    (s.edgePublished v e x).pend n rising = s.pend n rising := by
  unfold State.edgePublished
  split
  · by_cases hn : n = 12 * v.slotStack e x.slot + x.chan
    · subst hn
      have hr : x.rising ≠ rising := h.resolve_left fun hne => hne rfl
      by_cases hlt : 12 * v.slotStack e x.slot + x.chan < 192
      · rw [State.pend, State.pend, State.chan_modChan_same _ _ _ hlt]
        cases hx : x.rising <;> cases hy : rising <;> simp_all
      · have hsame : (s.modChan (12 * v.slotStack e x.slot + x.chan) fun c =>
            if x.rising then { c with pendA := some x.value } else { c with pendB := some x.value }).chan (12 * v.slotStack e x.slot + x.chan)
            = s.chan (12 * v.slotStack e x.slot + x.chan) := by
          simp [State.chan, State.modChan, vget, vset, hlt]
        rw [State.pend, State.pend, hsame]
    · rw [State.pend, State.pend, State.chan_modChan_other _ _ _ _ hn]
  · rfl

/-- The compare that the graph wrote last to a channel is its pending one. -/
theorem publishSet_last {pre post : List ShadowEdge} (hk : v.slotStack e x.slot < 16) (hc : x.chan < 12)
    (hpost : ∀ y ∈ post, 12 * v.slotStack e y.slot + y.chan ≠ 12 * v.slotStack e x.slot + x.chan ∨ y.rising ≠ x.rising) (s : State) :
    (s.publishSet v (pre ++ x :: post) e).pend (12 * v.slotStack e x.slot + x.chan) x.rising = some x.value := by
  rw [publishSet_eq, List.foldl_append, List.foldl_cons]
  exact holds_foldl (P := fun u => u.pend (12 * v.slotStack e x.slot + x.chan) x.rising = some x.value) _
    (fun u y hy hu => (edgePublished_other (hpost y hy) u).trans hu) (edgePublished_same hk hc _)

/-- A channel in which at most the pending compares have changed. -/
def PendsOnly (s t : State) (n : Nat) : Prop := ∃ a b, t.chan n = { s.chan n with pendA := a, pendB := b }

theorem publishSet_pends (hn : n < 192) (s v : State) (shadow : List ShadowEdge) (e : Nat) : PendsOnly s (s.publishSet v shadow e) n := by
  refine holds_foldl (P := fun u => PendsOnly s u n) _ (fun u x _ hu => ?_) ⟨_, _, rfl⟩
  obtain ⟨a, b, hu⟩ := hu
  dsimp only
  split
  · by_cases h : n = 12 * v.slotStack e x.slot + x.chan
    · subst h
      unfold PendsOnly
      rw [State.chan_modChan_same _ _ _ hn, hu]
      split <;> exact ⟨_, _, rfl⟩
    · exact ⟨a, b, (State.chan_modChan_other _ _ _ _ h).trans hu⟩
  · exact ⟨a, b, hu⟩

theorem publishSet_untouched {shadow : List ShadowEdge}
    (h : ∀ x ∈ shadow, v.slotStack e x.slot < 16 → 12 * v.slotStack e x.slot + x.chan ≠ n) (s : State) :
    (s.publishSet v shadow e).chan n = s.chan n := by
  refine holds_foldl (P := fun u => u.chan n = s.chan n) _ (fun u x hx hu => ?_) rfl
  dsimp only
  split
  · next hk => exact (State.chan_modChan_other _ _ _ _ (h x hx hk).symm).trans hu
  · exact hu

end

theorem execPublish_onTime {s : State} {e : Fin 8} (hexec : s.executes e = true) (hstart : (s.engN e).started = true)
    (hpub : (s.engN e).published = false) (hmiss : s.missAt e = none) : execPublish e s =
    .next (((s.advanceTo (s.engN e).publishAt).publishSet (s.asSeen e) (s.engN e).shadow e).modEng e fun n => { n with published := true }) := by
  simp [execPublish, hexec, hstart, hpub, hmiss]

theorem execGraphComplete_onTime {s : State} {e : Fin 8} (hexec : s.executes e = true) (hstart : (s.engN e).started = true)
    (hpub : (s.engN e).published = true) (hcomp : (s.engN e).complete = false) (hmiss : s.missAt e = none) :
    execGraphComplete e s = .next ((s.advanceTo (s.engN e).completeAt).modEng e fun n => { n with complete := true }) := by
  simp [execGraphComplete, hexec, hstart, hpub, hcomp, hmiss]

theorem exec_late {s : State} {e : Fin 8} {i : Instr} {n : Nat} (hexec : s.executes e = true) (hstart : (s.engN e).started = true)
    (hmiss : s.missAt e = some n) (hi : i = .publish e ∧ (s.engN e).published = false ∨
      i = .graphComplete e ∧ (s.engN e).published = true ∧ (s.engN e).complete = false) : exec i s = .next ((s.advanceTo n).engineFault e) := by
  rcases hi with ⟨rfl, hpub⟩ | ⟨rfl, hpub, hcomp⟩
  · simp [exec, execPublish, hexec, hstart, hpub, hmiss]
  · simp [exec, execGraphComplete, hexec, hstart, hpub, hcomp, hmiss]

/-- Settles O28: the start by its steps, the publication by the edges of the shadow, the capture by its register. -/
theorem enginesRunAndPublishTheirPeriod : Obligations.EnginesRunAndPublishTheirPeriod := by
  refine ⟨?start, ?publish, ?complete, ?late, ?capture, ?waits⟩
  case start =>
    intro e img s himg hexec harm hstart hready
    refine ⟨_, execEngineStart_ready himg hexec harm hstart hready, ?_⟩
    beta_reduce
    have hadv := only_advanceTo_time s (s.startInstant e)
    have hnow := le_now_advanceTo s (s.startInstant e)
    have hinst : (s.advanceTo (s.startInstant e)).startInstant e = s.startInstant e := startInstant_of_only hadv
    have hengN (k : Nat) : (s.advanceTo (s.startInstant e)).engN k = s.engN k := by rw [State.engN, hadv.keeps_eng, State.engN]
    have hserved : ((s.advanceTo (s.startInstant e)).asSeen e).servedBy e = (s.asSeen e).servedBy e := by
      simp only [State.servedBy, State.slotStack, State.lv, State.asSeen, hengN]
    generalize s.advanceTo (s.startInstant e) = u at *
    have hbegun := only_periodStarted u e
    obtain ⟨hself, hothers⟩ := periodStarted_engN e.isLt u
    have hzone (k : Nat) (hk : k ∈ (u.asSeen e).servedBy e) := periodStarted_zone hk
    generalize u.periodStarted e = v at *
    obtain ⟨hrun, hrunOthers, hgraph⟩ := graphRun_engN e.isLt v img
    refine ⟨?_, fun k hk => ?_, fun e' h => ?_, ?_, v, ?_, hrun, (u.pullFlags e).1, (u.pullFlags e).2, ?_⟩
    · rw [hgraph.keeps_now, hbegun.keeps_now]
      exact hnow
    · rw [State.zone, hgraph.keeps_trp]
      exact hzone k (hserved ▸ hk)
    · have hne : e'.val ≠ e.val := fun h' => h (Fin.ext h')
      rw [hrunOthers _ hne, hothers _ hne, hengN]
    · rw [hgraph.keeps_pwm, hbegun.keeps_pwm, hadv.keeps_pwm]
    · exact (hadv.mono (by decide)).trans (hbegun.mono (by decide)) fun _ hp => hp
    · rw [hself, hinst, hengN]
  case publish =>
    intro e s hexec hstart hpub hmiss
    refine ⟨_, execPublish_onTime hexec hstart hpub hmiss, ?_⟩
    beta_reduce
    have hadv := only_advanceTo_time s (s.engN e).publishAt
    have hnow := le_now_advanceTo s (s.engN e).publishAt
    have hchan (n : Nat) : (s.advanceTo (s.engN e).publishAt).chan n = s.chan n := by rw [State.chan, hadv.keeps_pwm, State.chan]
    generalize s.advanceTo (s.engN e).publishAt = u at *
    have hset := only_publishSet_parts u (s.asSeen e) (s.engN e).shadow e
    refine ⟨?_, ?_, fun pre post x hshadow hk hc hpost => ?_, fun n hn => ?_, fun n hn h => ?_⟩
    · rw [State.engN_modEng_same _ _ _ e.isLt, State.engN, hset.keeps_eng, hadv.keeps_eng, State.engN]
    · exact hnow.trans (hset.keeps_now).ge
    · rw [hshadow]
      exact publishSet_last hk hc hpost u
    · obtain ⟨a, b, h⟩ := publishSet_pends hn u (s.asSeen e) (s.engN e).shadow e
      exact ⟨a, b, h.trans (by rw [hchan])⟩
    · exact (publishSet_untouched h u).trans (hchan n)
  case complete =>
    intro e s hexec hstart hpub hcomp hmiss
    refine ⟨_, execGraphComplete_onTime hexec hstart hpub hcomp hmiss, ?_⟩
    beta_reduce
    have hadv := only_advanceTo_time s (s.engN e).completeAt
    have hnow := le_now_advanceTo s (s.engN e).completeAt
    have hengN (k : Nat) : (s.advanceTo (s.engN e).completeAt).engN k = s.engN k := by rw [State.engN, hadv.keeps_eng, State.engN]
    generalize s.advanceTo (s.engN e).completeAt = u at *
    refine ⟨by rw [State.engN_modEng_same _ _ _ e.isLt, hengN], fun e' h => ?_, hnow, only_modEng _ _ (hadv.mono (by decide)) (by decide)⟩
    rw [State.engN_modEng_other _ _ _ _ fun h' => h (Fin.ext h'), hengN]
  case late =>
    intro e i n s hexec hstart hmiss hi
    obtain ⟨hst, hoff⟩ := st_of_executes hexec
    refine ⟨_, exec_late hexec hstart hmiss hi, ?_⟩
    obtain ⟨hhalt, hcause, hfault, -, -, -, -, hnow⟩ := engineFault_effect (s := s.advanceTo n) e.isLt (by simpa) (by simpa)
    exact ⟨hnow ▸ le_now_advanceTo s n, hhalt, hcause, hfault⟩
  case capture =>
    intro e s hs
    have hmod : (s.modEng e fun n => { n with mboxCap := n.mboxPub }).storesCanonical := hs
    obtain ⟨hreg, hothers, -⟩ := setsReg_setReg hmod .frdMboxOutIdx e 0 (s.engN e).mboxPubIdx
    have heng (k : Nat) : (s.mboxCapture e).engN k = (s.modEng e fun n => { n with mboxCap := n.mboxPub }).engN k := rfl
    refine ⟨s.mboxCapture e, rfl, ?_, fun e' h => ?_, hreg, hothers, ?_⟩
    · exact (heng e).trans (State.engN_modEng_same _ _ _ e.isLt)
    · exact (heng e').trans (State.engN_modEng_other _ _ _ _ fun h' => h (Fin.ext h'))
    · exact assocGet_assocPut_same _ _ _
  case waits => exact fun e s h => execEngineStart_not_ready h

end Sys2Proof.Machine
end

section
/-! Fades, detections and sub-modes end at their instants (R57, R59, R104, R127). -/

-- The proofs are elaborated one after the other: this bounds the threads of the compiler, whose stacks count as its memory.
set_option Elab.async false

namespace Sys2Proof.Machine

/-! ### Fades -/

theorem bank_congr {s u : State} (h : u.live = s.live) (e : Nat) (img : Image) (b : Bool) : u.bank e img b = s.bank e img b := by
  have htc : u.tc e = s.tc e := by
    unfold State.tc State.leadTb State.lvb State.lv
    rw [h]
  unfold State.bank
  rw [htc, h]

section
variable {s : State} {e : Fin 8} {f : Fade}

/-- An engine as the end of its fade leaves it. -/
def State.faded (s : State) (e : Nat) : Engine :=
  { s.engN e with
    fade := none, work := match (s.engN e).image with | some img => (s.asSeen e).bank e img (s.engN e).bankB | none => [] }

/-- R104: at the end of a fade the working set is the target bank. -/
theorem fadeFinish_effect (hfade : (s.engN e).fade = some f) (hlen : f.len ≤ f.n) : (s.fadeFinish e).engN e = s.faded e ∧
    (∀ e' : Fin 8, e' ≠ e → (s.fadeFinish e).engN e' = s.engN e') ∧ Only [.eng] s (s.fadeFinish e) := by
  have heq : s.fadeFinish e = (s.modEng e fun n => { n with fade := none }).refreshWork e := by
    simp only [State.fadeFinish, hfade, hlen, if_true]
  rw [heq]
  have hself : (s.modEng e fun n => { n with fade := none }).engN e = { s.engN e with fade := none } := State.engN_modEng_same _ _ _ e.isLt
  have hother (e' : Fin 8) (h : e' ≠ e) : (s.modEng e fun n => { n with fade := none }).engN e' = s.engN e' :=
    State.engN_modEng_other _ _ _ _ fun h' => h (Fin.ext h')
  have honly : Only [.eng] s (s.modEng e fun n => { n with fade := none }) := only_modEng _ _ (Only.refl _ s) (by decide)
  generalize (s.modEng e fun n => { n with fade := none }) = u at *
  have hseen : (u.asSeen e).live = (s.asSeen e).live := show (u.engN e).seen = (s.engN e).seen by rw [hself]
  have himg' : (u.engN e).image = (s.engN e).image := by rw [hself]
  have hfade' : (u.engN e).fade = none := by rw [hself]
  have hset (f : Engine → Engine) : (u.modEng e f).engN e = f { s.engN e with fade := none } ∧
      (∀ e' : Fin 8, e' ≠ e → (u.modEng e f).engN e' = s.engN e') ∧ Only [.eng] s (u.modEng e f) :=
    ⟨by rw [State.engN_modEng_same _ _ _ e.isLt, hself],
      fun e' h => (State.engN_modEng_other _ _ _ _ fun h' => h (Fin.ext h')).trans (hother e' h), only_modEng _ _ honly (by decide)⟩
  cases himg : (s.engN e).image with
  | none =>
    have hwork : u.refreshWork e = u.modEng e fun n => { n with work := [] } := by simp only [State.refreshWork, himg', himg]
    rw [hwork]
    obtain ⟨hs, ho, hp⟩ := hset fun n => { n with work := [] }
    exact ⟨by rw [hs]; simp only [State.faded, himg], ho, hp⟩
  | some img =>
    have hwork : u.refreshWork e = u.modEng e fun n => { n with work := (u.asSeen e).bank e img n.bankB } := by
      simp only [State.refreshWork, himg', himg, hfade', Option.isSome_none, Bool.false_eq_true, if_false]
    rw [hwork]
    obtain ⟨hs, ho, hp⟩ := hset fun n => { n with work := (u.asSeen e).bank e img n.bankB }
    exact ⟨by rw [hs]; simp only [State.faded, himg, bank_congr hseen], ho, hp⟩

theorem execFadeEnd_ended (hin : s.inPeriod e = true) (hstart : (s.engN e).started = true) (hcomp : (s.engN e).complete = true)
    (hfade : (s.engN e).fade = some f) (hlen : f.len ≤ f.n) :
    execFadeEnd e s = .next ((s.advanceTo (s.nextLoad (s.leadTb e)).1).fadeFinish e) := by
  simp [execFadeEnd, hfade, hin, hstart, hcomp, hlen]

theorem execFadeEnd_early (h : (s.engN e).started = false ∨ (s.engN e).complete = false) : execFadeEnd e s = .next s := by
  unfold execFadeEnd
  dsimp only
  split
  · rcases h with h | h <;> simp [h]
  · rfl

end

/-! ### One engine's change -/

theorem setsEngine_modEng (e : Fin 8) (f : Engine → Engine) (s : State) : SetsEngine e (f (s.engN e)) s (s.modEng e f) :=
  ⟨State.engN_modEng_same _ _ _ e.isLt, fun e' h => State.engN_modEng_other _ _ _ _ fun h' => h (Fin.ext h'),
    only_modEng _ _ (Only.refl _ s) (by decide)⟩

theorem breaker_brk {g : GfmState} {closed : Bool} (h : g.brk ≠ closed) : (g.breaker closed).brk = closed := by
  have hne : (g.brk == closed) = false := by simpa using h
  simp only [GfmState.breaker, hne, Bool.false_eq_true, if_false]
  split
  · rfl
  · split <;> rfl

/-- An exit that an engine's boundary is to settle: its instant has been reached, and nothing else of the sub-modes has changed. -/
theorem modGfm_at (s : State) (e : Fin 8) (n : Nat) (f : GfmState → GfmState) :
    (((s.advanceTo n).modGfm e f).engN e).gfm = f (s.engN e).gfm ∧ n ≤ ((s.advanceTo n).modGfm e f).now := by
  have hnow := le_now_advanceTo s n
  have heng : (s.advanceTo n).engN e = s.engN e := by simp [State.engN]
  generalize s.advanceTo n = u at *
  refine ⟨?_, hnow⟩
  rw [State.modGfm, State.engN_modEng_same _ _ _ e.isLt, heng]

/-- Settles O29: each event by the engine that it changes. -/
theorem transitionsEndAtTheirInstants : Obligations.TransitionsEndAtTheirInstants := by
  refine ⟨?fade, ?detect, ?timeout, ?breaker, ?rideThrough, ?limiting, ?recovery, ?early⟩
  case fade =>
    intro e f s hin hstart hcomp hfade hlen
    refine ⟨_, execFadeEnd_ended hin hstart hcomp hfade hlen, ?_⟩
    beta_reduce
    have hadv := only_advanceTo_time s (s.nextLoad (s.leadTb e)).1
    have hnow := le_now_advanceTo s (s.nextLoad (s.leadTb e)).1
    have hengN (k : Nat) : (s.advanceTo (s.nextLoad (s.leadTb e)).1).engN k = s.engN k := by rw [State.engN, hadv.keeps_eng, State.engN]
    generalize s.advanceTo (s.nextLoad (s.leadTb e)).1 = u at *
    obtain ⟨hself, hothers, honly⟩ := fadeFinish_effect (s := u) (by rwa [hengN]) hlen
    refine ⟨hself.trans ?_, fun e' h => by rw [hothers e' h, hengN], honly.keeps_now ▸ hnow,
      (hadv.mono (by decide)).trans (honly.mono (by decide)) fun _ hp => hp⟩
    have hseen : (u.asSeen e).live = (s.asSeen e).live := congrArg Engine.seen (hengN e)
    have hbank (img : Image) (b : Bool) := bank_congr hseen e img b
    simp only [State.faded, hengN, hbank] <;> rfl
  case detect =>
    intro e i s hexec hon hcount hpos hlatched
    have hex : execOscDetect e i s = .next (s.modOsc e i fun o => { o with latched := true, detect := true }) :=
      if_pos (by simp only [hexec, hon, hcount, hpos, hlatched, decide_true, Bool.not_false, Bool.and_self])
    exact ⟨_, hex, setsEngine_modEng e _ s⟩
  case timeout =>
    intro e i s hexec hon hout
    have hex : execOscTimeout e i s = .next (s.modOsc e i fun o => { o with count := 0, latched := false, havePrev := false }) :=
      if_pos (by simp only [hexec, hon, hout, Bool.and_self])
    exact ⟨_, hex, setsEngine_modEng e _ s⟩
  case breaker =>
    intro e closed s hexec hsrc hcand hcount hne
    have hex : execBreakerStateAccepted e closed s = .next (s.modGfm e fun g => g.breaker closed) :=
      if_pos (by simp only [hexec, hsrc, hcand, hcount, bne_iff_ne.mpr hne, beq_self_eq_true, ne_eq, not_false_eq_true, decide_true, Bool.and_self])
    obtain ⟨hself, hrest⟩ := setsEngine_modEng e (fun n => { n with gfm := n.gfm.breaker closed }) s
    exact ⟨_, hex, (congrArg (fun n : Engine => n.gfm.brk) hself).trans (breaker_brk hne), _, hself, hrest⟩
  case rideThrough =>
    intro e t0 s hon hrt hquiet
    have hex : execRtExitTimeout e s = .next ((s.advanceTo (t0 + 32000000 * (lget (s.engN e).work 0x2B 0).toNat)).modGfm e fun g =>
        { g with rtOut := true }) := by
      simp [execRtExitTimeout, hquiet, hon, hrt]
    obtain ⟨hgfm, hnow⟩ := modGfm_at s e (t0 + 32000000 * (lget (s.engN e).work 0x2B 0).toNat) fun g => { g with rtOut := true }
    refine ⟨_, hex, hgfm, ?_, ?_, hnow⟩
    · rw [hgfm]
      simp [GfmState.settle]
    · rw [hgfm]
      rfl
  case limiting =>
    intro e t0 s hon hcl hquiet
    have hex : execClExitTimeout e s = .next ((s.advanceTo (t0 + 32000000 * (lget (s.engN e).work 0x2C 0).toNat)).modGfm e fun g =>
        { g with clOut := true }) := by
      simp [execClExitTimeout, hquiet, hon, hcl]
    obtain ⟨hgfm, hnow⟩ := modGfm_at s e (t0 + 32000000 * (lget (s.engN e).work 0x2C 0).toNat) fun g => { g with clOut := true }
    refine ⟨_, hex, hgfm, ?_, ?_, hnow⟩
    · rw [hgfm]
      simp [GfmState.settle]
    · rw [hgfm]
      rfl
  case recovery =>
    intro e t0 s hon hrec
    have hex : execRecoveryEnd e s = .next ((s.advanceTo t0).modGfm e fun g => { g with recOut := true }) := by
      simp [execRecoveryEnd, hrec, hon]
    obtain ⟨hgfm, hnow⟩ := modGfm_at s e t0 fun g => { g with recOut := true }
    refine ⟨_, hex, hgfm, ?_, hnow⟩
    rw [hgfm]
    simp [GfmState.settle]
  case early => exact fun e s h => execFadeEnd_early h

end Sys2Proof.Machine
end

section
/-! Network time is steered and set (R289, R291 to R293). -/

-- The proofs are elaborated one after the other: this bounds the threads of the compiler, whose stacks count as its memory.
set_option Elab.async false

namespace Sys2Proof.Machine

/-! ### Increments -/

section
variable {s : State} {v : DWord}

theorem ntIncr_far (h : s.lv .ntCtrl 0 0 24 16 * 0x400000000 < (Int.natAbs (Int.ofNat (v.toNat % 2 ^ 40) - 0x400000000)) * 1000000) :
    s.ntIncr v = s.count .ntIncrRej := if_pos h

theorem ntIncr_near (h : (Int.natAbs (Int.ofNat (v.toNat % 2 ^ 40) - 0x400000000)) * 1000000 ≤ s.lv .ntCtrl 0 0 24 16 * 0x400000000) :
    s.ntIncr v = (s.setRegN .ntIncr 0 0 (v.toNat % 2 ^ 40)).modNt fun c => { c with incrAt := s.now } := if_neg (Nat.not_lt.mpr h)

end

/-! ### NT_SET -/

/-- Network time as NT_SET sets it. -/
def State.clockSet (s : State) (p : Bytes) : State :=
  s.modNt fun k => k.setTotal (if pb p 0 = 0 then (pf p 8 8 : Int) * 4294967296 + pf p 16 4
    else k.total + (signed 64 (pf p 8 8) * 4294967296 + pf p 16 4))

/-- The clock and the ADPLL's count as NT_SET leaves them, before its record and its answer. -/
def State.timeSet (s : State) (p : Bytes) : State :=
  let u := s.clockSet p
  let w := if u.refSel = 3 then u.modClk fun k => { k with nsOfs := k.nsOfs + (u.nt.total - s.nt.total) } else u
  w.setRegN .ntSetCnt 0 0 (min ((w.reg .ntSetCnt).toNat + 1) 0xFFFFFFFF)

theorem nt64_of_nt {s t : State} (h : t.nt = s.nt) : t.nt64 = s.nt64 := by rw [State.nt64, h, State.nt64]

section
variable {s : State} {c : Src} {p : Bytes}

theorem clockSet_nt : (s.clockSet p).nt = s.nt.setTotal (if pb p 0 = 0 then (pf p 8 8 : Int) * 4294967296 + pf p 16 4
    else s.nt.total + (signed 64 (pf p 8 8) * 4294967296 + pf p 16 4)) := rfl

theorem timeSet_nt : (s.timeSet p).nt = (s.clockSet p).nt := by
  have hnt (u : State) (v : Nat) : (u.setRegN .ntSetCnt 0 0 v).nt = u.nt := (only_setRegN _ _ _ _ (Only.refl [.regs] u) (by decide)).keeps_nt
  unfold State.timeSet
  dsimp only
  rw [hnt]
  split
  · rfl
  · rfl

theorem timeSet_desk : Only [.nt, .clk, .regs] s (s.timeSet p) ∧ DeskRegs s (s.timeSet p) := by
  have hclk (u : State) (f : ClkState → ClkState) (h : Only [.nt, .clk, .regs] s u ∧ DeskRegs s u) :
      Only [.nt, .clk, .regs] s (u.modClk f) ∧ DeskRegs s (u.modClk f) :=
    ⟨only_modClk _ h.1 (by decide), kept_of_regs (s := u) rfl h.2⟩
  have hset : Only [.nt, .clk, .regs] s (s.clockSet p) ∧ DeskRegs s (s.clockSet p) :=
    ⟨only_modNt _ (Only.refl _ s) (by decide), kept_modNt (.refl s) _⟩
  have hcnt (u : State) (v : Nat) (h : Only [.nt, .clk, .regs] s u ∧ DeskRegs s u) :
      Only [.nt, .clk, .regs] s (u.setRegN .ntSetCnt 0 0 v) ∧ DeskRegs s (u.setRegN .ntSetCnt 0 0 v) :=
    ⟨only_setRegN _ _ _ _ h.1 (by decide), kept_setRegN _ _ _ _ h.2 (not_onDesk_of_base (by decide) _ _)⟩
  unfold State.timeSet
  dsimp only
  split
  · exact hcnt _ _ (hclk _ _ hset)
  · exact hcnt _ _ hset

/-- The old and the new value of the clock, as its record holds them. -/
def timeRecord (old new : State) : Bytes :=
  (leBytes 8 old.nt64.toNat ++ leBytes 4 old.nt.frac.toNat) ++ (leBytes 8 new.nt64.toNat ++ leBytes 4 new.nt.frac.toNat)

theorem ntSet_ok (happly : c.applyAt = 0) (hmode : pb p 0 ≤ 1) (hnone : s.anySpore = false) : ∃ bs,
    s.ntSet c p = ((s.timeSet p).note 4 3 0 bs).done c 0x0703 := by
  refine ⟨timeRecord s (s.clockSet p), ?_⟩
  unfold State.ntSet
  rw [if_neg (not_not.mpr happly), if_neg (by omega), if_neg (by simp [hnone])]
  by_cases hp : pb p 0 = 0 <;> simp only [hp, if_true, if_false, State.timeSet, State.clockSet, timeRecord]

theorem ntSet_refused {d : Nat} (h : c.applyAt ≠ 0 ∧ d = 8 ∨ c.applyAt = 0 ∧ 1 < pb p 0 ∧ d = 2 ∨
    c.applyAt = 0 ∧ pb p 0 ≤ 1 ∧ s.anySpore = true ∧ d = 1) : s.ntSet c p = s.refuse c 0x0703 .checkFail d := by
  unfold State.ntSet
  rcases h with ⟨h, rfl⟩ | ⟨h, hp, rfl⟩ | ⟨h, hp, hs, rfl⟩
  · rw [if_pos h]
  · rw [if_neg (not_not.mpr h), if_pos hp]
  · rw [if_neg (not_not.mpr h), if_neg (by omega), if_pos hs]

end

theorem execPpsOutPulse_rises {s : State} {t : Nat} (hen : s.lvb .ntCtrl 0 0 0 = true)
    (h : s.ntReach ((s.nt.sec.toNat + 1) * 1000000000 * 4294967296) = some t) :
    execPpsOutPulse s = .next ((s.advanceTo t).modNt fun c => { c with ppsOut := true, ppsAt := t }) := by
  unfold execPpsOutPulse
  rw [if_pos hen, h]

/-- Settles O42, by the branches of each command: an increment within its limit, a set that no slot keeps back. -/
theorem networkTimeIsSteeredAndSet : Obligations.NetworkTimeIsSteeredAndSet := by
  refine ⟨?far, ?near, ?valid, ?invalid, ?set, ?refused, ?pps⟩
  case far =>
    intro v s hs h
    exact ⟨_, congrArg Host.Outcome.next (ntIncr_far h), counts_count hs _ _⟩
  case near =>
    intro v s hs h
    obtain ⟨hreg, hother, honly⟩ := setsReg_setReg hs .ntIncr 0 0 (BitVec.ofNat 64 (v.toNat % 2 ^ 40))
    exact ⟨_, congrArg Host.Outcome.next (ntIncr_near h), hreg, rfl, hother⟩
  case valid => exact fun s => ⟨_, rfl, rfl, only_modNt _ (Only.refl _ s) (by decide)⟩
  case invalid => exact fun s => ⟨_, rfl, rfl, only_modNt _ (Only.refl _ s) (by decide)⟩
  case set =>
    intro c p s hs hadm happly hmode hnone
    obtain ⟨bs, hset⟩ := ntSet_ok (s := s.took c) happly hmode (by simpa [State.anySpore] using hnone)
    refine ⟨_, congrArg Host.Outcome.next (obey_of_admits hadm _), ?_⟩
    beta_reduce
    rw [hset]
    obtain ⟨honly, hdesk⟩ := timeSet_desk (s := s.took c) (p := p)
    have hnt := timeSet_nt (s := s.took c) (p := p)
    rw [clockSet_nt] at hnt
    generalize (s.took c).timeSet p = u at *
    have hnote : Only [.log, .regs] u (u.note 4 3 0 bs) := only_note _ _ _ _ _ (Only.refl _ u) (by decide) (by decide)
    have hdesk' : DeskRegs (s.took c) (u.note 4 3 0 bs) := kept_note hdesk glbLogLost_offDesk 4 3 0 bs
    have honly' : Only [.nt, .clk, .regs, .log] (s.took c) (u.note 4 3 0 bs) := honly.trans (hnote.mono (by decide)) (by decide)
    have hsame : SameDesk (s.took c) (u.note 4 3 0 bs) :=
      .of_desk honly' hdesk' (by simpa using regsRise_of_storesCanonical hs) (by decide)
    refine ⟨by simpa [hnote.keeps_nt] using hnt, ?_⟩
    rw [nt64_of_nt (s := u.note 4 3 0 bs) (by simp)]
    exact answered_complete hs hsame _
  case refused =>
    intro c p d s hs hadm h
    refine ⟨_, congrArg Host.Outcome.next (obey_of_admits hadm _), ?_⟩
    beta_reduce
    rw [ntSet_refused (s := s.took c) (by simpa [State.anySpore] using h)]
    exact ⟨by simp, by simp, answered_refuse hs (.refl _)⟩
  case pps =>
    intro t0 s hen hreach
    refine ⟨_, execPpsOutPulse_rises hen hreach, rfl, rfl, le_now_advanceTo s t0⟩

end Sys2Proof.Machine
end

section
/-! Trips: a cause that is latched stays and turns its stack off (R224, R231, R234). -/

-- The proofs are elaborated one after the other: this bounds the threads of the compiler, whose stacks count as its memory.
set_option Elab.async false

namespace Sys2Proof.Machine

/-! ### What leaves causes and tests alone -/

/-- A stack's link as trips leave it: what it sends changes, and the result of a test that does not run. -/
def GdlStack.TripsTo (g g' : GdlStack) : Prop :=
  (g'.ost = g.ost ∨ g.ost ≠ .running ∧ g'.ost = .none) ∧ ∃ o m st ln, g' = { g with ost := o, pullMask := m, sent := st, line := ln }

/-- The trip unit as trips leave it: its zones and its records change. -/
def TrpState.TripsTo (x y : TrpState) : Prop := ∃ z r n st, y = { x with zones := z, recs := r, recno := n, stamps := st }

theorem GdlStack.TripsTo.refl (g : GdlStack) : g.TripsTo g := ⟨.inl rfl, g.ost, g.pullMask, g.sent, g.line, rfl⟩

theorem GdlStack.TripsTo.trans {g g' g'' : GdlStack} (h : g.TripsTo g') (h' : g'.TripsTo g'') : g.TripsTo g'' := by
  obtain ⟨hr, o, m, st, ln, rfl⟩ := h
  obtain ⟨hr', o', m', st', ln', rfl⟩ := h'
  refine ⟨?_, o', m', st', ln', rfl⟩
  rcases hr' with heq | ⟨hno, hnone⟩
  · exact hr.imp heq.trans (.imp_right heq.trans)
  · refine .inr ⟨?_, hnone⟩
    rcases hr with heq | ⟨hno', -⟩
    · exact heq ▸ hno
    · exact hno'

theorem GdlStack.TripsTo.running {g g' : GdlStack} (h : g.TripsTo g') : g'.ost = .running ↔ g.ost = .running := by
  obtain ⟨heq | ⟨hno, hnone⟩, -⟩ := h
  · rw [heq]
  · exact ⟨fun hrun => absurd (hnone.symm.trans hrun) (by decide), fun hrun => absurd hrun hno⟩

theorem GdlStack.TripsTo.none {g g' : GdlStack} (h : g.TripsTo g') (hg : g.ost = .none) : g'.ost = .none :=
  h.1.elim (fun heq => heq.trans hg) fun hr => hr.2

theorem TrpState.TripsTo.refl (x : TrpState) : x.TripsTo x := ⟨x.zones, x.recs, x.recno, x.stamps, rfl⟩

theorem TrpState.TripsTo.trans {x y z : TrpState} (h : x.TripsTo y) (h' : y.TripsTo z) : x.TripsTo z := by
  obtain ⟨a, b, c, d, rfl⟩ := h
  obtain ⟨a', b', c', d', rfl⟩ := h'
  exact ⟨a', b', c', d', rfl⟩

/-- The causes of every zone are the same, and no more of the trip unit and of the links changes than a trip may change. -/
structure SameCauses (s t : State) : Prop where
  trp : s.trp.TripsTo t.trp
  causes : ∀ k, (t.zone k).causes = (s.zone k).causes
  gs : ∀ k, (s.gs k).TripsTo (t.gs k)

section
variable {s0 s t : State}

theorem SameCauses.refl (s : State) : SameCauses s s := ⟨.refl _, fun _ => rfl, fun _ => .refl _⟩

theorem causes_of_trp (htrp : s.trp.TripsTo t.trp) (hz : t.trp.zones = s.trp.zones) (hg : t.gdl = s.gdl) (h : SameCauses s0 s) : SameCauses s0 t where
  trp := h.trp.trans htrp
  causes k := by
    rw [State.zone, hz]
    exact h.causes k
  gs k := by
    have hgs : t.gs k = s.gs k := by rw [State.gs, hg, State.gs]
    exact hgs ▸ h.gs k

theorem causes_of_eq (htrp : t.trp = s.trp) (hg : t.gdl = s.gdl) (h : SameCauses s0 s) : SameCauses s0 t :=
  causes_of_trp (htrp ▸ .refl _) (by rw [htrp]) hg h

theorem causes_of_only {l : List Part} (ht : Only l s t) (h : SameCauses s0 s) (hl : .trp ∉ l ∧ .gdl ∉ l := by decide) : SameCauses s0 t :=
  causes_of_eq (ht.keeps_trp hl.1) (ht.keeps_gdl hl.2) h

theorem causes_ite {c : Prop} [Decidable c] (hs : SameCauses s0 s) (ht : SameCauses s0 t) : SameCauses s0 (if c then s else t) := by
  split <;> assumption

theorem causes_forNums (xs : List Nat) (f : Nat → State → State) (hf : ∀ i u, SameCauses s0 u → SameCauses s0 (f i u))
    (h : SameCauses s0 s) : SameCauses s0 (forNums xs f s) := holds_forNums (P := SameCauses s0) xs (fun i _ => hf i) h

theorem modZone_trp (s : State) (k : Nat) (f : Zone → Zone) : s.trp.TripsTo (s.modZone k f).trp := ⟨_, _, _, _, rfl⟩

theorem causes_modZone (k : Nat) (f : Zone → Zone) (h : SameCauses s0 s) (hf : ∀ z, (f z).causes = z.causes) :
    SameCauses s0 (s.modZone k f) where
  trp := h.trp.trans (modZone_trp s k f)
  causes j := by
    rw [← h.causes j]
    by_cases hj : j = k
    · subst hj
      by_cases hlt : j < 16
      · rw [State.zone_modZone_same _ _ _ hlt, hf]
      · simp [State.zone, State.modZone, vget, vset, hlt]
    · rw [State.zone_modZone_other _ _ _ _ hj]
  gs := h.gs

theorem causes_modGs_at (k : Nat) (f : GdlStack → GdlStack) (h : SameCauses s0 s) (hf : (s.gs k).TripsTo (f (s.gs k))) :
    SameCauses s0 (s.modGs k f) where
  trp := h.trp
  causes := h.causes
  gs j := by
    refine (h.gs j).trans ?_
    by_cases hj : j = k
    · subst hj
      by_cases hlt : j < 16
      · rwa [State.gs_modGs_same _ _ _ hlt]
      · have hsame : (s.modGs j f).gs j = s.gs j := by simp [State.gs, State.modGs, vget, vset, hlt]
        rw [hsame]
        exact .refl _
    · rw [State.gs_modGs_other _ _ _ _ hj]
      exact .refl _

theorem causes_modGs (k : Nat) (f : GdlStack → GdlStack) (h : SameCauses s0 s) (hf : ∀ g : GdlStack, g.TripsTo (f g)) :
    SameCauses s0 (s.modGs k f) := causes_modGs_at k f h (hf _)

theorem causes_modChan (n : Nat) (f : Chan → Chan) (h : SameCauses s0 s) : SameCauses s0 (s.modChan n f) := causes_of_eq (s := s) rfl rfl h
theorem causes_count (r : Reg) (i n : Nat) (h : SameCauses s0 s) : SameCauses s0 (s.count r i n) := causes_of_eq (s := s) rfl rfl h
theorem causes_setReg (r : Reg) (i j : Nat) (v : DWord) (h : SameCauses s0 s) : SameCauses s0 (s.setReg r i j v) :=
  causes_of_eq (s := s) rfl rfl h

end

/-- What a link sends, and the pull-ins that wait for a frame, are a trip's to change. -/
theorem tripsTo_sends (g : GdlStack) (m : Nat) (st : List Bytes) (ln : List (Nat × List LinkChar)) :
    g.TripsTo { g with pullMask := m, sent := st, line := ln } := ⟨.inl rfl, g.ost, m, st, ln, rfl⟩

section
variable {s0 s : State} (n k at_ : Nat) (one : Bool) (h : SameCauses s0 s)
include h

theorem causes_gcFall : SameCauses s0 (s.gcFall n at_) := causes_of_only (l := [.pwm]) (only_gcFall s n at_ (Only.refl _ s) (by decide)) h

theorem causes_chanOff : SameCauses s0 (s.chanOff n at_) := causes_of_only (l := [.pwm]) (only_chanOff s n at_ (Only.refl _ s) (by decide)) h

theorem causes_askRise : SameCauses s0 (s.askRise n at_) := by
  unfold State.askRise
  simp (maxDischargeDepth := 20) +contextual only [causes_ite, causes_modChan, causes_modGs, causes_modZone, tripsTo_sends, h, implies_true]

theorem causes_endOverlap : SameCauses s0 (s.endOverlap n at_) := by
  have h' : SameCauses s0 { s with pwm := { s.pwm with overlap := vset s.pwm.overlap (pairOf n) false } } :=
    causes_of_eq (s := s) rfl rfl h
  unfold State.endOverlap
  simp (maxDischargeDepth := 20) +contextual only [causes_ite, causes_askRise, causes_count, causes_modChan, h']

theorem causes_lvlOff : SameCauses s0 (s.lvlOff n at_) :=
  have h' := causes_chanOff n at_ (causes_modChan n (fun c => { c with lvl := false, cut := false }) h)
  causes_ite (causes_endOverlap n at_ h') h'

theorem causes_turnOffChan : SameCauses s0 (s.turnOffChan n at_ one) := by
  unfold State.turnOffChan State.forceLow State.innerLater
  simp (maxDischargeDepth := 20) +contextual only [causes_ite, causes_modChan, causes_lvlOff, causes_gcFall, h]

theorem causes_beginTurnOff : SameCauses s0 (s.beginTurnOff k at_ one) := causes_forNums _ _ (fun n _ hu => causes_turnOffChan n at_ one hu) h

theorem causes_sendTrip : SameCauses s0 (s.sendTrip k) := by
  unfold State.sendTrip State.sendLink State.transmit
  simp (maxDischargeDepth := 20) +contextual only [causes_ite, causes_modGs, tripsTo_sends, h, implies_true]

theorem causes_tripRecord (nt : DWord) (leg cause source : Nat) (first : Bool) :
    SameCauses s0 (s.tripRecord nt k leg cause source first) := by
  have hnote (u : State) (bs : Bytes) (hu : SameCauses s0 u) : SameCauses s0 (u.note 12 1 0 bs) :=
    causes_of_only (l := [.regs, .log]) (only_note u 12 1 0 bs (Only.refl _ u) (by decide) (by decide)) hu
  unfold State.tripRecord
  dsimp only
  refine hnote _ _ ?_
  have hcount (u : State) (hu : SameCauses s0 u) : SameCauses s0 (u.count .trpRecLost) := causes_count _ _ _ hu
  split
  · split
    · exact causes_of_trp (s := s) ⟨_, _, _, _, rfl⟩ rfl rfl h
    · exact hcount _ (causes_of_trp (s := s) ⟨_, _, _, _, rfl⟩ rfl rfl h)
  · split
    · exact causes_of_trp (s := s) ⟨_, _, _, _, rfl⟩ rfl rfl h
    · exact hcount _ (causes_of_trp (s := s) ⟨_, _, _, _, rfl⟩ rfl rfl h)

end

/-! ### A trip in a zone -/

/-- What trips add: causes stay, no gate command rises, a zone that trips has its outer channels off, and the watch goes on. -/
structure TripsOnly (s t : State) : Prop where
  trp : s.trp.TripsTo t.trp
  gs : ∀ k, (s.gs k).TripsTo (t.gs k)
  falls : GcFalls s t
  stays : ∀ k c, (s.zone k).causes.getLsbD c = true → (t.zone k).causes.getLsbD c = true
  off : ∀ k < 16, (s.zone k).causes = 0 → (t.zone k).causes ≠ 0 → ∀ n ∈ stackChans k, isOuter n = true → (t.chan n).gc = false
  watch : ∀ k c, t.latches k c = s.latches k c

section
variable {s t u : State}

theorem TripsOnly.refl (s : State) : TripsOnly s s where
  trp := .refl _
  gs _ := .refl _
  falls := .refl s
  stays _ _ h := h
  off _ _ h h' := absurd h h'
  watch _ _ := rfl

theorem TripsOnly.trans (h : TripsOnly s t) (h' : TripsOnly t u) : TripsOnly s u where
  trp := h.trp.trans h'.trp
  gs k := (h.gs k).trans (h'.gs k)
  falls n hn := h.falls n (h'.falls n hn)
  stays k c hc := h'.stays k c (h.stays k c hc)
  off k hk hs hu n hn hout := by
    by_cases ht : (t.zone k).causes = 0
    · exact h'.off k hk ht hu n hn hout
    · exact h'.falls.off (h.off k hk hs ht n hn hout)
  watch k c := (h'.watch k c).trans (h.watch k c)

theorem latches_of {s t : State} (hops : t.ops = s.ops) (hlive : t.live = s.live)
    (htwn : t.twn.alone = s.twn.alone ∧ t.twn.twin = s.twn.twin) (host : ∀ k, (t.gs k).ost = .running ↔ (s.gs k).ost = .running)
    (k c : Nat) : t.latches k c = s.latches k c := by
  have hpair : t.pair = s.pair := pair_congr hlive
  unfold State.latches State.tripsWatched State.maskedByOst State.ownPath State.lone
  rw [hops, hpair, htwn.1, htwn.2, decide_eq_decide.mpr (host k)]

theorem TripsOnly.of_causes (h : SameCauses s t) (hfalls : GcFalls s t) (hops : t.ops = s.ops) (hlive : t.live = s.live)
    (htwn : t.twn.alone = s.twn.alone ∧ t.twn.twin = s.twn.twin) : TripsOnly s t where
  trp := h.trp
  gs := h.gs
  falls := hfalls
  stays k c hc := by rwa [h.causes k]
  off k _ hs ht := absurd ((h.causes k).trans hs) ht
  watch := latches_of hops hlive htwn fun k => (h.gs k).running

theorem TripsOnly.tripped (h : TripsOnly s t) {k c : Nat} (hk : k < 16) (hc : (t.zone k).causes.getLsbD c = true) : Tripped k c s t :=
  ⟨hc, fun hs => h.off k hk hs (by rintro h0; simp [h0] at hc)⟩

theorem Tripped.trans {k c : Nat} (hk : k < 16) (hst : TripsOnly s t) (h : Tripped k c t u) (htu : TripsOnly t u) : Tripped k c s u :=
  (hst.trans htu).tripped hk h.1

end

theorem mem_stackChans {k n : Nat} : n ∈ stackChans k ↔ n / 12 = k := by
  simp only [stackChans, List.mem_map, List.mem_range]
  constructor
  · rintro ⟨i, hi, rfl⟩
    omega
  · exact fun h => ⟨n % 12, by omega, by omega⟩

/-- R231: the turn-off order of a trip takes the outer channels of its stack off. -/
theorem beginTurnOff_gc (s : State) {k n : Nat} (hk : k < 16) (hn : n ∈ stackChans k) (hout : isOuter n = true) (at_ : Nat) :
    ((s.beginTurnOff k at_ false).chan n).gc = false := by
  have hlt : n < 192 := by
    have := mem_stackChans.mp hn
    omega
  refine forNums_reaches (P := fun u => (u.chan n).gc = false) (List.mem_append_right _ (List.mem_filter.mpr ⟨hn, hout⟩)) (fun u => ?_)
    fun i _ u hu => (gcf_turnOffChan i at_ false (.refl u)).off hu
  unfold State.turnOffChan
  simp only [hout, if_true, Bool.false_eq_true, if_false]
  exact gcFall_gc hlt _ _

/-- A cause in a zone, before it is recorded. -/
def State.causeMarked (s : State) (k cause tick : Nat) : State :=
  s.modZone k fun z => { z with causes := z.causes ||| BitVec.ofNat 16 (2 ^ cause), latchAt := some tick }

/-- The result of an off-state test ends with the first trip of its stack (R209). -/
def State.testEnded (s : State) (k : Nat) : State :=
  if (s.gs k).ost = .running then s else (s.modGs k fun g => { g with ost := .none }).setRegN .gdlOstRes k 0 0

/-- What follows on the turn-off of a first trip. -/
def State.tripTold (s : State) (k : Nat) (nt : DWord) : State :=
  let s := ((s.sendTrip k).testEnded k).setReg .trpFirstNt k 0 nt
  (s.acqOffer 2 nt (2 ^ k) fun u => s.acqSel u k).ptmAsk 0 nt (2 ^ k)

/-- A zone that trips first begins its turn-off order. -/
def State.firstTrip (s : State) (k at_ : Nat) (nt : DWord) : State :=
  ((s.modZone k fun z => { z with tripAt := at_, offDone := false, resumeB := false, resumeZ := none }).beginTurnOff k at_ false).tripTold k nt

/-- The originator of a cause, which a clear looks at. -/
def State.sourceNoted (s : State) (k cause source : Nat) : State :=
  if cause = 14 then s.modZone k fun z => { z with props := z.props ||| BitVec.ofNat 16 (2 ^ source) }
  else if (cause = 0 ∨ cause = 2 ∨ cause = 11) ∧ (cause, source) ∉ (s.zone k).sources then
    s.modZone k fun z => { z with sources := (cause, source) :: z.sources }
  else s

theorem latchOne_eq (s : State) (k cause source phase delay : Nat) : s.latchOne k cause source phase delay =
    let v := s.sourceNoted k cause source
    if (s.zone k).causes.getLsbD cause then v
    else
      let nt := v.tripClockAt (ctlTick v.now) + BitVec.ofNat 64 delay
      let w := (v.causeMarked k cause (ctlTick v.now)).tripRecord nt k (3 * k + phase) cause source (decide ((s.zone k).causes = 0))
      if (s.zone k).causes = 0 then w.firstTrip k (ctlTick v.now + 32 * delay) nt else w := rfl

section
variable {s0 s : State} {k : Nat}

theorem causes_sourceNoted (h : SameCauses s0 s) (cause source : Nat) : SameCauses s0 (s.sourceNoted k cause source) := by
  unfold State.sourceNoted
  simp (maxDischargeDepth := 20) only [causes_ite, causes_modZone, h, implies_true]

theorem causes_testEnded (h : SameCauses s0 s) : SameCauses s0 (s.testEnded k) := by
  unfold State.testEnded
  split
  · exact h
  · next hno => exact causes_setReg _ _ _ _ (causes_modGs_at k _ h ⟨.inr ⟨hno, rfl⟩, .none, (s.gs k).pullMask, (s.gs k).sent, (s.gs k).line, rfl⟩)

theorem causes_tripTold (h : SameCauses s0 s) (nt : DWord) : SameCauses s0 (s.tripTold k nt) := by
  unfold State.tripTold
  dsimp only
  have hset := causes_setReg .trpFirstNt k 0 nt (causes_testEnded (k := k) (causes_sendTrip k h))
  generalize ((s.sendTrip k).testEnded k).setReg .trpFirstNt k 0 nt = u at *
  have hoffer := causes_of_only (l := [.regs, .nt, .acq])
    (only_acqOffer u 2 nt (2 ^ k) (fun i => u.acqSel i k) (Only.refl _ u) (by decide) (by decide) (by decide)) hset
  exact causes_of_only (l := [.regs, .nt]) (only_ptmAsk _ 0 nt (2 ^ k) false (Only.refl _ _) (by decide) (by decide)) hoffer

theorem gcf_tripTold (h : GcFalls s0 s) (nt : DWord) : GcFalls s0 (s.tripTold k nt) := by
  have hended : Only [.gdl, .regs] (s.sendTrip k) ((s.sendTrip k).testEnded k) := by
    unfold State.testEnded
    exact only_ite (Only.refl _ _) (only_setRegN _ _ _ _ (only_modGs _ _ (Only.refl _ _) (by decide)) (by decide))
  have hset : GcFalls s0 (((s.sendTrip k).testEnded k).setReg .trpFirstNt k 0 nt) :=
    gcf_of_pwm (s := (s.sendTrip k).testEnded k) rfl (gcf_of_only hended (gcf_sendTrip k h))
  unfold State.tripTold
  dsimp only
  generalize ((s.sendTrip k).testEnded k).setReg .trpFirstNt k 0 nt = u at *
  have hoffer := gcf_of_only (l := [.regs, .nt, .acq])
    (only_acqOffer u 2 nt (2 ^ k) (fun i => u.acqSel i k) (Only.refl _ u) (by decide) (by decide) (by decide)) hset
  exact gcf_of_only (l := [.regs, .nt]) (only_ptmAsk _ 0 nt (2 ^ k) false (Only.refl _ _) (by decide) (by decide)) hoffer

theorem causes_firstTrip (h : SameCauses s0 s) (at_ : Nat) (nt : DWord) : SameCauses s0 (s.firstTrip k at_ nt) := by
  have hz : SameCauses s0 (s.modZone k fun z => { z with tripAt := at_, offDone := false, resumeB := false, resumeZ := none }) :=
    causes_modZone k _ h fun _ => rfl
  have hoff := causes_beginTurnOff k at_ false hz
  unfold State.firstTrip
  exact causes_tripTold hoff nt

theorem firstTrip_gc (s : State) (hk : k < 16) {n : Nat} (hn : n ∈ stackChans k) (hout : isOuter n = true) (at_ : Nat) (nt : DWord) :
    ((s.firstTrip k at_ nt).chan n).gc = false := by
  unfold State.firstTrip
  exact (gcf_tripTold (.refl _) nt).off (beginTurnOff_gc _ hk hn hout at_)

theorem causeMarked_causes (hk : k < 16) (s : State) (cause tick : Nat) :
    ((s.causeMarked k cause tick).zone k).causes = (s.zone k).causes ||| BitVec.ofNat 16 (2 ^ cause) :=
  congrArg Zone.causes (State.zone_modZone_same s k _ hk)

theorem causeMarked_other {j : Nat} (hj : j ≠ k) (s : State) (cause tick : Nat) : (s.causeMarked k cause tick).zone j = s.zone j :=
  State.zone_modZone_other _ _ _ _ hj

theorem getLsbD_bit16 {c : Nat} (h : c < 16) : (BitVec.ofNat 16 (2 ^ c)).getLsbD c = true := by
  rw [BitVec.getLsbD_ofNat, Nat.testBit_two_pow_self]
  simp [h]

theorem latchOne_known {cause : Nat} (h : (s.zone k).causes.getLsbD cause = true) (source phase delay : Nat) :
    s.latchOne k cause source phase delay = s.sourceNoted k cause source := by
  rw [latchOne_eq]
  exact if_pos h

/-- A new cause is marked, and where it is the zone's first, the zone trips. -/
theorem latchOne_fresh {cause : Nat} (h : (s.zone k).causes.getLsbD cause = false) (source phase delay : Nat) : ∃ v,
    SameCauses s v ∧ SameCauses (v.causeMarked k cause (ctlTick v.now)) (s.latchOne k cause source phase delay) ∧
    ((s.zone k).causes = 0 → k < 16 → ∀ n ∈ stackChans k, isOuter n = true → ((s.latchOne k cause source phase delay).chan n).gc = false) := by
  refine ⟨s.sourceNoted k cause source, causes_sourceNoted (.refl s) cause source, ?_⟩
  rw [latchOne_eq]
  dsimp only
  rw [if_neg (by simp [h])]
  generalize s.sourceNoted k cause source = v
  have hw := causes_tripRecord (s := v.causeMarked k cause (ctlTick v.now)) k (.refl _)
    (v.tripClockAt (ctlTick v.now) + BitVec.ofNat 64 delay) (3 * k + phase) cause source (decide ((s.zone k).causes = 0))
  generalize (v.causeMarked k cause (ctlTick v.now)).tripRecord _ k (3 * k + phase) cause source _ = w at *
  split
  · exact ⟨causes_firstTrip hw _ _, fun _ hk n hn hout => firstTrip_gc w hk hn hout _ _⟩
  · next hne => exact ⟨hw, fun h => absurd h hne⟩

/-- One cause latched in one zone: it stands, and nothing but trips happened. -/
theorem latchOne_trips (s : State) {k cause : Nat} (hk : k < 16) (hc : cause < 16) (source phase delay : Nat) :
    TripsOnly s (s.latchOne k cause source phase delay) ∧ ((s.latchOne k cause source phase delay).zone k).causes.getLsbD cause = true := by
  have honly : Only [.regs, .pwm, .gdl, .trp, .nt, .log, .acq] s (s.latchOne k cause source phase delay) :=
    only_latchOne s k cause source phase delay (Only.refl _ s) (by decide) (by decide) (by decide) (by decide) (by decide) (by decide) (by decide)
  have hfalls : GcFalls s (s.latchOne k cause source phase delay) := gcf_latchOne k (.refl s) cause source phase delay
  by_cases hbit : (s.zone k).causes.getLsbD cause = true
  · have hsame : SameCauses s (s.latchOne k cause source phase delay) := by
      rw [latchOne_known hbit]
      exact causes_sourceNoted (.refl s) cause source
    exact ⟨.of_causes hsame hfalls honly.keeps_ops honly.keeps_live (by simp [honly.keeps_twn]), by rwa [hsame.causes k]⟩
  · obtain ⟨v, hv, ht, hoff⟩ := latchOne_fresh (by simpa using hbit) source phase delay
    generalize s.latchOne k cause source phase delay = t at *
    have hcauses : (t.zone k).causes = (s.zone k).causes ||| BitVec.ofNat 16 (2 ^ cause) := by
      rw [ht.causes k, causeMarked_causes hk, hv.causes k]
    have hother (j : Nat) (hj : j ≠ k) : (t.zone j).causes = (s.zone j).causes := by
      rw [ht.causes j, causeMarked_other hj, hv.causes j]
    have hgs (j : Nat) : (s.gs j).TripsTo (t.gs j) := (hv.gs j).trans (ht.gs j)
    refine ⟨⟨hv.trp.trans ((modZone_trp v k _).trans ht.trp), hgs, hfalls, fun j c hjc => ?_, fun j hj hs0 hs1 => ?_, ?_⟩, ?_⟩
    · by_cases hjk : j = k
      · subst hjk
        rw [hcauses, BitVec.getLsbD_or, hjc, Bool.true_or]
      · rwa [hother j hjk]
    · by_cases hjk : j = k
      · subst hjk
        exact hoff hs0 hk
      · exact absurd ((hother j hjk).trans hs0) hs1
    · exact latches_of honly.keeps_ops honly.keeps_live (by simp [honly.keeps_twn]) fun j => (hgs j).running
    · rw [hcauses, BitVec.getLsbD_or, getLsbD_bit16 hc, Bool.or_true]

end

/-! ### A cause and its propagation -/

section
variable {s : State} {k cause : Nat} (hk : k < 16) (hc : cause < 16)

theorem trips_of_only {l : List Part} {s t : State} (h : Only l s t) (hl : ∀ p ∈ [Part.trp, .gdl, .pwm, .ops, .live, .twn], p ∉ l := by decide) :
    TripsOnly s t :=
  .of_causes (causes_of_only h (.refl s) ⟨hl _ (by decide), hl _ (by decide)⟩) (gcf_of_only h (.refl s) (hl _ (by decide)))
    (h.keeps_ops (hl _ (by decide))) (h.keeps_live (hl _ (by decide))) (by simp [h.keeps_twn (hl _ (by decide))])

/-- The stacks that a trip propagates to (R234). -/
def State.propagated (s : State) (k mask : Nat) : State :=
  forNums (bitsIn 16 mask) (fun t s => let (i, s) := s.draw; s.latchOne t 14 k 0 (Config.freeNat i % 6)) s

theorem propagated_trips (s : State) (k mask : Nat) : TripsOnly s (s.propagated k mask) := by
  refine holds_forNums (P := TripsOnly s) _ (fun i hi u hu => ?_) (.refl s)
  have hdraw : Only [.free] u u.draw.2 := only_draw (Only.refl _ u) (by decide)
  exact hu.trans ((trips_of_only hdraw).trans (latchOne_trips _ ((mem_bitsIn 16 mask i).mp hi).1 (by decide) k 0 _).1)

theorem latch_unwatched (h : s.tripsWatched = false ∨ s.maskedByOst k cause = true) (source phase : Nat) : s.latch k cause source phase = s := by
  unfold State.latch
  rcases h with h | h <;> simp [h]

theorem latch_own (hw : s.tripsWatched = true) (hm : s.maskedByOst k cause = false) (h : s.ownPath cause = true) (source phase : Nat) :
    s.latch k cause source phase = s.modTwn fun t => { t with pathFault := true, ready := t.role && t.ready } := by
  unfold State.latch
  simp [h, hw, hm]

theorem latch_latches (h : s.latches k cause = true) (source phase : Nat) : s.latch k cause source phase =
    if (!(s.zone k).causes.getLsbD cause && cause ≠ 14) = true then
      (s.latchOne k cause source phase 0).propagated k ((s.latchOne k cause source phase 0).lv .trpProp k 0 15 0)
    else s.latchOne k cause source phase 0 := by
  simp only [State.latches, Bool.and_eq_true, Bool.not_eq_true'] at h
  obtain ⟨⟨hw, hm⟩, ho⟩ := h
  unfold State.latch
  rw [if_neg (by simp [hw, hm]), if_neg (by simp [ho])]
  simp only [Bool.and_eq_true, decide_eq_true_eq]
  rfl

include hk hc

/-- R224, R231: a cause that is recognised trips, and nothing but trips happened. -/
theorem latch_trips (source phase : Nat) : TripsOnly s (s.latch k cause source phase) ∧
    (s.latches k cause = true → Tripped k cause s (s.latch k cause source phase)) := by
  by_cases h : s.latches k cause = true
  · obtain ⟨hone, hbit⟩ := latchOne_trips s hk hc source phase 0
    rw [latch_latches h]
    split
    · have hprop := propagated_trips (s.latchOne k cause source phase 0) k ((s.latchOne k cause source phase 0).lv .trpProp k 0 15 0)
      exact ⟨hone.trans hprop, fun _ => (hone.trans hprop).tripped hk (hprop.stays k cause hbit)⟩
    · exact ⟨hone, fun _ => hone.tripped hk hbit⟩
  · refine ⟨?_, fun h' => absurd h' h⟩
    by_cases hw : s.tripsWatched = false ∨ s.maskedByOst k cause = true
    · rw [latch_unwatched hw]
      exact .refl s
    · simp only [not_or, Bool.not_eq_false, Bool.not_eq_true] at hw
      rw [latch_own hw.1 hw.2 (by simpa [State.latches, hw.1, hw.2] using h)]
      exact .of_causes (causes_of_eq (s := s) rfl rfl (.refl s)) (gcf_of_pwm (s := s) rfl (.refl s)) rfl rfl ⟨rfl, rfl⟩

theorem gdlTrip_trips (bit source phase : Nat) : TripsOnly s (s.gdlTrip k bit cause source phase) ∧
    (s.latches k cause = true → Tripped k cause s (s.gdlTrip k bit cause source phase)) := by
  unfold State.gdlTrip
  split
  · next hm => exact ⟨.refl s, fun h => by simp [State.latches, hm] at h⟩
  · dsimp only
    have honly : Only [.regs, .log] s ((s.setFlag .gdlFault k bit).logFlag 11 bit ((s.setFlag .gdlFault k bit).reg .gdlFault k)) :=
      only_logFlag _ 11 bit _ (only_setFlag _ _ _ (Only.refl _ s) (by decide)) (by decide) (by decide)
    have hflag := trips_of_only honly
    obtain ⟨htrips, htripped⟩ := latch_trips (s := (s.setFlag .gdlFault k bit).logFlag 11 bit ((s.setFlag .gdlFault k bit).reg .gdlFault k))
      hk hc source phase
    exact ⟨hflag.trans htrips, fun h => (hflag.trans htrips).tripped hk (htripped (by rwa [hflag.watch])).1⟩

end

end Sys2Proof.Machine
end

section
/-! Trips leave the completion queues and network time alone; TRIP_IN_ACTIVE and TRP_TRIP (R224, R225, R244). -/

-- The proofs are elaborated one after the other: this bounds the threads of the compiler, whose stacks count as its memory.
set_option Elab.async false

namespace Sys2Proof.Machine

/-! ### Answers after trips -/

/-- The registers of the completion queues and the clock are as before; an event may wait to be published. -/
def DeskClock (s t : State) : Prop := DeskRegs s t ∧ ∃ ev, t.nt = { s.nt with events := ev }

section
variable {s0 s t : State}

theorem DeskClock.refl (s : State) : DeskClock s s := ⟨.refl s, s.nt.events, rfl⟩

theorem dclock_of_fields (hr : t.regs = s.regs) (hn : t.nt = s.nt) (h : DeskClock s0 s) : DeskClock s0 t :=
  ⟨kept_of_regs hr h.1, hn ▸ h.2⟩

theorem dclock_of_only {l : List Part} (ht : Only l s t) (h : DeskClock s0 s) (hl : .regs ∉ l ∧ .nt ∉ l := by decide) : DeskClock s0 t :=
  dclock_of_fields (ht.keeps_regs hl.1) (ht.keeps_nt hl.2) h

theorem dclock_of_desk {l : List Part} (ht : Only l s t) (hdesk : DeskRegs s0 s → DeskRegs s0 t) (h : DeskClock s0 s) (hl : .nt ∉ l := by decide) :
    DeskClock s0 t := ⟨hdesk h.1, ht.keeps_nt hl ▸ h.2⟩

theorem dclock_ite {c : Prop} [Decidable c] (hs : DeskClock s0 s) (ht : DeskClock s0 t) : DeskClock s0 (if c then s else t) := by
  split <;> assumption

theorem dclock_forNums (xs : List Nat) (f : Nat → State → State) (hf : ∀ i u, DeskClock s0 u → DeskClock s0 (f i u))
    (h : DeskClock s0 s) : DeskClock s0 (forNums xs f s) := holds_forNums (P := DeskClock s0) xs (fun i _ => hf i) h

theorem dclock_setReg (r : Reg) (i j : Nat) (v : DWord) (h : DeskClock s0 s) (hr : r.row.offDesk = true) : DeskClock s0 (s.setReg r i j v) :=
  ⟨kept_setReg r i j v h.1 (not_onDesk_of_base hr i j), h.2⟩

theorem dclock_count (r : Reg) (i n : Nat) (h : DeskClock s0 s) (hr : r.row.offDesk = true) : DeskClock s0 (s.count r i n) :=
  dclock_setReg r i 0 _ h hr

theorem dclock_note (source type detail : Nat) (body : Bytes) (h : DeskClock s0 s) : DeskClock s0 (s.note source type detail body) :=
  dclock_of_desk (only_note s source type detail body (Only.refl [.regs, .log] s) (by decide) (by decide))
    (fun hd => kept_note hd glbLogLost_offDesk source type detail body) h

end

section
variable {s0 s : State} (h : DeskClock s0 s)
include h

theorem dclock_ptmAsk (cause : Nat) (trigNt : DWord) (detail : Nat) (asked : Bool) : DeskClock s0 (s.ptmAsk cause trigNt detail asked) := by
  unfold State.ptmAsk
  refine dclock_ite (dclock_ite (dclock_count _ _ _ h (by decide)) ⟨kept_modNt h.1 _, ?_⟩) h
  obtain ⟨ev, hev⟩ := h.2
  exact ⟨_, by rw [State.modNt, hev]⟩

theorem dclock_acqTrig (u bit : Nat) (nt : DWord) (detail : Nat) : DeskClock s0 (s.acqTrig u bit nt detail) := by
  have hacq (f : AcqUnit → AcqUnit) : DeskClock s0 (s.modAcq u f) := dclock_of_fields (s := s) rfl rfl h
  unfold State.acqTrig
  dsimp only
  split
  · exact dclock_ite (hacq _) (dclock_ptmAsk (hacq _) 4 nt 0 false)
  · exact dclock_ite (hacq _) (dclock_count _ _ _ h (by decide))

theorem dclock_acqOffer (bit : Nat) (nt : DWord) (detail : Nat) (p : Nat → Bool) : DeskClock s0 (s.acqOffer bit nt detail p) :=
  dclock_forNums _ _ (fun u _ hu => dclock_acqTrig hu u bit nt detail) h

theorem dclock_tripRecord (nt : DWord) (k leg cause source : Nat) (first : Bool) : DeskClock s0 (s.tripRecord nt k leg cause source first) := by
  have hcount (u : State) (hu : DeskClock s0 u) : DeskClock s0 (u.count .trpRecLost) := dclock_count _ _ _ hu (by decide)
  unfold State.tripRecord
  dsimp only
  refine dclock_note _ _ _ _ ?_
  split
  · split
    · exact dclock_of_fields (s := s) rfl rfl h
    · exact hcount _ (dclock_of_fields (s := s) rfl rfl h)
  · split
    · exact dclock_of_fields (s := s) rfl rfl h
    · exact hcount _ (dclock_of_fields (s := s) rfl rfl h)

theorem dclock_testEnded (k : Nat) : DeskClock s0 (s.testEnded k) :=
  dclock_ite h (dclock_setReg _ _ _ _ (dclock_of_fields (s := s) rfl rfl h) (by decide))

theorem dclock_tripTold (k : Nat) (nt : DWord) : DeskClock s0 (s.tripTold k nt) := by
  have hsent : DeskClock s0 (s.sendTrip k) := dclock_of_only (l := [.gdl]) (only_sendTrip s k (Only.refl _ s) (by decide)) h
  have hset := dclock_setReg .trpFirstNt k 0 nt (dclock_testEnded hsent k) (by decide)
  unfold State.tripTold
  dsimp only
  generalize ((s.sendTrip k).testEnded k).setReg .trpFirstNt k 0 nt = u at *
  exact dclock_ptmAsk (dclock_acqOffer hset 2 nt (2 ^ k) fun i => u.acqSel i k) 0 nt (2 ^ k) false

theorem dclock_beginTurnOff (k at_ : Nat) (one : Bool) : DeskClock s0 (s.beginTurnOff k at_ one) :=
  dclock_of_desk (l := [.regs, .pwm, .gdl, .trp]) (only_beginTurnOff s k at_ one (Only.refl _ s) (by decide) (by decide) (by decide) (by decide))
    (fun hd => desk_beginTurnOff _ _ _ hd) h

theorem dclock_firstTrip (k at_ : Nat) (nt : DWord) : DeskClock s0 (s.firstTrip k at_ nt) := by
  have hz : DeskClock s0 (s.modZone k fun z => { z with tripAt := at_, offDone := false, resumeB := false, resumeZ := none }) :=
    dclock_of_fields (s := s) rfl rfl h
  have hoff := dclock_beginTurnOff hz k at_ false
  unfold State.firstTrip
  exact dclock_tripTold hoff k nt

theorem dclock_sourceNoted (k cause source : Nat) : DeskClock s0 (s.sourceNoted k cause source) :=
  dclock_of_only (l := [.trp]) (only_ite (only_modZone _ _ (Only.refl _ s) (by decide))
    (only_ite (only_modZone _ _ (Only.refl _ s) (by decide)) (Only.refl _ s))) h

theorem dclock_latchOne (k cause source phase delay : Nat) : DeskClock s0 (s.latchOne k cause source phase delay) := by
  rw [latchOne_eq]
  dsimp only
  have hv := dclock_sourceNoted h k cause source
  generalize s.sourceNoted k cause source = v at *
  have hmark : DeskClock s0 (v.causeMarked k cause (ctlTick v.now)) := dclock_of_fields (s := v) rfl rfl hv
  have hrec := dclock_tripRecord hmark (v.tripClockAt (ctlTick v.now) + BitVec.ofNat 64 delay) k (3 * k + phase) cause source
    (decide ((s.zone k).causes = 0))
  exact dclock_ite hv (dclock_ite (dclock_firstTrip hrec k _ _) hrec)

theorem dclock_latch (k cause source phase : Nat) : DeskClock s0 (s.latch k cause source phase) := by
  have hprop (u : State) (m : Nat) (hu : DeskClock s0 u) : DeskClock s0 (u.propagated k m) :=
    dclock_forNums _ _ (fun t v hv => dclock_latchOne (s := v.draw.2) (dclock_of_fields (s := v) rfl rfl hv) t 14 k 0 _) hu
  have hone := dclock_latchOne h k cause source phase 0
  unfold State.latch
  exact dclock_ite h (dclock_ite (dclock_of_fields (s := s) rfl rfl h) (dclock_ite (hprop _ _ hone) hone))

theorem dclock_gdlTrip (k bit cause source phase : Nat) : DeskClock s0 (s.gdlTrip k bit cause source phase) := by
  have hflag : DeskClock s0 ((s.setFlag .gdlFault k bit).logFlag 11 bit ((s.setFlag .gdlFault k bit).reg .gdlFault k)) :=
    dclock_note 11 3 bit _ (dclock_setReg .gdlFault k 0 _ h (by decide))
  unfold State.gdlTrip
  exact dclock_ite h (dclock_latch hflag k cause source phase)

end

theorem latch_role (s : State) (k cause source phase : Nat) : (s.latch k cause source phase).twn.role = s.twn.role := by
  have hone (u : State) (t c x p d : Nat) : (u.latchOne t c x p d).twn = u.twn :=
    (only_latchOne (ps := [.regs, .pwm, .gdl, .trp, .nt, .log, .acq]) u t c x p d (Only.refl _ u) (by decide) (by decide) (by decide)
      (by decide) (by decide) (by decide) (by decide)).keeps_twn
  have hprop (u : State) (m : Nat) (hu : u.twn.role = s.twn.role) : (u.propagated k m).twn.role = s.twn.role :=
    holds_forNums (P := fun v => v.twn.role = s.twn.role) _ (fun t _ v hv => (congrArg TwnState.role (hone v.draw.2 t 14 k 0 _)).trans hv) hu
  have hself := congrArg TwnState.role (hone s k cause source phase 0)
  unfold State.latch
  split
  · rfl
  · split
    · rfl
    · dsimp only
      split
      · exact hprop _ _ hself
      · exact hself

/-! ### A cause for several stacks -/

/-- One cause in the zones of several stacks. -/
def State.latchAll (s : State) (xs : List Nat) (cause source : Nat) : State := forNums xs (fun k s => s.latch k cause source 0) s

section
variable {s : State} {xs : List Nat} {cause : Nat} (source : Nat)

theorem only_latchAll (s : State) (xs : List Nat) (cause source : Nat) :
    Only [.free, .regs, .pwm, .gdl, .trp, .nt, .log, .acq, .twn] s (s.latchAll xs cause source) := by
  unfold State.latchAll
  simp +contextual +decide only [only_forNums, only_latch, Only.refl, implies_true]

theorem latchAll_trips (hxs : ∀ k ∈ xs, k < 16) (hc : cause < 16) : TripsOnly s (s.latchAll xs cause source) ∧
    ∀ k ∈ xs, s.latches k cause = true → Tripped k cause s (s.latchAll xs cause source) := by
  have htrips (k : Nat) (hk : k ∈ xs) (u : State) (hu : TripsOnly s u) : TripsOnly s (u.latch k cause source 0) :=
    hu.trans (latch_trips (hxs k hk) hc source 0).1
  have hall : TripsOnly s (s.latchAll xs cause source) := holds_forNums (P := TripsOnly s) _ htrips (.refl s)
  refine ⟨hall, fun k hk hwatch => hall.tripped (hxs k hk) ?_⟩
  have hmake (u : State) (hu : TripsOnly s u) : TripsOnly s (u.latch k cause source 0) ∧
      ((u.latch k cause source 0).zone k).causes.getLsbD cause = true := by
    obtain ⟨-, htripped⟩ := latch_trips (s := u) (hxs k hk) hc source 0
    exact ⟨htrips k hk u hu, (htripped (by rwa [hu.watch])).1⟩
  have hkeep (i : Nat) (hi : i ∈ xs) (u : State) (hu : TripsOnly s u ∧ (u.zone k).causes.getLsbD cause = true) :
      TripsOnly s (u.latch i cause source 0) ∧ ((u.latch i cause source 0).zone k).causes.getLsbD cause = true :=
    ⟨htrips i hi u hu.1, (latch_trips (s := u) (hxs i hi) hc source 0).1.stays k cause hu.2⟩
  exact (forNums_makes (P := fun u => TripsOnly s u ∧ (u.zone k).causes.getLsbD cause = true) (Q := TripsOnly s)
    (f := fun k s => s.latch k cause source 0) hk hmake htrips hkeep (.refl s)).2

theorem configured_took (s : State) (c : Src) : (s.took c).configured = s.configured := by
  funext k
  rw [State.configured, State.configured, State.nStacks, State.nStacks, State.lv, State.lv, (only_took_cmd s c).keeps_live]

theorem latchAll_desk (hs : cellsRise s.regs) (xs : List Nat) (cause : Nat) : SameDesk s (s.latchAll xs cause source) ∧
    (s.latchAll xs cause source).nt64 = s.nt64 := by
  have honly := only_latchAll s xs cause source
  have hdesk : DeskClock s (s.latchAll xs cause source) := dclock_forNums _ _ (fun k _ hu => dclock_latch hu k cause source 0) (.refl s)
  have hrole : (s.latchAll xs cause source).twn.role = s.twn.role :=
    holds_forNums (P := fun u => u.twn.role = s.twn.role) _ (fun k _ u hu => (latch_role u k cause source 0).trans hu) rfl
  refine ⟨.of_kept hs honly hdesk.1 (by simp [honly.keeps_mgt]) hrole (by decide), ?_⟩
  obtain ⟨ev, hev⟩ := hdesk.2
  rw [State.nt64, hev, State.nt64]

end

theorem Tripped.keep {k c : Nat} {s t u : State} (h : Tripped k c s t) (htrp : u.trp = t.trp) (hpwm : u.pwm = t.pwm) : Tripped k c s u := by
  obtain ⟨hbit, hoff⟩ := h
  refine ⟨by rwa [State.zone, htrp], fun h0 n hn hout => ?_⟩
  rw [State.chan, hpwm]
  exact hoff h0 n hn hout

theorem Tripped.of_before {k c : Nat} {s u t : State} (h : Tripped k c u t) (hz : u.trp.zones = s.trp.zones) : Tripped k c s t := by
  obtain ⟨hbit, hoff⟩ := h
  exact ⟨hbit, fun h0 => hoff (by rwa [State.zone, hz])⟩

/-! ### TRIP_IN and TRP_TRIP -/

/-- The levels of the TRIP_IN lands with one of them anew. -/
def State.landRead (s : State) (i : Nat) (level : Bool) : State :=
  { s with trp := { s.trp with
    tripIn := if level then s.trp.tripIn ||| BitVec.ofNat 16 (2 ^ i) else s.trp.tripIn &&& ~~~ BitVec.ofNat 16 (2 ^ i) } }

theorem only_landRead (s : State) (i : Nat) (level : Bool) : Only [.trp] s (s.landRead i level) := by
  simp +decide only [State.landRead, only_mk, Only.refl, or_true, true_or]

section
variable {s : State}

theorem landRead_active {i : Nat} (hi : i < 16) (level : Bool) : (s.landRead i level).tripActive i = (level != s.lvb .trpInCfg i 0 7) := by
  have hbit : (s.landRead i level).trp.tripIn.getLsbD i = level := by
    cases level with
    | true => simp only [State.landRead, if_true, BitVec.getLsbD_or, getLsbD_bit16 hi, Bool.or_true]
    | false => simp only [State.landRead, Bool.false_eq_true, if_false, BitVec.getLsbD_and, BitVec.getLsbD_not, getLsbD_bit16 hi,
        Bool.not_true, Bool.and_false]
  unfold State.tripActive
  rw [hbit]
  rfl

theorem execTripInActive_begins {i : Fin 16} {level : Bool} (hwas : s.tripActive i = false) (hlevel : level ≠ s.lvb .trpInCfg i 0 7) :
    execTripInActive i level s = .next ((((s.landRead i level).tripInLatch i).acqOffer 5 (s.landRead i level).tripClock
      (2 ^ i.val)) fun u => (s.landRead i level).acqSel u (16 + i)) := by
  have hact : ((s.landRead i level).tripActive i && !s.tripActive i) = true := by
    rw [landRead_active i.isLt, hwas]
    simpa using hlevel
  exact if_pos hact

theorem execTripInActive_rests {i : Fin 16} {level : Bool} (h : s.tripActive i = true ∨ level = s.lvb .trpInCfg i 0 7) :
    execTripInActive i level s = .next (s.landRead i level) := by
  have hact : ¬ ((s.landRead i level).tripActive i && !s.tripActive i) = true := by
    rw [landRead_active i.isLt]
    rcases h with h | h <;> simp [h]
  exact if_neg hact

theorem tripInLatch_enabled {i : Nat} (hen : s.lvb .trpInCfg i 0 8 = true) (hact : s.tripActive i = true) :
    s.tripInLatch i = s.latchAll (bitsIn 16 (s.lv .trpInCfg i 0 31 16)) 2 i := if_pos (by rw [hen, hact]; rfl)

theorem tripInLatch_disabled {i : Nat} (hen : s.lvb .trpInCfg i 0 8 = false) : s.tripInLatch i = s := if_neg (by rw [hen]; simp)

theorem trpTrip_refused {c : Src} {p : Bytes} (h : pf p 0 2 = 0 ∨ ∃ k < 16, (pf p 0 2).testBit k = true ∧ s.configured k = false) :
    s.trpTrip c p = s.refuse c 0x0601 .checkFail 1 := by
  refine if_pos (h.imp_right ?_)
  rintro ⟨k, hk, hbit, hconf⟩
  exact List.any_eq_true.mpr ⟨k, (mem_bitsIn 16 _ k).mpr ⟨hk, hbit⟩, by simp [hconf]⟩

theorem trpTrip_taken {c : Src} {p : Bytes} (hmask : pf p 0 2 ≠ 0) (h : ∀ k < 16, (pf p 0 2).testBit k = true → s.configured k = true) :
    s.trpTrip c p = (s.latchAll (bitsIn 16 (pf p 0 2)) 13 c.ring).done c 0x0601 := by
  refine if_neg (not_or.mpr ⟨hmask, fun hany => ?_⟩)
  obtain ⟨k, hk, hbad⟩ := List.any_eq_true.mp hany
  obtain ⟨hlt, hbit⟩ := (mem_bitsIn 16 _ k).mp hk
  simp [h k hlt hbit] at hbad

end

/-- Settles O38: every stack of the mask latches its cause, and what follows takes no trip back. -/
theorem landsAndCommandsTripTheirStacks : Obligations.LandsAndCommandsTripTheirStacks := by
  refine ⟨?begins, ?rests, ?trip, ?refused⟩
  case begins =>
    intro i level s hwas hlevel
    refine ⟨_, execTripInActive_begins hwas hlevel, ?_⟩
    have hoffer : Only [.regs, .nt, .acq] ((s.landRead i level).tripInLatch i) (((s.landRead i level).tripInLatch i).acqOffer 5
        (s.landRead i level).tripClock (2 ^ i.val) fun u => (s.landRead i level).acqSel u (16 + i)) :=
      only_acqOffer _ _ _ _ _ (Only.refl _ _) (by decide) (by decide) (by decide)
    generalize State.acqOffer _ _ _ _ _ = t at *
    have hact : (s.landRead i level).tripActive i = true := by
      rw [landRead_active i.isLt]
      simpa using hlevel
    have hlatch : (s.landRead i level).trp.TripsTo ((s.landRead i level).tripInLatch i).trp := by
      by_cases hen : s.lvb .trpInCfg i 0 8 = true
      · rw [tripInLatch_enabled (s := s.landRead i level) hen hact]
        exact (latchAll_trips (cause := 2) i (fun j hj => ((mem_bitsIn 16 _ j).mp hj).1) (by decide)).1.trp
      · rw [tripInLatch_disabled (s := s.landRead i level) (Bool.eq_false_iff.mpr hen)]
        exact .refl _
    refine ⟨?_, fun hen k hk hbit hwatch => ?_, fun hen => ?_⟩
    · obtain ⟨z, r, n, st, hz⟩ := hlatch
      rw [hoffer.keeps_trp, hz]
      rfl
    · rw [tripInLatch_enabled (s := s.landRead i level) hen hact] at hoffer
      have htrip := (latchAll_trips (s := s.landRead i level) (cause := 2) i (fun j hj => ((mem_bitsIn 16 _ j).mp hj).1) (by decide)).2 k
        ((mem_bitsIn 16 _ k).mpr ⟨hk, hbit⟩) hwatch
      exact (htrip.of_before rfl).keep hoffer.keeps_trp hoffer.keeps_pwm
    · rw [tripInLatch_disabled (s := s.landRead i level) hen] at hoffer
      rw [hoffer.keeps_trp]
      rfl
  case rests =>
    intro i level s h
    exact ⟨_, execTripInActive_rests h, only_landRead s i level, rfl⟩
  case trip =>
    intro c p s hs hadm hmask hconf
    refine ⟨_, congrArg Host.Outcome.next (obey_of_admits hadm _), ?_⟩
    beta_reduce
    rw [trpTrip_taken (s := s.took c) hmask (by simpa only [configured_took] using hconf)]
    have htook : TripsOnly s (s.took c) := trips_of_only (only_took_cmd s c)
    obtain ⟨-, htrips⟩ := latchAll_trips (s := s.took c) (xs := bitsIn 16 (pf p 0 2)) (cause := 13) c.ring
      (fun j hj => ((mem_bitsIn 16 _ j).mp hj).1) (by decide)
    obtain ⟨hdesk, hclock⟩ := latchAll_desk (s := s.took c) c.ring (by simpa using regsRise_of_storesCanonical hs) (bitsIn 16 (pf p 0 2)) 13
    generalize (s.took c).latchAll (bitsIn 16 (pf p 0 2)) 13 c.ring = u at *
    refine ⟨fun k hk hbit hwatch => ?_, ?_⟩
    · have htrip := htrips k ((mem_bitsIn 16 _ k).mpr ⟨hk, hbit⟩) (by rwa [htook.watch])
      exact (htrip.of_before (by simp)).keep (by simp) (by simp)
    · rw [← nt64_took s c, ← hclock]
      exact answered_complete hs hdesk _
  case refused =>
    intro c p s hs hadm h
    refine ⟨_, congrArg Host.Outcome.next (obey_of_admits hadm _), ?_⟩
    beta_reduce
    rw [trpTrip_refused (s := s.took c) (by simpa only [configured_took] using h)]
    exact ⟨by simp, by simp, answered_refuse hs (.refl _)⟩

end Sys2Proof.Machine
end

section
/-! The scheduler's bookkeeping leaves rings and commands alone, and a command that is not accepted ends with its entry (R318, R331). -/

-- The proofs are elaborated one after the other: this bounds the threads of the compiler, whose stacks count as its memory.
set_option Elab.async false

namespace Sys2Proof.Machine

/-! ### Bookkeeping -/

/-- The registers in which neither completions nor the scheduler's bookkeeping count. -/
def offSched (a : Nat) : Prop :=
  a < 0x1000C ∨ 0x11000 ≤ a ∧ a < 0x13000 ∧ a % 0x40 < 0x28 ∨ 0x20000 ≤ a ∧ a < 0x100000 ∨ 0x100014 ≤ a

/-- The command interface but for its rings, its traces, its messages and its back-pressure. -/
def CmdState.Told (x y : CmdState) : Prop := ∃ q tr g n m p b,
  y = { x with rings := q, trace := tr, traceGap := g, traceSince := n, msix := m, pba := p, bpLevels := b }

theorem CmdState.Told.refl (x : CmdState) : x.Told x := ⟨x.rings, x.trace, x.traceGap, x.traceSince, x.msix, x.pba, x.bpLevels, rfl⟩

theorem CmdState.Told.trans {x y z : CmdState} (h : x.Told y) (h' : y.Told z) : x.Told z := by
  obtain ⟨_, _, _, _, _, _, _, rfl⟩ := h
  obtain ⟨q, tr, g, n, m, p, b, rfl⟩ := h'
  exact ⟨q, tr, g, n, m, p, b, rfl⟩

theorem CmdState.Told.fields {x y : CmdState} (h : x.Told y) :
    y.flights = x.flights ∧ y.nextNo = x.nextNo ∧ y.handed = x.handed ∧ y.ready = x.ready ∧ y.units = x.units := by
  obtain ⟨_, _, _, _, _, _, _, rfl⟩ := h
  exact ⟨rfl, rfl, rfl, rfl, rfl⟩

/-- The bookkeeping: rings differ in their back-pressure alone, and no register outside its counters changes. -/
structure Bookkept (s t : State) : Prop where
  only : Only [.regs, .cmd] s t
  regs : RegsKept offSched s t
  told : s.cmd.Told t.cmd
  ring : ∀ r, ∃ b, t.ring r = { s.ring r with bp := b }

section
variable {s0 s t : State}

theorem Bookkept.refl (s : State) : Bookkept s s := ⟨.refl _ s, .refl s, .refl _, fun r => ⟨(s.ring r).bp, rfl⟩⟩

theorem RegsKept.trans {A : Nat → Prop} {s t u : State} (h : RegsKept A s t) (h' : RegsKept A t u) : RegsKept A s u := fun h0 => by
  obtain ⟨hrise, hregs⟩ := h h0
  obtain ⟨hrise', hregs'⟩ := h' hrise
  exact ⟨hrise', fun r i j ha => (hregs' r i j ha).trans (hregs r i j ha)⟩

theorem Bookkept.trans {u : State} (h : Bookkept s t) (h' : Bookkept t u) : Bookkept s u where
  only := h.only.trans h'.only fun _ hp => hp
  regs := h.regs.trans h'.regs
  told := h.told.trans h'.told
  ring r := by
    obtain ⟨b, hb⟩ := h.ring r
    obtain ⟨b', hb'⟩ := h'.ring r
    exact ⟨b', by rw [hb', hb]⟩

theorem book_modCmd (f : CmdState → CmdState) (ht : s.cmd.Told (f s.cmd)) (hr : (f s.cmd).rings = s.cmd.rings) : Bookkept s (s.modCmd f) where
  only := only_modCmd _ (Only.refl _ s) (by decide)
  regs := kept_modCmd (.refl s) f
  told := ht
  ring r := ⟨(s.ring r).bp, by simp only [State.ring, State.modCmd, hr]⟩

theorem book_count (r : Reg) (i n : Nat) (hr : ¬ offSched (regAddr r i 0)) : Bookkept s (s.count r i n) where
  only := only_count r i n (Only.refl _ s) (by decide)
  regs := kept_count r i n (.refl s) hr
  told := .refl _
  ring r := ⟨(s.ring r).bp, rfl⟩

theorem book_traced (f : CmdState → CmdState) (h : ∃ tr g n, f s.cmd = { s.cmd with trace := tr, traceGap := g, traceSince := n }) :
    Bookkept s (s.modCmd f) := by
  obtain ⟨tr, g, n, hf⟩ := h
  exact book_modCmd f ⟨s.cmd.rings, tr, g, n, s.cmd.msix, s.cmd.pba, s.cmd.bpLevels, hf⟩ (by rw [hf])

theorem book_trace (s : State) (event unit ring : Nat) (seq : DWord) : Bookkept s (s.trace event unit ring seq) := by
  have hlost (u : State) : Bookkept u (u.count .schTraceLost) := book_count _ _ _ (by unfold offSched; decide)
  have hrec (u : State) (x : DWord) : Bookkept u (if u.cmd.trace.length < 256 then
        u.modCmd fun c => { c with trace := c.trace ++ [x], traceSince := if c.trace = [] then u.now else c.traceSince }
      else (u.count .schTraceLost).modCmd fun c => { c with traceGap := c.traceGap + 1 }) := by
    split
    · exact book_traced _ ⟨_, _, _, rfl⟩
    · exact (hlost u).trans (book_traced _ ⟨_, _, _, rfl⟩)
  unfold State.trace
  split
  · dsimp only
    split
    · exact (book_traced _ ⟨_, _, _, rfl⟩).trans (hrec _ _)
    · exact hrec s _
  · exact .refl s

theorem book_markBp (s : State) (l : Nat) (on : Bool) : Bookkept s (s.markBp l on) := by
  refine holds_forNums (P := Bookkept s) _ (fun i _ u hu => hu.trans ⟨only_modRing _ _ (Only.refl _ u) (by decide), kept_of_regs (s := u) rfl (.refl u),
    ⟨_, _, _, _, _, _, _, rfl⟩, fun r => ?_⟩) (.refl s)
  by_cases hr : r = i
  · subst hr
    by_cases hlt : r < 128
    · exact ⟨on, State.ring_modRing_same _ _ _ hlt⟩
    · exact ⟨(u.ring r).bp, by simp [State.ring, State.modRing, vget, vset, hlt]⟩
  · exact ⟨(u.ring r).bp, State.ring_modRing_other _ _ _ _ hr⟩

theorem book_backPressure (s : State) (l ring : Nat) (seq : DWord) : Bookkept s (s.backPressure l ring seq) := by
  have hlevels (u : State) (b : BitVec 16) : Bookkept u (u.modCmd fun c => { c with bpLevels := b }) :=
    book_modCmd _ ⟨_, _, _, _, _, _, _, rfl⟩ rfl
  have hcount (u : State) : Bookkept u (u.count .schBpCnt) := book_count _ _ _ (by unfold offSched; decide)
  unfold State.backPressure
  dsimp only
  split
  · exact (((hlevels s _).trans (hcount _)).trans (book_markBp _ l true)).trans (book_trace _ 8 7 ring seq)
  · split
    · exact ((hlevels s _).trans (book_markBp _ l false)).trans (book_trace _ 9 7 ring seq)
    · exact .refl s

theorem book_countStatus (s : State) (st : Status) : Bookkept s (s.countStatus st) := by
  unfold State.countStatus
  split
  · exact book_count _ _ _ (by unfold offSched; decide)
  · exact book_count _ _ _ (by unfold offSched; decide)
  · exact book_count _ _ _ (by unfold offSched; decide)
  · exact .refl s

theorem book_raise (s : State) (v : Nat) : Bookkept s (s.raise v) := by
  unfold State.raise
  split
  · exact book_modCmd _ ⟨_, _, _, _, _, _, _, rfl⟩ rfl
  · exact book_modCmd _ ⟨_, _, _, _, _, _, _, rfl⟩ rfl

end

/-! ### Entries of commands that are not accepted -/

/-- What two states share for an entry in the one to be the entry of the other. -/
structure SameSlot (r : Fin 128) (s t : State) : Prop where
  host : t.host = s.host
  slot : t.cqSlot r = s.cqSlot r
  depth : t.depth r = s.depth r
  head : (t.ring r).sqHead = (s.ring r).sqHead
  tail : (t.ring r).cqTail = (s.ring r).cqTail
  phase : (t.ring r).phase = (s.ring r).phase

section
variable {s t u : State} {r : Fin 128}

theorem SameSlot.refl (s : State) : SameSlot r s s := ⟨rfl, rfl, rfl, rfl, rfl, rfl⟩

theorem SameSlot.trans (h : SameSlot r s t) (h' : SameSlot r t u) : SameSlot r s u :=
  ⟨h'.host.trans h.host, h'.slot.trans h.slot, h'.depth.trans h.depth, h'.head.trans h.head, h'.tail.trans h.tail, h'.phase.trans h.phase⟩

theorem offSched_cqBase (r : Fin 128) : offSched (regAddr .cmdCqBase r 0) := by
  have haddr : regAddr .cmdCqBase r.val 0 = 0x11008 + r.val * 0x40 := rfl
  have hlt := r.isLt
  unfold offSched
  omega

theorem offSched_ringCfg (r : Fin 128) : offSched (regAddr .cmdRingCfg r 0) := by
  have haddr : regAddr .cmdRingCfg r.val 0 = 0x11010 + r.val * 0x40 := rfl
  have hlt := r.isLt
  unfold offSched
  omega

theorem slot_of_fields (hregs : RegsKept offSched s t) (hs : cellsRise s.regs) (hhost : t.host = s.host)
    (hring : ∃ b, t.ring r = { s.ring r with bp := b }) : SameSlot r s t := by
  obtain ⟨-, hreg⟩ := hregs hs
  obtain ⟨b, hb⟩ := hring
  exact ⟨hhost, by rw [State.cqSlot, hreg _ _ _ (offSched_cqBase r), hb, State.cqSlot],
    by rw [State.depth, hreg _ _ _ (offSched_ringCfg r), State.depth], by rw [hb], by rw [hb], by rw [hb]⟩

theorem Bookkept.slot (h : Bookkept s t) (hs : cellsRise s.regs) : SameSlot r s t :=
  slot_of_fields h.regs hs h.only.keeps_host (h.ring r)

end

theorem flight_src_ring (f : Flight) : f.src.ring.val = f.ring.val := by
  have hlt := f.ring.isLt
  simp only [Flight.src, Fin.ofNat]
  omega

/-- The entry stands in host memory, and its ring's tail is past it. -/
def State.entryPut (s : State) (c : Src) (bs : Bytes) : State :=
  let u := s.hostWrite ((s.reg .cmdCqBase c.ring.val).toNat + 32 * (s.ring c.ring.val).cqTail) bs
  let tail := ((s.ring c.ring.val).cqTail + 1) % u.depth c.ring.val
  u.modRing c.ring.val fun q => { q with cqTail := tail, phase := if tail = 0 then !q.phase else q.phase, inFlight := q.inFlight - 1 }

/-- What is counted and told of an entry. -/
def State.entryTold (s : State) (c : Src) (st : Status) : State :=
  let s := (s.count .cmdDoneCnt c.ring.val).countStatus st
  (if c.irq then s.raise (bitsOf (s.reg .cmdRingCfg c.ring.val) 15 8) else s).trace 7 7 c.ring.val c.seq

theorem writeEntry_eq (s : State) (c : Src) (op : Nat) (st : Status) (d : Nat) (at_ : DWord) : s.writeEntry c op st d at_ =
    (s.entryPut c (cqEntry c op st d at_ (s.ring c.ring.val).sqHead (s.ring c.ring.val).phase)).entryTold c st := rfl

theorem book_entryTold (s : State) (c : Src) (st : Status) : Bookkept s (s.entryTold c st) := by
  have hdone : Bookkept s (s.count .cmdDoneCnt c.ring.val) := by
    refine book_count _ _ _ ?_
    have haddr : regAddr .cmdDoneCnt c.ring.val 0 = 0x11028 + c.ring.val * 0x40 := rfl
    have hlt := c.ring.isLt
    unfold offSched
    omega
  have hstatus := hdone.trans (book_countStatus _ st)
  unfold State.entryTold
  dsimp only
  split
  · exact (hstatus.trans (book_raise _ _)).trans (book_trace _ _ _ _ _)
  · exact hstatus.trans (book_trace _ _ _ _ _)

theorem ring_entryPut (s : State) (c : Src) (bs : Bytes) (r : Nat) : ∃ t p n,
    (s.entryPut c bs).ring r = { s.ring r with cqTail := t, phase := p, inFlight := n } := by
  unfold State.entryPut
  dsimp only
  generalize hu : s.hostWrite ((s.reg .cmdCqBase c.ring.val).toNat + 32 * (s.ring c.ring.val).cqTail) bs = u
  have hsame : u.ring r = s.ring r := hu ▸ rfl
  by_cases hr : r = c.ring.val
  · subst hr
    by_cases hlt : c.ring.val < 128
    · exact ⟨_, _, _, (State.ring_modRing_same _ _ _ hlt).trans (by rw [hsame])⟩
    · exact ⟨(s.ring c.ring.val).cqTail, (s.ring c.ring.val).phase, (s.ring c.ring.val).inFlight,
        Eq.trans (by simp [State.ring, State.modRing, vget, vset, hlt]) hsame⟩
  · exact ⟨(s.ring r).cqTail, (s.ring r).phase, (s.ring r).inFlight, (State.ring_modRing_other _ _ _ _ hr).trans hsame⟩

/-- What an entry leaves: every list, the registers but its counters, and of the rings all but where entries go. -/
theorem writeEntry_told (s : State) (c : Src) (op : Nat) (st : Status) (d : Nat) (at_ : DWord) : s.cmd.Told (s.writeEntry c op st d at_).cmd ∧
    RegsKept offSched s (s.writeEntry c op st d at_) ∧ ∀ r, ∃ b t p n,
      (s.writeEntry c op st d at_).ring r = { s.ring r with bp := b, cqTail := t, phase := p, inFlight := n } := by
  rw [writeEntry_eq]
  generalize cqEntry c op st d at_ (s.ring c.ring.val).sqHead (s.ring c.ring.val).phase = bs
  have hput : s.cmd.Told (s.entryPut c bs).cmd := ⟨_, s.cmd.trace, s.cmd.traceGap, s.cmd.traceSince, s.cmd.msix, s.cmd.pba, s.cmd.bpLevels, rfl⟩
  have hregs : RegsKept offSched s (s.entryPut c bs) := kept_of_regs (s := s) rfl (.refl s)
  have hring := ring_entryPut s c bs
  generalize s.entryPut c bs = u at *
  obtain ⟨-, hr, ht, hb⟩ := book_entryTold u c st
  refine ⟨hput.trans ht, hregs.trans hr, fun r => ?_⟩
  obtain ⟨t, p, n, hu⟩ := hring r
  obtain ⟨b, hv⟩ := hb r
  exact ⟨b, t, p, n, by rw [hv, hu]⟩

section
variable {s t : State} {f : Flight}

theorem flightDrop_fields (s : State) (no : Nat) : (s.flightDrop no).cmd.flights = (s.cmd.flights.filter fun x => x.no != no) ∧
    (s.flightDrop no).cmd.handed = s.cmd.handed ∧ (s.flightDrop no).cmd.rings = s.cmd.rings ∧
    (s.flightDrop no).regs = s.regs ∧ (s.flightDrop no).host = s.host := ⟨rfl, rfl, rfl, rfl, rfl⟩

theorem slot_flightLeave (hs : cellsRise s.regs) (f : Flight) : SameSlot f.ring s (s.flightLeave f) := by
  have hbook : Bookkept (s.flightDrop f.no) (s.flightLeave f) := book_backPressure _ _ _ _
  exact SameSlot.trans (t := s.flightDrop f.no) ⟨rfl, rfl, rfl, rfl, rfl, rfl⟩ (hbook.slot hs)

/-- The entry of a command that leaves the lists, whatever it says of its instant. -/
theorem ended_writeEntry (hs : s.storesCanonical) (hregs : cellsRise t.regs) (hslot : SameSlot f.ring s t) (hflights : t.cmd.flights = s.cmd.flights)
    (st : Status) (d : Nat) (at_ : DWord) : Ended f st d at_ s ((t.flightLeave f).writeEntry f.src f.opcode st d at_) := by
  have hleave := hslot.trans (slot_flightLeave hregs f)
  have hbook : Bookkept (t.flightDrop f.no) (t.flightLeave f) := book_backPressure _ _ _ _
  have hlists : (t.flightLeave f).cmd.flights = s.cmd.flights.filter fun x => x.no != f.no := by
    rw [hbook.told.fields.1, (flightDrop_fields t f.no).1, hflights]
  generalize t.flightLeave f = u at *
  have hring := flight_src_ring f
  obtain ⟨hhost, htail, -, -⟩ := State.writeEntry_effect u f.src f.opcode st d at_ (by rw [hring]; exact f.ring.isLt)
  obtain ⟨htold, -, -⟩ := writeEntry_told u f.src f.opcode st d at_
  rw [hring, hleave.slot, hleave.host, hleave.head, hleave.phase] at hhost
  rw [hring, hleave.tail, hleave.depth] at htail
  exact ⟨hostTakes_memWrite hs.hostRise hhost, htail, htold.fields.1.trans hlists⟩

/-- R318: a command that is not accepted ends with its entry, and leaves the lists. -/
theorem ended_flightEnd (hs : s.storesCanonical) (hregs : cellsRise t.regs) (hslot : SameSlot f.ring s t) (hflights : t.cmd.flights = s.cmd.flights)
    (st : Status) (d : Nat) : Ended f st d 0 s (t.flightEnd f st d) := ended_writeEntry hs hregs hslot hflights st d 0

end

end Sys2Proof.Machine
end

section
/-! Rings are enabled, drain and are disabled (R313, R314, Tables CMD-1 and CMD-14). -/

-- The proofs are elaborated one after the other: this bounds the threads of the compiler, whose stacks count as its memory.
set_option Elab.async false

namespace Sys2Proof.Machine

/-! ### ENABLE of a ring's configuration -/

theorem toNat_withBits_enable (v : DWord) (on : Bool) :
    (withBits v 31 31 (if on then 1 else 0)).toNat = v.toNat - v.toNat / 2147483648 % 2 * 2147483648 + (if on then 1 else 0) * 2147483648 := by
  have hv := v.isLt
  cases on <;> simp only [withBits, BitVec.toNat_ofNat, if_true, Bool.false_eq_true, if_false] <;> omega

theorem bitOf_withBits_enable (v : DWord) (on : Bool) : bitOf (withBits v 31 31 (if on then 1 else 0)) 31 = on := by
  rw [bitOf, toNat_withBits_enable, Nat.testBit_eq_decide_div_mod_eq]
  cases on <;> simp <;> omega

theorem bitsOf_withBits_enable (v : DWord) (on : Bool) : bitsOf (withBits v 31 31 (if on then 1 else 0)) 4 0 = bitsOf v 4 0 := by
  rw [bitsOf, toNat_withBits_enable, bitsOf]
  cases on <;> simp <;> omega

section
variable {s : State} (hs : s.storesCanonical)
include hs

theorem setEnable_bit (r : Nat) (on : Bool) : bitOf ((s.setEnable r on).reg .cmdRingCfg r) 31 = on := by
  rw [State.setEnable, reg_setReg_same hs]
  exact bitOf_withBits_enable _ on

theorem slot_setEnable (r : Fin 128) (on : Bool) : SameSlot r s (s.setEnable r on) := by
  have hbase : (s.setEnable r on).reg .cmdCqBase r = s.reg .cmdCqBase r := by
    refine otherRegs_setReg hs .cmdRingCfg r 0 _ .cmdCqBase r 0 ?_
    have hcq : regAddr .cmdCqBase r.val 0 = 0x11008 + r.val * 0x40 := rfl
    have hcfg : regAddr .cmdRingCfg r.val 0 = 0x11010 + r.val * 0x40 := rfl
    omega
  refine ⟨rfl, by rw [State.cqSlot, hbase]; rfl, ?_, rfl, rfl, rfl⟩
  rw [State.depth, State.setEnable, reg_setReg_same hs, bitsOf_withBits_enable, State.depth]

end

/-! ### Enabling -/

section
variable {s : State} {r : Nat}

theorem ringEnable_draining (h : (s.ring r).st = .draining) : s.ringEnable r = (s.modRing r fun q => { q with err := 8 }).busyStop := by
  simp only [State.ringEnable, h]

theorem ringEnable_passes (h : (s.ring r).st = .disabled) (hcheck : s.enableCheck r = 0) :
    s.ringEnable r = (s.setEnable r true).modRing r fun q => { q with
      st := .running, err := 0, sqHead := 0, sqTail := 0, bells := [], cqHead := 0, cqTail := 0, phase := true
      bp := s.cmd.bpLevels.getLsbD (s.level r) } := by
  simp only [State.ringEnable, h, hcheck, if_true]

theorem ringEnable_fails (h : (s.ring r).st = .disabled) (hcheck : s.enableCheck r ≠ 0) :
    s.ringEnable r = (s.setEnable r false).modRing r fun q => { q with err := s.enableCheck r } := by
  simp only [State.ringEnable, h, hcheck, if_false]

theorem ringEnable_up (h : (s.ring r).st = .running ∨ (s.ring r).st = .fault) : s.ringEnable r = s := by
  rcases h with h | h <;> simp only [State.ringEnable, h]

/-! ### Draining -/

/-- The commands of a ring that PLACE does not have in its hands. -/
def State.unplaced (s : State) (r : Nat) : List Flight :=
  s.cmd.flights.filter fun f => f.ring.val = r && !(s.cmd.units.toList.any fun u => u.any fun w => w.no = f.no && w.kind = .place)

/-- Does a unit have a command at PLACE? -/
def State.placing (s : State) (f : Flight) : Bool := s.cmd.units.toList.any fun u => u.any fun w => w.no = f.no && w.kind = .place

theorem placing_iff {s : State} {f : Flight} :
    s.placing f = true ↔ ∃ u < 7, ∃ w, vget s.cmd.units u none = some w ∧ w.no = f.no ∧ w.kind = .place := by
  simp only [State.placing, List.any_eq_true, Vector.mem_toList_iff, Vector.mem_iff_getElem, Option.any_eq_true, Bool.and_eq_true, decide_eq_true_eq]
  constructor
  · rintro ⟨_, ⟨u, hu, rfl⟩, w, hw, hno, hkind⟩
    exact ⟨u, hu, w, by simpa [vget, hu] using hw, hno, hkind⟩
  · rintro ⟨u, hu, w, hw, hno, hkind⟩
    exact ⟨_, ⟨u, hu, rfl⟩, w, by simpa [vget, hu] using hw, hno, hkind⟩

theorem mem_unplaced {f : Flight} : f ∈ s.unplaced r ↔ f ∈ s.cmd.flights ∧ f.ring.val = r ∧ s.placing f = false := by
  simp only [State.unplaced, State.placing, List.mem_filter, Bool.and_eq_true, decide_eq_true_eq, Bool.not_eq_true']

/-- A ring that fetches no more. -/
def State.drains (s : State) (r : Nat) : State :=
  (s.setEnable r false).modRing r fun q => { q with st := if q.st = .running then .draining else q.st, bp := false }

/-- Commands that end ABORTED. -/
def State.aborted (s : State) (fs : List Flight) : State := fs.foldl (fun s f => s.flightEnd f .aborted 0) s

theorem ringDisable_up (h : (s.ring r).st = .running ∨ (s.ring r).st = .fault) :
    s.ringDisable r = (s.drains r).aborted (s.unplaced r) := by
  rcases h with h | h <;> simp only [State.ringDisable, h] <;> rfl

theorem ringDisable_down (h : (s.ring r).st = .disabled ∨ (s.ring r).st = .draining) : s.ringDisable r = s := by
  rcases h with h | h <;> simp only [State.ringDisable, h]

theorem ringDrained_drains (h : (s.ring r).st = .draining ∨ (s.ring r).st = .fault ∧ bitOf (s.reg .cmdRingCfg r) 31 = false)
    (hnone : (s.ring r).inFlight = 0) : s.ringDrained r = s.modRing r fun q => { q with st := .disabled } := by
  unfold State.ringDrained
  rcases h with h | ⟨h, hbit⟩
  · exact if_pos (by simp [h, hnone])
  · exact if_pos (by simp [h, hnone, hbit])

theorem ringDrained_busy (h : (s.ring r).inFlight ≠ 0) : s.ringDrained r = s := if_neg (by simp [h])

end

section
variable {s : State}

/-- The end of a command leaves the lists of the others, the ring's state and its configuration. -/
theorem flightEnd_effect (s : State) (f : Flight) (st : Status) (d : Nat) :
    (s.flightEnd f st d).cmd.flights = (s.cmd.flights.filter fun x => x.no != f.no) ∧
    RegsKept offSched s (s.flightEnd f st d) ∧ ∀ r, ((s.flightEnd f st d).ring r).st = (s.ring r).st := by
  have hbook : Bookkept (s.flightDrop f.no) (s.flightLeave f) := book_backPressure _ _ _ _
  obtain ⟨htold, hregs, hring⟩ := writeEntry_told (s.flightLeave f) f.src f.opcode st d 0
  refine ⟨?_, (RegsKept.trans (kept_of_regs (s := s) rfl (.refl s)) hbook.regs).trans hregs, fun r => ?_⟩
  · exact htold.fields.1.trans (hbook.told.fields.1.trans (flightDrop_fields s f.no).1)
  · obtain ⟨b, t, p, n, hr⟩ := hring r
    obtain ⟨b', hr'⟩ := hbook.ring r
    have hdrop : (s.flightDrop f.no).ring r = s.ring r := rfl
    unfold State.flightEnd
    rw [hr, hr', hdrop]

theorem aborted_effect (s : State) (fs : List Flight) : (∀ f ∈ (s.aborted fs).cmd.flights, f ∈ s.cmd.flights ∧ ∀ g ∈ fs, f.no ≠ g.no) ∧
    RegsKept offSched s (s.aborted fs) ∧ ∀ r, ((s.aborted fs).ring r).st = (s.ring r).st := by
  induction fs generalizing s with
  | nil => exact ⟨fun f hf => ⟨hf, fun g hg => absurd hg (by simp)⟩, .refl s, fun _ => rfl⟩
  | cons g fs ih =>
    obtain ⟨hlist, hregs, hst⟩ := flightEnd_effect s g .aborted 0
    obtain ⟨hlist', hregs', hst'⟩ := ih (s.flightEnd g .aborted 0)
    refine ⟨fun f hf => ?_, hregs.trans hregs', fun r => (hst' r).trans (hst r)⟩
    obtain ⟨hmem, hne⟩ := hlist' f hf
    rw [hlist, List.mem_filter] at hmem
    refine ⟨hmem.1, fun x hx => ?_⟩
    rcases List.mem_cons.mp hx with rfl | hx
    · simpa using hmem.2
    · exact hne x hx

theorem drains_effect (hs : s.storesCanonical) (r : Fin 128) :
    ((s.drains r).ring r).st = (if (s.ring r).st = .running then .draining else (s.ring r).st) ∧
    bitOf ((s.drains r).reg .cmdRingCfg r) 31 = false ∧ (s.drains r).cmd.flights = s.cmd.flights ∧ SameSlot r s (s.drains r) ∧
    cellsRise (s.drains r).regs := by
  have hring : (s.drains r).ring r = { s.ring r with st := if (s.ring r).st = .running then .draining else (s.ring r).st, bp := false } :=
    State.ring_modRing_same _ _ _ r.isLt
  have hslot := slot_setEnable hs r false
  have hrise : cellsRise (s.setEnable r false).regs := cellsRise_write (regsRise_of_storesCanonical hs)
  have hfields : (s.drains r).host = (s.setEnable r false).host ∧ (s.drains r).regs = (s.setEnable r false).regs ∧
      (s.drains r).cmd.flights = s.cmd.flights := ⟨rfl, rfl, rfl⟩
  have hbit := setEnable_bit hs r false
  generalize s.drains r = t at *
  obtain ⟨hhost, hregs, hflights⟩ := hfields
  refine ⟨by rw [hring], by rwa [State.reg, hregs], hflights, ?_, by rwa [hregs]⟩
  have hcq : t.reg .cmdCqBase r = (s.setEnable r false).reg .cmdCqBase r := by rw [State.reg, hregs, State.reg]
  have hdepth : t.depth r = (s.setEnable r false).depth r := by rw [State.depth, State.reg, hregs, State.depth, State.reg]
  refine ⟨hhost.trans hslot.host, ?_, hdepth.trans hslot.depth, by rw [hring], by rw [hring], by rw [hring]⟩
  rw [State.cqSlot, hcq, hring]
  exact hslot.slot

end

/-- Settles O49, by the states of the ring; what ends ABORTED is each command that no core has in its hands at PLACE. -/
theorem ringsEnableAndDrain : Obligations.RingsEnableAndDrain := by
  refine ⟨?passes, ?fails, ?busy, ?up, ?disable, ?ended, ?down, ?drained, ?waits⟩
  case passes =>
    intro r s hs hst hcheck
    have hring : ∀ q : Fin 128, q ≠ r → ∀ f : Ring → Ring, ((s.setEnable r true).modRing r f).ring q = s.ring q :=
      fun q hq f => State.ring_modRing_other _ _ _ _ fun h => hq (Fin.ext h)
    have hother : OtherRegs .cmdRingCfg r 0 s (s.setEnable r true) := otherRegs_setReg hs _ _ _ _
    refine ⟨_, congrArg Host.Outcome.next (ringEnable_passes hst hcheck), ?_⟩
    beta_reduce
    rw [State.ring_modRing_same _ _ _ r.isLt]
    exact ⟨rfl, rfl, rfl, rfl, rfl, rfl, rfl, setEnable_bit hs r true, hother, fun q hq => hring q hq _⟩
  case fails =>
    intro r s hs hst hcheck
    refine ⟨_, congrArg Host.Outcome.next (ringEnable_fails hst hcheck), ?_⟩
    exact ⟨State.ring_modRing_same _ _ _ r.isLt, setEnable_bit hs r false, otherRegs_setReg hs _ _ _ _⟩
  case busy =>
    intro r s hs hst
    refine ⟨_, congrArg Host.Outcome.next (ringEnable_draining hst), ?_, ?_⟩
    · have hbusy (u : State) : u.busyStop.ring r = u.ring r := rfl
      rw [hbusy, State.ring_modRing_same _ _ _ r.isLt]
    · exact (counts_count hs .glbBusyStopCnt 0).1
  case up => exact fun r s h => congrArg Host.Outcome.next (ringEnable_up h)
  case disable =>
    intro r s hs h
    refine ⟨_, congrArg Host.Outcome.next (ringDisable_up h), ?_⟩
    obtain ⟨hst, hbit, hflights, -, hrise⟩ := drains_effect hs r
    obtain ⟨hlist, hregs, hsts⟩ := aborted_effect (s.drains r) (s.unplaced r)
    refine ⟨?_, ?_, fun f hf => ?_⟩
    · rw [hsts, hst]
      rcases h with h | h <;> simp [h]
    · rwa [(hregs hrise).2 _ _ _ (offSched_ringCfg r)]
    · obtain ⟨hmem, hne⟩ := hlist f hf
      rw [hflights] at hmem
      refine ⟨hmem, fun hring => placing_iff.mp ?_⟩
      by_contra hplace
      exact hne f (mem_unplaced.mpr ⟨hmem, congrArg Fin.val hring, by simpa using hplace⟩) rfl
  case ended =>
    intro r f s hs h hone hfree
    refine ⟨_, congrArg Host.Outcome.next (ringDisable_up h), ?_⟩
    have hnot (g : Flight) : s.placing g = false := by
      by_contra hplace
      obtain ⟨u, hu, w, hw, -⟩ := placing_iff.mp (Bool.not_eq_false _ ▸ hplace)
      simp [hfree u hu] at hw
    have hlist : s.unplaced r = [f] := by
      rw [← hone]
      refine List.filter_congr fun g _ => ?_
      have hg : s.placing g = false := hnot g
      unfold State.placing at hg
      simp [hg, Fin.ext_iff]
    have hring : f.ring = r := by
      have hmem : f ∈ s.cmd.flights.filter fun f => f.ring = r := by simp [hone]
      simpa using (List.mem_filter.mp hmem).2
    obtain ⟨-, -, hflights, hslot, hrise⟩ := drains_effect hs r
    rw [hlist]
    exact ended_flightEnd hs hrise (hring ▸ hslot) hflights .aborted 0
  case down => exact fun r s h => congrArg Host.Outcome.next (ringDisable_down h)
  case drained =>
    intro r s h hnone
    exact ⟨_, congrArg Host.Outcome.next (ringDrained_drains h hnone), State.ring_modRing_same _ _ _ r.isLt,
      only_modRing _ _ (Only.refl _ s) (by decide)⟩
  case waits => exact fun r s h => congrArg Host.Outcome.next (ringDrained_busy h)

end Sys2Proof.Machine
end

section
/-! Doorbells, fetches and timeouts of the command rings (R311, R315 to R317, R327, R335). -/

-- The proofs are elaborated one after the other: this bounds the threads of the compiler, whose stacks count as its memory.
set_option Elab.async false

namespace Sys2Proof.Machine

/-! ### Traces and the depth of a ring -/

/-- A write of a value that is not the one of an unlisted address changes no address below, whatever the order of the store. -/
theorem cellsRead_write_below {α : Type} [DecidableEq α] {d d' : Nat → α} {m : List (Nat × α)} {k j : Nat} {x : α} (hj : j < k) (hx : x ≠ d k) :
    cellsRead d' (cellsWrite d m k x) j = cellsRead d' m j := by
  induction m with
  | nil => simp [cellsWrite, cellsCons, hx, cellsRead, hj, Nat.ne_of_lt hj]
  | cons q rest ih =>
    obtain ⟨a, y⟩ := q
    unfold cellsWrite
    split
    · next hk =>
      subst hk
      simp [cellsCons, hx, cellsRead, hj, Nat.ne_of_lt hj]
    · split
      · next hka =>
        have hja : j < a := hj.trans hka
        simp [cellsCons, hx, cellsRead, hj, Nat.ne_of_lt hj, hja, Nat.ne_of_lt hja]
      · simp only [cellsRead, ih]

section
variable {s : State}

theorem reg_countTraceLost (s : State) {r : Reg} {i j : Nat} (h : regAddr r i j < regAddr .schTraceLost 0 0) :
    (s.count .schTraceLost).reg r i j = s.reg r i j := by
  refine cellsRead_write_below h fun heq => ?_
  have hnat := congrArg BitVec.toNat heq
  rw [BitVec.toNat_ofNat, BitVec.toNat_ofNat] at hnat
  have hreset : regReset .schTraceLost 0 = 0 := rfl
  rw [hreset] at hnat
  omega

theorem reg_trace (s : State) (event unit ring : Nat) (seq : DWord) {r : Reg} {i j : Nat} (h : regAddr r i j < regAddr .schTraceLost 0 0) :
    (s.trace event unit ring seq).reg r i j = s.reg r i j := by
  unfold State.trace
  split
  · dsimp only
    split
    · split
      · rfl
      · exact reg_countTraceLost _ h
    · split
      · rfl
      · exact reg_countTraceLost _ h
  · rfl

theorem ringCfg_below (r : Fin 128) : regAddr .cmdRingCfg r 0 < regAddr .schTraceLost 0 0 := by
  have haddr : regAddr .cmdRingCfg r.val 0 = 0x11010 + r.val * 0x40 := rfl
  have hlost : regAddr .schTraceLost 0 0 = 0x10000c := rfl
  have hlt := r.isLt
  omega

theorem ring_trace (s : State) (event unit ring : Nat) (seq : DWord) (r : Nat) : (s.trace event unit ring seq).ring r = s.ring r := by
  rw [State.ring, (State.trace_other s event unit ring seq).2.1, State.ring]

/-! ### Doorbells -/

/-- A write to SQ_TAIL as it is noted and traced. -/
def State.bellNoted (s : State) (r : Nat) (v : Word) : State := (s.modRing r fun q => { q with dbSq := v }).trace 0 7 r 0

/-- A write to CQ_HEAD as it is noted and traced. -/
def State.headNoted (s : State) (r : Nat) (v : Word) : State := (s.modRing r fun q => { q with dbCq := v }).trace 0 7 r 0

/-- What a noted write to a doorbell page shares with the state before it. -/
theorem noted_effect (r : Fin 128) (f : Ring → Ring) (hf : ∀ q, (f q).st = q.st) (s : State) (v : Word) :
    ((s.modRing r f).trace 0 7 r 0).ring r = f (s.ring r) ∧
    (∀ q : Fin 128, q ≠ r → ((s.modRing r f).trace 0 7 r 0).ring q = s.ring q) ∧
    ((s.modRing r f).trace 0 7 r 0).depth r = s.depth r ∧ ((s.modRing r f).trace 0 7 r 0).bellOk r v = s.bellOk r v ∧
    Only [.cmd, .regs] s ((s.modRing r f).trace 0 7 r 0) := by
  have hring : ((s.modRing r f).trace 0 7 r 0).ring r = f (s.ring r) := (ring_trace _ _ _ _ _ _).trans (State.ring_modRing_same _ _ _ r.isLt)
  have hdepth : ((s.modRing r f).trace 0 7 r 0).depth r = s.depth r := by
    rw [State.depth, reg_trace _ _ _ _ _ (ringCfg_below r), State.depth]
    rfl
  refine ⟨hring, fun q hq => ?_, hdepth, by rw [State.bellOk, hring, hf, hdepth, State.bellOk], ?_⟩
  · exact (ring_trace _ _ _ _ _ _).trans (State.ring_modRing_other _ _ _ _ fun h => hq (Fin.ext h))
  · exact only_trace _ _ _ _ _ (only_modRing _ _ (Only.refl _ s) (by decide)) (by decide) (by decide)

variable {r : Fin 128} {v : Word}

theorem bellSq_counts (h : s.bellOk r v = true) : s.bellSq r v = (s.bellNoted r v).modRing r fun q => { q with
      sqTail := v.toNat, dbAt := (s.bellNoted r v).now
      bells := bellsFor (s.bellNoted r v).now ((v.toNat + (s.bellNoted r v).depth r - q.sqHead) % (s.bellNoted r v).depth r) q.bells } := by
  obtain ⟨-, -, -, hok, -⟩ := noted_effect r (fun q => { q with dbSq := v }) (fun _ => rfl) s v
  exact if_pos (hok.trans h)

theorem bellSq_errs (h : s.bellOk r v = false) : s.bellSq r v = (s.bellNoted r v).count .cmdDbErr := by
  obtain ⟨-, -, -, hok, -⟩ := noted_effect r (fun q => { q with dbSq := v }) (fun _ => rfl) s v
  exact if_neg (by rw [hok, h]; simp)

theorem bellCq_counts (h : s.bellOk r v = true) : s.bellCq r v = (s.headNoted r v).modRing r fun q => { q with cqHead := v.toNat } := by
  obtain ⟨-, -, -, hok, -⟩ := noted_effect r (fun q => { q with dbCq := v }) (fun _ => rfl) s v
  exact if_pos (hok.trans h)

theorem bellCq_errs (h : s.bellOk r v = false) : s.bellCq r v = (s.headNoted r v).count .cmdDbErr := by
  obtain ⟨-, -, -, hok, -⟩ := noted_effect r (fun q => { q with dbCq := v }) (fun _ => rfl) s v
  exact if_neg (by rw [hok, h]; simp)

/-- A counter counts on from what it was. -/
theorem counted_of_rise {t : State} {x : Reg} {i : Nat} (hrise : cellsRise t.regs) (hreg : t.reg x i = s.reg x i) :
    ((t.count x i).reg x i).toNat = min ((s.reg x i).toNat + 1) 0xFFFFFFFF := by
  have hset : (t.count x i).reg x i = BitVec.ofNat 64 (min ((t.reg x i).toNat + 1) 0xFFFFFFFF) := regGet_regSet_same hrise _ _ _ _
  rw [hset, hreg, BitVec.toNat_ofNat]
  omega

theorem counted_of_regs {t : State} (hs : s.storesCanonical) (h : t.regs = s.regs) (x : Reg) (i : Nat) :
    ((t.count x i).reg x i).toNat = min ((s.reg x i).toNat + 1) 0xFFFFFFFF :=
  counted_of_rise (h ▸ regsRise_of_storesCanonical hs) (by rw [State.reg, h, State.reg])

/-- A write that is noted before it is found wrong counts once. -/
theorem dbErr_counts (hs : s.storesCanonical) (f : Ring → Ring) (ring : Nat) :
    ((((s.modRing r f).trace 0 7 ring 0).count .cmdDbErr).reg .cmdDbErr).toNat = min ((s.reg .cmdDbErr).toNat + 1) 0xFFFFFFFF :=
  counted_of_rise ((book_trace (s.modRing r f) 0 7 ring 0).regs (regsRise_of_storesCanonical hs)).1 (reg_trace _ _ _ _ _ (by decide))

end

/-! ### Pages in BAR2 -/

section
variable {s : State} {r : Nat} {off : Nat}

theorem bar2Write_err {w : AccessWidth} (h0 : off ≠ 0) (h4 : off ≠ 4) (v : DWord) : s.bar2Write r off w v = s.count .cmdDbErr := by
  unfold State.bar2Write
  rw [if_neg (fun h => h0 h.2), if_neg (fun h => h4 h.2)]

theorem bar2Read_err {w : AccessWidth} (h0 : off ≠ 0) (h4 : off ≠ 4) :
    s.bar2Read r off w = (s.count .cmdDbErr).modBus fun b => { b with readData := 0 } := by
  unfold State.bar2Read
  rw [if_neg (fun h => h0 h.2), if_neg (fun h => h4 h.2)]
  rfl

end

/-! ### Work items -/

/-- The lists of the command interface that change as a work item is queued. -/
structure ItemQueued (f : Flight) (k : WorkKind) (s t : State) : Prop where
  only : Only [.regs, .cmd] s t
  regs : RegsKept offSched s t
  ready : t.cmd.ready = s.cmd.ready ++ [{ level := s.level f.ring, kind := k, no := f.no }]
  flights : t.cmd.flights = s.cmd.flights.map fun x => if x.no = f.no then { x with work := k } else x
  rest : t.cmd.nextNo = s.cmd.nextNo ∧ t.cmd.handed = s.cmd.handed ∧ t.cmd.units = s.cmd.units
  ring : ∀ r, ∃ b, t.ring r = { s.ring r with bp := b }

/-- R328: a work item becomes ready where the deadline of its command has not passed. -/
theorem queueItem_queued {s : State} {f : Flight} (h : s.now ≤ f.deadline) (k : WorkKind) : ItemQueued f k s (s.queueItem f k) := by
  have heq : s.queueItem f k = State.backPressure (State.trace (s.modCmd fun c => { c with
      flights := c.flights.map fun x => if x.no = f.no then { x with work := k } else x
      ready := c.ready ++ [{ level := s.level f.ring, kind := k, no := f.no }] }) 2 7 f.ring f.seq) (s.level f.ring) f.ring f.seq :=
    if_neg (by omega)
  have hput : ∀ r, (s.modCmd fun c => { c with
      flights := c.flights.map fun x => if x.no = f.no then { x with work := k } else x
      ready := c.ready ++ [{ level := s.level f.ring, kind := k, no := f.no }] }).ring r = s.ring r := fun _ => rfl
  have honly : Only [.regs, .cmd] s (s.modCmd fun c => { c with
      flights := c.flights.map fun x => if x.no = f.no then { x with work := k } else x
      ready := c.ready ++ [{ level := s.level f.ring, kind := k, no := f.no }] }) := only_modCmd _ (Only.refl _ s) (by decide)
  have hbook (u : State) : Bookkept u (State.backPressure (u.trace 2 7 f.ring f.seq) (s.level f.ring) f.ring f.seq) :=
    (book_trace u 2 7 f.ring f.seq).trans (book_backPressure _ _ _ _)
  rw [heq]
  have hlast := hbook (s.modCmd fun c => { c with
      flights := c.flights.map fun x => if x.no = f.no then { x with work := k } else x
      ready := c.ready ++ [{ level := s.level f.ring, kind := k, no := f.no }] })
  generalize State.backPressure _ _ _ _ = t at *
  obtain ⟨hflights, hno, hhanded, hready, hunits⟩ := hlast.told.fields
  refine ⟨honly.trans hlast.only fun _ hp => hp, (kept_modCmd (.refl s) _).trans hlast.regs, hready, hflights, ⟨hno, hhanded, hunits⟩, fun r => ?_⟩
  obtain ⟨b, hb⟩ := hlast.ring r
  exact ⟨b, by rw [hb, hput]⟩

/-! ### Fetches -/

section
variable {s : State} {r : Fin 128}

/-- The command in flight that a fetch of a descriptor brings. -/
def State.fetched (s : State) (r : Fin 128) (d payload sig : Bytes) (bell : Nat) : Flight :=
  { no := s.cmd.nextNo, ring := r, desc := d, payload := payloadOf d payload, sig := padTo (pf d 28 4) sig, dbAt := bell
    deadline := s.now + 32000 * (if pf d 24 4 = 0 then (s.reg .cmdTimeoutDef).toNat else pf d 24 4) }

/-- The ring and the command list past a fetch. -/
def State.fetchPut (s : State) (r : Fin 128) (f : Flight) (bells : Ring → List (Nat × Nat)) : State :=
  (s.modRing r fun q => { q with sqHead := (q.sqHead + 1) % s.depth r, inFlight := q.inFlight + 1, bells := bells q }).modCmd fun c =>
    { c with flights := c.flights ++ [f], nextNo := c.nextNo + 1 }

theorem fetch_eq (d payload sig : Bytes) : ∃ bell bells, s.fetch r (some d) payload sig =
    ((s.fetchPut r (s.fetched r (padTo 128 d) payload sig bell) bells).trace 1 7 r (s.fetched r (padTo 128 d) payload sig bell).seq).queueItem
      (s.fetched r (padTo 128 d) payload sig bell) .parse := ⟨_, _, rfl⟩

theorem fetchPut_fields (f : Flight) (bells : Ring → List (Nat × Nat)) : Only [.cmd] s (s.fetchPut r f bells) ∧
    (s.fetchPut r f bells).cmd.flights = s.cmd.flights ++ [f] ∧ (s.fetchPut r f bells).cmd.nextNo = s.cmd.nextNo + 1 ∧
    (s.fetchPut r f bells).cmd.ready = s.cmd.ready ∧ (s.fetchPut r f bells).ring r =
      { s.ring r with sqHead := ((s.ring r).sqHead + 1) % s.depth r, inFlight := (s.ring r).inFlight + 1, bells := bells (s.ring r) } :=
  have hring (u : State) (g : CmdState → CmdState) (hg : (g u.cmd).rings = u.cmd.rings) : (u.modCmd g).ring r = u.ring r := by
    simp only [State.ring, State.modCmd, hg]
  ⟨only_modCmd _ (only_modRing _ _ (Only.refl _ s) (by decide)) (by decide), rfl, rfl, rfl,
    (hring _ _ rfl).trans (State.ring_modRing_same _ _ _ r.isLt)⟩

/-- R316, R317, R327: the command that a fetch brings, and what it does to its ring. -/
theorem fetch_effect (hs : s.storesCanonical) (d payload sig : Bytes) :
    ((s.fetch r (some d) payload sig).ring r).sqHead = ((s.ring r).sqHead + 1) % s.depth r ∧
    ((s.fetch r (some d) payload sig).ring r).inFlight = (s.ring r).inFlight + 1 ∧
    (s.fetch r (some d) payload sig).cmd.nextNo = s.cmd.nextNo + 1 ∧
    ∃ f ∈ (s.fetch r (some d) payload sig).cmd.flights, f.no = s.cmd.nextNo ∧ f.ring = r ∧ f.desc = padTo 128 d ∧
      f.payload = payloadOf (padTo 128 d) payload ∧ f.work = .parse ∧
      f.deadline = s.now + 32000 * (if pf (padTo 128 d) 24 4 = 0 then (s.reg .cmdTimeoutDef).toNat else pf (padTo 128 d) 24 4) ∧
      Queued f .parse s (s.fetch r (some d) payload sig) := by
  obtain ⟨bell, bells, heq⟩ := fetch_eq (s := s) (r := r) d payload sig
  have hdead : s.now ≤ (s.fetched r (padTo 128 d) payload sig bell).deadline := Nat.le_add_right _ _
  have hfields : (s.fetched r (padTo 128 d) payload sig bell).no = s.cmd.nextNo ∧ (s.fetched r (padTo 128 d) payload sig bell).ring = r ∧
    (s.fetched r (padTo 128 d) payload sig bell).desc = padTo 128 d ∧
    (s.fetched r (padTo 128 d) payload sig bell).payload = payloadOf (padTo 128 d) payload ∧
    (s.fetched r (padTo 128 d) payload sig bell).work = .parse ∧ (s.fetched r (padTo 128 d) payload sig bell).deadline =
      s.now + 32000 * (if pf (padTo 128 d) 24 4 = 0 then (s.reg .cmdTimeoutDef).toNat else pf (padTo 128 d) 24 4) :=
    ⟨rfl, rfl, rfl, rfl, rfl, rfl⟩
  rw [heq]
  generalize s.fetched r (padTo 128 d) payload sig bell = f at *
  obtain ⟨hno, hring, hdesc, hpayload, hwork, hdeadline⟩ := hfields
  obtain ⟨honly, hflights, hnext, hready, hslot⟩ := fetchPut_fields (s := s) (r := r) f bells
  generalize s.fetchPut r f bells = u at *
  have hbook := book_trace u 1 7 r f.seq
  generalize u.trace 1 7 r f.seq = v at *
  obtain ⟨hvf, hvn, -, hvr, -⟩ := hbook.told.fields
  have hvnow : v.now ≤ f.deadline := by rwa [hbook.only.keeps_now, honly.keeps_now]
  have hq := queueItem_queued hvnow .parse
  generalize v.queueItem f .parse = t at *
  obtain ⟨b, hb⟩ := hbook.ring r
  obtain ⟨b', hb'⟩ := hq.ring r
  have hlevel : v.level f.ring = s.level f.ring := by
    have hregs : u.regs = s.regs := honly.keeps_regs
    rw [State.level, (hbook.regs (by rw [hregs]; exact regsRise_of_storesCanonical hs)).2 _ _ _ (offSched_ringCfg f.ring), State.level, State.reg,
      hregs, State.reg]
  refine ⟨by rw [hb', hb, hslot], by rw [hb', hb, hslot], by rw [hq.rest.1, hvn, hnext], f, ?_, hno, hring, hdesc, hpayload, hwork, hdeadline,
    by rw [hq.ready, hvr, hready, hlevel], hostSame_of ?_⟩
  · rw [hq.flights, hvf, hflights, List.map_append]
    refine List.mem_append_right _ ?_
    simp [← hwork]
  · rw [hq.only.keeps_host, hbook.only.keeps_host, honly.keeps_host]

theorem execDescriptorFetch_may (h : s.mayFetch r = true) (desc : Option Bytes) (payload sig : Bytes) :
    execDescriptorFetch r desc payload sig s = .next (s.fetch r desc payload sig) := if_pos h

/-! ### Commands that end on the way -/

theorem slot_of_desk {t : State} (hregs : t.regs = s.regs) (hcmd : t.cmd = s.cmd) (hhost : t.host = s.host) : SameSlot r s t := by
  have hreg (x : Reg) (i j : Nat) : t.reg x i j = s.reg x i j := by rw [State.reg, hregs, State.reg]
  have hring : t.ring r = s.ring r := by rw [State.ring, hcmd, State.ring]
  exact ⟨hhost, by rw [State.cqSlot, hreg, hring, State.cqSlot], by rw [State.depth, hreg, State.depth], by rw [hring], by rw [hring], by rw [hring]⟩

theorem execPayloadReadFail_found {seq : DWord} {f : Flight}
    (h : s.cmd.flights.find? (fun f => f.ring = r && f.seq = seq && f.work = .parse) = some f) :
    execPayloadReadFail r seq s = .next (s.flightEnd f .error 0x80000010) := by
  unfold execPayloadReadFail
  rw [h]

theorem execCommandTimeout_found {seq : DWord} {f : Flight}
    (h : s.cmd.flights.find? (fun f => f.ring = r && f.seq = seq && s.cmd.ready.any fun w => w.no = f.no) = some f) :
    execCommandTimeout r seq s = .next ((s.advanceTo f.deadline).flightTimeout f) := by
  unfold execCommandTimeout
  rw [h]

/-- A command whose deadline has passed is traced and ends. -/
theorem ended_flightTimeout {t : State} (hs : s.storesCanonical) {f : Flight} (hslot : SameSlot f.ring s t) (hregs : cellsRise t.regs)
    (hflights : t.cmd.flights = s.cmd.flights) : Ended f .timeout 2 0 s (t.flightTimeout f) := by
  have hbook := book_trace t 0xA 7 f.ring f.seq
  exact ended_flightEnd hs (hbook.regs hregs).1 (hslot.trans (hbook.slot hregs)) (hbook.told.fields.1.trans hflights) .timeout 2

end

/-- Settles O47, by the writes of a doorbell page, by the command that a fetch brings, and by the entry of one that ends. -/
theorem ringsFetchWhatTheirDoorbellsName : Obligations.RingsFetchWhatTheirDoorbellsName := by
  refine ⟨?bell, ?page, ?pageHead, ?pageErr, ?read, ?readHead, ?readErr, ?head, ?bellErr, ?headErr, ?fetch, ?fault, ?idle, ?payload, ?late⟩
  case bell =>
    intro r v s hok
    obtain ⟨hring, hothers, hdepth, -, honly⟩ := noted_effect r (fun q => { q with dbSq := v }) (fun _ => rfl) s v
    have hnow := honly.keeps_now
    refine ⟨_, congrArg Host.Outcome.next (bellSq_counts hok), ?_, fun q hq => ?_, only_modRing _ _ honly (by decide)⟩
    · rw [State.ring_modRing_same _ _ _ r.isLt, State.bellNoted, hring, hdepth, hnow]
    · exact (State.ring_modRing_other _ _ _ _ fun h => hq (Fin.ext h)).trans (hothers q hq)
  case page =>
    intro r off v s hoff
    exact congrArg Host.Outcome.next (if_pos ⟨rfl, hoff⟩)
  case pageHead =>
    intro r off v s hoff
    refine congrArg Host.Outcome.next ((if_neg ?_).trans (if_pos ⟨rfl, hoff⟩))
    rintro ⟨-, h⟩
    exact absurd (hoff.symm.trans h) (by decide)
  case pageErr =>
    intro r off w v s hs h0 h4
    exact ⟨_, congrArg Host.Outcome.next (bar2Write_err h0 h4 v), counts_count hs .cmdDbErr 0⟩
  case read =>
    intro r off s hoff
    exact ⟨_, congrArg Host.Outcome.next (if_pos ⟨rfl, hoff⟩), rfl, only_modBus _ (Only.refl _ s) (by decide)⟩
  case readHead =>
    intro r off s hoff
    refine ⟨_, congrArg Host.Outcome.next ((if_neg ?_).trans (if_pos ⟨rfl, hoff⟩)), rfl, only_modBus _ (Only.refl _ s) (by decide)⟩
    rintro ⟨-, h⟩
    exact absurd (hoff.symm.trans h) (by decide)
  case readErr =>
    intro r off w s hs h0 h4
    exact ⟨_, congrArg Host.Outcome.next (bar2Read_err h0 h4), rfl, (counts_count hs .cmdDbErr 0).1,
      only_modBus _ (only_count _ _ _ (Only.refl _ s) (by decide)) (by decide)⟩
  case head =>
    intro r v s hok
    obtain ⟨hring, -, -, -, honly⟩ := noted_effect r (fun q => { q with dbCq := v }) (fun _ => rfl) s v
    refine ⟨_, congrArg Host.Outcome.next (bellCq_counts hok), ?_, only_modRing _ _ honly (by decide)⟩
    rw [State.ring_modRing_same _ _ _ r.isLt, State.headNoted, hring]
  case bellErr =>
    intro r v s hs hok
    obtain ⟨hring, -⟩ := noted_effect r (fun q => { q with dbSq := v }) (fun _ => rfl) s v
    exact ⟨_, congrArg Host.Outcome.next (bellSq_errs hok), hring, dbErr_counts hs _ _⟩
  case headErr =>
    intro r v s hs hok
    obtain ⟨hring, -⟩ := noted_effect r (fun q => { q with dbCq := v }) (fun _ => rfl) s v
    exact ⟨_, congrArg Host.Outcome.next (bellCq_errs hok), hring, dbErr_counts hs _ _⟩
  case fetch =>
    intro r d payload sig s hs hmay
    exact ⟨_, execDescriptorFetch_may hmay _ _ _, fetch_effect hs d payload sig⟩
  case fault =>
    intro r payload sig s hmay
    exact ⟨_, execDescriptorFetch_may hmay _ _ _, State.ring_modRing_same _ _ _ r.isLt, rfl, only_modRing _ _ (Only.refl _ s) (by decide)⟩
  case idle => exact fun r desc payload sig s hmay => if_neg (by rw [hmay]; simp)
  case payload =>
    intro r seq f s hs hfind
    exact ⟨_, execPayloadReadFail_found hfind, ended_flightEnd hs (regsRise_of_storesCanonical hs) (.refl s) rfl .error 0x80000010⟩
  case late =>
    intro r seq f s hs hfind
    have hslot : SameSlot f.ring s (s.advanceTo f.deadline) := slot_of_desk (by simp) (by simp) (by simp)
    have hnow : ((s.advanceTo f.deadline).flightTimeout f).now = (s.advanceTo f.deadline).now :=
      (only_flightTimeout (ps := [.regs, .cmd, .host]) _ f (Only.refl _ _) (by decide) (by decide) (by decide)).keeps_now
    exact ⟨_, execCommandTimeout_found hfind, ended_flightTimeout hs hslot (by simpa using regsRise_of_storesCanonical hs) (by simp),
      hnow ▸ le_now_advanceTo s f.deadline⟩

end Sys2Proof.Machine
end

section
/-! The arbiter grants its modules (R428, R429, Table TWN-1). -/

-- The proofs are elaborated one after the other: this bounds the threads of the compiler, whose stacks count as its memory.
set_option Elab.async false

namespace Sys2Proof.Machine

/-! ### Ports -/

section
variable {s t : State} {p : Nat}

theorem arbPort_modArbPort_same (hp : p < 2) (s : State) (f : ArbPort → ArbPort) : (s.modArbPort p f).arbPort p = f (s.arbPort p) :=
  vget_vset_same _ _ _ _ hp

theorem arbPort_modArbPort_other {q : Nat} (h : q ≠ p) (s : State) (f : ArbPort → ArbPort) : (s.modArbPort p f).arbPort q = s.arbPort q :=
  vget_vset_other _ _ _ _ _ h

theorem arbPort_of_ports (h : t.arb.ports = s.arb.ports) (p : Nat) : t.arbPort p = s.arbPort p := by rw [State.arbPort, h, State.arbPort]

/-- A grant begins a gap and leaves the ports alone. -/
theorem arbGrant_cases (s : State) : s.arbGrant = s ∨ ∃ q, s.arbGrant = s.modArb fun a => { a with bbm := q } := by
  unfold State.arbGrant
  split
  · exact .inl rfl
  · dsimp only
    split
    · exact .inr ⟨_, rfl⟩
    · exact .inl rfl

theorem arbGrant_effect (s : State) : (s.arbGrant).arb.ports = s.arb.ports ∧ Only [.arb] s s.arbGrant := by
  rcases arbGrant_cases s with h | ⟨q, h⟩
  · rw [h]
    exact ⟨rfl, .refl _ s⟩
  · rw [h]
    exact ⟨rfl, only_modArb _ _ (Only.refl _ s) (by decide)⟩

theorem arbNoReady_effect (s : State) : (s.arbNoReady).arb.ports = s.arb.ports ∧ (s.arbNoReady).arb.bbm = s.arb.bbm ∧
    Only [.arb] s s.arbNoReady := by
  unfold State.arbNoReady
  split
  · exact ⟨rfl, rfl, only_modArb _ _ (Only.refl _ s) (by decide)⟩
  · exact ⟨rfl, rfl, .refl _ s⟩

/-- A READY module is chosen where none is ACTIVE and the other one is not READY. -/
theorem arbGrant_ready (hp : p < 2) (hbbm : s.arb.bbm = none) (h0 : (s.arbPort 0).active = false) (h1 : (s.arbPort 1).active = false)
    (hready : (s.arbPort p).isReady = true) (hother : (s.arbPort (1 - p)).isReady = false) :
    s.arbGrant = s.modArb fun a => { a with bbm := some (Fin.ofNat 2 p, s.now) } := by
  unfold State.arbGrant
  rw [if_neg (by simp [hbbm, h0, h1])]
  obtain rfl | rfl : p = 0 ∨ p = 1 := by omega
  · simp only [hready, if_true]
  · simp only [show 1 - 1 = 0 from rfl] at hother
    simp only [hready, hother, if_true, Bool.false_eq_true, if_false]

end

/-! ### Pulses -/

section
variable {s : State} {p : Fin 2} {w : Nat}

/-- A port that has taken a valid pulse. -/
def State.pulseTaken (s : State) (p w : Nat) : State :=
  s.modArbPort p fun q => { q with width := w, lastAt := some s.now, failed := false, swapReq := w = 800 }

theorem execArbiterHbPulse_valid (hstrap : s.arb.strapped = true) (hvmgt : s.mgt.vmgt = true) (hw : hbDecode w ≠ 0) :
    execArbiterHbPulse p w s = .next (s.pulseTaken p (hbDecode w)).arbNoReady.arbGrant := by
  unfold execArbiterHbPulse
  exact if_neg (by simp [hstrap, hvmgt, hw])

theorem execArbiterHbPulse_void (h : s.arb.strapped = false ∨ s.mgt.vmgt = false ∨ hbDecode w = 0) : execArbiterHbPulse p w s = .next s := by
  unfold execArbiterHbPulse
  refine if_pos ?_
  rcases h with h | h | h <;> simp [h]

/-! ### Silence -/

/-- A port on which no pulse has come for HB_TO. -/
def State.portFails (s : State) (p t0 : Nat) : State :=
  (s.advanceTo (t0 + 3200 * s.lv .twnArbCfg 0 0 6 0)).modArbPort p fun q => { q with failed := true, swapReq := false }

theorem portFails_effect (s : State) (p : Fin 2) (t0 : Nat) : (s.portFails p t0).arbPort p = { s.arbPort p with failed := true, swapReq := false } ∧
    (s.portFails p t0).arbPort (1 - p.val) = s.arbPort (1 - p.val) ∧
    (s.portFails p t0).arb = { s.arb with ports := vset s.arb.ports p { s.arbPort p with failed := true, swapReq := false } } ∧
    t0 + 3200 * s.lv .twnArbCfg 0 0 6 0 ≤ (s.portFails p t0).now := by
  have hnow := le_now_advanceTo s (t0 + 3200 * s.lv .twnArbCfg 0 0 6 0)
  have harb : (s.advanceTo (t0 + 3200 * s.lv .twnArbCfg 0 0 6 0)).arb = s.arb := by simp
  unfold State.portFails
  generalize s.advanceTo (t0 + 3200 * s.lv .twnArbCfg 0 0 6 0) = u at *
  have hport (q : Nat) : u.arbPort q = s.arbPort q := arbPort_of_ports (by rw [harb]) q
  refine ⟨(arbPort_modArbPort_same p.isLt _ _).trans (by rw [hport]), (arbPort_modArbPort_other (by omega) _ _).trans (hport _), ?_, hnow⟩
  simp only [State.modArbPort, State.modArb, harb, hport]

theorem execArbiterHbTimeout_standby {t0 : Nat} (hstrap : s.arb.strapped = true) (hlast : (s.arbPort p).lastAt = some t0)
    (hfail : (s.arbPort p).failed = false) (hact : (s.arbPort p).active = false) : execArbiterHbTimeout p s = .next (s.portFails p t0) := by
  unfold execArbiterHbTimeout
  simp only [hlast, hstrap, hfail, hact, Bool.not_false, Bool.and_self, if_true, Bool.false_eq_true, if_false] <;> rfl

theorem execArbiterHbTimeout_active {t0 : Nat} (hstrap : s.arb.strapped = true) (hlast : (s.arbPort p).lastAt = some t0)
    (hfail : (s.arbPort p).failed = false) (hact : (s.arbPort p).active = true) : execArbiterHbTimeout p s =
    if ((s.portFails p t0).arbPort (1 - p.val)).isReady then .next ((s.portFails p t0).arbGap p (1 - p.val))
    else .next (((s.portFails p t0).modArbPort p fun q => { q with active := false, own := false }).arbGrant) := by
  unfold execArbiterHbTimeout
  simp only [hlast, hstrap, hfail, hact, Bool.not_false, Bool.and_self, if_true] <;> rfl

theorem execArbiterHbTimeout_void (h : s.arb.strapped = false ∨ (s.arbPort p).failed = true ∨ (s.arbPort p).lastAt = none) :
    execArbiterHbTimeout p s = .next s := by
  unfold execArbiterHbTimeout
  dsimp only
  split
  · next hlast =>
    refine if_neg ?_
    rcases h with h | h | h
    · simp [h]
    · simp [h]
    · simp [h] at hlast
  · rfl

theorem arbGap_effect (s : State) (p : Fin 2) (next : Nat) : (s.arbGap p next).arbPort p = { s.arbPort p with active := false, own := false } ∧
    (s.arbGap p next).arb.bbm = some (Fin.ofNat 2 next, s.now) ∧ Only [.arb] s (s.arbGap p next) :=
  ⟨vget_vset_same _ _ _ _ p.isLt, rfl, only_arbGap s p next (Only.refl _ s) (by decide)⟩

end

/-! ### Gaps and exchanges -/

section
variable {s : State}

/-- The gap has ended. -/
def State.gapEnded (s : State) (t0 : Nat) : State :=
  (s.advanceTo (t0 + 320 * s.lv .twnArbCfg 0 0 21 16)).modArb fun a => { a with bbm := none }

theorem gapEnded_effect (s : State) (t0 : Nat) : (∀ p, (s.gapEnded t0).arbPort p = s.arbPort p) ∧ (s.gapEnded t0).arb.bbm = none ∧
    t0 + 320 * s.lv .twnArbCfg 0 0 21 16 ≤ (s.gapEnded t0).now := by
  have hnow := le_now_advanceTo s (t0 + 320 * s.lv .twnArbCfg 0 0 21 16)
  have harb : (s.advanceTo (t0 + 320 * s.lv .twnArbCfg 0 0 21 16)).arb = s.arb := by simp
  unfold State.gapEnded
  generalize s.advanceTo (t0 + 320 * s.lv .twnArbCfg 0 0 21 16) = u at *
  exact ⟨fun p => arbPort_of_ports (by rw [← harb]; rfl) p, rfl, hnow⟩

theorem execArbiterBbmExpiry_gap {p : Fin 2} {t0 : Nat} (h : s.arb.bbm = some (p, t0)) : execArbiterBbmExpiry s =
    if ((s.gapEnded t0).arbPort p).failed then .next (s.gapEnded t0).arbGrant
    else .next (((s.gapEnded t0).modArbPort p fun x => { x with active := true, own := true }).modArb fun a => { a with everActive := true }) := by
  unfold execArbiterBbmExpiry
  rw [h] <;> rfl

theorem execArbiterBbmExpiry_none (h : s.arb.bbm = none) : execArbiterBbmExpiry s = .next s := by
  unfold execArbiterBbmExpiry
  rw [h]

variable {p : Fin 2}

theorem execArbiterSwapReq_swaps (hstrap : s.arb.strapped = true) (hact : (s.arbPort p).active = true) (hreq : (s.arbPort p).swapReq = true)
    (hfail : (s.arbPort p).failed = false) (hbbm : s.arb.bbm = none) (hready : (s.arbPort (1 - p.val)).isReady = true) :
    execArbiterSwapReq p s = .next ((s.modArbPort p fun q => { q with swapReq := false }).arbGap p (1 - p.val)) :=
  if_pos (by simp [hstrap, hact, hreq, hfail, hbbm, hready])

theorem execArbiterSwapReq_void (h : s.arb.strapped = false ∨ (s.arbPort p).active = false ∨ (s.arbPort p).swapReq = false ∨
    (s.arbPort (1 - p.val)).isReady = false) : execArbiterSwapReq p s = .next s := by
  refine if_neg ?_
  rcases h with h | h | h | h <;> simp [h]

end

/-- Settles O57, by what each event makes of the ports and of the gap. -/
theorem theArbiterGrantsOneModule : Obligations.TheArbiterGrantsOneModule := by
  refine ⟨?pulse, ?first, ?void, ?standby, ?active, ?silent, ?gap, ?noGap, ?swap, ?noSwap⟩
  case pulse =>
    intro p w s hstrap hvmgt hw
    refine ⟨_, execArbiterHbPulse_valid hstrap hvmgt hw, ?_⟩
    have honly : Only [.arb] s (s.pulseTaken p (hbDecode w)) := only_modArbPort _ _ _ (Only.refl _ s) (by decide)
    have hport : (s.pulseTaken p (hbDecode w)).arbPort p = { s.arbPort p with
        width := hbDecode w, lastAt := some s.now, failed := false, swapReq := decide (hbDecode w = 800) } :=
      arbPort_modArbPort_same p.isLt _ _
    generalize s.pulseTaken p (hbDecode w) = u at *
    obtain ⟨hports, -, hready⟩ := arbNoReady_effect u
    obtain ⟨hports', hgrant⟩ := arbGrant_effect u.arbNoReady
    exact ⟨(honly.trans hready fun _ hp => hp).trans hgrant fun _ hp => hp, by rw [arbPort_of_ports hports', arbPort_of_ports hports, hport]⟩
  case first =>
    intro p w s hstrap hvmgt hw hbbm h0 h1 hother
    refine ⟨_, execArbiterHbPulse_valid hstrap hvmgt (by rw [hw]; decide), ?_⟩
    have hport : (s.pulseTaken p (hbDecode w)).arbPort p = { s.arbPort p with
        width := hbDecode w, lastAt := some s.now, failed := false, swapReq := decide (hbDecode w = 800) } :=
      arbPort_modArbPort_same p.isLt _ _
    have hrest (q : Nat) (hq : q ≠ p) : (s.pulseTaken p (hbDecode w)).arbPort q = s.arbPort q := arbPort_modArbPort_other hq _ _
    have hfields : (s.pulseTaken p (hbDecode w)).arb.bbm = s.arb.bbm ∧ (s.pulseTaken p (hbDecode w)).now = s.now := ⟨rfl, rfl⟩
    generalize s.pulseTaken p (hbDecode w) = u at *
    obtain ⟨hports, hgap, hready⟩ := arbNoReady_effect u
    have hactive (q : Nat) (hq : (s.arbPort q).active = false) : (u.arbNoReady.arbPort q).active = false := by
      rw [arbPort_of_ports hports]
      by_cases hqp : q = p
      · rw [hqp, hport]
        exact hqp ▸ hq
      · rwa [hrest q hqp]
    rw [arbGrant_ready p.isLt (hgap.trans (hfields.1.trans hbbm)) (hactive 0 h0) (hactive 1 h1)
      (by rw [arbPort_of_ports hports, hport]; simp [ArbPort.isReady, hw]) (by rw [arbPort_of_ports hports, hrest _ (by omega), hother])]
    simp [State.modArb, hready.keeps_now, hfields]
  case void => exact fun p w s h => execArbiterHbPulse_void h
  case standby =>
    intro p t0 s hstrap hlast hfail hact
    obtain ⟨-, -, harb, hnow⟩ := portFails_effect s p t0
    exact ⟨_, execArbiterHbTimeout_standby hstrap hlast hfail hact, harb, hnow⟩
  case active =>
    intro p t0 s hstrap hlast hfail hact
    obtain ⟨hport, hother, -, -⟩ := portFails_effect s p t0
    have hexec := execArbiterHbTimeout_active hstrap hlast hfail hact
    generalize s.portFails p t0 = u at *
    by_cases hready : (s.arbPort (1 - p.val)).isReady = true
    · rw [if_pos (by rwa [hother])] at hexec
      obtain ⟨hgap, hbbm, honly⟩ := arbGap_effect u p (1 - p.val)
      refine ⟨_, hexec, by rw [hgap], by rw [hgap], by rw [hgap, hport], fun _ => ?_⟩
      rw [hbbm, honly.keeps_now]
    · rw [if_neg (by rwa [hother])] at hexec
      refine ⟨_, hexec, ?_⟩
      have hself := arbPort_modArbPort_same p.isLt u fun q => { q with active := false, own := false }
      beta_reduce
      rw [arbPort_of_ports (arbGrant_effect _).1, hself, hport]
      exact ⟨rfl, rfl, rfl, fun h => absurd h hready⟩
  case silent => exact fun p s h => execArbiterHbTimeout_void h
  case gap =>
    intro p t0 s hbbm
    have hexec := execArbiterBbmExpiry_gap hbbm
    obtain ⟨hport, hgap, hnow⟩ := gapEnded_effect s t0
    generalize s.gapEnded t0 = u at *
    rw [hport] at hexec
    by_cases hfail : (s.arbPort p).failed = true
    · rw [if_pos hfail] at hexec
      obtain ⟨hports, honly⟩ := arbGrant_effect u
      refine ⟨_, hexec, by rwa [honly.keeps_now], ?_⟩
      rw [if_pos hfail, arbPort_of_ports hports, hport]
    · rw [if_neg hfail] at hexec
      refine ⟨_, hexec, hnow, ?_⟩
      rw [if_neg hfail]
      have hkept (v : State) : (v.modArb fun a => { a with everActive := true }).arbPort p = v.arbPort p := rfl
      exact ⟨by rw [hkept, arbPort_modArbPort_same p.isLt, hport], rfl, hgap⟩
  case noGap => exact fun s h => execArbiterBbmExpiry_none h
  case swap =>
    intro p s hstrap hact hreq hfail hbbm
    by_cases hready : (s.arbPort (1 - p.val)).isReady = true
    · refine ⟨_, execArbiterSwapReq_swaps hstrap hact hreq hfail hbbm hready, ?_⟩
      beta_reduce
      rw [if_pos hready]
      have hself := arbPort_modArbPort_same p.isLt s fun q => { q with swapReq := false }
      have honly : Only [.arb] s (s.modArbPort p fun q => { q with swapReq := false }) := only_modArbPort _ _ _ (Only.refl _ s) (by decide)
      obtain ⟨hgap, hbbm', honly'⟩ := arbGap_effect (s.modArbPort p fun q => { q with swapReq := false }) p (1 - p.val)
      refine ⟨hgap.trans (by rw [hself]), hbbm'.trans (by rw [honly.keeps_now]), honly.trans honly' fun _ hp => hp⟩
    · exact ⟨_, execArbiterSwapReq_void (.inr (.inr (.inr (by simpa using hready)))), by beta_reduce; rw [if_neg hready]⟩
  case noSwap =>
    intro p s h
    exact execArbiterSwapReq_void (by tauto)

end Sys2Proof.Machine
end

section
/-! Plant trigger messages are published, judged and freed (R303, R305, R306, R351). -/

-- The proofs are elaborated one after the other: this bounds the threads of the compiler, whose stacks count as its memory.
set_option Elab.async false

namespace Sys2Proof.Machine

/-! ### Triggers on acquisition units -/

section
variable {s : State} {u : Nat} {bit detail : Nat} {nt : DWord}

theorem acqN_modAcq_same (hu : u < 8) (s : State) (f : AcqUnit → AcqUnit) : (s.modAcq u f).acqN u = f (s.acqN u) := vget_vset_same _ _ _ _ hu

theorem acqN_modAcq_other {v : Nat} (h : v ≠ u) (s : State) (f : AcqUnit → AcqUnit) : (s.modAcq u f).acqN v = s.acqN v :=
  vget_vset_other _ _ _ _ _ h

theorem acqN_of_acq {t : State} (h : t.acq = s.acq) (u : Nat) : t.acqN u = s.acqN u := by rw [State.acqN, h, State.acqN]

theorem acqTrig_other {v : Nat} (h : v ≠ u) (s : State) : (s.acqTrig u bit nt detail).acqN v = s.acqN v := by
  have hask (t : State) (x : DWord) : (t.ptmAsk 4 x 0).acqN v = t.acqN v :=
    acqN_of_acq (only_ptmAsk (ps := [.regs, .nt]) t 4 x 0 false (Only.refl _ t) (by decide) (by decide)).keeps_acq v
  unfold State.acqTrig
  dsimp only
  split
  · split
    · exact acqN_modAcq_other h _ _
    · exact (hask _ _).trans (acqN_modAcq_other h _ _)
  · split
    · exact acqN_modAcq_other h _ _
    · rfl

/-- R401: an ARMED unit accepts a trigger. -/
theorem acqTrig_armed (hu : u < 8) (h : (s.acqN u).st = .armed) :
    ((s.acqTrig u bit nt detail).acqN u).st = .triggered ∧ ((s.acqTrig u bit nt detail).acqN u).trigNt = nt := by
  have hask (t : State) (x : DWord) : (t.ptmAsk 4 x 0).acqN u = t.acqN u :=
    acqN_of_acq (only_ptmAsk (ps := [.regs, .nt]) t 4 x 0 false (Only.refl _ t) (by decide) (by decide)).keeps_acq u
  unfold State.acqTrig
  dsimp only
  rw [if_pos h]
  split
  · rw [acqN_modAcq_same hu]
    exact ⟨rfl, rfl⟩
  · rw [hask, acqN_modAcq_same hu]
    exact ⟨rfl, rfl⟩

/-- A trigger reaches every unit of a mask, once. -/
theorem acqTrigs_triggered {xs : List Nat} (hxs : xs.Nodup) (s : State) (bit : Nat) (nt : DWord) (detail : Nat) {u : Nat} (hu : u < 8) :
    if u ∈ xs then (s.acqN u).st = .armed →
      ((forNums xs (fun u s => s.acqTrig u bit nt detail) s).acqN u).st = .triggered ∧
      ((forNums xs (fun u s => s.acqTrig u bit nt detail) s).acqN u).trigNt = nt
    else (forNums xs (fun u s => s.acqTrig u bit nt detail) s).acqN u = s.acqN u := by
  have hkeep (ys : List Nat) (hy : u ∉ ys) (t : State) : (forNums ys (fun u s => s.acqTrig u bit nt detail) t).acqN u = t.acqN u :=
    holds_forNums (P := fun v => v.acqN u = t.acqN u) ys (fun i hi v hv => (acqTrig_other (ne_of_mem_of_not_mem hi hy).symm v).trans hv) rfl
  induction xs generalizing s with
  | nil => rw [if_neg (by simp)]; rfl
  | cons x xs ih =>
    obtain ⟨hx, hnodup⟩ := List.nodup_cons.mp hxs
    have hcons : forNums (x :: xs) (fun u s => s.acqTrig u bit nt detail) s =
        forNums xs (fun u s => s.acqTrig u bit nt detail) (s.acqTrig x bit nt detail) := rfl
    rw [hcons]
    by_cases hux : u = x
    · subst hux
      rw [if_pos (by simp), hkeep xs hx]
      exact fun h => acqTrig_armed hu h
    · have hrest := ih hnodup (s.acqTrig x bit nt detail)
      rw [acqTrig_other hux] at hrest
      simpa only [List.mem_cons, hux, false_or] using hrest

theorem acqTrigMask_triggered (s : State) (mask bit : Nat) (nt : DWord) (detail : Nat) :
    UnitsTriggered mask nt s (s.acqTrigMask mask bit nt detail) := fun u hu => by
  have h := acqTrigs_triggered (nodup_bitsIn 8 mask) s bit nt detail hu
  unfold State.acqTrigMask
  simpa only [mem_bitsIn, hu, true_and] using h

theorem only_acqTrigMask_parts (s : State) (mask bit : Nat) (nt : DWord) (detail : Nat) :
    Only [.regs, .nt, .acq] s (s.acqTrigMask mask bit nt detail) := by
  unfold State.acqTrigMask
  simp +contextual +decide only [only_forNums, only_acqTrig, Only.refl, implies_true]

end

/-! ### Publishing -/

section
variable {s : State}

theorem giveFrame_txq {p : Nat} (hp : p < 2) (s : State) (f : TxFrame) : ((s.giveFrame p f true).port p).txq = f :: (s.port p).txq :=
  congrArg EthPort.txq (vget_vset_same _ _ _ _ hp)

theorem giveFrame_other {p q : Nat} (h : q ≠ p) (s : State) (f : TxFrame) (urgent : Bool) : (s.giveFrame p f urgent).port q = s.port q :=
  vget_vset_other _ _ _ _ _ h

/-- A frame ahead of the others of both ports. -/
theorem giveBoth_urgent (s : State) (f : Bytes) : (∃ x, ((s.giveBoth f true).port 0).txq = x :: (s.port 0).txq) ∧
    ∃ x, ((s.giveBoth f true).port 1).txq = x :: (s.port 1).txq := by
  have hboth (t : State) (x y : TxFrame) (ht : ∀ p, t.port p = s.port p) :
      (∃ z, (((t.giveFrame 0 x true).giveFrame 1 y true).port 0).txq = z :: (s.port 0).txq) ∧
      ∃ z, (((t.giveFrame 0 x true).giveFrame 1 y true).port 1).txq = z :: (s.port 1).txq := by
    refine ⟨⟨x, ?_⟩, y, ?_⟩
    · rw [giveFrame_other (by decide), giveFrame_txq (by decide), ht]
    · rw [giveFrame_txq (by decide), giveFrame_other (by decide), ht]
  unfold State.giveBoth
  dsimp only
  split
  · exact hboth _ _ _ fun _ => rfl
  · exact hboth _ _ _ fun _ => rfl
  · exact hboth _ _ _ fun _ => rfl

/-- The events that wait, without the first. -/
def State.eventTaken (s : State) (rest : List PtmEvent) : State := s.modNt fun n => { n with events := rest }

/-- A message is on its way, and the hold-off begins. -/
def State.published (s : State) (frame : Bytes) : State :=
  ((s.giveBoth frame true).modNt fun n => { n with
    msgCount := s.nt.msgCount + 1
    holdoff := some ((s.giveBoth frame true).now + 32000000 * (s.giveBoth frame true).lv .ntPtmCtrl 0 0 31 24) }).count .ntPtmTxCnt

theorem ptmPublish_keyed {e : PtmEvent} {rest : List PtmEvent} {k : PlantKey} (h : s.ptmTxKey = some k) : ∃ frame,
    s.ptmPublish e rest = (s.eventTaken rest).published frame := by
  have hkey : (s.modNt fun n => { n with events := rest }).ptmTxKey = some k := h
  unfold State.ptmPublish
  dsimp only
  rw [hkey]
  exact ⟨_, rfl⟩

theorem ptmPublish_keyless {e : PtmEvent} {rest : List PtmEvent} (h : s.ptmTxKey = none) :
    s.ptmPublish e rest = (s.eventTaken rest).count .ntPtmSupprCnt := by
  have hkey : (s.modNt fun n => { n with events := rest }).ptmTxKey = none := h
  unfold State.ptmPublish
  dsimp only
  rw [hkey]
  rfl

theorem published_effect (s : State) (frame : Bytes) : (s.published frame).nt = { s.nt with
      msgCount := s.nt.msgCount + 1, holdoff := some (s.now + 32000000 * s.lv .ntPtmCtrl 0 0 31 24) } ∧
    (∃ x, ((s.published frame).port 0).txq = x :: (s.port 0).txq) ∧ (∃ x, ((s.published frame).port 1).txq = x :: (s.port 1).txq) ∧
    (s.storesCanonical → ((s.published frame).reg .ntPtmTxCnt).toNat = min ((s.reg .ntPtmTxCnt).toNat + 1) 0xFFFFFFFF) := by
  have honly := only_giveBoth (ps := [.eth]) s frame true (Only.refl _ s) (by decide)
  obtain ⟨hp, hq⟩ := giveBoth_urgent s frame
  unfold State.published
  generalize s.giveBoth frame true = t at *
  have hnow : t.now = s.now := honly.keeps_now
  have hlv : t.lv .ntPtmCtrl 0 0 31 24 = s.lv .ntPtmCtrl 0 0 31 24 := by rw [State.lv, honly.keeps_live, State.lv]
  have hport (f : NtState → NtState) (p : Nat) : ((t.modNt f).count .ntPtmTxCnt).port p = t.port p := rfl
  have hnt (f : NtState → NtState) : ((t.modNt f).count .ntPtmTxCnt).nt = f t.nt := rfl
  exact ⟨by rw [hnt, honly.keeps_nt, hnow, hlv], by simpa only [hport] using hp, by simpa only [hport] using hq,
    fun hs => counted_of_regs hs honly.keeps_regs .ntPtmTxCnt 0⟩

theorem execPtmPublish_waits {e : PtmEvent} {rest : List PtmEvent} (h : s.nt.events = e :: rest) :
    execPtmPublish s = .next (s.ptmPublish e rest) := by
  unfold execPtmPublish
  rw [h]

theorem execPtmPublish_none (h : s.nt.events = []) : execPtmPublish s = .next s := by
  unfold execPtmPublish
  rw [h]

theorem execPtmHoldoffEnd_held {t0 : Nat} (h : s.nt.holdoff = some t0) :
    execPtmHoldoffEnd s = .next ((s.advanceTo t0).modNt fun n => { n with holdoff := none }) := by
  unfold execPtmHoldoffEnd
  rw [h]

/-- A sender is freed at an instant. -/
def State.senderFreed (s : State) (n : Nat) (u : BitVec 16) : State :=
  (s.advanceTo n).modNt fun x => { x with senders := x.senders.filter fun x => x.unit != u }

theorem senderFreed_effect (s : State) (n : Nat) (u : BitVec 16) :
    (s.senderFreed n u).nt.senders = (s.nt.senders.filter fun x => x.unit != u) ∧ n ≤ (s.senderFreed n u).now := by
  obtain ⟨_, _, _, _, hnt⟩ := nt_advanceTo s n
  have hsenders : (s.advanceTo n).nt.senders = s.nt.senders := by rw [hnt]
  exact ⟨congrArg (List.filter fun y : PtmSender => y.unit != u) hsenders, le_now_advanceTo s n⟩

theorem execPtmSenderExpiry_silent {u : BitVec 16} {x : PtmSender} (h : s.nt.senders.find? (fun x => x.unit = u) = some x) :
    execPtmSenderExpiry u s = .next (s.senderFreed (x.at_ + 2764800000000000) u) := by
  unfold execPtmSenderExpiry
  rw [h]
  rfl

/-! ### Receiving -/

/-- The sender of an accepted message, as it is known from now on. -/
def State.ptmSender (s : State) (p : Bytes) : PtmSender :=
  { unit := BitVec.ofNat 16 (pf p 4 2), seq := BitVec.ofNat 64 (pf p 8 8), sendNt := BitVec.ofNat 64 (pf p 24 8), at_ := s.now }

/-- The sender of an accepted message stands first. -/
def State.senderNoted (s : State) (p : Bytes) : State :=
  (s.modNt fun n => { n with senders := s.ptmSender p :: n.senders.filter fun x => x.unit != BitVec.ofNat 16 (pf p 4 2) }).count .ntPtmRxCnt

theorem ptmReceive_off {p : Bytes} (h : s.lvb .ntPtmCtrl 0 0 1 = false) : s.ptmReceive p = s := if_pos (by simp [h])

variable {p : Bytes} (hon : s.lvb .ntPtmCtrl 0 0 1 = true)
include hon

theorem ptmReceive_rejects (h : p.length < 56 ∨ s.ptmAccepts p = false) : s.ptmReceive p = s.count .ntPtmRxRejCnt := by
  unfold State.ptmReceive
  rw [if_neg (by simp [hon])]
  refine if_pos ?_
  rcases h with h | h <;> simp [h]

theorem ptmReceive_accepts (h : ¬ (p.length < 56 ∨ s.ptmAccepts p = false)) : s.ptmReceive p =
    (s.senderNoted p).acqTrigMask ((s.senderNoted p).lv .ntPtmCtrl 0 0 23 16) 10 (BitVec.ofNat 64 (pf p 16 8)) (BitVec.ofNat 16 (pf p 4 2)).toNat := by
  unfold State.ptmReceive
  rw [if_neg (by simp [hon]), if_neg (by simpa using h)]
  rfl

end

/-- Settles O46, by the event that is published or counted, and by the checks that a received message passes or not. -/
theorem plantTriggersAreSentAndJudged : Obligations.PlantTriggersAreSentAndJudged := by
  refine ⟨?publish, ?keyless, ?quiet, ?holdoff, ?receive, ?off, ?expiry⟩
  case publish =>
    intro e rest k s hs hevents hkey
    obtain ⟨frame, hpub⟩ := ptmPublish_keyed (e := e) (rest := rest) hkey
    refine ⟨_, execPtmPublish_waits hevents, ?_⟩
    beta_reduce
    rw [hpub]
    obtain ⟨hnt, hp, hq, hcount⟩ := published_effect (s.eventTaken rest) frame
    have hcanon : (s.eventTaken rest).storesCanonical :=
      storesCanonical_of_only (only_modNt _ (Only.refl [.nt] s) (by decide)) hs
    exact ⟨by rw [hnt]; rfl, by rw [hnt]; rfl, by rw [hnt]; rfl, hcount hcanon, hp, hq⟩
  case keyless =>
    intro e rest s hs hevents hkey
    refine ⟨_, execPtmPublish_waits hevents, ?_⟩
    beta_reduce
    rw [ptmPublish_keyless hkey]
    exact ⟨rfl, rfl, (counts_count hs .ntPtmSupprCnt 0).1⟩
  case quiet => exact fun s h => execPtmPublish_none h
  case holdoff =>
    intro t0 s h
    exact ⟨_, execPtmHoldoffEnd_held h, le_now_advanceTo s t0, rfl⟩
  case receive =>
    intro p s hs hon
    by_cases h : p.length < 56 ∨ s.ptmAccepts p = false
    · refine ⟨_, congrArg Host.Outcome.next (ptmReceive_rejects hon h), ?_⟩
      beta_reduce
      rw [if_pos h]
      exact counts_count hs .ntPtmRxRejCnt 0
    · refine ⟨_, congrArg Host.Outcome.next (ptmReceive_accepts hon h), ?_⟩
      beta_reduce
      rw [if_neg h]
      have hmask : (s.senderNoted p).lv .ntPtmCtrl 0 0 23 16 = s.lv .ntPtmCtrl 0 0 23 16 := rfl
      rw [hmask]
      have hclock : DeskClock (s.senderNoted p) ((s.senderNoted p).acqTrigMask (s.lv .ntPtmCtrl 0 0 23 16) 10 (BitVec.ofNat 64 (pf p 16 8))
          (BitVec.ofNat 16 (pf p 4 2)).toNat) := dclock_forNums _ _ (fun u _ hu => dclock_acqTrig hu u 10 _ _) (.refl _)
      obtain ⟨-, ev, hev⟩ := hclock
      exact ⟨⟨s.ptmSender p, s.nt.senders.filter fun x => x.unit != BitVec.ofNat 16 (pf p 4 2), by rw [hev]; rfl, rfl, rfl, rfl, rfl⟩,
        acqTrigMask_triggered (s.senderNoted p) _ _ _ _⟩
  case off => exact fun p s h => congrArg Host.Outcome.next (ptmReceive_off h)
  case expiry =>
    intro u x s h
    obtain ⟨hsenders, hnow⟩ := senderFreed_effect s (x.at_ + 2764800000000000) u
    exact ⟨_, execPtmSenderExpiry_silent h, hsenders, hnow⟩

end Sys2Proof.Machine
end

section
/-! Spore slots: loads, cancels, latching and the read of a record (R296 to R298, R301, R307, Table NT-4). -/

-- The proofs are elaborated one after the other: this bounds the threads of the compiler, whose stacks count as its memory.
set_option Elab.async false

namespace Sys2Proof.Machine

/-! ### Loads -/

section
variable {s : State} {c : Src} {p : Bytes}

/-- A load whose instant has passed. -/
def State.loadLate (s : State) (p : Bytes) : Bool := BitVec.ofNat 64 (pf p 8 8) != 0 && decide (BitVec.ofNat 64 (pf p 8 8) ≤ s.nt64)

/-- A late load is counted. -/
def State.lateCounted (s : State) (p : Bytes) : State := if s.loadLate p = true then s.count .ntSporeLateCnt else s

/-- The spore of a load. -/
def State.loadedSpore (s : State) (c : Src) (p : Bytes) : Spore := {
  action := pb p 1, lateOk := (pb p 2).testBit 0, late := s.loadLate p, instant := BitVec.ofNat 64 (pf p 8 8), args := padTo 32 (p.drop 16)
  acceptAt := (s.lateCounted p).acceptedAt c, wroteAt := (s.lateCounted p).now }

/-- A load fills its slot. -/
def State.slotLoaded (s : State) (c : Src) (p : Bytes) : State :=
  (s.lateCounted p).modNt fun n => { n with slots := vset n.slots (pb p 0) (some (s.loadedSpore c p)) }

theorem only_lateCounted (s : State) (p : Bytes) : Only [.regs] s (s.lateCounted p) := by
  unfold State.lateCounted
  split
  · exact only_count _ _ _ (Only.refl _ s) (by decide)
  · exact Only.refl _ s

theorem sameDesk_lateCounted (hs : cellsRise s.regs) (p : Bytes) : SameDesk s (s.lateCounted p) := by
  unfold State.lateCounted
  split
  · exact sameDesk_count hs _ _ _ (by unfold onDesk; decide)
  · exact .refl s

theorem sporeLoad_refused {st : Status} {d : Nat} (h : c.applyAt ≠ 0 ∧ st = .checkFail ∧ d = 8 ∨
    c.applyAt = 0 ∧ s.slotPending (pb p 0) = true ∧ st = .error ∧ d = 1 ∨
    c.applyAt = 0 ∧ s.slotPending (pb p 0) = false ∧ s.sporeCheck p = some d ∧ st = .checkFail) :
    s.sporeLoad c p = s.refuse c 0x0701 st d := by
  unfold State.sporeLoad
  dsimp only
  rcases h with ⟨h, rfl, rfl⟩ | ⟨h, hp, rfl, rfl⟩ | ⟨h, hp, hc, rfl⟩
  · rw [if_pos h]
  · rw [if_neg (not_not.mpr h), if_pos hp]
  · rw [if_neg (not_not.mpr h), if_neg (by simp [hp]), hc]

section
variable (happly : c.applyAt = 0) (hfree : s.slotPending (pb p 0) = false) (hcheck : s.sporeCheck p = none)
include happly hfree hcheck

theorem sporeLoad_late (hlate : s.loadLate p = true) (hok : (pb p 2).testBit 0 = false) :
    s.sporeLoad c p = (s.lateCounted p).refuse c 0x0701 .late 0 := by
  unfold State.sporeLoad
  dsimp only
  rw [if_neg (not_not.mpr happly), if_neg (by simp [hfree]), hcheck]
  refine if_pos ?_
  rw [← State.loadLate, hlate, hok]
  rfl

theorem sporeLoad_fills (h : s.loadLate p = false ∨ (pb p 2).testBit 0 = true) :
    s.sporeLoad c p = (s.slotLoaded c p).done c 0x0701 := by
  unfold State.sporeLoad
  dsimp only
  rw [if_neg (not_not.mpr happly), if_neg (by simp [hfree]), hcheck]
  refine if_neg ?_
  rw [← State.loadLate]
  rcases h with h | h <;> simp [h]

end

end

/-! ### Cancels -/

theorem slotDue_took (s : State) (c : Src) (x : Spore) : (s.took c).slotDue x = s.slotDue x := by rw [took_eq_desk]; rfl

/-- Does a cancel empty a slot: one that its mask names and that has not become due (R298)? -/
def State.cancels (s : State) (p : Bytes) (i : Nat) : Bool :=
  (pb p (i / 8)).testBit (i % 8) && (vget s.nt.slots i none).any fun x => !s.slotDue x

/-- The slots after a cancel. -/
def State.slotsLeft (s : State) (p : Bytes) : Vector (Option Spore) 256 :=
  ((List.range 256).filter (s.cancels p)).foldl (fun v i => vset v i none) s.nt.slots

theorem sporeCancel_empties {s : State} {c : Src} {p : Bytes} (h : c.applyAt = 0) : s.sporeCancel c p =
    (s.modNt fun n => { n with slots := s.slotsLeft p }).done c 0x0702 ((List.range 256).filter (s.cancels p)).length :=
  if_neg (not_not.mpr h)

theorem slotsLeft_slot (s : State) (p : Bytes) {i : Nat} (hi : i < 256) : vget (s.slotsLeft p) i none =
    if (pb p (i / 8)).testBit (i % 8) then (vget s.nt.slots i none).filter s.slotDue else vget s.nt.slots i none := by
  unfold State.slotsLeft
  rw [vget_foldl_vset none none _ _ i hi]
  have hmem : i ∈ (List.range 256).filter (s.cancels p) ↔ s.cancels p i = true := by simp [hi]
  rw [if_congr hmem rfl rfl]
  unfold State.cancels
  by_cases hbit : (pb p (i / 8)).testBit (i % 8) = true
  · rw [if_pos hbit, hbit, Bool.true_and]
    cases vget s.nt.slots i none with
    | none => rfl
    | some x => cases hdue : s.slotDue x <;> simp [hdue, Option.filter]
  · rw [if_neg hbit, if_neg (by simp [hbit])]

/-! ### Latching -/

section
variable (s : State)

/-- A slot of the batch that is latched. -/
def State.dueSlot (s : State) (i : Nat) : Option DueSlot :=
  (vget s.nt.slots i none).map fun p => { slot := i, spore := p, same := decide (1 < s.dueSlots.length) }

/-- The batch that is latched. -/
def State.dueBatch (s : State) : List DueSlot := s.dueSlots.filterMap s.dueSlot

theorem latchBatch_none (h : s.dueSlots = []) : s.latchBatch = s := if_pos h

theorem latchBatch_nt (h : s.dueSlots ≠ []) : s.latchBatch.nt =
    { s.nt with slots := s.dueSlots.foldl (fun v i => vset v i none) s.nt.slots, batches := s.nt.batches ++ [s.dueBatch] } := by
  unfold State.latchBatch
  exact congrArg State.nt (if_neg h)

theorem mem_dueSlots (i : Nat) : i ∈ s.dueSlots ↔ i < 256 ∧ ∃ x, vget s.nt.slots i none = some x ∧ s.slotDue x = true := by
  unfold State.dueSlots
  rw [List.mem_filter, List.mem_range]
  cases vget s.nt.slots i none <;> simp

theorem slotDue_latchBatch (x : Spore) : s.latchBatch.slotDue x = s.slotDue x := by
  unfold State.latchBatch
  dsimp only
  split <;> rfl

/-- Every due slot stands in the batch, under its own number. -/
theorem dueSlot_of_mem {i : Nat} (h : i ∈ s.dueSlots) : ∃ x, vget s.nt.slots i none = some x ∧
    s.dueSlot i = some { slot := i, spore := x, same := decide (1 < s.dueSlots.length) } := by
  obtain ⟨_, x, hx, _⟩ := (mem_dueSlots s i).mp h
  exact ⟨x, hx, by simp [State.dueSlot, hx]⟩

theorem dueBatch_slots : s.dueBatch.map DueSlot.slot = s.dueSlots := by
  unfold State.dueBatch
  rw [List.map_filterMap]
  calc s.dueSlots.filterMap (fun i => (s.dueSlot i).map DueSlot.slot)
      = s.dueSlots.filterMap some := List.filterMap_congr fun i hi => by
        obtain ⟨x, _, hx⟩ := dueSlot_of_mem s hi
        rw [hx]
        rfl
    _ = s.dueSlots := List.filterMap_some

theorem dueBatch_length : s.dueBatch.length = s.dueSlots.length := by rw [← dueBatch_slots s, List.length_map]

theorem dueBatch_same {d : DueSlot} (h : d ∈ s.dueBatch) : d.same = decide (1 < s.dueBatch.length) := by
  obtain ⟨i, hi, hd⟩ := List.mem_filterMap.mp h
  obtain ⟨x, _, hx⟩ := dueSlot_of_mem s hi
  obtain rfl : _ = d := Option.some.inj (hx.symm.trans hd)
  rw [dueBatch_length]

theorem dueSlots_ordered : s.dueSlots.Pairwise (· < ·) := List.pairwise_lt_range.filter _

theorem latchBatch_batches : s.latchBatch.nt.batches = s.nt.batches ∨
    ∃ b, s.latchBatch.nt.batches = s.nt.batches ++ [b] ∧ (b.map DueSlot.slot).Pairwise (· < ·) ∧
      ∀ d ∈ b, d.same = decide (1 < b.length) := by
  by_cases h : s.dueSlots = []
  · exact .inl (by rw [latchBatch_none s h])
  · refine .inr ⟨s.dueBatch, by rw [latchBatch_nt s h], ?_, fun d hd => dueBatch_same s hd⟩
    rw [dueBatch_slots]
    exact dueSlots_ordered s

theorem latchBatch_slot {i : Nat} (hi : i < 256) {x : Spore} (hx : vget s.nt.slots i none = some x) :
    if s.latchBatch.slotDue x = true then vget s.latchBatch.nt.slots i none = none ∧
      ∃ b ∈ s.latchBatch.nt.batches, ∃ d ∈ b, d.slot = i ∧ d.spore = x
    else vget s.latchBatch.nt.slots i none = some x := by
  rw [slotDue_latchBatch]
  have hmem : i ∈ s.dueSlots ↔ s.slotDue x = true := by rw [mem_dueSlots]; simp [hi, hx]
  by_cases hdue : s.slotDue x = true
  · have hin : i ∈ s.dueSlots := hmem.mpr hdue
    rw [if_pos hdue, latchBatch_nt s (List.ne_nil_of_mem hin)]
    refine ⟨(vget_foldl_vset none none _ _ i hi).trans (if_pos hin), s.dueBatch, by simp, ?_⟩
    obtain ⟨y, hy, hslot⟩ := dueSlot_of_mem s hin
    exact ⟨_, List.mem_filterMap.mpr ⟨i, hin, hslot⟩, rfl, Option.some.inj (hy.symm.trans hx)⟩
  · rw [if_neg hdue]
    have hout : i ∉ s.dueSlots := fun hin => hdue (hmem.mp hin)
    by_cases h : s.dueSlots = []
    · rw [latchBatch_none s h, hx]
    · rw [latchBatch_nt s h]
      exact ((vget_foldl_vset none none _ _ i hi).trans (if_neg hout)).trans hx

end

theorem execSporeDue_reached {s : State} {t0 : Nat} (h : s.sporeCycle = some t0) : execSporeDue s = .next (s.advanceTo t0).latchBatch := by
  unfold execSporeDue
  rw [h]

/-- Settles O43, by the checks of a load, the slots that a cancel empties and those that a batch takes. -/
theorem sporeSlotsFillAndFallDue : Obligations.SporeSlotsFillAndFallDue := by
  refine ⟨?load, ?refused, ?cancel, ?cancelTimed, ?due, ?read⟩
  case load =>
    intro c p s hs hadm happly hfree hcheck hlate
    have hlate' : (s.took c).loadLate p = false ∨ (pb p 2).testBit 0 = true := by
      rw [State.loadLate, nt64_took]
      rcases hlate with h | h | h
      · simp [h]
      · exact .inl (by simp [BitVec.not_le.mpr h])
      · exact .inr h
    have hcheck' : (s.took c).sporeCheck p = none := by rw [← hcheck]; unfold State.sporeCheck; simp
    refine ⟨_, congrArg Host.Outcome.next (obey_of_admits hadm _), ?_⟩
    beta_reduce
    rw [sporeLoad_fills happly (by simpa [State.slotPending] using hfree) hcheck' hlate']
    have hrise : cellsRise (s.took c).regs := by simpa using regsRise_of_storesCanonical hs
    have hcnt := only_lateCounted (s.took c) p
    have hsame : SameDesk (s.took c) ((s.took c).slotLoaded c p) :=
      (sameDesk_lateCounted hrise p).trans (.of_only (only_modNt _ (Only.refl [.nt] _) (by decide)) (by decide))
    have haccept : ((s.took c).lateCounted p).acceptedAt c = s.acceptedAt c := by
      rw [← acceptedAt_took s c, State.acceptedAt, hcnt.keeps_mgt, hcnt.keeps_cmd, hcnt.keeps_now, State.acceptedAt]
    have hnow : ((s.took c).lateCounted p).now = s.now := by rw [hcnt.keeps_now]; simp
    have hnt : ((s.took c).slotLoaded c p).nt =
        { s.nt with slots := vset s.nt.slots (pb p 0) (some ((s.took c).loadedSpore c p)) } := by
      have hkeep : ((s.took c).lateCounted p).nt = s.nt := by rw [hcnt.keeps_nt]; simp
      unfold State.slotLoaded
      rw [State.modNt, hkeep]
    have hnt64 : ((s.took c).slotLoaded c p).nt64 = s.nt64 := by rw [State.nt64, hnt, State.nt64]
    refine ⟨⟨(s.took c).loadedSpore c p, by rw [(done_fields _ c 0x0701 0).2.2.2.2.2.2.2.2.2.2.2.2.2.2.1]; exact hnt, rfl, rfl, ?_, rfl, rfl, haccept, hnow⟩, ?_⟩
    · exact congrArg (fun v => BitVec.ofNat 64 (pf p 8 8) != 0 && decide (BitVec.ofNat 64 (pf p 8 8) ≤ v)) (nt64_took s c)
    · rw [← hnt64]
      exact answered_complete hs hsame _
  case refused =>
    intro c p st d s hs hadm h
    refine ⟨_, congrArg Host.Outcome.next (obey_of_admits hadm _), ?_⟩
    beta_reduce
    have hcheck : (s.took c).sporeCheck p = s.sporeCheck p := by unfold State.sporeCheck; simp
    have hslot : (s.took c).slotPending (pb p 0) = s.slotPending (pb p 0) := by simp [State.slotPending]
    rcases h with h | h | h | ⟨happly, hfree, hnone, hne, hle, hok, rfl, rfl⟩
    · rw [sporeLoad_refused (.inl h)]
      exact ⟨by simp, answered_refuse hs (.refl _)⟩
    · rw [sporeLoad_refused (.inr (.inl (by rwa [hslot])))]
      exact ⟨by simp, answered_refuse hs (.refl _)⟩
    · rw [sporeLoad_refused (.inr (.inr (by rwa [hslot, hcheck])))]
      exact ⟨by simp, answered_refuse hs (.refl _)⟩
    · have hlate : (s.took c).loadLate p = true := by rw [State.loadLate, nt64_took]; simpa using ⟨hne, hle⟩
      rw [sporeLoad_late happly (by rwa [hslot]) (by rwa [hcheck]) hlate hok]
      have hrise : cellsRise (s.took c).regs := by simpa using regsRise_of_storesCanonical hs
      exact ⟨by simp [(only_lateCounted _ _).keeps_nt], answered_refuse hs (sameDesk_lateCounted hrise p)⟩
  case cancel =>
    intro c p s hs hadm happly
    refine ⟨_, congrArg Host.Outcome.next (obey_of_admits hadm _), ?_⟩
    beta_reduce
    rw [sporeCancel_empties happly]
    have hcancels : (s.took c).cancels p = s.cancels p := funext fun i => by simp only [State.cancels, took_fields, slotDue_took]
    have hslots : (s.took c).slotsLeft p = s.slotsLeft p := by unfold State.slotsLeft; rw [hcancels]; simp
    rw [hcancels, hslots]
    refine ⟨fun i hi => ?_, by simp, ?_⟩
    · rw [← slotsLeft_slot s p hi]
      simp
    · rw [← nt64_took s c]
      exact answered_complete hs (.of_only (only_modNt _ (Only.refl [.nt] _) (by decide)) (by decide)) _
  case cancelTimed =>
    intro c p s hs hadm happly
    refine ⟨_, congrArg Host.Outcome.next (obey_of_admits hadm _), ?_⟩
    have hrefuse : (s.took c).sporeCancel c p = (s.took c).refuse c 0x0702 .checkFail 8 := if_pos happly
    beta_reduce
    rw [hrefuse]
    exact ⟨by simp, answered_refuse hs (.refl _)⟩
  case due =>
    intro t0 s h
    obtain ⟨_, _, _, _, hnt⟩ := nt_advanceTo s t0
    have hslots : (s.advanceTo t0).nt.slots = s.nt.slots := by rw [hnt]
    have hbatches : (s.advanceTo t0).nt.batches = s.nt.batches := by rw [hnt]
    have hnow : t0 ≤ (s.advanceTo t0).now := le_now_advanceTo s t0
    have honly : Only [.nt] (s.advanceTo t0) (s.advanceTo t0).latchBatch := only_latchBatch _ (Only.refl _ _) (by decide)
    refine ⟨_, execSporeDue_reached h, by rw [honly.keeps_now]; exact hnow, ?_, fun i hi x hx => ?_⟩
    · rw [← hbatches]
      exact latchBatch_batches _
    · exact latchBatch_slot _ hi (by rwa [hslots])
  case read =>
    intro s
    refine ⟨_, rfl, rfl, only_execNtSporeRecRead s (Only.refl [.nt, .bus] s) (by decide) (by decide) _ rfl, ?_⟩
    have hword : s.sporeRecRead.sporeRecWord 0 = match s.nt.recs.head? with
        | some r => BitVec.ofNat 64 (pf r.bytes 0 4)
        | none => 0 := rfl
    refine hword.trans ?_
    cases s.nt.recs <;> rfl

end Sys2Proof.Machine
end

section
/-! Lost references, CLK_REACQUIRE and the restart of outputs (R270, R274, R275, R280, Table CLK-4, Table CLK-6). -/

-- The proofs are elaborated one after the other: this bounds the threads of the compiler, whose stacks count as its memory.
set_option Elab.async false

namespace Sys2Proof.Machine

/-! ### What the operations of the loop make of it -/

section
variable (s : State)

@[simp] theorem clkEvent_clk (n : Nat) : (s.clkEvent n).clk = s.clk := (only_clkEvent (ps := [.regs, .log]) s n (Only.refl _ s) (by decide) (by decide)).keeps_clk

@[simp] theorem refuses_clk {α : Type} (l : List α) (src : α → Src) (op : Nat) (d : α → Nat) :
    (l.foldl (fun s p => s.refuse (src p) op .error (d p)) s).clk = s.clk := (only_refuses l src op d s).keeps_clk

/-- The loop after its entry to COASTING. -/
def ClkState.coasted (c : ClkState) (now : Nat) (fresh : Bool) : ClkState :=
  let word := if fresh then clampInt (tune c.ctrl - 1000) (tune c.ctrl + 1000) c.mean else c.frozen
  { c with
    st := .coasting, frozen := word, ctrl := word, slewErr := 0, lockRun := 0, badRun := 0, stepWait := []
    coastAt := if c.st = .jumpWait then c.coastAt else now
    lockedOfs := if c.st = .locked then tune c.ctrl else c.lockedOfs }

@[simp] theorem coast_clk (fresh : Bool) : (s.coast fresh).clk = s.clk.coasted s.now fresh :=
  refuses_clk (s.modClk fun c => c.coasted s.now fresh) s.clk.stepWait id 0x0804 fun _ => 2

@[simp] theorem restart2_clk (at_ : Nat) : (s.restart2 at_).clk = { s.clk with restartAt := at_ } := by
  have hdump (u : State) : u.dumpAlign.clk = u.clk := (only_dumpAlign (ps := [.regs, .meas]) u (Only.refl _ u) (by decide) (by decide)).keeps_clk
  unfold State.restart2
  dsimp only
  split
  · exact hdump _
  · rfl

/-- The outputs of a mask restart; every other one keeps its instant. -/
theorem restart_outAt (c : ClkState) (mask : BitVec 8) (at_ : Nat) {k : Nat} (hk : k < 8) :
    vget (c.restart mask at_).outAt k 0 = if mask.getLsbD k then at_ else vget c.outAt k 0 := by
  have hfold (ks : List Nat) (v : Vector Nat 8) : vget (ks.foldl (fun v k => if mask.getLsbD k then vset v k at_ else v) v) k 0 =
      if k ∈ ks ∧ mask.getLsbD k = true then at_ else vget v k 0 := by
    induction ks generalizing v with
    | nil => simp
    | cons i ks ih =>
      rw [List.foldl_cons, ih]
      by_cases hi : k = i
      · subst hi
        cases hb : mask.getLsbD k <;> simp [vget_vset_same _ _ _ _ hk]
      · cases mask.getLsbD i <;> simp [hi, vget_vset_other _ _ _ _ _ hi]
  exact (hfold _ _).trans (by simp [hk])

end

/-! ### A lost reference -/

section
variable {s : State}

theorem refLost_effect (s : State) : s.refLost.clk.present = false ∧ s.refLost.clk.refSince = none ∧ s.refLost.clk.edges = 0 ∧
    s.refLost.clk.running = s.clk.running ∧
    s.refLost.clk.st = if s.clk.st = .acquire ∨ s.clk.st = .locked ∧ s.clk.refActive ≠ s.refSel then s.clk.st else .coasting := by
  have hloop : (s.modClk fun c => c.unqualify s.refSel).clk = s.clk.unqualify s.refSel := rfl
  have hsel : (s.modClk fun c => c.unqualify s.refSel).refSel = s.refSel := rfl
  unfold State.refLost
  dsimp only
  generalize (s.modClk fun c => c.unqualify s.refSel) = u at *
  have hst : u.clk.st = s.clk.st := (congrArg ClkState.st hloop :)
  have hact : u.clk.refActive = s.clk.refActive := (congrArg ClkState.refActive hloop :)
  have hfields : u.clk.present = false ∧ u.clk.refSince = none ∧ u.clk.edges = 0 ∧ u.clk.running = s.clk.running := by
    rw [hloop]
    exact ⟨rfl, rfl, rfl, rfl⟩
  rw [hst, hact, hsel]
  obtain ⟨hp, hr, he, hrun⟩ := hfields
  cases hloop : s.clk.st with
  | locked =>
    by_cases h : s.clk.refActive = s.refSel
    · simp [h, ClkState.coasted, hp, hr, he, hrun]
    · simp [h, hp, hr, he, hrun, hst, hloop]
  | acquire => simp [hp, hr, he, hrun, hst, hloop]
  | coasting => simp [hp, hr, he, hrun, hst, hloop]
  | slewing => simp [ClkState.coasted, hp, hr, he, hrun]
  | jumpWait => simp [ClkState.coasted, hp, hr, he, hrun]

theorem only_refLost_parts (s : State) : Only (.clk :: .log :: answerParts) s s.refLost :=
  only_refLost s (Only.refl _ s) (by decide) (by decide) (by decide) (by decide) (by decide) (by decide) (by decide)

@[simp] theorem halt_clk (s : State) (cause : Nat) : (s.halt cause).clk = s.clk := (only_halt_parts s cause).keeps_clk

@[simp] theorem halt_now (s : State) (cause : Nat) : (s.halt cause).now = s.now := (only_halt_parts s cause).keeps_now

theorem halt_enters {s : State} (cause : Nat) (hst : s.ops.st ≠ .halted) (hoff : s.ops.st ≠ .off) :
    (s.halt cause).ops.st = .halted ∧ (s.halt cause).ops.cause = cause := by
  rw [(halt_effect hst hoff).1]
  exact ⟨rfl, rfl⟩

/-- The instants before which the loss condition of Table CLK-2 does not hold. -/
theorem atLoss_now (s : State) : (s.refSel = 2 → s.clk.edgeAt + 32032000000 ≤ s.atLoss.now) ∧
    (s.refSel = 0 → s.clk.badSince = none → s.clk.edgeAt + 6400 ≤ s.atLoss.now) ∧
    (s.refSel = 1 → s.clk.badSince = none → s.clk.edgeAt + 32000 ≤ s.atLoss.now) := by
  unfold State.atLoss
  refine ⟨fun h => ?_, fun h hbad => ?_, fun h hbad => ?_⟩
  · simp only [h, ne_eq, not_true_eq_false, decide_false, Bool.false_and, Bool.false_eq_true, if_false]
    exact le_now_advanceTo s _
  · simp only [h, hbad, Option.any_none, Bool.and_false, Bool.false_eq_true, if_false]
    exact le_now_advanceTo s _
  · simp only [h, hbad, Option.any_none, Bool.and_false, Bool.false_eq_true, if_false]
    exact le_now_advanceTo s _

theorem only_atLoss_time (s : State) : Only [.now, .nt] s s.atLoss := only_atLoss s (Only.refl _ s) (by decide) (by decide)

theorem execReferenceLost_selected (h : s.refSel ≠ 3) :
    execReferenceLost s = .next (if s.refSel = 0 then s.atLoss.refLost.halt 0x22 else s.atLoss.refLost) := by
  have hsel : s.atLoss.refLost.refSel = s.refSel := by
    rw [State.refSel, State.lv, (only_refLost_parts _).keeps_live, (only_atLoss_time s).keeps_live, State.refSel, State.lv]
  unfold execReferenceLost
  rw [if_neg h]
  dsimp only
  rw [hsel]

theorem setFlag_bit {s : State} (hs : cellsRise s.regs) (r : Reg) (i : Nat) {n : Nat} (hn : n < 64) :
    ((s.setFlag r i n).reg r i).getLsbD n = true := by
  have hreg : (s.setFlag r i n).reg r i = s.reg r i ||| BitVec.ofNat 64 (2 ^ n) := regGet_regSet_same hs r i 0 _
  rw [hreg, BitVec.getLsbD_or, BitVec.getLsbD_ofNat, Nat.testBit_two_pow_self]
  simp [hn]

theorem acqLate_selftest (h : s.ops.st = .selftest) : s.acqLate = (s.setFlag .glbSelftest 0 4).halt 0x20 := if_pos h

theorem acqLate_other (h : s.ops.st ≠ .selftest) : s.acqLate = s.setFlag .glbSelftest 0 4 := if_neg h

end

/-! ### CLK_REACQUIRE -/

section
variable {s : State} {c : Src} {p : Bytes}

theorem reacquire_refused {st : Status} {d : Nat} (h : 1 < pb p 0 ∧ st = .checkFail ∧ d = 3 ∨
    pb p 0 ≤ 1 ∧ s.clk.st ≠ .jumpWait ∧ st = .error ∧ d = 2 ∨ pb p 0 = 1 ∧ s.clk.st = .jumpWait ∧ s.tbsStopped = false ∧ st = .error ∧ d = 1) :
    s.reacquire c p = s.refuse c 0x0804 st d := by
  unfold State.reacquire
  rcases h with ⟨h, rfl, rfl⟩ | ⟨h, hst, rfl, rfl⟩ | ⟨h, hst, htb, rfl, rfl⟩
  · rw [if_pos h]
  · rw [if_neg (by omega), if_pos hst]
  · rw [if_neg (by omega), if_neg (not_not.mpr hst), if_neg (by omega), if_pos (by simp [htb])]

theorem reacquire_slews (hp : pb p 0 = 0) (hst : s.clk.st = .jumpWait) (hwait : s.clk.stepWait = []) :
    s.reacquire c p = (s.modClk fun k => { k.beginSlew s.now with stepWait := [] }).done c 0x0804 := by
  unfold State.reacquire
  rw [if_neg (by omega), if_neg (not_not.mpr hst), if_pos hp, hwait]
  rfl

theorem reacquire_steps (hp : pb p 0 = 1) (hst : s.clk.st = .jumpWait) (htb : s.tbsStopped = true) :
    s.reacquire c p = s.modClk fun k => { k with stepWait := k.stepWait ++ [c] } := by
  unfold State.reacquire
  rw [if_neg (by omega), if_neg (not_not.mpr hst), if_neg (by omega), if_neg (by simp [htb])]

theorem tbsStopped_iff (s : State) : s.tbsStopped = true ↔ ∀ t < 16, (s.tb t).run = .stopped := by simp [State.tbsStopped]

end

/-! ### Restarts -/

/-- The changed outputs restart at a CTL tick. -/
def State.outputsRestarted (s : State) : State :=
  (s.advanceTo (Machine.ctlTick s.clk.strobeAt)).modClk fun c => { c.restart s.clk.strobe (Machine.ctlTick s.clk.strobeAt) with
    running := (c.running &&& ~~~ s.clk.strobe) ||| (BitVec.ofNat 8 s.enabledOutputs &&& s.clk.strobe), strobe := 0 }

theorem execOutputRestart_changed {s : State} (hstrobe : s.clk.strobe ≠ 0) (hst : s.clk.st ≠ .acquire) :
    execOutputRestart s = .next (if (s.clk.strobe.getLsbD 2 && s.outputsRestarted.clk.running.getLsbD 2) = true then
      s.outputsRestarted.restart2 (ctlTick s.clk.strobeAt) else s.outputsRestarted) := by
  have hclk : (s.advanceTo (ctlTick s.clk.strobeAt)).clk = s.clk := by simp
  have hlive : (s.advanceTo (ctlTick s.clk.strobeAt)).enabledOutputs = s.enabledOutputs := by simp [State.enabledOutputs]
  unfold execOutputRestart
  rw [if_neg (not_or.mpr ⟨hstrobe, hst⟩)]
  dsimp only
  rw [hclk, hlive]
  rfl

theorem outputsRestarted_clk (s : State) : s.outputsRestarted.clk = { s.clk.restart s.clk.strobe (ctlTick s.clk.strobeAt) with
    running := (s.clk.running &&& ~~~ s.clk.strobe) ||| (BitVec.ofNat 8 s.enabledOutputs &&& s.clk.strobe), strobe := 0 } := by
  have hclk : (s.advanceTo (ctlTick s.clk.strobeAt)).clk = s.clk := by simp
  unfold State.outputsRestarted
  rw [State.modClk, hclk]

theorem outputsRestarted_now (s : State) : ctlTick s.clk.strobeAt ≤ s.outputsRestarted.now := le_now_advanceTo s _

/-- Settles O41, by the states of the loop in which each event comes. -/
theorem lostReferencesAndReacquisition : Obligations.LostReferencesAndReacquisition := by
  refine ⟨?network, ?lost, ?lateSelftest, ?lateLater, ?locked, ?tcxo, ?slews, ?steps, ?refused, ?restart, ?still⟩
  case network => exact fun s h => if_pos h
  case lost =>
    intro s h
    refine ⟨_, execReferenceLost_selected h, ?_⟩
    beta_reduce
    have hclk (a : State) : (if s.refSel = 0 then a.halt 0x22 else a).clk = a.clk := by split <;> simp
    have hnow (a : State) : (if s.refSel = 0 then a.halt 0x22 else a).now = a.now := by split <;> simp
    obtain ⟨hp, hr, he, hrun, hst⟩ := refLost_effect s.atLoss
    obtain ⟨h2, h0, h1⟩ := atLoss_now s
    have htime := only_atLoss_time s
    have hsel : s.atLoss.refSel = s.refSel := by rw [State.refSel, State.lv, htime.keeps_live, State.refSel, State.lv]
    rw [htime.keeps_clk] at hrun
    rw [htime.keeps_clk, hsel] at hst
    rw [hclk, hnow, (only_refLost_parts s.atLoss).keeps_now]
    refine ⟨hp, hr, he, hrun, h2, h0, h1, fun hsel hhalt hoff => ?_, hst⟩
    have hops : s.atLoss.refLost.ops = s.ops := by rw [(only_refLost_parts _).keeps_ops, htime.keeps_ops]
    rw [if_pos hsel]
    exact halt_enters 0x22 (by rwa [hops]) (by rwa [hops])
  case lateSelftest =>
    intro s hacq hst
    have hops : (s.advanceTo s.acqEnd).ops = s.ops := by simp
    have hnow := le_now_advanceTo s s.acqEnd
    refine ⟨_, if_pos hacq, ?_⟩
    beta_reduce
    generalize s.advanceTo s.acqEnd = u at *
    rw [acqLate_selftest (by rw [hops, hst])]
    have hflag : Only [.regs] u (u.setFlag .glbSelftest 0 4) := only_setFlag _ _ _ (Only.refl _ u) (by decide)
    obtain ⟨hst', hcause⟩ := halt_enters (s := u.setFlag .glbSelftest 0 4) 0x20
      (by rw [hflag.keeps_ops, hops, hst]; decide) (by rw [hflag.keeps_ops, hops, hst]; decide)
    refine ⟨hst', hcause, ?_⟩
    rw [halt_now, hflag.keeps_now]
    exact hnow
  case lateLater =>
    intro s hs hacq hst
    have hops : (s.advanceTo s.acqEnd).ops = s.ops := by simp
    have hnow := le_now_advanceTo s s.acqEnd
    have hrise : cellsRise (s.advanceTo s.acqEnd).regs := by simpa using regsRise_of_storesCanonical hs
    have honly : Only [.now, .nt, .regs] s (s.advanceTo s.acqEnd) := (only_advanceTo_time s _).mono (by decide)
    refine ⟨_, if_pos hacq, ?_⟩
    beta_reduce
    generalize s.advanceTo s.acqEnd = u at *
    rw [acqLate_other (by rwa [hops])]
    have hflag : Only [.regs] u (u.setFlag .glbSelftest 0 4) := only_setFlag _ _ _ (Only.refl _ u) (by decide)
    refine ⟨setFlag_bit hrise .glbSelftest 0 (by decide), ?_, only_setFlag _ _ _ honly (by decide)⟩
    rw [hflag.keeps_now]
    exact hnow
  case locked => exact fun s h => if_neg h
  case tcxo =>
    intro s hhalt hoff
    have hops : (if s.refSel = 0 then s.refLost else s).ops = s.ops := by
      split
      · exact (only_refLost_parts s).keeps_ops
      · rfl
    obtain ⟨hst, hcause⟩ := halt_enters (s := if s.refSel = 0 then s.refLost else s) 0x22 (by rwa [hops]) (by rwa [hops])
    refine ⟨_, rfl, hst, hcause, fun hsel hlock hact => ?_⟩
    obtain ⟨-, -, -, -, hloop⟩ := refLost_effect s
    rw [halt_clk, if_pos hsel, hloop]
    exact if_neg (by simp [hlock, hact, hsel])
  case slews =>
    intro c p s hs hadm hp hst hwait
    refine ⟨_, congrArg Host.Outcome.next (obey_of_admits hadm _), ?_⟩
    beta_reduce
    rw [reacquire_slews hp (by simpa using hst) (by simpa using hwait)]
    refine ⟨?_, by simp [State.modClk, ClkState.beginSlew], ?_⟩
    · simp [State.modClk, ClkState.beginSlew, hwait]
    · rw [← nt64_took s c]
      exact answered_complete hs (.of_only (only_modClk _ (Only.refl [.clk] _) (by decide)) (by decide)) _
  case steps =>
    intro c p s hadm hp hst hstop
    refine ⟨_, congrArg Host.Outcome.next (obey_of_admits hadm _), ?_⟩
    beta_reduce
    have htb : (s.took c).tbsStopped = true := (tbsStopped_iff _).mpr (by simpa [State.tb] using hstop)
    rw [reacquire_steps hp (by simpa using hst) htb]
    refine ⟨by simp [State.modClk], only_modClk _ ((only_took_cmd s c).mono (by decide)) (by decide)⟩
  case refused =>
    intro c p st d s hs hadm h
    refine ⟨_, congrArg Host.Outcome.next (obey_of_admits hadm _), ?_⟩
    beta_reduce
    have hnot : (∃ t < 16, (s.tb t).run ≠ .stopped) → (s.took c).tbsStopped = false := fun ⟨t, ht, hrun⟩ =>
      Bool.eq_false_iff.mpr fun hall => hrun (by simpa [State.tb] using (tbsStopped_iff _).mp hall t ht)
    have h' : 1 < pb p 0 ∧ st = .checkFail ∧ d = 3 ∨ pb p 0 ≤ 1 ∧ (s.took c).clk.st ≠ .jumpWait ∧ st = .error ∧ d = 2 ∨
        pb p 0 = 1 ∧ (s.took c).clk.st = .jumpWait ∧ (s.took c).tbsStopped = false ∧ st = .error ∧ d = 1 := by
      rw [(by simp : (s.took c).clk = s.clk)]
      exact h.imp_right (Or.imp_right fun ⟨hp, hst, hrun, hend⟩ => ⟨hp, hst, hnot hrun, hend⟩)
    rw [reacquire_refused h']
    exact ⟨by simp, answered_refuse hs (.refl _)⟩
  case restart =>
    intro s hstrobe hst
    refine ⟨_, execOutputRestart_changed hstrobe hst, ?_⟩
    beta_reduce
    have hnow := outputsRestarted_now s
    have hclk := outputsRestarted_clk s
    have hout (k : Nat) (hk : k < 8) := restart_outAt s.clk s.clk.strobe (ctlTick s.clk.strobeAt) hk
    generalize s.outputsRestarted = u at *
    split
    next h =>
      have honly : Only [.regs, .meas, .clk] u (u.restart2 (ctlTick s.clk.strobeAt)) :=
        only_restart2 u _ (Only.refl _ u) (by decide) (by decide) (by decide)
      rw [restart2_clk, honly.keeps_now, hclk]
      exact ⟨rfl, rfl, hnow, hout, fun _ _ => rfl⟩
    next h =>
      refine ⟨by rw [hclk], by rw [hclk], hnow, by rw [hclk]; exact hout, fun hbit hrun => ?_⟩
      exact absurd (by simp [hbit, hrun]) h
  case still => exact fun s h => if_pos h

end Sys2Proof.Machine
end

section
/-! GLB_SELFTEST and TWN_SWITCH_CNT on the way to HALTED and STOPPING: the entries note and count elsewhere, so that the item of the ADPLL
stays failed (Table OPS-5). -/

-- The proofs are elaborated one after the other: this bounds the threads of the compiler, whose stacks count as its memory.
set_option Elab.async false

namespace Sys2Proof.Machine

theorem RegsKept.mono {A A' : Nat → Prop} {s t : State} (h : RegsKept A' s t) (hA : ∀ a, A a → A' a) : RegsKept A s t := fun hs =>
  ⟨(h hs).1, fun r i j ha => (h hs).2 r i j (hA _ ha)⟩

/-- GLB_SELFTEST and TWN_SWITCH_CNT stay as they are. -/
abbrev SelftestKept : State → State → Prop := RegsKept fun a => a = 0x408 ∨ a = 0x110010

theorem SelftestKept.reg {s t : State} (h : SelftestKept s t) (hs : cellsRise s.regs) : t.reg .glbSelftest = s.reg .glbSelftest :=
  (h hs).2 .glbSelftest 0 0 (.inl rfl)

section
variable {s0 s : State} (h : SelftestKept s0 s)
include h

theorem selftest_of_desk {t : State} (ht : DeskRegs s t) : SelftestKept s0 t := h.trans (ht.mono fun a ha => by unfold onDesk; omega)

theorem selftest_complete (c : Src) (op : Nat) (st : Status) (d : Nat) (at_ : DWord) : SelftestKept s0 (s.complete c op st d at_) :=
  h.trans ((kept_complete c op st d at_ (.refl s)).mono fun a ha => by unfold offCompletion; omega)

theorem selftest_refuses {α : Type} (l : List α) (src : α → Src) (op : Nat) (d : α → Nat) :
    SelftestKept s0 (l.foldl (fun s p => s.refuse (src p) op .error (d p)) s) :=
  holds_foldl (P := SelftestKept s0) l (fun _ p _ hu => selftest_complete hu (src p) op .error (d p) 0) h

theorem selftest_dropStarts (d : Nat) : SelftestKept s0 (s.dropStarts d) := by
  unfold State.dropStarts State.dropStartsIf
  exact selftest_refuses (kept_modOps h _) _ PendOp.src 0x0611 _

theorem selftest_haltPending (d : PendOp → Nat) : SelftestKept s0 (s.haltPending d) := by
  have hstarts := selftest_refuses (s := s.modOps fun o => { o with starts := [] }) (kept_modOps h _) s.ops.starts PendOp.src 0x0611 d
  unfold State.haltPending State.dropStartsIf
  dsimp only
  exact selftest_refuses (kept_modOps hstarts _) _ PendOp.src 0x0612 fun _ => 4

theorem selftest_enginesStop : SelftestKept s0 s.enginesStop :=
  h.trans (enginesStop_quiet (by decide) (by decide) ⟨Only.refl _ s, .refl s, rfl⟩).regs

theorem selftest_haltEntered (cause : Nat) : SelftestKept s0 (s.haltEntered cause) := by
  have hpend := selftest_haltPending (selftest_enginesStop (kept_enter h (by decide) .halted cause)) fun p => if s.startHere p then 4 else 3
  unfold State.haltEntered
  exact kept_modTwn hpend _

theorem selftest_stopChannels : SelftestKept s0 s.stopChannels := by
  have hoff : SelftestKept s0 (s.turnOffAll true).expectOff := kept_of_only (l := [.pwm])
    (only_expectOff _ (Only.refl _ _) (by decide)) (selftest_of_desk h (desk_turnOffAll true (.refl s)))
  unfold State.stopChannels
  dsimp only
  generalize (s.turnOffAll true).expectOff = u at *
  have hforce := kept_forNums (List.range 192) (fun n s => s.modChan n fun c => { c with force := if c.force = some true then none else c.force })
    (fun n v hv => kept_of_only (l := [.pwm]) (only_modChan n _ (Only.refl _ v) (by decide)) hv) hoff
  exact selftest_of_desk hforce (desk_forceLows _ _ (.refl _))

theorem selftest_haltOutputs : SelftestKept s0 s.haltOutputs := by
  have hpulses := kept_forNums (List.range 192) (fun n s => s.modChan n fun c => { c with pendA := none, pendB := none })
    (fun n v hv => kept_of_only (l := [.pwm]) (only_modChan n _ (Only.refl _ v) (by decide)) hv) h
  unfold State.haltOutputs
  exact kept_ite (kept_ite (kept_modTwn h _) (kept_ite h (kept_modTwn hpulses _))) (selftest_stopChannels h)

theorem selftest_ostGuard (k : Nat) : SelftestKept s0 (s.ostGuard k) := by
  have hended : SelftestKept s0 (s.modGs k fun g => { g with ost := .none }).ostComplete :=
    holds_foldl (P := SelftestKept s0) _ (fun _ _ _ hu => selftest_complete hu _ _ _ _ _) (kept_of_regs (s := s) rfl h)
  unfold State.ostGuard State.ostAbort State.fltStanding
  generalize (s.modGs k fun g => { g with ost := .none }).ostComplete = u at *
  exact kept_ite h (kept_ite (kept_ite (selftest_of_desk hended (dclock_gdlTrip (DeskClock.refl u) k 0 3 0 0).1) hended) h)

theorem selftest_haltOff : SelftestKept s0 s.haltOff :=
  kept_forNums _ _ (fun k _ hu => selftest_ostGuard hu k) (selftest_haltOutputs h)

theorem selftest_discardSpores : SelftestKept s0 s.discardSpores := by
  have hslot (i : Nat) (u : State) (hu : SelftestKept s0 u) : SelftestKept s0 (u.sporeDiscard i) := by
    unfold State.sporeDiscard
    split
    · exact kept_sporeRecord (kept_modNt hu _) (by decide) (by decide) _
    · exact hu
  have hslots := kept_forNums (List.range 256) (fun i s => s.sporeDiscard i) hslot h
  unfold State.discardSpores
  exact kept_foldl _ _ (fun _ _ _ hu => kept_sporeRecord hu (by decide) (by decide) _) (kept_modNt hslots _)

theorem selftest_haltDrop : SelftestKept s0 s.haltDrop := by
  have hcommits : SelftestKept s0 s.dropCommits := by
    unfold State.dropCommits
    dsimp only
    exact selftest_refuses (kept_modStg h _) _ PendCommit.src 0x0204 fun _ => 4
  have hspores := selftest_discardSpores hcommits
  unfold State.haltDrop
  dsimp only
  generalize s.dropCommits.discardSpores = u at *
  exact kept_of_regs (s := u) rfl hspores

end

/-- An entry to HALTED that stops no cores leaves GLB_SELFTEST as it is. -/
theorem selftest_halt (s : State) {cause : Nat} (hcause : ¬ (cause = 0x23 ∨ cause = 0x24)) : SelftestKept s (s.halt cause) := by
  by_cases hst : s.ops.st = .halted ∨ s.ops.st = .off
  · rw [halt_of_halted cause hst]
    exact .refl s
  · rw [halt_eq (fun h => hst (.inl h)) (fun h => hst (.inr h)), if_neg hcause]
    have hoff := selftest_haltOff (selftest_haltEntered (.refl s) cause)
    exact selftest_haltDrop (kept_of_only (only_haltDemand _) hoff)

/-- Once it has failed, the item of the ADPLL stays so (Table CLK-3). -/
theorem acqLate_failed {s : State} (hs : cellsRise s.regs) : cellsRise s.acqLate.regs ∧ (s.acqLate.reg .glbSelftest).getLsbD 4 = true := by
  have hrise : cellsRise (s.setFlag .glbSelftest 0 4).regs := cellsRise_write hs
  have hbit := setFlag_bit hs .glbSelftest 0 (n := 4) (by decide)
  unfold State.acqLate
  dsimp only
  generalize s.setFlag .glbSelftest 0 4 = u at *
  split
  · have hkept := selftest_halt u (cause := 0x20) (by decide)
    rw [hkept.reg hrise]
    exact ⟨(hkept hrise).1, hbit⟩
  · exact ⟨hrise, hbit⟩

end Sys2Proof.Machine
end

section
/-! REFERENCE_COMPARISON, by the state of the loop (R272, R273, R277 to R280, Table CLK-2, Table CLK-3). -/

-- The proofs are elaborated one after the other: this bounds the threads of the compiler, whose stacks count as its memory.
set_option Elab.async false

namespace Sys2Proof.Machine

/-! ### A comparison is noted and measured -/

section
variable {s : State} {err e : Int} {p good : Bool}

/-- What a comparison tells of the reference, in the loop. -/
def State.refNoted (s : State) (present good : Bool) : ClkState := { s.clk with
  present := s.clk.present || present, qualified := s.clk.qualified || s.qualifies (present && good)
  refSince := if present && good then s.clk.refSince.or (some s.now) else none
  edges := if present && good then s.clk.edges + 1 else 0
  edgeAt := if present then s.now else s.clk.edgeAt
  badSince := if !present then s.clk.badSince else if good then none else s.clk.badSince.or (some s.now) }

theorem noteRef_clk : (s.noteRef p good).clk = s.refNoted p good := rfl

/-- The error that a comparison has measured is kept. -/
def State.errKept (s : State) (e : Int) : State :=
  s.modClk fun c => { c with err := e, lockRun := if e.natAbs ≤ s.lockTol then c.lockRun + 1 else 0, cmpAt := s.now }

theorem loopError_clk (s : State) (ref : Nat) (e : Int) : ∃ word hist ref', (s.loopError ref e).clk = { s.clk with
      err := e, lockRun := if e.natAbs ≤ s.lockTol then s.clk.lockRun + 1 else 0, cmpAt := s.now, ctrl := word, hist := hist, refActive := ref' } ∧
    (s.clk.st = .coasting ∨ s.clk.st = .jumpWait → word = s.clk.ctrl) := by
  have heq : s.loopError ref e = if s.clk.st = .acquire ∨ s.clk.st = .locked ∨ s.clk.st = .slewing then
      (s.errKept e).modClk fun c => { c with
        ctrl := tune (Config.loopFilter ref c.ctrl e), hist := (tune (Config.loopFilter ref c.ctrl e) :: c.hist).take 64, refActive := ref }
      else s.errKept e := rfl
  rw [heq]
  split
  next h => exact ⟨_, _, _, rfl, fun h' => by rcases h' with h' | h' <;> simp [h'] at h⟩
  next h => exact ⟨_, _, _, rfl, fun _ => rfl⟩

/-- The state after a comparison that the loop uses: the reference is noted and the error measured. -/
def State.measured (s : State) (ref : Nat) (e : Int) (present good : Bool) : State := (s.noteRef present good).loopError ref e

theorem only_measured (s : State) (ref : Nat) (e : Int) (p good : Bool) : Only [.clk] s (s.measured ref e p good) :=
  only_loopError _ _ _ (only_noteRef s p good (Only.refl _ s) (by decide)) (by decide)

/-- What a comparison leaves of the loop, whatever its state. -/
theorem measured_clk (s : State) (ref : Nat) (e : Int) (p good : Bool) : (s.measured ref e p good).clk.st = s.clk.st ∧
    (s.measured ref e p good).clk.err = e ∧ (s.measured ref e p good).clk.running = s.clk.running ∧
    (s.measured ref e p good).clk.lockRun = (if e.natAbs ≤ s.lockTol then s.clk.lockRun + 1 else 0) ∧
    (s.measured ref e p good).clk.badRun = s.clk.badRun ∧ (s.measured ref e p good).clk.nsOfs = s.clk.nsOfs ∧
    (s.measured ref e p good).clk.slewErr = s.clk.slewErr ∧ (s.measured ref e p good).clk.slewAt = s.clk.slewAt ∧
    (s.measured ref e p good).clk.stepWait = s.clk.stepWait ∧ (s.measured ref e p good).clk.acqAt = s.clk.acqAt ∧
    (s.clk.st = .coasting ∨ s.clk.st = .jumpWait → (s.measured ref e p good).clk.ctrl = s.clk.ctrl) := by
  obtain ⟨word, hist, ref', hclk, hword⟩ := loopError_clk (s.noteRef p good) ref e
  unfold State.measured
  rw [hclk]
  exact ⟨rfl, rfl, rfl, rfl, rfl, rfl, rfl, rfl, rfl, rfl, hword⟩

section
variable (ref : Nat) (e : Int) (p good : Bool)

@[simp] theorem measured_lockTol : (s.measured ref e p good).lockTol = s.lockTol := by
  rw [State.lockTol, State.lv, (only_measured s ref e p good).keeps_live, State.lockTol, State.lv]

@[simp] theorem measured_refSel : (s.measured ref e p good).refSel = s.refSel := by
  rw [State.refSel, State.lv, (only_measured s ref e p good).keeps_live, State.refSel, State.lv]

theorem measured_locks : (s.measured ref e p good).locks = true ↔ e.natAbs ≤ s.lockTol ∧ s.lockCnt ≤ s.clk.lockRun + 1 := by
  obtain ⟨-, herr, -, hrun, -⟩ := measured_clk s ref e p good
  have hcnt : (s.measured ref e p good).lockCnt = s.lockCnt := by
    rw [State.lockCnt, State.lv, (only_measured s ref e p good).keeps_live, State.lockCnt, State.lv]
  unfold State.locks
  rw [herr, hrun, measured_lockTol, hcnt]
  by_cases h : e.natAbs ≤ s.lockTol <;> simp [h]

end

/-! ### The branches of a comparison -/

/-- A comparison that tells of the reference alone. -/
theorem compare_notes (hst : s.clk.st ≠ .acquire) (h : (p || decide (s.refSel = 3)) = false ∨
    s.clk.st = .locked ∧ (s.refNoted (p || decide (s.refSel = 3)) good).qualified = false ∧ s.clk.refActive ≠ s.refSel) :
    s.compare err p good = s.noteRef (p || decide (s.refSel = 3)) good := by
  have hst' : (s.noteRef (p || decide (s.refSel = 3)) good).clk.st = s.clk.st := rfl
  have hact : (s.noteRef (p || decide (s.refSel = 3)) good).clk.refActive = s.clk.refActive := rfl
  have hsel : (s.noteRef (p || decide (s.refSel = 3)) good).refSel = s.refSel := rfl
  have hq : (s.noteRef (p || decide (s.refSel = 3)) good).clk.qualified = (s.refNoted (p || decide (s.refSel = 3)) good).qualified := rfl
  unfold State.compare
  refine if_pos ?_
  rw [hst', hact, hsel, hq]
  rcases h with h | ⟨hlock, hqual, hne⟩
  · simp [hst, h]
  · simp [hlock, hqual, hne]

/-- What the loop makes of a comparison that it uses, by its state. -/
def State.loopStep (s : State) (ref : Nat) (qualified : Bool) : State :=
  match s.clk.st with
  | .acquire => if s.locks then s.firstLock else s
  | .locked => s.lockedStep
  | .coasting => if qualified then s.requalify ref else s
  | .slewing => s.slewStep ref
  | .jumpWait => if s.clk.stepWait = [] then s else s.clkStep

theorem compare_uses (hst : s.clk.st = .acquire ∨ p = true ∨ s.refSel = 3)
    (huse : s.clk.st = .locked → s.clk.qualified = true ∨ s.qualifies good = true ∨ s.clk.refActive = s.refSel) :
    s.compare err p good =
    (s.measured (if s.clk.st = .acquire then 0 else s.refSel) (s.phaseError (if s.clk.st = .acquire then 0 else s.refSel) err)
        (p || decide (s.refSel = 3)) good).loopStep (if s.clk.st = .acquire then 0 else s.refSel)
      (s.clk.qualified || s.qualifies ((p || decide (s.refSel = 3)) && good)) := by
  have hq : (s.noteRef (p || decide (s.refSel = 3)) good).clk.qualified =
      (s.clk.qualified || s.qualifies ((p || decide (s.refSel = 3)) && good)) := rfl
  have hclk : (s.noteRef (p || decide (s.refSel = 3)) good).clk.st = s.clk.st ∧
      (s.noteRef (p || decide (s.refSel = 3)) good).clk.refActive = s.clk.refActive ∧
      (s.noteRef (p || decide (s.refSel = 3)) good).refSel = s.refSel := ⟨rfl, rfl, rfl⟩
  obtain ⟨hst', hact, hsel⟩ := hclk
  unfold State.compare
  refine if_neg ?_
  rw [hst', hact, hsel, hq]
  intro hor
  obtain ⟨hacq, hrest⟩ := (Bool.and_eq_true _ _).mp hor
  have hacq' : s.clk.st ≠ .acquire := by simpa using hacq
  have hp : (p || decide (s.refSel = 3)) = true := by
    rcases hst with h | h | h
    · exact absurd h hacq'
    · simp [h]
    · simp [h]
  simp only [hp, Bool.not_true, Bool.false_or, Bool.true_and, Bool.and_eq_true, beq_iff_eq, bne_iff_ne, Bool.not_eq_true',
    Bool.or_eq_false_iff] at hrest
  obtain ⟨⟨hlock, hqual, hgood⟩, hne⟩ := hrest
  rcases huse (of_decide_eq_true hlock) with h | h | h
  · simp [h] at hqual
  · simp [h] at hgood
  · exact hne h

end

/-! ### The instant of a comparison -/

section
variable {s : State} {err : Int} {p good : Bool}

theorem only_atComparison_time (s : State) : Only [.now, .nt] s s.atComparison := only_atComparison s (Only.refl _ s) (by decide) (by decide)

@[simp] theorem atComparison_clk (s : State) : s.atComparison.clk = s.clk := (only_atComparison_time s).keeps_clk

@[simp] theorem atComparison_lv (s : State) (r : Reg) (i j hi lo : Nat) : s.atComparison.lv r i j hi lo = s.lv r i j hi lo := by
  rw [State.lv, (only_atComparison_time s).keeps_live, State.lv]

@[simp] theorem atComparison_refSel (s : State) : s.atComparison.refSel = s.refSel := atComparison_lv s _ _ _ _ _
@[simp] theorem atComparison_lockTol (s : State) : s.atComparison.lockTol = s.lockTol := congrArg (10 * ·) (atComparison_lv s _ _ _ _ _)
@[simp] theorem atComparison_lockCnt (s : State) : s.atComparison.lockCnt = s.lockCnt := atComparison_lv s _ _ _ _ _
@[simp] theorem atComparison_clkWindow (s : State) : s.atComparison.clkWindow = s.clkWindow :=
  congrArg (1000 * ·) (atComparison_lv s _ _ _ _ _)

theorem exec_comparison (h : s.clk.st = .acquire ∨ p = true ∨ s.refSel = 3) :
    exec (.referenceComparison err p good) s = .next (s.atComparison.compare err p good) :=
  congrArg (fun u : State => Host.Outcome.next (u.compare err p good)) (if_pos (by rcases h with h | h | h <;> simp [h]))

/-- A comparison that the loop uses, at its instant and out of ACQUIRE. -/
theorem exec_comparison_uses {st : ClkLoop} (hst : s.clk.st = st) (hne : st ≠ .acquire) (h : p = true ∨ s.refSel = 3)
    (huse : st = .locked → s.clk.qualified = true ∨ s.atComparison.qualifies good = true ∨ s.clk.refActive = s.refSel) :
    exec (.referenceComparison err p good) s = .next
      ((s.atComparison.measured s.refSel (s.atComparison.phaseError s.refSel err) (p || decide (s.refSel = 3)) good).loopStep s.refSel
        (s.clk.qualified || s.atComparison.qualifies good)) := by
  have hp : (p || decide (s.refSel = 3)) = true := by rcases h with h | h <;> simp [h]
  rw [exec_comparison (.inr h), compare_uses (s := s.atComparison) (.inr (by simpa using h)) (by simpa [hst] using huse)]
  simp only [atComparison_clk, atComparison_refSel, hst, if_neg hne, hp, Bool.true_and]

end

/-! ### The steps of the loop -/

section
variable (s : State)

/-- The comparisons in a row beyond 4·LOCK_TOL are counted. -/
def State.badCounted (s : State) : State :=
  s.modClk fun c => { c with badRun := if s.clk.err.natAbs > 4 * s.lockTol then s.clk.badRun + 1 else 0 }

theorem lockedStep_eq : s.lockedStep = if 2 ≤ (if s.clk.err.natAbs > 4 * s.lockTol then s.clk.badRun + 1 else 0) then
    (s.badCounted.coast true).clkEvent 0 else s.badCounted := rfl

theorem lockedStep_clk (hst : s.clk.st = .locked) : s.lockedStep.clk.running = s.clk.running ∧ s.lockedStep.clk.err = s.clk.err ∧
    if 4 * s.lockTol < s.clk.err.natAbs ∧ 1 ≤ s.clk.badRun then
      s.lockedStep.clk.st = .coasting ∧ s.lockedStep.clk.ctrl = s.lockedStep.clk.frozen ∧ s.lockedStep.clk.slewErr = 0
    else s.lockedStep.clk.st = .locked ∧ s.lockedStep.clk.badRun = if 4 * s.lockTol < s.clk.err.natAbs then s.clk.badRun + 1 else 0 := by
  have hcond : 2 ≤ (if s.clk.err.natAbs > 4 * s.lockTol then s.clk.badRun + 1 else 0) ↔
      4 * s.lockTol < s.clk.err.natAbs ∧ 1 ≤ s.clk.badRun := by split <;> omega
  rw [lockedStep_eq, if_congr hcond rfl rfl]
  by_cases h : 4 * s.lockTol < s.clk.err.natAbs ∧ 1 ≤ s.clk.badRun
  · rw [if_pos h, if_pos h, clkEvent_clk, coast_clk]
    exact ⟨rfl, rfl, rfl, rfl, rfl⟩
  · rw [if_neg h, if_neg h]
    exact ⟨rfl, rfl, hst, rfl⟩

theorem requalify_clk (ref : Nat) : (s.requalify ref).clk.running = s.clk.running ∧ (s.requalify ref).clk.ctrl = s.clk.ctrl ∧
    ((s.requalify ref).clk.st = if s.clk.err.natAbs ≤ s.clkWindow then .slewing else .jumpWait) ∧
    ((s.requalify ref).clk.st = .slewing → (s.requalify ref).clk.slewErr = s.clk.err ∧ (s.requalify ref).clk.slewAt = (s.requalify ref).now) := by
  have heq : s.requalify ref = if s.clk.err.natAbs ≤ s.clkWindow then
      (s.modClk fun c => { c with refActive := ref, lockRun := 0 }).modClk fun c => c.beginSlew s.now
      else (((s.modClk fun c => { c with refActive := ref, lockRun := 0 }).modClk fun c => { c with st := .jumpWait }).clkEvent 2).count .clkJumpCnt := rfl
  rw [heq]
  by_cases h : s.clk.err.natAbs ≤ s.clkWindow
  · rw [if_pos h, if_pos h]
    exact ⟨rfl, rfl, rfl, fun _ => ⟨rfl, rfl⟩⟩
  · rw [if_neg h, if_neg h]
    have hclk (u : State) : ((u.clkEvent 2).count .clkJumpCnt).clk = u.clk := clkEvent_clk u 2
    rw [hclk]
    exact ⟨rfl, rfl, rfl, nofun⟩

/-- The loop locks at the end of a slew. -/
def State.slewLocked (s : State) (ref : Nat) : State :=
  s.modClk fun c => { (if 2 ≤ ref then c.align s.clk.err else c) with
    st := .locked, lockRun := 0, badRun := 0, ctrl := tune (c.ctrl + s.slewNow / 1000000), slewErr := 0 }

theorem slewStep_eq (ref : Nat) : s.slewStep ref = if s.locks then (s.slewLocked ref).clkEvent 3
    else if s.lockTol < s.clk.err.natAbs ∧ s.clk.slewAt + 32 * s.slewTime ≤ s.now then
      s.modClk fun c => { c with slewErr := s.clk.err, slewAt := s.now } else s := rfl

theorem slewStep_clk (hst : s.clk.st = .slewing) (ref : Nat) : (s.slewStep ref).clk.running = s.clk.running ∧ (s.slewStep ref).now = s.now ∧
    if s.locks = true then (s.slewStep ref).clk.st = .locked ∧ (s.slewStep ref).clk.slewErr = 0
    else (s.slewStep ref).clk.st = .slewing ∧ if s.lockTol < s.clk.err.natAbs ∧ s.clk.slewAt + 32 * s.slewTime ≤ s.now
      then (s.slewStep ref).clk.slewErr = s.clk.err ∧ (s.slewStep ref).clk.slewAt = s.now
      else (s.slewStep ref).clk.slewErr = s.clk.slewErr ∧ (s.slewStep ref).clk.slewAt = s.clk.slewAt := by
  rw [slewStep_eq]
  by_cases hlock : s.locks = true
  · have hnow (u : State) : (u.clkEvent 3).now = u.now :=
      (only_clkEvent (ps := [.regs, .log]) u 3 (Only.refl _ u) (by decide) (by decide)).keeps_now
    have hrun : (s.slewLocked ref).clk.running = s.clk.running := by
      have hite (c : ClkState) : (if 2 ≤ ref then c.align s.clk.err else c).running = c.running := by split <;> rfl
      exact hite s.clk
    rw [if_pos hlock, if_pos hlock, clkEvent_clk, hnow]
    exact ⟨hrun, rfl, rfl, rfl⟩
  · rw [if_neg hlock, if_neg hlock]
    by_cases h : s.lockTol < s.clk.err.natAbs ∧ s.clk.slewAt + 32 * s.slewTime ≤ s.now
    · rw [if_pos h, if_pos h]
      exact ⟨rfl, rfl, hst, rfl, rfl⟩
    · rw [if_neg h, if_neg h]
      exact ⟨rfl, rfl, hst, rfl, rfl⟩

theorem desk_dumpAlign : DeskRegs s s.dumpAlign := by
  have haligned (u : State) (hu : DeskRegs s u) : DeskRegs s (forNums ((List.range 160).filter fun c => u.groupOn (c / 8)) (fun c s =>
      s.modDec c fun d => { d with alignPend := true }) u) := kept_forNums _ _ (fun c v hv => kept_of_regs (s := v) rfl hv) hu
  unfold State.dumpAlign
  dsimp only
  split
  · exact kept_count _ _ _ (haligned _ (kept_of_regs (s := s) rfl (.refl s))) (not_onDesk_of_base (by decide) _ _)
  · exact .refl s

/-- The ticks of output 2 count anew from a restart. -/
def State.ticksAnew (s : State) (at_ : Nat) : State :=
  let s := s.modClk fun c => { c with restartAt := at_ }
  { s with meas := { s.meas with
    tick := 0, dump0 := [], groups := s.meas.groups.map fun (g : DecGroup) => { g with lastTick := none } } }

theorem restart2_eq (at_ : Nat) : s.restart2 at_ = if ((s.ticksAnew at_).tb (s.ticksAnew at_).refTb).run = .running then
    (s.ticksAnew at_).dumpAlign
    else { s.ticksAnew at_ with meas := { (s.ticksAnew at_).meas with dumpBase := 0 } } := rfl

theorem desk_restart2 (at_ : Nat) : DeskRegs s (s.restart2 at_) := by
  have hanew : DeskRegs s (s.ticksAnew at_) := kept_of_regs (s := s) rfl (.refl s)
  rw [restart2_eq]
  exact kept_ite (hanew.trans (desk_dumpAlign _)) hanew

/-- The loop locks for the first time. -/
def State.lockedFirst (s : State) : State :=
  s.modClk fun c => { (c.restart (BitVec.allOnes 8) (Machine.ctlTick s.now)) with
    st := .locked, lockRun := 0, badRun := 0, running := BitVec.ofNat 8 s.enabledOutputs, strobe := 0 }

theorem lockedFirst_restarts : let u := s.lockedFirst
    let t := if u.clk.running.getLsbD 2 then u.restart2 (Machine.ctlTick u.now) else u
    t.clk.st = .locked ∧ t.clk.running = BitVec.ofNat 8 s.enabledOutputs ∧ SelftestKept s t := by
  have hkept : SelftestKept s s.lockedFirst := kept_of_regs (s := s) rfl (.refl s)
  dsimp only
  split
  · rw [restart2_clk]
    exact ⟨rfl, rfl, selftest_of_desk hkept (desk_restart2 _ _)⟩
  · exact ⟨rfl, rfl, hkept⟩

theorem only_acqLate_parts : Only haltParts s s.acqLate := by
  unfold State.acqLate
  have hflag : Only haltParts s (s.setFlag .glbSelftest 0 4) := only_setFlag _ _ _ (Only.refl _ s) (by decide)
  exact only_ite (hflag.trans (only_halt_parts _ _) (fun _ h => h)) hflag

theorem firstLock_late (h : s.acqEnd < s.now) : s.firstLock = (let u := s.acqLate.lockedFirst
    if u.clk.running.getLsbD 2 then u.restart2 (Machine.ctlTick u.now) else u) := by
  unfold State.firstLock
  rw [if_pos h]
  rfl

theorem firstLock_timely (h : ¬ s.acqEnd < s.now) : s.firstLock = (let u := s.lockedFirst
    if u.clk.running.getLsbD 2 then u.restart2 (Machine.ctlTick u.now) else u) := by
  unfold State.firstLock
  rw [if_neg h]
  rfl

theorem firstLock_effect : s.firstLock.clk.st = .locked ∧ s.firstLock.clk.running = BitVec.ofNat 8 s.enabledOutputs ∧
    (cellsRise s.regs → s.acqEnd < s.now → (s.firstLock.reg .glbSelftest).getLsbD 4 = true) := by
  by_cases h : s.acqEnd < s.now
  · obtain ⟨hst, hrun, hkept⟩ := lockedFirst_restarts s.acqLate
    have hout : s.acqLate.enabledOutputs = s.enabledOutputs := by
      rw [State.enabledOutputs, (only_acqLate_parts s).keeps_live, State.enabledOutputs]
    rw [firstLock_late s h, ← hout]
    refine ⟨hst, hrun, fun hs _ => ?_⟩
    obtain ⟨hrise, hbit⟩ := acqLate_failed hs
    rw [hkept.reg hrise]
    exact hbit
  · obtain ⟨hst, hrun, -⟩ := lockedFirst_restarts s
    rw [firstLock_timely s h]
    exact ⟨hst, hrun, fun _ hlate => absurd hlate h⟩

end

end Sys2Proof.Machine
end

section
/-! The step of a loop in JUMP_WAIT (R280), and the loop as a whole. -/

-- The proofs are elaborated one after the other: this bounds the threads of the compiler, whose stacks count as its memory.
set_option Elab.async false

namespace Sys2Proof.Machine

/-- An answer stands while the parts that hold it stay as they are. -/
theorem Answered.later {c : Src} {op d : Nat} {st : Status} {at_ : DWord} {s t u : State} {l : List Part} (h : Answered c op st d at_ s t)
    (hu : Only l t u) (hl : ∀ p ∈ [Part.host, .cmd, .mgt, .twn, .live], p ∉ l := by decide) : Answered c op st d at_ s u := by
  have hout (peer : MctpPeer) (bs : Bytes) : u.mctpOut peer bs = t.mctpOut peer bs := by
    rw [State.mctpOut, State.lv, hu.keeps_live (hl _ (by decide)), hu.keeps_mgt (hl _ (by decide)), State.mctpOut, State.lv]
  unfold Answered HostTakes HostSame at *
  simp only [hout, hu.keeps_host (hl _ (by decide)), hu.keeps_mgt (hl _ (by decide)), hu.keeps_twn (hl _ (by decide)), State.ring,
    hu.keeps_cmd (hl _ (by decide))] at *
  exact h

section
variable {s : State} {c : Src}

theorem clkStep_started (htb : s.tbsStopped = false) (hwait : s.clk.stepWait = [c]) :
    s.clkStep = (s.modClk fun k => { k with stepWait := [] }).refuse c 0x0804 .error 1 := by
  unfold State.clkStep
  dsimp only
  rw [hwait, if_pos (by simp [htb])]
  rfl

/-- A step: the loop is LOCKED, and the nanosecond count takes the reference value. -/
def State.loopStepped (s : State) : State :=
  s.modClk fun k => { (if 2 ≤ s.refSel then k.align k.err else k) with
    st := .locked, stepWait := [], slewErr := 0, lockRun := 0, badRun := 0, err := 0 }

/-- The command of a step completes. -/
def State.stepDone (s : State) (c : Src) : State := (s.loopStepped.clkEvent 4).done c 0x0804

/-- The ticks of output 2 count anew where it runs. -/
def State.stepTicks (s : State) : State := if s.clk.running.getLsbD 2 then (s.restart2 s.now).dumpAlign else s

theorem clkStep_stopped (htb : s.tbsStopped = true) (hwait : s.clk.stepWait = [c]) :
    s.clkStep = ((s.stepDone c).stepRestart s.clk.err).stepTicks := by
  unfold State.clkStep
  dsimp only
  rw [hwait, if_neg (by simp [htb])]
  rfl

theorem only_clkEvent_parts (s : State) (n : Nat) : Only [.regs, .log] s (s.clkEvent n) := only_clkEvent s n (Only.refl _ s) (by decide) (by decide)

theorem desk_clkEvent (s : State) (n : Nat) : DeskRegs s (s.clkEvent n) :=
  kept_note (kept_setFlag _ _ _ (.refl s) (not_onDesk_of_base (by decide) _ _)) glbLogLost_offDesk _ _ _ _

theorem only_loopStepped (s : State) : Only [.clk] s s.loopStepped := only_modClk _ (Only.refl _ s) (by decide)

theorem stepDone_effect (s : State) (c : Src) : (s.stepDone c).clk = s.loopStepped.clk ∧ (s.stepDone c).now = s.now ∧
    (s.stepDone c).live = s.live := by
  have hevent := only_clkEvent_parts s.loopStepped 4
  unfold State.stepDone
  simp [hevent.keeps_now, hevent.keeps_live, (only_loopStepped s).keeps_now, (only_loopStepped s).keeps_live]

theorem stepDone_answered (hs : s.storesCanonical) {s0 : State} (h : SameDesk s0 s) (hs0 : s0.storesCanonical) :
    Answered c 0x0804 .ok 0 s.nt64 s0 (s.stepDone c) := by
  have hevent := only_clkEvent_parts s.loopStepped 4
  have honly : Only [.clk, .regs, .log] s (s.loopStepped.clkEvent 4) := (only_loopStepped s).trans (hevent.mono (by decide)) (by decide)
  have hregs : DeskRegs s (s.loopStepped.clkEvent 4) :=
    (kept_of_only (only_loopStepped s) (.refl s) : DeskRegs s s.loopStepped).trans (desk_clkEvent _ 4)
  have hnt : (s.loopStepped.clkEvent 4).nt64 = s.nt64 := nt64_of_nt honly.keeps_nt
  rw [← hnt]
  exact State.complete_answers c _ _ _ _ hs0 (h.trans (.of_desk honly hregs (regsRise_of_storesCanonical hs)))

theorem stepEdge_congr {s t : State} (hnow : t.now = s.now) (hofs : t.clk.nsOfs = s.clk.nsOfs) (hsel : t.refSel = s.refSel) (e : Int) :
    t.stepEdge e = s.stepEdge e := by
  unfold State.stepEdge
  rw [hnow, hofs, hsel]

theorem cycleEnd_clk (s : State) (edge : Nat) : (s.cycleEnd edge).clk = s.clk ∧ (s.cycleEnd edge).now = Machine.ctlTick s.now := ⟨rfl, rfl⟩

/-- The nanosecond count after the restart of a step. -/
def State.stepOfs (s : State) (e : Int) : Int :=
  if 2 ≤ s.refSel then s.clk.nsOfs - ((Machine.ctlTick s.now : Int) - s.now - s.stepEdge e) * 134217728 else s.clk.nsOfs

/-- Outputs restart, and the nanosecond count takes a value. -/
def State.outputsAnew (s : State) (mask : BitVec 8) (at_ : Nat) (ofs : Int) : State :=
  s.modClk fun c => { c.restart mask at_ with nsOfs := ofs }

theorem outputsAnew_clk (s : State) (mask : BitVec 8) (at_ : Nat) (ofs : Int) : (s.outputsAnew mask at_ ofs).now = s.now ∧
    (s.outputsAnew mask at_ ofs).clk = { s.clk.restart mask at_ with nsOfs := ofs } := ⟨rfl, rfl⟩

theorem stepRestart_eq (s : State) (e : Int) : s.stepRestart e = (s.outputsAnew (BitVec.allOnes 8) (Machine.ctlTick s.now) (s.stepOfs e)).cycleEnd (s.stepEdge e) := by
  unfold State.stepRestart
  dsimp only
  congr 1

/-- The restart of a step, in the loop and in time. -/
theorem stepRestart_clk (s : State) (e : Int) : (s.stepRestart e).now = Machine.ctlTick s.now ∧ (s.stepRestart e).clk =
    { s.clk.restart (BitVec.allOnes 8) (Machine.ctlTick s.now) with nsOfs := s.stepOfs e } := by
  obtain ⟨hnow, hanew⟩ := outputsAnew_clk s (BitVec.allOnes 8) (Machine.ctlTick s.now) (s.stepOfs e)
  obtain ⟨hclk, hend⟩ := cycleEnd_clk (s.outputsAnew (BitVec.allOnes 8) (Machine.ctlTick s.now) (s.stepOfs e)) (s.stepEdge e)
  rw [stepRestart_eq, hclk, hend, hnow, hanew]
  exact ⟨rfl, rfl⟩

theorem outputsAnew_outAt (s : State) (mask : BitVec 8) (at_ : Nat) (ofs : Int) {k : Nat} (hk : k < 8) :
    vget (s.outputsAnew mask at_ ofs).clk.outAt k 0 = if mask.getLsbD k then at_ else vget s.clk.outAt k 0 := restart_outAt s.clk mask at_ hk

theorem stepRestart_outAt (s : State) (e : Int) {k : Nat} (hk : k < 8) : vget (s.stepRestart e).clk.outAt k 0 = Machine.ctlTick s.now := by
  obtain ⟨hclk, -⟩ := cycleEnd_clk (s.outputsAnew (BitVec.allOnes 8) (Machine.ctlTick s.now) (s.stepOfs e)) (s.stepEdge e)
  rw [stepRestart_eq, hclk, outputsAnew_outAt s _ _ _ hk, BitVec.getLsbD_allOnes]
  exact if_pos (decide_eq_true hk)

theorem stepTicks_clk (s : State) : Only [.regs, .meas, .clk] s s.stepTicks ∧ ∃ x, s.stepTicks.clk = { s.clk with restartAt := x } := by
  have hanew : Only [.regs, .meas, .clk] s (s.restart2 s.now) := only_restart2 s _ (Only.refl _ s) (by decide) (by decide) (by decide)
  have halign (u : State) : Only [.regs, .meas] u u.dumpAlign := only_dumpAlign u (Only.refl _ u) (by decide) (by decide)
  unfold State.stepTicks
  split
  · refine ⟨hanew.trans ((halign _).mono (by decide)) (by decide), s.now, ?_⟩
    rw [(halign _).keeps_clk, restart2_clk]
  · exact ⟨Only.refl _ s, s.clk.restartAt, rfl⟩

end

/-! ### The offset of a slew -/

theorem slewSize_le (rate most err t : Nat) : slewSize rate most err t ≤ most * 1000000000 := (min_le_left _ _).trans (min_le_right _ _)

theorem slewNow_bound (s : State) : s.slewNow.natAbs ≤ s.lv .clkReacq 0 0 31 24 * 1000000000 := by
  have hsize := slewSize_le (s.lv .clkReacq 0 0 23 16) (s.lv .clkReacq 0 0 31 24) s.clk.slewErr.natAbs ((s.now - s.clk.slewAt) / 32)
  unfold State.slewNow
  dsimp only
  split
  · exact Nat.zero_le _
  · split
    · rwa [Int.natAbs_neg, Int.natAbs_natCast]
    · rwa [Int.natAbs_natCast]

theorem slewNow_other {s : State} (h : s.clk.st ≠ .slewing) : s.slewNow = 0 := if_pos h

/-! ### Comparisons that tell of the reference alone -/

theorem not_always {n : Nat} (h : alwaysQualified n = false) : n ≠ 3 := by
  rintro rfl
  exact absurd h (by decide)

/-- Settles O40, by the state of the loop in which the comparison comes. -/
theorem comparisonsMoveTheLoop : Obligations.ComparisonsMoveTheLoop := by
  refine ⟨?missing, ?acquire, ?locked, ?coasting, ?slewing, ?slew, ?waits, ?steps, ?started, ?bad, ?qualifying⟩
  case missing =>
    intro err q s hsel hst
    have hp : (false || decide (s.refSel = 3)) = false := by simp [hsel]
    have hexec : exec (.referenceComparison err false q) s = .next (s.compare err false q) :=
      congrArg (fun u : State => Host.Outcome.next (u.compare err false q)) (if_neg (by simp [hst, hsel]))
    refine ⟨_, hexec.trans (congrArg Host.Outcome.next (compare_notes hst (.inl hp))), ?_⟩
    beta_reduce
    rw [hp, noteRef_clk]
    refine ⟨?_, only_noteRef s _ _ (Only.refl _ s) (by decide)⟩
    simp [State.refNoted, State.qualifies]
  case acquire =>
    intro err p q s hst
    refine ⟨_, (exec_comparison (.inl hst)).trans (congrArg Host.Outcome.next (compare_uses (s := s.atComparison) (.inl (by simpa using hst))
      (by simp [hst]))), ?_⟩
    beta_reduce
    have hacq : s.atComparison.clk.st = .acquire := by simpa using hst
    rw [if_pos hacq]
    have hlocks := measured_locks (s := s.atComparison) 0 (s.atComparison.phaseError 0 err) (p || decide (s.atComparison.refSel = 3)) q
    obtain ⟨hst', -, hrun, -, -, -, -, -, -, hacqAt, -⟩ :=
      measured_clk s.atComparison 0 (s.atComparison.phaseError 0 err) (p || decide (s.atComparison.refSel = 3)) q
    have honly := only_measured s.atComparison 0 (s.atComparison.phaseError 0 err) (p || decide (s.atComparison.refSel = 3)) q
    generalize s.atComparison.measured 0 (s.atComparison.phaseError 0 err) (p || decide (s.atComparison.refSel = 3)) q = m at *
    have herr : s.atComparison.phaseError 0 err = centred 40000 (tdc err) := rfl
    rw [atComparison_lockTol, atComparison_lockCnt, atComparison_clk, herr] at hlocks
    have htime := only_atComparison_time s
    have hloop (b : Bool) : m.loopStep 0 b = if m.locks then m.firstLock else m := by
      unfold State.loopStep
      rw [hst', hacq]
    rw [hloop]
    by_cases hl : m.locks = true
    · obtain ⟨hfst, hfrun, hbit⟩ := firstLock_effect m
      rw [if_pos hl, if_pos (hlocks.mp hl)]
      refine ⟨hfst, ?_, fun hs hlate => hbit ?_ ?_⟩
      · rw [hfrun, State.enabledOutputs, honly.keeps_live, htime.keeps_live, State.enabledOutputs]
      · rw [honly.keeps_regs, htime.keeps_regs]
        exact regsRise_of_storesCanonical hs
      · rw [State.acqEnd, hacqAt, honly.keeps_now, atComparison_clk]
        exact hlate
    · rw [if_neg hl, if_neg (mt hlocks.mpr hl)]
      exact ⟨hst'.trans hacq, hrun.trans (by simp)⟩
  case locked =>
    intro err e p q s hst hp hq he
    refine ⟨_, exec_comparison_uses hst (by decide) hp (fun _ => hq), ?_⟩
    beta_reduce
    rw [he]
    obtain ⟨hst', herr, hrun, -, hbad, -⟩ := measured_clk s.atComparison s.refSel e (p || decide (s.refSel = 3)) q
    have htol := measured_lockTol (s := s.atComparison) s.refSel e (p || decide (s.refSel = 3)) q
    generalize s.atComparison.measured s.refSel e (p || decide (s.refSel = 3)) q = m at *
    simp only [atComparison_clk, atComparison_lockTol] at hst' hrun hbad htol
    have hloop (b : Bool) : m.loopStep s.refSel b = m.lockedStep := by
      unfold State.loopStep
      rw [hst', hst]
    rw [hloop, ← herr, ← hrun, ← hbad, ← htol]
    exact lockedStep_clk m (hst'.trans hst)
  case coasting =>
    intro err e p q s hst hp he
    refine ⟨_, exec_comparison_uses hst (by decide) hp nofun, ?_⟩
    beta_reduce
    rw [he]
    obtain ⟨hst', herr, hrun, -, -, -, -, -, -, -, hctrl⟩ := measured_clk s.atComparison s.refSel e (p || decide (s.refSel = 3)) q
    have honly := only_measured s.atComparison s.refSel e (p || decide (s.refSel = 3)) q
    generalize s.atComparison.measured s.refSel e (p || decide (s.refSel = 3)) q = m at *
    simp only [atComparison_clk] at hst' hrun hctrl
    have hwin : m.clkWindow = s.clkWindow := by
      rw [State.clkWindow, State.lv, honly.keeps_live, (only_atComparison_time s).keeps_live, State.clkWindow, State.lv]
    have hloop (b : Bool) : m.loopStep s.refSel b = if b then m.requalify s.refSel else m := by
      unfold State.loopStep
      rw [hst', hst]
    rw [hloop, ← hrun, ← hctrl (.inl hst), ← herr, ← hwin]
    cases hq : s.clk.qualified || s.atComparison.qualifies q with
    | false => exact ⟨rfl, rfl, hst'.trans hst, fun h => absurd (h.symm.trans (hst'.trans hst)) (by decide)⟩
    | true =>
      obtain ⟨hrun', hctrl', hst'', hslew⟩ := requalify_clk m s.refSel
      exact ⟨hrun', hctrl', hst'', hslew⟩
  case slewing =>
    intro err e p q s hst hp he
    refine ⟨_, exec_comparison_uses hst (by decide) hp nofun, ?_⟩
    beta_reduce
    rw [he]
    have hlocks := measured_locks (s := s.atComparison) s.refSel e (p || decide (s.refSel = 3)) q
    obtain ⟨hst', herr, hrun, -, -, -, hslewErr, hslewAt, -⟩ := measured_clk s.atComparison s.refSel e (p || decide (s.refSel = 3)) q
    have htol := measured_lockTol (s := s.atComparison) s.refSel e (p || decide (s.refSel = 3)) q
    have honly := only_measured s.atComparison s.refSel e (p || decide (s.refSel = 3)) q
    generalize s.atComparison.measured s.refSel e (p || decide (s.refSel = 3)) q = m at *
    simp only [atComparison_clk, atComparison_lockTol, atComparison_lockCnt] at hst' hrun hslewErr hslewAt htol hlocks
    have htime : m.slewTime = s.slewTime := by
      rw [State.slewTime, State.lv, State.lv, honly.keeps_live, (only_atComparison_time s).keeps_live, hslewErr, State.slewTime, State.lv, State.lv]
    have hloop (b : Bool) : m.loopStep s.refSel b = m.slewStep s.refSel := by
      unfold State.loopStep
      rw [hst', hst]
    obtain ⟨hrun', hnow, hcases⟩ := slewStep_clk m (hst'.trans hst) s.refSel
    rw [hloop]
    rw [if_congr hlocks rfl rfl, herr, htol, htime, hslewErr, hslewAt, ← hnow] at hcases
    exact ⟨hrun'.trans hrun, hcases⟩
  case slew => exact fun s => ⟨slewNow_bound s, slewNow_other⟩
  case waits =>
    intro err p q s hst hwait hp
    refine ⟨_, exec_comparison_uses hst (by decide) hp nofun, ?_⟩
    beta_reduce
    obtain ⟨hst', -, -, -, -, -, -, -, hwait', -, hctrl⟩ :=
      measured_clk s.atComparison s.refSel (s.atComparison.phaseError s.refSel err) (p || decide (s.refSel = 3)) q
    generalize s.atComparison.measured s.refSel (s.atComparison.phaseError s.refSel err) (p || decide (s.refSel = 3)) q = m at *
    simp only [atComparison_clk] at hst' hwait' hctrl
    have hloop (b : Bool) : m.loopStep s.refSel b = m := by
      unfold State.loopStep
      rw [hst', hst]
      exact if_pos (hwait'.trans hwait)
    rw [hloop]
    exact ⟨hst'.trans hst, hctrl (.inr hst)⟩
  case steps =>
    intro err e p q c u s hs hst hwait hp htb he hu
    refine ⟨_, exec_comparison_uses hst (by decide) hp nofun, ?_⟩
    beta_reduce
    rw [he]
    obtain ⟨hst', herr, hrun, -, -, hofs, -, -, hwait', -, -⟩ := measured_clk s.atComparison s.refSel e (p || decide (s.refSel = 3)) q
    have honly := only_measured s.atComparison s.refSel e (p || decide (s.refSel = 3)) q
    generalize s.atComparison.measured s.refSel e (p || decide (s.refSel = 3)) q = m at *
    have htime := only_atComparison_time s
    have hm : Only [.now, .nt, .clk] s m := htime.trans (honly.mono (by decide)) (by decide)
    have hsel : m.refSel = s.refSel := by rw [State.refSel, State.lv, hm.keeps_live, State.refSel, State.lv]
    have hmtb : m.tbsStopped = true := by rw [← htb]; simp only [State.tbsStopped, State.tb, hm.keeps_pwm]
    have hmwait : m.clk.stepWait = [c] := hwait'.trans (by simpa using hwait)
    have hloop (b : Bool) : m.loopStep s.refSel b = ((m.stepDone c).stepRestart e).stepTicks := by
      unfold State.loopStep
      rw [hst', (by simpa using hst : s.atComparison.clk.st = .jumpWait)]
      dsimp only
      rw [if_neg (by simp [hmwait]), clkStep_stopped hmtb hmwait, herr]
    rw [hloop]
    have hcanon : m.storesCanonical := storesCanonical_of_only hm hs
    have hans := stepDone_answered (c := c) hcanon (.of_only hm (by decide)) hs
    rw [nt64_of_nt honly.keeps_nt] at hans
    obtain ⟨hdclk, hdnow, hdlive⟩ := stepDone_effect m c
    have hdsel : (m.stepDone c).refSel = s.refSel := by rw [← hsel, State.refSel, State.lv, hdlive, State.refSel, State.lv]
    have hdnow' : (m.stepDone c).now = s.atComparison.now := hdnow.trans honly.keeps_now
    -- the count of the nanoseconds when the step's restart begins
    have hdofs : (m.stepDone c).clk.nsOfs = u.clk.nsOfs := by
      have hite (k : ClkState) (n : Nat) : (if 2 ≤ n then k.align k.err else k).nsOfs =
          (if 2 ≤ n then (k.align k.err).nsOfs else k.nsOfs) := by split <;> rfl
      have hite' (k : ClkState) (n : Nat) : (if 2 ≤ n then k.align e else k).nsOfs = (if 2 ≤ n then (k.align e).nsOfs else k.nsOfs) := by
        split <;> rfl
      have halign : (m.clk.align m.clk.err).nsOfs = (s.atComparison.clk.align e).nsOfs := by rw [ClkState.align, hofs, herr, ClkState.align]
      rw [hdclk, hu]
      exact (hite m.clk m.refSel).trans (Eq.trans (by rw [halign, hofs, hsel]) (hite' s.atComparison.clk s.refSel).symm)
    have hrest := stepRestart_clk (m.stepDone c) e
    obtain ⟨hrnow, hrclk⟩ := hrest
    have hout (k : Nat) (hk : k < 8) := stepRestart_outAt (m.stepDone c) e hk
    have hpart : Only [.now, .clk, .nt] (m.stepDone c) ((m.stepDone c).stepRestart e) :=
      only_stepRestart _ e (Only.refl _ _) (by decide) (by decide) (by decide)
    obtain ⟨htick, x, hx⟩ := stepTicks_clk ((m.stepDone c).stepRestart e)
    have hunow : u.now = s.atComparison.now := by rw [hu]; rfl
    have husel : u.refSel = s.refSel := by rw [hu]; exact atComparison_refSel s
    have hedge : (m.stepDone c).stepEdge e = u.stepEdge e := stepEdge_congr (hdnow'.trans hunow.symm) hdofs (hdsel.trans husel.symm) e
    have hfinal : ((m.stepDone c).stepRestart e).stepTicks.now = Machine.ctlTick s.atComparison.now := by
      rw [htick.keeps_now, hrnow, hdnow']
    rw [hfinal, hx]
    simp only [hrclk, hdclk, hdnow'] at hout
    rw [hrclk, hdclk, hdnow']
    refine ⟨rfl, rfl, rfl, ?_, rfl, ?_, fun k hk => ?_, (hans.later hpart).later htick⟩
    · have hite (k : ClkState) (n : Nat) : (if 2 ≤ n then k.align k.err else k).running = k.running := by split <;> rfl
      exact (hite m.clk m.refSel).trans (hrun.trans (by simp))
    · have hstep : (m.stepDone c).stepOfs e = if 2 ≤ s.refSel then
          u.clk.nsOfs - ((Machine.ctlTick u.now : Int) - u.now - u.stepEdge e) * 134217728 else u.clk.nsOfs := by
        rw [State.stepOfs, hdsel, hdofs, hedge, hdnow', hunow]
      refine hstep.trans (ite_congr rfl (fun _ => rfl) fun h => ?_)
      rw [hu]
      exact (congrArg ClkState.nsOfs (if_neg h)).trans (by simp)
    · exact hout k hk
  case started =>
    intro err p q c s hs hst hwait hp htb
    refine ⟨_, exec_comparison_uses hst (by decide) hp nofun, ?_⟩
    beta_reduce
    obtain ⟨hst', -, -, -, -, -, -, -, hwait', -, -⟩ :=
      measured_clk s.atComparison s.refSel (s.atComparison.phaseError s.refSel err) (p || decide (s.refSel = 3)) q
    have honly := only_measured s.atComparison s.refSel (s.atComparison.phaseError s.refSel err) (p || decide (s.refSel = 3)) q
    generalize s.atComparison.measured s.refSel (s.atComparison.phaseError s.refSel err) (p || decide (s.refSel = 3)) q = m at *
    simp only [atComparison_clk] at hst' hwait'
    have hm : Only [.now, .nt, .clk] s m := (only_atComparison_time s).trans (honly.mono (by decide)) (by decide)
    have hmtb : m.tbsStopped = false := by rw [← htb]; simp only [State.tbsStopped, State.tb, hm.keeps_pwm]
    have hloop (b : Bool) : m.loopStep s.refSel b = (m.modClk fun k => { k with stepWait := [] }).refuse c 0x0804 .error 1 := by
      unfold State.loopStep
      rw [hst', hst]
      dsimp only
      rw [if_neg (by simp [hwait', hwait]), clkStep_started hmtb (hwait'.trans hwait)]
    rw [hloop]
    have hdesk : SameDesk s (m.modClk fun k => { k with stepWait := [] }) := .of_only (only_modClk _ hm (by decide)) (by decide)
    refine ⟨?_, ?_, State.complete_answers c _ _ _ _ hs hdesk⟩
    · simp [State.modClk, hst', hst]
    · simp [State.modClk]
  case bad =>
    intro err p s hst halways hact hqual
    have hsel : s.refSel ≠ 3 := not_always halways
    have hnone : ∀ u : State, u.refSel = s.refSel → u.qualifies false = false := fun u hu => by simp [State.qualifies, hu, halways]
    cases p with
    | false =>
      have hp : (false || decide (s.refSel = 3)) = false := by simp [hsel]
      have hexec : exec (.referenceComparison err false false) s = .next (s.compare err false false) :=
        congrArg (fun u : State => Host.Outcome.next (u.compare err false false)) (if_neg (by simp [hst, hsel]))
      refine ⟨_, hexec.trans (congrArg Host.Outcome.next (compare_notes (by simp [hst]) (.inl hp))), ?_⟩
      beta_reduce
      rw [hp, noteRef_clk]
      refine ⟨?_, only_noteRef s _ _ (Only.refl _ s) (by decide)⟩
      simp [State.refNoted, hnone s rfl]
    | true =>
      have hp : (true || decide (s.atComparison.refSel = 3)) = true := Bool.true_or _
      have hq : (s.atComparison.refNoted true false).qualified = false := by
        simp [State.refNoted, hqual, hnone s.atComparison (atComparison_refSel s)]
      refine ⟨_, (exec_comparison (.inr (.inl rfl))).trans (congrArg Host.Outcome.next (compare_notes (by simp [hst])
        (.inr ⟨by simpa using hst, hq, by simpa using hact⟩))), ?_⟩
      beta_reduce
      rw [hp, noteRef_clk]
      refine ⟨?_, only_noteRef _ _ _ ((only_atComparison_time s).mono (by decide)) (by decide)⟩
      have hnow : (s.atComparison.noteRef true false).now = s.atComparison.now := rfl
      rw [hnow]
      simp [State.refNoted, hnone s.atComparison (atComparison_refSel s)]
  case qualifying =>
    intro err s hst hact hsel hq hqual
    have hp : (true || decide (s.atComparison.refSel = 3)) = true := Bool.true_or _
    have hnone : (s.atComparison.refNoted true true).qualified = false := by simp [State.refNoted, hqual, hq]
    refine ⟨_, (exec_comparison (.inr (.inl rfl))).trans (congrArg Host.Outcome.next (compare_notes (by simp [hst])
      (.inr ⟨by simpa using hst, hnone, by simpa using hact⟩))), ?_⟩
    beta_reduce
    have hnow : (s.atComparison.noteRef true true).now = s.atComparison.now := rfl
    rw [hp, noteRef_clk, hnow]
    simp [State.refNoted, hq]

end Sys2Proof.Machine
end

section
/-! Acquisition units arm, trigger, fill segments and go on (R398, R401, Table ACQ-2, Table ACQ-3, Table ACQ-7). -/

-- The proofs are elaborated one after the other: this bounds the threads of the compiler, whose stacks count as its memory.
set_option Elab.async false

namespace Sys2Proof.Machine

/-! ### One unit after the other -/

section
variable {l : List Part} {f : Nat → State → State} (honly : ∀ i t, Only l t (f i t)) (hother : ∀ i t v, v ≠ i → (f i t).acqN v = t.acqN v)
include hother

theorem forNums_acqN_out (xs : List Nat) {u : Nat} (hu : u ∉ xs) (s : State) : (forNums xs f s).acqN u = s.acqN u :=
  holds_forNums (P := fun t => t.acqN u = s.acqN u) xs (fun i hi t ht => (hother i t u (ne_of_mem_of_not_mem hi hu).symm).trans ht) rfl

include honly

/-- Where each step of a pass over units changes its own unit alone, a unit is what its step makes of what it was. -/
theorem forNums_acqN_in {xs : List Nat} (hxs : xs.Nodup) {u : Nat} (hu : u ∈ xs) (s : State) :
    ∃ t, Only l s t ∧ t.acqN u = s.acqN u ∧ (forNums xs f s).acqN u = (f u t).acqN u := by
  obtain ⟨as, bs, rfl⟩ := List.append_of_mem hu
  have hnodup := List.nodup_append.mp hxs
  obtain ⟨-, hbs, hdis⟩ := hnodup
  obtain ⟨hub, -⟩ := List.nodup_cons.mp hbs
  have hua : u ∉ as := fun h => hdis u h u (by simp) rfl
  have hsplit : forNums (as ++ u :: bs) f s = forNums bs f (f u (forNums as f s)) := List.foldl_append
  refine ⟨forNums as f s, only_forNums _ _ (fun i t ht => ht.trans (honly i t) fun _ h => h) (Only.refl _ s), forNums_acqN_out hother as hua s, ?_⟩
  rw [hsplit, forNums_acqN_out hother bs hub]

end

section
variable {s : State} {u n : Nat}

/-! ### Arming -/

theorem nextEmpty_congr {s t : State} (hl : t.live = s.live) (hu : t.acqN u = s.acqN u) : t.nextEmpty u = s.nextEmpty u := by
  unfold State.nextEmpty State.segCount State.lv
  rw [hl, hu]

/-- A unit that arms: in its next EMPTY segment, or not at all. -/
def State.armedUnit (s : State) (u : Nat) : AcqUnit :=
  match s.nextEmpty u with
  | some i => (s.acqN u).fill i s.now
  | none => { s.acqN u with st := .hold }

theorem acqArmUnit_same (hu : u < 8) (s : State) : (s.acqArmUnit u).acqN u = s.armedUnit u := by
  unfold State.acqArmUnit State.armedUnit
  cases s.nextEmpty u <;> exact acqN_modAcq_same hu _ _

theorem acqArmUnit_other {v : Nat} (h : v ≠ u) (s : State) : (s.acqArmUnit u).acqN v = s.acqN v := by
  unfold State.acqArmUnit
  split <;> exact acqN_modAcq_other h _ _

theorem acqArmUnit_others (i : Nat) (t : State) (v : Nat) (h : v ≠ i) : (t.acqArmUnit i).acqN v = t.acqN v := acqArmUnit_other h t

theorem only_acqArmUnit_acq (s : State) (u : Nat) : Only [.acq] s (s.acqArmUnit u) := only_acqArmUnit s u (Only.refl _ s) (by decide)

theorem armedUnit_state (s : State) (u : Nat) : ((s.armedUnit u).st = .armed ∨ (s.armedUnit u).st = .hold) ∧
    ((s.acqN u).complete = false → (s.armedUnit u).complete = false) := by
  unfold State.armedUnit
  split
  · exact ⟨.inl rfl, fun _ => rfl⟩
  · exact ⟨.inr rfl, id⟩

/-- What ACQ_ARM does with a unit: the header of its record comes first. -/
def State.armUnit (s : State) (u : Nat) : State := (if (s.acqN u).complete then s.acqFinish u else s).acqArmUnit u

theorem armUnit_of_done (h : (s.acqN u).complete = false) : s.armUnit u = s.acqArmUnit u := by
  unfold State.armUnit
  rw [if_neg (by simp [h])]

theorem forNums_armUnit {xs : List Nat} (hxs : xs.Nodup) (s : State) (h : ∀ u ∈ xs, (s.acqN u).complete = false) :
    forNums xs (fun u s => s.armUnit u) s = forNums xs (fun u s => s.acqArmUnit u) s := by
  induction xs generalizing s with
  | nil => rfl
  | cons x xs ih =>
    obtain ⟨hx, hnodup⟩ := List.nodup_cons.mp hxs
    have hfirst : s.armUnit x = s.acqArmUnit x := armUnit_of_done (h x (by simp))
    refine (congrArg (forNums xs fun u s => s.armUnit u) hfirst).trans (ih hnodup _ fun u hu => ?_)
    rw [acqArmUnit_other (ne_of_mem_of_not_mem hu hx)]
    exact h u (by simp [hu])

/-- The units that ACQ_ARM arms. -/
def State.armNamed (s : State) (mask : Nat) : List Nat := (bitsIn 8 mask).filter fun u => (s.acqN u).st = .idle

theorem armNamed_nodup (s : State) (mask : Nat) : (s.armNamed mask).Nodup := (nodup_bitsIn 8 mask).filter _

theorem mem_armNamed {mask : Nat} : u ∈ s.armNamed mask ↔ u < 8 ∧ mask.testBit u = true ∧ (s.acqN u).st = .idle := by
  simp [State.armNamed, mem_bitsIn, and_assoc]

theorem maskOf_congr {n : Nat} {p q : Nat → Bool} (h : ∀ i < n, p i = q i) : maskOf n p = maskOf n q := by
  unfold maskOf
  exact List.foldl_ext _ _ _ fun a i hi => by rw [h i (List.mem_range.mp hi)]

theorem maskOf_succ (n : Nat) (p : Nat → Bool) : maskOf (n + 1) p = if p n then maskOf n p + 2 ^ n else maskOf n p := by
  unfold maskOf
  rw [List.range_succ, List.foldl_append]
  rfl

theorem maskOf_lt (n : Nat) (p : Nat → Bool) : maskOf n p < 2 ^ n := by
  induction n with
  | zero => simp [maskOf]
  | succ n ih =>
    rw [maskOf_succ, Nat.pow_succ]
    split <;> omega

theorem testBit_maskOf (n : Nat) (p : Nat → Bool) (i : Nat) : (maskOf n p).testBit i = (decide (i < n) && p i) := by
  induction n with
  | zero => simp [maskOf]
  | succ n ih =>
    have hlt := maskOf_lt n p
    rw [maskOf_succ]
    rcases Nat.lt_trichotomy i n with h | rfl | h
    · cases p n
      · simp [ih, h, Nat.lt_succ_of_lt h]
      · rw [if_pos rfl, Nat.add_comm, Nat.testBit_two_pow_add_gt h, ih]
        simp [h, Nat.lt_succ_of_lt h]
    · cases hp : p i
      · simp [ih]
      · rw [if_pos rfl, Nat.add_comm, Nat.testBit_two_pow_add_eq, ih]
        simp
    · have hsum : (if p n then maskOf n p + 2 ^ n else maskOf n p) < 2 ^ i :=
        (by rw [Nat.pow_succ]; split <;> omega : _ < 2 ^ (n + 1)).trans_le (Nat.pow_le_pow_right (by decide) h)
      rw [Nat.testBit_lt_two_pow hsum]
      simp [Nat.not_lt.mpr (Nat.succ_le_of_lt h)]

theorem acqN_done (t : State) (c : Src) (op d u : Nat) : (t.done c op d).acqN u = t.acqN u := acqN_of_acq (by simp) u

theorem acqN_took (s : State) (c : Src) (u : Nat) : (s.took c).acqN u = s.acqN u := acqN_of_acq (by simp) u

theorem maskOf_armNamed (s : State) (mask : Nat) : maskOf 8 (s.armNamed mask).contains =
    maskOf 8 fun u => mask.testBit u && (s.acqN u).st = .idle :=
  maskOf_congr fun u hu => by
    rw [Bool.eq_iff_iff]
    simp [mem_armNamed, hu]

variable {c : Src} {p : Bytes}

theorem acqArm_arms (h : pb p 0 ≠ 0) : s.acqArm c p =
    (forNums (s.armNamed (pb p 0)) (fun u s => s.armUnit u) s).done c 0x0301 (maskOf 8 (s.armNamed (pb p 0)).contains) := if_neg h

theorem acqArm_none (h : pb p 0 = 0) : s.acqArm c p = s.refuse c 0x0301 .checkFail 1 := if_pos h

/-! ### Stopping -/

/-- A unit that ACQ_STOP stops. -/
def AcqUnit.Stopped (a b : AcqUnit) (now : Bool) : Prop :=
  if a.st = .triggered ∧ now = false then b = { a with stopping := true }
  else b.st = .idle ∧ (a.st = .triggered → b.complete = true)

theorem acqStopUnit_same (hu : u < 8) (s : State) (now : Bool) : (s.acqN u).Stopped ((s.acqStopUnit u now).acqN u) now := by
  unfold AcqUnit.Stopped State.acqStopUnit
  dsimp only
  cases hst : (s.acqN u).st <;> simp only [reduceCtorEq, false_and, if_false, true_and]
  case triggered =>
    cases now <;> simp [acqN_modAcq_same hu, hst]
  all_goals simp [acqN_modAcq_same hu, hst]

theorem acqStopUnit_other {v : Nat} (h : v ≠ u) (s : State) (now : Bool) : (s.acqStopUnit u now).acqN v = s.acqN v := by
  unfold State.acqStopUnit
  dsimp only
  split
  · rfl
  · split <;> exact acqN_modAcq_other h _ _
  · exact acqN_modAcq_other h _ _

theorem only_acqStopUnit_parts (s : State) (u : Nat) (now : Bool) : Only [.regs, .acq] s (s.acqStopUnit u now) :=
  only_acqStopUnit s u now (Only.refl _ s) (by decide) (by decide)

theorem desk_acqStopUnit {s0 : State} (h : DeskRegs s0 s) (u : Nat) (now : Bool) : DeskRegs s0 (s.acqStopUnit u now) := by
  have hacq (t : State) (f : AcqUnit → AcqUnit) (ht : DeskRegs s0 t) : DeskRegs s0 (t.modAcq u f) := kept_of_regs (s := t) rfl ht
  unfold State.acqStopUnit
  dsimp only
  split
  · exact h
  · exact kept_ite (hacq _ _ (kept_count _ _ _ h (not_onDesk_of_base (by decide) _ _))) (hacq _ _ h)
  · exact hacq _ _ h

theorem acqStop_stops (h : pb p 0 ≠ 0) : s.acqStop c p =
    (forNums (bitsIn 8 (pb p 0)) (fun u s => s.acqStopUnit u ((pb p 1).testBit 0)) s).done c 0x0303 := if_neg h

theorem acqStop_none (h : pb p 0 = 0) : s.acqStop c p = s.refuse c 0x0303 .checkFail 1 := if_pos h

/-! ### Triggers -/

/-- The units that a trigger takes. -/
def State.triggerTook (s : State) (mask : Nat) : Nat := maskOf 8 fun u => mask.testBit u && (s.acqN u).st = .armed

theorem acqTrigger_takes (h : pb p 0 ≠ 0) : ∃ asks : Bool, s.acqTrigger c p =
    (if asks then (s.acqTrigMask (pb p 0) 9 s.nt64 c.ring.val).ptmAsk 4 s.nt64 0 true
      else s.acqTrigMask (pb p 0) 9 s.nt64 c.ring.val).done c 0x0302 (s.triggerTook (pb p 0)) := ⟨_, if_neg h⟩

theorem acqTrigger_none (h : pb p 0 = 0) : s.acqTrigger c p = s.refuse c 0x0302 .checkFail 1 := if_pos h

/-! ### Headers -/

theorem acqDrained_took (s : State) (c : Src) (u : Nat) : (s.took c).acqDrained u = s.acqDrained u := by rw [took_eq_desk]; rfl

/-- What the writing of a header reads does not change with time. -/
theorem header_advanceTo (s : State) (n u : Nat) : (s.advanceTo n).acqHeader u = s.acqHeader u ∧ (s.advanceTo n).acqBase u = s.acqBase u ∧
    (s.advanceTo n).segBytes u = s.segBytes u := by
  obtain ⟨_, _, _, _, h⟩ := advanceTo_eq s n
  rw [h]
  exact ⟨rfl, rfl, rfl⟩

/-- The unit has no header to write any more; DRAM and the free values are as given. -/
def State.headerIn (s : State) (u : Nat) (d : List (Nat × Byte)) (n : Nat) : State :=
  ({ s with dram := d, free := n } : State).modAcq u fun a => { a with
    segs := vset a.segs (s.acqN u).cur .full, last := some (s.acqN u).cur, complete := false }

/-- The header of a record stands in DRAM. -/
def State.headerPut (s : State) (u : Nat) : State :=
  s.headerIn u (memWrite s.dram (s.acqBase u + (s.acqN u).cur * s.segBytes u) (s.acqHeader u)) (s.free + 160)

theorem headerIn_effect (hu : u < 8) (s : State) (d : List (Nat × Byte)) (n : Nat) : (s.headerIn u d n).acqN u =
      { s.acqN u with segs := vset (s.acqN u).segs (s.acqN u).cur .full, last := some (s.acqN u).cur, complete := false } ∧
    (s.headerIn u d n).dram = d ∧ (s.headerIn u d n).regs = s.regs ∧ (s.headerIn u d n).now = s.now := by
  have hunit : (s.headerIn u d n).acqN u = _ := acqN_modAcq_same hu _ _
  exact ⟨hunit, rfl, rfl, rfl⟩

theorem acqFinish_eq (s : State) (u : Nat) : s.acqFinish u =
    let t := ((s.advanceTo (s.acqDrained u)).headerPut u).countWrap .acqRecCnt u
    if bitOf (t.reg .acqIrq u) 8 then t.raise (bitsOf (t.reg .acqIrq u) 7 0) else t := rfl

/-- A count of Table SCO-4 that wraps. -/
theorem countWrap_reg {s : State} (hs : cellsRise s.regs) (r : Reg) (i : Nat) :
    ((s.countWrap r i).reg r i).toNat = ((s.reg r i).toNat + 1) % 2 ^ 32 := by
  have hreg : (s.countWrap r i).reg r i = BitVec.ofNat 64 (((s.reg r i).toNat + 1) % 2 ^ 32) := regGet_regSet_same hs r i 0 _
  rw [hreg, BitVec.toNat_ofNat]
  omega

theorem acqFinish_effect (hu : u < 8) (s : State) : (s.acqFinish u).acqN u =
      { s.acqN u with segs := vset (s.acqN u).segs (s.acqN u).cur .full, last := some (s.acqN u).cur, complete := false } ∧
    s.acqDrained u ≤ (s.acqFinish u).now ∧
    (s.acqFinish u).dram = memWrite s.dram (s.acqBase u + (s.acqN u).cur * s.segBytes u) (s.acqHeader u) ∧
    (cellsRise s.regs → ((s.acqFinish u).reg .acqRecCnt u).toNat = ((s.reg .acqRecCnt u).toNat + 1) % 2 ^ 32) := by
  obtain ⟨hhead, hbase, hseg⟩ := header_advanceTo s (s.acqDrained u) u
  have hnow := le_now_advanceTo s (s.acqDrained u)
  have hacq : (s.advanceTo (s.acqDrained u)).acqN u = s.acqN u := acqN_of_acq (by simp) u
  have hdram : (s.advanceTo (s.acqDrained u)).dram = s.dram := by simp
  have hregs : (s.advanceTo (s.acqDrained u)).regs = s.regs := by simp
  rw [acqFinish_eq, State.headerPut]
  generalize s.advanceTo (s.acqDrained u) = v at *
  obtain ⟨hunit, hput, hpregs, hpnow⟩ := headerIn_effect hu v (memWrite v.dram (v.acqBase u + (v.acqN u).cur * v.segBytes u) (v.acqHeader u)) (v.free + 160)
  generalize v.headerIn u (memWrite v.dram (v.acqBase u + (v.acqN u).cur * v.segBytes u) (v.acqHeader u)) (v.free + 160) = x at *
  have hcount (hs : cellsRise s.regs) : (((x).countWrap .acqRecCnt u).reg .acqRecCnt u).toNat =
      ((s.reg .acqRecCnt u).toNat + 1) % 2 ^ 32 := by
    rw [countWrap_reg (by rw [hpregs, hregs]; exact hs), State.reg, hpregs, hregs, State.reg]
  have hwrap : Only [.regs] (x) ((x).countWrap .acqRecCnt u) := only_countWrap _ _ (Only.refl _ _) (by decide)
  dsimp only
  generalize (x).countWrap .acqRecCnt u = w at *
  have hraise : Only [.cmd] w (if bitOf (w.reg .acqIrq u) 8 then w.raise (bitsOf (w.reg .acqIrq u) 7 0) else w) :=
    only_ite (only_raise w _ (Only.refl _ w) (by decide)) (Only.refl _ w)
  generalize (if bitOf (w.reg .acqIrq u) 8 then w.raise (bitsOf (w.reg .acqIrq u) 7 0) else w) = y at *
  refine ⟨?_, ?_, ?_, fun hs => ?_⟩
  · rw [acqN_of_acq hraise.keeps_acq, acqN_of_acq hwrap.keeps_acq, hunit, hacq]
  · rw [hraise.keeps_now, hwrap.keeps_now, hpnow]
    exact hnow
  · rw [hraise.keeps_dram, hwrap.keeps_dram, hput, hdram, hbase, hacq, hseg, hhead]
  · rw [← hcount hs, State.reg, hraise.keeps_regs, State.reg]

/-! ### Segments -/

theorem segFree_holds (hfull : vget (s.acqN u).segs n .empty = .full) : s.segFree u n =
    let t := s.modAcq u fun a => { a with segs := vset a.segs n .empty }
    if (t.acqN u).st = .hold then t.acqArmUnit u else t := if_pos hfull

theorem segFree_other (hfull : vget (s.acqN u).segs n .empty ≠ .full) : s.segFree u n = s := if_neg hfull

theorem nextEmpty_isSome (hn : n < s.segCount u) (hempty : vget (s.acqN u).segs n .empty = .empty) : ∃ i, s.nextEmpty u = some i := by
  refine Option.isSome_iff_exists.mp ?_
  unfold State.nextEmpty
  dsimp only
  rw [List.find?_isSome]
  refine ⟨n, List.mem_map.mpr ?_, by simpa using hempty⟩
  set start := match (s.acqN u).last with
    | some i => i + 1
    | none => 0
  refine ⟨(n + (s.segCount u - start % s.segCount u)) % s.segCount u, by simp; exact Nat.mod_lt _ (by omega), ?_⟩
  have hlt : start % s.segCount u < s.segCount u := Nat.mod_lt _ (by omega)
  calc (start + (n + (s.segCount u - start % s.segCount u)) % s.segCount u) % s.segCount u
      = (start % s.segCount u + (n + (s.segCount u - start % s.segCount u))) % s.segCount u := by simp [Nat.add_mod]
    _ = (n + s.segCount u) % s.segCount u := by congr 1; omega
    _ = n := by rw [Nat.add_mod_right, Nat.mod_eq_of_lt hn]

end

end Sys2Proof.Machine
end

section
/-! The states of the acquisition units, command by command and event by event. -/

-- The proofs are elaborated one after the other: this bounds the threads of the compiler, whose stacks count as its memory.
set_option Elab.async false

namespace Sys2Proof.Machine

theorem bitsIn_two_pow : ∀ u < 8, bitsIn 8 (2 ^ u) = [u] := by decide

/-- What ACQ_STOP makes of the units, and its answer. -/
theorem stopUnits_effect {s : State} (hs : s.storesCanonical) (c : Src) (mask : Nat) (now : Bool) :
    (∀ u < 8, if mask.testBit u then
        (s.acqN u).Stopped (((forNums (bitsIn 8 mask) (fun u s => s.acqStopUnit u now) (s.took c)).done c 0x0303).acqN u) now
      else ((forNums (bitsIn 8 mask) (fun u s => s.acqStopUnit u now) (s.took c)).done c 0x0303).acqN u = s.acqN u) ∧
    Answered c 0x0303 .ok 0 s.nt64 s ((forNums (bitsIn 8 mask) (fun u s => s.acqStopUnit u now) (s.took c)).done c 0x0303) := by
  have hother (i : Nat) (t : State) (v : Nat) (h : v ≠ i) : (t.acqStopUnit i now).acqN v = t.acqN v := acqStopUnit_other h t now
  have hparts : Only [.regs, .acq] (s.took c) (forNums (bitsIn 8 mask) (fun u s => s.acqStopUnit u now) (s.took c)) :=
    only_forNums _ _ (fun u t ht => ht.trans (only_acqStopUnit_parts t u now) fun _ h => h) (Only.refl _ _)
  have hregs : DeskRegs (s.took c) (forNums (bitsIn 8 mask) (fun u s => s.acqStopUnit u now) (s.took c)) :=
    kept_forNums _ _ (fun u t ht => desk_acqStopUnit ht u now) (.refl _)
  refine ⟨fun u hu => ?_, answered_done hs (.of_desk hparts hregs (by simpa using regsRise_of_storesCanonical hs)) (by rw [hparts.keeps_nt]; simp)⟩
  rw [acqN_done, ← acqN_took s c u]
  by_cases hbit : mask.testBit u = true
  · obtain ⟨t, -, hunit, hin⟩ := forNums_acqN_in (fun i t => only_acqStopUnit_parts t i now) hother (nodup_bitsIn 8 mask)
      ((mem_bitsIn 8 mask u).mpr ⟨hu, hbit⟩) (s.took c)
    rw [if_pos hbit, hin, ← hunit]
    exact acqStopUnit_same hu t now
  · rw [if_neg hbit, forNums_acqN_out hother _ (fun h => hbit ((mem_bitsIn 8 mask u).mp h).2)]

/-- Settles O52, unit by unit: a pass over the units of a mask changes each of them by its own step. -/
theorem acquisitionUnitsKeepTheirStates : Obligations.AcquisitionUnitsKeepTheirStates := by
  refine ⟨?arm, ?armLater, ?armNone, ?trigger, ?triggerNone, ?stopNow, ?stopLater, ?stopNone, ?post, ?postNone, ?header, ?headerNone, ?rearm,
    ?rearmNone, ?free, ?freeHold, ?freeNone, ?edge⟩
  case arm =>
    intro c p s hs hadm hmask hdone
    have hnamed : (s.took c).armNamed (pb p 0) = s.armNamed (pb p 0) := by simp only [State.armNamed, acqN_took]
    refine ⟨_, congrArg Host.Outcome.next (obey_of_admits hadm _), ?_⟩
    beta_reduce
    rw [acqArm_arms hmask, hnamed, maskOf_armNamed, forNums_armUnit (armNamed_nodup s _) (s.took c) fun u hu => ?done]
    case done =>
      obtain ⟨hu8, hbit, hidle⟩ := mem_armNamed.mp hu
      rw [acqN_took]
      exact hdone u hu8 hbit hidle
    have honly : Only [.acq] (s.took c) (forNums (s.armNamed (pb p 0)) (fun u s => s.acqArmUnit u) (s.took c)) :=
      only_forNums _ _ (fun u t ht => ht.trans (only_acqArmUnit_acq t u) fun _ h => h) (Only.refl _ _)
    refine ⟨fun u hu hbit hidle => ?_, fun u hu hnot => ?_, ?_⟩
    · obtain ⟨t, ht, hunit, hin⟩ := forNums_acqN_in (fun i t => only_acqArmUnit_acq t i) acqArmUnit_others (armNamed_nodup s (pb p 0))
        (mem_armNamed.mpr ⟨hu, hbit, hidle⟩) (s.took c)
      rw [acqN_done, hin, acqArmUnit_same hu, State.armedUnit, nextEmpty_congr (s := s) ((ht.keeps_live).trans (by simp)) (hunit.trans (acqN_took s c u)),
        hunit, acqN_took, ht.keeps_now]
      simp <;> rfl
    · rw [acqN_done, forNums_acqN_out acqArmUnit_others _ (fun h => ?_), acqN_took]
      obtain ⟨-, hbit, hidle⟩ := mem_armNamed.mp h
      rcases hnot with h | h
      · simp [hbit] at h
      · exact h hidle
    · exact answered_done hs (.of_only honly (by decide)) (by rw [honly.keeps_nt]; simp)
  case armLater =>
    intro c p u s hadm hu hp hidle hdone
    have hnamed : (s.took c).armNamed (pb p 0) = [u] := by
      rw [State.armNamed, hp, bitsIn_two_pow u hu]
      simp [acqN_took, hidle]
    refine ⟨_, congrArg Host.Outcome.next (obey_of_admits hadm _), ?_⟩
    beta_reduce
    rw [acqArm_arms (by rw [hp]; exact (Nat.two_pow_pos u).ne'), hnamed]
    have hone : forNums [u] (fun u s => s.armUnit u) (s.took c) = ((s.took c).acqFinish u).acqArmUnit u := by
      have harm : (s.took c).armUnit u = ((s.took c).acqFinish u).acqArmUnit u := by
        unfold State.armUnit
        rw [if_pos (by rw [acqN_took]; exact hdone)]
      exact harm
    rw [hone]
    obtain ⟨hunit, hnow, -, -⟩ := acqFinish_effect hu (s.took c)
    rw [acqDrained_took] at hnow
    generalize (s.took c).acqFinish u = t at *
    obtain ⟨hst, hcomplete⟩ := armedUnit_state t u
    rw [acqN_done, acqArmUnit_same hu]
    refine ⟨?_, hcomplete (by rw [hunit]), hst⟩
    simpa [(only_acqArmUnit_acq t u).keeps_now] using hnow
  case armNone =>
    intro c p s hs hadm hmask
    refine ⟨_, congrArg Host.Outcome.next (obey_of_admits hadm _), ?_⟩
    beta_reduce
    rw [acqArm_none hmask]
    exact ⟨by simp, answered_refuse hs (.refl _)⟩
  case trigger =>
    intro c p s hs hadm hmask
    obtain ⟨asks, htakes⟩ := acqTrigger_takes (s := s.took c) (c := c) hmask
    refine ⟨_, congrArg Host.Outcome.next (obey_of_admits hadm _), ?_⟩
    beta_reduce
    rw [htakes, nt64_took]
    have hunits := acqTrigMask_triggered (s.took c) (pb p 0) 9 s.nt64 c.ring.val
    have hparts := only_acqTrigMask_parts (s.took c) (pb p 0) 9 s.nt64 c.ring.val
    have hclock : DeskClock (s.took c) ((s.took c).acqTrigMask (pb p 0) 9 s.nt64 c.ring.val) :=
      dclock_forNums _ _ (fun u _ hu => dclock_acqTrig hu u 9 _ _) (.refl _)
    have htook : (s.took c).triggerTook (pb p 0) = maskOf 8 fun u => (pb p 0).testBit u && (s.acqN u).st = .armed := by
      simp only [State.triggerTook, acqN_took]
    rw [htook]
    generalize (s.took c).acqTrigMask (pb p 0) 9 s.nt64 c.ring.val = t at *
    have hask : Only [.regs, .nt] t (if asks then t.ptmAsk 4 s.nt64 0 true else t) :=
      only_ite (only_ptmAsk t 4 s.nt64 0 true (Only.refl _ t) (by decide) (by decide)) (Only.refl _ t)
    have hclock' : DeskClock (s.took c) (if asks then t.ptmAsk 4 s.nt64 0 true else t) := dclock_ite (dclock_ptmAsk hclock 4 s.nt64 0 true) hclock
    generalize (if asks then t.ptmAsk 4 s.nt64 0 true else t) = w at *
    have honly : Only [.regs, .nt, .acq] (s.took c) w := hparts.trans (hask.mono (by decide)) (by decide)
    refine ⟨fun u hu => ?_, ?_⟩
    · rw [acqN_done, acqN_of_acq hask.keeps_acq u, ← acqN_took s c u]
      exact hunits u hu
    · obtain ⟨hregs, ev, hev⟩ := hclock'
      have h64 : w.nt64 = s.nt64 := by rw [State.nt64, hev]; exact nt64_took s c
      rw [← h64]
      exact answered_complete hs (.of_desk honly hregs (by simpa using regsRise_of_storesCanonical hs)) _
  case triggerNone =>
    intro c p s hs hadm hmask
    refine ⟨_, congrArg Host.Outcome.next (obey_of_admits hadm _), ?_⟩
    beta_reduce
    rw [acqTrigger_none hmask]
    exact ⟨by simp, answered_refuse hs (.refl _)⟩
  case stopNow =>
    intro c p s hs hadm hmask hnow
    refine ⟨_, congrArg Host.Outcome.next (obey_of_admits hadm _), ?_⟩
    beta_reduce
    rw [acqStop_stops hmask, hnow]
    obtain ⟨hunits, hans⟩ := stopUnits_effect hs c (pb p 0) true
    refine ⟨fun u hu => ?_, hans⟩
    have h := hunits u hu
    unfold AcqUnit.Stopped at h
    simpa using h
  case stopLater =>
    intro c p s hs hadm hmask hnow
    refine ⟨_, congrArg Host.Outcome.next (obey_of_admits hadm _), ?_⟩
    beta_reduce
    rw [acqStop_stops hmask, hnow]
    obtain ⟨hunits, hans⟩ := stopUnits_effect hs c (pb p 0) false
    refine ⟨fun u hu => ?_, hans⟩
    have h := hunits u hu
    unfold AcqUnit.Stopped at h
    by_cases hbit : (pb p 0).testBit u = true
    · rw [if_pos hbit] at h ⊢
      by_cases htrig : (s.acqN u).st = .triggered
      · rw [if_pos htrig]
        simpa [htrig] using h
      · rw [if_neg htrig]
        simp only [htrig, false_and, if_false] at h
        exact h.1
    · rw [if_neg hbit] at h ⊢
      exact h
  case stopNone =>
    intro c p s hs hadm hmask
    refine ⟨_, congrArg Host.Outcome.next (obey_of_admits hadm _), ?_⟩
    beta_reduce
    rw [acqStop_none hmask]
    exact ⟨by simp, answered_refuse hs (.refl _)⟩
  case post =>
    intro u s hst hdone
    refine ⟨_, if_pos (by simp [hst, hdone]), only_modAcq _ _ (Only.refl _ s) (by decide), fun v hv => ?_, ?_, ?_⟩
    · exact acqN_modAcq_other (fun h => hv (Fin.ext h)) s _
    · rw [acqN_modAcq_same u.isLt]
      exact hdone
    · rw [acqN_modAcq_same u.isLt]
      exact if_congr (by simp) rfl rfl
  case postNone =>
    intro u s h
    exact if_neg (by rcases h with h | h <;> simp [h])
  case header =>
    intro u s hs hdone hst
    obtain ⟨hunit, hnow, hdram, hcnt⟩ := acqFinish_effect u.isLt s
    exact ⟨_, if_pos (by simp [hst, hdone]), hunit, hnow, hdram, hcnt (regsRise_of_storesCanonical hs)⟩
  case headerNone =>
    intro u s h
    exact if_neg (by rcases h with h | h <;> simp [h])
  case rearm =>
    intro u s hst hdone
    exact ⟨_, if_pos (by simp [hst, hdone]), only_acqArmUnit_acq s u, acqArmUnit_same u.isLt s⟩
  case rearmNone =>
    intro u s h
    exact if_neg (by rcases h with h | h <;> simp [h])
  case free =>
    intro u v s hfull hst
    refine ⟨_, congrArg Host.Outcome.next (segFree_holds hfull), ?_⟩
    dsimp only
    rw [if_neg (by rw [acqN_modAcq_same u.isLt]; exact hst), acqN_modAcq_same u.isLt]
    exact ⟨rfl, only_modAcq _ _ (Only.refl _ s) (by decide)⟩
  case freeHold =>
    intro u v s hfull hst hseg
    refine ⟨_, congrArg Host.Outcome.next (segFree_holds hfull), ?_⟩
    have hunit := acqN_modAcq_same u.isLt s fun a => { a with segs := vset a.segs (v.toNat % 256) .empty }
    have honly : Only [.acq] s (s.modAcq u fun a => { a with segs := vset a.segs (v.toNat % 256) .empty }) :=
      only_modAcq _ _ (Only.refl _ s) (by decide)
    have hcount : (s.modAcq u fun a => { a with segs := vset a.segs (v.toNat % 256) .empty }).segCount u = s.segCount u := rfl
    dsimp only
    generalize (s.modAcq u fun a => { a with segs := vset a.segs (v.toNat % 256) .empty }) = t at *
    have hempty : vget (t.acqN u).segs (v.toNat % 256) .empty = .empty := by
      rw [hunit]
      exact vget_vset_same _ _ _ _ (Nat.mod_lt _ (by decide))
    obtain ⟨i, hi⟩ := nextEmpty_isSome (by rw [hcount]; exact hseg) hempty
    rw [if_pos (by rw [hunit]; exact hst), acqArmUnit_same u.isLt]
    refine ⟨?_, honly.trans (only_acqArmUnit_acq t u) fun _ h => h⟩
    rw [State.armedUnit, hi] <;> rfl
  case freeNone => exact fun u v s h => congrArg Host.Outcome.next (segFree_other h)
  case edge =>
    intro s
    refine ⟨_, rfl, fun u hu => ?_⟩
    have hask (t : State) : Only [.regs, .nt] t (t.ptmAsk 2 s.nt64 0) := only_ptmAsk t 2 s.nt64 0 false (Only.refl _ t) (by decide) (by decide)
    have hall : (s.acqOffer 6 s.tripClock 0 fun _ => true) =
        forNums ((List.range 8).filter fun u => s.lvb .acqTrig u 0 6) (fun u s' => s'.acqTrig u 6 s.tripClock 0) s := by
      simp [State.acqOffer]
    have hmem : (maskOf 8 fun u => s.lvb .acqTrig u 0 6).testBit u = true ↔ u ∈ (List.range 8).filter fun u => s.lvb .acqTrig u 0 6 := by
      rw [testBit_maskOf]
      simp [hu]
    have h := acqTrigs_triggered ((List.nodup_range (n := 8)).filter _) s 6 s.tripClock 0 (u := u) hu
      (xs := (List.range 8).filter fun u => s.lvb .acqTrig u 0 6)
    rw [acqN_of_acq (hask _).keeps_acq u, hall, if_congr hmem rfl rfl]
    exact h

end Sys2Proof.Machine
end

section
/-! The handed commands of a state: what an answer reads of them, and that an answer and an entry to HALTED hand no new ones. -/

-- The proofs are elaborated one after the other: this bounds the threads of the compiler, whose stacks count as its memory.
set_option Elab.async false

namespace Sys2Proof.Machine

/-- What two states must share for an answer to a command of the one to be an answer to that command of the other: the commands may carry
other marks. -/
structure SameCounter (s v : State) : Prop where
  host  : v.host = s.host
  rings : v.cmd.rings = s.cmd.rings
  srcs  : v.cmd.handed.map Handed.src = s.cmd.handed.map Handed.src
  sent  : v.mgt.sent = s.mgt.sent
  asked : v.mgt.cmd.map (fun m => (m.cmd.src, m.peer, m.reqId)) = s.mgt.cmd.map (fun m => (m.cmd.src, m.peer, m.reqId))
  pair  : v.pair = s.pair
  base  : ∀ r : Fin 129, v.reg .cmdCqBase r = s.reg .cmdCqBase r
  cfg   : ∀ r : Fin 129, v.reg .cmdRingCfg r = s.reg .cmdRingCfg r

section
variable {s u v : State} {c : Src} {op d : Nat} {st : Status} {at_ : DWord}

theorem SameCounter.refl (s : State) : SameCounter s s := ⟨rfl, rfl, rfl, rfl, rfl, rfl, fun _ => rfl, fun _ => rfl⟩

theorem SameCounter.trans (h : SameCounter s u) (h' : SameCounter u v) : SameCounter s v where
  host := h'.host.trans h.host
  rings := h'.rings.trans h.rings
  srcs := h'.srcs.trans h.srcs
  sent := h'.sent.trans h.sent
  asked := h'.asked.trans h.asked
  pair := h'.pair.trans h.pair
  base r := (h'.base r).trans (h.base r)
  cfg r := (h'.cfg r).trans (h.cfg r)

theorem SameCounter.of_desk (h : SameDesk s v) : SameCounter s v where
  host := h.host
  rings := by rw [h.cmd]
  srcs := by rw [h.cmd]
  sent := h.mgt.1
  asked := by rw [h.mgt.2]
  pair := h.pair
  base := h.base
  cfg := h.cfg

theorem SameCounter.of_only {l : List Part} (h : Only l s v)
    (hl : ∀ p ∈ [Part.host, .mgt, .cmd, .live, .regs], p ∉ l := by decide) : SameCounter s v where
  host := h.keeps_host (hl _ (by decide))
  rings := by rw [h.keeps_cmd (hl _ (by decide))]
  srcs := by rw [h.keeps_cmd (hl _ (by decide))]
  sent := by rw [h.keeps_mgt (hl _ (by decide))]
  asked := by rw [h.keeps_mgt (hl _ (by decide))]
  pair := pair_congr (h.keeps_live (hl _ (by decide)))
  base _ := by rw [State.reg, h.keeps_regs (hl _ (by decide)), State.reg]
  cfg _ := by rw [State.reg, h.keeps_regs (hl _ (by decide)), State.reg]

theorem any_of_srcs {xs ys : List Handed} (h : xs.map Handed.src = ys.map Handed.src) (p : Src → Bool) :
    (xs.any fun x => p x.src) = ys.any fun x => p x.src := by
  have hmap (zs : List Handed) : (zs.any fun x => p x.src) = (zs.map Handed.src).any p := by rw [List.any_map]; rfl
  rw [hmap, hmap, h]

theorem SameCounter.own (h : SameCounter s v) (c : Src) : v.ownCommand c = s.ownCommand c := by
  have hasked : (v.mgt.cmd.any fun m => sameSrc m.cmd.src c) = s.mgt.cmd.any fun m => sameSrc m.cmd.src c := by
    have hm := h.asked
    cases hv : v.mgt.cmd <;> cases hs : s.mgt.cmd <;> simp_all
  unfold State.ownCommand
  rw [any_of_srcs h.srcs fun x => sameSrc x c, hasked]

/-- The answer to a command of one state is the answer to that command of the other. -/
theorem SameCounter.answered (h : SameCounter s v) {t : State} (ha : Answered c op st d at_ v t) : Answered c op st d at_ s t := by
  have hring : ∀ r, v.ring r = s.ring r := fun r => by rw [State.ring, h.rings, State.ring]
  have hslot : v.cqSlot c.ring = s.cqSlot c.ring := by
    unfold State.cqSlot
    rw [hring, h.base]
  have hdepth : v.depth c.ring = s.depth c.ring := by
    unfold State.depth
    rw [h.cfg]
  unfold Answered HostTakes HostSame at *
  rw [h.pair, h.own, h.sent, hring, hslot, hdepth, h.host] at ha
  split
  next hp => rwa [if_pos hp] at ha
  next hp =>
    rw [if_neg hp] at ha
    split
    next h128 =>
      rw [if_pos h128] at ha
      refine ⟨ha.1, ?_⟩
      have hm := h.asked
      obtain ⟨-, ha⟩ := ha
      cases hv : v.mgt.cmd with
      | none =>
        cases hs : s.mgt.cmd with
        | none => simpa [hv] using ha
        | some m => simp [hv, hs] at hm
      | some x =>
        cases hs : s.mgt.cmd with
        | none => simp [hv, hs] at hm
        | some m =>
          simp only [hv, hs, Option.map_some, Option.some.injEq, Prod.mk.injEq] at hm
          obtain ⟨hsrc, hpeer, hreq⟩ := hm
          rw [hv] at ha
          by_cases hsame : sameSrc m.cmd.src c = true
          · simpa [Option.filter, hsrc, hpeer, hreq, hsame] using ha
          · simpa [Option.filter, hsrc, hsame] using ha
    next h128 => rwa [if_neg h128] at ha

theorem SameCounter.complete (h : SameCounter s v) (hv : v.storesCanonical) (c : Src) (op : Nat) (st : Status) (d : Nat) (at_ : DWord) :
    Answered c op st d at_ s (v.complete c op st d at_) := h.answered (State.complete_answers c op st d at_ hv (.refl v))

/-- A command that is taken carries another mark. -/
theorem counter_took (s : State) (c : Src) (done : Bool) : SameCounter s (s.took c done) := by
  unfold State.took
  split
  · refine ⟨rfl, rfl, rfl, rfl, ?_, rfl, fun _ => rfl, fun _ => rfl⟩
    have hmap (o : Option MgtCmd) : ((o.map fun x => { x with cmd := { x.cmd with acted := done } }).map fun m => (m.cmd.src, m.peer, m.reqId)) =
        o.map fun m => (m.cmd.src, m.peer, m.reqId) := by cases o <;> rfl
    exact hmap s.mgt.cmd
  · refine ⟨rfl, rfl, ?_, rfl, rfl, rfl, fun _ => rfl, fun _ => rfl⟩
    have hmap (xs : List Handed) : (xs.map fun h => if h.src = c then { h with acted := done } else h).map Handed.src = xs.map Handed.src := by
      rw [List.map_map]
      refine List.map_congr_left fun x _ => ?_
      by_cases hx : x.src = c <;> simp [hx]
    exact hmap s.cmd.handed

end

/-! ### No new commands -/

/-- Every handed command was handed before. -/
def NoneHanded (s t : State) : Prop := ∀ h ∈ t.cmd.handed, h ∈ s.cmd.handed

section
variable {s0 s t : State} (h : NoneHanded s0 s)

theorem NoneHanded.refl (s : State) : NoneHanded s s := fun _ h => h

include h

theorem handed_of_cmd (ht : t.cmd.handed = s.cmd.handed) : NoneHanded s0 t := fun x hx => h x (by rwa [ht] at hx)

theorem handed_of_only {l : List Part} (ht : Only l s t) (hl : .cmd ∉ l := by decide) : NoneHanded s0 t :=
  handed_of_cmd h (by rw [ht.keeps_cmd hl])

theorem handed_complete (c : Src) (op : Nat) (st : Status) (d : Nat) (at_ : DWord) : NoneHanded s0 (s.complete c op st d at_) := by
  have hremember (u : State) (hu : NoneHanded s0 u) : NoneHanded s0 (u.remember c st at_) := handed_of_cmd (s := u) hu rfl
  have hentry : NoneHanded s0 ((s.dropCommand c).writeEntry c op st d at_) := by
    have hdrop : NoneHanded s0 (s.dropCommand c) := fun x hx => h x (List.mem_of_mem_eraseP hx)
    obtain ⟨htold, -, -⟩ := writeEntry_told (s.dropCommand c) c op st d at_
    obtain ⟨-, -, hhanded, -, -⟩ := htold.fields
    exact handed_of_cmd hdrop hhanded
  unfold State.complete
  split
  · exact hremember s h
  · split
    · split
      · exact handed_of_only (l := [.regs, .mgt]) h (by simp +decide only [only_mgtAnswer, Only.refl])
      · exact h
    · dsimp only
      generalize (s.dropCommand c).writeEntry c op st d at_ = u at *
      split
      · exact hremember u hentry
      · exact hentry

theorem handed_refuses {α : Type} (l : List α) (src : α → Src) (op : Nat) (d : α → Nat) :
    NoneHanded s0 (l.foldl (fun s p => s.refuse (src p) op .error (d p)) s) :=
  holds_foldl (P := NoneHanded s0) l (fun _ p _ hu => handed_complete hu (src p) op .error (d p) 0) h

theorem handed_haltEntered (cause : Nat) : NoneHanded s0 (s.haltEntered cause) := by
  have henter : NoneHanded s0 (s.enter .halted cause) := handed_of_only (l := [.regs, .ops, .log, .twn, .mgt]) h
    (by simp +decide only [only_enter, Only.refl])
  have hstop : NoneHanded s0 (s.enter .halted cause).enginesStop := handed_of_only henter
    (enginesStop_quiet (A := onDesk) glbLogLost_offDesk ntSporeRecLost_offDesk ⟨Only.refl _ _, .refl _, rfl⟩).parts
  unfold State.haltEntered
  dsimp only
  generalize (s.enter .halted cause).enginesStop = u at *
  have hstarts : NoneHanded s0 (u.dropStartsIf fun p => if s.startHere p then 4 else 3) :=
    handed_refuses (s := u.modOps fun o => { o with starts := [] }) (handed_of_cmd (s := u) hstop rfl) u.ops.starts PendOp.src 0x0611 _
  unfold State.haltPending
  dsimp only
  generalize (u.dropStartsIf fun p => if s.startHere p then 4 else 3) = v at *
  exact handed_of_cmd (handed_refuses (s := v.modOps fun o => { o with stops := [] }) (handed_of_cmd (s := v) hstarts rfl) v.ops.stops
    PendOp.src 0x0612 fun _ => 4) rfl

theorem handed_haltOff : NoneHanded s0 s.haltOff := by
  have hguard (k : Nat) (u : State) (hu : NoneHanded s0 u) : NoneHanded s0 (u.ostGuard k) := by
    have hended : NoneHanded s0 (u.modGs k fun g => { g with ost := .none }).ostComplete :=
      holds_foldl (P := NoneHanded s0) _ (fun _ _ _ hv => handed_complete hv _ _ _ _ _) (handed_of_cmd (s := u) hu rfl)
    unfold State.ostGuard State.ostAbort
    generalize (u.modGs k fun g => { g with ost := .none }).ostComplete = v at *
    exact holds_ite hu (holds_ite (handed_of_only (l := [.free, .regs, .pwm, .gdl, .trp, .nt, .log, .acq, .twn]) hended
      (by simp +decide only [only_fltStanding, Only.refl])) hu)
  exact holds_forNums (P := NoneHanded s0) _ (fun k _ u hu => hguard k u hu)
    (handed_of_only (l := [.regs, .pwm, .gdl, .trp, .twn]) h (by simp +decide only [only_haltOutputs, Only.refl]))

theorem handed_haltDrop : NoneHanded s0 s.haltDrop := by
  have hcommits : NoneHanded s0 s.dropCommits := by
    unfold State.dropCommits
    dsimp only
    exact handed_refuses (handed_of_only (l := [.stg]) h (only_modStg _ (Only.refl _ s) (by decide))) _ PendCommit.src 0x0204 fun _ => 4
  have hspores : NoneHanded s0 s.dropCommits.discardSpores := handed_of_only (l := [.regs, .nt, .log, .twn]) hcommits
    (by simp +decide only [only_discardSpores, Only.refl])
  unfold State.haltDrop
  dsimp only
  generalize s.dropCommits.discardSpores = u at *
  exact handed_of_cmd (s := u) hspores rfl

end

/-- An entry to HALTED that stops no cores hands no commands. -/
theorem handed_halt (s : State) {cause : Nat} (hcause : ¬ (cause = 0x23 ∨ cause = 0x24)) : NoneHanded s (s.halt cause) := by
  by_cases hst : s.ops.st = .halted ∨ s.ops.st = .off
  · rw [halt_of_halted cause hst]
    exact .refl s
  · rw [halt_eq (fun h => hst (.inl h)) (fun h => hst (.inr h)), if_neg hcause]
    exact handed_haltDrop (handed_of_only (handed_haltOff (handed_haltEntered (.refl s) cause)) (only_haltDemand _))

end Sys2Proof.Machine
end

section
/-! Keys retire, anchors change generation, tampers erase (R344, R345, R353, R358, Table AUT-9). -/

-- The proofs are elaborated one after the other: this bounds the threads of the compiler, whose stacks count as its memory.
set_option Elab.async false

namespace Sys2Proof.Machine

/-! ### Passes over the replay states -/

section
variable {f : Replay → Replay}

/-- A pass over the rings changes the replay state of each and nothing else. -/
theorem forNums_modRep (f : Replay → Replay) (xs : List Nat) (hxs : xs.Nodup) (s : State) :
    (∀ r < 129, (forNums xs (fun r s => s.modRep r f) s).rep r = if r ∈ xs then f (s.rep r) else s.rep r) ∧
    Only [.sec] s (forNums xs (fun r s => s.modRep r f) s) ∧
    ∃ x, (forNums xs (fun r s => s.modRep r f) s).sec = { s.sec with replay := x } := by
  induction xs generalizing s with
  | nil => exact ⟨fun r _ => by rw [if_neg (by simp)]; rfl, Only.refl _ s, s.sec.replay, rfl⟩
  | cons i xs ih =>
    obtain ⟨hi, hnodup⟩ := List.nodup_cons.mp hxs
    obtain ⟨hrep, honly, x, hx⟩ := ih hnodup (s.modRep i f)
    have hstep : Only [.sec] s (s.modRep i f) := only_modRep i f (Only.refl _ s) (by decide)
    refine ⟨fun r hr => (hrep r hr).trans ?_, hstep.trans honly fun _ h => h, x, hx⟩
    by_cases hri : r = i
    · subst hri
      rw [if_neg hi, if_pos (by simp), rep_modRep_same hr]
    · rw [rep_modRep_other hri]
      simp [hri]

end

section
variable {s t : State}

theorem rep_of_sec (h : t.sec = s.sec) (r : Nat) : t.rep r = s.rep r := by rw [State.rep, h, State.rep]

/-- Every ring's key is judged anew. -/
def State.keysJudged (s : State) (f : Option SessKey → Option SessKey) : State :=
  forNums (List.range 129) (fun r s => s.modRep r fun x => { x with key := f x.key }) s

theorem keysJudged_effect (s : State) (f : Option SessKey → Option SessKey) :
    (∀ r < 129, ((s.keysJudged f).rep r).key = f (s.rep r).key) ∧ Only [.sec] s (s.keysJudged f) ∧
    ∃ x, (s.keysJudged f).sec = { s.sec with replay := x } := by
  obtain ⟨hrep, honly, hsec⟩ := forNums_modRep (fun x => { x with key := f x.key }) (List.range 129) List.nodup_range s
  refine ⟨fun r hr => ?_, honly, hsec⟩
  have h := hrep r hr
  rw [if_pos (List.mem_range.mpr hr)] at h
  exact congrArg Replay.key h

/-! ### Grants that end -/

/-- The mark of a grant that has ended. -/
def deadMark (hit : Handed → Bool) (h : Handed) : Handed :=
  if (h.opcode = 0x0401 ∨ h.opcode = 0x0405) ∧ hit h then { h with dead := true } else h

theorem grantsDie_eq (s : State) (hit : Handed → Bool) : s.grantsDie hit =
    (s.modCmd fun c => { c with handed := c.handed.map (deadMark hit) }).modMgt fun m => { m with
      cmd := m.cmd.map fun x => { x with cmd := deadMark hit x.cmd } } := rfl

theorem deadMark_src (hit : Handed → Bool) (h : Handed) : (deadMark hit h).src = h.src := by
  unfold deadMark
  split <;> rfl

/-- Grants that end are marked, and the desk answers as before. -/
theorem grantsDie_effect (s : State) (hit : Handed → Bool) : SameCounter s (s.grantsDie hit) ∧
    ∀ h ∈ (s.grantsDie hit).cmd.handed, h.opcode = 0x0401 ∨ h.opcode = 0x0405 → (∀ d, hit { h with dead := d } = true) → h.dead = true := by
  rw [grantsDie_eq]
  refine ⟨⟨rfl, rfl, ?_, rfl, ?_, rfl, fun _ => rfl, fun _ => rfl⟩, fun h hh hop hhit => ?_⟩
  · have hmap (xs : List Handed) : (xs.map (deadMark hit)).map Handed.src = xs.map Handed.src := by
      rw [List.map_map]
      exact List.map_congr_left fun x _ => deadMark_src hit x
    exact hmap s.cmd.handed
  · have hmap (o : Option MgtCmd) : ((o.map fun x => { x with cmd := deadMark hit x.cmd }).map fun m => (m.cmd.src, m.peer, m.reqId)) =
        o.map fun m => (m.cmd.src, m.peer, m.reqId) := by cases o <;> simp [deadMark_src]
    exact hmap s.mgt.cmd
  · obtain ⟨x, -, rfl⟩ : ∃ x ∈ s.cmd.handed, deadMark hit x = h := List.mem_map.mp hh
    unfold deadMark at *
    by_cases hx : (x.opcode = 0x0401 ∨ x.opcode = 0x0405) ∧ hit x = true
    · rw [if_pos hx]
    · rw [if_neg hx] at hop hhit
      exact absurd ⟨hop, hhit x.dead⟩ hx

/-- A key of an anchor slot that has changed. -/
def keyLeft (slot : Nat) (k : Option SessKey) : Option SessKey :=
  match k with
  | some k => if k.grantor = slot then none else some k
  | none => none

/-- A plant key of an anchor slot that has changed. -/
def plantLeft (slot : Nat) (k : Option PlantKey) : Option PlantKey :=
  match k with
  | some k => if k.grantor = slot then none else some k
  | none => none

/-- The plant keys and the pending grants of an anchor slot end. -/
def State.slotEnds (s : State) (slot : Nat) : State :=
  s.modSec fun x => { x with
    plant := x.plant.map (plantLeft slot), grants := x.grants.map fun g => { g with erased := g.erased || g.grantor == slot }
    lastGrants := x.lastGrants.filter fun g => g.grantor != slot }

theorem retireGrants_eq (s : State) (slot : Nat) : s.retireGrants slot =
    ((s.keysJudged (keyLeft slot)).slotEnds slot).grantsDie fun h => h.src.keyId.toNat % 16 == slot := rfl

theorem vget_map {α β : Type} {n : Nat} (v : Vector α n) (f : α → β) (i : Nat) (hi : i < n) (a : α) (b : β) :
    vget (v.map f) i b = f (vget v i a) := by
  unfold vget
  simp [hi]

/-- What an anchor slot had granted retires with it (R345). -/
theorem retireGrants_effect (s : State) (slot : Nat) : GrantsRetired slot s (s.retireGrants slot) ∧ SameCounter s (s.retireGrants slot) ∧
    Only [.sec, .cmd, .mgt] s (s.retireGrants slot) ∧ (s.retireGrants slot).sec.anchors = s.sec.anchors ∧
    (s.retireGrants slot).sec.targetId = s.sec.targetId := by
  obtain ⟨hkeys, honly, x, hx⟩ := keysJudged_effect s (keyLeft slot)
  rw [retireGrants_eq]
  generalize s.keysJudged (keyLeft slot) = u at *
  have hsec : (u.slotEnds slot).sec = { u.sec with
      plant := u.sec.plant.map (plantLeft slot), grants := u.sec.grants.map fun g => { g with erased := g.erased || g.grantor == slot }
      lastGrants := u.sec.lastGrants.filter fun g => g.grantor != slot } := rfl
  have hends : Only [.sec] u (u.slotEnds slot) := only_modSec _ (Only.refl _ u) (by decide)
  have hrep (r : Nat) : (u.slotEnds slot).rep r = u.rep r := rfl
  generalize u.slotEnds slot = v at *
  obtain ⟨hsame, hdead⟩ := grantsDie_effect v fun h => h.src.keyId.toNat % 16 == slot
  have hgsec : (v.grantsDie fun h => h.src.keyId.toNat % 16 == slot).sec = v.sec := (rings_keep_sec v).2.2.2.2.2.2.2.1 _
  have hdie : Only [.cmd, .mgt] v (v.grantsDie fun h => h.src.keyId.toNat % 16 == slot) := only_grantsDie v _ (Only.refl _ v) (by decide) (by decide)
  generalize (v.grantsDie fun h => h.src.keyId.toNat % 16 == slot) = w at *
  have hv : Only [.sec] s v := honly.trans hends fun _ h => h
  refine ⟨⟨fun r hr => ?_, fun i hi => ?_, fun g hg hgr => ?_, fun h hh hop hgr => hdead h hh hop fun d => ?_⟩,
    (SameCounter.of_only hv (by decide)).trans hsame, hv.trans (hdie.mono (by decide)) (by decide), ?_, ?_⟩
  · rw [rep_of_sec hgsec, hrep]
    exact hkeys r hr
  · rw [hgsec, hsec, hx]
    exact vget_map _ _ i hi none none
  · rw [hgsec, hsec, hx] at hg
    obtain ⟨y, -, rfl⟩ := List.mem_map.mp hg
    have hy : y.grantor = slot := hgr
    simp [hy]
  · simpa using hgr
  · rw [hgsec, hsec, hx]
  · rw [hgsec, hsec, hx]

end

end Sys2Proof.Machine
end

section
/-! KEY_RETIRE, ANCHOR_INSTALL, ANCHOR_REVOKE and tampers. -/

-- The proofs are elaborated one after the other: this bounds the threads of the compiler, whose stacks count as its memory.
set_option Elab.async false

namespace Sys2Proof.Machine

section
variable {s : State} {c : Src} {p : Bytes}

/-! ### KEY_RETIRE -/

/-- The session key of a ring goes. -/
def State.keyGone (s : State) (r : Fin 129) : State :=
  (s.modSec fun x => { x with lastGrants := x.lastGrants.filter fun g => g.plant || g.ring != r }).modRep r.val fun r => { r with key := none }

theorem keyRetire_session (h : pb p 0 = 0) :
    s.keyRetire c p = (s.keyGone c.ring).done c 0x0402 (if (s.rep c.ring.val).key.isSome then 1 else 0) := if_pos h

theorem keyGone_effect (s : State) (r : Fin 129) : (s.keyGone r).rep r = { s.rep r with key := none } ∧
    (∀ k : Fin 129, k ≠ r → (s.keyGone r).rep k = s.rep k) ∧ (s.keyGone r).sec.plant = s.sec.plant ∧ Only [.sec] s (s.keyGone r) :=
  ⟨rep_modRep_same r.isLt _ _, fun _ hk => rep_modRep_other (fun h => hk (Fin.ext h)) _ _, rfl,
    only_modRep _ _ (only_modSec _ (Only.refl _ s) (by decide)) (by decide)⟩

/-- Is a plant key the one that a retire names? -/
def plantHit (p : Bytes) (k : PlantKey) : Bool := k.keyId.toNat = pf p 2 2 && k.epoch.toNat = pf p 4 4

/-- The plant keys that a retire names go. -/
def State.plantGone (s : State) (p : Bytes) : State :=
  s.modSec fun x => { x with
    plant := x.plant.map fun k => k.filter fun k => !plantHit p k
    lastGrants := x.lastGrants.filter fun g => !(g.plant && pf g.payload 2 2 == pf p 2 2 && pf g.payload 4 4 == pf p 4 4) }

theorem keyRetire_plant (h : pb p 0 = 1) : s.keyRetire c p = (s.plantGone p).done c 0x0402
    (if s.sec.plant.toList.any (fun k => k.any (plantHit p)) then 1 else 0) := by
  have hany : ∃ hit : Option PlantKey → Bool, (∀ k, hit k = k.any (plantHit p)) ∧ s.keyRetire c p = (s.modSec fun x => { x with
      plant := x.plant.map fun k => if hit k then none else k
      lastGrants := x.lastGrants.filter fun g => !(g.plant && pf g.payload 2 2 == pf p 2 2 && pf g.payload 4 4 == pf p 4 4) }).done c 0x0402
        (if s.sec.plant.toList.any hit then 1 else 0) :=
    ⟨_, fun k => by cases k <;> simp [plantHit, h], if_neg (by omega)⟩
  obtain ⟨hit, hhit, hretire⟩ := hany
  have hleft (k : Option PlantKey) : (if hit k = true then none else k) = k.filter fun k => !plantHit p k := by
    rw [hhit]
    cases k with
    | none => rfl
    | some k => cases hk : plantHit p k <;> simp [hk, Option.filter]
  rw [hretire, funext hhit]
  simp only [← funext hhit, hleft, State.plantGone]

/-! ### Anchors -/

theorem anchorRefusal_took (s : State) (c : Src) (slot gen : Nat) : (s.took c).anchorRefusal slot gen = s.anchorRefusal slot gen := by
  rw [took_eq_desk]
  rfl

theorem owned_congr {s t : State} (h : t.sec = s.sec) : t.owned = s.owned := by
  simp only [State.owned, State.anchorValid, anchorRec_congr h]

theorem anchorInstall_refused {d : Nat} (h : s.anchorRefusal (pb p 0) (pb p 1) = some d) :
    s.anchorInstall c p = s.refuse c 0x0403 .checkFail d := by
  unfold State.anchorInstall
  dsimp only
  rw [h]

/-- The keys of an ANCHOR_INSTALL. -/
def installKeysValid (p : Bytes) : Bool := Config.keysValid ((p.drop 24).take 1952) ((p.drop 1976).take 97)

/-- A slot holds another anchor, and what it had granted retires. -/
def State.anchorChanged (s : State) (slot : Nat) (a : Anchor) : State := (s.nandTurn.setAnchor slot a).retireGrants slot

/-- TARGET_ID is set by an install that says so, into a slot of an owner. -/
def State.targetSet (s : State) (p : Bytes) : State :=
  if (pb p 2).testBit 0 ∧ 8 ≤ pb p 0 then s.modSec fun x => { x with targetId := BitVec.ofNat 128 (pf p 8 16) } else s

theorem anchorInstall_bad (h : s.anchorRefusal (pb p 0) (pb p 1) = none) (hkeys : installKeysValid p = false) :
    s.anchorInstall c p = s.refuse c 0x0403 .checkFail 5 := by
  unfold State.anchorInstall
  dsimp only
  rw [h]
  exact if_pos (by unfold installKeysValid at hkeys; simp [hkeys])

theorem anchorInstall_good (h : s.anchorRefusal (pb p 0) (pb p 1) = none) (hkeys : installKeysValid p = true) :
    s.anchorInstall c p = ((s.anchorChanged (pb p 0) (Anchor.make (pb p 0) (pb p 1) ((p.drop 24).take 1952) ((p.drop 1976).take 97))).targetSet
      p).copyAnchors.done c 0x0403 := by
  unfold State.anchorInstall
  dsimp only
  rw [h]
  exact if_neg (by unfold installKeysValid at hkeys; simp [hkeys])

theorem anchorRevoke_refused {d : Nat} (h : s.anchorRefusal (pb p 0) (pb p 1) = some d ∨ s.anchorRefusal (pb p 0) (pb p 1) = none ∧
      s.owned = true ∧ (s.setAnchor (pb p 0) { otpGen := pb p 1 }).owned = false ∧ d = 4) :
    s.anchorRevoke c p = s.refuse c 0x0404 .checkFail d := by
  unfold State.anchorRevoke
  dsimp only
  rcases h with h | ⟨h, hown, hleft, rfl⟩
  · rw [h]
  · rw [h]
    exact if_pos (by simp [hown, hleft])

theorem anchorRevoke_good (h : s.anchorRefusal (pb p 0) (pb p 1) = none)
    (hown : s.owned = false ∨ (s.setAnchor (pb p 0) { otpGen := pb p 1 }).owned = true) :
    s.anchorRevoke c p = (s.anchorChanged (pb p 0) { otpGen := pb p 1 }).copyAnchors.done c 0x0404 := by
  unfold State.anchorRevoke
  dsimp only
  rw [h]
  exact if_neg (by rcases hown with h | h <;> simp [h])

theorem anchorRefusal_lt {slot gen : Nat} (h : s.anchorRefusal slot gen = none) : slot < 16 := by
  unfold State.anchorRefusal at h
  split at h
  · exact absurd h (by simp)
  · omega

theorem GrantsRetired.congr {slot : Nat} {s s' t : State} (h : GrantsRetired slot s' t) (hr : ∀ r, (s'.rep r).key = (s.rep r).key)
    (hp : s'.sec.plant = s.sec.plant) : GrantsRetired slot s t := by
  unfold GrantsRetired at *
  simpa only [hr, hp] using h

theorem anchorChanged_effect (s : State) {slot : Nat} (hslot : slot < 16) (a : Anchor) :
    (s.anchorChanged slot a).anchor slot = a ∧ (∀ k < 16, k ≠ slot → (s.anchorChanged slot a).anchor k = s.anchor k) ∧
    GrantsRetired slot s (s.anchorChanged slot a) ∧ SameCounter s (s.anchorChanged slot a) ∧
    Only [.log, .sec, .cmd, .mgt] s (s.anchorChanged slot a) ∧ (s.anchorChanged slot a).sec.targetId = s.sec.targetId := by
  have hturn : Only [.log] s s.nandTurn := only_nandTurn s (Only.refl _ s) (by decide)
  have hset : Only [.sec] s.nandTurn (s.nandTurn.setAnchor slot a) := only_modSec _ (Only.refl _ _) (by decide)
  have hsec : (s.nandTurn.setAnchor slot a).sec = { s.sec with anchors := vset s.sec.anchors slot a } := by
    have h : (s.nandTurn.setAnchor slot a).sec = { s.nandTurn.sec with anchors := vset s.nandTurn.sec.anchors slot a } := rfl
    rw [h, hturn.keeps_sec]
  have hpre : Only [.log, .sec] s (s.nandTurn.setAnchor slot a) := hturn.trans (hset.mono (by decide)) (by decide)
  unfold State.anchorChanged
  generalize s.nandTurn.setAnchor slot a = v at *
  obtain ⟨hret, hsame, honly, hanchors, htarget⟩ := retireGrants_effect v slot
  have hanchor (k : Nat) : (v.retireGrants slot).anchor k = vget (vset s.sec.anchors slot a) k {} := by rw [State.anchor, hanchors, hsec]
  refine ⟨(hanchor slot).trans (vget_vset_same _ _ _ _ hslot), fun k _ hk => (hanchor k).trans (vget_vset_other _ _ _ _ _ hk),
    hret.congr (fun r => ?_) (by rw [hsec]), (SameCounter.of_only hpre (by decide)).trans hsame,
    hpre.trans (honly.mono (by decide)) (by decide), by rw [htarget, hsec]⟩
  rw [State.rep, hsec, State.rep]

theorem targetSet_sec (s : State) (p : Bytes) : (s.targetSet p).sec = { s.sec with
    targetId := if (pb p 2).testBit 0 = true ∧ 8 ≤ pb p 0 then BitVec.ofNat 128 (pf p 8 16) else s.sec.targetId } := by
  unfold State.targetSet
  split <;> rfl

theorem only_targetSet (s : State) (p : Bytes) : Only [.sec] s (s.targetSet p) :=
  only_ite (only_modSec _ (Only.refl _ s) (by decide)) (Only.refl _ s)

theorem copyAnchors_effect (s : State) : SameCounter s s.copyAnchors ∧ Only [.mgt] s s.copyAnchors := by
  refine ⟨?_, only_copyAnchors s (Only.refl _ s) (by decide)⟩
  unfold State.copyAnchors
  split
  · exact .refl s
  · exact ⟨rfl, rfl, rfl, rfl, rfl, rfl, fun _ => rfl, fun _ => rfl⟩

/-- What an anchor that has changed leaves once its command is answered. -/
theorem GrantsRetired.later {slot : Nat} {s t u : State} (h : GrantsRetired slot s t) (hsec : u.sec.replay = t.sec.replay ∧
    u.sec.plant = t.sec.plant ∧ u.sec.grants = t.sec.grants) (hcmd : NoneHanded t u) : GrantsRetired slot s u := by
  obtain ⟨hrep, hplant, hgrants⟩ := hsec
  obtain ⟨hkeys, hplants, hpending, hhanded⟩ := h
  refine ⟨fun r hr => ?_, fun i hi => by rw [hplant]; exact hplants i hi, by rw [hgrants]; exact hpending, fun x hx => hhanded x (hcmd x hx)⟩
  rw [State.rep, hrep]
  exact hkeys r hr

end

end Sys2Proof.Machine
end

section
/-! Tampers, and the obligation about keys and anchors. -/

-- The proofs are elaborated one after the other: this bounds the threads of the compiler, whose stacks count as its memory.
set_option Elab.async false

namespace Sys2Proof.Machine

section
variable {s : State} {n : Nat}

/-- No key is held, and no grant will install one. -/
structure KeysErased (t : State) : Prop where
  keys   : ∀ r < 129, (t.rep r).key = none
  plant  : t.sec.plant = Vector.replicate 4 none
  store  : t.sec.storeKey = false
  grants : ∀ g ∈ t.sec.grants, g.erased = true
  handed : ∀ h ∈ t.cmd.handed, h.opcode = 0x0401 ∨ h.opcode = 0x0405 → h.dead = true

theorem KeysErased.later {t u : State} (h : KeysErased t) (hrep : u.sec.replay = t.sec.replay) (hplant : u.sec.plant = t.sec.plant)
    (hstore : u.sec.storeKey = t.sec.storeKey) (hgrants : u.sec.grants = t.sec.grants) (hcmd : NoneHanded t u) : KeysErased u where
  keys r hr := by rw [State.rep, hrep]; exact h.keys r hr
  plant := hplant.trans h.plant
  store := hstore.trans h.store
  grants := by rw [hgrants]; exact h.grants
  handed x hx := h.handed x (hcmd x hx)

/-- The store key, the plant keys and the pending grants go. -/
def State.storeErased (s : State) : State :=
  s.modSec fun x => { x with
    storeKey := false, plant := Vector.replicate 4 none, grants := x.grants.map fun g => { g with erased := true }
    lastGrants := [] }

theorem eraseKeys_eq (s : State) : s.eraseKeys = ((s.keysJudged fun _ => none).storeErased).grantsDie fun _ => true := rfl

theorem eraseKeys_effect (s : State) : KeysErased s.eraseKeys ∧ Only [.sec, .cmd, .mgt] s s.eraseKeys ∧
    s.eraseKeys.sec.tamperRecs = s.sec.tamperRecs ∧ s.eraseKeys.sec.tamperCfg = s.sec.tamperCfg ∧ s.eraseKeys.sec.resetCnt = s.sec.resetCnt := by
  obtain ⟨hkeys, honly, x, hx⟩ := keysJudged_effect s fun _ => none
  rw [eraseKeys_eq]
  generalize s.keysJudged (fun _ => none) = u at *
  have hsec : u.storeErased.sec = { u.sec with
      storeKey := false, plant := Vector.replicate 4 none, grants := u.sec.grants.map fun g => { g with erased := true }, lastGrants := [] } := rfl
  have hstore : Only [.sec] u u.storeErased := only_modSec _ (Only.refl _ u) (by decide)
  have hrep (r : Nat) : u.storeErased.rep r = u.rep r := rfl
  generalize u.storeErased = v at *
  obtain ⟨-, hdead⟩ := grantsDie_effect v fun _ => true
  have hgsec : (v.grantsDie fun _ => true).sec = v.sec := (rings_keep_sec v).2.2.2.2.2.2.2.1 _
  have hdie : Only [.cmd, .mgt] v (v.grantsDie fun _ => true) := only_grantsDie v _ (Only.refl _ v) (by decide) (by decide)
  generalize (v.grantsDie fun _ => true) = w at *
  have hv : Only [.sec] s v := honly.trans hstore fun _ h => h
  refine ⟨⟨fun r hr => ?_, by rw [hgsec, hsec], by rw [hgsec, hsec], fun g hg => ?_, fun h hh hop => hdead h hh hop fun _ => rfl⟩,
    hv.trans (hdie.mono (by decide)) (by decide), by rw [hgsec, hsec, hx], by rw [hgsec, hsec, hx], by rw [hgsec, hsec, hx]⟩
  · rw [rep_of_sec hgsec, hrep]
    exact hkeys r hr
  · rw [hgsec, hsec] at hg
    obtain ⟨y, -, rfl⟩ := List.mem_map.mp hg
    rfl

/-- The tamper is counted and shown. -/
def State.tamperShown (s : State) (n : Nat) : State := (((s.eraseKeys).countWrap .secTamperCnt).setFlag .secTamperEvt 0 n).notify

/-- The record of a tamper. -/
def State.tamperRec (s : State) (n : Nat) (resets : Word) : LogRec := {
  ntNs := 0, recno := 0, rtc := s.rtc, source := 2, type := 3, state := s.ops.st.code, flags := 2 + if s.nt.valid then 1 else 0
  detail := BitVec.ofNat 32 n, body := leBytes 8 (s.reg .secTamperEvt).toNat, resets := resets }

/-- The tamper is recorded. -/
def State.tamperNoted (s : State) (n : Nat) : State :=
  (s.tamperShown n).modSec fun x => { x with tamperRecs := x.tamperRecs ++ [(s.tamperShown n).tamperRec n x.resetCnt] }

theorem tamper_eq (s : State) (n : Nat) : s.tamper n =
    if (s.tamperNoted n).sec.tamperCfg.getLsbD (16 + n) then (s.tamperNoted n).halt 0x26 else s.tamperNoted n := by
  unfold State.tamper State.tamperNoted State.tamperRec State.tamperShown
  rfl

theorem tamperShown_effect (s : State) (n : Nat) : Only [.sec, .cmd, .mgt, .regs] s (s.tamperShown n) ∧
    (s.tamperShown n).sec = s.eraseKeys.sec ∧ (s.tamperShown n).cmd = s.eraseKeys.cmd ∧
    (cellsRise s.regs → n < 64 → ((s.tamperShown n).reg .secTamperEvt).getLsbD n = true ∧
      ((s.tamperShown n).reg .secTamperCnt).toNat = ((s.reg .secTamperCnt).toNat + 1) % 2 ^ 32) := by
  obtain ⟨-, herased, -⟩ := eraseKeys_effect s
  have hregs : s.eraseKeys.regs = s.regs := herased.keeps_regs
  have hshown : Only [.regs, .mgt] s.eraseKeys (s.tamperShown n) :=
    only_notify _ (only_setFlag _ _ _ (only_countWrap _ _ (Only.refl _ _) (by decide)) (by decide)) (by decide)
  refine ⟨herased.trans (hshown.mono (by decide)) (by decide), hshown.keeps_sec, hshown.keeps_cmd, fun hs hn => ?_⟩
  have hs' : cellsRise s.eraseKeys.regs := by rwa [hregs]
  have hcnt := countWrap_reg hs' .secTamperCnt 0
  have hrise : cellsRise (s.eraseKeys.countWrap .secTamperCnt).regs := cellsRise_write hs'
  have hbit := setFlag_bit hrise .secTamperEvt 0 hn
  have hkeep : ((s.eraseKeys.countWrap .secTamperCnt).setFlag .secTamperEvt 0 n).reg .secTamperCnt =
      (s.eraseKeys.countWrap .secTamperCnt).reg .secTamperCnt := regGet_regSet_other hrise _ _ _ _ _ _ _ (by decide)
  have hreg (u : State) (r : Reg) : u.notify.reg r = u.reg r := rfl
  unfold State.tamperShown
  rw [hreg, hreg, hkeep, hcnt]
  exact ⟨hbit, by rw [State.reg, hregs, State.reg]⟩

theorem tamperNoted_effect (s : State) (n : Nat) : KeysErased (s.tamperNoted n) ∧ (s.tamperNoted n).ops = s.ops ∧
    (s.tamperNoted n).sec.tamperCfg = s.sec.tamperCfg ∧ (s.tamperNoted n).regs = (s.tamperShown n).regs ∧
    ∃ r : LogRec, (s.tamperNoted n).sec.tamperRecs = s.sec.tamperRecs ++ [r] ∧ r.rtc = s.rtc ∧ r.detail = BitVec.ofNat 32 n ∧
      r.state = s.ops.st.code ∧ r.resets = s.sec.resetCnt := by
  obtain ⟨herased, -, hrecs, hcfg, hresets⟩ := eraseKeys_effect s
  obtain ⟨honly, hsec, hcmd, -⟩ := tamperShown_effect s n
  unfold State.tamperNoted
  generalize s.tamperShown n = u at *
  have hnoted : (u.modSec fun x => { x with tamperRecs := x.tamperRecs ++ [u.tamperRec n x.resetCnt] }).sec =
      { u.sec with tamperRecs := u.sec.tamperRecs ++ [u.tamperRec n u.sec.resetCnt] } := rfl
  refine ⟨herased.later ?_ ?_ ?_ ?_ (handed_of_cmd (.refl _) (congrArg CmdState.handed hcmd)), honly.keeps_ops, ?_, rfl, u.tamperRec n u.sec.resetCnt, ?_, ?_,
    rfl, ?_, ?_⟩
  · rw [hnoted, hsec]
  · rw [hnoted, hsec]
  · rw [hnoted, hsec]
  · rw [hnoted, hsec]
  · rw [hnoted, hsec, hcfg]
  · rw [hnoted, hsec, hrecs]
  · exact congrArg (fun t : Nat => (BitVec.ofNat 32 (t * 2 / 1953125) : Word)) honly.keeps_now
  · exact congrArg (fun o : OpsState => o.st.code) honly.keeps_ops
  · exact (congrArg SecState.resetCnt hsec).trans hresets

end

/-- Settles O51, command by command: what each retires, and the order of a change of generation. -/
theorem keysAnchorsAndTampers : Obligations.KeysAnchorsAndTampers := by
  refine ⟨?retire, ?retirePlant, ?installRefused, ?install, ?revokeRefused, ?revoke, ?tamper, ?tamperQuiet, ?unwatched⟩
  case retire =>
    intro c p s hs hadm hp
    refine ⟨_, congrArg Host.Outcome.next (obey_of_admits hadm _), ?_⟩
    beta_reduce
    rw [keyRetire_session hp]
    obtain ⟨hsame, hother, hplant, honly⟩ := keyGone_effect (s.took c) c.ring
    have hreps (r : Nat) : (s.took c).rep r = s.rep r := rep_of_sec (by simp) r
    generalize (s.took c).keyGone c.ring = u at *
    have hdone (d r : Nat) : (u.done c 0x0402 d).rep r = u.rep r := rep_of_sec (by simp) r
    refine ⟨by rw [hdone, hsame, hreps], fun r hr => by rw [hdone, hother r hr, hreps], by simpa using hplant, ?_⟩
    rw [hreps]
    exact answered_done hs (.of_only honly (by decide)) (by rw [honly.keeps_nt]; simp)
  case retirePlant =>
    intro c p s hs hadm hp
    refine ⟨_, congrArg Host.Outcome.next (obey_of_admits hadm _), ?_⟩
    beta_reduce
    rw [keyRetire_plant hp]
    have hsec : ((s.took c).plantGone p).sec.plant = s.sec.plant.map fun k => k.filter fun k => !plantHit p k := by
      have h : ((s.took c).plantGone p).sec.plant = (s.took c).sec.plant.map fun k => k.filter fun k => !plantHit p k := rfl
      rw [h, (completions_keep_sec s).2.2.2.1]
    have hrep : ((s.took c).plantGone p).sec.replay = s.sec.replay := by
      have h : ((s.took c).plantGone p).sec.replay = (s.took c).sec.replay := rfl
      rw [h, (completions_keep_sec s).2.2.2.1]
    have honly : Only [.sec] (s.took c) ((s.took c).plantGone p) := only_modSec _ (Only.refl _ _) (by decide)
    generalize (s.took c).plantGone p = u at *
    refine ⟨by simpa using hrep, fun i hi => ?_, ?_⟩
    · rw [(completions_keep_sec u).2.1, hsec]
      exact vget_map _ _ i hi none none
    · have h := answered_done (c := c) (op := 0x0402) (d := if s.sec.plant.toList.any (fun k => k.any (plantHit p)) then 1 else 0) hs
        (.of_only honly (by decide)) (by rw [honly.keeps_nt]; simp)
      unfold plantHit at h ⊢
      simpa using h
  case installRefused =>
    intro c p d s hs hadm href
    refine ⟨_, congrArg Host.Outcome.next (obey_of_admits hadm _), ?_⟩
    beta_reduce
    rw [anchorInstall_refused (by rwa [anchorRefusal_took])]
    exact ⟨by simp, answered_refuse hs (.refl _)⟩
  case install =>
    intro c p s hs hadm href
    have href' : (s.took c).anchorRefusal (pb p 0) (pb p 1) = none := by rwa [anchorRefusal_took]
    refine ⟨_, congrArg Host.Outcome.next (obey_of_admits hadm _), ?_⟩
    beta_reduce
    cases hkeys : installKeysValid p with
    | false =>
      rw [anchorInstall_bad href' hkeys]
      unfold installKeysValid at hkeys
      rw [if_neg (by simp [hkeys])]
      exact ⟨by simp, answered_refuse hs (.refl _)⟩
    | true =>
      rw [anchorInstall_good href' hkeys]
      unfold installKeysValid at hkeys
      rw [if_pos hkeys]
      obtain ⟨hanchor, hothers, hret, hsame, honly, htarget⟩ := anchorChanged_effect (s.took c) (anchorRefusal_lt href)
        (Anchor.make (pb p 0) (pb p 1) ((p.drop 24).take 1952) ((p.drop 1976).take 97))
      generalize (s.took c).anchorChanged (pb p 0) (Anchor.make (pb p 0) (pb p 1) ((p.drop 24).take 1952) ((p.drop 1976).take 97)) = u at *
      have hset := targetSet_sec u p
      have hsetOnly := only_targetSet u p
      generalize u.targetSet p = v at *
      obtain ⟨hcopied, hcopy⟩ := copyAnchors_effect v
      generalize v.copyAnchors = w at *
      have hwsec : w.sec = v.sec := hcopy.keeps_sec
      have hw : Only [.log, .sec, .cmd, .mgt] (s.took c) w := (honly.trans (hsetOnly.mono (by decide)) fun _ h => h).trans (hcopy.mono (by decide)) fun _ h => h
      have hcounter : SameCounter s w := (((counter_took s c true).trans hsame).trans (.of_only hsetOnly (by decide))).trans hcopied
      have hdsec : (w.done c 0x0403).sec = w.sec := (completions_keep_sec w).2.1 _ _ _
      have hanchors (k : Nat) : (w.done c 0x0403).anchor k = u.anchor k := by rw [State.anchor, hdsec, hwsec, hset, State.anchor]
      have htook : (s.took c).sec = s.sec := (completions_keep_sec s).2.2.2.1 _ _
      refine ⟨(hanchors _).trans hanchor, fun k hk hne => (hanchors k).trans ((hothers k hk hne).trans (by rw [State.anchor, htook, State.anchor])), ?_, ?_, ?_⟩
      · refine (hret.later (u := w.done c 0x0403) ?_ ?_).congr (fun r => by rw [rep_of_sec htook]) (by rw [htook])
        · rw [hdsec, hwsec, hset]
          exact ⟨rfl, rfl, rfl⟩
        · exact handed_complete (handed_of_cmd (.refl u) (by rw [hcopy.keeps_cmd, hsetOnly.keeps_cmd])) _ _ _ _ _
      · rw [hdsec, hwsec, hset, htarget, htook]
      · have h64 : w.nt64 = s.nt64 := by rw [nt64_of_nt hw.keeps_nt, nt64_took]
        rw [← h64]
        exact hcounter.complete (storesCanonical_of_only hw (storesCanonical_took hs c)) _ _ _ _ _
  case revokeRefused =>
    intro c p d s hs hadm href
    refine ⟨_, congrArg Host.Outcome.next (obey_of_admits hadm _), ?_⟩
    beta_reduce
    have htook : (s.took c).sec = s.sec := (completions_keep_sec s).2.2.2.1 _ _
    have hset : ((s.took c).setAnchor (pb p 0) { otpGen := pb p 1 }).owned = (s.setAnchor (pb p 0) { otpGen := pb p 1 }).owned :=
      owned_congr (by rw [State.setAnchor, State.modSec, htook]; rfl)
    rw [anchorRevoke_refused (by rwa [anchorRefusal_took, owned_congr htook, hset])]
    exact ⟨by simp, answered_refuse hs (.refl _)⟩
  case revoke =>
    intro c p s hs hadm href hown
    refine ⟨_, congrArg Host.Outcome.next (obey_of_admits hadm _), ?_⟩
    beta_reduce
    have htook : (s.took c).sec = s.sec := (completions_keep_sec s).2.2.2.1 _ _
    have hset : ((s.took c).setAnchor (pb p 0) { otpGen := pb p 1 }).owned = (s.setAnchor (pb p 0) { otpGen := pb p 1 }).owned :=
      owned_congr (by rw [State.setAnchor, State.modSec, htook]; rfl)
    rw [anchorRevoke_good (by rwa [anchorRefusal_took]) (by rwa [owned_congr htook, hset])]
    obtain ⟨hanchor, hothers, hret, hsame, honly, -⟩ := anchorChanged_effect (s.took c) (anchorRefusal_lt href) { otpGen := pb p 1 }
    generalize (s.took c).anchorChanged (pb p 0) { otpGen := pb p 1 } = u at *
    obtain ⟨hcopied, hcopy⟩ := copyAnchors_effect u
    generalize u.copyAnchors = w at *
    have hwsec : w.sec = u.sec := hcopy.keeps_sec
    have hw : Only [.log, .sec, .cmd, .mgt] (s.took c) w := honly.trans (hcopy.mono (by decide)) fun _ h => h
    have hcounter : SameCounter s w := ((counter_took s c true).trans hsame).trans hcopied
    have hdsec : (w.done c 0x0404).sec = w.sec := (completions_keep_sec w).2.1 _ _ _
    have hanchors (k : Nat) : (w.done c 0x0404).anchor k = u.anchor k := by rw [State.anchor, hdsec, hwsec, State.anchor]
    refine ⟨(hanchors _).trans hanchor, fun k hk hne => (hanchors k).trans ((hothers k hk hne).trans (by rw [State.anchor, htook, State.anchor])), ?_, ?_⟩
    · refine (hret.later (u := w.done c 0x0404) (by rw [hdsec, hwsec]; exact ⟨rfl, rfl, rfl⟩) ?_).congr (fun r => by rw [rep_of_sec htook]) (by rw [htook])
      exact handed_complete (handed_of_cmd (.refl u) (by rw [hcopy.keeps_cmd])) _ _ _ _ _
    · have h64 : w.nt64 = s.nt64 := by rw [nt64_of_nt hw.keeps_nt, nt64_took]
      rw [← h64]
      exact hcounter.complete (storesCanonical_of_only hw (storesCanonical_took hs c)) _ _ _ _ _
  case tamper =>
    intro n s hon
    obtain ⟨herased, hops, hcfg, -, r, hrecs, hr⟩ := tamperNoted_effect s n
    refine ⟨_, if_pos hon, ?_⟩
    beta_reduce
    rw [tamper_eq, hcfg]
    generalize s.tamperNoted n = u at *
    by_cases hbit : s.sec.tamperCfg.getLsbD (16 + n) = true
    · have hsec : (u.halt 0x26).sec = u.sec := (transitions_keep_sec u).2.2.1 _
      have hcause : ¬ (0x26 = 0x23 ∨ 0x26 = 0x24) := by decide
      have hlater : KeysErased (u.halt 0x26) :=
        herased.later (by rw [hsec]) (by rw [hsec]) (by rw [hsec]) (by rw [hsec]) (handed_halt u hcause)
      rw [if_pos hbit]
      exact ⟨hlater.keys, hlater.plant, hlater.store, hlater.grants, hlater.handed, ⟨r, by rw [hsec]; exact hrecs, hr⟩,
        fun _ hst hoff => halt_enters 0x26 (by rwa [hops]) (by rwa [hops])⟩
    · rw [if_neg hbit]
      exact ⟨herased.keys, herased.plant, herased.store, herased.grants, herased.handed, ⟨r, hrecs, hr⟩, fun h => absurd h hbit⟩
  case tamperQuiet =>
    intro n s hs hon hbit
    obtain ⟨-, hops, hcfg, hregs, -⟩ := tamperNoted_effect s n
    obtain ⟨-, -, -, hshown⟩ := tamperShown_effect s n
    obtain ⟨hevt, hcnt⟩ := hshown (regsRise_of_storesCanonical hs) (by omega)
    refine ⟨_, if_pos hon, ?_⟩
    beta_reduce
    rw [tamper_eq, hcfg, if_neg (by simp [hbit]), State.reg, State.reg, hregs]
    exact ⟨hevt, hcnt, hops⟩
  case unwatched => exact fun n s h => if_neg (by simp [h])

end Sys2Proof.Machine
end

section
/-! What dispatch, parsing, verifying and placing do to a command in flight (R318 to R346). -/

-- The proofs are elaborated one after the other: this bounds the threads of the compiler, whose stacks count as its memory.
set_option Elab.async false

namespace Sys2Proof.Machine

/-! ### A command in flight at a unit -/

/-- A register of no ring. -/
def offRings (a : Nat) : Prop := ¬ (0x11000 ≤ a ∧ a < 0x13000 ∧ a % 0x40 < 0x28)

/-- What the end and the next item of a command in flight read, and the lists they change. -/
structure SameWork (f : Flight) (s t : State) : Prop where
  slot : SameSlot f.ring s t
  regs : RegsKept (fun a => ¬ offRings a) s t
  ready : t.cmd.ready = s.cmd.ready
  now : t.now = s.now
  sec : t.sec = s.sec

section
variable {s t u : State} {f : Flight}

theorem not_offRings_ring (r : Fin 128) {x : Reg} (j : Nat) (hrow : regAddr x r j = x.row.base + r * 0x40) (hlow : 0x11000 ≤ x.row.base)
    (hhigh : x.row.base < 0x11028) : ¬ offRings (regAddr x r j) := by
  have hlt := r.isLt
  unfold offRings
  omega

theorem SameWork.trans (h : SameWork f s t) (h' : SameWork f t u) : SameWork f s u :=
  ⟨h.slot.trans h'.slot, h.regs.trans h'.regs, h'.ready.trans h.ready, h'.now.trans h.now, h'.sec.trans h.sec⟩

theorem level_of_kept (h : RegsKept (fun a => ¬ offRings a) s t) (hs : cellsRise s.regs) (r : Fin 128) : t.level r = s.level r := by
  obtain ⟨-, hreg⟩ := h hs
  rw [State.level, hreg .cmdRingCfg r 0 (not_offRings_ring r 0 rfl (by decide) (by decide)), State.level]

theorem kept_rings_of_sched (h : RegsKept offSched s t) : RegsKept (fun a => ¬ offRings a) s t :=
  h.mono fun a ha => by unfold offRings at ha; unfold offSched; omega

theorem Bookkept.work (h : Bookkept s t) (hs : cellsRise s.regs) (f : Flight) : SameWork f s t :=
  ⟨h.slot hs, kept_rings_of_sched h.regs, h.told.fields.2.2.2.1, h.only.keeps_now, h.only.keeps_sec⟩

/-- A counter of no ring. -/
theorem work_count (hs : cellsRise s.regs) (f : Flight) (r : Reg) (i n : Nat) (hr : offRings (regAddr r i 0)) : SameWork f s (s.count r i n) := by
  have hkept : RegsKept (fun a => ¬ offRings a) s (s.count r i n) := kept_count r i n (.refl s) fun h => h hr
  obtain ⟨-, hreg⟩ := hkept hs
  refine ⟨⟨rfl, ?_, ?_, rfl, rfl, rfl⟩, hkept, rfl, rfl, rfl⟩
  · rw [State.cqSlot, hreg .cmdCqBase f.ring 0 (not_offRings_ring f.ring 0 rfl (by decide) (by decide))]
    rfl
  · rw [State.depth, hreg .cmdRingCfg f.ring 0 (not_offRings_ring f.ring 0 rfl (by decide) (by decide)), State.depth]

/-- A change of the lists of commands alone. -/
theorem work_modCmd (s : State) (f : Flight) (g : CmdState → CmdState) (hrings : (g s.cmd).rings = s.cmd.rings)
    (hready : (g s.cmd).ready = s.cmd.ready) : SameWork f s (s.modCmd g) := by
  have hring (r : Nat) : (s.modCmd g).ring r = s.ring r := by simp only [State.ring, State.modCmd, hrings]
  exact ⟨⟨rfl, by rw [State.cqSlot, hring, State.cqSlot]; rfl, rfl, by rw [hring], by rw [hring], by rw [hring]⟩, kept_of_regs (s := s) rfl (.refl s),
    hready, rfl, rfl⟩

theorem work_unitFree (s : State) (f : Flight) (u : Nat) : SameWork f s (s.unitFree u) := work_modCmd s f _ rfl rfl

/-- The command ends. -/
theorem SameWork.ended (h : SameWork f s t) (hs : s.storesCanonical) (hflights : t.cmd.flights = s.cmd.flights) (st : Status) (d : Nat) :
    Ended f st d 0 s (t.flightEnd f st d) :=
  ended_flightEnd hs (h.regs (regsRise_of_storesCanonical hs)).1 h.slot hflights st d

theorem unit_flightEnd {n : Fin 7} (h : vget s.cmd.units n none = none) (f : Flight) (st : Status) (d : Nat) :
    vget (s.flightEnd f st d).cmd.units n none = none := by
  have hbook : Bookkept (s.flightDrop f.no) (s.flightLeave f) := book_backPressure _ _ _ _
  obtain ⟨htold, -, -⟩ := writeEntry_told (s.flightLeave f) f.src f.opcode st d 0
  have hunits : (s.flightEnd f st d).cmd.units = (s.flightDrop f.no).cmd.units := htold.fields.2.2.2.2.trans hbook.told.fields.2.2.2.2
  rw [hunits]
  exact (vget_map _ _ _ n.isLt none none).trans (by rw [h]; rfl)

theorem sec_flightEnd (s : State) (f : Flight) (st : Status) (d : Nat) : (s.flightEnd f st d).sec = s.sec :=
  (only_flightEnd s f st d (Only.refl [.regs, .cmd, .host] s) (by decide) (by decide) (by decide)).keeps_sec

/-- The command's next item becomes ready. -/
theorem SameWork.queued (h : SameWork f s t) (hs : s.storesCanonical) (hlate : s.now ≤ f.deadline) (k : WorkKind) :
    Queued f k s (t.queueItem f k) ∧ (t.queueItem f k).sec = s.sec := by
  obtain ⟨honly, -, hready, -, -, -⟩ := queueItem_queued (s := t) (f := f) (by rw [h.now]; exact hlate) k
  refine ⟨⟨?_, fun x => ?_⟩, honly.keeps_sec.trans h.sec⟩
  · rw [hready, h.ready, level_of_kept h.regs (regsRise_of_storesCanonical hs)]
  · rw [honly.keeps_host, h.slot.host]

/-- An end in a state that shares the rings and the host. -/
theorem Ended.congr {st : Status} {d : Nat} {at_ : DWord} (h : Ended f st d at_ s t) (hhost : u.host = t.host)
    (htail' : (u.ring f.ring).cqTail = (t.ring f.ring).cqTail) (hflights : u.cmd.flights = t.cmd.flights) :
    Ended f st d at_ s u := by
  obtain ⟨htakes, htail, hlists⟩ := h
  exact ⟨fun x => by rw [hhost]; exact htakes x, htail'.trans htail, hflights.trans hlists⟩

end

/-! ### Dispatch -/

section
variable {s : State} {u : Fin 7} {w : WorkItem}

/-- The command of an item as its verification begins, on these keys of its anchor slot. -/
def begun (w : WorkItem) (keys : Option AnchorRec) (gen : Nat) (target : BitVec 128) (f : Flight) : Flight :=
  if f.no = w.no && w.kind = .verify then
    { f with anchor := keys.map fun r => (r.mldsa, r.p384), verGen := gen, verTarget := target } else f

/-- The item is at the unit, and its command as it has begun. -/
def State.itemAt (s : State) (u : Nat) (w : WorkItem) (keys : Option AnchorRec) (gen : Nat) : State :=
  s.modCmd fun c => { c with
    ready := c.ready.filter fun x => !(x.no = w.no && x.kind = w.kind), units := vset c.units u (some w)
    flights := c.flights.map (begun w keys gen s.sec.targetId) }

theorem book_ownerTold (s : State) (u : Nat) (owner : Option (Nat × DWord)) : Bookkept s (match owner with
    | some (ring, seq) => s.trace 3 u ring seq
    | none => s) := by
  cases owner with
  | none => exact .refl s
  | some o => exact book_trace s 3 u o.1 o.2

theorem dispatch_takes (hfree : vget s.cmd.units u none = none) (hpick : s.pick u = some w) : ∃ keys gen,
    Bookkept (s.itemAt u w keys gen) (s.dispatch u) ∧
      ∀ f, s.flight w.no = some f → keys = s.anchorRec f.keyId ∧ gen = (s.anchor f.keyId).otpGen := by
  unfold State.dispatch
  rw [hfree, hpick]
  refine ⟨_, _, book_ownerTold _ u _, fun f hf => ?_⟩
  rw [hf]
  exact ⟨rfl, rfl⟩

theorem dispatch_idle (h : vget s.cmd.units u none ≠ none ∨ s.pick u = none) : s.dispatch u = s := by
  unfold State.dispatch
  rcases h with h | h
  · obtain ⟨x, hx⟩ := Option.ne_none_iff_exists'.mp h
    rw [hx]
  · rw [h]
    cases vget s.cmd.units u none <;> rfl

/-- What dispatch leaves, whatever it takes. -/
theorem dispatch_keeps (s : State) (u : Fin 7) : (s.dispatch u).host = s.host ∧ (∀ r, ∃ b, (s.dispatch u).ring r = { s.ring r with bp := b }) ∧
    ∃ g : Flight → Flight, (s.dispatch u).cmd.flights = s.cmd.flights.map g := by
  by_cases hfree : vget s.cmd.units u none = none
  · cases hpick : s.pick u with
    | none =>
      rw [dispatch_idle (.inr hpick)]
      exact ⟨rfl, fun r => ⟨_, rfl⟩, id, (List.map_id _).symm⟩
    | some w =>
      obtain ⟨keys, gen, hbook, -⟩ := dispatch_takes hfree hpick
      exact ⟨hbook.only.keeps_host, hbook.ring, _, hbook.told.fields.1⟩
  · rw [dispatch_idle (.inl hfree)]
    exact ⟨rfl, fun r => ⟨_, rfl⟩, id, (List.map_id _).symm⟩

theorem withdrawLate_onTime (h : ∀ f ∈ s.cmd.flights, s.now ≤ f.deadline) : s.withdrawLate = s := by
  have hnone : (s.cmd.flights.filter fun f => decide (f.deadline < s.now) && s.cmd.ready.any fun w => w.no = f.no) = [] := by
    refine List.filter_eq_nil_iff.mpr fun f hf => ?_
    have := h f hf
    simp only [Bool.and_eq_true, decide_eq_true_eq]
    omega
  rw [State.withdrawLate, hnone]
  rfl

theorem withdrawLate_alone {f : Flight} (hone : s.cmd.flights = [f]) (hlate : f.deadline < s.now)
    (hready : s.cmd.ready.any (fun w => w.no = f.no) = true) : s.withdrawLate = s.flightTimeout f := by
  rw [State.withdrawLate, hone, List.filter_cons_of_pos (by rw [hready, Bool.and_true]; exact decide_eq_true hlate), List.filter_nil]
  rfl

end

end Sys2Proof.Machine
end

section
/-! The way of a command through PARSE, VERIFY and PLACE, and what its acceptance sets (R318 to R346). -/

-- The proofs are elaborated one after the other: this bounds the threads of the compiler, whose stacks count as its memory.
set_option Elab.async false

namespace Sys2Proof.Machine

/-! ### Parsing and verifying -/

section
variable {s : State} {f : Flight} {st : Status} {d : Nat}

theorem execParse_works {core : Fin 2} (hup : s.ops.coresStopped = false) (hwork : s.unitWork core .parse = some f) :
    execParse core s = .next ((s.unitFree core).parse f) := by
  unfold execParse
  rw [hup, hwork]

theorem execParse_idle {core : Fin 2} (h : s.ops.coresStopped = true ∨ s.unitWork core .parse = none) : execParse core s = .next s := by
  unfold execParse
  rcases h with h | h
  · rw [h]
  · rw [h]
    cases s.ops.coresStopped <;> rfl

theorem parse_refused (h : descRefusal f.desc f.payload (opRow f.opcode) (s.applyLate f) = some (st, d)) : s.parse f = s.flightEnd f st d := by
  rw [State.parse, h]

theorem parse_standby (h : descRefusal f.desc f.payload (opRow f.opcode) (s.applyLate f) = none) (hstandby : s.standbyRefuses f.opcode = true) :
    s.parse f = s.flightEnd f .standby 0 := by
  rw [State.parse, h]
  exact if_pos hstandby

theorem parse_passes (h : descRefusal f.desc f.payload (opRow f.opcode) (s.applyLate f) = none) (hstandby : s.standbyRefuses f.opcode = false) :
    s.parse f = s.queueItem f .verify := by
  rw [State.parse, h]
  exact if_neg (by rw [hstandby]; decide)

theorem standby_refuses {op : Nat} (hpair : s.pair = true) (hrole : s.twn.role = false) (hread : op ≠ 0x0805) (hsync : op ≠ 0x0501) :
    s.standbyRefuses op = true := by simp [State.standbyRefuses, hpair, hrole, hread, hsync]

theorem standby_admits {op : Nat} (h : s.pair = false ∨ s.twn.role = true ∨ op = 0x0805 ∨ op = 0x0501) : s.standbyRefuses op = false := by
  rcases h with h | h | h | h <;> simp [State.standbyRefuses, h]

theorem execVerify_works {u : Fin 7} (hwork : s.unitWork u .verify = some f) : execVerify u s = .next ((s.unitFree u).verify u f) := by
  rw [execVerify, hwork]

theorem execVerify_idle {u : Fin 7} (h : s.unitWork u .verify = none) : execVerify u s = .next s := by rw [execVerify, h]

/-- A unit counts its verification. -/
def State.verifyCounted (s : State) (u : Nat) : State := if u = 2 then s.count .schKmacCnt else s.count .schLaneCnt (u - 3)

/-- The command has verified. -/
def State.verifiedMark (s : State) (f : Flight) : State :=
  s.modCmd fun c => { c with flights := c.flights.map fun x => if x.no = f.no then { x with verified := true } else x }

theorem verify_fails {u : Nat} (h : (s.verifyCounted u).verifyFail f = some d) :
    s.verify u f = ((s.verifyCounted u).trace 5 u f.ring f.seq).flightEnd f .authFail d := by
  unfold State.verifyCounted at h
  simp only [State.verify, h, State.verifyCounted]

theorem verify_passes {u : Nat} (h : (s.verifyCounted u).verifyFail f = none) :
    s.verify u f = (((s.verifyCounted u).verifiedMark f).trace 4 u f.ring f.seq).queueItem f .place := by
  unfold State.verifyCounted at h
  simp only [State.verify, h]
  rfl

theorem laneCnt_offRings (u : Nat) (hu : u < 7) : offRings (regAddr .schLaneCnt (u - 3) 0) := by
  have haddr : regAddr .schLaneCnt (u - 3) 0 = 0x100080 + (u - 3) * 4 := rfl
  unfold offRings
  omega

theorem work_verifyCounted (hs : cellsRise s.regs) (f : Flight) (u : Fin 7) : SameWork f s (s.verifyCounted u) := by
  unfold State.verifyCounted
  split
  · exact work_count hs f .schKmacCnt 0 1 (by unfold offRings; decide)
  · exact work_count hs f .schLaneCnt _ 1 (laneCnt_offRings u u.isLt)

theorem verifyCounted_kmac (hs : cellsRise s.regs) (u : Fin 7) (hu : u = 2) :
    ((s.verifyCounted u).reg .schKmacCnt).toNat = min ((s.reg .schKmacCnt).toNat + 1) 0xFFFFFFFF := by
  rw [State.verifyCounted, if_pos (by rw [hu]; rfl)]
  exact counted_of_rise hs rfl

theorem verifyCounted_fields (s : State) (u : Nat) : (s.verifyCounted u).sec = s.sec ∧ (s.verifyCounted u).cmd = s.cmd := by
  unfold State.verifyCounted
  split <;> exact ⟨rfl, rfl⟩

theorem verifyFail_of_sec {t : State} (h : t.sec = s.sec) : t.verifyFail f = s.verifyFail f := by
  unfold State.verifyFail State.tagOf State.message State.rep
  rw [h]

end

/-! ### Placing -/

section
variable {s : State} {f : Flight} {st : Status} {d : Nat}

theorem execPlace_works {core : Fin 2} (hup : s.ops.coresStopped = false) (hwork : s.unitWork core .place = some f) :
    execPlace core s = .next ((s.unitFree core).place f) := by
  unfold execPlace
  rw [hup, hwork]

theorem execPlace_idle {core : Fin 2} (h : s.ops.coresStopped = true ∨ s.unitWork core .place = none) : execPlace core s = .next s := by
  unfold execPlace
  rcases h with h | h
  · rw [h]
  · rw [h]
    cases s.ops.coresStopped <;> rfl

theorem place_standby (h : s.standbyRefuses f.opcode = true) : s.place f = s.flightEnd f .standby 0 := if_pos h

section
variable (hstandby : s.standbyRefuses f.opcode = false)
include hstandby

theorem place_unauthorised (h : s.placeAuth f = some d) : s.place f = s.flightEnd f .authFail d := by
  rw [State.place, if_neg (by rw [hstandby]; decide), h]

variable (hauth : s.placeAuth f = none)
include hauth

theorem place_past {p : PastCmd} (h : s.pastOf f.ring f.seq = some p) :
    s.place f = (s.flightLeave f).writeEntry f.src f.opcode (Status.ofCode p.status) 0x80000020 p.appliedAt := by
  rw [State.place, if_neg (by rw [hstandby]; decide), hauth]
  simp only [h]

variable (hpast : s.pastOf f.ring f.seq = none)
include hpast

theorem place_replayed (h : s.replayRefusal f.ring f.seq f.applyAt f.opcode f.payload = some (st, d)) : s.place f = s.flightEnd f st d := by
  rw [State.place, if_neg (by rw [hstandby]; decide), hauth]
  simp only [hpast, h]

variable (hreplay : s.replayRefusal f.ring f.seq f.applyAt f.opcode f.payload = none)
include hreplay

/-- What is left to judge of a command that is authentic and new. -/
theorem place_fresh : s.place f =
    if s.ops.st = .halted && !haltOk f.opcode then s.flightEnd f .error 5
    else if s.ops.st = .stopping && (f.opcode = 0x0610 || f.opcode = 0x0611) then s.busyStop.flightEnd f .busyStopping 0
    else if !s.mboxReady f then s.queueItem f .place
    else s.accept f := by
  rw [State.place, if_neg (by rw [hstandby]; decide), hauth]
  simp only [hpast, hreplay]

theorem place_halted (hst : s.ops.st = .halted) (hop : haltOk f.opcode = false) : s.place f = s.flightEnd f .error 5 := by
  rw [place_fresh hstandby hauth hpast hreplay, if_pos (by simp [hst, hop])]

theorem place_stopping (hst : s.ops.st = .stopping) (hop : f.opcode = 0x0610 ∨ f.opcode = 0x0611) :
    s.place f = s.busyStop.flightEnd f .busyStopping 0 := by
  rw [place_fresh hstandby hauth hpast hreplay, if_neg (by simp [hst]), if_pos (by rcases hop with h | h <;> simp [hst, h])]

theorem place_ready (hhalt : s.ops.st ≠ .halted ∨ haltOk f.opcode = true)
    (hstop : s.ops.st ≠ .stopping ∨ (f.opcode ≠ 0x0610 ∧ f.opcode ≠ 0x0611)) :
    s.place f = if !s.mboxReady f then s.queueItem f .place else s.accept f := by
  rw [place_fresh hstandby hauth hpast hreplay, if_neg (by rcases hhalt with h | h <;> simp [h]), if_neg (by rcases hstop with h | ⟨h, h'⟩ <;> simp [*])]

end

end

/-! ### Acceptance -/

section
variable {s : State} {f : Flight}

/-- What follows the taking of a SEQ: the latency is kept, and the block that acts gets the command. -/
def State.handedOn (s : State) (f : Flight) (ns : Nat) : State :=
  let s := if s.ringClass f.ring = 0 then s.keepMax (if f.authKind = 1 then .schC0MaxS else .schC0MaxH) 0 ns else s
  let s := s.modCmd fun c => { c with handed := c.handed ++ [{ src := f.src, opcode := f.opcode, payload := f.payload, at_ := s.now }] }
  let s := s.trace 6 7 f.ring f.seq
  if mirroredAtPlace f.opcode then s.mirror f.src f.opcode f.payload 0 else s

theorem accept_eq (s : State) (f : Flight) :
    s.accept f = ((s.flightLeave f).seqTaken f.src.ring f.seq f.opcode f.payload).handedOn f ((s.now - f.dbAt) / 32) := rfl

theorem latencyKept_effect (s : State) (f : Flight) (ns : Nat) :
    let t := if s.ringClass f.ring = 0 then s.keepMax (if f.authKind = 1 then .schC0MaxS else .schC0MaxH) 0 ns else s
    Only [.regs] s t ∧ RegsKept (fun a => ¬ offRings a) s t := by
  dsimp only
  split
  · refine ⟨only_keepMax _ _ _ (Only.refl _ s) (by decide), ?_⟩
    split <;> exact kept_setRegN _ _ _ _ (.refl s) (not_not_intro (by unfold offRings; decide))
  · exact ⟨.refl _ s, .refl s⟩

theorem handedOn_effect (s : State) (f : Flight) (ns : Nat) : Only [.regs, .cmd, .twn] s (s.handedOn f ns) ∧
    RegsKept (fun a => ¬ offRings a) s (s.handedOn f ns) ∧
    (s.handedOn f ns).cmd.handed = s.cmd.handed ++ [{ src := f.src, opcode := f.opcode, payload := f.payload, at_ := s.now }] ∧
    (s.handedOn f ns).cmd.flights = s.cmd.flights := by
  obtain ⟨honly, hregs⟩ := latencyKept_effect s f ns
  unfold State.handedOn
  generalize (if s.ringClass f.ring = 0 then s.keepMax (if f.authKind = 1 then .schC0MaxS else .schC0MaxH) 0 ns else s) = t at *
  have hbook := book_trace (t.modCmd fun c => { c with
    handed := c.handed ++ [{ src := f.src, opcode := f.opcode, payload := f.payload, at_ := t.now }] }) 6 7 f.ring f.seq
  have hput : Only [.regs, .cmd] s (t.modCmd fun c => { c with
    handed := c.handed ++ [{ src := f.src, opcode := f.opcode, payload := f.payload, at_ := t.now }] }) :=
    only_modCmd _ (honly.mono (by decide)) (by decide)
  obtain ⟨hflights, -, hhanded, -, -⟩ := hbook.told.fields
  have hdone : Only [.regs, .cmd] s _ := hput.trans hbook.only fun _ hp => hp
  have hkept := (kept_modCmd hregs _).trans (kept_rings_of_sched hbook.regs)
  dsimp only
  have hend : (t.modCmd fun c => { c with
      handed := c.handed ++ [{ src := f.src, opcode := f.opcode, payload := f.payload, at_ := t.now }] }).cmd.handed =
        s.cmd.handed ++ [{ src := f.src, opcode := f.opcode, payload := f.payload, at_ := s.now }] ∧
      (t.modCmd fun c => { c with
      handed := c.handed ++ [{ src := f.src, opcode := f.opcode, payload := f.payload, at_ := t.now }] }).cmd.flights = s.cmd.flights := by
    simp only [State.modCmd, honly.keeps_cmd, honly.keeps_now, and_self]
  rw [← hhanded, ← hflights] at hend
  generalize State.trace _ _ _ _ _ = u at *
  obtain ⟨hh, hf⟩ := hend
  split
  · have hm := only_mirror_twn u f.src f.opcode f.payload 0
    exact ⟨(hdone.mono (by decide)).trans (hm.mono (by decide)) fun _ hp => hp, kept_of_only hm hkept, by rw [hm.keeps_cmd, hh], by rw [hm.keeps_cmd, hf]⟩
  · exact ⟨hdone.mono (by decide), hkept, hh, hf⟩

/-- R346: LAST_SEQ of a ring, in its replay state and in its register. -/
theorem setLastSeq_effect (hs : cellsRise s.regs) (r : Fin 128) (v : DWord) :
    (s.setLastSeq r v).rep r = { s.rep r with lastSeq := v } ∧ (∀ q, q ≠ r.val → (s.setLastSeq r v).rep q = s.rep q) ∧
    (s.setLastSeq r v).reg .cmdLastSeq r = v ∧ cellsRise (s.setLastSeq r v).regs ∧ Only [.regs, .sec] s (s.setLastSeq r v) ∧
    (s.setLastSeq r v).sec.grants = s.sec.grants ∧ (s.setLastSeq r v).sec.plant = s.sec.plant := by
  have heq : s.setLastSeq r v = (s.modRep r fun x => { x with lastSeq := v }).setReg .cmdLastSeq r 0 v := if_pos r.isLt
  have hsame := rep_modRep_same (show r.val < 129 by omega) s fun x => { x with lastSeq := v }
  have hother (q : Nat) (hq : q ≠ r.val) := rep_modRep_other hq s fun x => { x with lastSeq := v }
  rw [heq]
  exact ⟨hsame, hother, regGet_regSet_same hs .cmdLastSeq r 0 v,
    cellsRise_write hs, only_setReg _ _ _ _ (only_modRep _ _ (Only.refl _ s) (by decide)) (by decide), rfl, rfl⟩

/-- What leaving the lists of waiting commands leaves. -/
theorem flightLeave_effect (s : State) (f : Flight) : Only [.regs, .cmd] s (s.flightLeave f) ∧ RegsKept offSched s (s.flightLeave f) ∧
    (s.flightLeave f).cmd.handed = s.cmd.handed ∧ (s.flightLeave f).cmd.flights = s.cmd.flights.filter fun x => x.no != f.no := by
  have hbook : Bookkept (s.flightDrop f.no) (s.flightLeave f) := book_backPressure _ _ _ _
  obtain ⟨hflights, -, hhanded, -, -⟩ := hbook.told.fields
  have hdrop : Only [.cmd] s (s.flightDrop f.no) := only_flightDrop s f.no (Only.refl _ s) (by decide)
  exact ⟨(hdrop.mono (by decide)).trans hbook.only fun _ hp => hp, (kept_of_only hdrop (.refl s)).trans hbook.regs, hhanded, hflights⟩

end

end Sys2Proof.Machine
end

section
/-! Work items lead commands to acceptance (R318 to R346, R439, R440). -/

-- The proofs are elaborated one after the other: this bounds the threads of the compiler, whose stacks count as its memory.
set_option Elab.async false

namespace Sys2Proof.Machine

section
variable {s : State} {f : Flight}

/-- A command of other than a session grant is accepted. -/
theorem accept_effect (hs : cellsRise s.regs) (hop : f.opcode ≠ 0x0401) :
    (s.accept f).rep f.ring = { s.rep f.ring with lastSeq := f.seq } ∧ (s.accept f).reg .cmdLastSeq f.ring = f.seq ∧
    HostSame s (s.accept f) ∧
    (s.accept f).cmd.handed = s.cmd.handed ++ [{ src := f.src, opcode := f.opcode, payload := f.payload, at_ := s.now }] ∧
    (s.accept f).cmd.flights = s.cmd.flights.filter fun x => x.no != f.no := by
  obtain ⟨honly, hregs, hhanded, hflights⟩ := flightLeave_effect s f
  have htaken : (s.flightLeave f).seqTaken f.src.ring f.seq f.opcode f.payload = (s.flightLeave f).setLastSeq f.ring f.seq := by
    rw [State.seqTaken, flight_src_ring]
    exact if_neg hop
  rw [accept_eq, htaken]
  have hrise := (hregs hs).1
  generalize s.flightLeave f = t at *
  obtain ⟨hrep, -, hreg, hrise', hseq, -, -⟩ := setLastSeq_effect hrise f.ring f.seq
  have hrep' : t.rep f.ring = s.rep f.ring := by rw [State.rep, honly.keeps_sec, State.rep]
  rw [hrep'] at hrep
  have hcmd : (t.setLastSeq f.ring f.seq).cmd = t.cmd := hseq.keeps_cmd
  have hnow : (t.setLastSeq f.ring f.seq).now = s.now := hseq.keeps_now.trans honly.keeps_now
  have hhost : (t.setLastSeq f.ring f.seq).host = s.host := hseq.keeps_host.trans honly.keeps_host
  generalize t.setLastSeq f.ring f.seq = u at *
  generalize (s.now - f.dbAt) / 32 = ns
  obtain ⟨hlast, hkept, hh, hf⟩ := handedOn_effect u f ns
  refine ⟨?_, ?_, fun x => by rw [hlast.keeps_host, hhost], ?_, ?_⟩
  · rw [State.rep, hlast.keeps_sec]
    exact hrep
  · rw [(hkept hrise').2 .cmdLastSeq f.ring 0 (not_offRings_ring f.ring 0 rfl (by decide) (by decide)), hreg]
  · rw [hh, hcmd, hhanded, hnow]
  · rw [hf, hcmd, hflights]

theorem verified_of_marked {l : List Flight} {no : Nat} {k : WorkKind} {x : Flight}
    (hx : x ∈ (l.map fun y => if y.no = no then { y with verified := true } else y).map fun y => if y.no = no then { y with work := k } else y)
    (hno : x.no = no) : x.verified = true := by
  obtain ⟨y, hy, rfl⟩ := List.mem_map.mp hx
  obtain ⟨z, -, rfl⟩ := List.mem_map.mp hy
  by_cases hz : z.no = no
  · simp [hz]
  · simp [hz] at hno

/-- R337, R352: a verification ends the command, or its item for PLACE is queued; its unit is free, and has counted it. -/
theorem verify_completes {u : Fin 7} (hs : s.storesCanonical) (hwork : s.unitWork u .verify = some f) (hlate : s.now ≤ f.deadline) :
    Completes (.verify u) s fun t => vget t.cmd.units u none = none
      ∧ (u = 2 → (t.reg .schKmacCnt).toNat = min ((s.reg .schKmacCnt).toNat + 1) 0xFFFFFFFF) ∧
      match s.verifyFail f with
      | some d => Ended f .authFail d 0 s t
      | none => Queued f .place s t ∧ ∀ x ∈ t.cmd.flights, x.no = f.no → x.verified = true := by
  have hrise := regsRise_of_storesCanonical hs
  have hcounted := (work_unitFree s f u).trans (work_verifyCounted (s := s.unitFree u) hrise f u)
  have hkmac (hu : u = 2) := verifyCounted_kmac (s := s.unitFree u) hrise u hu
  obtain ⟨hsec, hcmd⟩ := verifyCounted_fields (s.unitFree u) u
  have hfails : ((s.unitFree u).verifyCounted u).verifyFail f = s.verifyFail f := verifyFail_of_sec hsec
  have hfree : vget (s.unitFree u).cmd.units u none = none := vget_vset_same _ _ _ _ u.isLt
  have hlist : (s.unitFree u).cmd.flights = s.cmd.flights := rfl
  have hcnt : offSched (regAddr .schKmacCnt 0 0) := by unfold offSched; decide
  have hrise' := (hcounted.regs hrise).1
  cases hfail : s.verifyFail f with
  | some d =>
    refine ⟨_, (execVerify_works hwork).trans (congrArg Host.Outcome.next (verify_fails (hfails.trans hfail))), ?_⟩
    generalize (s.unitFree u).verifyCounted u = v at *
    have hbook := book_trace v 5 u f.ring f.seq
    have hlast := (flightEnd_effect (v.trace 5 u f.ring f.seq) f .authFail d).2.1
    refine ⟨?_, fun hu => ?_, (hcounted.trans (hbook.work hrise' f)).ended hs (hbook.told.fields.1.trans (by rw [hcmd, hlist])) .authFail d⟩
    · exact unit_flightEnd ((congrArg (fun x => vget x u none) (hbook.told.fields.2.2.2.2.trans (congrArg CmdState.units hcmd))).trans hfree) f _ d
    · rw [((hbook.regs.trans hlast) hrise').2 _ _ _ hcnt]
      exact hkmac hu
  | none =>
    refine ⟨_, (execVerify_works hwork).trans (congrArg Host.Outcome.next (verify_passes (hfails.trans hfail))), ?_⟩
    generalize (s.unitFree u).verifyCounted u = v at *
    have hmark := work_modCmd v f (fun c => { c with flights := c.flights.map fun x => if x.no = f.no then { x with verified := true } else x })
      rfl rfl
    have hbook := book_trace (v.verifiedMark f) 4 u f.ring f.seq
    have hwork' := (hcounted.trans hmark).trans (hbook.work hrise' f)
    have hq := queueItem_queued (s := (v.verifiedMark f).trace 4 u f.ring f.seq) (by rw [hwork'.now]; exact hlate) .place
    have hkept := ((kept_modCmd (.refl v) _).trans hbook.regs).trans hq.regs
    refine ⟨?_, fun hu => ?_, (hwork'.queued hs hlate .place).1, fun x hx hno => ?_⟩
    · rw [hq.rest.2.2, hbook.told.fields.2.2.2.2]
      exact (congrArg (fun c : CmdState => vget c.units u none) hcmd).trans hfree
    · rw [(hkept hrise').2 _ _ _ hcnt]
      exact hkmac hu
    · rw [hq.flights, hbook.told.fields.1] at hx
      exact verified_of_marked hx hno

end

/-- Settles O48, by what each unit makes of its work item: a command ends with its entry, or its next item is queued, or it is accepted. -/
theorem workItemsLeadToAcceptance : Obligations.WorkItemsLeadToAcceptance := by
  refine ⟨?takes, ?withdrawn, ?noTake, ?refused, ?standby, ?parsed, ?noParse, ?verify, ?noVerify, ?placeStandby, ?unauthorised, ?past, ?replayed,
    ?halted, ?stopping, ?full, ?accepted, ?noPlace, ?notGiven, ?notGivenBare⟩
  case takes =>
    intro u w s htime hfree hpick
    obtain ⟨keys, gen, hbook, hkeys⟩ := dispatch_takes hfree hpick
    obtain ⟨hflights, -, -, hready, hunits⟩ := hbook.told.fields
    refine ⟨_, congrArg (fun v => Host.Outcome.next (State.dispatch v u)) (withdrawLate_onTime htime), hunits, hready, fun hkind => ?_,
      fun f hkind hf => ?_⟩
    · refine hflights.trans ((List.map_congr_left fun x _ => ?_).trans (List.map_id _))
      simp [begun, hkind]
    · obtain ⟨rfl, rfl⟩ := hkeys f hf
      refine hflights.trans (List.map_congr_left fun x _ => ?_)
      simp only [begun, hkind, decide_true, Bool.and_true, decide_eq_true_eq]
  case withdrawn =>
    intro u f s hs hone hlate hready
    have hrise := regsRise_of_storesCanonical hs
    have hend := ended_flightTimeout hs (SameSlot.refl s) hrise rfl (f := f)
    refine ⟨_, congrArg (fun v => Host.Outcome.next (State.dispatch v u)) (withdrawLate_alone hone hlate hready), ?_⟩
    generalize s.flightTimeout f = t at *
    obtain ⟨hhost, hring, g, hflights⟩ := dispatch_keeps t u
    obtain ⟨b, hb⟩ := hring f.ring
    have hnone : t.cmd.flights = [] := hend.2.2.trans (by simp [hone])
    exact hend.congr hhost (by rw [hb]) (by rw [hflights, hnone]; rfl)
  case noTake =>
    intro u s htime h
    exact congrArg Host.Outcome.next ((congrArg (fun v => State.dispatch v u) (withdrawLate_onTime htime)).trans (dispatch_idle h))
  case refused =>
    intro core f st d s hs hup hwork hrefusal
    exact ⟨_, (execParse_works hup hwork).trans (congrArg Host.Outcome.next (parse_refused hrefusal)),
      (work_unitFree s f core).ended hs rfl st d⟩
  case standby =>
    intro core f s hs hup hwork hrefusal hpair hrole hread hsync
    exact ⟨_, (execParse_works hup hwork).trans (congrArg Host.Outcome.next (parse_standby hrefusal (standby_refuses hpair hrole hread hsync))),
      (work_unitFree s f core).ended hs rfl .standby 0⟩
  case parsed =>
    intro core f s hs hup hwork hrefusal hlate h
    have hq := queueItem_queued (s := s.unitFree core) hlate .verify
    refine ⟨_, (execParse_works hup hwork).trans (congrArg Host.Outcome.next (parse_passes hrefusal (standby_admits h))),
      ((work_unitFree s f core).queued hs hlate .verify).1, ?_⟩
    rw [hq.rest.2.2]
    exact vget_vset_same _ _ _ _ (by omega)
  case noParse =>
    intro core s h
    exact execParse_idle h
  case verify =>
    intro u f s hs hwork hlate
    exact verify_completes hs hwork hlate
  case noVerify =>
    intro u s h
    exact execVerify_idle h
  case placeStandby =>
    intro core f s hs hup hwork hpair hrole hread hsync
    exact ⟨_, (execPlace_works hup hwork).trans (congrArg Host.Outcome.next (place_standby (standby_refuses hpair hrole hread hsync))),
      (work_unitFree s f core).ended hs rfl .standby 0, sec_flightEnd _ _ _ _⟩
  case unauthorised =>
    intro core f d s hs ⟨hup, hwork, hstandby⟩ hauth
    exact ⟨_, (execPlace_works hup hwork).trans (congrArg Host.Outcome.next (place_unauthorised hstandby hauth)),
      (work_unitFree s f core).ended hs rfl .authFail d, sec_flightEnd _ _ _ _⟩
  case past =>
    intro core f p s hs ⟨hup, hwork, hstandby⟩ hauth hpast
    have hend := ended_writeEntry (t := s.unitFree core) hs (regsRise_of_storesCanonical hs) (work_unitFree s f core).slot rfl
      (Status.ofCode p.status) 0x80000020 p.appliedAt
    have hsec : (((s.unitFree core).flightLeave f).writeEntry f.src f.opcode (Status.ofCode p.status) 0x80000020 p.appliedAt).sec = s.sec :=
      ((only_writeEntry _ _ _ _ _ _ (Only.refl [.regs, .cmd, .host] _) (by decide) (by decide) (by decide)).keeps_sec).trans
        (flightLeave_effect (s.unitFree core) f).1.keeps_sec
    have hplace := place_past (s := s.unitFree core) hstandby hauth hpast
    exact ⟨_, (execPlace_works hup hwork).trans (congrArg Host.Outcome.next hplace), hend, hsec⟩
  case replayed =>
    intro core f st d s hs ⟨hup, hwork, hstandby⟩ hauth hpast hreplay
    exact ⟨_, (execPlace_works hup hwork).trans (congrArg Host.Outcome.next (place_replayed hstandby hauth hpast hreplay)),
      (work_unitFree s f core).ended hs rfl st d, sec_flightEnd _ _ _ _⟩
  case halted =>
    intro core f s hs ⟨hup, hwork, hstandby⟩ hauth hpast hreplay hst hop
    exact ⟨_, (execPlace_works hup hwork).trans (congrArg Host.Outcome.next (place_halted hstandby hauth hpast hreplay hst hop)),
      (work_unitFree s f core).ended hs rfl .error 5, sec_flightEnd _ _ _ _⟩
  case stopping =>
    intro core f s hs ⟨hup, hwork, hstandby⟩ hauth hpast hreplay hst hop
    have hrise := regsRise_of_storesCanonical hs
    have hwork' := (work_unitFree s f core).trans (work_count (s := s.unitFree core) hrise f .glbBusyStopCnt 0 1 (by unfold offRings; decide))
    have hcount := counted_of_regs (t := s.unitFree core) hs rfl .glbBusyStopCnt 0
    refine ⟨_, (execPlace_works hup hwork).trans (congrArg Host.Outcome.next (place_stopping hstandby hauth hpast hreplay hst hop)),
      hwork'.ended hs rfl .busyStopping 0, (sec_flightEnd _ _ _ _).trans hwork'.sec, ?_⟩
    have hlast := (flightEnd_effect (s.unitFree core).busyStop f .busyStopping 0).2.1
    rw [(hlast (hwork'.regs hrise).1).2 .glbBusyStopCnt 0 0 (by unfold offSched; decide)]
    exact hcount
  case full =>
    intro core f s hs ⟨hup, hwork, hstandby⟩ hauth hpast hreplay hst hstop hfull hlate
    refine ⟨_, (execPlace_works hup hwork).trans (congrArg Host.Outcome.next (place_ready hstandby hauth hpast hreplay (.inl hst) hstop)), ?_⟩
    have hfull' : (s.unitFree core).mboxReady f = false := hfull
    rw [hfull']
    exact (work_unitFree s f core).queued hs hlate .place
  case accepted =>
    intro core f s hs ⟨hup, hwork, hstandby⟩ hauth hpast hreplay hhalt hstop hready hop
    refine ⟨_, (execPlace_works hup hwork).trans (congrArg Host.Outcome.next (place_ready hstandby hauth hpast hreplay hhalt hstop)), ?_⟩
    have hready' : (s.unitFree core).mboxReady f = true := hready
    rw [hready']
    exact accept_effect (s := s.unitFree core) (regsRise_of_storesCanonical hs) hop
  case noPlace =>
    intro core s h
    exact execPlace_idle h
  case notGiven =>
    intro c op p x i s hnone hmem
    fin_cases hmem
    all_goals exact congrArg Host.Outcome.next (acting_of_not_given hnone _)
  case notGivenBare =>
    intro c op i s hnone hmem
    fin_cases hmem
    all_goals exact congrArg Host.Outcome.next (acting_of_not_given hnone _)

end Sys2Proof.Machine
end

section
/-! Key grants: what PLACE takes of one, and what the end of its unwrap installs (R349 to R351). -/

-- The proofs are elaborated one after the other: this bounds the threads of the compiler, whose stacks count as its memory.
set_option Elab.async false

namespace Sys2Proof.Machine

/-! ### A grant at PLACE -/

section
variable {s : State} {f : Flight}

/-- A command with a fresh SEQ and no instant of its own is judged as a grant alone. -/
theorem replayRefusal_grant (hseq : (s.rep f.ring).lastSeq < f.seq) (hat : f.applyAt = 0)
    (hop : f.opcode = 0x0401 ∨ f.opcode = 0x0405 ∧ (s.rep f.ring).floorUnset = false) :
    s.replayRefusal f.ring f.seq f.applyAt f.opcode f.payload = s.grantRefusal f.ring (f.opcode == 0x0405) f.payload := by
  have hfloor : ¬ ((s.rep f.ring).floorUnset && f.opcode != 0x0401) = true := by
    rcases hop with h | ⟨-, h⟩ <;> simp [h]
  have hnew : ¬ f.seq ≤ (s.rep f.ring).lastSeq := BitVec.not_le.mpr hseq
  rw [State.replayRefusal, if_neg hfloor, if_neg hnew, if_neg (fun h => h.1 hat)]
  rcases hop with h | ⟨h, -⟩ <;> simp [h]

/-- R350: what the acceptance of a session grant sets at once. -/
theorem grantTaken_effect (hs : cellsRise s.regs) (r : Fin 128) (seq : DWord) (p : Bytes) (hseq : (s.rep r).lastSeq = seq) :
    (s.grantTaken r seq p).rep r = { s.rep r with
      epoch := BitVec.ofNat 32 (pf p 4 4), lastSeq := BitVec.ofNat 64 (max seq.toNat (pf p 24 8)), floorUnset := false
      nonce := Config.drbg128 s.free } ∧
    (s.grantTaken r seq p).free = s.free + 1 ∧ (∀ q, q ≠ r.val → (s.grantTaken r seq p).rep q = s.rep q) ∧
    (s.grantTaken r seq p).sec.grants = s.sec.grants ∧ Only [.free, .regs, .sec] s (s.grantTaken r seq p) := by
  have hsame := rep_modRep_same (show r.val < 129 by omega) s.draw.2 fun x =>
    { x with epoch := BitVec.ofNat 32 (pf p 4 4), floorUnset := false, nonce := Config.drbg128 s.draw.1 }
  have hother (q : Nat) (hq : q ≠ r.val) := rep_modRep_other hq s.draw.2 fun x =>
    { x with epoch := BitVec.ofNat 32 (pf p 4 4), floorUnset := false, nonce := Config.drbg128 s.draw.1 }
  have honly : Only [.free, .sec] s (s.draw.2.modRep r fun x =>
    { x with epoch := BitVec.ofNat 32 (pf p 4 4), floorUnset := false, nonce := Config.drbg128 s.draw.1 }) :=
      only_modRep _ _ (only_draw (Only.refl _ s) (by decide)) (by decide)
  have hfree : (s.draw.2.modRep r fun x =>
    { x with epoch := BitVec.ofNat 32 (pf p 4 4), floorUnset := false, nonce := Config.drbg128 s.draw.1 }).free = s.free + 1 := rfl
  have hgrants : (s.draw.2.modRep r fun x =>
    { x with epoch := BitVec.ofNat 32 (pf p 4 4), floorUnset := false, nonce := Config.drbg128 s.draw.1 }).sec.grants = s.sec.grants := rfl
  have heq : s.grantTaken r seq p = (s.draw.2.modRep r fun x =>
    { x with epoch := BitVec.ofNat 32 (pf p 4 4), floorUnset := false, nonce := Config.drbg128 s.draw.1 }).setLastSeq r
      (BitVec.ofNat 64 (max (max seq.toNat (s.rep r).lastSeq.toNat) (pf p 24 8))) := rfl
  rw [hseq, max_self] at heq
  rw [heq]
  generalize State.modRep _ _ _ = u at *
  have hrise : cellsRise u.regs := by rw [honly.keeps_regs]; exact hs
  obtain ⟨hrep, hreps, -, -, hlast, hg, -⟩ := setLastSeq_effect hrise r (BitVec.ofNat 64 (max seq.toNat (pf p 24 8)))
  exact ⟨by rw [hrep, hsame]; rfl, hlast.keeps_free.trans hfree, fun q hq => (hreps q hq).trans (hother q hq), hg.trans hgrants,
    (honly.mono (by decide)).trans (hlast.mono (by decide)) fun _ hp => hp⟩

/-- R346, R350: an accepted session grant. -/
theorem accept_grant (hs : cellsRise s.regs) (hop : f.opcode = 0x0401) :
    (s.accept f).rep f.ring = { s.rep f.ring with
      epoch := BitVec.ofNat 32 (pf f.payload 4 4), lastSeq := BitVec.ofNat 64 (max f.seq.toNat (pf f.payload 24 8)), floorUnset := false
      nonce := Config.drbg128 s.free } ∧
    (s.accept f).free = s.free + 1 ∧ (∀ r < 129, r ≠ f.ring.val → (s.accept f).rep r = s.rep r) ∧
    (s.accept f).sec.grants = s.sec.grants ∧ HostSame s (s.accept f) ∧
    (s.accept f).cmd.handed = s.cmd.handed ++ [{ src := f.src, opcode := f.opcode, payload := f.payload, at_ := s.now }] := by
  obtain ⟨hleave, hregs, hhanded, -⟩ := flightLeave_effect s f
  have htaken : (s.flightLeave f).seqTaken f.src.ring f.seq f.opcode f.payload =
      ((s.flightLeave f).setLastSeq f.ring f.seq).grantTaken f.ring f.seq f.payload := by
    rw [State.seqTaken, flight_src_ring]
    exact if_pos hop
  rw [accept_eq, htaken]
  have hrise := (hregs hs).1
  generalize s.flightLeave f = t at *
  have hreps (q : Nat) : t.rep q = s.rep q := by rw [State.rep, hleave.keeps_sec, State.rep]
  obtain ⟨hrep, hother, -, hrise', hseq, hgrants, -⟩ := setLastSeq_effect hrise f.ring f.seq
  generalize t.setLastSeq f.ring f.seq = u at *
  obtain ⟨hrep', hfree, hother', hgrants', htook⟩ := grantTaken_effect hrise' f.ring f.seq f.payload (by rw [hrep])
  rw [hrep, hreps] at hrep'
  rw [hseq.keeps_free, hleave.keeps_free] at hrep' hfree
  have hcmd := htook.keeps_cmd.trans hseq.keeps_cmd
  have hnow := (htook.keeps_now.trans hseq.keeps_now).trans hleave.keeps_now
  have hhost := (htook.keeps_host.trans hseq.keeps_host).trans hleave.keeps_host
  generalize u.grantTaken f.ring f.seq f.payload = v at *
  generalize (s.now - f.dbAt) / 32 = ns
  obtain ⟨hlast, -, hh, -⟩ := handedOn_effect v f ns
  refine ⟨?_, hlast.keeps_free.trans hfree, fun r _ hne => ?_, ?_, fun x => by rw [hlast.keeps_host, hhost], by rw [hh, hcmd, hhanded, hnow]⟩
  · rw [State.rep, hlast.keeps_sec]
    exact hrep'
  · rw [State.rep, hlast.keeps_sec]
    exact (hother' r hne).trans ((hother r hne).trans (hreps r))
  · rw [hlast.keeps_sec, hgrants', hgrants, hleave.keeps_sec]

end

/-! ### The unwrap is queued -/

section
variable {s : State} {c : Src}

theorem took_lists (s : State) (c : Src) : (s.took c).cmd.ready = s.cmd.ready ∧ (s.took c).cmd.units = s.cmd.units ∧
    (s.took c).cmd.nextNo = s.cmd.nextNo ∧ (s.took c).level = s.level ∧ (s.took c).listLen = s.listLen := by
  unfold State.took
  split <;> exact ⟨rfl, rfl, rfl, rfl, rfl⟩

theorem isDead_took (s : State) (c : Src) : (s.took c).isDead c = s.isDead c := by
  unfold State.isDead State.took
  by_cases h : c.ring.val = 128
  · simp only [h, if_true, State.modMgt]
    cases s.mgt.cmd <;> rfl
  · simp only [h, if_false, State.modCmd, List.any_map]
    congr 1
    funext x
    dsimp only [Function.comp]
    split <;> rfl

theorem grantAccept_full {plant : Bool} {p : Bytes} (hring : c.ring.val < 128) (hfull : 64 ≤ s.listLen (s.level c.ring)) :
    s.grantAccept c plant p = s.took c false := if_pos ⟨by omega, hfull⟩

theorem grantAccept_goes {plant : Bool} {p : Bytes} (h : c.ring.val = 128 ∨ s.listLen (s.level c.ring) < 64) :
    s.grantAccept c plant p = s.grantGo c plant p := if_neg (by omega)

theorem grantQueue_effect (s : State) (g : PendGrant) : (s.grantQueue g).sec.grants = s.sec.grants ++ [{ g with no := s.cmd.nextNo }] ∧
    (g.ring.val < 128 → (s.grantQueue g).cmd.ready = s.cmd.ready ++ [{ level := s.level g.ring, kind := .unwrap, no := s.cmd.nextNo }]) ∧
    (s.grantQueue g).sec.replay = s.sec.replay ∧ (s.grantQueue g).sec.plant = s.sec.plant ∧ Only [.sec, .cmd, .regs] s (s.grantQueue g) := by
  have honly : Only [.sec, .cmd, .regs] s (s.grantQueue g) := only_grantQueue s g (Only.refl _ s) (by decide) (by decide) (by decide)
  by_cases h : g.ring.val = 128
  · have heq : (s.grantQueue g).sec.grants = s.sec.grants ++ [{ g with no := s.cmd.nextNo }] ∧
        (s.grantQueue g).sec.replay = s.sec.replay ∧ (s.grantQueue g).sec.plant = s.sec.plant := by
      simp only [State.grantQueue, if_pos h]
      exact ⟨rfl, rfl, rfl⟩
    exact ⟨heq.1, fun hlt => by omega, heq.2.1, heq.2.2, honly⟩
  · have heq : (s.grantQueue g).sec.grants = s.sec.grants ++ [{ g with no := s.cmd.nextNo }] ∧
        (s.grantQueue g).cmd.ready = s.cmd.ready ++ [{ level := s.level g.ring, kind := .unwrap, no := s.cmd.nextNo }] ∧
        (s.grantQueue g).sec.replay = s.sec.replay ∧ (s.grantQueue g).sec.plant = s.sec.plant := by
      simp only [State.grantQueue, if_neg h]
      have hbook (u : State) := book_backPressure u (s.level g.ring) g.ring g.src.seq
      refine ⟨(congrArg SecState.grants (hbook _).only.keeps_sec).trans rfl, (hbook _).told.fields.2.2.2.1.trans rfl,
        (congrArg SecState.replay (hbook _).only.keeps_sec).trans rfl, (congrArg SecState.plant (hbook _).only.keeps_sec).trans rfl⟩
    exact ⟨heq.1, fun _ => heq.2.1, heq.2.2.1, heq.2.2.2, honly⟩

end

end Sys2Proof.Machine
end

section
/-! A pending grant ends: its key is installed, or its command says why not (R349 to R351). -/

-- The proofs are elaborated one after the other: this bounds the threads of the compiler, whose stacks count as its memory.
set_option Elab.async false

namespace Sys2Proof.Machine

/-! ### The lane is set free -/

/-- What a unit that is set free leaves for an answer to go by. -/
structure LaneFreed (s t : State) : Prop where
  only : Only [.regs, .cmd] s t
  regs : RegsKept offSched s t
  handed : t.cmd.handed = s.cmd.handed
  ring : ∀ r, ∃ b, t.ring r = { s.ring r with bp := b }

section
variable {s t u : State}

theorem LaneFreed.refl (s : State) : LaneFreed s s := ⟨.refl _ s, .refl s, rfl, fun r => ⟨(s.ring r).bp, rfl⟩⟩

theorem LaneFreed.trans (h : LaneFreed s t) (h' : LaneFreed t u) : LaneFreed s u where
  only := h.only.trans h'.only fun _ hp => hp
  regs := h.regs.trans h'.regs
  handed := h'.handed.trans h.handed
  ring r := by
    obtain ⟨b, hb⟩ := h.ring r
    obtain ⟨b', hb'⟩ := h'.ring r
    exact ⟨b', by rw [hb', hb]⟩

theorem Bookkept.lane (h : Bookkept s t) : LaneFreed s t := ⟨h.only, h.regs, h.told.fields.2.2.1, h.ring⟩

theorem lane_unitFree (s : State) (n : Nat) : LaneFreed s (s.unitFree n) :=
  ⟨only_modCmd _ (Only.refl _ s) (by decide), kept_modCmd (.refl s) _, rfl, fun r => ⟨(s.ring r).bp, rfl⟩⟩

theorem lane_unwrapFree (s : State) (g : PendGrant) : LaneFreed s (s.unwrapFree g) := by
  unfold State.unwrapFree
  refine holds_forNums (P := LaneFreed s) _ (fun n _ u hu => ?_) (.refl s)
  split
  · exact (hu.trans (lane_unitFree u n)).trans (book_backPressure _ _ _ _).lane
  · exact hu

/-- An answer from a state in which a unit has been set free is one from the state before. -/
theorem LaneFreed.answered {c : Src} {op d : Nat} {st : Status} {at_ : DWord} (h : LaneFreed s t) (hs : cellsRise s.regs)
    (ha : Answered c op st d at_ t u) : Answered c op st d at_ s u := by
  have hown : t.ownCommand c = s.ownCommand c := by rw [State.ownCommand, h.handed, h.only.keeps_mgt, State.ownCommand]
  obtain ⟨-, hreg⟩ := h.regs hs
  have hslot (hc : c.ring.val < 128) : t.cqSlot c.ring = s.cqSlot c.ring ∧ t.depth c.ring = s.depth c.ring ∧
      (t.ring c.ring).sqHead = (s.ring c.ring).sqHead ∧ (t.ring c.ring).phase = (s.ring c.ring).phase ∧
      (t.ring c.ring).cqTail = (s.ring c.ring).cqTail := by
    obtain ⟨b, hb⟩ := h.ring c.ring
    exact ⟨by rw [State.cqSlot, hreg _ _ _ (offSched_cqBase ⟨c.ring.val, hc⟩), hb, State.cqSlot],
      by rw [State.depth, hreg _ _ _ (offSched_ringCfg ⟨c.ring.val, hc⟩), State.depth], by rw [hb], by rw [hb], by rw [hb]⟩
  unfold Answered HostTakes HostSame at *
  rw [pair_congr h.only.keeps_live, hown, h.only.keeps_host, h.only.keeps_mgt] at ha
  by_cases hp : (s.pair && !s.ownCommand c) = true
  · rwa [if_pos hp] at ha ⊢
  · rw [if_neg hp] at ha ⊢
    by_cases hc : c.ring.val = 128
    · rwa [if_pos hc] at ha ⊢
    · obtain ⟨hq, hd, hsq, hph, htail⟩ := hslot (by omega)
      rw [if_neg hc] at ha ⊢
      rwa [hq, hd, hsq, hph, htail] at ha

theorem LaneFreed.canonical (h : LaneFreed s t) (hs : s.storesCanonical) : t.storesCanonical := by
  obtain ⟨hhost, hdram, hlive, hregs, hstage⟩ := hs
  exact ⟨by rw [h.only.keeps_host]; exact hhost, by rw [h.only.keeps_dram]; exact hdram, by rw [h.only.keeps_live]; exact hlive,
    (h.regs hregs).1, by rw [h.only.keeps_stg]; exact hstage⟩

/-- The answer to a grant whose lane has been set free, where its keys alone have changed since. -/
theorem LaneFreed.completes {c : Src} (h : LaneFreed s t) (hs : s.storesCanonical) (hu : Only [.sec] t u) (op d : Nat) (st : Status) (at_ : DWord) :
    Answered c op st d at_ s (u.complete c op st d at_) :=
  h.answered (regsRise_of_storesCanonical hs) (State.complete_answers c op st d at_ (h.canonical hs) (.of_only hu))

end

/-! ### Installing -/

section
variable {s : State} {g : PendGrant}

/-- The grant pends no more. -/
def State.grantTook (s : State) (g : PendGrant) : State :=
  s.modSec fun x => { x with grants := x.grants.filter fun y => !(y.src == g.src) }

/-- The session key that a grant carries. -/
def sessKeyOf (s : State) (g : PendGrant) (kg : Bytes) : SessKey :=
  { keyId := BitVec.ofNat 16 (pf g.payload 2 2), from_ := BitVec.ofNat 64 (pf g.payload 8 8), expiry := BitVec.ofNat 64 (pf g.payload 16 8)
    grantor := g.grantor
    key := Config.kmac256 kg (leBytes 16 s.sec.targetId.toNat ++ leBytes 2 g.ring.val ++ leBytes 4 (pf g.payload 4 4)) 32 "NDZ SESSION" }

/-- The plant key that a grant carries. -/
def plantKeyOf (g : PendGrant) (kg : Bytes) : PlantKey :=
  { keyId := BitVec.ofNat 16 (pf g.payload 2 2), epoch := BitVec.ofNat 32 (pf g.payload 4 4), from_ := BitVec.ofNat 64 (pf g.payload 8 8)
    expiry := BitVec.ofNat 64 (pf g.payload 16 8), grantor := g.grantor
    key := Config.kmac256 kg (leBytes 2 (pf g.payload 2 2) ++ leBytes 4 (pf g.payload 4 4)) 32 "NDZ PLANT" }

/-- The key store holds a key. -/
def State.keyStored (s : State) (g : PendGrant) : State := (s.grantTook g).modSec fun x => { x with storeKey := true }

/-- The plant key stands in its place. -/
def State.plantStored (s : State) (g : PendGrant) (i : Nat) (kg : Bytes) : State :=
  (s.keyStored g).modSec fun x => { x with plant := vset x.plant i (some (plantKeyOf g kg)) }

theorem grantInstall_erased (h : g.erased = true) :
    s.grantInstall g = (s.grantTook g).refuse g.src (if g.plant then 0x0405 else 0x0401) .error 4 := if_pos h

section
variable (hlive : g.erased = false)
include hlive

theorem grantInstall_spoilt (h : s.unwrap g.payload = none) : s.grantInstall g =
    (if g.plant then s.grantTook g else (s.grantTook g).modRep g.ring fun r => { r with key := none }).refuse g.src
      (if g.plant then 0x0405 else 0x0401) .error 3 := by
  have hu : (s.grantTook g).unwrap g.payload = none := h
  unfold State.grantTook at hu
  simp only [State.grantInstall, hlive, hu]
  rfl

theorem grantInstall_session {kg : Bytes} (hplant : g.plant = false) (h : s.unwrap g.payload = some kg) : s.grantInstall g =
    ((s.keyStored g).modRep g.ring fun r => { r with key := some (sessKeyOf s g kg) }).done g.src 0x0401 (pf g.payload 4 4) := by
  have hu : (s.grantTook g).unwrap g.payload = some kg := h
  unfold State.grantTook at hu
  simp only [State.grantInstall, hlive, hu, hplant]
  rfl

theorem grantInstall_plant {kg : Bytes} {i : Nat} (hplant : g.plant = true) (h : s.unwrap g.payload = some kg) (hplace : s.plantPlace = some i) :
    s.grantInstall g = (s.plantStored g i kg).done g.src 0x0405 := by
  have hu : (s.grantTook g).unwrap g.payload = some kg := h
  have hp : (s.keyStored g).plantPlace = some i := hplace
  unfold State.keyStored at hp
  unfold State.grantTook at hu hp
  simp only [State.grantInstall, hlive, hu, hplant, hp]
  rfl

theorem grantInstall_noPlace {kg : Bytes} (hplant : g.plant = true) (h : s.unwrap g.payload = some kg) (hplace : s.plantPlace = none) :
    s.grantInstall g = (s.keyStored g).refuse g.src 0x0405 .checkFail 8 := by
  have hu : (s.grantTook g).unwrap g.payload = some kg := h
  have hp : (s.keyStored g).plantPlace = none := hplace
  unfold State.keyStored at hp
  unfold State.grantTook at hu hp
  simp only [State.grantInstall, hlive, hu, hplant, hp]
  rfl

end

theorem only_grantTook (s : State) (g : PendGrant) : Only [.sec] s (s.grantTook g) := only_modSec _ (Only.refl _ s) (by decide)
theorem only_keyStored (s : State) (g : PendGrant) : Only [.sec] s (s.keyStored g) := only_modSec _ (only_grantTook s g) (by decide)
theorem only_plantStored (s : State) (g : PendGrant) (i : Nat) (kg : Bytes) : Only [.sec] s (s.plantStored g i kg) :=
  only_modSec _ (only_keyStored s g) (by decide)

theorem rep_keyDropped (s : State) (g : PendGrant) : ((s.grantTook g).modRep g.ring fun r => { r with key := none }).rep g.ring =
    { s.rep g.ring with key := none } := rep_modRep_same g.ring.isLt (s.grantTook g) _

theorem rep_keySet (s : State) (g : PendGrant) (k : SessKey) : ((s.keyStored g).modRep g.ring fun r => { r with key := some k }).rep g.ring =
    { s.rep g.ring with key := some k } := rep_modRep_same g.ring.isLt (s.keyStored g) _

theorem unwrap_of_sec {t : State} (h : t.sec = s.sec) (p : Bytes) : t.unwrap p = s.unwrap p := by
  unfold State.unwrap
  rw [h]

theorem plantPlace_of_parts {t : State} (h : t.sec = s.sec) (hnt : t.nt = s.nt) : t.plantPlace = s.plantPlace := by
  unfold State.plantPlace State.nt64
  rw [h, hnt]

end

/-- A grant whose unwrap is over. -/
def State.unwrapDone (s : State) (r : Fin 129) : Option PendGrant :=
  s.sec.grants.find? fun g => g.ring = r && s.unwrapping g && (g.ring.val != 128 || s.mgt.vmgt)

section
variable {s : State} {r : Fin 129} {g : PendGrant}

theorem execGrantUnwrap_found (h : s.unwrapDone r = some g) : execGrantUnwrap r s = .next ((s.unwrapFree g).grantInstall g) := by
  unfold State.unwrapDone at h
  rw [execGrantUnwrap, h]

theorem execGrantUnwrap_none (h : s.unwrapDone r = none) : execGrantUnwrap r s = .next s := by
  unfold State.unwrapDone at h
  rw [execGrantUnwrap, h]

theorem unwrapDone_ring (h : s.unwrapDone r = some g) : g.ring = r := by
  have := List.find?_some h
  simp only [Bool.and_eq_true, decide_eq_true_eq] at this
  exact this.1.1

end

/-! ### Queueing -/

section
variable {c : Src}

/-- The unwrap of an accepted grant pends. -/
theorem grantGo_took (s : State) (c : Src) (plant : Bool) (p : Bytes) :
    (∃ g : PendGrant, ((s.took c).grantGo c plant p).sec.grants = s.sec.grants ++ [g] ∧ g.src = c ∧ g.ring = c.ring ∧ g.plant = plant ∧
      g.payload = p ∧ g.grantor = c.keyId.toNat % 16 ∧ g.no = s.cmd.nextNo ∧ g.erased = s.isDead c) ∧
    (c.ring.val < 128 → ((s.took c).grantGo c plant p).cmd.ready =
      s.cmd.ready ++ [{ level := s.level c.ring, kind := .unwrap, no := s.cmd.nextNo }]) ∧
    ((s.took c).grantGo c plant p).sec.replay = s.sec.replay ∧ ((s.took c).grantGo c plant p).sec.plant = s.sec.plant ∧
    Only [.sec, .cmd, .mgt, .regs] s ((s.took c).grantGo c plant p) := by
  obtain ⟨hready, -, hno, hlevel, -⟩ := took_lists s c
  have htook := only_took_cmd s c
  have hdead := isDead_took s c
  have hsec : (s.took c).sec = s.sec := by simp
  unfold State.grantGo
  generalize s.took c = t at *
  obtain ⟨hgrants, hlist, hreplay, hplant, honly⟩ := grantQueue_effect t
    { src := c, plant := plant, ring := c.ring, payload := p, grantor := c.keyId.toNat % 16, erased := t.isDead c }
  rw [hsec, hno] at hgrants
  refine ⟨⟨_, hgrants, rfl, rfl, rfl, rfl, rfl, rfl, hdead⟩, fun hr => ?_, by rw [hreplay, hsec], by rw [hplant, hsec],
    (htook.mono (by decide)).trans (honly.mono (by decide)) fun _ hp => hp⟩
  rw [hlist hr, hready, hlevel, hno]

/-- A grant whose list is full stays to be acted on. -/
theorem tookBack (s : State) (hring : c.ring.val < 128) :
    (∀ h ∈ ((s.took c).took c false).cmd.handed, h.src = c → h.acted = false) ∧ ((s.took c).took c false).cmd.ready = s.cmd.ready ∧
    Only [.cmd] s ((s.took c).took c false) := by
  have htook (u : State) (b : Bool) : Only [.cmd] u (u.took c b) := by
    rw [State.took, if_neg (by omega)]
    exact only_modCmd _ (Only.refl _ u) (by decide)
  have hready (u : State) : (u.took c false).cmd.ready = u.cmd.ready := by
    rw [State.took, if_neg (by omega)]
    rfl
  exact ⟨(took_waiting (s.took c) c).2.1 hring, (hready _).trans (took_lists s c).1, (htook s true).trans (htook _ false) fun _ hp => hp⟩

end

/-- Settles O50, by what PLACE, the queue of unwraps and the end of an unwrap make of a grant. -/
theorem grantsInstallTheirKeys : Obligations.GrantsInstallTheirKeys := by
  refine ⟨?refused, ?accepted, ?queued, ?full, ?erased, ?session, ?plant, ?none⟩
  case refused =>
    intro core f st d s hs ⟨hup, hwork, hstandby⟩ hauth hpast hseq hat hop hrefusal
    have hreplay := (replayRefusal_grant hseq hat hop).trans hrefusal
    have hplace := place_replayed (s := s.unitFree core) hstandby hauth hpast hreplay
    exact ⟨_, (execPlace_works hup hwork).trans (congrArg Host.Outcome.next hplace), (work_unitFree s f core).ended hs rfl st d,
      sec_flightEnd _ _ _ _⟩
  case accepted =>
    intro core f s hs ⟨hup, hwork, hstandby⟩ hauth hpast hseq hat hop hrefusal hst hready
    have hreplay := replayRefusal_grant hseq hat (.inl hop)
    rw [hop] at hreplay
    have hplace := place_ready (s := s.unitFree core) (f := f) hstandby hauth hpast (by rw [hop]; exact hreplay.trans hrefusal) (.inl hst)
      (.inr ⟨by rw [hop]; decide, by rw [hop]; decide⟩)
    have hready' : (s.unitFree core).mboxReady f = true := hready
    rw [hready'] at hplace
    exact ⟨_, (execPlace_works hup hwork).trans (congrArg Host.Outcome.next hplace),
      accept_grant (s := s.unitFree core) (regsRise_of_storesCanonical hs) hop⟩
  case queued =>
    intro i op c p s hmem hadm hfits
    obtain ⟨-, -, -, hlevel, hlen⟩ := took_lists s c
    have hgoes (plant : Bool) := grantAccept_goes (s := s.took c) (c := c) (plant := plant) (p := p) (by rw [hlen, hlevel]; exact hfits)
    have hend (plant : Bool) := grantGo_took s c plant p
    simp only [List.mem_cons, Prod.mk.injEq, List.not_mem_nil, or_false] at hmem
    rcases hmem with ⟨rfl, rfl⟩ | ⟨rfl, rfl⟩
    · exact ⟨_, congrArg Host.Outcome.next ((obey_of_admits hadm _).trans (hgoes false)), hend false⟩
    · exact ⟨_, congrArg Host.Outcome.next ((obey_of_admits hadm _).trans (hgoes true)), hend true⟩
  case full =>
    intro i op c p s hmem hadm hring hfull
    obtain ⟨-, -, -, hlevel, hlen⟩ := took_lists s c
    have hwaits (plant : Bool) := grantAccept_full (s := s.took c) (c := c) (plant := plant) (p := p) hring (by rw [hlen, hlevel]; exact hfull)
    have hend := tookBack s hring
    simp only [List.mem_cons, Prod.mk.injEq, List.not_mem_nil, or_false] at hmem
    rcases hmem with ⟨rfl, rfl⟩ | ⟨rfl, rfl⟩
    · exact ⟨_, congrArg Host.Outcome.next ((obey_of_admits hadm _).trans (hwaits false)), hend⟩
    · exact ⟨_, congrArg Host.Outcome.next ((obey_of_admits hadm _).trans (hwaits true)), hend⟩
  case erased =>
    intro r g s hs hfind herased
    have hlane := lane_unwrapFree s g
    have hsec : (s.unwrapFree g).sec = s.sec := by simp
    refine ⟨_, (execGrantUnwrap_found hfind).trans (congrArg Host.Outcome.next (grantInstall_erased herased)), ?_,
      hlane.completes hs (only_grantTook _ g) _ _ _ _⟩
    simp only [completions_keep_sec, State.grantTook, State.modSec, hsec]
  case session =>
    intro r g s hs hfind hlive hplant
    have hlane := lane_unwrapFree s g
    have hsec : (s.unwrapFree g).sec = s.sec := by simp
    have hexec := execGrantUnwrap_found hfind
    obtain rfl := unwrapDone_ring hfind
    generalize s.unwrapFree g = u at *
    have hunwrap := unwrap_of_sec hsec g.payload
    have hrep : u.rep g.ring = s.rep g.ring := by rw [State.rep, hsec, State.rep]
    cases hkey : s.unwrap g.payload with
    | none =>
      have hinstall := grantInstall_spoilt hlive (hunwrap.trans hkey)
      rw [hplant] at hinstall
      have hgone := rep_keyDropped u g
      have honly : Only [.sec] u ((u.grantTook g).modRep g.ring fun r => { r with key := none }) :=
        only_modRep _ _ (only_grantTook u g) (by decide)
      have hkept : ((u.grantTook g).modRep g.ring fun r => { r with key := none }).sec.plant = u.sec.plant := rfl
      refine ⟨_, hexec.trans (congrArg Host.Outcome.next hinstall), ?_⟩
      rw [if_neg (by decide), if_neg (by decide)]
      generalize State.modRep _ _ _ = v at *
      refine ⟨?_, ?_, hlane.completes hs honly 0x0401 3 .error 0⟩
      · rw [(completions_keep_sec v).2.2.1, hkept, hsec]
      · rw [State.rep, (completions_keep_sec v).2.2.1, ← hrep]
        exact hgone
    | some kg =>
      have hset := rep_keySet u g (sessKeyOf u g kg)
      have hsame : sessKeyOf u g kg = sessKeyOf s g kg := by rw [sessKeyOf, hsec, sessKeyOf]
      have honly : Only [.sec] u ((u.keyStored g).modRep g.ring fun r => { r with key := some (sessKeyOf u g kg) }) :=
        only_modRep _ _ (only_keyStored u g) (by decide)
      have hkept : ((u.keyStored g).modRep g.ring fun r => { r with key := some (sessKeyOf u g kg) }).sec.plant = u.sec.plant ∧
        ((u.keyStored g).modRep g.ring fun r => { r with key := some (sessKeyOf u g kg) }).sec.storeKey = true := ⟨rfl, rfl⟩
      refine ⟨_, hexec.trans (congrArg Host.Outcome.next (grantInstall_session hlive hplant (hunwrap.trans hkey))), ?_⟩
      generalize State.modRep _ _ _ = v at *
      have hnt : v.nt64 = s.nt64 := nt64_of_nt (honly.keeps_nt.trans hlane.only.keeps_nt)
      refine ⟨?_, ?_, ?_, sessKeyOf s g kg, ?_, rfl, rfl, rfl, rfl, rfl⟩
      · rw [(completions_keep_sec v).2.1, hkept.1, hsec]
      · rw [← hnt]
        exact hlane.completes hs honly 0x0401 (pf g.payload 4 4) .ok v.nt64
      · rw [(completions_keep_sec v).2.1, hkept.2]
      · rw [State.rep, (completions_keep_sec v).2.1, ← hrep, ← hsame]
        exact hset
  case plant =>
    intro r g s hs hfind hlive hplant
    have hlane := lane_unwrapFree s g
    have hsec : (s.unwrapFree g).sec = s.sec := by simp
    have hexec := execGrantUnwrap_found hfind
    generalize s.unwrapFree g = u at *
    have hunwrap := unwrap_of_sec hsec g.payload
    have hplace := plantPlace_of_parts hsec hlane.only.keeps_nt
    have hrefused (v : State) (hv : Only [.sec] u v) (hkept : v.sec.replay = u.sec.replay ∧ v.sec.plant = u.sec.plant) (st : Status) (d : Nat) :
        (v.refuse g.src 0x0405 st d).sec.replay = s.sec.replay ∧ (v.refuse g.src 0x0405 st d).sec.plant = s.sec.plant ∧
          Answered g.src 0x0405 st d 0 s (v.refuse g.src 0x0405 st d) := by
      rw [(completions_keep_sec v).2.2.1, hkept.1, hkept.2, hsec]
      exact ⟨rfl, rfl, hlane.completes hs hv 0x0405 d st 0⟩
    cases hkey : s.unwrap g.payload with
    | none =>
      have hinstall := grantInstall_spoilt hlive (hunwrap.trans hkey)
      rw [hplant] at hinstall
      exact ⟨_, hexec.trans (congrArg Host.Outcome.next hinstall), hrefused _ (only_grantTook u g) ⟨rfl, rfl⟩ _ _⟩
    | some kg =>
      cases hfree : s.plantPlace with
      | none =>
        exact ⟨_, hexec.trans (congrArg Host.Outcome.next (grantInstall_noPlace hlive hplant (hunwrap.trans hkey) (hplace.trans hfree))),
          hrefused _ (only_keyStored u g) ⟨rfl, rfl⟩ _ _⟩
      | some i =>
        have honly := only_plantStored u g i kg
        have hkept : (u.plantStored g i kg).sec.replay = u.sec.replay ∧
          (u.plantStored g i kg).sec.plant = vset u.sec.plant i (some (plantKeyOf g kg)) := ⟨rfl, rfl⟩
        refine ⟨_, hexec.trans (congrArg Host.Outcome.next (grantInstall_plant hlive hplant (hunwrap.trans hkey) (hplace.trans hfree))), ?_⟩
        generalize u.plantStored g i kg = v at *
        have hnt : v.nt64 = s.nt64 := nt64_of_nt (honly.keeps_nt.trans hlane.only.keeps_nt)
        refine ⟨?_, ?_, plantKeyOf g kg, ?_, rfl, rfl, rfl, rfl, rfl, rfl⟩
        · rw [(completions_keep_sec v).2.1, hkept.1, hsec]
        · rw [← hnt]
          exact hlane.completes hs honly 0x0405 0 .ok v.nt64
        · rw [(completions_keep_sec v).2.1, hkept.2, hsec]
  case none =>
    intro r s h
    exact execGrantUnwrap_none h

end Sys2Proof.Machine
end

section
/-! The auxiliary converter takes triggers and urgent requests, and its results enter their queue (R153 to R156). -/

-- The proofs are elaborated one after the other: this bounds the threads of the compiler, whose stacks count as its memory.
set_option Elab.async false

namespace Sys2Proof.Machine

theorem goBit_cleared (v : DWord) : (withBits v 8 8 0).getLsbD 8 = false := by
  rw [withBits, BitVec.getLsbD_ofNat, Nat.testBit_eq_decide_div_mod_eq]
  simp only [Nat.reduceAdd, Nat.reduceSub, Nat.reducePow, Bool.and_eq_false_iff, decide_eq_false_iff_not]
  omega

section
variable {s : State}

theorem reg_setReg_ne (hs : cellsRise s.regs) {r r' : Reg} {i j i' j' : Nat} (v : DWord) (h : regAddr r' i' j' ≠ regAddr r i j) :
    (s.setReg r i j v).reg r' i' j' = s.reg r' i' j' := regGet_regSet_other hs r r' i j i' j' v h

/-! ### Triggers -/

/-- The trigger of this cycle has been taken. -/
def State.trigTaken (s : State) : State := s.modSar fun a => { a with trigAt := some s.nsNow }

theorem sarTrigger_off (h : s.sarOn = false ∨ s.ctlRuns = false) : s.sarTrigger = s := if_pos (by rcases h with h | h <;> simp [h])

theorem sarTrigger_again (h : s.sar.trigAt = some s.nsNow) : s.sarTrigger = s := if_pos (by simp [h])

theorem sarTrigger_takes (hon : s.sarOn = true) (hrun : s.ctlRuns = true) (hnew : s.sar.trigAt ≠ some s.nsNow) :
    s.sarTrigger = if s.sar.conv = .idle then s.trigTaken.sarStart
      else if s.sar.pending then s.trigTaken.count .adcTrigLostCnt
      else s.trigTaken.modSar fun a => { a with pending := true } := if_neg (by simp [hon, hrun, hnew])

/-- What a trigger leaves of the registers. -/
theorem kept_sarTrigger (s : State) : RegsKept (fun a => a ≠ regAddr .adcTrigLostCnt 0 0) s s.sarTrigger := by
  unfold State.sarTrigger
  refine kept_ite (.refl s) (kept_ite (kept_of_regs (s := s) rfl (.refl s)) (kept_ite ?_ (kept_of_regs (s := s) rfl (.refl s))))
  exact kept_count _ _ _ (kept_of_regs (s := s) rfl (.refl s)) (not_not_intro rfl)

/-- The write that takes a trigger clears its bit. -/
theorem trigCleared (hs : s.storesCanonical) : (s.sarTrigger.setReg .adcSeqTrig 0 0 0).reg .adcSeqTrig = 0 :=
  regGet_regSet_same (kept_sarTrigger s (regsRise_of_storesCanonical hs)).1 .adcSeqTrig 0 0 0

/-! ### Urgent requests -/

/-- The request stands in its register. -/
def State.urgAsked (s : State) (input : Nat) : State := s.setReg .adcUrg 0 0 (withBits (withBits (s.reg .adcUrg) 3 0 input) 8 8 1)

/-- GO of the register is clear. -/
def State.goCleared (s : State) : State := s.setReg .adcUrg 0 0 (withBits (s.reg .adcUrg) 8 8 0)

theorem execUrgentRequest_eq (i : Fin 16) (s : State) : execUrgentRequest i s = .next ((s.urgAsked i).sarUrgent i) := rfl

theorem sarUrgent_off {n : Nat} (h : s.sarOn = false ∨ s.ctlRuns = false) : s.sarUrgent n = s.goCleared :=
  if_pos (by rcases h with h | h <;> simp [h])

theorem sarUrgent_on {n : Nat} (hon : s.sarOn = true) (hrun : s.ctlRuns = true) : s.sarUrgent n =
    if s.sar.conv = .idle then s.modSar fun a => { a with conv := .urgent n, convEnd := ctlTick s.now + 8000 }
    else if s.sarStarting then s.modSar fun a => { a with
      conv := .urgent n, held := true, convEnd := (if s.nsNow < a.startAt / 32 then ctlTick s.now else a.startAt) + 8000 }
    else s.goCleared.count .adcUrgDropCnt := if_neg (by simp [hon, hrun])

theorem goCleared_go (hs : cellsRise s.regs) : (s.goCleared.reg .adcUrg).getLsbD 8 = false := by
  have hreg : s.goCleared.reg .adcUrg = withBits (s.reg .adcUrg) 8 8 0 := regGet_regSet_same hs .adcUrg 0 0 _
  rw [hreg, goBit_cleared]

theorem kept_goCleared (s : State) : RegsKept (fun a => a ≠ regAddr .adcUrg 0 0) s s.goCleared :=
  kept_setReg _ _ _ _ (.refl s) (not_not_intro rfl)

theorem kept_urgAsked (s : State) (n : Nat) : RegsKept (fun a => a ≠ regAddr .adcUrg 0 0) s (s.urgAsked n) :=
  kept_setReg _ _ _ _ (.refl s) (not_not_intro rfl)

/-! ### Results -/

theorem sarResult_effect (s : State) (w : Nat) : (s.sarResult w).sar.queue =
      (if s.sar.queue.length < 64 then s.sar.queue ++ [BitVec.ofNat 32 w] else s.sar.queue) ∧
    (∃ q n, (s.sarResult w).sar = { s.sar with queue := q, since := n }) ∧ (s.sarResult w).now = s.now ∧ (s.sarResult w).live = s.live ∧
    (64 ≤ s.sar.queue.length → s.sarResult w = s.count .adcResDropCnt) ∧
    RegsKept (fun a => a ≠ regAddr .adcResDropCnt 0 0) s (s.sarResult w) := by
  unfold State.sarResult
  split
  · next h => exact ⟨rfl, ⟨_, _, rfl⟩, rfl, rfl, fun h64 => by omega, kept_of_regs (s := s) rfl (.refl s)⟩
  · next h => exact ⟨rfl, ⟨_, _, rfl⟩, rfl, rfl, fun _ => rfl, kept_count _ _ _ (.refl s) (not_not_intro rfl)⟩

theorem sarNext_effect (s : State) : s.sarNext.sar.queue = s.sar.queue ∧ s.sarNext.regs = s.regs ∧ s.sarNext.now = s.now ∧
    s.sarNext.sar.conv = if s.sar.held || s.sar.pending then .slot 0 0 0 else .idle := by
  have heq : s.sarNext = if s.sar.held then
        (s.modSar fun a => { a with conv := .idle }).modSar fun a =>
          { a with conv := .slot 0 0 0, held := false, startAt := s.now, convEnd := s.now + 8000 }
      else if s.sar.pending then ((s.modSar fun a => { a with conv := .idle }).modSar fun a => { a with pending := false }).sarStart
      else s.modSar fun a => { a with conv := .idle } := rfl
  rw [heq]
  cases hheld : s.sar.held with
  | true => exact ⟨rfl, rfl, rfl, rfl⟩
  | false =>
    cases hpend : s.sar.pending with
    | true => exact ⟨rfl, rfl, rfl, rfl⟩
    | false => exact ⟨rfl, rfl, rfl, rfl⟩

/-- An urgent result is latched, and GO clears. -/
def State.urgLatched (s : State) (input w code : Nat) : State := ((s.setRegN .adcLatest input 0 code).setRegN .adcUrgRes 0 0 w).goCleared

theorem sarDone_urgent {i : Nat} {uv : Int} (h : s.sar.conv = .urgent i) : s.sarDone uv =
    ((s.sarResult (2 ^ 31 + i * 2 ^ 22 + sarCode uv)).urgLatched i (2 ^ 31 + i * 2 ^ 22 + sarCode uv) (sarCode uv)).sarNext := by
  simp only [State.sarDone, h]
  rfl

theorem latest_addr {i : Nat} (hi : i < 16) : regAddr .adcLatest i 0 = 0x70080 + i * 4 := by
  simp only [regAddr, Reg.row, Nat.zero_mul, Nat.add_zero]

theorem urgLatched_effect (hs : cellsRise s.regs) {i : Nat} (hi : i < 16) (w code : Nat) :
    (s.urgLatched i w code).reg .adcLatest i = BitVec.ofNat 64 code ∧ ((s.urgLatched i w code).reg .adcUrg).getLsbD 8 = false ∧
    (s.urgLatched i w code).reg .adcResDropCnt = s.reg .adcResDropCnt ∧ (s.urgLatched i w code).sar = s.sar ∧
    (s.urgLatched i w code).now = s.now := by
  have hlatest := latest_addr hi
  have h1 : RegsKept (fun a => a ≠ regAddr .adcLatest i 0) s (s.setRegN .adcLatest i 0 code) :=
    kept_setRegN _ _ _ _ (.refl s) (not_not_intro rfl)
  have hput : (s.setRegN .adcLatest i 0 code).reg .adcLatest i = BitVec.ofNat 64 code := regGet_regSet_same hs .adcLatest i 0 _
  unfold State.urgLatched
  obtain ⟨hrise1, hreg1⟩ := h1 hs
  have hfields : (s.setRegN .adcLatest i 0 code).sar = s.sar ∧ (s.setRegN .adcLatest i 0 code).now = s.now := ⟨rfl, rfl⟩
  generalize s.setRegN .adcLatest i 0 code = t at *
  have h2 : RegsKept (fun a => a ≠ regAddr .adcUrgRes 0 0) t (t.setRegN .adcUrgRes 0 0 w) := kept_setRegN _ _ _ _ (.refl t) (not_not_intro rfl)
  have hfields' : (t.setRegN .adcUrgRes 0 0 w).sar = t.sar ∧ (t.setRegN .adcUrgRes 0 0 w).now = t.now := ⟨rfl, rfl⟩
  obtain ⟨hrise2, hreg2⟩ := h2 hrise1
  generalize t.setRegN .adcUrgRes 0 0 w = u at *
  obtain ⟨-, hreg3⟩ := kept_goCleared u hrise2
  have hres : regAddr .adcUrgRes 0 0 = 0x70010 := rfl
  have hurg : regAddr .adcUrg 0 0 = 0x70008 := rfl
  have hdrop : regAddr .adcResDropCnt 0 0 = 0x7001c := rfl
  refine ⟨?_, goCleared_go hrise2, ?_, hfields'.1.trans hfields.1, hfields'.2.trans hfields.2⟩
  · rw [hreg3 _ _ _ (by omega), hreg2 _ _ _ (by omega), hput]
  · rw [hreg3 _ _ _ (by omega), hreg2 _ _ _ (by omega), hreg1 _ _ _ (by omega)]

/-- A slot has a conversion more to go. -/
theorem sarDone_more {n done sum : Nat} {uv : Int} (h : s.sar.conv = .slot n done sum) (hmore : done + 1 < 2 ^ s.lv .adcSlot n 0 11 8) :
    s.sarDone uv = s.modSar fun a => { a with conv := .slot n (done + 1) (sum + sarCode uv), convEnd := s.now + 8000 } := by
  simp only [State.sarDone, h, if_pos hmore]

/-- The last conversion of a slot brings its result, and the next slot, or what follows a sequence. -/
theorem sarDone_last {n done sum : Nat} {uv : Int} (h : s.sar.conv = .slot n done sum) (hlast : 2 ^ s.lv .adcSlot n 0 11 8 ≤ done + 1) :
    ∃ u w i v, u = (s.sarResult w).setRegN .adcLatest i 0 v ∧ s.sarDone uv = if n < s.lv .adcCtrl 0 0 3 0 then
        u.modSar fun a => { a with conv := .slot (n + 1) 0 0, convEnd := u.now + 8000 }
      else (u.countWrap .adcSeqCnt).sarNext := by
  have hlive (w i v : Nat) : ((s.sarResult w).setRegN .adcLatest i 0 v).lv .adcCtrl 0 0 3 0 = s.lv .adcCtrl 0 0 3 0 := by
    obtain ⟨-, -, -, hw, -⟩ := sarResult_effect s w
    rw [State.lv, State.lv, ← hw]
    rfl
  simp only [State.sarDone, h, if_neg (show ¬ done + 1 < 2 ^ s.lv .adcSlot n 0 11 8 by omega)]
  exact ⟨_, _, _, _, rfl, if_congr (by rw [hlive]) rfl rfl⟩

theorem execSarConversionDone_works {uv : Int} (h : s.sar.conv ≠ .idle) :
    execSarConversionDone uv s = .next ((s.advanceTo s.sar.convEnd).sarDone uv) := if_neg h

end

/-- Settles O32, by the branches of a trigger, of an urgent request and of the end of a conversion. -/
theorem theConverterTakesTriggersAndResults : Obligations.TheConverterTakesTriggersAndResults := by
  refine ⟨?trigger, ?off, ?urgentOff, ?urgent, ?urgentDone, ?more, ?last, ?again, ?idle⟩
  case trigger =>
    intro s hs hon hrun hnew
    have hrise := regsRise_of_storesCanonical hs
    refine ⟨_, rfl, trigCleared hs, ?_⟩
    rw [sarTrigger_takes hon hrun hnew]
    split
    · rfl
    · split
      · refine ⟨rfl, ?_⟩
        have hcount : ((s.trigTaken.count .adcTrigLostCnt).reg .adcTrigLostCnt).toNat = min ((s.reg .adcTrigLostCnt).toNat + 1) 0xFFFFFFFF :=
          counted_of_rise hrise rfl
        have hother : ((s.trigTaken.count .adcTrigLostCnt).setReg .adcSeqTrig 0 0 0).reg .adcTrigLostCnt =
            (s.trigTaken.count .adcTrigLostCnt).reg .adcTrigLostCnt := reg_setReg_ne (cellsRise_write hrise) _ (by decide)
        rw [hother, hcount]
      · rfl
  case off =>
    intro s hs h
    have heq := sarTrigger_off h
    exact ⟨_, rfl, trigCleared hs, by rw [heq]; rfl⟩
  case urgentOff =>
    intro i s hs h
    have hrise := (kept_urgAsked s i (regsRise_of_storesCanonical hs)).1
    exact ⟨_, (execUrgentRequest_eq i s).trans (congrArg Host.Outcome.next (sarUrgent_off (s := s.urgAsked i) h)), rfl, goCleared_go hrise⟩
  case urgent =>
    intro i s hs hon hrun
    obtain ⟨hrise, hreg⟩ := kept_urgAsked s i (regsRise_of_storesCanonical hs)
    have hdrop := hreg .adcUrgDropCnt 0 0 (by decide)
    have hexec := (execUrgentRequest_eq i s).trans (congrArg Host.Outcome.next (sarUrgent_on (s := s.urgAsked i) hon hrun))
    have hsar : (s.urgAsked i).sar = s.sar ∧ (s.urgAsked i).now = s.now ∧ (s.urgAsked i).sarStarting = s.sarStarting ∧
      (s.urgAsked i).nsNow = s.nsNow := ⟨rfl, rfl, rfl, rfl⟩
    refine ⟨_, hexec, ?_⟩
    generalize s.urgAsked i = u at *
    obtain ⟨hsar, hnow, hstarting, hns⟩ := hsar
    rw [hsar, hstarting]
    by_cases hidle : s.sar.conv = .idle
    · simp only [if_pos hidle, State.modSar, hsar, hnow]
    · by_cases hstart : s.sarStarting = true
      · simp only [if_neg hidle, if_pos hstart, State.modSar, hsar, hnow, hns]
      · rw [if_neg hidle, if_neg hidle, if_neg hstart, if_neg hstart]
        obtain ⟨hrise', hreg'⟩ := kept_goCleared u hrise
        have hgo := goCleared_go hrise
        have hsar' : (u.goCleared.count .adcUrgDropCnt).sar = u.sar := rfl
        have hcount := counted_of_rise hrise' (hreg' .adcUrgDropCnt 0 0 (by decide))
        refine ⟨hsar'.trans hsar, ?_, hcount.trans (by rw [hdrop])⟩
        have hlast : (u.goCleared.count .adcUrgDropCnt).reg .adcUrg = u.goCleared.reg .adcUrg := reg_setReg_ne hrise' _ (by decide)
        rw [hlast, hgo]
  case urgentDone =>
    intro uv i s hs hconv hi
    have hnow := le_now_advanceTo s s.sar.convEnd
    have hparts : (s.advanceTo s.sar.convEnd).sar = s.sar ∧ (s.advanceTo s.sar.convEnd).regs = s.regs := ⟨by simp, by simp⟩
    have hexec := execSarConversionDone_works (uv := uv) (s := s) (by rw [hconv]; exact SarConv.noConfusion)
    generalize s.advanceTo s.sar.convEnd = t at *
    obtain ⟨hsar, hregs⟩ := hparts
    have hrise : cellsRise t.regs := by rw [hregs]; exact regsRise_of_storesCanonical hs
    have hdone := sarDone_urgent (s := t) (i := i) (uv := uv) (by rw [hsar, hconv])
    generalize 2 ^ 31 + i * 2 ^ 22 + sarCode uv = w at *
    obtain ⟨hqueue, ⟨q, n, hrest⟩, hnow', -, hfull, hkept⟩ := sarResult_effect t w
    have hcount (h : 64 ≤ s.sar.queue.length) : ((t.sarResult w).reg .adcResDropCnt).toNat = min ((s.reg .adcResDropCnt).toNat + 1) 0xFFFFFFFF := by
      rw [hfull (by rw [hsar]; exact h)]
      exact counted_of_rise hrise (by rw [State.reg, hregs, State.reg])
    obtain ⟨hlatest, hgo, hdrop, hsar', hnow''⟩ := urgLatched_effect (hkept hrise).1 hi w (sarCode uv)
    refine ⟨_, hexec.trans (congrArg Host.Outcome.next hdone), ?_⟩
    generalize (t.sarResult w).urgLatched i w (sarCode uv) = v at *
    obtain ⟨hq, hr, hn, hc⟩ := sarNext_effect v
    have hreg (r : Reg) (k : Nat) : v.sarNext.reg r k = v.reg r k := by rw [State.reg, hr, State.reg]
    refine ⟨by rw [hq, hsar', hqueue, hsar], fun h => by rw [hreg, hdrop, hcount h], by rw [hreg, hlatest], by rw [hreg, hgo], by omega, ?_⟩
    rw [hc, hsar', hrest, hsar]
  case more =>
    intro uv n done sum s hconv hmore
    have hnow := le_now_advanceTo s s.sar.convEnd
    have honly := only_advanceTo_time s s.sar.convEnd
    have hexec := execSarConversionDone_works (uv := uv) (s := s) (by rw [hconv]; exact SarConv.noConfusion)
    generalize s.advanceTo s.sar.convEnd = t at *
    have hlv : t.lv .adcSlot n 0 11 8 = s.lv .adcSlot n 0 11 8 := by rw [State.lv, honly.keeps_live, State.lv]
    have hdone := sarDone_more (s := t) (uv := uv) (by rw [honly.keeps_sar, hconv]) (by rw [hlv]; exact hmore)
    refine ⟨_, hexec.trans (congrArg Host.Outcome.next hdone), ?_, hnow, only_modSar _ (honly.mono (by decide)) (by decide)⟩
    simp only [State.modSar, honly.keeps_sar]
  case last =>
    intro uv n done sum s hconv hlast
    have hnow := le_now_advanceTo s s.sar.convEnd
    have honly := only_advanceTo_time s s.sar.convEnd
    have hexec := execSarConversionDone_works (uv := uv) (s := s) (by rw [hconv]; exact SarConv.noConfusion)
    generalize s.advanceTo s.sar.convEnd = t at *
    have hlv (r : Reg) (i hi lo : Nat) : t.lv r i 0 hi lo = s.lv r i 0 hi lo := by rw [State.lv, honly.keeps_live, State.lv]
    obtain ⟨u, w, i, v, hu, hdone⟩ := sarDone_last (s := t) (uv := uv) (by rw [honly.keeps_sar, hconv]) (by rw [hlv]; exact hlast)
    obtain ⟨hqueue, ⟨q, k, hrest⟩, hnow', -⟩ := sarResult_effect t w
    have hput : u.sar = (t.sarResult w).sar ∧ u.now = (t.sarResult w).now := by rw [hu]; exact ⟨rfl, rfl⟩
    obtain ⟨husar, hunow⟩ := hput
    have hlen (h : s.sar.queue.length < 64) : u.sar.queue.length = s.sar.queue.length + 1 := by
      rw [husar, hqueue, honly.keeps_sar, if_pos h, List.length_append]
      rfl
    rw [hlv] at hdone
    refine ⟨_, hexec.trans (congrArg Host.Outcome.next hdone), ?_⟩
    split
    · next hn => exact ⟨hlen, by show s.sar.convEnd ≤ u.now; omega, rfl⟩
    · next hn =>
      have hwrap : (u.countWrap .adcSeqCnt).sar = u.sar ∧ (u.countWrap .adcSeqCnt).now = u.now := ⟨rfl, rfl⟩
      generalize u.countWrap .adcSeqCnt = x at *
      obtain ⟨hq, -, hn', hc⟩ := sarNext_effect x
      refine ⟨fun h => by rw [hq, hwrap.1, hlen h], by omega, ?_⟩
      rw [hc, hwrap.1, husar, hrest, honly.keeps_sar]
  case again =>
    intro s hs h
    have heq := sarTrigger_again h
    refine ⟨_, congrArg (fun u => Host.Outcome.next (State.setReg u .adcSeqTrig 0 0 0)) heq, ?_, rfl, otherRegs_setReg hs _ _ _ _⟩
    exact regGet_regSet_same (regsRise_of_storesCanonical hs) .adcSeqTrig 0 0 0
  case idle =>
    intro uv s h
    exact if_pos h

end Sys2Proof.Machine
end

section
/-! The role of a module: what its change leaves and enters, and what an exchange that ends records (R424, R443, R444). -/

-- The proofs are elaborated one after the other: this bounds the threads of the compiler, whose stacks count as its memory.
set_option Elab.async false

namespace Sys2Proof.Machine

/-! ### Records of scheduled actions -/

section
variable {s : State}

/-- The record of a scheduled action, where there is room for it. -/
def sporeRecOf (s : State) (d : DueSlot) (st : Status) (detail : Nat) : SporeRec :=
  { nt := s.ntFine, slot := d.slot, action := d.spore.action, result := st.code, late := d.spore.late, same := d.same, discard := false
    detail := BitVec.ofNat 32 detail }

theorem sporeDone_nt (h : s.nt.recs.length < 64) (d : DueSlot) (st : Status) (detail : Nat) :
    (s.sporeDone d st detail).nt = { s.nt with recs := s.nt.recs ++ [sporeRecOf s d st detail] } := by
  unfold State.sporeDone State.sporeRecord sporeRecOf
  dsimp only
  rw [if_pos h, (only_mirror_twn _ _ _ _ _).keeps_nt, (only_note (ps := [.regs, .log]) _ _ _ _ _ (Only.refl _ _) (by decide) (by decide)).keeps_nt]
  rfl

theorem sporeRecorded_sporeDone (h : s.nt.recs.length < 64) (d : DueSlot) (st : Status) (detail : Nat) :
    SporeRecorded d st detail s (s.sporeDone d st detail) := by
  have hnt := sporeDone_nt h d st detail
  refine ⟨sporeRecOf s d st detail, by rw [hnt], rfl, rfl, rfl, rfl, rfl, rfl, rfl, ?_⟩
  rw [State.ntFine, State.nt64, hnt]
  rfl

/-- A module that does not lead hands no record on. -/
theorem mirror_standby (h : s.leads = false) (c : Src) (op : Nat) (p : Bytes) (take : DWord) : s.mirror c op p take = s :=
  if_neg (by rw [h]; decide)

theorem leads_of_role (h : s.twn.role = false) : s.leads = false := by simp [State.leads, h]

theorem sporeRecord_standby (h : s.twn.role = false) (r : SporeRec) : (s.sporeRecord r).twn = s.twn := by
  have hnoted (u : State) (hu : u.twn = s.twn) : ((u.note 4 1 0 r.bytes).mirror noSrc recItem r.bytes 0).twn = s.twn := by
    have honly : Only [.regs, .log] u (u.note 4 1 0 r.bytes) := only_note _ _ _ _ _ (Only.refl _ _) (by decide) (by decide)
    rw [mirror_standby (leads_of_role (by rw [honly.keeps_twn, hu, h])), honly.keeps_twn, hu]
  have hput : (if s.nt.recs.length < 64 then s.modNt fun n => { n with recs := n.recs ++ [r] } else s.count .ntSporeRecLost).twn = s.twn := by
    split <;> rfl
  exact hnoted _ hput

theorem sporeDone_standby (h : s.twn.role = false) (d : DueSlot) (st : Status) (detail : Nat) : (s.sporeDone d st detail).twn = s.twn :=
  sporeRecord_standby h _

end

/-! ### A change of the role -/

section
variable {s0 s : State}

/-- What a module gives up with its role: the clear requests that wait for its twin, and the exchanges that have not come about. -/
def State.roleLeft (s : State) (role planned : Bool) : State :=
  let s := if role then s else s.endJoints
  if planned then s else s.dropSwaps

/-- The role is in force. -/
def State.roleTaken (s : State) (role planned : Bool) : State :=
  ((s.count .twnSwitchCnt).modTwn fun t => { t with
    role := role, ready := role || (planned && !t.pathFault), swapReq := false, resync := false, equalRun := 0, recs := []
    serving := false, resyncOut := [], resyncBytes := 0, snapDue := false, snapLeft := 0
    outItems := [], sentItems := [], itemNo := dmax t.itemNo t.rxItem, rxItem := dmax t.itemNo t.rxItem, itemBuf := [] }).notify

theorem setRole_same (h : (s.twn.roleIn && !s.twn.conflict) = s.twn.role) : s.setRole = s := if_pos h

theorem setRole_changes {role : Bool} (hrole : (s.twn.roleIn && !s.twn.conflict) = role) (h : role ≠ s.twn.role) : s.setRole =
    if role && ((s.roleLeft role s.twn.swapReq).roleTaken role s.twn.swapReq).pair && !s.twn.ready &&
        (((s.roleLeft role s.twn.swapReq).roleTaken role s.twn.swapReq).ops.st = .armed ||
          ((s.roleLeft role s.twn.swapReq).roleTaken role s.twn.swapReq).ops.st = .running) then
      ((s.roleLeft role s.twn.swapReq).roleTaken role s.twn.swapReq).toStopping 0x11
    else (s.roleLeft role s.twn.swapReq).roleTaken role s.twn.swapReq := by
  subst hrole
  exact if_neg h

/-- A stack that clears loses its causes, and its test is guarded anew. -/
theorem clearZone_eq (s : State) (k : Nat) : ∃ f, s.clearZone k = (s.modZone k f).ostGuard k := ⟨_, rfl⟩

section
variable (h : SameTwin s0 s)
include h

theorem twin_sporeDone (d : DueSlot) (st : Status) (detail : Nat) : SameTwin s0 (s.sporeDone d st detail) := twin_sporeRecord _ h

theorem twin_gdlTrip {k bit cause source phase : Nat} (hc : cause ≠ 7 ∧ cause ≠ 9) : SameTwin s0 (s.gdlTrip k bit cause source phase) := by
  have hone (u : State) (k c a b : Nat) (hu : SameTwin s0 u) : SameTwin s0 (u.latchOne k c a b 0) :=
    twin_of_only (l := [.regs, .pwm, .gdl, .trp, .nt, .log, .acq]) (only_latchOne u k c a b 0 (Only.refl _ u) (by decide) (by decide) (by decide)
      (by decide) (by decide) (by decide) (by decide)) hu
  have hall (u : State) (hu : SameTwin s0 u) (xs : List Nat) : SameTwin s0 (forNums xs (fun t s =>
      let (i, s) := s.draw
      s.latchOne t 14 k 0 (Config.freeNat i % 6)) u) := by
    refine holds_forNums (P := SameTwin s0) xs (fun t _ v hv => ?_) hu
    exact twin_of_only (l := [.free, .regs, .pwm, .gdl, .trp, .nt, .log, .acq]) (only_latchOne v.draw.2 t 14 k 0 _
      (only_draw (Only.refl _ v) (by decide)) (by decide) (by decide) (by decide) (by decide) (by decide) (by decide) (by decide)) hv
  have hflag : SameTwin s0 ((s.setFlag .gdlFault k bit).logFlag 11 bit ((s.setFlag .gdlFault k bit).reg .gdlFault k)) :=
    twin_note _ _ _ _ (twin_of_twn (s := s) rfl h)
  unfold State.gdlTrip
  refine twin_ite h ?_
  dsimp only
  generalize State.logFlag _ _ _ _ = u at *
  have hpath : u.ownPath cause = false := by simp [State.ownPath, hc.1, hc.2]
  unfold State.latch
  refine twin_ite hflag ?_
  rw [if_neg (by rw [hpath]; decide)]
  exact twin_ite (hall _ (hone u k cause source phase hflag) _) (hone u k cause source phase hflag)

theorem twin_ostGuard (k : Nat) : SameTwin s0 (s.ostGuard k) := by
  have hended : SameTwin s0 (s.modGs k fun g => { g with ost := .none }).ostComplete :=
    holds_foldl (P := SameTwin s0) _ (fun _ _ _ hu => twin_complete _ _ _ _ _ hu) (twin_of_twn (s := s) rfl h)
  unfold State.ostGuard State.ostAbort State.fltStanding
  generalize (s.modGs k fun g => { g with ost := .none }).ostComplete = u at *
  exact twin_ite h (twin_ite (twin_ite (twin_gdlTrip hended (by decide)) hended) h)

theorem twin_endJoint (r : ClearReq) (ok : Nat) : SameTwin s0 (s.endJoint r ok) := by
  have happlied (mask ok : Nat) : SameTwin s0 (s.applyClear mask ok) := by
    refine holds_forNums (P := SameTwin s0) _ (fun k _ u hu => twin_of_twn (s := u) rfl hu) (holds_forNums (P := SameTwin s0) _ (fun k _ u hu => ?_) h)
    obtain ⟨f, hf⟩ := clearZone_eq u k
    rw [hf]
    exact twin_ostGuard (s := u.modZone k f) (twin_of_twn (s := u) rfl hu) k
  have hended (u : State) (src : Src) (mask : Nat) (hu : SameTwin s0 u) : SameTwin s0 (u.endClear src mask) :=
    holds_forNums (P := SameTwin s0) _ (fun k _ v hv => twin_of_twn (s := v) rfl hv) (twin_of_twn (s := u) rfl hu)
  unfold State.endJoint State.finishClear
  dsimp only
  exact twin_ite (twin_complete _ _ _ _ _ (hended _ _ _ (happlied _ _))) (twin_complete _ _ _ _ _ (hended _ _ _ (happlied _ _)))

theorem twin_endJoints : SameTwin s0 s.endJoints := holds_foldl (P := SameTwin s0) _ (fun _ r _ hu => twin_endJoint hu r _) h

theorem twin_toStopping (cause : Nat) : SameTwin s0 (s.toStopping cause) := by
  have hstarts (u : State) (hu : SameTwin s0 u) : SameTwin s0 (u.dropStarts 3) := twin_dropStartsIf _ hu
  exact twin_of_only (only_stopChannels_parts _) (hstarts _ (twin_enginesStop (twin_enter .stopping cause h)))

end

section
variable (h : SelftestKept s0 s)
include h

theorem selftest_endJoint (r : ClearReq) (ok : Nat) : SelftestKept s0 (s.endJoint r ok) := by
  have hcount (u : State) (k : Nat) (hu : SelftestKept s0 u) : SelftestKept s0 (u.count .trpClrRefCnt k) :=
    selftest_of_desk hu (kept_count _ _ _ (.refl u) (not_onDesk_of_base (by decide) _ _))
  have happlied (mask ok : Nat) : SelftestKept s0 (s.applyClear mask ok) := by
    refine kept_forNums _ _ (fun k u hu => hcount u k hu) (kept_forNums _ _ (fun k u hu => ?_) h)
    obtain ⟨f, hf⟩ := clearZone_eq u k
    rw [hf]
    exact selftest_ostGuard (s := u.modZone k f) (kept_of_regs (s := u) rfl hu) k
  have hended (u : State) (src : Src) (mask : Nat) (hu : SelftestKept s0 u) : SelftestKept s0 (u.endClear src mask) :=
    kept_forNums _ _ (fun k v hv => kept_of_regs (s := v) rfl hv) (kept_of_regs (s := u) rfl hu)
  unfold State.endJoint State.finishClear
  dsimp only
  exact kept_ite (selftest_complete (hended _ _ _ (happlied _ _)) _ _ _ _ _) (selftest_complete (hended _ _ _ (happlied _ _)) _ _ _ _ _)

theorem selftest_endJoints : SelftestKept s0 s.endJoints := holds_foldl (P := SelftestKept s0) _ (fun _ r _ hu => selftest_endJoint hu r _) h

theorem selftest_toStopping (cause : Nat) : SelftestKept s0 (s.toStopping cause) :=
  selftest_stopChannels (selftest_dropStarts (selftest_enginesStop (kept_enter h (by decide) .stopping cause)) 3)

theorem selftest_dropSwaps : SelftestKept s0 s.dropSwaps :=
  kept_foldl _ _ (fun _ _ _ hu => kept_sporeRecord hu (by decide) (by decide) _) (kept_modTwn h _)

end

theorem dropSwaps_effect (s : State) : Only [.regs, .nt, .log, .twn] s s.dropSwaps ∧
    s.dropSwaps.twn.core = ({ s.twn with swapSpore := [] } : TwnState).core := by
  have htwin : SameTwin (s.modTwn fun t => { t with swapSpore := [] }) s.dropSwaps :=
    holds_foldl (P := SameTwin (s.modTwn fun t => { t with swapSpore := [] })) _ (fun _ _ _ hu => twin_sporeDone hu _ _ _) (.refl _)
  refine ⟨only_foldl _ _ (fun u x hu => ?_) (only_modTwn _ (Only.refl _ s) (by decide)), htwin⟩
  exact hu.trans (only_sporeRecord_parts u _) fun _ hp => hp

/-- R443: a module on its way to IDLE. -/
theorem toStopping_effect (s : State) (cause : Nat) : (s.toStopping cause).ops.st = .stopping ∧ (s.toStopping cause).ops.cause = cause ∧
    (∀ n < 192, isOuter n = true → ((s.toStopping cause).chan n).gc = false) ∧ ∀ e < 8, ((s.toStopping cause).engN e).executing = false := by
  have hops := enter_ops s .stopping cause
  unfold State.toStopping
  generalize s.enter .stopping cause = t at *
  have hops' := (only_enginesStop_parts t).keeps_ops
  have hexec (e : Nat) (he : e < 8) := enginesStop_executing t he
  generalize t.enginesStop = u at *
  have hstarts : (u.dropStarts 3).ops = { u.ops with starts := [] } := dropStartsIf_ops u _
  have heng : Only (.ops :: answerParts) u (u.dropStarts 3) := only_dropStartsIf_parts u _
  generalize u.dropStarts 3 = v at *
  have hparts := only_stopChannels_parts v
  have hgc (n : Nat) (hn : n < 192) (hout : isOuter n = true) := stopChannels_gc hn v hout
  generalize v.stopChannels = w at *
  refine ⟨by rw [hparts.keeps_ops, hstarts, hops', hops], by rw [hparts.keeps_ops, hstarts, hops', hops], hgc, fun e he => ?_⟩
  rw [State.engN, hparts.keeps_eng, heng.keeps_eng]
  exact hexec e he

end

end Sys2Proof.Machine
end

section
/-! Pulses change the role, OWN_N holds the lands, and a planned exchange asks and is checked (R422 to R425, R441 to R444). -/

-- The proofs are elaborated one after the other: this bounds the threads of the compiler, whose stacks count as its memory.
set_option Elab.async false

namespace Sys2Proof.Machine

section
variable {s : State} {w : Nat}

/-- A valid pulse has come. -/
def State.roleHeard (s : State) : State := s.modTwn fun t => { t with pulseAt := s.now, arbLost := false }

/-- The second pulse of a new width: ROLE_IN has changed. -/
def State.roleNew (s : State) (r : Bool) : State :=
  s.roleHeard.modTwn fun t => { t with roleIn := r, roleCand := none, conflict := t.conflict && r }

theorem execRoleInPulse_none (h : rolePulse w = none) : execRoleInPulse w s = .next (s.modTwn fun t => { t with roleCand := none }) := by
  simp only [execRoleInPulse, h]

theorem execRoleInPulse_some {r : Bool} (h : rolePulse w = some r) : execRoleInPulse w s =
    if r = s.twn.roleIn then .next (s.roleHeard.modTwn fun t => { t with roleCand := none })
    else if s.twn.roleCand = some r then .next (s.roleNew r).setRole
    else .next (s.roleHeard.modTwn fun t => { t with roleCand := some r }) := by
  simp only [execRoleInPulse, h]
  rfl

/-- What a change of the role leaves of the counter and of the interface. -/
theorem roleTaken_effect {t : State} {role planned : Bool} (hs : cellsRise t.regs) :
    ((t.roleTaken role planned).reg .twnSwitchCnt).toNat = min ((t.reg .twnSwitchCnt).toNat + 1) 0xFFFFFFFF ∧
    cellsRise (t.roleTaken role planned).regs ∧ (t.roleTaken role planned).twn.role = role ∧
    (t.roleTaken role planned).twn.roleIn = t.twn.roleIn ∧ (t.roleTaken role planned).twn.roleCand = t.twn.roleCand ∧
    (t.roleTaken role planned).live = t.live ∧ (t.roleTaken role planned).ops = t.ops :=
  ⟨counted_of_rise hs rfl, cellsRise_write hs, rfl, rfl, rfl, rfl, rfl⟩

theorem dropSwaps_fields (s : State) : s.dropSwaps.twn.roleIn = s.twn.roleIn ∧ s.dropSwaps.twn.roleCand = s.twn.roleCand := by
  obtain ⟨-, hcore⟩ := dropSwaps_effect s
  have hfield {α : Type} (f : TwnState → α) : f s.dropSwaps.twn.core = f ({ s.twn with swapSpore := [] } : TwnState).core := congrArg f hcore
  exact ⟨hfield TwnState.roleIn, hfield TwnState.roleCand⟩

theorem roleLeft_effect (s : State) (role planned : Bool) : SelftestKept s (s.roleLeft role planned) ∧
    (s.roleLeft role planned).twn.roleIn = s.twn.roleIn ∧ (s.roleLeft role planned).twn.roleCand = s.twn.roleCand := by
  have hends : SelftestKept s (if role then s else s.endJoints) ∧ SameTwin s (if role then s else s.endJoints) := by
    split
    · exact ⟨.refl s, .refl s⟩
    · exact ⟨selftest_endJoints (.refl s), twin_endJoints (.refl s)⟩
  unfold State.roleLeft
  dsimp only
  generalize (if role then s else s.endJoints) = t at *
  obtain ⟨hregs, htwin⟩ := hends
  obtain ⟨-, -, -, hin, hcand, -⟩ := htwin.fields
  obtain ⟨hin', hcand'⟩ := dropSwaps_fields t
  split
  · exact ⟨hregs, hin, hcand⟩
  · exact ⟨selftest_dropSwaps hregs, hin'.trans hin, hcand'.trans hcand⟩

/-- R424: the role follows ROLE_IN, and the change is counted. -/
theorem setRole_takes (hs : cellsRise s.regs) {role : Bool} (hrole : (s.twn.roleIn && !s.twn.conflict) = role) (h : role ≠ s.twn.role) :
    s.setRole.twn.roleIn = s.twn.roleIn ∧ s.setRole.twn.role = role ∧ s.setRole.twn.roleCand = s.twn.roleCand ∧
    (s.setRole.reg .twnSwitchCnt).toNat = min ((s.reg .twnSwitchCnt).toNat + 1) 0xFFFFFFFF := by
  rw [setRole_changes hrole h]
  obtain ⟨hregs, hin, hcand⟩ := roleLeft_effect s role s.twn.swapReq
  generalize s.roleLeft role s.twn.swapReq = t at *
  obtain ⟨hrise, hreg⟩ := hregs hs
  obtain ⟨hcount, hrise', hrole', hin', hcand', -, -⟩ := roleTaken_effect (role := role) (planned := s.twn.swapReq) hrise
  generalize t.roleTaken role s.twn.swapReq = u at *
  have hold : t.reg .twnSwitchCnt = s.reg .twnSwitchCnt := hreg .twnSwitchCnt 0 0 (.inr rfl)
  have hu : u.twn.roleIn = s.twn.roleIn ∧ u.twn.role = role ∧ u.twn.roleCand = s.twn.roleCand ∧
      (u.reg .twnSwitchCnt).toNat = min ((s.reg .twnSwitchCnt).toNat + 1) 0xFFFFFFFF :=
    ⟨hin'.trans hin, hrole', hcand'.trans hcand, by rw [hcount, hold]⟩
  split
  · obtain ⟨hr, -, -, hi, hc, -⟩ := (twin_toStopping (.refl u) 0x11).fields
    have hkept := (selftest_toStopping (.refl u) 0x11 hrise').2 .twnSwitchCnt 0 0 (.inr rfl)
    rw [hr, hi, hc, hkept]
    exact hu
  · exact hu

/-- R443: a module that becomes ACTIVE while NOT_READY leaves ARMED and RUNNING. -/
theorem setRole_stops (hrole : s.twn.roleIn = true) (hclear : s.twn.conflict = false) (hold : s.twn.role = false) (hready : s.twn.ready = false)
    (hpair : s.pair = true) (hst : s.ops.st = .armed ∨ s.ops.st = .running) : ∃ u : State, s.setRole = u.toStopping 0x11 := by
  have hleft : Only [.regs, .nt, .log, .twn] s (s.roleLeft true s.twn.swapReq) := by
    unfold State.roleLeft
    exact only_ite (Only.refl _ s) (dropSwaps_effect s).1
  rw [setRole_changes (role := true) (by simp [hrole, hclear]) (by simp [hold])]
  generalize s.roleLeft true s.twn.swapReq = t at *
  have hops : (t.roleTaken true s.twn.swapReq).ops = t.ops := rfl
  have hlive : (t.roleTaken true s.twn.swapReq).live = t.live := rfl
  have hpair' : (t.roleTaken true s.twn.swapReq).pair = true := (pair_congr (hlive.trans hleft.keeps_live)).trans hpair
  rw [hpair', hops, hleft.keeps_ops, hready]
  refine ⟨_, if_pos ?_⟩
  rcases hst with h | h <;> simp [h]

/-- R441: the outer channels of a module that has held them are off. -/
theorem heldOff_effect (u : State) : u.stopChannels.safJudge.twn = u.twn ∧
    ∀ n < 192, isOuter n = true → ((u.stopChannels.safJudge).chan n).gc = false := by
  have hparts := only_stopChannels_parts u
  have hgc (n : Nat) (hn : n < 192) (hout : isOuter n = true) := stopChannels_gc hn u hout
  generalize u.stopChannels = v at *
  have hsaf := only_safJudge_saf v
  exact ⟨by rw [hsaf.keeps_twn, hparts.keeps_twn], fun n hn hout => by rw [State.chan, hsaf.keeps_pwm]; exact hgc n hn hout⟩

/-- R425: which lands a module drives, by its state and by OWN_N. -/
theorem lands_of_own {t : State} (hops : t.ops = s.ops) (harb : t.arb = s.arb) (hlive : t.live = s.live) (hpwm : t.pwm = s.pwm) :
    (∀ n, t.gcDriven n = if s.ops.st ≠ .off ∧ s.arb.strapped = false ∧ s.ops.st ≠ .selftest ∧ s.linkMode = false ∧ t.twn.own = true ∧
      t.twn.silent = false then some (s.chan n).gc else none) ∧
    t.clkLandsDriven = (s.landsPowered && (s.linkMode || (t.twn.own && !t.twn.silent))) := by
  have hlink : t.linkMode = s.linkMode := by rw [State.linkMode, State.lv, hlive, State.linkMode, State.lv]
  have hpower : t.landsPowered = s.landsPowered := by rw [State.landsPowered, hops, harb, State.landsPowered]
  refine ⟨fun n => ?_, by rw [State.clkLandsDriven, hpower, hlink, State.ownsLands]⟩
  have hchan : t.chan n = s.chan n := by rw [State.chan, hpwm, State.chan]
  rw [State.gcDriven, State.drivesLands, hpower, hlink, hops, hchan, State.ownsLands, State.landsPowered]
  refine if_congr ?_ rfl rfl
  simp only [Bool.and_eq_true, bne_iff_ne, Bool.not_eq_true', ne_eq]
  tauto

/-- The exchange that is checked waits no more. -/
def State.swapOver (s : State) (rest : List (DueSlot × Nat)) : State := s.modTwn fun x => { x with swapReq := false, swapSpore := rest }

theorem execRoleSwapCheck_due {d : DueSlot} {t0 : Nat} {rest : List (DueSlot × Nat)} (hspore : s.twn.swapSpore = (d, t0) :: rest)
    (hdue : s.twn.role = false ∨ s.twn.swapReq = true) : execRoleSwapCheck s = .next
      (if s.twn.role then ((s.advanceTo t0).swapOver rest).sporeDone d .error 7
       else (((s.advanceTo t0).swapOver rest).sporeDone d .ok 0).dropSwaps) := by
  have htwn : (s.advanceTo t0).twn = s.twn := by simp
  simp only [execRoleSwapCheck, hspore, htwn, if_neg (show ¬ (s.twn.role && !s.twn.swapReq) = true by rcases hdue with h | h <;> simp [h])]
  rfl

theorem SporeRecorded.congr {d : DueSlot} {st : Status} {detail : Nat} {s u t : State} (h : SporeRecorded d st detail u t)
    (hrecs : u.nt.recs = s.nt.recs) : SporeRecorded d st detail s t := by
  obtain ⟨r, hr, hrest⟩ := h
  exact ⟨r, by rw [hr, hrecs], hrest⟩

theorem recs_advanceTo (s : State) (n : Nat) : (s.advanceTo n).nt.recs = s.nt.recs := by
  obtain ⟨_, _, _, _, h⟩ := nt_advanceTo s n
  rw [h]

theorem dropSwaps_none (h : s.twn.swapSpore = []) : s.dropSwaps = s.modTwn fun t => { t with swapSpore := [] } := by
  rw [State.dropSwaps, h]
  rfl

end

/-- Settles O54, by the widths of pulses, by the lands that OWN_N gives, and by the record of an exchange. -/
theorem rolesAndOwnership : Obligations.RolesAndOwnership := by
  refine ⟨?pulse, ?invalid, ?same, ?first, ?changes, ?stops, ?lost, ?alone, ?owns, ?gives, ?held, ?expires, ?noHold, ?asks, ?noSwap, ?failed, ?swapped⟩
  case pulse =>
    intro s
    have hnow := le_now_advanceTo s (s.twn.hbAt + 32000)
    have htwn : (s.advanceTo (s.twn.hbAt + 32000)).twn = s.twn := by simp
    refine ⟨_, rfl, hnow, ?_⟩
    generalize s.advanceTo (s.twn.hbAt + 32000) = t at *
    have hcode : t.hbCode = s.hbCode := by rw [State.hbCode, htwn, State.hbCode]
    rw [← hcode, ← htwn]
    rfl
  case invalid =>
    intro w s h
    exact ⟨_, execRoleInPulse_none h, rfl, only_modTwn _ (Only.refl _ s) (by decide)⟩
  case same =>
    intro w s h
    exact ⟨_, (execRoleInPulse_some h).trans (if_pos rfl), rfl, only_modTwn _ (only_modTwn _ (Only.refl _ s) (by decide)) (by decide)⟩
  case first =>
    intro w r s h hne hcand
    exact ⟨_, (execRoleInPulse_some h).trans ((if_neg hne).trans (if_neg hcand)), rfl,
      only_modTwn _ (only_modTwn _ (Only.refl _ s) (by decide)) (by decide)⟩
  case changes =>
    intro w r s hs h hne hcand hclear hrole
    have hfields : (s.roleNew r).twn = { s.twn with pulseAt := s.now, arbLost := false, roleIn := r, roleCand := none, conflict := s.twn.conflict && r } :=
      rfl
    have hregs : (s.roleNew r).regs = s.regs := rfl
    refine ⟨_, (execRoleInPulse_some h).trans ((if_neg hne).trans (if_pos hcand)), ?_⟩
    generalize s.roleNew r = t at *
    obtain ⟨hin, hr, hc, hcount⟩ := setRole_takes (s := t) (role := r) (by rw [hregs]; exact regsRise_of_storesCanonical hs)
      (by rw [hfields, hclear]; simp) (by rw [hfields]; exact fun h => hrole h.symm)
    exact ⟨by rw [hin, hfields], hr, by rw [hc, hfields], by rw [hcount, State.reg, hregs, State.reg]⟩
  case stops =>
    intro w s h hin hcand hclear hrole hready hpair hst
    obtain ⟨u, hu⟩ := setRole_stops (s := s.roleNew true) rfl (by simp [State.roleNew, State.roleHeard, State.modTwn, hclear]) hrole hready hpair hst
    refine ⟨_, (execRoleInPulse_some h).trans ((if_neg (by simp [hin])).trans (if_pos hcand)), ?_⟩
    rw [hu]
    exact toStopping_effect u 0x11
  case lost =>
    intro s hpair
    have hnow := le_now_advanceTo s (s.twn.pulseAt + 160000)
    have htwn : (s.advanceTo (s.twn.pulseAt + 160000)).twn = s.twn := by simp
    refine ⟨_, if_pos hpair, hnow, ?_⟩
    generalize s.advanceTo (s.twn.pulseAt + 160000) = t at *
    rw [← htwn]
    rfl
  case alone =>
    intro s hpair
    exact if_neg (by rw [hpair]; decide)
  case owns =>
    intro s
    refine ⟨_, rfl, rfl, only_modTwn _ (Only.refl _ s) (by decide), fun n => ?_⟩
    obtain ⟨hgates, -⟩ := lands_of_own (s := s) (t := s.modTwn fun t => { t with own := true, haltHold := t.haltHold }) rfl rfl rfl rfl
    exact (hgates n).trans (if_congr (by simp [State.modTwn, and_assoc]) rfl rfl)
  case gives =>
    intro s hhold
    have hkept := congrArg (fun x => ({ s.twn with own := false, haltHold := x } : TwnState)) hhold
    obtain ⟨hgates, hclk⟩ := lands_of_own (s := s) (t := s.modTwn fun t => { t with own := false, haltHold := none }) rfl rfl rfl rfl
    exact ⟨_, if_neg (by simp [hhold]), hkept.symm, only_modTwn _ (Only.refl _ s) (by decide), fun n => (hgates n).trans (if_neg (by simp [State.modTwn])),
      hclk.trans (by simp [State.modTwn, Bool.and_comm])⟩
  case held =>
    intro t0 s hhold
    obtain ⟨htwn, hgc⟩ := heldOff_effect (s.modTwn fun t => { t with own := false, haltHold := none })
    exact ⟨_, if_pos (by simp [hhold]), htwn, hgc⟩
  case expires =>
    intro t0 s hhold
    have hnow := le_now_advanceTo s t0
    have htwn : (s.advanceTo t0).twn = s.twn := by simp
    have hexec : execHaltHoldExpiry s = .next (((s.advanceTo t0).modTwn fun x => { x with haltHold := none }).stopChannels.safJudge) := by
      simp only [execHaltHoldExpiry, hhold]
    refine ⟨_, hexec, ?_⟩
    generalize s.advanceTo t0 = t at *
    obtain ⟨hheld, hgc⟩ := heldOff_effect (t.modTwn fun x => { x with haltHold := none })
    have hkept : ((t.modTwn fun x => { x with haltHold := none }).stopChannels.safJudge).now = t.now := by
      rw [(only_safJudge_saf _).keeps_now, (only_stopChannels_parts _).keeps_now]
      rfl
    exact ⟨by rw [hkept]; exact hnow, by rw [hheld, ← htwn]; rfl, hgc⟩
  case noHold =>
    intro s hhold
    simp only [exec, execHaltHoldExpiry, hhold]
  case asks =>
    intro d t0 rest s hspore hreq hrole hrun
    by_cases hdue : t0 ≤ (s.tb (s.leadTb s.refEng)).zeroAt
    · refine ⟨s.modTwn fun x => { x with swapReq := true, swapSpore := (d, s.now + 320000) :: rest }, ?_, ?_⟩
      · simp [exec, execRoleSwapRequest, hspore, hreq, hrole, hrun, hdue]
      · beta_reduce
        rw [if_pos hdue]
        exact ⟨rfl, only_modTwn _ (Only.refl _ s) (by decide)⟩
    · refine ⟨s, ?_, ?_⟩
      · simp [exec, execRoleSwapRequest, hspore, hreq, hrole, hrun, show (s.tb (s.leadTb s.refEng)).zeroAt < t0 by omega]
      · beta_reduce
        rw [if_neg hdue]
  case noSwap =>
    intro s hspore
    exact ⟨by simp only [exec, execRoleSwapRequest, hspore], by simp only [exec, execRoleSwapCheck, hspore]⟩
  case failed =>
    intro d t0 rest s hspore hroom hrole hreq
    have hnow := le_now_advanceTo s t0
    have hrecs := recs_advanceTo s t0
    have htwn : (s.advanceTo t0).twn = s.twn := by simp
    refine ⟨_, (execRoleSwapCheck_due hspore (.inr hreq)).trans (congrArg Host.Outcome.next (if_pos hrole)), ?_⟩
    generalize s.advanceTo t0 = t at *
    have hover : (t.swapOver rest).now = t.now ∧ (t.swapOver rest).nt = t.nt ∧ (t.swapOver rest).twn.swapReq = false ∧
      (t.swapOver rest).twn.swapSpore = rest ∧ (t.swapOver rest).twn.role = t.twn.role := ⟨rfl, rfl, rfl, rfl, rfl⟩
    generalize t.swapOver rest = u at *
    obtain ⟨hunow, hunt, hureq, huspore, hurole⟩ := hover
    have hrec := sporeRecorded_sporeDone (s := u) (by rw [hunt, hrecs]; exact hroom) d .error 7
    have hparts : Only [.regs, .nt, .log, .twn] u (u.sporeDone d .error 7) := only_sporeRecord_parts u _
    obtain ⟨hr, -, -, -, -, hreq', hspore'⟩ := (twin_sporeDone (.refl u) d .error 7).fields
    exact ⟨by rw [hparts.keeps_now, hunow]; exact hnow, hreq'.trans hureq, hspore'.trans huspore, by rw [hr, hurole, htwn, hrole],
      hrec.congr (by rw [hunt, hrecs])⟩
  case swapped =>
    intro d t0 s hspore hroom hrole
    have hnow := le_now_advanceTo s t0
    have hrecs := recs_advanceTo s t0
    have htwn : (s.advanceTo t0).twn = s.twn := by simp
    refine ⟨_, (execRoleSwapCheck_due hspore (.inl hrole)).trans (congrArg Host.Outcome.next (if_neg (by rw [hrole]; decide))), ?_⟩
    generalize s.advanceTo t0 = t at *
    have hover : (t.swapOver []).now = t.now ∧ (t.swapOver []).nt = t.nt ∧
      (t.swapOver []).twn = { t.twn with swapReq := false, swapSpore := [] } := ⟨rfl, rfl, rfl⟩
    generalize t.swapOver [] = u at *
    obtain ⟨hunow, hunt, hutwn⟩ := hover
    have hrec := sporeRecorded_sporeDone (s := u) (by rw [hunt, hrecs]; exact hroom) d .ok 0
    have hparts : Only [.regs, .nt, .log, .twn] u (u.sporeDone d .ok 0) := only_sporeRecord_parts u _
    have hkept := sporeDone_standby (s := u) (by rw [hutwn, htwn, hrole]) d .ok 0
    generalize u.sporeDone d .ok 0 = v at *
    rw [dropSwaps_none (by rw [hkept, hutwn])]
    have hlast : (v.modTwn fun t => { t with swapSpore := [] }).twn = { v.twn with swapSpore := [] } := rfl
    refine ⟨?_, ?_, hrec.congr (by rw [hunt, hrecs])⟩
    · have : v.now = t.now := by rw [hparts.keeps_now, hunow]
      exact hnow.trans_eq this.symm
    · rw [hlast, hkept, hutwn, htwn]

end Sys2Proof.Machine
end

section
/-! Period and item frames cross the Rhizome link (R430 to R433, R439, R443). -/

-- The proofs are elaborated one after the other: this bounds the threads of the compiler, whose stacks count as its memory.
set_option Elab.async false

namespace Sys2Proof.Machine

/-! ### What a module has heard of its twin -/

/-- The latest frame of the twin, whether it came in time, and whether the module runs alone. -/
def TwnState.heard (x : TwnState) : TwinFrame × Bool × Bool × Bool := (x.twin, x.gotFrame, x.twinLate, x.alone)

/-- What a module has heard of its twin stays. -/
def SameHeard (s t : State) : Prop := t.twn.heard = s.twn.heard

section
variable {s0 s t u : State}

theorem SameHeard.refl (s : State) : SameHeard s s := rfl

theorem SameHeard.trans (h : SameHeard s t) (h' : SameHeard t u) : SameHeard s u := Eq.trans h' h

theorem heard_of_core {x y : TwnState} (h : x.core = y.core) : x.heard = y.heard := by
  have hfield {α : Type} (f : TwnState → α) : f x.core = f y.core := congrArg f h
  exact hfield TwnState.heard

theorem SameTwin.link (h : SameTwin s t) : t.twn.link = s.twn.link := by
  have hfield {α : Type} (f : TwnState → α) : f t.twn.core = f s.twn.core := congrArg f h
  exact hfield TwnState.link

theorem SameTwin.resync (h : SameTwin s t) : t.twn.resyncCmd = s.twn.resyncCmd ∧ t.twn.resync = s.twn.resync ∧ t.twn.ready = s.twn.ready := by
  have hfield {α : Type} (f : TwnState → α) : f t.twn.core = f s.twn.core := congrArg f h
  exact ⟨hfield TwnState.resyncCmd, hfield TwnState.resync, hfield TwnState.ready⟩

theorem heard_of_twin (h : SameTwin s t) : SameHeard s t := heard_of_core h

theorem heard_ite {c : Prop} [Decidable c] (hs : SameHeard s0 s) (ht : SameHeard s0 t) : SameHeard s0 (if c then s else t) := by
  split <;> assumption

theorem heard_setRole (s : State) : SameHeard s s.setRole := by
  have hleft (role planned : Bool) : SameHeard s (s.roleLeft role planned) := by
    have hswaps (v : State) : SameHeard v v.dropSwaps := by
      exact (heard_of_core (dropSwaps_effect v).2).trans rfl
    have hends : SameHeard s (if role then s else s.endJoints) := heard_ite (.refl s) (heard_of_twin (twin_endJoints (.refl s)))
    unfold State.roleLeft
    dsimp only
    generalize (if role = true then s else s.endJoints) = v at *
    exact heard_ite hends (hends.trans (hswaps v))
  by_cases h : (s.twn.roleIn && !s.twn.conflict) = s.twn.role
  · rw [setRole_same h]
    exact .refl s
  · rw [setRole_changes rfl h]
    have hl := hleft (s.twn.roleIn && !s.twn.conflict) s.twn.swapReq
    generalize s.roleLeft (s.twn.roleIn && !s.twn.conflict) s.twn.swapReq = v at *
    have htaken : SameHeard v (v.roleTaken (s.twn.roleIn && !s.twn.conflict) s.twn.swapReq) := rfl
    generalize v.roleTaken (s.twn.roleIn && !s.twn.conflict) s.twn.swapReq = w at *
    exact heard_ite ((hl.trans htaken).trans (heard_of_twin (twin_toStopping (.refl w) _))) (hl.trans htaken)

theorem heard_notReady (s : State) : SameHeard s s.notReady := by
  have hstate : s.notReady.twn.heard = (if s.twn.role then s.twn else { s.twn with ready := false }).heard := rfl
  unfold SameHeard
  rw [hstate]
  split <;> rfl

theorem heard_resyncStart (s : State) : SameHeard s s.resyncStart := rfl

theorem heard_disagree (s : State) : SameHeard s s.disagree := by
  have hcount : SameHeard s ((s.count .twnDigestErrCnt).modTwn fun x => { x with digErr := true }) := rfl
  exact hcount.trans (heard_notReady _)

theorem heard_frameRole (s : State) (t : TwinFrame) : SameHeard s (s.frameRole t) := by
  have hconflict (b : Bool) : SameHeard s (s.modTwn fun x => { x with conflict := b }).setRole :=
    SameHeard.trans (t := s.modTwn fun x => { x with conflict := b }) rfl (heard_setRole _)
  exact heard_ite (hconflict true) (heard_ite (.refl s) (hconflict false))

theorem heard_resyncServe (s : State) (t : TwinFrame) : SameHeard s (s.resyncServe t) := heard_ite rfl (heard_ite (.refl s) rfl)

theorem heard_frameSkew (s : State) (t : TwinFrame) : SameHeard s (s.frameSkew t) := by
  have hput (v : Nat) : SameHeard s (s.setRegN .twnSkew 0 0 v) := rfl
  unfold State.frameSkew
  dsimp only
  generalize unsignedOf 32 _ = v
  exact heard_ite ((hput v).trans (heard_notReady _)) (hput v)

theorem heard_frameDigests (s : State) (t : TwinFrame) : SameHeard s (s.frameDigests t) := by
  unfold State.frameDigests
  dsimp only
  refine heard_ite (heard_ite rfl (.refl s)) ?_
  exact heard_ite ((heard_disagree s).trans (heard_resyncStart _)) (heard_disagree s)

theorem twin_resolveJoints (s : State) (zones : BitVec 16) : SameTwin s (s.resolveJoints zones) :=
  holds_foldl (P := SameTwin s) _ (fun _ r _ hu => twin_endJoint hu r _) (.refl s)

theorem heard_resyncEnd (s : State) (which : Src × Nat → Bool) (err : Option Nat) : SameHeard s (s.resyncEnd which err) := by
  have hnone : SameHeard s (s.modTwn fun t => { t with resyncCmd := t.resyncCmd.filter fun x => !which x }) := rfl
  have hends (v : State) (hv : SameTwin (s.modTwn fun t => { t with resyncCmd := t.resyncCmd.filter fun x => !which x }) v) (x : Src × Nat) :
      SameTwin (s.modTwn fun t => { t with resyncCmd := t.resyncCmd.filter fun x => !which x }) (match err with
        | some d => v.refuse x.1 0x0501 .error d
        | none => v.done x.1 0x0501 ((v.now - x.2) / 32000000)) := by
    cases err with
    | none => exact twin_complete _ _ _ _ _ hv
    | some d => exact twin_complete _ _ _ _ _ hv
  exact hnone.trans (heard_of_twin (holds_foldl (P := SameTwin _) _ (fun v x _ hv => hends v hv x) (.refl _)))

/-- A good frame is taken: what it tells of the twin, and whether the module then runs alone. -/
def State.frameTaken (s : State) (t : TwinFrame) (now : Bool) : State :=
  let s := s.modTwn fun x => { x with
    twin := if now then t else { x.twin with flags := t.flags, ack := t.ack }
    gotFrame := x.gotFrame || now, twinLate := x.twinLate && !now, sentItems := x.sentItems.filter fun i => decide (t.ack < i.no) }
  let late := s.twn.sentItems.any fun i => s.takeDue i.takeIdx
  s.modTwn fun x => { x with
    alone := !t.flags.testBit 1 || (x.alone && !now) || (x.role && late)
    digErr := x.digErr && !(x.role && t.flags.testBit 1) }

/-- What follows from a frame that has been taken: roles, a resynchronisation to serve, skew and digests. -/
def State.frameJudged (s : State) (t : TwinFrame) (now : Bool) : State :=
  let s := if s.twn.role && !t.flags.testBit 1 then s.endJoints else s
  let s := (s.frameRole t).resyncServe t
  if now then (s.frameSkew t).frameDigests t else s

theorem twinFrame_eq (s : State) (t : TwinFrame) : ∃ which, s.twinFrame t =
    (((s.resolveJoints t.zones).resyncEnd which none).frameTaken t (s.frameInTime t)).frameJudged t (s.frameInTime t) := ⟨_, rfl⟩

theorem heard_frameJudged (s : State) (t : TwinFrame) (now : Bool) : SameHeard s (s.frameJudged t now) := by
  have hends : SameHeard s (if s.twn.role && !t.flags.testBit 1 then s.endJoints else s) :=
    heard_ite (heard_of_twin (twin_endJoints (.refl s))) (.refl s)
  unfold State.frameJudged
  dsimp only
  generalize (if (s.twn.role && !t.flags.testBit 1) = true then s.endJoints else s) = u at *
  have hserved := (hends.trans (heard_frameRole u t)).trans (heard_resyncServe _ t)
  generalize (u.frameRole t).resyncServe t = v at *
  exact heard_ite ((hserved.trans (heard_frameSkew v t)).trans (heard_frameDigests _ t)) hserved

/-- R431: what a good frame tells. -/
theorem twinFrame_heard (s : State) (t : TwinFrame) : ∃ b, (s.twinFrame t).twn.heard =
      (if s.frameInTime t then t else { s.twn.twin with flags := t.flags, ack := t.ack }, s.twn.gotFrame || s.frameInTime t,
        s.twn.twinLate && !s.frameInTime t, b) ∧ (t.flags.testBit 1 = false → b = true) := by
  obtain ⟨which, heq⟩ := twinFrame_eq s t
  rw [heq]
  have hjoint := (heard_of_twin (twin_resolveJoints s t.zones)).trans (heard_resyncEnd _ which none)
  generalize State.resyncEnd _ which none = u at *
  obtain ⟨htwin, hgot, hlate⟩ : u.twn.twin = s.twn.twin ∧ u.twn.gotFrame = s.twn.gotFrame ∧ u.twn.twinLate = s.twn.twinLate := by
    unfold SameHeard TwnState.heard at hjoint
    simp only [Prod.mk.injEq] at hjoint
    exact ⟨hjoint.1, hjoint.2.1, hjoint.2.2.1⟩
  rw [heard_frameJudged, ← htwin, ← hgot, ← hlate]
  exact ⟨_, rfl, fun h => by simp [State.frameTaken, State.modTwn, h]⟩

end

/-! ### Sending and missing frames -/

section
variable {s : State}

/-- A standby that is not READY has begun to resynchronise. -/
def State.frameReady (s : State) : State := if !s.twn.role && !s.twn.ready && !s.twn.resync then s.resyncStart else s

/-- The PERIOD frame of the present period has left. -/
def State.frameOut (s : State) : State :=
  s.modTwn fun t => { t with sent := s.periodFrame :: t.sent, bytes := t.bytes + s.periodFrame.length, frameSent := true, digOut := s.digestsOut }

theorem execPeriodFrameSend_leaves (hpair : s.pair = true) (hlink : s.twn.link = .up) (hrun : (s.tb (s.leadTb s.refEng)).run = .running)
    (hst : s.ops.st ≠ .off) (hsent : s.twn.frameSent = false) :
    execPeriodFrameSend s = .next (s.advanceTo ((s.engN s.refEng).atB + 3200)).frameReady.frameOut :=
  if_pos (by simp [hpair, hlink, hrun, hst, hsent])

theorem execPeriodFrameSend_stays (h : s.pair = false ∨ s.twn.link ≠ .up ∨ s.twn.frameSent = true) : execPeriodFrameSend s = .next s :=
  if_neg (by rcases h with h | h | h <;> simp [h])

/-- A PERIOD frame goes by the engines, the interface, the device state and the settings alone. -/
theorem periodFrame_congr {t : State} (hlive : t.live = s.live) (heng : t.eng = s.eng) (hops : t.ops = s.ops) (htwn : t.twn = s.twn) :
    t.periodFrame = s.periodFrame := by
  have hengN (e : Nat) : t.engN e = s.engN e := by rw [State.engN, heng, State.engN]
  have hdigests : t.digestsOut = s.digestsOut := by
    unfold State.digestsOut State.executes
    simp only [hengN, hops]
  have href : t.refEng = s.refEng := by rw [State.refEng, State.lv, hlive, State.refEng, State.lv]
  unfold State.periodFrame
  rw [hdigests, href, hengN, htwn]

theorem length_flatMap_leBytes {α : Type} (l : List α) (n : Nat) (f : α → Nat) : (l.flatMap fun x => leBytes n (f x)).length = l.length * n := by
  induction l with
  | nil => simp
  | cons x xs ih => rw [List.flatMap_cons, List.length_append, ih, length_leBytes, List.length_cons, Nat.succ_mul, Nat.add_comm]

theorem pb_append {xs ys : Bytes} {y : Byte} {n : Nat} (h : xs.length = n) : pb (xs ++ y :: ys) n = y.toNat := by
  subst h
  simp [pb, pf, leNat]

/-- R445: the frame with which a standby asks for a resynchronisation. -/
theorem periodFrame_asks (hrole : s.twn.role = false) (hresync : s.twn.resync = true) (hgot : s.twn.resyncGot = 0) (hsnap : s.twn.snapGot = 0) :
    pf s.periodFrame 2 2 = 133 ∧ pb s.periodFrame 128 = 1 := by
  have hdigests : s.digestsOut.length = 8 := by simp [State.digestsOut]
  have hframe : ∃ flags pre crc, pre.length = 124 ∧ s.periodFrame = ([0x01, flags] ++ leBytes 2 133) ++ (pre ++ [1]) ++ crc := by
    unfold State.periodFrame withCrc32c
    simp only [hrole, hresync, hgot, hsnap, decide_true, Bool.and_self, if_true, Bool.false_eq_true, if_false, List.length_singleton]
    refine ⟨_, _, _, ?_, rfl⟩
    simp only [List.length_append, length_leBytes, length_flatMap_leBytes, List.length_range, hdigests, List.length_cons, List.length_nil]
  obtain ⟨flags, pre, crc, hlen, hframe⟩ := hframe
  rw [hframe]
  have hlong : ([0x01, flags] ++ leBytes 2 133) ++ (pre ++ [1]) ++ crc = ([0x01, flags] ++ leBytes 2 133 ++ pre) ++ (1 : Byte) :: crc := by
    simp only [List.append_assoc, List.singleton_append]
  refine ⟨rfl, ?_⟩
  rw [hlong]
  exact pb_append (by simp only [List.length_append, length_leBytes, hlen, List.length_cons, List.length_nil])

end

end Sys2Proof.Machine
end

section
/-! Item frames, the link, and the statements about the Rhizome link (R430 to R433, R439, R443). -/

-- The proofs are elaborated one after the other: this bounds the threads of the compiler, whose stacks count as its memory.
set_option Elab.async false

namespace Sys2Proof.Machine

section
variable {s : State} {f : Bytes}

theorem execPeriodFrameReceive_off (h : s.pair = false ∨ s.twn.link ≠ .up) : execPeriodFrameReceive f s = .next s :=
  if_pos (by rcases h with h | h <;> simp [h])

theorem execPeriodFrameReceive_bad (hpair : s.pair = true) (hlink : s.twn.link = .up) (hcrc : crc32cOk f = false) :
    execPeriodFrameReceive f s = .next (s.count .twnFrameErrCnt) := (if_neg (by simp [hpair, hlink])).trans (if_pos (by simp [hcrc]))

theorem execPeriodFrameReceive_good (hpair : s.pair = true) (hlink : s.twn.link = .up) (hcrc : crc32cOk f = true)
    (hkind : pb f 0 = 1 ∧ 132 ≤ f.length ∧ pf f 2 2 = f.length) : execPeriodFrameReceive f s = .next (s.twinFrame (twinFrameOf f)) :=
  (if_neg (by simp [hpair, hlink])).trans ((if_neg (by simp [hcrc])).trans (if_pos hkind))

/-! ### A missing frame -/

/-- The frame has not come by its deadline. -/
def State.frameMissed (s : State) : State := (s.modTwn fun t => { t with twinLate := true, equalRun := 0 }).notReady

theorem execTwinFrameDeadline_misses (hpair : s.pair = true) (hrun : (s.tb (s.leadTb s.refEng)).run = .running) (hgot : s.twn.gotFrame = false) :
    execTwinFrameDeadline s = .next (s.advanceTo ((s.engN s.refEng).atB + s.tc s.refEng - 64000)).frameMissed :=
  if_pos (by simp [hpair, hrun, hgot])

theorem frameMissed_effect (s : State) : s.frameMissed.twn.twinLate = true ∧ s.frameMissed.twn.alone = s.twn.alone ∧
    s.frameMissed.twn.role = s.twn.role ∧ s.frameMissed.now = s.now ∧ (s.twn.role = false → s.frameMissed.twn.ready = false) := by
  have hstate : s.frameMissed.twn = if s.twn.role then { s.twn with twinLate := true, equalRun := 0 }
      else { s.twn with twinLate := true, equalRun := 0, ready := false } := rfl
  rw [hstate]
  by_cases hrole : s.twn.role = true
  · rw [if_pos hrole]
    exact ⟨rfl, rfl, rfl, rfl, fun h => by simp [hrole] at h⟩
  · rw [if_neg hrole]
    exact ⟨rfl, rfl, rfl, rfl, fun _ => rfl⟩

theorem twinMissing_effect (hpair : s.pair = true) (hgot : s.twn.gotFrame = false) : s.twinMissing.twn.alone = true ∧
    s.twinMissing.twn.role = s.twn.role := by
  have halone : (s.modTwn fun t => { t with twinLate := true, alone := true, equalRun := 0 }).notReady.twn.alone = true ∧
      (s.modTwn fun t => { t with twinLate := true, alone := true, equalRun := 0 }).notReady.twn.role = s.twn.role := by
    have hstate : (s.modTwn fun t => { t with twinLate := true, alone := true, equalRun := 0 }).notReady.twn =
      if s.twn.role then { s.twn with twinLate := true, alone := true, equalRun := 0 }
      else { s.twn with twinLate := true, alone := true, equalRun := 0, ready := false } := rfl
    rw [hstate]
    split <;> exact ⟨rfl, rfl⟩
  rw [State.twinMissing, if_pos (by simp [hpair, hgot])]
  dsimp only
  generalize (s.modTwn fun t => { t with twinLate := true, alone := true, equalRun := 0 }).notReady = u at *
  split
  · obtain ⟨hr, ha, -⟩ := (twin_endJoints (.refl u)).fields
    rw [hr, ha]
    exact halone
  · exact halone

theorem twinMissing_none (h : s.pair = false ∨ s.twn.gotFrame = true) : s.twinMissing = s ∧ execTwinFrameDeadline s = .next s :=
  ⟨if_neg (by rcases h with h | h <;> simp [h]), if_neg (by rcases h with h | h <;> simp [h])⟩

/-! ### Items -/

theorem execItemFrameReceive_off (h : s.pair = false ∨ s.twn.link ≠ .up ∨ s.twn.role = true ∧ crc32cOk f = true) :
    execItemFrameReceive f s = .next s := by
  unfold execItemFrameReceive
  by_cases hlink : s.pair = false ∨ s.twn.link ≠ .up
  · exact if_pos (by rcases hlink with h | h <;> simp [h])
  · simp only [not_or, Bool.not_eq_false, not_not] at hlink
    obtain ⟨hpair, hup⟩ := hlink
    obtain ⟨hrole, hcrc⟩ : s.twn.role = true ∧ crc32cOk f = true := by simpa [hpair, hup] using h
    exact (if_neg (by simp [hpair, hup])).trans ((if_neg (by simp [hcrc])).trans (if_pos hrole))

section
variable (hpair : s.pair = true) (hlink : s.twn.link = .up)
include hpair hlink

theorem execItemFrameReceive_bad (hcrc : crc32cOk f = false) : execItemFrameReceive f s = .next (s.count .twnFrameErrCnt) :=
  (if_neg (by simp [hpair, hlink])).trans (if_pos (by simp [hcrc]))

variable (hrole : s.twn.role = false) (hcrc : crc32cOk f = true)
include hrole hcrc

theorem execItemFrameReceive_skips (hresync : s.twn.resync = false) (hno : (itemOf f).no ≠ s.twn.rxItem + 1) :
    execItemFrameReceive f s = .next s :=
  (if_neg (by simp [hpair, hlink])).trans ((if_neg (by simp [hcrc])).trans ((if_neg (by simp [hrole])).trans (if_neg (by simpa [hresync] using fun _ => hno))))

theorem execItemFrameReceive_takes (hkind : pb f 0 = 2) (hno : (itemOf f).no = s.twn.rxItem + 1) :
    execItemFrameReceive f s = .next (s.itemIn (itemOf f)) :=
  (if_neg (by simp [hpair, hlink])).trans ((if_neg (by simp [hcrc])).trans ((if_neg (by simp [hrole])).trans (if_pos (by simp [hkind, hno]))))

end

/-- The item's number and SEQ have been taken. -/
def State.itemNoted (s : State) (i : Item) : State :=
  let s := s.modTwn fun t => { t with rxItem := i.no }
  if i.src.seq = 0 then s else s.setLastSeq i.src.ring.val (dmax (s.rep i.src.ring.val).lastSeq i.src.seq)

theorem itemIn_noted (s : State) (i : Item) : s.itemIn i =
    (if (s.itemNoted i).takesItem i.opcode then (s.itemNoted i).applyItem i else s.itemNoted i).modMgt fun m => { m with tail := [] } := rfl

theorem itemNoted_effect (s : State) (i : Item) : (s.itemNoted i).twn = { s.twn with rxItem := i.no } ∧ Only [.twn, .sec, .regs] s (s.itemNoted i) ∧
    (i.src.seq ≠ 0 → ((s.itemNoted i).rep i.src.ring).lastSeq = dmax (s.rep i.src.ring).lastSeq i.src.seq) := by
  have hnumber : Only [.twn, .sec, .regs] s (s.modTwn fun t => { t with rxItem := i.no }) := only_modTwn _ (Only.refl _ s) (by decide)
  have hfield : (s.modTwn fun t => { t with rxItem := i.no }).twn = { s.twn with rxItem := i.no } := rfl
  have hrep : (s.modTwn fun t => { t with rxItem := i.no }).rep i.src.ring.val = s.rep i.src.ring.val := rfl
  unfold State.itemNoted
  dsimp only
  generalize (s.modTwn fun t => { t with rxItem := i.no }) = u at *
  by_cases hseq : i.src.seq = 0
  · rw [if_pos hseq]
    exact ⟨hfield, hnumber, fun h => absurd hseq h⟩
  · rw [if_neg hseq, hrep]
    generalize dmax (s.rep i.src.ring.val).lastSeq i.src.seq = v
    have hset : Only [.regs, .sec] u (u.setLastSeq i.src.ring.val v) := only_setLastSeq _ _ _ (Only.refl _ u) (by decide) (by decide)
    have hlast : ((u.setLastSeq i.src.ring.val v).rep i.src.ring.val).lastSeq = v := by
      have hsame := rep_modRep_same i.src.ring.isLt u fun x => { x with lastSeq := v }
      unfold State.setLastSeq
      dsimp only
      generalize u.modRep i.src.ring.val _ = w at *
      split
      · exact congrArg Replay.lastSeq hsame
      · exact congrArg Replay.lastSeq hsame
    exact ⟨hset.keeps_twn.trans hfield, hnumber.trans (hset.mono (by decide)) fun _ hp => hp, fun _ => hlast⟩

theorem takesItem_noted (s : State) (i : Item) (op : Nat) : (s.itemNoted i).takesItem op = s.takesItem op := by
  rw [State.takesItem, (itemNoted_effect s i).2.1.keeps_ops, State.takesItem]

theorem applyItem_chunk {i : Item} (h : i.opcode = chunkItem) : s.applyItem i = s.modTwn fun t => { t with itemBuf := t.itemBuf ++ i.payload } := by
  unfold State.applyItem
  rw [h]
  rfl

/-! ### The link -/

/-- One TWN_RESYNC that waits ends. -/
theorem resyncEnd_one {x : Src × Nat} {which : Src × Nat → Bool} (h : s.twn.resyncCmd = [x]) (hw : which x = true) (d : Nat) :
    s.resyncEnd which (some d) = (s.modTwn fun t => { t with resyncCmd := [] }).refuse x.1 0x0501 .error d := by
  have hnone : (s.modTwn fun t => { t with resyncCmd := t.resyncCmd.filter fun x => !which x }) = s.modTwn fun t => { t with resyncCmd := [] } := by
    simp [State.modTwn, h, hw]
  rw [State.resyncEnd, hnone, h]
  simp [hw]

theorem resyncEnd_none (h : s.twn.resyncCmd = []) (which : Src × Nat → Bool) (err : Option Nat) : s.resyncEnd which err = s := by
  have hnone : (s.modTwn fun t => { t with resyncCmd := t.resyncCmd.filter fun x => !which x }) = s := by
    simp [State.modTwn, h]
    rw [← h]
  rw [State.resyncEnd, hnone, h]
  rfl

end

/-- Settles O55, by what a frame that is sent, received or missed tells, by the items in order, and by the state of the link. -/
theorem framesCrossTheRhizome : Obligations.FramesCrossTheRhizome := by
  refine ⟨?sent, ?unsent, ?off, ?bad, ?good, ?missed, ?missing, ?heard, ?itemOff, ?itemBad, ?skipped, ?taken, ?chunk, ?untrained, ?trained, ?lost,
    ?lostCmd, ?down⟩
  case sent =>
    intro s hpair hlink hrun hst hsent
    have hexec := execPeriodFrameSend_leaves hpair hlink hrun hst hsent
    have hnow := le_now_advanceTo s ((s.engN s.refEng).atB + 3200)
    have honly := only_advanceTo_time s ((s.engN s.refEng).atB + 3200)
    refine ⟨_, hexec, ?_⟩
    generalize s.advanceTo ((s.engN s.refEng).atB + 3200) = t at *
    have hframe := periodFrame_congr honly.keeps_live honly.keeps_eng honly.keeps_ops honly.keeps_twn
    have htwn := honly.keeps_twn
    by_cases hready : s.twn.role = true ∨ s.twn.ready = true ∨ s.twn.resync = true
    · have hsame : t.frameReady = t := if_neg (by rw [htwn]; rcases hready with h | h | h <;> simp [h])
      rw [hsame]
      refine ⟨rfl, hnow, fun _ => ?_, fun hr hrd => ⟨?_, fun hrs => by simp [hr, hrd, hrs] at hready⟩⟩
      · rw [← hframe]
        exact List.mem_cons_self ..
      · show t.twn.resync = true
        rw [htwn]
        simpa [hr, hrd] using hready
    · simp only [not_or, Bool.not_eq_true] at hready
      obtain ⟨hr, hrd, hrs⟩ := hready
      have hstart : t.frameReady = t.resyncStart := if_pos (by rw [htwn]; simp [hr, hrd, hrs])
      have hasks := periodFrame_asks (s := t.resyncStart) (by show t.twn.role = false; rw [htwn, hr]) rfl rfl rfl
      rw [hstart]
      refine ⟨rfl, hnow, fun h => by simp [hr, hrd, hrs] at h, fun _ _ => ⟨rfl, fun _ => ⟨_, ?_, hasks⟩⟩⟩
      exact List.mem_cons_self ..
  case unsent =>
    intro s h
    exact execPeriodFrameSend_stays h
  case off =>
    intro f s h
    exact execPeriodFrameReceive_off h
  case bad =>
    intro f s hs hpair hlink hcrc
    exact ⟨_, execPeriodFrameReceive_bad hpair hlink hcrc, counts_count hs _ _⟩
  case good =>
    intro f s hpair hlink hcrc hkind hlen hsize
    refine ⟨_, execPeriodFrameReceive_good hpair hlink hcrc ⟨hkind, hlen, hsize⟩, ?_⟩
    obtain ⟨b, hheard, halone⟩ := twinFrame_heard s (twinFrameOf f)
    generalize s.twinFrame (twinFrameOf f) = t at *
    unfold TwnState.heard at hheard
    simp only [Prod.mk.injEq] at hheard
    obtain ⟨htwin, hgot, hlate, hb⟩ := hheard
    exact ⟨htwin, hgot, hlate, fun _ hflag => hb.trans (halone hflag)⟩
  case missed =>
    intro s hpair hrun hgot
    have hnow := le_now_advanceTo s ((s.engN s.refEng).atB + s.tc s.refEng - 64000)
    have htwn := (only_advanceTo_time s ((s.engN s.refEng).atB + s.tc s.refEng - 64000)).keeps_twn
    refine ⟨_, execTwinFrameDeadline_misses hpair hrun hgot, ?_⟩
    generalize s.advanceTo ((s.engN s.refEng).atB + s.tc s.refEng - 64000) = t at *
    obtain ⟨hlate, halone, hrole, hkept, hready⟩ := frameMissed_effect t
    exact ⟨hlate, by rw [halone, htwn], by rw [hrole, htwn], by rw [hkept]; exact hnow, fun h => hready (by rw [htwn, h])⟩
  case missing =>
    intro s hpair hgot
    exact twinMissing_effect hpair hgot
  case heard =>
    intro s h
    exact twinMissing_none h
  case itemOff =>
    intro f s h
    exact execItemFrameReceive_off h
  case itemBad =>
    intro f s hs hpair hlink hcrc
    exact ⟨_, execItemFrameReceive_bad hpair hlink hcrc, counts_count hs _ _⟩
  case skipped =>
    intro f s hpair hlink hrole hcrc hresync hno
    exact execItemFrameReceive_skips hpair hlink hrole hcrc hresync hno
  case taken =>
    intro f i s hpair hlink hrole hcrc hkind hitem hno
    subst hitem
    obtain ⟨htwn, honly, hseq⟩ := itemNoted_effect s (itemOf f)
    refine ⟨_, execItemFrameReceive_takes hpair hlink hrole hcrc hkind hno, s.itemNoted (itemOf f), htwn, honly, hseq, ?_⟩
    rw [itemIn_noted, takesItem_noted]
  case chunk =>
    intro f s hpair hlink hrole hcrc hkind hno hop
    obtain ⟨htwn, -, -⟩ := itemNoted_effect s (itemOf f)
    refine ⟨_, execItemFrameReceive_takes hpair hlink hrole hcrc hkind hno, ?_⟩
    rw [itemIn_noted, takesItem_noted, if_pos (by simp [State.takesItem, hop]), applyItem_chunk hop]
    generalize s.itemNoted (itemOf f) = t at *
    show t.twn.rxItem = (itemOf f).no ∧ t.twn.itemBuf ++ (itemOf f).payload = _
    rw [htwn]
    exact ⟨rfl, rfl⟩
  case untrained =>
    intro ns s h
    exact if_neg h
  case trained =>
    intro ns s hs h
    exact ⟨_, if_pos h, rfl, regGet_regSet_same (regsRise_of_storesCanonical hs) .twnLat 0 0 _,
      otherRegs_setReg (s := s.modTwn fun t => { t with link := .up }) hs _ _ _ _,
      only_setRegN _ _ _ _ (only_modTwn _ (Only.refl _ s) (by decide)) (by decide)⟩
  case lost =>
    intro s hlink hnone
    have hend := resyncEnd_none (s := s.modTwn fun t => { t with link := .training }) hnone (fun _ => true) (some 3)
    exact ⟨_, (if_pos hlink).trans (congrArg Host.Outcome.next hend), rfl, only_modTwn _ (Only.refl _ s) (by decide)⟩
  case lostCmd =>
    intro x s hs hlink hone
    have hend := resyncEnd_one (s := s.modTwn fun t => { t with link := .training }) hone (which := fun _ => true) rfl 3
    refine ⟨_, (if_pos hlink).trans (congrArg Host.Outcome.next hend), ?_⟩
    have hdesk : SameDesk s ((s.modTwn fun t => { t with link := .training }).modTwn fun t => { t with resyncCmd := [] }) :=
      ⟨rfl, rfl, ⟨rfl, rfl⟩, rfl, rfl, fun _ => rfl, fun _ => rfl⟩
    have hfields : ((s.modTwn fun t => { t with link := .training }).modTwn fun t => { t with resyncCmd := [] }).twn.link = .training ∧
      ((s.modTwn fun t => { t with link := .training }).modTwn fun t => { t with resyncCmd := [] }).twn.resyncCmd = [] := ⟨rfl, rfl⟩
    generalize ((s.modTwn fun t => { t with link := .training }).modTwn fun t => { t with resyncCmd := [] }) = u at *
    have htwin := twin_complete x.1 0x0501 .error 3 0 (.refl u)
    refine ⟨?_, ?_, State.complete_answers x.1 0x0501 .error 3 0 hs hdesk⟩
    · exact htwin.link.trans hfields.1
    · exact htwin.resync.1.trans hfields.2
  case down =>
    intro s h
    exact if_neg h

end Sys2Proof.Machine
end

section
/-! What has arrived of a resynchronisation stays through a commit (Table TWN-6). -/

-- The proofs are elaborated one after the other: this bounds the threads of the compiler, whose stacks count as its memory.
set_option Elab.async false

namespace Sys2Proof.Machine

/-- The parts of steps 2 and 3 that have arrived are the same. -/
def SameGot (s t : State) : Prop := t.twn.resyncGot = s.twn.resyncGot

section
variable {s0 s t : State}

theorem SameGot.refl (s : State) : SameGot s s := rfl

theorem got_of_twin (h : SameGot s0 s) (ht : SameTwin s t) : SameGot s0 t := (congrArg TwnState.resyncGot ht).trans h

theorem got_of_only {l : List Part} (h : SameGot s0 s) (ht : Only l s t) (hl : .twn ∉ l := by decide) : SameGot s0 t :=
  (congrArg TwnState.resyncGot (ht.keeps_twn hl)).trans h

theorem got_ite {c : Prop} [Decidable c] (hs : SameGot s0 s) (ht : SameGot s0 t) : SameGot s0 (if c then s else t) := by
  split <;> assumption

theorem got_forNums (xs : List Nat) (f : Nat → State → State) (hf : ∀ i u, SameGot s0 u → SameGot s0 (f i u)) (h : SameGot s0 s) :
    SameGot s0 (forNums xs f s) := holds_forNums (P := SameGot s0) xs (fun i _ => hf i) h

theorem got_foldl {α : Type} (xs : List α) (f : State → α → State) (hf : ∀ u x, SameGot s0 u → SameGot s0 (f u x)) (h : SameGot s0 s) :
    SameGot s0 (xs.foldl f s) := holds_foldl (P := SameGot s0) xs (fun u x _ => hf u x) h

end

/-! ### Trips -/

section
variable {s0 s : State} (h : SameGot s0 s)
include h

theorem got_latch (k cause source phase : Nat) : SameGot s0 (s.latch k cause source phase) := by
  have hone (u : State) (k c a b d : Nat) (hu : SameGot s0 u) : SameGot s0 (u.latchOne k c a b d) :=
    got_of_only hu (only_latchOne (ps := [.regs, .pwm, .gdl, .trp, .nt, .log, .acq]) u k c a b d (Only.refl _ u) (by decide) (by decide)
      (by decide) (by decide) (by decide) (by decide) (by decide))
  unfold State.latch
  refine got_ite h (got_ite h ?_)
  exact got_ite (got_forNums _ _ (fun t u hu => hone _ t 14 k 0 _ (got_of_only (l := [.free]) hu (only_draw (Only.refl _ u) (by decide))))
    (hone _ _ _ _ _ _ h)) (hone _ _ _ _ _ _ h)

theorem got_gdlTrip (k bit cause source phase : Nat) : SameGot s0 (s.gdlTrip k bit cause source phase) := by
  have hlog : Only [.regs, .log] s ((s.setFlag .gdlFault k bit).logFlag 11 bit ((s.setFlag .gdlFault k bit).reg .gdlFault k)) :=
    only_logFlag _ _ _ _ (Only.trans (l := [.regs]) (only_setReg _ _ _ _ (Only.refl _ s) (by decide)) (Only.refl _ _) (by decide)) (by decide) (by decide)
  exact got_ite h (got_latch (got_of_only h hlog) _ _ _ _)

theorem got_fltStanding (k : Nat) : SameGot s0 (s.fltStanding k) := got_ite (got_gdlTrip h _ _ _ _ _) h

theorem got_tripsStanding : SameGot s0 s.tripsStanding := by
  have hin (u : State) (i : Nat) (hu : SameGot s0 u) : SameGot s0 (u.tripInLatch i) :=
    got_ite (got_forNums _ _ (fun k v hv => got_latch hv _ _ _ _) hu) hu
  have hlands : SameGot s0 s.tripInsStanding := got_forNums _ _ (fun i u hu => hin u i hu) h
  unfold State.tripsStanding
  refine got_forNums _ _ (fun c u hu => ?_) (got_forNums _ _ (fun n u hu => got_gdlTrip hu _ _ _ _ _)
    (got_forNums _ _ (fun k u hu => got_fltStanding hu k) hlands))
  have hcmp := got_ite (c := (u.dec c).cmpActive && u.lv .trpCmpCfg c 0 1 0 = 1) (got_latch hu (u.cmpStack c) 0 c (u.cmpPhase c)) hu
  exact got_ite (got_latch hcmp _ _ _ _) hcmp

theorem got_ostAbort (k : Nat) : SameGot s0 (s.ostAbort k) := by
  have hended : SameGot s0 (s.modGs k fun g => { g with ost := .none }).ostComplete :=
    got_foldl _ _ (fun u x hu => got_of_twin hu (twin_complete _ _ _ _ _ (.refl u))) (s := _) h
  unfold State.ostAbort
  exact got_ite (got_fltStanding hended k) h

end

/-! ### The blocks at a commit -/

/-- The loop takes up a changed reference. -/
def State.refCommit (s : State) (ref : Bool) : State :=
  if !ref then s
  else match s.clk.st with
    | .acquire | .coasting => s.modClk fun c => c.unqualify s.refSel
    | _ => ((s.coast (s.clk.st ≠ .jumpWait)).clkEvent 0).modClk fun c => c.unqualify s.refSel

/-- Changed clock outputs restart, and with the links' output the links train. -/
def State.outsCommit (s : State) (outs : Nat) : State :=
  let s := if outs = 0 then s else s.modClk fun c => { c with strobe := c.strobe ||| BitVec.ofNat 8 outs, strobeAt := s.now }
  if outs.testBit 2 && s.linkMode then forNums ((List.range 16).filter s.configured) (fun k s => s.trainLink k) s else s

theorem clkCommit_eq (s : State) (ref : Bool) (outs : Nat) : s.clkCommit ref outs = (s.refCommit ref).outsCommit outs := rfl

section
variable {s0 s : State} (h : SameGot s0 s)
include h

theorem got_trainLink (k : Nat) : SameGot s0 (s.trainLink k) :=
  got_of_only (l := [.regs, .meas, .pwm, .gdl, .trp]) h (only_trainLink s k (Only.refl _ s) (by decide) (by decide) (by decide) (by decide) (by decide))

theorem got_coast (fresh : Bool) : SameGot s0 (s.coast fresh) := by
  have hmoved (f : ClkState → ClkState) : SameGot s0 (s.modClk f) := h
  unfold State.coast
  exact got_of_only (l := [.regs]) (got_foldl _ _ (fun u x hu => got_of_twin hu (twin_complete _ _ _ _ _ (.refl u))) (hmoved _))
    (only_count _ _ _ (Only.refl _ _) (by decide))

theorem got_refCommit (ref : Bool) : SameGot s0 (s.refCommit ref) := by
  have hevent (u : State) (hu : SameGot s0 u) : SameGot s0 (u.clkEvent 0) :=
    got_of_only (l := [.regs, .log]) hu (only_clkEvent u 0 (Only.refl _ u) (by decide) (by decide))
  unfold State.refCommit
  split
  · exact h
  · split
    · exact h
    · exact h
    · exact hevent _ (got_coast h _)

theorem got_outsCommit (outs : Nat) : SameGot s0 (s.outsCommit outs) :=
  have hstrobe := got_ite (c := outs = 0) h (t := s.modClk fun c => { c with strobe := c.strobe ||| BitVec.ofNat 8 outs, strobeAt := s.now }) h
  got_ite (got_forNums _ _ (fun k _ hu => got_trainLink hu k) hstrobe) hstrobe

theorem got_commitEngines : SameGot s0 s.commitEngines := by
  refine got_forNums _ _ (fun e u hu => got_ite hu (got_ite ?_ ?_)) h
  · exact got_of_only (l := [.eng]) hu (only_modEng _ _ (only_engineReset u e (Only.refl _ u) (by decide)) (by decide))
  · have hdrop : SameGot s0 (u.dropSporeWork e) := got_of_twin hu (twin_dropSporeWork e (.refl u))
    exact got_of_only (l := [.eng]) hdrop (only_modEng _ _ (Only.refl _ _) (by decide))

theorem got_commitStacks (old : RegFile) : SameGot s0 (s.commitStacks old) := by
  refine got_forNums _ _ (fun k u hu => ?_) h
  have hpath : SameGot s0 (((u.ostAbort k).modGs k fun g => { g with link := .down, dsr := .off }).trainTaken k) :=
    got_of_only (l := [.gdl, .regs]) (got_ostAbort hu k) (only_trainTaken _ _ (only_modGs _ _ (Only.refl _ _) (by decide)) (by decide))
  have hended : SameGot s0 ((((u.ostAbort k).modGs k fun g => { g with link := .down, dsr := .off }).trainTaken k).trainComplete) :=
    got_foldl _ _ (fun v x hv => got_of_twin hv (twin_complete _ _ _ _ _ (.refl v))) (s := _) hpath
  dsimp only
  generalize State.trainComplete _ = v at *
  have htaken (c : Prop) [Decidable c] : SameGot s0 (if c then v else u) := got_ite hended hu
  refine got_ite (got_trainLink (htaken _) k) (got_ite (got_fltStanding ?_ k) (htaken _))
  exact got_of_only (l := [.gdl, .trp]) (htaken _) (only_ringNext _ _ _ (Only.refl _ _) (by decide) (by decide))

theorem got_safUpdate : SameGot s0 s.safUpdate := by
  have hjudge : SameGot s0 s.safJudge := got_of_only h (only_safJudge_saf s)
  have hoff (u : State) (hu : SameGot s0 u) : SameGot s0 (u.turnOffAll false) := got_of_only (l := [.regs, .pwm, .gdl, .trp]) hu
    (only_turnOffAll u false (Only.refl _ u) (by decide) (by decide) (by decide) (by decide))
  have hidle (u : State) (hu : SameGot s0 u) : SameGot s0 (u.toIdle 4) := by
    have hstop : SameGot s0 (((u.enter .idle 4).enginesStop).dropStarts 3) :=
      got_of_twin hu (twin_dropStartsIf _ (twin_enginesStop (twin_enter _ _ (.refl u))))
    exact got_of_only (l := [.regs, .pwm, .gdl, .trp]) hstop (only_forceLows _ _ _ (Only.refl _ _) (by decide) (by decide) (by decide) (by decide))
  unfold State.safUpdate
  dsimp only
  generalize s.safJudge = u at *
  split
  · split
    · exact got_of_twin hjudge (twin_toStopping (.refl u) 4)
    · exact hoff _ (hidle _ hjudge)
    · exact hoff _ hjudge
  · exact got_ite (hoff _ hjudge) hjudge

theorem got_demandPair (k : Nat) (old new : Bool × Bool) : SameGot s0 (s.demandPair k old new) := by
  have hpair : SameGot s0 (s.modPair k (s.pairDemands k old new)) := h
  refine got_safUpdate (got_ite (got_of_only (l := [.regs, .saf, .nt, .log, .acq, .mgt]) hpair ?_) hpair)
  exact only_demandBegins _ _ (Only.refl _ _) (by decide) (by decide) (by decide) (by decide) (by decide) (by decide)

theorem got_safTakeSet : SameGot s0 s.safTakeSet := by
  unfold State.safTakeSet
  dsimp only
  refine got_forNums _ _ (fun k u hu => got_ite (got_demandPair hu _ _ _) (got_safUpdate (s := u.modPair k _) hu)) ?_
  exact got_ite h h

theorem got_applyStage (nt : DWord) : SameGot s0 (s.applyStage nt) := by
  have hlive : SameGot s0 { s with live := s.stg.stage } := h
  have himages : SameGot s0 (forNums (List.range 8) (fun e u => u.modEng e fun n => { n with image := vget u.stg.images e none })
      { s with live := s.stg.stage }) := got_forNums _ _ (fun e u hu => hu) hlive
  rw [applyStage_parted]
  have hblocks : SameGot s0 s.blocksCommitted := by
    unfold State.blocksCommitted
    dsimp only
    generalize forNums (List.range 8) _ _ = u at *
    have hdec : SameGot s0 (u.commitDec s.live) := got_of_only (l := [.regs, .meas]) himages (only_commitDec u _ (Only.refl _ u) (by decide) (by decide))
    generalize u.commitDec s.live = v at *
    have htb : SameGot s0 (forNums (List.range 16) (fun t s => s.tbCommit t) v) :=
      got_forNums _ _ (fun t w hw => got_of_only (l := [.pwm]) hw (only_tbCommit w t (Only.refl _ w) (by decide))) hdec
    rw [clkCommit_eq]
    exact got_tripsStanding (got_commitStacks (got_commitEngines (got_outsCommit (got_refCommit htb _) _)) _)
  have hends (u : State) (hu : SameGot s0 u) : SameGot s0 ((((u.modSec fun c =>
      { c with tamperCfg := (regGet u.live .secTamperCfg).setWidth 32 }).countWrap .stgCommitCnt).rhizomeCommit).modStg fun g =>
        { g with st := .clean, lastNt := nt, committed := true }) := hu
  exact hends _ (got_ite (got_safTakeSet hblocks) hblocks)

end

end Sys2Proof.Machine
end

section
/-! Resynchronisation of a standby: its start, its frames and its end (R445, R446, R448, Table TWN-6). -/

-- The proofs are elaborated one after the other: this bounds the threads of the compiler, whose stacks count as its memory.
set_option Elab.async false

namespace Sys2Proof.Machine

/-! ### TWN_RESYNC -/

/-- The item that leaves next has left. -/
def State.itemLeft (s : State) (x : Item) (rest : List Item) : State :=
  s.modTwn fun t => { t with outItems := rest, sentItems := t.sentItems ++ [x], sent := x.bytes :: t.sent, bytes := t.bytes + x.bytes.length }

theorem sendItems_none {s : State} (h : s.twn.outItems = []) (n : Nat) : State.sendItems (n + 1) s = s := by
  rw [State.sendItems, h]

theorem sendItems_next {s : State} {x : Item} {rest : List Item} (h : s.twn.outItems = x :: rest) (n : Nat) : State.sendItems (n + 1) s =
    if s.twn.bytes + s.frameRoom + x.bytes.length ≤ 8192 then State.sendItems n (s.itemLeft x rest) else s := by
  rw [State.sendItems, h]
  rfl

/-- Items leave in order: what was to go stands among those that wait and those that have gone. -/
theorem sendItems_kept (n : Nat) (s : State) : (State.sendItems n s).twn.itemNo = s.twn.itemNo ∧
    ∀ i ∈ s.twn.outItems ++ s.twn.sentItems, i ∈ (State.sendItems n s).twn.outItems ++ (State.sendItems n s).twn.sentItems := by
  induction n generalizing s with
  | zero => exact ⟨rfl, fun _ hi => hi⟩
  | succ n ih =>
    obtain hout | ⟨x, rest, hout⟩ : s.twn.outItems = [] ∨ ∃ x rest, s.twn.outItems = x :: rest := by
      cases s.twn.outItems with
      | nil => exact .inl rfl
      | cons x rest => exact .inr ⟨x, rest, rfl⟩
    · rw [sendItems_none hout]
      exact ⟨rfl, fun _ hi => hi⟩
    · rw [sendItems_next hout]
      split
      · obtain ⟨hno, hmem⟩ := ih (s.itemLeft x rest)
        have hgone : ∀ i ∈ s.twn.outItems ++ s.twn.sentItems, i ∈ rest ++ (s.twn.sentItems ++ [x]) := by
          intro i hi
          simp only [hout, List.cons_append, List.mem_cons, List.mem_append, List.not_mem_nil, or_false] at hi ⊢
          exact hi.elim (fun h => .inr (.inr h)) (Or.imp_right .inl)
        exact ⟨hno, fun i hi => hmem i (hgone i hi)⟩
      · exact ⟨rfl, fun _ hi => hi⟩

/-- An item of its own number joins those that wait. -/
def State.itemAdded (s : State) (c : Src) (op : Nat) (p : Bytes) (take : DWord) : State :=
  s.modTwn fun t => { t with
    itemNo := t.itemNo + 1, outItems := t.outItems ++ [{ no := t.itemNo + 1, opcode := op, src := c, payload := p, takeIdx := take }] }

section
variable {s : State} {c : Src}

/-- The item by which an ACTIVE module hands a command to its twin (R439). -/
theorem mirror_leading (h : s.leads = true) (op : Nat) (p : Bytes) (take : DWord) : (s.mirror c op p take).twn.itemNo = s.twn.itemNo + 1 ∧
    ∃ i ∈ (s.mirror c op p take).twn.outItems ++ (s.mirror c op p take).twn.sentItems, i.opcode = op ∧ i.src = c ∧ i.no = s.twn.itemNo + 1 := by
  obtain ⟨take', hsent⟩ : ∃ take', s.mirror c op p take = State.sendItems (s.itemAdded c op p take').twn.outItems.length (s.itemAdded c op p take') :=
    ⟨_, if_pos h⟩
  have hitem : ({ no := s.twn.itemNo + 1, opcode := op, src := c, payload := p, takeIdx := take' } : Item) ∈
      (s.itemAdded c op p take').twn.outItems ++ (s.itemAdded c op p take').twn.sentItems :=
    List.mem_append_left _ (List.mem_append_right _ (List.mem_cons_self ..))
  have hnumber : (s.itemAdded c op p take').twn.itemNo = s.twn.itemNo + 1 := rfl
  rw [hsent]
  generalize s.itemAdded c op p take' = u at *
  obtain ⟨hno, hmem⟩ := sendItems_kept u.twn.outItems.length u
  exact ⟨hno.trans hnumber, _, hmem _ hitem, rfl, rfl, rfl⟩

theorem twnResync_refused {d : Nat} (h : s.pair = false ∧ d = 1 ∨ s.pair = true ∧ s.twn.role = true ∧ s.twn.link ≠ .up ∧ d = 3) :
    s.twnResync c = s.refuse c 0x0501 .error d := by
  rcases h with ⟨hpair, rfl⟩ | ⟨hpair, hrole, hlink, rfl⟩
  · exact if_pos (by simp [hpair])
  · exact (if_neg (by simp [hpair])).trans ((if_pos hrole).trans (if_pos hlink))

section
variable (hpair : s.pair = true)
include hpair

theorem twnResync_active (hrole : s.twn.role = true) (hlink : s.twn.link = .up) :
    s.twnResync c = (s.mirror c 0x0501 [] 0).modTwn fun t => { t with resyncCmd := t.resyncCmd ++ [(c, s.now)] } :=
  (if_neg (by simp [hpair])).trans ((if_pos hrole).trans (if_neg (by simp [hlink])))

theorem twnResync_standby (hrole : s.twn.role = false) :
    s.twnResync c = s.resyncStart.modTwn fun t => { t with resyncCmd := t.resyncCmd ++ [(c, s.now)] } :=
  (if_neg (by simp [hpair])).trans (if_neg (by simp [hrole]))

end

/-! ### Its end -/

/-- One TWN_RESYNC that waits ends well. -/
theorem resyncEnd_done {x : Src × Nat} (h : s.twn.resyncCmd = [x]) :
    s.resyncEnd (fun _ => true) none = (s.modTwn fun t => { t with resyncCmd := [] }).done x.1 0x0501 ((s.now - x.2) / 32000000) := by
  have hnone : (s.modTwn fun t => { t with resyncCmd := t.resyncCmd.filter fun x => !(fun _ => true) x }) = s.modTwn fun t => { t with resyncCmd := [] } := by
    simp [State.modTwn, h]
  rw [State.resyncEnd, hnone, h]
  rfl

/-- The standby is READY. -/
def State.resynced (s : State) : State :=
  s.modTwn fun t => { t with ready := true, resync := false, digErr := false, twinLate := false, recs := [] }

theorem execResyncComplete_ready (h : s.resyncReady = true) : execResyncComplete s = .next (s.resynced.resyncEnd (fun _ => true) none) := if_pos h

/-! ### RESYNC frames -/

theorem execResyncFrameReceive_stays (x : ResyncItem) (h : s.pair = false ∨ s.twn.role = true ∨ s.twn.resync = false ∨ s.twn.link ≠ .up) :
    execResyncFrameReceive ⟨x, true⟩ s = .next s := by
  unfold execResyncFrameReceive
  split
  · rfl
  · next hlink =>
    simp only [Bool.or_eq_true, Bool.not_eq_true', bne_iff_ne, not_or, Bool.not_eq_false, not_not] at hlink
    exact (if_neg (by simp)).trans (if_neg (by rcases h with h | h | h | h <;> simp [h] <;> simp [hlink] at h))

theorem execResyncFrameReceive_off (f : ResyncFrame) (h : s.pair = false ∨ s.twn.link ≠ .up) : execResyncFrameReceive f s = .next s :=
  if_pos (by rcases h with h | h <;> simp [h])

theorem execResyncFrameReceive_bad (x : ResyncItem) (hpair : s.pair = true) (hlink : s.twn.link = .up) :
    execResyncFrameReceive ⟨x, false⟩ s = .next (s.count .twnFrameErrCnt) := (if_neg (by simp [hpair, hlink])).trans (if_pos rfl)

theorem execResyncFrameReceive_takes (x : ResyncItem) (hpair : s.pair = true) (hrole : s.twn.role = false) (hresync : s.twn.resync = true)
    (hlink : s.twn.link = .up) : execResyncFrameReceive ⟨x, true⟩ s = .next (s.resyncItem x) :=
  (if_neg (by simp [hpair, hlink])).trans ((if_neg (by simp)).trans (if_pos (by simp [hrole, hresync])))

/-! ### What a frame brings -/

theorem setLastSeq_rep (s : State) (r : Fin 129) (v : DWord) : (s.setLastSeq r v).rep r = { s.rep r with lastSeq := v } ∧
    Only [.regs, .sec] s (s.setLastSeq r v) := by
  have hsame := rep_modRep_same r.isLt s fun x => { x with lastSeq := v }
  refine ⟨?_, only_setLastSeq _ _ _ (Only.refl _ s) (by decide) (by decide)⟩
  unfold State.setLastSeq
  dsimp only
  generalize s.modRep r.val _ = w at *
  split
  · exact hsame
  · exact hsame

theorem resyncItem_replay (r : Fin 129) (seq : DWord) : Only [.sec, .regs] s (s.resyncItem (.replay r seq)) ∧
    (s.resyncItem (.replay r seq)).rep r = { s.rep r with lastSeq := dmax (s.rep r).lastSeq seq, floorUnset := false } := by
  have hsame := rep_modRep_same r.isLt s fun x => { x with floorUnset := false }
  have honly : Only [.sec] s (s.modRep r fun x => { x with floorUnset := false }) := only_modRep _ _ (Only.refl _ s) (by decide)
  have heq : s.resyncItem (.replay r seq) = (s.modRep r fun x => { x with floorUnset := false }).setLastSeq r (dmax (s.rep r).lastSeq seq) := rfl
  rw [heq]
  generalize (s.modRep r fun x => { x with floorUnset := false }) = u at *
  obtain ⟨hrep, hset⟩ := setLastSeq_rep u r (dmax (s.rep r).lastSeq seq)
  exact ⟨honly.trans (hset.mono (by decide)) (by decide), by rw [hrep, hsame]⟩

theorem resyncItem_grant (r : Fin 129) (plant : Bool) (anchor : BitVec 4) (p : Bytes) : Only [.sec, .cmd, .regs] s (s.resyncItem (.grant r plant anchor p)) ∧
    (∃ g : PendGrant, (s.resyncItem (.grant r plant anchor p)).sec.grants = s.sec.grants ++ [g] ∧ g.ring = r ∧ g.plant = plant ∧
      g.grantor = anchor.toNat ∧ g.payload = p ∧ g.no = s.cmd.nextNo) ∧
    (s.resyncItem (.grant r plant anchor p)).rep r = if plant then s.rep r else { s.rep r with epoch := BitVec.ofNat 32 (pf p 4 4), floorUnset := false } := by
  obtain ⟨u, hu, honly, hrep, hgrants⟩ : ∃ u : State, s.resyncItem (.grant r plant anchor p) =
      u.grantQueue { src := { noSrc with ring := r }, plant := plant, ring := r, payload := p, grantor := anchor.toNat } ∧ Only [.sec] s u ∧
      u.rep r = (if plant then s.rep r else { s.rep r with epoch := BitVec.ofNat 32 (pf p 4 4), floorUnset := false }) ∧
      u.sec.grants = s.sec.grants := by
    refine ⟨_, rfl, only_ite (Only.refl _ s) (only_modRep _ _ (Only.refl _ s) (by decide)), ?_, ?_⟩
    · cases plant with
      | true => rfl
      | false => exact rep_modRep_same r.isLt s fun x => { x with epoch := BitVec.ofNat 32 (pf p 4 4), floorUnset := false }
    · cases plant <;> rfl
  rw [hu]
  obtain ⟨hlast, -, hreplay, -, hq⟩ :=
    grantQueue_effect u { src := { noSrc with ring := r }, plant := plant, ring := r, payload := p, grantor := anchor.toNat }
  refine ⟨(honly.mono (by decide)).trans hq fun _ hp => hp, ⟨_, by rw [hlast, hgrants], rfl, rfl, rfl, rfl, congrArg CmdState.nextNo honly.keeps_cmd⟩, ?_⟩
  rw [← hrep, State.rep, hreplay, State.rep]

theorem resyncItem_config (regs : List (Nat × DWord)) : (s.resyncItem (.config regs)).live = (if s.ops.st = .armed ∨ s.ops.st = .running then
      safSet.foldl (fun f r => regSet f r.1 r.2 0 (regGet s.live r.1 r.2)) (stageOf regs) else stageOf regs) ∧
    (s.resyncItem (.config regs)).twn.resyncGot = s.twn.resyncGot ||| 1 ∧ (s.resyncItem (.config regs)).stg.st = .clean := by
  obtain ⟨f, hf, heq⟩ : ∃ f, f = (if s.ops.st = .armed ∨ s.ops.st = .running then
      safSet.foldl (fun f r => regSet f r.1 r.2 0 (regGet s.live r.1 r.2)) (stageOf regs) else stageOf regs) ∧
      s.resyncItem (.config regs) = ((s.modStg fun g => { g with stage := f }).applyStage s.nt64).modTwn fun t => { t with resyncGot := t.resyncGot ||| 1 } := by
    refine ⟨_, ?_, rfl⟩
    simp only [Bool.or_eq_true, decide_eq_true_eq]
  rw [heq, ← hf]
  obtain ⟨hlive, hstg⟩ := applyStage_live_stg (s.modStg fun g => { g with stage := f }) s.nt64
  have hgot : ((s.modStg fun g => { g with stage := f }).applyStage s.nt64).twn.resyncGot = s.twn.resyncGot :=
    got_applyStage (s0 := s) (s := s.modStg fun g => { g with stage := f }) rfl s.nt64
  generalize State.applyStage _ _ = u at *
  refine ⟨hlive, ?_, by show u.stg.st = .clean; rw [hstg]⟩
  show u.twn.resyncGot ||| 1 = _
  rw [hgot]

/-- The snapshot as an engine takes it over. -/
def Engine.snapped (n : Engine) (x : EngineSnap) : Engine :=
  { n with
    armReset := false, firstRun := false, idx := x.idx, signals := x.signals, bst := x.bst, started := false, bankB := x.bankB
    crossPub := Vector.ofFn fun (i : Fin 16) => lget x.cross i.val 0, crossWork := Vector.ofFn fun (i : Fin 16) => lget x.cross i.val 0
    brkCmd := x.brkCmd, fade := x.fade, prf := Vector.ofFn fun (i : Fin 8) => lget x.prf i.val {}, gfm := x.gfm, swaps := [] }

theorem refreshWork_engN (s : State) {e : Nat} (he : e < 8) : ∃ w, (s.refreshWork e).engN e = { s.engN e with work := w } := by
  unfold State.refreshWork
  split
  · split
    · exact ⟨_, rfl⟩
    · exact ⟨_, State.engN_modEng_same _ _ _ he⟩
  · exact ⟨_, State.engN_modEng_same _ _ _ he⟩

/-- What a snapshot ends with, after the periods that it replays. -/
def State.snapEnds (s : State) (e : Nat) (x : EngineSnap) (wait : List SwapReq) (recs : List PeriodRec) : State :=
  let s := s.modEng e fun m => { m with idx := if recs = [] then x.idx else m.idx, swaps := wait }
  s.modTwn fun t => { t with
    recs := t.recs.filter fun r => r.e != e, snapGot := t.snapGot ||| BitVec.ofNat 8 (2 ^ e), loadIdx := (s.engN s.refEng).idx }

/-- With no period recorded a snapshot is loaded as it is. -/
theorem loadSnap_alone {e : Nat} (x : EngineSnap) {img : Image} (himg : (s.engN e).image = some img) (hrecs : s.twn.recs = []) :
    s.loadSnap e x = ((s.modEng e fun n => n.snapped x).refreshWork e).snapEnds e x (s.engN e).swaps [] := by
  obtain ⟨u, recs, hrecs', heq⟩ : ∃ (u : State) (recs : List PeriodRec), recs = u.twn.recs.filter (fun r => r.e = e && decide (x.idx < r.idx)) ∧
      u = (s.modEng e fun n => n.snapped x).refreshWork e ∧
      s.loadSnap e x = (recs.foldl (fun s r => s.replayOne e img r) u).snapEnds e x (s.engN e).swaps recs := by
    refine ⟨_, _, rfl, rfl, ?_⟩
    rw [State.loadSnap, himg]
    rfl
  obtain ⟨hu, heq⟩ := heq
  have honly : Only [.eng] s u := by
    rw [hu]
    exact only_refreshWork _ _ (only_modEng _ _ (Only.refl _ s) (by decide)) (by decide)
  have hnone : recs = [] := by rw [hrecs', honly.keeps_twn, hrecs]; rfl
  rw [heq, hnone, hu]
  rfl

theorem resyncItem_snapshot {e : Fin 8} (snap : EngineSnap) {img : Image} (himg : (s.engN e).image = some img) (hrecs : s.twn.recs = []) :
    ((s.resyncItem (.snapshot e snap)).engN e).idx = snap.idx ∧ ((s.resyncItem (.snapshot e snap)).engN e).signals = snap.signals ∧
    ((s.resyncItem (.snapshot e snap)).engN e).bst = snap.bst ∧ ((s.resyncItem (.snapshot e snap)).engN e).bankB = snap.bankB ∧
    ((s.resyncItem (.snapshot e snap)).engN e).gfm = snap.gfm ∧ (s.resyncItem (.snapshot e snap)).twn.snapGot.getLsbD e = true := by
  have heq : s.resyncItem (.snapshot e snap) = _ := loadSnap_alone snap himg hrecs
  have hsnap := State.engN_modEng_same s e (fun n => n.snapped snap) e.isLt
  obtain ⟨w, hw⟩ := refreshWork_engN (s.modEng e fun n => n.snapped snap) e.isLt
  rw [hsnap] at hw
  rw [heq]
  generalize (s.modEng e fun n => n.snapped snap).refreshWork e = u at *
  have hends : ((u.snapEnds e snap (s.engN e).swaps []).engN e) = { u.engN e with idx := snap.idx, swaps := (s.engN e).swaps } :=
    State.engN_modEng_same u e (fun m => { m with idx := snap.idx, swaps := (s.engN e).swaps }) e.isLt
  rw [hends, hw]
  refine ⟨rfl, rfl, rfl, rfl, rfl, ?_⟩
  show (u.twn.snapGot ||| BitVec.ofNat 8 (2 ^ e.val)).getLsbD e = true
  rw [BitVec.getLsbD_or, BitVec.getLsbD_ofNat, Nat.testBit_two_pow_self]
  simp [e.isLt]

end

end Sys2Proof.Machine
end

section
/-! The statements about resynchronisation (R445, R446, R448, Table TWN-6). -/

-- The proofs are elaborated one after the other: this bounds the threads of the compiler, whose stacks count as its memory.
set_option Elab.async false

namespace Sys2Proof.Machine

theorem resyncItem_periodIdx (s : State) (e : Fin 8) (idx : DWord) :
    (s.resyncItem (.periodIdx e idx)).engN e = (if s.executes e then s.engN e else { s.engN e with idx := idx }) ∧
    (s.resyncItem (.periodIdx e idx)).twn.resyncGot = (if e.val = s.refEng then s.twn.resyncGot ||| 4 else s.twn.resyncGot) ∧
    Only [.eng, .twn] s (s.resyncItem (.periodIdx e idx)) := by
  obtain ⟨u, hu, honly, heng, href⟩ : ∃ u : State, s.resyncItem (.periodIdx e idx) =
      (if e.val = u.refEng then u.modTwn fun t => { t with resyncGot := t.resyncGot ||| 4 } else u) ∧ Only [.eng] s u ∧
      u.engN e = (if s.executes e then s.engN e else { s.engN e with idx := idx }) ∧ u.refEng = s.refEng := by
    refine ⟨_, rfl, only_ite (Only.refl _ s) (only_modEng _ _ (Only.refl _ s) (by decide)), ?_, ?_⟩
    · split
      · rfl
      · exact State.engN_modEng_same s e (fun n => { n with idx := idx }) e.isLt
    · split <;> rfl
  have htwn := honly.keeps_twn
  rw [hu, href, ← htwn]
  split
  · exact ⟨heng, rfl, only_modTwn _ (honly.mono (by decide)) (by decide)⟩
  · exact ⟨heng, rfl, honly.mono (by decide)⟩

theorem resyncItem_opState {s u : State} {code : BitVec 4} (h : s.followState code.toNat = u) :
    s.resyncItem (.opState code) = u.modTwn fun t => { t with resyncGot := t.resyncGot ||| 2 } := by rw [State.resyncItem, h]

/-- A standby in IDLE follows its twin to ARMED. -/
theorem followState_arms {s : State} (hst : s.ops.st = .idle) : s.followState 4 = (s.enter .armed 0x10).enginesStart := by
  have hcode : ¬ 4 = s.ops.st.code := by rw [hst]; decide
  unfold State.followState
  rw [if_neg hcode]
  generalize s.ops.st = x at hst ⊢
  subst hst
  simp only

theorem execTwnResyncTimeout_waits {s : State} {x : Src × Nat} (hone : s.twn.resyncCmd = [x]) : ∃ n, n = x.2 + 320000000000 ∧
    execTwnResyncTimeout s = .next ((s.advanceTo n).resyncEnd (fun y => sameSrc y.1 x.1) (some 2)) := by
  refine ⟨_, rfl, ?_⟩
  simp only [execTwnResyncTimeout, hone]

/-- One TWN_RESYNC that has waited too long ends with an error, and the standby goes on. -/
theorem resyncEnd_timed {s : State} {x : Src × Nat} (hs : s.storesCanonical) (hone : s.twn.resyncCmd = [x]) (n : Nat) :
    ((s.advanceTo n).resyncEnd (fun y => sameSrc y.1 x.1) (some 2)).twn.resyncCmd = [] ∧
    ((s.advanceTo n).resyncEnd (fun y => sameSrc y.1 x.1) (some 2)).twn.resync = s.twn.resync ∧
    n ≤ ((s.advanceTo n).resyncEnd (fun y => sameSrc y.1 x.1) (some 2)).now ∧
    Answered x.1 0x0501 .error 2 0 s ((s.advanceTo n).resyncEnd (fun y => sameSrc y.1 x.1) (some 2)) := by
  have hnow := le_now_advanceTo s n
  have honly := only_advanceTo_time s n
  generalize s.advanceTo n = t at *
  have hone' : t.twn.resyncCmd = [x] := by rw [honly.keeps_twn, hone]
  have hend := resyncEnd_one hone' (which := fun y => sameSrc y.1 x.1) (by simp [sameSrc]) 2
  rw [hend]
  have hdesk : SameDesk s t := .of_only honly
  have hdesk' : SameDesk s (t.modTwn fun t => { t with resyncCmd := [] }) := hdesk.trans ⟨rfl, rfl, ⟨rfl, rfl⟩, rfl, rfl, fun _ => rfl, fun _ => rfl⟩
  have hfields : (t.modTwn fun t => { t with resyncCmd := [] }).twn.resyncCmd = [] ∧
    (t.modTwn fun t => { t with resyncCmd := [] }).twn.resync = s.twn.resync ∧ (t.modTwn fun t => { t with resyncCmd := [] }).now = t.now :=
    ⟨rfl, (rfl : _ = t.twn.resync).trans (congrArg TwnState.resync honly.keeps_twn), rfl⟩
  generalize (t.modTwn fun t => { t with resyncCmd := [] }) = u at *
  obtain ⟨hc, hr, hn⟩ := hfields
  obtain ⟨hcmd, hresync, -⟩ := (twin_complete x.1 0x0501 .error 2 0 (.refl u)).resync
  refine ⟨hcmd.trans hc, hresync.trans hr, ?_, State.complete_answers x.1 0x0501 .error 2 0 hs hdesk'⟩
  have hkept : (u.refuse x.1 0x0501 .error 2).now = u.now := by simp
  rw [hkept, hn]
  exact hnow

/-- Settles O56, by how a TWN_RESYNC begins and ends, and by what each item of a resynchronisation brings. -/
theorem standbysResynchronise : Obligations.StandbysResynchronise := by
  refine ⟨?refused, ?active, ?standby, ?late, ?none, ?ready, ?done, ?notReady, ?stays, ?off, ?bad, ?image, ?config, ?spore, ?grant, ?replay,
    ?state, ?arms, ?idx, ?snap, ?noImage⟩
  case refused =>
    intro c d s hs hadm h
    have hfields : (s.took c).pair = s.pair ∧ (s.took c).twn = s.twn := ⟨pair_congr (by simp), by simp⟩
    refine ⟨_, congrArg Host.Outcome.next ((obey_of_admits hadm _).trans (twnResync_refused (by rw [hfields.1, hfields.2]; exact h))), ?_⟩
    obtain ⟨hcmd, hresync, -⟩ := (twin_complete c 0x0501 .error d 0 (.refl (s.took c))).resync
    exact ⟨by rw [← hfields.2]; exact hresync, by rw [← hfields.2]; exact hcmd, answered_refuse hs (.refl _)⟩
  case active =>
    intro c s hadm hpair hrole hlink
    have hfields : (s.took c).pair = s.pair ∧ (s.took c).twn = s.twn ∧ (s.took c).now = s.now := ⟨pair_congr (by simp), by simp, by simp⟩
    have htook : Only [.cmd, .mgt] s (s.took c) := only_took_cmd s c
    have hact := obey_of_admits hadm fun s => s.twnResync c
    generalize s.took c = t at *
    obtain ⟨hp, ht, hn⟩ := hfields
    rw [← ht] at hrole hlink
    rw [← hp] at hpair
    refine ⟨_, congrArg Host.Outcome.next (hact.trans (twnResync_active hpair hrole hlink)), ?_⟩
    obtain ⟨hno, i, hmem, hop, hsrc, hnum⟩ := mirror_leading (s := t) (c := c) (by simp [State.leads, hpair, hrole]) 0x0501 [] 0
    have hcmd := (twin_mirror c 0x0501 [] 0 (.refl t)).resync.1
    have honly := only_mirror_twn t c 0x0501 [] 0
    generalize t.mirror c 0x0501 [] 0 = u at *
    refine ⟨?_, by rw [← ht]; exact hno, ⟨i, hmem, hop, hsrc, by rw [← ht]; exact hnum⟩, ?_⟩
    · show u.twn.resyncCmd ++ [(c, t.now)] = _
      rw [hcmd, ht, hn]
    · exact only_modTwn _ (htook.trans (honly.mono (by decide)) (by decide)) (by decide)
  case standby =>
    intro c s hs hadm hpair hrole
    have hfields : (s.took c).pair = s.pair ∧ (s.took c).twn = s.twn ∧ (s.took c).now = s.now := ⟨pair_congr (by simp), by simp, by simp⟩
    have htook : Only [.cmd, .mgt] s (s.took c) := only_took_cmd s c
    have hcount := counted_of_regs (t := s.took c) hs htook.keeps_regs .twnResyncCnt 0
    have hact := obey_of_admits hadm fun s => s.twnResync c
    generalize s.took c = t at *
    obtain ⟨hp, ht, hn⟩ := hfields
    rw [← ht] at hrole
    rw [← hp] at hpair
    refine ⟨_, congrArg Host.Outcome.next (hact.trans (twnResync_standby hpair hrole)), ?_, rfl, rfl, rfl, rfl, rfl, ?_, hcount⟩
    · show t.twn.resyncCmd ++ [(c, t.now)] = _
      rw [ht, hn]
    · exact only_modTwn _ (only_modTwn _ (only_count _ _ _ (htook.mono (by decide)) (by decide)) (by decide)) (by decide)
  case late =>
    intro x s hs hone
    obtain ⟨n, hn, hexec⟩ := execTwnResyncTimeout_waits hone
    obtain ⟨hcmd, hresync, hnow, hanswered⟩ := resyncEnd_timed hs hone n
    exact ⟨_, hexec, hcmd, hresync, by rw [← hn]; exact hnow, hanswered⟩
  case none =>
    intro s hnone
    show execTwnResyncTimeout s = _
    rw [execTwnResyncTimeout, hnone]
  case ready =>
    intro s hready hnone
    have hend := resyncEnd_none (s := s.resynced) hnone (fun _ => true) none
    exact ⟨_, (execResyncComplete_ready hready).trans (congrArg Host.Outcome.next hend), rfl, only_modTwn _ (Only.refl _ s) (by decide)⟩
  case done =>
    intro x s hs hready hone
    have hend := resyncEnd_done (s := s.resynced) hone
    refine ⟨_, (execResyncComplete_ready hready).trans (congrArg Host.Outcome.next hend), ?_⟩
    have hdesk : SameDesk s (s.resynced.modTwn fun t => { t with resyncCmd := [] }) := ⟨rfl, rfl, ⟨rfl, rfl⟩, rfl, rfl, fun _ => rfl, fun _ => rfl⟩
    have hfields : (s.resynced.modTwn fun t => { t with resyncCmd := [] }).twn.ready = true ∧
      (s.resynced.modTwn fun t => { t with resyncCmd := [] }).twn.resync = false ∧
      (s.resynced.modTwn fun t => { t with resyncCmd := [] }).twn.resyncCmd = [] ∧
      (s.resynced.modTwn fun t => { t with resyncCmd := [] }).nt64 = s.nt64 := ⟨rfl, rfl, rfl, rfl⟩
    have hnow : s.resynced.now = s.now := rfl
    rw [hnow]
    generalize s.resynced.modTwn (fun t => { t with resyncCmd := [] }) = u at *
    obtain ⟨hr, hrs, hc, hnt⟩ := hfields
    obtain ⟨hcmd, hresync, hrdy⟩ := (twin_complete x.1 0x0501 .ok ((s.now - x.2) / 32000000) u.nt64 (.refl u)).resync
    refine ⟨hrdy.trans hr, hresync.trans hrs, hcmd.trans hc, ?_⟩
    rw [← hnt]
    exact State.complete_answers x.1 0x0501 .ok _ _ hs hdesk
  case notReady =>
    intro s h
    exact if_neg (by simp [h])
  case stays =>
    intro x s h
    exact execResyncFrameReceive_stays x h
  case off =>
    intro x s h
    exact execResyncFrameReceive_off _ h
  case bad =>
    intro x s hs hpair hlink
    exact ⟨_, execResyncFrameReceive_bad x hpair hlink, counts_count hs _ _⟩
  case image =>
    intro e bytes s hpair hrole hresync hlink
    have hitem := execResyncFrameReceive_takes (.image e bytes) hpair hrole hresync hlink
    cases himg : s.imageCheck bytes bytes.length with
    | ok img =>
      have heq : s.resyncItem (.image e bytes) = s.modStg fun g => { g with images := vset g.images e (some img) } := by rw [State.resyncItem, himg]
      exact ⟨_, hitem.trans (congrArg Host.Outcome.next heq), only_modStg _ (Only.refl _ s) (by decide), rfl⟩
    | error x =>
      have heq : s.resyncItem (.image e bytes) = s := by rw [State.resyncItem, himg]
      exact ⟨_, hitem.trans (congrArg Host.Outcome.next heq), Only.refl _ s, rfl⟩
  case config =>
    intro regs s hpair hrole hresync hlink
    exact ⟨_, execResyncFrameReceive_takes (.config regs) hpair hrole hresync hlink, resyncItem_config regs⟩
  case spore =>
    intro slot action lateOk instant args s hpair hrole hresync hlink
    exact ⟨_, execResyncFrameReceive_takes (.spore slot action lateOk instant args) hpair hrole hresync hlink,
      only_modNt _ (Only.refl _ s) (by decide), _, rfl, rfl, rfl, rfl, rfl, rfl⟩
  case grant =>
    intro r plant anchor p s hpair hrole hresync hlink
    exact ⟨_, execResyncFrameReceive_takes (.grant r plant anchor p) hpair hrole hresync hlink, resyncItem_grant r plant anchor p⟩
  case replay =>
    intro r seq s hpair hrole hresync hlink
    exact ⟨_, execResyncFrameReceive_takes (.replay r seq) hpair hrole hresync hlink, resyncItem_replay r seq⟩
  case state =>
    intro code s hpair hrole hresync hlink hcode
    have hsame : s.followState code.toNat = s := if_pos hcode
    have heq := resyncItem_opState hsame
    exact ⟨_, (execResyncFrameReceive_takes (.opState code) hpair hrole hresync hlink).trans (congrArg Host.Outcome.next heq), rfl,
      only_modTwn _ (Only.refl _ s) (by decide)⟩
  case arms =>
    intro s hpair hrole hresync hlink hst
    have hfollow (n : Nat) (hn : n = 4) : s.followState n = (s.enter .armed 0x10).enginesStart := by
      rw [hn, followState_arms hst]
    have hrecv := execResyncFrameReceive_takes (.opState 4) hpair hrole hresync hlink
    rw [resyncItem_opState (hfollow _ rfl)] at hrecv
    refine ⟨_, hrecv, ?_⟩
    clear hrecv
    have hgot := got_of_twin (.refl s) (twin_enter .armed 0x10 (.refl s))
    have hops := enter_ops s .armed 0x10
    generalize s.enter .armed 0x10 = u at *
    have honly : Only [.eng, .pwm] u u.enginesStart := only_enginesStart u (Only.refl _ u) (by decide) (by decide)
    generalize u.enginesStart = v at *
    refine ⟨by show v.ops.st = _; rw [honly.keeps_ops, hops], by show v.ops.cause = _; rw [honly.keeps_ops, hops], ?_⟩
    show v.twn.resyncGot ||| 2 = _
    rw [honly.keeps_twn]
    exact congrArg (· ||| 2) hgot
  case idx =>
    intro e idx s hpair hrole hresync hlink
    exact ⟨_, execResyncFrameReceive_takes (.periodIdx e idx) hpair hrole hresync hlink, resyncItem_periodIdx s e idx⟩
  case snap =>
    intro e snap s hpair hrole hresync hlink himg hrecs
    obtain ⟨img, himg⟩ := Option.ne_none_iff_exists'.mp himg
    exact ⟨_, execResyncFrameReceive_takes (.snapshot e snap) hpair hrole hresync hlink, resyncItem_snapshot snap himg hrecs⟩
  case noImage =>
    intro e snap s himg
    have heq : s.resyncItem (.snapshot e snap) = s := by
      show s.loadSnap e snap = s
      rw [State.loadSnap, himg]
    show execResyncFrameReceive _ s = _
    unfold execResyncFrameReceive
    rw [heq]
    simp

end Sys2Proof.Machine
end

section
/-! Scheduled actions at their tick, and the records that they leave (R189, R298 to R301, Table NT-4). -/

-- The proofs are elaborated one after the other: this bounds the threads of the compiler, whose stacks count as its memory.
set_option Elab.async false

namespace Sys2Proof.Machine

/-! ### What a trigger makes of network time -/

/-- Network time is the same but for the plant trigger events that wait. -/
def EventsOnly (s t : State) : Prop := ∃ ev, t.nt = { s.nt with events := ev }

section
variable {s t u : State}

theorem EventsOnly.refl (s : State) : EventsOnly s s := ⟨_, rfl⟩

theorem EventsOnly.of_nt (h : t.nt = s.nt) : EventsOnly s t := ⟨s.nt.events, h⟩

theorem EventsOnly.trans (h : EventsOnly s t) (h' : EventsOnly t u) : EventsOnly s u := by
  obtain ⟨e, h⟩ := h
  obtain ⟨e', h'⟩ := h'
  exact ⟨e', by rw [h', h]⟩

/-- The clock, the records and the batches are no events. -/
theorem EventsOnly.fields (h : EventsOnly s t) : t.ntFine = s.ntFine ∧ t.nt.recs = s.nt.recs ∧ t.nt.batches = s.nt.batches := by
  obtain ⟨e, h⟩ := h
  simp only [State.ntFine, State.nt64, h, and_self]

theorem eventsOnly_ptmAsk (s : State) (cause : Nat) (nt : DWord) (detail : Nat) (asked : Bool) :
    EventsOnly s (s.ptmAsk cause nt detail asked) := by
  unfold State.ptmAsk
  split
  · split
    · exact .of_nt rfl
    · exact ⟨_, rfl⟩
  · exact .refl s

theorem eventsOnly_acqTrig (s : State) (u bit : Nat) (nt : DWord) (detail : Nat) : EventsOnly s (s.acqTrig u bit nt detail) := by
  unfold State.acqTrig
  dsimp only
  split
  · split
    · exact .of_nt rfl
    · exact EventsOnly.trans (.of_nt rfl) (eventsOnly_ptmAsk _ 4 nt 0 false)
  · split
    · exact .of_nt rfl
    · exact .of_nt rfl

theorem eventsOnly_acqTrigMask (s : State) (mask bit : Nat) (nt : DWord) (detail : Nat) : EventsOnly s (s.acqTrigMask mask bit nt detail) :=
  holds_forNums (P := EventsOnly s) _ (fun k _ u hu => hu.trans (eventsOnly_acqTrig u k bit nt detail)) (.refl s)

end

/-! ### The tick -/

section
variable {s : State}

/-- The tick E of the oldest batch, which is taken out. -/
def State.batchAt (s : State) (rest : List (List DueSlot)) : State :=
  (s.advanceTo ((s.now + 31) / 32 * 32)).modNt fun n => { n with batches := rest }

theorem execSporeExecute_batch (hrun : s.ctlRuns = true) {b : List DueSlot} {rest : List (List DueSlot)} (h : s.nt.batches = b :: rest) :
    execSporeExecute s = .next ((s.batchAt rest).runBatch b) := by
  rw [execSporeExecute, hrun, h]
  rfl

theorem execSporeExecute_none (h : s.ctlRuns = false ∨ s.nt.batches = []) : execSporeExecute s = .next s := by
  unfold execSporeExecute
  split
  · rfl
  · rfl
  next hrun hb => simp [hrun, hb] at h

theorem batchAt_effect (s : State) (rest : List (List DueSlot)) : Only [.now, .nt] s (s.batchAt rest) ∧
    (s.batchAt rest).now = (s.now + 31) / 32 * 32 ∧ (s.batchAt rest).nt.recs = s.nt.recs ∧ (s.batchAt rest).nt.batches = rest := by
  have hnow : (s.advanceTo ((s.now + 31) / 32 * 32)).now = (s.now + 31) / 32 * 32 := by
    unfold State.advanceTo
    split
    · show s.now = _
      omega
    · rfl
  exact ⟨only_modNt _ (only_advanceTo_time s _) (by decide), hnow, recs_advanceTo s _, rfl⟩

/-- What a scheduled action may change: all but time and what stands outside the device's own blocks. -/
def actionParts : List Part :=
  [.free, .live, .regs, .eng, .waits, .meas, .pwm, .gdl, .trp, .saf, .clk, .nt, .cmd, .ops, .log, .sec, .stg, .acq, .host, .twn, .mgt]

theorem runSpore_now (s : State) (d : DueSlot) : (s.runSpore d).now = s.now := by
  have h : Only actionParts s (s.runSpore d) := by simp +decide only [only_runSpore, Only.refl]
  exact h.keeps_now

end

/-! ### Each action -/

section
variable {s : State} {d : DueSlot}

theorem runSpore_commit (h : d.spore.action = 1) : s.runSpore d = s.sporeCommit d := by
  rw [State.runSpore, h]
  rfl

/-- A TRIGGER: the event that it may publish, and the units of its mask. -/
def State.sporeTrigged (s : State) (d : DueSlot) : State :=
  (if (pb d.spore.args 1).testBit 0 then s.ptmAsk 5 s.ntFine d.slot true else s).acqTrigMask (pb d.spore.args 0) 8
    (if (pb d.spore.args 1).testBit 0 then s.ptmAsk 5 s.ntFine d.slot true else s).ntFine d.slot

theorem runSpore_trigger (h : d.spore.action = 3) : s.runSpore d = (s.sporeTrigged d).sporeDone d .ok 0 := by
  rw [State.runSpore, h]
  rfl

theorem sporeTrigged_effect (s : State) (d : DueSlot) : EventsOnly s (s.sporeTrigged d) ∧ Only [.regs, .nt, .acq] s (s.sporeTrigged d) ∧
    UnitsTriggered (pb d.spore.args 0) s.ntFine s (s.sporeTrigged d) := by
  obtain ⟨v, hv, hevents, honly⟩ : ∃ v, v = (if (pb d.spore.args 1).testBit 0 then s.ptmAsk 5 s.ntFine d.slot true else s) ∧ EventsOnly s v ∧
      Only [.regs, .nt] s v := by
    refine ⟨_, rfl, ?_, only_ite (only_ptmAsk s _ _ _ _ (Only.refl _ s) (by decide) (by decide)) (Only.refl _ s)⟩
    split
    · exact eventsOnly_ptmAsk s _ _ _ _
    · exact .refl s
  have hunits := acqTrigMask_triggered v (pb d.spore.args 0) 8 v.ntFine d.slot
  rw [State.sporeTrigged, ← hv]
  refine ⟨hevents.trans (eventsOnly_acqTrigMask v _ _ _ _), (honly.mono (by decide)).trans (only_acqTrigMask_parts v _ _ _ _) fun _ hp => hp, ?_⟩
  intro u hu
  have hunit := hunits u hu
  rw [acqN_of_acq honly.keeps_acq, hevents.fields.1] at hunit
  rw [hevents.fields.1]
  exact hunit

theorem runSpore_slotOfs (h : d.spore.action = 5) : s.runSpore d = (s.setSlotOfs (pf d.spore.args 0 3)).sporeDone d .ok 0 := by
  rw [State.runSpore, h]
  rfl

/-- SLOT_OFS takes its value, and the staged one follows where it was equal. -/
theorem setSlotOfs_effect (hlive : cellsRise s.live) (v : Nat) : Only [.live, .pwm, .stg] s (s.setSlotOfs v) ∧
    cellsRise (s.setSlotOfs v).live ∧ regGet (s.setSlotOfs v).live .pwmSlotOfs = BitVec.ofNat 64 (v % 2 ^ 24) ∧
    (cellsRise s.stg.stage → regGet s.stg.stage .pwmSlotOfs = regGet s.live .pwmSlotOfs →
      regGet (s.setSlotOfs v).stg.stage .pwmSlotOfs = BitVec.ofNat 64 (v % 2 ^ 24)) := by
  have honly : Only [.live, .pwm, .stg] s (s.setSlotOfs v) := only_setSlotOfs s v (Only.refl _ s) (by decide) (by decide) (by decide)
  obtain ⟨u, hpwm, hu, hstg⟩ : ∃ u, Only [.pwm] u (s.setSlotOfs v) ∧ u.live = regSet s.live .pwmSlotOfs 0 0 (BitVec.ofNat 64 (v % 2 ^ 24)) ∧
      (regGet s.stg.stage .pwmSlotOfs = regGet s.live .pwmSlotOfs →
        u.stg.stage = regSet s.stg.stage .pwmSlotOfs 0 0 (BitVec.ofNat 64 (v % 2 ^ 24))) := by
    refine ⟨_, only_forNums _ _ (fun _ _ hw => only_modTb _ _ hw (by decide)) (Only.refl _ _), ?_, fun h => ?_⟩
    · split <;> rfl
    · rw [if_pos h]
      rfl
  rw [hpwm.keeps_live, hpwm.keeps_stg, hu]
  refine ⟨honly, cellsRise_write hlive, regGet_regSet_same hlive .pwmSlotOfs 0 0 _, fun hstage h => ?_⟩
  rw [hstg h]
  exact regGet_regSet_same hstage .pwmSlotOfs 0 0 _

theorem runSpore_graph (h : d.spore.action = 2 ∨ d.spore.action = 6) : s.runSpore d = s.sporeGraph d := by
  rcases h with h | h <;> rw [State.runSpore, h] <;> rfl

theorem sporeGraph_cold (h : s.cHot = false) : s.sporeGraph d = s.sporeDone d .error 3 := if_pos (by simp [h])

theorem sporeGraph_alone (hhot : s.cHot = true) (hpair : s.pair = false) :
    ∃ take, s.sporeGraph d = s.sporeWork d s.now s.ntFine take := by
  refine ⟨s.controlTake (sporeSrc d) sporeItem (sporeItemBytes d s.ntFine), ?_⟩
  rw [State.sporeGraph, if_neg (by simp [hhot]), if_neg (by simp [hpair])]
  dsimp only
  rw [mirror_alone hpair]

/-- Work that an action hands to an engine. -/
def sporeHanded (d : DueSlot) (at_ : Nat) (take : Option DWord) (n : Engine) : Engine :=
  if d.spore.action = 2 then
    { n with sporeStarts := n.sporeStarts ++
        [{ slot := d.slot, at_ := at_, chan := pb d.spore.args 1, target := BitVec.ofNat 32 (pf d.spore.args 4 4), takeIdx := take }] }
  else { n with swaps := n.swaps ++
      [{ who := .spore d.slot at_, bank := pb d.spore.args 1 = 1, len := pf d.spore.args 2 2, at_ := at_, takeIdx := take }] }

theorem sporeWork_engN (s : State) (d : DueSlot) (at_ : Nat) (nt : DWord) (take : Option DWord) {e : Nat} (he : e < 8) :
    (s.sporeWork d at_ nt take).engN e = if (pb d.spore.args 0).testBit e then sporeHanded d at_ take (s.engN e) else s.engN e := by
  have hmod := forNums_modEng (sporeHanded d at_ take) (nodup_bitsIn 8 (pb d.spore.args 0)) s he
  simp only [mem_bitsIn, he, true_and] at hmod
  exact hmod

theorem runSpore_swap (h : d.spore.action = 4) (hrole : s.twn.role = true) (hready : s.twinReady = true) :
    s.runSpore d = s.modTwn fun t => { t with swapSpore := t.swapSpore ++ [(d, s.now + 320000)] } := by
  rw [State.runSpore, h]
  exact (if_neg (by simp [hrole])).trans (if_neg (by simp [hready]))

/-! ### COMMIT -/

theorem sporeCommit_alone (h : s.stg.pendings = []) : s.sporeCommit d = (s.sporeApply d).1.sporeDone d (s.sporeApply d).2.1 (s.sporeApply d).2.2 := by
  rw [State.sporeCommit, h]
  rfl

/-- A stage that fails its check applies nothing. -/
theorem sporeApply_fails {fails : List FailEntry} (hst : s.stg.st = .dirty ∨ s.stg.st = .failed)
    (hfails : s.checkAll s.stg.stage s.stg.images = fails) (hne : fails ≠ []) :
    s.sporeApply d = ((s.reportFails false fails 0 0).modStg fun g => { g with st := .failed }, .checkFail, fails.length) := by
  unfold State.sporeApply
  simp only [hst, if_true, hfails, if_pos hne]

theorem sporeApply_passes (hst : s.stg.st = .checked) (h : s.commitFails = none) : ∃ u, Only [.twn] (s.applyStage s.ntFine) u ∧
    (s.sporeApply d).1 = u := by
  refine ⟨_, ?_, rfl⟩
  have hnot : ¬ (s.stg.st = .dirty ∨ s.stg.st = .failed) := by simp [hst]
  have hclean : ¬ s.stg.st = .clean := by simp [hst]
  unfold State.sporeApply
  simp only [if_neg hnot, ne_eq, not_true_eq_false, if_false, State.tryApply, if_neg hclean, h]
  exact only_ite (only_sporeSee _ _ (Only.refl _ _) (by decide)) (Only.refl _ _)

end

end Sys2Proof.Machine
end

section
/-! The statement about scheduled actions at their tick (R189, R298 to R301, Table NT-4). -/

-- The proofs are elaborated one after the other: this bounds the threads of the compiler, whose stacks count as its memory.
set_option Elab.async false

namespace Sys2Proof.Machine

section
variable {s : State} {d : DueSlot}

/-! ### Records of a batch -/

theorem only_sporeDone_parts (s : State) (d : DueSlot) (st : Status) (n : Nat) : Only [.regs, .nt, .log, .twn] s (s.sporeDone d st n) :=
  only_sporeRecord_parts s _

/-- A TRIGGER or a SLOT_OFS leaves its record behind those before it, and the other batches alone. -/
theorem runSpore_records (h : d.spore.action = 3 ∨ d.spore.action = 5) (hlen : s.nt.recs.length < 64) (hlive : cellsRise s.live) :
    (s.runSpore d).nt.batches = s.nt.batches ∧ cellsRise (s.runSpore d).live ∧
    (∃ r : SporeRec, (s.runSpore d).nt.recs = s.nt.recs ++ [r] ∧ r.slot = d.slot ∧ r.same = d.same) ∧
    (d.spore.action = 5 → regGet (s.runSpore d).live .pwmSlotOfs = BitVec.ofNat 64 (pf d.spore.args 0 3 % 2 ^ 24)) := by
  have hdone (v : State) (hrecs : v.nt.recs = s.nt.recs) (hbatches : v.nt.batches = s.nt.batches) :
      (v.sporeDone d .ok 0).nt.batches = s.nt.batches ∧ (v.sporeDone d .ok 0).live = v.live ∧
      ∃ r : SporeRec, (v.sporeDone d .ok 0).nt.recs = s.nt.recs ++ [r] ∧ r.slot = d.slot ∧ r.same = d.same := by
    have hnt := sporeDone_nt (s := v) (by rw [hrecs]; exact hlen) d .ok 0
    rw [hnt]
    exact ⟨hbatches, (only_sporeDone_parts v d .ok 0).keeps_live, _, by rw [hrecs], rfl, rfl⟩
  rcases h with h | h
  · obtain ⟨hevents, honly, -⟩ := sporeTrigged_effect s d
    obtain ⟨-, hrecs, hbatches⟩ := hevents.fields
    rw [runSpore_trigger h]
    obtain ⟨hb, hl, hr⟩ := hdone _ hrecs hbatches
    exact ⟨hb, by rw [hl, honly.keeps_live]; exact hlive, hr, fun h' => by simp [h] at h'⟩
  · obtain ⟨honly, hrise, hval, -⟩ := setSlotOfs_effect hlive (pf d.spore.args 0 3)
    rw [runSpore_slotOfs h]
    obtain ⟨hb, hl, hr⟩ := hdone _ (by rw [honly.keeps_nt]) (by rw [honly.keeps_nt])
    exact ⟨hb, by rw [hl]; exact hrise, hr, fun _ => by rw [hl]; exact hval⟩

/-- R298: the actions of a batch leave their records in slot order, and the last SLOT_OFS prevails. -/
theorem runBatch_records (b : List DueSlot) (hact : ∀ d ∈ b, d.spore.action = 3 ∨ d.spore.action = 5) {s : State} (hlive : cellsRise s.live)
    (hlen : s.nt.recs.length + b.length ≤ 64) : (s.runBatch b).nt.batches = s.nt.batches ∧
    ((s.runBatch b).nt.recs.map fun r => (r.slot, r.same)) = (s.nt.recs.map fun r => (r.slot, r.same)) ++ (b.map fun d => (d.slot, d.same)) ∧
    ∀ d, b.getLast? = some d → d.spore.action = 5 →
      regGet (s.runBatch b).live .pwmSlotOfs = BitVec.ofNat 64 (pf d.spore.args 0 3 % 2 ^ 24) := by
  induction b generalizing s with
  | nil => exact ⟨rfl, (List.append_nil _).symm, fun _ h => by simp at h⟩
  | cons x b ih =>
    have hstep : s.runBatch (x :: b) = (s.runSpore x).runBatch b := rfl
    obtain ⟨hbatches, hrise, ⟨r, hrecs, hslot, hsame⟩, hofs⟩ := runSpore_records (hact x (List.mem_cons_self ..)) (s := s)
      (by simp at hlen; omega) hlive
    rw [hstep]
    generalize s.runSpore x = u at *
    obtain ⟨hb, hr, hlast⟩ := ih (fun d hd => hact d (List.mem_cons_of_mem _ hd)) hrise (by simp [hrecs] at hlen ⊢; omega)
    refine ⟨hb.trans hbatches, by rw [hr, hrecs]; simp [hslot, hsame], fun d hd h5 => ?_⟩
    cases b with
    | nil =>
      simp only [List.getLast?_singleton, Option.some.injEq] at hd
      subst hd
      exact hofs h5
    | cons y b => exact hlast d (by rwa [List.getLast?_cons_cons] at hd) h5

/-! ### One action at its tick -/

/-- The record of an action whose work left the records alone. -/
theorem sporeRecorded_after {v : State} (hrecs : v.nt.recs = s.nt.recs) (hlen : s.nt.recs.length < 64) (d : DueSlot) (st : Status) (n : Nat) :
    SporeRecorded d st n s (v.sporeDone d st n) := (sporeRecorded_sporeDone (by rw [hrecs]; exact hlen) d st n).congr hrecs

theorem sporeDone_ntFine (s : State) (d : DueSlot) (st : Status) (n : Nat) (hlen : s.nt.recs.length < 64) :
    (s.sporeDone d st n).ntFine = s.ntFine := by
  rw [State.ntFine, State.nt64, sporeDone_nt hlen]
  rfl

end

/-- Settles O44, by what each action makes of its blocks at the tick, and by the records of a batch in slot order. -/
theorem sporesExecuteAtATick : Obligations.SporesExecuteAtATick := by
  have hone (d : DueSlot) (s : State) (hrun : s.ctlRuns = true) (hb : s.nt.batches = [[d]]) :
      exec .sporeExecute s = .next ((s.batchAt []).runSpore d) := execSporeExecute_batch hrun hb
  refine ⟨?tick, ?fails, ?trigger, ?slotOfs, ?cold, ?profile, ?swap, ?exchange, ?commit, ?batch, ?none⟩
  case tick =>
    intro d s hrun hb
    obtain ⟨-, hnow, -, -⟩ := batchAt_effect s []
    exact ⟨_, hone d s hrun hb, by rw [runSpore_now, hnow]; omega, by rw [runSpore_now, hnow]; omega⟩
  case fails =>
    intro d u fails s hrun hb hlen hact hpend hst hu hfails hne
    obtain ⟨honly, -, hrecs, -⟩ := batchAt_effect s []
    have hexec := hone d s hrun hb
    rw [show u = s.batchAt [] from hu] at hfails
    clear hu
    generalize s.batchAt [] = v at *
    have hstg := honly.keeps_stg
    rw [runSpore_commit hact, sporeCommit_alone (by rw [hstg]; exact hpend), sporeApply_fails (by rw [hstg]; exact hst) hfails hne] at hexec
    refine ⟨_, hexec, ?_⟩
    have hreport : Only [.stg] v (v.reportFails false fails 0 0) := by
      have heq : v.reportFails false fails 0 0 = v.modStg fun g => { g with fails := fails } := by simp [State.reportFails]
      rw [heq]
      exact only_modStg _ (Only.refl _ v) (by decide)
    have hr := reportFails_stg (s := v) false fails 0 0
    have hfields : ((v.reportFails false fails 0 0).modStg fun g => { g with st := .failed }).live = s.live ∧
        ((v.reportFails false fails 0 0).modStg fun g => { g with st := .failed }).stg = { s.stg with fails := fails, st := .failed } ∧
        ((v.reportFails false fails 0 0).modStg fun g => { g with st := .failed }).nt.recs = s.nt.recs := by
      refine ⟨hreport.keeps_live.trans honly.keeps_live, ?_, (congrArg NtState.recs hreport.keeps_nt).trans hrecs⟩
      show { (v.reportFails false fails 0 0).stg with st := .failed } = _
      rw [hr, hstg]
    generalize State.modStg _ _ = w at *
    obtain ⟨hlive, hstg', hrecs'⟩ := hfields
    have hdone := only_sporeDone_parts w d .checkFail fails.length
    refine ⟨hdone.keeps_live.trans hlive, ?_, ?_, ?_, sporeRecorded_after hrecs' hlen _ _ _⟩ <;> rw [hdone.keeps_stg, hstg']
  case trigger =>
    intro d s hrun hb hlen hact
    obtain ⟨honly, -, hrecs, -⟩ := batchAt_effect s []
    have hexec := hone d s hrun hb
    generalize s.batchAt [] = v at *
    obtain ⟨hevents, -, hunits⟩ := sporeTrigged_effect v d
    rw [runSpore_trigger hact] at hexec
    refine ⟨_, hexec, ?_⟩
    generalize v.sporeTrigged d = w at *
    obtain ⟨hfine, hrecs', -⟩ := hevents.fields
    have hlen' : w.nt.recs.length < 64 := by rw [hrecs', hrecs]; exact hlen
    refine ⟨fun u hu => ?_, sporeRecorded_after (hrecs'.trans hrecs) hlen _ _ _⟩
    have hunit := hunits u hu
    rw [acqN_of_acq honly.keeps_acq] at hunit
    rw [sporeDone_ntFine _ _ _ _ hlen', hfine, acqN_of_acq (only_sporeDone_parts w d .ok 0).keeps_acq]
    exact hunit
  case slotOfs =>
    intro d s hs hrun hb hlen hact
    obtain ⟨honly, -, hrecs, -⟩ := batchAt_effect s []
    have hexec := hone d s hrun hb
    generalize s.batchAt [] = v at *
    obtain ⟨-, -, hrise, -, hstage⟩ := hs
    obtain ⟨hset, -, hval, hstaged⟩ := setSlotOfs_effect (s := v) (by rw [honly.keeps_live]; exact hrise) (pf d.spore.args 0 3)
    rw [runSpore_slotOfs hact] at hexec
    refine ⟨_, hexec, ?_⟩
    rw [honly.keeps_live, honly.keeps_stg] at hstaged
    generalize v.setSlotOfs _ = w at *
    have hdone := only_sporeDone_parts w d .ok 0
    refine ⟨?_, fun h => ?_, sporeRecorded_after (by rw [hset.keeps_nt, hrecs]) hlen _ _ _⟩
    · rw [hdone.keeps_live, hval]
    · rw [hdone.keeps_live, hdone.keeps_stg, hval, hstaged hstage h]
  case cold =>
    intro d s hrun hb hlen hact hpair hcold
    obtain ⟨honly, -, hrecs, -⟩ := batchAt_effect s []
    have hexec := hone d s hrun hb
    have hops := honly.keeps_ops
    generalize s.batchAt [] = v at *
    rw [runSpore_graph hact, sporeGraph_cold (by rw [State.cHot, hops]; exact hcold)] at hexec
    exact ⟨_, hexec, by rw [(only_sporeDone_parts v d .error 3).keeps_eng, honly.keeps_eng], sporeRecorded_after hrecs hlen _ _ _⟩
  case profile =>
    intro d s hrun hb hact hpair hhot
    obtain ⟨honly, -, -, -⟩ := batchAt_effect s []
    have hexec := hone d s hrun hb
    have hnow := runSpore_now (s.batchAt []) d
    generalize s.batchAt [] = v at *
    obtain ⟨take, hwork⟩ := sporeGraph_alone (s := v) (d := d) (by rw [State.cHot, honly.keeps_ops]; exact hhot) (by rw [pair_congr honly.keeps_live]; exact hpair)
    rw [runSpore_graph (.inl hact), hwork] at hexec hnow
    refine ⟨_, hexec, fun e he => ?_⟩
    have heng : v.engN e = s.engN e := by rw [State.engN, honly.keeps_eng, State.engN]
    rw [hnow, sporeWork_engN v d _ _ _ he, heng, sporeHanded, if_pos hact]
    split
    · exact ⟨_, rfl, rfl, rfl, rfl, rfl⟩
    · rfl
  case swap =>
    intro d s hrun hb hact hpair hhot
    obtain ⟨honly, -, -, -⟩ := batchAt_effect s []
    have hexec := hone d s hrun hb
    have hnow := runSpore_now (s.batchAt []) d
    generalize s.batchAt [] = v at *
    obtain ⟨take, hwork⟩ := sporeGraph_alone (s := v) (d := d) (by rw [State.cHot, honly.keeps_ops]; exact hhot) (by rw [pair_congr honly.keeps_live]; exact hpair)
    rw [runSpore_graph (.inr hact), hwork] at hexec hnow
    refine ⟨_, hexec, fun e he => ?_⟩
    have heng : v.engN e = s.engN e := by rw [State.engN, honly.keeps_eng, State.engN]
    rw [hnow, sporeWork_engN v d _ _ _ he, heng, sporeHanded, if_neg (show ¬ d.spore.action = 2 by simp [hact])]
    split
    · exact ⟨_, rfl, rfl, rfl, rfl⟩
    · rfl
  case exchange =>
    intro d s hrun hb hact hpair hrole hready
    obtain ⟨honly, -, -, -⟩ := batchAt_effect s []
    have hexec := hone d s hrun hb
    generalize s.batchAt [] = v at *
    have htwn := honly.keeps_twn
    rw [runSpore_swap hact (by rw [htwn]; exact hrole) (by rw [twinReady_of_twin (twin_of_only honly (.refl s)) honly.keeps_live]; exact hready)] at hexec
    refine ⟨_, hexec, ?_⟩
    show { v.twn with swapSpore := v.twn.swapSpore ++ [(d, v.now + 320000)] } = _
    rw [htwn]
    rfl
  case commit =>
    intro d u s hrun hb hact hpend hst hu hpass
    obtain ⟨honly, -, -, -⟩ := batchAt_effect s []
    have hexec := hone d s hrun hb
    rw [show u = s.batchAt [] from hu] at hpass
    clear hu
    generalize s.batchAt [] = v at *
    have hstg := honly.keeps_stg
    obtain ⟨w, htwn, hw⟩ := sporeApply_passes (s := v) (d := d) (by rw [hstg]; exact hst) hpass
    rw [runSpore_commit hact, sporeCommit_alone (by rw [hstg]; exact hpend), hw] at hexec
    obtain ⟨hlive, hstage⟩ := applyStage_live_stg v v.ntFine
    have hdone := only_sporeDone_parts w d (v.sporeApply d).2.1 (v.sporeApply d).2.2
    refine ⟨_, hexec, ?_, ?_, ?_⟩
    · rw [hdone.keeps_live, htwn.keeps_live, hlive, hstg]
    · rw [hdone.keeps_stg, htwn.keeps_stg, hstage]
    · rw [hdone.keeps_stg, htwn.keeps_stg, hstage, hstg]
  case batch =>
    intro b rest s hs hrun hb hlen hact
    obtain ⟨honly, -, hrecs, hbatches⟩ := batchAt_effect s rest
    have hexec := execSporeExecute_batch hrun hb
    generalize s.batchAt rest = v at *
    obtain ⟨-, -, hrise, -, -⟩ := hs
    obtain ⟨hb', hr, hlast⟩ := runBatch_records b hact (s := v) (by rw [honly.keeps_live]; exact hrise) (by rw [hrecs]; exact hlen)
    exact ⟨_, hexec, hb'.trans hbatches, by rw [hr, hrecs], hlast⟩
  case none =>
    intro s h
    exact execSporeExecute_none h

end Sys2Proof.Machine
end

section
/-! Ethernet frames: what is received, what leaves, and the supervision frames (R284 to R286, R294, R295). -/

-- The proofs are elaborated one after the other: this bounds the threads of the compiler, whose stacks count as its memory.
set_option Elab.async false

namespace Sys2Proof.Machine

section
variable {s : State} {p : Fin 2} {f : Bytes}

/-! ### Reception -/

theorem execEthFrameReceive_on (h : s.lvb .ethPortCfg p 0 0 = true) (good : Bool) : execEthFrameReceive p f good s = .next (s.ethReceive p f good) :=
  if_pos h

theorem ethReceive_size (h : f.length < 60 ∨ 1996 < f.length) : s.ethReceive p f true = s := (if_neg (by simp)).trans (if_pos h)

section
variable (hlen : 60 ≤ f.length) (hmax : f.length ≤ 1996)
include hlen hmax

theorem ethReceive_pause (h : etherType f 12 = 0x8808) : s.ethReceive p f true = s.count .ethRxCnt p :=
  (if_neg (by simp)).trans ((if_neg (by omega)).trans (if_pos h))

theorem ethReceive_plain (h : etherType f 12 ≠ 0x8808) (hprp : s.ethMode ≠ 1) (hhsr : s.ethMode ≠ 2) :
    s.ethReceive p f true = (s.count .ethRxCnt p).ethDeliver f (s.rxStamp p) := by
  have hmode : (s.count .ethRxCnt p).ethMode = s.ethMode := rfl
  refine (if_neg (by simp)).trans ((if_neg (by omega)).trans ((if_neg h).trans ?_))
  rw [hmode]
  split
  next h1 => exact absurd h1 hprp
  next h2 => exact absurd h2 hhsr
  · rfl

theorem ethReceive_prp (h : etherType f 12 ≠ 0x8808) (hprp : s.ethMode = 1) :
    s.ethReceive p f true = (s.count .ethRxCnt p).prpReceive p f (s.rxStamp p) := by
  have hmode : (s.count .ethRxCnt p).ethMode = s.ethMode := rfl
  refine (if_neg (by simp)).trans ((if_neg (by omega)).trans ((if_neg h).trans ?_))
  rw [hmode, hprp]
  rfl

end

/-- A frame is for software: no supervision frame, no plant trigger message, and addressed to this node (R286). -/
def State.forSoftware (s : State) (f : Bytes) : Prop :=
  etherType f (etherOfs f 3 12) ≠ 0x88FB ∧ s.isPtm f = false ∧ ((pb f 0).testBit 0 = true ∨ f.take 6 = s.ownMac)

theorem ethDeliver_software (h : s.forSoftware f) (ts : DWord) : s.ethDeliver f ts = s.queueRx f ts := by
  obtain ⟨hsup, hptm, haddr⟩ := h
  exact (if_neg hsup).trans ((if_neg (by simp [hptm])).trans (if_pos (by simpa using haddr)))

theorem ethDeliver_other (h : ¬ s.forSoftware f) (ts : DWord) : (s.ethDeliver f ts).eth.rxq = s.eth.rxq ∧
    (s.ethDeliver f ts).eth.rxLost = s.eth.rxLost := by
  unfold State.ethDeliver
  split
  · exact ⟨rfl, rfl⟩
  next hsup =>
    split
    · exact ⟨rfl, rfl⟩
    next hptm => rw [if_neg (fun haddr => h ⟨hsup, by simpa using hptm, by simpa using haddr⟩)]; exact ⟨rfl, rfl⟩

theorem queueRx_effect (s : State) (f : Bytes) (ts : DWord) : if s.eth.rxq.length + (rxEntry f ts).length ≤ 32768 then
      (s.queueRx f ts).eth.rxq = s.eth.rxq ++ rxEntry f ts ∧ (s.queueRx f ts).eth.rxLost = s.eth.rxLost
    else (s.queueRx f ts).eth.rxq = s.eth.rxq ∧ (s.queueRx f ts).eth.rxLost = satInc s.eth.rxLost := by
  unfold State.queueRx
  dsimp only
  split <;> exact ⟨rfl, rfl⟩

theorem ethDeliver_keeps (s : State) (f : Bytes) (ts : DWord) : (s.ethDeliver f ts).regs = s.regs ∧
    (s.ethDeliver f ts).eth.ports = s.eth.ports ∧ (s.ethDeliver f ts).eth.dups = s.eth.dups := by
  unfold State.ethDeliver State.queueRx
  dsimp only
  split
  · exact ⟨rfl, rfl, rfl⟩
  · split
    · exact ⟨rfl, rfl, rfl⟩
    · split
      · split <;> exact ⟨rfl, rfl, rfl⟩
      · exact ⟨rfl, rfl, rfl⟩

/-- A frame whose source and number are held from the last 400 ms is a duplicate. -/
theorem dupCheck_held {key : Bytes} {seq : Nat} {x : Bytes × Nat × Nat} (hx : x ∈ s.eth.dups) (hkey : x.1 = key) (hseq : x.2.1 = seq)
    (hnow : s.now < x.2.2 + 12800000000) : ∃ dups, s.dupCheck key seq = (false, { s with eth := { s.eth with dups := dups } }) := by
  have hany : (s.eth.dups.filter fun x => s.now < x.2.2 + 12800000000).any (fun x => x.1 = key && x.2.1 = seq) = true := by
    refine List.any_eq_true.mpr ⟨x, List.mem_filter.mpr ⟨hx, by simpa using hnow⟩, by simp [hkey, hseq]⟩
  exact ⟨_, if_pos hany⟩

/-- The frame of a LAN whose identifier does not fit its port counts. -/
def State.lanJudged (s : State) (p : Nat) (f : Bytes) : State := if pb f (f.length - 4) / 16 ≠ 0xA + p then s.count .ethLanErr p else s

section
variable (hrct : etherType f (f.length - 2) = 0x88FB) (hlan : pb f (f.length - 4) / 16 = 0xA ∨ pb f (f.length - 4) / 16 = 0xB)
include hrct hlan

theorem prpReceive_held {v : State} {dups : List (Bytes × Nat × Nat)} (hptp : isPtp f = false)
    (hdup : (v.lanJudged p f).dupCheck ((f.drop 6).take 6) (etherType f (f.length - 6)) =
      (false, { v.lanJudged p f with eth := { (v.lanJudged p f).eth with dups := dups } })) (ts : DWord) :
    v.prpReceive p f ts = { v.lanJudged p f with eth := { (v.lanJudged p f).eth with dups := dups } }.count .ethDupCnt := by
  unfold State.lanJudged at hdup ⊢
  unfold State.prpReceive
  dsimp only
  rw [if_pos ⟨hrct, hlan⟩, hptp]
  simp only [Bool.false_eq_true, if_false, hdup]

theorem prpReceive_ptp {v : State} (hptp : isPtp f = true) (ts : DWord) :
    v.prpReceive p f ts = (v.lanJudged p f).ethDeliver (f.take (f.length - 6)) ts := by
  unfold State.prpReceive State.lanJudged
  dsimp only
  rw [if_pos ⟨hrct, hlan⟩, hptp]
  simp only [if_true]

end

/-! ### Sending -/

theorem port_modPort_same (s : State) (p : Fin 2) (f : EthPort → EthPort) : (s.modPort p f).port p = f (s.port p) := vget_vset_same _ _ _ _ p.isLt

theorem port_modPort_other (s : State) {p q : Nat} (h : q ≠ p) (f : EthPort → EthPort) : (s.modPort p f).port q = s.port q :=
  vget_vset_other _ _ _ _ _ h

/-- The frame at the head of a port's queue leaves. -/
def State.frameLeaves (s : State) (p : Nat) (f : TxFrame) (rest : List TxFrame) : State :=
  match (s.onWire p f).2 with
  | some t => (s.modPort p fun q => { q with txq := rest, sent := (s.onWire p f).1 :: q.sent }).queueTxTs p t
  | none => s.modPort p fun q => { q with txq := rest, sent := (s.onWire p f).1 :: q.sent }

theorem ethSend_head {x : TxFrame} {rest : List TxFrame} (h : (s.port p).txq = x :: rest) : s.ethSend p = s.frameLeaves p x rest := by
  unfold State.ethSend State.frameLeaves
  rw [if_pos (by simp [h])]
  simp only [h] <;> rfl

theorem ethSend_filled {b : Bytes} {rest : List Bytes} (h : (s.port p).txq = []) (hq : s.eth.txq = b :: rest) (hmode : s.ethMode = 0) :
    s.ethSend p = ({ s with eth := { s.eth with txq := rest } }.giveFrame p { bytes := b } false).frameLeaves p { bytes := b } [] := by
  have hgiven : (({ s with eth := { s.eth with txq := rest } }.giveFrame p { bytes := b } false).port p).txq = [{ bytes := b }] := by
    have hport : ({ s with eth := { s.eth with txq := rest } }.giveFrame p { bytes := b } false).port p =
        { s.port p with txq := (s.port p).txq ++ [{ bytes := b }] } := vget_vset_same _ _ _ _ p.isLt
    rw [hport, h]
    rfl
  unfold State.ethSend State.frameLeaves
  have hmode' : { s with eth := { s.eth with txq := rest } }.ethMode = 0 := hmode
  simp only [h, hq, ne_eq, not_true_eq_false, if_false, hmode', if_true, hgiven] <;> rfl

/-- What the head frame leaves, and whether its timestamp has found room. -/
theorem frameLeaves_effect (p : Fin 2) (x : TxFrame) (rest : List TxFrame) :
    ((s.frameLeaves p x rest).port p).txq = rest ∧ ((s.frameLeaves p x rest).port p).sent = (s.onWire p x).1 :: (s.port p).sent ∧
    (s.frameLeaves p x rest).eth.txq = s.eth.txq ∧ (cellsRise s.regs →
    match (s.onWire p x).2 with
    | none => ((s.frameLeaves p x rest).port p).txts = (s.port p).txts
    | some t => if (s.port p).txts.length < 16 then ((s.frameLeaves p x rest).port p).txts = (s.port p).txts ++ [t]
        else ((s.frameLeaves p x rest).port p).txts = (s.port p).txts ∧
          ((s.frameLeaves p x rest).reg .ethTxtsLost p).toNat = min ((s.reg .ethTxtsLost p).toNat + 1) 0xFFFFFFFF) := by
  have hport := port_modPort_same s p fun q => { q with txq := rest, sent := (s.onWire p x).1 :: q.sent }
  have hkept : (s.modPort p fun q => { q with txq := rest, sent := (s.onWire p x).1 :: q.sent }).regs = s.regs ∧
      (s.modPort p fun q => { q with txq := rest, sent := (s.onWire p x).1 :: q.sent }).eth.txq = s.eth.txq := ⟨rfl, rfl⟩
  unfold State.frameLeaves
  generalize (s.modPort p fun q => { q with txq := rest, sent := (s.onWire p x).1 :: q.sent }) = u at *
  obtain ⟨hregs, htxq⟩ := hkept
  cases (s.onWire p x).2 with
  | none => exact ⟨by rw [hport], by rw [hport], htxq, fun _ => by rw [hport]⟩
  | some t =>
    simp only
    unfold State.queueTxTs
    have hroom : (u.port p).txts = (s.port p).txts := by rw [hport]
    rw [hroom]
    by_cases hlen : (s.port p).txts.length < 16
    · rw [if_pos hlen, if_pos hlen, port_modPort_same, hport]
      exact ⟨rfl, rfl, htxq, fun _ => rfl⟩
    · rw [if_neg hlen, if_neg hlen]
      have hsame : ((u.setFlag .ethTxtsFlag p 0).count .ethTxtsLost p).port p = u.port p := rfl
      rw [hsame, hport]
      refine ⟨rfl, rfl, htxq, fun hs => ?_⟩
      have hflag : (u.setFlag .ethTxtsFlag p 0).reg .ethTxtsLost p = s.reg .ethTxtsLost p := by
        refine (reg_setReg_ne (s := u) (by rw [hregs]; exact hs) _ ?_).trans (by rw [State.reg, hregs, State.reg])
        show 0x50118 + p.val * 0x80 + 0 * _ ≠ 0x50114 + p.val * 0x80 + 0 * _
        omega
      exact ⟨rfl, counted_of_rise (s := s) (cellsRise_write (by rw [hregs]; exact hs)) hflag⟩

/-! ### Supervision frames -/

theorem giveFrame_last (s : State) {p : Nat} (hp : p < 2) (x : TxFrame) : ((s.giveFrame p x false).port p).txq = (s.port p).txq ++ [x] :=
  congrArg EthPort.txq (vget_vset_same _ _ _ _ hp)

theorem giveFrame_sent (s : State) {p : Nat} (hp : p < 2) (x : TxFrame) : ((s.giveFrame p x false).port p).sent = (s.port p).sent := by
  have hport : (s.giveFrame p x false).port p = { s.port p with txq := (s.port p).txq ++ [x] } := vget_vset_same _ _ _ _ hp
  rw [hport]

/-- In PRP and in HSR a frame of this node goes to both ports, with the identifier of its LAN or its path. -/
theorem giveBoth_redundant (s : State) (f : Bytes) (h : s.ethMode = 1 ∨ s.ethMode = 2) :
    (s.giveBoth f false).now = s.now ∧ (s.giveBoth f false).eth.supAt = s.eth.supAt ∧ (s.giveBoth f false).eth.supSeq = s.eth.supSeq ∧
    (s.giveBoth f false).eth.redSeq = s.eth.redSeq + 1 ∧
    ((s.giveBoth f false).port 0).txq = (s.port 0).txq ++ [{ bytes := if s.ethMode = 1 then addRct f 0xA s.eth.redSeq.toNat else addHsr f 0 s.eth.redSeq.toNat }] ∧
    ((s.giveBoth f false).port 1).txq = (s.port 1).txq ++ [{ bytes := if s.ethMode = 1 then addRct f 0xB s.eth.redSeq.toNat else addHsr f 1 s.eth.redSeq.toNat }] := by
  have hboth (t : State) (x y : TxFrame) (hp : ∀ q, t.port q = s.port q) :
      (((t.giveFrame 0 x false).giveFrame 1 y false).port 0).txq = (s.port 0).txq ++ [x] ∧
      (((t.giveFrame 0 x false).giveFrame 1 y false).port 1).txq = (s.port 1).txq ++ [y] := by
    constructor
    · rw [giveFrame_other (by decide), giveFrame_last t (by decide), hp]
    · rw [giveFrame_last _ (by decide), giveFrame_other (by decide), hp]
  unfold State.giveBoth
  rcases h with h | h
  · simp only [h, if_true]
    exact ⟨rfl, rfl, rfl, rfl, hboth _ _ _ fun _ => rfl⟩
  · simp only [h, show ¬ (2 : Nat) = 1 by decide, if_false]
    exact ⟨rfl, rfl, rfl, rfl, hboth _ _ _ fun _ => rfl⟩

end

end Sys2Proof.Machine
end

section
/-! The statement about Ethernet frames (R284 to R286, R294, R295, Tables NT-1 to NT-3). -/

-- The proofs are elaborated one after the other: this bounds the threads of the compiler, whose stacks count as its memory.
set_option Elab.async false

namespace Sys2Proof.Machine

/-- What the counts of a frame that is received leave: Ethernet, time, the settings and the count of duplicates. -/
theorem lanJudged_effect {s : State} (hs : s.storesCanonical) (p : Fin 2) (f : Bytes) : Only [.regs] s ((s.count .ethRxCnt p).lanJudged p f) ∧
    cellsRise ((s.count .ethRxCnt p).lanJudged p f).regs ∧ ((s.count .ethRxCnt p).lanJudged p f).reg .ethDupCnt = s.reg .ethDupCnt := by
  have hrise : cellsRise (s.count .ethRxCnt p).regs := cellsRise_write (regsRise_of_storesCanonical hs)
  have hrx : (s.count .ethRxCnt p).reg .ethDupCnt = s.reg .ethDupCnt := by
    refine reg_setReg_ne (regsRise_of_storesCanonical hs) _ ?_
    show 0x50010 + 0 * 0 + 0 * _ ≠ 0x50130 + p.val * 0x80 + 0 * _
    omega
  have honly : Only [.regs] s (s.count .ethRxCnt p) := only_count _ _ _ (Only.refl _ s) (by decide)
  unfold State.lanJudged
  generalize s.count .ethRxCnt p = u at *
  split
  · refine ⟨only_count _ _ _ honly (by decide), cellsRise_write hrise, (reg_setReg_ne hrise _ ?_).trans hrx⟩
    show 0x50010 + 0 * 0 + 0 * _ ≠ 0x50138 + p.val * 0x80 + 0 * _
    omega
  · exact ⟨honly, hrise, hrx⟩

theorem pb_take {f : Bytes} {n : Nat} (h : 0 < n) : pb (f.take n) 0 = pb f 0 := by
  simp [pb, pf, List.take_take, Nat.min_eq_left (show 1 ≤ n from h)]

/-- A supervision frame is counted, and its instant noted. -/
def State.supervised (s : State) : State := { s with eth := { s.eth with supSeq := s.eth.supSeq + 1, supAt := s.now } }

/-- The supervision frame goes out at an instant. -/
def State.supervisedAt (s : State) (n : Nat) : State := (s.advanceTo n).supervised.giveBoth (s.advanceTo n).supFrame false

theorem execSupervisionFrameSend_sends {s : State} (h : s.ethMode = 1 ∨ s.ethMode = 2) : ∃ n, n = s.eth.supAt + 64000000000 ∧
    execSupervisionFrameSend s = .next (s.supervisedAt n) := ⟨_, rfl, if_pos h⟩

theorem supervision_effect {s : State} (h : s.ethMode = 1 ∨ s.ethMode = 2) (n : Nat) : n ≤ (s.supervisedAt n).now ∧
    (s.supervisedAt n).eth.supAt = (s.supervisedAt n).now ∧ (s.supervisedAt n).eth.supSeq = s.eth.supSeq + 1 ∧
    (s.supervisedAt n).eth.redSeq = s.eth.redSeq + 1 ∧
    ((s.supervisedAt n).port 0).txq = (s.port 0).txq ++
      [{ bytes := if s.ethMode = 1 then addRct s.supFrame 0xA s.eth.redSeq.toNat else addHsr s.supFrame 0 s.eth.redSeq.toNat }] ∧
    ((s.supervisedAt n).port 1).txq = (s.port 1).txq ++
      [{ bytes := if s.ethMode = 1 then addRct s.supFrame 0xB s.eth.redSeq.toNat else addHsr s.supFrame 1 s.eth.redSeq.toNat }] := by
  have hnow := le_now_advanceTo s n
  have honly := only_advanceTo_time s n
  unfold State.supervisedAt
  generalize s.advanceTo n = u at *
  have heth := honly.keeps_eth
  have hlive := honly.keeps_live
  have hmode : u.supervised.ethMode = s.ethMode := by rw [State.ethMode, State.lv, State.ethMode, State.lv, ← hlive]; rfl
  have hframe : u.supFrame = s.supFrame := by
    unfold State.supFrame State.ownMac State.ethMode State.lv
    rw [hlive, heth]
  have hports (q : Nat) : u.supervised.port q = s.port q := by rw [State.port, State.port, ← heth]; rfl
  have hfields : u.supervised.now = u.now ∧ u.supervised.eth.supAt = u.now ∧ u.supervised.eth.supSeq = s.eth.supSeq + 1 ∧
      u.supervised.eth.redSeq = s.eth.redSeq := by rw [← heth]; exact ⟨rfl, rfl, rfl, rfl⟩
  rw [hframe]
  generalize u.supervised = v at *
  obtain ⟨hvnow, hat, hseq, hred⟩ := hfields
  obtain ⟨hvn, ha, hq, hr, h0, h1⟩ := giveBoth_redundant v s.supFrame (by rw [hmode]; exact h)
  rw [hmode, hred, hports] at h0 h1
  exact ⟨by rw [hvn, hvnow]; exact hnow, by rw [ha, hat, hvn, hvnow], hq.trans hseq, by rw [hr, hred], h0, h1⟩

/-- Settles O45, by which of the frames received are for software, by what leaves at the head of a queue, and by the frames to both ports. -/
theorem ethernetFramesComeAndGo : Obligations.EthernetFramesComeAndGo := by
  refine ⟨?off, ?bad, ?size, ?plain, ?dup, ?ptp, ?sent, ?filled, ?unsent, ?read, ?link, ?supervision, ?openMode⟩
  case off =>
    intro p f good s h
    exact if_neg (by simp [h])
  case bad =>
    intro p f s hs hon
    exact ⟨_, execEthFrameReceive_on hon false, counts_count hs _ _⟩
  case size =>
    intro p f s hon h
    exact (execEthFrameReceive_on hon true).trans (congrArg Host.Outcome.next (ethReceive_size h))
  case plain =>
    intro p f s hs hon hlen hmax hprp hhsr
    have hcount := (counts_count hs .ethRxCnt p).1
    by_cases hpause : etherType f 12 = 0x8808
    · refine ⟨_, (execEthFrameReceive_on hon true).trans (congrArg Host.Outcome.next (ethReceive_pause hlen hmax hpause)), hcount, rfl, ?_⟩
      rw [if_neg (fun h => h.1 hpause)]
      exact ⟨rfl, rfl⟩
    · refine ⟨_, (execEthFrameReceive_on hon true).trans (congrArg Host.Outcome.next (ethReceive_plain hlen hmax hpause hprp hhsr)), ?_⟩
      have hsoft : (s.count .ethRxCnt p).forSoftware f ↔ s.forSoftware f := Iff.rfl
      have heth : (s.count .ethRxCnt p).eth = s.eth := rfl
      generalize s.count .ethRxCnt p = u at *
      obtain ⟨hregs, hports, -⟩ := ethDeliver_keeps u f (s.rxStamp p)
      refine ⟨by rw [State.reg, hregs]; exact hcount, by rw [hports, heth], ?_⟩
      by_cases hfor : s.forSoftware f
      · have hq := queueRx_effect u f (s.rxStamp p)
        rw [heth] at hq
        rw [if_pos ⟨hpause, hfor⟩, ethDeliver_software (hsoft.mpr hfor)]
        exact hq
      · have hq := ethDeliver_other (mt hsoft.mp hfor) (s.rxStamp p)
        rw [heth] at hq
        rw [if_neg (fun h => hfor h.2)]
        exact hq
  case dup =>
    intro p f x s hs hon hlen hmax hprp hpause hrct hlan hptp hx hkey hseq hnow
    obtain ⟨honly, hrise, hreg⟩ := lanJudged_effect hs p f
    have heth := honly.keeps_eth
    have hrecv := execEthFrameReceive_on (f := f) hon true
    rw [ethReceive_prp hlen hmax hpause hprp] at hrecv
    obtain ⟨dups, hdup⟩ := dupCheck_held (s := (s.count .ethRxCnt p).lanJudged p f) (by rw [heth]; exact hx) hkey hseq
      (by rw [honly.keeps_now]; exact hnow)
    rw [prpReceive_held hrct hlan hptp hdup] at hrecv
    refine ⟨_, hrecv, ?_⟩
    clear hrecv hdup
    generalize (s.count .ethRxCnt p).lanJudged p f = u at *
    exact ⟨(rfl : _ = u.eth.rxq).trans (congrArg EthState.rxq heth), counted_of_rise (s := s) (t := { u with eth := { u.eth with dups := dups } }) hrise hreg⟩
  case ptp =>
    intro p f s hon hlen hmax hprp hpause hrct hlan hptp hsup hptm haddr hroom
    have hrecv := execEthFrameReceive_on (f := f) hon true
    rw [ethReceive_prp hlen hmax hpause hprp, prpReceive_ptp hrct hlan hptp] at hrecv
    have honly : Only [.regs] s ((s.count .ethRxCnt p).lanJudged p f) := by
      have hcount (u : State) (hu : Only [.regs] s u) (r : Reg) : Only [.regs] s (u.count r p) := only_count _ _ _ hu (by decide)
      exact only_ite (hcount _ (hcount s (Only.refl _ s) _) _) (hcount s (Only.refl _ s) _)
    have hsoft : ((s.count .ethRxCnt p).lanJudged p f).forSoftware (f.take (f.length - 6)) := by
      refine ⟨hsup, ?_, .inl (by rw [pb_take (by omega)]; exact haddr)⟩
      rw [← hptm]
      unfold State.isPtm State.lv
      rw [honly.keeps_live]
    rw [ethDeliver_software hsoft] at hrecv
    refine ⟨_, hrecv, ?_⟩
    clear hrecv hsoft
    have heth := honly.keeps_eth
    generalize (s.count .ethRxCnt p).lanJudged p f = u at *
    have hq := queueRx_effect u (f.take (f.length - 6)) (s.rxStamp p)
    rw [heth, if_pos hroom] at hq
    refine ⟨hq.1, ?_⟩
    rw [← heth]
    unfold State.queueRx
    dsimp only
    split <;> rfl
  case sent =>
    intro p x rest s hs hon hlink hq
    obtain ⟨htxq, hsent, -, hts⟩ := frameLeaves_effect (s := s) p x rest
    refine ⟨_, (if_pos (by simp [hon, hlink])).trans (congrArg Host.Outcome.next (ethSend_head hq)), htxq, hsent, ?_⟩
    exact hts (regsRise_of_storesCanonical hs)
  case filled =>
    intro p b rest s hon hlink hnone hq hmode
    refine ⟨_, (if_pos (by simp [hon, hlink])).trans (congrArg Host.Outcome.next (ethSend_filled hnone hq hmode)), ?_⟩
    have hport : (({ s with eth := { s.eth with txq := rest } }.giveFrame p { bytes := b } false).port p).sent = (s.port p).sent :=
      giveFrame_sent _ p.isLt _
    have hwire : ({ s with eth := { s.eth with txq := rest } }.giveFrame p { bytes := b } false).onWire p { bytes := b } = s.onWire p { bytes := b } := rfl
    have hleft : ({ s with eth := { s.eth with txq := rest } }.giveFrame p { bytes := b } false).eth.txq = rest := rfl
    generalize State.giveFrame _ _ _ _ = u at *
    obtain ⟨htxq, hsent, htx, -⟩ := frameLeaves_effect (s := u) p { bytes := b } []
    exact ⟨htx.trans hleft, htxq, by rw [hsent, hport, hwire]⟩
  case unsent =>
    intro p s h
    exact if_neg (by rcases h with h | h <;> simp [h])
  case read =>
    intro p s
    have hport := port_modPort_same s p fun q => { q with txts := q.txts.drop 1, captured := q.txts.head? }
    have hread : exec (.ethTxtsRead p) s = .next { s.txtsRead p with bus := { (s.txtsRead p).bus with readData := (s.txtsRead p).txtsWord p 0 } } := rfl
    refine ⟨_, hread, hport, only_execEthTxtsRead p s (Only.refl _ s) (by decide) (by decide) _ hread, ?_⟩
    show (s.txtsRead p).txtsWord p 0 = _
    rw [State.txtsWord, State.txtsRead, hport]
    cases (s.port p).txts <;> rfl
  case link =>
    intro p an sync line s
    exact ⟨_, rfl, port_modPort_same s p _, fun q hq => port_modPort_other s (fun h => hq (Fin.ext h)) _, only_modPort _ _ (Only.refl _ s) (by decide)⟩
  case supervision =>
    intro s h
    obtain ⟨n, hn, hexec⟩ := execSupervisionFrameSend_sends h
    obtain ⟨hnow, hat, hseq, hred, h0, h1⟩ := supervision_effect h n
    exact ⟨_, hexec, by rw [← hn]; exact hnow, hat, hseq, hred, h0, h1⟩
  case openMode =>
    intro s hprp hhsr
    exact if_neg (by simp [hprp, hhsr])

end Sys2Proof.Machine
end

section
/-! The transport of the management port: packets are assembled, control messages answered (R452 to R454). -/

-- The proofs are elaborated one after the other: this bounds the threads of the compiler, whose stacks count as its memory.
set_option Elab.async false

namespace Sys2Proof.Machine

theorem pf_drop (p : Bytes) (a o n : Nat) : pf (p.drop a) o n = pf p (a + o) n := by
  rw [pf, List.drop_drop, pf]

theorem pb_drop (p : Bytes) (a o : Nat) : pb (p.drop a) o = pb p (a + o) := pf_drop p a o 1

/-! ### Packets -/

section
variable {s : State} {p : Bytes}

theorem execMctpPacket_other (h : s.mctpMine p = false) (ok : Bool) : execMctpPacket p ok s = .next s := if_pos (by simp [h])

theorem execMctpPacket_bad (h : s.mctpMine p = true) : execMctpPacket p false s = .next (s.count .mgtPecErrCnt) :=
  (if_neg (by simp [h])).trans (if_pos rfl)

theorem execMctpPacket_good (h : s.mctpMine p = true) : execMctpPacket p true s = .next (s.mctpIn p) :=
  (if_neg (by simp [h])).trans (if_neg (by simp))

/-- A packet of another version or for another endpoint has no effect. -/
theorem mctpIn_other (h : pb p 4 % 16 ≠ 1 ∨ pb p 5 ≠ 0 ∧ (s.mgt.eid = 0 ∨ pb p 5 ≠ s.mgt.eid.toNat)) : s.mctpIn p = s := if_pos h

section
variable (htakes : s.mctpTakes p)
include htakes

theorem not_other_of_takes : ¬ (pb p 4 % 16 ≠ 1 ∨ pb p 5 ≠ 0 ∧ (s.mgt.eid = 0 ∨ pb p 5 ≠ s.mgt.eid.toNat)) := by
  obtain ⟨-, hversion, hdst⟩ := htakes
  simp only [hversion, ne_eq, not_true_eq_false, false_or, not_and, not_or]
  intro hne
  rcases hdst with h | ⟨h0, h⟩
  · exact absurd h hne
  · exact ⟨h0, not_not_intro h⟩

theorem mctpIn_long (hlen : 64 < (p.drop 8).length) : s.mctpIn p = (s.modMgt fun m => { m with asm := none }).count .mgtAsmErrCnt :=
  (if_neg (not_other_of_takes htakes)).trans (if_pos hlen)

section
variable (hlen : (p.drop 8).length ≤ 64)
include hlen

/-- A message of one packet. -/
theorem mctpIn_whole (hfirst : (pb p 7).testBit 7 = true) (hlast : (pb p 7).testBit 6 = true) (hasm : s.mgt.asm = none) :
    s.mctpIn p = s.mctpMessage (mctpFrom p) (p.drop 8) := by
  have hsame : (s.modMgt fun m => { m with asm := none }) = s := by
    rw [State.modMgt, ← hasm]
  have hstep : s.mctpIn p = (s.modMgt fun m => { m with asm := none }).mctpMessage (mctpFrom p) (p.drop 8) := by
    refine (if_neg (not_other_of_takes htakes)).trans ((if_neg (by omega)).trans ((if_pos hfirst).trans ?_))
    rw [if_pos hlast, if_neg (by simp [hasm])]
    rfl
  rw [hstep, hsame]

/-- The first packet of a longer message. -/
theorem mctpIn_begins (hfirst : (pb p 7).testBit 7 = true) (hlast : (pb p 7).testBit 6 = false) (hasm : s.mgt.asm = none) :
    s.mctpIn p = s.modMgt fun m => { m with asm := some { peer := mctpFrom p, seq := nbits (pb p 7) 5 4, data := p.drop 8 } } := by
  refine (if_neg (not_other_of_takes htakes)).trans ((if_neg (by omega)).trans ((if_pos hfirst).trans ?_))
  rw [if_neg (by simp [hlast]), if_neg (by simp [hasm])]
  rfl

/-- A packet in the midst of a message. -/
theorem mctpIn_goes {a : MctpAsm} (hfirst : (pb p 7).testBit 7 = false) (hlast : (pb p 7).testBit 6 = false) (hasm : s.mgt.asm = some a)
    (hpeer : a.peer = mctpFrom p) : s.mctpIn p =
      if nbits (pb p 7) 5 4 = (a.seq + 1) % 4 ∧ (a.data ++ p.drop 8).length ≤ 8192 then
        s.modMgt fun m => { m with asm := some { a with seq := nbits (pb p 7) 5 4, data := a.data ++ p.drop 8 } }
      else (s.modMgt fun m => { m with asm := none }).count .mgtAsmErrCnt := by
  have hnext : s.mctpIn p = s.mctpNext a (nbits (pb p 7) 5 4) false (p.drop 8) := by
    refine (if_neg (not_other_of_takes htakes)).trans ((if_neg (by omega)).trans ((if_neg (by simp [hfirst])).trans ?_))
    rw [hasm, hlast]
    exact if_pos hpeer
  rw [hnext, State.mctpNext]
  by_cases hgood : nbits (pb p 7) 5 4 = (a.seq + 1) % 4 ∧ (a.data ++ p.drop 8).length ≤ 8192
  · rw [if_pos hgood]
    exact (if_neg (by simp only [not_or, not_not, not_lt]; exact hgood)).trans (if_neg (by simp))
  · rw [if_neg hgood]
    exact if_pos (by rw [← not_le, ← not_and_or]; exact hgood)

end

end

/-! ### Messages -/

/-- A Galuholt message goes to its handler, or is answered at once. -/
theorem mctpMessage_galuholt {m : Bytes} (htype : pb m 0 = 0x7F) (hvendor : beNat ((m.drop 1).take 4) = 0xD8E5) (peer : MctpPeer) :
    s.mctpMessage peer m = if s.mgtBusy = true ∨ mgtKinds.contains (pb m 5) = false then
        s.mgtSend peer (pb m 5) (BitVec.ofNat 8 (pb m 6)) (if s.mgtBusy then 1 else 2) []
      else s.modMgt fun x => { x with
        peer := peer, inbox := x.inbox ++
          [{ kind := pb m 5, reqId := BitVec.ofNat 8 (pb m 6), body := (m.drop 13).take (pf m 9 2), peer := peer }] } := by
  unfold State.mctpMessage
  rw [if_pos ⟨htype, hvendor⟩]
  dsimp only
  rw [pb_drop, pb_drop, pf_drop, List.drop_drop]
  by_cases hbusy : s.mgtBusy = true
  · rw [if_pos hbusy, if_pos (.inl hbusy), if_pos hbusy]
  · by_cases hkind : mgtKinds.contains (pb m 5) = true
    · rw [if_neg hbusy, if_neg (by rw [hkind]; decide), if_neg (by rw [hkind]; simpa using hbusy)]
    · rw [if_neg hbusy, if_pos (by rw [Bool.eq_false_iff.mpr hkind]; rfl), if_pos (.inr (Bool.eq_false_iff.mpr hkind)), if_neg hbusy]

theorem mctpMessage_control {m : Bytes} (htype : pb m 0 = 0) (peer : MctpPeer) :
    s.mctpMessage peer m = s.modMgt fun x => { x with peer := { peer with inst := pb m 1 % 32 } } :=
  (if_neg (by simp [htype])).trans (if_pos htype)

/-! ### Control messages -/

theorem ctrlSend_answers (h : s.mgt.vmgt = true) (code cc : Nat) (body : Bytes) : s.ctrlSend code cc body =
    s.mctpSend s.mgt.peer ([0, BitVec.ofNat 8 s.mgt.peer.inst, BitVec.ofNat 8 code, BitVec.ofNat 8 cc] ++ body) := if_pos h

theorem ctrlSend_absent (h : s.mgt.vmgt = false) (code cc : Nat) (body : Bytes) : s.ctrlSend code cc body = s := if_neg (by simp [h])

end

/-- Settles O58, by how packets make a message, by where a message goes, and by the answers to the control messages. -/
theorem managementMessagesAreAssembled : Obligations.ManagementMessagesAreAssembled := by
  have hanswer (s : State) (peer : MctpPeer) (bs : Bytes) : Only [.mgt] s (s.mctpSend peer bs) ∧
      (s.mctpSend peer bs).mgt = { s.mgt with sent := s.mctpOut peer bs ++ s.mgt.sent } := ⟨only_modMgt _ (Only.refl _ s) (by decide), rfl⟩
  refine ⟨?other, ?bad, ?foreign, ?long, ?galuholt, ?control, ?begins, ?goes, ?assigned, ?told, ?absent⟩
  case other =>
    intro p ok s h
    exact execMctpPacket_other h ok
  case bad =>
    intro p s hs h
    exact ⟨_, execMctpPacket_bad h, counts_count hs _ _⟩
  case foreign =>
    intro p s h
    cases hmine : s.mctpMine p with
    | true => exact (execMctpPacket_good hmine).trans (congrArg Host.Outcome.next (mctpIn_other h))
    | false => exact execMctpPacket_other hmine true
  case long =>
    intro p s hs htakes hlen
    exact ⟨_, (execMctpPacket_good htakes.1).trans (congrArg Host.Outcome.next (mctpIn_long htakes hlen)), rfl,
      only_count _ _ _ (only_modMgt _ (Only.refl _ s) (by decide)) (by decide),
      counted_of_regs (t := s.modMgt fun m => { m with asm := none }) hs rfl .mgtAsmErrCnt 0⟩
  case galuholt =>
    intro p s htakes hlen hfirst hlast hasm htype hvendor
    have hmessage := mctpMessage_galuholt (s := s) (m := p.drop 8) (by rw [pb_drop]; exact htype) (by rw [List.drop_drop]; exact hvendor) (mctpFrom p)
    rw [pb_drop, pb_drop, pf_drop, List.drop_drop] at hmessage
    refine ⟨_, (execMctpPacket_good htakes.1).trans (congrArg Host.Outcome.next ((mctpIn_whole htakes hlen hfirst hlast hasm).trans hmessage)), ?_⟩
    split
    · exact hanswer s _ _
    · exact ⟨only_modMgt _ (Only.refl _ s) (by decide), rfl⟩
  case control =>
    intro p s htakes hpos hlen hfirst hlast hasm htype
    have hmessage := mctpMessage_control (s := s) (m := p.drop 8) (by rw [pb_drop]; exact htype) (mctpFrom p)
    rw [pb_drop] at hmessage
    exact ⟨_, (execMctpPacket_good htakes.1).trans (congrArg Host.Outcome.next ((mctpIn_whole htakes hlen hfirst hlast hasm).trans hmessage)),
      only_modMgt _ (Only.refl _ s) (by decide), rfl⟩
  case begins =>
    intro p s htakes hlen hfirst hlast hasm
    exact ⟨_, (execMctpPacket_good htakes.1).trans (congrArg Host.Outcome.next (mctpIn_begins htakes hlen hfirst hlast hasm)),
      only_modMgt _ (Only.refl _ s) (by decide), rfl⟩
  case goes =>
    intro p a s hs htakes hlen hfirst hlast hasm hpeer
    refine ⟨_, (execMctpPacket_good htakes.1).trans (congrArg Host.Outcome.next (mctpIn_goes htakes hlen hfirst hlast hasm hpeer)), ?_⟩
    split
    · exact ⟨rfl, only_modMgt _ (Only.refl _ s) (by decide)⟩
    · exact ⟨rfl, counted_of_regs (t := s.modMgt fun m => { m with asm := none }) hs rfl .mgtAsmErrCnt 0⟩
  case assigned =>
    intro eid s hvmgt
    by_cases heid : eid = 0 ∨ eid = 255
    · refine ⟨_, (if_pos (by tauto)).trans (congrArg Host.Outcome.next (ctrlSend_answers hvmgt 1 2 [])), ?_⟩
      beta_reduce
      rw [if_pos heid]
      exact hanswer s _ _
    · have hset : (s.modMgt fun m => { m with eid := eid }).mgt.vmgt = true := hvmgt
      refine ⟨_, (if_neg (by simp only [hvmgt]; tauto)).trans (congrArg Host.Outcome.next (ctrlSend_answers hset 1 0 [0, eid, 0])), ?_⟩
      beta_reduce
      rw [if_neg heid]
      exact ⟨only_modMgt _ (only_modMgt _ (Only.refl _ s) (by decide)) (by decide), rfl, rfl⟩
  case told =>
    intro m c s hvmgt hc
    simp only [List.mem_cons, Prod.mk.injEq, List.not_mem_nil, or_false] at hc
    rcases hc with ⟨rfl, rfl⟩ | ⟨rfl, rfl⟩ | ⟨rfl, rfl⟩ | ⟨rfl, rfl⟩
    · exact ⟨_, congrArg Host.Outcome.next (ctrlSend_answers hvmgt 2 0 [s.mgt.eid, 0, 0]), hanswer s _ _⟩
    · exact ⟨_, congrArg Host.Outcome.next (ctrlSend_answers hvmgt 4 0 _), hanswer s _ _⟩
    · exact ⟨_, congrArg Host.Outcome.next (ctrlSend_answers hvmgt 5 0 _), hanswer s _ _⟩
    · exact ⟨_, congrArg Host.Outcome.next (ctrlSend_answers hvmgt 6 0 _), hanswer s _ _⟩
  case absent =>
    intro eid s hvmgt
    exact ⟨(if_pos (.inr (.inr hvmgt))).trans (congrArg Host.Outcome.next (ctrlSend_absent hvmgt 1 2 [])),
      congrArg Host.Outcome.next (ctrlSend_absent hvmgt 2 0 _), congrArg Host.Outcome.next (ctrlSend_absent hvmgt 4 0 _),
      congrArg Host.Outcome.next (ctrlSend_absent hvmgt 5 0 _), congrArg Host.Outcome.next (ctrlSend_absent hvmgt 6 0 _)⟩

end Sys2Proof.Machine
end

section
/-! Queries and commands of the management port (R455 to R458, Tables MGT-2 and MGT-3). -/

-- The proofs are elaborated one after the other: this bounds the threads of the compiler, whose stacks count as its memory.
set_option Elab.async false

namespace Sys2Proof.Machine

/-! ### Queries -/

section
variable {s : State} {kind : Nat} {req : Byte} {act : State → State} {body : State → Bytes}

theorem query_absent (h : s.mgt.vmgt = false) : s.query kind req act body = s := if_pos (by simp [h])

/-- A query that is answered with its body has acted. -/
theorem query_open (hvmgt : s.mgt.vmgt = true) (h : s.answers kind req = true) : s.query kind req act body =
    (act (s.takeMsg kind req)).mgtSend (s.msgPeer kind req) kind req 0 (body (s.takeMsg kind req)) := by
  simp only [State.answers, Bool.and_eq_true, Bool.not_eq_true'] at h
  have hopen : (s.takeMsg kind req).kindOpen kind = s.kindOpen kind := rfl
  exact (if_neg (by simp [hvmgt])).trans ((if_neg (by simp [h.1])).trans (if_neg (by simp [hopen, h.2])))

/-- One that is not has not. -/
theorem query_shut (hvmgt : s.mgt.vmgt = true) (h : s.answers kind req = false) : s.query kind req act body =
    (s.takeMsg kind req).mgtSend (s.msgPeer kind req) kind req (if (s.takeMsg kind req).mgtBusy then 1 else 3) [] := by
  have hopen : (s.takeMsg kind req).kindOpen kind = s.kindOpen kind := rfl
  simp only [State.answers, Bool.and_eq_false_iff, Bool.not_eq_false'] at h
  refine (if_neg (by simp [hvmgt])).trans ?_
  dsimp only
  by_cases hbusy : (s.takeMsg kind req).mgtBusy = true
  · rw [if_pos hbusy, if_pos hbusy]
  · rw [if_neg hbusy, if_neg hbusy, if_pos (by simpa [hopen, hbusy] using h)]

/-- R455: how a query is answered, where its action leaves the port alone. -/
theorem query_asked (hvmgt : s.mgt.vmgt = true) {b : Bytes} {also : List Part} (hbody : body (s.takeMsg kind req) = b)
    (hact : ∀ u, Only (.mgt :: also) u (act u) ∧ (act u).live = u.live ∧ (act u).mgt.inbox = u.mgt.inbox ∧ (act u).mgt.sent = u.mgt.sent ∧
      (act u).mgt.eid = u.mgt.eid) : Asked kind req b also s (s.query kind req act body) := by
  have htake : Only (.mgt :: also) s (s.takeMsg kind req) := only_modMgt _ (Only.refl _ s) (List.mem_cons_self ..)
  cases hans : s.answers kind req with
  | true =>
    obtain ⟨honly, hlive, hinbox, hsent, heid⟩ := hact (s.takeMsg kind req)
    rw [query_open hvmgt hans, hbody]
    simp only [State.answers, Bool.and_eq_true, Bool.not_eq_true'] at hans
    have hout (peer : MctpPeer) (bs : Bytes) : (act (s.takeMsg kind req)).mctpOut peer bs = s.mctpOut peer bs := by
      rw [State.mctpOut, State.lv, hlive, heid]
      rfl
    refine ⟨hinbox, only_modMgt _ (htake.trans honly fun _ hp => hp) (List.mem_cons_self ..), ?_⟩
    rw [if_neg (by simp [hans.1]), if_neg (by simp [hans.2]), ← hout]
    exact congrArg ((act (s.takeMsg kind req)).mctpOut (s.msgPeer kind req) (mgtReply kind req 0 b) ++ ·) hsent
  | false =>
    rw [query_shut hvmgt hans]
    refine ⟨rfl, only_modMgt _ htake (List.mem_cons_self ..), ?_⟩
    simp only [State.answers, Bool.and_eq_false_iff, Bool.not_eq_false'] at hans
    by_cases hbusy : (s.takeMsg kind req).mgtBusy = true
    · rw [if_pos hbusy, if_pos hbusy]
      rfl
    · rw [if_neg hbusy, if_neg hbusy, if_pos (by simpa [hbusy] using hans)]
      rfl

end

/-! ### PUT_BLOCK -/

theorem putBlock_dram {s : State} (hs : cellsRise s.dram) (b : Bytes) (x : Nat) : cellsRead memDefault (s.putBlock b).dram x =
    if pf b 0 4 % 1024 = 0 ∧ b.length ≤ 1032 ∧ pf b 0 4 + (b.length - 8) ≤ 8388608 ∧ recBase + pf b 0 4 ≤ x ∧
        x < recBase + pf b 0 4 + (b.length - 8)
    then lget b (8 + (x - (recBase + pf b 0 4))) 0 else cellsRead memDefault s.dram x := by
  have hlen : (b.drop 8).length = b.length - 8 := List.length_drop ..
  have hget (i : Nat) : lget (b.drop 8) i 0 = lget b (8 + i) 0 := by simp [lget]
  unfold State.putBlock
  dsimp only
  rw [hlen]
  generalize recBase = base
  split
  next h =>
    have hmem := cellsRead_memWrite s.dram hs (base + pf b 0 4) x (b.drop 8)
    rw [hlen, hget] at hmem
    refine hmem.trans ?_
    by_cases hx : base + pf b 0 4 ≤ x ∧ x < base + pf b 0 4 + (b.length - 8)
    · rw [if_pos hx, if_pos ⟨h.1, by omega, h.2.2.2, hx⟩]
    · rw [if_neg hx, if_neg (fun h' => hx h'.2.2.2)]
  next h => rw [if_neg (by omega)]

/-! ### COMMAND -/

section
variable {s : State} {c : Src}

/-- R456: a command of the port that is refused is answered in a message. -/
theorem refuse_port {m : MgtCmd} (hpair : s.pair = false) (hring : c.ring.val = 128) (hcmd : s.mgt.cmd = some m) (hsrc : m.cmd.src = c)
    (op : Nat) (st : Status) (d : Nat) : s.refuse c op st d = s.mgtAnswer m (cqEntry c op st d 0 0 true) st := by
  refine (if_neg (by simp [hpair])).trans ((if_pos hring).trans ?_)
  have hfilter : s.mgt.cmd.filter (fun x => sameSrc x.cmd.src c) = some m := by
    rw [hcmd, Option.filter_some, if_pos (by simp [sameSrc, hsrc])]
  rw [hfilter]

theorem mgtAnswer_effect (s : State) (m : MgtCmd) (entry : Bytes) (st : Status) : Only [.mgt, .regs] s (s.mgtAnswer m entry st) ∧
    (s.mgtAnswer m entry st).mgt =
      { s.mgt with sent := s.mctpOut m.peer (mgtReply 0x10 m.reqId 0 (entry ++ s.mgt.tail)) ++ s.mgt.sent, cmd := none, tail := [] } := by
  have hanswered : Only [.mgt, .regs] s (((s.mctpSend m.peer (mgtReply 0x10 m.reqId 0 (entry ++ s.mgt.tail))).modMgt fun m =>
      { m with cmd := none, tail := [] }).count .mgtCmdCnt) :=
    only_count _ _ _ (only_modMgt _ (only_modMgt _ (Only.refl _ s) (by decide)) (by decide)) (by decide)
  unfold State.mgtAnswer
  dsimp only
  split
  · exact ⟨only_count _ _ _ hanswered (by decide), rfl⟩
  · exact ⟨hanswered, rfl⟩

/-! ### An accepted command -/

theorem vset_vset {α : Type} {n : Nat} (v : Vector α n) (i : Nat) (x y : α) : vset (vset v i x) i y = vset v i y := by
  unfold vset
  exact Vector.setIfInBounds_setIfInBounds _

theorem setLastSeq_port (s : State) (v : DWord) : s.setLastSeq 128 v = s.modRep 128 fun x => { x with lastSeq := v } := by
  unfold State.setLastSeq
  dsimp only
  rw [if_neg (show ¬ (128 : Nat) < 128 by decide)]

theorem modRep_replay (s : State) (f : Replay → Replay) : (s.modRep 128 f).sec.replay = vset s.sec.replay 128 (f (s.rep 128)) ∧
    (s.modRep 128 f).rep 128 = f (s.rep 128) := ⟨rfl, rep_modRep_same (by decide) s f⟩

/-- R346, R350: what acceptance sets in the replay state of ring 128. -/
theorem seqTaken_port (s : State) (seq : DWord) (op : Nat) (p : Bytes) : Only [.free, .regs, .sec] s (s.seqTaken 128 seq op p) ∧
    (s.seqTaken 128 seq op p).sec.replay = vset s.sec.replay 128 (s.mgtReplay op seq p) := by
  refine ⟨only_seqTaken _ _ _ _ _ (Only.refl _ s) (by decide) (by decide) (by decide), ?_⟩
  have hlast := modRep_replay s fun x => { x with lastSeq := seq }
  have hfree : (s.modRep 128 fun x => { x with lastSeq := seq }).draw.1 = s.free := rfl
  have hdrawn : (s.modRep 128 fun x => { x with lastSeq := seq }).draw.2.sec = (s.modRep 128 fun x => { x with lastSeq := seq }).sec := rfl
  have hplain : s.setLastSeq (128 : Fin 129).val seq = _ := setLastSeq_port s seq
  rw [State.seqTaken, hplain]
  generalize (s.modRep 128 fun x => { x with lastSeq := seq }) = u at *
  obtain ⟨hreplay, hrep⟩ := hlast
  unfold State.mgtReplay
  split
  next hop =>
    obtain ⟨hreplay', hrep'⟩ := modRep_replay u.draw.2 fun r =>
      { r with epoch := BitVec.ofNat 32 (pf p 4 4), floorUnset := false, nonce := Config.drbg128 u.draw.1 }
    have hdrep : u.draw.2.rep 128 = u.rep 128 := rfl
    have hgrant : u.grantTaken (128 : Fin 129).val seq p = (u.draw.2.modRep 128 fun r =>
        { r with epoch := BitVec.ofNat 32 (pf p 4 4), floorUnset := false, nonce := Config.drbg128 u.draw.1 }).modRep 128 fun x =>
          { x with lastSeq := BitVec.ofNat 64 (max (max seq.toNat (u.rep 128).lastSeq.toNat) (pf p 24 8)) } := setLastSeq_port _ _
    rw [hgrant]
    generalize (u.draw.2.modRep 128 fun r =>
        { r with epoch := BitVec.ofNat 32 (pf p 4 4), floorUnset := false, nonce := Config.drbg128 u.draw.1 }) = w at *
    rw [(modRep_replay w _).1, hreplay', vset_vset, hrep', hdrep, hrep, hdrawn, hreplay, vset_vset, hfree, max_self]
  next hop => exact hreplay

/-- The port has a COMMAND message in hand. -/
def State.commandNoted (s : State) (peer : MctpPeer) (req : Byte) (b : Bytes) : State :=
  s.modMgt fun m => { m with cmd := some { reqId := req, peer := peer, cmd :=
    { src := mgtSrc (mgtParts b).1, opcode := pf (mgtParts b).1 0 2, payload := (mgtParts b).2.1, at_ := s.now } } }

/-- What becomes of the COMMAND message in hand. -/
def State.commandJudged (s : State) (c : Src) (d p sig : Bytes) : State :=
  match s.mgtDescRefusal d p with
  | some (st, x) => s.refuse c (pf d 0 2) st x
  | none =>
    if !s.opOpen (pf d 0 2) p then s.refuse c (pf d 0 2) .error 0x80000030
    else match s.mgtAuth d p sig with
      | some x => s.refuse c (pf d 0 2) .authFail x
      | none =>
        match s.replayRefusal 128 c.seq c.applyAt (pf d 0 2) p with
        | some (st, x) => s.refuse c (pf d 0 2) st x
        | none =>
          if s.ops.st = .halted ∧ pf d 0 2 = 0x0204 then s.refuse c (pf d 0 2) .error 5
          else if mirroredAtPlace (pf d 0 2) then (s.seqTaken 128 c.seq (pf d 0 2) p).mirror c (pf d 0 2) p 0
            else s.seqTaken 128 c.seq (pf d 0 2) p

theorem mgtCommand_eq (peer : MctpPeer) (req : Byte) {b d p sig : Bytes} (hparts : mgtParts b = (d, p, sig)) :
    s.mgtCommand peer req b = (s.commandNoted peer req b).commandJudged (mgtSrc d) d p sig := by
  unfold State.commandNoted
  rw [hparts]
  unfold mgtParts at hparts
  simp only [Prod.mk.injEq] at hparts
  obtain ⟨rfl, rfl, rfl⟩ := hparts
  rfl

theorem commandJudged_refused {b d p sig : Bytes} (hparts : mgtParts b = (d, p, sig)) {st : Status} {x : Nat}
    (h : s.mgtRefusal b = some (st, x)) : s.commandJudged (mgtSrc d) d p sig = s.refuse (mgtSrc d) (pf d 0 2) st x := by
  unfold State.mgtRefusal at h
  rw [hparts] at h
  unfold State.commandJudged
  dsimp only at h ⊢
  cases hdesc : s.mgtDescRefusal d p with
  | some y =>
    simp only [hdesc, Option.some.injEq] at h
    rw [h]
  | none =>
    simp only [hdesc] at h ⊢
    cases hopen : s.opOpen (pf d 0 2) p with
    | false =>
      simp only [hopen, if_true, Option.some.injEq, Prod.mk.injEq] at h
      rw [← h.1, ← h.2]
      exact if_pos rfl
    | true =>
      simp only [hopen, Bool.true_eq_false, if_false, Bool.not_true, Bool.false_eq_true] at h ⊢
      cases hauth : s.mgtAuth d p sig with
      | some y =>
        simp only [hauth, Option.some.injEq, Prod.mk.injEq] at h
        rw [← h.1, ← h.2]
      | none =>
        simp only [hauth] at h ⊢
        rw [h]

theorem commandJudged_accepted {b d p sig : Bytes} (hparts : mgtParts b = (d, p, sig)) (h : s.mgtRefusal b = none) (hpair : s.pair = false)
    (hst : s.ops.st ≠ .halted) : s.commandJudged (mgtSrc d) d p sig = s.seqTaken 128 (mgtSrc d).seq (pf d 0 2) p := by
  unfold State.mgtRefusal at h
  rw [hparts] at h
  unfold State.commandJudged
  dsimp only at h ⊢
  cases hdesc : s.mgtDescRefusal d p with
  | some y => simp [hdesc] at h
  | none =>
    simp only [hdesc] at h ⊢
    cases hopen : s.opOpen (pf d 0 2) p with
    | false => simp [hopen] at h
    | true =>
      simp only [hopen, Bool.true_eq_false, if_false, Bool.not_true, Bool.false_eq_true] at h ⊢
      cases hauth : s.mgtAuth d p sig with
      | some y => simp [hauth] at h
      | none =>
        simp only [hauth] at h ⊢
        rw [h]
        have hlive : (s.seqTaken 128 (mgtSrc d).seq (pf d 0 2) p).pair = false :=
          (pair_congr (seqTaken_port s (mgtSrc d).seq (pf d 0 2) p).1.keeps_live).trans hpair
        simp only [hst, false_and, if_false, mirror_alone hlive, ite_self]

end

end Sys2Proof.Machine
end

section
/-! The statement about queries and commands of the management port (R455 to R458, Tables MGT-2 and MGT-3). -/

-- The proofs are elaborated one after the other: this bounds the threads of the compiler, whose stacks count as its memory.
set_option Elab.async false

namespace Sys2Proof.Machine

section
variable {s : State} {q : Byte} {b : Bytes}

theorem execCommand_stays (h : s.mgt.vmgt = false ∨ s.ops.st = .stopping ∧ s.ops.cause = 0x11) : execCommand q b s = .next s :=
  if_pos (by rcases h with h | ⟨h, h'⟩ <;> simp [*])

theorem execCommand_hears (hvmgt : s.mgt.vmgt = true) (hst : s.ops.st ≠ .stopping ∨ s.ops.cause ≠ 0x11) : execCommand q b s =
    if (s.takeMsg 0x10 q).mgtBusy then .next ((s.takeMsg 0x10 q).mgtSend (s.msgPeer 0x10 q) 0x10 q 1 [])
    else .next ((s.takeMsg 0x10 q).mgtCommand (s.msgPeer 0x10 q) q b) :=
  if_neg (by rcases hst with h | h <;> simp [hvmgt, h])

/-- R456: the answer to a COMMAND message, or its acceptance. -/
theorem command_effect {d p sig : Bytes} (hvmgt : s.mgt.vmgt = true) (hbusy : (s.takeMsg 0x10 q).mgtBusy = false)
    (hpair : s.pair = false) (hparts : mgtParts b = (d, p, sig)) (hst : s.ops.st ≠ .halted) (hstop : s.ops.st ≠ .stopping ∨ s.ops.cause ≠ 0x11) :
    Completes (.command q b) s fun t => HostSame s t ∧
      match s.mgtRefusal b with
      | some (st, x) => t.sec = s.sec ∧ t.mgt.cmd = none ∧ ∃ tail, t.mgt.sent = s.mctpOut (s.msgPeer 0x10 q)
          (mgtReply 0x10 q 0 (cqEntry (mgtSrc d) (pf d 0 2) st x 0 0 true ++ tail)) ++ s.mgt.sent
      | none => t.sec.replay = vset s.sec.replay 128 (s.mgtReplay (pf d 0 2) (mgtSrc d).seq p) ∧ t.mgt.sent = s.mgt.sent
          ∧ t.mgt.cmd = some { reqId := q, peer := s.msgPeer 0x10 q, cmd := { src := mgtSrc d, opcode := pf d 0 2, payload := p, at_ := s.now } } := by
  have hexec : exec (.command q b) s = .next ((s.takeMsg 0x10 q).mgtCommand (s.msgPeer 0x10 q) q b) :=
    (execCommand_hears hvmgt hstop).trans (if_neg (by simp [hbusy]))
  rw [mgtCommand_eq _ _ hparts] at hexec
  have hchecks : ((s.takeMsg 0x10 q).commandNoted (s.msgPeer 0x10 q) q b).mgtRefusal b = s.mgtRefusal b := rfl
  have hcmd : ((s.takeMsg 0x10 q).commandNoted (s.msgPeer 0x10 q) q b).mgt.cmd =
      some { reqId := q, peer := s.msgPeer 0x10 q, cmd := { src := mgtSrc d, opcode := pf d 0 2, payload := p, at_ := s.now } } := by
    unfold State.commandNoted
    rw [hparts]
    rfl
  have honly : Only [.mgt] s ((s.takeMsg 0x10 q).commandNoted (s.msgPeer 0x10 q) q b) :=
    only_modMgt _ (only_modMgt _ (Only.refl _ s) (by decide)) (by decide)
  have hfields : ((s.takeMsg 0x10 q).commandNoted (s.msgPeer 0x10 q) q b).mgt.sent = s.mgt.sent ∧
      (∀ peer bs, ((s.takeMsg 0x10 q).commandNoted (s.msgPeer 0x10 q) q b).mctpOut peer bs = s.mctpOut peer bs) ∧
      (∀ op seq p, ((s.takeMsg 0x10 q).commandNoted (s.msgPeer 0x10 q) q b).mgtReplay op seq p = s.mgtReplay op seq p) :=
    ⟨rfl, fun _ _ => rfl, fun _ _ _ => rfl⟩
  generalize (s.takeMsg 0x10 q).commandNoted (s.msgPeer 0x10 q) q b = v at *
  obtain ⟨hsent, hout, hreplay⟩ := hfields
  have hvpair : v.pair = false := (pair_congr honly.keeps_live).trans hpair
  rw [← hchecks]
  cases hrefusal : v.mgtRefusal b with
  | some y =>
    rw [commandJudged_refused hparts hrefusal, refuse_port hvpair rfl hcmd rfl] at hexec
    obtain ⟨hanswer, hmgt⟩ := mgtAnswer_effect v { reqId := q, peer := s.msgPeer 0x10 q, cmd :=
      { src := mgtSrc d, opcode := pf d 0 2, payload := p, at_ := s.now } } (cqEntry (mgtSrc d) (pf d 0 2) y.1 y.2 0 0 true) y.1
    refine ⟨_, hexec, fun x => by rw [hanswer.keeps_host, honly.keeps_host], ?_, ?_, v.mgt.tail, ?_⟩
    · rw [hanswer.keeps_sec, honly.keeps_sec]
    · rw [hmgt]
    · rw [hmgt, ← hsent, ← hout]
  | none =>
    rw [commandJudged_accepted hparts hrefusal hvpair (by rw [honly.keeps_ops]; exact hst)] at hexec
    obtain ⟨htaken, hset⟩ := seqTaken_port v (mgtSrc d).seq (pf d 0 2) p
    refine ⟨_, hexec, fun x => by rw [htaken.keeps_host, honly.keeps_host], ?_, ?_, ?_⟩
    · rw [hset, hreplay, honly.keeps_sec]
    · rw [htaken.keeps_mgt, hsent]
    · rw [htaken.keeps_mgt, hcmd]

end

/-- Settles O59, by how a query is answered, and by the checks of a command of the port. -/
theorem queriesAndPortCommandsAreAnswered : Obligations.QueriesAndPortCommandsAreAnswered := by
  have hplain {also : List Part} (u : State) : Only (.mgt :: also) u (id u) ∧ (id u).live = u.live ∧ (id u).mgt.inbox = u.mgt.inbox ∧
      (id u).mgt.sent = u.mgt.sent ∧ (id u).mgt.eid = u.mgt.eid := ⟨Only.refl _ u, rfl, rfl, rfl, rfl⟩
  refine ⟨?status, ?log, ?slots, ?replay, ?identity, ?block, ?absent, ?stopping, ?busy, ?command⟩
  case status =>
    intro q s hvmgt
    refine ⟨_, rfl, query_asked hvmgt rfl fun u => ⟨only_modMgt _ (Only.refl _ u) (by decide), rfl, rfl, rfl, rfl⟩, fun hans => ?_⟩
    rw [query_open hvmgt hans]
    rfl
  case log =>
    intro q b s hvmgt
    refine ⟨_, rfl, query_asked hvmgt ?_ fun u => ?_⟩
    · rw [logFrom_congr (logHeld_congr (s := s) (t := s.takeMsg 2 q) rfl)]
    · have honly := only_nandTurn_log u
      exact ⟨honly.mono (by decide), honly.keeps_live, by rw [honly.keeps_mgt], by rw [honly.keeps_mgt], by rw [honly.keeps_mgt]⟩
  case slots =>
    intro q s hvmgt
    exact ⟨_, rfl, query_asked hvmgt rfl hplain⟩
  case replay =>
    intro q s hvmgt
    exact ⟨_, rfl, query_asked hvmgt rfl hplain⟩
  case identity =>
    intro q b s hvmgt
    exact ⟨_, rfl, query_asked hvmgt rfl hplain⟩
  case block =>
    intro q b s hs hvmgt
    have hact (u : State) : Only [.mgt, .dram] u (u.putBlock b) ∧ (u.putBlock b).live = u.live ∧ (u.putBlock b).mgt.inbox = u.mgt.inbox ∧
        (u.putBlock b).mgt.sent = u.mgt.sent ∧ (u.putBlock b).mgt.eid = u.mgt.eid := by
      obtain ⟨d, hd⟩ : ∃ d, u.putBlock b = { u with dram := d } := by
        unfold State.putBlock
        dsimp only
        split
        · exact ⟨_, rfl⟩
        · exact ⟨u.dram, rfl⟩
      refine ⟨only_putBlock u b (Only.refl _ u) (by decide) (by decide), ?_⟩
      rw [hd]
      exact ⟨rfl, rfl, rfl, rfl⟩
    refine ⟨_, rfl, query_asked hvmgt rfl hact, fun x => ?_⟩
    obtain ⟨-, hdram, -⟩ := hs
    cases hans : s.answers 4 q with
    | true =>
      rw [query_open hvmgt hans]
      have hput := putBlock_dram (s := s.takeMsg 4 q) (cellsWf_iff.mp hdram).1 b x
      simp only [true_and]
      exact hput
    | false =>
      rw [query_shut hvmgt hans]
      exact (if_neg fun h => Bool.false_ne_true h.1).symm
  case absent =>
    intro q b s hvmgt
    exact ⟨congrArg Host.Outcome.next (query_absent hvmgt), congrArg Host.Outcome.next (query_absent hvmgt),
      congrArg Host.Outcome.next (query_absent hvmgt), congrArg Host.Outcome.next (query_absent hvmgt),
      congrArg Host.Outcome.next (query_absent hvmgt), congrArg Host.Outcome.next (query_absent hvmgt), execCommand_stays (.inl hvmgt)⟩
  case stopping =>
    intro q b s hst hcause
    exact execCommand_stays (.inr ⟨hst, hcause⟩)
  case busy =>
    intro q b s hvmgt hst hbusy
    exact ⟨_, (execCommand_hears hvmgt hst).trans (if_pos hbusy), rfl, only_modMgt _ (only_modMgt _ (Only.refl _ s) (by decide)) (by decide), rfl⟩
  case command =>
    intro q b d p sig s hs hvmgt hbusy hpair hparts hst hstop
    exact command_effect hvmgt hbusy hpair hparts hst hstop

end Sys2Proof.Machine
end

section
/-! The DMA channels: what their operations read of the configuration and what each of them makes of its channel (R410 to R415). -/

-- The proofs are elaborated one after the other: this bounds the threads of the compiler, whose stacks count as its memory.
set_option Elab.async false

namespace Sys2Proof.Machine

@[simp] theorem dmaN_modDma (s : State) (n : Fin 32) (f : DmaChan → DmaChan) : (s.modDma n f).dmaN n = f (s.dmaN n) :=
  vget_vset_same _ _ _ _ n.isLt

theorem dmaN_of_dma {s t : State} (h : t.dma = s.dma) (n : Nat) : t.dmaN n = s.dmaN n := by rw [State.dmaN, h, State.dmaN]

/-! ### What a channel reads of its configuration -/

/-- The configuration and the ring of channel `n` stand in `t` as in `s`. -/
structure SameRing (n : Fin 32) (s t : State) : Prop where
  live : t.live = s.live
  base : t.reg .dmaDescBase n = s.reg .dmaDescBase n
  cfg  : t.reg .dmaDescCfg n = s.reg .dmaDescCfg n
  tail : t.reg .dmaDescTail n = s.reg .dmaDescTail n

namespace SameRing
variable {n : Fin 32} {s t u : State}

theorem refl (n : Fin 32) (s : State) : SameRing n s s := ⟨rfl, rfl, rfl, rfl⟩

theorem trans (h : SameRing n s t) (h' : SameRing n t u) : SameRing n s u :=
  ⟨h'.live.trans h.live, h'.base.trans h.base, h'.cfg.trans h.cfg, h'.tail.trans h.tail⟩

theorem of_parts (hlive : t.live = s.live) (hregs : t.regs = s.regs) : SameRing n s t := by
  constructor
  · exact hlive
  all_goals rw [State.reg, hregs, State.reg]

theorem of_only {ps : List Part} (h : Only ps s t) (hlive : Part.live ∉ ps) (hregs : Part.regs ∉ ps) : SameRing n s t :=
  of_parts (h _ hlive) (h _ hregs)

/-- A counter that is none of the ring's registers counts. -/
theorem of_count (hs : cellsRise s.regs) {r : Reg} {i : Nat} (hbase : regAddr .dmaDescBase n 0 ≠ regAddr r i 0)
    (hcfg : regAddr .dmaDescCfg n 0 ≠ regAddr r i 0) (htail : regAddr .dmaDescTail n 0 ≠ regAddr r i 0) (k : Nat) :
    SameRing n s (s.count r i k) :=
  ⟨rfl, reg_setReg_ne hs _ hbase, reg_setReg_ne hs _ hcfg, reg_setReg_ne hs _ htail⟩

section
variable (h : SameRing n s t)
include h

theorem field (hi lo : Nat) : t.lv .dmaChCfg n 0 hi lo = s.lv .dmaChCfg n 0 hi lo := by rw [State.lv, h.live, State.lv]
theorem queue : t.dmaQueue n = s.dmaQueue n := h.field 3 0
theorem depth : t.dmaDepth n = s.dmaDepth n := by rw [State.dmaDepth, h.cfg, State.dmaDepth]
theorem ringDram : t.dmaRingDram n = s.dmaRingDram n := by rw [State.dmaRingDram, h.cfg, State.dmaRingDram]
theorem tailAt : t.dmaTail n = s.dmaTail n := by rw [State.dmaTail, h.tail, State.dmaTail]
end

end SameRing

/-! ### Reports, and the head -/

/-- Where the status of the descriptor at the head goes. -/
def State.statusAt (s : State) (n : Nat) : Nat := (s.reg .dmaDescBase n).toNat + 32 * (s.dmaN n).head + 24

/-- The status bytes `bs` of the descriptor at the head stand where its ring is, and nothing else of host memory and DRAM has changed. -/
def StatusWritten (n : Fin 32) (bs : Bytes) (s t : State) : Prop :=
  if s.dmaRingDram n = true then t.dram = memWrite s.dram (s.statusAt n) bs ∧ t.host = s.host
  else t.host = memWrite s.host (s.statusAt n) bs ∧ t.dram = s.dram

theorem StatusWritten.congr {n : Fin 32} {bs : Bytes} {s t u : State} (h : StatusWritten n bs s t) (hdram : u.dram = t.dram)
    (hhost : u.host = t.host) : StatusWritten n bs s u := by
  unfold StatusWritten at *
  rwa [hdram, hhost]

theorem StatusWritten.from {n : Fin 32} {bs : Bytes} {s t u : State} (h : StatusWritten n bs t u) (hring : SameRing n s t)
    (hhead : (t.dmaN n).head = (s.dmaN n).head) (hdram : t.dram = s.dram) (hhost : t.host = s.host) : StatusWritten n bs s u := by
  unfold StatusWritten State.statusAt at *
  rwa [hring.ringDram, hring.base, hhead, hdram, hhost] at h

/-- Host memory and DRAM after bytes written into the one of them that `dram` says. -/
theorem StatusWritten.host {n : Fin 32} {bs : Bytes} {s t : State} (hring : s.dmaRingDram n = false) (h : StatusWritten n bs s t) :
    t.host = memWrite s.host (s.statusAt n) bs ∧ t.dram = s.dram := by
  rwa [StatusWritten, if_neg (by rw [hring]; decide)] at h

theorem StatusWritten.dram {n : Fin 32} {bs : Bytes} {s t : State} (hring : s.dmaRingDram n = true) (h : StatusWritten n bs s t) :
    t.dram = memWrite s.dram (s.statusAt n) bs ∧ t.host = s.host := by
  rwa [StatusWritten, if_pos hring] at h

theorem hostTakes_of_memWrite {s t : State} (hs : s.storesCanonical) {a : Nat} {bs : Bytes} (h : t.host = memWrite s.host a bs) :
    HostTakes a bs s t := fun x => by rw [h, cellsRead_memWrite _ hs.hostRise]

theorem hostSame_of_host {s t : State} (h : t.host = s.host) : HostSame s t := fun x => by rw [h]

section
variable (s : State) (n : Fin 32)

/-- The status bytes `bs` go to the descriptor at the head. -/
def State.statusPut (bs : Bytes) : State :=
  if s.dmaRingDram n then { s with dram := memWrite s.dram (s.statusAt n) bs } else s.hostWrite (s.statusAt n) bs

theorem statusPut_effect (bs : Bytes) : StatusWritten n bs s (s.statusPut n bs) ∧ (s.statusPut n bs).dma = s.dma := by
  unfold StatusWritten State.statusPut
  cases s.dmaRingDram n <;> exact ⟨⟨rfl, rfl⟩, rfl⟩

/-- A channel's status with its code. -/
def State.statusKept (st : Status) (last : Bool) (bs : Bytes) : State :=
  (s.statusPut n bs).modDma n fun c => { c with code := st.code, lastBeat := last }

theorem dmaReport_eq (st : Status) (detail residue : Nat) (last irq : Bool) : ∃ v, s.dmaReport n st detail residue last irq =
    if irq then (s.statusKept n st last (leBytes 8 (dmaStatus st detail residue last))).raise v
    else s.statusKept n st last (leBytes 8 (dmaStatus st detail residue last)) := ⟨_, rfl⟩

/-- R411, R415: the status is written, and its code kept. -/
theorem dmaReport_effect (st : Status) (detail residue : Nat) (last irq : Bool) :
    (s.dmaReport n st detail residue last irq).dmaN n = { s.dmaN n with code := st.code, lastBeat := last } ∧
    StatusWritten n (leBytes 8 (dmaStatus st detail residue last)) s (s.dmaReport n st detail residue last irq) ∧
    SameRing n s (s.dmaReport n st detail residue last irq) ∧
    Only [.cmd, .dma, .dram, .host] s (s.dmaReport n st detail residue last irq) := by
  have honly := only_dmaReport s n st detail residue last irq (Only.refl [.cmd, .dma, .dram, .host] s) (by decide) (by decide) (by decide)
    (by decide)
  obtain ⟨v, heq⟩ := dmaReport_eq s n st detail residue last irq
  generalize leBytes 8 (dmaStatus st detail residue last) = bs at *
  have hcmd : Only [.cmd] (s.statusKept n st last bs) (s.dmaReport n st detail residue last irq) := by
    rw [heq]
    split
    · exact only_raise _ v (Only.refl _ _) (by decide)
    · exact Only.refl _ _
  obtain ⟨hput, hdma⟩ := statusPut_effect s n bs
  refine ⟨?_, hput.congr (hcmd .dram (by decide)) (hcmd .host (by decide)), .of_only honly (by decide) (by decide), honly⟩
  rw [dmaN_of_dma (hcmd .dma (by decide)), State.statusKept, dmaN_modDma, dmaN_of_dma hdma]

theorem dmaN_dmaNext : (s.dmaNext n).dmaN n =
    { s.dmaN n with head := ((s.dmaN n).head + 1) % s.dmaDepth n, desc := none, moved := 0 } := dmaN_modDma s n _

theorem dmaNext_effect : Only [.dma] s (s.dmaNext n) ∧ SameRing n s (s.dmaNext n) :=
  ⟨only_dmaNext s n (Only.refl _ s) (by decide), .of_parts rfl rfl⟩

theorem dmaSettle_effect : Only [.dma] s (s.dmaSettle n) ∧ SameRing n s (s.dmaSettle n) :=
  ⟨only_dmaSettle s n (Only.refl _ s) (by decide), .of_parts rfl rfl⟩

/-- Of a channel that is started, its state says whether it can move data (log 49). -/
theorem dmaN_dmaSettle (h : (s.dmaN n).st = .run ∨ (s.dmaN n).st = .wait) : (s.dmaSettle n).dmaN n =
    { s.dmaN n with st := if (s.dmaN n).desc.isSome && (s.dmaQueue n = 0 || (s.dmaN n).paced) then .run else .wait } :=
  (dmaN_modDma s n _).trans (if_pos h)

theorem dmaN_dmaSettle_other (hrun : (s.dmaN n).st ≠ .run) (hwait : (s.dmaN n).st ≠ .wait) : (s.dmaSettle n).dmaN n = s.dmaN n :=
  (dmaN_modDma s n _).trans (if_neg (by simp [hrun, hwait]))

/-- Whatever the state of a channel, settling it changes its state alone. -/
theorem dmaSettle_st : ∃ st, (s.dmaSettle n).dmaN n = { s.dmaN n with st := st } := by
  by_cases h : (s.dmaN n).st = .run ∨ (s.dmaN n).st = .wait
  · exact ⟨_, dmaN_dmaSettle s n h⟩
  · exact ⟨(s.dmaN n).st, dmaN_dmaSettle_other s n (fun e => h (.inl e)) fun e => h (.inr e)⟩

end

/-! ### The descriptor at the head -/

section
variable {s : State} {n : Fin 32} {b : Bytes}

theorem dmaLoad_stays (h : (s.dmaN n).desc.isSome = true ∨ (s.dmaN n).head = s.dmaTail n) : s.dmaLoad n b = s := if_pos h

/-- What taking a descriptor with the bytes `b` makes of channel `n`: its descriptor, or its status. -/
def Taken (n : Fin 32) (b : Bytes) (s t : State) : Prop :=
  match dmaRefusal (s.dmaQueue n) (dmaDescOf b) with
  | some (st, d) => t.dmaN n = { s.dmaN n with
        head := ((s.dmaN n).head + 1) % s.dmaDepth n, desc := none, moved := 0, code := st.code, lastBeat := false } ∧
      StatusWritten n (leBytes 8 (dmaStatus st d (dmaDescOf b).len false)) s t
  | none => t.dmaN n = { s.dmaN n with desc := some (dmaDescOf b), moved := 0 } ∧ t.dram = s.dram ∧ Only [.dma] s t

/-- The checks of a descriptor lead to its status, or to the descriptor taken. -/
def State.dmaTake (s : State) (n : Nat) (b : Bytes) : State :=
  match dmaRefusal (s.dmaQueue n) (dmaDescOf b) with
  | some (st, det) => (s.dmaReport n st det (dmaDescOf b).len false (dmaDescOf b).irq).dmaNext n
  | none => s.modDma n fun c => { c with desc := some (dmaDescOf b), moved := 0 }

/-- R411. -/
theorem taken_dmaTake (s : State) (n : Fin 32) (b : Bytes) : Taken n b s (s.dmaTake n b) := by
  unfold Taken State.dmaTake
  rcases dmaRefusal (s.dmaQueue n) (dmaDescOf b) with _ | ⟨st, det⟩
  · exact ⟨dmaN_modDma s n _, rfl, only_modDma n _ (Only.refl _ s) (by decide)⟩
  · obtain ⟨hchan, hstatus, hring, -⟩ := dmaReport_effect s n st det (dmaDescOf b).len false (dmaDescOf b).irq
    exact ⟨by beta_reduce; rw [dmaN_dmaNext, hchan, hring.depth], hstatus⟩

theorem dmaTake_ring (s : State) (n : Fin 32) (b : Bytes) : SameRing n s (s.dmaTake n b) := by
  unfold State.dmaTake
  rcases dmaRefusal (s.dmaQueue n) (dmaDescOf b) with _ | ⟨st, det⟩
  · exact .of_parts rfl rfl
  · obtain ⟨-, -, hring, -⟩ := dmaReport_effect s n st det (dmaDescOf b).len false (dmaDescOf b).irq
    exact hring.trans (dmaNext_effect _ n).2

theorem dmaLoad_host (hdesc : (s.dmaN n).desc = none) (hhead : (s.dmaN n).head ≠ s.dmaTail n) (hring : s.dmaRingDram n = false) :
    s.dmaLoad n b = s.dmaTake n b := by
  refine (if_neg (by simp [hdesc, hhead])).trans ?_
  simp only [hring, Bool.false_eq_true, if_false]
  rfl

/-- The registers of a channel's ring are neither of the two counters that a burst moves. -/
theorem ringAddr_ne (n : Fin 32) :
    (regAddr .dmaDescBase n 0 ≠ regAddr .dmaEccCnt 0 0 ∧ regAddr .dmaDescCfg n 0 ≠ regAddr .dmaEccCnt 0 0 ∧
      regAddr .dmaDescTail n 0 ≠ regAddr .dmaEccCnt 0 0) ∧
    regAddr .dmaDescBase n 0 ≠ regAddr .dmaBytes n 0 ∧ regAddr .dmaDescCfg n 0 ≠ regAddr .dmaBytes n 0 ∧
      regAddr .dmaDescTail n 0 ≠ regAddr .dmaBytes n 0 := by
  revert n
  decide

theorem eccRead_effect (hs : cellsRise s.regs) (n : Fin 32) : Only [.free, .regs] s s.eccRead ∧ SameRing n s s.eccRead := by
  obtain ⟨⟨hbase, hcfg, htail⟩, -⟩ := ringAddr_ne n
  have hdraw : SameRing n s s.draw.2 := .of_parts rfl rfl
  have hcount := SameRing.of_count (s := s.draw.2) hs hbase hcfg htail
  exact ⟨only_eccRead s (Only.refl _ s) (by decide) (by decide), hdraw.trans (hcount _)⟩

theorem dmaLoad_dram (hs : cellsRise s.regs) (hdesc : (s.dmaN n).desc = none) (hhead : (s.dmaN n).head ≠ s.dmaTail n)
    (hring : s.dmaRingDram n = true) :
    s.dmaLoad n b = s.eccRead.dmaTake n (memRead s.dram ((s.reg .dmaDescBase n).toNat + 32 * (s.dmaN n).head) 32) := by
  obtain ⟨-, hsame⟩ := eccRead_effect hs n
  refine (if_neg (by simp [hdesc, hhead])).trans ?_
  rw [if_pos hring, if_pos (hsame.ringDram.trans hring), hsame.base]
  rfl

end

end Sys2Proof.Machine
end

section
/-! DMA channels: START, tail writes, runs, aborts and failed accesses (R410, R411, R413 to R415). -/

-- The proofs are elaborated one after the other: this bounds the threads of the compiler, whose stacks count as its memory.
set_option Elab.async false

namespace Sys2Proof.Machine

section
variable {s : State} {n : Fin 32} {b : Bytes}

/-! ### START -/

/-- A channel that is started anew. -/
def State.dmaFresh (s : State) (n : Nat) : State :=
  s.modDma n fun c => { c with st := .wait, desc := none, moved := 0, paced := false, flush := false, lastBeat := false }

theorem dmaFresh_effect (s : State) (n : Fin 32) : SameRing n s (s.dmaFresh n) ∧ Only [.dma] s (s.dmaFresh n) ∧
    (s.dmaFresh n).dmaN n = { s.dmaN n with st := .wait, desc := none, moved := 0, paced := false, flush := false, lastBeat := false } :=
  ⟨.of_parts rfl rfl, only_modDma _ _ (Only.refl _ s) (by decide), dmaN_modDma s n _⟩

theorem dmaStart_stopped (h : (s.dmaN n).st = .idle ∨ (s.dmaN n).st = .error) : s.dmaStart n b = ((s.dmaFresh n).dmaLoad n b).dmaSettle n := by
  rcases h with h | h
  all_goals
    rw [State.dmaStart, h]
    rfl

theorem dmaStart_started (h : (s.dmaN n).st = .run ∨ (s.dmaN n).st = .wait) : s.dmaStart n b = s := by
  rcases h with h | h
  all_goals rw [State.dmaStart, h]

theorem dmaStart_aborting (h : (s.dmaN n).st = .aborting) :
    s.dmaStart n b = (s.modDma n fun c => { c with code := Status.busyStopping.code }).busyStop := by
  rw [State.dmaStart, h]

/-- A channel that is started with nothing in its ring waits. -/
theorem dmaStart_empty (h : (s.dmaN n).st = .idle ∨ (s.dmaN n).st = .error) (hhead : (s.dmaN n).head = s.dmaTail n) :
    (s.dmaStart n b).dmaN n =
      { s.dmaN n with st := .wait, desc := none, moved := 0, paced := false, flush := false, lastBeat := false } ∧
    Only [.dma] s (s.dmaStart n b) := by
  obtain ⟨hring, honly, hchan⟩ := dmaFresh_effect s n
  have hload : (s.dmaFresh n).dmaLoad n b = s.dmaFresh n := dmaLoad_stays (.inr (by rw [hchan, hring.tailAt]; exact hhead))
  rw [dmaStart_stopped h, hload]
  refine ⟨?_, only_dmaSettle _ _ honly (by decide)⟩
  rw [dmaN_dmaSettle _ _ (.inr (by rw [hchan])), hchan]
  rfl

/-- What a started channel is after its descriptor has been taken from the bytes `b`. -/
def Begun (n : Fin 32) (b : Bytes) (s t : State) : Prop :=
  match dmaRefusal (s.dmaQueue n) (dmaDescOf b) with
  | some (st, d) => (t.dmaN n).head = ((s.dmaN n).head + 1) % s.dmaDepth n ∧ (t.dmaN n).desc = none ∧ (t.dmaN n).code = st.code ∧
      (t.dmaN n).st = .wait ∧ StatusWritten n (leBytes 8 (dmaStatus st d (dmaDescOf b).len false)) s t
  | none => (t.dmaN n).head = (s.dmaN n).head ∧ (t.dmaN n).desc = some (dmaDescOf b) ∧ (t.dmaN n).moved = 0 ∧
      (t.dmaN n).st = (if s.dmaQueue n = 0 then .run else .wait) ∧ t.dram = s.dram

/-- A waiting channel takes its descriptor and settles; `u` is the state in which it waits. -/
theorem begun_of_taken {u v : State} (hring : SameRing n s u) (hhead : (u.dmaN n).head = (s.dmaN n).head) (hst : (u.dmaN n).st = .wait)
    (hpaced : (u.dmaN n).paced = false) (hdram : u.dram = s.dram) (hhost : u.host = s.host) (hv : SameRing n u v) (htaken : Taken n b u v) :
    Begun n b s (v.dmaSettle n) := by
  have hq : v.dmaQueue n = s.dmaQueue n := (hring.trans hv).queue
  obtain ⟨hsettle, -⟩ := dmaSettle_effect v n
  unfold Taken at htaken
  unfold Begun
  rw [hring.queue] at htaken
  rcases hrefusal : dmaRefusal (s.dmaQueue n) (dmaDescOf b) with _ | ⟨st, d⟩
  all_goals rw [hrefusal] at htaken
  · obtain ⟨hchan, hdram', -⟩ := htaken
    have hnow : (v.dmaSettle n).dmaN n = { u.dmaN n with
        desc := some (dmaDescOf b), moved := 0, st := if s.dmaQueue n = 0 then .run else .wait } := by
      rw [dmaN_dmaSettle v n (.inr (by rw [hchan]; exact hst)), hchan, hq]
      simp [hpaced]
    rw [hnow]
    exact ⟨hhead, rfl, rfl, rfl, (hsettle .dram (by decide)).trans (hdram'.trans hdram)⟩
  · obtain ⟨hchan, hstatus⟩ := htaken
    have hnow : (v.dmaSettle n).dmaN n = { u.dmaN n with
        head := ((s.dmaN n).head + 1) % s.dmaDepth n, desc := none, moved := 0, code := st.code, lastBeat := false, st := .wait } := by
      rw [dmaN_dmaSettle v n (.inr (by rw [hchan]; exact hst)), hchan, hhead, hring.depth]
      rfl
    rw [hnow]
    refine ⟨rfl, rfl, rfl, rfl, ?_⟩
    exact (hstatus.from hring hhead hdram hhost).congr (hsettle .dram (by decide)) (hsettle .host (by decide))

variable (hst : (s.dmaN n).st = .idle ∨ (s.dmaN n).st = .error) (hhead : (s.dmaN n).head ≠ s.dmaTail n)
include hst hhead

/-- R410, R411: a started channel takes its descriptor from the bytes that the host memory brings. -/
theorem dmaStart_host (hring : s.dmaRingDram n = false) : Begun n b s (s.dmaStart n b) ∧
    (dmaRefusal (s.dmaQueue n) (dmaDescOf b) = none → Only [.dma] s (s.dmaStart n b)) := by
  obtain ⟨hsame, honly, hchan⟩ := dmaFresh_effect s n
  have hload : (s.dmaFresh n).dmaLoad n b = (s.dmaFresh n).dmaTake n b :=
    dmaLoad_host (by rw [hchan]) (by rw [hchan, hsame.tailAt]; exact hhead) (hsame.ringDram.trans hring)
  have htaken := taken_dmaTake (s.dmaFresh n) n b
  rw [dmaStart_stopped hst, hload]
  refine ⟨begun_of_taken hsame (by rw [hchan]) (by rw [hchan]) (by rw [hchan]) rfl rfl (dmaTake_ring _ n b) htaken, fun hnone => ?_⟩
  rw [Taken, hsame.queue, hnone] at htaken
  exact only_dmaSettle _ _ (honly.trans htaken.2.2 fun _ hp => hp) (by decide)

/-- R416: the same, with a ring in DRAM. -/
theorem dmaStart_dram (hs : cellsRise s.regs) (hring : s.dmaRingDram n = true)
    (hb : memRead s.dram ((s.reg .dmaDescBase n).toNat + 32 * (s.dmaN n).head) 32 = b) (desc : Bytes) : Begun n b s (s.dmaStart n desc) ∧
    (dmaRefusal (s.dmaQueue n) (dmaDescOf b) = none → Only [.free, .regs, .dma] s (s.dmaStart n desc)) := by
  obtain ⟨hsame, honly, hchan⟩ := dmaFresh_effect s n
  obtain ⟨heccOnly, heccSame⟩ := eccRead_effect (s := s.dmaFresh n) hs n
  have hecc : (s.dmaFresh n).eccRead.dmaN n = (s.dmaFresh n).dmaN n := dmaN_of_dma (heccOnly .dma (by decide)) n
  have hload : (s.dmaFresh n).dmaLoad n desc = (s.dmaFresh n).eccRead.dmaTake n b := by
    rw [dmaLoad_dram (s := s.dmaFresh n) hs (by rw [hchan]) (by rw [hchan, hsame.tailAt]; exact hhead) (hsame.ringDram.trans hring), hchan, ← hb]
    rfl
  have htaken := taken_dmaTake (s.dmaFresh n).eccRead n b
  have hfrom := hsame.trans heccSame
  rw [dmaStart_stopped hst, hload]
  refine ⟨begun_of_taken hfrom (by rw [hecc, hchan]) (by rw [hecc, hchan]) (by rw [hecc, hchan]) rfl rfl (dmaTake_ring _ n b) htaken,
    fun hnone => ?_⟩
  rw [Taken, hfrom.queue, hnone] at htaken
  obtain ⟨-, -, htakenOnly⟩ := htaken
  have hread : Only [.free, .regs, .dma] s (s.dmaFresh n).eccRead :=
    (honly.mono (by decide)).trans (heccOnly.mono (by decide)) fun _ hp => hp
  exact only_dmaSettle _ _ (hread.trans (htakenOnly.mono (by decide)) fun _ hp => hp) (by decide)

end

/-! ### Runs -/

section
variable {s : State} {n : Fin 32}

/-- A channel begins a run, or drains its queue where `flush` says it. -/
def State.paceOn (s : State) (n : Nat) (flush : Bool) : State := s.modDma n fun c => { c with paced := true, flush := flush || c.flush }

theorem paceOn_settled (hst : (s.dmaN n).st = .run ∨ (s.dmaN n).st = .wait) (flush : Bool) :
    ((s.paceOn n flush).dmaSettle n).dmaN n =
      { s.dmaN n with paced := true, flush := flush || (s.dmaN n).flush, st := if (s.dmaN n).desc.isSome then .run else .wait } ∧
    Only [.dma] s ((s.paceOn n flush).dmaSettle n) := by
  have hchan : (s.paceOn n flush).dmaN n = { s.dmaN n with paced := true, flush := flush || (s.dmaN n).flush } := dmaN_modDma s n _
  refine ⟨?_, only_dmaSettle _ _ (only_modDma _ _ (Only.refl _ s) (by decide)) (by decide)⟩
  rw [dmaN_dmaSettle _ n (by rw [hchan]; exact hst), hchan]
  simp

/-- R413: a run begins at HIGH. -/
theorem dmaRunStart_effect (hst : (s.dmaN n).st = .run ∨ (s.dmaN n).st = .wait) (hq : s.dmaQueue n ≠ 0) (hpaced : (s.dmaN n).paced = false) :
    Completes (.dmaRunStart n) s fun t =>
      if s.dmaHigh n ≤ s.dmaFill n then
        t.dmaN n = { s.dmaN n with paced := true, st := if (s.dmaN n).desc.isSome then .run else .wait } ∧ Only [.dma] s t
      else t = s := by
  have hgoes : ((s.dmaN n).st = .run || (s.dmaN n).st = .wait) = true := by rcases hst with h | h <;> simp [h]
  by_cases hhigh : s.dmaHigh n ≤ s.dmaFill n
  · refine ⟨_, if_pos (by simp [hgoes, hq, hpaced, hhigh]), ?_⟩
    beta_reduce
    rw [if_pos hhigh]
    exact paceOn_settled hst false
  · exact ⟨s, if_neg (by simp [hhigh]), by beta_reduce; rw [if_neg hhigh]⟩

/-- R413: a queue that has held data below HIGH for FLUSH is drained. -/
theorem dmaFlushTimeout_effect (hst : (s.dmaN n).st = .run ∨ (s.dmaN n).st = .wait) (hcfg : s.lv .dmaChCfg n 0 7 4 ≠ 0)
    (hq : s.dmaQueue n ≠ 0) (hq' : s.dmaQueue n ≠ 3) (hflush : (s.dmaN n).flush = false) :
    Completes (.dmaFlushTimeout n) s fun t =>
      if 0 < s.dmaFill n ∧ s.dmaFill n < s.dmaHigh n then
        t.dmaN n = { s.dmaN n with paced := true, flush := true, st := if (s.dmaN n).desc.isSome then .run else .wait }
          ∧ s.flushAt n ≤ t.now ∧ Only [.now, .nt, .dma] s t
      else t = s := by
  have hgoes : ((s.dmaN n).st = .run || (s.dmaN n).st = .wait) = true := by rcases hst with h | h <;> simp [h]
  by_cases hfill : 0 < s.dmaFill n ∧ s.dmaFill n < s.dmaHigh n
  · refine ⟨_, if_pos (by simp [hgoes, hq, hq', hcfg, hflush, hfill.1.ne', hfill.2]), ?_⟩
    beta_reduce
    rw [if_pos hfill]
    have htime := only_advanceTo_time s (s.flushAt n)
    have hchan : (s.advanceTo (s.flushAt n)).dmaN n = s.dmaN n := dmaN_of_dma (htime .dma (by decide)) n
    obtain ⟨hnow, honly⟩ := paceOn_settled (s := s.advanceTo (s.flushAt n)) (n := n) (by rw [hchan]; exact hst) true
    rw [hchan] at hnow
    refine ⟨hnow, ?_, (htime.mono (by decide)).trans (honly.mono (by decide)) fun _ hp => hp⟩
    exact (le_now_advanceTo s _).trans (honly .now (by decide)).ge
  · refine ⟨s, if_neg ?_, by beta_reduce; rw [if_neg hfill]⟩
    simp only [Bool.and_eq_true, bne_iff_ne, decide_eq_true_eq, ne_eq]
    rintro ⟨⟨-, hne⟩, hlt⟩
    exact hfill ⟨Nat.pos_of_ne_zero hne, hlt⟩

/-! ### Aborts and failed accesses -/

/-- What the transmit queue holds of a frame in progress goes, where the channel fills it. -/
def State.txDropped (s : State) (n : Nat) : State :=
  if s.dmaQueue n = 3 then { s with eth := { s.eth with txPart := [] } } else s

theorem txDropped_effect (s : State) (n : Nat) : Only [.eth] s (s.txDropped n) ∧
    (s.txDropped n).eth = (if s.dmaQueue n = 3 then { s.eth with txPart := [] } else s.eth) := by
  unfold State.txDropped
  split
  · refine ⟨fun p hp => ?_, rfl⟩
    cases p with
    | eth => exact absurd (by decide) hp
    | _ => rfl
  · exact ⟨Only.refl _ s, rfl⟩

/-- A channel that has stopped in the state `st`. -/
def DmaChan.stopped (c : DmaChan) (st : DmaSt) : DmaChan := { c with st := st, paced := false, flush := false }

/-- R414: an aborted channel's descriptor gets the status ABORTED, and the head moves past it. -/
theorem dmaStop_effect {d : DmaDesc} (hdesc : (s.dmaN n).desc = some d) :
    (s.dmaStop n).dmaN n = { (s.dmaN n).stopped .idle with
      head := ((s.dmaN n).head + 1) % s.dmaDepth n, desc := none, moved := 0, code := Status.aborted.code, lastBeat := false } ∧
    StatusWritten n (leBytes 8 (dmaStatus .aborted 0 (d.len - (s.dmaN n).moved) false)) s (s.dmaStop n) ∧
    (s.dmaStop n).eth = (if s.dmaQueue n = 3 then { s.eth with txPart := [] } else s.eth) := by
  obtain ⟨hchan, hstatus, hring, honly⟩ := dmaReport_effect s n .aborted 0 (d.len - (s.dmaN n).moved) false true
  have heq : s.dmaStop n = (((s.dmaReport n .aborted 0 (d.len - (s.dmaN n).moved) false true).dmaNext n).txDropped n).modDma n
      (DmaChan.stopped · .idle) := by
    rw [State.dmaStop, hdesc]
    rfl
  generalize s.dmaReport n .aborted 0 (d.len - (s.dmaN n).moved) false true = u at *
  obtain ⟨hnext, hsame⟩ := dmaNext_effect u n
  obtain ⟨hdrop, hpart⟩ := txDropped_effect (u.dmaNext n) n
  rw [heq]
  refine ⟨?_, hstatus.congr (hdrop .dram (by decide)) (hdrop .host (by decide)), hpart.trans ?_⟩
  · rw [dmaN_modDma, dmaN_of_dma (hdrop .dma (by decide)), dmaN_dmaNext, hchan, hring.depth]
    rfl
  · rw [(hring.trans hsame).queue, hnext .eth (by decide), honly .eth (by decide)]

theorem dmaAbort_stops (h : (s.dmaN n).st = .wait ∨ (s.dmaN n).st = .run ∧ s.bursting n = false) : s.dmaAbort n = s.dmaStop n := by
  rcases h with h | ⟨h, hburst⟩
  · rw [State.dmaAbort, h]
  · rw [State.dmaAbort, h]
    exact if_neg (by rw [hburst]; decide)

theorem dmaAbort_bursting (h : (s.dmaN n).st = .run) (hburst : s.bursting n = true) : s.dmaAbort n =
    s.modDma n fun c => { c with st := .aborting, abortAt := s.now, burstOut := false } := by
  rw [State.dmaAbort, h]
  exact if_pos hburst

theorem dmaAbort_stays (hrun : (s.dmaN n).st ≠ .run) (hwait : (s.dmaN n).st ≠ .wait) : s.dmaAbort n = s := by
  unfold State.dmaAbort
  split <;> simp_all

/-- R415: the failed transfer of a descriptor. -/
theorem dmaError_transfer {d : DmaDesc} {cause : Nat} {lastBeat last : Bool} (hdesc : (s.dmaN n).desc = some d)
    (hst : (s.dmaN n).st = .run ∨ (s.dmaN n).st = .aborting)
    (hlast : last = (lastBeat && decide (d.len ≤ (s.dmaN n).moved + s.burstLen n d))) :
    (s.dmaError n cause lastBeat).dmaN n = { (s.dmaN n).stopped .error with
      desc := none, moved := 0, code := Status.error.code, lastBeat := last } ∧
    StatusWritten n (leBytes 8 (dmaStatus .error (cause + 1) (if last then 0 else d.len - (s.dmaN n).moved) last)) s
      (s.dmaError n cause lastBeat) := by
  obtain ⟨hchan, hstatus, -, -⟩ := dmaReport_effect s n .error (cause + 1) (if last then 0 else d.len - (s.dmaN n).moved) last d.irq
  have heq : s.dmaError n cause lastBeat =
      ((s.dmaReport n .error (cause + 1) (if last then 0 else d.len - (s.dmaN n).moved) last d.irq).txDropped n).modDma n fun c =>
        { c with st := .error, desc := none, moved := 0, paced := false, flush := false } := by
    rw [State.dmaError, hdesc, hlast]
    exact if_pos hst
  generalize s.dmaReport n .error (cause + 1) (if last then 0 else d.len - (s.dmaN n).moved) last d.irq = u at *
  obtain ⟨hdrop, -⟩ := txDropped_effect u n
  rw [heq]
  refine ⟨?_, hstatus.congr (hdrop .dram (by decide)) (hdrop .host (by decide))⟩
  rw [dmaN_modDma, dmaN_of_dma (hdrop .dma (by decide)), hchan]
  rfl

/-- R415, log 49: the failed fetch of a descriptor. -/
theorem dmaError_fetch {cause : Nat} {lastBeat : Bool} (hdesc : (s.dmaN n).desc = none)
    (hst : (s.dmaN n).st = .run ∨ (s.dmaN n).st = .wait) (hhead : (s.dmaN n).head ≠ s.dmaTail n) (hram : s.dmaRingDram n = false) :
    (s.dmaError n cause lastBeat).dmaN n = { (s.dmaN n).stopped .error with moved := 0, code := Status.error.code, lastBeat := false } ∧
    StatusWritten n (leBytes 8 (dmaStatus .error (cause + 1) (Config.freeNat s.free % 2 ^ 32) false)) s (s.dmaError n cause lastBeat) ∧
    (s.dmaError n cause lastBeat).free = s.free + 1 := by
  generalize hres : Config.freeNat s.free % 2 ^ 32 = res
  obtain ⟨hchan, hstatus, -, honly⟩ := dmaReport_effect s.draw.2 n .error (cause + 1) res false false
  have hfrom : StatusWritten n (leBytes 8 (dmaStatus .error (cause + 1) res false)) s
      (s.draw.2.dmaReport n .error (cause + 1) res false false) := hstatus.from (.of_parts rfl rfl) rfl rfl rfl
  have heq : s.dmaError n cause lastBeat = (s.draw.2.dmaReport n .error (cause + 1) res false false).modDma n fun c =>
        { c with st := .error, moved := 0, paced := false, flush := false } := by
    rw [State.dmaError, hdesc, ← hres]
    exact if_pos ⟨hst, hhead, by rw [hram]; rfl⟩
  generalize s.draw.2.dmaReport n .error (cause + 1) res false false = u at *
  rw [heq]
  refine ⟨?_, hfrom.congr rfl rfl, honly .free (by decide)⟩
  rw [dmaN_modDma, hchan]
  rfl

theorem dmaError_stays {cause : Nat} {lastBeat : Bool} (hdesc : (s.dmaN n).desc = none)
    (h : (s.dmaN n).st ≠ .run ∧ (s.dmaN n).st ≠ .wait ∨ (s.dmaN n).head = s.dmaTail n ∨ s.dmaRingDram n = true) :
    s.dmaError n cause lastBeat = s := by
  rw [State.dmaError, hdesc]
  refine if_neg ?_
  rintro ⟨hst, hhead, hram⟩
  rcases h with ⟨hrun, hwait⟩ | h | h
  · exact hst.elim hrun hwait
  · exact hhead h
  · simp [h] at hram

end

end Sys2Proof.Machine
end

section
/-! DMA channels: what a burst moves, and how a transfer ends (R412, R413, R417). -/

-- The proofs are elaborated one after the other: this bounds the threads of the compiler, whose stacks count as its memory.
set_option Elab.async false

namespace Sys2Proof.Machine

/-! ### Source queues -/

/-- Whole entries of `c` bytes are dropped entry by entry. -/
theorem drop_flatMap_entries {α β : Type} (f : α → List β) {c : Nat} (hf : ∀ x, (f x).length = c) (l : List α) (m : Nat) :
    (l.flatMap f).drop (c * m) = (l.drop m).flatMap f := by
  induction l generalizing m with
  | nil => simp
  | cons x xs ih =>
    cases m with
    | zero => simp
    | succ m =>
      have hlen : c * (m + 1) = (f x).length + c * m := by rw [hf, Nat.mul_succ, Nat.add_comm]
      rw [List.flatMap_cons, hlen, List.drop_length_add_append, List.drop_succ_cons, ih]

/-- Bytes dropped from a queue whose front entry has gone in part. -/
theorem drop_flatMap_part {α β : Type} (f : α → List β) {c : Nat} (hf : ∀ x, (f x).length = c) (l : List α) (t n : Nat) :
    ((l.drop ((n + t) / c)).flatMap f).drop ((n + t) % c) = ((l.flatMap f).drop t).drop n := by
  rw [← drop_flatMap_entries f hf, List.drop_drop, List.drop_drop, Nat.div_add_mod, Nat.add_comm]

theorem queueBytes_queueTake {q : Nat} (hq : q = 1 ∨ q = 2 ∨ q = 4) (s : State) (k : Nat) :
    (s.queueTake q k).queueBytes q = (s.queueBytes q).drop k := by
  rcases hq with rfl | rfl | rfl
  · exact drop_flatMap_part (c := 4) (fun w : Word => leBytes 4 w.toNat) (fun _ => length_leBytes _ _) s.sar.queue s.sar.taken k
  · rfl
  · exact drop_flatMap_part (c := 8) (fun w : DWord => leBytes 8 w.toNat) (fun _ => length_leBytes _ _) s.cmd.trace s.cmd.traceTaken k

theorem queueTake_only (s : State) (q k : Nat) : Only [.sar, .eth, .cmd] s (s.queueTake q k) :=
  only_queueTake s q k (Only.refl _ s) (by decide) (by decide) (by decide)

theorem queueBytes_congr {s t : State} (hsar : t.sar = s.sar) (heth : t.eth = s.eth) (hcmd : t.cmd = s.cmd) (q : Nat) :
    t.queueBytes q = s.queueBytes q := by
  rw [State.queueBytes, hsar, heth, hcmd, State.queueBytes]

/-! ### The steps of a burst -/

section
variable (s : State) (n : Fin 32) (d : DmaDesc) (hostData : Bytes)

/-- DRAM has been read for the burst. -/
def State.burstRead : State := if (s.dmaQueue n = 0 ∨ s.dmaQueue n = 3) ∧ d.srcDram then s.eccRead else s

/-- The bytes of the burst have arrived. -/
def State.burstSent : State := (s.burstRead n d).burstPut n d ((s.burstRead n d).burstData n d (s.burstLen n d) hostData)

/-- They have left their source queue. -/
def State.burstLeft : State :=
  if (s.burstSent n d hostData).dmaQueue n ≠ 0 ∧ (s.burstSent n d hostData).dmaQueue n ≠ 3 then
    (s.burstSent n d hostData).queueTake ((s.burstSent n d hostData).dmaQueue n) (s.burstLen n d)
  else s.burstSent n d hostData

/-- The channel knows of them. -/
def State.burstKnown : State :=
  (s.burstLeft n d hostData).modDma n fun c => { c with
    moved := c.moved + s.burstLen n d, turn := (s.burstLeft n d hostData).dmaTurn, burstOut := c.st = .aborting }

/-- They have been counted. -/
def State.burstCounted : State := (s.burstKnown n d hostData).count .dmaBytes n (s.burstLen n d)

/-- The channel has been paced. -/
def State.burstMoved : State :=
  if (s.burstCounted n d hostData).dmaQueue n = 0 then s.burstCounted n d hostData else (s.burstCounted n d hostData).dmaPace n (s.dmaFill n)

/-- A burst that may start moves its bytes; with more of the transfer to come the channel goes on, and else the transfer is complete. -/
theorem dmaBurst_moves (next : Bytes) (hdesc : (s.dmaN n).desc = some d) (hmay : s.mayBurst n d = true)
    (hgrants : s.dramGrants n d = true) : s.dmaBurst n hostData next =
      if ((s.burstMoved n d hostData).dmaN n).moved < d.len ∨ (((s.burstMoved n d hostData).dmaN n).st = .aborting ∧
          (s.burstMoved n d hostData).now ≠ ((s.burstMoved n d hostData).dmaN n).abortAt) then (s.burstMoved n d hostData).dmaSettle n
      else if (((s.burstMoved n d hostData).dmaDone n d).dmaN n).st = .aborting then
        ((s.burstMoved n d hostData).dmaDone n d).modDma n (DmaChan.stopped · .idle)
      else (((s.burstMoved n d hostData).dmaDone n d).dmaLoad n next).dmaSettle n := by
  rw [State.dmaBurst, hdesc]
  exact if_neg (by simp [hmay, hgrants])

theorem dmaBurst_stays (next : Bytes) (hdesc : (s.dmaN n).desc = some d)
    (h : s.mayBurst n d = false ∨ s.dramGrants n d = false ∧ (s.dmaN n).st ≠ .aborting) : s.dmaBurst n hostData next = s := by
  rw [State.dmaBurst, hdesc]
  refine if_pos ?_
  rcases h with h | ⟨h, hst⟩
  · simp [h]
  · simp [h, hst]

end

/-! ### What a burst moves -/

section
variable (s : State) (n : Fin 32) (d : DmaDesc) (hostData : Bytes)

/-- The bytes `bs` of a burst stand in `t` where the descriptor `d` sends them, and nothing else of host memory and DRAM has changed. -/
def DataPut (bs : Bytes) (t : State) : Prop :=
  if d.dstDram then t.dram = memWrite s.dram (d.dst + (s.dmaN n).moved) bs ∧ t.host = s.host
  else t.host = memWrite s.host (d.dst + (s.dmaN n).moved) bs ∧ t.dram = s.dram

theorem burstRead_only : Only [.free, .regs] s (s.burstRead n d) := by
  unfold State.burstRead
  split
  · exact only_eccRead s (Only.refl _ s) (by decide) (by decide)
  · exact Only.refl _ s

theorem burstRead_ring (hs : cellsRise s.regs) : SameRing n s (s.burstRead n d) ∧ cellsRise (s.burstRead n d).regs ∧
    (s.burstRead n d).reg .dmaBytes n = s.reg .dmaBytes n := by
  unfold State.burstRead
  split
  · have hne : ∀ m : Fin 32, regAddr .dmaBytes m 0 ≠ regAddr .dmaEccCnt 0 0 := by decide
    exact ⟨(eccRead_effect hs n).2, cellsRise_write hs, reg_setReg_ne (s := s.draw.2) hs _ (hne n)⟩
  · exact ⟨.refl n s, hs, rfl⟩

theorem burstData_congr {t : State} {ps : List Part} (h : Only ps s t) (hlive : Part.live ∉ ps) (hdma : Part.dma ∉ ps)
    (hdram : Part.dram ∉ ps) (hsar : Part.sar ∉ ps) (heth : Part.eth ∉ ps) (hcmd : Part.cmd ∉ ps) (len : Nat) :
    t.burstData n d len hostData = s.burstData n d len hostData := by
  have hq : t.dmaQueue n = s.dmaQueue n := by rw [State.dmaQueue, State.lv, h _ hlive]; rfl
  rw [State.burstData, hq, queueBytes_congr (h _ hsar) (h _ heth) (h _ hcmd), dmaN_of_dma (h _ hdma), h _ hdram]
  rfl

/-- The transmit queue takes the bytes of a burst, or host memory or DRAM does. -/
theorem burstPut_effect (bs : Bytes) : Only [.eth, .dram, .host] s (s.burstPut n d bs) ∧
    (s.dmaQueue n = 3 → s.burstPut n d bs = { s with eth := { s.eth with txPart := s.eth.txPart ++ bs } }) ∧
    (s.dmaQueue n ≠ 3 → (s.burstPut n d bs).eth = s.eth ∧ DataPut s n d bs (s.burstPut n d bs)) := by
  refine ⟨only_burstPut s n d bs (Only.refl _ s) (by decide) (by decide) (by decide), fun h => if_pos h, fun h => ?_⟩
  have heq : s.burstPut n d bs = if d.dstDram then { s with dram := memWrite s.dram (d.dst + (s.dmaN n).moved) bs }
      else s.hostWrite (d.dst + (s.dmaN n).moved) bs := if_neg h
  rw [heq]
  unfold DataPut
  cases d.dstDram <;> exact ⟨rfl, rfl, rfl⟩

theorem burstSent_effect : Only [.free, .regs, .eth, .dram, .host] s (s.burstSent n d hostData) ∧
    (s.burstSent n d hostData).regs = (s.burstRead n d).regs ∧
    (s.dmaQueue n = 3 → (s.burstSent n d hostData).dram = s.dram ∧ (s.burstSent n d hostData).host = s.host ∧
      (s.burstSent n d hostData).eth = { s.eth with txPart := s.eth.txPart ++ s.burstData n d (s.burstLen n d) hostData }) ∧
    (s.dmaQueue n ≠ 3 → (s.burstSent n d hostData).eth = s.eth ∧
      DataPut s n d (s.burstData n d (s.burstLen n d) hostData) (s.burstSent n d hostData)) := by
  have hread := burstRead_only s n d
  have hdata := burstData_congr s n d hostData hread (by decide) (by decide) (by decide) (by decide) (by decide) (by decide) (s.burstLen n d)
  have hq : (s.burstRead n d).dmaQueue n = s.dmaQueue n := by rw [State.dmaQueue, State.lv, hread .live (by decide)]; rfl
  unfold State.burstSent
  rw [hdata]
  generalize s.burstData n d (s.burstLen n d) hostData = bs
  obtain ⟨hput, htx, hmem⟩ := burstPut_effect (s.burstRead n d) n d bs
  rw [hq] at htx hmem
  refine ⟨(hread.mono (by decide)).trans (hput.mono (by decide)) fun _ hp => hp, hput .regs (by decide), fun h => ?_, fun h => ?_⟩
  · rw [htx h]
    exact ⟨hread .dram (by decide), hread .host (by decide), by rw [← hread .eth (by decide)]⟩
  · obtain ⟨heth, hdst⟩ := hmem h
    refine ⟨heth.trans (hread .eth (by decide)), ?_⟩
    unfold DataPut at *
    rwa [hread .dram (by decide), hread .host (by decide), dmaN_of_dma (hread .dma (by decide))] at hdst

/-- What stands after a burst has moved its bytes, and before the channel knows of it. -/
theorem burstLeft_effect : Only [.free, .regs, .sar, .eth, .cmd, .dram, .host] s (s.burstLeft n d hostData) ∧
    (s.burstLeft n d hostData).regs = (s.burstRead n d).regs ∧
    (s.dmaQueue n = 3 → (s.burstLeft n d hostData).dram = s.dram ∧ (s.burstLeft n d hostData).host = s.host ∧
      (s.burstLeft n d hostData).eth = { s.eth with txPart := s.eth.txPart ++ s.burstData n d (s.burstLen n d) hostData }) ∧
    (s.dmaQueue n ≠ 3 → DataPut s n d (s.burstData n d (s.burstLen n d) hostData) (s.burstLeft n d hostData)) ∧
    (∀ q, s.dmaQueue n = q → q = 1 ∨ q = 2 ∨ q = 4 →
      (s.burstLeft n d hostData).queueBytes q = (s.queueBytes q).drop (s.burstLen n d)) := by
  obtain ⟨hsent, hregs, htx, hmem⟩ := burstSent_effect s n d hostData
  have hq : (s.burstSent n d hostData).dmaQueue n = s.dmaQueue n := by rw [State.dmaQueue, State.lv, hsent .live (by decide)]; rfl
  have hleft : Only [.sar, .eth, .cmd] (s.burstSent n d hostData) (s.burstLeft n d hostData) := by
    unfold State.burstLeft
    split
    · exact queueTake_only _ _ _
    · exact Only.refl _ _
  refine ⟨(hsent.mono (by decide)).trans (hleft.mono (by decide)) fun _ hp => hp, (hleft .regs (by decide)).trans hregs, fun h => ?_,
    fun h => ?_, fun q hqn hq124 => ?_⟩
  · have heq : s.burstLeft n d hostData = s.burstSent n d hostData := if_neg (by simp [hq, h])
    rw [heq]
    exact htx h
  · obtain ⟨-, hdst⟩ := hmem h
    unfold DataPut at *
    rwa [hleft .dram (by decide), hleft .host (by decide)]
  · have hne : q ≠ 0 ∧ q ≠ 3 := by omega
    have heq : s.burstLeft n d hostData = (s.burstSent n d hostData).queueTake q (s.burstLen n d) := by
      rw [State.burstLeft, hq, hqn, if_pos hne]
    rw [heq, queueBytes_queueTake hq124, queueBytes_congr (hsent .sar (by decide)) (hmem (by omega)).1 (hsent .cmd (by decide))]

theorem dmaTurn_of_dma {t : State} (h : t.dma = s.dma) : t.dmaTurn = s.dmaTurn := by
  simp only [State.dmaTurn, dmaN_of_dma h]

theorem burstCounted_effect : Only [.regs, .dma] (s.burstLeft n d hostData) (s.burstCounted n d hostData) ∧
    (s.burstCounted n d hostData).dmaN n = { s.dmaN n with
      moved := (s.dmaN n).moved + s.burstLen n d, turn := s.dmaTurn, burstOut := (s.dmaN n).st = .aborting } := by
  obtain ⟨hleft, -⟩ := burstLeft_effect s n d hostData
  have hdma := hleft .dma (by decide)
  refine ⟨only_count _ _ _ (only_modDma _ _ (Only.refl _ _) (by decide)) (by decide), ?_⟩
  have hknown : (s.burstCounted n d hostData).dmaN n = (s.burstKnown n d hostData).dmaN n := rfl
  rw [hknown, State.burstKnown, dmaN_modDma, dmaN_of_dma hdma, dmaTurn_of_dma s hdma]

/-- Pacing changes whether a run or a drain goes on, and nothing else of the channel. -/
theorem dmaPace_effect (was : Nat) : Only [.dma] s (s.dmaPace n was) ∧
    ∃ paced flush at_, (s.dmaPace n was).dmaN n = { s.dmaN n with paced := paced, flush := flush, belowAt := at_ } := by
  refine ⟨only_dmaPace s n was (Only.refl _ s) (by decide), ?_⟩
  have hshape : ∀ (c : DmaChan) (at_ : Nat) (p : Prop) [Decidable p], ∃ paced flush at',
      (if p then { c with belowAt := at_, paced := false, flush := false } else { c with belowAt := at_ }) =
        { c with paced := paced, flush := flush, belowAt := at' } := by
    intro c at_ p _
    split
    all_goals exact ⟨_, _, _, rfl⟩
  unfold State.dmaPace
  rw [dmaN_modDma, dmaN_modDma]
  exact hshape _ _ _

/-- A burst has moved its bytes and the channel knows of it. -/
theorem burstMoved_effect : Only [.regs, .dma] (s.burstLeft n d hostData) (s.burstMoved n d hostData) ∧
    ∃ paced flush at_, (s.burstMoved n d hostData).dmaN n = { s.dmaN n with
      moved := (s.dmaN n).moved + s.burstLen n d, turn := s.dmaTurn, burstOut := (s.dmaN n).st = .aborting,
      paced := paced, flush := flush, belowAt := at_ } := by
  obtain ⟨honly, hchan⟩ := burstCounted_effect s n d hostData
  unfold State.burstMoved
  split
  · exact ⟨honly, _, _, _, hchan⟩
  · obtain ⟨hpace, paced, flush, at_, hpaced⟩ := dmaPace_effect (s.burstCounted n d hostData) n (s.dmaFill n)
    refine ⟨honly.trans (hpace.mono (by decide)) fun _ hp => hp, paced, flush, at_, ?_⟩
    rw [hpaced, hchan]

/-- Of a channel that moves memory, nothing is paced, and its bytes count. -/
theorem burstMoved_memory (hs : cellsRise s.regs) (hq : s.dmaQueue n = 0) :
    (s.burstMoved n d hostData).dmaN n = { s.dmaN n with
      moved := (s.dmaN n).moved + s.burstLen n d, turn := s.dmaTurn, burstOut := (s.dmaN n).st = .aborting } ∧
    ((s.burstMoved n d hostData).reg .dmaBytes n).toNat = min ((s.reg .dmaBytes n).toNat + s.burstLen n d) 0xFFFFFFFF ∧
    SameRing n s (s.burstMoved n d hostData) := by
  obtain ⟨hread, hrise, hbytes⟩ := burstRead_ring s n d hs
  obtain ⟨hleft, hregs, -⟩ := burstLeft_effect s n d hostData
  obtain ⟨hcounted, hchan⟩ := burstCounted_effect s n d hostData
  have hlive : (s.burstCounted n d hostData).live = s.live := (hcounted .live (by decide)).trans (hleft .live (by decide))
  have heq : s.burstMoved n d hostData = s.burstCounted n d hostData :=
    if_pos (by rw [State.dmaQueue, State.lv, hlive]; exact hq)
  rw [heq]
  rw [← hregs] at hrise
  have hring : SameRing n s (s.burstLeft n d hostData) := by
    refine ⟨hleft .live (by decide), ?_, ?_, ?_⟩
    · exact .trans (by rw [State.reg, hregs]; rfl) hread.base
    · exact .trans (by rw [State.reg, hregs]; rfl) hread.cfg
    · exact .trans (by rw [State.reg, hregs]; rfl) hread.tail
  have hold : (s.burstLeft n d hostData).reg .dmaBytes n = s.reg .dmaBytes n := .trans (by rw [State.reg, hregs]; rfl) hbytes
  refine ⟨hchan, ?_, hring.trans ?_⟩
  · have hnow : (s.burstCounted n d hostData).reg .dmaBytes n =
        BitVec.ofNat 64 (min (((s.burstLeft n d hostData).reg .dmaBytes n).toNat + s.burstLen n d) 0xFFFFFFFF) :=
      regGet_regSet_same hrise _ _ _ _
    rw [hnow, hold, BitVec.toNat_ofNat, Nat.mod_eq_of_lt (by omega)]
  · obtain ⟨-, hbase, hcfg, htail⟩ := ringAddr_ne n
    have hmod : SameRing n (s.burstLeft n d hostData) (s.burstKnown n d hostData) := .of_parts rfl rfl
    have hcount := SameRing.of_count (s := s.burstKnown n d hostData) hrise hbase hcfg htail
    exact hmod.trans (hcount _)

end

end Sys2Proof.Machine
end

section
/-! The statement about the DMA channels (R410 to R415, Tables ACQ-8 to ACQ-12). -/

-- The proofs are elaborated one after the other: this bounds the threads of the compiler, whose stacks count as its memory.
set_option Elab.async false

namespace Sys2Proof.Machine

section
variable {s : State} {n : Fin 32} {d : DmaDesc} {hostData next : Bytes}

theorem DataPut.congr {bs : Bytes} {t u : State} (h : DataPut s n d bs t) (hdram : u.dram = t.dram) (hhost : u.host = t.host) :
    DataPut s n d bs u := by
  unfold DataPut at *
  rwa [hdram, hhost]

/-- Host memory and DRAM as they look after the bytes of a burst. -/
theorem DataPut.memory {bs : Bytes} {t : State} (hs : s.storesCanonical) (h : DataPut s n d bs t) :
    if d.dstDram then t.dram = memWrite s.dram (d.dst + (s.dmaN n).moved) bs ∧ HostSame s t
    else t.dram = s.dram ∧ HostTakes (d.dst + (s.dmaN n).moved) bs s t := by
  unfold DataPut at h
  split at h
  · next hdst =>
    rw [if_pos hdst]
    exact ⟨h.1, hostSame_of_host h.2⟩
  · next hdst =>
    rw [if_neg hdst]
    exact ⟨h.2, hostTakes_of_memWrite hs h.1⟩

theorem mayBurst_memory (hq : s.dmaQueue n = 0) (hst : (s.dmaN n).st = .run) : s.mayBurst n d = true := by
  simp [State.mayBurst, hq, hst]

/-! ### A burst with more to come -/

section
variable (hdesc : (s.dmaN n).desc = some d) (hmay : s.mayBurst n d = true) (hgrants : s.dramGrants n d = true)
include hdesc hmay hgrants

/-- R412: the burst moves its bytes, and the channel goes on. -/
theorem dmaBurst_goesOn (hmore : (s.dmaN n).moved + s.burstLen n d < d.len) :
    s.dmaBurst n hostData next = (s.burstMoved n d hostData).dmaSettle n ∧
    Only [.regs, .dma] (s.burstLeft n d hostData) (s.dmaBurst n hostData next) ∧
    ((s.dmaBurst n hostData next).dmaN n).moved = (s.dmaN n).moved + s.burstLen n d := by
  obtain ⟨honly, paced, flush, at_, hchan⟩ := burstMoved_effect s n d hostData
  have heq : s.dmaBurst n hostData next = (s.burstMoved n d hostData).dmaSettle n :=
    (dmaBurst_moves s n d hostData next hdesc hmay hgrants).trans (if_pos (.inl (by rw [hchan]; exact hmore)))
  refine ⟨heq, ?_, ?_⟩
  · rw [heq]
    exact honly.trans ((dmaSettle_effect _ n).1.mono (by decide)) fun _ hp => hp
  · obtain ⟨st, hsettled⟩ := dmaSettle_st (s.burstMoved n d hostData) n
    rw [heq, hsettled, hchan]

/-- R412: out of memory, or out of a source queue, the bytes reach their destination and no others change. -/
theorem dmaBurst_puts (hq : s.dmaQueue n ≠ 3) (hmore : (s.dmaN n).moved + s.burstLen n d < d.len) :
    DataPut s n d (s.burstData n d (s.burstLen n d) hostData) (s.dmaBurst n hostData next) := by
  obtain ⟨-, -, -, hput, -⟩ := burstLeft_effect s n d hostData
  obtain ⟨-, honly, -⟩ := dmaBurst_goesOn (hostData := hostData) (next := next) hdesc hmay hgrants hmore
  exact (hput hq).congr (honly .dram (by decide)) (honly .host (by decide))

end

/-- R412: a burst between memories. -/
theorem dmaBurst_memory (hs : s.storesCanonical) (hdesc : (s.dmaN n).desc = some d) (hq : s.dmaQueue n = 0)
    (hgrants : s.dramGrants n d = true) (hst : (s.dmaN n).st = .run) (hmore : (s.dmaN n).moved + s.burstLen n d < d.len) :
    (s.dmaBurst n hostData next).dmaN n = { s.dmaN n with
      moved := (s.dmaN n).moved + s.burstLen n d, turn := s.dmaTurn, burstOut := false } ∧
    ((s.dmaBurst n hostData next).reg .dmaBytes n).toNat = min ((s.reg .dmaBytes n).toNat + s.burstLen n d) 0xFFFFFFFF := by
  obtain ⟨hchan, hbytes, hring⟩ := burstMoved_memory s n d hostData (regsRise_of_storesCanonical hs) hq
  obtain ⟨heq, -⟩ := dmaBurst_goesOn (hostData := hostData) (next := next) hdesc (mayBurst_memory hq hst) hgrants hmore
  rw [heq]
  refine ⟨?_, ?_⟩
  · rw [dmaN_dmaSettle _ n (.inl (by rw [hchan]; exact hst)), hchan, hring.queue, hq, hdesc, hst]
    simp [hst]
  · have hregs : ((s.burstMoved n d hostData).dmaSettle n).regs = (s.burstMoved n d hostData).regs := rfl
    rw [State.reg, hregs]
    exact hbytes

/-! ### The last burst of a transfer -/

/-- R412: where a transfer is complete, its descriptor is done with, and the channel takes the next one. -/
theorem dmaBurst_last (hdesc : (s.dmaN n).desc = some d) (hmay : s.mayBurst n d = true) (hgrants : s.dramGrants n d = true)
    (hst : (s.dmaN n).st = .run) (hlast : d.len ≤ (s.dmaN n).moved + s.burstLen n d) : s.dmaBurst n hostData next =
      if (((s.burstMoved n d hostData).dmaDone n d).dmaN n).st = .aborting then
        ((s.burstMoved n d hostData).dmaDone n d).modDma n (DmaChan.stopped · .idle)
      else (((s.burstMoved n d hostData).dmaDone n d).dmaLoad n next).dmaSettle n := by
  obtain ⟨-, paced, flush, at_, hchan⟩ := burstMoved_effect s n d hostData
  refine (dmaBurst_moves s n d hostData next hdesc hmay hgrants).trans (if_neg ?_)
  rw [hchan]
  rintro (hmore | ⟨habort, -⟩)
  · exact absurd hmore (Nat.not_lt.mpr hlast)
  · exact absurd (hst.symm.trans habort) (by decide)

/-- The frame in the transmit queue is whole. -/
def State.txWhole (s : State) (n : Nat) : State :=
  if s.dmaQueue n = 3 then { s with eth := { s.eth with txq := s.eth.txq ++ [s.eth.txPart], txPart := [] } } else s

theorem txWhole_effect (s : State) (n : Nat) : Only [.eth] s (s.txWhole n) ∧
    (s.txWhole n).eth = if s.dmaQueue n = 3 then { s.eth with txq := s.eth.txq ++ [s.eth.txPart], txPart := [] } else s.eth := by
  unfold State.txWhole
  split
  · refine ⟨fun p hp => ?_, rfl⟩
    cases p with
    | eth => exact absurd (by decide) hp
    | _ => rfl
  · exact ⟨Only.refl _ s, rfl⟩

/-- R412: the status of a transfer that is complete, and its frame. -/
theorem dmaDone_effect (s : State) (n : Fin 32) (d : DmaDesc) : Only [.eth, .cmd, .dma, .dram, .host] s (s.dmaDone n d) ∧
    SameRing n s (s.dmaDone n d) ∧ (s.dmaDone n d).eth = (s.txWhole n).eth ∧
    StatusWritten n (leBytes 8 (dmaStatus .ok 0 0 false)) s (s.dmaDone n d) ∧
    (d.cyclic = false → (s.dmaDone n d).dmaN n = { s.dmaN n with
      head := ((s.dmaN n).head + 1) % s.dmaDepth n, desc := none, moved := 0, code := Status.ok.code, lastBeat := false }) := by
  obtain ⟨hwhole, -⟩ := txWhole_effect s n
  have hsame : SameRing n s (s.txWhole n) := .of_only hwhole (by decide) (by decide)
  obtain ⟨irq, heq⟩ : ∃ irq, s.dmaDone n d =
      if (d.cyclic && (((s.txWhole n).dmaReport n .ok 0 0 false irq).dmaN n).st != .aborting) = true then
        ((s.txWhole n).dmaReport n .ok 0 0 false irq).modDma n fun c => { c with moved := 0 }
      else ((s.txWhole n).dmaReport n .ok 0 0 false irq).dmaNext n := ⟨_, rfl⟩
  obtain ⟨hchan, hstatus, hring, honly⟩ := dmaReport_effect (s.txWhole n) n .ok 0 0 false irq
  have hdma := dmaN_of_dma (hwhole .dma (by decide)) n
  have hfrom := hstatus.from hsame (by rw [hdma]) (hwhole .dram (by decide)) (hwhole .host (by decide))
  have hlast : Only [.dma] ((s.txWhole n).dmaReport n .ok 0 0 false irq) (s.dmaDone n d) := by
    rw [heq]
    split
    · exact only_modDma _ _ (Only.refl _ _) (by decide)
    · exact (dmaNext_effect _ n).1
  refine ⟨only_dmaDone s n d (Only.refl _ s) (by decide) (by decide) (by decide) (by decide) (by decide),
    (hsame.trans hring).trans (.of_only hlast (by decide) (by decide)), ?_,
    hfrom.congr (hlast .dram (by decide)) (hlast .host (by decide)), fun hcyclic => ?_⟩
  · exact (hlast .eth (by decide)).trans (honly .eth (by decide))
  · rw [heq, if_neg (by simp [hcyclic]), dmaN_dmaNext, hchan, hring.depth, hsame.depth, hdma]

/-- R412: a transfer between memories completes, and no descriptor waits. -/
theorem dmaBurst_completes (hs : s.storesCanonical) (hdesc : (s.dmaN n).desc = some d) (hq : s.dmaQueue n = 0)
    (hgrants : s.dramGrants n d = true) (hst : (s.dmaN n).st = .run) (hlast : d.len ≤ (s.dmaN n).moved + s.burstLen n d)
    (hcyclic : d.cyclic = false) (hdst : d.dstDram = true) (hram : s.dmaRingDram n = false)
    (hhead : ((s.dmaN n).head + 1) % s.dmaDepth n = s.dmaTail n) :
    (s.dmaBurst n hostData next).dram = memWrite s.dram (d.dst + (s.dmaN n).moved) (s.burstData n d (s.burstLen n d) hostData) ∧
    (s.dmaBurst n hostData next).host = memWrite s.host (s.statusAt n) (leBytes 8 (dmaStatus .ok 0 0 false)) ∧
    ((s.dmaBurst n hostData next).dmaN n).head = s.dmaTail n ∧ ((s.dmaBurst n hostData next).dmaN n).desc = none ∧
    ((s.dmaBurst n hostData next).dmaN n).st = .wait ∧ ((s.dmaBurst n hostData next).dmaN n).code = Status.ok.code := by
  have hmay : s.mayBurst n d = true := mayBurst_memory hq hst
  obtain ⟨hchan, -, hring⟩ := burstMoved_memory s n d hostData (regsRise_of_storesCanonical hs) hq
  obtain ⟨honly, -⟩ := burstMoved_effect s n d hostData
  obtain ⟨-, -, -, hput, -⟩ := burstLeft_effect s n d hostData
  have hput := (hput (by omega)).congr (honly .dram (by decide)) (honly .host (by decide))
  rw [DataPut, if_pos hdst] at hput
  obtain ⟨hdram, hhost⟩ := hput
  have heq := dmaBurst_last (hostData := hostData) (next := next) hdesc hmay hgrants hst hlast
  generalize s.burstMoved n d hostData = u at *
  obtain ⟨-, hsame, -, hstatus, hdone⟩ := dmaDone_effect u n d
  obtain ⟨hhost', hdram'⟩ := StatusWritten.host (hring.ringDram.trans hram) hstatus
  have hdone := hdone hcyclic
  rw [hchan, hring.depth, hhead] at hdone
  have hload : (u.dmaDone n d).dmaLoad n next = u.dmaDone n d :=
    dmaLoad_stays (.inr (by rw [hdone, (hring.trans hsame).tailAt]))
  have hgoes : ((u.dmaDone n d).dmaN n).st = .run := by rw [hdone]; exact hst
  have hsettled := dmaN_dmaSettle (u.dmaDone n d) n (.inl hgoes)
  obtain ⟨hsettle, -⟩ := dmaSettle_effect (u.dmaDone n d) n
  rw [if_neg (by rw [hgoes]; decide), hload] at heq
  rw [heq, hsettled, hdone]
  have hat : u.statusAt n = s.statusAt n := by rw [State.statusAt, hring.base, hchan]; rfl
  refine ⟨(hsettle .dram (by decide)).trans (hdram'.trans hdram), ?_, rfl, rfl, rfl, rfl⟩
  rw [hsettle .host (by decide), hhost', hhost, hat]

/-- R413: the last burst of a frame makes it whole. -/
theorem dmaBurst_frame (hdesc : (s.dmaN n).desc = some d) (hq : s.dmaQueue n = 3) (hmay : s.mayBurst n d = true)
    (hgrants : s.dramGrants n d = true) (hst : (s.dmaN n).st = .run) (hlast : d.len ≤ (s.dmaN n).moved + s.burstLen n d) :
    (s.dmaBurst n hostData next).eth = { s.eth with
      txq := s.eth.txq ++ [s.eth.txPart ++ s.burstData n d (s.burstLen n d) hostData], txPart := [] } := by
  obtain ⟨honly, -⟩ := burstMoved_effect s n d hostData
  obtain ⟨hleft, -, hput, -⟩ := burstLeft_effect s n d hostData
  obtain ⟨-, -, heth⟩ := hput hq
  have heth := (honly .eth (by decide)).trans heth
  have hlive := (honly .live (by decide)).trans (hleft .live (by decide))
  have heq := dmaBurst_last (hostData := hostData) (next := next) hdesc hmay hgrants hst hlast
  generalize s.burstMoved n d hostData = u at *
  have hq' : u.dmaQueue n = 3 := by rw [State.dmaQueue, State.lv, hlive]; exact hq
  obtain ⟨-, -, hdone, -⟩ := dmaDone_effect u n d
  obtain ⟨-, hwhole⟩ := txWhole_effect u n
  have hend : (s.dmaBurst n hostData next).eth = (u.dmaDone n d).eth := by
    rw [heq]
    split
    · rfl
    · have hload := only_dmaLoad (ps := [.free, .regs, .cmd, .dma, .dram, .host]) (u.dmaDone n d) n next (Only.refl _ _) (by decide)
        (by decide) (by decide) (by decide) (by decide) (by decide)
      exact ((dmaSettle_effect _ n).1 .eth (by decide)).trans (hload .eth (by decide))
  rw [hend, hdone, hwhole, if_pos hq', heth]

end

/-- Settles O53: each clause is the lemma about its branch of the channel, read in host memory or in DRAM, wherever the ring is. -/
theorem dmaChannelsMoveWhatTheyAreTold : Obligations.DmaChannelsMoveWhatTheyAreTold := by
  unfold Obligations.DmaChannelsMoveWhatTheyAreTold
  refine ⟨?start, ?empty, ?busy, ?started, ?tail, ?beyond, ?run, ?flush, ?memory, ?complete, ?stays, ?abort, ?bursting, ?idle, ?aborted,
    ?notAborting, ?failed, ?fetch, ?unfailed, ?startDram, ?source, ?transmit, ?frame, ?abortDram⟩
  case start =>
    intro n desc s hs hst hram hhead
    obtain ⟨hbegun, honly⟩ := dmaStart_host (b := desc) hst hhead hram
    refine ⟨_, rfl, ?_⟩
    unfold Begun at hbegun
    beta_reduce
    rcases hrefusal : dmaRefusal (s.dmaQueue n) (dmaDescOf desc) with _ | ⟨st, d⟩
    · rw [hrefusal] at hbegun
      obtain ⟨hhead', hdesc, hmoved, hgoes, -⟩ := hbegun
      exact ⟨hhead', hdesc, hmoved, hgoes, honly hrefusal⟩
    · rw [hrefusal] at hbegun
      obtain ⟨hhead', hdesc, hcode, hgoes, hstatus⟩ := hbegun
      exact ⟨hhead', hdesc, hcode, hgoes, hostTakes_of_memWrite hs (hstatus.host hram).1⟩
  case empty =>
    intro n desc s hst hhead
    exact ⟨_, rfl, dmaStart_empty hst hhead⟩
  case busy =>
    intro n desc s hs hst
    refine ⟨_, congrArg Host.Outcome.next (dmaStart_aborting hst), ?_, ?_⟩
    · exact dmaN_modDma s n fun c => { c with code := Status.busyStopping.code }
    · obtain ⟨hcount, -⟩ := counts_count (s := s.modDma n fun c => { c with code := Status.busyStopping.code })
        (storesCanonical_of_only (only_modDma _ _ (Only.refl [.dma] s) (by decide)) hs) .glbBusyStopCnt 0
      exact hcount
  case started =>
    intro n desc s hst
    exact congrArg Host.Outcome.next (dmaStart_started hst)
  case tail =>
    intro n v s hs hv
    exact ⟨_, congrArg Host.Outcome.next (if_pos hv), setsReg_setReg hs .dmaDescTail n 0 _⟩
  case beyond =>
    intro n v s hs hv
    have hlt : ∀ m : Fin 32, regAddr .dmaDescTail m 0 < 2 ^ 22 := by decide
    have hoff : (BitVec.ofNat 22 (regAddr .dmaDescTail n 0)).toNat = regAddr .dmaDescTail n 0 := by
      rw [BitVec.toNat_ofNat, Nat.mod_eq_of_lt (hlt n)]
    have hcounts := countsAccess_accessErr hs (by decide : 3 < 2 ^ 8) true (BitVec.ofNat 22 (regAddr .dmaDescTail n 0))
    rw [hoff] at hcounts
    exact ⟨_, congrArg Host.Outcome.next (if_neg (Nat.not_lt.mpr hv)), hcounts, only_accessErr_regs s _ _ _⟩
  case run =>
    intro n s hst hq hpaced
    exact dmaRunStart_effect hst hq hpaced
  case flush =>
    intro n s hst hcfg hq hq' hflush
    exact dmaFlushTimeout_effect hst hcfg hq hq' hflush
  case memory =>
    intro n hostData next d s hs hdesc hq hgrants hst hmore
    obtain ⟨hchan, hbytes⟩ := dmaBurst_memory (hostData := hostData) (next := next) hs hdesc hq hgrants hst hmore
    exact ⟨_, rfl, hchan, hbytes, (dmaBurst_puts hdesc (mayBurst_memory hq hst) hgrants (by omega) hmore).memory hs⟩
  case complete =>
    intro n hostData next d s hs hdesc hq hgrants hst hlast hcyclic hdst hram hhead
    obtain ⟨hdram, hhost, hrest⟩ :=
      dmaBurst_completes (hostData := hostData) (next := next) hs hdesc hq hgrants hst hlast hcyclic hdst hram hhead
    exact ⟨_, rfl, hdram, hostTakes_of_memWrite hs hhost, hrest⟩
  case stays =>
    intro n hostData next d s hdesc h
    exact congrArg Host.Outcome.next (dmaBurst_stays s n d hostData next hdesc h)
  case abort =>
    intro n d s hs hdesc hram hst
    obtain ⟨hchan, hstatus, heth⟩ := dmaStop_effect hdesc
    refine ⟨_, congrArg Host.Outcome.next (dmaAbort_stops hst), ?_⟩
    beta_reduce
    rw [hchan]
    exact ⟨rfl, rfl, rfl, heth, rfl, hostTakes_of_memWrite hs (hstatus.host hram).1⟩
  case bursting =>
    intro n s hst hburst
    exact ⟨_, congrArg Host.Outcome.next (dmaAbort_bursting hst hburst), dmaN_modDma s n _, only_modDma _ _ (Only.refl _ s) (by decide)⟩
  case idle =>
    intro n s hrun hwait
    exact congrArg Host.Outcome.next (dmaAbort_stays hrun hwait)
  case aborted =>
    intro n d s hs hdesc hram hst
    obtain ⟨hchan, hstatus, -⟩ := dmaStop_effect hdesc
    refine ⟨_, if_pos hst, ?_⟩
    beta_reduce
    rw [hchan]
    exact ⟨rfl, rfl, rfl, hostTakes_of_memWrite hs (hstatus.host hram).1⟩
  case notAborting =>
    intro n s hst
    exact if_neg hst
  case failed =>
    intro n cause lastBeat last d s hs hdesc hst hram hlast
    obtain ⟨hchan, hstatus⟩ := dmaError_transfer (cause := cause) hdesc hst hlast
    refine ⟨_, rfl, ?_⟩
    beta_reduce
    rw [hchan]
    exact ⟨rfl, rfl, rfl, rfl, rfl, hostTakes_of_memWrite hs (hstatus.host hram).1⟩
  case fetch =>
    intro n cause lastBeat s hs hdesc hst hhead hram
    obtain ⟨hchan, hstatus, hfree⟩ := dmaError_fetch (cause := cause) (lastBeat := lastBeat) hdesc hst hhead hram
    refine ⟨_, rfl, ?_⟩
    beta_reduce
    rw [hchan]
    exact ⟨rfl, rfl, rfl, hfree, hostTakes_of_memWrite hs (hstatus.host hram).1⟩
  case unfailed =>
    intro n cause lastBeat s hdesc h
    exact congrArg Host.Outcome.next (dmaError_stays hdesc h)
  case startDram =>
    intro n desc b s hs hst hram hhead hb
    obtain ⟨hbegun, honly⟩ := dmaStart_dram hst hhead (regsRise_of_storesCanonical hs) hram hb desc
    refine ⟨_, rfl, ?_⟩
    unfold Begun at hbegun
    beta_reduce
    rcases hrefusal : dmaRefusal (s.dmaQueue n) (dmaDescOf b) with _ | ⟨st, d⟩
    · rw [hrefusal] at hbegun
      obtain ⟨hhead', hdesc, hmoved, hgoes, hdram⟩ := hbegun
      exact ⟨hhead', hdesc, hmoved, hgoes, hdram, honly hrefusal⟩
    · rw [hrefusal] at hbegun
      obtain ⟨hhead', hdesc, hcode, -, hstatus⟩ := hbegun
      exact ⟨hhead', hdesc, hcode, (hstatus.dram hram).1⟩
  case source =>
    intro n hostData next d q s hs hdesc hqn hq hmay hgrants hmore
    obtain ⟨-, -, -, -, hbytes⟩ := burstLeft_effect s n d hostData
    obtain ⟨-, honly, hmoved⟩ := dmaBurst_goesOn (hostData := hostData) (next := next) hdesc hmay hgrants hmore
    refine ⟨_, rfl, hmoved, ?_, (dmaBurst_puts hdesc hmay hgrants (by omega) hmore).memory hs⟩
    exact (queueBytes_congr (honly .sar (by decide)) (honly .eth (by decide)) (honly .cmd (by decide)) q).trans (hbytes q hqn hq)
  case transmit =>
    intro n hostData next d s hdesc hq hmay hgrants hmore
    obtain ⟨-, -, hput, -⟩ := burstLeft_effect s n d hostData
    obtain ⟨hdram, hhost, heth⟩ := hput hq
    obtain ⟨-, honly, hmoved⟩ := dmaBurst_goesOn (hostData := hostData) (next := next) hdesc hmay hgrants hmore
    exact ⟨_, rfl, hmoved, (honly .dram (by decide)).trans hdram, (honly .host (by decide)).trans hhost, (honly .eth (by decide)).trans heth⟩
  case frame =>
    intro n hostData next d s hdesc hq hmay hgrants hst hlast
    exact ⟨_, rfl, dmaBurst_frame hdesc hq hmay hgrants hst hlast⟩
  case abortDram =>
    intro n d s hdesc hram hst
    obtain ⟨hchan, hstatus, -⟩ := dmaStop_effect hdesc
    refine ⟨_, congrArg Host.Outcome.next (dmaAbort_stops hst), ?_⟩
    beta_reduce
    rw [hchan]
    exact ⟨rfl, rfl, rfl, rfl, (hstatus.dram hram).1⟩

end Sys2Proof.Machine
end

section
/-! Modulator ticks and decimation dumps (R138, R141, R143, R146). -/

-- The proofs are elaborated one after the other: this bounds the threads of the compiler, whose stacks count as its memory.
set_option Elab.async false

namespace Sys2Proof.Machine

/-! ### Changes channel by channel -/

/-- What a channel reads apart from its own state: the sources and the configuration stand in `u` as in `s`. -/
structure SameSource (s u : State) : Prop where
  live : u.live = s.live
  regs : u.regs = s.regs
  gdl : u.gdl = s.gdl
  meas : ∃ ch, u.meas = { s.meas with chans := ch }

theorem SameSource.refl (s : State) : SameSource s s := ⟨rfl, rfl, rfl, s.meas.chans, rfl⟩

theorem SameSource.modDec {s u : State} (h : SameSource s u) (c : Nat) (f : DecChan → DecChan) : SameSource s (u.modDec c f) := by
  obtain ⟨hlive, hregs, hgdl, ch, hmeas⟩ := h
  refine ⟨hlive, hregs, hgdl, vset u.meas.chans c (f (u.dec c)), ?_⟩
  rw [State.modDec, hmeas]

/-- Over distinct channels each takes its change once, out of its own state, and no other one does. -/
theorem dec_forNums {P : State → Prop} {step : Nat → State → State} {s : State} {c : Nat} (hP : ∀ i u, P u → P (step i u))
    (hother : ∀ i u, c ≠ i → (step i u).dec c = u.dec c)
    (hown : ∀ u, P u → u.dec c = s.dec c → (step c u).dec c = (step c s).dec c) {xs : List Nat} (hxs : xs.Nodup) (hs : P s) :
    (forNums xs step s).dec c = if c ∈ xs then (step c s).dec c else s.dec c := by
  have hgen : ∀ (xs : List Nat) (u : State), xs.Nodup → P u → (c ∈ xs → u.dec c = s.dec c) →
      (forNums xs step u).dec c = if c ∈ xs then (step c s).dec c else u.dec c := by
    intro xs
    induction xs with
    | nil => exact fun u _ _ _ => rfl
    | cons x xs ih =>
      intro u hnd hu hc
      obtain ⟨hx, hrest⟩ := List.nodup_cons.mp hnd
      have hstep : forNums (x :: xs) step u = forNums xs step (step x u) := rfl
      by_cases hcx : c = x
      · subst hcx
        rw [hstep, ih _ hrest (hP _ _ hu) (fun hmem => absurd hmem hx), if_neg hx, if_pos (List.mem_cons_self ..)]
        exact hown u hu (hc (List.mem_cons_self ..))
      · rw [hstep, ih _ hrest (hP _ _ hu) (fun hmem => (hother x u hcx).trans (hc (List.mem_cons_of_mem _ hmem))), hother x u hcx]
        simp [hcx]
  exact hgen xs s hxs hs fun _ => rfl

/-! ### A tick -/

/-- What a bit makes of its channel. -/
def State.bitTaken (s : State) (c : Nat) (b : Bool) (d : DecChan) : DecChan :=
  { d with
    stages := pushStages (s.stageLen c) (s.stageShift c) (s.legacy c) 0 (bitInput b) (fitStages (s.stageN c) d.stages)
    fast1 := d.fast1.push (s.fastLen c) (bitInput b)
    fast2 := d.fast2.push (s.fastLen c) (d.fast1.push (s.fastLen c) (bitInput b)).s
    fastBits := d.fastBits + 1
    runBit := b, runLen := if 0 < d.runLen && d.runBit == b then d.runLen + 1 else 1
    valBits := if !(0 < d.runLen && d.runBit == b) && 64 < d.runLen then 1 else d.valBits + 1 }

theorem chanBit_eq (s : State) (c : Nat) (b : Bool) : s.chanBit c b = s.modDec c (s.bitTaken c b) := rfl

theorem bitTaken_congr {s u : State} (h : u.live = s.live) (c : Nat) (b : Bool) : u.bitTaken c b = s.bitTaken c b := by
  unfold State.bitTaken State.fastLen State.stageLen State.stageShift State.legacy State.stageN State.lvb State.lv
  rw [h]

/-- What a tick makes of one channel. -/
def State.tickChan (u : State) (lands : DWord) (t c : Nat) : State :=
  match u.sourceBit lands t c with
  | some b => if (u.dec c).srcDown && u.srcKind c = 2 then u else (u.modDec c fun d => { d with srcDown := false }).chanBit c b
  | none => u.srcLost c

section
variable {s u : State} (lands : DWord) (t : Nat)

theorem SameSource.sourceBit (h : SameSource s u) (c : Nat) : u.sourceBit lands t c = s.sourceBit lands t c := by
  obtain ⟨hlive, hregs, hgdl, ch, hmeas⟩ := h
  unfold State.sourceBit State.linkBit State.srcKind State.srcIndex State.lv State.gs State.reg
  rw [hlive, hregs, hgdl, hmeas]

theorem SameSource.srcKind (h : SameSource s u) (c : Nat) : u.srcKind c = s.srcKind c := by
  unfold State.srcKind State.lv
  rw [h.live]

theorem tickChan_source (h : SameSource s u) (c : Nat) : SameSource s (u.tickChan lands t c) := by
  unfold State.tickChan
  split
  · split
    · exact h
    · rw [chanBit_eq]
      exact (h.modDec c _).modDec c _
  · exact h.modDec c _

theorem tickChan_other {c j : Nat} (h : j ≠ c) : (u.tickChan lands t c).dec j = u.dec j := by
  unfold State.tickChan
  split
  · split
    · rfl
    · rw [chanBit_eq, State.dec_modDec_other _ _ _ _ h, State.dec_modDec_other _ _ _ _ h]
  · exact State.dec_modDec_other _ _ _ _ h

section
variable {c : Nat} (hc : c < 160)
include hc

/-- A bit that arrives, from a source that delivers. -/
theorem tickChan_bit (h : SameSource s u) {b : Bool} (hb : s.sourceBit lands t c = some b)
    (hdown : (u.dec c).srcDown = false ∨ s.srcKind c ≠ 2) : (u.tickChan lands t c).dec c = s.bitTaken c b { u.dec c with srcDown := false } := by
  have hgo : ¬ ((u.dec c).srcDown && u.srcKind c = 2) = true := by
    rw [h.srcKind]
    rcases hdown with h' | h' <;> simp [h']
  have heq : u.tickChan lands t c = (u.modDec c fun d => { d with srcDown := false }).chanBit c b := by
    rw [State.tickChan, h.sourceBit, hb]
    exact if_neg hgo
  rw [heq, chanBit_eq, State.dec_modDec_same _ _ _ hc, State.dec_modDec_same _ _ _ hc]
  exact congrFun (bitTaken_congr h.live c b) _

/-- A bit of a link source that has not resumed yet. -/
theorem tickChan_down (h : SameSource s u) {b : Bool} (hb : s.sourceBit lands t c = some b) (hdown : (u.dec c).srcDown = true)
    (hkind : s.srcKind c = 2) : (u.tickChan lands t c).dec c = u.dec c := by
  have heq : u.tickChan lands t c = u := by
    rw [State.tickChan, h.sourceBit, hb]
    exact if_pos (by simp [hdown, h.srcKind, hkind])
  rw [heq]

/-- A source that delivers nothing freezes its channel. -/
theorem tickChan_lost (h : SameSource s u) (hb : s.sourceBit lands t c = none) : (u.tickChan lands t c).dec c =
    { u.dec c with srcDown := true, runLen := 0, stuck := false, cmpActive := false, cmpMasked := true } := by
  have heq : u.tickChan lands t c = u.srcLost c := by rw [State.tickChan, h.sourceBit, hb]
  rw [heq]
  exact State.dec_modDec_same _ _ _ hc

/-- What a tick makes of a channel depends on the channel, its source and its configuration alone. -/
theorem tickChan_congr (h : SameSource s u) (hdec : u.dec c = s.dec c) : (u.tickChan lands t c).dec c = (s.tickChan lands t c).dec c := by
  rcases hb : s.sourceBit lands t c with _ | b
  · rw [tickChan_lost lands t hc h hb, tickChan_lost lands t hc (.refl s) hb, hdec]
  · by_cases hdown : (s.dec c).srcDown = false ∨ s.srcKind c ≠ 2
    · rw [tickChan_bit lands t hc h hb (hdec ▸ hdown), tickChan_bit lands t hc (.refl s) hb hdown, hdec]
    · simp only [not_or, Bool.not_eq_false, ne_eq, not_not] at hdown
      rw [tickChan_down lands t hc h hb (by rw [hdec]; exact hdown.1) hdown.2, tickChan_down lands t hc (.refl s) hb hdown.1 hdown.2, hdec]

end

end

/-- The channels at a tick. -/
def State.tickChans (s : State) (lands : DWord) : State :=
  forNums ((List.range 160).filter s.chanActive) (fun c u => u.tickChan lands s.meas.tick c) s

/-- The tick is over: the units that capture at ticks have taken its bits, and the delivered bits are gone. -/
def State.tickOver (s : State) (lands : DWord) (t : Nat) : State :=
  let u := (s.acqTick fun c => (s.sourceBit lands t c).getD false).dropDelivered t
  { u with meas := { u.meas with tick := t + 1 } }

theorem tick_eq (s : State) (lands : DWord) : s.tick lands = (s.tickChans lands).tickOver lands s.meas.tick := rfl

section
variable (s : State) (lands : DWord)

theorem tickChans_dec {c : Nat} (hc : c < 160) : (s.tickChans lands).dec c =
    if s.chanActive c = true then (s.tickChan lands s.meas.tick c).dec c else s.dec c := by
  have hnd : ((List.range 160).filter s.chanActive).Nodup := List.Nodup.filter _ List.nodup_range
  have hfold := dec_forNums (P := SameSource s) (step := fun c u => u.tickChan lands s.meas.tick c) (c := c)
    (fun i u hu => tickChan_source lands _ hu i) (fun i u hi => tickChan_other lands _ hi)
    (fun u hu hdec => tickChan_congr lands _ hc hu hdec) hnd (.refl s)
  unfold State.tickChans
  rw [hfold]
  simp [hc]

theorem tickOver_effect (t : Nat) : (s.tickOver lands t).meas.tick = t + 1 ∧ (∀ c, (s.tickOver lands t).dec c = s.dec c) ∧
    Only [.regs, .nt, .acq, .dram, .meas] s (s.tickOver lands t) := by
  have hacq := only_acqTick s (fun c => (s.sourceBit lands t c).getD false) (Only.refl [.regs, .nt, .acq, .dram] s) (by decide) (by decide)
    (by decide) (by decide)
  unfold State.tickOver
  generalize s.acqTick (fun c => (s.sourceBit lands t c).getD false) = u at *
  refine ⟨rfl, fun c => ?_, fun p hp => ?_⟩
  · have hmeas := hacq .meas (by decide)
    have hdec : (u.dropDelivered t).dec c = u.dec c := rfl
    exact hdec.trans (by rw [State.dec, hmeas, State.dec])
  · have := hacq.mono (l' := [.regs, .nt, .acq, .dram, .meas]) (by decide) p hp
    cases p with
    | meas => exact absurd (by decide) hp
    | _ => exact this

/-- R138, R141: a tick. -/
theorem tick_effect (s : State) (lands : DWord) : (s.tick lands).meas.tick = s.meas.tick + 1 ∧ (s.tick lands).now = s.now ∧
    ∀ c < 160, (s.tick lands).dec c = if s.chanActive c = true then (s.tickChan lands s.meas.tick c).dec c else s.dec c := by
  obtain ⟨htick, hdec, honly⟩ := tickOver_effect (s.tickChans lands) lands s.meas.tick
  have hnow : (s.tickChans lands).now = s.now := by
    refine holds_forNums (P := fun u => u.now = s.now) _ (fun i _ u hu => ?_) rfl
    unfold State.tickChan
    split
    · split
      · exact hu
      · exact hu
    · exact hu
  rw [tick_eq]
  exact ⟨htick, (honly .now (by decide)).trans hnow, fun c hc => (hdec c).trans (tickChans_dec s lands hc)⟩

theorem clkSkewCheck_only (ps : Int) : Only [.twn] s (s.clkSkewCheck ps) := by
  unfold State.clkSkewCheck
  split
  · split
    all_goals exact only_modTwn _ (Only.refl _ s) (by decide)
  · exact Only.refl _ s

theorem dec_of_meas {t : State} (h : t.meas = s.meas) (c : Nat) : t.dec c = s.dec c := by rw [State.dec, h, State.dec]

/-- R138, R486: the next tick, at its instant. -/
theorem modulatorTick_effect (ps : Int) (hrun : s.clk.running.getLsbD 2 = true) (hstrobe : s.clk.strobe.getLsbD 2 = false) :
    Completes (.modulatorTick lands ps) s fun t =>
      t.meas.tick = s.meas.tick + 1 ∧ s.tickAt s.meas.tick ≤ t.now ∧ ∃ u, SameSource s u ∧ u.meas = s.meas ∧
        ∀ c < 160, t.dec c = if s.chanActive c = true then (u.tickChan lands s.meas.tick c).dec c else s.dec c := by
  have htime := only_advanceTo_time s (s.tickAt s.meas.tick)
  have hle := le_now_advanceTo s (s.tickAt s.meas.tick)
  refine ⟨_, if_pos (by rw [hrun, hstrobe]; rfl), ?_⟩
  generalize s.advanceTo (s.tickAt s.meas.tick) = u at *
  obtain ⟨htick, hnow, hdec⟩ := tick_effect u lands
  have hskew := clkSkewCheck_only (u.tick lands) ps
  have hmeas := htime .meas (by decide)
  have hlive := htime .live (by decide)
  have hactive (c : Nat) : u.chanActive c = s.chanActive c := by
    unfold State.chanActive State.groupOn State.srcKind State.lvb State.lv
    rw [hlive]
  refine ⟨?_, ?_, u, ⟨hlive, htime .regs (by decide), htime .gdl (by decide), s.meas.chans, hmeas⟩, hmeas, fun c hc => ?_⟩
  · rw [hskew .meas (by decide), htick, hmeas]
  · rw [hskew .now (by decide), hnow]
    exact hle
  · rw [dec_of_meas _ (hskew .meas (by decide)), hdec c hc, hactive, dec_of_meas s hmeas, hmeas]

end

/-! ### A dump -/

/-- The range of BAR0 that holds DEC_OUT. -/
def inDecOut (a : Nat) : Prop := 0x61000 ≤ a ∧ a < 0x62500

theorem not_inDecOut_of_base {r : Reg} (h : 0x62500 ≤ r.row.base) (i j : Nat) : ¬ inDecOut (regAddr r i j) := by
  unfold inDecOut regAddr
  omega

/-- The channels of a group. -/
def groupChans (g : Nat) : List Nat := (List.range 8).map (8 * g + ·)

theorem mem_groupChans {g c : Nat} : c ∈ groupChans g ↔ c / 8 = g := by
  simp only [groupChans, List.mem_map, List.mem_range]
  constructor
  · rintro ⟨i, hi, rfl⟩
    omega
  · exact fun h => ⟨c % 8, by omega, by omega⟩

theorem nodup_groupChans (g : Nat) : (groupChans g).Nodup := List.Nodup.map (fun _ _ h => Nat.add_left_cancel h) List.nodup_range

section
variable (s : State) (g : Nat)

/-- The number of a dump. -/
def State.dumpCount : Nat := if (vget s.meas.groups g {}).resetPend then 0 else (vget s.meas.groups g {}).count.toNat + 1

/-- Resets and clearings that are due have taken effect. -/
def State.dumpCleared : State :=
  forNums (groupChans g) (fun c u => u.modDec c fun d =>
    if (vget s.meas.groups g {}).resetPend then (d.clear).clearFast else if d.clearPend then d.clear else d) s

/-- The words of a dump. -/
def State.dumpWords (count : Nat) : List (Nat × DWord) := (groupChans g).map fun c => (c, s.decWord c count)

/-- Words stand in DEC_OUT. -/
def State.wordsOut (ws : List (Nat × DWord)) : State := ws.foldl (fun u (c, w) => u.setReg .decOut c 0 w) s

/-- The first output after an alignment has been given. -/
def State.alignOver : State := forNums (groupChans g) (fun c u => u.modDec c fun d => { d with alignPend := false }) s

/-- The dump is noted at its group. -/
def State.dumpNoted (count : Nat) : State :=
  { s with meas := { s.meas with
    groups := vset s.meas.groups g { dumping := true, count := BitVec.ofNat 16 count, resetPend := false, lastTick := some (s.meas.tick - 1) }
    dump0 := if g = 0 then ((s.meas.tick - 1) :: s.meas.dump0).take 20 else s.meas.dump0 } }

/-- Engines and acquisition units take the words. -/
def State.wordsTaken (ws : List (Nat × DWord)) : State :=
  (s.sampleDump g ws).acqDump g fun c =>
    match ws.find? fun x => x.1 = c with
    | some (_, w) => (((s.sampleDump g ws).scale c w).1, w.getLsbD 63)
    | none => (0, false)

theorem dump_eq : s.dump g = ((((s.dumpCleared g).wordsOut ((s.dumpCleared g).dumpWords g (s.dumpCount g))).alignOver g).dumpNoted g
    (s.dumpCount g)).wordsTaken g ((s.dumpCleared g).dumpWords g (s.dumpCount g)) := rfl

end

end Sys2Proof.Machine
end

section
/-! What a decimation dump leaves at its group and in DEC_OUT (R138, R143, R146). -/

-- The proofs are elaborated one after the other: this bounds the threads of the compiler, whose stacks count as its memory.
set_option Elab.async false

namespace Sys2Proof.Machine

section
variable {A : Nat → Prop} {s0 s : State}

/-! ### Acquisition leaves DEC_OUT alone -/

section
variable (h : RegsKept inDecOut s0 s)
include h

theorem decOut_modAcq (u : Nat) (f : AcqUnit → AcqUnit) : RegsKept inDecOut s0 (s.modAcq u f) := kept_of_regs (s := s) rfl h

/-- A counter behind DEC_OUT. -/
theorem decOut_count {r : Reg} (hr : 0x62500 ≤ r.row.base) (i n : Nat) : RegsKept inDecOut s0 (s.count r i n) :=
  kept_count _ _ _ h (not_inDecOut_of_base hr _ _)

theorem decOut_ptmAsk (cause : Nat) (nt : DWord) (detail : Nat) (asked : Bool) : RegsKept inDecOut s0 (s.ptmAsk cause nt detail asked) := by
  have hcount : ¬ inDecOut (regAddr .ntPtmSupprCnt 0 0) := by
    unfold inDecOut
    decide
  unfold State.ptmAsk
  exact kept_ite (kept_ite (kept_count _ _ _ h hcount) (kept_of_regs (s := s) rfl h)) h

theorem decOut_acqTrig (u bit : Nat) (nt : DWord) (detail : Nat) : RegsKept inDecOut s0 (s.acqTrig u bit nt detail) := by
  unfold State.acqTrig
  dsimp only
  exact kept_ite (kept_ite (decOut_modAcq h u _) (decOut_ptmAsk (decOut_modAcq h u _) 4 nt 0 false))
    (kept_ite (decOut_modAcq h u _) (decOut_count h (by decide) _ _))

theorem decOut_acqResolve (u n : Nat) (nt : DWord) : RegsKept inDecOut s0 (s.acqResolve u n nt) := by
  unfold State.acqResolve
  dsimp only
  exact kept_ite h (kept_ite (decOut_count (decOut_modAcq h u _) (by decide) _ _) (decOut_count (decOut_modAcq h u _) (by decide) _ _))

theorem decOut_acqValueTrig (u : Nat) (nt : DWord) (v : Int) : RegsKept inDecOut s0 (s.acqValueTrig u nt v) := by
  unfold State.acqValueTrig
  simp (maxDischargeDepth := 20) only [kept_ite, decOut_acqTrig, decOut_modAcq, h]

theorem decOut_acqWrite (u : Nat) (full : Bool) (words : Bytes) : RegsKept inDecOut s0 (s.acqWrite u full words) := by
  unfold State.acqWrite
  exact kept_ite (decOut_count (decOut_modAcq h u _) (by decide) _ _)
    (kept_forNums _ _ (fun v t ht => decOut_modAcq ht v _) (kept_of_regs (s := s) rfl h))

theorem decOut_acqStore (u : Nat) (nt : DWord) (status : Nat) (vals : List (Int × Bool)) :
    RegsKept inDecOut s0 (s.acqStore u nt status vals) := by
  have hmeasure (t : State) (st : Nat) (vs : List (Int × Bool)) (ht : RegsKept inDecOut s0 t) :
      RegsKept inDecOut s0 (t.acqMeasure u st vs) := kept_of_regs (s := t) rfl ht
  unfold State.acqStore
  simp (maxDischargeDepth := 20) only [kept_ite, decOut_acqValueTrig, decOut_acqResolve, decOut_acqWrite, decOut_modAcq, hmeasure, h]

theorem decOut_acqSet (u : Nat) (nt : DWord) (status : Nat) (words : List Word) : RegsKept inDecOut s0 (s.acqSet u nt status words) := by
  have hsat (t : State) (n : Nat) (ht : RegsKept inDecOut s0 t) : RegsKept inDecOut s0 (t.count .acqSatCnt u n) :=
    decOut_count ht (by decide) _ _
  unfold State.acqSet
  simp (maxDischargeDepth := 20) only [kept_ite, decOut_acqStore, decOut_modAcq, hsat, h]

theorem decOut_acqDump (g : Nat) (word : Nat → Word × Bool) : RegsKept inDecOut s0 (s.acqDump g word) := by
  refine kept_forNums _ _ (fun u t ht => ?_) h
  dsimp only
  split
  · exact kept_ite (decOut_modAcq ht u _) ht
  · exact kept_ite (decOut_acqSet (decOut_modAcq (kept_ite (decOut_modAcq ht u _) ht) u _) u _ _ _)
      (decOut_modAcq (kept_ite (decOut_modAcq ht u _) ht) u _)

theorem decOut_sampleDump (g : Nat) (ws : List (Nat × DWord)) : RegsKept inDecOut s0 (s.sampleDump g ws) := by
  refine holds_forNums (P := RegsKept inDecOut s0) _ (fun e he t ht => ?_) h
  have hoff : ¬ inDecOut (regAddr .decTsEff e 0) := by
    have hlt := List.mem_range.mp he
    have haddr : regAddr .decTsEff e 0 = 0x60040 + e * 4 := by simp [regAddr, Reg.row]
    unfold inDecOut
    omega
  have heng (f : Engine → Engine) : RegsKept inDecOut s0 (t.modEng e f) := kept_of_regs (s := t) rfl ht
  dsimp only
  split
  · exact kept_ite (kept_setRegN _ _ _ _ (heng _) hoff) ht
  · exact kept_ite (heng _) ht

end

end

/-! ### The words -/

section
variable {s : State} {g : Nat}

theorem decOut_addr (c : Nat) : regAddr .decOut c 0 = 0x61018 + c * 0x20 := by simp [regAddr, Reg.row]

theorem inDecOut_addr {c : Nat} (hc : c < 160) : inDecOut (regAddr .decOut c 0) := by
  rw [decOut_addr]
  unfold inDecOut
  omega

/-- Each word of a dump stands at its channel. -/
theorem wordsOut_reg {ws : List (Nat × DWord)} {c : Nat} {w : DWord} (hnd : (ws.map Prod.fst).Nodup) (hmem : (c, w) ∈ ws)
    (hs : cellsRise s.regs) : (s.wordsOut ws).reg .decOut c = w := by
  induction ws generalizing s with
  | nil => exact absurd hmem (List.not_mem_nil)
  | cons x xs ih =>
    obtain ⟨hx, hrest⟩ := List.nodup_cons.mp hnd
    have hstep : s.wordsOut (x :: xs) = (s.setReg .decOut x.1 0 x.2).wordsOut xs := rfl
    rw [hstep]
    rcases List.mem_cons.mp hmem with rfl | hin
    · have hkept : RegsKept (fun a => a = regAddr .decOut c 0) (s.setReg .decOut c 0 w) ((s.setReg .decOut c 0 w).wordsOut xs) := by
        refine kept_foldl _ _ (fun u y hy hu => kept_setReg _ _ _ _ hu fun he => ?_) (.refl _)
        have hne : y.1 ≠ c := fun h => hx (List.mem_map.mpr ⟨y, hy, h⟩)
        rw [decOut_addr, decOut_addr] at he
        omega
      obtain ⟨-, hreg⟩ := hkept (cellsRise_write hs)
      exact (hreg .decOut c 0 rfl).trans (regGet_regSet_same hs _ _ _ _)
    · exact ih hrest hin (cellsRise_write hs)

theorem decWord_congr {u : State} {c : Nat} (hlive : u.live = s.live) (hdec : u.dec c = s.dec c) (count : Nat) :
    u.decWord c count = s.decWord c count := by
  unfold State.decWord State.chanValue State.window State.legacy State.srcKind State.stageN State.stageLen State.stageShift State.lvb State.lv
  rw [hlive, hdec]

theorem dumpCleared_source : SameSource s (s.dumpCleared g) :=
  holds_forNums (P := SameSource s) _ (fun i _ _ hu => hu.modDec i _) (.refl s)

/-- A channel of which nothing is due to be reset or cleared stays. -/
theorem dumpCleared_dec (hreset : (vget s.meas.groups g {}).resetPend = false) {c : Nat} (hc : c < 160) (hclear : (s.dec c).clearPend = false) :
    (s.dumpCleared g).dec c = s.dec c := by
  refine holds_forNums (P := fun u => u.dec c = s.dec c) _ (fun i _ u hu => ?_) rfl
  by_cases hi : c = i
  · subst hi
    rw [State.dec_modDec_same _ _ _ hc, hu, hreset, hclear]
    rfl
  · rw [State.dec_modDec_other _ _ _ _ hi, hu]

theorem wordsOut_only (ws : List (Nat × DWord)) : Only [.regs] s (s.wordsOut ws) :=
  holds_foldl (P := Only [.regs] s) ws (fun u x _ hu => only_setReg _ _ _ _ hu (by decide)) (Only.refl _ s)

theorem alignOver_source : SameSource s (s.alignOver g) :=
  holds_forNums (P := SameSource s) _ (fun i _ _ hu => hu.modDec i _) (.refl s)

theorem wordsTaken_effect (ws : List (Nat × DWord)) : Only [.regs, .eng, .nt, .acq, .dram] s (s.wordsTaken g ws) ∧
    RegsKept inDecOut s (s.wordsTaken g ws) := by
  have hsample := only_sampleDump s g ws (Only.refl [.regs, .eng] s) (by decide) (by decide)
  refine ⟨?_, decOut_acqDump (decOut_sampleDump (.refl s) g ws) g _⟩
  exact only_acqDump _ _ _ (hsample.mono (by decide)) (by decide) (by decide) (by decide) (by decide)

theorem dumpNoted_group (hg : g < 20) (n : Nat) : vget (s.dumpNoted g n).meas.groups g {} =
    { dumping := true, resetPend := false, lastTick := some (s.meas.tick - 1), count := BitVec.ofNat 16 n } :=
  vget_vset_same _ _ _ _ hg

theorem dumpNoted_other (n : Nat) : (s.dumpNoted g n).regs = s.regs ∧ (s.dumpNoted g n).meas.tick = s.meas.tick := ⟨rfl, rfl⟩

/-- R138, R143: a dump at its group, and its words. -/
theorem dump_effect (hs : s.storesCanonical) (hg : g < 20) :
    vget (s.dump g).meas.groups g {} =
      { dumping := true, resetPend := false, lastTick := some (s.meas.tick - 1), count := BitVec.ofNat 16 (s.dumpCount g) } ∧
    (s.dump g).meas.tick = s.meas.tick ∧
    ((vget s.meas.groups g {}).resetPend = false → ∀ c < 160, c / 8 = g → (s.dec c).clearPend = false →
      (s.dump g).reg .decOut c = s.decWord c (s.dumpCount g)) := by
  obtain ⟨hlive, hregs, -, ch, hmeas⟩ := dumpCleared_source (s := s) (g := g)
  have hwords : ∀ c, (vget s.meas.groups g {}).resetPend = false → c < 160 → c / 8 = g → (s.dec c).clearPend = false →
      (c, s.decWord c (s.dumpCount g)) ∈ (s.dumpCleared g).dumpWords g (s.dumpCount g) := by
    intro c hreset hc hcg hclear
    refine List.mem_map.mpr ⟨c, mem_groupChans.mpr hcg, ?_⟩
    rw [decWord_congr hlive (dumpCleared_dec hreset hc hclear)]
  have hnd : (((s.dumpCleared g).dumpWords g (s.dumpCount g)).map Prod.fst).Nodup := by
    unfold State.dumpWords
    rw [List.map_map]
    exact (List.map_id _).symm ▸ nodup_groupChans g
  rw [dump_eq]
  generalize s.dumpCount g = n at *
  generalize (s.dumpCleared g).dumpWords g n = ws at *
  generalize s.dumpCleared g = u at *
  have hout := wordsOut_only (s := u) ws
  have houtReg {c : Nat} {w : DWord} (hmem : (c, w) ∈ ws) : (u.wordsOut ws).reg .decOut c = w :=
    wordsOut_reg hnd hmem (hregs ▸ regsRise_of_storesCanonical hs)
  have hrise : cellsRise (u.wordsOut ws).regs := holds_foldl (P := fun v => cellsRise v.regs) ws (fun v x _ hv => cellsRise_write hv)
    (hregs ▸ regsRise_of_storesCanonical hs)
  generalize u.wordsOut ws = v at *
  obtain ⟨-, halignRegs, -, ch', halign⟩ := alignOver_source (s := v) (g := g)
  obtain ⟨htaken, hkept⟩ := wordsTaken_effect (s := (v.alignOver g).dumpNoted g n) (g := g) ws
  have hmeas' : ((v.alignOver g).dumpNoted g n |>.wordsTaken g ws).meas = ((v.alignOver g).dumpNoted g n).meas := htaken .meas (by decide)
  obtain ⟨hnotedRegs, hnotedTick⟩ := dumpNoted_other (s := v.alignOver g) (g := g) n
  have hregs' := hnotedRegs.trans halignRegs
  have htick : (v.alignOver g).meas.tick = s.meas.tick := by rw [halign, hout .meas (by decide), hmeas]
  refine ⟨?_, ?_, fun hreset c hc hcg hclear => ?_⟩
  · rw [hmeas', dumpNoted_group hg, htick]
  · rw [hmeas', hnotedTick, htick]
  · obtain ⟨-, hreg⟩ := hkept (by rwa [hregs'])
    rw [hreg .decOut c 0 (inDecOut_addr hc), ← houtReg (hwords c hreset hc hcg hclear), State.reg, hregs', State.reg]

end

end Sys2Proof.Machine
end

section
/-! Pull-ins: a request stands through what it starts (R229, R230). -/

-- The proofs are elaborated one after the other: this bounds the threads of the compiler, whose stacks count as its memory.
set_option Elab.async false

namespace Sys2Proof.Machine

/-- The pull-in requests of every zone stand. -/
def SamePulls (s t : State) : Prop := ∀ k, (t.zone k).pullReq = (s.zone k).pullReq ∧ (t.zone k).pullPh = (s.zone k).pullPh

section
variable {s0 s t : State}

theorem SamePulls.refl (s : State) : SamePulls s s := fun _ => ⟨rfl, rfl⟩

theorem pulls_of_zones (h : SamePulls s0 s) (hz : t.trp.zones = s.trp.zones) : SamePulls s0 t := fun k => by
  rw [State.zone, hz]
  exact h k

theorem pulls_of_only {l : List Part} (ht : Only l s t) (h : SamePulls s0 s) (hl : .trp ∉ l := by decide) : SamePulls s0 t :=
  pulls_of_zones h (by rw [ht.keeps_trp hl])

theorem pulls_ite {c : Prop} [Decidable c] (hs : SamePulls s0 s) (ht : SamePulls s0 t) : SamePulls s0 (if c then s else t) := by
  split <;> assumption

theorem pulls_forNums (xs : List Nat) (f : Nat → State → State) (hf : ∀ i u, SamePulls s0 u → SamePulls s0 (f i u)) (h : SamePulls s0 s) :
    SamePulls s0 (forNums xs f s) := holds_forNums (P := SamePulls s0) xs (fun i _ => hf i) h

theorem pulls_modZone (k : Nat) (f : Zone → Zone) (h : SamePulls s0 s) (hf : ∀ z, (f z).pullReq = z.pullReq ∧ (f z).pullPh = z.pullPh) :
    SamePulls s0 (s.modZone k f) := fun j => by
  obtain ⟨hreq, hph⟩ := h j
  by_cases hj : j = k
  · subst hj
    by_cases hlt : j < 16
    · obtain ⟨hreq', hph'⟩ := hf (s.zone j)
      rw [State.zone_modZone_same _ _ _ hlt]
      exact ⟨hreq'.trans hreq, hph'.trans hph⟩
    · have hsame : (s.modZone j f).zone j = s.zone j := by simp [State.zone, State.modZone, vget, vset, hlt]
      rw [hsame]
      exact ⟨hreq, hph⟩
  · rw [State.zone_modZone_other _ _ _ _ hj]
    exact ⟨hreq, hph⟩

section
variable (h : SamePulls s0 s)
include h

theorem pulls_modChan (n : Nat) (f : Chan → Chan) : SamePulls s0 (s.modChan n f) := pulls_of_zones h rfl
theorem pulls_modGs (k : Nat) (f : GdlStack → GdlStack) : SamePulls s0 (s.modGs k f) := pulls_of_zones h rfl
theorem pulls_count (r : Reg) (i n : Nat) : SamePulls s0 (s.count r i n) := pulls_of_zones h rfl
theorem pulls_setReg (r : Reg) (i j : Nat) (v : DWord) : SamePulls s0 (s.setReg r i j v) := pulls_of_zones h rfl
theorem pulls_modTwn (f : TwnState → TwnState) : SamePulls s0 (s.modTwn f) := pulls_of_zones h rfl

/-! ### What turns channels off -/

theorem pulls_chanOff (n at_ : Nat) : SamePulls s0 (s.chanOff n at_) :=
  pulls_of_only (l := [.pwm]) (only_chanOff s n at_ (Only.refl _ s) (by decide)) h

theorem pulls_gcFall (n at_ : Nat) : SamePulls s0 (s.gcFall n at_) :=
  pulls_of_only (l := [.pwm]) (only_gcFall s n at_ (Only.refl _ s) (by decide)) h

theorem pulls_askRise (n at_ : Nat) : SamePulls s0 (s.askRise n at_) := by
  unfold State.askRise
  simp (maxDischargeDepth := 20) +contextual only [pulls_ite, pulls_modChan, pulls_modGs, pulls_modZone, h, and_self, implies_true]

theorem pulls_endOverlap (n at_ : Nat) : SamePulls s0 (s.endOverlap n at_) := by
  have h' : SamePulls s0 { s with pwm := { s.pwm with overlap := vset s.pwm.overlap (pairOf n) false } } := pulls_of_zones h rfl
  unfold State.endOverlap
  simp (maxDischargeDepth := 20) +contextual only [pulls_ite, pulls_askRise, pulls_count, pulls_modChan, h']

theorem pulls_lvlOff (n at_ : Nat) : SamePulls s0 (s.lvlOff n at_) :=
  have h' := pulls_chanOff (pulls_modChan h n fun c => { c with lvl := false, cut := false }) n at_
  pulls_ite (pulls_endOverlap h' n at_) h'

theorem pulls_turnOffChan (n at_ : Nat) (one : Bool) : SamePulls s0 (s.turnOffChan n at_ one) := by
  unfold State.turnOffChan State.forceLow State.innerLater
  simp (maxDischargeDepth := 20) +contextual only [pulls_ite, pulls_modChan, pulls_lvlOff, pulls_gcFall, h]

theorem pulls_beginTurnOff (k at_ : Nat) (one : Bool) : SamePulls s0 (s.beginTurnOff k at_ one) :=
  pulls_forNums _ _ (fun n _ hu => pulls_turnOffChan hu n at_ one) h

/-! ### A cause -/

theorem pulls_sourceNoted (k cause source : Nat) : SamePulls s0 (s.sourceNoted k cause source) := by
  unfold State.sourceNoted
  simp (maxDischargeDepth := 20) only [pulls_ite, pulls_modZone, h, and_self, implies_true]

theorem pulls_tripRecord (nt : DWord) (k leg cause source : Nat) (first : Bool) : SamePulls s0 (s.tripRecord nt k leg cause source first) := by
  have hnote (u : State) (bs : Bytes) (hu : SamePulls s0 u) : SamePulls s0 (u.note 12 1 0 bs) :=
    pulls_of_only (l := [.regs, .log]) (only_note u 12 1 0 bs (Only.refl _ u) (by decide) (by decide)) hu
  unfold State.tripRecord
  dsimp only
  refine hnote _ _ ?_
  split
  · split
    · exact pulls_of_zones h rfl
    · exact pulls_of_zones h rfl
  · split
    · exact pulls_of_zones h rfl
    · exact pulls_of_zones h rfl

theorem pulls_tripTold (k : Nat) (nt : DWord) : SamePulls s0 (s.tripTold k nt) := by
  have hsend : Only [.gdl] s (s.sendTrip k) := only_sendTrip s k (Only.refl _ s) (by decide)
  have hended : Only [.gdl, .regs] (s.sendTrip k) ((s.sendTrip k).testEnded k) := by
    unfold State.testEnded
    exact only_ite (Only.refl _ _) (only_setRegN _ _ _ _ (only_modGs _ _ (Only.refl _ _) (by decide)) (by decide))
  have hset : SamePulls s0 (((s.sendTrip k).testEnded k).setReg .trpFirstNt k 0 nt) :=
    pulls_setReg (pulls_of_only hended (pulls_of_only hsend h)) _ _ _ _
  unfold State.tripTold
  dsimp only
  generalize ((s.sendTrip k).testEnded k).setReg .trpFirstNt k 0 nt = u at *
  have hoffer := pulls_of_only (l := [.regs, .nt, .acq])
    (only_acqOffer u 2 nt (2 ^ k) (fun i => u.acqSel i k) (Only.refl _ u) (by decide) (by decide) (by decide)) hset
  exact pulls_of_only (l := [.regs, .nt]) (only_ptmAsk _ 0 nt (2 ^ k) false (Only.refl _ _) (by decide) (by decide)) hoffer

theorem pulls_firstTrip (k at_ : Nat) (nt : DWord) : SamePulls s0 (s.firstTrip k at_ nt) := by
  have hz : SamePulls s0 (s.modZone k fun z => { z with tripAt := at_, offDone := false, resumeB := false, resumeZ := none }) :=
    pulls_modZone k _ h fun _ => ⟨rfl, rfl⟩
  have hoff := pulls_beginTurnOff hz k at_ false
  unfold State.firstTrip
  exact pulls_tripTold hoff k nt

theorem pulls_latchOne (k cause source phase delay : Nat) : SamePulls s0 (s.latchOne k cause source phase delay) := by
  have hv := pulls_sourceNoted h k cause source
  rw [latchOne_eq]
  dsimp only
  generalize s.sourceNoted k cause source = v at *
  have hm : SamePulls s0 (v.causeMarked k cause (ctlTick v.now)) := pulls_modZone k _ hv fun _ => ⟨rfl, rfl⟩
  have hw := pulls_tripRecord hm (v.tripClockAt (ctlTick v.now) + BitVec.ofNat 64 delay) k (3 * k + phase) cause source
    (decide ((s.zone k).causes = 0))
  exact pulls_ite hv (pulls_ite (pulls_firstTrip hw _ _ _) hw)

theorem pulls_latch (k cause source phase : Nat) : SamePulls s0 (s.latch k cause source phase) := by
  have hone := pulls_latchOne h k cause source phase 0
  have hdraw (u : State) (hu : SamePulls s0 u) : SamePulls s0 u.draw.2 := pulls_of_zones hu rfl
  unfold State.latch
  refine pulls_ite h (pulls_ite (pulls_modTwn h _) (pulls_ite ?_ hone))
  exact pulls_forNums _ _ (fun i u hu => pulls_latchOne (hdraw u hu) _ _ _ _ _) hone

/-! ### A pull-in -/

theorem pulls_pullChan (n : Nat) : SamePulls s0 (s.pullChan n) := by
  unfold State.pullChan
  simp (maxDischargeDepth := 20) +contextual only [pulls_ite, pulls_modChan, pulls_chanOff, h]

theorem pulls_pullEdges (k mask : Nat) : SamePulls s0 (s.pullEdges k mask) :=
  pulls_ite (pulls_forNums _ _ (fun _ _ hu => pulls_pullChan (pulls_pullChan hu _) _) h) h

theorem pulls_pullFlag (k : Nat) (acts : Bool) : SamePulls s0 (s.pullFlag k acts) :=
  pulls_ite (pulls_modZone k _ h fun _ => ⟨rfl, rfl⟩) h

theorem pulls_pullPhases (k mask : Nat) : SamePulls s0 (s.pullPhases k mask) := pulls_pullEdges (pulls_pullFlag h _ _) _ _

theorem pulls_askPullFrame (k phases : Nat) : SamePulls s0 (s.askPullFrame k phases) := pulls_ite (pulls_modGs h _ _) h

end

end

/-- The zone of a stack takes the request of a pull-in. -/
def State.pullNoted (s : State) (k phases : Nat) : State := s.modZone k fun z => { z with pullReq := true, pullPh := z.pullPh ||| phases }

/-- R229, R230: a pull-in stands at its stack with its phases. -/
theorem pullIn_zone (s : State) {c : Nat} (hk : s.cmpStack c < 16) : ((s.pullIn c).zone (s.cmpStack c)).pullReq = true ∧
    ((s.pullIn c).zone (s.cmpStack c)).pullPh = (s.zone (s.cmpStack c)).pullPh ||| s.lv .trpCmpCfg c 0 14 12 := by
  have hasked : ((s.pullNoted (s.cmpStack c) (s.lv .trpCmpCfg c 0 14 12)).zone (s.cmpStack c)) =
      { s.zone (s.cmpStack c) with pullReq := true, pullPh := (s.zone (s.cmpStack c)).pullPh ||| s.lv .trpCmpCfg c 0 14 12 } :=
    State.zone_modZone_same _ _ _ hk
  have hkept : SamePulls (s.pullNoted (s.cmpStack c) (s.lv .trpCmpCfg c 0 14 12)) (s.pullIn c) := by
    have h := SamePulls.refl (s.pullNoted (s.cmpStack c) (s.lv .trpCmpCfg c 0 14 12))
    unfold State.pullIn
    unfold State.pullNoted at *
    simp (maxDischargeDepth := 20) only [pulls_ite, pulls_latch, pulls_askPullFrame, pulls_pullFlag, pulls_pullPhases, h]
  obtain ⟨hreq, hph⟩ := hkept (s.cmpStack c)
  rw [hreq, hph, hasked]
  exact ⟨rfl, rfl⟩

end Sys2Proof.Machine
end

section
/-! The statement about ticks, dumps and the events of a channel (R138 to R151, R227, R229). -/

-- The proofs are elaborated one after the other: this bounds the threads of the compiler, whose stacks count as its memory.
set_option Elab.async false

namespace Sys2Proof.Machine

section
variable {s : State}

theorem setsDec_modDec (c : Fin 160) (f : DecChan → DecChan) : SetsDec c (f (s.dec c)) s (s.modDec c f) := by
  refine ⟨State.dec_modDec_same _ _ _ c.isLt, fun j hj => State.dec_modDec_other _ _ _ _ ?_, only_modDec _ _ (Only.refl _ s) (by decide)⟩
  exact fun h => hj (Fin.ext h)

theorem bitsOf_lt (v : DWord) (hi lo : Nat) : bitsOf v hi lo < 2 ^ (hi + 1 - lo) :=
  Nat.mod_lt _ (Nat.two_pow_pos _)

theorem cmpStack_lt (s : State) (c : Nat) : s.cmpStack c < 16 := by
  have hindex : s.srcIndex c < 2 ^ 7 := bitsOf_lt _ _ _
  have hcfg : s.lv .trpCmpCfg c 0 19 16 < 2 ^ 4 := bitsOf_lt _ _ _
  unfold State.cmpStack
  split
  · omega
  · exact hcfg

/-! ### Stuck runs -/

/-- A stuck run that is noted. -/
def State.stuckNoted (s : State) (c : Nat) : State :=
  let u := (s.modDec c fun d => { d with stuck := true }).setFlag .decStuck (c / 32) (c % 32)
  u.logFlag 6 (c % 32) (u.reg .decStuck (c / 32))

theorem stuckNoted_effect {c : Nat} (hc : c < 160) :
    (s.stuckNoted c).dec c = { s.dec c with stuck := true } ∧ Only [.meas, .regs, .log] s (s.stuckNoted c) := by
  have hmod : Only [.meas, .regs, .log] s ((s.modDec c fun d => { d with stuck := true }).setFlag .decStuck (c / 32) (c % 32)) :=
    only_setFlag _ _ _ (only_modDec _ _ (Only.refl _ s) (by decide)) (by decide)
  refine ⟨?_, only_logFlag _ _ _ _ hmod (by decide) (by decide)⟩
  have hlog := only_logFlag (ps := [.regs, .log]) ((s.modDec c fun d => { d with stuck := true }).setFlag .decStuck (c / 32) (c % 32)) 6 (c % 32)
    (((s.modDec c fun d => { d with stuck := true }).setFlag .decStuck (c / 32) (c % 32)).reg .decStuck (c / 32)) (Only.refl _ _) (by decide)
    (by decide)
  exact (dec_of_meas _ (hlog .meas (by decide)) c).trans (State.dec_modDec_same s c (fun d => { d with stuck := true }) hc)

/-- R147: a stuck run starts, and trips the channel's stack where that is configured. -/
theorem stuckRunStart_effect (c : Fin 160) (hactive : s.chanActive c = true) (hlen : 64 < (s.dec c).runLen) (hstuck : (s.dec c).stuck = false) :
    Completes (.stuckRunStart c) s fun t =>
      t.dec c = { s.dec c with stuck := true }
        ∧ (s.lvb .decSrc c 0 12 = true → s.latches (s.cmpStack c) 11 = true → Tripped (s.cmpStack c) 11 s t)
        ∧ (s.lvb .decSrc c 0 12 = false → t.trp = s.trp ∧ t.pwm = s.pwm) := by
  obtain ⟨hdec, honly⟩ := stuckNoted_effect (s := s) c.isLt
  have hlive : (s.stuckNoted c).live = s.live := honly .live (by decide)
  have hexec : exec (.stuckRunStart c) s = if (s.stuckNoted c).lvb .decSrc c 0 12 then
      .next ((s.stuckNoted c).latch ((s.stuckNoted c).cmpStack c) 11 c ((s.stuckNoted c).cmpPhase c)) else .next (s.stuckNoted c) :=
    if_pos (by simp [hactive, hlen, hstuck])
  have hbit : (s.stuckNoted c).lvb .decSrc c 0 12 = s.lvb .decSrc c 0 12 := by rw [State.lvb, hlive, State.lvb]
  have hstack : (s.stuckNoted c).cmpStack c = s.cmpStack c := by
    unfold State.cmpStack State.srcKind State.srcIndex State.lv
    rw [hlive]
  have hsame := trips_of_only honly
  rw [hbit, hstack] at hexec
  generalize s.stuckNoted c = u at *
  cases hcfg : s.lvb .decSrc c 0 12 with
  | true =>
    rw [hcfg, if_pos rfl] at hexec
    obtain ⟨htrips, htripped⟩ := latch_trips (s := u) (cmpStack_lt s c) (by decide : 11 < 16) c (u.cmpPhase c)
    have hmeas : (u.latch (s.cmpStack c) 11 c (u.cmpPhase c)).meas = u.meas :=
      only_latch (ps := [.free, .regs, .pwm, .gdl, .trp, .nt, .log, .acq, .twn]) u _ 11 c _ (Only.refl _ u) (by decide) (by decide) (by decide)
        (by decide) (by decide) (by decide) (by decide) (by decide) (by decide) .meas (by decide)
    refine ⟨_, hexec, (dec_of_meas u hmeas c).trans hdec, fun _ hlatches => ?_, fun h => Bool.noConfusion h⟩
    exact (hsame.trans htrips).tripped (cmpStack_lt s c) (htripped (by rw [hsame.watch]; exact hlatches)).1
  | false =>
    rw [hcfg, if_neg (by decide)] at hexec
    exact ⟨_, hexec, hdec, fun h => Bool.noConfusion h, fun _ => ⟨honly .trp (by decide), honly .pwm (by decide)⟩⟩

/-! ### Comparators -/

/-- A comparator that is active. -/
def State.cmpOn (s : State) (c : Nat) : State := s.modDec c fun d => { d with cmpActive := true }

/-- What an active comparator does. -/
def State.cmpActs (s : State) (c k : Nat) : State :=
  match s.lv .trpCmpCfg c 0 1 0 with
  | 1 => s.latch k 0 c (s.cmpPhase c)
  | 2 => (s.pullIn c).count .trpPullCnt k
  | _ => s

theorem cmpActs_only (c k : Nat) : Only [.free, .regs, .pwm, .gdl, .trp, .nt, .log, .acq, .twn] s (s.cmpActs c k) := by
  unfold State.cmpActs
  split
  · exact only_latch _ _ _ _ _ (Only.refl _ s) (by decide) (by decide) (by decide) (by decide) (by decide) (by decide) (by decide) (by decide)
      (by decide)
  · exact only_count _ _ _ (only_pullIn _ _ (Only.refl _ s) (by decide) (by decide) (by decide) (by decide) (by decide) (by decide) (by decide)
      (by decide) (by decide)) (by decide)
  · exact Only.refl _ s

/-- R227, R229: a comparator becomes active, and trips or pulls in. -/
theorem comparatorActivate_effect (c : Fin 160) (hactive : s.chanActive c = true) (hmasked : (s.dec c).cmpMasked = false)
    (hdown : (s.dec c).srcDown = false) (hoff : (s.dec c).cmpActive = false) (hval : s.fastValue c > s.cmpHi c ∨ s.fastValue c < s.cmpLo c) :
    Completes (.comparatorActivate c) s fun t =>
      t.dec c = { s.dec c with cmpActive := true }
        ∧ (s.lv .trpCmpCfg c 0 1 0 = 1 → s.latches (s.cmpStack c) 0 = true → Tripped (s.cmpStack c) 0 s t)
        ∧ (s.lv .trpCmpCfg c 0 1 0 = 2 → (t.zone (s.cmpStack c)).pullReq = true
            ∧ (t.zone (s.cmpStack c)).pullPh = (s.zone (s.cmpStack c)).pullPh ||| s.lv .trpCmpCfg c 0 14 12)
        ∧ (s.lv .trpCmpCfg c 0 1 0 = 0 → t.trp = s.trp ∧ t.pwm = s.pwm) := by
  have hexec : exec (.comparatorActivate c) s = .next (((s.cmpOn c).cmpActs c (s.cmpStack c)).acqOffer 3
      ((s.cmpOn c).cmpActs c (s.cmpStack c)).tripClock (2 ^ s.cmpStack c)
      fun u => ((s.cmpOn c).cmpActs c (s.cmpStack c)).acqSel u (s.cmpStack c)) := if_pos (by simp [hactive, hmasked, hdown, hoff, hval])
  have hoffer := only_acqOffer (ps := [.regs, .nt, .acq]) ((s.cmpOn c).cmpActs c (s.cmpStack c)) 3 ((s.cmpOn c).cmpActs c (s.cmpStack c)).tripClock
    (2 ^ s.cmpStack c) (fun u => ((s.cmpOn c).cmpActs c (s.cmpStack c)).acqSel u (s.cmpStack c)) (Only.refl _ _) (by decide) (by decide) (by decide)
  refine ⟨_, hexec, ?_⟩
  beta_reduce
  generalize State.acqOffer _ _ _ _ _ = t at *
  have htrp := hoffer .trp (by decide)
  have hpwm := hoffer .pwm (by decide)
  have hacts := cmpActs_only (s := s.cmpOn c) c (s.cmpStack c)
  have hk := cmpStack_lt s c
  refine ⟨?_, fun hcfg hlatches => ?_, fun hcfg => ?_, fun hcfg => ?_⟩
  · rw [dec_of_meas _ (hoffer .meas (by decide)), dec_of_meas _ (hacts .meas (by decide))]
    exact State.dec_modDec_same s c _ c.isLt
  · have heq : (s.cmpOn c).cmpActs c (s.cmpStack c) = (s.cmpOn c).latch (s.cmpStack c) 0 c ((s.cmpOn c).cmpPhase c) := by
      have hcfg' : (s.cmpOn c).lv .trpCmpCfg c 0 1 0 = 1 := hcfg
      rw [State.cmpActs, hcfg']
      rfl
    have hsame : TripsOnly s (s.cmpOn c) := trips_of_only (l := [.meas]) (only_modDec _ _ (Only.refl _ s) (by decide))
    obtain ⟨htrips, htripped⟩ := latch_trips (s := s.cmpOn c) hk (by decide : 0 < 16) c ((s.cmpOn c).cmpPhase c)
    have hlatches' : (s.cmpOn c).latches (s.cmpStack c) 0 = true := by rw [hsame.watch]; exact hlatches
    exact Tripped.keep (heq ▸ (hsame.trans htrips).tripped hk (htripped hlatches').1) htrp hpwm
  · have heq : (s.cmpOn c).cmpActs c (s.cmpStack c) = ((s.cmpOn c).pullIn c).count .trpPullCnt (s.cmpStack c) := by
      have hcfg' : (s.cmpOn c).lv .trpCmpCfg c 0 1 0 = 2 := hcfg
      rw [State.cmpActs, hcfg']
      rfl
    have hpull := pullIn_zone (s.cmpOn c) (c := c) hk
    have hzone : t.zone (s.cmpStack c) = ((s.cmpOn c).pullIn c).zone (s.cmpStack c) := by rw [State.zone, htrp, heq]; rfl
    rw [hzone]
    exact hpull
  · have heq : (s.cmpOn c).cmpActs c (s.cmpStack c) = s.cmpOn c := by
      have hcfg' : (s.cmpOn c).lv .trpCmpCfg c 0 1 0 = 0 := hcfg
      rw [State.cmpActs, hcfg']
      rfl
    exact ⟨htrp.trans (by rw [heq]; rfl), hpwm.trans (by rw [heq]; rfl)⟩

end

/-- Settles O31: a tick goes channel by channel, each out of its own state; a dump's words stand because nothing that follows writes DEC_OUT. -/
theorem ticksDumpsAndChannelEvents : Obligations.TicksDumpsAndChannelEvents := by
  unfold Obligations.TicksDumpsAndChannelEvents
  refine ⟨?tick, ?noTick, ?dump, ?stuckStart, ?stuckEnd, ?resume, ?activate, ?deactivate, ?maskEnd⟩
  case tick =>
    intro lands ps s hrun hstrobe
    obtain ⟨t, hexec, htick, hnow, u, hsource, hmeas, hdec⟩ := modulatorTick_effect s lands ps hrun hstrobe
    have hsame (c : Nat) : u.dec c = s.dec c := dec_of_meas s hmeas c
    refine ⟨t, hexec, htick, hnow, fun c b hactive hb hdown => ?_, fun c b hactive hb hdown hkind => ?_, fun c hactive hb => ?_,
      fun c hactive => ?_⟩
    · rw [hdec c c.isLt, if_pos hactive, tickChan_bit lands _ c.isLt hsource hb (by rwa [hsame]), hsame, chanBit_eq,
        State.dec_modDec_same _ _ _ c.isLt, State.dec_modDec_same _ _ _ c.isLt]
      exact (congrFun (bitTaken_congr (s := s) rfl c b) _).symm
    · rw [hdec c c.isLt, if_pos hactive, tickChan_down lands _ c.isLt hsource hb (by rwa [hsame]) hkind, hsame]
    · rw [hdec c c.isLt, if_pos hactive, tickChan_lost lands _ c.isLt hsource hb, hsame]
      exact (State.dec_modDec_same s c (fun d =>
        { d with srcDown := true, runLen := 0, stuck := false, cmpActive := false, cmpMasked := true }) c.isLt).symm
    · rw [hdec c c.isLt, if_neg (by rw [hactive]; decide)]
  case noTick =>
    intro lands ps s h
    refine if_neg ?_
    rcases h with h | h
    · rw [h, Bool.false_and]
      decide
    · rw [h, Bool.not_true, Bool.and_false]
      decide
  case dump =>
    intro g s hs hdue
    obtain ⟨hgroup, htick, hwords⟩ := dump_effect hs g.isLt
    refine ⟨_, if_pos hdue, ?_, ?_, fun hreset c hcg hclear => ?_⟩
    · rw [hgroup, State.dumpCount]
      split <;> simp [BitVec.ofNat_add]
    · have hdone : ((vget (s.dump g).meas.groups g {}).lastTick != some ((s.dump g).meas.tick - 1)) = false := by
        rw [hgroup, htick]
        simp
      rw [State.dumpTick, hdone]
      simp
    · have hcount : s.dumpCount g = (vget s.meas.groups g {}).count.toNat + 1 := by
        rw [State.dumpCount, hreset]
        rfl
      rw [hwords hreset c c.isLt hcg hclear, hcount]
  case stuckStart =>
    intro c s hactive hlen hstuck
    exact stuckRunStart_effect c hactive hlen hstuck
  case stuckEnd =>
    intro c s hstuck hlen
    exact ⟨_, if_pos (by simp [hstuck, hlen]), setsDec_modDec c fun d => { d with stuck := false }⟩
  case resume =>
    intro c s hdown hkind hlink hbit
    exact ⟨_, if_pos (by simp [hdown, hkind, hlink, hbit]),
      setsDec_modDec c fun d => { d.clearFast with srcDown := false, clearPend := true, runLen := 0, valBits := 0 }⟩
  case activate =>
    intro c s hactive hmasked hdown hoff hval
    exact comparatorActivate_effect c hactive hmasked hdown hoff hval
  case deactivate =>
    intro c s hon hval
    exact ⟨_, if_pos (by simp [hon, hval]), setsDec_modDec c fun d => { d with cmpActive := false }⟩
  case maskEnd =>
    intro c s hmasked hdown hactive hbits
    exact ⟨_, if_pos (by simp [hmasked, hdown, hactive, hbits]), setsDec_modDec c fun d => { d with cmpMasked := false }⟩

end Sys2Proof.Machine
end

section
/-! What edges, rises and turn-offs make of a channel, and what they leave of it (R164, R168 to R177). -/

-- The proofs are elaborated one after the other: this bounds the threads of the compiler, whose stacks count as its memory.
set_option Elab.async false

namespace Sys2Proof.Machine

theorem partner_ne (n : Nat) : partner n ≠ n := by
  unfold partner
  split <;> omega

theorem partner_lt {n : Nat} (h : n < 192) : partner n < 192 := by
  unfold partner
  split <;> omega

theorem partner_partner (n : Nat) : partner (partner n) = n := by
  unfold partner
  repeat' split
  all_goals omega

theorem pairOf_lt {n : Nat} (h : n < 192) : pairOf n < 96 := by
  unfold pairOf
  omega

/-! ### A turn-off -/

section
variable (s : State) (n at_ : Nat)

theorem gcFall_other {j : Nat} (h : j ≠ n) : (s.gcFall n at_).chan j = s.chan j := by
  unfold State.gcFall
  split
  · exact State.chan_modChan_other _ _ _ _ h
  · rfl

/-- A falling gate command changes what confirms it and nothing else of the channel. -/
theorem gcFall_chan (hn : n < 192) : ∃ gcAt offAt gaOff diffAt ackDue, (s.gcFall n at_).chan n = { s.chan n with
    gc := false, gcAt := gcAt, offAt := offAt, gaOff := gaOff, diffAt := diffAt, ackDue := ackDue } := by
  unfold State.gcFall
  split
  · exact ⟨_, _, _, _, _, State.chan_modChan_same _ _ _ hn⟩
  · next hgc =>
    refine ⟨(s.chan n).gcAt, (s.chan n).offAt, (s.chan n).gaOff, (s.chan n).diffAt, (s.chan n).ackDue, ?_⟩
    rw [← Bool.eq_false_iff.mpr hgc]

theorem chanOff_other {j : Nat} (h : j ≠ n) : (s.chanOff n at_).chan j = s.chan j :=
  (gcFall_other _ n at_ h).trans (State.chan_modChan_other _ _ _ _ h)

theorem chanOff_chan (hn : n < 192) : ∃ gcAt offAt gaOff diffAt ackDue, (s.chanOff n at_).chan n = { s.chan n with
    out := false, wait := none, gc := false, gcAt := gcAt, offAt := offAt, gaOff := gaOff, diffAt := diffAt, ackDue := ackDue } := by
  obtain ⟨gcAt, offAt, gaOff, diffAt, ackDue, heq⟩ :=
    gcFall_chan (s.modChan n fun c => { c with out := false, wait := none, offAt := if c.out then at_ else c.offAt }) n at_ hn
  refine ⟨gcAt, offAt, gaOff, diffAt, ackDue, heq.trans ?_⟩
  rw [State.chan_modChan_same _ _ _ hn]

end

/-! ### A rise -/

/-- What a rise that is asked for leaves of a channel. -/
def Chan.still (c : Chan) : Chan := { c with wait := none, pulled := false, cut := false }

theorem Chan.edges_of_still {c c' : Chan} (h : c.still = c'.still) : c.dueA = c'.dueA ∧ c.dueB = c'.dueB ∧ c.req = c'.req := by
  have hdueA := congrArg Chan.dueA h
  have hdueB := congrArg Chan.dueB h
  have hreq := congrArg Chan.req h
  exact ⟨hdueA, hdueB, hreq⟩

section
variable (s : State) (n at_ : Nat)

theorem chan_of_pwm {t : State} (h : t.pwm = s.pwm) (j : Nat) : t.chan j = s.chan j := by rw [State.chan, h, State.chan]

theorem chan_count (r : Reg) (i k j : Nat) : (s.count r i k).chan j = s.chan j := rfl

/-- What a rise that is asked for changes of the channel `c`. -/
def State.riseAsked (c : Chan) : Chan :=
  if c.out then c
  else if c.pulled then { c with cut := true }
  else if s.pullStands n && !s.linkMode then { c with pulled := true, cut := true }
  else { c with cut := false, wait := some (max (at_ + s.deadTime n) ((s.chan (partner n)).offAt + s.deadTime n)) }

theorem askRise_pwm : (s.askRise n at_).pwm = s.pwm ∧ (s.chan n).out = true ∨
    (s.askRise n at_).pwm = (s.modChan n fun _ => s.riseAsked n at_ (s.chan n)).pwm := by
  unfold State.riseAsked State.askRise
  split
  · next h => exact .inl ⟨rfl, h⟩
  · split
    · exact .inr rfl
    · dsimp only
      split
      · exact .inr rfl
      · split
        · split
          · exact .inr rfl
          · exact .inr rfl
        · exact .inr rfl

theorem askRise_other {j : Nat} (h : j ≠ n) : (s.askRise n at_).chan j = s.chan j := by
  obtain ⟨hpwm, -⟩ | hpwm := askRise_pwm s n at_
  · exact chan_of_pwm s hpwm j
  · exact (chan_of_pwm _ hpwm j).trans (State.chan_modChan_other _ _ _ _ h)

theorem askRise_chan (hn : n < 192) : (s.askRise n at_).chan n = s.riseAsked n at_ (s.chan n) := by
  obtain ⟨hpwm, hout⟩ | hpwm := askRise_pwm s n at_
  · rw [chan_of_pwm s hpwm, State.riseAsked, if_pos hout]
  · exact (chan_of_pwm _ hpwm n).trans (State.chan_modChan_same _ _ _ hn)

theorem still_riseAsked (c : Chan) : (s.riseAsked n at_ c).still = c.still := by
  unfold State.riseAsked
  repeat' split
  all_goals rfl

theorem still_askRise (j : Nat) (hn : n < 192) : ((s.askRise n at_).chan j).still = (s.chan j).still := by
  by_cases h : j = n
  · rw [h, askRise_chan s n at_ hn, still_riseAsked]
  · rw [askRise_other s n at_ h]

end

/-! ### The end of an overlap -/

/-- What the end of an overlap leaves of a channel. -/
def Chan.kept (c : Chan) : Chan := { c.still with lvl := false, dropped := false }

/-- The turn of one channel of a pair when their overlap ends. -/
def State.overlapTurn (s : State) (m at_ : Nat) (keep : Bool) : State :=
  if (s.chan m).lvl && s.remaining m at_ != some 0 && !((s.chan m).offSeq.isSome && (s.chan m).offOne) then
    if keep then s.askRise m at_ else (s.modChan m fun c => { c with lvl := false, dropped := true }).count .pwmDropCnt (m / 12)
  else s

theorem endOverlap_eq (s : State) (n at_ : Nat) : ∃ k k', s.endOverlap n at_ =
    (({ s with pwm := { s.pwm with overlap := vset s.pwm.overlap (pairOf n) false } }).overlapTurn n at_ k).overlapTurn (partner n) at_ k' :=
  ⟨_, _, rfl⟩

section
variable (s : State) (at_ : Nat) (keep : Bool)

theorem overlapTurn_other {m j : Nat} (h : j ≠ m) : (s.overlapTurn m at_ keep).chan j = s.chan j := by
  unfold State.overlapTurn
  split
  · split
    · exact askRise_other s m at_ h
    · exact (chan_count _ _ _ _ j).trans (State.chan_modChan_other s m j _ h)
  · rfl

/-- The level off, a channel takes no turn. -/
theorem overlapTurn_low {m : Nat} (h : (s.chan m).lvl = false) : s.overlapTurn m at_ keep = s := if_neg (by simp [h])

theorem kept_overlapTurn (j : Nat) {m : Nat} (hm : m < 192) : ((s.overlapTurn m at_ keep).chan j).kept = (s.chan j).kept := by
  by_cases h : j = m
  · subst h
    unfold State.overlapTurn
    split
    · split
      · rw [askRise_chan s j at_ hm, Chan.kept, still_riseAsked, Chan.kept]
      · rw [chan_count, State.chan_modChan_same _ _ _ hm]
        rfl
    · rfl
  · rw [overlapTurn_other s at_ keep h]

theorem kept_endOverlap {n : Nat} (hn : n < 192) (j : Nat) : ((s.endOverlap n at_).chan j).kept = (s.chan j).kept := by
  obtain ⟨k, k', heq⟩ := endOverlap_eq s n at_
  rw [heq, kept_overlapTurn _ _ _ _ (partner_lt hn), kept_overlapTurn _ _ _ _ hn]
  rfl

/-- The end of an overlap is none of the business of a channel whose level is off. -/
theorem endOverlap_low {n : Nat} (hlvl : (s.chan n).lvl = false) : (s.endOverlap n at_).chan n = s.chan n := by
  obtain ⟨k, k', heq⟩ := endOverlap_eq s n at_
  have hlow : ({ s with pwm := { s.pwm with overlap := vset s.pwm.overlap (pairOf n) false } }).overlapTurn n at_ k =
      { s with pwm := { s.pwm with overlap := vset s.pwm.overlap (pairOf n) false } } := overlapTurn_low _ _ _ hlvl
  rw [heq, hlow, overlapTurn_other _ _ _ (partner_ne n).symm]
  rfl

end

/-! ### Levels -/

section
variable (s : State) (n at_ : Nat)

/-- The level goes off, and with it the output and the gate command; the edges and the request stand. -/
theorem lvlOff_chan (hn : n < 192) : ∃ gcAt offAt gaOff diffAt ackDue, (s.lvlOff n at_).chan n = { s.chan n with
    lvl := false, cut := false, out := false, wait := none, gc := false, gcAt := gcAt, offAt := offAt, gaOff := gaOff, diffAt := diffAt
    ackDue := ackDue } := by
  have hmod : (s.modChan n fun c => { c with lvl := false, cut := false }).chan n = { s.chan n with lvl := false, cut := false } :=
    State.chan_modChan_same _ _ _ hn
  obtain ⟨gcAt, offAt, gaOff, diffAt, ackDue, hoff⟩ := chanOff_chan (s.modChan n fun c => { c with lvl := false, cut := false }) n at_ hn
  rw [hmod] at hoff
  refine ⟨gcAt, offAt, gaOff, diffAt, ackDue, ?_⟩
  unfold State.lvlOff
  dsimp only
  split
  · rw [endOverlap_low _ _ (by rw [hoff]), hoff]
  · rw [hoff]

theorem kept_lvlOff_other (hn : n < 192) {j : Nat} (h : j ≠ n) : ((s.lvlOff n at_).chan j).kept = (s.chan j).kept := by
  have hoff : ((s.modChan n fun c => { c with lvl := false, cut := false }).chanOff n at_).chan j = s.chan j :=
    (chanOff_other _ n at_ h).trans (State.chan_modChan_other _ _ _ _ h)
  unfold State.lvlOff
  dsimp only
  split
  · rw [kept_endOverlap _ _ hn, hoff]
  · rw [hoff]

/-- R176: an overlap begins, and both outputs go off. -/
theorem beginOverlap_effect (hn : n < 192) :
    (∃ gcAt offAt gaOff diffAt ackDue, (s.beginOverlap n at_).chan n = { s.chan n with
      out := false, wait := none, gc := false, gcAt := gcAt, offAt := offAt, gaOff := gaOff, diffAt := diffAt, ackDue := ackDue }) ∧
    (∃ gcAt offAt gaOff diffAt ackDue, (s.beginOverlap n at_).chan (partner n) = { s.chan (partner n) with
      out := false, wait := none, gc := false, gcAt := gcAt, offAt := offAt, gaOff := gaOff, diffAt := diffAt, ackDue := ackDue }) ∧
    vget (s.beginOverlap n at_).pwm.overlap (pairOf n) false = true := by
  obtain ⟨marked, hmarked⟩ : ∃ u, u = { s with pwm := { s.pwm with overlap := vset s.pwm.overlap (pairOf n) true } } := ⟨_, rfl⟩
  have hpwm : (s.beginOverlap n at_).pwm = ((marked.chanOff n at_).chanOff (partner n) at_).pwm := by
    rw [hmarked]
    rfl
  have hchan (j : Nat) : marked.chan j = s.chan j := by
    rw [hmarked]
    rfl
  have hover (u : State) (m : Nat) : (u.chanOff m at_).pwm.overlap = u.pwm.overlap := by
    unfold State.chanOff State.gcFall
    split <;> rfl
  refine ⟨?_, ?_, ?_⟩
  · rw [chan_of_pwm _ hpwm, chanOff_other _ _ _ (partner_ne n).symm, ← hchan]
    exact chanOff_chan marked n at_ hn
  · rw [chan_of_pwm _ hpwm, ← hchan, ← chanOff_other marked n at_ (partner_ne n)]
    exact chanOff_chan _ (partner n) at_ (partner_lt hn)
  · rw [hpwm, hover, hover, hmarked]
    exact vget_vset_same _ _ _ _ (pairOf_lt hn)

end

end Sys2Proof.Machine
end

section
/-! The statement about compare edges (R164, R170, R171, R173, R176). -/

-- The proofs are elaborated one after the other: this bounds the threads of the compiler, whose stacks count as its memory.
set_option Elab.async false

namespace Sys2Proof.Machine

section
variable {s : State} {n : Nat} (hn : n < 192)

/-! ### Levels that rise -/

/-- The channel with its level on. -/
def State.lvlUp (s : State) (n : Nat) : State := s.modChan n fun c => { c with lvl := true }

theorem lvlOn_alone (at_ : Nat) (h : (s.chan (partner n)).lvl = false) : s.lvlOn n at_ = (s.lvlUp n).askRise n at_ := by
  refine if_neg ?_
  rw [State.chan_modChan_other _ _ _ _ (partner_ne n), h]
  decide

theorem lvlOn_over (at_ : Nat) (h : (s.chan (partner n)).lvl = true) : s.lvlOn n at_ = (s.lvlUp n).beginOverlap n at_ :=
  if_pos (by rw [State.chan_modChan_other _ _ _ _ (partner_ne n), h])

include hn

theorem lvlUp_chan : (s.lvlUp n).chan n = { s.chan n with lvl := true } ∧ (s.lvlUp n).chan (partner n) = s.chan (partner n) :=
  ⟨State.chan_modChan_same _ _ _ hn, State.chan_modChan_other _ _ _ _ (partner_ne n)⟩

/-- A level that goes on leaves the edges and the request of its channel. -/
theorem lvlOn_edges (s : State) (at_ : Nat) : ((s.lvlOn n at_).chan n).dueA = (s.chan n).dueA ∧ ((s.lvlOn n at_).chan n).req = (s.chan n).req := by
  obtain ⟨hup, -⟩ := lvlUp_chan (s := s) hn
  cases h : (s.chan (partner n)).lvl with
  | true =>
    obtain ⟨⟨gcAt, offAt, gaOff, diffAt, ackDue, hchan⟩, -, -⟩ := beginOverlap_effect (s.lvlUp n) n at_ hn
    rw [lvlOn_over at_ h, hchan, hup]
    exact ⟨rfl, rfl⟩
  | false =>
    have hstill := still_askRise (s.lvlUp n) n at_ n hn
    rw [hup] at hstill
    obtain ⟨hdue, -, hreq⟩ := Chan.edges_of_still hstill
    rw [lvlOn_alone at_ h]
    exact ⟨hdue, hreq⟩

/-! ### A rising edge -/

/-- A rising edge that is due has come, and the request begins. -/
def State.edgeTaken (s : State) (n : Nat) : State := (s.modChan n fun c => { c with dueA := false }).modChan n fun c => { c with req := true }

theorem edgeTaken_chan : (s.edgeTaken n).chan n = { s.chan n with dueA := false, req := true } ∧
    ∀ j ≠ n, (s.edgeTaken n).chan j = s.chan j := by
  unfold State.edgeTaken
  refine ⟨?_, fun j hj => ?_⟩
  · rw [State.chan_modChan_same _ _ _ hn, State.chan_modChan_same _ _ _ hn]
  · rw [State.chan_modChan_other _ _ _ _ hj, State.chan_modChan_other _ _ _ _ hj]

/-- The instant at which an interval opens is kept with the width it needs. -/
def State.opened (s : State) (n at_ : Nat) : State :=
  s.modChan n fun c => { c with openAt := some (at_, max 1 (s.minPulse n) + s.deadTime n) }

omit hn in
/-- R164, R173: an interval of known width is judged, and any other one begins. -/
theorem risingEdge_begins (hreq : (s.chan n).req = false) (hdrop : (s.chan n).dropped = false) (hopen : (s.chan n).openAt = none) :
    s.risingEdge n =
      if ((s.chan n).dueB && namesEdge (s.tb (n / 12)).prd (s.chan n).cmpB && decide ((s.chan n).cmpA.toNat < (s.chan n).cmpB.toNat)) = true then
        if s.deadTime n < (s.chan n).cmpB.toNat - (s.chan n).cmpA.toNat
            ∧ s.minPulse n ≤ (s.chan n).cmpB.toNat - (s.chan n).cmpA.toNat - s.deadTime n then
          ((s.edgeTaken n).opened n ((s.tb (n / 12)).zeroAt + (s.chan n).cmpA.toNat)).lvlOn n ((s.tb (n / 12)).zeroAt + (s.chan n).cmpA.toNat)
        else ((s.edgeTaken n).modChan n fun c => { c with dropped := true }).count .pwmDropCnt (n / 12)
      else (s.edgeTaken n).lvlOn n ((s.tb (n / 12)).zeroAt + (s.chan n).cmpA.toNat) := by
  unfold State.risingEdge
  dsimp only
  rw [if_neg (by rw [hreq]; decide), if_neg (by rw [hdrop]; decide), hopen]
  rfl

/-- Whatever becomes of its level, the edge of a channel has come and its request stands. -/
theorem risingEdge_request (hreq : (s.chan n).req = false) (hdrop : (s.chan n).dropped = false) (hopen : (s.chan n).openAt = none) :
    ((s.risingEdge n).chan n).dueA = false ∧ ((s.risingEdge n).chan n).req = true := by
  obtain ⟨htaken, -⟩ := edgeTaken_chan (s := s) hn
  have hopened (at_ : Nat) : ((s.edgeTaken n).opened n at_).chan n =
      { (s.edgeTaken n).chan n with openAt := some (at_, max 1 ((s.edgeTaken n).minPulse n) + (s.edgeTaken n).deadTime n) } :=
    State.chan_modChan_same _ _ _ hn
  rw [risingEdge_begins hreq hdrop hopen]
  split
  · split
    · obtain ⟨hdue, hreq'⟩ := lvlOn_edges hn ((s.edgeTaken n).opened n ((s.tb (n / 12)).zeroAt + (s.chan n).cmpA.toNat))
        ((s.tb (n / 12)).zeroAt + (s.chan n).cmpA.toNat)
      rw [hdue, hreq', hopened, htaken]
      exact ⟨rfl, rfl⟩
    · rw [chan_count, State.chan_modChan_same _ _ _ hn, htaken]
      exact ⟨rfl, rfl⟩
  · obtain ⟨hdue, hreq'⟩ := lvlOn_edges hn (s.edgeTaken n) ((s.tb (n / 12)).zeroAt + (s.chan n).cmpA.toNat)
    rw [hdue, hreq', htaken]
    exact ⟨rfl, rfl⟩

end

/-! ### A falling edge -/

section
variable {s : State} {n : Nat} (hn : n < 192)
include hn

theorem modChan_chan (s : State) (f : Chan → Chan) : (s.modChan n f).chan n = f (s.chan n) := State.chan_modChan_same _ _ _ hn

/-- The instant that opened the interval is done with. -/
def State.openOver (s : State) (n at_ : Nat) : State :=
  match (s.chan n).openAt with
  | some (o, need) => if at_ - o < need then (s.modChan n fun c => { c with openAt := none }).count .pwmShortCnt (n / 12)
      else s.modChan n fun c => { c with openAt := none }
  | none => s

omit hn in
theorem openOver_pwm (at_ : Nat) : ∃ o, (s.openOver n at_).pwm = (s.modChan n fun c => { c with openAt := o }).pwm ∨
    (s.openOver n at_).pwm = s.pwm := by
  unfold State.openOver
  split
  · refine ⟨none, .inl ?_⟩
    split <;> rfl
  · exact ⟨none, .inr rfl⟩

theorem openOver_chan (s : State) (at_ : Nat) : ∃ o, (s.openOver n at_).chan n = { s.chan n with openAt := o } := by
  obtain ⟨o, h | h⟩ := openOver_pwm (s := s) (n := n) at_
  · exact ⟨o, (chan_of_pwm _ h n).trans (modChan_chan hn s fun c => { c with openAt := o })⟩
  · exact ⟨(s.chan n).openAt, chan_of_pwm s h n⟩

/-- A falling edge that is due has come. -/
def State.fallTaken (s : State) (n : Nat) : State := s.modChan n fun c => { c with dueB := false }

/-- And with it the request ends. -/
def State.requestOver (s : State) (n : Nat) : State := (s.fallTaken n).modChan n fun c => { c with req := false }

theorem requestOver_chan : (s.requestOver n).chan n = { s.chan n with dueB := false, req := false } := by
  rw [State.requestOver, modChan_chan hn, State.fallTaken, modChan_chan hn]

/-- What a falling edge leads to. -/
theorem fallingEdge_ends (at_ : Nat) (hat : at_ = (s.tb (n / 12)).zeroAt + (s.chan n).cmpB.toNat) (hreq : (s.chan n).req = true)
    (hdrop : (s.chan n).dropped = false) : ∃ keep : Bool, s.fallingEdge n =
      if ((s.chan n).dueA && namesEdge (s.tb (n / 12)).prd (s.chan n).cmpA && decide ((s.chan n).cmpB.toNat < (s.chan n).cmpA.toNat)) = true then
        if keep then (((s.requestOver n).openOver n at_).modChan n fun c =>
            { c with openAt := some (at_, max 1 (((s.requestOver n).openOver n at_).minPulse n)) }).lvlOff n at_
        else (((s.requestOver n).openOver n at_).modChan n fun c => { c with dropped := true }).count .pwmDropCnt (n / 12)
      else ((s.requestOver n).openOver n at_).lvlOff n at_ := by
  subst hat
  refine ⟨decide (0 < (s.chan n).cmpA.toNat - (s.chan n).cmpB.toNat ∧
    ((s.requestOver n).openOver n ((s.tb (n / 12)).zeroAt + (s.chan n).cmpB.toNat)).minPulse n ≤ (s.chan n).cmpA.toNat - (s.chan n).cmpB.toNat), ?_⟩
  have hopen : (s.requestOver n).openOver n ((s.tb (n / 12)).zeroAt + (s.chan n).cmpB.toNat) =
      match (s.chan n).openAt with
      | some (o, need) => if (s.tb (n / 12)).zeroAt + (s.chan n).cmpB.toNat - o < need then
          ((s.requestOver n).modChan n fun c => { c with openAt := none }).count .pwmShortCnt (n / 12)
        else (s.requestOver n).modChan n fun c => { c with openAt := none }
      | none => s.requestOver n := by
    rw [State.openOver, requestOver_chan hn]
  rw [hopen]
  unfold State.fallingEdge
  dsimp only
  rw [if_neg (by rw [hreq]; decide), if_neg (by rw [hdrop]; decide)]
  simp only [decide_eq_true_eq]
  rfl

/-- Whatever becomes of its level, the edge of a channel has come and its request is over. -/
theorem fallingEdge_request : ((s.fallingEdge n).chan n).dueB = false ∧ ((s.fallingEdge n).chan n).req = false := by
  have hover := requestOver_chan (s := s) hn
  cases hreq : (s.chan n).req with
  | false =>
    have heq : s.fallingEdge n = s.fallTaken n := if_pos (by rw [hreq]; rfl)
    rw [heq, State.fallTaken, modChan_chan hn]
    exact ⟨rfl, hreq⟩
  | true =>
    cases hdrop : (s.chan n).dropped with
    | true =>
      have heq : s.fallingEdge n = (s.requestOver n).modChan n fun c => { c with dropped := false, lvl := false } := by
        unfold State.fallingEdge
        dsimp only
        rw [if_neg (by rw [hreq]; decide), if_pos hdrop]
        rfl
      rw [heq, modChan_chan hn, hover]
      exact ⟨rfl, rfl⟩
    | false =>
      obtain ⟨keep, heq⟩ := fallingEdge_ends hn _ rfl hreq hdrop
      obtain ⟨o, hopen⟩ := openOver_chan hn (s.requestOver n) ((s.tb (n / 12)).zeroAt + (s.chan n).cmpB.toNat)
      have hlow (u : State) (at_ : Nat) (c : Chan) (hu : u.chan n = { c with dueB := false, req := false }) :
          ((u.lvlOff n at_).chan n).dueB = false ∧ ((u.lvlOff n at_).chan n).req = false := by
        obtain ⟨gcAt, offAt, gaOff, diffAt, ackDue, hoff⟩ := lvlOff_chan u n at_ hn
        rw [hoff, hu]
        exact ⟨rfl, rfl⟩
      rw [hover] at hopen
      rw [heq]
      split
      · split
        · exact hlow _ _ { s.chan n with openAt := _ } ((modChan_chan hn _ _).trans (by rw [hopen]))
        · rw [chan_count, modChan_chan hn, hopen]
          exact ⟨rfl, rfl⟩
      · exact hlow _ _ { s.chan n with openAt := o } hopen

/-- R164, R171: with no rising edge to come, the channel turns off. -/
theorem fallingEdge_off (hreq : (s.chan n).req = true) (hdrop : (s.chan n).dropped = false) (hdue : (s.chan n).dueA = false) :
    ((s.fallingEdge n).chan n).lvl = false ∧ ((s.fallingEdge n).chan n).out = false ∧ ((s.fallingEdge n).chan n).gc = false := by
  obtain ⟨keep, heq⟩ := fallingEdge_ends hn _ rfl hreq hdrop
  rw [if_neg (by rw [hdue]; simp)] at heq
  obtain ⟨gcAt, offAt, gaOff, diffAt, ackDue, hoff⟩ := lvlOff_chan
    ((s.requestOver n).openOver n ((s.tb (n / 12)).zeroAt + (s.chan n).cmpB.toNat)) n ((s.tb (n / 12)).zeroAt + (s.chan n).cmpB.toNat) hn
  rw [heq, hoff]
  exact ⟨rfl, rfl, rfl⟩

end

/-! ### A rise and what stands for it -/

theorem pullStands_congr {s u : State} {n : Nat} (hops : u.ops = s.ops) (hlive : u.live = s.live) (hmeas : u.meas = s.meas)
    (hforce : (u.chan n).force = (s.chan n).force) : u.pullStands n = s.pullStands n := by
  have hdec (c : Nat) : u.dec c = s.dec c := dec_of_meas s hmeas c
  unfold State.pullStands State.pullAsked State.chanActive State.groupOn State.cmpStack State.srcKind State.srcIndex State.lvb State.lv
  simp only [hops, hlive, hforce, hdec]

section
variable {s : State} {n : Nat} (hn : n < 192) (hreq : (s.chan n).req = false) (hdrop : (s.chan n).dropped = false)
  (hopen : (s.chan n).openAt = none)
include hn hreq hdrop hopen

omit hn in
/-- With no falling edge to come, the level goes on. -/
theorem risingEdge_level (hdue : (s.chan n).dueB = false) :
    s.risingEdge n = (s.edgeTaken n).lvlOn n ((s.tb (n / 12)).zeroAt + (s.chan n).cmpA.toNat) := by
  rw [risingEdge_begins hreq hdrop hopen, if_neg (by rw [hdue]; simp)]

/-- R170, R179: alone in its pair, the channel asks for its rise. -/
theorem risingEdge_asks (hdue : (s.chan n).dueB = false) (halone : (s.chan (partner n)).lvl = false) : (s.risingEdge n).chan n =
    ((s.edgeTaken n).lvlUp n).riseAsked n ((s.tb (n / 12)).zeroAt + (s.chan n).cmpA.toNat)
      { s.chan n with dueA := false, req := true, lvl := true } ∧
    ((s.edgeTaken n).lvlUp n).pullStands n = s.pullStands n ∧
    ((s.edgeTaken n).lvlUp n).chan (partner n) = s.chan (partner n) := by
  obtain ⟨htaken, hother⟩ := edgeTaken_chan (s := s) hn
  obtain ⟨hup, hpartner⟩ := lvlUp_chan (s := s.edgeTaken n) hn
  rw [htaken] at hup
  rw [hother _ (partner_ne n)] at hpartner
  refine ⟨?_, pullStands_congr rfl rfl rfl (by rw [hup]), hpartner⟩
  rw [risingEdge_level hreq hdrop hopen hdue, lvlOn_alone _ (by rw [hother _ (partner_ne n)]; exact halone), askRise_chan _ _ _ hn, hup]

/-- R170: the rise waits for its dead time. -/
theorem risingEdge_waits (hdue : (s.chan n).dueB = false) (halone : (s.chan (partner n)).lvl = false) (hout : (s.chan n).out = false)
    (hpulled : (s.chan n).pulled = false) (hstands : s.pullStands n = false ∨ s.linkMode = true) :
    ((s.risingEdge n).chan n).lvl = true ∧ ((s.risingEdge n).chan n).out = false ∧ ((s.risingEdge n).chan n).wait =
      some (max ((s.tb (n / 12)).zeroAt + (s.chan n).cmpA.toNat) (s.chan (partner n)).offAt + s.deadTime n) := by
  obtain ⟨hchan, hpull, hpartner⟩ := risingEdge_asks hn hreq hdrop hopen hdue halone
  have hlink : ((s.edgeTaken n).lvlUp n).linkMode = s.linkMode := rfl
  have hdead : ((s.edgeTaken n).lvlUp n).deadTime n = s.deadTime n := rfl
  have hfree : ¬ (((s.edgeTaken n).lvlUp n).pullStands n && !((s.edgeTaken n).lvlUp n).linkMode) = true := by
    rw [hpull, hlink]
    rcases hstands with h | h
    · rw [h]
      simp
    · rw [h]
      simp
  rw [State.riseAsked, if_neg (by rw [hout]; decide), if_neg (by rw [hpulled]; decide), if_neg hfree, hpartner, hdead] at hchan
  rw [hchan]
  exact ⟨rfl, hout, by rw [Nat.add_max_add_right]⟩

/-- R179: the rise is taken away where a pull-in stands for it. -/
theorem risingEdge_pulled (hdue : (s.chan n).dueB = false) (halone : (s.chan (partner n)).lvl = false) (hout : (s.chan n).out = false)
    (hstands : s.pullStands n = true) (hlink : s.linkMode = false) :
    ((s.risingEdge n).chan n).lvl = true ∧ ((s.risingEdge n).chan n).out = false ∧ ((s.risingEdge n).chan n).wait = (s.chan n).wait ∧
      ((s.risingEdge n).chan n).pulled = true ∧ ((s.risingEdge n).chan n).cut = true := by
  obtain ⟨hchan, hpull, -⟩ := risingEdge_asks hn hreq hdrop hopen hdue halone
  have hlink' : ((s.edgeTaken n).lvlUp n).linkMode = false := hlink
  rw [State.riseAsked, if_neg (by rw [hout]; decide), hpull, hstands, hlink'] at hchan
  rw [hchan]
  split
  · next hpulled => exact ⟨rfl, hout, rfl, hpulled, rfl⟩
  · exact ⟨rfl, hout, rfl, rfl, rfl⟩

/-- R176: where the partner is on already, both go off. -/
theorem risingEdge_overlaps (hdue : (s.chan n).dueB = false) (hboth : (s.chan (partner n)).lvl = true) :
    ((s.risingEdge n).chan n).out = false ∧ ((s.risingEdge n).chan n).gc = false ∧ ((s.risingEdge n).chan (partner n)).out = false ∧
      ((s.risingEdge n).chan (partner n)).gc = false ∧ vget (s.risingEdge n).pwm.overlap (pairOf n) false = true := by
  obtain ⟨-, hother⟩ := edgeTaken_chan (s := s) hn
  rw [risingEdge_level hreq hdrop hopen hdue, lvlOn_over _ (by rw [hother _ (partner_ne n)]; exact hboth)]
  obtain ⟨⟨_, _, _, _, _, hmine⟩, ⟨_, _, _, _, _, hits⟩, hover⟩ :=
    beginOverlap_effect ((s.edgeTaken n).lvlUp n) n ((s.tb (n / 12)).zeroAt + (s.chan n).cmpA.toNat) hn
  rw [hmine, hits]
  exact ⟨rfl, rfl, rfl, rfl, hover⟩

/-- R173: an interval too short for its dead time and the minimum pulse is dropped. -/
theorem risingEdge_drops (hdue : (s.chan n).dueB = true) (hnames : namesEdge (s.tb (n / 12)).prd (s.chan n).cmpB = true)
    (hlt : (s.chan n).cmpA.toNat < (s.chan n).cmpB.toNat)
    (hshort : (s.chan n).cmpB.toNat - (s.chan n).cmpA.toNat ≤ s.deadTime n ∨
      (s.chan n).cmpB.toNat - (s.chan n).cmpA.toNat < s.deadTime n + s.minPulse n) :
    (s.risingEdge n).chan n = { s.chan n with dueA := false, req := true, dropped := true } := by
  obtain ⟨htaken, -⟩ := edgeTaken_chan (s := s) hn
  rw [risingEdge_begins hreq hdrop hopen, if_pos (by simp [hdue, hnames, hlt]), if_neg (by omega), chan_count, modChan_chan hn, htaken]

end

/-! ### At its instant -/

theorem edge_sameState {s u : State} (h : Only [.now, .nt] s u) {n : Nat} : (∀ j, u.chan j = s.chan j) ∧ (∀ k, u.tb k = s.tb k) ∧
    u.deadTime n = s.deadTime n ∧ u.minPulse n = s.minPulse n ∧ u.linkMode = s.linkMode ∧ u.pullStands n = s.pullStands n := by
  have hpwm := h .pwm (by decide)
  have hlive := h .live (by decide)
  have hchan (j : Nat) : u.chan j = s.chan j := chan_of_pwm s hpwm j
  refine ⟨hchan, fun k => by rw [State.tb, hpwm, State.tb], ?_, ?_, ?_, pullStands_congr (h .ops (by decide)) hlive (h .meas (by decide)) (by rw [hchan])⟩
  · unfold State.deadTime State.lv
    rw [hlive]
  · unfold State.minPulse State.lv
    rw [hlive]
  · unfold State.linkMode State.lv
    rw [hlive]

/-- Settles O33: an edge is judged at its instant, and each clause is the branch of the channel's levels that it leads to. -/
theorem edgesKeepDeadTimeAndMinimumPulse : Obligations.EdgesKeepDeadTimeAndMinimumPulse := by
  unfold Obligations.EdgesKeepDeadTimeAndMinimumPulse
  refine ⟨?rising, ?falling⟩
  case rising =>
    intro n s hrun hdue hlt hreq hdrop hopen
    refine ⟨_, if_pos (by simp [hrun, hdue, hlt]), ?_⟩
    beta_reduce
    rw [if_pos rfl, if_pos rfl]
    have htime := only_advanceTo_time s ((s.tb (n / 12)).zeroAt + (s.chan n).cmpA.toNat)
    have hnow := le_now_advanceTo s ((s.tb (n / 12)).zeroAt + (s.chan n).cmpA.toNat)
    generalize s.advanceTo ((s.tb (n / 12)).zeroAt + (s.chan n).cmpA.toNat) = u at *
    obtain ⟨hchan, htb, hdead, hmin, hlink, hstands⟩ := edge_sameState htime (n := n)
    have honly : Only [.regs, .pwm, .gdl, .trp] u (u.risingEdge n) :=
      only_risingEdge u n (Only.refl _ u) (by decide) (by decide) (by decide) (by decide)
    rw [honly .now (by decide), ← hchan, ← hchan, ← htb, ← hdead, ← hmin, ← hlink, ← hstands]
    rw [← hchan] at hreq hdrop hopen
    obtain ⟨hedge, hrequest⟩ := risingEdge_request n.isLt hreq hdrop hopen
    rw [← hchan, ← htb] at hnow
    exact ⟨hnow, hedge, hrequest, risingEdge_waits n.isLt hreq hdrop hopen, risingEdge_pulled n.isLt hreq hdrop hopen,
      risingEdge_overlaps n.isLt hreq hdrop hopen, risingEdge_drops n.isLt hreq hdrop hopen⟩
  case falling =>
    intro n s hrun hdue hlt
    refine ⟨_, if_pos (by simp [hrun, hdue, hlt]), ?_⟩
    beta_reduce
    rw [if_neg (by decide), if_neg (by decide)]
    have htime := only_advanceTo_time s ((s.tb (n / 12)).zeroAt + (s.chan n).cmpB.toNat)
    have hnow := le_now_advanceTo s ((s.tb (n / 12)).zeroAt + (s.chan n).cmpB.toNat)
    generalize s.advanceTo ((s.tb (n / 12)).zeroAt + (s.chan n).cmpB.toNat) = u at *
    obtain ⟨hchan, -⟩ := edge_sameState htime (n := n)
    have honly : Only [.regs, .pwm, .gdl, .trp] u (u.fallingEdge n) :=
      only_fallingEdge u n (Only.refl _ u) (by decide) (by decide) (by decide) (by decide)
    obtain ⟨hedge, hrequest⟩ := fallingEdge_request (s := u) n.isLt
    rw [honly .now (by decide)]
    refine ⟨hnow, hedge, hrequest, fun hreq hdrop hdueA => ?_⟩
    rw [← hchan] at hreq hdrop hdueA
    exact fallingEdge_off n.isLt hreq hdrop hdueA

end Sys2Proof.Machine
end

section
/-! The statement about the waits of the channel path and about SYNC_IN pulses (R168, R170, R185, R186, R193, R199, R231). -/

-- The proofs are elaborated one after the other: this bounds the threads of the compiler, whose stacks count as its memory.
set_option Elab.async false

namespace Sys2Proof.Machine

/-! ### The end of a dead time -/

section
variable {s : State} {n : Nat} (hn : n < 192)
include hn

omit hn in
theorem mayRise_congr {u : State} (htrp : u.trp = s.trp) (hsaf : u.saf = s.saf) (hlive : u.live = s.live)
    (hpartner : u.chan (partner n) = s.chan (partner n)) (hseq : (u.chan n).offSeq = (s.chan n).offSeq) : u.mayRise n = s.mayRise n := by
  unfold State.mayRise State.stage6Off State.zone State.linkMode State.lv
  rw [htrp, hsaf, hlive, hpartner, hseq]

/-- R199: a gate command that is low rises where it may. -/
theorem tryRise_chan (s : State) (at_ : Nat) (hout : (s.chan n).out = true) (hgc : (s.chan n).gc = false) :
    ((s.tryRise n at_).chan n).gc = s.mayRise n := by
  cases hmay : s.mayRise n with
  | true =>
    have heq : (s.tryRise n at_).pwm = (s.modChan n fun c => { c with
        gc := true, gcAt := at_, diffAt := none, ackDue := if s.linkMode then none else some (at_ + s.ackTo) }).pwm := by
      rw [State.tryRise, if_pos (by simp [hout, hgc, hmay])]
      rfl
    rw [chan_of_pwm _ heq, modChan_chan hn]
  | false => rw [State.tryRise, if_neg (by simp [hmay]), hgc]

theorem tryRise_keeps (s : State) (at_ : Nat) : (∀ j ≠ n, (s.tryRise n at_).chan j = s.chan j) ∧
    ((s.tryRise n at_).chan n).out = (s.chan n).out ∧ ((s.tryRise n at_).chan n).wait = (s.chan n).wait := by
  unfold State.tryRise
  split
  · have hpwm (u : State) (k : Nat) (f : GdlStack → GdlStack) (j : Nat) : (u.modGs k f).chan j = u.chan j := rfl
    refine ⟨fun j hj => ?_, ?_⟩
    · rw [hpwm, State.chan_modChan_other _ _ _ _ hj]
    · rw [hpwm, modChan_chan hn]
      exact ⟨rfl, rfl⟩
  · exact ⟨fun _ _ => rfl, rfl, rfl⟩

/-- A rise that waits is over. -/
def State.waitOver (s : State) (n : Nat) : State := s.modChan n fun c => { c with out := true, wait := none }

omit hn in
theorem expireWait_effect {w : Nat} (hwait : (s.chan n).wait = some w) (hnow : w ≤ s.now) :
    s.expireWait n = (s.waitOver n).tryRise n s.now := by
  rw [State.expireWait, hwait]
  exact if_pos hnow

/-- R170, R199: the channel's output turns on, and its gate command rises where it may. -/
theorem expireWait_chan {w : Nat} (hwait : (s.chan n).wait = some w) (hnow : w ≤ s.now) :
    ((s.expireWait n).chan n).out = true ∧ ((s.expireWait n).chan n).wait = none ∧
    ((s.chan n).gc = false → ((s.expireWait n).chan n).gc = s.mayRise n) ∧ ∀ j ≠ n, (s.expireWait n).chan j = s.chan j := by
  have hover : (s.waitOver n).chan n = { s.chan n with out := true, wait := none } := modChan_chan hn _ _
  have hother (j : Nat) (hj : j ≠ n) : (s.waitOver n).chan j = s.chan j := State.chan_modChan_other _ _ _ _ hj
  obtain ⟨hrest, hout, hwait'⟩ := tryRise_keeps hn (s.waitOver n) s.now
  rw [expireWait_effect hwait hnow, hout, hwait', hover]
  refine ⟨rfl, rfl, fun hgc => ?_, fun j hj => (hrest j hj).trans (hother j hj)⟩
  rw [tryRise_chan hn _ _ (by rw [hover]) (by rw [hover]; exact hgc)]
  exact mayRise_congr rfl rfl rfl (hother _ (partner_ne n)) (by rw [hover])

end

/-! ### The end of T_IO -/

/-- Where one step of a fold does its work and every other one leaves it, the work is done. -/
theorem forNums_once {P Q : State → Prop} {f : Nat → State → State} {n : Nat} {xs : List Nat}
    (hP : ∀ i ∈ xs, i ≠ n → ∀ u, P u → P (f i u)) (hdo : ∀ u, P u → Q (f n u)) (hQ : ∀ i ∈ xs, i ≠ n → ∀ u, Q u → Q (f i u)) (hnd : xs.Nodup)
    (hmem : n ∈ xs) {s : State} (hs : P s) : Q (forNums xs f s) := by
  induction xs generalizing s with
  | nil => exact absurd hmem List.not_mem_nil
  | cons x xs ih =>
    obtain ⟨hx, hrest⟩ := List.nodup_cons.mp hnd
    have hstep : forNums (x :: xs) f s = forNums xs f (f x s) := rfl
    rw [hstep]
    by_cases hxn : x = n
    · subst hxn
      exact holds_forNums (P := Q) xs (fun i hi u hu => hQ i (List.mem_cons_of_mem _ hi) (fun h => hx (h ▸ hi)) u hu) (hdo s hs)
    · exact ih (fun i hi => hP i (List.mem_cons_of_mem _ hi)) (fun i hi => hQ i (List.mem_cons_of_mem _ hi)) hrest
        ((List.mem_cons.mp hmem).resolve_left (Ne.symm hxn)) (hP x (List.mem_cons_self ..) hxn s hs)

/-- An inner channel's turn in the order, at an instant. -/
def State.innerTurn (s : State) (n : Nat) : State :=
  match (s.chan n).offSeq with
  | some t =>
    if t ≤ s.now then
      (if (s.chan n).offOne then s.forceLow n t else s.gcFall n t).modChan n fun c => { c with offSeq := none, offOne := false }
    else s
  | none => s

theorem innerOff_eq (s : State) (k : Nat) : s.innerOff k =
    if (forNums (stackChans k) (fun n u => u.innerTurn n) s).offRunning k then forNums (stackChans k) (fun n u => u.innerTurn n) s
    else (forNums (stackChans k) (fun n u => u.innerTurn n) s).modZone k fun z => { z with offDone := decide (z.causes ≠ 0 ∨ z.tripAt ≠ 0) } := rfl

theorem nodup_stackChans (k : Nat) : (stackChans k).Nodup := List.Nodup.map (fun _ _ h => Nat.add_left_cancel h) List.nodup_range

section
variable {s : State} {n : Nat} (hn : n < 192)
include hn

omit hn in
/-- The turn of another channel leaves all of a channel but what an overlap's end makes of it. -/
theorem innerTurn_other (u : State) {m : Nat} (hlt : m < 192) (hm : m ≠ n) :
    ((u.innerTurn m).chan n).kept = (u.chan n).kept ∧ (u.innerTurn m).now = u.now := by
  have hforce (at_ : Nat) : ((u.forceLow m at_).chan n).kept = (u.chan n).kept ∧ (u.forceLow m at_).now = u.now := by
    refine ⟨?_, only_forceLow (ps := [.regs, .pwm, .gdl, .trp]) u m at_ (Only.refl _ u) (by decide) (by decide) (by decide) (by decide) .now
      (by decide)⟩
    rw [State.forceLow, kept_lvlOff_other _ _ _ hlt hm.symm, State.chan_modChan_other _ _ _ _ hm.symm]
  have hnow (v : State) (f : Chan → Chan) : (v.modChan m f).now = v.now := rfl
  unfold State.innerTurn
  split
  · split
    · rw [State.chan_modChan_other _ _ _ _ hm.symm, hnow]
      split
      · exact hforce _
      · rw [gcFall_other _ _ _ hm.symm]
        exact ⟨rfl, only_gcFall (ps := [.pwm]) u m _ (Only.refl _ u) (by decide) .now (by decide)⟩
    · exact ⟨rfl, rfl⟩
  · exact ⟨rfl, rfl⟩

/-- What the end of T_IO makes of an inner channel `c`. -/
def InnerOff (c d : Chan) : Prop := d.gc = false ∧ d.offSeq = none ∧
  if c.offOne then d.out = false ∧ d.hold = true ∧ d.req = false else d.out = c.out ∧ d.req = c.req

omit hn in
theorem InnerOff.congr {c d d' : Chan} (h : InnerOff c d) (hkept : d'.kept = d.kept) : InnerOff c d' := by
  have hgc := congrArg Chan.gc hkept
  have hseq := congrArg Chan.offSeq hkept
  have hout := congrArg Chan.out hkept
  have hhold := congrArg Chan.hold hkept
  have hreq := congrArg Chan.req hkept
  change d'.gc = d.gc at hgc
  change d'.offSeq = d.offSeq at hseq
  change d'.out = d.out at hout
  change d'.hold = d.hold at hhold
  change d'.req = d.req at hreq
  unfold InnerOff at *
  rwa [hgc, hseq, hout, hhold, hreq]

/-- R193, R231: the turn of an inner channel whose instant has come. -/
theorem innerTurn_own {a : Nat} {c : Chan} (hseq : c.offSeq = some a) (u : State) (hkept : (u.chan n).kept = c.kept) (hnow : a ≤ u.now) :
    InnerOff c ((u.innerTurn n).chan n) := by
  have hseq' := congrArg Chan.offSeq hkept
  have hone := congrArg Chan.offOne hkept
  have hout := congrArg Chan.out hkept
  have hreq := congrArg Chan.req hkept
  change (u.chan n).offSeq = c.offSeq at hseq'
  change (u.chan n).offOne = c.offOne at hone
  change (u.chan n).out = c.out at hout
  change (u.chan n).req = c.req at hreq
  have heq : u.innerTurn n = (if c.offOne then u.forceLow n a else u.gcFall n a).modChan n fun c => { c with offSeq := none, offOne := false } := by
    rw [State.innerTurn, hseq', hseq, hone]
    exact if_pos hnow
  rw [heq, modChan_chan hn]
  unfold InnerOff
  cases c.offOne with
  | true =>
    obtain ⟨gcAt, offAt, gaOff, diffAt, ackDue, hoff⟩ := lvlOff_chan (u.modChan n fun c => { c with
      req := false, dueA := false, dueB := false, openAt := none, dropped := false, hold := true, force := none }) n a hn
    rw [modChan_chan hn] at hoff
    rw [if_pos rfl, if_pos rfl, State.forceLow, hoff]
    exact ⟨rfl, rfl, rfl, rfl, rfl⟩
  | false =>
    obtain ⟨gcAt, offAt, gaOff, diffAt, ackDue, hfall⟩ := gcFall_chan u n a hn
    rw [if_neg (by decide), if_neg (by decide), hfall]
    exact ⟨rfl, rfl, hout, hreq⟩

/-- R231: at the end of T_IO an inner channel is off. -/
theorem innerOff_chan {k a : Nat} (hk : k < 16) (hmem : n ∈ stackChans k) (hseq : (s.chan n).offSeq = some a) (hnow : a ≤ s.now) :
    InnerOff (s.chan n) ((s.innerOff k).chan n) := by
  have hlt (m : Nat) (hm : m ∈ stackChans k) : m < 192 := by
    have := mem_stackChans.mp hm
    omega
  have hfold : InnerOff (s.chan n) ((forNums (stackChans k) (fun n u => u.innerTurn n) s).chan n) := by
    refine forNums_once (P := fun u => (u.chan n).kept = (s.chan n).kept ∧ a ≤ u.now) (Q := fun u => InnerOff (s.chan n) (u.chan n))
      (fun m hm hne u hu => ?_) (fun u hu => innerTurn_own hn hseq u hu.1 hu.2) (fun m hm hne u hu => ?_) (nodup_stackChans k) hmem ⟨rfl, hnow⟩
    · obtain ⟨hkept, hsame⟩ := innerTurn_other u (hlt m hm) hne
      exact ⟨hkept.trans hu.1, hu.2.trans hsame.ge⟩
    · exact hu.congr (innerTurn_other u (hlt m hm) hne).1
  rw [innerOff_eq]
  split
  · exact hfold
  · exact hfold

end

/-! ### SYNC_IN -/

section
variable (s : State)

/-- The instant that a pulse of now gives as the zero of its source. -/
def State.pulseZero : Nat := Machine.ctlTick s.now - 32 * s.lv .pwmSyncCtrl 0 0 25 16

/-- How far a pulse of now is from its expected instant. -/
def State.pulseOff : Int :=
  centred (32 * (s.tb 0).prd) ((s.pulseZero : Int) + 32 * (s.tb 0).syncOfs - (s.tb 0).zeroAt - (s.tb 0).len)

/-- A pulse has come. -/
def State.pulseSeen : State := { s.count .pwmSyncInCnt with pwm := { s.pwm with srcZero := some s.pulseZero } }

/-- It has been judged. -/
def State.pulseJudged : State :=
  s.pulseSeen.modTb 0 fun b => { b with phErr := s.pulseOff / 32, inSync := decide (s.pulseOff.natAbs ≤ 32 * s.tbTol 0) }

theorem syncPulse_eq : ∃ target strays again, s.syncPulse =
    if (s.tb 0).run = .running ∧ (s.tb 0).syncSrc = 1 then
      if s.pulseOff.natAbs ≤ 32 * s.tbTol 0 then { s.pulseJudged with pwm := { s.pulseJudged.pwm with goodZero := some target } }
      else if again = true then
        ({ s.pulseJudged.count .pwmSyncMissCnt 0 with pwm := { s.pulseJudged.pwm with strays := strays } }).realign 0 s.pulseOff
      else { s.pulseJudged.count .pwmSyncMissCnt 0 with pwm := { s.pulseJudged.pwm with strays := strays } }
    else s.pulseSeen := ⟨_, _, _, rfl⟩

theorem pulseSeen_effect (hs : s.storesCanonical) : s.pulseSeen.pwm.srcZero = some s.pulseZero ∧ s.pulseSeen.pwm.tbs = s.pwm.tbs ∧
    (s.pulseSeen.reg .pwmSyncInCnt).toNat = min ((s.reg .pwmSyncInCnt).toNat + 1) 0xFFFFFFFF ∧
    s.pulseSeen.reg .pwmSyncMissCnt = s.reg .pwmSyncMissCnt ∧ s.pulseSeen.storesCanonical := by
  obtain ⟨hcount, hother, honly⟩ := counts_count hs .pwmSyncInCnt 0
  refine ⟨rfl, rfl, hcount, hother .pwmSyncMissCnt 0 0 (by decide), storesCanonical_setReg hs _ _ _ _⟩

theorem pulseJudged_effect (hs : s.storesCanonical) : s.pulseJudged.pwm.srcZero = some s.pulseZero ∧
    (s.pulseJudged.tb 0).inSync = decide (s.pulseOff.natAbs ≤ 32 * s.tbTol 0) ∧
    (s.pulseJudged.reg .pwmSyncInCnt).toNat = min ((s.reg .pwmSyncInCnt).toNat + 1) 0xFFFFFFFF ∧
    s.pulseJudged.reg .pwmSyncMissCnt = s.reg .pwmSyncMissCnt ∧ s.pulseJudged.storesCanonical := by
  obtain ⟨hzero, -, hcount, hmiss, hcanon⟩ := pulseSeen_effect s hs
  refine ⟨hzero, ?_, hcount, hmiss, storesCanonical_of_only (l := [.pwm]) (only_modTb _ _ (Only.refl _ s.pulseSeen) (by decide)) hcanon⟩
  exact congrArg Timebase.inSync (State.tb_modTb_same s.pulseSeen 0 _ (by decide))

/-- A pulse out of its place: the miss counts, and the stray is kept. -/
def State.pulseStray (strays : List (Int × Nat)) : State :=
  { s.pulseJudged.count .pwmSyncMissCnt 0 with pwm := { s.pulseJudged.pwm with strays := strays } }

theorem pulseStray_effect (hs : s.storesCanonical) (strays : List (Int × Nat)) : (s.pulseStray strays).pwm.srcZero = some s.pulseZero ∧
    ((s.pulseStray strays).tb 0).inSync = decide (s.pulseOff.natAbs ≤ 32 * s.tbTol 0) ∧
    ((s.pulseStray strays).reg .pwmSyncInCnt).toNat = min ((s.reg .pwmSyncInCnt).toNat + 1) 0xFFFFFFFF ∧
    ((s.pulseStray strays).reg .pwmSyncMissCnt).toNat = min ((s.reg .pwmSyncMissCnt).toNat + 1) 0xFFFFFFFF := by
  obtain ⟨hzero, hsync, hcount, hmiss, hcanon⟩ := pulseJudged_effect s hs
  obtain ⟨hcounts, hother, -⟩ := counts_count hcanon .pwmSyncMissCnt 0
  rw [hmiss] at hcounts
  refine ⟨hzero, hsync, ?_, hcounts⟩
  have hsame : (s.pulseStray strays).reg .pwmSyncInCnt = s.pulseJudged.reg .pwmSyncInCnt := hother .pwmSyncInCnt 0 0 (by decide)
  rw [hsame, hcount]

theorem realign_effect (units : Int) : (s.realign 0 units).pwm.srcZero = s.pwm.srcZero ∧ ((s.realign 0 units).tb 0).inSync = (s.tb 0).inSync ∧
    (s.realign 0 units).regs = s.regs :=
  ⟨rfl, by rw [State.realign, State.tb_modTb_same _ _ _ (by decide)], rfl⟩

/-- R185, R186: a pulse gives the source's zero and counts, and is judged where timebase 0 follows SYNC_IN. -/
theorem syncPulse_effect (hs : s.storesCanonical) : s.syncPulse.pwm.srcZero = some s.pulseZero ∧
    (s.syncPulse.reg .pwmSyncInCnt).toNat = min ((s.reg .pwmSyncInCnt).toNat + 1) 0xFFFFFFFF ∧
    ((s.tb 0).run = .running → (s.tb 0).syncSrc = 1 → (s.syncPulse.tb 0).inSync = decide (s.pulseOff.natAbs ≤ 32 * s.tbTol 0) ∧
      (s.syncPulse.reg .pwmSyncMissCnt).toNat = if s.pulseOff.natAbs ≤ 32 * s.tbTol 0 then (s.reg .pwmSyncMissCnt).toNat
        else min ((s.reg .pwmSyncMissCnt).toNat + 1) 0xFFFFFFFF) ∧
    ((s.tb 0).run ≠ .running ∨ (s.tb 0).syncSrc ≠ 1 → s.syncPulse.pwm.tbs = s.pwm.tbs) := by
  obtain ⟨target, strays, again, heq⟩ := syncPulse_eq s
  by_cases hfollows : (s.tb 0).run = .running ∧ (s.tb 0).syncSrc = 1
  · have hno : ¬ ((s.tb 0).run ≠ .running ∨ (s.tb 0).syncSrc ≠ 1) := fun h => h.elim (fun h => h hfollows.1) fun h => h hfollows.2
    rw [if_pos hfollows] at heq
    by_cases htol : s.pulseOff.natAbs ≤ 32 * s.tbTol 0
    · obtain ⟨hzero, hsync, hcount, hmiss, -⟩ := pulseJudged_effect s hs
      rw [if_pos htol] at heq
      rw [heq, if_pos htol]
      exact ⟨hzero, hcount, fun _ _ => ⟨hsync, congrArg BitVec.toNat hmiss⟩, fun h => absurd h hno⟩
    · obtain ⟨hzero, hsync, hcount, hmiss⟩ := pulseStray_effect s hs strays
      rw [if_neg htol] at heq ⊢
      cases again with
      | true =>
        obtain ⟨hzero', hsync', hregs⟩ := realign_effect (s.pulseStray strays) s.pulseOff
        have heq' : s.syncPulse = (s.pulseStray strays).realign 0 s.pulseOff := heq
        rw [heq', hzero', hsync', State.reg, State.reg, hregs]
        exact ⟨hzero, hcount, fun _ _ => ⟨hsync, hmiss⟩, fun h => absurd h hno⟩
      | false =>
        have heq' : s.syncPulse = s.pulseStray strays := heq
        rw [heq']
        exact ⟨hzero, hcount, fun _ _ => ⟨hsync, hmiss⟩, fun h => absurd h hno⟩
  · obtain ⟨hzero, htbs, hcount, -⟩ := pulseSeen_effect s hs
    rw [if_neg hfollows] at heq
    rw [heq]
    exact ⟨hzero, hcount, fun hrun hsrc => absurd ⟨hrun, hsrc⟩ hfollows, fun _ => htbs⟩

end

/-! ### The statement -/

theorem foldl_min_mem (l : List Nat) (x : Nat) : l.foldl min x = x ∨ l.foldl min x ∈ l := by
  induction l generalizing x with
  | nil => exact .inl rfl
  | cons z zs ih =>
    have hstep : (z :: zs).foldl min x = zs.foldl min (min x z) := rfl
    rw [hstep]
    rcases ih (min x z) with h | h
    · rw [h]
      rcases Nat.le_total x z with hle | hle
      · exact .inl (Nat.min_eq_left hle)
      · exact .inr (by rw [Nat.min_eq_right hle]; exact List.mem_cons_self ..)
    · exact .inr (List.mem_cons_of_mem _ h)

/-- Settles O34: a wait ends at its instant; the least instant of T_IO is the one that the command waits for, and the other channels' turns
leave what theirs have made of an inner channel. -/
theorem waitsEndAndSyncPulsesAreJudged : Obligations.WaitsEndAndSyncPulsesAreJudged := by
  unfold Obligations.WaitsEndAndSyncPulsesAreJudged
  refine ⟨?expiry, ?inner, ?pulse, ?miss⟩
  case expiry =>
    intro n w s hwait
    have hexec : exec (.deadTimeExpiry n) s = .next ((s.advanceTo w).expireWait n) := by
      change execDeadTimeExpiry n s = _
      rw [execDeadTimeExpiry, hwait]
    have htime := only_advanceTo_time s w
    have hnow := le_now_advanceTo s w
    refine ⟨_, hexec, ?_⟩
    generalize s.advanceTo w = u at *
    have hchan (j : Nat) : u.chan j = s.chan j := chan_of_pwm s (htime .pwm (by decide)) j
    have hmay : u.mayRise n = s.mayRise n :=
      mayRise_congr (htime .trp (by decide)) (htime .saf (by decide)) (htime .live (by decide)) (hchan _) (by rw [hchan])
    obtain ⟨hout, hwait', hgc, hother⟩ := expireWait_chan n.isLt (by rw [hchan]; exact hwait) hnow
    have hexpire : (u.expireWait n).now = u.now :=
      only_expireWait (ps := [.pwm, .gdl]) u n (Only.refl _ u) (by decide) (by decide) .now (by decide)
    rw [hchan, hmay] at hgc
    exact ⟨hnow.trans hexpire.ge, hout, hwait', hgc, fun m hm => (hother m fun h => hm (Fin.ext h)).trans (hchan m)⟩
  case inner =>
    intro k n a s hmem hseq hleast
    have hn : n < 192 := by
      have := mem_stackChans.mp hmem
      omega
    have hin : a ∈ (stackChans k).filterMap fun m => (s.chan m).offSeq := List.mem_filterMap.mpr ⟨n, hmem, hseq⟩
    have hall (b : Nat) (hb : b ∈ (stackChans k).filterMap fun m => (s.chan m).offSeq) : a ≤ b := by
      obtain ⟨m, hm, hmb⟩ := List.mem_filterMap.mp hb
      exact hleast m hm b hmb
    obtain ⟨t0, hexec, hle⟩ : ∃ t0, exec (.innerTurnOff k) s = .next ((s.advanceTo t0).innerOff k) ∧ a ≤ t0 := by
      change ∃ t0, execInnerTurnOff k s = _ ∧ _
      unfold execInnerTurnOff
      rcases hl : (stackChans k).filterMap fun m => (s.chan m).offSeq with _ | ⟨x, rest⟩
      · rw [hl] at hin
        exact absurd hin List.not_mem_nil
      · refine ⟨_, rfl, hall _ ?_⟩
        rw [hl]
        rcases foldl_min_mem rest x with h | h
        · rw [h]
          exact List.mem_cons_self ..
        · exact List.mem_cons_of_mem _ h
    have htime := only_advanceTo_time s t0
    have hnow := le_now_advanceTo s t0
    refine ⟨_, hexec, ?_⟩
    generalize s.advanceTo t0 = u at *
    have hchan : u.chan n = s.chan n := chan_of_pwm s (htime .pwm (by decide)) n
    obtain ⟨hgc, hseq', hrest⟩ := innerOff_chan hn k.isLt hmem (by rw [hchan]; exact hseq) (hle.trans hnow)
    have hoff : (u.innerOff k).now = u.now :=
      only_innerOff (ps := [.regs, .pwm, .gdl, .trp]) u k (Only.refl _ u) (by decide) (by decide) (by decide) (by decide) .now (by decide)
    rw [hchan] at hrest
    exact ⟨(hle.trans hnow).trans hoff.ge, hgc, hseq', hrest⟩
  case pulse =>
    intro s hs
    exact ⟨_, rfl, syncPulse_effect s hs⟩
  case miss =>
    intro s hs hrun hsrc hgood hmiss
    refine ⟨_, if_pos ⟨hrun, hsrc, hgood, hmiss⟩, ?_, ?_, rfl⟩
    · obtain ⟨hcount, -⟩ := counts_count (s := { s with pwm := { s.pwm with missZero := some (s.tb 0).zeroAt } })
        (storesCanonical_of_only (l := [.pwm]) (fun p hp => by
          cases p with
          | pwm => exact absurd (by decide) hp
          | _ => rfl) hs) .pwmSyncMissCnt 0
      exact hcount
    · exact congrArg Timebase.inSync (State.tb_modTb_same _ 0 _ (by decide))

end Sys2Proof.Machine
end

section
/-! The statement about off-state tests and link trainings (R207, R211, R212, R214). -/

-- The proofs are elaborated one after the other: this bounds the threads of the compiler, whose stacks count as its memory.
set_option Elab.async false

namespace Sys2Proof.Machine

theorem partner_div (n : Nat) : partner n / 12 = n / 12 := by
  unfold partner
  split <;> omega

theorem took_gs (s : State) (c : Src) (k : Nat) : (s.took c).gs k = s.gs k := by simp [State.gs]

theorem linkMode_took (s : State) (c : Src) : (s.took c).linkMode = s.linkMode := by
  unfold State.linkMode State.lv
  rw [(by simp : (s.took c).live = s.live)]

theorem ostMay_took (s : State) (c : Src) (k : Nat) : (s.took c).ostMay k = s.ostMay k := by
  unfold State.ostMay State.configured State.nStacks State.lv State.chan State.zone
  rw [(by simp : (s.took c).live = s.live), (by simp : (s.took c).pwm = s.pwm), (by simp : (s.took c).ops = s.ops),
    (by simp : (s.took c).trp = s.trp)]

theorem gs_setRegN (s : State) (r : Reg) (i j v k : Nat) : (s.setRegN r i j v).gs k = s.gs k := rfl

/-! ### The ring's next command words and the start of a test -/

section
variable (s : State) {k : Nat}

theorem ringNext_gs (ended : Bool) (hk : k < 16) : ∃ r, (s.ringNext k ended).gs k = { s.gs k with ringCmd := r } := by
  refine ⟨((s.ringNext k ended).gs k).ringCmd, ?_⟩
  have hpart {c : Prop} [Decidable c] (u : State) (x : TrpState) : (if c then { u with trp := x } else u).gs k = u.gs k := by
    split <;> rfl
  unfold State.ringNext
  dsimp only
  rw [hpart, State.gs_modGs_same _ _ _ hk]

theorem ringNext_gs_other (ended : Bool) {j : Nat} (hj : j ≠ k) : (s.ringNext k ended).gs j = s.gs j := by
  have hpart {c : Prop} [Decidable c] (u : State) (x : TrpState) : (if c then { u with trp := x } else u).gs j = u.gs j := by
    split <;> rfl
  unfold State.ringNext
  dsimp only
  rw [hpart, State.gs_modGs_other _ _ _ _ hj]

/-- The test of a stack, newly started. -/
def State.testNew (s : State) (k : Nat) : State :=
  (s.modGs k fun g => { g with
    ost := .running, ostAt := s.now, ostCodes := Vector.replicate 12 0, ostCycle := 0, ostEcho := 0, ostSeen := 0
    ostSend := BitVec.ofNat 12 (2 ^ s.nodes k - 1) }).setRegN .gdlOstRes k 0 0

theorem ostBegin_runs (h : (s.gs k).ost = .running) : s.ostBegin k = s := if_pos h

theorem ostBegin_new (h : (s.gs k).ost ≠ .running) : s.ostBegin k =
    if (s.testNew k).linkMode then s.testNew k else (s.testNew k).ringNext k false := if_neg h

theorem testNew_gs (hk : k < 16) : ((s.testNew k).gs k).ost = .running ∧ ((s.testNew k).gs k).ostAt = s.now ∧ ((s.testNew k).gs k).ostCycle = 0 := by
  rw [State.testNew, gs_setRegN, State.gs_modGs_same _ _ _ hk]
  exact ⟨rfl, rfl, rfl⟩

theorem ostBegin_gs (hk : k < 16) : ((s.ostBegin k).gs k).ost = .running ∧
    ((s.gs k).ost ≠ .running → ((s.ostBegin k).gs k).ostAt = s.now ∧ ((s.ostBegin k).gs k).ostCycle = 0) := by
  by_cases hrun : (s.gs k).ost = .running
  · rw [ostBegin_runs s hrun]
    exact ⟨hrun, fun h => absurd hrun h⟩
  · obtain ⟨hnew, hrest⟩ := testNew_gs s hk
    rw [ostBegin_new s hrun]
    split
    · exact ⟨hnew, fun _ => hrest⟩
    · obtain ⟨r, hring⟩ := ringNext_gs (s.testNew k) false hk
      rw [hring]
      exact ⟨hnew, fun _ => hrest⟩

theorem ostBegin_gs_other {j : Nat} (hj : j ≠ k) : (s.ostBegin k).gs j = s.gs j := by
  by_cases hrun : (s.gs k).ost = .running
  · rw [ostBegin_runs s hrun]
  · have hnew : (s.testNew k).gs j = s.gs j := by
      rw [State.testNew, gs_setRegN, State.gs_modGs_other _ _ _ _ hj]
    rw [ostBegin_new s hrun]
    split
    · exact hnew
    · rw [ringNext_gs_other _ _ hj, hnew]

theorem ostBegin_runs_kept : (s.ostBegin k).gdl.ostRuns = s.gdl.ostRuns ∧ (s.ostBegin k).now = s.now := by
  refine ⟨?_, (only_ostBegin s k (Only.refl [.regs, .gdl, .trp] s) (by decide) (by decide) (by decide)).keeps_now (by decide)⟩
  by_cases hrun : (s.gs k).ost = .running
  · rw [ostBegin_runs s hrun]
  · have hpart {c : Prop} [Decidable c] (u : State) (x : TrpState) : (if c then { u with trp := x } else u).gdl.ostRuns = u.gdl.ostRuns := by
      split <;> rfl
    rw [ostBegin_new s hrun]
    split
    · rfl
    · unfold State.ringNext
      dsimp only
      rw [hpart]
      rfl

/-- The stacks of a mask whose test starts. -/
def State.ostNamed (s : State) (mask : Nat) : List Nat := (bitsIn 16 mask).filter s.ostMay

theorem mem_ostNamed {mask : Nat} : k ∈ s.ostNamed mask ↔ (k < 16 ∧ mask.testBit k = true) ∧ s.ostMay k = true := by
  rw [State.ostNamed, List.mem_filter, mem_bitsIn]

theorem ostStart_gs (mask : Nat) (hk : k < 16) :
    if (mask.testBit k && s.ostMay k) = true then
      ((s.ostStart mask).gs k).ost = .running ∧
        ((s.gs k).ost ≠ .running → ((s.ostStart mask).gs k).ostAt = s.now ∧ ((s.ostStart mask).gs k).ostCycle = 0)
    else (s.ostStart mask).gs k = s.gs k := by
  have hstart : s.ostStart mask = forNums (s.ostNamed mask) (fun k s => s.ostBegin k) s := rfl
  rw [hstart]
  split
  case isTrue h =>
    have hmem : k ∈ s.ostNamed mask := (mem_ostNamed s).mpr ⟨⟨hk, (Bool.and_eq_true_iff.mp h).1⟩, (Bool.and_eq_true_iff.mp h).2⟩
    refine forNums_once (P := fun u => u.gs k = s.gs k ∧ u.now = s.now) (Q := fun u => (u.gs k).ost = .running ∧
      ((s.gs k).ost ≠ .running → (u.gs k).ostAt = s.now ∧ (u.gs k).ostCycle = 0)) (fun i _ hi u hu => ?before) (fun u hu => ?start)
      (fun i _ hi u hu => ?after) ((nodup_bitsIn 16 mask).filter _) hmem ⟨rfl, rfl⟩
    case before => exact ⟨(ostBegin_gs_other u (Ne.symm hi)).trans hu.1, (ostBegin_runs_kept u).2.trans hu.2⟩
    case start =>
      rw [← hu.1, ← hu.2]
      exact ostBegin_gs u hk
    case after =>
      rw [ostBegin_gs_other u (Ne.symm hi)]
      exact hu
  case isFalse h =>
    refine holds_forNums (P := fun u => u.gs k = s.gs k) _ (fun i hi u hu => ?_) rfl
    have hne : k ≠ i := fun heq => h (by
      obtain ⟨⟨-, hbit⟩, hmay⟩ := (mem_ostNamed s).mp (heq ▸ hi)
      rw [hbit, hmay]
      rfl)
    exact (ostBegin_gs_other u hne).trans hu

theorem ostStart_runs (mask : Nat) : (s.ostStart mask).gdl.ostRuns = s.gdl.ostRuns :=
  holds_forNums (P := fun u => u.gdl.ostRuns = s.gdl.ostRuns) _ (fun _ _ u hu => (ostBegin_runs_kept u).1.trans hu) rfl

end

/-! ### The command GDL_OST_RUN -/

theorem exists_testBit_lt {n w : Nat} (hn : n ≠ 0) (hw : n < 2 ^ w) : ∃ k < w, n.testBit k = true := by
  obtain ⟨k, hk⟩ := Nat.exists_testBit_of_ne_zero hn
  exact ⟨k, by_contra fun h => by simp [Nat.testBit_lt_two_pow (lt_of_lt_of_le hw (Nat.pow_le_pow_right (by decide) (not_lt.mp h)))] at hk, hk⟩

section
variable {s : State} {c : Src} {p : Bytes}

/-- The tests of a command have begun. -/
def State.testsBegun (s : State) (c : Src) (p : Bytes) : State :=
  let s := (s.setRegN .gdlOstStart 0 0 ((s.reg .gdlOstStart).toNat &&& s.ostMask)).ostStart (pf p 0 2)
  { s with gdl := { s.gdl with ostRuns := s.gdl.ostRuns ++ [(c, BitVec.ofNat 16 (pf p 0 2))] } }

theorem ostRun_begins (h : ∀ k < 16, (pf p 0 2).testBit k = true → s.ostMay k = true) : s.ostRun c p = (s.testsBegun c p).ostComplete :=
  if_pos (List.all_eq_true.mpr fun k hk => (mem_bitsIn 16 _ k).mp hk |>.elim (h k))

theorem ostRun_refused {k : Nat} (hk : k < 16) (hbit : (pf p 0 2).testBit k = true) (hmay : s.ostMay k = false) :
    s.ostRun c p = s.refuse c 0x0802 .error 1 :=
  if_neg fun hall => by simp [List.all_eq_true.mp hall k ((mem_bitsIn 16 _ k).mpr ⟨hk, hbit⟩)] at hmay

/-- The one command whose test runs waits. -/
theorem ostComplete_waits {m : BitVec 16} {k : Nat} (hruns : s.gdl.ostRuns = [(c, m)]) (hk : k < 16) (hbit : m.toNat.testBit k = true)
    (hrun : (s.gs k).ost = .running) : s.ostComplete = s := by
  have hends : ((bitsIn 16 m.toNat).all fun k => (s.gs k).ost != .running) = false :=
    Bool.eq_false_iff.mpr fun hall => by simpa [hrun] using List.all_eq_true.mp hall k ((mem_bitsIn 16 _ k).mpr ⟨hk, hbit⟩)
  have hstate : ({ s with gdl := { s.gdl with ostRuns := [(c, m)] } } : State) = s := by rw [← hruns]
  unfold State.ostComplete
  simp only [hruns, List.filter_cons, hends, Bool.false_eq_true, if_false, Bool.not_false, if_true, List.filter_nil, List.foldl_nil]
  exact hstate

end

end Sys2Proof.Machine
end

section
/-! Link trainings (R211, R212, R214), and the statement about off-state tests and link trainings. -/

-- The proofs are elaborated one after the other: this bounds the threads of the compiler, whose stacks count as its memory.
set_option Elab.async false

namespace Sys2Proof.Machine

/-! ### A turn-off order at the links -/

/-- At the links a stack may have more phases waiting for a pull-in frame, and no other stack has anything new. -/
def MasksPulled (k : Nat) (s t : State) : Prop :=
  (∀ j ≠ k, t.gs j = s.gs j) ∧ t.gdl.trainRuns = s.gdl.trainRuns ∧ ∃ m, t.gs k = { s.gs k with pullMask := m }

section
variable {s0 s t : State} {k : Nat}

theorem MasksPulled.refl (s : State) : MasksPulled k s s := ⟨fun _ _ => rfl, rfl, (s.gs k).pullMask, rfl⟩

theorem masks_of_gdl (h : MasksPulled k s0 s) (ht : t.gdl = s.gdl) : MasksPulled k s0 t := by
  unfold MasksPulled State.gs
  rw [ht]
  exact h

theorem masks_ite {c : Prop} [Decidable c] (hs : MasksPulled k s0 s) (ht : MasksPulled k s0 t) : MasksPulled k s0 (if c then s else t) :=
  holds_ite hs ht

variable (h : MasksPulled k s0 s)
include h

theorem masks_modChan (n : Nat) (f : Chan → Chan) : MasksPulled k s0 (s.modChan n f) := masks_of_gdl h rfl
theorem masks_modZone (j : Nat) (f : Zone → Zone) : MasksPulled k s0 (s.modZone j f) := masks_of_gdl h rfl
theorem masks_count (r : Reg) (i n : Nat) : MasksPulled k s0 (s.count r i n) := masks_of_gdl h rfl

theorem masks_chanOff (n at_ : Nat) : MasksPulled k s0 (s.chanOff n at_) :=
  masks_of_gdl h ((only_chanOff s n at_ (Only.refl [.pwm] s) (by decide)).keeps_gdl (by decide))

theorem masks_gcFall (n at_ : Nat) : MasksPulled k s0 (s.gcFall n at_) :=
  masks_of_gdl h ((only_gcFall s n at_ (Only.refl [.pwm] s) (by decide)).keeps_gdl (by decide))

variable (hk : k < 16)
include hk

theorem masks_pullMask (p : Nat) : MasksPulled k s0 (s.modGs k fun g => { g with pullMask := g.pullMask ||| p }) := by
  obtain ⟨hother, hruns, m, hself⟩ := h
  refine ⟨fun j hj => (State.gs_modGs_other _ _ _ _ hj).trans (hother j hj), hruns, m ||| p, ?_⟩
  rw [State.gs_modGs_same _ _ _ hk, hself]

variable {n : Nat} (hn : n / 12 = k) (at_ : Nat)
include hn

theorem masks_askRise : MasksPulled k s0 (s.askRise n at_) := by
  unfold State.askRise
  simp (maxDischargeDepth := 20) only [hn, masks_ite, masks_modChan, masks_modZone, masks_pullMask, hk, h]

theorem masks_endOverlap : MasksPulled k s0 (s.endOverlap n at_) := by
  have h' : MasksPulled k s0 { s with pwm := { s.pwm with overlap := vset s.pwm.overlap (pairOf n) false } } := masks_of_gdl h rfl
  have hp : partner n / 12 = k := (partner_div n).trans hn
  unfold State.endOverlap
  simp (maxDischargeDepth := 20) only [masks_ite, masks_askRise, masks_count, masks_modChan, hk, hn, hp, h']

theorem masks_lvlOff : MasksPulled k s0 (s.lvlOff n at_) :=
  have h' := masks_chanOff (masks_modChan h n fun c => { c with lvl := false, cut := false }) n at_
  masks_ite (masks_endOverlap h' hk hn at_) h'

theorem masks_turnOffChan (one : Bool) : MasksPulled k s0 (s.turnOffChan n at_ one) := by
  unfold State.turnOffChan State.forceLow State.innerLater
  simp (maxDischargeDepth := 20) only [masks_ite, masks_modChan, masks_lvlOff, masks_gcFall, hk, hn, h]

omit hn in
theorem masks_beginTurnOff (one : Bool) : MasksPulled k s0 (s.beginTurnOff k at_ one) := by
  refine holds_forNums (P := MasksPulled k s0) _ (fun n hn u hu => masks_turnOffChan hu hk ?_ at_ one) h
  have hmem : n ∈ stackChans k := by
    rcases List.mem_append.mp hn with hn | hn
    · exact (List.mem_filter.mp hn).1
    · exact (List.mem_filter.mp hn).1
  exact mem_stackChans.mp hmem

end

/-! ### The start of a training -/

section
variable (s : State) {k : Nat}

theorem transmit_gs (hk : k < 16) (new : List LinkChar) : ∃ t0 cs rest,
    (s.transmit k new false).gs k = { s.gs k with line := (t0, cs ++ new) :: rest } := by
  unfold State.transmit
  rw [State.gs_modGs_same _ _ _ hk]
  cases (s.gs k).line with
  | nil => exact ⟨s.now, [], [], rfl⟩
  | cons x rest =>
    obtain ⟨t0, cs⟩ := x
    dsimp only
    split
    · exact ⟨_, [], _, rfl⟩
    · exact ⟨t0, cs, rest, rfl⟩

/-- A stack's link as its training has begun, before its channels turn off. -/
def State.linkReset (s : State) (k : Nat) : State :=
  s.modGs k fun g => { g with link := .training, trainAt := s.now, echoes := [], crcRun := 0 }

def State.trainNew (s : State) (k : Nat) : State :=
  let s := ((s.linkReset k).transmit k (ts1 k) false).dropClears k
  { s with meas := { s.meas with linkBits := vset s.meas.linkBits k [] } }

theorem trainLink_eq : s.trainLink k = if (s.gs k).link = .trained then (s.trainNew k).beginTurnOff k (s.trainNew k).now true else s.trainNew k :=
  rfl

theorem trainNew_fields : (s.trainNew k).gdl = ((s.linkReset k).transmit k (ts1 k) false).gdl ∧ (s.trainNew k).now = s.now ∧
    (s.trainNew k).gdl.trainRuns = s.gdl.trainRuns := ⟨rfl, rfl, rfl⟩

theorem trainNew_gs_eq (j : Nat) : (s.trainNew k).gs j = ((s.linkReset k).transmit k (ts1 k) false).gs j := by
  rw [State.gs, (trainNew_fields s).1]
  rfl

theorem trainNew_gs (hk : k < 16) : ∃ t0 cs rest, (s.trainNew k).gs k =
    { s.gs k with link := .training, trainAt := s.now, echoes := [], crcRun := 0, line := (t0, cs ++ ts1 k) :: rest } := by
  obtain ⟨t0, cs, rest, h⟩ := transmit_gs (s.linkReset k) hk (ts1 k)
  refine ⟨t0, cs, rest, ?_⟩
  rw [trainNew_gs_eq, h, State.linkReset, State.gs_modGs_same _ _ _ hk]

theorem trainNew_gs_other {j : Nat} (hj : j ≠ k) : (s.trainNew k).gs j = s.gs j := by
  rw [trainNew_gs_eq, State.transmit, State.gs_modGs_other _ _ _ _ hj, State.linkReset, State.gs_modGs_other _ _ _ _ hj]

/-- The link of a stack trains. -/
def GdlStack.TrainsFrom (g : GdlStack) (k now : Nat) (g' : GdlStack) : Prop :=
  g' = { g with
    link := .training, trainAt := now, echoes := [], crcRun := 0, line := g'.line, pullMask := g'.pullMask } ∧
  ∃ t0 cs rest, g'.line = (t0, cs ++ ts1 k) :: rest

theorem trainLink_masks (hk : k < 16) : MasksPulled k (s.trainNew k) (s.trainLink k) := by
  rw [trainLink_eq]
  exact masks_ite (masks_beginTurnOff (.refl _) hk _ _) (.refl _)

theorem trainLink_gs (hk : k < 16) : (s.gs k).TrainsFrom k s.now ((s.trainLink k).gs k) := by
  obtain ⟨-, -, m, hself⟩ := trainLink_masks s hk
  obtain ⟨t0, cs, rest, hnew⟩ := trainNew_gs s hk
  rw [hself, hnew]
  exact ⟨rfl, t0, cs, rest, rfl⟩

theorem trainLink_kept (hk : k < 16) : (∀ j ≠ k, (s.trainLink k).gs j = s.gs j) ∧ (s.trainLink k).gdl.trainRuns = s.gdl.trainRuns ∧
    (s.trainLink k).now = s.now := by
  obtain ⟨hother, hruns, -⟩ := trainLink_masks s hk
  obtain ⟨-, -, hnew⟩ := trainNew_fields s (k := k)
  exact ⟨fun j hj => (hother j hj).trans (trainNew_gs_other s hj), hruns.trans hnew,
    (only_trainLink s k (Only.refl [.regs, .meas, .pwm, .gdl, .trp] s) (by decide) (by decide) (by decide) (by decide) (by decide)).keeps_now
      (by decide)⟩

/-- The stacks of a mask whose link trains. -/
def State.trainNamed (s : State) (mask : Nat) : List Nat := (bitsIn 16 mask).filter s.configured

theorem mem_trainNamed {mask : Nat} : k ∈ s.trainNamed mask ↔ (k < 16 ∧ mask.testBit k = true) ∧ s.configured k = true := by
  rw [State.trainNamed, List.mem_filter, mem_bitsIn]

theorem train_eq (mask : Nat) : s.train mask = if s.linkMode then forNums (s.trainNamed mask) (fun k s => s.trainLink k) s else s := rfl

theorem train_gs (mask : Nat) (hk : k < 16) :
    if (s.linkMode && mask.testBit k && s.configured k) = true then (s.gs k).TrainsFrom k s.now ((s.train mask).gs k)
    else (s.train mask).gs k = s.gs k := by
  rw [train_eq]
  cases hmode : s.linkMode with
  | false => exact (if_neg (by simp)).mpr rfl
  | true =>
    rw [if_pos rfl, Bool.true_and]
    split
    case isTrue h =>
      have hmem : k ∈ s.trainNamed mask := (mem_trainNamed s).mpr ⟨⟨hk, (Bool.and_eq_true_iff.mp h).1⟩, (Bool.and_eq_true_iff.mp h).2⟩
      refine forNums_once (P := fun u => u.gs k = s.gs k ∧ u.now = s.now) (Q := fun u => (s.gs k).TrainsFrom k s.now (u.gs k))
        (fun i hi hne u hu => ?before) (fun u hu => ?start) (fun i hi hne u hu => ?after) ((nodup_bitsIn 16 mask).filter _) hmem ⟨rfl, rfl⟩
      case before =>
        obtain ⟨hother, -, hnow⟩ := trainLink_kept u ((mem_trainNamed s).mp hi).1.1
        exact ⟨(hother k (Ne.symm hne)).trans hu.1, hnow.trans hu.2⟩
      case start =>
        rw [← hu.1, ← hu.2]
        exact trainLink_gs u hk
      case after =>
        rw [(trainLink_kept u ((mem_trainNamed s).mp hi).1.1).1 k (Ne.symm hne)]
        exact hu
    case isFalse h =>
      refine holds_forNums (P := fun u => u.gs k = s.gs k) _ (fun i hi u hu => ?_) rfl
      obtain ⟨⟨hi16, hbit⟩, hconf⟩ := (mem_trainNamed s).mp hi
      have hne : k ≠ i := fun heq => h (by rw [heq, hbit, hconf]; rfl)
      exact ((trainLink_kept u hi16).1 k hne).trans hu

theorem train_runs (mask : Nat) : (s.train mask).gdl.trainRuns = s.gdl.trainRuns := by
  rw [train_eq]
  refine holds_ite (P := fun u => u.gdl.trainRuns = s.gdl.trainRuns) (holds_forNums (P := fun u => u.gdl.trainRuns = s.gdl.trainRuns) _
    (fun i hi u hu => ?_) rfl) rfl
  exact (trainLink_kept u ((mem_trainNamed s).mp hi).1.1).2.1.trans hu

end

end Sys2Proof.Machine
end

section
/-! The end of a link training (R211, R212, R214, Table GDL-7), and the statement about off-state tests and link trainings. -/

-- The proofs are elaborated one after the other: this bounds the threads of the compiler, whose stacks count as its memory.
set_option Elab.async false

namespace Sys2Proof.Machine

theorem gs_of_gdl {s t : State} (h : t.gdl = s.gdl) (k : Nat) : t.gs k = s.gs k := by rw [State.gs, h]; rfl

theorem gs_advanceTo (s : State) (at_ k : Nat) : (s.advanceTo at_).gs k = s.gs k :=
  gs_of_gdl ((only_advanceTo_time s at_).keeps_gdl (by decide)) k

theorem gs_gdlFlag (s : State) (j bit k : Nat) : (s.gdlFlag j bit).gs k = s.gs k :=
  gs_of_gdl ((only_gdlFlag s j bit (Only.refl [.regs, .log] s) (by decide) (by decide)).keeps_gdl (by decide)) k

theorem dones_gs {α : Type} (xs : List α) (s : State) (src : α → Src) (op : Nat) (d : State → α → Nat) (k : Nat) :
    (xs.foldl (fun s x => s.done (src x) op (d s x)) s).gs k = s.gs k :=
  holds_foldl (P := fun u => u.gs k = s.gs k) xs (fun u x _ hu => (gs_of_gdl (by simp) k).trans hu) rfl

theorem trainComplete_gs (s : State) (k : Nat) : s.trainComplete.gs k = s.gs k :=
  dones_gs _ _ (fun x : Src × BitVec 16 => x.1) 0x0803 (fun _ _ => 0) k

/-! ### The end of a training -/

/-- What the link of a stack is once its training has ended (Table GDL-7). -/
def State.linkAfter (s : State) (k : Nat) (r : TrainResult) : LinkState :=
  if r.locked = false ∨ (s.gs k).trainAt + trainLimit < s.now then .down
  else if r.reversed = true ∨ r.stackId ≠ k then .fault
  else if (trainEchoes r).length < 16 then .down
  else if s.latFix < trainLatency r then .fault else .trained

section
variable (s : State) {k : Nat} (hk : k < 16) (r : TrainResult)
include hk

/-- A link's state is set in a state whose stack has the echoes noted. -/
theorem linkSet_gs {u : State} {g : GdlStack} (hu : u.gs k = g) (f : GdlStack → GdlStack) : (u.modGs k f).gs k = f g := by
  rw [State.gs_modGs_same _ _ _ hk, hu]

theorem trainEnd_gs : ((s.trainEnd k r).gs k).echoes = trainEchoes r ∧ ((s.trainEnd k r).gs k).link = s.linkAfter k r := by
  have hnoted : (((s.trainTaken k).modGs k fun g => { g with echoes := trainEchoes r }).gs k) = { s.gs k with echoes := trainEchoes r } :=
    linkSet_gs hk rfl _
  have hlat : ((s.trainTaken k).modGs k fun g => { g with echoes := trainEchoes r }).latFix = s.latFix := rfl
  have hnow : ((s.trainTaken k).modGs k fun g => { g with echoes := trainEchoes r }).now = s.now := rfl
  have hat : ((s.trainTaken k).gs k).trainAt = (s.gs k).trainAt := rfl
  unfold State.trainEnd State.linkAfter
  dsimp only
  rw [trainComplete_gs, hat]
  generalize (s.trainTaken k).modGs k (fun g => { g with echoes := trainEchoes r }) = u at *
  by_cases hlocked : r.locked = false ∨ (s.gs k).trainAt + trainLimit < s.now
  · rw [if_pos (by rw [hnow]; simpa using hlocked), if_pos hlocked, linkSet_gs hk ((gs_advanceTo _ _ _).trans hnoted)]
    exact ⟨rfl, rfl⟩
  rw [if_neg (by rw [hnow]; simpa using hlocked), if_neg hlocked]
  by_cases hwrong : r.reversed = true ∨ r.stackId ≠ k
  · have hflags (a b : Bool) : (if a then (if b then u.gdlFlag k 9 else u).gdlFlag k 8 else if b then u.gdlFlag k 9 else u).gs k = u.gs k := by
      cases a <;> cases b <;> simp only [Bool.false_eq_true, if_false, if_true, gs_gdlFlag]
    rw [if_pos (by simpa using hwrong), if_pos hwrong, linkSet_gs hk ((hflags _ _).trans hnoted)]
    exact ⟨rfl, rfl⟩
  rw [if_neg (by simpa using hwrong), if_neg hwrong]
  by_cases hfew : (trainEchoes r).length < 16
  · rw [if_pos hfew, if_pos hfew, linkSet_gs hk ((gs_advanceTo _ _ _).trans hnoted)]
    exact ⟨rfl, rfl⟩
  have hlat' : (u.setRegN .gdlLat k 0 (min (trainLatency r) 1023)).latFix = s.latFix := hlat
  have hnoted' : (u.setRegN .gdlLat k 0 (min (trainLatency r) 1023)).gs k = { s.gs k with echoes := trainEchoes r } := hnoted
  rw [if_neg hfew, if_neg hfew, hlat']
  by_cases hlate : s.latFix < trainLatency r
  · rw [if_pos hlate, if_pos hlate, linkSet_gs hk ((gs_gdlFlag _ _ _ _).trans hnoted')]
    exact ⟨rfl, rfl⟩
  · rw [if_neg hlate, if_neg hlate, gs_setRegN, linkSet_gs hk hnoted']
    exact ⟨rfl, rfl⟩

end

/-! ### The commands -/

section
variable {s : State} {c : Src} {p : Bytes}

/-- The trainings of a command have begun. -/
def State.trainingsBegun (s : State) (c : Src) (p : Bytes) : State :=
  let s := (s.setRegN .gdlTrain 0 0 ((s.reg .gdlTrain).toNat &&& s.trainMask)).train (pf p 0 2)
  { s with gdl := { s.gdl with trainRuns := s.gdl.trainRuns ++ [(c, BitVec.ofNat 16 (pf p 0 2))] } }

theorem linkTrain_begins (h : s.linkMode = true) : s.linkTrain c p = (s.trainingsBegun c p).trainComplete := if_neg (by simp [h])

theorem linkTrain_refused (h : s.linkMode = false) : s.linkTrain c p = s.refuse c 0x0803 .error 2 := if_pos (by simp [h])

/-- The one command whose link trains waits. -/
theorem trainComplete_waits {m : BitVec 16} {k : Nat} (hruns : s.gdl.trainRuns = [(c, m)]) (hk : k < 16) (hbit : m.toNat.testBit k = true)
    (hlink : (s.gs k).link = .training) : s.trainComplete = s := by
  have hends : ((bitsIn 16 m.toNat).all fun k => (s.gs k).link != .training) = false :=
    Bool.eq_false_iff.mpr fun hall => by simpa [hlink] using List.all_eq_true.mp hall k ((mem_bitsIn 16 _ k).mpr ⟨hk, hbit⟩)
  have hstate : ({ s with gdl := { s.gdl with trainRuns := [(c, m)] } } : State) = s := by rw [← hruns]
  unfold State.trainComplete
  simp only [hruns, List.filter_cons, hends, Bool.false_eq_true, if_false, Bool.not_false, if_true, List.filter_nil, List.foldl_nil]
  exact hstate

theorem pf_two_lt (p : Bytes) (o : Nat) : pf p o 2 < 2 ^ 16 :=
  (leNat_lt _).trans_le (Nat.pow_le_pow_right (n := 256) (by decide) (List.length_take_le _ _))

theorem ofNat_pf_two (p : Bytes) (o : Nat) : (BitVec.ofNat 16 (pf p o 2)).toNat = pf p o 2 := Nat.mod_eq_of_lt (pf_two_lt p o)

theorem testsBegun_effect (s : State) (c : Src) (p : Bytes) : (s.testsBegun c p).host = s.host ∧
    (s.testsBegun c p).gdl.ostRuns = s.gdl.ostRuns ++ [(c, BitVec.ofNat 16 (pf p 0 2))] ∧
    ∀ k < 16, (pf p 0 2).testBit k = true → s.ostMay k = true → ((s.testsBegun c p).gs k).ost = .running := by
  let u := s.setRegN .gdlOstStart 0 0 ((s.reg .gdlOstStart).toNat &&& s.ostMask)
  refine ⟨?_, congrArg (· ++ [(c, BitVec.ofNat 16 (pf p 0 2))]) (ostStart_runs u (pf p 0 2)), fun k hk hbit hmay => ?_⟩
  · exact (only_ostStart u (pf p 0 2) (Only.refl [.regs, .gdl, .trp] u) (by decide) (by decide) (by decide)).keeps_host (by decide)
  · have h := ostStart_gs u (pf p 0 2) hk
    rw [if_pos (by rw [hbit]; exact hmay)] at h
    exact h.1

theorem trainingsBegun_effect (s : State) (c : Src) (p : Bytes) : (s.trainingsBegun c p).host = s.host ∧
    (s.trainingsBegun c p).gdl.trainRuns = s.gdl.trainRuns ++ [(c, BitVec.ofNat 16 (pf p 0 2))] ∧
    ∀ k < 16, s.linkMode = true → (pf p 0 2).testBit k = true → s.configured k = true → ((s.trainingsBegun c p).gs k).link = .training := by
  let u := s.setRegN .gdlTrain 0 0 ((s.reg .gdlTrain).toNat &&& s.trainMask)
  refine ⟨?_, congrArg (· ++ [(c, BitVec.ofNat 16 (pf p 0 2))]) (train_runs u (pf p 0 2)), fun k hk hmode hbit hconf => ?_⟩
  · exact (only_train u (pf p 0 2) (Only.refl [.regs, .meas, .pwm, .gdl, .trp] u) (by decide) (by decide) (by decide) (by decide)
      (by decide)).keeps_host (by decide)
  · have h := train_gs u (pf p 0 2) hk
    have hmode' : u.linkMode = true := hmode
    have hconf' : u.configured k = true := hconf
    rw [if_pos (by rw [hmode', hbit, hconf']; rfl)] at h
    exact congrArg GdlStack.link h.1

end

/-- Settles O36. -/
theorem testsAndTrainingsRunPerStack : Obligations.TestsAndTrainingsRunPerStack := by
  unfold Obligations.TestsAndTrainingsRunPerStack
  refine ⟨?start, ?run, ?may, ?train, ?linkTrain, ?refused, ?complete⟩
  case start =>
    intro mask s
    refine ⟨_, rfl, fun k hk => ?_⟩
    have h := ostStart_gs (s.setRegN .gdlOstStart 0 0
      (((s.reg .gdlOstStart).toNat &&& s.ostMask) ||| maskOf 16 fun k => mask.toNat.testBit k && s.ostMay k)) mask.toNat hk
    rw [BitVec.testBit_toNat] at h
    exact h
  case run =>
    intro c p s hadm hruns hmask hmay
    refine ⟨_, congrArg Host.Outcome.next (obey_of_admits hadm _), ?_⟩
    beta_reduce
    obtain ⟨hhost, hruns', hrun⟩ := testsBegun_effect (s.took c) c p
    obtain ⟨k, hk, hbit⟩ := exists_testBit_lt hmask (pf_two_lt p 0)
    have hmay' (k : Nat) (hk : k < 16) (hbit : (pf p 0 2).testBit k = true) : (s.took c).ostMay k = true := by
      rw [ostMay_took]
      exact hmay k hk hbit
    rw [(by simp : (s.took c).gdl = s.gdl), hruns] at hruns'
    rw [ostRun_begins hmay', ostComplete_waits hruns' hk (by rwa [ofNat_pf_two]) (hrun k hk hbit (hmay' k hk hbit))]
    exact ⟨hruns', fun k hk hbit => hrun k hk hbit (hmay' k hk hbit), hostSame_of_host (hhost.trans (by simp))⟩
  case may =>
    intro c p k s hs hadm hk hbit hmay
    refine ⟨_, congrArg Host.Outcome.next (obey_of_admits hadm _), ?_⟩
    beta_reduce
    rw [ostRun_refused hk hbit (by rwa [ostMay_took])]
    exact ⟨by simp, answered_refuse hs (.refl _)⟩
  case train =>
    intro mask s
    refine ⟨_, rfl, fun k hk => ?_⟩
    have h := train_gs (s.setRegN .gdlTrain 0 0 (((s.reg .gdlTrain).toNat &&& s.trainMask) |||
      maskOf 16 fun k => mask.toNat.testBit k && s.linkMode && s.configured k)) mask.toNat hk
    rw [BitVec.testBit_toNat] at h
    exact h
  case linkTrain =>
    intro c p k s hadm hmode hruns hk hbit hconf
    refine ⟨_, congrArg Host.Outcome.next (obey_of_admits hadm _), ?_⟩
    beta_reduce
    obtain ⟨hhost, hruns', hlink⟩ := trainingsBegun_effect (s.took c) c p
    have hmode' : (s.took c).linkMode = true := by rwa [linkMode_took]
    have htraining := hlink k hk hmode' hbit (by rwa [configured_took])
    rw [(by simp : (s.took c).gdl = s.gdl), hruns] at hruns'
    rw [linkTrain_begins hmode', trainComplete_waits hruns' hk (by rwa [ofNat_pf_two]) htraining]
    exact ⟨hruns', htraining, hostSame_of_host (hhost.trans (by simp))⟩
  case refused =>
    intro c p s hs hadm hmode
    refine ⟨_, congrArg Host.Outcome.next (obey_of_admits hadm _), ?_⟩
    beta_reduce
    rw [linkTrain_refused (by rwa [linkMode_took])]
    exact ⟨by simp, answered_refuse hs (.refl _)⟩
  case complete =>
    intro k r s hlink
    exact ⟨_, if_pos hlink, trainEnd_gs s k.isLt r⟩

end Sys2Proof.Machine
end

section
/-! Gate feedback: the readback of a channel stands through a trip, and the levels of GA (R198 to R202). -/

-- The proofs are elaborated one after the other: this bounds the threads of the compiler, whose stacks count as its memory.
set_option Elab.async false

namespace Sys2Proof.Machine

/-- The judged readback of every GC land stands. -/
def SameReadback (s t : State) : Prop := ∀ n, (t.chan n).gcDiff = (s.chan n).gcDiff

section
variable {s0 s t : State}

theorem SameReadback.refl (s : State) : SameReadback s s := fun _ => rfl

theorem readback_of_chans (h : SameReadback s0 s) (hc : t.pwm.chans = s.pwm.chans) : SameReadback s0 t := fun n => by
  rw [State.chan, hc]
  exact h n

theorem readback_of_only {l : List Part} (ht : Only l s t) (h : SameReadback s0 s) (hl : .pwm ∉ l := by decide) : SameReadback s0 t :=
  readback_of_chans h (by rw [ht.keeps_pwm hl])

theorem readback_ite {c : Prop} [Decidable c] (hs : SameReadback s0 s) (ht : SameReadback s0 t) : SameReadback s0 (if c then s else t) :=
  holds_ite hs ht

theorem readback_forNums (xs : List Nat) (f : Nat → State → State) (hf : ∀ i u, SameReadback s0 u → SameReadback s0 (f i u))
    (h : SameReadback s0 s) : SameReadback s0 (forNums xs f s) := holds_forNums (P := SameReadback s0) xs (fun i _ => hf i) h

theorem readback_modChan (n : Nat) (f : Chan → Chan) (h : SameReadback s0 s) (hf : ∀ c, (f c).gcDiff = c.gcDiff) :
    SameReadback s0 (s.modChan n f) := fun j => by
  by_cases hj : j = n
  · subst hj
    by_cases hlt : j < 192
    · rw [modChan_chan hlt, hf]
      exact h j
    · have hsame : (s.modChan j f).chan j = s.chan j := by simp [State.chan, State.modChan, vget, vset, hlt]
      rw [hsame]
      exact h j
  · rw [State.chan_modChan_other _ _ _ _ hj]
    exact h j

section
variable (h : SameReadback s0 s)
include h

theorem readback_modZone (k : Nat) (f : Zone → Zone) : SameReadback s0 (s.modZone k f) := readback_of_chans h rfl
theorem readback_modGs (k : Nat) (f : GdlStack → GdlStack) : SameReadback s0 (s.modGs k f) := readback_of_chans h rfl
theorem readback_count (r : Reg) (i n : Nat) : SameReadback s0 (s.count r i n) := readback_of_chans h rfl
theorem readback_setReg (r : Reg) (i j : Nat) (v : DWord) : SameReadback s0 (s.setReg r i j v) := readback_of_chans h rfl
theorem readback_modTwn (f : TwnState → TwnState) : SameReadback s0 (s.modTwn f) := readback_of_chans h rfl

/-! ### What turns channels off -/

theorem readback_gcFall (n at_ : Nat) : SameReadback s0 (s.gcFall n at_) :=
  readback_ite (readback_modChan n _ h fun _ => rfl) h

theorem readback_chanOff (n at_ : Nat) : SameReadback s0 (s.chanOff n at_) := by
  refine readback_gcFall ?_ n at_
  exact readback_modChan n _ h fun _ => rfl

theorem readback_askRise (n at_ : Nat) : SameReadback s0 (s.askRise n at_) := by
  unfold State.askRise
  simp (maxDischargeDepth := 20) only [readback_ite, readback_modChan, readback_modGs, readback_modZone, h, implies_true]

theorem readback_endOverlap (n at_ : Nat) : SameReadback s0 (s.endOverlap n at_) := by
  have h' : SameReadback s0 { s with pwm := { s.pwm with overlap := vset s.pwm.overlap (pairOf n) false } } := readback_of_chans h rfl
  unfold State.endOverlap
  simp (maxDischargeDepth := 20) only [readback_ite, readback_askRise, readback_count, readback_modChan, h', implies_true]

theorem readback_lvlOff (n at_ : Nat) : SameReadback s0 (s.lvlOff n at_) :=
  have h' := readback_chanOff (readback_modChan n (fun c => { c with lvl := false, cut := false }) h fun _ => rfl) n at_
  readback_ite (readback_endOverlap h' n at_) h'

theorem readback_turnOffChan (n at_ : Nat) (one : Bool) : SameReadback s0 (s.turnOffChan n at_ one) := by
  unfold State.turnOffChan State.forceLow State.innerLater
  simp (maxDischargeDepth := 20) only [readback_ite, readback_modChan, readback_lvlOff, readback_gcFall, h, implies_true]

theorem readback_beginTurnOff (k at_ : Nat) (one : Bool) : SameReadback s0 (s.beginTurnOff k at_ one) :=
  readback_forNums _ _ (fun n _ hu => readback_turnOffChan hu n at_ one) h

/-! ### A cause -/

theorem readback_tripTold (k : Nat) (nt : DWord) : SameReadback s0 (s.tripTold k nt) := by
  have hended : Only [.gdl, .regs] (s.sendTrip k) ((s.sendTrip k).testEnded k) := by
    unfold State.testEnded
    exact only_ite (Only.refl _ _) (only_setRegN _ _ _ _ (only_modGs _ _ (Only.refl _ _) (by decide)) (by decide))
  have hset : SameReadback s0 (((s.sendTrip k).testEnded k).setReg .trpFirstNt k 0 nt) :=
    readback_setReg (readback_of_only hended (readback_of_only (only_sendTrip s k (Only.refl [.gdl] s) (by decide)) h)) _ _ _ _
  unfold State.tripTold
  dsimp only
  generalize ((s.sendTrip k).testEnded k).setReg .trpFirstNt k 0 nt = u at *
  have hoffer := readback_of_only (l := [.regs, .nt, .acq])
    (only_acqOffer u 2 nt (2 ^ k) (fun i => u.acqSel i k) (Only.refl _ u) (by decide) (by decide) (by decide)) hset
  exact readback_of_only (l := [.regs, .nt]) (only_ptmAsk _ 0 nt (2 ^ k) false (Only.refl _ _) (by decide) (by decide)) hoffer

theorem readback_firstTrip (k at_ : Nat) (nt : DWord) : SameReadback s0 (s.firstTrip k at_ nt) :=
  readback_tripTold (readback_beginTurnOff (readback_modZone h k _) k at_ false) k nt

theorem readback_latchOne (k cause source phase delay : Nat) : SameReadback s0 (s.latchOne k cause source phase delay) := by
  have hv : SameReadback s0 (s.sourceNoted k cause source) := readback_ite (readback_modZone h _ _) (readback_ite (readback_modZone h _ _) h)
  rw [latchOne_eq]
  dsimp only
  generalize s.sourceNoted k cause source = v at *
  have hm : SameReadback s0 (v.causeMarked k cause (ctlTick v.now)) := readback_modZone hv k _
  have hw := readback_of_only (l := [.trp, .regs, .log]) (only_tripRecord _ (v.tripClockAt (ctlTick v.now) + BitVec.ofNat 64 delay) k
    (3 * k + phase) cause source (decide ((s.zone k).causes = 0)) (Only.refl _ _) (by decide) (by decide) (by decide)) hm
  exact readback_ite hv (readback_ite (readback_firstTrip hw _ _ _) hw)

theorem readback_latch (k cause source phase : Nat) : SameReadback s0 (s.latch k cause source phase) := by
  have hone := readback_latchOne h k cause source phase 0
  have hdraw (u : State) (hu : SameReadback s0 u) : SameReadback s0 u.draw.2 := readback_of_chans hu rfl
  unfold State.latch
  refine readback_ite h (readback_ite (readback_modTwn h _) (readback_ite ?_ hone))
  exact readback_forNums _ _ (fun i u hu => readback_latchOne (hdraw u hu) _ _ _ _ _) hone

theorem readback_gdlTrip (k bit cause source phase : Nat) : SameReadback s0 (s.gdlTrip k bit cause source phase) := by
  have hflag : Only [.regs, .log] s ((s.setFlag .gdlFault k bit).logFlag 11 bit ((s.setFlag .gdlFault k bit).reg .gdlFault k)) :=
    only_logFlag _ _ _ _ (only_setFlag _ _ _ (Only.refl _ s) (by decide)) (by decide) (by decide)
  exact readback_ite h (readback_latch (readback_of_only hflag h) k cause source phase)

end

end

/-! ### The levels of GA -/

/-- The level of GA_n, as the channel takes it. -/
def Chan.gaRead (c : Chan) (level : Bool) (now : Nat) : Chan :=
  { c with
    ga := level
    gaOff := if !level && !c.gc then true else if level then false else c.gaOff
    ackDue := if level == c.gc then none else c.ackDue
    diffAt := if level == c.gc || c.ackDue.isSome then none else c.diffAt.or (some now) }

theorem echo_only (s : State) (n : Nat) (level : Bool) : Only [.gdl] s (s.echo n level) := only_echo s n level (Only.refl _ s) (by decide)

def State.gaRead (s : State) (n : Nat) (level : Bool) : State := (s.echo n level).modChan n fun c => c.gaRead level s.now

theorem gaAccept_eq (s : State) (n : Nat) (level : Bool) :
    s.gaAccept n level = if level then s.gaRead n level else (s.gaRead n level).tryRise (partner n) s.now := by
  have hnow : (s.echo n level).now = s.now := (echo_only s n level).keeps_now
  unfold State.gaRead Chan.gaRead
  rw [← hnow]
  rfl

section
variable (s : State) {n : Nat} (hn : n < 192) (level : Bool)
include hn

theorem gaRead_chan : (s.gaRead n level).chan n = (s.chan n).gaRead level s.now ∧ ∀ j ≠ n, (s.gaRead n level).chan j = s.chan j := by
  have hecho (j : Nat) : (s.echo n level).chan j = s.chan j := by rw [State.chan, (echo_only s n level).keeps_pwm]; rfl
  refine ⟨?_, fun j hj => (State.chan_modChan_other _ _ _ _ hj).trans (hecho j)⟩
  rw [State.gaRead, modChan_chan hn, hecho]

theorem gaAccept_chan : (s.gaAccept n level).chan n = (s.chan n).gaRead level s.now := by
  obtain ⟨hself, -⟩ := gaRead_chan s hn level
  rw [gaAccept_eq]
  split
  · exact hself
  · rw [(tryRise_keeps (partner_lt hn) _ _).1 n (partner_ne n).symm, hself]

/-- R198, R199: a low GA with a low GC lets the partner's waiting GC rise. -/
theorem gaAccept_partner (hgc : (s.chan n).gc = false) (hout : (s.chan (partner n)).out = true) (hseq : (s.chan (partner n)).offSeq = none)
    (hoff : s.stage6Off (partner n / 12) = false) : ((s.gaAccept n false).chan (partner n)).gc = true := by
  obtain ⟨hself, hrest⟩ := gaRead_chan s hn false
  have hp := hrest _ (partner_ne n)
  have honly : Only [.gdl, .pwm] s (s.gaRead n false) :=
    only_modChan n _ (only_echo s n false (Only.refl [.gdl, .pwm] s) (by decide)) (by decide)
  have hstage : (s.gaRead n false).stage6Off (partner n / 12) = false := by
    unfold State.stage6Off State.zone
    rw [honly.keeps_trp, honly.keeps_saf]
    exact hoff
  rw [gaAccept_eq, if_neg (by decide)]
  cases hhigh : ((s.gaRead n false).chan (partner n)).gc with
  | true =>
    rw [State.tryRise, if_neg (by simp [hhigh])]
    exact hhigh
  | false =>
    rw [tryRise_chan (partner_lt hn) _ _ (by rw [hp]; exact hout) hhigh, State.mayRise, partner_partner, hself, hstage, hp, hseq]
    simp [Chan.gaRead, hgc]

end

end Sys2Proof.Machine
end

section
/-! Missing confirmations, mismatches and fault lines (R200 to R202, Table GDL-13). -/

-- The proofs are elaborated one after the other: this bounds the threads of the compiler, whose stacks count as its memory.
set_option Elab.async false

namespace Sys2Proof.Machine

/-- What a line of the gate feedback changes before it trips: levels of channels and of stacks. -/
def Levels (s u : State) : Prop :=
  u.trp = s.trp ∧ u.ops = s.ops ∧ u.live = s.live ∧ u.twn = s.twn ∧ ∀ k, (u.gs k).ost = (s.gs k).ost

section
variable {s u : State} (h : Levels s u)
include h

theorem Levels.latches (k c : Nat) : u.latches k c = s.latches k c := by
  obtain ⟨-, hops, hlive, htwn, host⟩ := h
  exact latches_of hops hlive (by rw [htwn]; exact ⟨rfl, rfl⟩) (fun k => by rw [host k]) k c

/-- A cause that is recognised trips from there. -/
theorem Levels.tripped {k c : Nat} (hk : k < 16) (hc : c < 16) (bit source phase : Nat) (hl : s.latches k c = true) :
    Tripped k c s (u.gdlTrip k bit c source phase) := by
  obtain ⟨-, htrips⟩ := gdlTrip_trips (s := u) hk hc bit source phase
  exact (htrips ((h.latches k c).trans hl)).of_before (by rw [h.1])

end

theorem now_gdlTrip (s : State) (k bit cause source phase : Nat) : (s.gdlTrip k bit cause source phase).now = s.now :=
  (only_gdlTrip s k bit cause source phase (Only.refl [.free, .regs, .pwm, .gdl, .trp, .nt, .log, .acq, .twn] s) (by decide) (by decide)
    (by decide) (by decide) (by decide) (by decide) (by decide) (by decide) (by decide)).keeps_now

theorem levels_advanceTo (s : State) (at_ : Nat) : Levels s (s.advanceTo at_) := by
  have honly := only_advanceTo_time s at_
  exact ⟨honly.keeps_trp, honly.keeps_ops, honly.keeps_live, honly.keeps_twn, fun k => by rw [gs_advanceTo]⟩

theorem levels_modChan (s : State) (n : Nat) (f : Chan → Chan) : Levels s (s.modChan n f) := ⟨rfl, rfl, rfl, rfl, fun _ => rfl⟩

theorem levels_modGs (s : State) {k : Nat} (hk : k < 16) (f : GdlStack → GdlStack) (hf : ∀ g, (f g).ost = g.ost) : Levels s (s.modGs k f) := by
  refine ⟨rfl, rfl, rfl, rfl, fun j => ?_⟩
  by_cases hj : j = k
  · rw [hj, State.gs_modGs_same _ _ _ hk, hf]
  · rw [State.gs_modGs_other _ _ _ _ hj]

/-! ### A missing confirmation -/

section
variable (s : State) (n t0 : Nat)

/-- A confirmation that has not come is counted. -/
def State.ackCounted (s : State) (n t0 : Nat) : State :=
  let s := s.modChan n fun c => { c with ackDue := none, diffAt := if s.linkMode || c.ga == c.gc then none else some t0 }
  (s.count .gdlAckToCnt (n / 12)).modGs (n / 12) fun g => { g with ackLost := true }

theorem ackLate_eq : s.ackLate n t0 = if ((s.ackCounted n t0).zone (n / 12)).causes = 0 then
    (s.ackCounted n t0).gdlTrip (n / 12) 2 5 (n % 12) (n % 12 / 4) else s.ackCounted n t0 := rfl

theorem zone_ackCounted (k : Nat) : (s.ackCounted n t0).zone k = s.zone k := rfl

variable {n} (hn : n < 192)
include hn

theorem levels_ackCounted : Levels s (s.ackCounted n t0) := levels_modGs _ (by omega) _ fun _ => rfl

theorem ackCounted_effect : (s.ackCounted n t0).trp = s.trp ∧ ((s.ackCounted n t0).gs (n / 12)).ackLost = true ∧
    (s.ackCounted n t0).chan n = { s.chan n with
      ackDue := none, diffAt := if s.linkMode || (s.chan n).ga == (s.chan n).gc then none else some t0 } := by
  refine ⟨rfl, ?_, ?_⟩
  · rw [State.ackCounted, State.gs_modGs_same _ _ _ (by omega)]
  · have hpwm : (s.ackCounted n t0).pwm =
        (s.modChan n fun c => { c with ackDue := none, diffAt := if s.linkMode || c.ga == c.gc then none else some t0 }).pwm := rfl
    rw [chan_of_pwm _ hpwm, modChan_chan hn]

end

theorem ackCounted_counter {s : State} (hs : s.storesCanonical) (n t0 : Nat) :
    ((s.ackCounted n t0).reg .gdlAckToCnt (n / 12)).toNat = min ((s.reg .gdlAckToCnt (n / 12)).toNat + 1) 0xFFFFFFFF := by
  have hc : (s.modChan n fun c => { c with
      ackDue := none, diffAt := if s.linkMode || c.ga == c.gc then none else some t0 }).storesCanonical := hs
  exact (counts_count hc .gdlAckToCnt (n / 12)).1

theorem execAckTimeout_due {s : State} {n : Fin 96} {t0 : Nat} (h : (s.chan n).ackDue = some t0) :
    execAckTimeout n s = .next ((s.advanceTo t0).ackLate n t0) := by
  unfold execAckTimeout
  rw [h]

theorem execAckMismatch_differs {s : State} {n : Fin 96} {t0 : Nat} (hmode : s.linkMode = false) (h : (s.chan n).diffAt = some t0) :
    execAckMismatch n s = .next ((s.advanceTo (t0 + s.ackTo + 1)).gdlTrip (n / 12) 3 6 (n % 12) (n % 12 / 4)) := by
  unfold execAckMismatch
  rw [h]
  exact if_neg (by simp [hmode])

theorem execGcFault_judged {s : State} {n : Fin 96} (hmode : s.linkMode = false) (differs : Bool) :
    execGcFault n differs s = if differs then .next ((s.modChan n fun c => { c with gcDiff := differs }).gdlTrip (n / 12) 4 7 (n % 12) (n % 12 / 4))
      else .next (s.modChan n fun c => { c with gcDiff := differs }) := if_neg (by simp [hmode])

theorem execFltTrip_judged {s : State} {k : Fin 8} (hmode : s.linkMode = false) (low : Bool) :
    execFltTrip k low s = if low then .next ((s.modGs k fun g => { g with fltLow := low }).gdlTrip k 0 3 0 0)
      else .next (s.modGs k fun g => { g with fltLow := low }) := if_neg (by simp [hmode])

theorem execGaConfirm_accepts {s : State} {n : Fin 96} (hmode : s.linkMode = false) (level : Bool) : execGaConfirm n level s =
    .next ((if level == (s.chan n).gc && (s.chan n).ackDue.isSome then s.advanceTo ((s.chan n).gcAt + s.gaFilt) else s).gaAccept n level) :=
  if_neg (by simp [hmode])

end Sys2Proof.Machine
end

section
/-! The cycles of the driver status ring (R203 to R206). -/

-- The proofs are elaborated one after the other: this bounds the threads of the compiler, whose stacks count as its memory.
set_option Elab.async false

namespace Sys2Proof.Machine

/-- What the latest return frame of a stack has read, and the state of its link. -/
def GdlStack.readings (g : GdlStack) : Nat × BitVec 12 × Bool × Bool × LinkState := (g.crcRun, g.ifaceGa, g.retFlt, g.retHard, g.link)

/-- The runs of bad and good words of a stack stand, the state of its ring, and what its return frames have read. -/
def GdlStack.RunsSame (g g' : GdlStack) : Prop :=
  g'.badRun = g.badRun ∧ g'.goodRun = g.goodRun ∧ g'.dsr = g.dsr ∧ g'.readings = g.readings

theorem GdlStack.TripsTo.runs {g g' : GdlStack} (h : g.TripsTo g') : g.RunsSame g' := by
  obtain ⟨-, o, m, st, ln, heq⟩ := h
  rw [heq]
  exact ⟨rfl, rfl, rfl, rfl⟩

theorem GdlStack.RunsSame.trans {g g' g'' : GdlStack} (h : g.RunsSame g') (h' : g'.RunsSame g'') : g.RunsSame g'' :=
  by
  obtain ⟨hbad, hgood, hdsr, hread⟩ := h
  obtain ⟨hbad', hgood', hdsr', hread'⟩ := h'
  exact ⟨hbad'.trans hbad, hgood'.trans hgood, hdsr'.trans hdsr, hread'.trans hread⟩

/-- The runs of words of every stack stand, and the registers of the live set. -/
def SameRuns (s t : State) : Prop := (∀ k, (s.gs k).RunsSame (t.gs k)) ∧ t.live = s.live

section
variable {s0 s t : State}

theorem SameRuns.refl (s : State) : SameRuns s s := ⟨fun _ => ⟨rfl, rfl, rfl, rfl⟩, rfl⟩

theorem SameRuns.trans (h : SameRuns s0 s) (h' : SameRuns s t) : SameRuns s0 t := ⟨fun k => (h.1 k).trans (h'.1 k), h'.2.trans h.2⟩

theorem runs_of_gdl (h : SameRuns s0 s) (hg : t.gdl = s.gdl) (hl : t.live = s.live) : SameRuns s0 t :=
  h.trans ⟨fun k => by rw [gs_of_gdl hg]; exact ⟨rfl, rfl, rfl, rfl⟩, hl⟩

theorem runs_ite {c : Prop} [Decidable c] (hs : SameRuns s0 s) (ht : SameRuns s0 t) : SameRuns s0 (if c then s else t) := holds_ite hs ht

theorem runs_forNums (xs : List Nat) (f : Nat → State → State) (hf : ∀ i u, SameRuns s0 u → SameRuns s0 (f i u)) (h : SameRuns s0 s) :
    SameRuns s0 (forNums xs f s) := holds_forNums (P := SameRuns s0) xs (fun i _ => hf i) h

theorem runs_modGs (k : Nat) (f : GdlStack → GdlStack) (h : SameRuns s0 s) (hf : ∀ g : GdlStack, g.RunsSame (f g)) :
    SameRuns s0 (s.modGs k f) := by
  refine h.trans ⟨fun j => ?_, rfl⟩
  by_cases hj : j = k
  · subst hj
    by_cases hlt : j < 16
    · rw [State.gs_modGs_same _ _ _ hlt]
      exact hf _
    · have hsame : (s.modGs j f).gs j = s.gs j := by simp [State.gs, State.modGs, vget, vset, hlt]
      rw [hsame]
      exact ⟨rfl, rfl, rfl, rfl⟩
  · rw [State.gs_modGs_other _ _ _ _ hj]
    exact ⟨rfl, rfl, rfl, rfl⟩

theorem TripsOnly.runs (h : TripsOnly s t) (hl : t.live = s.live) : SameRuns s t := ⟨fun k => (h.gs k).runs, hl⟩

theorem gdlTrip_runs (s : State) {k cause : Nat} (hk : k < 16) (hc : cause < 16) (bit source phase : Nat) :
    SameRuns s (s.gdlTrip k bit cause source phase) :=
  (gdlTrip_trips hk hc bit source phase).1.runs
    (only_gdlTrip s k bit cause source phase (Only.refl [.free, .regs, .pwm, .gdl, .trp, .nt, .log, .acq, .twn] s) (by decide) (by decide)
      (by decide) (by decide) (by decide) (by decide) (by decide) (by decide) (by decide)).keeps_live

theorem fltStanding_runs (s : State) {k : Nat} (hk : k < 16) : SameRuns s (s.fltStanding k) := runs_ite (gdlTrip_runs s hk (by decide) _ _ _) (.refl s)

theorem ostComplete_runs (s : State) : SameRuns s s.ostComplete := by
  have hdone (u : State) (c : Src) (op d : Nat) (hu : SameRuns s u) : SameRuns s (u.done c op d) := runs_of_gdl hu (by simp) (by simp)
  have h : SameRuns s { s with gdl := { s.gdl with ostRuns := s.gdl.ostRuns.filter fun x => !(bitsIn 16 x.2.toNat).all fun k => (s.gs k).ost != .running } } :=
    ⟨fun _ => ⟨rfl, rfl, rfl, rfl⟩, rfl⟩
  exact holds_foldl (P := SameRuns s) _ (fun u x _ hu => hdone u _ _ _ hu) h

theorem ostGuard_runs (s : State) {k : Nat} (hk : k < 16) : SameRuns s (s.ostGuard k) := by
  have hnone : SameRuns s (s.modGs k fun g => { g with ost := .none }) := runs_modGs k _ (.refl s) fun _ => ⟨rfl, rfl, rfl, rfl⟩
  exact runs_ite (.refl s) (runs_ite (hnone.trans ((ostComplete_runs _).trans (fltStanding_runs _ hk))) (.refl s))

theorem ostTailEnd_runs (s : State) {k : Nat} (hk : k < 16) : SameRuns s (s.ostTailEnd k) := by
  have htail : SameRuns s (s.modGs k fun g => { g with ostTail := false }) := runs_modGs k _ (.refl s) fun _ => ⟨rfl, rfl, rfl, rfl⟩
  exact runs_ite (htail.trans (fltStanding_runs _ hk)) (.refl s)

theorem ostCode_runs (g : GdlStack) (j code : Nat) : g.RunsSame (g.ostCode j code) := by
  unfold GdlStack.ostCode
  split
  · exact ⟨rfl, rfl, rfl, rfl⟩
  · exact ⟨rfl, rfl, rfl, rfl⟩

theorem runs_ostCode (h : SameRuns s0 s) (k j code : Nat) : SameRuns s0 (s.modGs k fun g => g.ostCode j code) :=
  runs_modGs k _ h fun g => ostCode_runs g j code

theorem testCode_runs (h : SameRuns s0 s) (k j : Nat) (w : Option Word) : SameRuns s0 (s.testCode k j w) := by
  have hdraw : SameRuns s0 s.draw.2 := runs_of_gdl h rfl rfl
  cases w with
  | none => exact runs_ostCode h _ _ _
  | some w => exact runs_ite (runs_ostCode h _ _ _) (runs_ite (runs_ostCode h _ _ _) (runs_ite (runs_ostCode h _ _ _) (runs_ostCode hdraw _ _ _)))

theorem ostFinish_runs (s : State) {k : Nat} (hk : k < 16) : SameRuns s (s.ostFinish k) := by
  unfold State.ostFinish
  dsimp only
  generalize (!s.linkMode && decide (s.nodes k = 12)) = tail
  generalize (if s.ostFails k = [] then OstState.passed else OstState.failed) = o
  have hset (v : Nat) : SameRuns s ((s.modGs k fun g => { g with ost := o, ostTail := tail }).setRegN .gdlOstRes k 0 v) := by
    refine runs_of_gdl (s := s.modGs k fun g => { g with ost := o, ostTail := tail }) ?_ rfl rfl
    exact runs_modGs k _ (.refl s) fun _ => ⟨rfl, rfl, rfl, rfl⟩
  exact runs_ite ((hset _).trans (ostComplete_runs _)) (((hset _).trans (ostComplete_runs _)).trans (fltStanding_runs _ hk))

theorem ostRingCycle_runs (s : State) {k : Nat} (hk : k < 16) (words : List Word) : SameRuns s (s.ostRingCycle k words) := by
  have hcycle (u : State) (i : Nat) (hu : SameRuns s u) : SameRuns s (u.modGs k fun g => { g with ostCycle := i }) :=
    runs_modGs k _ hu fun _ => ⟨rfl, rfl, rfl, rfl⟩
  have hend (u : State) (i : Nat) (hu : SameRuns s u) : SameRuns s (if i = 82 then u.ostFinish k else u) :=
    runs_ite (hu.trans (ostFinish_runs _ hk)) hu
  have hwords : SameRuns s (if (s.gs k).ostCycle = 52 then forNums (List.range (s.nodes k)) (fun j s => s.testCode k j words[j]?) s else s) :=
    runs_ite (runs_forNums _ _ (fun _ _ hu => testCode_runs hu _ _ _) (.refl s)) (.refl s)
  have hecho (u : State) (x : BitVec 12) (hu : SameRuns s u) : SameRuns s (if (s.gs k).ostCycle = 57 then
      forNums (List.range (s.nodes k)) (fun j s => if x.getLsbD j then s else s.modGs k fun g => g.ostCode j 6) u else u) :=
    runs_ite (runs_forNums _ _ (fun _ _ hv => runs_ite hv (runs_ostCode hv _ _ _)) hu) hu
  unfold State.ostRingCycle
  refine hend _ _ (hcycle _ _ ?_)
  have h := hecho _ (s.gs k).ostEcho hwords
  exact runs_ite (runs_ite (runs_ite h (runs_ostCode h _ _ _)) (runs_ite (runs_ostCode h _ _ _) h)) h

theorem ringNext_runs (s : State) (k : Nat) (ended : Bool) : SameRuns s (s.ringNext k ended) := by
  unfold State.ringNext
  dsimp only
  have hwords (ws : List Word) : SameRuns s (s.modGs k fun g => { g with ringCmd := ws }) :=
    runs_modGs k _ (.refl s) fun _ => ⟨rfl, rfl, rfl, rfl⟩
  exact runs_ite (runs_of_gdl (hwords _) rfl rfl) (hwords _)

end

end Sys2Proof.Machine
end

section
/-! A cycle of the driver status ring as its parts: the words of the nodes, the third bad one in a row, and the next command words. -/

-- The proofs are elaborated one after the other: this bounds the threads of the compiler, whose stacks count as its memory.
set_option Elab.async false

namespace Sys2Proof.Machine

/-! ### The words of the nodes -/

/-- Is the word that has come for a node a good one (R204)? -/
def wordGood (words : List Word) (j : Nat) : Bool := (words[j]?.map fun w => drvCrcOk w && decide (drvNode w = j)).getD false

/-- The runs of a node, with one more word. -/
def GdlStack.wordRun (g : GdlStack) (j : Nat) (good : Bool) : GdlStack :=
  { g with
    badRun := vset g.badRun j (if good then 0 else vget g.badRun j 0 + 1)
    goodRun := vset g.goodRun j (if good then vget g.goodRun j 0 + 1 else 0) }

def State.wordCounted (s : State) (k j : Nat) (good : Bool) : State := s.modGs k fun g => g.wordRun j good

theorem nodeWord_eq (s : State) (k j : Nat) (words : List Word) : s.nodeWord k j words[j]? =
    match words[j]? with
    | some w => (s.wordCounted k j (wordGood words j)).drvWord k j w
    | none => s.wordCounted k j (wordGood words j) := by
  unfold State.nodeWord wordGood State.wordCounted GdlStack.wordRun
  cases words[j]? <;> rfl

section
variable {s0 s : State} {k : Nat} (hk : k < 16)
include hk

theorem drvGood_runs (s : State) (j : Nat) (old w : Word) : SameRuns s (s.drvGood k j old w) := by
  have hnodes (x : GdlStack → BitVec 12) : SameRuns s (s.modGs k fun g => { g with hardNodes := x g }) :=
    runs_modGs k _ (.refl s) fun _ => ⟨rfl, rfl, rfl, rfl⟩
  have hsoft (u : State) : SameRuns u ((u.count .gdlSoftCnt k).note 11 3 (12 * k + j) (leBytes 4 w.toNat)) := by
    have honly : Only [.regs, .log] u ((u.count .gdlSoftCnt k).note 11 3 (12 * k + j) (leBytes 4 w.toNat)) :=
      only_note _ 11 3 _ _ (only_count .gdlSoftCnt k 1 (Only.refl _ u) (by decide)) (by decide) (by decide)
    exact runs_of_gdl (.refl u) honly.keeps_gdl honly.keeps_live
  have hhard (u : State) (hu : SameRuns s u) : SameRuns s (if drvHard w then u.gdlTrip k 1 4 j 0 else u) :=
    runs_ite (hu.trans (gdlTrip_runs u hk (by decide) _ _ _)) hu
  unfold State.drvGood
  exact hhard _ (runs_ite ((hnodes _).trans (hsoft _)) (hnodes _))

theorem drvWord_runs (s : State) (j : Nat) (w : Word) : SameRuns s (s.drvWord k j w) := by
  have hset : SameRuns s (s.setRegN .gdlDrv (12 * k + j) 0 w.toNat) := ⟨fun _ => ⟨rfl, rfl, rfl, rfl⟩, rfl⟩
  have hgood : SameRuns s ((s.setRegN .gdlDrv (12 * k + j) 0 w.toNat).modGs k fun g => { g with good := vset g.good j w }) :=
    runs_modGs k _ hset fun _ => ⟨rfl, rfl, rfl, rfl⟩
  exact runs_ite (hgood.trans (drvGood_runs hk _ _ _ _)) hset

theorem nodeWord_runs (s : State) (j : Nat) (words : List Word) : SameRuns (s.wordCounted k j (wordGood words j)) (s.nodeWord k j words[j]?) := by
  rw [nodeWord_eq]
  cases words[j]? with
  | none => exact .refl _
  | some w => exact drvWord_runs hk _ _ _

theorem nodeWord_gs (s : State) (j : Nat) (words : List Word) :
    ((s.gs k).wordRun j (wordGood words j)).RunsSame ((s.nodeWord k j words[j]?).gs k) ∧ (s.nodeWord k j words[j]?).live = s.live := by
  obtain ⟨hruns, hlive⟩ := nodeWord_runs hk s j words
  have h := hruns k
  rw [State.wordCounted, State.gs_modGs_same _ _ _ hk] at h
  exact ⟨h, hlive⟩

end

/-- The words of a cycle have been taken. -/
def State.ringWordsTaken (s : State) (k : Nat) (words : List Word) : State :=
  forNums (List.range (s.nodes k)) (fun j s => s.nodeWord k j words[j]?) s

/-- What a node's runs are once its word has come. -/
def RunsAfter (words : List Word) (j : Nat) (g g' : GdlStack) : Prop :=
  vget g'.badRun j 0 = (if wordGood words j then 0 else vget g.badRun j 0 + 1) ∧
    vget g'.goodRun j 0 = (if wordGood words j then vget g.goodRun j 0 + 1 else 0)

section
variable (s : State) {k : Nat} (hk : k < 16) (words : List Word)
include hk

theorem ringWordsTaken_live : (s.ringWordsTaken k words).live = s.live :=
  holds_forNums (P := fun u => u.live = s.live) _ (fun j _ u hu => (nodeWord_gs hk u j words).2.trans hu) rfl

theorem ringWordsTaken_runs {j : Nat} (hj : j < 12) (hnode : j < s.nodes k) : RunsAfter words j (s.gs k) ((s.ringWordsTaken k words).gs k) := by
  have hother (i : Nat) (hi : i ≠ j) (u : State) : vget ((u.nodeWord k i words[i]?).gs k).badRun j 0 = vget (u.gs k).badRun j 0 ∧
      vget ((u.nodeWord k i words[i]?).gs k).goodRun j 0 = vget (u.gs k).goodRun j 0 := by
    obtain ⟨⟨hbad, hgood, -⟩, -⟩ := nodeWord_gs hk u i words
    rw [hbad, hgood]
    exact ⟨vget_vset_other _ _ _ _ _ (Ne.symm hi), vget_vset_other _ _ _ _ _ (Ne.symm hi)⟩
  refine forNums_once (P := fun u => vget (u.gs k).badRun j 0 = vget (s.gs k).badRun j 0 ∧ vget (u.gs k).goodRun j 0 = vget (s.gs k).goodRun j 0)
    (Q := fun u => RunsAfter words j (s.gs k) (u.gs k)) (fun i _ hi u hu => ?before) (fun u hu => ?takes) (fun i _ hi u hu => ?after)
    List.nodup_range (List.mem_range.mpr hnode) ⟨rfl, rfl⟩
  case before =>
    obtain ⟨hbad, hgood⟩ := hother i hi u
    exact ⟨hbad.trans hu.1, hgood.trans hu.2⟩
  case takes =>
    obtain ⟨⟨hbad, hgood, -⟩, -⟩ := nodeWord_gs hk u j words
    unfold RunsAfter
    rw [hbad, hgood, ← hu.1, ← hu.2]
    exact ⟨vget_vset_same _ _ _ _ hj, vget_vset_same _ _ _ _ hj⟩
  case after =>
    obtain ⟨hbad, hgood⟩ := hother i hi u
    unfold RunsAfter at *
    rw [hbad, hgood]
    exact hu

end

/-! ### The third bad word in a row -/

/-- The ring of a stack is in fault. -/
def State.ringFault (s : State) (k j : Nat) : State :=
  let s := (s.modGs k fun g => { g with dsr := .fault }).setFlag .gdlFault k 5
  let s := s.logFlag 11 5 (s.reg .gdlFault k)
  if s.ops.st = OpState.armed ∨ s.ops.st = OpState.running then s.latch k 8 j 0 else s

/-- A node's third bad word in a row faults the ring. -/
def State.thirdJudged (s : State) (k : Nat) (nodes : List Nat) : State :=
  match nodes.filter fun j => vget (s.gs k).badRun j 0 = 3 with
  | [] => s
  | j :: _ => s.ringFault k j

section
variable (s : State) {k : Nat} (hk : k < 16)
include hk

theorem ringFault_effect (j : Nat) : ((s.ringFault k j).gs k).dsr = .fault ∧ ((s.ringFault k j).gs k).badRun = (s.gs k).badRun ∧
    ((s.ringFault k j).gs k).goodRun = (s.gs k).goodRun ∧ (s.ringFault k j).live = s.live := by
  have hmod : ((s.modGs k fun g => { g with dsr := .fault }).gs k) = { s.gs k with dsr := .fault } := State.gs_modGs_same _ _ _ hk
  have hflag : Only [.regs, .log] (s.modGs k fun g => { g with dsr := .fault })
      (((s.modGs k fun g => { g with dsr := .fault }).setFlag .gdlFault k 5).logFlag 11 5
        (((s.modGs k fun g => { g with dsr := .fault }).setFlag .gdlFault k 5).reg .gdlFault k)) :=
    only_logFlag _ 11 5 _ (only_setFlag _ _ _ (Only.refl _ _) (by decide)) (by decide) (by decide)
  have hlive : (s.modGs k fun g => { g with dsr := .fault }).live = s.live := rfl
  have hlatch (u : State) : SameRuns u (u.latch k 8 j 0) := (latch_trips (s := u) hk (by decide) j 0).1.runs
    (only_latch u k 8 j 0 (Only.refl [.free, .regs, .pwm, .gdl, .trp, .nt, .log, .acq, .twn] u) (by decide) (by decide) (by decide) (by decide)
      (by decide) (by decide) (by decide) (by decide) (by decide)).keeps_live
  unfold State.ringFault
  dsimp only
  generalize s.modGs k (fun g => { g with dsr := .fault }) = v at *
  have hgs := gs_of_gdl hflag.keeps_gdl k
  have hl := hflag.keeps_live
  generalize (v.setFlag .gdlFault k 5).logFlag 11 5 ((v.setFlag .gdlFault k 5).reg .gdlFault k) = u at *
  obtain ⟨hruns, hlive'⟩ := runs_ite (c := u.ops.st = OpState.armed ∨ u.ops.st = OpState.running) (hlatch u) (.refl u)
  obtain ⟨hbad, hgood, hdsr, -⟩ := hruns k
  rw [hbad, hgood, hdsr, hgs, hmod]
  exact ⟨rfl, rfl, rfl, hlive'.trans (hl.trans hlive)⟩

theorem thirdJudged_runs (nodes : List Nat) : ((s.thirdJudged k nodes).gs k).badRun = (s.gs k).badRun ∧
    ((s.thirdJudged k nodes).gs k).goodRun = (s.gs k).goodRun ∧ (s.thirdJudged k nodes).live = s.live := by
  unfold State.thirdJudged
  split
  · exact ⟨rfl, rfl, rfl⟩
  · exact (ringFault_effect s hk _).2

/-- R206: the third bad word in a row puts the ring in fault. -/
theorem thirdJudged_fault {nodes : List Nat} {j : Nat} (hj : j ∈ nodes) (hbad : vget (s.gs k).badRun j 0 = 3) :
    ((s.thirdJudged k nodes).gs k).dsr = .fault := by
  have hmem : j ∈ nodes.filter fun j => vget (s.gs k).badRun j 0 = 3 := List.mem_filter.mpr ⟨hj, decide_eq_true hbad⟩
  unfold State.thirdJudged
  split
  · next hnil => exact absurd (hnil ▸ hmem) List.not_mem_nil
  · exact (ringFault_effect s hk _).1

end

/-- The state of a ring after the words of a cycle. -/
def State.ringJudged (s : State) (k : Nat) (nodes : List Nat) : State :=
  let allGood := nodes.all fun j => decide (3 ≤ vget (s.gs k).goodRun j 0)
  s.modGs k fun g => { g with
    dsr := match g.dsr with | .off => .ok | .fault => if allGood then .ok else .fault | .ok => .ok }

/-- A cycle of a stack whose test may still run: in a test it ends at its instant. -/
def State.cycleEnded (s : State) (k : Nat) : State :=
  let s := s.ostGuard k
  if (s.gs k).ost = .running then s.advanceTo ((s.gs k).ostAt + 1280000 * ((s.gs k).ostCycle + 1)) else s

/-- A cycle as far as the words of the nodes have been taken. -/
def State.ringRead (s : State) (k : Nat) (words : List Word) : State := (s.cycleEnded k).ringWordsTaken k words

/-- A cycle as far as the ring has been judged. -/
def State.ringDone (s : State) (k : Nat) (words : List Word) : State :=
  ((s.ringRead k words).thirdJudged k (List.range (s.nodes k))).ringJudged k (List.range (s.nodes k))

/-- A cycle as far as a test of the stack has taken it. -/
def State.ringTested (s : State) (k : Nat) (words : List Word) : State :=
  if ((s.ostGuard k).gs k).ost = .running then (s.ringDone k words).ostRingCycle k words else (s.ringDone k words).ostTailEnd k

theorem nodes_congr {s t : State} (h : t.live = s.live) (k : Nat) : t.nodes k = s.nodes k := by
  unfold State.nodes State.lv
  rw [h]

section
variable (s : State) {k : Nat} (hk : k < 16) (words : List Word)
include hk

theorem cycleEnded_effect : SameRuns s (s.cycleEnded k) ∧ (s.cycleEnded k).gs k = (s.ostGuard k).gs k ∧
    (s.cycleEnded k).trp = (s.ostGuard k).trp := by
  have hguard := ostGuard_runs s hk
  unfold State.cycleEnded
  dsimp only
  split
  · have honly := only_advanceTo_time (s.ostGuard k) (((s.ostGuard k).gs k).ostAt + 1280000 * (((s.ostGuard k).gs k).ostCycle + 1))
    exact ⟨runs_of_gdl hguard honly.keeps_gdl honly.keeps_live, gs_advanceTo _ _ _, honly.keeps_trp⟩
  · exact ⟨hguard, rfl, rfl⟩

theorem ringCycle_eq : s.ringCycle k words = ((s.ringTested k words).ringForClear k).ringNext k
    (((s.ostGuard k).gs k).ost = .running && (((s.ringTested k words).gs k).ost != .running)) := by
  have hnodes : (s.cycleEnded k).nodes k = s.nodes k := nodes_congr (cycleEnded_effect s hk).1.2 k
  unfold State.ringTested State.ringDone
  rw [← hnodes]
  rfl

theorem ringRead_live : (s.ringRead k words).live = s.live :=
  (ringWordsTaken_live _ hk words).trans (cycleEnded_effect s hk).1.2

theorem ringRead_runs {j : Nat} (hj : j < 12) (hnode : j < s.nodes k) : RunsAfter words j (s.gs k) ((s.ringRead k words).gs k) := by
  obtain ⟨⟨hruns, hlive⟩, -⟩ := cycleEnded_effect s hk
  obtain ⟨hbad, hgood, -⟩ := hruns k
  have h := ringWordsTaken_runs (s.cycleEnded k) hk words hj (nodes_congr hlive k ▸ hnode)
  unfold RunsAfter at *
  rw [← hbad, ← hgood]
  exact h

theorem ringDone_effect : ((s.ringDone k words).gs k).badRun = ((s.ringRead k words).gs k).badRun ∧
    ((s.ringDone k words).gs k).goodRun = ((s.ringRead k words).gs k).goodRun ∧ (s.ringDone k words).live = s.live := by
  obtain ⟨hbad, hgood, hlive⟩ := thirdJudged_runs (s.ringRead k words) hk (List.range (s.nodes k))
  have hgs := State.gs_modGs_same ((s.ringRead k words).thirdJudged k (List.range (s.nodes k))) k
  refine ⟨?_, ?_, hlive.trans (ringRead_live s hk words)⟩
  · rw [State.ringDone, State.ringJudged, hgs _ hk, hbad]
  · rw [State.ringDone, State.ringJudged, hgs _ hk, hgood]

theorem ringTested_runs : SameRuns (s.ringDone k words) (s.ringTested k words) :=
  runs_ite (ostRingCycle_runs _ hk words) (ostTailEnd_runs _ hk)

theorem ringCycle_runs : SameRuns (s.ringDone k words) (s.ringCycle k words) := by
  have hclear : SameRuns (s.ringTested k words) ((s.ringTested k words).ringForClear k) := ⟨fun _ => ⟨rfl, rfl, rfl, rfl⟩, rfl⟩
  rw [ringCycle_eq s hk]
  exact (ringTested_runs s hk words).trans (hclear.trans (ringNext_runs _ _ _))

theorem ringCycle_runsAfter {j : Nat} (hj : j < 12) (hnode : j < s.nodes k) : RunsAfter words j (s.gs k) ((s.ringCycle k words).gs k) := by
  obtain ⟨hbad, hgood, -⟩ := (ringCycle_runs s hk words).1 k
  obtain ⟨hbad', hgood', -⟩ := ringDone_effect s hk words
  have h := ringRead_runs s hk words hj hnode
  unfold RunsAfter at *
  rw [hbad, hgood, hbad', hgood']
  exact h

theorem ringCycle_fault {j : Nat} (hj : j < 12) (hnode : j < s.nodes k) (htwo : vget (s.gs k).badRun j 0 = 2)
    (hword : wordGood words j = false) : ((s.ringCycle k words).gs k).dsr = .fault := by
  obtain ⟨hthree, hzero⟩ := ringRead_runs s hk words hj hnode
  rw [hword, htwo] at hthree
  rw [hword] at hzero
  have hmem : j ∈ List.range (s.nodes k) := List.mem_range.mpr hnode
  have hdsr := thirdJudged_fault (s.ringRead k words) hk hmem hthree
  obtain ⟨-, hgood, -⟩ := thirdJudged_runs (s.ringRead k words) hk (List.range (s.nodes k))
  have hall : ((List.range (s.nodes k)).all fun j =>
      decide (3 ≤ vget (((s.ringRead k words).thirdJudged k (List.range (s.nodes k))).gs k).goodRun j 0)) = false :=
    Bool.eq_false_iff.mpr fun h => by
      have := of_decide_eq_true (List.all_eq_true.mp h j hmem)
      rw [hgood, hzero] at this
      simp at this
  have hdone : ((s.ringDone k words).gs k).dsr = .fault := by
    rw [State.ringDone, State.ringJudged, State.gs_modGs_same _ _ _ hk]
    dsimp only
    rw [hdsr, hall]
    rfl
  exact ((ringCycle_runs s hk words).1 k).2.2.1.trans hdone

end

end Sys2Proof.Machine
end

section
/-! The command words of a ring in which no test runs and no clear waits (R203, R206), and the statement about gate feedback and ring words. -/

-- The proofs are elaborated one after the other: this bounds the threads of the compiler, whose stacks count as its memory.
set_option Elab.async false

namespace Sys2Proof.Machine

/-- No test starts or ends, and the clear requests that wait stand. -/
def Calm (s t : State) : Prop := (∀ k, (t.gs k).ost = .running ↔ (s.gs k).ost = .running) ∧ t.trp.clear = s.trp.clear

section
variable {s0 s t : State}

theorem Calm.refl (s : State) : Calm s s := ⟨fun _ => .rfl, rfl⟩

theorem Calm.trans (h : Calm s0 s) (h' : Calm s t) : Calm s0 t := ⟨fun k => (h'.1 k).trans (h.1 k), h'.2.trans h.2⟩

theorem TripsOnly.calm (h : TripsOnly s t) : Calm s t := by
  obtain ⟨z, r, n, st, htrp⟩ := h.trp
  exact ⟨fun k => (h.gs k).running, by rw [htrp]⟩

theorem calm_ite {c : Prop} [Decidable c] (hs : Calm s0 s) (ht : Calm s0 t) : Calm s0 (if c then s else t) := holds_ite hs ht

theorem calm_of_only {l : List Part} (h : Only l s t) (hl : ∀ p ∈ [Part.trp, .gdl], p ∉ l := by decide) : Calm s t :=
  ⟨fun k => by rw [gs_of_gdl (h.keeps_gdl (hl _ (by decide)))], by rw [h.keeps_trp (hl _ (by decide))]⟩

theorem calm_modGs (s : State) (k : Nat) (f : GdlStack → GdlStack) (hf : ∀ g : GdlStack, (f g).ost = g.ost) : Calm s (s.modGs k f) := by
  refine ⟨fun j => ?_, rfl⟩
  by_cases hj : j = k
  · subst hj
    by_cases hlt : j < 16
    · rw [State.gs_modGs_same _ _ _ hlt, hf]
    · have hsame : (s.modGs j f).gs j = s.gs j := by simp [State.gs, State.modGs, vget, vset, hlt]
      rw [hsame]
  · rw [State.gs_modGs_other _ _ _ _ hj]

variable {k : Nat} (hk : k < 16)
include hk

theorem gdlTrip_calm (s : State) {cause : Nat} (hc : cause < 16) (bit source phase : Nat) : Calm s (s.gdlTrip k bit cause source phase) :=
  (gdlTrip_trips hk hc bit source phase).1.calm

theorem drvGood_calm (s : State) (j : Nat) (old w : Word) : Calm s (s.drvGood k j old w) := by
  have hnodes (x : GdlStack → BitVec 12) : Calm s (s.modGs k fun g => { g with hardNodes := x g }) := calm_modGs s k _ fun _ => rfl
  have hsoft (u : State) : Calm u ((u.count .gdlSoftCnt k).note 11 3 (12 * k + j) (leBytes 4 w.toNat)) :=
    calm_of_only (l := [.regs, .log]) (only_note _ 11 3 _ _ (only_count .gdlSoftCnt k 1 (Only.refl _ u) (by decide)) (by decide) (by decide))
  have hhard (u : State) (hu : Calm s u) : Calm s (if drvHard w then u.gdlTrip k 1 4 j 0 else u) :=
    calm_ite (hu.trans (gdlTrip_calm hk u (by decide) _ _ _)) hu
  unfold State.drvGood
  exact hhard _ (calm_ite ((hnodes _).trans (hsoft _)) (hnodes _))

theorem nodeWord_calm (s : State) (j : Nat) (words : List Word) : Calm s (s.nodeWord k j words[j]?) := by
  have hcounted : Calm s (s.wordCounted k j (wordGood words j)) := calm_modGs s k _ fun _ => rfl
  have hword (u : State) (w : Word) : Calm u (u.drvWord k j w) := by
    have hset : Calm u (u.setRegN .gdlDrv (12 * k + j) 0 w.toNat) := ⟨fun _ => .rfl, rfl⟩
    have hgood : Calm u ((u.setRegN .gdlDrv (12 * k + j) 0 w.toNat).modGs k fun g => { g with good := vset g.good j w }) :=
      hset.trans (calm_modGs _ k _ fun _ => rfl)
    exact calm_ite (hgood.trans (drvGood_calm hk _ _ _ _)) hset
  rw [nodeWord_eq]
  cases words[j]? with
  | none => exact hcounted
  | some w => exact hcounted.trans (hword _ w)

theorem ringFault_calm (s : State) (j : Nat) : Calm s (s.ringFault k j) := by
  have hmod : Calm s (s.modGs k fun g => { g with dsr := .fault }) := calm_modGs s k _ fun _ => rfl
  have hlatch (u : State) : Calm u (u.latch k 8 j 0) := (latch_trips (s := u) hk (by decide) j 0).1.calm
  unfold State.ringFault
  dsimp only
  generalize s.modGs k (fun g => { g with dsr := .fault }) = v at *
  have hflag : Calm v ((v.setFlag .gdlFault k 5).logFlag 11 5 ((v.setFlag .gdlFault k 5).reg .gdlFault k)) :=
    calm_of_only (l := [.regs, .log]) (only_logFlag _ 11 5 _ (only_setFlag _ _ _ (Only.refl _ v) (by decide)) (by decide) (by decide))
  exact calm_ite ((hmod.trans hflag).trans (hlatch _)) (hmod.trans hflag)

theorem ringDone_calm (s : State) (words : List Word) : Calm (s.cycleEnded k) (s.ringDone k words) := by
  have hread : Calm (s.cycleEnded k) (s.ringRead k words) :=
    holds_forNums (P := Calm (s.cycleEnded k)) _ (fun j _ u hu => hu.trans (nodeWord_calm hk u j words)) (.refl _)
  have hthird (u : State) (nodes : List Nat) : Calm u (u.thirdJudged k nodes) := by
    unfold State.thirdJudged
    split
    · exact .refl u
    · exact ringFault_calm hk u _
  exact hread.trans ((hthird _ _).trans (calm_modGs _ k _ fun _ => rfl))

end

/-- The POLL words of a ring, the last node first. -/
def State.pollWords (s : State) (k : Nat) : List Word := (List.range (s.nodes k)).reverse.map fun j => ringWord j 0 (s.lv .gdlStkCfg k 0 21 16)

theorem ringNext_polls (s : State) {k : Nat} (hk : k < 16) (hrun : (s.gs k).ost ≠ .running) (hclear : s.trp.clear = []) :
    ((s.ringNext k false).gs k).ringCmd = s.pollWords k := by
  unfold State.ringNext State.pollWords
  simp only [Bool.false_eq_true, if_false, if_neg hrun, hclear, List.any_nil, Bool.and_false]
  rw [State.gs_modGs_same _ _ _ hk]

/-- R203: the next cycle shifts out POLL to each node, the last node first. -/
theorem ringCycle_polls (s : State) {k : Nat} (hk : k < 16) (words : List Word) (hrun : (s.gs k).ost ≠ .running) (hclear : s.trp.clear = []) :
    ((s.ringCycle k words).gs k).ringCmd = s.pollWords k := by
  have hguard : s.ostGuard k = s := by
    have habort : s.ostAbort k = s := if_neg hrun
    rw [State.ostGuard, habort, ite_self]
  have hcycle : s.cycleEnded k = s := by
    rw [State.cycleEnded, hguard]
    exact if_neg hrun
  have hdone := ringDone_calm hk s words
  have htail : Calm (s.ringDone k words) ((s.ringDone k words).ostTailEnd k) := by
    have hmod : Calm (s.ringDone k words) ((s.ringDone k words).modGs k fun g => { g with ostTail := false }) := calm_modGs _ k _ fun _ => rfl
    exact calm_ite (hmod.trans (calm_ite (gdlTrip_calm hk _ (by decide) _ _ _) (.refl _))) (.refl _)
  have htested : s.ringTested k words = (s.ringDone k words).ostTailEnd k := by
    rw [State.ringTested, hguard]
    exact if_neg hrun
  have hlive : ((s.ringTested k words).ringForClear k).live = s.live :=
    (ringTested_runs s hk words).2.trans (ringDone_effect s hk words).2.2
  rw [hcycle] at hdone
  rw [← htested] at htail
  obtain ⟨host, hclear'⟩ := hdone.trans htail
  have hclear'' : ((s.ringTested k words).ringForClear k).trp.clear = [] := by
    have hmap : ((s.ringTested k words).ringForClear k).trp.clear = (s.ringTested k words).trp.clear.map fun r =>
      { r with rings := r.rings.map fun x => if x.1 = k then (k, x.2.map (· - 1)) else x } := rfl
    rw [hmap, hclear', hclear]
    rfl
  have hrun' : (((s.ringTested k words).ringForClear k).gs k).ost ≠ .running := fun h => hrun ((host k).mp h)
  rw [ringCycle_eq s hk, hguard, decide_eq_false hrun, Bool.false_and, ringNext_polls _ hk hrun' hclear'']
  unfold State.pollWords State.nodes State.lv
  rw [hlive]

theorem execDsrRingCycle_cycles {k : Fin 8} {words : List Word} {s : State} (hmode : s.linkMode = false) (hconf : s.configured k = true)
    (hnodes : 0 < s.nodes k) : execDsrRingCycle k words s = .next (s.ringCycle k words) := if_pos (by simp [hmode, hconf, hnodes])

/-- Settles O35. -/
theorem gateFeedbackAndRingWords : Obligations.GateFeedbackAndRingWords := by
  unfold Obligations.GateFeedbackAndRingWords
  refine ⟨?ga, ?ackTrips, ?ackCounts, ?mismatch, ?gcDiffers, ?gcAgrees, ?fltLow, ?fltHigh, ?links, ?runs, ?third, ?polls, ?none⟩
  case ga =>
    intro n level s hmode
    refine ⟨_, execGaConfirm_accepts hmode level, ?_⟩
    have hn : n.val < 192 := by omega
    have htime := only_advanceTo_time s ((s.chan n).gcAt + s.gaFilt)
    have hadv : Only [.now, .nt] s
        (if (level == (s.chan n).gc && (s.chan n).ackDue.isSome) = true then s.advanceTo ((s.chan n).gcAt + s.gaFilt) else s) :=
      only_ite htime (Only.refl _ s)
    have hafter : level = (s.chan n).gc → (s.chan n).ackDue.isSome = true → (s.chan n).gcAt + s.gaFilt ≤
        (if (level == (s.chan n).gc && (s.chan n).ackDue.isSome) = true then s.advanceTo ((s.chan n).gcAt + s.gaFilt) else s).now := by
      intro hlevel hdue
      rw [if_pos (by rw [hdue, hlevel]; simp)]
      exact le_now_advanceTo s _
    have hnow : level ≠ (s.chan n).gc →
        (if (level == (s.chan n).gc && (s.chan n).ackDue.isSome) = true then s.advanceTo ((s.chan n).gcAt + s.gaFilt) else s).now = s.now :=
      fun hne => by rw [if_neg (by simp [hne])]
    generalize (if (level == (s.chan n).gc && (s.chan n).ackDue.isSome) = true then s.advanceTo ((s.chan n).gcAt + s.gaFilt) else s) = u at *
    have hchan (j : Nat) : u.chan j = s.chan j := by rw [State.chan, hadv.keeps_pwm]; rfl
    have hkept : (u.gaAccept n level).now = u.now :=
      (only_gaAccept u n level (Only.refl [.pwm, .gdl] u) (by decide) (by decide)).keeps_now
    beta_reduce
    rw [gaAccept_chan u hn, hkept, hchan]
    refine ⟨rfl, ?_, ?_, hafter, fun hne hdue => ?_, fun hlow hgc hout hseq hoff => ?_⟩
    · unfold Chan.gaRead
      cases level <;> cases (s.chan n).gc <;> simp
    · unfold Chan.gaRead
      simp
    · unfold Chan.gaRead
      simp [hne, hdue, hnow hne]
    · subst hlow
      refine gaAccept_partner u hn (by rwa [hchan]) (by rwa [hchan]) (by rwa [hchan]) ?_
      unfold State.stage6Off State.zone at *
      rwa [hadv.keeps_trp, hadv.keeps_saf]
  case ackTrips =>
    intro n t0 s hdue hcauses hl
    have hn : n.val < 192 := by omega
    have hlevels := levels_advanceTo s t0
    have hnow := le_now_advanceTo s t0
    refine ⟨_, execAckTimeout_due hdue, ?_⟩
    generalize s.advanceTo t0 = u at *
    have hcounted := levels_ackCounted u t0 hn
    have htripped := hcounted.tripped (k := n / 12) (c := 5) (by omega) (by decide) 2 (n % 12) (n % 12 / 4) ((hlevels.latches _ _).trans hl)
    have hzero : ((u.ackCounted n t0).zone (n / 12)).causes = 0 := by
      rw [zone_ackCounted, State.zone, hlevels.1]
      exact hcauses
    rw [ackLate_eq, if_pos hzero]
    refine ⟨?_, htripped.of_before (by rw [hlevels.1])⟩
    rw [now_gdlTrip]
    exact hnow
  case ackCounts =>
    intro n t0 s hs hdue hcauses
    have hn : n.val < 192 := by omega
    have hlevels := levels_advanceTo s t0
    have hnow := le_now_advanceTo s t0
    have honly := only_advanceTo_time s t0
    have hus : (s.advanceTo t0).storesCanonical := storesCanonical_of_only honly hs
    refine ⟨_, execAckTimeout_due hdue, ?_⟩
    generalize s.advanceTo t0 = u at *
    obtain ⟨htrp, hlost, hchan⟩ := ackCounted_effect u t0 hn
    have hcount := ackCounted_counter hus n t0
    have hne : ((u.ackCounted n t0).zone (n / 12)).causes ≠ 0 := by
      rw [zone_ackCounted, State.zone, hlevels.1]
      exact hcauses
    have hsame : u.chan n = s.chan n := by rw [State.chan, honly.keeps_pwm]; rfl
    have hmode : u.linkMode = s.linkMode := by unfold State.linkMode State.lv; rw [honly.keeps_live]
    rw [hsame, hmode] at hchan
    rw [ackLate_eq, if_neg hne]
    refine ⟨hnow, htrp.trans honly.keeps_trp, hchan, hlost, hcount.trans ?_⟩
    rw [State.reg, State.reg, honly.keeps_regs]
  case mismatch =>
    intro n t0 s hmode hdiff hl
    have hlevels := levels_advanceTo s (t0 + s.ackTo + 1)
    have hnow := le_now_advanceTo s (t0 + s.ackTo + 1)
    refine ⟨_, execAckMismatch_differs hmode hdiff, ?_, hlevels.tripped (by omega) (by decide) _ _ _ hl⟩
    rw [now_gdlTrip]
    exact hnow
  case gcDiffers =>
    intro n s hmode
    have hlevels : Levels s (s.modChan n fun c => { c with gcDiff := true }) := levels_modChan s n _
    refine ⟨_, (execGcFault_judged hmode true).trans (if_pos rfl), ?_, fun hl => hlevels.tripped (by omega) (by decide) _ _ _ hl⟩
    rw [readback_gdlTrip (.refl _), modChan_chan (by omega)]
  case gcAgrees =>
    intro n s hmode
    refine ⟨_, (execGcFault_judged hmode false).trans (if_neg (by decide)), ?_, rfl⟩
    rw [modChan_chan (by omega)]
  case fltLow =>
    intro k s hmode
    have hk : k.val < 16 := by omega
    have hlevels : Levels s (s.modGs k fun g => { g with fltLow := true }) := levels_modGs s hk _ fun _ => rfl
    refine ⟨_, (execFltTrip_judged hmode true).trans (if_pos rfl), ?_, fun hl => hlevels.tripped hk (by decide) _ _ _ hl⟩
    have htrips := (gdlTrip_trips (s := s.modGs k fun g => { g with fltLow := true }) hk (cause := 3) (by decide) 0 0 0).1.gs k
    rw [State.gs_modGs_same _ _ _ hk] at htrips
    obtain ⟨-, o, m, st, ln, heq⟩ := htrips
    rw [heq]
  case fltHigh =>
    intro k s hmode
    refine ⟨_, (execFltTrip_judged hmode false).trans (if_neg (by decide)), ?_, rfl⟩
    rw [State.gs_modGs_same _ _ _ (by omega)]
  case links =>
    intro i n k b s hi hmode
    simp only [List.mem_cons, List.not_mem_nil, or_false] at hi
    rcases hi with rfl | rfl | rfl | rfl
    · exact if_pos hmode
    · have h : execAckMismatch n s = .next s := by
        unfold execAckMismatch
        split
        · exact if_pos hmode
        · rfl
      exact h
    · exact if_pos hmode
    · exact if_pos hmode
  case runs =>
    intro k words s hmode hconf hnodes
    exact ⟨_, execDsrRingCycle_cycles hmode hconf hnodes, fun j hj hnode => ringCycle_runsAfter s (by omega) words hj hnode⟩
  case third =>
    intro k words j s hmode hconf hj hnode htwo hword
    exact ⟨_, execDsrRingCycle_cycles hmode hconf (by omega), ringCycle_fault s (by omega) words hj hnode htwo hword⟩
  case polls =>
    intro k words s hmode hconf hnodes hrun hclear
    exact ⟨_, execDsrRingCycle_cycles hmode hconf hnodes, ringCycle_polls s (by omega) words hrun hclear⟩
  case none =>
    intro n s hdiff
    have h : execAckMismatch n s = .next s := by
      unfold execAckMismatch
      rw [hdiff]
    exact h

end Sys2Proof.Machine
end

section
/-! The judgement of clear requests (R237, R238). -/

-- The proofs are elaborated one after the other: this bounds the threads of the compiler, whose stacks count as its memory.
set_option Elab.async false

namespace Sys2Proof.Machine

/-! ### Zones that clear -/

/-- What a clear makes of the zones of the stacks that it clears. -/
def State.zoneCleared (s : State) (k : Nat) (z : Zone) : Zone :=
  let tripped := (s.zone k).causes ≠ 0
  let runs := (s.tb k).run = .running
  let eng := match s.engineOf k with | some e => s.executes e | none => false
  { z with
    causes := 0, props := 0, sources := [], resumeB := if tripped then runs && eng else z.resumeB
    resumeZ := if tripped then (if runs && !eng then some s.now else none) else z.resumeZ }

theorem clearZone_guarded (s : State) (k : Nat) : s.clearZone k = (s.modZone k (s.zoneCleared k)).ostGuard k := rfl

/-- No test runs on the stacks of a mask. -/
def State.untested (s : State) (mask : Nat) : Prop := ∀ k < 16, mask.testBit k = true → (s.gs k).ost ≠ .running

theorem clearZone_untested {s : State} {k : Nat} (h : (s.gs k).ost ≠ .running) : s.clearZone k = s.modZone k (s.zoneCleared k) := by
  have habort : (s.modZone k (s.zoneCleared k)).ostAbort k = s.modZone k (s.zoneCleared k) := if_neg h
  rw [clearZone_guarded, State.ostGuard, habort, ite_self]

section
variable (s : State) {mask : Nat} (hfree : s.untested mask) (ok : Nat)

/-- The stacks of a mask clear. -/
def State.zonesCleared (s : State) (mask ok : Nat) : State := forNums (bitsIn 16 (mask &&& ok)) (fun k s => s.clearZone k) s

/-- The stacks of a mask that do not clear are counted. -/
def State.refusalsCounted (s : State) (mask ok : Nat) : State :=
  forNums ((bitsIn 16 mask).filter fun k => !ok.testBit k) (fun k s => s.count .trpClrRefCnt k) s

theorem applyClear_eq : s.applyClear mask ok = (s.zonesCleared mask ok).refusalsCounted mask ok := rfl

theorem refusalsCounted_effect : Only [.regs] s (s.refusalsCounted mask ok) ∧ DeskRegs s (s.refusalsCounted mask ok) :=
  ⟨holds_forNums (P := Only [.regs] s) _ (fun _ _ _ hu => only_count _ _ _ hu (by decide)) (Only.refl _ s),
    kept_forNums _ _ (fun k _ hu => kept_count _ _ _ hu (not_onDesk_of_base (by decide) _ _)) (.refl s)⟩

include hfree

theorem zonesCleared_step {k : Nat} (hk : k ∈ bitsIn 16 (mask &&& ok)) {u : State} (hu : Only [.trp] s u) :
    u.clearZone k = u.modZone k (u.zoneCleared k) := by
  obtain ⟨hlt, hbit⟩ := (mem_bitsIn 16 _ k).mp hk
  rw [Nat.testBit_and, Bool.and_eq_true] at hbit
  refine clearZone_untested ?_
  rw [gs_of_gdl hu.keeps_gdl]
  exact hfree k hlt hbit.1

theorem zonesCleared_only : Only [.trp] s (s.zonesCleared mask ok) ∧ (s.zonesCleared mask ok).trp.clear = s.trp.clear := by
  refine holds_forNums (P := fun u => Only [.trp] s u ∧ u.trp.clear = s.trp.clear) _ (fun k hk u hu => ?_) ⟨Only.refl _ s, rfl⟩
  rw [zonesCleared_step s hfree ok hk hu.1]
  exact ⟨only_modZone k _ hu.1 (by decide), hu.2⟩

theorem zonesCleared_zone {k : Nat} (hk : k < 16) :
    (mask.testBit k = true → ok.testBit k = true → ((s.zonesCleared mask ok).zone k).causes = 0) ∧
    (mask.testBit k = false ∨ ok.testBit k = false → (s.zonesCleared mask ok).zone k = s.zone k) := by
  refine ⟨fun hmask hok => ?_, fun h => ?_⟩
  · have hmem : k ∈ bitsIn 16 (mask &&& ok) := (mem_bitsIn 16 _ k).mpr ⟨hk, by rw [Nat.testBit_and, hmask, hok]; rfl⟩
    have hstep (i : Nat) (hi : i ∈ bitsIn 16 (mask &&& ok)) (u : State) (hu : Only [.trp] s u) : Only [.trp] s (u.clearZone i) := by
      rw [zonesCleared_step s hfree ok hi hu]
      exact only_modZone i _ hu (by decide)
    have hmade : Only [.trp] s (s.zonesCleared mask ok) ∧ ((s.zonesCleared mask ok).zone k).causes = 0 := by
      refine forNums_makes (P := fun u => Only [.trp] s u ∧ (u.zone k).causes = 0) (Q := fun u => Only [.trp] s u) hmem (fun u hu => ?make)
        (fun i hi u hu => hstep i hi u hu) (fun i hi u hu => ?keep) (Only.refl _ s)
      case make =>
        refine ⟨hstep k hmem u hu, ?_⟩
        rw [zonesCleared_step s hfree ok hmem hu, State.zone_modZone_same _ _ _ hk]
        rfl
      case keep =>
        refine ⟨hstep i hi u hu.1, ?_⟩
        rw [zonesCleared_step s hfree ok hi hu.1]
        by_cases hik : i = k
        · subst hik
          rw [State.zone_modZone_same _ _ _ hk]
          rfl
        · rw [State.zone_modZone_other _ _ _ _ (Ne.symm hik)]
          exact hu.2
    exact hmade.2
  · refine (holds_forNums (P := fun u => Only [.trp] s u ∧ u.zone k = s.zone k) _ (fun i hi u hu => ?_) ⟨Only.refl _ s, rfl⟩).2
    have hne : k ≠ i := fun heq => by
      have hbit := ((mem_bitsIn 16 _ i).mp hi).2
      rw [← heq, Nat.testBit_and] at hbit
      rcases h with h | h
      · simp [h] at hbit
      · simp [h] at hbit
    rw [zonesCleared_step s hfree ok hi hu.1]
    exact ⟨only_modZone i _ hu.1 (by decide), (State.zone_modZone_other _ _ _ _ hne).trans hu.2⟩

end

/-! ### The end of a request -/

/-- A request is taken off the list. -/
def State.requestGone (s : State) (src : Src) : State := { s with trp := { s.trp with clear := s.trp.clear.filter fun r => !(r.src == src) } }

theorem only_requestGone (s : State) (src : Src) : Only [.trp] s (s.requestGone src) := by
  simp +decide only [State.requestGone, only_mk, Only.refl, or_true, true_or]

/-- The marks of the stacks of a mask say whether a request stands for them. -/
def State.pendsMarked (s : State) (mask : Nat) : State :=
  forNums (bitsIn 16 mask) (fun k s => s.modZone k fun z => { z with clearPend := s.trp.clear.any fun r => r.mask.getLsbD k }) s

theorem endClear_eq (s : State) (src : Src) (mask : Nat) : s.endClear src mask = (s.requestGone src).pendsMarked mask := rfl

theorem pendsMarked_effect (s : State) (mask : Nat) : Only [.trp] s (s.pendsMarked mask) ∧ (s.pendsMarked mask).trp.clear = s.trp.clear ∧
    ∀ k < 16, (s.pendsMarked mask).zone k =
      if mask.testBit k then { s.zone k with clearPend := s.trp.clear.any fun r => r.mask.getLsbD k } else s.zone k := by
  refine ⟨holds_forNums (P := Only [.trp] s) _ (fun _ _ _ hu => only_modZone _ _ hu (by decide)) (Only.refl _ s),
    holds_forNums (P := fun u => u.trp.clear = s.trp.clear) _ (fun _ _ _ hu => hu) rfl, fun k hk => ?_⟩
  cases hbit : mask.testBit k with
  | true =>
    refine forNums_once (P := fun u => u.zone k = s.zone k ∧ u.trp.clear = s.trp.clear)
      (Q := fun u => u.zone k = { s.zone k with clearPend := s.trp.clear.any fun r => r.mask.getLsbD k })
      (fun i _ hi u hu => ⟨(State.zone_modZone_other _ _ _ _ (Ne.symm hi)).trans hu.1, hu.2⟩) (fun u hu => ?_)
      (fun i _ hi u hu => (State.zone_modZone_other _ _ _ _ (Ne.symm hi)).trans hu) (nodup_bitsIn 16 mask)
      ((mem_bitsIn 16 _ k).mpr ⟨hk, hbit⟩) ⟨rfl, rfl⟩
    rw [State.zone_modZone_same _ _ _ hk, hu.1, hu.2]
  | false =>
    refine holds_forNums (P := fun u => u.zone k = s.zone k) _ (fun i hi u hu => (State.zone_modZone_other _ _ _ _ ?_).trans hu) rfl
    rintro rfl
    simp [((mem_bitsIn 16 _ k).mp hi).2] at hbit

/-- A request of the list has been judged, before its completion. -/
def State.requestJudged (s : State) (src : Src) (mask ok : Nat) : State := (s.applyClear mask ok).endClear src mask

section
variable (s : State) {mask : Nat} (hfree : s.untested mask) (src : Src) (ok : Nat)
include hfree

theorem requestJudged_effect : Only [.trp, .regs] s (s.requestJudged src mask ok) ∧ DeskRegs s (s.requestJudged src mask ok) ∧
    (s.requestJudged src mask ok).trp.clear = s.trp.clear.filter fun r => !(r.src == src) := by
  obtain ⟨hzones, hclear⟩ := zonesCleared_only s hfree ok
  obtain ⟨hcount, hdesk⟩ := refusalsCounted_effect (s.zonesCleared mask ok) (mask := mask) ok
  have hgone := only_requestGone ((s.zonesCleared mask ok).refusalsCounted mask ok) src
  have hlist : (((s.zonesCleared mask ok).refusalsCounted mask ok).requestGone src).trp.clear = s.trp.clear.filter fun r => !(r.src == src) := by
    rw [State.requestGone, hcount.keeps_trp, hclear]
  obtain ⟨hpends, hclear', -⟩ := pendsMarked_effect (((s.zonesCleared mask ok).refusalsCounted mask ok).requestGone src) mask
  have hdesk' : DeskRegs s (((s.zonesCleared mask ok).refusalsCounted mask ok).requestGone src) := by
    exact kept_of_only hgone ((kept_of_only hzones (.refl s)).trans hdesk)
  rw [State.requestJudged, applyClear_eq, endClear_eq]
  refine ⟨?_, kept_of_only hpends hdesk', hclear'.trans hlist⟩
  have hboth : Only [.trp, .regs] s ((s.zonesCleared mask ok).refusalsCounted mask ok) := hzones.trans (hcount.mono (by decide)) (by decide)
  exact (hboth.trans (hgone.mono (by decide)) fun _ hp => hp).trans (hpends.mono (by decide)) fun _ hp => hp

theorem requestJudged_zone {k : Nat} (hk : k < 16) :
    (mask.testBit k = true → ((s.requestJudged src mask ok).zone k).causes = (if ok.testBit k then 0 else (s.zone k).causes) ∧
      ((s.requestJudged src mask ok).zone k).clearPend = (s.requestJudged src mask ok).trp.clear.any fun r => r.mask.getLsbD k) ∧
    (mask.testBit k = false → (s.requestJudged src mask ok).zone k = s.zone k) := by
  obtain ⟨hclears, hstays⟩ := zonesCleared_zone s hfree ok hk
  have hcount := (refusalsCounted_effect (s.zonesCleared mask ok) (mask := mask) ok).1
  have hzone : (((s.zonesCleared mask ok).refusalsCounted mask ok).requestGone src).zone k = (s.zonesCleared mask ok).zone k := by
    rw [State.zone, State.requestGone, hcount.keeps_trp]
    rfl
  obtain ⟨-, hclear, hmarked⟩ := pendsMarked_effect (((s.zonesCleared mask ok).refusalsCounted mask ok).requestGone src) mask
  have hmarked := hmarked k hk
  rw [State.requestJudged, applyClear_eq, endClear_eq, hmarked, hclear, hzone]
  refine ⟨fun hmask => ?_, fun hmask => ?_⟩
  · rw [if_pos hmask]
    refine ⟨?_, rfl⟩
    cases hok : ok.testBit k with
    | true => exact hclears hmask hok
    | false =>
      have h := congrArg Zone.causes (hstays (.inr hok))
      exact h
  · rw [if_neg (by simp [hmask])]
    exact hstays (.inl hmask)

end

/-- A request of a module without a twin is judged as the CTL cycle ends. -/
theorem evalClear_alone {s : State} (hpair : s.pair = false) (r : ClearReq) : s.evalClear r =
    ((s.advanceTo (ctlTick s.now + 1)).requestJudged r.src r.mask.toNat (s.cleared r.mask.toNat r.links)).finishClear r.src r.mask.toNat
      (s.cleared r.mask.toNat r.links) := by
  have hpair' : (s.advanceTo (ctlTick s.now + 1)).pair = false := (pair_congr (only_advanceTo_time s _).keeps_live).trans hpair
  unfold State.evalClear
  dsimp only
  rw [mirror_alone hpair', if_neg (by simp [State.jointly, hpair'])]
  rfl

/-- R237, R238: the judgement of a request where no test runs on its stacks. -/
theorem evalClear_judged {s : State} (hs : s.storesCanonical) (hpair : s.pair = false) (r : ClearReq) (hfree : s.untested r.mask.toNat) :
    ClearJudged r.src r.mask.toNat r.links s (s.evalClear r) ∧
    (s.evalClear r).trp.clear = s.trp.clear.filter (fun x => !(x.src == r.src)) := by
  have htime := only_advanceTo_time s (ctlTick s.now + 1)
  have hnow := now_advanceTo s (ctlTick s.now + 1)
  have hfree' : (s.advanceTo (ctlTick s.now + 1)).untested r.mask.toNat := fun k hk hbit => by
    rw [gs_advanceTo]
    exact hfree k hk hbit
  rw [evalClear_alone hpair]
  obtain ⟨honly, hdesk, hclear⟩ := requestJudged_effect _ hfree' r.src (s.cleared r.mask.toNat r.links)
  have hzones (k : Nat) (hk : k < 16) := requestJudged_zone _ hfree' r.src (s.cleared r.mask.toNat r.links) hk
  have hzone (k : Nat) : (s.advanceTo (ctlTick s.now + 1)).zone k = s.zone k := by rw [State.zone, htime.keeps_trp]; rfl
  simp only [hzone] at hzones
  rw [htime.keeps_trp] at hclear
  have hw : Only [.now, .nt, .trp, .regs] s
      ((s.advanceTo (ctlTick s.now + 1)).requestJudged r.src r.mask.toNat (s.cleared r.mask.toNat r.links)) :=
    (htime.mono (by decide)).trans (honly.mono (by decide)) fun _ hp => hp
  have hwnow := honly.keeps_now.trans hnow
  have hwdesk := (kept_of_only htime (.refl s)).trans hdesk
  generalize (s.advanceTo (ctlTick s.now + 1)).requestJudged r.src r.mask.toNat (s.cleared r.mask.toNat r.links) = w at *
  have hsame : SameDesk s w := .of_desk hw hwdesk (regsRise_of_storesCanonical hs)
  have hfin (st : Status) (d : Nat) (at_ : DWord) : (w.complete r.src 0x0602 st d at_).trp = w.trp ∧
      (w.complete r.src 0x0602 st d at_).now = w.now ∧ (w.complete r.src 0x0602 st d at_).nt = w.nt := by simp
  have hjudged (t : State) (htrp : t.trp = w.trp) (htnow : t.now = w.now)
      (hans : if s.refused r.mask.toNat r.links = 0 then Answered r.src 0x0602 .ok 0 t.nt64 s t
        else Answered r.src 0x0602 .clearRefused (s.refused r.mask.toNat r.links) 0 s t) : ClearJudged r.src r.mask.toNat r.links s t := by
    have htzone (k : Nat) : t.zone k = w.zone k := by rw [State.zone, htrp]; rfl
    refine ⟨fun k hk hbit => ?_, fun k hk hbit => ?_, htnow.trans hwnow, hans⟩
    · rw [htzone, htrp]
      exact (hzones k hk).1 hbit
    · rw [htzone]
      exact (hzones k hk).2 hbit
  by_cases hnone : s.refused r.mask.toNat r.links = 0
  · have heq : w.finishClear r.src r.mask.toNat (s.cleared r.mask.toNat r.links) = w.complete r.src 0x0602 .ok 0 w.nt64 := if_pos hnone
    obtain ⟨htrp, htnow, hnt⟩ := hfin .ok 0 w.nt64
    have hans := State.complete_answers r.src 0x0602 .ok 0 w.nt64 hs hsame
    rw [heq]
    refine ⟨hjudged _ htrp htnow ?_, by rw [htrp, hclear]⟩
    rw [if_pos hnone, nt64_of_nt hnt]
    exact hans
  · have heq : w.finishClear r.src r.mask.toNat (s.cleared r.mask.toNat r.links) =
        w.complete r.src 0x0602 .clearRefused (s.refused r.mask.toNat r.links) 0 := if_neg hnone
    obtain ⟨htrp, htnow, -⟩ := hfin .clearRefused (s.refused r.mask.toNat r.links) 0
    have hans := State.complete_answers r.src 0x0602 .clearRefused (s.refused r.mask.toNat r.links) 0 hs hsame
    rw [heq]
    refine ⟨hjudged _ htrp htnow ?_, by rw [htrp, hclear]⟩
    rw [if_neg hnone]
    exact hans

end Sys2Proof.Machine
end

section
/-! Clear requests, trip records and the trip clock (R237, R238, R240, R241): the statement about them. -/

-- The proofs are elaborated one after the other: this bounds the threads of the compiler, whose stacks count as its memory.
set_option Elab.async false

namespace Sys2Proof.Machine

/-! ### What a command's acceptance leaves alone -/

theorem cleared_desk (s : State) (x : CmdState) (y : MgtState) (mask : Nat) (links : List ClearLink) :
    (s.desk x y s.twn).cleared mask links = s.cleared mask links := rfl

theorem cleared_took (s : State) (c : Src) (mask : Nat) (links : List ClearLink) : (s.took c).cleared mask links = s.cleared mask links := by
  rw [took_eq_desk, cleared_desk]

theorem zone_took (s : State) (c : Src) (k : Nat) : (s.took c).zone k = s.zone k := by simp [State.zone]

theorem ClearJudged.of_took {s t : State} {c : Src} {mask : Nat} {links : List ClearLink} (h : ClearJudged c mask links (s.took c) t) :
    ClearJudged c mask links s t := by
  have hrefused : (s.took c).refused mask links = s.refused mask links := by unfold State.refused; simp only [cleared_took]
  unfold ClearJudged at *
  simp only [hrefused, cleared_took, zone_took, (by simp : (s.took c).now = s.now)] at h
  obtain ⟨hmask, hother, hnow, hans⟩ := h
  refine ⟨hmask, hother, hnow, ?_⟩
  split
  case isTrue hz => exact answered_of_took (by rwa [if_pos hz] at hans)
  case isFalse hz => exact answered_of_took (by rwa [if_neg hz] at hans)

/-! ### The request of a command -/

/-- The stacks of a mask with a driver fault. -/
def State.driverFaults (s : State) (mask : Nat) : List Nat :=
  (bitsIn 16 mask).filter fun k => (s.zone k).causes.getLsbD 3 || (s.zone k).causes.getLsbD 4

/-- Those of them whose CLEAR goes out in a ring cycle. -/
def State.ringFaults (s : State) (mask : Nat) : List Nat :=
  if s.linkMode then [] else (s.driverFaults mask).filter fun k => decide (k < 8) && s.configured k && decide (0 < s.nodes k)

/-- What a request awaits of a stack in link mode. -/
def State.clearLink (s : State) (k : Nat) : ClearLink :=
  let all := BitVec.ofNat 12 (2 ^ s.nodes k - 1)
  let sends := (s.gs k).link = .trained && (s.tb k).run = .running && all != 0
  { k := k, clearSend := if sends then all else 0, clearWait := all, left := if sends then none else some 0 }

def State.clearRequest (s : State) (c : Src) (mask : Nat) : ClearReq :=
  { src := c, mask := BitVec.ofNat 16 mask, rings := (s.ringFaults mask).map fun k => (k, none)
    links := if s.linkMode then (s.driverFaults mask).map s.clearLink else [] }

/-- A request waits, and marks its stacks. -/
def State.requestWaits (s : State) (r : ClearReq) (mask : Nat) : State :=
  forNums (bitsIn 16 mask) (fun k s => s.modZone k fun z => { z with clearPend := true })
    { s with trp := { s.trp with clear := s.trp.clear ++ [r] } }

section
variable {s : State} {c : Src} {mask : Nat}

theorem startClear_eq (s : State) (c : Src) (mask : Nat) : s.startClear c mask =
    if s.clearReady (s.clearRequest c mask) then s.evalClear (s.clearRequest c mask) else s.requestWaits (s.clearRequest c mask) mask := rfl

/-- A request on stacks without a driver fault has nothing to wait for. -/
theorem startClear_judged (h : ∀ k < 16, mask.testBit k = true → (s.zone k).causes.getLsbD 3 = false ∧ (s.zone k).causes.getLsbD 4 = false) :
    s.startClear c mask = s.evalClear { src := c, mask := BitVec.ofNat 16 mask, rings := [], links := [] } := by
  have hnone : s.driverFaults mask = [] := by
    rw [State.driverFaults, List.filter_eq_nil_iff]
    intro k hk
    obtain ⟨hlt, hbit⟩ := (mem_bitsIn 16 _ k).mp hk
    obtain ⟨h3, h4⟩ := h k hlt hbit
    rw [h3, h4]
    decide
  have hring : s.ringFaults mask = [] := by
    rw [State.ringFaults, hnone]
    exact ite_self _
  have hreq : s.clearRequest c mask = { src := c, mask := BitVec.ofNat 16 mask, rings := [], links := [] } := by
    rw [State.clearRequest, hring, hnone]
    split <;> rfl
  rw [startClear_eq, hreq]
  exact if_pos rfl

theorem mem_ringFaults {k : Nat} (hmode : s.linkMode = false) (hk : k < 8) (hbit : mask.testBit k = true) (hconf : s.configured k = true)
    (hnodes : 0 < s.nodes k) (hfault : (s.zone k).causes.getLsbD 3 = true ∨ (s.zone k).causes.getLsbD 4 = true) : k ∈ s.ringFaults mask := by
  rw [State.ringFaults, if_neg (by simp [hmode]), List.mem_filter, State.driverFaults, List.mem_filter, mem_bitsIn]
  exact ⟨⟨⟨by omega, hbit⟩, by simpa using hfault⟩, by simp [hk, hconf, hnodes]⟩

/-- A request with a driver fault in direct mode waits for its ring cycle. -/
theorem startClear_waits {k : Nat} (hmode : s.linkMode = false) (hconf : s.configured k = true) (hnodes : 0 < s.nodes k)
    (hmem : k ∈ s.ringFaults mask) : s.startClear c mask = s.requestWaits (s.clearRequest c mask) mask := by
  rw [startClear_eq]
  refine if_neg fun hready => ?_
  simp only [State.clearReady, Bool.and_eq_true, List.all_eq_true] at hready
  obtain ⟨⟨-, hrings⟩, -⟩ := hready
  have := hrings (k, none) (List.mem_map.mpr ⟨k, hmem, rfl⟩)
  simp [hmode, hconf] at this
  omega

theorem requestWaits_effect (s : State) (r : ClearReq) (mask : Nat) : Only [.trp] s (s.requestWaits r mask) ∧
    (s.requestWaits r mask).trp.clear = s.trp.clear ++ [r] ∧ (∀ k < 16, ((s.requestWaits r mask).zone k).causes = (s.zone k).causes) ∧
    ∀ k < 16, mask.testBit k = true → ((s.requestWaits r mask).zone k).clearPend = true := by
  have hlist : Only [.trp] s { s with trp := { s.trp with clear := s.trp.clear ++ [r] } } := by
    simp +decide only [only_mk, Only.refl, or_true, true_or]
  refine ⟨holds_forNums (P := Only [.trp] s) _ (fun _ _ _ hu => only_modZone _ _ hu (by decide)) hlist,
    holds_forNums (P := fun u => u.trp.clear = s.trp.clear ++ [r]) _ (fun _ _ _ hu => hu) rfl, fun k hk => ?_, fun k hk hbit => ?_⟩
  · refine holds_forNums (P := fun u => (u.zone k).causes = (s.zone k).causes) _ (fun i _ u hu => ?_) rfl
    by_cases hik : i = k
    · subst hik
      rw [State.zone_modZone_same _ _ _ hk]
      exact hu
    · rw [State.zone_modZone_other _ _ _ _ (Ne.symm hik)]
      exact hu
  · refine forNums_reaches (P := fun u => (u.zone k).clearPend = true) ((mem_bitsIn 16 _ k).mpr ⟨hk, hbit⟩)
      (fun u => by rw [State.zone_modZone_same _ _ _ hk]) fun i _ u hu => ?_
    by_cases hik : i = k
    · rw [hik, State.zone_modZone_same _ _ _ hk]
    · rw [State.zone_modZone_other _ _ _ _ (Ne.symm hik)]
      exact hu

end

/-! ### A clear in the midst of a test -/

section
variable (s : State) {k : Nat} (hk : k < 16)
include hk

omit hk in
theorem ostComplete_kept (s : State) (k : Nat) : s.ostComplete.gs k = s.gs k ∧ s.ostComplete.zone k = s.zone k := by
  have honly : Only [.gdl, .regs, .cmd, .host, .twn, .mgt] s s.ostComplete :=
    only_ostComplete s (Only.refl _ s) (by decide) (by decide) (by decide) (by decide) (by decide) (by decide)
  refine ⟨dones_gs _ _ (fun x : Src × BitVec 16 => x.1) 0x0802
      (fun s x => (bitsIn 16 x.2.toNat).foldl (fun a k => a + (s.ostFails k).length) 0) k, ?_⟩
  rw [State.zone, honly.keeps_trp]
  rfl

/-- R238: a running test ends with its stack's clear, and a fault line that stands low trips anew. -/
theorem clearZone_testing (hrun : (s.gs k).ost = .running) (hidle : s.ops.st ≠ .idle) :
    ((s.clearZone k).gs k).ost = .none ∧ ((s.gs k).fltLow = false → ((s.clearZone k).zone k).causes = 0) := by
  have hzone : (s.modZone k (s.zoneCleared k)).zone k = s.zoneCleared k (s.zone k) := State.zone_modZone_same _ _ _ hk
  have hmay : (s.modZone k (s.zoneCleared k)).ostMay k = false := by
    have hst : (s.modZone k (s.zoneCleared k)).ops.st ≠ .idle := hidle
    have hcauses : ((s.modZone k (s.zoneCleared k)).zone k).causes = 0 := by rw [hzone]; rfl
    unfold State.ostMay
    rw [hcauses, decide_eq_false hst]
    simp
  have hgs : (s.modZone k (s.zoneCleared k)).gs k = s.gs k := rfl
  have hcleared : s.clearZone k = (((s.modZone k (s.zoneCleared k)).modGs k fun g => { g with ost := .none }).ostComplete).fltStanding k := by
    rw [clearZone_guarded, State.ostGuard, if_neg (by simp [hmay])]
    exact if_pos hrun
  rw [hcleared]
  have hmod : (((s.modZone k (s.zoneCleared k)).modGs k fun g => { g with ost := .none }).gs k) = { s.gs k with ost := .none } :=
    State.gs_modGs_same _ _ _ hk
  have hzone' : (((s.modZone k (s.zoneCleared k)).modGs k fun g => { g with ost := .none }).zone k).causes = 0 := by
    have h : (((s.modZone k (s.zoneCleared k)).modGs k fun g => { g with ost := .none }).zone k) = s.zoneCleared k (s.zone k) := hzone
    rw [h]
    rfl
  generalize (s.modZone k (s.zoneCleared k)).modGs k (fun g => { g with ost := .none }) = u at *
  obtain ⟨hugs, huzone⟩ := ostComplete_kept u k
  generalize u.ostComplete = v at *
  rw [hmod] at hugs
  rw [← huzone] at hzone'
  refine ⟨?_, fun hhigh => ?_⟩
  · unfold State.fltStanding
    split
    · exact ((gdlTrip_trips (s := v) hk (cause := 3) (by decide) 0 0 0).1.gs k).none (by rw [hugs])
    · rw [hugs]
  · have hstays : v.fltStanding k = v := if_neg (by rw [hugs]; simp [hhigh])
    rw [hstays]
    exact hzone'

end

theorem stacksIn_two_pow : ∀ k < 8, bitsIn 16 (2 ^ k) = [k] := by decide

/-- R238: a request on one stack in the midst of its test. -/
theorem evalClear_testing {s : State} {c : Src} {k : Nat} (hpair : s.pair = false) (hk : k < 8) (hok : (s.cleared (2 ^ k)).testBit k = true)
    (hrun : (s.gs k).ost = .running) (hidle : s.ops.st ≠ .idle) :
    ((s.evalClear { src := c, mask := BitVec.ofNat 16 (2 ^ k), rings := [], links := [] }).gs k).ost = .none ∧
    ((s.gs k).fltLow = false →
      ((s.evalClear { src := c, mask := BitVec.ofNat 16 (2 ^ k), rings := [], links := [] }).zone k).causes = 0) := by
  have hmask : (BitVec.ofNat 16 (2 ^ k)).toNat = 2 ^ k := by
    have h : ∀ m : Fin 8, (BitVec.ofNat 16 (2 ^ m.val)).toNat = 2 ^ m.val := by decide
    exact h ⟨k, hk⟩
  have htime := only_advanceTo_time s (ctlTick s.now + 1)
  have hgs := gs_advanceTo s (ctlTick s.now + 1) k
  rw [evalClear_alone hpair, hmask]
  have hclears : (s.advanceTo (ctlTick s.now + 1)).zonesCleared (2 ^ k) (s.cleared (2 ^ k)) = (s.advanceTo (ctlTick s.now + 1)).clearZone k := by
    rw [State.zonesCleared, Nat.two_pow_and, hok, Bool.toNat_true, Nat.mul_one, stacksIn_two_pow k hk]
    rfl
  obtain ⟨hnone, hcauses⟩ := clearZone_testing (s.advanceTo (ctlTick s.now + 1)) (k := k) (by omega) (by rw [hgs]; exact hrun)
    (by rw [htime.keeps_ops]; exact hidle)
  rw [hgs] at hcauses
  rw [State.requestJudged, applyClear_eq, hclears, endClear_eq]
  generalize (s.advanceTo (ctlTick s.now + 1)).clearZone k = u at *
  have hcount := (refusalsCounted_effect u (mask := 2 ^ k) (s.cleared (2 ^ k))).1
  obtain ⟨hpends, -, hzone⟩ := pendsMarked_effect ((u.refusalsCounted (2 ^ k) (s.cleared (2 ^ k))).requestGone c) (2 ^ k)
  have hzone := hzone k (by omega)
  have hgone := only_requestGone (u.refusalsCounted (2 ^ k) (s.cleared (2 ^ k))) c
  have hwgs : (((u.refusalsCounted (2 ^ k) (s.cleared (2 ^ k))).requestGone c).pendsMarked (2 ^ k)).gs k = u.gs k :=
    gs_of_gdl (hpends.keeps_gdl.trans (hgone.keeps_gdl.trans hcount.keeps_gdl)) k
  have hwzone : ((((u.refusalsCounted (2 ^ k) (s.cleared (2 ^ k))).requestGone c).pendsMarked (2 ^ k)).zone k).causes = (u.zone k).causes := by
    have hsame : ((u.refusalsCounted (2 ^ k) (s.cleared (2 ^ k))).requestGone c).zone k = u.zone k := by
      rw [State.zone, State.requestGone, hcount.keeps_trp]
      rfl
    rw [hzone, hsame, if_pos Nat.testBit_two_pow_self]
  generalize ((u.refusalsCounted (2 ^ k) (s.cleared (2 ^ k))).requestGone c).pendsMarked (2 ^ k) = w at *
  have hfin : (w.finishClear c (2 ^ k) (s.cleared (2 ^ k))).gdl = w.gdl ∧ (w.finishClear c (2 ^ k) (s.cleared (2 ^ k))).trp = w.trp := by
    unfold State.finishClear
    dsimp only
    split
    · exact ⟨by simp, by simp⟩
    · exact ⟨by simp, by simp⟩
  obtain ⟨hgdl, htrp⟩ := hfin
  rw [gs_of_gdl hgdl, hwgs, State.zone, htrp]
  exact ⟨hnone, fun hhigh => hwzone.trans (hcauses hhigh)⟩

/-! ### Trip records and the trip clock -/

theorem execClearEvaluation_ready {s : State} {r : ClearReq} (h : s.trp.clear.find? s.clearReady = some r) :
    execClearEvaluation s = .next (s.evalClear r) := by
  unfold execClearEvaluation
  rw [h]

theorem execClearEvaluation_none {s : State} (h : s.trp.clear.find? s.clearReady = none) : execClearEvaluation s = .next s := by
  unfold execClearEvaluation
  rw [h]

theorem execTripClockNtSet_sets {s : State} {at_ : Nat} (hrun : (s.tb s.refTb).run ≠ .running) (h : s.ntReachFine s.nextMicro = some at_) :
    execTripClockNtSet s = .next ((s.advanceTo at_).setTripClock (BitVec.ofNat 64 s.nextMicro) false) := by
  have hnot : ¬ (s.tb (s.lv .decCtrl 0 0 11 8)).run = .running := hrun
  unfold execTripClockNtSet
  rw [if_neg hnot]
  dsimp only
  rw [h]

theorem execTripClockNtSet_waits {s : State} (h : (s.tb s.refTb).run = .running ∨ s.ntReachFine s.nextMicro = none) :
    execTripClockNtSet s = .next s := by
  unfold execTripClockNtSet
  split
  · rfl
  · next hnot =>
    have hnone := h.resolve_left hnot
    dsimp only
    rw [hnone]

theorem setTripClock_effect (s : State) (v : DWord) (byZero : Bool) : Only [.trp] s (s.setTripClock v byZero) ∧
    (s.setTripClock v byZero).now = s.now ∧
    (s.setTripClock v byZero).trp = { s.trp with clkVal := v, clkAt := s.now, clkByZero := byZero } := by
  refine ⟨?_, rfl, rfl⟩
  simp +decide only [State.setTripClock, only_mk, Only.refl, or_true, true_or]

/-- Settles O39. -/
theorem clearRequestsAndTripRecords : Obligations.ClearRequestsAndTripRecords := by
  unfold Obligations.ClearRequestsAndTripRecords
  refine ⟨?clear, ?testing, ?waits, ?evaluation, ?noneReady, ?read, ?clock, ?clockWaits⟩
  case clear =>
    intro c p s hs hadm hpair hfree
    refine ⟨_, congrArg Host.Outcome.next (obey_of_admits hadm _), ?_⟩
    rw [startClear_judged (s := s.took c) fun k hk hbit => by rw [zone_took]; exact (hfree k hk hbit).2]
    refine ClearJudged.of_took ?_
    have hmask := ofNat_pf_two p 0
    have h := (evalClear_judged (storesCanonical_took hs c) (by rw [pair_took]; exact hpair) { src := c, mask := BitVec.ofNat 16 (pf p 0 2), rings := [], links := [] }
      (fun k hk hbit => by rw [took_gs]; exact (hfree k hk (hmask ▸ hbit)).1)).1
    rw [hmask] at h
    exact h
  case testing =>
    intro c p k s hadm hpair hmode hk hp hok hcauses hrun hidle h3 h4
    refine ⟨_, congrArg Host.Outcome.next (obey_of_admits hadm _), ?_⟩
    beta_reduce
    have hfaults (j : Nat) (hj : j < 16) (hbit : (2 ^ k).testBit j = true) :
        ((s.took c).zone j).causes.getLsbD 3 = false ∧ ((s.took c).zone j).causes.getLsbD 4 = false := by
      have hjk : k = j := by simpa [Nat.testBit_two_pow] using hbit
      rw [zone_took, ← hjk]
      exact ⟨h3, h4⟩
    rw [hp, startClear_judged (s := s.took c) hfaults]
    have h := evalClear_testing (s := s.took c) (c := c) (by rw [pair_took]; exact hpair) hk (by rwa [cleared_took]) (by rwa [took_gs]) (by simpa using hidle)
    rwa [took_gs] at h
  case waits =>
    intro c p k s hadm hmode hk hbit hconf hnodes hfault
    refine ⟨_, congrArg Host.Outcome.next (obey_of_admits hadm _), ?_⟩
    beta_reduce
    have hmode' : (s.took c).linkMode = false := by rwa [linkMode_took]
    have hconf' : (s.took c).configured k = true := by rwa [configured_took]
    have hnodes' : 0 < (s.took c).nodes k := by rwa [nodes_congr (s := s) (by simp)]
    have hmem := mem_ringFaults (s := s.took c) hmode' hk hbit hconf' hnodes' (by rwa [zone_took])
    rw [startClear_waits hmode' hconf' hnodes' hmem]
    obtain ⟨honly, hlist, hcauses, hpend⟩ := requestWaits_effect (s.took c) ((s.took c).clearRequest c (pf p 0 2)) (pf p 0 2)
    refine ⟨⟨(s.took c).clearRequest c (pf p 0 2), hlist.trans (by simp), rfl, rfl, List.mem_map.mpr ⟨k, hmem, rfl⟩⟩, hpend k (by omega) hbit, fun j hj => ?_,
      hostSame_of_host (honly.keeps_host.trans (by simp))⟩
    rw [hcauses j hj, zone_took]
  case evaluation =>
    intro r s hs hpair hfind hfree
    obtain ⟨hjudged, hlist⟩ := evalClear_judged hs hpair r fun k hk hbit => hfree k hk (by rwa [← BitVec.testBit_toNat])
    exact ⟨_, execClearEvaluation_ready hfind, hjudged, hlist⟩
  case noneReady => exact fun s h => execClearEvaluation_none h
  case read =>
    intro s
    refine ⟨_, rfl, rfl, ?_, ?_⟩
    · simp +decide only [State.trpRecRead, only_mk, Only.refl, or_true, true_or]
    · unfold State.trpRecWord State.trpRecRead
      dsimp only
      cases s.trp.recs <;> rfl
  case clock =>
    intro at_ s hrun hreach
    refine ⟨_, execTripClockNtSet_sets hrun hreach, ?_⟩
    beta_reduce
    have htime := only_advanceTo_time s at_
    have hnow := le_now_advanceTo s at_
    generalize s.advanceTo at_ = u at *
    obtain ⟨honly, hnow', htrp⟩ := setTripClock_effect u (BitVec.ofNat 64 s.nextMicro) false
    rw [htrp, hnow', htime.keeps_trp]
    exact ⟨hnow, htime.trans (honly.mono (by decide)) (by decide), rfl⟩
  case clockWaits => exact fun s h => execTripClockNtSet_waits h

end Sys2Proof.Machine
end

section
/-! Edge, LOAD and pull-in frames (R213 to R217, R232). -/

-- The proofs are elaborated one after the other: this bounds the threads of the compiler, whose stacks count as its memory.
set_option Elab.async false

namespace Sys2Proof.Machine

/-! ### What a link sends -/

theorem transmit_line (s : State) {k : Nat} (hk : k < 16) (new : List LinkChar) (insert : Bool) :
    ∃ ln, (s.transmit k new insert).gs k = { s.gs k with line := ln } :=
  ⟨_, State.gs_modGs_same s k _ hk⟩

theorem sendLink_gs (s : State) {k : Nat} (hk : k < 16) (frame : Bytes) (insert : Bool) :
    ∃ ln, (s.sendLink k frame insert).gs k = { s.gs k with sent := frame :: (s.gs k).sent, line := ln } := by
  obtain ⟨ln, h⟩ := transmit_line (s.modGs k fun g => { g with sent := frame :: g.sent }) hk (.k 0xFB :: frame.map .d ++ [.k 0xFD]) insert
  rw [State.gs_modGs_same _ _ _ hk] at h
  exact ⟨ln, h⟩

theorem drvSent_gs (s : State) {k : Nat} (hk : k < 16) : ∃ i o, (s.drvSent k).gs k = { s.gs k with ostCycle := i, ostSend := o } := by
  unfold State.drvSent
  dsimp only
  split
  · exact ⟨_, _, rfl⟩
  · split
    · rw [State.gs_modGs_same _ _ _ hk]
      split
      · exact ⟨_, _, rfl⟩
      · exact ⟨_, _, rfl⟩
    · exact ⟨_, _, rfl⟩

/-! ### Edge frames -/

abbrev FrameEntries := Nat × Nat × List (Nat × Bool × Nat)

/-- What the frame of an interval carries of the stack's edges. -/
def State.frameEntries (s : State) (k b : Nat) (half : Bool) : FrameEntries :=
  if (s.zone k).causes != 0 || s.saf.hold || (s.stage6Off k && !s.resumesAt k b half) then (0, 0, []) else s.predict k b half

/-- A frame with too many entries carries none. -/
def FrameEntries.kept (x : FrameEntries) : FrameEntries := if decide (15 < x.2.2.length) then (0, 0, []) else x

/-- Too many entries trip the stack. -/
def State.entriesJudged (s : State) (k : Nat) (x : FrameEntries) : State := if decide (15 < x.2.2.length) then s.gdlTrip k 11 10 0 0 else s

/-- A stack's edge frame leaves. -/
def State.edgeLeaves (s : State) (k b : Nat) (frame : Bytes) (seq : Word) : State :=
  (((s.sendLink k frame false).drvSent k).modGs k fun g => { g with seq := seq, lastFrame := frame, frameFor := some b }).setRegN .gdlSeq k 0 seq.toNat

/-- The frame of an interval with the next sequence number. -/
def State.edgeNext (s : State) (k : Nat) (half : Bool) (x : FrameEntries) : Bytes :=
  edgeFrame k half (s.drvCmd k) ((s.gs k).seq + 1) x.1 x.2.1 (s.rangeWord k) x.2.2

theorem edgeSend_eq (s : State) (k b : Nat) (half : Bool) : s.edgeSend k b half =
    let x := (s.ostGuard k).frameEntries k b half
    let u := (s.ostGuard k).entriesJudged k x
    u.edgeLeaves k b (u.edgeNext k half x.kept) ((u.gs k).seq + 1) := rfl

section
variable (s : State) {k : Nat} (hk : k < 16) (b : Nat) (half : Bool)
include hk

theorem edgeLeaves_gs (frame : Bytes) (seq : Word) : ((s.edgeLeaves k b frame seq).gs k).seq = seq ∧
    ((s.edgeLeaves k b frame seq).gs k).frameFor = some b ∧ ((s.edgeLeaves k b frame seq).gs k).lastFrame = frame ∧
    ((s.edgeLeaves k b frame seq).gs k).sent.head? = some frame := by
  obtain ⟨ln, hsend⟩ := sendLink_gs s hk frame false
  obtain ⟨i, o, hdrv⟩ := drvSent_gs (s.sendLink k frame false) hk
  rw [State.edgeLeaves, gs_setRegN, State.gs_modGs_same _ _ _ hk, hdrv, hsend]
  exact ⟨rfl, rfl, rfl, rfl⟩

omit hk in
theorem edgeLeaves_reg (hs : cellsRise s.regs) (frame : Bytes) (seq : Word) :
    (s.edgeLeaves k b frame seq).reg .gdlSeq k = BitVec.ofNat 64 seq.toNat := by
  have hregs : (((s.sendLink k frame false).drvSent k).modGs k fun g => { g with seq := seq, lastFrame := frame, frameFor := some b }).regs = s.regs := by
    have hdrv : ((s.sendLink k frame false).drvSent k).regs = (s.sendLink k frame false).regs :=
      (only_drvSent _ k (Only.refl [.gdl, .trp] _) (by decide) (by decide)).keeps_regs
    exact hdrv.trans rfl
  rw [State.edgeLeaves, State.setRegN]
  generalize ((s.sendLink k frame false).drvSent k).modGs k _ = u at *
  rw [State.reg, State.setReg]
  exact regGet_regSet_same (by rwa [hregs]) .gdlSeq k 0 _

/-- In link mode the guard of a test judges no fault line: it lets the test go on, or ends it. -/
theorem ostGuard_linked (hmode : s.linkMode = true) : Only [.gdl, .regs, .cmd, .host, .twn, .mgt] s (s.ostGuard k) ∧
    ∃ o, (o = (s.gs k).ost ∨ o = .none) ∧ (s.ostGuard k).gs k = { s.gs k with ost := o } := by
  have hmod : ((s.modGs k fun g => { g with ost := .none }).gs k) = { s.gs k with ost := .none } := State.gs_modGs_same _ _ _ hk
  have honly : Only [.gdl, .regs, .cmd, .host, .twn, .mgt] s (s.modGs k fun g => { g with ost := .none }).ostComplete :=
    only_ostComplete _ (only_modGs k _ (Only.refl _ s) (by decide)) (by decide) (by decide) (by decide) (by decide) (by decide) (by decide)
  obtain ⟨hgs, -⟩ := ostComplete_kept (s.modGs k fun g => { g with ost := .none }) k
  unfold State.ostGuard State.ostAbort State.fltStanding
  split
  · exact ⟨Only.refl _ s, _, .inl rfl, rfl⟩
  · split
    · have hmode' : (s.modGs k fun g => { g with ost := .none }).ostComplete.linkMode = true := by
        unfold State.linkMode State.lv
        rw [honly.keeps_live]
        exact hmode
      rw [if_neg (by rw [hmode']; simp), hgs, hmod]
      exact ⟨honly, _, .inr rfl, rfl⟩
    · exact ⟨Only.refl _ s, _, .inl rfl, rfl⟩

/-- What a frame leaves of the stack's sequence, and the cells of its registers. -/
theorem entriesJudged_gs (x : FrameEntries) : ((s.entriesJudged k x).gs k).seq = (s.gs k).seq ∧ DeskRegs s (s.entriesJudged k x) := by
  refine ⟨?_, kept_ite (dclock_gdlTrip (.refl s) k 11 10 0 0).1 (.refl s)⟩
  unfold State.entriesJudged
  split
  · obtain ⟨-, o, m, st, ln, h⟩ := (gdlTrip_trips (s := s) hk (cause := 10) (by decide) 11 0 0).1.gs k
    rw [h]
  · rfl

theorem edgeSend_gs (hmode : s.linkMode = true) : ((s.edgeSend k b half).gs k).seq = (s.gs k).seq + 1 ∧
    ((s.edgeSend k b half).gs k).frameFor = some b ∧
    ((s.edgeSend k b half).gs k).sent.head? = some ((s.edgeSend k b half).gs k).lastFrame := by
  obtain ⟨-, o, -, hguard⟩ := ostGuard_linked s hk hmode
  rw [edgeSend_eq]
  dsimp only
  generalize (s.ostGuard k).frameEntries k b half = x
  obtain ⟨hseq, -⟩ := entriesJudged_gs (s.ostGuard k) hk x
  obtain ⟨hseq', hfor, hlast, hsent⟩ := edgeLeaves_gs ((s.ostGuard k).entriesJudged k x) hk b
    (((s.ostGuard k).entriesJudged k x).edgeNext k half x.kept) ((((s.ostGuard k).entriesJudged k x).gs k).seq + 1)
  rw [hlast]
  exact ⟨hseq'.trans (by rw [hseq, hguard]), hfor, hsent⟩

theorem edgeSend_reg (hs : s.storesCanonical) (hmode : s.linkMode = true) :
    (s.edgeSend k b half).reg .gdlSeq k = BitVec.ofNat 64 ((s.gs k).seq + 1).toNat := by
  obtain ⟨-, o, -, hguard⟩ := ostGuard_linked s hk hmode
  have hcells : cellsRise (s.ostGuard k).regs := (selftest_ostGuard (.refl s) k (regsRise_of_storesCanonical hs)).1
  rw [edgeSend_eq]
  dsimp only
  generalize (s.ostGuard k).frameEntries k b half = x
  obtain ⟨hseq, hdesk⟩ := entriesJudged_gs (s.ostGuard k) hk x
  rw [edgeLeaves_reg _ b (hdesk hcells).1, hseq, hguard]

/-- R216, R232: no edges in the frame while the stack is held off. -/
theorem edgeSend_off (hmode : s.linkMode = true) (hoff : (s.zone k).causes ≠ 0 ∨ s.saf.hold = true ∨ s.stage6Off k = true ∧ s.resumesAt k b half = false) :
    ((s.edgeSend k b half).gs k).lastFrame = edgeFrame k half ((s.ostGuard k).drvCmd k) ((s.gs k).seq + 1) 0 0 (s.rangeWord k) [] := by
  obtain ⟨honly, o, -, hguard⟩ := ostGuard_linked s hk hmode
  have hzone : (s.ostGuard k).zone k = s.zone k := by rw [State.zone, honly.keeps_trp]; rfl
  have hstage : (s.ostGuard k).stage6Off k = s.stage6Off k := by unfold State.stage6Off; rw [hzone, honly.keeps_saf]
  have hresumes : (s.ostGuard k).resumesAt k b half = s.resumesAt k b half := by unfold State.resumesAt; rw [hzone]
  have hrange : (s.ostGuard k).rangeWord k = s.rangeWord k := by unfold State.rangeWord State.lv; rw [honly.keeps_live]
  have hnone : (s.ostGuard k).frameEntries k b half = (0, 0, []) := by
    rw [State.frameEntries, hzone, honly.keeps_saf, hstage, hresumes]
    refine if_pos ?_
    rcases hoff with h | h | ⟨h, h'⟩
    · rw [bne_iff_ne.mpr h]
      rfl
    · simp [h]
    · simp [h, h']
  obtain ⟨-, -, hlast, -⟩ := edgeLeaves_gs (s.ostGuard k) hk b ((s.ostGuard k).edgeNext k half (0, 0, [])) (((s.ostGuard k).gs k).seq + 1)
  rw [edgeSend_eq, hnone]
  have hjudged : (s.ostGuard k).entriesJudged k (0, 0, []) = s.ostGuard k := rfl
  dsimp only
  rw [hjudged]
  refine hlast.trans ?_
  rw [State.edgeNext, hguard, hrange]

end

theorem execEdgeFrameSend_sends {s : State} {k : Fin 16} {b : Nat} {half : Bool} (hmode : s.linkMode = true) (hconf : s.configured k = true)
    (hlink : (s.gs k).link = .trained) (hload : s.frameLoad k = some (b, half)) (hsends : s.sendsFrames = true)
    (hpub : ∀ e, s.engineOf k = some e → s.inPeriod e = true → (s.engN e).started = true ∧ (s.engN e).published = true)
    (hfor : (s.gs k).frameFor ≠ some b) : execEdgeFrameSend k s = .next (s.edgeSend k b half) := by
  have hpublished : (match s.engineOf k with
      | some e => !s.inPeriod e || ((s.engN e).started && (s.engN e).published)
      | none => true) = true := by
    split
    · next e he =>
      cases hin : s.inPeriod e with
      | false => rfl
      | true =>
        obtain ⟨h1, h2⟩ := hpub e he hin
        rw [h1, h2]
        rfl
    · rfl
  unfold execEdgeFrameSend
  rw [hload]
  refine if_pos ?_
  rw [hmode, hconf, hlink, hsends]
  simp only [decide_true, Bool.true_and, Bool.and_eq_true, bne_iff_ne]
  exact ⟨hpublished, hfor⟩

/-! ### LOAD and pull-in frames -/

/-- A stack's LOAD leaves. -/
def State.loadLeaves (s : State) (k : Nat) (seq : Word) (b : Nat) : State :=
  (s.modGs k fun g => { g with sent := [0x3C, BitVec.ofNat 8 seq.toNat] :: g.sent, loadFor := some b }).transmit k
    [.k 0x3C, .d (BitVec.ofNat 8 seq.toNat)] true

theorem loadLeaves_gs (s : State) {k : Nat} (hk : k < 16) (seq : Word) (b : Nat) : ∃ ln, (s.loadLeaves k seq b).gs k =
    { s.gs k with sent := [0x3C, BitVec.ofNat 8 seq.toNat] :: (s.gs k).sent, loadFor := some b, line := ln } := by
  obtain ⟨ln, h⟩ := transmit_line (s.modGs k fun g => { g with sent := [0x3C, BitVec.ofNat 8 seq.toNat] :: g.sent, loadFor := some b }) hk
    [.k 0x3C, .d (BitVec.ofNat 8 seq.toNat)] true
  rw [State.gs_modGs_same _ _ _ hk] at h
  exact ⟨ln, h⟩

theorem execLoadSend_sends {s : State} {k : Fin 16} (hmode : s.linkMode = true) (hlink : (s.gs k).link = .trained)
    (hrun : (s.tb k).run = .running) (hsends : s.sendsFrames = true) (hfor : (s.gs k).frameFor = some (s.lastLoad k))
    (hload : (s.gs k).loadFor ≠ some (s.lastLoad k)) : execLoadSend k s =
    .next ((s.advanceTo (s.lastLoad k + 32 * (s.latFix - (s.reg .gdlLat k).toNat))).loadLeaves k (s.gs k).seq (s.lastLoad k)) := by
  have hcond : (s.linkMode && decide ((s.gs k).link = .trained) && decide ((s.tb k).run = .running) && s.sendsFrames &&
      decide ((s.gs k).frameFor = some (s.lastLoad k)) && (s.gs k).loadFor != some (s.lastLoad k)) = true := by
    simp [hmode, hlink, hrun, hsends, hfor, hload]
  have hseq : ((s.advanceTo (s.lastLoad k + 32 * (s.latFix - (s.reg .gdlLat k).toNat))).loadLeaves k (s.gs k).seq (s.lastLoad k)) =
      ((s.advanceTo (s.lastLoad k + 32 * (s.latFix - (s.reg .gdlLat k).toNat))).modGs k fun g =>
        { g with sent := [0x3C, BitVec.ofNat 8 (s.gs k).seq.toNat] :: g.sent, loadFor := some (s.lastLoad k) }).transmit k
          [.k 0x3C, .d (BitVec.ofNat 8 (s.gs k).seq.toNat)] true := rfl
  rw [hseq]
  exact if_pos hcond

/-- A stack's pull-in acts at the departure of its frame. -/
def State.pullLeaves (s : State) (k : Nat) : State :=
  ((s.advanceTo (s.pullDeparts k)).modGs k fun g => { g with pullMask := 0 }).pullEdges k (s.gs k).pullMask

/-- The pull-in frame of a stack. -/
def State.pullFrame (s : State) (k : Nat) (g : GdlStack) (phases : Nat) : Bytes :=
  shortFrame 2 k phases (((if g.frameFor = some (s.lastLoad k) then g.seq else g.seq - 1).toNat % 32) * 2 ^ 27 + (s.now - s.lastLoad k) % 2 ^ 27)

/-- A stack's pull-in frame leaves. -/
def State.pullSent (s : State) (k : Nat) (frame : Bytes) : State :=
  (s.sendLink k frame true).modGs k fun g => { g with pullLast := some s.now }

theorem pullSent_effect (s : State) {k : Nat} (hk : k < 16) (frame : Bytes) : (s.pullSent k frame).pwm = s.pwm ∧ (s.pullSent k frame).now = s.now ∧
    ∃ ln, (s.pullSent k frame).gs k = { s.gs k with sent := frame :: (s.gs k).sent, line := ln, pullLast := some s.now } := by
  obtain ⟨ln, h⟩ := sendLink_gs s hk frame true
  refine ⟨rfl, rfl, ln, ?_⟩
  rw [State.pullSent, State.gs_modGs_same _ _ _ hk, h]

theorem execPullInFrameSend_leaves {s : State} {k : Fin 16} (hmode : s.linkMode = true) (hlink : (s.gs k).link = .trained)
    (hmask : (s.gs k).pullMask ≠ 0) : execPullInFrameSend k s =
    let u := s.pullLeaves k
    let phases := u.pulledPhases k &&& (s.gs k).pullMask
    if phases = 0 then .next u
    else
      let v := if u.sendsFrames then u.sendLink k (u.pullFrame k (s.gs k) phases) true else u
      .next (v.modGs k fun g => { g with pullLast := some v.now }) := by
  have hcond : (s.linkMode && decide ((s.gs k).link = .trained) && decide ((s.gs k).pullMask ≠ 0)) = true := by simp [hmode, hlink, hmask]
  exact if_pos hcond

theorem execPullInFrameSend_none {s : State} {k : Fin 16} (hmode : s.linkMode = true) (hlink : (s.gs k).link = .trained)
    (hmask : (s.gs k).pullMask ≠ 0) (hnone : (s.pullLeaves k).pulledPhases k &&& (s.gs k).pullMask = 0) :
    execPullInFrameSend k s = .next (s.pullLeaves k) :=
  (execPullInFrameSend_leaves hmode hlink hmask).trans (if_pos hnone)

theorem execPullInFrameSend_sends {s : State} {k : Fin 16} (hmode : s.linkMode = true) (hlink : (s.gs k).link = .trained)
    (hmask : (s.gs k).pullMask ≠ 0) (hsome : (s.pullLeaves k).pulledPhases k &&& (s.gs k).pullMask ≠ 0)
    (hsends : (s.pullLeaves k).sendsFrames = true) : execPullInFrameSend k s = .next ((s.pullLeaves k).pullSent k
      ((s.pullLeaves k).pullFrame k (s.gs k) ((s.pullLeaves k).pulledPhases k &&& (s.gs k).pullMask))) := by
  refine (execPullInFrameSend_leaves hmode hlink hmask).trans ((if_neg hsome).trans ?_)
  dsimp only
  rw [if_pos hsends]
  rfl

/-- What a pull-in lets stand of the channel path: the timebases. -/
theorem pullEdges_tbs (s : State) (k mask : Nat) : (s.pullEdges k mask).pwm.tbs = s.pwm.tbs := by
  have hoff (u : State) (n at_ : Nat) : (u.chanOff n at_).pwm.tbs = u.pwm.tbs := by
    unfold State.chanOff State.gcFall
    split
    · rfl
    · rfl
  have hchan (u : State) (n : Nat) : (u.pullChan n).pwm.tbs = u.pwm.tbs := by
    have hpulled (v : State) (f : Chan → Chan) (hv : v.pwm.tbs = u.pwm.tbs) : (v.modChan n f).pwm.tbs = u.pwm.tbs := hv
    unfold State.pullChan
    exact holds_ite (P := fun v => v.pwm.tbs = u.pwm.tbs) rfl (holds_ite (P := fun v => v.pwm.tbs = u.pwm.tbs)
      (holds_ite (P := fun v => v.pwm.tbs = u.pwm.tbs) (hpulled _ _ (hoff u n _)) rfl) (holds_ite (P := fun v => v.pwm.tbs = u.pwm.tbs)
        (hpulled _ _ (hoff u n _)) (holds_ite (P := fun v => v.pwm.tbs = u.pwm.tbs) (hpulled _ _ rfl) rfl)))
  exact holds_ite (P := fun v => v.pwm.tbs = s.pwm.tbs)
    (holds_forNums (P := fun v => v.pwm.tbs = s.pwm.tbs) _ (fun _ _ u hu => (hchan _ _).trans ((hchan u _).trans hu)) rfl) rfl

theorem pullLeaves_effect (s : State) {k : Nat} (hk : k < 16) : (s.pullLeaves k).gs k = { s.gs k with pullMask := 0 } ∧
    (s.pullLeaves k).now = max s.now (s.pullDeparts k) ∧ (s.pullLeaves k).sendsFrames = s.sendsFrames ∧
    (s.pullLeaves k).lastLoad k = s.lastLoad k := by
  have htime := only_advanceTo_time s (s.pullDeparts k)
  have hnow := now_advanceTo s (s.pullDeparts k)
  have hmod : (((s.advanceTo (s.pullDeparts k)).modGs k fun g => { g with pullMask := 0 }).gs k) = { s.gs k with pullMask := 0 } := by
    rw [State.gs_modGs_same _ _ _ hk, gs_advanceTo]
  have honly : Only [.now, .nt, .gdl] s ((s.advanceTo (s.pullDeparts k)).modGs k fun g => { g with pullMask := 0 }) :=
    only_modGs k _ (htime.mono (by decide)) (by decide)
  have hnow' : ((s.advanceTo (s.pullDeparts k)).modGs k fun g => { g with pullMask := 0 }).now = max s.now (s.pullDeparts k) := hnow
  rw [State.pullLeaves]
  generalize (s.advanceTo (s.pullDeparts k)).modGs k (fun g => { g with pullMask := 0 }) = u at *
  have hpull : Only [.pwm] u (u.pullEdges k (s.gs k).pullMask) := only_pullEdges u k _ (Only.refl _ u) (by decide)
  have htbs := pullEdges_tbs u k (s.gs k).pullMask
  generalize u.pullEdges k (s.gs k).pullMask = t at *
  refine ⟨(gs_of_gdl hpull.keeps_gdl k).trans hmod, hpull.keeps_now.trans hnow', ?_, ?_⟩
  · unfold State.sendsFrames State.pair State.lv
    rw [hpull.keeps_live, hpull.keeps_twn, honly.keeps_live, honly.keeps_twn]
  · unfold State.lastLoad State.tb
    rw [htbs, honly.keeps_pwm]

theorem pullDeparts_le {s : State} {k t0 : Nat} (h : (s.gs k).pullLast = some t0) : t0 + 11200 ≤ s.pullDeparts k := by
  rw [State.pullDeparts, h]
  exact le_max_right _ _

end Sys2Proof.Machine
end

section
/-! Return frames (R218, R219, Table GDL-11): what a good one and a bad one leave. -/

-- The proofs are elaborated one after the other: this bounds the threads of the compiler, whose stacks count as its memory.
set_option Elab.async false

namespace Sys2Proof.Machine

/-! ### Causes that stand, and gate commands that fall -/

/-- Every cause stands, and no gate command rises. -/
def Latched (s t : State) : Prop := (∀ k c, (s.zone k).causes.getLsbD c = true → (t.zone k).causes.getLsbD c = true) ∧ GcFalls s t

section
variable {s t u : State}

theorem Latched.refl (s : State) : Latched s s := ⟨fun _ _ h => h, .refl s⟩

theorem Latched.trans (h : Latched s t) (h' : Latched t u) : Latched s u := ⟨fun k c hc => h'.1 k c (h.1 k c hc), fun n hn => h.2 n (h'.2 n hn)⟩

theorem TripsOnly.latched (h : TripsOnly s t) : Latched s t := ⟨h.stays, h.falls⟩

theorem latched_of_parts (hz : t.trp.zones = s.trp.zones) (hp : t.pwm = s.pwm) : Latched s t :=
  ⟨fun k c hc => by rwa [State.zone, hz], gcf_of_pwm hp (.refl s)⟩

theorem latched_of_only {l : List Part} (h : Only l s t) (hl : ∀ p ∈ [Part.trp, .pwm], p ∉ l := by decide) : Latched s t :=
  latched_of_parts (by rw [h.keeps_trp (hl _ (by decide))]) (h.keeps_pwm (hl _ (by decide)))

theorem latched_ite {c : Prop} [Decidable c] {s0 : State} (hs : Latched s0 s) (ht : Latched s0 t) : Latched s0 (if c then s else t) := holds_ite hs ht

/-- What has tripped stays tripped. -/
theorem Tripped.latched {k c : Nat} (h : Tripped k c s t) (h' : Latched t u) : Tripped k c s u :=
  ⟨h'.1 k c h.1, fun h0 n hn hout => h'.2.off (h.2 h0 n hn hout)⟩

end

/-- A node has answered, and with it the CLEAR that it owes. -/
def State.nodeAnswered (s : State) (k j : Nat) (w : Word) : State :=
  let s := s.drvWord k j w
  { s with trp := { s.trp with clear := s.trp.clear.map fun r =>
    { r with links := r.links.map fun x =>
        if x.k = k ∧ x.clearSend &&& BitVec.ofNat 12 (2 ^ j) = 0 then { x with clearWait := x.clearWait &&& ~~~ BitVec.ofNat 12 (2 ^ j) } else x } } }

/-- A node's test word has come. -/
def State.nodeTested (s : State) (k j : Nat) (w : Word) : State :=
  (s.testCode k j (some w)).modGs k fun g => { g with ostSeen := g.ostSeen ||| BitVec.ofNat 12 (2 ^ j) }

theorem returnDrv_eq (s : State) (k : Nat) (f : Bytes) (done : Bool) : s.returnDrv k f done =
    if 12 ≤ pb f 24 then s
    else
      let u := s.nodeAnswered k (pb f 24) (BitVec.ofNat 32 (pf f 26 4))
      if (u.gs k).ost = .running && done then
        let v := u.nodeTested k (pb f 24) (BitVec.ofNat 32 (pf f 26 4))
        if (List.range (v.nodes k)).all (v.gs k).ostSeen.getLsbD then v.ostFinish k else v
      else u := rfl

section
variable {s0 s : State} {k : Nat} (hk : k < 16)
include hk

theorem gdlTrip_latched (s : State) {cause : Nat} (hc : cause < 16) (bit source phase : Nat) : Latched s (s.gdlTrip k bit cause source phase) :=
  (gdlTrip_trips hk hc bit source phase).1.latched

theorem drvWord_latched (s : State) (j : Nat) (w : Word) : Latched s (s.drvWord k j w) := by
  have hsoft (u : State) : Latched u ((u.count .gdlSoftCnt k).note 11 3 (12 * k + j) (leBytes 4 w.toNat)) :=
    latched_of_only (l := [.regs, .log]) (only_note _ 11 3 _ _ (only_count .gdlSoftCnt k 1 (Only.refl _ u) (by decide)) (by decide) (by decide))
  have hmod (u : State) (f : GdlStack → GdlStack) (hu : Latched s u) : Latched s (u.modGs k f) := hu.trans (latched_of_parts rfl rfl)
  have hhard (u : State) (hu : Latched s u) : Latched s (if drvHard w then u.gdlTrip k 1 4 j 0 else u) :=
    latched_ite (hu.trans (gdlTrip_latched hk u (by decide) _ _ _)) hu
  have hset : Latched s (s.setRegN .gdlDrv (12 * k + j) 0 w.toNat) := latched_of_parts rfl rfl
  have hgood (u : State) (old : Word) (hu : Latched s u) : Latched s (u.drvGood k j old w) := by
    unfold State.drvGood
    exact hhard _ (latched_ite ((hmod _ _ hu).trans (hsoft _)) (hmod _ _ hu))
  exact latched_ite (hgood _ _ (hmod _ _ hset)) hset

theorem ostFinish_latched (s : State) : Latched s (s.ostFinish k) := by
  have hcomplete (u : State) : Latched u u.ostComplete := latched_of_only (l := [.gdl, .regs, .cmd, .host, .twn, .mgt])
    (only_ostComplete u (Only.refl _ u) (by decide) (by decide) (by decide) (by decide) (by decide) (by decide))
  have hflt (u : State) : Latched u (u.fltStanding k) := latched_ite (gdlTrip_latched hk u (by decide) _ _ _) (.refl u)
  have hset (v : Nat) (f : GdlStack → GdlStack) : Latched s ((s.modGs k f).setRegN .gdlOstRes k 0 v) := latched_of_parts rfl rfl
  unfold State.ostFinish
  dsimp only
  exact latched_ite ((hset _ _).trans (hcomplete _)) (((hset _ _).trans (hcomplete _)).trans (hflt _))

theorem returnDrv_latched (s : State) (f : Bytes) (done : Bool) : Latched s (s.returnDrv k f done) := by
  have hword (j : Nat) (w : Word) : Latched s (s.nodeAnswered k j w) := (drvWord_latched hk s j w).trans (latched_of_parts rfl rfl)
  have htest (u : State) (j : Nat) (w : Word) : Latched u (u.nodeTested k j w) := by
    have hcode : Latched u (u.testCode k j (some w)) :=
      latched_of_only (l := [.gdl, .free]) (only_testCode u k j (some w) (Only.refl _ u) (by decide) (by decide))
    exact hcode.trans (latched_of_parts rfl rfl)
  have hend (u : State) (c : Prop) [Decidable c] : Latched u (if c then u.ostFinish k else u) := latched_ite (ostFinish_latched hk u) (.refl u)
  rw [returnDrv_eq]
  exact latched_ite (.refl s) (latched_ite ((hword _ _).trans ((htest _ _ _).trans (hend _ _))) (hword _ _))

/-! ### What a good frame has read -/

theorem returnDrv_runs (s : State) (f : Bytes) (done : Bool) : SameRuns s (s.returnDrv k f done) := by
  have hword (j : Nat) (w : Word) : SameRuns s (s.nodeAnswered k j w) := runs_of_gdl (drvWord_runs hk s j w) rfl rfl
  have htest (u : State) (j : Nat) (w : Word) : SameRuns u (u.nodeTested k j w) :=
    runs_modGs k _ (testCode_runs (.refl u) k j (some w)) fun _ => ⟨rfl, rfl, rfl, rfl⟩
  have hend (u : State) (c : Prop) [Decidable c] : SameRuns u (if c then u.ostFinish k else u) := runs_ite (ostFinish_runs u hk) (.refl u)
  rw [returnDrv_eq]
  exact runs_ite (.refl s) (runs_ite ((hword _ _).trans ((htest _ _ _).trans (hend _ _))) (hword _ _))

end

/-! ### The status of a frame -/

/-- What a frame's status reports of the twin and of the frames that the interface has lost. -/
def State.statusNoted (s : State) (k st : Nat) : State :=
  let s := if st.testBit 13 then s.count .gdlCrcCnt k else s
  if st.testBit 15 then s.returnTwin k else s

/-- A fault of the interface trips the stack. -/
def State.ifaceJudged (s : State) (k st : Nat) : State := if st.testBit 12 || st.testBit 11 then s.latch k 15 st 0 else s

/-- A fault line of the interface trips the stack. -/
def State.fltJudged (s : State) (k st : Nat) : State := if st.testBit 10 then s.gdlTrip k 0 3 0 0 else s

/-- A hard report trips the stack. -/
def State.hardJudged (s : State) (k st node : Nat) : State := if st.testBit 9 then s.gdlTrip k 1 4 node 0 else s

section
variable (s : State) {k : Nat} (hk : k < 16) (st : Nat)
include hk

theorem ifaceJudged_trips : TripsOnly s (s.ifaceJudged k st) ∧
    (st.testBit 12 = true → s.latches k 15 = true → Tripped k 15 s (s.ifaceJudged k st)) := by
  obtain ⟨htrips, htripped⟩ := latch_trips (s := s) hk (cause := 15) (by decide) st 0
  unfold State.ifaceJudged
  split
  case isTrue h => exact ⟨htrips, fun _ hl => htripped hl⟩
  case isFalse h => exact ⟨.refl s, fun h12 => absurd (by rw [h12]; rfl) h⟩

theorem fltJudged_trips : TripsOnly s (s.fltJudged k st) ∧ (st.testBit 10 = true → s.latches k 3 = true → Tripped k 3 s (s.fltJudged k st)) := by
  obtain ⟨htrips, htripped⟩ := gdlTrip_trips (s := s) hk (cause := 3) (by decide) 0 0 0
  unfold State.fltJudged
  split
  case isTrue h => exact ⟨htrips, fun _ hl => htripped hl⟩
  case isFalse h => exact ⟨.refl s, fun h10 => absurd h10 h⟩

theorem hardJudged_trips (node : Nat) : TripsOnly s (s.hardJudged k st node) ∧
    (st.testBit 9 = true → s.latches k 4 = true → Tripped k 4 s (s.hardJudged k st node)) := by
  obtain ⟨htrips, htripped⟩ := gdlTrip_trips (s := s) hk (cause := 4) (by decide) 1 node 0
  unfold State.hardJudged
  split
  case isTrue h => exact ⟨htrips, fun _ hl => htripped hl⟩
  case isFalse h => exact ⟨.refl s, fun h9 => absurd h9 h⟩

/-- The trips that a frame's status flags, in one state after the other. -/
theorem judged_trips (node : Nat) : TripsOnly s (((s.ifaceJudged k st).fltJudged k st).hardJudged k st node) ∧
    (st.testBit 12 = true → s.latches k 15 = true → Tripped k 15 s (((s.ifaceJudged k st).fltJudged k st).hardJudged k st node)) ∧
    (st.testBit 10 = true → s.latches k 3 = true → Tripped k 3 s (((s.ifaceJudged k st).fltJudged k st).hardJudged k st node)) ∧
    (st.testBit 9 = true → s.latches k 4 = true → Tripped k 4 s (((s.ifaceJudged k st).fltJudged k st).hardJudged k st node)) := by
  obtain ⟨ha, ha15⟩ := ifaceJudged_trips s hk st
  generalize s.ifaceJudged k st = a at *
  obtain ⟨hb, hb3⟩ := fltJudged_trips a hk st
  generalize a.fltJudged k st = b at *
  obtain ⟨hc, hc4⟩ := hardJudged_trips b hk st node
  generalize b.hardJudged k st node = c at *
  refine ⟨(ha.trans hb).trans hc, fun h12 hl => ?_, fun h10 hl => ?_, fun h9 hl => ?_⟩
  · exact (ha15 h12 hl).latched (hb.trans hc).latched
  · exact (Tripped.trans hk ha (hb3 h10 (by rwa [ha.watch])) hb).latched hc.latched
  · exact Tripped.trans hk (ha.trans hb) (hc4 h9 (by rwa [(ha.trans hb).watch])) hc

end

end Sys2Proof.Machine
end

section
/-! The statement about the frames of the gate links (R213 to R219, R232). -/

-- The proofs are elaborated one after the other: this bounds the threads of the compiler, whose stacks count as its memory.
set_option Elab.async false

namespace Sys2Proof.Machine

/-! ### A good return frame, up to what it trips -/

/-- The readings of a return frame. -/
def GdlStack.read (g : GdlStack) (f : Bytes) : GdlStack :=
  { g with crcRun := 0, ifaceGa := BitVec.ofNat 12 (pf f 20 2), retFlt := (pf f 22 2).testBit 10, retHard := (pf f 22 2).testBit 9 }

/-- A good frame has been taken in, as far as its readings. -/
def State.frameRead (s : State) (k : Nat) (f : Bytes) : State := (((s.ostGuard k).dupCount k).takeBits k f).modGs k fun g => g.read f

/-- A good frame has been taken in, but for what its status trips. -/
def State.frameNoted (s : State) (k : Nat) (f : Bytes) : State := ((s.frameRead k f).returnAcks k (pf f 20 2)).statusNoted k (pf f 22 2)

theorem returnGood_eq (s : State) (k : Nat) (f : Bytes) : s.returnGood k f =
    ((((s.frameNoted k f).ifaceJudged k (pf f 22 2)).fltJudged k (pf f 22 2)).hardJudged k (pf f 22 2) (pb f 24)).returnDrv k f
      ((pf f 22 2).testBit 8) := rfl

theorem statusNoted_effect (s : State) (k st : Nat) : Only [.regs, .log, .twn] s (s.statusNoted k st) ∧
    (s.statusNoted k st).twn.alone = s.twn.alone ∧ (s.statusNoted k st).twn.twin = s.twn.twin := by
  have hcount : Only [.regs, .log, .twn] s (if st.testBit 13 then s.count .gdlCrcCnt k else s) :=
    only_ite (only_count _ _ _ (Only.refl _ s) (by decide)) (Only.refl _ s)
  have hcount' : (if st.testBit 13 then s.count .gdlCrcCnt k else s).twn = s.twn := by
    split
    · rfl
    · rfl
  have htwin (u : State) : (u.returnTwin k).twn.alone = u.twn.alone ∧ (u.returnTwin k).twn.twin = u.twn.twin := by
    have hflag : (u.gdlFlag k 10).twn = u.twn :=
      (only_gdlFlag u k 10 (Only.refl [.regs, .log] u) (by decide) (by decide)).keeps_twn
    have hready (t : TwnState) : (if t.role then t else { t with ready := false }).alone = t.alone ∧
        (if t.role then t else { t with ready := false }).twin = t.twin := by
      split
      · exact ⟨rfl, rfl⟩
      · exact ⟨rfl, rfl⟩
    rw [← hflag]
    unfold State.returnTwin
    dsimp only
    split
    · exact hready _
    · exact ⟨rfl, rfl⟩
  unfold State.statusNoted
  dsimp only
  generalize (if st.testBit 13 then s.count .gdlCrcCnt k else s) = u at *
  rw [← hcount']
  split
  · exact ⟨only_returnTwin u k hcount (by decide) (by decide) (by decide), htwin u⟩
  · exact ⟨hcount, rfl, rfl⟩

section
variable (s : State) {k : Nat} (hk : k < 16) (f : Bytes) (hmode : s.linkMode = true)
include hk hmode

theorem frameNoted_gs : ∃ o, (o = (s.gs k).ost ∨ o = .none) ∧ (s.frameNoted k f).gs k = ({ s.gs k with ost := o } : GdlStack).read f := by
  obtain ⟨-, o, ho, hguard⟩ := ostGuard_linked s hk hmode
  have hdup : Only [.free, .regs] (s.ostGuard k) ((s.ostGuard k).dupCount k) := only_dupCount _ k (Only.refl _ _) (by decide) (by decide)
  have hbits : Only [.meas] ((s.ostGuard k).dupCount k) (((s.ostGuard k).dupCount k).takeBits k f) :=
    only_takeBits _ k f (Only.refl _ _) (by decide)
  have hacks : Only [.pwm] (s.frameRead k f) ((s.frameRead k f).returnAcks k (pf f 20 2)) := only_returnAcks _ k _ (Only.refl _ _) (by decide)
  have hnoted := (statusNoted_effect ((s.frameRead k f).returnAcks k (pf f 20 2)) k (pf f 22 2)).1
  refine ⟨o, ho, ?_⟩
  rw [State.frameNoted, gs_of_gdl (hnoted.keeps_gdl.trans hacks.keeps_gdl), State.frameRead, State.gs_modGs_same _ _ _ hk,
    gs_of_gdl (hbits.keeps_gdl.trans hdup.keeps_gdl), hguard]

theorem frameNoted_parts : (s.frameNoted k f).trp = s.trp ∧ (s.frameNoted k f).ops = s.ops ∧ (s.frameNoted k f).live = s.live ∧
    (s.frameNoted k f).twn.alone = s.twn.alone ∧ (s.frameNoted k f).twn.twin = s.twn.twin := by
  obtain ⟨hguard, -⟩ := ostGuard_linked s hk hmode
  obtain ⟨-, halone, htwin, -⟩ := (twin_ostGuard (.refl s) k).fields
  have hread : Only [.free, .regs, .meas, .gdl] (s.ostGuard k) (s.frameRead k f) :=
    only_modGs k _ (only_takeBits _ k f (only_dupCount _ k (Only.refl _ _) (by decide) (by decide)) (by decide)) (by decide)
  have hacks : Only [.free, .regs, .meas, .gdl, .pwm] (s.ostGuard k) ((s.frameRead k f).returnAcks k (pf f 20 2)) :=
    only_returnAcks _ k _ (hread.mono (by decide)) (by decide)
  obtain ⟨hnoted, halone', htwin'⟩ := statusNoted_effect ((s.frameRead k f).returnAcks k (pf f 20 2)) k (pf f 22 2)
  rw [State.frameNoted]
  generalize ((s.frameRead k f).returnAcks k (pf f 20 2)).statusNoted k (pf f 22 2) = t at *
  generalize (s.frameRead k f).returnAcks k (pf f 20 2) = u at *
  refine ⟨?_, ?_, ?_, ?_, ?_⟩
  · exact hnoted.keeps_trp.trans (hacks.keeps_trp.trans hguard.keeps_trp)
  · exact hnoted.keeps_ops.trans (hacks.keeps_ops.trans hguard.keeps_ops)
  · exact hnoted.keeps_live.trans (hacks.keeps_live.trans hguard.keeps_live)
  · exact halone'.trans ((congrArg TwnState.alone hacks.keeps_twn).trans halone)
  · exact htwin'.trans ((congrArg TwnState.twin hacks.keeps_twn).trans htwin)

/-- A cause that is recognised is so once the frame has been taken in. -/
theorem frameNoted_latches {c : Nat} (h : s.latches k c = true) : (s.frameNoted k f).latches k c = true := by
  obtain ⟨-, hops, hlive, halone, htwin⟩ := frameNoted_parts s hk f hmode
  obtain ⟨o, ho, hgs⟩ := frameNoted_gs s hk f hmode
  have hpair : (s.frameNoted k f).pair = s.pair := pair_congr hlive
  have hmask : s.maskedByOst k c = false → (s.frameNoted k f).maskedByOst k c = false := by
    intro hm
    unfold State.maskedByOst at *
    rw [hgs]
    rcases ho with rfl | rfl
    · exact hm
    · rfl
  unfold State.latches State.tripsWatched State.ownPath State.lone at *
  rw [hops, hpair, halone, htwin]
  simp only [Bool.and_eq_true, Bool.not_eq_true'] at *
  exact ⟨⟨h.1.1, hmask h.1.2⟩, h.2⟩

/-- R219: what a good frame reads and trips. -/
theorem returnGood_effect (hlink : (s.gs k).link = .trained) :
    ((s.returnGood k f).gs k).readings = (0, BitVec.ofNat 12 (pf f 20 2), (pf f 22 2).testBit 10, (pf f 22 2).testBit 9, .trained) ∧
    ((pf f 22 2).testBit 10 = true → s.latches k 3 = true → Tripped k 3 s (s.returnGood k f)) ∧
    ((pf f 22 2).testBit 9 = true → s.latches k 4 = true → Tripped k 4 s (s.returnGood k f)) ∧
    ((pf f 22 2).testBit 12 = true → s.latches k 15 = true → Tripped k 15 s (s.returnGood k f)) := by
  obtain ⟨htrp, -⟩ := frameNoted_parts s hk f hmode
  obtain ⟨o, -, hgs⟩ := frameNoted_gs s hk f hmode
  have hzones : (s.frameNoted k f).trp.zones = s.trp.zones := by rw [htrp]
  have hlatches (c : Nat) (h : s.latches k c = true) := frameNoted_latches s hk f hmode h
  rw [returnGood_eq]
  generalize s.frameNoted k f = u at *
  obtain ⟨htrips, h15, h3, h4⟩ := judged_trips u hk (pf f 22 2) (pb f 24)
  generalize ((u.ifaceJudged k (pf f 22 2)).fltJudged k (pf f 22 2)).hardJudged k (pf f 22 2) (pb f 24) = v at *
  have hlatched := returnDrv_latched hk v f ((pf f 22 2).testBit 8)
  obtain ⟨hruns, -⟩ := returnDrv_runs hk v f ((pf f 22 2).testBit 8)
  obtain ⟨-, -, -, hread⟩ := hruns k
  obtain ⟨-, -, -, hread'⟩ := (htrips.gs k).runs
  refine ⟨?_, fun hbit hl => ?_, fun hbit hl => ?_, fun hbit hl => ?_⟩
  · rw [hread, hread', hgs, GdlStack.readings, GdlStack.read, hlink]
  · exact ((h3 hbit (hlatches 3 hl)).latched hlatched).of_before hzones
  · exact ((h4 hbit (hlatches 4 hl)).latched hlatched).of_before hzones
  · exact ((h15 hbit (hlatches 15 hl)).latched hlatched).of_before hzones

end

/-! ### A bad return frame -/

/-- A bad frame is counted. -/
def State.returnCounted (s : State) (k : Nat) : State := (s.count .gdlCrcCnt k).modGs k fun g => { g with crcRun := g.crcRun + 1 }

section
variable {s : State} {k : Nat} (hk : k < 16)
include hk

theorem returnCounted_gs : (s.returnCounted k).gs k = { s.gs k with crcRun := (s.gs k).crcRun + 1 } := State.gs_modGs_same (s.count .gdlCrcCnt k) k _ hk

theorem returnBad_tolerated (h : (s.gs k).crcRun + 1 ≤ s.lv .gdlCtrl 0 0 1 0) : s.returnBad k = s.returnCounted k := by
  have hrun : ¬ (s.returnCounted k).lv .gdlCtrl 0 0 1 0 < ((s.returnCounted k).gs k).crcRun := by
    rw [returnCounted_gs hk]
    exact Nat.not_lt.mpr h
  exact if_neg hrun

theorem returnBad_fault (h : s.lv .gdlCtrl 0 0 1 0 ≤ (s.gs k).crcRun) :
    s.returnBad k = ((s.returnCounted k).gdlTrip k 6 9 0 0).trainLink k := by
  have hrun : (s.returnCounted k).lv .gdlCtrl 0 0 1 0 < ((s.returnCounted k).gs k).crcRun := by
    rw [returnCounted_gs hk]
    exact Nat.lt_succ_of_le h
  exact if_pos hrun

omit hk in
/-- A training turns channels off, and clears nothing. -/
theorem trainLink_latched (s : State) : Latched s (s.trainLink k) := by
  have hnew : Latched s (s.trainNew k) := latched_of_parts rfl rfl
  have hoff (u : State) (at_ : Nat) : Latched u (u.beginTurnOff k at_ true) :=
    ⟨fun j c hc => by rwa [(causes_beginTurnOff k at_ true (.refl u)).causes j], gcf_beginTurnOff k at_ true (.refl u)⟩
  rw [trainLink_eq]
  exact latched_ite (hnew.trans (hoff _ _)) hnew

end

theorem execReturnFrame_good {s : State} {k : Fin 16} {f : Bytes} (hmode : s.linkMode = true) (hlink : (s.gs k).link = .trained)
    (hlen : f.length = 34) (hcrc : crc32cOk f = true) (htype : pb f 0 = 0x81) (hstack : pb f 1 = k) :
    execReturnFrame k f s = .next (s.returnGood k f) := by
  have hcond : (s.linkMode && decide ((s.gs k).link = .trained)) = true := by simp [hmode, hlink]
  have hgood : (decide (f.length = 34) && crc32cOk f && decide (pb f 0 = 0x81) && decide (pb f 1 = k.val)) = true := by
    simp [hlen, hcrc, htype, hstack]
  exact (if_pos hcond).trans (if_pos hgood)

theorem execReturnFrame_bad {s : State} {k : Fin 16} {f : Bytes} (hmode : s.linkMode = true) (hlink : (s.gs k).link = .trained)
    (hbad : f.length ≠ 34 ∨ crc32cOk f = false) : execReturnFrame k f s = .next (s.returnBad k) := by
  have hcond : (s.linkMode && decide ((s.gs k).link = .trained)) = true := by simp [hmode, hlink]
  have hnot : ¬ (decide (f.length = 34) && crc32cOk f && decide (pb f 0 = 0x81) && decide (pb f 1 = k.val)) = true := by
    rcases hbad with h | h <;> simp [h]
  exact (if_pos hcond).trans (if_neg hnot)

/-- Settles O37. -/
theorem framesCrossTheGateLinks : Obligations.FramesCrossTheGateLinks := by
  unfold Obligations.FramesCrossTheGateLinks
  refine ⟨?edge, ?load, ?pull, ?good, ?bad, ?fault⟩
  case edge =>
    intro k b half s hs hmode hconf hlink hload hsends hpub hfor
    obtain ⟨hseq, hfor', hsent⟩ := edgeSend_gs s k.isLt b half hmode
    exact ⟨_, execEdgeFrameSend_sends hmode hconf hlink hload hsends hpub hfor, hseq, edgeSend_reg s k.isLt b half hs hmode, hfor', hsent,
      edgeSend_off s k.isLt b half hmode⟩
  case load =>
    intro k s hmode hlink hrun hsends hfor hload
    refine ⟨_, execLoadSend_sends hmode hlink hrun hsends hfor hload, ?_, le_now_advanceTo s _⟩
    obtain ⟨ln, h⟩ := loadLeaves_gs (s.advanceTo (s.lastLoad k + 32 * (s.latFix - (s.reg .gdlLat k).toNat))) k.isLt (s.gs k).seq (s.lastLoad k)
    rw [h, gs_advanceTo]
  case pull =>
    intro k s hmode hlink hmask hsends
    obtain ⟨hgs, hnow, hsends', hload⟩ := pullLeaves_effect s k.isLt
    have hsends'' : (s.pullLeaves k).sendsFrames = true := hsends'.trans hsends
    have hafter (t0 : Nat) (ht0 : (s.gs k).pullLast = some t0) : t0 + 11200 ≤ (s.pullLeaves k).now :=
      hnow ▸ (pullDeparts_le ht0).trans (le_max_right _ _)
    by_cases hnone : (s.pullLeaves k).pulledPhases k &&& (s.gs k).pullMask = 0
    · refine ⟨_, execPullInFrameSend_none hmode hlink hmask hnone, ?_⟩
      beta_reduce
      rw [hgs, if_pos hnone]
      exact ⟨rfl, hafter, rfl, rfl⟩
    · refine ⟨_, execPullInFrameSend_sends hmode hlink hmask hnone hsends'', ?_⟩
      beta_reduce
      have hframe : (s.pullLeaves k).pullFrame k (s.gs k) ((s.pullLeaves k).pulledPhases k &&& (s.gs k).pullMask) =
          shortFrame 2 k ((s.pullLeaves k).pulledPhases k &&& (s.gs k).pullMask)
            (((if (s.gs k).frameFor = some (s.lastLoad k) then (s.gs k).seq else (s.gs k).seq - 1).toNat % 32) * 2 ^ 27 +
              ((s.pullLeaves k).now - s.lastLoad k) % 2 ^ 27) := by rw [State.pullFrame, hload]
      rw [hframe]
      generalize s.pullLeaves k = u at *
      have hphases (t : State) (h : t.pwm = u.pwm) : t.pulledPhases k = u.pulledPhases k := by
        unfold State.pulledPhases State.chan
        rw [h]
      generalize hbs : shortFrame 2 k (u.pulledPhases k &&& (s.gs k).pullMask)
        (((if (s.gs k).frameFor = some (s.lastLoad k) then (s.gs k).seq else (s.gs k).seq - 1).toNat % 32) * 2 ^ 27 +
          (u.now - s.lastLoad k) % 2 ^ 27) = frame
      obtain ⟨hpwm, hnow', ln, hsent⟩ := pullSent_effect u k.isLt frame
      rw [hphases _ hpwm, if_neg hnone, hnow', hsent, hgs, hbs]
      exact ⟨rfl, hafter, rfl, rfl⟩
  case good =>
    intro k f s hmode hlink hlen hcrc htype hstack
    obtain ⟨hread, h3, h4, h15⟩ := returnGood_effect s k.isLt f hmode hlink
    simp only [GdlStack.readings, Prod.mk.injEq] at hread
    obtain ⟨hcrc', hga, hflt, hhard, hlink'⟩ := hread
    exact ⟨_, execReturnFrame_good hmode hlink hlen hcrc htype hstack, hcrc', hga, hflt, hhard, hlink', h3, h4, h15⟩
  case bad =>
    intro k f s hs hmode hlink hbad hrun
    refine ⟨_, (execReturnFrame_bad hmode hlink hbad).trans (congrArg Host.Outcome.next (returnBad_tolerated k.isLt hrun)),
      returnCounted_gs k.isLt, rfl, ?_⟩
    exact (counts_count hs .gdlCrcCnt k).1
  case fault =>
    intro k f s hmode hlink hbad hrun
    refine ⟨_, (execReturnFrame_bad hmode hlink hbad).trans (congrArg Host.Outcome.next (returnBad_fault k.isLt hrun)), ?_, fun hl => ?_⟩
    · exact congrArg GdlStack.link (trainLink_gs _ k.isLt).1
    · have hlevels : Levels s (s.returnCounted k) := levels_modGs _ k.isLt _ fun _ => rfl
      exact (hlevels.tripped k.isLt (by decide) 6 0 0 hl).latched (trainLink_latched _)

end Sys2Proof.Machine
end

section
/-! The period index of an engine, I: what leaves it as it is (R25). -/

-- The proofs are elaborated one after the other: this bounds the threads of the compiler, whose stacks count as its memory.
set_option Elab.async false

namespace Sys2Proof.Machine

/-- The period index of every engine stands. -/
structure SameIdx (s t : State) : Prop where
  idx : ∀ e, (t.engN e).idx = (s.engN e).idx

/-- Every part but the engines. -/
def engFree : List Part :=
  [.free, .live, .regs, .waits, .meas, .sar, .pwm, .gdl, .trp, .saf, .clk, .nt, .eth, .cmd, .ops, .log, .sec, .stg, .acq, .dma, .dram,
    .host, .twn, .mgt]

section
variable {s0 s t : State}

theorem SameIdx.refl (s : State) : SameIdx s s := ⟨fun _ => rfl⟩

theorem SameIdx.trans {u : State} (h : SameIdx s t) (h' : SameIdx t u) : SameIdx s u := ⟨fun e => (h'.idx e).trans (h.idx e)⟩

theorem idx_of_eng (h : SameIdx s0 s) (he : t.eng = s.eng := by rfl) : SameIdx s0 t := ⟨fun e => by
  rw [State.engN, he]
  exact h.idx e⟩

theorem idx_of_only {l : List Part} (ht : Only l s t) (h : SameIdx s0 s) (hl : .eng ∉ l := by decide) : SameIdx s0 t :=
  idx_of_eng h (ht.keeps_eng hl)

theorem idx_ite {c : Prop} [Decidable c] (hs : SameIdx s0 s) (ht : SameIdx s0 t) : SameIdx s0 (if c then s else t) := holds_ite hs ht

theorem idx_forNums (xs : List Nat) {f : Nat → State → State} (hf : ∀ i u, SameIdx s0 u → SameIdx s0 (f i u)) (h : SameIdx s0 s) :
    SameIdx s0 (forNums xs f s) := holds_forNums (P := SameIdx s0) xs (fun i _ => hf i) h

theorem idx_foldl {α : Type} (xs : List α) {f : State → α → State} (hf : ∀ x u, SameIdx s0 u → SameIdx s0 (f u x)) (h : SameIdx s0 s) :
    SameIdx s0 (xs.foldl f s) := holds_foldl (P := SameIdx s0) xs (fun u x _ => hf x u) h

theorem idx_modEng (e : Nat) {f : Engine → Engine} (h : SameIdx s0 s) (hf : ∀ n, (f n).idx = n.idx := by exact fun _ => rfl) :
    SameIdx s0 (s.modEng e f) := by
  refine ⟨fun j => ?_⟩
  by_cases hj : j = e
  · subst hj
    by_cases hlt : j < 8
    · rw [State.engN_modEng_same _ _ _ hlt, hf]
      exact h.idx j
    · have hsame : (s.modEng j f).engN j = s.engN j := by simp [State.engN, State.modEng, vget, vset, hlt]
      rw [hsame]
      exact h.idx j
  · rw [State.engN_modEng_other _ _ _ _ hj]
    exact h.idx j

/-! ### Engines stop, and the device goes to another state -/

section
variable (h : SameIdx s0 s)
include h

theorem idx_waitReport (who : WaitFor) (e code detail : Nat) (at_ : DWord) (join : Nat → Nat → Nat) :
    SameIdx s0 (s.waitReport who e code detail at_ join) :=
  idx_of_only (l := engFree) (by simp +decide only [only_waitReport, Only.refl]) h

theorem idx_modTwn (f : TwnState → TwnState) : SameIdx s0 (s.modTwn f) := idx_of_eng h

theorem idx_complete (c : Src) (op : Nat) (st : Status) (d : Nat) (at_ : DWord) : SameIdx s0 (s.complete c op st d at_) :=
  idx_of_only (l := engFree) (by simp +decide only [only_complete, Only.refl]) h

theorem idx_enter (dst : OpState) (cause : Nat) : SameIdx s0 (s.enter dst cause) :=
  idx_of_only (l := engFree) (by simp +decide only [only_enter, Only.refl]) h

theorem idx_turnOffAll (one : Bool) : SameIdx s0 (s.turnOffAll one) :=
  idx_of_only (l := engFree) (by simp +decide only [only_turnOffAll, Only.refl]) h

theorem idx_dropSporeWork (e : Nat) : SameIdx s0 (s.dropSporeWork e) := by
  unfold State.dropSporeWork
  refine idx_foldl _ (fun x u hu => ?_) (idx_foldl _ (fun x u hu => idx_waitReport hu ..) (idx_modEng e h))
  split
  · exact idx_waitReport hu ..
  · exact hu

theorem idx_enginesStop : SameIdx s0 s.enginesStop :=
  idx_forNums _ (fun e _ hu => idx_modEng e (idx_dropSporeWork hu e)) h

theorem idx_haltEntered (cause : Nat) : SameIdx s0 (s.haltEntered cause) := by
  have hu := idx_enginesStop (idx_enter h .halted cause)
  obtain ⟨-, honly, -⟩ := haltPending_effect (s.enter .halted cause).enginesStop fun p => if s.startHere p then 4 else 3
  have hv := idx_of_only honly hu
  unfold State.haltEntered
  dsimp only
  generalize State.haltPending _ _ = v at hv ⊢
  exact idx_modTwn hv _

theorem idx_halt (cause : Nat) : SameIdx s0 (s.halt cause) := by
  by_cases hst : s.ops.st = .halted ∨ s.ops.st = .off
  · rw [halt_of_halted cause hst]
    exact h
  · obtain ⟨hhalted, hoff⟩ := not_or.mp hst
    rw [halt_eq hhalted hoff]
    have hdrop := idx_of_only (only_haltDrop _) (idx_of_only (only_haltDemand _) (idx_of_only (only_haltOff _) (idx_haltEntered h cause)))
    exact idx_ite (idx_of_only (only_haltCores _) hdrop) hdrop

theorem idx_engineFault (e : Nat) : SameIdx s0 (s.engineFault e) := idx_halt (idx_modEng e h) 0x21

theorem idx_dropStarts (d : Nat) : SameIdx s0 (s.dropStarts d) :=
  idx_of_only (l := engFree) (only_dropStarts s d (Only.refl _ s) (by decide) (by decide) (by decide) (by decide) (by decide)
    (by decide)) h

theorem idx_toStopping (cause : Nat) : SameIdx s0 (s.toStopping cause) :=
  idx_of_only (only_stopChannels_parts _) (idx_dropStarts (idx_enginesStop (idx_enter h .stopping cause)) 3)

theorem idx_toIdle (cause : Nat) : SameIdx s0 (s.toIdle cause) := by
  have hu := idx_dropStarts (idx_enginesStop (idx_enter h .idle cause)) 3
  unfold State.toIdle
  dsimp only
  generalize ((s.enter .idle cause).enginesStop).dropStarts 3 = u at hu
  exact idx_of_only (l := engFree) (by simp +decide only [only_forceLows, Only.refl]) hu

/-! ### What the end of a period does before the index counts -/

theorem idx_unfinished (e : Nat) : SameIdx s0 (s.unfinished e) := idx_ite (idx_engineFault h e) h

theorem idx_publishWords (e : Nat) : SameIdx s0 (s.publishWords e) := idx_modEng e h fun n => by
  by_cases hn : n.started = true <;> simp [hn]

theorem idx_refreshWork (e : Nat) : SameIdx s0 (s.refreshWork e) := by
  unfold State.refreshWork
  split
  · exact idx_ite h (idx_modEng e h)
  · exact idx_modEng e h

theorem idx_fadeFinish (e : Nat) : SameIdx s0 (s.fadeFinish e) := by
  unfold State.fadeFinish
  split
  · exact idx_ite (idx_refreshWork (idx_modEng e h) e) h
  · exact h

theorem idx_digestCheck (e : Nat) : SameIdx s0 (s.digestCheck e) := by
  unfold State.digestCheck
  dsimp only
  split
  · exact h
  · exact idx_ite (idx_engineFault (idx_forNums _ (fun i _ hu => idx_modEng i hu) h) e) h

theorem idx_periodEnd (e : Nat) : SameIdx s0 (s.periodEnd e) := by
  unfold State.periodEnd
  dsimp only
  have hp := idx_publishWords h e
  generalize s.publishWords e = u at hp
  refine idx_digestCheck (idx_fadeFinish (idx_modEng e (idx_ite ?_ hp)) e) e
  exact idx_of_only (l := engFree) (by simp +decide only [only_acqPeriod, Only.refl]) hp

theorem idx_snapTake (e : Nat) : SameIdx s0 (s.snapTake e) :=
  idx_of_only (l := [.twn]) (only_snapTake s e (Only.refl _ s) (by decide)) h

/-! ### Items of the pair -/

theorem idx_moveSpore (slot action : Nat) (take : DWord) : SameIdx s0 (s.moveSpore slot action take) :=
  idx_ite (idx_modTwn h _) (idx_forNums _ (fun e _ hu => idx_modEng e hu) h)

theorem idx_moveTake (c : Src) (take : DWord) : SameIdx s0 (s.moveTake c take) := by
  unfold State.moveTake
  dsimp only
  refine idx_of_only (l := [.stg, .ops]) (only_modOps _ (only_modStg _ (Only.refl _ _) (by decide)) (by decide)) ?_
  exact idx_forNums _ (fun e _ hu => idx_modEng e hu) h

theorem idx_itemsPeriod : SameIdx s0 s.itemsPeriod := by
  unfold State.itemsPeriod
  dsimp only
  refine idx_of_only (l := [.twn]) (only_sendItems _ _ (only_modTwn _ (Only.refl _ _) (by decide)) (by decide)) ?_
  refine idx_foldl _ (fun i _ hu => idx_ite (idx_moveSpore hu _ _ _) (idx_moveTake hu _ _)) ?_
  exact idx_of_only (l := [.regs, .twn]) (only_keepMax _ _ _ (only_modTwn _ (Only.refl _ _) (by decide)) (by decide)) h

/-! ### Resets of engines -/

theorem idx_modPrf (e c : Nat) (f : PrfChan → PrfChan) : SameIdx s0 (s.modPrf e c f) := idx_modEng e h

theorem idx_prfInit (e : Nat) : SameIdx s0 (s.prfInit e) := idx_forNums _ (fun _ _ hu => idx_modPrf hu _ _ _) h

theorem idx_engineReset (e : Nat) : SameIdx s0 (s.engineReset e) := by
  unfold State.engineReset
  dsimp only
  split
  · exact h
  · exact idx_prfInit (idx_refreshWork (idx_modEng e h) e) e

theorem idx_commitEngines : SameIdx s0 s.commitEngines :=
  idx_forNums _ (fun e _ hu => idx_ite hu (idx_ite (idx_modEng e (idx_engineReset hu e))
    (idx_modEng e (idx_dropSporeWork hu e)))) h

end

end

end Sys2Proof.Machine
end

section
/-! The period index of an engine, II: commits, spores, what a period takes up, and the states of the device leave it as it is (R25). -/

-- The proofs are elaborated one after the other: this bounds the threads of the compiler, whose stacks count as its memory.
set_option Elab.async false

namespace Sys2Proof.Machine

section
variable {s0 s : State}

section
variable (h : SameIdx s0 s)
include h

/-! ### Commits -/

theorem idx_safUpdate : SameIdx s0 s.safUpdate := by
  have hj : SameIdx s0 s.safJudge := idx_of_only (l := [.saf]) (only_safJudge s (Only.refl _ s) (by decide)) h
  unfold State.safUpdate
  dsimp only
  generalize s.safJudge = u at hj
  refine idx_ite ?_ (idx_ite (idx_turnOffAll hj _) hj)
  split
  · exact idx_toStopping hj 4
  · exact idx_turnOffAll (idx_toIdle hj 4) _
  · exact idx_turnOffAll hj _

theorem idx_modPair (k : Nat) (f : SafPair → SafPair) : SameIdx s0 (s.modPair k f) :=
  idx_of_only (l := [.saf]) (only_modPair s k f (Only.refl _ s) (by decide)) h

theorem idx_demandPair (k : Nat) (old new : Bool × Bool) : SameIdx s0 (s.demandPair k old new) := by
  have hm := idx_modPair h k (s.pairDemands k old new)
  unfold State.demandPair
  dsimp only
  generalize s.modPair k (s.pairDemands k old new) = u at hm
  refine idx_safUpdate (idx_ite ?_ hm)
  exact idx_of_only (l := engFree) (by simp +decide only [only_demandBegins, Only.refl]) hm

theorem idx_safTakeSet : SameIdx s0 s.safTakeSet := by
  unfold State.safTakeSet
  extract_lets w set_ crc was u begun v
  have hu : SameIdx s0 u := idx_of_eng h
  have hv : SameIdx s0 v := idx_ite (idx_of_eng hu) hu
  exact idx_forNums _ (fun k t ht => idx_ite (idx_demandPair ht k _ _) (idx_safUpdate (idx_modPair ht k _))) hv

theorem idx_blocksCommitted : SameIdx s0 s.blocksCommitted := by
  unfold State.blocksCommitted
  extract_lets old u v w x y
  have hv : SameIdx s0 v := idx_forNums _ (fun e t ht => idx_modEng e ht) (idx_of_eng h)
  have hw : SameIdx s0 w := idx_of_only (l := engFree) (by simp +decide only [w, only_commitDec, Only.refl]) hv
  have hx : SameIdx s0 x := idx_forNums _ (fun t u hu =>
    idx_of_only (l := [.pwm]) (only_tbCommit u t (Only.refl _ u) (by decide)) hu) hw
  have hy : SameIdx s0 y := idx_of_only (l := engFree) (by simp +decide only [y, only_clkCommit, Only.refl]) hx
  exact idx_of_only (l := engFree) (by simp +decide only [only_tripsStanding, only_commitStacks, Only.refl]) (idx_commitEngines hy)

theorem idx_commitEnds (old : RegFile) (nt : DWord) : SameIdx s0 (s.commitEnds old nt) := by
  unfold State.commitEnds
  extract_lets u v w
  have hu : SameIdx s0 u := idx_ite (idx_safTakeSet h) h
  have hv : SameIdx s0 v := idx_of_eng hu
  exact idx_of_only (l := engFree)
    (by simp (maxDischargeDepth := 20) +decide only [w, only_modStg, only_rhizomeCommit, only_countWrap, Only.refl]) hv

theorem idx_applyStage (nt : DWord) : SameIdx s0 (s.applyStage nt) := by
  rw [applyStage_parted]
  exact idx_commitEnds (idx_blocksCommitted h) s.live nt

theorem idx_tryApply (nt : DWord) (own : Bool) (addr cap : Nat) : SameIdx s0 (s.tryApply nt own addr cap).1 := by
  unfold State.tryApply
  split
  · exact h
  · split
    · exact idx_applyStage h nt
    · rename_i st fails _
      have hm : Only engFree s ((if fails = [] then s else s.reportFails own fails addr cap).modStg fun g => { g with st := .failed }) :=
        only_modStg _ (only_ite (Only.refl _ s) (only_reportFails s own fails addr cap (Only.refl _ s) (by decide) (by decide))) (by decide)
      exact idx_ite (idx_of_only (only_busyStop _ hm (by decide)) h) (idx_of_only hm h)

theorem idx_commitOnly (p : PendCommit) (nt : DWord) : SameIdx s0 (s.commitOnly p nt) := by
  unfold State.commitOnly
  extract_lets u
  have hu : SameIdx s0 u := idx_of_eng h
  exact idx_complete (idx_tryApply hu _ _ _ _) _ _ _ _ _

/-! ### Spores -/

theorem idx_sporeDone (d : DueSlot) (st : Status) (detail : Nat) : SameIdx s0 (s.sporeDone d st detail) :=
  idx_of_only (l := engFree) (by simp +decide only [only_sporeDone, Only.refl]) h

theorem idx_sporeApply (d : DueSlot) : SameIdx s0 (s.sporeApply d).1 := by
  unfold State.sporeApply
  extract_lets unchecked fails u
  have hu : SameIdx s0 u :=
    idx_ite (idx_of_only (l := engFree) (by simp +decide only [only_reportFails, Only.refl]) h) h
  split
  · exact idx_of_eng hu
  · have ht := idx_tryApply hu u.ntFine false 0 0
    exact idx_ite (idx_of_only (l := [.twn]) (only_sporeSee _ d (Only.refl _ _) (by decide)) ht) ht

theorem idx_sporeCommit (d : DueSlot) : SameIdx s0 (s.sporeCommit d) := by
  unfold State.sporeCommit
  extract_lets u
  have hu : SameIdx s0 u := idx_foldl _ (fun p v hv => idx_commitOnly hv p _) h
  exact idx_sporeDone (idx_sporeApply hu d) _ _ _

theorem idx_sporeWork (d : DueSlot) (at_ : Nat) (nt : DWord) (take : Option DWord) : SameIdx s0 (s.sporeWork d at_ nt take) := by
  unfold State.sporeWork
  extract_lets a mask u
  have hu : SameIdx s0 u := idx_forNums _ (fun e v hv => idx_modEng e hv fun n => by
    by_cases ha : d.spore.action = 2 <;> simp [ha]) h
  exact idx_of_only (l := [.waits]) (only_waitStart _ _ _ (Only.refl _ _) (by decide)) hu

theorem idx_sporeGraph (d : DueSlot) : SameIdx s0 (s.sporeGraph d) :=
  idx_ite (idx_sporeDone h d _ _) (idx_ite h
    (idx_sporeWork (idx_of_only (l := [.twn]) (only_mirror s _ _ _ _ (Only.refl _ s) (by decide)) h) d _ _ _))

theorem idx_runSpore (d : DueSlot) : SameIdx s0 (s.runSpore d) := by
  unfold State.runSpore
  dsimp only
  split
  · exact idx_sporeCommit h d
  · refine idx_sporeDone (idx_of_only (l := engFree) (only_acqTrigMask _ _ _ _ _ ?_ (by decide) (by decide) (by decide)) h) d _ _
    exact only_ite (only_ptmAsk _ _ _ _ _ (Only.refl _ s) (by decide) (by decide)) (Only.refl _ s)
  · exact idx_ite h (idx_ite (idx_sporeDone h d _ _) (idx_modTwn h _))
  · exact idx_sporeDone (idx_of_only (l := engFree) (by simp +decide only [only_setSlotOfs, Only.refl]) h) d _ _
  · exact idx_sporeGraph h d

theorem idx_batchesFirst (acceptAt : Nat) : SameIdx s0 (s.batchesFirst acceptAt) := by
  unfold State.batchesFirst
  extract_lets n
  exact idx_foldl _ (fun b u hu => idx_foldl _ (fun d v hv => idx_runSpore hv d) hu) (idx_of_eng h)

theorem idx_commitNow (p : PendCommit) (nt : DWord) : SameIdx s0 (s.commitNow p nt) :=
  have hb := idx_batchesFirst h p.acceptAt
  idx_ite (idx_commitOnly hb p nt) hb

theorem idx_commitsAt (e : Nat) : SameIdx s0 (s.commitsAt e) := idx_foldl _ (fun p _ hu => idx_commitNow hu p _) h

/-! ### Stop requests, and what an engine sees -/

theorem idx_templateStop (e : Nat) : SameIdx s0 (s.templateStop e) := by
  unfold State.templateStop
  split
  · rename_i cause _
    have hm : SameIdx s0 (s.modGfm e fun g => { g with stopReq := none }) := idx_modEng e h
    exact idx_ite (idx_toStopping hm cause) hm
  · exact h

theorem idx_takeSeen (e : Nat) : SameIdx s0 (s.takeSeen e) := idx_modEng e h

theorem idx_prfHold (e : Nat) : SameIdx s0 (s.prfHold e) := by
  refine idx_forNums _ (fun c u hu => idx_ite hu ?_) h
  exact idx_of_only (l := [.regs]) (only_prfFlag _ e c 1 (Only.refl _ _) (by decide)) (idx_modPrf hu e c _)

/-! ### What a period takes up -/

theorem idx_prfPreset (e : Nat) : SameIdx s0 (s.prfPreset e) := by
  refine idx_forNums _ (fun c u hu => idx_modPrf ?_ e c _) h
  exact idx_of_only (l := [.regs]) (only_prfTarget u e c _ (Only.refl _ u) (by decide)) hu

theorem idx_fadeStep (e : Nat) : SameIdx s0 (s.fadeStep e) := by
  unfold State.fadeStep
  split
  · exact idx_modEng e h
  · exact h

theorem idx_prfClearStart (e : Nat) : SameIdx s0 (s.prfClearStart e) := idx_forNums _ (fun c _ hu => idx_modPrf hu e c _) h

theorem idx_prfStart (e c : Nat) (w : Word) : SameIdx s0 (s.prfStart e c w) := by
  have hu : SameIdx s0 (s.prfTarget e c w).2 := idx_of_only (l := [.regs]) (only_prfTarget s e c w (Only.refl _ s) (by decide)) h
  unfold State.prfStart
  dsimp only
  generalize (s.prfTarget e c w).2 = u at hu ⊢
  refine idx_ite h (idx_ite (idx_ite (idx_modPrf hu e c _) ?_) (idx_modPrf hu e c _))
  exact idx_of_only (l := [.regs]) (only_setReg _ _ _ _ (Only.refl _ _) (by decide)) (idx_modPrf hu e c _)

theorem idx_satReadClear (e : Nat) (m : MboxEntry) : SameIdx s0 (s.satReadClear e m) := by
  unfold State.satReadClear
  dsimp only
  refine idx_waitReport (idx_modEng e (idx_ite h ?_)) _ _ _ _ _ _
  exact idx_of_only (l := [.host]) (only_hostWrite _ _ (Only.refl _ s) (by decide)) h

theorem idx_takeEntry (e : Nat) (m : MboxEntry) : SameIdx s0 (s.takeEntry e m) := by
  unfold State.takeEntry
  dsimp only
  split
  · exact idx_waitReport (idx_forNums _ (fun c _ hu => idx_prfStart hu e c _) h) _ _ _ _ _ _
  · exact idx_ite (idx_waitReport h _ _ _ _ _ _) (idx_waitReport (idx_modEng e h) _ _ _ _ _ _)
  · exact idx_waitReport (idx_modEng e h) _ _ _ _ _ _
  · exact idx_waitReport (idx_prfStart h e _ _) _ _ _ _ _ _
  · exact idx_satReadClear h e m
  · exact idx_modEng e h

theorem idx_takeWork (e : Nat) : SameIdx s0 (s.takeWork e) := by
  unfold State.takeWork
  extract_lets n due starts u v
  have hv : SameIdx s0 v :=
    idx_foldl _ (fun x w hw => idx_waitReport (idx_prfStart hw e _ _) _ _ _ _ _ _) (idx_modEng e h)
  exact idx_foldl _ (fun m w hw => idx_takeEntry hw e m) (idx_modEng e hv)

theorem idx_swapReport (e : Nat) (x : SwapReq) (st : Status) (d : Nat) : SameIdx s0 (s.swapReport e x st d) :=
  idx_of_only (l := engFree) (by simp +decide only [only_swapReport, Only.refl]) h

theorem idx_swapOne (e : Nat) (x : SwapReq) (taken : Bool) : SameIdx s0 (s.swapOne e x taken).1 := by
  unfold State.swapOne
  dsimp only
  split
  · exact idx_swapReport h e x _ _
  · split
    · exact idx_swapReport h e x _ _
    · exact idx_swapReport (idx_modEng e h) e x _ _

theorem idx_swaps (e : Nat) (xs : List SwapReq) (taken : Bool) : SameIdx s0 (s.swaps e xs taken) := by
  induction xs generalizing s taken with
  | nil => exact h
  | cons x xs ih => exact ih (idx_swapOne h e x taken) _

theorem idx_oscAct (e i : Nat) (busy : Bool) : SameIdx s0 (s.oscAct e i busy) := by
  unfold State.oscAct
  extract_lets o u v act w nt x y z
  have hy : SameIdx s0 y := idx_of_only (l := engFree)
    (by simp (maxDischargeDepth := 20) +decide only [y, x, w, v, u, only_ptmAsk, only_acqOffer, only_note, only_count, only_setFlag,
      only_setReg, Only.refl]) h
  have hz : SameIdx s0 z := idx_modEng e hy
  exact idx_ite (idx_forNums _ (fun k t ht => idx_of_only (l := engFree) (by simp +decide only [only_latch, Only.refl]) ht) hz) hz

theorem idx_takeSwaps (e : Nat) : SameIdx s0 (s.takeSwaps e) := by
  unfold State.takeSwaps
  extract_lets n det ask isDue due u isSpore
  have hu : SameIdx s0 u := idx_modEng e h
  have hasked : SameIdx s0 (if ask = true then
      u.swapOne e { who := .osc, bank := true, len := u.lv .frdOscCtrl e 0 28 16, at_ := u.now } false else (u, false, false)).1 := by
    split
    · exact idx_swapOne hu e _ _
    · exact hu
  split
  rename_i v acc busy heq
  rw [heq] at hasked
  dsimp only
  refine idx_foldl _ (fun i w hw => idx_oscAct hw e i _) (idx_ite ?_ (idx_swaps hasked e _ _))
  exact idx_of_only (l := [.regs]) (only_count _ _ _ (Only.refl _ _) (by decide)) (idx_swaps hasked e _ _)

theorem idx_latchFrame (e : Nat) (nt : DWord) (half : Bool) : SameIdx s0 (s.latchFrame e nt half) := by
  unfold State.latchFrame
  dsimp only
  exact idx_modEng e (idx_ite (idx_modTwn h _) h)

theorem idx_prfStep (e : Nat) : SameIdx s0 (s.prfStep e) := by
  refine idx_forNums _ (fun c u hu => ?_) h
  dsimp only
  have hm := idx_modPrf hu e c fun _ => ((vget (u.engN e).prf c {}).step (u.prfLim e c)).1
  generalize u.modPrf e c _ = v at hm ⊢
  have hflag (t : State) (n : Nat) (ht : SameIdx s0 t) : SameIdx s0 (t.prfFlag e c n) :=
    idx_of_only (l := [.regs]) (only_prfFlag t e c n (Only.refl _ t) (by decide)) ht
  have hflags := idx_ite (c := ((vget (u.engN e).prf c {}).step (u.prfLim e c)).2.posClamp = true) (hflag v 1 hm) hm
  have hover := idx_ite (c := ((vget (u.engN e).prf c {}).step (u.prfLim e c)).2.overshoot = true) (hflag _ 0 hflags) hflags
  split
  · exact idx_of_only (l := [.regs]) (only_setReg _ _ _ _ (Only.refl _ _) (by decide)) hover
  · exact hover

theorem idx_boundaryB (t : Nat) (half : Bool) (e : Nat) : SameIdx s0 (s.boundaryB t half e) := by
  unfold State.boundaryB
  extract_lets run n u v w x y z a b
  have hu : SameIdx s0 u := idx_ite (idx_modEng e h) h
  have hv : SameIdx s0 v := idx_ite (idx_modEng e (idx_prfPreset hu e)) hu
  have hy : SameIdx s0 y := idx_takeSwaps (idx_takeWork (idx_prfClearStart (idx_fadeStep hv e) e) e) e
  have hz : SameIdx s0 z := idx_latchFrame hy e _ _
  have ha : SameIdx s0 a := idx_ite (idx_prfStep hz e) hz
  exact idx_modEng e (idx_forNums _ (fun k c hc => idx_of_eng hc) ha)

/-! ### Stops and starts of the device -/

theorem idx_stopNow (p : PendOp) (nt : DWord) : SameIdx s0 (s.stopNow p nt) := by
  unfold State.stopNow
  extract_lets u
  have hu : SameIdx s0 u := idx_of_eng h
  split
  · exact idx_complete (idx_toStopping hu _) _ _ _ _ _
  · exact idx_complete (idx_toIdle hu _) _ _ _ _ _
  · exact idx_complete hu _ _ _ _ _

theorem idx_enterRunning (cause : Nat) : SameIdx s0 (s.enterRunning cause) := by
  unfold State.enterRunning
  extract_lets u es
  have hu : SameIdx s0 u := idx_enter h _ _
  exact idx_of_only (l := engFree) (only_forceAtEntry _ (Only.refl _ _) (by decide) (by decide) (by decide) (by decide))
    (idx_forNums _ (fun e _ hv => idx_modEng e hv) hu)

theorem idx_startNow (p : PendOp) (nt : DWord) : SameIdx s0 (s.startNow p nt) := by
  unfold State.startNow
  extract_lets u
  have hu : SameIdx s0 u := idx_of_eng h
  split
  · exact idx_complete (idx_enterRunning hu _) _ _ _ _ _
  · exact idx_complete hu _ _ _ _ _
  · exact idx_of_only (l := engFree) (by simp +decide only [only_refuse, Only.refl]) hu

theorem idx_opsAt (es : List Nat) : SameIdx s0 (s.opsAt es) :=
  idx_foldl _ (fun p _ hu => idx_startNow hu p _) (idx_foldl _ (fun p _ hu => idx_stopNow hu p _) h)

end

end

end Sys2Proof.Machine
end

section
/-! The period index of an engine, III: a load point counts it on for the engines that its timebase leads (R25, R182). -/

-- The proofs are elaborated one after the other: this bounds the threads of the compiler, whose stacks count as its memory.
set_option Elab.async false

namespace Sys2Proof.Machine

/-! ### A boundary -/

theorem periodBegin_idx_same {s : State} {e : Nat} (he : e < 8) (nt : DWord) : ((s.periodBegin e nt).engN e).idx = (s.engN e).idx + 1 := by
  rw [State.periodBegin, State.engN_modEng_same _ _ _ he]

theorem periodBegin_idx_other {s : State} {i e : Nat} (h : e ≠ i) (nt : DWord) : ((s.periodBegin i nt).engN e).idx = (s.engN e).idx := by
  rw [State.periodBegin, State.engN_modEng_other _ _ _ _ h]

/-- The periods of a list of engines end and begin. -/
def State.periodsTurn (s : State) (es : List Nat) (nt : DWord) : State :=
  forNums es (fun e s => ((s.periodEnd e).snapTake e).periodBegin e nt) s

theorem periodsTurn_idx {s : State} {es : List Nat} (hnd : es.Nodup) {e : Nat} (he : e < 8) (nt : DWord) :
    ((s.periodsTurn es nt).engN e).idx = (s.engN e).idx + if e ∈ es then 1 else 0 := by
  have hended (i : Nat) (u : State) : (((u.periodEnd i).snapTake i).engN e).idx = (u.engN e).idx :=
    (idx_snapTake (idx_periodEnd (.refl u) i) i).idx e
  have hother (v : DWord) (i : Nat) (hi : e ≠ i) (u : State) (hu : (u.engN e).idx = v) :
      ((((u.periodEnd i).snapTake i).periodBegin i nt).engN e).idx = v := by
    rw [periodBegin_idx_other hi, hended, hu]
  by_cases hmem : e ∈ es
  · rw [if_pos hmem]
    refine forNums_once (P := fun u => (u.engN e).idx = (s.engN e).idx) (Q := fun u => (u.engN e).idx = (s.engN e).idx + 1)
      (n := e) (fun i _ hi u hu => hother _ i (Ne.symm hi) u hu) (fun u hu => ?_) (fun i _ hi u hu => hother _ i (Ne.symm hi) u hu) hnd hmem rfl
    rw [periodBegin_idx_same he, hended, hu]
  · simp only [if_neg hmem, BitVec.ofNat_eq_ofNat, BitVec.add_zero]
    exact holds_forNums (P := fun u => (u.engN e).idx = (s.engN e).idx) es
      (fun i hi u hu => hother _ i (fun heq => hmem (heq ▸ hi)) u hu) rfl

theorem boundaryA_idx {s : State} {es : List Nat} (hnd : es.Nodup) {e : Nat} (he : e < 8) (nt : DWord) :
    ((s.boundaryA es nt).engN e).idx = (s.engN e).idx + if e ∈ es then 1 else 0 := by
  unfold State.boundaryA
  extract_lets u v w x y z a b
  have htwin : SameIdx s u := by
    refine idx_of_only (l := engFree) ?_ (.refl s)
    simp +decide only [u, only_resyncLine, only_twinMissing, Only.refl]
  have hv : SameIdx s v := idx_ite (idx_modTwn htwin _) (.refl s)
  have hw : SameIdx s w := idx_forNums _ (fun i _ hu => idx_unfinished hu i) hv
  have hx : (x.engN e).idx = (w.engN e).idx + if e ∈ es then 1 else 0 := periodsTurn_idx hnd he nt
  have hlate : SameIdx x x.itemsLate :=
    idx_of_only (l := [.regs, .twn]) (only_itemsLate x (Only.refl _ x) (by decide) (by decide)) (.refl x)
  have hy : SameIdx x y := idx_ite (idx_itemsPeriod hlate) (.refl x)
  have hz : SameIdx x z := idx_forNums _ (fun i _ hu => idx_commitsAt hu i) hy
  have ha : SameIdx x a := idx_forNums _ (fun i _ hu => idx_templateStop hu i) hz
  have hb : SameIdx x b := idx_forNums _ (fun i _ hu => idx_refreshWork (idx_prfHold (idx_takeSeen hu i) i) i) ha
  rw [(idx_ite (idx_modTwn hb _) hb).idx e, hx, hw.idx e]

/-! ### A load point -/

/-- The engines that a timebase leads, the reference engine first. -/
def State.ledBy (s : State) (t : Nat) : List Nat :=
  let lead := (List.range 8).filter fun e => s.leadTb e = t
  lead.filter (· = s.refEng) ++ lead.filter (· ≠ s.refEng)

theorem mem_ledBy {s : State} {t e : Nat} : e ∈ s.ledBy t ↔ e < 8 ∧ s.leadTb e = t := by
  simp only [State.ledBy, List.mem_append, List.mem_filter, List.mem_range, decide_eq_true_eq, ne_eq, ← and_or_left]
  exact and_iff_left (em _)

theorem nodup_ledBy (s : State) (t : Nat) : (s.ledBy t).Nodup := by
  have hlead : ((List.range 8).filter fun e => s.leadTb e = t).Nodup := List.nodup_range.filter _
  refine List.Nodup.append (hlead.filter _) (hlead.filter _) fun e he he' => ?_
  have heq : e = s.refEng := by simpa using (List.mem_filter.mp he).2
  have hne : e ≠ s.refEng := by simpa using (List.mem_filter.mp he').2
  exact hne heq

/-- What a timebase does with its own state at a load point. -/
def KeepsEngines (f : State → State) : Prop := ∀ u, Only [.regs, .meas, .pwm, .gdl, .trp] u (f u)

theorem loadAt_idx {s : State} {t : Nat} {zero : State → State} (hzero : KeepsEngines zero) {e : Nat} (he : e < 8) (half : Bool) (nt : DWord) :
    ((s.loadAt t half nt zero).engN e).idx = (s.engN e).idx + if s.leadTb e = t then 1 else 0 := by
  have hA := boundaryA_idx (s := s) (nodup_ledBy s t) he nt
  simp only [mem_ledBy, he, true_and] at hA
  have hrest : SameIdx (s.boundaryA (s.ledBy t) nt) (s.loadAt t half nt zero) := by
    unfold State.loadAt
    extract_lets lead es u v w x y
    change SameIdx u _
    have hv : SameIdx u v := idx_of_only (hzero u) (.refl u)
    have hw : SameIdx u w :=
      idx_of_only (l := engFree) (by simp +decide only [w, only_stackLoad, Only.refl]) hv
    have hx : SameIdx u x := idx_of_only (l := [.regs, .sar]) (only_sarAtLoad w t half (Only.refl _ w) (by decide) (by decide)) hw
    have hy : SameIdx u y := idx_forNums _ (fun i _ hu => idx_boundaryB hu t half i) hx
    exact idx_ite (idx_of_only (l := engFree) (by simp +decide only [only_tbStop, Only.refl]) (.refl u)) (idx_opsAt hy _)
  rw [hrest.idx e, hA]

/-- Every part but time. -/
def timeless : List Part := .eng :: engFree

theorem loadAt_now {s : State} {t : Nat} {zero : State → State} (hzero : KeepsEngines zero) (half : Bool) (nt : DWord) :
    (s.loadAt t half nt zero).now = s.now := by
  have honly : Only timeless s (s.loadAt t half nt zero) := by
    refine only_loadAt s t half nt zero (Only.refl _ s) (by decide) (by decide) (by decide) (by decide) (by decide) (by decide) (by decide)
      (by decide) (by decide) (by decide) (by decide) (by decide) (by decide) (by decide) (by decide) (by decide) (by decide) (by decide)
      (by decide) (by decide) (by decide) (by decide) (by decide) (by decide) (by decide) fun u hu => ?_
    exact hu.trans ((hzero u).mono (by decide)) fun p hp => hp
  exact honly.keeps_now

/-- What a timebase does at its own zero or half-period. -/
def State.zeroTaken (t : Nat) (half : Bool) (s : State) : State :=
  if half then s.modTb t fun b => { b with half := true } else (forNums (stackChans t) (fun n s => s.tailEdges n) s).tbZero t

theorem zeroTaken_keeps (t : Nat) (half : Bool) : KeepsEngines (State.zeroTaken t half) := fun u => by
  refine only_ite (only_modTb _ _ (Only.refl _ u) (by decide)) ?_
  refine only_tbZero _ t (only_forNums _ _ (fun n v hv => ?_) (Only.refl _ u)) (by decide) (by decide) (by decide) (by decide)
  exact only_tailEdges v n hv (by decide) (by decide) (by decide) (by decide)

theorem tbStart_keeps (t : Nat) (nt : Option DWord) : KeepsEngines fun s => s.tbStart t nt := fun u =>
  only_tbStart u t nt (Only.refl _ u) (by decide) (by decide) (by decide) (by decide)

/-! ### The two commands -/

/-- A load point as one step from the instant on. -/
def State.loadPoint (s : State) (t : Nat) (half : Bool) : State :=
  let u := s.advanceTo (s.nextLoad t).1
  u.loadAt t half u.ntFine (State.zeroTaken t half)

/-- A first zero as one step from the instant on. -/
def State.firstZero (s : State) (t at_ : Nat) (nt : Option DWord) : State :=
  let u := s.advanceTo at_
  u.loadAt t false (nt.getD u.ntFine) fun s => s.tbStart t nt

theorem execLoadPoint_due {t : Fin 16} {half : Bool} {s : State} (hctl : s.ctlRuns = true) (hrun : (s.tb t).run = .running)
    (hhalf : (s.nextLoad t).2 = half) : exec (.loadPoint t half) s = .next (s.loadPoint t half) := by
  change execLoadPoint t half s = _
  have hdue : (s.ctlRuns && decide ((s.tb t).run = .running) && (s.nextLoad t).2 == half) = true := by simp [hctl, hrun, hhalf]
  rw [execLoadPoint]
  dsimp only
  rw [if_pos hdue]
  rfl

theorem execTimebaseFirstZero_due {t : Fin 16} {at_ : Nat} {nt : Option DWord} {s : State} (hctl : s.ctlRuns = true)
    (hrun : (s.tb t).run = .waiting) (hz : s.firstZeroAt t = some (at_, nt)) :
    exec (.timebaseFirstZero t) s = .next (s.firstZero t at_ nt) := by
  change execTimebaseFirstZero t s = _
  rw [execTimebaseFirstZero, hrun, hz]
  dsimp only
  rw [if_pos hctl]
  rfl

theorem leadTb_advanceTo (s : State) (n e : Nat) : (s.advanceTo n).leadTb e = s.leadTb e := by
  have hlive : (s.advanceTo n).live = s.live := by simp only [advanceTo_fields]
  rw [State.leadTb, State.leadTb, State.lv, State.lv, hlive]

theorem engN_advanceTo (s : State) (n e : Nat) : (s.advanceTo n).engN e = s.engN e := by
  have heng : (s.advanceTo n).eng = s.eng := by simp only [advanceTo_fields]
  rw [State.engN, State.engN, heng]

theorem loadPoint_idx (s : State) (t : Nat) (half : Bool) {e : Nat} (he : e < 8) :
    ((s.loadPoint t half).engN e).idx = (s.engN e).idx + if s.leadTb e = t then 1 else 0 := by
  rw [State.loadPoint, loadAt_idx (zeroTaken_keeps t half) he, leadTb_advanceTo, engN_advanceTo]

theorem firstZero_idx (s : State) (t at_ : Nat) (nt : Option DWord) {e : Nat} (he : e < 8) :
    ((s.firstZero t at_ nt).engN e).idx = (s.engN e).idx + if s.leadTb e = t then 1 else 0 := by
  rw [State.firstZero, loadAt_idx (tbStart_keeps t nt) he, leadTb_advanceTo, engN_advanceTo]

theorem loadPoint_now (s : State) (t : Nat) (half : Bool) : (s.nextLoad t).1 ≤ (s.loadPoint t half).now := by
  rw [State.loadPoint, loadAt_now (zeroTaken_keeps t half)]
  exact le_now_advanceTo s _

theorem firstZero_now (s : State) (t at_ : Nat) (nt : Option DWord) : at_ ≤ (s.firstZero t at_ nt).now := by
  rw [State.firstZero, loadAt_now (tbStart_keeps t nt)]
  exact le_now_advanceTo s at_

end Sys2Proof.Machine
end

section
/-! The timebases stand through trips, turn-offs, loads of channels, and stops and starts of the device (R182, R184). -/

-- The proofs are elaborated one after the other: this bounds the threads of the compiler, whose stacks count as its memory.
set_option Elab.async false

namespace Sys2Proof.Machine

/-- Every timebase stands. -/
structure SameTbs (s t : State) : Prop where
  tbs : t.pwm.tbs = s.pwm.tbs

/-- Every part but the one that holds timebases and channels. -/
def pwmFree : List Part :=
  [.free, .live, .regs, .eng, .waits, .meas, .sar, .gdl, .trp, .saf, .clk, .nt, .eth, .cmd, .ops, .log, .sec, .stg, .acq, .dma, .dram,
    .host, .twn, .mgt]

section
variable {s0 s t : State}

theorem SameTbs.refl (s : State) : SameTbs s s := ⟨rfl⟩

theorem SameTbs.trans {u : State} (h : SameTbs s t) (h' : SameTbs t u) : SameTbs s u := ⟨h'.tbs.trans h.tbs⟩

theorem SameTbs.tb (h : SameTbs s t) (k : Nat) : t.tb k = s.tb k := by rw [State.tb, State.tb, h.tbs]

theorem tbs_of_tbs (h : SameTbs s0 s) (ht : t.pwm.tbs = s.pwm.tbs := by rfl) : SameTbs s0 t := ⟨ht.trans h.tbs⟩

theorem tbs_of_only {l : List Part} (ht : Only l s t) (h : SameTbs s0 s) (hl : .pwm ∉ l := by decide) : SameTbs s0 t :=
  tbs_of_tbs h (by rw [ht.keeps_pwm hl])

theorem tbs_ite {c : Prop} [Decidable c] (hs : SameTbs s0 s) (ht : SameTbs s0 t) : SameTbs s0 (if c then s else t) := holds_ite hs ht

theorem tbs_forNums (xs : List Nat) {f : Nat → State → State} (hf : ∀ i u, SameTbs s0 u → SameTbs s0 (f i u)) (h : SameTbs s0 s) :
    SameTbs s0 (forNums xs f s) := holds_forNums (P := SameTbs s0) xs (fun i _ => hf i) h

theorem tbs_foldl {α : Type} (xs : List α) {f : State → α → State} (hf : ∀ x u, SameTbs s0 u → SameTbs s0 (f u x)) (h : SameTbs s0 s) :
    SameTbs s0 (xs.foldl f s) := holds_foldl (P := SameTbs s0) xs (fun u x _ => hf x u) h

section
variable (h : SameTbs s0 s)
include h

theorem tbs_modChan (n : Nat) (f : Chan → Chan) : SameTbs s0 (s.modChan n f) := tbs_of_tbs h
theorem tbs_modZone (k : Nat) (f : Zone → Zone) : SameTbs s0 (s.modZone k f) := tbs_of_tbs h
theorem tbs_modGs (k : Nat) (f : GdlStack → GdlStack) : SameTbs s0 (s.modGs k f) := tbs_of_tbs h
theorem tbs_modTwn (f : TwnState → TwnState) : SameTbs s0 (s.modTwn f) := tbs_of_tbs h
theorem tbs_modEng (e : Nat) (f : Engine → Engine) : SameTbs s0 (s.modEng e f) := tbs_of_tbs h
theorem tbs_count (r : Reg) (i n : Nat) : SameTbs s0 (s.count r i n) := tbs_of_tbs h
theorem tbs_setReg (r : Reg) (i j : Nat) (v : DWord) : SameTbs s0 (s.setReg r i j v) := tbs_of_tbs h

/-! ### What turns channels off -/

theorem tbs_gcFall (n at_ : Nat) : SameTbs s0 (s.gcFall n at_) := tbs_ite (tbs_modChan h n _) h

theorem tbs_chanOff (n at_ : Nat) : SameTbs s0 (s.chanOff n at_) := tbs_gcFall (tbs_modChan h n _) n at_

theorem tbs_askRise (n at_ : Nat) : SameTbs s0 (s.askRise n at_) := by
  unfold State.askRise
  simp (maxDischargeDepth := 20) only [tbs_ite, tbs_modChan, tbs_modGs, tbs_modZone, h]

theorem tbs_endOverlap (n at_ : Nat) : SameTbs s0 (s.endOverlap n at_) := by
  have h' : SameTbs s0 { s with pwm := { s.pwm with overlap := vset s.pwm.overlap (pairOf n) false } } := tbs_of_tbs h
  unfold State.endOverlap
  simp (maxDischargeDepth := 20) only [tbs_ite, tbs_askRise, tbs_count, tbs_modChan, h']

theorem tbs_lvlOff (n at_ : Nat) : SameTbs s0 (s.lvlOff n at_) :=
  have h' := tbs_chanOff (tbs_modChan h n fun c => { c with lvl := false, cut := false }) n at_
  tbs_ite (tbs_endOverlap h' n at_) h'

theorem tbs_forceLow (n at_ : Nat) : SameTbs s0 (s.forceLow n at_) := tbs_lvlOff (tbs_modChan h n _) n at_

theorem tbs_turnOffChan (n at_ : Nat) (one : Bool) : SameTbs s0 (s.turnOffChan n at_ one) := by
  unfold State.turnOffChan State.innerLater
  simp (maxDischargeDepth := 20) only [tbs_ite, tbs_modChan, tbs_forceLow, tbs_gcFall, h]

theorem tbs_beginTurnOff (k at_ : Nat) (one : Bool) : SameTbs s0 (s.beginTurnOff k at_ one) :=
  tbs_forNums _ (fun n _ hu => tbs_turnOffChan hu n at_ one) h

theorem tbs_sendTrip (k : Nat) : SameTbs s0 (s.sendTrip k) := tbs_of_only (only_sendTrip s k (Only.refl [.gdl] s) (by decide)) h

theorem tbs_turnOffAll (one : Bool) : SameTbs s0 (s.turnOffAll one) :=
  tbs_forNums _ (fun k _ hu => tbs_sendTrip hu k) (tbs_forNums _ (fun k _ hu => tbs_beginTurnOff hu k _ one) h)

theorem tbs_overlapsGone (off : Nat → Bool) (l : List Nat) : SameTbs s0 (s.overlapsGone off l) :=
  tbs_forNums _ (fun _ _ hu => tbs_of_tbs hu) h

theorem tbs_forceLows (l : List Nat) (at_ : Nat) : SameTbs s0 (s.forceLows l at_) :=
  tbs_forNums _ (fun n _ hu => tbs_forceLow hu n at_) (tbs_overlapsGone h _ l)

theorem tbs_expectOff : SameTbs s0 s.expectOff :=
  tbs_ite (tbs_forNums _ (fun n _ hu => tbs_modChan hu n _) h) (tbs_forNums _ (fun n _ hu => tbs_modChan hu n _) h)

theorem tbs_stopChannels : SameTbs s0 s.stopChannels :=
  tbs_forceLows (tbs_forNums _ (fun n _ hu => tbs_modChan hu n _) (tbs_expectOff (tbs_turnOffAll h true))) _ _

/-! ### A cause -/

theorem tbs_tripTold (k : Nat) (nt : DWord) : SameTbs s0 (s.tripTold k nt) := by
  have hended : Only [.gdl, .regs] (s.sendTrip k) ((s.sendTrip k).testEnded k) := by
    unfold State.testEnded
    exact only_ite (Only.refl _ _) (only_setRegN _ _ _ _ (only_modGs _ _ (Only.refl _ _) (by decide)) (by decide))
  have hset : SameTbs s0 (((s.sendTrip k).testEnded k).setReg .trpFirstNt k 0 nt) :=
    tbs_setReg (tbs_of_only hended (tbs_sendTrip h k)) _ _ _ _
  unfold State.tripTold
  dsimp only
  generalize ((s.sendTrip k).testEnded k).setReg .trpFirstNt k 0 nt = u at *
  have hoffer := tbs_of_only (l := [.regs, .nt, .acq])
    (only_acqOffer u 2 nt (2 ^ k) (fun i => u.acqSel i k) (Only.refl _ u) (by decide) (by decide) (by decide)) hset
  exact tbs_of_only (l := [.regs, .nt]) (only_ptmAsk _ 0 nt (2 ^ k) false (Only.refl _ _) (by decide) (by decide)) hoffer

theorem tbs_firstTrip (k at_ : Nat) (nt : DWord) : SameTbs s0 (s.firstTrip k at_ nt) :=
  tbs_tripTold (tbs_beginTurnOff (tbs_modZone h k _) k at_ false) k nt

theorem tbs_latchOne (k cause source phase delay : Nat) : SameTbs s0 (s.latchOne k cause source phase delay) := by
  have hv : SameTbs s0 (s.sourceNoted k cause source) := tbs_ite (tbs_modZone h _ _) (tbs_ite (tbs_modZone h _ _) h)
  rw [latchOne_eq]
  dsimp only
  generalize s.sourceNoted k cause source = v at *
  have hm : SameTbs s0 (v.causeMarked k cause (ctlTick v.now)) := tbs_modZone hv k _
  have hw := tbs_of_only (l := [.trp, .regs, .log]) (only_tripRecord _ (v.tripClockAt (ctlTick v.now) + BitVec.ofNat 64 delay) k
    (3 * k + phase) cause source (decide ((s.zone k).causes = 0)) (Only.refl _ _) (by decide) (by decide) (by decide)) hm
  exact tbs_ite hv (tbs_ite (tbs_firstTrip hw _ _ _) hw)

theorem tbs_latch (k cause source phase : Nat) : SameTbs s0 (s.latch k cause source phase) := by
  have hone := tbs_latchOne h k cause source phase 0
  have hdraw (u : State) (hu : SameTbs s0 u) : SameTbs s0 u.draw.2 := tbs_of_tbs hu
  unfold State.latch
  refine tbs_ite h (tbs_ite (tbs_modTwn h _) (tbs_ite ?_ hone))
  exact tbs_forNums _ (fun i u hu => tbs_latchOne (hdraw u hu) _ _ _ _ _) hone

theorem tbs_gdlTrip (k bit cause source phase : Nat) : SameTbs s0 (s.gdlTrip k bit cause source phase) := by
  have hflag : Only [.regs, .log] s ((s.setFlag .gdlFault k bit).logFlag 11 bit ((s.setFlag .gdlFault k bit).reg .gdlFault k)) :=
    only_logFlag _ _ _ _ (only_setFlag _ _ _ (Only.refl _ s) (by decide)) (by decide) (by decide)
  exact tbs_ite h (tbs_latch (tbs_of_only hflag h) k cause source phase)

/-! ### Tests and clears -/

theorem tbs_fltStanding (k : Nat) : SameTbs s0 (s.fltStanding k) := tbs_ite (tbs_gdlTrip h _ _ _ _ _) h

theorem tbs_ostGuard (k : Nat) : SameTbs s0 (s.ostGuard k) := by
  have hend (u : State) (hu : SameTbs s0 u) : SameTbs s0 u.ostComplete := tbs_of_only (l := [.regs, .gdl, .cmd, .host, .twn, .mgt])
    (only_ostComplete u (Only.refl _ u) (by decide) (by decide) (by decide) (by decide) (by decide) (by decide)) hu
  unfold State.ostGuard State.ostAbort
  simp (maxDischargeDepth := 20) only [tbs_ite, tbs_modGs, tbs_fltStanding, hend, h]

theorem tbs_clearZone (k : Nat) : SameTbs s0 (s.clearZone k) := tbs_ostGuard (tbs_modZone h k (s.zoneCleared k)) k

theorem tbs_applyClear (mask ok : Nat) : SameTbs s0 (s.applyClear mask ok) :=
  tbs_forNums _ (fun k _ hu => tbs_count hu _ k _) (tbs_forNums _ (fun k _ hu => tbs_clearZone hu k) h)

theorem tbs_endJoint (r : ClearReq) (ok : Nat) : SameTbs s0 (s.endJoint r ok) := by
  have ha := tbs_applyClear h (r.mask.toNat &&& ok) (s.stillClear r ok)
  unfold State.endJoint
  dsimp only
  generalize s.applyClear (r.mask.toNat &&& ok) (s.stillClear r ok) = u at ha
  refine tbs_of_only (l := pwmFree) ?_ ha
  simp (maxDischargeDepth := 20) +decide only [only_finishClear, only_endClear, Only.refl]

theorem tbs_twinMissing : SameTbs s0 s.twinMissing := by
  unfold State.twinMissing
  dsimp only
  have hm : SameTbs s0 (s.modTwn fun t => { t with twinLate := true, alone := true, equalRun := 0 }).notReady := tbs_of_tbs h
  refine tbs_ite (tbs_ite (tbs_foldl _ (fun r _ hu => ?_) hm) hm) h
  exact tbs_endJoint hu r _

/-! ### The states of the device -/

theorem tbs_enter (dst : OpState) (cause : Nat) : SameTbs s0 (s.enter dst cause) :=
  tbs_of_only (l := pwmFree) (by simp +decide only [only_enter, Only.refl]) h

theorem tbs_enginesStop : SameTbs s0 s.enginesStop := tbs_of_only (only_enginesStop_parts s) h

theorem tbs_dropStarts (d : Nat) : SameTbs s0 (s.dropStarts d) := tbs_of_only (only_dropStartsIf_parts s fun _ => d) h

theorem tbs_complete (c : Src) (op : Nat) (st : Status) (d : Nat) (at_ : DWord) : SameTbs s0 (s.complete c op st d at_) :=
  tbs_of_only (l := pwmFree) (by simp +decide only [only_complete, Only.refl]) h

theorem tbs_haltOff : SameTbs s0 s.haltOff := by
  unfold State.haltOff
  refine tbs_forNums _ (fun k _ hu => tbs_ostGuard hu k) ?_
  unfold State.haltOutputs
  dsimp only
  exact tbs_ite (tbs_ite (tbs_modTwn h _) (tbs_ite h (tbs_modTwn (tbs_forNums _ (fun n _ hu => tbs_modChan hu n _) h) _))) (tbs_stopChannels h)

theorem tbs_halt (cause : Nat) : SameTbs s0 (s.halt cause) := by
  by_cases hst : s.ops.st = .halted ∨ s.ops.st = .off
  · rw [halt_of_halted cause hst]
    exact h
  · obtain ⟨hhalted, hoff⟩ := not_or.mp hst
    rw [halt_eq hhalted hoff]
    have hentered := tbs_of_only (haltEntered_effect s cause).1 h
    have hdrop := tbs_of_only (only_haltDrop _) (tbs_of_only (only_haltDemand _) (tbs_haltOff hentered))
    exact tbs_ite (tbs_of_only (only_haltCores _) hdrop) hdrop

theorem tbs_engineFault (e : Nat) : SameTbs s0 (s.engineFault e) := tbs_halt (tbs_modEng h e _) 0x21

theorem tbs_toStopping (cause : Nat) : SameTbs s0 (s.toStopping cause) :=
  tbs_stopChannels (tbs_dropStarts (tbs_enginesStop (tbs_enter h .stopping cause)) 3)

theorem tbs_toIdle (cause : Nat) : SameTbs s0 (s.toIdle cause) :=
  tbs_forceLows (tbs_dropStarts (tbs_enginesStop (tbs_enter h .idle cause)) 3) _ _

/-! ### Loads of channels -/

theorem tbs_riseAgain (n at_ : Nat) : SameTbs s0 (s.riseAgain n at_) := tbs_ite (tbs_askRise h n at_) h

theorem tbs_beginOverlap (n at_ : Nat) : SameTbs s0 (s.beginOverlap n at_) := by
  unfold State.beginOverlap
  dsimp only
  have hu : SameTbs s0 { s with pwm := { s.pwm with overlap := vset s.pwm.overlap (pairOf n) true } } := tbs_of_tbs h
  have hboth := tbs_chanOff (tbs_chanOff hu n at_) (partner n) at_
  exact tbs_of_only (l := [.regs]) (only_count _ _ _ (only_setFlag _ _ _ (Only.refl _ _) (by decide)) (by decide)) hboth

theorem tbs_lvlOn (n at_ : Nat) : SameTbs s0 (s.lvlOn n at_) :=
  have h' := tbs_modChan h n fun c => { c with lvl := true }
  tbs_ite (tbs_beginOverlap h' n at_) (tbs_askRise h' n at_)

theorem tbs_loadLevel (n : Nat) : SameTbs s0 (s.loadLevel n) := by
  unfold State.loadLevel
  extract_lets u c v w
  have hu : SameTbs s0 u := tbs_ite (tbs_lvlOff h n _) h
  have hv : SameTbs s0 v := tbs_ite (tbs_modChan (tbs_forceLow hu n _) n _) hu
  have hw : SameTbs s0 w := tbs_modChan hv n _
  refine tbs_ite hu (tbs_ite (tbs_ite (tbs_forceLow hu n _) (tbs_modChan hu n _)) ?_)
  split
  · exact tbs_ite (tbs_lvlOff (tbs_modChan hw n _) n _) (tbs_modChan hw n _)
  · exact tbs_ite (tbs_riseAgain (tbs_modChan hw n _) n _) (tbs_lvlOn (tbs_modChan hw n _) n _)
  · exact hw

theorem tbs_loadList (l : List Nat) (ofs : Nat) : SameTbs s0 (s.loadList l ofs) :=
  tbs_forNums _ (fun n _ hu => tbs_loadLevel hu n) (tbs_forNums _ (fun n _ hu => tbs_of_tbs hu) (tbs_overlapsGone h _ l))

theorem tbs_stackBack (k : Nat) : SameTbs s0 (s.stackBack k) := by
  refine tbs_forNums _ (fun n _ hu => ?_) h
  exact tbs_ite (tbs_modGs (tbs_modChan (tbs_riseAgain hu n _) n _) _ _) (tbs_riseAgain hu n _)

/-! ### Pull-ins at a load point -/

theorem tbs_pullFlag (k : Nat) (acts : Bool) : SameTbs s0 (s.pullFlag k acts) :=
  tbs_of_only (l := pwmFree) (by simp +decide only [only_pullFlag, Only.refl]) h

theorem tbs_pullEdges (k mask : Nat) : SameTbs s0 (s.pullEdges k mask) := tbs_of_tbs h (pullEdges_tbs s k mask)

theorem tbs_pullIn (c : Nat) : SameTbs s0 (s.pullIn c) := by
  unfold State.pullIn
  extract_lets k phases u v
  have hu : SameTbs s0 u := tbs_modZone h k _
  have hv : SameTbs s0 v := by
    refine tbs_ite hu (tbs_ite ?_ (tbs_pullEdges (tbs_pullFlag hu k _) k phases))
    exact tbs_of_only (only_askPullFrame _ k phases (Only.refl [.gdl] _) (by decide)) (tbs_pullFlag hu k _)
  exact tbs_ite (tbs_latch hv k _ _ _) hv

theorem tbs_pullInterval (k : Nat) : SameTbs s0 (s.pullInterval k) :=
  tbs_forNums _ (fun c _ hu => tbs_pullIn hu c) (tbs_modGs (tbs_modZone h k _) k _)

theorem tbs_stackLoad (t : Nat) (half : Bool) (ofs : Nat) : SameTbs s0 (s.stackLoad t half ofs) := by
  unfold State.stackLoad
  extract_lets back u off v w
  have hu : SameTbs s0 u := tbs_ite (tbs_modZone h t _) h
  have hv : SameTbs s0 v := tbs_loadList (tbs_forNums _ (fun n _ hx => tbs_turnOffChan hx n _ true) hu) _ ofs
  have hw : SameTbs s0 w := tbs_ite (tbs_stackBack hv t) hv
  exact tbs_of_tbs (tbs_pullInterval hw t)

/-! ### Stops and starts of the device -/

theorem tbs_stopNow (p : PendOp) (nt : DWord) : SameTbs s0 (s.stopNow p nt) := by
  unfold State.stopNow
  extract_lets u
  have hu : SameTbs s0 u := tbs_of_tbs h
  split
  · exact tbs_complete (tbs_toStopping hu _) _ _ _ _ _
  · exact tbs_complete (tbs_toIdle hu _) _ _ _ _ _
  · exact tbs_complete hu _ _ _ _ _

theorem tbs_enterRunning (cause : Nat) : SameTbs s0 (s.enterRunning cause) := by
  unfold State.enterRunning
  extract_lets u es
  have hu : SameTbs s0 u := tbs_enter h _ _
  exact tbs_forNums _ (fun k _ hv => tbs_loadList hv _ _) (tbs_forNums _ (fun e _ hv => tbs_modEng hv e _) hu)

theorem tbs_startNow (p : PendOp) (nt : DWord) : SameTbs s0 (s.startNow p nt) := by
  unfold State.startNow
  extract_lets u
  have hu : SameTbs s0 u := tbs_of_tbs h
  split
  · exact tbs_complete (tbs_enterRunning hu _) _ _ _ _ _
  · exact tbs_complete hu _ _ _ _ _
  · exact tbs_of_only (l := pwmFree) (by simp +decide only [only_refuse, Only.refl]) hu

theorem tbs_opsAt (es : List Nat) : SameTbs s0 (s.opsAt es) :=
  tbs_foldl _ (fun p _ hu => tbs_startNow hu p _) (tbs_foldl _ (fun p _ hu => tbs_stopNow hu p _) h)

/-! ### Boundaries -/

theorem tbs_unfinished (e : Nat) : SameTbs s0 (s.unfinished e) := tbs_ite (tbs_engineFault h e) h

theorem tbs_digestCheck (e : Nat) : SameTbs s0 (s.digestCheck e) := by
  unfold State.digestCheck
  dsimp only
  split
  · exact h
  · exact tbs_ite (tbs_engineFault (tbs_forNums _ (fun i _ hu => tbs_modEng hu i _) h) e) h

theorem tbs_templateStop (e : Nat) : SameTbs s0 (s.templateStop e) := by
  unfold State.templateStop
  split
  · rename_i cause _
    have hm : SameTbs s0 (s.modGfm e fun g => { g with stopReq := none }) := tbs_modEng h e _
    exact tbs_ite (tbs_toStopping hm cause) hm
  · exact h

theorem tbs_oscAct (e i : Nat) (busy : Bool) : SameTbs s0 (s.oscAct e i busy) := by
  unfold State.oscAct
  extract_lets o u v act w nt x y z
  have hz : SameTbs s0 z := tbs_of_only (l := pwmFree) (by
    simp (maxDischargeDepth := 20) +decide only [z, y, x, w, v, u, only_modOsc, only_ptmAsk, only_acqOffer, only_note, only_count, only_setFlag,
      only_setReg, Only.refl]) h
  exact tbs_ite (tbs_forNums _ (fun k t ht => tbs_latch ht k _ _ _) hz) hz

end

end

end Sys2Proof.Machine
end

section
/-! A boundary leaves the timebases as they are where no commit applies at it (R182, R369). -/

-- The proofs are elaborated one after the other: this bounds the threads of the compiler, whose stacks count as its memory.
set_option Elab.async false

namespace Sys2Proof.Machine

/-! ### No commit comes up -/

/-- No commit waits for its instant. -/
structure Uncommitted (s : State) : Prop where
  pendings : s.stg.pendings = []

section
variable {s t : State}

theorem uncommitted_of_stg (h : Uncommitted s) (ht : t.stg = s.stg := by rfl) : Uncommitted t := ⟨by rw [ht, h.pendings]⟩

theorem uncommitted_of_only {l : List Part} (ht : Only l s t) (h : Uncommitted s) (hl : .stg ∉ l := by decide) : Uncommitted t :=
  uncommitted_of_stg h (ht.keeps_stg hl)

theorem uncommitted_halt (h : Uncommitted s) (cause : Nat) : Uncommitted (s.halt cause) := by
  by_cases hst : s.ops.st = .halted ∨ s.ops.st = .off
  · rw [halt_of_halted cause hst]
    exact h
  · obtain ⟨hhalted, hoff⟩ := not_or.mp hst
    rw [halt_eq hhalted hoff]
    have hdrop : Uncommitted (((s.haltEntered cause).haltOff).haltDemand.haltDrop) := ⟨(haltDrop_pending _).1⟩
    exact holds_ite (uncommitted_of_only (only_haltCores _) hdrop) hdrop

theorem uncommitted_engineFault (h : Uncommitted s) (e : Nat) : Uncommitted (s.engineFault e) :=
  uncommitted_halt (s := s.modEng e fun n => { n with fault := true }) (uncommitted_of_stg h) 0x21

theorem uncommitted_unfinished (h : Uncommitted s) (e : Nat) : Uncommitted (s.unfinished e) := holds_ite (uncommitted_engineFault h e) h

theorem uncommitted_digestCheck (h : Uncommitted s) (e : Nat) : Uncommitted (s.digestCheck e) := by
  unfold State.digestCheck
  dsimp only
  split
  · exact h
  · refine holds_ite (uncommitted_engineFault ?_ e) h
    exact holds_forNums (P := Uncommitted) _ (fun i _ _ hu => uncommitted_of_stg hu) h

/-- The end of a period, before its digests are compared. -/
def State.periodSummed (s : State) (e : Nat) : State :=
  let n := s.engN e
  let s := s.publishWords e
  let s := if n.started then s.acqPeriod e n.ntB fun i => lget n.signals i 0 else s
  let s := s.modEng e fun n => { n with lastDone := !s.inPeriod e || s.twn.resync || (n.started && n.published && n.complete) }
  s.fadeFinish e

theorem periodEnd_summed (s : State) (e : Nat) : s.periodEnd e = (s.periodSummed e).digestCheck e := rfl

theorem only_periodSummed (s : State) (e : Nat) : Only [.eng, .regs, .nt, .acq, .dram] s (s.periodSummed e) := by
  unfold State.periodSummed
  dsimp only
  refine only_fadeFinish _ e (only_modEng _ _ (only_ite ?_ ?_) (by decide)) (by decide)
  · exact only_acqPeriod _ e _ _ (only_publishWords s e (Only.refl _ s) (by decide)) (by decide) (by decide) (by decide) (by decide)
  · exact only_publishWords s e (Only.refl _ s) (by decide)

/-- The period of an engine turns: it ends, its snapshot is taken, and the next one begins. -/
def State.periodTurns (s : State) (e : Nat) (nt : DWord) : State := ((s.periodEnd e).snapTake e).periodBegin e nt

theorem only_snapBegin (s : State) (e : Nat) (nt : DWord) : Only [.eng, .twn] s ((s.snapTake e).periodBegin e nt) :=
  only_modEng _ _ (only_snapTake s e (Only.refl _ s) (by decide)) (by decide)

theorem uncommitted_periodTurns (h : Uncommitted s) (e : Nat) (nt : DWord) : Uncommitted (s.periodTurns e nt) := by
  unfold State.periodTurns
  rw [periodEnd_summed]
  exact uncommitted_of_only (only_snapBegin _ e nt) (uncommitted_digestCheck (uncommitted_of_only (only_periodSummed s e) h) e)

theorem uncommitted_moveTake (h : Uncommitted s) (c : Src) (take : DWord) : Uncommitted (s.moveTake c take) := by
  have hforNums (f : Nat → State → State) (hf : ∀ i u, Only [.eng] u (f i u)) : (forNums (List.range 8) f s).stg.pendings = [] :=
    holds_forNums (P := fun u => u.stg.pendings = []) _ (fun i _ u hu => by rw [(hf i u).keeps_stg, hu]) h.pendings
  refine ⟨?_⟩
  have hin := hforNums (fun e s => s.modEng e fun n => { n with
    inbox := n.inbox.map fun m => if sameSrc m.src c then { m with takeIdx := m.takeIdx.map fun _ => take } else m })
    fun i u => only_modEng _ _ (Only.refl _ u) (by decide)
  simp only [State.moveTake, State.modOps_fields, State.modStg, hin, List.map_nil]

theorem uncommitted_itemsPeriod (h : Uncommitted s) : Uncommitted s.itemsPeriod := by
  unfold State.itemsPeriod
  dsimp only
  refine uncommitted_of_only (l := [.twn]) (only_sendItems _ _ (only_modTwn _ (Only.refl _ _) (by decide)) (by decide)) ?_
  refine holds_foldl (P := Uncommitted) _ (fun u i _ hu => holds_ite ?_ (uncommitted_moveTake hu _ _)) ?_
  · exact uncommitted_of_only (l := [.eng, .twn]) (only_moveSpore u _ _ _ (Only.refl _ u) (by decide) (by decide)) hu
  · exact uncommitted_of_only (l := [.regs, .twn]) (only_keepMax _ _ _ (only_modTwn _ (Only.refl _ _) (by decide)) (by decide)) h

theorem commitsAt_none (h : Uncommitted s) (e : Nat) : s.commitsAt e = s := by
  rw [State.commitsAt, h.pendings]
  rfl

end

/-! ### The timebases at a boundary -/

section
variable {s0 s : State}

theorem tbs_periodTurns (h : SameTbs s0 s) (e : Nat) (nt : DWord) : SameTbs s0 (s.periodTurns e nt) := by
  unfold State.periodTurns
  rw [periodEnd_summed]
  exact tbs_of_only (only_snapBegin _ e nt) (tbs_digestCheck (tbs_of_only (only_periodSummed s e) h) e)

theorem tbs_seen (h : SameTbs s0 s) (e : Nat) : SameTbs s0 (((s.takeSeen e).prfHold e).refreshWork e) := by
  refine tbs_of_only (l := [.regs, .eng]) (only_refreshWork _ e (only_prfHold _ e ?_ (by decide) (by decide)) (by decide)) h
  exact only_takeSeen s e (Only.refl _ s) (by decide)

/-- Without a commit a boundary leaves the timebases as they are. -/
theorem boundaryA_tbs {es : List Nat} (hc : es = [] ∨ s.stg.pendings = []) (nt : DWord) : SameTbs s (s.boundaryA es nt) := by
  unfold State.boundaryA
  extract_lets u v w x y z a b
  have htwin : SameTbs s u := by
    refine tbs_of_only (l := [.twn]) (only_resyncLine _ (Only.refl _ _) (by decide)) (tbs_twinMissing (.refl s))
  have hv : SameTbs s v := tbs_ite (tbs_modTwn htwin _) (.refl s)
  have hw : SameTbs s w := tbs_forNums _ (fun i _ hu => tbs_unfinished hu i) hv
  have hx : SameTbs s x := tbs_forNums _ (fun i _ hu => tbs_periodTurns hu i nt) hw
  have hlate : SameTbs s x.itemsLate.itemsPeriod := by
    refine tbs_of_only (l := [.regs, .eng, .ops, .stg, .twn]) ?_ hx
    simp (maxDischargeDepth := 20) +decide only [only_itemsPeriod, only_itemsLate, Only.refl]
  have hy : SameTbs s y := tbs_ite hlate hx
  have hz : SameTbs s z := by
    rcases hc with rfl | hnone
    · exact hy
    · have hstg (u : State) (h : Only [.free, .regs, .pwm, .gdl, .trp, .nt, .cmd, .log, .acq, .host, .twn, .mgt] s u) : Uncommitted u :=
        uncommitted_of_only h ⟨hnone⟩
      have huncu : Uncommitted u := hstg _ (by
        simp (maxDischargeDepth := 20) +decide only [u, only_resyncLine, only_twinMissing, Only.refl])
      have huncv : Uncommitted v := holds_ite (uncommitted_of_stg huncu) ⟨hnone⟩
      have huncw : Uncommitted w := holds_forNums (P := Uncommitted) _ (fun i _ _ hu => uncommitted_unfinished hu i) huncv
      have huncx : Uncommitted x := holds_forNums (P := Uncommitted) _ (fun i _ _ hu => uncommitted_periodTurns hu i nt) huncw
      have huncl : Uncommitted x.itemsLate :=
        uncommitted_of_only (only_itemsLate x (Only.refl [.regs, .twn] x) (by decide) (by decide)) huncx
      have huncy : Uncommitted y := holds_ite (uncommitted_itemsPeriod huncl) huncx
      have hkept : SameTbs s z ∧ Uncommitted z := holds_forNums (P := fun u => SameTbs s u ∧ Uncommitted u) _
        (fun i _ u hu => by rw [commitsAt_none hu.2]; exact hu) ⟨hy, huncy⟩
      exact hkept.1
  have ha : SameTbs s a := tbs_forNums _ (fun i _ hu => tbs_templateStop hu i) hz
  have hb : SameTbs s b := tbs_forNums _ (fun i _ hu => tbs_seen hu i) ha
  exact tbs_ite (tbs_modTwn hb _) hb

theorem tbs_takeSwaps (h : SameTbs s0 s) (e : Nat) : SameTbs s0 (s.takeSwaps e) := by
  unfold State.takeSwaps
  extract_lets n det ask isDue due u isSpore
  have hu : SameTbs s0 u := tbs_modEng h e _
  have hasked : SameTbs s0 (if ask = true then
      u.swapOne e { who := .osc, bank := true, len := u.lv .frdOscCtrl e 0 28 16, at_ := u.now } false else (u, false, false)).1 := by
    split
    · exact tbs_of_only (l := pwmFree) (by simp +decide only [only_swapOne, Only.refl]) hu
    · exact hu
  split
  rename_i v acc busy heq
  rw [heq] at hasked
  dsimp only
  have hswaps : SameTbs s0 (v.swaps e (due.filter isSpore ++ due.filter fun x => !isSpore x) acc) :=
    tbs_of_only (l := pwmFree) (by simp +decide only [only_swaps, Only.refl]) hasked
  exact tbs_foldl _ (fun i w hw => tbs_oscAct hw e i _) (tbs_ite (tbs_count hswaps _ _ _) hswaps)

theorem boundaryB_tbs (h : SameTbs s0 s) (t : Nat) (half : Bool) (e : Nat) : SameTbs s0 (s.boundaryB t half e) := by
  unfold State.boundaryB
  extract_lets run n u v w x y z a b
  have hu : SameTbs s0 u := tbs_ite (tbs_modEng h e _) h
  have hv : SameTbs s0 v := by
    refine tbs_ite (tbs_modEng ?_ e _) hu
    exact tbs_of_only (only_prfPreset u e (Only.refl [.regs, .eng] u) (by decide) (by decide)) hu
  have hx : SameTbs s0 x := by
    refine tbs_of_only (l := [.eng]) ?_ hv
    simp (maxDischargeDepth := 20) +decide only [x, w, only_prfClearStart, only_fadeStep, Only.refl]
  have hy : SameTbs s0 y := tbs_takeSwaps (tbs_of_only (l := pwmFree) (by simp +decide only [only_takeWork, Only.refl]) hx) e
  have hz : SameTbs s0 z := tbs_of_only (only_latchFrame y e _ _ (Only.refl [.eng, .twn] y) (by decide) (by decide)) hy
  have ha : SameTbs s0 a := tbs_ite (tbs_of_only (only_prfStep z e (Only.refl [.regs, .eng] z) (by decide) (by decide)) hz) hz
  exact tbs_modEng (tbs_forNums _ (fun k _ hc => tbs_modZone hc k _) ha) e _

end

end Sys2Proof.Machine
end

section
/-! Load points and first zeros (R25, R182, R184, R195). -/

-- The proofs are elaborated one after the other: this bounds the threads of the compiler, whose stacks count as its memory.
set_option Elab.async false

namespace Sys2Proof.Machine

/-! ### The zero of a timebase -/

/-- A timebase runs on as it did, from the same zero, in the same half of its period. -/
structure TbCore (t : Nat) (s u : State) : Prop where
  run : (u.tb t).run = (s.tb t).run
  half : (u.tb t).half = (s.tb t).half
  zeroAt : (u.tb t).zeroAt = (s.tb t).zeroAt

section
variable {t : Nat} {s0 s u : State}

theorem TbCore.refl (s : State) : TbCore t s s := ⟨rfl, rfl, rfl⟩

theorem core_of_tb (h : TbCore t s0 s) (hu : u.tb t = s.tb t := by rfl) : TbCore t s0 u :=
  ⟨by rw [hu, h.run], by rw [hu, h.half], by rw [hu, h.zeroAt]⟩

theorem core_of_only {l : List Part} (hu : Only l s u) (h : TbCore t s0 s) (hl : .pwm ∉ l := by decide) : TbCore t s0 u :=
  core_of_tb h (by rw [State.tb, State.tb, hu.keeps_pwm hl])

theorem core_ite {c : Prop} [Decidable c] (hs : TbCore t s0 s) (hu : TbCore t s0 u) : TbCore t s0 (if c then s else u) := holds_ite hs hu

theorem core_modTb (k : Nat) {f : Timebase → Timebase} (h : TbCore t s0 s)
    (hf : ∀ b, (f b).run = b.run ∧ (f b).half = b.half ∧ (f b).zeroAt = b.zeroAt := by exact fun _ => ⟨rfl, rfl, rfl⟩) :
    TbCore t s0 (s.modTb k f) := by
  by_cases hk : t = k
  · subst hk
    by_cases hlt : t < 16
    · obtain ⟨hrun, hhalf, hzero⟩ := hf (s.tb t)
      have hsame := State.tb_modTb_same (s := s) t f hlt
      exact ⟨by rw [hsame, hrun, h.run], by rw [hsame, hhalf, h.half], by rw [hsame, hzero, h.zeroAt]⟩
    · exact core_of_tb h (by simp [State.tb, State.modTb, vget, vset, hlt])
  · exact core_of_tb h (State.tb_modTb_other _ _ _ _ hk)

section
variable (h : TbCore t s0 s)
include h

theorem core_tbSettings (k : Nat) : TbCore t s0 (s.tbSettings k) := core_modTb k h

theorem core_realign (k : Nat) (units : Int) : TbCore t s0 (s.realign k units) := core_modTb k h

theorem core_slotError (k : Nat) : TbCore t s0 (s.slotError k).2 := by
  unfold State.slotError
  dsimp only
  exact core_modTb k h

theorem core_ntZero (k : Nat) (busy fresh : Bool) (moved : Option Int) : TbCore t s0 (s.ntZero k busy fresh moved) := by
  have he := core_slotError h k
  unfold State.ntZero
  dsimp only
  generalize (s.slotError k).2 = v at he ⊢
  split
  · exact core_realign he k _
  · exact core_ite (core_ite (core_realign he k _) he) (core_ite (core_modTb k he)
      (core_ite (core_ite (core_realign he k _) (core_modTb k he)) (core_modTb k he)))

theorem core_follow (k src : Nat) (delta : Int) : TbCore t s0 (s.follow k src delta) := by
  unfold State.follow
  extract_lets b v d out w
  have hv : TbCore t s0 v := core_ite h (core_modTb k h)
  have hw : TbCore t s0 w := core_modTb k hv
  exact core_ite (core_ite (core_realign hw k d) hw) h

theorem core_dumpAlign : TbCore t s0 s.dumpAlign :=
  core_of_only (only_dumpAlign s (Only.refl [.regs, .meas] s) (by decide) (by decide)) h

theorem core_setTripClock (v : DWord) (byZero : Bool) : TbCore t s0 (s.setTripClock v byZero) :=
  core_of_only (only_setTripClock s v byZero (Only.refl [.trp] s) (by decide)) h

theorem core_count (r : Reg) (i n : Nat) : TbCore t s0 (s.count r i n) := core_of_tb h

/-- SYNC_OUT goes high at a zero of its timebase. -/
theorem core_syncOut (b : Bool) :
    TbCore t s0 (if b = true then { s with pwm := { s.pwm with syncOut := true, syncOutAt := s.now } } else s) :=
  core_ite (core_of_tb h) h

end

/-- A zero is taken at this instant. -/
def State.zeroMarked (s : State) (t : Nat) : State := s.modTb t fun b => { b with zeroAt := s.now, zeroNt := s.ntFine, half := false }

theorem tbZero_core (s : State) (t : Nat) : TbCore t (s.zeroMarked t) (s.tbZero t) := by
  unfold State.tbZero
  extract_lets old u v w x b isNt same slotDelta slotMoved delta begins y z a c pwm
  have hu : TbCore t (s.zeroMarked t) u := .refl u
  have hv : TbCore t (s.zeroMarked t) v := core_modTb t (core_count hu _ _ _)
  have hw : TbCore t (s.zeroMarked t) w := core_ite (core_ite (core_dumpAlign hv) hv) hu
  have hx : TbCore t (s.zeroMarked t) x := core_ite (core_tbSettings hw t) hw
  have hy : TbCore t (s.zeroMarked t) y := core_modTb t hx
  have hz : TbCore t (s.zeroMarked t) z := core_ite (core_ntZero hy _ _ _ _) hy
  have ha : TbCore t (s.zeroMarked t) a := core_ite (core_follow hz _ _ _) hz
  have hc : TbCore t (s.zeroMarked t) c := core_ite (core_setTripClock ha _ _) ha
  exact core_syncOut hc _

/-- A timebase runs from this instant on. -/
def State.runMarked (s : State) (t : Nat) (nt : Option DWord) : State :=
  (s.tbSettings t).modTb t fun b => { b with
    run := .running, zeroAt := (s.tbSettings t).now, zeroNt := nt.getD (s.tbSettings t).ntFine, half := false, len := 32 * b.prd
    nextDelta := none, aligning := false, realigning := false, outRun := 0, slotErr := false, inSync := true, phErr := 0
    slotSeen := (s.tbSettings t).slotOfs, stopPend := false }

theorem tbStart_core (s : State) (t : Nat) (nt : Option DWord) : TbCore t (s.runMarked t nt) (s.tbStart t nt) := by
  unfold State.tbStart
  extract_lets u v w x pwm
  have hv : TbCore t (s.runMarked t nt) v := .refl v
  have hw : TbCore t (s.runMarked t nt) w := core_ite (core_dumpAlign (core_setTripClock hv _ _)) hv
  have hx : TbCore t (s.runMarked t nt) x := core_ite (core_follow hw _ _ _) hw
  exact core_syncOut hx _

end

/-! ### The channels of a timebase that stops -/

theorem forceLow_quiet {n : Nat} (hn : n < 192) (s : State) (at_ : Nat) :
    ((s.forceLow n at_).chan n).req = false ∧ ((s.forceLow n at_).chan n).gc = false := by
  obtain ⟨gcAt, offAt, gaOff, diffAt, ackDue, heq⟩ := lvlOff_chan (s.modChan n fun c => { c with
    req := false, dueA := false, dueB := false, openAt := none, dropped := false, hold := true, force := none }) n at_ hn
  rw [State.forceLow, heq, State.chan_modChan_same _ _ _ hn]
  exact ⟨rfl, rfl⟩

theorem forceLow_quiet_other {n m : Nat} (hm : m < 192) (h : n ≠ m) {s : State} (at_ : Nat)
    (hs : (s.chan n).req = false ∧ (s.chan n).gc = false) :
    ((s.forceLow m at_).chan n).req = false ∧ ((s.forceLow m at_).chan n).gc = false := by
  have heq : ((s.forceLow m at_).chan n).kept = (s.chan n).kept := by
    rw [State.forceLow, kept_lvlOff_other _ _ _ hm h, State.chan_modChan_other _ _ _ _ h]
  obtain ⟨hreq, hgc⟩ := hs
  have hreq' := congrArg Chan.req heq
  have hgc' := congrArg Chan.gc heq
  exact ⟨hreq'.trans hreq, hgc'.trans hgc⟩

theorem forceLows_quiet {l : List Nat} (hl : ∀ m ∈ l, m < 192) {n : Nat} (hn : n ∈ l) (s : State) (at_ : Nat) :
    ((s.forceLows l at_).chan n).req = false ∧ ((s.forceLows l at_).chan n).gc = false := by
  refine forNums_reaches (P := fun u => (u.chan n).req = false ∧ (u.chan n).gc = false) hn (fun u => forceLow_quiet (hl n hn) u at_)
    fun m hm u hu => ?_
  by_cases h : n = m
  · subst h
    exact forceLow_quiet (hl n hn) u at_
  · exact forceLow_quiet_other (hl m hm) h at_ hu

/-- R195: a timebase that is to stop stops, and its channels go off. -/
theorem tbStop_effect {t : Nat} (ht : t < 16) (s : State) :
    ((s.tbStop t).tb t).run = .stopped ∧ ((s.tbStop t).tb t).stopPend = false ∧
    ∀ n ∈ stackChans t, ((s.tbStop t).chan n).req = false ∧ ((s.tbStop t).chan n).gc = false := by
  have hlt (m : Nat) (hm : m ∈ stackChans t) : m < 192 := by
    have := mem_stackChans.mp hm
    omega
  unfold State.tbStop
  extract_lets u v
  have htb : (v.forceLows (stackChans t) v.now).tb t = v.tb t := (tbs_forceLows (.refl v) _ _).tb t
  rw [htb, State.tb_modTb_same _ _ _ ht]
  exact ⟨rfl, rfl, fun n hn => forceLows_quiet hlt hn v _⟩

/-! ### What a load point leaves of its timebase -/

section
variable {s : State} {t : Nat} {half : Bool} {nt : DWord} {zero : State → State}
  (hc : s.ledBy t = [] ∨ s.stg.pendings = [])
include hc

theorem loadAt_stops (ht : t < 16) (hstop : (s.tb t).stopPend = true) : ((s.loadAt t half nt zero).tb t).run = .stopped ∧
    ((s.loadAt t half nt zero).tb t).stopPend = false ∧
    ∀ n ∈ stackChans t, ((s.loadAt t half nt zero).chan n).req = false ∧ ((s.loadAt t half nt zero).chan n).gc = false := by
  have hbound := (boundaryA_tbs hc nt).tb t
  have heq : s.loadAt t half nt zero = (s.boundaryA (s.ledBy t) nt).tbStop t := by
    unfold State.loadAt
    dsimp only
    refine if_pos ?_
    change (((s.boundaryA (s.ledBy t) nt).tb t).stopPend || ((s.boundaryA (s.ledBy t) nt).tb t).run == .stopped) = true
    rw [hbound, hstop]
    rfl
  rw [heq]
  exact tbStop_effect ht _

theorem loadAt_tb (hstop : (s.tb t).stopPend = false) (hrun : (s.tb t).run ≠ .stopped) :
    (s.loadAt t half nt zero).tb t = (zero (s.boundaryA (s.ledBy t) nt)).tb t := by
  have hbound := (boundaryA_tbs hc nt).tb t
  unfold State.loadAt
  extract_lets lead es u v w x y
  have hu : u = s.boundaryA (s.ledBy t) nt := rfl
  have hgoes : ¬ ((u.tb t).stopPend || (u.tb t).run == .stopped) = true := by
    rw [hu, hbound, hstop]
    simpa using hrun
  rw [if_neg hgoes]
  have hw : SameTbs v w := tbs_stackLoad (.refl v) t half _
  have hx : SameTbs v x := tbs_of_only (only_sarAtLoad w t half (Only.refl [.regs, .sar] w) (by decide) (by decide)) hw
  have hy : SameTbs v y := tbs_forNums _ (fun i _ hu => boundaryB_tbs hu t half i) hx
  exact (tbs_opsAt hy es).tb t

end

theorem boundaryA_now (s : State) (es : List Nat) (nt : DWord) : (s.boundaryA es nt).now = s.now := by
  have honly : Only timeless s (s.boundaryA es nt) := by simp +decide only [only_boundaryA, Only.refl]
  exact honly.keeps_now

/-- What the zero or half-period of a running timebase leaves of it. -/
theorem zeroTaken_tb {t : Nat} (ht : t < 16) (s : State) (half : Bool) : ((State.zeroTaken t half s).tb t).run = (s.tb t).run ∧
    ((State.zeroTaken t half s).tb t).half = half ∧
    ((State.zeroTaken t half s).tb t).zeroAt = if half then (s.tb t).zeroAt else s.now := by
  unfold State.zeroTaken
  cases half with
  | true =>
    rw [if_pos rfl, State.tb_modTb_same _ _ _ ht]
    exact ⟨rfl, rfl, rfl⟩
  | false =>
    rw [if_neg Bool.false_ne_true]
    have htail : SameTbs s (forNums (stackChans t) (fun n s => s.tailEdges n) s) := by
      refine tbs_forNums _ (fun n u hu => ?_) (.refl s)
      unfold State.tailEdges
      dsimp only
      exact tbs_modChan (tbs_ite (tbs_modChan hu n _) hu) n _
    have hnow : (forNums (stackChans t) (fun n s => s.tailEdges n) s).now = s.now :=
      (only_forNums (l := [.regs, .pwm, .gdl, .trp]) _ _ (fun n u hu => only_tailEdges u n hu (by decide) (by decide) (by decide) (by decide))
        (Only.refl _ s)).keeps_now
    have htb := htail.tb t
    generalize forNums (stackChans t) (fun n s => s.tailEdges n) s = u at htb hnow
    obtain ⟨hrun, hhalf, hzero⟩ := tbZero_core u t
    rw [hrun, hhalf, hzero, State.zeroMarked, State.tb_modTb_same _ _ _ ht]
    exact ⟨by rw [htb], rfl, hnow⟩

theorem tbStart_tb {t : Nat} (ht : t < 16) (s : State) (nt : Option DWord) : ((s.tbStart t nt).tb t).run = .running ∧
    ((s.tbStart t nt).tb t).half = false ∧ ((s.tbStart t nt).tb t).zeroAt = s.now := by
  obtain ⟨hrun, hhalf, hzero⟩ := tbStart_core s t nt
  rw [hrun, hhalf, hzero, State.runMarked, State.tb_modTb_same _ _ _ ht]
  exact ⟨rfl, rfl, rfl⟩

/-! ### The obligation -/

/-- No commit applies at the load points of a timebase that leads no engine, or where none waits. -/
theorem no_commit_at {s : State} {t : Nat} (h : (∀ e < 8, s.leadTb e ≠ t) ∨ s.pair = false ∧ s.stg.pendings = []) (n : Nat) :
    (s.advanceTo n).ledBy t = [] ∨ (s.advanceTo n).stg.pendings = [] := by
  rcases h with hlead | ⟨-, hnone⟩
  · refine .inl (List.eq_nil_iff_forall_not_mem.mpr fun e he => ?_)
    obtain ⟨hlt, heq⟩ := mem_ledBy.mp he
    rw [leadTb_advanceTo] at heq
    exact hlead e hlt heq
  · refine .inr ?_
    simp only [advanceTo_fields, hnone]

theorem tb_advanceTo (s : State) (n t : Nat) : (s.advanceTo n).tb t = s.tb t := by
  have hpwm : (s.advanceTo n).pwm = s.pwm := by simp only [advanceTo_fields]
  rw [State.tb, State.tb, hpwm]

/-- Settles O30: an index counts with its own timebase; without a commit of the boundary the timebase goes on from its settings, and one
that is to stop stops with its channels. -/
theorem loadPointsBeginPeriods : Obligations.LoadPointsBeginPeriods := by
  unfold Obligations.LoadPointsBeginPeriods
  refine ⟨?index, ?runs, ?starts, ?stops, ?unlocked⟩
  case index =>
    rintro i t half s hctl (⟨rfl, hrun, hhalf⟩ | ⟨rfl, hrun, hsome⟩)
    · exact ⟨_, execLoadPoint_due hctl hrun hhalf, fun e he => loadPoint_idx s t half he⟩
    · obtain ⟨⟨at_, nt⟩, hz⟩ := Option.isSome_iff_exists.mp hsome
      exact ⟨_, execTimebaseFirstZero_due hctl hrun hz, fun e he => firstZero_idx s t at_ nt he⟩
  case runs =>
    intro t half s hctl hrun hstop hhalf hcommit
    refine ⟨_, execLoadPoint_due hctl hrun hhalf, loadPoint_now s t half, ?_⟩
    have htb := tb_advanceTo s (s.nextLoad t).1 t
    have hc := no_commit_at hcommit (s.nextLoad t).1
    have hnow := loadAt_now (t := t) (s := s.advanceTo (s.nextLoad t).1) (zeroTaken_keeps t half) half (s.advanceTo (s.nextLoad t).1).ntFine
    unfold State.loadPoint
    dsimp only
    generalize s.advanceTo (s.nextLoad t).1 = u at htb hc hnow
    rw [hnow, loadAt_tb hc (by rw [htb, hstop]) (by rw [htb, hrun]; decide)]
    obtain ⟨hrun', hhalf', hzero'⟩ := zeroTaken_tb t.isLt (u.boundaryA (u.ledBy t) u.ntFine) half
    rw [hrun', hhalf', hzero', (boundaryA_tbs hc _).tb t, boundaryA_now, htb]
    exact ⟨hrun, rfl, rfl⟩
  case starts =>
    intro t at_ nt s hctl hrun hstop hz hcommit
    refine ⟨_, execTimebaseFirstZero_due hctl hrun hz, firstZero_now s t at_ nt, ?_⟩
    have htb := tb_advanceTo s at_ t
    have hc := no_commit_at hcommit at_
    have hnow := loadAt_now (t := t) (s := s.advanceTo at_) (tbStart_keeps t nt) false (nt.getD (s.advanceTo at_).ntFine)
    unfold State.firstZero
    dsimp only
    generalize s.advanceTo at_ = u at htb hc hnow
    rw [hnow, loadAt_tb hc (by rw [htb, hstop]) (by rw [htb, hrun]; decide)]
    obtain ⟨hrun', hhalf', hzero'⟩ := tbStart_tb t.isLt (u.boundaryA (u.ledBy t) (nt.getD u.ntFine)) nt
    exact ⟨hrun', hhalf', by rw [hzero', boundaryA_now]⟩
  case stops =>
    intro t half s hctl hrun hstop hhalf hcommit
    refine ⟨_, execLoadPoint_due hctl hrun hhalf, loadPoint_now s t half, ?_⟩
    exact loadAt_stops (no_commit_at hcommit _) t.isLt (by rw [tb_advanceTo, hstop])
  case unlocked =>
    intro t half s hctl
    constructor
    · change execLoadPoint t half s = _
      unfold execLoadPoint
      simp [hctl]
    · change execTimebaseFirstZero t s = _
      unfold execTimebaseFirstZero
      split
      · simp [hctl]
      · rfl

end Sys2Proof.Machine
end

section
/-! Commands that act, I: the engines' periods (R31, R94, R101). -/

-- The proofs are elaborated one after the other: this bounds the threads of the compiler, whose stacks count as its memory.
set_option Elab.async false

namespace Sys2Proof.Machine

/-! ### Two things that a command does -/

theorem Completes.imp {c : Instr} {s : State} {P Q : State → Prop} (h : Completes c s P) (hPQ : ∀ t, P t → Q t) : Completes c s Q := by
  obtain ⟨t, hexec, hP⟩ := h
  exact ⟨t, hexec, hPQ t hP⟩

/-- What holds of the state that a command leaves, with the frame of the command (O7). -/
theorem Completes.framed {c : Instr} {s : State} {P : State → Prop} (h : Completes c s P) :
    Completes c s fun t => P t ∧ Only (touched c) s t := by
  obtain ⟨t, hexec, hP⟩ := h
  exact ⟨t, hexec, hP, commandsChangeOnlyTheirParts c s t hexec⟩

/-- Time apart, a command changes only the other parts it may. -/
theorem Only.at_time {l : List Part} {s t : State} (h : Only (.now :: .nt :: l) s t) : Only l { s with now := t.now, nt := t.nt } t := by
  intro p hp
  have hsame : p ≠ .now → p ≠ .nt → s.same t p := fun hnow hnt => h p (by simp [hnow, hnt, hp])
  cases p with
  | now => rfl
  | nt => rfl
  | _ => exact hsame (by decide) (by decide)

/-! ### A run of a graph keeps the period -/

/-- A run of a graph stays in its period. -/
structure Engine.SamePeriod (n n' : Engine) : Prop where
  started : n'.started = n.started
  idx : n'.idx = n.idx

theorem Engine.SamePeriod.trans {n n' n'' : Engine} (h : n.SamePeriod n') (h' : n'.SamePeriod n'') : n.SamePeriod n'' :=
  ⟨h'.started.trans h.started, h'.idx.trans h.idx⟩

section
variable (s : State) (e : Nat) (img : Image)

theorem blockIo_period (b : BlockRec) (x : Nat → Word) (st : List DWord) (g : GRun) : g.eng.SamePeriod (s.blockIo e b x st g).2.eng := by
  unfold State.blockIo
  dsimp only
  split
  case h_1 =>
    split
    · split <;> exact ⟨rfl, rfl⟩
    · exact ⟨rfl, rfl⟩
  case h_12 => split <;> exact ⟨rfl, rfl⟩
  all_goals exact ⟨rfl, rfl⟩

theorem block_period (j : Nat) (b : BlockRec) (g : GRun) : g.eng.SamePeriod (s.block e img j b g).eng := by
  unfold State.block
  extract_lets n x co st
  have hio := blockIo_period s e b x st g
  split
  rename_i o g' heq
  have hg : g.eng.SamePeriod g'.eng := by
    split at heq
    · rw [← (Prod.mk.inj heq).2]
      exact ⟨rfl, rfl⟩
    · split at heq
      · rw [← (Prod.mk.inj heq).2]
        exact ⟨rfl, rfl⟩
      · rw [heq] at hio
        exact hio
  exact ⟨hg.started, hg.idx⟩

theorem blocks_period (j : Nat) (bs : List BlockRec) (g : GRun) : g.eng.SamePeriod (s.blocks e img j bs g).eng := by
  induction bs generalizing j g with
  | nil => exact ⟨rfl, rfl⟩
  | cons b bs ih => exact (block_period s e img j b g).trans (ih (j + 1) _)

theorem template_period (g : GRun) : g.eng.SamePeriod (s.template e img g).eng := by
  unfold State.template
  extract_lets n co frame pr f tc armed ch0 on0 wSet g1
  split
  split
  extract_lets limited
  split
  split
  extract_lets off stack
  split
  split
  extract_lets stacked pred step
  split
  exact ⟨rfl, rfl⟩

theorem oscPeriod_period (n : Engine) : n.SamePeriod (s.oscPeriod e n) :=
  ⟨by simp only [State.oscPeriod], by simp only [State.oscPeriod]⟩

theorem runGraph_period : (s.engN e).SamePeriod (s.runGraph e img).eng := by
  have hblocks := blocks_period (s.periodView e) e img 0 img.blocks { eng := { s.engN e with shadow := [], digest := [] } }
  unfold State.runGraph
  dsimp only
  generalize (s.periodView e).blocks e img 0 img.blocks { eng := { s.engN e with shadow := [], digest := [] } } = g at hblocks ⊢
  have hran : (s.engN e).SamePeriod g.eng := ⟨hblocks.started, hblocks.idx⟩
  have htempl := hran.trans (template_period (s.periodView e) e img g)
  generalize (s.periodView e).template e img g = t at htempl ⊢
  by_cases hkind : img.kind = 0
  · rw [if_pos hkind]
    exact htempl.trans (oscPeriod_period _ e _)
  · rw [if_neg hkind]
    exact hran.trans (oscPeriod_period _ e _)

end

/-! ### The periods of O60 -/

theorem engineStart_acts {e : Fin 8} {img : Image} {s : State} (himg : (s.engN e).image = some img) (hexec : s.executes e = true)
    (harm : (s.engN e).armReset = false) (hstart : (s.engN e).started = false) (hready : s.sampleReady e = true) :
    Completes (.engineStart e) s fun t => s.startInstant e ≤ t.now ∧ (t.engN e).started = true ∧ (t.engN e).idx = (s.engN e).idx ∧
      (∀ k ∈ (s.asSeen e).servedBy e, (t.zone k).pullSeen = false) ∧ t.pwm = s.pwm ∧ t.gdl = s.gdl := by
  have hclause := enginesRunAndPublishTheirPeriod.1 e img s himg hexec harm hstart hready
  refine hclause.framed.imp fun t ht => ?_
  obtain ⟨⟨hnow, hseen, -, hpwm, u, -, heng, a, b, hu⟩, honly⟩ := ht
  obtain ⟨hstarted, hidx⟩ := runGraph_period u e img
  refine ⟨hnow, ?_, ?_, hseen, hpwm, honly.keeps_gdl (by simp [touched])⟩
  · rw [heng, hstarted, hu]
  · rw [heng, hidx, hu]

theorem publish_acts {e : Fin 8} {s : State} (hexec : s.executes e = true) (hstart : (s.engN e).started = true)
    (hpub : (s.engN e).published = false) (hmiss : s.missAt e = none) :
    Completes (.publish e) s fun t => (s.engN e).publishAt ≤ t.now ∧ t.engN e = { s.engN e with published := true } ∧
      ∀ x, (s.engN e).shadow = [x] → (s.asSeen e).slotStack e x.slot < 16 → x.chan < 12 →
        t.chan (12 * (s.asSeen e).slotStack e x.slot + x.chan) =
          (let c := s.chan (12 * (s.asSeen e).slotStack e x.slot + x.chan)
           if x.rising then { c with pendA := some x.value } else { c with pendB := some x.value }) := by
  obtain ⟨-, hpublish, -⟩ := enginesRunAndPublishTheirPeriod
  obtain ⟨t, ht, heng, hnow, -⟩ := hpublish e s hexec hstart hpub hmiss
  refine ⟨t, ht, hnow, heng, fun x hx hk hc => ?_⟩
  have hstate := (Host.Outcome.next.inj (ht.symm.trans (execPublish_onTime hexec hstart hpub hmiss)))
  have hlt : 12 * (s.asSeen e).slotStack e x.slot + x.chan < 192 := by omega
  rw [hstate, hx]
  change ((s.advanceTo (s.engN e).publishAt).edgePublished (s.asSeen e) e x).chan _ = _
  have hchan := chan_of_pwm (t := s.advanceTo (s.engN e).publishAt) (s := s) (by simp only [advanceTo_fields])
  rw [State.edgePublished, if_pos hk, modChan_chan hlt, hchan]

theorem graphComplete_acts {e : Fin 8} {s : State} (hexec : s.executes e = true) (hstart : (s.engN e).started = true)
    (hpub : (s.engN e).published = true) (hcomp : (s.engN e).complete = false) (hmiss : s.missAt e = none) :
    Completes (.graphComplete e) s fun t => (s.engN e).completeAt ≤ t.now ∧
      SetsEngine e { s.engN e with complete := true } { s with now := t.now, nt := t.nt } t := by
  obtain ⟨-, -, hcomplete, -⟩ := enginesRunAndPublishTheirPeriod
  refine (hcomplete e s hexec hstart hpub hcomp hmiss).imp fun t ht => ?_
  obtain ⟨heng, hothers, hnow, honly⟩ := ht
  exact ⟨hnow, heng, hothers, honly.at_time⟩

theorem mboxOutCapture_acts (e : Fin 8) (s : State) :
    Completes (.mboxOutCapture e) s fun t => t.engN e = { s.engN e with mboxCap := (s.engN e).mboxPub } :=
  ⟨s.mboxCapture e, rfl, (State.engN_modEng_same (s := s) e (fun n => { n with mboxCap := n.mboxPub }) e.isLt)⟩

end Sys2Proof.Machine
end

section
/-! Commands that act, II: the stage and its blocks, DMA channels, and firmware images (R75, R373, R389, R410 to R415, R458). -/

-- The proofs are elaborated one after the other: this bounds the threads of the compiler, whose stacks count as its memory.
set_option Elab.async false

namespace Sys2Proof.Machine

/-! ### The stage -/

section
variable {c : Src} {p bs : Bytes} {s : State}

theorem frdGraphLoad_acts {img : Image} (hs : s.storesCanonical) (hadm : s.admits c 0x0910 p) (hholds : s.holds (masterOf c) = true)
    (hpend : s.stagePending = false) (hmask : pb p 0 ≠ 0) (himg : s.imageCheck bs (pf p 16 4) = .ok img) :
    Completes (.frdGraphLoad c p (some bs)) s fun t =>
      (∀ e < 8, vget t.stg.images e none = if (pb p 0).testBit e then some img else vget s.stg.images e none) ∧ t.stg.st = .dirty
        ∧ t.live = s.live ∧ t.eng = s.eng ∧ Answered c 0x0910 .ok 0 s.nt64 s t := by
  refine (graphsAndBlocksAreStored.1 c p bs s hs hadm hholds hpend hmask).imp fun t ht => ?_
  rw [himg] at ht
  obtain ⟨heng, hlive, himages, hst, -, hanswer⟩ := ht
  exact ⟨himages, hst, hlive, heng, hanswer⟩

/-- A block that is queued for the NAND copies. -/
def cfgWriteOf (c : Src) (bs : Bytes) (recover : Bool) : CfgWrite :=
  { src := c, recover := recover, block := { version := BitVec.ofNat 64 (pf bs 24 8), bytes := bs } }

theorem blockWrite_queues (s : State) (c : Src) (bs : Bytes) (recover : Bool) :
    (s.blockWrite c bs recover).stg = { s.stg with writes := s.stg.writes ++ [cfgWriteOf c bs recover] } ∧
    Only [.stg] s (s.blockWrite c bs recover) := ⟨rfl, only_modStg _ (Only.refl _ s) (by decide)⟩

theorem blockWrite_took (s : State) (c : Src) (bs : Bytes) (recover : Bool) :
    ((s.took c).blockWrite c bs recover).stg = { s.stg with writes := s.stg.writes ++ [cfgWriteOf c bs recover] } ∧
    Only [.stg, .cmd, .mgt] s ((s.took c).blockWrite c bs recover) := by
  obtain ⟨hstg, honly⟩ := blockWrite_queues (s.took c) c bs recover
  have htook := only_took_cmd s c
  rw [hstg, htook.keeps_stg]
  exact ⟨rfl, (htook.mono (by decide)).trans (honly.mono (by decide)) fun _ hp => hp⟩

theorem stgSave_acts (hadm : s.admits c 0x0205 p) (hpair : s.pair = false) (hblock : s.blockRefusal (padTo (pf p 16 4) bs) = none) :
    Completes (.stgSave c p (some bs)) s fun t => t.stg = { s.stg with writes := s.stg.writes ++
      [{ src := c, recover := false
         block := { version := BitVec.ofNat 64 (pf (padTo (pf p 16 4) bs) 24 8), bytes := padTo (pf p 16 4) bs } }] }
        ∧ Only [.stg, .cmd, .mgt] s t := by
  refine ⟨_, congrArg Host.Outcome.next (obey_of_admits hadm _), ?_⟩
  have hcheck := (blockRefusal_of_only ((only_took_cmd s c).mono (by decide)) (padTo (pf p 16 4) bs)).trans hblock
  beta_reduce
  rw [mirrorRead_alone (by rwa [pair_took]), stgSave_ok hcheck]
  exact blockWrite_took s c _ false

theorem stgRecover_acts (hgiven : s.given c 0x0206 p = true) (hlen : pf p 0 4 ≤ 8388608) (hbs : memRead s.dram recBase (pf p 0 4) = bs)
    (hcrc : crc32c bs = pf p 4 4) (hblock : s.blockRefusal bs = none) :
    Completes (.stgRecover c p) s fun t => t.stg = { s.stg with writes := s.stg.writes ++
      [{ src := c, recover := true, block := { version := BitVec.ofNat 64 (pf bs 24 8), bytes := bs } }] }
        ∧ Only [.stg, .cmd, .mgt] s t := by
  refine ⟨_, congrArg Host.Outcome.next (acting_of_given hgiven _), ?_⟩
  have htook := only_took_cmd s c
  have hread : memRead (s.took c).dram recBase (pf p 0 4) = bs := by rw [htook.keeps_dram, hbs]
  have hcheck := (blockRefusal_of_only (htook.mono (by decide)) bs).trans hblock
  beta_reduce
  rw [stgRecover_ok hlen (by rw [hread, hcrc]) (by rw [hread, hcheck]), hread]
  exact blockWrite_took s c bs true

theorem configBlockWriteComplete_acts {w : CfgWrite} {rest : List CfgWrite} (hs : s.storesCanonical) (hw : s.stg.writes = w :: rest)
    (hsave : w.recover = false) (hrel : (s.saf.chA.rel && s.saf.chB.rel) = false) :
    Completes .configBlockWriteComplete s fun t =>
      t.stg.writes = rest ∧ t.stg.copy0 = some w.block ∧ t.stg.copy1 = some w.block ∧ Answered w.src 0x0205 .ok 0 s.nt64 s t := by
  obtain ⟨-, -, -, -, -, hwritten, -⟩ := graphsAndBlocksAreStored
  refine (hwritten w rest s hs hw hsave hrel).imp fun t ht => ?_
  obtain ⟨hstg, -, hanswer⟩ := ht
  exact ⟨by rw [hstg], by rw [hstg], by rw [hstg], hanswer⟩

theorem imgFwLoad_acts (hgiven : s.given c 0x0901 p = true) (hpair : s.pair = false) (hwrite : s.ops.fwWrite = none) (hk : pb p 0 < 2)
    (hrun : pb p 0 ≠ s.ops.runSlot) (hsvn : s.sec.svn ≤ pb (padTo (pf p 16 4) bs) 12) (hform : fwForm (padTo (pf p 16 4) bs) = true)
    (htrailer : s.trailerCheck (padTo (pf p 16 4) bs) (pf (padTo (pf p 16 4) bs) 60 4) 2 "NDZ IMG" (· < 8) = none) :
    Completes (.imgFwLoad c p (some bs)) s fun t =>
      (t.fwSlot (pb p 0)).valid = false ∧ t.fwSlot (1 - pb p 0) = s.fwSlot (1 - pb p 0)
        ∧ (∃ w, t.ops.fwWrite = some w ∧ w.src = c ∧ w.slot = pb p 0) ∧ Only [.ops, .log, .cmd, .mgt] s t := by
  refine ⟨_, congrArg Host.Outcome.next (acting_of_given hgiven _), ?_⟩
  beta_reduce
  have htook := only_took_cmd s c
  rw [mirrorRead_alone (by rwa [pair_took]), fwLoad_judged (by simpa) hk (by simpa) (by simpa) hform, trailerCheck_congr htook.keeps_sec,
    htrailer]
  have hturn := only_nandTurn_log (s.took c)
  have hops : (s.took c).nandTurn.ops = s.ops := hturn.keeps_ops.trans htook.keeps_ops
  have hparts : Only [.ops, .log, .cmd, .mgt] s (s.took c).nandTurn :=
    (htook.mono (by decide)).trans (hturn.mono (by decide)) fun _ hp => hp
  generalize (s.took c).nandTurn = u at *
  have hother : (u.setFwSlot (pb p 0) {}).fwSlot (1 - pb p 0) = s.fwSlot (1 - pb p 0) :=
    (fwSlot_setFwSlot_other u hk {}).trans (fwSlot_congr hops _)
  have hsame := fwSlot_setFwSlot_same u hk {}
  exact ⟨congrArg FwSlot.valid hsame, hother, ⟨_, rfl, rfl, rfl⟩, only_modOps _ (only_modOps _ hparts (by decide)) (by decide)⟩

end

/-! ### DMA channels -/

section
variable {n : Fin 32} {s : State} {d : DmaDesc}

theorem dmaStart_acts {desc : Bytes} (hst : (s.dmaN n).st = .idle ∨ (s.dmaN n).st = .error) (hram : s.dmaRingDram n = false)
    (hhead : (s.dmaN n).head ≠ s.dmaTail n) (hvalid : dmaRefusal (s.dmaQueue n) (dmaDescOf desc) = none) :
    Completes (.dmaStart n desc) s fun t => (t.dmaN n).head = (s.dmaN n).head ∧ (t.dmaN n).desc = some (dmaDescOf desc)
      ∧ (t.dmaN n).moved = 0 ∧ (t.dmaN n).st = (if s.dmaQueue n = 0 then .run else .wait) ∧ Only [.dma] s t := by
  obtain ⟨hbegun, honly⟩ := dmaStart_host (b := desc) hst hhead hram
  rw [Begun, hvalid] at hbegun
  obtain ⟨hhead', hdesc, hmoved, hgoes, -⟩ := hbegun
  exact ⟨_, rfl, hhead', hdesc, hmoved, hgoes, honly hvalid⟩

theorem dmaDescTailWrite_acts {v : Word} (hs : s.storesCanonical) (hv : v.toNat < s.dmaDepth n) :
    Completes (.dmaDescTailWrite n v) s (SetsReg .dmaDescTail n 0 (BitVec.ofNat 64 v.toNat) s) := by
  obtain ⟨-, -, -, -, htail, -⟩ := dmaChannelsMoveWhatTheyAreTold
  exact htail n v s hs hv

theorem dmaRunStart_acts (hst : (s.dmaN n).st = .run ∨ (s.dmaN n).st = .wait) (hq : s.dmaQueue n ≠ 0) (hpaced : (s.dmaN n).paced = false)
    (hhigh : s.dmaHigh n ≤ s.dmaFill n) (hdesc : (s.dmaN n).desc = some d) :
    Completes (.dmaRunStart n) s fun t => t.dmaN n = { s.dmaN n with paced := true, st := .run } ∧ Only [.dma] s t := by
  refine (dmaRunStart_effect hst hq hpaced).imp fun t ht => ?_
  rw [if_pos hhigh, hdesc] at ht
  exact ht

theorem dmaFlushTimeout_acts (hst : (s.dmaN n).st = .run ∨ (s.dmaN n).st = .wait) (hcfg : s.lv .dmaChCfg n 0 7 4 ≠ 0)
    (hq : s.dmaQueue n ≠ 0) (hq' : s.dmaQueue n ≠ 3) (hflush : (s.dmaN n).flush = false) (hfill : 0 < s.dmaFill n)
    (hlow : s.dmaFill n < s.dmaHigh n) (hdesc : (s.dmaN n).desc = some d) :
    Completes (.dmaFlushTimeout n) s fun t =>
      t.dmaN n = { s.dmaN n with paced := true, flush := true, st := .run } ∧ s.flushAt n ≤ t.now ∧ Only [.now, .nt, .dma] s t := by
  refine (dmaFlushTimeout_effect hst hcfg hq hq' hflush).imp fun t ht => ?_
  rw [if_pos ⟨hfill, hlow⟩, hdesc] at ht
  exact ht

/-- A burst between memories takes nothing out of a queue. -/
theorem burstLeft_memory (hostData : Bytes) (hq : s.dmaQueue n = 0) : s.burstLeft n d hostData = s.burstSent n d hostData := by
  obtain ⟨honly, -⟩ := burstSent_effect s n d hostData
  have hqueue : (s.burstSent n d hostData).dmaQueue n = 0 := by rw [State.dmaQueue, State.lv, honly.keeps_live]; exact hq
  exact if_neg (by simp [hqueue])

theorem burstPut_dram (u : State) (bs : Bytes) (hq : u.dmaQueue n ≠ 3) (hdst : d.dstDram = true) : Only [.dram] u (u.burstPut n d bs) := by
  rw [State.burstPut, if_neg hq, if_pos hdst]
  simp +decide only [only_mk, Only.refl, or_true, true_or]

theorem burstSent_parts (hostData : Bytes) (hq : s.dmaQueue n = 0) (hdst : d.dstDram = true) :
    Only [.free, .regs, .dram] s (s.burstSent n d hostData) := by
  have hread := burstRead_only s n d
  have hqueue : (s.burstRead n d).dmaQueue n = 0 := by rw [State.dmaQueue, State.lv, hread.keeps_live]; exact hq
  have hput := burstPut_dram (s.burstRead n d) ((s.burstRead n d).burstData n d (s.burstLen n d) hostData) (by rw [hqueue]; decide) hdst
  exact (hread.mono (by decide)).trans (hput.mono (by decide)) fun _ hp => hp

theorem dmaBurst_acts {hostData next : Bytes} (hs : s.storesCanonical) (hdesc : (s.dmaN n).desc = some d) (hq : s.dmaQueue n = 0)
    (hgrants : s.dramGrants n d = true) (hst : (s.dmaN n).st = .run) (hmore : (s.dmaN n).moved + s.burstLen n d < d.len)
    (hdst : d.dstDram = true) :
    Completes (.dmaBurst n hostData next) s fun t =>
      t.dmaN n = { s.dmaN n with moved := (s.dmaN n).moved + s.burstLen n d, turn := s.dmaTurn, burstOut := false }
        ∧ t.dram = memWrite s.dram (d.dst + (s.dmaN n).moved) (s.burstData n d (s.burstLen n d) hostData)
        ∧ Only [.free, .regs, .dma, .dram] s t := by
  have hmay := mayBurst_memory (d := d) hq hst
  obtain ⟨hchan, -⟩ := dmaBurst_memory (hostData := hostData) (next := next) hs hdesc hq hgrants hst hmore
  obtain ⟨-, honly, -⟩ := dmaBurst_goesOn (hostData := hostData) (next := next) hdesc hmay hgrants hmore
  have hput := dmaBurst_puts (hostData := hostData) (next := next) hdesc hmay hgrants (by omega) hmore
  rw [DataPut, if_pos hdst] at hput
  rw [burstLeft_memory hostData hq] at honly
  exact ⟨_, rfl, hchan, hput.1, ((burstSent_parts hostData hq hdst).mono (by decide)).trans (honly.mono (by decide)) fun _ hp => hp⟩

theorem dmaAbort_acts (hst : (s.dmaN n).st = .run) (hburst : s.bursting n = true) :
    Completes (.dmaAbort n) s fun t => t.dmaN n = { s.dmaN n with st := .aborting, abortAt := s.now, burstOut := false } ∧ Only [.dma] s t :=
  ⟨_, congrArg Host.Outcome.next (dmaAbort_bursting hst hburst), dmaN_modDma s n _, only_modDma _ _ (Only.refl _ s) (by decide)⟩

theorem dmaAbortComplete_acts (hs : s.storesCanonical) (hdesc : (s.dmaN n).desc = some d) (hram : s.dmaRingDram n = false)
    (hst : (s.dmaN n).st = .aborting) :
    Completes (.dmaAbortComplete n) s fun t =>
      (t.dmaN n).st = .idle ∧ (t.dmaN n).desc = none ∧ (t.dmaN n).head = ((s.dmaN n).head + 1) % s.dmaDepth n
        ∧ HostTakes ((s.reg .dmaDescBase n).toNat + 32 * (s.dmaN n).head + 24)
            (leBytes 8 (dmaStatus .aborted 0 (d.len - (s.dmaN n).moved) false)) s t := by
  obtain ⟨hchan, hstatus, -⟩ := dmaStop_effect hdesc
  refine ⟨_, if_pos hst, ?_⟩
  beta_reduce
  rw [hchan]
  exact ⟨rfl, rfl, rfl, hostTakes_of_memWrite hs (hstatus.host hram).1⟩

theorem dmaHostError_acts {cause : Fin 3} (hs : s.storesCanonical) (hdesc : (s.dmaN n).desc = some d) (hst : (s.dmaN n).st = .run)
    (hram : s.dmaRingDram n = false) :
    Completes (.dmaHostError n cause false) s fun t =>
      (t.dmaN n).st = .error ∧ (t.dmaN n).head = (s.dmaN n).head
        ∧ HostTakes ((s.reg .dmaDescBase n).toNat + 32 * (s.dmaN n).head + 24)
            (leBytes 8 (dmaStatus .error (cause.val + 1) (d.len - (s.dmaN n).moved) false)) s t := by
  obtain ⟨hchan, hstatus⟩ := dmaError_transfer (cause := cause) (lastBeat := false) hdesc (.inl hst) rfl
  refine ⟨_, rfl, ?_⟩
  beta_reduce
  rw [hchan]
  exact ⟨rfl, rfl, hostTakes_of_memWrite hs (hstatus.host hram).1⟩

end

end Sys2Proof.Machine
end

section
/-! Commands that act, III: keys, items, roles, the arbiter, triggers, tests, the loop and the management port. -/

-- The proofs are elaborated one after the other: this bounds the threads of the compiler, whose stacks count as its memory.
set_option Elab.async false

namespace Sys2Proof.Machine

variable {s : State}

/-! ### Commands, keys and anchors -/

theorem verify_acts {u : Fin 7} {f : Flight} (hs : s.storesCanonical) (hwork : s.unitWork u .verify = some f) (hdue : s.now ≤ f.deadline)
    (hok : s.verifyFail f = none) : Completes (.verify u) s fun t => vget t.cmd.units u none = none ∧ Queued f .place s t := by
  obtain ⟨-, -, -, -, -, -, -, hverify, -⟩ := workItemsLeadToAcceptance
  refine (hverify u f s hs hwork hdue).imp fun t ht => ?_
  rw [hok] at ht
  obtain ⟨hunit, -, hqueued, -⟩ := ht
  exact ⟨hunit, hqueued⟩

theorem grantUnwrap_acts {r : Fin 129} {g : PendGrant} {kg : Bytes} (hs : s.storesCanonical)
    (hg : s.sec.grants.find? (fun g => g.ring = r && s.unwrapping g && (g.ring.val != 128 || s.mgt.vmgt)) = some g)
    (hkept : g.erased = false) (hplant : g.plant = false) (hkg : s.unwrap g.payload = some kg) :
    Completes (.grantUnwrap r) s fun t =>
      (∃ k : SessKey, (t.rep r).key = some k ∧ k.keyId = BitVec.ofNat 16 (pf g.payload 2 2))
        ∧ Answered g.src 0x0401 .ok (pf g.payload 4 4) s.nt64 s t := by
  obtain ⟨-, -, -, -, -, hunwrap, -⟩ := grantsInstallTheirKeys
  refine (hunwrap r g s hs hg hkept hplant).imp fun t ht => ?_
  rw [hkg] at ht
  obtain ⟨-, hanswer, -, k, hrep, hid, -⟩ := ht
  exact ⟨⟨k, by rw [hrep], hid⟩, hanswer⟩

theorem anchorInstall_acts {c : Src} {p : Bytes} (hs : s.storesCanonical) (hadm : s.admits c 0x0403 p)
    (hfree : s.anchorRefusal (pb p 0) (pb p 1) = none) (hkeys : Config.keysValid ((p.drop 24).take 1952) ((p.drop 1976).take 97) = true) :
    Completes (.anchorInstall c p) s fun t =>
      t.anchor (pb p 0) = Anchor.make (pb p 0) (pb p 1) ((p.drop 24).take 1952) ((p.drop 1976).take 97)
        ∧ Answered c 0x0403 .ok 0 s.nt64 s t := by
  obtain ⟨-, -, -, hinstall, -⟩ := keysAnchorsAndTampers
  refine (hinstall c p s hs hadm hfree).imp fun t ht => ?_
  rw [if_pos hkeys] at ht
  obtain ⟨hanchor, -, -, -, hanswer⟩ := ht
  exact ⟨hanchor, hanswer⟩

/-! ### The pair and the arbiter -/

theorem itemFrameReceive_acts {f : Bytes} (hpair : s.pair = true) (hlink : s.twn.link = .up) (hrole : s.twn.role = false)
    (hcrc : crc32cOk f = true) (hkind : pb f 0 = 2) (hno : (itemOf f).no = s.twn.rxItem + 1) (hop : (itemOf f).opcode = chunkItem) :
    Completes (.itemFrameReceive f) s fun t =>
      t.twn.rxItem = (itemOf f).no ∧ t.twn.itemBuf = s.twn.itemBuf ++ (itemOf f).payload := by
  obtain ⟨-, -, -, -, -, -, -, -, -, -, -, -, hchunk, -⟩ := framesCrossTheRhizome
  exact hchunk f s hpair hlink hrole hcrc hkind hno hop

theorem roleSwapRequest_acts {d : DueSlot} {t0 : Nat} {rest : List (DueSlot × Nat)} (hspore : s.twn.swapSpore = (d, t0) :: rest)
    (hreq : s.twn.swapReq = false) (hrole : s.twn.role = true) (hrun : (s.tb (s.leadTb s.refEng)).run = .running)
    (hdue : t0 ≤ (s.tb (s.leadTb s.refEng)).zeroAt) :
    Completes .roleSwapRequest s fun t =>
      t.twn = { s.twn with swapReq := true, swapSpore := (d, s.now + 320000) :: rest } ∧ Only [.twn] s t := by
  obtain ⟨-, -, -, -, -, -, -, -, -, -, -, -, -, hask, -⟩ := rolesAndOwnership
  refine (hask d t0 rest s hspore hreq hrole hrun).imp fun t ht => ?_
  rwa [if_pos hdue] at ht

theorem arbiterBbmExpiry_acts {p : Fin 2} {t0 : Nat} (hbbm : s.arb.bbm = some (p, t0)) (hlives : (s.arbPort p).failed = false) :
    Completes .arbiterBbmExpiry s fun t => t0 + 320 * s.lv .twnArbCfg 0 0 21 16 ≤ t.now
      ∧ t.arbPort p = { s.arbPort p with active := true, own := true } ∧ t.arb.bbm = none := by
  obtain ⟨-, -, -, -, -, -, hgrant, -⟩ := theArbiterGrantsOneModule
  refine (hgrant p t0 s hbbm).imp fun t ht => ?_
  rw [hlives] at ht
  obtain ⟨hnow, hport, -, hnone⟩ := ht
  exact ⟨hnow, hport, hnone⟩

theorem arbiterSwapReq_acts {p : Fin 2} (hstrap : s.arb.strapped = true) (hactive : (s.arbPort p).active = true)
    (hreq : (s.arbPort p).swapReq = true) (hlives : (s.arbPort p).failed = false) (hbbm : s.arb.bbm = none)
    (hready : (s.arbPort (1 - p.val)).isReady = true) :
    Completes (.arbiterSwapReq p) s fun t =>
      t.arbPort p = { s.arbPort p with swapReq := false, active := false, own := false }
        ∧ t.arb.bbm = some (Fin.ofNat 2 (1 - p.val), s.now) ∧ Only [.arb] s t := by
  obtain ⟨-, -, -, -, -, -, -, -, hswap, -⟩ := theArbiterGrantsOneModule
  refine (hswap p s hstrap hactive hreq hlives hbbm).imp fun t ht => ?_
  rwa [if_pos hready] at ht

/-! ### Triggers, tests and trainings -/

theorem ptmReceive_acts {p : Bytes} (hs : s.storesCanonical) (hon : s.lvb .ntPtmCtrl 0 0 1 = true) (hlen : 56 ≤ p.length)
    (hok : s.ptmAccepts p = true) :
    Completes (.ptmReceive p) s (UnitsTriggered (s.lv .ntPtmCtrl 0 0 23 16) (BitVec.ofNat 64 (pf p 16 8)) s) := by
  obtain ⟨-, -, -, -, hreceive, -⟩ := plantTriggersAreSentAndJudged
  refine (hreceive p s hs hon).imp fun t ht => ?_
  rw [if_neg (by simp [hok, hlen])] at ht
  exact ht.2

theorem sequenceTrigger_acts (hs : s.storesCanonical) (hon : s.sarOn = true) (hctl : s.ctlRuns = true) (hnew : s.sar.trigAt ≠ some s.nsNow)
    (hidle : s.sar.conv = .idle) :
    Completes .sequenceTrigger s fun t => t.reg .adcSeqTrig = 0 ∧ t.sar = { s.sar with
      trigAt := some s.nsNow, conv := .slot 0 0 0, startAt := 32 * (s.nsNow + 1), convEnd := 32 * (s.nsNow + 1) + 8000 } := by
  refine (theConverterTakesTriggersAndResults.1 s hs hon hctl hnew).imp fun t ht => ?_
  rwa [if_pos hidle] at ht

theorem urgentRequest_acts {i : Fin 16} (hon : s.sarOn = true) (hctl : s.ctlRuns = true) (hidle : s.sar.conv = .idle) :
    Completes (.urgentRequest i) s fun t => t.sar = { s.sar with conv := .urgent i, convEnd := ctlTick s.now + 8000 } := by
  have hasked (u : State) (hu : u.sar = s.sar) (hnow : u.now = s.now) (hon' : u.sarOn = true) (hctl' : u.ctlRuns = true) :
      (u.sarUrgent i).sar = { s.sar with conv := .urgent i, convEnd := ctlTick s.now + 8000 } := by
    rw [State.sarUrgent, if_neg (by simp [hon', hctl']), if_pos (by rw [hu, hidle])]
    simp only [State.modSar, hu, hnow]
  exact ⟨_, rfl, hasked _ rfl rfl hon hctl⟩

theorem gdlOstStart_acts {mask : BitVec 16} {k : Nat} (hk : k < 16) (hmask : mask.getLsbD k = true) (hmay : s.ostMay k = true) :
    Completes (.gdlOstStart mask) s fun t => (t.gs k).ost = .running := by
  refine (testsAndTrainingsRunPerStack.1 mask s).imp fun t ht => ?_
  have hstack := ht k hk
  rw [if_pos (by simp [hmask, hmay])] at hstack
  exact hstack.1

theorem gdlTrain_acts {mask : BitVec 16} {k : Nat} (hlink : s.linkMode = true) (hk : k < 16) (hmask : mask.getLsbD k = true)
    (hconf : s.configured k = true) :
    Completes (.gdlTrain mask) s fun t => (t.gs k).link = .training ∧ (t.gs k).trainAt = s.now ∧ (t.gs k).crcRun = 0 := by
  obtain ⟨-, -, -, htrain, -⟩ := testsAndTrainingsRunPerStack
  refine (htrain mask s).imp fun t ht => ?_
  have hstack := ht k hk
  rw [if_pos (by simp [hlink, hmask, hconf])] at hstack
  obtain ⟨hgs, -⟩ := hstack
  exact ⟨by rw [hgs], by rw [hgs], by rw [hgs]⟩

/-! ### The loop and the management port -/

theorem referenceComparison_acts {err : Int} {q : Bool} (hst : s.clk.st = .acquire)
    (hnear : (centred 40000 (tdc err)).natAbs ≤ s.lockTol) (hcnt : s.lockCnt ≤ s.clk.lockRun + 1) :
    Completes (.referenceComparison err true q) s fun t =>
      t.clk.st = .locked ∧ t.clk.running = BitVec.ofNat 8 s.enabledOutputs := by
  obtain ⟨-, hacquire, -⟩ := comparisonsMoveTheLoop
  refine (hacquire err true q s hst).imp fun t ht => ?_
  rw [if_pos ⟨hnear, hcnt⟩] at ht
  obtain ⟨hlocked, hrunning, -⟩ := ht
  exact ⟨hlocked, hrunning⟩

theorem command_acts {q : Byte} {b d p sig : Bytes} (hvmgt : s.mgt.vmgt = true) (hbusy : (s.takeMsg 0x10 q).mgtBusy = false)
    (hpair : s.pair = false) (hparts : mgtParts b = (d, p, sig)) (hst : s.ops.st ≠ .halted) (hstop : s.ops.st ≠ .stopping ∨ s.ops.cause ≠ 0x11)
    (hok : s.mgtRefusal b = none) :
    Completes (.command q b) s fun t =>
      t.sec.replay = vset s.sec.replay 128 (s.mgtReplay (pf d 0 2) (mgtSrc d).seq p)
        ∧ t.mgt.cmd = some { reqId := q, peer := s.msgPeer 0x10 q, cmd := { src := mgtSrc d, opcode := pf d 0 2, payload := p, at_ := s.now } } := by
  refine (command_effect hvmgt hbusy hpair hparts hst hstop).imp fun t ht => ?_
  rw [hok] at ht
  obtain ⟨-, hreplay, -, hcmd⟩ := ht
  exact ⟨hreplay, hcmd⟩

/-! ### The obligation -/

/-- Settles O60: each command where it may act, by what its own obligation says of it. -/
theorem commandsActWhereTheyMay : Obligations.CommandsActWhereTheyMay := by
  unfold Obligations.CommandsActWhereTheyMay
  refine ⟨?loadPoint, ?firstZero, ?engineStart, ?publish, ?graphComplete, ?capture, ?graphLoad, ?save, ?recover, ?written, ?dmaStart, ?dmaTail,
    ?dmaRun, ?dmaFlush, ?dmaBurst, ?dmaAbort, ?dmaAborted, ?dmaError, ?fwLoad, ?verify, ?unwrap, ?anchor, ?item, ?swapRequest, ?bbm, ?swap,
    ?ptm, ?trigger, ?urgent, ?test, ?train, ?comparison, ?command⟩
  case loadPoint =>
    exact fun t half s hctl hrun hhalf =>
      ⟨_, execLoadPoint_due hctl hrun hhalf, loadPoint_now s t half, fun e he => loadPoint_idx s t half he⟩
  case firstZero =>
    exact fun t at_ nt s hctl hrun hz =>
      ⟨_, execTimebaseFirstZero_due hctl hrun hz, firstZero_now s t at_ nt, fun e he => firstZero_idx s t at_ nt he⟩
  case engineStart => exact fun e img s himg hexec harm hstart hready => engineStart_acts himg hexec harm hstart hready
  case publish => exact fun e s hexec hstart hpub hmiss => publish_acts hexec hstart hpub hmiss
  case graphComplete => exact fun e s hexec hstart hpub hcomp hmiss => graphComplete_acts hexec hstart hpub hcomp hmiss
  case capture => exact fun e s => mboxOutCapture_acts e s
  case graphLoad => exact fun c p bs img s hs hadm hholds hpend hmask himg => frdGraphLoad_acts hs hadm hholds hpend hmask himg
  case save => exact fun c p bs s hadm hpair hblock => stgSave_acts hadm hpair hblock
  case recover => exact fun c p bs s hgiven hlen hbs hcrc hblock => stgRecover_acts hgiven hlen hbs hcrc hblock
  case written => exact fun w rest s hs hw hsave hrel => configBlockWriteComplete_acts hs hw hsave hrel
  case dmaStart => exact fun n desc s hst hram hhead hvalid => dmaStart_acts hst hram hhead hvalid
  case dmaTail => exact fun n v s hs hv => dmaDescTailWrite_acts hs hv
  case dmaRun => exact fun n d s hst hq hpaced hhigh hdesc => dmaRunStart_acts hst hq hpaced hhigh hdesc
  case dmaFlush =>
    exact fun n d s hst hcfg hq hq' hflush hfill hlow hdesc => dmaFlushTimeout_acts hst hcfg hq hq' hflush hfill hlow hdesc
  case dmaBurst => exact fun n hostData next d s hs hdesc hq hgrants hst hmore hdst => dmaBurst_acts hs hdesc hq hgrants hst hmore hdst
  case dmaAbort => exact fun n s hst hburst => dmaAbort_acts hst hburst
  case dmaAborted => exact fun n d s hs hdesc hram hst => dmaAbortComplete_acts hs hdesc hram hst
  case dmaError => exact fun n cause d s hs hdesc hst hram => dmaHostError_acts hs hdesc hst hram
  case fwLoad =>
    exact fun c p bs s hgiven hpair hwrite hk hrun hsvn hform htrailer => imgFwLoad_acts hgiven hpair hwrite hk hrun hsvn hform htrailer
  case verify => exact fun u f s hs hwork hdue hok => verify_acts hs hwork hdue hok
  case unwrap => exact fun r g kg s hs hg hkept hplant hkg => grantUnwrap_acts hs hg hkept hplant hkg
  case anchor => exact fun c p s hs hadm hfree hkeys => anchorInstall_acts hs hadm hfree hkeys
  case item => exact fun f s hpair hlink hrole hcrc hkind hno hop => itemFrameReceive_acts hpair hlink hrole hcrc hkind hno hop
  case swapRequest => exact fun d t0 rest s hspore hreq hrole hrun hdue => roleSwapRequest_acts hspore hreq hrole hrun hdue
  case bbm => exact fun p t0 s hbbm hlives => arbiterBbmExpiry_acts hbbm hlives
  case swap =>
    exact fun p s hstrap hactive hreq hlives hbbm hready => arbiterSwapReq_acts hstrap hactive hreq hlives hbbm hready
  case ptm => exact fun p s hs hon hlen hok => ptmReceive_acts hs hon hlen hok
  case trigger => exact fun s hs hon hctl hnew hidle => sequenceTrigger_acts hs hon hctl hnew hidle
  case urgent => exact fun i s hon hctl hidle => urgentRequest_acts hon hctl hidle
  case test => exact fun mask k s hk hmask hmay => gdlOstStart_acts hk hmask hmay
  case train => exact fun mask k s hlink hk hmask hconf => gdlTrain_acts hlink hk hmask hconf
  case comparison => exact fun err q s hst hnear hcnt => referenceComparison_acts hst hnear hcnt
  case command =>
    exact fun q b d p sig s hvmgt hbusy hpair hparts hst hstop hok => command_acts hvmgt hbusy hpair hparts hst hstop hok

end Sys2Proof.Machine
end
